-- ==== Sys2Proof/Word.lean ====
section
/-! DEFINITION. The word types of the module and their plainest arithmetic: bytes, wide words, little-endian
assembly (R6) and the sparse canonical map that every table and memory of the model is kept in. -/

namespace Sys2Proof

/-- One byte. -/
abbrev Byte := BitVec 8

/-- A string of bytes, lowest offset first (R5). -/
abbrev Bytes := List Byte

/-- A 64-bit register or scalar word. -/
abbrev Word := BitVec 64

/-- A V register: 2,048 bits, byte 0 in the low bits (Table 2-2). -/
abbrev VReg := BitVec 2048

/-- A wide word of eight 128-bit slots (R45). -/
abbrev WideWord := BitVec 1024

/-- Bit `i` of a natural number, as 0 or 1. -/
def bitN (n i : Nat) : Nat := n / 2 ^ i % 2

/-- Bit `i` of a natural number, as a Boolean. -/
def bitB (n i : Nat) : Bool := n / 2 ^ i % 2 == 1

/-- The field [lo+w-1 : lo] of a natural number (R5). -/
def fieldN (n lo w : Nat) : Nat := n / 2 ^ lo % 2 ^ w

/-- A saturating event counter of `w` bits (R13). -/
def satAdd (w c n : Nat) : Nat := min (c + n) (2 ^ w - 1)

/-- Set bit `i` of a mask held as a natural number. -/
def setBitN (n i : Nat) : Nat := if bitB n i then n else n + 2 ^ i

/-- Clear bit `i` of a mask held as a natural number. -/
def clearBitN (n i : Nat) : Nat := if bitB n i then n - 2 ^ i else n

/-- A sparse table: key and value pairs in strictly rising key order, no entry equal to the table's default. -/
abbrev SMap (α : Type) := List (Nat × α)

/-- What key `k` reads as; an unlisted key reads as the default `d`. -/
def SMap.get {α : Type} (d : α) : SMap α → Nat → α
  | [], _ => d
  | (k, v) :: m, a => if k = a then v else SMap.get d m a

/-- List `v` at key `a`, keeping the keys rising. -/
def SMap.put {α : Type} : SMap α → Nat → α → SMap α
  | [], a, v => [(a, v)]
  | (k, w) :: m, a, v => if a < k then (a, v) :: (k, w) :: m else if a = k then (a, v) :: m else (k, w) :: SMap.put m a v

/-- Write `v` at key `a`, keeping the keys rising and listing no default. -/
def SMap.set {α : Type} [DecidableEq α] (d : α) (m : SMap α) (a : Nat) (v : α) : SMap α :=
  if v = d then m.filter (fun kv => kv.1 != a) else SMap.put m a v

/-- Change the value at key `a` by `f`. -/
def SMap.upd {α : Type} [DecidableEq α] (d : α) (m : SMap α) (a : Nat) (f : α → α) : SMap α :=
  SMap.set d m a (f (SMap.get d m a))

/-- The canonical form: every key above `lo`, keys strictly rising, no value equal to the default. -/
def SMap.wfFrom {α : Type} [DecidableEq α] (d : α) : Nat → SMap α → Bool
  | _, [] => true
  | lo, (k, v) :: m => decide (lo ≤ k) && decide (v ≠ d) && SMap.wfFrom d (k + 1) m

/-- The canonical form of a sparse table. -/
def SMap.wf {α : Type} [DecidableEq α] (d : α) (m : SMap α) : Bool := SMap.wfFrom d 0 m

/-- The entries with keys in [base, base + len). -/
def SMap.range {α : Type} (m : SMap α) (base len : Nat) : SMap α :=
  m.filter (fun kv => decide (base ≤ kv.1 ∧ kv.1 < base + len))

/-- The table without the entries with keys in [base, base + len). -/
def SMap.without {α : Type} (m : SMap α) (base len : Nat) : SMap α :=
  m.filter (fun kv => ! decide (base ≤ kv.1 ∧ kv.1 < base + len))

end Sys2Proof
end

