-- ==== Sys2Proof/Config.lean ====
section
/-! DEFINITION. What one module fixes and the spec leaves open: the free values (opaque, no value of theirs can be
proved) and the constants that manufacture or the tray gives. -/

namespace Sys2Proof
namespace Config

/-! Results of the approximate vector functions (R97): fixed functions of the input, the same on every tile. -/

/-- The module's own `VEXP2` candidate, used where it lies within the bound of Table 3-8 (log entry 3). -/
opaque exp2 : BitVec 32 → BitVec 32
/-- The module's own `VLOG2` candidate (log entry 3). -/
opaque log2 : BitVec 32 → BitVec 32
/-- Whether the module's `VRCP` takes the upper of the two faithful neighbours (log entry 3). -/
opaque rcpUp : BitVec 32 → Bool
/-- Whether the module's `VRSQ` takes the upper of the two faithful neighbours (log entry 3). -/
opaque rsqUp : BitVec 32 → Bool

/-! Values the spec leaves undefined, indexed by the state's counter `free` (log entry 2). -/

/-- A byte that the spec leaves undefined. -/
opaque freeByte : Nat → Byte
/-- A bit that the spec leaves undefined. -/
opaque freeBit : Nat → Bool
/-- A 32-bit value drawn from the security block's random source. -/
opaque freeWord32 : Nat → BitVec 32
/-- A 256-bit value drawn from the security block's random source. -/
opaque freeWord256 : Nat → BitVec 256
/-- A 4,096-bit value that the spec leaves undefined, such as a randomised signature. -/
opaque freeWord4096 : Nat → BitVec 4096

/-! What manufacture and the tray fix (R465, R498). -/

/-- Fuse `ROOT_DIGEST`: SHA-512 of the root public key record. -/
opaque rootDigest : BitVec 512
/-- Fuse `DEV_SECRET`. -/
opaque devSecret : BitVec 256
/-- Fuse `SERIAL`. -/
opaque serial : BitVec 64
/-- Fuse `MAC_BASE`. -/
opaque macBase : BitVec 48
/-- Fuse `LIFECYCLE`. -/
opaque lifecycle : BitVec 2
/-- What manufacture has written to flash bank A (0) or B (1): a whole firmware image (log entry 42). -/
opaque shippedBank : Nat → Bytes
/-- The modulus of the device identity key (R466). -/
opaque identityN : BitVec 4096
/-- The private exponent of the device identity key, which nothing reads out (R466). -/
opaque identityD : BitVec 4096
/-- The certificate chain of slot 0, in the form SPDM gives it (R466). -/
opaque certChain : Bytes
/-- The boot ROM (measurement 1 of Table 17-5). -/
opaque bootRom : Bytes
/-- The tray slot that the strap pins give (R498). -/
opaque traySlot : Fin 4

end Config
end Sys2Proof
end

