-- ==== Sys2Proof/Machine/Float.lean ====
section
/-! DEFINITION. Number formats (R70 to R74), exact values, correctly rounded encoding (R89, R95), and the lane
operations of the vector unit (R95 to R98). -/

namespace Sys2Proof.Machine

/-- A floating-point format (Table 3-1). `maxCode` is the magnitude code of the largest finite value. -/
structure Fmt where
  eb : Nat
  mb : Nat
  bias : Nat
  maxCode : Nat
  hasInf : Bool
  nan : Nat
  deriving DecidableEq, Repr

def fmtFP32 : Fmt := ⟨8, 23, 127, 0x7F7FFFFF, true, 0x7FC00000⟩
def fmtBF16 : Fmt := ⟨8, 7, 127, 0x7F7F, true, 0x7FC0⟩
def fmtFP16 : Fmt := ⟨5, 10, 15, 0x7BFF, true, 0x7E00⟩
def fmtE5M2 : Fmt := ⟨5, 2, 15, 0x7B, true, 0x7E⟩
def fmtE4M3 : Fmt := ⟨4, 3, 7, 0x7E, false, 0x7F⟩
def fmtE3M2 : Fmt := ⟨3, 2, 3, 0x1F, false, 0⟩
def fmtE2M3 : Fmt := ⟨2, 3, 1, 0x1F, false, 0⟩
def fmtE2M1 : Fmt := ⟨2, 1, 1, 0x7, false, 0⟩

/-- The width of an encoding in bits. -/
def Fmt.width (f : Fmt) : Nat := 1 + f.eb + f.mb

/-- The exponent of the format's smallest spacing, 1 − bias − f (R71). -/
def Fmt.emin (f : Fmt) : Int := 1 - (f.bias : Int) - (f.mb : Int)

/-- The exact value of an encoding: NaN, a signed infinity, or (−1)^neg × m × 2^e. -/
inductive FVal where
  | nan
  | inf (neg : Bool)
  | fin (neg : Bool) (m : Nat) (e : Int)
  deriving DecidableEq, Repr

/-- The value of an encoding (R71, Table 3-1). -/
def Fmt.decode (f : Fmt) (x : Nat) : FVal :=
  let mag := x % 2 ^ (f.eb + f.mb)
  let neg := bitB x (f.eb + f.mb)
  if f.maxCode < mag then
    if f.hasInf && mag == f.maxCode + 1 then .inf neg else .nan
  else
    let ex := mag / 2 ^ f.mb
    let man := mag % 2 ^ f.mb
    if ex = 0 then .fin neg man f.emin
    else .fin neg (2 ^ f.mb + man) (f.emin + ((ex : Int) - 1))

/-- A magnitude m × 2^e truncated to a spacing 2^eq: the whole spacings, the remainder, and the number of bits the
remainder is out of. -/
structure Quant where
  n : Nat
  rem : Nat
  sh : Nat
  eq : Int
  deriving DecidableEq, Repr

/-- Truncate m × 2^e to multiples of 2^eq. -/
def quantAt (m : Nat) (e eq : Int) : Quant :=
  if eq ≤ e then ⟨m * 2 ^ (e - eq).toNat, 0, 0, eq⟩
  else
    let sh := (eq - e).toNat
    ⟨m / 2 ^ sh, m % 2 ^ sh, sh, eq⟩

/-- Truncate m × 2^e, m > 0, to the format's precision at its magnitude (R90 step 1). -/
def Fmt.quant (f : Fmt) (m : Nat) (e : Int) : Quant :=
  quantAt m e (max (e + (Nat.log2 m : Int) - (f.mb : Int)) f.emin)

/-- Round to nearest, ties to even (R89). -/
def Quant.rne (q : Quant) : Nat :=
  if 2 ^ q.sh < 2 * q.rem ∨ (2 * q.rem = 2 ^ q.sh ∧ q.n % 2 = 1) then q.n + 1 else q.n

/-- Round stochastically with the generator output `r` (R90). -/
def Quant.stoch (q : Quant) (r : Nat) : Nat :=
  if 2 ^ 32 ≤ q.rem * 2 ^ 32 / 2 ^ q.sh + r then q.n + 1 else q.n

/-- The magnitude code of n spacings of 2^eq. -/
def Fmt.magCode (f : Fmt) (eq : Int) (n : Nat) : Nat := (eq - f.emin).toNat * 2 ^ f.mb + n

/-- Put a sign on a magnitude code. -/
def Fmt.sign (f : Fmt) (neg : Bool) (mag : Nat) : Nat := if neg then mag + 2 ^ (f.eb + f.mb) else mag

/-- Encode with round-to-nearest-even, overflow to infinity and the canonical NaN (R95). -/
def Fmt.encode (f : Fmt) (v : FVal) : Nat :=
  match v with
  | .nan => f.nan
  | .inf neg => f.sign neg (f.maxCode + 1)
  | .fin neg m e =>
    if m = 0 then f.sign neg 0
    else
      let q := f.quant m e
      f.sign neg (min (f.magCode q.eq q.rne) (f.maxCode + 1))

/-- Negate a value. -/
def FVal.neg : FVal → FVal
  | .nan => .nan
  | .inf n => .inf (!n)
  | .fin n m e => .fin (!n) m e

/-- The signed integer of a finite value in units of 2^e0, e0 at most its exponent. -/
def signedAt (neg : Bool) (m : Nat) (e e0 : Int) : Int :=
  let x : Int := (m * 2 ^ (e - e0).toNat : Nat)
  if neg then -x else x

/-- The exact sum; the sum of opposite equal values is +0 (R95). -/
def FVal.add : FVal → FVal → FVal
  | .nan, _ => .nan
  | _, .nan => .nan
  | .inf a, .inf b => if a = b then .inf a else .nan
  | .inf a, .fin _ _ _ => .inf a
  | .fin _ _ _, .inf b => .inf b
  | .fin n1 m1 e1, .fin n2 m2 e2 =>
    let e0 := min e1 e2
    let s := signedAt n1 m1 e1 e0 + signedAt n2 m2 e2 e0
    if s = 0 then .fin (n1 && n2) 0 0 else .fin (decide (s < 0)) s.natAbs e0

/-- The exact product; an infinity times a zero is NaN (R95). -/
def FVal.mul : FVal → FVal → FVal
  | .nan, _ => .nan
  | _, .nan => .nan
  | .inf a, .inf b => .inf (a != b)
  | .inf a, .fin b m _ => if m = 0 then .nan else .inf (a != b)
  | .fin a m _, .inf b => if m = 0 then .nan else .inf (a != b)
  | .fin n1 m1 e1, .fin n2 m2 e2 => .fin (n1 != n2) (m1 * m2) (e1 + e2)

/-- Slot-3 element type `MOD`[1:0]: 0 FP32, 1 BF16, 2 FP16. -/
def laneFmt (ty : Nat) : Fmt := if ty = 0 then fmtFP32 else if ty = 1 then fmtBF16 else fmtFP16

/-- Lane width in bits of an element type. -/
def laneBits (ty : Nat) : Nat := if ty = 0 then 32 else 16

/-- Lanes of an element type in a V register. -/
def laneCount (ty : Nat) : Nat := if ty = 0 then 64 else 128

/-- Lane `i` of width `w` of a register value. -/
def laneAt (w : Nat) (x i : Nat) : Nat := x / 2 ^ (w * i) % 2 ^ w

/-- A register value from its lanes of width `w`. -/
def ofLanes (w n : Nat) (g : Nat → Nat) : Nat :=
  (List.range n).foldr (fun i acc => acc + (g i % 2 ^ w) * 2 ^ (w * i)) 0

/-- Whether a NaN. -/
def Fmt.isNaN (f : Fmt) (x : Nat) : Bool := f.decode x == .nan

/-- Order key of a non-NaN encoding, −0 below +0 (R96). -/
def Fmt.key (f : Fmt) (x : Nat) : Int :=
  let mag : Int := (x % 2 ^ (f.eb + f.mb) : Nat)
  if bitB x (f.eb + f.mb) then -mag - 1 else mag

/-- Order key of a non-NaN encoding, −0 equal to +0 (R96, `VCMP`). -/
def Fmt.key0 (f : Fmt) (x : Nat) : Int :=
  let mag : Int := (x % 2 ^ (f.eb + f.mb) : Nat)
  if bitB x (f.eb + f.mb) then -mag else mag

/-- maximumNumber (R96). -/
def Fmt.maxNum (f : Fmt) (a b : Nat) : Nat :=
  if f.isNaN a then (if f.isNaN b then f.nan else b)
  else if f.isNaN b then a
  else if f.key a < f.key b then b else a

/-- minimumNumber (R96). -/
def Fmt.minNum (f : Fmt) (a b : Nat) : Nat :=
  if f.isNaN a then (if f.isNaN b then f.nan else b)
  else if f.isNaN b then a
  else if f.key b < f.key a then b else a

/-- A comparison condition by code: 0 eq, 1 ne, 2 lt, 3 le, 4 gt, 5 ge (Table 2-10). -/
def condHolds (cond : Nat) (a b : Int) : Bool :=
  match cond with
  | 0 => decide (a = b)
  | 1 => decide (a ≠ b)
  | 2 => decide (a < b)
  | 3 => decide (a ≤ b)
  | 4 => decide (b < a)
  | _ => decide (b ≤ a)

/-- Floating compare; a NaN operand is unordered (R96). -/
def Fmt.cmp (f : Fmt) (cond a b : Nat) : Bool :=
  if f.isNaN a || f.isNaN b then cond == 1 else condHolds cond (f.key0 a) (f.key0 b)

/-- One level of the pairwise tree of `VRSUM`: neighbours are added, an absent operand passes the other up (R98). -/
def pairSums (f : Fmt) : List (Option Nat) → List (Option Nat)
  | a :: b :: l =>
    (match a, b with
      | some x, some y => some (f.encode ((f.decode x).add (f.decode y)))
      | some x, none => some x
      | none, y => y) :: pairSums f l
  | l => l

/-- The tree of `VRSUM` over 2^n lanes (R98). -/
def treeSum (f : Fmt) : Nat → List (Option Nat) → Option Nat
  | 0, l => l.head?.join
  | n + 1, l => treeSum f n (pairSums f l)

/-! The functions of Table 3-8. -/

/-- Fold the binary fraction `bits` of a power of two, most significant bit first: `root` is 2^(2^−j) at the j-th bit and `acc` the product of the
roots whose bit is set, both in units of 2^−220. -/
def exp2Frac : Nat → Nat → Nat → Nat → Nat
  | 0, _, _, acc => acc
  | n + 1, bits, root, acc =>
    let root' := Nat.sqrt (root * 2 ^ 220)
    exp2Frac n bits root' (if bitB bits n then acc * root' / 2 ^ 220 else acc)

/-- The fractional bits of log2 of y / 2^300, 1 ≤ y / 2^300 < 2, most significant first. -/
def log2Frac : Nat → Nat → Nat → Nat
  | 0, _, acc => acc
  | n + 1, y, acc =>
    let y2 := y * y / 2 ^ 300
    if 2 ^ 301 ≤ y2 then log2Frac n (y2 / 2) (2 * acc + 1) else log2Frac n y2 (2 * acc)

/-- Whether the FP32 encoding `r` is finite and lies within `k` × 2^u of the value v × 2^e. -/
def withinOf (r : Nat) (v e : Int) (k : Nat) (u : Int) : Bool :=
  match fmtFP32.decode r with
  | .fin rn rm re =>
    let e0 := min (min re e) u
    decide ((signedAt rn rm re e0 - v * 2 ^ (e - e0).toNat).natAbs ≤ k * 2 ^ (u - e0).toNat)
  | _ => false

/-- Whether `r` lies within the bound of every value between v × 2^e and (v + d) × 2^e, between which the exact result lies. -/
def withinAll (r : Nat) (v : Int) (d : Nat) (e : Int) (k : Nat) (u : Int) : Bool :=
  withinOf r v e k u && withinOf r (v + d) e k u

/-- The exponent of the FP32 unit in the last place of v × 2^e. -/
def ulpOf (v e : Int) : Int := (fmtFP32.quant v.natAbs e).eq

/-- A finite result below 2^−126 in magnitude is a zero of its sign (R97). -/
def flushFP32 (x : Nat) : Nat := if x % 2 ^ 31 < 2 ^ 23 then x / 2 ^ 31 * 2 ^ 31 else x

/-- `VEXP2` on one lane (R97, Table 3-8). -/
def vexp2 (x : Nat) : Nat :=
  match fmtFP32.decode x with
  | .nan => fmtFP32.nan
  | .inf neg => if neg then 0 else 0x7F800000
  | .fin neg m e =>
    if m = 0 then 0x3F800000
    else
      -- x in units of 2^−150, exact; the exact result lies between m' and m' + 2^40 units of 2^e'
      let t : Int := if neg then -((quantAt m e (-150)).n : Int) else ((quantAt m e (-150)).n : Int)
      if 128 * 2 ^ 150 ≤ t then 0x7F800000
      else if t < -(126 * 2 ^ 150) then 0
      else
        let fr := (t.fmod (2 ^ 150)).toNat
        let m' : Int := (exp2Frac 150 fr (2 ^ 221) (2 ^ 220) : Nat)
        let e' := t.fdiv (2 ^ 150) - 220
        let c := (Config.exp2 (BitVec.ofNat 32 x)).toNat
        flushFP32 (if withinAll c m' (if fr = 0 then 0 else 2 ^ 40) e' 2 (ulpOf m' e') then c
          else fmtFP32.encode (.fin false m'.natAbs e'))

/-- `VLOG2` on one lane (R97, Table 3-8). -/
def vlog2 (x : Nat) : Nat :=
  match fmtFP32.decode x with
  | .nan => fmtFP32.nan
  | .inf neg => if neg then fmtFP32.nan else 0x7F800000
  | .fin neg m e =>
    if m = 0 then 0xFF800000
    else if neg then fmtFP32.nan
    else if x = 0x3F800000 then 0
    else
      let l := Nat.log2 m
      -- log2 x in units of 2^−120; the exact result lies between fx and fx + 4 units, and is fx where x is a power of two
      let fx : Int := (e + (l : Int)) * 2 ^ 120 + (log2Frac 120 (m * 2 ^ (300 - l)) 0 : Nat)
      let d := if m = 2 ^ l then 0 else 4
      let c := (Config.log2 (BitVec.ofNat 32 x)).toNat
      let near := decide (0x3F000000 ≤ x ∧ x ≤ 0x40000000)
      let ok := if near then withinAll c fx d (-120) 1 (-22) else withinAll c fx d (-120) 2 (ulpOf fx (-120))
      flushFP32 (if ok then c else fmtFP32.encode (.fin (decide (fx < 0)) fx.natAbs (-120)))

/-- One of the two neighbours of a value whose truncation is `q` (faithful rounding); overflow goes to the largest
finite value or to infinity. -/
def faithful (neg : Bool) (q : Quant) (inexact up : Bool) : Nat :=
  let lo := fmtFP32.magCode q.eq q.n
  let mag := if inexact && up then lo + 1 else lo
  if fmtFP32.maxCode < mag then
    fmtFP32.sign neg (if up then fmtFP32.maxCode + 1 else fmtFP32.maxCode)
  else flushFP32 (fmtFP32.sign neg mag)

/-- `VRCP` on one lane (R97, Table 3-8). -/
def vrcp (x : Nat) : Nat :=
  match fmtFP32.decode x with
  | .nan => fmtFP32.nan
  | .inf neg => fmtFP32.sign neg 0
  | .fin neg m e =>
    if m = 0 then fmtFP32.sign neg 0x7F800000
    else if 0x7E800000 < x % 2 ^ 31 then fmtFP32.sign neg 0
    else
      -- 1/x = (2^80 / m) × 2^(−80 − e)
      let n := 2 ^ 80 / m
      let q := fmtFP32.quant n (-80 - e)
      faithful neg q (decide (2 ^ 80 % m ≠ 0 ∨ q.rem ≠ 0)) (Config.rcpUp (BitVec.ofNat 32 x))

/-- `VRSQ` on one lane (R97, Table 3-8). -/
def vrsq (x : Nat) : Nat :=
  match fmtFP32.decode x with
  | .nan => fmtFP32.nan
  | .inf neg => if neg then fmtFP32.nan else 0
  | .fin neg m e =>
    if m = 0 then fmtFP32.sign neg 0x7F800000
    else if neg then fmtFP32.nan
    else
      -- make the exponent even; 1/√(m·2^(2k)) = √(2^160 / m) × 2^(−80 − k)
      let odd := decide (e.fmod 2 = 1)
      let m' := if odd then 2 * m else m
      let k := if odd then (e - 1).fdiv 2 else e.fdiv 2
      let r := Nat.sqrt (2 ^ 160 / m')
      let q := fmtFP32.quant r (-80 - k)
      faithful false q (decide (r * r * m' ≠ 2 ^ 160 ∨ q.rem ≠ 0)) (Config.rsqUp (BitVec.ofNat 32 x))

end Sys2Proof.Machine
end

