-- ==== Sys2Proof/Syntax.lean ====
section
/-! DEFINITION. The commands the module takes: one constructor of `Instr` per row of the spec's table of operations
and events, with the operands of Tables 2-5 to 2-12 (a tile's wide word), of Table 13-1 (an Edush datagram) and of the
events the other chapters name. -/

namespace Sys2Proof

/-- The fields of one 128-bit slot after its opcode (Table 2-5). -/
structure SlotF where
  pen : Bool
  pinv : Bool
  psel : BitVec 4
  dst : BitVec 8
  srcA : BitVec 8
  srcB : BitVec 8
  srcC : BitVec 8
  mod : BitVec 16
  imm : BitVec 64
  deriving DecidableEq, Repr

/-- One slot of a wide word: its number, its opcode and its fields (R45). -/
structure SlotOp where
  slot : Fin 8
  op : BitVec 8
  f : SlotF
  deriving DecidableEq, Repr

/-- A cycle of a tile's issue unit (R44): the tile, the context that issues, the contexts whose next word's operands or unit the
interlocks of R57 hold in this cycle, the turn of the next cycle (R107, R110), the single-bit errors that the loads of slots 5 and 6
meet (R60), and whether a store or register file shows a parity error (Table 2-14). -/
structure Issue where
  tile : Fin 4096
  ctx : Fin 512
  busy : List (Fin 512)
  turn : Fin 256
  ce5 : Fin 17
  ce6 : Fin 17
  parity : Bool
  deriving DecidableEq, Repr

/-- An Edush datagram as it arrives (R356, R357): the module port that received it (A0 to A3 are 0 to 3, B0 to B3 are 4
to 7), its source, its header fields but for the opcode, its reserved bytes 0x12 to 0x2F, its tag, its payload, and what
a fetch the request asks for returns (R233, R369). `drop` marks a datagram that is shorter than a header, a fragment, or one
that meets a full mailbox queue (R356). -/
structure Mail where
  port : Fin 8
  srcIp : BitVec 128
  srcUdp : BitVec 16
  magic : BitVec 16
  version : BitVec 8
  hflags : BitVec 8
  parcel : BitVec 16
  seq : BitVec 32
  len : BitVec 32
  status : BitVec 16
  resv : Bytes
  tag : BitVec 128
  payload : Bytes
  fetched : Option Bytes
  now : Nat
  drop : Bool
  deriving DecidableEq, Repr


/-- A sluice descriptor (Table 6-5) but for its `OP`, which the command names. -/
structure Desc where
  flags : BitVec 8
  cls : BitVec 8
  parcel : BitVec 16
  xferId : BitVec 26
  req : BitVec 32
  src : BitVec 52
  dst : BitVec 52
  len : BitVec 32
  semTile : Fin 4096
  semFull : Fin 32
  semEmpty : Fin 32
  fillVal : BitVec 32
  deriving DecidableEq, Repr

/-- One index of a gather sub-packet: its bag, its global row and its FP32 weight (R312). -/
structure GIdx where
  bag : Nat
  row : Nat
  weight : Nat
  deriving DecidableEq, Repr

/-- A gather sub-packet (R312): the source module, its lateral engine, its gather and step generation, the table, the
pooling mode and the indices this module owns. -/
structure GSub where
  srcMod : Nat
  srcLe : Nat
  gid : Nat
  gen : Nat
  parcel : Nat
  table : Nat
  pool : Nat
  rows : List GIdx
  deriving DecidableEq, Repr

/-- One pooled element of a partial (R313): a class (0 finite, 1 +∞, 2 −∞, 3 NaN) with the exact sum in units of the
table's window, or, for max, sign, magnitude and exponent of the largest contribution. -/
structure GElem where
  cls : Nat
  sum : Int
  neg : Bool
  mag : Nat
  exp : Int
  deriving DecidableEq, Repr

/-- A bag's partial as an owning engine returns it (R313, R314), or the failure that takes its place: a failed row, or
cells that its sub-packet could not get (R319). -/
structure GPart where
  gid : Nat
  gen : Nat
  owner : Nat
  bag : Nat
  fail : Bool
  quota : Bool
  elems : List GElem
  underF : Bool
  overF : Bool
  deriving DecidableEq, Repr

/-- A request that reaches this module with its pages (R295): the module that admitted it, its handle and what it carries. -/
structure HandIn where
  home : BitVec 64
  handle : BitVec 32
  parcel : Nat
  model : Nat
  adapter : Nat
  aver : Nat
  deadline : Nat
  prompt : Nat
  maxNew : Nat
  generated : Nat
  pos : Nat
  specMode : Nat
  specWidth : Nat
  start : Nat
  holdKv : Bool
  tokens : Bytes
  params : Bytes
  pages : List Bytes
  deriving DecidableEq, Repr

/-- Another plot of a replica set as its module reports it (R294, R296): tray slot, mark, weights, requests of each kind, prompt
tokens waiting (R295) and share bounds. -/
structure SetPeer where
  slot : Nat
  isPrefill : Bool
  wp : Nat
  wd : Nat
  prompts : Nat
  waiting : Nat
  decodes : Nat
  lo : Nat
  hi : Nat
  deriving DecidableEq, Repr

/-- The other plots of a model's replica set. -/
structure SetView where
  model : Nat
  peers : List SetPeer
  deriving DecidableEq, Repr

/-- A Headgate core as its own instructions, which are no commands, have left it when it is offered a source (R420): its pc, `mstatus.MIE`
and `mie.MEIE`. -/
structure CoreIn where
  core : Fin 4
  pc : BitVec 64
  mie : Bool
  meie : Bool
  deriving DecidableEq, Repr

/-- A fabric message as it arrives (Table 14-6) but for its kind, which the command names; `len` may pass the data's length
only in a `READ`, which carries none. -/
structure MsgIn where
  dest : BitVec 64
  src : BitVec 64
  ttl : BitVec 8
  parcel : BitVec 16
  len : BitVec 32
  addr : BitVec 64
  xfer : BitVec 32
  channel : BitVec 16
  mstatus : BitVec 8
  mflags : BitVec 8
  data : Bytes
  deriving DecidableEq, Repr

/-- How a management message came (R402, R403): its sender, its number there, and whether over network B. -/
structure MgmtIn where
  src : BitVec 64
  id : BitVec 32
  netB : Bool
  deriving DecidableEq, Repr

/-- A sample of every sensor, in °C (R454): those of each quadrant's compute and SRAM dies, of the 24 stacks, and of the Headworks
die. -/
structure Samples where
  dies : List (List (BitVec 8))
  hbm : List (BitVec 8)
  hw : List (BitVec 8)
  deriving DecidableEq, Repr

/-- What the power-up of a quadrant finds (Table 18-7): the tiles that fail the full self-test, its length in µs, the stacks that train
and whether all of them do so at 8.0 Gb/s. -/
structure QuadUp where
  fails : List (Fin 1024 × BitVec 7)
  us : BitVec 16
  trained : BitVec 6
  rate8g : Bool
  deriving DecidableEq, Repr

/-- The sensors that PLDM reports over I3C (R501). -/
inductive I3cSensor where
  | mainVoltage
  | auxVoltage
  | mainCurrent
  | avgPower
  | tempQ (i : Fin 8)
  | tempHw
  | tempMax
  | powerState
  | cap
  deriving DecidableEq, Repr

/-- A message over I3C (R501): an MCTP control message, a sensor reading, a field-book read, or another PLDM type or command. -/
inductive I3cReq where
  | control (m : Bytes)
  | sensor (x : I3cSensor)
  | fieldBook (first : BitVec 32) (count : BitVec 8)
  | other
  deriving DecidableEq, Repr

/-- A shard list on this module: that of a registry entry, or of an adapter's version (R234, R242). -/
structure LoadRef where
  adapter : Bool
  index : Fin 4096
  version : BitVec 16
  deriving DecidableEq, Repr

/-- The commands of the module, one constructor per row of the table of operations and events. -/
inductive Instr where
  /-- NOP (R45): A slot holding opcode 0x00 does nothing. -/
  | nop (x : Issue) (slot : Fin 8)
  /-- BR (R49): A branch whose guard passes sends the next word to address IMM[7:0], with the block range check. -/
  | br (x : Issue) (f : SlotF)
  /-- LOOP (R49): Opens a counted loop over the following words; depth is checked and a count of 0 skips the body. -/
  | loop (x : Issue) (f : SlotF)
  /-- WAIT (R50): The context waits until semaphore SEM[IMM[4:0]] is above zero, then decrements it atomically. -/
  | wait (x : Issue) (f : SlotF)
  /-- SEMAPHORE_WAIT_PASS (R50): A context blocked in WAIT resumes when its semaphore becomes non-zero and takes it. -/
  | semaphoreWaitPass (x : Issue)
  /-- SIGNAL (R50): Increments a semaphore counter; saturates at 0xFFFF and raises SEM_OVERFLOW. -/
  | signal (x : Issue) (f : SlotF)
  /-- YIELD (R61): Yield point n; acts as NOP unless YIELD_REQ is set, and then parks the context in YIELDED. -/
  | yield (x : Issue) (f : SlotF)
  /-- EOB (R43): End of block: the context moves to RETIRING after this word. -/
  | eob (x : Issue) (f : SlotF)
  /-- FENCE (R48): The context's next word waits until its stores are written and its sends have entered turn registers. -/
  | fence (x : Issue) (f : SlotF)
  /-- TRAP (R65): Raises the tile fault USER_TRAP with a trap code. -/
  | trap (x : Issue) (f : SlotF)
  /-- MMA (R51): Matrix multiply-accumulate of a 32x16 block into an accumulator bank with exact products. -/
  | mma (x : Issue) (f : SlotF)
  /-- MMAZ (R51): As MMA, after zeroing every accumulator of the bank. -/
  | mmaz (x : Issue) (f : SlotF)
  /-- MMA_LAND (R81): The products of an issued MMA reach the bank and are truncated, clamped and added exactly. -/
  | mmaLand (tile : Fin 4096) (bank : Fin 2)
  /-- ACLR (R85): Clears every accumulator of a bank and its UNDER and OVER flags. -/
  | aclr (x : Issue) (f : SlotF)
  /-- ARD (R88): Reads rows of a bank into a V register, converted and rounded once to the target format. -/
  | ard (x : Issue) (f : SlotF)
  /-- ARAW (R84): Reads one row of raw 128-bit accumulators into a V register. -/
  | araw (x : Issue) (f : SlotF)
  /-- AADD (R84): Adds 16 raw 128-bit values into one row of a bank exactly. -/
  | aadd (x : Issue) (f : SlotF)
  /-- AWIN (R85): Clears a bank and sets its window exponent W. -/
  | awin (x : Issue) (f : SlotF)
  /-- AFLAG (R82): Copies a bank's UNDER and OVER flags to a scalar register, optionally clearing them. -/
  | aflag (x : Issue) (f : SlotF)
  /-- VFMA (R95): Fused multiply-add per lane, rounded once. -/
  | vfma (x : Issue) (f : SlotF)
  /-- VADD (R95): Lane-wise IEEE addition. -/
  | vadd (x : Issue) (f : SlotF)
  /-- VSUB (R95): Lane-wise IEEE subtraction. -/
  | vsub (x : Issue) (f : SlotF)
  /-- VMUL (R95): Lane-wise IEEE multiplication. -/
  | vmul (x : Issue) (f : SlotF)
  /-- VMAX (R96): Lane-wise maximumNumber. -/
  | vmax (x : Issue) (f : SlotF)
  /-- VMIN (R96): Lane-wise minimumNumber. -/
  | vmin (x : Issue) (f : SlotF)
  /-- VEXP2 (R97): FP32 2^x per lane within the stated accuracy. -/
  | vexp2 (x : Issue) (f : SlotF)
  /-- VLOG2 (R97): FP32 log2 per lane within the stated accuracy. -/
  | vlog2 (x : Issue) (f : SlotF)
  /-- VRCP (R97): FP32 reciprocal per lane, faithfully rounded. -/
  | vrcp (x : Issue) (f : SlotF)
  /-- VRSQ (R97): FP32 reciprocal square root per lane, faithfully rounded. -/
  | vrsq (x : Issue) (f : SlotF)
  /-- VCVT (R95): Converts lanes between FP32, BF16 and FP16 with the stated lane mapping. -/
  | vcvt (x : Issue) (f : SlotF)
  /-- VRSUM (R98): Sums the lanes in a fixed pairwise tree into lane 0. -/
  | vrsum (x : Issue) (f : SlotF)
  /-- VCMP (R96): Lane-wise floating compare into a predicate register. -/
  | vcmp (x : Issue) (f : SlotF)
  /-- SLI (R99): Loads a 64-bit immediate into a scalar register. -/
  | sli (x : Issue) (f : SlotF)
  /-- SADD (R99): Scalar addition modulo 2^64. -/
  | sadd (x : Issue) (f : SlotF)
  /-- SSUB (R99): Scalar subtraction modulo 2^64. -/
  | ssub (x : Issue) (f : SlotF)
  /-- SMUL (R99): Scalar multiply returning the low 64 bits. -/
  | smul (x : Issue) (f : SlotF)
  /-- SAND (R99): Scalar bitwise AND. -/
  | sand (x : Issue) (f : SlotF)
  /-- SOR (R99): Scalar bitwise OR. -/
  | sor (x : Issue) (f : SlotF)
  /-- SXOR (R99): Scalar bitwise XOR. -/
  | sxor (x : Issue) (f : SlotF)
  /-- SSHL (R99): Scalar shift left by the low 6 bits. -/
  | sshl (x : Issue) (f : SlotF)
  /-- SSHR (R99): Scalar logical shift right by the low 6 bits. -/
  | sshr (x : Issue) (f : SlotF)
  /-- SSRA (R99): Scalar arithmetic shift right by the low 6 bits. -/
  | ssra (x : Issue) (f : SlotF)
  /-- SCMP (R53): Signed scalar compare setting a predicate to all ones or all zeros. -/
  | scmp (x : Issue) (f : SlotF)
  /-- SFROMV (R47): Moves one 64-bit lane of a V register to a scalar register. -/
  | sfromv (x : Issue) (f : SlotF)
  /-- VBCAST (R47): Broadcasts a scalar to every lane of a V register. -/
  | vbcast (x : Issue) (f : SlotF)
  /-- VIADD (R99): Lane-wise 32-bit integer addition, wrapping. -/
  | viadd (x : Issue) (f : SlotF)
  /-- VAND (R47): Lane-wise bitwise AND on 32-bit lanes. -/
  | vand (x : Issue) (f : SlotF)
  /-- VOR (R47): Lane-wise bitwise OR on 32-bit lanes. -/
  | vor (x : Issue) (f : SlotF)
  /-- VXOR (R47): Lane-wise bitwise XOR on 32-bit lanes. -/
  | vxor (x : Issue) (f : SlotF)
  /-- VPERM (R47): Byte permute of a V register by indices in another. -/
  | vperm (x : Issue) (f : SlotF)
  /-- VSEL (R47): Per-lane select between two V registers by a predicate. -/
  | vsel (x : Issue) (f : SlotF)
  /-- VMOV (R47): Copies a V register. -/
  | vmov (x : Issue) (f : SlotF)
  /-- PAND (R47): Predicate AND. -/
  | pand (x : Issue) (f : SlotF)
  /-- POR (R47): Predicate OR. -/
  | por (x : Issue) (f : SlotF)
  /-- PXOR (R47): Predicate XOR. -/
  | pxor (x : Issue) (f : SlotF)
  /-- PNOT (R47): Predicate NOT. -/
  | pnot (x : Issue) (f : SlotF)
  /-- PRANGE (R47): Sets a predicate to a clamped range of bits. -/
  | prange (x : Issue) (f : SlotF)
  /-- LD (R58): Loads 256 bytes from the tile's Field window, with alignment, range and ECC checks. -/
  | ld (x : Issue) (hi : Bool) (f : SlotF)
  /-- LDS (R58): Loads 8 bytes from the Field window into a scalar register. -/
  | lds (x : Issue) (hi : Bool) (f : SlotF)
  /-- ST (R55): Stores 256 bytes under byte enables and a byte limit. -/
  | st (x : Issue) (hi : Bool) (f : SlotF)
  /-- STS (R58): Stores a scalar register to the Field window. -/
  | sts (x : Issue) (hi : Bool) (f : SlotF)
  /-- SEND (R56): Sends a 32-byte chunk as a canal token through a turn register, or to its own queue. -/
  | send (x : Issue) (f : SlotF)
  /-- SENDS (R56): Sends four scalar registers as a canal token. -/
  | sends (x : Issue) (f : SlotF)
  /-- RECV (R56): Writes the payload of a bound token into a register, or raises QUEUE_UNBOUND. -/
  | recv (x : Issue) (f : SlotF)
  /-- STEER (R120): Configures a steering channel for a steer. -/
  | steer (x : Issue) (f : SlotF)
  /-- MERGE (R120): Configures a steering channel for a merge. -/
  | merge (x : Issue) (f : SlotF)
  /-- TRIGGER_FIRE (R41): The trigger unit creates a context for an entry whose rule is satisfied and whose resources are free. -/
  | triggerFire (tile : Fin 4096) (parity : Bool)
  /-- CONTEXT_RETIRE (R43): A retiring context's stores and sends complete; tokens, pool entries and banks are released and the tag window advances. -/
  | contextRetire (tile : Fin 4096) (ctx : Fin 512)
  /-- YIELD_DONE (R62): Every context is YIELDED or FREE; the tile sets YIELD_DONE and its live set is saved. -/
  | yieldDone (tile : Fin 4096)
  /-- TILE_YIELD_REQ (R61): Write of TILE_CTRL.YIELD_REQ stops firing and lets contexts park at yield points, or resumes them when cleared. -/
  | tileYieldReq (tile : Fin 4096) (on : Bool)
  /-- TILE_STOP (R66): Write of TILE_CTRL.STOP stops issue and firing on the tile. -/
  | tileStop (tile : Fin 4096) (on : Bool)
  /-- SELFTEST_COMPLETE (R68): A full or quick self-test ends; failing tiles are fenced and tile-map changes logged. -/
  | selftestComplete (quad : Fin 4) (full : Bool) (fails : List (Fin 1024 × BitVec 7)) (us : BitVec 16) (trained : BitVec 6) (rate8g : Bool) (t : Nat)
  /-- SINGLE_TILE_RETEST (R69): Firmware runs a quick self-test on a tile marked for retest once its plot is IDLE. -/
  | singleTileRetest (tile : Fin 4096) (fails : BitVec 7) (us : BitVec 16)
  /-- TOKEN_ARRIVE (R117): A canal token reaches a switch input and is forwarded, delivered with CRC and epoch checks, or dropped. -/
  | tokenArrive (tile : Fin 4096) (port : Fin 4) (turn : Fin 256) (flip : BitVec 304) (more : List (Fin 4 × BitVec 304))
  /-- STEER_TREG_ENTER (R126): A paired data token waiting for its turn register enters it once it is free, re-headed. -/
  | steerTregEnter (tile : Fin 4096) (turn : Fin 256)
  /-- TREG_INJECT (R110): A token in a turn register leaves on the outputs of its entry when that entry's turn comes. -/
  | tregInject (tile : Fin 4096) (turn : Fin 256)
  /-- GATE_APPEND (R261): A token at an edge gate with OP APPEND joins the gate's packet for its queue, linked at LAST. -/
  | gateAppend (tile : Fin 4096) (port : Fin 4) (flip : BitVec 304)
  /-- GATE_SET_MODE (R261): A token at an edge gate with OP SET_MODE sets a queue's MODE and DELIV, or faults MODE_BUSY. -/
  | gateSetMode (tile : Fin 4096) (port : Fin 4) (flip : BitVec 304)
  /-- GATE_FLUSH (R258): A token at an edge gate with OP FLUSH starts a flush of the queue at the next packet boundary. -/
  | gateFlush (tile : Fin 4096) (port : Fin 4) (flip : BitVec 304)
  /-- GATE_SET_CAP (R269): A token at an edge gate with OP SET_CAP writes expert capacities into the plot's route table. -/
  | gateSetCap (tile : Fin 4096) (port : Fin 4) (flip : BitVec 304)
  /-- GATE_INJECT (R257): In its window turn an edge gate injects the head item of its queue as a token, or the idle item. -/
  | gateInject (tile : Fin 4096) (port : Fin 4) (turn : Fin 256)
  /-- SWITCH_REQUEST (R143): The plot controller receives the end report and broadcasts the switch request; firing stops and drain begins. -/
  | switchRequest (lead : Fin 64)
  /-- DRAIN_COMPLETE (R145): Drained reports from every tile and zero in-flight count; the image-load command is broadcast. -/
  | drainComplete (lead : Fin 64) (d : Nat)
  /-- DRAIN_BOUND (R146): Drain not complete 80 + DRAIN cycles after the request; a forced switch follows. -/
  | drainBound (lead : Fin 64)
  /-- IMAGE_LOAD_COMPLETE (R143): The section image load ends; banks swap, epoch, EPOCH_ACCEPT and PERIOD are set and the next section starts or the task ends. -/
  | imageLoadComplete (lead : Fin 64)
  /-- FORCED_SWITCH (R150): A forced switch discards contexts and tokens, flushes queues, cancels engine commands and reloads FIRST_SECT. -/
  | forcedSwitch (lead : Fin 64)
  /-- PLOT_FORCE (R150): Write of 1 to PLOT_CTRL.FORCE raises a firmware forced switch. -/
  | plotForce (block : Fin 64)
  /-- PLOT_RELEASE_BIT (R150): Write of PLOT_CTRL.RELEASE makes a force end in FREE. -/
  | plotReleaseBit (block : Fin 64) (on : Bool)
  /-- PLOT_YIELD_REQ (R152): Write of PLOT_CTRL.YIELD_REQ sets or clears YIELD_REQ on every tile 40 cycles later. -/
  | plotYieldReq (block : Fin 64) (on : Bool)
  /-- YIELD_BOUND (R153): Some tile has not reported YIELD_DONE within YIELD_CYCLES; the plot is forced. -/
  | yieldBound (lead : Fin 64)
  /-- SAVE_COMPLETE (R344): The last save granule is written; the plot is SAVED and its blocks released. -/
  | saveComplete (lead : Fin 64)
  /-- RESTORE (R154): A saved task is placed, its image and saved state written back, and issue resumes. -/
  | restore (saved : Nat)
  /-- STEP_LIMIT (R155): A step exceeds STEP_LIMIT; the plot is forced with cause STEP_LIMIT. -/
  | stepLimit (lead : Fin 64)
  /-- STEP_START (R293): Batch formation composes a step, writes the step table and broadcasts the start to an IDLE plot. -/
  | stepStart (lead : Fin 64) (t : Nat)
  /-- PLACEMENT (R138): The Surveyor places a plat into a qualifying rectangle of blocks and programs its tiles. -/
  | placement (model : Fin 256)
  /-- FILL_COMPLETE (R238): The fill of a model's plot completes; the first section image is loaded and the model is FILLED. -/
  | fillComplete (lead : Fin 64)
  /-- PLOT_RELEASE (R478): The Surveyor releases an IDLE plot and its blocks are scrubbed. -/
  | plotRelease (lead : Fin 64)
  /-- SCRUB_COMPLETE (R478): A scrub of released space completes and the space is freed. -/
  | scrubComplete (id : Nat)
  /-- SURVEYOR_REEXAMINE (R340): Every 100 µs or on release the Surveyor re-examines waiting placements, releasing or pre-empting plots for urgent ones. -/
  | surveyorReexamine (t : Nat)
  /-- COPY (R179): Sluice command moving a tile block between tiers with header and CRC checks. -/
  | copy (engine : Fin 64) (lead : Option (Fin 64)) (d : Desc)
  /-- COPY_RAW (R181): Sluice command moving bytes without a header. -/
  | copyRaw (engine : Fin 64) (lead : Option (Fin 64)) (d : Desc)
  /-- FILL (R181): Sluice command writing FILL_VAL as 32-bit words. -/
  | fill (engine : Fin 64) (lead : Option (Fin 64)) (d : Desc)
  /-- PLIST (R220): Sluice command walking a pointer list with double buffering. -/
  | plist (engine : Fin 64) (lead : Option (Fin 64)) (d : Desc)
  /-- STAGE (R181): Sluice command staging Aquifer data into Reservoir in granules. -/
  | stage (engine : Fin 64) (lead : Option (Fin 64)) (d : Desc)
  /-- SLUICE_SIGNAL (R509): Sluice command that moves nothing and signals SEM_FULL, after taking SEM_EMPTY when asked. -/
  | sluiceSignal (engine : Fin 64) (lead : Option (Fin 64)) (d : Desc)
  /-- SLUICE_COMPLETE (R199): A sluice command completes or fails, signalling its semaphore or recording its cause. -/
  | sluiceComplete (engine : Fin 64) (index : BitVec 20) (fetched : Option Bytes)
  /-- WEIGHT_RETRY (R198): After a WEIGHT error the bad copy is replaced and the batch runs again once. -/
  | weightRetry (lead : Fin 64) (ok : Bool) (fetched : Option Bytes)
  /-- SL_RING_TAIL_WRITE (R183): Firmware posts dynamic descriptors by writing the ring tail; the engine reads ahead and serves by deficit round robin. -/
  | slRingTailWrite (engine : Fin 64) (tail : BitVec 16)
  /-- STREAM_RELEASE (R186): The plot controller releases a stream repeat to its engine at its scheduled cycle. -/
  | streamRelease (lead : Fin 64) (record : BitVec 16) (k : Nat)
  /-- ENGINE_SEM_TAKE (R189): An engine take of a tile semaphore, retried every 4 cycles until above zero. -/
  | engineSemTake (engine : Fin 64) (index : BitVec 20)
  /-- TIER_REPLY (R184): A tier reply arrives; one with a stale generation is dropped and counted. -/
  | tierReply (engine : Fin 64) (index : BitVec 20) (gen : BitVec 6) (poison : Bool) (ces : List (BitVec 52))
  /-- TIER_WATCHDOG (R196): A tier WAIT lasts longer than TIER_WD; the plot is forced with TIER_LATE. -/
  | tierWatchdog (lead : Fin 64) (ns : Nat) (stall : Nat)
  /-- AQ_READ_TIMEOUT (R177): A CXL.mem read without response in 10 ms counts as an uncorrectable error. -/
  | aqReadTimeout (engine : Fin 64) (index : BitVec 20)
  /-- PATROL_SCRUB (R194): The patrol scrubber visits a Field word or Reservoir granule, correcting or logging errors. -/
  | patrolScrub (addr : BitVec 52) (found : Fin 3)
  /-- HBM_RECALIBRATION (R174): A stack recalibrates in a survey band every 64 ms; three failures take the region out of service. -/
  | hbmRecalibration (stack : Fin 24) (good : Bool)
  /-- MEM_CFG_WRITE (R164): A MEM_CFG write sets pond and cistern pages, invalidates the pond and rebuilds the carve-out map, or is refused. -/
  | memCfgWrite (q : Fin 4) (v : BitVec 64)
  /-- CXL_LINK_UP (R480): A CXL port links up; firmware authenticates the device and programs IDE keys. -/
  | cxlLinkUp (q : Fin 4) (speed : BitVec 2) (width : BitVec 5) (cap : BitVec 22) (good : Bool) (digest : BitVec 64) (t : Nat)
  /-- CXL_LINK_DOWN (R177): A CXL link goes down; outstanding accesses count as uncorrectable errors. -/
  | cxlLinkDown (q : Fin 4) (t : Nat)
  /-- IDE_FAILURE (R480): An IDE integrity failure ends the stream; the port retrains once, then stays down. -/
  | ideFailure (q : Fin 4) (t : Nat)
  /-- ROUTE_PACKET (R270): A lateral engine takes a route packet, ranks experts and dispatches or bypasses each copy under capacity. -/
  | routePacket (le : Fin 4)
  /-- RETURN_PACKET (R268): A return packet is sent to the source engine and linked to its return queue, or dropped if stale. -/
  | returnPacket (le : Fin 4)
  /-- RT_COMMIT (R265): Setting RT_CTRL.COMMIT swaps the route table banks at the owning plot's next step start. -/
  | rtCommit (le : Fin 4) (table : Fin 16)
  /-- GATHER_PACKET (R312): A lateral engine takes a gather packet, checks it and scatters indices to owning modules. -/
  | gatherPacket (le : Fin 4)
  /-- GATHER_SUBPACKET (R312): An owning lateral engine receives a gather sub-packet and hands rows to gather engines. -/
  | gatherSubpacket (le : Fin 4) (remote : Option GSub)
  /-- ROW_READ (R313): A gather engine's row read returns and is pooled into its bag's partial. -/
  | rowRead (ge : Fin 96) (poison : Bool) (fetched : Option Bytes)
  /-- GATHER_PARTIAL (R314): A bag partial arrives; when all are held the pooled vectors and status are written and SEM_FULL signalled. -/
  | gatherPartial (le : Fin 4) (remote : Option GPart)
  /-- GE_CTRL_ENABLE (R321): Write of GE_CTRL.ENABLE starts or stops a gather engine accepting rows. -/
  | geCtrlEnable (ge : Fin 96) (on : Bool)
  /-- DOORBELL (R283): A ring doorbell arrives; new entries are read, checked and linked to the intake queue. -/
  | doorbell (ring : Fin 256) (qp : BitVec 24) (value : BitVec 64) (t : Nat)
  /-- ADMISSION (R25): Firmware takes an intake entry and applies the admission checks, binding adapter and reserving KV pages. -/
  | admission (ring : Fin 256) (t : Nat)
  /-- DEADLINE_MISSED (R27): Module time passes the deadline of an unstarted request, which is refused. -/
  | deadlineMissed (handle : BitVec 32) (t : Nat)
  /-- COMPLETION_BACKLOG_DRAIN (R287): Backlogged completion records are written once the host frees ring slots. -/
  | completionBacklogDrain (ring : Fin 256)
  /-- KV_HOLD_EXPIRE (R288): A HELD request's KV hold expires; its pages are freed and its slot quarantined. -/
  | kvHoldExpire (handle : BitVec 32) (t : Nat)
  /-- HANDOFF_COPY_COMPLETE (R295): A request's pages reach a DECODE plot's module and it moves to DECODE. -/
  | handoffCopyComplete (handle : BitVec 32) (home : Option (BitVec 64)) (ok : Bool) (dest : BitVec 64) (arrive : Option HandIn)
  /-- REBALANCE (R296): Every 10 ms the Surveyor moves chunk shares and replica-set marks toward the target. -/
  | rebalance (t : Nat) (sets : List SetView)
  /-- IDENTIFIER_QUARANTINE_END (R347): A 4 ms identifier or slot quarantine ends and the value may be reused. -/
  | identifierQuarantineEnd (t : Nat)
  /-- SHARD_ATTEMPT_END (R234): A shard fetch attempt's last byte arrives and the digest verifies or mismatches. -/
  | shardAttemptEnd (ref : LoadRef) (shard : Fin 260) (body : Bytes) (t : Nat)
  /-- SHARD_TIMEOUT (R234): A shard attempt not verified within its timeout ends as missing and the next attempt starts. -/
  | shardTimeout (ref : LoadRef) (shard : Fin 260) (t : Nat)
  /-- GROUP_NOTICE (R235): A group notice arrives from a member; the entry becomes READY when all are held. -/
  | groupNotice (m : MgmtIn) (tag : BitVec 64) (digest : BitVec 512) (member : Fin 64) (refs : Option (BitVec 32)) (t : Nat)
  /-- GROUP_NOTICE_RESEND (R235): A member resends its notice every 100 ms until acknowledged. -/
  | groupNoticeResend (ref : LoadRef) (acked : Option (Fin 64)) (t : Nat)
  /-- EARLY_NOTICE_EXPIRE (R235): A notice held 60 s before the fetch was accepted is discarded. -/
  | earlyNoticeExpire (t : Nat)
  /-- DEFERRED_RUN (R377): A deferred request runs once the operation ahead of it completes. -/
  | deferredRun (i : Nat) (t : Nat)
  /-- PARCEL_SCRUB_COMPLETE (R325): A parcel's scrub ends; it becomes DISABLED or FREE and the completion event is queued. -/
  | parcelScrubComplete (parcel : Fin 513) (t : Nat)
  /-- PTP_MESSAGE (R327): A PTP message on network A updates the ordinary clock servo. -/
  | ptpMessage (port : Fin 4) (domain : BitVec 8) (locked : Bool) (offset : BitVec 32) (t : Nat)
  /-- HOLDOVER_EXPIRE (R328): Holdover passes TIME_CFG.HOLDOVER seconds and TIME_STATUS.VALID clears. -/
  | holdoverExpire (t : Nat)
  /-- ARB_DECISION (R335): An arbiter decides the next cycle's grant by class and round robin. -/
  | arbDecision (arb : Fin 112) (fw : BitVec 32) (other : BitVec 32) (static : Bool)
  /-- ARB_STARVE_THRESHOLD (R338): A requester's wait reaches ARB_STARVE_THR and its ARB_STARVE bit is set. -/
  | arbStarveThreshold (arb : Fin 112) (r : Fin 32)
  /-- EDUSH_NOP (R368): Edush NOP returns module time and acknowledges events cumulatively. -/
  | edushNop (op : BitVec 16) (m : Mail)
  /-- PARCEL_CREATE (R370): Creates a parcel with quotas and unwrapped keys. -/
  | parcelCreate (m : Mail)
  /-- PARCEL_DESTROY (R325): Drains, destroys and scrubs a parcel. -/
  | parcelDestroy (m : Mail)
  /-- PARCEL_ENABLE (R325): Opens admission for a parcel. -/
  | parcelEnable (m : Mail)
  /-- PARCEL_DISABLE (R325): Closes admission and drains and scrubs a parcel. -/
  | parcelDisable (m : Mail)
  /-- MODEL_REGISTER (R229): Creates a registry entry with grants, serving parameters and tables. -/
  | modelRegister (m : Mail)
  /-- MODEL_FETCH (R233): Reads and checks a Dexram manifest and starts fetching this member's shards. -/
  | modelFetch (m : Mail)
  /-- MODEL_FILL (R238): Places and fills a READY model into Field. -/
  | modelFill (m : Mail)
  /-- MODEL_EVICT (R241): Evicts a model from Field or removes it from the registry. -/
  | modelEvict (m : Mail)
  /-- ADAPTER_LOAD (R242): Creates an adapter entry and fetches version 1. -/
  | adapterLoad (m : Mail)
  /-- ADAPTER_REPLACE (R242): Fetches a new adapter version that becomes CURRENT when verified. -/
  | adapterReplace (m : Mail)
  /-- ADAPTER_WITHDRAW (R246): Stops admissions for an adapter and retires its versions. -/
  | adapterWithdraw (m : Mail)
  /-- PLAT_LOAD (R135): Loads and checks a plat into a model's registry entry. -/
  | platLoad (m : Mail)
  /-- PREFIX_PIN (R300): Pins a request's KV pages below L as a prefix handle. -/
  | prefixPin (m : Mail)
  /-- PREFIX_UNPIN (R301): Makes a prefix handle unknown; pages free with their last reference. -/
  | prefixUnpin (m : Mail)
  /-- RING_CREATE (R372): Creates an intake ring with staging window and completion ring. -/
  | ringCreate (m : Mail)
  /-- RING_DESTROY (R285): Destroys a ring after its started requests end. -/
  | ringDestroy (m : Mail)
  /-- STATS_READ (R373): Returns a state record such as summary, tile map, registry or plots. -/
  | statsRead (m : Mail)
  /-- COUNTERS_READ (R373): Returns control-space words or ring or parcel counters, clearing RC counters. -/
  | countersRead (m : Mail)
  /-- FIELDBOOK_READ (R436): Returns field-book records from the retained ring. -/
  | fieldbookRead (m : Mail)
  /-- TOPOLOGY_PLAN_SET (R390): Sets the topology plan and starts discovery. -/
  | topologyPlanSet (m : Mail)
  /-- TOPOLOGY_READ (R368): Returns the plan with each port's benchmark word and state. -/
  | topologyRead (m : Mail)
  /-- LINK_RETRAIN (R483): Retrains a fabric, Ethernet or CXL link. -/
  | linkRetrain (m : Mail)
  /-- POWER_CAP_SET (R452): Sets and persists the power cap. -/
  | powerCapSet (m : Mail)
  /-- STATE_SET (R444): Requests a power state: SERVE, Quiet, Dormant or Off. -/
  | stateSet (m : Mail)
  /-- STATE_SET_NETWORK (R374): Sets network records and the mailbox port, effective after the response. -/
  | stateSetNetwork (m : Mail)
  /-- PARCEL0_KEY_INSTALL (R474): Mode 0: first install of parcel 0's key from an RSAES-OAEP ciphertext. -/
  | parcel0KeyInstall (m : Mail)
  /-- PARCEL0_KEY_REPLACE (R474): Mode 1: replaces parcel 0's key from a wrapped value. -/
  | parcel0KeyReplace (m : Mail)
  /-- QUADRANT_TAKE_OUT (R482): Takes a quadrant out of service, moving or evicting its plots and powering it down. -/
  | quadrantTakeOut (m : Mail)
  /-- QUADRANT_RETEST (R481): Powers an out-of-service quadrant and runs its full self-test. -/
  | quadrantRetest (m : Mail)
  /-- QUADRANT_RETURN (R481): Returns a quadrant to service and rebuilds its carve-out. -/
  | quadrantReturn (m : Mail)
  /-- HBM_RECAL (R483): Requests an extra recalibration of one stack. -/
  | hbmRecal (m : Mail)
  /-- FW_STAGE (R470): Fetches, checks and writes a firmware image to the idle bank. -/
  | fwStage (m : Mail)
  /-- POLICY_IMAGE_STAGE (R413): FW_STAGE of a policy image installs or removes a parcel's policy module. -/
  | policyImageStage (m : Mail)
  /-- FW_ACTIVATE (R471): Switches the cores one at a time to the other firmware bank. -/
  | fwActivate (m : Mail)
  /-- ACTIVATION_UNDO (R473): A switched core gives no heartbeat or refuses handoff; the activation is undone. -/
  | activationUndo (t : Nat)
  /-- SPDM_MESSAGE (R475): Carries an SPDM 1.2 request and returns its response. -/
  | spdmMessage (m : Mail)
  /-- EVENT_RESEND (R376): An unacknowledged event is sent again 50 ms after its previous send. -/
  | eventResend (parcel : Fin 513) (num : BitVec 32) (t : Nat)
  /-- SEQ_FLOOR_COMMIT_DONE (R440): A sequence-floor commit completes and set-aside requests execute. -/
  | seqFloorCommitDone (t : Nat)
  /-- ETH_LINK_CHANGE (R327): An Ethernet port goes up or down; PTP may move port and queue pairs fail. -/
  | ethLinkChange (port : Fin 8) (up : Bool) (t : Nat)
  /-- QP_FAILURE (R355): A RoCEv2 queue pair fails after 7 retries or port loss. -/
  | qpFailure (qp : BitVec 24) (fetch : Option (LoadRef × Fin 4)) (t : Nat)
  /-- RDMA_CONNECT (R372): A connection request binds a queue pair to a ring or is rejected. -/
  | rdmaConnect (port : Fin 8) (qp : BitVec 24) (priv : Bytes)
  /-- NEIGHBOUR_REQUEST (R353): ARP, neighbour discovery or echo request answered within rate limits. -/
  | neighbourRequest (port : Fin 8) (kind : Fin 4) (t : Nat)
  /-- FLIT_RECEIVE (R382): A fabric flit arrives; CRC, sequence, ACK/NAK and credits are processed. -/
  | flitReceive (port : Fin 12) (flit : Bytes) (t : Nat)
  /-- ACK_TIMER (R383): A receiver returns ACK at least every 200 ns. -/
  | ackTimer (port : Fin 12)
  /-- LINK_TRAINING_START (R386): Signal, retrain or the 1 s retry starts PHY training of a DOWN link. -/
  | linkTrainingStart (port : Fin 12) (t : Nat)
  /-- LANES_TRAINED (R386): All four lanes train and the link enters IDENT. -/
  | lanesTrained (port : Fin 12) (t : Nat)
  /-- TRAINING_TIMEOUT (R386): 500 ms pass in TRAINING; the link goes DOWN with LANE_FAIL. -/
  | trainingTimeout (port : Fin 12) (lanes : BitVec 4) (t : Nat)
  /-- BENCHMARK_RECEIVED (R392): A benchmark word is compared with the plan; the link goes UP or QUARANTINED. -/
  | benchmarkReceived (port : Fin 12) (serial : BitVec 64) (slot : BitVec 2) (far : BitVec 4) (step : BitVec 8) (rtt : BitVec 16) (t : Nat)
  /-- BENCHMARK_SEND (R387): Periodic sending of benchmark flits. -/
  | benchmarkSend (port : Fin 12)
  /-- LINK_LOSS (R386): Loss of lock, FEC failures or replay limit takes an UP link to RECOVER. -/
  | linkLoss (port : Fin 12) (replay : Bool) (t : Nat)
  /-- RECOVER_RELOCK (R386): The PHY relocks within 100 µs and the link returns to UP. -/
  | recoverRelock (port : Fin 12) (same : Bool) (t : Nat)
  /-- RECOVER_TIMEOUT (R404): 100 µs in RECOVER: the link goes DOWN, collective tasks are forced and abort notices sent. -/
  | recoverTimeout (port : Fin 12) (t : Nat)
  /-- DISCOVERY_END (R393): Discovery ends 1 s after it starts; missing links are marked and the plan completion sent. -/
  | discoveryEnd (t : Nat)
  /-- FP_CTRL_ENABLE (R386): Write of FP_CTRL.ENABLE enables or takes a link DOWN. -/
  | fpCtrlEnable (port : Fin 12) (on : Bool) (t : Nat)
  /-- FP_CTRL_RETRAIN (R386): Write of FP_CTRL.RETRAIN takes the link DOWN and retrains it. -/
  | fpCtrlRetrain (port : Fin 12) (t : Nat)
  /-- WRITE (R396): A fabric WRITE message is checked, written and answered with WRITE_ACK. -/
  | write (port : Fin 12) (m : MsgIn)
  /-- READ (R396): A fabric READ message is checked and answered with READ_DATA. -/
  | read (port : Fin 12) (m : MsgIn)
  /-- READ_DATA (R396): Read data returns to a remote sluice command. -/
  | readData (port : Fin 12) (m : MsgIn)
  /-- WRITE_ACK (R396): A write acknowledgement returns; the remote command completes when all have returned. -/
  | writeAck (port : Fin 12) (m : MsgIn)
  /-- CHAN_WRITE (R400): A channel write lands in the peer's window and optionally signals a semaphore. -/
  | chanWrite (port : Fin 12) (m : MsgIn)
  /-- QUEUE_LINK (R401): A lateral packet from another module is written into cells and linked to its queue. -/
  | queueLink (port : Fin 12) (m : MsgIn)
  /-- REMOTE_TIMEOUT (R397): No reply within 1 ms; the remote command fails with REMOTE_FAIL. -/
  | remoteTimeout (engine : Fin 64) (index : BitVec 20)
  /-- NEIGHBOUR_EXCHANGE (R395): Every 10 ms and on link change modules exchange neighbour lists and recompute paths. -/
  | neighbourExchange (arrive : Option MgmtIn) (list : List (BitVec 64))
  /-- MGMT_RESEND (R402): An unacknowledged management message is resent every 1 ms. -/
  | mgmtResend (id : BitVec 32) (acked : Bool)
  /-- ABORT_NOTICE (R404): An abort notice is received and the member forces its task of the model within 50 µs. -/
  | abortNotice (m : MgmtIn) (tag : BitVec 64) (cause : BitVec 16) (t : Nat)
  /-- CHANNEL_BIND (R400): Management message binding a channel between two placed plots. -/
  | channelBind (m : MgmtIn) (model : Fin 256) (channel : Fin 4096) (out : Bool) (reply : Bool)
  /-- DEGRADED_AGREEMENT (R406): Members agree the lowest degraded position after LINK_DOWN and rerun the batch. -/
  | degradedAgreement (model : Fin 256) (pos : Option (Fin 16)) (t : Nat)
  /-- RETURNED_TOKENS (R295): Tokens produced on another module return for completion writing. -/
  | returnedTokens (handle : BitVec 32) (pos : Nat) (toks : List (BitVec 32)) (fin : Option (BitVec 16))
  /-- LIVENESS_PROBE (R405): A module in RECOVER sends a probe every 10 µs over network B. -/
  | livenessProbe (port : Fin 12)
  /-- PROBE_ANSWER (R405): A received probe is answered at once, or an answer is recorded. -/
  | probeAnswer (serial : BitVec 64) (answer : Bool)
  /-- MGMT_AUTH_FAIL (R403): A management datagram on port 47,101 failing authentication is dropped and counted. -/
  | mgmtAuthFail
  /-- POLICY_TICK (R414): A policy module's tick entry is invoked every 10 ms. -/
  | policyTick (slot : Fin 4) (t : Nat)
  /-- POLICY_STARVE (R414): A policy module's starvation entry is invoked on a relevant ARB_STARVE bit. -/
  | policyStarve (slot : Fin 4) (arb : Fin 112)
  /-- POLICY_STEP (R414): A policy module's step entry is invoked for a step report. -/
  | policyStep (slot : Fin 4) (lead : Fin 64)
  /-- POLICY_BUDGET_OVERRUN (R416): A policy invocation exceeds 50 µs or faults and the module is removed. -/
  | policyBudgetOverrun (slot : Fin 4)
  /-- POL_COUNTERS (R415): Policy call copying the parcel's counters. -/
  | polCounters (slot : Fin 4) (a0 : BitVec 64)
  /-- POL_PLOTS (R415): Policy call copying the parcel's plots record. -/
  | polPlots (slot : Fin 4) (a0 : BitVec 64)
  /-- POL_SHARE (R415): Policy call setting the parcel's effective prefill shares. -/
  | polShare (slot : Fin 4) (lo : BitVec 64) (hi : BitVec 64)
  /-- POL_PREEMPT (R415): Policy call making a waiting placement urgent. -/
  | polPreempt (slot : Fin 4) (model : BitVec 64)
  /-- POL_WEIGHT (R415): Policy call writing an arbiter requester's weight. -/
  | polWeight (slot : Fin 4) (arb : BitVec 64) (r : BitVec 64) (w : BitVec 64)
  /-- POL_DONE (R415): Policy call ending the invocation. -/
  | polDone (slot : Fin 4)
  /-- HIC_SOURCE_EVENT (R418): A unit signals an event and its HIC pending bit is set. -/
  | hicSourceEvent (src : Fin 256)
  /-- HIC_TAKE (R420): A core takes the offered eligible source and vectors to its handler. -/
  | hicTake (x : CoreIn)
  /-- HIC_EOI (R421): End-of-interrupt write clears a source's active bit or counts a bad EOI. -/
  | hicEoi (core : Fin 4) (src : BitVec 8)
  /-- HIC_SWI (R417): Write of HIC_SWI raises events on software sources 0 to 3. -/
  | hicSwi (v : BitVec 4)
  /-- HIC_PEND_WRITE (R424): Write of a HIC_PEND word, with the race outcomes against events and takes. -/
  | hicPendWrite (w : Fin 4) (v : BitVec 64) (events : BitVec 64) (taker : Option CoreIn)
  /-- HEARTBEAT_TIMEOUT (R429): A watched core's heartbeat is 100 ms old; it is reset, or held after three resets. -/
  | heartbeatTimeout (core : Fin 4) (t : Nat)
  /-- FIELDBOOK_EVENT_POST (R431): An event posted through the Ditch Rider mailbox is numbered and stored in the field book. -/
  | fieldbookEventPost (src : BitVec 8) (code : BitVec 16) (status : BitVec 16) (parcel : BitVec 16) (unit : BitVec 32) (detail : BitVec 64) (t : Nat)
  /-- LOG_PAGE_WRITE (R434): Gathered records are written as a flash log page when 127 gather or a flushing status arrives. -/
  | logPageWrite (t : Nat)
  /-- LOG_FLUSH_TIMER (R434): 10 s since the last page with records waiting triggers a page write. -/
  | logFlushTimer (t : Nat)
  /-- STORE_COMMIT (R440): A persistent-store commit is posted to the Ditch Rider and written to the other bank. -/
  | storeCommit (t : Nat)
  /-- STORE_COMMIT_COMPLETE (R440): A commit's read-back verifies and its changes become durable, or it is retried. -/
  | storeCommitComplete (ok : Bool) (t : Nat)
  /-- POWER_CAP_TICK (R452): Every 100 µs the power unit adjusts the cap ceiling from the 1 ms average. -/
  | powerCapTick (vmain : BitVec 16) (imain : BitVec 16) (vaux : BitVec 16) (avg : BitVec 16) (t : Nat)
  /-- THERMAL_SAMPLE (R454): Sensor samples move each quadrant's thermal ceiling. -/
  | thermalSample (x : Samples) (t : Nat)
  /-- FREQUENCY_CHANGE (R451): A quadrant group's array frequency changes to the lowest ceiling, after any switch in progress. -/
  | frequencyChange (quad : Fin 4) (t : Nat)
  /-- THERMAL_LIMIT (R455): A sensor at 105 °C in two samples forces every running plot and enters Quiet under thermal hold. -/
  | thermalLimit (unit : BitVec 8) (temp : BitVec 8) (t : Nat)
  /-- HOLD_RELEASE (R455): Thermal or coolant hold releases and the module returns to the state last requested. -/
  | holdRelease (coolant : Bool) (t : Nat)
  /-- HARDWARE_TRIP (R456): A 115 °C comparator cuts the main rails and latches the trip. -/
  | hardwareTrip (die : Fin 5) (t : Nat)
  /-- BROWNOUT_ENTER (R457): Main input below 44 V for 10 µs sets the 1.0 GHz voltage ceiling. -/
  | brownoutEnter (mv : BitVec 16) (t : Nat)
  /-- BROWNOUT_RELEASE (R457): Main input at 45 V or more for 10 ms removes the voltage ceiling. -/
  | brownoutRelease (mv : BitVec 16) (t : Nat)
  /-- POWER_FAIL (R458): Under- or overvoltage or auxiliary loss forces all tasks, flushes and cuts to Off. -/
  | powerFail (cause : Fin 3) (mv : BitVec 16) (t : Nat)
  /-- COOLANT_LOST (R461): COOL_OK_N deasserted for 1 ms enters Quiet under coolant hold. -/
  | coolantLost (t : Nat)
  /-- COOLANT_OFF_TIMEOUT (R461): COOL_OK_N still deasserted 5 s into the hold; the module enters Off. -/
  | coolantOffTimeout (t : Nat)
  /-- POWER_STATE_DRAIN_DONE (R445): Every admitted request has ended after a STATE_SET and the module powers down. -/
  | powerStateDrainDone (t : Nat)
  /-- WAKE (R443): The module wakes from Quiet or Dormant to SERVE. -/
  | wake (t : Nat)
  /-- QUADRANT_GATE (R448): QGATE_MS after the last plot leaves, a quadrant's ARRAY is switched off. -/
  | quadrantGate (quad : Fin 4) (t : Nat)
  /-- POWER_UP_FROM_OFF (R503): With wake conditions met the module boots, trains and self-tests to SERVE. -/
  | powerUpFromOff (slot : Fin 4) (quads : List QuadUp) (t : Nat)
  /-- PRECHARGE (R490): Main voltage arrives and the hold-up capacitance is precharged. -/
  | precharge (t : Nat)
  /-- JTAG_EXTEST_EXIT (R502): The TAP returns to Test-Logic-Reset after EXTEST and the module enters Off. -/
  | jtagExtestExit (t : Nat)
  /-- I3C_MCTP_MESSAGE (R501): An MCTP control, PLDM sensor or field-book read message over I3C is answered. -/
  | i3cMctpMessage (req : I3cReq)
  /-- ERROR_RECORD_CLEAR (R9): A W1C write clears a fault or event record such as TILE_FAULT, PLOT_FAULT, SL_ERR or ARB_STARVE. -/
  | errorRecordClear (off : BitVec 32) (v : BitVec 64)
  /-- COUNTER_READ_CLEAR (R9): A read of an RC counter returns it and clears it. -/
  | counterReadClear (off : BitVec 32)
  /-- REGISTER_WRITE (R9): A write to a register that has no row of its own sets its value. -/
  | registerWrite (off : BitVec 32) (v : BitVec 64)
  /-- AUXILIARY_INPUT_RETURN (R435): The 12 V auxiliary input returns after a loss; the always-on domain starts afresh and the Ditch Rider reloads its field-book ring from the flash log. -/
  | auxiliaryInputReturn (t : Nat)
  /-- INTAKE_RDMA_WRITE (R280): An RDMA WRITE from the host lands in a ring's entry area or staging window, and is refused when its queue pair is not bound to the ring. -/
  | intakeRdmaWrite (ring : Fin 256) (qp : BitVec 24) (stage : Bool) (off : Nat) (data : Bytes)
  /-- CONGESTION_NOTIFICATION (R355): A RoCEv2 congestion-notification packet is received and the module lowers its sending rate on that queue pair. -/
  | congestionNotification (qp : BitVec 24)
  /-- FIRMWARE_STAGING_COMPLETE (R470): The Ditch Rider finishes writing the idle firmware bank; it is read back and staging completes with its status. -/
  | firmwareStagingComplete (image : Option Bytes) (same : Bool) (t : Nat)
  /-- ACTIVATION_CORE_SWITCHED (R471): A core restarted from the new bank writes its heartbeat and takes its duties back, so the next core switches, or after the last core the activation record is written and SVN_FLOOR blown. -/
  | activationCoreSwitched (t : Nat)
  /-- SIGNATURE_COMPLETE (R477): The security block finishes an RSA-4096 signature, the waiting SPDM response is sent, and any queued signature starts. -/
  | signatureComplete (t : Nat)
  deriving DecidableEq, Repr

end Sys2Proof
end

