-- ==== Sys2Proof/Machine/StateTile.lean ====
section
/-! DEFINITION. The state of one tile: stores, registers, contexts, queues, accumulator banks, steering unit and
control registers (Tables 2-1, 2-2, 2-15, 4-10). Plain data. -/

namespace Sys2Proof.Machine

/-- A canal token: its 32-bit header (Table 4-1), 256-bit payload and 16-bit CRC (R104). -/
structure Token where
  header : BitVec 32
  payload : BitVec 256
  crc : BitVec 16
  deriving DecidableEq, Repr

/-- A token in an input queue: its arrival number on the tile, and whether a context has bound it (R42). -/
structure QEntry where
  tok : Token
  serial : Nat
  bound : Bool
  deriving DecidableEq, Repr

/-- A token in a match store (R124): `held` counts toward the 64 entries; `paired` is the rota entry of a data token
that has paired and waits for its turn register, with the token already re-headed (R121). -/
structure MEntry where
  tok : Token
  serial : Nat
  held : Bool
  paired : Option Nat
  deriving DecidableEq, Repr

/-- A token in a turn register, with the rota entry it was placed for (R110). -/
structure TurnTok where
  tok : Token
  entry : Nat
  deriving DecidableEq, Repr

/-- The configuration of a steering channel, the immediate of its `STEER` or `MERGE` (R120). -/
inductive ChanCfg where
  | unconfigured
  | steer (imm : BitVec 64)
  | merge (imm : BitVec 64)
  deriving DecidableEq, Repr

/-- The states of a live context (Table 2-4); a context in `FREE` is not listed. -/
inductive CtxState where
  | ready
  | stalled
  | retiring
  | yielded
  deriving DecidableEq, Repr

/-- An open loop: first and last word of its body and the iterations still to run, this one included (R49). -/
structure OpenLoop where
  first : Nat
  last : Nat
  left : Nat
  deriving DecidableEq, Repr

/-- One token a context has bound: queue, arrival number, and whether it is a sticky token (R39). -/
structure BoundTok where
  queue : Nat
  serial : Nat
  sticky : Bool
  tok : Token
  deriving DecidableEq, Repr

/-- A live context (R30, R31, Table 2-4). `held` is a word that waits in `WAIT` for its semaphore (R50). -/
structure Ctx where
  state : CtxState
  entry : Nat
  tag : Nat
  pc : Nat
  loops : List OpenLoop
  s : SMap (BitVec 64)
  p : SMap (BitVec 64)
  v : SMap VReg
  vpriv : Nat
  sr : BitVec 32
  bound : List BoundTok
  held : Option (List SlotOp)
  yieldPoint : Nat
  deriving DecidableEq, Repr

/-- The class of an accumulator (R80). -/
inductive AccClass where
  | finite
  | posInf
  | negInf
  | nan
  deriving DecidableEq, Repr

/-- One accumulator: the internal sum S and the class K (R80). -/
structure Acc where
  sum : Int
  cls : AccClass
  deriving DecidableEq, Repr

/-- An accumulator after a reset operation (Table 3-6). -/
def Acc.zero : Acc := ⟨0, .finite⟩

/-- An `MMA` or `MMAZ` that has issued and not yet reached its bank (R35, R57). -/
structure PendMma where
  fmtA : Nat
  fmtB : Nat
  a : VReg
  b : VReg
  scales : VReg
  half : Bool
  mask : BitVec 64
  zeroFirst : Bool
  deriving DecidableEq, Repr

/-- An accumulator bank: window exponent, sticky flags, 512 accumulators by 16 × row + column, issued contributions,
and the context that owns it (R34, R80). -/
structure Bank where
  w : BitVec 10
  underF : Bool
  overF : Bool
  acc : SMap Acc
  pend : List PendMma
  owner : Option Nat
  deriving DecidableEq, Repr

def Bank.clear : Bank := ⟨0, false, false, [], [], none⟩

/-- A fault record: cause, validity and overrun, and its information word (Tables 2-17, 4-10). -/
structure FaultRec where
  cause : Nat
  valid : Bool
  multi : Bool
  info : BitVec 64
  deriving DecidableEq, Repr

def FaultRec.clear : FaultRec := ⟨0, false, false, 0⟩

/-- `TILE_STATUS.STATE` (Table 2-16). -/
inductive TileState where
  | fenced
  | idle
  | running
  | parked
  deriving DecidableEq, Repr

/-- The control and status registers of a tile (Tables 2-15 to 2-18, 4-10, 4-11); read-only values that follow from
the rest of the tile are computed where they are read. -/
structure TileRegs where
  state : TileState
  fenceCore : Bool
  fenceFull : Bool
  yieldDone : Bool
  drained : Bool
  retest : Bool
  epoch : Nat
  yieldReq : Bool
  stop : Bool
  fault : FaultRec
  fwinBase : Nat
  fwinLimit : Nat
  fireCnt : Nat
  issueCnt : Nat
  stallCnt : Nat
  waitCnt : Nat
  selftest : BitVec 32
  period : Nat
  linkEn : Nat
  epochAccept : Nat
  canalFault : FaultRec
  staleDrop : Nat
  tokenIn : Nat
  tokenOut : Nat
  matchHwm : Nat
  steerCnt : Nat
  deriving DecidableEq, Repr

/-- The registers of a tile after reset (Tables 2-15, 4-10). -/
def TileRegs.reset : TileRegs where
  state := .idle
  fenceCore := false
  fenceFull := false
  yieldDone := false
  drained := false
  retest := false
  epoch := 0
  yieldReq := false
  stop := false
  fault := .clear
  fwinBase := 0
  fwinLimit := 0
  fireCnt := 0
  issueCnt := 0
  stallCnt := 0
  waitCnt := 0
  selftest := 0
  period := 0
  linkEn := 0
  epochAccept := 0
  canalFault := .clear
  staleDrop := 0
  tokenIn := 0
  tokenOut := 0
  matchHwm := 0
  steerCnt := 0

/-- One tile (Table 2-1). `trig` holds bank b, entry i at key 64 b + i; `retired` holds entry i, tag t at 512 i + t.
`halted` is the stop of issue and firing that a fault makes (R65); `fireStop` that of a switch request (R64). -/
structure Tile where
  imem : SMap WideWord
  rota : SMap (BitVec 128)
  trig : SMap (BitVec 128)
  trigBank : Nat
  old : SMap Nat
  retired : SMap Bool
  queues : SMap (List QEntry)
  serial : Nat
  matchStore : List MEntry
  chans : SMap ChanCfg
  tregs : SMap (Option TurnTok)
  s : SMap (BitVec 64)
  p : SMap (BitVec 64)
  v : SMap VReg
  a0 : Bank
  a1 : Bank
  sem : SMap Nat
  ctxs : SMap (Option Ctx)
  halted : Bool
  fireStop : Bool
  lead : Option Nat
  regs : TileRegs
  deriving DecidableEq, Repr

/-- A tile after reset, with no plat. -/
def Tile.reset : Tile where
  imem := []
  rota := []
  trig := []
  trigBank := 0
  old := []
  retired := []
  queues := []
  serial := 0
  matchStore := []
  chans := []
  tregs := []
  s := []
  p := []
  v := []
  a0 := .clear
  a1 := .clear
  sem := []
  ctxs := []
  halted := false
  fireStop := false
  lead := none
  regs := .reset

/-- A token copy on a link: where it arrives, as 4 × tile + port for a switch input (port 0 N, 1 E, 2 S, 3 W), or as
4 × edge tile + outward port for an edge gate (R100, R118). -/
structure Flight where
  dst : Nat
  gate : Bool
  tok : Token
  deriving DecidableEq, Repr

end Sys2Proof.Machine
end

