-- ==== Sys2Proof/Machine/Flags.lean ====
section
/-! DEFINITION. The matrix unit: element formats and classes (R70 to R76), exact products (R77 to R79), the windowed
accumulator with its `UNDER` and `OVER` flags (R80 to R85) and read-out (R88 to R94). -/

namespace Sys2Proof.Machine

/-- The format class of a code in `MMA`: bits per element, and whether integer (Table 2-8, R51). -/
def mmaClass (code : Nat) : Option (Nat × Bool) :=
  match code with
  | 1 => some (8, false)
  | 2 => some (8, false)
  | 3 => some (8, false)
  | 4 => some (8, false)
  | 5 => some (6, false)
  | 6 => some (6, false)
  | 7 => some (4, false)
  | 8 => some (8, true)
  | 9 => some (4, true)
  | 10 => some (16, false)
  | _ => none

/-- A pair of formats that an `MMA` takes (R51, R76). -/
def mmaPairOk (fa fb : Nat) : Bool :=
  match mmaClass fa, mmaClass fb with
  | some a, some b => decide (a = b)
  | _, _ => false

/-- K positions of one `MMA` by element width (R51). -/
def mmaK (bits : Nat) : Nat := if bits = 4 then 16 else if bits = 16 then 4 else 8

/-- An MX format: MXFP8, MXFP6 or MXFP4 (Table 2-8). -/
def isMX (code : Nat) : Bool := decide (3 ≤ code ∧ code ≤ 7)

/-- The floating-point format of a code of Table 2-8. -/
def codeFmt (code : Nat) : Fmt :=
  match code with
  | 0 => fmtFP32
  | 1 => fmtE4M3
  | 2 => fmtE5M2
  | 3 => fmtE4M3
  | 4 => fmtE5M2
  | 5 => fmtE3M2
  | 6 => fmtE2M3
  | 7 => fmtE2M1
  | 10 => fmtBF16
  | _ => fmtFP16

/-- The exact value of an element (R71, R73). -/
def elemVal (code x : Nat) : FVal :=
  if code = 8 ∨ code = 9 then
    let w := if code = 8 then 8 else 4
    if bitB x (w - 1) then .fin true (2 ^ w - x) 0 else .fin false x 0
  else (codeFmt code).decode x

/-- The scale exponent of an E8M0 code, none for NaN (R72). -/
def scaleExp (x : Nat) : Option Int := if x = 0xFF then none else some ((x : Int) - 127)

/-- The product of two elements under their scales (R77, Table 3-3); none is the class NaN. -/
def mmaProduct (a b : FVal) (ka kb : Option Int) : FVal :=
  match ka, kb with
  | some x, some y =>
    (match a.mul b with
      | .fin n m e => .fin n m (e + x + y)
      | v => v)
  | _, _ => .nan

/-- The largest visible magnitude 2^127 − 2 (R80). -/
def accVis : Int := 2 ^ 127 - 2

/-- The limit of the internal sum (R83). -/
def accLim : Int := 2 ^ 143 - 1

/-- The visible value N (R80). -/
def Acc.vis (a : Acc) : Int := max (-accVis) (min accVis a.sum)

/-- Class combination (Table 3-5). -/
def AccClass.join : AccClass → AccClass → AccClass
  | .finite, c => c
  | c, .finite => c
  | .posInf, .posInf => .posInf
  | .negInf, .negInf => .negInf
  | _, _ => .nan

/-- Add an integer to the internal sum: a sum outside the 144-bit two's-complement range is held at ±(2^143 − 1), and the flag says
so (R83). -/
def Acc.addInt (a : Acc) (t : Int) : Acc × Bool :=
  let x := a.sum + t
  if accLim < x then (⟨accLim, a.cls⟩, true)
  else if x < -accLim - 1 then (⟨-accLim, a.cls⟩, true)
  else (⟨x, a.cls⟩, false)

/-- The signed window exponent W. -/
def Bank.win (b : Bank) : Int := b.w.toInt

/-- What one product contributes under window exponent `w`: integer, under bit, over bit, class (R81). -/
structure Contrib where
  t : Int
  underF : Bool
  overF : Bool
  cls : AccClass
  deriving DecidableEq, Repr

/-- Convert a product to a contribution (R81). -/
def contrib (w : Int) : FVal → Contrib
  | .nan => ⟨0, false, false, .nan⟩
  | .inf n => ⟨0, false, false, if n then .negInf else .posInf⟩
  | .fin n m e =>
    let q := quantAt m e (w - 100)
    let big := decide (accVis < (q.n : Int))
    let t : Int := if big then accVis else q.n
    ⟨if n then -t else t, decide (q.rem ≠ 0), big, .finite⟩

/-- Add one contribution to an accumulator; the flags raised come back as (under, over). -/
def Acc.take (a : Acc) (c : Contrib) : Acc × Bool × Bool :=
  let r := a.addInt c.t
  (⟨r.1.sum, a.cls.join c.cls⟩, c.underF, c.overF || r.2)

/-- The contributions of an issued `MMA` to row `i`, column `j` (R77 to R79, guard of Table 2-6a). -/
def PendMma.products (x : PendMma) (w : Int) (i j : Nat) : List Contrib :=
  let bits := ((mmaClass x.fmtA).getD (8, false)).1
  let kn := mmaK bits
  let av := x.a.toNat
  let bv := x.b.toNat / (if x.half then 2 ^ 1024 else 1)
  let sc := x.scales.toNat
  let ka := if isMX x.fmtA then scaleExp (laneAt 8 sc i) else some 0
  let kb := if isMX x.fmtB then scaleExp (laneAt 8 sc (32 + j)) else some 0
  if x.mask.getLsbD i && x.mask.getLsbD (32 + j) then
    (List.range kn).filterMap (fun k =>
      if x.mask.getLsbD (48 + k) then
        some (contrib w (mmaProduct (elemVal x.fmtA (laneAt bits av (i * kn + k)))
          (elemVal x.fmtB (laneAt bits bv (j * kn + k))) ka kb))
      else none)
  else []

/-- Read one accumulator of a bank. -/
def Bank.at (b : Bank) (i : Nat) : Acc := SMap.get Acc.zero b.acc i

/-- Add contributions to accumulator `i`, with the flags they set. -/
def Bank.takeAll (b : Bank) (i : Nat) (cs : List Contrib) : Bank :=
  cs.foldl (fun b c =>
    let r := (b.at i).take c
    { b with acc := SMap.set Acc.zero b.acc i r.1, underF := b.underF || r.2.1, overF := b.overF || r.2.2 }) b

/-- The products of one issued `MMA` reach the bank (R81). -/
def Bank.landOne (b : Bank) (x : PendMma) : Bank :=
  let b0 := if x.zeroFirst then { b with acc := [] } else b
  (List.range 512).foldl (fun b i => b.takeAll i (x.products b.win (i / 16) (i % 16))) b0

/-- The oldest issued `MMA` reaches the bank; none leaves it as it is. -/
def Bank.landOldest (b : Bank) : Bank :=
  match b.pend with
  | [] => b
  | x :: l => { b.landOne x with pend := l }

/-- Every issued `MMA` reaches the bank, in issue order (R35). -/
def Bank.landAll (b : Bank) : Bank := { b.pend.foldl Bank.landOne b with pend := [] }

/-- The examination of every accumulator that a read makes (R82). -/
def Bank.examine (b : Bank) : Bank :=
  if b.acc.any (fun e => decide (e.2.cls = .finite ∧ accVis < e.2.sum.natAbs)) then { b with overF := true } else b

/-- The raw 128-bit value of an accumulator (R84). -/
def Acc.raw (a : Acc) : BitVec 128 :=
  match a.cls with
  | .finite => BitVec.ofInt 128 a.vis
  | .posInf => BitVec.ofInt 128 (2 ^ 127 - 1)
  | .negInf => BitVec.ofInt 128 (-(2 ^ 127 - 1))
  | .nan => BitVec.ofInt 128 (-(2 ^ 127))

/-- The contribution a raw 128-bit value makes through `AADD` (R84). -/
def rawContrib (x : BitVec 128) : Contrib :=
  if x.toInt = 2 ^ 127 - 1 then ⟨0, false, false, .posInf⟩
  else if x.toInt = -(2 ^ 127 - 1) then ⟨0, false, false, .negInf⟩
  else if x.toInt = -(2 ^ 127) then ⟨0, false, false, .nan⟩
  else ⟨x.toInt, false, false, .finite⟩

/-- `ARAW`: the 16 raw accumulators of a row (R84). -/
def Bank.rawRow (b : Bank) (row : Nat) : Nat := ofLanes 128 16 (fun j => (b.at (16 * row + j)).raw.toNat)

/-- `AADD`: add 16 raw values into a row (R84). -/
def Bank.addRow (b : Bank) (row x : Nat) : Bank :=
  (List.range 16).foldl (fun b j => b.takeAll (16 * row + j) [rawContrib (BitVec.ofNat 128 (laneAt 128 x j))]) b

/-- `ACLR` (Table 3-6). -/
def Bank.aclr (b : Bank) : Bank := { b with acc := [], underF := false, overF := false }

/-- `AWIN` (Table 3-6). -/
def Bank.awin (b : Bank) (w : BitVec 10) : Bank := { b.aclr with w := w }

/-- One output of the xorshift generator, which is also its new state (R91). -/
def srNext (x : BitVec 32) : BitVec 32 :=
  let a := x ^^^ (x <<< 13)
  let b := a ^^^ (a >>> 17)
  b ^^^ (b <<< 5)

/-- The 32-bit finaliser of R92. -/
def srMix (x : BitVec 32) : BitVec 32 :=
  let a := (x ^^^ (x >>> 16)) * 0x85EBCA6B#32
  let b := (a ^^^ (a >>> 13)) * 0xC2B2AE35#32
  b ^^^ (b >>> 16)

/-- The generator state of a new context (R92). -/
def srSeed (seed : BitVec 32) (g i t n : Nat) : BitVec 32 :=
  let x := srMix (seed ^^^ (BitVec.ofNat 32 (g * 2 ^ 20) ||| BitVec.ofNat 32 (i * 2 ^ 14)
    ||| BitVec.ofNat 32 (t * 2 ^ 5) ||| BitVec.ofNat 32 n))
  if x = 0 then 0x6D2B79F5#32 else x

/-- Rows an `ARD` reads (R52), 0 for a format it does not take. -/
def ardRows (code : Nat) : Nat :=
  if code = 0 then 4 else if code = 10 ∨ code = 11 then 8 else if 1 ≤ code ∧ code ≤ 8 then 16 else 0

/-- Bits per element of a read-out format. -/
def ardBits (code : Nat) : Nat := if code = 8 then 8 else (codeFmt code).width

/-- Round a truncation by the mode: 0 nearest even, 1 stochastic with output `r` (R89, R90). -/
def Quant.roundBy (q : Quant) (stoch : Bool) (r : BitVec 32) : Nat := if stoch then q.stoch r.toNat else q.rne

/-- Read-out of a finite value to a floating format, saturating (Table 3-7). -/
def readFin (f : Fmt) (stoch : Bool) (r : BitVec 32) (neg : Bool) (m : Nat) (e : Int) : Nat :=
  if m = 0 then 0
  else
    let q := f.quant m e
    f.sign neg (min (f.magCode q.eq (q.roundBy stoch r)) f.maxCode)

/-- Read-out to INT8 (R94, Table 3-7). -/
def readInt8 (stoch : Bool) (r : BitVec 32) (neg : Bool) (m : Nat) (e : Int) : Nat :=
  let n := (quantAt m e 0).roundBy stoch r
  if neg then (256 - min n 128) % 256 else min n 127

/-- Read-out of one accumulator to a format that is not MX (Table 3-7). -/
def Acc.readOut (a : Acc) (w : Int) (code : Nat) (stoch : Bool) (r : BitVec 32) : Nat :=
  let f := codeFmt code
  match a.cls with
  | .finite =>
    if code = 8 then readInt8 stoch r (decide (a.vis < 0)) a.vis.natAbs (w - 100)
    else readFin f stoch r (decide (a.vis < 0)) a.vis.natAbs (w - 100)
  | .posInf => if code = 8 then 127 else f.maxCode + 1
  | .negInf => if code = 8 then 128 else f.sign true (f.maxCode + 1)
  | .nan => if code = 8 then 0 else f.nan

/-- e_max of an MX element format (R93). -/
def mxEmax (code : Nat) : Int := if code = 3 then 8 else if code = 4 then 15 else if code = 5 then 4 else 2

/-- The scale code of an MX block of accumulators: 0xFF for a block NaN, 0x7F for a block of zeros (R93). -/
def mxScale (code : Nat) (w : Int) (l : List Acc) : Nat :=
  if l.any (fun a => decide (a.cls ≠ .finite)) then 0xFF
  else
    let amax := l.foldl (fun m a => max m a.vis.natAbs) 0
    if amax = 0 then 0x7F
    else (max (-127) (min 127 ((Nat.log2 amax : Int) + w - 100 - mxEmax code)) + 127).toNat

/-- What an `ARD` yields: the register value, the scales, and the generator afterwards. -/
structure ArdOut where
  value : Nat
  scales : Nat
  sr : BitVec 32
  deriving DecidableEq, Repr

/-- The elements of an `ARD` in row-major order, each with its generator output, in either rounding mode (R47, R91). -/
def ardElems (b : Bank) (code row0 : Nat) (stoch : Bool) (scales : Nat) :
    Nat → Nat → BitVec 32 → Nat → Nat × BitVec 32
  | 0, _, sr, acc => (acc, sr)
  | n + 1, i, sr, acc =>
    let sr' := srNext sr
    let a := b.at (16 * row0 + i)
    let x :=
      if isMX code then
        let sc := laneAt 8 scales (i / 32)
        if sc = 0xFF then 0
        else readFin (codeFmt code) stoch sr' (decide (a.vis < 0)) a.vis.natAbs (b.win - 100 - ((sc : Int) - 127))
      else a.readOut b.win code stoch sr'
    ardElems b code row0 stoch scales n (i + 1) sr' (acc + x * 2 ^ (ardBits code * i))

/-- `ARD` of the rows from `row0` in format `code` (R88 to R94). -/
def Bank.ard (b : Bank) (code row0 : Nat) (stoch : Bool) (sr : BitVec 32) : ArdOut :=
  let rows := ardRows code
  let scales := if isMX code then
      ofLanes 8 8 (fun k => mxScale code b.win ((List.range 32).map (fun i => b.at (16 * row0 + 32 * k + i))))
    else 0
  let r := ardElems b code row0 stoch scales (16 * rows) 0 sr 0
  ⟨r.1, scales, r.2⟩

end Sys2Proof.Machine
end

