-- ==== Sys2Proof/Machine/Crypto.lean ====
section
/-! DEFINITION. Byte strings and the integrity functions the spec names: little-endian fields (R6), CRC-16 (R106),
CRC-32C (R179), CRC-32 (R391), SHA-512, HMAC-SHA-512 (R358), and RSA with PSS and OAEP (R130, R474) after RFC 8017. -/

namespace Sys2Proof.Machine

/-- The number a string of bytes spells, least significant byte first (R6). -/
def leNat : Bytes → Nat
  | [] => 0
  | b :: l => b.toNat + 256 * leNat l

/-- The number a string of bytes spells, most significant byte first (R14). -/
def beNat (l : Bytes) : Nat := l.foldl (fun a b => 256 * a + b.toNat) 0

/-- `n` bytes of a number, least significant first. -/
def toLe : Nat → Nat → Bytes
  | 0, _ => []
  | n + 1, x => BitVec.ofNat 8 x :: toLe n (x / 256)

/-- `n` bytes of a number, most significant first. -/
def toBe (n x : Nat) : Bytes := (toLe n x).reverse

/-- The `n` bytes at offset `off`; bytes past the end read as zero. -/
def slice (l : Bytes) (off n : Nat) : Bytes :=
  let r := (l.drop off).take n
  r ++ List.replicate (n - r.length) 0

/-- The little-endian field of `n` bytes at offset `off`. -/
def leAt (l : Bytes) (off n : Nat) : Nat := leNat (slice l off n)

/-- The big-endian field of `n` bytes at offset `off`. -/
def beAt (l : Bytes) (off n : Nat) : Nat := beNat (slice l off n)

/-- Bitwise exclusive or of two strings of bytes. -/
def xorBytes (a b : Bytes) : Bytes := List.zipWith (fun x y => x ^^^ y) a b

/-- One byte into the CRC-16 of polynomial 0x1021, most significant bit first (R106). -/
def crc16Step (crc : BitVec 16) (b : Byte) : BitVec 16 :=
  (List.range 8).foldl (fun c _ => if c.msb then (c <<< 1) ^^^ 0x1021#16 else c <<< 1)
    (crc ^^^ (b.zeroExtend 16 <<< 8))

/-- CRC-16, polynomial 0x1021, initial value 0xFFFF, no reflection, no final exclusive or (R106). -/
def crc16 (l : Bytes) : BitVec 16 := l.foldl crc16Step 0xFFFF#16

/-- One byte into a reflected CRC-32 of reflected polynomial `poly`. -/
def crc32Step (poly : BitVec 32) (crc : BitVec 32) (b : Byte) : BitVec 32 :=
  (List.range 8).foldl (fun c _ => if c.getLsbD 0 then (c >>> 1) ^^^ poly else c >>> 1) (crc ^^^ b.zeroExtend 32)

/-- CRC-32C. -/
def crc32c (l : Bytes) : BitVec 32 := ~~~ (l.foldl (crc32Step 0x82F63B78#32) 0xFFFFFFFF#32)

/-- CRC-32 of IEEE 802.3. -/
def crc32 (l : Bytes) : BitVec 32 := ~~~ (l.foldl (crc32Step 0xEDB88320#32) 0xFFFFFFFF#32)

/-- The first twenty round constants of SHA-512: the first 64 bits of the fractional parts of the cube roots of the
first primes. -/
def shaK1 : List (BitVec 64) :=
  [0x428A2F98D728AE22, 0x7137449123EF65CD, 0xB5C0FBCFEC4D3B2F, 0xE9B5DBA58189DBBC,
   0x3956C25BF348B538, 0x59F111F1B605D019, 0x923F82A4AF194F9B, 0xAB1C5ED5DA6D8118,
   0xD807AA98A3030242, 0x12835B0145706FBE, 0x243185BE4EE4B28C, 0x550C7DC3D5FFB4E2,
   0x72BE5D74F27B896F, 0x80DEB1FE3B1696B1, 0x9BDC06A725C71235, 0xC19BF174CF692694,
   0xE49B69C19EF14AD2, 0xEFBE4786384F25E3, 0x0FC19DC68B8CD5B5, 0x240CA1CC77AC9C65]
/-- The next twenty. -/
def shaK2 : List (BitVec 64) :=
  [0x2DE92C6F592B0275, 0x4A7484AA6EA6E483, 0x5CB0A9DCBD41FBD4, 0x76F988DA831153B5,
   0x983E5152EE66DFAB, 0xA831C66D2DB43210, 0xB00327C898FB213F, 0xBF597FC7BEEF0EE4,
   0xC6E00BF33DA88FC2, 0xD5A79147930AA725, 0x06CA6351E003826F, 0x142929670A0E6E70,
   0x27B70A8546D22FFC, 0x2E1B21385C26C926, 0x4D2C6DFC5AC42AED, 0x53380D139D95B3DF,
   0x650A73548BAF63DE, 0x766A0ABB3C77B2A8, 0x81C2C92E47EDAEE6, 0x92722C851482353B]
/-- The next twenty. -/
def shaK3 : List (BitVec 64) :=
  [0xA2BFE8A14CF10364, 0xA81A664BBC423001, 0xC24B8B70D0F89791, 0xC76C51A30654BE30,
   0xD192E819D6EF5218, 0xD69906245565A910, 0xF40E35855771202A, 0x106AA07032BBD1B8,
   0x19A4C116B8D2D0C8, 0x1E376C085141AB53, 0x2748774CDF8EEB99, 0x34B0BCB5E19B48A8,
   0x391C0CB3C5C95A63, 0x4ED8AA4AE3418ACB, 0x5B9CCA4F7763E373, 0x682E6FF3D6B2B8A3,
   0x748F82EE5DEFB2FC, 0x78A5636F43172F60, 0x84C87814A1F0AB72, 0x8CC702081A6439EC]
/-- The last twenty. -/
def shaK4 : List (BitVec 64) :=
  [0x90BEFFFA23631E28, 0xA4506CEBDE82BDE9, 0xBEF9A3F7B2C67915, 0xC67178F2E372532B,
   0xCA273ECEEA26619C, 0xD186B8C721C0C207, 0xEADA7DD6CDE0EB1E, 0xF57D4F7FEE6ED178,
   0x06F067AA72176FBA, 0x0A637DC5A2C898A6, 0x113F9804BEF90DAE, 0x1B710B35131C471B,
   0x28DB77F523047D84, 0x32CAAB7B40C72493, 0x3C9EBE0A15C9BEBC, 0x431D67C49C100D4C,
   0x4CC5D4BECB3E42B6, 0x597F299CFC657E2A, 0x5FCB6FAB3AD6FAEC, 0x6C44198C4A475817]

/-- The round constants of SHA-512. -/
def shaK : List (BitVec 64) := shaK1 ++ shaK2 ++ shaK3 ++ shaK4

/-- The initial hash value of SHA-512. -/
def shaInit : List (BitVec 64) :=
  [0x6A09E667F3BCC908, 0xBB67AE8584CAA73B, 0x3C6EF372FE94F82B, 0xA54FF53A5F1D36F1,
   0x510E527FADE682D1, 0x9B05688C2B3E6C1F, 0x1F83D9ABFB41BD6B, 0x5BE0CD19137E2179]

/-- Extend the message schedule by one word; the words stand newest first. -/
def shaSched (w : List (BitVec 64)) : List (BitVec 64) :=
  let x := w.getD 1 0
  let y := w.getD 14 0
  let s1 := x.rotateRight 19 ^^^ x.rotateRight 61 ^^^ (x >>> 6)
  let s0 := y.rotateRight 1 ^^^ y.rotateRight 8 ^^^ (y >>> 7)
  (s1 + w.getD 6 0 + s0 + w.getD 15 0) :: w

/-- One round on the eight working words. -/
def shaRound (v : List (BitVec 64)) (kw : BitVec 64) : List (BitVec 64) :=
  match v with
  | [a, b, c, d, e, f, g, h] =>
    let s1 := e.rotateRight 14 ^^^ e.rotateRight 18 ^^^ e.rotateRight 41
    let ch := (e &&& f) ^^^ (~~~ e &&& g)
    let t1 := h + s1 + ch + kw
    let s0 := a.rotateRight 28 ^^^ a.rotateRight 34 ^^^ a.rotateRight 39
    let mj := (a &&& b) ^^^ (a &&& c) ^^^ (b &&& c)
    [t1 + (s0 + mj), a, b, c, d + t1, e, f, g]
  | l => l

/-- One block of 128 bytes. -/
def shaBlock (h : List (BitVec 64)) (blk : Bytes) : List (BitVec 64) :=
  let w0 := ((List.range 16).map (fun i => BitVec.ofNat 64 (beAt blk (8 * i) 8))).reverse
  let w := ((List.range 64).foldl (fun w _ => shaSched w) w0).reverse
  List.zipWith (fun x y => x + y) h ((List.zipWith (fun k x => k + x) shaK w).foldl shaRound h)

/-- SHA-512. -/
def sha512 (m : Bytes) : Bytes :=
  let z := (240 - (m.length + 1) % 128) % 128
  let p := m ++ [0x80] ++ List.replicate z 0 ++ toBe 16 (8 * m.length)
  let h := (List.range (p.length / 128)).foldl (fun h i => shaBlock h (slice p (128 * i) 128)) shaInit
  h.flatMap (fun x => toBe 8 x.toNat)

/-- HMAC-SHA-512 under a key (RFC 2104). -/
def hmac512 (key m : Bytes) : Bytes :=
  let k0 := if 128 < key.length then sha512 key else key
  let k := slice k0 0 128
  sha512 (k.map (fun b => b ^^^ 0x5C) ++ sha512 (k.map (fun b => b ^^^ 0x36) ++ m))

/-- b^e mod m by squaring; `n` bounds the bits of the exponent. -/
def powMod : Nat → Nat → Nat → Nat → Nat
  | 0, _, _, m => 1 % m
  | n + 1, b, e, m =>
    let r := powMod n (b * b % m) (e / 2) m
    if e % 2 = 1 then r * b % m else r

/-- MGF1 with SHA-512. -/
def mgf1 (seed : Bytes) (len : Nat) : Bytes :=
  ((List.range ((len + 63) / 64)).flatMap (fun i => sha512 (seed ++ toBe 4 i))).take len

/-- A string of zero bytes. -/
def zeros (n : Nat) : Bytes := List.replicate n 0

/-- RSASSA-PSS verification, RSA-4096, SHA-512, MGF1 with SHA-512, 64-byte salt (R130): modulus, exponent, message,
signature in RFC 8017 byte order. -/
def pssVerify (n e : Nat) (m sig : Bytes) : Bool :=
  let s := beNat sig
  if n = 0 ∨ n ≤ s ∨ sig.length ≠ 512 then false
  else
    let em := toBe 512 (powMod 4096 s e n)
    let db := em.take 447
    let h := slice em 447 64
    let x := xorBytes db (mgf1 h 447)
    let x0 := match x with
      | b :: l => (b &&& 0x7F#8) :: l
      | [] => []
    let salt := x0.drop 383
    decide ((em.headD 0).toNat < 128) && (em.getLastD 0 == 0xBC#8) && (x0.take 383 == zeros 382 ++ [1#8])
      && (sha512 (zeros 8 ++ sha512 m ++ salt) == h)

/-- RSAES-OAEP decryption with SHA-512 and an empty label, RSA-4096 (R474); none where the decoding fails. -/
def oaepDecrypt (n d : Nat) (c : Bytes) : Option Bytes :=
  let x := beNat c
  if n = 0 ∨ n ≤ x ∨ c.length ≠ 512 then none
  else
    let em := toBe 512 (powMod 4096 x d n)
    let seed := xorBytes (slice em 1 64) (mgf1 (slice em 65 447) 64)
    let db := xorBytes (slice em 65 447) (mgf1 seed 447)
    let rest := (db.drop 64).dropWhile (fun b => b == 0)
    if em.headD 0 == 0 && db.take 64 == sha512 [] && rest.headD 0 == 1 then some (rest.drop 1) else none

/-! AES-256 (FIPS 197) and AES key wrap (RFC 3394), R439. -/

/-- Bytes 0 to 63 of the AES substitution box. -/
def aesSbox1 : List Nat :=
  [0x63, 0x7C, 0x77, 0x7B, 0xF2, 0x6B, 0x6F, 0xC5, 0x30, 0x01, 0x67, 0x2B, 0xFE, 0xD7, 0xAB, 0x76,
   0xCA, 0x82, 0xC9, 0x7D, 0xFA, 0x59, 0x47, 0xF0, 0xAD, 0xD4, 0xA2, 0xAF, 0x9C, 0xA4, 0x72, 0xC0,
   0xB7, 0xFD, 0x93, 0x26, 0x36, 0x3F, 0xF7, 0xCC, 0x34, 0xA5, 0xE5, 0xF1, 0x71, 0xD8, 0x31, 0x15,
   0x04, 0xC7, 0x23, 0xC3, 0x18, 0x96, 0x05, 0x9A, 0x07, 0x12, 0x80, 0xE2, 0xEB, 0x27, 0xB2, 0x75]

/-- Bytes 64 to 127 of the AES substitution box. -/
def aesSbox2 : List Nat :=
  [0x09, 0x83, 0x2C, 0x1A, 0x1B, 0x6E, 0x5A, 0xA0, 0x52, 0x3B, 0xD6, 0xB3, 0x29, 0xE3, 0x2F, 0x84,
   0x53, 0xD1, 0x00, 0xED, 0x20, 0xFC, 0xB1, 0x5B, 0x6A, 0xCB, 0xBE, 0x39, 0x4A, 0x4C, 0x58, 0xCF,
   0xD0, 0xEF, 0xAA, 0xFB, 0x43, 0x4D, 0x33, 0x85, 0x45, 0xF9, 0x02, 0x7F, 0x50, 0x3C, 0x9F, 0xA8,
   0x51, 0xA3, 0x40, 0x8F, 0x92, 0x9D, 0x38, 0xF5, 0xBC, 0xB6, 0xDA, 0x21, 0x10, 0xFF, 0xF3, 0xD2]

/-- Bytes 128 to 191 of the AES substitution box. -/
def aesSbox3 : List Nat :=
  [0xCD, 0x0C, 0x13, 0xEC, 0x5F, 0x97, 0x44, 0x17, 0xC4, 0xA7, 0x7E, 0x3D, 0x64, 0x5D, 0x19, 0x73,
   0x60, 0x81, 0x4F, 0xDC, 0x22, 0x2A, 0x90, 0x88, 0x46, 0xEE, 0xB8, 0x14, 0xDE, 0x5E, 0x0B, 0xDB,
   0xE0, 0x32, 0x3A, 0x0A, 0x49, 0x06, 0x24, 0x5C, 0xC2, 0xD3, 0xAC, 0x62, 0x91, 0x95, 0xE4, 0x79,
   0xE7, 0xC8, 0x37, 0x6D, 0x8D, 0xD5, 0x4E, 0xA9, 0x6C, 0x56, 0xF4, 0xEA, 0x65, 0x7A, 0xAE, 0x08]

/-- Bytes 192 to 255 of the AES substitution box. -/
def aesSbox4 : List Nat :=
  [0xBA, 0x78, 0x25, 0x2E, 0x1C, 0xA6, 0xB4, 0xC6, 0xE8, 0xDD, 0x74, 0x1F, 0x4B, 0xBD, 0x8B, 0x8A,
   0x70, 0x3E, 0xB5, 0x66, 0x48, 0x03, 0xF6, 0x0E, 0x61, 0x35, 0x57, 0xB9, 0x86, 0xC1, 0x1D, 0x9E,
   0xE1, 0xF8, 0x98, 0x11, 0x69, 0xD9, 0x8E, 0x94, 0x9B, 0x1E, 0x87, 0xE9, 0xCE, 0x55, 0x28, 0xDF,
   0x8C, 0xA1, 0x89, 0x0D, 0xBF, 0xE6, 0x42, 0x68, 0x41, 0x99, 0x2D, 0x0F, 0xB0, 0x54, 0xBB, 0x16]

/-- The AES substitution box. -/
def aesSbox : List Nat := aesSbox1 ++ aesSbox2 ++ aesSbox3 ++ aesSbox4

def aesSub (b : Nat) : Nat := aesSbox.getD b 0
def aesInvSub (b : Nat) : Nat := (List.range 256).findIdx (fun i => aesSub i == b)

/-- Twice a byte in the AES field. -/
def aesDouble (b : Nat) : Nat := if b < 128 then 2 * b else (2 * b) ^^^ 0x11B

/-- The product of a byte and a small constant in the AES field. -/
def aesMul (k b : Nat) : Nat :=
  let b2 := aesDouble b
  let b4 := aesDouble b2
  let b8 := aesDouble b4
  (if bitB k 0 then b else 0) ^^^ (if bitB k 1 then b2 else 0) ^^^ (if bitB k 2 then b4 else 0) ^^^ (if bitB k 3 then b8 else 0)

def xorNats (a b : List Nat) : List Nat := (a.zip b).map (fun x => x.1 ^^^ x.2)

/-- The AES-256 key schedule: words in reverse order, `i` the number of the next. -/
def aesExpand : Nat → Nat → Nat → List (List Nat) → List (List Nat)
  | 0, _, _, w => w
  | f + 1, i, rcon, w =>
    let last := w.getD 0 []
    let t := if i % 8 = 0 then xorNats ((last.drop 1 ++ last.take 1).map aesSub) [rcon, 0, 0, 0]
      else if i % 8 = 4 then last.map aesSub else last
    aesExpand f (i + 1) (if i % 8 = 0 then aesDouble rcon else rcon) (xorNats (w.getD 7 []) t :: w)

/-- The 15 round keys of 16 bytes. -/
def aesKeys (key : Bytes) : List (List Nat) :=
  let k := key.map (fun b => b.toNat)
  let w0 := ((List.range 8).map (fun i => (k.drop (4 * i)).take 4)).reverse
  let w := (aesExpand 52 8 1 w0).reverse
  (List.range 15).map (fun r => ((List.range 4).map (fun i => w.getD (4 * r + i) [])).flatMap id)

/-- Row shifts, to the left or back. -/
def aesShift (b : List Nat) : List Nat := (List.range 16).map (fun i => b.getD ((i + 4 * (i % 4)) % 16) 0)
def aesUnshift (b : List Nat) : List Nat := (List.range 16).map (fun i => b.getD ((i + 12 * (i % 4)) % 16) 0)

/-- Column mixing by the first row of a matrix. -/
def aesMix (m : List Nat) (b : List Nat) : List Nat :=
  (List.range 16).map (fun i => (List.range 4).foldl (fun a j =>
    a ^^^ aesMul (m.getD ((j + 4 - i % 4) % 4) 0) (b.getD (i / 4 * 4 + j) 0)) 0)

/-- AES-256 of one block under its round keys. -/
def aesEncrypt (ks : List (List Nat)) (b : List Nat) : List Nat :=
  let b0 := xorNats b (ks.getD 0 [])
  let b1 := (List.range 13).foldl (fun b r => xorNats (aesMix [2, 3, 1, 1] (aesShift (b.map aesSub))) (ks.getD (r + 1) [])) b0
  xorNats (aesShift (b1.map aesSub)) (ks.getD 14 [])

/-- Its inverse. -/
def aesDecrypt (ks : List (List Nat)) (b : List Nat) : List Nat :=
  let b0 := (aesUnshift (xorNats b (ks.getD 14 []))).map aesInvSub
  let b1 := (List.range 13).foldl (fun b r =>
    (aesUnshift (aesMix [14, 11, 13, 9] (xorNats b (ks.getD (13 - r) [])))).map aesInvSub) b0
  xorNats b1 (ks.getD 0 [])

def bytesOfNats (l : List Nat) : Bytes := l.map (BitVec.ofNat 8)
def natsOfBytes (l : Bytes) : List Nat := l.map (fun b => b.toNat)

/-- AES key wrap of a string of 8-byte blocks. -/
def keyWrap (key data : Bytes) : Bytes :=
  let ks := aesKeys key
  let n := data.length / 8
  let step := fun (x : Bytes × List Bytes) (t : Nat) =>
    let i := (t - 1) % n
    let b := bytesOfNats (aesEncrypt ks (natsOfBytes (x.1 ++ x.2.getD i [])))
    (xorBytes (b.take 8) (toBe 8 t), x.2.set i (b.drop 8))
  let r := (List.range (6 * n)).foldl (fun x t => step x (t + 1)) (List.replicate 8 0xA6, (List.range n).map (fun i => slice data (8 * i) 8))
  r.1 ++ r.2.flatMap id

/-- AES key unwrap: none where the integrity check fails. -/
def keyUnwrap (key blob : Bytes) : Option Bytes :=
  let ks := aesKeys key
  let n := blob.length / 8 - 1
  let step := fun (x : Bytes × List Bytes) (t : Nat) =>
    let i := (t - 1) % n
    let b := bytesOfNats (aesDecrypt ks (natsOfBytes (xorBytes x.1 (toBe 8 t) ++ x.2.getD i [])))
    (b.take 8, x.2.set i (b.drop 8))
  let r := (List.range (6 * n)).foldl (fun x t => step x (6 * n - t)) (slice blob 0 8, (List.range n).map (fun i => slice blob (8 + 8 * i) 8))
  if blob.length % 8 = 0 ∧ 2 ≤ n ∧ r.1 = List.replicate 8 0xA6 then some (r.2.flatMap id) else none

end Sys2Proof.Machine
end

