-- ==== Sys2Proof/Machine/StateCist.lean ====
section
/-! DEFINITION. The state of the cisterns (Tables 9-1, 9-2, 9-10), of the lateral engines and their route tables
(Tables 9-6, 9-11), and of the table directory and the gather engines (Tables 11-1, 11-6, 11-7). Plain data. -/

namespace Sys2Proof.Machine

/-- A complete packet in a queue: the cells it still holds in order, its items, whether a flush covers it and whether that flush is
a forced switch's (R253, R258). -/
structure Pkt where
  cells : List Nat
  n : Nat
  doomed : Bool
  forced : Bool
  deriving DecidableEq, Repr

/-- A packet a writer is building (R253): the writer (gate 0 to 63, 0x40 + e, 0x7F), the queue, its cells and items; a
broken packet discards what follows up to `LAST` (Table 9-9); `doomed` and `forced` as of a packet. -/
structure Bld where
  writer : Nat
  queue : Nat
  cells : List Nat
  n : Nat
  broken : Bool
  doomed : Bool
  forced : Bool
  deriving DecidableEq, Repr

/-- A queue (Table 9-2): `pos` items of the head packet have been read. -/
structure CQueue where
  pkts : List Pkt
  pos : Nat
  stall : Bool
  park : Bool
  latOut : Bool
  deliv : Nat
  flushing : Bool
  owner : Nat
  sys : Bool
  disc : Nat
  deriving DecidableEq, Repr

def CQueue.reset : CQueue := ⟨[], 0, false, false, false, 0, false, 0, false, 0⟩

/-- Cells linked in a queue. -/
def CQueue.cells (q : CQueue) : Nat := q.pkts.foldl (fun n p => n + p.cells.length) 0

/-- The cistern of a quadrant: pool size, cells never used from `fresh` up, cells returned, quotas and cells held by
block of the quadrant (16: system), queues and packets in building. -/
structure Cistern where
  sysCells : Nat
  pool : Nat
  fresh : Nat
  freed : List Nat
  quota : SMap Nat
  held : SMap Nat
  err : FaultRec
  errInfo : Nat
  flushCnt : Nat
  idleCnt : Nat
  dropCnt : Nat
  queues : SMap CQueue
  building : List Bld
  deriving DecidableEq, Repr

def Cistern.reset : Cistern := ⟨0, 0, 0, [], [], [], .clear, 0, 0, 0, 0, [], []⟩

/-- The pool of a cistern after a build of the carve-out map (R165, R248): every cell is free. -/
def Cistern.rebuild (c : Cistern) (pool : Nat) : Cistern :=
  { c with pool := pool, fresh := 0, freed := [], held := [], building := [] }

/-- A route table (Tables 9-6, 9-11): `bank` holds bank b, entry i at key 64 b + i; `moved` and `bypass` are the counts
of the current step by layer group (R271); `half` and `usedGen` the half and generation of the previous route record (R269);
`rr` the queue key the next round of the queues starts at (R265); `aborted` says that the step of generation `gen` ended aborted (R276);
`genFree` is when a generation may be used again (R267). -/
structure RTable where
  valid : Bool
  commit : Bool
  active : Nat
  lead : Nat
  retq0 : Nat
  retq1 : Nat
  movedCnt : Nat
  bypassCnt : Nat
  staleCnt : Nat
  gen : Nat
  half : Nat
  usedGen : Nat
  cap : SMap Nat
  used : SMap Nat
  bank : SMap (BitVec 64)
  moved : SMap Nat
  bypass : SMap Nat
  rr : Nat
  aborted : Bool
  genFree : SMap Nat
  deriving DecidableEq, Repr

def RTable.reset : RTable := ⟨false, false, 0, 0, 0, 0, 0, 0, 0, 0, 0, 0, [], [], [], [], [], 0, false, []⟩

/-- A bag in pooling: its elements, its flags, and the rows (in a gather engine) or engines (in a lateral engine) still
to come. -/
structure Bag where
  bag : Nat
  elems : List GElem
  underF : Bool
  overF : Bool
  left : Nat
  fail : Bool
  deriving DecidableEq, Repr

/-- A gather of a plot at its source lateral engine (R312, R314). `bags` are by bag number; `waits` the owning modules'
partials still to come; `oor` the bags with an index out of range. -/
structure OpenGather where
  gid : Nat
  route : Nat
  lead : Nat
  gen : Nat
  pool : Nat
  takeEmpty : Bool
  table : Nat
  outFmt : Nat
  semFull : Nat
  semEmpty : Nat
  tile : Nat
  dstOff : Nat
  lens : List Nat
  bags : List Bag
  oor : List Bool
  waits : List (Nat × Nat)
  failed : Bool
  deriving DecidableEq, Repr

/-- A sub-packet at its owning lateral engine: the bags whose partials are still to be combined (R314). -/
structure OwnedSub where
  sub : GSub
  bags : List Bag
  deriving DecidableEq, Repr

/-- A row handed to a gather engine (R312, R313). -/
structure GRow where
  srcMod : Nat
  srcLe : Nat
  gid : Nat
  gen : Nat
  owner : Nat
  parcel : Nat
  table : Nat
  pool : Nat
  bag : Nat
  row : Nat
  weight : Nat
  deriving DecidableEq, Repr

/-- A lateral engine (Table 9-11) with its gathers. `subs` and `parts` are the sub-packets and partials of this module on
their way; `outSubs` and `outParts` those sent to other modules. -/
structure Lateral where
  enable : Bool
  err : FaultRec
  errInfo : Nat
  bytesOut : Nat
  bytesIn : Nat
  tables : SMap RTable
  gathers : List OpenGather
  nextGid : Nat
  subs : List GSub
  owned : List OwnedSub
  parts : List GPart
  outSubs : List (Nat × GSub)
  outParts : List (Nat × GPart)
  nextTable : Nat
  deriving DecidableEq, Repr

def Lateral.reset : Lateral := ⟨false, .clear, 0, 0, 0, [], [], 0, [], [], [], [], [], 0⟩

/-- A bag open in a gather engine. -/
structure GeBag where
  srcMod : Nat
  gid : Nat
  bag : Bag
  deriving DecidableEq, Repr

/-- The slot that a gather engine's reads go into (R305): its pseudo-channel, the reservation stream it belongs to, 0xFFFF for a dynamic
one, and the rows and bytes it carries so far. -/
structure GSlot where
  pc : Nat
  stream : Nat
  rows : Nat
  bytes : Nat
  deriving DecidableEq, Repr

/-- A gather engine (Table 11-6): its rows in order, at most 256 of them in flight, its open bags and the slot in hand (R305). -/
structure GatherEng where
  enable : Bool
  err : FaultRec
  errAddr : Nat
  rowsCnt : Nat
  bytesCnt : Nat
  slotCnt : Nat
  rows : List GRow
  bags : List GeBag
  turn : Nat
  quantum : Nat
  slot : Option GSlot
  deriving DecidableEq, Repr

def GatherEng.reset : GatherEng := ⟨false, .clear, 0, 0, 0, 0, [], [], 0, 0, none⟩

/-- A table directory entry with its counters (Tables 11-1, 11-7). `twin` is W_T. -/
structure TableEnt where
  valid : Bool
  aq : Bool
  scaled : Bool
  fmt : Nat
  rowBytes : Nat
  model : Nat
  stream : Nat
  rowsTotal : Nat
  bound1 : Nat
  bound2 : Nat
  bound3 : Nat
  base : Nat
  twin : Int
  rpb : Nat
  lookupCnt : Nat
  oorCnt : Nat
  underCnt : Nat
  overCnt : Nat
  deriving DecidableEq, Repr

def TableEnt.reset : TableEnt := ⟨false, false, false, 0, 0, 0, 0xFFFF, 0, 0, 0, 0, 0, 0, 0, 0, 0, 0, 0⟩

end Sys2Proof.Machine
end

