-- ==== Sys2Proof/Machine/StateFab.lean ====
section
/-! DEFINITION. The state of the fabric: ports, link layer, topology plan, channels and the management channel
(Tables 14-2, 14-6, 14-9, 14-10; R383, R390, R400, R402). Plain data. -/

namespace Sys2Proof.Machine

/-- The states of a link (Table 14-2). -/
inductive LinkState where
  | down
  | training
  | ident
  | up
  | recover
  | quarantined
  deriving DecidableEq, Repr

def LinkState.code : LinkState → Nat
  | .down => 0
  | .training => 1
  | .ident => 2
  | .up => 3
  | .recover => 4
  | .quarantined => 5

/-- A message (Table 14-6) with its data; `want` is its `LEN`, the bytes a `READ` asks for where it has no data. -/
structure FabMsg where
  dest : Nat
  src : Nat
  kind : Nat
  ttl : Nat
  parcel : Nat
  want : Nat
  addr : Nat
  xfer : Nat
  channel : Nat
  mstatus : Nat
  mflags : Nat
  data : Bytes
  deriving DecidableEq, Repr

/-- A flit kept for replay (R383): its number, its bytes and how often it has been sent. -/
structure SentFlit where
  seq : Nat
  bytes : Bytes
  sends : Nat
  deriving DecidableEq, Repr

/-- Egress slots reserved for a plot on a port (R385, R398); `chan` is the channel of a `CHAN_OUT` record, 0 for the others. -/
structure EgressRes where
  lead : Nat
  kind : Nat
  chan : Nat
  slots : Nat
  offset : Nat
  deriving DecidableEq, Repr

/-- A fabric port: its registers (Table 14-9), its link layer (R382 to R384) and what waits to be sent on it. `used` counts the credits
spent on each virtual channel, `owed` those to return, `asm` the message in assembly on each. -/
structure FabPort where
  state : LinkState
  missing : Bool
  seenUp : Bool
  optical : Bool
  lanes : Nat
  enable : Bool
  benchSerial : Nat
  benchSlot : Nat
  benchPort : Nat
  benchStep : Nat
  benchSeen : Bool
  rtt : Nat
  errCause : Nat
  errValid : Bool
  errMulti : Bool
  crcCnt : Nat
  replayCnt : Nat
  fecCnt : Nat
  recoverCnt : Nat
  downCnt : Nat
  txFlits : Nat
  rxFlits : Nat
  refusedCnt : Nat
  reserved : List EgressRes
  txSeq : Nat
  rxSeq : Nat
  discarding : Bool
  nak : Bool
  sinceAck : Nat
  replay : List SentFlit
  used : SMap Nat
  owed : SMap Nat
  waiting : List (Nat × Bytes)
  asm : SMap Bytes
  wire : List Bytes
  probes : Nat
  answered : Bool
  dynNext : Bool
  deriving DecidableEq, Repr

/-- A port at reset (Table 14-9): `FP_CTRL.ENABLE` is 1; the far end's buffers of R384 are all free. -/
def FabPort.reset : FabPort where
  state := .down
  missing := false
  seenUp := false
  optical := false
  lanes := 0
  enable := true
  benchSerial := 0
  benchSlot := 0
  benchPort := 0
  benchStep := 0
  benchSeen := false
  rtt := 0
  errCause := 0
  errValid := false
  errMulti := false
  crcCnt := 0
  replayCnt := 0
  fecCnt := 0
  recoverCnt := 0
  downCnt := 0
  txFlits := 0
  rxFlits := 0
  refusedCnt := 0
  reserved := []
  txSeq := 0
  rxSeq := 0
  discarding := false
  nak := false
  sinceAck := 0
  replay := []
  used := []
  owed := []
  waiting := []
  asm := []
  wire := []
  probes := 0
  answered := false
  dynNext := false

/-- A port's record in the topology plan (R390): none marks it unplanned. -/
structure PlanRec where
  serial : Nat
  slot : Nat
  port : Nat
  deriving DecidableEq, Repr

/-- A management message not yet acknowledged (R402). -/
structure MgmtMsg where
  id : Nat
  dest : Nat
  both : Bool
  body : Bytes
  sends : Nat
  deriving DecidableEq, Repr

/-- A bound channel of a placed plot (R400): the plot's lead, the channel, the far module, and whether this end sends. -/
structure ChanBind where
  lead : Nat
  channel : Nat
  peer : Nat
  out : Bool
  deriving DecidableEq, Repr

/-- A module's list of directly connected modules (R395). -/
structure NbrList where
  serial : Nat
  list : List Nat
  deriving DecidableEq, Repr

/-- A degraded-position agreement (R406): the model, the cause of its abort, and what the members have agreed, once they have:
a position, or that none qualifies. -/
structure Agreement where
  model : Nat
  cause : Nat
  chosen : Option (Option Nat)
  deriving DecidableEq, Repr

/-- The fabric (Table 14-10, R390, R393, R395, R400, R402). `netB` holds management datagrams sent over network B. -/
structure Fab where
  ports : SMap FabPort
  planId : Nat
  plan : List (Option PlanRec)
  discovering : Bool
  discovered : Bool
  mismatch : Bool
  abortTx : Nat
  abortRx : Nat
  transitDrop : Nat
  transit : Nat
  nbrs : List NbrList
  mgmt : List MgmtMsg
  mgmtNext : Nat
  mgmtSeen : List (Nat × Nat)
  netB : List (Nat × Bytes)
  chans : List ChanBind
  agree : List Agreement
  deriving DecidableEq, Repr

def Fab.reset : Fab := ⟨[], 0, [], false, false, false, 0, 0, 0, 0, [], [], 0, [], [], [], []⟩

end Sys2Proof.Machine
end

