-- ==== Sys2Proof/Machine/StateHead.lean ====
section
/-! DEFINITION. The state of the Headgate and the Ditch Rider: interrupt controller, cores, policy modules, field book,
flash log and persistent store (Tables 15-1 to 15-14); and of the Edush mailboxes, events and Ethernet ports
(R350 to R377). Plain data. -/

namespace Sys2Proof.Machine

/-- A network address a datagram goes to or came from, with the module port in use. -/
structure NetAddr where
  ip : BitVec 128
  udp : BitVec 16
  port : Nat
  deriving DecidableEq, Repr

/-- An unacknowledged event (R375, R376). -/
structure EvMsg where
  num : Nat
  kind : Nat
  lost : Bool
  opcode : Nat
  reqSeq : Nat
  status : Nat
  time : Nat
  object : Nat
  body : Bytes
  dest : Option NetAddr
  sends : Nat
  nextAt : Nat
  deriving DecidableEq, Repr

/-- A response kept for a retransmission (R350, R361). -/
structure HeldResp where
  seq : Nat
  tag : BitVec 128
  msg : Bytes
  deriving DecidableEq, Repr

/-- The mailbox of a parcel (R350). -/
structure Mailbox where
  key : Option Bytes
  high : Nat
  seen : BitVec 64
  cache : List HeldResp
  addr : Option NetAddr
  evNum : Nat
  unacked : List EvMsg
  lost : Bool
  deriving DecidableEq, Repr

/-- A mailbox without a key; a parcel created anew starts so but for its key (R351). -/
def Mailbox.fresh : Mailbox := ⟨none, 0, BitVec.allOnes 64, [], none, 0, [], false⟩

/-- A datagram the module has sent. -/
structure OutMsg where
  dest : NetAddr
  bytes : Bytes
  deriving DecidableEq, Repr

/-- An Edush request with its opcode. -/
structure EdReq where
  op : Nat
  mail : Mail
  deriving DecidableEq, Repr

/-- What a request is deferred behind (R377): the kind of object and its number. -/
structure ObjKey where
  kind : Nat
  id : Nat
  deriving DecidableEq, Repr

/-- A deferred request and the object it waits behind. -/
structure Deferred where
  obj : ObjKey
  req : EdReq
  deriving DecidableEq, Repr

/-- A network record of an Ethernet port (Table 13-11). -/
structure NetRec where
  pfx4 : Nat
  pfx6 : Nat
  ip4 : BitVec 32
  ip6 : BitVec 128
  gw4 : BitVec 32
  gw6 : BitVec 128
  deriving DecidableEq, Repr

def NetRec.clear : NetRec := ⟨0, 0, 0, 0, 0, 0⟩

/-- The time unit (R327, R328, R348). -/
structure TimeSt where
  valid : Bool
  locked : Bool
  holdover : Bool
  port : Nat
  domain : Nat
  cfg : Nat
  offset : Int
  staleId : Nat
  surveyCfg : Nat
  lastSync : Nat
  holdFrom : Nat
  deriving DecidableEq, Repr

/-- A queue pair of an Ethernet port: the ring it is bound to, if any, its port, whether it is live, and its sending
rate as a part of 1024 (R355, R372). -/
structure QPair where
  num : Nat
  ring : Option Nat
  port : Nat
  live : Bool
  rate : Nat
  deriving DecidableEq, Repr

/-- The mailboxes, the deferred requests, the Ethernet ports and what has been sent. -/
structure MailSt where
  boxes : SMap Mailbox
  out : List OutMsg
  authFail : Nat
  dropped : Nat
  mgmtFail : Nat
  authTimes : List (Nat × Nat)
  setAside : List EdReq
  deferred : List Deferred
  udpPort : Nat
  recs : SMap NetRec
  linkUp : SMap Bool
  qps : List QPair
  answered : List (Nat × Nat)
  deriving DecidableEq, Repr

/-- The mailboxes at reset: no keys, port 47,100 (R356, Table 15-14). -/
def MailSt.reset : MailSt := ⟨[], [], 0, 0, 0, [], [], [], 47100, [], [], [], []⟩

/-- A field-book record (Table 15-8). -/
structure FbRec where
  num : Nat
  src : Nat
  eflags : Nat
  status : Nat
  time : Nat
  parcel : Nat
  code : Nat
  unit : Nat
  detail : BitVec 64
  deriving DecidableEq, Repr

/-- A page of the flash log (Table 15-10). -/
structure LogPage where
  seq : Nat
  recs : List FbRec
  deriving DecidableEq, Repr

/-- The field book (R431 to R435): the ring, oldest first, the next number, the count of newest records not yet in
flash, the log pages, the next page number, the time of the last page, and how far the Ditch Rider's own count lies past module time
while that is not valid (R432). -/
structure FieldBook where
  ring : List FbRec
  next : Nat
  waiting : Nat
  pages : List LogPage
  pageSeq : Nat
  lastPage : Nat
  ahead : Nat
  deriving DecidableEq, Repr

def FieldBook.reset : FieldBook := ⟨[], 1, 0, [], 0, 0, 0⟩

/-- A store record of Table 15-13: its type and body. -/
structure StoreRec where
  type : Nat
  body : Bytes
  deriving DecidableEq, Repr

/-- A store bank (R438): valid when it ends in a commit record and every check holds. -/
structure StoreBank where
  valid : Bool
  seq : Nat
  recs : List StoreRec
  deriving DecidableEq, Repr

/-- The persistent store (R437 to R441). `floors` holds each parcel's recorded multiple of 65,536 that is durable, and
`floorsAsked` that in a commit not yet complete. -/
structure Store where
  banks : SMap StoreBank
  current : Nat
  running : Option (List StoreRec)
  waiting : Bool
  commits : Nat
  seconds : Nat
  floors : SMap Nat
  floorsAsked : SMap Nat
  deriving DecidableEq, Repr

def StoreBank.clear : StoreBank := ⟨false, 0, []⟩
def Store.reset : Store := ⟨[], 0, none, false, 0, 0, [], []⟩

/-- A Headgate core (R417 to R429). -/
structure HgCore where
  running : Bool
  held : Bool
  bank : Nat
  mie : Bool
  meie : Bool
  mpie : Bool
  mepc : BitVec 64
  mcause : BitVec 64
  pc : BitVec 64
  heartbeat : Nat
  resets : List Nat
  duties : Nat
  deriving DecidableEq, Repr

def HgCore.reset : HgCore := ⟨false, false, 0, false, false, false, 0, 0, 0, 0, [], 0⟩

/-- An active interrupt of a core, in the order taken (R420). -/
structure HicActive where
  core : Nat
  src : Nat
  prio : Nat
  deriving DecidableEq, Repr

/-- The interrupt controller (Table 15-5 and R423). -/
structure Hic where
  grpBits : Nat
  enable : Bool
  en : BitVec 256
  pend : BitVec 256
  prio : SMap Nat
  target : SMap Nat
  vbase : SMap Nat
  thresh : SMap Nat
  active : List HicActive
  takeCnt : SMap Nat
  badEoi : SMap Nat
  deriving DecidableEq, Repr

def Hic.reset : Hic := ⟨0, false, 0, 0, [], [], [], [], [], [], []⟩

/-- A running or queued invocation of a policy module (R414). -/
structure PolInv where
  entry : Nat
  arg : Nat
  deriving DecidableEq, Repr

/-- A policy module slot (R413 to R416): its parcel, its image, what its 1 MiB of SRAM holds by offset, and the status of its last
call. -/
structure Policy where
  parcel : Nat
  image : Bytes
  sram : SMap Byte
  a0 : Nat
  running : Option PolInv
  queue : List PolInv
  dropped : Nat
  deriving DecidableEq, Repr

end Sys2Proof.Machine
end

