-- ==== Sys2Proof/Machine/StateMem.lean ====
section
/-! DEFINITION. The state of the tiers: memories, quadrant memory blocks, pond, region table and sluice engines
(Tables 6-5 to 6-11). Plain data. -/

namespace Sys2Proof.Machine

/-- Page tags of a tile's data window: the data class and the request handle of each 4 KiB page (R166). Classes are
coded 0 INTER, 1 WEIGHT, 2 PRIVATE. -/
structure PageTag where
  cls : Nat
  req : Nat
  deriving DecidableEq, Repr

/-- The memories of tiers 0 to 2 of this module. `bytes` is keyed by TIER × 2^48 + OFFSET (R157); `ueField` by the
16-byte Field word, `ueRes` by the 32-byte Reservoir word, both counted from key 0; `tags` by the 4 KiB Field page;
`region` by the 2 MiB unit of Reservoir or Aquifer, key / 2^21 (R182). -/
structure Mem where
  bytes : SMap Byte
  ueField : SMap Bool
  ueRes : SMap Bool
  tags : SMap PageTag
  region : SMap (BitVec 32)
  deriving DecidableEq, Repr

/-- A pond line: its set and way and the Reservoir granule it holds; its bytes lie in the pond pages (R190). -/
structure PondLine where
  set : Nat
  way : Nat
  granule : Nat
  deriving DecidableEq, Repr

/-- A Reservoir reservation of a placed plat (R172, R173). -/
structure ResReserve where
  lead : Nat
  stream : Nat
  region : Nat
  slots : Nat
  offset : Nat
  deriving DecidableEq, Repr

/-- The memory block of a quadrant (Table 6-11) with its carve-out map (R165), its pond and its reservations;
`pondKept` and `cistKept` are the sizes that firmware writes to `MEM_CFG` again once MEM has been off (R442, R446). -/
structure QuadMem where
  pondPages : Nat
  cistPages : Nat
  regionUp : Bool
  rate8g : Bool
  stackUp : Nat
  surveyFail : Nat
  cfgRefused : Bool
  fieldCe : Nat
  fieldUe : Nat
  resCe : Nat
  resUe : Nat
  blockCrc : Nat
  pondHit : Nat
  pondMiss : Nat
  pondInval : Nat
  pondUe : Nat
  surveyCnt : Nat
  aqUp : Bool
  aqSpeed : Nat
  aqWidth : Nat
  aqIde : Bool
  aqCap : Nat
  aqErr : Nat
  lastUe : Nat
  carve : List Nat
  pond : List PondLine
  reserves : List ResReserve
  recalFails : SMap Nat
  pondKept : Nat
  cistKept : Nat
  deriving DecidableEq, Repr

def QuadMem.reset : QuadMem where
  pondPages := 0
  cistPages := 0
  regionUp := false
  rate8g := false
  stackUp := 0
  surveyFail := 0
  cfgRefused := false
  fieldCe := 0
  fieldUe := 0
  resCe := 0
  resUe := 0
  blockCrc := 0
  pondHit := 0
  pondMiss := 0
  pondInval := 0
  pondUe := 0
  surveyCnt := 0
  aqUp := false
  aqSpeed := 0
  aqWidth := 0
  aqIde := false
  aqCap := 0
  aqErr := 0
  lastUe := 0
  carve := []
  pond := []
  reserves := []
  recalFails := []
  pondKept := 0
  cistKept := 0

/-! Sluice engines. -/

/-- Where a command in one of an engine's places stands: waiting for its semaphore, its reads outstanding, remote reads
outstanding, remote writes outstanding, complete, or failed with a cause, an address and the class and handle of the bad
data (R179 to R189, R197, R397). -/
inductive SlPhase where
  | waitSem
  | reading
  | fetch
  | push
  | done
  | failed (cause addr cls req : Nat)
  deriving DecidableEq, Repr

/-- A sluice command (Table 6-5). `lead` is the plot of a static command; `entry` the pointer-list entry in hand; `buf`
holds bytes that remote reads have returned, by board address; `need` the remote messages not yet answered; `stale` a
command whose generation a forced switch has advanced (R184); `slots` a static command whose record names a reservation stream
(R183, R332); `back` a pointer-list entry whose write-back is made (R220 step 2); `paid` a charge already made (R183). -/
structure SlCmd where
  op : Nat
  flags : Nat
  cls : Nat
  parcel : Nat
  idx : Nat
  gen : Nat
  req : Nat
  src : Nat
  dst : Nat
  len : Nat
  semTile : Nat
  semFull : Nat
  semEmpty : Nat
  fillVal : Nat
  lead : Option Nat
  chan : Option Nat
  phase : SlPhase
  entry : Nat
  buf : SMap Byte
  got : List (Nat × Nat)
  need : List (Nat × Nat)
  stale : Bool
  slots : Bool
  back : Bool
  paid : Bool
  deriving DecidableEq, Repr

/-- A sluice engine (Table 6-10, R180, R183, R184). `nextIdx` is the index the engine gives its next static command and `uses` when
each of those indexes was last used (R184). -/
structure Engine where
  enable : Bool
  halt : Bool
  ringBase : Nat
  ringSize : Nat
  ringHead : Nat
  ringTail : Nat
  err : FaultRec
  errId : Nat
  errAddr : Nat
  bytesStatic : Nat
  bytesDyn : Nat
  staleCnt : Nat
  flight : List SlCmd
  statics : List SlCmd
  dyn : List SlCmd
  deficits : SMap Int
  turn : Nat
  gens : SMap Nat
  nextIdx : Nat
  uses : SMap Nat
  deriving DecidableEq, Repr

def Engine.reset : Engine :=
  ⟨false, false, 0, 0, 0, 0, .clear, 0, 0, 0, 0, 0, [], [], [], [], 0, [], 0, []⟩

end Sys2Proof.Machine
end

