-- ==== Sys2Proof/Machine/StatePlot.lean ====
section
/-! DEFINITION. The state of a plot controller and of the task it runs (Tables 5-7 and 5-12, R129, R149 to R154,
R290 to R294), and the save of a pre-empted task (R152). Plain data. -/

namespace Sys2Proof.Machine

/-- The states of a plot (Table 5-7). -/
inductive PlotState where
  | free
  | filling
  | idle
  | running
  | switching
  | yielding
  | saved
  | forcing
  deriving DecidableEq, Repr

/-- The code of a plot state (Table 5-7). -/
def PlotState.code : PlotState → Nat
  | .free => 0
  | .filling => 1
  | .idle => 2
  | .running => 3
  | .switching => 4
  | .yielding => 5
  | .saved => 6
  | .forcing => 7

/-- A slot of a step (Table 10-6): the handle, the kind, its tokens and first position, whether it is a prompt's last chunk,
the speculation width, and the status it is masked with. -/
structure StepSlot where
  req : Nat
  kind : Nat
  ntok : Nat
  pos : Nat
  last : Bool
  spec : Nat
  masked : Option Nat
  deriving DecidableEq, Repr

/-- The running task of a plot (R129): its step count, the slots of its batch, their parcels (R182), whether it is a retry
(R198), whether it is the rerun of a step that a link failure aborted (R406), and its start. -/
structure Task where
  step : Nat
  slots : List StepSlot
  parcels : List Nat
  retried : Bool
  rerun : Bool
  startAt : Nat
  deriving DecidableEq, Repr

/-- The save of a yielded context (R62): its entry, tag, program position and live private registers. -/
structure SavedCtx where
  slot : Nat
  ctx : Ctx
  deriving DecidableEq, Repr

/-- The save of one tile at a yield point (R62, R134). -/
structure SavedTile where
  pos : Nat
  ctxs : List SavedCtx
  s : SMap (BitVec 64)
  p : SMap (BitVec 64)
  v : SMap VReg
  a0 : Option Bank
  a1 : Option Bank
  sem : SMap Nat
  queues : SMap (List QEntry)
  deriving DecidableEq, Repr

/-- The roles of a plot in serving (R294, R295). -/
inductive PlotMark where
  | mixed
  | prefill
  | decode
  deriving DecidableEq, Repr

/-- A page block that firmware moves for a step (R290): the request, the entry of its page table, the block's offset in the page, and
whether the page is the draft model's (R302). -/
structure KvMove where
  req : Nat
  ix : Nat
  off : Nat
  draft : Bool
  deriving DecidableEq, Repr

/-- A saved task (R152, R344): what a restore needs, and the bytes of its save at a key of the pre-emption area (R341). -/
structure SavedTask where
  parcel : Nat
  model : Nat
  platSlot : Nat
  rows : Nat
  cols : Nat
  sect : Nat
  epoch : Nat
  held : Nat
  heldBy : SMap Nat
  heldSwitch : Bool
  endRemain : Nat
  task : Option Task
  steps : Nat
  mark : PlotMark
  phi : Nat
  tiles : List SavedTile
  place : Nat
  bytes : Nat
  kvIn : List KvMove
  kvOut : List KvMove
  deriving DecidableEq, Repr

/-- One plot, held under the number of its lowest-numbered block. `loading` is set from the image-load command to the
load's end; `leftover` when tokens were discarded at the switch in progress (R148); `redo` is a task that waits to run again
(R198); `markNext` and `phiNext` take effect at the next step start and `phiStar` is the target (R296); `movedFrom` is the plot that a quadrant service
moves here (R482); `lastSave` is the latest save made during the step (R198); `carried` are the stream records of sections already left that carry
on (R187); `badCopy` is the bad word that ended the task that waits to run again (R198);
`kvIn` and `kvOut` are the page blocks that firmware has still to read and to write back for the step (R290); `setStar` is the last target of
its replica set (R296). -/
structure Plot where
  state : PlotState
  brow : Nat
  bcol : Nat
  rows : Nat
  cols : Nat
  model : Nat
  platSlot : Nat
  parcel : Nat
  plat : Bytes
  gates : List Nat
  sect : Nat
  epoch : Nat
  held : Nat
  heldBy : SMap Nat
  accept : Nat
  loading : Bool
  leftover : Bool
  drain : Nat
  endReport : Bool
  heldSwitch : Bool
  heldYield : Bool
  release : Bool
  yieldReq : Bool
  forceCause : Nat
  forceStatus : Nat
  forceRetry : Bool
  task : Option Task
  redo : Option Task
  steps : Nat
  mark : PlotMark
  markNext : PlotMark
  phi : Nat
  phiNext : Nat
  phiStar : Nat
  movedFrom : Option Nat
  saveArea : List SavedTile
  lastSave : Option SavedTask
  carried : List Nat
  badCopy : Option Nat
  kvIn : List KvMove
  kvOut : List KvMove
  setStar : Nat
  lastStepAt : Nat
  deriving DecidableEq, Repr

/-- The registers of a block controller that outlive a plot (Table 5-12). -/
structure PlotRegs where
  discard : Nat
  switchCnt : Nat
  switchLast : Nat
  switchLastD : Nat
  switchMax : Nat
  endRemain : Nat
  forceCnt : Nat
  fault : FaultRec
  faultTile : Nat
  lateStall : Nat
  waitMax : Nat
  deriving DecidableEq, Repr

def PlotRegs.reset : PlotRegs := ⟨0, 0, 0, 0, 0, 0, 0, .clear, 0, 0, 0⟩

/-- A block controller: its registers and the plot it leads, if any (R140); `saved` from the save of the plot it led until the
blocks are free (R141, R344). -/
structure Block where
  regs : PlotRegs
  plot : Option Plot
  scrubbing : Bool
  saved : Bool
  deriving DecidableEq, Repr

def Block.reset : Block := ⟨.reset, none, false, false⟩

end Sys2Proof.Machine
end

