-- ==== Sys2Proof/Machine/StateServe.lean ====
section
/-! DEFINITION. The state of the registry and the adapters (Tables 8-5, 8-8), of intake rings, requests, KV pages and
prefixes (Tables 10-1 to 10-9), of parcels and waiting placements (Tables 12-1 to 12-3, R339 to R345) and of the arbiters
(Table 12-6). Plain data. -/

namespace Sys2Proof.Machine

/-- An answer still owed as a completion event (R366, R375): the request's parcel, opcode, number and source, and the
object its event names. -/
structure Waiter where
  parcel : Nat
  op : Nat
  seq : Nat
  dest : Option NetAddr
  obj : Nat
  deriving DecidableEq, Repr

/-- A shard of this member (Table 8-4) with its progress: 0 pending, 1 verified, 2 failed; the attempt in hand, its
start, and the status of a failure (R234). -/
structure Shard where
  index : Nat
  kind : Nat
  quad : Nat
  flags : Nat
  srcOff : Nat
  len : Nat
  resOff : Nat
  aqOff : Nat
  digest : Bytes
  state : Nat
  attempt : Nat
  running : Bool
  startAt : Nat
  status : Nat
  deriving DecidableEq, Repr

/-- A fetch (R233, R369): its fetch block, its servers, the per-shard timeout in seconds, and the answer it owes while it runs;
one that has ended is kept for repairs (R239). -/
structure FetchJob where
  block : Bytes
  servers : Nat
  timeout : Nat
  waiter : Option Waiter
  deriving DecidableEq, Repr

/-- The states of a registry entry (Table 8-5). -/
inductive ModelState where
  | free
  | registered
  | loading
  | ready
  | filling
  | filled
  | evicting
  | removing
  deriving DecidableEq, Repr

def ModelState.code : ModelState → Nat
  | .free => 0
  | .registered => 1
  | .loading => 2
  | .ready => 3
  | .filling => 4
  | .filled => 5
  | .evicting => 6
  | .removing => 7

/-- A registry entry (R229): the `MODEL_REGISTER` payload, the manifest accepted, shards, plats by position, allocation
bases by region and the offset on every Aquifer port (R227), group notices held and still owed an acknowledgement (R235),
and the answers owed. `evictReg` is an eviction of registry scope, `redo` a
task that waits for a degraded plat to run again on it (R406). -/
structure Model where
  gen : Nat
  state : ModelState
  owner : Nat
  grants : List Nat
  reg : Bytes
  manifest : Bytes
  shards : List Shard
  plats : SMap Bytes
  position : Nat
  resBase : SMap Nat
  aqBase : Nat
  resLen : Nat
  aqLen : Nat
  notices : List Nat
  owed : List Nat
  fetch : Option FetchJob
  member : Nat
  serials : List Nat
  fills : List Waiter
  evict : Option Waiter
  evictReg : Bool
  freeAt : Nat
  redo : Option Task
  deriving DecidableEq, Repr

def Model.reset : Model :=
  ⟨1, .free, 0, [], [], [], [], [], 0, [], 0, 0, 0, [], [], none, 0, [], [], none, false, 0, none⟩

/-- An adapter version (Table 8-8): 1 `LOADING`, 2 `CURRENT`, 3 `DAMAGED`, 4 `RETIRED`; the references of the requests bound here, what
the other members last reported of theirs, the members that have reported none left and whether this one has (R244); its group and its
place in Reservoir. -/
structure AVer where
  num : Nat
  state : Nat
  refs : Nat
  peerRefs : SMap Nat
  peerDone : List Nat
  told : Bool
  member : Nat
  serials : List Nat
  manifest : Bytes
  shards : List Shard
  notices : List Nat
  owed : List Nat
  fetch : Option FetchJob
  base : Nat
  len : Nat
  deriving DecidableEq, Repr

/-- An adapter table entry (R223, R242 to R247). -/
structure Adapter where
  gen : Nat
  used : Bool
  model : Nat
  owner : Nat
  highest : Nat
  versions : List AVer
  withdrawing : Bool
  withdraw : Option Waiter
  freeAt : Nat
  deriving DecidableEq, Repr

def Adapter.reset : Adapter := ⟨1, false, 0, 0, 0, [], false, none, 0⟩

/-- A group notice held before its fetch was accepted (R235). -/
structure EarlyNotice where
  tag : Nat
  digest : Bytes
  member : Nat
  at' : Nat
  deriving DecidableEq, Repr

/-- Reservoir or Aquifer space in use (R182, R227): tier, first byte, length, owner parcel, what it serves (0 model or plat,
1 request area, 2 staging window, 3 pre-emption area, 4 adapter version, 5 prefix page, 9 under scrub) and the number of
that object. -/
structure Alloc where
  tier : Nat
  base : Nat
  len : Nat
  owner : Nat
  kind : Nat
  id : Nat
  deriving DecidableEq, Repr

/-- A completion record on its way to the host (R286, R287): its 64 bytes, and the slot whose use ends when it is sent, for a final
record (R282). -/
structure CplRec where
  bytes : Bytes
  ends : Option Nat
  deriving DecidableEq, Repr

/-- An intake ring (R279, R280, R373). `entries` is its entry area in intake SRAM, by index; `backlog` the records that
wait (R287); `lastDb` the two counts of the last doorbell, the posted one in the low 16 bits (R280). -/
structure Ring where
  state : Nat
  owner : Nat
  logSize : Nat
  logCpl : Nat
  quad : Nat
  handleBase : Nat
  stageLen : Nat
  stageBase : Nat
  cplRkey : Nat
  cplAddr : Nat
  key : Nat
  posted : Nat
  readIx : Nat
  consumed : Nat
  written : Nat
  recs : Nat
  badDb : Nat
  readCnt : Nat
  refusedCnt : Nat
  recCnt : Nat
  dropCnt : Nat
  backlogHwm : Nat
  entries : SMap Bytes
  backlog : List CplRec
  destroy : Option Waiter
  lastDb : Nat
  deriving DecidableEq, Repr

def Ring.reset : Ring := ⟨0, 0, 0, 0, 0, 0, 0, 0, 0, 0, 0, 0, 0, 0, 0, 0, 0, 0, 0, 0, 0, 0, [], [], none, 0⟩

/-- A request slot (R282): its expected generation, whether it is in use, and the end of its quarantine. -/
structure SlotGen where
  gen : Nat
  busy : Bool
  until' : Nat
  deriving DecidableEq, Repr

def SlotGen.reset : SlotGen := ⟨1, false, 0⟩

/-- The states of a request (Table 10-4). -/
inductive ReqState where
  | admitting
  | queued
  | prefill
  | handoff
  | decode
  | ended
  | held
  deriving DecidableEq, Repr

/-- A request (R281, R288). `preIx` is its prefix's table entry plus 1, or 0, and `start` the prefix length; `withheld` the places in its
area of the token records of `FINAL_ONLY` (R287); `dTab`, `dBase` and `dPages` the page table and pages of its draft model (R302); `area` its private Reservoir area with its page table at `pageTab`, its tokens at `tokens`,
its parameters at `params`, its speculation area at `spec` and its own pages from `pageBase`, `pages` of them taken; `away` a request whose
steps run on another module, `runsOn` that module's serial number plus 1 when it is known, `home` the serial number of the admitting module plus 1 of one that came from there. -/
structure Req where
  handle : Nat
  ring : Nat
  parcel : Nat
  model : Nat
  adapter : Nat
  aver : Nat
  prefixH : Nat
  preIx : Nat
  start : Nat
  deadline : Nat
  prompt : Nat
  maxNew : Nat
  generated : Nat
  pos : Nat
  specMode : Nat
  specWidth : Nat
  holdKv : Bool
  finalOnly : Bool
  stageOff : Nat
  paramLen : Nat
  state : ReqState
  started : Bool
  clamped : Bool
  dropped : Bool
  withdrawn : Bool
  area : Nat
  areaLen : Nat
  pageTab : Nat
  tokens : Nat
  params : Nat
  spec : Nat
  pageBase : Nat
  pages : Nat
  dTab : Nat
  dBase : Nat
  dPages : Nat
  withheld : List Nat
  holdUntil : Nat
  away : Bool
  runsOn : Nat
  home : Nat
  deriving DecidableEq, Repr

/-- A prefix (R300, R301). -/
structure Prefix where
  gen : Nat
  used : Bool
  parcel : Nat
  model : Nat
  adapter : Nat
  aver : Nat
  len : Nat
  pages : List Nat
  refs : Nat
  damaged : Bool
  pinned : Bool
  until' : Nat
  deriving DecidableEq, Repr

def Prefix.reset : Prefix := ⟨1, false, 0, 0, 0, 0, 0, [], 0, false, false, 0⟩

/-- A completion record written to host memory (R286): the ring, the record's number and its 64 bytes. -/
structure HostRec where
  ring : Nat
  num : Nat
  bytes : Bytes
  deriving DecidableEq, Repr

/-- A token record returned to the module that admitted its request (R295). -/
structure AwayTok where
  home : Nat
  handle : Nat
  bytes : Bytes
  deriving DecidableEq, Repr

/-- Serving: rings, slots, requests, prefixes, allocations, and what the module has written to the host. -/
structure Serve where
  rings : SMap Ring
  slots : SMap SlotGen
  reqs : List Req
  prefixes : SMap Prefix
  allocs : List Alloc
  out : List HostRec
  early : List EarlyNotice
  away : List AwayTok
  deriving DecidableEq, Repr

def Serve.reset : Serve := ⟨[], [], [], [], [], [], [], []⟩

/-- The states of a parcel (Table 12-2). -/
inductive ParcelState where
  | free
  | disabled
  | enabled
  | draining
  | scrubbing
  | destroying
  deriving DecidableEq, Repr

def ParcelState.code : ParcelState → Nat
  | .free => 0
  | .disabled => 1
  | .enabled => 2
  | .draining => 3
  | .scrubbing => 4
  | .destroying => 5

/-- A parcel (Tables 12-1, 12-2, 13-7): `destroying` a shutdown that is a destroy; `pfLo`, `pfHi` the effective prefill
shares and `askLo`, `askHi` those asked for at the next rebalance (R415); `preArea` its pre-emption area. -/
structure Parcel where
  state : ParcelState
  destroy : Bool
  shutdown : Option Waiter
  quarantine : Nat
  qModels : Nat
  qBlocks : Nat
  qRings : Nat
  qAdapters : Nat
  qInflight : Nat
  qRes : Nat
  qAq : Nat
  qPreempt : Nat
  pfMin : Nat
  pfMax : Nat
  pfLo : Nat
  pfHi : Nat
  askLo : Nat
  askHi : Nat
  signE : Nat
  signN : Bytes
  preArea : Nat
  admitted : Nat
  refused : Nat
  endedOk : Nat
  endedOther : Nat
  endedLate : Nat
  deriving DecidableEq, Repr

def Parcel.reset : Parcel := ⟨.free, false, none, 0, 0, 0, 0, 0, 0, 0, 0, 0, 0, 0, 0, 0, 0, 0, 0, [], 0, 0, 0, 0, 0, 0⟩

/-- A placement that waits (R139, R330, R340): the model, whether a policy module has made it urgent, and whether it
restores a saved task. -/
structure WaitPlace where
  model : Nat
  urgent : Bool
  saved : Option Nat
  deriving DecidableEq, Repr

/-- A scrub in progress (R478): memory ranges, blocks, and what ends with it: 0 nothing more, 1 an eviction of model `id` from
Field, 2 the removal of model `id`, 3 a version of adapter `id`, 4 the placement of a plat moved by a quadrant service, 5 private
space of parcel `id`. -/
structure ScrubJob where
  ranges : List (Nat × Nat)
  blocks : List Nat
  what : Nat
  id : Nat
  deriving DecidableEq, Repr

/-- The Surveyor's lists: waiting placements, saved tasks by number, space under scrub by number, and what the other plots of each
replica set last reported (R295, R296). -/
structure Sched where
  waits : List WaitPlace
  saved : SMap (Option SavedTask)
  nextSaved : Nat
  scrubs : SMap (Option ScrubJob)
  nextScrub : Nat
  sets : List SetView
  deriving DecidableEq, Repr

def Sched.reset : Sched := ⟨[], [], 0, [], 0, []⟩

/-- An arbiter (Table 12-6, R333 to R338): `next` the grant decided for the coming cycle, `runs` the consecutive grants of
the last owner, `cur` the current waits, `marked` the requesters whose wait has set its bit. -/
structure Arb where
  parkEn : Bool
  irqEn : Bool
  last : Nat
  parked : Bool
  asking : Nat
  starve : Nat
  thr : Nat
  waste : Nat
  static : Nat
  grants : SMap Nat
  waits : SMap Nat
  waitMax : SMap Nat
  weight : SMap Nat
  next : Option Nat
  runs : Nat
  cur : SMap Nat
  marked : Nat
  deriving DecidableEq, Repr

def Arb.reset : Arb := ⟨true, false, 0, false, 0, 0, 0, 0, 0, [], [], [], [], none, 0, [], 0⟩

end Sys2Proof.Machine
end

