-- ==== Sys2Proof/Machine/StatePower.lean ====
section
/-! DEFINITION. The state of the power unit (Tables 16-2 to 16-8, 18-7), of quadrant service (R481, R482), and of the
security block (Tables 17-1 to 17-9). Plain data. -/

namespace Sys2Proof.Machine

/-- The power states (Table 16-2); `starting` is `PWR_STATUS.STATE` = 0, from the reset of the Headworks main domain until
`SERVE` is first reached (Table 16-7). -/
inductive PwrMode where
  | starting
  | serve
  | quiet
  | dormant
  | off
  deriving DecidableEq, Repr

def PwrMode.code : PwrMode → Nat
  | .starting => 0
  | .serve => 1
  | .quiet => 2
  | .dormant => 3
  | .off => 4

/-- The state a code names (Table 16-2). -/
def pwrModeOf (n : Nat) : PwrMode := if n = 1 then .serve else if n = 2 then .quiet else if n = 3 then .dormant else .off

/-- A quadrant service action in progress (R481): the quadrant, the action, the answer it owes, and the plots moved and
evicted so far. -/
structure QuadJob where
  quad : Nat
  action : Nat
  waiter : Waiter
  moved : Nat
  evicted : Nat
  deriving DecidableEq, Repr

/-- A `STATE_SET` of a power state whose completion is owed (R444). -/
structure PwrWait where
  want : PwrMode
  waiter : Waiter
  deriving DecidableEq, Repr

/-- A retrain or a recalibration that owes an answer (R483): its link kind and port, or 3 and the stack. -/
structure TrainJob where
  kind : Nat
  index : Nat
  waiter : Waiter
  deriving DecidableEq, Repr

/-- What the module has answered over I3C (R501): an MCTP control answer, a reading (none where the sensor's domain is off), field-book
records, or that the command is not supported. -/
inductive I3cAns where
  | control
  | reading (v : Option Nat)
  | records (l : Bytes)
  | unsupported
  deriving DecidableEq, Repr

/-- The power unit (Table 16-7). `wanted` is the state last requested, `going` the state a drain or a wake leads to; masks
`array`, `field`, `mem` hold the domains on; frequencies and ceilings are by quadrant in units of 100 MHz (an unlisted one
reads 19); `temps` holds the bytes of `TEMP_Q`, then at 8 and 9 those of `TEMP_HW`. `thermAt` is the time of a quadrant's last
thermal step, or of the start of its run at or above 95 °C (1 in `thermDir`) or below 90 °C (2), `hotAt` that of the last sample with a sensor at
85 °C or more, `capLow` and `capHigh` the ticks the average has stayed below and above, `emptyAt` the time the last plot left
a quadrant, `offCause` a row of Table 16-5: 0 first application of power, 1 `STATE_SET`, trip or overvoltage, 2 below 42 V, 3
auxiliary loss, 4 coolant. `holdAt` is the start of a coolant hold. `mainClosed` is the main path, `coolOk` the pin `COOL_OK_N` asserted, `refclk` and `perst` the
pins of R500, `trains` the retrains and recalibrations that owe an answer, one at a time for each object, `planWait` the
answer `TOPOLOGY_PLAN_SET` owes (R393), `eth25` the Ethernet ports at 25GBASE-KR (R443), `outQuads` the quadrants out of
service: 1, or 2 once retested (R481). -/
structure Power where
  mode : PwrMode
  wanted : PwrMode
  going : Option PwrMode
  waits : List PwrWait
  thermHold : Bool
  coolHold : Bool
  brownout : Bool
  capLimited : Bool
  array : Nat
  field : Nat
  mem : Nat
  qgateMs : Nat
  retain : Nat
  cap : Nat
  vmain : Nat
  imain : Nat
  vaux : Nat
  avg : Nat
  freq : SMap Nat
  thermCeil : SMap Nat
  capCeil : SMap Nat
  voltCeil : SMap Nat
  temps : SMap Nat
  event : Nat
  throttleCnt : Nat
  capCnt : Nat
  gateCnt : Nat
  thermAt : SMap Nat
  thermDir : SMap Nat
  hotAt : Nat
  capLow : Nat
  capHigh : Nat
  emptyAt : SMap Nat
  offCause : Nat
  holdAt : Nat
  trip : Bool
  mainClosed : Bool
  coolOk : Bool
  refclk : Bool
  perst : Bool
  outQuads : SMap Nat
  jobs : List QuadJob
  trains : List TrainJob
  planWait : Option Waiter
  eth25 : Nat
  i3cOut : List I3cAns
  deriving DecidableEq, Repr

/-- The power unit at reset (Table 16-7). -/
def Power.reset : Power where
  mode := .starting
  wanted := .serve
  going := none
  waits := []
  thermHold := false
  coolHold := false
  brownout := false
  capLimited := false
  array := 0
  field := 0
  mem := 0
  qgateMs := 10
  retain := 0
  cap := 3800
  vmain := 0
  imain := 0
  vaux := 0
  avg := 0
  freq := []
  thermCeil := []
  capCeil := []
  voltCeil := []
  temps := []
  event := 0
  throttleCnt := 0
  capCnt := 0
  gateCnt := 0
  thermAt := []
  thermDir := []
  hotAt := 0
  capLow := 0
  capHigh := 0
  emptyAt := []
  offCause := 0
  holdAt := 0
  trip := false
  mainClosed := true
  coolOk := true
  refclk := false
  perst := true
  outQuads := []
  jobs := []
  trains := []
  planWait := none
  eth25 := 0
  i3cOut := []

/-- A firmware bank in flash: the image written there and the `ACT_SEQ` of its activation record (R468, R469). -/
structure FwBank where
  image : Bytes
  actSeq : Nat
  deriving DecidableEq, Repr

def FwBank.clear : FwBank := ⟨[], 0⟩

/-- A staging in progress (R470): the length the request gave, and the answer it owes. -/
structure Staging where
  len : Nat
  waiter : Waiter
  deriving DecidableEq, Repr

/-- An activation in progress (R471): the core that switches now, the cores switched, and the answer it owes. -/
structure Activation where
  core : Nat
  switched : List Nat
  waiter : Waiter
  deriving DecidableEq, Repr

/-- An SPDM connection (R475): how far the negotiation has come (0 none, 1 version, 2 capabilities, 3 algorithms). -/
structure Spdm where
  stage : Nat
  deriving DecidableEq, Repr

/-- A signature running or queued (R477): the SPDM request that waits for it and the answer but for the signature. -/
structure SignJob where
  req : EdReq
  body : Bytes
  deriving DecidableEq, Repr

/-- The security block (Tables 17-1, 17-8). `bank` is the bank running, `floor` the blown bits of `SVN_FLOOR`, `ideAt` the
time of a CXL port's last IDE failure plus 1, `ideDown` the ports a second failure left down (R480), `keyWaits` the answers owed once
a new key of parcel 0 is in the store (R474). -/
structure Sec where
  bank : Nat
  banks : SMap FwBank
  floor : Nat
  event : Nat
  signCnt : Nat
  signs : List SignJob
  staging : Option Staging
  activation : Option Activation
  spdm : SMap Spdm
  ideAt : SMap Nat
  ideDown : Nat
  keyWaits : List Waiter
  deriving DecidableEq, Repr

/-- The security block at reset: both banks hold what they were shipped with (log entry 42). -/
def Sec.reset : Sec := ⟨0, [(0, ⟨Config.shippedBank 0, 0⟩), (1, ⟨Config.shippedBank 1, 0⟩)], 0, 0, 0, [], none, none, [], [], 0, []⟩

end Sys2Proof.Machine
end

