-- ==== Sys2Proof/Machine/State.lean ====
section
/-! DEFINITION. The state of the module: every register, table, memory, queue and mode the spec names, as plain data,
with the queue of waiting commands; and the state right after reset. -/

namespace Sys2Proof.Machine

/-- The faults of a step. The module has none: every error of the spec is an effect on its state. The constructor is
never raised; a state that raised it would be safe. -/
inductive Fault where
  | none
  deriving DecidableEq, Repr

/-- The refusals of a step. `notModelled` is raised by an arm of `exec` that has no meaning yet; safe, since nothing is
claimed of such a step. -/
inductive Refusal where
  | notModelled (mnemonic : String)
  deriving DecidableEq, Repr

structure State where
  pending : List Instr
  free : Nat
  now : Nat
  time : TimeSt
  mem : Mem
  quads : SMap QuadMem
  tiles : SMap Tile
  blocks : SMap Block
  flights : List Flight
  mail : MailSt
  book : FieldBook
  slot : Nat
  engines : SMap Engine
  fab : Fab
  hic : Hic
  cist : SMap Cistern
  les : SMap Lateral
  ges : SMap GatherEng
  tables : SMap TableEnt
  models : SMap Model
  adapters : SMap Adapter
  serve : Serve
  parcels : SMap Parcel
  sched : Sched
  arbs : SMap Arb
  cores : SMap HgCore
  policies : SMap (Option Policy)
  store : Store
  power : Power
  sec : Sec
  deriving DecidableEq, Repr

/-- The time unit at reset (Table 12-9). -/
def TimeSt.reset : TimeSt where
  valid := false
  locked := false
  holdover := false
  port := 0
  domain := 0
  cfg := 10
  offset := 0
  staleId := 0
  surveyCfg := 2000000
  lastSync := 0
  holdFrom := 0

/-- The module right after reset: every register at its reset value, no plat, no parcel, memory with nothing listed. -/
def State.reset : State where
  pending := []
  free := 0
  now := 0
  time := .reset
  mem := ⟨[], [], [], [], []⟩
  quads := []
  tiles := []
  blocks := []
  flights := []
  mail := .reset
  book := .reset
  slot := Config.traySlot.val
  engines := []
  fab := .reset
  hic := .reset
  cist := []
  les := []
  ges := []
  tables := []
  models := []
  adapters := []
  serve := .reset
  parcels := []
  sched := .reset
  arbs := []
  cores := []
  policies := []
  store := .reset
  power := .reset
  sec := .reset

end Sys2Proof.Machine
end

