-- ==== Sys2Proof/Machine/Ops.lean ====
section
/-! DEFINITION. The named operations over the state that the families share: coordinates (R16 to R18), memory (R157 to
R160, R193), tables, field-book records (R431, R432), events (R375), and the raising of a forced switch (R150, R510). -/

namespace Sys2Proof.Machine

/-! Coordinates. -/

/-- Global row of a tile (R16). -/
def tileRow (g : Nat) : Nat := 32 * (g / 2048) + g % 1024 / 32

/-- Global column of a tile (R16). -/
def tileCol (g : Nat) : Nat := 32 * (g / 1024 % 2) + g % 32

/-- The tile at a global row and column (R16). -/
def tileAt (r c : Nat) : Nat := 1024 * (2 * (r / 32) + c / 32) + 32 * (r % 32) + c % 32

/-- The quadrant of a tile (R16). -/
def tileQuad (g : Nat) : Nat := g / 1024

/-- The block of a tile (R17). -/
def tileBlock (g : Nat) : Nat := 8 * (tileRow g / 8) + tileCol g / 8

/-! Memory. -/

/-- The key of a board address of this module: TIER × 2^48 + OFFSET (R157). -/
def boardKey (tier off : Nat) : Nat := tier * 2 ^ 48 + off

/-- The key of slice offset `off` of tile `g` (R158). -/
def fieldKey (g off : Nat) : Nat := g * 2 ^ 22 + off

/-- Read one byte; a byte nothing has written reads as zero (log entry 1). -/
def Mem.read (m : Mem) (k : Nat) : Byte := SMap.get 0 m.bytes k

/-- Read `n` bytes. -/
def Mem.readN (m : Mem) (k n : Nat) : Bytes := (List.range n).map (fun i => m.read (k + i))

/-- Write one byte. -/
def Mem.write (m : Mem) (k : Nat) (b : Byte) : Mem := { m with bytes := SMap.set 0 m.bytes k b }

/-- Write bytes from a key upward. -/
def Mem.writeN : Mem → Nat → Bytes → Mem
  | m, _, [] => m
  | m, k, b :: l => Mem.writeN (m.write k b) (k + 1) l

/-- The error marks left by a write of `n` bytes at `k`: a code word of `w` bytes wholly replaced loses its mark
(R193). -/
def clearUe (w : Nat) (ue : SMap Bool) (k n : Nat) : SMap Bool :=
  ue.filter (fun e => ! decide (k ≤ e.1 * w ∧ e.1 * w + w ≤ k + n))

/-- Write bytes and renew the check bits of every code word the write replaces whole (R193). -/
def Mem.store (m : Mem) (k : Nat) (l : Bytes) : Mem :=
  { m.writeN k l with ueField := clearUe 16 m.ueField k l.length, ueRes := clearUe 32 m.ueRes k l.length }

/-- The first key in a range whose code word is uncorrectable. -/
def firstUe (w : Nat) (ue : SMap Bool) (k n : Nat) : Option Nat :=
  (ue.find? (fun e => decide (e.1 * w < k + n ∧ k < e.1 * w + w))).map (fun e => e.1 * w)

/-- Zero a range of memory: every byte from `k` on, `n` of them. -/
def Mem.zero (m : Mem) (k n : Nat) : Mem :=
  { m with bytes := SMap.without m.bytes k n, ueField := clearUe 16 m.ueField k n, ueRes := clearUe 32 m.ueRes k n }

/-- The canonical form of the memories: every table of theirs lists rising keys, and no entry equal to what an unlisted key reads as. -/
def Memory.wf (m : Mem) : Bool :=
  SMap.wf 0 m.bytes && SMap.wf false m.ueField && SMap.wf false m.ueRes && SMap.wf ⟨0, 0⟩ m.tags && SMap.wf 0 m.region

/-- The page tag of a Field key (R166). -/
def Mem.tag (m : Mem) (k : Nat) : PageTag := SMap.get ⟨0, 0⟩ m.tags (k / 4096)

/-! Tables of the state. -/

/-- Tile `g`. -/
def State.tile (s : State) (g : Nat) : Tile := SMap.get Tile.reset s.tiles g

/-- Whether tile `g` is usable (R68). -/
def State.usable (s : State) (g : Nat) : Bool := let r := (s.tile g).regs
  !r.fenceCore && !r.fenceFull

/-- Replace tile `g`. -/
def State.setTile (s : State) (g : Nat) (t : Tile) : State := { s with tiles := SMap.set Tile.reset s.tiles g t }

/-- Change tile `g`. -/
def State.updTile (s : State) (g : Nat) (f : Tile → Tile) : State := s.setTile g (f (s.tile g))

/-- Change the registers of a tile. -/
def Tile.updRegs (t : Tile) (f : TileRegs → TileRegs) : Tile := { t with regs := f t.regs }

/-- Block controller `b`. -/
def State.block (s : State) (b : Nat) : Block := SMap.get Block.reset s.blocks b

/-- Replace block controller `b`. -/
def State.setBlock (s : State) (b : Nat) (x : Block) : State := { s with blocks := SMap.set Block.reset s.blocks b x }

/-- The plot led by block `b`, if any. -/
def State.plot (s : State) (b : Nat) : Option Plot := (s.block b).plot

/-- Replace the plot led by block `b`. -/
def State.setPlot (s : State) (b : Nat) (p : Plot) : State := s.setBlock b { s.block b with plot := some p }

/-- Change the registers of block controller `b`. -/
def State.updPlotRegs (s : State) (b : Nat) (f : PlotRegs → PlotRegs) : State :=
  s.setBlock b { s.block b with regs := f (s.block b).regs }

/-- The mailbox of a parcel. -/
def State.box (s : State) (p : Nat) : Mailbox := SMap.get Mailbox.fresh s.mail.boxes p

/-- Replace the mailbox of a parcel. -/
def State.setBox (s : State) (p : Nat) (m : Mailbox) : State :=
  { s with mail := { s.mail with boxes := SMap.set Mailbox.fresh s.mail.boxes p m } }

/-- The tiles of a plot, by increasing plot-relative index. -/
def Plot.tiles (p : Plot) : List Nat :=
  (List.range (8 * p.rows)).flatMap (fun r => (List.range (8 * p.cols)).map (fun c => tileAt (8 * p.brow + r) (8 * p.bcol + c)))

/-- The blocks of a plot. -/
def Plot.blocks (p : Plot) : List Nat :=
  (List.range p.rows).flatMap (fun r => (List.range p.cols).map (fun c => 8 * (p.brow + r) + (p.bcol + c)))

/-- The tile at a plot-relative index 64 × row + column (R132). -/
def Plot.tileOf (p : Plot) (pos : Nat) : Nat := tileAt (8 * p.brow + pos / 64) (8 * p.bcol + pos % 64)

/-- The plot-relative index of a tile (R92). -/
def Plot.posOf (p : Plot) (g : Nat) : Nat := 64 * (tileRow g - 8 * p.brow) + (tileCol g - 8 * p.bcol)

/-- Field of the section table entry of a plot's section (Table 5-3). -/
def Plot.sectField (p : Plot) (sect off n : Nat) : Nat := leAt p.plat (leAt p.plat 0x30 4 + 64 * sect + off) n

/-- The resource envelope's field of `n` bytes at an offset (Table 5-2). -/
def Plot.env (p : Plot) (off n : Nat) : Nat := leAt p.plat (leAt p.plat 0x28 4 + off) n

/-- Change every tile of a list. -/
def State.updTiles (s : State) (l : List Nat) (f : Tile → Tile) : State := l.foldl (fun s g => s.updTile g f) s

/-- The memory block of quadrant `q`. -/
def State.quad (s : State) (q : Nat) : QuadMem := SMap.get QuadMem.reset s.quads q

/-- Change the memory block of quadrant `q`. -/
def State.updQuad (s : State) (q : Nat) (f : QuadMem → QuadMem) : State :=
  { s with quads := SMap.set QuadMem.reset s.quads q (f (s.quad q)) }

/-- The 52-bit board address of a key of this module (R157, R498). -/
def State.boardAddr (s : State) (k : Nat) : Nat := s.slot % 4 * 2 ^ 50 + k

/-- The next free value's index: the counter moves past it. -/
def State.tick (s : State) (n : Nat) : State := { s with free := s.free + n }

/-! Requests of a running task. -/

/-- Whether a handle names an unmasked or masked request of the plot's running task (R197). -/
def Plot.hasReq (p : Plot) (req : Nat) : Bool :=
  match p.task with
  | some k => k.slots.any (fun x => x.req % 2 ^ 32 == req)
  | none => false

/-- Mask the slot of a request: it ends with `status`, the task goes on (Table 6-8). -/
def Plot.maskReq (p : Plot) (req status : Nat) : Plot :=
  { p with task := p.task.map (fun k => { k with
      slots := k.slots.map (fun x => if x.req % 2 ^ 32 = req ∧ x.masked = none then { x with masked := some status } else x) }) }

/-! Edush messages. -/

/-- The first 48 bytes of a header (Table 13-2). -/
def edHead (hflags op parcel seq len status : Nat) : Bytes :=
  toLe 2 0x4544 ++ [1] ++ toLe 1 hflags ++ toLe 2 op ++ toLe 2 parcel ++ toLe 4 seq ++ toLe 4 len ++ toLe 2 status ++ zeros 30

/-- A whole message under a key (R358). -/
def edMessage (key : Bytes) (hflags op parcel seq status : Nat) (payload : Bytes) : Bytes :=
  let h := edHead hflags op parcel seq payload.length status
  h ++ (hmac512 key (h ++ payload)).take 16 ++ payload

/-- The payload of an event (R375). -/
def EvMsg.payload (e : EvMsg) : Bytes :=
  toLe 1 e.kind ++ toLe 1 (if e.lost then 1 else 0) ++ toLe 2 e.opcode ++ toLe 4 e.reqSeq ++ toLe 2 e.status ++ zeros 6
    ++ toLe 8 e.time ++ toLe 8 e.object ++ e.body

/-- 50 ms, the resend interval of an event (R376). -/
def eventResendNs : Nat := 50000000

/-- Send event `e` of parcel `p` now, when it has an address (R364, R376). -/
def State.transmit (s : State) (p : Nat) (e : EvMsg) : State × EvMsg :=
  match (s.box p).key, (if e.dest.isSome then e.dest else (s.box p).addr) with
  | some key, some a =>
    ({ s with mail := { s.mail with out := s.mail.out ++ [⟨a, edMessage key 2 2 p e.num e.status e.payload⟩] } },
      { e with sends := e.sends + 1, nextAt := s.now + eventResendNs })
  | _, _ => (s, e)

/-- Originate an event for parcel `p` (R375, R376): it takes the next number, joins the unacknowledged events, at most
1,024 of them, and goes out when the parcel has an address. A parcel without a key has no event queue (R350). -/
def State.event (s : State) (p kind op seq status object : Nat) (body : Bytes) (dest : Option NetAddr) : State :=
  let b := s.box p
  match b.key with
  | none => s
  | some _ =>
    let full := decide (1024 ≤ b.unacked.length)
    let e : EvMsg := ⟨b.evNum + 1, kind, b.lost || full, op, seq, status, s.now, object, body, dest, 0, s.now⟩
    let r := s.transmit p e
    let b' := r.1.box p
    r.1.setBox p { b' with
      evNum := b.evNum + 1
      lost := false
      unacked := (if full then b.unacked.drop 1 else b.unacked) ++ [r.2] }

/-! The field book. -/

/-- The time a field-book record bears (R432): module time while it is valid, else the Ditch Rider's count from its last valid value. -/
def State.bookTime (s : State) : Nat := if s.time.valid then s.now else s.now + s.book.ahead

/-- Store a record in the field book (R431, R432); a status raises an alarm to parcel 0 (R375). `dr` marks a record of
the Ditch Rider's own. -/
def State.post (s : State) (dr : Bool) (src code status parcel unit : Nat) (detail : BitVec 64) : State :=
  let n := s.book.next
  let r : FbRec := ⟨n, src, (if s.time.valid then 1 else 0) + (if dr then 2 else 0), status, s.bookTime, parcel, code, unit, detail⟩
  let ring := s.book.ring ++ [r]
  let s1 := { s with book := { s.book with
    ring := ring.drop (ring.length - 4096)
    next := n + 1
    waiting := s.book.waiting + 1 } }
  if status = 0 then s1 else s1.event 0 4 0 0 status unit (toLe 4 n) none

/-! The interrupt controller. -/

/-- Source `n` signals an event (R418). -/
def State.signal (s : State) (n : Nat) : State := { s with hic := { s.hic with pend := s.hic.pend ||| BitVec.ofNat 256 (2 ^ n) } }

/-! Faults of a plot. -/

/-- Record a fault in a fault record: the first cause stands, a later one sets `MULTI` (Table 2-17). -/
def FaultRec.raise (r : FaultRec) (cause : Nat) (info : BitVec 64) : FaultRec :=
  if r.valid then { r with multi := true } else ⟨cause, true, false, info⟩

/-- Whether a plot's save is in progress: every tile has reported, and the save is not complete (R152). -/
def State.saving (s : State) (p : Plot) : Bool := p.state == .yielding && p.tiles.all (fun g => (s.tile g).regs.yieldDone)

/-- The status a forced switch gives a task: `PREEMPTED` where it meets the save (Table 12-7), unless it is the save itself that is too
large (R153), else `status`. -/
def State.forcedStatus (s : State) (p : Plot) (cause status : Nat) : Nat := if s.saving p ∧ cause ≠ 0x07 then 0x0402 else status

/-- Raise a forced switch of the plot led by block `b` (R150 step 1, R151, R510): `FORCE_CNT` and `PLOT_FAULT` are
written, a normal switch or a yield in progress is abandoned and the state becomes `FORCING`. A force that meets one
already raised sets `MULTI` and changes nothing else; `status` is what the task will end with, where no save is met. -/
def State.force (s : State) (b cause status tile : Nat) (retry : Bool := false) : State :=
  match s.plot b with
  | none => s
  | some p =>
    if p.state = .free then s
    else
      let s1 := (s.signal (16 + b)).updPlotRegs b (fun r => { r with
        faultTile := if r.fault.valid then r.faultTile else tile, fault := r.fault.raise cause 0 })
      if p.state = .forcing then s1
      else
        (s1.updPlotRegs b (fun r => { r with forceCnt := satAdd 32 r.forceCnt 1 })).setPlot b
          { p with state := .forcing, loading := false, leftover := false, endReport := false, heldSwitch := false,
                   heldYield := false, saveArea := [], forceCause := cause, forceStatus := s.forcedStatus p cause status, forceRetry := (retry && !s.saving p) || p.forceRetry }

/-- The status a task ends with for a tile fault (Table 2-14). -/
def tileFaultStatus (cause : Nat) : Nat := if cause = 0x0E then 0x0408 else 0x0403

/-- The plot a tile belongs to. -/
def State.leadOf (s : State) (g : Nat) : Option Nat := (s.tile g).lead

/-- The parcel of the plot a tile belongs to, 0xFFFF for none. -/
def State.parcelOf (s : State) (g : Nat) : Nat :=
  match (s.tile g).lead with
  | some b => (match s.plot b with
    | some p => p.parcel
    | none => 0xFFFF)
  | none => 0xFFFF

/-- `TILE_FAULT_INFO`: word address, trigger entry, tag and detail (Table 2-15). -/
def faultInfo (pc entry tag detail : Nat) : BitVec 64 :=
  BitVec.ofNat 64 (pc % 256 + entry % 64 * 2 ^ 8 + tag % 512 * 2 ^ 16 + detail % 2 ^ 32 * 2 ^ 32)

/-- The state a tile takes: a fenced tile does no work (R24). -/
def TileRegs.become (r : TileRegs) (x : TileState) : TileState := if r.state = .fenced then .fenced else x

/-- Discard every context of a tile without retirement (Table 2-4); the banks lose their owners. -/
def Tile.discardCtxs (t : Tile) : Tile :=
  { t with ctxs := [], a0 := { t.a0 with owner := none }, a1 := { t.a1 with owner := none } }

/-- Raise a tile fault (R65): the tile stops and its contexts are discarded, the fault is recorded and posted, and the plot is forced. A parity fault
marks the tile for retest (R69). -/
def State.tileFault (s : State) (g cause : Nat) (info : BitVec 64) (status : Nat) : State :=
  let t := s.tile g
  let s1 := s.setTile g { t.discardCtxs with
    halted := true
    regs := { t.regs with fault := t.regs.fault.raise cause info, retest := t.regs.retest || decide (cause = 0x0F) } }
  let s2 := s1.post false 0x01 cause 0 (s.parcelOf g) g info
  match t.lead with
  | some b => s2.force b 0x10 status g
  | none => s2

/-- Raise a canal fault (R127). -/
def State.canalFault (s : State) (g cause : Nat) (info : BitVec 64) : State :=
  let t := s.tile g
  let s1 := s.setTile g { t.discardCtxs with halted := true, regs := { t.regs with canalFault := t.regs.canalFault.raise cause info } }
  let s2 := s1.post false 0x02 cause 0 (s.parcelOf g) g info
  match t.lead with
  | some b => s2.force b 0x11 0x0403 g
  | none => s2

end Sys2Proof.Machine
end

