-- ==== Sys2Proof/Machine/Queues.lean ====
section
/-! DEFINITION. Canal tokens (R104 to R106), rota entries (R108 to R111), trigger entries and tag windows (R37 to R39),
and the entry of a token into an input queue (R38, R42). -/

namespace Sys2Proof.Machine

/-! Tokens. -/

def Token.steer (t : Token) : Bool := t.header.getLsbD 0
def Token.ctrl (t : Token) : Bool := t.header.getLsbD 1
def Token.last (t : Token) : Bool := t.header.getLsbD 2
def Token.tag (t : Token) : Nat := fieldN t.header.toNat 3 9
def Token.epoch (t : Token) : Nat := fieldN t.header.toNat 12 4
def Token.qsel (t : Token) : Nat := fieldN t.header.toNat 16 16
def Token.parked (t : Token) : Bool := t.header.getLsbD 31

/-- The 36 bytes a token's CRC covers (R106). -/
def tokenBytes (header : BitVec 32) (payload : BitVec 256) : Bytes := toLe 4 header.toNat ++ toLe 32 payload.toNat

/-- A token with the CRC its header and payload give (R106). -/
def mkToken (header : BitVec 32) (payload : BitVec 256) : Token := ⟨header, payload, crc16 (tokenBytes header payload)⟩

/-- Whether the CRC holds. -/
def Token.crcOk (t : Token) : Bool := t.crc == crc16 (tokenBytes t.header t.payload)

/-- A header from its fields (Table 4-1): flags, tag, epoch, queue selector. -/
def mkHeader (flags tag epoch qsel : Nat) : BitVec 32 :=
  BitVec.ofNat 32 (flags % 8 + tag % 512 * 2 ^ 3 + epoch % 16 * 2 ^ 12 + qsel % 2 ^ 16 * 2 ^ 16)

/-- A token whose link signals have been disturbed: the mask covers header, payload and CRC from bit 0 up. -/
def Token.disturb (t : Token) (m : BitVec 304) : Token :=
  ⟨t.header ^^^ m.extractLsb' 0 32, t.payload ^^^ m.extractLsb' 32 256, t.crc ^^^ m.extractLsb' 288 16⟩

/-- Whether a token is stale at a tile (R116). -/
def Tile.stale (t : Tile) (k : Token) : Bool :=
  k.epoch != t.regs.epoch && !(k.parked && bitB t.regs.epochAccept k.epoch)

/-! Rota entries. -/

/-- Rota entry `k` of a tile (R108). -/
def Tile.rotaAt (t : Tile) (k : Nat) : Nat := (SMap.get 0 t.rota k).toNat

/-- The source code of output `o`: 0 N, 1 E, 2 S, 3 W, 4 L0, 5 L1 (Table 4-3). -/
def rotaSrc (e o : Nat) : Nat := fieldN e (3 * o) 3

/-- The turn register of an entry. -/
def rotaTreg (e : Nat) : Nat := fieldN e 20 4

/-- The rota period P (R107). -/
def Tile.turns (t : Tile) : Nat := t.regs.period + 1

/-- Whether entry `k` lies below the period and injects (R111). -/
def Tile.injects (t : Tile) (k : Nat) : Bool :=
  decide (k < t.turns) && (List.range 6).any (fun o => rotaSrc (t.rotaAt k) o == 5)

/-- The token in turn register `r`. -/
def Tile.treg (t : Tile) (r : Nat) : Option TurnTok := SMap.get none t.tregs r

/-- `CANAL_FAULT_INFO` (Table 4-10). -/
def canalInfo (turn port entry : Nat) (tok : Token) : BitVec 64 :=
  BitVec.ofNat 64 (turn % 256 + port % 8 * 2 ^ 8 + entry % 256 * 2 ^ 16 + tok.header.toNat * 2 ^ 32)

/-! Trigger entries. -/

/-- A decoded trigger entry (Table 2-3). -/
structure Trig where
  valid : Bool
  rule : Nat
  stickyQ : Nat
  start : Nat
  len : Nat
  inMask : Nat
  twin : Nat
  tbase : Nat
  vprivCode : Nat
  prio : Nat
  own0 : Bool
  own1 : Bool
  gcnt : Nat
  deriving DecidableEq, Repr

/-- Decode a trigger entry (Table 2-3). -/
def trigOf (x : BitVec 128) : Trig :=
  let n := x.toNat
  ⟨bitB n 0, fieldN n 1 3, fieldN n 4 4, fieldN n 8 8, fieldN n 16 8, fieldN n 24 16, fieldN n 40 8, fieldN n 48 9,
   fieldN n 57 3, fieldN n 60 2, bitB n 62, bitB n 63, fieldN n 64 4⟩

/-- Entry `i` of the active bank (R37). -/
def Tile.trigAt (t : Tile) (i : Nat) : Trig := trigOf (SMap.get 0 t.trig (64 * t.trigBank + i))

/-- Private V registers of an entry (Table 2-3). -/
def Trig.vpriv (e : Trig) : Nat := if e.vprivCode = 0 then 0 else 2 ^ e.vprivCode

/-- The queues of a mask. -/
def queuesOf (mask : Nat) : List Nat := (List.range 16).filter (fun j => bitB mask j)

/-- Whether an entry fits its rule (R39). -/
def Trig.fits (e : Trig) : Bool :=
  decide (e.inMask ≠ 0 ∧ e.rule < 4 ∧ e.vprivCode < 5) && !(e.rule == 3 && decide ((queuesOf e.inMask).length ≠ 1))
    && !(e.rule == 2 && bitB e.inMask e.stickyQ)

/-- The first valid entry of the active bank that does not fit its rule (R39). -/
def Tile.badEntry (t : Tile) : Option Nat :=
  (List.range 64).find? (fun i => (t.trigAt i).valid && !(t.trigAt i).fits)

/-- The first cycle of a section on the tiles of a plot (R39): the trigger unit examines its entries, and the lowest tile with
one that does not fit raises `ILLEGAL_WORD`. -/
def State.examineEntries (s : State) (p : Plot) : State :=
  match p.tiles.find? (fun g => (s.tile g).badEntry.isSome) with
  | some g => s.tileFault g 0x01 (faultInfo 0 ((s.tile g).badEntry.getD 0) 0 0) 0x0403
  | none => s

/-- d = (t − OLD) mod 512 for entry `i` (R38). -/
def Tile.dist (t : Tile) (i tag : Nat) : Nat := (tag + 512 - SMap.get 0 t.old i % 512) % 512

/-- In window for entry `i` (R38). -/
def Tile.inWindow (t : Tile) (i tag : Nat) : Bool := decide (t.dist i tag < (t.trigAt i).twin + 1)

/-- Input queue `j`, oldest first. -/
def Tile.queue (t : Tile) (j : Nat) : List QEntry := SMap.get [] t.queues j

/-- Replace input queue `j`. -/
def Tile.setQueue (t : Tile) (j : Nat) (l : List QEntry) : Tile := { t with queues := SMap.set [] t.queues j l }

/-- The live contexts of a tile. -/
def Tile.live (t : Tile) : List (Nat × Ctx) := t.ctxs.filterMap (fun e => e.2.map (fun c => (e.1, c)))

/-- The context in a slot. -/
def Tile.ctx (t : Tile) (k : Nat) : Option Ctx := SMap.get none t.ctxs k

/-- Put a context in a slot. -/
def Tile.setCtx (t : Tile) (k : Nat) (c : Option Ctx) : Tile := { t with ctxs := SMap.set none t.ctxs k c }

/-- Whether some live context has the sticky token of that number bound. -/
def Tile.stickyBound (t : Tile) (q serial : Nat) : Bool :=
  t.live.any (fun kc => kc.2.bound.any (fun b => b.sticky && b.queue == q && b.serial == serial))

/-- Whether queue `j` is the sticky queue of a valid entry. -/
def Tile.isSticky (t : Tile) (j : Nat) : Bool :=
  (List.range 64).any (fun i => let e := t.trigAt i; e.valid && e.rule == 2 && e.stickyQ == j)

/-- Free the superseded tokens of a sticky queue that no context has bound: all but the latest (R42). -/
def Tile.freeSticky (t : Tile) (j : Nat) : Tile :=
  let l := t.queue j
  match l.getLast? with
  | none => t
  | some z => t.setQueue j (l.filter (fun e => e.serial == z.serial || e.bound || t.stickyBound j e.serial))

/-- Whether a tag is behind the window of some valid entry that reads queue `j` by tag (R38). -/
def Tile.behind (t : Tile) (j tag : Nat) : Bool :=
  (List.range 64).any (fun i => let e := t.trigAt i; e.valid && bitB e.inMask j && decide (256 ≤ t.dist i tag))

/-- A token enters input queue `j` (R38, R42): the fault it raises, if any, with the queue or tag as detail. A token that
finds 16 entries is lost. -/
def Tile.enqueue (t : Tile) (j : Nat) (k : Token) : Tile × Option (Nat × Nat) :=
  let l := t.queue j
  if 16 ≤ l.length then (t, some (0x09, j))
  else
    let t1 := { t.setQueue j (l ++ [⟨k, t.serial, false⟩]) with serial := t.serial + 1 }
    let t2 := if t.isSticky j then t1.freeSticky j else t1
    (t2, if t2.behind j k.tag then some (0x07, j) else none)

end Sys2Proof.Machine
end

