-- ==== Sys2Proof/Machine/Operands.lean ====
section
/-! DEFINITION. Register operands of a wide word: the index encoding (Table 2-6), sharing (Table 2-2), guards (R47), the
effective address (R54), and the checks that raise `ILLEGAL_WORD` (R45, R46, R48, R51 to R53). -/

namespace Sys2Proof.Machine

/-- A register index (Table 2-6). -/
inductive RegIx where
  | s (n : Nat)
  | v (n : Nat)
  | p (n : Nat)
  | bank (n : Nat)
  | queue (n : Nat)
  | none
  | bad
  deriving DecidableEq, Repr

/-- Decode a register index (Table 2-6). -/
def regIx (x : BitVec 8) : RegIx :=
  let n := x.toNat
  if n < 0x20 then .s n
  else if 0x40 ≤ n ∧ n < 0x80 then .v (n - 0x40)
  else if 0x80 ≤ n ∧ n < 0x90 then .p (n - 0x80)
  else if n = 0xC0 ∨ n = 0xC1 then .bank (n - 0xC0)
  else if 0xD0 ≤ n ∧ n < 0xE0 then .queue (n - 0xD0)
  else if n = 0xFF then .none
  else .bad

/-- Read a scalar operand; 0xFF reads as zero. -/
def readS (t : Tile) (c : Ctx) (x : BitVec 8) : BitVec 64 :=
  match regIx x with
  | .s n => if n < 8 then SMap.get 0 c.s n else SMap.get 0 t.s n
  | _ => 0

/-- Read a predicate operand; 0xFF reads as zero. -/
def readP (t : Tile) (c : Ctx) (x : BitVec 8) : BitVec 64 :=
  match regIx x with
  | .p n => if n < 4 then SMap.get 0 c.p n else SMap.get 0 t.p n
  | _ => 0

/-- Read a vector operand; 0xFF reads as zero. The first `vpriv` registers are the context's own (Table 2-2). -/
def readV (t : Tile) (c : Ctx) (x : BitVec 8) : VReg :=
  match regIx x with
  | .v n => if n < c.vpriv then SMap.get 0 c.v n else SMap.get 0 t.v n
  | _ => 0

/-- A tile and the context that issues on it. -/
structure CoreSt where
  t : Tile
  c : Ctx
  deriving DecidableEq, Repr

/-- Write a scalar destination; 0xFF discards. -/
def CoreSt.writeS (k : CoreSt) (x : BitVec 8) (v : BitVec 64) : CoreSt :=
  match regIx x with
  | .s n => if n < 8 then { k with c := { k.c with s := SMap.set 0 k.c.s n v } }
            else { k with t := { k.t with s := SMap.set 0 k.t.s n v } }
  | _ => k

/-- Write a predicate destination; 0xFF discards. -/
def CoreSt.writeP (k : CoreSt) (x : BitVec 8) (v : BitVec 64) : CoreSt :=
  match regIx x with
  | .p n => if n < 4 then { k with c := { k.c with p := SMap.set 0 k.c.p n v } }
            else { k with t := { k.t with p := SMap.set 0 k.t.p n v } }
  | _ => k

/-- Write a vector destination whole; 0xFF discards. -/
def CoreSt.writeV (k : CoreSt) (x : BitVec 8) (v : VReg) : CoreSt :=
  match regIx x with
  | .v n => if n < k.c.vpriv then { k with c := { k.c with v := SMap.set 0 k.c.v n v } }
            else { k with t := { k.t with v := SMap.set 0 k.t.v n v } }
  | _ => k

/-- The effective mask of a slot (R47). -/
def guardMask (t : Tile) (c : Ctx) (f : SlotF) : BitVec 64 :=
  if f.pen then
    let p := readP t c (BitVec.ofNat 8 (0x80 + f.psel.toNat))
    if f.pinv then ~~~ p else p
  else BitVec.allOnes 64

/-- The bits of a register a mask enables: bit i enables 32-bit part i (Table 2-6a). -/
def spread (m : BitVec 64) : VReg :=
  BitVec.ofNat 2048 (ofLanes 32 64 (fun i => if m.getLsbD i then 2 ^ 32 - 1 else 0))

/-- The new value where the mask enables, the old elsewhere (R47). -/
def mergeV (m : BitVec 64) (new old : VReg) : VReg :=
  if m = BitVec.allOnes 64 then new else (new &&& spread m) ||| (old &&& ~~~ spread m)

/-- The effective address of a load or store, exact (R54). -/
def effAddr (t : Tile) (c : Ctx) (f : SlotF) : Nat :=
  f.imm.toNat % 2 ^ 22 + (readS t c f.srcA).toNat * 2 ^ (f.mod.toNat % 64) + (readS t c f.srcB).toNat

/-! Operand kinds (R46). -/

/-- What an operand field must hold: unused, an S, V or P index or 0xFF, a bank, a run of four S registers or 0xFF, a
V index, a run or 0xFF, a bound queue, or 0xFF alone. -/
inductive OpKind where
  | unused
  | s
  | v
  | p
  | bank
  | run
  | vRun
  | queue
  | noneOnly
  deriving DecidableEq, Repr

/-- Whether an index fits an operand (R46). -/
def fitsKind (k : OpKind) (x : BitVec 8) : Bool :=
  match k, regIx x with
  | .unused, _ => true
  | .s, .s _ => true
  | .s, .none => true
  | .v, .v _ => true
  | .v, .none => true
  | .p, .p _ => true
  | .p, .none => true
  | .bank, .bank _ => true
  | .run, .s n => decide (n ≤ 28)
  | .run, .none => true
  | .vRun, .v _ => true
  | .vRun, .s n => decide (n ≤ 28)
  | .vRun, .none => true
  | .queue, .queue _ => true
  | .noneOnly, .none => true
  | _, _ => false

/-- The operand kinds of one opcode: DST, SRCA, SRCB, SRCC, and whether DST is written (Tables 2-7 and 2-9 to 2-12). -/
structure Sig where
  d : OpKind
  a : OpKind
  b : OpKind
  c : OpKind
  wr : Bool
  deriving DecidableEq, Repr

/-- The signature of an opcode of a slot; none for an opcode not listed (R45). -/
def opSig (slot op : Nat) (mod : Nat) : Option Sig :=
  if op = 0 then some ⟨.unused, .unused, .unused, .unused, false⟩
  else match slot with
  | 0 => if op = 2 then some ⟨.unused, .s, .unused, .unused, false⟩
         else if op ≤ 8 then some ⟨.unused, .unused, .unused, .unused, false⟩ else none
  | 1 => if op ≤ 2 then
           some ⟨.bank, .v, .v, if isMX (mod % 16) || isMX (mod / 16 % 16) then .v else .noneOnly, false⟩ else none
  | 2 => if op = 1 ∨ op = 5 then some ⟨.bank, .unused, .unused, .unused, false⟩
         else if op = 2 then some ⟨.v, .bank, .unused, if isMX (mod % 16) then .s else .noneOnly, true⟩
         else if op = 3 then some ⟨.v, .bank, .unused, .unused, true⟩
         else if op = 4 then some ⟨.bank, .v, .unused, .unused, false⟩
         else if op = 6 then some ⟨.s, .bank, .unused, .unused, true⟩ else none
  | 3 => if op = 1 then some ⟨.v, .v, .v, .v, true⟩
         else if op ≤ 6 then some ⟨.v, .v, .v, .unused, true⟩
         else if op ≤ 0x0C then some ⟨.v, .v, .unused, .unused, true⟩
         else if op = 0x0D then some ⟨.p, .v, .v, .unused, true⟩ else none
  | 4 => if op = 1 then some ⟨.s, .unused, .unused, .unused, true⟩
         else if op ≤ 0x0A then some ⟨.s, .s, .s, .unused, true⟩
         else if op = 0x0B then some ⟨.p, .s, .s, .unused, true⟩
         else if op = 0x0C then some ⟨.s, .v, .unused, .unused, true⟩
         else if op = 0x0D then some ⟨.v, .s, .unused, .unused, true⟩
         else if op ≤ 0x12 then some ⟨.v, .v, .v, .unused, true⟩
         else if op = 0x13 then some ⟨.v, .v, .v, .p, true⟩
         else if op = 0x14 then some ⟨.v, .v, .unused, .unused, true⟩
         else if op ≤ 0x17 then some ⟨.p, .p, .p, .unused, true⟩
         else if op = 0x18 then some ⟨.p, .p, .unused, .unused, true⟩
         else if op = 0x19 then some ⟨.p, .s, .s, .unused, true⟩ else none
  | 5 => if op = 1 then some ⟨.v, .s, .s, .unused, true⟩
         else if op = 2 then some ⟨.s, .s, .s, .unused, true⟩
         else if op = 3 then some ⟨.s, .s, .s, .v, false⟩
         else if op = 4 then some ⟨.unused, .s, .s, .s, false⟩ else none
  | 6 => if op = 1 then some ⟨.v, .s, .s, .unused, true⟩
         else if op = 2 then some ⟨.s, .s, .s, .unused, true⟩
         else if op = 3 then some ⟨.s, .s, .s, .v, false⟩
         else if op = 4 then some ⟨.unused, .s, .s, .s, false⟩ else none
  | _ => if op = 1 then some ⟨.unused, .v, .unused, .unused, false⟩
         else if op = 2 then some ⟨.unused, .run, .unused, .unused, false⟩
         else if op = 3 then some ⟨.vRun, .queue, .unused, .unused, true⟩
         else if op ≤ 5 then some ⟨.unused, .unused, .unused, .unused, false⟩ else none

/-- The encodings of one slot that R51, R52 and R53 refuse. -/
def encodingOk (slot op mod imm : Nat) : Bool :=
  match slot with
  | 1 => op == 0 || mmaPairOk (mod % 16) (mod / 16 % 16)
  | 2 => op != 2 || (decide (ardRows (mod % 16) ≠ 0) && decide (mod / 16 % 4 < 2)
           && decide (imm % 32 % max 1 (ardRows (mod % 16)) = 0))
  | 3 => op == 0 || (decide (mod % 4 ≠ 3) && !(op == 0x0B && decide (mod / 4 % 4 = 3))
           && !(decide (7 ≤ op ∧ op ≤ 0x0A) && decide (mod % 4 ≠ 0)) && !(op == 0x0D && decide (6 ≤ mod / 16 % 8)))
  | 4 => !(op == 0x0B && decide (6 ≤ mod / 16 % 8))
  | _ => true

/-- Whether one slot is legal by itself (R45, R46, R51 to R53). -/
def slotOk (o : SlotOp) : Bool :=
  match opSig o.slot.val o.op.toNat o.f.mod.toNat with
  | none => false
  | some g => fitsKind g.d o.f.dst && fitsKind g.a o.f.srcA && fitsKind g.b o.f.srcB && fitsKind g.c o.f.srcC
      && encodingOk o.slot.val o.op.toNat o.f.mod.toNat o.f.imm.toNat

/-- The registers a slot writes (R48): its destination, the run of a `RECV`, the scales of an MX `ARD`. -/
def slotWrites (o : SlotOp) : List RegIx :=
  match opSig o.slot.val o.op.toNat o.f.mod.toNat with
  | none => []
  | some g =>
    let d := if g.wr then
        (match regIx o.f.dst with
          | .none => []
          | .s n => if g.d = .vRun then [.s n, .s (n + 1), .s (n + 2), .s (n + 3)] else [.s n]
          | r => [r])
      else []
    let sc := if o.slot.val = 2 ∧ o.op = 2 ∧ isMX (o.f.mod.toNat % 16) then
        (match regIx o.f.srcC with
          | .none => []
          | r => [r])
      else []
    d ++ sc

/-- The bank a slot names (R34, R46). -/
def slotBank (o : SlotOp) : Option RegIx :=
  if o.op = 0 then none
  else if o.slot.val = 1 then some (regIx o.f.dst)
  else if o.slot.val = 2 then
    (if o.op = 1 ∨ o.op = 4 ∨ o.op = 5 then some (regIx o.f.dst) else some (regIx o.f.srcA))
  else none

/-- Whether a slot holds a store. -/
def isStore (o : SlotOp) : Bool := decide ((o.slot.val = 5 ∨ o.slot.val = 6) ∧ (o.op = 3 ∨ o.op = 4))

/-- Whether a word is legal at issue by a context (R45, R46, R48, R51 to R53). -/
def wordOk (c : Ctx) (w : List SlotOp) : Bool :=
  w.all slotOk
    && decide ((w.flatMap slotWrites).Nodup)
    && decide ((w.filter isStore).length ≤ 1)
    && (match w.filterMap slotBank with
        | [a, b] => a != b
        | _ => true)
    && !(c.loops.any (fun l => l.last == c.pc)
        && w.any (fun o => o.slot.val == 0 && (o.op == 5 || o.op == 6)))

end Sys2Proof.Machine
end

