-- ==== Sys2Proof/Machine/TileWord.lean ====
section
/-! DEFINITION. The operations of the eight slots of a wide word (Tables 2-7 and 2-9 to 2-12) and the issue of a whole
word (R44 to R56): every slot reads the state before the word, every slot takes effect, then the word's successor is
found. -/

namespace Sys2Proof.Machine

/-- What a word reads: the tile, the context and the memory as they were before it issued; the turn of the next cycle (R110), and the
single-bit errors that a load meets, in slot 5 (`ce`) and in slot 6. -/
structure Env where
  g : Nat
  k : Nat
  t : Tile
  c : Ctx
  m : Mem
  turn : Nat
  ce : Nat
  ce6 : Nat
  deriving DecidableEq, Repr

/-- Where control goes after a word. -/
inductive Flow where
  | seq
  | jump (a : Nat)
  | loop (last count : Nat)
  | skip (a : Nat)
  | eob
  | yield (n : Nat)
  deriving DecidableEq, Repr

/-- What a word makes: the tile and context as written so far, the rest of the state, the faults raised with their
details, the canal faults with their rota entry and header, and where control goes. -/
structure Work where
  s : State
  k : CoreSt
  faults : List (Nat × Nat)
  canal : List (Nat × Token)
  flow : Flow
  deriving DecidableEq, Repr

/-- Raise a tile fault with a detail. -/
def Work.fault (w : Work) (cause detail : Nat) : Work := { w with faults := w.faults ++ [(cause, detail)] }

/-- Change the tile and context. -/
def Work.core (w : Work) (f : CoreSt → CoreSt) : Work := { w with k := f w.k }

def Work.writeS (w : Work) (x : BitVec 8) (v : BitVec 64) : Work := w.core (fun k => k.writeS x v)
def Work.writeP (w : Work) (x : BitVec 8) (v : BitVec 64) : Work := w.core (fun k => k.writeP x v)

/-- Write a V register where the mask enables (R47). -/
def Work.writeV (w : Work) (e : Env) (m : BitVec 64) (x : BitVec 8) (v : Nat) : Work :=
  w.core (fun k => k.writeV x (mergeV m (BitVec.ofNat 2048 v) (readV e.t e.c x)))

/-- Write a predicate register where the mask enables (R47). -/
def Work.maskP (w : Work) (e : Env) (m : BitVec 64) (x : BitVec 8) (v : BitVec 64) : Work :=
  w.writeP x ((v &&& m) ||| (readP e.t e.c x &&& ~~~ m))

def Env.rs (e : Env) (x : BitVec 8) : BitVec 64 := readS e.t e.c x
def Env.rp (e : Env) (x : BitVec 8) : BitVec 64 := readP e.t e.c x
def Env.rv (e : Env) (x : BitVec 8) : Nat := (readV e.t e.c x).toNat
def Env.mask (e : Env) (f : SlotF) : BitVec 64 := guardMask e.t e.c f

/-- Whether an operation guarded as a whole takes effect (R47). -/
def Env.on (e : Env) (f : SlotF) : Bool := (e.mask f).getLsbD 0

/-! Accumulator banks. -/

/-- The bank of an index. -/
def Tile.bank (t : Tile) (x : BitVec 8) : Bank := if x = 0xC1 then t.a1 else t.a0

/-- Replace the bank of an index. -/
def Tile.setBank (t : Tile) (x : BitVec 8) (b : Bank) : Tile := if x = 0xC1 then { t with a1 := b } else { t with a0 := b }

/-- Act on a bank the context may use; a bank another context owns raises `BANK_OWNED` (R34). -/
def Work.onBank (w : Work) (e : Env) (x : BitVec 8) (f : Work → Bank → Work) : Work :=
  let b := e.t.bank x
  match b.owner with
  | some o => if o = e.k then f w b else w.fault 0x0D 0
  | none => f w b

/-- Put a bank into the tile being written. -/
def Work.setBank (w : Work) (x : BitVec 8) (b : Bank) : Work := w.core (fun k => { k with t := k.t.setBank x b })

/-! Slot 0. -/

def opBr (e : Env) (f : SlotF) (w : Work) : Work :=
  if e.on f then { w with flow := .jump (f.imm.toNat % 256) } else w

def opLoop (e : Env) (f : SlotF) (w : Work) : Work :=
  if e.on f then
    let n := if f.srcA = 0xFF then f.imm.toNat % 2 ^ 32 else (e.rs f.srcA).toNat
    let last := fieldN f.imm.toNat 32 8
    if n = 0 then { w with flow := .skip (last + 1) } else { w with flow := .loop last n }
  else w

/-- `WAIT` once its counter is above zero (R50); a word whose counter is zero does not issue. -/
def opWait (e : Env) (f : SlotF) (w : Work) : Work :=
  if e.on f then
    let i := f.imm.toNat % 32
    w.core (fun k => { k with t := { k.t with sem := SMap.upd 0 k.t.sem i (fun n => n - 1) } })
  else w

def opSignal (e : Env) (f : SlotF) (w : Work) : Work :=
  if e.on f then
    let i := f.imm.toNat % 32
    if SMap.get 0 e.t.sem i < 0xFFFF then
      w.core (fun k => { k with t := { k.t with sem := SMap.upd 0 k.t.sem i (fun n => n + 1) } })
    else w.fault 0x0A i
  else w

def opYield (e : Env) (f : SlotF) (w : Work) : Work :=
  if e.on f && e.t.regs.yieldReq then { w with flow := .yield (f.imm.toNat % 256) } else w

def opEob (e : Env) (f : SlotF) (w : Work) : Work := if e.on f then { w with flow := .eob } else w

/-- `FENCE`: stores are written and sends have entered their turn registers when a word has issued (log entry 6). -/
def opFence (_ : Env) (_ : SlotF) (w : Work) : Work := w

def opTrap (e : Env) (f : SlotF) (w : Work) : Work := if e.on f then w.fault 0x0B (f.imm.toNat % 256) else w

/-! Slots 1 and 2. -/

/-- Issue a matrix multiply; its products reach the bank later (R51, R57). -/
def opMma (z : Bool) (e : Env) (f : SlotF) (w : Work) : Work :=
  w.onBank e f.dst (fun w b => w.setBank f.dst { b with pend := b.pend ++
    [⟨f.mod.toNat % 16, f.mod.toNat / 16 % 16, readV e.t e.c f.srcA, readV e.t e.c f.srcB, readV e.t e.c f.srcC,
      f.mod.getLsbD 8, e.mask f, z⟩] })

def opAclr (e : Env) (f : SlotF) (w : Work) : Work :=
  if e.on f then w.onBank e f.dst (fun w b => w.setBank f.dst b.landAll.aclr) else w

def opArd (e : Env) (f : SlotF) (w : Work) : Work :=
  w.onBank e f.srcA (fun w b =>
    let b1 := b.landAll.examine
    let code := f.mod.toNat % 16
    let r := b1.ard code (f.imm.toNat % 32) (decide (f.mod.toNat / 16 % 4 = 1)) e.c.sr
    let w1 := (w.setBank f.srcA b1).writeV e (e.mask f) f.dst r.value
    let w2 := if isMX code then w1.writeS f.srcC (BitVec.ofNat 64 r.scales) else w1
    w2.core (fun k => { k with c := { k.c with sr := r.sr } }))

def opAraw (e : Env) (f : SlotF) (w : Work) : Work :=
  w.onBank e f.srcA (fun w b =>
    let b1 := b.landAll.examine
    (w.setBank f.srcA b1).writeV e (e.mask f) f.dst (b1.rawRow (f.imm.toNat % 32)))

def opAadd (e : Env) (f : SlotF) (w : Work) : Work :=
  if e.on f then w.onBank e f.dst (fun w b => w.setBank f.dst (b.landAll.addRow (f.imm.toNat % 32) (e.rv f.srcA))) else w

def opAwin (e : Env) (f : SlotF) (w : Work) : Work :=
  if e.on f then w.onBank e f.dst (fun w b => w.setBank f.dst (b.landAll.awin (f.imm.extractLsb' 0 10))) else w

def opAflag (e : Env) (f : SlotF) (w : Work) : Work :=
  if e.on f then
    w.onBank e f.srcA (fun w b =>
      let b1 := b.landAll.examine
      let v := (if b1.underF then 1 else 0) + (if b1.overF then 2 else 0)
      let b2 := if f.mod.getLsbD 0 then { b1 with underF := false, overF := false } else b1
      (w.setBank f.srcA b2).writeS f.dst (BitVec.ofNat 64 v))
  else w

/-! Slot 3. -/

/-- A lane-wise operation of slot 3 on the element type `MOD`[1:0]. -/
def vlanes (e : Env) (f : SlotF) (w : Work) (g : Fmt → Nat → Nat) : Work :=
  let ty := f.mod.toNat % 4
  w.writeV e (e.mask f) f.dst (ofLanes (laneBits ty) (laneCount ty) (g (laneFmt ty)))

/-- Lane `i` of a V operand for the slot's element type. -/
def Env.lane (e : Env) (f : SlotF) (x : BitVec 8) (i : Nat) : Nat := laneAt (laneBits (f.mod.toNat % 4)) (e.rv x) i

def opVfma (e : Env) (f : SlotF) (w : Work) : Work :=
  vlanes e f w (fun fm i => fm.encode (((fm.decode (e.lane f f.srcA i)).mul (fm.decode (e.lane f f.srcB i))).add
    (fm.decode (e.lane f f.srcC i))))

def opVadd (e : Env) (f : SlotF) (w : Work) : Work :=
  vlanes e f w (fun fm i => fm.encode ((fm.decode (e.lane f f.srcA i)).add (fm.decode (e.lane f f.srcB i))))

def opVsub (e : Env) (f : SlotF) (w : Work) : Work :=
  vlanes e f w (fun fm i => fm.encode ((fm.decode (e.lane f f.srcA i)).add (fm.decode (e.lane f f.srcB i)).neg))

def opVmul (e : Env) (f : SlotF) (w : Work) : Work :=
  vlanes e f w (fun fm i => fm.encode ((fm.decode (e.lane f f.srcA i)).mul (fm.decode (e.lane f f.srcB i))))

def opVmax (e : Env) (f : SlotF) (w : Work) : Work :=
  vlanes e f w (fun fm i => fm.maxNum (e.lane f f.srcA i) (e.lane f f.srcB i))

def opVmin (e : Env) (f : SlotF) (w : Work) : Work :=
  vlanes e f w (fun fm i => fm.minNum (e.lane f f.srcA i) (e.lane f f.srcB i))

def opVexp2 (e : Env) (f : SlotF) (w : Work) : Work := vlanes e f w (fun _ i => vexp2 (e.lane f f.srcA i))
def opVlog2 (e : Env) (f : SlotF) (w : Work) : Work := vlanes e f w (fun _ i => vlog2 (e.lane f f.srcA i))
def opVrcp (e : Env) (f : SlotF) (w : Work) : Work := vlanes e f w (fun _ i => vrcp (e.lane f f.srcA i))
def opVrsq (e : Env) (f : SlotF) (w : Work) : Work := vlanes e f w (fun _ i => vrsq (e.lane f f.srcA i))

/-- `VCVT`: from type `MOD`[1:0] to type `MOD`[3:2] with the lane mapping of R95. -/
def opVcvt (e : Env) (f : SlotF) (w : Work) : Work :=
  let a := f.mod.toNat % 4
  let b := f.mod.toNat / 4 % 4
  let h := if f.mod.getLsbD 8 then 64 else 0
  let x := e.rv f.srcA
  let cv := fun i => (laneFmt b).encode ((laneFmt a).decode (laneAt (laneBits a) x i))
  let v :=
    if a = 0 ∧ b ≠ 0 then ofLanes 16 128 (fun i => if h ≤ i ∧ i < h + 64 then cv (i - h) else 0)
    else if a ≠ 0 ∧ b = 0 then ofLanes 32 64 (fun i => cv (h + i))
    else ofLanes (laneBits b) (laneCount b) cv
  w.writeV e (e.mask f) f.dst v

/-- `VRSUM` (R98): the guard names source lanes; every destination lane is written. -/
def opVrsum (e : Env) (f : SlotF) (w : Work) : Work :=
  let ty := f.mod.toNat % 4
  let m := e.mask f
  let lanes := (List.range (laneCount ty)).map (fun i =>
    if m.getLsbD (if ty = 0 then i else i / 2) then some (e.lane f f.srcA i) else none)
  let r := (treeSum (laneFmt ty) (if ty = 0 then 6 else 7) lanes).getD 0
  w.writeV e (BitVec.allOnes 64) f.dst r

def opVcmp (e : Env) (f : SlotF) (w : Work) : Work :=
  let ty := f.mod.toNat % 4
  let cond := f.mod.toNat / 16 % 8
  let odd := if f.mod.getLsbD 7 then 1 else 0
  let v := ofLanes 1 64 (fun i =>
    let j := if ty = 0 then i else 2 * i + odd
    if (laneFmt ty).cmp cond (e.lane f f.srcA j) (e.lane f f.srcB j) then 1 else 0)
  w.maskP e (e.mask f) f.dst (BitVec.ofNat 64 v)

/-! Slot 4. -/

def opSli (e : Env) (f : SlotF) (w : Work) : Work := if e.on f then w.writeS f.dst f.imm else w

/-- A scalar operation; `SRCB` = 0xFF takes the immediate (Table 2-10). -/
def scalar2 (e : Env) (f : SlotF) (w : Work) (g : BitVec 64 → BitVec 64 → BitVec 64) : Work :=
  if e.on f then w.writeS f.dst (g (e.rs f.srcA) (if f.srcB = 0xFF then f.imm else e.rs f.srcB)) else w

def opSadd (e : Env) (f : SlotF) (w : Work) : Work := scalar2 e f w (fun a b => a + b)
def opSsub (e : Env) (f : SlotF) (w : Work) : Work := scalar2 e f w (fun a b => a - b)
def opSmul (e : Env) (f : SlotF) (w : Work) : Work := scalar2 e f w (fun a b => a * b)
def opSand (e : Env) (f : SlotF) (w : Work) : Work := scalar2 e f w (fun a b => a &&& b)
def opSor (e : Env) (f : SlotF) (w : Work) : Work := scalar2 e f w (fun a b => a ||| b)
def opSxor (e : Env) (f : SlotF) (w : Work) : Work := scalar2 e f w (fun a b => a ^^^ b)
def opSshl (e : Env) (f : SlotF) (w : Work) : Work := scalar2 e f w (fun a b => a <<< (b.toNat % 64))
def opSshr (e : Env) (f : SlotF) (w : Work) : Work := scalar2 e f w (fun a b => a >>> (b.toNat % 64))
def opSsra (e : Env) (f : SlotF) (w : Work) : Work := scalar2 e f w (fun a b => a.sshiftRight (b.toNat % 64))

def opScmp (e : Env) (f : SlotF) (w : Work) : Work :=
  let r := condHolds (f.mod.toNat / 16 % 8) (e.rs f.srcA).toInt (e.rs f.srcB).toInt
  w.maskP e (e.mask f) f.dst (if r then BitVec.allOnes 64 else 0)

def opSfromv (e : Env) (f : SlotF) (w : Work) : Work :=
  if e.on f then w.writeS f.dst (BitVec.ofNat 64 (laneAt 64 (e.rv f.srcA) (f.imm.toNat % 32))) else w

def opVbcast (e : Env) (f : SlotF) (w : Work) : Work :=
  let b := 8 * 2 ^ (f.mod.toNat % 4)
  w.writeV e (e.mask f) f.dst (ofLanes b (2048 / b) (fun _ => (e.rs f.srcA).toNat))

/-- A lane-wise operation on 32-bit integer lanes. -/
def lanes32 (e : Env) (f : SlotF) (w : Work) (g : BitVec 32 → BitVec 32 → BitVec 32) : Work :=
  w.writeV e (e.mask f) f.dst (ofLanes 32 64 (fun i =>
    (g (BitVec.ofNat 32 (laneAt 32 (e.rv f.srcA) i)) (BitVec.ofNat 32 (laneAt 32 (e.rv f.srcB) i))).toNat))

def opViadd (e : Env) (f : SlotF) (w : Work) : Work := lanes32 e f w (fun a b => a + b)
def opVand (e : Env) (f : SlotF) (w : Work) : Work := lanes32 e f w (fun a b => a &&& b)
def opVor (e : Env) (f : SlotF) (w : Work) : Work := lanes32 e f w (fun a b => a ||| b)
def opVxor (e : Env) (f : SlotF) (w : Work) : Work := lanes32 e f w (fun a b => a ^^^ b)

def opVperm (e : Env) (f : SlotF) (w : Work) : Work :=
  w.writeV e (e.mask f) f.dst (ofLanes 8 256 (fun j => laneAt 8 (e.rv f.srcA) (laneAt 8 (e.rv f.srcB) j)))

/-- `VSEL`: lane i of 32 bits by bit i of P[`SRCC`]. -/
def opVsel (e : Env) (f : SlotF) (w : Work) : Work :=
  w.writeV e (e.mask f) f.dst (mergeV (e.rp f.srcC) (readV e.t e.c f.srcA) (readV e.t e.c f.srcB)).toNat

def opVmov (e : Env) (f : SlotF) (w : Work) : Work := w.writeV e (e.mask f) f.dst (e.rv f.srcA)

def opPand (e : Env) (f : SlotF) (w : Work) : Work := w.maskP e (e.mask f) f.dst (e.rp f.srcA &&& e.rp f.srcB)
def opPor (e : Env) (f : SlotF) (w : Work) : Work := w.maskP e (e.mask f) f.dst (e.rp f.srcA ||| e.rp f.srcB)
def opPxor (e : Env) (f : SlotF) (w : Work) : Work := w.maskP e (e.mask f) f.dst (e.rp f.srcA ^^^ e.rp f.srcB)
def opPnot (e : Env) (f : SlotF) (w : Work) : Work := w.maskP e (e.mask f) f.dst (~~~ (e.rp f.srcA))

/-- `PRANGE`: bounds are signed and clamped to 0 to 64 (log entry 7). -/
def opPrange (e : Env) (f : SlotF) (w : Work) : Work :=
  let lo := (max 0 (min 64 (e.rs f.srcA).toInt)).toNat
  let hi := (max 0 (min 64 (e.rs f.srcB).toInt)).toNat
  w.maskP e (e.mask f) f.dst (BitVec.ofNat 64 (ofLanes 1 64 (fun i => if lo ≤ i ∧ i < hi then 1 else 0)))

/-! Slots 5 and 6. -/

/-- Count an uncorrectable Field word found at a key (R60, R201). -/
def State.countFieldUe (s : State) (k : Nat) : State :=
  s.updQuad (k / 2 ^ 32 % 4) (fun q => { q with fieldUe := satAdd 32 q.fieldUe 1, lastUe := s.boardAddr k })

/-- Count `n` Field words of a quadrant whose single-bit error a read has corrected (R60, R193). -/
def State.countFieldCe (s : State) (q n : Nat) : State :=
  if n = 0 then s else s.updQuad q (fun m => { m with fieldCe := satAdd 32 m.fieldCe n })

/-- An access of `n` bytes at the slot's address, aligned to `al` (R58): `ok` gets the address's key. -/
def Work.access (w : Work) (e : Env) (f : SlotF) (al n : Nat) (ok : Work → Nat → Work) : Work :=
  let a := effAddr e.t e.c f
  if a % al ≠ 0 then w.fault 0x05 a
  else if e.t.regs.fwinLimit < a + n then w.fault 0x04 a
  else ok w (fieldKey e.g (e.t.regs.fwinBase + a))

/-- A load of `n` bytes (R60): the single-bit errors among its 16-byte words are corrected and counted; on an uncorrectable word the register is not written; PRIVATE data of a request of the
running task masks that request and raises no fault, any other data raises `FIELD_UE` with its key as detail. -/
def Work.load (w : Work) (e : Env) (f : SlotF) (al n : Nat) (put : Work → Nat → Work) : Work :=
  w.access e f al n (fun w0 k =>
    let w := { w0 with s := w0.s.countFieldCe (tileQuad e.g) (min e.ce ((n + 15) / 16)) }
    match firstUe 16 e.m.ueField k n with
    | none => put w (leNat (e.m.readN k n))
    | some u =>
      let w1 := { w with s := w.s.countFieldUe u }
      let tg := e.m.tag u
      match e.t.lead with
      | none => w1.fault 0x06 (effAddr e.t e.c f)
      | some b =>
        match w1.s.plot b with
        | none => w1.fault 0x06 (effAddr e.t e.c f)
        | some p =>
          if tg.cls = 2 ∧ p.hasReq tg.req then { w1 with s := w1.s.setPlot b (p.maskReq tg.req 0x0404) }
          else if tg.cls = 1 ∧ p.state ≠ .forcing then { w1 with s := w1.s.setPlot b { p with forceRetry := true } }.fault 0x06 (effAddr e.t e.c f)
          else w1.fault 0x06 (effAddr e.t e.c f))

def opLd (e : Env) (f : SlotF) (w : Work) : Work :=
  w.load e f 32 256 (fun w v => w.writeV e (e.mask f) f.dst v)

def opLds (e : Env) (f : SlotF) (w : Work) : Work :=
  if e.on f then w.load e f 8 8 (fun w v => w.writeS f.dst (BitVec.ofNat 64 v)) else w

/-- Bytes of a V register store that are written (R55): by 16-byte word, whole words renewing their check bits. -/
def storeWord (m : Mem) (k v : Nat) (on : Nat → Bool) (i : Nat) : Mem :=
  let js := (List.range 16).map (fun j => 16 * i + j)
  if js.all on then m.store (k + 16 * i) (toLe 16 (laneAt 128 v i))
  else js.foldl (fun m j => if on j then m.write (k + j) (BitVec.ofNat 8 (laneAt 8 v j)) else m) m

def opSt (e : Env) (f : SlotF) (w : Work) : Work :=
  w.access e f 32 256 (fun w k =>
    let lim := if f.dst = 0xFF then 256 else min 256 (e.rs f.dst).toNat
    let m := e.mask f
    let on := fun j => m.getLsbD (j / 4) && decide (j < lim)
    let mem := (List.range 16).foldl (fun mm i => storeWord mm k (e.rv f.srcC) on i) w.s.mem
    { w with s := { w.s with mem := mem } })

def opSts (e : Env) (f : SlotF) (w : Work) : Work :=
  if e.on f then
    w.access e f 8 8 (fun w k => { w with s := { w.s with mem := w.s.mem.store k (toLe 8 (e.rs f.srcC).toNat) } })
  else w

/-! Slot 7. -/

/-- Send a payload as a token (R56, R104, R105, R110, R111): to the tile's own queue, or to its turn register. -/
def sendTok (e : Env) (f : SlotF) (payload : Nat) (w : Work) : Work :=
  let i := f.imm.toNat
  let tok := mkToken (mkHeader (fieldN i 33 3) (e.c.tag + fieldN i 24 9) e.t.regs.epoch (fieldN i 8 15))
    (BitVec.ofNat 256 payload)
  if bitB i 40 then
    let r := w.k.t.enqueue (fieldN i 8 4) tok
    let w1 := w.core (fun k => { k with t := r.1 })
    (match r.2 with
      | some c => w1.fault c.1 c.2
      | none => w1)
  else
    let en := i % 256
    if e.t.injects en then
      w.core (fun k => { k with t := { k.t with tregs := SMap.set none k.t.tregs (rotaTreg (e.t.rotaAt en)) (some ⟨tok, en⟩) } })
    else { w with canal := w.canal ++ [(en, tok)] }

def opSend (e : Env) (f : SlotF) (w : Work) : Work :=
  if e.on f then sendTok e f (laneAt 256 (e.rv f.srcA) (f.mod.toNat % 8)) w else w

/-- The scalar run of four registers starting at an index; 0xFF reads as zero. -/
def Env.run4 (e : Env) (x : BitVec 8) : Nat :=
  match regIx x with
  | .s _ => ofLanes 64 4 (fun j => (e.rs (x + BitVec.ofNat 8 j)).toNat)
  | _ => 0

def opSends (e : Env) (f : SlotF) (w : Work) : Work := if e.on f then sendTok e f (e.run4 f.srcA) w else w

def opRecv (e : Env) (f : SlotF) (w : Work) : Work :=
  if e.on f then
    let q := f.srcA.toNat - 0xD0
    let l := e.c.bound.filter (fun b => b.queue == q)
    let i := if (e.t.trigAt e.c.entry).rule = 3 then f.imm.toNat % 16 else 0
    match l[i]? with
    | none => w.fault 0x0C q
    | some b =>
      (match regIx f.dst with
        | .s _ => (List.range 4).foldl (fun w j =>
            w.writeS (f.dst + BitVec.ofNat 8 j) (BitVec.ofNat 64 (laneAt 64 b.tok.payload.toNat j))) w
        | _ =>
          let c := f.mod.toNat % 8
          let m : BitVec 64 := BitVec.ofNat 64 (0xFF * 2 ^ (8 * c))
          w.writeV e m f.dst (b.tok.payload.toNat * 2 ^ (256 * c)))
  else w

/-! Steering channels (R120 to R126). -/

/-- Channel of a steering token. -/
def Token.chan (t : Token) : Nat := t.qsel % 8

/-- Control value of a control token (R122). -/
def Token.ctlVal (t : Token) : Bool := t.payload.getLsbD 0

/-- What a pairing does with the data: discard it, or send it re-headed for a rota entry (R121, Table 4-7). -/
inductive SteerOut where
  | discard
  | send (entry : Nat) (tok : Token)
  deriving DecidableEq, Repr

/-- Re-head a data token (R121). -/
def Token.reHead (t : Token) (steer : Bool) (q : Nat) : Token :=
  let h := t.header.toNat
  let h' := (if steer then 1 else 0) + fieldN h 2 14 * 2 ^ 2 + q % 16 * 2 ^ 16 + fieldN h 20 12 * 2 ^ 20
  mkToken (BitVec.ofNat 32 h') t.payload

/-- The output a channel's configuration gives for control value `b` (Table 4-7). -/
def ChanCfg.out (g : ChanCfg) (b : Bool) (data : Token) : SteerOut :=
  match g with
  | .unconfigured => .discard
  | .steer imm =>
    let i := imm.toNat
    if b then (if bitB i 20 then .discard else .send (fieldN i 11 8) (data.reHead (bitB i 26) (fieldN i 27 4)))
    else (if bitB i 19 then .discard else .send (fieldN i 3 8) (data.reHead (bitB i 21) (fieldN i 22 4)))
  | .merge imm =>
    let i := imm.toNat
    if bitB i 19 then .discard else .send (fieldN i 3 8) (data.reHead (bitB i 21) (fieldN i 22 4))

/-- Whether a control and a data token pair under a channel's configuration (R123). -/
def ChanCfg.pairs (g : ChanCfg) (ctl data : Token) : Bool :=
  ctl.chan == data.chan && ctl.tag == data.tag && ctl.epoch == data.epoch &&
    (match g with
      | .unconfigured => false
      | .steer _ => true
      | .merge _ => bitB data.qsel 3 == ctl.ctlVal)

def Tile.chan (t : Tile) (i : Nat) : ChanCfg := SMap.get .unconfigured t.chans i

/-- Entries of the match store that count toward its 64 (R124). -/
def Tile.matchLive (t : Tile) : Nat := (t.matchStore.filter (fun m => m.held)).length

/-- Note the match-store high-water mark (Table 4-10). -/
def Tile.noteMatch (t : Tile) : Tile := { t with regs := { t.regs with matchHwm := max t.regs.matchHwm t.matchLive } }

/-- Complete a pairing of a control with a data token, both already out of the store but for the data's entry: the data
joins the tokens that wait for their turn register, holding an entry or not, or is discarded (R124, R126). -/
def Tile.paired (t : Tile) (g : ChanCfg) (ctl data : Token) (held : Bool) : Tile :=
  let t1 := { t with regs := { t.regs with steerCnt := satAdd 48 t.regs.steerCnt 1 } }
  match g.out ctl.ctlVal data with
  | .discard => t1
  | .send en tok => { t1 with matchStore := t1.matchStore ++ [⟨tok, t1.serial, held, some en⟩], serial := t1.serial + 1 }

/-- Remove a match-store entry by its number. -/
def Tile.dropMatch (t : Tile) (serial : Nat) : Tile :=
  { t with matchStore := t.matchStore.filter (fun m => m.serial != serial) }

/-- Whether two tokens, one control and one data in either order, pair under a channel's configuration (R123). -/
def ChanCfg.mates (g : ChanCfg) (a b : Token) : Bool :=
  (a.ctrl && !b.ctrl && g.pairs a b) || (!a.ctrl && b.ctrl && g.pairs b a)

/-- The oldest waiting token that pairs with `tok` (R123). -/
def Tile.mate (t : Tile) (tok : Token) : Option MEntry :=
  t.matchStore.find? (fun m => m.paired == none && (t.chan tok.chan).mates tok m.tok)

/-- Complete the pairing of two tokens, given in either order; `held` says that the data token holds a match-store entry. -/
def Tile.couple (t : Tile) (a b : Token) (held : Bool) : Tile :=
  if a.ctrl then t.paired (t.chan a.chan) a b held else t.paired (t.chan a.chan) b a held

/-- Pair waiting tokens of channel `i`, the oldest that has a partner with its oldest partner, `n` rounds at most (R120, R123). -/
def Tile.pairWaiting (i : Nat) : Nat → Tile → Tile
  | 0, t => t
  | n + 1, t =>
    match (t.matchStore.filter (fun m => m.paired == none && m.tok.chan == i)).find? (fun m => (t.mate m.tok).isSome) with
    | none => t
    | some a =>
      (match t.mate a.tok with
        | none => t
        | some b => Tile.pairWaiting i n (((t.dropMatch a.serial).dropMatch b.serial).couple a.tok b.tok true))

/-- Configure a channel and pair what waits on it (R120). -/
def Tile.configure (t : Tile) (i : Nat) (g : ChanCfg) : Tile :=
  Tile.pairWaiting i 64 { t with chans := SMap.set .unconfigured t.chans i g }

def opSteer (e : Env) (f : SlotF) (w : Work) : Work :=
  if e.on f then w.core (fun k => { k with t := k.t.configure (f.imm.toNat % 8) (.steer f.imm) }) else w

def opMerge (e : Env) (f : SlotF) (w : Work) : Work :=
  if e.on f then w.core (fun k => { k with t := k.t.configure (f.imm.toNat % 8) (.merge f.imm) }) else w

/-! The issue of a word. -/

/-- The operations of slot 0. -/
def run0 (op : Nat) : Env → SlotF → Work → Work :=
  match op with
  | 1 => opBr
  | 2 => opLoop
  | 3 => opWait
  | 4 => opSignal
  | 5 => opYield
  | 6 => opEob
  | 7 => opFence
  | 8 => opTrap
  | _ => fun _ _ w => w

/-- The operations of slots 1 and 2. -/
def run12 (slot op : Nat) : Env → SlotF → Work → Work :=
  if slot = 1 then (if op = 1 then opMma false else if op = 2 then opMma true else fun _ _ w => w)
  else match op with
  | 1 => opAclr
  | 2 => opArd
  | 3 => opAraw
  | 4 => opAadd
  | 5 => opAwin
  | 6 => opAflag
  | _ => fun _ _ w => w

/-- The operations of slot 3. -/
def run3 (op : Nat) : Env → SlotF → Work → Work :=
  match op with
  | 1 => opVfma
  | 2 => opVadd
  | 3 => opVsub
  | 4 => opVmul
  | 5 => opVmax
  | 6 => opVmin
  | 7 => opVexp2
  | 8 => opVlog2
  | 9 => opVrcp
  | 10 => opVrsq
  | 11 => opVcvt
  | 12 => opVrsum
  | 13 => opVcmp
  | _ => fun _ _ w => w

/-- The operations of slot 4. -/
def run4 (op : Nat) : Env → SlotF → Work → Work :=
  match op with
  | 1 => opSli
  | 2 => opSadd
  | 3 => opSsub
  | 4 => opSmul
  | 5 => opSand
  | 6 => opSor
  | 7 => opSxor
  | 8 => opSshl
  | 9 => opSshr
  | 10 => opSsra
  | 11 => opScmp
  | 12 => opSfromv
  | 13 => opVbcast
  | 14 => opViadd
  | 15 => opVand
  | 16 => opVor
  | 17 => opVxor
  | 18 => opVperm
  | 19 => opVsel
  | 20 => opVmov
  | 21 => opPand
  | 22 => opPor
  | 23 => opPxor
  | 24 => opPnot
  | 25 => opPrange
  | _ => fun _ _ w => w

/-- The operations of slots 5 and 6. -/
def run56 (op : Nat) : Env → SlotF → Work → Work :=
  match op with
  | 1 => opLd
  | 2 => opLds
  | 3 => opSt
  | 4 => opSts
  | _ => fun _ _ w => w

/-- The operations of slot 7. -/
def run7 (op : Nat) : Env → SlotF → Work → Work :=
  match op with
  | 1 => opSend
  | 2 => opSends
  | 3 => opRecv
  | 4 => opSteer
  | 5 => opMerge
  | _ => fun _ _ w => w

/-- The operation of one slot. -/
def runSlot (o : SlotOp) : Env → SlotF → Work → Work :=
  match o.slot.val with
  | 0 => run0 o.op.toNat
  | 1 => run12 1 o.op.toNat
  | 2 => run12 2 o.op.toNat
  | 3 => run3 o.op.toNat
  | 4 => run4 o.op.toNat
  | 5 => run56 o.op.toNat
  | 6 => fun e => run56 o.op.toNat { e with ce := e.ce6 }
  | _ => run7 o.op.toNat

/-- Slot `k` of a wide word (Table 2-5). -/
def slotAt (w : WideWord) (k : Fin 8) : SlotOp :=
  let x := w.toNat / 2 ^ (128 * k.val)
  ⟨k, BitVec.ofNat 8 x, ⟨bitB x 12, bitB x 13, BitVec.ofNat 4 (x / 2 ^ 8), BitVec.ofNat 8 (x / 2 ^ 16), BitVec.ofNat 8 (x / 2 ^ 24),
    BitVec.ofNat 8 (x / 2 ^ 32), BitVec.ofNat 8 (x / 2 ^ 40), BitVec.ofNat 16 (x / 2 ^ 48), BitVec.ofNat 64 (x / 2 ^ 64)⟩⟩

/-- The slots of a wide word that hold an operation, in slot order; a slot with opcode 0x00 does nothing (R45). -/
def wordSlots (w : WideWord) : List SlotOp := ((List.finRange 8).map (slotAt w)).filter (fun o => o.op != 0)

/-- The wide word at an address of the instruction store (Table 2-1). -/
def Tile.wordAt (t : Tile) (pc : Nat) : List SlotOp := wordSlots (SMap.get 0 t.imem pc)

/-- Whether a word holds the operation of a command: the same opcode and fields in its slot; for `NOP`, a slot that holds no opcode listed for it,
which issues as `NOP` or raises `ILLEGAL_WORD` (R45). -/
def holdsOp (w : List SlotOp) (o : SlotOp) : Bool :=
  if o.op = 0 then w.all (fun y => y.slot != o.slot || (opSig y.slot.val y.op.toNat y.f.mod.toNat).isNone) else w.contains o

/-- Whether a send finds turn register `r` taken: it holds an earlier token (R56), or a paired token of the steering unit waits to enter it and goes
first (R112, log entry 154). -/
def Tile.tregTaken (t : Tile) (r : Nat) : Bool :=
  (t.treg r).isSome || t.matchStore.any (fun m => m.paired.any (fun k => rotaTreg (t.rotaAt k) == r))

/-- Why a legal word cannot issue yet: its `WAIT` finds the counter at zero (R50), or its send finds the turn register
taken (R56, R112). -/
inductive Hold where
  | none
  | wait
  | send
  deriving DecidableEq, Repr

/-- Whether a word must wait. -/
def wordHold (e : Env) (w : List SlotOp) : Hold :=
  if w.any (fun o => o.slot.val == 0 && o.op == 3 && e.on o.f && SMap.get 0 e.t.sem (o.f.imm.toNat % 32) == 0) then .wait
  else if w.any (fun o => o.slot.val == 7 && (o.op == 1 || o.op == 2) && e.on o.f && !bitB o.f.imm.toNat 40
      && e.t.tregTaken (rotaTreg (e.t.rotaAt (o.f.imm.toNat % 256)))) then .send
  else .none

/-- The successor of the last word of loop bodies: the innermost loop that ends here runs again or closes (R49). -/
def loopEnd (pc : Nat) : List OpenLoop → Nat × List OpenLoop
  | [] => (pc + 1, [])
  | l :: r =>
    if l.last = pc then
      (if 1 < l.left then (l.first, { l with left := l.left - 1 } :: r) else loopEnd pc r)
    else (pc + 1, l :: r)

/-- A successor address with the loops open there, or the fault that finding it raises (R49). -/
def successor (c : Ctx) (e : Trig) (flow : Flow) : (Nat × List OpenLoop) × Option Nat :=
  let inB := fun a => decide (e.start ≤ a ∧ a ≤ e.start + e.len)
  let chk := fun (r : Nat × List OpenLoop) => (r, if inB r.1 then none else some 0x02)
  match flow with
  | .seq => chk (loopEnd c.pc c.loops)
  | .yield _ => chk (loopEnd c.pc c.loops)
  | .jump a => chk (a, c.loops)
  | .skip a => chk (a, c.loops)
  | .loop last n =>
    if 4 ≤ c.loops.length then ((c.pc + 1, c.loops), some 0x03)
    else if inB last then chk (c.pc + 1, ⟨c.pc + 1, last, n⟩ :: c.loops)
    else ((c.pc + 1, c.loops), some 0x02)
  | .eob => ((c.pc, c.loops), none)

/-- Whether the plot of a tile has a yield record for point `n` of its section (Table 5-5). -/
def Plot.hasYield (p : Plot) (n : Nat) : Bool :=
  let off := leAt p.plat 0x34 4
  (List.range (leAt p.plat 0x38 2)).any (fun i =>
    leAt p.plat (off + 32 * i) 1 == p.sect && leAt p.plat (off + 32 * i + 1) 1 == n)

/-- Raise the faults of a word in slot order, each with the word's position (R65). -/
def Work.raise (w : Work) (e : Env) : State :=
  let s0 := w.s.setTile e.g w.k.t
  let s1 := w.faults.foldl (fun s cd => s.tileFault e.g cd.1 (faultInfo e.c.pc e.c.entry e.c.tag cd.2)
    (if cd.1 = 0x06 then 0x0404 else tileFaultStatus cd.1)) s0
  w.canal.foldl (fun s et => s.canalFault e.g 4
    (canalInfo e.turn 6 et.1 et.2)) s1

/-- Run every slot of a legal word that can issue, and go to its successor (R44, R49). -/
def runWord (e : Env) (w : List SlotOp) (s : State) : State :=
  let w0 : Work := ⟨s, ⟨e.t, e.c⟩, [], [], .seq⟩
  let w1 := w.foldl (fun acc o => runSlot o e o.f acc) w0
  let nx := successor e.c (e.t.trigAt e.c.entry) w1.flow
  let c1 := { w1.k.c with
    pc := nx.1.1
    loops := nx.1.2
    held := none
    state := match w1.flow with
      | .eob => .retiring
      | .yield _ => .yielded
      | _ => .ready
    yieldPoint := match w1.flow with
      | .yield n => n
      | _ => w1.k.c.yieldPoint }
  let t1 := (w1.k.t.setCtx e.k (some c1)).updRegs (fun r => { r with issueCnt := satAdd 48 r.issueCnt 1 })
  let w2 := { w1 with k := ⟨t1, c1⟩ }
  let w3 := match nx.2 with
    | some c => w2.fault c nx.1.1
    | none => w2
  let s1 := w3.raise e
  match w1.flow, e.t.lead with
  | .yield n, some b =>
    (match s1.plot b with
      | some p => if p.hasYield n then s1 else s1.force b 0x06 0x0403 e.g
      | none => s1)
  | _, _ => s1

/-- Mark a context stalled, holding the word of a `WAIT` if it is one (R50, Table 2-4); the cycle counts as a stall. -/
def stallCtx (e : Env) (held : Option (List SlotOp)) (s : State) : State :=
  s.setTile e.g ((e.t.setCtx e.k (some { e.c with state := .stalled, held := held })).updRegs
    (fun r => { r with stallCnt := satAdd 48 r.stallCnt 1 }))

/-- What a context that issues reads. -/
def issueEnv (x : Issue) (s : State) (c : Ctx) : Env :=
  ⟨x.tile.val, x.ctx.val, s.tile x.tile.val, c, s.mem, x.turn.val, x.ce5.val, x.ce6.val⟩

/-- Whether a context can be taken for issue in this cycle: `READY`, or `STALLED` on a counter or a turn register that is now free (Table 2-4), and no
interlock holds it. -/
def issueReady (x : Issue) (s : State) (kc : Nat × Ctx) : Bool :=
  !x.busy.any (fun b => b.val == kc.1) &&
    (match kc.2.state with
      | .ready => true
      | .stalled => wordHold (issueEnv x s kc.2) ((s.tile x.tile.val).wordAt kc.2.pc) == .none
      | .retiring => false
      | .yielded => false)

/-- The place of a context in the order of R44: highest `PRIO`, then smallest d, then lowest entry index. -/
def Tile.issueKey (t : Tile) (c : Ctx) : Nat := ((3 - (t.trigAt c.entry).prio) * 512 + t.dist c.entry c.tag) * 64 + c.entry

/-- Whether the issue unit of a tile may take the context: it can be taken, and none that can be taken comes before it (R44). A fenced tile receives
no work (R68), a stopped or halted one issues nothing (Table 2-15, R65). -/
def issuePicks (x : Issue) (s : State) (c : Ctx) : Bool :=
  let t := s.tile x.tile.val
  t.regs.state == .running && !t.halted && !t.regs.stop && issueReady x s (x.ctx.val, c) &&
    t.live.all (fun kc => !issueReady x s kc || decide (t.issueKey c ≤ t.issueKey kc.2))

/-- A parity error in the tile's stores or register files (Table 2-14). -/
def parityFault (x : Issue) (c : Ctx) (s : State) : State :=
  s.tileFault x.tile.val 0x0F (faultInfo c.pc c.entry c.tag 0) 0x0403

/-- Issue the next word of the context that the issue unit takes (R44 to R56), when it holds operation `o`. The word is the one at the context's
address in the instruction store. Any other command leaves the state as it is (log entry 4). -/
def issueWord (x : Issue) (o : SlotOp) (s : State) : State :=
  let t := s.tile x.tile.val
  match t.ctx x.ctx.val with
  | none => s
  | some c =>
    let w := t.wordAt c.pc
    if issuePicks x s c && c.held.isNone && holdsOp w o then
      if x.parity then parityFault x c s
      else if wordOk c w then
        match wordHold (issueEnv x s c) w with
        | .wait => stallCtx (issueEnv x s c) (some w) s
        | .send => stallCtx (issueEnv x s c) none s
        | .none => runWord (issueEnv x s c) w s
      else s.tileFault x.tile.val 0x01 (faultInfo c.pc c.entry c.tag 0) 0x0403
    else s

/-- Issue the word of a command. -/
def issueOp (x : Issue) (slot : Fin 8) (op : BitVec 8) (f : SlotF) (s : State) : State := issueWord x ⟨slot, op, f⟩ s

end Sys2Proof.Machine
end

