-- ==== Sys2Proof/Machine/Canal.lean ====
section
/-! DEFINITION. The canal network: links and switches (R100 to R109), delivery (R114 to R117), turn registers (R110,
R111) and the steering units (R120 to R126). -/

namespace Sys2Proof.Machine

/-- Whether output `o` of a tile ends at an edge gate (R18, R118). -/
def atGate (g o : Nat) : Bool :=
  (o == 0 && tileRow g == 0) || (o == 1 && tileCol g == 63) || (o == 2 && tileRow g == 63) || (o == 3 && tileCol g == 0)

/-- Where the link of output `o` of a tile ends: the neighbour's input, or the edge gate (R18, R100). -/
def linkEnd (g o : Nat) (tok : Token) : Flight :=
  if atGate g o then ⟨4 * g + o, true, tok⟩
  else
    let r := tileRow g
    let c := tileCol g
    let n := if o = 0 then tileAt (r - 1) c else if o = 1 then tileAt r (c + 1) else if o = 2 then tileAt (r + 1) c
      else tileAt r (c - 1)
    ⟨4 * n + (o + 2) % 4, false, tok⟩

/-- Whether an input of a tile comes across a die edge (R18). -/
def crossesDie (g port : Nat) : Bool :=
  (port == 0 && tileRow g == 32) || (port == 1 && tileCol g == 31) || (port == 2 && tileRow g == 31)
    || (port == 3 && tileCol g == 32)

/-- Whether a link port of a tile is enabled (R102). -/
def Tile.portOn (t : Tile) (o : Nat) : Bool := bitB t.regs.linkEn o

/-- Whether the plot of a tile is in an image load, in which its switches forward nothing (Table 5-9). -/
def State.loadingAt (s : State) (g : Nat) : Bool :=
  match (s.tile g).lead with
  | some b => (match s.plot b with
    | some p => p.loading
    | none => false)
  | none => false

/-- Count tokens discarded at a switch of the plot of a tile (R147, R148). -/
def State.discardAt (s : State) (g n : Nat) : State :=
  match (s.tile g).lead with
  | none => s
  | some b =>
    let s1 := s.updPlotRegs b (fun r => { r with discard := satAdd 32 r.discard n })
    (match s1.plot b with
      | some p => s1.setPlot b { p with leftover := p.leftover || decide (n ≠ 0) }
      | none => s1)

/-- Put a token copy on output `o` of a tile (R109, R115). -/
def State.sendOut (s : State) (g o turn : Nat) (tok : Token) : State :=
  if (s.tile g).portOn o then { s with flights := s.flights ++ [linkEnd g o tok] }
  else s.canalFault g 3 (canalInfo turn o turn tok)

/-- A token takes a match-store entry (R124); the Boolean says that it found all 64 held (R125). -/
def Tile.waitIn (t : Tile) (tok : Token) : Tile × Bool :=
  if 64 ≤ t.matchLive then (t, true)
  else (Tile.noteMatch { t with matchStore := t.matchStore ++ [⟨tok, t.serial, true, none⟩], serial := t.serial + 1 }, false)

/-- A token pairs with one that waits: a control leaves its entry, a data token that waited keeps its own (R124, Table 4-8). -/
def Tile.joinWaiting (t : Tile) (tok : Token) (m : MEntry) : Tile := (t.dropMatch m.serial).couple tok m.tok tok.ctrl

/-- A token reaches the steering unit (R122 to R125): it pairs with the oldest partner waiting, or takes a match-store entry. -/
def Tile.steerIn (t : Tile) (tok : Token) : Tile × Bool :=
  match t.mate tok with
  | some m => (t.joinWaiting tok m, false)
  | none => t.waitIn tok

/-- The tokens of L0 and L1 reach the steering unit in one cycle (R123 to R125, Table 4-8): each pairs with its oldest partner waiting, L0 first; two that
have none and pair with each other take no entry; of two that need entries, L0 takes the first. The Booleans say which found all 64 held. -/
def Tile.steerTwo (t : Tile) (a b : Token) : Tile × Bool × Bool :=
  match t.mate a, t.mate b with
  | some m, _ =>
    let r := (t.joinWaiting a m).steerIn b
    (r.1, false, r.2)
  | none, some m =>
    let r := (t.joinWaiting b m).waitIn a
    (r.1, r.2, false)
  | none, none =>
    if (t.chan a.chan).mates a b then (t.couple a b false, false, false)
    else
      let r := t.waitIn a
      let r2 := r.1.waitIn b
      (r2.1, r.2, r2.2)

/-- The first two checks of a token taken by delivery port L0 (4) or L1 (5) (Table 4-6): the token when it passes. One that passes counts in
`TOKEN_IN_CNT`. -/
def State.examine (s : State) (g port turn : Nat) (tok : Token) : State × Option Token :=
  let t := s.tile g
  if !tok.crcOk then (s.canalFault g 1 (canalInfo turn port turn tok), none)
  else if t.stale tok then (s.setTile g (t.updRegs (fun r => { r with staleDrop := satAdd 32 r.staleDrop 1 })), none)
  else (s.setTile g (t.updRegs (fun r => { r with tokenIn := satAdd 48 r.tokenIn 1 })), some tok)

/-- The tile fault of a token that found the match store full (R125). -/
def State.matchFull (s : State) (g : Nat) (tok : Token) (full : Bool) : State :=
  if full then s.tileFault g 0x0E (faultInfo 0 0 tok.tag tok.chan) 0x0408 else s

/-- A token that has passed goes to the steering unit or to its input queue (Table 4-6). -/
def State.deliverOne (s : State) (g : Nat) (tok : Token) : State :=
  let t := s.tile g
  if tok.steer then
    let r := t.steerIn tok
    (s.setTile g r.1).matchFull g tok r.2
  else
    match t.enqueue (tok.qsel % 16) tok with
    | (t2, none) => s.setTile g t2
    | (t2, some (c, d)) =>
      (if c = 0x09 then s else s.setTile g t2).tileFault g c (faultInfo 0 0 tok.tag d) 0x0403

/-- The tokens of one cycle that have passed the checks of L0 and L1, L0 first (R117, R123, R125). -/
def State.deliverBoth (s : State) (g : Nat) (a b : Option Token) : State :=
  match a, b with
  | some x, some y =>
    if x.steer && y.steer then
      let r := (s.tile g).steerTwo x y
      ((s.setTile g r.1).matchFull g x r.2.1).matchFull g y r.2.2
    else (s.deliverOne g x).deliverOne g y
  | some x, none => s.deliverOne g x
  | none, some y => s.deliverOne g y
  | none, none => s

/-- The token that a source code names, among those that reach a switch in one cycle. -/
def fromSrc (ins : List (Nat × Token)) (e o : Nat) : Option Token :=
  (ins.find? (fun i => i.1 == rotaSrc e o)).map (fun i => i.2)

/-- One cycle of the switch of tile `g` in entry `turn` (R109, R117): every output takes the token its source code names, the links first, then L0 and
L1 together. -/
def State.fanOut (s : State) (g turn : Nat) (ins : List (Nat × Token)) : State :=
  let e := (s.tile g).rotaAt turn
  let s1 := (List.range 4).foldl (fun s o => match fromSrc ins e o with
    | some tok => s.sendOut g o turn tok
    | none => s) s
  let r0 := match fromSrc ins e 4 with
    | some tok => s1.examine g 4 turn tok
    | none => (s1, none)
  let r1 := match fromSrc ins e 5 with
    | some tok => r0.1.examine g 5 turn tok
    | none => (r0.1, none)
  r1.1.deliverBoth g r0.2 r1.2

/-- The oldest token on a link's end, and the links without it. -/
def takeFlight (dst : Nat) (gate : Bool) : List Flight → Option (Token × List Flight)
  | [] => none
  | f :: l =>
    if f.dst = dst ∧ f.gate = gate then some (f.tok, l)
    else (takeFlight dst gate l).map (fun r => (r.1, f :: r.2))

/-- A valid token on an enabled input (R114, R106, R147): the token when the switch passes it on. In an image load it is dropped and counted, its CRC
unchecked (log entry 155). -/
def State.ingress (s : State) (g port turn : Nat) (tok : Token) : State × Option Token :=
  let t := s.tile g
  let e := t.rotaAt turn
  let routed := (List.range 6).any (fun o => rotaSrc e o == port + 1)
  if s.loadingAt g then (s.discardAt g 1, none)
  else if !routed then
    if !tok.crcOk then (s.canalFault g 1 (canalInfo turn port turn tok), none)
    else if t.stale tok then (s.setTile g (t.updRegs (fun r => { r with staleDrop := satAdd 32 r.staleDrop 1 })), none)
    else (s.canalFault g 2 (canalInfo turn port turn tok), none)
  else if crossesDie g port && !tok.crcOk then (s.canalFault g 1 (canalInfo turn port turn tok), none)
  else (s, some tok)

/-- The inputs of one cycle: the oldest token on the link of each port named, as the link disturbed it. A disabled port ignores it (R102). -/
def State.takeInputs (g turn : Nat) : List (Nat × BitVec 304) → State × List (Nat × Token) → State × List (Nat × Token)
  | [], r => r
  | (port, flip) :: l, r =>
    match takeFlight (4 * g + port) false r.1.flights with
    | none => State.takeInputs g turn l r
    | some (tok, fl) =>
      let s1 := { r.1 with flights := fl }
      let t := s1.tile g
      if t.portOn port && !t.regs.fenceFull then
        let q := s1.ingress g port turn (tok.disturb flip)
        State.takeInputs g turn l (q.1, match q.2 with
          | some k => r.2 ++ [(port + 1, k)]
          | none => r.2)
      else State.takeInputs g turn l (s1, r.2)

/-- The token in the turn register of entry `turn`, placed for it, leaves the register (R110); in an image load none does. -/
def State.injection (s : State) (g turn : Nat) : State × List (Nat × Token) :=
  let t := s.tile g
  let r := rotaTreg (t.rotaAt turn)
  match t.treg r with
  | none => (s, [])
  | some x =>
    if x.entry = turn ∧ s.loadingAt g = false then
      (s.setTile g { t with
        tregs := SMap.set none t.tregs r none
        regs := { t.regs with tokenOut := satAdd 48 t.regs.tokenOut 1 } }, [(5, x.tok)])
    else (s, [])

/-- One cycle of a tile's switch in a turn of the period: tokens arrive on the ports named and the turn register injects. -/
def State.switchCycle (s : State) (g turn : Nat) (ports : List (Nat × BitVec 304)) : State :=
  if turn < (s.tile g).turns then
    let r := State.takeInputs g turn ports (s, [])
    let j := r.1.injection g turn
    j.1.fanOut g turn (r.2 ++ j.2)
  else s

/-- TOKEN_ARRIVE (R100 to R117): in one cycle of a tile's switch the oldest token on the link of an input arrives, with those on the further inputs that
`more` names; `flip` is what a link disturbed (log entry 156). -/
def execTokenArrive (tile : Fin 4096) (port : Fin 4) (turn : Fin 256) (flip : BitVec 304) (more : List (Fin 4 × BitVec 304)) (s : State) :
    Host.Outcome State Fault Refusal :=
  .next (match takeFlight (4 * tile.val + port.val) false s.flights with
    | none => s
    | some _ => s.switchCycle tile.val turn.val ((port.val, flip) :: more.map (fun x => (x.1.val, x.2))))

/-- TREG_INJECT (R110): a token leaves its turn register in its entry's turn, no token arriving in that cycle. -/
def execTregInject (tile : Fin 4096) (turn : Fin 256) (s : State) : Host.Outcome State Fault Refusal :=
  .next (s.switchCycle tile.val turn.val [])

/-- STEER_TREG_ENTER (R111, R126): the oldest paired data token whose turn register is free enters it, or is dropped when its entry does not inject (`turn`
is the turn of the cycle); when none can move, a token without a match-store entry takes one (R124, R125). -/
def execSteerTregEnter (tile : Fin 4096) (turn : Fin 256) (s : State) : Host.Outcome State Fault Refusal :=
  let g := tile.val
  let t := s.tile g
  let ps := t.matchStore.filterMap (fun m => m.paired.map (fun k => (m, k)))
  .next (match ps.find? (fun mk => (t.treg (rotaTreg (t.rotaAt mk.2))).isNone) with
    | some (m, k) =>
      let s1 := s.setTile g (t.dropMatch m.serial)
      if t.injects k then
        s1.updTile g (fun t => { t with tregs := SMap.set none t.tregs (rotaTreg (t.rotaAt k)) (some ⟨m.tok, k⟩) })
      else s1.canalFault g 4 (canalInfo turn.val 6 k m.tok)
    | none =>
      (match ps.find? (fun mk => !mk.1.held) with
        | none => s
        | some (m, _) =>
          if 64 ≤ t.matchLive then
            (s.setTile g (t.dropMatch m.serial)).tileFault g 0x0E (faultInfo 0 0 m.tok.tag m.tok.chan) 0x0408
          else s.setTile g (Tile.noteMatch { t with
            matchStore := t.matchStore.map (fun x => if x.serial = m.serial then { x with held := true } else x) })))

end Sys2Proof.Machine
end

