-- ==== Sys2Proof/Machine/Fabric.lean ====
section
/-! DEFINITION. The transport of the fabric: flits (Table 14-1, R381 to R384), messages (Table 14-6, R394) and their
routes (R395). -/

namespace Sys2Proof.Machine

/-- This module's serial number (R391, R465). -/
def ownSerial : Nat := Config.serial.toNat

/-- Fabric port `i`. -/
def State.fport (s : State) (i : Nat) : FabPort := SMap.get FabPort.reset s.fab.ports i

/-- Change the fabric block. -/
def State.updFab (s : State) (f : Fab → Fab) : State := { s with fab := f s.fab }

/-- Replace fabric port `i`. -/
def State.setFport (s : State) (i : Nat) (p : FabPort) : State :=
  s.updFab (fun f => { f with ports := SMap.set FabPort.reset f.ports i p })

/-- Change fabric port `i`. -/
def State.updFport (s : State) (i : Nat) (f : FabPort → FabPort) : State := s.setFport i (f (s.fport i))

/-! Flits. -/

/-- Flit buffers of a virtual channel (R384). -/
def vcBuffers (vc : Nat) : Nat := if vc = 0 then 512 else if vc = 1 then 384 else if vc = 2 then 128 else 0

/-- The 256 bytes of a flit (Table 14-1). -/
def flitBytes (kind vc : Nat) (first last : Bool) (seq ack : Nat) (nak : Bool) (credit crvc : Nat) (payload : Bytes) : Bytes :=
  let h := kind % 16 + vc % 4 * 2 ^ 4 + (if first then 2 ^ 6 else 0) + (if last then 2 ^ 7 else 0) + seq % 1024 * 2 ^ 8
    + ack % 1024 * 2 ^ 18 + (if nak then 2 ^ 28 else 0) + credit % 2 ^ 14 * 2 ^ 32 + crvc % 4 * 2 ^ 46
    + payload.length % 256 * 2 ^ 48
  let b := toLe 8 h ++ slice payload 0 240 ++ zeros 4
  b ++ toLe 4 (crc32 b).toNat

/-- Whether the CRC of a received flit holds (R382). -/
def flitCrcOk (b : Bytes) : Bool := leAt b 252 4 == (crc32 (slice b 0 252)).toNat

/-- The fields of a received flit. -/
def flitHead (b : Bytes) : Nat := leAt b 0 8

/-- The highest number received in order, returned in `ACK` (Table 14-1). -/
def FabPort.ack (p : FabPort) : Nat := (p.rxSeq + 1023) % 1024

/-- The virtual channel whose credits are returned next. -/
def FabPort.creditVc (p : FabPort) : Nat := ([0, 1, 2].find? (fun v => SMap.get 0 p.owed v != 0)).getD 0

/-- Put a flit on the wire: it returns the acknowledgement, the `NAK` once, and the credits owed on one channel
(R383, R384). A flit of kind 1 or 3 takes a sequence number and a place in the replay buffer. -/
def FabPort.emit (p : FabPort) (kind vc : Nat) (first last : Bool) (payload : Bytes) : FabPort :=
  let cv := p.creditVc
  let b := flitBytes kind vc first last p.txSeq p.ack p.nak (SMap.get 0 p.owed cv) cv payload
  let keep := decide (kind = 1 ∨ kind = 3)
  { p with
    wire := p.wire ++ [b]
    nak := false
    sinceAck := 0
    owed := SMap.set 0 p.owed cv 0
    txSeq := if keep then (p.txSeq + 1) % 1024 else p.txSeq
    replay := if keep then p.replay ++ [⟨p.txSeq, b, 1⟩] else p.replay
    used := if kind = 1 then SMap.upd 0 p.used vc (fun n => n + 1) else p.used
    txFlits := if kind = 1 then satAdd 48 p.txFlits 1 else p.txFlits }

/-- The first waiting flit whose channel has a credit, and the others. -/
def takeSendable (p : FabPort) : List (Nat × Bytes) → Option ((Nat × Bytes) × List (Nat × Bytes))
  | [] => none
  | x :: l =>
    if SMap.get 0 p.used (x.1 % 4) < vcBuffers (x.1 % 4) then some (x, l)
    else (takeSendable p l).map (fun r => (r.1, x :: r.2))

/-- Send waiting flits while the link is up, the replay buffer has room and there is credit (R383, R384, R387). A waiting
flit is coded as its channel plus 4 for `FIRST` and 8 for `LAST`. -/
def FabPort.pump : Nat → FabPort → FabPort
  | 0, p => p
  | n + 1, p =>
    if p.state != .up || decide (512 ≤ p.replay.length) then p
    else match takeSendable p p.waiting with
    | none => p
    | some (x, l) => FabPort.pump n (({ p with waiting := l } : FabPort).emit 1 (x.1 % 4) (bitB x.1 2) (bitB x.1 3) x.2)

/-! Messages. -/

/-- The 48-byte header of a message (Table 14-6). -/
def FabMsg.head (m : FabMsg) : Bytes :=
  toLe 8 m.dest ++ toLe 8 m.src ++ toLe 1 m.kind ++ toLe 1 m.ttl ++ toLe 2 m.parcel ++ toLe 4 m.want ++ toLe 8 m.addr
    ++ toLe 4 m.xfer ++ toLe 2 m.channel ++ toLe 1 m.mstatus ++ toLe 1 m.mflags ++ zeros 8

/-- A message from its bytes. -/
def fabMsgOf (l : Bytes) : FabMsg :=
  ⟨leAt l 0 8, leAt l 8 8, leAt l 0x10 1, leAt l 0x11 1, leAt l 0x12 2, leAt l 0x14 4, leAt l 0x18 8, leAt l 0x20 4, leAt l 0x24 2,
   leAt l 0x26 1, leAt l 0x27 1, (l.drop 48).take (leAt l 0x14 4)⟩

/-- A message as waiting flits: 240 bytes to each, the first with `FIRST`, the last with `LAST`. -/
def msgFlits (vc : Nat) (l : Bytes) : List (Nat × Bytes) :=
  let n := (l.length + 239) / 240
  (List.range n).map (fun i =>
    (vc + (if i = 0 then 4 else 0) + (if i + 1 = n then 8 else 0), (l.drop (240 * i)).take 240))

/-! Routes. -/

/-- The `UP` ports whose far end is `dest`, lowest first (R395). -/
def State.directPorts (s : State) (dest : Nat) : List Nat :=
  (List.range 12).filter (fun i => let p := s.fport i; p.state == .up && p.benchSerial == dest)

/-- The modules directly connected to a module, by the lists exchanged (R395). -/
def State.nbrsOf (s : State) (serial : Nat) : List Nat :=
  ((s.fab.nbrs.find? (fun n => n.serial == serial)).map (fun n => n.list)).getD []

/-- Whether `dest` is reached from `at'` in at most `n` hops. -/
def State.reaches (s : State) (dest : Nat) : Nat → Nat → Bool
  | 0, u => u == dest
  | n + 1, u => u == dest || (s.nbrsOf u).any (fun v => s.reaches dest n v)

/-- The port a message leaves on: a direct port, or the lowest port on a shortest path in hops (R395). -/
def State.routePort (s : State) (dest : Nat) : Option Nat :=
  match s.directPorts dest with
  | i :: _ => some i
  | [] =>
    let ups := (List.range 12).filter (fun i => (s.fport i).state == .up)
    (List.range 7).findSome? (fun h => ups.find? (fun i => s.reaches dest (h + 1) (s.fport i).benchSerial))

/-- Put a message behind what waits on a port. -/
def State.fabPut (s : State) (vc : Nat) (m : FabMsg) (i : Nat) : State :=
  s.updFport i (fun p => FabPort.pump 1024 { p with waiting := p.waiting ++ msgFlits vc (m.head ++ m.data) })

/-- Send a message on a virtual channel: dynamic messages alternate between two direct ports; one without a path is
dropped and counted (R395). -/
def State.fabSend (s : State) (vc : Nat) (m : FabMsg) : State :=
  match s.directPorts m.dest with
  | i :: j :: _ =>
    if vc = 1 then
      let first := (s.fport i).dynNext
      (s.updFport i (fun p => { p with dynNext := !first })).fabPut vc m (if first then j else i)
    else s.fabPut vc m i
  | [i] => s.fabPut vc m i
  | [] =>
    (match s.routePort m.dest with
      | some i => s.fabPut vc m i
      | none => s.updFab (fun f => { f with transitDrop := satAdd 32 f.transitDrop 1 }))

/-- The port that holds a plot's reservation of a kind, and of a channel for kind 0, towards a module (R399 to R401). -/
def State.resPort (s : State) (lead kind chan dest : Nat) : Option Nat :=
  (s.directPorts dest).find? (fun i => (s.fport i).reserved.any (fun r => r.lead == lead && r.kind == kind && r.chan == chan))

/-- Send a message in the slots reserved for it (R396, R400, R401); without any it takes dynamic slots. -/
def State.fabSendRes (s : State) (lead kind chan : Nat) (m : FabMsg) : State :=
  match s.resPort lead kind chan m.dest with
  | some i => s.fabPut 0 m i
  | none => s.fabSend 1 m

/-- The plan's record of a port (R390). -/
def Fab.planOf (f : Fab) (i : Nat) : Option PlanRec := (f.plan.getD i none)

/-- The serial number of the tray peer in a slot, by the plan's board links (Table 14-3). -/
def State.traySerial (s : State) (slot : Nat) : Option Nat :=
  let k := s.slot % 4 ^^^ slot % 4
  if k = 0 then none
  else match s.fab.planOf (2 * (k - 1)), s.fab.planOf (2 * (k - 1) + 1) with
  | some r, _ => some r.serial
  | none, some r => some r.serial
  | none, none => none

/-- A message of this module. -/
def newMsg (dest kind parcel addr xfer channel mstatus mflags : Nat) (data : Bytes) : FabMsg :=
  ⟨dest, ownSerial, kind, 8, parcel, data.length, addr, xfer, channel, mstatus, mflags, data⟩

/-! The management channel (R402, R403). The spec gives its messages' contents but no layout: a body here starts with a byte
that names its kind (log entry 40). -/

/-- Send a management datagram over network B, authenticated with parcel 0's key (R403). -/
def State.mgmtNet (s : State) (dest id : Nat) (body : Bytes) : State :=
  match (s.box 0).key with
  | none => s
  | some key => s.updFab (fun f => { f with netB := f.netB ++ [(dest, edMessage key 0 0x00F0 0 id 0 body)] })

/-- Put a management message on its way: over the fabric where a path exists, over network B where none does or `both`
(R403). -/
def State.mgmtEmit (s : State) (dest id : Nat) (both : Bool) (body : Bytes) : State :=
  let path := (s.routePort dest).isSome
  let s1 := if path then s.fabSend 2 (newMsg dest 6 0 0 id 0 0 0 body) else s
  if both || !path then s1.mgmtNet dest id body else s1

/-- Send a management message that is to be acknowledged (R402). -/
def State.mgmtSend (s : State) (dest : Nat) (both : Bool) (body : Bytes) : State :=
  let id := s.fab.mgmtNext
  (s.updFab (fun f => { f with mgmtNext := (id + 1) % 2 ^ 32, mgmt := f.mgmt ++ [⟨id, dest, both, body, 1⟩] })).mgmtEmit dest id both body

/-- Receive a management message: it is acknowledged, and a duplicate has no other effect (R402). One over network B that this
module has no key to check is dropped and counted (R403). -/
def State.mgmtTake (s : State) (m : MgmtIn) (act : State → State) : State :=
  if m.netB ∧ (s.box 0).key.isNone then { s with mail := { s.mail with mgmtFail := satAdd 64 s.mail.mgmtFail 1 } }
  else
    let key := (m.src.toNat, m.id.toNat)
    let s1 := s.mgmtEmit m.src.toNat m.id.toNat m.netB [0]
    if s.fab.mgmtSeen.contains key then s1
    else act (s1.updFab (fun f => { f with mgmtSeen := f.mgmtSeen ++ [key] }))

/-- Send a message to every other member of a model's group. -/
def State.mgmtGroup (s : State) (serials : List Nat) (both : Bool) (body : Bytes) : State :=
  (serials.filter (fun d => d != ownSerial)).foldl (fun s d => s.mgmtSend d both body) s

/-- Send the abort notice of a group (R404): the model's tag, the two ends of the link and the cause. -/
def State.sendAbort (s : State) (tag : Nat) (serials : List Nat) (port farSerial farPort status : Nat) : State :=
  let l := serials.filter (fun d => d != ownSerial)
  (s.mgmtGroup serials true ([2] ++ toLe 8 tag ++ toLe 8 ownSerial ++ toLe 1 port ++ toLe 8 farSerial ++ toLe 1 farPort
    ++ toLe 2 status)).updFab (fun f => { f with abortTx := satAdd 32 f.abortTx l.length })

end Sys2Proof.Machine
end

