-- ==== Sys2Proof/Machine/Tiers.lean ====
section
/-! DEFINITION. The tiers: which addresses are mapped (R158 to R161), who may touch them (R182), writes with page tags and
pond invalidation (R166, R191), the pond (R190), error outcomes (R197), and the events of the memories themselves
(R164, R165, R169, R174, R177, R194, R196). -/

namespace Sys2Proof.Machine

/-! Addresses. -/

/-- `TIER` of a board address (Table 6-1). -/
def addrTier (a : Nat) : Nat := fieldN a 48 2

/-- The key of a board address: `TIER` and `OFFSET`. -/
def addrKey (a : Nat) : Nat := a % 2 ^ 50

/-- Whether a board address names this module (R162). -/
def State.isLocal (s : State) (a : Nat) : Bool := fieldN a 50 2 == s.slot % 4

/-- Bytes of a Reservoir region (R159). -/
def regionBytes : Nat := 0x9000000000

/-- The first address of a range that is not mapped (R158 to R161). -/
def State.unmapped (s : State) (a n : Nat) : Option Nat :=
  let off := a % 2 ^ 48
  let last := off + n - 1
  match addrTier a with
  | 0 =>
    if off / 2 ^ 34 ≠ 0 ∨ 0x300000 ≤ off % 2 ^ 22 then some a
    else if 0 < n ∧ 0x300000 < off % 2 ^ 22 + n then some (a - off % 2 ^ 22 + 0x300000)
    else none
  | 1 =>
    if 4 * regionBytes ≤ off ∨ !(s.quad (off / regionBytes)).regionUp then some a
    else if n = 0 then none
    else if 4 * regionBytes ≤ last then some (a - off + 4 * regionBytes)
    else
      ((List.range 4).find? (fun q => decide (off / regionBytes < q ∧ q ≤ last / regionBytes) && !(s.quad q).regionUp)).map
        (fun q => a - off + q * regionBytes)
  | 2 =>
    let q := s.quad (off / 2 ^ 42 % 4)
    let cap := if q.aqUp then q.aqCap * 2 ^ 21 else 0
    if off / 2 ^ 44 ≠ 0 ∨ cap ≤ off % 2 ^ 42 then some a
    else if 0 < n ∧ cap < off % 2 ^ 42 + n then some (a - off % 2 ^ 42 + cap)
    else none
  | _ => some a

/-- The place of a region offset in the stacks of its region (R170): the channel index, the pseudo-channel of the stack, and the
pseudo-channel offset, whose row is its granule. -/
def channelOf (o : Nat) : Nat × Nat × Nat :=
  let n := o / 2048
  let r := n / 192
  let c := (n % 192 + r % 192) % 192
  (c, c / 6, 2048 * r + o % 2048)

/-- The stack `H(k)` that holds a region offset of quadrant `q` (R170). -/
def stackOf (q o : Nat) : Nat := 6 * q + (channelOf o).1 % 6

/-- The region offset of a channel index and a pseudo-channel offset: the inverse of the interleave (R170). -/
def offsetOf (c pcOff : Nat) : Nat :=
  let r := pcOff / 2048
  2048 * (192 * r + (c + 192 - r % 192) % 192) + pcOff % 2048

/-- The quadrant that counts an error at an address (R201). -/
def addrQuad (a : Nat) : Nat :=
  let off := a % 2 ^ 48
  match addrTier a with
  | 0 => off / 2 ^ 32 % 4
  | 1 => off / regionBytes % 4
  | _ => off / 2 ^ 42 % 4

/-! Permission. -/

/-- The region-table entry of a Reservoir or Aquifer address (R182). -/
def State.regionOf (s : State) (a : Nat) : Nat := (SMap.get 0 s.mem.region (addrKey a / 2 ^ 21)).toNat

/-- Whether every 2 MiB of a range passes for a set of owners (R182): owned by one of them, with write permission for a
write; a read also passes where shared. -/
def State.regionAllows (s : State) (who : List Nat) (a n : Nat) (write : Bool) : Bool :=
  let u := addrKey a / 2 ^ 21
  (List.range ((addrKey a + n - 1) / 2 ^ 21 + 1 - u)).all (fun i =>
    let e := (SMap.get 0 s.mem.region (u + i)).toNat
    (who.contains (e % 1024) && (!write || bitB e 10)) || (!write && bitB e 11))

/-- The parcels with a request in the current step of a plot (R182). -/
def Plot.stepParcels (p : Plot) : List Nat :=
  match p.task with
  | some k => k.parcels
  | none => []

/-- The plot a tile belongs to. -/
def State.plotAt (s : State) (g : Nat) : Option Plot :=
  match (s.tile g).lead with
  | some b => s.plot b
  | none => none

/-- Whether a Field range lies in the data window of its tile (R58). -/
def State.inWindow (s : State) (a n : Nat) : Bool :=
  let r := (s.tile (addrKey a / 2 ^ 22)).regs
  let off := addrKey a % 2 ^ 22
  decide (r.fwinBase ≤ off ∧ off + n ≤ r.fwinBase + r.fwinLimit)

/-- Whether a command may touch a mapped range (R182): static commands of the plot led by `lead`, else dynamic commands
of `parcel`. -/
def State.mayTouch (s : State) (lead : Option Nat) (parcel a n : Nat) (write : Bool) : Bool :=
  if n = 0 then true
  else match lead with
  | some b =>
    (match s.plot b with
      | none => false
      | some p =>
        if addrTier a = 0 then (s.tile (addrKey a / 2 ^ 22)).lead == some b && s.inWindow a n
        else s.regionAllows (p.parcel :: p.stepParcels) a n write)
  | none =>
    if parcel = 0 then true
    else if addrTier a = 0 then
      (match s.plotAt (addrKey a / 2 ^ 22) with
        | some p => p.stepParcels.contains parcel && s.inWindow a n
        | none => false)
    else s.regionAllows [parcel] a n write

/-! The carve-out and the pond. -/

/-- The carve-out map as a build makes it: the tiles of the quadrant not fenced, by local index (R165). -/
def State.buildMap (s : State) (q : Nat) : List Nat :=
  ((List.range 1024).map (fun l => 1024 * q + l)).filter (fun g =>
    let r := (s.tile g).regs
    !r.fenceCore && !r.fenceFull)

/-- Sets of a quadrant's pond (R163, R190). -/
def QuadMem.pondSets (m : QuadMem) : Nat := m.pondPages * 2 * m.carve.length / 16

/-- The Field key of a pond line: pond pages lie below the cistern pages at the top of each slice (R163); lines fill the
pages in order of tile (log entry 8). -/
def QuadMem.lineKey (m : QuadMem) (l : PondLine) : Nat :=
  let i := 16 * l.set + l.way
  fieldKey (m.carve.getD (i / (2 * max 1 m.pondPages)) 0)
    (0x300000 - (m.pondPages + m.cistPages) * 4096 + 2048 * (i % (2 * max 1 m.pondPages)))

/-- Invalidate the lines of a run of granules in one pond, counting them (R191). -/
def QuadMem.invalidate (m : QuadMem) (g n : Nat) : QuadMem :=
  let keep := m.pond.filter (fun l => !decide (g ≤ l.granule ∧ l.granule < g + n))
  { m with pond := keep, pondInval := satAdd 48 m.pondInval (m.pond.length - keep.length) }

/-- Invalidate a written Reservoir range in all four ponds (R191). -/
def State.pondWrite (s : State) (k n : Nat) : State :=
  let g := k % 2 ^ 48 / 2048
  let c := (k % 2 ^ 48 + n - 1) / 2048 + 1 - g
  [0, 1, 2, 3].foldl (fun s q => s.updQuad q (fun m => m.invalidate g c)) s

/-- Tag the pages of a Field range (R166). -/
def Mem.tagPages (m : Mem) (k n : Nat) (t : PageTag) : Mem :=
  { m with tags := (List.range ((k + n - 1) / 4096 + 1 - k / 4096)).foldl (fun x i => SMap.set ⟨0, 0⟩ x (k / 4096 + i) t) m.tags }

/-- A write of an engine, the fabric or firmware to a local address: the bytes and their check bits, the page tags in
Field (R166), the pond lines in Reservoir (R191). -/
def State.put (s : State) (a : Nat) (l : Bytes) (cls req : Nat) : State :=
  if l.isEmpty then s
  else
    let k := addrKey a
    let s1 := { s with mem := s.mem.store k l }
    if addrTier a = 0 then { s1 with mem := s1.mem.tagPages k l.length ⟨cls, req⟩ }
    else if addrTier a = 1 then s1.pondWrite k l.length
    else s1

/-- The line of a set least recently used, with its way free. -/
def QuadMem.victim (m : QuadMem) (set : Nat) : Nat × List PondLine :=
  let mine := m.pond.filter (fun l => l.set == set)
  match (List.range 16).find? (fun w => mine.all (fun l => l.way != w)) with
  | some w => (w, m.pond)
  | none =>
    (match mine with
      | v :: _ => (v.way, m.pond.filter (fun l => l != v))
      | [] => (0, m.pond))

/-- The pond line that serves `n` bytes at a Reservoir key, when it holds no uncorrectable word there (R190, R192). -/
def State.pondHitLine (s : State) (q k n : Nat) : Option PondLine :=
  let m := s.quad q
  (m.pond.find? (fun l => l.granule == k % 2 ^ 48 / 2048)).filter (fun l =>
    (firstUe 16 s.mem.ueField (m.lineKey l + k % 2048) n).isNone)

/-- What a read of `n` bytes of one granule through the pond returns; an error names the uncorrectable Reservoir word. -/
def State.pondGet (s : State) (q k n : Nat) : Except Nat Bytes :=
  match s.pondHitLine q k n with
  | some l => .ok (s.mem.readN ((s.quad q).lineKey l + k % 2048) n)
  | none =>
    (match firstUe 32 s.mem.ueRes k n with
      | some u => .error u
      | none => .ok (s.mem.readN k n))

/-- A read of a Reservoir range, granule by granule, through the pond. -/
def State.pondGetN (s : State) (q : Nat) : Nat → Nat → Nat → Except Nat Bytes
  | 0, _, _ => .ok []
  | f + 1, k, n =>
    if n = 0 then .ok []
    else
      let c := min n (2048 - k % 2048)
      match s.pondGet q k c, State.pondGetN s q f (k + c) (n - c) with
      | .error u, _ => .error u
      | .ok _, .error u => .error u
      | .ok a, .ok b => .ok (a ++ b)

/-- What such a read of one granule does to the pond (R190, R192): a hit renews the line's use; a line with an
uncorrectable word is dropped, its Field word counted (R201); a miss installs the granule when it reads whole. -/
def State.pondUse (s : State) (q k n : Nat) : State :=
  let m := s.quad q
  match s.pondHitLine q k n with
  | some l =>
    s.updQuad q (fun x => { x with pond := x.pond.filter (fun y => y != l) ++ [l], pondHit := satAdd 48 x.pondHit 1 })
  | none =>
    let g := k % 2 ^ 48 / 2048
    let bad := m.pond.filter (fun l => l.granule == g)
    let ue := bad.findSome? (fun l => (firstUe 16 s.mem.ueField (m.lineKey l + k % 2048) n).map (fun u => max u (m.lineKey l + k % 2048)))
    let m1 : QuadMem := { m with
      pond := m.pond.filter (fun l => l.granule != g)
      pondUe := satAdd 32 m.pondUe bad.length
      fieldUe := if ue.isSome then satAdd 32 m.fieldUe 1 else m.fieldUe
      lastUe := (ue.map (fun u => s.boardAddr u)).getD m.lastUe
      pondMiss := satAdd 48 m.pondMiss 1 }
    let base := k - k % 2048
    if m.pondSets = 0 ∨ (firstUe 32 s.mem.ueRes base 2048).isSome then s.updQuad q (fun _ => m1)
    else
      let v := m1.victim (g % m.pondSets)
      let line : PondLine := ⟨g % m.pondSets, v.1, g⟩
      let s2 := s.updQuad q (fun _ => { m1 with pond := v.2 ++ [line] })
      { s2 with mem := s2.mem.store (m.lineKey line) (s.mem.readN base 2048) }

/-- What a read of a range does to the pond. -/
def State.pondUseN (q : Nat) : Nat → State → Nat → Nat → State
  | 0, s, _, _ => s
  | f + 1, s, k, n =>
    if n = 0 then s
    else
      let c := min n (2048 - k % 2048)
      State.pondUseN q f (s.pondUse q k c) (k + c) (n - c)

/-! Error outcomes. -/

/-- A tier error of class `cls` and handle `req` in the data of the plot led by `b` (Table 6-8): a request of the running
task ends alone; any other error forces the plot, with a retry for WEIGHT. A plot without a task is not touched. -/
def State.tierError (s : State) (b cls req tile : Nat) : State :=
  match s.plot b with
  | none => s
  | some p =>
    if p.task = none then s
    else if cls = 2 ∧ p.hasReq req then s.setPlot b (p.maskReq req 0x0404)
    else s.force b 0x09 0x0404 tile (cls = 1)

/-- Count an error found at an address (R201): sluice causes 5 to 8 of Table 6-9. -/
def State.countTier (s : State) (cause a : Nat) : State :=
  s.updQuad (addrQuad a) (fun m =>
    if cause = 5 then { m with blockCrc := satAdd 32 m.blockCrc 1 }
    else if cause = 6 then { m with resUe := satAdd 32 m.resUe 1, lastUe := a }
    else if cause = 7 then { m with fieldUe := satAdd 32 m.fieldUe 1, lastUe := a }
    else if cause = 8 then { m with aqErr := satAdd 32 m.aqErr 1, lastUe := a }
    else m)

/-! Events of the memories. -/

/-- Whether some plot has a tile in a quadrant (R164). -/
def State.quadHasPlot (s : State) (q : Nat) : Bool := s.tiles.any (fun e => e.1 / 1024 == q && e.2.lead.isSome)

/-- Whether a cistern queue of a quadrant, or a packet on its way into one, holds a cell (R164). -/
def State.cistHasCell (s : State) (q : Nat) : Bool :=
  let c := SMap.get Cistern.reset s.cist q
  c.queues.any (fun e => decide (0 < e.2.cells)) || c.building.any (fun b => !b.cells.isEmpty)

/-- Build the carve-out of a quadrant with its sizes (R163, R165): the map over the tiles that are not fenced now, every cell of the
cistern free, and an empty pond where the carve-out changes (R164). -/
def State.buildQuad (s : State) (q pond cist : Nat) : State :=
  let m := s.quad q
  let map := s.buildMap q
  let s1 := s.updQuad q (fun m => { m with
    pondPages := pond
    cistPages := cist
    pond := if pond ≠ m.pondPages ∨ cist ≠ m.cistPages ∨ map ≠ m.carve then [] else m.pond
    carve := map })
  { s1 with cist := SMap.upd Cistern.reset s1.cist q (fun c => c.rebuild (cist * 8 * map.length)) }

/-- MEM_CFG_WRITE (R164, R165): ignored while a plot has a tile in the quadrant, ignored and refused while a cistern queue holds a
cell, and otherwise accepted. -/
def execMemCfgWrite (q : Fin 4) (v : BitVec 64) (s : State) : Host.Outcome State Fault Refusal :=
  .next (if s.quadHasPlot q.val then s
    else if s.cistHasCell q.val then s.updQuad q.val (fun m => { m with cfgRefused := true })
    else (s.buildQuad q.val (min 128 (fieldN v.toNat 0 8)) (min 64 (fieldN v.toNat 8 8))).updQuad q.val (fun m =>
      { m with cfgRefused := false }))

/-- PATROL_SCRUB (R194): what the scrubber finds at an address of Field or Reservoir: 0 nothing, 1 a correctable error,
which it writes back, 2 an uncorrectable one, which it logs and leaves. -/
def execPatrolScrub (addr : BitVec 52) (found : Fin 3) (s : State) : Host.Outcome State Fault Refusal :=
  let a := addr.toNat
  let k := addrKey a
  let q := addrQuad a
  .next (if addrTier a < 2 ∧ s.unmapped a 1 = none then
      if found.val = 1 then
        s.updQuad q (fun m => if addrTier a = 0 then { m with fieldCe := satAdd 32 m.fieldCe 1 } else { m with resCe := satAdd 32 m.resCe 1 })
      else if found.val = 2 then
        let s1 := { s with mem := if addrTier a = 0 then { s.mem with ueField := SMap.set false s.mem.ueField (k / 16) true }
          else { s.mem with ueRes := SMap.set false s.mem.ueRes (k / 32) true } }
        (s1.countTier (if addrTier a = 0 then 7 else 6) a).post false 0x05 0x02 0 0xFFFF q (BitVec.ofNat 64 a)
      else s
    else s)

/-- Take a quadrant's Reservoir region out of service (R169). -/
def State.regionOut (s : State) (q stack : Nat) : State :=
  if (s.quad q).regionUp then
    ((s.updQuad q (fun m => { m with regionUp := false, stackUp := clearBitN m.stackUp (stack % 6) })).signal (144 + q)).post
      false 0x05 0x01 0 0xFFFF q (BitVec.ofNat 64 stack)
  else s

end Sys2Proof.Machine
end

