-- ==== Sys2Proof/Machine/Tiling.lean ====
section
/-! DEFINITION. Tile blocks (Table 6-4): header, consistency (Table 7-1, R209, R210, R299, R307), packing and padding
(R204 to R208). -/

namespace Sys2Proof.Machine

/-- The fields of a tile-block header (Table 6-4). -/
structure BlockHdr where
  magic : Nat
  fmt : Nat
  layout : Nat
  rows : Nat
  cols : Nat
  prows : Nat
  pcols : Nat
  fill : Nat
  flags : Nat
  fillVal : Nat
  packed : Nat
  padded : Nat
  scaleOff : Nat
  crc : Nat
  deriving DecidableEq, Repr

/-- The largest payload of a block: 64 KiB less the header (R178). -/
def maxPayload : Nat := 65472

/-- Read a header from its 64 bytes. -/
def blockHdr (l : Bytes) : BlockHdr :=
  ⟨leAt l 0 2, leAt l 2 1, leAt l 3 1, leAt l 4 2, leAt l 6 2, leAt l 8 2, leAt l 0xA 2, leAt l 0xC 1, leAt l 0xD 1,
   leAt l 0x10 4, leAt l 0x14 4, leAt l 0x18 4, leAt l 0x1C 4, leAt l 0x3C 4⟩

/-- The 64 bytes of a header. -/
def BlockHdr.bytes (h : BlockHdr) : Bytes :=
  toLe 2 h.magic ++ toLe 1 h.fmt ++ toLe 1 h.layout ++ toLe 2 h.rows ++ toLe 2 h.cols ++ toLe 2 h.prows ++ toLe 2 h.pcols
    ++ toLe 1 h.fill ++ toLe 1 h.flags ++ zeros 2 ++ toLe 4 h.fillVal ++ toLe 4 h.packed ++ toLe 4 h.padded
    ++ toLe 4 h.scaleOff ++ zeros 0x1C ++ toLe 4 h.crc

/-- The block CRC over bytes 0x00 to 0x3B and the packed payload (Table 6-4). -/
def blockCrc (hdr packed : Bytes) : Nat := (crc32c (hdr.take 0x3C ++ packed)).toNat

/-- Element width in bits of a format code (Table 2-8). -/
def codeBits (code : Nat) : Nat :=
  if code = 0 then 32 else if code = 5 ∨ code = 6 then 6 else if code = 7 ∨ code = 9 then 4
  else if code = 0xA ∨ code = 0xB then 16 else 8

/-- ⌈a / b⌉. -/
def ceilDiv (a b : Nat) : Nat := (a + b - 1) / b

def BlockHdr.bits (h : BlockHdr) : Nat := codeBits h.fmt
def BlockHdr.k (h : BlockHdr) : Nat := mmaK h.bits
def BlockHdr.mx (h : BlockHdr) : Bool := bitB h.flags 0
def BlockHdr.rowScaled (h : BlockHdr) : Bool := bitB h.flags 1

/-- Element bytes of the padded payload (Table 7-1, R299). -/
def BlockHdr.elemBytes (h : BlockHdr) : Nat :=
  match h.layout with
  | 0 => 256 * (h.prows / 32) * (h.pcols / h.k)
  | 1 => 128 * (h.pcols / 16) * (h.prows / h.k)
  | 3 => h.pcols * (h.prows * h.bits / 8)
  | 4 => 128 * h.cols * (h.bits / 8)
  | _ => h.prows * (h.pcols * h.bits / 8)

/-- Scale bytes of the padded payload (R207, R208). -/
def BlockHdr.scaleBytes (h : BlockHdr) : Nat :=
  (if h.mx then
    match h.layout with
    | 0 => 64 * (h.prows / 32) * (h.pcols / 32)
    | 1 => 64 * (h.pcols / 16) * (h.prows / 32)
    | _ => h.prows * h.pcols / 32
   else 0) + (if h.rowScaled then 4 * h.prows else 0)

/-- Whether scales of a packed payload run along columns: B panels and column-major blocks (R204). -/
def BlockHdr.byCols (h : BlockHdr) : Bool := h.layout == 1 || h.layout == 3

/-- MX scales of a packed payload per row or per column (R204). -/
def BlockHdr.mxPer (h : BlockHdr) : Nat := if h.byCols then ceilDiv h.rows 32 else ceilDiv h.cols 32

/-- Element bytes of a packed payload (R204, R299). -/
def BlockHdr.packedElems (h : BlockHdr) : Nat :=
  if h.layout = 4 then 2 * h.rows * h.cols * (h.bits / 8) else ceilDiv (h.rows * h.cols * h.bits) 8

/-- MX scale bytes of a packed payload. -/
def BlockHdr.packedMx (h : BlockHdr) : Nat := if h.mx then (if h.byCols then h.cols else h.rows) * h.mxPer else 0

/-- `PACKED_LEN` as R204 and R299 give it. -/
def BlockHdr.packedLen (h : BlockHdr) : Nat := h.packedElems + h.packedMx + (if h.rowScaled then 4 * h.rows else 0)

/-- The formats a layout allows (Table 7-1, R299, R307). -/
def fmtAllowed (layout fmt : Nat) : Bool :=
  match layout with
  | 0 => decide (1 ≤ fmt ∧ fmt ≤ 0xA)
  | 1 => decide (1 ≤ fmt ∧ fmt ≤ 0xA)
  | 2 => decide (fmt ≤ 0xB)
  | 3 => decide (fmt ≤ 0xB)
  | 4 => decide (fmt = 1 ∨ fmt = 2 ∨ fmt = 8 ∨ fmt = 0xA)
  | 5 => decide (fmt = 0 ∨ fmt = 0xA ∨ fmt = 1 ∨ fmt = 2 ∨ fmt = 8)
  | _ => false

/-- Padded extents a layout allows (Table 7-1, R299). -/
def BlockHdr.extentsOk (h : BlockHdr) : Bool :=
  match h.layout with
  | 0 => decide (h.prows % 32 = 0 ∧ h.pcols % 32 = 0)
  | 1 => decide (h.prows % 32 = 0 ∧ h.pcols % 16 = 0)
  | 3 => decide (h.prows * h.bits % 256 = 0) && (!h.mx || decide (h.prows % 32 = 0))
  | 4 => decide (h.flags % 4 = 0 ∧ h.rows ≤ 64 ∧ h.prows = 64 ∧ h.cols = h.pcols ∧ h.cols % 32 = 0 ∧ h.fill = 0)
  | _ => decide (h.pcols * h.bits % 256 = 0) && (!h.mx || decide (h.pcols % 32 = 0))

/-- The fill a format and layout allow (R210). -/
def BlockHdr.fillOk (h : BlockHdr) : Bool :=
  match h.fill with
  | 0 => true
  | 1 => decide (2 ≤ h.layout ∧ (h.fmt = 0 ∨ h.fmt = 2 ∨ h.fmt = 4 ∨ h.fmt = 0xA ∨ h.fmt = 0xB))
  | 2 => decide (2 ≤ h.layout)
  | _ => false

/-- The checks of Table 7-1 and after it (R209); false is `BLOCK_HDR`. -/
def BlockHdr.ok (h : BlockHdr) : Bool :=
  decide (h.magic = 0x4254) && fmtAllowed h.layout h.fmt
    && decide (1 ≤ h.rows ∧ 1 ≤ h.cols ∧ h.rows ≤ h.prows ∧ h.cols ≤ h.pcols)
    && (h.mx == isMX h.fmt)
    && (!h.rowScaled || decide ((h.layout = 2 ∨ h.layout = 3 ∨ h.layout = 5) ∧ (h.fmt = 1 ∨ h.fmt = 2 ∨ h.fmt = 8)))
    && h.extentsOk && h.fillOk
    && decide (h.scaleOff = if h.mx ∨ h.rowScaled then h.elemBytes else 0)
    && decide (h.padded = h.elemBytes + h.scaleBytes ∧ h.padded ≤ maxPayload ∧ h.packed = h.packedLen)

/-- Element `i` of width `w` in a little-endian bit stream (R74). -/
def elemAt (w : Nat) (l : Bytes) (i : Nat) : Nat := fieldN (leAt l (w * i / 8) 5) (w * i % 8) w

/-- A number whose base-2^w digits are a list, first lowest. -/
def joinElems (w : Nat) : List Nat → Nat
  | [] => 0
  | x :: l => x % 2 ^ w + 2 ^ w * joinElems w l

/-- Elements as a bit stream of `n` bytes. -/
def streamOf (w n : Nat) (l : List Nat) : Bytes := toLe n (joinElems w l)

/-- The code a fill writes in padded elements (R210). -/
def BlockHdr.fillCode (h : BlockHdr) (ovr : Option Nat) : Nat :=
  if h.layout < 2 then 0
  else match ovr with
  | some v => v % 2 ^ h.bits
  | none =>
    if h.fill = 2 then h.fillVal % 2 ^ h.bits
    else if h.fill = 1 then (if h.fmt = 0 then 0xFF800000 else if h.fmt = 0xA then 0xFF80 else if h.fmt = 0xB then 0xFC00 else 0xFC)
    else 0

/-- A B panel of `kk` positions along K and `nn` along N, from its elements (R206). -/
def bPanel (w kk nn : Nat) (e : Nat → Nat → Nat) : Bytes :=
  let k := mmaK w
  (List.range (nn / 16)).flatMap (fun h => (List.range (kk / k)).flatMap (fun s =>
    streamOf w 128 ((List.range 16).flatMap (fun i => (List.range k).map (fun j => e (k * s + j) (16 * h + i))))))

/-- The padded element bytes, from the element at a padded row and column (R205 to R208). -/
def BlockHdr.layElems (h : BlockHdr) (e : Nat → Nat → Nat) : Bytes :=
  match h.layout with
  | 0 => (List.range (h.prows / 32)).flatMap (fun g => (List.range (h.pcols / h.k)).flatMap (fun s =>
      streamOf h.bits 256 ((List.range 32).flatMap (fun i => (List.range h.k).map (fun j => e (32 * g + i) (h.k * s + j))))))
  | 1 => bPanel h.bits h.prows h.pcols e
  | 3 => (List.range h.pcols).flatMap (fun c =>
      streamOf h.bits (h.prows * h.bits / 8) ((List.range h.prows).map (fun r => e r c)))
  | _ => (List.range h.prows).flatMap (fun r =>
      streamOf h.bits (h.pcols * h.bits / 8) ((List.range h.pcols).map (fun c => e r c)))

/-- The MX scale of packed line `i` and K block `j`: 0x7F where it is padded (R204, R210). -/
def BlockHdr.mxScale (h : BlockHdr) (packed : Bytes) (i j : Nat) : Byte :=
  if i < (if h.byCols then h.cols else h.rows) ∧ j < h.mxPer then packed.getD (h.packedElems + i * h.mxPer + j) 0 else 0x7F

/-- The padded MX scales (R207, R208). -/
def BlockHdr.layMx (h : BlockHdr) (sc : Nat → Nat → Byte) : Bytes :=
  if !h.mx then []
  else match h.layout with
  | 0 => (List.range (h.prows / 32)).flatMap (fun g => (List.range (h.pcols / 32)).flatMap (fun j =>
      (List.range 32).map (fun i => sc (32 * g + i) j) ++ zeros 32))
  | 1 => (List.range (h.pcols / 16)).flatMap (fun g => (List.range (h.prows / 32)).flatMap (fun j =>
      zeros 32 ++ (List.range 16).map (fun i => sc (16 * g + i) j) ++ zeros 16))
  | 3 => (List.range h.pcols).flatMap (fun c => (List.range (h.prows / 32)).map (fun j => sc c j))
  | _ => (List.range h.prows).flatMap (fun r => (List.range (h.pcols / 32)).map (fun j => sc r j))

/-- The padded per-row scales (R208, R210). -/
def BlockHdr.layRows (h : BlockHdr) (packed : Bytes) : Bytes :=
  if !h.rowScaled then []
  else (List.range h.prows).flatMap (fun r =>
    if r < h.rows then slice packed (h.packedElems + h.packedMx + 4 * r) 4 else toLe 4 0x3F800000)

/-- The padded payload of a packed one, `PADDED_LEN` bytes (R179 step 4, R210, R299). -/
def BlockHdr.pad (h : BlockHdr) (packed : Bytes) (ovr : Option Nat) : Bytes :=
  let f := h.fillCode ovr
  if h.layout = 4 then
    bPanel h.bits h.cols 64 (fun d n => if n < h.rows then elemAt h.bits packed (n * h.cols + d) else f)
      ++ bPanel h.bits 64 h.cols (fun n d => if n < h.rows then elemAt h.bits packed ((h.rows + n) * h.cols + d) else f)
  else
    h.layElems (fun r c => if r < h.rows ∧ c < h.cols then elemAt h.bits packed (r * h.cols + c) else f)
      ++ h.layMx (h.mxScale packed) ++ h.layRows packed

/-- Bit offset of an element in the padded payload (R205 to R208, R299). -/
def bPanelBit (w kk k n : Nat) : Nat :=
  let q := mmaK w
  8 * (128 * (n / 16 * (kk / q) + k / q)) + w * (q * (n % 16) + k % q)

def BlockHdr.elemBit (h : BlockHdr) (r c : Nat) : Nat :=
  match h.layout with
  | 0 => 8 * (256 * (r / 32 * (h.pcols / h.k) + c / h.k)) + h.bits * (h.k * (r % 32) + c % h.k)
  | 1 => bPanelBit h.bits h.prows r c
  | 3 => 8 * (c * (h.prows * h.bits / 8)) + h.bits * r
  | _ => 8 * (r * (h.pcols * h.bits / 8)) + h.bits * c

/-- Byte offset of the MX scale of line `i`, K block `j`, in the padded payload. -/
def BlockHdr.mxByte (h : BlockHdr) (i j : Nat) : Nat :=
  h.elemBytes + (match h.layout with
    | 0 => 64 * (i / 32 * (h.pcols / 32) + j) + i % 32
    | 1 => 64 * (i / 16 * (h.prows / 32) + j) + 32 + i % 16
    | 3 => i * (h.prows / 32) + j
    | _ => i * (h.pcols / 32) + j)

/-- `w` bits at a bit offset of a string. -/
def bitsAt (l : Bytes) (off w : Nat) : Nat := fieldN (leAt l (off / 8) 5) (off % 8) w

/-- The packed payload of a padded one: its logical rows and columns and their scales (R179, R204, R214). -/
def BlockHdr.pack (h : BlockHdr) (padded : Bytes) : Bytes :=
  let w := h.bits
  if h.layout = 4 then
    streamOf w (h.rows * h.cols * (w / 8)) ((List.range h.rows).flatMap (fun n => (List.range h.cols).map (fun d =>
        bitsAt padded (bPanelBit w h.cols d n) w)))
      ++ streamOf w (h.rows * h.cols * (w / 8)) ((List.range h.rows).flatMap (fun n => (List.range h.cols).map (fun d =>
        bitsAt padded (8 * (64 * h.cols * (w / 8)) + bPanelBit w 64 n d) w)))
  else
    streamOf w h.packedElems ((List.range h.rows).flatMap (fun r => (List.range h.cols).map (fun c =>
        bitsAt padded (h.elemBit r c) w)))
      ++ (if h.mx then (List.range (if h.byCols then h.cols else h.rows)).flatMap (fun i =>
          (List.range h.mxPer).map (fun j => padded.getD (h.mxByte i j) 0)) else [])
      ++ (if h.rowScaled then (List.range h.rows).flatMap (fun r =>
          slice padded (h.elemBytes + (if h.mx then h.prows * h.pcols / 32 else 0) + 4 * r) 4) else [])

/-- The bits of the elements of a B panel of `kk` positions along K and `nn` along N that hold logical ones, in address order (R206). -/
def bPanelLogical (w kk nn : Nat) (mine : Nat → Nat → Bool) : List (Nat × Nat) :=
  let q := mmaK w
  (List.range (nn / 16)).flatMap (fun h => (List.range (kk / q)).flatMap (fun t => (List.range 16).flatMap (fun i =>
    ((List.range q).filter (fun j => mine (q * t + j) (16 * h + i))).map (fun j => (bPanelBit w kk (q * t + j) (16 * h + i), w)))))

/-- The bits of the logical elements in the padded payload, each as its offset and width, in address order (R205 to R208, R299). -/
def BlockHdr.logicalBits (h : BlockHdr) : List (Nat × Nat) :=
  let w := h.bits
  let mine := fun (r c : Nat) => decide (r < h.rows ∧ c < h.cols)
  match h.layout with
  | 0 => (List.range (h.prows / 32)).flatMap (fun g => (List.range (h.pcols / h.k)).flatMap (fun t => (List.range 32).flatMap (fun i =>
      ((List.range h.k).filter (fun j => mine (32 * g + i) (h.k * t + j))).map (fun j => (h.elemBit (32 * g + i) (h.k * t + j), w)))))
  | 1 => bPanelLogical w h.prows h.pcols mine
  | 3 => (List.range h.cols).flatMap (fun c => (List.range h.rows).map (fun r => (h.elemBit r c, w)))
  | 4 => bPanelLogical w h.cols 64 (fun _ n => decide (n < h.rows))
      ++ (bPanelLogical w 64 h.cols (fun n _ => decide (n < h.rows))).map (fun x => (8 * (64 * h.cols * (w / 8)) + x.1, x.2))
  | _ => (List.range h.rows).flatMap (fun r => (List.range h.cols).map (fun c => (h.elemBit r c, w)))

/-- The bytes of the scales of the logical rows and columns in the padded payload, in address order (R207, R208). -/
def BlockHdr.logicalScales (h : BlockHdr) : List (Nat × Nat) :=
  let lines := if h.byCols then h.cols else h.rows
  let unit := if h.layout = 0 then 32 else if h.layout = 1 then 16 else 1
  let mx := if h.mx then (List.range (ceilDiv lines unit)).flatMap (fun g => (List.range h.mxPer).flatMap (fun j =>
      ((List.range unit).filter (fun i => decide (unit * g + i < lines))).map (fun i => (h.mxByte (unit * g + i) j, 1)))) else []
  mx ++ (if h.rowScaled then [(h.elemBytes + (if h.mx then h.prows * h.pcols / 32 else 0), 4 * h.rows)] else [])

/-- Join a range of bytes to the runs before it, the last one first. -/
def addRun (l : List (Nat × Nat)) (x : Nat × Nat) : List (Nat × Nat) :=
  match l with
  | [] => [x]
  | y :: t => if x.1 ≤ y.1 + y.2 then (y.1, max y.2 (x.1 + x.2 - y.1)) :: t else x :: l

/-- The runs of bytes of the padded payload, each as its offset and length, that hold logical rows and columns and their scales:
what a copy out of Field reads (R214). -/
def BlockHdr.logicalRuns (h : BlockHdr) : List (Nat × Nat) :=
  ((h.logicalBits.map (fun (x : Nat × Nat) => (x.1 / 8, (x.1 + x.2 - 1) / 8 + 1 - x.1 / 8)) ++ h.logicalScales).foldl addRun []).reverse

/-- The C header of a pointer-list entry (R220 step 4). -/
def plistC (m n fmt : Nat) : BlockHdr :=
  let w := codeBits fmt
  let unit := if w = 6 then 128 else max 16 (256 / w)
  let pc := ceilDiv n unit * unit
  let pr := 32 * ceilDiv m 32
  let h : BlockHdr := ⟨0x4254, fmt, 2, m, n, pr, pc, 0, if isMX fmt then 1 else 0, 0, 0, 0, 0, 0⟩
  { h with packed := h.packedLen, padded := h.elemBytes + h.scaleBytes, scaleOff := if h.mx then h.elemBytes else 0 }

/-- The Hilbert visiting order (R215). -/
def h2ijStep : Nat → Nat → Nat → Nat → Nat → Nat → Nat × Nat
  | 0, _, _, _, x, y => (x, y)
  | f + 1, n, s, t, x, y =>
    if s < n then
      let rx := t / 2 % 2
      let ry := (t ^^^ rx) % 2
      let x1 := if ry = 0 ∧ rx = 1 then s - 1 - x else x
      let y1 := if ry = 0 ∧ rx = 1 then s - 1 - y else y
      let x2 := if ry = 0 then y1 else x1
      let y2 := if ry = 0 then x1 else y1
      h2ijStep f n (2 * s) (t / 4) (x2 + s * rx) (y2 + s * ry)
    else (x, y)

def h2ij (n d : Nat) : Nat × Nat := h2ijStep 32 n 1 d 0 0

end Sys2Proof.Machine
end

