-- ==== Sys2Proof/Machine/Sluice.lean ====
section
/-! DEFINITION. The sluice engines: descriptors (Table 6-5, R509), queues and deficit round robin (R183), copies (R179),
pointer lists (R219 to R221), replies, completion and failure (R184, R189, R197, R199), and the stream schedule (R185,
R186). -/

namespace Sys2Proof.Machine

/-- Sluice engine `e`. -/
def State.engine (s : State) (e : Nat) : Engine := SMap.get Engine.reset s.engines e

/-- Replace sluice engine `e`. -/
def State.setEngine (s : State) (e : Nat) (x : Engine) : State := { s with engines := SMap.set Engine.reset s.engines e x }

/-- Change sluice engine `e`. -/
def State.updEngine (s : State) (e : Nat) (f : Engine → Engine) : State := s.setEngine e (f (s.engine e))

/-! Commands. -/

def SlCmd.waitEn (c : SlCmd) : Bool := bitB c.flags 0
def SlCmd.sigEn (c : SlCmd) : Bool := bitB c.flags 1
def SlCmd.pondEn (c : SlCmd) : Bool := bitB c.flags 2
def SlCmd.fillOvr (c : SlCmd) : Bool := bitB c.flags 3
def SlCmd.irq (c : SlCmd) : Bool := bitB c.flags 4

/-- Whether `SRC` is a Field address and `DST` is not (R509); a pointer list's pair has its direction from R220. -/
def SlCmd.outward (c : SlCmd) : Bool :=
  decide (c.op ≠ 4 ∧ c.op ≠ 6) && addrTier c.src == 0 && (addrTier c.dst != 0 || c.chan.isSome)

/-- The semaphore taken before starting (R509, R220). -/
def SlCmd.takeSem (c : SlCmd) : Nat := if c.outward then c.semFull else c.semEmpty

/-- The semaphore signalled at completion (R509). -/
def SlCmd.giveSem (c : SlCmd) : Nat := if c.outward then c.semEmpty else c.semFull

/-- Whether a command will signal semaphore `i` of its tile before it is over (R509, R220). -/
def SlCmd.willSignal (c : SlCmd) (i : Nat) : Bool :=
  if c.op = 4 then c.semFull == i else (c.op == 6 || c.sigEn) && c.giveSem == i

/-- Whether completion signals (R509, R220). -/
def SlCmd.signals (c : SlCmd) : Bool := decide (c.op = 6) || (c.sigEn && decide (c.op ≠ 4))

/-- The 64-byte descriptor as a command with operation `op` (Table 6-5). -/
def cmdOfBytes (l : Bytes) (lead : Option Nat) : SlCmd where
  op := leAt l 0 1
  flags := leAt l 1 1 % 32
  cls := leAt l 2 1
  parcel := leAt l 4 2
  idx := leAt l 8 4 % 2 ^ 20
  gen := leAt l 8 4 / 2 ^ 20 % 64
  req := leAt l 0xC 4
  src := leAt l 0x10 8 % 2 ^ 52
  dst := leAt l 0x18 8 % 2 ^ 52
  len := leAt l 0x20 4
  semTile := leAt l 0x24 2 % 4096
  semFull := leAt l 0x26 1 % 32
  semEmpty := leAt l 0x27 1 % 32
  fillVal := leAt l 0x28 4
  lead := lead
  chan := none
  phase := .reading
  entry := 0
  buf := []
  got := []
  need := []
  stale := false
  slots := true
  back := false
  paid := false

/-- A command given as a descriptor. -/
def cmdOf (op : Nat) (lead : Option (Fin 64)) (d : Desc) : SlCmd where
  op := op
  flags := d.flags.toNat % 32
  cls := d.cls.toNat
  parcel := if lead.isSome then 0 else d.parcel.toNat
  idx := d.xferId.toNat % 2 ^ 20
  gen := d.xferId.toNat / 2 ^ 20
  req := d.req.toNat
  src := d.src.toNat
  dst := d.dst.toNat
  len := d.len.toNat
  semTile := d.semTile.val
  semFull := d.semFull.val
  semEmpty := d.semEmpty.val
  fillVal := d.fillVal.toNat
  lead := lead.map (fun b => b.val)
  chan := none
  phase := .reading
  entry := 0
  buf := []
  got := []
  need := []
  stale := false
  slots := true
  back := false
  paid := false

/-- Why an engine stops reading: ranges of another module not yet held, or a failure with its cause, its address and the
class and handle of the bad data (R197). -/
inductive SlStop where
  | need (ranges : List (Nat × Nat))
  | bad (cause addr cls req : Nat)
  deriving DecidableEq, Repr

/-- A failure whose class does not matter. -/
def slBad {α : Type} (cause addr : Nat) : Except SlStop α := .error (.bad cause addr 0 0)

/-- A check that stops with a failure. -/
def slCheck (b : Bool) (cause addr : Nat) : Except SlStop Unit := if b then .ok () else slBad cause addr

/-- Local range check: mapped, then permitted (R158 to R161, R182). A range of another module is checked there (R396). -/
def State.slRange (s : State) (c : SlCmd) (a n : Nat) (write : Bool) : Except SlStop Unit :=
  if addrTier a = 3 then slBad 2 a
  else if !s.isLocal a then .ok ()
  else match s.unmapped a n with
  | some u => slBad 2 u
  | none => slCheck (s.mayTouch c.lead c.parcel a n write) 3 a

/-- Whether a Field address is aligned as R509 requires. -/
def fieldAligned (a al : Nat) : Bool := addrTier a != 0 || a % al == 0

/-- Whether the semaphore tile of a command passes R182. -/
def State.semTileOk (s : State) (c : SlCmd) : Bool :=
  if c.lead.isSome ∨ c.parcel = 0 then true
  else match s.plotAt c.semTile with
  | some p => p.stepParcels.contains c.parcel
  | none => false

/-- The checks made when a command takes a place, before it takes a semaphore (R509, R158 to R161, R182, in the order of
Table 6-9). -/
def State.slEnter (s : State) (c : SlCmd) : Except SlStop Unit := do
  slCheck (decide (1 ≤ c.op ∧ c.op ≤ 6 ∧ c.cls ≤ 2)) 1 0
  slCheck (!decide ((c.op = 2 ∨ c.op = 3 ∨ c.op = 5) ∧ 2 ^ 24 < c.len)) 1 0
  slCheck (!decide (c.op = 4 ∧ 4096 < c.len)) 1 0
  slCheck (!decide (c.op = 3 ∧ c.len % 4 ≠ 0)) 1 0
  slCheck (!(decide (c.op = 5) && (addrTier c.src != 2 || addrTier c.dst != 1))) 1 0
  slCheck (!decide (c.op = 1 ∨ c.op = 4) || fieldAligned c.src 64) 1 c.src
  slCheck (!decide (c.op = 1 ∨ c.op = 4) || c.chan.isSome || fieldAligned c.dst 64) 1 c.dst
  slCheck (!decide (c.op = 2 ∨ c.op = 3) || fieldAligned c.src 32) 1 c.src
  slCheck (!decide (c.op = 2 ∨ c.op = 3) || c.chan.isSome || fieldAligned c.dst 32) 1 c.dst
  slCheck (!(decide (c.op = 2 ∧ c.len % 32 ≠ 0) && (addrTier c.src == 0 || (c.chan.isNone && addrTier c.dst == 0)))) 1 0
  slCheck (!(decide (c.op = 3 ∧ c.len % 32 ≠ 0) && addrTier c.dst == 0)) 1 0
  if c.op = 1 then s.slRange c c.src 64 false
  if c.op = 2 ∨ c.op = 5 then s.slRange c c.src c.len false
  if c.op = 4 then s.slRange c c.src (32 * c.len) false
  if c.op = 1 ∧ c.chan = none then s.slRange c c.dst 64 true
  if (c.op = 2 ∨ c.op = 3 ∨ c.op = 5) ∧ c.chan = none then s.slRange c c.dst c.len true
  slCheck (s.semTileOk c) 3 0

/-- Whether the bytes of a remote range have been returned. -/
def SlCmd.holds (c : SlCmd) (a n : Nat) : Bool := c.got.any (fun g => decide (g.1 ≤ a ∧ a + n ≤ g.1 + g.2))

/-- Bytes a command can see: of this module, or of another where they have been returned. -/
def State.slPeek (s : State) (c : SlCmd) (a n : Nat) : Option Bytes :=
  if s.isLocal a then some (s.mem.readN (addrKey a) n)
  else if c.holds a n then some ((List.range n).map (fun i => SMap.get 0 c.buf (a + i))) else none

/-- The bytes of a block's payload in a tier, by its header (R178): padded in Field, packed elsewhere. -/
def BlockHdr.payload (h : BlockHdr) (tier : Nat) : Nat := if tier = 0 then h.padded else h.packed

/-- The bytes a copy of a block reads in tier `st` for tier `dt` (R178, R179): all of it within one tier, else at most 64 KiB, and the
header alone where `PACKED_LEN` is too large. -/
def BlockHdr.readLen (h : BlockHdr) (st dt : Nat) : Nat :=
  if st = dt then 64 + h.payload st
  else if st = 0 then 64 + min maxPayload h.padded
  else if h.packed ≤ maxPayload then 64 + h.packed else 64

/-- The bytes a copy of a block from tier `st` writes in tier `dt` (R178, R179). -/
def BlockHdr.writeLen (h : BlockHdr) (st dt : Nat) : Nat :=
  if st = dt then 64 + h.payload dt else 64 + min maxPayload (h.payload dt)

/-- The tier a command's data goes to: a channel's window is packed like Reservoir (R400). -/
def SlCmd.toTier (c : SlCmd) : Nat := if c.chan.isSome then 1 else addrTier c.dst

/-- The checks of a `COPY` whose header can be read, made as it starts (R182). -/
def State.slStart (s : State) (c : SlCmd) : Except SlStop Unit :=
  if c.op = 1 ∧ s.isLocal c.src then do
    let h := blockHdr (s.mem.readN (addrKey c.src) 64)
    s.slRange c c.src (h.readLen (addrTier c.src) c.toTier) false
    if c.chan = none then s.slRange c c.dst (h.writeLen (addrTier c.src) c.toTier) true
  else .ok ()

/-! Reading. -/

/-- Whether the pond serves a command's reads of Reservoir (R181, R190): a dynamic command whose source is Reservoir of this module. -/
def State.ponds (s : State) (c : SlCmd) : Bool := c.pondEn && c.lead.isNone && addrTier c.src == 1 && s.isLocal c.src

/-- Read bytes for a command: of another module from what its replies brought, of this one from memory, through the pond
where the command asks for it; the first uncorrectable word stops it (R190, R193, R197). -/
def State.slRead (s : State) (e : Nat) (c : SlCmd) (a n : Nat) : Except SlStop Bytes :=
  if n = 0 then .ok []
  else if !s.isLocal a then
    (match s.slPeek c a n with
      | some l => .ok l
      | none => .error (.need [(a, n)]))
  else
    let k := addrKey a
    match addrTier a with
    | 0 =>
      (match firstUe 16 s.mem.ueField k n with
        | some u => let t := s.mem.tag (max u k); .error (.bad 7 (a - k + max u k) t.cls t.req)
        | none => .ok (s.mem.readN k n))
    | 1 =>
      if s.ponds c then
        (match s.pondGetN (e / 16) n k n with
          | .error u => .error (.bad 6 (a - k + max u k) c.cls c.req)
          | .ok l => .ok l)
      else
        (match firstUe 32 s.mem.ueRes k n with
          | some u => .error (.bad 6 (a - k + max u k) c.cls c.req)
          | none => .ok (s.mem.readN k n))
    | _ => .ok (s.mem.readN k n)

/-- Read a padded payload for packing: only the runs of bytes where logical rows and columns lie are read (R214), so an uncorrectable
word elsewhere does not stop it. -/
def State.slReadLogical (s : State) (e : Nat) (c : SlCmd) (h : BlockHdr) (a : Nat) : Except SlStop Bytes :=
  let runs := h.logicalRuns.map (fun r => (a + r.1, r.2))
  let miss := runs.filter (fun r => !s.isLocal a && !c.holds r.1 r.2)
  if !miss.isEmpty then .error (.need miss)
  else match runs.findSome? (fun r => match s.slRead e c r.1 r.2 with
      | .error x => some x
      | .ok _ => none) with
    | some x => .error x
    | none => .ok (if s.isLocal a then s.mem.readN (addrKey a) h.padded else (List.range h.padded).map (fun i => SMap.get 0 c.buf (a + i)))

/-- The block a `COPY` reads at `src` and writes to a place of tier `dt` (R179). -/
def State.slCopy (s : State) (e : Nat) (c : SlCmd) (src : Nat) (dt : Nat) : Except SlStop Bytes := do
  let raw ← s.slRead e c src 64
  let h := blockHdr raw
  if dt = addrTier src then
    let l ← s.slRead e c (src + 64) (h.payload dt)
    return raw ++ l
  else if addrTier src = 0 then
    slCheck h.ok 4 src
    let l ← s.slReadLogical e c h (src + 64)
    let packed := h.pack l
    let h2 := { h with packed := packed.length, crc := 0 }
    return { h2 with crc := blockCrc h2.bytes packed }.bytes ++ packed
  else
    if maxPayload < h.packed then .error (.bad 5 src c.cls c.req)
    let packed ← s.slRead e c (src + 64) h.packed
    if blockCrc raw packed ≠ h.crc then .error (.bad 5 src c.cls c.req)
    slCheck h.ok 4 src
    if dt = 0 then return raw ++ h.pad packed (if c.fillOvr then some c.fillVal else none)
    else return raw ++ packed

/-- A write a command makes: address and bytes. -/
abbrev SlWrite := Nat × Bytes

/-- Entry `i` of a pointer list (Table 7-3). -/
structure PEntry where
  a : Nat
  b : Nat
  c : Nat
  m : Nat
  n : Nat
  k : Nat
  cfmt : Nat
  noC : Bool
  deriving DecidableEq, Repr

def pentryOf (l : Bytes) : PEntry :=
  ⟨leAt l 0 8 % 2 ^ 52, leAt l 8 8 % 2 ^ 52, leAt l 0x10 8 % 2 ^ 52, leAt l 0x18 2, leAt l 0x1A 2, leAt l 0x1C 2,
   leAt l 0x1E 1, bitB (leAt l 0x1F 1) 0⟩

def State.slEntry (s : State) (e : Nat) (c : SlCmd) (i : Nat) : Except SlStop PEntry := do
  let l ← s.slRead e c (c.src + 32 * i) 32
  return pentryOf l

/-- The entry whose result is written back after the `EMPTY` in hand (R220 step 2, and the last ones). -/
def SlCmd.backOf (c : SlCmd) : Option Nat :=
  if c.len = 1 then (if c.entry = 1 then some 0 else none) else if 2 ≤ c.entry then some (c.entry - 2) else none

/-- The Field buffer of entry `i` (R220). -/
def SlCmd.bufOf (c : SlCmd) (i : Nat) : Nat := c.dst + i % 2 * 0x30000

/-- The write-back of an entry's C block from its buffer (R220 step 2). -/
def State.slWriteBack (s : State) (e : Nat) (c : SlCmd) (i : Nat) : Except SlStop (List SlWrite) := do
  let p ← s.slEntry e c i
  if p.noC then return []
  else
    let buf := c.bufOf i + 0x20000
    s.slRange c buf 64 false
    let h := blockHdr (s.mem.readN (addrKey buf) 64)
    s.slRange c buf (h.readLen 0 (addrTier p.c)) false
    let out ← s.slCopy e c buf (addrTier p.c)
    s.slRange c p.c out.length true
    return [(p.c, out)]

/-- One operand block of an entry, copied into a buffer, with its extents checked (R220 step 3, R221). -/
def State.slOperand (s : State) (e : Nat) (c : SlCmd) (src dst layout rows cols : Nat) : Except SlStop (List SlWrite) := do
  s.slRange c src 64 false
  if s.isLocal src then s.slRange c src ((blockHdr (s.mem.readN (addrKey src) 64)).readLen (addrTier src) 0) false
  let out ← s.slCopy e c src 0
  let h := blockHdr out
  slCheck (decide (h.layout = layout ∧ h.rows = rows ∧ h.cols = cols) && h.ok) 4 src
  s.slRange c dst out.length true
  return [(dst, out)]

/-- One half of a step of a pointer-list walk, made in order (R220, R221): the write-back that the taken `EMPTY` allows, and once it is
made the entry's operands and its C header. -/
def State.slPlist (s : State) (e : Nat) (c : SlCmd) : Except SlStop (List SlWrite) :=
  if !c.back then
    match c.backOf with
    | some i => s.slWriteBack e c i
    | none => .ok []
  else do
    let p ← s.slEntry e c c.entry
    let buf := c.bufOf c.entry
    let a ← s.slOperand e c p.a buf 0 p.m p.k
    let b ← s.slOperand e c p.b (buf + 0x10000) 1 p.k p.n
    slCheck (decide (p.cfmt ≤ 0xB)) 1 (c.src + 32 * c.entry)
    let h := plistC p.m p.n p.cfmt
    slCheck (decide (h.padded ≤ maxPayload)) 1 (c.src + 32 * c.entry)
    s.slRange c (buf + 0x20000) 64 true
    return a ++ b ++ [(buf + 0x20000, h.bytes)]

/-- `n` bytes of the fill pattern (Table 6-5). -/
def fillBytes (v n : Nat) : Bytes := (List.range (n / 4)).flatMap (fun _ => toLe 4 v)

/-- What a command writes once its reads have returned. -/
def State.slExec (s : State) (e : Nat) (c : SlCmd) : Except SlStop (List SlWrite) :=
  match c.op with
  | 1 => do
    let l ← s.slCopy e c c.src c.toTier
    if c.chan = none then s.slRange c c.dst l.length true
    return [(c.dst, l)]
  | 2 => do
    let l ← s.slRead e c c.src c.len
    return [(c.dst, l)]
  | 3 => .ok [(c.dst, fillBytes c.fillVal c.len)]
  | 4 => s.slPlist e c
  | 5 => do
    let l ← s.slRead e c c.src c.len
    return [(c.dst, l)]
  | _ => .ok []

/-- The ranges that one step of a command reads and writes, in pairs, as far as the headers of its blocks can be seen; none where one
cannot. -/
def State.slMoves (s : State) (c : SlCmd) : Option (List ((Nat × Nat) × Nat × Nat)) :=
  let copy := fun (src dst dt : Nat) => (s.slPeek c src 64).map (fun l =>
    ((src, (blockHdr l).readLen (addrTier src) dt), (dst, (blockHdr l).writeLen (addrTier src) dt)))
  let entry := fun (i : Nat) => (s.slPeek c (c.src + 32 * i) 32).map pentryOf
  match c.op with
  | 1 => (copy c.src c.dst c.toTier).map (fun x => [x])
  | 3 => some [((c.dst, 0), (c.dst, c.len))]
  | 4 =>
    if !c.back then
      (match c.backOf with
        | none => some []
        | some i => (entry i).bind (fun p =>
          if p.noC then some [((c.src + 32 * i, 32), (c.src, 0))]
          else (copy (c.bufOf i + 0x20000) p.c (addrTier p.c)).map (fun x => [((c.src + 32 * i, 32), (c.src, 0)), x])))
    else
      let buf := c.bufOf c.entry
      (entry c.entry).bind (fun p => (copy p.a buf 0).bind (fun x => (copy p.b (buf + 0x10000) 0).map (fun y =>
        [((c.src + 32 * c.entry, 32), (buf + 0x20000, 64)), x, y])))
  | 6 => some []
  | _ => some [((c.src, c.len), (c.dst, c.len))]

/-- The larger of the bytes that one step of a command reads and writes, headers included (R183); none while a header is not known. -/
def State.slCharge (s : State) (c : SlCmd) : Option Nat :=
  (s.slMoves c).map (fun l => max (l.foldl (fun n x => n + x.1.2) 0) (l.foldl (fun n x => n + x.2.2) 0))

/-- The address in Aquifer of this module that one step of a command reaches, where it reaches one: what it reads first (R177). -/
def State.slAquifer (s : State) (c : SlCmd) (port : Option Nat) : Option Nat :=
  let l := (s.slMoves c).getD []
  let own := fun (x : Nat × Nat) => decide (0 < x.2) && addrTier x.1 == 2 && s.isLocal x.1 && port.all (fun q => addrQuad x.1 == q)
  ((l.map (fun x => x.1) ++ (if c.chan.isSome then [] else l.map (fun x => x.2))).find? own).map (fun x => x.1)

/-! Remote messages (R394, R396, R400). -/

/-- Send a command's message: in its plot's reserved slots for a static command of a reservation stream, else in dynamic ones (R183,
R332, R385, R398). -/
def State.slSend (s : State) (c : SlCmd) (m : FabMsg) : State :=
  match c.lead with
  | some b => if c.slots then s.fabSendRes b 3 0 m else s.fabSend 1 m
  | none => s.fabSend 1 m

/-- The parcel a remote command carries (R182). -/
def State.slParcel (s : State) (c : SlCmd) : Nat :=
  match c.lead with
  | some b => ((s.plot b).map (fun p => p.parcel)).getD 0
  | none => c.parcel

/-- Pieces of at most 4,096 bytes (R394). -/
def pieces (n : Nat) : List (Nat × Nat) := (List.range (ceilDiv n 4096)).map (fun i => (4096 * i, min 4096 (n - 4096 * i)))

/-- `XFER_ID` of a command. -/
def SlCmd.xfer (c : SlCmd) : Nat := c.idx + c.gen * 2 ^ 20

/-- Send the reads of a remote range. -/
def State.slFetch (s : State) (c : SlCmd) (a n : Nat) : State :=
  match s.traySerial (a / 2 ^ 50 % 4) with
  | none => s
  | some d => (pieces n).foldl (fun s p =>
      s.slSend c { newMsg d 2 (s.slParcel c) (a + p.1) c.xfer 0 0 0 [] with want := p.2 }) s

/-- Send the writes of a remote range. -/
def State.slPush (s : State) (c : SlCmd) (a : Nat) (l : Bytes) : State :=
  match s.traySerial (a / 2 ^ 50 % 4) with
  | none => s
  | some d => (pieces l.length).foldl (fun s p =>
      s.slSend c (newMsg d 1 (s.slParcel c) (a + p.1) c.xfer 0 0 0 ((l.drop p.1).take p.2))) s

/-- The far module of a channel of a plot (R400). -/
def State.chanPeer (s : State) (lead ch : Nat) : Option Nat :=
  (s.fab.chans.find? (fun x => x.lead == lead && x.channel == ch && x.out)).map (fun x => x.peer)

/-- The messages of a repeat of `n` bytes over a channel; one of no bytes is one message. -/
def chanPieces (n : Nat) : List (Nat × Nat) := if n = 0 then [(0, 0)] else pieces n

/-- Send a repeat over a channel; the last message carries `SIGNAL` under `SIG_EN` (R400). -/
def State.slChan (s : State) (c : SlCmd) (lead ch : Nat) (l : Bytes) : State :=
  match s.chanPeer lead ch with
  | none => s
  | some d =>
    (chanPieces l.length).foldl (fun s p =>
      s.fabSendRes lead 0 ch (newMsg d 4 (s.slParcel c) (c.dst % 2 ^ 32 + p.1) c.xfer ch 0
        (if c.sigEn ∧ l.length ≤ p.1 + p.2 then 1 else 0) ((l.drop p.1).take p.2))) s

/-! Queues and places. -/

/-- The charge of a command known before it starts (R183); none where its headers give it. -/
def SlCmd.charge (c : SlCmd) : Option Nat :=
  if c.op = 1 ∨ c.op = 4 then none else if c.op = 6 then some 0 else some c.len

def Engine.deficit (x : Engine) (p : Nat) : Int := SMap.get 0 x.deficits p

/-- Charge a parcel's deficit. -/
def Engine.pay (x : Engine) (p n : Nat) : Engine := { x with deficits := SMap.set 0 x.deficits p (x.deficit p - n) }

/-- Whether a parcel has a command that has started and whose headers have not been read: its deficit is not known (R183). -/
def Engine.owes (x : Engine) (p : Nat) : Bool :=
  x.flight.any (fun c => c.lead.isNone && c.parcel == p && c.charge.isNone && !c.paid && (c.phase == .reading || c.phase == .fetch))

/-- The next parcel with waiting descriptors after `p`, in rotation by number. -/
def Engine.nextParcel (x : Engine) (p : Nat) : Option Nat :=
  let ps := (x.dyn.map (fun c => c.parcel)).filter (fun q => !x.owes q)
  match (ps.filter (fun q => decide (p < q))).min? with
  | some q => some q
  | none => ps.min?

/-- Deficit round robin (R183): the dynamic command to serve next. -/
def Engine.pickDyn : Nat → Engine → Option (SlCmd × Engine)
  | 0, _ => none
  | f + 1, x =>
    let next := fun (x : Engine) => (x.nextParcel x.turn).map (fun p =>
      ({ x with turn := p, deficits := SMap.set 0 x.deficits p (x.deficit p + 65536) } : Engine))
    match x.dyn.find? (fun c => c.parcel == x.turn) with
    | some c =>
      let d := x.deficit c.parcel
      let go := match c.charge with
        | some n => decide ((n : Int) ≤ d)
        | none => decide (0 < d)
      if go && !x.owes c.parcel then some (c, { (x.pay c.parcel (c.charge.getD 0)) with dyn := x.dyn.erase c })
      else
        (match next x with
          | none => none
          | some y => Engine.pickDyn f y)
    | none =>
      (match next { x with deficits := SMap.set 0 x.deficits x.turn (min 0 (x.deficit x.turn)) } with
        | none => none
        | some y => Engine.pickDyn f y)

/-- The entries of a dynamic ring, as their number (Table 6-10): a size outside 4 to 16 acts as the nearer of the two (DESIGN CHOICE, log
entry 158). -/
def Engine.ringEntries (x : Engine) : Nat := 2 ^ (min 16 (max 4 x.ringSize))

/-- Read descriptors ahead from the ring, at most 64 (R183, Table 6-10). -/
def Engine.readAhead (s : State) : Nat → Engine → Engine
  | 0, x => x
  | f + 1, x =>
    if x.enable && !x.halt && x.ringHead != x.ringTail % x.ringEntries && decide (x.dyn.length < 64) then
      let c := cmdOfBytes (s.mem.readN (addrKey x.ringBase + 64 * x.ringHead) 64) none
      Engine.readAhead s f { x with dyn := x.dyn ++ [c], ringHead := (x.ringHead + 1) % x.ringEntries }
    else x

/-- A command that starts (R509, R180): it fails a check of its header, is done, or reads; a dynamic one whose headers give its charge
is charged as soon as they can be read (R183). -/
def State.slBegin (s : State) (c : SlCmd) : SlCmd :=
  match s.slStart c with
  | .error (.bad cause a cl r) => { c with phase := .failed cause a cl r }
  | _ => { c with phase := if c.op = 6 then .done else .reading, back := decide (c.op = 4) && c.backOf.isNone }

/-- The state of a command that takes a place: failed, waiting for its semaphore, or started (R509, R180). A failure that has no address
carries 0 (DESIGN CHOICE, log entry 159). -/
def State.slPlace (s : State) (c : SlCmd) : SlCmd :=
  match s.slEnter c with
  | .error (.bad cause a cl r) => { c with phase := .failed cause a cl r }
  | .error (.need _) => c
  | .ok _ =>
    if c.op = 4 then { c with phase := if c.len = 0 then .done else .waitSem }
    else if c.waitEn then { c with phase := .waitSem }
    else s.slBegin c

/-- Charge a dynamic command in an engine's places by its headers, once, where they can be read (R183). -/
def Engine.charge (s : State) (x : Engine) (c : SlCmd) : Engine :=
  if c.lead.isSome || c.charge.isSome || c.paid || c.phase != .reading then x
  else match s.slCharge c with
  | none => x
  | some n => { (x.pay c.parcel n) with flight := x.flight.map (fun y => if y = c then { y with paid := true } else y) }

/-- Put a command in a place of its engine. -/
def State.slTake (s : State) (x : Engine) (c : SlCmd) : Engine :=
  let c' := s.slPlace c
  Engine.charge s { x with flight := x.flight ++ [c'] } c'

/-- The index an engine gives its next static command (R184): the first in rotation that no command in flight holds, when its last use
lies 4 ms back. -/
def Engine.freeIdx (x : Engine) (now : Nat) : Option Nat :=
  ((List.range 33).map (fun k => (x.nextIdx + k) % 2 ^ 20)).find? (fun i => !x.flight.any (fun c => c.idx == i)) |>.filter (fun i =>
    decide (SMap.get 0 x.uses i = 0 ∨ SMap.get 0 x.uses i + 4000000 ≤ now + 1))

/-- The index and generation of a command as it takes a place (R184): an engine gives a static command its index, a dynamic one keeps
its descriptor's. -/
def Engine.renew (x : Engine) (c : SlCmd) (now : Nat) : Option (Engine × SlCmd) :=
  if c.lead.isSome then
    (x.freeIdx now).map (fun i =>
      let g := (SMap.get 0 x.gens i + 1) % 64
      ({ x with gens := SMap.set 0 x.gens i g, nextIdx := (i + 1) % 2 ^ 20, uses := SMap.set 0 x.uses i (now + 1) }, { c with idx := i, gen := g }))
  else some ({ x with gens := SMap.set 0 x.gens c.idx c.gen }, c)

/-- The next command of an engine that can take a place: of the static queue, else of the dynamic lists (DESIGN CHOICE, log entry 160). -/
def Engine.nextCmd (x : Engine) (now : Nat) : Option (Engine × SlCmd) :=
  let stat := match x.statics with
    | c :: l => ({ x with statics := l } : Engine).renew c now
    | [] => none
  stat.orElse (fun _ => (x.pickDyn 4300000).bind (fun r => r.2.renew r.1 now))

/-- Fill the free places of an engine (R180, R183). -/
def State.slServe (e : Nat) : Nat → State → State
  | 0, s => s
  | f + 1, s =>
    let x := Engine.readAhead s 64 (s.engine e)
    if 32 ≤ x.flight.length then s.setEngine e x
    else match x.nextCmd s.now with
    | none => s.setEngine e x
    | some (y, c) => State.slServe e f (s.setEngine e (s.slTake y c))

/-- Serve an engine after a place or a descriptor has come free. -/
def State.serveEngine (s : State) (e : Nat) : State := State.slServe e 33 s

/-- A command joins its engine's queue (R183); a queue that holds 64 takes no more, and the command is lost (DESIGN CHOICE, log entry
161). -/
def State.slSubmit (s : State) (e : Nat) (c : SlCmd) : State :=
  (s.updEngine e (fun x =>
    if c.lead.isSome then (if x.statics.length < 64 then { x with statics := x.statics ++ [c] } else x)
    else (if x.dyn.length < 64 then { x with dyn := x.dyn ++ [c] } else x))).serveEngine e

/-- COPY (R179, R181). -/
def execCopy (engine : Fin 64) (lead : Option (Fin 64)) (d : Desc) (s : State) : Host.Outcome State Fault Refusal :=
  .next (s.slSubmit engine.val (cmdOf 1 lead d))

/-- COPY_RAW (R181). -/
def execCopyRaw (engine : Fin 64) (lead : Option (Fin 64)) (d : Desc) (s : State) : Host.Outcome State Fault Refusal :=
  .next (s.slSubmit engine.val (cmdOf 2 lead d))

/-- FILL (R181). -/
def execFill (engine : Fin 64) (lead : Option (Fin 64)) (d : Desc) (s : State) : Host.Outcome State Fault Refusal :=
  .next (s.slSubmit engine.val (cmdOf 3 lead d))

/-- PLIST (R219 to R221). -/
def execPlist (engine : Fin 64) (lead : Option (Fin 64)) (d : Desc) (s : State) : Host.Outcome State Fault Refusal :=
  .next (s.slSubmit engine.val (cmdOf 4 lead d))

/-- STAGE (R181). -/
def execStage (engine : Fin 64) (lead : Option (Fin 64)) (d : Desc) (s : State) : Host.Outcome State Fault Refusal :=
  .next (s.slSubmit engine.val (cmdOf 5 lead d))

/-- SLUICE_SIGNAL (R509). -/
def execSluiceSignal (engine : Fin 64) (lead : Option (Fin 64)) (d : Desc) (s : State) : Host.Outcome State Fault Refusal :=
  .next (s.slSubmit engine.val (cmdOf 6 lead d))

/-- SL_RING_TAIL_WRITE (R183, Table 6-10). -/
def execSlRingTailWrite (engine : Fin 64) (tail : BitVec 16) (s : State) : Host.Outcome State Fault Refusal :=
  .next ((s.updEngine engine.val (fun x => { x with ringTail := tail.toNat })).serveEngine engine.val)

/-! Commands in their places. -/

/-- The command in hand with an index, in some phase. -/
def Engine.findCmd (x : Engine) (idx : Nat) (ph : SlPhase → Bool) : Option SlCmd :=
  x.flight.find? (fun c => c.idx == idx && ph c.phase)

/-- The command of an index and a generation, in some phase, that a forced switch has not cancelled (R184). -/
def Engine.findXfer (x : Engine) (idx gen : Nat) (ph : SlPhase → Bool) : Option SlCmd :=
  x.flight.find? (fun c => c.idx == idx && c.gen == gen && !c.stale && ph c.phase)

/-- Replace a command in its place. -/
def Engine.putCmd (x : Engine) (c c' : SlCmd) : Engine := { x with flight := x.flight.map (fun y => if y = c then c' else y) }

/-- A command leaves its place; its index has been used until now (R184). -/
def Engine.leave (x : Engine) (c : SlCmd) (now : Nat) : Engine :=
  { x with
    flight := x.flight.erase c
    uses := if c.lead.isSome then SMap.set 0 x.uses c.idx (now + 1) else x.uses }

/-- ENGINE_SEM_TAKE (R189): the take passes when the counter is above zero, and the command starts. -/
def execEngineSemTake (engine : Fin 64) (index : BitVec 20) (s : State) : Host.Outcome State Fault Refusal :=
  let e := engine.val
  .next (match (s.engine e).findCmd index.toNat (fun p => p == .waitSem) with
    | none => s
    | some c =>
      let n := SMap.get 0 (s.tile c.semTile).sem c.takeSem
      if n = 0 then s
      else
        let s1 := s.updTile c.semTile (fun t => { t with sem := SMap.set 0 t.sem c.takeSem (n - 1) })
        let c' := s1.slBegin c
        s1.updEngine e (fun x => Engine.charge s1 (x.putCmd c c') c'))

/-- Signal a semaphore of a tile from an engine (R189): a counter at 0xFFFF stays and raises `SEM_OVERFLOW`. -/
def State.engineSignal (s : State) (g i : Nat) : State :=
  let n := SMap.get 0 (s.tile g).sem i
  if n < 0xFFFF then s.updTile g (fun t => { t with sem := SMap.set 0 t.sem i (n + 1) })
  else s.tileFault g 0x0A (faultInfo 0 0 0 i) 0x0403

/-- Bytes of a list of writes. -/
def writeBytes (w : List SlWrite) : Nat := w.foldl (fun n x => n + x.2.length) 0

/-- Count a command's bytes, static or dynamic (Table 6-10). -/
def Engine.count (x : Engine) (c : SlCmd) (n : Nat) : Engine :=
  if c.lead.isSome then { x with bytesStatic := satAdd 48 x.bytesStatic n } else { x with bytesDyn := satAdd 48 x.bytesDyn n }

/-- Make a command's writes: local ones in memory, those for other modules as messages (R162, R396, R400). -/
def State.slWrites (s : State) (c : SlCmd) (w : List SlWrite) : State :=
  w.foldl (fun s x =>
    match c.lead, c.chan with
    | some b, some ch => s.slChan c b ch x.2
    | _, _ => if s.isLocal x.1 then s.put x.1 x.2 c.cls c.req else s.slPush c x.1 x.2) s

/-- The messages a list of writes awaits an acknowledgement for. -/
def State.slAwaits (s : State) (c : SlCmd) (w : List SlWrite) : List (Nat × Nat) :=
  if c.chan.isSome then w.flatMap (fun x => (chanPieces x.2.length).map (fun p => (c.dst % 2 ^ 32 + p.1, p.2)))
  else w.flatMap (fun x => if s.isLocal x.1 then [] else (pieces x.2.length).map (fun p => (x.1 + p.1, p.2)))

/-- The phase after a command's writes: the other half of a pointer-list step, another entry, or done (R220). -/
def SlCmd.advance (c : SlCmd) : SlCmd :=
  let c0 : SlCmd := { c with got := [], buf := [], need := [], paid := false }
  if c.op = 4 then
    if !c.back ∧ c.entry < c.len then { c0 with back := true, phase := .reading }
    else if c.entry + 1 < c.len + min c.len 2 then { c0 with entry := c.entry + 1, back := false, phase := .waitSem }
    else { c0 with phase := .done }
  else { c0 with phase := .done }

/-- The signal of a pointer-list entry (R220 step 5). -/
def State.plistFull (s : State) (c : SlCmd) : State :=
  if c.op = 4 ∧ c.back ∧ c.entry < c.len then s.engineSignal c.semTile c.semFull else s

/-- Field bytes that a failed copy leaves undefined become free values (R179), as far as the slice goes. -/
def State.spoil (s : State) (a n : Nat) : State :=
  let k := addrKey a
  let m := min n (0x300000 - k % 2 ^ 22)
  ({ s with mem := s.mem.writeN k ((List.range m).map (fun i => Config.freeByte (s.free + i))) } : State).tick m

/-- A copy from Reservoir or Aquifer into Field of this module that fails leaves the block's padded extent undefined (R179): 64 KiB, the
largest of a block, where its header has not come (DEDUCED, log entry 162). -/
def State.slSpoil (s : State) (c : SlCmd) : State :=
  let block := fun (s : State) (src dst : Nat) =>
    if addrTier dst = 0 ∧ addrTier src ≠ 0 ∧ s.isLocal dst then
      s.spoil dst (((s.slPeek c src 64).map (fun l => (blockHdr l).writeLen (addrTier src) 0)).getD 65536)
    else s
  if c.op = 1 ∧ c.chan = none then block s c.src c.dst
  else if c.op = 4 ∧ c.back then
    match s.slPeek c (c.src + 32 * c.entry) 32 with
    | none => s
    | some l => block (block s (pentryOf l).a (c.bufOf c.entry)) (pentryOf l).b (c.bufOf c.entry + 0x10000)
  else s

/-- The pond's part in a command's reads (R190, R192): every Reservoir range of this module that its step reads. -/
def State.slPondUse (s : State) (e : Nat) (c : SlCmd) : State :=
  if s.ponds c then
    (((s.slMoves c).getD []).filter (fun x => addrTier x.1.1 == 1 && s.isLocal x.1.1)).foldl (fun s x =>
      State.pondUseN (e / 16) x.1.2 s (addrKey x.1.1) x.1.2) s
  else s

/-- A command fails in its place (R179, R197): its cause is counted and what it was to write is undefined. -/
def State.slFail (s : State) (e : Nat) (c : SlCmd) (cause a cl r : Nat) : State :=
  ((s.slSpoil c).countTier cause a).updEngine e (fun x => x.putCmd c { c with phase := .failed cause a cl r })

/-- A command is charged by its headers where they can be read now (R183): the engine, and the command with its charge paid. -/
def State.slBill (s : State) (e : Nat) (c : SlCmd) : State × SlCmd :=
  (s.updEngine e (fun x => Engine.charge s x c), if c.lead.isNone && c.charge.isNone && (s.slCharge c).isSome then { c with paid := true } else c)

/-- A command reads ranges of another module: it waits for them in its place (R396). -/
def State.slAwait (s : State) (e : Nat) (c : SlCmd) (l : List (Nat × Nat)) : State :=
  (l.foldl (fun s x => s.slFetch c x.1 x.2) s).updEngine e (fun x =>
    x.putCmd c { c with phase := .fetch, need := l.flatMap (fun x => (pieces x.2).map (fun p => (x.1 + p.1, p.2))), got := c.got ++ l })

/-- A command makes its writes and is done, goes on, or awaits their acknowledgement (R179, R220, R396). -/
def State.slMake (s : State) (e : Nat) (c : SlCmd) (w : List SlWrite) : State :=
  let aw := s.slAwaits c w
  let s1 := ((s.slPondUse e c).slWrites c w).updEngine e (fun x =>
    ((x.count c (writeBytes w)).putCmd c (if aw.isEmpty then c.advance else { c with phase := .push, need := aw })))
  if aw.isEmpty then s1.plistFull c else s1

/-- Run a command whose reads have returned (R179, R193, R197): it fails with its cause counted, awaits bytes of another
module, or makes its writes. -/
def State.slRun (s : State) (e : Nat) (c0 : SlCmd) : State :=
  let x := s.slBill e c0
  match x.1.slExec e x.2 with
  | .error (.bad cause a cl r) => (x.1.slPondUse e x.2).slFail e x.2 cause a cl r
  | .error (.need l) => x.1.slAwait e x.2 l
  | .ok w => x.1.slMake e x.2 w

/-- A failed Aquifer access of a command (R177), at the address that its port serves. -/
def State.slAqFail (s : State) (e : Nat) (c : SlCmd) (a : Nat) : State := s.slFail e c 8 a c.cls c.req

/-- An error detected on a command that a forced switch has cancelled is counted and has no other effect (R197). -/
def State.staleErr (s : State) (e : Nat) (c : SlCmd) (aq : Option Nat) : State :=
  match aq with
  | some a => s.countTier 8 a
  | none => match s.slExec e c with
    | .error (.bad cause a _ _) => s.countTier cause a
    | _ => s

/-- Nothing more will come for a command that a forced switch has cancelled: its place comes free. -/
def State.slFree (s : State) (e : Nat) (c : SlCmd) : State := (s.updEngine e (fun x => x.leave c s.now)).serveEngine e

/-- Drop a reply of a stale generation and count it (R184); the place of the command it answers comes free. -/
def State.slStale (s : State) (e : Nat) (c : Option SlCmd) : State :=
  let s1 := s.updEngine e (fun x => { x with staleCnt := satAdd 32 x.staleCnt 1 })
  match c with
  | some c => s1.slFree e c
  | none => s1

/-- Count the words that the reads of a command have met and corrected (R193, R201), by their addresses. -/
def State.countCe (s : State) (l : List (BitVec 52)) : State :=
  l.foldl (fun (s : State) v =>
    let a := v.toNat
    s.updQuad (addrQuad a) (fun m =>
      if addrTier a = 0 then { m with fieldCe := satAdd 32 m.fieldCe 1 }
      else if addrTier a = 1 then { m with resCe := satAdd 32 m.resCe 1 } else m)) s

/-- TIER_REPLY (R179, R184, R193, R197): the replies of a command arrive, with its `XFER_ID`; `poison` is poison in an Aquifer access, and
`ces` are the words that were corrected on the way. -/
def execTierReply (engine : Fin 64) (index : BitVec 20) (gen : BitVec 6) (poison : Bool) (ces : List (BitVec 52)) (s0 : State) :
    Host.Outcome State Fault Refusal :=
  let e := engine.val
  let s := s0.countCe ces
  let x := s.engine e
  .next (match x.findXfer index.toNat gen.toNat (fun p => p == .reading) with
    | some c => (match (if poison then s.slAquifer c none else none) with
      | some a => s.slAqFail e c a
      | none => s.slRun e c)
    | none => (match x.flight.find? (fun c => c.idx == index.toNat && c.stale && c.phase == .reading) with
      | some c => (s.staleErr e c (if poison then s.slAquifer c none else none)).slStale e (some c)
      | none => if SMap.get 0 x.gens index.toNat = gen.toNat then s else s.slStale e none))

/-- AQ_READ_TIMEOUT (R177): an Aquifer access of a command has had no response in 10 ms. -/
def execAqReadTimeout (engine : Fin 64) (index : BitVec 20) (s : State) : Host.Outcome State Fault Refusal :=
  let e := engine.val
  .next (match (s.engine e).findCmd index.toNat (fun p => p == .reading) with
    | none => s
    | some c => (match s.slAquifer c none with
      | none => s
      | some a => if c.stale then (s.countTier 8 a).slFree e c else s.slAqFail e c a))

/-! Completion. -/

/-- Sluice causes that go by Table 6-8. -/
def tierCause (cause : Nat) : Bool := decide (5 ≤ cause ∧ cause ≤ 8)

/-- Record a failed command in `SL_ERR` (R199, Table 6-10). -/
def Engine.recordErr (x : Engine) (c : SlCmd) (cause a : Nat) : Engine :=
  { x with
    err := x.err.raise cause 0
    errId := if x.err.valid then x.errId else c.xfer + c.parcel % 1024 * 2 ^ 32
    errAddr := if x.err.valid then x.errAddr else a }

/-- What a failed command does to its task (Tables 6-8, 6-9, R397): `remote` a REMOTE_FAIL whose cause is `cause`. -/
def State.slOutcome (s : State) (c : SlCmd) (cause cl r : Nat) : State :=
  match c.lead with
  | none => s
  | some b =>
    if c.stale then s
    else if tierCause cause then s.tierError b cl r 0
    else match s.plot b with
    | some p => if p.task = none then s else s.force b 0x0B 0x0403 0
    | none => s

/-! The stream schedule. -/

/-- Offset of stream record `i` in a plat (R185). -/
def Plot.streamRec (p : Plot) (i : Nat) : Nat := leAt p.plat 0x40 4 + 128 * i

/-- Rebase a plot-relative Field address (R185, R138): [33:22] the tile index, [21:0] the slice offset. -/
def State.rebaseField (s : State) (p : Plot) (a : Nat) : Nat :=
  s.boardAddr (fieldKey (p.tileOf (a / 2 ^ 22 % 4096)) (a % 2 ^ 22))

/-- The board address of a model's allocation in a tier: of its region in Reservoir, of port 0 in Aquifer (R227). -/
def State.modelBase (s : State) (model tier q : Nat) : Nat :=
  let m := SMap.get Model.reset s.models (model % 256)
  s.boardAddr (if tier = 1 then boardKey 1 (SMap.get 0 m.resBase q) else boardKey 2 m.aqBase)

/-- Relocate an address of a template (Table 6-6): the allocations are the model's in the tier named. -/
def State.relocate (s : State) (p : Plot) (rel pos a : Nat) : Nat :=
  match rel with
  | 1 => s.rebaseField p a
  | 2 => (s.modelBase p.model 1 (tileQuad (p.tileOf pos)) + a) % 2 ^ 52
  | 3 => (s.modelBase p.model 2 (tileQuad (p.tileOf pos)) + a) % 2 ^ 52
  | _ => a % 2 ^ 52

/-- An address advanced by a signed or unsigned 64-bit step (Table 6-6). -/
def stepAddr (a step k : Nat) : Nat := (a + step * k) % 2 ^ 64

/-- The command of repeat `k` of stream record `i` (R185, R186). -/
def State.streamCmd (s : State) (b : Nat) (p : Plot) (i k : Nat) : SlCmd :=
  let o := p.streamRec i
  let rd := fun off n => leAt p.plat (o + off) n
  let t := cmdOfBytes (slice p.plat (o + 0x40) 64) (some b)
  let pos := rd 4 2
  let buf := max 1 (rd 0x14 1)
  let src := stepAddr (s.relocate p (rd 0x28 1) pos t.src) (rd 0x18 8) k % 2 ^ 52
  let d0 := if rd 0x29 1 = 4 then t.dst else s.relocate p (rd 0x29 1) pos t.dst
  { t with
    parcel := 0
    src := src
    dst := stepAddr d0 (rd 0x20 8) (k % buf) % 2 ^ 52
    semTile := p.tileOf t.semTile
    chan := if rd 0x29 1 = 4 then some (t.dst / 2 ^ 32 % 4096) else none
    slots := rd 6 2 != 0xFFFF }

/-- Whether stream record `i` has `CARRY` (Table 6-6). -/
def Plot.carries (p : Plot) (i : Nat) : Bool := bitB (leAt p.plat (p.streamRec i + 1) 1) 0

/-- The records of the running section that carry on past its end join those of the sections before it (R187). -/
def Plot.carryOn (p : Plot) : List Nat :=
  let first := p.sectField p.sect 0x14 4
  (p.carried ++ ((List.range (p.sectField p.sect 0x18 4)).map (fun i => first + i)).filter (fun i => p.carries i)).eraseDups

/-- STREAM_RELEASE (R186, R187): repeat `k` of a stream record is released to its engine, while its plot runs the
record's section up to the image-load broadcast, or later where the record carries on. -/
def execStreamRelease (lead : Fin 64) (record : BitVec 16) (k : Nat) (s : State) : Host.Outcome State Fault Refusal :=
  let b := lead.val
  .next (match s.plot b with
    | none => s
    | some p =>
      let i := record.toNat
      let o := p.streamRec i
      let first := p.sectField p.sect 0x14 4
      let mine := decide (first ≤ i ∧ i < first + p.sectField p.sect 0x18 4)
      let ok := decide (p.task.isSome) && decide (leAt p.plat o 1 = 0) && (mine && (!p.loading || p.carries i) || p.carried.contains i) &&
        decide (k ≤ leAt p.plat (o + 0x10) 4) &&
        decide (p.state = .running ∨ p.state = .switching ∨ p.state = .yielding)
      if ok then
        let e := 16 * tileQuad (p.tileOf (leAt p.plat (o + 4) 2)) + leAt p.plat (o + 2) 1 % 16
        s.slSubmit e (s.streamCmd b p i k)
      else s)

/-- The index of the page commands that firmware posts for the steps of a plot, one at a time each way (R290; DESIGN CHOICE, log entry
168). -/
def kvIndex (b : Nat) (out : Bool) : Nat := 2 ^ 19 + 2 * b + (if out then 1 else 0)

/-- Whether a command is a plot's: a static one of its section, or one that moves pages for its step (R184, R290). -/
def SlCmd.ofPlot (c : SlCmd) (b : Nat) : Bool :=
  c.lead == some b || (c.lead.isNone && (c.idx == kvIndex b false || c.idx == kvIndex b true))

/-- Cancel the commands of a plot at a forced switch (R184): its queues and the commands that wait for a semaphore are dropped, the
generation of those in flight advances. -/
def Engine.cancel (x : Engine) (b : Nat) : Engine :=
  { x with
    statics := x.statics.filter (fun c => c.lead != some b)
    dyn := x.dyn.filter (fun c => !c.ofPlot b)
    flight := (x.flight.filter (fun c => !c.ofPlot b || c.phase == .reading || c.phase == .fetch || c.phase == .push)).map
      (fun c => if c.ofPlot b then { c with stale := true, gen := (c.gen + 1) % 64 } else c) }

/-- Cancel the commands of a plot on every engine. -/
def State.cancelStreams (s : State) (b : Nat) : State :=
  s.engines.foldl (fun s e => (s.updEngine e.1 (fun x => x.cancel b)).serveEngine e.1) s

/-! Late tiers. -/

/-- The semaphore that a context is blocked on in `WAIT`, if it is (R50). -/
def Ctx.waitsOn (c : Ctx) : Option Nat :=
  (c.held.getD []).findSome? (fun o => if o.slot.val = 0 ∧ o.op.toNat = 3 then some (o.f.imm.toNat % 32) else none)

/-- Whether a tile of a plot waits on a semaphore that an engine command of the plot, still incomplete, will signal (R195). -/
def State.waitsTier (s : State) (b : Nat) (p : Plot) : Bool :=
  let cmds := s.engines.flatMap (fun e => (e.2.flight ++ e.2.statics).filter (fun c => c.lead == some b && !c.stale))
  p.tiles.any (fun g => (s.tile g).ctxs.any (fun k =>
    (k.2.bind Ctx.waitsOn).any (fun i => cmds.any (fun c => c.semTile == g && c.willSignal i))))

/-- TIER_WATCHDOG (R195, R196): a `WAIT` on an engine command of the plot has lasted `ns` nanoseconds, `stall` cycles of
which are counted now; past the watchdog the plot is forced. -/
def execTierWatchdog (lead : Fin 64) (ns stall : Nat) (s : State) : Host.Outcome State Fault Refusal :=
  let b := lead.val
  .next (match s.plot b with
    | none => s
    | some p =>
      if s.waitsTier b p = false then s
      else
        let us := leAt p.plat (leAt p.plat 0x28 4 + 0x1A) 2
        let wd := 1000 * (if us = 0 then 200 else us)
        let s1 := s.updPlotRegs b (fun r => { r with
          waitMax := max r.waitMax (min ns (2 ^ 32 - 1))
          lateStall := satAdd 48 r.lateStall stall })
        if wd < ns ∧ p.task.isSome then s1.force b 0x0A 0x0405 0 else s1)

end Sys2Proof.Machine
end

