-- ==== Sys2Proof/Machine/Cistern.lean ====
section
/-! DEFINITION. The cistern (R248 to R261): cells and packets, reading and the idle item, flush and parked queues, its
faults (Table 9-9), and the edge gates. -/

namespace Sys2Proof.Machine

/-! Cells. -/

/-- The cistern of quadrant `q`. -/
def State.cistern (s : State) (q : Nat) : Cistern := SMap.get Cistern.reset s.cist q

/-- The Field key of a cell (R248). -/
def State.cellKey (s : State) (q cell : Nat) : Nat :=
  let m := s.quad q
  let n := max 1 (8 * m.cistPages)
  fieldKey (m.carve.getD (cell / n) 0) (0x300000 - m.cistPages * 4096 + 512 * (cell % n))

/-- Change the cistern of quadrant `q`; a cell that returns to the free list is scrubbed (R479). -/
def State.updCist (s : State) (q : Nat) (f : Cistern → Cistern) : State :=
  let c := s.cistern q
  let c' := f c
  { s with
    cist := SMap.set Cistern.reset s.cist q c'
    mem := (c'.freed.filter (fun x => !c.freed.contains x)).foldl (fun m x => m.zero (s.cellKey q x) 512) s.mem }

def Cistern.queue (c : Cistern) (n : Nat) : CQueue := SMap.get CQueue.reset c.queues n

def Cistern.setQueue (c : Cistern) (n : Nat) (x : CQueue) : Cistern := { c with queues := SMap.set CQueue.reset c.queues n x }

def Cistern.updQueue (c : Cistern) (n : Nat) (f : CQueue → CQueue) : Cistern := c.setQueue n (f (c.queue n))

/-- The owner of a queue's cells: the block of the quadrant whose plot queues it is among, or 16 for a system queue
(R250, R251). -/
def queueOwner (n : Nat) : Nat := if n < 4096 then n / 256 else 16

/-- The quota of an owner (R250). -/
def Cistern.quotaOf (c : Cistern) (o : Nat) : Nat := if o = 16 then c.sysCells else SMap.get 0 c.quota o

def Cistern.heldBy (c : Cistern) (o : Nat) : Nat := SMap.get 0 c.held o

/-- Take a cell for an owner, within its quota (R250, R253). -/
def Cistern.take (c : Cistern) (o : Nat) : Option (Nat × Cistern) :=
  if c.quotaOf o ≤ c.heldBy o then none
  else match c.freed with
  | x :: l => some (x, { c with freed := l, held := SMap.upd 0 c.held o (fun n => n + 1) })
  | [] =>
    if c.fresh < c.pool then some (c.fresh, { c with fresh := c.fresh + 1, held := SMap.upd 0 c.held o (fun n => n + 1) })
    else none

/-- Cells return to the free list (R255). -/
def Cistern.give (c : Cistern) (o : Nat) (cells : List Nat) : Cistern :=
  { c with freed := cells ++ c.freed, held := SMap.upd 0 c.held o (fun n => n - cells.length) }

/-- Cells an owner may still take. -/
def Cistern.room (c : Cistern) (o : Nat) : Nat :=
  min (c.quotaOf o - c.heldBy o) (c.freed.length + (c.pool - c.fresh))

/-! Faults. -/

/-- `CIST_ERR_INFO`: queue and writer (Table 9-10). -/
def cistInfo (queue writer : Nat) : Nat := queue % 2 ^ 13 + writer % 2 ^ 7 * 2 ^ 13

/-- Record a cistern fault and post it (R275). -/
def State.cistErr (s : State) (q cause queue writer parcel : Nat) : State :=
  let i := cistInfo queue writer
  ((s.updCist q (fun c => { c with
    errInfo := if c.err.valid then c.errInfo else i
    err := c.err.raise cause 0 })).signal (148 + q)).post false 0x06 cause 0 parcel q (BitVec.ofNat 64 i)

/-- The lead block of the plot that owns the plot queues of a block of a quadrant. -/
def State.queueLead (s : State) (q o : Nat) : Option Nat :=
  if o < 16 then
    let b := 8 * (4 * (q / 2) + o / 4) + 4 * (q % 2) + o % 4
    (List.range 64).find? (fun l => match s.plot l with
      | some p => p.blocks.contains b
      | none => false)
  else none

/-- A cistern fault that ends the task of the plot led by `lead` (Table 9-9). -/
def State.cistFault (s : State) (q cause queue writer : Nat) (lead : Option Nat) : State :=
  let par := match lead with
    | some b => ((s.plot b).map (fun p => p.parcel)).getD 0xFFFF
    | none => 0xFFFF
  let s1 := s.cistErr q cause queue writer par
  match lead with
  | some b => s1.force b 0x0C (if cause = 5 then 0x0404 else 0x0403) 0
  | none => s1

/-! Packets. -/

/-- Write item `i` of a packet into its cell: header, payload and `COUNT` (Table 9-1). -/
def Mem.putItem (m : Mem) (k i : Nat) (hdr : BitVec 32) (pay : BitVec 256) : Mem :=
  ((m.store (k + 8 + 4 * i) (toLe 4 hdr.toNat)).store (k + 0x40 + 32 * i) (toLe 32 pay.toNat)).store (k + 4) [BitVec.ofNat 8 (i + 1)]

/-- Clear a flush that covers nothing any more (R258). -/
def Cistern.endFlush (c : Cistern) (n : Nat) : Cistern :=
  let x := c.queue n
  if x.flushing && !x.pkts.any (fun p => p.doomed) && !c.building.any (fun b => b.queue == n && b.doomed) then
    c.setQueue n { x with flushing := false }
  else c

/-- Discard the flushed packets at a packet boundary (R258). -/
def Cistern.dropDoomed (c : Cistern) (n : Nat) : Cistern :=
  let x := c.queue n
  if x.pos = 0 then
    let bad := x.pkts.filter (fun p => p.doomed)
    let items := bad.foldl (fun a p => a + p.n) 0
    let c1 := (c.setQueue n { x with pkts := x.pkts.filter (fun p => !p.doomed), disc := satAdd 64 x.disc items }).give (queueOwner n)
      (bad.flatMap (fun p => p.cells))
    ({ c1 with flushCnt := satAdd 32 c1.flushCnt items } : Cistern).endFlush n
  else c

/-- A flush request of queue `n` (R258, Table 9-3); `forced` says that it is a forced switch's (R150). -/
def Cistern.flush (c : Cistern) (n : Nat) (forced : Bool := false) : Cistern :=
  let x := c.queue n
  let doom := fun (p : Pkt) => { p with doomed := true, forced := p.forced || forced }
  let pkts := match x.pkts with
    | h :: l => (if x.pos = 0 then doom h else h) :: l.map doom
    | [] => []
  let c0 := c.setQueue n { x with pkts := pkts, flushing := true }
  let c1 : Cistern := { c0 with
    building := c0.building.map (fun b => if b.queue = n then { b with doomed := true, forced := b.forced || forced } else b) }
  (c1.dropDoomed n).endFlush n

/-- The items of linked packets of queue `n` that wait to be discarded by a forced switch's flush. -/
def Cistern.forcedItems (c : Cistern) (n : Nat) : Nat :=
  ((c.queue n).pkts.filter (fun p => p.doomed && p.forced)).foldl (fun a p => a + p.n) 0

/-- Count items a forced switch's flush discards from queue `n` in `PLOT_DISCARD` of the queue's plot (R150, R258). -/
def State.countForced (s : State) (q n items : Nat) : State :=
  match s.queueLead q (queueOwner n) with
  | some b => s.updPlotRegs b (fun r => { r with discard := satAdd 32 r.discard items })
  | none => s

/-- The items of the packets linked in queue `n`. -/
def Cistern.linked (c : Cistern) (n : Nat) : Nat := (c.queue n).pkts.foldl (fun a p => a + p.n) 0

/-- Link a complete packet to its queue's tail (R253). -/
def State.linkPkt (s : State) (q n : Nat) (cells : List Nat) (items : Nat) : State :=
  let x := (s.cistern q).queue n
  let s1 := match (x.pkts.getLast?).bind (fun p => p.cells.getLast?), cells.head? with
    | some t, some h => { s with mem := s.mem.store (s.cellKey q t) (toLe 4 h) }
    | _, _ => s
  s1.updCist q (fun c => c.updQueue n (fun x => { x with pkts := x.pkts ++ [⟨cells, items, false, false⟩] }))

/-- Break a packet (Table 9-9): its cells are freed and its items discarded. -/
def Cistern.breakPkt (c : Cistern) (b : Bld) (last : Bool) : Cistern :=
  let c1 := c.give (queueOwner b.queue) b.cells
  { c1 with
    dropCnt := satAdd 32 c1.dropCnt (b.n + 1)
    building := (c1.building.erase b) ++ (if last then [] else [{ b with cells := [], n := 0, broken := true }]) }

/-- A writer's item joins its packet in building for queue `n` (R253, R261): the state, and the fault it raises. -/
def State.appendItem (s : State) (q n writer : Nat) (hdr : BitVec 32) (pay : BitVec 256) : State × Option Nat :=
  let c := s.cistern q
  let last := hdr.getLsbD 2
  let b := (c.building.find? (fun b => b.writer == writer && b.queue == n)).getD ⟨writer, n, [], 0, false, false, false⟩
  let rest := c.building.erase b
  if b.broken then
    (s.updCist q (fun c => (({ c with
      dropCnt := satAdd 32 c.dropCnt 1
      building := if last then rest else c.building } : Cistern).endFlush n)), none)
  else if 1024 ≤ b.n then (s.updCist q (fun c => (c.breakPkt b last).endFlush n), some 0x02)
  else
    let got := if b.n % 14 = 0 then (c.take (queueOwner n)).map (fun r => (b.cells ++ [r.1], r.2)) else some (b.cells, c)
    match got with
    | none => (s.updCist q (fun c => (c.breakPkt b last).endFlush n), some 0x01)
    | some (cells, c1) =>
      let k := s.cellKey q (cells.getLastD 0)
      let m0 := if b.n % 14 = 0 then
          (match b.cells.getLast? with
            | some prev => (s.mem.store (s.cellKey q prev) (toLe 4 (cells.getLastD 0))).store k (zeros 8)
            | none => s.mem.store k (zeros 8))
        else s.mem
      let m1 := m0.putItem k (b.n % 14) hdr pay
      let b1 : Bld := { b with cells := cells, n := b.n + 1 }
      if !last then ({ s with mem := m1, cist := SMap.set Cistern.reset s.cist q { c1 with building := rest ++ [b1] } }, none)
      else if b.doomed then
        let s1 := { s with mem := m1, cist := SMap.set Cistern.reset s.cist q { c1 with building := rest } }
        let s2 := s1.updCist q (fun c =>
          let c2 := (c.give (queueOwner n) cells).updQueue n (fun x => { x with disc := satAdd 64 x.disc b1.n })
          ({ c2 with flushCnt := satAdd 32 c2.flushCnt b1.n } : Cistern).endFlush n)
        (if b.forced then s2.countForced q n b1.n else s2, none)
      else
        let s1 := { s with mem := m1.store (k + 5) [1], cist := SMap.set Cistern.reset s.cist q { c1 with building := rest } }
        (s1.linkPkt q n cells b1.n, none)

/-- Write and link a whole packet, when its cells can be had (R253, R266): none where they cannot. -/
def State.linkWhole (s : State) (q n writer : Nat) (items : List (BitVec 32 × BitVec 256)) : Option State :=
  if (s.cistern q).room (queueOwner n) < (items.length + 13) / 14 ∨ items.isEmpty then none
  else some ((items.zipIdx).foldl (fun s x =>
    (s.appendItem q n writer (if x.2 + 1 = items.length then x.1.1 ||| 4 else x.1.1 &&& ~~~4#32) x.1.2).1) s)

/-- The item at the head of a queue and its cell's key (R255). -/
def State.headItem (s : State) (q n : Nat) : Option (Nat × BitVec 32 × BitVec 256) :=
  let x := (s.cistern q).queue n
  match x.pkts with
  | [] => none
  | p :: _ =>
    let k := s.cellKey q (p.cells.headD 0)
    let i := x.pos % 14
    some (k, BitVec.ofNat 32 (leNat (s.mem.readN (k + 8 + 4 * i) 4)), BitVec.ofNat 256 (leNat (s.mem.readN (k + 0x40 + 32 * i) 32)))

/-- Whether the head item of a queue holds an uncorrectable word (Table 9-9). -/
def State.headUe (s : State) (q n : Nat) : Option Nat :=
  let x := (s.cistern q).queue n
  match s.headItem q n with
  | none => none
  | some (k, _) =>
    match firstUe 16 s.mem.ueField (k + 8 + 4 * (x.pos % 14)) 4 with
    | some u => some u
    | none => firstUe 16 s.mem.ueField (k + 0x40 + 32 * (x.pos % 14)) 32

/-- Take the item at the head of a queue (R255): a cell returns with its last item, the packet goes with its last. -/
def Cistern.popItem (c : Cistern) (n : Nat) : Cistern :=
  let x := c.queue n
  match x.pkts with
  | [] => c
  | p :: l =>
    let i := x.pos + 1
    if i = p.n then ((c.setQueue n { x with pkts := l, pos := 0 }).give (queueOwner n) p.cells).dropDoomed n
    else if i % 14 = 0 then
      (c.setQueue n { x with pkts := { p with cells := p.cells.tail } :: l, pos := i }).give (queueOwner n) (p.cells.take 1)
    else c.setQueue n { x with pos := i }

/-- Take the item at the head of a queue; packets that a forced switch's flush held until now are counted as they go. -/
def State.takeItem (s : State) (q n : Nat) : State :=
  let s1 := s.updCist q (fun c => c.popItem n)
  let k := (s.cistern q).forcedItems n - (s1.cistern q).forcedItems n
  if k = 0 then s1 else s1.countForced q n k

/-- Read and remove a whole packet from the head of a queue: its items. -/
def State.popPacket (s : State) (q n : Nat) : Nat → State × List (BitVec 32 × BitVec 256)
  | 0 => (s, [])
  | f + 1 =>
    match s.headItem q n with
    | none => (s, [])
    | some (_, h, p) =>
      let s1 := s.takeItem q n
      if h.getLsbD 2 then (s1, [(h, p)])
      else
        let r := State.popPacket s1 q n f
        (r.1, (h, p) :: r.2)

/-- The items of the packet at the head of a queue, without taking it. -/
def State.peekPacket (s : State) (q n : Nat) : List (BitVec 32 × BitVec 256) := (s.popPacket q n 1025).2

/-! Plot queues. -/

/-- A block's place in its quadrant's row-major order (R251). -/
def blockPlace (b : Nat) : Nat := 4 * (b / 8 % 4) + b % 4

/-- The quadrant of a block. -/
def blockQuad (b : Nat) : Nat := 2 * (b / 32) + b % 8 / 4

/-- The first block place of a plot in a quadrant, whose queues are the plot's there (R251). -/
def Plot.queuePlace (p : Plot) (q : Nat) : Option Nat :=
  ((p.blocks.filter (fun b => blockQuad b == q)).map blockPlace).min?

/-- The number of plot queue `n` of a plot in a quadrant. -/
def Plot.queueNum (p : Plot) (q n : Nat) : Nat := 256 * (p.queuePlace q).getD 0 + n % 256

/-- The quadrants a plot has tiles in. -/
def Plot.quads (p : Plot) : List Nat := (List.range 4).filter (fun q => (p.queuePlace q).isSome)

/-- The plot queues of a plot, as quadrant and number. -/
def Plot.queues (p : Plot) : List (Nat × Nat) :=
  p.quads.flatMap (fun q => (List.range 256).map (fun n => (q, p.queueNum q n)))

/-- The stream records of a section (R185). -/
def Plot.sectStreams (p : Plot) (sect : Nat) : List Nat :=
  (List.range (p.sectField sect 0x18 4)).map (fun i => p.sectField sect 0x14 4 + i)

/-- Every stream record of a plat. -/
def Plot.allStreams (p : Plot) : List Nat := List.range (leAt p.plat 0x44 4 / 128)

/-- The gate of a window record, as 4 × tile + edge (Table 6-6). -/
def Plot.windowGate (p : Plot) (i : Nat) : Nat :=
  4 * p.tileOf (leAt p.plat (p.streamRec i + 4) 2) + leAt p.plat (p.streamRec i + 3) 1 % 4

/-- Flush the parked and intake queues of a plot at a forced switch (R150, R258): the parked queues and those its gate
windows read; the items discarded are counted in `PLOT_DISCARD`, those still in building or behind a partly read packet when they go. -/
def State.flushPlot (s : State) (b : Nat) (p : Plot) : State :=
  let win := p.allStreams.filterMap (fun i =>
    if leAt p.plat (p.streamRec i) 1 = 1 then
      let q := tileQuad (p.windowGate i / 4)
      some (q, p.queueNum q (leAt p.plat (p.streamRec i + 0x16) 2))
    else none)
  let parked := p.queues.filter (fun x => ((s.cistern x.1).queue x.2).park)
  (win ++ parked).foldl (fun s x =>
    let s1 := s.updCist x.1 (fun c => c.flush x.2 true)
    let k := (s.cistern x.1).linked x.2 - (s1.cistern x.1).linked x.2
    s1.updPlotRegs b (fun g => { g with discard := satAdd 32 g.discard k })) s

/-- A queue with no packet and none in building (R259). -/
def Cistern.isEmpty (c : Cistern) (n : Nat) : Bool := (c.queue n).pkts.isEmpty && !c.building.any (fun b => b.queue == n)

/-- Whether a plot's parked queues are empty (R259). -/
def State.parkedEmpty (s : State) (p : Plot) : Bool :=
  p.queues.all (fun x => !((s.cistern x.1).queue x.2).park || (s.cistern x.1).isEmpty x.2)

/-- Each parked queue found empty at a switch out of a `LAST` section loses `PARK` (R259). -/
def State.unpark (s : State) (p : Plot) : State :=
  p.queues.foldl (fun s x =>
    if ((s.cistern x.1).queue x.2).park && (s.cistern x.1).isEmpty x.2 then
      s.updCist x.1 (fun c => c.updQueue x.2 (fun k => { k with park := false })) else s) s

/-- The plot queues of a block place are emptied and reset: every cell they hold is free (R250, R251, Table 9-2). -/
def Cistern.clearQueues (c : Cistern) (o quota : Nat) : Cistern :=
  let mine := c.queues.filter (fun e => decide (e.1 / 256 = o))
  let bld := c.building.filter (fun y => decide (y.queue / 256 = o))
  { c with
    quota := SMap.set 0 c.quota o quota
    held := SMap.set 0 c.held o 0
    freed := mine.flatMap (fun e => e.2.pkts.flatMap (fun k => k.cells)) ++ bld.flatMap (fun y => y.cells) ++ c.freed
    building := c.building.filter (fun y => !decide (y.queue / 256 = o))
    queues := c.queues.filter (fun e => !decide (e.1 / 256 = o)) }

/-- The queues of a block place name a new owner. -/
def Cistern.ownQueues (c : Cistern) (o b quota : Nat) : Cistern :=
  (List.range 256).foldl (fun c n => c.updQueue (256 * o + n) (fun x => { x with owner := b })) (c.clearQueues o quota)

/-- Empty and reset every plot queue of a new plot, and set its quotas (R250, R251). -/
def State.initQueues (s : State) (b : Nat) (p : Plot) : State :=
  p.quads.foldl (fun s q =>
    let u := (s.quad q).carve.length
    let t := (p.tiles.filter (fun g => tileQuad g == q && s.usable g)).length
    s.updCist q (fun c => c.ownQueues ((p.queuePlace q).getD 0) b (if u = 0 then 0 else (c.pool - c.sysCells) * t / u))) s

/-! Edge gates. -/

/-- The writer number of a gate: 0 to 31 along the north or south edge of its quadrant, 32 to 63 along the east or west
(log entry 9). -/
def gateWriter (key : Nat) : Nat :=
  if key % 4 = 0 ∨ key % 4 = 2 then tileCol (key / 4) % 32 else 32 + tileRow (key / 4) % 32

/-- The plot that has enabled a gate (R119). -/
def State.gatePlot (s : State) (key : Nat) : Option (Nat × Plot) :=
  match (s.tile (key / 4)).lead with
  | none => none
  | some b =>
    match s.plot b with
    | some p => if p.gates.contains key then some (b, p) else none
    | none => none

/-- A token arrives at an edge gate with an operation of a class the command names (R118, R119, R261): the gate of a plot
acts on it, any other gate does not accept it. -/
def State.atGate (s : State) (key : Nat) (flip : BitVec 304) (mine : Nat → Bool)
    (act : State → Nat → Plot → Token → Nat → Nat → State) : State :=
  match takeFlight key true s.flights with
  | none => s
  | some (tok0, l) =>
    let tok := tok0.disturb flip
    if !mine (tok.qsel / 256 % 8) then s
    else
      let s1 := { s with flights := l }
      match s1.gatePlot key with
      | none => s1
      | some (b, p) =>
        if s1.loadingAt (key / 4) then s1.discardAt (key / 4) 1
        else
          let q := tileQuad (key / 4)
          act s1 b p tok q (p.queueNum q (tok.qsel % 256))

/-- GATE_APPEND (R253, R261): a token with OP APPEND, or with a reserved OP, which is the fault `BAD_OP`. -/
def execGateAppend (tile : Fin 4096) (port : Fin 4) (flip : BitVec 304) (s : State) : Host.Outcome State Fault Refusal :=
  .next (s.atGate (4 * tile.val + port.val) flip (fun op => op == 0 || decide (4 ≤ op)) (fun s b _ tok q n =>
    let w := gateWriter (4 * tile.val + port.val)
    if tok.qsel / 256 % 8 = 0 then
      match s.appendItem q n w tok.header tok.payload with
      | (s1, none) => s1
      | (s1, some c) => s1.cistFault q c n w (some b)
    else s.cistFault q 0x03 n w (some b)))

/-- GATE_SET_MODE (R261, Table 9-3). -/
def execGateSetMode (tile : Fin 4096) (port : Fin 4) (flip : BitVec 304) (s : State) : Host.Outcome State Fault Refusal :=
  .next (s.atGate (4 * tile.val + port.val) flip (fun op => op == 1) (fun s b _ tok q n =>
    let c := s.cistern q
    let x := c.queue n
    let md := tok.payload.toNat % 256
    let park := bitB md 1
    if park ≠ x.park ∧ (!x.pkts.isEmpty ∨ c.building.any (fun y => y.queue == n)) then
      s.cistFault q 0x04 n (gateWriter (4 * tile.val + port.val)) (some b)
    else s.updCist q (fun c => c.setQueue n { x with
      stall := bitB md 0
      park := park
      latOut := bitB md 2
      deliv := tok.payload.toNat / 256 % 32 })))

/-- GATE_FLUSH (R258, R261). -/
def execGateFlush (tile : Fin 4096) (port : Fin 4) (flip : BitVec 304) (s : State) : Host.Outcome State Fault Refusal :=
  .next (s.atGate (4 * tile.val + port.val) flip (fun op => op == 2) (fun s _ _ _ q n =>
    s.updCist q (fun c => c.flush n)))

/-- Lateral engine `e`. -/
def State.lateral (s : State) (e : Nat) : Lateral := SMap.get Lateral.reset s.les e

/-- Change lateral engine `e`. -/
def State.updLe (s : State) (e : Nat) (f : Lateral → Lateral) : State :=
  { s with les := SMap.set Lateral.reset s.les e (f (s.lateral e)) }

def Lateral.table (x : Lateral) (t : Nat) : RTable := SMap.get RTable.reset x.tables t

def Lateral.updTable (x : Lateral) (t : Nat) (f : RTable → RTable) : Lateral :=
  { x with tables := SMap.set RTable.reset x.tables t (f (x.table t)) }

/-- The route table bound to a plot: its engine is that of the quadrant of the lead block (R265). -/
def State.routeOf (s : State) (b : Nat) : Option (Nat × Nat) :=
  let e := blockQuad b
  ((List.range 16).find? (fun t => ((s.lateral e).table t).valid && ((s.lateral e).table t).lead == b)).map (fun t => (e, t))

/-- GATE_SET_CAP (R269): on a `LAT_OUT` queue, capacities go into the route table of the plot. -/
def execGateSetCap (tile : Fin 4096) (port : Fin 4) (flip : BitVec 304) (s : State) : Host.Outcome State Fault Refusal :=
  .next (s.atGate (4 * tile.val + port.val) flip (fun op => op == 3) (fun s b _ tok q n =>
    if ((s.cistern q).queue n).latOut then
      match s.routeOf b with
      | none => s
      | some (e, t) =>
        let x := tok.payload.toNat
        let f := fieldN x 0 16
        s.updLe e (fun l => l.updTable t (fun r => { r with
          cap := (List.range 15).foldl (fun m j => if f + j < 64 then SMap.set 0xFFFF m (f + j) (fieldN x (16 + 16 * j) 16) else m) r.cap }))
    else s))

/-- Put a token of a gate on the link into its edge tile. -/
def State.gateSend (s : State) (key : Nat) (hdr : BitVec 32) (pay : BitVec 256) : State :=
  { s with flights := s.flights ++ [⟨key, false, mkToken hdr pay⟩] }

/-- The window record of a gate for a turn of the period, in the plot's section (R185, R261). -/
def Plot.window (p : Plot) (key turn : Nat) : Option Nat :=
  (p.sectStreams p.sect).find? (fun i =>
    let o := p.streamRec i
    leAt p.plat o 1 == 1 && p.windowGate i == key && leAt p.plat (o + 0x15) 1 == turn)

/-- A reader that finds no packet in a queue of quadrant `q` that does not stall gets the idle item, which is counted (R256). -/
def State.idleItem (s : State) (q : Nat) : State := s.updCist q (fun c => { c with idleCnt := satAdd 48 c.idleCnt 1 })

/-- GATE_INJECT (R118, R256, R257, R259): in its window turn a gate injects the head item of its queue, the idle item, or
nothing. -/
def execGateInject (tile : Fin 4096) (port : Fin 4) (turn : Fin 256) (s : State) : Host.Outcome State Fault Refusal :=
  let key := 4 * tile.val + port.val
  .next (match s.gatePlot key with
    | none => s
    | some (b, p) =>
      if p.state = .running ∨ p.state = .yielding then
        (match p.window key turn.val with
          | none => s
          | some i =>
            let q := tileQuad tile.val
            let n := p.queueNum q (leAt p.plat (p.streamRec i + 0x16) 2)
            let x := (s.cistern q).queue n
            let acc := (s.tile tile.val).regs.epochAccept
            (match s.headItem q n with
              | none =>
                if x.stall ∨ x.park then s
                else (s.idleItem q).gateSend key
                  (mkHeader 0 511 p.epoch (x.deliv % 16)) 0
              | some (_, h, pay) =>
                let ep := fieldN h.toNat 12 4
                if x.park ∧ !bitB acc ep then s
                else match s.headUe q n with
                | some u =>
                  ((s.countTier 7 (s.boardAddr u)).cistFault q 0x05 n (gateWriter key) (some b))
                | none =>
                  let fl := (if bitB x.deliv 4 then 1 else 0) + fieldN h.toNat 1 2 * 2
                  let hd := mkHeader fl (fieldN h.toNat 3 9) (if x.park then ep else p.epoch)
                    (x.deliv % 16 + (if x.park then 2 ^ 15 else 0))
                  (s.takeItem q n).gateSend key hd pay))
      else s)

end Sys2Proof.Machine
end

