-- ==== Sys2Proof/Machine/Lateral.lean ====
section
/-! DEFINITION. The lateral engines (R262 to R276): route packets, ranking, gate weights, capacity, dispatch, bypass and
return, the commit of a route table, and their faults (Table 9-9). -/

namespace Sys2Proof.Machine

/-! Ranking and weights. -/

/-- Whether score `a` of a lower index ranks at or before score `b` (R263). -/
def scoreBefore (a b : Nat) : Bool :=
  if fmtBF16.isNaN a then fmtBF16.isNaN b
  else fmtBF16.isNaN b || decide (fmtBF16.key0 b ≤ fmtBF16.key0 a)

/-- Put an expert into a ranking: after every expert that ranks at or before it. -/
def rankInsert (score : Nat → Nat) (x : Nat) : List Nat → List Nat
  | [] => [x]
  | y :: l => if scoreBefore (score y) (score x) then y :: rankInsert score x l else x :: y :: l

/-- Experts 0 to `n` − 1 by score, highest first (R263). -/
def rankExperts (n : Nat) (score : Nat → Nat) : List Nat := (List.range n).foldl (fun l x => rankInsert score x l) []

/-- The quotient of two values rounded once to FP32 (R264). -/
def fp32Div (a b : FVal) : Nat :=
  match a, b with
  | .nan, _ => fmtFP32.nan
  | _, .nan => fmtFP32.nan
  | .inf _, .inf _ => fmtFP32.nan
  | .inf n, .fin k _ _ => fmtFP32.encode (.inf (n != k))
  | .fin n _ _, .inf k => fmtFP32.encode (.fin (n != k) 0 0)
  | .fin n m e, .fin k d f =>
    if d = 0 then (if m = 0 then fmtFP32.nan else fmtFP32.encode (.inf (n != k)))
    else
      let x := m * 2 ^ 64
      fmtFP32.encode (.fin (n != k) (2 * (x / d) + (if x % d = 0 then 0 else 1)) (e - f - 65))

/-- The gate weight of a copy of rank `r` of the choices `l` (R264). -/
def gateWeight (norm : Bool) (score : Nat → Nat) (l : List Nat) (r : Nat) : Nat :=
  if !norm then score (l.getD r 0) * 2 ^ 16
  else if l.length ≤ 1 then 0x3F800000
  else
    let s0 := fmtBF16.decode (score (l.getD 0 0))
    let s1 := fmtBF16.decode (score (l.getD 1 0))
    let sum := fmtFP32.encode (s0.add s1)
    fp32Div (fmtBF16.decode (score (l.getD r 0))) (fmtFP32.decode sum)

/-! Capacity. -/

/-- Where a copy goes: an expert, moved or not, or nowhere. -/
structure CopyTo where
  rank : Nat
  expert : Option Nat
  moved : Bool
  deriving DecidableEq, Repr

def RTable.capOf (t : RTable) (x : Nat) : Nat := SMap.get 0xFFFF t.cap x
def RTable.usedOf (t : RTable) (x : Nat) : Nat := SMap.get 0 t.used x

/-- The entry of expert `x` in the active bank (R265). -/
def RTable.entry (t : RTable) (x : Nat) : Nat := (SMap.get 0 t.bank (64 * t.active + x)).toNat

/-- Offer a copy to expert `x`: accepted below the capacity, 0xFFFF setting no limit (R269, R270). -/
def RTable.offer (t : RTable) (x : Nat) : Option RTable :=
  if t.capOf x = 0xFFFF ∨ t.usedOf x < t.capOf x then some { t with used := SMap.set 0 t.used x (t.usedOf x + 1) } else none

/-- Step 1 of R270: each choice is offered to its expert, in rank order. -/
def offerChoices : RTable → List (Nat × Nat) → RTable × List CopyTo
  | t, [] => (t, [])
  | t, (r, x) :: l =>
    match t.offer x with
    | some t1 => let o := offerChoices t1 l; (o.1, ⟨r, some x, false⟩ :: o.2)
    | none => let o := offerChoices t l; (o.1, ⟨r, none, false⟩ :: o.2)

/-- Step 3 of R270: each refused copy is offered once more, to the highest-ranked expert not yet offered. The experts
offered are returned. -/
def offerSecond : RTable → List Nat → List CopyTo → RTable × List CopyTo × List Nat
  | t, _, [] => (t, [], [])
  | t, rest, c :: l =>
    match c.expert, rest with
    | none, x :: rest' =>
      (match t.offer x with
        | some t1 => let o := offerSecond t1 rest' l; (o.1, ⟨c.rank, some x, true⟩ :: o.2.1, x :: o.2.2)
        | none => let o := offerSecond t rest' l; (o.1, c :: o.2.1, x :: o.2.2))
    | _, _ => let o := offerSecond t rest l; (o.1, c :: o.2.1, o.2.2)

/-! Faults. -/

/-- Record a lateral fault in `LE_ERR` and post it (R275, Table 9-11). -/
def State.leErr (s : State) (e cause table queue rtag parcel : Nat) : State :=
  let i := table % 16 + queue % 2 ^ 13 * 2 ^ 4 + rtag % 2 ^ 32 * 2 ^ 32
  ((s.updLe e (fun l => { l with
    errInfo := if l.err.valid then l.errInfo else i
    err := l.err.raise cause 0 })).signal (152 + e)).post false 0x06 cause 0 parcel e (BitVec.ofNat 64 i)

/-- The parcel of the plot led by a block, 0xFFFF for none. -/
def State.leadParcel (s : State) (b : Nat) : Nat := ((s.plot b).map (fun p => p.parcel)).getD 0xFFFF

/-- A lateral fault that ends tasks with `TASK_ABORTED` (Table 9-9). -/
def State.leFault (s : State) (e cause table queue rtag : Nat) (leads : List Nat) : State :=
  leads.foldl (fun s b => s.force b 0x0C 0x0403 0) (s.leErr e cause table queue rtag (s.leadParcel (leads.headD 64)))

/-! Packets in and out. -/

/-- The next in turn of a plot's `LAT_OUT` queues that meet a test: quadrant and queue (R265). -/
def State.latPick (s : State) (ok : CQueue → Bool) (t : RTable) : Option (Nat × Nat) :=
  match s.plot t.lead with
  | none => none
  | some p =>
    let keys := (p.queues.filter (fun x =>
      let k := (s.cistern x.1).queue x.2
      k.latOut && ok k)).map (fun x => 8192 * x.1 + x.2)
    let k := match (keys.filter (fun k => decide (t.rr ≤ k))).min? with
      | some k => some k
      | none => keys.min?
    k.map (fun k => (k / 8192, k % 8192))

/-- The queue lateral engine `e` comes to next among those that meet a test: its table, quadrant and queue; the tables in turn. -/
def State.latNext (s : State) (e : Nat) (ok : CQueue → Bool) : Option (Nat × Nat × Nat) :=
  let l := s.lateral e
  if l.enable then
    ((List.range 16).map (fun i => (l.nextTable + i) % 16)).findSome? (fun t =>
      if (l.table t).valid then (s.latPick ok (l.table t)).map (fun x => (t, x.1, x.2)) else none)
  else none

/-- The turn of lateral engine `e` passes on from a queue of a table. -/
def State.latTurn (s : State) (e t q n : Nat) : State :=
  s.updLe e (fun l => (({ l with nextTable := (t + 1) % 16 } : Lateral).updTable t (fun r => { r with rr := 8192 * q + n + 1 })))

/-- Lateral engine `e` reads its queues and finds no packet: the idle item of the next in turn that does not stall, or nothing. -/
def State.latIdle (s : State) (e : Nat) : State :=
  match s.latNext e (fun k => !k.stall) with
  | none => s
  | some (t, q, n) => (s.latTurn e t q n).idleItem q

/-- The first uncorrectable word of the packet at the head of a queue, by Field key (Table 9-9). -/
def State.packetUe (s : State) (q n : Nat) : Option Nat :=
  let x := (s.cistern q).queue n
  match x.pkts with
  | [] => none
  | p :: _ => ((List.range p.n).drop x.pos).findSome? (fun i =>
      let k := s.cellKey q (p.cells.getD (i / 14 - x.pos / 14) 0)
      match firstUe 16 s.mem.ueField (k + 8 + 4 * (i % 14)) 4 with
      | some u => some u
      | none => firstUe 16 s.mem.ueField (k + 0x40 + 32 * (i % 14)) 32)

/-- Take the packet lateral engine `e` comes to, when its kind is `mine`: the turn passes on, and `act` gets the state, the
table, the quadrant, the queue and the payloads. -/
def State.latTake (s : State) (e : Nat) (mine : Nat → Bool)
    (act : State → Nat → Nat → Nat → List Bytes → State) : State :=
  match s.latNext e (fun k => !k.pkts.isEmpty) with
  | none => s.latIdle e
  | some (t, q, n) =>
    let items := (s.peekPacket q n).map (fun x => toLe 32 x.2.toNat)
    if !mine ((items.headD []).headD 0).toNat then s
    else
      let s1 := s.latTurn e t q n
      match s.packetUe q n with
      | some u =>
        (s1.countTier 7 (s1.boardAddr u)).cistFault q 0x05 n (0x40 + e) (some ((s.lateral e).table t).lead)
      | none => act (s1.popPacket q n 1025).1 t q n items

/-- The headers a lateral engine builds for the items of a packet: `EPOCH` is 0, the bits the spec does not give are free
values (R254, log entry 10). -/
def State.latItems (s : State) (items : List Bytes) : List (BitVec 32 × BitVec 256) :=
  items.zipIdx.map (fun x => (Config.freeWord32 (s.free + x.2) &&& ~~~0xF000#32, BitVec.ofNat 256 (leNat x.1)))

/-- Lateral engine `e` writes a packet to a queue of this module and links it (R266, R268): none where cells lack. -/
def State.latLink (s : State) (e q n : Nat) (items : List Bytes) : Option State :=
  match s.linkWhole q n (0x40 + e) (s.latItems items) with
  | none => none
  | some s1 => some ((s1.tick items.length).updLe e (fun l => { l with bytesOut := satAdd 48 l.bytesOut (32 * items.length) }))

/-- A global queue address (R251). -/
def queueAddr (mod q n : Nat) : Nat := n % 2 ^ 13 + q % 4 * 2 ^ 13 + mod % 4 * 2 ^ 15

/-- Send a packet to another module of the tray (R401): in the slots its plat reserves, beyond them in dynamic ones. -/
def State.latRemote (s : State) (e mod q n lead : Nat) (items : List Bytes) : State :=
  match s.traySerial mod with
  | none => s
  | some d =>
    (s.fabSendRes lead 2 0 (newMsg d 5 (s.leadParcel lead) (queueAddr mod q n) 0 0 0 0 (items.flatMap id))).updLe e (fun l =>
      { l with bytesOut := satAdd 48 l.bytesOut (32 * items.length) })

/-- A dispatch or return record (Table 9-7) as an item. -/
def latRecord (kind flags expert lg rtag gate table : Nat) : Bytes :=
  toLe 1 kind ++ toLe 1 flags ++ toLe 1 expert ++ toLe 1 lg ++ toLe 4 rtag ++ toLe 4 gate ++ toLe 1 table ++ zeros 19

/-- A return tag (Table 9-8). -/
def returnTag (gen slot rank half squad smod : Nat) : Nat :=
  gen % 2 ^ 12 + slot % 2 ^ 14 * 2 ^ 12 + rank % 2 * 2 ^ 26 + half % 2 * 2 ^ 27 + squad % 4 * 2 ^ 28 + smod % 4 * 2 ^ 30

/-- The leads of the source plot and of the plot that owns a queue. -/
def State.bothLeads (s : State) (lead q n : Nat) : List Nat :=
  lead :: (match s.queueLead q (queueOwner n) with
    | some b => [b]
    | none => [])

/-- Link a packet to the return queue of a table, by half (R268). -/
def State.latReturn (s : State) (e t half rtag srcQueue lead : Nat) (items : List Bytes) : State :=
  let r := (s.lateral e).table t
  let rq := if half = 0 then r.retq0 else r.retq1
  match s.latLink e (rq / 2 ^ 13 % 4) (rq % 2 ^ 13) items with
  | some s1 => s1
  | none => s.leFault e 0x12 t srcQueue rtag (s.bothLeads lead (rq / 2 ^ 13 % 4) (rq % 2 ^ 13))

/-- One copy of a token after R270: dispatched to its expert, or bypassed (R266, R268, R271). -/
def State.latCopy (s : State) (e t queue lead : Nat) (hd : Bytes) (payload : List Bytes) (weight : Nat → Nat) (orig : Nat → Nat)
    (c : CopyTo) : State :=
  let r := (s.lateral e).table t
  let half := leAt hd 1 1 / 8 % 2
  let lg := leAt hd 3 1
  let tag := returnTag r.gen (leAt hd 4 2) c.rank half e s.slot
  match c.expert with
  | none =>
    let s1 := s.updLe e (fun l => l.updTable t (fun r => { r with
      bypassCnt := satAdd 32 r.bypassCnt 1
      bypass := SMap.upd 0 r.bypass lg (fun n => n + 1) }))
    s1.latReturn e t half tag queue lead [latRecord 3 2 (orig c.rank) lg tag (weight c.rank) t]
  | some x =>
    let s1 := if c.moved then s.updLe e (fun l => l.updTable t (fun r => { r with
        movedCnt := satAdd 32 r.movedCnt 1
        moved := SMap.upd 0 r.moved lg (fun n => n + 1) })) else s
    let en := r.entry x
    let cold := decide (en % 4 = 2)
    let q := en / 16 % 4
    let n := en / 64 % 2 ^ 13
    let items := latRecord 2 ((if c.moved then 1 else 0) + (if cold then 4 else 0)) x lg tag (weight c.rank) t :: payload
    if cold ∨ en / 4 % 4 = s.slot % 4 then
      (match s1.latLink e q n items with
        | some s2 => s2
        | none => s1.leFault e 0x12 t queue tag (s1.bothLeads lead q n))
    else s1.latRemote e (en / 4 % 4) q n lead items

/-- The checks of a route record (R275, Table 9-9): its kind, its experts, its flags and the items of its packet. -/
def routeOk (items : List Bytes) : Bool :=
  let hd := items.headD []
  let nexp := leAt hd 2 1
  decide (leAt hd 0 1 = 1 ∧ 2 ≤ nexp ∧ nexp ≤ 64 ∧ leAt hd 1 1 / 16 = 0 ∧ 1 + ceilDiv nexp 16 ≤ items.length)

/-- The score of an expert in a route packet (Table 9-7). -/
def routeScore (items : List Bytes) (x : Nat) : Nat := leAt ((items.drop 1).flatMap id) (2 * x) 2

/-- The experts of a route packet by rank, and its choices (R263). -/
def routeRanked (items : List Bytes) : List Nat := rankExperts (leAt (items.headD []) 2 1) (routeScore items)
def routeChoices (items : List Bytes) : List Nat := (routeRanked items).take (1 + leAt (items.headD []) 1 1 % 2)

/-- The offers of a route packet (R269, R270): the table after them, where each copy goes, and the experts offered; the counts of uses start
anew with a step and a half. -/
def RTable.offers (r : RTable) (items : List Bytes) : RTable × List CopyTo × List Nat :=
  let flags := leAt (items.headD []) 1 1
  let half := flags / 8 % 2
  let r0 := if r.gen ≠ r.usedGen ∨ half ≠ r.half then { r with used := [], usedGen := r.gen, half := half } else r
  let first := offerChoices r0 ((routeChoices items).zipIdx.map (fun x => (x.2, x.1)))
  if flags / 4 % 2 = 1 then
    let second := offerSecond first.1 ((routeRanked items).drop (1 + flags % 2)) first.2
    (second.1, second.2.1, routeChoices items ++ second.2.2)
  else (first.1, first.2, routeChoices items)

/-- The copies of a route packet go to their experts (R266 to R271). -/
def State.latCopies (s : State) (e t queue lead : Nat) (items : List Bytes) (l : List CopyTo) : State :=
  let hd := items.headD []
  l.foldl (fun s c => s.latCopy e t queue lead hd (items.drop (1 + ceilDiv (leAt hd 2 1) 16))
    (gateWeight (bitB (leAt hd 1 1) 1) (routeScore items) (routeChoices items)) (fun k => (routeChoices items).getD k 0) c) s

/-- A route packet: the record's checks, the ranking, the offers and the copies (R262 to R271). -/
def State.latRoute (s : State) (e t queue : Nat) (items : List Bytes) : State :=
  let r := (s.lateral e).table t
  if !routeOk items then s.leFault e 0x10 t queue 0 [r.lead]
  else
    let o := r.offers items
    if o.2.2.any (fun x => decide (r.entry x % 4 = 0)) then s.leFault e 0x11 t queue 0 [r.lead]
    else (s.updLe e (fun l => l.updTable t (fun _ => o.1))).latCopies e t queue r.lead items o.2.1

/-- ROUTE_PACKET (R262 to R271): the engine takes a route packet; a packet of no known kind is `ROUTE_BAD`. -/
def execRoutePacket (le : Fin 4) (s : State) : Host.Outcome State Fault Refusal :=
  .next (s.latTake le.val (fun k => k != 3 && k != 4) (fun s t _ n items => s.latRoute le.val t n items))

/-- A return record reaches the lateral engine of its source plot (R268): linked to its return queue, or dropped; a return of an
aborted step is stale (R276). -/
def State.latArrive (s : State) (e queue lead : Nat) (items : List Bytes) : State :=
  let hd := items.headD []
  let tag := leAt hd 4 4
  let t := leAt hd 0xC 1 % 16
  let r := (s.lateral e).table t
  let drop := fun (s : State) => s.updLe e (fun l => l.updTable t (fun r => { r with staleCnt := satAdd 32 r.staleCnt 1 }))
  if !r.valid ∨ (s.plot r.lead).isNone then drop (s.leErr e 0x13 t queue tag (s.leadParcel lead))
  else if tag % 2 ^ 12 ≠ r.gen ∨ r.aborted then drop s
  else s.latReturn e t (tag / 2 ^ 27 % 2) tag queue lead items

/-- RETURN_PACKET (R268): a return packet goes to the lateral engine of its source plot. -/
def execReturnPacket (le : Fin 4) (s : State) : Host.Outcome State Fault Refusal :=
  .next (s.latTake le.val (fun k => k == 3) (fun s t _ n items =>
    let tag := leAt (items.headD []) 4 4
    let lead := ((s.lateral le.val).table t).lead
    if tag / 2 ^ 30 % 4 = s.slot % 4 then s.latArrive (tag / 2 ^ 28 % 4) n lead items
    else s.latRemote le.val (tag / 2 ^ 30 % 4) (tag / 2 ^ 28 % 4) 0 lead items))

/-- RT_COMMIT (R265): the banks swap at the next step start of the owning plot. -/
def execRtCommit (le : Fin 4) (table : Fin 16) (s : State) : Host.Outcome State Fault Refusal :=
  .next (s.updLe le.val (fun l => l.updTable table.val (fun r => { r with commit := true })))

/-- The swap of the banks and the new step generation at a step start (R265, R267, R271). -/
def State.latStepStart (s : State) (b step : Nat) : State :=
  match s.routeOf b with
  | none => s
  | some (e, t) => s.updLe e (fun l => l.updTable t (fun r => { r with
      active := if r.commit then 1 - r.active else r.active
      commit := false
      gen := step % 4096
      aborted := false
      moved := []
      bypass := [] }))

/-- Whether the generation of a plot's step may be used: 4 ms have passed since its last use (R267). -/
def State.genReady (s : State) (b step : Nat) : Bool :=
  match s.routeOf b with
  | none => true
  | some (e, t) => decide (SMap.get 0 ((s.lateral e).table t).genFree (step % 4096) ≤ s.now)

/-- The step of a plot ends: its generation is used for the last time now (R267), and if it ended aborted its returns are stale (R276). -/
def State.latStepEnd (s : State) (b : Nat) (aborted : Bool) : State :=
  match s.routeOf b with
  | none => s
  | some (e, t) => s.updLe e (fun l => l.updTable t (fun r => { r with
      aborted := aborted, genFree := SMap.set 0 r.genFree r.gen (s.now + 4000000) }))

/-- The capacities of every route table that names a plot return to 0xFFFF at its placement (R269). -/
def State.clearCaps (s : State) (b : Nat) : State :=
  (List.range 4).foldl (fun s e => (List.range 16).foldl (fun s t =>
    if ((s.lateral e).table t).lead = b then s.updLe e (fun l => l.updTable t (fun r => { r with cap := [], used := [] })) else s) s) s

/-- The leads whose tasks an aborted task of the plot led by `b` takes with it (R276): the plots that its table's resident
entries name, and those whose table names a queue of the plot. -/
def State.lateralAborts (s : State) (b : Nat) : List Nat :=
  let ownerOf := fun (en : Nat) =>
    if (en % 4 = 1 ∧ en / 4 % 4 = s.slot % 4) ∨ en % 4 = 2 then s.queueLead (en / 16 % 4) (queueOwner (en / 64 % 2 ^ 13)) else none
  let named := fun (r : RTable) (st : Nat) => (List.range 64).filterMap (fun x => if r.entry x % 4 = st then ownerOf (r.entry x) else none)
  let mine := match s.routeOf b with
    | some (e, t) => named ((s.lateral e).table t) 1
    | none => []
  let theirs := (List.range 4).flatMap (fun e => ((s.lateral e).tables.filter (fun x => x.2.valid &&
    (named x.2 1 ++ named x.2 2).contains b)).map (fun x => x.2.lead))
  ((mine ++ theirs).filter (fun x => x != b)).eraseDups

end Sys2Proof.Machine
end

