-- ==== Sys2Proof/Machine/Gather.lean ====
section
/-! DEFINITION. Embedding tables and gathers (R304 to R322): gather packets, sub-packets, row reads, partials and the
pooled vectors. -/

namespace Sys2Proof.Machine

/-! Tables. -/

/-- Entry `t` of the table directory (Table 11-1). -/
def State.tableEnt (s : State) (t : Nat) : TableEnt := SMap.get TableEnt.reset s.tables t

/-- Change entry `t` of the table directory. -/
def State.updTableEnt (s : State) (t : Nat) (f : TableEnt → TableEnt) : State :=
  { s with tables := SMap.set TableEnt.reset s.tables t (f (s.tableEnt t)) }

/-- Gather engine `g`. -/
def State.gatherEng (s : State) (g : Nat) : GatherEng := SMap.get GatherEng.reset s.ges g

/-- Change gather engine `g`. -/
def State.updGe (s : State) (g : Nat) (f : GatherEng → GatherEng) : State :=
  { s with ges := SMap.set GatherEng.reset s.ges g (f (s.gatherEng g)) }

/-- Bytes of an element of a table. -/
def TableEnt.elemBytes (t : TableEnt) : Nat := codeBits t.fmt / 8

/-- Elements of a row. -/
def TableEnt.elems (t : TableEnt) : Nat := t.rowBytes / max 1 t.elemBytes

/-- The first global row that the module in tray slot `m` owns (R308). -/
def TableEnt.bound (t : TableEnt) (m : Nat) : Nat :=
  match m with
  | 0 => 0
  | 1 => t.bound1
  | 2 => t.bound2
  | 3 => t.bound3
  | _ => t.rowsTotal

/-- The tray slot that owns a global row (R308). -/
def TableEnt.ownerOf (t : TableEnt) (x : Nat) : Nat :=
  ((List.range 4).find? (fun m => decide (t.bound m ≤ x ∧ x < t.bound (m + 1)))).getD 0

/-- The board address of the block that holds a local row (R307). -/
def TableEnt.blockAddr (t : TableEnt) (r : Nat) : Nat := t.base + 2048 * (r / max 1 t.rpb)

/-- The board address of a local row (R307). -/
def TableEnt.rowAddr (t : TableEnt) (r : Nat) : Nat := t.blockAddr r + 64 + t.rowBytes * (r % max 1 t.rpb)

/-- The gather engine that reads a local row (R304, R170, R309). -/
def TableEnt.engineOf (t : TableEnt) (r : Nat) : Nat :=
  if t.aq then 24 * (t.base % 2 ^ 48 / 2 ^ 42 % 4) + r / max 1 t.rpb % 24
  else
    let off := t.blockAddr r % 2 ^ 48
    let q := off / regionBytes
    let o := off % regionBytes
    4 * stackOf q o + (channelOf o).2.1 / 8

/-! Pooling arithmetic (R315, R316). -/

def clsCode : AccClass → Nat
  | .finite => 0
  | .posInf => 1
  | .negInf => 2
  | .nan => 3

def codeCls (n : Nat) : AccClass := if n = 0 then .finite else if n = 1 then .posInf else if n = 2 then .negInf else .nan

def elemAcc (g : GElem) : Acc := ⟨g.sum, codeCls g.cls⟩
def accElem (a : Acc) : GElem := ⟨clsCode a.cls, a.sum, false, 0, 0⟩

/-- The raw 128-bit value a partial carries for an accumulator (R84, R313). -/
def elemRaw (g : GElem) : GElem := { g with sum := if g.cls = 0 then (elemAcc g).vis else 0 }

/-- An exact value as a candidate for max. -/
def maxElem : FVal → GElem
  | .nan => ⟨3, 0, false, 0, 0⟩
  | .inf n => ⟨if n then 2 else 1, 0, false, 0, 0⟩
  | .fin n m e => ⟨0, 0, n, m, e⟩

/-- Whether max candidate `a` lies below `b`, −0 below +0 (R316). -/
def elemBelow (a b : GElem) : Bool :=
  if a.cls = 2 then b.cls != 2
  else if b.cls = 1 then a.cls != 1
  else if a.cls = 1 ∨ b.cls = 2 then false
  else
    let e0 := min a.exp b.exp
    let x := signedAt a.neg a.mag a.exp e0
    let y := signedAt b.neg b.mag b.exp e0
    decide (x < y) || (decide (x = y) && a.neg && !b.neg)

/-- The larger of two max candidates; NaN when either is (Table 11-4). -/
def elemJoin (a b : GElem) : GElem := if a.cls = 3 then a else if b.cls = 3 then b else if elemBelow a b then b else a

/-- Add a contribution to one element of a sum. -/
def elemAddC (g : GElem) (c : Contrib) : GElem × Bool × Bool :=
  let r := (elemAcc g).take c
  (accElem r.1, r.2.1, r.2.2)

/-- Zip a bag's elements with new ones; a bag with none yet takes them against `d`. -/
def zipBag (d : GElem) (l : List GElem) (n : Nat) (f : GElem → Nat → GElem) : List GElem :=
  (List.range n).map (fun i => f (l.getD i d) i)

def elemZero : GElem := ⟨0, 0, false, 0, 0⟩

/-- The elements of a row under its scale and, for a weighted sum, its weight (R315). -/
def rowValues (t : TableEnt) (pool : Nat) (row : Bytes) (scale : Option Nat) (weight : Nat) : List FVal :=
  let w := codeBits t.fmt
  (List.range t.elems).map (fun i =>
    let v := elemVal t.fmt (leAt row (i * (w / 8)) (w / 8))
    let v1 := match scale with
      | some x => v.mul (fmtFP32.decode x)
      | none => v
    if pool = 3 then v1.mul (fmtFP32.decode weight) else v1)

/-- Pool a row into a bag (R313, R315). -/
def Bag.addRow (b : Bag) (pool : Nat) (win : Int) (vals : List FVal) : Bag :=
  if pool = 2 then
    { b with elems := if b.elems.isEmpty then vals.map maxElem
        else zipBag elemZero b.elems vals.length (fun g i => elemJoin g (maxElem (vals.getD i .nan))) }
  else
    let cs := vals.map (contrib win)
    let rs := (List.range vals.length).map (fun i => elemAddC (b.elems.getD i elemZero) (cs.getD i ⟨0, false, false, .nan⟩))
    { b with
      elems := rs.map (fun r => r.1)
      underF := b.underF || rs.any (fun r => r.2.1)
      overF := b.overF || rs.any (fun r => r.2.2) }

/-- A bag as its partial: the raw values, examined as a read does (R82, R84, R313). -/
def Bag.close (b : Bag) (pool : Nat) : Bag :=
  if pool = 2 then b
  else { b with
    elems := b.elems.map elemRaw
    overF := b.overF || b.elems.any (fun g => decide (g.cls = 0 ∧ accVis < g.sum.natAbs)) }

/-- Combine a partial into a bag (R314). -/
def Bag.combine (b : Bag) (pool : Nat) (fail : Bool) (elems : List GElem) (underF overF : Bool) : Bag :=
  let b1 : Bag := { b with fail := b.fail || fail, underF := b.underF || underF, overF := b.overF || overF }
  if elems.isEmpty then b1
  else if b.elems.isEmpty then { b1 with elems := elems }
  else if pool = 2 then { b1 with elems := zipBag elemZero b.elems elems.length (fun g i => elemJoin g (elems.getD i elemZero)) }
  else
    let rs := (List.range elems.length).map (fun i =>
      let x := elems.getD i elemZero
      elemAddC (b.elems.getD i elemZero) ⟨if x.cls = 0 then x.sum else 0, false, false, codeCls x.cls⟩)
    { b1 with elems := rs.map (fun r => r.1), overF := b1.overF || rs.any (fun r => r.2.2) }

/-! Results. -/

/-- The output format of a gather. -/
def outFmtOf (code : Nat) : Fmt := codeFmt code

/-- Convert an exact finite value, saturating (Table 3-7). -/
def outFin (f : Fmt) (neg : Bool) (m : Nat) (e : Int) : Nat := readFin f false 0 neg m e

/-- The pooled result of one element in the output format (Table 11-4). -/
def poolOut (pool len : Nat) (win : Int) (code : Nat) (g : GElem) : Nat :=
  let f := outFmtOf code
  match g.cls with
  | 1 => f.sign false (f.maxCode + 1)
  | 2 => f.sign true (f.maxCode + 1)
  | 3 => f.nan
  | _ =>
    if pool = 2 then (if g.mag = 0 then f.sign g.neg 0 else outFin f g.neg g.mag g.exp)
    else
      let n := (elemAcc g).vis
      if pool = 1 then
        let x := n.natAbs * 2 ^ 80
        outFin f (decide (n < 0)) (2 * (x / max 1 len) + (if x % max 1 len = 0 then 0 else 1)) (win - 100 - 81)
      else outFin f (decide (n < 0)) n.natAbs (win - 100)

/-- The padded columns of an output row: the stride is a multiple of 32 bytes (R314). -/
def outCols (e bytes : Nat) : Nat := ceilDiv (e * bytes) 32 * 32 / bytes

/-- The header, vectors, status bytes and zeros of a finished gather (R314, Table 11-3). -/
def gatherBytes (t : TableEnt) (g : OpenGather) : Bytes :=
  let ob := codeBits g.outFmt / 8
  let nb := g.lens.length
  let e := t.elems
  let pc := outCols e ob
  let h0 : BlockHdr := ⟨0x4254, g.outFmt, 2, nb, e, nb, pc, 0, 0, 0, 0, 0, 0, 0⟩
  let h : BlockHdr := { h0 with packed := h0.packedLen, padded := nb * pc * ob }
  let bags := (List.range nb).map (fun k => (k, g.bags.find? (fun b => b.bag == k)))
  let rows := bags.flatMap (fun x =>
    (List.range pc).flatMap (fun i =>
      toLe ob (if i < e then
        (match x.2 with
          | some b => poolOut g.pool (g.lens.getD x.1 0) t.twin g.outFmt (b.elems.getD i elemZero)
          | none => 0)
        else 0)))
  let status := bags.map (fun x =>
    let (u, o, nan) := match x.2 with
      | some b => (b.underF, b.overF || (g.pool != 2 && b.elems.any (fun y => decide (y.cls = 0 ∧ accVis < y.sum.natAbs))),
          b.elems.any (fun y => y.cls == 3))
      | none => (false, false, false)
    BitVec.ofNat 8 ((if u then 1 else 0) + (if o then 2 else 0) + (if g.lens.getD x.1 0 = 0 then 4 else 0)
      + (if nan then 8 else 0) + (if g.oor.getD x.1 false then 16 else 0)))
  h.bytes ++ rows ++ status ++ zeros (32 * ceilDiv nb 32 - nb)

/-- Whether a status byte has a bit. -/
def statusCount (l : Bytes) (i : Nat) : Nat := (l.filter (fun b => b.getLsbD i)).length

/-- Finish the complete gathers of lateral engine `e` in order: each takes `SEM_EMPTY` where asked, or waits for it; then
its bytes are written, its counters rise and `SEM_FULL` is signalled (R314). -/
def State.finishGathers (s : State) (e : Nat) : State :=
  (s.lateral e).gathers.foldl (fun s g =>
    if !g.waits.isEmpty || g.failed then s
    else
      let n := SMap.get 0 (s.tile g.tile).sem g.semEmpty
      if g.takeEmpty && n == 0 then s
      else
        let t := s.tableEnt g.table
        let out := gatherBytes t g
        let status := (out.drop (64 + g.lens.length * outCols t.elems (codeBits g.outFmt / 8) * (codeBits g.outFmt / 8))).take g.lens.length
        let s1 := if g.takeEmpty then s.updTile g.tile (fun t => { t with sem := SMap.set 0 t.sem g.semEmpty (n - 1) }) else s
        let a := s1.boardAddr (fieldKey g.tile ((s1.tile g.tile).regs.fwinBase + g.dstOff))
        let s2 := (s1.put a out 0 0).updTableEnt g.table (fun t => { t with
          underCnt := satAdd 32 t.underCnt (statusCount status 0)
          overCnt := satAdd 32 t.overCnt (statusCount status 1) })
        let s3 := s2.updLe e (fun l => { l with gathers := l.gathers.filter (fun x => x.gid != g.gid) })
        s3.engineSignal g.tile g.semFull) s

/-! Gather packets. -/

/-- The fields of a gather record (Table 11-2) and the parts of its packet. -/
structure GatherRec where
  nb : Nat
  nidx : Nat
  pool : Nat
  takeEmpty : Bool
  fmt : Nat
  table : Nat
  semFull : Nat
  semEmpty : Nat
  pos : Nat
  off : Nat
  lens : List Nat
  rows : List Bytes
  weights : List Bytes
  deriving DecidableEq, Repr

/-- The gather record of a packet (R310). -/
def gatherRec (items : List Bytes) : GatherRec :=
  let hd := items.headD []
  let nb := leAt hd 4 2
  let nidx := leAt hd 6 2
  let nl := ceilDiv nb 16
  let body := items.drop 1
  let lb := (body.take nl).flatMap id
  { nb := nb, nidx := nidx, pool := leAt hd 1 1 % 4, takeEmpty := bitB (leAt hd 1 1) 2, fmt := leAt hd 8 1, table := leAt hd 2 2 % 1024
    semFull := leAt hd 9 1 % 32, semEmpty := leAt hd 0xA 1 % 32, pos := leAt hd 0xC 2, off := leAt hd 0x10 4
    lens := (List.range nb).map (fun k => leAt lb (2 * k) 2)
    rows := (body.drop nl).take (ceilDiv nidx 8), weights := body.drop (nl + ceilDiv nidx 8) }

/-- The checks of a gather record against its plot and its table (R311): the fault it raises, if any. -/
def State.gatherCheck (s : State) (p : Plot) (items : List Bytes) : Option Nat :=
  let g := gatherRec items
  let ent := s.tableEnt g.table
  let padded := g.nb * outCols ent.elems (codeBits g.fmt / 8) * (codeBits g.fmt / 8)
  if g.nb < 1 ∨ 256 < g.nb ∨ 4000 < g.nidx ∨ (g.fmt ≠ 0 ∧ g.fmt ≠ 0xA ∧ g.fmt ≠ 0xB) ∨ g.off % 64 ≠ 0 ∨
      g.lens.foldl (fun a b => a + b) 0 ≠ g.nidx ∨
      items.tail.length ≠ ceilDiv g.nb 16 + ceilDiv g.nidx 8 + (if g.pool = 3 then ceilDiv g.nidx 8 else 0) ∨
      8 * p.rows ≤ g.pos / 64 ∨ 8 * p.cols ≤ g.pos % 64 then some 0x14
  else if !ent.valid ∨ ent.model ≠ p.model then some 0x15
  else if p.env 0x10 4 < g.off + 64 + padded + 32 * ceilDiv g.nb 32 ∨ maxPayload < padded then some 0x14
  else none

/-- The lookups of a gather record (R310): bag, row and weight. -/
def GatherRec.lookups (g : GatherRec) : List GIdx :=
  let bagOf := g.lens.zipIdx.flatMap (fun x => List.replicate x.1 x.2)
  let ib := g.rows.flatMap id
  let wb := g.weights.flatMap id
  (List.range g.nidx).map (fun i => GIdx.mk (bagOf.getD i 0) (leAt ib (4 * i) 4) (leAt wb (4 * i) 4))

/-- A gather starts (R312): its lookups are counted, its sub-packets go to the modules that own rows of it, and it waits for their partials.
The number of a gather carries its route table in the low four bits. -/
def State.startGather (s : State) (e t : Nat) (p : Plot) (items : List Bytes) : State :=
  let r := (s.lateral e).table t
  let g := gatherRec items
  let ent := s.tableEnt g.table
  let oor := g.lookups.filter (fun x => decide (ent.rowsTotal ≤ x.row))
  let good := g.lookups.filter (fun x => decide (x.row < ent.rowsTotal))
  let gid := 16 * (s.lateral e).nextGid + t
  let own := s.slot % 4
  let sub := fun m => GSub.mk own e gid r.gen p.parcel g.table g.pool (good.filter (fun x => ent.ownerOf x.row == m))
  let mods := (List.range 4).filter (fun m => !(sub m).rows.isEmpty)
  let bags := (oor.map (fun x => x.bag)).eraseDups.map (fun k =>
    Bag.mk k (List.replicate ent.elems elemZero) false false 0 false)
  let o : OpenGather :=
    { gid := gid, route := t, lead := r.lead, gen := r.gen, pool := g.pool, takeEmpty := g.takeEmpty, table := g.table,
      outFmt := g.fmt, semFull := g.semFull, semEmpty := g.semEmpty, tile := p.tileOf g.pos, dstOff := g.off,
      lens := g.lens, bags := bags, oor := (List.range g.nb).map (fun k => oor.any (fun x => x.bag == k)),
      waits := mods.flatMap (fun m => ((sub m).rows.map (fun x => x.bag)).eraseDups.map (fun k => (m, k))), failed := false }
  let s1 := (s.updTableEnt g.table (fun x => { x with
    lookupCnt := satAdd 48 x.lookupCnt g.nidx
    oorCnt := satAdd 32 x.oorCnt oor.length })).updLe e (fun l => { l with
      gathers := l.gathers ++ [o]
      nextGid := l.nextGid + 1
      outSubs := l.outSubs ++ (mods.filter (fun m => m != own)).map (fun m => (m, sub m)) })
  let le2 := if ent.aq then ent.base % 2 ^ 48 / 2 ^ 42 % 4 else addrQuad ent.base
  if mods.contains own then s1.updLe le2 (fun l => { l with subs := l.subs ++ [sub own] }) else s1

/-- A gather packet of table `t` from queue `n` (R310 to R312): refused with its fault, or started. -/
def State.latGather (s : State) (e t n : Nat) (items : List Bytes) : State :=
  let r := (s.lateral e).table t
  match s.plot r.lead with
  | none => s
  | some p =>
    match s.gatherCheck p items with
    | some c => s.leFault e c t n 0 [r.lead]
    | none => (s.startGather e t p items).finishGathers e

/-- GATHER_PACKET (R310 to R312). -/
def execGatherPacket (le : Fin 4) (s : State) : Host.Outcome State Fault Refusal :=
  .next (s.latTake le.val (fun k => k == 4) (fun s t _ n items => s.latGather le.val t n items))

/-! Owning engines. -/

/-- Send a bag's partial from the owning lateral engine `e` to the source (R314). -/
def State.sendPart (s : State) (e srcMod srcLe : Nat) (p : GPart) : State :=
  if srcMod = s.slot % 4 then s.updLe srcLe (fun l => { l with parts := l.parts ++ [p] })
  else s.updLe e (fun l => { l with outParts := l.outParts ++ [(srcMod, p)] })

/-- Send the partials of the bags of an owned sub-packet that no engine owes anything, and drop it when all are sent. -/
def State.flushOwned (s : State) (e srcMod gid : Nat) : State :=
  match (s.lateral e).owned.find? (fun o => o.sub.srcMod == srcMod && o.sub.gid == gid) with
  | none => s
  | some o =>
    let fin := o.bags.filter (fun b => b.left == 0)
    let rest := o.bags.filter (fun b => b.left != 0)
    let s1 := fin.foldl (fun s b =>
      let c := b.close o.sub.pool
      s.sendPart e srcMod o.sub.srcLe ⟨gid, o.sub.gen, s.slot % 4, b.bag, b.fail, false, if b.fail then [] else c.elems, c.underF, c.overF⟩) s
    s1.updLe e (fun l => { l with owned := l.owned.flatMap (fun x =>
      if x.sub.srcMod = srcMod ∧ x.sub.gid = gid then (if rest.isEmpty then [] else [{ x with bags := rest }]) else [x]) })

/-- Record a failed row in `GE_ERR` (R319, Table 11-6). -/
def State.geErr (s : State) (g cause a parcel : Nat) : State :=
  ((s.updGe g (fun x => { x with
    errAddr := if x.err.valid then x.errAddr else a
    err := x.err.raise cause 0 })).signal (156 + g / 24)).post false 0x06 cause 0 parcel g (BitVec.ofNat 64 a)

/-- Whether `n` items can get cells of the cistern of quadrant `q` on their way through (R319); the number of items that a sub-packet or a
partial makes is a DESIGN CHOICE (log entry 171). -/
def State.gatherRoom (s : State) (q n : Nat) : Bool := decide (ceilDiv n 14 ≤ (s.cistern q).room 16)

/-- The items of a sub-packet: a record, and 12 bytes for each row. -/
def subItems (g : GSub) : Nat := 1 + ceilDiv (12 * g.rows.length) 32

/-- The items of a partial: a record, and 16 bytes for each element (R318). -/
def partItems (p : GPart) : Nat := 1 + ceilDiv (16 * p.elems.length) 32

/-- The plots that run a step of a model here. -/
def State.runningOf (s : State) (id : Nat) : List Nat :=
  (List.range 64).filter (fun b => (s.plot b).any (fun p => p.model == id && p.task.isSome))

/-- A sub-packet reaches its owning lateral engine: its rows are handed to gather engines (R312); rows of an engine that
accepts none fail as `ROW_UE` (R321). One that gets no cells here ends the tasks of both sides (R319). -/
def State.takeSub (s : State) (e : Nat) (g : GSub) : State :=
  if !s.gatherRoom e (subItems g) then
    (s.leFault e 0x12 (g.gid % 16) 0 0 (s.runningOf (s.tableEnt g.table).model)).sendPart e g.srcMod g.srcLe
      ⟨g.gid, g.gen, s.slot % 4, 0, true, true, [], false, false⟩
  else
  let t := s.tableEnt g.table
  let rows := g.rows.map (fun x =>
    let r := x.row - t.bound (s.slot % 4)
    (t.engineOf r, GRow.mk g.srcMod g.srcLe g.gid g.gen e g.parcel g.table g.pool x.bag r x.weight))
  let ok := rows.filter (fun x => (s.gatherEng x.1).enable)
  let no := rows.filter (fun x => !(s.gatherEng x.1).enable)
  let bags := (g.rows.map (fun x => x.bag)).eraseDups.map (fun k =>
    Bag.mk k [] false false ((ok.filter (fun x => x.2.bag == k)).map (fun x => x.1)).eraseDups.length
      (no.any (fun x => x.2.bag == k)))
  let s1 := s.updLe e (fun l => { l with owned := l.owned ++ [⟨g, bags⟩] })
  let s2 := ok.foldl (fun s x => s.updGe x.1 (fun y => { y with rows := y.rows ++ [x.2] })) s1
  let s3 := no.foldl (fun s x => s.geErr x.1 1 (t.rowAddr x.2.row) g.parcel) s2
  s3.flushOwned e g.srcMod g.gid

/-- GATHER_SUBPACKET (R312): a sub-packet of this module, or one from another module, reaches lateral engine `le`. -/
def execGatherSubpacket (le : Fin 4) (remote : Option GSub) (s : State) : Host.Outcome State Fault Refusal :=
  let e := le.val
  .next (match remote with
    | some g => (s.updLe e (fun l => { l with bytesIn := satAdd 48 l.bytesIn (12 * g.rows.length) })).takeSub e g
    | none =>
      (match (s.lateral e).subs with
        | [] => s
        | g :: rest => (s.updLe e (fun l => { l with subs := rest })).takeSub e g))

/-! Gather engines. -/

/-- Whether two rows are of one bag. -/
def GRow.sameBag (x y : GRow) : Bool := x.srcMod == y.srcMod && x.gid == y.gid && x.bag == y.bag

/-- Whether a row may be read: its bag is open, or one of 64 may open (R305). -/
def GatherEng.mayRead (g : GatherEng) (x : GRow) : Bool :=
  g.bags.any (fun b => b.srcMod == x.srcMod && b.gid == x.gid && b.bag.bag == x.bag) || decide (g.bags.length < 64)

/-- The row read next: deficit round robin over parcels with a quantum of 64 rows (R305), with the turn and the quantum
left after it. -/
def GatherEng.pick (g : GatherEng) : Option (GRow × Nat × Nat) :=
  let can := g.rows.filter g.mayRead
  match can.find? (fun x => x.parcel == g.turn && decide (0 < g.quantum)) with
  | some x => some (x, g.turn, g.quantum - 1)
  | none =>
    let ps := can.map (fun x => x.parcel)
    let p := match (ps.filter (fun q => decide (g.turn < q))).min? with
      | some q => some q
      | none => ps.min?
    (match p with
      | none => none
      | some p => (can.find? (fun x => x.parcel == p)).map (fun x => (x, p, 63)))

/-- The slot a row read goes into (R305): the one in hand where the row is of its pseudo-channel and stream and still fits, at most 4 rows
and 2,048 bytes, else a new one, which the flag tells; none for a row in Aquifer (R309). How reads are grouped is a DESIGN CHOICE (log entry
172). -/
def State.gatherSlot (s : State) (g : GatherEng) (t : TableEnt) (r : Nat) : Option GSlot × Bool :=
  if t.aq then (g.slot, false)
  else
    let off := t.blockAddr r % 2 ^ 48
    let q := off / regionBytes
    let o := off % regionBytes
    let pc := 32 * stackOf q o + (channelOf o).2.1
    let stream := if (s.quad q).reserves.any (fun x => x.stream == t.stream && (s.plot x.lead).any (fun p => p.model == t.model)) then t.stream
      else 0xFFFF
    let n := t.rowBytes + if t.scaled then 4 else 0
    match g.slot with
    | some x => if x.pc = pc ∧ x.stream = stream ∧ x.rows < 4 ∧ x.bytes + n ≤ 2048 then (some { x with rows := x.rows + 1, bytes := x.bytes + n }, false)
      else (some ⟨pc, stream, 1, n⟩, true)
    | none => (some ⟨pc, stream, 1, n⟩, true)

/-- The bag of a gather engine that a row belongs to, opened when it is the first. -/
def GatherEng.bagOf (g : GatherEng) (x : GRow) : Bag :=
  ((g.bags.find? (fun b => b.srcMod == x.srcMod && b.gid == x.gid && b.bag.bag == x.bag)).map (fun b => b.bag)).getD
    ⟨x.bag, [], false, false, 0, false⟩

/-- A closed bag of an engine reaches its owning lateral engine (R314). -/
def State.closeBag (s : State) (x : GRow) (b : Bag) : State :=
  let c := b.close x.pool
  (s.updLe x.owner (fun l => { l with owned := l.owned.map (fun o =>
    if o.sub.srcMod = x.srcMod ∧ o.sub.gid = x.gid then
      { o with bags := o.bags.map (fun y =>
          if y.bag = x.bag then { (y.combine x.pool b.fail c.elems c.underF c.overF) with left := y.left - 1 } else y) }
    else o) })).flushOwned x.owner x.srcMod x.gid

/-- A partial reaches its source (R314, R319, R320); where it gets no cells, or its sub-packet got none, the task ends aborted. -/
def State.takePart (s : State) (e : Nat) (p : GPart) : State :=
  let stale := fun (s : State) => s.updLe e (fun l => l.updTable (p.gid % 16) (fun r => { r with staleCnt := satAdd 32 r.staleCnt 1 }))
  match (s.lateral e).gathers.find? (fun g => g.gid == p.gid) with
  | none => stale s
  | some g =>
    if g.gen ≠ p.gen ∨ p.gen ≠ ((s.lateral e).table g.route).gen then stale s
    else if g.failed then s
    else if p.quota ∨ !s.gatherRoom e (partItems p) then
      (s.updLe e (fun l => { l with gathers := l.gathers.map (fun x => if x.gid = g.gid then { x with failed := true } else x) })).leFault
        e 0x12 g.route 0 0 [g.lead]
    else
      let put := fun (f : OpenGather → OpenGather) => s.updLe e (fun l => { l with
        gathers := l.gathers.map (fun x => if x.gid = g.gid then f x else x) })
      if p.fail then (put (fun x => { x with failed := true })).tierError g.lead 1 0 0
      else
        let b := (g.bags.find? (fun b => b.bag == p.bag)).getD ⟨p.bag, [], false, false, 0, false⟩
        let b1 := b.combine g.pool false p.elems p.underF p.overF
        put (fun x => { x with
          bags := x.bags.filter (fun y => y.bag != p.bag) ++ [b1]
          waits := x.waits.erase (p.owner, p.bag) })

/-- GATHER_PARTIAL (R314): a partial from another module or the oldest of this module arrives; gathers that have all of
theirs are finished. -/
def execGatherPartial (le : Fin 4) (remote : Option GPart) (s : State) : Host.Outcome State Fault Refusal :=
  let e := le.val
  let s1 := match remote with
    | some p => (s.updLe e (fun l => { l with bytesIn := satAdd 48 l.bytesIn (16 * p.elems.length) })).takePart e p
    | none =>
      (match (s.lateral e).parts with
        | [] => s
        | p :: rest => (s.updLe e (fun l => { l with parts := rest })).takePart e p)
  .next (s1.finishGathers e)

/-- GE_CTRL_ENABLE (R321). -/
def execGeCtrlEnable (ge : Fin 96) (on : Bool) (s : State) : Host.Outcome State Fault Refusal :=
  .next (s.updGe ge.val (fun x => { x with enable := on }))

/-- Cancel the gathers of a plot at a forced switch (R320). -/
def State.cancelGathers (s : State) (b : Nat) : State :=
  [0, 1, 2, 3].foldl (fun s e => s.updLe e (fun l => { l with gathers := l.gathers.filter (fun g => g.lead != b) })) s

end Sys2Proof.Machine
end

