-- ==== Sys2Proof/Machine/Space.lean ====
section
/-! DEFINITION. Space in Reservoir and Aquifer (R182, R227, R228, R478, R479), the registry's lookups (R222, R229), quotas
(Table 12-1) and the answers owed to requests (R366, R375). -/

namespace Sys2Proof.Machine

/-- 2 MiB. -/
def mib2 : Nat := 0x200000

/-- Round up to 2 MiB. -/
def upMib (n : Nat) : Nat := ceilDiv n mib2 * mib2

/-- Module time moves on to `t` (R327). -/
def State.at' (s : State) (t : Nat) : State := { s with now := max s.now t }

/-! Answers. -/

/-- The completion event of a request (R375). -/
def State.complete (s : State) (w : Waiter) (status : Nat) (body : Bytes) : State :=
  s.event w.parcel 1 w.op w.seq status w.obj (if status = 0 then body else []) w.dest

/-! Parcels and models. -/

/-- Parcel `p`. -/
def State.parcel (s : State) (p : Nat) : Parcel := SMap.get Parcel.reset s.parcels p

/-- Change parcel `p`. -/
def State.updParcel (s : State) (p : Nat) (f : Parcel → Parcel) : State :=
  { s with parcels := SMap.set Parcel.reset s.parcels p (f (s.parcel p)) }

/-- Registry entry `i`. -/
def State.entry (s : State) (i : Nat) : Model := SMap.get Model.reset s.models i

/-- Change registry entry `i`. -/
def State.updEntry (s : State) (i : Nat) (f : Model → Model) : State :=
  { s with models := SMap.set Model.reset s.models i (f (s.entry i)) }

/-- The registry entry a model ID names, if any (R222). -/
def State.modelOf (s : State) (id : Nat) : Option Model :=
  let m := s.entry (id % 256)
  if m.state ≠ .free ∧ m.gen = id / 256 then some m else none

/-- Change the entry of a model ID. -/
def State.updModel (s : State) (id : Nat) (f : Model → Model) : State := s.updEntry (id % 256) f

/-- The model ID of entry `i` (Table 8-1). -/
def State.modelId (s : State) (i : Nat) : Nat := i + 256 * (s.entry i).gen

/-- A field of the `MODEL_REGISTER` payload kept with the entry (Table 13-8). -/
def Model.reg' (m : Model) (off n : Nat) : Nat := leAt m.reg off n

def Model.stepTokens (m : Model) : Nat := m.reg' 0x10 2
def Model.slotsMax (m : Model) : Nat := m.reg' 0x12 2
def Model.maxContext (m : Model) : Nat := if m.stepTokens = 0 then 0 else m.reg' 0x14 4
def Model.groups (m : Model) : Nat := m.reg' 0x18 2
def Model.kvHold (m : Model) : Nat := if m.reg' 0x1A 2 = 0xFFFF then 100 else m.reg' 0x1A 2
def Model.pageBytes (m : Model) : Nat := m.reg' 0x1C 4

/-- Whether a parcel may use a model: its owner, one granted, or parcel 0 (R229). -/
def Model.allows (m : Model) (p : Nat) : Bool := p == 0 || p == m.owner || m.grants.contains p

/-- Adapter table entry `i`. -/
def State.adapter (s : State) (i : Nat) : Adapter := SMap.get Adapter.reset s.adapters i

/-- Change adapter table entry `i`. -/
def State.updAdapter (s : State) (i : Nat) (f : Adapter → Adapter) : State :=
  { s with adapters := SMap.set Adapter.reset s.adapters i (f (s.adapter i)) }

/-- The adapter an ID names, if any (R223). -/
def State.adapterOf (s : State) (id : Nat) : Option Adapter :=
  let a := s.adapter (id % 4096)
  if a.used ∧ a.gen = id / 2 ^ 24 % 256 then some a else none

/-- The next generation of an identifier, skipping 0 (R346). -/
def nextGen (g : Nat) : Nat := if g = 255 then 1 else g + 1

/-- 4 ms, the quarantine of an identifier (R347). -/
def quarantineNs : Nat := 4000000

/-! Space. -/

/-- The size of a tier's space for region or port `r`: its first offset and the offset after its last (R159, R160). -/
def State.spaceOf (s : State) (tier r : Nat) : Nat × Nat :=
  if tier = 1 then (r * regionBytes, if (s.quad r).regionUp then (r + 1) * regionBytes else r * regionBytes)
  else (r * 2 ^ 42, r * 2 ^ 42 + (if (s.quad r).aqUp then (s.quad r).aqCap * mib2 else 0))

/-- Whether a range of a tier is free of every allocation. -/
def State.rangeFree (s : State) (tier base len : Nat) : Bool :=
  s.serve.allocs.all (fun a => a.tier != tier || decide (a.base + a.len ≤ base) || decide (base + len ≤ a.base))

/-- The lowest free range of `len` bytes in region or port `r` of a tier, 2 MiB aligned. -/
def State.findSpace (s : State) (tier r len : Nat) : Option Nat :=
  let lim := s.spaceOf tier r
  let starts := lim.1 :: (s.serve.allocs.filter (fun a => a.tier == tier)).map (fun a => a.base + a.len)
  (starts.filter (fun b => decide (lim.1 ≤ b ∧ b + len ≤ lim.2) && s.rangeFree tier b len)).min?

/-- The lowest offset at which a range of `len` bytes is free on every Aquifer port (R227). -/
def State.findAq (s : State) (len : Nat) : Option Nat :=
  let starts := 0 :: (s.serve.allocs.filter (fun a => a.tier == 2)).map (fun a => (a.base + a.len) % 2 ^ 42)
  (starts.filter (fun b => (List.range 4).all (fun q =>
    decide (q * 2 ^ 42 + b + len ≤ (s.spaceOf 2 q).2) && s.rangeFree 2 (q * 2 ^ 42 + b) len))).min?

/-- Set the region-table entries of a range (R182). -/
def State.setRegion (s : State) (tier base len owner : Nat) (write shared : Bool) : State :=
  let u := boardKey tier base / mib2
  let e := BitVec.ofNat 32 (owner % 1024 + (if write then 2 ^ 10 else 0) + (if shared then 2 ^ 11 else 0))
  { s with mem := { s.mem with region := (List.range (ceilDiv len mib2)).foldl (fun m i => SMap.set 0 m (u + i) e) s.mem.region } }

/-- Take a range for an owner. -/
def State.takeSpace (s : State) (a : Alloc) : State :=
  if a.len = 0 then s else { s with serve := { s.serve with allocs := s.serve.allocs ++ [a] } }

/-- The bytes of Reservoir a parcel holds against `Q_RES`: everything but its pre-emption area (R324). -/
def State.resUsed (s : State) (p : Nat) : Nat :=
  (s.serve.allocs.filter (fun a => a.tier == 1 && a.owner == p && a.kind != 3)).foldl (fun n a => n + a.len) 0

/-- The bytes of Aquifer a parcel holds. -/
def State.aqUsed (s : State) (p : Nat) : Nat :=
  (s.serve.allocs.filter (fun a => a.tier == 2 && a.owner == p)).foldl (fun n a => n + a.len) 0

/-- Zero a range of a tier; the pond lines it covers go (R478, R479). -/
def State.zeroRange (s : State) (k len : Nat) : State :=
  if len = 0 then s
  else
    let s1 := { s with mem := s.mem.zero k len }
    if k / 2 ^ 48 = 1 then s1.pondWrite k len else s1

/-- A scrub begins (R478): the allocations leave their owners (R479) and are held until it completes. -/
def State.startScrub (s : State) (mine : Alloc → Bool) (blocks : List Nat) (ranges : List (Nat × Nat)) (what id : Nat) : State :=
  let l := s.serve.allocs.filter mine
  let s1 := l.foldl (fun s a => s.setRegion a.tier a.base a.len 0 false false) s
  let n := s.sched.nextScrub
  let job : ScrubJob := ⟨ranges ++ l.map (fun a => (boardKey a.tier a.base, a.len)), blocks, what, id⟩
  { s1 with
    serve := { s1.serve with allocs := s1.serve.allocs.map (fun a => if mine a then { a with kind := 9, owner := 0 } else a) }
    sched := { s1.sched with scrubs := SMap.set none s1.sched.scrubs n (some job), nextScrub := n + 1 }
    blocks := blocks.foldl (fun m b => SMap.upd Block.reset m b (fun x => { x with scrubbing := true })) s1.blocks }

/-- The space of a scrub that has ended is zero and free. -/
def State.endScrub (s : State) (n : Nat) : State :=
  match SMap.get none s.sched.scrubs n with
  | none => s
  | some j =>
    let s1 := j.ranges.foldl (fun s r => s.zeroRange r.1 r.2) s
    { s1 with
      serve := { s1.serve with allocs := s1.serve.allocs.filter (fun a =>
        !(a.kind == 9 && j.ranges.contains (boardKey a.tier a.base, a.len))) }
      sched := { s1.sched with scrubs := SMap.set none s1.sched.scrubs n none }
      blocks := j.blocks.foldl (fun m b => SMap.upd Block.reset m b (fun x => { x with scrubbing := false, saved := false })) s1.blocks }

/-- Write bytes at a key of Reservoir or Aquifer as firmware does. -/
def State.fwWrite (s : State) (k : Nat) (l : Bytes) : State := s.put (s.boardAddr k) l 0 0

end Sys2Proof.Machine
end

