-- ==== Sys2Proof/Machine/Loads.lean ====
section
/-! DEFINITION. Fetches: the shards of registry entries and of adapter versions, where they rest, which are read, and what a
verified or failed fetch does (R227, R228, R233 to R237, R242 to R244, R306). -/

namespace Sys2Proof.Machine

/-! The shard lists. -/

/-- What a registry entry and an adapter version have alike: their shards and their group. -/
structure Load where
  shards : List Shard
  manifest : Bytes
  notices : List Nat
  owed : List Nat
  fetch : Option FetchJob
  member : Nat
  serials : List Nat
  deriving DecidableEq, Repr

/-- A reference to registry entry `i`. -/
def modelRef (i : Nat) : LoadRef := ⟨false, Fin.ofNat 4096 i, 0⟩

/-- A reference to version `n` of adapter `i`. -/
def versionRef (i n : Nat) : LoadRef := ⟨true, Fin.ofNat 4096 i, BitVec.ofNat 16 n⟩

/-- Version `n` of adapter `i`. -/
def State.versionOf (s : State) (i n : Nat) : Option AVer := (s.adapter i).versions.find? (fun v => v.num == n)

/-- Change version `n` of adapter `i`. -/
def State.updVersion (s : State) (i n : Nat) (f : AVer → AVer) : State :=
  s.updAdapter i (fun a => { a with versions := a.versions.map (fun v => if v.num = n then f v else v) })

/-- The shard list a reference names. -/
def State.load (s : State) (r : LoadRef) : Option Load :=
  if r.adapter then
    (if (s.adapter r.index.val).used then s.versionOf r.index.val r.version.toNat else none).map (fun v =>
      ⟨v.shards, v.manifest, v.notices, v.owed, v.fetch, v.member, v.serials⟩)
  else
    let m := s.entry r.index.val
    if m.state = .free ∨ 256 ≤ r.index.val then none else some ⟨m.shards, m.manifest, m.notices, m.owed, m.fetch, m.member, m.serials⟩

/-- Replace a shard list. -/
def State.putLoad (s : State) (r : LoadRef) (l : Load) : State :=
  if r.adapter then
    s.updVersion r.index.val r.version.toNat (fun v => { v with
      shards := l.shards, manifest := l.manifest, notices := l.notices, owed := l.owed, fetch := l.fetch, member := l.member, serials := l.serials })
  else
    s.updEntry r.index.val (fun m => { m with
      shards := l.shards, manifest := l.manifest, notices := l.notices, owed := l.owed, fetch := l.fetch, member := l.member, serials := l.serials })

/-- Change the shard list a reference names. -/
def State.updLoad (s : State) (r : LoadRef) (f : Load → Load) : State :=
  match s.load r with
  | some l => s.putLoad r (f l)
  | none => s

/-- The other members of a group, by member index. -/
def Load.others (l : Load) : List Nat := (List.range l.serials.length).filter (fun k => k != l.member)

/-- Whether every shard of this member has verified. -/
def Load.verified (l : Load) : Bool := l.shards.all (fun h => h.state == 1)

/-- Whether an answer to the fetch is still owed. -/
def Load.fetching (l : Load) : Bool := l.fetch.any (fun j => j.waiter.isSome)

/-- `MODEL_TAG` of a manifest (Table 8-3). -/
def manifestTag (l : Bytes) : Nat := leAt l 0x10 8

/-- `TABLE_DIGEST` of a manifest. -/
def manifestDigest (l : Bytes) : Nat := leAt l 0x40 64

/-- Every shard list with a manifest, models first. -/
def State.loadRefs (s : State) : List LoadRef :=
  ((s.models.filter (fun (x : Nat × Model) => x.2.state != .free && !x.2.manifest.isEmpty)).map (fun x => modelRef x.1)) ++
    (s.adapters.filter (fun (x : Nat × Adapter) => x.2.used)).flatMap (fun x => x.2.versions.map (fun v => versionRef x.1 v.num))

/-! Where shards rest. -/

/-- The regions a shard rests in (R227). -/
def Shard.regions (h : Shard) : List Nat :=
  if bitB h.flags 0 ∧ h.kind = 0 then (List.range 4).filter (fun q => q == h.quad || bitB h.flags (2 + q)) else []

/-- Whether a shard rests in Aquifer; an adapter's rest in Reservoir only. -/
def Shard.inAq (h : Shard) (adapter : Bool) : Bool := !adapter && h.kind == 0 && bitB h.flags 1

/-- The key of a shard's bytes in region `q`. -/
def State.shardKey (s : State) (r : LoadRef) (h : Shard) (q : Nat) : Nat :=
  if r.adapter then
    boardKey 1 (q * regionBytes + ((s.versionOf r.index.val r.version.toNat).elim 0 (fun v => v.base)) + h.resOff)
  else boardKey 1 (SMap.get 0 (s.entry r.index.val).resBase q + h.resOff)

/-- Every place a shard rests, as keys. -/
def State.places (s : State) (r : LoadRef) (h : Shard) : List Nat :=
  h.regions.map (fun q => s.shardKey r h q) ++
    (if h.inAq r.adapter then [boardKey 2 (h.quad * 2 ^ 42 + (s.entry r.index.val).aqBase + h.aqOff)] else [])

/-- Whether a shard can be fetched now: not while its only places are in regions out of service (R237). -/
def State.canRest (s : State) (r : LoadRef) (h : Shard) : Bool :=
  h.regions.isEmpty || h.inAq r.adapter || h.regions.any (fun q => (s.quad q).regionUp)

/-- The shard of a list that rests at a key. -/
def State.shardAt (s : State) (r : LoadRef) (k : Nat) : Option Shard :=
  (s.load r).bind (fun l => l.shards.find? (fun h => h.kind == 0 && (s.places r h).any (fun x => decide (x ≤ k ∧ k < x + h.len))))

/-- A verified copy of a shard beside the one that key `k` lies in (R198 step 1, R239): another region's replica, then the Aquifer
copy, in service, without an uncorrectable word and with the shard's digest. -/
def State.goodCopy (s : State) (r : LoadRef) (h : Shard) (k : Nat) : Option Bytes :=
  (s.places r h).findSome? (fun x =>
    let up := if x / 2 ^ 48 = 1 then (s.quad (x % 2 ^ 48 / regionBytes)).regionUp else (s.quad (x % 2 ^ 48 / 2 ^ 42)).aqUp
    if (x ≤ k ∧ k < x + h.len) ∨ !up ∨ (firstUe 32 s.mem.ueRes x h.len).isSome then none
    else
      let l := s.mem.readN x h.len
      if sha512 l = h.digest then some l else none)

/-- Replace the bad copy of a shard that key `k` lies in (R198 step 1, R239): from another verified copy here, else from what a refetch
has brought, held to the digest as a fetch is; none when neither serves. -/
def State.replaceCopy (s : State) (r : LoadRef) (k : Nat) (fetched : Option Bytes) : Option State :=
  (s.shardAt r k).bind (fun h =>
    let new := match s.goodCopy r h k with
      | some l => some l
      | none => fetched.filter (fun l => l.length == h.len && sha512 l == h.digest)
    new.map (fun l => ((s.places r h).filter (fun x => decide (x ≤ k ∧ k < x + h.len))).foldl (fun s x => s.fwWrite x l) s))

/-- The region entries of a model that is not `READY` name firmware, so that no parcel reads a shard that has not verified (R228). -/
def State.holdModel (s : State) (i : Nat) : State :=
  (s.serve.allocs.filter (fun a => a.kind == 0 && a.id == i)).foldl (fun s a => s.setRegion a.tier a.base a.len 0 false false) s

/-! Reading shards. -/

/-- Shards in flight over all fetches. -/
def State.inFlight (s : State) : Nat :=
  s.loadRefs.foldl (fun n r => n + ((s.load r).elim 0 (fun l => (l.shards.filter (fun h => h.running)).length))) 0

/-- Whether a shard list is being read: its fetch runs, or a damaged version is under repair. -/
def State.active (s : State) (r : LoadRef) (l : Load) : Bool :=
  if r.adapter then (s.versionOf r.index.val r.version.toNat).any (fun v => v.state == 1 || v.state == 3) else l.fetching

/-- Start shards of one list: the plats first, then by `INDEX`, four at most here and eight in all (R234). -/
def State.startShards (s : State) (r : LoadRef) : State :=
  match s.load r with
  | none => s
  | some l =>
    if !s.active r l then s
    else
      let room := min (4 - (l.shards.filter (fun h => h.running)).length) (8 - s.inFlight)
      let plats := l.shards.any (fun h => h.kind == 1 && h.state == 0)
      let go := ((l.shards.filter (fun h => h.state == 0 && !h.running && (h.kind == 1 || !plats) && s.canRest r h)).take room).map (fun h => h.index)
      s.putLoad r { l with shards := l.shards.map (fun h => if go.contains h.index then { h with running := true, startAt := s.now } else h) }

/-- Start what can be read now. -/
def State.startLoads (s : State) : State := s.loadRefs.foldl (fun s r => s.startShards r) s

/-! The end of a fetch. -/

/-- The body of a completion: that of the answer the opcode would have given (R366, Table 13-5). -/
def loadBody (w : Waiter) (version : Nat) : Bytes :=
  if w.op = 0x28 then toLe 4 w.obj else if w.op = 0x29 then toLe 2 version else []

/-- The fetch of a list ends with a status: its answer is sent, and the job is kept for repairs. -/
def State.endFetch (s : State) (r : LoadRef) (status : Nat) : State :=
  match s.load r with
  | none => s
  | some l =>
    match l.fetch with
    | none => s
    | some j =>
      let s1 := s.putLoad r { l with fetch := some { j with waiter := none } }
      match j.waiter with
      | some w => s1.complete w status (loadBody w r.version.toNat)
      | none => s1

/-- Send this member's notice to members of a group (R235). -/
def State.sendNotice (s : State) (l : Load) (members : List Nat) : State :=
  members.foldl (fun s k => s.mgmtSend (l.serials.getD k 0) false
    ([6] ++ slice l.manifest 0x10 8 ++ slice l.manifest 0x40 64 ++ toLe 1 l.member)) s

/-- A version is freed: its space is scrubbed (Table 8-8). -/
def State.freeVersion (s : State) (i n : Nat) : State :=
  match s.versionOf i n with
  | none => s
  | some v =>
    (s.updAdapter i (fun a => { a with versions := a.versions.filter (fun x => x.num != n) })).startScrub
      (fun a => a.kind == 4 && a.id == i && a.base % regionBytes == v.base) [] [] 3 i

/-- The table records of a registration: number and directory entry (R371). -/
def Model.tableRecs (m : Model) : List (Nat × Bytes) :=
  let o := 0x50 + 8 * ceilDiv (2 * m.reg' 8 2) 8
  (List.range (m.reg' 0xA 2)).map (fun i => (leAt m.reg (o + 80 * i) 2, slice m.reg (o + 80 * i + 0x10) 64))

/-- A directory entry from its bytes (Table 11-1), `BASE` rebased: a model-relative Reservoir offset names its region, an Aquifer
one its port, as board offsets do. -/
def State.tableOf (s : State) (i : Nat) (l : Bytes) : TableEnt :=
  let fl := leAt l 0 1
  let base := leAt l 0x18 8 % 2 ^ 52
  let q := base / regionBytes % 4
  { TableEnt.reset with
    valid := true, aq := bitB fl 1, scaled := bitB fl 2, fmt := leAt l 1 1, rowBytes := leAt l 2 2, model := s.modelId i,
    stream := leAt l 6 2, rowsTotal := leAt l 8 4, bound1 := leAt l 0xC 4, bound2 := leAt l 0x10 4, bound3 := leAt l 0x14 4,
    base := s.boardAddr (if bitB fl 1 then boardKey 2 ((s.entry i).aqBase + base % 2 ^ 44)
      else boardKey 1 (SMap.get 0 (s.entry i).resBase q + base % regionBytes))
    twin := (BitVec.ofNat 10 (leAt l 0x20 2)).toInt, rpb := leAt l 0x22 1 }

/-- A directory entry in place of another: the table's counters stay (R322). -/
def TableEnt.after (t old : TableEnt) : TableEnt := { t with lookupCnt := old.lookupCnt, oorCnt := old.oorCnt, underCnt := old.underCnt, overCnt := old.overCnt }

/-- Firmware clears the directory entries of a model (R306); the counters stay until they are read. -/
def State.clearTables (s : State) (id : Nat) : State :=
  { s with tables := s.tables.foldl (fun m t =>
      if t.2.valid ∧ t.2.model = id then SMap.set TableEnt.reset m t.1 (TableEnt.reset.after t.2) else m) s.tables }

/-- An entry becomes `READY` (Table 8-5, R228, R306): its region entries name the owner, its tables are written. -/
def State.readyModel (s : State) (i : Nat) : State :=
  let m := s.entry i
  let shared := m.grants.any (fun p => p != m.owner)
  let s1 := (s.serve.allocs.filter (fun a => a.kind == 0 && a.id == i)).foldl (fun s a =>
    s.setRegion a.tier a.base a.len m.owner false shared) (s.updEntry i (fun m => { m with state := .ready }))
  m.tableRecs.foldl (fun (s : State) t => s.updTableEnt (t.1 % 1024) (fun old => (s.tableOf i t.2).after old)) s1

/-- A version becomes `CURRENT` (Table 8-8): the one before it retires, and the operation completes. -/
def State.installVersion (s : State) (i n : Nat) : State :=
  let a := s.adapter i
  let s1 := s.updAdapter i (fun a => { a with versions := a.versions.map (fun v =>
    if v.num = n then { v with state := 2 } else if v.state = 2 ∨ v.state = 3 then { v with state := 4 } else v) })
  let s2 : State := match s1.versionOf i n with
    | some v => (s1.serve.allocs.filter (fun (x : Alloc) => x.kind == 4 && x.id == i && x.base % regionBytes == v.base)).foldl (fun s x =>
      s.setRegion x.tier x.base x.len a.owner false false) s1
    | none => s1
  s2.endFetch (versionRef i n) 0

/-- Whether a group is whole: this member's shards have verified and every other member has sent its notice (R235). -/
def Load.whole (l : Load) : Bool := l.verified && l.others.all (fun k => l.notices.contains k)

/-- A list whose group is whole takes effect. -/
def State.settleLoad (s : State) (r : LoadRef) : State :=
  match s.load r with
  | none => s
  | some l =>
    if !l.whole then s
    else if r.adapter then
      (if (s.versionOf r.index.val r.version.toNat).any (fun v => v.state == 1) then s.installVersion r.index.val r.version.toNat else s)
    else if (s.entry r.index.val).state = .loading ∧ !l.fetching then s.readyModel r.index.val else s

/-- The status of the lowest failed shard of a list, 0 for none (R234). -/
def Load.status (l : Load) : Nat := ((l.shards.find? (fun h => h.state == 2)).map (fun h => h.status)).getD 0

/-- Once every shard has verified or failed, the fetch completes, and notices go out when all have verified (R234, R235, R239,
R243). -/
def State.checkLoad (s : State) (r : LoadRef) : State :=
  match s.load r with
  | none => s
  | some l =>
    if l.shards.any (fun h => h.state == 0) ∨ !s.active r l then s
    else
      let i := r.index.val
      let n := r.version.toNat
      let told := (s.putLoad r { l with owed := l.others }).sendNotice l l.others
      if !r.adapter then
        (if l.verified then (told.endFetch r 0).settleLoad r else s.endFetch r l.status)
      else if (s.versionOf i n).any (fun v => v.state == 3) then
        s.updVersion i n (fun v => { v with state := if l.verified then 2 else 4 })
      else if l.verified then told.settleLoad r
      else (s.endFetch r l.status).freeVersion i n

/-! Retired versions. -/

/-- The references on a version, on every member (R244): each bound request holds one on each of them, and a member knows those of the
others by their reports. -/
def AVer.allRefs (v : AVer) : Nat := v.refs + v.peerRefs.foldl (fun n (x : Nat × Nat) => n + x.2) 0

/-- Report this member's references on a version to its group (R244). -/
def State.tellRefs (s : State) (i n : Nat) : State :=
  match s.versionOf i n with
  | none => s
  | some v =>
    (s.updVersion i n (fun v => { v with told := decide (v.refs = 0) })).mgmtGroup v.serials false
      ([7] ++ slice v.manifest 0x10 8 ++ slice v.manifest 0x40 64 ++ toLe 1 v.member ++ toLe 4 v.refs)

/-- Add to this member's references on a version, or take from them, and report the count (R244). -/
def State.countRef (s : State) (i n : Nat) (up : Bool) : State :=
  if n = 0 then s
  else (s.updVersion i n (fun v => { v with refs := if up then v.refs + 1 else v.refs - 1 })).tellRefs i n

/-- A retired version without references on any member is freed (Table 8-8). -/
def State.retireVersion (s : State) (i : Nat) (v : AVer) : State :=
  if v.state ≠ 4 ∨ v.allRefs ≠ 0 then s
  else
    let s1 := if v.told then s else s.tellRefs i v.num
    if ((List.range v.serials.length).filter (fun k => k != v.member)).all (fun k => v.peerDone.contains k) then s1.freeVersion i v.num else s1

/-- A withdrawn adapter whose versions are all freed is gone (R246): its number is quarantined with a new generation. -/
def State.finishAdapter (s : State) (i : Nat) : State :=
  let a := s.adapter i
  if a.used ∧ a.withdrawing ∧ a.versions.isEmpty ∧ !s.sched.scrubs.any (fun x => x.2.any (fun j => j.what == 3 && j.id == i)) then
    let s1 := s.updAdapter i (fun a => { Adapter.reset with gen := nextGen a.gen, freeAt := s.now + quarantineNs })
    match a.withdraw with
    | some w => s1.complete w 0 []
    | none => s1
  else s

/-- What waits for references on adapter versions. -/
def State.settleAdapters (s : State) : State :=
  s.adapters.foldl (fun s (x : Nat × Adapter) => (x.2.versions.foldl (fun s v => s.retireVersion x.1 v) s).finishAdapter x.1) s

/-- An adapter is withdrawn (R246): its current version retires. -/
def State.retireAdapter (s : State) (i : Nat) (w : Option Waiter) : State :=
  s.updAdapter i (fun a => { a with
    withdrawing := true
    withdraw := w
    versions := a.versions.map (fun v => if v.state = 2 ∨ v.state = 3 then { v with state := 4 } else v) })

end Sys2Proof.Machine
end

