-- ==== Sys2Proof/Machine/Intake.lean ====
section
/-! DEFINITION. Intake rings and their entries (R279 to R285), completion records (R286, R287), admission (R25, R284, R298,
R301, R303), the end of a request (R28, R282, R288) and what waits for it: rings and parcels that shut down (R285, R325). -/

namespace Sys2Proof.Machine

/-! Rings and completion records. -/

/-- Ring `i`. -/
def State.ring (s : State) (i : Nat) : Ring := SMap.get Ring.reset s.serve.rings i

/-- Change ring `i`. -/
def State.updRing (s : State) (i : Nat) (f : Ring → Ring) : State :=
  { s with serve := { s.serve with rings := SMap.set Ring.reset s.serve.rings i (f (s.ring i)) } }

/-- Entries of a ring. -/
def Ring.size (r : Ring) : Nat := 2 ^ r.logSize

/-- The queue pairs bound to a ring, oldest first (R372). -/
def State.ringQps (s : State) (i : Nat) : List QPair := s.mail.qps.filter (fun q => q.ring == some i)

/-- Whether a completion record can be written now: a free slot by the consumed count and a live queue pair (R280, R287,
R372). -/
def State.canWrite (s : State) (i : Nat) : Bool :=
  let r := s.ring i
  decide ((r.written + 65536 - r.consumed) % 65536 < 2 ^ r.logCpl - 1) && (s.ringQps i).any (fun q => q.live)

/-- Write a record to the host's completion ring; its `PHASE` is bit n of its number (R286). -/
def State.writeRec (s : State) (i : Nat) (b : Bytes) : State :=
  let r := s.ring i
  let flags := (b.getD 6 0).toNat % 128 + (if bitB r.recs r.logCpl then 128 else 0)
  let s1 := s.updRing i (fun r => { r with
    written := (r.written + 1) % 65536
    recs := r.recs + 1
    recCnt := satAdd 64 r.recCnt 1 })
  { s1 with serve := { s1.serve with out := s1.serve.out ++ [⟨i, r.recs, b.set 6 (BitVec.ofNat 8 flags)⟩] } }

/-- A completion record but for its `PHASE` (Table 10-3). -/
def recBytes (handle status cflags pos total : Nat) (toks : List Nat) (time : Nat) : Bytes :=
  toLe 4 handle ++ toLe 2 status ++ toLe 1 cflags ++ toLe 1 toks.length ++ toLe 4 pos ++ toLe 4 total
    ++ toLe 32 (joinElems 32 toks) ++ toLe 8 time ++ zeros 8

/-! Requests. -/

/-- What tells requests apart here: the handle, and above it the module that admitted the request, 0 for this one. A handle is a module's
own (R282), so that a request handed in from another module may have the handle of one admitted here (R295). -/
def Req.key (r : Req) : Nat := r.handle + r.home * 2 ^ 32

/-- The request in hand of a key; a handle alone names one admitted here. -/
def State.req (s : State) (k : Nat) : Option Req := s.serve.reqs.find? (fun r => r.key == k)

/-- Change the request of a key. -/
def State.updReq (s : State) (k : Nat) (f : Req → Req) : State :=
  { s with serve := { s.serve with reqs := s.serve.reqs.map (fun r => if r.key = k then f r else r) } }

/-- The prefix table entry `i`. -/
def State.prefixAt (s : State) (i : Nat) : Prefix := SMap.get Prefix.reset s.serve.prefixes i

/-- Change prefix table entry `i`. -/
def State.updPrefix (s : State) (i : Nat) (f : Prefix → Prefix) : State :=
  { s with serve := { s.serve with prefixes := SMap.set Prefix.reset s.serve.prefixes i (f (s.prefixAt i)) } }

/-- The use of a slot ends: its generation advances and it is quarantined (R282). -/
def State.endSlot (s : State) (slot : Nat) : State :=
  { s with serve := { s.serve with slots := SMap.upd SlotGen.reset s.serve.slots slot (fun g =>
      ⟨nextGen g.gen, false, s.now + quarantineNs⟩) } }

/-- Whether a request uses an area. -/
def State.areaUsed (s : State) (a : Alloc) : Bool := s.serve.reqs.any (fun r => r.area == boardKey a.tier a.base && r.areaLen != 0)

/-- Whether a page of a prefix lies in a range. -/
def State.pinnedIn (s : State) (k len : Nat) : Bool :=
  s.serve.prefixes.any (fun p => p.2.used && p.2.pages.any (fun x =>
    decide (x < k + len ∧ k < x + max 1 ((s.modelOf p.2.model).elim 1 Model.pageBytes))))

/-- The extents of a private area whose request has gone, as prefix space (R288, R298, R300): each 2 MiB may be freed by itself. -/
def State.splitArea (s : State) (a : Alloc) : List Alloc :=
  if a.kind = 1 ∧ !s.areaUsed a ∧ s.pinnedIn (boardKey a.tier a.base) a.len then
    (List.range (a.len / mib2)).map (fun j => { a with base := a.base + j * mib2, len := mib2, kind := 5 })
  else [a]

/-- Scrub and free the request areas and prefix pages that nothing uses any more (R288, R301, R478): of an area that holds prefix pages
every 2 MiB without one. `what` and `id` say what the scrub belongs to. -/
def State.collectFor (s : State) (what id : Nat) : State :=
  let s1 : State := { s with serve := { s.serve with allocs := s.serve.allocs.flatMap s.splitArea } }
  let dead := fun (a : Alloc) => (a.kind == 1 || a.kind == 5) && !s1.areaUsed a && !s1.pinnedIn (boardKey a.tier a.base) a.len
  if s1.serve.allocs.any dead then s1.startScrub dead [] [] what id else s1

/-- Scrub and free the request areas and prefix pages that nothing uses any more. -/
def State.collect (s : State) : State := s.collectFor 0 0

/-- Drop one reference on a prefix; it is freed with its last when it is no longer pinned (R301). -/
def State.unrefPrefix (s : State) (i : Nat) : State :=
  s.updPrefix i (fun p =>
    let n := p.refs - 1
    if n = 0 ∧ !p.pinned then { Prefix.reset with gen := nextGen p.gen, until' := s.now + quarantineNs } else { p with refs := n })

/-- Drop the reference of a request on its adapter version (R244); a retired version without references is freed. -/
def State.unrefAdapter (s : State) (id ver : Nat) : State :=
  s.countRef (id % 4096) ver false

/-- A bound request holds a reference on its version (R244). -/
def State.refAdapter (s : State) (id ver : Nat) : State :=
  s.countRef (id % 4096) ver true

/-- A request leaves the module's tables: its pages are freed, its prefix loses a reference and its slot is quarantined (R282, R288,
R301). -/
def State.dropReq (s : State) (r : Req) : State :=
  let s0 := if r.preIx = 0 then s else s.unrefPrefix (r.preIx - 1)
  let s1 := { s0 with serve := { s0.serve with reqs := s0.serve.reqs.filter (fun x => x.key != r.key) } }
  let s2 := if r.home = 0 then s1.endSlot (r.handle % 2 ^ 24) else s1
  s2.collect

/-- The final completion of a request has been sent (R244, R282, R288): its reference on the adapter version goes, and it is held or
gone. -/
def State.closeReq (s : State) (k : Nat) : State :=
  match s.req k with
  | none => s
  | some r =>
    if r.state ≠ .ended then s
    else
      let s1 := s.unrefAdapter r.adapter r.aver
      let hold := match s.modelOf r.model with
        | some m => m.kvHold
        | none => 0
      if r.holdKv then s1.updReq k (fun r => { r with state := .held, holdUntil := s.now + 1000000 * hold, withheld := [] }) else s1.dropReq r

/-- A record has been sent: a final one ends the use of its slot, but for a hold (R282). -/
def State.recSent (s : State) (c : CplRec) : State :=
  match c.ends with
  | none => s
  | some slot =>
    match s.serve.reqs.find? (fun r => r.home == 0 && r.state == .ended && r.handle % 2 ^ 24 == slot) with
    | some r => s.closeReq r.key
    | none => s.endSlot slot

/-- Hand a record to its ring: written at once, or held in the backlog, or dropped when the backlog of 4,096 is full and it
may be (R287). The flag says it was dropped. -/
def State.pushRec (s : State) (i : Nat) (c : CplRec) (keep : Bool) : State × Bool :=
  let r := s.ring i
  if r.state = 0 then (s.recSent c, false)
  else if r.backlog.isEmpty && s.canWrite i then ((s.writeRec i c.bytes).recSent c, false)
  else if keep || decide (r.backlog.length < 4096) then
    (s.updRing i (fun r => { r with backlog := r.backlog ++ [c], backlogHwm := max r.backlogHwm (r.backlog.length + 1) }), false)
  else (s.updRing i (fun r => { r with dropCnt := satAdd 64 r.dropCnt 1 }), true)

/-- Write backlogged records while there is space. -/
def State.drainRing (i : Nat) : Nat → State → State
  | 0, s => s
  | f + 1, s =>
    match (s.ring i).backlog with
    | [] => s
    | c :: l =>
      if s.canWrite i then State.drainRing i f (((s.updRing i (fun r => { r with backlog := l })).writeRec i c.bytes).recSent c) else s

/-- Whether a request runs late: it has started and its deadline has passed (R288, R329). -/
def State.isLate (s : State) (r : Req) : Bool := r.started && decide (r.deadline ≠ 2 ^ 64 - 1 ∧ r.deadline < s.now)

/-- The token records of `FINAL_ONLY`, read from the request's area, and the final record of a request (R286, R287); those of a request that
another module admitted return there (R295), and that request has no more to wait for here. -/
def State.finalRecs (s : State) (r : Req) (status : Nat) : State :=
  let fl := 1 + (if s.isLate r then 2 else 0) + (if r.clamped then 4 else 0) + (if r.dropped then 8 else 0)
  let b := recBytes r.handle status fl 0 r.generated [] s.now
  if r.home ≠ 0 then ({ s with serve := { s.serve with away := s.serve.away ++ [⟨r.home - 1, r.handle, b⟩] } } : State).closeReq r.key
  else (((r.withheld.foldl (fun s k => (s.pushRec r.ring ⟨s.mem.readN k 64, none⟩ true).1) s)).pushRec r.ring ⟨b, some (r.handle % 2 ^ 24)⟩ true).1

/-- A request ends with a status (R28, R288): its counts and its records; it is held or gone once its final record has been sent. -/
def State.endReq (s : State) (k status : Nat) : State :=
  match s.req k with
  | none => s
  | some r =>
    if r.state = .held ∨ r.state = .ended then s
    else
      let s1 := s.updParcel r.parcel (fun p =>
        if r.home ≠ 0 then p
        else if r.state = .admitting then { p with refused := satAdd 64 p.refused 1 }
        else { p with
          endedOk := if status = 0 then satAdd 64 p.endedOk 1 else p.endedOk
          endedOther := if status = 0 then p.endedOther else satAdd 64 p.endedOther 1
          endedLate := if s.isLate r then satAdd 64 p.endedLate 1 else p.endedLate })
      (s1.updReq k (fun r => { r with state := .ended, holdKv := r.holdKv && r.state != .admitting })).finalRecs r status

/-! Shutdowns that wait for requests to end. -/

/-- Whether a parcel has a request that has not ended. -/
def State.hasLive (s : State) (p : Nat) : Bool := s.serve.reqs.any (fun r => r.parcel == p && r.state != .held && r.home == 0)

/-- A ring that is being destroyed is gone once no request of it is left and its last record has been written (R285, R287): its staging
window is scrubbed. -/
def State.finishRing (s : State) (i : Nat) : State :=
  let r := s.ring i
  if r.state = 2 ∧ r.backlog.isEmpty ∧ !s.serve.reqs.any (fun x => x.ring == i && x.home == 0 && x.state != .held) then
    let s1 := s.updRing i (fun _ => Ring.reset)
    let s2 := { s1 with mail := { s1.mail with qps := s1.mail.qps.filter (fun q => q.ring != some i) } }
    let s3 := s2.startScrub (fun a => a.kind == 2 && a.id == i) [] [] 5 r.owner
    match r.destroy with
    | some w => s3.complete w 0 []
    | none => s3
  else s

/-- End a list of requests with one status. -/
def State.endAll (s : State) (l : List Req) (status : Nat) : State := l.foldl (fun s r => s.endReq r.key status) s

/-- A ring shuts down (R285): unread entries are never read, waiting requests end with `PARCEL_DISABLED`. -/
def State.destroyRing (s : State) (i : Nat) (w : Option Waiter) : State :=
  let s1 := s.updRing i (fun r => { r with state := 2, posted := r.readIx, destroy := w })
  (s1.endAll (s1.serve.reqs.filter (fun r => r.ring == i && r.home == 0 && !r.started)) 0x0201).finishRing i

/-- The plot that holds a model's plat, as its lead block. -/
def State.plotOfModel (s : State) (id : Nat) : Option Nat :=
  (List.range 64).find? (fun b => match s.plot b with
    | some p => p.model == id && p.state != .free
    | none => false)

/-- A model that leaves the registry has no space left: its tables are cleared (R306), its number is free, quarantined, with a new
generation (R224, R347). -/
def State.endModel (s : State) (i : Nat) : State :=
  let m := s.entry i
  let s1 := (s.clearTables (s.modelId i)).updEntry i (fun m => { Model.reset with gen := nextGen m.gen, freeAt := s.now + quarantineNs })
  match m.evict with
  | some w => s1.complete w 0 []
  | none => s1

/-- A model in Reservoir but not in Field is to be placed and filled (R26). -/
def State.wantFill (s : State) (id : Nat) : State :=
  let s1 := s.updModel id (fun m => { m with state := .filling })
  { s1 with sched := { s1.sched with waits := s1.sched.waits ++ [⟨id, false, none⟩] } }

/-- The Field part of an eviction has ended (Table 8-5, R237): the entry is `READY`, or `LOADING` where shards were lost meanwhile,
or its allocations are scrubbed; what still waits for the model fills it again (R26). -/
def State.endEvict (s : State) (i : Nat) : State :=
  let m := s.entry i
  if m.state = .removing then s.startScrub (fun a => a.kind == 0 && a.id == i) [] [] 2 i
  else if m.state = .evicting then
    let id := s.modelId i
    let s1 := s.updEntry i (fun m => { m with
      state := if m.shards.all (fun h => h.state == 1) then .ready else .loading
      evict := none })
    let s1 := if (s1.entry i).state = .loading then s1.holdModel i else s1
    let s2 := match m.evict with
      | some w => s1.complete w 0 []
      | none => s1
    if (s2.entry i).state = .ready ∧ (!m.fills.isEmpty ∨ s2.serve.reqs.any (fun r => r.model == id && r.state == .queued && !r.started)) then
      s2.wantFill id
    else s2
  else s

/-- A registry entry begins to leave Field or the registry (R231, R241, Table 12-7): requests that wait are refused, saved
tasks end; without a plot, a removal scrubs at once. -/
def State.evictModel (s : State) (i : Nat) (registry : Bool) (w : Option Waiter) : State :=
  let id := s.modelId i
  let s1 := s.updEntry i (fun m => { m with state := if registry then .removing else .evicting, evictReg := registry, evict := w })
  let s2 := s1.endAll (s1.serve.reqs.filter (fun r => r.model == id && !r.started)) 0x0304
  let saved : List (Nat × Option SavedTask) := s2.sched.saved.filter (fun x => match x.2 with
    | some k => k.model == id
    | none => false)
  let s3 := saved.foldl (fun s x => match x.2 with
    | some k => (match k.task with
      | some t => t.slots.foldl (fun s y => s.endReq y.req 0x0402) s
      | none => s)
    | none => s) s2
  let s5 := { s3 with sched := { s3.sched with
    saved := saved.foldl (fun (l : SMap (Option SavedTask)) (x : Nat × Option SavedTask) => SMap.set none l x.1 none) s3.sched.saved
    waits := s3.sched.waits.filter (fun x => x.model != id) } }
  if (s5.plotOfModel id).isNone then s5.endEvict i else s5

/-- A destroyed parcel's objects go once its requests have ended (R325): rings, adapters, models and all its space. -/
def State.destroyObjects (s : State) (p : Nat) : State :=
  let s1 := (List.range 256).foldl (fun s i => if (s.ring i).owner = p ∧ (s.ring i).state ≠ 0 then s.destroyRing i none else s) s
  let mine : List (Nat × Adapter) := s1.adapters.filter (fun a => a.2.used && a.2.owner == p)
  let s2 := (mine.foldl (fun (s : State) a =>
    ((a.2.versions.filter (fun v => v.state == 1)).foldl (fun s v => (s.endFetch (versionRef a.1 v.num) 0x0201).freeVersion a.1 v.num) s).retireAdapter
      a.1 a.2.withdraw) s1).settleAdapters
  (List.range 256).foldl (fun s i =>
    let m := s.entry i
    if m.state ≠ .free ∧ m.owner = p ∧ m.state ≠ .removing then (s.endFetch (modelRef i) 0x0201).evictModel i true none else s) s2

/-- The private space of a parcel that is scrubbed at its shutdown: held requests and prefixes go with it (R325). -/
def State.dropHeld (s : State) (p : Nat) : State :=
  let l := s.serve.reqs.filter (fun r => r.parcel == p && r.home == 0)
  let pre : List (Nat × Prefix) := s.serve.prefixes.filter (fun x => x.2.used && x.2.parcel == p)
  let s1 : State := { s with serve := { s.serve with reqs := s.serve.reqs.filter (fun r => !(r.parcel == p && r.home == 0)) } }
  let s2 := pre.foldl (fun s x => s.updPrefix x.1 (fun y =>
    { Prefix.reset with gen := nextGen y.gen, until' := s.now + quarantineNs })) s1
  (l.foldl (fun s r => s.endSlot (r.handle % 2 ^ 24)) s2).collectFor 5 p

/-- A draining parcel whose last request has ended begins its scrub (Table 12-2). -/
def State.settleParcel (s : State) (p : Nat) : State :=
  let x := s.parcel p
  if x.state = .draining ∧ !s.hasLive p then
    let s1 := s.dropHeld p
    if x.destroy then
      (s1.destroyObjects p).updParcel p (fun x => { x with state := .destroying })
    else s1.updParcel p (fun x => { x with state := .scrubbing })
  else s

/-- Go through what waits for requests to end. -/
def State.settle (s : State) : State :=
  let s1 := (s.serve.rings.foldl (fun s r => s.finishRing r.1) s).settleAdapters
  s1.parcels.foldl (fun s p => s.settleParcel p.1) s1

/-- COMPLETION_BACKLOG_DRAIN (R285, R287): records that wait are written while there is space. -/
def execCompletionBacklogDrain (ring : Fin 256) (s : State) : Host.Outcome State Fault Refusal :=
  .next (State.drainRing ring.val (s.ring ring.val).backlog.length s).settle

/-! The intake path. -/

/-- The intake queue of a ring: a system queue of its quadrant (R279, R251). -/
def intakeQueue (i : Nat) : Nat := 4096 + i

/-- Entry `i` of a ring's entry area. -/
def Ring.entryAt (r : Ring) (i : Nat) : Bytes := (SMap.get [] r.entries i).take 64 ++ zeros (64 - (SMap.get [] r.entries i).length)

/-- The first failed check of Table 10-2. -/
def State.intakeCheck (s : State) (i : Nat) (e : Bytes) (slot : Nat) : Option Nat :=
  let r := s.ring i
  let g := SMap.get SlotGen.reset s.serve.slots slot
  let prompt := leAt e 0x20 4
  let par := leAt e 0x30 2
  if leAt e 0 4 ≠ slot + g.gen * 2 ^ 24 then some 0x0104
  else if 2 < leAt e 6 1 ∨ (prompt = 0 ∧ leAt e 0x10 8 = 0) ∨ 4096 < par ∨ par % 4 ≠ 0 ∨ leAt e 0x28 8 % 64 ≠ 0 ∨
      r.stageLen < leAt e 0x28 8 + 4 * prompt + par then some 0x0102
  else if (s.cistern r.quad).room 16 < 2 then some 0x0202
  else none

/-- The request an intake entry makes (Table 10-1), before admission. -/
def reqOf (i parcel : Nat) (e : Bytes) : Req where
  handle := leAt e 0 4
  ring := i
  parcel := parcel
  model := leAt e 4 2
  adapter := leAt e 8 4
  aver := 0
  prefixH := leAt e 0x10 8
  preIx := 0
  start := 0
  deadline := leAt e 0x18 8
  prompt := leAt e 0x20 4
  maxNew := leAt e 0x24 4
  generated := 0
  pos := 0
  specMode := leAt e 6 1
  specWidth := leAt e 7 1
  holdKv := bitB (leAt e 0xC 4) 0
  finalOnly := bitB (leAt e 0xC 4) 1
  stageOff := leAt e 0x28 8
  paramLen := leAt e 0x30 2
  state := .admitting
  started := false
  clamped := false
  dropped := false
  withdrawn := false
  area := 0
  areaLen := 0
  pageTab := 0
  tokens := 0
  params := 0
  spec := 0
  pageBase := 0
  pages := 0
  dTab := 0
  dBase := 0
  dPages := 0
  withheld := []
  holdUntil := 0
  away := false
  runsOn := 0
  home := 0

/-- Whether the intake path reads: in `SERVE`, while no drain to a lower state runs (R445, R455). -/
def Power.reads (p : Power) : Bool := p.mode == .serve && p.going.isNone

/-- Read one posted entry (R283): none when its slot is in use or quarantined (R282), or the intake path does not read. -/
def State.readEntry (s : State) (i : Nat) : Option State :=
  let r := s.ring i
  if r.state ≠ 1 ∨ r.posted = r.readIx ∨ !s.power.reads then none
  else
    let ix := r.readIx % r.size
    let slot := r.handleBase + ix
    let g := SMap.get SlotGen.reset s.serve.slots slot
    if g.busy ∨ s.now < g.until' then none
    else
      let e := r.entryAt ix
      let s1 := s.updRing i (fun r => { r with readIx := (r.readIx + 1) % 65536, readCnt := satAdd 64 r.readCnt 1 })
      match s1.intakeCheck i e slot with
      | some st =>
        let s2 : State := { s1 with serve := { s1.serve with slots := SMap.upd SlotGen.reset s1.serve.slots slot (fun g => { g with busy := true }) } }
        some ((s2.updRing i (fun r => { r with refusedCnt := satAdd 64 r.refusedCnt 1 })).pushRec i
          ⟨recBytes (leAt e 0 4) st 1 0 0 [] s.now, some slot⟩ true).1
      | none =>
        let items := [e.take 32, e.drop 32]
        (match s1.linkWhole r.quad (intakeQueue i) 0x7F (s1.latItems items) with
          | none => none
          | some s2 =>
            let s3 := s2.tick 2
            some { s3 with serve := { s3.serve with
              slots := SMap.upd SlotGen.reset s3.serve.slots slot (fun g => { g with busy := true })
              reqs := s3.serve.reqs ++ [reqOf i r.owner e] } })

/-- Read posted entries in ring order until one must wait. -/
def State.intake (i : Nat) : Nat → State → State
  | 0, s => s
  | f + 1, s =>
    match s.readEntry i with
    | none => s
    | some s1 => State.intake i f s1

/-- Whether a queue pair is live and bound to a ring (R372). -/
def State.bound (s : State) (i qp : Nat) : Bool := (s.ringQps i).any (fun q => q.num == qp && q.live)

/-- DOORBELL (R280, R283, R287): a doorbell word arrives on a queue pair at time `t`; one equal to the last changes nothing, and one that
frees slots of the completion ring lets waiting records be written. -/
def execDoorbell (ring : Fin 256) (qp : BitVec 24) (value : BitVec 64) (t : Nat) (s : State) : Host.Outcome State Fault Refusal :=
  let i := ring.val
  let s0 := s.at' t
  let r := s0.ring i
  let posted := fieldN value.toNat 0 16
  let d := fieldN value.toNat 32 16
  let last := posted + d * 2 ^ 16
  .next (if r.state ≠ 1 ∨ !s0.bound i qp.toNat ∨ last = r.lastDb then s0
    else if r.size < (posted + 65536 - r.readIx) % 65536 then s0.updRing i (fun r => { r with badDb := satAdd 64 r.badDb 1, lastDb := last })
    else
      let bad := decide ((r.written + 65536 - r.consumed) % 65536 < (d + 65536 - r.consumed) % 65536)
      let s1 := s0.updRing i (fun r => { r with
        posted := posted
        lastDb := last
        consumed := if bad then r.consumed else d
        badDb := if bad then satAdd 64 r.badDb 1 else r.badDb })
      State.intake i r.size (State.drainRing i r.backlog.length s1))

/-- INTAKE_RDMA_WRITE (R280, R372): an RDMA WRITE lands in a ring's entry area or, with `stage`, in its staging window; one
on a queue pair not bound to the ring, or outside the area, is refused. -/
def execIntakeRdmaWrite (ring : Fin 256) (qp : BitVec 24) (stage : Bool) (off : Nat) (data : Bytes) (s : State) :
    Host.Outcome State Fault Refusal :=
  let i := ring.val
  let r := s.ring i
  let n := data.length
  .next (if r.state = 0 ∨ !s.bound i qp.toNat ∨ n = 0 then s
    else if stage then (if off + n ≤ r.stageLen then s.fwWrite (boardKey 1 r.stageBase + off) data else s)
    else if 64 * r.size < off + n then s
    else s.updRing i (fun r => { r with entries :=
      (List.range ((off + n - 1) / 64 + 1 - off / 64)).foldl (fun m j =>
        let x := off / 64 + j
        SMap.set [] m x (((r.entryAt x).zipIdx).map (fun b =>
          if off ≤ 64 * x + b.2 ∧ 64 * x + b.2 < off + n then data.getD (64 * x + b.2 - off) 0 else b.1))) r.entries }))

/-- IDENTIFIER_QUARANTINE_END (R347, R282): module time reaches `t`; entries that waited for a slot are read. -/
def execIdentifierQuarantineEnd (t : Nat) (s : State) : Host.Outcome State Fault Refusal :=
  let s0 := s.at' t
  .next (s0.serve.rings.foldl (fun s r => State.intake r.1 r.2.size s) s0)

/-! Admission. -/

/-- Blocks of a plat: `PLOT_ROWS` × `PLOT_COLS` (Table 5-2). -/
def platBlocks (plat : Bytes) : Nat :=
  let o := leAt plat 0x28 4
  leAt plat o 1 * leAt plat (o + 1) 1

/-- Blocks held by plots of models a parcel owns (Table 12-1). -/
def State.blocksHeld (s : State) (p : Nat) : Nat :=
  ((List.range 64).filterMap (fun b => s.plot b)).foldl (fun n x =>
    match s.modelOf x.model with
    | some m => if m.owner = p then n + x.rows * x.cols else n
    | none => n) 0

/-- Whether a plat of a model of a parcel keeps within the parcel's `Q_BLOCKS` (Table 12-1). -/
def State.blocksFit (s : State) (owner : Nat) (plat : Bytes) : Bool :=
  owner == 0 || decide (s.blocksHeld owner + platBlocks plat ≤ (s.parcel owner).qBlocks)

/-- Whether a fill of a model would pass `Q_BLOCKS` of its owner (Table 12-1). -/
def State.blocksOk (s : State) (m : Model) : Bool := s.blocksFit m.owner (SMap.get [] m.plats m.position)

/-- The CURRENT version a request binds (R244), or none. -/
def State.bindAdapter (s : State) (id parcel model : Nat) : Option Nat :=
  match s.adapterOf id with
  | none => none
  | some a =>
    if a.owner ≠ parcel ∨ a.model ≠ model ∨ a.withdrawing then none
    else (a.versions.find? (fun v => v.state == 2)).map (fun v => v.num)

/-- The prefix table entry a handle names for a request, under R301. -/
def State.bindPrefix (s : State) (h parcel model adapter aver : Nat) : Option Nat :=
  let i := h % 2 ^ 46
  let p := s.prefixAt i
  if p.used ∧ p.pinned ∧ p.gen = h / 2 ^ 56 ∧ p.parcel = h / 2 ^ 46 % 2 ^ 10 ∧ p.parcel = parcel ∧ p.model = model ∧
      p.adapter = adapter ∧ p.aver = aver ∧ !p.damaged then some i else none

/-- The speculation a request runs with: mode, width and whether it was reduced (Table 10-1, R303). -/
def Model.specFor (m : Model) (mode width : Nat) : Nat × Nat × Bool :=
  let md := if mode ≠ 0 ∧ width = 0 then m.reg' 0x22 1 else mode
  let w := if mode ≠ 0 ∧ width = 0 then m.reg' 0x23 1 else width
  let top := if md = 1 then m.reg' 0x20 1 else if md = 2 then m.reg' 0x21 1 else 0
  if md = 0 ∨ m.stepTokens = 0 then (0, 0, false)
  else if top = 0 then (0, 0, true)
  else if top < w then (md, top, true)
  else (md, w, false)

/-- How a request's private area is laid out (R281, R287, R290, R297, R298, R302): the length of the page table, of all before the
pages, the own pages reserved, where the draft model's page table begins and the pages reserved for it. -/
structure AreaPlan where
  tab : Nat
  head : Nat
  own : Nat
  dTab : Nat
  dOwn : Nat
  dBytes : Nat
  deriving DecidableEq, Repr

/-- The private area of a request with a prefix of `l` positions, whose draft model is `d`. The pages of the draft model lie beside its own
(DESIGN CHOICE, log entry 167). -/
def areaPlan (m : Model) (d : Option Model) (r : Req) (l : Nat) : AreaPlan :=
  let pages := ceilDiv (l + r.prompt + r.maxNew) 64
  let tab := 64 * ceilDiv (8 * m.groups * pages) 64
  let toks := 64 * ceilDiv (4 * (r.prompt + r.maxNew)) 64
  let par := 64 * ceilDiv r.paramLen 64
  let dg := d.elim 0 Model.groups
  let at' := tab + toks + par + 4096 + (if r.finalOnly then 64 * r.maxNew else 0)
  ⟨tab, at' + 64 * ceilDiv (8 * dg * pages) 64, (pages - l / 64) * m.groups, at', pages * dg, d.elim 0 Model.pageBytes⟩

/-- The bytes of a private area. -/
def AreaPlan.len (a : AreaPlan) (m : Model) : Nat := upMib (a.head + a.own * m.pageBytes + a.dOwn * a.dBytes)

/-- The draft model of a request that speculates (R302, R303). -/
def State.draftOf (s : State) (m : Model) (r : Req) : Option Model :=
  if (m.specFor r.specMode r.specWidth).1 = 0 then none else (s.modelOf (m.reg' 0x24 2)).filter (fun d => d.stepTokens != 0)

/-- The region a request's space is taken in: one of its model's plot, else the ring's quadrant (R298). -/
def State.areaRegions (s : State) (r : Req) : List Nat :=
  match s.plotOfModel r.model with
  | some b => (match s.plot b with
    | some p => p.quads
    | none => [(s.ring r.ring).quad])
  | none => [(s.ring r.ring).quad]

/-- Check 5 of Table 1-5 and R284: where the private area goes, or none. -/
def State.reserve (s : State) (m : Model) (r : Req) (l : Nat) : Option (AreaPlan × Nat × Nat) :=
  let x := s.parcel r.parcel
  let live := (s.serve.reqs.filter (fun y => y.parcel == r.parcel && y.state != .admitting && y.home == 0)).length
  let a := areaPlan m (s.draftOf m r) r l
  let len := a.len m
  if x.qInflight ≤ live ∨ m.maxContext < l + r.prompt + r.maxNew ∨ x.qRes * mib2 < s.resUsed r.parcel + len then none
  else ((s.areaRegions r).findSome? (fun q => s.findSpace 1 q len)).map (fun b => (a, b, len))

/-- Write an entry of a page table (R297). -/
def State.putPage (s : State) (tab ix key : Nat) : State := s.fwWrite (tab + 8 * ix) (toLe 8 (s.boardAddr key))

/-- Take own pages so that every position below `n` has one (R298). -/
def State.growPages (s : State) (m : Model) (k n : Nat) : State :=
  match s.req k with
  | none => s
  | some r =>
    let have' := r.pages
    let want := (ceilDiv n 64 - r.start / 64) * m.groups
    let s1 := (List.range (want - have')).foldl (fun s j =>
      s.putPage r.pageTab (m.groups * (r.start / 64) + have' + j) (r.pageBase + (have' + j) * m.pageBytes)) s
    s1.updReq k (fun r => { r with pages := max have' want })

/-- Take pages of a request's draft model so that every position below `n` has one (R302). -/
def State.growDraft (s : State) (d : Model) (k n : Nat) : State :=
  match s.req k with
  | none => s
  | some r =>
    if r.dTab = 0 then s
    else
      let want := ceilDiv n 64 * d.groups
      let s1 := (List.range (want - r.dPages)).foldl (fun s j => s.putPage r.dTab (r.dPages + j) (r.dBase + (r.dPages + j) * d.pageBytes)) s
      s1.updReq k (fun r => { r with dPages := max r.dPages want })

/-- The shared pages of a prefix go into a request's page table, and its partial page is copied (R301). -/
def State.usePrefix (s : State) (m : Model) (r : Req) (i : Nat) : State :=
  let p := s.prefixAt i
  let g := m.groups
  let s1 := (List.range (g * (p.len / 64))).foldl (fun s j => s.putPage r.pageTab j (p.pages.getD j 0)) s
  if p.len % 64 = 0 then s1
  else
    let s2 := s1.growPages m r.key p.len
    (List.range g).foldl (fun s j =>
      s.fwWrite (r.pageBase + j * m.pageBytes) (s.mem.readN (p.pages.getD (g * (p.len / 64) + j) 0) m.pageBytes)) s2

/-- An admitted request (R284, R288, R298): its references, its area, its prompt and parameters, its prefix pages. -/
def State.admitted (s : State) (m : Model) (r : Req) (aver pre l : Nat) (a : AreaPlan) (base len : Nat) : State :=
  let k := boardKey 1 base
  let sp := m.specFor r.specMode r.specWidth
  let toks := k + a.tab
  let par := toks + 64 * ceilDiv (4 * (r.prompt + r.maxNew)) 64
  let spec := par + 64 * ceilDiv r.paramLen 64
  let r1 : Req := { r with
    aver := aver, preIx := pre, start := l, pos := l, specMode := sp.1, specWidth := sp.2.1, clamped := sp.2.2,
    state := .queued, area := k, areaLen := len, pageTab := k, tokens := toks, params := par, spec := spec, pageBase := k + a.head,
    dTab := if a.dOwn = 0 then 0 else k + a.dTab, dBase := k + a.head + a.own * m.pageBytes }
  let s1 := (s.takeSpace ⟨1, base, len, r.parcel, 1, r.key⟩).setRegion 1 base len r.parcel true false
  let s2 := (s1.updReq r.key (fun _ => r1)).updParcel r.parcel (fun p => { p with admitted := satAdd 64 p.admitted 1 })
  let s3 := s2.refAdapter r.adapter aver
  let src := boardKey 1 (s.ring r.ring).stageBase + r.stageOff
  let s4 := (s3.fwWrite toks (s3.mem.readN src (4 * r.prompt))).fwWrite par (s3.mem.readN (src + 4 * r.prompt) r.paramLen)
  if pre = 0 then s4
  else (s4.updPrefix (pre - 1) (fun p => { p with refs := p.refs + 1 })).usePrefix m r1 (pre - 1)

/-- The admission checks (Table 1-5, R25, R26, R244, R284, R301) of a request, in order, and what a pass does. -/
def State.tryAdmit (s : State) (r : Req) : State :=
  let refuse := fun (st : Nat) => s.endReq r.key st
  if (s.parcel r.parcel).state ≠ .enabled then refuse 0x0201
  else match s.modelOf r.model with
  | none => refuse 0x0304
  | some m =>
    if m.stepTokens = 0 ∨ !m.allows r.parcel ∨ (m.state ≠ .ready ∧ m.state ≠ .filling ∧ m.state ≠ .filled) then refuse 0x0304
    else
      let ad := if r.adapter = 0 then some 0 else s.bindAdapter r.adapter r.parcel r.model
      match ad with
      | none => refuse 0x0305
      | some aver =>
        let pre := if r.prefixH = 0 then some 0 else (s.bindPrefix r.prefixH r.parcel r.model r.adapter aver).map (fun i => i + 1)
        match pre with
        | none => refuse 0x0306
        | some p =>
          let l := if p = 0 then 0 else (s.prefixAt (p - 1)).len
          match s.reserve m r l with
          | none => refuse 0x0202
          | some (a, base, len) =>
            if m.state = .ready then
              if s.blocksOk m then (s.admitted m r aver p l a base len).wantFill r.model else refuse 0x0202
            else s.admitted m r aver p l a base len

/-- ADMISSION (R25, R256, R284): firmware takes the next entry of a ring's intake queue, or the idle item where it is empty. -/
def execAdmission (ring : Fin 256) (t : Nat) (s : State) : Host.Outcome State Fault Refusal :=
  let i := ring.val
  let s0 := s.at' t
  let q := (s0.ring i).quad
  let n := intakeQueue i
  let out : State := (match s0.packetUe q n with
    | some u =>
      let s1 : State := (((s0.countTier 7 (s0.boardAddr u)).cistErr q 0x05 n 0x7F (s0.ring i).owner).popPacket q n 1025).1
      (match s1.serve.reqs.find? (fun r => r.ring == i && r.state == .admitting) with
        | some r => s1.endReq r.key 0x0404
        | none => s1)
    | none =>
      let r := s0.popPacket q n 1025
      (match r.2 with
        | [] => if ((s0.cistern q).queue n).stall then s0 else s0.idleItem q
        | (_, p) :: _ =>
          (match r.1.req (p.toNat % 2 ^ 32) with
            | some x => if x.state = .admitting ∧ x.ring = i ∧ x.home = 0 then r.1.tryAdmit x else r.1
            | none => r.1)))
  .next out.settle

/-- DEADLINE_MISSED (R27, R328, R329): module time reaches `t`; a request that has not started and whose deadline has passed
is refused. -/
def execDeadlineMissed (handle : BitVec 32) (t : Nat) (s : State) : Host.Outcome State Fault Refusal :=
  let s0 := s.at' t
  .next (match s0.req handle.toNat with
    | none => s0
    | some r =>
      if s0.time.valid ∧ !r.started ∧ (r.state = .admitting ∨ r.state = .queued) ∧ r.deadline ≠ 2 ^ 64 - 1 ∧ r.deadline < s0.now then
        (s0.endReq r.key 0x0401).settle
      else s0)

/-- KV_HOLD_EXPIRE (R288): the hold of a request's pages ends. -/
def execKvHoldExpire (handle : BitVec 32) (t : Nat) (s : State) : Host.Outcome State Fault Refusal :=
  let s0 := s.at' t
  .next (match s0.req handle.toNat with
    | none => s0
    | some r => if r.state = .held ∧ r.holdUntil ≤ s0.now then s0.dropReq r else s0)

end Sys2Proof.Machine
end

