-- ==== Sys2Proof/Machine/TileEvents.lean ====
section
/-! DEFINITION. The events of a tile core: the trigger unit (R37 to R42), retirement (R43, R142), yield (R61, R62),
`TILE_CTRL` writes (R66), landing products (R81) and self-test results (R67, R68). -/

namespace Sys2Proof.Machine

/-- SEMAPHORE_WAIT_PASS (R50): a context blocked in `WAIT`, taken for issue once its counter is above zero, takes it and its held word issues. -/
def execSemaphoreWaitPass (x : Issue) (s : State) : Host.Outcome State Fault Refusal :=
  .next (match (s.tile x.tile.val).ctx x.ctx.val with
    | some c =>
      (match c.held with
        | some w => if issuePicks x s c then (if x.parity then parityFault x c s else runWord (issueEnv x s c) w s) else s
        | none => s)
    | none => s)

/-- MMA_LAND (R81): the oldest issued matrix multiply of a bank reaches it. -/
def execMmaLand (tile : Fin 4096) (bank : Fin 2) (s : State) : Host.Outcome State Fault Refusal :=
  .next (s.updTile tile.val (fun t =>
    if bank.val = 0 then { t with a0 := t.a0.landOldest } else { t with a1 := t.a1.landOldest }))

/-! The trigger unit. -/

/-- A firing that an entry's rule allows: the context's tag and the tokens to bind (R39). -/
structure Firing where
  entry : Nat
  tag : Nat
  toks : List BoundTok
  deriving DecidableEq, Repr

/-- The element of a list with the least key, the earliest among equals. -/
def leastBy {α : Type} (key : α → Nat) : List α → Option α
  | [] => none
  | a :: l =>
    match leastBy key l with
    | none => some a
    | some b => if key b < key a then some b else some a

/-- The unbound in-window tokens of queue `j` for entry `i`, in arrival order. -/
def Tile.ripe (t : Tile) (i j : Nat) : List QEntry := (t.queue j).filter (fun q => !q.bound && t.inWindow i q.tok.tag)

/-- The tokens of tag `g`, one from each queue of a mask, earliest first; none where a queue lacks one. -/
def Tile.matchTag (t : Tile) (i g : Nat) : List Nat → Option (List BoundTok)
  | [] => some []
  | j :: l =>
    match (t.ripe i j).find? (fun q => q.tok.tag == g), Tile.matchTag t i g l with
    | some q, some r => some (⟨j, q.serial, false, q.tok⟩ :: r)
    | _, _ => none

/-- The firing that `EQUAL` allows (R39): the smallest d first (R41). -/
def Tile.firingEqual (t : Tile) (i : Nat) (e : Trig) : Option Firing :=
  match queuesOf e.inMask with
  | [] => none
  | j :: l =>
    let tags := ((t.ripe i j).map (fun q => q.tok.tag)).filter (fun g => (t.matchTag i g (j :: l)).isSome)
    match leastBy (t.dist i) tags with
    | none => none
    | some g => (t.matchTag i g (j :: l)).map (fun b => ⟨i, g, b⟩)

/-- The firing an entry's rule allows now (R39, R41). -/
def Tile.firing (t : Tile) (i : Nat) : Option Firing :=
  let e := t.trigAt i
  if !e.valid then none
  else match e.rule with
  | 0 => t.firingEqual i e
  | 1 =>
    let all := (queuesOf e.inMask).flatMap (fun j => (t.ripe i j).map (fun q => (j, q)))
    (leastBy (fun jq => t.dist i jq.2.tok.tag) all).map (fun jq =>
      ⟨i, jq.2.tok.tag, [⟨jq.1, jq.2.serial, false, jq.2.tok⟩]⟩)
  | 2 =>
    (match (t.queue e.stickyQ).getLast?, t.firingEqual i e with
      | some z, some f => some { f with toks := f.toks ++ [⟨e.stickyQ, z.serial, true, z.tok⟩] }
      | _, _ => none)
  | _ =>
    (match queuesOf e.inMask with
      | j :: _ =>
        let l := (t.ripe i j).take (e.gcnt + 1)
        if l.length = e.gcnt + 1 then
          some ⟨i, (l.getLast?.map (fun q => q.tok.tag)).getD 0, l.map (fun q => ⟨j, q.serial, false, q.tok⟩)⟩
        else none
      | [] => none)

/-- The lowest free context slot. -/
def Tile.freeSlot (t : Tile) : Option Nat := (List.range 512).find? (fun k => (t.ctx k).isNone)

/-- Whether the resources of R32 and R34 are free for an entry. -/
def Tile.hasRoom (t : Tile) (e : Trig) : Bool :=
  t.freeSlot.isSome && decide ((t.live.foldl (fun n kc => n + kc.2.vpriv) 0) + e.vpriv ≤ 1024)
    && !(e.own0 && t.a0.owner.isSome) && !(e.own1 && t.a1.owner.isSome)

/-- The entries in firing order: highest `PRIO`, then lowest index (R41). -/
def Tile.fireOrder (t : Tile) : List Nat :=
  [3, 2, 1, 0].flatMap (fun p => (List.range 64).filter (fun i => (t.trigAt i).prio == p))

/-- Mark the bound tokens in their queues (R42). -/
def Tile.bindToks (t : Tile) (l : List BoundTok) : Tile :=
  l.foldl (fun t b =>
    if b.sticky then t
    else t.setQueue b.queue ((t.queue b.queue).map (fun q => if q.serial = b.serial then { q with bound := true } else q))) t

/-- A new context (R31, R92). -/
def newCtx (t : Tile) (f : Firing) (e : Trig) (sr : BitVec 32) : Ctx where
  state := .ready
  entry := f.entry
  tag := f.tag
  pc := e.start
  loops := []
  s := SMap.set 0 (SMap.set 0 (SMap.set 0 [] 0 (BitVec.ofNat 64 f.tag)) 1 (BitVec.ofNat 64 f.entry)) 2
    (BitVec.ofNat 64 t.regs.epoch)
  p := [(0, BitVec.allOnes 64)]
  v := []
  vpriv := e.vpriv
  sr := sr
  bound := f.toks
  held := none
  yieldPoint := 0

/-- The generator seed of a context of tile `g` (R92). -/
def State.seedFor (s : State) (g : Nat) (f : Firing) : BitVec 32 :=
  match (s.tile g).lead with
  | some b =>
    (match s.plot b with
      | some p => srSeed (BitVec.ofNat 32 (leAt p.plat (leAt p.plat 0x28 4 + 8) 4)) (p.posOf g) f.entry f.tag p.sect
      | none => srSeed 0 0 f.entry f.tag 0)
  | none => srSeed 0 0 f.entry f.tag 0

/-- Whether the trigger unit may create a context (R61, R64, R65, R66). -/
def Tile.mayFire (t : Tile) : Bool :=
  !t.halted && !t.regs.stop && !t.regs.yieldReq && !t.fireStop && t.regs.state == .running

/-- One cycle of the trigger unit of a tile (R39 to R41); `parity` says that the trigger table or a queue shows a parity error (Table 2-14). -/
def fireTile (g : Nat) (parity : Bool) (s : State) : State :=
  let t := s.tile g
  if !t.mayFire then s
  else if parity then s.tileFault g 0x0F (faultInfo 0 0 0 0) 0x0403
  else match t.badEntry with
  | some i => s.tileFault g 0x01 (faultInfo 0 i 0 0) 0x0403
  | none =>
    let sat := t.fireOrder.filterMap t.firing
    let blocked := sat.any (fun f => !t.hasRoom (t.trigAt f.entry))
    let s0 := if blocked then s.setTile g (t.updRegs (fun r => { r with waitCnt := satAdd 48 r.waitCnt 1 })) else s
    let t0 := s0.tile g
    match sat.find? (fun f => t.hasRoom (t.trigAt f.entry)) with
    | none => s0
    | some f =>
      let e := t.trigAt f.entry
      if decide (e.rule = 0 ∨ e.rule = 2) && t.live.any (fun kc => kc.2.entry == f.entry && kc.2.tag == f.tag) then
        s0.tileFault g 0x08 (faultInfo e.start f.entry f.tag 0) 0x0403
      else match t.freeSlot with
      | none => s0
      | some k =>
        let own := fun (b : Bank) (on : Bool) => if on then { b with owner := some k } else b
        let t1 := (t0.bindToks f.toks).setCtx k (some (newCtx t f e (s.seedFor g f)))
        s0.setTile g { t1 with
          a0 := own t1.a0 e.own0
          a1 := own t1.a1 e.own1
          regs := { t1.regs with fireCnt := satAdd 48 t1.regs.fireCnt 1 } }

/-- TRIGGER_FIRE (R41). -/
def execTriggerFire (tile : Fin 4096) (parity : Bool) (s : State) : Host.Outcome State Fault Refusal :=
  .next (fireTile tile.val parity s)

/-! Retirement. -/

/-- Mark a tag retired for an entry, when it is in window (R43). -/
def Tile.markRetired (t : Tile) (i g : Nat) : Tile :=
  if t.inWindow i g then { t with retired := SMap.set false t.retired (512 * i + g) true } else t

/-- Advance `OLD` of an entry past every consecutive retired tag, clearing the marks it passes (R43). -/
def Tile.advanceOld (i : Nat) : Nat → Tile → Tile
  | 0, t => t
  | n + 1, t =>
    let o := SMap.get 0 t.old i
    if SMap.get false t.retired (512 * i + o) then
      Tile.advanceOld i n { t with retired := SMap.set false t.retired (512 * i + o) false,
                                   old := SMap.set 0 t.old i ((o + 1) % 512) }
    else t

/-- Free the tokens a context has bound (R42). -/
def Tile.freeToks (t : Tile) (l : List BoundTok) : Tile :=
  l.foldl (fun t b =>
    if b.sticky then t.freeSticky b.queue
    else t.setQueue b.queue ((t.queue b.queue).filter (fun q => q.serial != b.serial))) t

/-- The queue that holds an unbound token behind the window of an entry reading it (R38). -/
def Tile.behindQueue (t : Tile) : Option Nat :=
  (List.range 16).find? (fun j => (t.queue j).any (fun q => !q.bound && t.behind j q.tok.tag))

/-- Count a retirement of the sentinel entry (R142): the last one awaited sends the end report. -/
def State.sentinel (s : State) (g i : Nat) : State :=
  match (s.tile g).lead with
  | none => s
  | some b =>
    match s.plot b with
    | none => s
    | some p =>
      if g = p.tileOf (p.sectField p.sect 8 2) ∧ i = p.sectField p.sect 0x0A 1 ∧ 0 < (s.block b).regs.endRemain then
        let s1 := s.updPlotRegs b (fun r => { r with endRemain := r.endRemain - 1 })
        if (s.block b).regs.endRemain = 1 then s1.setPlot b { p with endReport := true } else s1
      else s

/-- Release a bank that a context owns. -/
def Bank.disown (b : Bank) (k : Nat) : Bank := if b.owner = some k then { b with owner := none } else b

/-- CONTEXT_RETIRE (R42, R43, R142). -/
def execContextRetire (tile : Fin 4096) (ctx : Fin 512) (s : State) : Host.Outcome State Fault Refusal :=
  let g := tile.val
  let t := s.tile g
  .next (match t.ctx ctx.val with
    | some c =>
      if c.state = .retiring then
        let t1 := (t.setCtx ctx.val none).freeToks c.bound
        let tags := if (t.trigAt c.entry).rule = 3 then c.bound.map (fun b => b.tok.tag) else [c.tag]
        let t2 := tags.foldl (fun t g => t.markRetired c.entry g) t1
        let t3 := Tile.advanceOld c.entry 512 t2
        let t4 := { t3 with
          a0 := t3.a0.disown ctx.val
          a1 := t3.a1.disown ctx.val
          regs := { t3.regs with drained := t3.fireStop && t3.live.isEmpty } }
        let s1 := (s.setTile g t4).sentinel g c.entry
        (match t4.behindQueue with
          | some j => s1.tileFault g 0x07 (faultInfo c.pc c.entry c.tag j) 0x0403
          | none => s1)
      else s
    | none => s)

/-! Yield. -/

/-- The yield record of a plot for a section and point: its offset (Table 5-5). -/
def Plot.yieldRec (p : Plot) (n : Nat) : Option Nat :=
  let off := leAt p.plat 0x34 4
  ((List.range (leAt p.plat 0x38 2)).map (fun i => off + 32 * i)).find? (fun o =>
    leAt p.plat o 1 == p.sect && leAt p.plat (o + 1) 1 == n)

/-- Keep the entries of a register table that a mask names. -/
def maskKeys {α : Type} (m : SMap α) (mask : Nat) : SMap α := m.filter (fun e => bitB mask e.1)

/-- What a tile saves (R62, R134): each parked context with the private registers its record lists, one copy of every
shared register, bank and semaphore some record names, and the unbound queued tokens. -/
def saveTile (p : Plot) (g : Nat) (t : Tile) : SavedTile :=
  let recs := t.live.filterMap (fun kc => (p.yieldRec kc.2.yieldPoint).map (fun o => (kc, o)))
  let fld := fun o off n => leAt p.plat (o + off) n
  let or' := fun off n => recs.foldl (fun a r => a ||| fld r.2 off n) 0
  { pos := p.posOf g
    ctxs := recs.map (fun r => ⟨r.1.1, { r.1.2 with
      s := maskKeys r.1.2.s (fld r.2 4 4)
      v := maskKeys r.1.2.v (fld r.2 8 8)
      p := maskKeys r.1.2.p (fld r.2 0x10 2)
      bound := [] }⟩)
    s := maskKeys t.s (or' 4 4)
    p := maskKeys t.p (or' 0x10 2)
    v := t.v.filter (fun e => recs.any (fun r => bitB (fld r.2 8 8) e.1 && decide (r.1.2.vpriv ≤ e.1)))
    a0 := if bitB (or' 0x12 1) 0 then some { t.a0.landAll with owner := none } else none
    a1 := if bitB (or' 0x12 1) 1 then some { t.a1.landAll with owner := none } else none
    sem := maskKeys t.sem (or' 0x14 4)
    queues := (t.queues.map (fun e => (e.1, e.2.filter (fun q => !q.bound)))).filter (fun e => !e.2.isEmpty) }

/-- YIELD_DONE (R62): every context of the tile is parked or free; the live set joins the plot's save. -/
def execYieldDone (tile : Fin 4096) (s : State) : Host.Outcome State Fault Refusal :=
  let g := tile.val
  let t := s.tile g
  .next (if t.regs.yieldReq && !t.regs.yieldDone && t.live.all (fun kc => kc.2.state == .yielded) then
      let s1 := s.setTile g (t.updRegs (fun r => { r with yieldDone := true, state := .parked }))
      match t.lead with
      | none => s1
      | some b =>
        (match s1.plot b with
          | some p => if p.state = .yielding then s1.setPlot b { p with saveArea := p.saveArea ++ [saveTile p g t] } else s1
          | none => s1)
    else s)

/-- Set or clear `TILE_CTRL.YIELD_REQ` (R61, Table 2-4): a clear lets parked contexts resume. -/
def Tile.setYieldReq (t : Tile) (on : Bool) : Tile :=
  if on then t.updRegs (fun r => { r with yieldReq := true })
  else
    { t with
      ctxs := t.ctxs.map (fun e => (e.1, e.2.map (fun c => if c.state = .yielded then { c with state := .ready } else c)))
      regs := { t.regs with
        yieldReq := false
        yieldDone := false
        state := if t.regs.state = .parked then .running else t.regs.state } }

/-- TILE_YIELD_REQ (R61, R66). -/
def execTileYieldReq (tile : Fin 4096) (on : Bool) (s : State) : Host.Outcome State Fault Refusal :=
  .next (s.updTile tile.val (fun t => t.setYieldReq on))

/-- TILE_STOP (R66). -/
def execTileStop (tile : Fin 4096) (on : Bool) (s : State) : Host.Outcome State Fault Refusal :=
  .next (s.updTile tile.val (fun t => t.updRegs (fun r => { r with stop := on })))

/-! Self-test. -/

/-- `TILE_STATUS`[6:0] (Table 2-16). -/
def TileRegs.status7 (r : TileRegs) : Nat :=
  (match r.state with
    | .fenced => 0
    | .idle => 1
    | .running => 2
    | .parked => 3)
  + (if r.fenceCore then 4 else 0) + (if r.fenceFull then 8 else 0) + (if r.yieldDone then 16 else 0)
  + (if r.drained then 32 else 0) + (if r.retest then 64 else 0)

/-- The registers of a tile after a self-test that found the elements `mask` failing (R67, R68): a quick test keeps bit 5
of `SELFTEST` and removes no fence; a full test that the tile passes removes them. -/
def TileRegs.selfTest (r : TileRegs) (full : Bool) (mask us : Nat) : TileRegs :=
  let old := r.selftest.toNat % 2 ^ 16
  let m := if full then mask % 128 else (mask % 32 + mask / 64 % 2 * 64) + (if bitB old 5 then 32 else 0)
  let core := decide (mask % 64 ≠ 0 ∧ (full ∨ mask % 32 ≠ 0))
  let whole := bitB mask 6
  let passed := full && decide (mask % 128 = 0)
  let fc := !passed && (r.fenceCore || core)
  let ff := !passed && (r.fenceFull || whole)
  { r with
    selftest := BitVec.ofNat 32 (m + us % 2 ^ 16 * 2 ^ 16)
    fenceCore := fc
    fenceFull := ff
    state := if fc || ff then .fenced else if r.state = .fenced then .idle else r.state }

/-- The neighbours of a tile fenced with `FENCE_FULL` disable their ports toward it (R102). -/
def State.closeLinks (s : State) (g : Nat) : State :=
  let r := tileRow g
  let c := tileCol g
  let shut := fun (s : State) (on : Bool) (n o : Nat) =>
    if on then s.updTile n (fun t => t.updRegs (fun x => { x with linkEn := clearBitN x.linkEn o })) else s
  shut (shut (shut (shut s (decide (0 < r)) (tileAt (r - 1) c) 2) (decide (c < 63)) (tileAt r (c + 1)) 3)
    (decide (r < 63)) (tileAt (r + 1) c) 0) (decide (0 < c)) (tileAt r (c - 1)) 1

/-- Apply a self-test to a tile, posting a change of the tile map (R68, Table 15-9). -/
def State.selfTestTile (s : State) (g : Nat) (full : Bool) (mask us : Nat) : State :=
  let t := s.tile g
  let r := t.regs.selfTest full mask us
  let s0 := s.setTile g { t with regs := r }
  let s1 := if r.fenceFull then s0.closeLinks g else s0
  if r.fenceCore = t.regs.fenceCore ∧ r.fenceFull = t.regs.fenceFull then s1
  else s1.post false 0x01 0x80 0 (s.parcelOf g) g
    (BitVec.ofNat 64 (r.status7 + r.selftest.toNat % 2 ^ 16 * 2 ^ 16))

/-- The failing elements a list gives for a local tile index. -/
def failMask (l : List (Fin 1024 × BitVec 7)) (i : Nat) : Nat :=
  (l.find? (fun e => e.1.val == i)).elim 0 (fun e => e.2.toNat)

/-- Apply a self-test to every tile of a quadrant (R67, R68). -/
def State.selfTestQuad (s : State) (q : Nat) (full : Bool) (fails : List (Fin 1024 × BitVec 7)) (us : Nat) : State :=
  (List.range 1024).foldl (fun s i => s.selfTestTile (1024 * q + i) full (failMask fails i) us) s

end Sys2Proof.Machine
end

