-- ==== Sys2Proof/Machine/Steps.lean ====
section
/-! DEFINITION. Steps (R289 to R294, R302, R303): batch formation, the step table, the results a step leaves, what ends a
task, and the report of expert overflow (R271). -/

namespace Sys2Proof.Machine

/-! The order of requests. -/

/-- Earliest deadline first, ties to the lower handle (R330). -/
def Req.before (a b : Req) : Bool := decide (a.deadline < b.deadline) || (a.deadline == b.deadline && decide (a.handle < b.handle))

/-- Put a request into an ordered list. -/
def insertReq (x : Req) : List Req → List Req
  | [] => [x]
  | y :: l => if x.before y then x :: y :: l else y :: insertReq x l

/-- Requests in deadline order (R330). -/
def orderReqs (l : List Req) : List Req := l.foldl (fun m x => insertReq x m) []

/-- The requests whose steps a plot of a model runs, in order. -/
def State.plotReqs (s : State) (id : Nat) : List Req :=
  orderReqs (s.serve.reqs.filter (fun r => r.model == id && !r.away))

/-- The prompt tokens a request has still to run. -/
def Req.rest (r : Req) : Nat := r.start + r.prompt - r.pos

/-- Whether a request waits with prompt tokens (R293). -/
def Req.prompting (r : Req) : Bool := (r.state == .queued || r.state == .prefill) && decide (0 < r.rest)

/-- Whether a request takes a decode slot: in `DECODE`, or queued behind a prefix with no prompt of its own. -/
def Req.decoding (r : Req) : Bool := r.state == .decode || ((r.state == .queued || r.state == .prefill) && r.rest == 0)

/-! Shares. -/

/-- Whether a request is on its plot: admitted and not ended (R294). -/
def Req.onPlot (r : Req) : Bool := r.state == .queued || r.state == .prefill || r.state == .handoff || r.state == .decode

/-- φ_lo and φ_hi of a plot: the largest `PF_MIN` and `PF_MAX` of the parcels with requests on it (R294). -/
def State.shares (s : State) (id : Nat) : Nat × Nat :=
  ((s.plotReqs id).filter Req.onPlot).foldl (fun a r => (max a.1 (s.parcel r.parcel).pfLo, max a.2 (s.parcel r.parcel).pfHi)) (0, 0)

/-- The chunk share a plot runs with (R294, R296): 256 for `PREFILL` once its decoding slots are finished, φ_lo for
`DECODE`, φ for `MIXED`. -/
def State.share (s : State) (p : Plot) : Nat :=
  match p.mark with
  | .prefill => if (s.plotReqs p.model).any Req.decoding then p.phi else 256
  | .decode => (s.shares p.model).1
  | .mixed => p.phi

/-! Composing a step. -/

/-- Whether the quadrants of a plot run their steps: in `SERVE`, drain included, outside a hold (R443, R445, R455). -/
def Power.mayStep (w : Power) : Bool := w.mode == .serve && !w.thermHold && !w.coolHold

/-- The fabric reservation records of a plat that name another member, by offset (R398, R399). -/
def State.fabRecs (s : State) (p : Plot) : List Nat :=
  let o := leAt p.plat 0x28 4
  ((List.range (leAt p.plat (o + 0x2A) 2)).map (fun i => leAt p.plat (o + 0x30) 4 + 32 * i)).filter (fun r =>
    leAt p.plat (r + 1) 1 != (s.entry (p.model % 256)).member)

/-- Whether every channel of a plot's plat is bound (R400). -/
def State.chansBound (s : State) (b : Nat) (p : Plot) : Bool :=
  (s.fabRecs p).all (fun r => let k := leAt p.plat r 1
    decide (2 ≤ k) || s.fab.chans.any (fun c => c.lead == b && c.channel == leAt p.plat (r + 2) 2 && c.out == (k == 0)))

/-- Whether a plot can begin a step: idle without a task, its channels bound (R400), no tile of it waiting for its retest (R69) and the
generation of the step free (R267). A tile that failed its retest and is fenced has had it. -/
def State.stepReady (s : State) (b : Nat) (p : Plot) : Bool :=
  p.state == .idle && p.task.isNone && s.power.mayStep && s.chansBound b p && s.genReady b (p.steps + 1) &&
    p.tiles.all (fun g => let r := (s.tile g).regs
      !r.retest || r.state == .fenced)

/-- The plot of a request's draft model when it can propose in this step: `FILLED` and idle (R302, R303). -/
def State.draftPlot (s : State) (m : Model) : Option Nat :=
  let id := m.reg' 0x24 2
  match s.modelOf id with
  | none => none
  | some d =>
    if d.state = .filled then
      (List.range 64).find? (fun b => match s.plot b with
        | some p => p.model == id && p.redo.isNone && s.stepReady b p
        | none => false)
    else none

/-- The slot of a request in decoding, with `n` proposals in the draft plot so far (R293, R303): without a draft plot, or a slot left in its
step, it is a plain one (DEDUCED, log entry 169). -/
def State.decodeSlot (s : State) (m : Model) (n : Nat) (r : Req) : StepSlot :=
  let drafts := (s.draftPlot m).isSome && decide (n < (s.modelOf (m.reg' 0x24 2)).elim 0 Model.slotsMax)
  if r.specMode = 1 ∧ drafts then ⟨r.key, 3, r.specWidth + 1, r.pos, false, r.specWidth, none⟩
  else if r.specMode = 2 ∧ drafts then ⟨r.key, 4, r.specWidth + 1, r.pos, false, r.specWidth, none⟩
  else ⟨r.key, 2, 1, r.pos, false, 0, none⟩

/-- A step in composition: its slots, its tokens, and the prompt tokens taken by each parcel. -/
structure Batch where
  slots : List StepSlot
  used : Nat
  taken : SMap Nat
  deriving DecidableEq, Repr

/-- Decode slots, in order, until one does not fit (R293 step 1). -/
def State.addDecodes (s : State) (m : Model) (lim : Nat) : List Req → Batch → Batch
  | [], b => b
  | r :: l, b =>
    let x := s.decodeSlot m (b.slots.filter (fun x => x.kind != 2)).length r
    if m.slotsMax ≤ b.slots.length ∨ lim < b.used + x.ntok then b
    else State.addDecodes s m lim l { b with slots := b.slots ++ [x], used := b.used + x.ntok }

/-- Prompt chunks, in order, until one has no token left for it (R293 step 2): none is placed ahead of an earlier deadline that waits. -/
def State.addPrompts (s : State) (m : Model) : List Req → Batch → Batch
  | [], b => b
  | r :: l, b =>
    let cap := (s.parcel r.parcel).pfHi * m.stepTokens / 256 - SMap.get 0 b.taken r.parcel
    let n := min r.rest (min (m.stepTokens - b.used) cap)
    if m.slotsMax ≤ b.slots.length ∨ n = 0 then b
    else State.addPrompts s m l
      { slots := b.slots ++ [⟨r.key, 1, n, r.pos, decide (n = r.rest), 0, none⟩], used := b.used + n
        taken := SMap.upd 0 b.taken r.parcel (fun k => k + n) }

/-- Where a request whose first step has not come is to run (R295): the tray slot of the `PREFILL` plot of its replica set with the fewest
prompt tokens waiting, ties to the lower slot; none where it runs here, on a plot that is not `DECODE`. -/
def State.promptSlot (s : State) (p : Plot) : Option Nat :=
  if p.mark ≠ .decode then none
  else (leastBy (fun q => q.waiting * 16 + q.slot) (((s.sched.sets.filter (fun v => v.model == p.model)).flatMap (fun v => v.peers)).filter
    (fun q => q.isPrefill))).map (fun q => q.slot)

/-- Where a request in `HANDOFF` goes (R295): this module's plot when it is `DECODE` with a free slot, else the tray slot of the `DECODE`
plot with the most, ties to the lower; none while no plot has one. -/
def State.decodeSlotOf (s : State) (m : Model) (p : Plot) : Option Nat :=
  let here := ((s.plotReqs p.model).filter (fun r => r.state == .decode)).length
  if p.mark = .decode ∧ here < m.slotsMax then some (s.slot % 4)
  else (leastBy (fun q => q.decodes * 16 + q.slot) (((s.sched.sets.filter (fun v => v.model == p.model)).flatMap (fun v => v.peers)).filter
    (fun q => !q.isPrefill && decide (q.decodes < m.slotsMax)))).map (fun q => q.slot)

/-- The batch of the next step of a plot (R293). While the model leaves Field only started requests are taken (R231); a `DECODE` plot leaves
the prompts that have not started to a `PREFILL` plot (R295). -/
def State.compose (s : State) (m : Model) (p : Plot) : List StepSlot :=
  let l := (s.plotReqs p.model).filter (fun r => (m.state == .filled || r.started) &&
    !(r.state == .queued && r.prompting && (s.promptSlot p).isSome))
  let prompts := l.filter Req.prompting
  let pmin := if prompts.isEmpty then 0 else s.share p * m.stepTokens / 256
  (s.addPrompts m prompts (s.addDecodes m (m.stepTokens - pmin) (l.filter Req.decoding) ⟨[], 0, []⟩)).slots

/-! The step table. -/

/-- The key of a model-relative Reservoir offset in the region of a plot's lead block (R290). -/
def State.modelKey (s : State) (b id off : Nat) : Nat :=
  boardKey 1 (SMap.get 0 (s.entry (id % 256)).resBase (blockQuad b)) + off

/-- The board address of the adapter version a request is bound to, 0 for none. -/
def State.adapterAddr (s : State) (r : Req) : Nat :=
  if r.aver = 0 then 0
  else match (s.adapter (r.adapter % 4096)).versions.find? (fun v => v.num == r.aver) with
  | some v => s.boardAddr (boardKey 1 v.base)
  | none => 0

/-- A slot record (Table 10-6). -/
def State.slotRecord (s : State) (x : StepSlot) : Bytes :=
  match s.req x.req with
  | none => zeros 64
  | some r =>
    toLe 4 x.req ++ toLe 1 x.kind ++ toLe 1 (if x.last then 1 else 0) ++ toLe 2 x.ntok ++ toLe 4 x.pos ++ toLe 1 x.spec ++ zeros 3
      ++ toLe 8 (s.boardAddr (r.tokens + 4 * (x.pos - r.start))) ++ toLe 8 (s.boardAddr (if x.kind = 5 ∧ r.dTab ≠ 0 then r.dTab else r.pageTab))
      ++ toLe 8 (if r.paramLen = 0 then 0 else s.boardAddr r.params) ++ toLe 2 r.paramLen ++ zeros 6
      ++ toLe 8 (s.adapterAddr r) ++ toLe 8 (s.boardAddr r.spec)

/-- Write the step table (R290). -/
def State.writeStepTable (s : State) (b : Nat) (m : Model) (p : Plot) (step : Nat) (slots : List StepSlot) : State :=
  s.fwWrite (s.modelKey b p.model (m.reg' 0x28 8))
    (toLe 4 (step % 2 ^ 32) ++ toLe 4 slots.length ++ zeros 56 ++ slots.flatMap s.slotRecord)

/-! Page moves. -/

/-- The moves of a request's pages `lo` up to `hi`, in page order (R290, R297). -/
def kvPages (m : Model) (k : Nat) (draft : Bool) (lo hi : Nat) : List KvMove :=
  (List.range (hi - lo)).flatMap (fun i => (List.range m.groups).map (fun g => ⟨k, m.groups * (lo + i) + g, 0, draft⟩))

/-- The pages a step reads for its slots: those with a position below `POS` (R290). -/
def kvReads (m : Model) (l : List StepSlot) : List KvMove :=
  (l.filter (fun x => x.masked.isNone)).flatMap (fun x => kvPages m x.req (x.kind == 5) 0 (ceilDiv x.pos 64))

/-- The pages a step fills: those of the positions of its input tokens, of a proposal those of its width (R290, R302). -/
def State.kvWrites (s : State) (m : Model) (l : List StepSlot) : List KvMove :=
  (l.filter (fun x => x.masked.isNone)).flatMap (fun x =>
    let n := if x.kind = 5 then max 1 ((s.req x.req).elim 1 (fun r => r.specWidth)) else x.ntok
    kvPages m x.req (x.kind == 5) (x.pos / 64) (ceilDiv (x.pos + n) 64))

/-- The page of a move: its board address, where its request is in the step that runs and its table has it. -/
def State.kvPage (s : State) (p : Plot) (v : KvMove) : Option (Req × Nat) :=
  if !p.task.all (fun k => k.slots.any (fun x => x.req == v.req && x.masked.isNone)) then none
  else (s.req v.req).bind (fun r =>
    let a := leNat (s.mem.readN ((if v.draft then r.dTab else r.pageTab) + 8 * v.ix) 8)
    if a = 0 then none else some (r, a % 2 ^ 52))

/-- The engine that moves a plot's pages: the first of its lead quadrant (DESIGN CHOICE, log entry 168). -/
def kvEngine (b : Nat) : Nat := 16 * blockQuad b

/-- The key of a page buffer of a plat, `KV_OUT` or `KV_IN` (Table 13-8), at an offset. -/
def Plot.kvBuffer (p : Plot) (m : Model) (out : Bool) (off : Nat) : Nat :=
  let a := m.reg' (if out then 0x40 else 0x38) 8
  fieldKey (p.tileOf (a / 2 ^ 22 % 4096)) (a % 2 ^ 22 + off)

/-- The command that moves a page block (R188, R290, R298): a `COPY` through the pond, `CLASS` PRIVATE with the request's handle, that takes
and gives the semaphores of its buffer. -/
def State.kvCmd (s : State) (b : Nat) (p : Plot) (m : Model) (out : Bool) (v : KvMove) (r : Req) (page : Nat) : SlCmd :=
  let buf := p.kvBuffer m out v.off
  let sem := if out then 0x4A else 0x48
  let e := s.engine (kvEngine b)
  { op := 1, flags := if out then 3 else 7, cls := 2, parcel := r.parcel, idx := kvIndex b out
    gen := (SMap.get 0 e.gens (kvIndex b out) + 1) % 64, req := r.handle
    src := if out then s.boardAddr buf else page + v.off, dst := if out then page + v.off else s.boardAddr buf
    len := 0, semTile := buf / 2 ^ 22, semFull := m.reg' sem 1 % 32, semEmpty := m.reg' (sem + 1) 1 % 32, fillVal := 0
    lead := none, chan := none, phase := .reading, entry := 0, buf := [], got := [], need := [], stale := false, slots := true
    back := false, paid := false }

/-- Whether the plat has a page in `KV_OUT` that waits to be written back (R290). -/
def State.kvFull (s : State) (p : Plot) (m : Model) : Bool :=
  decide (0 < SMap.get 0 (s.tile (p.kvBuffer m true 0 / 2 ^ 22)).sem (m.reg' 0x4A 1 % 32))

/-- Put a list of page moves into a plot. -/
def Plot.setKv (p : Plot) (out : Bool) (l : List KvMove) : Plot := if out then { p with kvOut := l } else { p with kvIn := l }

/-- Post the next page move of a plot one way, when none is at the engine and the engine has room (R290): pages that are not there and
slots that are masked have none (R292). After the step only pages that the plat has filled are written back. -/
def State.kvPost (s : State) (b : Nat) (out : Bool) : State :=
  match s.plot b with
  | none => s
  | some p =>
    match s.modelOf p.model with
    | none => s
    | some m =>
      let x := s.engine (kvEngine b)
      let l := if out && p.task.isNone && !s.kvFull p m then [] else (if out then p.kvOut else p.kvIn).dropWhile (fun v => (s.kvPage p v).isNone)
      match l with
      | [] => if (if out then p.kvOut else p.kvIn).isEmpty then s else s.setPlot b (p.setKv out [])
      | v :: _ =>
        if (x.dyn ++ x.flight).any (fun c => c.idx == kvIndex b out && c.lead.isNone) ∨ 64 ≤ x.dyn.length then s
        else match s.kvPage p v with
        | some (r, a) => (s.setPlot b (p.setKv out l)).slSubmit (kvEngine b) (s.kvCmd b p m out v r a)
        | none => s

/-- Post what can be posted of a plot's page moves. -/
def State.kvFeed (s : State) (b : Nat) : State := (s.kvPost b false).kvPost b true

/-- The move that follows one whose command has ended: the page's next block, by the header of this one, or the next page (R297). -/
def State.kvNext (s : State) (m : Model) (v : KvMove) (page : Nat) (ok : Bool) (l : List KvMove) : List KvMove :=
  let h := blockHdr (s.mem.readN ((page + v.off) % 2 ^ 50) 64)
  let off := v.off + 64 + h.padded
  if ok ∧ h.padded ≠ 0 ∧ off < m.pageBytes then { v with off := off } :: l else l

/-- A page command of a plot has ended (R290): the next one is posted. -/
def State.kvDone (s : State) (b : Nat) (out ok : Bool) : State :=
  match s.plot b with
  | none => s
  | some p =>
    match s.modelOf p.model, (if out then p.kvOut else p.kvIn) with
    | some m, v :: l =>
      let nx := match s.kvPage p v with
        | some (_, a) => s.kvNext m v a ok l
        | none => l
      (s.setPlot b (p.setKv out nx)).kvFeed b
    | _, _ => s

/-- Withdraw the page command of a plot one way, where it has not started. -/
def State.kvDrop (s : State) (b : Nat) (p : Plot) (out : Bool) : State :=
  let mine := fun (c : SlCmd) => c.lead.isNone && c.idx == kvIndex b out
  s.updEngine (kvEngine b) (fun x => { x with
    dyn := x.dyn.filter (fun c => !mine c)
    flight := x.flight.filter (fun c => !(mine c && c.phase == .waitSem)) })

/-- The page moves of a plot when its step ends (R290, R292): no more is read, and only what the plat has filled for slots that are not
masked is written back. -/
def State.kvStop (s : State) (b : Nat) : State :=
  match s.plot b with
  | none => s
  | some p =>
    match p.task, s.modelOf p.model with
    | some k, some m =>
      if p.kvIn.isEmpty ∧ p.kvOut.isEmpty then s
      else
        let keep := if s.kvFull p m then p.kvOut.filter (fun v => k.slots.any (fun x => x.req == v.req && x.masked.isNone)) else []
        let s1 := (s.setPlot b { p with kvIn := [], kvOut := keep }).kvDrop b p false
        if keep.isEmpty then s1.kvDrop b p true else s1
    | _, _ => s

/-! Starting a step. -/

/-- Start a task on an idle plot with its slots (R129, R142, R265, R290, R302, Table 5-7): its pages taken, its step table written, and
the first page moves posted. -/
def State.startTask (s : State) (b : Nat) (slots : List StepSlot) (retried : Bool := false) : State :=
  match s.plot b with
  | none => s
  | some p =>
    match s.modelOf p.model with
    | none => s
    | some m =>
      let n := p.steps + 1
      let s1 := slots.foldl (fun s x => match s.req x.req with
        | some r =>
          let n := r.start + r.prompt + r.maxNew
          if x.masked.isSome then s
          else if x.kind = 5 then s.growDraft m r.key (min (x.pos + max 1 r.specWidth) n)
          else s.growPages m r.key (min (x.pos + x.ntok) n)
        | none => s) s
      let s2 := s1.writeStepTable b m p n slots
      let s3 := slots.foldl (fun s x => s.updReq x.req (fun r =>
        if x.kind = 5 ∨ x.masked.isSome then r else { r with started := true, state := if r.state = .queued then .prefill else r.state })) s2
      let parcels := ((slots.filter (fun x => x.masked.isNone)).filterMap (fun x => (s3.req x.req).map (fun r => r.parcel))).eraseDups
      let s4 := s3.setPlot b { p with
        state := if p.yieldReq then .yielding else .running, task := some ⟨n, slots, parcels, retried, false, s.now⟩, steps := n, endReport := false, heldYield := false,
        lastSave := none, carried := [], badCopy := none, redo := none, lastStepAt := s.now
        kvIn := kvReads m slots, kvOut := p.kvOut ++ s2.kvWrites m slots }
      (((s4.updPlotRegs b (fun r => { r with endRemain := p.sectField p.sect 0xC 4 })).latStepStart b n).updTiles p.tiles
        (fun t => { t with fireStop := false, regs := { t.regs with
          state := t.regs.become .running, drained := false, yieldReq := p.yieldReq } })).examineEntries p |>.kvFeed b

/-- The requests a step start finds with their deadline passed: they are refused when module time is valid (R27, R328). -/
def State.refuseLate (s : State) (id : Nat) : State :=
  if s.time.valid then
    s.endAll (s.serve.reqs.filter (fun r => r.model == id && !r.started && r.state == .queued &&
      decide (r.deadline ≠ 2 ^ 64 - 1 ∧ r.deadline < s.now))) 0x0401
  else s

/-- STEP_START (R293, R302, R406): batch formation starts a step on an idle plot, or the step that a link failure aborted runs
again from its slot records, and the proposals it needs in the plot of its
draft model. -/
def execStepStart (lead : Fin 64) (t : Nat) (s : State) : Host.Outcome State Fault Refusal :=
  let b := lead.val
  let s0 := s.at' t
  .next (match s0.plot b with
    | none => s0
    | some p =>
      if !s0.stepReady b p ∨ p.redo.any (fun k => !k.rerun) then s0
      else
        let s1 := (s0.refuseLate p.model).settle
        match s1.modelOf p.model with
        | none => s1
        | some m =>
          if m.state ≠ .filled ∧ m.state ≠ .evicting ∧ m.state ≠ .removing then s1
          else
            let s2 := s1.setPlot b { p with mark := p.markNext, phi := p.phiNext, redo := none }
            let slots : List StepSlot := match p.redo with
              | some k => k.slots.filter (fun x => x.masked.isNone && (s2.req x.req).isSome)
              | none => s2.compose m { p with mark := p.markNext, phi := p.phiNext }
            if slots.isEmpty then s2
            else
              let spec := slots.filter (fun x => x.kind == 3 || x.kind == 4)
              let s3 := s2.startTask b slots
              match s2.draftPlot m with
              | some d => if spec.isEmpty then s3 else s3.startTask d (spec.map (fun x => { x with kind := 5, ntok := 1, spec := 0 }))
              | none => s3)

/-! The end of a step. -/

/-- The check of Table 10-8 on a result record of a slot. -/
def StepSlot.resultOk (x : StepSlot) (a nout : Nat) : Bool :=
  match x.kind with
  | 1 => if x.last then nout == 1 else nout == 0
  | 2 => nout == 1
  | 3 => decide (a ≤ x.spec) && nout == a + 1
  | 4 => decide (a ≤ min x.spec 15) && nout == a + 1
  | 5 => nout == 0
  | _ => false

/-- The completion records of a list of tokens: at most 8 in each (R287). -/
def tokenRecs (handle pos time : Nat) : Nat → List Nat → List Bytes
  | 0, _ => []
  | _ + 1, [] => []
  | f + 1, l => recBytes handle 0 0 pos 0 (l.take 8) time :: tokenRecs handle (pos + 8) time f (l.drop 8)

/-- Emit a request's tokens (R286, R287, R295): written to the request's area under `FINAL_ONLY`, returned to the admitting module, or handed to
the ring; a record dropped there marks the request. -/
def State.emitTokens (s : State) (r : Req) (pos : Nat) (toks : List Nat) : State :=
  let recs := tokenRecs r.handle pos s.now 3 toks
  let held := (s.req r.key).elim 0 (fun q => q.withheld.length)
  let place := fun (j : Nat) => r.spec + 4096 + 64 * (held + j)
  if r.home ≠ 0 then { s with serve := { s.serve with away := s.serve.away ++ recs.map (fun b => ⟨r.home - 1, r.handle, b⟩) } }
  else if r.finalOnly then
    (recs.zipIdx.foldl (fun (s : State) x => s.fwWrite (place x.2) x.1) s).updReq r.key (fun q => { q with
      withheld := q.withheld ++ (List.range recs.length).map place })
  else recs.foldl (fun s b =>
    let x := s.pushRec r.ring ⟨b, none⟩ false
    if x.2 then x.1.updReq r.key (fun q => { q with dropped := true }) else x.1) s

/-- What the result of an unmasked slot does (R291, Table 10-8, Table 10-4). -/
def State.slotResult (s : State) (p : Plot) (x : StepSlot) (r : Req) (l : Bytes) : State :=
  let nout := leAt l 6 2
  if leAt l 0 4 ≠ x.req % 2 ^ 32 ∨ !x.resultOk (leAt l 5 1) nout then s.endReq x.req 0x0403
  else if x.kind = 5 then s
  else
    let toks := (List.range (min nout (r.maxNew - r.generated))).map (fun i => leAt l (0x10 + 4 * i) 4)
    let first := if x.kind = 1 then x.pos + x.ntok else x.pos + 1
    let pos := if x.kind = 1 ∨ x.kind = 2 then x.pos + x.ntok else x.pos + toks.length
    let s1 := if toks.isEmpty then s else s.fwWrite (r.tokens + 4 * (first - r.start)) (toLe (4 * toks.length) (joinElems 32 toks))
    let s2 := s1.updReq x.req (fun q => { q with pos := pos, generated := q.generated + toks.length })
    let s3 := if toks.isEmpty then s2 else s2.emitTokens r first toks
    if x.kind = 1 ∧ !x.last then s3
    else if bitB (leAt l 4 1) 0 ∨ r.maxNew ≤ r.generated + toks.length then s3.endReq x.req 0
    else s3.updReq x.req (fun q => { q with state := if x.kind = 1 ∧ p.mark = .prefill then .handoff else .decode })

/-- What one slot of an ended step does: a masked slot ends its request; a withdrawn request ends after the step (R246); a
result for a request that is gone is dropped and counted (R346). -/
def State.slotEnd (s : State) (b : Nat) (m : Model) (p : Plot) (i : Nat) (x : StepSlot) : State :=
  match s.req x.req with
  | none => if x.masked.isSome ∨ x.kind = 5 then s else { s with time := { s.time with staleId := satAdd 32 s.time.staleId 1 } }
  | some r =>
    match x.masked with
    | some st => s.endReq x.req st
    | none =>
      let k := s.modelKey b p.model (m.reg' 0x30 8) + 80 * i
      let s1 := if (firstUe 32 s.mem.ueRes k 80).isSome then (s.countTier 6 (s.boardAddr k)).endReq x.req 0x0404
        else s.slotResult p x r (s.mem.readN k 80)
      match s1.req x.req with
      | some q => if q.withdrawn ∧ x.kind ≠ 5 then s1.endReq x.req 0x0305 else s1
      | none => s1

/-- The report of moved and bypassed copies at the end of a step (R271). -/
def State.stepReport (s : State) (b : Nat) (p : Plot) (k : Task) : State :=
  match s.routeOf b with
  | none => s
  | some (e, t) =>
    let r := (s.lateral e).table t
    let lgs := (List.range 256).filter (fun g => SMap.get 0 r.moved g != 0 || SMap.get 0 r.bypass g != 0)
    if lgs.isEmpty then s
    else
      let body := toLe 1 b ++ zeros 3 ++ toLe 4 (k.step % 2 ^ 32) ++ toLe 2 lgs.length ++ zeros 6 ++ lgs.flatMap (fun g =>
        toLe 4 g ++ toLe 4 (SMap.get 0 r.moved g) ++ toLe 4 (SMap.get 0 r.bypass g))
      k.parcels.foldl (fun s q => s.event q 3 0 0 0x0409 p.model body none) s

/-- A task ends normally (R129, R291): its results are taken and the plot has no task. -/
def State.endTask (s : State) (b : Nat) : State :=
  match s.plot b with
  | none => s
  | some p =>
    match p.task, s.modelOf p.model with
    | some k, some m =>
      let s0 := s.kvStop b
      let s1 := (s0.setPlot b { (s0.plot b).getD p with task := none, lastSave := none, carried := [] }).latStepEnd b false
      let s2 := k.slots.zipIdx.foldl (fun s x => s.slotEnd b m p x.2 x.1) s1
      (s2.stepReport b p k).settle
    | _, _ => s.setPlot b { p with task := none, lastSave := none, carried := [] }

/-- End every request of a batch: with the status its slot was masked with, or that of the task (R150, R292). -/
def State.endSlots (s : State) (l : List StepSlot) (status : Nat) : State :=
  l.foldl (fun s x => s.endReq x.req (x.masked.getD status)) s

/-- Whether the members have agreed that no degraded position of a model qualifies (R406). -/
def State.noDegraded (s : State) (id : Nat) : Bool := s.fab.agree.any (fun a => a.model == id && a.chosen == some none)

/-- A task ends aborted (R28, R198, R406): its batch ends, or waits to run again once, or after `LINK_DOWN` on a degraded plat. -/
def State.abortTask (s : State) (b status : Nat) (retry : Bool) : State :=
  match s.plot b with
  | none => s
  | some p =>
    match p.task with
    | none => s
    | some k =>
      let down := decide (status = 0x0407) && !s.noDegraded p.model
      let again := (retry && !k.retried) || down
      let s1 := (s.setPlot b { p with task := none, kvIn := [], kvOut := [], redo := if again then some { k with retried := true, rerun := down } else none }).latStepEnd b true
      let s2 := if again then s1.endSlots (k.slots.filter (fun x => x.masked.isSome)) status else s1.endSlots k.slots status
      (s2.stepReport b p k).settle

end Sys2Proof.Machine
end

