-- ==== Sys2Proof/Machine/Plots.lean ====
section
/-! DEFINITION. Tile images (R133), placement (R36, R136 to R139, R172, R173, R399), section switches (R142 to R149), forced
switches (R150, R151), yield, save and restore (R152 to R154, R340 to R345), and the release and scrub of plots (R478). -/

namespace Sys2Proof.Machine

/-! The plat. -/

/-- A field of the resource envelope (Table 5-2). -/
def platEnv (plat : Bytes) (off n : Nat) : Nat := leAt plat (leAt plat 0x28 4 + off) n



/-- A 10-bit window exponent of the envelope. -/
def Plot.accW (p : Plot) (i : Nat) : BitVec 10 := BitVec.ofNat 10 (p.env (4 + 2 * i) 2)

/-- The offset of the body of each tile image record, its kind and its `SHARE` (R133, Table 5-4). -/
def imgScan (plat : Bytes) : Nat → Nat → List (Nat × Nat × Nat)
  | 0, _ => []
  | f + 1, o =>
    let k := leAt plat (o + 2) 1
    (o + 16, k, leAt plat (o + 4) 4) :: imgScan plat f (o + 16 + (if k = 0 then 37888 else if k = 1 then 4096 else 0))

/-- The tile image records of a plat in the order they are stored. -/
def imgRecs (plat : Bytes) : List (Nat × Nat × Nat) :=
  imgScan plat (leAt plat 7 1 * (64 * platBlocks plat)) (leAt plat 0x48 8)

/-- Body offset and kind of record `n`, through `SHARE` (R133). -/
def imgOf (recs : List (Nat × Nat × Nat)) (n : Nat) : Nat × Nat :=
  let r := recs.getD n (0, 1, 0)
  if r.2.1 = 2 then (let q := recs.getD r.2.2 (0, 1, 0); (q.1, q.2.1)) else (r.1, r.2.1)

/-- The sections of a plat. -/
def Plot.sects (p : Plot) : List Nat := List.range (leAt p.plat 7 1)

/-- The positions, counted over the plot's tiles, that are pass-through in every section (R136). -/
def Plot.passAll (p : Plot) : List Bool :=
  let recs := imgRecs p.plat
  (List.range p.tiles.length).map (fun i => p.sects.all (fun n => (imgOf recs (p.sectField n 0x1C 4 + i)).2 == 1))

/-- The 40 KiB slot of a position's image (R133): a full body, or the rota of a pass-through body between zeros. -/
def imgSlot (plat : Bytes) (img : Nat × Nat) : Bytes :=
  if img.2 = 1 then zeros 32768 ++ slice plat img.1 4096 ++ zeros 4096 else slice plat img.1 37888 ++ zeros 3072

/-- Write every section image of a plat into the slices of its plot (R138). -/
def State.writeImages (s : State) (p : Plot) : State :=
  let recs := imgRecs p.plat
  p.tiles.zipIdx.foldl (fun s g => p.sects.foldl (fun (s : State) n =>
    { s with mem := s.mem.store (fieldKey g.1 (p.sectField n 0x10 4)) (imgSlot p.plat (imgOf recs (p.sectField n 0x1C 4 + g.2))) }) s) s

/-- A table of little-endian words of `w` bytes in memory. -/
def Mem.words (m : Mem) (w bits k n : Nat) : SMap (BitVec bits) :=
  (List.range n).foldl (fun t i => SMap.set 0 t i (BitVec.ofNat bits (leNat (m.readN (k + w * i) w)))) []

/-- Load the image at a slice offset into a tile (R143 steps 6 and 7): the trigger banks swap, `OLD` starts at `TBASE`, the
channels are not configured. -/
def Tile.loadImage (t : Tile) (m : Mem) (k period epoch accept : Nat) : Tile :=
  let bank := 1 - t.trigBank
  let entries : SMap (BitVec 128) := m.words 16 128 (k + 36864) 64
  let keep : SMap (BitVec 128) := t.trig.filter (fun e => decide (e.1 / 64 ≠ bank))
  { t with
    imem := m.words 128 1024 k 256
    rota := m.words 16 128 (k + 32768) 256
    trig := entries.foldl (fun x e => SMap.set 0 x (64 * bank + e.1) e.2) keep
    trigBank := bank
    old := entries.foldl (fun x e => SMap.set 0 x e.1 (trigOf e.2).tbase) []
    retired := []
    chans := []
    fireStop := false
    regs := { t.regs with period := period, epoch := epoch, epochAccept := accept, drained := false } }

/-- Load a section's image into every tile of a plot. -/
def State.loadSection (s : State) (p : Plot) (n epoch accept : Nat) : State :=
  p.tiles.foldl (fun s g =>
    s.updTile g (fun t => t.loadImage s.mem (fieldKey g (p.sectField n 0x10 4)) (p.sectField n 2 1) epoch accept)) s

/-- What a placement or a forced switch does to a tile (R36, R150): shared registers, semaphores, queues, the match store
and the turn registers are cleared, W0 and W1 come from the envelope, no context is left. -/
def Tile.clearFor (t : Tile) (p : Plot) : Tile :=
  { t with
    queues := [], matchStore := [], tregs := [], chans := [], s := [], p := [], v := [], sem := [], ctxs := [],
    a0 := { Bank.clear with w := p.accW 0 }, a1 := { Bank.clear with w := p.accW 1 },
    halted := false, fireStop := false, retired := [],
    regs := { t.regs with
      state := t.regs.become .idle
      yieldReq := false
      yieldDone := false
      drained := false } }

/-- Tokens a tile holds in queues, match store and turn registers. -/
def Tile.tokens (t : Tile) : Nat :=
  t.queues.foldl (fun n q => n + q.2.length) 0 + t.matchStore.length + (t.tregs.filter (fun r => r.2.isSome)).length

/-! Placement. -/

/-- The positions of the slots of a stream of N at offset `o` (R173). -/
def slotPlaces (n o : Nat) : List Nat := (List.range n).map (fun k => (k * 992 / n + o) % 992)

/-- The smallest offset that meets no slot taken (R173). -/
def freeOffset (taken : List Nat) (n : Nat) : Option Nat :=
  (List.range 992).find? (fun o => (slotPlaces n o).all (fun x => !taken.contains x))

/-- Reserve one stream in one region (R172, R173). -/
def State.reserveStream (s : State) (lead stream region n rate : Nat) : Option State :=
  let m := s.quad region
  let used := m.reserves.foldl (fun a r => a + r.slots) 0
  let taken := m.reserves.flatMap (fun r => slotPlaces r.slots r.offset)
  if 819 < used + n ∨ (rate = 1 ∧ !m.rate8g) then none
  else (freeOffset taken n).map (fun o => s.updQuad region (fun m => { m with reserves := m.reserves ++ [⟨lead, stream, region, n, o⟩] }))

/-- Reserve egress slots on the lowest `UP` port to a peer that has room (R385, R399). -/
def State.reserveEgress (s : State) (lead kind chan serial n : Nat) : Option State :=
  (s.directPorts serial).findSome? (fun i =>
    let l := (s.fport i).reserved
    if 819 < l.foldl (fun a r => a + r.slots) 0 + n then none
    else (freeOffset (l.flatMap (fun r => slotPlaces r.slots r.offset)) n).map (fun o =>
      s.updFport i (fun f => { f with reserved := f.reserved ++ [⟨lead, kind, chan, n, o⟩] })))

/-- The egress reservations of a plat, one after another, or none (R385, R399). -/
def State.reserveLinks (s : State) (b : Nat) (p : Plot) (o : Option State) : Option State :=
  (s.fabRecs p).foldl (fun (s : Option State) r => s.bind (fun s =>
    let n := leAt p.plat (r + 4) 2
    let serial := (s.entry (p.model % 256)).serials.getD (leAt p.plat (r + 1) 1) 0
    let tray := [1, 2, 3].any (fun k => s.traySerial (s.slot % 4 ^^^ k) == some serial)
    if leAt p.plat r 1 = 1 ∨ n = 0 then some s
    else if leAt p.plat r 1 = 3 ∧ !tray then none
    else s.reserveEgress b (leAt p.plat r 1) (if leAt p.plat r 1 = 0 then leAt p.plat (r + 2) 2 else 0) serial n)) o

/-- The model-relative Reservoir offsets that the stream records of a plat read (R227, Table 6-6). -/
def Plot.resReads (p : Plot) : List Nat :=
  (p.allStreams.filter (fun i => leAt p.plat (p.streamRec i + 1) 1 == 0 && leAt p.plat (p.streamRec i + 0x28) 1 == 2)).flatMap (fun i =>
    let o := p.streamRec i
    (List.range (leAt p.plat (o + 0x10) 4 + 1)).map (fun k =>
      stepAddr ((cmdOfBytes (slice p.plat (o + 0x40) 64) none).src) (leAt p.plat (o + 0x18) 8) k % 2 ^ 52))

/-- Whether every shard that a plat's Reservoir streams read rests in region `q` (R227). -/
def State.restsIn (s : State) (p : Plot) (q : Nat) : Bool :=
  p.resReads.all (fun a => (s.entry (p.model % 256)).shards.all (fun h =>
    h.kind != 0 || !decide (h.resOff ≤ a ∧ a < h.resOff + h.len) || h.regions.contains q))

/-- Every reservation of a plat at a position, or none (R136, R172, R227, R399). -/
def State.reserveAll (s : State) (b : Nat) (p : Plot) : Option State :=
  let res := (List.range (p.env 0x28 2)).flatMap (fun i =>
    let o := p.env 0x2C 4 + 16 * i
    (if leAt p.plat o 1 = 0xFF then p.quads else [leAt p.plat o 1 % 4]).map (fun q => (o, q)))
  let s1 := res.foldl (fun (s : Option State) x =>
    s.bind (fun s => if !s.restsIn p x.2 then none
      else s.reserveStream b (leAt p.plat (x.1 + 4) 2) x.2 (leAt p.plat (x.1 + 2) 2) (leAt p.plat (x.1 + 6) 1))) (some s)
  s.reserveLinks b p s1

/-- Free the reservations of a plot (R172, R399). -/
def State.unreserve (s : State) (b : Nat) : State :=
  let s1 := [0, 1, 2, 3].foldl (fun (s : State) q => s.updQuad q (fun m => { m with reserves := m.reserves.filter (fun r => r.lead != b) })) s
  (List.range 12).foldl (fun s i => s.updFport i (fun f => { f with reserved := f.reserved.filter (fun r => r.lead != b) })) s1

/-- Whether a block is free: no plot over it, not under scrub, in a quadrant in service whose Reservoir region is up
(R136, R169, R478, R482). -/
def State.blockFree (s : State) (b : Nat) : Bool :=
  !(s.block b).scrubbing && (s.quad (blockQuad b)).regionUp && SMap.get 0 s.power.outQuads (blockQuad b) == 0 &&
    !s.blocks.any (fun x => match x.2.plot with
      | some p => p.blocks.contains b
      | none => false)

/-- A plot before its placement: plat, model and position. -/
def newPlot (plat : Bytes) (model slot parcel r c : Nat) : Plot where
  state := .filling
  brow := r
  bcol := c
  rows := platEnv plat 0 1
  cols := platEnv plat 1 1
  model := model
  platSlot := slot
  parcel := parcel
  plat := plat
  gates := []
  sect := leAt plat 8 1
  epoch := 0
  held := 0
  heldBy := []
  accept := 0
  loading := false
  leftover := false
  drain := 0
  endReport := false
  heldSwitch := false
  heldYield := false
  release := false
  yieldReq := false
  forceCause := 0
  forceStatus := 0
  forceRetry := false
  task := none
  redo := none
  steps := 0
  mark := .mixed
  markNext := .mixed
  phi := 0
  phiNext := 0
  phiStar := 0
  movedFrom := none
  saveArea := []
  lastSave := none
  carried := []
  badCopy := none
  kvIn := []
  kvOut := []
  setStar := 0
  lastStepAt := 0

/-- The lead block of a position. -/
def Plot.lead (p : Plot) : Nat := 8 * p.brow + p.bcol

/-- Whether a position meets R136, its reservations apart. -/
def State.fits (s : State) (p : Plot) : Bool :=
  let e := p.env 2 1
  let room := p.env 0xC 4 + p.env 0x10 4
  decide (1 ≤ p.rows ∧ 1 ≤ p.cols ∧ p.brow + p.rows ≤ 8 ∧ p.bcol + p.cols ≤ 8) && p.blocks.all s.blockFree
    && (!bitB e 0 || p.brow == 0) && (!bitB e 1 || p.bcol + p.cols == 8) && (!bitB e 2 || p.brow + p.rows == 8)
    && (!bitB e 3 || p.bcol == 0)
    && (p.tiles.zip p.passAll).all (fun x =>
      let r := (s.tile x.1).regs
      let m := s.quad (tileQuad x.1)
      !r.fenceFull && (!r.fenceCore || x.2) && !r.retest && decide (room + 4096 * (m.pondPages + m.cistPages) ≤ 0x300000))

/-- The order of positions (R137): powered quadrants first, then fewest quadrants, then lowest block. -/
def State.placeKey (s : State) (p : Plot) : Nat :=
  (if p.quads.all (fun q => bitB s.power.array q) then 0 else 1000) + 100 * p.quads.length + p.lead

/-- The position a plat takes (R137), with its reservations made. -/
def State.choose (s : State) (plat : Bytes) (model slot parcel : Nat) : Option (Plot × State) :=
  let all := (List.range 64).map (fun b => newPlot plat model slot parcel (b / 8) (b % 8))
  let ok := all.filterMap (fun p => if s.fits p then (s.reserveAll p.lead p).map (fun t => (p, t)) else none)
  leastBy (fun x => s.placeKey x.1) ok

/-- The edge gates a plat's stream schedule uses at a position (R119): those of its window records that lie on an edge of the array. -/
def Plot.edgeGates (p : Plot) : List Nat :=
  ((p.allStreams.filter (fun i => leAt p.plat (p.streamRec i) 1 == 1)).map p.windowGate).filter (fun k => atGate (k / 4) (k % 4))

/-- The ports a tile of a plot may use: links inside the plot, and the gates its stream schedule uses (R102, R119). -/
def Plot.linkEn (p : Plot) (gates : List Nat) (g : Nat) : Nat :=
  let r := tileRow g - 8 * p.brow
  let c := tileCol g - 8 * p.bcol
  let on := fun (o : Nat) (inside : Bool) => if inside || gates.contains (4 * g + o) then 2 ^ o else 0
  on 0 (decide (0 < r)) + on 1 (decide (c + 1 < 8 * p.cols)) + on 2 (decide (r + 1 < 8 * p.rows)) + on 3 (decide (0 < c))

/-- The lowest of a quadrant's ceilings, its array frequency but for the plots that join it (R451). -/
def Power.ceil (p : Power) (q : Nat) : Nat :=
  min 19 (min (SMap.get 19 p.thermCeil q) (min (SMap.get 19 p.capCeil q) (SMap.get 19 p.voltCeil q)))

/-- Build the carve-out of a quadrant with the sizes it has (R165). -/
def State.buildCarve (s : State) (q : Nat) : State := s.buildQuad q (s.quad q).pondPages (s.quad q).cistPages

/-- Power up the gated quadrants of a position (R449): domains on, clock at its ceiling, the carve-out map built where FIELD was off
(R165). -/
def State.powerQuads (s : State) (qs : List Nat) : State :=
  qs.foldl (fun (s : State) q =>
    if bitB s.power.array q then s
    else
      let s0 := if bitB s.power.field q then s else s.buildCarve q
      { s0 with power := { s.power with
      array := setBitN s.power.array q
      field := setBitN s.power.field q
      gateCnt := satAdd 32 s.power.gateCnt 1
      freq := SMap.set 19 s.power.freq q (s.power.ceil q) } }) s

/-- The quadrants joined to `q` by plots that span them, transitively (R451). -/
def State.clockGroup (s : State) (q : Nat) : List Nat :=
  let step := fun (l : List Nat) => (List.range 4).filter (fun x => l.contains x || (List.range 64).any (fun b =>
    (s.plot b).any (fun p => p.quads.contains x && p.quads.any (fun y => l.contains y))))
  step (step (step [q]))

/-- The frequency of a quadrant: the lowest ceiling of its group (R451, R103). -/
def State.clockOf (s : State) (q : Nat) : Nat := (s.clockGroup q).foldl (fun n x => min n (s.power.ceil x)) 19

/-- The quadrants of a plot's group run from one frequency, the lowest among its members (R103, R451). -/
def State.joinClocks (s : State) (q : Nat) : State :=
  let f := s.clockOf q
  (s.clockGroup q).foldl (fun (s : State) x =>
    if bitB s.power.array x then { s with power := { s.power with freq := SMap.set 19 s.power.freq x f } } else s) s

/-- Offer the channel of fabric reservation record `r` of a plot to its peer (R400). -/
def State.sendBind (s : State) (p : Plot) (reply : Bool) (r : Nat) : State :=
  let m := s.entry (p.model % 256)
  let k := leAt p.plat r 1
  if 2 ≤ k then s
  else s.mgmtSend (m.serials.getD (leAt p.plat (r + 1) 1) 0) false
    ([3] ++ toLe 8 (m.reg' 0 8) ++ toLe 2 (leAt p.plat (r + 2) 2) ++ toLe 1 k ++ [if reply then 1 else 0])

/-- Place a plat at a position (R138): tiles cleared and given their windows and ports, gates and queues the plot's, page tags
INTER, the plot controller programmed, the two counters of R202 at zero, capacities without limit (R269), one array clock (R103). -/
def State.place (s : State) (p : Plot) : State :=
  let b := p.lead
  let gates := p.edgeGates
  let s1 := s.powerQuads p.quads
  let s2 := p.tiles.foldl (fun (s : State) g =>
    let s' := s.updTile g (fun t => let t := t.clearFor p
      { t with lead := some b, regs := { t.regs with
        fwinBase := p.env 0xC 4, fwinLimit := p.env 0x10 4, linkEn := p.linkEn gates g, epoch := 0, epochAccept := 0 } })
    { s' with mem := if p.env 0x10 4 = 0 then s'.mem else s'.mem.tagPages (fieldKey g (p.env 0xC 4)) (p.env 0x10 4) ⟨0, 0⟩ }) s1
  let s3 := (s2.setBlock b { s2.block b with
    plot := some { p with gates := gates }, saved := false, regs := { (s2.block b).regs with lateStall := 0, waitMax := 0 } }).initQueues b { p with gates := gates }
  let s4 := p.quads.foldl (fun s q => s.joinClocks q) (s3.clearCaps b)
  (s.fabRecs p).foldl (fun s r => s.sendBind p false r) s4

/-- The mark of a new plot (R294): `MIXED` without a replica set. -/
def Model.setId (m : Model) : Nat := if m.stepTokens = 0 then 0 else m.reg' 0x26 2

/-- Whether the `UP` links have room for every reservation of a plat (R399). -/
def State.hasLinks (s : State) (id : Nat) (m : Model) (k : Nat) : Bool :=
  (s.reserveLinks 64 (newPlot (SMap.get [] m.plats k) id k m.owner 0 0) (some s)).isSome

/-- The plats of a model that its links allow, in the order they are tried: the one in force, or for want of links to a normal
plat the degraded ones (R238, R399). -/
def State.platChoices (s : State) (id : Nat) (m : Model) : List Nat :=
  if s.hasLinks id m m.position then [m.position]
  else if m.position = 0 then
    let l : List (Nat × Bytes) := m.plats.filter (fun x => x.1 != 0 && s.hasLinks id m x.1)
    l.map (fun x => x.1)
  else []

/-- A fill that cannot be made ends (R399): the requests that wait for it, and the requests of `MODEL_FILL`, end with a status. -/
def State.dropFill (s : State) (id status : Nat) : State :=
  match s.modelOf id with
  | none => s
  | some m =>
    let s1 := s.updModel id (fun (m : Model) => { m with state := if m.state = .filling then .ready else m.state, fills := [], redo := none })
    let s2 : State := { s1 with sched := { s1.sched with waits := s1.sched.waits.filter (fun w => !(w.model == id && w.saved.isNone)) } }
    let s3 := s2.endAll (s2.serve.reqs.filter (fun r => r.model == id && !r.started && r.state == .queued)) status
    let s4 := s3.endSlots (m.redo.elim [] (fun (k : Task) => k.slots)) status
    (m.fills.foldl (fun (s : State) w => s.complete w status []) s4).settle

/-- The requests a placement waits for: those of its saved task, or those queued for its model. -/
def State.waitReqs (s : State) (w : WaitPlace) : List Req :=
  match w.saved.bind (fun i => SMap.get none s.sched.saved i) with
  | some k => (match k.task with
    | some t => t.slots.filterMap (fun x => s.req x.req)
    | none => [])
  | none => s.serve.reqs.filter (fun r => r.model == w.model && r.state == .queued)

/-- The earliest deadline among a placement's waiting requests (R330, R340). -/
def State.waitDeadline (s : State) (w : WaitPlace) : Nat := ((s.waitReqs w).map (fun r => r.deadline)).min?.getD (2 ^ 64 - 1)

/-- The key of R330: earliest deadline, saved tasks ahead of new placements, then the lower handle among the requests of that deadline. -/
def State.waitKey (s : State) (w : WaitPlace) : Nat :=
  let d := s.waitDeadline w
  let h := (((s.waitReqs w).filter (fun r => r.deadline == d)).map (fun r => r.handle)).min?.getD (2 ^ 32 - 1)
  d * 2 ^ 40 + (if w.saved.isSome then 0 else 2 ^ 36) + h

/-- Put a waiting placement into the order of R330. -/
def State.insertWait (s : State) (x : WaitPlace) : List WaitPlace → List WaitPlace
  | [] => [x]
  | y :: l => if s.waitKey x < s.waitKey y then x :: y :: l else y :: State.insertWait s x l

/-- The waiting placements in order. -/
def State.orderedWaits (s : State) : List WaitPlace := s.sched.waits.foldl (fun l x => s.insertWait x l) []

/-- The plats a waiting placement may put down, in the order they are tried. -/
def State.waitPlats (s : State) (w : WaitPlace) : List Nat :=
  match s.modelOf w.model with
  | none => []
  | some m => (match w.saved.bind (fun i => SMap.get none s.sched.saved i) with
    | some k => [k.platSlot]
    | none => s.platChoices w.model m)

/-- The plat a waiting placement puts down first. -/
def State.waitPlat (s : State) (w : WaitPlace) : Bytes :=
  match s.modelOf w.model with
  | none => []
  | some m => SMap.get [] m.plats ((s.waitPlats w).headD m.position)

/-- Where a waiting placement can be made now: the first of its plats that has a position within the owner's `Q_BLOCKS` (R136, R137,
Table 12-1), with the reservations made. -/
def State.placing (s : State) (w : WaitPlace) : Option (Plot × State) :=
  match s.modelOf w.model with
  | none => none
  | some m => (s.waitPlats w).findSome? (fun k =>
      let plat := SMap.get [] m.plats k
      if s.blocksFit m.owner plat then s.choose plat w.model k m.owner else none)

/-- Whether a waiting placement has its turn (R330): none before it in the order could be made. -/
def State.waitTurn (s : State) (w : WaitPlace) : Bool :=
  (s.sched.waits.filter (fun v => decide (s.waitKey v < s.waitKey w))).all (fun v => (s.placing v).isNone)

/-- PLACEMENT (R136 to R139, R330, R399): the Surveyor places the plat of a model whose placement waits and has its turn; one that
would pass `Q_BLOCKS` is not made (Table 12-1). -/
def execPlacement (model : Fin 256) (s : State) : Host.Outcome State Fault Refusal :=
  let id := s.modelId model.val
  .next (match s.modelOf id, s.sched.waits.find? (fun w => w.model == id && w.saved.isNone) with
    | some m, some w =>
      if s.power.mode ≠ .serve then s
      else
        let l := s.platChoices id m
        if l.isEmpty then s.dropFill id 0x0601
        else if l.all (fun k => !s.blocksFit m.owner (SMap.get [] m.plats k)) then s.dropFill id 0x0202
        else if !s.waitTurn w then s
        else match s.placing w with
        | none => s
        | some (p, s1) =>
          let s2 := s1.place p
          { s2 with sched := { s2.sched with waits := s2.sched.waits.filter (fun w => !(w.model == id && w.saved.isNone)) } }
    | _, _ => s)

/-! Release and scrub. -/

/-- Release a plot (R139, R478): its blocks are held until their scrub ends, its reservations, channels and streams go. `what`
and `id` say what ends with the scrub. -/
def State.releasePlot (s : State) (b what id : Nat) : State :=
  match s.plot b with
  | none => s
  | some p =>
    let s1 := (((s.cancelStreams b).cancelGathers b).unreserve b)
    let s2 := s1.updTiles p.tiles (fun t => let t := t.clearFor p
      { t with lead := none, regs := { t.regs with linkEn := 0, fwinBase := 0, fwinLimit := 0 } })
    let s3 := p.quads.foldl (fun (s : State) q => s.updCist q (fun c => c.clearQueues ((p.queuePlace q).getD 0) 0)) s2
    let s4 := s3.setBlock b { s3.block b with plot := none }
    let s5 : State := { s4 with
      flights := s4.flights.filter (fun f => !p.tiles.contains (f.dst / 4))
      fab := { s4.fab with chans := s4.fab.chans.filter (fun c => c.lead != b) }
      les := s4.les.foldl (fun m e => SMap.upd Lateral.reset m e.1 (fun l => { l with
        tables := l.tables.foldl (fun t x => if x.2.lead = b ∧ x.2.valid then SMap.set RTable.reset t x.1 { x.2 with valid := false } else t) l.tables })) s4.les
      power := { s4.power with emptyAt := p.quads.foldl (fun m q => SMap.set 0 m q s4.now) s4.power.emptyAt } }
    s5.startScrub (fun _ => false) p.blocks (p.tiles.map (fun g => (fieldKey g 0, p.env 0xC 4 + p.env 0x10 4))) what id

/-- Whether a plot may be released: idle, no task and none waiting to run again (R139). -/
def Plot.idle (p : Plot) : Bool := p.state == .idle && p.task.isNone && p.redo.isNone

/-- A plot goes, and its model with it (R69, R231, R241, Table 8-5): one already leaving Field goes on when the scrub ends; a served one
leaves Field as in an eviction, one in its fill keeps what waits for it, and both are `READY` after the scrub. -/
def State.freePlot (s : State) (b : Nat) : State :=
  match s.plot b with
  | none => s
  | some p =>
    match s.modelOf p.model with
    | none => s.releasePlot b 0 0
    | some m =>
      let s1 := if m.state = .filled then (s.evictModel (p.model % 256) false none).settle
        else if m.state = .filling then s.updModel p.model (fun m => { m with state := .evicting }) else s
      s1.releasePlot b 1 (p.model % 256)

/-- PLOT_RELEASE (R139, R231, R241, R478): the Surveyor releases an idle plot that no request needs. -/
def execPlotRelease (lead : Fin 64) (s : State) : Host.Outcome State Fault Refusal :=
  .next (match s.plot lead.val with
    | none => s
    | some p =>
      if !p.idle ∨ s.serve.reqs.any (fun r => r.model == p.model && !r.away && r.state != .held && r.state != .admitting) then s
      else s.freePlot lead.val)

/-- SCRUB_COMPLETE (R478): a scrub ends and its space is free. -/
def execScrubComplete (id : Nat) (s : State) : Host.Outcome State Fault Refusal :=
  .next (match SMap.get none s.sched.scrubs id with
    | none => s
    | some j =>
      let s1 := s.endScrub id
      if j.what = 1 then s1.endEvict j.id else if j.what = 2 then s1.endModel j.id
      else if j.what = 3 then s1.finishAdapter j.id else s1)

/-! Fill. -/

/-- Whether a command of a fill of a plot is still at an engine (R238): a dynamic one of parcel 0 with `CLASS` WEIGHT into the plot. -/
def State.fillRuns (s : State) (p : Plot) : Bool :=
  s.engines.any (fun (x : Nat × Engine) => (x.2.dyn ++ x.2.flight).any (fun c =>
    c.lead.isNone && c.parcel == 0 && c.cls == 1 && !c.stale && addrTier c.dst == 0 && s.isLocal c.dst && p.tiles.contains (addrKey c.dst / 2 ^ 22)))

/-- FILL_COMPLETE (R138, R149, R238): the images are in the slices, the first section is loaded with epoch 0 and an empty held
mask, and the model serves, once no command of the fill is left at an engine; a plot moved for service gives up its old place (R482). -/
def execFillComplete (lead : Fin 64) (s : State) : Host.Outcome State Fault Refusal :=
  let b := lead.val
  .next (match s.plot b with
    | none => s
    | some p =>
      if p.state ≠ .filling ∧ !(p.state == .idle && (s.modelOf p.model).elim false (fun (m : Model) => m.state == .filling)) ∨ s.fillRuns p then s
      else
        let s1 := (s.writeImages p).loadSection p p.sect 0 0
        let s2 := (s1.setPlot b { p with state := .idle, epoch := 0, held := 0, heldBy := [], accept := 0, movedFrom := none,
                                         redo := (s.modelOf p.model).elim none (fun (m : Model) => m.redo) }).updPlotRegs b
          (fun r => { r with endRemain := p.sectField p.sect 0xC 4 })
        let s3 := s2.updModel p.model (fun (m : Model) => if m.state = .filling then { m with state := .filled, fills := [], redo := none } else m)
        let ws : List Waiter := (s.modelOf p.model).elim [] (fun (m : Model) => if m.state = .filling then m.fills else [])
        let s4 := ws.foldl (fun (s : State) w => s.complete w 0 []) s3
        (match p.movedFrom with
          | some o => s4.releasePlot o 4 0
          | none => s4))

/-! Normal switches. -/

/-- A tile is drained (R144): no context, no turn register full, no paired token. -/
def Tile.isDrained (t : Tile) : Bool :=
  t.live.isEmpty && t.tregs.all (fun r => r.2.isNone) && t.matchStore.all (fun e => e.paired.isNone)

/-- Token copies of a plot on links (R145). -/
def State.inflight (s : State) (p : Plot) : Nat := (s.flights.filter (fun f => p.tiles.contains (f.dst / 4))).length

/-- Drain is complete (R145). -/
def State.drained (s : State) (p : Plot) : Bool := p.tiles.all (fun g => (s.tile g).isDrained) && s.inflight p == 0

/-- Stop firing on every tile of a plot (R64, R143 step 3). -/
def State.stopFiring (s : State) (p : Plot) : State :=
  s.updTiles p.tiles (fun t => { t with fireStop := true, regs := { t.regs with drained := t.isDrained } })

/-- SWITCH_REQUEST (R142, R143, R151): the end report reaches the plot controller. -/
def execSwitchRequest (lead : Fin 64) (s : State) : Host.Outcome State Fault Refusal :=
  let b := lead.val
  .next (match s.plot b with
    | none => s
    | some p =>
      if !p.endReport then s
      else if p.state = .running then (s.setPlot b { p with state := .switching, endReport := false }).stopFiring p
      else if p.state = .yielding then s.setPlot b { p with heldSwitch := true, endReport := false }
      else s)

/-- DRAIN_COMPLETE (R143 step 5, R147): the image load begins; tokens left unbound or unpaired are discarded and counted. -/
def execDrainComplete (lead : Fin 64) (d : Nat) (s : State) : Host.Outcome State Fault Refusal :=
  let b := lead.val
  .next (match s.plot b with
    | none => s
    | some p =>
      if p.state ≠ .switching ∨ p.loading ∨ !s.drained p then s
      else
        let n := p.tiles.foldl (fun a g => a + (s.tile g).tokens) 0
        let s1 := s.updTiles p.tiles (fun t => { t with queues := [], matchStore := [], tregs := [] })
        (s1.setPlot b { p with loading := true, leftover := decide (0 < n), drain := d }).updPlotRegs b (fun r =>
          { r with discard := satAdd 32 r.discard n }))

/-- DRAIN_BOUND (R146). -/
def execDrainBound (lead : Fin 64) (s : State) : Host.Outcome State Fault Refusal :=
  let b := lead.val
  .next (match s.plot b with
    | none => s
    | some p => if p.state = .switching ∧ !p.loading ∧ !s.drained p then s.force b 0x01 0x0403 0 else s)

/-- A held mask with the epoch of a section that parks (R149 step 1). -/
def Plot.holdEpoch (p : Plot) : Plot :=
  if bitB (p.sectField p.sect 1 1) 1 then { p with held := setBitN p.held p.epoch, heldBy := SMap.set 0 p.heldBy p.epoch p.sect } else p

/-- The epoch that follows, past those held (R149 step 3); none when no value is free. -/
def nextEpoch (held epoch : Nat) : Option Nat :=
  ((List.range 16).map (fun k => (epoch + 1 + k) % 16)).find? (fun e => !bitB held e)

/-- `EPOCH_ACCEPT` of a section (R149 step 4). -/
def Plot.acceptOf (p : Plot) (n : Nat) : Nat :=
  ((List.range 16).filter (fun e => bitB p.held e && bitB (p.sectField n 4 2) (SMap.get 0 p.heldBy e))).foldl (fun a e => a + 2 ^ e) 0

/-- Epochs held. -/
def heldCount (held : Nat) : Nat := ((List.range 16).filter (fun e => bitB held e)).length

/-- The load of a switch completes (R143 step 7, R149 steps 3 and 4): the counters step, and the next section starts or the task ends
(R143 step 8, Table 5-7, Table 5-12). Where tokens were discarded a forced switch is raised instead (R148). -/
def State.finishSwitch (s : State) (b : Nat) (p : Plot) (last : Bool) : State :=
  let n := if last then leAt p.plat 8 1 else p.sectField p.sect 3 1
  match nextEpoch p.held p.epoch with
  | none => s.force b 0x03 0x0403 0
  | some e =>
    if p.env 3 1 < heldCount p.held then s.force b 0x03 0x0403 0
    else
      let acc := p.acceptOf n
      let cyc := 233 + p.drain
      let s0 := (s.loadSection p n e acc).updPlotRegs b (fun r => { r with endRemain := p.sectField n 0xC 4 })
      if p.leftover then (s0.setPlot b { p with sect := n, epoch := e, accept := acc }).force b 0x02 0x0403 0
      else
      let s1 := s0.updPlotRegs b (fun r => { r with
        switchCnt := satAdd 48 r.switchCnt 1
        switchLast := min cyc 65535
        switchLastD := min p.drain 65535
        switchMax := max r.switchMax (min cyc 65535) })
      let p1 := { p with sect := n, carried := p.carryOn, epoch := e, accept := acc, loading := false, leftover := false, endReport := false }
      let s2 := (if last then (s1.setPlot b { p1 with state := .idle }).updTiles p.tiles (fun t =>
            { t with regs := { t.regs with state := t.regs.become .idle } })
        else if p.heldYield then
          (s1.setPlot b { p1 with state := .yielding, heldYield := false }).updTiles p.tiles (fun t => t.setYieldReq true)
        else s1.setPlot b { p1 with state := .running })
      if last then s2.endTask b else s2.examineEntries p

/-- IMAGE_LOAD_COMPLETE (R143, R147 to R149). -/
def execImageLoadComplete (lead : Fin 64) (s : State) : Host.Outcome State Fault Refusal :=
  let b := lead.val
  .next (match s.plot b with
    | none => s
    | some p =>
      if p.state ≠ .switching ∨ !p.loading then s
      else
        let last := bitB (p.sectField p.sect 1 1) 0
        let p1 := p.holdEpoch
        if last then
          if s.parkedEmpty p then (s.unpark p).finishSwitch b { p1 with held := 0, heldBy := [] } true
          else (s.unpark p).force b 0x04 0x0403 0
        else s.finishSwitch b p1 false)

/-! Forced switches. -/

/-- Zero the speculation of force flags. -/
def Plot.unforce (p : Plot) : Plot := { p with forceCause := 0, forceStatus := 0, forceRetry := false }

/-- The plot of a model whose members have agreed on a position goes once it is idle (R406): the batch moves to the degraded plat,
which is placed and filled, or ends where no position qualifies. -/
def State.degrade (s : State) (b : Nat) : State :=
  match s.plot b with
  | none => s
  | some p =>
    match s.fab.agree.find? (fun a => a.model == p.model && a.chosen.isSome), s.modelOf p.model with
    | some a, some m =>
      if p.state ≠ .idle ∨ p.task.isSome then s
      else
        let s1 := s.updFab (fun f => { f with agree := f.agree.filter (fun x => x.model != p.model) })
        let s2 := s1.setPlot b { p with redo := none }
        let slots := p.redo.elim [] (fun (k : Task) => k.slots)
        (match a.chosen.getD none with
          | some k =>
            if m.state ≠ .filled then (s2.endSlots slots 0x0407).settle.freePlot b
            else ((s2.updModel p.model (fun (m : Model) => { m with position := k, redo := p.redo })).releasePlot b 0 0).wantFill p.model
          | none => (s2.endSlots slots 0x0407).settle)
    | _, _ => s

/-- What a forced switch makes of its plot (R150, R156, R184, R320): contexts and tokens are discarded and counted, queues flushed, engine
commands cancelled, and the image of the first section loaded in the next epoch, of which none is held. -/
def State.resetPlot (s : State) (b : Nat) (p : Plot) : State :=
  let n := p.tiles.foldl (fun a g => a + (s.tile g).tokens) 0 + s.inflight p
  let held := if bitB (p.sectField p.sect 1 1) 0 && s.parkedEmpty p then 0 else p.holdEpoch.held
  let e := (nextEpoch held p.epoch).getD 0
  let first := leAt p.plat 8 1
  let s0 := if bitB (p.sectField p.sect 1 1) 0 then s.unpark p else s
  let s1 : State := { s0 with flights := s0.flights.filter (fun f => !p.tiles.contains (f.dst / 4)) }
  let s2 := (s1.updTiles p.tiles (fun t => t.clearFor p)).updPlotRegs b (fun r => { r with
    discard := satAdd 32 r.discard n, endRemain := p.sectField first 0xC 4 })
  let s3 := ((s2.flushPlot b p).cancelStreams b).cancelGathers b
  (s3.loadSection p first e 0).setPlot b { p.unforce with
    state := .idle, sect := first, epoch := e, held := 0, heldBy := [], accept := 0, endReport := false,
    heldSwitch := false, heldYield := false, yieldReq := false, loading := false, leftover := false, carried := [],
    kvIn := [], kvOut := [] }

/-- The field book has a forced switch of a plot that was `p` (R150 step 7): the cause, the fault record and the tokens discarded. -/
def State.postForced (s : State) (b : Nat) (p : Plot) : State :=
  let r := (s.block b).regs
  let pf := r.fault.cause + (if r.fault.valid then 2 ^ 8 else 0) + (if r.fault.multi then 2 ^ 9 else 0) + r.faultTile % 4096 * 2 ^ 16
  s.post false 0x03 p.forceCause (if p.task.isSome then p.forceStatus else 0) p.parcel b (BitVec.ofNat 64 (pf + r.discard % 2 ^ 32 * 2 ^ 32))

/-- The task of a forced plot that was `p` ends, and the tasks that took part in its step (R150, R276): on this module by a force, on others
by an abort notice. -/
def State.abortForced (s : State) (b : Nat) (p : Plot) : State :=
  let s1 := (s.lateralAborts b).foldl (fun (s : State) x => match s.plot x with
    | some y => if y.task.isSome then s.force x 0x0C 0x0403 0 else s
    | none => s) (s.abortTask b p.forceStatus p.forceRetry)
  let m := s1.entry (p.model % 256)
  if (s1.routeOf b).isSome ∧ 1 < m.serials.length ∧ p.forceCause ≠ 0x0D then s1.sendAbort (m.reg' 0 8) m.serials 0xFF 0 0xFF 0x0403 else s1

/-- A forced plot whose `RELEASE` bit is set goes (R150): what waits to run again ends, and the plot is released. -/
def State.dropForced (s : State) (b status : Nat) : State :=
  ((s.endSlots ((s.plot b).elim [] (fun (y : Plot) => y.redo.elim [] (fun (k : Task) => k.slots))) status).settle).freePlot b

/-- A forced switch runs (R150): the plot is reset, the field book has the event, the task ends aborted, and a plot with `RELEASE` set goes. -/
def State.forcedSwitch (s : State) (b : Nat) : State :=
  (match s.plot b with
    | none => s
    | some p =>
      if p.state ≠ .forcing then s
      else
        let s1 := (s.resetPlot b p).postForced b p
        let s2 := if p.task.isSome then s1.abortForced b p else s1
        if p.release then s2.dropForced b p.forceStatus else s2.degrade b)

/-- FORCED_SWITCH (R150): the forced switch that the controller has raised runs. -/
def execForcedSwitch (lead : Fin 64) (s : State) : Host.Outcome State Fault Refusal := .next (s.forcedSwitch lead.val)

/-- PLOT_FORCE (R150, R156): a write of `PLOT_CTRL.FORCE`; ignored while `FREE` or `FILLING`. -/
def execPlotForce (block : Fin 64) (s : State) : Host.Outcome State Fault Refusal :=
  .next (match s.plot block.val with
    | some p => if p.state = .free ∨ p.state = .filling then s else s.force block.val 0x20 0x0403 0
    | none => s)

/-- PLOT_RELEASE_BIT (R150, R156): a write of `PLOT_CTRL.RELEASE`. -/
def execPlotReleaseBit (block : Fin 64) (on : Bool) (s : State) : Host.Outcome State Fault Refusal :=
  .next (match s.plot block.val with
    | some p => if p.state = .free ∨ p.state = .filling then s else s.setPlot block.val { p with release := on }
    | none => s)

/-- STEP_LIMIT (R155 promise 15). -/
def execStepLimit (lead : Fin 64) (s : State) : Host.Outcome State Fault Refusal :=
  .next (match s.plot lead.val with
    | some p => if p.task.isSome then s.force lead.val 0x08 0x0403 0 else s
    | none => s)

/-! Yield, save and restore. -/

/-- Set `PLOT_CTRL.YIELD_REQ` (R151, R152). -/
def State.setYield (s : State) (b : Nat) : State :=
  match s.plot b with
  | none => s
  | some p =>
    if p.state = .free ∨ p.state = .filling ∨ p.yieldReq then s
    else if p.state = .switching then s.setPlot b { p with yieldReq := true, heldYield := true }
    else
      let st := if p.state = .running then PlotState.yielding else p.state
      (s.setPlot b { p with yieldReq := true, state := st }).updTiles p.tiles (fun t => t.setYieldReq true)

/-- Clear `PLOT_CTRL.YIELD_REQ` (R151, R152): a yield not yet saved ends, a held switch request proceeds. -/
def State.clearYield (s : State) (b : Nat) : State :=
  match s.plot b with
  | none => s
  | some p =>
    if p.state = .free ∨ p.state = .filling ∨ !p.yieldReq then s
    else
      let p1 := { p with yieldReq := false, heldYield := false, saveArea := [], heldSwitch := false }
      let s1 := (s.setPlot b (if p.state = .yielding then { p1 with state := if p.heldSwitch then .switching else .running } else p1)).updTiles
        p.tiles (fun t => t.setYieldReq false)
      if p.state = .yielding ∧ p.heldSwitch then s1.stopFiring p else s1

/-- PLOT_YIELD_REQ (R152). -/
def execPlotYieldReq (block : Fin 64) (on : Bool) (s : State) : Host.Outcome State Fault Refusal :=
  .next (if on then s.setYield block.val else s.clearYield block.val)

/-- YIELD_BOUND (R153). -/
def execYieldBound (lead : Fin 64) (s : State) : Host.Outcome State Fault Refusal :=
  .next (match s.plot lead.val with
    | some p => if p.state = .yielding ∧ p.tiles.any (fun g => !(s.tile g).regs.yieldDone) then s.force lead.val 0x05 0x0403 0 else s
    | none => s)

/-- The bytes of a tile's record in a save: the largest `TILE_BYTES` of its contexts' yield records, in units of 64 (R341). -/
def Plot.saveBytes (p : Plot) (t : SavedTile) : Nat :=
  64 * ceilDiv (t.ctxs.foldl (fun n c => max n ((p.yieldRec c.ctx.yieldPoint).elim 0 (fun o => leAt p.plat (o + 0x18) 8))) 0) 64

/-- Where a save of `n` bytes goes in a parcel's pre-emption area (R341): the lowest place that meets no other save. The place is a
DESIGN CHOICE, see log entry 31. -/
def State.savePlace (s : State) (par n : Nat) : Nat :=
  let l := s.sched.saved.filterMap (fun (x : Nat × Option SavedTask) => match x.2 with
    | some k => if k.parcel = par then some (k.place, k.bytes) else none
    | none => none)
  let k := boardKey 1 (s.parcel par).preArea
  ((k :: l.map (fun x => x.1 + x.2)).find? (fun a => l.all (fun x => decide (x.1 + x.2 ≤ a ∨ a + n ≤ x.1)))).getD k

/-- The bytes of a save, whose layout inside head and records the spec does not give: free values (R341, log entry 31). -/
def State.saveBytes (s : State) (n : Nat) : Bytes := (List.range n).map (fun i => Config.freeByte (s.free + i))

/-- A plot's task is saved (R152, R341, R344): its bytes are in the pre-emption area, the plot is `SAVED`, and the task waits for a place. -/
def State.keepSave (s : State) (b : Nat) (p : Plot) : State :=
  let n := p.saveArea.foldl (fun a t => a + p.saveBytes t) 0
  let k : SavedTask := {
    parcel := p.parcel, model := p.model, platSlot := p.platSlot, rows := p.rows, cols := p.cols, sect := p.sect, epoch := p.epoch,
    held := p.held, heldBy := p.heldBy, heldSwitch := p.heldSwitch, endRemain := (s.block b).regs.endRemain, task := p.task,
    steps := p.steps, mark := p.mark, phi := p.phi, tiles := p.saveArea, place := s.savePlace p.parcel (4096 + n), bytes := 4096 + n,
    kvIn := p.kvIn, kvOut := p.kvOut }
  let s0 := (s.fwWrite k.place (s.saveBytes k.bytes)).tick k.bytes
  let s1 := s0.setBlock b { s0.block b with plot := some { p with state := .saved }, saved := true }
  let i := s1.sched.nextSaved
  { s1 with sched := { s1.sched with
    saved := SMap.set none s1.sched.saved i (some k), nextSaved := i + 1, waits := s1.sched.waits ++ [⟨p.model, false, some i⟩] } }

/-- A save is gone, and its wait with it. -/
def State.forgetSave (s : State) (i : Nat) : State :=
  { s with sched := { s.sched with saved := SMap.set none s.sched.saved i none, waits := s.sched.waits.filter (fun w => w.saved != some i) } }

/-- SAVE_COMPLETE (R152, R153, R341, R344): the save is written, the plot is `SAVED` and its blocks are released; a save beyond
`SAVE_MAX` is a broken promise. -/
def execSaveComplete (lead : Fin 64) (s : State) : Host.Outcome State Fault Refusal :=
  let b := lead.val
  .next (match s.plot b with
    | none => s
    | some p =>
      if p.state ≠ .yielding ∨ p.tiles.any (fun g => !(s.tile g).regs.yieldDone) then s
      else
        if p.env 0x20 8 < p.saveArea.foldl (fun a t => a + p.saveBytes t) 0 then s.force b 0x07 0x0403 0
        else (s.keepSave b p).releasePlot b 0 0)

/-- A tile as a restore writes it back (R62, R154); a restored context owns the banks its entry names, as from its firing (R34). -/
def Tile.restore (t : Tile) (x : SavedTile) : Tile :=
  let owner := fun (own : Trig → Bool) => (x.ctxs.find? (fun c => own (t.trigAt c.ctx.entry))).map (fun c => c.slot)
  let back := fun (b : Bank) (o : Option Bank) (own : Trig → Bool) => { o.getD b with owner := owner own }
  { t with
    s := x.s, p := x.p, v := x.v, sem := x.sem, queues := x.queues
    serial := x.queues.foldl (fun n q => q.2.foldl (fun n e => max n (e.serial + 1)) n) t.serial
    a0 := back t.a0 x.a0 (fun e => e.own0), a1 := back t.a1 x.a1 (fun e => e.own1)
    ctxs := x.ctxs.foldl (fun m c => SMap.set none m c.slot (some { c.ctx with state := .ready, held := none })) [] }

/-- A plot takes up a saved task (R154, R198): its section loaded, epoch and held mask as saved, each tile's set and unbound tokens
written back, and a held switch request performed first. -/
def State.resume (s : State) (b : Nat) (p : Plot) (k : SavedTask) (task : Option Task) : State :=
  let p1 := { p with held := k.held, heldBy := k.heldBy }
  let acc := p1.acceptOf k.sect
  let s1 := s.loadSection p k.sect k.epoch acc
  let s2 := k.tiles.foldl (fun (s : State) x => s.updTile (p.tileOf x.pos) (fun t => t.restore x)) s1
  let s3 := ((s2.updTiles p.tiles (fun t => { t with regs := { t.regs with state := t.regs.become .running } })).setPlot b { p1 with
    state := if k.heldSwitch then .switching else .running
    sect := k.sect, epoch := k.epoch, accept := acc, task := task, redo := none, endReport := false, lastSave := some k, carried := [], lastStepAt := s.now,
    kvIn := k.kvIn, kvOut := k.kvOut }).updPlotRegs b
      (fun r => { r with endRemain := k.endRemain })
  (if k.heldSwitch then s3.stopFiring p else s3).kvFeed b

/-- RESTORE (R154, R330, R345): a saved task that has its turn is placed anew and taken up; one whose save cannot be read is not started, and
every request of its batch ends with `PREEMPTED`. -/
def execRestore (saved : Nat) (s : State) : Host.Outcome State Fault Refusal :=
  .next (match SMap.get none s.sched.saved saved, s.sched.waits.find? (fun w => w.saved == some saved) with
    | some k, some w =>
      if !s.power.mayStep ∨ !s.waitTurn w then s
      else match s.placing w with
      | none => s
      | some (p, s0) =>
        let b := p.lead
        match firstUe 32 s.mem.ueRes k.place k.bytes with
        | some u => (((s.countTier 6 (s.boardAddr u)).forgetSave saved).endSlots (k.task.elim [] (fun x => x.slots)) 0x0402).settle
        | none =>
        (((s0.place p).writeImages p).resume b { p with
          gates := p.edgeGates, steps := k.steps, mark := k.mark, markNext := k.mark, phi := k.phi, phiNext := k.phi, phiStar := k.phi } k k.task).forgetSave
          saved
    | _, _ => s)

/-- The batch of a task that a WEIGHT error ended runs again (R198): from the task's latest save of this step, or from the first section.
It counts as a step of its own, so that returns of the ended run are stale (R267, R276). -/
def State.rerun (s : State) (b : Nat) (p : Plot) (k : Task) : State :=
  match p.lastSave with
  | none => s.startTask b k.slots true
  | some v => (s.latStepStart b (p.steps + 1)).resume b { p with steps := p.steps + 1 } v (some { k with step := p.steps + 1 })

/-- Replace the bad copy that ended a plot's task (R198 step 1): one in Reservoir or Aquifer that a shard of its model holds from another
verified copy or from what was refetched; any other is whole when firmware says so. None when it cannot be replaced. -/
def State.mendCopy (s : State) (p : Plot) (ok : Bool) (fetched : Option Bytes) : Option State :=
  let r := modelRef (p.model % 256)
  if !ok then none
  else match p.badCopy with
  | some k => if (s.shardAt r k).isSome then s.replaceCopy r k fetched else some s
  | none => some s

/-- WEIGHT_RETRY (R198): the bad copy is replaced and the batch runs again, or it cannot be and every request of the batch ends. -/
def execWeightRetry (lead : Fin 64) (ok : Bool) (fetched : Option Bytes) (s : State) : Host.Outcome State Fault Refusal :=
  let b := lead.val
  .next (match s.plot b with
    | none => s
    | some p =>
      match p.redo with
      | none => s
      | some k =>
        if p.state ≠ .idle ∨ k.rerun then s
        else if !s.stepReady b p ∧ ok then s
        else match (s.setPlot b { p with badCopy := none }).mendCopy p ok fetched with
        | some s1 => s1.rerun b { p with badCopy := none } k
        | none => ((s.setPlot b { p with redo := none, badCopy := none }).endSlots k.slots 0x0404).settle)

end Sys2Proof.Machine
end

