-- ==== Sys2Proof/Machine/Surveyor.lean ====
section
/-! DEFINITION. The Surveyor's work beside placement: retests (R69), urgent placements and pre-emption (R330, R340, R342),
quadrant service (R482), rebalancing (R294, R296), hand-off (R295), and the end of sluice commands with what a failed one does
to fills, saves, requests, adapters and prefixes (R197, R239, R245, R301, R345). -/

namespace Sys2Proof.Machine

/-! Self-tests. -/

/-- Whether a plot's tiles still fit its plat, fences alone counted (R69, R136). -/
def State.fencesOk (s : State) (p : Plot) : Bool :=
  (p.tiles.zip p.passAll).all (fun x => let r := (s.tile x.1).regs
    !r.fenceFull && (!r.fenceCore || x.2))

/-- A plot whose fences no longer fit its plat is released, as a Field-scope eviction does (R69, R136). -/
def State.refit (s : State) (b : Nat) (p : Plot) : State :=
  if s.fencesOk p then s else s.freePlot b

/-- SINGLE_TILE_RETEST (R69): the quick self-test of a marked tile whose plot is idle, or that holds none. A new fence that does
not fit the plat takes the plot away as a Field-scope eviction does. -/
def execSingleTileRetest (tile : Fin 4096) (fails : BitVec 7) (us : BitVec 16) (s : State) : Host.Outcome State Fault Refusal :=
  let g := tile.val
  let t := s.tile g
  let idle := match t.lead with
    | some b => (s.plot b).elim true (fun p => p.state == .idle)
    | none => true
  .next (if !t.regs.retest ∨ !idle then s
    else
      let s1 := s.selfTestTile g false fails.toNat us.toNat
      let bad := decide ((fails.toNat % 32 ≠ 0) ∨ bitB fails.toNat 6)
      let s2 := if bad then s1 else s1.updTile g (fun t => t.updRegs (fun r => { r with retest := false }))
      match t.lead with
      | none => s2
      | some b =>
        (match s2.plot b with
          | none => s2
          | some p =>
            s2.refit b p))

/-! Urgent placements. -/

/-- Whether a placement is urgent now: its deadline lies within `HORIZON`, or a policy module has made it so (R340, R415). -/
def State.urgent (s : State) (w : WaitPlace) : Bool :=
  w.urgent || (s.time.surveyCfg != 0 && decide (s.waitDeadline w ≤ s.now + s.time.surveyCfg))

/-- The plots over a block that some plot of the state covers. -/
def State.plotsOver (s : State) (bs : List Nat) : List Nat :=
  (List.range 64).filter (fun b => match s.plot b with
    | some p => p.blocks.any (fun x => bs.contains x)
    | none => false)

/-- The state as it would be with plots gone and every scrub over: what a position is tried against. -/
def State.without (s : State) (gone : List Nat) : State :=
  let s1 := gone.foldl (fun (s : State) b => (s.unreserve b).setBlock b { s.block b with plot := none }) s
  { s1 with blocks := (s1.blocks.map (fun x => x.1)).foldl (fun m b => SMap.upd Block.reset m b (fun x => { x with scrubbing := false })) s1.blocks }

/-- The plots that have stopped for a save, whose blocks are on their way to be free. -/
def State.leaving (s : State) : List Nat :=
  (List.range 64).filter (fun b => match s.plot b with
    | some p => p.state == .yielding || p.heldYield
    | none => false)

/-- Positions a plat could take once the plots in `gone` have left. -/
def State.positions (s : State) (plat : Bytes) (id : Nat) (gone : List Nat) : List Plot :=
  let t := s.without gone
  ((List.range 64).map (fun b => newPlot plat id 0 0 (b / 8) (b % 8))).filter (fun p => t.fits p && (t.reserveAll p.lead p).isSome)

/-- The requests a plot's model still has for it. -/
def State.plotWanted (s : State) (p : Plot) : Bool :=
  s.serve.reqs.any (fun r => r.model == p.model && !r.away && r.state != .held && r.state != .admitting)

/-- Release idle plots without waiting requests, least recently stepped first, until a position is free (R340 step 1). -/
def State.releaseIdle (s : State) (plat : Bytes) (id : Nat) : Nat → State
  | 0 => s
  | f + 1 =>
    if !(s.positions plat id s.leaving).isEmpty then s
    else
      let idle := (List.range 64).filter (fun b => match s.plot b with
        | some p => p.idle && !s.plotWanted p
        | none => false)
      match leastBy (fun b => ((s.plot b).map (fun p => p.lastStepAt)).getD 0) idle with
      | none => s
      | some b => State.releaseIdle (s.freePlot b) plat id f

/-- The earliest deadline among the requests of a plot's step. -/
def State.stepDeadline (s : State) (p : Plot) : Nat :=
  match p.task with
  | some t => (t.slots.filterMap (fun x => (s.req x.req).map (fun r => r.deadline))).min?.getD (2 ^ 64 - 1)
  | none => 2 ^ 64 - 1

/-- Bytes of a parcel's pre-emption area in use, saves under way counted whole (R341). -/
def State.preUsed (s : State) (par : Nat) : Nat :=
  s.sched.saved.foldl (fun n (x : Nat × Option SavedTask) => match x.2 with
    | some k => if k.parcel = par then n + k.bytes else n
    | none => n) 0
  + (s.leaving.filterMap (fun b => s.plot b)).foldl (fun n p => if p.parcel = par then n + p.env 0x20 8 else n) 0

/-- Whether a plot is a candidate for pre-emption against a deadline (R342). -/
def State.candidate (s : State) (b d : Nat) : Bool :=
  match s.plot b with
  | none => false
  | some p => (p.state == .running || p.state == .switching) && p.task.isSome && decide (d < s.stepDeadline p) &&
      decide (s.preUsed p.parcel + p.env 0x20 8 ≤ (s.parcel p.parcel).qPreempt * mib2) && decide (0 < leAt p.plat 0x38 2)

/-- The lists of `n` members of a list, in its order. -/
def picks : Nat → List Nat → List (List Nat)
  | 0, _ => [[]]
  | _ + 1, [] => []
  | n + 1, x :: l => (picks n l).map (fun y => x :: y) ++ picks (n + 1) l

/-- Whether the pre-emption areas take the saves of a set of plots together (R341; DEDUCED, log entry 187). -/
def State.savesFit (s : State) (l : List Nat) : Bool :=
  let ps := l.filterMap (fun b => s.plot b)
  ps.all (fun p => decide (s.preUsed p.parcel + ps.foldl (fun n x => if x.parcel = p.parcel then n + x.env 0x20 8 else n) 0 ≤
    (s.parcel p.parcel).qPreempt * mib2))

/-- The earliest deadline among the steps of a set of plots. -/
def State.setDeadline (s : State) (l : List Nat) : Nat := (l.filterMap (fun b => (s.plot b).map s.stepDeadline)).min?.getD 0

/-- The set of candidates to pre-empt for a plat (R342): of all sets that free a position, one of the fewest plots, then of the latest step
deadline, then with the lowest lead. -/
def State.victims (s : State) (plat : Bytes) (id d : Nat) : Option (List Nat) :=
  let cand := (List.range 64).filter (fun b => s.candidate b d)
  (List.range cand.length).findSome? (fun n =>
    leastBy (fun l => (2 ^ 64 - s.setDeadline l) * 2 ^ 7 + l.headD 0)
      ((picks (n + 1) cand).filter (fun l => s.savesFit l && !(s.positions plat id (s.leaving ++ l)).isEmpty)))

/-- What the Surveyor does for one waiting placement (R340). -/
def State.reexamine (s : State) (w : WaitPlace) : State :=
  let plat := s.waitPlat w
  if !s.urgent w ∨ plat.isEmpty then s
  else
    let s1 := s.releaseIdle plat w.model 64
    if !(s1.positions plat w.model s1.leaving).isEmpty then s1
    else match s1.victims plat w.model (s1.waitDeadline w) with
    | none => s1
    | some l => l.foldl (fun s b => s.setYield b) s1

/-! Quadrant service. -/

/-- Handle the idle plots of a quadrant that is being taken out (R482 step 2): a plot moves where a position qualifies, else its
model is evicted. -/
def State.serviceQuad (s : State) (j : QuadJob) : State :=
  let mine := (List.range 64).filter (fun b => match s.plot b with
    | some p => p.quads.contains j.quad && p.idle && !(List.range 64).any (fun x => (s.plot x).any (fun y => y.movedFrom == some b))
    | none => false)
  let upd := fun (s : State) (f : QuadJob → QuadJob) => ({ s with power := { s.power with
    jobs := s.power.jobs.map (fun x => if x.quad = j.quad ∧ x.action = 0 then f x else x) } } : State)
  mine.foldl (fun (s : State) b =>
    match s.plot b with
    | none => s
    | some p =>
      match s.modelOf p.model with
      | none => s.releasePlot b 0 0
      | some m =>
        if m.state = .evicting ∨ m.state = .removing then s.freePlot b
        else match s.choose p.plat p.model p.platSlot p.parcel with
        | some (q, s1) =>
          let s2 := s1.place q
          let s3 := match s2.plot q.lead with
            | some y => s2.setPlot q.lead { y with
                movedFrom := some b, mark := p.mark, markNext := p.markNext, phi := p.phi, phiNext := p.phiNext, phiStar := p.phiStar, steps := p.steps }
            | none => s2
          let s4 := match s3.routeOf b with
            | some (e, t) =>
              let r := (s3.lateral e).table t
              let e' := blockQuad q.lead
              (match (List.range 16).find? (fun k => !((s3.lateral e').table k).valid) with
                | some k => (s3.updLe e (fun l => l.updTable t (fun x => { x with valid := false }))).updLe e' (fun l =>
                    l.updTable k (fun _ => { r with lead := q.lead, cap := [], used := [] }))
                | none => s3)
            | none => s3
          upd s4 (fun x => { x with moved := x.moved + 1 })
        | none =>
          let s1 := if m.state = .filled then (s.evictModel (p.model % 256) false none).settle else s
          upd (s1.freePlot b) (fun x => { x with evicted := x.evicted + 1 })) s

/-- Every take-out in progress. -/
def State.serviceQuads (s : State) : State :=
  (s.power.jobs.filter (fun j => j.action == 0)).foldl (fun s j => s.serviceQuad j) s

/-- SURVEYOR_REEXAMINE (R330, R340, R342, R482): the waiting placements in order, and the quadrants being taken out. -/
def execSurveyorReexamine (t : Nat) (s : State) : Host.Outcome State Fault Refusal :=
  let s0 := (s.at' t).serviceQuads
  .next (s0.orderedWaits.foldl (fun s w => s.reexamine w) s0)

/-! Balance. -/

/-- W_p of a model's requests here (R296): prompt tokens left, four times when the deadline is less than 10 ms away. -/
def State.weightP (s : State) (id : Nat) : Nat :=
  ((s.plotReqs id).filter Req.prompting).foldl (fun n r => n + r.rest * (if r.deadline < s.now + 10000000 then 4 else 1)) 0

/-- W_d of a model's requests here (R296). -/
def State.weightD (s : State) (id : Nat) : Nat :=
  64 * ((s.plotReqs id).filter (fun r => r.state == .decode)).foldl (fun n r => n + (if r.specMode = 0 then 1 else r.specWidth + 1)) 0

/-- The target φ* of two weights within bounds (R296). -/
def phiTarget (wp wd lo hi : Nat) : Nat := max lo (min hi (256 * wp / (wp + wd)))

/-- Move φ toward a target by at most 32 (R296). -/
def phiStep (phi star : Nat) : Nat := if phi < star then min star (phi + 32) else max star (phi - 32)

/-- The target of a replica set (R296): of the weights of all its plots, within the largest bounds; the last one when both weights are 0. -/
def setTarget (all : List SetPeer) (last : Nat) : Nat :=
  let wp : Nat := all.foldl (fun a q => a + q.wp) 0
  let wd : Nat := all.foldl (fun a q => a + q.wd) 0
  if wp + wd = 0 then last
  else phiTarget wp wd (all.foldl (fun a q => max a q.lo) 0) (all.foldl (fun a q => max a q.hi) 0)

/-- The mark of this module's plot in a replica set after a round with target `star` (R294, R296): the set's count of `PREFILL` plots moves
by at most one toward the nearest integer to N × φ* / 256; the plot with the fewest requests of the kind it leaves changes. -/
def setMark (own : SetPeer) (peers : List SetPeer) (mark : PlotMark) (star : Nat) : PlotMark :=
  let all := own :: peers
  let n := all.length
  if peers.isEmpty then .mixed
  else if mark = .mixed then (if peers.all (fun q => decide (own.slot < q.slot)) then .prefill else .decode)
  else
    let want := max 1 (min (n - 1) ((2 * n * star + 256) / 512))
    let have' := (all.filter (fun q => q.isPrefill)).length
    let pick := fun (pre : Bool) (f : SetPeer → Nat) =>
      leastBy (fun q => f q * 16 + q.slot) (all.filter (fun q => q.isPrefill == pre))
    if have' < want then (if (pick false (fun q => q.decodes)).any (fun q => q.slot == own.slot) then .prefill else mark)
    else if want < have' then (if (pick true (fun q => q.prompts)).any (fun q => q.slot == own.slot) then .decode else mark)
    else mark

/-- One plot's share in a round (R296): φ moves on a `MIXED` plot, and on one turned `PREFILL` while it finishes its decoding slots. -/
def State.rebalance (s : State) (sets : List SetView) (b : Nat) : State :=
  match s.plot b with
  | none => s
  | some p =>
    let sh := s.shares p.model
    let wp := s.weightP p.model
    let wd := s.weightD p.model
    let star := if wp + wd = 0 then p.phiStar else phiTarget wp wd sh.1 sh.2
    let setId := (s.modelOf p.model).elim 0 Model.setId
    let peers := if setId = 0 then [] else (sets.filter (fun v => v.model == p.model)).flatMap (fun v => v.peers)
    let prompts := (s.plotReqs p.model).filter Req.prompting
    let own : SetPeer := ⟨s.slot % 4, p.markNext == .prefill, wp, wd, prompts.length, prompts.foldl (fun n r => n + r.rest) 0,
      ((s.plotReqs p.model).filter (fun r => r.state == .decode)).length, sh.1, sh.2⟩
    let set := if peers.isEmpty then p.setStar else setTarget (own :: peers) p.setStar
    let moves := p.mark == .mixed || (p.mark == .prefill && (s.plotReqs p.model).any Req.decoding)
    s.setPlot b { p with
      phiStar := star
      setStar := set
      phiNext := if moves then phiStep p.phiNext star else p.phiNext
      markNext := if setId = 0 then .mixed else setMark own peers p.markNext set }

/-- REBALANCE (R296, R415): the round of every 10 ms, with what the other plots of each replica set report; the shares policy
modules have asked for take effect first. -/
def execRebalance (t : Nat) (sets : List SetView) (s : State) : Host.Outcome State Fault Refusal :=
  let s0 := s.at' t
  let keys := s0.parcels.map (fun x => x.1)
  let s1 : State := keys.foldl (fun (s : State) k => s.updParcel k (fun p => { p with pfLo := p.askLo, pfHi := p.askHi }))
    { s0 with sched := { s0.sched with sets := sets } }
  .next ((List.range 64).foldl (fun s b => s.rebalance sets b) s1)

/-! Hand-off. -/

/-- A request that arrives with its pages from another module of its replica set (R295): a new one, or one of this module's own
that comes back to decode here. One that has no token yet runs its prompt here; its prefix pages are its own from now on. -/
def State.handIn (s : State) (h : HandIn) : State :=
  match s.modelOf h.model with
  | none => s
  | some m =>
    let own := h.home.toNat == ownSerial
    let home := if own then 0 else h.home.toNat + 1
    let r0 : Req := { reqOf 0 h.parcel (toLe 4 h.handle.toNat ++ zeros 60) with
      model := h.model, adapter := h.adapter, aver := h.aver, deadline := h.deadline, prompt := h.start + h.prompt, maxNew := h.maxNew,
      generated := h.generated, specMode := h.specMode, specWidth := h.specWidth, paramLen := h.params.length, holdKv := h.holdKv, home := home }
    let prev := (s.req r0.key).filter (fun r => own && r.away)
    if (own && prev.isNone) || (!own && (s.req r0.key).isSome) then s
    else
      let a := areaPlan m (s.draftOf m r0) r0 0
      let len := a.len m
      let qs := match s.plotOfModel h.model with
        | some b => (s.plot b).elim [] Plot.quads
        | none => []
      match qs.findSome? (fun q => s.findSpace 1 q len) with
      | none => s
      | some base =>
        let k := boardKey 1 base
        let toks := k + a.tab
        let par := toks + 64 * ceilDiv (4 * (r0.prompt + h.maxNew)) 64
        let r : Req := { (prev.getD r0) with
          generated := h.generated, prompt := r0.prompt, start := 0, pos := h.pos, state := if h.pos < r0.prompt then .prefill else .decode
          started := true, away := false, runsOn := 0, area := k, areaLen := len, pageTab := k, tokens := toks, params := par
          spec := par + 64 * ceilDiv h.params.length 64, pageBase := k + a.head, pages := 0
          dTab := if a.dOwn = 0 then 0 else k + a.dTab, dBase := k + a.head + a.own * m.pageBytes, dPages := 0 }
        let s1 := (s.takeSpace ⟨1, base, len, h.parcel, 1, r0.key⟩).setRegion 1 base len h.parcel true false
        let s2 : State := if own then s1.updReq r0.key (fun _ => r) else { s1 with serve := { s1.serve with reqs := s1.serve.reqs ++ [r] } }
        let s3 := (((s2.refAdapter h.adapter (if own then 0 else h.aver)).fwWrite (toks + 4 * h.start) h.tokens).fwWrite par h.params).growPages m r0.key h.pos
        h.pages.zipIdx.foldl (fun s x => s.fwWrite (r.pageBase + x.2 * m.pageBytes) (x.1.take m.pageBytes)) s3

/-- The tray slot a request moves to (R295): before its first step to the `PREFILL` plot that runs its prompt, in `HANDOFF` to a `DECODE` plot. -/
def State.moveSlot (s : State) (r : Req) : Option Nat :=
  match s.modelOf r.model, (s.plotOfModel r.model).bind s.plot with
  | some m, some p =>
    if r.home ≠ 0 ∧ r.state = .queued then none
    else if r.state = .queued then s.promptSlot p
    else if r.state = .handoff then s.decodeSlotOf m p
    else none
  | _, _ => none

/-- The serial number of the module in a tray slot. -/
def State.slotSerial (s : State) (k : Nat) : Option Nat := if k = s.slot % 4 then some ownSerial else s.traySerial k

/-- HANDOFF_COPY_COMPLETE (R295): the pages of a request have reached the module its replica set gives it, `dest`, or the copy failed; a
request whose own plot has become a free `DECODE` plot stays. With `arrive`, those of a request have come here. Where no plot has a free
slot the request waits. -/
def execHandoffCopyComplete (handle : BitVec 32) (home : Option (BitVec 64)) (ok : Bool) (dest : BitVec 64) (arrive : Option HandIn) (s : State) :
    Host.Outcome State Fault Refusal :=
  .next (match arrive with
    | some h => if ok then s.handIn h else s
    | none =>
      match s.req (handle.toNat + home.elim 0 (fun x => x.toNat + 1) * 2 ^ 32) with
      | none => s
      | some r =>
        match (s.moveSlot r).bind s.slotSerial with
        | none => s
        | some d =>
          if d = ownSerial then s.updReq r.key (fun r => { r with state := .decode })
          else if !ok then (s.endReq r.key 0x0404).settle
          else if d ≠ dest.toNat then s
          else if r.home ≠ 0 then ((s.updReq r.key (fun r => { r with state := .ended, holdKv := false })).closeReq r.key).settle
          else (s.updReq r.key (fun r => { r with
            state := .decode, started := true, away := true, runsOn := dest.toNat + 1, area := 0, areaLen := 0, pages := 0, dTab := 0, dPages := 0 })).collect)

/-- RETURNED_TOKENS (R295, R346): tokens of a request whose steps run on another module come back, with its final status when it
has ended there; those that name no such request are dropped and counted. -/
def execReturnedTokens (handle : BitVec 32) (pos : Nat) (toks : List (BitVec 32)) (fin : Option (BitVec 16)) (s : State) :
    Host.Outcome State Fault Refusal :=
  .next (match (s.req handle.toNat).filter (fun r => r.away && r.state != .held && r.state != .ended) with
    | none => { s with time := { s.time with staleId := satAdd 32 s.time.staleId 1 } }
    | some r =>
      let l := (toks.map (fun x => x.toNat)).take (r.maxNew - r.generated)
      let s1 := s.updReq r.key (fun q => { q with generated := q.generated + l.length, started := true, state := .decode })
      let s2 := if l.isEmpty then s1 else s1.emitTokens r pos l
      match fin with
      | some st => (s2.endReq r.key st.toNat).settle
      | none => s2)

/-! The end of a sluice command. -/

/-- A fill that cannot be repaired (R228, R239): the plot goes, the shard is failed, the entry is `LOADING` again with its space
firmware's, and the requests waiting for the fill are refused. -/
def State.failFill (s : State) (b a : Nat) : State :=
  match s.plot b with
  | none => s
  | some p =>
    match s.modelOf p.model with
    | none => s.releasePlot b 0 0
    | some m =>
      let i := p.model % 256
      let s1 := ((s.dropFill p.model 0x0304).updModel p.model (fun (m : Model) => { m with state := .loading })).holdModel i
      (match s.shardAt (modelRef i) (addrKey a) with
        | some h => (s1.updLoad (modelRef i) (fun l => { l with
            shards := l.shards.map (fun (x : Shard) => if x.index = h.index then { x with state := 2, status := 0x0301 } else x) })).post
              false 0x0C 0x01 0x0301 m.owner p.model (BitVec.ofNat 64 h.index)
        | none => s1).releasePlot b 0 0

/-- A fill command whose bad copy has been replaced goes to its engine again (R239), under the next generation of its index (DESIGN
CHOICE, log entry 165). -/
def State.reissue (s : State) (e : Nat) (c : SlCmd) : State :=
  s.slSubmit e { c with phase := .reading, entry := 0, buf := [], got := [], need := [], back := false, paid := false, gen := (c.gen + 1) % 64 }

/-- What becomes of a fill that met a bad copy at `a` (R239): the copy is replaced and the command goes again, or the fill fails. -/
def State.repairFill (s : State) (e b : Nat) (c : SlCmd) (a : Nat) (fetched : Option Bytes) : State :=
  match (s.plot b).bind (fun p => if s.isLocal a then s.replaceCopy (modelRef (p.model % 256)) (addrKey a) fetched else none) with
  | some s1 => s1.reissue e c
  | none => s.failFill b a

/-- A save whose command fails is abandoned (R345): every request of the batch ends and the plot's blocks are released. -/
def State.dropSave (s : State) (b : Nat) : State :=
  match s.plot b with
  | none => s
  | some _ => (s.abortTask b 0x0402 false).freePlot b

/-- A version whose damaged shard has a verified copy in another region is `CURRENT` again (R239, R243). -/
def State.mendVersion (s : State) (i n k : Nat) : State :=
  match s.shardAt (versionRef i n) k, s.replaceCopy (versionRef i n) k none with
  | some h, some s1 => s1.updVersion i n (fun v =>
      let l := v.shards.map (fun x => if x.index = h.index then { x with state := 1 } else x)
      { v with shards := l, state := if l.all (fun x => x.state == 1) then 2 else v.state })
  | _, _ => s

/-- An error in the data of an adapter version or of a prefix page damages it (R245, R301); the version's shard is replaced from another
region, else fetched again (R239). -/
def State.damage (s : State) (a : Nat) : State :=
  let k := addrKey a
  let off := k % 2 ^ 48 % regionBytes
  let hitV := fun (v : AVer) => decide (v.state = 2 ∧ k / 2 ^ 48 = 1 ∧ v.base ≤ off ∧ off < v.base + v.len)
  let ads : List (Nat × Adapter) := s.adapters.filter (fun x => x.2.versions.any hitV)
  let s1 := ads.foldl (fun (s : State) x => s.updAdapter x.1 (fun y => { y with versions := y.versions.map (fun v =>
    if hitV v then { v with
      state := 3
      shards := v.shards.map (fun h => if v.base + h.resOff ≤ off ∧ off < v.base + h.resOff + h.len then
        { h with state := 0, attempt := 0, running := false } else h) }
    else v) })) s
  let s1 := ads.foldl (fun (s : State) x => (x.2.versions.filter hitV).foldl (fun s v => s.mendVersion x.1 v.num k) s) s1
  let pre : List (Nat × Prefix) := s1.serve.prefixes.filter (fun x => x.2.used && x.2.pages.any (fun y =>
    decide (y ≤ k ∧ k < y + max 1 ((s.modelOf x.2.model).elim 1 Model.pageBytes))))
  pre.foldl (fun (s : State) x => s.updPrefix x.1 (fun y => { y with damaged := true })) s1.startLoads

/-- What a failed dynamic command does (R197, R239, R245, R301, R345): to the fill or the save it belongs to, and to the request
whose private data it read. -/
def State.slDynamic (s : State) (e : Nat) (c : SlCmd) (cause a cl r : Nat) (fetched : Option Bytes) : State :=
  if c.lead.isSome ∨ c.stale then s
  else
    let plotOf := fun (x : Nat) => if addrTier x = 0 ∧ s.isLocal x then (s.tile (addrKey x / 2 ^ 22)).lead else none
    let filling := (plotOf c.dst).filter (fun b => (s.plot b).any (fun p => p.state == .filling))
    let saving := (plotOf c.src).filter (fun b => (s.plot b).any (fun p => p.state == .yielding &&
      p.tiles.all (fun g => (s.tile g).regs.yieldDone)))
    if c.parcel = 0 ∧ c.cls = 1 ∧ filling.isSome then
      (if cause = 5 ∨ cause = 6 ∨ cause = 8 then s.repairFill e (filling.getD 0) c a fetched else s)
    else if c.parcel = 0 ∧ saving.isSome then s.dropSave (saving.getD 0)
    else if tierCause cause ∧ cl = 2 then
      match (List.range 64).find? (fun b => (s.plot b).any (fun p => p.hasReq r)) with
      | some b => (match s.plot b with
        | some p => s.setPlot b (p.maskReq r 0x0404)
        | none => s)
      | none => (match s.req r with
        | some q => if q.started then (s.endReq r 0x0404).settle else s
        | none => s)
    else s

/-- A command that ends lets firmware post the next page move of the plots that an engine serves (R290). -/
def State.kvEnd (s : State) (e : Nat) (c : SlCmd) (ok : Bool) : State :=
  (List.range 64).foldl (fun (s : State) b =>
    if kvEngine b ≠ e ∨ (s.plot b).isNone then s
    else if c.lead.isNone ∧ !c.stale ∧ c.idx = kvIndex b false then s.kvDone b false ok
    else if c.lead.isNone ∧ !c.stale ∧ c.idx = kvIndex b true then s.kvDone b true ok
    else s.kvFeed b) s

/-- The bad copy that has ended a plot's task, which a retry replaces first (R198). -/
def State.noteCopy (s : State) (c : SlCmd) (cause a cl : Nat) : State :=
  match c.lead with
  | some b => if tierCause cause ∧ cl = 1 ∧ !c.stale ∧ s.isLocal a then
      (match s.plot b with
        | some p => s.setPlot b { p with badCopy := some (addrKey a) }
        | none => s)
    else s
  | none => s

/-- The cause that decides a failed command's outcome: of a remote one its remote cause, held in the bits above the lowest four (R397). -/
def slWhy (code : Nat) : Nat := if code % 16 = 9 then code / 16 else code % 16

/-- A failed command is recorded, posted and has the outcome of Tables 6-8 and 6-9 (R199), a remote one that of its remote cause (R397). -/
def State.slReport (s : State) (e : Nat) (c : SlCmd) (code a cl r : Nat) : State :=
  let cause := code % 16
  let st := if c.lead.isSome ∧ !tierCause (slWhy code) then 0x0403 else 0
  let par := match c.lead with
    | some b => ((s.plot b).map (fun p => p.parcel)).getD 0xFFFF
    | none => c.parcel
  let s1 := ((s.updEngine e (fun x => x.recordErr c cause a)).signal (80 + e)).post false 0x04 cause st par e (BitVec.ofNat 64 a)
  ((if tierCause cause then s1.damage a else s1).slOutcome c (slWhy code) cl r).noteCopy c (slWhy code) a cl

/-- SLUICE_COMPLETE (R179 step 5, R189, R199): a command that is done signals and frees its place; one that has failed is reported and frees
it. `fetched` is the shard that a refetch has brought, where a fill met a bad copy and no copy here replaces it (R239). -/
def execSluiceComplete (engine : Fin 64) (index : BitVec 20) (fetched : Option Bytes) (s : State) : Host.Outcome State Fault Refusal :=
  let e := engine.val
  .next (match (s.engine e).flight.find? (fun c => c.idx == index.toNat && (match c.phase with
      | .done => true
      | .failed _ _ _ _ => true
      | _ => false)) with
    | none => s
    | some c =>
      let s0 := s.updEngine e (fun x => x.leave c s.now)
      match c.phase with
      | .failed code a cl r => ((((s0.slReport e c code a cl r).slDynamic e c (slWhy code) a cl r fetched)).serveEngine e).kvEnd e c false
      | _ =>
        let s1 := if c.irq then s0.signal (80 + e) else s0
        ((if c.signals then s1.engineSignal c.semTile c.giveSem else s1).serveEngine e).kvEnd e c true)

/-! Row reads. -/

/-- The owning module replaces the copy that a row read found bad (R198 step 1, R319): from another verified copy, else from what a refetch
brings. -/
def State.mendRow (s : State) (id k : Nat) (fetched : Option Bytes) : State :=
  (s.replaceCopy (modelRef (id % 256)) k fetched).getD s

/-- The key of a local row's scale, behind the rows of its block (R307). -/
def State.rowScaleKey (s : State) (t : TableEnt) (r : Nat) : Nat :=
  let k := addrKey (t.blockAddr r)
  k + 64 + t.rowBytes * leAt (s.mem.readN (k + 4) 2) 0 2 + 4 * (r % max 1 t.rpb)

/-- The failure of a row read, with the address of the bad word (R319): 2 an Aquifer access, 1 an uncorrectable word of the row or its
scale, or space that is gone. -/
def State.rowFail (s : State) (t : TableEnt) (r : Nat) (poison : Bool) : Option (Nat × Nat) :=
  let a := t.rowAddr r
  let gone := (s.unmapped (t.blockAddr r) 2048).isSome
  if t.aq then (if poison ∨ gone then some (2, a) else none)
  else match firstUe 32 s.mem.ueRes (addrKey a) t.rowBytes with
  | some u => some (1, a - addrKey a + max u (addrKey a))
  | none => match (if t.scaled then firstUe 32 s.mem.ueRes (s.rowScaleKey t r) 4 else none) with
    | some u => some (1, a - addrKey a + max u (addrKey a))
    | none => if gone then some (1, a) else none

/-- The bag of a row after the row is pooled into it, or failed (R313, R315, R319). -/
def State.rowBag (s : State) (g : GatherEng) (t : TableEnt) (x : GRow) (fail : Bool) : Bag :=
  let b := g.bagOf x
  if fail then { b with fail := true }
  else b.addRow x.pool t.twin (rowValues t x.pool (s.mem.readN (addrKey (t.rowAddr x.row)) t.rowBytes)
    (if t.scaled then some (leAt (s.mem.readN (s.rowScaleKey t x.row) 4) 0 4) else none) x.weight)

/-- Whether a row is the last of its bag in a gather engine. -/
def GatherEng.lastOf (g : GatherEng) (x : GRow) : Bool := !(g.rows.erase x).any (fun y => y.sameBag x)

/-- A gather engine has read row `x` (R305, Table 11-6): the row has gone, its bag is `b`, the turn has passed, and the read is counted. -/
def State.rowTaken (s : State) (i : Nat) (x : GRow) (turn quantum : Nat) (b : Bag) : State :=
  let g := s.gatherEng i
  let t := s.tableEnt x.table
  let others := g.bags.filter (fun b => !(b.srcMod == x.srcMod && b.gid == x.gid && b.bag.bag == x.bag))
  let sl := s.gatherSlot g t x.row
  s.updGe i (fun y => { y with
    slot := sl.1
    rows := g.rows.erase x
    bags := if g.lastOf x then others else others ++ [⟨x.srcMod, x.gid, b⟩]
    turn := turn
    quantum := quantum
    rowsCnt := satAdd 48 y.rowsCnt 1
    bytesCnt := satAdd 48 y.bytesCnt (t.rowBytes + if t.scaled then 4 else 0)
    slotCnt := if sl.2 then satAdd 48 y.slotCnt 1 else y.slotCnt })

/-- A failed row read is counted in its tier, recorded, and its copy replaced (R197, R198, R319). -/
def State.rowFailed (s : State) (i : Nat) (x : GRow) (c u : Nat) (fetched : Option Bytes) : State :=
  let t := s.tableEnt x.table
  ((s.countTier (if c = 2 then 8 else 6) u).geErr i c (t.rowAddr x.row) x.parcel).mendRow t.model (addrKey u) fetched

/-- ROW_READ (R305, R313, R315, R319): a row read of a gather engine returns; `poison` is a failed Aquifer access, `fetched` the shard that
a refetch brings where a row's copy is bad and no other here replaces it. -/
def execRowRead (ge : Fin 96) (poison : Bool) (fetched : Option Bytes) (s : State) : Host.Outcome State Fault Refusal :=
  let i := ge.val
  .next (match (s.gatherEng i).pick with
    | none => s
    | some (x, turn, quantum) =>
      let g := s.gatherEng i
      let t := s.tableEnt x.table
      let fail := s.rowFail t x.row poison
      let b := s.rowBag g t x fail.isSome
      let s1 := s.rowTaken i x turn quantum b
      let s2 := match fail with
        | some (c, u) => s1.rowFailed i x c u fetched
        | none => s1
      if g.lastOf x then s2.closeBag x b else s2)

end Sys2Proof.Machine
end

