-- ==== Sys2Proof/Machine/Links.lean ====
section
/-! DEFINITION. The links: fabric link states, flits, benchmark words and link failure (R381 to R393, R404 to R407), and what a
loss does to an Ethernet port (R327, R355) and a CXL port (R177, R480), with the retrains that wait their turn (R483). -/

namespace Sys2Proof.Machine

/-! Loss of Ethernet and CXL ports. -/

/-- The PTP port: the lowest of A0 to A3 whose link is up, 7 for none (R327). -/
def State.ptpPort (s : State) : Nat := (([0, 1, 2, 3] : List Nat).find? (fun i => SMap.get false s.mail.linkUp i)).getD 7

/-- A change of `VALID` is written to the field book (R328); a valid time is the Ditch Rider's own from then on (R432). -/
def State.setValid (s : State) (v : Bool) : State :=
  if s.time.valid = v then s
  else
    let s1 : State := { s with time := { s.time with valid := v }, book := { s.book with ahead := if v then 0 else s.book.ahead } }
    (s1.post false 0x0D (if v then 1 else 2) 0 0xFFFF 0 (BitVec.ofInt 64 (s1.time.offset % 2 ^ 32))).signal 7

/-- The clock loses its master (R328): holdover begins while module time is valid. -/
def State.loseLock (s : State) : State :=
  if s.time.locked then
    { s with time := { s.time with locked := false, holdover := s.time.valid, holdFrom := s.now } }
  else s

/-- The clock moves to the PTP port (R327). -/
def State.movePtp (s : State) : State :=
  let p := s.ptpPort
  let s1 : State := { s with time := { s.time with port := p } }
  if p = 7 then s1.loseLock else s1

/-- An Ethernet port goes down (R327, R355): its queue pairs fail and PTP moves. -/
def State.ethDown (s : State) (i : Nat) : State :=
  if !SMap.get false s.mail.linkUp i then s
  else
    let s1 : State := { s with mail := { s.mail with
      linkUp := SMap.set false s.mail.linkUp i false
      qps := s.mail.qps.map (fun q => if q.port = i then { q with live := false } else q) } }
    ((s1.signal (217 + i)).post false 0x08 0x01 0 0xFFFF i 0).movePtp

/-- `AQ_STATUS` of a port (Table 6-11). -/
def QuadMem.aqStatus (m : QuadMem) : Nat :=
  (if m.aqUp then 1 else 0) + m.aqSpeed % 4 * 2 ^ 1 + m.aqWidth % 32 * 2 ^ 3 + (if m.aqIde then 2 ^ 8 else 0) + m.aqCap % 2 ^ 22 * 2 ^ 32

/-- A CXL link goes down (R177): every access outstanding counts as an uncorrectable error of its command's data. -/
def State.cxlDown (s : State) (q : Nat) : State :=
  if !(s.quad q).aqUp then s
  else
    let s1 := s.engines.foldl (fun (s : State) (e : Nat × Engine) =>
      (e.2.flight.filter (fun c => c.phase == .reading)).foldl (fun s c => match s.slAquifer c (some q) with
        | none => s
        | some a => if c.stale then (s.countTier 8 a).slFree e.1 c else s.slAqFail e.1 c a) s) s
    let s2 := s1.updQuad q (fun m => { m with aqUp := false, aqSpeed := 0, aqWidth := 0, aqIde := false, aqCap := 0 })
    (s2.signal (213 + q)).post false 0x08 0x01 0 0xFFFF (0x10 + q) (BitVec.ofNat 64 (s2.quad q).aqStatus)

/-! Fabric links. -/

/-- Latch a cause in `FP_ERR` (Table 14-9) and write it to the field book (Table 15-9). -/
def State.fpErr (s : State) (i cause : Nat) : State :=
  ((s.updFport i (fun p => { p with
    errMulti := p.errMulti || p.errValid
    errCause := if p.errValid then p.errCause else cause
    errValid := true })).signal (200 + i)).post false 0x07 cause 0 0xFFFF i (BitVec.ofNat 64 (s.fport i).benchSerial)

/-- Whether the benchmark word a port holds is the one its plan names, of this stepping (R392). -/
def State.benchOk (s : State) (i : Nat) : Bool :=
  let p := s.fport i
  match s.fab.planOf i with
  | some r => r.serial == p.benchSerial && r.slot == p.benchSlot && r.port == p.benchPort && p.benchStep == 1
  | none => false

/-- The link layer of a port with nothing in hand: replay buffer, numbers and credits discarded (Table 14-2). -/
def FabPort.clearLink (p : FabPort) : FabPort :=
  { p with txSeq := 0, rxSeq := 0, discarding := false, nak := false, sinceAck := 0, replay := [], used := [], owed := [],
           waiting := [], asm := [], lanes := 0 }

/-- A link enters `QUARANTINED` (R392). -/
def State.quarantine (s : State) (i : Nat) : State :=
  let s1 := s.updFport i (fun p => { p with state := .quarantined })
  (s1.fpErr i (if (s.fab.planOf i).isSome then 3 else 4)).post false 0x07 0x10 0x0602 0xFFFF i (BitVec.ofNat 64 (s.fport i).benchSerial)

/-- Whether a remote command in hand uses a port (R397, R404): its module is at the far end, and a static one leaves on the port
that holds its reservation. -/
def State.cmdOnPort (s : State) (i : Nat) (c : SlCmd) : Bool :=
  let far := (s.fport i).benchSerial
  let toFar := fun (a : Nat) => s.traySerial (a / 2 ^ 50 % 4) == some far && !s.isLocal a
  (c.phase == .fetch || c.phase == .push) && (match c.lead, c.chan with
    | some b, some ch => s.chanPeer b ch == some far && s.resPort b 0 ch far == some i
    | some b, none => c.need.any (fun n => toFar n.1) && (s.resPort b 3 0 far).all (fun j => j == i)
    | none, _ => c.need.any (fun n => toFar n.1))

/-- The plots whose running task uses a link (R404): a reservation of kind 0, 2 or 3 on it, or a remote command over it. -/
def State.collective (s : State) (i : Nat) : List Nat :=
  (List.range 64).filter (fun b => match s.plot b with
    | some p => p.task.isSome && ((s.fport i).reserved.any (fun r => r.lead == b) ||
        s.engines.any (fun e => e.2.flight.any (fun c => c.lead == some b && s.cmdOnPort i c)))
    | none => false)

/-- An agreement on a degraded position begins, one for each model (R406, R407). -/
def State.startAgree (s : State) (id cause : Nat) : State :=
  if s.fab.agree.any (fun a => a.model == id && a.chosen.isNone) then s
  else s.updFab (fun f => { f with agree := f.agree.filter (fun a => a.model != id) ++ [⟨id, cause, none⟩] })

/-- Fail the remote commands of a port's path: their cause is `REMOTE_FAIL` (R397). -/
def State.failRemote (s : State) (i : Nat) : State :=
  s.engines.foldl (fun (s' : State) (e : Nat × Engine) =>
    s'.updEngine e.1 (fun x => { x with flight := x.flight.map (fun c =>
      if s.cmdOnPort i c ∧ !c.stale then { c with phase := .failed 9 (c.need.headD (0, 0)).1 c.cls c.req } else c) })) s

/-- What the loss of the last path to a module does to requests that run there, and to those here that it sent (R295). -/
def State.losePeer (s : State) (far status : Nat) : State :=
  if (s.routePort far).isSome then s
  else
    let s1 := s.endAll (s.serve.reqs.filter (fun r => r.away && r.runsOn == far + 1)) status
    ((s1.serve.reqs.filter (fun r => r.home == far + 1)).foldl (fun s r => s.dropReq r) s1).settle

/-- A link goes `DOWN` from `UP` or `RECOVER` (R404 to R406): the cause is decided, the collective tasks on the link are forced,
every member of each affected group gets an abort notice, and remote commands over it fail. -/
def State.linkDown (s : State) (i : Nat) : State :=
  let p := s.fport i
  let far := p.benchSerial
  let alone := !(List.range 12).any (fun j => j != i && (s.fport j).state == .up && (s.fport j).benchSerial == far)
  let status := if p.state = .recover ∧ alone ∧ !p.answered then 0x0406 else 0x0407
  let leads := s.collective i
  let models := (leads.filterMap (fun b => (s.plot b).map (fun x => x.model))).eraseDups
  let s1 := (s.failRemote i).updFport i (fun p => { p.clearLink with state := .down, downCnt := satAdd 32 p.downCnt 1 })
  let s2 := (s1.signal (200 + i)).post false 0x07 0x11 status 0xFFFF i (BitVec.ofNat 64 far)
  let s3 := leads.foldl (fun (s' : State) b => s'.force b 0x0D status 0) s2
  let s4 := models.foldl (fun (s : State) id =>
    let m := s.entry (id % 256)
    let s' := if status = 0x0407 then s.startAgree id status else s
    s'.sendAbort (m.reg' 0 8) m.serials i far p.benchPort status) s3
  s4.losePeer far status

/-- A link is taken out of its state (Table 14-2): the actions of a failure where it was `UP` or in `RECOVER`. -/
def State.takeDown (s : State) (i : Nat) : State :=
  let p := s.fport i
  if p.state = .up ∨ p.state = .recover then s.linkDown i
  else s.updFport i (fun p => { p.clearLink with state := .down })

/-- A link is reset: `DOWN`, then `TRAINING` when enabled (Table 14-2). -/
def State.resetLink (s : State) (i : Nat) : State :=
  let s1 := s.takeDown i
  if (s1.fport i).enable then s1.updFport i (fun p => { p with state := .training }) else s1

/-! Retrains that owe an answer (R483): one link at a time, in arrival order. -/

/-- Start the retrain at the head of the queue. -/
def State.startTrain (s : State) : Nat → State
  | 0 => s
  | f + 1 =>
    match s.power.trains.find? (fun j => decide (j.kind < 3)) with
    | none => s
    | some j =>
      if j.kind = 0 then
        (if (s.fport j.index).enable then s.resetLink j.index
          else
            let s1 := (s.takeDown j.index).complete j.waiter 0 []
            State.startTrain { s1 with power := { s1.power with trains := s1.power.trains.erase j } } f)
      else if j.kind = 1 then s.ethDown j.index
      else
        let s1 := s.cxlDown j.index
        { s1 with sec := { s1.sec with ideDown := clearBitN s1.sec.ideDown j.index } }

/-- The training of a link has ended: the retrain that waited for it completes and the next starts. -/
def State.trainEnd (s : State) (kind index : Nat) : State :=
  match s.power.trains.find? (fun j => decide (j.kind < 3)) with
  | none => s
  | some j =>
    if j.kind = kind ∧ j.index = index then
      let s1 := s.complete j.waiter 0 []
      let s2 : State := { s1 with power := { s1.power with trains := s1.power.trains.erase j } }
      s2.startTrain (s2.power.trains.length + 1)
    else s

/-- A retrain joins the queue and starts when no other runs (R483). -/
def State.addTrain (s : State) (j : TrainJob) : State :=
  let idle := !s.power.trains.any (fun x => decide (x.kind < 3))
  let s1 : State := { s with power := { s.power with trains := s.power.trains ++ [j] } }
  if idle then s1.startTrain 1 else s1

/-! Link states. -/

/-- LINK_TRAINING_START (R386): a signal, or 1 s since the last attempt, starts the training of an enabled link. -/
def execLinkTrainingStart (port : Fin 12) (t : Nat) (s : State) : Host.Outcome State Fault Refusal :=
  let s0 := s.at' t
  let p := s0.fport port.val
  .next (if p.state = .down ∧ p.enable then s0.updFport port.val (fun p => { p with state := .training }) else s0)

/-- LANES_TRAINED (R379, R380, R386): all four lanes have trained; F6 to F11 are optical (DESIGN CHOICE for the moment `OPTICAL` is set, log
entry 188). -/
def execLanesTrained (port : Fin 12) (t : Nat) (s : State) : Host.Outcome State Fault Refusal :=
  let s0 := s.at' t
  .next (if (s0.fport port.val).state = .training then
    (s0.updFport port.val (fun p => { p with state := .ident, lanes := 0xF, optical := decide (6 ≤ port.val) })).signal (200 + port.val) else s0)

/-- TRAINING_TIMEOUT (R386): 500 ms pass in `TRAINING`; `lanes` are those that locked. -/
def execTrainingTimeout (port : Fin 12) (lanes : BitVec 4) (t : Nat) (s : State) : Host.Outcome State Fault Refusal :=
  let s0 := s.at' t
  let i := port.val
  .next (if (s0.fport i).state = .training then
    ((s0.updFport i (fun p => { p with state := .down, lanes := lanes.toNat })).fpErr i 1).trainEnd 0 i else s0)

/-- BENCHMARK_RECEIVED (R386, R391, R392): a benchmark word arrives and is compared with the plan; in `IDENT` the round trip is
measured. -/
def execBenchmarkReceived (port : Fin 12) (serial : BitVec 64) (slot : BitVec 2) (far : BitVec 4) (step : BitVec 8)
    (rtt : BitVec 16) (t : Nat) (s : State) : Host.Outcome State Fault Refusal :=
  let i := port.val
  let s0 := s.at' t
  let st := (s0.fport i).state
  let put := fun (s : State) => s.updFport i (fun p => { p with
    benchSerial := serial.toNat, benchSlot := slot.toNat, benchPort := far.toNat, benchStep := step.toNat, benchSeen := true })
  .next (if st = .ident then
      let s1 := put s0
      if s1.benchOk i then
        ((s1.updFport i (fun p => FabPort.pump 1024 { p with
          state := .up, rtt := rtt.toNat, missing := false, seenUp := p.seenUp || s1.fab.discovered })).signal (200 + i)).trainEnd 0 i
      else (s1.quarantine i).trainEnd 0 i
    else if st = .up then
      let s1 := put s0
      if s1.benchOk i then s1
      else (put (s0.linkDown i)).quarantine i
    else if st = .quarantined then put s0
    else s0)

/-- The benchmark word this module sends on a port (Table 14-4). -/
def State.ownBench (s : State) (i : Nat) : Bytes := toLe 8 ownSerial ++ toLe 1 (s.slot % 4) ++ toLe 1 i ++ [1] ++ zeros 5

/-- BENCHMARK_SEND (R386, R387, R391): the benchmark flit of every 10 µs in `IDENT`, of every 1 ms in `UP`. -/
def execBenchmarkSend (port : Fin 12) (s : State) : Host.Outcome State Fault Refusal :=
  let p := s.fport port.val
  .next (if (p.state = .ident ∨ p.state = .up ∨ p.state = .quarantined) ∧ p.replay.length < 512 then
    s.setFport port.val (p.emit 3 2 true true (s.ownBench port.val)) else s)

/-- A link enters `RECOVER` (Table 14-2): buffer, numbers and credits are held. -/
def State.recoverLink (s : State) (i : Nat) (replay : Bool) : State :=
  let s1 := (s.updFport i (fun p => { p with
    state := .recover, recoverCnt := satAdd 32 p.recoverCnt 1, probes := 0, answered := false })).signal (200 + i)
  if replay then s1.fpErr i 5 else s1

/-- Send again, in order, every flit of the replay buffer (R383); one sent 8 times takes the link to `RECOVER` (Table 14-2). -/
def State.resend (s : State) (i : Nat) : State :=
  let s1 := s.updFport i (fun p => { p with
    wire := p.wire ++ p.replay.map (fun f => f.bytes)
    replayCnt := satAdd 32 p.replayCnt p.replay.length
    replay := p.replay.map (fun f => { f with sends := f.sends + 1 }) })
  if (s1.fport i).state = .up ∧ (s1.fport i).replay.any (fun f => decide (8 ≤ f.sends)) then s1.recoverLink i true else s1

/-- LINK_LOSS (R386): loss of lock or 16 uncorrectable codewords, or with `replay` one flit sent 8 times. -/
def execLinkLoss (port : Fin 12) (replay : Bool) (t : Nat) (s : State) : Host.Outcome State Fault Refusal :=
  let s0 := s.at' t
  .next (if (s0.fport port.val).state = .up then s0.recoverLink port.val replay else s0)

/-- RECOVER_RELOCK (R386, R387, R407): the PHY relocks with its benchmark word unchanged; the sender resends from `ACK` + 1. A plan
set meanwhile is applied now. -/
def execRecoverRelock (port : Fin 12) (same : Bool) (t : Nat) (s : State) : Host.Outcome State Fault Refusal :=
  let s0 := s.at' t
  let i := port.val
  .next (if (s0.fport i).state = .recover ∧ same then
      if s0.benchOk i then
        let s1 := ((s0.updFport i (fun p => { p with state := .up })).signal (200 + i)).resend i
        s1.updFport i (fun p => FabPort.pump 1024 p)
      else ((s0.updFport i (fun p => { p with state := .up })).linkDown i).quarantine i
    else s0)

/-- RECOVER_TIMEOUT (R404, R405): 100 µs pass in `RECOVER`. -/
def execRecoverTimeout (port : Fin 12) (t : Nat) (s : State) : Host.Outcome State Fault Refusal :=
  let s0 := s.at' t
  .next (if (s0.fport port.val).state = .recover then (s0.linkDown port.val).fpErr port.val 2 else s0)

/-- Every planned link that is not `UP`. -/
def State.linksMissing (s : State) : List Nat :=
  (List.range 12).filter (fun i => (s.fab.planOf i).isSome && (s.fport i).state != .up)

/-- DISCOVERY_END (R393): discovery ends; missing links are marked and the plan's completion is sent. -/
def execDiscoveryEnd (t : Nat) (s : State) : Host.Outcome State Fault Refusal :=
  let s0 := s.at' t
  .next (if !s0.fab.discovering then s0
    else
      let miss := s0.linksMissing
      let s1 := (List.range 12).foldl (fun (s : State) i => s.updFport i (fun p => { p with
        missing := miss.contains i, seenUp := p.state == .up })) s0
      let s2 := (s1.updFab (fun f => { f with discovering := false, discovered := true, mismatch := !miss.isEmpty })).signal 212
      match s2.power.planWait with
      | none => s2
      | some w => ({ s2 with power := { s2.power with planWait := none } } : State).complete w (if miss.isEmpty then 0 else 0x0601) [])

/-- FP_CTRL_ENABLE (R386, R408): a write of `FP_CTRL.ENABLE`; a link that is disabled goes `DOWN`. -/
def execFpCtrlEnable (port : Fin 12) (on : Bool) (t : Nat) (s : State) : Host.Outcome State Fault Refusal :=
  let s0 := s.at' t
  let i := port.val
  .next (if on then s0.updFport i (fun p => { p with enable := true })
    else ((s0.takeDown i).updFport i (fun p => { p with enable := false })).trainEnd 0 i)

/-- FP_CTRL_RETRAIN (R386, R408): a write of `FP_CTRL.RETRAIN`. -/
def execFpCtrlRetrain (port : Fin 12) (t : Nat) (s : State) : Host.Outcome State Fault Refusal :=
  .next ((s.at' t).resetLink port.val)

/-- A plan in force (R390, R386): every link compared with it. An `UP` link it no longer accepts is quarantined, a quarantined one
identifies again, one in `RECOVER` waits (R407). -/
def State.planLinks (s : State) : State :=
  (List.range 12).foldl (fun (s : State) i =>
    match (s.fport i).state with
    | .up => if s.benchOk i then s else (s.linkDown i).quarantine i
    | .quarantined => s.updFport i (fun p => { p with state := .ident })
    | _ => s) s

end Sys2Proof.Machine
end

