-- ==== Sys2Proof/Machine/Messages.lean ====
section
/-! DEFINITION. Messages of the fabric on arrival (R394 to R397, R400, R401), flits (R381 to R384), and the management channel
(R395, R400, R402 to R406). -/

namespace Sys2Proof.Machine

/-! Board-address messages (R396). -/

/-- Whether a module is a tray peer of this one by the plan (R396). -/
def State.isPeer (s : State) (serial : Nat) : Bool := [1, 2, 3].any (fun k => s.traySerial (s.slot % 4 ^^^ k) == some serial)

/-- Why a board-address message is refused (R396), as a cause of Table 6-9; none where it is not. -/
def State.refuses (s : State) (m : FabMsg) (write : Bool) : Option Nat :=
  let a := m.addr % 2 ^ 52
  if !s.isPeer m.src || !s.isLocal a then some 3
  else if addrTier a = 3 ∨ (s.unmapped a m.want).isSome then some 2
  else if !s.mayTouch none m.parcel a m.want write then some 3
  else none

/-- Count a refusal (R396, R400). -/
def State.fabRefuse (s : State) (i : Nat) : State := s.updFport i (fun p => { p with refusedCnt := satAdd 32 p.refusedCnt 1 })

/-- Answer a message: its address and identity return. -/
def State.fabReply (s : State) (m : FabMsg) (kind status : Nat) (data : Bytes) : State :=
  s.fabSend 1 (newMsg m.src kind m.parcel m.addr m.xfer 0 status 0 data)

/-- A `WRITE` on port `i` (R396): checked, written and answered with `WRITE_ACK`. -/
def State.msgWrite (s : State) (i : Nat) (m : FabMsg) : State :=
  match s.refuses m true with
  | some c => (s.fabRefuse i).fabReply m 7 c []
  | none => (s.put (m.addr % 2 ^ 52) m.data 0 0).fabReply m 7 0 []

/-- The first uncorrectable word of a local range and the cause it gives (Table 6-9). -/
def State.readUe (s : State) (a n : Nat) : Option (Nat × Nat) :=
  let k := addrKey a
  if addrTier a = 0 then (firstUe 16 s.mem.ueField k n).map (fun u => (7, a - k + max u k))
  else if addrTier a = 1 then (firstUe 32 s.mem.ueRes k n).map (fun u => (6, a - k + max u k))
  else none

/-- A `READ` on port `i` (R396): checked and answered with `READ_DATA`. -/
def State.msgRead (s : State) (i : Nat) (m : FabMsg) : State :=
  let a := m.addr % 2 ^ 52
  match s.refuses m false with
  | some c => (s.fabRefuse i).fabReply m 3 c []
  | none =>
    (match s.readUe a m.want with
      | some (c, u) => (s.countTier c u).fabReply m 3 c []
      | none => s.fabReply m 3 0 (s.mem.readN (addrKey a) m.want))

/-- The engine and command a reply is for (R184): its index, waiting for a message at its address, of its generation where there is
one. -/
def State.replyTo (s : State) (m : FabMsg) (phase : SlPhase) : Option (Nat × SlCmd) :=
  let seek := fun (own : SlCmd → Bool) => s.engines.findSome? (fun e => (e.2.flight.find? (fun c =>
    own c && c.idx == m.xfer % 2 ^ 20 && c.phase == phase && c.need.any (fun n => n.1 == m.addr % 2 ^ 52))).map (fun c => (e.1, c)))
  (seek (fun c => !c.stale && c.gen == m.xfer / 2 ^ 20 % 64)).orElse (fun _ => seek (fun _ => true))

/-- A reply to a remote command (R184, R396, R397): a stale one is dropped and counted, one with a cause fails the command, else
`act` has it. -/
def State.msgReply (s : State) (m : FabMsg) (phase : SlPhase) (act : Nat → SlCmd → State) : State :=
  match s.replyTo m phase with
  | none => s
  | some (e, c) =>
    if c.stale ∨ c.gen ≠ m.xfer / 2 ^ 20 % 64 then s.slStale e (if c.stale then some c else none)
    else if m.mstatus ≠ 0 then s.slFail e c (9 + 16 * m.mstatus) (m.addr % 2 ^ 52) c.cls c.req
    else act e c

/-- `READ_DATA` (R396): the bytes join those the command holds; it goes on when all have come. -/
def State.msgReadData (s : State) (m : FabMsg) : State :=
  s.msgReply m .fetch (fun e c =>
    let a := m.addr % 2 ^ 52
    let buf := m.data.zipIdx.foldl (fun b x => SMap.set 0 b (a + x.2) x.1) c.buf
    let need := c.need.filter (fun n => n.1 != a)
    s.updEngine e (fun x => x.putCmd c { c with buf := buf, need := need, phase := if need.isEmpty then .reading else .fetch }))

/-- `WRITE_ACK` (R396): the command is complete when every acknowledgement has returned. -/
def State.msgWriteAck (s : State) (m : FabMsg) : State :=
  s.msgReply m .push (fun e c =>
    let need := c.need.filter (fun n => n.1 != m.addr % 2 ^ 52)
    if need.isEmpty then (s.updEngine e (fun x => x.putCmd c c.advance)).plistFull c
    else s.updEngine e (fun x => x.putCmd c { c with need := need }))

/-! Channels and queues. -/

/-- A `CHAN_WRITE` on port `i` (R400): written in the channel's window with the rights of its plot, then signalled, and answered
with `WRITE_ACK` (R395, R397). It is refused and counted where the channel is not bound or the offset lies beyond the window. -/
def State.msgChan (s : State) (i : Nat) (m : FabMsg) : State :=
  let refuse := fun (cause : Nat) => (s.fabRefuse i).fabReply m 7 cause []
  match s.fab.chans.find? (fun c => !c.out && c.channel == m.channel && c.peer == m.src) with
  | none => refuse 2
  | some c =>
    match s.plot c.lead with
    | none => refuse 2
    | some p =>
      match (s.fabRecs p).find? (fun r => leAt p.plat r 1 == 1 && leAt p.plat (r + 2) 2 == m.channel) with
      | none => refuse 2
      | some r =>
        let off := m.addr % 2 ^ 32
        let pos := leAt p.plat (r + 0x14) 2
        let a := (s.relocate p (leAt p.plat (r + 6) 1) pos (leAt p.plat (r + 8) 8 % 2 ^ 52) + off) % 2 ^ 52
        let n := m.data.length
        if leAt p.plat (r + 0x10) 4 < off + n ∨ (0 < n ∧ (s.unmapped a n).isSome) then refuse 2
        else if 0 < n ∧ !s.mayTouch (some c.lead) 0 a n true then refuse 3
        else
          let s1 := if n = 0 then s else s.put a m.data 0 0
          let s2 := if bitB m.mflags 0 then s1.engineSignal (p.tileOf pos) (leAt p.plat (r + 7) 1 % 32) else s1
          s2.fabReply m 7 0 []

/-- A `QUEUE_LINK` (R266, R268, R401): a return packet goes to the lateral engine of its tag's quadrant, any other into its queue;
where cells lack, the plot that owns the queue is forced (Table 9-9). -/
def State.msgQueue (s : State) (m : FabMsg) : State :=
  let q := m.addr / 2 ^ 13 % 4
  let n := m.addr % 2 ^ 13
  let items := (List.range (m.data.length / 32)).map (fun i => slice m.data (32 * i) 32)
  let hd := items.headD []
  let lead := (s.queueLead q (queueOwner n)).getD 64
  let count := fun (s : State) (e : Nat) => s.updLe e (fun l => { l with bytesIn := satAdd 48 l.bytesIn m.data.length })
  if m.addr / 2 ^ 15 % 4 ≠ s.slot % 4 ∨ items.isEmpty then s
  else if leAt hd 0 1 = 3 then
    let e := leAt hd 4 4 / 2 ^ 28 % 4
    (count s e).latArrive e n lead items
  else match s.linkWhole q n (0x40 + q) (s.latItems items) with
  | some s1 => count (s1.tick items.length) q
  | none => s.leFault q 0x12 0 n (leAt hd 4 4) ((s.queueLead q (queueOwner n)).elim [] (fun b => [b]))

/-- The virtual channel a message goes on by as transit traffic: reserved slots serve direct links only (R399). -/
def msgVc (kind : Nat) : Nat := if kind = 6 then 2 else 1

/-- A message arrives whole on port `i` (R395): for another module it goes on as transit traffic, for this one it has its
effect. The contents of management messages come as commands of their own. -/
def State.fabTake (s : State) (i : Nat) (m : FabMsg) : State :=
  if m.dest ≠ ownSerial then
    (if m.ttl ≤ 1 ∨ (s.routePort m.dest).isNone then s.updFab (fun f => { f with transitDrop := satAdd 32 f.transitDrop 1 })
      else (s.updFab (fun f => { f with transit := satAdd 48 f.transit 1 })).fabSend (msgVc m.kind) { m with ttl := m.ttl - 1 })
  else match m.kind with
  | 1 => s.msgWrite i m
  | 2 => s.msgRead i m
  | 3 => s.msgReadData m
  | 4 => s.msgChan i m
  | 5 => s.msgQueue m
  | 7 => s.msgWriteAck m
  | _ => s

/-- A message that a command gives. -/
def msgOf (kind : Nat) (m : MsgIn) : FabMsg :=
  ⟨m.dest.toNat, m.src.toNat, kind, m.ttl.toNat, m.parcel.toNat, m.len.toNat, m.addr.toNat, m.xfer.toNat, m.channel.toNat,
   m.mstatus.toNat, m.mflags.toNat, m.data.take m.len.toNat⟩

/-- A message arrives on a port whose link is `UP`. -/
def State.fabArrive (s : State) (kind : Nat) (port : Fin 12) (m : MsgIn) : State :=
  if (s.fport port.val).state = .up then s.fabTake port.val (msgOf kind m) else s

/-- WRITE (R396). -/
def execWrite (port : Fin 12) (m : MsgIn) (s : State) : Host.Outcome State Fault Refusal := .next (s.fabArrive 1 port m)

/-- READ (R396). -/
def execRead (port : Fin 12) (m : MsgIn) (s : State) : Host.Outcome State Fault Refusal := .next (s.fabArrive 2 port m)

/-- READ_DATA (R396, R397). -/
def execReadData (port : Fin 12) (m : MsgIn) (s : State) : Host.Outcome State Fault Refusal := .next (s.fabArrive 3 port m)

/-- WRITE_ACK (R396, R397). -/
def execWriteAck (port : Fin 12) (m : MsgIn) (s : State) : Host.Outcome State Fault Refusal := .next (s.fabArrive 7 port m)

/-- CHAN_WRITE (R400). -/
def execChanWrite (port : Fin 12) (m : MsgIn) (s : State) : Host.Outcome State Fault Refusal := .next (s.fabArrive 4 port m)

/-- QUEUE_LINK (R266, R268, R401). -/
def execQueueLink (port : Fin 12) (m : MsgIn) (s : State) : Host.Outcome State Fault Refusal := .next (s.fabArrive 5 port m)

/-- REMOTE_TIMEOUT (R397): a remote command's message has had no reply for 1 ms. -/
def execRemoteTimeout (engine : Fin 64) (index : BitVec 20) (s : State) : Host.Outcome State Fault Refusal :=
  let e := engine.val
  .next (match (s.engine e).findCmd index.toNat (fun p => p == .fetch || p == .push) with
    | none => s
    | some c =>
      if c.stale then s.slFree e c else s.slFail e c 9 (c.need.headD (0, 0)).1 c.cls c.req)

/-! Flits (R381 to R384). -/

/-- The replay buffer after an acknowledgement of flit `a` (R383). -/
def ackReplay (l : List SentFlit) (a : Nat) : List SentFlit :=
  if l.any (fun f => f.seq == a) then (l.dropWhile (fun f => f.seq != a)).drop 1 else l

/-- The parts of a flit that serve the sender: its acknowledgement and the credits it returns (R383, R384); it counts towards the next
acknowledgement. -/
def FabPort.takeAck (p : FabPort) (h : Nat) : FabPort :=
  { p with
    sinceAck := p.sinceAck + 1
    replay := ackReplay p.replay (fieldN h 18 10)
    used := SMap.upd 0 p.used (fieldN h 46 2) (fun n => n - fieldN h 32 14) }

/-- A numbered flit in order, out of order or behind (R382, R383): whether it is delivered. -/
def FabPort.takeSeq (p : FabPort) (seq : Nat) : FabPort × Bool :=
  if seq = p.rxSeq then ({ p with rxSeq := (p.rxSeq + 1) % 1024, discarding := false }, true)
  else if p.discarding ∨ 512 ≤ (seq + 1024 - p.rxSeq) % 1024 then (p, false)
  else ({ p with discarding := true, nak := true }, false)

/-- A data flit joins the message in assembly on its channel; the message when it is complete (R394). -/
def FabPort.assemble (p : FabPort) (h : Nat) (payload : Bytes) : FabPort × Option Bytes :=
  let vc := fieldN h 4 2
  let l := (if bitB h 6 then [] else SMap.get [] p.asm vc) ++ payload
  let p1 := { p with rxFlits := satAdd 48 p.rxFlits 1, owed := SMap.upd 0 p.owed vc (fun n => n + 1) }
  if bitB h 7 then ({ p1 with asm := SMap.set [] p1.asm vc [] }, some l) else ({ p1 with asm := SMap.set [] p1.asm vc l }, none)

/-- What a received flit tells the sender (R383): its acknowledgement and credits, and with `NAK` the replay. -/
def State.flitAck (s : State) (i h : Nat) : State :=
  let s1 := s.setFport i ((s.fport i).takeAck h)
  if bitB h 28 then s1.resend i else s1

/-- A data or benchmark flit (R382, R394): it is delivered when it is the one awaited; a data flit joins its message, and a message that is
complete has its effect. -/
def State.flitData (s : State) (i h : Nat) (flit : Bytes) : State :=
  let k := fieldN h 0 4
  if k = 1 ∨ k = 3 then
    (let r := (s.fport i).takeSeq (fieldN h 8 10)
     let s1 := s.setFport i r.1
     if r.2 && k == 1 && (s1.fport i).state == .up then
       (let x := (s1.fport i).assemble h (slice flit 8 (min 240 (fieldN h 48 8)))
        let s2 := s1.setFport i x.1
        match x.2 with
        | some l => if 48 ≤ l.length then s2.fabTake i (fabMsgOf l) else s2
        | none => s2)
     else s1)
  else s

/-- What a port sends after a flit has come (R383, R384): an acknowledgement after 64, and the flits that have credit now. -/
def State.flitReply (s : State) (i : Nat) : State :=
  let q := s.fport i
  s.setFport i (FabPort.pump 1024 (if 64 ≤ q.sinceAck then q.emit 2 0 false false [] else q))

/-- The codewords that the FEC has corrected under a flit: how many is free (R379, DESIGN CHOICE, log entry 189). -/
def State.fecSeen (s : State) (i : Nat) : State :=
  (s.updFport i (fun p => { p with fecCnt := satAdd 48 p.fecCnt (Config.freeWord32 s.free).toNat })).tick 1

/-- FLIT_RECEIVE (R381 to R384, R394): a flit arrives on a link that carries flits. -/
def execFlitReceive (port : Fin 12) (flit : Bytes) (t : Nat) (s : State) : Host.Outcome State Fault Refusal :=
  let i := port.val
  let s0 := s.at' t
  let st := (s0.fport i).state
  let s1 := s0.fecSeen i
  .next (if st ≠ .up ∧ st ≠ .ident ∧ st ≠ .quarantined then s0
    else if !flitCrcOk flit then
      s1.updFport i (fun p => { p with crcCnt := satAdd 32 p.crcCnt 1, discarding := true, nak := true, sinceAck := p.sinceAck + 1 })
    else ((s1.flitAck i (flitHead flit)).flitData i (flitHead flit) flit).flitReply i)

/-- ACK_TIMER (R383): the acknowledgement of at least every 200 ns. -/
def execAckTimer (port : Fin 12) (s : State) : Host.Outcome State Fault Refusal :=
  let p := s.fport port.val
  .next (if p.state = .up then s.setFport port.val (p.emit 2 0 false false []) else s)

/-! The management channel. -/

/-- The directly connected modules (R395). -/
def State.ownNbrs (s : State) : List Nat :=
  (((List.range 12).filter (fun i => (s.fport i).state == .up)).map (fun i => (s.fport i).benchSerial)).eraseDups

/-- NEIGHBOUR_EXCHANGE (R395): a module's list arrives, or this module sends its own to every module it knows. -/
def execNeighbourExchange (arrive : Option MgmtIn) (list : List (BitVec 64)) (s : State) : Host.Outcome State Fault Refusal :=
  .next (match arrive with
    | some m => s.mgmtTake m (fun s => s.updFab (fun f => { f with
        nbrs := f.nbrs.filter (fun n => n.serial != m.src.toNat) ++ [⟨m.src.toNat, list.map (fun x => x.toNat)⟩] }))
    | none =>
      let own := s.ownNbrs
      let all := (own ++ s.fab.nbrs.flatMap (fun n => n.serial :: n.list)).eraseDups.filter (fun d => d != ownSerial)
      all.foldl (fun (s : State) d => s.mgmtSend d false ([1] ++ own.flatMap (fun x => toLe 8 x))) s)

/-- MGMT_RESEND (R402): a management message is acknowledged, or is sent again after 1 ms. -/
def execMgmtResend (id : BitVec 32) (acked : Bool) (s : State) : Host.Outcome State Fault Refusal :=
  .next (match s.fab.mgmt.find? (fun x => x.id == id.toNat) with
    | none => s
    | some x =>
      if acked then s.updFab (fun f => { f with mgmt := f.mgmt.filter (fun y => y.id != id.toNat) })
      else (s.updFab (fun f => { f with mgmt := f.mgmt.map (fun y => if y.id = id.toNat then { y with sends := y.sends + 1 } else y) })).mgmtEmit
        x.dest x.id x.both x.body)

/-- The entries of the models with a tag. -/
def State.modelsOfTag (s : State) (tag : Nat) : List Nat :=
  (List.range 256).filter (fun i => (s.entry i).state != .free && (s.entry i).reg' 0 8 == tag)

/-- What an abort notice does to model `i` here (R404, R406, R407): after `LINK_DOWN` an agreement begins, and the plot's task, if it runs
one, is forced with the notice's cause. -/
def State.abortModel (s : State) (cause : Nat) (i : Nat) : State :=
  let id := s.modelId i
  let s' := if cause = 0x0407 then s.startAgree id 0x0407 else s
  match s'.plotOfModel id with
  | none => s'
  | some b => match s'.plot b with
    | some p => if p.task.isSome then s'.force b (if cause = 0x0403 then 0x0C else 0x0D) cause 0 else s'
    | none => s'

/-- An abort notice is counted and signalled, and every model of its tag is aborted (R404, R408). -/
def State.takeAbort (s : State) (tag cause : Nat) : State :=
  let s1 := (s.updFab (fun f => { f with abortRx := satAdd 32 f.abortRx 1 })).signal 212
  (s1.modelsOfTag tag).foldl (fun (s : State) i => s.abortModel cause i) s1

/-- ABORT_NOTICE (R404, R406, R407): the member's task of the model is forced with the notice's cause, and after `LINK_DOWN` the
member takes part in the agreement. -/
def execAbortNotice (m : MgmtIn) (tag : BitVec 64) (cause : BitVec 16) (t : Nat) (s : State) : Host.Outcome State Fault Refusal :=
  .next ((s.at' t).mgmtTake m (fun s => s.takeAbort tag.toNat cause.toNat))

/-- The plot of model `i` with its record of a channel whose far end is `peer` (R400). -/
def State.chanRecord (s : State) (i channel peer : Nat) (out : Bool) : Option (Nat × Plot × Nat) :=
  (s.plotOfModel (s.modelId i)).bind (fun b => (s.plot b).bind (fun p =>
    ((s.fabRecs p).find? (fun r => leAt p.plat r 1 == (if out then 0 else 1) && leAt p.plat (r + 2) 2 == channel &&
      (s.entry i).serials.getD (leAt p.plat (r + 1) 1) 0 == peer)).map (fun r => (b, p, r))))

/-- The peer's offer or confirmation of a channel is taken (R400): it is bound once this plot is placed, and an offer is confirmed. -/
def State.takeBind (s : State) (i channel peer : Nat) (out reply : Bool) : State :=
  match s.chanRecord i channel peer out with
  | none => s
  | some (b, p, r) =>
    let c : ChanBind := ⟨b, channel, peer, out⟩
    let s1 := if s.fab.chans.contains c then s else s.updFab (fun f => { f with chans := f.chans ++ [c] })
    if reply then s1 else s1.sendBind p true r

/-- CHANNEL_BIND (R400): the peer's Surveyor offers or confirms a channel. `out` says whether this end sends. -/
def execChannelBind (m : MgmtIn) (model : Fin 256) (channel : Fin 4096) (out reply : Bool) (s : State) :
    Host.Outcome State Fault Refusal :=
  .next (s.mgmtTake m (fun s => s.takeBind model.val channel.val m.src.toNat out reply))

/-- Whether the links that a plat of a model needs here are `UP` (R406). -/
def State.linksUp (s : State) (id k : Nat) (m : Model) : Bool :=
  let p := newPlot (SMap.get [] m.plats k) id k m.owner 0 0
  (s.fabRecs p).all (fun r => leAt p.plat (r + 4) 2 == 0 || !(s.directPorts (m.serials.getD (leAt p.plat (r + 1) 1) 0)).isEmpty)

/-- DEGRADED_AGREEMENT (R406): the members have agreed on a degraded position, or that none qualifies; position 0 returns the
model to its normal plat, once its plot is idle, no request waits for it and the links it needs are `UP`. -/
def execDegradedAgreement (model : Fin 256) (pos : Option (Fin 16)) (t : Nat) (s : State) : Host.Outcome State Fault Refusal :=
  let s0 := s.at' t
  let id := s0.modelId model.val
  let agree := fun (s : State) => s.updFab (fun f => { f with agree := f.agree.filter (fun a => a.model != id) ++
    [⟨id, 0x0407, some (pos.map (fun x => x.val))⟩] })
  .next (match s0.modelOf id with
    | none => s0
    | some m =>
      let known := match pos with
        | none => true
        | some k => !(SMap.get [] m.plats k.val).isEmpty
      let normal := pos.map (fun x => x.val) == some 0
      if !known then s0
      else match s0.plotOfModel id with
      | some b =>
        (match s0.plot b with
          | none => s0
          | some p =>
            if normal then
              (if m.position = 0 ∨ !p.idle ∨ s0.plotWanted p ∨ m.state ≠ .filled ∨ !s0.linksUp id 0 m then s0 else (agree s0).degrade b)
            else if s0.fab.agree.any (fun a => a.model == id && a.chosen.isNone) then (agree s0).degrade b
            else s0)
      | none =>
        if normal || s0.fab.agree.any (fun a => a.model == id && a.chosen.isNone) then
          (s0.updFab (fun f => { f with agree := f.agree.filter (fun a => a.model != id) })).updModel id (fun (m : Model) =>
            { m with position := (pos.map (fun x => x.val)).getD m.position })
        else s0)

/-- LIVENESS_PROBE (R405): a link in `RECOVER` sends a probe over network B every 10 µs. -/
def execLivenessProbe (port : Fin 12) (s : State) : Host.Outcome State Fault Refusal :=
  let p := s.fport port.val
  .next (if p.state = .recover then
    (s.updFport port.val (fun p => { p with probes := p.probes + 1 })).mgmtNet p.benchSerial 0 [4] else s)

/-- PROBE_ANSWER (R405): a probe is answered at once, or an answer to this module's own is recorded. -/
def execProbeAnswer (serial : BitVec 64) (answer : Bool) (s : State) : Host.Outcome State Fault Refusal :=
  .next (if answer then
      (List.range 12).foldl (fun (s : State) i =>
        let p := s.fport i
        if p.state = .recover ∧ p.benchSerial = serial.toNat ∧ 0 < p.probes then s.setFport i { p with answered := true } else s) s
    else s.mgmtNet serial.toNat 0 [5])

/-- MGMT_AUTH_FAIL (R403): a datagram on port 47,101 that fails authentication is dropped and counted. -/
def execMgmtAuthFail (s : State) : Host.Outcome State Fault Refusal :=
  .next { s with mail := { s.mail with mgmtFail := satAdd 64 s.mail.mgmtFail 1 } }

end Sys2Proof.Machine
end

