-- ==== Sys2Proof/Machine/Ports.lean ====
section
/-! DEFINITION. The Ethernet ports and their queue pairs (R353 to R355, R372), the clock (R327, R328), and the CXL ports
(R175 to R177, R480). -/

namespace Sys2Proof.Machine

/-- Set a bit of `SEC_EVENT` (Table 17-8). -/
def State.secEvent (s : State) (i : Nat) : State :=
  ({ s with sec := { s.sec with event := setBitN s.sec.event i } } : State).signal 6

/-! Ethernet. -/

/-- A0 and B0 leave 25GBASE-KR once another port of their network is up after a wake (R443). -/
def State.ethFast (s : State) (i : Nat) : State :=
  if i % 4 = 0 ∨ s.power.mode = .dormant then s
  else { s with power := { s.power with eth25 := clearBitN s.power.eth25 (i / 4 * 4) } }

/-- ETH_LINK_CHANGE (R327, R355, R443): an Ethernet port goes up or down; in Dormant only A0 and B0 are on. -/
def execEthLinkChange (port : Fin 8) (up : Bool) (t : Nat) (s : State) : Host.Outcome State Fault Refusal :=
  let s0 := s.at' t
  let i := port.val
  .next (if !up then s0.ethDown i
    else if SMap.get false s0.mail.linkUp i ∨ (s0.power.mode = .dormant ∧ i % 4 ≠ 0) ∨ s0.power.mode = .off then s0
    else
      let s1 : State := { s0.ethFast i with mail := { s0.mail with linkUp := SMap.set false s0.mail.linkUp i true } }
      let s2 := (s1.signal (217 + i)).post false 0x08 0x02 0 0xFFFF i 0
      s2.movePtp.trainEnd 1 i)

/-- RDMA_CONNECT (R354, R355, R372): a connection request on an intake ring with its private data; it binds a queue pair, or is
rejected. -/
def execRdmaConnect (port : Fin 8) (qp : BitVec 24) (priv : Bytes) (s : State) : Host.Outcome State Fault Refusal :=
  let i := leAt priv 2 1
  let r := s.ring i
  let ok := decide (port.val < 4) && SMap.get false s.mail.linkUp port.val && decide (priv.length = 8) &&
    decide (r.state = 1 ∧ r.owner = leAt priv 0 2 ∧ r.key = leAt priv 4 4) && decide ((s.ringQps i).length < 8) &&
    decide (s.mail.qps.length < 4096) && !s.mail.qps.any (fun q => q.num == qp.toNat)
  .next (if ok then { s with mail := { s.mail with qps := s.mail.qps ++ [⟨qp.toNat, some i, port.val, true, 1024⟩] } } else s)

/-- NEIGHBOUR_REQUEST (R353): an ARP (0), neighbour-discovery (1), ICMP (2) or ICMPv6 (3) request is answered within 100 a second
for each kind and port. -/
def execNeighbourRequest (port : Fin 8) (kind : Fin 4) (t : Nat) (s : State) : Host.Outcome State Fault Refusal :=
  let s0 := s.at' t
  let k := 4 * port.val + kind.val
  let recent := s0.mail.answered.filter (fun x => decide (s0.now < x.2 + 1000000000))
  .next (if SMap.get false s0.mail.linkUp port.val ∧ (recent.filter (fun x => x.1 == k)).length < 100 then
    { s0 with mail := { s0.mail with answered := recent ++ [(k, s0.now)] } } else s0)

/-- CONGESTION_NOTIFICATION (R355): the module lowers its sending rate on a queue pair; how far is left open. -/
def execCongestionNotification (qp : BitVec 24) (s : State) : Host.Outcome State Fault Refusal :=
  .next (({ s with mail := { s.mail with qps := s.mail.qps.map (fun q =>
    if q.num = qp.toNat then { q with rate := (Config.freeWord32 s.free).toNat % (max 1 q.rate) } else q) } } : State).tick 1)

/-! The clock. -/

/-- PTP_MESSAGE (R327, R328): the clock hears its master on the PTP port, in its domain; `t` is the module time the servo gives. -/
def execPtpMessage (port : Fin 4) (domain : BitVec 8) (locked : Bool) (offset : BitVec 32) (t : Nat) (s : State) :
    Host.Outcome State Fault Refusal :=
  .next (if port.val ≠ s.time.port ∨ SMap.get false s.mail.linkUp port.val = false ∨ domain.toNat ≠ s.time.domain then s
    else if locked then
      let s1 : State := { s with now := t, time := { s.time with
        locked := true, holdover := false, offset := offset.toInt, lastSync := t } }
      s1.setValid true
    else ({ s.at' t with time := { (s.at' t).time with offset := offset.toInt } } : State).loseLock)

/-- HOLDOVER_EXPIRE (R328): holdover has lasted `TIME_CFG.HOLDOVER` seconds. -/
def execHoldoverExpire (t : Nat) (s : State) : Host.Outcome State Fault Refusal :=
  let s0 := s.at' t
  .next (if s0.time.holdover ∧ s0.time.holdFrom + s0.time.cfg * 1000000000 ≤ s0.now then
    ({ s0 with time := { s0.time with holdover := false } } : State).setValid false else s0)

/-! CXL. -/

/-- CXL_LINK_UP (R160, R175, R176, R480): a CXL link trains. A device that passes every step of R480, `good`, is used; its chain digest
goes to the field book. A port that a second IDE failure left down stays down. -/
def execCxlLinkUp (q : Fin 4) (speed : BitVec 2) (width : BitVec 5) (cap : BitVec 22) (good : Bool) (digest : BitVec 64) (t : Nat)
    (s : State) : Host.Outcome State Fault Refusal :=
  let s0 := s.at' t
  let i := q.val
  .next (if bitB s0.sec.ideDown i ∨ (s0.quad i).aqUp then s0
    else if !good then s0.trainEnd 2 i
    else
      let s1 := s0.updQuad i (fun m => { m with
        aqUp := true, aqSpeed := speed.toNat, aqWidth := width.toNat, aqIde := true, aqCap := min cap.toNat (2 ^ 21) })
      let s2 := (s1.signal (213 + i)).post false 0x08 0x02 0 0xFFFF (0x10 + i) (BitVec.ofNat 64 (s1.quad i).aqStatus)
      (s2.post false 0x0E 0x07 0 0xFFFF (0x10 + i) digest).trainEnd 2 i)

/-- CXL_LINK_DOWN (R177). -/
def execCxlLinkDown (q : Fin 4) (t : Nat) (s : State) : Host.Outcome State Fault Refusal :=
  .next ((s.at' t).cxlDown q.val)

/-- IDE_FAILURE (R480): the stream ends and the port goes down; a second failure within 1 s leaves it down. -/
def execIdeFailure (q : Fin 4) (t : Nat) (s : State) : Host.Outcome State Fault Refusal :=
  let s0 := s.at' t
  let i := q.val
  .next (if !(s0.quad i).aqIde then s0
    else
      let last := SMap.get 0 s0.sec.ideAt i
      let again := decide (0 < last ∧ s0.now < last - 1 + 1000000000)
      let s1 : State := { s0 with sec := { s0.sec with
        ideAt := SMap.set 0 s0.sec.ideAt i (s0.now + 1)
        ideDown := if again then setBitN s0.sec.ideDown i else s0.sec.ideDown } }
      ((s1.secEvent 3).post false 0x0E 0x08 0 0xFFFF (0x10 + i) (if again then 2 else 1)).cxlDown i)

end Sys2Proof.Machine
end

