-- ==== Sys2Proof/Machine/Headgate.lean ====
section
/-! DEFINITION. The Headgate: interrupt controller (R417 to R424), cores and their heartbeats (R410, R429), the field book's log
(R431 to R435), policy modules (R413 to R416); and the arbiters (R333 to R338). -/

namespace Sys2Proof.Machine

/-! The interrupt controller. -/

/-- Whether a source is one that signals (Table 15-5). -/
def hicSource (n : Nat) : Bool := decide (n < 8 ∨ (16 ≤ n ∧ n < 227))

/-- HIC_SOURCE_EVENT (R417, R418): a unit's condition arises. -/
def execHicSourceEvent (src : Fin 256) (s : State) : Host.Outcome State Fault Refusal :=
  .next (if hicSource src.val then s.signal src.val else s)

/-- The group of a priority (R419). -/
def Hic.group (h : Hic) (p : Nat) : Nat := p / 2 ^ (8 - min 8 h.grpBits)

/-- The active sources of a core. -/
def Hic.of (h : Hic) (c : Nat) : List HicActive := h.active.filter (fun a => a.core == c)

/-- The running group of a core plus 1; 0 for none (R419). -/
def Hic.running (h : Hic) (c : Nat) : Nat := ((h.of c).map (fun a => h.group a.prio + 1)).foldl max 0

/-- Whether a source is eligible for a core (R420). -/
def Hic.eligible (h : Hic) (c n : Nat) : Bool :=
  let p := SMap.get 0 h.prio n
  h.pend.getLsbD n && h.en.getLsbD n && decide (SMap.get 0 h.target n = c) && decide (SMap.get 0 h.thresh c < p) &&
    decide (h.running c < h.group p + 1) && h.enable && decide (p ≠ 0)

/-- The source offered to a core: the largest priority, then the lowest number (R420); none while 16 are active (R422). -/
def Hic.offer (h : Hic) (c : Nat) : Option Nat :=
  if 16 ≤ (h.of c).length then none
  else ((List.range 256).filter (h.eligible c)).foldl (fun best n =>
    match best with
    | none => some n
    | some b => if SMap.get 0 h.prio b < SMap.get 0 h.prio n then some n else some b) none

/-- Core `c`. -/
def State.core (s : State) (c : Nat) : HgCore := SMap.get HgCore.reset s.cores c

/-- Change core `c`. -/
def State.updCore (s : State) (c : Nat) (f : HgCore → HgCore) : State :=
  { s with cores := SMap.set HgCore.reset s.cores c (f (s.core c)) }

/-- The machine external interrupt cause of RISC-V. -/
def extCause : BitVec 64 := 0x800000000000000B#64

/-- A core takes the source it is offered (R420), where its own instructions have left it as `x` gives. -/
def State.take (s : State) (x : CoreIn) : State :=
  let c := x.core.val
  let k := s.core c
  if !(k.running && !k.held && x.mie && x.meie) then s
  else match s.hic.offer c with
  | none => s
  | some n =>
    let s1 : State := { s with hic := { s.hic with
      pend := s.hic.pend &&& ~~~(BitVec.ofNat 256 (2 ^ n))
      active := s.hic.active ++ [⟨c, n, SMap.get 0 s.hic.prio n⟩]
      takeCnt := SMap.upd 0 s.hic.takeCnt c (fun x => satAdd 48 x 1) } }
    s1.updCore c (fun k => { k with
      mepc := x.pc, mcause := extCause, mpie := x.mie, mie := false, meie := x.meie
      pc := BitVec.ofNat 64 (SMap.get 0 s.hic.vbase c + 64 * n) })

/-- HIC_TAKE (R420, R422). -/
def execHicTake (x : CoreIn) (s : State) : Host.Outcome State Fault Refusal := .next (s.take x)

/-- HIC_EOI (R421): the source's active bit on this core clears, or the write is counted. -/
def execHicEoi (core : Fin 4) (src : BitVec 8) (s : State) : Host.Outcome State Fault Refusal :=
  let c := core.val
  .next (if s.hic.active.any (fun a => a.core == c && a.src == src.toNat) then
    { s with hic := { s.hic with active := s.hic.active.filter (fun a => !(a.core == c && a.src == src.toNat)) } }
  else { s with hic := { s.hic with badEoi := SMap.upd 0 s.hic.badEoi c (fun x => satAdd 32 x 1) } })

/-- HIC_SWI (R417, Table 15-6): events on software sources 0 to 3. -/
def execHicSwi (v : BitVec 4) (s : State) : Host.Outcome State Fault Refusal :=
  .next ([0, 1, 2, 3].foldl (fun (s : State) c => if v.getLsbD c then s.signal c else s) s)

/-- HIC_PEND_WRITE (R424): a write of word `w`, with the events of sources of that word and the take that fall in its cycle: a take
happens from the state before, an event's bit is 1 afterwards. -/
def execHicPendWrite (w : Fin 4) (v events : BitVec 64) (taker : Option CoreIn) (s : State) : Host.Outcome State Fault Refusal :=
  let s1 := match taker with
    | some x => s.take x
    | none => s
  let m : BitVec 256 := BitVec.ofNat 256 ((2 ^ 64 - 1) * 2 ^ (64 * w.val))
  .next { s1 with hic := { s1.hic with
    pend := (s1.hic.pend &&& ~~~m) ||| BitVec.ofNat 256 ((v ||| events).toNat * 2 ^ (64 * w.val)) } }

/-! The flash log (R433 to R435). -/

/-- Whether a record sends a page to flash at once (R434). -/
def FbRec.flushes (r : FbRec) : Bool := decide (r.status = 0x0501 ∨ r.status = 0x0502 ∨ r.src = 0x09 ∨ r.src = 0x0A)

/-- The records not yet in flash. -/
def FieldBook.fresh (b : FieldBook) : List FbRec := b.ring.drop (b.ring.length - b.waiting)

/-- Write a page of the oldest records not yet in flash; the sector is erased before its first page (R433). -/
def FieldBook.writePage (b : FieldBook) (now : Nat) : FieldBook :=
  let l := b.fresh.take 127
  if l.isEmpty then b
  else
    let keep := if b.pageSeq % 16 = 0 then b.pages.filter (fun p => p.seq % 256 / 16 != b.pageSeq % 256 / 16) else b.pages
    { b with pages := keep ++ [⟨b.pageSeq, l⟩], pageSeq := b.pageSeq + 1, waiting := b.fresh.length - l.length, lastPage := now }

/-- LOG_PAGE_WRITE (R434): a page is written when 127 records have gathered or one of them is to be flushed at once. -/
def execLogPageWrite (t : Nat) (s : State) : Host.Outcome State Fault Refusal :=
  let s0 := s.at' t
  .next (if 127 ≤ s0.book.fresh.length ∨ s0.book.fresh.any FbRec.flushes then { s0 with book := s0.book.writePage s0.now } else s0)

/-- LOG_FLUSH_TIMER (R434): 10 s have passed since the last page and records wait. -/
def execLogFlushTimer (t : Nat) (s : State) : Host.Outcome State Fault Refusal :=
  let s0 := s.at' t
  .next (if s0.book.lastPage + 10000000000 ≤ s0.now then { s0 with book := s0.book.writePage s0.now } else s0)

/-- FIELDBOOK_EVENT_POST (R431, R432): a core posts an event through the Ditch Rider's mailbox. -/
def execFieldbookEventPost (src : BitVec 8) (code status parcel : BitVec 16) (unit : BitVec 32) (detail : BitVec 64) (t : Nat)
    (s : State) : Host.Outcome State Fault Refusal :=
  .next ((s.at' t).post false src.toNat code.toNat status.toNat parcel.toNat unit.toNat detail)

/-- AUXILIARY_INPUT_RETURN (R435, R460): the always-on domain starts afresh: the ring is the newest 4,096 records of the log, a latched
trip is gone, and the module waits for main input as after a fall below 42 V. -/
def execAuxiliaryInputReturn (t : Nat) (s : State) : Host.Outcome State Fault Refusal :=
  let s0 := s.at' t
  let l := s0.book.pages.flatMap (fun p => p.recs)
  let ring := l.drop (l.length - 4096)
  .next { s0 with
    book := { s0.book with ring := ring, waiting := 0, lastPage := s0.now, next := (ring.map (fun r => r.num)).foldl max 0 + 1 }
    power := { s0.power with trip := false, offCause := if s0.power.offCause = 3 then 2 else s0.power.offCause } }

/-! Cores. -/

/-- Whether a core's heartbeat is watched (R429): it runs, and in Dormant only HG0's is. -/
def State.watched (s : State) (c : Nat) : Bool :=
  let k := s.core c
  k.running && !k.held && (c == 0 || s.power.mode != .dormant) && s.power.mode != .off

/-- A core starts again: its interrupts are cleared, its pending sources stay (R429). -/
def State.resetCore (s : State) (c : Nat) : State :=
  let s1 : State := { s with hic := { s.hic with active := s.hic.active.filter (fun a => a.core != c) } }
  s1.updCore c (fun k => { k with mie := false, meie := false, mpie := false, pc := 0, heartbeat := s.now })

/-- The duties of a core that stops move to the lowest-numbered core still running (R429, R471). -/
def State.moveDuties (s : State) (c : Nat) : State :=
  match ([0, 1, 2, 3] : List Nat).find? (fun x => x != c && (s.core x).running && !(s.core x).held) with
  | none => s
  | some x =>
    let d := (s.core c).duties
    (s.updCore x (fun k => { k with duties := k.duties ||| d })).updCore c (fun k => { k with duties := 0 })

/-- HEARTBEAT_TIMEOUT (R429): the heartbeat of a watched core is 100 ms old; the core is reset, or held at its third reset in 10 s
unless it is the last one running. -/
def execHeartbeatTimeout (core : Fin 4) (t : Nat) (s : State) : Host.Outcome State Fault Refusal :=
  let c := core.val
  let s0 := s.at' t
  let k := s0.core c
  .next (if !s0.watched c ∨ s0.now < k.heartbeat + 100000000 then s0
    else
      let resets := k.resets.filter (fun x => decide (s0.now < x + 10000000000)) ++ [s0.now]
      let last := !([0, 1, 2, 3] : List Nat).any (fun x => x != c && (s0.core x).running && !(s0.core x).held)
      let hold := decide (3 ≤ resets.length) && !last
      let s1 := (s0.post true 0x0A (if hold then 2 else 1) 0 0xFFFF c (if hold then 1 else 0)).resetCore c
      let s2 := s1.updCore c (fun k => { k with resets := resets, held := hold })
      if hold then s2.moveDuties c else s2)

/-! Arbiters. -/

/-- Arbiter `a`. -/
def State.arb (s : State) (a : Nat) : Arb := SMap.get Arb.reset s.arbs a

/-- Change arbiter `a`. -/
def State.updArb (s : State) (a : Nat) (f : Arb → Arb) : State := { s with arbs := SMap.set Arb.reset s.arbs a (f (s.arb a)) }

/-- Requesters of an arbiter (Table 12-5). -/
def arbRequesters (a : Nat) : Nat := if a < 96 then 19 else if a < 108 then 10 else 6

/-- The HIC source of an arbiter (Table 15-5). -/
def arbSource (a : Nat) : Nat := if a < 96 then 160 + a / 4 else a + 88

def Arb.weightOf (a : Arb) (r : Nat) : Nat := SMap.get 1 a.weight r

/-- The requester a decision grants among those of one class (R334): the last owner while its weight lasts, else the next after it. -/
def Arb.choose (a : Arb) (n asks : Nat) : Option Nat :=
  let may := fun r => bitB asks r && decide (a.weightOf r ≠ 0)
  if may a.last ∧ a.runs < a.weightOf a.last then some a.last
  else ((List.range n).map (fun i => (a.last + 1 + i) % n)).find? may

/-- One cycle of an arbiter (R333 to R337): the grant decided in the cycle before, or the parked owner's own, goes unless a static
request voids it; every other asker waits; and the next grant is decided from the requests of this cycle. -/
def Arb.cycle (a : Arb) (n fw other : Nat) (static : Bool) : Arb :=
  let asks := (fw ||| other) % 2 ^ n
  let own := decide (a.next = none) && a.parked && a.parkEn && decide (asks = 2 ^ a.last) && decide (a.weightOf a.last ≠ 0)
  let grant := match a.next with
    | some g => some g
    | none => if own then some a.last else none
  let void := static && grant.isSome
  let go := if void then none else grant
  let a1 := match go with
    | none => a
    | some g => { a with
      last := g
      runs := if g = a.last then a.runs + 1 else 1
      grants := SMap.upd 0 a.grants g (fun x => satAdd 48 x 1)
      waste := if bitB asks g then a.waste else satAdd 48 a.waste 1
      waitMax := SMap.upd 0 a.waitMax g (fun x => max x (min (2 ^ 24 - 1) (SMap.get 0 a.cur g))) }
  let waiting := fun r => bitB asks r && decide (go ≠ some r)
  let a2 := (List.range n).foldl (fun (x : Arb) r =>
    if waiting r then { x with waits := SMap.upd 0 x.waits r (fun y => satAdd 48 y 1), cur := SMap.upd 0 x.cur r (fun y => y + 1) }
    else { x with cur := SMap.set 0 x.cur r 0, marked := clearBitN x.marked r }) a1
  let pick := match a2.choose n (fw % 2 ^ n) with
    | some g => some g
    | none => a2.choose n (other % 2 ^ n)
  { a2 with
    static := if void then satAdd 48 a2.static 1 else a2.static
    asking := asks
    parked := decide (asks = 0) && a2.parkEn
    next := pick }

/-- ARB_DECISION (R333 to R337): a cycle of an arbiter with its class-0 requests, its class-1 requests and whether the stream of a
reserved slot presents its own; a cistern's static writes have a port of their own (R332). -/
def execArbDecision (arb : Fin 112) (fw other : BitVec 32) (static : Bool) (s : State) : Host.Outcome State Fault Refusal :=
  .next (s.updArb arb.val (fun a => a.cycle (arbRequesters arb.val) fw.toNat other.toNat (static && decide (arb.val < 108))))

/-- ARB_STARVE_THRESHOLD (R338): a requester's current wait has reached the threshold; its bit is set once for the wait. -/
def execArbStarveThreshold (arb : Fin 112) (r : Fin 32) (s : State) : Host.Outcome State Fault Refusal :=
  let i := arb.val
  let a := s.arb i
  .next (if a.thr = 0 ∨ SMap.get 0 a.cur r.val < a.thr ∨ bitB a.marked r.val ∨ arbRequesters i ≤ r.val then s
    else
      let s1 := s.updArb i (fun a => { a with starve := setBitN a.starve r.val, marked := setBitN a.marked r.val })
      if a.irqEn ∧ a.starve = 0 then s1.signal (arbSource i) else s1)

/-! Policy modules. -/

/-- The policy module of a slot. -/
def State.policy (s : State) (i : Nat) : Option Policy := SMap.get none s.policies i

/-- Replace the policy module of a slot. -/
def State.setPolicy (s : State) (i : Nat) (p : Option Policy) : State := { s with policies := SMap.set none s.policies i p }

/-- Whether the core of a slot is the one that an activation switches now: the slot's invocations wait (R472). -/
def State.polHalted (s : State) (i : Nat) : Bool := s.sec.activation.any (fun a => a.core == i)

/-- Invoke a module at an entry (R414): 0 tick, 1 starvation, 2 step. Up to 8 invocations wait, further ones are dropped. -/
def State.polInvoke (s : State) (i entry arg : Nat) : State :=
  match s.policy i with
  | none => s
  | some p =>
    if (s.parcel p.parcel).state ≠ .enabled then s
    else if p.running.isNone && !s.polHalted i then s.setPolicy i (some { p with running := some ⟨entry, arg⟩ })
    else if p.queue.length < 8 then s.setPolicy i (some { p with queue := p.queue ++ [⟨entry, arg⟩] })
    else s.setPolicy i (some { p with dropped := p.dropped + 1 })

/-- The current invocation of a module ends and the next begins. -/
def Policy.done (p : Policy) : Policy := { p with running := p.queue.head?, queue := p.queue.drop 1 }

/-- The core of a slot has resumed: the first invocation that waits begins, where none runs (R472). -/
def State.resumePolicy (s : State) (i : Nat) : State :=
  match s.policy i with
  | some p => if p.running.isNone && !s.polHalted i then s.setPolicy i (some p.done) else s
  | none => s

/-- POLICY_TICK (R414). -/
def execPolicyTick (slot : Fin 4) (t : Nat) (s : State) : Host.Outcome State Fault Refusal :=
  .next ((s.at' t).polInvoke slot.val 0 0)

/-- Whether an arbiter belongs to a quadrant, or a fabric port, that holds one of a parcel's plots (R414). -/
def State.arbNear (s : State) (a parcel : Nat) : Bool :=
  (List.range 64).any (fun b => match s.plot b with
    | some p => p.parcel == parcel && (if a < 96 then p.quads.contains (a / 24)
        else if a < 108 then (s.fport (a - 96)).reserved.any (fun r => r.lead == b)
        else p.quads.contains (a - 108))
    | none => false)

/-- POLICY_STARVE (R414): an arbiter near the parcel's plots has a bit set in `ARB_STARVE`. -/
def execPolicyStarve (slot : Fin 4) (arb : Fin 112) (s : State) : Host.Outcome State Fault Refusal :=
  .next (match s.policy slot.val with
    | some p => if (s.arb arb.val).starve ≠ 0 ∧ s.arbNear arb.val p.parcel then s.polInvoke slot.val 1 arb.val else s
    | none => s)

/-- POLICY_STEP (R271, R414): a step report of a plot of the parcel. -/
def execPolicyStep (slot : Fin 4) (lead : Fin 64) (s : State) : Host.Outcome State Fault Refusal :=
  .next (match s.policy slot.val, s.plot lead.val with
    | some p, some y => if y.parcel = p.parcel then s.polInvoke slot.val 2 lead.val else s
    | _, _ => s)

/-- POLICY_BUDGET_OVERRUN (R416): an invocation overruns its budget or faults; the module is removed. -/
def execPolicyBudgetOverrun (slot : Fin 4) (s : State) : Host.Outcome State Fault Refusal :=
  let i := slot.val
  .next (match s.policy i with
    | none => s
    | some p =>
      if p.running.isNone then s
      else (s.setPolicy i none).post false 0x0A 3 0 p.parcel i (BitVec.ofNat 64 (p.parcel + i * 2 ^ 16)))

/-- A policy call of a module that runs (R415): its effect and the status in a0. -/
def State.polCall (s : State) (i : Nat) (act : Policy → State × Nat) : State :=
  match s.policy i with
  | none => s
  | some p =>
    if p.running.isNone then s
    else
      let r := act p
      match r.1.policy i with
      | none => r.1
      | some q => r.1.setPolicy i (some { q with a0 := r.2 })

/-- POL_SHARE (R415): the parcel's effective prefill shares from the next rebalance on. -/
def execPolShare (slot : Fin 4) (lo hi : BitVec 64) (s : State) : Host.Outcome State Fault Refusal :=
  .next (s.polCall slot.val (fun p =>
    (s.updParcel p.parcel (fun x => { x with
      askLo := max x.pfMin (min x.pfMax lo.toNat), askHi := max x.pfMin (min x.pfMax hi.toNat) }), 0)))

/-- POL_PREEMPT (R415): the parcel's waiting placement for a model is urgent at once; a stale model ID is refused as Table 12-8 says. -/
def execPolPreempt (slot : Fin 4) (model : BitVec 64) (s : State) : Host.Outcome State Fault Refusal :=
  .next (s.polCall slot.val (fun p =>
    match s.modelOf model.toNat with
    | none => (s, 0x0304)
    | some m =>
      if m.owner ≠ p.parcel then (s, 0x0105)
      else ({ s with sched := { s.sched with waits := s.sched.waits.map (fun w =>
        if w.model = model.toNat then { w with urgent := true } else w) } }, 0)))

/-- POL_WEIGHT (R415): the weight of a requester of the arbiter whose starvation entry runs. -/
def execPolWeight (slot : Fin 4) (arb r w : BitVec 64) (s : State) : Host.Outcome State Fault Refusal :=
  .next (s.polCall slot.val (fun p =>
    let a := arb.toNat
    if p.running = some ⟨1, a⟩ ∧ a < 112 ∧ r.toNat < arbRequesters a then
      let v := max 1 (min 8 w.toNat)
      ((s.updArb a (fun x => { x with weight := SMap.set 1 x.weight r.toNat v })).post false 0x0A 4 0 p.parcel slot.val
        (BitVec.ofNat 64 (a + r.toNat * 2 ^ 16 + v * 2 ^ 32)), 0)
    else (s, 0x0105)))

/-- POL_DONE (R415): the invocation ends. -/
def execPolDone (slot : Fin 4) (s : State) : Host.Outcome State Fault Refusal :=
  .next (s.polCall slot.val (fun p => 
    (s.setPolicy slot.val (some (if s.polHalted slot.val then { p with running := none } else p.done)), 0)))

/-- The modules of a parcel that leaves `ENABLED` go (R413). -/
def State.dropPolicy (s : State) (parcel : Nat) : State :=
  [0, 1, 2, 3].foldl (fun (s : State) i => match s.policy i with
    | some p => if p.parcel = parcel then s.setPolicy i none else s
    | none => s) s

end Sys2Proof.Machine
end

