-- ==== Sys2Proof/Machine/Store.lean ====
section
/-! DEFINITION. The persistent store (R437 to R441): its records, commits, the choice of a bank at boot and what it restores. The
bodies of its records are laid out here where the spec gives their content only (log entry 41). -/

namespace Sys2Proof.Machine

/-- The store key (R467). -/
def storeKey : Bytes :=
  (hmac512 (toLe 32 Config.devSecret.toNat)
    [0x42, 0x58, 0x32, 0x34, 0x20, 0x73, 0x74, 0x6F, 0x72, 0x65, 0x20, 0x6B, 0x65, 0x79]).take 32

/-- The body of a parcel's record: number, state, quotas, wrapped key and signing key, 656 bytes (Table 13-7, R439). -/
def State.parcelRec (s : State) (n : Nat) : StoreRec :=
  let p := s.parcel n
  let quotas := toLe 1 p.qModels ++ toLe 1 p.qBlocks ++ toLe 2 p.qRings ++ toLe 2 p.qAdapters ++ toLe 2 p.pfMin ++ toLe 2 p.pfMax
    ++ zeros 2 ++ toLe 4 p.qInflight ++ toLe 4 p.qRes ++ toLe 4 p.qAq ++ toLe 4 p.qPreempt
  ⟨1, toLe 2 n ++ toLe 1 (if p.state = .enabled then 2 else 1) ++ zeros 5 ++ slice quotas 0 60
    ++ keyWrap storeKey ((s.box n).key.getD []) ++ toLe 4 p.signE ++ slice p.signN 0 512⟩

/-- The plan as `TOPOLOGY_PLAN_SET` gives it (Table 13-5). -/
def Fab.planBytes (f : Fab) : Bytes :=
  toLe 8 f.planId ++ zeros 8 ++ (List.range 12).flatMap (fun i => match f.planOf i with
    | some r => toLe 8 r.serial ++ toLe 1 r.slot ++ toLe 1 r.port ++ [1] ++ zeros 5
    | none => zeros 16)

/-- A network record (Table 13-11): network-order fields are held most significant byte first. -/
def NetRec.bytes (r : NetRec) (port : Nat) : Bytes :=
  toLe 1 port ++ toLe 1 r.pfx4 ++ toLe 1 r.pfx6 ++ [0] ++ toBe 4 r.ip4.toNat ++ toBe 16 r.ip6.toNat ++ toBe 4 r.gw4.toNat
    ++ toBe 16 r.gw6.toNat ++ zeros 4

/-- A network record from its bytes. -/
def netRecOf (l : Bytes) : NetRec :=
  ⟨leAt l 1 1, leAt l 2 1, BitVec.ofNat 32 (beAt l 4 4), BitVec.ofNat 128 (beAt l 8 16), BitVec.ofNat 32 (beAt l 0x18 4),
   BitVec.ofNat 128 (beAt l 0x1C 16)⟩

/-- The floor a commit records for a parcel: the one asked for, or the durable one (R440). -/
def Store.floorOf (t : Store) (p : Nat) : Nat :=
  match t.floorsAsked.find? (fun x => x.1 == p) with
  | some x => x.2
  | none => SMap.get 0 t.floors p

/-- The whole persistent state as records, the commit record last (Table 13-13, R440). -/
def State.storeImage (s : State) : List StoreRec :=
  let used := (List.range 513).filter (fun n => n != 0 && (s.parcel n).state != .free)
  let old := (SMap.get StoreBank.clear s.store.banks s.store.current).recs
  let nets := (List.range 8).filter (fun i => SMap.get NetRec.clear s.mail.recs i != NetRec.clear)
  used.map s.parcelRec
    ++ (match (s.box 0).key with
      | some k => [⟨2, keyWrap storeKey k⟩]
      | none => [])
    ++ (if s.fab.planId = 0 ∧ s.fab.plan.all Option.isNone then [] else [⟨3, s.fab.planBytes⟩])
    ++ [⟨4, toLe 1 nets.length ++ zeros 1 ++ toLe 2 s.mail.udpPort ++ zeros 4
      ++ nets.flatMap (fun i => (SMap.get NetRec.clear s.mail.recs i).bytes i)⟩]
    ++ [⟨5, (List.range 513).flatMap (fun n => toLe 4 (s.store.floorOf n))⟩,
        ⟨6, toLe 8 s.book.next ++ toLe 8 s.store.seconds ++ toLe 8 (s.store.commits + 1)⟩,
        ⟨7, toLe 4 s.power.cap⟩,
        ⟨8, toLe 8 (s.time.domain % 256 + s.time.cfg * 2 ^ 16) ++ toLe 8 s.time.surveyCfg⟩]
    ++ old.filter (fun r => decide (8 < r.type ∧ r.type ≠ 0xFFFF))
    ++ [⟨0xFFFF, []⟩]

/-- A change waits for the next commit (R440). -/
def State.wantCommit (s : State) : State := { s with store := { s.store with waiting := true } }

/-- The bank that does not hold the current state. -/
def Store.other (t : Store) : Nat := 1 - t.current % 2

/-- `SEQ` of the current bank. -/
def Store.seq (t : Store) : Nat := (SMap.get StoreBank.clear t.banks t.current).seq

/-- STORE_COMMIT (R440): the whole persistent state is posted to the Ditch Rider, which erases the other bank and writes it. -/
def execStoreCommit (t : Nat) (s : State) : Host.Outcome State Fault Refusal :=
  let s0 := s.at' t
  .next (if s0.store.running.isSome then s0
    else
      let img := s0.storeImage
      { s0 with store := { s0.store with
        running := some img
        waiting := false
        banks := SMap.set StoreBank.clear s0.store.banks s0.store.other ⟨false, s0.store.seq + 1, []⟩ } })

/-- STORE_COMMIT_COMPLETE (R440, R474): the bank's read-back holds and its changes are durable, or the commit is made again. -/
def execStoreCommitComplete (ok : Bool) (t : Nat) (s : State) : Host.Outcome State Fault Refusal :=
  let s0 := s.at' t
  .next (match s0.store.running with
    | none => s0
    | some img =>
      let b := s0.store.other
      let q := s0.store.seq + 1
      if !ok then s0.post false 0x0B 3 0 0xFFFF b (BitVec.ofNat 64 q)
      else
        let fl := ((img.find? (fun r => r.type == 5)).map (fun r => r.body)).getD []
        let floors := (List.range 513).foldl (fun m n => SMap.set 0 m n (leAt fl (4 * n) 4)) s0.store.floors
        let s1 : State := { s0 with store := { s0.store with
          banks := SMap.set StoreBank.clear s0.store.banks b ⟨true, q, img⟩
          current := b
          running := none
          commits := s0.store.commits + 1
          floors := floors
          floorsAsked := s0.store.floorsAsked.filter (fun x => SMap.get 0 floors x.1 != x.2) } }
        let keyIn := match (s1.box 0).key with
          | some k => img.any (fun r => r.type == 2 && r.body == keyWrap storeKey k)
          | none => false
        if keyIn then
          s1.sec.keyWaits.foldl (fun (s : State) w => s.complete w 0 [])
            { s1 with sec := { s1.sec with keyWaits := [] } }
        else s1)

/-! Boot. -/

/-- The bank chosen at boot (Table 15-14): its number, and whether the other bank's head carries a higher `SEQ`. -/
def Store.choose (t : Store) : Option (Nat × Bool) :=
  let b0 := SMap.get StoreBank.clear t.banks 0
  let b1 := SMap.get StoreBank.clear t.banks 1
  match b0.valid, b1.valid with
  | true, true => some (if b0.seq < b1.seq then 1 else 0, false)
  | true, false => some (0, decide (b0.seq < b1.seq))
  | false, true => some (1, decide (b1.seq < b0.seq))
  | false, false => none

/-- A parcel restored from its record. -/
def State.loadParcel (s : State) (l : Bytes) : State :=
  let n := leAt l 0 2
  let s1 := s.updParcel n (fun _ => { Parcel.reset with
    state := if leAt l 2 1 = 2 then .enabled else .disabled
    qModels := leAt l 8 1, qBlocks := leAt l 9 1, qRings := leAt l 0xA 2, qAdapters := leAt l 0xC 2
    pfMin := leAt l 0xE 2, pfMax := leAt l 0x10 2, pfLo := leAt l 0xE 2, pfHi := leAt l 0x10 2
    askLo := leAt l 0xE 2, askHi := leAt l 0x10 2
    qInflight := leAt l 0x14 4, qRes := leAt l 0x18 4, qAq := leAt l 0x1C 4, qPreempt := leAt l 0x20 4
    signE := leAt l 0x8C 4, signN := slice l 0x90 512 })
  s1.setBox n { Mailbox.fresh with key := keyUnwrap storeKey (slice l 0x44 72) }

/-- One record of the chosen bank takes effect. -/
def State.loadRec (s : State) (r : StoreRec) : State :=
  let l := r.body
  if r.type = 1 then s.loadParcel l
  else if r.type = 2 then s.setBox 0 { s.box 0 with key := keyUnwrap storeKey l }
  else if r.type = 3 then s.updFab (fun f => { f with
    planId := leAt l 0 8
    plan := (List.range 12).map (fun i => let o := 0x10 + 16 * i
      if leAt l (o + 0xA) 1 % 2 = 1 then some ⟨leAt l o 8, leAt l (o + 8) 1, leAt l (o + 9) 1⟩ else none) })
  else if r.type = 4 then
    { s with mail := { s.mail with
      udpPort := leAt l 2 2
      recs := (List.range (leAt l 0 1)).foldl (fun m i =>
        let x := slice l (8 + 48 * i) 48
        SMap.set NetRec.clear m (leAt x 0 1) (netRecOf x)) s.mail.recs } }
  else if r.type = 5 then
    let s1 := (List.range 513).foldl (fun (s : State) n =>
      if (s.box n).key.isSome then s.setBox n { s.box n with high := leAt l (4 * n) 4, seen := BitVec.allOnes 64 } else s) s
    { s1 with store := { s1.store with floors := (List.range 513).foldl (fun m n => SMap.set 0 m n (leAt l (4 * n) 4)) [] } }
  else if r.type = 6 then { s with store := { s.store with seconds := leAt l 8 8, commits := leAt l 0x10 8 } }
  else if r.type = 7 then { s with power := { s.power with cap := leAt l 0 4 } }
  else if r.type = 8 then
    { s with time := { s.time with domain := leAt l 0 1, cfg := leAt l 2 2, surveyCfg := leAt l 8 8 } }
  else s

/-- The store is read at power-up (R441, Table 15-14): the chosen bank's state, or an empty one. -/
def State.loadStore (s : State) : State :=
  match s.store.choose with
  | none => s.post false 0x0B 2 0 0xFFFF 0 0
  | some (b, behind) =>
    let bank := SMap.get StoreBank.clear s.store.banks b
    let s1 := bank.recs.foldl State.loadRec { s with store := { s.store with current := b, running := none, waiting := false, floorsAsked := [] } }
    if behind then s1.post false 0x0B 1 0 0xFFFF b (BitVec.ofNat 64 bank.seq) else s1

end Sys2Proof.Machine
end

