-- ==== Sys2Proof/Machine/PlatCheck.lean ====
section
/-! DEFINITION. The checks of a plat (Table 5-6, R130 to R136, R185). -/

namespace Sys2Proof.Machine

/-- Check 1: magic, format and length (Table 5-1). -/
def platHeadOk (l : Bytes) : Bool :=
  decide (768 ≤ l.length ∧ leAt l 0 4 = 0x54414C50 ∧ leAt l 4 2 = 2 ∧ leAt l 0x20 8 = l.length)

/-- A plot-relative tile index inside a plat's plot (R185). -/
def platIn (l : Bytes) (pos : Nat) : Bool := decide (pos % 64 < 8 * platEnv l 1 1 ∧ pos / 64 < 8 * platEnv l 0 1)

/-- The parts of a plat (R130): offset and length. A part of no bytes has no place to check (DEDUCED, log entry 163). -/
def platParts (l : Bytes) : List (Nat × Nat) :=
  ([(leAt l 0x28 4, leAt l 0x2C 4), (leAt l 0x30 4, 64 * leAt l 7 1), (leAt l 0x34 4, 32 * leAt l 0x38 2),
    (leAt l 0x40 4, leAt l 0x44 4), (leAt l 0x48 8, leAt l 0x50 8)] : List (Nat × Nat)).filter (fun p => decide (0 < p.2))

/-- Whether ranges do not overlap, pair by pair. -/
def rangesApart : List (Nat × Nat) → Bool
  | [] => true
  | p :: l => l.all (fun q => decide (p.1 + p.2 ≤ q.1 ∨ q.1 + q.2 ≤ p.1)) && rangesApart l

/-- Every part placed as R130 requires. -/
def platPlaced (l : Bytes) : Bool :=
  (platParts l).all (fun p => decide (p.1 % 64 = 0 ∧ 768 ≤ p.1 ∧ p.1 + p.2 ≤ l.length)) && rangesApart (platParts l) &&
    decide (64 ≤ leAt l 0x2C 4)

/-- Whether reservation records lie in the envelope, behind its 64 bytes of fields (R131, R172): their offsets count from the start of the
plat, as every offset of the header does (DEDUCED, log entry 164). -/
def platInEnv (l : Bytes) (off n : Nat) : Bool := decide (n = 0 ∨ (leAt l 0x28 4 + 64 ≤ off ∧ off + n ≤ leAt l 0x28 4 + leAt l 0x2C 4))

/-- The envelope's fields in their ranges (Table 5-2). -/
def platEnvOk (l : Bytes) : Bool :=
  let e := platEnv l
  let n := leAt l 7 1
  decide (1 ≤ n ∧ n ≤ 16 ∧ leAt l 8 1 < n ∧ leAt l 6 1 ≤ 1) &&
    decide (1 ≤ e 0 1 ∧ e 0 1 ≤ 8 ∧ 1 ≤ e 1 1 ∧ e 1 1 ≤ 8 ∧ e 3 1 ≤ 8) &&
    decide (e 0xC 4 = n * 40960 ∧ e 0x10 4 % 4096 = 0 ∧ e 0xC 4 + e 0x10 4 ≤ 0x300000) &&
    decide (1 ≤ e 0x14 2 ∧ e 0x14 2 ≤ 256 ∧ 1 ≤ e 0x16 1 ∧ e 0x16 1 ≤ 16 ∧ e 0x17 1 ≤ 64 ∧ e 0x18 2 ≤ 512) &&
    decide (1 ≤ e 0x1C 4 ∧ e 0x1C 4 ≤ 4096 ∧ e 0x20 8 ≤ 0x4000000 ∧ 1 ≤ e 0x34 4) &&
    platInEnv l (e 0x2C 4) (16 * e 0x28 2) && platInEnv l (e 0x30 4) (32 * e 0x2A 2)

/-- The streams that the Reservoir reservation records carry (Table 6-3). -/
def platStreams (l : Bytes) : List Nat :=
  (List.range (platEnv l 0x28 2)).map (fun i => leAt l (platEnv l 0x2C 4 + 16 * i + 4) 2)

/-- The Reservoir and fabric reservation records in their ranges (Tables 6-3 and 14-7). -/
def platResOk (l : Bytes) : Bool :=
  (List.range (platEnv l 0x28 2)).all (fun i =>
    let o := platEnv l 0x2C 4 + 16 * i
    decide ((leAt l o 1 ≤ 3 ∨ leAt l o 1 = 0xFF) ∧ leAt l (o + 1) 1 ≤ 2 ∧ 1 ≤ leAt l (o + 2) 2 ∧ leAt l (o + 2) 2 ≤ 819 ∧
      leAt l (o + 6) 1 ≤ 1)) &&
  (List.range (platEnv l 0x2A 2)).all (fun i =>
    let o := platEnv l 0x30 4 + 32 * i
    let k := leAt l o 1
    let n := leAt l (o + 4) 2
    decide (k ≤ 3 ∧ leAt l (o + 1) 1 ≤ 63) && (decide (1 < k) || decide (leAt l (o + 2) 2 ≤ 4095)) &&
      (if k = 1 then decide (n = 0 ∧ 1 ≤ leAt l (o + 6) 1 ∧ leAt l (o + 6) 1 ≤ 2) && platIn l (leAt l (o + 0x14) 2) &&
          (leAt l (o + 6) 1 != 1 || platIn l (leAt l (o + 8) 8 / 2 ^ 22 % 4096))
        else decide (1 ≤ n ∧ n ≤ 819)))

/-- Section `s` of a plat in its ranges (Table 5-3, R133). -/
def platSectOk (l : Bytes) (s : Nat) : Bool :=
  let n := leAt l 7 1
  let o := leAt l 0x30 4 + 64 * s
  let tiles := 64 * platBlocks l
  decide (leAt l o 1 = s) && (bitB (leAt l (o + 1) 1) 0 || decide (leAt l (o + 3) 1 < n)) &&
    decide (leAt l (o + 6) 2 ≤ platEnv l 0x18 2 ∧ leAt l (o + 0xA) 1 ≤ 63 ∧ 1 ≤ leAt l (o + 0xC) 4 ∧ leAt l (o + 0x10) 4 = 40960 * s) &&
    platIn l (leAt l (o + 8) 2) && decide (128 * (leAt l (o + 0x14) 4 + leAt l (o + 0x18) 4) ≤ leAt l 0x44 4) &&
    decide (leAt l (o + 0x1C) 4 + tiles ≤ n * tiles)

/-- A template's fields in their ranges (Table 6-5): `OP`, `CLASS` and `LEN`. -/
def platTemplateOk (l : Bytes) (o : Nat) : Bool :=
  let op := leAt l o 1
  decide (1 ≤ op ∧ op ≤ 6 ∧ leAt l (o + 2) 1 ≤ 2) &&
    (if op = 4 then decide (leAt l (o + 0x20) 4 ≤ 4096) else decide (op = 1 ∨ op = 6 ∨ leAt l (o + 0x20) 4 ≤ 2 ^ 24))

/-- Stream schedule record `i` in its ranges (Table 6-6, R185). -/
def platStreamOk (l : Bytes) (i : Nat) : Bool :=
  let o := leAt l 0x40 4 + 128 * i
  let stream := leAt l (o + 6) 2
  decide (leAt l o 1 ≤ 1) && platIn l (leAt l (o + 4) 2) && platIn l (leAt l (o + 0x40 + 0x24) 2 % 4096) && (decide (stream = 0xFFFF) || (platStreams l).contains stream) &&
    (if leAt l o 1 = 1 then decide (leAt l (o + 3) 1 ≤ 3)
      else
        decide (1 ≤ leAt l (o + 0x14) 1 ∧ leAt l (o + 0x14) 1 ≤ 4 ∧ leAt l (o + 0x28) 1 ≤ 3 ∧ leAt l (o + 0x29) 1 ≤ 4) &&
        platTemplateOk l (o + 0x40) &&
        (leAt l (o + 0x28) 1 != 1 || platIn l (leAt l (o + 0x40 + 0x10) 8 / 2 ^ 22 % 4096)) &&
        (leAt l (o + 0x29) 1 != 1 || platIn l (leAt l (o + 0x40 + 0x18) 8 / 2 ^ 22 % 4096)))

/-- The tile image records (R133, Table 5-4): kinds, shares, positions in each section's run, runs apart, and their length. -/
def platImagesOk (l : Bytes) : Bool :=
  let n := leAt l 7 1
  let tiles := 64 * platBlocks l
  let recs := imgRecs l
  let cols := 8 * platEnv l 1 1
  let first := fun s => leAt l (leAt l 0x30 4 + 64 * s + 0x1C) 4
  let len := recs.foldl (fun a r => a + 16 + (if r.2.1 = 0 then 37888 else if r.2.1 = 1 then 4096 else 0)) 0
  decide (len = leAt l 0x50 8) &&
    recs.zipIdx.all (fun x => decide (x.1.2.1 ≤ 2) &&
      (x.1.2.1 != 2 || (decide (x.1.2.2 < x.2) && decide ((recs.getD x.1.2.2 (0, 2, 0)).2.1 ≤ 1)))) &&
    (List.range n).all (fun s => (List.range tiles).all (fun i =>
      decide (leAt l ((recs.getD (first s + i) (16, 0, 0)).1 - 16) 2 = 64 * (i / cols) + i % cols))) &&
    rangesApart ((List.range n).map (fun s => (first s, tiles)))

/-- Check 4. -/
def platBodyOk (l : Bytes) : Bool :=
  platPlaced l && platEnvOk l && platResOk l && (List.range (leAt l 7 1)).all (platSectOk l) &&
    decide (leAt l 0x44 4 % 128 = 0) && (List.range (leAt l 0x44 4 / 128)).all (platStreamOk l) &&
    (List.range (leAt l 0x38 2)).all (fun i => decide (leAt l (leAt l 0x34 4 + 32 * i) 1 < leAt l 7 1)) && platImagesOk l

/-- Check 6: every fabric reservation of another member is on a link of the plan; `serials` and `member` are the group's. -/
def State.platPlanned (s : State) (l : Bytes) (serials : List Nat) (member : Nat) : Bool :=
  (List.range (platEnv l 0x2A 2)).all (fun i =>
    let o := platEnv l 0x30 4 + 32 * i
    let peer := leAt l (o + 1) 1
    decide (peer = member) || (match serials[peer]? with
      | some d => (List.range 12).any (fun j => match s.fab.planOf j with
        | some r => r.serial == d
        | none => false)
      | none => false))

/-- Whether a key signs a plat, and its body's digest (checks 2 and 3). -/
def platSigned (e : Nat) (n : Bytes) (l : Bytes) : Bool := pssVerify (beNat n) e (l.take 0x100) (slice l 0x100 512)

/-- Checks 1 and 4 to 6 of Table 5-6 (R236): 0 when they pass. -/
def State.platStatus (s : State) (l : Bytes) (tag : Nat) (serials : List Nat) (member : Nat) : Nat :=
  if !platHeadOk l ∨ !platBodyOk l then 0x0102
  else if leAt l 0x18 8 ≠ tag then 0x0304
  else if !s.platPlanned l serials member then 0x0601
  else 0

/-- Every check of Table 5-6 in order, under a parcel's model-signing key (R135): the status. -/
def State.platLoadStatus (s : State) (l : Bytes) (e : Nat) (n : Bytes) (tag : Nat) (serials : List Nat) (member : Nat) : Nat :=
  if !platHeadOk l then 0x0102
  else if n.all (fun b => b == 0) ∨ !platSigned e n l then 0x0303
  else if sha512 (l.drop 0x300) ≠ slice l 0x80 64 then 0x0303
  else s.platStatus l tag serials member

end Sys2Proof.Machine
end

