-- ==== Sys2Proof/Machine/Registry.lean ====
section
/-! DEFINITION. The registry's work: shard attempts and notices as they come (R234 to R237, R243, R244), and the effects of the
registry's requests (R229 to R233, R238, R241, R242, R246, R247, R371, Tables 8-6 and 8-7). -/

namespace Sys2Proof.Machine

/-- The outcome of a request's own checks (R365, R366): a final answer; `OK` with the outcome to follow; `OK` with the outcome at
once; a wait behind an operation still running (R377); or an answer that a signature holds back (R477). -/
inductive Ans where
  | final (status : Nat) (body : Bytes)
  | started (body : Bytes)
  | ended (status : Nat) (body : Bytes)
  | wait (obj : ObjKey)
  | later
  deriving DecidableEq, Repr

/-! Shard attempts. -/

/-- Change shard `k` of a list. -/
def State.updShard (s : State) (r : LoadRef) (k : Nat) (f : Shard → Shard) : State :=
  s.updLoad r (fun l => { l with shards := l.shards.map (fun h => if h.index = k then f h else h) })

/-- A shard is marked failed with a status, and the field book has the event (R234). -/
def State.failShard (s : State) (r : LoadRef) (k status : Nat) : State :=
  let s1 := s.updShard r k (fun h => { h with state := 2, running := false, status := status })
  s1.post false 0x0C 0x01 status 0xFFFF (if r.adapter then r.index.val else s.modelId r.index.val) (BitVec.ofNat 64 k)

/-- An attempt ends corrupt or missing (R234): the requester is told, and the next attempt starts unless it was the fourth. -/
def State.attemptFailed (s : State) (r : LoadRef) (h : Shard) (status : Nat) : State :=
  let s1 := match (s.load r).bind (fun l => l.fetch.bind (fun j => j.waiter)) with
    | some w => s.event w.parcel 2 w.op w.seq status w.obj (toLe 4 h.index ++ toLe 1 h.attempt) w.dest
    | none => s
  let s2 := if 3 ≤ h.attempt then s1.failShard r h.index status
    else s1.updShard r h.index (fun h => { h with attempt := h.attempt + 1, startAt := s.now })
  (s2.checkLoad r).startLoads.settle

/-- The position of a plat of an image: the count of plats before it. -/
def Load.platPos (l : Load) (k : Nat) : Nat := (l.shards.filter (fun h => h.kind == 1 && decide (h.index < k))).length

/-- SHARD_ATTEMPT_END (R234, R236, R237, R243): the last byte of an attempt has come; its bytes rest in every place of the shard, and the
digest decides. A shard whose every place is out of service by now is read again later. -/
def execShardAttemptEnd (ref : LoadRef) (shard : Fin 260) (body : Bytes) (t : Nat) (s : State) : Host.Outcome State Fault Refusal :=
  let s0 := s.at' t
  .next (match s0.load ref with
    | none => s0
    | some l =>
      match l.shards.find? (fun h => h.index == shard.val && h.running) with
      | none => s0
      | some h =>
        if body.length ≠ h.len then s0
        else if !s0.canRest ref h then s0.updShard ref h.index (fun h => { h with running := false })
        else
          let s1 := (s0.places ref h).foldl (fun s k => s.fwWrite k body) s0
          if sha512 body ≠ h.digest then s1.attemptFailed ref h 0x0301
          else
            let st := if h.kind = 1 ∧ !ref.adapter then s1.platStatus body (manifestTag l.manifest) l.serials l.member else 0
            let s2 := if st ≠ 0 then s1.failShard ref h.index st
              else
                let s2 := s1.updShard ref h.index (fun h => { h with state := 1, running := false })
                if h.kind = 1 ∧ !ref.adapter then
                  s2.updEntry ref.index.val (fun m => { m with plats := SMap.set [] m.plats (l.platPos h.index) body }) else s2
            (s2.checkLoad ref).startLoads.settle)

/-- SHARD_TIMEOUT (R234): an attempt has not verified within the per-shard timeout. -/
def execShardTimeout (ref : LoadRef) (shard : Fin 260) (t : Nat) (s : State) : Host.Outcome State Fault Refusal :=
  let s0 := s.at' t
  .next (match s0.load ref with
    | none => s0
    | some l =>
      match l.shards.find? (fun h => h.index == shard.val && h.running), l.fetch with
      | some h, some j => if h.startAt + 1000000000 * j.timeout ≤ s0.now then s0.attemptFailed ref h 0x0302 else s0
      | _, _ => s0)

/-- QP_FAILURE (R355, R234): a queue pair fails; the attempts that read through it end as missing. `fetch` names the fetch and the
server of a queue pair of network B. -/
def execQpFailure (qp : BitVec 24) (fetch : Option (LoadRef × Fin 4)) (t : Nat) (s : State) : Host.Outcome State Fault Refusal :=
  let s0 := s.at' t
  let s1 : State := { s0 with mail := { s0.mail with qps := s0.mail.qps.map (fun q => if q.num = qp.toNat then { q with live := false } else q) } }
  .next (match fetch with
    | none => s1
    | some (ref, k) =>
      match s1.load ref with
      | none => s1
      | some l =>
        let n := (l.fetch.map (fun j => j.servers)).getD 1
        (l.shards.filter (fun h => h.running && (h.index + h.attempt) % n == k.val)).foldl (fun s h => s.attemptFailed ref h 0x0302) s1)

/-! Notices. -/

/-- GROUP_NOTICE (R235, R244): a member's shards have all verified, or, with `refs`, it reports its references on a version. A notice for a fetch not accepted yet is held. -/
def execGroupNotice (m : MgmtIn) (tag : BitVec 64) (digest : BitVec 512) (member : Fin 64) (refs : Option (BitVec 32)) (t : Nat) (s : State) :
    Host.Outcome State Fault Refusal :=
  .next ((s.at' t).mgmtTake m (fun s =>
    let mine := s.loadRefs.filter (fun r => (s.load r).any (fun l =>
      manifestTag l.manifest == tag.toNat && manifestDigest l.manifest == digest.toNat))
    match refs with
    | some n =>
      (mine.foldl (fun (s : State) r => if r.adapter then s.updVersion r.index.val r.version.toNat (fun v => { v with
          peerRefs := SMap.set 0 v.peerRefs member.val n.toNat
          peerDone := v.peerDone.filter (fun k => k != member.val) ++ (if n.toNat = 0 then [member.val] else []) }) else s) s).settle
    | none =>
      if mine.isEmpty then
        { s with serve := { s.serve with early := s.serve.early ++ [⟨tag.toNat, toLe 64 digest.toNat, member.val, s.now⟩] } }
      else mine.foldl (fun (s : State) r => (s.updLoad r (fun l => { l with
          notices := l.notices.filter (fun k => k != member.val) ++ [member.val] })).settleLoad r) s |>.settle))

/-- GROUP_NOTICE_RESEND (R235): a member has acknowledged this member's notice, or the notice goes again to those that have not. -/
def execGroupNoticeResend (ref : LoadRef) (acked : Option (Fin 64)) (t : Nat) (s : State) : Host.Outcome State Fault Refusal :=
  let s0 := s.at' t
  .next (match s0.load ref with
    | none => s0
    | some l =>
      match acked with
      | some k => s0.putLoad ref { l with owed := l.owed.filter (fun x => x != k.val) }
      | none => s0.sendNotice l l.owed)

/-- EARLY_NOTICE_EXPIRE (R235): notices held for 60 s are discarded. -/
def execEarlyNoticeExpire (t : Nat) (s : State) : Host.Outcome State Fault Refusal :=
  let s0 := s.at' t
  .next { s0 with serve := { s0.serve with early := s0.serve.early.filter (fun e => decide (s0.now < e.at' + 60000000000)) } }

/-! Regions that go out of service. -/

/-- Whether a shard, verified or on its way, rests only in region `q` (R237). -/
def Shard.onlyIn (h : Shard) (q : Nat) (adapter : Bool) : Bool :=
  (h.state == 1 || h.running) && h.regions == [q] && !h.inAq adapter

/-- A shard that has lost its only place is to be read again (R237). -/
def Shard.lost (h : Shard) : Shard := { h with state := 0, attempt := 0, running := false }

/-- Region `q` goes out of service for the adapters (R237, R243): a version that has lost a shard is `DAMAGED` until it is read again; one
still in its fetch reads it later. -/
def State.loseVersions (s : State) (q : Nat) : State :=
  s.adapters.foldl (fun (s : State) (x : Nat × Adapter) => s.updAdapter x.1 (fun a => { a with versions := a.versions.map (fun v =>
    if v.shards.any (fun h => h.onlyIn q true) then
      { v with state := if v.state = 2 then 3 else v.state, shards := v.shards.map (fun h => if h.onlyIn q true then h.lost else h) }
    else v) })) s

/-- Region `q` goes out of service for the registry (R228, R237): shards that rest there alone are no longer verified, and firmware owns
the space again; the entry is `LOADING`, a `FILLED` model after its eviction. -/
def State.loseShards (s : State) (q : Nat) : State :=
  (List.range 256).foldl (fun (s : State) i =>
    let m := s.entry i
    let lost := m.shards.filter (fun h => h.onlyIn q false)
    if m.state = .free ∨ m.state = .removing ∨ lost.isEmpty then s
    else
      let id := s.modelId i
      let s1 := lost.foldl (fun (s : State) h =>
        let s' := s.updShard (modelRef i) h.index Shard.lost
        if h.state = 1 then s'.post false 0x0C 0x02 0 0xFFFF id (BitVec.ofNat 64 h.index) else s') s
      if m.state = .filled then (s1.evictModel i false none).settle
      else if m.state = .filling then
        let s2 := ((s1.dropFill id 0x0304).updEntry i (fun m => { m with state := .loading })).holdModel i
        (match s2.plotOfModel id with
          | some b => s2.releasePlot b 0 0
          | none => s2)
      else if m.state = .ready then (s1.updEntry i (fun m => { m with state := .loading })).holdModel i
      else s1) (s.loseVersions q)

/-! Image checks. -/

/-- A data shard or plat from its table entry (Table 8-4). -/
def shardOf (l : Bytes) : Shard :=
  ⟨leAt l 0 4, leAt l 4 1, leAt l 6 1, leAt l 7 1, leAt l 8 8, leAt l 0x10 8, leAt l 0x18 8, leAt l 0x20 8, slice l 0x40 64, 0, 0, false, 0, 0⟩

/-- What the first reads of a fetch bring: the manifest and the entries of the shard table. -/
structure Image where
  manifest : Bytes
  table : Bytes
  deriving DecidableEq, Repr

/-- The manifest and the whole table, when both have arrived (check 1 of Table 8-7). -/
def imageOf (f : Option Bytes) : Option Image :=
  match f with
  | none => none
  | some l => if 768 ≤ l.length ∧ l.length = 768 + 128 * leAt l 0xC 4 then some ⟨l.take 768, l.drop 768⟩ else none

/-- The entries of a shard table, as they stand. -/
def Image.entries (m : Image) : List Bytes := (List.range (leAt m.manifest 0xC 4)).map (fun i => slice m.table (128 * i) 128)

/-- The shards of a member: its own and the plats (R234). -/
def Image.own (m : Image) (member : Nat) : List Shard :=
  (m.entries.filter (fun e => leAt e 4 1 == 1 || leAt e 5 1 == member)).map shardOf

/-- Check 6 over the manifest (Table 8-3). -/
def Image.headOk (m : Image) : Bool :=
  let h := m.manifest
  decide (leAt h 7 1 ≤ 1 ∧ 1 ≤ leAt h 0xA 2 ∧ leAt h 0xA 2 ≤ 64 ∧ 1 ≤ leAt h 0xC 4 ∧ leAt h 0xC 4 ≤ 260 ∧ leAt h 0x28 8 % 64 = 0 ∧
    0x300 ≤ leAt h 0x28 8 ∧ leAt h 0x30 8 % mib2 = 0 ∧ leAt h 0x38 8 % mib2 = 0)

/-- Check 6 over one entry of the table at position `i` (Table 8-4, R226). -/
def Image.entryOk (m : Image) (i : Nat) (e : Bytes) : Bool :=
  let h := shardOf e
  let fl := h.flags
  decide (h.index = i ∧ h.kind ≤ 1 ∧ h.srcOff % 64 = 0 ∧ h.len % 64 = 0 ∧ 64 ≤ h.len ∧ h.srcOff + h.len ≤ leAt m.manifest 0x20 8) &&
    (if h.kind = 1 then leAt e 5 1 == 0xFF
      else decide (leAt e 5 1 < leAt m.manifest 0xA 2 ∧ h.quad ≤ 3) &&
        (!bitB fl 0 || decide (h.resOff + h.len ≤ leAt m.manifest 0x30 8)) &&
        (!bitB fl 1 || decide (h.aqOff + h.len ≤ leAt m.manifest 0x38 8)))

/-- At most one data shard for each member and `QUAD`, and at most four plats (R226). -/
def Image.spreadOk (m : Image) : Bool :=
  let l := (m.entries.filter (fun e => leAt e 4 1 == 0)).map (fun e => leAt e 5 1 * 4 + leAt e 6 1)
  decide l.Nodup && decide ((m.entries.filter (fun e => leAt e 4 1 == 1)).length ≤ 4)

/-- The format rules of a table record and its range inside the allocation (R306, R307); `slot` is this module's tray slot. -/
def tableRecOk (l : Bytes) (slot res aq : Nat) : Bool :=
  let fl := leAt l 0 1
  let fmt := leAt l 1 1
  let row := leAt l 2 2
  let sc := if bitB fl 2 then 4 else 0
  let t : TableEnt := { TableEnt.reset with rowsTotal := leAt l 8 4, bound1 := leAt l 0xC 4, bound2 := leAt l 0x10 4, bound3 := leAt l 0x14 4 }
  let rows := t.bound (slot + 1) - t.bound slot
  let base := leAt l 0x18 8 % 2 ^ 52
  let span := 2048 * ceilDiv rows (max 1 (leAt l 0x22 1))
  (sc == 0 || fmt == 1 || fmt == 2 || fmt == 8) && leAt l 0x22 1 == 1984 / (max 1 (row + sc)) &&
    (rows == 0 || (if bitB fl 1 then decide (base % 2 ^ 42 + span ≤ aq ∧ base < 2 ^ 44)
      else decide (base % regionBytes + span ≤ res ∧ base < 4 * regionBytes)))

/-- The model-signing key of a parcel: exponent and modulus; parcel 0's is the administrator's (R323, Table 8-3). -/
def State.signKey (s : State) (p : Nat) : Nat × Bytes := ((s.parcel p).signE, (s.parcel p).signN)

/-- Checks 1 to 7 of Table 8-7 in order: the status, 0 when they pass. `kind` is 0 for a model and 1 for an adapter, `owner` the
owner of the entry, `tag` the tag wanted, `base` whether the base model serves, `tables` the table records. -/
def State.imageStatus (s : State) (f : Option Bytes) (kind owner members member tag : Nat) (base : Bool) (tables : List (Nat × Bytes)) : Nat :=
  match imageOf f with
  | none => 0x0302
  | some m =>
    let h := m.manifest
    let key := s.signKey (if leAt h 8 1 = 0 then owner else 0)
    let mine := (m.own member).filter (fun x => x.kind == 0)
    if leAt h 0 4 ≠ 0x4D585244 ∨ leAt h 4 2 ≠ 1 ∨ leAt h 6 1 ≠ kind then 0x0102
    else if 1 < leAt h 8 1 ∨ key.2.all (fun b => b == 0) then 0x0303
    else if !pssVerify (beNat key.2) key.1 (h.take 0x100) (slice h 0x100 512) then 0x0303
    else if sha512 m.table ≠ slice h 0x40 64 then 0x0303
    else if !(m.headOk && decide (leAt h 0xA 2 = members ∧ member < members) && m.entries.zipIdx.all (fun e => m.entryOk e.2 e.1) &&
        m.spreadOk && (kind == 0 || decide (mine.foldl (fun (n : Nat) (x : Shard) => n + x.len) 0 ≤ 256 * 2 ^ 20)) &&
        tables.all (fun t => tableRecOk t.2 (s.slot % 4) (leAt h 0x30 8) (leAt h 0x38 8))) then 0x0102
    else if !(if kind = 0 then leAt h 0x10 8 == tag else leAt h 0x18 8 == tag && base) then 0x0304
    else 0

/-- The lowest free range of `len` bytes in region `q`, in service or not. -/
def State.findRes (s : State) (q len : Nat) : Option Nat :=
  let starts := q * regionBytes :: (s.serve.allocs.filter (fun a => a.tier == 1)).map (fun a => a.base + a.len)
  (starts.filter (fun b => decide (q * regionBytes ≤ b ∧ b + len ≤ (q + 1) * regionBytes) && s.rangeFree 1 b len)).min?

/-- The lowest offset at which `len` bytes are free in every region. -/
def State.findSame (s : State) (len : Nat) : Option Nat :=
  let starts := 0 :: (s.serve.allocs.filter (fun a => a.tier == 1)).map (fun a => (a.base + a.len) % regionBytes)
  (starts.filter (fun b => decide (b + len ≤ regionBytes) && (List.range 4).all (fun q => s.rangeFree 1 (q * regionBytes + b) len))).min?

/-- Whether an owner's quotas hold so much more Reservoir and Aquifer (Table 12-1); parcel 0 has none. -/
def State.quotaHolds (s : State) (owner res aq : Nat) : Bool :=
  owner == 0 || decide (s.resUsed owner + res ≤ (s.parcel owner).qRes * mib2 ∧ s.aqUsed owner + aq ≤ (s.parcel owner).qAq * mib2)

/-- The bases of a model's allocations by region and on the Aquifer ports (R227), when check 8 passes. -/
def State.findBases (s : State) (owner res aq : Nat) : Option (List Nat × Nat) :=
  if !s.quotaHolds owner (4 * res) (4 * aq) then none
  else match s.findRes 0 res, s.findRes 1 res, s.findRes 2 res, s.findRes 3 res, s.findAq aq with
  | some a, some b, some c, some d, some e => some ([a, b, c, d], e)
  | _, _, _, _, _ => none

/-- Take an extent for firmware until it is served (R228). -/
def State.takeExtent (s : State) (a : Alloc) : State := (s.takeSpace a).setRegion a.tier a.base a.len 0 false false

/-! The fetch block (Table 13-6). -/

/-- A fetch block's fields in range, and the payload's exact length with the block at 8. -/
def fetchOk (l : Bytes) : Bool :=
  let b := l.drop 8
  decide (0x90 ≤ l.length ∧ 1 ≤ leAt b 1 1 ∧ leAt b 1 1 ≤ 4 ∧ leAt b 2 2 ≤ 600 ∧ 1 ≤ leAt b 4 2 ∧ leAt b 4 2 ≤ 64 ∧
    l.length = 8 + 0x88 + 8 * leAt b 4 2)

/-- The members a fetch block names. -/
def blockSerials (b : Bytes) : List Nat := (List.range (leAt b 4 2)).map (fun i => leAt b (0x88 + 8 * i) 8)

/-- The job a fetch block asks for. -/
def jobOf (b : Bytes) (w : Waiter) : FetchJob := ⟨b, max 1 (leAt b 1 1), if leAt b 2 2 = 0 then 5 else leAt b 2 2, some w⟩

/-- The notices held for an image (R235). -/
def State.heldNotices (s : State) (h : Bytes) : List Nat :=
  ((s.serve.early.filter (fun e => e.tag == manifestTag h && leNat e.digest == manifestDigest h &&
    decide (s.now < e.at' + 60000000000))).map (fun e => e.member)).eraseDups

/-- The early notices of an image are taken up. -/
def State.takeEarly (s : State) (h : Bytes) : State :=
  { s with serve := { s.serve with early := s.serve.early.filter (fun e => !(e.tag == manifestTag h && leNat e.digest == manifestDigest h)) } }

/-! The registry's requests. -/

/-- Whether a parcel may act as the owner of an object (R365). -/
def ownerOk (p owner : Nat) : Bool := p == 0 || p == owner

/-- The key of model entry `i` in deferrals. -/
def modelKeyOf (i : Nat) : ObjKey := ⟨1, i⟩

/-- Models a parcel owns or is granted (R229). -/
def State.modelsOf (s : State) (p : Nat) : Nat :=
  ((List.range 256).filter (fun i => let m := s.entry i
    m.state != .free && (m.owner == p || m.grants.contains p))).length

/-- `MODEL_REGISTER`'s fields in range (Tables 13-8, 10-5, 11-1). -/
def registerOk (l : Bytes) : Bool :=
  let ng := leAt l 8 2
  let nt := leAt l 0xA 2
  let o := 0x50 + 8 * ceilDiv (2 * ng) 8
  let st := leAt l 0x10 2
  let mode := leAt l 0x22 1
  decide (0x50 ≤ l.length ∧ ng ≤ 64 ∧ nt ≤ 64 ∧ l.length = o + 80 * nt) &&
    (st == 0 || decide (16 ≤ st ∧ st ≤ 16384 ∧ 1 ≤ leAt l 0x12 2 ∧ leAt l 0x12 2 ≤ 4096 ∧ 64 ≤ leAt l 0x14 4 ∧ leAt l 0x14 4 ≤ 1048576 ∧
      1 ≤ leAt l 0x18 2 ∧ leAt l 0x18 2 ≤ 256 ∧ (leAt l 0x1A 2 ≤ 10000 ∨ leAt l 0x1A 2 = 0xFFFF) ∧ 64 ≤ leAt l 0x1C 4 ∧
      leAt l 0x1C 4 % 64 = 0 ∧ leAt l 0x20 1 ≤ 8 ∧ (leAt l 0x21 1 = 0 ∨ (2 ≤ leAt l 0x21 1 ∧ leAt l 0x21 1 ≤ 64)) ∧ mode ≤ 2 ∧
      (mode ≠ 1 ∨ (1 ≤ leAt l 0x23 1 ∧ leAt l 0x23 1 ≤ 8)) ∧ (mode ≠ 2 ∨ (2 ≤ leAt l 0x23 1 ∧ leAt l 0x23 1 ≤ 64)))) &&
    (List.range nt).all (fun i =>
      let r := o + 80 * i
      let e := r + 0x10
      let f := leAt l (e + 1) 1
      decide (leAt l r 2 < 1024 ∧ 32 ≤ leAt l (e + 2) 2 ∧ leAt l (e + 2) 2 ≤ 1024 ∧ leAt l (e + 2) 2 % 32 = 0 ∧
        leAt l (e + 0xC) 4 ≤ leAt l (e + 0x10) 4 ∧ leAt l (e + 0x10) 4 ≤ leAt l (e + 0x14) 4 ∧ leAt l (e + 0x14) 4 ≤ leAt l (e + 8) 4 ∧
        leAt l (e + 0x18) 8 % 2048 = 0) && (f == 0 || f == 0xA || f == 1 || f == 2 || f == 8))

/-- The owner that a registration asks for: the caller, or the parcel that `OWNER` names (Table 13-8). -/
def askedOwner (p : Nat) (l : Bytes) : Nat := if leAt l 0xC 2 = 0 then p else leAt l 0xC 2

/-- The parcels beside the owner that a registration grants the model to. -/
def askedGrants (p : Nat) (l : Bytes) : List Nat :=
  (((List.range (leAt l 8 2)).map (fun i => leAt l (0x50 + 2 * i) 2)).filter (fun g => g != askedOwner p l)).eraseDups

/-- Whether a parcel exists, parcel 0 always. -/
def State.knownParcel (s : State) (q : Nat) : Bool := q == 0 || decide (q ≤ 512 ∧ (s.parcel q).state ≠ .free)

/-- Whether a table that a registration names is another model's (R306). -/
def State.tableClash (s : State) (l : Bytes) : Bool :=
  ({ Model.reset with reg := l } : Model).tableRecs.any (fun t => (List.range 256).any (fun i =>
    (s.entry i).state != .free && (s.entry i).tableRecs.any (fun u => u.1 == t.1)))

/-- The registry entry that a new model takes: the first that is free and out of quarantine (R229, R347). -/
def State.freeEntry (s : State) : Option Nat :=
  (List.range 256).find? (fun i => (s.entry i).state == .free && decide ((s.entry i).freeAt ≤ s.now))

/-- Whether a parcel has as many models as `Q_MODELS` allows (Table 12-1); parcel 0 has no bound. -/
def State.modelsFull (s : State) (q : Nat) : Bool := q != 0 && decide ((s.parcel q).qModels ≤ s.modelsOf q)

/-- The effect of `MODEL_REGISTER` (R229, R371). -/
def State.doRegister (s : State) (p : Nat) (l : Bytes) : State × Ans :=
  let owner := askedOwner p l
  let others := askedGrants p l
  if p ≠ 0 ∧ (owner ≠ p ∨ !others.isEmpty) then (s, .final 0x0105 [])
  else if !s.knownParcel owner ∨ !others.all s.knownParcel ∨ s.tableClash l then (s, .final 0x0105 [])
  else match s.freeEntry with
  | none => (s, .final 0x0202 [])
  | some i =>
    if s.modelsFull owner ∨ others.any s.modelsFull then (s, .final 0x0202 [])
    else
      let s1 := s.updEntry i (fun m => { Model.reset with gen := m.gen, state := .registered, owner := owner, grants := others, reg := l })
      (s1, .final 0 (toLe 2 (s1.modelId i)))

/-- A fetch of a model is accepted (Table 8-5, R227, R233): shards already verified stay so. -/
def State.startModel (s : State) (i : Nat) (m : Image) (b : Bytes) (w : Waiter) : State :=
  let h := m.manifest
  let old := (s.entry i).shards
  let own := (m.own (leAt b 0 1)).map (fun x => match old.find? (fun y => y.index == x.index && y.state == 1) with
    | some y => y
    | none => x)
  let s1 := s.updEntry i (fun e => { e with
    state := .loading, manifest := h, shards := own, member := leAt b 0 1, serials := blockSerials b, fetch := some (jobOf b w),
    notices := (e.notices ++ s.heldNotices h).eraseDups })
  (((s1.takeEarly h).checkLoad (modelRef i))).startLoads

/-- The allocations of a model (R227). -/
def State.allocModel (s : State) (i owner res aq : Nat) (bases : List Nat) (aqBase : Nat) : State :=
  let s1 := bases.foldl (fun s b => s.takeExtent ⟨1, b, res, owner, 0, i⟩) s
  let s2 := (List.range 4).foldl (fun s q => s.takeExtent ⟨2, q * 2 ^ 42 + aqBase, aq, owner, 0, i⟩) s1
  s2.updEntry i (fun m => { m with
    resBase := bases.zipIdx.foldl (fun t x => SMap.set 0 t x.2 x.1) []
    aqBase := aqBase, resLen := res, aqLen := aq })

/-- The effect of `MODEL_FETCH` (R232, R233, Tables 8-6 and 8-7). -/
def State.doFetch (s : State) (w : Waiter) (f : Option Bytes) (l : Bytes) : State × Ans :=
  let id := leAt l 0 2
  let i := id % 256
  let b := l.drop 8
  match s.modelOf id with
  | none => (s, .final 0x0304 [])
  | some m =>
    if !ownerOk w.parcel m.owner then (s, .final 0x0105 [])
    else
      let st := s.imageStatus f 0 m.owner (leAt b 4 2) (leAt b 0 1) (m.reg' 0 8) true m.tableRecs
      match imageOf f with
      | none => (s, .final 0x0302 [])
      | some x =>
        if st ≠ 0 then (s, .final st [])
        else if m.state = .registered then
          (let res := leAt x.manifest 0x30 8
           let aq := leAt x.manifest 0x38 8
           match s.findBases m.owner res aq with
           | none => (s, .final 0x0202 [])
           | some (bs, a) => ((s.allocModel i m.owner res aq bs a).startModel i x b w, .started []))
        else if manifestDigest x.manifest ≠ manifestDigest m.manifest then (s, .final 0x0105 [])
        else if m.state = .removing then (s, .final 0x0304 [])
        else if m.state = .loading then
          (if m.fetch.any (fun j => j.waiter.isSome) then (s, .wait (modelKeyOf i)) else (s.startModel i x b w, .started []))
        else (s, .ended 0 [])

/-- The effect of `MODEL_FILL` (R232, R238, Table 12-1). -/
def State.doFill (s : State) (w : Waiter) (l : Bytes) : State × Ans :=
  let id := leAt l 0 2
  match s.modelOf id with
  | none => (s, .final 0x0304 [])
  | some m =>
    if !m.allows w.parcel then (s, .final 0x0105 [])
    else match m.state with
    | .filled => (s, .ended 0 [])
    | .filling => (s.updModel id (fun m => { m with fills := m.fills ++ [w] }), .started [])
    | .evicting => (s, .wait (modelKeyOf (id % 256)))
    | .ready =>
      if s.blocksOk m then ((s.wantFill id).updModel id (fun m => { m with fills := m.fills ++ [w] }), .started []) else (s, .final 0x0202 [])
    | _ => (s, .final 0x0304 [])

/-- The effect of `MODEL_EVICT` (R231, R232, R241, Table 12-7). -/
def State.doEvict (s : State) (w : Waiter) (l : Bytes) : State × Ans :=
  let id := leAt l 0 2
  let i := id % 256
  let registry := leAt l 2 1 == 1
  match s.modelOf id with
  | none => (s, .final 0x0304 [])
  | some m =>
    if !ownerOk w.parcel m.owner then (s, .final 0x0105 [])
    else if registry ∧ s.adapters.any (fun (x : Nat × Adapter) => x.2.used && x.2.model == id) then (s, .final 0x0105 [])
    else if m.state = .filling then (s, .wait (modelKeyOf i))
    else if registry then
      (if m.state = .evicting ∨ m.state = .removing ∨ m.fetch.any (fun j => j.waiter.isSome) then (s, .wait (modelKeyOf i))
        else ((s.evictModel i true (some w)).settle, .started []))
    else if m.state = .filled then ((s.evictModel i false (some w)).settle, .started [])
    else (s, .ended 0 [])

/-- The version a fetch begins (R242): its space, its shards, its group. -/
def State.startVersion (s : State) (i n owner : Nat) (m : Image) (b : Bytes) (w : Waiter) (base : Nat) : State :=
  let h := m.manifest
  let res := leAt h 0x30 8
  let v : AVer := {
    num := n, state := 1, refs := 0, peerRefs := [], peerDone := [], told := false, member := leAt b 0 1, serials := blockSerials b, manifest := h,
    shards := m.own (leAt b 0 1), notices := s.heldNotices h, owed := [], fetch := some (jobOf b w), base := base, len := res }
  let s1 := (List.range 4).foldl (fun s q => s.takeExtent ⟨1, q * regionBytes + base, res, owner, 4, i⟩) s
  let s2 := s1.updAdapter i (fun a => { a with highest := n, versions := a.versions ++ [v] })
  ((s2.takeEarly h).checkLoad (versionRef i n)).startLoads

/-- Where a version of `len` bytes goes, when check 8 passes. -/
def State.findVersion (s : State) (owner len : Nat) : Option Nat := if s.quotaHolds owner (4 * len) 0 then s.findSame len else none

/-- The states of a model that an adapter may rest on (check 7 of Table 8-7). -/
def Model.serves (m : Model) : Bool := m.state == .ready || m.state == .filling || m.state == .filled

/-- The effect of `ADAPTER_LOAD` (R242): the caller owns the base model or is granted it, parcel 0 like any other. -/
def State.doAdapterLoad (s : State) (w : Waiter) (f : Option Bytes) (l : Bytes) : State × Ans :=
  let id := leAt l 0 2
  let b := l.drop 8
  match s.modelOf id with
  | none => (s, .final 0x0304 [])
  | some m =>
    let held := (s.adapters.filter (fun (x : Nat × Adapter) => x.2.used && x.2.owner == w.parcel)).length
    let st := s.imageStatus f 1 w.parcel (leAt b 4 2) (leAt b 0 1) (m.reg' 0 8) m.serves []
    if w.parcel ≠ m.owner ∧ !m.grants.contains w.parcel then (s, .final 0x0105 [])
    else match (List.range 4096).find? (fun i => !(s.adapter i).used && decide ((s.adapter i).freeAt ≤ s.now)), imageOf f with
    | none, _ => (s, .final 0x0202 [])
    | _, none => (s, .final 0x0302 [])
    | some i, some x =>
      if w.parcel ≠ 0 ∧ (s.parcel w.parcel).qAdapters ≤ held then (s, .final 0x0202 [])
      else if st ≠ 0 then (s, .final st [])
      else match s.findVersion w.parcel (leAt x.manifest 0x30 8) with
      | none => (s, .final 0x0202 [])
      | some base =>
        let s1 := s.updAdapter i (fun a => { Adapter.reset with gen := a.gen, used := true, model := id, owner := w.parcel })
        let aid := i + (s.adapter i).gen * 2 ^ 24
        (s1.startVersion i 1 w.parcel x b { w with obj := aid } base, .started (toLe 4 aid))

/-- The key of adapter `i` in deferrals. -/
def adapterKeyOf (i : Nat) : ObjKey := ⟨2, i⟩

/-- Whether a load or a replacement of an adapter still runs (R247). -/
def Adapter.loading (a : Adapter) : Bool := a.versions.any (fun v => v.state == 1)

/-- The effect of `ADAPTER_REPLACE` (R242, R246, R247). -/
def State.doAdapterReplace (s : State) (w : Waiter) (f : Option Bytes) (l : Bytes) : State × Ans :=
  let id := leAt l 0 4
  let i := id % 4096
  let b := l.drop 8
  match s.adapterOf id with
  | none => (s, .final 0x0305 [])
  | some a =>
    let tag := (s.modelOf a.model).elim 0 (fun m => m.reg' 0 8)
    let st := s.imageStatus f 1 a.owner (leAt b 4 2) (leAt b 0 1) tag ((s.modelOf a.model).any Model.serves) []
    if !ownerOk w.parcel a.owner then (s, .final 0x0105 [])
    else if a.withdrawing then (s, .final 0x0305 [])
    else if a.loading then (s, .wait (adapterKeyOf i))
    else if 65535 ≤ a.highest ∨ 4 ≤ a.versions.length then (s, .final 0x0202 [])
    else match imageOf f with
    | none => (s, .final 0x0302 [])
    | some x =>
      if st ≠ 0 then (s, .final st [])
      else match s.findVersion a.owner (leAt x.manifest 0x30 8) with
      | none => (s, .final 0x0202 [])
      | some base => (s.startVersion i (a.highest + 1) a.owner x b w base, .started (toLe 2 (a.highest + 1)))

/-- The requests bound to an adapter that end at an immediate withdrawal (R246, Table 12-7): those not in a step at once, those in a
step when it completes; one of a saved task is not in a step (Table 12-7). -/
def State.withdrawReqs (s : State) (id : Nat) : State :=
  let mine := s.serve.reqs.filter (fun r => r.adapter == id && r.aver != 0 && r.state != .held && r.state != .admitting)
  let holds := fun (r : Req) (k : Option Task) => k.any (fun k => k.slots.any (fun x => x.req == r.key))
  let inStep := fun (r : Req) => (List.range 64).any (fun b => (s.plot b).any (fun p => holds r p.task || holds r p.redo))
  let s1 := (mine.filter inStep).foldl (fun (s : State) r => s.updReq r.key (fun r => { r with withdrawn := true })) s
  s1.endAll (mine.filter (fun r => !inStep r)) 0x0305

/-- The effect of `ADAPTER_WITHDRAW` (R246, R247). -/
def State.doWithdraw (s : State) (w : Waiter) (l : Bytes) : State × Ans :=
  let id := leAt l 0 4
  let i := id % 4096
  match s.adapterOf id with
  | none => (s, .final 0x0305 [])
  | some a =>
    if !ownerOk w.parcel a.owner then (s, .final 0x0105 [])
    else if a.loading ∨ a.withdrawing then (s, .wait (adapterKeyOf i))
    else
      let s1 := s.retireAdapter i (some w)
      ((if bitB (leAt l 4 1) 0 then s1.withdrawReqs id else s1).settle, .started [])

/-- The effect of `PLAT_LOAD` (R135, Table 5-6): the whole plat is fetched from server 0. -/
def State.doPlatLoad (s : State) (w : Waiter) (f : Option Bytes) (l : Bytes) : State × Ans :=
  let id := leAt l 0 2
  match s.modelOf id with
  | none => (s, .final 0x0304 [])
  | some m =>
    if !ownerOk w.parcel m.owner then (s, .final 0x0105 [])
    else match f with
    | none => (s, .ended 0x0302 [])
    | some x =>
      let key := s.signKey m.owner
      let st := s.platLoadStatus x key.1 key.2 (m.reg' 0 8) m.serials m.member
      if st ≠ 0 then (s, .ended st [])
      else (s.updModel id (fun m => { m with plats := SMap.set [] m.plats (leAt l 2 1) x }), .ended 0 [])

end Sys2Proof.Machine
end

