-- ==== Sys2Proof/Machine/Parcels.lean ====
section
/-! DEFINITION. Parcels (R323 to R326, R349 to R351, R370), rings (R279, R285, R372) and prefixes (R300, R301): the effects of their
requests, and the end of a parcel's scrub. -/

namespace Sys2Proof.Machine

/-! Parcels. -/

/-- The key of parcel `p` in deferrals. -/
def parcelKeyOf (p : Nat) : ObjKey := ⟨3, p⟩

/-- Field value `v` of `n` bytes with its default and largest value (R370). -/
def quotaVal (v n dflt top : Nat) : Option Nat := if v = 256 ^ n - 1 then some dflt else if v ≤ top then some v else none

/-- A parcel with the quotas and the signing key of a `PARCEL_CREATE` payload (Tables 12-1 and 13-7), when all are in range. -/
def quotasOf (l : Bytes) : Option Parcel :=
  match quotaVal (leAt l 0x48 1) 1 16 16, quotaVal (leAt l 0x49 1) 1 64 64, quotaVal (leAt l 0x4A 2) 2 4 256,
    quotaVal (leAt l 0x4C 2) 2 64 4096, quotaVal (leAt l 0x4E 2) 2 0 256, quotaVal (leAt l 0x50 2) 2 256 256 with
  | some qm, some qb, some qr, some qa, some lo, some hi =>
    (match quotaVal (leAt l 0x54 4) 4 4096 65536, quotaVal (leAt l 0x58 4) 4 0 1179648, quotaVal (leAt l 0x5C 4) 4 0 8388608,
        quotaVal (leAt l 0x60 4) 4 32 512 with
      | some qi, some re, some aq, some pr =>
        if lo ≤ hi then some { Parcel.reset with
          state := .disabled, qModels := qm, qBlocks := qb, qRings := qr, qAdapters := qa, qInflight := qi, qRes := re, qAq := aq,
          qPreempt := pr, pfMin := lo, pfMax := hi, pfLo := lo, pfHi := hi, askLo := lo, askHi := hi, signE := leAt l 0x64 4,
          signN := slice l 0x68 512 }
        else none
      | _, _, _, _ => none)
  | _, _, _, _, _, _ => none

/-- `PARCEL_CREATE`'s fields in range (R370). -/
def createOk (l : Bytes) : Bool := decide (l.length = 0x268 ∧ 1 ≤ leAt l 0 2 ∧ leAt l 0 2 ≤ 512) && (quotasOf l).isSome

/-- The message M of R349 for parcel `p` and sequence number `seq`. -/
def wrapMsg (p seq : Nat) : Bytes := [0x45, 0x44, 0x4B, 0x57] ++ toLe 2 p ++ zeros 2 ++ toLe 4 seq

/-- The key that a wrapped value carries under parcel 0's key (R349, R474). -/
def unwrapKey (k0 w : Bytes) (p seq : Nat) : Bytes := xorBytes w (hmac512 k0 (wrapMsg p seq))

/-- Whether a parcel is shutting down to be destroyed. -/
def Parcel.dying (x : Parcel) : Bool := x.state == .destroying || (x.state == .draining && x.destroy)

/-- Whether a parcel is shutting down to be disabled. -/
def Parcel.closing (x : Parcel) : Bool := (x.state == .draining && !x.destroy) || x.state == .scrubbing

/-- The pre-emption area of a parcel (R324): the lowest free range of the lowest region that has one. -/
def State.findPre (s : State) (len : Nat) : Option Nat := (List.range 4).findSome? (fun q => s.findSpace 1 q len)

/-- Where a parcel's pre-emption area of `n` granules goes; one of no granules needs no place. -/
def State.preBase (s : State) (n : Nat) : Option Nat := if n = 0 then some 0 else s.findPre (n * mib2)

/-- A parcel comes to exist (R325, R349, R351, R370): its pre-emption area at `base`, its quotas, its key in an empty mailbox, its
sequence floor at 0 and its SPDM responder at the start. -/
def State.makeParcel (s : State) (p base len : Nat) (y : Parcel) (key : Bytes) : State :=
  let s1 := (s.takeSpace ⟨1, base, len, p, 3, p⟩).setRegion 1 base len p true false
  let s2 := (s1.updParcel p (fun _ => { y with preArea := base })).setBox p { Mailbox.fresh with key := some key }
  let s3 : State := { s2 with store := { s2.store with
    floors := SMap.set 0 s2.store.floors p 0, floorsAsked := SMap.set 0 s2.store.floorsAsked p 0 } }
  ({ s3 with sec := { s3.sec with spdm := SMap.set ⟨0⟩ s3.sec.spdm p ⟨0⟩ } } : State).wantCommit

/-- The effect of `PARCEL_CREATE` (R325, R349, R351, R370, Table 12-3). -/
def State.doCreate (s : State) (seq : Nat) (l : Bytes) : State × Ans :=
  let p := leAt l 0 2
  let x := s.parcel p
  if x.dying ∨ (x.state = .free ∧ s.now < x.quarantine) then (s, .wait (parcelKeyOf p))
  else if x.state ≠ .free then (s, .final 0x0105 [])
  else match quotasOf l, (s.box 0).key with
  | some y, some k0 =>
    (match s.preBase y.qPreempt with
      | none => (s, .final 0x0202 [])
      | some base =>
        (s.makeParcel p base (y.qPreempt * mib2) y (unwrapKey k0 (slice l 8 64) p seq), .final 0 []))
  | _, _ => (s, .final 0x0102 [])

/-- A payload that names one parcel. -/
def parcelOk (l : Bytes) : Bool := decide (l.length = 2 ∧ 1 ≤ leAt l 0 2 ∧ leAt l 0 2 ≤ 512)

/-- The status of an operation on a parcel that does not exist: refused, or `PARCEL_DISABLED` when it was deferred (R326, R367). -/
def goneStatus (deferred : Bool) : Nat := if deferred then 0x0201 else 0x0105

/-- The effect of `PARCEL_ENABLE` (Tables 12-2 and 12-3). -/
def State.doEnable (s : State) (l : Bytes) (deferred : Bool) : State × Ans :=
  let p := leAt l 0 2
  let x := s.parcel p
  if x.state = .free then (s, .final (goneStatus deferred) [])
  else if x.dying ∨ x.closing then (s, .wait (parcelKeyOf p))
  else if x.state = .enabled then (s, .final 0 [])
  else ((s.updParcel p (fun x => { x with state := .enabled })).wantCommit, .final 0 [])

/-- A parcel leaves service (Table 12-2): its requests that have not started end with `PARCEL_DISABLED`. -/
def State.closeParcel (s : State) (p : Nat) (destroy : Bool) (w : Waiter) : State :=
  let s1 := (s.dropPolicy p).updParcel p (fun x => { x with state := .draining, destroy := destroy, shutdown := some w })
  ((s1.endAll (s1.serve.reqs.filter (fun r => r.parcel == p && r.home == 0 && !r.started)) 0x0201).settle).wantCommit

/-- The effect of `PARCEL_DISABLE` (Tables 12-2 and 12-3). -/
def State.doDisable (s : State) (w : Waiter) (l : Bytes) (deferred : Bool) : State × Ans :=
  let p := leAt l 0 2
  let x := s.parcel p
  if x.state = .free then (s, .final (goneStatus deferred) [])
  else if x.dying ∨ x.closing then (s, .wait (parcelKeyOf p))
  else if x.state = .disabled then (s, .ended 0 [])
  else (s.closeParcel p false w, .started [])

/-- The saved tasks of models a parcel owns end with `EVICTED`, and wait for no plot any more (Table 12-7). -/
def State.endSaved (s : State) (p : Nat) : State :=
  let saved : List (Nat × Option SavedTask) := s.sched.saved.filter (fun y => y.2.any (fun k => k.parcel == p))
  let s1 := saved.foldl (fun (s : State) y => (match y.2 with
    | some k => s.endSlots ((k.task.map (fun t => t.slots)).getD []) 0x0402
    | none => s)) s
  { s1 with sched := { s1.sched with
    saved := saved.foldl (fun (m : SMap (Option SavedTask)) (y : Nat × Option SavedTask) => SMap.set none m y.1 none) s1.sched.saved
    waits := s1.sched.waits.filter (fun v => !saved.any (fun y => v.saved == some y.1)) } }

/-- The effect of `PARCEL_DESTROY` (Tables 12-2 and 12-3): a saved task of a model the parcel owns ends (Table 12-7). -/
def State.doDestroy (s : State) (w : Waiter) (l : Bytes) (deferred : Bool) : State × Ans :=
  let p := leAt l 0 2
  let x := s.parcel p
  if x.state = .free then (s, .final (goneStatus deferred) [])
  else if x.dying ∨ x.closing then (s, .wait (parcelKeyOf p))
  else ((s.endSaved p).closeParcel p true w, .started [])

/-- Whether anything of a parcel is still there or under scrub. -/
def State.parcelHolds (s : State) (p : Nat) : Bool :=
  (List.range 256).any (fun i => (s.entry i).state != .free && (s.entry i).owner == p) ||
    s.adapters.any (fun (x : Nat × Adapter) => x.2.used && x.2.owner == p) ||
    s.serve.rings.any (fun (x : Nat × Ring) => x.2.state != 0 && x.2.owner == p)

/-- Whether a scrub of a parcel's private space is still running. -/
def State.scrubbingFor (s : State) (p : Nat) : Bool := s.sched.scrubs.any (fun x => x.2.any (fun j => j.what == 5 && j.id == p))

/-- The space that a shutdown scrubs in place: the pre-emption area and the staging windows (Table 12-2). -/
def State.scrubParcel (s : State) (p : Nat) : State :=
  (s.serve.allocs.filter (fun a => a.owner == p && (a.kind == 2 || a.kind == 3))).foldl (fun s a => s.zeroRange (boardKey a.tier a.base) a.len) s

/-- A destroyed parcel is gone (R351, Table 12-2): its pre-emption area, key, mailbox and SPDM state go, its number is quarantined. -/
def State.freeParcel (s : State) (p : Nat) : State :=
  let s1 := (s.serve.allocs.filter (fun a => a.owner == p)).foldl (fun s a => s.setRegion a.tier a.base a.len 0 false false) s
  let s2 := ({ s1 with
    serve := { s1.serve with allocs := s1.serve.allocs.filter (fun a => a.owner != p) }
    sec := { s1.sec with spdm := SMap.set ⟨0⟩ s1.sec.spdm p ⟨0⟩ } } : State).setBox p Mailbox.fresh
  s2.updParcel p (fun _ => { Parcel.reset with quarantine := s.now + quarantineNs })

/-- PARCEL_SCRUB_COMPLETE (R325, R351, Table 12-2): the scrub of a parcel that shuts down ends. -/
def execParcelScrubComplete (parcel : Fin 513) (t : Nat) (s : State) : Host.Outcome State Fault Refusal :=
  let s0 := s.at' t
  let p := parcel.val
  let x := s0.parcel p
  let tell := fun (s : State) => match x.shutdown with
    | some w => s.complete w 0 []
    | none => s
  .next (if s0.scrubbingFor p then s0
    else if x.state = .scrubbing then
      tell (((s0.scrubParcel p).updParcel p (fun x => { x with state := .disabled, shutdown := none, destroy := false })).wantCommit)
    else if x.state = .destroying ∧ !s0.parcelHolds p then tell (((s0.scrubParcel p).freeParcel p).wantCommit)
    else s0)

/-! Rings. -/

/-- The key of ring `i` in deferrals. -/
def ringKeyOf (i : Nat) : ObjKey := ⟨4, i⟩

/-- `RING_CREATE`'s fields in range (Table 13-9). -/
def ringOk (l : Bytes) : Bool :=
  let n := leAt l 1 1
  decide (l.length = 0x18 ∧ 4 ≤ n ∧ n ≤ 12 ∧ leAt l 2 1 ≤ 3 ∧ 6 ≤ leAt l 3 1 ∧ leAt l 3 1 ≤ 16 ∧ leAt l 4 4 % 2 ^ n = 0 ∧
    leAt l 4 4 < 2 ^ 24 ∧ 1 ≤ leAt l 8 4 ∧ leAt l 8 4 ≤ 1024)

/-- A 32-bit value of the answer to `RING_CREATE` that the spec leaves to the module (log entry 2). -/
def State.drawn (s : State) (k : Nat) : Bytes := toLe 4 (Config.freeWord32 (s.free + k)).toNat

/-- The `OK` answer of `RING_CREATE` (Table 13-9): its key, port, addresses and remote keys are the module's own choice. -/
def State.ringBody (s : State) : Bytes :=
  s.drawn 0 ++ (s.drawn 1).take 2 ++ zeros 2 ++ s.drawn 2 ++ s.drawn 3 ++ s.drawn 4 ++ s.drawn 5 ++ s.drawn 6 ++ s.drawn 7 ++ s.drawn 8
    ++ s.drawn 9

/-- A ring comes to exist (R252, R279, R285, R372): its intake queue a system queue, its staging window at `base`, its registers as asked, a fresh key. -/
def State.makeRing (s : State) (p : Nat) (l : Bytes) (i base len : Nat) : State :=
  let s1 := ((s.takeSpace ⟨1, base, upMib len, p, 2, i⟩).setRegion 1 base (upMib len) p true false).updCist (leAt l 2 1) (fun c =>
    c.updQueue (intakeQueue i) (fun x => { x with sys := true }))
  (s1.updRing i (fun _ => { Ring.reset with
    state := 1, owner := p, logSize := leAt l 1 1, logCpl := leAt l 3 1, quad := leAt l 2 1, handleBase := leAt l 4 4, stageLen := len,
    stageBase := base, cplRkey := leAt l 0xC 4, cplAddr := leAt l 0x10 8, key := (Config.freeWord32 s.free).toNat })).tick 10

/-- The effect of `RING_CREATE` (R279, R285, R372, Tables 12-1 and 13-9). -/
def State.doRing (s : State) (p : Nat) (l : Bytes) : State × Ans :=
  let i := leAt l 0 1
  let size := 2 ^ leAt l 1 1
  let q := leAt l 2 1
  let hb := leAt l 4 4
  let len := leAt l 8 4 * 2 ^ 20
  let rings : List (Nat × Ring) := s.serve.rings.filter (fun x => x.2.state != 0)
  let held := rings.foldl (fun n x => n + x.2.size) 0
  let mine := (rings.filter (fun x => x.2.owner == p)).length
  if (s.ring i).state = 2 then (s, .wait (ringKeyOf i))
  else if (s.ring i).state ≠ 0 ∨ rings.any (fun x => decide (hb < x.2.handleBase + x.2.size ∧ x.2.handleBase < hb + size)) then
    (s, .final 0x0105 [])
  else if 16384 < held + size ∨ (p ≠ 0 ∧ ((s.parcel p).qRings ≤ mine ∨ (s.parcel p).qRes * mib2 < s.resUsed p + upMib len)) then
    (s, .final 0x0202 [])
  else match s.findSpace 1 q (upMib len) with
  | none => (s, .final 0x0202 [])
  | some base =>
    (s.makeRing p l i base len, .final 0 s.ringBody)

/-- The effect of `RING_DESTROY` (R285, R367). -/
def State.doRingDestroy (s : State) (w : Waiter) (l : Bytes) : State × Ans :=
  let i := leAt l 0 1
  let r := s.ring i
  if r.state ≠ 1 ∨ !ownerOk w.parcel r.owner then (s, .final 0x0105 []) else (s.destroyRing i (some w), .started [])

/-! Prefixes. -/

/-- The key of the page of a request at page-table index `ix` (R297, R301). -/
def State.pageKey (s : State) (m : Model) (r : Req) (ix : Nat) : Nat :=
  let shared := m.groups * (r.start / 64)
  if ix < shared then ((s.prefixAt (r.preIx - 1)).pages.getD ix 0) else r.pageBase + (ix - shared) * m.pageBytes

/-- A page block cut to its first `n` positions (R299): the K rows and the V rows of those, with a new CRC. -/
def cutBlock (l : Bytes) (n : Nat) : Bytes :=
  let h := blockHdr (l.take 64)
  let w := n * h.cols * codeBits h.fmt / 8
  let full := h.rows * h.cols * codeBits h.fmt / 8
  if h.layout ≠ 4 ∨ h.rows ≤ n then l
  else
    let body := slice l 64 w ++ slice l (64 + full) w
    let h1 : BlockHdr := { h with rows := n, packed := 2 * w, crc := 0 }
    let out := { h1 with crc := blockCrc h1.bytes body }.bytes ++ body
    out ++ zeros (l.length - out.length)

/-- A page cut to its first `n` positions: each of its page blocks, one after another, a block's place being its header and its padded
length (R297, R299, R300). -/
def cutPage : Nat → Bytes → Nat → Bytes
  | 0, l, _ => l
  | f + 1, l, n =>
    let w := 64 + (blockHdr (l.take 64)).padded
    if l.length < w ∨ w = 64 then l else cutBlock (l.take w) n ++ cutPage f (l.drop w) n

/-- The pages of a request that a prefix shares are read-only from now on (R300): every 2 MiB that holds nothing else (DESIGN CHOICE, log
entry 170). -/
def State.lockPages (s : State) (m : Model) (r : Req) (n : Nat) : State :=
  let cnt := m.groups * (n / 64) - m.groups * (r.start / 64)
  let lo := ceilDiv (r.pageBase % 2 ^ 48) mib2
  let hi := (r.pageBase % 2 ^ 48 + cnt * m.pageBytes) / mib2
  if lo < hi then s.setRegion 1 (lo * mib2) ((hi - lo) * mib2) r.parcel false false else s

/-- The prefix table entry that a new prefix takes: the first that is free and out of quarantine (R301, R347). -/
def State.freePrefix (s : State) : Option Nat :=
  (List.range (s.serve.prefixes.length + 1)).find? (fun i => !(s.prefixAt i).used && decide ((s.prefixAt i).until' ≤ s.now))

/-- Whether a request's first `n` positions may be pinned (R300). -/
def Req.mayPin (r : Req) (n : Nat) : Bool :=
  (r.state == .prefill || r.state == .decode || r.state == .held) && !r.away && decide (n ≠ 0 ∧ n ≤ r.pos)

/-- The bytes a prefix of `n` positions takes beside the request's own pages: a copy of its partial page (R300). -/
def Model.pinLen (m : Model) (n : Nat) : Nat := if n % 64 = 0 then 0 else upMib (m.groups * m.pageBytes)

/-- Where `len` bytes of a prefix of a request go: in the region of its area; no bytes need no place. -/
def State.pinBase (s : State) (r : Req) (len : Nat) : Option Nat :=
  if len = 0 then some 0 else s.findSpace 1 (r.area % 2 ^ 48 / regionBytes) len

/-- Prefix `i` comes to exist, pinned (R300, R301): the full pages of the first `n` positions are shared, the partial one copied to `base` and
cut there. -/
def State.makePrefix (s : State) (m : Model) (r : Req) (i n base : Nat) : State :=
  let g := m.groups
  let full := (List.range (g * (n / 64))).map (fun ix => s.pageKey m r ix)
  let len := m.pinLen n
  let s1 := if len = 0 then s else (s.takeSpace ⟨1, base, len, r.parcel, 5, i⟩).setRegion 1 base len r.parcel true false
  let own := if len = 0 then [] else (List.range g).map (fun k => boardKey 1 base + k * m.pageBytes)
  let s2 := own.zipIdx.foldl (fun (s : State) x =>
    s.fwWrite x.1 (cutPage (m.pageBytes / 64) (s.mem.readN (s.pageKey m r (g * (n / 64) + x.2)) m.pageBytes) (n % 64))) (s1.lockPages m r n)
  s2.updPrefix i (fun x => { Prefix.reset with
    gen := x.gen, used := true, parcel := r.parcel, model := r.model, adapter := r.adapter, aver := r.aver, len := n,
    pages := full ++ own, pinned := true })

/-- The effect of `PREFIX_PIN` (R300). -/
def State.doPin (s : State) (w : Waiter) (l : Bytes) : State × Ans :=
  let n := leAt l 4 4
  match s.req (leAt l 0 4) with
  | none => (s, .final 0x0104 [])
  | some r =>
    if r.home ≠ 0 then (s, .final 0x0104 [])
    else if !ownerOk w.parcel r.parcel then (s, .final 0x0105 [])
    else if !r.mayPin n then (s, .final 0x0102 [])
    else match s.modelOf r.model, s.freePrefix with
    | none, _ => (s, .final 0x0304 [])
    | _, none => (s, .final 0x0202 [])
    | some m, some i =>
      if (s.parcel r.parcel).qRes * mib2 < s.resUsed r.parcel + m.pinLen n then (s, .final 0x0202 [])
      else match s.pinBase r (m.pinLen n) with
      | none => (s, .final 0x0202 [])
      | some base => (s.makePrefix m r i n base, .final 0 (toLe 8 (i + r.parcel * 2 ^ 46 + (s.prefixAt i).gen * 2 ^ 56)))

/-- The effect of `PREFIX_UNPIN` (R301). -/
def State.doUnpin (s : State) (w : Waiter) (l : Bytes) : State × Ans :=
  let h := leAt l 0 8
  let i := h % 2 ^ 46
  let x := s.prefixAt i
  if !x.used ∨ !x.pinned ∨ x.gen ≠ h / 2 ^ 56 ∨ x.parcel ≠ h / 2 ^ 46 % 2 ^ 10 then (s, .final 0x0306 [])
  else if !ownerOk w.parcel x.parcel then (s, .final 0x0105 [])
  else if x.refs = 0 then
    ((s.updPrefix i (fun x => { Prefix.reset with gen := nextGen x.gen, until' := s.now + quarantineNs })).collect, .final 0 [])
  else (s.updPrefix i (fun x => { x with pinned := false }), .final 0 [])

end Sys2Proof.Machine
end

