-- ==== Sys2Proof/Machine/Registers.lean ====
section
/-! DEFINITION. Control space (R161, Table 6-2): what a read of each register returns and clears (R9, R13), the writes that have no
command of their own, and the writes that clear a record. A register of a domain that is off reads zero and ignores writes (R412,
R442). -/

namespace Sys2Proof.Machine

/-! Records. -/

/-- A fault record as a word: `CAUSE`, `VALID` and `MULTI` (Table 2-17). -/
def FaultRec.word (r : FaultRec) : Nat := r.cause % 256 + (if r.valid then 2 ^ 8 else 0) + (if r.multi then 2 ^ 9 else 0)

/-- A write of ones to a fault record: [8] clears all of it, [9] `MULTI`. -/
def FaultRec.w1c (r : FaultRec) (v : Nat) : FaultRec :=
  if bitB v 8 then .clear else if bitB v 9 then { r with multi := false } else r

/-- One bit at a place. -/
def bitAt (b : Bool) (i : Nat) : Nat := if b then 2 ^ i else 0

/-! What a read returns, and the unit after it: each unit's registers by offset. -/

/-- The code of a tile state (Table 2-16). -/
def TileState.code : TileState → Nat
  | .fenced => 0
  | .idle => 1
  | .running => 2
  | .parked => 3

/-- `TILE_STATUS` (Table 2-16). -/
def Tile.status (t : Tile) : Nat :=
  let r := t.regs
  r.state.code + bitAt r.fenceCore 2 + bitAt r.fenceFull 3 + bitAt r.yieldDone 4 + bitAt r.drained 5 + bitAt r.retest 6
    + t.live.length % 2 ^ 10 * 2 ^ 16 + r.epoch % 16 * 2 ^ 32

/-- `CANAL_CTRL` (Table 4-11). -/
def TileRegs.canalCtrl (r : TileRegs) : Nat := r.period % 256 + r.linkEn % 16 * 2 ^ 8 + r.epochAccept % 2 ^ 16 * 2 ^ 16

/-- A read of tile `g` (Tables 2-15, 4-10). -/
def Tile.reg (t : Tile) (g o : Nat) : Nat × Tile :=
  let r := t.regs
  let set := fun (x : TileRegs) => { t with regs := x }
  match o with
  | 0x000 => (g, t)
  | 0x008 => (t.status, t)
  | 0x010 => (bitAt r.yieldReq 0 + bitAt r.stop 1, t)
  | 0x018 => (r.fault.word, t)
  | 0x020 => (r.fault.info.toNat, t)
  | 0x028 => (r.fwinBase, t)
  | 0x030 => (r.fwinLimit, t)
  | 0x038 => (t.a0.w.toNat + t.a1.w.toNat * 2 ^ 16, t)
  | 0x040 => (r.fireCnt, set { r with fireCnt := 0 })
  | 0x048 => (r.issueCnt, set { r with issueCnt := 0 })
  | 0x050 => (r.stallCnt, set { r with stallCnt := 0 })
  | 0x058 => (r.waitCnt, set { r with waitCnt := 0 })
  | 0x060 => (r.selftest.toNat, t)
  | 0x100 => (r.canalCtrl, t)
  | 0x108 => (r.canalFault.word, t)
  | 0x110 => (r.canalFault.info.toNat, t)
  | 0x118 => (r.staleDrop, set { r with staleDrop := 0 })
  | 0x120 => (r.tokenIn, set { r with tokenIn := 0 })
  | 0x128 => (r.tokenOut, set { r with tokenOut := 0 })
  | 0x130 => (t.matchLive, t)
  | 0x138 => (r.matchHwm, set { r with matchHwm := 0 })
  | 0x140 => ((List.range 16).foldl (fun n i => n + bitAt (SMap.get none t.tregs i).isSome i) 0, t)
  | 0x148 => (r.steerCnt, set { r with steerCnt := 0 })
  | _ => (0, t)

/-- `PLOT_CFG` of the controller of block `b` (Table 5-12). -/
def Plot.cfg (p : Plot) : Nat :=
  p.brow + p.bcol * 2 ^ 3 + (p.rows - 1) * 2 ^ 6 + (p.cols - 1) * 2 ^ 9 + 2 ^ 12 + bitAt (decide (1 < p.quads.length)) 13

/-- A read of block controller `b` (Table 5-12); `inflight` is the count of token copies on its plot's links. -/
def Block.reg (x : Block) (inflight o : Nat) : Nat × Block :=
  let r := x.regs
  let set := fun (y : PlotRegs) => { x with regs := y }
  let p := fun (f : Plot → Nat) => (x.plot.map f).getD 0
  match o with
  | 0x000 => (p Plot.cfg, x)
  | 0x008 => (p (fun y => bitAt y.release 1 + bitAt y.yieldReq 2), x)
  | 0x010 => (if x.plot.isNone ∧ x.saved then 6 else p (fun y => y.state.code + y.sect % 16 * 2 ^ 8 + y.epoch % 16 * 2 ^ 12 + y.held % 2 ^ 16 * 2 ^ 16 + y.accept % 2 ^ 16 * 2 ^ 32), x)
  | 0x018 => (inflight % 2 ^ 16, x)
  | 0x020 => (r.discard, set { r with discard := 0 })
  | 0x028 => (r.switchCnt, set { r with switchCnt := 0 })
  | 0x030 => (r.switchLast + r.switchLastD * 2 ^ 16, x)
  | 0x038 => (r.switchMax, set { r with switchMax := 0 })
  | 0x040 => (r.endRemain, x)
  | 0x048 => (r.forceCnt, set { r with forceCnt := 0 })
  | 0x050 => (r.fault.word + (if r.fault.valid then r.faultTile % 4096 * 2 ^ 16 else 0), x)
  | _ => (0, x)

/-- A read of a sluice engine (Table 6-10). -/
def Engine.reg (x : Engine) (o : Nat) : Nat × Engine :=
  match o with
  | 0x000 => (min 32 x.flight.length + min 64 x.statics.length * 2 ^ 8 + min 64 x.dyn.length * 2 ^ 16, x)
  | 0x008 => (bitAt x.enable 0 + bitAt x.halt 1, x)
  | 0x010 => (x.ringBase, x)
  | 0x018 => (x.ringSize, x)
  | 0x020 => (x.ringHead, x)
  | 0x028 => (x.ringTail, x)
  | 0x030 => (x.err.word, x)
  | 0x038 => (x.errId, x)
  | 0x040 => (x.errAddr, x)
  | 0x048 => (x.bytesStatic, { x with bytesStatic := 0 })
  | 0x050 => (x.bytesDyn, { x with bytesDyn := 0 })
  | 0x058 => (x.staleCnt, { x with staleCnt := 0 })
  | _ => (0, x)

/-- A read of a quadrant memory block (Table 6-11). -/
def QuadMem.reg (m : QuadMem) (o : Nat) : Nat × QuadMem :=
  match o with
  | 0x000 => (m.pondPages + m.cistPages * 2 ^ 8, m)
  | 0x008 => (bitAt m.regionUp 0 + bitAt m.rate8g 1 + m.stackUp % 64 * 2 ^ 2 + m.surveyFail % 64 * 2 ^ 8 + bitAt m.cfgRefused 14, m)
  | 0x010 => (m.reserves.foldl (fun n r => n + r.slots) 0, m)
  | 0x018 => (m.fieldCe, { m with fieldCe := 0 })
  | 0x020 => (m.fieldUe, { m with fieldUe := 0 })
  | 0x028 => (m.resCe, { m with resCe := 0 })
  | 0x030 => (m.resUe, { m with resUe := 0 })
  | 0x038 => (m.blockCrc, { m with blockCrc := 0 })
  | 0x040 => (m.pondHit, { m with pondHit := 0 })
  | 0x048 => (m.pondMiss, { m with pondMiss := 0 })
  | 0x050 => (m.pondInval, { m with pondInval := 0 })
  | 0x058 => (m.pondUe, { m with pondUe := 0 })
  | 0x060 => (m.surveyCnt, { m with surveyCnt := 0 })
  | 0x068 => (m.aqStatus, m)
  | 0x070 => (m.aqErr, { m with aqErr := 0 })
  | 0x078 => (m.lastUe, m)
  | _ => (0, m)

/-- A read of arbiter `i` (Table 12-6). -/
def Arb.reg (a : Arb) (i o : Nat) : Nat × Arb :=
  let r := (o - 0x100) / 0x20
  if 0x100 ≤ o ∧ r < arbRequesters i then
    (match o % 0x20 with
      | 0x00 => (SMap.get 0 a.grants r, { a with grants := SMap.set 0 a.grants r 0 })
      | 0x08 => (SMap.get 0 a.waits r, { a with waits := SMap.set 0 a.waits r 0 })
      | 0x10 => (SMap.get 0 a.waitMax r, { a with waitMax := SMap.set 0 a.waitMax r 0 })
      | 0x18 => (a.weightOf r, a)
      | _ => (0, a))
  else match o with
  | 0x000 => ((if i < 96 then i * 2 ^ 8 else if i < 108 then 1 + (i - 96) * 2 ^ 8 else 2 + (i - 108) * 2 ^ 8) + (arbRequesters i - 1) * 2 ^ 16, a)
  | 0x008 => (bitAt a.parkEn 0 + bitAt a.irqEn 1, a)
  | 0x010 => (a.last % 32 + bitAt a.parked 5 + a.asking % 2 ^ 32 * 2 ^ 8, a)
  | 0x018 => (a.starve, a)
  | 0x020 => (a.thr, a)
  | 0x028 => (a.waste, { a with waste := 0 })
  | 0x030 => (a.static, { a with static := 0 })
  | _ => (0, a)

/-- A word of a queue descriptor (Table 9-2). -/
def CQueue.word (q : CQueue) (k : Nat) : Nat :=
  let cells := q.pkts.flatMap (fun p => p.cells)
  match k with
  | 0 => cells.headD 0 + cells.getLastD 0 * 2 ^ 32
  | 1 => q.cells + q.pkts.length * 2 ^ 32
  | 2 => bitAt q.stall 0 + bitAt q.park 1 + bitAt q.latOut 2 + q.deliv % 32 * 2 ^ 8 + bitAt q.flushing 16 + bitAt (decide (0 < q.pos)) 17
      + (q.owner % 64 + bitAt q.sys 6) * 2 ^ 32
  | _ => q.disc

/-- A read of a cistern (Table 9-10). -/
def Cistern.reg (c : Cistern) (o : Nat) : Nat × Cistern :=
  if 0x40000 ≤ o ∧ o < 0x80000 then ((c.queue ((o - 0x40000) / 32)).word (o % 32 / 8), c)
  else if 0x100 ≤ o ∧ o < 0x180 then
    (let b := (o - 0x100) / 8
     (SMap.get 0 c.quota b % 2 ^ 20 + SMap.get 0 c.held b % 2 ^ 20 * 2 ^ 20, c))
  else match o with
  | 0x00 => (c.sysCells, c)
  | 0x08 => (c.pool - c.fresh + c.freed.length + c.building.foldl (fun n b => n + b.cells.length) 0 * 2 ^ 20, c)
  | 0x10 => (c.err.word, c)
  | 0x18 => (c.errInfo, c)
  | 0x20 => (c.flushCnt, { c with flushCnt := 0 })
  | 0x28 => (c.idleCnt, { c with idleCnt := 0 })
  | 0x30 => (c.dropCnt, { c with dropCnt := 0 })
  | _ => (0, c)

/-- Four fields of 16 bits from index `i` on. -/
def fours (f : Nat → Nat) (i : Nat) : Nat := f i % 2 ^ 16 + f (i + 1) % 2 ^ 16 * 2 ^ 16 + f (i + 2) % 2 ^ 16 * 2 ^ 32 + f (i + 3) % 2 ^ 16 * 2 ^ 48

/-- A read of a lateral engine (Table 9-11, R278); `flying` is its packets in flight. -/
def Lateral.reg (l : Lateral) (flying o : Nat) : Nat × Lateral :=
  let tab := fun (t : Nat) => SMap.get RTable.reset l.tables t
  if 0xA000 ≤ o ∧ o < 0xA800 then (fours (tab ((o - 0xA000) / 0x80)).usedOf ((o - 0xA000) % 0x80 / 8 * 4), l)
  else if 0x9000 ≤ o ∧ o < 0x9800 then (fours (tab ((o - 0x9000) / 0x80)).capOf ((o - 0x9000) % 0x80 / 8 * 4), l)
  else if 0x1000 ≤ o ∧ o < 0x9000 then
    (let x := o - 0x1000
     ((SMap.get 0 (tab (x / 0x800)).bank (64 * (x % 0x800 / 0x400) + x % 0x400 / 8)).toNat, l))
  else if 0x100 ≤ o ∧ o < 0x500 then
    (let t := (o - 0x100) / 0x40
     let r := tab t
     let set := fun (y : RTable) => l.updTable t (fun _ => y)
     match o % 0x40 with
      | 0x00 => (bitAt r.valid 0 + bitAt r.commit 1 + r.active * 4 + r.lead % 64 * 2 ^ 3 + r.retq0 % 2 ^ 15 * 2 ^ 9 + r.retq1 % 2 ^ 15 * 2 ^ 24, l)
      | 0x08 => (r.movedCnt, set { r with movedCnt := 0 })
      | 0x10 => (r.bypassCnt, set { r with bypassCnt := 0 })
      | 0x18 => (r.staleCnt, set { r with staleCnt := 0 })
      | 0x20 => (r.gen % 4096 + r.half % 2 * 2 ^ 12, l)
      | _ => (0, l))
  else match o with
  | 0x000 => ((List.range 16).foldl (fun n t => n + bitAt (tab t).valid t) 0 + min flying 65535 * 2 ^ 16, l)
  | 0x008 => (bitAt l.enable 0, l)
  | 0x010 => (l.err.word, l)
  | 0x018 => (l.errInfo, l)
  | 0x020 => (l.bytesOut, { l with bytesOut := 0 })
  | 0x028 => (l.bytesIn, { l with bytesIn := 0 })
  | _ => (0, l)

/-- A read of a gather engine (Table 11-6). -/
def GatherEng.reg (g : GatherEng) (o : Nat) : Nat × GatherEng :=
  match o with
  | 0x000 => (min 256 g.rows.length + min 64 g.bags.length * 2 ^ 16, g)
  | 0x008 => (bitAt g.enable 0, g)
  | 0x010 => (g.err.word, g)
  | 0x018 => (g.errAddr, g)
  | 0x020 => (g.rowsCnt, { g with rowsCnt := 0 })
  | 0x028 => (g.bytesCnt, { g with bytesCnt := 0 })
  | 0x030 => (g.slotCnt, { g with slotCnt := 0 })
  | _ => (0, g)

/-- The 64 bytes of a directory entry (Table 11-1). -/
def TableEnt.bytes (t : TableEnt) : Bytes :=
  toLe 1 (bitAt t.valid 0 + bitAt t.aq 1 + bitAt t.scaled 2) ++ toLe 1 t.fmt ++ toLe 2 t.rowBytes ++ toLe 2 t.model ++ toLe 2 t.stream
    ++ toLe 4 t.rowsTotal ++ toLe 4 t.bound1 ++ toLe 4 t.bound2 ++ toLe 4 t.bound3 ++ toLe 8 t.base
    ++ toLe 2 (BitVec.ofInt 10 t.twin).toNat ++ toLe 1 t.rpb ++ zeros 29

/-- A directory entry from its 64 bytes; its counters stay. -/
def TableEnt.ofBytes (t : TableEnt) (l : Bytes) : TableEnt :=
  { t with
    valid := bitB (leAt l 0 1) 0, aq := bitB (leAt l 0 1) 1, scaled := bitB (leAt l 0 1) 2, fmt := leAt l 1 1, rowBytes := leAt l 2 2,
    model := leAt l 4 2, stream := leAt l 6 2, rowsTotal := leAt l 8 4, bound1 := leAt l 0xC 4, bound2 := leAt l 0x10 4,
    bound3 := leAt l 0x14 4, base := leAt l 0x18 8 % 2 ^ 52, twin := (BitVec.ofNat 10 (leAt l 0x20 2)).toInt, rpb := leAt l 0x22 1 }

/-- A read of a table's counters (Table 11-7). -/
def TableEnt.reg (t : TableEnt) (o : Nat) : Nat × TableEnt :=
  match o with
  | 0x00 => (t.lookupCnt, { t with lookupCnt := 0 })
  | 0x08 => (t.oorCnt, { t with oorCnt := 0 })
  | 0x10 => (t.underCnt, { t with underCnt := 0 })
  | _ => (t.overCnt, { t with overCnt := 0 })

/-- A read of a fabric port (Table 14-9); `planned` says whether the plan has a record of it. -/
def FabPort.reg (p : FabPort) (planned : Bool) (o : Nat) : Nat × FabPort :=
  match o with
  | 0x000 => (p.state.code + bitAt planned 3 + bitAt p.missing 4 + bitAt p.optical 5 + p.lanes % 16 * 2 ^ 8
      + p.reserved.foldl (fun n r => n + r.slots) 0 % 2 ^ 10 * 2 ^ 16, p)
  | 0x008 => (bitAt p.enable 0, p)
  | 0x010 => (p.benchSerial, p)
  | 0x018 => (p.benchSlot % 4 + p.benchPort % 16 * 2 ^ 8 + p.benchStep % 256 * 2 ^ 16 + bitAt p.benchSeen 24, p)
  | 0x020 => (p.rtt, p)
  | 0x028 => (p.errCause % 256 + bitAt p.errValid 8 + bitAt p.errMulti 9, p)
  | 0x030 => (p.crcCnt, { p with crcCnt := 0 })
  | 0x038 => (p.replayCnt, { p with replayCnt := 0 })
  | 0x040 => (p.fecCnt, { p with fecCnt := 0 })
  | 0x048 => (p.recoverCnt, { p with recoverCnt := 0 })
  | 0x050 => (p.downCnt, { p with downCnt := 0 })
  | 0x058 => (p.txFlits, { p with txFlits := 0 })
  | 0x060 => (p.rxFlits, { p with rxFlits := 0 })
  | 0x068 => (p.refusedCnt, { p with refusedCnt := 0 })
  | _ => (0, p)

/-- A read of the fabric global block (Table 14-10). -/
def Fab.reg (f : Fab) (o : Nat) : Nat × Fab :=
  let ports := fun (q : FabPort → Bool) (at' : Nat) =>
    (List.range 12).foldl (fun n i => n + bitAt (q (SMap.get FabPort.reset f.ports i)) (at' + i)) 0
  match o with
  | 0x000 => (f.planId, f)
  | 0x008 => (bitAt f.discovered 0 + bitAt f.mismatch 1 + ports (fun p => p.state == .quarantined) 4 + ports (fun p => p.missing) 16, f)
  | 0x010 => (f.abortTx, { f with abortTx := 0 })
  | 0x018 => (f.abortRx, { f with abortRx := 0 })
  | 0x020 => (f.transitDrop, { f with transitDrop := 0 })
  | 0x028 => (f.transit, { f with transit := 0 })
  | _ => (0, f)

/-- 64 bits of a 256-bit register. -/
def quarter (v : BitVec 256) (w : Nat) : Nat := v.toNat / 2 ^ (64 * w) % 2 ^ 64

/-- `HIC_CUR` of a core (Table 15-6). -/
def Hic.cur (h : Hic) (c : Nat) : Nat :=
  match (h.of c).getLast? with
  | none => 2 ^ 8 + 0xFF * 2 ^ 16
  | some a => a.src + (h.running c - 1) % 256 * 2 ^ 16 + (h.of c).length * 2 ^ 24

/-- A read of the interrupt controller (Table 15-6). -/
def Hic.reg (h : Hic) (o : Nat) : Nat × Hic :=
  if 0x1000 ≤ o ∧ o < 0x1400 then
    (let c := (o - 0x1000) / 0x100
     match o % 0x100 with
      | 0x00 => (SMap.get 0 h.vbase c, h)
      | 0x08 => (SMap.get 0 h.thresh c, h)
      | 0x18 => (h.cur c, h)
      | 0x20 => (SMap.get 0 h.takeCnt c, { h with takeCnt := SMap.set 0 h.takeCnt c 0 })
      | 0x28 => (SMap.get 0 h.badEoi c, { h with badEoi := SMap.set 0 h.badEoi c 0 })
      | _ => (0, h))
  else if 0x800 ≤ o ∧ o < 0x1000 then
    (let n := (o - 0x800) / 8
     (SMap.get 0 h.prio n + SMap.get 0 h.target n * 2 ^ 8, h))
  else if 0x300 ≤ o ∧ o < 0x320 then
    (h.active.foldl (fun n a => if a.src / 64 = (o - 0x300) / 8 then setBitN n (a.src % 64) else n) 0, h)
  else if 0x200 ≤ o ∧ o < 0x220 then (quarter h.pend ((o - 0x200) / 8), h)
  else if 0x100 ≤ o ∧ o < 0x120 then (quarter h.en ((o - 0x100) / 8), h)
  else if o = 0 then (0x40100, h)
  else if o = 8 then (h.grpBits + bitAt h.enable 8, h)
  else (0, h)

/-- `TIME_STATUS` (Table 12-9). -/
def TimeSt.status (t : TimeSt) : Nat := bitAt t.valid 0 + bitAt t.locked 1 + bitAt t.holdover 2 + t.port % 8 * 2 ^ 3 + t.domain % 256 * 2 ^ 8

/-- A read of the time unit (Table 12-9). -/
def TimeSt.reg (t : TimeSt) (now o : Nat) : Nat × TimeSt :=
  match o with
  | 0x000 => (now, t)
  | 0x008 => (t.status, t)
  | 0x010 => (t.domain % 256 + t.cfg * 2 ^ 16, t)
  | 0x018 => ((BitVec.ofInt 32 t.offset).toNat, t)
  | 0x020 => (t.staleId, { t with staleId := 0 })
  | 0x028 => (t.surveyCfg, t)
  | _ => (0, t)

/-- `PWR_STATUS` (Table 16-7); `ready` says that no plot runs a task. -/
def Power.status (p : Power) (ready : Bool) : Nat :=
  p.mode.code + bitAt (p.mode == .serve && ready) 3 + bitAt p.thermHold 4 + bitAt p.coolHold 5 + bitAt p.brownout 6 + bitAt p.capLimited 7
    + p.array % 16 * 2 ^ 8 + p.field % 16 * 2 ^ 12 + p.mem % 16 * 2 ^ 16

/-- A read of the power unit (Table 16-7). -/
def Power.reg (p : Power) (ready : Bool) (o : Nat) : Nat × Power :=
  if 0x028 ≤ o ∧ o < 0x048 then
    (let q := (o - 0x028) / 8
     (SMap.get 19 p.freq q + SMap.get 19 p.thermCeil q * 2 ^ 8 + SMap.get 19 p.capCeil q * 2 ^ 16 + SMap.get 19 p.voltCeil q * 2 ^ 24, p))
  else match o with
  | 0x000 => (p.status ready, p)
  | 0x008 => (p.qgateMs % 2 ^ 16 + p.retain % 16 * 2 ^ 16, p)
  | 0x010 => (p.cap % 4096, p)
  | 0x018 => (p.vmain % 2 ^ 16 + p.imain % 2 ^ 16 * 2 ^ 16 + p.vaux % 2 ^ 16 * 2 ^ 32, p)
  | 0x020 => (p.avg % 2 ^ 16, p)
  | 0x048 => ((List.range 8).foldl (fun n i => n + SMap.get 0 p.temps i % 256 * 2 ^ (8 * i)) 0, p)
  | 0x050 => (SMap.get 0 p.temps 8 % 256 + SMap.get 0 p.temps 9 % 256 * 2 ^ 8, p)
  | 0x058 => (p.event, p)
  | 0x060 => (p.throttleCnt, { p with throttleCnt := 0 })
  | 0x068 => (p.capCnt, { p with capCnt := 0 })
  | 0x070 => (p.gateCnt, { p with gateCnt := 0 })
  | _ => (0, p)

/-- A read of the security block (Table 17-8); `key0` says whether parcel 0 has a key. -/
def Sec.reg (x : Sec) (key0 : Bool) (o : Nat) : Nat × Sec :=
  if 0x040 ≤ o ∧ o < 0x080 then (leAt (toLe 64 Config.rootDigest.toNat) (o - 0x040) 8, x)
  else match o with
  | 0x000 => (Config.lifecycle.toNat + 2 ^ 2 + 2 ^ 3 + x.bank % 2 * 2 ^ 4 + bitAt x.activation.isSome 5 + bitAt key0 6 + x.floor % 128 * 2 ^ 8, x)
  | 0x008 => (x.event, x)
  | 0x010 => (x.signCnt, { x with signCnt := 0 })
  | _ => (0, x)

/-! The module's control space. -/

/-- The power domain of an offset (Table 16-1): 0 Headworks main, 1 + q the ARRAY of quadrant q, 5 + q its MEM. -/
def regDomain (o : Nat) : Nat :=
  if o < 0x1000000 then 1 + tileQuad (o / 0x1000)
  else if o < 0x1040000 then 1 + blockQuad ((o - 0x1000000) / 0x1000)
  else if o < 0x1080000 then 5 + (o - 0x1040000) / 0x10000
  else if o < 0x1084000 then 5 + (o - 0x1080000) / 0x1000
  else if o < 0x1085000 then 0
  else if 0x2000000 ≤ o ∧ o < 0x2060000 then 5 + (o - 0x2000000) / 0x18000
  else if 0x206C000 ≤ o ∧ o < 0x2070000 then 5 + (o - 0x206C000) / 0x1000
  else if 0x3000000 ≤ o ∧ o < 0x3400000 then 5 + (o - 0x3000000) / 0x100000
  else if 0x4000000 ≤ o ∧ o < 0x4060000 then 5 + (o - 0x4000000) / 0x18000
  else 0

/-- Whether the domain of an offset is on (R412). -/
def State.regOn (s : State) (o : Nat) : Bool :=
  let d := regDomain o
  s.power.mode != .off && (d == 0 || (if d < 5 then bitB s.power.array (d - 1) else bitB s.power.mem (d - 5)))

/-- Whether no plot runs a task (R443). -/
def State.noTask (s : State) : Bool := (List.range 64).all (fun b => (s.plot b).all (fun p => p.task.isNone))

/-- Packets a lateral engine still holds. -/
def Lateral.flying (l : Lateral) : Nat := l.gathers.length + l.subs.length + l.owned.length + l.parts.length

/-- Whether a block belongs to a plot that another block leads: its registers read zero (R156). -/
def State.ledElsewhere (s : State) (b : Nat) : Bool :=
  (List.range 64).any (fun c => c != b && (s.plot c).elim false (fun p => p.blocks.contains b))

/-- A read of the registers of block controller `b` (R156). -/
def State.readBlock (s : State) (b o : Nat) : Nat × State :=
  if s.ledElsewhere b then (0, s)
  else
    let r := (s.block b).reg ((s.plot b).elim 0 (fun p => s.inflight p)) o
    (r.1, s.setBlock b r.2)

/-- A read of the control-space word at an offset: its value, and the state once the fields that clear on a read are clear (R9). -/
def State.readReg (s : State) (o : Nat) : Nat × State :=
  if !s.regOn o then (0, s)
  else if o < 0x1000000 then
    (let r := (s.tile (o / 0x1000)).reg (o / 0x1000) (o % 0x1000)
     (r.1, s.setTile (o / 0x1000) r.2))
  else if o < 0x1040000 then
    s.readBlock ((o - 0x1000000) / 0x1000) (o % 0x1000)
  else if o < 0x1080000 then
    (let r := (s.engine ((o - 0x1040000) / 0x1000)).reg (o % 0x1000)
     (r.1, s.updEngine ((o - 0x1040000) / 0x1000) (fun _ => r.2)))
  else if o < 0x1084000 then
    (let r := (s.quad ((o - 0x1080000) / 0x1000)).reg (o % 0x1000)
     (r.1, s.updQuad ((o - 0x1080000) / 0x1000) (fun _ => r.2)))
  else if o < 0x1085000 then
    (let i := o - 0x1084000
     let b := i % 0x200 / 8
     let r := (s.block b).regs
     if (s.plot b).isNone ∨ 0x400 ≤ i then (0, s)
     else if i < 0x200 then (r.lateStall, s.updPlotRegs b (fun r => { r with lateStall := 0 }))
     else (r.waitMax, s.updPlotRegs b (fun r => { r with waitMax := 0 })))
  else if 0x2000000 ≤ o ∧ o < 0x2070000 then
    (let a := (o - 0x2000000) / 0x1000
     let r := (s.arb a).reg a (o % 0x1000)
     (r.1, s.updArb a (fun _ => r.2)))
  else if 0x3000000 ≤ o ∧ o < 0x3400000 then
    (let q := (o - 0x3000000) / 0x100000
     let r := (s.cistern q).reg (o % 0x100000)
     (r.1, s.updCist q (fun _ => r.2)))
  else if 0x3400000 ≤ o ∧ o < 0x3440000 then
    (let e := (o - 0x3400000) / 0x10000
     let r := (s.lateral e).reg (s.lateral e).flying (o % 0x10000)
     (r.1, s.updLe e (fun _ => r.2)))
  else if 0x4000000 ≤ o ∧ o < 0x4060000 then
    (let g := (o - 0x4000000) / 0x1000
     let r := (s.gatherEng g).reg (o % 0x1000)
     (r.1, s.updGe g (fun _ => r.2)))
  else if 0x4100000 ≤ o ∧ o < 0x4110000 then (leAt (s.tableEnt ((o - 0x4100000) / 64)).bytes (o % 64) 8, s)
  else if 0x4200000 ≤ o ∧ o < 0x4208000 then
    (let t := (o - 0x4200000) / 32
     let r := (s.tableEnt t).reg (o % 32)
     (r.1, s.updTableEnt t (fun _ => r.2)))
  else if 0x10000000 ≤ o ∧ o < 0x10002000 then
    (let r := s.hic.reg (o - 0x10000000)
     (r.1, { s with hic := r.2 }))
  else if 0x10040000 ≤ o ∧ o < 0x10041000 then
    (let r := s.time.reg s.now (o - 0x10040000)
     (r.1, { s with time := r.2 }))
  else if 0x10060000 ≤ o ∧ o < 0x10061000 then
    (let r := s.power.reg s.noTask (o - 0x10060000)
     (r.1, { s with power := r.2 }))
  else if 0x10080000 ≤ o ∧ o < 0x10081000 then
    (let r := s.sec.reg (s.box 0).key.isSome (o - 0x10080000)
     (r.1, { s with sec := r.2 }))
  else if 0x10100000 ≤ o ∧ o < 0x1010C000 then
    (let i := (o - 0x10100000) / 0x1000
     let r := (s.fport i).reg (s.fab.planOf i).isSome (o % 0x1000)
     (r.1, s.updFport i (fun _ => r.2)))
  else if 0x1010C000 ≤ o ∧ o < 0x1010D000 then
    (let r := s.fab.reg (o - 0x1010C000)
     (r.1, { s with fab := r.2 }))
  else (0, s)

/-- COUNTER_READ_CLEAR (R9, R13): firmware reads a counter; it is zero afterwards. The value goes to the core that reads. -/
def execCounterReadClear (off : BitVec 32) (s : State) : Host.Outcome State Fault Refusal :=
  .next (if off.toNat % 8 = 0 then (s.readReg off.toNat).2 else s)

/-- ERROR_RECORD_CLEAR (R9, R10): a write of ones to a fault or event record. -/
def execErrorRecordClear (off : BitVec 32) (v : BitVec 64) (s : State) : Host.Outcome State Fault Refusal :=
  let o := off.toNat
  let n := v.toNat
  .next (if !s.regOn o then s
    else if o < 0x1000000 ∧ o % 0x1000 = 0x018 then s.updTile (o / 0x1000) (fun t => t.updRegs (fun r => { r with fault := r.fault.w1c n }))
    else if o < 0x1000000 ∧ o % 0x1000 = 0x108 then s.updTile (o / 0x1000) (fun t => t.updRegs (fun r => { r with canalFault := r.canalFault.w1c n }))
    else if 0x1000000 ≤ o ∧ o < 0x1040000 ∧ o % 0x1000 = 0x050 then
      s.updPlotRegs ((o - 0x1000000) / 0x1000) (fun r => { r with fault := r.fault.w1c n, faultTile := if bitB n 8 then 0 else r.faultTile })
    else if 0x1040000 ≤ o ∧ o < 0x1080000 ∧ o % 0x1000 = 0x030 then
      s.updEngine ((o - 0x1040000) / 0x1000) (fun x => { x with
        err := x.err.w1c n, errId := if bitB n 8 then 0 else x.errId, errAddr := if bitB n 8 then 0 else x.errAddr })
    else if 0x2000000 ≤ o ∧ o < 0x2070000 ∧ o % 0x1000 = 0x018 then
      s.updArb ((o - 0x2000000) / 0x1000) (fun a => { a with starve := a.starve &&& (2 ^ 64 - 1 - n) })
    else if 0x3000000 ≤ o ∧ o < 0x3400000 ∧ o % 0x100000 = 0x10 then
      s.updCist ((o - 0x3000000) / 0x100000) (fun c => { c with err := c.err.w1c n, errInfo := if bitB n 8 then 0 else c.errInfo })
    else if 0x3400000 ≤ o ∧ o < 0x3440000 ∧ o % 0x10000 = 0x010 then
      s.updLe ((o - 0x3400000) / 0x10000) (fun l => { l with err := l.err.w1c n, errInfo := if bitB n 8 then 0 else l.errInfo })
    else if 0x4000000 ≤ o ∧ o < 0x4060000 ∧ o % 0x1000 = 0x010 then
      s.updGe ((o - 0x4000000) / 0x1000) (fun g => { g with err := g.err.w1c n, errAddr := if bitB n 8 then 0 else g.errAddr })
    else if o = 0x10060058 then { s with power := { s.power with event := s.power.event &&& (2 ^ 64 - 1 - n) } }
    else if o = 0x10080008 then { s with sec := { s.sec with event := s.sec.event &&& (2 ^ 64 - 1 - n) } }
    else if 0x10100000 ≤ o ∧ o < 0x1010C000 ∧ o % 0x1000 = 0x028 then
      s.updFport ((o - 0x10100000) / 0x1000) (fun p =>
        if bitB n 8 then { p with errCause := 0, errValid := false, errMulti := false } else if bitB n 9 then { p with errMulti := false } else p)
    else s)

/-! Writes. -/

/-- A write to a tile's registers, taken only while the tile is idle: the window and accumulator registers (R66) and `CANAL_CTRL`
(R128). The low 12 bits of `FWIN_LIMIT` are dropped as those of `FWIN_BASE` are. DESIGN CHOICE, see log entry 157. -/
def Tile.write (t : Tile) (o n : Nat) : Tile :=
  if t.regs.state ≠ .idle then t
  else match o with
  | 0x028 => t.updRegs (fun r => { r with fwinBase := n % 2 ^ 22 / 4096 * 4096 })
  | 0x030 => t.updRegs (fun r => { r with fwinLimit := n % 2 ^ 22 / 4096 * 4096 })
  | 0x038 => { t with a0 := { t.a0 with w := BitVec.ofNat 10 n }, a1 := { t.a1 with w := BitVec.ofNat 10 (n / 2 ^ 16) } }
  | 0x100 => t.updRegs (fun r => { r with period := n % 256, linkEn := n / 2 ^ 8 % 16, epochAccept := n / 2 ^ 16 % 2 ^ 16 })
  | _ => t

/-- A write to a sluice engine's registers (Table 6-10, R200). -/
def Engine.write (x : Engine) (o n : Nat) : Engine :=
  match o with
  | 0x008 => { x with enable := bitB n 0, halt := bitB n 1 }
  | 0x010 => if x.enable then x else { x with ringBase := n % 2 ^ 52 / 64 * 64 }
  | 0x018 => if x.enable then x else { x with ringSize := n % 32 }
  | _ => x

/-- A write to an arbiter's registers (Table 12-6, R338). -/
def Arb.write (a : Arb) (i o n : Nat) : Arb :=
  let r := (o - 0x100) / 0x20
  if 0x100 ≤ o ∧ r < arbRequesters i then (if o % 0x20 = 0x18 then { a with weight := SMap.set 1 a.weight r (n % 16) } else a)
  else match o with
  | 0x008 => { a with parkEn := bitB n 0, irqEn := bitB n 1 }
  | 0x020 => { a with thr := n % 2 ^ 24 }
  | _ => a

/-- A write to a lateral engine's registers (Table 9-11, R278). -/
def Lateral.write (l : Lateral) (o n : Nat) : Lateral :=
  if 0x1000 ≤ o ∧ o < 0x9000 then
    (let x := o - 0x1000
     let k := x % 0x800 / 0x400
     l.updTable (x / 0x800) (fun r =>
       if r.active = k then r else { r with bank := SMap.set 0 r.bank (64 * k + x % 0x400 / 8) (BitVec.ofNat 64 (n % 2 ^ 19)) }))
  else if 0x100 ≤ o ∧ o < 0x500 ∧ o % 0x40 = 0 then
    l.updTable ((o - 0x100) / 0x40) (fun r => { r with
      valid := bitB n 0, commit := r.commit || bitB n 1, lead := n / 2 ^ 3 % 64, retq0 := n / 2 ^ 9 % 2 ^ 15, retq1 := n / 2 ^ 24 % 2 ^ 15 })
  else if o = 0x008 then { l with enable := bitB n 0 }
  else l

/-- Replace 64 bits of a 256-bit register. -/
def setQuarter (v : BitVec 256) (w n : Nat) : BitVec 256 :=
  BitVec.ofNat 256 (v.toNat - quarter v w * 2 ^ (64 * w) + n % 2 ^ 64 * 2 ^ (64 * w))

/-- A write to the interrupt controller's registers (Table 15-6). -/
def Hic.write (h : Hic) (o n : Nat) : Hic :=
  if 0x1000 ≤ o ∧ o < 0x1400 then
    (let c := (o - 0x1000) / 0x100
     match o % 0x100 with
      | 0x00 => { h with vbase := SMap.set 0 h.vbase c (n % 2 ^ 56 / 2 ^ 14 * 2 ^ 14) }
      | 0x08 => { h with thresh := SMap.set 0 h.thresh c (n % 256) }
      | _ => h)
  else if 0x800 ≤ o ∧ o < 0x1000 then
    (let k := (o - 0x800) / 8
     { h with prio := SMap.set 0 h.prio k (n % 256), target := SMap.set 0 h.target k (n / 2 ^ 8 % 4) })
  else if 0x100 ≤ o ∧ o < 0x120 then { h with en := setQuarter h.en ((o - 0x100) / 8) n }
  else if o = 8 then { h with grpBits := n % 16, enable := bitB n 8 }
  else h

/-- Whether a plot of a model runs (R306). -/
def State.modelRuns (s : State) (id : Nat) : Bool :=
  (List.range 64).any (fun b => (s.plot b).any (fun p => p.model == id && p.state == .running))

/-- REGISTER_WRITE (R9, R128, R200, R277, R278, R306): a write to a register that no other command writes. A read-only register, a
reserved offset and one whose domain is off ignore it (R12, R412). A `TIME_CFG.HOLDOVER` above 3,600 acts as 3,600 (DESIGN CHOICE, log
entry 190). -/
def execRegisterWrite (off : BitVec 32) (v : BitVec 64) (s : State) : Host.Outcome State Fault Refusal :=
  let o := off.toNat
  let n := v.toNat
  .next (if !s.regOn o ∨ o % 8 ≠ 0 then s
    else if o < 0x1000000 then s.updTile (o / 0x1000) (fun t => t.write (o % 0x1000) n)
    else if 0x1040000 ≤ o ∧ o < 0x1080000 then
      (let e := (o - 0x1040000) / 0x1000
       let s1 := s.updEngine e (fun x => x.write (o % 0x1000) n)
       if o % 0x1000 = 0x008 then s1.serveEngine e else s1)
    else if 0x2000000 ≤ o ∧ o < 0x2070000 then
      s.updArb ((o - 0x2000000) / 0x1000) (fun a => a.write ((o - 0x2000000) / 0x1000) (o % 0x1000) n)
    else if 0x3000000 ≤ o ∧ o < 0x3400000 ∧ o % 0x100000 = 0 then
      (let q := (o - 0x3000000) / 0x100000
       if s.quadHasPlot q then s else s.updCist q (fun c => { c with sysCells := n % 2 ^ 20 }))
    else if 0x3400000 ≤ o ∧ o < 0x3440000 then s.updLe ((o - 0x3400000) / 0x10000) (fun l => l.write (o % 0x10000) n)
    else if 0x4100000 ≤ o ∧ o < 0x4110000 then
      (let t := (o - 0x4100000) / 64
       if s.modelRuns (s.tableEnt t).model then s
       else s.updTableEnt t (fun x => let b := x.bytes
         x.ofBytes (b.take (o % 64) ++ toLe 8 n ++ b.drop (o % 64 + 8))))
    else if 0x10000000 ≤ o ∧ o < 0x10002000 then { s with hic := s.hic.write (o - 0x10000000) n }
    else if o = 0x10040010 then
      ({ s with time := { s.time with domain := n % 256, cfg := min 3600 (n / 2 ^ 16 % 2 ^ 16) } } : State).wantCommit
    else if o = 0x10040028 then ({ s with time := { s.time with surveyCfg := n % 2 ^ 32 } } : State).wantCommit
    else if o = 0x10060008 then { s with power := { s.power with qgateMs := n % 2 ^ 16, retain := fieldN n 16 4 } }
    else s)

end Sys2Proof.Machine
end

