-- ==== Sys2Proof/Machine/Stats.lean ====
section
/-! DEFINITION. What the module tells of itself: the records of `STATS_READ` (Table 13-10), the words of `COUNTERS_READ` (R373), the field
book (R432, R436), the fabric's records (Table 13-5), the policy calls that copy them (R415), and the answers over I3C (R501). -/

namespace Sys2Proof.Machine

/-! Records of `STATS_READ` (Table 13-10). -/

/-- Usable tiles among those with numbers from `g` on. -/
def State.usableIn (s : State) (g n : Nat) : Nat := ((List.range n).filter (fun i => s.usable (g + i))).length

/-- `VERSION` of the image in a firmware bank (Table 17-2). -/
def State.bankVersion (s : State) (b : Nat) : Nat := leAt (SMap.get FwBank.clear s.sec.banks b).image 8 4

/-- Parcels in use, parcel 0 apart. -/
def State.parcelsUsed (s : State) : Nat := ((List.range 513).filter (fun p => p != 0 && (s.parcel p).state != .free)).length

/-- Record 0x0001, the module summary. -/
def State.summary (s : State) : Bytes :=
  toLe 8 Config.serial.toNat ++ [1] ++ toLe 1 (s.slot % 4) ++ toLe 1 s.power.mode.code ++ toLe 1 (s.sec.bank % 2) ++ toLe 4 (s.bankVersion 0)
    ++ toLe 4 (s.bankVersion 1) ++ toLe 2 (s.usableIn 0 4096) ++ toLe 2 s.parcelsUsed ++ toLe 8 s.time.status
    ++ toLe 8 Config.macBase.toNat ++ toLe 4 s.power.cap

/-- Record 0x0002, the tile map: bit g says that tile g is usable. -/
def State.tileMap (s : State) : Bytes :=
  (List.range 512).map (fun i => BitVec.ofNat 8 ((List.range 8).foldl (fun n k => n + bitAt (s.usable (8 * i + k)) k) 0))

/-- Attempts a shard has taken. -/
def Shard.attempts (h : Shard) : Nat := if h.running ∨ h.state ≠ 0 then h.attempt + 1 else h.attempt

/-- Record 0x0003, registry entry `i`; an entry that is `FREE` reads zero. -/
def State.entryRecord (s : State) (i : Nat) : Bytes :=
  let m := s.entry i
  if m.state = .free then zeros 16
  else
    toLe 1 m.state.code ++ toLe 1 ((List.range 4).foldl (fun n k => n + bitAt (!(SMap.get [] m.plats k).isEmpty) k) 0) ++ toLe 2 (s.modelId i)
      ++ toLe 2 m.owner ++ toLe 2 m.shards.length ++ toLe 8 (m.reg' 0 8)
      ++ m.shards.flatMap (fun h => toLe 1 h.state ++ toLe 1 h.attempts ++ toLe 2 h.status)

/-- Record 0x0004, adapter entry `i`: of the 8 bytes of a version, the number takes two, the state one and the references the last
four (log entry 43). -/
def State.adapterRecord (s : State) (i : Nat) : Bytes :=
  let a := s.adapter i
  if !a.used then zeros 40
  else
    toLe 4 (i + a.gen * 2 ^ 24) ++ toLe 2 a.model ++ toLe 1 (bitAt a.withdrawing 0) ++ zeros 1
      ++ (List.range 4).flatMap (fun k => match a.versions[k]? with
        | some v => toLe 2 v.num ++ toLe 1 v.state ++ zeros 1 ++ toLe 4 v.refs
        | none => zeros 8)

/-- Record 0x0005, parcel `p`. -/
def State.parcelRecord (s : State) (p : Nat) : Bytes :=
  let flight := (s.serve.reqs.filter (fun r => r.parcel == p && r.state != .admitting && r.home == 0)).length
  let ads := (s.adapters.filter (fun (x : Nat × Adapter) => x.2.used && x.2.owner == p)).length
  let rings := (s.serve.rings.filter (fun (x : Nat × Ring) => x.2.state != 0 && x.2.owner == p)).length
  toLe 1 (s.parcel p).state.code ++ zeros 3 ++ toLe 4 flight ++ toLe 4 (s.resUsed p / mib2) ++ toLe 4 (s.aqUsed p / mib2)
    ++ toLe 1 (s.modelsOf p) ++ toLe 1 (s.blocksHeld p) ++ toLe 2 ads ++ toLe 1 rings

def PlotMark.code : PlotMark → Nat
  | .mixed => 0
  | .prefill => 1
  | .decode => 2

/-- Record 0x0006, the plots as parcel `p` sees them: those of other parcels read zero. -/
def State.plotsRecord (s : State) (p : Nat) : Bytes :=
  (List.range 64).flatMap (fun b => match s.plot b with
    | some x => if p = 0 ∨ x.parcel = p then
        toLe 1 x.state.code ++ zeros 1 ++ toLe 2 x.model ++ toLe 1 x.sect ++ toLe 1 x.mark.code ++ toLe 2 x.phi ++ zeros 8
      else zeros 16
    | none => zeros 16)

/-- Record 0x0007, ring `i`. -/
def State.ringRecord (s : State) (i : Nat) : Bytes :=
  let r := s.ring i
  toLe 1 r.state ++ toLe 1 (s.ringQps i).length ++ toLe 2 r.owner ++ toLe 2 r.posted ++ toLe 2 r.readIx ++ toLe 4 r.backlog.length

/-- A record that parcel `p` asks for: none where it may not have it (R373). -/
def State.statsRecord (s : State) (p what i : Nat) : Option Bytes :=
  let own := fun (ok : Bool) (l : Bytes) => if p = 0 ∨ ok then some l else none
  match what with
  | 1 => some s.summary
  | 2 => own false s.tileMap
  | 3 => own ((s.entry i).state != .free && (s.entry i).owner == p) (s.entryRecord i)
  | 4 => own ((s.adapter i).used && (s.adapter i).owner == p) (s.adapterRecord i)
  | 5 => own (i == p) (s.parcelRecord i)
  | 6 => some (s.plotsRecord p)
  | 7 => own ((s.ring i).state != 0 && (s.ring i).owner == p) (s.ringRecord i)
  | _ => none

/-- `STATS_READ`'s fields in range (R373, Table 13-10). -/
def statsOk (l : Bytes) : Bool :=
  let w := leAt l 0 2
  let i := leAt l 2 2
  decide (l.length = 10 ∧ 1 ≤ w ∧ w ≤ 7 ∧ leAt l 8 2 ≤ 8120) &&
    (if w = 3 then decide (i < 256) else if w = 4 then decide (i < 4096) else if w = 5 then decide (i ≤ 512)
      else if w = 7 then decide (i < 256) else true)

/-- The answer to `STATS_READ`: its status and its bytes (R373). -/
def State.stats (s : State) (p : Nat) (l : Bytes) : Nat × Bytes :=
  match s.statsRecord p (leAt l 0 2) (leAt l 2 2) with
  | none => (0x0105, [])
  | some x => (0, toLe 4 x.length ++ toLe 4 (leAt l 4 4) ++ (x.drop (leAt l 4 4)).take (leAt l 8 2))

/-! Words of `COUNTERS_READ` (R373). -/

/-- Read `n` words, each by a reader that also gives the state after it. -/
def readWords (f : State → Nat → Nat × State) : Nat → Nat → State → Bytes × State
  | 0, _, s => ([], s)
  | n + 1, o, s =>
    let r := f s o
    let x := readWords f n (o + 8) r.2
    (toLe 8 r.1 ++ x.1, x.2)

/-- A counter of ring `i` by offset; a read clears it. -/
def State.ringWord (i : Nat) (s : State) (o : Nat) : Nat × State :=
  let r := s.ring i
  match o with
  | 0x00 => (r.badDb, s.updRing i (fun r => { r with badDb := 0 }))
  | 0x08 => (r.readCnt, s.updRing i (fun r => { r with readCnt := 0 }))
  | 0x10 => (r.refusedCnt, s.updRing i (fun r => { r with refusedCnt := 0 }))
  | 0x18 => (r.recCnt, s.updRing i (fun r => { r with recCnt := 0 }))
  | 0x20 => (r.dropCnt, s.updRing i (fun r => { r with dropCnt := 0 }))
  | 0x28 => (r.backlogHwm, s.updRing i (fun r => { r with backlogHwm := 0 }))
  | _ => (0, s)

/-- A counter of parcel `p` by offset; a read clears it. -/
def State.parcelWord (p : Nat) (s : State) (o : Nat) : Nat × State :=
  let x := s.parcel p
  match o with
  | 0x00 => (x.admitted, s.updParcel p (fun x => { x with admitted := 0 }))
  | 0x08 => (x.refused, s.updParcel p (fun x => { x with refused := 0 }))
  | 0x10 => (x.endedOk, s.updParcel p (fun x => { x with endedOk := 0 }))
  | 0x18 => (x.endedOther, s.updParcel p (fun x => { x with endedOther := 0 }))
  | 0x20 => (x.endedLate, s.updParcel p (fun x => { x with endedLate := 0 }))
  | 0x28 => if p = 0 then (s.mail.authFail, { s with mail := { s.mail with authFail := 0 } }) else (0, s)
  | 0x30 => if p = 0 then (s.mail.dropped, { s with mail := { s.mail with dropped := 0 } }) else (0, s)
  | 0x38 => if p = 0 then (s.mail.mgmtFail, { s with mail := { s.mail with mgmtFail := 0 } }) else (0, s)
  | _ => (0, s)

/-- `COUNTERS_READ`'s fields in range. -/
def countersOk (l : Bytes) : Bool :=
  decide (l.length = 16 ∧ leAt l 0 1 ≤ 2 ∧ 1 ≤ leAt l 2 2 ∧ leAt l 2 2 ≤ 1000 ∧ leAt l 8 8 % 8 = 0)

/-- The answer to `COUNTERS_READ`, and the state with the counters read clear. -/
def State.counters (s : State) (p : Nat) (l : Bytes) : State × Nat × Bytes :=
  let n := leAt l 2 2
  let o := leAt l 8 8
  let i := leAt l 1 1
  let ok := fun (r : Bytes × State) => (r.2, 0, r.1)
  if leAt l 0 1 = 0 then (if p = 0 then ok (readWords State.readReg n o s) else (s, 0x0105, []))
  else if leAt l 0 1 = 1 then
    (if (s.ring i).state ≠ 0 ∧ (p = 0 ∨ (s.ring i).owner = p) then ok (readWords (State.ringWord i) n o s) else (s, 0x0105, []))
  else ok (readWords (State.parcelWord p) n o s)

/-! The field book. -/

/-- The 32 bytes of a field-book record (Table 15-8). -/
def FbRec.bytes (r : FbRec) : Bytes :=
  toLe 4 r.num ++ toLe 1 r.src ++ toLe 1 r.eflags ++ toLe 2 r.status ++ toLe 8 r.time ++ toLe 2 r.parcel ++ toLe 2 r.code ++ toLe 4 r.unit
    ++ toLe 8 r.detail.toNat

/-- Up to `n` records from event `first` on; one older than the oldest held starts at the oldest (R436). -/
def FieldBook.records (b : FieldBook) (first n : Nat) : Bytes := ((b.ring.filter (fun r => decide (first ≤ r.num))).take n).flatMap FbRec.bytes

/-- The answer to `FIELDBOOK_READ` (Table 13-5, R436). -/
def FieldBook.answer (b : FieldBook) (l : Bytes) : Bytes :=
  toLe 4 ((b.ring.head?.map (fun r => r.num)).getD 0) ++ toLe 4 ((b.ring.getLast?.map (fun r => r.num)).getD 0)
    ++ b.records (leAt l 0 4) (leAt l 4 2)

/-- `FIELDBOOK_READ`'s fields in range. -/
def fieldbookOk (l : Bytes) : Bool := decide (l.length = 6 ∧ 1 ≤ leAt l 4 2 ∧ leAt l 4 2 ≤ 250)

/-! The fabric. -/

/-- The state of a port as `TOPOLOGY_READ` gives it (Table 13-5): 0 down, 1 up as planned, 2 missing, 3 quarantined, 4 unplanned
and down. -/
def State.portCode (s : State) (i : Nat) : Nat :=
  let p := s.fport i
  if p.state = .quarantined then 3 else if p.state = .up then 1 else if (s.fab.planOf i).isNone then 4 else if p.missing then 2 else 0

/-- The answer to `TOPOLOGY_READ` (Table 13-5). -/
def State.topology (s : State) : Bytes :=
  toLe 8 s.fab.planId ++ zeros 8 ++ (List.range 12).flatMap (fun i => let p := s.fport i
    toLe 8 p.benchSerial ++ toLe 1 p.benchSlot ++ toLe 1 p.benchPort ++ toLe 1 (s.portCode i) ++ zeros 5)

/-! Policy calls that copy. -/

/-- Copy bytes into a module's own SRAM at an offset; bytes beyond its 1 MiB are refused (R414, R415). -/
def State.polCopy (s : State) (i a : Nat) (l : Bytes) : State × Nat :=
  match s.policy i with
  | none => (s, 0x0105)
  | some p =>
    if 2 ^ 20 < a + l.length then (s, 0x0105)
    else (s.setPolicy i (some { p with sram := l.zipIdx.foldl (fun m x => SMap.set 0 m (a + x.2) x.1) p.sram }), 0)

/-- POL_COUNTERS (R415): the parcel's counters go to a0; the read clears them, as every read of such a counter does (R9). -/
def execPolCounters (slot : Fin 4) (a0 : BitVec 64) (s : State) : Host.Outcome State Fault Refusal :=
  .next (s.polCall slot.val (fun p =>
    if 2 ^ 20 < a0.toNat + 40 then (s, 0x0105)
    else
      let r := readWords (State.parcelWord p.parcel) 5 0 s
      r.2.polCopy slot.val a0.toNat r.1))

/-- POL_PLOTS (R415): the plots record, as the parcel sees it, goes to a0. -/
def execPolPlots (slot : Fin 4) (a0 : BitVec 64) (s : State) : Host.Outcome State Fault Refusal :=
  .next (s.polCall slot.val (fun p => s.polCopy slot.val a0.toNat (s.plotsRecord p.parcel)))

/-! I3C. -/

/-- What a PLDM sensor reports: none where its domain is off; the input voltages are always there (R501). -/
def State.sensor (s : State) (x : I3cSensor) : Option Nat :=
  let p := s.power
  let on := fun (n : Nat) => if p.mode = .off then none else some n
  match x with
  | .mainVoltage => some p.vmain
  | .auxVoltage => some p.vaux
  | .mainCurrent => on p.imain
  | .avgPower => on p.avg
  | .tempQ i => on (SMap.get 0 p.temps i.val)
  | .tempHw => on (SMap.get 0 p.temps 8)
  | .tempMax => on (SMap.get 0 p.temps 9)
  | .powerState => on p.mode.code
  | .cap => on p.cap

/-- The answer to a message over I3C (R501). -/
def State.i3cAnswer (s : State) (x : I3cReq) : I3cAns :=
  match x with
  | .control _ => .control
  | .sensor k => .reading (s.sensor k)
  | .fieldBook first n => if 1 ≤ n.toNat ∧ n.toNat ≤ 8 then .records (s.book.records first.toNat n.toNat) else .unsupported
  | .other => .unsupported

/-- I3C_MCTP_MESSAGE (R501): a message is answered; nothing else changes. -/
def execI3cMctpMessage (req : I3cReq) (s : State) : Host.Outcome State Fault Refusal :=
  .next { s with power := { s.power with i3cOut := s.power.i3cOut ++ [s.i3cAnswer req] } }

end Sys2Proof.Machine
end

