-- ==== Sys2Proof/Machine/Power.lean ====
section
/-! DEFINITION. The power unit (R442 to R464, R487 to R505): domains, states, drains, holds, gating, clocks, the cap and the thermal
ceilings; power-up; the quadrants' service (R481, R482) and the recalibration of stacks (R169, R174, R237, R483). -/

namespace Sys2Proof.Machine

/-! Helpers. -/

/-- Change the power unit. -/
def State.updPower (s : State) (f : Power → Power) : State := { s with power := f s.power }

/-- Set a bit of `PWR_EVENT` (R463). -/
def State.pwrEvent (s : State) (i : Nat) : State :=
  (s.updPower (fun p => { p with event := setBitN p.event i })).signal (if i < 4 then 225 else 226)

/-- A field-book record of `SRC` 0x09 (R464). -/
def State.postPower (s : State) (dr : Bool) (code status unit detail : Nat) : State :=
  s.post dr 0x09 code status 0xFFFF unit (BitVec.ofNat 64 detail)

/-- The power state changes, with its record (Table 16-8). -/
def State.setMode (s : State) (x : PwrMode) (cause : Nat) : State :=
  let old := s.power.mode
  if old = x then s
  else (s.updPower (fun p => { p with mode := x })).postPower false 0x0C 0 0x50 (old.code + x.code * 2 ^ 8 + cause * 2 ^ 16)

/-- The `STATE_SET` requests whose state has been reached complete (R444). -/
def State.reached (s : State) (x : PwrMode) : State :=
  let l := s.power.waits.filter (fun w => w.want == x)
  l.foldl (fun s w => s.complete w.waiter 0 []) (s.updPower (fun p => { p with waits := p.waits.filter (fun w => w.want != x) }))

/-- Every array clock runs at what its group may, where ARRAY is on (R450). -/
def State.startClocks (s : State) : State :=
  (List.range 4).foldl (fun (s : State) q => s.updPower (fun p => { p with
    freq := SMap.set 19 p.freq q (if bitB p.array q then s.clockOf q else 0) })) s

/-- The array PLLs stop (Table 16-2). -/
def State.stopClocks (s : State) : State :=
  (List.range 4).foldl (fun (s : State) q => s.updPower (fun p => { p with freq := SMap.set 19 p.freq q 0 })) s

/-! Domains (Table 16-1). -/

/-- What is left of a tile whose ARRAY domain has been off: its fences, its mark and its last self-test, which firmware keeps. -/
def Tile.afterOff (t : Tile) : Tile :=
  let r := t.regs
  { Tile.reset with
    lead := t.lead
    regs := { TileRegs.reset with
      state := if r.fenceCore || r.fenceFull then .fenced else .idle
      fenceCore := r.fenceCore, fenceFull := r.fenceFull, retest := r.retest, selftest := r.selftest } }

/-- The ARRAY domain of quadrant `q` goes off: tile cores, canals and block controllers lose their contents (R442). -/
def State.arrayOff (s : State) (q : Nat) : State :=
  let gs := (s.tiles.map (fun x => x.1)).filter (fun g => g / 1024 == q)
  let bs := (s.blocks.map (fun x => x.1)).filter (fun b => blockQuad b == q)
  let s1 := s.updTiles gs Tile.afterOff
  let s2 := bs.foldl (fun (s : State) b => s.updPlotRegs b (fun _ => PlotRegs.reset)) s1
  ({ s2 with flights := s2.flights.filter (fun f => f.dst / 4 / 1024 != q) } : State).updPower (fun p => { p with
    array := clearBitN p.array q, freq := SMap.set 19 p.freq q 0 })

/-- The FIELD domain of quadrant `q` goes off: its slices lose their contents, the pond lines in them too. -/
def State.fieldOff (s : State) (q : Nat) : State :=
  let k := fieldKey (1024 * q) 0
  let n := 1024 * 2 ^ 22
  let m := s.mem.zero k n
  let s1 : State := { s with mem := { m with tags := SMap.without m.tags (k / 4096) (n / 4096) } }
  (s1.updQuad q (fun m => { m with pond := [] })).updPower (fun p => { p with field := clearBitN p.field q })

/-- A quadrant's memory block after its MEM domain has been off (R442): its registers are at reset, but for what its stacks trained to,
which they hold in self-refresh (Table 16-2); firmware keeps the sizes of the carve-out, to write them again, its map and the
reservations (DEDUCED, log entry 126). -/
def QuadMem.afterOff (m : QuadMem) : QuadMem :=
  { QuadMem.reset with
    pondKept := m.pondPages, cistKept := m.cistPages, regionUp := m.regionUp, rate8g := m.rate8g, stackUp := m.stackUp, carve := m.carve,
    reserves := m.reserves, recalFails := m.recalFails }

/-- The sizes that firmware gives a quadrant's carve-out once MEM is on again: those it had (R446, log entry 126). -/
def State.keptCarve (s : State) (q : Nat) : State :=
  let m := s.quad q
  if m.pondPages = 0 ∧ m.cistPages = 0 then s.buildQuad q m.pondKept m.cistKept else s.buildCarve q

/-- The engines, arbiters and the cistern of quadrant `q` lose their contents with its MEM domain. -/
def State.memLost (s : State) (q : Nat) : State :=
  let m := (s.quad q).afterOff
  let s1 := (s.updQuad q (fun _ => m)).updCist q (fun _ => Cistern.reset)
  { s1 with
    engines := s1.engines.filter (fun x => x.1 / 16 != q)
    ges := s1.ges.filter (fun x => x.1 / 24 != q)
    arbs := s1.arbs.filter (fun x => !(decide (x.1 < 96 ∧ x.1 / 24 = q)) && x.1 != 108 + q) }

/-- The duty of core `d` is with it while it runs, else with the lowest-numbered core that runs (Table 15-1, R429, R471). -/
def State.dutyHome (s : State) (stopped : List Nat) (d : Nat) : Nat :=
  let live := fun (c : Nat) => (s.core c).running && !(s.core c).held && !stopped.contains c
  if live d then d else (([0, 1, 2, 3] : List Nat).find? live).getD d

/-- Every duty goes where it belongs while the cores in `stopped` do not run. -/
def State.assignDuties (s : State) (stopped : List Nat) : State :=
  [0, 1, 2, 3].foldl (fun (t : State) c => t.updCore c (fun k => { k with
    duties := ([0, 1, 2, 3] : List Nat).foldl (fun n d => n + bitAt (s.dutyHome stopped d == c) d) 0 })) s

/-! Off. -/

/-- Everything but the always-on domain and flash goes (R442, R446): the module is in Off, for a reason of Table 16-5. What it has sent
stays sent. -/
def State.toOff (s : State) (why : Nat) : State :=
  { State.reset with
    pending := s.pending
    free := s.free
    now := s.now
    book := s.book
    slot := s.slot
    mail := { MailSt.reset with out := s.mail.out }
    serve := { Serve.reset with out := s.serve.out, away := s.serve.away }
    fab := { Fab.reset with netB := s.fab.netB }
    store := { s.store with running := none, waiting := false, floorsAsked := [] }
    sec := { Sec.reset with banks := s.sec.banks, floor := s.sec.floor }
    power := { Power.reset with
      mode := .off, offCause := why, trip := s.power.trip, coolOk := s.power.coolOk, vmain := s.power.vmain, vaux := s.power.vaux,
      mainClosed := s.power.mainClosed, i3cOut := s.power.i3cOut } }

/-- The Ditch Rider's flush: one page of the records not yet in flash (R434). -/
def State.flushBook (s : State) : State := { s with book := s.book.writePage s.now }

/-- The requests that have not ended. -/
def State.liveReqs (s : State) : List Req := s.serve.reqs.filter (fun r => r.state != .held)

/-- Write what the completion rings take, then end every request with a status (R459). -/
def State.endEvery (s : State) (status : Nat) : State :=
  let s1 := s.serve.rings.foldl (fun (s : State) (x : Nat × Ring) => State.drainRing x.1 x.2.backlog.length s) s
  s1.endAll s1.liveReqs status

/-- Force every plot that holds a task (R455, R458). -/
def State.forceTasks (s : State) (cause status : Nat) : State :=
  (List.range 64).foldl (fun (s : State) b => if (s.plot b).any (fun p => p.task.isSome) then s.force b cause status 0 else s) s

/-- POWER_FAIL (R458, R459): main input below 42 V (0) or above 59 V (1), or the auxiliary input lost (2). Tasks are forced, every
request ends with `POWER_FAIL`, the log is flushed, and the rails are cut. -/
def execPowerFail (cause : Fin 3) (mv : BitVec 16) (t : Nat) (s : State) : Host.Outcome State Fault Refusal :=
  let s0 := s.at' t
  let c := cause.val
  .next (if s0.power.mode = .off then s0
    else
      let s1 := ((List.range 64).foldl (fun s b => s.forcedSwitch b) (s0.forceTasks 0x22 0x0502)).endEvery 0x0502
      let s2 := (s1.postPower true (7 + c) 0x0502 (if c = 2 then 0x41 else 0x40) mv.toNat).setMode .off 3
      s2.flushBook.toOff (if c = 0 then 2 else if c = 1 then 1 else 3))

/-- HARDWARE_TRIP (R456): a comparator on the die of quadrant 0 to 3, or of the Headworks (4), cuts the main rails; the trip is latched. -/
def execHardwareTrip (die : Fin 5) (t : Nat) (s : State) : Host.Outcome State Fault Refusal :=
  let s0 := s.at' t
  let d := die.val
  .next (if s0.power.mode = .off then s0
    else
      let s1 := (s0.toOff 1).updPower (fun p => { p with trip := true })
      (s1.postPower true 4 0x0501 (if d = 4 then 0x30 else d) d).flushBook)

/-- BROWNOUT_ENTER (R457): the main input has stayed below 44 V for 10 µs. -/
def execBrownoutEnter (mv : BitVec 16) (t : Nat) (s : State) : Host.Outcome State Fault Refusal :=
  let s0 := s.at' t
  .next (if s0.power.mode = .off ∨ s0.power.brownout then s0
    else
      let s1 := s0.updPower (fun p => { p with
        brownout := true, vmain := mv.toNat, voltCeil := ([0, 1, 2, 3] : List Nat).foldl (fun m q => SMap.set 19 m q 10) p.voltCeil })
      (s1.postPower false 5 0 0x40 mv.toNat).pwrEvent 4)

/-- BROWNOUT_RELEASE (R457): the main input has stayed at 45 V or more for 10 ms. -/
def execBrownoutRelease (mv : BitVec 16) (t : Nat) (s : State) : Host.Outcome State Fault Refusal :=
  let s0 := s.at' t
  .next (if !s0.power.brownout then s0
    else (s0.updPower (fun p => { p with brownout := false, vmain := mv.toNat, voltCeil := [] })).postPower false 6 0 0x40 mv.toNat)

/-! The cap and the clocks. -/

/-- The quadrants whose ARRAY is on. -/
def Power.quadsOn (p : Power) : List Nat := (List.range 4).filter (fun q => bitB p.array q)

/-- The cap ceiling moves by one step in every quadrant whose ARRAY is on (R452). -/
def Power.moveCap (p : Power) (up : Bool) : Power :=
  { p with capCeil := p.quadsOn.foldl (fun m q => SMap.upd 19 m q (fun c => if up then min 19 (c + 1) else max 8 (c - 1))) p.capCeil }

/-- Whether no cap ceiling can go lower (R452). -/
def Power.capFloor (p : Power) : Bool := !p.quadsOn.isEmpty && p.quadsOn.all (fun q => decide (SMap.get 19 p.capCeil q ≤ 8))

/-- POWER_CAP_TICK (R452): every 100 µs, with the inputs as measured and the 1 ms average of the input power. -/
def execPowerCapTick (vmain imain vaux avg : BitVec 16) (t : Nat) (s : State) : Host.Outcome State Fault Refusal :=
  let s0 := s.at' t
  let a := avg.toNat
  .next (if s0.power.mode = .off then s0.updPower (fun p => { p with vmain := vmain.toNat, vaux := vaux.toNat })
    else
      let p0 : Power := { s0.power with vmain := vmain.toNat, imain := imain.toNat, vaux := vaux.toNat, avg := a }
      let over' := decide (p0.cap < a)
      let under' := decide (100 * a < 95 * p0.cap)
      let stuck := over' && p0.capFloor
      let low := if under' then p0.capLow + 1 else 0
      let high := if stuck then p0.capHigh + 1 else 0
      let p1 := if over' && !p0.capFloor && !p0.quadsOn.isEmpty then { p0.moveCap false with capCnt := satAdd 32 p0.capCnt 1 }
        else if 100 ≤ low then p0.moveCap true else p0
      let p2 : Power := { p1 with capLow := if 100 ≤ low then 0 else low, capHigh := min 100 high, capLimited := p1.capLimited && over' }
      let s1 : State := { s0 with power := p2 }
      if 100 ≤ high ∧ !p2.capLimited then
        ((s1.updPower (fun p => { p with capLimited := true })).postPower false 0x0D 0 0x40 a).pwrEvent 5
      else s1)

/-- FREQUENCY_CHANGE (R451, R103): the array clock of a quadrant's group moves to its lowest ceiling, unless a plot of the group is
`SWITCHING`. -/
def execFrequencyChange (quad : Fin 4) (t : Nat) (s : State) : Host.Outcome State Fault Refusal :=
  let s0 := s.at' t
  let g := s0.clockGroup quad.val
  let held := (List.range 64).any (fun b => (s0.plot b).any (fun p => p.state == .switching && p.quads.any (fun q => g.contains q)))
  .next (if s0.power.mode ≠ .serve ∨ held then s0
    else g.foldl (fun (s : State) q => if bitB s.power.array q then
      s.updPower (fun p => { p with freq := SMap.set 19 p.freq q (s0.clockOf quad.val) }) else s) s0)

/-! Temperature. -/

/-- The highest of a list of readings. -/
def hottest (l : List (BitVec 8)) : Nat := l.foldl (fun n x => max n x.toNat) 0

/-- The readings of quadrant `q`'s six stacks. -/
def Samples.stacksOf (x : Samples) (q : Nat) : List (BitVec 8) := (x.hbm.drop (6 * q)).take 6

/-- A quadrant's temperature and the unit that gives it (R454, R464). -/
def quadTemp (x : Samples) (q : Nat) : Nat × Nat :=
  let d := hottest (x.dies.getD q [])
  let l := Samples.stacksOf x q
  let k := hottest l
  let h := hottest x.hw
  if max d k < h then (h, 0x30) else if d < k then (k, 0x10 + 6 * q + l.findIdx (fun y => y.toNat == k)) else (d, q)

/-- One step of a quadrant's thermal ceiling down (R454). -/
def State.coolStep (s : State) (q temp unit : Nat) : State :=
  let c := SMap.get 19 s.power.thermCeil q
  let s1 := s.updPower (fun p => { p with thermAt := SMap.set 0 p.thermAt q s.now, thermDir := SMap.set 0 p.thermDir q 1 })
  if c ≤ 12 then s1
  else
    let s2 := s1.updPower (fun p => { p with thermCeil := SMap.set 19 p.thermCeil q (c - 1), throttleCnt := satAdd 32 p.throttleCnt 1 })
    if c = 19 then (s2.postPower false 1 0 unit temp).pwrEvent 0 else s2

/-- One step of a quadrant's thermal ceiling up (R454). -/
def State.warmStep (s : State) (q temp unit : Nat) : State :=
  let c := SMap.get 19 s.power.thermCeil q
  let s1 := s.updPower (fun p => { p with thermAt := SMap.set 0 p.thermAt q s.now, thermCeil := SMap.set 19 p.thermCeil q (min 19 (c + 1)) })
  if c = 18 then s1.postPower false 2 0 unit temp else s1

/-- What a sample does to a quadrant's thermal ceiling (R454). -/
def State.thermQuad (s : State) (x : Samples) (q : Nat) : State :=
  let y := quadTemp x q
  let dir := SMap.get 0 s.power.thermDir q
  let at0 := SMap.get 0 s.power.thermAt q
  if 95 ≤ y.1 then (if dir ≠ 1 ∨ at0 + 1000000 ≤ s.now then s.coolStep q y.1 y.2 else s)
  else if y.1 < 90 ∧ SMap.get 19 s.power.thermCeil q < 19 then
    (if dir ≠ 2 then s.updPower (fun p => { p with thermDir := SMap.set 0 p.thermDir q 2, thermAt := SMap.set 0 p.thermAt q s.now })
      else if at0 + 10000000 ≤ s.now then s.warmStep q y.1 y.2 else s)
  else s.updPower (fun p => { p with thermDir := SMap.set 0 p.thermDir q 0 })

/-- THERMAL_SAMPLE (R454): the sensors are read; each quadrant's thermal ceiling follows its temperature. -/
def execThermalSample (x : Samples) (t : Nat) (s : State) : Host.Outcome State Fault Refusal :=
  let s0 := s.at' t
  let top := max (hottest x.hw) (max (hottest x.hbm) ((x.dies.map hottest).foldl max 0))
  .next (if s0.power.mode = .off then s0
    else
      let temps := ([0, 1, 2, 3] : List Nat).foldl (fun m q =>
        SMap.set 0 (SMap.set 0 m q (hottest (x.dies.getD q []))) (4 + q) (hottest (Samples.stacksOf x q))) s0.power.temps
      let s1 := s0.updPower (fun p => { p with
        temps := SMap.set 0 (SMap.set 0 temps 8 (hottest x.hw)) 9 top
        hotAt := if 85 ≤ top then s0.now else p.hotAt })
      (List.range 4).foldl (fun s q => s.thermQuad x q) s1)

/-! Dormant and waking. -/

/-- Every `HELD` request ends as if its hold had expired (R445 step 3). -/
def State.dropHolds (s : State) : State := (s.serve.reqs.filter (fun r => r.state == .held)).foldl (fun s r => s.dropReq r) s

/-- Whether a plot lies wholly in retained quadrants (R446). -/
def State.retained (s : State) (p : Plot) : Bool := p.quads.all (fun q => bitB s.power.retain q)

/-- The plots that do not stay in Dormant lose their models (R446). -/
def State.evictUnretained (s : State) : State :=
  (List.range 64).foldl (fun (s : State) b => match s.plot b with
    | some p => if s.retained p then s
      else (s.updModel p.model (fun m => if m.state = .filled then { m with state := .ready } else m)).releasePlot b 0 0
    | none => s) s

/-- A fabric port that is switched off. -/
def State.fabOff (s : State) : State :=
  (List.range 12).foldl (fun s i => s.updFport i (fun p => { p.clearLink with state := .down })) s

/-- The module powers down to Dormant (Table 16-2, R446). -/
def State.toDormant (s : State) : State :=
  let s1 := s.dropHolds.evictUnretained.fabOff
  let s2 := [0, 1, 2, 3].foldl (fun (s : State) q => s.cxlDown q) s1
  let s3 := [1, 2, 3, 5, 6, 7].foldl (fun (s : State) i => s.ethDown i) s2
  let s4 := [0, 1, 2, 3].foldl (fun (s : State) q =>
    let s' := (s.arrayOff q).memLost q
    if bitB s.power.retain q then s'.updQuad q (fun m => { m with pond := [] }) else s'.fieldOff q) s3
  let s5 := [1, 2, 3].foldl (fun (s : State) c => s.updCore c (fun k => { k with running := false })) s4
  (s5.updPower (fun p => { p with mem := 0, eth25 := 0x11 })).assignDuties []

/-- A retained plot is placed again at its position, without the image copy (R446). -/
def State.placeAgain (s : State) (b : Nat) : State :=
  match s.plot b with
  | none => s
  | some p =>
    let s1 := (s.place { p with state := .filling }).loadSection p (leAt p.plat 8 1) 0 0
    s1.setPlot b { p with state := .idle, sect := leAt p.plat 8 1, epoch := 0, held := 0, heldBy := [], accept := 0, endReport := false }

/-- What Dormant switched off comes back (R443, R446): MEM, the cores, FIELD where its carve-out or a plot is, and the plots. -/
def State.leaveDormant (s : State) : State :=
  let s1 := ([1, 2, 3] : List Nat).foldl (fun (s : State) c => if (s.core c).held then s else s.updCore c (fun k => { k with
    running := true, heartbeat := s.now, pc := 0, mie := false, meie := false, mpie := false })) s
  let s2 := (s1.updPower (fun p => { p with
    mem := 15
    field := ([0, 1, 2, 3] : List Nat).foldl (fun n q =>
      if (s.quad q).pondKept = 0 ∧ (s.quad q).cistKept = 0 then n else setBitN n q) p.field })).assignDuties []
  let s3 := ([0, 1, 2, 3] : List Nat).foldl (fun (s : State) q => s.keptCarve q) s2
  (List.range 64).foldl (fun s b => s.placeAgain b) s3

/-- Intake reading resumes (R445). -/
def State.resumeIntake (s : State) : State :=
  s.serve.rings.foldl (fun (s : State) (x : Nat × Ring) => State.intake x.1 x.2.size s) s

/-- Whether a drain has come to its end (R445 steps 2 to 4): no request that has not ended, no plot that is not idle. -/
def State.isDrainedAll (s : State) : Bool :=
  s.liveReqs.isEmpty && (List.range 64).all (fun b => (s.plot b).all Plot.idle)

/-- POWER_STATE_DRAIN_DONE (R445, R446, R505): the drain of a `STATE_SET` has ended and the module powers down. For Off the completion
is sent first and the main path opens. -/
def execPowerStateDrainDone (t : Nat) (s : State) : Host.Outcome State Fault Refusal :=
  let s0 := s.at' t
  let fin := fun (s : State) => s.updPower (fun p => { p with going := none })
  .next (if !s0.isDrainedAll then s0
    else match s0.power.going with
    | some .quiet => if s0.power.mode = .serve then (((fin s0).stopClocks).setMode .quiet 0).reached .quiet else s0
    | some .dormant => ((fin s0.toDormant).setMode .dormant 0).reached .dormant
    | some .off =>
      (((fin s0.dropHolds).reached .off).setMode .off 0).toOff 1 |>.updPower (fun p => { p with mainClosed := false })
    | _ => s0)

/-- WAKE (R443, R444): the module has woken from Quiet or Dormant to `SERVE`, or from Dormant to Quiet. -/
def execWake (t : Nat) (s : State) : Host.Outcome State Fault Refusal :=
  let s0 := s.at' t
  let up := fun (s : State) => (if s.power.mode = .dormant then s.leaveDormant else s).updPower (fun p => { p with going := none })
  .next (match s0.power.going, s0.power.mode with
    | some .serve, .quiet => (((up s0).startClocks.setMode .serve 0).resumeIntake).reached .serve
    | some .serve, .dormant => (((up s0).startClocks.setMode .serve 0).resumeIntake).reached .serve
    | some .quiet, .dormant => ((up s0).stopClocks.setMode .quiet 0).reached .quiet
    | _, _ => s0)

/-! Holds. -/

/-- The module enters Quiet under a hold (R455, R461). -/
def State.enterHold (s : State) (cool : Bool) : State :=
  let s1 := s.forceTasks 0x21 0x0501
  let s2 := if s1.power.mode = .dormant then s1.leaveDormant else s1
  let s3 := s2.updPower (fun p => { p with
    going := none
    thermHold := p.thermHold || !cool
    coolHold := p.coolHold || cool
    coolOk := if cool then false else p.coolOk
    holdAt := if cool then s.now else p.holdAt })
  s3.stopClocks.setMode .quiet (if cool then 2 else 1)

/-- THERMAL_LIMIT (R455): a sensor has read 105 °C or more in two samples. -/
def execThermalLimit (unit temp : BitVec 8) (t : Nat) (s : State) : Host.Outcome State Fault Refusal :=
  let s0 := s.at' t
  let m := s0.power.mode
  .next (if m = .off ∨ m = .starting ∨ s0.power.thermHold then s0
    else (((s0.updPower (fun p => { p with hotAt := s0.now })).postPower false 3 0x0501 unit.toNat temp.toNat).pwrEvent 1).enterHold false)

/-- COOLANT_LOST (R461, Table 18-8): `COOL_OK_N` has stayed deasserted for 1 ms. -/
def execCoolantLost (t : Nat) (s : State) : Host.Outcome State Fault Refusal :=
  let s0 := s.at' t
  .next (if s0.power.mode = .off ∨ (s0.power.coolHold ∧ !s0.power.coolOk) then s0
    else if s0.power.mode = .starting then
      ((s0.postPower true 0x0A 0x0501 0x42 0).toOff 4).updPower (fun p => { p with coolOk := false })
    else ((s0.postPower false 0x0A 0x0501 0x42 0).pwrEvent 2).enterHold true)

/-- COOLANT_OFF_TIMEOUT (R461): `COOL_OK_N` is still deasserted 5 s after the hold began. The requests that wait end with the limit's
status. -/
def execCoolantOffTimeout (t : Nat) (s : State) : Host.Outcome State Fault Refusal :=
  let s0 := s.at' t
  let p := s0.power
  .next (if p.coolHold ∧ !p.coolOk ∧ p.holdAt + 5000000000 ≤ s0.now then
      ((s0.endEvery 0x0501).setMode .off 2).flushBook.toOff 4
    else s0)

/-- A hold is over (Table 16-3, R455): the thermal ceilings start at 1.2 GHz, and the module returns to the state last requested. A drain
that the hold has interrupted goes on in `SERVE`. -/
def State.leaveHold (s : State) (cause : Nat) : State :=
  let s1 := s.updPower (fun p => { p with
    thermHold := false, coolHold := false, thermCeil := ([0, 1, 2, 3] : List Nat).foldl (fun m q => SMap.set 19 m q 12) p.thermCeil, thermDir := [] })
  let serve := fun (s : State) (g : Option PwrMode) => (s.updPower (fun p => { p with going := g })).startClocks.setMode .serve cause
  match s1.power.wanted with
  | .quiet => if s1.isDrainedAll then s1.reached .quiet else serve s1 (some .quiet)
  | .dormant => if s1.isDrainedAll then s1.updPower (fun p => { p with going := some .dormant }) else serve s1 (some .dormant)
  | .off => if s1.isDrainedAll then s1.updPower (fun p => { p with going := some .off }) else serve s1 (some .off)
  | _ => ((serve s1 none).resumeIntake).reached .serve

/-- HOLD_RELEASE (R455, R461): the conditions of a hold's end are looked at; `coolant` says that `COOL_OK_N` has been asserted for 1 s. -/
def execHoldRelease (coolant : Bool) (t : Nat) (s : State) : Host.Outcome State Fault Refusal :=
  let s0 := s.at' t
  .next (if !s0.power.thermHold ∧ !s0.power.coolHold then s0
    else
      let s1 := if s0.power.coolHold ∧ coolant ∧ !s0.power.coolOk then
          ((s0.updPower (fun p => { p with coolOk := true })).postPower false 0x0B 0 0x42 0).pwrEvent 3
        else s0
      let p := s1.power
      let cold := decide (SMap.get 0 p.temps 9 < 85)
      let therm := p.thermHold && !(cold && decide (p.hotAt + 1000000000 ≤ s1.now))
      let cool := p.coolHold && !(p.coolOk && cold)
      if therm || cool then s1.updPower (fun p => { p with thermHold := therm, coolHold := cool })
      else s1.leaveHold (if p.coolHold then 2 else 1))

/-! Quadrants. -/

/-- Whether a plot, or a scrub of a released one, is in quadrant `q`. -/
def State.quadBusy (s : State) (q : Nat) : Bool :=
  s.quadHasPlot q || s.blocks.any (fun x => blockQuad x.1 == q && x.2.scrubbing)

/-- Remove a quadrant's service job. -/
def State.dropJob (s : State) (j : QuadJob) : State := s.updPower (fun p => { p with jobs := p.jobs.erase j })

/-- A take-out whose quadrant is empty ends (R482 step 4): ARRAY and FIELD go off. -/
def State.finishTakeOut (s : State) (j : QuadJob) : State :=
  let s1 := ((s.arrayOff j.quad).fieldOff j.quad).dropJob j
  (s1.post false 0x0E 0x09 0 0xFFFF (0x30 + j.quad) (BitVec.ofNat 64 (j.moved % 256 + j.evicted % 256 * 2 ^ 8))).complete j.waiter 0 []

/-- QUADRANT_GATE (R448, R482): the power unit switches a quadrant's ARRAY off, FIELD with it where no carve-out needs it; a quadrant
that is being taken out loses both. -/
def execQuadrantGate (quad : Fin 4) (t : Nat) (s : State) : Host.Outcome State Fault Refusal :=
  let q := quad.val
  let s0 := s.at' t
  let p := s0.power
  .next (if s0.quadBusy q then s0
    else match p.jobs.find? (fun j => j.quad == q && j.action == 0) with
    | some j => s0.finishTakeOut j
    | none =>
      if p.mode ≠ .serve ∨ p.qgateMs = 0 ∨ !bitB p.array q ∨ p.jobs.any (fun j => j.quad == q) ∨
          s0.now < SMap.get 0 p.emptyAt q + 1000000 * p.qgateMs then s0
      else
        let m := s0.quad q
        if m.pondPages = 0 ∧ m.cistPages = 0 then (s0.arrayOff q).fieldOff q else s0.arrayOff q)

/-- The key of quadrant `q` in deferrals. -/
def quadKeyOf (q : Nat) : ObjKey := ⟨8, q⟩

/-- Move the packets of a ring's intake queue to another quadrant, in order; one that finds no cells there is refused (R482 step 3). -/
def State.moveIntake (s : State) (i src dst : Nat) : Nat → State
  | 0 => s
  | f + 1 =>
    let n := intakeQueue i
    let r := s.popPacket src n 1025
    match r.2 with
    | [] => s
    | x :: _ =>
      (match r.1.linkWhole dst n 0x7F r.2 with
        | some s1 => State.moveIntake s1 i src dst f
        | none => State.moveIntake (r.1.endReq (x.2.toNat % 2 ^ 32) 0x0202) i src dst f)

/-- Every ring with its queue in quadrant `q` moves it to the lowest-numbered quadrant in service. -/
def State.moveRings (s : State) (q : Nat) : State :=
  match ([0, 1, 2, 3] : List Nat).find? (fun x => x != q && SMap.get 0 s.power.outQuads x == 0) with
  | none => s
  | some d =>
    (List.range 256).foldl (fun (s : State) i =>
      if (s.ring i).state ≠ 0 ∧ (s.ring i).quad = q then
        (s.moveIntake i q d ((s.cistern q).queue (intakeQueue i)).pkts.length).updRing i (fun r => { r with quad := d })
      else s) s

/-- The effect of `SERVICE_QUADRANT` action 0 (R481, R482). -/
def State.doTakeOut (s : State) (w : Waiter) (q : Nat) : State × Ans :=
  let out := fun (x : Nat) => decide (SMap.get 0 s.power.outQuads x ≠ 0)
  if s.power.jobs.any (fun j => j.quad == q) then (s, .wait (quadKeyOf q))
  else if out q ∨ ([0, 1, 2, 3] : List Nat).all (fun x => x == q || out x) then (s, .final 0x0105 [])
  else
    let j : QuadJob := ⟨q, 0, w, 0, 0⟩
    let s1 := s.updPower (fun p => { p with outQuads := SMap.set 0 p.outQuads q 1, jobs := p.jobs ++ [j] })
    (((s1.moveRings q).settle).serviceQuad j, .started [])

/-- A quadrant that is out is powered for its retest; with its region out of service MEM is reset too and the region's contents are gone
(Table 17-7). -/
def State.startRetest (s : State) (j : QuadJob) : State :=
  let q := j.quad
  let s1 := (s.updPower (fun p => { p with jobs := p.jobs ++ [j] })).powerQuads [q]
  if (s1.quad q).regionUp then s1
  else { s1.memLost q with mem := (s1.memLost q).mem.zero (boardKey 1 (q * regionBytes)) regionBytes }

/-- A quadrant returns to service (Table 17-7): carve-out rebuilt, region up when every stack has trained, blocks available, gated. -/
def State.finishReturn (s : State) (q : Nat) : State :=
  let s1 := (s.keptCarve q).updQuad q (fun m => { m with pond := [], regionUp := m.regionUp || decide (m.stackUp = 63) })
  let m := s1.quad q
  let s2 := s1.arrayOff q
  let s3 := (if m.pondPages = 0 ∧ m.cistPages = 0 then s2.fieldOff q else s2).updPower (fun p => { p with outQuads := SMap.set 0 p.outQuads q 0 })
  (s3.post false 0x0E 0x0A 0 0xFFFF (0x30 + q) (BitVec.ofNat 64 (s3.usableIn (1024 * q) 1024))).startLoads

/-- The effect of `SERVICE_QUADRANT` action 1 (R481). -/
def State.doRetest (s : State) (w : Waiter) (q : Nat) : State × Ans :=
  if s.power.jobs.any (fun j => j.quad == q) then (s, .wait (quadKeyOf q))
  else if SMap.get 0 s.power.outQuads q = 0 then (s, .final 0x0105 [])
  else (s.startRetest ⟨q, 1, w, 0, 0⟩, .started [])

/-- The effect of `SERVICE_QUADRANT` action 2 (R481): action 1 first, unless it has completed since the take-out. -/
def State.doReturn (s : State) (w : Waiter) (q : Nat) : State × Ans :=
  if s.power.jobs.any (fun j => j.quad == q) then (s, .wait (quadKeyOf q))
  else match SMap.get 0 s.power.outQuads q with
  | 0 => (s, .ended 0 [])
  | 2 => (s.finishReturn q, .ended 0 [])
  | _ => (s.startRetest ⟨q, 2, w, 0, 0⟩, .started [])

/-- SELFTEST_COMPLETE (R67, R68, R136, R481): the self-test of a quadrant ends; a plot that a new fence does not fit is released. A full one ends the retest of a quadrant that is out;
`trained` and `rate8g` are what its stacks trained to when its region was out of service. -/
def execSelftestComplete (quad : Fin 4) (full : Bool) (fails : List (Fin 1024 × BitVec 7)) (us : BitVec 16) (trained : BitVec 6)
    (rate8g : Bool) (t : Nat) (s : State) : Host.Outcome State Fault Refusal :=
  let q := quad.val
  let s0 := (List.range 64).foldl (fun (s : State) b => match s.plot b with
    | some p => if p.task.isNone then s.refit b p else s
    | none => s) ((s.at' t).selfTestQuad q full fails us.toNat)
  .next (match s0.power.jobs.find? (fun j => j.quad == q && j.action != 0) with
    | none => s0
    | some j =>
      if !full then s0
      else
        let s1 := if (s0.quad q).regionUp then s0 else s0.updQuad q (fun m => { m with stackUp := trained.toNat, rate8g := rate8g, recalFails := [] })
        let s2 := (s1.dropJob j).updPower (fun p => { p with outQuads := SMap.set 0 p.outQuads q 2 })
        (if j.action = 2 then s2.finishReturn q else s2).complete j.waiter 0 [])

/-! Recalibration. -/

/-- The recalibration of a stack ends: a request for it completes (R483). -/
def State.recalEnd (s : State) (stack : Nat) (good : Bool) : State :=
  match s.power.trains.find? (fun j => j.kind == 3 && j.index == stack) with
  | none => s
  | some j => (s.updPower (fun p => { p with trains := p.trains.erase j })).complete j.waiter 0 [if good then 1 else 0]

/-- A stack's region goes out of service, and the shards that rest there alone are lost (R169, R237). -/
def State.stackFailed (s : State) (stack : Nat) : State :=
  let q := stack / 6
  if (s.quad q).regionUp then (s.regionOut q stack).loseShards q else s

/-- HBM_RECALIBRATION (R174, R169, R237, R483): a recalibration of a stack ends, in success or failure; none runs in Dormant. -/
def execHbmRecalibration (stack : Fin 24) (good : Bool) (s : State) : Host.Outcome State Fault Refusal :=
  let q := stack.val / 6
  let i := stack.val % 6
  .next (if s.power.mode = .dormant ∨ s.power.mode = .off then s
    else
      let n := SMap.get 0 (s.quad q).recalFails i + 1
      let s1 := if good then
          s.updQuad q (fun m => { m with
            surveyCnt := satAdd 32 m.surveyCnt 1
            surveyFail := clearBitN m.surveyFail i
            recalFails := SMap.set 0 m.recalFails i 0 })
        else
          let s1 := (s.updQuad q (fun m => { m with
            surveyFail := setBitN m.surveyFail i
            recalFails := SMap.set 0 m.recalFails i n })).post false 0x05 0x03 0 0xFFFF q (BitVec.ofNat 64 stack.val)
          if 3 ≤ n then s1.stackFailed stack.val else s1
      s1.recalEnd stack.val good)

/-! Leaving Off. -/

/-- PRECHARGE (R490): main voltage has come, the hold-up capacitance is charged and the main path closes. -/
def execPrecharge (t : Nat) (s : State) : Host.Outcome State Fault Refusal :=
  let s0 := s.at' t
  .next (if s0.power.mode = .off then s0.updPower (fun p => { p with mainClosed := true }) else s0)

/-- JTAG_EXTEST_EXIT (R502): the TAP returns to Test-Logic-Reset after an `EXTEST`, which runs only in Quiet with no parcel enabled. -/
def execJtagExtestExit (t : Nat) (s : State) : Host.Outcome State Fault Refusal :=
  let s0 := s.at' t
  .next (if s0.power.mode ≠ .quiet ∨ s0.parcels.any (fun x => x.2.state == .enabled) then s0
    else ((s0.setMode .off 0).toOff 1).updPower (fun p => { p with mainClosed := false }))

end Sys2Proof.Machine
end

