-- ==== Sys2Proof/Machine/Security.lean ====
section
/-! DEFINITION. The security block (R465 to R477): firmware banks and boot (R468, R469), the power-up from Off (R460, R503), staging and
activation (R470 to R473), policy images (R413), parcel 0's key (R474), attestation (R475 to R477); and the sending of a response (R362). -/

namespace Sys2Proof.Machine

/-! Responses. -/

/-- A response to a request (R362): it is sent to where the request came from, put at place `n` of what the module has sent, and kept
among the parcel's last 64 (R350). `zero` gives it an all-zero tag (R474). -/
def State.respond (s : State) (key : Bytes) (zero : Bool) (n : Nat) (r : EdReq) (status : Nat) (payload : Bytes) : State :=
  let p := r.mail.parcel.toNat
  let h := edHead 1 r.op p r.mail.seq.toNat payload.length status
  let tag := if zero then zeros 16 else (hmac512 key (h ++ payload)).take 16
  let msg := h ++ tag ++ payload
  let b := s.box p
  let cache := b.cache ++ [⟨r.mail.seq.toNat, r.mail.tag, msg⟩]
  let s1 : State := { s with mail := { s.mail with
    out := s.mail.out.take n ++ [⟨⟨r.mail.srcIp, r.mail.srcUdp, r.mail.port.val⟩, msg⟩] ++ s.mail.out.drop n } }
  s1.setBox p { b with cache := cache.drop (cache.length - 64) }

/-! Firmware banks. -/

/-- Change the security block. -/
def State.updSec (s : State) (f : Sec → Sec) : State := { s with sec := f s.sec }

/-- Bank `b`. -/
def Sec.fw (x : Sec) (b : Nat) : FwBank := SMap.get FwBank.clear x.banks b

/-- The bank that does not run. -/
def Sec.other (x : Sec) : Nat := 1 - x.bank % 2

/-- Magic, format and length of a firmware image (Table 17-2). -/
def fwHeadOk (l : Bytes) : Bool := decide (leAt l 0 4 = 0x57464742 ∧ leAt l 4 2 = 1 ∧ leAt l 0x10 4 ≤ 16711680)

/-- Key digest, signature and body digest (R469). -/
def fwSigned (l : Bytes) : Bool :=
  sha512 (slice l 0x300 0x204) == toLe 64 Config.rootDigest.toNat &&
    pssVerify (beAt l 0x300 512) (leAt l 0x500 4) (slice l 0 0x100) (slice l 0x100 512) &&
    sha512 ((l.take (leAt l 0x10 4)).drop 0x600) == slice l 0x80 64

/-- Whether what a bank holds is valid (R469). -/
def bankValid (l : Bytes) (floor : Nat) : Bool :=
  fwHeadOk l && decide (leAt l 6 1 ≤ 1) && fwSigned l && decide (floor ≤ leAt l 7 1)

/-- The bank the boot ROM chooses (R469), with the bank found invalid before it. -/
def Sec.boot (x : Sec) : Option (Nat × Option Nat) :=
  let a := if (x.fw 0).actSeq < (x.fw 1).actSeq then 1 else 0
  let b := 1 - a
  if bankValid (x.fw a).image x.floor then some (a, none)
  else if bankValid (x.fw b).image x.floor then some (b, some a)
  else none

/-- A quadrant at power-up (Table 18-7 steps 8 to 10): its stacks trained, its tiles tested, then ARRAY and FIELD gated. -/
def State.quadUp (s : State) (q : Nat) (x : QuadUp) : State :=
  let s1 := s.updQuad q (fun m => { m with stackUp := x.trained.toNat, rate8g := x.rate8g, regionUp := decide (x.trained = 63) })
  let bad := (List.range 6).filter (fun i => !x.trained.getLsbD i)
  let s2 := bad.foldl (fun (s : State) i => s.post false 0x05 0x01 0 0xFFFF q (BitVec.ofNat 64 (6 * q + i))) s1
  (((s2.selfTestQuad q true x.fails x.us.toNat).buildCarve q).arrayOff q).fieldOff q

/-- The module runs (Table 18-7): cores, store, domains and quadrants; discovery begins (R393). -/
def State.powerUp (s : State) (slot bank : Nat) (quads : List QuadUp) : State :=
  let s1 : State := { (s.updSec (fun x => { x with bank := bank })).updPower (fun p => { p with
    mode := .off, wanted := .serve, going := none, trip := false, coolOk := true, refclk := true, perst := false, mem := 15 }) with slot := slot }
  let s2 := ([0, 1, 2, 3] : List Nat).foldl (fun (s : State) c => s.updCore c (fun _ => { HgCore.reset with
    running := true, bank := bank, heartbeat := s.now, duties := 2 ^ c })) s1
  let s3 := (quads.take 4).zipIdx.foldl (fun (s : State) x => s.quadUp x.2 x.1) s2.loadStore
  (s3.updFab (fun f => { f with discovering := true })).setMode .serve 4

/-- POWER_UP_FROM_OFF (R460, R469, R503): the conditions of Table 16-5 are met and the main path is closed; the module boots, trains and
tests itself, and comes up in `SERVE` with every quadrant gated; module time, not valid yet, counts from 0 (R328). With no valid bank it
stays where it is. -/
def execPowerUpFromOff (slot : Fin 4) (quads : List QuadUp) (t : Nat) (s : State) : Host.Outcome State Fault Refusal :=
  let p := s.power
  .next (if (p.mode ≠ .off ∧ p.mode ≠ .starting) ∨ !p.mainClosed ∨ p.offCause = 3 then s.at' t
    else
      let s0 : State := { s with now := 0, book := { s.book with lastPage := 0, ahead := s.book.ahead + max s.now t } }
      match s0.sec.boot with
      | none => s0.post true 0x0E 0x02 0x0303 0xFFFF 0 0
      | some (b, bad) =>
        let s1 := s0.powerUp slot.val b quads
        match bad with
        | none => s1
        | some x => s1.post false 0x0E 0x01 0x0303 0xFFFF 0 (BitVec.ofNat 64 x))

/-! Policy images (R413). -/

/-- The layout of a policy image (Table 15-3). -/
def policyOk (l : Bytes) : Bool :=
  decide (768 ≤ l.length ∧ leAt l 0 4 = 0x4C4F5050 ∧ leAt l 4 2 = 1 ∧ leAt l 6 1 ≤ 3 ∧ 1 ≤ leAt l 8 2 ∧ leAt l 8 2 ≤ 512 ∧
    leAt l 0x10 4 ≤ 1048576 - 768 ∧ l.length = 768 + leAt l 0x10 4)

/-- The key, the signature and the digest of a policy image. -/
def State.policySigned (s : State) (l : Bytes) : Bool :=
  let p := s.parcel (leAt l 8 2)
  p.state != .free && !p.signN.all (fun b => b == 0) &&
    pssVerify (beNat p.signN) p.signE (l.take 0x100) (slice l 0x100 512) && sha512 (l.drop 0x300) == slice l 0x80 64

/-- What a policy image does (R413): its status and the module's state. -/
def State.doPolicy (s : State) (f : Option Bytes) (len : Nat) : State × Nat :=
  match f with
  | none => (s, 0x0302)
  | some l =>
    let i := leAt l 6 1
    let q := leAt l 8 2
    let foreign := (s.policy i).any (fun y => y.parcel != q) ||
      ([0, 1, 2, 3] : List Nat).any (fun k => k != i && (s.policy k).any (fun y => y.parcel == q))
    if l.length ≠ len then (s, 0x0302)
    else if !policyOk l then (s, 0x0102)
    else if !s.policySigned l then (s, 0x0303)
    else if foreign then (s, 0x0202)
    else if (s.parcel q).state ≠ .enabled then (s, 0x0201)
    else if leAt l 0x10 4 = 0 then (s.setPolicy i none, 0)
    else (s.setPolicy i (some ⟨q, l, (l.zipIdx.filter (fun x => x.1 != 0)).map (fun x => (x.2, x.1)), 0, none, [], 0⟩), 0)

/-! Staging and activation. -/

/-- Checks 2 to 4 of Table 17-3: the status, 0 when they pass. -/
def Sec.stageStatus (x : Sec) (l : Bytes) (len : Nat) : Nat :=
  if !(fwHeadOk l && decide (leAt l 0x10 4 = len)) then 0x0102
  else if !fwSigned l then 0x0303
  else if !decide (leAt l 6 1 ≤ 1 ∧ x.floor ≤ leAt l 7 1 ∧ leAt l 7 1 ≤ 64 ∧ leAt l 0xE 2 ≤ leAt (x.fw x.bank).image 0xC 2) then 0x0102
  else 0

/-- Staging ends with a status (R470, Tables 17-8 and 17-9). -/
def State.endStaging (s : State) (g : Staging) (status version : Nat) : State :=
  let s1 := (s.updSec (fun x => { x with staging := none })).post false 0x0E 0x03 status 0xFFFF 1 (BitVec.ofNat 64 version)
  (if status = 0 then s1 else s1.secEvent 1).complete g.waiter status []

/-- FIRMWARE_STAGING_COMPLETE (R470, Table 17-3): the fetch of an image has ended, and where its checks pass it has been written to the
bank that does not run; `same` says that the bank reads back equal to it. -/
def execFirmwareStagingComplete (image : Option Bytes) (same : Bool) (t : Nat) (s : State) : Host.Outcome State Fault Refusal :=
  let s0 := s.at' t
  .next (match s0.sec.staging, image with
    | none, _ => s0
    | some g, none => s0.endStaging g 0x0302 0
    | some g, some l =>
      if l.length ≠ g.len then s0.endStaging g 0x0302 (leAt l 8 4)
      else if leAt l 0 4 = 0x4C4F5050 then
        (let r := s0.doPolicy image g.len
         (r.1.updSec (fun x => { x with staging := none })).complete g.waiter r.2 [])
      else
        let st := s0.sec.stageStatus l g.len
        if st ≠ 0 then s0.endStaging g st (leAt l 8 4)
        else
          (s0.updSec (fun x => { x with banks := SMap.set FwBank.clear x.banks x.other (if same then ⟨l, 0⟩ else FwBank.clear) })).endStaging g
            (if same then 0 else 0x0303) (leAt l 8 4))

/-- A core starts from a bank (R471 step 3). -/
def State.startCore (s : State) (c bank : Nat) : State := (s.resetCore c).updCore c (fun k => { k with bank := bank })

/-- The first core of a list that can switch. -/
def State.nextCore (s : State) (l : List Nat) : Option Nat := l.find? (fun c => (s.core c).running && !(s.core c).held)

/-- The last core has switched (R471): the activation record is written and the floor raised. -/
def State.finishActivation (s : State) (w : Waiter) : State :=
  let nb := s.sec.other
  let img := (s.sec.fw nb).image
  let floor := if bitB (leAt img 0x14 1) 0 then max s.sec.floor (leAt img 7 1) else s.sec.floor
  let raised := decide (s.sec.floor < floor)
  let s1 := s.updSec (fun x => { x with
    banks := SMap.set FwBank.clear x.banks nb ⟨img, (x.fw x.bank).actSeq + 1⟩
    bank := nb, floor := floor, activation := none })
  let s2 := ([0, 1, 2, 3] : List Nat).foldl (fun (s : State) c => s.updCore c (fun k => { k with bank := nb })) s1
  let s3 := (if raised then s2.secEvent 0 else s2).assignDuties []
  (s3.post false 0x0E 0x04 0 0xFFFF 2 (BitVec.ofNat 64 (leAt img 8 4 + floor * 2 ^ 32))).complete w 0 []

/-- ACTIVATION_CORE_SWITCHED (R471, R472): the core that switches has started from the new bank and takes its duties back. -/
def execActivationCoreSwitched (t : Nat) (s : State) : Host.Outcome State Fault Refusal :=
  let s0 := s.at' t
  .next (match s0.sec.activation with
    | none => s0
    | some a =>
      let s1 := s0.startCore a.core s0.sec.other
      match s1.nextCore (([3, 2, 1, 0] : List Nat).filter (fun c => decide (c < a.core))) with
      | some c => ((s1.updSec (fun x => { x with activation := some ⟨c, a.switched ++ [a.core], a.waiter⟩ })).assignDuties [c]).resumePolicy a.core
      | none => (s1.finishActivation a.waiter).resumePolicy a.core)

/-- ACTIVATION_UNDO (R473): the switched core gives no heartbeat or refuses the handoff record; every core goes back to the bank that
ran, the last one first. -/
def execActivationUndo (t : Nat) (s : State) : Host.Outcome State Fault Refusal :=
  let s0 := s.at' t
  .next (match s0.sec.activation with
    | none => s0
    | some a =>
      let w := a.waiter
      let s1 := (a.core :: a.switched.reverse).foldl (fun (s : State) c => s.startCore c s.sec.bank) s0
      let s2 := (((s1.updSec (fun x => { x with activation := none })).assignDuties []).secEvent 2).post false 0x0E 0x05 0x0102 0xFFFF 2
        (BitVec.ofNat 64 a.core)
      (s2.event w.parcel 1 w.op w.seq 0x0102 w.obj [BitVec.ofNat 8 a.core] w.dest).resumePolicy a.core)

/-- The effect of `FW_STAGE` (R470): staging starts; it waits behind a staging or an activation. -/
def State.doStage (s : State) (w : Waiter) (len : Nat) : State × Ans :=
  if s.sec.staging.isSome ∨ s.sec.activation.isSome then (s, .wait ⟨10, 0⟩)
  else (s.updSec (fun x => { x with staging := some ⟨len, w⟩ }), .started [])

/-- The effect of `FW_ACTIVATE` (R471): the first core stops and its duties move. -/
def State.doActivate (s : State) (w : Waiter) : State × Ans :=
  if s.sec.staging.isSome ∨ s.sec.activation.isSome then (s, .wait ⟨10, 0⟩)
  else if !bankValid (s.sec.fw s.sec.other).image s.sec.floor then (s, .ended 0x0303 [])
  else match s.nextCore [3, 2, 1, 0] with
  | none => (s, .ended 0x0303 [])
  | some c => ((s.updSec (fun x => { x with activation := some ⟨c, [], w⟩ })).assignDuties [c], .started [])

/-! Parcel 0's key (R474). -/

/-- Parcel 0's key is set: its sequence state carries over, its SPDM connection starts afresh, and the completion follows the commit of
record 0x0002. -/
def State.setKey0 (s : State) (k : Bytes) (mode : Nat) (w : Waiter) : State :=
  let s1 := (s.setBox 0 { s.box 0 with key := some k }).updSec (fun x => { x with spdm := SMap.set ⟨0⟩ x.spdm 0 ⟨0⟩, keyWaits := x.keyWaits ++ [w] })
  (s1.wantCommit).post false 0x0E 0x06 0 0xFFFF 0x20 (BitVec.ofNat 64 mode)

/-- The effect of a mode-0 install. -/
def State.doInstall (s : State) (w : Waiter) (l : Bytes) : State × Ans :=
  if (s.box 0).key.isSome then (s, .final 0x0105 [])
  else match oaepDecrypt Config.identityN.toNat Config.identityD.toNat (slice l 8 512) with
  | some k => if k.length = 64 then (s.setKey0 k 0 w, .started []) else (s, .final 0x0303 [])
  | none => (s, .final 0x0303 [])

/-- The effect of a mode-1 replacement, whose request has number `seq`. -/
def State.doReplaceKey (s : State) (w : Waiter) (seq : Nat) (l : Bytes) : State × Ans :=
  match (s.box 0).key with
  | some k0 => (s.setKey0 (unwrapKey k0 (slice l 8 64) 0 seq) 1 w, .started [])
  | none => (s, .final 0x0105 [])

/-! Attestation (R475 to R477). The layouts are those of SPDM 1.2 (log entry 44). -/

/-- The value of measurement `i`: its type byte and its bytes (Table 17-5). -/
def State.measure (s : State) (i : Nat) : Option (Nat × Bytes) :=
  let hd := fun (l : Bytes) => sha512 (slice l 0 0x100)
  if i = 1 then some (0, sha512 Config.bootRom)
  else if 2 ≤ i ∧ i ≤ 5 then some (1, hd (s.sec.fw (s.core (i - 2)).bank).image)
  else if i = 6 then
    (let l := (s.sec.fw s.sec.other).image
     some (3, if bankValid l s.sec.floor then hd l else zeros 64))
  else if i = 7 then some (0x82, toLe 1 s.sec.floor ++ toLe 1 Config.lifecycle.toNat ++ [1])
  else if 8 ≤ i ∧ i ≤ 11 then some (1, match s.policy (i - 8) with
    | some p => hd p.image
    | none => zeros 64)
  else if i = 12 then some (0x82, toLe 64 Config.rootDigest.toNat)
  else none

/-- A measurement block in DMTF form. -/
def State.measureBlock (s : State) (i : Nat) : Bytes :=
  match s.measure i with
  | some (ty, v) => toLe 1 i ++ [1] ++ toLe 2 (v.length + 3) ++ toLe 1 ty ++ toLe 2 v.length ++ v
  | none => []

/-- Every measurement block. -/
def State.measureAll (s : State) : Bytes := ((List.range 12).map (fun i => s.measureBlock (i + 1))).flatMap id

/-- An SPDM ERROR. -/
def spdmError (code data : Nat) : Bytes := [0x12, 0x7F] ++ toLe 1 code ++ toLe 1 data

/-- A responder's nonce, drawn from the random source. -/
def State.nonce (s : State) : Bytes := toLe 32 (Config.freeWord256 s.free).toNat

/-- The answer to a `CHALLENGE` but for its signature. -/
def State.challengeBody (s : State) (l : Bytes) : Bytes :=
  [0x12, 0x03, 0, 1] ++ sha512 Config.certChain ++ s.nonce ++ (if leAt l 3 1 = 0 then [] else sha512 s.measureAll) ++ zeros 2

/-- The answer to a `GET_MEASUREMENTS` but for its signature. -/
def State.measureBody (s : State) (op : Nat) : Bytes :=
  let blocks := if op = 0 then [] else if op = 0xFF then s.measureAll else s.measureBlock op
  let n := if op = 0 then 0 else if op = 0xFF then 12 else 1
  [0x12, 0x60] ++ toLe 1 (if op = 0 then 12 else 0) ++ [0] ++ toLe 1 n ++ toLe 3 blocks.length ++ blocks ++ s.nonce ++ zeros 2

/-- A signed answer joins the security block's queue, or is answered `Busy` (R477). -/
def State.sign (s : State) (r : EdReq) (body : Bytes) : State × Ans :=
  if 2 ≤ s.sec.signs.length then (s.secEvent 4, .final 0 (spdmError 3 0))
  else ((s.updSec (fun x => { x with signs := x.signs ++ [⟨r, body⟩] })).tick 1, .later)

/-- Whether a `NEGOTIATE_ALGORITHMS` offers what Table 17-4 supports. -/
def spdmAlgOk (l : Bytes) : Bool := decide (32 ≤ l.length) && bitB (leAt l 6 1) 0 && bitB (leAt l 8 4) 5 && bitB (leAt l 0xC 4) 2

/-- A request of an established connection. -/
def State.spdmServe (s : State) (r : EdReq) (l : Bytes) : State × Ans :=
  let code := leAt l 1 1
  let no : State × Ans := (s, .final 0 (spdmError 7 code))
  if code = 0x81 then (s, .final 0 ([0x12, 0x01, 0, 1] ++ sha512 Config.certChain))
  else if code = 0x82 then
    (let off := leAt l 4 2
     let part := (Config.certChain.drop off).take (min 4096 (leAt l 6 2))
     if l.length < 8 ∨ leAt l 2 1 ≠ 0 ∨ Config.certChain.length < off then no
     else (s, .final 0 ([0x12, 0x02, 0, 0] ++ toLe 2 part.length ++ toLe 2 (Config.certChain.length - off - part.length) ++ part)))
  else if code = 0x83 then
    (if l.length < 36 ∨ leAt l 2 1 ≠ 0 then no else s.sign r (s.challengeBody l))
  else if code = 0xE0 then
    (let op := leAt l 3 1
     let signed := bitB (leAt l 2 1) 0
     if (12 < op ∧ op ≠ 0xFF) ∨ (signed ∧ (l.length < 37 ∨ leAt l 36 1 ≠ 0)) then no
     else if signed then s.sign r (s.measureBody op)
     else (s.tick 1, .final 0 (s.measureBody op)))
  else no

/-- The answer to an SPDM request of parcel `p` (R475, Table 17-4). -/
def State.doSpdm (s : State) (r : EdReq) (p : Nat) (l : Bytes) : State × Ans :=
  let code := leAt l 1 1
  let stage := (SMap.get (⟨0⟩ : Spdm) s.sec.spdm p).stage
  let go := fun (n : Nat) => s.updSec (fun x => { x with spdm := SMap.set ⟨0⟩ x.spdm p ⟨n⟩ })
  let known := ([0x81, 0x82, 0x83, 0xE0, 0xE1, 0xE3] : List Nat).contains code
  if code = 0x84 then (go 1, .final 0 ([0x10, 0x04, 0, 0, 0, 1] ++ toLe 2 0x1200))
  else if !known ∨ leAt l 0 1 ≠ 0x12 then (s, .final 0 (spdmError 7 code))
  else if code = 0xE1 then
    (if stage ≠ 1 then (s, .final 0 (spdmError 4 0))
      else (go 2, .final 0 ([0x12, 0x61, 0, 0, 0, 10, 0, 0] ++ toLe 4 0x36 ++ toLe 4 8128 ++ toLe 4 8128)))
  else if code = 0xE3 then
    (if stage ≠ 2 then (s, .final 0 (spdmError 4 0))
      else if !spdmAlgOk l then (s, .final 0 (spdmError 7 code))
      else (go 3, .final 0 ([0x12, 0x63, 0, 0] ++ toLe 2 36 ++ [1, 0] ++ toLe 4 8 ++ toLe 4 0x20 ++ toLe 4 4 ++ zeros 16)))
  else if stage ≠ 3 then (s, .final 0 (spdmError 4 0))
  else s.spdmServe r l

/-- SIGNATURE_COMPLETE (R477): a signature is made and its answer goes out; the one queued behind it starts. The signature's value is
free (log entry 2). -/
def execSignatureComplete (t : Nat) (s : State) : Host.Outcome State Fault Refusal :=
  let s0 := s.at' t
  .next (match s0.sec.signs with
    | [] => s0
    | j :: l =>
      let s1 := (s0.updSec (fun x => { x with signs := l, signCnt := satAdd 32 x.signCnt 1 })).tick 1
      match (s1.box j.req.mail.parcel.toNat).key with
      | none => s1
      | some key => s1.respond key false s1.mail.out.length j.req 0 (j.body ++ toLe 512 (Config.freeWord4096 s0.free).toNat))

end Sys2Proof.Machine
end

