-- ==== Sys2Proof/Machine/Edush.lean ====
section
/-! DEFINITION. The Edush mailboxes (R356 to R377): the checks on a request (Table 13-4), its sequence number (R360, R361), its answer,
the deferred operations, and events sent again; and the meaning of each opcode's command. -/

namespace Sys2Proof.Machine

/-! Checks 1 to 3 of Table 13-4. -/

/-- Check 1: a whole header of this protocol that is no response and no event. -/
def mailHeadOk (m : Mail) : Bool :=
  !m.drop && m.magic == 0x4544 && m.version == 1 && !m.hflags.getLsbD 0 && !m.hflags.getLsbD 1

/-- The 48 header bytes that the tag covers, as received. -/
def EdReq.head (r : EdReq) : Bytes :=
  let m := r.mail
  toLe 2 m.magic.toNat ++ toLe 1 m.version.toNat ++ toLe 1 m.hflags.toNat ++ toLe 2 r.op ++ toLe 2 m.parcel.toNat ++ toLe 4 m.seq.toNat
    ++ toLe 4 m.len.toNat ++ toLe 2 m.status.toNat ++ slice m.resv 0 30

/-- The tag of a request under a key (R358). -/
def EdReq.tagOf (r : EdReq) (key : Bytes) : Nat := leNat ((hmac512 key (r.head ++ r.mail.payload)).take 16)

/-- The request that passes check 2 while parcel 0 has no key (R474). -/
def EdReq.firstKey (r : EdReq) : Bool :=
  let m := r.mail
  m.parcel == 0 && r.op == 0x71 && leAt m.payload 0 1 == 2 && leAt m.payload 1 1 == 0 && m.tag == 0 && decide (4 ≤ m.port.val)

/-- Check 2. -/
def State.authentic (s : State) (r : EdReq) : Bool :=
  match (s.box r.mail.parcel.toNat).key with
  | some key => r.tagOf key == r.mail.tag.toNat
  | none => r.firstKey

/-- The answer to a request that fails check 2: `AUTH_FAIL` with a zero tag, at most 100 a second to one source (R358, R359). -/
def State.authFail (s : State) (r : EdReq) : State :=
  let m := r.mail
  let recent := s.mail.authTimes.filter (fun x => decide (s.now < x.2 + 1000000000))
  if 100 ≤ (recent.filter (fun x => x.1 == m.srcIp.toNat)).length then s
  else { s with mail := { s.mail with
    authFail := satAdd 64 s.mail.authFail 1
    authTimes := recent ++ [(m.srcIp.toNat, s.now)]
    out := s.mail.out ++ [⟨⟨m.srcIp, m.srcUdp, m.port.val⟩,
      edHead 1 r.op m.parcel.toNat m.seq.toNat 0 0x0103 ++ zeros 16⟩] } }

/-- How far a sequence number lies past the highest accepted one (R360). -/
def Mailbox.ahead (b : Mailbox) (seq : Nat) : Nat := (seq + 2 ^ 32 - b.high) % 2 ^ 32

/-- How far it lies behind. -/
def Mailbox.behind (b : Mailbox) (seq : Nat) : Nat := (b.high + 2 ^ 32 - seq) % 2 ^ 32

/-- Whether a sequence number is new and moves the highest one. -/
def Mailbox.moves (b : Mailbox) (seq : Nat) : Bool := decide (1 ≤ b.ahead seq ∧ b.ahead seq < 2 ^ 31)

/-- Whether a sequence number is new (R360). -/
def Mailbox.isNew (b : Mailbox) (seq : Nat) : Bool := b.moves seq || (decide (b.behind seq < 64) && !b.seen.getLsbD (b.behind seq))

/-- A new sequence number is accepted. -/
def Mailbox.accept (b : Mailbox) (seq : Nat) : Mailbox :=
  if b.moves seq then { b with high := seq, seen := (b.seen <<< b.ahead seq) ||| 1 }
  else { b with seen := b.seen ||| (1 <<< b.behind seq) }

/-- Send a message of parcel `p` to where a request came from. -/
def State.answerTo (s : State) (r : EdReq) (msg : Bytes) : State :=
  { s with mail := { s.mail with out := s.mail.out ++ [⟨⟨r.mail.srcIp, r.mail.srcUdp, r.mail.port.val⟩, msg⟩] } }

/-- A tag over a head and a payload; all zero without a key (R474). -/
def tagUnder (key : Option Bytes) (l : Bytes) : Bytes :=
  match key with
  | some k => (hmac512 k l).take 16
  | none => zeros 16

/-- A held response sent again: `CACHED` is set and the tag covers the new head (R361). -/
def HeldResp.again (h : HeldResp) (key : Option Bytes) : Bytes :=
  let head := h.msg.take 3 ++ [BitVec.ofNat 8 (setBitN (leAt h.msg 3 1) 2)] ++ (h.msg.drop 4).take 44
  let body := h.msg.drop 64
  head ++ tagUnder key (head ++ body) ++ body

/-- A request whose number has been seen (R361). -/
def State.seenAgain (s : State) (r : EdReq) : State :=
  let b := s.box r.mail.parcel.toNat
  match b.cache.find? (fun h => h.seq == r.mail.seq.toNat && h.tag == r.mail.tag) with
  | some h => s.answerTo r (h.again b.key)
  | none =>
    let head := edHead 1 r.op r.mail.parcel.toNat r.mail.seq.toNat 4 0x0104
    let body := toLe 4 (b.high + 1)
    s.answerTo r (head ++ tagUnder b.key (head ++ body) ++ body)

/-! The floor of a sequence number (R360, R440). -/

/-- Whether a parcel's multiple `top` is durable. -/
def State.durable (s : State) (p top : Nat) : Bool := decide ((SMap.get 0 s.store.floors p + 2 ^ 32 - top) % 2 ^ 32 < 2 ^ 31)

/-- Ask for a multiple to be made durable. -/
def State.askFloor (s : State) (p top : Nat) : State :=
  if SMap.get 0 s.store.floorsAsked p = top ∧ s.store.floorsAsked.any (fun x => x.1 == p) then s
  else ({ s with store := { s.store with floorsAsked := SMap.set 0 s.store.floorsAsked p top } } : State).wantCommit

/-- Whether a new number waits for a multiple it would pass to become durable (R440). -/
def State.mustWait (s : State) (p seq : Nat) : Bool :=
  let b := s.box p
  b.moves seq && decide (seq % 65536 < b.ahead seq) && !s.durable p (seq - seq % 65536)

/-- Past the midpoint before a multiple, that multiple is asked for (R440). -/
def State.nextFloor (s : State) (p : Nat) : State :=
  let h := (s.box p).high
  let top := (h - h % 65536 + 65536) % 2 ^ 32
  if h % 65536 < 32768 ∨ s.durable p top then s else s.askFloor p top

/-! Checks 4 to 8. -/

/-- Table 13-3: whether parcel 0 alone may call an opcode, and whether it runs on networks A and B. -/
def edOp (op : Nat) : Option (Bool × Bool × Bool) :=
  if ([0x01, 0x22, 0x2A, 0x40, 0x41, 0x50, 0x51, 0x90] : List Nat).contains op then some (false, true, true)
  else if ([0x20, 0x21, 0x23, 0x28, 0x29, 0x30] : List Nat).contains op then some (false, false, true)
  else if op = 0x38 ∨ op = 0x39 then some (false, true, false)
  else if ([0x10, 0x11, 0x12, 0x13, 0x52, 0x60, 0x61, 0x62, 0x70, 0x71, 0x78, 0x79, 0x80, 0x81] : List Nat).contains op then some (true, false, true)
  else none

/-- A plan's fields in range (Table 13-5). -/
def planOk (l : Bytes) : Bool :=
  decide (l.length = 208) && (List.range 12).all (fun i => let o := 0x10 + 16 * i
    decide (leAt l (o + 0xA) 1 ≤ 1 ∧ (leAt l (o + 0xA) 1 = 0 ∨ (leAt l (o + 8) 1 ≤ 3 ∧ leAt l (o + 9) 1 ≤ 11))))

/-- `STATE_SET`'s fields in range (R374, R474). -/
def stateSetOk (l : Bytes) : Bool :=
  let n := leAt l 1 1
  if l.length < 2 then false
  else match leAt l 0 1 with
  | 0 => decide (l.length = 3 ∧ 1 ≤ n ∧ n ≤ 4)
  | 1 => decide (1 ≤ n ∧ n ≤ 8 ∧ l.length = 8 + 48 * n) && (List.range n).all (fun i => let o := 8 + 48 * i
      decide (leAt l o 1 ≤ 7 ∧ leAt l (o + 1) 1 ≤ 32 ∧ leAt l (o + 2) 1 ≤ 128))
  | 2 => decide ((n = 0 ∧ l.length = 0x208) ∨ (n = 1 ∧ l.length = 0x48))
  | _ => false

/-- A staging request's fields in range: the servers of its fetch block only (Table 13-5). -/
def stageOk (l : Bytes) : Bool :=
  decide (l.length = 8 + 0x88 ∧ 1 ≤ leAt l 9 1 ∧ leAt l 9 1 ≤ 4 ∧ leAt l 10 2 ≤ 600)

/-- Check 8: the payload's length and every field (R368, Tables 13-5 to 13-11). -/
def edForm (op : Nat) (l : Bytes) : Bool :=
  match op with
  | 0x01 => decide (l.length = 0 ∨ l.length = 4)
  | 0x10 => createOk l
  | 0x11 => parcelOk l
  | 0x12 => parcelOk l
  | 0x13 => parcelOk l
  | 0x20 => registerOk l
  | 0x21 => fetchOk l
  | 0x22 => decide (l.length = 2)
  | 0x23 => decide (l.length = 3 ∧ leAt l 2 1 ≤ 1)
  | 0x28 => fetchOk l
  | 0x29 => fetchOk l
  | 0x2A => decide (l.length = 5)
  | 0x30 => decide (8 + 0x88 ≤ l.length ∧ leAt l 2 1 ≤ 3 ∧ 1 ≤ leAt l 9 1 ∧ leAt l 9 1 ≤ 4 ∧ leAt l 10 2 ≤ 600)
  | 0x38 => decide (l.length = 8)
  | 0x39 => decide (l.length = 8)
  | 0x40 => ringOk l
  | 0x41 => decide (l.length = 1)
  | 0x50 => statsOk l
  | 0x51 => countersOk l
  | 0x52 => fieldbookOk l
  | 0x60 => planOk l
  | 0x61 => l.isEmpty
  | 0x62 => decide (l.length = 2 ∧ ((leAt l 0 1 = 0 ∧ leAt l 1 1 < 12) ∨ (leAt l 0 1 = 1 ∧ leAt l 1 1 < 8) ∨ (leAt l 0 1 = 2 ∧ leAt l 1 1 < 4)))
  | 0x70 => decide (l.length = 4 ∧ 1000 ≤ leAt l 0 4 ∧ leAt l 0 4 ≤ 3800)
  | 0x71 => stateSetOk l
  | 0x78 => decide (l.length = 2 ∧ leAt l 0 1 ≤ 3 ∧ leAt l 1 1 ≤ 2)
  | 0x79 => decide (l.length = 1 ∧ leAt l 0 1 ≤ 23)
  | 0x80 => stageOk l
  | 0x81 => l.isEmpty
  | 0x90 => decide (4 ≤ l.length)
  | _ => false

/-- Check 7: whether a parcel is being destroyed or gone (Table 12-3, last row); parcel 0 always is there (R323). -/
def State.goneParcel (s : State) (p : Nat) : Bool := p != 0 && ((s.parcel p).state == .destroying || (s.parcel p).state == .free)

/-- Checks 4 to 8 in order: the status, 0 when they pass. A message has at most 8,192 bytes (R356). -/
def State.edCheck (s : State) (r : EdReq) : Nat :=
  let m := r.mail
  let l := m.payload
  if m.len.toNat ≠ l.length ∨ 8128 < l.length then 0x0102
  else match edOp r.op with
  | none => 0x0101
  | some (zero, a, b) =>
    if (zero && m.parcel != 0) || !(if m.port.val < 4 then a else b) then 0x0105
    else if s.goneParcel m.parcel.toNat then 0x0201
    else if !edForm r.op l then 0x0102
    else 0

/-! Check 9: the opcodes that no other chapter's file has. -/

/-- The effect of `NOP` (R368, R376). -/
def State.doNop (s : State) (p : Nat) (l : Bytes) : State × Ans :=
  let b := s.box p
  let s1 := if l.isEmpty then s else s.setBox p { b with unacked := b.unacked.filter (fun e => decide (leAt l 0 4 < e.num)) }
  (s1, .final 0 (toLe 8 s.now ++ toLe 4 b.evNum))

/-- The effect of `TOPOLOGY_PLAN_SET` (R390, R393). -/
def State.doPlan (s : State) (w : Waiter) (l : Bytes) : State × Ans :=
  if s.fab.discovering then (s, .wait ⟨6, 0⟩)
  else
    let s1 := s.updFab (fun f => { f with
      planId := leAt l 0 8
      discovering := true
      plan := (List.range 12).map (fun i => let o := 0x10 + 16 * i
        if leAt l (o + 0xA) 1 = 1 then some ⟨leAt l o 8, leAt l (o + 8) 1, leAt l (o + 9) 1⟩ else none) })
    ((s1.planLinks.updPower (fun p => { p with planWait := some w })).wantCommit, .started [])

/-- The effect of `LINK_RETRAIN` (R483, Table 13-12a). -/
def State.doRetrain (s : State) (w : Waiter) (l : Bytes) : State × Ans :=
  let k := leAt l 0 1
  let i := leAt l 1 1
  if s.power.trains.any (fun j => j.kind == k && j.index == i) || (k == 0 && (s.fport i).state == .recover) then (s, .wait ⟨5, k * 16 + i⟩)
  else (s.addTrain ⟨k, i, w⟩, .started [])

/-- The effect of `POWER_CAP_SET` (R452). -/
def State.doCap (s : State) (l : Bytes) : State × Ans :=
  ((s.updPower (fun p => { p with cap := leAt l 0 4 })).wantCommit, .final 0 (toLe 4 (leAt l 0 4)))

/-- The effect of `STATE_SET` of a power state (R444, Table 16-3). -/
def State.doState (s : State) (w : Waiter) (l : Bytes) : State × Ans :=
  let x := pwrModeOf (leAt l 1 1)
  let p := s.power
  let set := fun (go : Bool) (wait : Bool) => s.updPower (fun p => { p with
    wanted := x, retain := leAt l 2 1 % 16, going := if go then some x else p.going,
    waits := if wait then p.waits ++ [⟨x, w⟩] else p.waits })
  if p.mode = .starting ∨ p.going.isSome ∨ !p.waits.isEmpty then (s, .wait ⟨7, 0⟩)
  else if p.mode = x then (set false false, .ended 0 [])
  else if p.thermHold ∨ p.coolHold then (set false true, .started [])
  else (set true true, .started [])

/-- The effect of `STATE_SET` of network records (R353, R374, Table 13-11). -/
def State.doNetwork (s : State) (l : Bytes) : State × Ans :=
  let recs := (List.range (leAt l 1 1)).foldl (fun (m : SMap NetRec) i =>
    let x := slice l (8 + 48 * i) 48
    SMap.set NetRec.clear m (leAt x 0 1) (netRecOf x)) s.mail.recs
  (({ s with mail := { s.mail with recs := recs, udpPort := if leAt l 2 2 = 0 then s.mail.udpPort else leAt l 2 2 } } : State).wantCommit,
    .ended 0 [])

/-- The effect of `HBM_RECAL` (R174, R483). -/
def State.doRecal (s : State) (w : Waiter) (l : Bytes) : State × Ans :=
  let i := leAt l 0 1
  if s.power.trains.any (fun j => j.kind == 3 && j.index == i) then (s, .wait ⟨9, i⟩)
  else (s.updPower (fun p => { p with trains := p.trains ++ [⟨3, i, w⟩] }), .started [])

/-- The effect of `FW_STAGE` (R413, R470): an image that arrives with the policy magic is handled at once. -/
def State.doFwStage (s : State) (w : Waiter) (f : Option Bytes) (l : Bytes) : State × Ans :=
  if f.any (fun x => leAt x 0 4 == 0x4C4F5050) ∧ s.sec.staging.isNone ∧ s.sec.activation.isNone then
    (let r := s.doPolicy f (leAt l 0 8)
     (r.1, .ended r.2 []))
  else s.doStage w (leAt l 0 8)

/-- The object a completion names (R375). -/
def edObject (op : Nat) (l : Bytes) : Nat :=
  match op with
  | 0x29 => leAt l 0 4
  | 0x2A => leAt l 0 4
  | 0x41 => leAt l 0 1
  | 0x40 => leAt l 0 1
  | 0x62 => leAt l 1 1
  | 0x71 => 0
  | 0x78 => leAt l 0 1
  | 0x79 => leAt l 0 1
  | 0x60 => 0
  | 0x80 => 0
  | 0x81 => 0
  | _ => leAt l 0 2

/-- The answer a request owes. -/
def EdReq.waiter (r : EdReq) : Waiter :=
  let m := r.mail
  ⟨m.parcel.toNat, r.op, m.seq.toNat, some ⟨m.srcIp, m.srcUdp, m.port.val⟩, edObject r.op m.payload⟩

/-- The opcodes that wait for `SERVE` (R445). -/
def waitsServe (op : Nat) : Bool := ([0x21, 0x22, 0x23, 0x28, 0x29, 0x30, 0x38, 0x79, 0x78, 0x62, 0x60] : List Nat).contains op

/-- Check 9: the effect of an authentic, well-formed request; `late` marks one that was deferred. -/
def State.serveReq (s : State) (r : EdReq) (late : Bool) : State × Ans :=
  let m := r.mail
  let l := m.payload
  let w := r.waiter
  let p := m.parcel.toNat
  if waitsServe r.op && s.power.going == some .off then (s, .final 0x0105 [])
  else if waitsServe r.op && (s.power.going.isSome || s.power.mode != .serve) then (s, .wait ⟨7, 1⟩)
  else match r.op with
  | 0x01 => s.doNop p l
  | 0x10 => s.doCreate m.seq.toNat l
  | 0x11 => s.doDestroy w l late
  | 0x12 => s.doEnable l late
  | 0x13 => s.doDisable w l late
  | 0x20 => s.doRegister p l
  | 0x21 => s.doFetch w m.fetched l
  | 0x22 => s.doFill w l
  | 0x23 => s.doEvict w l
  | 0x28 => s.doAdapterLoad w m.fetched l
  | 0x29 => s.doAdapterReplace w m.fetched l
  | 0x2A => s.doWithdraw w l
  | 0x30 => s.doPlatLoad w m.fetched l
  | 0x38 => s.doPin w l
  | 0x39 => s.doUnpin w l
  | 0x40 => s.doRing p l
  | 0x41 => s.doRingDestroy w l
  | 0x50 => (s, .final (s.stats p l).1 (s.stats p l).2)
  | 0x51 => ((s.counters p l).1, .final (s.counters p l).2.1 (s.counters p l).2.2)
  | 0x52 => (s, .final 0 (s.book.answer l))
  | 0x60 => s.doPlan w l
  | 0x61 => (s, .final 0 s.topology)
  | 0x62 => s.doRetrain w l
  | 0x70 => s.doCap l
  | 0x71 =>
    if leAt l 0 1 = 0 then s.doState w l
    else if leAt l 0 1 = 1 then s.doNetwork l
    else if leAt l 1 1 = 0 then s.doInstall w l
    else s.doReplaceKey w m.seq.toNat l
  | 0x78 =>
    if leAt l 1 1 = 0 then s.doTakeOut w (leAt l 0 1)
    else if leAt l 1 1 = 1 then s.doRetest w (leAt l 0 1)
    else s.doReturn w (leAt l 0 1)
  | 0x79 => s.doRecal w l
  | 0x80 => s.doFwStage w m.fetched l
  | 0x81 => s.doActivate w
  | 0x90 => s.doSpdm r p l
  | _ => (s, .final 0x0101 [])

/-! Answers. -/

/-- The response to a request, put before the messages that its effect has sent (R363); `s` is the state it was executed in. -/
def State.reply (s : State) (r : EdReq) (after : State) (status : Nat) (body : Bytes) : State :=
  let key := (s.box r.mail.parcel.toNat).key
  after.respond (key.getD []) key.isNone s.mail.out.length r status (if status = 0 then body else [])

/-- The response of an answer (R362, R366, R377). -/
def State.finish (s : State) (r : EdReq) (x : State × Ans) : State :=
  match x.2 with
  | .final st body => s.reply r x.1 st body
  | .started body => s.reply r x.1 0 body
  | .ended st body => (s.reply r x.1 0 body).complete r.waiter st body
  | .wait k =>
    if 16 ≤ (x.1.mail.deferred.filter (fun d => d.obj == k)).length then s.reply r x.1 0x0202 []
    else s.reply r { x.1 with mail := { x.1.mail with deferred := x.1.mail.deferred ++ [⟨k, r⟩] } } 1 []
  | .later => x.1

/-- Send the events of a parcel that have waited for an address (R364). -/
def State.flushEvents (s : State) (p : Nat) : State :=
  (s.box p).unacked.foldl (fun (s : State) e =>
    if e.sends ≠ 0 then s
    else
      let x := s.transmit p e
      let b := x.1.box p
      x.1.setBox p { b with unacked := b.unacked.map (fun y => if y.num = e.num then x.2 else y) }) s

/-- A new request: its number is consumed, its source becomes the event address, and it is executed (R359, R363, R364). -/
def State.execute (s : State) (r : EdReq) : State :=
  let p := r.mail.parcel.toNat
  let b := (s.box p).accept r.mail.seq.toNat
  let s1 := ((s.setBox p { b with addr := some ⟨r.mail.srcIp, r.mail.srcUdp, r.mail.port.val⟩ }).nextFloor p).flushEvents p
  let st := s1.edCheck r
  s1.finish r (if st ≠ 0 then (s1, .final st []) else s1.serveReq r false)

/-- Check 3 (R360, R361, R440). -/
def State.sequence (s : State) (r : EdReq) : State :=
  let m := r.mail
  let p := m.parcel.toNat
  let seq := m.seq.toNat
  if s.mail.setAside.any (fun x => x.mail.parcel == m.parcel && x.mail.seq == m.seq && x.mail.tag == m.tag) then s
  else if !(s.box p).isNew seq then s.seenAgain r
  else if s.mustWait p seq then
    ({ s with mail := { s.mail with setAside := s.mail.setAside ++ [r] } } : State).askFloor p (seq - seq % 65536)
  else s.execute r

/-- A datagram that reaches the mailbox port (R356 to R363). Nothing is received while the Headgate is off or starts. -/
def State.receive (s : State) (r : EdReq) : State :=
  let s0 := s.at' r.mail.now
  if s0.power.mode = .off ∨ s0.power.mode = .starting then s0
  else if !mailHeadOk r.mail then { s0 with mail := { s0.mail with dropped := satAdd 64 s0.mail.dropped 1 } }
  else if !s0.authentic r then s0.authFail r
  else s0.sequence r

/-! What follows a request. -/

/-- DEFERRED_RUN (R377): the first request deferred behind its object runs against the state that the earlier operation left. -/
def execDeferredRun (i t : Nat) (s : State) : Host.Outcome State Fault Refusal :=
  let s0 := s.at' t
  .next (match s0.mail.deferred[i]? with
    | none => s0
    | some d =>
      if (s0.mail.deferred.take i).any (fun x => x.obj == d.obj) then s0
      else
        let s1 : State := { s0 with mail := { s0.mail with deferred := s0.mail.deferred.eraseIdx i } }
        let x := if s1.goneParcel d.req.mail.parcel.toNat then (s1, Ans.final 0x0201 []) else s1.serveReq d.req true
        match x.2 with
        | .final st body => x.1.complete d.req.waiter st body
        | .ended st body => x.1.complete d.req.waiter st body
        | .started _ => x.1
        | .later => x.1
        | .wait k =>
          if k = d.obj then s0 else { x.1 with mail := { x.1.mail with deferred := x.1.mail.deferred ++ [⟨k, d.req⟩] } })

/-- Whether an event is due for another send (R376). -/
def EvMsg.due (e : EvMsg) (now : Nat) : Bool := decide (e.sends ≠ 0 ∧ e.sends < 20 ∧ e.nextAt ≤ now)

/-- Whether an older event falls due at the same moment as `e`, and goes first (R376). -/
def Mailbox.olderDue (b : Mailbox) (e : EvMsg) (now : Nat) : Bool :=
  b.unacked.any (fun y => y.due now && y.nextAt == e.nextAt && decide (y.num < e.num))

/-- EVENT_RESEND (R376): an event that is not acknowledged goes again 50 ms after its last send, 20 times in all; of those that fall due
at the same moment the oldest goes first. -/
def execEventResend (parcel : Fin 513) (num : BitVec 32) (t : Nat) (s : State) : Host.Outcome State Fault Refusal :=
  let s0 := s.at' t
  let p := parcel.val
  .next (match (s0.box p).unacked.find? (fun e => e.num == num.toNat) with
    | none => s0
    | some e =>
      if !e.due s0.now ∨ (s0.box p).olderDue e s0.now then s0
      else
        let x := s0.transmit p e
        let b := x.1.box p
        x.1.setBox p { b with unacked := b.unacked.map (fun y => if y.num = e.num then x.2 else y) })

/-- SEQ_FLOOR_COMMIT_DONE (R363, R440): the requests set aside are executed in arrival order where their floor is durable now. -/
def execSeqFloorCommitDone (t : Nat) (s : State) : Host.Outcome State Fault Refusal :=
  let s0 := s.at' t
  .next (s0.mail.setAside.foldl (fun (s : State) r =>
    if (s.box r.mail.parcel.toNat).key.isNone && !r.firstKey then s else s.sequence r)
    { s0 with mail := { s0.mail with setAside := [] } })

/-! The commands of the opcodes: each is a datagram with its opcode. -/

/-- NOP (R368, R376), or an opcode that is not in Table 13-3 (R359 check 5). -/
def execEdushNop (op : BitVec 16) (m : Mail) (s : State) : Host.Outcome State Fault Refusal := .next (s.receive ⟨op.toNat, m⟩)

/-- PARCEL_CREATE (R325, R370). -/
def execParcelCreate (m : Mail) (s : State) : Host.Outcome State Fault Refusal := .next (s.receive ⟨0x10, m⟩)

/-- PARCEL_DESTROY (R325). -/
def execParcelDestroy (m : Mail) (s : State) : Host.Outcome State Fault Refusal := .next (s.receive ⟨0x11, m⟩)

/-- PARCEL_ENABLE (R325). -/
def execParcelEnable (m : Mail) (s : State) : Host.Outcome State Fault Refusal := .next (s.receive ⟨0x12, m⟩)

/-- PARCEL_DISABLE (R325). -/
def execParcelDisable (m : Mail) (s : State) : Host.Outcome State Fault Refusal := .next (s.receive ⟨0x13, m⟩)

/-- MODEL_REGISTER (R229). -/
def execModelRegister (m : Mail) (s : State) : Host.Outcome State Fault Refusal := .next (s.receive ⟨0x20, m⟩)

/-- MODEL_FETCH (R233). -/
def execModelFetch (m : Mail) (s : State) : Host.Outcome State Fault Refusal := .next (s.receive ⟨0x21, m⟩)

/-- MODEL_FILL (R238). -/
def execModelFill (m : Mail) (s : State) : Host.Outcome State Fault Refusal := .next (s.receive ⟨0x22, m⟩)

/-- MODEL_EVICT (R241). -/
def execModelEvict (m : Mail) (s : State) : Host.Outcome State Fault Refusal := .next (s.receive ⟨0x23, m⟩)

/-- ADAPTER_LOAD (R242). -/
def execAdapterLoad (m : Mail) (s : State) : Host.Outcome State Fault Refusal := .next (s.receive ⟨0x28, m⟩)

/-- ADAPTER_REPLACE (R242). -/
def execAdapterReplace (m : Mail) (s : State) : Host.Outcome State Fault Refusal := .next (s.receive ⟨0x29, m⟩)

/-- ADAPTER_WITHDRAW (R246). -/
def execAdapterWithdraw (m : Mail) (s : State) : Host.Outcome State Fault Refusal := .next (s.receive ⟨0x2A, m⟩)

/-- PLAT_LOAD (R135). -/
def execPlatLoad (m : Mail) (s : State) : Host.Outcome State Fault Refusal := .next (s.receive ⟨0x30, m⟩)

/-- PREFIX_PIN (R300). -/
def execPrefixPin (m : Mail) (s : State) : Host.Outcome State Fault Refusal := .next (s.receive ⟨0x38, m⟩)

/-- PREFIX_UNPIN (R301). -/
def execPrefixUnpin (m : Mail) (s : State) : Host.Outcome State Fault Refusal := .next (s.receive ⟨0x39, m⟩)

/-- RING_CREATE (R372). -/
def execRingCreate (m : Mail) (s : State) : Host.Outcome State Fault Refusal := .next (s.receive ⟨0x40, m⟩)

/-- RING_DESTROY (R285). -/
def execRingDestroy (m : Mail) (s : State) : Host.Outcome State Fault Refusal := .next (s.receive ⟨0x41, m⟩)

/-- STATS_READ (R373). -/
def execStatsRead (m : Mail) (s : State) : Host.Outcome State Fault Refusal := .next (s.receive ⟨0x50, m⟩)

/-- COUNTERS_READ (R373). -/
def execCountersRead (m : Mail) (s : State) : Host.Outcome State Fault Refusal := .next (s.receive ⟨0x51, m⟩)

/-- FIELDBOOK_READ (R436). -/
def execFieldbookRead (m : Mail) (s : State) : Host.Outcome State Fault Refusal := .next (s.receive ⟨0x52, m⟩)

/-- TOPOLOGY_PLAN_SET (R390). -/
def execTopologyPlanSet (m : Mail) (s : State) : Host.Outcome State Fault Refusal := .next (s.receive ⟨0x60, m⟩)

/-- TOPOLOGY_READ (R368). -/
def execTopologyRead (m : Mail) (s : State) : Host.Outcome State Fault Refusal := .next (s.receive ⟨0x61, m⟩)

/-- LINK_RETRAIN (R483). -/
def execLinkRetrain (m : Mail) (s : State) : Host.Outcome State Fault Refusal := .next (s.receive ⟨0x62, m⟩)

/-- POWER_CAP_SET (R452). -/
def execPowerCapSet (m : Mail) (s : State) : Host.Outcome State Fault Refusal := .next (s.receive ⟨0x70, m⟩)

/-- STATE_SET of a power state (R444). -/
def execStateSet (m : Mail) (s : State) : Host.Outcome State Fault Refusal := .next (s.receive ⟨0x71, m⟩)

/-- STATE_SET of network records (R374). -/
def execStateSetNetwork (m : Mail) (s : State) : Host.Outcome State Fault Refusal := .next (s.receive ⟨0x71, m⟩)

/-- STATE_SET of parcel 0's key, mode 0 (R474). -/
def execParcel0KeyInstall (m : Mail) (s : State) : Host.Outcome State Fault Refusal := .next (s.receive ⟨0x71, m⟩)

/-- STATE_SET of parcel 0's key, mode 1 (R474). -/
def execParcel0KeyReplace (m : Mail) (s : State) : Host.Outcome State Fault Refusal := .next (s.receive ⟨0x71, m⟩)

/-- SERVICE_QUADRANT action 0 (R482). -/
def execQuadrantTakeOut (m : Mail) (s : State) : Host.Outcome State Fault Refusal := .next (s.receive ⟨0x78, m⟩)

/-- SERVICE_QUADRANT action 1 (R481). -/
def execQuadrantRetest (m : Mail) (s : State) : Host.Outcome State Fault Refusal := .next (s.receive ⟨0x78, m⟩)

/-- SERVICE_QUADRANT action 2 (R481). -/
def execQuadrantReturn (m : Mail) (s : State) : Host.Outcome State Fault Refusal := .next (s.receive ⟨0x78, m⟩)

/-- HBM_RECAL (R483). -/
def execHbmRecal (m : Mail) (s : State) : Host.Outcome State Fault Refusal := .next (s.receive ⟨0x79, m⟩)

/-- FW_STAGE of a firmware image (R470). -/
def execFwStage (m : Mail) (s : State) : Host.Outcome State Fault Refusal := .next (s.receive ⟨0x80, m⟩)

/-- FW_STAGE of a policy image (R413). -/
def execPolicyImageStage (m : Mail) (s : State) : Host.Outcome State Fault Refusal := .next (s.receive ⟨0x80, m⟩)

/-- FW_ACTIVATE (R471). -/
def execFwActivate (m : Mail) (s : State) : Host.Outcome State Fault Refusal := .next (s.receive ⟨0x81, m⟩)

/-- SPDM_MESSAGE (R475). -/
def execSpdmMessage (m : Mail) (s : State) : Host.Outcome State Fault Refusal := .next (s.receive ⟨0x90, m⟩)

end Sys2Proof.Machine
end

