-- ==== Sys2Proof/Machine/TileCore.lean ====
section
/-! DEFINITION. The meanings of the operations of a wide word (Tables 2-7 and 2-9 to 2-12): each issues its word on its
context, with the slots beside it. -/

namespace Sys2Proof.Machine

/-- NOP (R45): the word's other slots issue. -/
def execNop (x : Issue) (slot : Fin 8) (s : State) : Host.Outcome State Fault Refusal :=
  .next (issueOp x slot 0 ⟨false, false, 0, 0, 0, 0, 0, 0, 0⟩ s)

/-- BR (R49), slot 0. -/
def execBr (x : Issue) (f : SlotF) (s : State) : Host.Outcome State Fault Refusal :=
  .next (issueOp x 0 1 f s)

/-- LOOP (R49), slot 0. -/
def execLoop (x : Issue) (f : SlotF) (s : State) : Host.Outcome State Fault Refusal :=
  .next (issueOp x 0 2 f s)

/-- WAIT (R50), slot 0. -/
def execWait (x : Issue) (f : SlotF) (s : State) : Host.Outcome State Fault Refusal :=
  .next (issueOp x 0 3 f s)

/-- SIGNAL (R50), slot 0. -/
def execSignal (x : Issue) (f : SlotF) (s : State) : Host.Outcome State Fault Refusal :=
  .next (issueOp x 0 4 f s)

/-- YIELD (R61), slot 0. -/
def execYield (x : Issue) (f : SlotF) (s : State) : Host.Outcome State Fault Refusal :=
  .next (issueOp x 0 5 f s)

/-- EOB (R43), slot 0. -/
def execEob (x : Issue) (f : SlotF) (s : State) : Host.Outcome State Fault Refusal :=
  .next (issueOp x 0 6 f s)

/-- FENCE (R48), slot 0. -/
def execFence (x : Issue) (f : SlotF) (s : State) : Host.Outcome State Fault Refusal :=
  .next (issueOp x 0 7 f s)

/-- TRAP (R65), slot 0. -/
def execTrap (x : Issue) (f : SlotF) (s : State) : Host.Outcome State Fault Refusal :=
  .next (issueOp x 0 8 f s)

/-- MMA (R51), slot 1. -/
def execMma (x : Issue) (f : SlotF) (s : State) : Host.Outcome State Fault Refusal :=
  .next (issueOp x 1 1 f s)

/-- MMAZ (R51), slot 1. -/
def execMmaz (x : Issue) (f : SlotF) (s : State) : Host.Outcome State Fault Refusal :=
  .next (issueOp x 1 2 f s)

/-- ACLR (R85), slot 2. -/
def execAclr (x : Issue) (f : SlotF) (s : State) : Host.Outcome State Fault Refusal :=
  .next (issueOp x 2 1 f s)

/-- ARD (R88), slot 2. -/
def execArd (x : Issue) (f : SlotF) (s : State) : Host.Outcome State Fault Refusal :=
  .next (issueOp x 2 2 f s)

/-- ARAW (R84), slot 2. -/
def execAraw (x : Issue) (f : SlotF) (s : State) : Host.Outcome State Fault Refusal :=
  .next (issueOp x 2 3 f s)

/-- AADD (R84), slot 2. -/
def execAadd (x : Issue) (f : SlotF) (s : State) : Host.Outcome State Fault Refusal :=
  .next (issueOp x 2 4 f s)

/-- AWIN (R85), slot 2. -/
def execAwin (x : Issue) (f : SlotF) (s : State) : Host.Outcome State Fault Refusal :=
  .next (issueOp x 2 5 f s)

/-- AFLAG (R82), slot 2. -/
def execAflag (x : Issue) (f : SlotF) (s : State) : Host.Outcome State Fault Refusal :=
  .next (issueOp x 2 6 f s)

/-- VFMA (R95), slot 3. -/
def execVfma (x : Issue) (f : SlotF) (s : State) : Host.Outcome State Fault Refusal :=
  .next (issueOp x 3 1 f s)

/-- VADD (R95), slot 3. -/
def execVadd (x : Issue) (f : SlotF) (s : State) : Host.Outcome State Fault Refusal :=
  .next (issueOp x 3 2 f s)

/-- VSUB (R95), slot 3. -/
def execVsub (x : Issue) (f : SlotF) (s : State) : Host.Outcome State Fault Refusal :=
  .next (issueOp x 3 3 f s)

/-- VMUL (R95), slot 3. -/
def execVmul (x : Issue) (f : SlotF) (s : State) : Host.Outcome State Fault Refusal :=
  .next (issueOp x 3 4 f s)

/-- VMAX (R96), slot 3. -/
def execVmax (x : Issue) (f : SlotF) (s : State) : Host.Outcome State Fault Refusal :=
  .next (issueOp x 3 5 f s)

/-- VMIN (R96), slot 3. -/
def execVmin (x : Issue) (f : SlotF) (s : State) : Host.Outcome State Fault Refusal :=
  .next (issueOp x 3 6 f s)

/-- VEXP2 (R97), slot 3. -/
def execVexp2 (x : Issue) (f : SlotF) (s : State) : Host.Outcome State Fault Refusal :=
  .next (issueOp x 3 7 f s)

/-- VLOG2 (R97), slot 3. -/
def execVlog2 (x : Issue) (f : SlotF) (s : State) : Host.Outcome State Fault Refusal :=
  .next (issueOp x 3 8 f s)

/-- VRCP (R97), slot 3. -/
def execVrcp (x : Issue) (f : SlotF) (s : State) : Host.Outcome State Fault Refusal :=
  .next (issueOp x 3 9 f s)

/-- VRSQ (R97), slot 3. -/
def execVrsq (x : Issue) (f : SlotF) (s : State) : Host.Outcome State Fault Refusal :=
  .next (issueOp x 3 10 f s)

/-- VCVT (R95), slot 3. -/
def execVcvt (x : Issue) (f : SlotF) (s : State) : Host.Outcome State Fault Refusal :=
  .next (issueOp x 3 11 f s)

/-- VRSUM (R98), slot 3. -/
def execVrsum (x : Issue) (f : SlotF) (s : State) : Host.Outcome State Fault Refusal :=
  .next (issueOp x 3 12 f s)

/-- VCMP (R96), slot 3. -/
def execVcmp (x : Issue) (f : SlotF) (s : State) : Host.Outcome State Fault Refusal :=
  .next (issueOp x 3 13 f s)

/-- SLI (R99), slot 4. -/
def execSli (x : Issue) (f : SlotF) (s : State) : Host.Outcome State Fault Refusal :=
  .next (issueOp x 4 1 f s)

/-- SADD (R99), slot 4. -/
def execSadd (x : Issue) (f : SlotF) (s : State) : Host.Outcome State Fault Refusal :=
  .next (issueOp x 4 2 f s)

/-- SSUB (R99), slot 4. -/
def execSsub (x : Issue) (f : SlotF) (s : State) : Host.Outcome State Fault Refusal :=
  .next (issueOp x 4 3 f s)

/-- SMUL (R99), slot 4. -/
def execSmul (x : Issue) (f : SlotF) (s : State) : Host.Outcome State Fault Refusal :=
  .next (issueOp x 4 4 f s)

/-- SAND (R99), slot 4. -/
def execSand (x : Issue) (f : SlotF) (s : State) : Host.Outcome State Fault Refusal :=
  .next (issueOp x 4 5 f s)

/-- SOR (R99), slot 4. -/
def execSor (x : Issue) (f : SlotF) (s : State) : Host.Outcome State Fault Refusal :=
  .next (issueOp x 4 6 f s)

/-- SXOR (R99), slot 4. -/
def execSxor (x : Issue) (f : SlotF) (s : State) : Host.Outcome State Fault Refusal :=
  .next (issueOp x 4 7 f s)

/-- SSHL (R99), slot 4. -/
def execSshl (x : Issue) (f : SlotF) (s : State) : Host.Outcome State Fault Refusal :=
  .next (issueOp x 4 8 f s)

/-- SSHR (R99), slot 4. -/
def execSshr (x : Issue) (f : SlotF) (s : State) : Host.Outcome State Fault Refusal :=
  .next (issueOp x 4 9 f s)

/-- SSRA (R99), slot 4. -/
def execSsra (x : Issue) (f : SlotF) (s : State) : Host.Outcome State Fault Refusal :=
  .next (issueOp x 4 10 f s)

/-- SCMP (R53), slot 4. -/
def execScmp (x : Issue) (f : SlotF) (s : State) : Host.Outcome State Fault Refusal :=
  .next (issueOp x 4 11 f s)

/-- SFROMV (R47), slot 4. -/
def execSfromv (x : Issue) (f : SlotF) (s : State) : Host.Outcome State Fault Refusal :=
  .next (issueOp x 4 12 f s)

/-- VBCAST (R47), slot 4. -/
def execVbcast (x : Issue) (f : SlotF) (s : State) : Host.Outcome State Fault Refusal :=
  .next (issueOp x 4 13 f s)

/-- VIADD (R99), slot 4. -/
def execViadd (x : Issue) (f : SlotF) (s : State) : Host.Outcome State Fault Refusal :=
  .next (issueOp x 4 14 f s)

/-- VAND (R47), slot 4. -/
def execVand (x : Issue) (f : SlotF) (s : State) : Host.Outcome State Fault Refusal :=
  .next (issueOp x 4 15 f s)

/-- VOR (R47), slot 4. -/
def execVor (x : Issue) (f : SlotF) (s : State) : Host.Outcome State Fault Refusal :=
  .next (issueOp x 4 16 f s)

/-- VXOR (R47), slot 4. -/
def execVxor (x : Issue) (f : SlotF) (s : State) : Host.Outcome State Fault Refusal :=
  .next (issueOp x 4 17 f s)

/-- VPERM (R47), slot 4. -/
def execVperm (x : Issue) (f : SlotF) (s : State) : Host.Outcome State Fault Refusal :=
  .next (issueOp x 4 18 f s)

/-- VSEL (R47), slot 4. -/
def execVsel (x : Issue) (f : SlotF) (s : State) : Host.Outcome State Fault Refusal :=
  .next (issueOp x 4 19 f s)

/-- VMOV (R47), slot 4. -/
def execVmov (x : Issue) (f : SlotF) (s : State) : Host.Outcome State Fault Refusal :=
  .next (issueOp x 4 20 f s)

/-- PAND (R47), slot 4. -/
def execPand (x : Issue) (f : SlotF) (s : State) : Host.Outcome State Fault Refusal :=
  .next (issueOp x 4 21 f s)

/-- POR (R47), slot 4. -/
def execPor (x : Issue) (f : SlotF) (s : State) : Host.Outcome State Fault Refusal :=
  .next (issueOp x 4 22 f s)

/-- PXOR (R47), slot 4. -/
def execPxor (x : Issue) (f : SlotF) (s : State) : Host.Outcome State Fault Refusal :=
  .next (issueOp x 4 23 f s)

/-- PNOT (R47), slot 4. -/
def execPnot (x : Issue) (f : SlotF) (s : State) : Host.Outcome State Fault Refusal :=
  .next (issueOp x 4 24 f s)

/-- PRANGE (R47), slot 4. -/
def execPrange (x : Issue) (f : SlotF) (s : State) : Host.Outcome State Fault Refusal :=
  .next (issueOp x 4 25 f s)

/-- LD (R58), in slot 5 or, with `hi`, slot 6. -/
def execLd (x : Issue) (hi : Bool) (f : SlotF) (s : State) : Host.Outcome State Fault Refusal :=
  .next (issueOp x (if hi then 6 else 5) 1 f s)

/-- LDS (R58), in slot 5 or, with `hi`, slot 6. -/
def execLds (x : Issue) (hi : Bool) (f : SlotF) (s : State) : Host.Outcome State Fault Refusal :=
  .next (issueOp x (if hi then 6 else 5) 2 f s)

/-- ST (R55), in slot 5 or, with `hi`, slot 6. -/
def execSt (x : Issue) (hi : Bool) (f : SlotF) (s : State) : Host.Outcome State Fault Refusal :=
  .next (issueOp x (if hi then 6 else 5) 3 f s)

/-- STS (R58), in slot 5 or, with `hi`, slot 6. -/
def execSts (x : Issue) (hi : Bool) (f : SlotF) (s : State) : Host.Outcome State Fault Refusal :=
  .next (issueOp x (if hi then 6 else 5) 4 f s)

/-- SEND (R56), slot 7. -/
def execSend (x : Issue) (f : SlotF) (s : State) : Host.Outcome State Fault Refusal :=
  .next (issueOp x 7 1 f s)

/-- SENDS (R56), slot 7. -/
def execSends (x : Issue) (f : SlotF) (s : State) : Host.Outcome State Fault Refusal :=
  .next (issueOp x 7 2 f s)

/-- RECV (R56), slot 7. -/
def execRecv (x : Issue) (f : SlotF) (s : State) : Host.Outcome State Fault Refusal :=
  .next (issueOp x 7 3 f s)

/-- STEER (R120), slot 7. -/
def execSteer (x : Issue) (f : SlotF) (s : State) : Host.Outcome State Fault Refusal :=
  .next (issueOp x 7 4 f s)

/-- MERGE (R120), slot 7. -/
def execMerge (x : Issue) (f : SlotF) (s : State) : Host.Outcome State Fault Refusal :=
  .next (issueOp x 7 5 f s)

end Sys2Proof.Machine
end

