-- ==== Sys2Proof/Machine/Dispatch.lean ====
section
/-! DEFINITION. The meaning of every command: one arm per constructor, one direct call each. -/

namespace Sys2Proof.Machine

/-- What a command does to everything but the queue. -/
def exec (i : Instr) (s : State) : Host.Outcome State Fault Refusal :=
  match i with
  | .nop x slot => Sys2Proof.Machine.execNop x slot s
  | .br x f => Sys2Proof.Machine.execBr x f s
  | .loop x f => Sys2Proof.Machine.execLoop x f s
  | .wait x f => Sys2Proof.Machine.execWait x f s
  | .semaphoreWaitPass x => Sys2Proof.Machine.execSemaphoreWaitPass x s
  | .signal x f => Sys2Proof.Machine.execSignal x f s
  | .yield x f => Sys2Proof.Machine.execYield x f s
  | .eob x f => Sys2Proof.Machine.execEob x f s
  | .fence x f => Sys2Proof.Machine.execFence x f s
  | .trap x f => Sys2Proof.Machine.execTrap x f s
  | .mma x f => Sys2Proof.Machine.execMma x f s
  | .mmaz x f => Sys2Proof.Machine.execMmaz x f s
  | .mmaLand tile bank => Sys2Proof.Machine.execMmaLand tile bank s
  | .aclr x f => Sys2Proof.Machine.execAclr x f s
  | .ard x f => Sys2Proof.Machine.execArd x f s
  | .araw x f => Sys2Proof.Machine.execAraw x f s
  | .aadd x f => Sys2Proof.Machine.execAadd x f s
  | .awin x f => Sys2Proof.Machine.execAwin x f s
  | .aflag x f => Sys2Proof.Machine.execAflag x f s
  | .vfma x f => Sys2Proof.Machine.execVfma x f s
  | .vadd x f => Sys2Proof.Machine.execVadd x f s
  | .vsub x f => Sys2Proof.Machine.execVsub x f s
  | .vmul x f => Sys2Proof.Machine.execVmul x f s
  | .vmax x f => Sys2Proof.Machine.execVmax x f s
  | .vmin x f => Sys2Proof.Machine.execVmin x f s
  | .vexp2 x f => Sys2Proof.Machine.execVexp2 x f s
  | .vlog2 x f => Sys2Proof.Machine.execVlog2 x f s
  | .vrcp x f => Sys2Proof.Machine.execVrcp x f s
  | .vrsq x f => Sys2Proof.Machine.execVrsq x f s
  | .vcvt x f => Sys2Proof.Machine.execVcvt x f s
  | .vrsum x f => Sys2Proof.Machine.execVrsum x f s
  | .vcmp x f => Sys2Proof.Machine.execVcmp x f s
  | .sli x f => Sys2Proof.Machine.execSli x f s
  | .sadd x f => Sys2Proof.Machine.execSadd x f s
  | .ssub x f => Sys2Proof.Machine.execSsub x f s
  | .smul x f => Sys2Proof.Machine.execSmul x f s
  | .sand x f => Sys2Proof.Machine.execSand x f s
  | .sor x f => Sys2Proof.Machine.execSor x f s
  | .sxor x f => Sys2Proof.Machine.execSxor x f s
  | .sshl x f => Sys2Proof.Machine.execSshl x f s
  | .sshr x f => Sys2Proof.Machine.execSshr x f s
  | .ssra x f => Sys2Proof.Machine.execSsra x f s
  | .scmp x f => Sys2Proof.Machine.execScmp x f s
  | .sfromv x f => Sys2Proof.Machine.execSfromv x f s
  | .vbcast x f => Sys2Proof.Machine.execVbcast x f s
  | .viadd x f => Sys2Proof.Machine.execViadd x f s
  | .vand x f => Sys2Proof.Machine.execVand x f s
  | .vor x f => Sys2Proof.Machine.execVor x f s
  | .vxor x f => Sys2Proof.Machine.execVxor x f s
  | .vperm x f => Sys2Proof.Machine.execVperm x f s
  | .vsel x f => Sys2Proof.Machine.execVsel x f s
  | .vmov x f => Sys2Proof.Machine.execVmov x f s
  | .pand x f => Sys2Proof.Machine.execPand x f s
  | .por x f => Sys2Proof.Machine.execPor x f s
  | .pxor x f => Sys2Proof.Machine.execPxor x f s
  | .pnot x f => Sys2Proof.Machine.execPnot x f s
  | .prange x f => Sys2Proof.Machine.execPrange x f s
  | .ld x hi f => Sys2Proof.Machine.execLd x hi f s
  | .lds x hi f => Sys2Proof.Machine.execLds x hi f s
  | .st x hi f => Sys2Proof.Machine.execSt x hi f s
  | .sts x hi f => Sys2Proof.Machine.execSts x hi f s
  | .send x f => Sys2Proof.Machine.execSend x f s
  | .sends x f => Sys2Proof.Machine.execSends x f s
  | .recv x f => Sys2Proof.Machine.execRecv x f s
  | .steer x f => Sys2Proof.Machine.execSteer x f s
  | .merge x f => Sys2Proof.Machine.execMerge x f s
  | .triggerFire tile parity => Sys2Proof.Machine.execTriggerFire tile parity s
  | .contextRetire tile ctx => Sys2Proof.Machine.execContextRetire tile ctx s
  | .yieldDone tile => Sys2Proof.Machine.execYieldDone tile s
  | .tileYieldReq tile on => Sys2Proof.Machine.execTileYieldReq tile on s
  | .tileStop tile on => Sys2Proof.Machine.execTileStop tile on s
  | .selftestComplete quad full fails us trained rate8g t => Sys2Proof.Machine.execSelftestComplete quad full fails us trained rate8g t s
  | .singleTileRetest tile fails us => Sys2Proof.Machine.execSingleTileRetest tile fails us s
  | .tokenArrive tile port turn flip more => Sys2Proof.Machine.execTokenArrive tile port turn flip more s
  | .steerTregEnter tile turn => Sys2Proof.Machine.execSteerTregEnter tile turn s
  | .tregInject tile turn => Sys2Proof.Machine.execTregInject tile turn s
  | .gateAppend tile port flip => Sys2Proof.Machine.execGateAppend tile port flip s
  | .gateSetMode tile port flip => Sys2Proof.Machine.execGateSetMode tile port flip s
  | .gateFlush tile port flip => Sys2Proof.Machine.execGateFlush tile port flip s
  | .gateSetCap tile port flip => Sys2Proof.Machine.execGateSetCap tile port flip s
  | .gateInject tile port turn => Sys2Proof.Machine.execGateInject tile port turn s
  | .switchRequest lead => Sys2Proof.Machine.execSwitchRequest lead s
  | .drainComplete lead d => Sys2Proof.Machine.execDrainComplete lead d s
  | .drainBound lead => Sys2Proof.Machine.execDrainBound lead s
  | .imageLoadComplete lead => Sys2Proof.Machine.execImageLoadComplete lead s
  | .forcedSwitch lead => Sys2Proof.Machine.execForcedSwitch lead s
  | .plotForce block => Sys2Proof.Machine.execPlotForce block s
  | .plotReleaseBit block on => Sys2Proof.Machine.execPlotReleaseBit block on s
  | .plotYieldReq block on => Sys2Proof.Machine.execPlotYieldReq block on s
  | .yieldBound lead => Sys2Proof.Machine.execYieldBound lead s
  | .saveComplete lead => Sys2Proof.Machine.execSaveComplete lead s
  | .restore saved => Sys2Proof.Machine.execRestore saved s
  | .stepLimit lead => Sys2Proof.Machine.execStepLimit lead s
  | .stepStart lead t => Sys2Proof.Machine.execStepStart lead t s
  | .placement model => Sys2Proof.Machine.execPlacement model s
  | .fillComplete lead => Sys2Proof.Machine.execFillComplete lead s
  | .plotRelease lead => Sys2Proof.Machine.execPlotRelease lead s
  | .scrubComplete id => Sys2Proof.Machine.execScrubComplete id s
  | .surveyorReexamine t => Sys2Proof.Machine.execSurveyorReexamine t s
  | .copy engine lead d => Sys2Proof.Machine.execCopy engine lead d s
  | .copyRaw engine lead d => Sys2Proof.Machine.execCopyRaw engine lead d s
  | .fill engine lead d => Sys2Proof.Machine.execFill engine lead d s
  | .plist engine lead d => Sys2Proof.Machine.execPlist engine lead d s
  | .stage engine lead d => Sys2Proof.Machine.execStage engine lead d s
  | .sluiceSignal engine lead d => Sys2Proof.Machine.execSluiceSignal engine lead d s
  | .sluiceComplete engine index fetched => Sys2Proof.Machine.execSluiceComplete engine index fetched s
  | .weightRetry lead ok fetched => Sys2Proof.Machine.execWeightRetry lead ok fetched s
  | .slRingTailWrite engine tail => Sys2Proof.Machine.execSlRingTailWrite engine tail s
  | .streamRelease lead record k => Sys2Proof.Machine.execStreamRelease lead record k s
  | .engineSemTake engine index => Sys2Proof.Machine.execEngineSemTake engine index s
  | .tierReply engine index gen poison ces => Sys2Proof.Machine.execTierReply engine index gen poison ces s
  | .tierWatchdog lead ns stall => Sys2Proof.Machine.execTierWatchdog lead ns stall s
  | .aqReadTimeout engine index => Sys2Proof.Machine.execAqReadTimeout engine index s
  | .patrolScrub addr found => Sys2Proof.Machine.execPatrolScrub addr found s
  | .hbmRecalibration stack good => Sys2Proof.Machine.execHbmRecalibration stack good s
  | .memCfgWrite q v => Sys2Proof.Machine.execMemCfgWrite q v s
  | .cxlLinkUp q speed width cap good digest t => Sys2Proof.Machine.execCxlLinkUp q speed width cap good digest t s
  | .cxlLinkDown q t => Sys2Proof.Machine.execCxlLinkDown q t s
  | .ideFailure q t => Sys2Proof.Machine.execIdeFailure q t s
  | .routePacket le => Sys2Proof.Machine.execRoutePacket le s
  | .returnPacket le => Sys2Proof.Machine.execReturnPacket le s
  | .rtCommit le table => Sys2Proof.Machine.execRtCommit le table s
  | .gatherPacket le => Sys2Proof.Machine.execGatherPacket le s
  | .gatherSubpacket le remote => Sys2Proof.Machine.execGatherSubpacket le remote s
  | .rowRead ge poison fetched => Sys2Proof.Machine.execRowRead ge poison fetched s
  | .gatherPartial le remote => Sys2Proof.Machine.execGatherPartial le remote s
  | .geCtrlEnable ge on => Sys2Proof.Machine.execGeCtrlEnable ge on s
  | .doorbell ring qp value t => Sys2Proof.Machine.execDoorbell ring qp value t s
  | .admission ring t => Sys2Proof.Machine.execAdmission ring t s
  | .deadlineMissed handle t => Sys2Proof.Machine.execDeadlineMissed handle t s
  | .completionBacklogDrain ring => Sys2Proof.Machine.execCompletionBacklogDrain ring s
  | .kvHoldExpire handle t => Sys2Proof.Machine.execKvHoldExpire handle t s
  | .handoffCopyComplete handle home ok dest arrive => Sys2Proof.Machine.execHandoffCopyComplete handle home ok dest arrive s
  | .rebalance t sets => Sys2Proof.Machine.execRebalance t sets s
  | .identifierQuarantineEnd t => Sys2Proof.Machine.execIdentifierQuarantineEnd t s
  | .shardAttemptEnd ref shard body t => Sys2Proof.Machine.execShardAttemptEnd ref shard body t s
  | .shardTimeout ref shard t => Sys2Proof.Machine.execShardTimeout ref shard t s
  | .groupNotice m tag digest member refs t => Sys2Proof.Machine.execGroupNotice m tag digest member refs t s
  | .groupNoticeResend ref acked t => Sys2Proof.Machine.execGroupNoticeResend ref acked t s
  | .earlyNoticeExpire t => Sys2Proof.Machine.execEarlyNoticeExpire t s
  | .deferredRun n t => Sys2Proof.Machine.execDeferredRun n t s
  | .parcelScrubComplete parcel t => Sys2Proof.Machine.execParcelScrubComplete parcel t s
  | .ptpMessage port domain locked offset t => Sys2Proof.Machine.execPtpMessage port domain locked offset t s
  | .holdoverExpire t => Sys2Proof.Machine.execHoldoverExpire t s
  | .arbDecision arb fw other static => Sys2Proof.Machine.execArbDecision arb fw other static s
  | .arbStarveThreshold arb r => Sys2Proof.Machine.execArbStarveThreshold arb r s
  | .edushNop op m => Sys2Proof.Machine.execEdushNop op m s
  | .parcelCreate m => Sys2Proof.Machine.execParcelCreate m s
  | .parcelDestroy m => Sys2Proof.Machine.execParcelDestroy m s
  | .parcelEnable m => Sys2Proof.Machine.execParcelEnable m s
  | .parcelDisable m => Sys2Proof.Machine.execParcelDisable m s
  | .modelRegister m => Sys2Proof.Machine.execModelRegister m s
  | .modelFetch m => Sys2Proof.Machine.execModelFetch m s
  | .modelFill m => Sys2Proof.Machine.execModelFill m s
  | .modelEvict m => Sys2Proof.Machine.execModelEvict m s
  | .adapterLoad m => Sys2Proof.Machine.execAdapterLoad m s
  | .adapterReplace m => Sys2Proof.Machine.execAdapterReplace m s
  | .adapterWithdraw m => Sys2Proof.Machine.execAdapterWithdraw m s
  | .platLoad m => Sys2Proof.Machine.execPlatLoad m s
  | .prefixPin m => Sys2Proof.Machine.execPrefixPin m s
  | .prefixUnpin m => Sys2Proof.Machine.execPrefixUnpin m s
  | .ringCreate m => Sys2Proof.Machine.execRingCreate m s
  | .ringDestroy m => Sys2Proof.Machine.execRingDestroy m s
  | .statsRead m => Sys2Proof.Machine.execStatsRead m s
  | .countersRead m => Sys2Proof.Machine.execCountersRead m s
  | .fieldbookRead m => Sys2Proof.Machine.execFieldbookRead m s
  | .topologyPlanSet m => Sys2Proof.Machine.execTopologyPlanSet m s
  | .topologyRead m => Sys2Proof.Machine.execTopologyRead m s
  | .linkRetrain m => Sys2Proof.Machine.execLinkRetrain m s
  | .powerCapSet m => Sys2Proof.Machine.execPowerCapSet m s
  | .stateSet m => Sys2Proof.Machine.execStateSet m s
  | .stateSetNetwork m => Sys2Proof.Machine.execStateSetNetwork m s
  | .parcel0KeyInstall m => Sys2Proof.Machine.execParcel0KeyInstall m s
  | .parcel0KeyReplace m => Sys2Proof.Machine.execParcel0KeyReplace m s
  | .quadrantTakeOut m => Sys2Proof.Machine.execQuadrantTakeOut m s
  | .quadrantRetest m => Sys2Proof.Machine.execQuadrantRetest m s
  | .quadrantReturn m => Sys2Proof.Machine.execQuadrantReturn m s
  | .hbmRecal m => Sys2Proof.Machine.execHbmRecal m s
  | .fwStage m => Sys2Proof.Machine.execFwStage m s
  | .policyImageStage m => Sys2Proof.Machine.execPolicyImageStage m s
  | .fwActivate m => Sys2Proof.Machine.execFwActivate m s
  | .activationUndo t => Sys2Proof.Machine.execActivationUndo t s
  | .spdmMessage m => Sys2Proof.Machine.execSpdmMessage m s
  | .eventResend parcel num t => Sys2Proof.Machine.execEventResend parcel num t s
  | .seqFloorCommitDone t => Sys2Proof.Machine.execSeqFloorCommitDone t s
  | .ethLinkChange port up t => Sys2Proof.Machine.execEthLinkChange port up t s
  | .qpFailure qp fetch t => Sys2Proof.Machine.execQpFailure qp fetch t s
  | .rdmaConnect port qp priv => Sys2Proof.Machine.execRdmaConnect port qp priv s
  | .neighbourRequest port kind t => Sys2Proof.Machine.execNeighbourRequest port kind t s
  | .flitReceive port flit t => Sys2Proof.Machine.execFlitReceive port flit t s
  | .ackTimer port => Sys2Proof.Machine.execAckTimer port s
  | .linkTrainingStart port t => Sys2Proof.Machine.execLinkTrainingStart port t s
  | .lanesTrained port t => Sys2Proof.Machine.execLanesTrained port t s
  | .trainingTimeout port lanes t => Sys2Proof.Machine.execTrainingTimeout port lanes t s
  | .benchmarkReceived port serial slot far step rtt t => Sys2Proof.Machine.execBenchmarkReceived port serial slot far step rtt t s
  | .benchmarkSend port => Sys2Proof.Machine.execBenchmarkSend port s
  | .linkLoss port replay t => Sys2Proof.Machine.execLinkLoss port replay t s
  | .recoverRelock port same t => Sys2Proof.Machine.execRecoverRelock port same t s
  | .recoverTimeout port t => Sys2Proof.Machine.execRecoverTimeout port t s
  | .discoveryEnd t => Sys2Proof.Machine.execDiscoveryEnd t s
  | .fpCtrlEnable port on t => Sys2Proof.Machine.execFpCtrlEnable port on t s
  | .fpCtrlRetrain port t => Sys2Proof.Machine.execFpCtrlRetrain port t s
  | .write port m => Sys2Proof.Machine.execWrite port m s
  | .read port m => Sys2Proof.Machine.execRead port m s
  | .readData port m => Sys2Proof.Machine.execReadData port m s
  | .writeAck port m => Sys2Proof.Machine.execWriteAck port m s
  | .chanWrite port m => Sys2Proof.Machine.execChanWrite port m s
  | .queueLink port m => Sys2Proof.Machine.execQueueLink port m s
  | .remoteTimeout engine index => Sys2Proof.Machine.execRemoteTimeout engine index s
  | .neighbourExchange arrive list => Sys2Proof.Machine.execNeighbourExchange arrive list s
  | .mgmtResend id acked => Sys2Proof.Machine.execMgmtResend id acked s
  | .abortNotice m tag cause t => Sys2Proof.Machine.execAbortNotice m tag cause t s
  | .channelBind m model channel out reply => Sys2Proof.Machine.execChannelBind m model channel out reply s
  | .degradedAgreement model pos t => Sys2Proof.Machine.execDegradedAgreement model pos t s
  | .returnedTokens handle pos toks fin => Sys2Proof.Machine.execReturnedTokens handle pos toks fin s
  | .livenessProbe port => Sys2Proof.Machine.execLivenessProbe port s
  | .probeAnswer serial answer => Sys2Proof.Machine.execProbeAnswer serial answer s
  | .mgmtAuthFail => Sys2Proof.Machine.execMgmtAuthFail s
  | .policyTick slot t => Sys2Proof.Machine.execPolicyTick slot t s
  | .policyStarve slot arb => Sys2Proof.Machine.execPolicyStarve slot arb s
  | .policyStep slot lead => Sys2Proof.Machine.execPolicyStep slot lead s
  | .policyBudgetOverrun slot => Sys2Proof.Machine.execPolicyBudgetOverrun slot s
  | .polCounters slot a0 => Sys2Proof.Machine.execPolCounters slot a0 s
  | .polPlots slot a0 => Sys2Proof.Machine.execPolPlots slot a0 s
  | .polShare slot lo hi => Sys2Proof.Machine.execPolShare slot lo hi s
  | .polPreempt slot model => Sys2Proof.Machine.execPolPreempt slot model s
  | .polWeight slot arb r w => Sys2Proof.Machine.execPolWeight slot arb r w s
  | .polDone slot => Sys2Proof.Machine.execPolDone slot s
  | .hicSourceEvent src => Sys2Proof.Machine.execHicSourceEvent src s
  | .hicTake x => Sys2Proof.Machine.execHicTake x s
  | .hicEoi core src => Sys2Proof.Machine.execHicEoi core src s
  | .hicSwi v => Sys2Proof.Machine.execHicSwi v s
  | .hicPendWrite w v events taker => Sys2Proof.Machine.execHicPendWrite w v events taker s
  | .heartbeatTimeout core t => Sys2Proof.Machine.execHeartbeatTimeout core t s
  | .fieldbookEventPost src code status parcel unit detail t => Sys2Proof.Machine.execFieldbookEventPost src code status parcel unit detail t s
  | .logPageWrite t => Sys2Proof.Machine.execLogPageWrite t s
  | .logFlushTimer t => Sys2Proof.Machine.execLogFlushTimer t s
  | .storeCommit t => Sys2Proof.Machine.execStoreCommit t s
  | .storeCommitComplete ok t => Sys2Proof.Machine.execStoreCommitComplete ok t s
  | .powerCapTick vmain imain vaux avg t => Sys2Proof.Machine.execPowerCapTick vmain imain vaux avg t s
  | .thermalSample x t => Sys2Proof.Machine.execThermalSample x t s
  | .frequencyChange quad t => Sys2Proof.Machine.execFrequencyChange quad t s
  | .thermalLimit unit temp t => Sys2Proof.Machine.execThermalLimit unit temp t s
  | .holdRelease coolant t => Sys2Proof.Machine.execHoldRelease coolant t s
  | .hardwareTrip die t => Sys2Proof.Machine.execHardwareTrip die t s
  | .brownoutEnter mv t => Sys2Proof.Machine.execBrownoutEnter mv t s
  | .brownoutRelease mv t => Sys2Proof.Machine.execBrownoutRelease mv t s
  | .powerFail cause mv t => Sys2Proof.Machine.execPowerFail cause mv t s
  | .coolantLost t => Sys2Proof.Machine.execCoolantLost t s
  | .coolantOffTimeout t => Sys2Proof.Machine.execCoolantOffTimeout t s
  | .powerStateDrainDone t => Sys2Proof.Machine.execPowerStateDrainDone t s
  | .wake t => Sys2Proof.Machine.execWake t s
  | .quadrantGate quad t => Sys2Proof.Machine.execQuadrantGate quad t s
  | .powerUpFromOff slot quads t => Sys2Proof.Machine.execPowerUpFromOff slot quads t s
  | .precharge t => Sys2Proof.Machine.execPrecharge t s
  | .jtagExtestExit t => Sys2Proof.Machine.execJtagExtestExit t s
  | .i3cMctpMessage req => Sys2Proof.Machine.execI3cMctpMessage req s
  | .errorRecordClear off v => Sys2Proof.Machine.execErrorRecordClear off v s
  | .counterReadClear off => Sys2Proof.Machine.execCounterReadClear off s
  | .registerWrite off v => Sys2Proof.Machine.execRegisterWrite off v s
  | .auxiliaryInputReturn t => Sys2Proof.Machine.execAuxiliaryInputReturn t s
  | .intakeRdmaWrite ring qp stage off data => Sys2Proof.Machine.execIntakeRdmaWrite ring qp stage off data s
  | .congestionNotification qp => Sys2Proof.Machine.execCongestionNotification qp s
  | .firmwareStagingComplete image same t => Sys2Proof.Machine.execFirmwareStagingComplete image same t s
  | .activationCoreSwitched t => Sys2Proof.Machine.execActivationCoreSwitched t s
  | .signatureComplete t => Sys2Proof.Machine.execSignatureComplete t s

end Sys2Proof.Machine
end

