-- ==== Sys2Proof/Safety.lean ====
section
/-! DEFINITION. What counts as a safe step and a safe run, and the invariant that every step keeps: the memories stay in canonical form. -/

namespace Sys2Proof.Machine

/-- A step that goes on: neither a fault nor a refusal. -/
def goesOn (o : Host.Outcome State Fault Refusal) : Bool :=
  match o with
  | .next _ => true
  | .fault _ => false
  | .refused _ => false

/-- The state after `n` steps, as long as every one of them goes on. -/
def runFrom : Nat → State → Option State
  | 0, s => some s
  | n + 1, s =>
    match step s with
    | .next t => runFrom n t
    | .fault _ => none
    | .refused _ => none

/-- A run of `n` steps is safe when none of them stops. -/
def safeRun (n : Nat) (s : State) : Prop := (runFrom n s).isSome

/-- The queue of waiting commands is `q`, and the memories are in canonical form. -/
def Kept (q : List Instr) (s : State) : Prop := s.pending = q ∧ Memory.wf s.mem = true

/-! Words of one slot, the terms in which the statements about a wide word's operations are made. -/

/-- What a context that issues reads: its tile, itself and the memories as they are before the word (R47). -/
def envOf (x : Issue) (s : State) (c : Ctx) : Env := issueEnv x s c

/-- The tile and context of an issue before the word. -/
def coreOf (x : Issue) (s : State) (c : Ctx) : CoreSt := ⟨s.tile x.tile.val, c⟩

/-- The trigger entry a context runs. -/
def trigOfCtx (x : Issue) (s : State) (c : Ctx) : Trig := (s.tile x.tile.val).trigAt c.entry

/-- The issue unit takes context `c` of the tile for the word `w` (R44): `c` is live and comes first, and `w` is the word at its address
of the instruction store, which is sound. -/
structure Takes (x : Issue) (w : List SlotOp) (s : State) (c : Ctx) : Prop where
  live : (s.tile x.tile.val).ctx x.ctx.val = some c
  picked : issuePicks x s c = true
  sound : x.parity = false
  unheld : c.held = none
  word : (s.tile x.tile.val).wordAt c.pc = w

/-- The word `w` issues on context `c`: it is taken, legal (R45, R46, R48, R51 to R53), and waits for nothing (R50, R56). -/
structure Issues (x : Issue) (w : List SlotOp) (s : State) (c : Ctx) : Prop extends Takes x w s c where
  legal : wordOk c w = true
  waits : wordHold (envOf x s c) w = .none

/-- The word whose one slot that holds an operation is `o` issues on context `c`. -/
def Alone (x : Issue) (o : SlotOp) (s : State) (c : Ctx) : Prop := Issues x [o] s c

/-- Whether a word address lies in the block of the context's trigger entry (R49). -/
abbrev inBlock (x : Issue) (s : State) (c : Ctx) (a : Nat) : Prop :=
  (trigOfCtx x s c).start ≤ a ∧ a ≤ (trigOfCtx x s c).start + (trigOfCtx x s c).len

/-- The word after this one lies in the block: execution may go on to it (R49). -/
abbrev Follows (x : Issue) (s : State) (c : Ctx) : Prop := inBlock x s c (loopEnd c.pc c.loops).1

/-- The guard of a slot holds for an operation guarded as a whole (R47). -/
def Guarded (x : Issue) (s : State) (c : Ctx) (f : SlotF) : Prop := (guardMask (s.tile x.tile.val) c f).getLsbD 0 = true

/-- The context of a word that has issued, at its next word address with the loops open there. -/
def CoreSt.goTo (k : CoreSt) (pc : Nat) (loops : List OpenLoop) : CoreSt :=
  { k with c := { k.c with pc := pc, loops := loops, held := none, state := .ready } }

/-- The context of a word that has issued, at the word that follows (R49). -/
def CoreSt.onward (k : CoreSt) (c : Ctx) : CoreSt := k.goTo (loopEnd c.pc c.loops).1 (loopEnd c.pc c.loops).2

/-- A word has issued: the tile and the context as it left them, one more issued word counted (Table 2-15), nothing else changed
in `s`. -/
def issued (x : Issue) (s : State) (k : CoreSt) : State :=
  s.setTile x.tile.val ((k.t.setCtx x.ctx.val (some k.c)).updRegs (fun r => { r with issueCnt := satAdd 48 r.issueCnt 1 }))

/-- What an operation guarded as a whole leaves: its effect where the guard holds, nothing where it does not (R47). -/
def whole (x : Issue) (s : State) (c : Ctx) (f : SlotF) (k : CoreSt) : CoreSt :=
  if (guardMask (s.tile x.tile.val) c f).getLsbD 0 = true then k else coreOf x s c

/-- A scalar, predicate or V operand of the word. -/
def sOf (x : Issue) (s : State) (c : Ctx) (r : BitVec 8) : BitVec 64 := readS (s.tile x.tile.val) c r
def pOf (x : Issue) (s : State) (c : Ctx) (r : BitVec 8) : BitVec 64 := readP (s.tile x.tile.val) c r
def vOf (x : Issue) (s : State) (c : Ctx) (r : BitVec 8) : VReg := readV (s.tile x.tile.val) c r

/-- The second scalar operand, the immediate where `SRCB` is 0xFF (Table 2-10). -/
def sOrImm (x : Issue) (s : State) (c : Ctx) (f : SlotF) : BitVec 64 := if f.srcB = 0xFF then f.imm else sOf x s c f.srcB

/-- Lane `i` of a V operand, of the element type `MOD`[1:0]. -/
def laneOf (x : Issue) (s : State) (c : Ctx) (f : SlotF) (r : BitVec 8) (i : Nat) : Nat :=
  laneAt (laneBits (f.mod.toNat % 4)) (vOf x s c r).toNat i

/-- The element type of a slot-3 operation. -/
def fmtOf (f : SlotF) : Fmt := laneFmt (f.mod.toNat % 4)

/-- A value `v` written to the V destination where the mask enables (R47). -/
def setV (x : Issue) (s : State) (c : Ctx) (f : SlotF) (v : Nat) : CoreSt :=
  (coreOf x s c).writeV f.dst (mergeV (guardMask (s.tile x.tile.val) c f) (BitVec.ofNat 2048 v) (vOf x s c f.dst))

/-- The lanes `g` written to the V destination where the mask enables, of the element type `MOD`[1:0]. -/
def setLanes (x : Issue) (s : State) (c : Ctx) (f : SlotF) (g : Nat → Nat) : CoreSt :=
  setV x s c f (ofLanes (laneBits (f.mod.toNat % 4)) (laneCount (f.mod.toNat % 4)) g)

/-- A value written to the predicate destination where the mask enables (R47). -/
def setP (x : Issue) (s : State) (c : Ctx) (f : SlotF) (v : BitVec 64) : CoreSt :=
  (coreOf x s c).writeP f.dst ((v &&& guardMask (s.tile x.tile.val) c f) ||| (pOf x s c f.dst &&& ~~~ guardMask (s.tile x.tile.val) c f))

/-- An issue runs the word of the one operation `op` in a slot. -/
def Runs (x : Issue) (slot : Fin 8) (op : BitVec 8) (f : SlotF) (s : State) (c : Ctx) : Prop := Alone x ⟨slot, op, f⟩ s c

/-- The tile fault of a word of context `c`, with its detail (R65, Table 2-14). -/
def wordFault (x : Issue) (c : Ctx) (cause detail : Nat) (s : State) : State :=
  s.tileFault x.tile.val cause (faultInfo c.pc c.entry c.tag detail) (if cause = 0x06 then 0x0404 else 0x0403)

/-- A word that went on from `s` past the end of its block faults there (R49). -/
def endCheck (x : Issue) (s : State) (c : Ctx) (t : State) : State :=
  if Follows x s c then t else wordFault x c 0x02 (loopEnd c.pc c.loops).1 t

/-- What a word leaves in `s` when its operation makes `k` of the tile and context and goes on: the context at the word that follows. -/
def wentOn (x : Issue) (s : State) (c : Ctx) (k : CoreSt) : State := endCheck x s c (issued x s (k.onward c))

/-- The next state of such a word. -/
def done (x : Issue) (s : State) (c : Ctx) (k : CoreSt) : Host.Outcome State Fault Refusal := .next (wentOn x s c k)

/-- The next state of a word whose operation raises a tile fault and changes nothing else. -/
def faulted (x : Issue) (s : State) (c : Ctx) (cause detail : Nat) : Host.Outcome State Fault Refusal :=
  .next (endCheck x s c (wordFault x c cause detail (issued x s ((coreOf x s c).onward c))))

/-- The next state of a word whose next address is `pc` with the loops `l` open, where that address raises a tile fault (R49). -/
def lost (x : Issue) (s : State) (c : Ctx) (cause pc : Nat) (l : List OpenLoop) : Host.Outcome State Fault Refusal :=
  .next (wordFault x c cause pc (issued x s ((coreOf x s c).goTo pc l)))

/-- The bank an index names is the context's to use: no context owns it, or this one does (R34). -/
def mayUse (x : Issue) (s : State) (r : BitVec 8) : Prop :=
  ((s.tile x.tile.val).bank r).owner = none ∨ ((s.tile x.tile.val).bank r).owner = some x.ctx.val

/-- A bank put back into the tile. -/
def CoreSt.setBank (k : CoreSt) (r : BitVec 8) (b : Bank) : CoreSt := { k with t := k.t.setBank r b }

/-- The effective address of a load or store (R54). -/
def addrOf (x : Issue) (s : State) (c : Ctx) (f : SlotF) : Nat := effAddr (s.tile x.tile.val) c f

/-- The Field key of the slot's address, when the access is aligned and inside the window (R54, R58). -/
def reaches (x : Issue) (s : State) (c : Ctx) (f : SlotF) (al n k : Nat) : Prop :=
  addrOf x s c f % al = 0 ∧ addrOf x s c f + n ≤ (s.tile x.tile.val).regs.fwinLimit ∧
    k = fieldKey x.tile.val ((s.tile x.tile.val).regs.fwinBase + addrOf x s c f)

/-- The single-bit errors that a load of `n` bytes in slot 5 or 6 meets are corrected and counted (R60). -/
def corrected (x : Issue) (hi : Bool) (n : Nat) (s : State) : State :=
  s.countFieldCe (tileQuad x.tile.val) (min (if hi then x.ce6.val else x.ce5.val) ((n + 15) / 16))

/-- The lane a compare of bit `i` reads: a 16-bit type has two lanes to a bit, and `MOD`[7] takes the odd one (Table 2-9). -/
def cmpLane (f : SlotF) (i : Nat) : Nat := if f.mod.toNat % 4 = 0 then i else 2 * i + (if f.mod.getLsbD 7 then 1 else 0)

/-- The first lane of the half that `MOD`[8] names. -/
def halfOf (f : SlotF) : Nat := if f.mod.getLsbD 8 then 64 else 0

/-- One lane of a conversion: decoded from type `MOD`[1:0], encoded in type `MOD`[3:2] (R95). -/
def convertLane (x : Issue) (s : State) (c : Ctx) (f : SlotF) (i : Nat) : Nat :=
  (laneFmt (f.mod.toNat / 4 % 4)).encode ((fmtOf f).decode (laneOf x s c f f.srcA i))

/-- The lanes of a conversion (R95): a 32-bit type fills the half of a 16-bit one that `MOD`[8] names, or comes from it. -/
def converted (x : Issue) (s : State) (c : Ctx) (f : SlotF) : Nat :=
  if f.mod.toNat % 4 = 0 ∧ f.mod.toNat / 4 % 4 ≠ 0 then
    ofLanes 16 128 (fun i => if halfOf f ≤ i ∧ i < halfOf f + 64 then convertLane x s c f (i - halfOf f) else 0)
  else if f.mod.toNat % 4 ≠ 0 ∧ f.mod.toNat / 4 % 4 = 0 then ofLanes 32 64 (fun i => convertLane x s c f (halfOf f + i))
  else ofLanes (laneBits (f.mod.toNat / 4 % 4)) (laneCount (f.mod.toNat / 4 % 4)) (convertLane x s c f)

/-- The tree sum of the lanes that the guard enables (R98). -/
def laneSum (x : Issue) (s : State) (c : Ctx) (f : SlotF) : Nat :=
  let ty := f.mod.toNat % 4
  let m := guardMask (s.tile x.tile.val) c f
  (treeSum (fmtOf f) (if ty = 0 then 6 else 7) ((List.range (laneCount ty)).map (fun i =>
    if m.getLsbD (if ty = 0 then i else i / 2) then some (laneOf x s c f f.srcA i) else none))).getD 0

/-- What an `ARD` of bank `b` leaves (R88 to R92): the bank, the encoded elements under the mask, the scales of an MX format, the
generator's state. -/
def readOut (x : Issue) (s : State) (c : Ctx) (f : SlotF) (b : Bank) : CoreSt :=
  let r := b.ard (f.mod.toNat % 16) (f.imm.toNat % 32) (decide (f.mod.toNat / 16 % 4 = 1)) c.sr
  let k1 := ((coreOf x s c).setBank f.srcA b).writeV f.dst (mergeV (guardMask (s.tile x.tile.val) c f) (BitVec.ofNat 2048 r.value) (vOf x s c f.dst))
  let k2 := if isMX (f.mod.toNat % 16) then k1.writeS f.srcC (BitVec.ofNat 64 r.scales) else k1
  { k2 with c := { k2.c with sr := r.sr } }

/-- Whether a V store writes byte `j` (R55): its mask enables the byte's part, and the byte is inside the length. -/
def storesByte (x : Issue) (s : State) (c : Ctx) (f : SlotF) (j : Nat) : Prop :=
  (guardMask (s.tile x.tile.val) c f).getLsbD (j / 4) = true ∧ (f.dst ≠ 0xFF → j < (sOf x s c f.dst).toNat)

/-- The rota entry a send names injects (R111). -/
def injectsHere (x : Issue) (s : State) (f : SlotF) : Prop := (s.tile x.tile.val).injects (f.imm.toNat % 256) = true

/-- The token of a send (R56, R104, R105). -/
def sentToken (x : Issue) (s : State) (c : Ctx) (f : SlotF) (payload : Nat) : Token :=
  mkToken (mkHeader (fieldN f.imm.toNat 33 3) (c.tag + fieldN f.imm.toNat 24 9) (s.tile x.tile.val).regs.epoch (fieldN f.imm.toNat 8 15))
    (BitVec.ofNat 256 payload)

/-- A send to the tile's own queue: the tile, and the fault that the entry raises, if any (R56). -/
def ownQueue (x : Issue) (s : State) (c : Ctx) (f : SlotF) (payload : Nat) : Tile × Option (Nat × Nat) :=
  (s.tile x.tile.val).enqueue (fieldN f.imm.toNat 8 4) (sentToken x s c f payload)

/-- A send has entered the turn register of its rota entry (R110). -/
def inTurnRegister (x : Issue) (s : State) (c : Ctx) (f : SlotF) (payload : Nat) : CoreSt :=
  let t := s.tile x.tile.val
  let en := f.imm.toNat % 256
  ⟨{ t with tregs := SMap.set none t.tregs (rotaTreg (t.rotaAt en)) (some ⟨sentToken x s c f payload, en⟩) }, c⟩

/-- The payload of a run of four S registers; 0xFF reads as zero. -/
def runOf4 (x : Issue) (s : State) (c : Ctx) (r : BitVec 8) : Nat :=
  match regIx r with
  | .s _ => ofLanes 64 4 (fun j => (sOf x s c (r + BitVec.ofNat 8 j)).toNat)
  | _ => 0

/-- The bound token a `RECV` reads: of its queue, the one `IMM`[3:0] names under rule GATHER and the first otherwise (R42). -/
def boundTok (x : Issue) (s : State) (c : Ctx) (f : SlotF) : Option BoundTok :=
  (c.bound.filter (fun b => b.queue == f.srcA.toNat - 0xD0))[if (trigOfCtx x s c).rule = 3 then f.imm.toNat % 16 else 0]?

/-- The iteration count of a `LOOP`: its S register, or the immediate where `SRCA` is 0xFF (R49). -/
def loopCount (x : Issue) (s : State) (c : Ctx) (f : SlotF) : Nat :=
  if f.srcA = 0xFF then f.imm.toNat % 2 ^ 32 else (sOf x s c f.srcA).toNat

/-- The plot of the tile, if it has one, has a yield record for point `n` of its section (Table 5-5). -/
def hasPoint (x : Issue) (s : State) (n : Nat) : Prop :=
  ∀ b p, (s.tile x.tile.val).lead = some b → s.plot b = some p → p.hasYield n = true

/-- The context is parked at yield point `n` (R61), at the word that follows. -/
def parkedAt (x : Issue) (s : State) (c : Ctx) (n : Nat) : State :=
  endCheck x s c (issued x s { coreOf x s c with c := { c with
    state := .yielded, held := none, yieldPoint := n, pc := (loopEnd c.pc c.loops).1, loops := (loopEnd c.pc c.loops).2 } })

/-- The semaphore counter that `IMM`[4:0] names, changed. -/
def semStep (x : Issue) (s : State) (c : Ctx) (f : SlotF) (g : Nat → Nat) : CoreSt :=
  let t := s.tile x.tile.val
  ⟨{ t with sem := SMap.upd 0 t.sem (f.imm.toNat % 32) g }, c⟩

/-! Events of a tile, of the canal and of the cisterns. -/

/-- The firings that the entries of a tile allow, in firing order (R39, R41). -/
def satisfied (t : Tile) : List Firing := t.fireOrder.filterMap t.firing

/-- The first of them whose resources are free (R32, R34, R41). -/
def nextFiring (t : Tile) : Option Firing := (satisfied t).find? (fun f => t.hasRoom (t.trigAt f.entry))

/-- A firing repeats the entry and tag of a live context under a rule that forbids it (R40). -/
def repeated (t : Tile) (f : Firing) : Prop :=
  ((t.trigAt f.entry).rule = 0 ∨ (t.trigAt f.entry).rule = 2) ∧ t.live.any (fun kc => kc.2.entry == f.entry && kc.2.tag == f.tag) = true

/-- The tile after a cycle in which a satisfied entry, if any, lacked its resources: the wait is counted (R32). -/
def waited (t : Tile) : Tile :=
  if (satisfied t).any (fun f => !t.hasRoom (t.trigAt f.entry)) then t.updRegs (fun r => { r with waitCnt := satAdd 48 r.waitCnt 1 }) else t

/-- The trigger unit of tile `g` fires `f` into context slot `k` (R40, R41): the tile may fire, every valid entry fits its rule,
`f` is the first satisfied entry with room and repeats no live context, `k` is the lowest free slot. -/
def fires (s : State) (g : Nat) (f : Firing) (k : Nat) : Prop :=
  (s.tile g).mayFire = true ∧ (s.tile g).badEntry = none ∧ nextFiring (s.tile g) = some f ∧ ¬ repeated (s.tile g) f ∧ (s.tile g).freeSlot = some k

/-- The tile after that: its tokens are bound, the context stands in its slot and owns the banks of its entry, the firing is counted. -/
def firedTile (s : State) (g : Nat) (f : Firing) (k : Nat) : Tile :=
  let e := (s.tile g).trigAt f.entry
  let t := ((waited (s.tile g)).bindToks f.toks).setCtx k (some (newCtx (s.tile g) f e (s.seedFor g f)))
  { t with
    a0 := { t.a0 with owner := if e.own0 then some k else t.a0.owner }
    a1 := { t.a1 with owner := if e.own1 then some k else t.a1.owner }
    regs := { t.regs with fireCnt := satAdd 48 t.regs.fireCnt 1 } }

/-- The tile after context `c` of slot `k` has retired (R34, R42, R43): its slot, tokens and banks are free, its tags are marked, `OLD` has
moved on, and with the last context of a draining tile the drain is done. -/
def retiredTile (t : Tile) (k : Nat) (c : Ctx) : Tile :=
  let tags := if (t.trigAt c.entry).rule = 3 then c.bound.map (fun b => b.tok.tag) else [c.tag]
  let u := Tile.advanceOld c.entry 512 (tags.foldl (fun t g => t.markRetired c.entry g) ((t.setCtx k none).freeToks c.bound))
  { u with a0 := u.a0.disown k, a1 := u.a1.disown k, regs := { u.regs with drained := u.fireStop && u.live.isEmpty } }

/-- A tile asked to yield whose live contexts are all parked, not yet done (R62). -/
def allYielded (t : Tile) : Prop :=
  t.regs.yieldReq = true ∧ t.regs.yieldDone = false ∧ (t.live.all (fun kc => kc.2.state == .yielded)) = true

/-- The tile once that is noted. -/
def parkedTile (t : Tile) : Tile := { t with regs := { t.regs with yieldDone := true, state := .parked } }

/-- A quick self-test of one tile is recorded, and its mark for retest goes when it passes (R69). -/
def retested (s : State) (g : Nat) (fails : BitVec 7) (us : BitVec 16) : State :=
  if fails.toNat % 32 = 0 ∧ bitB fails.toNat 6 = false then
    (s.selfTestTile g false fails.toNat us.toNat).updTile g (fun t => { t with regs := { t.regs with retest := false } })
  else s.selfTestTile g false fails.toNat us.toNat

/-- A tile whose turn register of entry `turn` has sent its token (R110). -/
def leftTurnRegister (t : Tile) (turn : Nat) : Tile :=
  { t with
    tregs := SMap.set none t.tregs (rotaTreg (t.rotaAt turn)) none
    regs := { t.regs with tokenOut := satAdd 48 t.regs.tokenOut 1 } }

/-- An output of the entry of a turn takes the tokens of an input (R109). -/
def routed (t : Tile) (port turn : Nat) : Bool := (List.range 6).any (fun o => rotaSrc (t.rotaAt turn) o == port + 1)

/-- A token on an input passes it (R102, R106, R114): the port is on, the tile neither fenced nor in an image load, some output takes it, and
across a die edge its CRC holds. -/
def passesIn (s : State) (g port turn : Nat) (tok : Token) : Prop :=
  (s.tile g).portOn port = true ∧ (s.tile g).regs.fenceFull = false ∧ s.loadingAt g = false ∧ routed (s.tile g) port turn = true ∧
    (crossesDie g port = true → tok.crcOk = true)

/-- The oldest paired data token whose turn register is free, with its entry (R126). -/
def nextPaired (t : Tile) : Option (MEntry × Nat) :=
  (t.matchStore.filterMap (fun m => m.paired.map (fun k => (m, k)))).find? (fun mk => (t.treg (rotaTreg (t.rotaAt mk.2))).isNone)

/-- The token `tok` is the next at the edge gate of an outward port, as the link disturbed it, the plot `p` led by block `b` has enabled the
gate, no image load runs, and `l` are the links without it (R118, R119). -/
def AtGate (s : State) (tile : Fin 4096) (port : Fin 4) (flip : BitVec 304) (tok : Token) (b : Nat) (p : Plot) (l : List Flight) : Prop :=
  (∃ t, takeFlight (4 * tile.val + port.val) true s.flights = some (t, l) ∧ tok = t.disturb flip) ∧
    ({ s with flights := l } : State).gatePlot (4 * tile.val + port.val) = some (b, p) ∧
    ({ s with flights := l } : State).loadingAt tile.val = false

/-- The queue a token at a gate names (R251). -/
def gateQueue (tile : Fin 4096) (p : Plot) (tok : Token) : Nat := p.queueNum (tileQuad tile.val) (tok.qsel % 256)

/-- The queue of a gate's window stream (R261). -/
def streamQueue (tile : Fin 4096) (p : Plot) (i : Nat) : Nat := p.queueNum (tileQuad tile.val) (leAt p.plat (p.streamRec i + 0x16) 2)

/-- A `SET_MODE` would change `PARK` of a queue that is not empty (R261). -/
def parkMoves (s : State) (tile : Fin 4096) (p : Plot) (tok : Token) : Bool :=
  let c := s.cistern (tileQuad tile.val)
  let n := gateQueue tile p tok
  bitB (tok.payload.toNat % 256) 1 != (c.queue n).park && !((c.queue n).pkts.isEmpty && !c.building.any (fun y => y.queue == n))

/-- A gate is in the turn of window record `i` of a plot that runs (R261). -/
def openWindow (s : State) (tile : Fin 4096) (port : Fin 4) (turn : Fin 256) (b : Nat) (p : Plot) (i : Nat) : Prop :=
  s.gatePlot (4 * tile.val + port.val) = some (b, p) ∧ (p.state = .running ∨ p.state = .yielding) ∧ p.window (4 * tile.val + port.val) turn.val = some i

/-- A queue with the mode a `SET_MODE` payload gives it (Table 9-4). -/
def withMode (x : CQueue) (n : Nat) : CQueue :=
  { x with stall := bitB (n % 256) 0, park := bitB (n % 256) 1, latOut := bitB (n % 256) 2, deliv := n / 256 % 32 }

/-! Events of a plot. -/

/-- The plot led by block `b` is in a forced switch raised with a cause, and its fault record holds that cause unless an older fault
stands there (R150 step 1, R151). -/
def forcedBy (s t : State) (b cause : Nat) : Prop :=
  (∃ q, t.plot b = some q ∧ q.state = .forcing ∧ q.forceCause = cause ∧ q.loading = false) ∧ (t.block b).regs.fault.valid = true ∧
    ((s.block b).regs.fault.valid = false → (t.block b).regs.fault.cause = cause) ∧
    (t.block b).regs.forceCnt = satAdd 32 (s.block b).regs.forceCnt 1 ∧ t.hic.pend.getLsbD (16 + b) = true

/-- The tokens left in the tiles of a plot when its drain has ended (R147). -/
def leftTokens (s : State) (p : Plot) : Nat := p.tiles.foldl (fun a g => a + (s.tile g).tokens) 0

/-- Whether the plot's section is the last of its step (R142, Table 5-3). -/
def lastSect (p : Plot) : Bool := bitB (p.sectField p.sect 1 1) 0

/-- A finished switch of a plot to section `n` is counted, with its length and that of its drain, and `END_REMAIN` is the section's
(Table 5-12). -/
def switchCounted (s t : State) (b : Nat) (p : Plot) (n : Nat) : Prop :=
  (t.block b).regs = { (s.block b).regs with
    endRemain := p.sectField n 0xC 4
    switchCnt := satAdd 48 (s.block b).regs.switchCnt 1
    switchLast := min (233 + p.drain) 65535
    switchLastD := min p.drain 65535
    switchMax := max (s.block b).regs.switchMax (min (233 + p.drain) 65535) }

/-- A plot whose forced switch has no side to end: it runs no task, no request waits for a retry, it is not to be released, and no
degradation waits for it. -/
def quietForce (s : State) (p : Plot) : Prop := p.state = .forcing ∧ p.task = none ∧ p.release = false ∧ s.fab.agree = []

/-! Events of a sluice engine. -/

/-- An engine with no command in a place or waiting, whose ring is not read. -/
def idleEngine (x : Engine) : Prop := x.statics = [] ∧ x.dyn = [] ∧ x.flight = [] ∧ x.enable = false

/-- An engine whose 32 places are taken, and whose ring is not read. -/
def fullEngine (x : Engine) : Prop := 32 ≤ x.flight.length ∧ x.enable = false

/-- The state in which a command has taken its semaphore (R189). -/
def tookSem (s : State) (c : SlCmd) : State :=
  s.updTile c.semTile (fun t => { t with sem := SMap.set 0 t.sem c.takeSem (SMap.get 0 (s.tile c.semTile).sem c.takeSem - 1) })

/-- The state in which a done command has left its place, with its interrupt where it asks for one (R179 step 5, R184). -/
def leftPlace (s : State) (e : Nat) (c : SlCmd) : State :=
  if c.irq then (s.updEngine e (fun x => x.leave c s.now)).signal (80 + e) else s.updEngine e (fun x => x.leave c s.now)

/-- The state in which a failed recalibration of a stack is recorded (R174, R169). -/
def recalFailed (s : State) (stack : Fin 24) : State :=
  (s.updQuad (stack.val / 6) (fun m => { m with
    surveyFail := setBitN m.surveyFail (stack.val % 6)
    recalFails := SMap.set 0 m.recalFails (stack.val % 6) (SMap.get 0 (s.quad (stack.val / 6)).recalFails (stack.val % 6) + 1) })).post
      false 0x05 0x03 0 0xFFFF (stack.val / 6) (BitVec.ofNat 64 stack.val)

/-- A command in its place that is done or has failed. -/
def doneCmd (x : Engine) (index : Nat) (c : SlCmd) : Prop :=
  x.flight.find? (fun c => c.idx == index && (match c.phase with
    | .done => true
    | .failed _ _ _ _ => true
    | _ => false)) = some c

/-- The repeat `k` of stream record `i` of a plot may be released: the plot runs a task, and the record is one of the section that runs
up to the image-load broadcast, or carries on (R186, R187). -/
def released (p : Plot) (i k : Nat) : Prop :=
  p.task.isSome = true ∧ (p.state = .running ∨ p.state = .switching ∨ p.state = .yielding) ∧ leAt p.plat (p.streamRec i) 1 = 0 ∧
    k ≤ leAt p.plat (p.streamRec i + 0x10) 4 ∧
    ((p.sectField p.sect 0x14 4 ≤ i ∧ i < p.sectField p.sect 0x14 4 + p.sectField p.sect 0x18 4 ∧ (p.loading = false ∨ p.carries i = true)) ∨
      p.carried.contains i = true)

/-! Events of a lateral engine. -/

/-- The items of the packet at the head of a queue, as bytes (R254, R262). -/
def headPacket (s : State) (q n : Nat) : List Bytes := (s.peekPacket q n).map (fun x => toLe 32 x.2.toNat)

/-- The kind of a packet: the first byte of its record (Tables 9-7 and 11-2). -/
def packetKind (items : List Bytes) : Nat := ((items.headD []).headD 0).toNat

/-- The state in which lateral engine `e` has taken the packet at the head of a queue for table `t`, and the turn has passed on. -/
def tookPacket (s : State) (e t q n : Nat) : State :=
  ((s.latTurn e t q n).popPacket q n 1025).1

/-- Lateral engine `e` comes to a whole packet for table `t` in a queue, and can read it. -/
def comesTo (s : State) (e t q n : Nat) : Prop := s.latNext e (fun k => !k.pkts.isEmpty) = some (t, q, n) ∧ s.packetUe q n = none

/-- A packet that lateral engine `e` comes to holds an uncorrectable word at Field key `u` (R275): the word is counted and the plot forced. -/
def badPacket (s : State) (e t q n u : Nat) : State :=
  ((s.latTurn e t q n).countTier 7 ((s.latTurn e t q n).boardAddr u)).cistFault q 0x05 n (0x40 + e) (some ((s.lateral e).table t).lead)

/-- A route record's checks (Table 9-7, Table 9-9): the kind, the number of experts, the flags and the length of the packet. -/
def routeRecordOk (items : List Bytes) : Prop :=
  leAt (items.headD []) 0 1 = 1 ∧ 2 ≤ leAt (items.headD []) 2 1 ∧ leAt (items.headD []) 2 1 ≤ 64 ∧ leAt (items.headD []) 1 1 / 16 = 0 ∧
    1 + ceilDiv (leAt (items.headD []) 2 1) 16 ≤ items.length

/-- The table a gather record names (Table 11-2). -/
def gatherTable (items : List Bytes) : Nat := leAt (items.headD []) 2 2 % 1024

/-- A gather record that passes every check of R311: its counts, format, offset, lengths and place, its table, and its output. -/
def goodGather (s : State) (r : RTable) (p : Plot) (items : List Bytes) : Prop :=
  let hd := items.headD []
  let nb := leAt hd 4 2
  let nidx := leAt hd 6 2
  let ent := s.tableEnt (gatherTable items)
  let nl := ceilDiv nb 16
  let lb := ((items.drop 1).take nl).flatMap id
  let padded := nb * outCols ent.elems (codeBits (leAt hd 8 1) / 8) * (codeBits (leAt hd 8 1) / 8)
  s.plot r.lead = some p ∧ 1 ≤ nb ∧ nb ≤ 256 ∧ nidx ≤ 4000 ∧ (leAt hd 8 1 = 0 ∨ leAt hd 8 1 = 0xA ∨ leAt hd 8 1 = 0xB) ∧
    leAt hd 0x10 4 % 64 = 0 ∧ ((List.range nb).map (fun k => leAt lb (2 * k) 2)).foldl (fun a b => a + b) 0 = nidx ∧
    (items.drop 1).length = nl + ceilDiv nidx 8 + (if leAt hd 1 1 % 4 = 3 then ceilDiv nidx 8 else 0) ∧
    leAt hd 0xC 2 / 64 < 8 * p.rows ∧ leAt hd 0xC 2 % 64 < 8 * p.cols ∧ ent.valid = true ∧ ent.model = p.model ∧
    leAt hd 0x10 4 + 64 + padded + 32 * ceilDiv nb 32 ≤ p.env 0x10 4 ∧ padded ≤ maxPayload

/-! Management messages. -/

/-- A management message that this module takes and has not seen before (R403). -/
def mgmtFresh (s : State) (m : MgmtIn) : Prop :=
  (m.netB = true → (s.box 0).key ≠ none) ∧ s.fab.mgmtSeen.contains (m.src.toNat, m.id.toNat) = false

/-- A management message that this module takes and has seen before (R402, R403). -/
def mgmtAgain (s : State) (m : MgmtIn) : Prop :=
  (m.netB = true → (s.box 0).key ≠ none) ∧ s.fab.mgmtSeen.contains (m.src.toNat, m.id.toNat) = true

/-- A datagram of the management port that fails authentication is counted (R403). -/
def mgmtBad (s : State) : State := { s with mail := { s.mail with mgmtFail := satAdd 64 s.mail.mgmtFail 1 } }

/-- A management message is acknowledged (R402). -/
def mgmtAcked (s : State) (m : MgmtIn) : State := s.mgmtEmit m.src.toNat m.id.toNat m.netB [0]

/-- A management message is acknowledged, and known from now on (R402). -/
def mgmtSeenNow (s : State) (m : MgmtIn) : State :=
  (mgmtAcked s m).updFab (fun f => { f with mgmtSeen := f.mgmtSeen ++ [(m.src.toNat, m.id.toNat)] })

/-! Requests. -/

/-- A request passes check 1 and 2 of Table 1-5: its parcel is enabled, and its model lets it ask. -/
def mayAsk (s : State) (r : Req) (m : Model) : Prop :=
  (s.parcel r.parcel).state = .enabled ∧ s.modelOf r.model = some m ∧ m.stepTokens ≠ 0 ∧ m.allows r.parcel = true ∧
    (m.state = .ready ∨ m.state = .filling ∨ m.state = .filled)

/-- The adapter version a request binds: none with no adapter, else the current one (R244). -/
def bindsVersion (s : State) (r : Req) (v : Nat) : Prop :=
  (r.adapter = 0 ∧ v = 0) ∨ (r.adapter ≠ 0 ∧ s.bindAdapter r.adapter r.parcel r.model = some v)

/-- The prefix a request starts behind, as its table index and 1, and the positions it covers; 0 and 0 with no prefix (R301). -/
def startsAt (s : State) (r : Req) (v p l : Nat) : Prop :=
  (r.prefixH = 0 ∧ p = 0 ∧ l = 0) ∨
    (r.prefixH ≠ 0 ∧ ∃ i, s.bindPrefix r.prefixH r.parcel r.model r.adapter v = some i ∧ p = i + 1 ∧ l = (s.prefixAt i).len)

/-- A request has not started when its deadline has passed in valid module time (R27, R328). -/
def missedDeadline (s : State) (r : Req) : Prop :=
  s.time.valid = true ∧ r.started = false ∧ (r.state = .admitting ∨ r.state = .queued) ∧ r.deadline ≠ 2 ^ 64 - 1 ∧ r.deadline < s.now

/-! Edush requests. -/

/-- The state in which a request is executed: its number is consumed, its source is the address of the events (R359, R363, R364). -/
def accepted (s : State) (r : EdReq) : State :=
  let s0 := s.at' r.mail.now
  let p := r.mail.parcel.toNat
  let b := (s0.box p).accept r.mail.seq.toNat
  ((s0.setBox p { b with addr := some ⟨r.mail.srcIp, r.mail.srcUdp, r.mail.port.val⟩ }).nextFloor p).flushEvents p

/-- A request whose number is new and need not wait for a floor, with a good head and tag, on a module that runs (checks 1 to 3 of
Table 13-4). -/
def comesThrough (s : State) (r : EdReq) : Prop :=
  let s0 := s.at' r.mail.now
  let p := r.mail.parcel.toNat
  s.power.mode ≠ .off ∧ s.power.mode ≠ .starting ∧ mailHeadOk r.mail = true ∧ s0.authentic r = true ∧
    s.mail.setAside = [] ∧ (s0.box p).isNew r.mail.seq.toNat = true ∧ s0.mustWait p r.mail.seq.toNat = false

/-- A request that passes every check of Table 13-4; one that needs `SERVE` comes to a module that serves and stays so (R445). -/
def passes (s : State) (r : EdReq) : Prop :=
  comesThrough s r ∧ (accepted s r).edCheck r = 0 ∧
    (waitsServe r.op = true → (accepted s r).power.mode = .serve ∧ (accepted s r).power.going = none)

/-- Whether the handles of an existing ring overlap the slots `base` up to `base` + `n` (R372). -/
def ringsOverlap (s : State) (base n : Nat) : Prop :=
  ∃ x, x ∈ s.serve.rings ∧ x.2.state ≠ 0 ∧ base < x.2.handleBase + x.2.size ∧ x.2.handleBase < base + n

/-- The entries of all rings, and the rings of a parcel (Table 12-1). -/
def slotsHeld (s : State) : Nat := (s.serve.rings.filter (fun x => x.2.state != 0)).foldl (fun n x => n + x.2.size) 0
def ringsOf (s : State) (p : Nat) : Nat := ((s.serve.rings.filter (fun x => x.2.state != 0)).filter (fun x => x.2.owner == p)).length

/-- The next state of a request: its effect and its answer. -/
def answered (s : State) (r : EdReq) (x : State) (a : Ans) : Host.Outcome State Fault Refusal := .next ((accepted s r).finish r (x, a))

/-- The plan a `TOPOLOGY_PLAN_SET` payload gives: for each port the far end it names, or none (Table 13-5). -/
def planOf (l : Bytes) : List (Option PlanRec) :=
  (List.range 12).map (fun i =>
    if leAt l (0x10 + 16 * i + 0xA) 1 = 1 then some ⟨leAt l (0x10 + 16 * i) 8, leAt l (0x10 + 16 * i + 8) 1, leAt l (0x10 + 16 * i + 9) 1⟩ else none)

/-! Links. -/

/-- Port `i` holds the benchmark word it has received (R391). -/
def heard (s : State) (i serial slot far step : Nat) : State :=
  s.updFport i (fun p => { p with benchSerial := serial, benchSlot := slot, benchPort := far, benchStep := step, benchSeen := true })

/-- A benchmark word is the one the plan names for port `i`, of this stepping (R392). -/
def planned (s : State) (i serial slot far step : Nat) : Prop :=
  ∃ r, s.fab.planOf i = some r ∧ r.serial = serial ∧ r.slot = slot ∧ r.port = far ∧ step = 1

/-- The plan of port `i` names a far end, and its link is not `UP` (R393). -/
def missingLink (s : State) (i : Nat) : Prop := (s.fab.planOf i).isSome = true ∧ (s.fport i).state ≠ .up

/-- The modules this one knows of by its links and by the lists it has been sent, itself left out (R395). -/
def knownModules (s : State) : List Nat :=
  (s.ownNbrs ++ s.fab.nbrs.flatMap (fun n => n.serial :: n.list)).eraseDups.filter (fun d => d != ownSerial)

/-! Self-tests. -/

/-- The plots without a task whose fences no longer fit their plats have been released (R136). -/
def refits (s : State) : State :=
  (List.range 64).foldl (fun (y : State) b => match y.plot b with
    | some p => if p.task.isNone then y.refit b p else y
    | none => y) s

/-! Messages of the fabric. -/

/-- The items of a `QUEUE_LINK` (R401). -/
def queueItems (m : MsgIn) : List Bytes := (List.range (m.data.length / 32)).map (fun i => slice m.data (32 * i) 32)

/-- The place a `CHAN_WRITE` writes at: the channel's window by its record at offset `r` of the plat, at the message's offset (R400). -/
def chanAddr (s : State) (m : MsgIn) (p : Plot) (r : Nat) : Nat :=
  (s.relocate p (leAt p.plat (r + 6) 1) (leAt p.plat (r + 0x14) 2) (leAt p.plat (r + 8) 8 % 2 ^ 52) + m.addr.toNat % 2 ^ 32) % 2 ^ 52

/-- A `CHAN_WRITE` on a channel bound for input, with the plot, its record, and its bytes inside the window (R400). -/
def boundChan (s : State) (m : MsgIn) (c : ChanBind) (p : Plot) (r : Nat) : Prop :=
  s.fab.chans.find? (fun c => !c.out && c.channel == m.channel.toNat && c.peer == m.src.toNat) = some c ∧ s.plot c.lead = some p ∧
    (s.fabRecs p).find? (fun r => leAt p.plat r 1 == 1 && leAt p.plat (r + 2) 2 == m.channel.toNat) = some r ∧
    m.addr.toNat % 2 ^ 32 + m.data.length ≤ leAt p.plat (r + 0x10) 4 ∧ s.unmapped (chanAddr s m p r) m.data.length = none ∧
    s.mayTouch (some c.lead) 0 (chanAddr s m p r) m.data.length true = true

/-! Whole-machine frames. -/

/-- The commands of the interrupt controller, the policy modules, the field book, the store, power sensing, the ports and the register
file, which reach no memory and no token. -/
def leavesMemory (c : Instr) : Bool :=
  match c with
  | .hicSourceEvent _ => true
  | .hicTake _ => true
  | .hicEoi _ _ => true
  | .hicSwi _ => true
  | .hicPendWrite _ _ _ _ => true
  | .heartbeatTimeout _ _ => true
  | .fieldbookEventPost _ _ _ _ _ _ _ => true
  | .logPageWrite _ => true
  | .logFlushTimer _ => true
  | .auxiliaryInputReturn _ => true
  | .storeCommit _ => true
  | .storeCommitComplete _ _ => true
  | .policyTick _ _ => true
  | .policyStarve _ _ => true
  | .policyStep _ _ => true
  | .policyBudgetOverrun _ => true
  | .polCounters _ _ => true
  | .polPlots _ _ => true
  | .polShare _ _ _ => true
  | .polPreempt _ _ => true
  | .polWeight _ _ _ _ => true
  | .polDone _ => true
  | .powerCapTick _ _ _ _ _ => true
  | .thermalSample _ _ => true
  | .frequencyChange _ _ => true
  | .brownoutEnter _ _ => true
  | .brownoutRelease _ _ => true
  | .precharge _ => true
  | .errorRecordClear _ _ => true
  | .counterReadClear _ => true
  | .registerWrite _ _ => true
  | .i3cMctpMessage _ => true
  | .neighbourRequest _ _ _ => true
  | .rdmaConnect _ _ _ => true
  | .eventResend _ _ _ => true
  | .signatureComplete _ => true
  | .activationUndo _ => true
  | .holdoverExpire _ => true
  | _ => false

end Sys2Proof.Machine
end

