-- ==== Sys2Proof/Certificates/Slice0/Obligations.lean ====
section
/-! DEFINITION. The statements for the provers. Each says of exec, of step or of a named operation what the rules of the spec say; a
statement that rests on a choice of the model names its log entry. -/

open Sys2Proof Sys2Proof.Machine

/-- A scalar operation of slot 4 writes its 64-bit result to its S register where its guard holds. For SLI, SADD, SSUB,
SMUL, SAND, SOR, SXOR, SSHL, SSHR and SSRA alone in a word that can issue: exec answers the next state in which the S
register named by DST holds the result (the immediate; sum, difference, product modulo 2^64; and, or, exclusive or;
shifts by the low 6 bits), SRCB = 0xFF taking the immediate and DST = 0xFF discarding; where the guard bit 0 is clear
no register changes. The context is READY at the next word (where that lies outside its block the word has taken
effect and BRANCH_RANGE is raised), the tile counts one issued word, and nothing else of the state changes. (R46, R47,
R49, 02_tile_core.md Table 2-10.) -/
def Obligations.ScalarOperationsWriteTheirResult : Prop :=
  (∀ (x : Issue) (f : SlotF) (s : State) (c : Ctx), Runs x 4 1 f s c → exec (.sli x f) s = done x s c (whole x s c f ((coreOf x s c).writeS f.dst (f.imm)))) ∧
  (∀ (x : Issue) (f : SlotF) (s : State) (c : Ctx), Runs x 4 2 f s c → exec (.sadd x f) s = done x s c (whole x s c f ((coreOf x s c).writeS f.dst (sOf x s c f.srcA + sOrImm x s c f)))) ∧
  (∀ (x : Issue) (f : SlotF) (s : State) (c : Ctx), Runs x 4 3 f s c → exec (.ssub x f) s = done x s c (whole x s c f ((coreOf x s c).writeS f.dst (sOf x s c f.srcA - sOrImm x s c f)))) ∧
  (∀ (x : Issue) (f : SlotF) (s : State) (c : Ctx), Runs x 4 4 f s c → exec (.smul x f) s = done x s c (whole x s c f ((coreOf x s c).writeS f.dst (sOf x s c f.srcA * sOrImm x s c f)))) ∧
  (∀ (x : Issue) (f : SlotF) (s : State) (c : Ctx), Runs x 4 5 f s c → exec (.sand x f) s = done x s c (whole x s c f ((coreOf x s c).writeS f.dst (sOf x s c f.srcA &&& sOrImm x s c f)))) ∧
  (∀ (x : Issue) (f : SlotF) (s : State) (c : Ctx), Runs x 4 6 f s c → exec (.sor x f) s = done x s c (whole x s c f ((coreOf x s c).writeS f.dst (sOf x s c f.srcA ||| sOrImm x s c f)))) ∧
  (∀ (x : Issue) (f : SlotF) (s : State) (c : Ctx), Runs x 4 7 f s c → exec (.sxor x f) s = done x s c (whole x s c f ((coreOf x s c).writeS f.dst (sOf x s c f.srcA ^^^ sOrImm x s c f)))) ∧
  (∀ (x : Issue) (f : SlotF) (s : State) (c : Ctx), Runs x 4 8 f s c → exec (.sshl x f) s = done x s c (whole x s c f ((coreOf x s c).writeS f.dst (sOf x s c f.srcA <<< ((sOrImm x s c f).toNat % 64))))) ∧
  (∀ (x : Issue) (f : SlotF) (s : State) (c : Ctx), Runs x 4 9 f s c → exec (.sshr x f) s = done x s c (whole x s c f ((coreOf x s c).writeS f.dst (sOf x s c f.srcA >>> ((sOrImm x s c f).toNat % 64))))) ∧
  (∀ (x : Issue) (f : SlotF) (s : State) (c : Ctx), Runs x 4 10 f s c → exec (.ssra x f) s = done x s c (whole x s c f ((coreOf x s c).writeS f.dst ((sOf x s c f.srcA).sshiftRight ((sOrImm x s c f).toNat % 64)))))

/-- A predicate operation writes its result bits where its mask enables them and keeps the others. For SCMP, PAND, POR,
PXOR, PNOT, PRANGE and VCMP alone in a word that can issue: exec answers the next state in which the P register named
by DST holds the result bits where the mask is 1 and its old bits elsewhere: the signed comparison in every bit
(SCMP), the bitwise operation, the bits i with lo <= i < hi (PRANGE), the lane comparisons (VCMP, a 16-bit type taking
the even or odd lane of each pair). The clamping of PRANGE bounds to 0..64 is the model reading of log entry 7.
Nothing else of the state changes but the context going on and the count of issued words. (R47, 02_tile_core.md Tables
2-6a and 2-10.) -/
def Obligations.PredicateOperationsWriteUnderTheMask : Prop :=
  (∀ (x : Issue) (f : SlotF) (s : State) (c : Ctx), Runs x 4 11 f s c → exec (.scmp x f) s = done x s c (setP x s c f (if condHolds (f.mod.toNat / 16 % 8) (sOf x s c f.srcA).toInt (sOf x s c f.srcB).toInt then BitVec.allOnes 64 else 0))) ∧
  (∀ (x : Issue) (f : SlotF) (s : State) (c : Ctx), Runs x 4 21 f s c → exec (.pand x f) s = done x s c (setP x s c f (pOf x s c f.srcA &&& pOf x s c f.srcB))) ∧
  (∀ (x : Issue) (f : SlotF) (s : State) (c : Ctx), Runs x 4 22 f s c → exec (.por x f) s = done x s c (setP x s c f (pOf x s c f.srcA ||| pOf x s c f.srcB))) ∧
  (∀ (x : Issue) (f : SlotF) (s : State) (c : Ctx), Runs x 4 23 f s c → exec (.pxor x f) s = done x s c (setP x s c f (pOf x s c f.srcA ^^^ pOf x s c f.srcB))) ∧
  (∀ (x : Issue) (f : SlotF) (s : State) (c : Ctx), Runs x 4 24 f s c → exec (.pnot x f) s = done x s c (setP x s c f (~~~ (pOf x s c f.srcA)))) ∧
  (∀ (x : Issue) (f : SlotF) (s : State) (c : Ctx), Runs x 4 25 f s c → exec (.prange x f) s = done x s c (setP x s c f (BitVec.ofNat 64 (ofLanes 1 64 (fun i => if max 0 (min 64 (sOf x s c f.srcA).toInt) ≤ i ∧ i < max 0 (min 64 (sOf x s c f.srcB).toInt) then 1 else 0))))) ∧
  (∀ (x : Issue) (f : SlotF) (s : State) (c : Ctx), Runs x 3 13 f s c → exec (.vcmp x f) s = done x s c (setP x s c f (BitVec.ofNat 64 (ofLanes 1 64 (fun i => if (fmtOf f).cmp (f.mod.toNat / 16 % 8) (laneOf x s c f f.srcA (cmpLane f i)) (laneOf x s c f f.srcB (cmpLane f i)) then 1 else 0)))))

/-- VFMA, VADD, VSUB and VMUL give each lane the exact result encoded once; VMAX and VMIN the number chosen. For the six
operations alone in a word that can issue: exec answers the next state in which every lane of the V register named by
DST that the mask enables holds the operation on the lanes of the sources, decoded exactly and encoded once; the other
lanes and the rest of the state are unchanged, the context goes on and the tile counts the word. (R47, R95, R96,
03_arithmetic.md Table 3-8, 02_tile_core.md Table 2-10.) -/
def Obligations.LaneArithmeticRoundsEachLaneOnce : Prop :=
  (∀ (x : Issue) (f : SlotF) (s : State) (c : Ctx), Runs x 3 1 f s c → exec (.vfma x f) s = done x s c (setLanes x s c f (fun i => (fmtOf f).encode ((((fmtOf f).decode (laneOf x s c f f.srcA i)).mul ((fmtOf f).decode (laneOf x s c f f.srcB i))).add ((fmtOf f).decode (laneOf x s c f f.srcC i)))))) ∧
  (∀ (x : Issue) (f : SlotF) (s : State) (c : Ctx), Runs x 3 2 f s c → exec (.vadd x f) s = done x s c (setLanes x s c f (fun i => (fmtOf f).encode (((fmtOf f).decode (laneOf x s c f f.srcA i)).add ((fmtOf f).decode (laneOf x s c f f.srcB i)))))) ∧
  (∀ (x : Issue) (f : SlotF) (s : State) (c : Ctx), Runs x 3 3 f s c → exec (.vsub x f) s = done x s c (setLanes x s c f (fun i => (fmtOf f).encode (((fmtOf f).decode (laneOf x s c f f.srcA i)).add ((fmtOf f).decode (laneOf x s c f f.srcB i)).neg)))) ∧
  (∀ (x : Issue) (f : SlotF) (s : State) (c : Ctx), Runs x 3 4 f s c → exec (.vmul x f) s = done x s c (setLanes x s c f (fun i => (fmtOf f).encode (((fmtOf f).decode (laneOf x s c f f.srcA i)).mul ((fmtOf f).decode (laneOf x s c f f.srcB i)))))) ∧
  (∀ (x : Issue) (f : SlotF) (s : State) (c : Ctx), Runs x 3 5 f s c → exec (.vmax x f) s = done x s c (setLanes x s c f (fun i => (fmtOf f).maxNum (laneOf x s c f f.srcA i) (laneOf x s c f f.srcB i)))) ∧
  (∀ (x : Issue) (f : SlotF) (s : State) (c : Ctx), Runs x 3 6 f s c → exec (.vmin x f) s = done x s c (setLanes x s c f (fun i => (fmtOf f).minNum (laneOf x s c f f.srcA i) (laneOf x s c f f.srcB i))))

/-- The functions of Table 3-8, the conversion, the lane sum and the broadcast write their lanes. For VEXP2, VLOG2, VRCP,
VRSQ, VCVT, VRSUM, SFROMV and VBCAST alone in a word that can issue: exec answers the next state with the destination
written as the tables say (each lane its function; the converted lanes in the half that MOD[8] names; the tree sum of
the enabled lanes, in lane 0, the guard naming source lanes; one 64-bit lane to an S register; the low bits of an S
register in every lane), and nothing else changed but the context going on and the count. The last bits of the four
functions are free within the bound of R97 (log entry 3). (R95, R97, R98, 03_arithmetic.md Table 3-8, 02_tile_core.md
Table 2-10.) -/
def Obligations.LaneFunctionsAndConversionsWriteTheirLanes : Prop :=
  (∀ (x : Issue) (f : SlotF) (s : State) (c : Ctx), Runs x 3 7 f s c → exec (.vexp2 x f) s = done x s c (setLanes x s c f (fun i => vexp2 (laneOf x s c f f.srcA i)))) ∧
  (∀ (x : Issue) (f : SlotF) (s : State) (c : Ctx), Runs x 3 8 f s c → exec (.vlog2 x f) s = done x s c (setLanes x s c f (fun i => vlog2 (laneOf x s c f f.srcA i)))) ∧
  (∀ (x : Issue) (f : SlotF) (s : State) (c : Ctx), Runs x 3 9 f s c → exec (.vrcp x f) s = done x s c (setLanes x s c f (fun i => vrcp (laneOf x s c f f.srcA i)))) ∧
  (∀ (x : Issue) (f : SlotF) (s : State) (c : Ctx), Runs x 3 10 f s c → exec (.vrsq x f) s = done x s c (setLanes x s c f (fun i => vrsq (laneOf x s c f f.srcA i)))) ∧
  (∀ (x : Issue) (f : SlotF) (s : State) (c : Ctx), Runs x 3 11 f s c → exec (.vcvt x f) s = done x s c (setV x s c f (converted x s c f))) ∧
  (∀ (x : Issue) (f : SlotF) (s : State) (c : Ctx), Runs x 3 12 f s c → exec (.vrsum x f) s = done x s c ((coreOf x s c).writeV f.dst (BitVec.ofNat 2048 (laneSum x s c f)))) ∧
  (∀ (x : Issue) (f : SlotF) (s : State) (c : Ctx), Runs x 4 12 f s c → exec (.sfromv x f) s = done x s c (whole x s c f ((coreOf x s c).writeS f.dst (BitVec.ofNat 64 (laneAt 64 (vOf x s c f.srcA).toNat (f.imm.toNat % 32)))))) ∧
  (∀ (x : Issue) (f : SlotF) (s : State) (c : Ctx), Runs x 4 13 f s c → exec (.vbcast x f) s = done x s c (setV x s c f (ofLanes (8 * 2 ^ (f.mod.toNat % 4)) (2048 / (8 * 2 ^ (f.mod.toNat % 4))) (fun _ => (sOf x s c f.srcA).toNat))))

/-- VIADD, the lane logic operations, VPERM, VSEL and VMOV write their destination under the mask. For VIADD, VAND, VOR,
VXOR, VPERM, VSEL and VMOV alone in a word that can issue: exec answers the next state in which the V register named
by DST holds, where the mask enables, the 32-bit lane sums or logic results, the bytes of the first source that the
bytes of the second name, the lane of the first or the second source by the bit of P[SRCC], or the source; its other
parts and the rest of the state are unchanged, the context goes on and the tile counts the word. (R47, 02_tile_core.md
Table 2-10.) -/
def Obligations.IntegerLaneAndMoveOperationsWriteTheirLanes : Prop :=
  (∀ (x : Issue) (f : SlotF) (s : State) (c : Ctx), Runs x 4 14 f s c → exec (.viadd x f) s = done x s c (setV x s c f (ofLanes 32 64 (fun i => (BitVec.ofNat 32 (laneAt 32 (vOf x s c f.srcA).toNat i) + BitVec.ofNat 32 (laneAt 32 (vOf x s c f.srcB).toNat i)).toNat)))) ∧
  (∀ (x : Issue) (f : SlotF) (s : State) (c : Ctx), Runs x 4 15 f s c → exec (.vand x f) s = done x s c (setV x s c f (ofLanes 32 64 (fun i => (BitVec.ofNat 32 (laneAt 32 (vOf x s c f.srcA).toNat i) &&& BitVec.ofNat 32 (laneAt 32 (vOf x s c f.srcB).toNat i)).toNat)))) ∧
  (∀ (x : Issue) (f : SlotF) (s : State) (c : Ctx), Runs x 4 16 f s c → exec (.vor x f) s = done x s c (setV x s c f (ofLanes 32 64 (fun i => (BitVec.ofNat 32 (laneAt 32 (vOf x s c f.srcA).toNat i) ||| BitVec.ofNat 32 (laneAt 32 (vOf x s c f.srcB).toNat i)).toNat)))) ∧
  (∀ (x : Issue) (f : SlotF) (s : State) (c : Ctx), Runs x 4 17 f s c → exec (.vxor x f) s = done x s c (setV x s c f (ofLanes 32 64 (fun i => (BitVec.ofNat 32 (laneAt 32 (vOf x s c f.srcA).toNat i) ^^^ BitVec.ofNat 32 (laneAt 32 (vOf x s c f.srcB).toNat i)).toNat)))) ∧
  (∀ (x : Issue) (f : SlotF) (s : State) (c : Ctx), Runs x 4 18 f s c → exec (.vperm x f) s = done x s c (setV x s c f (ofLanes 8 256 (fun j => laneAt 8 (vOf x s c f.srcA).toNat (laneAt 8 (vOf x s c f.srcB).toNat j))))) ∧
  (∀ (x : Issue) (f : SlotF) (s : State) (c : Ctx), Runs x 4 19 f s c → exec (.vsel x f) s = done x s c (setV x s c f (mergeV (pOf x s c f.srcC) (vOf x s c f.srcA) (vOf x s c f.srcB)).toNat)) ∧
  (∀ (x : Issue) (f : SlotF) (s : State) (c : Ctx), Runs x 4 20 f s c → exec (.vmov x f) s = done x s c (setV x s c f (vOf x s c f.srcA).toNat))

/-- The matrix and accumulator operations act on the bank they name, when the context may use it. For MMA, MMAZ, ACLR,
AWIN, AADD, ARAW, ARD and AFLAG alone in a word that can issue, on a bank no other context owns: exec answers the next
state in which the bank holds what the operation leaves (an issued multiply queued behind the earlier ones; every
accumulator reset and the flags clear, with the new window for AWIN; a row of raw values added) and the destination
the row, the encoded elements or the flags, as the tables say; on a bank another context owns BANK_OWNED is raised and
nothing else changes; ACLR, AWIN, AADD and AFLAG do nothing where their guard is clear. MMA_LAND takes the oldest
issued multiply of a bank into it. Nothing else changes but the context going on and the count. (R34, R51, R57, R81,
R84, R85, R88, 03_arithmetic.md Table 3-6, 02_tile_core.md Table 2-8.) -/
def Obligations.MatrixOperationsActOnTheirBank : Prop :=
  (∀ (x : Issue) (f : SlotF) (s : State) (c : Ctx), Runs x 1 1 f s c → mayUse x s f.dst → exec (.mma x f) s = done x s c (((coreOf x s c).setBank f.dst { ((s.tile x.tile.val).bank f.dst) with pend := ((s.tile x.tile.val).bank f.dst).pend ++ [⟨f.mod.toNat % 16, f.mod.toNat / 16 % 16, vOf x s c f.srcA, vOf x s c f.srcB, vOf x s c f.srcC, f.mod.getLsbD 8, guardMask (s.tile x.tile.val) c f, false⟩] }))) ∧
  (∀ (x : Issue) (f : SlotF) (s : State) (c : Ctx), Runs x 1 2 f s c → mayUse x s f.dst → exec (.mmaz x f) s = done x s c (((coreOf x s c).setBank f.dst { ((s.tile x.tile.val).bank f.dst) with pend := ((s.tile x.tile.val).bank f.dst).pend ++ [⟨f.mod.toNat % 16, f.mod.toNat / 16 % 16, vOf x s c f.srcA, vOf x s c f.srcB, vOf x s c f.srcC, f.mod.getLsbD 8, guardMask (s.tile x.tile.val) c f, true⟩] }))) ∧
  (∀ (x : Issue) (f : SlotF) (s : State) (c : Ctx), Runs x 2 1 f s c → mayUse x s f.dst → exec (.aclr x f) s = done x s c (whole x s c f ((coreOf x s c).setBank f.dst { ((s.tile x.tile.val).bank f.dst).landAll with acc := [], underF := false, overF := false }))) ∧
  (∀ (x : Issue) (f : SlotF) (s : State) (c : Ctx), Runs x 2 5 f s c → mayUse x s f.dst → exec (.awin x f) s = done x s c (whole x s c f ((coreOf x s c).setBank f.dst { ((s.tile x.tile.val).bank f.dst).landAll with acc := [], underF := false, overF := false, w := f.imm.extractLsb' 0 10 }))) ∧
  (∀ (x : Issue) (f : SlotF) (s : State) (c : Ctx), Runs x 2 4 f s c → mayUse x s f.dst → exec (.aadd x f) s = done x s c (whole x s c f ((coreOf x s c).setBank f.dst (((s.tile x.tile.val).bank f.dst).landAll.addRow (f.imm.toNat % 32) (vOf x s c f.srcA).toNat)))) ∧
  (∀ (x : Issue) (f : SlotF) (s : State) (c : Ctx), Runs x 2 3 f s c → mayUse x s f.srcA → exec (.araw x f) s = done x s c (((coreOf x s c).setBank f.srcA ((s.tile x.tile.val).bank f.srcA).landAll.examine).writeV f.dst (mergeV (guardMask (s.tile x.tile.val) c f) (BitVec.ofNat 2048 (((s.tile x.tile.val).bank f.srcA).landAll.examine.rawRow (f.imm.toNat % 32))) (vOf x s c f.dst)))) ∧
  (∀ (x : Issue) (f : SlotF) (s : State) (c : Ctx), Runs x 2 2 f s c → mayUse x s f.srcA → exec (.ard x f) s = done x s c (readOut x s c f ((s.tile x.tile.val).bank f.srcA).landAll.examine)) ∧
  (∀ (x : Issue) (f : SlotF) (s : State) (c : Ctx), Runs x 2 6 f s c → mayUse x s f.srcA → exec (.aflag x f) s = done x s c (whole x s c f (((coreOf x s c).setBank f.srcA (if f.mod.getLsbD 0 then { ((s.tile x.tile.val).bank f.srcA).landAll.examine with underF := false, overF := false } else ((s.tile x.tile.val).bank f.srcA).landAll.examine)).writeS f.dst (BitVec.ofNat 64 ((if ((s.tile x.tile.val).bank f.srcA).landAll.examine.underF then 1 else 0) + (if ((s.tile x.tile.val).bank f.srcA).landAll.examine.overF then 2 else 0)))))) ∧
  (∀ (x : Issue) (f : SlotF) (s : State) (c : Ctx), Runs x 1 1 f s c → ¬ mayUse x s f.dst → exec (.mma x f) s = faulted x s c 0x0D 0) ∧
  (∀ (x : Issue) (f : SlotF) (s : State) (c : Ctx), Runs x 1 2 f s c → ¬ mayUse x s f.dst → exec (.mmaz x f) s = faulted x s c 0x0D 0) ∧
  (∀ (x : Issue) (f : SlotF) (s : State) (c : Ctx), Runs x 2 1 f s c → Guarded x s c f → ¬ mayUse x s f.dst → exec (.aclr x f) s = faulted x s c 0x0D 0) ∧
  (∀ (x : Issue) (f : SlotF) (s : State) (c : Ctx), Runs x 2 5 f s c → Guarded x s c f → ¬ mayUse x s f.dst → exec (.awin x f) s = faulted x s c 0x0D 0) ∧
  (∀ (x : Issue) (f : SlotF) (s : State) (c : Ctx), Runs x 2 4 f s c → Guarded x s c f → ¬ mayUse x s f.dst → exec (.aadd x f) s = faulted x s c 0x0D 0) ∧
  (∀ (x : Issue) (f : SlotF) (s : State) (c : Ctx), Runs x 2 3 f s c → ¬ mayUse x s f.srcA → exec (.araw x f) s = faulted x s c 0x0D 0) ∧
  (∀ (x : Issue) (f : SlotF) (s : State) (c : Ctx), Runs x 2 2 f s c → ¬ mayUse x s f.srcA → exec (.ard x f) s = faulted x s c 0x0D 0) ∧
  (∀ (x : Issue) (f : SlotF) (s : State) (c : Ctx), Runs x 2 6 f s c → Guarded x s c f → ¬ mayUse x s f.srcA → exec (.aflag x f) s = faulted x s c 0x0D 0) ∧
  (∀ (x : Issue) (f : SlotF) (s : State) (c : Ctx), Runs x 2 1 f s c → ¬ Guarded x s c f → exec (.aclr x f) s = done x s c (coreOf x s c)) ∧
  (∀ (x : Issue) (f : SlotF) (s : State) (c : Ctx), Runs x 2 5 f s c → ¬ Guarded x s c f → exec (.awin x f) s = done x s c (coreOf x s c)) ∧
  (∀ (x : Issue) (f : SlotF) (s : State) (c : Ctx), Runs x 2 4 f s c → ¬ Guarded x s c f → exec (.aadd x f) s = done x s c (coreOf x s c)) ∧
  (∀ (x : Issue) (f : SlotF) (s : State) (c : Ctx), Runs x 2 6 f s c → ¬ Guarded x s c f → exec (.aflag x f) s = done x s c (coreOf x s c)) ∧
  (∀ (tile : Fin 4096) (s : State), exec (.mmaLand tile 0) s = .next (s.updTile tile.val (fun t => { t with a0 := t.a0.landOldest }))) ∧
  (∀ (tile : Fin 4096) (s : State), exec (.mmaLand tile 1) s = .next (s.updTile tile.val (fun t => { t with a1 := t.a1.landOldest })))

/-- A load puts the bytes at its address in its register; a store puts its register in the bytes at its address. The
effective address is that of R54. For LD, LDS, ST and STS in slot 5 or 6, alone in a word that can issue: at an
aligned address inside the Field window LD and LDS answer the next state with the 256 or 8 bytes there, little-endian,
in the destination, the single-bit errors counted; ST writes exactly the bytes of the V register that its mask and its
length enable, and every other byte of memory reads as before; STS stores the 8 bytes of its S register; LDS and STS
do nothing where their guard is clear. A misaligned address raises FIELD_ALIGN, else one outside the window
FIELD_RANGE, and nothing is moved. A load that meets an uncorrectable word writes no register and counts it: PRIVATE
data of a request of the running task mask that request, any other data raise FIELD_UE, WEIGHT data of a plot with its
batch to run again. (R54.) -/
def Obligations.LoadsAndStoresMoveTheirBytes : Prop :=
  (∀ (x : Issue) (s : State) (c : Ctx) (f : SlotF), addrOf x s c f = f.imm.toNat % 2 ^ 22 +
    (if f.srcA ≠ 0xFF then (sOf x s c f.srcA).toNat * 2 ^ (f.mod.toNat % 64) else 0) + (if f.srcB ≠ 0xFF then (sOf x s c f.srcB).toNat else 0)) ∧
  (∀ (x : Issue) (hi : Bool) (f : SlotF) (s : State) (c : Ctx) (k : Nat), Runs x (if hi then 6 else 5) 1 f s c → reaches x s c f 32 256 k → firstUe 16 s.mem.ueField k 256 = none →
    exec (.ld x hi f) s = done x (corrected x hi 256 s) c (setV x s c f (leNat (s.mem.readN k 256)))) ∧
  (∀ (x : Issue) (hi : Bool) (f : SlotF) (s : State) (c : Ctx) (k u : Nat), Runs x (if hi then 6 else 5) 1 f s c → reaches x s c f 32 256 k → firstUe 16 s.mem.ueField k 256 = some u → (s.tile x.tile.val).lead = none →
    exec (.ld x hi f) s = faulted x ((corrected x hi 256 s).countFieldUe u) c 0x06 (addrOf x s c f)) ∧
  (∀ (x : Issue) (hi : Bool) (f : SlotF) (s : State) (c : Ctx) (k u b : Nat) (p : Plot), Runs x (if hi then 6 else 5) 1 f s c → reaches x s c f 32 256 k → firstUe 16 s.mem.ueField k 256 = some u → (s.tile x.tile.val).lead = some b → s.plot b = some p → (s.mem.tag u).cls = 2 → p.hasReq (s.mem.tag u).req = true →
    exec (.ld x hi f) s = done x (((corrected x hi 256 s).countFieldUe u).setPlot b (p.maskReq (s.mem.tag u).req 0x0404)) c (coreOf x s c)) ∧
  (∀ (x : Issue) (hi : Bool) (f : SlotF) (s : State) (c : Ctx) (k u b : Nat) (p : Plot), Runs x (if hi then 6 else 5) 1 f s c → reaches x s c f 32 256 k → firstUe 16 s.mem.ueField k 256 = some u → (s.tile x.tile.val).lead = some b → s.plot b = some p → ¬ ((s.mem.tag u).cls = 2 ∧ p.hasReq (s.mem.tag u).req = true) →
    exec (.ld x hi f) s = faulted x (if (s.mem.tag u).cls = 1 ∧ p.state ≠ .forcing then ((corrected x hi 256 s).countFieldUe u).setPlot b { p with forceRetry := true }
      else (corrected x hi 256 s).countFieldUe u) c 0x06 (addrOf x s c f)) ∧
  (∀ (x : Issue) (hi : Bool) (f : SlotF) (s : State) (c : Ctx) (k : Nat), Runs x (if hi then 6 else 5) 2 f s c → Guarded x s c f → reaches x s c f 8 8 k → firstUe 16 s.mem.ueField k 8 = none →
    exec (.lds x hi f) s = done x (corrected x hi 8 s) c ((coreOf x s c).writeS f.dst (BitVec.ofNat 64 (leNat (s.mem.readN k 8))))) ∧
  (∀ (x : Issue) (hi : Bool) (f : SlotF) (s : State) (c : Ctx) (k u : Nat), Runs x (if hi then 6 else 5) 2 f s c → Guarded x s c f → reaches x s c f 8 8 k → firstUe 16 s.mem.ueField k 8 = some u → (s.tile x.tile.val).lead = none →
    exec (.lds x hi f) s = faulted x ((corrected x hi 8 s).countFieldUe u) c 0x06 (addrOf x s c f)) ∧
  (∀ (x : Issue) (hi : Bool) (f : SlotF) (s : State) (c : Ctx) (k u b : Nat) (p : Plot), Runs x (if hi then 6 else 5) 2 f s c → Guarded x s c f → reaches x s c f 8 8 k → firstUe 16 s.mem.ueField k 8 = some u → (s.tile x.tile.val).lead = some b → s.plot b = some p → (s.mem.tag u).cls = 2 → p.hasReq (s.mem.tag u).req = true →
    exec (.lds x hi f) s = done x (((corrected x hi 8 s).countFieldUe u).setPlot b (p.maskReq (s.mem.tag u).req 0x0404)) c (coreOf x s c)) ∧
  (∀ (x : Issue) (hi : Bool) (f : SlotF) (s : State) (c : Ctx) (k u b : Nat) (p : Plot), Runs x (if hi then 6 else 5) 2 f s c → Guarded x s c f → reaches x s c f 8 8 k → firstUe 16 s.mem.ueField k 8 = some u → (s.tile x.tile.val).lead = some b → s.plot b = some p → ¬ ((s.mem.tag u).cls = 2 ∧ p.hasReq (s.mem.tag u).req = true) →
    exec (.lds x hi f) s = faulted x (if (s.mem.tag u).cls = 1 ∧ p.state ≠ .forcing then ((corrected x hi 8 s).countFieldUe u).setPlot b { p with forceRetry := true }
      else (corrected x hi 8 s).countFieldUe u) c 0x06 (addrOf x s c f)) ∧
  (∀ (x : Issue) (hi : Bool) (f : SlotF) (s : State) (c : Ctx) (k : Nat), Runs x (if hi then 6 else 5) 3 f s c → reaches x s c f 32 256 k → ∃ m, exec (.st x hi f) s = done x { s with mem := m } c (coreOf x s c) ∧
    (∀ j, j < 256 → storesByte x s c f j → m.read (k + j) = BitVec.ofNat 8 (laneAt 8 (vOf x s c f.srcC).toNat j)) ∧
    ∀ a, ¬ (k ≤ a ∧ a < k + 256 ∧ storesByte x s c f (a - k)) → m.read a = s.mem.read a) ∧
  (∀ (x : Issue) (hi : Bool) (f : SlotF) (s : State) (c : Ctx) (k : Nat), Runs x (if hi then 6 else 5) 4 f s c → reaches x s c f 8 8 k → Guarded x s c f → exec (.sts x hi f) s = done x { s with mem := s.mem.store k (toLe 8 (sOf x s c f.srcC).toNat) } c (coreOf x s c)) ∧
  (∀ (x : Issue) (hi : Bool) (f : SlotF) (s : State) (c : Ctx), Runs x (if hi then 6 else 5) 2 f s c → ¬ Guarded x s c f → exec (.lds x hi f) s = done x s c (coreOf x s c)) ∧
  (∀ (x : Issue) (hi : Bool) (f : SlotF) (s : State) (c : Ctx), Runs x (if hi then 6 else 5) 4 f s c → ¬ Guarded x s c f → exec (.sts x hi f) s = done x s c (coreOf x s c)) ∧
  (∀ (x : Issue) (hi : Bool) (f : SlotF) (s : State) (c : Ctx), Runs x (if hi then 6 else 5) 1 f s c → addrOf x s c f % 32 ≠ 0 → exec (.ld x hi f) s = faulted x s c 0x05 (addrOf x s c f)) ∧
  (∀ (x : Issue) (hi : Bool) (f : SlotF) (s : State) (c : Ctx), Runs x (if hi then 6 else 5) 1 f s c → addrOf x s c f % 32 = 0 → (s.tile x.tile.val).regs.fwinLimit < addrOf x s c f + 256 → exec (.ld x hi f) s = faulted x s c 0x04 (addrOf x s c f)) ∧
  (∀ (x : Issue) (hi : Bool) (f : SlotF) (s : State) (c : Ctx), Runs x (if hi then 6 else 5) 2 f s c → Guarded x s c f → addrOf x s c f % 8 ≠ 0 → exec (.lds x hi f) s = faulted x s c 0x05 (addrOf x s c f)) ∧
  (∀ (x : Issue) (hi : Bool) (f : SlotF) (s : State) (c : Ctx), Runs x (if hi then 6 else 5) 2 f s c → Guarded x s c f → addrOf x s c f % 8 = 0 → (s.tile x.tile.val).regs.fwinLimit < addrOf x s c f + 8 → exec (.lds x hi f) s = faulted x s c 0x04 (addrOf x s c f)) ∧
  (∀ (x : Issue) (hi : Bool) (f : SlotF) (s : State) (c : Ctx), Runs x (if hi then 6 else 5) 3 f s c → addrOf x s c f % 32 ≠ 0 → exec (.st x hi f) s = faulted x s c 0x05 (addrOf x s c f)) ∧
  (∀ (x : Issue) (hi : Bool) (f : SlotF) (s : State) (c : Ctx), Runs x (if hi then 6 else 5) 3 f s c → addrOf x s c f % 32 = 0 → (s.tile x.tile.val).regs.fwinLimit < addrOf x s c f + 256 → exec (.st x hi f) s = faulted x s c 0x04 (addrOf x s c f)) ∧
  (∀ (x : Issue) (hi : Bool) (f : SlotF) (s : State) (c : Ctx), Runs x (if hi then 6 else 5) 4 f s c → Guarded x s c f → addrOf x s c f % 8 ≠ 0 → exec (.sts x hi f) s = faulted x s c 0x05 (addrOf x s c f)) ∧
  (∀ (x : Issue) (hi : Bool) (f : SlotF) (s : State) (c : Ctx), Runs x (if hi then 6 else 5) 4 f s c → Guarded x s c f → addrOf x s c f % 8 = 0 → (s.tile x.tile.val).regs.fwinLimit < addrOf x s c f + 8 → exec (.sts x hi f) s = faulted x s c 0x04 (addrOf x s c f))

/-- SEND, SENDS, RECV, STEER and MERGE send, read a bound token and configure a channel. Alone in a word that can issue,
with their guard: SEND and SENDS through an entry that injects leave the token (header from the immediate, the tag of
the context plus the tag field, the epoch of the tile; the 256-bit part or the run of four S registers as payload,
with its CRC) in the turn register of the entry; through one that does not inject they raise TREG_NOINJ; with IMM[40]
the token enters the own input queue named, with the fault that its entry raises, if any. RECV answers the payload of
the bound token in the 256-bit part of the V register or in four S registers, and QUEUE_UNBOUND where no such token is
bound (for an index of GATHER beyond the bound tokens that is the choice of log entry 173). STEER and MERGE configure
the channel their immediate names, and waiting tokens pair by it. With the guard clear nothing is done. Nothing else
changes but the context going on and the count. (R42, R56, R104, R110, R111, R120, 02_tile_core.md Table 2-12.) -/
def Obligations.TokenOperationsSendBindAndConfigure : Prop :=
  (∀ (x : Issue) (f : SlotF) (s : State) (c : Ctx), Runs x 7 1 f s c → Guarded x s c f → f.imm.getLsbD 40 = false → injectsHere x s f → exec (.send x f) s = done x s c (inTurnRegister x s c f (laneAt 256 (vOf x s c f.srcA).toNat (f.mod.toNat % 8)))) ∧
  (∀ (x : Issue) (f : SlotF) (s : State) (c : Ctx), Runs x 7 1 f s c → Guarded x s c f → f.imm.getLsbD 40 = false → ¬ injectsHere x s f →
    exec (.send x f) s = .next (endCheck x s c ((issued x s ((coreOf x s c).onward c)).canalFault x.tile.val 4 (canalInfo x.turn.val 6 (f.imm.toNat % 256) (sentToken x s c f (laneAt 256 (vOf x s c f.srcA).toNat (f.mod.toNat % 8))))))) ∧
  (∀ (x : Issue) (f : SlotF) (s : State) (c : Ctx), Runs x 7 1 f s c → Guarded x s c f → f.imm.getLsbD 40 = true → (ownQueue x s c f (laneAt 256 (vOf x s c f.srcA).toNat (f.mod.toNat % 8))).2 = none → exec (.send x f) s = done x s c ⟨(ownQueue x s c f (laneAt 256 (vOf x s c f.srcA).toNat (f.mod.toNat % 8))).1, c⟩) ∧
  (∀ (x : Issue) (f : SlotF) (s : State) (c : Ctx), Runs x 7 1 f s c → ∀ a d, Guarded x s c f → f.imm.getLsbD 40 = true → (ownQueue x s c f (laneAt 256 (vOf x s c f.srcA).toNat (f.mod.toNat % 8))).2 = some (a, d) →
    exec (.send x f) s = .next (endCheck x s c (wordFault x c a d (issued x s (CoreSt.onward ⟨(ownQueue x s c f (laneAt 256 (vOf x s c f.srcA).toNat (f.mod.toNat % 8))).1, c⟩ c))))) ∧
  (∀ (x : Issue) (f : SlotF) (s : State) (c : Ctx), Runs x 7 1 f s c → ¬ Guarded x s c f → exec (.send x f) s = done x s c (coreOf x s c)) ∧
  (∀ (x : Issue) (f : SlotF) (s : State) (c : Ctx), Runs x 7 2 f s c → Guarded x s c f → f.imm.getLsbD 40 = false → injectsHere x s f → exec (.sends x f) s = done x s c (inTurnRegister x s c f (runOf4 x s c f.srcA))) ∧
  (∀ (x : Issue) (f : SlotF) (s : State) (c : Ctx), Runs x 7 2 f s c → Guarded x s c f → f.imm.getLsbD 40 = false → ¬ injectsHere x s f →
    exec (.sends x f) s = .next (endCheck x s c ((issued x s ((coreOf x s c).onward c)).canalFault x.tile.val 4 (canalInfo x.turn.val 6 (f.imm.toNat % 256) (sentToken x s c f (runOf4 x s c f.srcA)))))) ∧
  (∀ (x : Issue) (f : SlotF) (s : State) (c : Ctx), Runs x 7 2 f s c → Guarded x s c f → f.imm.getLsbD 40 = true → (ownQueue x s c f (runOf4 x s c f.srcA)).2 = none → exec (.sends x f) s = done x s c ⟨(ownQueue x s c f (runOf4 x s c f.srcA)).1, c⟩) ∧
  (∀ (x : Issue) (f : SlotF) (s : State) (c : Ctx), Runs x 7 2 f s c → ∀ a d, Guarded x s c f → f.imm.getLsbD 40 = true → (ownQueue x s c f (runOf4 x s c f.srcA)).2 = some (a, d) →
    exec (.sends x f) s = .next (endCheck x s c (wordFault x c a d (issued x s (CoreSt.onward ⟨(ownQueue x s c f (runOf4 x s c f.srcA)).1, c⟩ c))))) ∧
  (∀ (x : Issue) (f : SlotF) (s : State) (c : Ctx), Runs x 7 2 f s c → ¬ Guarded x s c f → exec (.sends x f) s = done x s c (coreOf x s c)) ∧
  (∀ (x : Issue) (f : SlotF) (s : State) (c : Ctx), Runs x 7 3 f s c → ∀ b, Guarded x s c f → boundTok x s c f = some b → (∀ n, regIx f.dst ≠ .s n) →
    exec (.recv x f) s = done x s c ((coreOf x s c).writeV f.dst (mergeV (BitVec.ofNat 64 (0xFF * 2 ^ (8 * (f.mod.toNat % 8)))) (BitVec.ofNat 2048 (b.tok.payload.toNat * 2 ^ (256 * (f.mod.toNat % 8)))) (vOf x s c f.dst)))) ∧
  (∀ (x : Issue) (f : SlotF) (s : State) (c : Ctx), Runs x 7 3 f s c → ∀ b n, Guarded x s c f → boundTok x s c f = some b → regIx f.dst = .s n →
    exec (.recv x f) s = done x s c ((List.range 4).foldl (fun k j => k.writeS (f.dst + BitVec.ofNat 8 j) (BitVec.ofNat 64 (laneAt 64 b.tok.payload.toNat j))) (coreOf x s c))) ∧
  (∀ (x : Issue) (f : SlotF) (s : State) (c : Ctx), Runs x 7 3 f s c → Guarded x s c f → boundTok x s c f = none → exec (.recv x f) s = faulted x s c 0x0C (f.srcA.toNat - 0xD0)) ∧
  (∀ (x : Issue) (f : SlotF) (s : State) (c : Ctx), Runs x 7 3 f s c → ¬ Guarded x s c f → exec (.recv x f) s = done x s c (coreOf x s c)) ∧
  (∀ (x : Issue) (f : SlotF) (s : State) (c : Ctx), Runs x 7 4 f s c → exec (.steer x f) s = done x s c (whole x s c f { coreOf x s c with t := (s.tile x.tile.val).configure (f.imm.toNat % 8) (.steer f.imm) })) ∧
  (∀ (x : Issue) (f : SlotF) (s : State) (c : Ctx), Runs x 7 5 f s c → exec (.merge x f) s = done x s c (whole x s c f { coreOf x s c with t := (s.tile x.tile.val).configure (f.imm.toNat % 8) (.merge f.imm) }))

/-- BR, LOOP, YIELD and EOB change where the context goes; NOP and FENCE only go on. In a word that can issue: NOP (every
slot empty) and FENCE answer the next state with the context at the next word and nothing else changed but the count
of words; NOP where the slot holds an opcode not listed for it raises ILLEGAL_WORD. BR with its guard goes to its
word, LOOP with a count opens a loop of that count from the next word to its end word and with a count of 0 goes past
the end word, each with BRANCH_RANGE where a target lies outside the block, LOOP with LOOP_DEPTH where four loops are
open; EOB with its guard leaves the context RETIRING; YIELD with its guard leaves it YIELDED at its point when the
tile is asked to yield, and forces the plot with cause 6 where the section has no yield record of that point. BR,
LOOP, EOB and YIELD go on where their guard is clear, YIELD also when no yield is asked for. (R43, R45, R48, R49, R61,
02_tile_core.md Table 2-7.) -/
def Obligations.FlowOperationsGoWhereTheyName : Prop :=
  (∀ (x : Issue) (slot : Fin 8) (s : State) (c : Ctx), Issues x [] s c → exec (.nop x slot) s = done x s c (coreOf x s c)) ∧
  (∀ (x : Issue) (slot : Fin 8) (o : SlotOp) (s : State) (c : Ctx), Takes x [o] s c → o.slot = slot → opSig slot.val o.op.toNat o.f.mod.toNat = none →
    exec (.nop x slot) s = .next (wordFault x c 0x01 0 s)) ∧
  (∀ (x : Issue) (f : SlotF) (s : State) (c : Ctx), Runs x 0 7 f s c →  exec (.fence x f) s = done x s c (coreOf x s c)) ∧
  (∀ (x : Issue) (f : SlotF) (s : State) (c : Ctx), Runs x 0 1 f s c → Guarded x s c f → inBlock x s c (f.imm.toNat % 256) →
    exec (.br x f) s = .next (issued x s ((coreOf x s c).goTo (f.imm.toNat % 256) c.loops))) ∧
  (∀ (x : Issue) (f : SlotF) (s : State) (c : Ctx), Runs x 0 1 f s c → Guarded x s c f → ¬ inBlock x s c (f.imm.toNat % 256) → exec (.br x f) s = lost x s c 0x02 (f.imm.toNat % 256) c.loops) ∧
  (∀ (x : Issue) (f : SlotF) (s : State) (c : Ctx), Runs x 0 1 f s c → ¬ Guarded x s c f → exec (.br x f) s = done x s c (coreOf x s c)) ∧
  (∀ (x : Issue) (f : SlotF) (s : State) (c : Ctx), Runs x 0 2 f s c → Guarded x s c f → loopCount x s c f ≠ 0 → c.loops.length < 4 → inBlock x s c (fieldN f.imm.toNat 32 8) → inBlock x s c (c.pc + 1) →
    exec (.loop x f) s = .next (issued x s ((coreOf x s c).goTo (c.pc + 1) (⟨c.pc + 1, fieldN f.imm.toNat 32 8, loopCount x s c f⟩ :: c.loops)))) ∧
  (∀ (x : Issue) (f : SlotF) (s : State) (c : Ctx), Runs x 0 2 f s c → Guarded x s c f → loopCount x s c f ≠ 0 → c.loops.length < 4 → inBlock x s c (fieldN f.imm.toNat 32 8) → ¬ inBlock x s c (c.pc + 1) →
    exec (.loop x f) s = lost x s c 0x02 (c.pc + 1) (⟨c.pc + 1, fieldN f.imm.toNat 32 8, loopCount x s c f⟩ :: c.loops)) ∧
  (∀ (x : Issue) (f : SlotF) (s : State) (c : Ctx), Runs x 0 2 f s c → Guarded x s c f → loopCount x s c f ≠ 0 → c.loops.length < 4 → ¬ inBlock x s c (fieldN f.imm.toNat 32 8) → exec (.loop x f) s = lost x s c 0x02 (c.pc + 1) c.loops) ∧
  (∀ (x : Issue) (f : SlotF) (s : State) (c : Ctx), Runs x 0 2 f s c → Guarded x s c f → loopCount x s c f ≠ 0 → 4 ≤ c.loops.length → exec (.loop x f) s = lost x s c 0x03 (c.pc + 1) c.loops) ∧
  (∀ (x : Issue) (f : SlotF) (s : State) (c : Ctx), Runs x 0 2 f s c → Guarded x s c f → loopCount x s c f = 0 → inBlock x s c (fieldN f.imm.toNat 32 8 + 1) →
    exec (.loop x f) s = .next (issued x s ((coreOf x s c).goTo (fieldN f.imm.toNat 32 8 + 1) c.loops))) ∧
  (∀ (x : Issue) (f : SlotF) (s : State) (c : Ctx), Runs x 0 2 f s c → Guarded x s c f → loopCount x s c f = 0 → ¬ inBlock x s c (fieldN f.imm.toNat 32 8 + 1) → exec (.loop x f) s = lost x s c 0x02 (fieldN f.imm.toNat 32 8 + 1) c.loops) ∧
  (∀ (x : Issue) (f : SlotF) (s : State) (c : Ctx), Runs x 0 2 f s c → ¬ Guarded x s c f → exec (.loop x f) s = done x s c (coreOf x s c)) ∧
  (∀ (x : Issue) (f : SlotF) (s : State) (c : Ctx), Runs x 0 6 f s c → Guarded x s c f → exec (.eob x f) s = .next (issued x s { coreOf x s c with c := { c with state := .retiring } })) ∧
  (∀ (x : Issue) (f : SlotF) (s : State) (c : Ctx), Runs x 0 6 f s c → ¬ Guarded x s c f → exec (.eob x f) s = done x s c (coreOf x s c)) ∧
  (∀ (x : Issue) (f : SlotF) (s : State) (c : Ctx), Runs x 0 5 f s c → Guarded x s c f → (s.tile x.tile.val).regs.yieldReq = true → hasPoint x s (f.imm.toNat % 256) → exec (.yield x f) s = .next (parkedAt x s c (f.imm.toNat % 256))) ∧
  (∀ (x : Issue) (f : SlotF) (s : State) (c : Ctx), Runs x 0 5 f s c → ∀ b p, Guarded x s c f → (s.tile x.tile.val).regs.yieldReq = true → (s.tile x.tile.val).lead = some b → s.plot b = some p → p.hasYield (f.imm.toNat % 256) = false →
    exec (.yield x f) s = .next ((parkedAt x s c (f.imm.toNat % 256)).force b 0x06 0x0403 x.tile.val)) ∧
  (∀ (x : Issue) (f : SlotF) (s : State) (c : Ctx), Runs x 0 5 f s c → ¬ Guarded x s c f ∨ (s.tile x.tile.val).regs.yieldReq = false → exec (.yield x f) s = done x s c (coreOf x s c))

/-- WAIT and SIGNAL change their counter, TRAP faults, and a word that waits or is illegal stalls its context or faults.
Alone in a word that can issue: WAIT, which issues only with its counter above zero, takes one from it; SIGNAL adds
one to a counter below 0xFFFF and raises SEM_OVERFLOW at 0xFFFF; both do nothing where their guard is clear. A WAIT
that finds its counter at zero stalls its context, which keeps the word; SEMAPHORE_WAIT_PASS issues that word when the
issue unit takes the context, and else changes nothing. TRAP with its guard raises its fault: the tile stops, its
contexts go, and with no fault recorded cause 0x0B stands with word address, entry, tag and code. An illegal word
raises ILLEGAL_WORD, one whose send finds its turn register taken stalls its context, and a command that names an
operation the word does not hold changes nothing (log entry 4). (R45, R48, R50, R56, R65, 02_tile_core.md Tables 2-4,
2-7 and 2-14.) -/
def Obligations.WaitAndSignalCountTheirSemaphore : Prop :=
  (∀ (x : Issue) (f : SlotF) (s : State) (c : Ctx), Runs x 0 3 f s c → Guarded x s c f → 0 < SMap.get 0 (s.tile x.tile.val).sem (f.imm.toNat % 32) ∧ exec (.wait x f) s = done x s c (semStep x s c f (fun n => n - 1))) ∧
  (∀ (x : Issue) (f : SlotF) (s : State) (c : Ctx), Runs x 0 3 f s c → ¬ Guarded x s c f → exec (.wait x f) s = done x s c (coreOf x s c)) ∧
  (∀ (x : Issue) (f : SlotF) (s : State) (c : Ctx), Takes x [⟨0, 3, f⟩] s c → wordOk c [⟨0, 3, f⟩] = true → Guarded x s c f → SMap.get 0 (s.tile x.tile.val).sem (f.imm.toNat % 32) = 0 →
    exec (.wait x f) s = .next (stallCtx (envOf x s c) (some [⟨0, 3, f⟩]) s)) ∧
  (∀ (x : Issue) (f : SlotF) (s : State) (c : Ctx), Runs x 0 4 f s c → Guarded x s c f → SMap.get 0 (s.tile x.tile.val).sem (f.imm.toNat % 32) < 0xFFFF → exec (.signal x f) s = done x s c (semStep x s c f (fun n => n + 1))) ∧
  (∀ (x : Issue) (f : SlotF) (s : State) (c : Ctx), Runs x 0 4 f s c → Guarded x s c f → 0xFFFF ≤ SMap.get 0 (s.tile x.tile.val).sem (f.imm.toNat % 32) → exec (.signal x f) s = faulted x s c 0x0A (f.imm.toNat % 32)) ∧
  (∀ (x : Issue) (f : SlotF) (s : State) (c : Ctx), Runs x 0 4 f s c → ¬ Guarded x s c f → exec (.signal x f) s = done x s c (coreOf x s c)) ∧
  (∀ (x : Issue) (s : State) (c : Ctx) (w : List SlotOp), (s.tile x.tile.val).ctx x.ctx.val = some c → c.held = some w → issuePicks x s c = true → x.parity = false →
    exec (.semaphoreWaitPass x) s = .next (runWord (envOf x s c) w s)) ∧
  (∀ (x : Issue) (s : State) (c : Ctx), (s.tile x.tile.val).ctx x.ctx.val = some c → c.held = none ∨ issuePicks x s c = false → exec (.semaphoreWaitPass x) s = .next s) ∧
  (∀ (x : Issue) (f : SlotF) (s : State) (c : Ctx), Runs x 0 8 f s c → Guarded x s c f → exec (.trap x f) s = faulted x s c 0x0B (f.imm.toNat % 256)) ∧
  (∀ (x : Issue) (f : SlotF) (s : State) (c : Ctx), Runs x 0 8 f s c → Follows x s c → Guarded x s c f → (s.tile x.tile.val).regs.fault.valid = false →
    ∃ t, exec (.trap x f) s = .next t ∧ (t.tile x.tile.val).halted = true ∧ (t.tile x.tile.val).ctxs = [] ∧
      (t.tile x.tile.val).regs.fault = ⟨0x0B, true, false, faultInfo c.pc c.entry c.tag (f.imm.toNat % 256)⟩) ∧
  (∀ (x : Issue) (f : SlotF) (s : State) (c : Ctx), Runs x 0 8 f s c → ¬ Guarded x s c f → exec (.trap x f) s = done x s c (coreOf x s c)) ∧
  (∀ (x : Issue) (o : SlotOp) (w : List SlotOp) (s : State) (c : Ctx), Takes x w s c → holdsOp w o = true → wordOk c w = false → issueWord x o s = wordFault x c 0x01 0 s) ∧
  (∀ (x : Issue) (o : SlotOp) (w : List SlotOp) (s : State) (c : Ctx), Takes x w s c → holdsOp w o = true → wordOk c w = true → wordHold (envOf x s c) w = .send → issueWord x o s = stallCtx (envOf x s c) none s) ∧
  (∀ (x : Issue) (o : SlotOp) (w : List SlotOp) (s : State) (c : Ctx), Takes x w s c → holdsOp w o = false → issueWord x o s = s)

/-- A firing makes a context, a retirement frees it, a yield parks the tile, and the bits of TILE_CTRL and a retest are
written. TRIGGER_FIRE on a tile that may fire makes the new context of the first satisfied entry with room in the
lowest free slot (registers as R31 and R92 set them), binds its tokens and takes its banks; without room it counts a
wait; a repeat of a live entry and tag, an entry that does not fit its rule and a parity error raise their faults.
CONTEXT_RETIRE of a RETIRING context frees its slot, its tokens and its banks, moves OLD past the retired tags, counts
for the end report, and faults on a token left behind a window. YIELD_DONE on a tile asked to yield whose every live
context is YIELDED parks the tile, whose save joins that of its yielding plot. TILE_YIELD_REQ and TILE_STOP write
their bits; clearing the yield request lets the contexts resume. SINGLE_TILE_RETEST of a marked tile that is free to
be tested records the test, clears the mark where it passes, and releases a plot that a new fence does not fit. In
every other case each of them changes nothing. (R31, R40, R41, R42, R43, R61, R62, R66, R69, 02_tile_core.md Tables
2-4, 2-14 and 2-15.) -/
def Obligations.TriggerUnitFiresRetiresAndYields : Prop :=
  (∀ (tile : Fin 4096) (s : State) (f : Firing) (k : Nat), fires s tile.val f k →
    ∃ t, exec (.triggerFire tile false) s = .next t ∧ t.tile tile.val = firedTile s tile.val f k ∧
      (t.tile tile.val).ctx k = some (newCtx (s.tile tile.val) f ((s.tile tile.val).trigAt f.entry) (s.seedFor tile.val f)) ∧
      (∀ j, j ≠ k → (t.tile tile.val).ctx j = (s.tile tile.val).ctx j) ∧
      (∀ g, g ≠ tile.val → t.tile g = s.tile g) ∧ t = { s with tiles := t.tiles }) ∧
  (∀ (tile : Fin 4096) (s : State), (s.tile tile.val).mayFire = true → (s.tile tile.val).badEntry = none →
    (∀ f, f ∈ satisfied (s.tile tile.val) → (s.tile tile.val).hasRoom ((s.tile tile.val).trigAt f.entry) = false) →
    ∃ t, exec (.triggerFire tile false) s = .next t ∧ t.tile tile.val = waited (s.tile tile.val) ∧
      (∀ g, g ≠ tile.val → t.tile g = s.tile g) ∧ t = { s with tiles := t.tiles }) ∧
  (∀ (tile : Fin 4096) (s : State) (f : Firing), (s.tile tile.val).mayFire = true → (s.tile tile.val).badEntry = none → nextFiring (s.tile tile.val) = some f →
    repeated (s.tile tile.val) f → ∃ u : State, exec (.triggerFire tile false) s =
        .next (u.tileFault tile.val 0x08 (faultInfo ((s.tile tile.val).trigAt f.entry).start f.entry f.tag 0) 0x0403) ∧
      u.tile tile.val = waited (s.tile tile.val) ∧ (∀ g, g ≠ tile.val → u.tile g = s.tile g) ∧ u = { s with tiles := u.tiles }) ∧
  (∀ (tile : Fin 4096) (s : State) (i : Nat), (s.tile tile.val).mayFire = true → (s.tile tile.val).badEntry = some i →
    exec (.triggerFire tile false) s = .next (s.tileFault tile.val 0x01 (faultInfo 0 i 0 0) 0x0403)) ∧
  (∀ (tile : Fin 4096) (s : State), (s.tile tile.val).mayFire = true → exec (.triggerFire tile true) s = .next (s.tileFault tile.val 0x0F (faultInfo 0 0 0 0) 0x0403)) ∧
  (∀ (tile : Fin 4096) (parity : Bool) (s : State), (s.tile tile.val).mayFire = false → exec (.triggerFire tile parity) s = .next s) ∧
  (∀ (tile : Fin 4096) (ctx : Fin 512) (s : State) (c : Ctx), (s.tile tile.val).ctx ctx.val = some c → c.state = .retiring →
    exec (.contextRetire tile ctx) s = .next (match (retiredTile (s.tile tile.val) ctx.val c).behindQueue with
      | none => (s.setTile tile.val (retiredTile (s.tile tile.val) ctx.val c)).sentinel tile.val c.entry
      | some j => ((s.setTile tile.val (retiredTile (s.tile tile.val) ctx.val c)).sentinel tile.val c.entry).tileFault tile.val 0x07
          (faultInfo c.pc c.entry c.tag j) 0x0403)) ∧
  (∀ (tile : Fin 4096) (ctx : Fin 512) (s : State), (∀ c, (s.tile tile.val).ctx ctx.val = some c → c.state ≠ .retiring) →
    exec (.contextRetire tile ctx) s = .next s) ∧
  (∀ (t : Tile) (k : Nat) (c : Ctx), (retiredTile t k c).ctx k = none ∧ (∀ j, j ≠ k → (retiredTile t k c).ctx j = t.ctx j) ∧
    (retiredTile t k c).a0.owner ≠ some k ∧ (retiredTile t k c).a1.owner ≠ some k ∧
    (∀ b ∈ c.bound, b.sticky = false → ∀ y ∈ (retiredTile t k c).queue b.queue, y.serial ≠ b.serial) ∧
    (SMap.get 0 t.old c.entry < 512 → SMap.get false (retiredTile t k c).retired (512 * c.entry + SMap.get 0 (retiredTile t k c).old c.entry) = false)) ∧
  (∀ (tile : Fin 4096) (s : State), allYielded (s.tile tile.val) →
    exec (.yieldDone tile) s = .next (s.setTile tile.val (parkedTile (s.tile tile.val))) ∨
    ∃ b p, (s.tile tile.val).lead = some b ∧ s.plot b = some p ∧ p.state = .yielding ∧ exec (.yieldDone tile) s =
      .next ((s.setTile tile.val (parkedTile (s.tile tile.val))).setPlot b { p with saveArea := p.saveArea ++ [saveTile p tile.val (s.tile tile.val)] })) ∧
  (∀ (tile : Fin 4096) (s : State) (b : Nat) (p : Plot), allYielded (s.tile tile.val) → (s.tile tile.val).lead = some b → s.plot b = some p → p.state = .yielding →
    exec (.yieldDone tile) s = .next ((s.setTile tile.val (parkedTile (s.tile tile.val))).setPlot b { p with saveArea := p.saveArea ++ [saveTile p tile.val (s.tile tile.val)] })) ∧
  (∀ (tile : Fin 4096) (s : State), ¬ allYielded (s.tile tile.val) → exec (.yieldDone tile) s = .next s) ∧
  (∀ (tile : Fin 4096) (s : State),
    exec (.tileYieldReq tile true) s = .next (s.updTile tile.val (fun t => { t with regs := { t.regs with yieldReq := true } })) ∧
    ∃ t, exec (.tileYieldReq tile false) s = .next t ∧ (t.tile tile.val).regs = { (s.tile tile.val).regs with
        yieldReq := false, yieldDone := false, state := if (s.tile tile.val).regs.state = .parked then .running else (s.tile tile.val).regs.state } ∧
      (∀ k, (t.tile tile.val).ctx k = ((s.tile tile.val).ctx k).map (fun c => if c.state = .yielded then { c with state := .ready } else c)) ∧
      (∀ g, g ≠ tile.val → t.tile g = s.tile g) ∧ t = { s with tiles := t.tiles }) ∧
  (∀ (tile : Fin 4096) (on : Bool) (s : State), exec (.tileStop tile on) s =
    .next (s.updTile tile.val (fun t => { t with regs := { t.regs with stop := on } }))) ∧
  (∀ (tile : Fin 4096) (fails : BitVec 7) (us : BitVec 16) (s : State), (s.tile tile.val).regs.retest = false → exec (.singleTileRetest tile fails us) s = .next s) ∧
  (∀ (tile : Fin 4096) (fails : BitVec 7) (us : BitVec 16) (s : State) (b : Nat) (p : Plot), (s.tile tile.val).lead = some b → s.plot b = some p → p.state ≠ .idle →
    exec (.singleTileRetest tile fails us) s = .next s) ∧
  (∀ (tile : Fin 4096) (fails : BitVec 7) (us : BitVec 16) (s : State), (s.tile tile.val).regs.retest = true →
    (∀ b, (s.tile tile.val).lead = some b → s.plot b = none) → exec (.singleTileRetest tile fails us) s = .next (retested s tile.val fails us)) ∧
  (∀ (tile : Fin 4096) (fails : BitVec 7) (us : BitVec 16) (s : State) (b : Nat) (p : Plot), (s.tile tile.val).regs.retest = true →
    (s.tile tile.val).lead = some b → s.plot b = some p → p.state = .idle →
    exec (.singleTileRetest tile fails us) s = .next (if (retested s tile.val fails us).fencesOk p then retested s tile.val fails us
      else (retested s tile.val fails us).freePlot b)) ∧
  (∀ (tile : Fin 4096) (us : BitVec 16) (s : State), ((retested s tile.val 0 us).tile tile.val).regs.retest = false ∧
    ((retested s tile.val 0 us).tile tile.val).regs.fenceCore = (s.tile tile.val).regs.fenceCore ∧
    ((retested s tile.val 0 us).tile tile.val).regs.fenceFull = (s.tile tile.val).regs.fenceFull)

/-- A token that arrives goes to the outputs its rota entry names, a token in a turn register leaves in its turn, a paired
token enters one. TOKEN_ARRIVE takes the oldest token from each link it names, as the link disturbed it; those that
pass the checks of an input go, with the token that its turn register injects in that turn, to every output the rota
entry names. A disabled input ignores its token; with no token, or in a turn beyond the period, nothing changes. A
token that no output takes is a canal fault when it is neither corrupt nor stale, a corrupt one CANAL_CRC, a stale one
is dropped and counted. TREG_INJECT takes a token out of its turn register in the turn of its entry, counts it and
sends it to the outputs that inject; else it changes nothing. STEER_TREG_ENTER moves the oldest paired data token
whose turn register is free into it, or drops it with TREG_NOINJ where its entry does not inject; where none can move,
one that paired on arrival takes a match-store entry or, with all 64 held, raises MATCH_OVER. (R100, R102, R106, R109,
R110, R111, R114, R116, R126, 04_canal_network.md Tables 4-3 and 4-6.) -/
def Obligations.CanalMovesTokensAlongItsRota : Prop :=
  (∀ (tile : Fin 4096) (port : Fin 4) (turn : Fin 256) (flip : BitVec 304) (s : State) (tok : Token) (l : List Flight),
    takeFlight (4 * tile.val + port.val) false s.flights = some (tok, l) → turn.val < (s.tile tile.val).turns → passesIn s tile.val port.val turn.val (tok.disturb flip) →
    exec (.tokenArrive tile port turn flip []) s = .next ((({ s with flights := l } : State).injection tile.val turn.val).1.fanOut tile.val turn.val
      ((port.val + 1, tok.disturb flip) :: (({ s with flights := l } : State).injection tile.val turn.val).2))) ∧
  (∀ (tile : Fin 4096) (port p2 : Fin 4) (turn : Fin 256) (flip f2 : BitVec 304) (s : State) (a b : Token) (l l2 : List Flight),
    takeFlight (4 * tile.val + port.val) false s.flights = some (a, l) → takeFlight (4 * tile.val + p2.val) false l = some (b, l2) →
    turn.val < (s.tile tile.val).turns → passesIn s tile.val port.val turn.val (a.disturb flip) → passesIn s tile.val p2.val turn.val (b.disturb f2) →
    exec (.tokenArrive tile port turn flip [(p2, f2)]) s = .next ((({ s with flights := l2 } : State).injection tile.val turn.val).1.fanOut tile.val turn.val
      ((port.val + 1, a.disturb flip) :: (p2.val + 1, b.disturb f2) :: (({ s with flights := l2 } : State).injection tile.val turn.val).2))) ∧
  (∀ (tile : Fin 4096) (port : Fin 4) (turn : Fin 256) (flip : BitVec 304) (s : State) (tok : Token) (l : List Flight),
    takeFlight (4 * tile.val + port.val) false s.flights = some (tok, l) → turn.val < (s.tile tile.val).turns →
    (s.tile tile.val).portOn port.val = false ∨ (s.tile tile.val).regs.fenceFull = true →
    exec (.tokenArrive tile port turn flip []) s = exec (.tregInject tile turn) { s with flights := l }) ∧
  (∀ (tile : Fin 4096) (port : Fin 4) (turn : Fin 256) (flip : BitVec 304) (more : List (Fin 4 × BitVec 304)) (s : State), takeFlight (4 * tile.val + port.val) false s.flights = none ∨ (s.tile tile.val).turns ≤ turn.val →
    exec (.tokenArrive tile port turn flip more) s = .next s) ∧
  (∀ (s : State) (g port turn : Nat) (tok : Token), s.loadingAt g = false → routed (s.tile g) port turn = false →
    (tok.crcOk = false → s.ingress g port turn tok = (s.canalFault g 1 (canalInfo turn port turn tok), none)) ∧
    (tok.crcOk = true → (s.tile g).stale tok = true →
      s.ingress g port turn tok = (s.setTile g ((s.tile g).updRegs (fun r => { r with staleDrop := satAdd 32 r.staleDrop 1 })), none)) ∧
    (tok.crcOk = true → (s.tile g).stale tok = false → s.ingress g port turn tok = (s.canalFault g 2 (canalInfo turn port turn tok), none))) ∧
  (∀ (tile : Fin 4096) (turn : Fin 256) (s : State) (x : TurnTok),
    (s.tile tile.val).treg (rotaTreg ((s.tile tile.val).rotaAt turn.val)) = some x → x.entry = turn.val → turn.val < (s.tile tile.val).turns →
    s.loadingAt tile.val = false →
    exec (.tregInject tile turn) s = .next ((s.setTile tile.val (leftTurnRegister (s.tile tile.val) turn.val)).fanOut tile.val turn.val [(5, x.tok)])) ∧
  (∀ (tile : Fin 4096) (turn : Fin 256) (s : State),
    (∀ x, (s.tile tile.val).treg (rotaTreg ((s.tile tile.val).rotaAt turn.val)) = some x → x.entry ≠ turn.val) ∨ (s.tile tile.val).turns ≤ turn.val ∨ s.loadingAt tile.val = true →
    exec (.tregInject tile turn) s = .next s) ∧
  (∀ (s : State) (g turn o : Nat) (ins : List (Nat × Token)) (tok : Token), ins = [(o, tok)] → (∀ k, k < 6 → rotaSrc ((s.tile g).rotaAt turn) k ≠ o) →
    s.fanOut g turn ins = s) ∧
  (∀ (tile : Fin 4096) (turn : Fin 256) (s : State) (m : MEntry) (k : Nat), nextPaired (s.tile tile.val) = some (m, k) →
    ((s.tile tile.val).injects k = true → ∃ t, exec (.steerTregEnter tile turn) s = .next t ∧
      t.tile tile.val = { (s.tile tile.val).dropMatch m.serial with
        tregs := SMap.set none (s.tile tile.val).tregs (rotaTreg ((s.tile tile.val).rotaAt k)) (some ⟨m.tok, k⟩) } ∧
      (∀ g, g ≠ tile.val → t.tile g = s.tile g) ∧ t = { s with tiles := t.tiles }) ∧
    ((s.tile tile.val).injects k = false → exec (.steerTregEnter tile turn) s =
      .next ((s.setTile tile.val ((s.tile tile.val).dropMatch m.serial)).canalFault tile.val 4 (canalInfo turn.val 6 k m.tok)))) ∧
  (∀ (tile : Fin 4096) (turn : Fin 256) (s : State), nextPaired (s.tile tile.val) = none → (∀ m ∈ (s.tile tile.val).matchStore, m.paired.isSome = true → m.held = true) →
    exec (.steerTregEnter tile turn) s = .next s) ∧
  (∀ (tile : Fin 4096) (turn : Fin 256) (s : State) (m : MEntry), nextPaired (s.tile tile.val) = none →
    (s.tile tile.val).matchStore.find? (fun m => m.paired.isSome && !m.held) = some m →
    exec (.steerTregEnter tile turn) s = .next (if 64 ≤ (s.tile tile.val).matchLive
      then (s.setTile tile.val ((s.tile tile.val).dropMatch m.serial)).tileFault tile.val 0x0E (faultInfo 0 0 m.tok.tag m.tok.chan) 0x0408
      else s.setTile tile.val (Tile.noteMatch { s.tile tile.val with
        matchStore := (s.tile tile.val).matchStore.map (fun x => if x.serial = m.serial then { x with held := true } else x) })))

/-- A delivered token is counted and queued; one with a bad CRC faults; a stale one is dropped and counted. At a delivery
port a token whose CRC holds and whose epoch is not stale is counted in TOKEN_IN and goes on; a stale one is dropped
and counted; one whose CRC fails raises the canal fault 1: the tile stops, its contexts go, and with no fault recorded
the cause and the token header stand. A token that is not for the steering unit enters its input queue behind the
others, with TAG_BEHIND where its tag is behind a window and QUEUE_OVER where the queue is full. One for the steering
unit pairs with the oldest partner that waits, takes a match-store entry, or raises MATCH_OVER where all 64 are held.
Two of one cycle that pair with each other take no entry; otherwise L0 is delivered before L1. (R38, R106, R114, R116,
R117, R123, R124, R125, R127, 04_canal_network.md Tables 4-6 and 4-8.) -/
def Obligations.DeliveryQueuesAValidToken : Prop :=
  (∀ (s : State) (g port turn : Nat) (tok : Token), tok.crcOk = true → (s.tile g).stale tok = false →
    s.examine g port turn tok = (s.setTile g ((s.tile g).updRegs (fun r => { r with tokenIn := satAdd 48 r.tokenIn 1 })), some tok)) ∧
  (∀ (s : State) (g port turn : Nat) (tok : Token), tok.crcOk = true → (s.tile g).stale tok = true →
    s.examine g port turn tok = (s.setTile g ((s.tile g).updRegs (fun r => { r with staleDrop := satAdd 32 r.staleDrop 1 })), none)) ∧
  (∀ (s : State) (g port turn : Nat) (tok : Token), tok.crcOk = false →
    s.examine g port turn tok = (s.canalFault g 1 (canalInfo turn port turn tok), none)) ∧
  (∀ (s : State) (g cause : Nat) (info : BitVec 64), ((s.canalFault g cause info).tile g).halted = true ∧ ((s.canalFault g cause info).tile g).ctxs = [] ∧
    ((s.tile g).regs.canalFault.valid = false → ((s.canalFault g cause info).tile g).regs.canalFault = ⟨cause, true, false, info⟩)) ∧
  (∀ (s : State) (g : Nat) (tok : Token) (t : Tile), tok.steer = false → (s.tile g).enqueue (tok.qsel % 16) tok = (t, none) →
    s.deliverOne g tok = s.setTile g t) ∧
  (∀ (s : State) (g d : Nat) (tok : Token) (t : Tile), tok.steer = false → (s.tile g).enqueue (tok.qsel % 16) tok = (t, some (0x07, d)) →
    s.deliverOne g tok = (s.setTile g t).tileFault g 0x07 (faultInfo 0 0 tok.tag d) 0x0403) ∧
  (∀ (s : State) (g : Nat) (tok : Token), tok.steer = false → 16 ≤ ((s.tile g).queue (tok.qsel % 16)).length →
    s.deliverOne g tok = s.tileFault g 0x09 (faultInfo 0 0 tok.tag (tok.qsel % 16)) 0x0403) ∧
  (∀ (t : Tile) (j : Nat) (k : Token), (t.queue j).length < 16 → t.isSticky j = false → (t.enqueue j k).1.queue j = t.queue j ++ [⟨k, t.serial, false⟩]) ∧
  (∀ (s : State) (g : Nat) (tok : Token), tok.steer = true → (s.tile g).mate tok = none → (s.tile g).matchLive < 64 →
    ∃ t, s.deliverOne g tok = s.setTile g t ∧ t.matchStore = (s.tile g).matchStore ++ [⟨tok, (s.tile g).serial, true, none⟩] ∧ t.matchLive = (s.tile g).matchLive + 1) ∧
  (∀ (s : State) (g : Nat) (tok : Token), tok.steer = true → (s.tile g).mate tok = none → 64 ≤ (s.tile g).matchLive →
    s.deliverOne g tok = (s.setTile g (s.tile g)).tileFault g 0x0E (faultInfo 0 0 tok.tag tok.chan) 0x0408) ∧
  (∀ (s : State) (g : Nat) (tok : Token) (m : MEntry), tok.steer = true → (s.tile g).mate tok = some m →
    s.deliverOne g tok = s.setTile g (((s.tile g).dropMatch m.serial).couple tok m.tok tok.ctrl)) ∧
  (∀ (s : State) (g : Nat) (a b : Token), a.steer = true → b.steer = true → (s.tile g).mate a = none → (s.tile g).mate b = none →
    ((s.tile g).chan a.chan).mates a b = true → s.deliverBoth g (some a) (some b) = s.setTile g ((s.tile g).couple a b false)) ∧
  (∀ (s : State) (g : Nat) (a b : Token), (a.steer && b.steer) = false → s.deliverBoth g (some a) (some b) = (s.deliverOne g a).deliverOne g b)

/-- A token at an edge gate appends to its queue, sets its mode, flushes it or sets capacities, by its operation. For a
token, as its link disturbed it, at a gate its plot has enabled, outside an image load: GATE_APPEND with OP APPEND
writes the item to the queue of the plot that the token names, with the fault that raises, and a reserved OP is
BAD_OP; GATE_SET_MODE sets stall, park, lateral output and delivery, and is MODE_BUSY where PARK would change on a
queue that is not empty; GATE_FLUSH flushes it; GATE_SET_CAP on a LAT_OUT queue writes up to 15 capacities from the
first one on into the route table of the plot. A gate of no plot does not accept the token, and a command of another
operation leaves it. GATE_INJECT in its window turn puts the good head item of its queue on the input link with a
right CRC: in the epoch of the plot, or from a parked queue in an accepted epoch of its own with the parked bit; an
empty queue that neither stalls nor parks gives the idle item, which is counted. (R118, R119, R253, R256, R257, R258,
R259, R261, R269, 09_experts_and_cisterns.md Tables 9-3 and 9-4.) -/
def Obligations.GateTokensActOnTheirQueue : Prop :=
  (∀ (tile : Fin 4096) (port : Fin 4) (flip : BitVec 304) (s : State) (tok : Token) (b : Nat) (p : Plot) (l : List Flight), AtGate s tile port flip tok b p l → tok.qsel / 256 % 8 = 0 →
    exec (.gateAppend tile port flip) s = .next (match ({ s with flights := l } : State).appendItem (tileQuad tile.val) (gateQueue tile p tok)
        (gateWriter (4 * tile.val + port.val)) tok.header tok.payload with
      | (t, none) => t
      | (t, some c) => t.cistFault (tileQuad tile.val) c (gateQueue tile p tok) (gateWriter (4 * tile.val + port.val)) (some b))) ∧
  (∀ (tile : Fin 4096) (port : Fin 4) (flip : BitVec 304) (s : State) (tok : Token) (b : Nat) (p : Plot) (l : List Flight), AtGate s tile port flip tok b p l → 4 ≤ tok.qsel / 256 % 8 →
    exec (.gateAppend tile port flip) s = .next (({ s with flights := l } : State).cistFault (tileQuad tile.val) 3 (gateQueue tile p tok)
      (gateWriter (4 * tile.val + port.val)) (some b))) ∧
  (∀ (tile : Fin 4096) (port : Fin 4) (flip : BitVec 304) (s : State) (tok : Token) (b : Nat) (p : Plot) (l : List Flight), AtGate s tile port flip tok b p l → tok.qsel / 256 % 8 = 1 → parkMoves s tile p tok = false →
    exec (.gateSetMode tile port flip) s = .next (({ s with flights := l } : State).updCist (tileQuad tile.val) (fun c => c.setQueue (gateQueue tile p tok)
      (withMode (c.queue (gateQueue tile p tok)) tok.payload.toNat)))) ∧
  (∀ (tile : Fin 4096) (port : Fin 4) (flip : BitVec 304) (s : State) (tok : Token) (b : Nat) (p : Plot) (l : List Flight), AtGate s tile port flip tok b p l → tok.qsel / 256 % 8 = 1 → parkMoves s tile p tok = true →
    exec (.gateSetMode tile port flip) s = .next (({ s with flights := l } : State).cistFault (tileQuad tile.val) 4 (gateQueue tile p tok)
      (gateWriter (4 * tile.val + port.val)) (some b))) ∧
  (∀ (tile : Fin 4096) (port : Fin 4) (flip : BitVec 304) (s : State) (tok : Token) (b : Nat) (p : Plot) (l : List Flight), AtGate s tile port flip tok b p l → tok.qsel / 256 % 8 = 2 →
    exec (.gateFlush tile port flip) s = .next (({ s with flights := l } : State).updCist (tileQuad tile.val) (fun c => c.flush (gateQueue tile p tok)))) ∧
  (∀ (tile : Fin 4096) (port : Fin 4) (flip : BitVec 304) (s : State) (tok : Token) (b : Nat) (p : Plot) (l : List Flight), AtGate s tile port flip tok b p l → tok.qsel / 256 % 8 = 3 → ((s.cistern (tileQuad tile.val)).queue (gateQueue tile p tok)).latOut = true →
    ∀ (e t : Nat), ({ s with flights := l } : State).routeOf b = some (e, t) →
    ∃ y, exec (.gateSetCap tile port flip) s = .next y ∧
      (∀ j, j < 15 → fieldN tok.payload.toNat 0 16 + j < 64 →
        SMap.get 0xFFFF ((y.lateral e).table t).cap (fieldN tok.payload.toNat 0 16 + j) = fieldN tok.payload.toNat (16 + 16 * j) 16) ∧
      (∀ x, ¬ (fieldN tok.payload.toNat 0 16 ≤ x ∧ x < fieldN tok.payload.toNat 0 16 + 15) →
        SMap.get 0xFFFF ((y.lateral e).table t).cap x = SMap.get 0xFFFF ((s.lateral e).table t).cap x) ∧ y = { s with flights := l, les := y.les }) ∧
  (∀ (tile : Fin 4096) (port : Fin 4) (flip : BitVec 304) (s : State) (tok : Token) (b : Nat) (p : Plot) (l : List Flight), AtGate s tile port flip tok b p l → tok.qsel / 256 % 8 = 3 → ((s.cistern (tileQuad tile.val)).queue (gateQueue tile p tok)).latOut = false ∨ s.routeOf b = none →
    exec (.gateSetCap tile port flip) s = .next { s with flights := l }) ∧
  (∀ (tile : Fin 4096) (port : Fin 4) (flip : BitVec 304) (s : State) (tok : Token) (l : List Flight), takeFlight (4 * tile.val + port.val) true s.flights = some (tok, l) → ¬ ((tok.disturb flip).qsel / 256 % 8 = 0 ∨ 4 ≤ (tok.disturb flip).qsel / 256 % 8) → exec (.gateAppend tile port flip) s = .next s) ∧
  (∀ (tile : Fin 4096) (port : Fin 4) (flip : BitVec 304) (s : State) (tok : Token) (l : List Flight), takeFlight (4 * tile.val + port.val) true s.flights = some (tok, l) → (tok.disturb flip).qsel / 256 % 8 = 0 ∨ 4 ≤ (tok.disturb flip).qsel / 256 % 8 →
    ({ s with flights := l } : State).gatePlot (4 * tile.val + port.val) = none → exec (.gateAppend tile port flip) s = .next { s with flights := l }) ∧
  (∀ (tile : Fin 4096) (port : Fin 4) (flip : BitVec 304) (s : State) (tok : Token) (l : List Flight), takeFlight (4 * tile.val + port.val) true s.flights = some (tok, l) → (tok.disturb flip).qsel / 256 % 8 = 0 ∨ 4 ≤ (tok.disturb flip).qsel / 256 % 8 →
    (({ s with flights := l } : State).gatePlot (4 * tile.val + port.val)).isSome = true → ({ s with flights := l } : State).loadingAt tile.val = true →
    exec (.gateAppend tile port flip) s = .next (({ s with flights := l } : State).discardAt tile.val 1)) ∧
  (∀ (tile : Fin 4096) (port : Fin 4) (flip : BitVec 304) (s : State), takeFlight (4 * tile.val + port.val) true s.flights = none → exec (.gateAppend tile port flip) s = .next s) ∧
  (∀ (tile : Fin 4096) (port : Fin 4) (flip : BitVec 304) (s : State) (tok : Token) (l : List Flight), takeFlight (4 * tile.val + port.val) true s.flights = some (tok, l) → ¬ ((tok.disturb flip).qsel / 256 % 8 = 1) → exec (.gateSetMode tile port flip) s = .next s) ∧
  (∀ (tile : Fin 4096) (port : Fin 4) (flip : BitVec 304) (s : State) (tok : Token) (l : List Flight), takeFlight (4 * tile.val + port.val) true s.flights = some (tok, l) → (tok.disturb flip).qsel / 256 % 8 = 1 →
    ({ s with flights := l } : State).gatePlot (4 * tile.val + port.val) = none → exec (.gateSetMode tile port flip) s = .next { s with flights := l }) ∧
  (∀ (tile : Fin 4096) (port : Fin 4) (flip : BitVec 304) (s : State) (tok : Token) (l : List Flight), takeFlight (4 * tile.val + port.val) true s.flights = some (tok, l) → (tok.disturb flip).qsel / 256 % 8 = 1 →
    (({ s with flights := l } : State).gatePlot (4 * tile.val + port.val)).isSome = true → ({ s with flights := l } : State).loadingAt tile.val = true →
    exec (.gateSetMode tile port flip) s = .next (({ s with flights := l } : State).discardAt tile.val 1)) ∧
  (∀ (tile : Fin 4096) (port : Fin 4) (flip : BitVec 304) (s : State), takeFlight (4 * tile.val + port.val) true s.flights = none → exec (.gateSetMode tile port flip) s = .next s) ∧
  (∀ (tile : Fin 4096) (port : Fin 4) (flip : BitVec 304) (s : State) (tok : Token) (l : List Flight), takeFlight (4 * tile.val + port.val) true s.flights = some (tok, l) → ¬ ((tok.disturb flip).qsel / 256 % 8 = 2) → exec (.gateFlush tile port flip) s = .next s) ∧
  (∀ (tile : Fin 4096) (port : Fin 4) (flip : BitVec 304) (s : State) (tok : Token) (l : List Flight), takeFlight (4 * tile.val + port.val) true s.flights = some (tok, l) → (tok.disturb flip).qsel / 256 % 8 = 2 →
    ({ s with flights := l } : State).gatePlot (4 * tile.val + port.val) = none → exec (.gateFlush tile port flip) s = .next { s with flights := l }) ∧
  (∀ (tile : Fin 4096) (port : Fin 4) (flip : BitVec 304) (s : State) (tok : Token) (l : List Flight), takeFlight (4 * tile.val + port.val) true s.flights = some (tok, l) → (tok.disturb flip).qsel / 256 % 8 = 2 →
    (({ s with flights := l } : State).gatePlot (4 * tile.val + port.val)).isSome = true → ({ s with flights := l } : State).loadingAt tile.val = true →
    exec (.gateFlush tile port flip) s = .next (({ s with flights := l } : State).discardAt tile.val 1)) ∧
  (∀ (tile : Fin 4096) (port : Fin 4) (flip : BitVec 304) (s : State), takeFlight (4 * tile.val + port.val) true s.flights = none → exec (.gateFlush tile port flip) s = .next s) ∧
  (∀ (tile : Fin 4096) (port : Fin 4) (flip : BitVec 304) (s : State) (tok : Token) (l : List Flight), takeFlight (4 * tile.val + port.val) true s.flights = some (tok, l) → ¬ ((tok.disturb flip).qsel / 256 % 8 = 3) → exec (.gateSetCap tile port flip) s = .next s) ∧
  (∀ (tile : Fin 4096) (port : Fin 4) (flip : BitVec 304) (s : State) (tok : Token) (l : List Flight), takeFlight (4 * tile.val + port.val) true s.flights = some (tok, l) → (tok.disturb flip).qsel / 256 % 8 = 3 →
    ({ s with flights := l } : State).gatePlot (4 * tile.val + port.val) = none → exec (.gateSetCap tile port flip) s = .next { s with flights := l }) ∧
  (∀ (tile : Fin 4096) (port : Fin 4) (flip : BitVec 304) (s : State) (tok : Token) (l : List Flight), takeFlight (4 * tile.val + port.val) true s.flights = some (tok, l) → (tok.disturb flip).qsel / 256 % 8 = 3 →
    (({ s with flights := l } : State).gatePlot (4 * tile.val + port.val)).isSome = true → ({ s with flights := l } : State).loadingAt tile.val = true →
    exec (.gateSetCap tile port flip) s = .next (({ s with flights := l } : State).discardAt tile.val 1)) ∧
  (∀ (tile : Fin 4096) (port : Fin 4) (flip : BitVec 304) (s : State), takeFlight (4 * tile.val + port.val) true s.flights = none → exec (.gateSetCap tile port flip) s = .next s) ∧
  (∀ (tile : Fin 4096) (port : Fin 4) (turn : Fin 256) (s : State) (b i k : Nat) (p : Plot) (h : BitVec 32) (pay : BitVec 256), openWindow s tile port turn b p i →
    s.headItem (tileQuad tile.val) (streamQueue tile p i) = some (k, h, pay) → s.headUe (tileQuad tile.val) (streamQueue tile p i) = none →
    ((s.cistern (tileQuad tile.val)).queue (streamQueue tile p i)).park = false →
    ∃ t tok, exec (.gateInject tile port turn) s = .next t ∧ t.flights = s.flights ++ [⟨4 * tile.val + port.val, false, tok⟩] ∧
      tok.payload = pay ∧ tok.epoch = p.epoch % 16 ∧ tok.tag = fieldN h.toNat 3 9 ∧ tok.crcOk = true ∧
      t.cist = (s.takeItem (tileQuad tile.val) (streamQueue tile p i)).cist) ∧
  (∀ (tile : Fin 4096) (port : Fin 4) (turn : Fin 256) (s : State) (b i k : Nat) (p : Plot) (h : BitVec 32) (pay : BitVec 256), openWindow s tile port turn b p i →
    s.headItem (tileQuad tile.val) (streamQueue tile p i) = some (k, h, pay) → s.headUe (tileQuad tile.val) (streamQueue tile p i) = none →
    ((s.cistern (tileQuad tile.val)).queue (streamQueue tile p i)).park = true → bitB (s.tile tile.val).regs.epochAccept (fieldN h.toNat 12 4) = true →
    ∃ t tok, exec (.gateInject tile port turn) s = .next t ∧ t.flights = s.flights ++ [⟨4 * tile.val + port.val, false, tok⟩] ∧
      tok.payload = pay ∧ tok.epoch = fieldN h.toNat 12 4 ∧ tok.parked = true ∧ tok.tag = fieldN h.toNat 3 9 ∧ tok.crcOk = true) ∧
  (∀ (tile : Fin 4096) (port : Fin 4) (turn : Fin 256) (s : State) (b i : Nat) (p : Plot), openWindow s tile port turn b p i →
    s.headItem (tileQuad tile.val) (streamQueue tile p i) = none →
    exec (.gateInject tile port turn) s = .next (if ((s.cistern (tileQuad tile.val)).queue (streamQueue tile p i)).stall = true ∨
        ((s.cistern (tileQuad tile.val)).queue (streamQueue tile p i)).park = true then s
      else (s.idleItem (tileQuad tile.val)).gateSend (4 * tile.val + port.val)
        (mkHeader 0 511 p.epoch (((s.cistern (tileQuad tile.val)).queue (streamQueue tile p i)).deliv % 16)) 0))

/-- A reader takes the items of the head packet in order; a cell whose last item is taken returns, and the packet goes
with its last item. The head item of a queue is the one its reader has reached in the first cell that the packet at
the head still holds. Taking an item that is neither the last of its cell nor of its packet moves the reader on and
frees nothing; taking the last item of a cell returns that cell to the free list; taking the last item of the packet
removes the packet, so the count of packets falls by one, and the cell it still holds returns. (R255.) -/
def Obligations.ReadersTakeItemsFromTheHead : Prop :=
  (∀ (s : State) (q n : Nat) (p : Pkt) (l : List Pkt), ((s.cistern q).queue n).pkts = p :: l →
    (s.headItem q n).map (fun x => x.1) = some (s.cellKey q (p.cells.headD 0))) ∧
  (∀ (c : Cistern) (n : Nat) (p : Pkt) (l : List Pkt), (c.queue n).pkts = p :: l → (c.queue n).pos + 1 ≠ p.n → ((c.queue n).pos + 1) % 14 ≠ 0 →
    (c.popItem n).queue n = { c.queue n with pos := (c.queue n).pos + 1 } ∧ (c.popItem n).freed = c.freed) ∧
  (∀ (c : Cistern) (n x : Nat) (r : List Nat) (p : Pkt) (l : List Pkt), (c.queue n).pkts = p :: l → p.cells = x :: r → (c.queue n).pos + 1 ≠ p.n →
    ((c.queue n).pos + 1) % 14 = 0 →
    (c.popItem n).queue n = { c.queue n with pkts := { p with cells := r } :: l, pos := (c.queue n).pos + 1 } ∧ (c.popItem n).freed = x :: c.freed) ∧
  (∀ (c : Cistern) (n : Nat) (p : Pkt) (l : List Pkt), (c.queue n).pkts = p :: l → (∀ y ∈ l, y.doomed = false) → (c.queue n).pos + 1 = p.n →
    ((c.popItem n).queue n).pkts = l ∧ ((c.popItem n).queue n).pos = 0 ∧ (c.popItem n).freed = p.cells ++ c.freed) ∧
  (∀ (c : Cistern) (n : Nat), (c.queue n).pkts = [] → c.popItem n = c)

/-- A writer links a whole packet to the tail of its queue in one step, and an item without a cell breaks its packet.
Linking puts a packet behind every packet of its queue and changes none of them. The first item of a packet takes a
cell within the quota of the owner and starts building, no reader seeing it, and a packet of one item is linked at
once; where no cell can be had the fault is 1 and the queue keeps its packets. A cell is only taken while the owner
holds fewer than its quota, and counts against it. (R253, R250, 09_experts_and_cisterns.md Table 9-9.) -/
def Obligations.PacketsLinkWholeAtTheTail : Prop :=
  (∀ (s : State) (q n : Nat) (cells : List Nat) (items : Nat),
    (((s.linkPkt q n cells items).cistern q).queue n).pkts = ((s.cistern q).queue n).pkts ++ [⟨cells, items, false, false⟩]) ∧
  (∀ (s : State) (q n w : Nat) (hdr : BitVec 32) (pay : BitVec 256), (s.cistern q).building = [] →
    (s.cistern q).take (queueOwner n) = none →
    (s.appendItem q n w hdr pay).2 = some 1 ∧ (((s.appendItem q n w hdr pay).1.cistern q).queue n).pkts = ((s.cistern q).queue n).pkts) ∧
  (∀ (s : State) (q n w x : Nat) (c1 : Cistern) (hdr : BitVec 32) (pay : BitVec 256), (s.cistern q).building = [] → hdr.getLsbD 2 = false →
    (s.cistern q).take (queueOwner n) = some (x, c1) →
    (s.appendItem q n w hdr pay).2 = none ∧ ((s.appendItem q n w hdr pay).1.cistern q).building = [⟨w, n, [x], 1, false, false, false⟩] ∧
      ((s.appendItem q n w hdr pay).1.cistern q).queue n = c1.queue n) ∧
  (∀ (s : State) (q n w x : Nat) (c1 : Cistern) (hdr : BitVec 32) (pay : BitVec 256), (s.cistern q).building = [] → hdr.getLsbD 2 = true →
    (s.cistern q).take (queueOwner n) = some (x, c1) →
    (s.appendItem q n w hdr pay).2 = none ∧ ((s.appendItem q n w hdr pay).1.cistern q).building = [] ∧
      (((s.appendItem q n w hdr pay).1.cistern q).queue n).pkts = (c1.queue n).pkts ++ [⟨[x], 1, false, false⟩]) ∧
  (∀ (c : Cistern) (o x : Nat) (c1 : Cistern), c.take o = some (x, c1) → c.heldBy o < c.quotaOf o ∧ c1.heldBy o = c.heldBy o + 1) ∧
  (∀ (c : Cistern) (o : Nat), c.quotaOf o ≤ c.heldBy o → c.take o = none)

/-- A plot drains, loads the next section in the next epoch that is not held, and is forced where the drain, the load or
the epochs fail. SWITCH_REQUEST with the end report makes a RUNNING plot SWITCHING and stops the firing of its tiles,
and is held in a YIELDING one. DRAIN_COMPLETE of a drained plot begins the image load, discards the tokens left in its
tiles and counts them in PLOT_DISCARD. DRAIN_BOUND of a plot not drained forces it with cause 1. IMAGE_LOAD_COMPLETE
finishes the switch, holding the epoch where the section says so; out of a LAST section all epochs are released and
parked queues unparked, or, where a parked queue is not empty, the plot is forced with cause 4. In any other state
each of the four changes nothing. A finished switch loads the next section on every tile in the next epoch that is not
held, with the section, its accept mask and END_REMAIN in the plot, and counts itself; tiles and memory outside the
plot stay. After a LAST section the plot is IDLE and the task ends; else it runs, or yields where a yield was held,
once its entries are examined (one that does not fit raises ILLEGAL_WORD). Where tokens were left at the switch it is
forced with cause 2, and without a free epoch or with more epochs held than the plat allows with cause 3. (R142, R143,
R146, R147, R148, R149, R187, R259, 05_plats_and_sections.md Tables 5-3, 5-7 and 5-12.) -/
def Obligations.PlotSwitchesSections : Prop :=
  (∀ (lead : Fin 64) (s : State) (p : Plot), s.plot lead.val = some p → p.endReport = true → p.state = .running →
    ∃ t, exec (.switchRequest lead) s = .next t ∧ t.plot lead.val = some { p with state := .switching, endReport := false } ∧
      (∀ g, g ∈ p.tiles → (t.tile g).fireStop = true) ∧ (∀ g, g ∉ p.tiles → t.tile g = s.tile g) ∧ t.mem = s.mem) ∧
  (∀ (lead : Fin 64) (s : State) (p : Plot), s.plot lead.val = some p → p.endReport = true → p.state = .yielding → exec (.switchRequest lead) s = .next (s.setPlot lead.val { p with heldSwitch := true, endReport := false })) ∧
  (∀ (lead : Fin 64) (s : State) (p : Plot), s.plot lead.val = some p → p.endReport = false ∨ (p.state ≠ .running ∧ p.state ≠ .yielding) → exec (.switchRequest lead) s = .next (s)) ∧
  (∀ (lead : Fin 64) (s : State), s.plot lead.val = none → exec (.switchRequest lead) s = .next s) ∧
  (∀ (d : Nat) (lead : Fin 64) (s : State) (p : Plot), s.plot lead.val = some p → p.state = .switching → p.loading = false → s.drained p = true →
    ∃ t, exec (.drainComplete lead d) s = .next t ∧ t.plot lead.val = some { p with loading := true, leftover := decide (0 < leftTokens s p), drain := d } ∧
      (t.block lead.val).regs.discard = satAdd 32 (s.block lead.val).regs.discard (leftTokens s p) ∧
      (∀ g, g ∈ p.tiles → (t.tile g).queues = [] ∧ (t.tile g).matchStore = [] ∧ (t.tile g).tregs = []) ∧ t.mem = s.mem) ∧
  (∀ (d : Nat) (lead : Fin 64) (s : State) (p : Plot), s.plot lead.val = some p → p.state ≠ .switching ∨ p.loading = true ∨ s.drained p = false → exec (.drainComplete lead d) s = .next (s)) ∧
  (∀ (d : Nat) (lead : Fin 64) (s : State), s.plot lead.val = none → exec (.drainComplete lead d) s = .next s) ∧
  (∀ (lead : Fin 64) (s : State) (p : Plot), s.plot lead.val = some p → p.state = .switching → p.loading = false → s.drained p = false →
    ∃ t, exec (.drainBound lead) s = .next t ∧ forcedBy s t lead.val 0x01 ∧ t.tiles = s.tiles ∧ t.mem = s.mem) ∧
  (∀ (lead : Fin 64) (s : State) (p : Plot), s.plot lead.val = some p → p.state ≠ .switching ∨ p.loading = true ∨ s.drained p = true → exec (.drainBound lead) s = .next (s)) ∧
  (∀ (lead : Fin 64) (s : State), s.plot lead.val = none → exec (.drainBound lead) s = .next s) ∧
  (∀ (lead : Fin 64) (s : State) (p : Plot), s.plot lead.val = some p → p.state = .switching → p.loading = true → lastSect p = false → exec (.imageLoadComplete lead) s = .next (s.finishSwitch lead.val p.holdEpoch false)) ∧
  (∀ (lead : Fin 64) (s : State) (p : Plot), s.plot lead.val = some p → p.state = .switching → p.loading = true → lastSect p = true → s.parkedEmpty p = true → exec (.imageLoadComplete lead) s = .next ((s.unpark p).finishSwitch lead.val { p.holdEpoch with held := 0, heldBy := [] } true)) ∧
  (∀ (lead : Fin 64) (s : State) (p : Plot), s.plot lead.val = some p → p.state = .switching → p.loading = true → lastSect p = true → s.parkedEmpty p = false →
    ∃ t, exec (.imageLoadComplete lead) s = .next t ∧ forcedBy s t lead.val 0x04) ∧
  (∀ (lead : Fin 64) (s : State) (p : Plot), s.plot lead.val = some p → p.state ≠ .switching ∨ p.loading = false → exec (.imageLoadComplete lead) s = .next (s)) ∧
  (∀ (lead : Fin 64) (s : State), s.plot lead.val = none → exec (.imageLoadComplete lead) s = .next s) ∧
  (∀ (b e : Nat) (s : State) (p : Plot), nextEpoch p.held p.epoch = some e → heldCount p.held ≤ p.env 3 1 → p.leftover = false →
    ∃ t : State, s.finishSwitch b p false = t.examineEntries p ∧
      t.plot b = some { p with
        state := if p.heldYield then .yielding else .running, heldYield := false, sect := p.sectField p.sect 3 1, carried := p.carryOn, epoch := e
        accept := p.acceptOf (p.sectField p.sect 3 1), loading := false, leftover := false, endReport := false } ∧
      switchCounted s t b p (p.sectField p.sect 3 1) ∧
      (∀ g, g ∈ p.tiles → (t.tile g).regs.epoch = e ∧ (t.tile g).regs.epochAccept = p.acceptOf (p.sectField p.sect 3 1) ∧ (t.tile g).fireStop = false) ∧
      (∀ g, g ∉ p.tiles → t.tile g = s.tile g) ∧ t.mem = s.mem) ∧
  (∀ (b e : Nat) (s : State) (p : Plot), nextEpoch p.held p.epoch = some e → heldCount p.held ≤ p.env 3 1 → p.leftover = false →
    ∃ t : State, s.finishSwitch b p true = t.endTask b ∧
      t.plot b = some { p with
        state := .idle, sect := leAt p.plat 8 1, carried := p.carryOn, epoch := e, accept := p.acceptOf (leAt p.plat 8 1)
        loading := false, leftover := false, endReport := false } ∧
      switchCounted s t b p (leAt p.plat 8 1) ∧
      (∀ g, g ∈ p.tiles → (t.tile g).regs.epoch = e ∧ (t.tile g).regs.state = ((s.tile g).regs.become .idle) ∧ (t.tile g).fireStop = false) ∧
      (∀ g, g ∉ p.tiles → t.tile g = s.tile g) ∧ t.mem = s.mem) ∧
  (∀ (s : State) (p : Plot), (∀ g, g ∈ p.tiles → (s.tile g).badEntry = none) → s.examineEntries p = s) ∧
  (∀ (s : State) (p : Plot) (g i : Nat), p.tiles.find? (fun g => (s.tile g).badEntry.isSome) = some g → (s.tile g).badEntry = some i →
    s.examineEntries p = s.tileFault g 0x01 (faultInfo 0 i 0 0) 0x0403) ∧
  (∀ (b : Fin 64) (e : Nat) (s : State) (p : Plot) (last : Bool), nextEpoch p.held p.epoch = some e → heldCount p.held ≤ p.env 3 1 → p.leftover = true →
    p.state = .switching → forcedBy s (s.finishSwitch b.val p last) b.val 0x02 ∧ (s.finishSwitch b.val p last).mem = s.mem ∧
      (∀ g, g ∈ p.tiles → ((s.finishSwitch b.val p last).tile g).regs.epoch = e)) ∧
  (∀ (held epoch e : Nat), nextEpoch held epoch = some e → e < 16 ∧ bitB held e = false) ∧
  (∀ (b : Nat) (s : State) (p : Plot) (last : Bool), nextEpoch p.held p.epoch = none ∨ p.env 3 1 < heldCount p.held →
    s.finishSwitch b p last = s.force b 0x03 0x0403 0)

/-- A force records its cause once, and the forced switch leaves the plot idle at its first section in a fresh epoch. A
write of FORCE (cause 32), a step beyond its limit (8) and a yield beyond its bound (5) force the plot: the state is
FORCING with that cause, the fault record holds it unless an older one stands, FORCE_CNT counts and the interrupt
source of the block is pending; tiles and memory stay. FORCE and RELEASE do nothing to a FREE or FILLING plot or a
block without one; RELEASE is else kept as written; STEP_LIMIT needs a task, YIELD_BOUND a YIELDING plot with a tile
not done. A force that meets a forced switch only sets MULTI. One that meets a save in progress gives PREEMPTED, but
for cause 7. FORCED_SWITCH resets a FORCING plot: IDLE at its first section, in the epoch a switch would take (the
next one not held, where none is held after a LAST section whose parked queues are empty), nothing held or carried, no
token on the links of its tiles, no context or token in them, END_REMAIN that of the section. The field book then has
the event; a task ends aborted (each request of its batch with the status of the force, where it is not to run again),
as do the tasks that took part in its step; a plot with RELEASE set goes; and a degradation that waits for the plot
proceeds. (R149, R150, R151, R153, R155, R156, R276, 05_plats_and_sections.md Tables 5-7, 5-9 and 5-12.) -/
def Obligations.PlotIsForced : Prop :=
  (∀ (lead : Fin 64) (s : State) (p : Plot), s.plot lead.val = some p → p.state ≠ .free → p.state ≠ .filling → p.state ≠ .forcing →
    ∃ t, exec (.plotForce lead) s = .next t ∧ forcedBy s t lead.val 0x20 ∧ t.tiles = s.tiles ∧ t.mem = s.mem) ∧
  (∀ (lead : Fin 64) (s : State) (p : Plot), s.plot lead.val = some p → p.state = .forcing → exec (.plotForce lead) s = .next (s.force lead.val 0x20 0x0403 0)) ∧
  (∀ (lead : Fin 64) (s : State) (p : Plot), s.plot lead.val = some p → p.state = .free ∨ p.state = .filling → exec (.plotForce lead) s = .next s) ∧
  (∀ (lead : Fin 64) (s : State), s.plot lead.val = none → exec (.plotForce lead) s = .next s) ∧
  (∀ (lead : Fin 64) (s : State) (p : Plot), s.plot lead.val = some p → p.task.isSome = true → p.state ≠ .free → p.state ≠ .forcing →
    ∃ t, exec (.stepLimit lead) s = .next t ∧ forcedBy s t lead.val 0x08 ∧ t.tiles = s.tiles ∧ t.mem = s.mem) ∧
  (∀ (lead : Fin 64) (s : State) (p : Plot), s.plot lead.val = some p → p.task.isSome = true → p.state = .free ∨ p.state = .forcing → exec (.stepLimit lead) s = .next (s.force lead.val 0x08 0x0403 0)) ∧
  (∀ (lead : Fin 64) (s : State) (p : Plot), s.plot lead.val = some p → p.task.isSome = false → exec (.stepLimit lead) s = .next (s)) ∧
  (∀ (lead : Fin 64) (s : State), s.plot lead.val = none → exec (.stepLimit lead) s = .next s) ∧
  (∀ (lead : Fin 64) (s : State) (p : Plot), s.plot lead.val = some p → p.state = .yielding → (∃ g, g ∈ p.tiles ∧ (s.tile g).regs.yieldDone = false) →
    ∃ t, exec (.yieldBound lead) s = .next t ∧ forcedBy s t lead.val 0x05 ∧ t.tiles = s.tiles ∧ t.mem = s.mem) ∧
  (∀ (lead : Fin 64) (s : State) (p : Plot), s.plot lead.val = some p → p.state ≠ .yielding ∨ (∀ g, g ∈ p.tiles → (s.tile g).regs.yieldDone = true) → exec (.yieldBound lead) s = .next (s)) ∧
  (∀ (lead : Fin 64) (s : State), s.plot lead.val = none → exec (.yieldBound lead) s = .next s) ∧
  (∀ (on : Bool) (lead : Fin 64) (s : State) (p : Plot), s.plot lead.val = some p → p.state ≠ .free → p.state ≠ .filling →
    ∃ t, exec (.plotReleaseBit lead on) s = .next t ∧ t.plot lead.val = some { p with release := on } ∧ (∀ i, i ≠ lead.val → t.block i = s.block i) ∧ t.tiles = s.tiles ∧ t.mem = s.mem) ∧
  (∀ (on : Bool) (lead : Fin 64) (s : State) (p : Plot), s.plot lead.val = some p → p.state = .free ∨ p.state = .filling → exec (.plotReleaseBit lead on) s = .next (s)) ∧
  (∀ (on : Bool) (lead : Fin 64) (s : State), s.plot lead.val = none → exec (.plotReleaseBit lead on) s = .next s) ∧
  (∀ (lead : Fin 64) (s : State) (p : Plot), s.plot lead.val = some p → p.state = .forcing → p.release = false → exec (.forcedSwitch lead) s = .next ((if p.task.isSome then ((s.resetPlot lead.val p).postForced lead.val p).abortForced lead.val p else (s.resetPlot lead.val p).postForced lead.val p).degrade lead.val)) ∧
  (∀ (lead : Fin 64) (s : State) (p : Plot), s.plot lead.val = some p → p.state = .forcing → p.release = true → exec (.forcedSwitch lead) s = .next ((if p.task.isSome then ((s.resetPlot lead.val p).postForced lead.val p).abortForced lead.val p else (s.resetPlot lead.val p).postForced lead.val p).dropForced lead.val p.forceStatus)) ∧
  (∀ (lead : Fin 64) (s : State) (p : Plot), s.plot lead.val = some p → quietForce s p →
    ∃ t, exec (.forcedSwitch lead) s = .next t ∧ t = (s.resetPlot lead.val p).postForced lead.val p ∧ t.plot lead.val = (s.resetPlot lead.val p).plot lead.val) ∧
  (∀ (lead : Fin 64) (s : State) (p : Plot), s.plot lead.val = some p → p.state ≠ .forcing → exec (.forcedSwitch lead) s = .next (s)) ∧
  (∀ (lead : Fin 64) (s : State), s.plot lead.val = none → exec (.forcedSwitch lead) s = .next s) ∧
  (∀ (b : Nat) (s : State) (p : Plot), (s.resetPlot b p).plot b = some { p.unforce with
      state := .idle, sect := leAt p.plat 8 1
      epoch := (nextEpoch (if lastSect p = true ∧ s.parkedEmpty p = true then 0 else p.holdEpoch.held) p.epoch).getD 0
      held := 0, heldBy := [], accept := 0, endReport := false, heldSwitch := false, heldYield := false, yieldReq := false, loading := false
      leftover := false, carried := [], kvIn := [], kvOut := [] } ∧
    (∀ x, x ∈ (s.resetPlot b p).flights → ¬ (x.dst / 4 ∈ p.tiles)) ∧ ((s.resetPlot b p).block b).regs.endRemain = p.sectField (leAt p.plat 8 1) 0xC 4 ∧
    (∀ g, g ∈ p.tiles → ((s.resetPlot b p).tile g).ctxs = [] ∧ ((s.resetPlot b p).tile g).queues = [] ∧ ((s.resetPlot b p).tile g).halted = false)) ∧
  (∀ (b : Nat) (s : State) (p : Plot) (k : Task), s.plot b = some p → p.task = some k → ¬ (p.forceRetry = true ∧ k.retried = false) → p.forceStatus ≠ 0x0407 →
    s.abortTask b p.forceStatus p.forceRetry = (((((s.setPlot b { p with task := none, kvIn := [], kvOut := [], redo := none }).latStepEnd b true).endSlots
      k.slots p.forceStatus)).stepReport b p k).settle) ∧
  (∀ (s : State) (p : Plot) (b c1 c2 st tile : Nat) (info : BitVec 64) (m retry : Bool), s.plot b = some p → p.state = .forcing →
    (s.block b).regs.fault = ⟨c1, true, m, info⟩ →
    ((s.force b c2 st tile retry).block b).regs.fault = ⟨c1, true, true, info⟩ ∧ (s.force b c2 st tile retry).plot b = some p) ∧
  (∀ (s : State) (b c st tile : Nat) (retry : Bool), (∀ p, s.plot b = some p → p.state = .free) → s.force b c st tile retry = s) ∧
  (∀ (s : State) (p : Plot) (b c st tile : Nat) (retry : Bool), s.plot b = some p → p.state ≠ .free → p.state ≠ .forcing →
    ∃ q, (s.force b c st tile retry).plot b = some q ∧ q.state = .forcing ∧ q.forceCause = c ∧ q.loading = false ∧ q.task = p.task ∧
      (p.state = .yielding → (∀ g, g ∈ p.tiles → (s.tile g).regs.yieldDone = true) → c ≠ 0x07 → q.forceStatus = 0x0402 ∧ q.forceRetry = p.forceRetry) ∧
      (p.state ≠ .yielding ∨ (∃ g, g ∈ p.tiles ∧ (s.tile g).regs.yieldDone = false) → q.forceStatus = st ∧ q.forceRetry = (retry || p.forceRetry)))

/-- A yield request is passed to the tiles, a finished save leaves the plot free and a place waiting, a restore puts the
saved task back. PLOT_YIELD_REQ makes a RUNNING plot YIELDING and sets YIELD_REQ of its tiles; during a switch it is
held; taking it back clears the bits of the tiles, and a YIELDING plot runs on, or switches where a switch request was
held; repeated, or on a FREE or FILLING plot, it changes nothing. SAVE_COMPLETE when every tile is done keeps the
task, section, epochs and live sets under a new number, waits for a place for it, and releases the plot: the block
leads none and its tiles belong to no plot; a save larger than SAVE_MAX forces the plot with cause 7; before that
nothing changes. RESTORE of a saved task that has its turn and a place puts task, section, epoch, held epochs, step
number, page moves and END_REMAIN back, RUNNING or in the switch it had asked for, each tile with its registers,
semaphores, tokens and owned banks, and forgets the save; where the bytes of the save hold an uncorrectable word every
request of the batch ends with PREEMPTED instead; without a turn, a place or SERVE nothing changes. (R34, R61, R62,
R152, R153, R154, R341, R344, R345, 05_plats_and_sections.md Table 5-10.) -/
def Obligations.PlotYieldsSavesAndRestores : Prop :=
  (∀ (lead : Fin 64) (s : State) (p : Plot), s.plot lead.val = some p → p.state = .running → p.yieldReq = false →
    ∃ t, exec (.plotYieldReq lead true) s = .next t ∧ t.plot lead.val = some { p with yieldReq := true, state := .yielding } ∧
      (∀ g, g ∈ p.tiles → (t.tile g).regs.yieldReq = true) ∧ (∀ g, g ∉ p.tiles → t.tile g = s.tile g) ∧ t.mem = s.mem) ∧
  (∀ (lead : Fin 64) (s : State) (p : Plot), s.plot lead.val = some p → p.state = .switching → p.yieldReq = false →
    ∃ t, exec (.plotYieldReq lead true) s = .next t ∧ t.plot lead.val = some { p with yieldReq := true, heldYield := true } ∧ t.tiles = s.tiles ∧ t.mem = s.mem) ∧
  (∀ (lead : Fin 64) (s : State) (p : Plot), s.plot lead.val = some p → p.state ≠ .free → p.state ≠ .filling → p.state ≠ .switching → p.state ≠ .running → p.yieldReq = false →
    ∃ t, exec (.plotYieldReq lead true) s = .next t ∧ t.plot lead.val = some { p with yieldReq := true } ∧
      (∀ g, g ∈ p.tiles → (t.tile g).regs.yieldReq = true) ∧ (∀ g, g ∉ p.tiles → t.tile g = s.tile g) ∧ t.mem = s.mem) ∧
  (∀ (lead : Fin 64) (s : State) (p : Plot), s.plot lead.val = some p → p.state = .yielding → p.yieldReq = true →
    ∃ t, exec (.plotYieldReq lead false) s = .next t ∧ t.plot lead.val = some { p with yieldReq := false, heldYield := false, saveArea := [], heldSwitch := false, state := if p.heldSwitch then .switching else .running } ∧
      (∀ g, g ∈ p.tiles → (t.tile g).regs.yieldReq = false ∧ (t.tile g).regs.yieldDone = false ∧ (p.heldSwitch = true → (t.tile g).fireStop = true)) ∧
      (∀ g, g ∉ p.tiles → t.tile g = s.tile g) ∧ t.mem = s.mem) ∧
  (∀ (lead : Fin 64) (s : State) (p : Plot), s.plot lead.val = some p → p.state ≠ .free → p.state ≠ .filling → p.state ≠ .yielding → p.yieldReq = true →
    ∃ t, exec (.plotYieldReq lead false) s = .next t ∧ t.plot lead.val = some { p with yieldReq := false, heldYield := false, saveArea := [], heldSwitch := false } ∧
      (∀ g, g ∈ p.tiles → (t.tile g).regs.yieldReq = false ∧ (t.tile g).regs.yieldDone = false) ∧ (∀ g, g ∉ p.tiles → t.tile g = s.tile g) ∧ t.mem = s.mem) ∧
  (∀ (on : Bool) (lead : Fin 64) (s : State) (p : Plot), s.plot lead.val = some p → p.state = .free ∨ p.state = .filling ∨ p.yieldReq = on → exec (.plotYieldReq lead on) s = .next (s)) ∧
  (∀ (on : Bool) (lead : Fin 64) (s : State), s.plot lead.val = none → exec (.plotYieldReq lead on) s = .next s) ∧
  (∀ (lead : Fin 64) (s : State) (p : Plot), s.plot lead.val = some p → p.state = .yielding → (∀ g, g ∈ p.tiles → (s.tile g).regs.yieldDone = true) →
    p.saveArea.foldl (fun a x => a + p.saveBytes x) 0 ≤ p.env 0x20 8 → exec (.saveComplete lead) s = .next ((s.keepSave lead.val p).releasePlot lead.val 0 0)) ∧
  (∀ (b : Nat) (s : State) (p : Plot), (s.keepSave b p).plot b = some { p with state := .saved } ∧
      ((s.keepSave b p).sched.waits = s.sched.waits ++ [⟨p.model, false, some s.sched.nextSaved⟩]) ∧
      (∃ k, SMap.get none (s.keepSave b p).sched.saved s.sched.nextSaved = some k ∧ k.model = p.model ∧ k.task = p.task ∧ k.sect = p.sect ∧ k.epoch = p.epoch ∧
        k.held = p.held ∧ k.heldSwitch = p.heldSwitch ∧ k.steps = p.steps ∧ k.endRemain = (s.block b).regs.endRemain ∧ k.tiles = p.saveArea ∧
        k.bytes = 4096 + p.saveArea.foldl (fun a x => a + p.saveBytes x) 0) ∧ (s.keepSave b p).tiles = s.tiles) ∧
  (∀ (b what id : Nat) (s : State) (p : Plot), s.plot b = some p → (s.releasePlot b what id).plot b = none ∧
      (∀ g, g ∈ p.tiles → ((s.releasePlot b what id).tile g).lead = none ∧ ((s.releasePlot b what id).tile g).ctxs = [])) ∧
  (∀ (lead : Fin 64) (s : State) (p : Plot), s.plot lead.val = some p → p.state = .yielding → (∀ g, g ∈ p.tiles → (s.tile g).regs.yieldDone = true) →
    p.env 0x20 8 < p.saveArea.foldl (fun a x => a + p.saveBytes x) 0 →
    ∃ t, exec (.saveComplete lead) s = .next t ∧ forcedBy s t lead.val 0x07 ∧ t.tiles = s.tiles ∧ t.mem = s.mem) ∧
  (∀ (lead : Fin 64) (s : State) (p : Plot), s.plot lead.val = some p → p.state ≠ .yielding ∨ (∃ g, g ∈ p.tiles ∧ (s.tile g).regs.yieldDone = false) → exec (.saveComplete lead) s = .next (s)) ∧
  (∀ (lead : Fin 64) (s : State), s.plot lead.val = none → exec (.saveComplete lead) s = .next s) ∧
  (∀ (saved : Nat) (s s0 : State) (k : SavedTask) (w : WaitPlace) (p : Plot), SMap.get none s.sched.saved saved = some k →
    s.sched.waits.find? (fun w => w.saved == some saved) = some w → s.power.mayStep = true → s.waitTurn w = true → s.placing w = some (p, s0) →
    firstUe 32 s.mem.ueRes k.place k.bytes = none →
    exec (.restore saved) s = .next ((((s0.place p).writeImages p).resume p.lead { p with
      gates := p.edgeGates, steps := k.steps, mark := k.mark, markNext := k.mark, phi := k.phi, phiNext := k.phi, phiStar := k.phi } k k.task).forgetSave saved)) ∧
  (∀ (saved u : Nat) (s s0 : State) (k : SavedTask) (w : WaitPlace) (p : Plot), SMap.get none s.sched.saved saved = some k →
    s.sched.waits.find? (fun w => w.saved == some saved) = some w → s.power.mayStep = true → s.waitTurn w = true → s.placing w = some (p, s0) →
    firstUe 32 s.mem.ueRes k.place k.bytes = some u →
    exec (.restore saved) s = .next ((((s.countTier 6 (s.boardAddr u)).forgetSave saved).endSlots (k.task.elim [] (fun x => x.slots)) 0x0402).settle)) ∧
  (∀ (saved : Nat) (s : State), SMap.get none s.sched.saved saved = none ∨ s.power.mayStep = false ∨
    (∀ w, s.sched.waits.find? (fun w => w.saved == some saved) = some w → s.waitTurn w = false ∨ s.placing w = none) → exec (.restore saved) s = .next s) ∧
  (∀ (b : Nat) (s : State) (p : Plot) (k : SavedTask) (task : Option Task), ∃ t : State, s.resume b p k task = t.kvFeed b ∧
    t.plot b = some { p with
      held := k.held, heldBy := k.heldBy, state := if k.heldSwitch then .switching else .running, sect := k.sect, epoch := k.epoch
      accept := ({ p with held := k.held, heldBy := k.heldBy } : Plot).acceptOf k.sect, task := task, redo := none, endReport := false, lastSave := some k
      carried := [], lastStepAt := s.now, kvIn := k.kvIn, kvOut := k.kvOut } ∧
    (t.block b).regs.endRemain = k.endRemain ∧ (∀ g, g ∈ p.tiles → (t.tile g).regs.epoch = k.epoch) ∧ t.mem = s.mem) ∧
  (∀ (t : Tile) (x : SavedTile), (t.restore x).s = x.s ∧ (t.restore x).p = x.p ∧ (t.restore x).v = x.v ∧ (t.restore x).sem = x.sem ∧
    (t.restore x).queues = x.queues ∧
    (∀ c, (t.restore x).a0.owner = some c → ∃ y, y ∈ x.ctxs ∧ y.slot = c ∧ (t.trigAt y.ctx.entry).own0 = true)) ∧
  (∀ (saved : Nat) (s : State), SMap.get none (s.forgetSave saved).sched.saved saved = none ∧ (∀ w, w ∈ (s.forgetSave saved).sched.waits → w.saved ≠ some saved))

/-- The Surveyor places and releases plots, a fill makes the plot idle and its model FILLED, a scrub frees its space, a
step starts on an idle plot. PLACEMENT of a model that waits, in SERVE and at its turn, places the first of its plats
that fits and the wait is over; the tiles of a placed plot are led by its lead block, hold no context and no token,
and have the Field window and the ports of the plat. Where no plat is left the fill ends with TOPOLOGY_MISMATCH, where
the blocks would pass Q_BLOCKS with QUOTA_EXCEEDED; without a turn or a position nothing changes. FILL_COMPLETE, once
no command of the fill is at an engine, writes the images, makes the plot IDLE at epoch 0 with nothing held and its
model FILLED, and releases the place a moved plot had. PLOT_RELEASE of an idle plot that no request needs frees it:
its tiles belong to no plot. SCRUB_COMPLETE zeroes exactly its ranges, frees its blocks, and ends what waited for it.
WEIGHT_RETRY with the bad copy replaced runs the batch again, from its save of this step or from the first section;
else every request of it ends with MEMORY_ERROR. SURVEYOR_REEXAMINE serves the take-outs and treats the waits in their
order, leaving one that is not urgent. STEP_START on a plot that can begin a step of a model that serves or leaves
Field starts the next batch, or the aborted one again, and the proposals in the draft plot, with the next step number;
the plot then runs, or yields where a yield is asked for. (R136, R138, R139, R198, R231, R238, R269, R293, R330, R340,
R478, 05_plats_and_sections.md Table 5-7.) -/
def Obligations.PlotsAreFilledPlacedAndReleased : Prop :=
  (∀ (model : Fin 256) (s s1 : State) (m : Model) (w : WaitPlace) (p : Plot), s.modelOf (s.modelId model.val) = some m → s.power.mode = .serve →
    s.sched.waits.find? (fun w => w.model == s.modelId model.val && w.saved.isNone) = some w → s.platChoices (s.modelId model.val) m ≠ [] →
    s.waitTurn w = true → s.placing w = some (p, s1) → (∃ k, k ∈ s.platChoices (s.modelId model.val) m ∧ s.blocksFit m.owner (SMap.get [] m.plats k) = true) →
    ∃ t, exec (.placement model) s = .next t ∧
      t = { s1.place p with sched := { (s1.place p).sched with waits := t.sched.waits } } ∧
      (∀ w, w ∈ t.sched.waits → ¬ (w.model = s.modelId model.val ∧ w.saved = none))) ∧
  (∀ (model : Fin 256) (s : State) (m : Model) (w : WaitPlace), s.modelOf (s.modelId model.val) = some m → s.power.mode = .serve →
    s.sched.waits.find? (fun w => w.model == s.modelId model.val && w.saved.isNone) = some w →
    (s.platChoices (s.modelId model.val) m = [] → exec (.placement model) s = .next (s.dropFill (s.modelId model.val) 0x0601)) ∧
    (s.platChoices (s.modelId model.val) m ≠ [] → (∀ k, k ∈ s.platChoices (s.modelId model.val) m → s.blocksFit m.owner (SMap.get [] m.plats k) = false) →
      exec (.placement model) s = .next (s.dropFill (s.modelId model.val) 0x0202)) ∧
    ((∃ k, k ∈ s.platChoices (s.modelId model.val) m ∧ s.blocksFit m.owner (SMap.get [] m.plats k) = true) → s.waitTurn w = false ∨ s.placing w = none →
      exec (.placement model) s = .next s)) ∧
  (∀ (model : Fin 256) (s : State), s.modelOf (s.modelId model.val) = none ∨ s.power.mode ≠ .serve ∨
    s.sched.waits.find? (fun w => w.model == s.modelId model.val && w.saved.isNone) = none → exec (.placement model) s = .next s) ∧
  (∀ (s : State) (p : Plot) (g : Nat), g ∈ p.tiles → ((s.place p).tile g).lead = some p.lead ∧ ((s.place p).tile g).ctxs = [] ∧
    ((s.place p).tile g).queues = [] ∧ ((s.place p).tile g).regs.fwinBase = p.env 0xC 4 ∧ ((s.place p).tile g).regs.fwinLimit = p.env 0x10 4 ∧
    ((s.place p).tile g).regs.linkEn = p.linkEn p.edgeGates g) ∧
  (∀ (lead : Fin 64) (s : State) (p : Plot), s.plot lead.val = some p → p.state = .filling ∨ (p.state = .idle ∧ ∃ m, s.modelOf p.model = some m ∧ m.state = .filling) → s.fillRuns p = false → p.movedFrom = none →
    ∃ t, exec (.fillComplete lead) s = .next t ∧ (∃ q, t.plot lead.val = some q ∧ q.state = .idle ∧ q.epoch = 0 ∧ q.held = 0 ∧ q.sect = p.sect ∧ q.accept = 0) ∧
      (t.block lead.val).regs.endRemain = p.sectField p.sect 0xC 4 ∧
      t.mem = (s.writeImages p).mem ∧ (∀ m, s.modelOf p.model = some m → m.state = .filling → (t.entry (p.model % 256)).state = .filled)) ∧
  (∀ (o : Nat) (lead : Fin 64) (s : State) (p : Plot), s.plot lead.val = some p → p.state = .filling ∨ (p.state = .idle ∧ ∃ m, s.modelOf p.model = some m ∧ m.state = .filling) → s.fillRuns p = false → p.movedFrom = some o →
    ∃ u : State, exec (.fillComplete lead) s = .next (u.releasePlot o 4 0) ∧ (∃ q, u.plot lead.val = some q ∧ q.state = .idle ∧ q.epoch = 0 ∧ q.held = 0 ∧ q.movedFrom = none) ∧ u.mem = (s.writeImages p).mem) ∧
  (∀ (lead : Fin 64) (s : State) (p : Plot), s.plot lead.val = some p → (p.state ≠ .filling ∧ (p.state ≠ .idle ∨ ∀ m, s.modelOf p.model = some m → m.state ≠ .filling)) ∨ s.fillRuns p = true → exec (.fillComplete lead) s = .next (s)) ∧
  (∀ (lead : Fin 64) (s : State), s.plot lead.val = none → exec (.fillComplete lead) s = .next s) ∧
  (∀ (lead : Fin 64) (s : State) (p : Plot), s.plot lead.val = some p → p.idle = true →
    (∀ r, r ∈ s.serve.reqs → r.model = p.model → r.away = true ∨ r.state = .held ∨ r.state = .admitting) →
    ∃ t, exec (.plotRelease lead) s = .next t ∧ t = s.freePlot lead.val ∧ t.plot lead.val = none ∧
      (∀ g, g ∈ p.tiles → (t.tile g).lead = none ∧ (t.tile g).ctxs = [])) ∧
  (∀ (lead : Fin 64) (s : State) (p : Plot), s.plot lead.val = some p → p.idle = false ∨ (∃ r, r ∈ s.serve.reqs ∧ r.model = p.model ∧ r.away = false ∧ r.state ≠ .held ∧ r.state ≠ .admitting) → exec (.plotRelease lead) s = .next (s)) ∧
  (∀ (lead : Fin 64) (s : State), s.plot lead.val = none → exec (.plotRelease lead) s = .next s) ∧
  (∀ (id : Nat) (s : State) (j : ScrubJob), SMap.get none s.sched.scrubs id = some j →
    exec (.scrubComplete id) s = .next (if j.what = 1 then (s.endScrub id).endEvict j.id else if j.what = 2 then (s.endScrub id).endModel j.id
      else if j.what = 3 then (s.endScrub id).finishAdapter j.id else s.endScrub id) ∧
    SMap.get none (s.endScrub id).sched.scrubs id = none ∧
      (∀ r, r ∈ j.ranges → ∀ a, r.1 ≤ a → a < r.1 + r.2 → (s.endScrub id).mem.read a = 0) ∧
      (∀ a, (∀ r, r ∈ j.ranges → ¬ (r.1 ≤ a ∧ a < r.1 + r.2)) → (s.endScrub id).mem.read a = s.mem.read a) ∧
      (∀ b, b ∈ j.blocks → ((s.endScrub id).block b).scrubbing = false)) ∧
  (∀ (id : Nat) (s : State), SMap.get none s.sched.scrubs id = none → exec (.scrubComplete id) s = .next s) ∧
  (∀ (k : Task) (f : Option Bytes) (s1 : State) (lead : Fin 64) (s : State) (p : Plot), s.plot lead.val = some p → p.redo = some k → k.rerun = false → s.stepReady lead.val p = true →
    (s.setPlot lead.val { p with badCopy := none }).mendCopy p true f = some s1 →
    exec (.weightRetry lead true f) s = .next (s1.rerun lead.val { p with badCopy := none } k)) ∧
  (∀ (k : Task) (ok : Bool) (f : Option Bytes) (lead : Fin 64) (s : State) (p : Plot), s.plot lead.val = some p → p.redo = some k → k.rerun = false → p.state = .idle → (ok = true → s.stepReady lead.val p = true) →
    (s.setPlot lead.val { p with badCopy := none }).mendCopy p ok f = none →
    exec (.weightRetry lead ok f) s = .next ((s.setPlot lead.val { p with redo := none, badCopy := none }).endSlots k.slots 0x0404).settle) ∧
  (∀ (ok : Bool) (f : Option Bytes) (lead : Fin 64) (s : State) (p : Plot), s.plot lead.val = some p → p.redo = none ∨ p.state ≠ .idle ∨ (∃ k, p.redo = some k ∧ k.rerun = true) ∨ (ok = true ∧ s.stepReady lead.val p = false) → exec (.weightRetry lead ok f) s = .next s) ∧
  (∀ (ok : Bool) (f : Option Bytes) (lead : Fin 64) (s : State), s.plot lead.val = none → exec (.weightRetry lead ok f) s = .next s) ∧
  (∀ (s : State) (b : Nat) (p : Plot) (k : Task), p.lastSave = none → s.rerun b p k = s.startTask b k.slots true) ∧
  (∀ (s : State) (b : Nat) (p : Plot) (k : Task) (v : SavedTask), p.lastSave = some v →
    s.rerun b p k = (s.latStepStart b (p.steps + 1)).resume b { p with steps := p.steps + 1 } v (some { k with step := p.steps + 1 })) ∧
  (∀ (t : Nat) (s : State), exec (.surveyorReexamine t) s =
    .next ((s.at' t).serviceQuads.orderedWaits.foldl (fun s w => s.reexamine w) (s.at' t).serviceQuads)) ∧
  (∀ (s : State), (∀ j, j ∈ s.power.jobs → j.action ≠ 0) → s.serviceQuads = s) ∧
  (∀ (s : State) (w : WaitPlace), s.urgent w = false → s.reexamine w = s) ∧
  (∀ (lead : Fin 64) (t : Nat) (s s1 s2 : State) (p : Plot) (m : Model) (l : List StepSlot), (s.at' t).plot lead.val = some p →
    (s.at' t).stepReady lead.val p = true → (∀ k, p.redo = some k → k.rerun = true) →
    s1 = ((s.at' t).refuseLate p.model).settle → s1.modelOf p.model = some m → (m.state = .filled ∨ m.state = .evicting ∨ m.state = .removing) →
    s2 = s1.setPlot lead.val { p with mark := p.markNext, phi := p.phiNext, redo := none } →
    l = p.redo.elim (s2.compose m { p with mark := p.markNext, phi := p.phiNext }) (fun k => k.slots.filter (fun x => x.masked.isNone && (s2.req x.req).isSome)) →
    exec (.stepStart lead t) s = .next (if l = [] then s2 else
      match s2.draftPlot m with
      | none => s2.startTask lead.val l
      | some d => if (l.filter (fun x => x.kind == 3 || x.kind == 4)).isEmpty then s2.startTask lead.val l
        else (s2.startTask lead.val l).startTask d ((l.filter (fun x => x.kind == 3 || x.kind == 4)).map (fun x => { x with kind := 5, ntok := 1, spec := 0 })))) ∧
  (∀ (lead : Fin 64) (t : Nat) (s : State) (p : Plot), (s.at' t).plot lead.val = some p →
    ((s.at' t).stepReady lead.val p = false ∨ ∃ k, p.redo = some k ∧ k.rerun = false) → exec (.stepStart lead t) s = .next (s.at' t)) ∧
  (∀ (lead : Fin 64) (t : Nat) (s s1 : State) (p : Plot), (s.at' t).plot lead.val = some p → (s.at' t).stepReady lead.val p = true →
    (∀ k, p.redo = some k → k.rerun = true) → s1 = ((s.at' t).refuseLate p.model).settle →
    (∀ m, s1.modelOf p.model = some m → m.state ≠ .filled ∧ m.state ≠ .evicting ∧ m.state ≠ .removing) → exec (.stepStart lead t) s = .next s1) ∧
  (∀ (lead : Fin 64) (t : Nat) (s : State), (s.at' t).plot lead.val = none → exec (.stepStart lead t) s = .next (s.at' t)) ∧
  (∀ (s : State) (b : Nat) (p : Plot) (m : Model) (l : List StepSlot) (r : Bool), s.plot b = some p → s.modelOf p.model = some m →
    ∃ (t : State) (q : Plot) (k : Task), s.startTask b l r = (t.examineEntries p).kvFeed b ∧ t.plot b = some q ∧ q.state = (if p.yieldReq then .yielding else .running) ∧
      q.task = some k ∧ k.slots = l ∧ k.step = p.steps + 1 ∧ q.steps = p.steps + 1 ∧ q.redo = none ∧ q.lastSave = none ∧
      (t.block b).regs.endRemain = p.sectField p.sect 0xC 4 ∧
      (∀ g, g ∈ p.tiles → (t.tile g).fireStop = false ∧ (t.tile g).regs.state = ((s.tile g).regs.become .running)))

/-- A descriptor joins its engine, static behind static and dynamic behind dynamic, and takes a free place at once. Every
descriptor command submits the command of its operation. On an engine with free places and nothing waiting a static
command takes a place at once, under an index of the engine that no command in flight holds and whose last use lies 4
ms back, with its next generation (it waits where there is none), and a dynamic one that its parcel can pay takes a
place with its charge paid; on an engine whose 32 places are taken it waits at the tail of its list, and is lost where
64 wait (log entry 161). A tail write sets RING_TAIL, and an enabled engine reads descriptors ahead from its ring, at
most 64; a stream record released while its plot runs its section, or carries it on, submits its command to the engine
of its tile, and changes nothing else or otherwise. A command that breaks a check fails with that cause (a length
above 16 MiB with cause 1); one that waits takes its semaphore first; else it starts and reads, or, as a SIGNAL or an
empty list, is done. (R180, R182, R183, R184, R185, R186, R187, R509, 06_memory_tiers.md Tables 6-5, 6-9 and 6-10.) -/
def Obligations.CommandsJoinTheirEngine : Prop :=
  (∀ (e : Fin 64) (l : Option (Fin 64)) (d : Desc) (s : State),
    (exec (.copy e l d) s = .next (s.slSubmit e.val (cmdOf 1 l d))) ∧
    (exec (.copyRaw e l d) s = .next (s.slSubmit e.val (cmdOf 2 l d))) ∧
    (exec (.fill e l d) s = .next (s.slSubmit e.val (cmdOf 3 l d))) ∧
    (exec (.plist e l d) s = .next (s.slSubmit e.val (cmdOf 4 l d))) ∧
    (exec (.stage e l d) s = .next (s.slSubmit e.val (cmdOf 5 l d))) ∧
    (exec (.sluiceSignal e l d) s = .next (s.slSubmit e.val (cmdOf 6 l d)))) ∧
  (∀ (e : Nat) (s : State) (c : SlCmd) (y : Engine) (c' : SlCmd), idleEngine (s.engine e) → c.lead.isSome = true → (s.engine e).renew c s.now = some (y, c') →
    ((s.slSubmit e c).engine e).flight = [s.slPlace c'] ∧ ((s.slSubmit e c).engine e).statics = [] ∧
      (∀ i, i ≠ e → (s.slSubmit e c).engine i = s.engine i) ∧ (s.slSubmit e c).mem = s.mem ∧ (s.slSubmit e c).tiles = s.tiles) ∧
  (∀ (e : Nat) (s : State) (c : SlCmd), idleEngine (s.engine e) → c.lead.isSome = true → (s.engine e).renew c s.now = none →
    ((s.slSubmit e c).engine e).flight = [] ∧ ((s.slSubmit e c).engine e).statics = [c] ∧ (s.slSubmit e c).mem = s.mem ∧ (s.slSubmit e c).tiles = s.tiles) ∧
  (∀ (x y : Engine) (c c' : SlCmd) (now : Nat), c.lead.isSome = true → x.renew c now = some (y, c') →
    c' = { c with idx := c'.idx, gen := (SMap.get 0 x.gens c'.idx + 1) % 64 } ∧ (∀ z, z ∈ x.flight → z.idx ≠ c'.idx) ∧
      (SMap.get 0 x.uses c'.idx = 0 ∨ SMap.get 0 x.uses c'.idx + 4000000 ≤ now + 1) ∧ y.flight = x.flight) ∧
  (∀ (e : Nat) (s : State) (c : SlCmd), idleEngine (s.engine e) → c.lead = none → (s.engine e).turn = c.parcel →
    (∀ n, c.charge = some n → (n : Int) ≤ (s.engine e).deficit c.parcel) → 0 < (s.engine e).deficit c.parcel →
    ∃ c', ((s.slSubmit e c).engine e).flight = [s.slPlace c'] ∧ c'.idx = c.idx ∧ c'.gen = c.gen ∧ ((s.slSubmit e c).engine e).dyn = [] ∧
      ((s.slSubmit e c).engine e).deficit c.parcel ≤ (s.engine e).deficit c.parcel - ((c.charge.getD 0 : Nat) : Int) ∧ (s.slSubmit e c).mem = s.mem) ∧
  (∀ (e : Nat) (s : State) (c : SlCmd), fullEngine (s.engine e) → c.lead = none →
    ((s.slSubmit e c).engine e).dyn = (if (s.engine e).dyn.length < 64 then (s.engine e).dyn ++ [c] else (s.engine e).dyn) ∧
      ((s.slSubmit e c).engine e).flight = (s.engine e).flight ∧ (s.slSubmit e c).mem = s.mem) ∧
  (∀ (e : Nat) (s : State) (c : SlCmd), fullEngine (s.engine e) → c.lead.isSome = true →
    ((s.slSubmit e c).engine e).statics = (if (s.engine e).statics.length < 64 then (s.engine e).statics ++ [c] else (s.engine e).statics) ∧
      ((s.slSubmit e c).engine e).flight = (s.engine e).flight ∧ (s.slSubmit e c).mem = s.mem) ∧
  (∀ (e : Fin 64) (tail : BitVec 16) (s : State),
    exec (.slRingTailWrite e tail) s = .next ((s.updEngine e.val (fun x => { x with ringTail := tail.toNat })).serveEngine e.val)) ∧
  (∀ (e : Fin 64) (tail : BitVec 16) (s : State), (s.engine e.val).enable = false →
    ∃ t, exec (.slRingTailWrite e tail) s = .next t ∧ (t.engine e.val).ringTail = tail.toNat ∧
      (t.engine e.val).ringHead = (s.engine e.val).ringHead ∧ t.mem = s.mem) ∧
  (∀ (s : State) (f : Nat) (x : Engine), x.enable = true → x.halt = false → x.ringHead ≠ x.ringTail % x.ringEntries → x.dyn.length < 64 →
    Engine.readAhead s (f + 1) x = Engine.readAhead s f { x with
      dyn := x.dyn ++ [cmdOfBytes (s.mem.readN (addrKey x.ringBase + 64 * x.ringHead) 64) none], ringHead := (x.ringHead + 1) % x.ringEntries }) ∧
  (∀ (s : State) (f : Nat) (x : Engine), x.enable = false ∨ x.halt = true ∨ x.ringHead = x.ringTail % x.ringEntries ∨ 64 ≤ x.dyn.length → Engine.readAhead s f x = x) ∧
  (∀ (lead : Fin 64) (record : BitVec 16) (k : Nat) (s : State) (p : Plot), s.plot lead.val = some p → released p record.toNat k →
    exec (.streamRelease lead record k) s = .next (s.slSubmit (16 * tileQuad (p.tileOf (leAt p.plat (p.streamRec record.toNat + 4) 2)) +
      leAt p.plat (p.streamRec record.toNat + 2) 1 % 16) (s.streamCmd lead.val p record.toNat k))) ∧
  (∀ (lead : Fin 64) (record : BitVec 16) (k : Nat) (s : State), (∀ p, s.plot lead.val = some p → ¬ released p record.toNat k) →
    exec (.streamRelease lead record k) s = .next s) ∧
  (∀ (s : State) (c : SlCmd) (cause a cl r : Nat), s.slEnter c = .error (.bad cause a cl r) → (s.slPlace c).phase = .failed cause a cl r) ∧
  (∀ (s : State) (c : SlCmd), c.cls ≤ 2 → c.op = 2 ∨ c.op = 3 ∨ c.op = 5 → 2 ^ 24 < c.len → s.slEnter c = .error (.bad 1 0 0 0)) ∧
  (∀ (s : State) (c : SlCmd), s.slEnter c = .ok () → c.op ≠ 4 → (s.slPlace c) = (if c.waitEn then { c with phase := .waitSem } else s.slBegin c)) ∧
  (∀ (s : State) (c : SlCmd), s.slEnter c = .ok () → c.op = 4 → (s.slPlace c).phase = (if c.len = 0 then .done else .waitSem)) ∧
  (∀ (s : State) (c : SlCmd), s.slStart c = .ok () → (s.slBegin c).phase = (if c.op = 6 then .done else .reading)) ∧
  (∀ (s : State) (c : SlCmd) (cause a cl r : Nat), s.slStart c = .error (.bad cause a cl r) → s.slBegin c = { c with phase := .failed cause a cl r })

/-- A command takes its semaphore, reads, writes its bytes as its operation says, signals and frees its place, or records
its failure. ENGINE_SEM_TAKE on a counter above zero takes one and the command starts; on zero, or with no such
command, it changes nothing. TIER_REPLY counts the corrected words; with the XFER_ID of a command that reads it runs
it: charged by its headers where they can be read, it fails with its cause, awaits bytes of another module, or makes
its writes (COPY_RAW and STAGE the source bytes, FILL its pattern) and is done; a read of Field over an uncorrectable
word fails with cause 7, poison in Aquifer with cause 8. A reply for a cancelled command frees its place and is
counted stale, as is one of another generation. A write changes no other byte. AQ_READ_TIMEOUT fails an Aquifer access
with cause 8. SLUICE_COMPLETE frees the place of a done command, signals its semaphore (SEM_OVERFLOW at 0xFFFF) and
its interrupt where it asks for them, serves the engine and lets firmware post the next page move; a failed command is
recorded in SL_ERR, which keeps the first failure, interrupts, and has the outcome of its cause. (R177, R179, R180,
R181, R183, R184, R189, R193, R197, R199, R201, 06_memory_tiers.md Tables 6-5, 6-8, 6-9 and 6-10.) -/
def Obligations.CommandsMoveTheirBytesAndComplete : Prop :=
  (∀ (e : Fin 64) (index : BitVec 20) (s : State) (c : SlCmd), (s.engine e.val).findCmd index.toNat (fun p => p == .waitSem) = some c →
    0 < SMap.get 0 (s.tile c.semTile).sem c.takeSem →
    exec (.engineSemTake e index) s = .next ((tookSem s c).updEngine e.val (fun x => Engine.charge (tookSem s c) (x.putCmd c ((tookSem s c).slBegin c)) ((tookSem s c).slBegin c))) ∧
      SMap.get 0 ((tookSem s c).tile c.semTile).sem c.takeSem = SMap.get 0 (s.tile c.semTile).sem c.takeSem - 1 ∧
      (∀ g, g ≠ c.semTile → (tookSem s c).tile g = s.tile g) ∧ (tookSem s c).mem = s.mem) ∧
  (∀ (e : Fin 64) (index : BitVec 20) (s : State), (∀ c, (s.engine e.val).findCmd index.toNat (fun p => p == .waitSem) = some c →
    SMap.get 0 (s.tile c.semTile).sem c.takeSem = 0) → exec (.engineSemTake e index) s = .next s) ∧
  (∀ (e : Fin 64) (index : BitVec 20) (gen : BitVec 6) (poison : Bool) (ces : List (BitVec 52)) (s : State) (c : SlCmd),
    ((s.countCe ces).engine e.val).findXfer index.toNat gen.toNat (fun p => p == .reading) = some c → poison = false ∨ (s.countCe ces).slAquifer c none = none →
    exec (.tierReply e index gen poison ces) s = .next ((s.countCe ces).slRun e.val c)) ∧
  (∀ (e : Fin 64) (index : BitVec 20) (gen : BitVec 6) (ces : List (BitVec 52)) (s : State) (c : SlCmd) (a : Nat),
    ((s.countCe ces).engine e.val).findXfer index.toNat gen.toNat (fun p => p == .reading) = some c → (s.countCe ces).slAquifer c none = some a →
    exec (.tierReply e index gen true ces) s = .next ((s.countCe ces).slFail e.val c 8 a c.cls c.req)) ∧
  (∀ (e : Fin 64) (index : BitVec 20) (gen : BitVec 6) (poison : Bool) (ces : List (BitVec 52)) (s : State),
    ((s.countCe ces).engine e.val).findXfer index.toNat gen.toNat (fun p => p == .reading) = none →
    (∀ c, ((s.countCe ces).engine e.val).flight.find? (fun c => c.idx == index.toNat && c.stale && c.phase == .reading) = some c →
      exec (.tierReply e index gen poison ces) s = .next (((s.countCe ces).staleErr e.val c (if poison then (s.countCe ces).slAquifer c none else none)).slStale e.val (some c))) ∧
    (((s.countCe ces).engine e.val).flight.find? (fun c => c.idx == index.toNat && c.stale && c.phase == .reading) = none →
      exec (.tierReply e index gen poison ces) s = .next (if SMap.get 0 ((s.countCe ces).engine e.val).gens index.toNat = gen.toNat then s.countCe ces
        else (s.countCe ces).updEngine e.val (fun x => { x with staleCnt := satAdd 32 x.staleCnt 1 })))) ∧
  (∀ (s : State) (e : Nat) (c0 c : SlCmd) (t : State) (w : List SlWrite), s.slBill e c0 = (t, c) → t.slExec e c = .ok w → s.slRun e c0 = t.slMake e c w) ∧
  (∀ (s : State) (e : Nat) (c0 c : SlCmd) (t : State) (cause a cl r : Nat), s.slBill e c0 = (t, c) → t.slExec e c = .error (.bad cause a cl r) →
    s.slRun e c0 = (t.slPondUse e c).slFail e c cause a cl r) ∧
  (∀ (s : State) (e : Nat) (c0 c : SlCmd) (t : State) (l : List (Nat × Nat)), s.slBill e c0 = (t, c) → t.slExec e c = .error (.need l) → s.slRun e c0 = t.slAwait e c l) ∧
  (∀ (s : State) (e : Nat) (c : SlCmd) (w : List SlWrite), c.chan = none → (∀ x, x ∈ w → s.isLocal x.1 = true) → c.op ≠ 4 → c.pondEn = false →
    (s.slMake e c w).mem = (w.foldl (fun s x => s.put x.1 x.2 c.cls c.req) s).mem ∧ (s.slMake e c w).tiles = s.tiles ∧
      ((s.slMake e c w).engine e).flight = (s.engine e).flight.map (fun y => if y = c then c.advance else y) ∧ c.advance.phase = .done) ∧
  (∀ (s : State) (e : Nat) (c : SlCmd) (cause a cl r : Nat), ((s.slFail e c cause a cl r).engine e).flight =
    (s.engine e).flight.map (fun y => if y = c then { c with phase := .failed cause a cl r } else y)) ∧
  (∀ (s : State) (e : Nat) (c : SlCmd), c.op = 3 → s.slExec e c = .ok [(c.dst, fillBytes c.fillVal c.len)]) ∧
  (∀ (s : State) (e : Nat) (c : SlCmd) (l : Bytes), c.op = 2 ∨ c.op = 5 → s.slRead e c c.src c.len = .ok l → s.slExec e c = .ok [(c.dst, l)]) ∧
  (∀ (s : State) (e : Nat) (c : SlCmd) (a n : Nat), 0 < n → s.isLocal a = true → addrTier a = 0 →
    (firstUe 16 s.mem.ueField (addrKey a) n = none → s.slRead e c a n = .ok (s.mem.readN (addrKey a) n)) ∧
    (∀ u, firstUe 16 s.mem.ueField (addrKey a) n = some u → ∃ b cl r, s.slRead e c a n = .error (.bad 7 b cl r))) ∧
  (∀ (s : State) (c : SlCmd) (i a : Nat) (l : Bytes), (∀ j, j < l.length → addrKey a + j ≠ i) →
    (s.put a l c.cls c.req).mem.read i = s.mem.read i) ∧
  (∀ (e : Fin 64) (index : BitVec 20) (s : State) (c : SlCmd) (a : Nat), (s.engine e.val).findCmd index.toNat (fun p => p == .reading) = some c →
    s.slAquifer c none = some a → exec (.aqReadTimeout e index) s = .next (if c.stale then (s.countTier 8 a).slFree e.val c else s.slFail e.val c 8 a c.cls c.req)) ∧
  (∀ (e : Fin 64) (index : BitVec 20) (s : State), (∀ c, (s.engine e.val).findCmd index.toNat (fun p => p == .reading) = some c → s.slAquifer c none = none) →
    exec (.aqReadTimeout e index) s = .next s) ∧
  (∀ (e : Fin 64) (index : BitVec 20) (f : Option Bytes) (s : State) (c : SlCmd), doneCmd (s.engine e.val) index.toNat c → c.phase = .done →
    exec (.sluiceComplete e index f) s = .next (((if c.signals then (leftPlace s e.val c).engineSignal c.semTile c.giveSem else leftPlace s e.val c).serveEngine e.val).kvEnd e.val c true)) ∧
  (∀ (e : Fin 64) (index : BitVec 20) (f : Option Bytes) (s : State) (c : SlCmd) (code a cl r : Nat), doneCmd (s.engine e.val) index.toNat c → c.phase = .failed code a cl r →
    exec (.sluiceComplete e index f) s = .next ((((((s.updEngine e.val (fun x => x.leave c s.now)).slReport e.val c code a cl r).slDynamic e.val c (slWhy code) a cl r f)).serveEngine e.val).kvEnd
      e.val c false)) ∧
  (∀ (e : Fin 64) (index : BitVec 20) (f : Option Bytes) (s : State), (∀ c, ¬ doneCmd (s.engine e.val) index.toNat c) → exec (.sluiceComplete e index f) s = .next s) ∧
  (∀ (s : State) (e : Fin 64) (c : SlCmd), ((leftPlace s e.val c).engine e.val).flight = (s.engine e.val).flight.erase c ∧
    (c.irq = true → (leftPlace s e.val c).hic.pend.getLsbD (80 + e.val) = true) ∧ (leftPlace s e.val c).mem = s.mem ∧ (leftPlace s e.val c).tiles = s.tiles) ∧
  (∀ (s : State) (g i : Nat), SMap.get 0 (s.tile g).sem i < 0xFFFF → SMap.get 0 ((s.engineSignal g i).tile g).sem i = SMap.get 0 (s.tile g).sem i + 1 ∧
    (∀ h, h ≠ g → (s.engineSignal g i).tile h = s.tile h) ∧ (s.engineSignal g i).mem = s.mem) ∧
  (∀ (s : State) (g i : Nat), 0xFFFF ≤ SMap.get 0 (s.tile g).sem i → s.engineSignal g i = s.tileFault g 0x0A (faultInfo 0 0 0 i) 0x0403) ∧
  (∀ (s : State) (e : Fin 64) (c : SlCmd) (code a cl r : Nat), (s.slReport e.val c code a cl r).hic.pend.getLsbD (80 + e.val) = true ∧
    ((s.slReport e.val c code a cl r).engine e.val).err = ((s.engine e.val).recordErr c (code % 16) a).err) ∧
  (∀ (x : Engine) (c : SlCmd) (cause a : Nat), x.err.valid = false → (x.recordErr c cause a).err = ⟨cause, true, false, 0⟩ ∧
    (x.recordErr c cause a).errId = c.xfer + c.parcel % 1024 * 2 ^ 32 ∧ (x.recordErr c cause a).errAddr = a)

/-- Patrol scrub counts and records what it finds, a watchdog forces a late plot, MEM_CFG divides the quadrant, links come
up and go down. PATROL_SCRUB counts a correctable error of Field or Reservoir, and marks, counts and records an
uncorrectable one without changing a byte; elsewhere it changes nothing. TIER_WATCHDOG, where a tile of the plot waits
on a semaphore that an engine command of the plot will signal, keeps the longest wait and the stall count and, past
the bound of the plat (200 µs where it gives 0), forces a plot that runs a task with cause 10. MEM_CFG_WRITE is
ignored under a plot, refused while a queue holds a cell, else divides the quadrant. HBM_RECALIBRATION is counted, or
its failure recorded, the third in a row taking the stack out; none runs in Dormant or Off. CXL_LINK_UP brings the
Aquifer port up with what the link says and records it, where the device is good and the port neither up nor barred;
CXL_LINK_DOWN and IDE_FAILURE take it down, a second IDE failure within 1 s for good. (R164, R165, R168, R169, R174,
R176, R177, R194, R195, R196, R201, R480.) -/
def Obligations.TiersAreScrubbedWatchedAndSetUp : Prop :=
  (∀ (addr : BitVec 52) (s : State), s.unmapped addr.toNat 1 = none → addrTier addr.toNat = 0 →
    (∃ t, exec (.patrolScrub addr 1) s = .next t ∧
      (t.quad (addrQuad addr.toNat)).fieldCe = satAdd 32 (s.quad (addrQuad addr.toNat)).fieldCe 1 ∧ t.mem = s.mem ∧ t.book = s.book) ∧
    (∃ t, exec (.patrolScrub addr 2) s = .next t ∧ SMap.get false t.mem.ueField (addrKey addr.toNat / 16) = true ∧
      (t.quad (addrQuad addr.toNat)).fieldUe = satAdd 32 (s.quad (addrQuad addr.toNat)).fieldUe 1 ∧
      (t.quad (addrQuad addr.toNat)).lastUe = addr.toNat ∧ t.mem.bytes = s.mem.bytes ∧ t.book.next = s.book.next + 1)) ∧
  (∀ (addr : BitVec 52) (s : State), s.unmapped addr.toNat 1 = none → addrTier addr.toNat = 1 →
    (∃ t, exec (.patrolScrub addr 1) s = .next t ∧
      (t.quad (addrQuad addr.toNat)).resCe = satAdd 32 (s.quad (addrQuad addr.toNat)).resCe 1 ∧ t.mem = s.mem) ∧
    (∃ t, exec (.patrolScrub addr 2) s = .next t ∧ SMap.get false t.mem.ueRes (addrKey addr.toNat / 32) = true ∧
      (t.quad (addrQuad addr.toNat)).resUe = satAdd 32 (s.quad (addrQuad addr.toNat)).resUe 1 ∧ t.mem.bytes = s.mem.bytes)) ∧
  (∀ (addr : BitVec 52) (s : State), exec (.patrolScrub addr 0) s = .next s) ∧
  (∀ (addr : BitVec 52) (found : Fin 3) (s : State), 2 ≤ addrTier addr.toNat ∨ s.unmapped addr.toNat 1 ≠ none → exec (.patrolScrub addr found) s = .next s) ∧
  (∀ (lead : Fin 64) (ns stall : Nat) (s : State) (p : Plot), s.plot lead.val = some p → s.waitsTier lead.val p = true → p.state ≠ .free → p.state ≠ .forcing →
    p.task.isSome = true → 1000 * (if p.env 0x1A 2 = 0 then 200 else p.env 0x1A 2) < ns →
    ∃ t q, exec (.tierWatchdog lead ns stall) s = .next t ∧ t.plot lead.val = some q ∧ q.state = .forcing ∧ q.forceCause = 0x0A ∧ q.forceStatus = s.forcedStatus p 0x0A 0x0405 ∧
      (t.block lead.val).regs.lateStall = satAdd 48 (s.block lead.val).regs.lateStall stall) ∧
  (∀ (lead : Fin 64) (ns stall : Nat) (s : State) (p : Plot), s.plot lead.val = some p → s.waitsTier lead.val p = true →
    ns ≤ 1000 * (if p.env 0x1A 2 = 0 then 200 else p.env 0x1A 2) ∨ p.task.isSome = false →
    ∃ t, exec (.tierWatchdog lead ns stall) s = .next t ∧ t.plot lead.val = some p ∧
      (t.block lead.val).regs.waitMax = max (s.block lead.val).regs.waitMax (min ns (2 ^ 32 - 1)) ∧
      (t.block lead.val).regs.lateStall = satAdd 48 (s.block lead.val).regs.lateStall stall) ∧
  (∀ (lead : Fin 64) (ns stall : Nat) (s : State), (∀ p, s.plot lead.val = some p → s.waitsTier lead.val p = false) → exec (.tierWatchdog lead ns stall) s = .next s) ∧
  (∀ (q : Fin 4) (v : BitVec 64) (s : State), s.quadHasPlot q.val = true → exec (.memCfgWrite q v) s = .next s) ∧
  (∀ (q : Fin 4) (v : BitVec 64) (s : State), s.quadHasPlot q.val = false → s.cistHasCell q.val = false →
    ∃ t, exec (.memCfgWrite q v) s = .next t ∧ (t.quad q.val).pondPages = min 128 (fieldN v.toNat 0 8) ∧
      (t.quad q.val).cistPages = min 64 (fieldN v.toNat 8 8) ∧ (t.quad q.val).carve = s.buildMap q.val ∧ (t.quad q.val).cfgRefused = false ∧ t.mem = s.mem) ∧
  (∀ (q : Fin 4) (v : BitVec 64) (s : State), s.quadHasPlot q.val = false → s.cistHasCell q.val = true →
    ∃ t, exec (.memCfgWrite q v) s = .next t ∧ t.quad q.val = { s.quad q.val with cfgRefused := true } ∧ t.mem = s.mem) ∧
  (∀ (stack : Fin 24) (s : State), s.power.mode ≠ .dormant → s.power.mode ≠ .off →
    exec (.hbmRecalibration stack true) s = .next ((s.updQuad (stack.val / 6) (fun m => { m with
      surveyCnt := satAdd 32 m.surveyCnt 1, surveyFail := clearBitN m.surveyFail (stack.val % 6), recalFails := SMap.set 0 m.recalFails (stack.val % 6) 0 })).recalEnd
        stack.val true)) ∧
  (∀ (stack : Fin 24) (s : State), s.power.mode ≠ .dormant → s.power.mode ≠ .off →
    exec (.hbmRecalibration stack false) s = .next ((if 3 ≤ SMap.get 0 (s.quad (stack.val / 6)).recalFails (stack.val % 6) + 1
      then (recalFailed s stack).stackFailed stack.val else recalFailed s stack).recalEnd stack.val false)) ∧
  (∀ (stack : Fin 24) (good : Bool) (s : State), s.power.mode = .dormant ∨ s.power.mode = .off → exec (.hbmRecalibration stack good) s = .next s) ∧
  (∀ (q : Fin 4) (speed : BitVec 2) (width : BitVec 5) (cap : BitVec 22) (good : Bool) (digest : BitVec 64) (t : Nat) (s : State),
    bitB s.sec.ideDown q.val = true ∨ (s.quad q.val).aqUp = true → exec (.cxlLinkUp q speed width cap good digest t) s = .next (s.at' t)) ∧
  (∀ (q : Fin 4) (speed : BitVec 2) (width : BitVec 5) (cap : BitVec 22) (good : Bool) (digest : BitVec 64) (t : Nat) (s : State),
    bitB s.sec.ideDown q.val = false → (s.quad q.val).aqUp = false →
    ∃ y : State, exec (.cxlLinkUp q speed width cap good digest t) s = .next (y.trainEnd 2 q.val) ∧ (good = false → y = s.at' t) ∧
      (good = true → y.quad q.val = { s.quad q.val with
          aqUp := true, aqSpeed := speed.toNat, aqWidth := width.toNat, aqIde := true, aqCap := min cap.toNat (2 ^ 21) } ∧
        y.hic.pend.getLsbD (213 + q.val) = true ∧ y.book.next = s.book.next + 2 ∧ y.mem = s.mem)) ∧
  (∀ (q : Fin 4) (t : Nat) (s : State), exec (.cxlLinkDown q t) s = .next ((s.at' t).cxlDown q.val)) ∧
  (∀ (q : Fin 4) (s : State), (s.quad q.val).aqUp = true → ((s.cxlDown q.val).quad q.val).aqUp = false ∧ ((s.cxlDown q.val).quad q.val).aqIde = false ∧
    ((s.cxlDown q.val).quad q.val).aqCap = 0) ∧
  (∀ (q : Fin 4) (s : State), (s.quad q.val).aqUp = false → s.cxlDown q.val = s) ∧
  (∀ (q : Fin 4) (t : Nat) (s : State), (s.quad q.val).aqIde = false → exec (.ideFailure q t) s = .next (s.at' t)) ∧
  (∀ (q : Fin 4) (t : Nat) (s : State), (s.quad q.val).aqIde = true →
    ∃ y : State, exec (.ideFailure q t) s = .next (y.cxlDown q.val) ∧ SMap.get 0 y.sec.ideAt q.val = max s.now t + 1 ∧ y.quad q.val = s.quad q.val ∧
      bitB y.sec.ideDown q.val = (bitB s.sec.ideDown q.val || decide (0 < SMap.get 0 s.sec.ideAt q.val ∧ max s.now t < SMap.get 0 s.sec.ideAt q.val - 1 + 1000000000)))

/-- Experts are ranked by score, the lower index first where two are equal, and each expert once. The ranking of n experts
holds each of 0 to n − 1 once, every earlier one of a score at or before that of every later one, and of two with
equal scores the lower index first. An expert accepts a copy while it has used less than its capacity, which counts
one use, and without limit where its capacity is 0xFFFF; at its capacity it refuses. (R263, R269, R270.) -/
def Obligations.ExpertsAreRankedByScore : Prop :=
  (∀ (n : Nat) (score : Nat → Nat), (rankExperts n score).Perm (List.range n) ∧
    (rankExperts n score).Pairwise (fun x y => scoreBefore (score x) (score y) = true ∧ (scoreBefore (score y) (score x) = true → x < y))) ∧
  (∀ (r : RTable) (x : Nat), r.capOf x = 0xFFFF ∨ r.usedOf x < r.capOf x →
    ∃ y, r.offer x = some y ∧ y.usedOf x = r.usedOf x + 1 ∧ (∀ i, i ≠ x → y.usedOf i = r.usedOf i) ∧ y.cap = r.cap) ∧
  (∀ (r : RTable) (x : Nat), r.capOf x ≠ 0xFFFF → r.capOf x ≤ r.usedOf x → r.offer x = none)

/-- A lateral engine routes a good route packet, faults a bad one, sends a return packet to its source, and swaps its
banks at the step start. ROUTE_PACKET takes the packet the engine comes to, when it is no return and no gather, and
routes it: a record that breaks a check is fault 0x10, an offer to an expert whose entry is invalid 0x11; else each
choice has one copy, offered as R270 says, and the copies go to their experts. RETURN_PACKET of a packet whose tag
names this module goes to the lateral engine of its tag, any other to its module; there one of another generation or
of an aborted step, and one for a table that is not valid or has no plot (fault 0x13), is dropped and counted, and one
of the generation of its table is linked to its return queue. A packet of another kind is left to its own command;
with no packet the engine takes the idle item of a queue that does not stall, which is counted, or nothing; an
uncorrectable word in the packet is fault 0x05. A lateral fault is kept in LE_ERR when none is there, posted, and
forces the plot (cause 12, TASK_ABORTED). RT_COMMIT marks the table; at the next step start of its plot the banks swap
and the generation is the step number modulo 4,096. (R256, R262, R265, R266, R267, R268, R269, R270, R275, R276,
09_experts_and_cisterns.md Tables 9-7 to 9-11.) -/
def Obligations.LateralEnginesTakePackets : Prop :=
  (∀ (le : Fin 4) (s : State), s.latNext le.val (fun k => !k.pkts.isEmpty) = none →
    exec (.routePacket le) s = .next (s.latIdle le.val) ∧ exec (.returnPacket le) s = .next (s.latIdle le.val) ∧
    exec (.gatherPacket le) s = .next (s.latIdle le.val)) ∧
  (∀ (s : State) (e : Nat), (s.latNext e (fun k => !k.stall) = none → s.latIdle e = s) ∧
    (∀ t q n, s.latNext e (fun k => !k.stall) = some (t, q, n) → s.latIdle e = (s.latTurn e t q n).idleItem q ∧
      ((s.latIdle e).cistern q).idleCnt = satAdd 48 (s.cistern q).idleCnt 1)) ∧
  (∀ (le : Fin 4) (s : State) (t q n : Nat), s.latNext le.val (fun k => !k.pkts.isEmpty) = some (t, q, n) → (packetKind (headPacket s q n) = 3 ∨ packetKind (headPacket s q n) = 4 → exec (.routePacket le) s = .next s) ∧
    (packetKind (headPacket s q n) ≠ 3 → exec (.returnPacket le) s = .next s) ∧ (packetKind (headPacket s q n) ≠ 4 → exec (.gatherPacket le) s = .next s)) ∧
  (∀ (u : Nat) (le : Fin 4) (s : State) (t q n : Nat), s.latNext le.val (fun k => !k.pkts.isEmpty) = some (t, q, n) → s.packetUe q n = some u →
    (packetKind (headPacket s q n) ≠ 3 → packetKind (headPacket s q n) ≠ 4 → exec (.routePacket le) s = .next (badPacket s le.val t q n u)) ∧
    (packetKind (headPacket s q n) = 3 → exec (.returnPacket le) s = .next (badPacket s le.val t q n u)) ∧
    (packetKind (headPacket s q n) = 4 → exec (.gatherPacket le) s = .next (badPacket s le.val t q n u))) ∧
  (∀ (le : Fin 4) (s : State) (t q n : Nat), comesTo s le.val t q n → packetKind (headPacket s q n) ≠ 3 → packetKind (headPacket s q n) ≠ 4 →
    exec (.routePacket le) s = .next ((tookPacket s le.val t q n).latRoute le.val t n (headPacket s q n))) ∧
  (∀ (items : List Bytes), routeOk items = true ↔ routeRecordOk items) ∧
  (∀ (s : State) (e t q : Nat) (items : List Bytes), ¬ routeRecordOk items →
    s.latRoute e t q items = s.leFault e 0x10 t q 0 [((s.lateral e).table t).lead]) ∧
  (∀ (s : State) (e t q : Nat) (items : List Bytes), routeRecordOk items →
    (∃ x, x ∈ (((s.lateral e).table t).offers items).2.2 ∧ ((s.lateral e).table t).entry x % 4 = 0) →
    s.latRoute e t q items = s.leFault e 0x11 t q 0 [((s.lateral e).table t).lead]) ∧
  (∀ (s : State) (e t q : Nat) (items : List Bytes), routeRecordOk items →
    (∀ x, x ∈ (((s.lateral e).table t).offers items).2.2 → ((s.lateral e).table t).entry x % 4 ≠ 0) →
    s.latRoute e t q items = (s.updLe e (fun l => l.updTable t (fun _ => (((s.lateral e).table t).offers items).1))).latCopies e t q
      ((s.lateral e).table t).lead items (((s.lateral e).table t).offers items).2.1) ∧
  (∀ (r : RTable) (items : List Bytes), ((r.offers items).2.1.map CopyTo.rank) = List.range (routeChoices items).length ∧
    (∀ c x, c ∈ (r.offers items).2.1 → c.expert = some x → x ∈ (r.offers items).2.2) ∧ (r.offers items).1.bank = r.bank) ∧
  (∀ (s : State) (e cause table queue rtag : Nat) (lead : Nat) (p : Plot), (s.lateral e).err.valid = false → s.plot lead = some p →
    p.state ≠ .free → p.state ≠ .forcing →
    ((s.leFault e cause table queue rtag [lead]).lateral e).err = ⟨cause, true, false, 0⟩ ∧
    (∃ y, (s.leFault e cause table queue rtag [lead]).plot lead = some y ∧ y.state = .forcing ∧ y.forceCause = 0x0C ∧ y.forceStatus = s.forcedStatus p 0x0C 0x0403) ∧
    (s.leFault e cause table queue rtag [lead]).book.next = s.book.next + 1) ∧
  (∀ (le : Fin 4) (s : State) (t q n : Nat), comesTo s le.val t q n → packetKind (headPacket s q n) = 3 → leAt ((headPacket s q n).headD []) 4 4 / 2 ^ 30 % 4 = s.slot % 4 →
    exec (.returnPacket le) s = .next ((tookPacket s le.val t q n).latArrive (leAt ((headPacket s q n).headD []) 4 4 / 2 ^ 28 % 4) n
      ((tookPacket s le.val t q n).lateral le.val |>.table t).lead (headPacket s q n))) ∧
  (∀ (le : Fin 4) (s : State) (t q n : Nat), comesTo s le.val t q n → packetKind (headPacket s q n) = 3 → leAt ((headPacket s q n).headD []) 4 4 / 2 ^ 30 % 4 ≠ s.slot % 4 →
    exec (.returnPacket le) s = .next ((tookPacket s le.val t q n).latRemote le.val (leAt ((headPacket s q n).headD []) 4 4 / 2 ^ 30 % 4)
      (leAt ((headPacket s q n).headD []) 4 4 / 2 ^ 28 % 4) 0 ((tookPacket s le.val t q n).lateral le.val |>.table t).lead (headPacket s q n))) ∧
  (∀ (s : State) (e q lead : Nat) (items : List Bytes) (r : RTable), (s.lateral e).table (leAt (items.headD []) 0xC 1 % 16) = r →
    (r.valid = false ∨ s.plot r.lead = none ∨ leAt (items.headD []) 4 4 % 2 ^ 12 ≠ r.gen ∨ r.aborted = true) →
    ((s.latArrive e q lead items).lateral e).table (leAt (items.headD []) 0xC 1 % 16) = { r with staleCnt := satAdd 32 r.staleCnt 1 } ∧
    (s.latArrive e q lead items).cist = s.cist ∧
    (r.valid = false ∨ s.plot r.lead = none → ((s.latArrive e q lead items).lateral e).err = (s.lateral e).err.raise 0x13 0)) ∧
  (∀ (s : State) (e q lead : Nat) (items : List Bytes) (r : RTable), (s.lateral e).table (leAt (items.headD []) 0xC 1 % 16) = r → r.valid = true → (s.plot r.lead).isSome = true →
    leAt (items.headD []) 4 4 % 2 ^ 12 = r.gen → r.aborted = false →
    s.latArrive e q lead items = s.latReturn e (leAt (items.headD []) 0xC 1 % 16) (leAt (items.headD []) 4 4 / 2 ^ 27 % 2)
      (leAt (items.headD []) 4 4) q lead items) ∧
  (∀ (le : Fin 4) (table : Fin 16) (s : State), ∃ t, exec (.rtCommit le table) s = .next t ∧
    (t.lateral le.val).table table.val = { (s.lateral le.val).table table.val with commit := true } ∧
    (∀ j, j ≠ table.val → (t.lateral le.val).table j = (s.lateral le.val).table j) ∧
    (∀ i, i ≠ le.val → t.lateral i = s.lateral i) ∧ t.mem = s.mem ∧ t.tiles = s.tiles) ∧
  (∀ (s : State) (b step e t : Nat), s.routeOf b = some (e, t) →
    ((s.latStepStart b step).lateral e).table t = { (s.lateral e).table t with
      active := if ((s.lateral e).table t).commit then 1 - ((s.lateral e).table t).active else ((s.lateral e).table t).active
      commit := false
      gen := step % 4096
      aborted := false
      moved := []
      bypass := [] })

/-- A gather counts its lookups and waits for its partials, its rows are read one a turn, a partial is combined or counted
stale. GATHER_PACKET with a record outside its bounds is fault 0x14, of a table that is not valid or not the model's
0x15; a good one counts its lookups and takes the next gather number. GATHER_SUBPACKET takes the oldest sub-packet, or
one from another module; a row of it goes to the gather engine its place gives, when that engine accepts rows; without
cells for it the tasks of both sides end (log entry 171). ROW_READ takes the row whose parcel has the turn out of the
engine, counts it and pools it into its bag, which goes to its owner with its last row; a row that cannot be read
fails its bag, is recorded, and its copy replaced. GATHER_PARTIAL takes the oldest partial, or one from another
module: stale where no gather of its step has its number, it is counted; one that failed ends the task; else it ends
the wait for its bag; complete gathers are then finished. GE_CTRL_ENABLE sets the bit. A maximum over a NaN is NaN.
(R304, R305, R308, R310, R311, R312, R313, R314, R316, R319, R320, R321.) -/
def Obligations.GathersReadAndPoolRows : Prop :=
  (∀ (le : Fin 4) (s : State) (t q n : Nat), comesTo s le.val t q n → packetKind (headPacket s q n) = 4 →
    exec (.gatherPacket le) s = .next ((tookPacket s le.val t q n).latGather le.val t n (headPacket s q n))) ∧
  (∀ (s : State) (e t n : Nat) (items : List Bytes), (s.plot ((s.lateral e).table t).lead = none → s.latGather e t n items = s) ∧
    (∀ p, s.plot ((s.lateral e).table t).lead = some p → s.latGather e t n items = (match s.gatherCheck p items with
      | some c => s.leFault e c t n 0 [((s.lateral e).table t).lead]
      | none => (s.startGather e t p items).finishGathers e))) ∧
  (∀ (s : State) (p : Plot) (items : List Bytes), (leAt (items.headD []) 4 2 < 1 ∨ 256 < leAt (items.headD []) 4 2 ∨ 4000 < leAt (items.headD []) 6 2 ∨
      leAt (items.headD []) 0x10 4 % 64 ≠ 0) → s.gatherCheck p items = some 0x14) ∧
  (∀ (s : State) (p : Plot) (items : List Bytes), (s.tableEnt (gatherTable items)).valid = false ∨ (s.tableEnt (gatherTable items)).model ≠ p.model →
    s.gatherCheck p items = some 0x14 ∨ s.gatherCheck p items = some 0x15) ∧
  (∀ (s : State) (r : RTable) (p : Plot) (items : List Bytes), goodGather s r p items → s.gatherCheck p items = none) ∧
  (∀ (s : State) (e t : Nat) (p : Plot) (items : List Bytes), ((s.startGather e t p items).tableEnt (gatherTable items)).lookupCnt =
        satAdd 48 (s.tableEnt (gatherTable items)).lookupCnt (leAt (items.headD []) 6 2) ∧
      ((s.startGather e t p items).lateral e).nextGid = (s.lateral e).nextGid + 1 ∧
      (∃ g, ((s.startGather e t p items).lateral e).gathers = (s.lateral e).gathers ++ [g] ∧ g.gid = 16 * (s.lateral e).nextGid + t ∧ g.lead = ((s.lateral e).table t).lead ∧
        g.gen = ((s.lateral e).table t).gen ∧ g.table = gatherTable items ∧ g.failed = false) ∧ (s.startGather e t p items).mem = s.mem) ∧
  (∀ (le : Fin 4) (s : State) (g : GSub) (l : List GSub), (s.lateral le.val).subs = g :: l →
    exec (.gatherSubpacket le none) s = .next ((s.updLe le.val (fun x => { x with subs := l })).takeSub le.val g)) ∧
  (∀ (le : Fin 4) (s : State), (s.lateral le.val).subs = [] → exec (.gatherSubpacket le none) s = .next s) ∧
  (∀ (le : Fin 4) (g : GSub) (s : State), exec (.gatherSubpacket le (some g)) s =
    .next ((s.updLe le.val (fun l => { l with bytesIn := satAdd 48 l.bytesIn (12 * g.rows.length) })).takeSub le.val g)) ∧
  (∀ (s : State) (e : Nat) (g : GSub), s.gatherRoom e (subItems g) = false → s.takeSub e g =
    (s.leFault e 0x12 (g.gid % 16) 0 0 (s.runningOf (s.tableEnt g.table).model)).sendPart e g.srcMod g.srcLe ⟨g.gid, g.gen, s.slot % 4, 0, true, true, [], false, false⟩) ∧
  (∀ (s : State) (e : Nat) (g : GSub) (x : GIdx), s.gatherRoom e (subItems g) = true → g.rows = [x] →
    (s.gatherEng ((s.tableEnt g.table).engineOf (x.row - (s.tableEnt g.table).bound (s.slot % 4)))).enable = true →
    ((s.takeSub e g).gatherEng ((s.tableEnt g.table).engineOf (x.row - (s.tableEnt g.table).bound (s.slot % 4)))).rows =
      (s.gatherEng ((s.tableEnt g.table).engineOf (x.row - (s.tableEnt g.table).bound (s.slot % 4)))).rows ++
        [GRow.mk g.srcMod g.srcLe g.gid g.gen e g.parcel g.table g.pool x.bag (x.row - (s.tableEnt g.table).bound (s.slot % 4)) x.weight]) ∧
  (∀ (ge : Fin 96) (poison : Bool) (f : Option Bytes) (s : State) (x : GRow) (turn quantum : Nat) (b : Bag), (s.gatherEng ge.val).pick = some (x, turn, quantum) →
    s.rowFail (s.tableEnt x.table) x.row poison = none → b = s.rowBag (s.gatherEng ge.val) (s.tableEnt x.table) x false →
    exec (.rowRead ge poison f) s = .next (if (s.gatherEng ge.val).lastOf x then (s.rowTaken ge.val x turn quantum b).closeBag x b
      else s.rowTaken ge.val x turn quantum b)) ∧
  (∀ (ge : Fin 96) (poison : Bool) (f : Option Bytes) (s : State) (x : GRow) (turn quantum c u : Nat) (b : Bag), (s.gatherEng ge.val).pick = some (x, turn, quantum) →
    s.rowFail (s.tableEnt x.table) x.row poison = some (c, u) → b = s.rowBag (s.gatherEng ge.val) (s.tableEnt x.table) x true →
    exec (.rowRead ge poison f) s = .next (if (s.gatherEng ge.val).lastOf x then ((s.rowTaken ge.val x turn quantum b).rowFailed ge.val x c u f).closeBag x b
      else (s.rowTaken ge.val x turn quantum b).rowFailed ge.val x c u f)) ∧
  (∀ (ge : Fin 96) (poison : Bool) (f : Option Bytes) (s : State), (s.gatherEng ge.val).pick = none → exec (.rowRead ge poison f) s = .next s) ∧
  (∀ (s : State) (i : Nat) (x : GRow) (turn quantum : Nat) (b : Bag), ((s.rowTaken i x turn quantum b).gatherEng i).rows = (s.gatherEng i).rows.erase x ∧
      ((s.rowTaken i x turn quantum b).gatherEng i).rowsCnt = satAdd 48 (s.gatherEng i).rowsCnt 1 ∧ ((s.rowTaken i x turn quantum b).gatherEng i).turn = turn ∧
      (∀ j, j ≠ i → (s.rowTaken i x turn quantum b).gatherEng j = s.gatherEng j) ∧ (s.rowTaken i x turn quantum b).mem = s.mem) ∧
  (∀ (g : GatherEng) (x : GRow) (turn quantum : Nat), g.pick = some (x, turn, quantum) → x ∈ g.rows ∧ x.parcel = turn ∧ (quantum = g.quantum - 1 ∨ quantum = 63)) ∧
  (∀ (le : Fin 4) (s : State) (p : GPart) (l : List GPart), (s.lateral le.val).parts = p :: l →
    exec (.gatherPartial le none) s = .next (((s.updLe le.val (fun x => { x with parts := l })).takePart le.val p).finishGathers le.val)) ∧
  (∀ (le : Fin 4) (s : State), (s.lateral le.val).parts = [] → exec (.gatherPartial le none) s = .next (s.finishGathers le.val)) ∧
  (∀ (le : Fin 4) (p : GPart) (s : State), exec (.gatherPartial le (some p)) s =
    .next (((s.updLe le.val (fun l => { l with bytesIn := satAdd 48 l.bytesIn (16 * p.elems.length) })).takePart le.val p).finishGathers le.val)) ∧
  (∀ (s : State) (e : Nat) (p : GPart), ((∀ g, g ∈ (s.lateral e).gathers → g.gid ≠ p.gid) ∨
      (∃ g, (s.lateral e).gathers.find? (fun g => g.gid == p.gid) = some g ∧ (g.gen ≠ p.gen ∨ p.gen ≠ ((s.lateral e).table g.route).gen))) →
    s.takePart e p = s.updLe e (fun l => l.updTable (p.gid % 16) (fun r => { r with staleCnt := satAdd 32 r.staleCnt 1 }))) ∧
  (∀ (s : State) (e : Nat) (p : GPart) (g : OpenGather), (s.lateral e).gathers.find? (fun g => g.gid == p.gid) = some g → g.gen = p.gen →
    p.gen = ((s.lateral e).table g.route).gen → (g.failed = true → s.takePart e p = s) ∧
    (g.failed = false → p.quota = true ∨ s.gatherRoom e (partItems p) = false → s.takePart e p = (s.updLe e (fun l => { l with
      gathers := l.gathers.map (fun x => if x.gid = g.gid then { x with failed := true } else x) })).leFault e 0x12 g.route 0 0 [g.lead]) ∧
    (g.failed = false → p.quota = false → s.gatherRoom e (partItems p) = true → p.fail = true → s.takePart e p = (s.updLe e (fun l => { l with
      gathers := l.gathers.map (fun x => if x.gid = g.gid then { x with failed := true } else x) })).tierError g.lead 1 0 0)) ∧
  (∀ (s : State) (e : Nat) (p : GPart) (g : OpenGather), (s.lateral e).gathers = [g] → g.gid = p.gid → g.gen = p.gen →
    p.gen = ((s.lateral e).table g.route).gen → g.failed = false → p.quota = false → s.gatherRoom e (partItems p) = true → p.fail = false →
    ∃ y, ((s.takePart e p).lateral e).gathers = [y] ∧ y.waits = g.waits.erase (p.owner, p.bag) ∧ y.failed = false) ∧
  (∀ (ge : Fin 96) (on : Bool) (s : State), ∃ t, exec (.geCtrlEnable ge on) s = .next t ∧
    t.gatherEng ge.val = { s.gatherEng ge.val with enable := on } ∧ (∀ i, i ≠ ge.val → t.gatherEng i = s.gatherEng i) ∧ t.mem = s.mem) ∧
  (∀ (a b : GElem), a.cls = 3 ∨ b.cls = 3 → (elemJoin a b).cls = 3)

/-- A doorbell posts entries, an entry becomes a request in a slot, its record is written or kept, and RDMA writes land
where they may. DOORBELL on a bound queue pair of an enabled ring posts entries up to its index and frees completion
slots; one equal to the last changes nothing; an index beyond the ring, or a consumed count beyond what was written,
is only counted. Entries are read in ring order while the slot is free and the module serves: one with its checks
passed becomes a request in its busy slot, one that fails is counted and refused by its record. A record is written
where the host has room, else kept in the backlog; one that may be dropped is dropped from a full backlog.
COMPLETION_BACKLOG_DRAIN writes what waits, oldest first, and then what waited for it ends. IDENTIFIER_QUARANTINE_END
reads the rings again. INTAKE_RDMA_WRITE changes exactly its bytes of the entry area, or writes the staging window,
and is refused elsewhere. (R279, R280, R282, R283, R286, R287, R347, R372, 10_serving.md Tables 10-1, 10-2 and 10-3.) -/
def Obligations.RingsTakeEntriesAndWriteRecords : Prop :=
  (∀ (ring : Fin 256) (qp : BitVec 24) (value : BitVec 64) (t : Nat) (s : State) (r : Ring) (posted d : Nat), (s.at' t).ring ring.val = r → posted = fieldN value.toNat 0 16 → d = fieldN value.toNat 32 16 → (r.state ≠ 1 ∨ (s.at' t).bound ring.val qp.toNat = false ∨ posted + d * 2 ^ 16 = r.lastDb) →
    exec (.doorbell ring qp value t) s = .next (s.at' t)) ∧
  (∀ (ring : Fin 256) (qp : BitVec 24) (value : BitVec 64) (t : Nat) (s : State) (r : Ring) (posted d : Nat), (s.at' t).ring ring.val = r → posted = fieldN value.toNat 0 16 → d = fieldN value.toNat 32 16 → r.state = 1 → (s.at' t).bound ring.val qp.toNat = true → posted + d * 2 ^ 16 ≠ r.lastDb → r.size < (posted + 65536 - r.readIx) % 65536 →
    exec (.doorbell ring qp value t) s = .next ((s.at' t).updRing ring.val (fun r => { r with
      badDb := satAdd 64 r.badDb 1, lastDb := posted + d * 2 ^ 16 }))) ∧
  (∀ (ring : Fin 256) (qp : BitVec 24) (value : BitVec 64) (t : Nat) (s : State) (r : Ring) (posted d : Nat), (s.at' t).ring ring.val = r → posted = fieldN value.toNat 0 16 → d = fieldN value.toNat 32 16 → r.state = 1 → (s.at' t).bound ring.val qp.toNat = true → posted + d * 2 ^ 16 ≠ r.lastDb → (posted + 65536 - r.readIx) % 65536 ≤ r.size →
    ((d + 65536 - r.consumed) % 65536 ≤ (r.written + 65536 - r.consumed) % 65536 →
      exec (.doorbell ring qp value t) s = .next (State.intake ring.val r.size (State.drainRing ring.val r.backlog.length
        ((s.at' t).updRing ring.val (fun r => { r with posted := posted, lastDb := posted + d * 2 ^ 16, consumed := d }))))) ∧
    ((r.written + 65536 - r.consumed) % 65536 < (d + 65536 - r.consumed) % 65536 →
      exec (.doorbell ring qp value t) s = .next (State.intake ring.val r.size (State.drainRing ring.val r.backlog.length
        ((s.at' t).updRing ring.val (fun r => { r with posted := posted, lastDb := posted + d * 2 ^ 16, badDb := satAdd 64 r.badDb 1 })))))) ∧
  (∀ (s : State) (i f : Nat), s.readEntry i = none → State.intake i f s = s) ∧
  (∀ (s s' : State) (i f : Nat), s.readEntry i = some s' → State.intake i (f + 1) s = State.intake i f s') ∧
  (∀ (s : State) (i : Nat), (s.ring i).state ≠ 1 ∨ (s.ring i).posted = (s.ring i).readIx ∨ s.power.reads = false ∨
      (SMap.get SlotGen.reset s.serve.slots ((s.ring i).handleBase + (s.ring i).readIx % (s.ring i).size)).busy = true ∨
      s.now < (SMap.get SlotGen.reset s.serve.slots ((s.ring i).handleBase + (s.ring i).readIx % (s.ring i).size)).until' → s.readEntry i = none) ∧
  (∀ (s s' : State) (i : Nat), s.readEntry i = some s' → s.intakeCheck i ((s.ring i).entryAt ((s.ring i).readIx % (s.ring i).size))
      ((s.ring i).handleBase + (s.ring i).readIx % (s.ring i).size) = none →
    s'.serve.reqs = s.serve.reqs ++ [reqOf i (s.ring i).owner ((s.ring i).entryAt ((s.ring i).readIx % (s.ring i).size))] ∧
      (s'.ring i).readIx = ((s.ring i).readIx + 1) % 65536 ∧
      (SMap.get SlotGen.reset s'.serve.slots ((s.ring i).handleBase + (s.ring i).readIx % (s.ring i).size)).busy = true) ∧
  (∀ (s s' : State) (i st : Nat), s.readEntry i = some s' → s.intakeCheck i ((s.ring i).entryAt ((s.ring i).readIx % (s.ring i).size))
      ((s.ring i).handleBase + (s.ring i).readIx % (s.ring i).size) = some st →
    (s'.ring i).refusedCnt = satAdd 64 (s.ring i).refusedCnt 1 ∧ (s'.ring i).readIx = ((s.ring i).readIx + 1) % 65536 ∧
    ((s.ring i).backlog = [] → s.canWrite i = true → ∃ c, s'.serve.out = s.serve.out ++ [c] ∧ c.ring = i ∧ slice c.bytes 4 2 = toLe 2 st)) ∧
  (∀ (s : State) (i : Nat) (c : CplRec) (keep : Bool), (s.ring i).state = 0 → s.pushRec i c keep = (s.recSent c, false)) ∧
  (∀ (s : State) (i : Nat) (c : CplRec) (keep : Bool), (s.ring i).state ≠ 0 → (s.ring i).backlog = [] → s.canWrite i = true →
    s.pushRec i c keep = ((s.writeRec i c.bytes).recSent c, false)) ∧
  (∀ (s : State) (i : Nat) (b : Bytes), ((s.writeRec i b).ring i).written = ((s.ring i).written + 1) % 65536 ∧
    ∃ x, (s.writeRec i b).serve.out = s.serve.out ++ [x] ∧ x.ring = i ∧ x.bytes.length = b.length ∧ (∀ j, j ≠ 6 → x.bytes.getD j 0 = b.getD j 0) ∧
      (6 < b.length → bitB (x.bytes.getD 6 0).toNat 7 = bitB (s.ring i).recs (s.ring i).logCpl)) ∧
  (∀ (s : State) (i : Nat) (c : CplRec) (keep : Bool), (s.ring i).state ≠ 0 → (s.ring i).backlog ≠ [] ∨ s.canWrite i = false →
    (keep = true ∨ (s.ring i).backlog.length < 4096 → (s.pushRec i c keep).2 = false ∧
      ((s.pushRec i c keep).1.ring i).backlog = (s.ring i).backlog ++ [c] ∧ (s.pushRec i c keep).1.serve.reqs = s.serve.reqs) ∧
    (keep = false → 4096 ≤ (s.ring i).backlog.length →
      s.pushRec i c keep = (s.updRing i (fun r => { r with dropCnt := satAdd 64 r.dropCnt 1 }), true))) ∧
  (∀ (ring : Fin 256) (s : State), exec (.completionBacklogDrain ring) s =
    .next (State.drainRing ring.val (s.ring ring.val).backlog.length s).settle) ∧
  (∀ (s : State) (i f : Nat), (s.ring i).backlog = [] ∨ s.canWrite i = false → State.drainRing i f s = s) ∧
  (∀ (s : State) (i f : Nat) (c : CplRec) (l : List CplRec), (s.ring i).backlog = c :: l → s.canWrite i = true →
    State.drainRing i (f + 1) s = State.drainRing i f (((s.updRing i (fun r => { r with backlog := l })).writeRec i c.bytes).recSent c)) ∧
  (∀ (t : Nat) (s : State), exec (.identifierQuarantineEnd t) s = .next ((s.at' t).serve.rings.foldl (fun s r => State.intake r.1 r.2.size s) (s.at' t))) ∧
  (∀ (stage : Bool) (ring : Fin 256) (qp : BitVec 24) (off : Nat) (data : Bytes) (s : State), (s.ring ring.val).state = 0 ∨ s.bound ring.val qp.toNat = false ∨ data = [] → exec (.intakeRdmaWrite ring qp stage off data) s = .next s) ∧
  (∀ (ring : Fin 256) (qp : BitVec 24) (off : Nat) (data : Bytes) (s : State), (s.ring ring.val).state ≠ 0 → s.bound ring.val qp.toNat = true → data ≠ [] →
    (64 * (s.ring ring.val).size < off + data.length → exec (.intakeRdmaWrite ring qp false off data) s = .next s) ∧
    (off + data.length ≤ 64 * (s.ring ring.val).size → ∃ y, exec (.intakeRdmaWrite ring qp false off data) s = .next y ∧ y.mem = s.mem ∧ y.serve.reqs = s.serve.reqs ∧
      ∀ a, ((y.ring ring.val).entryAt (a / 64)).getD (a % 64) 0 =
        if off ≤ a ∧ a < off + data.length then data.getD (a - off) 0 else ((s.ring ring.val).entryAt (a / 64)).getD (a % 64) 0) ∧
    ((s.ring ring.val).stageLen < off + data.length → exec (.intakeRdmaWrite ring qp true off data) s = .next s) ∧
    (off + data.length ≤ (s.ring ring.val).stageLen →
      exec (.intakeRdmaWrite ring qp true off data) s = .next (s.fwWrite (boardKey 1 (s.ring ring.val).stageBase + off) data)))

/-- Admission makes its checks in order, a missed deadline and an expired hold end requests, and a request that ends
leaves its slot. ADMISSION takes the next intake packet, or the idle item of a queue that does not stall, and checks
its request in the order of Table 1-5: a parcel not enabled refuses with 0x0201, no model, grant or state with 0x0304,
no adapter with 0x0305, no prefix with 0x0306, no room under its quotas or beyond the longest context with 0x0202; one
that passes is admitted, and a READY model is to be filled when its owner's Q_BLOCKS allow. A damaged packet ends its
request with 0x0404. DEADLINE_MISSED ends with 0x0401 a request that has not started when its deadline has passed in
valid time, and no other. KV_HOLD_EXPIRE frees a held request. A request that ends is counted, its final record
written or kept; once that is sent it is gone and its slot quarantined, or HELD where it asked to keep its pages.
(R25, R26, R27, R244, R282, R284, R288, R301, R328, R329, 01_architecture.md Table 1-5.) -/
def Obligations.RequestsAreAdmittedAndEnd : Prop :=
  (∀ (u : Nat) (y : State) (ring : Fin 256) (t : Nat) (s x : State), x = s.at' t → x.packetUe (x.ring ring.val).quad (intakeQueue ring.val) = some u →
    y = (((x.countTier 7 (x.boardAddr u)).cistErr (x.ring ring.val).quad 0x05 (intakeQueue ring.val) 0x7F (x.ring ring.val).owner).popPacket (x.ring ring.val).quad (intakeQueue ring.val) 1025).1 →
    (y.serve.reqs.find? (fun r => r.ring == ring.val && r.state == .admitting) = none → exec (.admission ring t) s = .next y.settle) ∧
    (∀ r, y.serve.reqs.find? (fun r => r.ring == ring.val && r.state == .admitting) = some r → exec (.admission ring t) s = .next (y.endReq r.key 0x0404).settle)) ∧
  (∀ (ring : Fin 256) (t : Nat) (s x : State), x = s.at' t → x.packetUe (x.ring ring.val).quad (intakeQueue ring.val) = none → (x.popPacket (x.ring ring.val).quad (intakeQueue ring.val) 1025).2 = [] →
    exec (.admission ring t) s = .next (if ((x.cistern (x.ring ring.val).quad).queue (intakeQueue ring.val)).stall then x
      else x.idleItem (x.ring ring.val).quad).settle) ∧
  (∀ (h : BitVec 32) (pay : BitVec 256) (l : List (BitVec 32 × BitVec 256)) (y : State) (ring : Fin 256) (t : Nat) (s x : State), x = s.at' t → x.packetUe (x.ring ring.val).quad (intakeQueue ring.val) = none →
    x.popPacket (x.ring ring.val).quad (intakeQueue ring.val) 1025 = (y, (h, pay) :: l) →
    (∀ r, y.req (pay.toNat % 2 ^ 32) = some r → r.state = .admitting ∧ r.ring = ring.val ∧ r.home = 0 → exec (.admission ring t) s = .next (y.tryAdmit r).settle) ∧
    ((∀ r, y.req (pay.toNat % 2 ^ 32) = some r → ¬ (r.state = .admitting ∧ r.ring = ring.val ∧ r.home = 0)) → exec (.admission ring t) s = .next y.settle)) ∧
  (∀ (s : State) (r : Req), (s.parcel r.parcel).state ≠ .enabled → s.tryAdmit r = s.endReq r.key 0x0201) ∧
  (∀ (s : State) (r : Req), (s.parcel r.parcel).state = .enabled → (∀ m, ¬ mayAsk s r m) → s.tryAdmit r = s.endReq r.key 0x0304) ∧
  (∀ (s : State) (r : Req) (m : Model), mayAsk s r m → (∀ v, ¬ bindsVersion s r v) → s.tryAdmit r = s.endReq r.key 0x0305) ∧
  (∀ (v : Nat) (s : State) (r : Req) (m : Model), mayAsk s r m → bindsVersion s r v → (∀ p l, ¬ startsAt s r v p l) → s.tryAdmit r = s.endReq r.key 0x0306) ∧
  (∀ (v p l : Nat) (s : State) (r : Req) (m : Model), mayAsk s r m → bindsVersion s r v → startsAt s r v p l → s.reserve m r l = none → s.tryAdmit r = s.endReq r.key 0x0202) ∧
  (∀ (v p l base len : Nat) (a : AreaPlan) (s : State) (r : Req) (m : Model), mayAsk s r m → bindsVersion s r v → startsAt s r v p l → s.reserve m r l = some (a, base, len) →
    (m.state ≠ .ready → s.tryAdmit r = s.admitted m r v p l a base len) ∧
    (m.state = .ready → s.blocksOk m = true → s.tryAdmit r = (s.admitted m r v p l a base len).wantFill r.model) ∧
    (m.state = .ready → s.blocksOk m = false → s.tryAdmit r = s.endReq r.key 0x0202)) ∧
  (∀ (s : State) (m : Model) (r : Req) (l : Nat), (s.parcel r.parcel).qInflight ≤
      (s.serve.reqs.filter (fun y => y.parcel == r.parcel && y.state != .admitting && y.home == 0)).length ∨ m.maxContext < l + r.prompt + r.maxNew ∨
      (s.parcel r.parcel).qRes * mib2 < s.resUsed r.parcel + (areaPlan m (s.draftOf m r) r l).len m →
    s.reserve m r l = none) ∧
  (∀ (handle : BitVec 32) (t : Nat) (s : State) (r : Req), s.req handle.toNat = some r →
    (missedDeadline (s.at' t) r → exec (.deadlineMissed handle t) s = .next (((s.at' t).endReq r.key 0x0401).settle)) ∧
    (¬ missedDeadline (s.at' t) r → exec (.deadlineMissed handle t) s = .next (s.at' t)) ∧
    (r.state = .held ∧ r.holdUntil ≤ max s.now t → exec (.kvHoldExpire handle t) s = .next ((s.at' t).dropReq r)) ∧
    (¬ (r.state = .held ∧ r.holdUntil ≤ max s.now t) → exec (.kvHoldExpire handle t) s = .next (s.at' t))) ∧
  (∀ (handle : BitVec 32) (t : Nat) (s : State), s.req handle.toNat = none →
    exec (.deadlineMissed handle t) s = .next (s.at' t) ∧ exec (.kvHoldExpire handle t) s = .next (s.at' t)) ∧
  (∀ (s : State) (r : Req), (s.dropReq r).req r.key = none ∧
    (r.home = 0 → ∀ g, g = SMap.get SlotGen.reset s.serve.slots (r.handle % 2 ^ 24) →
      SMap.get SlotGen.reset (s.dropReq r).serve.slots (r.handle % 2 ^ 24) = ⟨nextGen g.gen, false, s.now + quarantineNs⟩)) ∧
  (∀ (s : State) (k st : Nat) (r : Req), s.req k = some r → r.state = .held ∨ r.state = .ended → s.endReq k st = s) ∧
  (∀ (s : State) (k st : Nat) (r : Req), s.req k = some r → r.state ≠ .held → r.state ≠ .ended → r.home = 0 → (s.ring r.ring).state ≠ 0 →
    s.canWrite r.ring = false → (∃ y, (s.endReq k st).req k = some y ∧ y.state = .ended) ∧
      ((s.endReq k st).ring r.ring).backlog.length = (s.ring r.ring).backlog.length + r.withheld.length + 1) ∧
  (∀ (s : State) (k st : Nat) (r : Req), s.req k = some r → r.state ≠ .held → r.state ≠ .ended → r.home = 0 → (s.ring r.ring).state ≠ 0 → r.withheld = [] →
    (s.ring r.ring).backlog = [] → s.canWrite r.ring = true → (∀ x, x ∈ s.serve.reqs → x.home = 0 → x.state = .ended → x.handle % 2 ^ 24 ≠ r.handle % 2 ^ 24) →
    (∃ c, (s.endReq k st).serve.out = s.serve.out ++ [c] ∧ c.ring = r.ring ∧ slice c.bytes 4 2 = toLe 2 st) ∧
    (r.holdKv = false ∨ r.state = .admitting → (s.endReq k st).req k = none) ∧
    (r.holdKv = true → r.state ≠ .admitting → ∃ y, (s.endReq k st).req k = some y ∧ y.state = .held)) ∧
  (∀ (s : State) (k st : Nat) (r : Req), s.req k = some r → r.state ≠ .held → r.state ≠ .ended → r.home ≠ 0 →
    ∃ b, (s.endReq k st).serve.away = s.serve.away ++ [⟨r.home - 1, r.handle, b⟩] ∧ slice b 4 2 = toLe 2 st) ∧
  (∀ (s : State) (k st : Nat) (r : Req), s.req k = some r → r.home = 0 → (r.state = .admitting →
      ((s.endReq k st).parcel r.parcel).refused = satAdd 64 (s.parcel r.parcel).refused 1) ∧
    (r.state ≠ .admitting → r.state ≠ .held → r.state ≠ .ended → ((s.endReq k st).parcel r.parcel).endedOk =
      (if st = 0 then satAdd 64 (s.parcel r.parcel).endedOk 1 else (s.parcel r.parcel).endedOk)))

/-- A round moves the prompt share by at most 32, handed-off requests go away or end, and returned tokens are emitted or
counted stale. REBALANCE applies the shares that policies asked for and makes one round over the blocks; a round moves
the prompt share by at most 32, on a MIXED plot and on one turned PREFILL while it finishes decoding, toward a target
within its bounds, changes no state and no task, and leaves the other plots. HANDOFF_COPY_COMPLETE of a request whose
replica set gives it a place sends it there and frees its area (one of another module leaves altogether), lets it
decode here where this plot has become that place, or ends it with 0x0404 where the copy failed; where no plot has a
free slot, or the copy went elsewhere, it waits; an arrival is taken in. RETURNED_TOKENS for no request away are
counted; those for one are emitted and counted to it, at most MAX_NEW, and its final status ends it. (R294, R295,
R296, R346, R415.) -/
def Obligations.StepsAreSharedAndHandedOff : Prop :=
  (∀ (t : Nat) (sets : List SetView) (s : State), exec (.rebalance t sets) s = .next ((List.range 64).foldl (fun s b => s.rebalance sets b)
    ((s.parcels.map (fun x => x.1)).foldl (fun (s : State) k => s.updParcel k (fun p => { p with pfLo := p.askLo, pfHi := p.askHi }))
      { s.at' t with sched := { s.sched with sets := sets } }))) ∧
  (∀ (s : State) (sets : List SetView) (b : Nat), (s.plot b = none → s.rebalance sets b = s) ∧ (∀ p, s.plot b = some p →
    ∃ q, (s.rebalance sets b).plot b = some q ∧ q.phiNext ≤ p.phiNext + 32 ∧ p.phiNext ≤ q.phiNext + 32 ∧ q.state = p.state ∧ q.task = p.task ∧
      (p.mark = .decode ∨ (p.mark = .prefill ∧ (s.plotReqs p.model).any Req.decoding = false) → q.phiNext = p.phiNext) ∧
      ((s.modelOf p.model).elim 0 Model.setId = 0 → q.markNext = .mixed) ∧ (∀ i, i ≠ b → (s.rebalance sets b).plot i = s.plot i))) ∧
  (∀ (wp wd lo hi : Nat), lo ≤ hi → lo ≤ phiTarget wp wd lo hi ∧ phiTarget wp wd lo hi ≤ hi) ∧
  (∀ (handle : BitVec 32) (home : Option (BitVec 64)) (dest : BitVec 64) (h : HandIn) (s : State),
    exec (.handoffCopyComplete handle home true dest (some h)) s = .next (s.handIn h) ∧
    exec (.handoffCopyComplete handle home false dest (some h)) s = .next s) ∧
  (∀ (handle : BitVec 32) (home : Option (BitVec 64)) (ok : Bool) (dest : BitVec 64) (s : State), (s.req (handle.toNat + home.elim 0 (fun x => x.toNat + 1) * 2 ^ 32) = none ∨ ∃ r, s.req (handle.toNat + home.elim 0 (fun x => x.toNat + 1) * 2 ^ 32) = some r ∧ (s.moveSlot r).bind s.slotSerial = none) →
    exec (.handoffCopyComplete handle home ok dest none) s = .next s) ∧
  (∀ (handle : BitVec 32) (home : Option (BitVec 64)) (ok : Bool) (dest : BitVec 64) (s : State) (r : Req) (d : Nat), s.req (handle.toNat + home.elim 0 (fun x => x.toNat + 1) * 2 ^ 32) = some r → (s.moveSlot r).bind s.slotSerial = some d →
    (d = ownSerial → exec (.handoffCopyComplete handle home ok dest none) s = .next (s.updReq r.key (fun r => { r with state := .decode }))) ∧
    (d ≠ ownSerial → ok = false → exec (.handoffCopyComplete handle home ok dest none) s = .next ((s.endReq r.key 0x0404).settle)) ∧
    (d ≠ ownSerial → ok = true → d ≠ dest.toNat → exec (.handoffCopyComplete handle home ok dest none) s = .next s) ∧
    (d ≠ ownSerial → ok = true → d = dest.toNat → r.home ≠ 0 → exec (.handoffCopyComplete handle home ok dest none) s =
      .next (((s.updReq r.key (fun r => { r with state := .ended, holdKv := false })).closeReq r.key).settle)) ∧
    (d ≠ ownSerial → ok = true → d = dest.toNat → r.home = 0 → ∃ y q, exec (.handoffCopyComplete handle home ok dest none) s = .next y ∧
      y.req r.key = some q ∧ q.state = .decode ∧ q.away = true ∧ q.runsOn = d + 1 ∧ q.areaLen = 0 ∧ y.serve.reqs.length = s.serve.reqs.length)) ∧
  (∀ (s : State) (r : Req), r.state ≠ .queued → r.state ≠ .handoff → s.moveSlot r = none) ∧
  (∀ (s : State) (m : Model) (p : Plot) (k : Nat), s.decodeSlotOf m p = some k → (p.mark = .decode ∧ k = s.slot % 4) ∨
    ∃ v q, v ∈ s.sched.sets ∧ v.model = p.model ∧ q ∈ v.peers ∧ q.isPrefill = false ∧ q.decodes < m.slotsMax ∧ q.slot = k) ∧
  (∀ (s : State) (p : Plot) (k : Nat), s.promptSlot p = some k → p.mark = .decode ∧
    ∃ v q, v ∈ s.sched.sets ∧ v.model = p.model ∧ q ∈ v.peers ∧ q.isPrefill = true ∧ q.slot = k) ∧
  (∀ (handle : BitVec 32) (pos : Nat) (toks : List (BitVec 32)) (fin : Option (BitVec 16)) (s : State),
    (s.req handle.toNat).filter (fun r => r.away && r.state != .held && r.state != .ended) = none →
    exec (.returnedTokens handle pos toks fin) s = .next { s with time := { s.time with staleId := satAdd 32 s.time.staleId 1 } }) ∧
  (∀ (handle : BitVec 32) (pos : Nat) (toks : List (BitVec 32)) (fin : Option (BitVec 16)) (s y z : State) (r : Req) (l : List Nat),
    s.req handle.toNat = some r → r.away = true → r.state ≠ .held → r.state ≠ .ended →
    l = (toks.map (fun x => x.toNat)).take (r.maxNew - r.generated) →
    y = s.updReq r.key (fun q => { q with generated := q.generated + l.length, started := true, state := .decode }) →
    z = (if l = [] then y else y.emitTokens r pos l) →
    exec (.returnedTokens handle pos toks fin) s = .next (match fin with
      | some st => (z.endReq r.key st.toNat).settle
      | none => z))

/-- An attempt that ends writes its bytes and is verified or tried again, a timeout and a failed queue pair are attempts,
and notices are kept. SHARD_ATTEMPT_END of a running attempt with all its bytes writes them to every place of the
shard, if one is in service; a wrong digest fails the attempt with 0x0301, a right one marks the shard verified, a
plat only when it passes its checks; an attempt not running, or short, changes nothing. A failed attempt is told to
the requester and tried again, the fourth fails the shard. SHARD_TIMEOUT after the timeout fails the attempt with
0x0302. QP_FAILURE marks the queue pair dead, and fails the attempts that read through it. GROUP_NOTICE for no fetch
in hand is held with its time, else it is noted and its load may take effect; with a count it is a report of
references; one that has come before is only acknowledged. GROUP_NOTICE_RESEND forgets a member that has acknowledged,
or sends the notice to those that have not; EARLY_NOTICE_EXPIRE discards notices held for 60 s. (R234, R235, R236,
R237, R244, R355, R403.) -/
def Obligations.FetchesVerifyShards : Prop :=
  (∀ (ref : LoadRef) (shard : Fin 260) (body : Bytes) (t : Nat) (s x : State), x = s.at' t → (x.load ref = none ∨ ∃ l, x.load ref = some l ∧ l.shards.find? (fun h => h.index == shard.val && h.running) = none) → exec (.shardAttemptEnd ref shard body t) s = .next x) ∧
  (∀ (l : Load) (h : Shard) (ref : LoadRef) (shard : Fin 260) (body : Bytes) (t : Nat) (s x : State), x = s.at' t → x.load ref = some l → l.shards.find? (fun h => h.index == shard.val && h.running) = some h → (body.length ≠ h.len → exec (.shardAttemptEnd ref shard body t) s = .next x) ∧
    (body.length = h.len → x.canRest ref h = false → exec (.shardAttemptEnd ref shard body t) s = .next (x.updShard ref h.index (fun h => { h with running := false })))) ∧
  (∀ (y : State) (l : Load) (h : Shard) (ref : LoadRef) (shard : Fin 260) (body : Bytes) (t : Nat) (s x : State), x = s.at' t → x.load ref = some l → l.shards.find? (fun h => h.index == shard.val && h.running) = some h → body.length = h.len → x.canRest ref h = true → y = (x.places ref h).foldl (fun s k => s.fwWrite k body) x →
    (sha512 body ≠ h.digest → exec (.shardAttemptEnd ref shard body t) s = .next (y.attemptFailed ref h 0x0301)) ∧
    (sha512 body = h.digest → h.kind ≠ 1 ∨ ref.adapter = true → exec (.shardAttemptEnd ref shard body t) s = .next (((y.updShard ref h.index (fun h => { h with
      state := 1, running := false })).checkLoad ref).startLoads.settle)) ∧
    (sha512 body = h.digest → h.kind = 1 → ref.adapter = false → y.platStatus body (manifestTag l.manifest) l.serials l.member ≠ 0 →
      exec (.shardAttemptEnd ref shard body t) s = .next (((y.failShard ref h.index (y.platStatus body (manifestTag l.manifest) l.serials l.member)).checkLoad ref).startLoads.settle)) ∧
    (sha512 body = h.digest → h.kind = 1 → ref.adapter = false → y.platStatus body (manifestTag l.manifest) l.serials l.member = 0 →
      exec (.shardAttemptEnd ref shard body t) s = .next (((((y.updShard ref h.index (fun h => { h with state := 1, running := false })).updEntry ref.index.val (fun m =>
        { m with plats := SMap.set [] m.plats (l.platPos h.index) body })).checkLoad ref).startLoads).settle))) ∧
  (∀ (s y : State) (ref : LoadRef) (h : Shard) (st : Nat), y = (match (s.load ref).bind (fun l => l.fetch.bind (fun j => j.waiter)) with
      | some w => s.event w.parcel 2 w.op w.seq st w.obj (toLe 4 h.index ++ toLe 1 h.attempt) w.dest
      | none => s) →
    s.attemptFailed ref h st = ((if 3 ≤ h.attempt then y.failShard ref h.index st
      else y.updShard ref h.index (fun h => { h with attempt := h.attempt + 1, startAt := y.now })).checkLoad ref).startLoads.settle) ∧
  (∀ (ref : LoadRef) (shard : Fin 260) (t : Nat) (s : State), (∀ l, (s.at' t).load ref = some l →
      l.fetch = none ∨ l.shards.find? (fun h => h.index == shard.val && h.running) = none) → exec (.shardTimeout ref shard t) s = .next (s.at' t)) ∧
  (∀ (ref : LoadRef) (shard : Fin 260) (t : Nat) (s : State) (l : Load) (h : Shard) (j : FetchJob), (s.at' t).load ref = some l →
    l.shards.find? (fun h => h.index == shard.val && h.running) = some h → l.fetch = some j →
    exec (.shardTimeout ref shard t) s = .next (if h.startAt + 1000000000 * j.timeout ≤ max s.now t then (s.at' t).attemptFailed ref h 0x0302 else s.at' t)) ∧
  (∀ (qp : BitVec 24) (t : Nat) (s : State), ∃ y, exec (.qpFailure qp none t) s = .next y ∧
    (∀ q, q ∈ y.mail.qps → q.num = qp.toNat → q.live = false) ∧ y.mail.qps.length = s.mail.qps.length ∧ y.mem = s.mem ∧
    (∀ (ref : LoadRef) (k : Fin 4), (y.load ref = none → exec (.qpFailure qp (some (ref, k)) t) s = .next y) ∧
      (∀ l, y.load ref = some l → exec (.qpFailure qp (some (ref, k)) t) s = .next ((l.shards.filter (fun h => h.running &&
        (h.index + h.attempt) % (l.fetch.map (fun j => j.servers)).getD 1 == k.val)).foldl (fun s h => s.attemptFailed ref h 0x0302) y)))) ∧
  (∀ (m : MgmtIn) (tag : BitVec 64) (digest : BitVec 512) (member : Fin 64) (refs : Option (BitVec 32)) (t : Nat) (s : State), m.netB = true → (s.box 0).key = none →
    exec (.groupNotice m tag digest member refs t) s = .next (mgmtBad (s.at' t))) ∧
  (∀ (m : MgmtIn) (tag : BitVec 64) (digest : BitVec 512) (member : Fin 64) (refs : Option (BitVec 32)) (t : Nat) (s : State), mgmtAgain s m → exec (.groupNotice m tag digest member refs t) s = .next (mgmtAcked (s.at' t) m)) ∧
  (∀ (y : State) (mine : List LoadRef) (m : MgmtIn) (tag : BitVec 64) (digest : BitVec 512) (member : Fin 64) (refs : Option (BitVec 32)) (t : Nat) (s : State), mgmtFresh s m → y = mgmtSeenNow (s.at' t) m →
    mine = y.loadRefs.filter (fun r => (y.load r).any (fun l => manifestTag l.manifest == tag.toNat && manifestDigest l.manifest == digest.toNat)) →
    (refs = none → mine = [] → exec (.groupNotice m tag digest member refs t) s =
      .next { y with serve := { y.serve with early := y.serve.early ++ [⟨tag.toNat, toLe 64 digest.toNat, member.val, max s.now t⟩] } }) ∧
    (refs = none → mine ≠ [] → exec (.groupNotice m tag digest member refs t) s =
      .next (mine.foldl (fun (s : State) r => (s.updLoad r (fun l => { l with notices := l.notices.filter (fun k => k != member.val) ++ [member.val] })).settleLoad r) y).settle) ∧
    (∀ n, refs = some n → exec (.groupNotice m tag digest member refs t) s =
      .next (mine.foldl (fun (s : State) r => if r.adapter then s.updVersion r.index.val r.version.toNat (fun v => { v with
        peerRefs := SMap.set 0 v.peerRefs member.val n.toNat
        peerDone := v.peerDone.filter (fun k => k != member.val) ++ (if n.toNat = 0 then [member.val] else []) }) else s) y).settle)) ∧
  (∀ (ref : LoadRef) (acked : Option (Fin 64)) (t : Nat) (s : State), (s.at' t).load ref = none → exec (.groupNoticeResend ref acked t) s = .next (s.at' t)) ∧
  (∀ (ref : LoadRef) (k : Fin 64) (t : Nat) (s : State) (l : Load), (s.at' t).load ref = some l →
    exec (.groupNoticeResend ref (some k) t) s = .next ((s.at' t).putLoad ref { l with owed := l.owed.filter (fun x => x != k.val) }) ∧
    exec (.groupNoticeResend ref none t) s = .next ((s.at' t).sendNotice l l.owed)) ∧
  (∀ (t : Nat) (s : State), ∃ y, exec (.earlyNoticeExpire t) s = .next y ∧
    (∀ e, e ∈ y.serve.early ↔ e ∈ s.serve.early ∧ max s.now t < e.at' + 60000000000) ∧ y.serve.reqs = s.serve.reqs ∧ y.mem = s.mem) ∧
  (∀ (s : State) (i : Fin 256) (h : Shard), (s.entry i.val).state ≠ .free → (s.entry i.val).shards = [h] → h.index < 260 →
    ((s.updShard (modelRef i.val) h.index (fun h => { h with state := 1, running := false })).entry i.val).shards = [{ h with state := 1, running := false }])

/-- PTP sets module time, holdover ends, an arbiter decision grants by its rotation, a starved requester is marked, and a
parcel scrub ends. PTP_MESSAGE of the port and domain in use on a link that is up sets module time, valid and locked,
with the lock; without it holdover begins; another changes nothing. HOLDOVER_EXPIRE after the holdover makes module
time invalid. ARB_DECISION makes one cycle of that arbiter and of no other, and grants only a requester that asks.
ARB_STARVE_THRESHOLD marks a requester that has waited to the threshold, with the interrupt of the first.
PARCEL_SCRUB_COMPLETE waits for the scrubs of its parcel; then it is DISABLED, or, destroyed and holding nothing, free
and quarantined. DEFERRED_RUN executes a deferred request with none before it on its object and completes it with its
answer, PARCEL_DISABLED where its parcel has gone. CONGESTION_NOTIFICATION lowers the rate of its queue pairs (to a
free value below it, log entry 2). (R325, R327, R328, R332, R333, R334, R335, R336, R337, R338, R355, R377.) -/
def Obligations.TimeAndArbiters : Prop :=
  (∀ (port : Fin 4) (domain : BitVec 8) (offset : BitVec 32) (t : Nat) (s : State), port.val = s.time.port → SMap.get false s.mail.linkUp port.val = true →
    domain.toNat = s.time.domain → (∃ y, exec (.ptpMessage port domain true offset t) s = .next y ∧ y.now = t ∧ y.time.locked = true ∧ y.time.holdover = false ∧
      y.time.offset = offset.toInt ∧ y.time.valid = true ∧ y.mem = s.mem) ∧
    ∃ y, exec (.ptpMessage port domain false offset t) s = .next y ∧ y.now = max s.now t ∧ y.time.locked = false ∧ y.time.offset = offset.toInt ∧
      (s.time.locked = true → y.time.holdover = s.time.valid ∧ y.time.holdFrom = max s.now t) ∧ (s.time.locked = false → y.time.holdover = s.time.holdover) ∧
      y.time.valid = s.time.valid ∧ y.mem = s.mem) ∧
  (∀ (port : Fin 4) (domain : BitVec 8) (locked : Bool) (offset : BitVec 32) (t : Nat) (s : State),
    port.val ≠ s.time.port ∨ SMap.get false s.mail.linkUp port.val = false ∨ domain.toNat ≠ s.time.domain →
    exec (.ptpMessage port domain locked offset t) s = .next s) ∧
  (∀ (t : Nat) (s : State), s.time.holdover = true → s.time.holdFrom + s.time.cfg * 1000000000 ≤ max s.now t →
    ∃ y, exec (.holdoverExpire t) s = .next y ∧ y.time.holdover = false ∧ y.time.valid = false ∧ y.mem = s.mem) ∧
  (∀ (t : Nat) (s : State), s.time.holdover = false ∨ max s.now t < s.time.holdFrom + s.time.cfg * 1000000000 →
    exec (.holdoverExpire t) s = .next (s.at' t)) ∧
  (∀ (arb : Fin 112) (fw other : BitVec 32) (static : Bool) (s : State), ∃ y, exec (.arbDecision arb fw other static) s = .next y ∧
      y.arb arb.val = (s.arb arb.val).cycle (arbRequesters arb.val) fw.toNat other.toNat (static && decide (arb.val < 108)) ∧
      (∀ i, i ≠ arb.val → y.arb i = s.arb i) ∧ y.mem = s.mem ∧ y.tiles = s.tiles) ∧
  (∀ (a : Arb) (n fw other g : Nat), (a.choose n fw = some g → g < n ∨ g = a.last) ∧ (a.choose n fw = some g → bitB fw g = true ∧ a.weightOf g ≠ 0) ∧
    ((a.cycle n fw other false).next = none ∨ ∃ r, (a.cycle n fw other false).next = some r ∧ (bitB fw r = true ∨ bitB other r = true))) ∧
  (∀ (arb : Fin 112) (r : Fin 32) (s : State), (s.arb arb.val).thr ≠ 0 → (s.arb arb.val).thr ≤ SMap.get 0 (s.arb arb.val).cur r.val →
    bitB (s.arb arb.val).marked r.val = false → r.val < arbRequesters arb.val →
    ∃ y, exec (.arbStarveThreshold arb r) s = .next y ∧ bitB (y.arb arb.val).starve r.val = true ∧ bitB (y.arb arb.val).marked r.val = true ∧
      ((s.arb arb.val).irqEn = true → (s.arb arb.val).starve = 0 → arbSource arb.val < 256 → y.hic.pend.getLsbD (arbSource arb.val) = true)) ∧
  (∀ (arb : Fin 112) (r : Fin 32) (s : State), (s.arb arb.val).thr = 0 ∨ SMap.get 0 (s.arb arb.val).cur r.val < (s.arb arb.val).thr ∨
    bitB (s.arb arb.val).marked r.val = true ∨ arbRequesters arb.val ≤ r.val → exec (.arbStarveThreshold arb r) s = .next s) ∧
  (∀ (parcel : Fin 513) (t : Nat) (s : State), (s.at' t).scrubbingFor parcel.val = true ∨ ((s.parcel parcel.val).state ≠ .scrubbing ∧
      ((s.parcel parcel.val).state ≠ .destroying ∨ (s.at' t).parcelHolds parcel.val = true)) → exec (.parcelScrubComplete parcel t) s = .next (s.at' t)) ∧
  (∀ (parcel : Fin 513) (t : Nat) (s : State), (s.at' t).scrubbingFor parcel.val = false → (s.parcel parcel.val).state = .scrubbing →
    ∃ y, exec (.parcelScrubComplete parcel t) s = .next y ∧ (y.parcel parcel.val).state = .disabled ∧ (y.parcel parcel.val).shutdown = none) ∧
  (∀ (parcel : Fin 513) (t : Nat) (s : State), (s.at' t).scrubbingFor parcel.val = false → (s.parcel parcel.val).state = .destroying →
    (s.at' t).parcelHolds parcel.val = false → ∃ y, exec (.parcelScrubComplete parcel t) s = .next y ∧
      y.parcel parcel.val = { Parcel.reset with quarantine := max s.now t + quarantineNs } ∧ (∀ a, a ∈ y.serve.allocs → a.owner ≠ parcel.val)) ∧
  (∀ (i t : Nat) (s : State), s.mail.deferred[i]? = none → exec (.deferredRun i t) s = .next (s.at' t)) ∧
  (∀ (i t : Nat) (s x : State) (d : Deferred), x = s.at' t → x.mail.deferred[i]? = some d → (x.mail.deferred.take i).any (fun y => y.obj == d.obj) = true → exec (.deferredRun i t) s = .next x) ∧
  (∀ (z : State) (i t : Nat) (s x : State) (d : Deferred), x = s.at' t → x.mail.deferred[i]? = some d → (x.mail.deferred.take i).any (fun y => y.obj == d.obj) = false → z = { x with mail := { x.mail with deferred := x.mail.deferred.eraseIdx i } } → z.goneParcel d.req.mail.parcel.toNat = true → exec (.deferredRun i t) s = .next (z.complete d.req.waiter 0x0201 [])) ∧
  (∀ (z y : State) (i t : Nat) (s x : State) (d : Deferred), x = s.at' t → x.mail.deferred[i]? = some d → (x.mail.deferred.take i).any (fun y => y.obj == d.obj) = false → z = { x with mail := { x.mail with deferred := x.mail.deferred.eraseIdx i } } → z.goneParcel d.req.mail.parcel.toNat = false →
    (∀ st body, z.serveReq d.req true = (y, .final st body) ∨ z.serveReq d.req true = (y, .ended st body) →
      exec (.deferredRun i t) s = .next (y.complete d.req.waiter st body)) ∧
    (∀ body, z.serveReq d.req true = (y, .started body) ∨ z.serveReq d.req true = (y, .later) → exec (.deferredRun i t) s = .next y) ∧
    (z.serveReq d.req true = (y, .wait d.obj) → exec (.deferredRun i t) s = .next x) ∧
    (∀ k, k ≠ d.obj → z.serveReq d.req true = (y, .wait k) →
      exec (.deferredRun i t) s = .next { y with mail := { y.mail with deferred := y.mail.deferred ++ [⟨k, d.req⟩] } })) ∧
  (∀ (qp : BitVec 24) (s : State), ∃ y, exec (.congestionNotification qp) s = .next y ∧ y.mem = s.mem ∧ y.mail.qps.length = s.mail.qps.length ∧
    ∀ (j : Nat) (q : QPair), s.mail.qps[j]? = some q → (q.num ≠ qp.toNat → y.mail.qps[j]? = some q) ∧
      (q.num = qp.toNat → 0 < q.rate → ∃ r, y.mail.qps[j]? = some { q with rate := r } ∧ r < q.rate))

/-- A datagram is dropped, refused, answered again or executed by its head, its tag and its number, and its answer is sent
and kept. Each of the 36 request commands is the arrival of its datagram. One that comes while the module is off or
starts is not received; one with a bad head is counted as dropped; one with a bad tag goes to the AUTH_FAIL answer and
touches no mailbox; one whose number was seen is answered again without effect; a new one that must wait for a floor
is set aside; any other new one is executed: one that fails checks 4 to 8 is answered with the status of the check,
one that needs SERVE waits for it, or is refused on the way to Off. A number once accepted is not new again, and one
64 or more behind is not new. An answer goes to the source of the request, behind what was sent, names its opcode and
number, and at most 64 are kept. A request that meets a busy object is deferred behind it, up to 16. (R350, R356,
R358, R359, R360, R361, R362, R363, R440, R445, 13_edush_interface.md Table 13-4.) -/
def Obligations.EdushRequestsAreChecked : Prop :=
  (∀ (m : Mail) (s : State), (∀ op, exec (.edushNop op m) s = .next (s.receive ⟨op.toNat, m⟩)) ∧
    exec (.parcelCreate m) s = .next (s.receive ⟨0x10, m⟩) ∧
    exec (.parcelDestroy m) s = .next (s.receive ⟨0x11, m⟩) ∧
    exec (.parcelEnable m) s = .next (s.receive ⟨0x12, m⟩) ∧
    exec (.parcelDisable m) s = .next (s.receive ⟨0x13, m⟩) ∧
    exec (.modelRegister m) s = .next (s.receive ⟨0x20, m⟩) ∧
    exec (.modelFetch m) s = .next (s.receive ⟨0x21, m⟩) ∧
    exec (.modelFill m) s = .next (s.receive ⟨0x22, m⟩) ∧
    exec (.modelEvict m) s = .next (s.receive ⟨0x23, m⟩) ∧
    exec (.adapterLoad m) s = .next (s.receive ⟨0x28, m⟩) ∧
    exec (.adapterReplace m) s = .next (s.receive ⟨0x29, m⟩) ∧
    exec (.adapterWithdraw m) s = .next (s.receive ⟨0x2A, m⟩) ∧
    exec (.platLoad m) s = .next (s.receive ⟨0x30, m⟩) ∧
    exec (.prefixPin m) s = .next (s.receive ⟨0x38, m⟩) ∧
    exec (.prefixUnpin m) s = .next (s.receive ⟨0x39, m⟩) ∧
    exec (.ringCreate m) s = .next (s.receive ⟨0x40, m⟩) ∧
    exec (.ringDestroy m) s = .next (s.receive ⟨0x41, m⟩) ∧
    exec (.statsRead m) s = .next (s.receive ⟨0x50, m⟩) ∧
    exec (.countersRead m) s = .next (s.receive ⟨0x51, m⟩) ∧
    exec (.fieldbookRead m) s = .next (s.receive ⟨0x52, m⟩) ∧
    exec (.topologyPlanSet m) s = .next (s.receive ⟨0x60, m⟩) ∧
    exec (.topologyRead m) s = .next (s.receive ⟨0x61, m⟩) ∧
    exec (.linkRetrain m) s = .next (s.receive ⟨0x62, m⟩) ∧
    exec (.powerCapSet m) s = .next (s.receive ⟨0x70, m⟩) ∧
    exec (.stateSet m) s = .next (s.receive ⟨0x71, m⟩) ∧
    exec (.stateSetNetwork m) s = .next (s.receive ⟨0x71, m⟩) ∧
    exec (.parcel0KeyInstall m) s = .next (s.receive ⟨0x71, m⟩) ∧
    exec (.parcel0KeyReplace m) s = .next (s.receive ⟨0x71, m⟩) ∧
    exec (.quadrantTakeOut m) s = .next (s.receive ⟨0x78, m⟩) ∧
    exec (.quadrantRetest m) s = .next (s.receive ⟨0x78, m⟩) ∧
    exec (.quadrantReturn m) s = .next (s.receive ⟨0x78, m⟩) ∧
    exec (.hbmRecal m) s = .next (s.receive ⟨0x79, m⟩) ∧
    exec (.fwStage m) s = .next (s.receive ⟨0x80, m⟩) ∧
    exec (.policyImageStage m) s = .next (s.receive ⟨0x80, m⟩) ∧
    exec (.fwActivate m) s = .next (s.receive ⟨0x81, m⟩) ∧
    exec (.spdmMessage m) s = .next (s.receive ⟨0x90, m⟩)) ∧
  (∀ (r : EdReq) (s : State), s.power.mode = .off ∨ s.power.mode = .starting → s.receive r = s.at' r.mail.now) ∧
  (∀ (r : EdReq) (s : State), s.power.mode ≠ .off → s.power.mode ≠ .starting → mailHeadOk r.mail = false →
    s.receive r = { s.at' r.mail.now with mail := { (s.at' r.mail.now).mail with dropped := satAdd 64 s.mail.dropped 1 } }) ∧
  (∀ (r : EdReq) (s : State), s.power.mode ≠ .off → s.power.mode ≠ .starting → mailHeadOk r.mail = true → (s.at' r.mail.now).authentic r = false →
    s.receive r = (s.at' r.mail.now).authFail r ∧ (s.receive r).mail.boxes = s.mail.boxes ∧ (s.receive r).parcels = s.parcels) ∧
  (∀ (r : EdReq) (s : State), comesThrough s r → s.receive r = (s.at' r.mail.now).execute r) ∧
  (∀ (r : EdReq) (s : State), comesThrough s r → (accepted s r).edCheck r ≠ 0 →
    s.receive r = (accepted s r).finish r (accepted s r, .final ((accepted s r).edCheck r) [])) ∧
  (∀ (r : EdReq) (s : State), comesThrough s r → (accepted s r).edCheck r = 0 →
    s.receive r = (accepted s r).finish r ((accepted s r).serveReq r false)) ∧
  (∀ (r : EdReq) (a : State) (late : Bool), waitsServe r.op = true → a.power.going = some .off → a.serveReq r late = (a, .final 0x0105 [])) ∧
  (∀ (r : EdReq) (a : State) (late : Bool), waitsServe r.op = true → a.power.going ≠ some .off → a.power.going ≠ none ∨ a.power.mode ≠ .serve →
    a.serveReq r late = (a, .wait ⟨7, 1⟩)) ∧
  (∀ (r : EdReq) (s : State), s.power.mode ≠ .off → s.power.mode ≠ .starting → mailHeadOk r.mail = true → (s.at' r.mail.now).authentic r = true →
    s.mail.setAside = [] → (s.box r.mail.parcel.toNat).isNew r.mail.seq.toNat = false →
    s.receive r = (s.at' r.mail.now).seenAgain r ∧ (s.receive r).parcels = s.parcels ∧ (s.receive r).mail.boxes = s.mail.boxes) ∧
  (∀ (r : EdReq) (s : State), s.power.mode ≠ .off → s.power.mode ≠ .starting → mailHeadOk r.mail = true → (s.at' r.mail.now).authentic r = true →
    (s.mail.setAside.any (fun x => x.mail.parcel == r.mail.parcel && x.mail.seq == r.mail.seq && x.mail.tag == r.mail.tag) = true → s.receive r = s.at' r.mail.now) ∧
    (s.mail.setAside.any (fun x => x.mail.parcel == r.mail.parcel && x.mail.seq == r.mail.seq && x.mail.tag == r.mail.tag) = false →
      (s.box r.mail.parcel.toNat).isNew r.mail.seq.toNat = true → (s.at' r.mail.now).mustWait r.mail.parcel.toNat r.mail.seq.toNat = true →
      (s.receive r).mail.setAside = s.mail.setAside ++ [r] ∧ (s.receive r).mail.boxes = s.mail.boxes ∧ (s.receive r).parcels = s.parcels)) ∧
  (∀ (b : Mailbox) (seq : Nat), seq < 2 ^ 32 → b.high < 2 ^ 32 → b.isNew seq = true → (b.accept seq).isNew seq = false) ∧
  (∀ (b : Mailbox) (seq : Nat), seq < 2 ^ 32 → b.high < 2 ^ 32 → 64 ≤ b.behind seq → b.moves seq = false → b.isNew seq = false) ∧
  (∀ (s x : State) (r : EdReq) (st : Nat) (body : Bytes), x.mail.out.length = s.mail.out.length →
    ∃ o, (s.finish r (x, .final st body)).mail.out = x.mail.out ++ [o] ∧ o.dest = ⟨r.mail.srcIp, r.mail.srcUdp, r.mail.port.val⟩ ∧
      leAt o.bytes 0 2 = 0x4544 ∧ leAt o.bytes 3 1 = 1 ∧ leAt o.bytes 4 2 = r.op % 65536 ∧ leAt o.bytes 8 4 = r.mail.seq.toNat ∧
      ((s.finish r (x, .final st body)).box r.mail.parcel.toNat).cache.length ≤ 64) ∧
  (∀ (s x : State) (r : EdReq) (k : ObjKey), (x.mail.deferred.filter (fun d => d.obj == k)).length < 16 →
    (s.finish r (x, .wait k)).mail.deferred = x.mail.deferred ++ [⟨k, r⟩])

/-- NOP answers and acknowledges, and parcels are created, enabled, disabled and destroyed as their state allows. A
request that passes every check has its effect and answer. NOP acknowledges the events up to its number and answers
time and event number; an opcode outside the table is answered 0x0101. PARCEL_CREATE of a free number out of
quarantine makes the parcel with its quotas and its unwrapped key, DISABLED; one of a number in use answers 0x0105,
without room 0x0202, and in quarantine or shutdown it waits. PARCEL_ENABLE of a DISABLED parcel enables it and asks
for a commit; PARCEL_DISABLE and PARCEL_DESTROY close it with the outcome to follow; on one already so they end at
once; a parcel that is being closed defers the request, one that does not exist answers 0x0105, or 0x0201 when the
request was deferred. (R325, R326, R359, R368, R370, R376, R377, 12_scheduling_and_arbitration.md Table 12-2,
13_edush_interface.md Tables 13-3, 13-4 and 13-5.) -/
def Obligations.EdushParcelRequestsHaveTheirEffect : Prop :=
  (∀ (m : Mail) (s a : State), passes s ⟨1, m⟩ → accepted s ⟨1, m⟩ = a → 
    exec (.edushNop 1 m) s = answered s ⟨1, m⟩ (a.doNop m.parcel.toNat m.payload).1 (a.doNop m.parcel.toNat m.payload).2) ∧
  (∀ (op : BitVec 16) (m : Mail) (s : State), comesThrough s ⟨op.toNat, m⟩ → edOp op.toNat = none → m.len.toNat = m.payload.length → m.payload.length ≤ 8128 →
    exec (.edushNop op m) s = answered s ⟨op.toNat, m⟩ (accepted s ⟨op.toNat, m⟩) (.final 0x0101 [])) ∧
  (∀ (s : State) (p : Nat) (l : Bytes), 
    s.doNop p l = (if l = [] then s else s.setBox p { s.box p with unacked := (s.box p).unacked.filter (fun e => decide (leAt l 0 4 < e.num)) },
      .final 0 (toLe 8 s.now ++ toLe 4 (s.box p).evNum))) ∧
  (∀ (m : Mail) (s a : State), passes s ⟨0x10, m⟩ → accepted s ⟨0x10, m⟩ = a → 
    exec (.parcelCreate m) s = answered s ⟨0x10, m⟩ (a.doCreate m.seq.toNat m.payload).1 (a.doCreate m.seq.toNat m.payload).2) ∧
  (∀ (m : Mail) (s a : State), passes s ⟨0x11, m⟩ → accepted s ⟨0x11, m⟩ = a → 
    exec (.parcelDestroy m) s = answered s ⟨0x11, m⟩ (a.doDestroy (EdReq.waiter ⟨0x11, m⟩) m.payload false).1 (a.doDestroy (EdReq.waiter ⟨0x11, m⟩) m.payload false).2) ∧
  (∀ (m : Mail) (s a : State), passes s ⟨0x12, m⟩ → accepted s ⟨0x12, m⟩ = a → 
    exec (.parcelEnable m) s = answered s ⟨0x12, m⟩ (a.doEnable m.payload false).1 (a.doEnable m.payload false).2) ∧
  (∀ (m : Mail) (s a : State), passes s ⟨0x13, m⟩ → accepted s ⟨0x13, m⟩ = a → 
    exec (.parcelDisable m) s = answered s ⟨0x13, m⟩ (a.doDisable (EdReq.waiter ⟨0x13, m⟩) m.payload false).1 (a.doDisable (EdReq.waiter ⟨0x13, m⟩) m.payload false).2) ∧
  (∀ (s : State) (seq p : Nat) (l : Bytes), p = leAt l 0 2 → (s.parcel p).dying = true ∨ ((s.parcel p).state = .free ∧ s.now < (s.parcel p).quarantine) → 
    s.doCreate seq l = (s, .wait (parcelKeyOf p))) ∧
  (∀ (s : State) (seq p : Nat) (l : Bytes), p = leAt l 0 2 → (s.parcel p).dying = false → (s.parcel p).state ≠ .free → 
    s.doCreate seq l = (s, .final 0x0105 [])) ∧
  (∀ (s : State) (seq p : Nat) (l : Bytes), p = leAt l 0 2 → (s.parcel p).state = .free → (s.parcel p).quarantine ≤ s.now → quotasOf l = none ∨ (s.box 0).key = none → 
    s.doCreate seq l = (s, .final 0x0102 [])) ∧
  (∀ (s : State) (seq p : Nat) (l : Bytes) (y : Parcel) (k0 : Bytes), p = leAt l 0 2 → (s.parcel p).state = .free → (s.parcel p).quarantine ≤ s.now → quotasOf l = some y → (s.box 0).key = some k0 → s.preBase y.qPreempt = none → 
    s.doCreate seq l = (s, .final 0x0202 [])) ∧
  (∀ (s : State) (seq p : Nat) (l : Bytes) (y : Parcel) (k0 : Bytes) (base : Nat), p = leAt l 0 2 → (s.parcel p).state = .free → (s.parcel p).quarantine ≤ s.now → quotasOf l = some y → (s.box 0).key = some k0 → s.preBase y.qPreempt = some base → 
    s.doCreate seq l = (s.makeParcel p base (y.qPreempt * mib2) y (unwrapKey k0 (slice l 8 64) p seq), .final 0 [])) ∧
  (∀ (s : State) (w : Waiter) (p : Nat) (l : Bytes) (late : Bool), p = leAt l 0 2 → (s.parcel p).state = .free → s.doDestroy w l late = (s, .final (goneStatus late) []) ∧
    s.doEnable l late = (s, .final (goneStatus late) []) ∧ s.doDisable w l late = (s, .final (goneStatus late) [])) ∧
  (∀ (s : State) (w : Waiter) (p : Nat) (l : Bytes) (late : Bool), p = leAt l 0 2 → (s.parcel p).state ≠ .free → (s.parcel p).dying = true ∨ (s.parcel p).closing = true →
    s.doDestroy w l late = (s, .wait (parcelKeyOf p)) ∧ s.doEnable l late = (s, .wait (parcelKeyOf p)) ∧ s.doDisable w l late = (s, .wait (parcelKeyOf p))) ∧
  (∀ (s : State) (w : Waiter) (p : Nat) (l : Bytes) (late : Bool), p = leAt l 0 2 → (s.parcel p).state = .disabled → (s.parcel p).dying = false → (s.parcel p).closing = false →
    s.doDestroy w l late = ((s.endSaved p).closeParcel p true w, .started []) ∧ s.doDisable w l late = (s, .ended 0 []) ∧
    s.doEnable l late = ((s.updParcel p (fun x => { x with state := .enabled })).wantCommit, .final 0 [])) ∧
  (∀ (s : State) (w : Waiter) (p : Nat) (l : Bytes) (late : Bool), p = leAt l 0 2 → (s.parcel p).state = .enabled → (s.parcel p).dying = false → (s.parcel p).closing = false →
    s.doDestroy w l late = ((s.endSaved p).closeParcel p true w, .started []) ∧ s.doDisable w l late = (s.closeParcel p false w, .started []) ∧
    s.doEnable l late = (s, .final 0 [])) ∧
  (∀ (s : State) (p base len : Nat) (y : Parcel) (key : Bytes), (s.makeParcel p base len y key).parcel p =
    { y with preArea := base } ∧ ((s.makeParcel p base len y key).box p).key = some key) ∧
  (∀ (l : Bytes) (y : Parcel), quotasOf l = some y → y.state = .disabled ∧ y.pfMin ≤ y.pfMax)

/-- Models are registered, fetched, filled and evicted, and adapters and plats are loaded, as their owner and state allow.
With every check passed, each request has the outcome of its state, in the order of the checks. MODEL_REGISTER within
the quotas takes the first free entry, REGISTERED for its owner. MODEL_FETCH of a REGISTERED model takes its space and
starts the fetch where every check of the image passes, and else answers the status of the check; of a model with this
digest it ends at once, waits, or fetches what is missing. MODEL_FILL of a READY model within the blocks of its owner
waits for a placement; of a FILLED one it has ended already. MODEL_EVICT begins the eviction from Field or the
registry. ADAPTER_LOAD of a good image takes the first free adapter number with version 1, ADAPTER_REPLACE the next
version, ADAPTER_WITHDRAW retires it. PLAT_LOAD of the owner installs a plat that passes its checks. Of no such object
they answer 0x0304 or 0x0305, of another parcel 0x0105, beyond a quota 0x0202; a busy object defers them. (R224, R229,
R230, R231, R232, R233, R238, R241, R242, R246, R247, 08_models_and_weights.md Tables 8-5 to 8-8.) -/
def Obligations.EdushModelRequestsHaveTheirEffect : Prop :=
  (∀ (m : Mail) (s a : State), passes s ⟨0x20, m⟩ → accepted s ⟨0x20, m⟩ = a → 
    exec (.modelRegister m) s = answered s ⟨0x20, m⟩ (a.doRegister m.parcel.toNat m.payload).1 (a.doRegister m.parcel.toNat m.payload).2) ∧
  (∀ (m : Mail) (s a : State), passes s ⟨0x21, m⟩ → accepted s ⟨0x21, m⟩ = a → 
    exec (.modelFetch m) s = answered s ⟨0x21, m⟩ (a.doFetch (EdReq.waiter ⟨0x21, m⟩) m.fetched m.payload).1 (a.doFetch (EdReq.waiter ⟨0x21, m⟩) m.fetched m.payload).2) ∧
  (∀ (m : Mail) (s a : State), passes s ⟨0x22, m⟩ → accepted s ⟨0x22, m⟩ = a → 
    exec (.modelFill m) s = answered s ⟨0x22, m⟩ (a.doFill (EdReq.waiter ⟨0x22, m⟩) m.payload).1 (a.doFill (EdReq.waiter ⟨0x22, m⟩) m.payload).2) ∧
  (∀ (m : Mail) (s a : State), passes s ⟨0x23, m⟩ → accepted s ⟨0x23, m⟩ = a → 
    exec (.modelEvict m) s = answered s ⟨0x23, m⟩ (a.doEvict (EdReq.waiter ⟨0x23, m⟩) m.payload).1 (a.doEvict (EdReq.waiter ⟨0x23, m⟩) m.payload).2) ∧
  (∀ (m : Mail) (s a : State), passes s ⟨0x28, m⟩ → accepted s ⟨0x28, m⟩ = a → 
    exec (.adapterLoad m) s = answered s ⟨0x28, m⟩ (a.doAdapterLoad (EdReq.waiter ⟨0x28, m⟩) m.fetched m.payload).1 (a.doAdapterLoad (EdReq.waiter ⟨0x28, m⟩) m.fetched m.payload).2) ∧
  (∀ (m : Mail) (s a : State), passes s ⟨0x29, m⟩ → accepted s ⟨0x29, m⟩ = a → 
    exec (.adapterReplace m) s = answered s ⟨0x29, m⟩ (a.doAdapterReplace (EdReq.waiter ⟨0x29, m⟩) m.fetched m.payload).1 (a.doAdapterReplace (EdReq.waiter ⟨0x29, m⟩) m.fetched m.payload).2) ∧
  (∀ (m : Mail) (s a : State), passes s ⟨0x2A, m⟩ → accepted s ⟨0x2A, m⟩ = a → 
    exec (.adapterWithdraw m) s = answered s ⟨0x2A, m⟩ (a.doWithdraw (EdReq.waiter ⟨0x2A, m⟩) m.payload).1 (a.doWithdraw (EdReq.waiter ⟨0x2A, m⟩) m.payload).2) ∧
  (∀ (m : Mail) (s a : State), passes s ⟨0x30, m⟩ → accepted s ⟨0x30, m⟩ = a → 
    exec (.platLoad m) s = answered s ⟨0x30, m⟩ (a.doPlatLoad (EdReq.waiter ⟨0x30, m⟩) m.fetched m.payload).1 (a.doPlatLoad (EdReq.waiter ⟨0x30, m⟩) m.fetched m.payload).2) ∧
  (∀ (s : State) (p : Nat) (l : Bytes), (p ≠ 0 ∧ (askedOwner p l ≠ p ∨ askedGrants p l ≠ [])) ∨ s.knownParcel (askedOwner p l) = false ∨ (∃ g, g ∈ askedGrants p l ∧ s.knownParcel g = false) ∨ s.tableClash l = true → 
    s.doRegister p l = (s, .final 0x0105 [])) ∧
  (∀ (s : State) (p : Nat) (l : Bytes), p = 0 ∨ (askedOwner p l = p ∧ askedGrants p l = []) → s.knownParcel (askedOwner p l) = true → (∀ g, g ∈ askedGrants p l → s.knownParcel g = true) → s.tableClash l = false → s.freeEntry = none ∨ s.modelsFull (askedOwner p l) = true ∨ (∃ g, g ∈ askedGrants p l ∧ s.modelsFull g = true) → 
    s.doRegister p l = (s, .final 0x0202 [])) ∧
  (∀ (s : State) (p : Nat) (l : Bytes) (i : Nat), p = 0 ∨ (askedOwner p l = p ∧ askedGrants p l = []) → s.knownParcel (askedOwner p l) = true → (∀ g, g ∈ askedGrants p l → s.knownParcel g = true) → s.tableClash l = false → s.freeEntry = some i → s.modelsFull (askedOwner p l) = false → (∀ g, g ∈ askedGrants p l → s.modelsFull g = false) → 
    s.doRegister p l = (s.updEntry i (fun y => { Model.reset with gen := y.gen, state := .registered, owner := askedOwner p l, grants := askedGrants p l, reg := l }),
      .final 0 (toLe 2 ((s.updEntry i (fun y => { Model.reset with gen := y.gen, state := .registered, owner := askedOwner p l, grants := askedGrants p l, reg := l })).modelId i)))) ∧
  (∀ (s : State) (w : Waiter) (f : Option Bytes) (l : Bytes), s.modelOf (leAt l 0 2) = none → 
    s.doFetch w f l = (s, .final 0x0304 [])) ∧
  (∀ (s : State) (w : Waiter) (f : Option Bytes) (l : Bytes) (x : Model), s.modelOf (leAt l 0 2) = some x → ownerOk w.parcel x.owner = false → 
    s.doFetch w f l = (s, .final 0x0105 [])) ∧
  (∀ (s : State) (w : Waiter) (f : Option Bytes) (l : Bytes) (x : Model), s.modelOf (leAt l 0 2) = some x → ownerOk w.parcel x.owner = true → imageOf f = none → 
    s.doFetch w f l = (s, .final 0x0302 [])) ∧
  (∀ (s : State) (w : Waiter) (f : Option Bytes) (l : Bytes) (x : Model) (y : Image) (st : Nat), s.modelOf (leAt l 0 2) = some x → ownerOk w.parcel x.owner = true → imageOf f = some y → s.imageStatus f 0 x.owner (leAt (l.drop 8) 4 2) (leAt (l.drop 8) 0 1) (x.reg' 0 8) true x.tableRecs = st → st ≠ 0 → 
    s.doFetch w f l = (s, .final st [])) ∧
  (∀ (s : State) (w : Waiter) (f : Option Bytes) (l : Bytes) (x : Model) (y : Image), s.modelOf (leAt l 0 2) = some x → ownerOk w.parcel x.owner = true → imageOf f = some y → s.imageStatus f 0 x.owner (leAt (l.drop 8) 4 2) (leAt (l.drop 8) 0 1) (x.reg' 0 8) true x.tableRecs = 0 → x.state = .registered → s.findBases x.owner (leAt y.manifest 0x30 8) (leAt y.manifest 0x38 8) = none → 
    s.doFetch w f l = (s, .final 0x0202 [])) ∧
  (∀ (s : State) (w : Waiter) (f : Option Bytes) (l : Bytes) (x : Model) (y : Image) (bs : List Nat) (q : Nat), s.modelOf (leAt l 0 2) = some x → ownerOk w.parcel x.owner = true → imageOf f = some y → s.imageStatus f 0 x.owner (leAt (l.drop 8) 4 2) (leAt (l.drop 8) 0 1) (x.reg' 0 8) true x.tableRecs = 0 → x.state = .registered → s.findBases x.owner (leAt y.manifest 0x30 8) (leAt y.manifest 0x38 8) = some (bs, q) → 
    s.doFetch w f l = ((s.allocModel (leAt l 0 2 % 256) x.owner (leAt y.manifest 0x30 8) (leAt y.manifest 0x38 8) bs q).startModel (leAt l 0 2 % 256) y (l.drop 8) w, .started [])) ∧
  (∀ (s : State) (w : Waiter) (f : Option Bytes) (l : Bytes) (x : Model) (y : Image), s.modelOf (leAt l 0 2) = some x → ownerOk w.parcel x.owner = true → imageOf f = some y → s.imageStatus f 0 x.owner (leAt (l.drop 8) 4 2) (leAt (l.drop 8) 0 1) (x.reg' 0 8) true x.tableRecs = 0 → x.state ≠ .registered → manifestDigest y.manifest ≠ manifestDigest x.manifest → 
    s.doFetch w f l = (s, .final 0x0105 [])) ∧
  (∀ (s : State) (w : Waiter) (f : Option Bytes) (l : Bytes) (x : Model) (y : Image), s.modelOf (leAt l 0 2) = some x → ownerOk w.parcel x.owner = true → imageOf f = some y → s.imageStatus f 0 x.owner (leAt (l.drop 8) 4 2) (leAt (l.drop 8) 0 1) (x.reg' 0 8) true x.tableRecs = 0 → x.state = .removing → manifestDigest y.manifest = manifestDigest x.manifest → 
    s.doFetch w f l = (s, .final 0x0304 [])) ∧
  (∀ (s : State) (w : Waiter) (f : Option Bytes) (l : Bytes) (x : Model) (y : Image), s.modelOf (leAt l 0 2) = some x → ownerOk w.parcel x.owner = true → imageOf f = some y → s.imageStatus f 0 x.owner (leAt (l.drop 8) 4 2) (leAt (l.drop 8) 0 1) (x.reg' 0 8) true x.tableRecs = 0 → x.state = .loading → manifestDigest y.manifest = manifestDigest x.manifest → (x.fetch.any (fun j => j.waiter.isSome)) = true → 
    s.doFetch w f l = (s, .wait (modelKeyOf (leAt l 0 2 % 256)))) ∧
  (∀ (s : State) (w : Waiter) (f : Option Bytes) (l : Bytes) (x : Model) (y : Image), s.modelOf (leAt l 0 2) = some x → ownerOk w.parcel x.owner = true → imageOf f = some y → s.imageStatus f 0 x.owner (leAt (l.drop 8) 4 2) (leAt (l.drop 8) 0 1) (x.reg' 0 8) true x.tableRecs = 0 → x.state = .loading → manifestDigest y.manifest = manifestDigest x.manifest → (x.fetch.any (fun j => j.waiter.isSome)) = false → 
    s.doFetch w f l = (s.startModel (leAt l 0 2 % 256) y (l.drop 8) w, .started [])) ∧
  (∀ (s : State) (w : Waiter) (f : Option Bytes) (l : Bytes) (x : Model) (y : Image), s.modelOf (leAt l 0 2) = some x → ownerOk w.parcel x.owner = true → imageOf f = some y → s.imageStatus f 0 x.owner (leAt (l.drop 8) 4 2) (leAt (l.drop 8) 0 1) (x.reg' 0 8) true x.tableRecs = 0 → x.state ≠ .registered → x.state ≠ .removing → x.state ≠ .loading → manifestDigest y.manifest = manifestDigest x.manifest → 
    s.doFetch w f l = (s, .ended 0 [])) ∧
  (∀ (s : State) (w : Waiter) (l : Bytes), s.modelOf (leAt l 0 2) = none → 
    s.doFill w l = (s, .final 0x0304 [])) ∧
  (∀ (s : State) (w : Waiter) (l : Bytes) (x : Model), s.modelOf (leAt l 0 2) = some x → x.allows w.parcel = false → 
    s.doFill w l = (s, .final 0x0105 [])) ∧
  (∀ (s : State) (w : Waiter) (l : Bytes) (x : Model), s.modelOf (leAt l 0 2) = some x → x.allows w.parcel = true → x.state = .filled → 
    s.doFill w l = (s, .ended 0 [])) ∧
  (∀ (s : State) (w : Waiter) (l : Bytes) (x : Model), s.modelOf (leAt l 0 2) = some x → x.allows w.parcel = true → x.state = .filling → 
    s.doFill w l = (s.updModel (leAt l 0 2) (fun y => { y with fills := y.fills ++ [w] }), .started [])) ∧
  (∀ (s : State) (w : Waiter) (l : Bytes) (x : Model), s.modelOf (leAt l 0 2) = some x → x.allows w.parcel = true → x.state = .evicting → 
    s.doFill w l = (s, .wait (modelKeyOf (leAt l 0 2 % 256)))) ∧
  (∀ (s : State) (w : Waiter) (l : Bytes) (x : Model), s.modelOf (leAt l 0 2) = some x → x.allows w.parcel = true → x.state = .ready → s.blocksOk x = true → 
    s.doFill w l = ((s.wantFill (leAt l 0 2)).updModel (leAt l 0 2) (fun y => { y with fills := y.fills ++ [w] }), .started [])) ∧
  (∀ (s : State) (w : Waiter) (l : Bytes) (x : Model), s.modelOf (leAt l 0 2) = some x → x.allows w.parcel = true → x.state = .ready → s.blocksOk x = false → 
    s.doFill w l = (s, .final 0x0202 [])) ∧
  (∀ (s : State) (w : Waiter) (l : Bytes) (x : Model), s.modelOf (leAt l 0 2) = some x → x.allows w.parcel = true → x.state = .free ∨ x.state = .registered ∨ x.state = .loading ∨ x.state = .removing → 
    s.doFill w l = (s, .final 0x0304 [])) ∧
  (∀ (s : State) (w : Waiter) (l : Bytes), s.modelOf (leAt l 0 2) = none → 
    s.doEvict w l = (s, .final 0x0304 [])) ∧
  (∀ (s : State) (w : Waiter) (l : Bytes) (x : Model), s.modelOf (leAt l 0 2) = some x → ownerOk w.parcel x.owner = false ∨ (leAt l 2 1 = 1 ∧ (s.adapters.any (fun (z : Nat × Adapter) => z.2.used && z.2.model == leAt l 0 2)) = true) → 
    s.doEvict w l = (s, .final 0x0105 [])) ∧
  (∀ (s : State) (w : Waiter) (l : Bytes) (x : Model), s.modelOf (leAt l 0 2) = some x → ownerOk w.parcel x.owner = true → leAt l 2 1 ≠ 1 ∨ (s.adapters.any (fun (z : Nat × Adapter) => z.2.used && z.2.model == leAt l 0 2)) = false → x.state = .filling → 
    s.doEvict w l = (s, .wait (modelKeyOf (leAt l 0 2 % 256)))) ∧
  (∀ (s : State) (w : Waiter) (l : Bytes) (x : Model), s.modelOf (leAt l 0 2) = some x → ownerOk w.parcel x.owner = true → leAt l 2 1 ≠ 1 ∨ (s.adapters.any (fun (z : Nat × Adapter) => z.2.used && z.2.model == leAt l 0 2)) = false → leAt l 2 1 = 1 → x.state = .evicting ∨ x.state = .removing ∨ (x.state ≠ .filling ∧ (x.fetch.any (fun j => j.waiter.isSome)) = true) → 
    s.doEvict w l = (s, .wait (modelKeyOf (leAt l 0 2 % 256)))) ∧
  (∀ (s : State) (w : Waiter) (l : Bytes) (x : Model), s.modelOf (leAt l 0 2) = some x → ownerOk w.parcel x.owner = true → leAt l 2 1 ≠ 1 ∨ (s.adapters.any (fun (z : Nat × Adapter) => z.2.used && z.2.model == leAt l 0 2)) = false → leAt l 2 1 = 1 → x.state ≠ .filling → x.state ≠ .evicting → x.state ≠ .removing → (x.fetch.any (fun j => j.waiter.isSome)) = false → 
    s.doEvict w l = ((s.evictModel (leAt l 0 2 % 256) true (some w)).settle, .started [])) ∧
  (∀ (s : State) (w : Waiter) (l : Bytes) (x : Model), s.modelOf (leAt l 0 2) = some x → ownerOk w.parcel x.owner = true → leAt l 2 1 ≠ 1 → x.state = .filled → 
    s.doEvict w l = ((s.evictModel (leAt l 0 2 % 256) false (some w)).settle, .started [])) ∧
  (∀ (s : State) (w : Waiter) (l : Bytes) (x : Model), s.modelOf (leAt l 0 2) = some x → ownerOk w.parcel x.owner = true → leAt l 2 1 ≠ 1 → x.state ≠ .filled → x.state ≠ .filling → 
    s.doEvict w l = (s, .ended 0 [])) ∧
  (∀ (s : State) (w : Waiter) (f : Option Bytes) (l : Bytes), s.modelOf (leAt l 0 2) = none → 
    s.doAdapterLoad w f l = (s, .final 0x0304 [])) ∧
  (∀ (s : State) (w : Waiter) (f : Option Bytes) (l : Bytes) (x : Model), s.modelOf (leAt l 0 2) = some x → w.parcel ≠ x.owner → w.parcel ∉ x.grants → 
    s.doAdapterLoad w f l = (s, .final 0x0105 [])) ∧
  (∀ (s : State) (w : Waiter) (f : Option Bytes) (l : Bytes) (x : Model), s.modelOf (leAt l 0 2) = some x → w.parcel = x.owner ∨ w.parcel ∈ x.grants → (List.range 4096).find? (fun i => !(s.adapter i).used && decide ((s.adapter i).freeAt ≤ s.now)) = none → 
    s.doAdapterLoad w f l = (s, .final 0x0202 [])) ∧
  (∀ (s : State) (w : Waiter) (f : Option Bytes) (l : Bytes) (x : Model) (i : Nat), s.modelOf (leAt l 0 2) = some x → w.parcel = x.owner ∨ w.parcel ∈ x.grants → (List.range 4096).find? (fun i => !(s.adapter i).used && decide ((s.adapter i).freeAt ≤ s.now)) = some i → imageOf f = none → 
    s.doAdapterLoad w f l = (s, .final 0x0302 [])) ∧
  (∀ (s : State) (w : Waiter) (f : Option Bytes) (l : Bytes) (x : Model) (i : Nat) (y : Image), s.modelOf (leAt l 0 2) = some x → w.parcel = x.owner ∨ w.parcel ∈ x.grants → (List.range 4096).find? (fun i => !(s.adapter i).used && decide ((s.adapter i).freeAt ≤ s.now)) = some i → imageOf f = some y → w.parcel ≠ 0 → (s.parcel w.parcel).qAdapters ≤ (s.adapters.filter (fun (z : Nat × Adapter) => z.2.used && z.2.owner == w.parcel)).length → 
    s.doAdapterLoad w f l = (s, .final 0x0202 [])) ∧
  (∀ (s : State) (w : Waiter) (f : Option Bytes) (l : Bytes) (x : Model) (i : Nat) (y : Image) (st : Nat), s.modelOf (leAt l 0 2) = some x → w.parcel = x.owner ∨ w.parcel ∈ x.grants → (List.range 4096).find? (fun i => !(s.adapter i).used && decide ((s.adapter i).freeAt ≤ s.now)) = some i → imageOf f = some y → w.parcel = 0 ∨ (s.adapters.filter (fun (z : Nat × Adapter) => z.2.used && z.2.owner == w.parcel)).length < (s.parcel w.parcel).qAdapters → s.imageStatus f 1 w.parcel (leAt (l.drop 8) 4 2) (leAt (l.drop 8) 0 1) (x.reg' 0 8) x.serves [] = st → st ≠ 0 → 
    s.doAdapterLoad w f l = (s, .final st [])) ∧
  (∀ (s : State) (w : Waiter) (f : Option Bytes) (l : Bytes) (x : Model) (i : Nat) (y : Image), s.modelOf (leAt l 0 2) = some x → w.parcel = x.owner ∨ w.parcel ∈ x.grants → (List.range 4096).find? (fun i => !(s.adapter i).used && decide ((s.adapter i).freeAt ≤ s.now)) = some i → imageOf f = some y → w.parcel = 0 ∨ (s.adapters.filter (fun (z : Nat × Adapter) => z.2.used && z.2.owner == w.parcel)).length < (s.parcel w.parcel).qAdapters → s.imageStatus f 1 w.parcel (leAt (l.drop 8) 4 2) (leAt (l.drop 8) 0 1) (x.reg' 0 8) x.serves [] = 0 → s.findVersion w.parcel (leAt y.manifest 0x30 8) = none → 
    s.doAdapterLoad w f l = (s, .final 0x0202 [])) ∧
  (∀ (s : State) (w : Waiter) (f : Option Bytes) (l : Bytes) (x : Model) (i : Nat) (y : Image) (base : Nat), s.modelOf (leAt l 0 2) = some x → w.parcel = x.owner ∨ w.parcel ∈ x.grants → (List.range 4096).find? (fun i => !(s.adapter i).used && decide ((s.adapter i).freeAt ≤ s.now)) = some i → imageOf f = some y → w.parcel = 0 ∨ (s.adapters.filter (fun (z : Nat × Adapter) => z.2.used && z.2.owner == w.parcel)).length < (s.parcel w.parcel).qAdapters → s.imageStatus f 1 w.parcel (leAt (l.drop 8) 4 2) (leAt (l.drop 8) 0 1) (x.reg' 0 8) x.serves [] = 0 → s.findVersion w.parcel (leAt y.manifest 0x30 8) = some base → 
    s.doAdapterLoad w f l = ((s.updAdapter i (fun z => { Adapter.reset with gen := z.gen, used := true, model := leAt l 0 2, owner := w.parcel })).startVersion i 1 w.parcel y (l.drop 8)
      { w with obj := i + (s.adapter i).gen * 2 ^ 24 } base, .started (toLe 4 (i + (s.adapter i).gen * 2 ^ 24)))) ∧
  (∀ (s : State) (w : Waiter) (f : Option Bytes) (l : Bytes), s.adapterOf (leAt l 0 4) = none → 
    s.doAdapterReplace w f l = (s, .final 0x0305 [])) ∧
  (∀ (s : State) (w : Waiter) (f : Option Bytes) (l : Bytes) (z : Adapter), s.adapterOf (leAt l 0 4) = some z → ownerOk w.parcel z.owner = false → 
    s.doAdapterReplace w f l = (s, .final 0x0105 [])) ∧
  (∀ (s : State) (w : Waiter) (f : Option Bytes) (l : Bytes) (z : Adapter), s.adapterOf (leAt l 0 4) = some z → ownerOk w.parcel z.owner = true → z.withdrawing = true → 
    s.doAdapterReplace w f l = (s, .final 0x0305 [])) ∧
  (∀ (s : State) (w : Waiter) (f : Option Bytes) (l : Bytes) (z : Adapter), s.adapterOf (leAt l 0 4) = some z → ownerOk w.parcel z.owner = true → z.withdrawing = false → z.loading = true → 
    s.doAdapterReplace w f l = (s, .wait (adapterKeyOf (leAt l 0 4 % 4096)))) ∧
  (∀ (s : State) (w : Waiter) (f : Option Bytes) (l : Bytes) (z : Adapter), s.adapterOf (leAt l 0 4) = some z → ownerOk w.parcel z.owner = true → z.withdrawing = false → z.loading = false → 65535 ≤ z.highest ∨ 4 ≤ z.versions.length → 
    s.doAdapterReplace w f l = (s, .final 0x0202 [])) ∧
  (∀ (s : State) (w : Waiter) (f : Option Bytes) (l : Bytes) (z : Adapter), s.adapterOf (leAt l 0 4) = some z → ownerOk w.parcel z.owner = true → z.withdrawing = false → z.loading = false → z.highest < 65535 → z.versions.length < 4 → imageOf f = none → 
    s.doAdapterReplace w f l = (s, .final 0x0302 [])) ∧
  (∀ (s : State) (w : Waiter) (f : Option Bytes) (l : Bytes) (z : Adapter) (y : Image) (st : Nat), s.adapterOf (leAt l 0 4) = some z → ownerOk w.parcel z.owner = true → z.withdrawing = false → z.loading = false → z.highest < 65535 → z.versions.length < 4 → imageOf f = some y → s.imageStatus f 1 z.owner (leAt (l.drop 8) 4 2) (leAt (l.drop 8) 0 1) ((s.modelOf z.model).elim 0 (fun x => x.reg' 0 8)) ((s.modelOf z.model).any Model.serves) [] = st → st ≠ 0 → 
    s.doAdapterReplace w f l = (s, .final st [])) ∧
  (∀ (s : State) (w : Waiter) (f : Option Bytes) (l : Bytes) (z : Adapter) (y : Image), s.adapterOf (leAt l 0 4) = some z → ownerOk w.parcel z.owner = true → z.withdrawing = false → z.loading = false → z.highest < 65535 → z.versions.length < 4 → imageOf f = some y → s.imageStatus f 1 z.owner (leAt (l.drop 8) 4 2) (leAt (l.drop 8) 0 1) ((s.modelOf z.model).elim 0 (fun x => x.reg' 0 8)) ((s.modelOf z.model).any Model.serves) [] = 0 → s.findVersion z.owner (leAt y.manifest 0x30 8) = none → 
    s.doAdapterReplace w f l = (s, .final 0x0202 [])) ∧
  (∀ (s : State) (w : Waiter) (f : Option Bytes) (l : Bytes) (z : Adapter) (y : Image) (base : Nat), s.adapterOf (leAt l 0 4) = some z → ownerOk w.parcel z.owner = true → z.withdrawing = false → z.loading = false → z.highest < 65535 → z.versions.length < 4 → imageOf f = some y → s.imageStatus f 1 z.owner (leAt (l.drop 8) 4 2) (leAt (l.drop 8) 0 1) ((s.modelOf z.model).elim 0 (fun x => x.reg' 0 8)) ((s.modelOf z.model).any Model.serves) [] = 0 → s.findVersion z.owner (leAt y.manifest 0x30 8) = some base → 
    s.doAdapterReplace w f l = (s.startVersion (leAt l 0 4 % 4096) (z.highest + 1) z.owner y (l.drop 8) w base, .started (toLe 2 (z.highest + 1)))) ∧
  (∀ (s : State) (w : Waiter) (l : Bytes), s.adapterOf (leAt l 0 4) = none → 
    s.doWithdraw w l = (s, .final 0x0305 [])) ∧
  (∀ (s : State) (w : Waiter) (l : Bytes) (z : Adapter), s.adapterOf (leAt l 0 4) = some z → ownerOk w.parcel z.owner = false → 
    s.doWithdraw w l = (s, .final 0x0105 [])) ∧
  (∀ (s : State) (w : Waiter) (l : Bytes) (z : Adapter), s.adapterOf (leAt l 0 4) = some z → ownerOk w.parcel z.owner = true → z.loading = true ∨ z.withdrawing = true → 
    s.doWithdraw w l = (s, .wait (adapterKeyOf (leAt l 0 4 % 4096)))) ∧
  (∀ (s : State) (w : Waiter) (l : Bytes) (z : Adapter), s.adapterOf (leAt l 0 4) = some z → ownerOk w.parcel z.owner = true → z.loading = false → z.withdrawing = false → 
    s.doWithdraw w l = ((if bitB (leAt l 4 1) 0 then (s.retireAdapter (leAt l 0 4 % 4096) (some w)).withdrawReqs (leAt l 0 4)
      else s.retireAdapter (leAt l 0 4 % 4096) (some w)).settle, .started [])) ∧
  (∀ (s : State) (w : Waiter) (f : Option Bytes) (l : Bytes), s.modelOf (leAt l 0 2) = none → 
    s.doPlatLoad w f l = (s, .final 0x0304 [])) ∧
  (∀ (s : State) (w : Waiter) (f : Option Bytes) (l : Bytes) (x : Model), s.modelOf (leAt l 0 2) = some x → ownerOk w.parcel x.owner = false → 
    s.doPlatLoad w f l = (s, .final 0x0105 [])) ∧
  (∀ (s : State) (w : Waiter) (f : Option Bytes) (l : Bytes) (x : Model), s.modelOf (leAt l 0 2) = some x → ownerOk w.parcel x.owner = true → f = none → 
    s.doPlatLoad w f l = (s, .ended 0x0302 [])) ∧
  (∀ (s : State) (w : Waiter) (f : Option Bytes) (l : Bytes) (x : Model) (y : Bytes) (st : Nat), s.modelOf (leAt l 0 2) = some x → ownerOk w.parcel x.owner = true → f = some y → s.platLoadStatus y (s.signKey x.owner).1 (s.signKey x.owner).2 (x.reg' 0 8) x.serials x.member = st → 
    s.doPlatLoad w f l = (if st = 0 then s.updModel (leAt l 0 2) (fun z => { z with plats := SMap.set [] z.plats (leAt l 2 1) y }) else s, .ended st [])) ∧
  (∀ (s : State) (i : Nat), s.freeEntry = some i → i < 256 ∧ (s.entry i).state = .free ∧ (∀ j, j < i → (s.entry j).state ≠ .free ∨ s.now < (s.entry j).freeAt))

/-- Prefixes are pinned and unpinned, rings made and destroyed, statistics, counters and the field book read, and SPDM
answered. With every check passed: PREFIX_PIN of a request's positions within its POS takes the first free prefix,
pinned, its full pages shared and a partial one copied, and answers its handle; PREFIX_UNPIN of a prefix with
references clears the pin, of one without frees it. RING_CREATE makes a ring when nothing stands against it;
RING_DESTROY of an enabled ring of its owner begins. An object of another parcel answers 0x0105, a request or prefix
that is not there 0x0104 or 0x0306, a quota or no room 0x0202. STATS_READ answers the part asked for of a record;
COUNTERS_READ reads the words of the parcel, and refuses the registers of the module to a parcel other than 0;
FIELDBOOK_READ answers from the ring of records. SPDM goes through its stages and answers an error out of order; a
signed answer waits for its signature, at most two (the layouts of SPDM are presumed, log entry 44). (R285, R300,
R301, R367, R371, R372, R373, R434, R475, R477, 13_edush_interface.md Tables 13-3, 13-5 and 13-9.) -/
def Obligations.EdushServingRequestsHaveTheirEffect : Prop :=
  (∀ (m : Mail) (s a : State), passes s ⟨0x38, m⟩ → accepted s ⟨0x38, m⟩ = a → 
    exec (.prefixPin m) s = answered s ⟨0x38, m⟩ (a.doPin (EdReq.waiter ⟨0x38, m⟩) m.payload).1 (a.doPin (EdReq.waiter ⟨0x38, m⟩) m.payload).2) ∧
  (∀ (m : Mail) (s a : State), passes s ⟨0x39, m⟩ → accepted s ⟨0x39, m⟩ = a → 
    exec (.prefixUnpin m) s = answered s ⟨0x39, m⟩ (a.doUnpin (EdReq.waiter ⟨0x39, m⟩) m.payload).1 (a.doUnpin (EdReq.waiter ⟨0x39, m⟩) m.payload).2) ∧
  (∀ (m : Mail) (s a : State), passes s ⟨0x40, m⟩ → accepted s ⟨0x40, m⟩ = a → 
    exec (.ringCreate m) s = answered s ⟨0x40, m⟩ (a.doRing m.parcel.toNat m.payload).1 (a.doRing m.parcel.toNat m.payload).2) ∧
  (∀ (m : Mail) (s a : State), passes s ⟨0x41, m⟩ → accepted s ⟨0x41, m⟩ = a → 
    exec (.ringDestroy m) s = answered s ⟨0x41, m⟩ (a.doRingDestroy (EdReq.waiter ⟨0x41, m⟩) m.payload).1 (a.doRingDestroy (EdReq.waiter ⟨0x41, m⟩) m.payload).2) ∧
  (∀ (m : Mail) (s a : State), passes s ⟨0x50, m⟩ → accepted s ⟨0x50, m⟩ = a → 
    exec (.statsRead m) s = answered s ⟨0x50, m⟩ ((a, Ans.final (a.stats m.parcel.toNat m.payload).1 (a.stats m.parcel.toNat m.payload).2)).1 ((a, Ans.final (a.stats m.parcel.toNat m.payload).1 (a.stats m.parcel.toNat m.payload).2)).2) ∧
  (∀ (m : Mail) (s a : State), passes s ⟨0x51, m⟩ → accepted s ⟨0x51, m⟩ = a → 
    exec (.countersRead m) s = answered s ⟨0x51, m⟩ (((a.counters m.parcel.toNat m.payload).1, Ans.final (a.counters m.parcel.toNat m.payload).2.1 (a.counters m.parcel.toNat m.payload).2.2)).1 (((a.counters m.parcel.toNat m.payload).1, Ans.final (a.counters m.parcel.toNat m.payload).2.1 (a.counters m.parcel.toNat m.payload).2.2)).2) ∧
  (∀ (m : Mail) (s a : State), passes s ⟨0x52, m⟩ → accepted s ⟨0x52, m⟩ = a → 
    exec (.fieldbookRead m) s = answered s ⟨0x52, m⟩ ((a, Ans.final 0 (a.book.answer m.payload))).1 ((a, Ans.final 0 (a.book.answer m.payload))).2) ∧
  (∀ (m : Mail) (s a : State), passes s ⟨0x90, m⟩ → accepted s ⟨0x90, m⟩ = a → 
    exec (.spdmMessage m) s = answered s ⟨0x90, m⟩ (a.doSpdm ⟨0x90, m⟩ m.parcel.toNat m.payload).1 (a.doSpdm ⟨0x90, m⟩ m.parcel.toNat m.payload).2) ∧
  (∀ (s : State) (w : Waiter) (l : Bytes), s.req (leAt l 0 4) = none ∨ (∃ r, s.req (leAt l 0 4) = some r ∧ r.home ≠ 0) → 
    s.doPin w l = (s, .final 0x0104 [])) ∧
  (∀ (s : State) (w : Waiter) (l : Bytes) (r : Req), s.req (leAt l 0 4) = some r → r.home = 0 → ownerOk w.parcel r.parcel = false → 
    s.doPin w l = (s, .final 0x0105 [])) ∧
  (∀ (s : State) (w : Waiter) (l : Bytes) (r : Req), s.req (leAt l 0 4) = some r → r.home = 0 → ownerOk w.parcel r.parcel = true → r.mayPin (leAt l 4 4) = false → 
    s.doPin w l = (s, .final 0x0102 [])) ∧
  (∀ (s : State) (w : Waiter) (l : Bytes) (r : Req), s.req (leAt l 0 4) = some r → r.home = 0 → ownerOk w.parcel r.parcel = true → r.mayPin (leAt l 4 4) = true → s.modelOf r.model = none → 
    s.doPin w l = (s, .final 0x0304 [])) ∧
  (∀ (s : State) (w : Waiter) (l : Bytes) (r : Req) (x : Model), s.req (leAt l 0 4) = some r → r.home = 0 → ownerOk w.parcel r.parcel = true → r.mayPin (leAt l 4 4) = true → s.modelOf r.model = some x → s.freePrefix = none ∨ (s.parcel r.parcel).qRes * mib2 < s.resUsed r.parcel + x.pinLen (leAt l 4 4) ∨ s.pinBase r (x.pinLen (leAt l 4 4)) = none → 
    s.doPin w l = (s, .final 0x0202 [])) ∧
  (∀ (s : State) (w : Waiter) (l : Bytes) (r : Req) (x : Model) (i base : Nat), s.req (leAt l 0 4) = some r → r.home = 0 → ownerOk w.parcel r.parcel = true → r.mayPin (leAt l 4 4) = true → s.modelOf r.model = some x → s.freePrefix = some i → s.resUsed r.parcel + x.pinLen (leAt l 4 4) ≤ (s.parcel r.parcel).qRes * mib2 → s.pinBase r (x.pinLen (leAt l 4 4)) = some base → 
    s.doPin w l = (s.makePrefix x r i (leAt l 4 4) base, .final 0 (toLe 8 (i + r.parcel * 2 ^ 46 + (s.prefixAt i).gen * 2 ^ 56)))) ∧
  (∀ (s : State) (x : Model) (r : Req) (i n base : Nat), ∃ y, (s.makePrefix x r i n base).prefixAt i = y ∧ y.used = true ∧ y.pinned = true ∧ y.refs = 0 ∧ y.len = n ∧
    y.parcel = r.parcel ∧ y.model = r.model ∧ y.adapter = r.adapter ∧ y.aver = r.aver ∧ y.gen = (s.prefixAt i).gen ∧
    (∀ k, k < x.groups * (n / 64) → y.pages.getD k 0 = s.pageKey x r k) ∧ (∀ j, j ≠ i → (s.makePrefix x r i n base).prefixAt j = s.prefixAt j)) ∧
  (∀ (s : State) (w : Waiter) (l : Bytes) (y : Prefix), s.prefixAt (leAt l 0 8 % 2 ^ 46) = y → y.used = false ∨ y.pinned = false ∨ y.gen ≠ leAt l 0 8 / 2 ^ 56 ∨ y.parcel ≠ leAt l 0 8 / 2 ^ 46 % 2 ^ 10 → 
    s.doUnpin w l = (s, .final 0x0306 [])) ∧
  (∀ (s : State) (w : Waiter) (l : Bytes) (y : Prefix), s.prefixAt (leAt l 0 8 % 2 ^ 46) = y → y.used = true → y.pinned = true → y.gen = leAt l 0 8 / 2 ^ 56 → y.parcel = leAt l 0 8 / 2 ^ 46 % 2 ^ 10 → ownerOk w.parcel y.parcel = false → 
    s.doUnpin w l = (s, .final 0x0105 [])) ∧
  (∀ (s : State) (w : Waiter) (l : Bytes) (y : Prefix), s.prefixAt (leAt l 0 8 % 2 ^ 46) = y → y.used = true → y.pinned = true → y.gen = leAt l 0 8 / 2 ^ 56 → y.parcel = leAt l 0 8 / 2 ^ 46 % 2 ^ 10 → ownerOk w.parcel y.parcel = true → y.refs = 0 → 
    s.doUnpin w l = ((s.updPrefix (leAt l 0 8 % 2 ^ 46) (fun x => { Prefix.reset with gen := nextGen x.gen, until' := s.now + quarantineNs })).collect, .final 0 [])) ∧
  (∀ (s : State) (w : Waiter) (l : Bytes) (y : Prefix), s.prefixAt (leAt l 0 8 % 2 ^ 46) = y → y.used = true → y.pinned = true → y.gen = leAt l 0 8 / 2 ^ 56 → y.parcel = leAt l 0 8 / 2 ^ 46 % 2 ^ 10 → ownerOk w.parcel y.parcel = true → y.refs ≠ 0 → 
    s.doUnpin w l = (s.updPrefix (leAt l 0 8 % 2 ^ 46) (fun x => { x with pinned := false }), .final 0 [])) ∧
  (∀ (s : State) (p : Nat) (l : Bytes), (s.ring (leAt l 0 1)).state = 2 → 
    s.doRing p l = (s, .wait (ringKeyOf (leAt l 0 1)))) ∧
  (∀ (s : State) (p : Nat) (l : Bytes), (s.ring (leAt l 0 1)).state ≠ 2 → (s.ring (leAt l 0 1)).state ≠ 0 ∨ ringsOverlap s (leAt l 4 4) (2 ^ leAt l 1 1) → 
    s.doRing p l = (s, .final 0x0105 [])) ∧
  (∀ (s : State) (p : Nat) (l : Bytes), (s.ring (leAt l 0 1)).state = 0 → ¬ ringsOverlap s (leAt l 4 4) (2 ^ leAt l 1 1) → 16384 < slotsHeld s + 2 ^ leAt l 1 1 ∨ (p ≠ 0 ∧ ((s.parcel p).qRings ≤ ringsOf s p ∨ (s.parcel p).qRes * mib2 < s.resUsed p + upMib (leAt l 8 4 * 2 ^ 20))) ∨
    s.findSpace 1 (leAt l 2 1) (upMib (leAt l 8 4 * 2 ^ 20)) = none → 
    s.doRing p l = (s, .final 0x0202 [])) ∧
  (∀ (s : State) (p : Nat) (l : Bytes) (base : Nat), (s.ring (leAt l 0 1)).state = 0 → ¬ ringsOverlap s (leAt l 4 4) (2 ^ leAt l 1 1) → slotsHeld s + 2 ^ leAt l 1 1 ≤ 16384 → p = 0 ∨ (ringsOf s p < (s.parcel p).qRings ∧ s.resUsed p + upMib (leAt l 8 4 * 2 ^ 20) ≤ (s.parcel p).qRes * mib2) → s.findSpace 1 (leAt l 2 1) (upMib (leAt l 8 4 * 2 ^ 20)) = some base → 
    s.doRing p l = (s.makeRing p l (leAt l 0 1) base (leAt l 8 4 * 2 ^ 20), .final 0 s.ringBody)) ∧
  (∀ (s : State) (p i base len : Nat) (l : Bytes), ∃ r, (s.makeRing p l i base len).ring i = r ∧ r.state = 1 ∧ r.owner = p ∧ r.logSize = leAt l 1 1 ∧ r.logCpl = leAt l 3 1 ∧
    r.quad = leAt l 2 1 ∧ r.handleBase = leAt l 4 4 ∧ r.stageLen = len ∧ r.posted = 0 ∧ r.readIx = 0 ∧ r.written = 0 ∧ r.backlog = [] ∧
    (∀ j, j ≠ i → (s.makeRing p l i base len).ring j = s.ring j)) ∧
  (∀ (s : State) (w : Waiter) (l : Bytes), (s.ring (leAt l 0 1)).state ≠ 1 ∨ ownerOk w.parcel (s.ring (leAt l 0 1)).owner = false → 
    s.doRingDestroy w l = (s, .final 0x0105 [])) ∧
  (∀ (s : State) (w : Waiter) (l : Bytes), (s.ring (leAt l 0 1)).state = 1 → ownerOk w.parcel (s.ring (leAt l 0 1)).owner = true → 
    s.doRingDestroy w l = (s.destroyRing (leAt l 0 1) (some w), .started [])) ∧
  (∀ (s : State) (p : Nat) (l x : Bytes), s.statsRecord p (leAt l 0 2) (leAt l 2 2) = some x →
    s.stats p l = (0, toLe 4 x.length ++ toLe 4 (leAt l 4 4) ++ (x.drop (leAt l 4 4)).take (leAt l 8 2))) ∧
  (∀ (s : State) (p : Nat) (l : Bytes), s.statsRecord p (leAt l 0 2) (leAt l 2 2) = none → (s.stats p l).1 = 0x0105 ∧ (s.stats p l).2 = []) ∧
  (∀ (s : State) (p : Nat) (l : Bytes), (leAt l 0 1 = 2 → s.counters p l = ((readWords (State.parcelWord p) (leAt l 2 2) (leAt l 8 8) s).2, 0,
      (readWords (State.parcelWord p) (leAt l 2 2) (leAt l 8 8) s).1)) ∧ (leAt l 0 1 = 0 → p ≠ 0 → s.counters p l = (s, 0x0105, []))) ∧
  (∀ (s : State) (r : EdReq) (p : Nat) (l : Bytes), leAt l 1 1 = 0x84 → 
    s.doSpdm r p l = (s.updSec (fun x => { x with spdm := SMap.set ⟨0⟩ x.spdm p ⟨1⟩ }), .final 0 ([0x10, 0x04, 0, 0, 0, 1] ++ toLe 2 0x1200))) ∧
  (∀ (s : State) (r : EdReq) (p : Nat) (l : Bytes), leAt l 1 1 ≠ 0x84 → leAt l 0 1 ≠ 0x12 ∨ leAt l 1 1 ∉ ([0x81, 0x82, 0x83, 0xE0, 0xE1, 0xE3] : List Nat) → 
    s.doSpdm r p l = (s, .final 0 (spdmError 7 (leAt l 1 1)))) ∧
  (∀ (s : State) (r : EdReq) (p : Nat) (l : Bytes), leAt l 0 1 = 0x12 → (leAt l 1 1 = 0xE1 ∧ (SMap.get (⟨0⟩ : Spdm) s.sec.spdm p).stage ≠ 1) ∨ (leAt l 1 1 = 0xE3 ∧ (SMap.get (⟨0⟩ : Spdm) s.sec.spdm p).stage ≠ 2) ∨ (leAt l 1 1 ∈ ([0x81, 0x82, 0x83, 0xE0] : List Nat) ∧ (SMap.get (⟨0⟩ : Spdm) s.sec.spdm p).stage ≠ 3) → 
    s.doSpdm r p l = (s, .final 0 (spdmError 4 0))) ∧
  (∀ (s : State) (r : EdReq) (p : Nat) (l : Bytes), leAt l 0 1 = 0x12 → leAt l 1 1 = 0xE1 → (SMap.get (⟨0⟩ : Spdm) s.sec.spdm p).stage = 1 → 
    s.doSpdm r p l = (s.updSec (fun x => { x with spdm := SMap.set ⟨0⟩ x.spdm p ⟨2⟩ }), .final 0 ([0x12, 0x61, 0, 0, 0, 10, 0, 0] ++ toLe 4 0x36 ++ toLe 4 8128 ++ toLe 4 8128))) ∧
  (∀ (s : State) (r : EdReq) (p : Nat) (l : Bytes), leAt l 0 1 = 0x12 → leAt l 1 1 = 0xE3 → (SMap.get (⟨0⟩ : Spdm) s.sec.spdm p).stage = 2 → spdmAlgOk l = true → 
    s.doSpdm r p l = (s.updSec (fun x => { x with spdm := SMap.set ⟨0⟩ x.spdm p ⟨3⟩ }), .final 0 ([0x12, 0x63, 0, 0] ++ toLe 2 36 ++ [1, 0] ++ toLe 4 8 ++ toLe 4 0x20 ++ toLe 4 4 ++ zeros 16))) ∧
  (∀ (s : State) (r : EdReq) (p : Nat) (l : Bytes), leAt l 0 1 = 0x12 → leAt l 1 1 ∈ ([0x81, 0x82, 0x83, 0xE0] : List Nat) → (SMap.get (⟨0⟩ : Spdm) s.sec.spdm p).stage = 3 → 
    s.doSpdm r p l = ((s.spdmServe r l).1, (s.spdmServe r l).2)) ∧
  (∀ (s : State) (r : EdReq) (body : Bytes), (2 ≤ s.sec.signs.length → s.sign r body = (s.secEvent 4, .final 0 (spdmError 3 0))) ∧
    (s.sec.signs.length < 2 → (s.sign r body).2 = .later ∧ (s.sign r body).1.sec = { s.sec with signs := s.sec.signs ++ [⟨r, body⟩] }))

/-- Plans, caps, power states, network records, keys, quadrants, recalibration and firmware are set by their requests.
With every check passed: TOPOLOGY_PLAN_SET takes the plan and begins discovery; TOPOLOGY_READ answers what was found;
LINK_RETRAIN joins its queue and starts when no other runs; POWER_CAP_SET sets the cap and answers it; STATE_SET of
another state begins the drain, or waits for a hold; network records are written and committed; the key of parcel 0 is
installed once, where it decrypts to 64 bytes under the identity key, and replaced under its own; a quadrant is taken
out while another remains, tested and returned; HBM_RECAL joins its queue; FW_STAGE waits for its image, one that
arrives with the policy magic is handled at once; FW_ACTIVATE of a valid bank begins with the first core that can go,
of an invalid one it ends with 0x0303. Each waits behind an operation of its object that runs, and answers 0x0105
where the state forbids it. (R353, R374, R390, R413, R444, R452, R470, R471, R474, R482, R483, 13_edush_interface.md
Tables 13-3, 13-5, 13-11 and 13-12.) -/
def Obligations.EdushModuleRequestsHaveTheirEffect : Prop :=
  (∀ (m : Mail) (s a : State), passes s ⟨0x60, m⟩ → accepted s ⟨0x60, m⟩ = a → 
    exec (.topologyPlanSet m) s = answered s ⟨0x60, m⟩ (a.doPlan (EdReq.waiter ⟨0x60, m⟩) m.payload).1 (a.doPlan (EdReq.waiter ⟨0x60, m⟩) m.payload).2) ∧
  (∀ (m : Mail) (s a : State), passes s ⟨0x61, m⟩ → accepted s ⟨0x61, m⟩ = a → 
    exec (.topologyRead m) s = answered s ⟨0x61, m⟩ ((a, Ans.final 0 a.topology)).1 ((a, Ans.final 0 a.topology)).2) ∧
  (∀ (m : Mail) (s a : State), passes s ⟨0x62, m⟩ → accepted s ⟨0x62, m⟩ = a → 
    exec (.linkRetrain m) s = answered s ⟨0x62, m⟩ (a.doRetrain (EdReq.waiter ⟨0x62, m⟩) m.payload).1 (a.doRetrain (EdReq.waiter ⟨0x62, m⟩) m.payload).2) ∧
  (∀ (m : Mail) (s a : State), passes s ⟨0x70, m⟩ → accepted s ⟨0x70, m⟩ = a → 
    exec (.powerCapSet m) s = answered s ⟨0x70, m⟩ (a.doCap m.payload).1 (a.doCap m.payload).2) ∧
  (∀ (m : Mail) (s a : State), passes s ⟨0x71, m⟩ → accepted s ⟨0x71, m⟩ = a → leAt m.payload 0 1 = 0 → 
    exec (.stateSet m) s = answered s ⟨0x71, m⟩ (a.doState (EdReq.waiter ⟨0x71, m⟩) m.payload).1 (a.doState (EdReq.waiter ⟨0x71, m⟩) m.payload).2) ∧
  (∀ (m : Mail) (s a : State), passes s ⟨0x71, m⟩ → accepted s ⟨0x71, m⟩ = a → leAt m.payload 0 1 = 1 → 
    exec (.stateSetNetwork m) s = answered s ⟨0x71, m⟩ (a.doNetwork m.payload).1 (a.doNetwork m.payload).2) ∧
  (∀ (m : Mail) (s a : State), passes s ⟨0x71, m⟩ → accepted s ⟨0x71, m⟩ = a → leAt m.payload 0 1 = 2 → leAt m.payload 1 1 = 0 → 
    exec (.parcel0KeyInstall m) s = answered s ⟨0x71, m⟩ (a.doInstall (EdReq.waiter ⟨0x71, m⟩) m.payload).1 (a.doInstall (EdReq.waiter ⟨0x71, m⟩) m.payload).2) ∧
  (∀ (m : Mail) (s a : State), passes s ⟨0x71, m⟩ → accepted s ⟨0x71, m⟩ = a → leAt m.payload 0 1 = 2 → leAt m.payload 1 1 = 1 → 
    exec (.parcel0KeyReplace m) s = answered s ⟨0x71, m⟩ (a.doReplaceKey (EdReq.waiter ⟨0x71, m⟩) m.seq.toNat m.payload).1 (a.doReplaceKey (EdReq.waiter ⟨0x71, m⟩) m.seq.toNat m.payload).2) ∧
  (∀ (m : Mail) (s a : State), passes s ⟨0x78, m⟩ → accepted s ⟨0x78, m⟩ = a → leAt m.payload 1 1 = 0 → 
    exec (.quadrantTakeOut m) s = answered s ⟨0x78, m⟩ (a.doTakeOut (EdReq.waiter ⟨0x78, m⟩) (leAt m.payload 0 1)).1 (a.doTakeOut (EdReq.waiter ⟨0x78, m⟩) (leAt m.payload 0 1)).2) ∧
  (∀ (m : Mail) (s a : State), passes s ⟨0x78, m⟩ → accepted s ⟨0x78, m⟩ = a → leAt m.payload 1 1 = 1 → 
    exec (.quadrantRetest m) s = answered s ⟨0x78, m⟩ (a.doRetest (EdReq.waiter ⟨0x78, m⟩) (leAt m.payload 0 1)).1 (a.doRetest (EdReq.waiter ⟨0x78, m⟩) (leAt m.payload 0 1)).2) ∧
  (∀ (m : Mail) (s a : State), passes s ⟨0x78, m⟩ → accepted s ⟨0x78, m⟩ = a → leAt m.payload 1 1 = 2 → 
    exec (.quadrantReturn m) s = answered s ⟨0x78, m⟩ (a.doReturn (EdReq.waiter ⟨0x78, m⟩) (leAt m.payload 0 1)).1 (a.doReturn (EdReq.waiter ⟨0x78, m⟩) (leAt m.payload 0 1)).2) ∧
  (∀ (m : Mail) (s a : State), passes s ⟨0x79, m⟩ → accepted s ⟨0x79, m⟩ = a → 
    exec (.hbmRecal m) s = answered s ⟨0x79, m⟩ (a.doRecal (EdReq.waiter ⟨0x79, m⟩) m.payload).1 (a.doRecal (EdReq.waiter ⟨0x79, m⟩) m.payload).2) ∧
  (∀ (m : Mail) (s a : State), passes s ⟨0x80, m⟩ → accepted s ⟨0x80, m⟩ = a → 
    exec (.fwStage m) s = answered s ⟨0x80, m⟩ (a.doFwStage (EdReq.waiter ⟨0x80, m⟩) m.fetched m.payload).1 (a.doFwStage (EdReq.waiter ⟨0x80, m⟩) m.fetched m.payload).2) ∧
  (∀ (m : Mail) (s a : State), passes s ⟨0x80, m⟩ → accepted s ⟨0x80, m⟩ = a → 
    exec (.policyImageStage m) s = answered s ⟨0x80, m⟩ (a.doFwStage (EdReq.waiter ⟨0x80, m⟩) m.fetched m.payload).1 (a.doFwStage (EdReq.waiter ⟨0x80, m⟩) m.fetched m.payload).2) ∧
  (∀ (m : Mail) (s a : State), passes s ⟨0x81, m⟩ → accepted s ⟨0x81, m⟩ = a → 
    exec (.fwActivate m) s = answered s ⟨0x81, m⟩ (a.doActivate (EdReq.waiter ⟨0x81, m⟩)).1 (a.doActivate (EdReq.waiter ⟨0x81, m⟩)).2) ∧
  (∀ (s : State) (w : Waiter) (l : Bytes), s.fab.discovering = true → 
    s.doPlan w l = (s, .wait ⟨6, 0⟩)) ∧
  (∀ (s : State) (w : Waiter) (l : Bytes), s.fab.discovering = false → 
    s.doPlan w l = ((((s.updFab (fun f => { f with planId := leAt l 0 8, discovering := true, plan := planOf l })).planLinks.updPower
      (fun p => { p with planWait := some w })).wantCommit), .started [])) ∧
  (∀ (s : State) (i : Nat), i < 12 → (s.fport i).state = .quarantined → (∀ j, j < 12 → (s.fport j).state ≠ .up) → (s.planLinks.fport i).state = .ident) ∧
  (∀ (s : State) (w : Waiter) (l : Bytes), (s.power.trains.any (fun j => j.kind == leAt l 0 1 && j.index == leAt l 1 1)) = true ∨ (leAt l 0 1 = 0 ∧ (s.fport (leAt l 1 1)).state = .recover) → 
    s.doRetrain w l = (s, .wait ⟨5, leAt l 0 1 * 16 + leAt l 1 1⟩)) ∧
  (∀ (s : State) (w : Waiter) (l : Bytes), (s.power.trains.any (fun j => j.kind == leAt l 0 1 && j.index == leAt l 1 1)) = false → leAt l 0 1 ≠ 0 ∨ (s.fport (leAt l 1 1)).state ≠ .recover → 
    s.doRetrain w l = (s.addTrain ⟨leAt l 0 1, leAt l 1 1, w⟩, .started [])) ∧
  (∀ (s : State) (j : TrainJob), (s.power.trains.any (fun x => decide (x.kind < 3)) = true → s.addTrain j = s.updPower (fun p => { p with trains := p.trains ++ [j] })) ∧
    (s.power.trains.any (fun x => decide (x.kind < 3)) = false → s.addTrain j = (s.updPower (fun p => { p with trains := p.trains ++ [j] })).startTrain 1)) ∧
  (∀ (s : State) (l : Bytes), 
    s.doCap l = ((s.updPower (fun p => { p with cap := leAt l 0 4 })).wantCommit, .final 0 (toLe 4 (leAt l 0 4)))) ∧
  (∀ (s : State) (w : Waiter) (l : Bytes) (x : PwrMode), x = pwrModeOf (leAt l 1 1) → s.power.mode = .starting ∨ s.power.going ≠ none ∨ s.power.waits ≠ [] → 
    s.doState w l = (s, .wait ⟨7, 0⟩)) ∧
  (∀ (s : State) (w : Waiter) (l : Bytes) (x : PwrMode), x = pwrModeOf (leAt l 1 1) → s.power.mode ≠ .starting → s.power.going = none → s.power.waits = [] → s.power.mode = x → 
    s.doState w l = (s.updPower (fun p => { p with wanted := x, retain := leAt l 2 1 % 16 }), .ended 0 [])) ∧
  (∀ (s : State) (w : Waiter) (l : Bytes) (x : PwrMode), x = pwrModeOf (leAt l 1 1) → s.power.mode ≠ .starting → s.power.going = none → s.power.waits = [] → s.power.mode ≠ x → s.power.thermHold = true ∨ s.power.coolHold = true → 
    s.doState w l = (s.updPower (fun p => { p with wanted := x, retain := leAt l 2 1 % 16, waits := [⟨x, w⟩] }), .started [])) ∧
  (∀ (s : State) (w : Waiter) (l : Bytes) (x : PwrMode), x = pwrModeOf (leAt l 1 1) → s.power.mode ≠ .starting → s.power.going = none → s.power.waits = [] → s.power.mode ≠ x → s.power.thermHold = false → s.power.coolHold = false → 
    s.doState w l = (s.updPower (fun p => { p with wanted := x, retain := leAt l 2 1 % 16, going := some x, waits := [⟨x, w⟩] }), .started [])) ∧
  (∀ (s : State) (l : Bytes), (s.doNetwork l).2 = .ended 0 [] ∧ (s.doNetwork l).1.store.waiting = true ∧
    (s.doNetwork l).1.mail.udpPort = (if leAt l 2 2 = 0 then s.mail.udpPort else leAt l 2 2) ∧ (s.doNetwork l).1.mail.recs =
      (List.range (leAt l 1 1)).foldl (fun (m : SMap NetRec) i => SMap.set NetRec.clear m (leAt (slice l (8 + 48 * i) 48) 0 1) (netRecOf (slice l (8 + 48 * i) 48))) s.mail.recs) ∧
  (∀ (s : State) (w : Waiter) (l : Bytes) (o : Option Bytes), (s.box 0).key = none → (oaepDecrypt Config.identityN.toNat Config.identityD.toNat (slice l 8 512)).filter (fun k => k.length == 64) = o → 
    s.doInstall w l = (o.elim s (fun k => s.setKey0 k 0 w), if o.isSome then .started [] else .final 0x0303 [])) ∧
  (∀ (s : State) (w : Waiter) (l : Bytes) (k : Bytes), (s.box 0).key = some k → 
    s.doInstall w l = (s, .final 0x0105 [])) ∧
  (∀ (s : State) (w : Waiter) (l : Bytes) (k : Bytes) (seq : Nat), (s.box 0).key = some k → 
    s.doReplaceKey w seq l = (s.setKey0 (unwrapKey k (slice l 8 64) 0 seq) 1 w, .started [])) ∧
  (∀ (s : State) (w : Waiter) (l : Bytes) (seq : Nat), (s.box 0).key = none → 
    s.doReplaceKey w seq l = (s, .final 0x0105 [])) ∧
  (∀ (s : State) (k : Bytes) (mode : Nat) (w : Waiter), (s.setKey0 k mode w).sec = { s.sec with spdm := SMap.set ⟨0⟩ s.sec.spdm 0 ⟨0⟩, keyWaits := s.sec.keyWaits ++ [w] } ∧
    (s.setKey0 k mode w).box 0 = { s.box 0 with key := some k } ∧ (s.setKey0 k mode w).store.waiting = true ∧ (s.setKey0 k mode w).book.next = s.book.next + 1) ∧
  (∀ (s : State) (w : Waiter) (q : Nat), (s.power.jobs.any (fun j => j.quad == q)) = true → 
    s.doTakeOut w q = (s, .wait (quadKeyOf q))) ∧
  (∀ (s : State) (w : Waiter) (q : Nat), (s.power.jobs.any (fun j => j.quad == q)) = true → 
    s.doRetest w q = (s, .wait (quadKeyOf q))) ∧
  (∀ (s : State) (w : Waiter) (q : Nat), (s.power.jobs.any (fun j => j.quad == q)) = true → 
    s.doReturn w q = (s, .wait (quadKeyOf q))) ∧
  (∀ (s : State) (w : Waiter) (q : Nat), (s.power.jobs.any (fun j => j.quad == q)) = false → SMap.get 0 s.power.outQuads q ≠ 0 ∨ (∀ x, x < 4 → x ≠ q → SMap.get 0 s.power.outQuads x ≠ 0) → 
    s.doTakeOut w q = (s, .final 0x0105 [])) ∧
  (∀ (s : State) (w : Waiter) (q : Nat) (x : Nat), (s.power.jobs.any (fun j => j.quad == q)) = false → SMap.get 0 s.power.outQuads q = 0 → x < 4 → x ≠ q → SMap.get 0 s.power.outQuads x = 0 → 
    s.doTakeOut w q = ((((s.updPower (fun p => { p with outQuads := SMap.set 0 p.outQuads q 1, jobs := p.jobs ++ [⟨q, 0, w, 0, 0⟩] })).moveRings q).settle).serviceQuad ⟨q, 0, w, 0, 0⟩, .started [])) ∧
  (∀ (s : State) (w : Waiter) (q : Nat), (s.power.jobs.any (fun j => j.quad == q)) = false → SMap.get 0 s.power.outQuads q = 0 → 
    s.doRetest w q = (s, .final 0x0105 [])) ∧
  (∀ (s : State) (w : Waiter) (q : Nat), (s.power.jobs.any (fun j => j.quad == q)) = false → SMap.get 0 s.power.outQuads q ≠ 0 → 
    s.doRetest w q = (s.startRetest ⟨q, 1, w, 0, 0⟩, .started [])) ∧
  (∀ (s : State) (w : Waiter) (q : Nat), (s.power.jobs.any (fun j => j.quad == q)) = false → SMap.get 0 s.power.outQuads q = 0 → 
    s.doReturn w q = (s, .ended 0 [])) ∧
  (∀ (s : State) (w : Waiter) (q : Nat), (s.power.jobs.any (fun j => j.quad == q)) = false → SMap.get 0 s.power.outQuads q = 2 → 
    s.doReturn w q = (s.finishReturn q, .ended 0 [])) ∧
  (∀ (s : State) (w : Waiter) (q : Nat), (s.power.jobs.any (fun j => j.quad == q)) = false → SMap.get 0 s.power.outQuads q ≠ 0 → SMap.get 0 s.power.outQuads q ≠ 2 → 
    s.doReturn w q = (s.startRetest ⟨q, 2, w, 0, 0⟩, .started [])) ∧
  (∀ (s : State) (w : Waiter) (l : Bytes), (s.power.trains.any (fun j => j.kind == 3 && j.index == leAt l 0 1)) = true → 
    s.doRecal w l = (s, .wait ⟨9, leAt l 0 1⟩)) ∧
  (∀ (s : State) (w : Waiter) (l : Bytes), (s.power.trains.any (fun j => j.kind == 3 && j.index == leAt l 0 1)) = false → 
    s.doRecal w l = (s.updPower (fun p => { p with trains := p.trains ++ [⟨3, leAt l 0 1, w⟩] }), .started [])) ∧
  (∀ (s : State) (w : Waiter) (f : Option Bytes) (l : Bytes), s.sec.staging ≠ none ∨ s.sec.activation ≠ none → 
    s.doFwStage w f l = (s, .wait ⟨10, 0⟩)) ∧
  (∀ (s : State) (w : Waiter) (f : Option Bytes) (l : Bytes), s.sec.staging = none → s.sec.activation = none → (f.any (fun x => leAt x 0 4 == 0x4C4F5050)) = true → 
    s.doFwStage w f l = ((s.doPolicy f (leAt l 0 8)).1, .ended (s.doPolicy f (leAt l 0 8)).2 [])) ∧
  (∀ (s : State) (w : Waiter) (f : Option Bytes) (l : Bytes), s.sec.staging = none → s.sec.activation = none → (f.any (fun x => leAt x 0 4 == 0x4C4F5050)) = false → 
    s.doFwStage w f l = (s.updSec (fun x => { x with staging := some ⟨leAt l 0 8, w⟩ }), .started [])) ∧
  (∀ (s : State) (f : Bytes), f.length = leAt f 0x10 4 + 768 → policyOk f = true → s.policySigned f = true → (s.parcel (leAt f 8 2)).state = .enabled →
    (∀ k, k < 4 → ∀ y, s.policy k = some y → (y.parcel = leAt f 8 2 ↔ k = leAt f 6 1)) →
    (s.doPolicy (some f) f.length).2 = 0 ∧ (leAt f 0x10 4 = 0 → (s.doPolicy (some f) f.length).1.policy (leAt f 6 1) = none) ∧
    (leAt f 0x10 4 ≠ 0 → ∃ y, (s.doPolicy (some f) f.length).1.policy (leAt f 6 1) = some y ∧ y.parcel = leAt f 8 2 ∧ y.image = f ∧ y.running = none ∧ y.queue = [])) ∧
  (∀ (s : State) (w : Waiter), s.sec.staging ≠ none ∨ s.sec.activation ≠ none → 
    s.doActivate w = (s, .wait ⟨10, 0⟩)) ∧
  (∀ (s : State) (w : Waiter), s.sec.staging = none → s.sec.activation = none →
    (bankValid (s.sec.fw s.sec.other).image s.sec.floor = false ∨ s.nextCore [3, 2, 1, 0] = none → s.doActivate w = (s, .ended 0x0303 [])) ∧
    (∀ c, bankValid (s.sec.fw s.sec.other).image s.sec.floor = true → s.nextCore [3, 2, 1, 0] = some c →
      s.doActivate w = ((s.updSec (fun x => { x with activation := some ⟨c, [], w⟩ })).assignDuties [c], .started [])))

/-- A fabric link trains, identifies itself, comes up or is quarantined, recovers or goes down, by its events and the
plan. An enabled link that is DOWN starts to train; four lanes trained, it identifies itself; 500 ms without take it
DOWN with cause 1. In IDENT the word the plan names brings it UP with the round trip measured, another quarantines it
and is recorded; in UP another takes it down first; in QUARANTINED the word is held. BENCHMARK_SEND puts the own word
on the wire. A loss takes an UP link to RECOVER with its numbers and replay buffer held; a relock under the plan
brings it UP and sends the buffer again, one flit sent 8 times takes it back; under another plan it is quarantined;
100 µs without one take it down with cause 2. Discovery ends with a mismatch where a planned link is not UP. ENABLE
cleared takes a link down; RETRAIN resets it. In any other state an event changes nothing. (R386, R387, R390, R391,
R392, R393, R404, R408, 14_fabric.md Tables 14-2, 14-4, 14-8 and 14-9.) -/
def Obligations.LinksTrainIdentifyAndRecover : Prop :=
  (∀ (port : Fin 12) (t : Nat) (s : State), (s.fport port.val).state = .down → (s.fport port.val).enable = true →
    ∃ y : State, exec (.linkTrainingStart port t) s = .next y ∧ y.fport port.val = { s.fport port.val with state := .training } ∧
      (∀ i, i ≠ port.val → y.fport i = s.fport i) ∧ y.mem = s.mem) ∧
  (∀ (port : Fin 12) (t : Nat) (s : State), ¬ ((s.fport port.val).state = .down ∧ (s.fport port.val).enable = true) →
    exec (.linkTrainingStart port t) s = .next (s.at' t)) ∧
  (∀ (port : Fin 12) (t : Nat) (s : State), (s.fport port.val).state = .training →
    ∃ y : State, exec (.lanesTrained port t) s = .next y ∧ y.fport port.val = { s.fport port.val with state := .ident, lanes := 0xF, optical := decide (6 ≤ port.val) } ∧
      y.hic.pend.getLsbD (200 + port.val) = true ∧ (∀ i, i ≠ port.val → y.fport i = s.fport i)) ∧
  (∀ (port : Fin 12) (lanes : BitVec 4) (t : Nat) (s : State), (s.fport port.val).state ≠ .training →
    exec (.lanesTrained port t) s = .next (s.at' t) ∧ exec (.trainingTimeout port lanes t) s = .next (s.at' t)) ∧
  (∀ (port : Fin 12) (lanes : BitVec 4) (t : Nat) (s : State), (s.fport port.val).state = .training →
    ∃ y : State, exec (.trainingTimeout port lanes t) s = .next (y.trainEnd 0 port.val) ∧ (y.fport port.val).state = .down ∧
      (y.fport port.val).lanes = lanes.toNat ∧ (y.fport port.val).errValid = true ∧
      ((s.fport port.val).errValid = false → (y.fport port.val).errCause = 1) ∧ (∀ i, i ≠ port.val → y.fport i = s.fport i)) ∧
  (∀ (port : Fin 12) (serial : BitVec 64) (slot : BitVec 2) (far : BitVec 4) (step : BitVec 8) (rtt : BitVec 16) (t : Nat) (s : State), (s.fport port.val).state = .ident → planned s port.val serial.toNat slot.toNat far.toNat step.toNat →
    ∃ y : State, exec (.benchmarkReceived port serial slot far step rtt t) s = .next (y.trainEnd 0 port.val) ∧
      y.fport port.val = FabPort.pump 1024 { (heard s port.val serial.toNat slot.toNat far.toNat step.toNat).fport port.val with
        state := .up, rtt := rtt.toNat, missing := false, seenUp := (s.fport port.val).seenUp || s.fab.discovered } ∧
      y.hic.pend.getLsbD (200 + port.val) = true ∧ (∀ i, i ≠ port.val → y.fport i = s.fport i)) ∧
  (∀ (port : Fin 12) (serial : BitVec 64) (slot : BitVec 2) (far : BitVec 4) (step : BitVec 8) (rtt : BitVec 16) (t : Nat) (s : State), (s.fport port.val).state = .ident → ¬ planned s port.val serial.toNat slot.toNat far.toNat step.toNat →
    exec (.benchmarkReceived port serial slot far step rtt t) s =
      .next (((heard (s.at' t) port.val serial.toNat slot.toNat far.toNat step.toNat).quarantine port.val).trainEnd 0 port.val)) ∧
  (∀ (port : Fin 12) (s : State), ((s.quarantine port.val).fport port.val).state = .quarantined ∧
    ((s.quarantine port.val).fport port.val).errValid = true ∧ s.book.next + 2 ≤ (s.quarantine port.val).book.next) ∧
  (∀ (port : Fin 12) (serial : BitVec 64) (slot : BitVec 2) (far : BitVec 4) (step : BitVec 8) (rtt : BitVec 16) (t : Nat) (s : State), (s.fport port.val).state = .up → planned s port.val serial.toNat slot.toNat far.toNat step.toNat →
    exec (.benchmarkReceived port serial slot far step rtt t) s = .next (heard (s.at' t) port.val serial.toNat slot.toNat far.toNat step.toNat)) ∧
  (∀ (port : Fin 12) (serial : BitVec 64) (slot : BitVec 2) (far : BitVec 4) (step : BitVec 8) (rtt : BitVec 16) (t : Nat) (s : State), (s.fport port.val).state = .up → ¬ planned s port.val serial.toNat slot.toNat far.toNat step.toNat →
    exec (.benchmarkReceived port serial slot far step rtt t) s =
      .next ((heard ((s.at' t).linkDown port.val) port.val serial.toNat slot.toNat far.toNat step.toNat).quarantine port.val)) ∧
  (∀ (port : Fin 12) (serial : BitVec 64) (slot : BitVec 2) (far : BitVec 4) (step : BitVec 8) (rtt : BitVec 16) (t : Nat) (s : State), (s.fport port.val).state = .quarantined →
    exec (.benchmarkReceived port serial slot far step rtt t) s = .next (heard (s.at' t) port.val serial.toNat slot.toNat far.toNat step.toNat)) ∧
  (∀ (port : Fin 12) (serial : BitVec 64) (slot : BitVec 2) (far : BitVec 4) (step : BitVec 8) (rtt : BitVec 16) (t : Nat) (s : State), (s.fport port.val).state = .down ∨ (s.fport port.val).state = .training ∨ (s.fport port.val).state = .recover →
    exec (.benchmarkReceived port serial slot far step rtt t) s = .next (s.at' t)) ∧
  (∀ (port : Fin 12) (s : State), (s.fport port.val).state = .up ∨ (s.fport port.val).state = .ident ∨ (s.fport port.val).state = .quarantined →
    (s.fport port.val).replay.length < 512 →
    ∃ y : State, exec (.benchmarkSend port) s = .next y ∧ y.fport port.val = (s.fport port.val).emit 3 2 true true (s.ownBench port.val) ∧
      (y.fport port.val).txSeq = ((s.fport port.val).txSeq + 1) % 1024 ∧ (∀ i, i ≠ port.val → y.fport i = s.fport i)) ∧
  (∀ (port : Fin 12) (s : State), 512 ≤ (s.fport port.val).replay.length ∨ (s.fport port.val).state = .down ∨ (s.fport port.val).state = .training ∨
    (s.fport port.val).state = .recover → exec (.benchmarkSend port) s = .next s) ∧
  (∀ (port : Fin 12) (replay : Bool) (t : Nat) (s : State), (s.fport port.val).state = .up →
    ∃ y : State, exec (.linkLoss port replay t) s = .next y ∧ (y.fport port.val).state = .recover ∧
      (y.fport port.val).recoverCnt = satAdd 32 (s.fport port.val).recoverCnt 1 ∧ (y.fport port.val).replay = (s.fport port.val).replay ∧
      (y.fport port.val).txSeq = (s.fport port.val).txSeq ∧ (y.fport port.val).errValid = ((s.fport port.val).errValid || replay)) ∧
  (∀ (port : Fin 12) (replay : Bool) (t : Nat) (s : State), (s.fport port.val).state ≠ .up →
    exec (.linkLoss port replay t) s = .next (s.at' t)) ∧
  (∀ (port : Fin 12) (t : Nat) (s : State), (s.fport port.val).state = .recover → s.benchOk port.val = true →
    exec (.recoverRelock port true t) s = .next
      (((((s.at' t).updFport port.val (fun p => { p with state := .up })).signal (200 + port.val)).resend port.val).updFport port.val (fun p => p.pump 1024))) ∧
  (∀ (port : Fin 12) (s : State), (∀ f, f ∈ (s.fport port.val).replay → f.sends < 7) →
    (s.resend port.val).fport port.val = { s.fport port.val with
      wire := (s.fport port.val).wire ++ (s.fport port.val).replay.map (fun f => f.bytes)
      replayCnt := satAdd 32 (s.fport port.val).replayCnt (s.fport port.val).replay.length
      replay := (s.fport port.val).replay.map (fun f => { f with sends := f.sends + 1 }) }) ∧
  (∀ (port : Fin 12) (s : State) (f : SentFlit), (s.fport port.val).state = .up → f ∈ (s.fport port.val).replay → 7 ≤ f.sends →
    ((s.resend port.val).fport port.val).state = .recover ∧ ((s.resend port.val).fport port.val).errValid = true) ∧
  (∀ (port : Fin 12) (t : Nat) (s : State), (s.fport port.val).state = .recover → s.benchOk port.val = false →
    exec (.recoverRelock port true t) s = .next
      ((((s.at' t).updFport port.val (fun p => { p with state := .up })).linkDown port.val).quarantine port.val)) ∧
  (∀ (port : Fin 12) (same : Bool) (t : Nat) (s : State), same = false ∨ (s.fport port.val).state ≠ .recover →
    exec (.recoverRelock port same t) s = .next (s.at' t)) ∧
  (∀ (port : Fin 12) (t : Nat) (s : State), (s.fport port.val).state = .recover →
    ∃ y : State, exec (.recoverTimeout port t) s = .next y ∧ y = ((s.at' t).linkDown port.val).fpErr port.val 2 ∧ (y.fport port.val).errValid = true) ∧
  (∀ (port : Fin 12) (t : Nat) (s : State), (s.fport port.val).state ≠ .recover → exec (.recoverTimeout port t) s = .next (s.at' t)) ∧
  (∀ (t : Nat) (s : State), s.fab.discovering = true →
    ∃ y : State, exec (.discoveryEnd t) s = .next (match s.power.planWait with
        | none => y
        | some w => y.complete w (if y.fab.mismatch = true then 0x0601 else 0) []) ∧
      y.power.planWait = none ∧ y.fab.discovering = false ∧ y.fab.discovered = true ∧ y.hic.pend.getLsbD 212 = true ∧
      (y.fab.mismatch = true ↔ ∃ i, i < 12 ∧ missingLink s i) ∧
      (∀ i : Fin 12, ((y.fport i.val).missing = true ↔ missingLink s i.val) ∧ ((y.fport i.val).seenUp = true ↔ (s.fport i.val).state = .up))) ∧
  (∀ (t : Nat) (s : State), s.fab.discovering = false → exec (.discoveryEnd t) s = .next (s.at' t)) ∧
  (∀ (port : Fin 12) (t : Nat) (s : State), ∃ y : State, exec (.fpCtrlEnable port true t) s = .next y ∧ y.fport port.val = { s.fport port.val with enable := true } ∧
    (∀ i, i ≠ port.val → y.fport i = s.fport i)) ∧
  (∀ (port : Fin 12) (t : Nat) (s : State), exec (.fpCtrlEnable port false t) s =
    .next ((((s.at' t).takeDown port.val).updFport port.val (fun p => { p with enable := false })).trainEnd 0 port.val)) ∧
  (∀ (port : Fin 12) (s : State), (s.fport port.val).state = .up ∨ (s.fport port.val).state = .recover → s.takeDown port.val = s.linkDown port.val) ∧
  (∀ (port : Fin 12) (s : State), (s.fport port.val).state ≠ .up → (s.fport port.val).state ≠ .recover →
    (s.takeDown port.val).fport port.val = { (s.fport port.val).clearLink with state := .down } ∧
    (∀ i, i ≠ port.val → (s.takeDown port.val).fport i = s.fport i)) ∧
  (∀ (port : Fin 12) (t : Nat) (s : State), exec (.fpCtrlRetrain port t) s = .next ((s.at' t).resetLink port.val)) ∧
  (∀ (port : Fin 12) (s : State), ((s.takeDown port.val).fport port.val).enable = true →
    (s.resetLink port.val).fport port.val = { (s.takeDown port.val).fport port.val with state := .training }) ∧
  (∀ (port : Fin 12) (s : State), ((s.takeDown port.val).fport port.val).enable = false → s.resetLink port.val = s.takeDown port.val)

/-- A board-address message is checked, has its effect and its answer, and one for another module goes on or is dropped. A
message on a link that is not UP has no effect; one for another module goes on with a hop less, or is dropped and
counted. A WRITE or READ for this module is checked: from a tray peer, local, mapped and permitted it writes or reads
its bytes and is answered, an uncorrectable word by its cause; else it is counted and answered with its cause; an
answer changes no memory. READ_DATA gives its bytes to its command and WRITE_ACK ends its wait when nothing more is
owed; a remote cause fails the command, a stale one is counted. CHAN_WRITE for no bound channel, outside the window or
not permitted is counted; else it writes where the record says and signals when asked. QUEUE_LINK hands a return
packet to the engine of its tag, else links its packet and counts its bytes, or is a fault where cells lack.
REMOTE_TIMEOUT fails its command with cause 9. (R184, R394, R395, R396, R397, R400, R401, 14_fabric.md Table 14-6.) -/
def Obligations.MessagesAreCheckedAndAnswered : Prop :=
  (∀ (port : Fin 12) (m : MsgIn) (s : State), exec (.write port m) s = .next (s.fabArrive 1 port m) ∧ exec (.read port m) s = .next (s.fabArrive 2 port m) ∧
    exec (.readData port m) s = .next (s.fabArrive 3 port m) ∧ exec (.chanWrite port m) s = .next (s.fabArrive 4 port m) ∧
    exec (.queueLink port m) s = .next (s.fabArrive 5 port m) ∧ exec (.writeAck port m) s = .next (s.fabArrive 7 port m)) ∧
  (∀ (k : Nat) (port : Fin 12) (m : MsgIn) (s : State), (s.fport port.val).state ≠ .up → s.fabArrive k port m = s) ∧
  (∀ (k : Nat) (port : Fin 12) (m : MsgIn) (s : State), (s.fport port.val).state = .up → m.dest.toNat ≠ ownSerial →
    m.ttl.toNat ≤ 1 ∨ s.routePort m.dest.toNat = none →
    s.fabArrive k port m = s.updFab (fun f => { f with transitDrop := satAdd 32 f.transitDrop 1 })) ∧
  (∀ (k : Nat) (port : Fin 12) (m : MsgIn) (s : State), (s.fport port.val).state = .up → m.dest.toNat ≠ ownSerial → 1 < m.ttl.toNat →
    s.routePort m.dest.toNat ≠ none →
    s.fabArrive k port m = (s.updFab (fun f => { f with transit := satAdd 48 f.transit 1 })).fabSend (msgVc k) { msgOf k m with ttl := m.ttl.toNat - 1 }) ∧
  (∀ (port : Fin 12) (m : MsgIn) (s : State), (s.fport port.val).state = .up → m.dest.toNat = ownSerial → s.refuses (msgOf 1 m) true = none →
    exec (.write port m) s = .next ((s.put (m.addr.toNat % 2 ^ 52) m.data 0 0).fabReply (msgOf 1 m) 7 0 [])) ∧
  (∀ (c : Nat) (port : Fin 12) (m : MsgIn) (s : State), (s.fport port.val).state = .up → m.dest.toNat = ownSerial → s.refuses (msgOf 1 m) true = some c →
    exec (.write port m) s = .next ((s.fabRefuse port.val).fabReply (msgOf 1 m) 7 c [])) ∧
  (∀ (port : Fin 12) (m : MsgIn) (s : State), (s.fport port.val).state = .up → m.dest.toNat = ownSerial → s.refuses (msgOf 2 m) false = none → s.readUe (m.addr.toNat % 2 ^ 52) m.len.toNat = none →
    exec (.read port m) s = .next (s.fabReply (msgOf 2 m) 3 0 (s.mem.readN (addrKey (m.addr.toNat % 2 ^ 52)) m.len.toNat))) ∧
  (∀ (c u : Nat) (port : Fin 12) (m : MsgIn) (s : State), (s.fport port.val).state = .up → m.dest.toNat = ownSerial → s.refuses (msgOf 2 m) false = none → s.readUe (m.addr.toNat % 2 ^ 52) m.len.toNat = some (c, u) →
    exec (.read port m) s = .next ((s.countTier c u).fabReply (msgOf 2 m) 3 c [])) ∧
  (∀ (c : Nat) (port : Fin 12) (m : MsgIn) (s : State), (s.fport port.val).state = .up → m.dest.toNat = ownSerial → s.refuses (msgOf 2 m) false = some c →
    exec (.read port m) s = .next ((s.fabRefuse port.val).fabReply (msgOf 2 m) 3 c [])) ∧
  (∀ (s : State) (m : FabMsg) (w : Bool), s.isPeer m.src = false ∨ s.isLocal (m.addr % 2 ^ 52) = false → s.refuses m w = some 3) ∧
  (∀ (s : State) (m : FabMsg) (w : Bool), s.isPeer m.src = true → s.isLocal (m.addr % 2 ^ 52) = true →
    s.refuses m w = (if addrTier (m.addr % 2 ^ 52) = 3 ∨ s.unmapped (m.addr % 2 ^ 52) m.want ≠ none then some 2
      else if s.mayTouch none m.parcel (m.addr % 2 ^ 52) m.want w = true then none else some 3)) ∧
  (∀ (s : State) (m : FabMsg) (kind status : Nat) (data : Bytes), (s.fabReply m kind status data).mem = s.mem ∧ (s.fabReply m kind status data).tiles = s.tiles) ∧
  (∀ (port : Fin 12) (m : MsgIn) (s : State), (s.fport port.val).state = .up → m.dest.toNat = ownSerial → s.replyTo (msgOf 3 m) .fetch = none → exec (.readData port m) s = .next s) ∧
  (∀ (port : Fin 12) (m : MsgIn) (s : State), (s.fport port.val).state = .up → m.dest.toNat = ownSerial → s.replyTo (msgOf 7 m) .push = none → exec (.writeAck port m) s = .next s) ∧
  (∀ (e : Nat) (c : SlCmd) (port : Fin 12) (m : MsgIn) (s : State), (s.fport port.val).state = .up → m.dest.toNat = ownSerial → s.replyTo (msgOf 3 m) .fetch = some (e, c) → c.stale = true ∨ c.gen ≠ m.xfer.toNat / 2 ^ 20 % 64 →
    exec (.readData port m) s = .next (s.slStale e (if c.stale = true then some c else none))) ∧
  (∀ (e : Nat) (c : SlCmd) (port : Fin 12) (m : MsgIn) (s : State), (s.fport port.val).state = .up → m.dest.toNat = ownSerial → s.replyTo (msgOf 7 m) .push = some (e, c) → c.stale = true ∨ c.gen ≠ m.xfer.toNat / 2 ^ 20 % 64 →
    exec (.writeAck port m) s = .next (s.slStale e (if c.stale = true then some c else none))) ∧
  (∀ (e : Nat) (c : SlCmd) (port : Fin 12) (m : MsgIn) (s : State), (s.fport port.val).state = .up → m.dest.toNat = ownSerial → s.replyTo (msgOf 3 m) .fetch = some (e, c) → c.stale = false → c.gen = m.xfer.toNat / 2 ^ 20 % 64 →
    m.mstatus ≠ 0 → exec (.readData port m) s = .next (s.slFail e c (9 + 16 * m.mstatus.toNat) (m.addr.toNat % 2 ^ 52) c.cls c.req)) ∧
  (∀ (e : Nat) (c : SlCmd) (port : Fin 12) (m : MsgIn) (s : State), (s.fport port.val).state = .up → m.dest.toNat = ownSerial → s.replyTo (msgOf 7 m) .push = some (e, c) → c.stale = false → c.gen = m.xfer.toNat / 2 ^ 20 % 64 →
    m.mstatus ≠ 0 → exec (.writeAck port m) s = .next (s.slFail e c (9 + 16 * m.mstatus.toNat) (m.addr.toNat % 2 ^ 52) c.cls c.req)) ∧
  (∀ (e cause a cl r : Nat) (c : SlCmd) (s : State), ((s.slFail e c cause a cl r).engine e).flight = (s.engine e).flight.map (fun y =>
    if y = c then { c with phase := .failed cause a cl r } else y)) ∧
  (∀ (e : Nat) (c : SlCmd) (port : Fin 12) (m : MsgIn) (s : State), (s.fport port.val).state = .up → m.dest.toNat = ownSerial → s.replyTo (msgOf 3 m) .fetch = some (e, c) → c.stale = false → c.gen = m.xfer.toNat / 2 ^ 20 % 64 →
    m.mstatus = 0 →
    ∃ buf, exec (.readData port m) s = .next (s.updEngine e (fun x => x.putCmd c { c with
        buf := buf, need := c.need.filter (fun n => n.1 != m.addr.toNat % 2 ^ 52)
        phase := if ∀ n, n ∈ c.need → n.1 = m.addr.toNat % 2 ^ 52 then .reading else .fetch })) ∧
      (∀ k, k < m.data.length → SMap.get 0 buf (m.addr.toNat % 2 ^ 52 + k) = m.data.getD k 0)) ∧
  (∀ (e : Nat) (c : SlCmd) (port : Fin 12) (m : MsgIn) (s : State), (s.fport port.val).state = .up → m.dest.toNat = ownSerial → s.replyTo (msgOf 7 m) .push = some (e, c) → c.stale = false → c.gen = m.xfer.toNat / 2 ^ 20 % 64 →
    m.mstatus = 0 → (∀ n, n ∈ c.need → n.1 = m.addr.toNat % 2 ^ 52) →
    exec (.writeAck port m) s = .next ((s.updEngine e (fun x => x.putCmd c c.advance)).plistFull c)) ∧
  (∀ (e : Nat) (c : SlCmd) (port : Fin 12) (m : MsgIn) (s : State), (s.fport port.val).state = .up → m.dest.toNat = ownSerial → s.replyTo (msgOf 7 m) .push = some (e, c) → c.stale = false → c.gen = m.xfer.toNat / 2 ^ 20 % 64 →
    m.mstatus = 0 → (∃ n, n ∈ c.need ∧ n.1 ≠ m.addr.toNat % 2 ^ 52) →
    exec (.writeAck port m) s = .next (s.updEngine e (fun x => x.putCmd c { c with need := c.need.filter (fun n => n.1 != m.addr.toNat % 2 ^ 52) }))) ∧
  (∀ (c : SlCmd), c.op ≠ 4 → c.advance = { c with got := [], buf := [], need := [], paid := false, phase := .done }) ∧
  (∀ (c : SlCmd), c.op = 4 → c.back = true → c.entry + 1 < c.len + min c.len 2 →
    c.advance = { c with got := [], buf := [], need := [], paid := false, entry := c.entry + 1, back := false, phase := .waitSem }) ∧
  (∀ (port : Fin 12) (m : MsgIn) (s : State), (s.fport port.val).state = .up → m.dest.toNat = ownSerial → s.fab.chans.find? (fun c => !c.out && c.channel == m.channel.toNat && c.peer == m.src.toNat) = none →
    exec (.chanWrite port m) s = .next ((s.fabRefuse port.val).fabReply (msgOf 4 m) 7 2 [])) ∧
  (∀ (c : ChanBind) (port : Fin 12) (m : MsgIn) (s : State), (s.fport port.val).state = .up → m.dest.toNat = ownSerial → s.fab.chans.find? (fun c => !c.out && c.channel == m.channel.toNat && c.peer == m.src.toNat) = some c → (s.plot c.lead = none ∨ ∃ p, s.plot c.lead = some p ∧ (s.fabRecs p).find? (fun r => leAt p.plat r 1 == 1 && leAt p.plat (r + 2) 2 == m.channel.toNat) = none) →
    exec (.chanWrite port m) s = .next ((s.fabRefuse port.val).fabReply (msgOf 4 m) 7 2 [])) ∧
  (∀ (c : ChanBind) (p : Plot) (r : Nat) (port : Fin 12) (m : MsgIn) (s : State), (s.fport port.val).state = .up → m.dest.toNat = ownSerial → s.fab.chans.find? (fun c => !c.out && c.channel == m.channel.toNat && c.peer == m.src.toNat) = some c → s.plot c.lead = some p → (s.fabRecs p).find? (fun r => leAt p.plat r 1 == 1 && leAt p.plat (r + 2) 2 == m.channel.toNat) = some r →
    (leAt p.plat (r + 0x10) 4 < m.addr.toNat % 2 ^ 32 + m.data.length ∨ (m.data ≠ [] ∧ s.unmapped (chanAddr s m p r) m.data.length ≠ none)) →
    exec (.chanWrite port m) s = .next ((s.fabRefuse port.val).fabReply (msgOf 4 m) 7 2 [])) ∧
  (∀ (c : ChanBind) (p : Plot) (r : Nat) (port : Fin 12) (m : MsgIn) (s : State), (s.fport port.val).state = .up → m.dest.toNat = ownSerial → s.fab.chans.find? (fun c => !c.out && c.channel == m.channel.toNat && c.peer == m.src.toNat) = some c → s.plot c.lead = some p → (s.fabRecs p).find? (fun r => leAt p.plat r 1 == 1 && leAt p.plat (r + 2) 2 == m.channel.toNat) = some r → m.data ≠ [] →
    m.addr.toNat % 2 ^ 32 + m.data.length ≤ leAt p.plat (r + 0x10) 4 → s.unmapped (chanAddr s m p r) m.data.length = none →
    s.mayTouch (some c.lead) 0 (chanAddr s m p r) m.data.length true = false →
    exec (.chanWrite port m) s = .next ((s.fabRefuse port.val).fabReply (msgOf 4 m) 7 3 [])) ∧
  (∀ (c : ChanBind) (p : Plot) (r : Nat) (port : Fin 12) (m : MsgIn) (s : State), (s.fport port.val).state = .up → m.dest.toNat = ownSerial → boundChan s m c p r → m.data ≠ [] → bitB m.mflags.toNat 0 = false →
    exec (.chanWrite port m) s = .next ((s.put (chanAddr s m p r) m.data 0 0).fabReply (msgOf 4 m) 7 0 [])) ∧
  (∀ (c : ChanBind) (p : Plot) (r : Nat) (port : Fin 12) (m : MsgIn) (s : State), (s.fport port.val).state = .up → m.dest.toNat = ownSerial → boundChan s m c p r → m.data ≠ [] → bitB m.mflags.toNat 0 = true →
    exec (.chanWrite port m) s = .next (((s.put (chanAddr s m p r) m.data 0 0).engineSignal (p.tileOf (leAt p.plat (r + 0x14) 2))
      (leAt p.plat (r + 7) 1 % 32)).fabReply (msgOf 4 m) 7 0 [])) ∧
  (∀ (c : ChanBind) (p : Plot) (r : Nat) (port : Fin 12) (m : MsgIn) (s : State), (s.fport port.val).state = .up → m.dest.toNat = ownSerial → s.fab.chans.find? (fun c => !c.out && c.channel == m.channel.toNat && c.peer == m.src.toNat) = some c → s.plot c.lead = some p → (s.fabRecs p).find? (fun r => leAt p.plat r 1 == 1 && leAt p.plat (r + 2) 2 == m.channel.toNat) = some r → m.data = [] →
    m.addr.toNat % 2 ^ 32 ≤ leAt p.plat (r + 0x10) 4 →
    exec (.chanWrite port m) s = .next ((if bitB m.mflags.toNat 0 = true then s.engineSignal (p.tileOf (leAt p.plat (r + 0x14) 2))
      (leAt p.plat (r + 7) 1 % 32) else s).fabReply (msgOf 4 m) 7 0 [])) ∧
  (∀ (port : Fin 12) (m : MsgIn) (s : State), (s.fport port.val).state = .up → m.dest.toNat = ownSerial → m.addr.toNat / 2 ^ 15 % 4 ≠ s.slot % 4 ∨ queueItems m = [] → exec (.queueLink port m) s = .next s) ∧
  (∀ (port : Fin 12) (m : MsgIn) (s : State), (s.fport port.val).state = .up → m.dest.toNat = ownSerial → m.addr.toNat / 2 ^ 15 % 4 = s.slot % 4 → queueItems m ≠ [] → leAt ((queueItems m).headD []) 0 1 = 3 →
    exec (.queueLink port m) s = .next ((s.updLe (leAt ((queueItems m).headD []) 4 4 / 2 ^ 28 % 4) (fun l => { l with
      bytesIn := satAdd 48 l.bytesIn m.data.length })).latArrive (leAt ((queueItems m).headD []) 4 4 / 2 ^ 28 % 4) (m.addr.toNat % 2 ^ 13)
        ((s.queueLead (m.addr.toNat / 2 ^ 13 % 4) (queueOwner (m.addr.toNat % 2 ^ 13))).getD 64) (queueItems m))) ∧
  (∀ (y : State) (port : Fin 12) (m : MsgIn) (s : State), (s.fport port.val).state = .up → m.dest.toNat = ownSerial → m.addr.toNat / 2 ^ 15 % 4 = s.slot % 4 → queueItems m ≠ [] → leAt ((queueItems m).headD []) 0 1 ≠ 3 →
    s.linkWhole (m.addr.toNat / 2 ^ 13 % 4) (m.addr.toNat % 2 ^ 13) (0x40 + m.addr.toNat / 2 ^ 13 % 4) (s.latItems (queueItems m)) = some y →
    ∃ t, exec (.queueLink port m) s = .next t ∧ t.cist = y.cist ∧ t.mem = y.mem ∧
      (t.lateral (m.addr.toNat / 2 ^ 13 % 4)).bytesIn = satAdd 48 (y.lateral (m.addr.toNat / 2 ^ 13 % 4)).bytesIn m.data.length) ∧
  (∀ (port : Fin 12) (m : MsgIn) (s : State), (s.fport port.val).state = .up → m.dest.toNat = ownSerial → m.addr.toNat / 2 ^ 15 % 4 = s.slot % 4 → queueItems m ≠ [] → leAt ((queueItems m).headD []) 0 1 ≠ 3 →
    s.linkWhole (m.addr.toNat / 2 ^ 13 % 4) (m.addr.toNat % 2 ^ 13) (0x40 + m.addr.toNat / 2 ^ 13 % 4) (s.latItems (queueItems m)) = none →
    exec (.queueLink port m) s = .next (s.leFault (m.addr.toNat / 2 ^ 13 % 4) 0x12 0 (m.addr.toNat % 2 ^ 13) (leAt ((queueItems m).headD []) 4 4)
      ((s.queueLead (m.addr.toNat / 2 ^ 13 % 4) (queueOwner (m.addr.toNat % 2 ^ 13))).elim [] (fun b => [b])))) ∧
  (∀ (e : Fin 64) (index : BitVec 20) (s : State) (c : SlCmd), (s.engine e.val).findCmd index.toNat (fun p => p == .fetch || p == .push) = some c → c.stale = false →
    exec (.remoteTimeout e index) s = .next (s.slFail e.val c 9 (c.need.headD (0, 0)).1 c.cls c.req)) ∧
  (∀ (e : Fin 64) (index : BitVec 20) (s : State) (c : SlCmd), (s.engine e.val).findCmd index.toNat (fun p => p == .fetch || p == .push) = some c → c.stale = true →
    exec (.remoteTimeout e index) s = .next (s.slFree e.val c)) ∧
  (∀ (e : Fin 64) (index : BitVec 20) (s : State), (s.engine e.val).findCmd index.toNat (fun p => p == .fetch || p == .push) = none →
    exec (.remoteTimeout e index) s = .next s)

/-- A flit in order is taken and acknowledged, a bad or missing one asks for a replay, and management messages are taken
once and sent again. A flit whose CRC fails is counted and a NAK goes out; a sound one tells the sender its part,
joins its message when it is the one awaited, and is answered. One of the number awaited moves the number on; another
leaves it. An acknowledgement removes a first part of the replay buffer. ACK_TIMER sends an acknowledgement that takes
no number. A management message is taken once: a second one is acknowledged and nothing else; one that fails
authentication is counted. It is forgotten when acknowledged and sent again until then. ABORT_NOTICE is counted and
forces the plots of its models that run a task; after LINK_DOWN an agreement begins. A probe is counted, an answer to
it recorded, a probe of another module answered. A link in no state for it takes no part. (R381, R382, R383, R384,
R395, R402, R403, R404, R405, R406, 14_fabric.md Tables 14-1 and 14-6.) -/
def Obligations.FlitsAndManagementTravel : Prop :=
  (∀ (port : Fin 12) (flit : Bytes) (t : Nat) (s : State), (s.fport port.val).state = .up ∨ (s.fport port.val).state = .ident ∨ (s.fport port.val).state = .quarantined → flitCrcOk flit = false →
    ∃ y : State, exec (.flitReceive port flit t) s = .next y ∧ y.fport port.val =
      { s.fport port.val with
          fecCnt := satAdd 48 (s.fport port.val).fecCnt (Config.freeWord32 s.free).toNat, crcCnt := satAdd 32 (s.fport port.val).crcCnt 1, discarding := true, nak := true,
          sinceAck := (s.fport port.val).sinceAck + 1 } ∧
      (∀ i, i ≠ port.val → y.fport i = s.fport i) ∧ y.mem = s.mem) ∧
  (∀ (port : Fin 12) (flit : Bytes) (t : Nat) (s : State), (s.fport port.val).state = .up ∨ (s.fport port.val).state = .ident ∨ (s.fport port.val).state = .quarantined → flitCrcOk flit = true →
    exec (.flitReceive port flit t) s =
      .next (((((s.at' t).fecSeen port.val).flitAck port.val (flitHead flit)).flitData port.val (flitHead flit) flit).flitReply port.val)) ∧
  (∀ (port : Fin 12) (flit : Bytes) (t : Nat) (s : State), (s.fport port.val).state = .down ∨ (s.fport port.val).state = .training ∨
    (s.fport port.val).state = .recover → exec (.flitReceive port flit t) s = .next (s.at' t)) ∧
  (∀ (i h : Nat) (s : State), bitB h 28 = false → s.flitAck i h = s.setFport i ((s.fport i).takeAck h)) ∧
  (∀ (i h : Nat) (s : State), bitB h 28 = true → s.flitAck i h = (s.setFport i ((s.fport i).takeAck h)).resend i) ∧
  (∀ (i h : Nat) (flit : Bytes) (s : State), fieldN h 0 4 ≠ 1 → fieldN h 0 4 ≠ 3 → s.flitData i h flit = s) ∧
  (∀ (i h : Nat) (flit : Bytes) (s : State), fieldN h 0 4 = 3 ∨ (fieldN h 0 4 = 1 ∧ (fieldN h 8 10 ≠ (s.fport i).rxSeq ∨ (s.fport i).state ≠ .up)) →
    s.flitData i h flit = s.setFport i ((s.fport i).takeSeq (fieldN h 8 10)).1) ∧
  (∀ (i h : Nat) (flit : Bytes) (s : State) (l : Bytes), fieldN h 0 4 = 1 → fieldN h 8 10 = (s.fport i).rxSeq → (s.fport i).state = .up → bitB h 7 = true →
    l = (if bitB h 6 = true then [] else SMap.get [] (s.fport i).asm (fieldN h 4 2)) ++ slice flit 8 (min 240 (fieldN h 48 8)) → 48 ≤ l.length →
    ∃ y : State, s.flitData i h flit = y.fabTake i (fabMsgOf l) ∧ (y.fport i).rxSeq = ((s.fport i).rxSeq + 1) % 1024 ∧
      SMap.get [] (y.fport i).asm (fieldN h 4 2) = [] ∧ y.mem = s.mem) ∧
  (∀ (i h : Nat) (flit : Bytes) (s : State), fieldN h 0 4 = 1 → fieldN h 8 10 = (s.fport i).rxSeq → (s.fport i).state = .up → bitB h 7 = false →
    SMap.get [] ((s.flitData i h flit).fport i).asm (fieldN h 4 2) =
        (if bitB h 6 = true then [] else SMap.get [] (s.fport i).asm (fieldN h 4 2)) ++ slice flit 8 (min 240 (fieldN h 48 8)) ∧
      ((s.flitData i h flit).fport i).rxSeq = ((s.fport i).rxSeq + 1) % 1024 ∧
      SMap.get 0 ((s.flitData i h flit).fport i).owed (fieldN h 4 2) = SMap.get 0 (s.fport i).owed (fieldN h 4 2) + 1 ∧ (s.flitData i h flit).mem = s.mem) ∧
  (∀ (i : Nat) (s : State), (s.fport i).sinceAck < 64 → s.flitReply i = s.setFport i ((s.fport i).pump 1024)) ∧
  (∀ (i : Nat) (s : State), 64 ≤ (s.fport i).sinceAck → s.flitReply i = s.setFport i (((s.fport i).emit 2 0 false false []).pump 1024)) ∧
  (∀ (p : FabPort) (seq : Nat), seq = p.rxSeq → (p.takeSeq seq).2 = true ∧ (p.takeSeq seq).1.rxSeq = (p.rxSeq + 1) % 1024 ∧ (p.takeSeq seq).1.discarding = false) ∧
  (∀ (p : FabPort) (seq : Nat), seq ≠ p.rxSeq → (p.takeSeq seq).2 = false ∧ (p.takeSeq seq).1.rxSeq = p.rxSeq) ∧
  (∀ (p : FabPort) (seq : Nat), seq ≠ p.rxSeq → p.discarding = false → (seq + 1024 - p.rxSeq) % 1024 < 512 →
    p.takeSeq seq = ({ p with discarding := true, nak := true }, false)) ∧
  (∀ (l : List SentFlit) (a : Nat), ackReplay l a <:+ l) ∧
  (∀ (port : Fin 12) (s : State), (s.fport port.val).state = .up →
    ∃ y : State, exec (.ackTimer port) s = .next y ∧ y.fport port.val = (s.fport port.val).emit 2 0 false false [] ∧ (y.fport port.val).nak = false ∧
      (y.fport port.val).txSeq = (s.fport port.val).txSeq ∧ (y.fport port.val).replay = (s.fport port.val).replay) ∧
  (∀ (port : Fin 12) (s : State), (s.fport port.val).state ≠ .up → exec (.ackTimer port) s = .next s) ∧
  (∀ (m : MgmtIn) (list : List (BitVec 64)) (s : State), mgmtFresh s m →
    ∃ y : State, exec (.neighbourExchange (some m) list) s = .next y ∧
      y.fab.nbrs = s.fab.nbrs.filter (fun n => n.serial != m.src.toNat) ++ [⟨m.src.toNat, list.map (fun x => x.toNat)⟩] ∧
      (m.src.toNat, m.id.toNat) ∈ y.fab.mgmtSeen) ∧
  (∀ (m : MgmtIn) (list : List (BitVec 64)) (tag : BitVec 64) (cause : BitVec 16) (t : Nat) (s : State), mgmtAgain s m →
    exec (.neighbourExchange (some m) list) s = .next (mgmtAcked s m) ∧
    exec (.abortNotice m tag cause t) s = .next (mgmtAcked (s.at' t) m) ∧ (mgmtAcked s m).fab.nbrs = s.fab.nbrs) ∧
  (∀ (m : MgmtIn) (list : List (BitVec 64)) (tag : BitVec 64) (cause : BitVec 16) (t : Nat) (s : State), m.netB = true → (s.box 0).key = none →
    exec (.neighbourExchange (some m) list) s = .next (mgmtBad s) ∧ exec (.abortNotice m tag cause t) s = .next (mgmtBad (s.at' t))) ∧
  (∀ (list : List (BitVec 64)) (s : State), exec (.neighbourExchange none list) s =
    .next ((knownModules s).foldl (fun y d => y.mgmtSend d false ([1] ++ s.ownNbrs.flatMap (fun x => toLe 8 x))) s)) ∧
  (∀ (id : BitVec 32) (acked : Bool) (s : State), s.fab.mgmt.find? (fun y => y.id == id.toNat) = none → exec (.mgmtResend id acked) s = .next s) ∧
  (∀ (id : BitVec 32) (s : State) (x : MgmtMsg), s.fab.mgmt.find? (fun y => y.id == id.toNat) = some x →
    (∃ y : State, exec (.mgmtResend id true) s = .next y ∧ (∀ z, z ∈ y.fab.mgmt → z.id ≠ id.toNat)) ∧
    exec (.mgmtResend id false) s = .next ((s.updFab (fun f => { f with mgmt := f.mgmt.map (fun y =>
      if y.id = id.toNat then { y with sends := y.sends + 1 } else y) })).mgmtEmit x.dest x.id x.both x.body)) ∧
  (∀ (m : MgmtIn) (tag : BitVec 64) (cause : BitVec 16) (t : Nat) (s : State), mgmtFresh s m →
    exec (.abortNotice m tag cause t) s = .next ((mgmtSeenNow (s.at' t) m).takeAbort tag.toNat cause.toNat)) ∧
  (∀ (m : MgmtIn) (tag : BitVec 64) (cause : BitVec 16) (t : Nat) (s : State), mgmtFresh s m → s.models = [] →
    ∃ y : State, exec (.abortNotice m tag cause t) s = .next y ∧ y.fab.abortRx = satAdd 32 s.fab.abortRx 1 ∧ y.hic.pend.getLsbD 212 = true ∧ y.blocks = s.blocks) ∧
  (∀ (m : MgmtIn) (tag : BitVec 64) (t : Nat) (s : State) (i : Nat) (b : Nat) (p : Plot), mgmtFresh s m → s.modelsOfTag tag.toNat = [i] →
    s.plotOfModel (s.modelId i) = some b → s.plot b = some p → p.task.isSome = true → p.state ≠ .free → p.state ≠ .forcing → b < 64 →
    ∃ (y : State) (q : Plot), exec (.abortNotice m tag 0x0403 t) s = .next y ∧ y.plot b = some q ∧ q.state = .forcing ∧ q.forceCause = 0x0C) ∧
  (∀ (cause i b : Nat) (p : Plot) (s : State), cause ≠ 0x0407 → s.plotOfModel (s.modelId i) = some b → s.plot b = some p → p.task.isSome = true →
    s.abortModel cause i = s.force b (if cause = 0x0403 then 0x0C else 0x0D) cause 0) ∧
  (∀ (cause i b : Nat) (p : Plot) (s : State), cause ≠ 0x0407 → s.plotOfModel (s.modelId i) = some b → s.plot b = some p → p.task = none →
    s.abortModel cause i = s) ∧
  (∀ (cause i : Nat) (s : State), s.plotOfModel (s.modelId i) = none →
    s.abortModel cause i = if cause = 0x0407 then s.startAgree (s.modelId i) 0x0407 else s) ∧
  (∀ (port : Fin 12) (s : State), (s.fport port.val).state = .recover →
    ∃ y : State, exec (.livenessProbe port) s = .next y ∧ (y.fport port.val).probes = (s.fport port.val).probes + 1) ∧
  (∀ (port : Fin 12) (s : State), (s.fport port.val).state ≠ .recover → exec (.livenessProbe port) s = .next s) ∧
  (∀ (serial : BitVec 64) (s : State), ∃ y : State, exec (.probeAnswer serial true) s = .next y ∧ y.mem = s.mem ∧
    ∀ port : Fin 12, y.fport port.val = if (s.fport port.val).state = .recover ∧ (s.fport port.val).benchSerial = serial.toNat ∧ 0 < (s.fport port.val).probes
      then { s.fport port.val with answered := true } else s.fport port.val) ∧
  (∀ (serial : BitVec 64) (s : State), exec (.probeAnswer serial false) s = .next (s.mgmtNet serial.toNat 0 [5])) ∧
  (∀ (s : State), exec .mgmtAuthFail s = .next { s with mail := { s.mail with mgmtFail := satAdd 64 s.mail.mgmtFail 1 } })

/-- A channel is bound once its plot and record are there, and an agreement on a degraded position moves the model.
CHANNEL_BIND that confirms a channel of a placed plot whose plat has a record for it with that member binds it and
keeps the others; an offer is also answered; for a model without a plot or record it binds nothing; a message seen
before is only acknowledged, one that fails authentication counted. DEGRADED_AGREEMENT on a position the model has a
plat for, or on none, while an agreement is open: a model without a plot takes the position and the agreement is over;
one with a plot degrades it. Position 0 returns an idle plot that no request wants to the normal plat, once the links
that plat needs are UP. On a position without a plat, without an agreement, or for no model it changes nothing. A link
loss opens one agreement for each model. (R399, R400, R406, R407.) -/
def Obligations.ChannelsBindAndModelsDegrade : Prop :=
  (∀ (m : MgmtIn) (model : Fin 256) (channel : Fin 4096) (out reply : Bool) (s : State), mgmtFresh s m →
    exec (.channelBind m model channel out reply) s = .next ((mgmtSeenNow s m).takeBind model.val channel.val m.src.toNat out reply)) ∧
  (∀ (m : MgmtIn) (model : Fin 256) (channel : Fin 4096) (out reply : Bool) (s : State), mgmtAgain s m →
    exec (.channelBind m model channel out reply) s = .next (mgmtAcked s m)) ∧
  (∀ (m : MgmtIn) (model : Fin 256) (channel : Fin 4096) (out reply : Bool) (s : State), m.netB = true → (s.box 0).key = none →
    exec (.channelBind m model channel out reply) s = .next (mgmtBad s)) ∧
  (∀ (m : MgmtIn) (model : Fin 256) (channel : Fin 4096) (out : Bool) (s : State) (b : Nat) (p : Plot) (r : Nat), mgmtFresh s m →
    s.plotOfModel (s.modelId model.val) = some b → s.plot b = some p →
    (s.fabRecs p).find? (fun r => leAt p.plat r 1 == (if out then 0 else 1) && leAt p.plat (r + 2) 2 == channel.val &&
      (s.entry model.val).serials.getD (leAt p.plat (r + 1) 1) 0 == m.src.toNat) = some r →
    ∃ t, exec (.channelBind m model channel out true) s = .next t ∧ (⟨b, channel.val, m.src.toNat, out⟩ : ChanBind) ∈ t.fab.chans ∧
      (∀ c, c ∈ s.fab.chans → c ∈ t.fab.chans) ∧ t.mem = s.mem) ∧
  (∀ (i channel peer : Nat) (out : Bool) (s : State) (b : Nat) (p : Plot) (r : Nat), s.chanRecord i channel peer out = some (b, p, r) →
    s.takeBind i channel peer out false = (s.takeBind i channel peer out true).sendBind p true r) ∧
  (∀ (i channel peer : Nat) (out reply : Bool) (s : State), s.chanRecord i channel peer out = none → s.takeBind i channel peer out reply = s) ∧
  (∀ (m : MgmtIn) (model : Fin 256) (channel : Fin 4096) (out reply : Bool) (s : State), mgmtFresh s m → s.plotOfModel (s.modelId model.val) = none →
    ∃ t, exec (.channelBind m model channel out reply) s = .next t ∧ t.fab.chans = s.fab.chans ∧ t.mem = s.mem) ∧
  (∀ (pos : Option (Fin 16)) (model : Fin 256) (t : Nat) (s : State) (x : Model), s.modelOf (s.modelId model.val) = some x → (∀ k, pos = some k → SMap.get [] x.plats k.val ≠ []) →
    s.plotOfModel (s.modelId model.val) = none → pos = some 0 ∨ s.fab.agree.any (fun a => a.model == s.modelId model.val && a.chosen.isNone) = true →
    ∃ y : State, exec (.degradedAgreement model pos t) s = .next y ∧ (y.entry model.val).position = (pos.map (fun k => k.val)).getD x.position ∧
      (∀ a, a ∈ y.fab.agree → a.model ≠ s.modelId model.val)) ∧
  (∀ (pos : Option (Fin 16)) (model : Fin 256) (t : Nat) (s : State) (x : Model) (b : Nat) (p : Plot), s.modelOf (s.modelId model.val) = some x → (∀ k, pos = some k → SMap.get [] x.plats k.val ≠ []) →
    s.plotOfModel (s.modelId model.val) = some b → s.plot b = some p → pos ≠ some 0 → s.fab.agree.any (fun a => a.model == s.modelId model.val && a.chosen.isNone) = true →
    exec (.degradedAgreement model pos t) s = .next (((s.at' t).updFab (fun f => { f with
      agree := f.agree.filter (fun a => a.model != s.modelId model.val) ++ [⟨s.modelId model.val, 0x0407, some (pos.map (fun x => x.val))⟩] })).degrade b)) ∧
  (∀ (pos : Option (Fin 16)) (model : Fin 256) (t : Nat) (s : State) (x : Model) (b : Nat) (p : Plot), s.modelOf (s.modelId model.val) = some x → (∀ k, pos = some k → SMap.get [] x.plats k.val ≠ []) →
    s.plotOfModel (s.modelId model.val) = some b → s.plot b = some p → pos = some 0 → x.position ≠ 0 → p.idle = true → s.plotWanted p = false → x.state = .filled →
    s.linksUp (s.modelId model.val) 0 x = true →
    exec (.degradedAgreement model pos t) s = .next (((s.at' t).updFab (fun f => { f with
      agree := f.agree.filter (fun a => a.model != s.modelId model.val) ++ [⟨s.modelId model.val, 0x0407, some (pos.map (fun x => x.val))⟩] })).degrade b)) ∧
  (∀ (model : Fin 256) (t : Nat) (s : State) (x : Model) (b : Nat) (p : Plot), s.modelOf (s.modelId model.val) = some x →
    s.plotOfModel (s.modelId model.val) = some b → s.plot b = some p → x.position = 0 ∨ p.idle = false ∨ s.plotWanted p = true ∨ x.state ≠ .filled ∨ s.linksUp (s.modelId model.val) 0 x = false →
    exec (.degradedAgreement model (some 0) t) s = .next (s.at' t)) ∧
  (∀ (pos : Option (Fin 16)) (model : Fin 256) (t : Nat) (s : State), pos ≠ some 0 → s.fab.agree.any (fun a => a.model == s.modelId model.val && a.chosen.isNone) = false → exec (.degradedAgreement model pos t) s = .next (s.at' t)) ∧
  (∀ (pos : Fin 16) (model : Fin 256) (t : Nat) (s : State) (x : Model), s.modelOf (s.modelId model.val) = some x → SMap.get [] x.plats pos.val = [] →
    exec (.degradedAgreement model (some pos) t) s = .next (s.at' t)) ∧
  (∀ (pos : Option (Fin 16)) (model : Fin 256) (t : Nat) (s : State), s.modelOf (s.modelId model.val) = none → exec (.degradedAgreement model pos t) s = .next (s.at' t)) ∧
  (∀ (s : State) (id cause : Nat), (∀ a, a ∈ s.fab.agree → a.model ≠ id ∨ a.chosen ≠ none) → (⟨id, cause, none⟩ : Agreement) ∈ (s.startAgree id cause).fab.agree) ∧
  (∀ (s : State) (id k : Nat) (m : Model), s.linksUp id k m = true ↔ ∀ r, r ∈ s.fabRecs (newPlot (SMap.get [] m.plats k) id k m.owner 0 0) →
    leAt (newPlot (SMap.get [] m.plats k) id k m.owner 0 0).plat (r + 4) 2 = 0 ∨
      ∃ i, i < 12 ∧ i ∈ s.directPorts (m.serials.getD (leAt (newPlot (SMap.get [] m.plats k) id k m.owner 0 0).plat (r + 1) 1) 0))

/-- A policy module runs one entry at a time with up to eight waiting, and its calls act within its own parcel. A tick, a
starvation near the plots of the parcel and a step report of it start their entry of a module that runs none, queue up
to eight behind a running one or while an activation switches the core, and count the rest as dropped; a report of
another parcel changes nothing. An overrun removes the module and posts one event. POL_SHARE asks for shares within
the bounds of the parcel, POL_PREEMPT makes its own waiting placement urgent and answers 0x0304 for an ID that names
no model, POL_WEIGHT sets one weight of the starved arbiter within 1 to 8 and posts an event, POL_COUNTERS copies the
counters of the parcel, which the read clears (a reading of R9 that a log entry names), POL_PLOTS copies the plots
with those of others as zero, POL_DONE takes the next entry. A call of a module that runs nothing changes nothing; one
outside its own parcel, arbiter or SRAM answers 0x0105. (R414, R415, R416, R472, 15_headgate.md Table 15-4.) -/
def Obligations.PoliciesAreInvokedAndCall : Prop :=
  (∀ (slot : Fin 4) (t : Nat) (s : State) (p : Policy), s.policy slot.val = some p → (s.parcel p.parcel).state = .enabled → p.running = none →
    s.polHalted slot.val = false → 
    ∃ y : State, exec (.policyTick slot t) s = .next y ∧ y.policy slot.val = some { p with running := some ⟨0, 0⟩ } ∧ (∀ i, i ≠ slot.val → y.policy i = s.policy i) ∧
      y.parcels = s.parcels ∧ y.arbs = s.arbs) ∧
  (∀ (slot : Fin 4) (t : Nat) (s : State) (p : Policy), s.policy slot.val = some p → (s.parcel p.parcel).state = .enabled → (p.running ≠ none ∨ s.polHalted slot.val = true) →
    p.queue.length < 8 →
    ∃ y : State, exec (.policyTick slot t) s = .next y ∧ y.policy slot.val = some { p with queue := p.queue ++ [⟨0, 0⟩] } ∧ (∀ i, i ≠ slot.val → y.policy i = s.policy i)) ∧
  (∀ (slot : Fin 4) (t : Nat) (s : State) (p : Policy), s.policy slot.val = some p → (s.parcel p.parcel).state = .enabled → (p.running ≠ none ∨ s.polHalted slot.val = true) →
    8 ≤ p.queue.length →
    ∃ y : State, exec (.policyTick slot t) s = .next y ∧ y.policy slot.val = some { p with dropped := p.dropped + 1 } ∧ (∀ i, i ≠ slot.val → y.policy i = s.policy i)) ∧
  (∀ (slot : Fin 4) (arb : Fin 112) (s : State) (p : Policy), s.policy slot.val = some p → (s.parcel p.parcel).state = .enabled → p.running = none →
    (s.arb arb.val).starve ≠ 0 → s.arbNear arb.val p.parcel = true → s.polHalted slot.val = false → 
    ∃ y : State, exec (.policyStarve slot arb) s = .next y ∧ y.policy slot.val = some { p with running := some ⟨1, arb.val⟩ } ∧ (∀ i, i ≠ slot.val → y.policy i = s.policy i)) ∧
  (∀ (slot : Fin 4) (lead : Fin 64) (s : State) (p : Policy) (z : Plot), s.policy slot.val = some p → (s.parcel p.parcel).state = .enabled →
    p.running = none → s.plot lead.val = some z → z.parcel = p.parcel → s.polHalted slot.val = false → 
    ∃ y : State, exec (.policyStep slot lead) s = .next y ∧ y.policy slot.val = some { p with running := some ⟨2, lead.val⟩ } ∧ (∀ i, i ≠ slot.val → y.policy i = s.policy i)) ∧
  (∀ (slot : Fin 4) (lead : Fin 64) (s : State) (p : Policy) (z : Plot), s.policy slot.val = some p → s.plot lead.val = some z → z.parcel ≠ p.parcel →
    exec (.policyStep slot lead) s = .next s) ∧
  (∀ (slot : Fin 4) (s : State) (p : Policy), s.policy slot.val = some p → p.running ≠ none →
    ∃ y : State, exec (.policyBudgetOverrun slot) s = .next y ∧ y.policy slot.val = none ∧ (∀ i, i ≠ slot.val → y.policy i = s.policy i) ∧ y.book.next = s.book.next + 1) ∧
  (∀ (slot : Fin 4) (lo hi : BitVec 64) (s : State) (p : Policy), s.policy slot.val = some p → p.running ≠ none →
    ∃ y : State, exec (.polShare slot lo hi) s = .next y ∧ y.policy slot.val = some { p with a0 := 0 } ∧
      y.parcel p.parcel = { s.parcel p.parcel with
        askLo := max (s.parcel p.parcel).pfMin (min (s.parcel p.parcel).pfMax lo.toNat)
        askHi := max (s.parcel p.parcel).pfMin (min (s.parcel p.parcel).pfMax hi.toNat) } ∧
      (∀ n, n ≠ p.parcel → y.parcel n = s.parcel n)) ∧
  (∀ (slot : Fin 4) (model : BitVec 64) (s : State) (p : Policy) (m : Model), s.policy slot.val = some p → p.running ≠ none →
    s.modelOf model.toNat = some m → m.owner = p.parcel →
    ∃ y : State, exec (.polPreempt slot model) s = .next y ∧ y.policy slot.val = some { p with a0 := 0 } ∧
      y.sched.waits = s.sched.waits.map (fun w => if w.model = model.toNat then { w with urgent := true } else w)) ∧
  (∀ (slot : Fin 4) (model : BitVec 64) (s : State) (p : Policy), s.policy slot.val = some p → p.running ≠ none → s.modelOf model.toNat = none →
    ∃ y : State, exec (.polPreempt slot model) s = .next y ∧ y.policy slot.val = some { p with a0 := 0x0304 } ∧ y.sched = s.sched) ∧
  (∀ (slot : Fin 4) (arb r w : BitVec 64) (s : State) (p : Policy), s.policy slot.val = some p → p.running = some ⟨1, arb.toNat⟩ → arb.toNat < 112 →
    r.toNat < arbRequesters arb.toNat →
    ∃ y : State, exec (.polWeight slot arb r w) s = .next y ∧ y.policy slot.val = some { p with a0 := 0 } ∧
      (y.arb arb.toNat).weightOf r.toNat = max 1 (min 8 w.toNat) ∧
      (∀ k, k ≠ r.toNat → (y.arb arb.toNat).weightOf k = (s.arb arb.toNat).weightOf k) ∧ (∀ a, a ≠ arb.toNat → y.arb a = s.arb a) ∧
      y.book.next = s.book.next + 1) ∧
  (∀ (slot : Fin 4) (a0 : BitVec 64) (s : State) (p : Policy), s.policy slot.val = some p → p.running ≠ none → a0.toNat + 40 ≤ 2 ^ 20 →
    ∃ y q, exec (.polCounters slot a0) s = .next y ∧ y.policy slot.val = some q ∧ q.a0 = 0 ∧
      (∀ i, i < 8 → SMap.get 0 q.sram (a0.toNat + i) = (toLe 8 (s.parcel p.parcel).admitted).getD i 0) ∧
      (∀ i, i < a0.toNat ∨ a0.toNat + 40 ≤ i → SMap.get 0 q.sram i = SMap.get 0 p.sram i) ∧
      (y.parcel p.parcel).admitted = 0 ∧ (y.parcel p.parcel).endedLate = 0 ∧ (∀ n, n ≠ p.parcel → y.parcel n = s.parcel n)) ∧
  (∀ (slot : Fin 4) (a0 : BitVec 64) (s : State) (p : Policy), s.policy slot.val = some p → p.running ≠ none → a0.toNat + 1024 ≤ 2 ^ 20 →
    ∃ y q, exec (.polPlots slot a0) s = .next y ∧ y.policy slot.val = some q ∧ q.a0 = 0 ∧ y.blocks = s.blocks ∧
      (∀ b z, b < 64 → s.plot b = some z → z.parcel = p.parcel → SMap.get 0 q.sram (a0.toNat + 16 * b) = BitVec.ofNat 8 z.state.code) ∧
      (∀ b z, b < 64 → s.plot b = some z → z.parcel ≠ p.parcel → p.parcel ≠ 0 → SMap.get 0 q.sram (a0.toNat + 16 * b) = 0) ∧
      (∀ i, i < a0.toNat ∨ a0.toNat + 1024 ≤ i → SMap.get 0 q.sram i = SMap.get 0 p.sram i)) ∧
  (∀ (slot : Fin 4) (s : State) (p : Policy), s.policy slot.val = some p → p.running ≠ none → s.polHalted slot.val = false → 
    ∃ y q, exec (.polDone slot) s = .next y ∧ y.policy slot.val = some q ∧ q.running = p.queue.head? ∧ q.queue = p.queue.drop 1 ∧
      q.sram = p.sram ∧ (∀ i, i ≠ slot.val → y.policy i = s.policy i)) ∧
  (∀ (slot : Fin 4) (t : Nat) (s : State), (s.policy slot.val = none ∨ ∃ p, s.policy slot.val = some p ∧ (s.parcel p.parcel).state ≠ .enabled) →
    exec (.policyTick slot t) s = .next (s.at' t)) ∧
  (∀ (slot : Fin 4) (arb : Fin 112) (s : State) (p : Policy), s.policy slot.val = some p → (s.arb arb.val).starve ≠ 0 → s.arbNear arb.val p.parcel = true →
    exec (.policyStarve slot arb) s = .next (s.polInvoke slot.val 1 arb.val)) ∧
  (∀ (slot : Fin 4) (arb : Fin 112) (s : State), (s.policy slot.val = none ∨ (s.arb arb.val).starve = 0 ∨
    ∃ p, s.policy slot.val = some p ∧ s.arbNear arb.val p.parcel = false) → exec (.policyStarve slot arb) s = .next s) ∧
  (∀ (slot : Fin 4) (lead : Fin 64) (s : State) (p : Policy) (z : Plot), s.policy slot.val = some p → s.plot lead.val = some z → z.parcel = p.parcel →
    exec (.policyStep slot lead) s = .next (s.polInvoke slot.val 2 lead.val)) ∧
  (∀ (slot : Fin 4) (lead : Fin 64) (s : State), s.policy slot.val = none ∨ s.plot lead.val = none → exec (.policyStep slot lead) s = .next s) ∧
  (∀ (slot : Fin 4) (entry arg : Nat) (s : State) (p : Policy), s.policy slot.val = some p → (s.parcel p.parcel).state = .enabled → p.running = none →
    s.polHalted slot.val = false → s.polInvoke slot.val entry arg = s.setPolicy slot.val (some { p with running := some ⟨entry, arg⟩ })) ∧
  (∀ (slot : Fin 4) (entry arg : Nat) (s : State) (p : Policy), s.policy slot.val = some p → (s.parcel p.parcel).state = .enabled →
    (p.running ≠ none ∨ s.polHalted slot.val = true) → p.queue.length < 8 →
    s.polInvoke slot.val entry arg = s.setPolicy slot.val (some { p with queue := p.queue ++ [⟨entry, arg⟩] })) ∧
  (∀ (slot : Fin 4) (entry arg : Nat) (s : State) (p : Policy), s.policy slot.val = some p → (s.parcel p.parcel).state = .enabled →
    (p.running ≠ none ∨ s.polHalted slot.val = true) → 8 ≤ p.queue.length →
    s.polInvoke slot.val entry arg = s.setPolicy slot.val (some { p with dropped := p.dropped + 1 })) ∧
  (∀ (slot : Fin 4) (entry arg : Nat) (s : State) (p : Policy), s.policy slot.val = some p → (s.parcel p.parcel).state ≠ .enabled →
    s.polInvoke slot.val entry arg = s) ∧
  (∀ (slot : Fin 4) (a b c : BitVec 64) (s : State), s.policy slot.val = none ∨ (∃ p, s.policy slot.val = some p ∧ p.running = none) →
    exec (.policyBudgetOverrun slot) s = .next s ∧ exec (.polShare slot a b) s = .next s ∧ exec (.polPreempt slot a) s = .next s ∧
    exec (.polWeight slot a b c) s = .next s ∧ exec (.polCounters slot a) s = .next s ∧ exec (.polPlots slot a) s = .next s ∧
    exec (.polDone slot) s = .next s) ∧
  (∀ (slot : Fin 4) (model : BitVec 64) (s : State) (p : Policy) (m : Model), s.policy slot.val = some p → p.running ≠ none →
    s.modelOf model.toNat = some m → m.owner ≠ p.parcel →
    exec (.polPreempt slot model) s = .next (s.setPolicy slot.val (some { p with a0 := 0x0105 }))) ∧
  (∀ (slot : Fin 4) (arb r w : BitVec 64) (s : State) (p : Policy), s.policy slot.val = some p → p.running ≠ none →
    (p.running ≠ some ⟨1, arb.toNat⟩ ∨ 112 ≤ arb.toNat ∨ arbRequesters arb.toNat ≤ r.toNat) →
    exec (.polWeight slot arb r w) s = .next (s.setPolicy slot.val (some { p with a0 := 0x0105 }))) ∧
  (∀ (slot : Fin 4) (a0 : BitVec 64) (s : State) (p : Policy), s.policy slot.val = some p → p.running ≠ none → 2 ^ 20 < a0.toNat + 40 →
    exec (.polCounters slot a0) s = .next (s.setPolicy slot.val (some { p with a0 := 0x0105 }))) ∧
  (∀ (slot : Fin 4) (a0 : BitVec 64) (s : State) (p : Policy), s.policy slot.val = some p → p.running ≠ none → 2 ^ 20 < a0.toNat + 1024 →
    exec (.polPlots slot a0) s = .next (s.setPolicy slot.val (some { p with a0 := 0x0105 }))) ∧
  (∀ (slot : Fin 4) (s : State) (p : Policy), s.policy slot.val = some p → p.running ≠ none → s.polHalted slot.val = true →
    ∃ y : State, exec (.polDone slot) s = .next y ∧ y.policy slot.val = some { p with running := none, a0 := 0 } ∧ (∀ i, i ≠ slot.val → y.policy i = s.policy i))

/-- A source becomes pending, the first eligible one is taken by its core, and its end clears it; a core without a
heartbeat is reset. A source event and a software interrupt set pending bits and nothing else. The offer to a core is
the pending, enabled source that targets it, of a priority above its threshold and a group above its running ones,
with the greatest priority and then the least number; none while it holds 16. A take clears the pending bit, makes the
source active, counts, saves the pc, clears MIE and goes to the vector. An end clears the active bit, or is counted. A
write of a pending word sets it to the value with the events of that cycle. A watched core whose heartbeat is 100 ms
old is reset, and at the third reset in 10 s held with its duties moved, unless no other runs. A number that is no
source, and a core that does not run or is not watched, change nothing. (R417, R418, R419, R420, R421, R422, R424,
R426, R429, 15_headgate.md Table 15-6.) -/
def Obligations.InterruptsAreRaisedTakenAndEnded : Prop :=
  (∀ (src : Fin 256) (s : State), hicSource src.val = true →
    ∃ y : State, exec (.hicSourceEvent src) s = .next y ∧ (∀ n, n < 256 → y.hic.pend.getLsbD n = (s.hic.pend.getLsbD n || decide (n = src.val))) ∧
      y.hic.active = s.hic.active ∧ y.cores = s.cores ∧ y.mem = s.mem) ∧
  (∀ (v : BitVec 4) (s : State),
    ∃ y : State, exec (.hicSwi v) s = .next y ∧ (∀ n, n < 256 → y.hic.pend.getLsbD n = (s.hic.pend.getLsbD n || (decide (n < 4) && v.getLsbD n))) ∧
      y.hic.active = s.hic.active ∧ y.cores = s.cores) ∧
  (∀ (h : Hic) (c n : Nat), h.offer c = some n → n < 256 ∧ h.eligible c n = true ∧ (h.of c).length < 16 ∧
    ∀ m, m < 256 → h.eligible c m = true → SMap.get 0 h.prio m < SMap.get 0 h.prio n ∨ (SMap.get 0 h.prio m = SMap.get 0 h.prio n ∧ n ≤ m)) ∧
  (∀ (h : Hic) (c : Nat), h.offer c = none → 16 ≤ (h.of c).length ∨ ∀ m, m < 256 → h.eligible c m = false) ∧
  (∀ (h : Hic) (c n : Nat), h.eligible c n = true ↔ (h.pend.getLsbD n = true ∧ h.en.getLsbD n = true ∧ SMap.get 0 h.target n = c ∧
    SMap.get 0 h.thresh c < SMap.get 0 h.prio n ∧ SMap.get 0 h.prio n ≠ 0 ∧ h.enable = true ∧
    ∀ a, a ∈ h.of c → h.group a.prio < h.group (SMap.get 0 h.prio n))) ∧
  (∀ (core : Fin 4) (pc : BitVec 64) (s : State) (n : Nat), (s.core core.val).running = true → (s.core core.val).held = false →
    s.hic.offer core.val = some n →
    ∃ y : State, exec (.hicTake ⟨core, pc, true, true⟩) s = .next y ∧ (∀ m, m < 256 → y.hic.pend.getLsbD m = (s.hic.pend.getLsbD m && decide (m ≠ n))) ∧
      y.hic.active = s.hic.active ++ [⟨core.val, n, SMap.get 0 s.hic.prio n⟩] ∧
      SMap.get 0 y.hic.takeCnt core.val = satAdd 48 (SMap.get 0 s.hic.takeCnt core.val) 1 ∧
      (y.core core.val).mie = false ∧ (y.core core.val).mpie = true ∧ (y.core core.val).mepc = pc ∧
      (y.core core.val).pc = BitVec.ofNat 64 (SMap.get 0 s.hic.vbase core.val + 64 * n) ∧ (∀ c, c ≠ core.val → y.core c = s.core c)) ∧
  (∀ (x : CoreIn) (s : State), x.mie = false ∨ x.meie = false ∨ s.hic.offer x.core.val = none →
    exec (.hicTake x) s = .next s) ∧
  (∀ (core : Fin 4) (src : BitVec 8) (s : State) (a : HicActive), a ∈ s.hic.active → a.core = core.val → a.src = src.toNat →
    ∃ y : State, exec (.hicEoi core src) s = .next y ∧ (∀ x, x ∈ y.hic.active ↔ x ∈ s.hic.active ∧ ¬ (x.core = core.val ∧ x.src = src.toNat)) ∧
      y.hic.pend = s.hic.pend ∧ y.hic.badEoi = s.hic.badEoi ∧ y.cores = s.cores) ∧
  (∀ (core : Fin 4) (src : BitVec 8) (s : State), (∀ a, a ∈ s.hic.active → a.core ≠ core.val ∨ a.src ≠ src.toNat) →
    ∃ y : State, exec (.hicEoi core src) s = .next y ∧ SMap.get 0 y.hic.badEoi core.val = satAdd 32 (SMap.get 0 s.hic.badEoi core.val) 1 ∧
      y.hic.active = s.hic.active ∧ y.hic.pend = s.hic.pend ∧ y.cores = s.cores) ∧
  (∀ (w : Fin 4) (v events : BitVec 64) (taker : Option CoreIn) (s x : State), (taker.elim s (fun c => s.take c)) = x →
    ∃ y : State, exec (.hicPendWrite w v events taker) s = .next y ∧ (∀ n, n < 256 → y.hic.pend.getLsbD n =
      if n / 64 = w.val then v.getLsbD (n % 64) || events.getLsbD (n % 64) else x.hic.pend.getLsbD n) ∧
      y.hic.active = x.hic.active ∧ y.cores = x.cores) ∧
  (∀ (core : Fin 4) (t : Nat) (s : State), s.watched core.val = true → (s.core core.val).heartbeat + 100000000 ≤ (s.at' t).now →
    ∃ y : State, exec (.heartbeatTimeout core t) s = .next y ∧ (y.core core.val).pc = 0 ∧ (y.core core.val).mie = false ∧
      (y.core core.val).heartbeat = (s.at' t).now ∧ (∀ a, a ∈ y.hic.active → a.core ≠ core.val) ∧ y.book.next = s.book.next + 1 ∧
      (((s.core core.val).resets.filter (fun x => decide ((s.at' t).now < x + 10000000000))).length < 2 →
        (y.core core.val).held = false ∧ (y.core core.val).duties = (s.core core.val).duties ∧ ∀ c, c ≠ core.val → y.core c = s.core c)) ∧
  (∀ (core : Fin 4) (t : Nat) (s : State) (c : Nat), s.watched core.val = true → (s.core core.val).heartbeat + 100000000 ≤ (s.at' t).now →
    2 ≤ ((s.core core.val).resets.filter (fun x => decide ((s.at' t).now < x + 10000000000))).length →
    c < 4 → c ≠ core.val → (s.core c).running = true → (s.core c).held = false →
    ∃ y : State, exec (.heartbeatTimeout core t) s = .next y ∧ (y.core core.val).held = true ∧ (y.core core.val).duties = 0 ∧ y.book.next = s.book.next + 1) ∧
  (∀ (core : Fin 4) (t : Nat) (s : State), (s.at' t).now < (s.core core.val).heartbeat + 100000000 → exec (.heartbeatTimeout core t) s = .next (s.at' t)) ∧
  (∀ (src : Fin 256) (s : State), hicSource src.val = false → exec (.hicSourceEvent src) s = .next s) ∧
  (∀ (x : CoreIn) (s : State), (s.core x.core.val).running = false ∨ (s.core x.core.val).held = true → exec (.hicTake x) s = .next s) ∧
  (∀ (core : Fin 4) (t : Nat) (s : State), s.watched core.val = true → (s.core core.val).heartbeat + 100000000 ≤ (s.at' t).now →
    (∀ c, c < 4 → c ≠ core.val → (s.core c).running = false ∨ (s.core c).held = true) →
    ∃ y : State, exec (.heartbeatTimeout core t) s = .next y ∧ (y.core core.val).held = false ∧ (y.core core.val).pc = 0 ∧
      (y.core core.val).duties = (s.core core.val).duties ∧ ∀ c, c ≠ core.val → y.core c = s.core c) ∧
  (∀ (core : Fin 4) (t : Nat) (s : State), s.watched core.val = false → exec (.heartbeatTimeout core t) s = .next (s.at' t))

/-- Events are numbered and kept in the ring, pages and store banks are written as their conditions hold, and the ring
comes back from the log. A posted event takes the next number, stands last in a ring of at most 4,096 with the time
and its fields, and waits for a page. A page is written when 127 records wait or one is to be flushed at once, and not
before; the timer writes one after 10 s. STORE_COMMIT erases the other bank and posts the whole image, and leaves the
current bank; its completion makes that bank valid and current, and a failed one is recorded and stays. When the
auxiliary input comes back the ring is the end of the log, numbers go on above it, and a latched trip is gone. A
completed commit that holds the key of parcel 0 ends the requests that wait for it. (R431, R432, R434, R435, R440,
R474, 15_headgate.md Tables 15-8 and 15-13.) -/
def Obligations.TheLogAndTheStoreAreWritten : Prop :=
  (∀ (src : BitVec 8) (code status parcel : BitVec 16) (unit : BitVec 32) (detail : BitVec 64) (t : Nat) (s : State),
    ∃ y : State, exec (.fieldbookEventPost src code status parcel unit detail t) s = .next y ∧ y.book.next = s.book.next + 1 ∧
      y.book.ring.getLast? = some ⟨s.book.next, src.toNat, if s.time.valid then 1 else 0, status.toNat, (if s.time.valid then (s.at' t).now else (s.at' t).now + s.book.ahead), parcel.toNat, code.toNat, unit.toNat, detail⟩ ∧
      y.book.ring.length ≤ 4096 ∧ y.book.waiting = s.book.waiting + 1 ∧ y.book.pages = s.book.pages ∧ y.mem = s.mem) ∧
  (∀ (t : Nat) (s : State), 127 ≤ s.book.fresh.length →
    ∃ y : State, exec (.logPageWrite t) s = .next y ∧ y.book.pages.getLast? = some ⟨s.book.pageSeq, s.book.fresh.take 127⟩ ∧
      y.book.pageSeq = s.book.pageSeq + 1 ∧ y.book.waiting + 127 = s.book.fresh.length ∧ y.book.ring = s.book.ring ∧ y.book.lastPage = (s.at' t).now ∧
      y.book.next = s.book.next) ∧
  (∀ (t : Nat) (s : State), s.book.fresh.length < 127 → (∀ r, r ∈ s.book.fresh → r.flushes = false) → exec (.logPageWrite t) s = .next (s.at' t)) ∧
  (∀ (t : Nat) (s : State) (r : FbRec), r ∈ s.book.fresh → (r.status = 0x0501 ∨ r.src = 9) →
    ∃ y : State, exec (.logPageWrite t) s = .next y ∧ y.book.pages.getLast? = some ⟨s.book.pageSeq, s.book.fresh.take 127⟩) ∧
  (∀ (t : Nat) (s : State), s.book.lastPage + 10000000000 ≤ (s.at' t).now → s.book.fresh ≠ [] → s.book.fresh.length ≤ 127 →
    ∃ y : State, exec (.logFlushTimer t) s = .next y ∧ y.book.pages.getLast? = some ⟨s.book.pageSeq, s.book.fresh⟩ ∧ y.book.waiting = 0) ∧
  (∀ (t : Nat) (s : State), (s.at' t).now < s.book.lastPage + 10000000000 → exec (.logFlushTimer t) s = .next (s.at' t)) ∧
  (∀ (t : Nat) (s : State), s.store.running = none →
    ∃ y : State, exec (.storeCommit t) s = .next y ∧ y.store.running = some (s.at' t).storeImage ∧ y.store.waiting = false ∧
      SMap.get StoreBank.clear y.store.banks s.store.other = ⟨false, s.store.seq + 1, []⟩ ∧
      SMap.get StoreBank.clear y.store.banks s.store.current = SMap.get StoreBank.clear s.store.banks s.store.current ∧
      y.store.current = s.store.current ∧ y.parcels = s.parcels ∧ y.book = s.book) ∧
  (∀ (t : Nat) (s : State), s.store.running ≠ none → exec (.storeCommit t) s = .next (s.at' t)) ∧
  (∀ (t : Nat) (s : State) (img : List StoreRec), s.store.running = some img → s.sec.keyWaits = [] →
    ∃ y : State, exec (.storeCommitComplete true t) s = .next y ∧ y.store.running = none ∧ y.store.current = s.store.other ∧
      SMap.get StoreBank.clear y.store.banks s.store.other = ⟨true, s.store.seq + 1, img⟩ ∧ y.store.commits = s.store.commits + 1 ∧
      SMap.get StoreBank.clear y.store.banks s.store.current = SMap.get StoreBank.clear s.store.banks s.store.current ∧ y.book = s.book) ∧
  (∀ (t : Nat) (s : State) (img : List StoreRec), s.store.running = some img →
    ∃ y : State, exec (.storeCommitComplete false t) s = .next y ∧ y.store = s.store ∧ y.book.next = s.book.next + 1) ∧
  (∀ (t : Nat) (s : State), ∃ y : State, exec (.auxiliaryInputReturn t) s = .next y ∧ y.book.pages = s.book.pages ∧ y.book.waiting = 0 ∧ y.book.ring.length ≤ 4096 ∧
    y.book.ring <:+ s.book.pages.flatMap (fun p => p.recs) ∧ (∀ r, r ∈ y.book.ring → r.num < y.book.next) ∧ y.power.trip = false ∧
    y.store = s.store ∧ y.mem = s.mem) ∧
  (∀ (t : Nat) (s : State) (r : FbRec), r ∈ s.book.fresh → r.flushes = true →
    ∃ y : State, exec (.logPageWrite t) s = .next y ∧ y.book.pages.getLast? = some ⟨s.book.pageSeq, s.book.fresh.take 127⟩ ∧ y.book.lastPage = (s.at' t).now) ∧
  (∀ (r : FbRec), r.flushes = true ↔ r.status = 0x0501 ∨ r.status = 0x0502 ∨ r.src = 9 ∨ r.src = 10) ∧
  (∀ (t : Nat) (s : State), s.book.lastPage + 10000000000 ≤ (s.at' t).now → s.book.fresh ≠ [] →
    ∃ y : State, exec (.logFlushTimer t) s = .next y ∧ y.book.pages.getLast? = some ⟨s.book.pageSeq, s.book.fresh.take 127⟩ ∧
      y.book.waiting = s.book.fresh.length - 127) ∧
  (∀ (t : Nat) (s : State), s.book.fresh = [] → exec (.logFlushTimer t) s = .next (s.at' t)) ∧
  (∀ (ok : Bool) (t : Nat) (s : State), s.store.running = none → exec (.storeCommitComplete ok t) s = .next (s.at' t)) ∧
  (∀ (t : Nat) (s : State) (img : List StoreRec), s.store.running = some img →
    ∃ y : State, exec (.storeCommitComplete true t) s = .next y ∧ y.store.running = none ∧ y.store.current = s.store.other ∧
      SMap.get StoreBank.clear y.store.banks s.store.other = ⟨true, s.store.seq + 1, img⟩ ∧ y.store.commits = s.store.commits + 1 ∧
      (y.sec.keyWaits = [] ∨ y.sec.keyWaits = s.sec.keyWaits) ∧ y.mem = s.mem) ∧
  (∀ (t : Nat) (s : State) (img : List StoreRec) (k : Bytes), s.store.running = some img → (s.box 0).key = some k → ⟨2, keyWrap storeKey k⟩ ∈ img →
    ∃ y : State, exec (.storeCommitComplete true t) s = .next y ∧ y.sec.keyWaits = [] ∧ y.store.current = s.store.other)

/-- The cap, the temperatures and the holds move the ceilings of the array clock and the mode as their rules say. A tick
over the cap lowers the ceiling of every quadrant that is on, one step and not below 8; 10 ms under 95 % of it raises
them; 10 ms over it at the floor limits and posts. A quadrant at 95 °C steps its thermal ceiling down, not below 12,
between 90 and 95 holds it, and under 90 for 10 ms steps it up. The clock of a group is the least ceiling, set
together and not while a plot switches. 105 °C puts the module into Quiet with the clocks stopped; the hold ends below
85 °C after 1 s, with the ceilings at 12. A brownout sets the voltage ceiling to 10 until the input is back. A hold of
the coolant ends when it is back and the module is cold; the module goes to the state last asked for, or drains on in
SERVE. Where the conditions do not hold nothing changes. (R451, R452, R454, R455, R457, 16_power_clocks_thermal.md
Tables 16-7 and 16-8.) -/
def Obligations.TheClockFollowsPowerAndTemperature : Prop :=
  (∀ (vm im va avg : BitVec 16) (t : Nat) (s : State), s.power.mode ≠ .off → s.power.cap < avg.toNat → s.power.capFloor = false → s.power.quadsOn ≠ [] →
    ∃ y : State, exec (.powerCapTick vm im va avg t) s = .next y ∧
      (∀ i, i ∈ s.power.quadsOn → SMap.get 19 y.power.capCeil i = max 8 (SMap.get 19 s.power.capCeil i - 1)) ∧ (∀ i, i < 4 → i ∉ s.power.quadsOn → SMap.get 19 y.power.capCeil i = SMap.get 19 s.power.capCeil i) ∧
      y.power.capCnt = satAdd 32 s.power.capCnt 1 ∧ y.power.vmain = vm.toNat ∧ y.power.imain = im.toNat ∧ y.power.vaux = va.toNat ∧ y.power.avg = avg.toNat) ∧
  (∀ (vm im va avg : BitVec 16) (t : Nat) (s : State), s.power.mode ≠ .off → 100 * avg.toNat < 95 * s.power.cap → s.power.capLow = 99 →
    ∃ y : State, exec (.powerCapTick vm im va avg t) s = .next y ∧
      (∀ i, i ∈ s.power.quadsOn → SMap.get 19 y.power.capCeil i = min 19 (SMap.get 19 s.power.capCeil i + 1)) ∧ (∀ i, i < 4 → i ∉ s.power.quadsOn → SMap.get 19 y.power.capCeil i = SMap.get 19 s.power.capCeil i) ∧
      y.power.capCnt = s.power.capCnt) ∧
  (∀ (vm im va avg : BitVec 16) (t : Nat) (s : State), s.power.mode ≠ .off → s.power.cap < avg.toNat → s.power.capFloor = true → s.power.capHigh = 99 →
    s.power.capLimited = false →
    ∃ y : State, exec (.powerCapTick vm im va avg t) s = .next y ∧ y.power.capLimited = true ∧ y.power.event = setBitN s.power.event 5 ∧
      y.hic.pend.getLsbD 226 = true ∧ y.book.next = s.book.next + 1 ∧ (∀ i, SMap.get 19 y.power.capCeil i = SMap.get 19 s.power.capCeil i)) ∧
  (∀ (x : Samples) (t : Nat) (s : State) (q : Nat), s.power.mode ≠ .off → q < 4 → 95 ≤ (quadTemp x q).1 → SMap.get 0 s.power.thermDir q ≠ 1 →
    ∃ y : State, exec (.thermalSample x t) s = .next y ∧
      SMap.get 19 y.power.thermCeil q = (if SMap.get 19 s.power.thermCeil q ≤ 12 then SMap.get 19 s.power.thermCeil q else SMap.get 19 s.power.thermCeil q - 1) ∧
      SMap.get 0 y.power.thermDir q = 1 ∧ y.power.mode = s.power.mode ∧ (SMap.get 19 s.power.thermCeil q = 19 → y.hic.pend.getLsbD 225 = true)) ∧
  (∀ (x : Samples) (t : Nat) (s : State) (q : Nat), s.power.mode ≠ .off → q < 4 → (quadTemp x q).1 < 95 → 90 ≤ (quadTemp x q).1 →
    ∃ y : State, exec (.thermalSample x t) s = .next y ∧ SMap.get 19 y.power.thermCeil q = SMap.get 19 s.power.thermCeil q ∧ SMap.get 0 y.power.thermDir q = 0) ∧
  (∀ (x : Samples) (t : Nat) (s : State) (q : Nat), s.power.mode ≠ .off → q < 4 → (quadTemp x q).1 < 90 → SMap.get 19 s.power.thermCeil q < 19 →
    SMap.get 0 s.power.thermDir q = 2 → SMap.get 0 s.power.thermAt q + 10000000 ≤ (s.at' t).now →
    ∃ y : State, exec (.thermalSample x t) s = .next y ∧ SMap.get 19 y.power.thermCeil q = SMap.get 19 s.power.thermCeil q + 1) ∧
  (∀ (p : Power) (q : Nat), p.ceil q ≤ SMap.get 19 p.thermCeil q ∧ p.ceil q ≤ SMap.get 19 p.capCeil q ∧ p.ceil q ≤ SMap.get 19 p.voltCeil q ∧ p.ceil q ≤ 19) ∧
  (∀ (s : State) (q x : Nat), x ∈ s.clockGroup q → s.clockOf q ≤ s.power.ceil x) ∧
  (∀ (quad : Fin 4) (t : Nat) (s : State), s.power.mode = .serve → (∀ b p, s.plot b = some p → p.state ≠ .switching) →
    ∃ y : State, exec (.frequencyChange quad t) s = .next y ∧
      (∀ q, q ∈ s.clockGroup quad.val → bitB s.power.array q = true → SMap.get 19 y.power.freq q = s.clockOf quad.val) ∧
      (∀ q, q ∉ s.clockGroup quad.val → SMap.get 19 y.power.freq q = SMap.get 19 s.power.freq q) ∧ y.power.mode = .serve ∧ y.blocks = s.blocks) ∧
  (∀ (quad : Fin 4) (t : Nat) (s : State) (b : Nat) (p : Plot) (q : Nat), b < 64 → s.plot b = some p → p.state = .switching → q ∈ p.quads →
    q ∈ s.clockGroup quad.val → exec (.frequencyChange quad t) s = .next (s.at' t)) ∧
  (∀ (unit temp : BitVec 8) (t : Nat) (s : State), s.power.mode ≠ .off → s.power.mode ≠ .starting → s.power.thermHold = false →
    ∃ y : State, exec (.thermalLimit unit temp t) s = .next y ∧ y.power.mode = .quiet ∧ y.power.thermHold = true ∧ y.power.coolHold = s.power.coolHold ∧
      y.power.going = none ∧ (∀ q, q < 4 → SMap.get 19 y.power.freq q = 0)) ∧
  (∀ (t : Nat) (s : State), s.power.thermHold = true → s.power.coolHold = false → SMap.get 0 s.power.temps 9 < 85 →
    s.power.hotAt + 1000000000 ≤ (s.at' t).now → s.power.wanted = .serve → s.serve.rings = [] → s.power.waits = [] →
    ∃ y : State, exec (.holdRelease false t) s = .next y ∧ y.power.mode = .serve ∧ y.power.thermHold = false ∧
      (∀ q, q < 4 → SMap.get 19 y.power.thermCeil q = 12)) ∧
  (∀ (coolant : Bool) (t : Nat) (s : State), s.power.thermHold = true → s.power.coolHold = false → 85 ≤ SMap.get 0 s.power.temps 9 →
    ∃ y : State, exec (.holdRelease coolant t) s = .next y ∧ y.power.thermHold = true ∧ y.power.mode = s.power.mode ∧ y.power.freq = s.power.freq) ∧
  (∀ (mv : BitVec 16) (t : Nat) (s : State), s.power.mode ≠ .off → s.power.brownout = false →
    ∃ y : State, exec (.brownoutEnter mv t) s = .next y ∧ y.power.brownout = true ∧ (∀ q, q < 4 → SMap.get 19 y.power.voltCeil q = 10) ∧
      y.power.event = setBitN s.power.event 4 ∧ y.power.mode = s.power.mode ∧ y.book.next = s.book.next + 1) ∧
  (∀ (mv : BitVec 16) (t : Nat) (s : State), s.power.brownout = true →
    ∃ y : State, exec (.brownoutRelease mv t) s = .next y ∧ y.power.brownout = false ∧ (∀ q, SMap.get 19 y.power.voltCeil q = 19) ∧
      y.power.mode = s.power.mode ∧ y.book.next = s.book.next + 1) ∧
  (∀ (vm im va avg : BitVec 16) (t : Nat) (s : State), s.power.mode = .off →
    exec (.powerCapTick vm im va avg t) s = .next ((s.at' t).updPower (fun p => { p with vmain := vm.toNat, vaux := va.toNat }))) ∧
  (∀ (vm im va avg : BitVec 16) (t : Nat) (s : State), s.power.mode ≠ .off → avg.toNat ≤ s.power.cap →
    95 * s.power.cap ≤ 100 * avg.toNat ∨ s.power.capLow < 99 →
    ∃ y : State, exec (.powerCapTick vm im va avg t) s = .next y ∧ y.power.capCeil = s.power.capCeil ∧ y.power.capLimited = false ∧
      y.power.capLow = (if 100 * avg.toNat < 95 * s.power.cap then s.power.capLow + 1 else 0) ∧ y.book = s.book) ∧
  (∀ (vm im va avg : BitVec 16) (t : Nat) (s : State), s.power.mode ≠ .off → s.power.cap < avg.toNat → s.power.capFloor = true →
    s.power.capHigh < 99 ∨ s.power.capLimited = true →
    ∃ y : State, exec (.powerCapTick vm im va avg t) s = .next y ∧ y.power.capCeil = s.power.capCeil ∧ y.power.capLimited = s.power.capLimited ∧
      y.power.capHigh = min 100 (s.power.capHigh + 1) ∧ y.book = s.book) ∧
  (∀ (x : Samples) (t : Nat) (s : State), s.power.mode = .off → exec (.thermalSample x t) s = .next (s.at' t)) ∧
  (∀ (x : Samples) (t : Nat) (s : State) (q : Nat), s.power.mode ≠ .off → q < 4 → 95 ≤ (quadTemp x q).1 → SMap.get 0 s.power.thermDir q = 1 →
    ∃ y : State, exec (.thermalSample x t) s = .next y ∧ SMap.get 19 y.power.thermCeil q =
      if SMap.get 0 s.power.thermAt q + 1000000 ≤ (s.at' t).now ∧ 12 < SMap.get 19 s.power.thermCeil q
        then SMap.get 19 s.power.thermCeil q - 1 else SMap.get 19 s.power.thermCeil q) ∧
  (∀ (x : Samples) (t : Nat) (s : State) (q : Nat), s.power.mode ≠ .off → q < 4 → (quadTemp x q).1 < 90 → SMap.get 19 s.power.thermCeil q < 19 →
    SMap.get 0 s.power.thermDir q ≠ 2 →
    ∃ y : State, exec (.thermalSample x t) s = .next y ∧ SMap.get 19 y.power.thermCeil q = SMap.get 19 s.power.thermCeil q ∧
      SMap.get 0 y.power.thermDir q = 2 ∧ SMap.get 0 y.power.thermAt q = (s.at' t).now) ∧
  (∀ (x : Samples) (t : Nat) (s : State) (q : Nat), s.power.mode ≠ .off → q < 4 → (quadTemp x q).1 < 90 →
    19 ≤ SMap.get 19 s.power.thermCeil q ∨ (SMap.get 0 s.power.thermDir q = 2 ∧ (s.at' t).now < SMap.get 0 s.power.thermAt q + 10000000) →
    ∃ y : State, exec (.thermalSample x t) s = .next y ∧ SMap.get 19 y.power.thermCeil q = SMap.get 19 s.power.thermCeil q) ∧
  (∀ (quad : Fin 4) (t : Nat) (s : State), s.power.mode ≠ .serve → exec (.frequencyChange quad t) s = .next (s.at' t)) ∧
  (∀ (unit temp : BitVec 8) (t : Nat) (s : State), s.power.mode = .off ∨ s.power.mode = .starting ∨ s.power.thermHold = true →
    exec (.thermalLimit unit temp t) s = .next (s.at' t)) ∧
  (∀ (coolant : Bool) (t : Nat) (s : State), s.power.thermHold = false → s.power.coolHold = false → exec (.holdRelease coolant t) s = .next (s.at' t)) ∧
  (∀ (coolant : Bool) (t : Nat) (s : State), s.power.thermHold = true → s.power.coolHold = false → SMap.get 0 s.power.temps 9 < 85 →
    s.power.hotAt + 1000000000 ≤ (s.at' t).now → exec (.holdRelease coolant t) s = .next ((s.at' t).leaveHold 1)) ∧
  (∀ (coolant : Bool) (t : Nat) (s : State), s.power.coolHold = true → s.power.coolOk = true → SMap.get 0 s.power.temps 9 < 85 →
    s.power.thermHold = false ∨ s.power.hotAt + 1000000000 ≤ (s.at' t).now → exec (.holdRelease coolant t) s = .next ((s.at' t).leaveHold 2)) ∧
  (∀ (t : Nat) (s : State), s.power.coolHold = true → s.power.coolOk = false → SMap.get 0 s.power.temps 9 < 85 →
    s.power.thermHold = false ∨ s.power.hotAt + 1000000000 ≤ (s.at' t).now → exec (.holdRelease true t) s =
      .next (((((s.at' t).updPower (fun p => { p with coolOk := true })).postPower false 0x0B 0 0x42 0).pwrEvent 3).leaveHold 2)) ∧
  (∀ (t : Nat) (s : State), s.power.coolHold = true → s.power.coolOk = false →
    ∃ y : State, exec (.holdRelease false t) s = .next y ∧ y.power.coolHold = true ∧ y.power.coolOk = false ∧ y.power.mode = s.power.mode) ∧
  (∀ (cause : Nat) (s : State), s.isDrainedAll = false → s.power.wanted = .quiet ∨ s.power.wanted = .dormant ∨ s.power.wanted = .off →
    (s.leaveHold cause).power.mode = .serve ∧ (s.leaveHold cause).power.going = some s.power.wanted ∧ (s.leaveHold cause).power.thermHold = false ∧
      (s.leaveHold cause).power.coolHold = false) ∧
  (∀ (cause : Nat) (s : State), s.isDrainedAll = true → s.power.wanted = .quiet ∨ s.power.wanted = .dormant ∨ s.power.wanted = .off →
    (s.leaveHold cause).power.mode = s.power.mode ∧ (s.leaveHold cause).power.thermHold = false ∧ (s.leaveHold cause).power.coolHold = false ∧
      (s.power.wanted ≠ .quiet → (s.leaveHold cause).power.going = some s.power.wanted)) ∧
  (∀ (mv : BitVec 16) (t : Nat) (s : State), s.power.mode = .off ∨ s.power.brownout = true → exec (.brownoutEnter mv t) s = .next (s.at' t)) ∧
  (∀ (mv : BitVec 16) (t : Nat) (s : State), s.power.brownout = false → exec (.brownoutRelease mv t) s = .next (s.at' t))

/-- Trips, failures, coolant loss, drains, wakes, gating and power-up change the power state, and what a cut loses is
lost. A trip and a power failure cut the rails: the module is Off with the cause kept, tiles, plots, requests and
memory are lost, and the store and firmware banks stay. Loss of coolant holds the module in Quiet with the clocks
stopped, ends a start in Off, and after 5 s takes it to Off. A drain that has ended takes the module to Quiet, Dormant
or Off as asked, and one that has not changes nothing. A wake from Quiet brings SERVE with the clocks on. An empty
quadrant is gated after its time, FIELD with it where no carve-out needs it, and a busy one is not. Power-up with a
valid bank serves on that bank; without one the module stays and records it. Precharge closes the main path; the end
of an EXTEST in Quiet with no parcel enabled goes to Off. A quadrant taken out loses both domains when it is empty.
Where the conditions do not hold nothing changes. (R443, R444, R445, R446, R448, R456, R458, R459, R460, R461, R490,
16_power_clocks_thermal.md Tables 16-2 and 16-5.) -/
def Obligations.PowerStatesChangeAndFail : Prop :=
  (∀ (die : Fin 5) (t : Nat) (s : State), s.power.mode ≠ .off →
    ∃ y : State, exec (.hardwareTrip die t) s = .next y ∧ y.power.mode = .off ∧ y.power.trip = true ∧ y.tiles = [] ∧ y.blocks = [] ∧ y.mem = State.reset.mem ∧
      y.serve.reqs = [] ∧ y.store.banks = s.store.banks ∧ y.sec.banks = s.sec.banks ∧ y.book.next = s.book.next + 1 ∧ y.slot = s.slot) ∧
  (∀ (cause : Fin 3) (mv : BitVec 16) (t : Nat) (s : State), s.power.mode ≠ .off →
    ∃ y : State, exec (.powerFail cause mv t) s = .next y ∧ y.power.mode = .off ∧ y.power.offCause = (if cause.val = 0 then 2 else if cause.val = 1 then 1 else 3) ∧
      y.tiles = [] ∧ y.blocks = [] ∧ y.mem = State.reset.mem ∧ y.serve.reqs = []) ∧
  (∀ (t : Nat) (s : State), s.power.mode = .starting → s.power.coolHold = false ∨ s.power.coolOk = true →
    ∃ y : State, exec (.coolantLost t) s = .next y ∧ y.power.mode = .off ∧ y.power.offCause = 4 ∧ y.power.coolOk = false) ∧
  (∀ (t : Nat) (s : State), s.power.mode ≠ .off → s.power.mode ≠ .starting → s.power.coolHold = false ∨ s.power.coolOk = true →
    ∃ y : State, exec (.coolantLost t) s = .next y ∧ y.power.mode = .quiet ∧ y.power.coolHold = true ∧ y.power.coolOk = false ∧ y.power.holdAt = (s.at' t).now ∧
      (∀ q, q < 4 → SMap.get 19 y.power.freq q = 0)) ∧
  (∀ (t : Nat) (s : State), s.power.coolHold = true → s.power.coolOk = false → s.power.holdAt + 5000000000 ≤ (s.at' t).now →
    ∃ y : State, exec (.coolantOffTimeout t) s = .next y ∧ y.power.mode = .off ∧ y.power.offCause = 4 ∧ y.serve.reqs = [] ∧ y.tiles = []) ∧
  (∀ (t : Nat) (s : State), s.power.coolHold = false ∨ s.power.coolOk = true → exec (.coolantOffTimeout t) s = .next (s.at' t)) ∧
  (∀ (t : Nat) (s : State), s.isDrainedAll = true → s.power.going = some .quiet → s.power.mode = .serve →
    ∃ y : State, exec (.powerStateDrainDone t) s = .next y ∧ y.power.mode = .quiet ∧ y.power.going = none ∧ (∀ q, q < 4 → SMap.get 19 y.power.freq q = 0) ∧
      y.power.array = s.power.array ∧ y.blocks = s.blocks ∧ y.tiles = s.tiles ∧ y.mem = s.mem) ∧
  (∀ (t : Nat) (s : State), s.isDrainedAll = true → s.power.going = some .off →
    ∃ y : State, exec (.powerStateDrainDone t) s = .next y ∧ y.power.mode = .off ∧ y.power.offCause = 1 ∧ y.power.mainClosed = false ∧ y.tiles = []) ∧
  (∀ (t : Nat) (s : State), s.isDrainedAll = true → s.power.going = some .dormant →
    ∃ y : State, exec (.powerStateDrainDone t) s = .next y ∧ y.power.mode = .dormant ∧ y.power.going = none ∧ y.power.mem = 0 ∧
      (y.core 1).running = false ∧ (y.core 2).running = false ∧ (y.core 3).running = false) ∧
  (∀ (t : Nat) (s : State), s.isDrainedAll = false → exec (.powerStateDrainDone t) s = .next (s.at' t)) ∧
  (∀ (t : Nat) (s : State), s.power.going = some .serve → s.power.mode = .quiet → s.serve.rings = [] →
    ∃ y : State, exec (.wake t) s = .next y ∧ y.power.mode = .serve ∧ y.power.going = none ∧ y.tiles = s.tiles ∧ y.mem = s.mem ∧
      (∀ q, q < 4 → SMap.get 19 y.power.freq q = if bitB s.power.array q then s.clockOf q else 0)) ∧
  (∀ (quad : Fin 4) (t : Nat) (s : State), s.quadBusy quad.val = false → s.power.mode = .serve → s.power.qgateMs ≠ 0 → bitB s.power.array quad.val = true →
    (∀ j, j ∈ s.power.jobs → j.quad ≠ quad.val) → SMap.get 0 s.power.emptyAt quad.val + 1000000 * s.power.qgateMs ≤ (s.at' t).now →
    ∃ y : State, exec (.quadrantGate quad t) s = .next y ∧ y.power.array = clearBitN s.power.array quad.val ∧ SMap.get 19 y.power.freq quad.val = 0 ∧
      (y.power.field = (if (s.quad quad.val).pondPages = 0 ∧ (s.quad quad.val).cistPages = 0 then clearBitN s.power.field quad.val else s.power.field)) ∧
      (∀ g, g / 1024 ≠ quad.val → y.tile g = s.tile g) ∧ (∀ b, blockQuad b ≠ quad.val → y.block b = s.block b)) ∧
  (∀ (quad : Fin 4) (t : Nat) (s : State), s.quadBusy quad.val = true → exec (.quadrantGate quad t) s = .next (s.at' t)) ∧
  (∀ (slot : Fin 4) (quads : List QuadUp) (t : Nat) (s : State) (o : Option (Nat × Option Nat)), s.power.mode = .off ∨ s.power.mode = .starting → s.power.mainClosed = true →
    s.power.offCause ≠ 3 → s.sec.boot = o →
    ∃ y : State, exec (.powerUpFromOff slot quads t) s = .next y ∧ (o = none → y.power = s.power ∧ y.now = 0 ∧ y.book.next = s.book.next + 1) ∧
      (∀ b z, o = some (b, z) → y.power.mode = .serve ∧ y.slot = slot.val ∧ y.sec.bank = b ∧ y.power.trip = false ∧ y.now = 0 ∧
        ∀ c, c < 4 → (y.core c).running = true ∧ (y.core c).bank = b)) ∧
  (∀ (t : Nat) (s : State), s.power.mode = .off →
    ∃ y : State, exec (.precharge t) s = .next y ∧ y.power = { s.power with mainClosed := true } ∧ y.book = s.book ∧ y.mem = s.mem) ∧
  (∀ (t : Nat) (s : State), s.power.mode = .quiet → (∀ x, x ∈ s.parcels → x.2.state ≠ .enabled) →
    ∃ y : State, exec (.jtagExtestExit t) s = .next y ∧ y.power.mode = .off ∧ y.power.offCause = 1 ∧ y.power.mainClosed = false ∧ y.tiles = []) ∧
  (∀ (t : Nat) (s : State) (x : Nat × Parcel), x ∈ s.parcels → x.2.state = .enabled → exec (.jtagExtestExit t) s = .next (s.at' t)) ∧
  (∀ (die : Fin 5) (cause : Fin 3) (mv : BitVec 16) (t : Nat) (s : State), s.power.mode = .off →
    exec (.hardwareTrip die t) s = .next (s.at' t) ∧ exec (.powerFail cause mv t) s = .next (s.at' t)) ∧
  (∀ (t : Nat) (s : State), s.power.mode = .off ∨ (s.power.coolHold = true ∧ s.power.coolOk = false) → exec (.coolantLost t) s = .next (s.at' t)) ∧
  (∀ (t : Nat) (s : State), (s.at' t).now < s.power.holdAt + 5000000000 → exec (.coolantOffTimeout t) s = .next (s.at' t)) ∧
  (∀ (t : Nat) (s : State), s.power.going = none ∨ s.power.going = some .serve ∨ s.power.going = some .starting ∨
    (s.power.going = some .quiet ∧ s.power.mode ≠ .serve) → exec (.powerStateDrainDone t) s = .next (s.at' t)) ∧
  (∀ (t : Nat) (s : State), s.power.going = some .serve → s.power.mode = .quiet →
    exec (.wake t) s = .next ((((((s.at' t).updPower (fun p => { p with going := none })).startClocks.setMode .serve 0).resumeIntake).reached .serve))) ∧
  (∀ (t : Nat) (s : State), s.power.going = some .serve → s.power.mode = .dormant →
    exec (.wake t) s = .next ((((((s.at' t).leaveDormant.updPower (fun p => { p with going := none })).startClocks.setMode .serve 0).resumeIntake).reached .serve))) ∧
  (∀ (t : Nat) (s : State), s.power.going = some .quiet → s.power.mode = .dormant →
    ∃ y : State, exec (.wake t) s = .next y ∧ y.power.mode = .quiet ∧ y.power.going = none ∧ (∀ q, q < 4 → SMap.get 19 y.power.freq q = 0)) ∧
  (∀ (s : State) (c : Nat), 1 ≤ c → c ≤ 3 → (s.core c).held = false → (s.leaveDormant.core c).running = true ∧ (s.leaveDormant.core c).pc = 0) ∧
  (∀ (t : Nat) (s : State), s.power.going = none ∨ s.power.mode = .serve ∨ s.power.mode = .off ∨ s.power.mode = .starting →
    exec (.wake t) s = .next (s.at' t)) ∧
  (∀ (quad : Fin 4) (t : Nat) (s : State) (j : QuadJob), s.quadBusy quad.val = false →
    s.power.jobs.find? (fun j => j.quad == quad.val && j.action == 0) = some j →
    exec (.quadrantGate quad t) s = .next ((s.at' t).finishTakeOut j)) ∧
  (∀ (s : State) (j : QuadJob), j.quad < 4 → bitB (s.finishTakeOut j).power.array j.quad = false ∧ bitB (s.finishTakeOut j).power.field j.quad = false ∧
    (s.finishTakeOut j).power.jobs = s.power.jobs.erase j ∧ (s.finishTakeOut j).book.next = s.book.next + 1) ∧
  (∀ (quad : Fin 4) (t : Nat) (s : State), (∀ j, j ∈ s.power.jobs → j.quad ≠ quad.val ∨ j.action ≠ 0) →
    s.power.mode ≠ .serve ∨ s.power.qgateMs = 0 ∨ bitB s.power.array quad.val = false ∨ (∃ j, j ∈ s.power.jobs ∧ j.quad = quad.val) ∨
      (s.at' t).now < SMap.get 0 s.power.emptyAt quad.val + 1000000 * s.power.qgateMs →
    exec (.quadrantGate quad t) s = .next (s.at' t)) ∧
  (∀ (slot : Fin 4) (quads : List QuadUp) (t : Nat) (s : State), (s.power.mode ≠ .off ∧ s.power.mode ≠ .starting) ∨ s.power.mainClosed = false ∨
    s.power.offCause = 3 → exec (.powerUpFromOff slot quads t) s = .next (s.at' t)) ∧
  (∀ (t : Nat) (s : State), s.power.mode ≠ .off → exec (.precharge t) s = .next (s.at' t)) ∧
  (∀ (t : Nat) (s : State), s.power.mode ≠ .quiet → exec (.jtagExtestExit t) s = .next (s.at' t))

/-- An image is staged into the bank that does not run, cores switch to it one by one or go back, and a signature and an
I3C answer go out. A fetch that failed and an image that fails a check end the staging with SEC_EVENT bit 1 and leave
the banks; an image that passes lies in the bank that does not run, and the running one stays. A switched core runs
from the new bank and the next one switches without a duty; after the last the new bank runs, with the activation
number above the old one and a floor no lower. An undo starts every switched core from the old bank again. A signature
that is made goes to its requester and the next one starts. An I3C message adds one answer and changes nothing else.
With no staging or activation nothing changes; an image that reads back different leaves the bank empty; a policy
image goes to its slot. (R470, R471, R473, R477, R501, 17_security_and_service.md Table 17-3.) -/
def Obligations.FirmwareAndSignaturesComplete : Prop :=
  (∀ (same : Bool) (t : Nat) (s : State) (g : Staging), s.sec.staging = some g →
    ∃ y : State, exec (.firmwareStagingComplete none same t) s = .next y ∧ y.sec = { s.sec with staging := none, event := setBitN s.sec.event 1 } ∧
      y.hic.pend.getLsbD 6 = true ∧ y.book.next = s.book.next + 1) ∧
  (∀ (l : Bytes) (t : Nat) (s : State) (g : Staging) (st : Nat), s.sec.staging = some g → l.length = g.len → leAt l 0 4 ≠ 0x4C4F5050 →
    s.sec.stageStatus l g.len = st →
    ∃ y : State, exec (.firmwareStagingComplete (some l) true t) s = .next y ∧ y.sec.staging = none ∧
      SMap.get FwBank.clear y.sec.banks s.sec.other = (if st = 0 then ⟨l, 0⟩ else SMap.get FwBank.clear s.sec.banks s.sec.other) ∧
      SMap.get FwBank.clear y.sec.banks s.sec.bank = SMap.get FwBank.clear s.sec.banks s.sec.bank ∧ y.sec.bank = s.sec.bank ∧
      y.sec.event = (if st = 0 then s.sec.event else setBitN s.sec.event 1) ∧ y.book.next = s.book.next + 1) ∧
  (∀ (x : Sec) (l : Bytes) (len : Nat), fwHeadOk l = false ∨ fwSigned l = false ∨ leAt l 0x10 4 ≠ len ∨ leAt l 7 1 < x.floor ∨ 1 < leAt l 6 1 →
    x.stageStatus l len ≠ 0) ∧
  (∀ (t : Nat) (s : State) (a : Activation) (c : Nat), s.sec.activation = some a → a.core < 4 → (s.core a.core).running = true → (s.core a.core).held = false →
    s.nextCore (([3, 2, 1, 0] : List Nat).filter (fun c => decide (c < a.core))) = some c →
    ∃ y : State, exec (.activationCoreSwitched t) s = .next y ∧ y.sec = { s.sec with activation := some ⟨c, a.switched ++ [a.core], a.waiter⟩ } ∧ c < a.core ∧
      (y.core a.core).bank = s.sec.other ∧ (y.core a.core).pc = 0 ∧ (y.core c).duties = 0 ∧ (∀ d, d < 4 → (y.core d).running = (s.core d).running) ∧
      y.plot 0 = s.plot 0 ∧ y.hic.pend = s.hic.pend) ∧
  (∀ (t : Nat) (s : State) (a : Activation), s.sec.activation = some a →
    s.nextCore (([3, 2, 1, 0] : List Nat).filter (fun c => decide (c < a.core))) = none →
    ∃ y : State, exec (.activationCoreSwitched t) s = .next y ∧ y.sec.activation = none ∧ y.sec.bank = s.sec.other ∧ s.sec.floor ≤ y.sec.floor ∧
      SMap.get FwBank.clear y.sec.banks s.sec.other = ⟨(s.sec.fw s.sec.other).image, (s.sec.fw s.sec.bank).actSeq + 1⟩ ∧
      (∀ c, c < 4 → (y.core c).bank = s.sec.other) ∧ y.book.next = s.book.next + 1) ∧
  (∀ (t : Nat) (s : State) (a : Activation), s.sec.activation = some a →
    ∃ y : State, exec (.activationUndo t) s = .next y ∧ y.sec = { s.sec with activation := none, event := setBitN s.sec.event 2 } ∧
      (∀ c, c ∈ a.core :: a.switched → (y.core c).bank = s.sec.bank ∧ (y.core c).pc = 0) ∧ y.book.next = s.book.next + 1) ∧
  (∀ (t : Nat) (s : State) (j : SignJob) (l : List SignJob) (key : Bytes), s.sec.signs = j :: l → (s.box j.req.mail.parcel.toNat).key = some key →
    ∃ y o, exec (.signatureComplete t) s = .next y ∧ y.sec = { s.sec with signs := l, signCnt := satAdd 32 s.sec.signCnt 1 } ∧
      y.mail.out = s.mail.out ++ [o] ∧ o.dest = ⟨j.req.mail.srcIp, j.req.mail.srcUdp, j.req.mail.port.val⟩ ∧ leAt o.bytes 8 4 = j.req.mail.seq.toNat ∧
      (∀ p, p ≠ j.req.mail.parcel.toNat → y.box p = s.box p)) ∧
  (∀ (t : Nat) (s : State), s.sec.signs = [] → exec (.signatureComplete t) s = .next (s.at' t)) ∧
  (∀ (req : I3cReq) (s : State), exec (.i3cMctpMessage req) s = .next { s with power := { s.power with i3cOut := s.power.i3cOut ++ [s.i3cAnswer req] } }) ∧
  (∀ (first : BitVec 32) (n : BitVec 8) (s : State), n = 0 ∨ 8 < n.toNat → s.i3cAnswer (.fieldBook first n) = .unsupported) ∧
  (∀ (s : State), s.i3cAnswer .other = .unsupported ∧ (s.power.mode = .off → s.i3cAnswer (.sensor .powerState) = .reading none) ∧
    (s.power.mode ≠ .off → s.i3cAnswer (.sensor .avgPower) = .reading (some s.power.avg))) ∧
  (∀ (image : Option Bytes) (same : Bool) (t : Nat) (s : State), s.sec.staging = none → exec (.firmwareStagingComplete image same t) s = .next (s.at' t)) ∧
  (∀ (l : Bytes) (same : Bool) (t : Nat) (s : State) (g : Staging), s.sec.staging = some g → l.length ≠ g.len →
    exec (.firmwareStagingComplete (some l) same t) s = .next ((s.at' t).endStaging g 0x0302 (leAt l 8 4))) ∧
  (∀ (l : Bytes) (same : Bool) (t : Nat) (s : State) (g : Staging), s.sec.staging = some g → l.length = g.len → leAt l 0 4 = 0x4C4F5050 →
    ∃ y : State, exec (.firmwareStagingComplete (some l) same t) s = .next (y.complete g.waiter ((s.at' t).doPolicy (some l) g.len).2 []) ∧
      y.policies = ((s.at' t).doPolicy (some l) g.len).1.policies ∧ y.sec = { s.sec with staging := none } ∧ y.mem = s.mem) ∧
  (∀ (l : Bytes) (same : Bool) (t : Nat) (s : State) (g : Staging), s.sec.staging = some g → l.length = g.len → leAt l 0 4 ≠ 0x4C4F5050 →
    (s.sec.stageStatus l g.len ≠ 0 → exec (.firmwareStagingComplete (some l) same t) s = .next ((s.at' t).endStaging g (s.sec.stageStatus l g.len) (leAt l 8 4))) ∧
    (s.sec.stageStatus l g.len = 0 → ∃ y : State, exec (.firmwareStagingComplete (some l) false t) s = .next y ∧ y.sec.staging = none ∧
      SMap.get FwBank.clear y.sec.banks s.sec.other = FwBank.clear ∧ y.sec.event = setBitN s.sec.event 1 ∧ y.sec.bank = s.sec.bank)) ∧
  (∀ (t : Nat) (s : State), s.sec.activation = none → exec (.activationCoreSwitched t) s = .next (s.at' t) ∧ exec (.activationUndo t) s = .next (s.at' t)) ∧
  (∀ (t : Nat) (s : State) (j : SignJob) (l : List SignJob), s.sec.signs = j :: l → (s.box j.req.mail.parcel.toNat).key = none →
    ∃ y : State, exec (.signatureComplete t) s = .next y ∧ y.sec = { s.sec with signs := l, signCnt := satAdd 32 s.sec.signCnt 1 } ∧ y.mail = s.mail)

/-- An Ethernet port comes and goes, connections and neighbour requests are bounded, an event is sent again, and requests
set aside are executed. A port that goes down takes its queue pairs with it and signals; a port that is down already
changes nothing; one that comes up is up and signals. An RDMA connection binds a queue pair on an A port that is up,
with the owner and key of an active ring of fewer than eight pairs, and is rejected otherwise. A neighbour request is
answered up to 100 a second for its kind and port. An event not acknowledged is sent again after 50 ms, 20 times in
all; of those due at one moment the oldest goes first. A request set aside is executed when its floor is durable and
waits on when it is not. The clock listens on the lowest A port that is up. (R353, R354, R355, R363, R372, R376, R440,
13_edush_interface.md Table 13-9.) -/
def Obligations.PortsAnswerAndEventsRepeat : Prop :=
  (∀ (port : Fin 8) (t : Nat) (s : State), SMap.get false s.mail.linkUp port.val = true →
    ∃ y : State, exec (.ethLinkChange port false t) s = .next y ∧ SMap.get false y.mail.linkUp port.val = false ∧
      (∀ i, i ≠ port.val → SMap.get false y.mail.linkUp i = SMap.get false s.mail.linkUp i) ∧
      y.mail.qps = s.mail.qps.map (fun q => if q.port = port.val then { q with live := false } else q) ∧ y.hic.pend.getLsbD (217 + port.val) = true ∧
      s.book.next < y.book.next) ∧
  (∀ (port : Fin 8) (t : Nat) (s : State), SMap.get false s.mail.linkUp port.val = false → exec (.ethLinkChange port false t) s = .next (s.at' t)) ∧
  (∀ (port : Fin 8) (t : Nat) (s : State), SMap.get false s.mail.linkUp port.val = false → s.power.mode ≠ .off → (s.power.mode = .dormant → port.val % 4 = 0) →
    ∃ y : State, exec (.ethLinkChange port true t) s = .next (y.trainEnd 1 port.val) ∧ y.time.port = y.ptpPort ∧ SMap.get false y.mail.linkUp port.val = true ∧
      (∀ i, i ≠ port.val → SMap.get false y.mail.linkUp i = SMap.get false s.mail.linkUp i) ∧ y.mail.qps = s.mail.qps ∧
      y.hic.pend.getLsbD (217 + port.val) = true ∧ y.mem = s.mem) ∧
  (∀ (port : Fin 8) (qp : BitVec 24) (priv : Bytes) (s : State), port.val < 4 → SMap.get false s.mail.linkUp port.val = true → priv.length = 8 →
    (s.ring (leAt priv 2 1)).state = 1 → (s.ring (leAt priv 2 1)).owner = leAt priv 0 2 → (s.ring (leAt priv 2 1)).key = leAt priv 4 4 →
    (s.ringQps (leAt priv 2 1)).length < 8 → s.mail.qps.length < 4096 → (∀ q, q ∈ s.mail.qps → q.num ≠ qp.toNat) →
    exec (.rdmaConnect port qp priv) s = .next { s with mail := { s.mail with qps := s.mail.qps ++ [⟨qp.toNat, some (leAt priv 2 1), port.val, true, 1024⟩] } }) ∧
  (∀ (port : Fin 8) (qp : BitVec 24) (priv : Bytes) (s : State), 4 ≤ port.val ∨ priv.length ≠ 8 ∨ (s.ring (leAt priv 2 1)).state ≠ 1 ∨
    (s.ring (leAt priv 2 1)).owner ≠ leAt priv 0 2 ∨ (s.ring (leAt priv 2 1)).key ≠ leAt priv 4 4 ∨ 8 ≤ (s.ringQps (leAt priv 2 1)).length →
    exec (.rdmaConnect port qp priv) s = .next s) ∧
  (∀ (port : Fin 8) (kind : Fin 4) (t : Nat) (s : State), SMap.get false s.mail.linkUp port.val = true →
    (s.mail.answered.filter (fun x => x.1 == 4 * port.val + kind.val && decide ((s.at' t).now < x.2 + 1000000000))).length < 100 →
    ∃ y : State, exec (.neighbourRequest port kind t) s = .next y ∧ y.mail.answered.getLast? = some (4 * port.val + kind.val, (s.at' t).now) ∧
      y.mail.qps = s.mail.qps ∧ y.mail.out = s.mail.out ∧ y.mem = s.mem) ∧
  (∀ (port : Fin 8) (kind : Fin 4) (t : Nat) (s : State),
    100 ≤ (s.mail.answered.filter (fun x => x.1 == 4 * port.val + kind.val && decide ((s.at' t).now < x.2 + 1000000000))).length →
    exec (.neighbourRequest port kind t) s = .next (s.at' t)) ∧
  (∀ (parcel : Fin 513) (num : BitVec 32) (t : Nat) (s : State) (e : EvMsg) (key : Bytes) (a : NetAddr), (s.box parcel.val).unacked.find? (fun e => e.num == num.toNat) = some e →
    0 < e.sends → e.sends < 20 → e.nextAt ≤ (s.at' t).now →
    (∀ y, y ∈ (s.box parcel.val).unacked → y.nextAt = e.nextAt → 0 < y.sends → y.sends < 20 → e.num ≤ y.num) → (s.box parcel.val).key = some key →
    (if e.dest.isSome then e.dest else (s.box parcel.val).addr) = some a →
    ∃ y : State, exec (.eventResend parcel num t) s = .next y ∧ y.mail.out = s.mail.out ++ [⟨a, edMessage key 2 2 parcel.val e.num e.status e.payload⟩] ∧
      (y.box parcel.val).unacked = (s.box parcel.val).unacked.map (fun z => if z.num = e.num then { e with sends := e.sends + 1, nextAt := (s.at' t).now + 50000000 } else z) ∧
      (y.box parcel.val).evNum = (s.box parcel.val).evNum ∧ (∀ p, p ≠ parcel.val → y.box p = s.box p)) ∧
  (∀ (parcel : Fin 513) (num : BitVec 32) (t : Nat) (s : State) (e : EvMsg), (s.box parcel.val).unacked.find? (fun e => e.num == num.toNat) = some e →
    e.sends = 0 ∨ 20 ≤ e.sends ∨ (s.at' t).now < e.nextAt ∨
    (∃ y, y ∈ (s.box parcel.val).unacked ∧ y.nextAt = e.nextAt ∧ 0 < y.sends ∧ y.sends < 20 ∧ y.num < e.num) → exec (.eventResend parcel num t) s = .next (s.at' t)) ∧
  (∀ (t : Nat) (s x : State) (r : EdReq), s.mail.setAside = [r] → x = { s.at' t with mail := { s.mail with setAside := [] } } →
    (s.box r.mail.parcel.toNat).key ≠ none → (s.box r.mail.parcel.toNat).isNew r.mail.seq.toNat = true → x.mustWait r.mail.parcel.toNat r.mail.seq.toNat = false →
    exec (.seqFloorCommitDone t) s = .next (x.execute r)) ∧
  (∀ (t : Nat) (s x : State) (r : EdReq), s.mail.setAside = [r] → x = { s.at' t with mail := { s.mail with setAside := [] } } →
    (s.box r.mail.parcel.toNat).key ≠ none → (s.box r.mail.parcel.toNat).isNew r.mail.seq.toNat = true → x.mustWait r.mail.parcel.toNat r.mail.seq.toNat = true →
    ∃ y : State, exec (.seqFloorCommitDone t) s = .next y ∧ y.mail = s.mail ∧ y.parcels = s.parcels) ∧
  (∀ (port : Fin 8) (t : Nat) (s : State), SMap.get false s.mail.linkUp port.val = true ∨ s.power.mode = .off ∨ (s.power.mode = .dormant ∧ port.val % 4 ≠ 0) →
    exec (.ethLinkChange port true t) s = .next (s.at' t)) ∧
  (∀ (s : State) (i : Nat), i < 4 → SMap.get false s.mail.linkUp i = true → (∀ j, j < i → SMap.get false s.mail.linkUp j = false) → s.ptpPort = i) ∧
  (∀ (s : State), (∀ j, j < 4 → SMap.get false s.mail.linkUp j = false) → s.ptpPort = 7) ∧
  (∀ (port : Fin 8) (qp : BitVec 24) (priv : Bytes) (s : State), SMap.get false s.mail.linkUp port.val = false ∨ 4096 ≤ s.mail.qps.length ∨
    (∃ q, q ∈ s.mail.qps ∧ q.num = qp.toNat) → exec (.rdmaConnect port qp priv) s = .next s) ∧
  (∀ (port : Fin 8) (kind : Fin 4) (t : Nat) (s : State), SMap.get false s.mail.linkUp port.val = false →
    exec (.neighbourRequest port kind t) s = .next (s.at' t)) ∧
  (∀ (parcel : Fin 513) (num : BitVec 32) (t : Nat) (s : State), (s.box parcel.val).unacked.find? (fun e => e.num == num.toNat) = none →
    exec (.eventResend parcel num t) s = .next (s.at' t)) ∧
  (∀ (parcel : Fin 513) (num : BitVec 32) (t : Nat) (s : State), (s.box parcel.val).key = none ∨ ((s.box parcel.val).addr = none ∧ ∀ e, e ∈ (s.box parcel.val).unacked → e.dest = none) →
    ∃ y : State, exec (.eventResend parcel num t) s = .next y ∧ y.mail.out = s.mail.out) ∧
  (∀ (t : Nat) (s : State), exec (.seqFloorCommitDone t) s = .next (s.mail.setAside.foldl (fun (y : State) r =>
    if (y.box r.mail.parcel.toNat).key = none ∧ r.firstKey = false then y else y.sequence r) { s.at' t with mail := { s.mail with setAside := [] } }))

/-- A fault record is cleared by ones written to it, a counter by its read, and a register takes the fields written while
its domain is on. Bit 8 written clears a fault record whole, bit 9 its MULTI alone, and other bits leave it. A
register of a gated domain, and any while the module is Off, ignores the write and keeps its counter.
ERROR_RECORD_CLEAR clears the record at the offset, of a tile, canal, plot, engine, cistern, lateral or gather engine,
or event bits of power and security, and no other. COUNTER_READ_CLEAR reads a counter and leaves it at zero.
REGISTER_WRITE sets the fields of the register, CANAL_CTRL only of an idle tile; a read-only one stays. A write of
TIME_CFG clamps its holdover bound and asks for a commit. A write to an offset that is no register, or not a multiple
of 8, changes nothing. (R9, R10, R12, R13, R412, 00_scope.md Table 0-3, 02_tile_core.md Table 2-15,
04_canal_network.md Tables 4-10 and 4-11.) -/
def Obligations.RegistersAreWrittenAndCleared : Prop :=
  (∀ (f : FaultRec) (v : Nat), (bitB v 8 = true → f.w1c v = .clear) ∧ (bitB v 8 = false → (f.w1c v).valid = f.valid ∧ (f.w1c v).cause = f.cause ∧
    (f.w1c v).info = f.info ∧ (f.w1c v).multi = (f.multi && !bitB v 9))) ∧
  (∀ (s : State) (g : Nat) (o : Nat), g < 4096 → o < 0x1000 → s.power.mode ≠ .off → (s.regOn (0x1000 * g + o) = true ↔ bitB s.power.array (tileQuad g) = true)) ∧
  (∀ (s : State) (o : Nat), s.power.mode = .off → s.regOn o = false) ∧
  (∀ (off : BitVec 32) (v : BitVec 64) (s : State), s.regOn off.toNat = false → exec (.errorRecordClear off v) s = .next s ∧
    exec (.registerWrite off v) s = .next s ∧ exec (.counterReadClear off) s = .next s) ∧
  (∀ (off : BitVec 32) (v : BitVec 64) (s : State) (g : Nat), s.regOn off.toNat = true → g < 4096 → off.toNat = 0x1000 * g + 0x018 →
    ∃ y : State, exec (.errorRecordClear off v) s = .next y ∧ y.tile g = { s.tile g with regs := { (s.tile g).regs with fault := (s.tile g).regs.fault.w1c v.toNat } } ∧
      (∀ i, i ≠ g → y.tile i = s.tile i) ∧ y.blocks = s.blocks ∧ y.mem = s.mem) ∧
  (∀ (off : BitVec 32) (v : BitVec 64) (s : State) (g : Nat), s.regOn off.toNat = true → g < 4096 → off.toNat = 0x1000 * g + 0x108 →
    ∃ y : State, exec (.errorRecordClear off v) s = .next y ∧
      y.tile g = { s.tile g with regs := { (s.tile g).regs with canalFault := (s.tile g).regs.canalFault.w1c v.toNat } } ∧ (∀ i, i ≠ g → y.tile i = s.tile i)) ∧
  (∀ (off : BitVec 32) (v : BitVec 64) (s : State) (b : Nat), s.regOn off.toNat = true → b < 64 → off.toNat = 0x1000000 + 0x1000 * b + 0x050 →
    ∃ y : State, exec (.errorRecordClear off v) s = .next y ∧ (y.block b).regs.fault = (s.block b).regs.fault.w1c v.toNat ∧ y.plot b = s.plot b ∧
      (∀ i, i ≠ b → y.block i = s.block i) ∧ y.tiles = s.tiles) ∧
  (∀ (off : BitVec 32) (v : BitVec 64) (s : State) (e : Nat), s.regOn off.toNat = true → e < 64 → off.toNat = 0x1040000 + 0x1000 * e + 0x030 →
    ∃ y : State, exec (.errorRecordClear off v) s = .next y ∧ (y.engine e).err = (s.engine e).err.w1c v.toNat ∧ (y.engine e).flight = (s.engine e).flight ∧
      (∀ i, i ≠ e → y.engine i = s.engine i)) ∧
  (∀ (off : BitVec 32) (v : BitVec 64) (s : State) (q : Nat), s.regOn off.toNat = true → q < 4 → off.toNat = 0x3000000 + 0x100000 * q + 0x10 →
    ∃ y : State, exec (.errorRecordClear off v) s = .next y ∧ (y.cistern q).err = (s.cistern q).err.w1c v.toNat ∧ (y.cistern q).queues = (s.cistern q).queues ∧
      (∀ i, i ≠ q → y.cistern i = s.cistern i)) ∧
  (∀ (off : BitVec 32) (v : BitVec 64) (s : State) (e : Nat), s.regOn off.toNat = true → e < 4 → off.toNat = 0x3400000 + 0x10000 * e + 0x010 →
    ∃ y : State, exec (.errorRecordClear off v) s = .next y ∧ (y.lateral e).err = (s.lateral e).err.w1c v.toNat ∧ (∀ i, i ≠ e → y.lateral i = s.lateral i)) ∧
  (∀ (off : BitVec 32) (v : BitVec 64) (s : State) (g : Nat), s.regOn off.toNat = true → g < 96 → off.toNat = 0x4000000 + 0x1000 * g + 0x010 →
    ∃ y : State, exec (.errorRecordClear off v) s = .next y ∧ (y.gatherEng g).err = (s.gatherEng g).err.w1c v.toNat ∧ (∀ i, i ≠ g → y.gatherEng i = s.gatherEng i)) ∧
  (∀ (off : BitVec 32) (v : BitVec 64) (s : State), s.regOn off.toNat = true → off.toNat = 0x10060058 → s.power.event < 2 ^ 64 →
    ∃ y : State, exec (.errorRecordClear off v) s = .next y ∧ (∀ i, bitB y.power.event i = (bitB s.power.event i && !bitB v.toNat i))) ∧
  (∀ (off : BitVec 32) (v : BitVec 64) (s : State), s.regOn off.toNat = true → off.toNat = 0x10080008 → s.sec.event < 2 ^ 64 →
    ∃ y : State, exec (.errorRecordClear off v) s = .next y ∧ (∀ i, bitB y.sec.event i = (bitB s.sec.event i && !bitB v.toNat i))) ∧
  (∀ (off : BitVec 32) (s : State) (g : Nat), s.regOn off.toNat = true → g < 4096 → off.toNat = 0x1000 * g + 0x040 →
    s.readReg off.toNat = ((s.tile g).regs.fireCnt, s.setTile g { s.tile g with regs := { (s.tile g).regs with fireCnt := 0 } }) ∧
    ∃ y : State, exec (.counterReadClear off) s = .next y ∧ y.tile g = { s.tile g with regs := { (s.tile g).regs with fireCnt := 0 } } ∧
      (∀ i, i ≠ g → y.tile i = s.tile i) ∧ y.mem = s.mem) ∧
  (∀ (off : BitVec 32) (s : State) (g : Nat), s.regOn off.toNat = true → g < 4096 → off.toNat = 0x1000 * g + 0x018 →
    ∃ y : State, exec (.counterReadClear off) s = .next y ∧ (∀ i, y.tile i = s.tile i)) ∧
  (∀ (off : BitVec 32) (v : BitVec 64) (s : State) (g : Nat), s.regOn off.toNat = true → g < 4096 → off.toNat = 0x1000 * g + 0x028 →
    ∃ y : State, exec (.registerWrite off v) s = .next y ∧ ((s.tile g).regs.state = .idle → (y.tile g).regs.fwinBase = v.toNat % 2 ^ 22 / 4096 * 4096) ∧
      ((s.tile g).regs.state ≠ .idle → y.tile g = s.tile g) ∧
      (y.tile g).regs.fwinLimit = (s.tile g).regs.fwinLimit ∧ (y.tile g).v = (s.tile g).v ∧ (∀ i, i ≠ g → y.tile i = s.tile i) ∧ y.mem = s.mem) ∧
  (∀ (off : BitVec 32) (v : BitVec 64) (s : State) (g : Nat), s.regOn off.toNat = true → g < 4096 → off.toNat = 0x1000 * g + 0x100 →
    ∃ y : State, exec (.registerWrite off v) s = .next y ∧ ((s.tile g).regs.state = .idle → (y.tile g).regs.period = v.toNat % 256 ∧
      (y.tile g).regs.linkEn = v.toNat / 2 ^ 8 % 16 ∧ (y.tile g).regs.epochAccept = v.toNat / 2 ^ 16 % 2 ^ 16) ∧
      ((s.tile g).regs.state ≠ .idle → y.tile g = s.tile g)) ∧
  (∀ (off : BitVec 32) (v : BitVec 64) (s : State) (g : Nat), s.regOn off.toNat = true → g < 4096 → off.toNat = 0x1000 * g + 0x018 ∨ off.toNat = 0x1000 * g + 0x048 →
    ∃ y : State, exec (.registerWrite off v) s = .next y ∧ (∀ i, y.tile i = s.tile i)) ∧
  (∀ (off : BitVec 32) (v : BitVec 64) (s : State) (n : Nat), s.power.mode ≠ .off → n < 256 → off.toNat = 0x10000800 + 8 * n →
    ∃ y : State, exec (.registerWrite off v) s = .next y ∧ SMap.get 0 y.hic.prio n = v.toNat % 256 ∧ SMap.get 0 y.hic.target n = v.toNat / 2 ^ 8 % 4 ∧
      (∀ m, m ≠ n → SMap.get 0 y.hic.prio m = SMap.get 0 s.hic.prio m) ∧ y.hic.pend = s.hic.pend ∧ y.hic.en = s.hic.en) ∧
  (∀ (off : BitVec 32) (v : BitVec 64) (s : State), s.power.mode ≠ .off → off.toNat = 0x10060008 →
    exec (.registerWrite off v) s = .next { s with power := { s.power with qgateMs := v.toNat % 2 ^ 16, retain := fieldN v.toNat 16 4 } }) ∧
  (∀ (off : BitVec 32) (v : BitVec 64) (s : State), s.power.mode ≠ .off → off.toNat = 0x10040010 →
    ∃ y : State, exec (.registerWrite off v) s = .next y ∧ y.time.domain = v.toNat % 256 ∧ y.time.cfg ≤ 3600 ∧ y.store.waiting = true ∧ y.tiles = s.tiles) ∧
  (∀ (off : BitVec 32) (v : BitVec 64) (s : State), off.toNat % 8 ≠ 0 → exec (.registerWrite off v) s = .next s ∧ exec (.counterReadClear off) s = .next s) ∧
  (∀ (off : BitVec 32) (v : BitVec 64) (s : State), off.toNat % 8 = 0 → exec (.counterReadClear off) s = .next (s.readReg off.toNat).2) ∧
  (∀ (off : BitVec 32) (v : BitVec 64) (s : State) (g o : Nat), s.regOn off.toNat = true → g < 4096 → o < 0x1000 → o % 8 = 0 → off.toNat = 0x1000 * g + o →
    exec (.registerWrite off v) s = .next (s.updTile g (fun t => t.write o v.toNat))) ∧
  (∀ (t : Tile) (n : Nat), t.regs.state = .idle → (t.write 0x030 n).regs.fwinLimit = n % 2 ^ 22 / 4096 * 4096 ∧
    (t.write 0x038 n).a0.w = BitVec.ofNat 10 n ∧ (t.write 0x038 n).a1.w = BitVec.ofNat 10 (n / 2 ^ 16)) ∧
  (∀ (t : Tile) (o n : Nat), t.regs.state ≠ .idle → t.write o n = t) ∧
  (∀ (off : BitVec 32) (v : BitVec 64) (s : State) (e : Nat), s.regOn off.toNat = true → e < 64 → off.toNat = 0x1040000 + 0x1000 * e + 0x008 →
    exec (.registerWrite off v) s = .next ((s.updEngine e (fun x => { x with enable := v.getLsbD 0, halt := v.getLsbD 1 })).serveEngine e)) ∧
  (∀ (off : BitVec 32) (v : BitVec 64) (s : State) (e o : Nat), s.regOn off.toNat = true → e < 64 → o < 0x1000 → o % 8 = 0 → o ≠ 0x008 → off.toNat = 0x1040000 + 0x1000 * e + o →
    exec (.registerWrite off v) s = .next (s.updEngine e (fun x => x.write o v.toNat))) ∧
  (∀ (x : Engine) (n : Nat), x.enable = true → x.write 0x010 n = x ∧ x.write 0x018 n = x) ∧
  (∀ (x : Engine) (n : Nat), x.enable = false → x.write 0x010 n = { x with ringBase := n % 2 ^ 52 / 64 * 64 } ∧ x.write 0x018 n = { x with ringSize := n % 32 }) ∧
  (∀ (off : BitVec 32) (v : BitVec 64) (s : State) (a o : Nat), s.regOn off.toNat = true → a < 112 → o < 0x1000 → o % 8 = 0 → off.toNat = 0x2000000 + 0x1000 * a + o →
    exec (.registerWrite off v) s = .next (s.updArb a (fun x => x.write a o v.toNat))) ∧
  (∀ (x : Arb) (a r n : Nat), r < arbRequesters a → x.write a (0x118 + 0x20 * r) n = { x with weight := SMap.set 1 x.weight r (n % 16) }) ∧
  (∀ (off : BitVec 32) (v : BitVec 64) (s : State) (e o : Nat), s.regOn off.toNat = true → e < 4 → o < 0x10000 → o % 8 = 0 → off.toNat = 0x3400000 + 0x10000 * e + o →
    exec (.registerWrite off v) s = .next (s.updLe e (fun l => l.write o v.toNat))) ∧
  (∀ (off : BitVec 32) (v : BitVec 64) (s : State) (q : Nat), s.regOn off.toNat = true → q < 4 → off.toNat = 0x3000000 + 0x100000 * q →
    exec (.registerWrite off v) s = .next (if s.quadHasPlot q = true then s else s.updCist q (fun c => { c with sysCells := v.toNat % 2 ^ 20 }))) ∧
  (∀ (off : BitVec 32) (v : BitVec 64) (s : State) (t : Nat), s.power.mode ≠ .off → t < 1024 → 0x4100000 + 64 * t ≤ off.toNat → off.toNat < 0x4100000 + 64 * (t + 1) →
    s.modelRuns (s.tableEnt t).model = true → exec (.registerWrite off v) s = .next s) ∧
  (∀ (off : BitVec 32) (v : BitVec 64) (s : State) (w : Nat), s.power.mode ≠ .off → w < 4 → off.toNat = 0x10000100 + 8 * w →
    ∃ y : State, exec (.registerWrite off v) s = .next y ∧ (∀ n, n < 256 → y.hic.en.getLsbD n = if n / 64 = w then v.getLsbD (n % 64) else s.hic.en.getLsbD n) ∧
      y.hic.pend = s.hic.pend) ∧
  (∀ (off : BitVec 32) (v : BitVec 64) (s : State), s.power.mode ≠ .off → off.toNat = 0x10040028 →
    ∃ y : State, exec (.registerWrite off v) s = .next y ∧ y.time.surveyCfg = v.toNat % 2 ^ 32 ∧ y.store.waiting = true) ∧
  (∀ (off : BitVec 32) (v : BitVec 64) (s : State) (a : Nat), s.regOn off.toNat = true → a < 112 → off.toNat = 0x2000000 + 0x1000 * a + 0x018 → (s.arb a).starve < 2 ^ 64 →
    ∃ y : State, exec (.errorRecordClear off v) s = .next y ∧ (∀ i, bitB (y.arb a).starve i = (bitB (s.arb a).starve i && !bitB v.toNat i)) ∧
      (∀ i, i ≠ a → y.arb i = s.arb i)) ∧
  (∀ (off : BitVec 32) (v : BitVec 64) (s : State) (i : Nat), s.power.mode ≠ .off → i < 12 → off.toNat = 0x10100028 + 0x1000 * i →
    ∃ y : State, exec (.errorRecordClear off v) s = .next y ∧ (v.getLsbD 8 = true → y.fport i = { s.fport i with errCause := 0, errValid := false, errMulti := false }) ∧
      (v.getLsbD 8 = false → v.getLsbD 9 = true → y.fport i = { s.fport i with errMulti := false }) ∧
      (v.getLsbD 8 = false → v.getLsbD 9 = false → y.fport i = s.fport i) ∧ (∀ j, j ≠ i → y.fport j = s.fport j)) ∧
  (∀ (off : BitVec 32) (v : BitVec 64) (s : State) (g o : Nat), g < 4096 → o < 0x1000 → o ≠ 0x018 → o ≠ 0x108 → off.toNat = 0x1000 * g + o → exec (.errorRecordClear off v) s = .next s)

/-- A self-test gives each tile of its quadrant its result: a full one sets the fences, a quick one only adds them. A full
self-test that a tile passes takes its fences away; a failing one keeps them and adds FENCE_FULL by the switch element
and FENCE_CORE by the others; a quick one keeps every fence and adds one for a failing element; the state follows. The
end of a self-test gives every tile of the quadrant its registers, closes links toward a tile that is fully fenced,
leaves memory, plots and the other quadrants, and then the plots without a task whose fences fit no more are released.
The end of the full self-test of a retest marks the quadrant as tested and answers the request. (R67, R68, R481,
02_tile_core.md Table 2-15.) -/
def Obligations.SelfTestsFenceTiles : Prop :=
  (∀ (r : TileRegs) (mask us : Nat), mask % 128 = 0 → (r.selfTest true mask us).fenceFull = false ∧ (r.selfTest true mask us).fenceCore = false ∧
    (r.selfTest true mask us).state ≠ .fenced) ∧
  (∀ (r : TileRegs) (mask us : Nat), mask % 128 ≠ 0 → (r.selfTest true mask us).fenceFull = (r.fenceFull || bitB mask 6) ∧
    ((r.selfTest true mask us).fenceCore = true ↔ r.fenceCore = true ∨ mask % 64 ≠ 0) ∧ (r.selfTest true mask us).state = .fenced) ∧
  (∀ (r : TileRegs) (mask us : Nat), (r.fenceCore = true → (r.selfTest false mask us).fenceCore = true) ∧ (r.fenceFull = true → (r.selfTest false mask us).fenceFull = true) ∧
    (mask % 32 ≠ 0 → (r.selfTest false mask us).fenceCore = true ∧ (r.selfTest false mask us).state = .fenced)) ∧
  (∀ (quad : Fin 4) (full : Bool) (fails : List (Fin 1024 × BitVec 7)) (us : BitVec 16) (trained : BitVec 6) (rate8g : Bool) (t : Nat) (s : State), s.power.jobs = [] →
    exec (.selftestComplete quad full fails us trained rate8g t) s = .next (refits ((s.at' t).selfTestQuad quad.val full fails us.toNat))) ∧
  (∀ (quad : Fin 4) (full : Bool) (fails : List (Fin 1024 × BitVec 7)) (us : Nat) (s y : State), s.selfTestQuad quad.val full fails us = y →
    (∀ i, i < 1024 → { (y.tile (1024 * quad.val + i)).regs with linkEn := 0 } =
      { (s.tile (1024 * quad.val + i)).regs.selfTest full (failMask fails i) us with linkEn := 0 }) ∧
    (∀ g, g / 1024 ≠ quad.val → { y.tile g with regs := { (y.tile g).regs with linkEn := 0 } } = { s.tile g with regs := { (s.tile g).regs with linkEn := 0 } }) ∧
    y.mem = s.mem ∧ y.blocks = s.blocks ∧ y.power = s.power) ∧
  (∀ (s : State), (∀ b p, s.plot b = some p → p.task ≠ none ∨ s.fencesOk p = true) → refits s = s) ∧
  (∀ (s : State) (b : Nat) (p : Plot), s.fencesOk p = false → s.refit b p = s.freePlot b) ∧
  (∀ (quad : Fin 4) (fails : List (Fin 1024 × BitVec 7)) (us : BitVec 16) (trained : BitVec 6) (rate8g : Bool) (t : Nat) (s : State) (j : QuadJob),
    s.power.jobs = [j] → j.quad = quad.val → j.action = 1 →
    ∃ y : State, exec (.selftestComplete quad true fails us trained rate8g t) s = .next (y.complete j.waiter 0 []) ∧
      SMap.get 0 y.power.outQuads quad.val = 2)

/-- A step runs the command at the front of the queue on the state with the rest of it; with none waiting it idles (log
entry 5). For every command c and state s with c at the front of its queue, step of s is exec of c on s with the rest
of the queue. On an empty queue the block idles: step answers s itself, the model's choice of log entry 5.
(98_reader.md, 95_what_each_step_holds.md.) -/
def Obligations.StepRunsTheFrontCommand : Prop :=
  (∀ (c : Instr) (q : List Instr) (s : State), s.pending = c :: q → step s = exec c { s with pending := q }) ∧
  (∀ (s : State), s.pending = [] → step s = .next s)

/-- After reset the registers read the values of their Reset columns, and memory, queues and tables hold nothing. The
power unit reads STATE 0, PWR_CFG 0xA, PWR_CAP 0xED8 and CLK_Q 0x13131313; TIME_CFG reads 0x000A0000 and SURVEY_CFG
0x001E8480; every FP_CTRL and ARB_CTRL reads 1, HIC_EN 0, a tile its window limit and CANAL_CTRL 0. No tile holds a
context, no block leads a plot, no parcel exists, every fabric link is DOWN, the mailbox port is 47100, and nothing
waits. (R11, R463, 16_power_clocks_thermal.md Table 16-7, 12_scheduling_and_arbitration.md Tables 12-6 and 12-9,
14_fabric.md, R356, R431.) -/
def Obligations.ResetLeavesTheStatedValues : Prop :=
  (State.reset.readReg 0x10060000).1 = 0 ∧ (State.reset.readReg 0x10060008).1 = 0xA ∧ (State.reset.readReg 0x10060010).1 = 0xED8 ∧
  (∀ q, q < 4 → (State.reset.readReg (0x10060028 + 8 * q)).1 = 0x13131313) ∧
  (State.reset.readReg 0x10040010).1 = 0x000A0000 ∧ (State.reset.readReg 0x10040028).1 = 0x001E8480 ∧
  (∀ i, i < 12 → (State.reset.readReg (0x10100008 + 0x1000 * i)).1 = 1) ∧
  (∀ w, w < 4 → (State.reset.readReg (0x10000100 + 8 * w)).1 = 0) ∧
  (∀ a, ((State.reset.arb a).reg a 0x008).1 = 1) ∧
  (∀ g, ((State.reset.tile g).reg g 0x030).1 = 0 ∧ ((State.reset.tile g).reg g 0x100).1 = 0 ∧ (State.reset.tile g).ctxs = []) ∧
  (∀ b, State.reset.plot b = none) ∧ (∀ p, (State.reset.parcel p).state = .free) ∧ (∀ i, (State.reset.fport i).state = .down) ∧
  State.reset.mail.udpPort = 47100 ∧ State.reset.book.ring = [] ∧ State.reset.pending = [] ∧ State.reset.serve.reqs = []

/-- The memory of the machine after reset has the canonical form. At reset the tables of memory are in canonical form, so
the invariant every step keeps holds there, and every byte reads as zero, which is the choice of log entry 1 for bytes
that nothing has written. (06_memory_tiers.md, R157.) -/
def Obligations.ResetMemoryIsCanonical : Prop :=
  Memory.wf State.reset.mem = true ∧ Kept [] State.reset ∧ (∀ k, State.reset.mem.read k = 0)

/-- Every step keeps the canonical form of memory and takes exactly one command from the front of the queue. For every
state whose memory tables are sorted by address with no entry equal to what an unlisted address reads as, a step that
answers a next state keeps that form and leaves the queue without its first command; no command of the 266 touches the
queue; and n steps take n commands. (R157, R158, 06_memory_tiers.md, 95_what_each_step_holds.md.) -/
def Obligations.EveryStepKeepsMemoryCanonicalAndTheQueue : Prop :=
  (∀ (s t : State), Memory.wf s.mem = true → step s = .next t → Memory.wf t.mem = true ∧ t.pending = s.pending.tail) ∧
  (∀ (c : Instr) (q : List Instr) (s t : State), Kept q s → exec c s = .next t → Kept q t) ∧
  (∀ (n : Nat) (s t : State), Memory.wf s.mem = true → runFrom n s = some t → Memory.wf t.mem = true ∧ t.pending = s.pending.drop n)

/-- No command faults or is refused: each of the 266 answers a next state from every state, and so does every run. Every
command answers a next state whatever the state is; what the spec calls a fault, an error or a refusal is the effect
of the command on the state. So n steps go through from every state. (00_scope.md, 95_what_each_step_holds.md.) -/
def Obligations.EveryCommandEndsInANextState : Prop :=
  (∀ (c : Instr) (s : State), ∃ t, exec c s = .next t) ∧ (∀ (n : Nat) (s : State), safeRun n s)

/-- An event sets the pending bit of its source whatever its enable, several leave one bit, and nothing else changes or is
delayed. A signal of a source sets its bit in HIC_PEND, whatever the enable is, and no other bit; a second signal
before the take leaves the state as the first one did; the signal changes nothing but that bit. A source that is
enabled, above the threshold of its core and alone is offered to the core in the state right after the signal. (R418.) -/
def Obligations.AnEventSetsThePendingBit : Prop :=
  (∀ (s : State) (n : Nat), n < 256 → (s.signal n).hic.pend.getLsbD n = true ∧ (∀ m, m < 256 → m ≠ n → (s.signal n).hic.pend.getLsbD m = s.hic.pend.getLsbD m)) ∧
  (∀ (s : State) (n : Nat), (s.signal n).signal n = s.signal n) ∧
  (∀ (s : State) (n : Nat) (en : BitVec 256), ({ s with hic := { s.hic with en := en } } : State).signal n =
    { s.signal n with hic := { (s.signal n).hic with en := en } }) ∧
  (∀ (s : State) (n : Nat), s.signal n = { s with hic := { s.hic with pend := (s.signal n).hic.pend } }) ∧
  (∀ (s : State) (c n : Nat), n < 256 → s.hic.en.getLsbD n = true → SMap.get 0 s.hic.target n = c → SMap.get 0 s.hic.thresh c < SMap.get 0 s.hic.prio n →
    s.hic.enable = true → s.hic.of c = [] → (∀ m, m < 256 → m ≠ n → s.hic.eligible c m = false) → (s.signal n).hic.offer c = some n)

/-- A core holds at most 16 active sources; while it holds 16 no source is offered and pending ones stay pending. HIC_TAKE
and a write of a pending word with a take keep the active sources of every core at most 16, and an end of interrupt
does not add one. While a core holds 16, the offer to it is none, and a take leaves the whole state, every pending bit
with it. (R422.) -/
def Obligations.ACoreHoldsAtMostSixteenSources : Prop :=
  (∀ (x : CoreIn) (s t : State) (c : Nat), (s.hic.of c).length ≤ 16 → exec (.hicTake x) s = .next t → (t.hic.of c).length ≤ 16) ∧
  (∀ (core : Fin 4) (src : BitVec 8) (s t : State) (c : Nat), exec (.hicEoi core src) s = .next t → (t.hic.of c).length ≤ (s.hic.of c).length) ∧
  (∀ (w : Fin 4) (v events : BitVec 64) (taker : Option CoreIn) (s t : State) (c : Nat), (s.hic.of c).length ≤ 16 →
    exec (.hicPendWrite w v events taker) s = .next t → (t.hic.of c).length ≤ 16) ∧
  (∀ (s : State) (c : Nat), 16 ≤ (s.hic.of c).length → s.hic.offer c = none) ∧
  (∀ (x : CoreIn) (s : State), 16 ≤ (s.hic.of x.core.val).length → exec (.hicTake x) s = .next s)

/-- An event takes the next number of its parcel, goes to its address, is kept until acknowledged, at most 1,024, and
marks a loss. A parcel without a key sends nothing. An event of one with a key takes the next event number, stands
last among at most 1,024 unacknowledged ones with its kind, opcode, request number, status, time and object, and
carries LOST where one was lost or the oldest goes for it; other mailboxes stay. To an address it goes out at once as
one message of OPCODE EVENT. The payload and the head hold the fields at the bytes of R375 and R356. (R375, R376,
R364.) -/
def Obligations.EventsAreNumberedSentAndKept : Prop :=
  (∀ (s : State) (p kind op seq status object : Nat) (body : Bytes) (dest : Option NetAddr), (s.box p).key = none →
    s.event p kind op seq status object body dest = s) ∧
  (∀ (s y : State) (p kind op seq status object : Nat) (body : Bytes) (dest : Option NetAddr), (s.box p).key ≠ none →
    s.event p kind op seq status object body dest = y →
    (y.box p).evNum = (s.box p).evNum + 1 ∧ (y.box p).lost = false ∧
    ((s.box p).unacked.length ≤ 1024 → (y.box p).unacked.length ≤ 1024) ∧
    (∃ e, (y.box p).unacked.getLast? = some e ∧ e.num = (s.box p).evNum + 1 ∧ e.kind = kind ∧ e.opcode = op ∧ e.reqSeq = seq ∧ e.status = status ∧
      e.object = object ∧ e.body = body ∧ e.time = s.now ∧ (e.lost = true ↔ (s.box p).lost = true ∨ 1024 ≤ (s.box p).unacked.length)) ∧
    (∀ q, q ≠ p → y.box q = s.box q) ∧ y.mem = s.mem ∧ y.book = s.book ∧ y.parcels = s.parcels) ∧
  (∀ (s : State) (p kind op seq status object : Nat) (body key : Bytes) (a : NetAddr), (s.box p).key = some key →
    ∃ e : EvMsg, e.num = (s.box p).evNum + 1 ∧ e.kind = kind ∧ (s.event p kind op seq status object body (some a)).mail.out =
      s.mail.out ++ [⟨a, edMessage key 2 2 p e.num status e.payload⟩]) ∧
  (∀ (e : EvMsg), e.payload.length = 32 + e.body.length ∧ leAt e.payload 0 1 = e.kind % 256 ∧ leAt e.payload 2 2 = e.opcode % 2 ^ 16 ∧
    leAt e.payload 4 4 = e.reqSeq % 2 ^ 32 ∧ leAt e.payload 8 2 = e.status % 2 ^ 16 ∧ leAt e.payload 0x10 8 = e.time % 2 ^ 64 ∧
    leAt e.payload 0x18 8 = e.object % 2 ^ 64 ∧ e.payload.drop 0x20 = e.body) ∧
  (∀ (key payload : Bytes) (op parcel seq status : Nat), leAt (edMessage key 2 op parcel seq status payload) 0 2 = 0x4544 ∧
    leAt (edMessage key 2 op parcel seq status payload) 4 2 = op % 2 ^ 16 ∧ leAt (edMessage key 2 op parcel seq status payload) 6 2 = parcel % 2 ^ 16 ∧
    leAt (edMessage key 2 op parcel seq status payload) 8 4 = seq % 2 ^ 32 ∧ leAt (edMessage key 2 op parcel seq status payload) 12 4 = payload.length % 2 ^ 32)

/-- A tile or canal fault stops its tile, keeps the first cause, posts one event and forces the plot of the tile and
nothing else. A tile fault halts its tile and discards its contexts, records the cause and information of the first
fault and MULTI at a later one, posts one field-book event, and leaves the other tiles, memory and the other plots;
the plot of the tile is forced with cause 0x10. A canal fault does the same in the canal record of the tile and forces
with cause 0x11. (R65, R127, R150, R151, 02_tile_core.md Table 2-17.) -/
def Obligations.FaultsStopTheirTileAndForceItsPlot : Prop :=
  (∀ (s y : State) (g cause status : Nat) (info : BitVec 64), s.tileFault g cause info status = y →
    (y.tile g).halted = true ∧ (y.tile g).ctxs = [] ∧ (y.tile g).regs.fault.valid = true ∧ (y.tile g).regs.canalFault = (s.tile g).regs.canalFault ∧
    ((s.tile g).regs.fault.valid = false → (y.tile g).regs.fault.cause = cause ∧ (y.tile g).regs.fault.info = info) ∧
    ((s.tile g).regs.fault.valid = true → (y.tile g).regs.fault = { (s.tile g).regs.fault with multi := true }) ∧
    (∀ i, i ≠ g → y.tile i = s.tile i) ∧ y.book.next = s.book.next + 1 ∧ y.mem = s.mem ∧
    (∀ b, (s.tile g).lead ≠ some b → y.block b = s.block b)) ∧
  (∀ (s : State) (g cause status : Nat) (info : BitVec 64) (b : Nat) (p : Plot), (s.tile g).lead = some b → b < 64 → s.plot b = some p → p.state ≠ .free →
    p.state ≠ .forcing → forcedBy s (s.tileFault g cause info status) b 0x10) ∧
  (∀ (s y : State) (g cause : Nat) (info : BitVec 64), s.canalFault g cause info = y →
    (y.tile g).halted = true ∧ (y.tile g).ctxs = [] ∧ (y.tile g).regs.canalFault.valid = true ∧ (y.tile g).regs.fault = (s.tile g).regs.fault ∧
    ((s.tile g).regs.canalFault.valid = false → (y.tile g).regs.canalFault.cause = cause ∧ (y.tile g).regs.canalFault.info = info) ∧
    (∀ i, i ≠ g → y.tile i = s.tile i) ∧ y.book.next = s.book.next + 1 ∧ y.mem = s.mem ∧
    (∀ b, (s.tile g).lead ≠ some b → y.block b = s.block b)) ∧
  (∀ (s : State) (g cause : Nat) (info : BitVec 64) (b : Nat) (p : Plot), (s.tile g).lead = some b → b < 64 → s.plot b = some p → p.state ≠ .free →
    p.state ≠ .forcing → forcedBy s (s.canalFault g cause info) b 0x11)

/-- A write stores its bytes and no others, and removes the error of exactly the code words it replaces whole. The write
of a run of bytes makes each of them read back and leaves every other byte; a Field word of 16 bytes and a Reservoir
word of 32 loses its uncorrectable error exactly where the write covers the word, so a partial write leaves it; page
tags and regions stay. Zeroing a range zeroes that range only. A write keeps the canonical form. (R157, R158, R193.) -/
def Obligations.WritesRenewWholeCodeWords : Prop :=
  (∀ (m : Mem) (k i : Nat) (l : Bytes), i < l.length → (m.store k l).read (k + i) = l.getD i 0) ∧
  (∀ (m : Mem) (k a : Nat) (l : Bytes), a < k ∨ k + l.length ≤ a → (m.store k l).read a = m.read a) ∧
  (∀ (m : Mem) (k w : Nat) (l : Bytes), SMap.get false (m.store k l).ueField w =
    (SMap.get false m.ueField w && !decide (k ≤ 16 * w ∧ 16 * w + 16 ≤ k + l.length))) ∧
  (∀ (m : Mem) (k w : Nat) (l : Bytes), SMap.get false (m.store k l).ueRes w =
    (SMap.get false m.ueRes w && !decide (k ≤ 32 * w ∧ 32 * w + 32 ≤ k + l.length))) ∧
  (∀ (m : Mem) (k : Nat) (l : Bytes), (m.store k l).tags = m.tags ∧ (m.store k l).region = m.region) ∧
  (∀ (m : Mem) (k n a : Nat), (m.zero k n).read a = if k ≤ a ∧ a < k + n then 0 else m.read a) ∧
  (∀ (m : Mem) (k : Nat) (l : Bytes), Memory.wf m = true → Memory.wf (m.store k l) = true)

/-- The interrupt, policy, log, store, power-sensing and register commands change no byte of memory and no token on a
link. Each of 38 commands of the interrupt controller, the policy modules, the field book, the store, the sensing of
power and temperature, the ports and the register file leaves every byte of memory with its error marks and tags,
every token on a link, the model registry and the queue. (R415, R417, R431, R440, R452, R454, R9.) -/
def Obligations.ManagementLeavesMemoryAndTokens : Prop :=
  ∀ (c : Instr) (s t : State), leavesMemory c = true → exec c s = .next t → t.mem = s.mem ∧ t.flights = s.flights ∧ t.models = s.models ∧
    t.pending = s.pending
end

