-- ==== Sys2Proof/Laws/Tables.lean ====
section
/-! SUPPORT. Sparse tables: what a read finds after a write, and that writes and removals keep the canonical form. -/

namespace Sys2Proof

variable {α : Type}

@[simp] theorem SMap.get_nil (d : α) (k : Nat) : SMap.get d ([] : SMap α) k = d := rfl

theorem SMap.get_put (d : α) (m : SMap α) (k a : Nat) (v : α) :
    SMap.get d (SMap.put m k v) a = if k = a then v else SMap.get d m a := by
  induction m with
  | nil => rfl
  | cons x l ih =>
    obtain ⟨k', w⟩ := x
    simp only [SMap.put]
    split
    · rfl
    · split
      · next h => subst h; simp only [SMap.get]; split <;> rfl
      · next h =>
        simp only [SMap.get, ih]
        by_cases hk : k' = a
        · rw [if_pos hk, if_pos hk, if_neg (by omega)]
        · rw [if_neg hk, if_neg hk]

theorem SMap.get_drop (d : α) (m : SMap α) (k a : Nat) :
    SMap.get d (m.filter (fun kv => kv.1 != k)) a = if k = a then d else SMap.get d m a := by
  induction m with
  | nil => simp [SMap.get]
  | cons x l ih =>
    obtain ⟨k', w⟩ := x
    simp only [List.filter_cons]
    by_cases hk : k' = k
    · subst hk
      simp only [bne_self_eq_false, Bool.false_eq_true, if_false, ih, SMap.get]
      split <;> rfl
    · simp only [bne_iff_ne, ne_eq, hk, not_false_eq_true, if_true, SMap.get, ih]
      by_cases ha : k' = a
      · rw [if_pos ha, if_pos ha, if_neg (by omega)]
      · rw [if_neg ha, if_neg ha]

/-- What a read finds after a write, in any table. -/
theorem SMap.get_set [DecidableEq α] (d : α) (m : SMap α) (k a : Nat) (v : α) :
    SMap.get d (SMap.set d m k v) a = if k = a then v else SMap.get d m a := by
  unfold SMap.set
  split
  · next h => subst h; exact SMap.get_drop v m k a
  · exact SMap.get_put d m k a v

/-- The value just written is read. -/
@[simp] theorem SMap.get_set_same [DecidableEq α] (d : α) (m : SMap α) (k : Nat) (v : α) :
    SMap.get d (SMap.set d m k v) k = v := by
  rw [SMap.get_set, if_pos rfl]

/-- Every other key reads as before. -/
theorem SMap.get_set_other [DecidableEq α] (d : α) (m : SMap α) (k a : Nat) (v : α) (h : a ≠ k) :
    SMap.get d (SMap.set d m k v) a = SMap.get d m a := by
  rw [SMap.get_set, if_neg (Ne.symm h)]

theorem SMap.wfFrom_mono [DecidableEq α] (d : α) (m : SMap α) {a b : Nat} (hab : a ≤ b) (h : SMap.wfFrom d b m = true) :
    SMap.wfFrom d a m = true := by
  cases m with
  | nil => rfl
  | cons x l =>
    obtain ⟨k, v⟩ := x
    simp only [SMap.wfFrom, Bool.and_eq_true, decide_eq_true_eq] at h ⊢
    exact ⟨⟨by omega, h.1.2⟩, h.2⟩

theorem SMap.put_wfFrom [DecidableEq α] (d : α) (m : SMap α) (lo k : Nat) (v : α) (hv : v ≠ d) (hk : lo ≤ k)
    (h : SMap.wfFrom d lo m = true) : SMap.wfFrom d lo (SMap.put m k v) = true := by
  induction m generalizing lo with
  | nil => simp_all [SMap.put, SMap.wfFrom]
  | cons x l ih =>
    obtain ⟨k', w⟩ := x
    simp only [SMap.wfFrom, Bool.and_eq_true, decide_eq_true_eq] at h
    simp only [SMap.put]
    split
    · simp only [SMap.wfFrom, Bool.and_eq_true, decide_eq_true_eq]; exact ⟨⟨hk, hv⟩, ⟨by omega, h.1.2⟩, h.2⟩
    · split
      · simp only [SMap.wfFrom, Bool.and_eq_true, decide_eq_true_eq]; exact ⟨⟨hk, hv⟩, SMap.wfFrom_mono d l (by omega) h.2⟩
      · simp only [SMap.wfFrom, Bool.and_eq_true, decide_eq_true_eq]
        exact ⟨h.1, ih _ (by omega) h.2⟩

theorem SMap.filter_wfFrom [DecidableEq α] (d : α) (m : SMap α) (p : Nat × α → Bool) (lo : Nat) (h : SMap.wfFrom d lo m = true) :
    SMap.wfFrom d lo (m.filter p) = true := by
  induction m generalizing lo with
  | nil => rfl
  | cons x l ih =>
    obtain ⟨k, v⟩ := x
    simp only [SMap.wfFrom, Bool.and_eq_true, decide_eq_true_eq] at h
    simp only [List.filter_cons]
    split
    · simp only [SMap.wfFrom, Bool.and_eq_true, decide_eq_true_eq]; exact ⟨h.1, ih _ h.2⟩
    · exact ih _ (SMap.wfFrom_mono d l (by omega) h.2)

/-- A write keeps the canonical form. -/
theorem SMap.set_wf [DecidableEq α] (d : α) (m : SMap α) (k : Nat) (v : α) (h : SMap.wf d m = true) :
    SMap.wf d (SMap.set d m k v) = true := by
  unfold SMap.set
  split
  · exact SMap.filter_wfFrom d m _ 0 h
  · next hv => exact SMap.put_wfFrom d m 0 k v hv (Nat.zero_le k) h

/-- Removing entries keeps the canonical form. -/
theorem SMap.filter_wf [DecidableEq α] (d : α) (m : SMap α) (p : Nat × α → Bool) (h : SMap.wf d m = true) :
    SMap.wf d (m.filter p) = true := SMap.filter_wfFrom d m p 0 h

/-- Clearing a range keeps the canonical form. -/
theorem SMap.without_wf [DecidableEq α] (d : α) (m : SMap α) (base len : Nat) (h : SMap.wf d m = true) :
    SMap.wf d (SMap.without m base len) = true := SMap.filter_wf d m _ h

/-- A cleared range reads as the default, and every other key as before. -/
theorem SMap.get_without (d : α) (m : SMap α) (base len k : Nat) :
    SMap.get d (SMap.without m base len) k = if base ≤ k ∧ k < base + len then d else SMap.get d m k := by
  unfold SMap.without
  induction m with
  | nil => simp [SMap.get]
  | cons x l ih =>
    obtain ⟨k', v⟩ := x
    simp only [List.filter_cons]
    by_cases hin : base ≤ k' ∧ k' < base + len
    · simp only [hin, and_self, decide_true, Bool.not_true, Bool.false_eq_true, if_false, ih, SMap.get]
      by_cases hk : k' = k
      · subst hk; simp [hin]
      · rw [if_neg hk]
    · simp only [hin, decide_false, Bool.not_false, if_true, SMap.get, ih]
      by_cases hk : k' = k
      · subst hk; simp [hin]
      · rw [if_neg hk, if_neg hk]

/-- Writes in a row keep the canonical form. -/
theorem SMap.foldl_set_wf [DecidableEq α] {β : Type} (d : α) (l : List β) (f : β → Nat) (g : β → α) (m : SMap α) (h : SMap.wf d m = true) :
    SMap.wf d (l.foldl (fun m x => SMap.set d m (f x) (g x)) m) = true := by
  induction l generalizing m with
  | nil => exact h
  | cons x l ih => exact ih _ (SMap.set_wf d m _ _ h)

end Sys2Proof
end

