-- ==== Sys2Proof/Laws/Memory.lean ====
section
/-! SUPPORT. The memories: a read after a write, what a write leaves alone, and that every operation keeps the canonical form. -/

namespace Sys2Proof.Machine

theorem Memory.wf_iff (m : Mem) : Memory.wf m = true ↔
    SMap.wf 0 m.bytes = true ∧ SMap.wf false m.ueField = true ∧ SMap.wf false m.ueRes = true ∧ SMap.wf ⟨0, 0⟩ m.tags = true ∧
      SMap.wf 0 m.region = true := by
  simp [Memory.wf, Bool.and_eq_true, and_assoc]

/-- A byte just written is read. -/
theorem Mem.read_write_same (m : Mem) (k : Nat) (b : Byte) : (m.write k b).read k = b := SMap.get_set_same 0 m.bytes k b

/-- Every other byte reads as before. -/
theorem Mem.read_write_other (m : Mem) (k a : Nat) (b : Byte) (h : a ≠ k) : (m.write k b).read a = m.read a :=
  SMap.get_set_other 0 m.bytes k a b h

theorem Mem.write_wf (m : Mem) (k : Nat) (b : Byte) (h : Memory.wf m = true) : Memory.wf (m.write k b) = true := by
  rw [Memory.wf_iff] at *
  exact ⟨SMap.set_wf _ _ _ _ h.1, h.2⟩

theorem Mem.writeN_wf (m : Mem) (k : Nat) (l : Bytes) (h : Memory.wf m = true) : Memory.wf (m.writeN k l) = true := by
  induction l generalizing m k with
  | nil => exact h
  | cons b l ih => exact ih _ _ (Mem.write_wf m k b h)

/-- A string of bytes leaves every address outside it alone. -/
theorem Mem.read_writeN_other (m : Mem) (k a : Nat) (l : Bytes) (h : a < k ∨ k + l.length ≤ a) : (m.writeN k l).read a = m.read a := by
  induction l generalizing m k with
  | nil => rfl
  | cons b l ih =>
    have hl : (b :: l).length = l.length + 1 := rfl
    rw [hl] at h
    exact (ih _ _ (by omega)).trans (Mem.read_write_other m k a b (by omega))

/-- A string of bytes reads back. -/
theorem Mem.read_writeN_same (m : Mem) (k i : Nat) (l : Bytes) (hi : i < l.length) :
    (m.writeN k l).read (k + i) = l.getD i 0 := by
  induction l generalizing m k i with
  | nil => exact absurd hi (Nat.not_lt_zero _)
  | cons b l ih =>
    cases i with
    | zero =>
      exact (Mem.read_writeN_other (m.write k b) (k + 1) k l (by omega)).trans (Mem.read_write_same m k b)
    | succ i =>
      have := ih (m.write k b) (k + 1) i (by simpa using hi)
      simpa [Mem.writeN, Nat.add_assoc, Nat.add_comm 1 i] using this

theorem clearUe_wf (w : Nat) (ue : SMap Bool) (k n : Nat) (h : SMap.wf false ue = true) : SMap.wf false (clearUe w ue k n) = true :=
  SMap.filter_wf _ _ _ h

theorem Mem.writeN_rest (m : Mem) (k : Nat) (l : Bytes) :
    (m.writeN k l).ueField = m.ueField ∧ (m.writeN k l).ueRes = m.ueRes ∧ (m.writeN k l).tags = m.tags ∧ (m.writeN k l).region = m.region := by
  induction l generalizing m k with
  | nil => exact ⟨rfl, rfl, rfl, rfl⟩
  | cons b l ih => exact ih (m.write k b) (k + 1)

theorem Mem.store_wf (m : Mem) (k : Nat) (l : Bytes) (h : Memory.wf m = true) : Memory.wf (m.store k l) = true := by
  have hb := (Memory.wf_iff _).1 (Mem.writeN_wf m k l h)
  rw [Memory.wf_iff] at *
  exact ⟨hb.1, clearUe_wf _ _ _ _ h.2.1, clearUe_wf _ _ _ _ h.2.2.1, hb.2.2.2.1, hb.2.2.2.2⟩

/-- A store reads back. -/
theorem Mem.read_store_same (m : Mem) (k i : Nat) (l : Bytes) (hi : i < l.length) :
    (m.store k l).read (k + i) = l.getD i 0 := Mem.read_writeN_same m k i l hi

/-- A store leaves every address outside it alone. -/
theorem Mem.read_store_other (m : Mem) (k a : Nat) (l : Bytes) (h : a < k ∨ k + l.length ≤ a) : (m.store k l).read a = m.read a :=
  Mem.read_writeN_other m k a l h

theorem Mem.zero_wf (m : Mem) (k n : Nat) (h : Memory.wf m = true) : Memory.wf (m.zero k n) = true := by
  rw [Memory.wf_iff] at *
  exact ⟨SMap.without_wf _ _ _ _ h.1, clearUe_wf _ _ _ _ h.2.1, clearUe_wf _ _ _ _ h.2.2.1, h.2.2.2⟩

/-- A zeroed range reads as zero, and every other address as before. -/
theorem Mem.read_zero (m : Mem) (k n a : Nat) : (m.zero k n).read a = if k ≤ a ∧ a < k + n then 0 else m.read a :=
  SMap.get_without 0 m.bytes k n a

theorem Mem.tagPages_wf (m : Mem) (k n : Nat) (t : PageTag) (h : Memory.wf m = true) : Memory.wf (m.tagPages k n t) = true := by
  rw [Memory.wf_iff] at *
  exact ⟨h.1, h.2.1, h.2.2.1, SMap.foldl_set_wf _ _ (fun i => k / 4096 + i) (fun _ => t) _ h.2.2.2.1, h.2.2.2.2⟩

/-- Tagging pages changes no byte. -/
theorem Mem.read_tagPages (m : Mem) (k n a : Nat) (t : PageTag) : (m.tagPages k n t).read a = m.read a := rfl

theorem storeWord_wf (m : Mem) (k v : Nat) (on : Nat → Bool) (i : Nat) (h : Memory.wf m = true) : Memory.wf (storeWord m k v on i) = true := by
  unfold storeWord
  extract_lets js
  split
  · exact Mem.store_wf _ _ _ h
  · generalize js = l
    induction l generalizing m with
    | nil => exact h
    | cons j l ih =>
      apply ih
      beta_reduce
      split
      · exact Mem.write_wf _ _ _ h
      · exact h

/-- Marking a Field word uncorrectable keeps the form. -/
theorem Mem.ueField_wf (m : Mem) (w : Nat) (b : Bool) (h : Memory.wf m = true) :
    Memory.wf { m with ueField := SMap.set false m.ueField w b } = true := by
  rw [Memory.wf_iff] at *
  exact ⟨h.1, SMap.set_wf _ _ _ _ h.2.1, h.2.2⟩

/-- Marking a Reservoir word uncorrectable keeps the form. -/
theorem Mem.ueRes_wf (m : Mem) (w : Nat) (b : Bool) (h : Memory.wf m = true) :
    Memory.wf { m with ueRes := SMap.set false m.ueRes w b } = true := by
  rw [Memory.wf_iff] at *
  exact ⟨h.1, h.2.1, SMap.set_wf _ _ _ _ h.2.2.1, h.2.2.2⟩

/-- Writing region-table entries keeps the form. -/
theorem Mem.region_wf (m : Mem) (l : List Nat) (u : Nat) (e : BitVec 32) (h : Memory.wf m = true) :
    Memory.wf { m with region := l.foldl (fun r i => SMap.set 0 r (u + i) e) m.region } = true := by
  rw [Memory.wf_iff] at *
  exact ⟨h.1, h.2.1, h.2.2.1, h.2.2.2.1, SMap.foldl_set_wf _ _ (fun i => u + i) (fun _ => e) _ h.2.2.2.2⟩

/-- Losing page tags keeps the form. -/
theorem Mem.untag_wf (m : Mem) (k n : Nat) (h : Memory.wf m = true) : Memory.wf { m with tags := SMap.without m.tags k n } = true := by
  rw [Memory.wf_iff] at *
  exact ⟨h.1, h.2.1, h.2.2.1, SMap.without_wf _ _ _ _ h.2.2.2.1, h.2.2.2.2⟩

/-- Reset's memories are in canonical form. -/
theorem reset_mem_wf : Memory.wf State.reset.mem = true := rfl

end Sys2Proof.Machine
end

