-- ==== Sys2Proof/Laws/Kept.lean ====
section
/-! SUPPORT. The queue and the memories of a state that is changed elsewhere: the steps that the lemmas about every operation rest on. -/

namespace Sys2Proof.Machine

variable {q : List Instr}

theorem Kept.mem {s : State} (h : Kept q s) : Memory.wf s.mem = true := h.2

/-- A change of other fields keeps both. -/
theorem Kept.upd {s : State} {a2 a3 a4 a6 a7 a8 a9 a10 a11 a12 a13 a14 a15 a16 a17 a18 a19 a20 a21 a22 a23 a24 a25 a26 a27 a28 a29 a30}
    (h : Kept q s) : Kept q ⟨s.pending, a2, a3, a4, s.mem, a6, a7, a8, a9, a10, a11, a12, a13, a14, a15, a16, a17, a18, a19, a20, a21, a22,
      a23, a24, a25, a26, a27, a28, a29, a30⟩ := h

/-- A change of the memories keeps both when their form is kept. -/
theorem Kept.updMem {s : State} {m a2 a3 a4 a6 a7 a8 a9 a10 a11 a12 a13 a14 a15 a16 a17 a18 a19 a20 a21 a22 a23 a24 a25 a26 a27 a28 a29 a30}
    (h : Kept q s) (hm : Memory.wf s.mem = true → Memory.wf m = true) : Kept q ⟨s.pending, a2, a3, a4, m, a6, a7, a8, a9, a10, a11, a12, a13, a14, a15, a16, a17, a18,
      a19, a20, a21, a22, a23, a24, a25, a26, a27, a28, a29, a30⟩ := ⟨h.1, hm h.2⟩

/-- A choice keeps both when each side does. -/
theorem ite_kept {c : Prop} [Decidable c] {a b : State} (ha : Kept q a) (hb : Kept q b) : Kept q (if c then a else b) := by
  split
  · exact ha
  · exact hb

/-- The same for a choice of a value and a state. -/
theorem ite_kept_snd {α : Type} {c : Prop} [Decidable c] {a b : α × State} (ha : Kept q a.2) (hb : Kept q b.2) :
    Kept q (if c then a else b).2 := by
  split
  · exact ha
  · exact hb

/-- A run over a list keeps both when each turn does. -/
theorem foldl_kept {α : Type} {f : State → α → State} {l : List α} {s : State} (hf : ∀ t x, Kept q t → Kept q (f t x)) (h : Kept q s) :
    Kept q (l.foldl f s) := by
  induction l generalizing s with
  | nil => exact h
  | cons x l ih => exact ih (hf s x h)

/-- The same for a run over the work of a wide word. -/
theorem foldl_work_kept {α : Type} {f : Work → α → Work} {l : List α} {w : Work} (hf : ∀ t x, Kept q t.s → Kept q (f t x).s) (h : Kept q w.s) :
    Kept q (l.foldl f w).s := by
  induction l generalizing w with
  | nil => exact h
  | cons x l ih => exact ih (hf w x h)

/-- A run over a list keeps the form of the memories when each turn does. -/
theorem foldl_mem_wf {α : Type} {f : Mem → α → Mem} {l : List α} {m : Mem} (hf : ∀ n x, Memory.wf n = true → Memory.wf (f n x) = true)
    (h : Memory.wf m = true) : Memory.wf (l.foldl f m) = true := by
  induction l generalizing m with
  | nil => exact h
  | cons x l ih => exact ih (hf m x h)

end Sys2Proof.Machine
end

