-- ==== Sys2Proof/Laws/KeptOps.lean ====
section
/-! SUPPORT. Every operation of Machine/Ops.lean leaves the queue alone and keeps the memories in canonical form. -/

set_option linter.unusedTactic false
set_option linter.unreachableTactic false
set_option linter.unusedVariables false
set_option linter.unnecessarySeqFocus false

namespace Sys2Proof.Machine

theorem State.setTile_kept {q : List Instr} (s : State) (g : Nat) (t : Tile) (h : Kept q s) : Kept q (State.setTile s g t) := by
  unfold State.setTile
  repeat' (first | with_reducible assumption | fail_if_no_progress (with_reducible apply Kept.upd) | with_reducible apply foldl_kept | (intro) | split | (fail_if_no_progress extract_lets) | (fail_if_no_progress beta_reduce) | (dsimp +zetaDelta only) | fail)

theorem State.updTile_kept {q : List Instr} (s : State) (g : Nat) (f : Tile → Tile) (h : Kept q s) : Kept q (State.updTile s g f) := by
  unfold State.updTile
  repeat' (first | with_reducible assumption | with_reducible apply State.setTile_kept | fail_if_no_progress (with_reducible apply Kept.upd) | with_reducible apply foldl_kept | (intro) | split | (fail_if_no_progress extract_lets) | (fail_if_no_progress beta_reduce) | (dsimp +zetaDelta only) | fail)

theorem State.setBlock_kept {q : List Instr} (s : State) (b : Nat) (x : Block) (h : Kept q s) : Kept q (State.setBlock s b x) := by
  unfold State.setBlock
  repeat' (first | with_reducible assumption | fail_if_no_progress (with_reducible apply Kept.upd) | with_reducible apply foldl_kept | (intro) | split | (fail_if_no_progress extract_lets) | (fail_if_no_progress beta_reduce) | (dsimp +zetaDelta only) | fail)

theorem State.setPlot_kept {q : List Instr} (s : State) (b : Nat) (p : Plot) (h : Kept q s) : Kept q (State.setPlot s b p) := by
  unfold State.setPlot
  repeat' (first | with_reducible assumption | with_reducible apply State.setBlock_kept | fail_if_no_progress (with_reducible apply Kept.upd) | with_reducible apply foldl_kept | (intro) | split | (fail_if_no_progress extract_lets) | (fail_if_no_progress beta_reduce) | (dsimp +zetaDelta only) | fail)

theorem State.updPlotRegs_kept {q : List Instr} (s : State) (b : Nat) (f : PlotRegs → PlotRegs) (h : Kept q s) : Kept q (State.updPlotRegs s b f) := by
  unfold State.updPlotRegs
  repeat' (first | with_reducible assumption | with_reducible apply State.setBlock_kept | fail_if_no_progress (with_reducible apply Kept.upd) | with_reducible apply foldl_kept | (intro) | split | (fail_if_no_progress extract_lets) | (fail_if_no_progress beta_reduce) | (dsimp +zetaDelta only) | fail)

theorem State.setBox_kept {q : List Instr} (s : State) (p : Nat) (m : Mailbox) (h : Kept q s) : Kept q (State.setBox s p m) := by
  unfold State.setBox
  repeat' (first | with_reducible assumption | fail_if_no_progress (with_reducible apply Kept.upd) | with_reducible apply foldl_kept | (intro) | split | (fail_if_no_progress extract_lets) | (fail_if_no_progress beta_reduce) | (dsimp +zetaDelta only) | fail)

theorem State.updTiles_kept {q : List Instr} (s : State) (l : List Nat) (f : Tile → Tile) (h : Kept q s) : Kept q (State.updTiles s l f) := by
  unfold State.updTiles
  repeat' (first | with_reducible assumption | with_reducible apply State.updTile_kept | fail_if_no_progress (with_reducible apply Kept.upd) | with_reducible apply foldl_kept | (intro) | split | (fail_if_no_progress extract_lets) | (fail_if_no_progress beta_reduce) | (dsimp +zetaDelta only) | fail)

theorem State.updQuad_kept {q : List Instr} (s : State) (q' : Nat) (f : QuadMem → QuadMem) (h : Kept q s) : Kept q (State.updQuad s q' f) := by
  unfold State.updQuad
  repeat' (first | with_reducible assumption | fail_if_no_progress (with_reducible apply Kept.upd) | with_reducible apply foldl_kept | (intro) | split | (fail_if_no_progress extract_lets) | (fail_if_no_progress beta_reduce) | (dsimp +zetaDelta only) | fail)

theorem State.tick_kept {q : List Instr} (s : State) (n : Nat) (h : Kept q s) : Kept q (State.tick s n) := by
  unfold State.tick
  repeat' (first | with_reducible assumption | fail_if_no_progress (with_reducible apply Kept.upd) | with_reducible apply foldl_kept | (intro) | split | (fail_if_no_progress extract_lets) | (fail_if_no_progress beta_reduce) | (dsimp +zetaDelta only) | fail)

theorem State.transmit_kept {q : List Instr} (s : State) (p : Nat) (e : EvMsg) (h : Kept q s) : Kept q (State.transmit s p e).1 := by
  unfold State.transmit
  repeat' (first | with_reducible assumption | fail_if_no_progress (with_reducible apply Kept.upd) | with_reducible apply foldl_kept | (intro) | split | (fail_if_no_progress extract_lets) | (fail_if_no_progress beta_reduce) | (dsimp +zetaDelta only) | fail)

theorem State.event_kept {q : List Instr} (s : State) (p : Nat) (kind : Nat) (op : Nat) (seq : Nat) (status : Nat) (object : Nat) (body : Bytes) (dest : Option NetAddr) (h : Kept q s) : Kept q (State.event s p kind op seq status object body dest) := by
  unfold State.event
  repeat' (first | with_reducible assumption | with_reducible apply State.setBox_kept | with_reducible apply State.transmit_kept | fail_if_no_progress (with_reducible apply Kept.upd) | with_reducible apply foldl_kept | (intro) | split | (fail_if_no_progress extract_lets) | (fail_if_no_progress beta_reduce) | (dsimp +zetaDelta only) | fail)

theorem State.post_kept {q : List Instr} (s : State) (dr : Bool) (src : Nat) (code : Nat) (status : Nat) (parcel : Nat) (unit : Nat) (detail : BitVec 64) (h : Kept q s) : Kept q (State.post s dr src code status parcel unit detail) := by
  unfold State.post
  repeat' (first | with_reducible assumption | with_reducible apply State.event_kept | fail_if_no_progress (with_reducible apply Kept.upd) | with_reducible apply foldl_kept | (intro) | split | (fail_if_no_progress extract_lets) | (fail_if_no_progress beta_reduce) | (dsimp +zetaDelta only) | fail)

theorem State.signal_kept {q : List Instr} (s : State) (n : Nat) (h : Kept q s) : Kept q (State.signal s n) := by
  unfold State.signal
  repeat' (first | with_reducible assumption | fail_if_no_progress (with_reducible apply Kept.upd) | with_reducible apply foldl_kept | (intro) | split | (fail_if_no_progress extract_lets) | (fail_if_no_progress beta_reduce) | (dsimp +zetaDelta only) | fail)

theorem State.force_kept {q : List Instr} (s : State) (b : Nat) (cause : Nat) (status : Nat) (tile : Nat) (retry : Bool) (h : Kept q s) : Kept q (State.force s b cause status tile retry) := by
  unfold State.force
  repeat' (first | with_reducible assumption | with_reducible apply State.setPlot_kept | with_reducible apply State.signal_kept | with_reducible apply State.updPlotRegs_kept | fail_if_no_progress (with_reducible apply Kept.upd) | with_reducible apply foldl_kept | (intro) | split | (fail_if_no_progress extract_lets) | (fail_if_no_progress beta_reduce) | (dsimp +zetaDelta only) | fail)

theorem State.tileFault_kept {q : List Instr} (s : State) (g : Nat) (cause : Nat) (info : BitVec 64) (status : Nat) (h : Kept q s) : Kept q (State.tileFault s g cause info status) := by
  unfold State.tileFault
  repeat' (first | with_reducible assumption | with_reducible apply State.force_kept | with_reducible apply State.post_kept | with_reducible apply State.setTile_kept | fail_if_no_progress (with_reducible apply Kept.upd) | with_reducible apply foldl_kept | (intro) | split | (fail_if_no_progress extract_lets) | (fail_if_no_progress beta_reduce) | (dsimp +zetaDelta only) | fail)

theorem State.canalFault_kept {q : List Instr} (s : State) (g : Nat) (cause : Nat) (info : BitVec 64) (h : Kept q s) : Kept q (State.canalFault s g cause info) := by
  unfold State.canalFault
  repeat' (first | with_reducible assumption | with_reducible apply State.force_kept | with_reducible apply State.post_kept | with_reducible apply State.setTile_kept | fail_if_no_progress (with_reducible apply Kept.upd) | with_reducible apply foldl_kept | (intro) | split | (fail_if_no_progress extract_lets) | (fail_if_no_progress beta_reduce) | (dsimp +zetaDelta only) | fail)

end Sys2Proof.Machine
end

