-- ==== Sys2Proof/Laws/KeptQueues.lean ====
section
/-! SUPPORT. Every operation of Machine/Queues.lean leaves the queue alone and keeps the memories in canonical form. -/

set_option linter.unusedTactic false
set_option linter.unreachableTactic false
set_option linter.unusedVariables false
set_option linter.unnecessarySeqFocus false

namespace Sys2Proof.Machine

theorem State.examineEntries_kept {q : List Instr} (s : State) (p : Plot) (h : Kept q s) : Kept q (State.examineEntries s p) := by
  unfold State.examineEntries
  repeat' (first | with_reducible assumption | with_reducible apply State.tileFault_kept | fail_if_no_progress (with_reducible apply Kept.upd) | with_reducible apply foldl_kept | (intro) | split | (fail_if_no_progress extract_lets) | (fail_if_no_progress beta_reduce) | (dsimp +zetaDelta only) | fail)

end Sys2Proof.Machine
end

