-- ==== Sys2Proof/Laws/KeptTileWord.lean ====
section
/-! SUPPORT. Every operation of Machine/TileWord.lean leaves the queue alone and keeps the memories in canonical form. -/

set_option linter.unusedTactic false
set_option linter.unreachableTactic false
set_option linter.unusedVariables false
set_option linter.unnecessarySeqFocus false

namespace Sys2Proof.Machine

theorem Work.fault_kept {q : List Instr} (w : Work) (cause : Nat) (detail : Nat) (h : Kept q w.s) : Kept q (Work.fault w cause detail).s := by
  unfold Work.fault
  repeat' (first | with_reducible assumption | fail_if_no_progress (with_reducible apply Kept.upd) | with_reducible apply foldl_kept | with_reducible apply foldl_work_kept | (intro) | split | (fail_if_no_progress extract_lets) | (fail_if_no_progress beta_reduce) | (dsimp +zetaDelta only) | fail)

theorem Work.core_kept {q : List Instr} (w : Work) (f : CoreSt → CoreSt) (h : Kept q w.s) : Kept q (Work.core w f).s := by
  unfold Work.core
  repeat' (first | with_reducible assumption | fail_if_no_progress (with_reducible apply Kept.upd) | with_reducible apply foldl_kept | with_reducible apply foldl_work_kept | (intro) | split | (fail_if_no_progress extract_lets) | (fail_if_no_progress beta_reduce) | (dsimp +zetaDelta only) | fail)

theorem Work.writeS_kept {q : List Instr} (w : Work) (x : BitVec 8) (v : BitVec 64) (h : Kept q w.s) : Kept q (Work.writeS w x v).s := by
  unfold Work.writeS
  repeat' (first | with_reducible assumption | with_reducible apply Work.core_kept | fail_if_no_progress (with_reducible apply Kept.upd) | with_reducible apply foldl_kept | with_reducible apply foldl_work_kept | (intro) | split | (fail_if_no_progress extract_lets) | (fail_if_no_progress beta_reduce) | (dsimp +zetaDelta only) | fail)

theorem Work.writeP_kept {q : List Instr} (w : Work) (x : BitVec 8) (v : BitVec 64) (h : Kept q w.s) : Kept q (Work.writeP w x v).s := by
  unfold Work.writeP
  repeat' (first | with_reducible assumption | with_reducible apply Work.core_kept | fail_if_no_progress (with_reducible apply Kept.upd) | with_reducible apply foldl_kept | with_reducible apply foldl_work_kept | (intro) | split | (fail_if_no_progress extract_lets) | (fail_if_no_progress beta_reduce) | (dsimp +zetaDelta only) | fail)

theorem Work.writeV_kept {q : List Instr} (w : Work) (e : Env) (m : BitVec 64) (x : BitVec 8) (v : Nat) (h : Kept q w.s) : Kept q (Work.writeV w e m x v).s := by
  unfold Work.writeV
  repeat' (first | with_reducible assumption | with_reducible apply Work.core_kept | fail_if_no_progress (with_reducible apply Kept.upd) | with_reducible apply foldl_kept | with_reducible apply foldl_work_kept | (intro) | split | (fail_if_no_progress extract_lets) | (fail_if_no_progress beta_reduce) | (dsimp +zetaDelta only) | fail)

theorem Work.maskP_kept {q : List Instr} (w : Work) (e : Env) (m : BitVec 64) (x : BitVec 8) (v : BitVec 64) (h : Kept q w.s) : Kept q (Work.maskP w e m x v).s := by
  unfold Work.maskP
  repeat' (first | with_reducible assumption | with_reducible apply Work.writeP_kept | fail_if_no_progress (with_reducible apply Kept.upd) | with_reducible apply foldl_kept | with_reducible apply foldl_work_kept | (intro) | split | (fail_if_no_progress extract_lets) | (fail_if_no_progress beta_reduce) | (dsimp +zetaDelta only) | fail)

theorem Work.onBank_kept {q : List Instr} (w : Work) (e : Env) (x : BitVec 8) (f : Work → Bank → Work) (h : Kept q w.s) (hff : ∀ x0 x1, Kept q x0.s → Kept q (f x0 x1).s) : Kept q (Work.onBank w e x f).s := by
  unfold Work.onBank
  repeat' (first | with_reducible assumption | with_reducible apply Work.fault_kept | with_reducible apply hff | fail_if_no_progress (with_reducible apply Kept.upd) | with_reducible apply foldl_kept | with_reducible apply foldl_work_kept | (intro) | split | (fail_if_no_progress extract_lets) | (fail_if_no_progress beta_reduce) | (dsimp +zetaDelta only) | fail)

theorem Work.setBank_kept {q : List Instr} (w : Work) (x : BitVec 8) (b : Bank) (h : Kept q w.s) : Kept q (Work.setBank w x b).s := by
  unfold Work.setBank
  repeat' (first | with_reducible assumption | with_reducible apply Work.core_kept | fail_if_no_progress (with_reducible apply Kept.upd) | with_reducible apply foldl_kept | with_reducible apply foldl_work_kept | (intro) | split | (fail_if_no_progress extract_lets) | (fail_if_no_progress beta_reduce) | (dsimp +zetaDelta only) | fail)

theorem opBr_kept {q : List Instr} (e : Env) (f : SlotF) (w : Work) (h : Kept q w.s) : Kept q (opBr e f w).s := by
  unfold opBr
  repeat' (first | with_reducible assumption | fail_if_no_progress (with_reducible apply Kept.upd) | with_reducible apply foldl_kept | with_reducible apply foldl_work_kept | (intro) | split | (fail_if_no_progress extract_lets) | (fail_if_no_progress beta_reduce) | (dsimp +zetaDelta only) | fail)

theorem opLoop_kept {q : List Instr} (e : Env) (f : SlotF) (w : Work) (h : Kept q w.s) : Kept q (opLoop e f w).s := by
  unfold opLoop
  repeat' (first | with_reducible assumption | fail_if_no_progress (with_reducible apply Kept.upd) | with_reducible apply foldl_kept | with_reducible apply foldl_work_kept | (intro) | split | (fail_if_no_progress extract_lets) | (fail_if_no_progress beta_reduce) | (dsimp +zetaDelta only) | fail)

theorem opWait_kept {q : List Instr} (e : Env) (f : SlotF) (w : Work) (h : Kept q w.s) : Kept q (opWait e f w).s := by
  unfold opWait
  repeat' (first | with_reducible assumption | with_reducible apply Work.core_kept | fail_if_no_progress (with_reducible apply Kept.upd) | with_reducible apply foldl_kept | with_reducible apply foldl_work_kept | (intro) | split | (fail_if_no_progress extract_lets) | (fail_if_no_progress beta_reduce) | (dsimp +zetaDelta only) | fail)

theorem opSignal_kept {q : List Instr} (e : Env) (f : SlotF) (w : Work) (h : Kept q w.s) : Kept q (opSignal e f w).s := by
  unfold opSignal
  repeat' (first | with_reducible assumption | with_reducible apply Work.core_kept | with_reducible apply Work.fault_kept | fail_if_no_progress (with_reducible apply Kept.upd) | with_reducible apply foldl_kept | with_reducible apply foldl_work_kept | (intro) | split | (fail_if_no_progress extract_lets) | (fail_if_no_progress beta_reduce) | (dsimp +zetaDelta only) | fail)

theorem opYield_kept {q : List Instr} (e : Env) (f : SlotF) (w : Work) (h : Kept q w.s) : Kept q (opYield e f w).s := by
  unfold opYield
  repeat' (first | with_reducible assumption | fail_if_no_progress (with_reducible apply Kept.upd) | with_reducible apply foldl_kept | with_reducible apply foldl_work_kept | (intro) | split | (fail_if_no_progress extract_lets) | (fail_if_no_progress beta_reduce) | (dsimp +zetaDelta only) | fail)

theorem opEob_kept {q : List Instr} (e : Env) (f : SlotF) (w : Work) (h : Kept q w.s) : Kept q (opEob e f w).s := by
  unfold opEob
  repeat' (first | with_reducible assumption | fail_if_no_progress (with_reducible apply Kept.upd) | with_reducible apply foldl_kept | with_reducible apply foldl_work_kept | (intro) | split | (fail_if_no_progress extract_lets) | (fail_if_no_progress beta_reduce) | (dsimp +zetaDelta only) | fail)

theorem opFence_kept {q : List Instr} (x : Env) (x' : SlotF) (w : Work) (h : Kept q w.s) : Kept q (opFence x x' w).s := by
  unfold opFence
  repeat' (first | with_reducible assumption | fail_if_no_progress (with_reducible apply Kept.upd) | with_reducible apply foldl_kept | with_reducible apply foldl_work_kept | (intro) | split | (fail_if_no_progress extract_lets) | (fail_if_no_progress beta_reduce) | (dsimp +zetaDelta only) | fail)

theorem opTrap_kept {q : List Instr} (e : Env) (f : SlotF) (w : Work) (h : Kept q w.s) : Kept q (opTrap e f w).s := by
  unfold opTrap
  repeat' (first | with_reducible assumption | with_reducible apply Work.fault_kept | fail_if_no_progress (with_reducible apply Kept.upd) | with_reducible apply foldl_kept | with_reducible apply foldl_work_kept | (intro) | split | (fail_if_no_progress extract_lets) | (fail_if_no_progress beta_reduce) | (dsimp +zetaDelta only) | fail)

theorem opMma_kept {q : List Instr} (z : Bool) (e : Env) (f : SlotF) (w : Work) (h : Kept q w.s) : Kept q (opMma z e f w).s := by
  unfold opMma
  repeat' (first | with_reducible assumption | with_reducible apply Work.onBank_kept | with_reducible apply Work.setBank_kept | fail_if_no_progress (with_reducible apply Kept.upd) | with_reducible apply foldl_kept | with_reducible apply foldl_work_kept | (intro) | split | (fail_if_no_progress extract_lets) | (fail_if_no_progress beta_reduce) | (dsimp +zetaDelta only) | fail)

theorem opAclr_kept {q : List Instr} (e : Env) (f : SlotF) (w : Work) (h : Kept q w.s) : Kept q (opAclr e f w).s := by
  unfold opAclr
  repeat' (first | with_reducible assumption | with_reducible apply Work.onBank_kept | with_reducible apply Work.setBank_kept | fail_if_no_progress (with_reducible apply Kept.upd) | with_reducible apply foldl_kept | with_reducible apply foldl_work_kept | (intro) | split | (fail_if_no_progress extract_lets) | (fail_if_no_progress beta_reduce) | (dsimp +zetaDelta only) | fail)

theorem opArd_kept {q : List Instr} (e : Env) (f : SlotF) (w : Work) (h : Kept q w.s) : Kept q (opArd e f w).s := by
  unfold opArd
  repeat' (first | with_reducible assumption | with_reducible apply Work.core_kept | with_reducible apply Work.onBank_kept | with_reducible apply Work.setBank_kept | with_reducible apply Work.writeS_kept | with_reducible apply Work.writeV_kept | fail_if_no_progress (with_reducible apply Kept.upd) | with_reducible apply foldl_kept | with_reducible apply foldl_work_kept | (intro) | split | (fail_if_no_progress extract_lets) | (fail_if_no_progress beta_reduce) | (dsimp +zetaDelta only) | fail)

theorem opAraw_kept {q : List Instr} (e : Env) (f : SlotF) (w : Work) (h : Kept q w.s) : Kept q (opAraw e f w).s := by
  unfold opAraw
  repeat' (first | with_reducible assumption | with_reducible apply Work.onBank_kept | with_reducible apply Work.setBank_kept | with_reducible apply Work.writeV_kept | fail_if_no_progress (with_reducible apply Kept.upd) | with_reducible apply foldl_kept | with_reducible apply foldl_work_kept | (intro) | split | (fail_if_no_progress extract_lets) | (fail_if_no_progress beta_reduce) | (dsimp +zetaDelta only) | fail)

theorem opAadd_kept {q : List Instr} (e : Env) (f : SlotF) (w : Work) (h : Kept q w.s) : Kept q (opAadd e f w).s := by
  unfold opAadd
  repeat' (first | with_reducible assumption | with_reducible apply Work.onBank_kept | with_reducible apply Work.setBank_kept | fail_if_no_progress (with_reducible apply Kept.upd) | with_reducible apply foldl_kept | with_reducible apply foldl_work_kept | (intro) | split | (fail_if_no_progress extract_lets) | (fail_if_no_progress beta_reduce) | (dsimp +zetaDelta only) | fail)

theorem opAwin_kept {q : List Instr} (e : Env) (f : SlotF) (w : Work) (h : Kept q w.s) : Kept q (opAwin e f w).s := by
  unfold opAwin
  repeat' (first | with_reducible assumption | with_reducible apply Work.onBank_kept | with_reducible apply Work.setBank_kept | fail_if_no_progress (with_reducible apply Kept.upd) | with_reducible apply foldl_kept | with_reducible apply foldl_work_kept | (intro) | split | (fail_if_no_progress extract_lets) | (fail_if_no_progress beta_reduce) | (dsimp +zetaDelta only) | fail)

theorem opAflag_kept {q : List Instr} (e : Env) (f : SlotF) (w : Work) (h : Kept q w.s) : Kept q (opAflag e f w).s := by
  unfold opAflag
  repeat' (first | with_reducible assumption | with_reducible apply Work.onBank_kept | with_reducible apply Work.setBank_kept | with_reducible apply Work.writeS_kept | fail_if_no_progress (with_reducible apply Kept.upd) | with_reducible apply foldl_kept | with_reducible apply foldl_work_kept | (intro) | split | (fail_if_no_progress extract_lets) | (fail_if_no_progress beta_reduce) | (dsimp +zetaDelta only) | fail)

theorem vlanes_kept {q : List Instr} (e : Env) (f : SlotF) (w : Work) (g : Fmt → Nat → Nat) (h : Kept q w.s) : Kept q (vlanes e f w g).s := by
  unfold vlanes
  repeat' (first | with_reducible assumption | with_reducible apply Work.writeV_kept | fail_if_no_progress (with_reducible apply Kept.upd) | with_reducible apply foldl_kept | with_reducible apply foldl_work_kept | (intro) | split | (fail_if_no_progress extract_lets) | (fail_if_no_progress beta_reduce) | (dsimp +zetaDelta only) | fail)

theorem opVfma_kept {q : List Instr} (e : Env) (f : SlotF) (w : Work) (h : Kept q w.s) : Kept q (opVfma e f w).s := by
  unfold opVfma
  repeat' (first | with_reducible assumption | with_reducible apply vlanes_kept | fail_if_no_progress (with_reducible apply Kept.upd) | with_reducible apply foldl_kept | with_reducible apply foldl_work_kept | (intro) | split | (fail_if_no_progress extract_lets) | (fail_if_no_progress beta_reduce) | (dsimp +zetaDelta only) | fail)

theorem opVadd_kept {q : List Instr} (e : Env) (f : SlotF) (w : Work) (h : Kept q w.s) : Kept q (opVadd e f w).s := by
  unfold opVadd
  repeat' (first | with_reducible assumption | with_reducible apply vlanes_kept | fail_if_no_progress (with_reducible apply Kept.upd) | with_reducible apply foldl_kept | with_reducible apply foldl_work_kept | (intro) | split | (fail_if_no_progress extract_lets) | (fail_if_no_progress beta_reduce) | (dsimp +zetaDelta only) | fail)

theorem opVsub_kept {q : List Instr} (e : Env) (f : SlotF) (w : Work) (h : Kept q w.s) : Kept q (opVsub e f w).s := by
  unfold opVsub
  repeat' (first | with_reducible assumption | with_reducible apply vlanes_kept | fail_if_no_progress (with_reducible apply Kept.upd) | with_reducible apply foldl_kept | with_reducible apply foldl_work_kept | (intro) | split | (fail_if_no_progress extract_lets) | (fail_if_no_progress beta_reduce) | (dsimp +zetaDelta only) | fail)

theorem opVmul_kept {q : List Instr} (e : Env) (f : SlotF) (w : Work) (h : Kept q w.s) : Kept q (opVmul e f w).s := by
  unfold opVmul
  repeat' (first | with_reducible assumption | with_reducible apply vlanes_kept | fail_if_no_progress (with_reducible apply Kept.upd) | with_reducible apply foldl_kept | with_reducible apply foldl_work_kept | (intro) | split | (fail_if_no_progress extract_lets) | (fail_if_no_progress beta_reduce) | (dsimp +zetaDelta only) | fail)

theorem opVmax_kept {q : List Instr} (e : Env) (f : SlotF) (w : Work) (h : Kept q w.s) : Kept q (opVmax e f w).s := by
  unfold opVmax
  repeat' (first | with_reducible assumption | with_reducible apply vlanes_kept | fail_if_no_progress (with_reducible apply Kept.upd) | with_reducible apply foldl_kept | with_reducible apply foldl_work_kept | (intro) | split | (fail_if_no_progress extract_lets) | (fail_if_no_progress beta_reduce) | (dsimp +zetaDelta only) | fail)

theorem opVmin_kept {q : List Instr} (e : Env) (f : SlotF) (w : Work) (h : Kept q w.s) : Kept q (opVmin e f w).s := by
  unfold opVmin
  repeat' (first | with_reducible assumption | with_reducible apply vlanes_kept | fail_if_no_progress (with_reducible apply Kept.upd) | with_reducible apply foldl_kept | with_reducible apply foldl_work_kept | (intro) | split | (fail_if_no_progress extract_lets) | (fail_if_no_progress beta_reduce) | (dsimp +zetaDelta only) | fail)

theorem opVexp2_kept {q : List Instr} (e : Env) (f : SlotF) (w : Work) (h : Kept q w.s) : Kept q (opVexp2 e f w).s := by
  unfold opVexp2
  repeat' (first | with_reducible assumption | with_reducible apply vlanes_kept | fail_if_no_progress (with_reducible apply Kept.upd) | with_reducible apply foldl_kept | with_reducible apply foldl_work_kept | (intro) | split | (fail_if_no_progress extract_lets) | (fail_if_no_progress beta_reduce) | (dsimp +zetaDelta only) | fail)

theorem opVlog2_kept {q : List Instr} (e : Env) (f : SlotF) (w : Work) (h : Kept q w.s) : Kept q (opVlog2 e f w).s := by
  unfold opVlog2
  repeat' (first | with_reducible assumption | with_reducible apply vlanes_kept | fail_if_no_progress (with_reducible apply Kept.upd) | with_reducible apply foldl_kept | with_reducible apply foldl_work_kept | (intro) | split | (fail_if_no_progress extract_lets) | (fail_if_no_progress beta_reduce) | (dsimp +zetaDelta only) | fail)

theorem opVrcp_kept {q : List Instr} (e : Env) (f : SlotF) (w : Work) (h : Kept q w.s) : Kept q (opVrcp e f w).s := by
  unfold opVrcp
  repeat' (first | with_reducible assumption | with_reducible apply vlanes_kept | fail_if_no_progress (with_reducible apply Kept.upd) | with_reducible apply foldl_kept | with_reducible apply foldl_work_kept | (intro) | split | (fail_if_no_progress extract_lets) | (fail_if_no_progress beta_reduce) | (dsimp +zetaDelta only) | fail)

theorem opVrsq_kept {q : List Instr} (e : Env) (f : SlotF) (w : Work) (h : Kept q w.s) : Kept q (opVrsq e f w).s := by
  unfold opVrsq
  repeat' (first | with_reducible assumption | with_reducible apply vlanes_kept | fail_if_no_progress (with_reducible apply Kept.upd) | with_reducible apply foldl_kept | with_reducible apply foldl_work_kept | (intro) | split | (fail_if_no_progress extract_lets) | (fail_if_no_progress beta_reduce) | (dsimp +zetaDelta only) | fail)

theorem opVcvt_kept {q : List Instr} (e : Env) (f : SlotF) (w : Work) (h : Kept q w.s) : Kept q (opVcvt e f w).s := by
  unfold opVcvt
  repeat' (first | with_reducible assumption | with_reducible apply Work.writeV_kept | fail_if_no_progress (with_reducible apply Kept.upd) | with_reducible apply foldl_kept | with_reducible apply foldl_work_kept | (intro) | split | (fail_if_no_progress extract_lets) | (fail_if_no_progress beta_reduce) | (dsimp +zetaDelta only) | fail)

theorem opVrsum_kept {q : List Instr} (e : Env) (f : SlotF) (w : Work) (h : Kept q w.s) : Kept q (opVrsum e f w).s := by
  unfold opVrsum
  repeat' (first | with_reducible assumption | with_reducible apply Work.writeV_kept | fail_if_no_progress (with_reducible apply Kept.upd) | with_reducible apply foldl_kept | with_reducible apply foldl_work_kept | (intro) | split | (fail_if_no_progress extract_lets) | (fail_if_no_progress beta_reduce) | (dsimp +zetaDelta only) | fail)

theorem opVcmp_kept {q : List Instr} (e : Env) (f : SlotF) (w : Work) (h : Kept q w.s) : Kept q (opVcmp e f w).s := by
  unfold opVcmp
  repeat' (first | with_reducible assumption | with_reducible apply Work.maskP_kept | fail_if_no_progress (with_reducible apply Kept.upd) | with_reducible apply foldl_kept | with_reducible apply foldl_work_kept | (intro) | split | (fail_if_no_progress extract_lets) | (fail_if_no_progress beta_reduce) | (dsimp +zetaDelta only) | fail)

theorem opSli_kept {q : List Instr} (e : Env) (f : SlotF) (w : Work) (h : Kept q w.s) : Kept q (opSli e f w).s := by
  unfold opSli
  repeat' (first | with_reducible assumption | with_reducible apply Work.writeS_kept | fail_if_no_progress (with_reducible apply Kept.upd) | with_reducible apply foldl_kept | with_reducible apply foldl_work_kept | (intro) | split | (fail_if_no_progress extract_lets) | (fail_if_no_progress beta_reduce) | (dsimp +zetaDelta only) | fail)

theorem scalar2_kept {q : List Instr} (e : Env) (f : SlotF) (w : Work) (g : BitVec 64 → BitVec 64 → BitVec 64) (h : Kept q w.s) : Kept q (scalar2 e f w g).s := by
  unfold scalar2
  repeat' (first | with_reducible assumption | with_reducible apply Work.writeS_kept | fail_if_no_progress (with_reducible apply Kept.upd) | with_reducible apply foldl_kept | with_reducible apply foldl_work_kept | (intro) | split | (fail_if_no_progress extract_lets) | (fail_if_no_progress beta_reduce) | (dsimp +zetaDelta only) | fail)

theorem opSadd_kept {q : List Instr} (e : Env) (f : SlotF) (w : Work) (h : Kept q w.s) : Kept q (opSadd e f w).s := by
  unfold opSadd
  repeat' (first | with_reducible assumption | with_reducible apply scalar2_kept | fail_if_no_progress (with_reducible apply Kept.upd) | with_reducible apply foldl_kept | with_reducible apply foldl_work_kept | (intro) | split | (fail_if_no_progress extract_lets) | (fail_if_no_progress beta_reduce) | (dsimp +zetaDelta only) | fail)

theorem opSsub_kept {q : List Instr} (e : Env) (f : SlotF) (w : Work) (h : Kept q w.s) : Kept q (opSsub e f w).s := by
  unfold opSsub
  repeat' (first | with_reducible assumption | with_reducible apply scalar2_kept | fail_if_no_progress (with_reducible apply Kept.upd) | with_reducible apply foldl_kept | with_reducible apply foldl_work_kept | (intro) | split | (fail_if_no_progress extract_lets) | (fail_if_no_progress beta_reduce) | (dsimp +zetaDelta only) | fail)

theorem opSmul_kept {q : List Instr} (e : Env) (f : SlotF) (w : Work) (h : Kept q w.s) : Kept q (opSmul e f w).s := by
  unfold opSmul
  repeat' (first | with_reducible assumption | with_reducible apply scalar2_kept | fail_if_no_progress (with_reducible apply Kept.upd) | with_reducible apply foldl_kept | with_reducible apply foldl_work_kept | (intro) | split | (fail_if_no_progress extract_lets) | (fail_if_no_progress beta_reduce) | (dsimp +zetaDelta only) | fail)

theorem opSand_kept {q : List Instr} (e : Env) (f : SlotF) (w : Work) (h : Kept q w.s) : Kept q (opSand e f w).s := by
  unfold opSand
  repeat' (first | with_reducible assumption | with_reducible apply scalar2_kept | fail_if_no_progress (with_reducible apply Kept.upd) | with_reducible apply foldl_kept | with_reducible apply foldl_work_kept | (intro) | split | (fail_if_no_progress extract_lets) | (fail_if_no_progress beta_reduce) | (dsimp +zetaDelta only) | fail)

theorem opSor_kept {q : List Instr} (e : Env) (f : SlotF) (w : Work) (h : Kept q w.s) : Kept q (opSor e f w).s := by
  unfold opSor
  repeat' (first | with_reducible assumption | with_reducible apply scalar2_kept | fail_if_no_progress (with_reducible apply Kept.upd) | with_reducible apply foldl_kept | with_reducible apply foldl_work_kept | (intro) | split | (fail_if_no_progress extract_lets) | (fail_if_no_progress beta_reduce) | (dsimp +zetaDelta only) | fail)

theorem opSxor_kept {q : List Instr} (e : Env) (f : SlotF) (w : Work) (h : Kept q w.s) : Kept q (opSxor e f w).s := by
  unfold opSxor
  repeat' (first | with_reducible assumption | with_reducible apply scalar2_kept | fail_if_no_progress (with_reducible apply Kept.upd) | with_reducible apply foldl_kept | with_reducible apply foldl_work_kept | (intro) | split | (fail_if_no_progress extract_lets) | (fail_if_no_progress beta_reduce) | (dsimp +zetaDelta only) | fail)

theorem opSshl_kept {q : List Instr} (e : Env) (f : SlotF) (w : Work) (h : Kept q w.s) : Kept q (opSshl e f w).s := by
  unfold opSshl
  repeat' (first | with_reducible assumption | with_reducible apply scalar2_kept | fail_if_no_progress (with_reducible apply Kept.upd) | with_reducible apply foldl_kept | with_reducible apply foldl_work_kept | (intro) | split | (fail_if_no_progress extract_lets) | (fail_if_no_progress beta_reduce) | (dsimp +zetaDelta only) | fail)

theorem opSshr_kept {q : List Instr} (e : Env) (f : SlotF) (w : Work) (h : Kept q w.s) : Kept q (opSshr e f w).s := by
  unfold opSshr
  repeat' (first | with_reducible assumption | with_reducible apply scalar2_kept | fail_if_no_progress (with_reducible apply Kept.upd) | with_reducible apply foldl_kept | with_reducible apply foldl_work_kept | (intro) | split | (fail_if_no_progress extract_lets) | (fail_if_no_progress beta_reduce) | (dsimp +zetaDelta only) | fail)

theorem opSsra_kept {q : List Instr} (e : Env) (f : SlotF) (w : Work) (h : Kept q w.s) : Kept q (opSsra e f w).s := by
  unfold opSsra
  repeat' (first | with_reducible assumption | with_reducible apply scalar2_kept | fail_if_no_progress (with_reducible apply Kept.upd) | with_reducible apply foldl_kept | with_reducible apply foldl_work_kept | (intro) | split | (fail_if_no_progress extract_lets) | (fail_if_no_progress beta_reduce) | (dsimp +zetaDelta only) | fail)

theorem opScmp_kept {q : List Instr} (e : Env) (f : SlotF) (w : Work) (h : Kept q w.s) : Kept q (opScmp e f w).s := by
  unfold opScmp
  repeat' (first | with_reducible assumption | with_reducible apply Work.maskP_kept | fail_if_no_progress (with_reducible apply Kept.upd) | with_reducible apply foldl_kept | with_reducible apply foldl_work_kept | (intro) | split | (fail_if_no_progress extract_lets) | (fail_if_no_progress beta_reduce) | (dsimp +zetaDelta only) | fail)

theorem opSfromv_kept {q : List Instr} (e : Env) (f : SlotF) (w : Work) (h : Kept q w.s) : Kept q (opSfromv e f w).s := by
  unfold opSfromv
  repeat' (first | with_reducible assumption | with_reducible apply Work.writeS_kept | fail_if_no_progress (with_reducible apply Kept.upd) | with_reducible apply foldl_kept | with_reducible apply foldl_work_kept | (intro) | split | (fail_if_no_progress extract_lets) | (fail_if_no_progress beta_reduce) | (dsimp +zetaDelta only) | fail)

theorem opVbcast_kept {q : List Instr} (e : Env) (f : SlotF) (w : Work) (h : Kept q w.s) : Kept q (opVbcast e f w).s := by
  unfold opVbcast
  repeat' (first | with_reducible assumption | with_reducible apply Work.writeV_kept | fail_if_no_progress (with_reducible apply Kept.upd) | with_reducible apply foldl_kept | with_reducible apply foldl_work_kept | (intro) | split | (fail_if_no_progress extract_lets) | (fail_if_no_progress beta_reduce) | (dsimp +zetaDelta only) | fail)

theorem lanes32_kept {q : List Instr} (e : Env) (f : SlotF) (w : Work) (g : BitVec 32 → BitVec 32 → BitVec 32) (h : Kept q w.s) : Kept q (lanes32 e f w g).s := by
  unfold lanes32
  repeat' (first | with_reducible assumption | with_reducible apply Work.writeV_kept | fail_if_no_progress (with_reducible apply Kept.upd) | with_reducible apply foldl_kept | with_reducible apply foldl_work_kept | (intro) | split | (fail_if_no_progress extract_lets) | (fail_if_no_progress beta_reduce) | (dsimp +zetaDelta only) | fail)

theorem opViadd_kept {q : List Instr} (e : Env) (f : SlotF) (w : Work) (h : Kept q w.s) : Kept q (opViadd e f w).s := by
  unfold opViadd
  repeat' (first | with_reducible assumption | with_reducible apply lanes32_kept | fail_if_no_progress (with_reducible apply Kept.upd) | with_reducible apply foldl_kept | with_reducible apply foldl_work_kept | (intro) | split | (fail_if_no_progress extract_lets) | (fail_if_no_progress beta_reduce) | (dsimp +zetaDelta only) | fail)

theorem opVand_kept {q : List Instr} (e : Env) (f : SlotF) (w : Work) (h : Kept q w.s) : Kept q (opVand e f w).s := by
  unfold opVand
  repeat' (first | with_reducible assumption | with_reducible apply lanes32_kept | fail_if_no_progress (with_reducible apply Kept.upd) | with_reducible apply foldl_kept | with_reducible apply foldl_work_kept | (intro) | split | (fail_if_no_progress extract_lets) | (fail_if_no_progress beta_reduce) | (dsimp +zetaDelta only) | fail)

theorem opVor_kept {q : List Instr} (e : Env) (f : SlotF) (w : Work) (h : Kept q w.s) : Kept q (opVor e f w).s := by
  unfold opVor
  repeat' (first | with_reducible assumption | with_reducible apply lanes32_kept | fail_if_no_progress (with_reducible apply Kept.upd) | with_reducible apply foldl_kept | with_reducible apply foldl_work_kept | (intro) | split | (fail_if_no_progress extract_lets) | (fail_if_no_progress beta_reduce) | (dsimp +zetaDelta only) | fail)

theorem opVxor_kept {q : List Instr} (e : Env) (f : SlotF) (w : Work) (h : Kept q w.s) : Kept q (opVxor e f w).s := by
  unfold opVxor
  repeat' (first | with_reducible assumption | with_reducible apply lanes32_kept | fail_if_no_progress (with_reducible apply Kept.upd) | with_reducible apply foldl_kept | with_reducible apply foldl_work_kept | (intro) | split | (fail_if_no_progress extract_lets) | (fail_if_no_progress beta_reduce) | (dsimp +zetaDelta only) | fail)

theorem opVperm_kept {q : List Instr} (e : Env) (f : SlotF) (w : Work) (h : Kept q w.s) : Kept q (opVperm e f w).s := by
  unfold opVperm
  repeat' (first | with_reducible assumption | with_reducible apply Work.writeV_kept | fail_if_no_progress (with_reducible apply Kept.upd) | with_reducible apply foldl_kept | with_reducible apply foldl_work_kept | (intro) | split | (fail_if_no_progress extract_lets) | (fail_if_no_progress beta_reduce) | (dsimp +zetaDelta only) | fail)

theorem opVsel_kept {q : List Instr} (e : Env) (f : SlotF) (w : Work) (h : Kept q w.s) : Kept q (opVsel e f w).s := by
  unfold opVsel
  repeat' (first | with_reducible assumption | with_reducible apply Work.writeV_kept | fail_if_no_progress (with_reducible apply Kept.upd) | with_reducible apply foldl_kept | with_reducible apply foldl_work_kept | (intro) | split | (fail_if_no_progress extract_lets) | (fail_if_no_progress beta_reduce) | (dsimp +zetaDelta only) | fail)

theorem opVmov_kept {q : List Instr} (e : Env) (f : SlotF) (w : Work) (h : Kept q w.s) : Kept q (opVmov e f w).s := by
  unfold opVmov
  repeat' (first | with_reducible assumption | with_reducible apply Work.writeV_kept | fail_if_no_progress (with_reducible apply Kept.upd) | with_reducible apply foldl_kept | with_reducible apply foldl_work_kept | (intro) | split | (fail_if_no_progress extract_lets) | (fail_if_no_progress beta_reduce) | (dsimp +zetaDelta only) | fail)

theorem opPand_kept {q : List Instr} (e : Env) (f : SlotF) (w : Work) (h : Kept q w.s) : Kept q (opPand e f w).s := by
  unfold opPand
  repeat' (first | with_reducible assumption | with_reducible apply Work.maskP_kept | fail_if_no_progress (with_reducible apply Kept.upd) | with_reducible apply foldl_kept | with_reducible apply foldl_work_kept | (intro) | split | (fail_if_no_progress extract_lets) | (fail_if_no_progress beta_reduce) | (dsimp +zetaDelta only) | fail)

theorem opPor_kept {q : List Instr} (e : Env) (f : SlotF) (w : Work) (h : Kept q w.s) : Kept q (opPor e f w).s := by
  unfold opPor
  repeat' (first | with_reducible assumption | with_reducible apply Work.maskP_kept | fail_if_no_progress (with_reducible apply Kept.upd) | with_reducible apply foldl_kept | with_reducible apply foldl_work_kept | (intro) | split | (fail_if_no_progress extract_lets) | (fail_if_no_progress beta_reduce) | (dsimp +zetaDelta only) | fail)

theorem opPxor_kept {q : List Instr} (e : Env) (f : SlotF) (w : Work) (h : Kept q w.s) : Kept q (opPxor e f w).s := by
  unfold opPxor
  repeat' (first | with_reducible assumption | with_reducible apply Work.maskP_kept | fail_if_no_progress (with_reducible apply Kept.upd) | with_reducible apply foldl_kept | with_reducible apply foldl_work_kept | (intro) | split | (fail_if_no_progress extract_lets) | (fail_if_no_progress beta_reduce) | (dsimp +zetaDelta only) | fail)

theorem opPnot_kept {q : List Instr} (e : Env) (f : SlotF) (w : Work) (h : Kept q w.s) : Kept q (opPnot e f w).s := by
  unfold opPnot
  repeat' (first | with_reducible assumption | with_reducible apply Work.maskP_kept | fail_if_no_progress (with_reducible apply Kept.upd) | with_reducible apply foldl_kept | with_reducible apply foldl_work_kept | (intro) | split | (fail_if_no_progress extract_lets) | (fail_if_no_progress beta_reduce) | (dsimp +zetaDelta only) | fail)

theorem opPrange_kept {q : List Instr} (e : Env) (f : SlotF) (w : Work) (h : Kept q w.s) : Kept q (opPrange e f w).s := by
  unfold opPrange
  repeat' (first | with_reducible assumption | with_reducible apply Work.maskP_kept | fail_if_no_progress (with_reducible apply Kept.upd) | with_reducible apply foldl_kept | with_reducible apply foldl_work_kept | (intro) | split | (fail_if_no_progress extract_lets) | (fail_if_no_progress beta_reduce) | (dsimp +zetaDelta only) | fail)

theorem State.countFieldUe_kept {q : List Instr} (s : State) (k : Nat) (h : Kept q s) : Kept q (State.countFieldUe s k) := by
  unfold State.countFieldUe
  repeat' (first | with_reducible assumption | with_reducible apply State.updQuad_kept | fail_if_no_progress (with_reducible apply Kept.upd) | with_reducible apply foldl_kept | with_reducible apply foldl_work_kept | (intro) | split | (fail_if_no_progress extract_lets) | (fail_if_no_progress beta_reduce) | (dsimp +zetaDelta only) | fail)

theorem State.countFieldCe_kept {q : List Instr} (s : State) (q' : Nat) (n : Nat) (h : Kept q s) : Kept q (State.countFieldCe s q' n) := by
  unfold State.countFieldCe
  repeat' (first | with_reducible assumption | with_reducible apply State.updQuad_kept | fail_if_no_progress (with_reducible apply Kept.upd) | with_reducible apply foldl_kept | with_reducible apply foldl_work_kept | (intro) | split | (fail_if_no_progress extract_lets) | (fail_if_no_progress beta_reduce) | (dsimp +zetaDelta only) | fail)

theorem Work.access_kept {q : List Instr} (w : Work) (e : Env) (f : SlotF) (al : Nat) (n : Nat) (ok : Work → Nat → Work) (h : Kept q w.s) (hfok : ∀ x0 x1, Kept q x0.s → Kept q (ok x0 x1).s) : Kept q (Work.access w e f al n ok).s := by
  unfold Work.access
  repeat' (first | with_reducible assumption | with_reducible apply Work.fault_kept | with_reducible apply hfok | fail_if_no_progress (with_reducible apply Kept.upd) | with_reducible apply foldl_kept | with_reducible apply foldl_work_kept | (intro) | split | (fail_if_no_progress extract_lets) | (fail_if_no_progress beta_reduce) | (dsimp +zetaDelta only) | fail)

theorem Work.load_kept {q : List Instr} (w : Work) (e : Env) (f : SlotF) (al : Nat) (n : Nat) (put : Work → Nat → Work) (h : Kept q w.s) (hfput : ∀ x0 x1, Kept q x0.s → Kept q (put x0 x1).s) : Kept q (Work.load w e f al n put).s := by
  unfold Work.load
  repeat' (first | with_reducible assumption | with_reducible apply Work.access_kept | with_reducible apply State.countFieldCe_kept | with_reducible apply State.countFieldUe_kept | with_reducible apply Work.fault_kept | with_reducible apply State.setPlot_kept | with_reducible apply hfput | fail_if_no_progress (with_reducible apply Kept.upd) | with_reducible apply foldl_kept | with_reducible apply foldl_work_kept | (intro) | split | (fail_if_no_progress extract_lets) | (fail_if_no_progress beta_reduce) | (dsimp +zetaDelta only) | fail)

theorem opLd_kept {q : List Instr} (e : Env) (f : SlotF) (w : Work) (h : Kept q w.s) : Kept q (opLd e f w).s := by
  unfold opLd
  repeat' (first | with_reducible assumption | with_reducible apply Work.load_kept | with_reducible apply Work.writeV_kept | fail_if_no_progress (with_reducible apply Kept.upd) | with_reducible apply foldl_kept | with_reducible apply foldl_work_kept | (intro) | split | (fail_if_no_progress extract_lets) | (fail_if_no_progress beta_reduce) | (dsimp +zetaDelta only) | fail)

theorem opLds_kept {q : List Instr} (e : Env) (f : SlotF) (w : Work) (h : Kept q w.s) : Kept q (opLds e f w).s := by
  unfold opLds
  repeat' (first | with_reducible assumption | with_reducible apply Work.load_kept | with_reducible apply Work.writeS_kept | fail_if_no_progress (with_reducible apply Kept.upd) | with_reducible apply foldl_kept | with_reducible apply foldl_work_kept | (intro) | split | (fail_if_no_progress extract_lets) | (fail_if_no_progress beta_reduce) | (dsimp +zetaDelta only) | fail)

theorem opSt_kept {q : List Instr} (e : Env) (f : SlotF) (w : Work) (h : Kept q w.s) : Kept q (opSt e f w).s := by
  unfold opSt
  apply Work.access_kept _ _ _ _ _ _ h
  intro x k hx
  exact Kept.updMem hx (foldl_mem_wf (fun m i hm => storeWord_wf m _ _ _ i hm))

theorem opSts_kept {q : List Instr} (e : Env) (f : SlotF) (w : Work) (h : Kept q w.s) : Kept q (opSts e f w).s := by
  unfold opSts
  split
  · apply Work.access_kept _ _ _ _ _ _ h
    intro x k hx
    exact Kept.updMem hx (fun hm => Mem.store_wf _ _ _ hm)
  · exact h

theorem sendTok_kept {q : List Instr} (e : Env) (f : SlotF) (payload : Nat) (w : Work) (h : Kept q w.s) : Kept q (sendTok e f payload w).s := by
  unfold sendTok
  repeat' (first | with_reducible assumption | with_reducible apply Work.core_kept | with_reducible apply Work.fault_kept | fail_if_no_progress (with_reducible apply Kept.upd) | with_reducible apply foldl_kept | with_reducible apply foldl_work_kept | (intro) | split | (fail_if_no_progress extract_lets) | (fail_if_no_progress beta_reduce) | (dsimp +zetaDelta only) | fail)

theorem opSend_kept {q : List Instr} (e : Env) (f : SlotF) (w : Work) (h : Kept q w.s) : Kept q (opSend e f w).s := by
  unfold opSend
  repeat' (first | with_reducible assumption | with_reducible apply sendTok_kept | fail_if_no_progress (with_reducible apply Kept.upd) | with_reducible apply foldl_kept | with_reducible apply foldl_work_kept | (intro) | split | (fail_if_no_progress extract_lets) | (fail_if_no_progress beta_reduce) | (dsimp +zetaDelta only) | fail)

theorem opSends_kept {q : List Instr} (e : Env) (f : SlotF) (w : Work) (h : Kept q w.s) : Kept q (opSends e f w).s := by
  unfold opSends
  repeat' (first | with_reducible assumption | with_reducible apply sendTok_kept | fail_if_no_progress (with_reducible apply Kept.upd) | with_reducible apply foldl_kept | with_reducible apply foldl_work_kept | (intro) | split | (fail_if_no_progress extract_lets) | (fail_if_no_progress beta_reduce) | (dsimp +zetaDelta only) | fail)

theorem opRecv_kept {q : List Instr} (e : Env) (f : SlotF) (w : Work) (h : Kept q w.s) : Kept q (opRecv e f w).s := by
  unfold opRecv
  repeat' (first | with_reducible assumption | with_reducible apply Work.fault_kept | with_reducible apply Work.writeS_kept | with_reducible apply Work.writeV_kept | fail_if_no_progress (with_reducible apply Kept.upd) | with_reducible apply foldl_kept | with_reducible apply foldl_work_kept | (intro) | split | (fail_if_no_progress extract_lets) | (fail_if_no_progress beta_reduce) | (dsimp +zetaDelta only) | fail)

theorem opSteer_kept {q : List Instr} (e : Env) (f : SlotF) (w : Work) (h : Kept q w.s) : Kept q (opSteer e f w).s := by
  unfold opSteer
  repeat' (first | with_reducible assumption | with_reducible apply Work.core_kept | fail_if_no_progress (with_reducible apply Kept.upd) | with_reducible apply foldl_kept | with_reducible apply foldl_work_kept | (intro) | split | (fail_if_no_progress extract_lets) | (fail_if_no_progress beta_reduce) | (dsimp +zetaDelta only) | fail)

theorem opMerge_kept {q : List Instr} (e : Env) (f : SlotF) (w : Work) (h : Kept q w.s) : Kept q (opMerge e f w).s := by
  unfold opMerge
  repeat' (first | with_reducible assumption | with_reducible apply Work.core_kept | fail_if_no_progress (with_reducible apply Kept.upd) | with_reducible apply foldl_kept | with_reducible apply foldl_work_kept | (intro) | split | (fail_if_no_progress extract_lets) | (fail_if_no_progress beta_reduce) | (dsimp +zetaDelta only) | fail)

theorem run0_kept {q : List Instr} (op : Nat) (a : Env) (a' : SlotF) (a'' : Work) (h : Kept q a''.s) : Kept q (run0 op a a' a'').s := by
  unfold run0
  repeat' (first | with_reducible assumption | with_reducible apply opBr_kept | with_reducible apply opEob_kept | with_reducible apply opFence_kept | with_reducible apply opLoop_kept | with_reducible apply opSignal_kept | with_reducible apply opTrap_kept | with_reducible apply opWait_kept | with_reducible apply opYield_kept | fail_if_no_progress (with_reducible apply Kept.upd) | with_reducible apply foldl_kept | with_reducible apply foldl_work_kept | (intro) | split | (fail_if_no_progress extract_lets) | (fail_if_no_progress beta_reduce) | (dsimp +zetaDelta only) | fail)

theorem run12_kept {q : List Instr} (slot : Nat) (op : Nat) (a : Env) (a' : SlotF) (a'' : Work) (h : Kept q a''.s) : Kept q (run12 slot op a a' a'').s := by
  unfold run12
  repeat' (first | with_reducible assumption | with_reducible apply opAadd_kept | with_reducible apply opAclr_kept | with_reducible apply opAflag_kept | with_reducible apply opAraw_kept | with_reducible apply opArd_kept | with_reducible apply opAwin_kept | with_reducible apply opMma_kept | fail_if_no_progress (with_reducible apply Kept.upd) | with_reducible apply foldl_kept | with_reducible apply foldl_work_kept | (intro) | split | (fail_if_no_progress extract_lets) | (fail_if_no_progress beta_reduce) | (dsimp +zetaDelta only) | fail)

theorem run3_kept {q : List Instr} (op : Nat) (a : Env) (a' : SlotF) (a'' : Work) (h : Kept q a''.s) : Kept q (run3 op a a' a'').s := by
  unfold run3
  repeat' (first | with_reducible assumption | with_reducible apply opVadd_kept | with_reducible apply opVcmp_kept | with_reducible apply opVcvt_kept | with_reducible apply opVexp2_kept | with_reducible apply opVfma_kept | with_reducible apply opVlog2_kept | with_reducible apply opVmax_kept | with_reducible apply opVmin_kept | with_reducible apply opVmul_kept | with_reducible apply opVrcp_kept | with_reducible apply opVrsq_kept | with_reducible apply opVrsum_kept | with_reducible apply opVsub_kept | fail_if_no_progress (with_reducible apply Kept.upd) | with_reducible apply foldl_kept | with_reducible apply foldl_work_kept | (intro) | split | (fail_if_no_progress extract_lets) | (fail_if_no_progress beta_reduce) | (dsimp +zetaDelta only) | fail)

theorem run4_kept {q : List Instr} (op : Nat) (a : Env) (a' : SlotF) (a'' : Work) (h : Kept q a''.s) : Kept q (run4 op a a' a'').s := by
  unfold run4
  repeat' (first | with_reducible assumption | with_reducible apply opPand_kept | with_reducible apply opPnot_kept | with_reducible apply opPor_kept | with_reducible apply opPrange_kept | with_reducible apply opPxor_kept | with_reducible apply opSadd_kept | with_reducible apply opSand_kept | with_reducible apply opScmp_kept | with_reducible apply opSfromv_kept | with_reducible apply opSli_kept | with_reducible apply opSmul_kept | with_reducible apply opSor_kept | with_reducible apply opSshl_kept | with_reducible apply opSshr_kept | with_reducible apply opSsra_kept | with_reducible apply opSsub_kept | with_reducible apply opSxor_kept | with_reducible apply opVand_kept | with_reducible apply opVbcast_kept | with_reducible apply opViadd_kept | with_reducible apply opVmov_kept | with_reducible apply opVor_kept | with_reducible apply opVperm_kept | with_reducible apply opVsel_kept | with_reducible apply opVxor_kept | fail_if_no_progress (with_reducible apply Kept.upd) | with_reducible apply foldl_kept | with_reducible apply foldl_work_kept | (intro) | split | (fail_if_no_progress extract_lets) | (fail_if_no_progress beta_reduce) | (dsimp +zetaDelta only) | fail)

theorem run56_kept {q : List Instr} (op : Nat) (a : Env) (a' : SlotF) (a'' : Work) (h : Kept q a''.s) : Kept q (run56 op a a' a'').s := by
  unfold run56
  repeat' (first | with_reducible assumption | with_reducible apply opLd_kept | with_reducible apply opLds_kept | with_reducible apply opSt_kept | with_reducible apply opSts_kept | fail_if_no_progress (with_reducible apply Kept.upd) | with_reducible apply foldl_kept | with_reducible apply foldl_work_kept | (intro) | split | (fail_if_no_progress extract_lets) | (fail_if_no_progress beta_reduce) | (dsimp +zetaDelta only) | fail)

theorem run7_kept {q : List Instr} (op : Nat) (a : Env) (a' : SlotF) (a'' : Work) (h : Kept q a''.s) : Kept q (run7 op a a' a'').s := by
  unfold run7
  repeat' (first | with_reducible assumption | with_reducible apply opMerge_kept | with_reducible apply opRecv_kept | with_reducible apply opSend_kept | with_reducible apply opSends_kept | with_reducible apply opSteer_kept | fail_if_no_progress (with_reducible apply Kept.upd) | with_reducible apply foldl_kept | with_reducible apply foldl_work_kept | (intro) | split | (fail_if_no_progress extract_lets) | (fail_if_no_progress beta_reduce) | (dsimp +zetaDelta only) | fail)

theorem runSlot_kept {q : List Instr} (o : SlotOp) (e : Env) (f : SlotF) (w : Work) (h : Kept q w.s) : Kept q (runSlot o e f w).s := by
  obtain ⟨slot, op, g⟩ := o
  fin_cases slot
  · exact run0_kept _ _ _ _ h
  · exact run12_kept _ _ _ _ _ h
  · exact run12_kept _ _ _ _ _ h
  · exact run3_kept _ _ _ _ h
  · exact run4_kept _ _ _ _ h
  · exact run56_kept _ _ _ _ h
  · exact run56_kept _ _ _ _ h
  · exact run7_kept _ _ _ _ h

theorem Work.raise_kept {q : List Instr} (w : Work) (e : Env) (h : Kept q w.s) : Kept q (Work.raise w e) := by
  unfold Work.raise
  repeat' (first | with_reducible assumption | with_reducible apply State.canalFault_kept | with_reducible apply State.setTile_kept | with_reducible apply State.tileFault_kept | fail_if_no_progress (with_reducible apply Kept.upd) | with_reducible apply foldl_kept | with_reducible apply foldl_work_kept | (intro) | split | (fail_if_no_progress extract_lets) | (fail_if_no_progress beta_reduce) | (dsimp +zetaDelta only) | fail)

theorem runWord_kept {q : List Instr} (e : Env) (w : List SlotOp) (s : State) (h : Kept q s) : Kept q (runWord e w s) := by
  unfold runWord
  repeat' (first | with_reducible assumption | with_reducible apply Work.fault_kept | with_reducible apply State.force_kept | with_reducible apply Work.raise_kept | with_reducible apply runSlot_kept | fail_if_no_progress (with_reducible apply Kept.upd) | with_reducible apply foldl_kept | with_reducible apply foldl_work_kept | (intro) | split | (fail_if_no_progress extract_lets) | (fail_if_no_progress beta_reduce) | (dsimp +zetaDelta only) | fail)

theorem stallCtx_kept {q : List Instr} (e : Env) (held : Option (List SlotOp)) (s : State) (h : Kept q s) : Kept q (stallCtx e held s) := by
  unfold stallCtx
  repeat' (first | with_reducible assumption | with_reducible apply State.setTile_kept | fail_if_no_progress (with_reducible apply Kept.upd) | with_reducible apply foldl_kept | with_reducible apply foldl_work_kept | (intro) | split | (fail_if_no_progress extract_lets) | (fail_if_no_progress beta_reduce) | (dsimp +zetaDelta only) | fail)

theorem parityFault_kept {q : List Instr} (x : Issue) (c : Ctx) (s : State) (h : Kept q s) : Kept q (parityFault x c s) := by
  unfold parityFault
  repeat' (first | with_reducible assumption | with_reducible apply State.tileFault_kept | fail_if_no_progress (with_reducible apply Kept.upd) | with_reducible apply foldl_kept | with_reducible apply foldl_work_kept | (intro) | split | (fail_if_no_progress extract_lets) | (fail_if_no_progress beta_reduce) | (dsimp +zetaDelta only) | fail)

theorem issueWord_kept {q : List Instr} (x : Issue) (o : SlotOp) (s : State) (h : Kept q s) : Kept q (issueWord x o s) := by
  unfold issueWord
  repeat' (first | with_reducible assumption | with_reducible apply parityFault_kept | with_reducible apply runWord_kept | with_reducible apply stallCtx_kept | with_reducible apply State.tileFault_kept | fail_if_no_progress (with_reducible apply Kept.upd) | with_reducible apply foldl_kept | with_reducible apply foldl_work_kept | (intro) | split | (fail_if_no_progress extract_lets) | (fail_if_no_progress beta_reduce) | (dsimp +zetaDelta only) | fail)

theorem issueOp_kept {q : List Instr} (x : Issue) (slot : Fin 8) (op : BitVec 8) (f : SlotF) (s : State) (h : Kept q s) : Kept q (issueOp x slot op f s) := by
  unfold issueOp
  repeat' (first | with_reducible assumption | with_reducible apply issueWord_kept | fail_if_no_progress (with_reducible apply Kept.upd) | with_reducible apply foldl_kept | with_reducible apply foldl_work_kept | (intro) | split | (fail_if_no_progress extract_lets) | (fail_if_no_progress beta_reduce) | (dsimp +zetaDelta only) | fail)

end Sys2Proof.Machine
end

