-- ==== Sys2Proof/Laws/KeptCanal.lean ====
section
/-! SUPPORT. Every operation of Machine/Canal.lean leaves the queue alone and keeps the memories in canonical form. -/

set_option linter.unusedTactic false
set_option linter.unreachableTactic false
set_option linter.unusedVariables false
set_option linter.unnecessarySeqFocus false

namespace Sys2Proof.Machine

theorem State.discardAt_kept {q : List Instr} (s : State) (g : Nat) (n : Nat) (h : Kept q s) : Kept q (State.discardAt s g n) := by
  unfold State.discardAt
  repeat' (first | with_reducible assumption | with_reducible apply State.setPlot_kept | with_reducible apply State.updPlotRegs_kept | fail_if_no_progress (with_reducible apply Kept.upd) | with_reducible apply foldl_kept | (intro) | split | (fail_if_no_progress extract_lets) | (fail_if_no_progress beta_reduce) | (dsimp +zetaDelta only) | fail)

theorem State.sendOut_kept {q : List Instr} (s : State) (g : Nat) (o : Nat) (turn : Nat) (tok : Token) (h : Kept q s) : Kept q (State.sendOut s g o turn tok) := by
  unfold State.sendOut
  repeat' (first | with_reducible assumption | with_reducible apply State.canalFault_kept | fail_if_no_progress (with_reducible apply Kept.upd) | with_reducible apply foldl_kept | (intro) | split | (fail_if_no_progress extract_lets) | (fail_if_no_progress beta_reduce) | (dsimp +zetaDelta only) | fail)

theorem State.examine_kept {q : List Instr} (s : State) (g : Nat) (port : Nat) (turn : Nat) (tok : Token) (h : Kept q s) : Kept q (State.examine s g port turn tok).1 := by
  unfold State.examine
  repeat' (first | with_reducible assumption | with_reducible apply State.canalFault_kept | with_reducible apply State.setTile_kept | fail_if_no_progress (with_reducible apply Kept.upd) | with_reducible apply foldl_kept | (intro) | split | (fail_if_no_progress extract_lets) | (fail_if_no_progress beta_reduce) | (dsimp +zetaDelta only) | fail)

theorem State.matchFull_kept {q : List Instr} (s : State) (g : Nat) (tok : Token) (full : Bool) (h : Kept q s) : Kept q (State.matchFull s g tok full) := by
  unfold State.matchFull
  repeat' (first | with_reducible assumption | with_reducible apply State.tileFault_kept | fail_if_no_progress (with_reducible apply Kept.upd) | with_reducible apply foldl_kept | (intro) | split | (fail_if_no_progress extract_lets) | (fail_if_no_progress beta_reduce) | (dsimp +zetaDelta only) | fail)

theorem State.deliverOne_kept {q : List Instr} (s : State) (g : Nat) (tok : Token) (h : Kept q s) : Kept q (State.deliverOne s g tok) := by
  unfold State.deliverOne
  repeat' (first | with_reducible assumption | with_reducible apply State.matchFull_kept | with_reducible apply State.setTile_kept | with_reducible apply State.tileFault_kept | fail_if_no_progress (with_reducible apply Kept.upd) | with_reducible apply foldl_kept | (intro) | split | (fail_if_no_progress extract_lets) | (fail_if_no_progress beta_reduce) | (dsimp +zetaDelta only) | fail)

theorem State.deliverBoth_kept {q : List Instr} (s : State) (g : Nat) (a : Option Token) (b : Option Token) (h : Kept q s) : Kept q (State.deliverBoth s g a b) := by
  unfold State.deliverBoth
  repeat' (first | with_reducible assumption | with_reducible apply State.deliverOne_kept | with_reducible apply State.matchFull_kept | with_reducible apply State.setTile_kept | fail_if_no_progress (with_reducible apply Kept.upd) | with_reducible apply foldl_kept | (intro) | split | (fail_if_no_progress extract_lets) | (fail_if_no_progress beta_reduce) | (dsimp +zetaDelta only) | fail)

theorem State.fanOut_kept {q : List Instr} (s : State) (g : Nat) (turn : Nat) (ins : List (Nat × Token)) (h : Kept q s) : Kept q (State.fanOut s g turn ins) := by
  unfold State.fanOut
  repeat' (first | with_reducible assumption | with_reducible apply State.deliverBoth_kept | with_reducible apply State.examine_kept | with_reducible apply State.sendOut_kept | fail_if_no_progress (with_reducible apply Kept.upd) | with_reducible apply foldl_kept | (intro) | split | (fail_if_no_progress extract_lets) | (fail_if_no_progress beta_reduce) | (dsimp +zetaDelta only) | fail)

theorem State.ingress_kept {q : List Instr} (s : State) (g : Nat) (port : Nat) (turn : Nat) (tok : Token) (h : Kept q s) : Kept q (State.ingress s g port turn tok).1 := by
  unfold State.ingress
  repeat' (first | with_reducible assumption | with_reducible apply State.canalFault_kept | with_reducible apply State.discardAt_kept | with_reducible apply State.setTile_kept | fail_if_no_progress (with_reducible apply Kept.upd) | with_reducible apply foldl_kept | (intro) | split | (fail_if_no_progress extract_lets) | (fail_if_no_progress beta_reduce) | (dsimp +zetaDelta only) | fail)

theorem State.takeInputs_kept {q : List Instr} (g turn : Nat) (l : List (Nat × BitVec 304)) (r : State × List (Nat × Token)) (h : Kept q r.1) :
    Kept q (State.takeInputs g turn l r).1 := by
  induction l generalizing r with
  | nil => exact h
  | cons a l ih =>
    unfold State.takeInputs
    split
    · exact ih _ h
    · extract_lets
      split
      · exact ih _ (State.ingress_kept _ _ _ _ _ (Kept.upd h))
      · exact ih _ (Kept.upd h)

theorem State.injection_kept {q : List Instr} (s : State) (g : Nat) (turn : Nat) (h : Kept q s) : Kept q (State.injection s g turn).1 := by
  unfold State.injection
  repeat' (first | with_reducible assumption | with_reducible apply State.setTile_kept | fail_if_no_progress (with_reducible apply Kept.upd) | with_reducible apply foldl_kept | (intro) | split | (fail_if_no_progress extract_lets) | (fail_if_no_progress beta_reduce) | (dsimp +zetaDelta only) | fail)

theorem State.switchCycle_kept {q : List Instr} (s : State) (g : Nat) (turn : Nat) (ports : List (Nat × BitVec 304)) (h : Kept q s) : Kept q (State.switchCycle s g turn ports) := by
  unfold State.switchCycle
  repeat' (first | with_reducible assumption | with_reducible apply State.fanOut_kept | with_reducible apply State.injection_kept | with_reducible apply State.takeInputs_kept | fail_if_no_progress (with_reducible apply Kept.upd) | with_reducible apply foldl_kept | (intro) | split | (fail_if_no_progress extract_lets) | (fail_if_no_progress beta_reduce) | (dsimp +zetaDelta only) | fail)

theorem execTokenArrive_kept {q : List Instr} (tile : Fin 4096) (port : Fin 4) (turn : Fin 256) (flip : BitVec 304) (more : List (Fin 4 × BitVec 304)) (s : State) (h : Kept q s) : ∀ y, execTokenArrive tile port turn flip more s = .next y → Kept q y := by
  intro y hy
  unfold execTokenArrive at hy
  cases hy
  repeat' (first | with_reducible assumption | with_reducible apply State.switchCycle_kept | fail_if_no_progress (with_reducible apply Kept.upd) | with_reducible apply foldl_kept | (intro) | split | (fail_if_no_progress extract_lets) | (fail_if_no_progress beta_reduce) | (dsimp +zetaDelta only) | fail)

theorem execTregInject_kept {q : List Instr} (tile : Fin 4096) (turn : Fin 256) (s : State) (h : Kept q s) : ∀ y, execTregInject tile turn s = .next y → Kept q y := by
  intro y hy
  unfold execTregInject at hy
  cases hy
  repeat' (first | with_reducible assumption | with_reducible apply State.switchCycle_kept | fail_if_no_progress (with_reducible apply Kept.upd) | with_reducible apply foldl_kept | (intro) | split | (fail_if_no_progress extract_lets) | (fail_if_no_progress beta_reduce) | (dsimp +zetaDelta only) | fail)

theorem execSteerTregEnter_kept {q : List Instr} (tile : Fin 4096) (turn : Fin 256) (s : State) (h : Kept q s) : ∀ y, execSteerTregEnter tile turn s = .next y → Kept q y := by
  intro y hy
  unfold execSteerTregEnter at hy
  cases hy
  repeat' (first | with_reducible assumption | with_reducible apply State.canalFault_kept | with_reducible apply State.setTile_kept | with_reducible apply State.tileFault_kept | with_reducible apply State.updTile_kept | fail_if_no_progress (with_reducible apply Kept.upd) | with_reducible apply foldl_kept | (intro) | split | (fail_if_no_progress extract_lets) | (fail_if_no_progress beta_reduce) | (dsimp +zetaDelta only) | fail)

end Sys2Proof.Machine
end

