-- ==== Sys2Proof/Laws/KeptFabric.lean ====
section
/-! SUPPORT. Every operation of Machine/Fabric.lean leaves the queue alone and keeps the memories in canonical form. -/

set_option linter.unusedTactic false
set_option linter.unreachableTactic false
set_option linter.unusedVariables false
set_option linter.unnecessarySeqFocus false

namespace Sys2Proof.Machine

theorem State.updFab_kept {q : List Instr} (s : State) (f : Fab → Fab) (h : Kept q s) : Kept q (State.updFab s f) := by
  unfold State.updFab
  repeat' (first | with_reducible assumption | fail_if_no_progress (with_reducible apply Kept.upd) | with_reducible apply foldl_kept | (intro) | split | (fail_if_no_progress extract_lets) | (fail_if_no_progress beta_reduce) | (dsimp +zetaDelta only) | fail)

theorem State.setFport_kept {q : List Instr} (s : State) (i : Nat) (p : FabPort) (h : Kept q s) : Kept q (State.setFport s i p) := by
  unfold State.setFport
  repeat' (first | with_reducible assumption | with_reducible apply State.updFab_kept | fail_if_no_progress (with_reducible apply Kept.upd) | with_reducible apply foldl_kept | (intro) | split | (fail_if_no_progress extract_lets) | (fail_if_no_progress beta_reduce) | (dsimp +zetaDelta only) | fail)

theorem State.updFport_kept {q : List Instr} (s : State) (i : Nat) (f : FabPort → FabPort) (h : Kept q s) : Kept q (State.updFport s i f) := by
  unfold State.updFport
  repeat' (first | with_reducible assumption | with_reducible apply State.setFport_kept | fail_if_no_progress (with_reducible apply Kept.upd) | with_reducible apply foldl_kept | (intro) | split | (fail_if_no_progress extract_lets) | (fail_if_no_progress beta_reduce) | (dsimp +zetaDelta only) | fail)

theorem State.fabPut_kept {q : List Instr} (s : State) (vc : Nat) (m : FabMsg) (i : Nat) (h : Kept q s) : Kept q (State.fabPut s vc m i) := by
  unfold State.fabPut
  repeat' (first | with_reducible assumption | with_reducible apply State.updFport_kept | fail_if_no_progress (with_reducible apply Kept.upd) | with_reducible apply foldl_kept | (intro) | split | (fail_if_no_progress extract_lets) | (fail_if_no_progress beta_reduce) | (dsimp +zetaDelta only) | fail)

theorem State.fabSend_kept {q : List Instr} (s : State) (vc : Nat) (m : FabMsg) (h : Kept q s) : Kept q (State.fabSend s vc m) := by
  unfold State.fabSend
  repeat' (first | with_reducible assumption | with_reducible apply State.fabPut_kept | with_reducible apply State.updFab_kept | with_reducible apply State.updFport_kept | fail_if_no_progress (with_reducible apply Kept.upd) | with_reducible apply foldl_kept | (intro) | split | (fail_if_no_progress extract_lets) | (fail_if_no_progress beta_reduce) | (dsimp +zetaDelta only) | fail)

theorem State.fabSendRes_kept {q : List Instr} (s : State) (lead : Nat) (kind : Nat) (chan : Nat) (m : FabMsg) (h : Kept q s) : Kept q (State.fabSendRes s lead kind chan m) := by
  unfold State.fabSendRes
  repeat' (first | with_reducible assumption | with_reducible apply State.fabPut_kept | with_reducible apply State.fabSend_kept | fail_if_no_progress (with_reducible apply Kept.upd) | with_reducible apply foldl_kept | (intro) | split | (fail_if_no_progress extract_lets) | (fail_if_no_progress beta_reduce) | (dsimp +zetaDelta only) | fail)

theorem State.mgmtNet_kept {q : List Instr} (s : State) (dest : Nat) (id : Nat) (body : Bytes) (h : Kept q s) : Kept q (State.mgmtNet s dest id body) := by
  unfold State.mgmtNet
  repeat' (first | with_reducible assumption | with_reducible apply State.updFab_kept | fail_if_no_progress (with_reducible apply Kept.upd) | with_reducible apply foldl_kept | (intro) | split | (fail_if_no_progress extract_lets) | (fail_if_no_progress beta_reduce) | (dsimp +zetaDelta only) | fail)

theorem State.mgmtEmit_kept {q : List Instr} (s : State) (dest : Nat) (id : Nat) (both : Bool) (body : Bytes) (h : Kept q s) : Kept q (State.mgmtEmit s dest id both body) := by
  unfold State.mgmtEmit
  repeat' (first | with_reducible assumption | with_reducible apply State.fabSend_kept | with_reducible apply State.mgmtNet_kept | fail_if_no_progress (with_reducible apply Kept.upd) | with_reducible apply foldl_kept | (intro) | split | (fail_if_no_progress extract_lets) | (fail_if_no_progress beta_reduce) | (dsimp +zetaDelta only) | fail)

theorem State.mgmtSend_kept {q : List Instr} (s : State) (dest : Nat) (both : Bool) (body : Bytes) (h : Kept q s) : Kept q (State.mgmtSend s dest both body) := by
  unfold State.mgmtSend
  repeat' (first | with_reducible assumption | with_reducible apply State.mgmtEmit_kept | with_reducible apply State.updFab_kept | fail_if_no_progress (with_reducible apply Kept.upd) | with_reducible apply foldl_kept | (intro) | split | (fail_if_no_progress extract_lets) | (fail_if_no_progress beta_reduce) | (dsimp +zetaDelta only) | fail)

theorem State.mgmtTake_kept {q : List Instr} (s : State) (m : MgmtIn) (act : State → State) (h : Kept q s) (hfact : ∀ x0, Kept q x0 → Kept q (act x0)) : Kept q (State.mgmtTake s m act) := by
  unfold State.mgmtTake
  repeat' (first | with_reducible assumption | with_reducible apply State.mgmtEmit_kept | with_reducible apply State.updFab_kept | with_reducible apply hfact | fail_if_no_progress (with_reducible apply Kept.upd) | with_reducible apply foldl_kept | (intro) | split | (fail_if_no_progress extract_lets) | (fail_if_no_progress beta_reduce) | (dsimp +zetaDelta only) | fail)

theorem State.mgmtGroup_kept {q : List Instr} (s : State) (serials : List Nat) (both : Bool) (body : Bytes) (h : Kept q s) : Kept q (State.mgmtGroup s serials both body) := by
  unfold State.mgmtGroup
  repeat' (first | with_reducible assumption | with_reducible apply State.mgmtSend_kept | fail_if_no_progress (with_reducible apply Kept.upd) | with_reducible apply foldl_kept | (intro) | split | (fail_if_no_progress extract_lets) | (fail_if_no_progress beta_reduce) | (dsimp +zetaDelta only) | fail)

theorem State.sendAbort_kept {q : List Instr} (s : State) (tag : Nat) (serials : List Nat) (port : Nat) (farSerial : Nat) (farPort : Nat) (status : Nat) (h : Kept q s) : Kept q (State.sendAbort s tag serials port farSerial farPort status) := by
  unfold State.sendAbort
  repeat' (first | with_reducible assumption | with_reducible apply State.mgmtGroup_kept | with_reducible apply State.updFab_kept | fail_if_no_progress (with_reducible apply Kept.upd) | with_reducible apply foldl_kept | (intro) | split | (fail_if_no_progress extract_lets) | (fail_if_no_progress beta_reduce) | (dsimp +zetaDelta only) | fail)

end Sys2Proof.Machine
end

