-- ==== Sys2Proof/Laws/KeptTiers.lean ====
section
/-! SUPPORT. Every operation of Machine/Tiers.lean leaves the queue alone and keeps the memories in canonical form. -/

set_option linter.unusedTactic false
set_option linter.unreachableTactic false
set_option linter.unusedVariables false
set_option linter.unnecessarySeqFocus false

namespace Sys2Proof.Machine

theorem State.pondWrite_kept {q : List Instr} (s : State) (k : Nat) (n : Nat) (h : Kept q s) : Kept q (State.pondWrite s k n) := by
  unfold State.pondWrite
  repeat' (first | with_reducible assumption | with_reducible apply State.updQuad_kept | fail_if_no_progress (with_reducible apply Kept.upd) | with_reducible apply foldl_kept | (intro) | split | (fail_if_no_progress extract_lets) | (fail_if_no_progress beta_reduce) | (dsimp +zetaDelta only) | fail)

theorem State.put_kept {q : List Instr} (s : State) (a : Nat) (l : Bytes) (cls : Nat) (req : Nat) (h : Kept q s) : Kept q (State.put s a l cls req) := by
  unfold State.put
  repeat' (first | with_reducible assumption | with_reducible apply State.pondWrite_kept | fail_if_no_progress (with_reducible apply Kept.upd) | with_reducible apply foldl_kept | (intro) | split | (fail_if_no_progress extract_lets) | (fail_if_no_progress beta_reduce) | (dsimp +zetaDelta only) | (with_reducible refine Kept.updMem ?_ (fun hm => ?_); rotate_left; · (first | with_reducible apply storeWord_wf | with_reducible apply Mem.store_wf | with_reducible apply Mem.zero_wf | with_reducible apply Mem.writeN_wf | with_reducible apply Mem.tagPages_wf | with_reducible apply Mem.ueSet_wf | with_reducible apply Mem.regionSet_wf | with_reducible apply Mem.tagsOff_wf | (with_reducible apply foldl_mem_wf; intro) | split) <;> (repeat' (first | with_reducible assumption | (intro) | with_reducible apply storeWord_wf | with_reducible apply Mem.store_wf | with_reducible apply Mem.zero_wf | with_reducible apply Mem.writeN_wf | with_reducible apply Mem.tagPages_wf | with_reducible apply Mem.ueSet_wf | with_reducible apply Mem.regionSet_wf | with_reducible apply Mem.tagsOff_wf | split | exact Kept.mem (by with_reducible assumption)))) | fail)

theorem State.pondUse_kept {q : List Instr} (s : State) (q' : Nat) (k : Nat) (n : Nat) (h : Kept q s) : Kept q (State.pondUse s q' k n) := by
  unfold State.pondUse
  repeat' (first | with_reducible assumption | with_reducible apply State.updQuad_kept | fail_if_no_progress (with_reducible apply Kept.upd) | with_reducible apply foldl_kept | (intro) | split | (fail_if_no_progress extract_lets) | (fail_if_no_progress beta_reduce) | (dsimp +zetaDelta only) | (with_reducible refine Kept.updMem ?_ (fun hm => ?_); rotate_left; · (first | with_reducible apply storeWord_wf | with_reducible apply Mem.store_wf | with_reducible apply Mem.zero_wf | with_reducible apply Mem.writeN_wf | with_reducible apply Mem.tagPages_wf | with_reducible apply Mem.ueSet_wf | with_reducible apply Mem.regionSet_wf | with_reducible apply Mem.tagsOff_wf | (with_reducible apply foldl_mem_wf; intro) | split) <;> (repeat' (first | with_reducible assumption | (intro) | with_reducible apply storeWord_wf | with_reducible apply Mem.store_wf | with_reducible apply Mem.zero_wf | with_reducible apply Mem.writeN_wf | with_reducible apply Mem.tagPages_wf | with_reducible apply Mem.ueSet_wf | with_reducible apply Mem.regionSet_wf | with_reducible apply Mem.tagsOff_wf | split | exact Kept.mem (by with_reducible assumption)))) | fail)

theorem State.pondUseN_kept {q : List Instr} (u f : Nat) (s : State) (k n : Nat) (h : Kept q s) : Kept q (State.pondUseN u f s k n) := by
  induction f generalizing s k n with
  | zero => exact h
  | succ f ih =>
    unfold State.pondUseN
    split
    · exact h
    · exact ih _ _ _ (State.pondUse_kept _ _ _ _ h)

theorem State.tierError_kept {q : List Instr} (s : State) (b : Nat) (cls : Nat) (req : Nat) (tile : Nat) (h : Kept q s) : Kept q (State.tierError s b cls req tile) := by
  unfold State.tierError
  repeat' (first | with_reducible assumption | with_reducible apply State.force_kept | with_reducible apply State.setPlot_kept | fail_if_no_progress (with_reducible apply Kept.upd) | with_reducible apply foldl_kept | (intro) | split | (fail_if_no_progress extract_lets) | (fail_if_no_progress beta_reduce) | (dsimp +zetaDelta only) | fail)

theorem State.countTier_kept {q : List Instr} (s : State) (cause : Nat) (a : Nat) (h : Kept q s) : Kept q (State.countTier s cause a) := by
  unfold State.countTier
  repeat' (first | with_reducible assumption | with_reducible apply State.updQuad_kept | fail_if_no_progress (with_reducible apply Kept.upd) | with_reducible apply foldl_kept | (intro) | split | (fail_if_no_progress extract_lets) | (fail_if_no_progress beta_reduce) | (dsimp +zetaDelta only) | fail)

theorem State.buildQuad_kept {q : List Instr} (s : State) (q' : Nat) (pond : Nat) (cist : Nat) (h : Kept q s) : Kept q (State.buildQuad s q' pond cist) := by
  unfold State.buildQuad
  repeat' (first | with_reducible assumption | with_reducible apply State.updQuad_kept | fail_if_no_progress (with_reducible apply Kept.upd) | with_reducible apply foldl_kept | (intro) | split | (fail_if_no_progress extract_lets) | (fail_if_no_progress beta_reduce) | (dsimp +zetaDelta only) | fail)

theorem execMemCfgWrite_kept {q : List Instr} (q' : Fin 4) (v : BitVec 64) (s : State) (h : Kept q s) : ∀ y, execMemCfgWrite q' v s = .next y → Kept q y := by
  intro y hy
  unfold execMemCfgWrite at hy
  cases hy
  repeat' (first | with_reducible assumption | with_reducible apply State.buildQuad_kept | with_reducible apply State.updQuad_kept | fail_if_no_progress (with_reducible apply Kept.upd) | with_reducible apply foldl_kept | (intro) | split | (fail_if_no_progress extract_lets) | (fail_if_no_progress beta_reduce) | (dsimp +zetaDelta only) | fail)

theorem execPatrolScrub_kept {q : List Instr} (addr : BitVec 52) (found : Fin 3) (s : State) (h : Kept q s) : ∀ y, execPatrolScrub addr found s = .next y → Kept q y := by
  intro y hy
  unfold execPatrolScrub at hy
  cases hy
  split
  · split
    · exact State.updQuad_kept _ _ _ h
    · split
      · refine State.post_kept _ _ _ _ _ _ _ _ (State.countTier_kept _ _ _ (Kept.updMem h (fun hm => ?_)))
        split
        · exact Mem.ueField_wf _ _ _ hm
        · exact Mem.ueRes_wf _ _ _ hm
      · exact h
  · exact h

theorem State.regionOut_kept {q : List Instr} (s : State) (q' : Nat) (stack : Nat) (h : Kept q s) : Kept q (State.regionOut s q' stack) := by
  unfold State.regionOut
  repeat' (first | with_reducible assumption | with_reducible apply State.post_kept | with_reducible apply State.signal_kept | with_reducible apply State.updQuad_kept | fail_if_no_progress (with_reducible apply Kept.upd) | with_reducible apply foldl_kept | (intro) | split | (fail_if_no_progress extract_lets) | (fail_if_no_progress beta_reduce) | (dsimp +zetaDelta only) | fail)

end Sys2Proof.Machine
end

