-- ==== Sys2Proof/Laws/KeptSluice.lean ====
section
/-! SUPPORT. Every operation of Machine/Sluice.lean leaves the queue alone and keeps the memories in canonical form. -/

set_option linter.unusedTactic false
set_option linter.unreachableTactic false
set_option linter.unusedVariables false
set_option linter.unnecessarySeqFocus false

namespace Sys2Proof.Machine

theorem State.setEngine_kept {q : List Instr} (s : State) (e : Nat) (x : Engine) (h : Kept q s) : Kept q (State.setEngine s e x) := by
  unfold State.setEngine
  repeat' (first | with_reducible assumption | fail_if_no_progress (with_reducible apply Kept.upd) | with_reducible apply foldl_kept | (intro) | split | (fail_if_no_progress extract_lets) | (fail_if_no_progress beta_reduce) | (dsimp +zetaDelta only) | fail)

theorem State.updEngine_kept {q : List Instr} (s : State) (e : Nat) (f : Engine → Engine) (h : Kept q s) : Kept q (State.updEngine s e f) := by
  unfold State.updEngine
  repeat' (first | with_reducible assumption | with_reducible apply State.setEngine_kept | fail_if_no_progress (with_reducible apply Kept.upd) | with_reducible apply foldl_kept | (intro) | split | (fail_if_no_progress extract_lets) | (fail_if_no_progress beta_reduce) | (dsimp +zetaDelta only) | fail)

theorem State.slSend_kept {q : List Instr} (s : State) (c : SlCmd) (m : FabMsg) (h : Kept q s) : Kept q (State.slSend s c m) := by
  unfold State.slSend
  repeat' (first | with_reducible assumption | with_reducible apply State.fabSend_kept | with_reducible apply State.fabSendRes_kept | fail_if_no_progress (with_reducible apply Kept.upd) | with_reducible apply foldl_kept | (intro) | split | (fail_if_no_progress extract_lets) | (fail_if_no_progress beta_reduce) | (dsimp +zetaDelta only) | fail)

theorem State.slFetch_kept {q : List Instr} (s : State) (c : SlCmd) (a : Nat) (n : Nat) (h : Kept q s) : Kept q (State.slFetch s c a n) := by
  unfold State.slFetch
  repeat' (first | with_reducible assumption | with_reducible apply State.slSend_kept | fail_if_no_progress (with_reducible apply Kept.upd) | with_reducible apply foldl_kept | (intro) | split | (fail_if_no_progress extract_lets) | (fail_if_no_progress beta_reduce) | (dsimp +zetaDelta only) | fail)

theorem State.slPush_kept {q : List Instr} (s : State) (c : SlCmd) (a : Nat) (l : Bytes) (h : Kept q s) : Kept q (State.slPush s c a l) := by
  unfold State.slPush
  repeat' (first | with_reducible assumption | with_reducible apply State.slSend_kept | fail_if_no_progress (with_reducible apply Kept.upd) | with_reducible apply foldl_kept | (intro) | split | (fail_if_no_progress extract_lets) | (fail_if_no_progress beta_reduce) | (dsimp +zetaDelta only) | fail)

theorem State.slChan_kept {q : List Instr} (s : State) (c : SlCmd) (lead : Nat) (ch : Nat) (l : Bytes) (h : Kept q s) : Kept q (State.slChan s c lead ch l) := by
  unfold State.slChan
  repeat' (first | with_reducible assumption | with_reducible apply State.fabSendRes_kept | fail_if_no_progress (with_reducible apply Kept.upd) | with_reducible apply foldl_kept | (intro) | split | (fail_if_no_progress extract_lets) | (fail_if_no_progress beta_reduce) | (dsimp +zetaDelta only) | fail)

theorem State.slServe_kept {q : List Instr} (e f : Nat) (s : State) (h : Kept q s) : Kept q (State.slServe e f s) := by
  induction f generalizing s with
  | zero => exact h
  | succ f ih =>
    unfold State.slServe
    extract_lets
    split
    · exact State.setEngine_kept _ _ _ h
    · split
      · exact State.setEngine_kept _ _ _ h
      · exact ih _ (State.setEngine_kept _ _ _ h)

theorem State.serveEngine_kept {q : List Instr} (s : State) (e : Nat) (h : Kept q s) : Kept q (State.serveEngine s e) := by
  unfold State.serveEngine
  repeat' (first | with_reducible assumption | with_reducible apply State.slServe_kept | fail_if_no_progress (with_reducible apply Kept.upd) | with_reducible apply foldl_kept | (intro) | split | (fail_if_no_progress extract_lets) | (fail_if_no_progress beta_reduce) | (dsimp +zetaDelta only) | fail)

theorem State.slSubmit_kept {q : List Instr} (s : State) (e : Nat) (c : SlCmd) (h : Kept q s) : Kept q (State.slSubmit s e c) := by
  unfold State.slSubmit
  repeat' (first | with_reducible assumption | with_reducible apply State.serveEngine_kept | with_reducible apply State.updEngine_kept | fail_if_no_progress (with_reducible apply Kept.upd) | with_reducible apply foldl_kept | (intro) | split | (fail_if_no_progress extract_lets) | (fail_if_no_progress beta_reduce) | (dsimp +zetaDelta only) | fail)

theorem execCopy_kept {q : List Instr} (engine : Fin 64) (lead : Option (Fin 64)) (d : Desc) (s : State) (h : Kept q s) : ∀ y, execCopy engine lead d s = .next y → Kept q y := by
  intro y hy
  unfold execCopy at hy
  cases hy
  repeat' (first | with_reducible assumption | with_reducible apply State.slSubmit_kept | fail_if_no_progress (with_reducible apply Kept.upd) | with_reducible apply foldl_kept | (intro) | split | (fail_if_no_progress extract_lets) | (fail_if_no_progress beta_reduce) | (dsimp +zetaDelta only) | fail)

theorem execCopyRaw_kept {q : List Instr} (engine : Fin 64) (lead : Option (Fin 64)) (d : Desc) (s : State) (h : Kept q s) : ∀ y, execCopyRaw engine lead d s = .next y → Kept q y := by
  intro y hy
  unfold execCopyRaw at hy
  cases hy
  repeat' (first | with_reducible assumption | with_reducible apply State.slSubmit_kept | fail_if_no_progress (with_reducible apply Kept.upd) | with_reducible apply foldl_kept | (intro) | split | (fail_if_no_progress extract_lets) | (fail_if_no_progress beta_reduce) | (dsimp +zetaDelta only) | fail)

theorem execFill_kept {q : List Instr} (engine : Fin 64) (lead : Option (Fin 64)) (d : Desc) (s : State) (h : Kept q s) : ∀ y, execFill engine lead d s = .next y → Kept q y := by
  intro y hy
  unfold execFill at hy
  cases hy
  repeat' (first | with_reducible assumption | with_reducible apply State.slSubmit_kept | fail_if_no_progress (with_reducible apply Kept.upd) | with_reducible apply foldl_kept | (intro) | split | (fail_if_no_progress extract_lets) | (fail_if_no_progress beta_reduce) | (dsimp +zetaDelta only) | fail)

theorem execPlist_kept {q : List Instr} (engine : Fin 64) (lead : Option (Fin 64)) (d : Desc) (s : State) (h : Kept q s) : ∀ y, execPlist engine lead d s = .next y → Kept q y := by
  intro y hy
  unfold execPlist at hy
  cases hy
  repeat' (first | with_reducible assumption | with_reducible apply State.slSubmit_kept | fail_if_no_progress (with_reducible apply Kept.upd) | with_reducible apply foldl_kept | (intro) | split | (fail_if_no_progress extract_lets) | (fail_if_no_progress beta_reduce) | (dsimp +zetaDelta only) | fail)

theorem execStage_kept {q : List Instr} (engine : Fin 64) (lead : Option (Fin 64)) (d : Desc) (s : State) (h : Kept q s) : ∀ y, execStage engine lead d s = .next y → Kept q y := by
  intro y hy
  unfold execStage at hy
  cases hy
  repeat' (first | with_reducible assumption | with_reducible apply State.slSubmit_kept | fail_if_no_progress (with_reducible apply Kept.upd) | with_reducible apply foldl_kept | (intro) | split | (fail_if_no_progress extract_lets) | (fail_if_no_progress beta_reduce) | (dsimp +zetaDelta only) | fail)

theorem execSluiceSignal_kept {q : List Instr} (engine : Fin 64) (lead : Option (Fin 64)) (d : Desc) (s : State) (h : Kept q s) : ∀ y, execSluiceSignal engine lead d s = .next y → Kept q y := by
  intro y hy
  unfold execSluiceSignal at hy
  cases hy
  repeat' (first | with_reducible assumption | with_reducible apply State.slSubmit_kept | fail_if_no_progress (with_reducible apply Kept.upd) | with_reducible apply foldl_kept | (intro) | split | (fail_if_no_progress extract_lets) | (fail_if_no_progress beta_reduce) | (dsimp +zetaDelta only) | fail)

theorem execSlRingTailWrite_kept {q : List Instr} (engine : Fin 64) (tail : BitVec 16) (s : State) (h : Kept q s) : ∀ y, execSlRingTailWrite engine tail s = .next y → Kept q y := by
  intro y hy
  unfold execSlRingTailWrite at hy
  cases hy
  repeat' (first | with_reducible assumption | with_reducible apply State.serveEngine_kept | with_reducible apply State.updEngine_kept | fail_if_no_progress (with_reducible apply Kept.upd) | with_reducible apply foldl_kept | (intro) | split | (fail_if_no_progress extract_lets) | (fail_if_no_progress beta_reduce) | (dsimp +zetaDelta only) | fail)

theorem execEngineSemTake_kept {q : List Instr} (engine : Fin 64) (index : BitVec 20) (s : State) (h : Kept q s) : ∀ y, execEngineSemTake engine index s = .next y → Kept q y := by
  intro y hy
  unfold execEngineSemTake at hy
  cases hy
  repeat' (first | with_reducible assumption | with_reducible apply State.updEngine_kept | with_reducible apply State.updTile_kept | fail_if_no_progress (with_reducible apply Kept.upd) | with_reducible apply foldl_kept | (intro) | split | (fail_if_no_progress extract_lets) | (fail_if_no_progress beta_reduce) | (dsimp +zetaDelta only) | fail)

theorem State.engineSignal_kept {q : List Instr} (s : State) (g : Nat) (i : Nat) (h : Kept q s) : Kept q (State.engineSignal s g i) := by
  unfold State.engineSignal
  repeat' (first | with_reducible assumption | with_reducible apply State.tileFault_kept | with_reducible apply State.updTile_kept | fail_if_no_progress (with_reducible apply Kept.upd) | with_reducible apply foldl_kept | (intro) | split | (fail_if_no_progress extract_lets) | (fail_if_no_progress beta_reduce) | (dsimp +zetaDelta only) | fail)

theorem State.slWrites_kept {q : List Instr} (s : State) (c : SlCmd) (w : List SlWrite) (h : Kept q s) : Kept q (State.slWrites s c w) := by
  unfold State.slWrites
  repeat' (first | with_reducible assumption | with_reducible apply State.put_kept | with_reducible apply State.slChan_kept | with_reducible apply State.slPush_kept | fail_if_no_progress (with_reducible apply Kept.upd) | with_reducible apply foldl_kept | (intro) | split | (fail_if_no_progress extract_lets) | (fail_if_no_progress beta_reduce) | (dsimp +zetaDelta only) | fail)

theorem State.plistFull_kept {q : List Instr} (s : State) (c : SlCmd) (h : Kept q s) : Kept q (State.plistFull s c) := by
  unfold State.plistFull
  repeat' (first | with_reducible assumption | with_reducible apply State.engineSignal_kept | fail_if_no_progress (with_reducible apply Kept.upd) | with_reducible apply foldl_kept | (intro) | split | (fail_if_no_progress extract_lets) | (fail_if_no_progress beta_reduce) | (dsimp +zetaDelta only) | fail)

theorem State.spoil_kept {q : List Instr} (s : State) (a : Nat) (n : Nat) (h : Kept q s) : Kept q (State.spoil s a n) := by
  unfold State.spoil
  repeat' (first | with_reducible assumption | with_reducible apply State.tick_kept | fail_if_no_progress (with_reducible apply Kept.upd) | with_reducible apply foldl_kept | (intro) | split | (fail_if_no_progress extract_lets) | (fail_if_no_progress beta_reduce) | (dsimp +zetaDelta only) | (with_reducible refine Kept.updMem ?_ (fun hm => ?_); rotate_left; · (first | with_reducible apply storeWord_wf | with_reducible apply Mem.store_wf | with_reducible apply Mem.zero_wf | with_reducible apply Mem.writeN_wf | with_reducible apply Mem.tagPages_wf | with_reducible apply Mem.ueSet_wf | with_reducible apply Mem.regionSet_wf | with_reducible apply Mem.tagsOff_wf | (with_reducible apply foldl_mem_wf; intro) | split) <;> (repeat' (first | with_reducible assumption | (intro) | with_reducible apply storeWord_wf | with_reducible apply Mem.store_wf | with_reducible apply Mem.zero_wf | with_reducible apply Mem.writeN_wf | with_reducible apply Mem.tagPages_wf | with_reducible apply Mem.ueSet_wf | with_reducible apply Mem.regionSet_wf | with_reducible apply Mem.tagsOff_wf | split | exact Kept.mem (by with_reducible assumption)))) | fail)

theorem State.slSpoil_kept {q : List Instr} (s : State) (c : SlCmd) (h : Kept q s) : Kept q (State.slSpoil s c) := by
  unfold State.slSpoil
  repeat' (first | with_reducible assumption | with_reducible apply State.spoil_kept | fail_if_no_progress (with_reducible apply Kept.upd) | with_reducible apply foldl_kept | (intro) | split | (fail_if_no_progress extract_lets) | (fail_if_no_progress beta_reduce) | (dsimp +zetaDelta only) | fail)

theorem State.slPondUse_kept {q : List Instr} (s : State) (e : Nat) (c : SlCmd) (h : Kept q s) : Kept q (State.slPondUse s e c) := by
  unfold State.slPondUse
  repeat' (first | with_reducible assumption | with_reducible apply State.pondUseN_kept | fail_if_no_progress (with_reducible apply Kept.upd) | with_reducible apply foldl_kept | (intro) | split | (fail_if_no_progress extract_lets) | (fail_if_no_progress beta_reduce) | (dsimp +zetaDelta only) | fail)

theorem State.slFail_kept {q : List Instr} (s : State) (e : Nat) (c : SlCmd) (cause : Nat) (a : Nat) (cl : Nat) (r : Nat) (h : Kept q s) : Kept q (State.slFail s e c cause a cl r) := by
  unfold State.slFail
  repeat' (first | with_reducible assumption | with_reducible apply State.countTier_kept | with_reducible apply State.slSpoil_kept | with_reducible apply State.updEngine_kept | fail_if_no_progress (with_reducible apply Kept.upd) | with_reducible apply foldl_kept | (intro) | split | (fail_if_no_progress extract_lets) | (fail_if_no_progress beta_reduce) | (dsimp +zetaDelta only) | fail)

theorem State.slBill_kept {q : List Instr} (s : State) (e : Nat) (c : SlCmd) (h : Kept q s) : Kept q (State.slBill s e c).1 :=
  State.updEngine_kept _ _ _ h

theorem State.slAwait_kept {q : List Instr} (s : State) (e : Nat) (c : SlCmd) (l : List (Nat × Nat)) (h : Kept q s) : Kept q (State.slAwait s e c l) := by
  unfold State.slAwait
  repeat' (first | with_reducible assumption | with_reducible apply State.slFetch_kept | with_reducible apply State.updEngine_kept | fail_if_no_progress (with_reducible apply Kept.upd) | with_reducible apply foldl_kept | (intro) | split | (fail_if_no_progress extract_lets) | (fail_if_no_progress beta_reduce) | (dsimp +zetaDelta only) | fail)

theorem State.slMake_kept {q : List Instr} (s : State) (e : Nat) (c : SlCmd) (w : List SlWrite) (h : Kept q s) : Kept q (State.slMake s e c w) := by
  unfold State.slMake
  repeat' (first | with_reducible assumption | with_reducible apply State.plistFull_kept | with_reducible apply State.slPondUse_kept | with_reducible apply State.slWrites_kept | with_reducible apply State.updEngine_kept | fail_if_no_progress (with_reducible apply Kept.upd) | with_reducible apply foldl_kept | (intro) | split | (fail_if_no_progress extract_lets) | (fail_if_no_progress beta_reduce) | (dsimp +zetaDelta only) | fail)

theorem State.slRun_kept {q : List Instr} (s : State) (e : Nat) (c0 : SlCmd) (h : Kept q s) : Kept q (State.slRun s e c0) := by
  unfold State.slRun
  extract_lets x
  have hx : Kept q x.1 := State.slBill_kept s e c0 h
  clear_value x
  split
  · exact State.slFail_kept _ _ _ _ _ _ _ (State.slPondUse_kept _ _ _ hx)
  · exact State.slAwait_kept _ _ _ _ hx
  · exact State.slMake_kept _ _ _ _ hx

theorem State.slAqFail_kept {q : List Instr} (s : State) (e : Nat) (c : SlCmd) (a : Nat) (h : Kept q s) : Kept q (State.slAqFail s e c a) := by
  unfold State.slAqFail
  repeat' (first | with_reducible assumption | with_reducible apply State.slFail_kept | fail_if_no_progress (with_reducible apply Kept.upd) | with_reducible apply foldl_kept | (intro) | split | (fail_if_no_progress extract_lets) | (fail_if_no_progress beta_reduce) | (dsimp +zetaDelta only) | fail)

theorem State.staleErr_kept {q : List Instr} (s : State) (e : Nat) (c : SlCmd) (aq : Option Nat) (h : Kept q s) : Kept q (State.staleErr s e c aq) := by
  unfold State.staleErr
  repeat' (first | with_reducible assumption | with_reducible apply State.countTier_kept | fail_if_no_progress (with_reducible apply Kept.upd) | with_reducible apply foldl_kept | (intro) | split | (fail_if_no_progress extract_lets) | (fail_if_no_progress beta_reduce) | (dsimp +zetaDelta only) | fail)

theorem State.slFree_kept {q : List Instr} (s : State) (e : Nat) (c : SlCmd) (h : Kept q s) : Kept q (State.slFree s e c) := by
  unfold State.slFree
  repeat' (first | with_reducible assumption | with_reducible apply State.serveEngine_kept | with_reducible apply State.updEngine_kept | fail_if_no_progress (with_reducible apply Kept.upd) | with_reducible apply foldl_kept | (intro) | split | (fail_if_no_progress extract_lets) | (fail_if_no_progress beta_reduce) | (dsimp +zetaDelta only) | fail)

theorem State.slStale_kept {q : List Instr} (s : State) (e : Nat) (c : Option SlCmd) (h : Kept q s) : Kept q (State.slStale s e c) := by
  unfold State.slStale
  repeat' (first | with_reducible assumption | with_reducible apply State.slFree_kept | with_reducible apply State.updEngine_kept | fail_if_no_progress (with_reducible apply Kept.upd) | with_reducible apply foldl_kept | (intro) | split | (fail_if_no_progress extract_lets) | (fail_if_no_progress beta_reduce) | (dsimp +zetaDelta only) | fail)

theorem State.countCe_kept {q : List Instr} (s : State) (l : List (BitVec 52)) (h : Kept q s) : Kept q (State.countCe s l) := by
  unfold State.countCe
  repeat' (first | with_reducible assumption | with_reducible apply State.updQuad_kept | fail_if_no_progress (with_reducible apply Kept.upd) | with_reducible apply foldl_kept | (intro) | split | (fail_if_no_progress extract_lets) | (fail_if_no_progress beta_reduce) | (dsimp +zetaDelta only) | fail)

theorem execTierReply_kept {q : List Instr} (engine : Fin 64) (index : BitVec 20) (gen : BitVec 6) (poison : Bool) (ces : List (BitVec 52)) (s0 : State) (h : Kept q s0) : ∀ y, execTierReply engine index gen poison ces s0 = .next y → Kept q y := by
  intro y hy
  unfold execTierReply at hy
  cases hy
  repeat' (first | with_reducible assumption | with_reducible apply State.countCe_kept | with_reducible apply State.slAqFail_kept | with_reducible apply State.slRun_kept | with_reducible apply State.slStale_kept | with_reducible apply State.staleErr_kept | fail_if_no_progress (with_reducible apply Kept.upd) | with_reducible apply foldl_kept | (intro) | split | (fail_if_no_progress extract_lets) | (fail_if_no_progress beta_reduce) | (dsimp +zetaDelta only) | fail)

theorem execAqReadTimeout_kept {q : List Instr} (engine : Fin 64) (index : BitVec 20) (s : State) (h : Kept q s) : ∀ y, execAqReadTimeout engine index s = .next y → Kept q y := by
  intro y hy
  unfold execAqReadTimeout at hy
  cases hy
  repeat' (first | with_reducible assumption | with_reducible apply State.countTier_kept | with_reducible apply State.slAqFail_kept | with_reducible apply State.slFree_kept | fail_if_no_progress (with_reducible apply Kept.upd) | with_reducible apply foldl_kept | (intro) | split | (fail_if_no_progress extract_lets) | (fail_if_no_progress beta_reduce) | (dsimp +zetaDelta only) | fail)

theorem State.slOutcome_kept {q : List Instr} (s : State) (c : SlCmd) (cause : Nat) (cl : Nat) (r : Nat) (h : Kept q s) : Kept q (State.slOutcome s c cause cl r) := by
  unfold State.slOutcome
  repeat' (first | with_reducible assumption | with_reducible apply State.force_kept | with_reducible apply State.tierError_kept | fail_if_no_progress (with_reducible apply Kept.upd) | with_reducible apply foldl_kept | (intro) | split | (fail_if_no_progress extract_lets) | (fail_if_no_progress beta_reduce) | (dsimp +zetaDelta only) | fail)

theorem execStreamRelease_kept {q : List Instr} (lead : Fin 64) (record : BitVec 16) (k : Nat) (s : State) (h : Kept q s) : ∀ y, execStreamRelease lead record k s = .next y → Kept q y := by
  intro y hy
  unfold execStreamRelease at hy
  cases hy
  repeat' (first | with_reducible assumption | with_reducible apply State.slSubmit_kept | fail_if_no_progress (with_reducible apply Kept.upd) | with_reducible apply foldl_kept | (intro) | split | (fail_if_no_progress extract_lets) | (fail_if_no_progress beta_reduce) | (dsimp +zetaDelta only) | fail)

theorem State.cancelStreams_kept {q : List Instr} (s : State) (b : Nat) (h : Kept q s) : Kept q (State.cancelStreams s b) := by
  unfold State.cancelStreams
  repeat' (first | with_reducible assumption | with_reducible apply State.serveEngine_kept | with_reducible apply State.updEngine_kept | fail_if_no_progress (with_reducible apply Kept.upd) | with_reducible apply foldl_kept | (intro) | split | (fail_if_no_progress extract_lets) | (fail_if_no_progress beta_reduce) | (dsimp +zetaDelta only) | fail)

theorem execTierWatchdog_kept {q : List Instr} (lead : Fin 64) (ns : Nat) (stall : Nat) (s : State) (h : Kept q s) : ∀ y, execTierWatchdog lead ns stall s = .next y → Kept q y := by
  intro y hy
  unfold execTierWatchdog at hy
  cases hy
  repeat' (first | with_reducible assumption | with_reducible apply State.force_kept | with_reducible apply State.updPlotRegs_kept | fail_if_no_progress (with_reducible apply Kept.upd) | with_reducible apply foldl_kept | (intro) | split | (fail_if_no_progress extract_lets) | (fail_if_no_progress beta_reduce) | (dsimp +zetaDelta only) | fail)

end Sys2Proof.Machine
end

