-- ==== Sys2Proof/Laws/KeptCistern.lean ====
section
/-! SUPPORT. Every operation of Machine/Cistern.lean leaves the queue alone and keeps the memories in canonical form. -/

set_option linter.unusedTactic false
set_option linter.unreachableTactic false
set_option linter.unusedVariables false
set_option linter.unnecessarySeqFocus false

namespace Sys2Proof.Machine

theorem State.updCist_kept {q : List Instr} (s : State) (q' : Nat) (f : Cistern → Cistern) (h : Kept q s) : Kept q (State.updCist s q' f) := by
  unfold State.updCist
  repeat' (first | with_reducible assumption | fail_if_no_progress (with_reducible apply Kept.upd) | with_reducible apply foldl_kept | (intro) | split | (fail_if_no_progress extract_lets) | (fail_if_no_progress beta_reduce) | (dsimp +zetaDelta only) | (with_reducible refine Kept.updMem ?_ (fun hm => ?_); rotate_left; · (first | with_reducible apply storeWord_wf | with_reducible apply Mem.store_wf | with_reducible apply Mem.zero_wf | with_reducible apply Mem.writeN_wf | with_reducible apply Mem.tagPages_wf | with_reducible apply Mem.ueSet_wf | with_reducible apply Mem.regionSet_wf | with_reducible apply Mem.tagsOff_wf | (with_reducible apply foldl_mem_wf; intro) | split) <;> (repeat' (first | with_reducible assumption | (intro) | with_reducible apply storeWord_wf | with_reducible apply Mem.store_wf | with_reducible apply Mem.zero_wf | with_reducible apply Mem.writeN_wf | with_reducible apply Mem.tagPages_wf | with_reducible apply Mem.ueSet_wf | with_reducible apply Mem.regionSet_wf | with_reducible apply Mem.tagsOff_wf | split | exact Kept.mem (by with_reducible assumption)))) | fail)

theorem State.cistErr_kept {q : List Instr} (s : State) (q' : Nat) (cause : Nat) (queue : Nat) (writer : Nat) (parcel : Nat) (h : Kept q s) : Kept q (State.cistErr s q' cause queue writer parcel) := by
  unfold State.cistErr
  repeat' (first | with_reducible assumption | with_reducible apply State.post_kept | with_reducible apply Work.raise_kept | with_reducible apply State.signal_kept | with_reducible apply State.updCist_kept | fail_if_no_progress (with_reducible apply Kept.upd) | with_reducible apply foldl_kept | (intro) | split | (fail_if_no_progress extract_lets) | (fail_if_no_progress beta_reduce) | (dsimp +zetaDelta only) | fail)

theorem State.cistFault_kept {q : List Instr} (s : State) (q' : Nat) (cause : Nat) (queue : Nat) (writer : Nat) (lead : Option Nat) (h : Kept q s) : Kept q (State.cistFault s q' cause queue writer lead) := by
  unfold State.cistFault
  repeat' (first | with_reducible assumption | with_reducible apply State.cistErr_kept | with_reducible apply State.force_kept | fail_if_no_progress (with_reducible apply Kept.upd) | with_reducible apply foldl_kept | (intro) | split | (fail_if_no_progress extract_lets) | (fail_if_no_progress beta_reduce) | (dsimp +zetaDelta only) | fail)

theorem State.countForced_kept {q : List Instr} (s : State) (q' : Nat) (n : Nat) (items : Nat) (h : Kept q s) : Kept q (State.countForced s q' n items) := by
  unfold State.countForced
  repeat' (first | with_reducible assumption | with_reducible apply State.updPlotRegs_kept | fail_if_no_progress (with_reducible apply Kept.upd) | with_reducible apply foldl_kept | (intro) | split | (fail_if_no_progress extract_lets) | (fail_if_no_progress beta_reduce) | (dsimp +zetaDelta only) | fail)

theorem State.linkPkt_kept {q : List Instr} (s : State) (q' : Nat) (n : Nat) (cells : List Nat) (items : Nat) (h : Kept q s) : Kept q (State.linkPkt s q' n cells items) := by
  unfold State.linkPkt
  repeat' (first | with_reducible assumption | with_reducible apply State.updCist_kept | fail_if_no_progress (with_reducible apply Kept.upd) | with_reducible apply foldl_kept | (intro) | split | (fail_if_no_progress extract_lets) | (fail_if_no_progress beta_reduce) | (dsimp +zetaDelta only) | (with_reducible refine Kept.updMem ?_ (fun hm => ?_); rotate_left; · (first | with_reducible apply storeWord_wf | with_reducible apply Mem.store_wf | with_reducible apply Mem.zero_wf | with_reducible apply Mem.writeN_wf | with_reducible apply Mem.tagPages_wf | with_reducible apply Mem.ueSet_wf | with_reducible apply Mem.regionSet_wf | with_reducible apply Mem.tagsOff_wf | (with_reducible apply foldl_mem_wf; intro) | split) <;> (repeat' (first | with_reducible assumption | (intro) | with_reducible apply storeWord_wf | with_reducible apply Mem.store_wf | with_reducible apply Mem.zero_wf | with_reducible apply Mem.writeN_wf | with_reducible apply Mem.tagPages_wf | with_reducible apply Mem.ueSet_wf | with_reducible apply Mem.regionSet_wf | with_reducible apply Mem.tagsOff_wf | split | exact Kept.mem (by with_reducible assumption)))) | fail)

theorem Mem.putItem_wf (m : Mem) (k i : Nat) (hdr : BitVec 32) (pay : BitVec 256) (h : Memory.wf m = true) :
    Memory.wf (m.putItem k i hdr pay) = true :=
  Mem.store_wf _ _ _ (Mem.store_wf _ _ _ (Mem.store_wf _ _ _ h))

theorem State.appendItem_kept {q : List Instr} (s : State) (q' n writer : Nat) (hdr : BitVec 32) (pay : BitVec 256) (h : Kept q s) :
    Kept q (State.appendItem s q' n writer hdr pay).1 := by
  unfold State.appendItem
  extract_lets c last b rest got
  split
  · exact State.updCist_kept _ _ _ h
  · split
    · exact State.updCist_kept _ _ _ h
    · clear_value got
      rcases got with _ | ⟨cells, c1⟩
      · exact State.updCist_kept _ _ _ h
      · dsimp -zeta only
        extract_lets k m0 m1 b1
        have hm : Memory.wf m1 = true := by
          refine Mem.putItem_wf _ _ _ _ _ ?_
          show Memory.wf (if _ then _ else _) = true
          split
          · split
            · exact Mem.store_wf _ _ _ (Mem.store_wf _ _ _ h.2)
            · exact Mem.store_wf _ _ _ h.2
          · exact h.2
        split
        · exact Kept.updMem h (fun _ => hm)
        · split
          · dsimp only
            have h2 : ∀ f, Kept q (State.updCist { s with mem := m1, cist := SMap.set Cistern.reset s.cist q' { c1 with building := rest } } q' f) :=
              fun f => State.updCist_kept _ _ _ (Kept.updMem h (fun _ => hm))
            split
            · exact State.countForced_kept _ _ _ _ (h2 _)
            · exact h2 _
          · exact State.linkPkt_kept _ _ _ _ _ (Kept.updMem h (fun _ => Mem.store_wf _ _ _ hm))

theorem State.linkWhole_kept {q : List Instr} (s : State) (q' n writer : Nat) (items : List (BitVec 32 × BitVec 256)) (h : Kept q s) :
    ∀ y, State.linkWhole s q' n writer items = some y → Kept q y := by
  intro y hy
  unfold State.linkWhole at hy
  split at hy
  · cases hy
  · cases hy
    exact foldl_kept (fun t x ht => State.appendItem_kept _ _ _ _ _ _ ht) h

theorem State.takeItem_kept {q : List Instr} (s : State) (q' : Nat) (n : Nat) (h : Kept q s) : Kept q (State.takeItem s q' n) := by
  unfold State.takeItem
  repeat' (first | with_reducible assumption | with_reducible apply State.countForced_kept | with_reducible apply State.updCist_kept | fail_if_no_progress (with_reducible apply Kept.upd) | with_reducible apply foldl_kept | (intro) | split | (fail_if_no_progress extract_lets) | (fail_if_no_progress beta_reduce) | (dsimp +zetaDelta only) | fail)

theorem State.popPacket_kept {q : List Instr} (s : State) (q' n f : Nat) (h : Kept q s) : Kept q (State.popPacket s q' n f).1 := by
  induction f generalizing s with
  | zero => exact h
  | succ f ih =>
    unfold State.popPacket
    split
    · exact h
    · extract_lets s1
      split
      · exact State.takeItem_kept _ _ _ h
      · exact ih _ (State.takeItem_kept _ _ _ h)

theorem State.flushPlot_kept {q : List Instr} (s : State) (b : Nat) (p : Plot) (h : Kept q s) : Kept q (State.flushPlot s b p) := by
  unfold State.flushPlot
  repeat' (first | with_reducible assumption | with_reducible apply State.updCist_kept | with_reducible apply State.updPlotRegs_kept | fail_if_no_progress (with_reducible apply Kept.upd) | with_reducible apply foldl_kept | (intro) | split | (fail_if_no_progress extract_lets) | (fail_if_no_progress beta_reduce) | (dsimp +zetaDelta only) | fail)

theorem State.unpark_kept {q : List Instr} (s : State) (p : Plot) (h : Kept q s) : Kept q (State.unpark s p) := by
  unfold State.unpark
  repeat' (first | with_reducible assumption | with_reducible apply State.updCist_kept | fail_if_no_progress (with_reducible apply Kept.upd) | with_reducible apply foldl_kept | (intro) | split | (fail_if_no_progress extract_lets) | (fail_if_no_progress beta_reduce) | (dsimp +zetaDelta only) | fail)

theorem State.initQueues_kept {q : List Instr} (s : State) (b : Nat) (p : Plot) (h : Kept q s) : Kept q (State.initQueues s b p) := by
  unfold State.initQueues
  repeat' (first | with_reducible assumption | with_reducible apply State.updCist_kept | fail_if_no_progress (with_reducible apply Kept.upd) | with_reducible apply foldl_kept | (intro) | split | (fail_if_no_progress extract_lets) | (fail_if_no_progress beta_reduce) | (dsimp +zetaDelta only) | fail)

theorem State.atGate_kept {q : List Instr} (s : State) (key : Nat) (flip : BitVec 304) (mine : Nat → Bool) (act : State → Nat → Plot → Token → Nat → Nat → State) (h : Kept q s) (hfact : ∀ x0 x1 x2 x3 x4 x5, Kept q x0 → Kept q (act x0 x1 x2 x3 x4 x5)) : Kept q (State.atGate s key flip mine act) := by
  unfold State.atGate
  repeat' (first | with_reducible assumption | with_reducible apply State.discardAt_kept | with_reducible apply hfact | fail_if_no_progress (with_reducible apply Kept.upd) | with_reducible apply foldl_kept | (intro) | split | (fail_if_no_progress extract_lets) | (fail_if_no_progress beta_reduce) | (dsimp +zetaDelta only) | fail)

theorem execGateAppend_kept {q : List Instr} (tile : Fin 4096) (port : Fin 4) (flip : BitVec 304) (s : State) (h : Kept q s) :
    ∀ y, execGateAppend tile port flip s = .next y → Kept q y := by
  intro y hy
  cases hy
  refine State.atGate_kept _ _ _ _ _ h ?_
  intro s b l tok u n hs
  dsimp only
  split
  · have ha := State.appendItem_kept s u n (gateWriter (4 * tile.val + port.val)) tok.header tok.payload hs
    split
    · rename_i hx
      rw [hx] at ha
      exact ha
    · rename_i hx
      rw [hx] at ha
      exact State.cistFault_kept _ _ _ _ _ _ ha
  · exact State.cistFault_kept _ _ _ _ _ _ hs

theorem execGateSetMode_kept {q : List Instr} (tile : Fin 4096) (port : Fin 4) (flip : BitVec 304) (s : State) (h : Kept q s) : ∀ y, execGateSetMode tile port flip s = .next y → Kept q y := by
  intro y hy
  unfold execGateSetMode at hy
  cases hy
  repeat' (first | with_reducible assumption | with_reducible apply State.atGate_kept | with_reducible apply State.cistFault_kept | with_reducible apply State.updCist_kept | fail_if_no_progress (with_reducible apply Kept.upd) | with_reducible apply foldl_kept | (intro) | split | (fail_if_no_progress extract_lets) | (fail_if_no_progress beta_reduce) | (dsimp +zetaDelta only) | fail)

theorem execGateFlush_kept {q : List Instr} (tile : Fin 4096) (port : Fin 4) (flip : BitVec 304) (s : State) (h : Kept q s) : ∀ y, execGateFlush tile port flip s = .next y → Kept q y := by
  intro y hy
  unfold execGateFlush at hy
  cases hy
  repeat' (first | with_reducible assumption | with_reducible apply State.atGate_kept | with_reducible apply State.updCist_kept | fail_if_no_progress (with_reducible apply Kept.upd) | with_reducible apply foldl_kept | (intro) | split | (fail_if_no_progress extract_lets) | (fail_if_no_progress beta_reduce) | (dsimp +zetaDelta only) | fail)

theorem State.updLe_kept {q : List Instr} (s : State) (e : Nat) (f : Lateral → Lateral) (h : Kept q s) : Kept q (State.updLe s e f) := by
  unfold State.updLe
  repeat' (first | with_reducible assumption | fail_if_no_progress (with_reducible apply Kept.upd) | with_reducible apply foldl_kept | (intro) | split | (fail_if_no_progress extract_lets) | (fail_if_no_progress beta_reduce) | (dsimp +zetaDelta only) | fail)

theorem execGateSetCap_kept {q : List Instr} (tile : Fin 4096) (port : Fin 4) (flip : BitVec 304) (s : State) (h : Kept q s) : ∀ y, execGateSetCap tile port flip s = .next y → Kept q y := by
  intro y hy
  unfold execGateSetCap at hy
  cases hy
  repeat' (first | with_reducible assumption | with_reducible apply State.atGate_kept | with_reducible apply State.updLe_kept | fail_if_no_progress (with_reducible apply Kept.upd) | with_reducible apply foldl_kept | (intro) | split | (fail_if_no_progress extract_lets) | (fail_if_no_progress beta_reduce) | (dsimp +zetaDelta only) | fail)

theorem State.gateSend_kept {q : List Instr} (s : State) (key : Nat) (hdr : BitVec 32) (pay : BitVec 256) (h : Kept q s) : Kept q (State.gateSend s key hdr pay) := by
  unfold State.gateSend
  repeat' (first | with_reducible assumption | fail_if_no_progress (with_reducible apply Kept.upd) | with_reducible apply foldl_kept | (intro) | split | (fail_if_no_progress extract_lets) | (fail_if_no_progress beta_reduce) | (dsimp +zetaDelta only) | fail)

theorem State.idleItem_kept {q : List Instr} (s : State) (q' : Nat) (h : Kept q s) : Kept q (State.idleItem s q') := by
  unfold State.idleItem
  repeat' (first | with_reducible assumption | with_reducible apply State.updCist_kept | fail_if_no_progress (with_reducible apply Kept.upd) | with_reducible apply foldl_kept | (intro) | split | (fail_if_no_progress extract_lets) | (fail_if_no_progress beta_reduce) | (dsimp +zetaDelta only) | fail)

theorem execGateInject_kept {q : List Instr} (tile : Fin 4096) (port : Fin 4) (turn : Fin 256) (s : State) (h : Kept q s) : ∀ y, execGateInject tile port turn s = .next y → Kept q y := by
  intro y hy
  unfold execGateInject at hy
  cases hy
  repeat' (first | with_reducible assumption | with_reducible apply State.cistFault_kept | with_reducible apply State.countTier_kept | with_reducible apply State.gateSend_kept | with_reducible apply State.idleItem_kept | with_reducible apply State.takeItem_kept | fail_if_no_progress (with_reducible apply Kept.upd) | with_reducible apply foldl_kept | (intro) | split | (fail_if_no_progress extract_lets) | (fail_if_no_progress beta_reduce) | (dsimp +zetaDelta only) | fail)

end Sys2Proof.Machine
end

