-- ==== Sys2Proof/Laws/KeptLateral.lean ====
section
/-! SUPPORT. Every operation of Machine/Lateral.lean leaves the queue alone and keeps the memories in canonical form. -/

set_option linter.unusedTactic false
set_option linter.unreachableTactic false
set_option linter.unusedVariables false
set_option linter.unnecessarySeqFocus false

namespace Sys2Proof.Machine

theorem State.leErr_kept {q : List Instr} (s : State) (e : Nat) (cause : Nat) (table : Nat) (queue : Nat) (rtag : Nat) (parcel : Nat) (h : Kept q s) : Kept q (State.leErr s e cause table queue rtag parcel) := by
  unfold State.leErr
  repeat' (first | with_reducible assumption | with_reducible apply State.post_kept | with_reducible apply Work.raise_kept | with_reducible apply State.signal_kept | with_reducible apply State.updLe_kept | fail_if_no_progress (with_reducible apply Kept.upd) | with_reducible apply foldl_kept | (intro) | split | (fail_if_no_progress extract_lets) | (fail_if_no_progress beta_reduce) | (dsimp +zetaDelta only) | fail)

theorem State.leFault_kept {q : List Instr} (s : State) (e : Nat) (cause : Nat) (table : Nat) (queue : Nat) (rtag : Nat) (leads : List Nat) (h : Kept q s) : Kept q (State.leFault s e cause table queue rtag leads) := by
  unfold State.leFault
  repeat' (first | with_reducible assumption | with_reducible apply State.force_kept | with_reducible apply State.leErr_kept | fail_if_no_progress (with_reducible apply Kept.upd) | with_reducible apply foldl_kept | (intro) | split | (fail_if_no_progress extract_lets) | (fail_if_no_progress beta_reduce) | (dsimp +zetaDelta only) | fail)

theorem State.latTurn_kept {q : List Instr} (s : State) (e : Nat) (t : Nat) (q' : Nat) (n : Nat) (h : Kept q s) : Kept q (State.latTurn s e t q' n) := by
  unfold State.latTurn
  repeat' (first | with_reducible assumption | with_reducible apply State.updLe_kept | fail_if_no_progress (with_reducible apply Kept.upd) | with_reducible apply foldl_kept | (intro) | split | (fail_if_no_progress extract_lets) | (fail_if_no_progress beta_reduce) | (dsimp +zetaDelta only) | fail)

theorem State.latIdle_kept {q : List Instr} (s : State) (e : Nat) (h : Kept q s) : Kept q (State.latIdle s e) := by
  unfold State.latIdle
  repeat' (first | with_reducible assumption | with_reducible apply State.idleItem_kept | with_reducible apply State.latTurn_kept | fail_if_no_progress (with_reducible apply Kept.upd) | with_reducible apply foldl_kept | (intro) | split | (fail_if_no_progress extract_lets) | (fail_if_no_progress beta_reduce) | (dsimp +zetaDelta only) | fail)

theorem State.latTake_kept {q : List Instr} (s : State) (e : Nat) (mine : Nat → Bool) (act : State → Nat → Nat → Nat → List Bytes → State) (h : Kept q s) (hfact : ∀ x0 x1 x2 x3 x4, Kept q x0 → Kept q (act x0 x1 x2 x3 x4)) : Kept q (State.latTake s e mine act) := by
  unfold State.latTake
  repeat' (first | with_reducible assumption | with_reducible apply State.cistFault_kept | with_reducible apply State.countTier_kept | with_reducible apply State.latIdle_kept | with_reducible apply State.latTurn_kept | with_reducible apply State.popPacket_kept | with_reducible apply hfact | fail_if_no_progress (with_reducible apply Kept.upd) | with_reducible apply foldl_kept | (intro) | split | (fail_if_no_progress extract_lets) | (fail_if_no_progress beta_reduce) | (dsimp +zetaDelta only) | fail)

theorem State.latLink_kept {q : List Instr} (s : State) (e q' n : Nat) (items : List Bytes) (h : Kept q s) :
    ∀ y, State.latLink s e q' n items = some y → Kept q y := by
  intro y hy
  unfold State.latLink at hy
  split at hy
  · cases hy
  · rename_i s1 h1
    cases hy
    exact State.updLe_kept _ _ _ (State.tick_kept _ _ (State.linkWhole_kept _ _ _ _ _ h _ h1))

theorem State.latRemote_kept {q : List Instr} (s : State) (e : Nat) (mod : Nat) (q' : Nat) (n : Nat) (lead : Nat) (items : List Bytes) (h : Kept q s) : Kept q (State.latRemote s e mod q' n lead items) := by
  unfold State.latRemote
  repeat' (first | with_reducible assumption | with_reducible apply State.fabSendRes_kept | with_reducible apply State.updLe_kept | fail_if_no_progress (with_reducible apply Kept.upd) | with_reducible apply foldl_kept | (intro) | split | (fail_if_no_progress extract_lets) | (fail_if_no_progress beta_reduce) | (dsimp +zetaDelta only) | fail)

theorem State.latReturn_kept {q : List Instr} (s : State) (e : Nat) (t : Nat) (half : Nat) (rtag : Nat) (srcQueue : Nat) (lead : Nat) (items : List Bytes) (h : Kept q s) : Kept q (State.latReturn s e t half rtag srcQueue lead items) := by
  unfold State.latReturn
  repeat' (first | with_reducible assumption | with_reducible apply State.leFault_kept | with_reducible refine State.latLink_kept _ _ _ _ _ ?_ _ (by with_reducible assumption) | fail_if_no_progress (with_reducible apply Kept.upd) | with_reducible apply foldl_kept | (intro) | split | (fail_if_no_progress extract_lets) | (fail_if_no_progress beta_reduce) | (dsimp +zetaDelta only) | fail)

theorem State.latCopy_kept {q : List Instr} (s : State) (e : Nat) (t : Nat) (queue : Nat) (lead : Nat) (hd : Bytes) (payload : List Bytes) (weight : Nat → Nat) (orig : Nat → Nat) (c : CopyTo) (h : Kept q s) : Kept q (State.latCopy s e t queue lead hd payload weight orig c) := by
  unfold State.latCopy
  repeat' (first | with_reducible assumption | with_reducible apply State.latRemote_kept | with_reducible apply State.latReturn_kept | with_reducible apply State.leFault_kept | with_reducible apply State.updLe_kept | with_reducible refine State.latLink_kept _ _ _ _ _ ?_ _ (by with_reducible assumption) | fail_if_no_progress (with_reducible apply Kept.upd) | with_reducible apply foldl_kept | (intro) | split | (fail_if_no_progress extract_lets) | (fail_if_no_progress beta_reduce) | (dsimp +zetaDelta only) | fail)

theorem State.latCopies_kept {q : List Instr} (s : State) (e t queue lead : Nat) (items : List Bytes) (l : List CopyTo) (h : Kept q s) : Kept q (State.latCopies s e t queue lead items l) := by
  unfold State.latCopies
  repeat' (first | with_reducible assumption | with_reducible apply State.latCopy_kept | fail_if_no_progress (with_reducible apply Kept.upd) | with_reducible apply foldl_kept | (intro) | split | (fail_if_no_progress extract_lets) | (fail_if_no_progress beta_reduce) | (dsimp +zetaDelta only) | fail)

theorem State.latRoute_kept {q : List Instr} (s : State) (e t queue : Nat) (items : List Bytes) (h : Kept q s) : Kept q (State.latRoute s e t queue items) := by
  unfold State.latRoute
  repeat' (first | with_reducible assumption | with_reducible apply State.latCopies_kept | with_reducible apply State.leFault_kept | with_reducible apply State.updLe_kept | fail_if_no_progress (with_reducible apply Kept.upd) | with_reducible apply foldl_kept | (intro) | split | (fail_if_no_progress extract_lets) | (fail_if_no_progress beta_reduce) | (dsimp +zetaDelta only) | fail)

theorem execRoutePacket_kept {q : List Instr} (le : Fin 4) (s : State) (h : Kept q s) : ∀ y, execRoutePacket le s = .next y → Kept q y := by
  intro y hy
  unfold execRoutePacket at hy
  cases hy
  repeat' (first | with_reducible assumption | with_reducible apply State.latRoute_kept | with_reducible apply State.latTake_kept | fail_if_no_progress (with_reducible apply Kept.upd) | with_reducible apply foldl_kept | (intro) | split | (fail_if_no_progress extract_lets) | (fail_if_no_progress beta_reduce) | (dsimp +zetaDelta only) | fail)

theorem State.latArrive_kept {q : List Instr} (s : State) (e : Nat) (queue : Nat) (lead : Nat) (items : List Bytes) (h : Kept q s) : Kept q (State.latArrive s e queue lead items) := by
  unfold State.latArrive
  repeat' (first | with_reducible assumption | with_reducible apply State.latReturn_kept | with_reducible apply State.leErr_kept | with_reducible apply State.updLe_kept | fail_if_no_progress (with_reducible apply Kept.upd) | with_reducible apply foldl_kept | (intro) | split | (fail_if_no_progress extract_lets) | (fail_if_no_progress beta_reduce) | (dsimp +zetaDelta only) | fail)

theorem execReturnPacket_kept {q : List Instr} (le : Fin 4) (s : State) (h : Kept q s) : ∀ y, execReturnPacket le s = .next y → Kept q y := by
  intro y hy
  unfold execReturnPacket at hy
  cases hy
  repeat' (first | with_reducible assumption | with_reducible apply State.latArrive_kept | with_reducible apply State.latRemote_kept | with_reducible apply State.latTake_kept | fail_if_no_progress (with_reducible apply Kept.upd) | with_reducible apply foldl_kept | (intro) | split | (fail_if_no_progress extract_lets) | (fail_if_no_progress beta_reduce) | (dsimp +zetaDelta only) | fail)

theorem execRtCommit_kept {q : List Instr} (le : Fin 4) (table : Fin 16) (s : State) (h : Kept q s) : ∀ y, execRtCommit le table s = .next y → Kept q y := by
  intro y hy
  unfold execRtCommit at hy
  cases hy
  repeat' (first | with_reducible assumption | with_reducible apply State.updLe_kept | fail_if_no_progress (with_reducible apply Kept.upd) | with_reducible apply foldl_kept | (intro) | split | (fail_if_no_progress extract_lets) | (fail_if_no_progress beta_reduce) | (dsimp +zetaDelta only) | fail)

theorem State.latStepStart_kept {q : List Instr} (s : State) (b : Nat) (step : Nat) (h : Kept q s) : Kept q (State.latStepStart s b step) := by
  unfold State.latStepStart
  repeat' (first | with_reducible assumption | with_reducible apply State.updLe_kept | fail_if_no_progress (with_reducible apply Kept.upd) | with_reducible apply foldl_kept | (intro) | split | (fail_if_no_progress extract_lets) | (fail_if_no_progress beta_reduce) | (dsimp +zetaDelta only) | fail)

theorem State.latStepEnd_kept {q : List Instr} (s : State) (b : Nat) (aborted : Bool) (h : Kept q s) : Kept q (State.latStepEnd s b aborted) := by
  unfold State.latStepEnd
  repeat' (first | with_reducible assumption | with_reducible apply State.updLe_kept | fail_if_no_progress (with_reducible apply Kept.upd) | with_reducible apply foldl_kept | (intro) | split | (fail_if_no_progress extract_lets) | (fail_if_no_progress beta_reduce) | (dsimp +zetaDelta only) | fail)

theorem State.clearCaps_kept {q : List Instr} (s : State) (b : Nat) (h : Kept q s) : Kept q (State.clearCaps s b) := by
  unfold State.clearCaps
  repeat' (first | with_reducible assumption | with_reducible apply State.updLe_kept | fail_if_no_progress (with_reducible apply Kept.upd) | with_reducible apply foldl_kept | (intro) | split | (fail_if_no_progress extract_lets) | (fail_if_no_progress beta_reduce) | (dsimp +zetaDelta only) | fail)

end Sys2Proof.Machine
end

