-- ==== Sys2Proof/Laws/KeptGather.lean ====
section
/-! SUPPORT. Every operation of Machine/Gather.lean leaves the queue alone and keeps the memories in canonical form. -/

set_option linter.unusedTactic false
set_option linter.unreachableTactic false
set_option linter.unusedVariables false
set_option linter.unnecessarySeqFocus false

namespace Sys2Proof.Machine

theorem State.updTableEnt_kept {q : List Instr} (s : State) (t : Nat) (f : TableEnt → TableEnt) (h : Kept q s) : Kept q (State.updTableEnt s t f) := by
  unfold State.updTableEnt
  repeat' (first | with_reducible assumption | fail_if_no_progress (with_reducible apply Kept.upd) | with_reducible apply foldl_kept | (intro) | split | (fail_if_no_progress extract_lets) | (fail_if_no_progress beta_reduce) | (dsimp +zetaDelta only) | fail)

theorem State.updGe_kept {q : List Instr} (s : State) (g : Nat) (f : GatherEng → GatherEng) (h : Kept q s) : Kept q (State.updGe s g f) := by
  unfold State.updGe
  repeat' (first | with_reducible assumption | fail_if_no_progress (with_reducible apply Kept.upd) | with_reducible apply foldl_kept | (intro) | split | (fail_if_no_progress extract_lets) | (fail_if_no_progress beta_reduce) | (dsimp +zetaDelta only) | fail)

theorem State.finishGathers_kept {q : List Instr} (s : State) (e : Nat) (h : Kept q s) : Kept q (State.finishGathers s e) := by
  unfold State.finishGathers
  repeat' (first | with_reducible assumption | with_reducible apply State.engineSignal_kept | with_reducible apply State.put_kept | with_reducible apply State.updLe_kept | with_reducible apply State.updTableEnt_kept | with_reducible apply State.updTile_kept | fail_if_no_progress (with_reducible apply Kept.upd) | with_reducible apply foldl_kept | (intro) | split | (fail_if_no_progress extract_lets) | (fail_if_no_progress beta_reduce) | (dsimp +zetaDelta only) | fail)

theorem State.startGather_kept {q : List Instr} (s : State) (e t : Nat) (p : Plot) (items : List Bytes) (h : Kept q s) : Kept q (State.startGather s e t p items) := by
  unfold State.startGather
  repeat' (first | with_reducible assumption | with_reducible apply State.updLe_kept | with_reducible apply State.updTableEnt_kept | fail_if_no_progress (with_reducible apply Kept.upd) | with_reducible apply foldl_kept | (intro) | split | (fail_if_no_progress extract_lets) | (fail_if_no_progress beta_reduce) | (dsimp +zetaDelta only) | fail)

theorem State.latGather_kept {q : List Instr} (s : State) (e t n : Nat) (items : List Bytes) (h : Kept q s) : Kept q (State.latGather s e t n items) := by
  unfold State.latGather
  repeat' (first | with_reducible assumption | with_reducible apply State.finishGathers_kept | with_reducible apply State.startGather_kept | with_reducible apply State.leFault_kept | fail_if_no_progress (with_reducible apply Kept.upd) | with_reducible apply foldl_kept | (intro) | split | (fail_if_no_progress extract_lets) | (fail_if_no_progress beta_reduce) | (dsimp +zetaDelta only) | fail)

theorem execGatherPacket_kept {q : List Instr} (le : Fin 4) (s : State) (h : Kept q s) : ∀ y, execGatherPacket le s = .next y → Kept q y := by
  intro y hy
  unfold execGatherPacket at hy
  cases hy
  repeat' (first | with_reducible assumption | with_reducible apply State.latGather_kept | with_reducible apply State.latTake_kept | fail_if_no_progress (with_reducible apply Kept.upd) | with_reducible apply foldl_kept | (intro) | split | (fail_if_no_progress extract_lets) | (fail_if_no_progress beta_reduce) | (dsimp +zetaDelta only) | fail)

theorem State.sendPart_kept {q : List Instr} (s : State) (e : Nat) (srcMod : Nat) (srcLe : Nat) (p : GPart) (h : Kept q s) : Kept q (State.sendPart s e srcMod srcLe p) := by
  unfold State.sendPart
  repeat' (first | with_reducible assumption | with_reducible apply State.updLe_kept | fail_if_no_progress (with_reducible apply Kept.upd) | with_reducible apply foldl_kept | (intro) | split | (fail_if_no_progress extract_lets) | (fail_if_no_progress beta_reduce) | (dsimp +zetaDelta only) | fail)

theorem State.flushOwned_kept {q : List Instr} (s : State) (e : Nat) (srcMod : Nat) (gid : Nat) (h : Kept q s) : Kept q (State.flushOwned s e srcMod gid) := by
  unfold State.flushOwned
  repeat' (first | with_reducible assumption | with_reducible apply State.sendPart_kept | with_reducible apply State.updLe_kept | fail_if_no_progress (with_reducible apply Kept.upd) | with_reducible apply foldl_kept | (intro) | split | (fail_if_no_progress extract_lets) | (fail_if_no_progress beta_reduce) | (dsimp +zetaDelta only) | fail)

theorem State.geErr_kept {q : List Instr} (s : State) (g : Nat) (cause : Nat) (a : Nat) (parcel : Nat) (h : Kept q s) : Kept q (State.geErr s g cause a parcel) := by
  unfold State.geErr
  repeat' (first | with_reducible assumption | with_reducible apply State.post_kept | with_reducible apply Work.raise_kept | with_reducible apply State.signal_kept | with_reducible apply State.updGe_kept | fail_if_no_progress (with_reducible apply Kept.upd) | with_reducible apply foldl_kept | (intro) | split | (fail_if_no_progress extract_lets) | (fail_if_no_progress beta_reduce) | (dsimp +zetaDelta only) | fail)

theorem State.takeSub_kept {q : List Instr} (s : State) (e : Nat) (g : GSub) (h : Kept q s) : Kept q (State.takeSub s e g) := by
  unfold State.takeSub
  repeat' (first | with_reducible assumption | with_reducible apply State.flushOwned_kept | with_reducible apply State.geErr_kept | with_reducible apply State.leFault_kept | with_reducible apply State.sendPart_kept | with_reducible apply State.updGe_kept | with_reducible apply State.updLe_kept | fail_if_no_progress (with_reducible apply Kept.upd) | with_reducible apply foldl_kept | (intro) | split | (fail_if_no_progress extract_lets) | (fail_if_no_progress beta_reduce) | (dsimp +zetaDelta only) | fail)

theorem execGatherSubpacket_kept {q : List Instr} (le : Fin 4) (remote : Option GSub) (s : State) (h : Kept q s) : ∀ y, execGatherSubpacket le remote s = .next y → Kept q y := by
  intro y hy
  unfold execGatherSubpacket at hy
  cases hy
  repeat' (first | with_reducible assumption | with_reducible apply State.takeSub_kept | with_reducible apply State.updLe_kept | fail_if_no_progress (with_reducible apply Kept.upd) | with_reducible apply foldl_kept | (intro) | split | (fail_if_no_progress extract_lets) | (fail_if_no_progress beta_reduce) | (dsimp +zetaDelta only) | fail)

theorem State.closeBag_kept {q : List Instr} (s : State) (x : GRow) (b : Bag) (h : Kept q s) : Kept q (State.closeBag s x b) := by
  unfold State.closeBag
  repeat' (first | with_reducible assumption | with_reducible apply State.flushOwned_kept | with_reducible apply State.updLe_kept | fail_if_no_progress (with_reducible apply Kept.upd) | with_reducible apply foldl_kept | (intro) | split | (fail_if_no_progress extract_lets) | (fail_if_no_progress beta_reduce) | (dsimp +zetaDelta only) | fail)

theorem State.takePart_kept {q : List Instr} (s : State) (e : Nat) (p : GPart) (h : Kept q s) : Kept q (State.takePart s e p) := by
  unfold State.takePart
  repeat' (first | with_reducible assumption | with_reducible apply State.leFault_kept | with_reducible apply State.put_kept | with_reducible apply State.tierError_kept | with_reducible apply State.updLe_kept | fail_if_no_progress (with_reducible apply Kept.upd) | with_reducible apply foldl_kept | (intro) | split | (fail_if_no_progress extract_lets) | (fail_if_no_progress beta_reduce) | (dsimp +zetaDelta only) | fail)

theorem execGatherPartial_kept {q : List Instr} (le : Fin 4) (remote : Option GPart) (s : State) (h : Kept q s) : ∀ y, execGatherPartial le remote s = .next y → Kept q y := by
  intro y hy
  unfold execGatherPartial at hy
  cases hy
  repeat' (first | with_reducible assumption | with_reducible apply State.finishGathers_kept | with_reducible apply State.takePart_kept | with_reducible apply State.updLe_kept | fail_if_no_progress (with_reducible apply Kept.upd) | with_reducible apply foldl_kept | (intro) | split | (fail_if_no_progress extract_lets) | (fail_if_no_progress beta_reduce) | (dsimp +zetaDelta only) | fail)

theorem execGeCtrlEnable_kept {q : List Instr} (ge : Fin 96) (on : Bool) (s : State) (h : Kept q s) : ∀ y, execGeCtrlEnable ge on s = .next y → Kept q y := by
  intro y hy
  unfold execGeCtrlEnable at hy
  cases hy
  repeat' (first | with_reducible assumption | with_reducible apply State.updGe_kept | fail_if_no_progress (with_reducible apply Kept.upd) | with_reducible apply foldl_kept | (intro) | split | (fail_if_no_progress extract_lets) | (fail_if_no_progress beta_reduce) | (dsimp +zetaDelta only) | fail)

theorem State.cancelGathers_kept {q : List Instr} (s : State) (b : Nat) (h : Kept q s) : Kept q (State.cancelGathers s b) := by
  unfold State.cancelGathers
  repeat' (first | with_reducible assumption | with_reducible apply State.updLe_kept | fail_if_no_progress (with_reducible apply Kept.upd) | with_reducible apply foldl_kept | (intro) | split | (fail_if_no_progress extract_lets) | (fail_if_no_progress beta_reduce) | (dsimp +zetaDelta only) | fail)

end Sys2Proof.Machine
end

