-- ==== Sys2Proof/Laws/KeptSpace.lean ====
section
/-! SUPPORT. Every operation of Machine/Space.lean leaves the queue alone and keeps the memories in canonical form. -/

set_option linter.unusedTactic false
set_option linter.unreachableTactic false
set_option linter.unusedVariables false
set_option linter.unnecessarySeqFocus false

namespace Sys2Proof.Machine

theorem State.at'_kept {q : List Instr} (s : State) (t : Nat) (h : Kept q s) : Kept q (State.at' s t) := by
  unfold State.at'
  repeat' (first | with_reducible assumption | fail_if_no_progress (with_reducible apply Kept.upd) | with_reducible apply foldl_kept | (intro) | split | (fail_if_no_progress extract_lets) | (fail_if_no_progress beta_reduce) | (dsimp +zetaDelta only) | fail)

theorem State.complete_kept {q : List Instr} (s : State) (w : Waiter) (status : Nat) (body : Bytes) (h : Kept q s) : Kept q (State.complete s w status body) := by
  unfold State.complete
  repeat' (first | with_reducible assumption | with_reducible apply State.event_kept | fail_if_no_progress (with_reducible apply Kept.upd) | with_reducible apply foldl_kept | (intro) | split | (fail_if_no_progress extract_lets) | (fail_if_no_progress beta_reduce) | (dsimp +zetaDelta only) | fail)

theorem State.updParcel_kept {q : List Instr} (s : State) (p : Nat) (f : Parcel → Parcel) (h : Kept q s) : Kept q (State.updParcel s p f) := by
  unfold State.updParcel
  repeat' (first | with_reducible assumption | fail_if_no_progress (with_reducible apply Kept.upd) | with_reducible apply foldl_kept | (intro) | split | (fail_if_no_progress extract_lets) | (fail_if_no_progress beta_reduce) | (dsimp +zetaDelta only) | fail)

theorem State.updEntry_kept {q : List Instr} (s : State) (i : Nat) (f : Model → Model) (h : Kept q s) : Kept q (State.updEntry s i f) := by
  unfold State.updEntry
  repeat' (first | with_reducible assumption | fail_if_no_progress (with_reducible apply Kept.upd) | with_reducible apply foldl_kept | (intro) | split | (fail_if_no_progress extract_lets) | (fail_if_no_progress beta_reduce) | (dsimp +zetaDelta only) | fail)

theorem State.updModel_kept {q : List Instr} (s : State) (id : Nat) (f : Model → Model) (h : Kept q s) : Kept q (State.updModel s id f) := by
  unfold State.updModel
  repeat' (first | with_reducible assumption | with_reducible apply State.updEntry_kept | fail_if_no_progress (with_reducible apply Kept.upd) | with_reducible apply foldl_kept | (intro) | split | (fail_if_no_progress extract_lets) | (fail_if_no_progress beta_reduce) | (dsimp +zetaDelta only) | fail)

theorem State.updAdapter_kept {q : List Instr} (s : State) (i : Nat) (f : Adapter → Adapter) (h : Kept q s) : Kept q (State.updAdapter s i f) := by
  unfold State.updAdapter
  repeat' (first | with_reducible assumption | fail_if_no_progress (with_reducible apply Kept.upd) | with_reducible apply foldl_kept | (intro) | split | (fail_if_no_progress extract_lets) | (fail_if_no_progress beta_reduce) | (dsimp +zetaDelta only) | fail)

theorem State.setRegion_kept {q : List Instr} (s : State) (tier base len owner : Nat) (write shared : Bool) (h : Kept q s) :
    Kept q (State.setRegion s tier base len owner write shared) := Kept.updMem h (fun hm => Mem.region_wf _ _ _ _ hm)

theorem State.takeSpace_kept {q : List Instr} (s : State) (a : Alloc) (h : Kept q s) : Kept q (State.takeSpace s a) := by
  unfold State.takeSpace
  repeat' (first | with_reducible assumption | fail_if_no_progress (with_reducible apply Kept.upd) | with_reducible apply foldl_kept | (intro) | split | (fail_if_no_progress extract_lets) | (fail_if_no_progress beta_reduce) | (dsimp +zetaDelta only) | fail)

theorem State.zeroRange_kept {q : List Instr} (s : State) (k : Nat) (len : Nat) (h : Kept q s) : Kept q (State.zeroRange s k len) := by
  unfold State.zeroRange
  repeat' (first | with_reducible assumption | with_reducible apply State.pondWrite_kept | fail_if_no_progress (with_reducible apply Kept.upd) | with_reducible apply foldl_kept | (intro) | split | (fail_if_no_progress extract_lets) | (fail_if_no_progress beta_reduce) | (dsimp +zetaDelta only) | (with_reducible refine Kept.updMem ?_ (fun hm => ?_); rotate_left; · (first | with_reducible apply storeWord_wf | with_reducible apply Mem.store_wf | with_reducible apply Mem.zero_wf | with_reducible apply Mem.writeN_wf | with_reducible apply Mem.tagPages_wf | with_reducible apply Mem.ueSet_wf | with_reducible apply Mem.regionSet_wf | with_reducible apply Mem.tagsOff_wf | (with_reducible apply foldl_mem_wf; intro) | split) <;> (repeat' (first | with_reducible assumption | (intro) | with_reducible apply storeWord_wf | with_reducible apply Mem.store_wf | with_reducible apply Mem.zero_wf | with_reducible apply Mem.writeN_wf | with_reducible apply Mem.tagPages_wf | with_reducible apply Mem.ueSet_wf | with_reducible apply Mem.regionSet_wf | with_reducible apply Mem.tagsOff_wf | split | exact Kept.mem (by with_reducible assumption)))) | fail)

theorem State.startScrub_kept {q : List Instr} (s : State) (mine : Alloc → Bool) (blocks : List Nat) (ranges : List (Nat × Nat)) (what : Nat) (id : Nat) (h : Kept q s) : Kept q (State.startScrub s mine blocks ranges what id) := by
  unfold State.startScrub
  repeat' (first | with_reducible assumption | with_reducible apply State.setRegion_kept | fail_if_no_progress (with_reducible apply Kept.upd) | with_reducible apply foldl_kept | (intro) | split | (fail_if_no_progress extract_lets) | (fail_if_no_progress beta_reduce) | (dsimp +zetaDelta only) | fail)

theorem State.endScrub_kept {q : List Instr} (s : State) (n : Nat) (h : Kept q s) : Kept q (State.endScrub s n) := by
  unfold State.endScrub
  repeat' (first | with_reducible assumption | with_reducible apply State.zeroRange_kept | fail_if_no_progress (with_reducible apply Kept.upd) | with_reducible apply foldl_kept | (intro) | split | (fail_if_no_progress extract_lets) | (fail_if_no_progress beta_reduce) | (dsimp +zetaDelta only) | fail)

theorem State.fwWrite_kept {q : List Instr} (s : State) (k : Nat) (l : Bytes) (h : Kept q s) : Kept q (State.fwWrite s k l) := by
  unfold State.fwWrite
  repeat' (first | with_reducible assumption | with_reducible apply State.put_kept | fail_if_no_progress (with_reducible apply Kept.upd) | with_reducible apply foldl_kept | (intro) | split | (fail_if_no_progress extract_lets) | (fail_if_no_progress beta_reduce) | (dsimp +zetaDelta only) | fail)

end Sys2Proof.Machine
end

