-- ==== Sys2Proof/Laws/KeptLoads.lean ====
section
/-! SUPPORT. Every operation of Machine/Loads.lean leaves the queue alone and keeps the memories in canonical form. -/

set_option linter.unusedTactic false
set_option linter.unreachableTactic false
set_option linter.unusedVariables false
set_option linter.unnecessarySeqFocus false

namespace Sys2Proof.Machine

theorem State.updVersion_kept {q : List Instr} (s : State) (i : Nat) (n : Nat) (f : AVer → AVer) (h : Kept q s) : Kept q (State.updVersion s i n f) := by
  unfold State.updVersion
  repeat' (first | with_reducible assumption | with_reducible apply State.updAdapter_kept | fail_if_no_progress (with_reducible apply Kept.upd) | with_reducible apply foldl_kept | (intro) | split | (fail_if_no_progress extract_lets) | (fail_if_no_progress beta_reduce) | (dsimp +zetaDelta only) | fail)

theorem State.putLoad_kept {q : List Instr} (s : State) (r : LoadRef) (l : Load) (h : Kept q s) : Kept q (State.putLoad s r l) := by
  unfold State.putLoad
  repeat' (first | with_reducible assumption | with_reducible apply State.updEntry_kept | with_reducible apply State.updVersion_kept | fail_if_no_progress (with_reducible apply Kept.upd) | with_reducible apply foldl_kept | (intro) | split | (fail_if_no_progress extract_lets) | (fail_if_no_progress beta_reduce) | (dsimp +zetaDelta only) | fail)

theorem State.updLoad_kept {q : List Instr} (s : State) (r : LoadRef) (f : Load → Load) (h : Kept q s) : Kept q (State.updLoad s r f) := by
  unfold State.updLoad
  repeat' (first | with_reducible assumption | with_reducible apply Work.load_kept | with_reducible apply State.putLoad_kept | fail_if_no_progress (with_reducible apply Kept.upd) | with_reducible apply foldl_kept | (intro) | split | (fail_if_no_progress extract_lets) | (fail_if_no_progress beta_reduce) | (dsimp +zetaDelta only) | fail)

theorem State.replaceCopy_kept {q : List Instr} (s : State) (r : LoadRef) (k : Nat) (fetched : Option Bytes) (h : Kept q s) :
    ∀ y, State.replaceCopy s r k fetched = some y → Kept q y := by
  intro y hy
  unfold State.replaceCopy at hy
  simp only [Option.bind_eq_some_iff, Option.map_eq_some_iff] at hy
  obtain ⟨_, _, _, _, rfl⟩ := hy
  exact foldl_kept (fun _ _ ht => State.fwWrite_kept _ _ _ ht) h

theorem State.holdModel_kept {q : List Instr} (s : State) (i : Nat) (h : Kept q s) : Kept q (State.holdModel s i) := by
  unfold State.holdModel
  repeat' (first | with_reducible assumption | with_reducible apply State.setRegion_kept | fail_if_no_progress (with_reducible apply Kept.upd) | with_reducible apply foldl_kept | (intro) | split | (fail_if_no_progress extract_lets) | (fail_if_no_progress beta_reduce) | (dsimp +zetaDelta only) | fail)

theorem State.startShards_kept {q : List Instr} (s : State) (r : LoadRef) (h : Kept q s) : Kept q (State.startShards s r) := by
  unfold State.startShards
  repeat' (first | with_reducible assumption | with_reducible apply Work.load_kept | with_reducible apply State.putLoad_kept | fail_if_no_progress (with_reducible apply Kept.upd) | with_reducible apply foldl_kept | (intro) | split | (fail_if_no_progress extract_lets) | (fail_if_no_progress beta_reduce) | (dsimp +zetaDelta only) | fail)

theorem State.startLoads_kept {q : List Instr} (s : State) (h : Kept q s) : Kept q (State.startLoads s) := by
  unfold State.startLoads
  repeat' (first | with_reducible assumption | with_reducible apply State.startShards_kept | fail_if_no_progress (with_reducible apply Kept.upd) | with_reducible apply foldl_kept | (intro) | split | (fail_if_no_progress extract_lets) | (fail_if_no_progress beta_reduce) | (dsimp +zetaDelta only) | fail)

theorem State.endFetch_kept {q : List Instr} (s : State) (r : LoadRef) (status : Nat) (h : Kept q s) : Kept q (State.endFetch s r status) := by
  unfold State.endFetch
  repeat' (first | with_reducible assumption | with_reducible apply State.complete_kept | with_reducible apply Work.load_kept | with_reducible apply State.putLoad_kept | fail_if_no_progress (with_reducible apply Kept.upd) | with_reducible apply foldl_kept | (intro) | split | (fail_if_no_progress extract_lets) | (fail_if_no_progress beta_reduce) | (dsimp +zetaDelta only) | fail)

theorem State.sendNotice_kept {q : List Instr} (s : State) (l : Load) (members : List Nat) (h : Kept q s) : Kept q (State.sendNotice s l members) := by
  unfold State.sendNotice
  repeat' (first | with_reducible assumption | with_reducible apply State.mgmtSend_kept | fail_if_no_progress (with_reducible apply Kept.upd) | with_reducible apply foldl_kept | (intro) | split | (fail_if_no_progress extract_lets) | (fail_if_no_progress beta_reduce) | (dsimp +zetaDelta only) | fail)

theorem State.freeVersion_kept {q : List Instr} (s : State) (i : Nat) (n : Nat) (h : Kept q s) : Kept q (State.freeVersion s i n) := by
  unfold State.freeVersion
  repeat' (first | with_reducible assumption | with_reducible apply State.startScrub_kept | with_reducible apply State.updAdapter_kept | fail_if_no_progress (with_reducible apply Kept.upd) | with_reducible apply foldl_kept | (intro) | split | (fail_if_no_progress extract_lets) | (fail_if_no_progress beta_reduce) | (dsimp +zetaDelta only) | fail)

theorem State.clearTables_kept {q : List Instr} (s : State) (id : Nat) (h : Kept q s) : Kept q (State.clearTables s id) := by
  unfold State.clearTables
  repeat' (first | with_reducible assumption | fail_if_no_progress (with_reducible apply Kept.upd) | with_reducible apply foldl_kept | (intro) | split | (fail_if_no_progress extract_lets) | (fail_if_no_progress beta_reduce) | (dsimp +zetaDelta only) | fail)

theorem State.readyModel_kept {q : List Instr} (s : State) (i : Nat) (h : Kept q s) : Kept q (State.readyModel s i) := by
  unfold State.readyModel
  repeat' (first | with_reducible assumption | with_reducible apply State.setRegion_kept | with_reducible apply State.updEntry_kept | with_reducible apply State.updTableEnt_kept | fail_if_no_progress (with_reducible apply Kept.upd) | with_reducible apply foldl_kept | (intro) | split | (fail_if_no_progress extract_lets) | (fail_if_no_progress beta_reduce) | (dsimp +zetaDelta only) | fail)

theorem State.installVersion_kept {q : List Instr} (s : State) (i : Nat) (n : Nat) (h : Kept q s) : Kept q (State.installVersion s i n) := by
  unfold State.installVersion
  repeat' (first | with_reducible assumption | with_reducible apply State.endFetch_kept | with_reducible apply State.setRegion_kept | with_reducible apply State.updAdapter_kept | fail_if_no_progress (with_reducible apply Kept.upd) | with_reducible apply foldl_kept | (intro) | split | (fail_if_no_progress extract_lets) | (fail_if_no_progress beta_reduce) | (dsimp +zetaDelta only) | fail)

theorem State.settleLoad_kept {q : List Instr} (s : State) (r : LoadRef) (h : Kept q s) : Kept q (State.settleLoad s r) := by
  unfold State.settleLoad
  repeat' (first | with_reducible assumption | with_reducible apply State.installVersion_kept | with_reducible apply Work.load_kept | with_reducible apply State.readyModel_kept | fail_if_no_progress (with_reducible apply Kept.upd) | with_reducible apply foldl_kept | (intro) | split | (fail_if_no_progress extract_lets) | (fail_if_no_progress beta_reduce) | (dsimp +zetaDelta only) | fail)

theorem State.checkLoad_kept {q : List Instr} (s : State) (r : LoadRef) (h : Kept q s) : Kept q (State.checkLoad s r) := by
  unfold State.checkLoad
  repeat' (first | with_reducible assumption | with_reducible apply State.endFetch_kept | with_reducible apply State.freeVersion_kept | with_reducible apply Work.load_kept | with_reducible apply State.putLoad_kept | with_reducible apply State.sendNotice_kept | with_reducible apply State.settleLoad_kept | with_reducible apply State.updVersion_kept | fail_if_no_progress (with_reducible apply Kept.upd) | with_reducible apply foldl_kept | (intro) | split | (fail_if_no_progress extract_lets) | (fail_if_no_progress beta_reduce) | (dsimp +zetaDelta only) | fail)

theorem State.tellRefs_kept {q : List Instr} (s : State) (i : Nat) (n : Nat) (h : Kept q s) : Kept q (State.tellRefs s i n) := by
  unfold State.tellRefs
  repeat' (first | with_reducible assumption | with_reducible apply State.mgmtGroup_kept | with_reducible apply State.updVersion_kept | fail_if_no_progress (with_reducible apply Kept.upd) | with_reducible apply foldl_kept | (intro) | split | (fail_if_no_progress extract_lets) | (fail_if_no_progress beta_reduce) | (dsimp +zetaDelta only) | fail)

theorem State.countRef_kept {q : List Instr} (s : State) (i : Nat) (n : Nat) (up : Bool) (h : Kept q s) : Kept q (State.countRef s i n up) := by
  unfold State.countRef
  repeat' (first | with_reducible assumption | with_reducible apply State.tellRefs_kept | with_reducible apply State.updVersion_kept | fail_if_no_progress (with_reducible apply Kept.upd) | with_reducible apply foldl_kept | (intro) | split | (fail_if_no_progress extract_lets) | (fail_if_no_progress beta_reduce) | (dsimp +zetaDelta only) | fail)

theorem State.retireVersion_kept {q : List Instr} (s : State) (i : Nat) (v : AVer) (h : Kept q s) : Kept q (State.retireVersion s i v) := by
  unfold State.retireVersion
  repeat' (first | with_reducible assumption | with_reducible apply State.freeVersion_kept | with_reducible apply State.tellRefs_kept | fail_if_no_progress (with_reducible apply Kept.upd) | with_reducible apply foldl_kept | (intro) | split | (fail_if_no_progress extract_lets) | (fail_if_no_progress beta_reduce) | (dsimp +zetaDelta only) | fail)

theorem State.finishAdapter_kept {q : List Instr} (s : State) (i : Nat) (h : Kept q s) : Kept q (State.finishAdapter s i) := by
  unfold State.finishAdapter
  repeat' (first | with_reducible assumption | with_reducible apply State.complete_kept | with_reducible apply State.updAdapter_kept | fail_if_no_progress (with_reducible apply Kept.upd) | with_reducible apply foldl_kept | (intro) | split | (fail_if_no_progress extract_lets) | (fail_if_no_progress beta_reduce) | (dsimp +zetaDelta only) | fail)

theorem State.settleAdapters_kept {q : List Instr} (s : State) (h : Kept q s) : Kept q (State.settleAdapters s) := by
  unfold State.settleAdapters
  repeat' (first | with_reducible assumption | with_reducible apply State.finishAdapter_kept | with_reducible apply State.retireVersion_kept | fail_if_no_progress (with_reducible apply Kept.upd) | with_reducible apply foldl_kept | (intro) | split | (fail_if_no_progress extract_lets) | (fail_if_no_progress beta_reduce) | (dsimp +zetaDelta only) | fail)

theorem State.retireAdapter_kept {q : List Instr} (s : State) (i : Nat) (w : Option Waiter) (h : Kept q s) : Kept q (State.retireAdapter s i w) := by
  unfold State.retireAdapter
  repeat' (first | with_reducible assumption | with_reducible apply State.updAdapter_kept | fail_if_no_progress (with_reducible apply Kept.upd) | with_reducible apply foldl_kept | (intro) | split | (fail_if_no_progress extract_lets) | (fail_if_no_progress beta_reduce) | (dsimp +zetaDelta only) | fail)

end Sys2Proof.Machine
end

