-- ==== Sys2Proof/Laws/KeptIntake.lean ====
section
/-! SUPPORT. Every operation of Machine/Intake.lean leaves the queue alone and keeps the memories in canonical form. -/

set_option linter.unusedTactic false
set_option linter.unreachableTactic false
set_option linter.unusedVariables false
set_option linter.unnecessarySeqFocus false

namespace Sys2Proof.Machine

theorem State.updRing_kept {q : List Instr} (s : State) (i : Nat) (f : Ring → Ring) (h : Kept q s) : Kept q (State.updRing s i f) := by
  unfold State.updRing
  repeat' (first | with_reducible assumption | fail_if_no_progress (with_reducible apply Kept.upd) | with_reducible apply foldl_kept | (intro) | split | (fail_if_no_progress extract_lets) | (fail_if_no_progress beta_reduce) | (dsimp +zetaDelta only) | fail)

theorem State.writeRec_kept {q : List Instr} (s : State) (i : Nat) (b : Bytes) (h : Kept q s) : Kept q (State.writeRec s i b) := by
  unfold State.writeRec
  repeat' (first | with_reducible assumption | with_reducible apply State.updRing_kept | fail_if_no_progress (with_reducible apply Kept.upd) | with_reducible apply foldl_kept | (intro) | split | (fail_if_no_progress extract_lets) | (fail_if_no_progress beta_reduce) | (dsimp +zetaDelta only) | fail)

theorem State.updReq_kept {q : List Instr} (s : State) (k : Nat) (f : Req → Req) (h : Kept q s) : Kept q (State.updReq s k f) := by
  unfold State.updReq
  repeat' (first | with_reducible assumption | fail_if_no_progress (with_reducible apply Kept.upd) | with_reducible apply foldl_kept | (intro) | split | (fail_if_no_progress extract_lets) | (fail_if_no_progress beta_reduce) | (dsimp +zetaDelta only) | fail)

theorem State.updPrefix_kept {q : List Instr} (s : State) (i : Nat) (f : Prefix → Prefix) (h : Kept q s) : Kept q (State.updPrefix s i f) := by
  unfold State.updPrefix
  repeat' (first | with_reducible assumption | fail_if_no_progress (with_reducible apply Kept.upd) | with_reducible apply foldl_kept | (intro) | split | (fail_if_no_progress extract_lets) | (fail_if_no_progress beta_reduce) | (dsimp +zetaDelta only) | fail)

theorem State.endSlot_kept {q : List Instr} (s : State) (slot : Nat) (h : Kept q s) : Kept q (State.endSlot s slot) := by
  unfold State.endSlot
  repeat' (first | with_reducible assumption | fail_if_no_progress (with_reducible apply Kept.upd) | with_reducible apply foldl_kept | (intro) | split | (fail_if_no_progress extract_lets) | (fail_if_no_progress beta_reduce) | (dsimp +zetaDelta only) | fail)

theorem State.collectFor_kept {q : List Instr} (s : State) (what : Nat) (id : Nat) (h : Kept q s) : Kept q (State.collectFor s what id) := by
  unfold State.collectFor
  repeat' (first | with_reducible assumption | with_reducible apply State.startScrub_kept | fail_if_no_progress (with_reducible apply Kept.upd) | with_reducible apply foldl_kept | (intro) | split | (fail_if_no_progress extract_lets) | (fail_if_no_progress beta_reduce) | (dsimp +zetaDelta only) | fail)

theorem State.collect_kept {q : List Instr} (s : State) (h : Kept q s) : Kept q (State.collect s) := by
  unfold State.collect
  repeat' (first | with_reducible assumption | with_reducible apply State.collectFor_kept | fail_if_no_progress (with_reducible apply Kept.upd) | with_reducible apply foldl_kept | (intro) | split | (fail_if_no_progress extract_lets) | (fail_if_no_progress beta_reduce) | (dsimp +zetaDelta only) | fail)

theorem State.unrefPrefix_kept {q : List Instr} (s : State) (i : Nat) (h : Kept q s) : Kept q (State.unrefPrefix s i) := by
  unfold State.unrefPrefix
  repeat' (first | with_reducible assumption | with_reducible apply State.updPrefix_kept | fail_if_no_progress (with_reducible apply Kept.upd) | with_reducible apply foldl_kept | (intro) | split | (fail_if_no_progress extract_lets) | (fail_if_no_progress beta_reduce) | (dsimp +zetaDelta only) | fail)

theorem State.unrefAdapter_kept {q : List Instr} (s : State) (id : Nat) (ver : Nat) (h : Kept q s) : Kept q (State.unrefAdapter s id ver) := by
  unfold State.unrefAdapter
  repeat' (first | with_reducible assumption | with_reducible apply State.countRef_kept | fail_if_no_progress (with_reducible apply Kept.upd) | with_reducible apply foldl_kept | (intro) | split | (fail_if_no_progress extract_lets) | (fail_if_no_progress beta_reduce) | (dsimp +zetaDelta only) | fail)

theorem State.refAdapter_kept {q : List Instr} (s : State) (id : Nat) (ver : Nat) (h : Kept q s) : Kept q (State.refAdapter s id ver) := by
  unfold State.refAdapter
  repeat' (first | with_reducible assumption | with_reducible apply State.countRef_kept | fail_if_no_progress (with_reducible apply Kept.upd) | with_reducible apply foldl_kept | (intro) | split | (fail_if_no_progress extract_lets) | (fail_if_no_progress beta_reduce) | (dsimp +zetaDelta only) | fail)

theorem State.dropReq_kept {q : List Instr} (s : State) (r : Req) (h : Kept q s) : Kept q (State.dropReq s r) := by
  unfold State.dropReq
  repeat' (first | with_reducible assumption | with_reducible apply State.collect_kept | with_reducible apply State.endSlot_kept | with_reducible apply State.unrefPrefix_kept | fail_if_no_progress (with_reducible apply Kept.upd) | with_reducible apply foldl_kept | (intro) | split | (fail_if_no_progress extract_lets) | (fail_if_no_progress beta_reduce) | (dsimp +zetaDelta only) | fail)

theorem State.closeReq_kept {q : List Instr} (s : State) (k : Nat) (h : Kept q s) : Kept q (State.closeReq s k) := by
  unfold State.closeReq
  repeat' (first | with_reducible assumption | with_reducible apply State.dropReq_kept | with_reducible apply State.unrefAdapter_kept | with_reducible apply State.updReq_kept | fail_if_no_progress (with_reducible apply Kept.upd) | with_reducible apply foldl_kept | (intro) | split | (fail_if_no_progress extract_lets) | (fail_if_no_progress beta_reduce) | (dsimp +zetaDelta only) | fail)

theorem State.recSent_kept {q : List Instr} (s : State) (c : CplRec) (h : Kept q s) : Kept q (State.recSent s c) := by
  unfold State.recSent
  repeat' (first | with_reducible assumption | with_reducible apply State.closeReq_kept | with_reducible apply State.endSlot_kept | fail_if_no_progress (with_reducible apply Kept.upd) | with_reducible apply foldl_kept | (intro) | split | (fail_if_no_progress extract_lets) | (fail_if_no_progress beta_reduce) | (dsimp +zetaDelta only) | fail)

theorem State.pushRec_kept {q : List Instr} (s : State) (i : Nat) (c : CplRec) (keep : Bool) (h : Kept q s) : Kept q (State.pushRec s i c keep).1 := by
  unfold State.pushRec
  repeat' (first | with_reducible assumption | with_reducible apply State.recSent_kept | with_reducible apply State.updRing_kept | with_reducible apply State.writeRec_kept | fail_if_no_progress (with_reducible apply Kept.upd) | with_reducible apply foldl_kept | (intro) | split | (fail_if_no_progress extract_lets) | (fail_if_no_progress beta_reduce) | (dsimp +zetaDelta only) | fail)

theorem State.drainRing_kept {q : List Instr} (i f : Nat) (s : State) (h : Kept q s) : Kept q (State.drainRing i f s) := by
  induction f generalizing s with
  | zero => exact h
  | succ f ih =>
    unfold State.drainRing
    split
    · exact h
    · split
      · exact ih _ (State.recSent_kept _ _ (State.writeRec_kept _ _ _ (State.updRing_kept _ _ _ h)))
      · exact h

theorem State.finalRecs_kept {q : List Instr} (s : State) (r : Req) (status : Nat) (h : Kept q s) : Kept q (State.finalRecs s r status) := by
  unfold State.finalRecs
  repeat' (first | with_reducible assumption | with_reducible apply State.closeReq_kept | with_reducible apply State.pushRec_kept | fail_if_no_progress (with_reducible apply Kept.upd) | with_reducible apply foldl_kept | (intro) | split | (fail_if_no_progress extract_lets) | (fail_if_no_progress beta_reduce) | (dsimp +zetaDelta only) | fail)

theorem State.endReq_kept {q : List Instr} (s : State) (k : Nat) (status : Nat) (h : Kept q s) : Kept q (State.endReq s k status) := by
  unfold State.endReq
  repeat' (first | with_reducible assumption | with_reducible apply State.finalRecs_kept | with_reducible apply State.updParcel_kept | with_reducible apply State.updReq_kept | fail_if_no_progress (with_reducible apply Kept.upd) | with_reducible apply foldl_kept | (intro) | split | (fail_if_no_progress extract_lets) | (fail_if_no_progress beta_reduce) | (dsimp +zetaDelta only) | fail)

theorem State.finishRing_kept {q : List Instr} (s : State) (i : Nat) (h : Kept q s) : Kept q (State.finishRing s i) := by
  unfold State.finishRing
  repeat' (first | with_reducible assumption | with_reducible apply State.complete_kept | with_reducible apply State.startScrub_kept | with_reducible apply State.updRing_kept | fail_if_no_progress (with_reducible apply Kept.upd) | with_reducible apply foldl_kept | (intro) | split | (fail_if_no_progress extract_lets) | (fail_if_no_progress beta_reduce) | (dsimp +zetaDelta only) | fail)

theorem State.endAll_kept {q : List Instr} (s : State) (l : List Req) (status : Nat) (h : Kept q s) : Kept q (State.endAll s l status) := by
  unfold State.endAll
  repeat' (first | with_reducible assumption | with_reducible apply State.endReq_kept | fail_if_no_progress (with_reducible apply Kept.upd) | with_reducible apply foldl_kept | (intro) | split | (fail_if_no_progress extract_lets) | (fail_if_no_progress beta_reduce) | (dsimp +zetaDelta only) | fail)

theorem State.destroyRing_kept {q : List Instr} (s : State) (i : Nat) (w : Option Waiter) (h : Kept q s) : Kept q (State.destroyRing s i w) := by
  unfold State.destroyRing
  repeat' (first | with_reducible assumption | with_reducible apply State.endAll_kept | with_reducible apply State.finishRing_kept | with_reducible apply State.updRing_kept | fail_if_no_progress (with_reducible apply Kept.upd) | with_reducible apply foldl_kept | (intro) | split | (fail_if_no_progress extract_lets) | (fail_if_no_progress beta_reduce) | (dsimp +zetaDelta only) | fail)

theorem State.endModel_kept {q : List Instr} (s : State) (i : Nat) (h : Kept q s) : Kept q (State.endModel s i) := by
  unfold State.endModel
  repeat' (first | with_reducible assumption | with_reducible apply State.clearTables_kept | with_reducible apply State.complete_kept | with_reducible apply State.updEntry_kept | fail_if_no_progress (with_reducible apply Kept.upd) | with_reducible apply foldl_kept | (intro) | split | (fail_if_no_progress extract_lets) | (fail_if_no_progress beta_reduce) | (dsimp +zetaDelta only) | fail)

theorem State.wantFill_kept {q : List Instr} (s : State) (id : Nat) (h : Kept q s) : Kept q (State.wantFill s id) := by
  unfold State.wantFill
  repeat' (first | with_reducible assumption | with_reducible apply State.updModel_kept | fail_if_no_progress (with_reducible apply Kept.upd) | with_reducible apply foldl_kept | (intro) | split | (fail_if_no_progress extract_lets) | (fail_if_no_progress beta_reduce) | (dsimp +zetaDelta only) | fail)

theorem State.endEvict_kept {q : List Instr} (s : State) (i : Nat) (h : Kept q s) : Kept q (State.endEvict s i) := by
  unfold State.endEvict
  repeat' (first | with_reducible assumption | with_reducible apply State.complete_kept | with_reducible apply State.holdModel_kept | with_reducible apply State.startScrub_kept | with_reducible apply State.updEntry_kept | with_reducible apply State.wantFill_kept | fail_if_no_progress (with_reducible apply Kept.upd) | with_reducible apply foldl_kept | (intro) | split | (fail_if_no_progress extract_lets) | (fail_if_no_progress beta_reduce) | (dsimp +zetaDelta only) | fail)

theorem State.evictModel_kept {q : List Instr} (s : State) (i : Nat) (registry : Bool) (w : Option Waiter) (h : Kept q s) : Kept q (State.evictModel s i registry w) := by
  unfold State.evictModel
  repeat' (first | with_reducible assumption | with_reducible apply State.endAll_kept | with_reducible apply State.endEvict_kept | with_reducible apply State.endReq_kept | with_reducible apply State.updEntry_kept | fail_if_no_progress (with_reducible apply Kept.upd) | with_reducible apply foldl_kept | (intro) | split | (fail_if_no_progress extract_lets) | (fail_if_no_progress beta_reduce) | (dsimp +zetaDelta only) | fail)

theorem State.destroyObjects_kept {q : List Instr} (s : State) (p : Nat) (h : Kept q s) : Kept q (State.destroyObjects s p) := by
  unfold State.destroyObjects
  repeat' (first | with_reducible assumption | with_reducible apply State.destroyRing_kept | with_reducible apply State.endFetch_kept | with_reducible apply State.evictModel_kept | with_reducible apply State.freeVersion_kept | with_reducible apply State.retireAdapter_kept | with_reducible apply State.settleAdapters_kept | fail_if_no_progress (with_reducible apply Kept.upd) | with_reducible apply foldl_kept | (intro) | split | (fail_if_no_progress extract_lets) | (fail_if_no_progress beta_reduce) | (dsimp +zetaDelta only) | fail)

theorem State.dropHeld_kept {q : List Instr} (s : State) (p : Nat) (h : Kept q s) : Kept q (State.dropHeld s p) := by
  unfold State.dropHeld
  repeat' (first | with_reducible assumption | with_reducible apply State.collectFor_kept | with_reducible apply State.endSlot_kept | with_reducible apply State.updPrefix_kept | fail_if_no_progress (with_reducible apply Kept.upd) | with_reducible apply foldl_kept | (intro) | split | (fail_if_no_progress extract_lets) | (fail_if_no_progress beta_reduce) | (dsimp +zetaDelta only) | fail)

theorem State.settleParcel_kept {q : List Instr} (s : State) (p : Nat) (h : Kept q s) : Kept q (State.settleParcel s p) := by
  unfold State.settleParcel
  repeat' (first | with_reducible assumption | with_reducible apply State.destroyObjects_kept | with_reducible apply State.dropHeld_kept | with_reducible apply State.updParcel_kept | fail_if_no_progress (with_reducible apply Kept.upd) | with_reducible apply foldl_kept | (intro) | split | (fail_if_no_progress extract_lets) | (fail_if_no_progress beta_reduce) | (dsimp +zetaDelta only) | fail)

theorem State.settle_kept {q : List Instr} (s : State) (h : Kept q s) : Kept q (State.settle s) := by
  unfold State.settle
  repeat' (first | with_reducible assumption | with_reducible apply State.finishRing_kept | with_reducible apply State.settleAdapters_kept | with_reducible apply State.settleParcel_kept | fail_if_no_progress (with_reducible apply Kept.upd) | with_reducible apply foldl_kept | (intro) | split | (fail_if_no_progress extract_lets) | (fail_if_no_progress beta_reduce) | (dsimp +zetaDelta only) | fail)

theorem execCompletionBacklogDrain_kept {q : List Instr} (ring : Fin 256) (s : State) (h : Kept q s) : ∀ y, execCompletionBacklogDrain ring s = .next y → Kept q y := by
  intro y hy
  unfold execCompletionBacklogDrain at hy
  cases hy
  repeat' (first | with_reducible assumption | with_reducible apply State.drainRing_kept | with_reducible apply State.settle_kept | fail_if_no_progress (with_reducible apply Kept.upd) | with_reducible apply foldl_kept | (intro) | split | (fail_if_no_progress extract_lets) | (fail_if_no_progress beta_reduce) | (dsimp +zetaDelta only) | fail)

theorem State.readEntry_kept {q : List Instr} (s : State) (i : Nat) (h : Kept q s) : ∀ y, State.readEntry s i = some y → Kept q y := by
  intro y hy
  unfold State.readEntry at hy
  extract_lets r ix slot g e s1 at hy
  have h1 : Kept q s1 := State.updRing_kept _ _ _ h
  split at hy
  · cases hy
  · split at hy
    · cases hy
    · split at hy
      · cases hy
        exact State.pushRec_kept _ _ _ _ (State.updRing_kept _ _ _ (Kept.upd h1))
      · split at hy
        · cases hy
        · rename_i s2 h2
          cases hy
          exact Kept.upd (State.tick_kept _ _ (State.linkWhole_kept _ _ _ _ _ h1 _ h2))

theorem State.intake_kept {q : List Instr} (i f : Nat) (s : State) (h : Kept q s) : Kept q (State.intake i f s) := by
  induction f generalizing s with
  | zero => exact h
  | succ f ih =>
    unfold State.intake
    split
    · exact h
    · rename_i s1 h1
      exact ih _ (State.readEntry_kept _ _ h _ h1)

theorem execDoorbell_kept {q : List Instr} (ring : Fin 256) (qp : BitVec 24) (value : BitVec 64) (t : Nat) (s : State) (h : Kept q s) : ∀ y, execDoorbell ring qp value t s = .next y → Kept q y := by
  intro y hy
  unfold execDoorbell at hy
  cases hy
  repeat' (first | with_reducible assumption | with_reducible apply State.at'_kept | with_reducible apply State.drainRing_kept | with_reducible apply State.intake_kept | with_reducible apply State.updRing_kept | fail_if_no_progress (with_reducible apply Kept.upd) | with_reducible apply foldl_kept | (intro) | split | (fail_if_no_progress extract_lets) | (fail_if_no_progress beta_reduce) | (dsimp +zetaDelta only) | fail)

theorem execIntakeRdmaWrite_kept {q : List Instr} (ring : Fin 256) (qp : BitVec 24) (stage : Bool) (off : Nat) (data : Bytes) (s : State) (h : Kept q s) : ∀ y, execIntakeRdmaWrite ring qp stage off data s = .next y → Kept q y := by
  intro y hy
  unfold execIntakeRdmaWrite at hy
  cases hy
  repeat' (first | with_reducible assumption | with_reducible apply State.fwWrite_kept | with_reducible apply State.updRing_kept | fail_if_no_progress (with_reducible apply Kept.upd) | with_reducible apply foldl_kept | (intro) | split | (fail_if_no_progress extract_lets) | (fail_if_no_progress beta_reduce) | (dsimp +zetaDelta only) | fail)

theorem execIdentifierQuarantineEnd_kept {q : List Instr} (t : Nat) (s : State) (h : Kept q s) : ∀ y, execIdentifierQuarantineEnd t s = .next y → Kept q y := by
  intro y hy
  unfold execIdentifierQuarantineEnd at hy
  cases hy
  repeat' (first | with_reducible assumption | with_reducible apply State.at'_kept | with_reducible apply State.intake_kept | fail_if_no_progress (with_reducible apply Kept.upd) | with_reducible apply foldl_kept | (intro) | split | (fail_if_no_progress extract_lets) | (fail_if_no_progress beta_reduce) | (dsimp +zetaDelta only) | fail)

theorem State.putPage_kept {q : List Instr} (s : State) (tab : Nat) (ix : Nat) (key : Nat) (h : Kept q s) : Kept q (State.putPage s tab ix key) := by
  unfold State.putPage
  repeat' (first | with_reducible assumption | with_reducible apply State.fwWrite_kept | fail_if_no_progress (with_reducible apply Kept.upd) | with_reducible apply foldl_kept | (intro) | split | (fail_if_no_progress extract_lets) | (fail_if_no_progress beta_reduce) | (dsimp +zetaDelta only) | fail)

theorem State.growPages_kept {q : List Instr} (s : State) (m : Model) (k : Nat) (n : Nat) (h : Kept q s) : Kept q (State.growPages s m k n) := by
  unfold State.growPages
  repeat' (first | with_reducible assumption | with_reducible apply State.putPage_kept | with_reducible apply State.updReq_kept | fail_if_no_progress (with_reducible apply Kept.upd) | with_reducible apply foldl_kept | (intro) | split | (fail_if_no_progress extract_lets) | (fail_if_no_progress beta_reduce) | (dsimp +zetaDelta only) | fail)

theorem State.growDraft_kept {q : List Instr} (s : State) (d : Model) (k : Nat) (n : Nat) (h : Kept q s) : Kept q (State.growDraft s d k n) := by
  unfold State.growDraft
  repeat' (first | with_reducible assumption | with_reducible apply State.putPage_kept | with_reducible apply State.updReq_kept | fail_if_no_progress (with_reducible apply Kept.upd) | with_reducible apply foldl_kept | (intro) | split | (fail_if_no_progress extract_lets) | (fail_if_no_progress beta_reduce) | (dsimp +zetaDelta only) | fail)

theorem State.usePrefix_kept {q : List Instr} (s : State) (m : Model) (r : Req) (i : Nat) (h : Kept q s) : Kept q (State.usePrefix s m r i) := by
  unfold State.usePrefix
  repeat' (first | with_reducible assumption | with_reducible apply State.fwWrite_kept | with_reducible apply State.growPages_kept | with_reducible apply State.putPage_kept | fail_if_no_progress (with_reducible apply Kept.upd) | with_reducible apply foldl_kept | (intro) | split | (fail_if_no_progress extract_lets) | (fail_if_no_progress beta_reduce) | (dsimp +zetaDelta only) | fail)

theorem State.admitted_kept {q : List Instr} (s : State) (m : Model) (r : Req) (aver : Nat) (pre : Nat) (l : Nat) (a : AreaPlan) (base : Nat) (len : Nat) (h : Kept q s) : Kept q (State.admitted s m r aver pre l a base len) := by
  unfold State.admitted
  repeat' (first | with_reducible assumption | with_reducible apply State.fwWrite_kept | with_reducible apply State.refAdapter_kept | with_reducible apply State.setRegion_kept | with_reducible apply State.takeSpace_kept | with_reducible apply State.updParcel_kept | with_reducible apply State.updPrefix_kept | with_reducible apply State.updReq_kept | with_reducible apply State.usePrefix_kept | fail_if_no_progress (with_reducible apply Kept.upd) | with_reducible apply foldl_kept | (intro) | split | (fail_if_no_progress extract_lets) | (fail_if_no_progress beta_reduce) | (dsimp +zetaDelta only) | fail)

theorem State.tryAdmit_kept {q : List Instr} (s : State) (r : Req) (h : Kept q s) : Kept q (State.tryAdmit s r) := by
  unfold State.tryAdmit
  repeat' (first | with_reducible assumption | with_reducible apply State.admitted_kept | with_reducible apply State.endReq_kept | with_reducible apply State.wantFill_kept | fail_if_no_progress (with_reducible apply Kept.upd) | with_reducible apply foldl_kept | (intro) | split | (fail_if_no_progress extract_lets) | (fail_if_no_progress beta_reduce) | (dsimp +zetaDelta only) | fail)

theorem execAdmission_kept {q : List Instr} (ring : Fin 256) (t : Nat) (s : State) (h : Kept q s) : ∀ y, execAdmission ring t s = .next y → Kept q y := by
  intro y hy
  unfold execAdmission at hy
  cases hy
  repeat' (first | with_reducible assumption | with_reducible apply State.at'_kept | with_reducible apply State.cistErr_kept | with_reducible apply State.countTier_kept | with_reducible apply State.endReq_kept | with_reducible apply State.idleItem_kept | with_reducible apply State.popPacket_kept | with_reducible apply State.settle_kept | with_reducible apply State.tryAdmit_kept | fail_if_no_progress (with_reducible apply Kept.upd) | with_reducible apply foldl_kept | (intro) | split | (fail_if_no_progress extract_lets) | (fail_if_no_progress beta_reduce) | (dsimp +zetaDelta only) | fail)

theorem execDeadlineMissed_kept {q : List Instr} (handle : BitVec 32) (t : Nat) (s : State) (h : Kept q s) : ∀ y, execDeadlineMissed handle t s = .next y → Kept q y := by
  intro y hy
  unfold execDeadlineMissed at hy
  cases hy
  repeat' (first | with_reducible assumption | with_reducible apply State.at'_kept | with_reducible apply State.endReq_kept | with_reducible apply State.settle_kept | fail_if_no_progress (with_reducible apply Kept.upd) | with_reducible apply foldl_kept | (intro) | split | (fail_if_no_progress extract_lets) | (fail_if_no_progress beta_reduce) | (dsimp +zetaDelta only) | fail)

theorem execKvHoldExpire_kept {q : List Instr} (handle : BitVec 32) (t : Nat) (s : State) (h : Kept q s) : ∀ y, execKvHoldExpire handle t s = .next y → Kept q y := by
  intro y hy
  unfold execKvHoldExpire at hy
  cases hy
  repeat' (first | with_reducible assumption | with_reducible apply State.at'_kept | with_reducible apply State.dropReq_kept | fail_if_no_progress (with_reducible apply Kept.upd) | with_reducible apply foldl_kept | (intro) | split | (fail_if_no_progress extract_lets) | (fail_if_no_progress beta_reduce) | (dsimp +zetaDelta only) | fail)

end Sys2Proof.Machine
end

