-- ==== Sys2Proof/Laws/KeptTileEvents.lean ====
section
/-! SUPPORT. Every operation of Machine/TileEvents.lean leaves the queue alone and keeps the memories in canonical form. -/

set_option linter.unusedTactic false
set_option linter.unreachableTactic false
set_option linter.unusedVariables false
set_option linter.unnecessarySeqFocus false

namespace Sys2Proof.Machine

theorem execSemaphoreWaitPass_kept {q : List Instr} (x : Issue) (s : State) (h : Kept q s) : ∀ y, execSemaphoreWaitPass x s = .next y → Kept q y := by
  intro y hy
  unfold execSemaphoreWaitPass at hy
  cases hy
  repeat' (first | with_reducible assumption | with_reducible apply parityFault_kept | with_reducible apply runWord_kept | fail_if_no_progress (with_reducible apply Kept.upd) | with_reducible apply foldl_kept | (intro) | split | (fail_if_no_progress extract_lets) | (fail_if_no_progress beta_reduce) | (dsimp +zetaDelta only) | fail)

theorem execMmaLand_kept {q : List Instr} (tile : Fin 4096) (bank : Fin 2) (s : State) (h : Kept q s) : ∀ y, execMmaLand tile bank s = .next y → Kept q y := by
  intro y hy
  unfold execMmaLand at hy
  cases hy
  repeat' (first | with_reducible assumption | with_reducible apply State.updTile_kept | fail_if_no_progress (with_reducible apply Kept.upd) | with_reducible apply foldl_kept | (intro) | split | (fail_if_no_progress extract_lets) | (fail_if_no_progress beta_reduce) | (dsimp +zetaDelta only) | fail)

theorem fireTile_kept {q : List Instr} (g : Nat) (parity : Bool) (s : State) (h : Kept q s) : Kept q (fireTile g parity s) := by
  unfold fireTile
  repeat' (first | with_reducible assumption | with_reducible apply State.setTile_kept | with_reducible apply State.tileFault_kept | fail_if_no_progress (with_reducible apply Kept.upd) | with_reducible apply foldl_kept | (intro) | split | (fail_if_no_progress extract_lets) | (fail_if_no_progress beta_reduce) | (dsimp +zetaDelta only) | fail)

theorem execTriggerFire_kept {q : List Instr} (tile : Fin 4096) (parity : Bool) (s : State) (h : Kept q s) : ∀ y, execTriggerFire tile parity s = .next y → Kept q y := by
  intro y hy
  unfold execTriggerFire at hy
  cases hy
  repeat' (first | with_reducible assumption | with_reducible apply fireTile_kept | fail_if_no_progress (with_reducible apply Kept.upd) | with_reducible apply foldl_kept | (intro) | split | (fail_if_no_progress extract_lets) | (fail_if_no_progress beta_reduce) | (dsimp +zetaDelta only) | fail)

theorem State.sentinel_kept {q : List Instr} (s : State) (g : Nat) (i : Nat) (h : Kept q s) : Kept q (State.sentinel s g i) := by
  unfold State.sentinel
  repeat' (first | with_reducible assumption | with_reducible apply State.setPlot_kept | with_reducible apply State.updPlotRegs_kept | fail_if_no_progress (with_reducible apply Kept.upd) | with_reducible apply foldl_kept | (intro) | split | (fail_if_no_progress extract_lets) | (fail_if_no_progress beta_reduce) | (dsimp +zetaDelta only) | fail)

theorem execContextRetire_kept {q : List Instr} (tile : Fin 4096) (ctx : Fin 512) (s : State) (h : Kept q s) : ∀ y, execContextRetire tile ctx s = .next y → Kept q y := by
  intro y hy
  unfold execContextRetire at hy
  cases hy
  repeat' (first | with_reducible assumption | with_reducible apply State.sentinel_kept | with_reducible apply State.setTile_kept | with_reducible apply State.tileFault_kept | fail_if_no_progress (with_reducible apply Kept.upd) | with_reducible apply foldl_kept | (intro) | split | (fail_if_no_progress extract_lets) | (fail_if_no_progress beta_reduce) | (dsimp +zetaDelta only) | fail)

theorem execYieldDone_kept {q : List Instr} (tile : Fin 4096) (s : State) (h : Kept q s) : ∀ y, execYieldDone tile s = .next y → Kept q y := by
  intro y hy
  unfold execYieldDone at hy
  cases hy
  repeat' (first | with_reducible assumption | with_reducible apply State.setPlot_kept | with_reducible apply State.setTile_kept | fail_if_no_progress (with_reducible apply Kept.upd) | with_reducible apply foldl_kept | (intro) | split | (fail_if_no_progress extract_lets) | (fail_if_no_progress beta_reduce) | (dsimp +zetaDelta only) | fail)

theorem execTileYieldReq_kept {q : List Instr} (tile : Fin 4096) (on : Bool) (s : State) (h : Kept q s) : ∀ y, execTileYieldReq tile on s = .next y → Kept q y := by
  intro y hy
  unfold execTileYieldReq at hy
  cases hy
  repeat' (first | with_reducible assumption | with_reducible apply State.updTile_kept | fail_if_no_progress (with_reducible apply Kept.upd) | with_reducible apply foldl_kept | (intro) | split | (fail_if_no_progress extract_lets) | (fail_if_no_progress beta_reduce) | (dsimp +zetaDelta only) | fail)

theorem execTileStop_kept {q : List Instr} (tile : Fin 4096) (on : Bool) (s : State) (h : Kept q s) : ∀ y, execTileStop tile on s = .next y → Kept q y := by
  intro y hy
  unfold execTileStop at hy
  cases hy
  repeat' (first | with_reducible assumption | with_reducible apply State.updTile_kept | fail_if_no_progress (with_reducible apply Kept.upd) | with_reducible apply foldl_kept | (intro) | split | (fail_if_no_progress extract_lets) | (fail_if_no_progress beta_reduce) | (dsimp +zetaDelta only) | fail)

theorem State.closeLinks_kept {q : List Instr} (s : State) (g : Nat) (h : Kept q s) : Kept q (State.closeLinks s g) := by
  unfold State.closeLinks
  repeat' (first | with_reducible assumption | with_reducible apply State.updTile_kept | fail_if_no_progress (with_reducible apply Kept.upd) | with_reducible apply foldl_kept | (intro) | split | (fail_if_no_progress extract_lets) | (fail_if_no_progress beta_reduce) | (dsimp +zetaDelta only) | fail)

theorem State.selfTestTile_kept {q : List Instr} (s : State) (g : Nat) (full : Bool) (mask : Nat) (us : Nat) (h : Kept q s) : Kept q (State.selfTestTile s g full mask us) := by
  unfold State.selfTestTile
  repeat' (first | with_reducible assumption | with_reducible apply State.closeLinks_kept | with_reducible apply State.post_kept | with_reducible apply State.setTile_kept | fail_if_no_progress (with_reducible apply Kept.upd) | with_reducible apply foldl_kept | (intro) | split | (fail_if_no_progress extract_lets) | (fail_if_no_progress beta_reduce) | (dsimp +zetaDelta only) | fail)

theorem State.selfTestQuad_kept {q : List Instr} (s : State) (q' : Nat) (full : Bool) (fails : List (Fin 1024 × BitVec 7)) (us : Nat) (h : Kept q s) : Kept q (State.selfTestQuad s q' full fails us) := by
  unfold State.selfTestQuad
  repeat' (first | with_reducible assumption | with_reducible apply State.selfTestTile_kept | fail_if_no_progress (with_reducible apply Kept.upd) | with_reducible apply foldl_kept | (intro) | split | (fail_if_no_progress extract_lets) | (fail_if_no_progress beta_reduce) | (dsimp +zetaDelta only) | fail)

end Sys2Proof.Machine
end

