-- ==== Sys2Proof/Laws/KeptSteps.lean ====
section
/-! SUPPORT. Every operation of Machine/Steps.lean leaves the queue alone and keeps the memories in canonical form. -/

set_option linter.unusedTactic false
set_option linter.unreachableTactic false
set_option linter.unusedVariables false
set_option linter.unnecessarySeqFocus false

namespace Sys2Proof.Machine

theorem State.writeStepTable_kept {q : List Instr} (s : State) (b : Nat) (m : Model) (p : Plot) (step : Nat) (slots : List StepSlot) (h : Kept q s) : Kept q (State.writeStepTable s b m p step slots) := by
  unfold State.writeStepTable
  repeat' (first | with_reducible assumption | with_reducible apply State.fwWrite_kept | fail_if_no_progress (with_reducible apply Kept.upd) | with_reducible apply foldl_kept | (intro) | split | (fail_if_no_progress extract_lets) | (fail_if_no_progress beta_reduce) | (dsimp +zetaDelta only) | fail)

theorem State.kvPost_kept {q : List Instr} (s : State) (b : Nat) (out : Bool) (h : Kept q s) : Kept q (State.kvPost s b out) := by
  unfold State.kvPost
  repeat' (first | with_reducible assumption | with_reducible apply State.setPlot_kept | with_reducible apply State.slSubmit_kept | fail_if_no_progress (with_reducible apply Kept.upd) | with_reducible apply foldl_kept | (intro) | split | (fail_if_no_progress extract_lets) | (fail_if_no_progress beta_reduce) | (dsimp +zetaDelta only) | fail)

theorem State.kvFeed_kept {q : List Instr} (s : State) (b : Nat) (h : Kept q s) : Kept q (State.kvFeed s b) := by
  unfold State.kvFeed
  repeat' (first | with_reducible assumption | with_reducible apply State.kvPost_kept | fail_if_no_progress (with_reducible apply Kept.upd) | with_reducible apply foldl_kept | (intro) | split | (fail_if_no_progress extract_lets) | (fail_if_no_progress beta_reduce) | (dsimp +zetaDelta only) | fail)

theorem State.kvDone_kept {q : List Instr} (s : State) (b : Nat) (out : Bool) (ok : Bool) (h : Kept q s) : Kept q (State.kvDone s b out ok) := by
  unfold State.kvDone
  repeat' (first | with_reducible assumption | with_reducible apply State.kvFeed_kept | with_reducible apply State.setPlot_kept | fail_if_no_progress (with_reducible apply Kept.upd) | with_reducible apply foldl_kept | (intro) | split | (fail_if_no_progress extract_lets) | (fail_if_no_progress beta_reduce) | (dsimp +zetaDelta only) | fail)

theorem State.kvDrop_kept {q : List Instr} (s : State) (b : Nat) (p : Plot) (out : Bool) (h : Kept q s) : Kept q (State.kvDrop s b p out) := by
  unfold State.kvDrop
  repeat' (first | with_reducible assumption | with_reducible apply State.updEngine_kept | fail_if_no_progress (with_reducible apply Kept.upd) | with_reducible apply foldl_kept | (intro) | split | (fail_if_no_progress extract_lets) | (fail_if_no_progress beta_reduce) | (dsimp +zetaDelta only) | fail)

theorem State.kvStop_kept {q : List Instr} (s : State) (b : Nat) (h : Kept q s) : Kept q (State.kvStop s b) := by
  unfold State.kvStop
  repeat' (first | with_reducible assumption | with_reducible apply State.kvDrop_kept | with_reducible apply State.setPlot_kept | fail_if_no_progress (with_reducible apply Kept.upd) | with_reducible apply foldl_kept | (intro) | split | (fail_if_no_progress extract_lets) | (fail_if_no_progress beta_reduce) | (dsimp +zetaDelta only) | fail)

theorem State.startTask_kept {q : List Instr} (s : State) (b : Nat) (slots : List StepSlot) (retried : Bool) (h : Kept q s) : Kept q (State.startTask s b slots retried) := by
  unfold State.startTask
  repeat' (first | with_reducible assumption | with_reducible apply State.examineEntries_kept | with_reducible apply State.growDraft_kept | with_reducible apply State.growPages_kept | with_reducible apply State.kvFeed_kept | with_reducible apply State.latStepStart_kept | with_reducible apply State.setPlot_kept | with_reducible apply State.updPlotRegs_kept | with_reducible apply State.updReq_kept | with_reducible apply State.updTiles_kept | with_reducible apply State.writeStepTable_kept | fail_if_no_progress (with_reducible apply Kept.upd) | with_reducible apply foldl_kept | (intro) | split | (fail_if_no_progress extract_lets) | (fail_if_no_progress beta_reduce) | (dsimp +zetaDelta only) | fail)

theorem State.refuseLate_kept {q : List Instr} (s : State) (id : Nat) (h : Kept q s) : Kept q (State.refuseLate s id) := by
  unfold State.refuseLate
  repeat' (first | with_reducible assumption | with_reducible apply State.endAll_kept | fail_if_no_progress (with_reducible apply Kept.upd) | with_reducible apply foldl_kept | (intro) | split | (fail_if_no_progress extract_lets) | (fail_if_no_progress beta_reduce) | (dsimp +zetaDelta only) | fail)

theorem execStepStart_kept {q : List Instr} (lead : Fin 64) (t : Nat) (s : State) (h : Kept q s) : ∀ y, execStepStart lead t s = .next y → Kept q y := by
  intro y hy
  unfold execStepStart at hy
  cases hy
  repeat' (first | with_reducible assumption | with_reducible apply State.at'_kept | with_reducible apply State.refuseLate_kept | with_reducible apply State.setPlot_kept | with_reducible apply State.settle_kept | with_reducible apply State.startTask_kept | fail_if_no_progress (with_reducible apply Kept.upd) | with_reducible apply foldl_kept | (intro) | split | (fail_if_no_progress extract_lets) | (fail_if_no_progress beta_reduce) | (dsimp +zetaDelta only) | fail)

theorem State.emitTokens_kept {q : List Instr} (s : State) (r : Req) (pos : Nat) (toks : List Nat) (h : Kept q s) : Kept q (State.emitTokens s r pos toks) := by
  unfold State.emitTokens
  repeat' (first | with_reducible assumption | with_reducible apply State.fwWrite_kept | with_reducible apply State.pushRec_kept | with_reducible apply State.updReq_kept | fail_if_no_progress (with_reducible apply Kept.upd) | with_reducible apply foldl_kept | (intro) | split | (fail_if_no_progress extract_lets) | (fail_if_no_progress beta_reduce) | (dsimp +zetaDelta only) | fail)

theorem State.slotResult_kept {q : List Instr} (s : State) (p : Plot) (x : StepSlot) (r : Req) (l : Bytes) (h : Kept q s) : Kept q (State.slotResult s p x r l) := by
  unfold State.slotResult
  repeat' (first | with_reducible assumption | with_reducible apply State.emitTokens_kept | with_reducible apply State.endReq_kept | with_reducible apply State.fwWrite_kept | with_reducible apply State.updReq_kept | fail_if_no_progress (with_reducible apply Kept.upd) | with_reducible apply foldl_kept | (intro) | split | (fail_if_no_progress extract_lets) | (fail_if_no_progress beta_reduce) | (dsimp +zetaDelta only) | fail)

theorem State.slotEnd_kept {q : List Instr} (s : State) (b : Nat) (m : Model) (p : Plot) (i : Nat) (x : StepSlot) (h : Kept q s) : Kept q (State.slotEnd s b m p i x) := by
  unfold State.slotEnd
  repeat' (first | with_reducible assumption | with_reducible apply State.countTier_kept | with_reducible apply State.endReq_kept | with_reducible apply State.slotResult_kept | fail_if_no_progress (with_reducible apply Kept.upd) | with_reducible apply foldl_kept | (intro) | split | (fail_if_no_progress extract_lets) | (fail_if_no_progress beta_reduce) | (dsimp +zetaDelta only) | fail)

theorem State.stepReport_kept {q : List Instr} (s : State) (b : Nat) (p : Plot) (k : Task) (h : Kept q s) : Kept q (State.stepReport s b p k) := by
  unfold State.stepReport
  repeat' (first | with_reducible assumption | with_reducible apply State.event_kept | fail_if_no_progress (with_reducible apply Kept.upd) | with_reducible apply foldl_kept | (intro) | split | (fail_if_no_progress extract_lets) | (fail_if_no_progress beta_reduce) | (dsimp +zetaDelta only) | fail)

theorem State.endTask_kept {q : List Instr} (s : State) (b : Nat) (h : Kept q s) : Kept q (State.endTask s b) := by
  unfold State.endTask
  repeat' (first | with_reducible assumption | with_reducible apply State.kvStop_kept | with_reducible apply State.latStepEnd_kept | with_reducible apply State.setPlot_kept | with_reducible apply State.settle_kept | with_reducible apply State.slotEnd_kept | with_reducible apply State.stepReport_kept | fail_if_no_progress (with_reducible apply Kept.upd) | with_reducible apply foldl_kept | (intro) | split | (fail_if_no_progress extract_lets) | (fail_if_no_progress beta_reduce) | (dsimp +zetaDelta only) | fail)

theorem State.endSlots_kept {q : List Instr} (s : State) (l : List StepSlot) (status : Nat) (h : Kept q s) : Kept q (State.endSlots s l status) := by
  unfold State.endSlots
  repeat' (first | with_reducible assumption | with_reducible apply State.endReq_kept | fail_if_no_progress (with_reducible apply Kept.upd) | with_reducible apply foldl_kept | (intro) | split | (fail_if_no_progress extract_lets) | (fail_if_no_progress beta_reduce) | (dsimp +zetaDelta only) | fail)

theorem State.abortTask_kept {q : List Instr} (s : State) (b : Nat) (status : Nat) (retry : Bool) (h : Kept q s) : Kept q (State.abortTask s b status retry) := by
  unfold State.abortTask
  repeat' (first | with_reducible assumption | with_reducible apply State.endSlots_kept | with_reducible apply State.latStepEnd_kept | with_reducible apply State.setPlot_kept | with_reducible apply State.settle_kept | with_reducible apply State.stepReport_kept | fail_if_no_progress (with_reducible apply Kept.upd) | with_reducible apply foldl_kept | (intro) | split | (fail_if_no_progress extract_lets) | (fail_if_no_progress beta_reduce) | (dsimp +zetaDelta only) | fail)

end Sys2Proof.Machine
end

