-- ==== Sys2Proof/Laws/KeptPlots.lean ====
section
/-! SUPPORT. Every operation of Machine/Plots.lean leaves the queue alone and keeps the memories in canonical form. -/

set_option linter.unusedTactic false
set_option linter.unreachableTactic false
set_option linter.unusedVariables false
set_option linter.unnecessarySeqFocus false

namespace Sys2Proof.Machine

theorem State.writeImages_kept {q : List Instr} (s : State) (p : Plot) (h : Kept q s) : Kept q (State.writeImages s p) := by
  unfold State.writeImages
  repeat' (first | with_reducible assumption | fail_if_no_progress (with_reducible apply Kept.upd) | with_reducible apply foldl_kept | (intro) | split | (fail_if_no_progress extract_lets) | (fail_if_no_progress beta_reduce) | (dsimp +zetaDelta only) | (with_reducible refine Kept.updMem ?_ (fun hm => ?_); rotate_left; · (first | with_reducible apply storeWord_wf | with_reducible apply Mem.store_wf | with_reducible apply Mem.zero_wf | with_reducible apply Mem.writeN_wf | with_reducible apply Mem.tagPages_wf | with_reducible apply Mem.ueSet_wf | with_reducible apply Mem.regionSet_wf | with_reducible apply Mem.tagsOff_wf | (with_reducible apply foldl_mem_wf; intro) | split) <;> (repeat' (first | with_reducible assumption | (intro) | with_reducible apply storeWord_wf | with_reducible apply Mem.store_wf | with_reducible apply Mem.zero_wf | with_reducible apply Mem.writeN_wf | with_reducible apply Mem.tagPages_wf | with_reducible apply Mem.ueSet_wf | with_reducible apply Mem.regionSet_wf | with_reducible apply Mem.tagsOff_wf | split | exact Kept.mem (by with_reducible assumption)))) | fail)

theorem State.loadSection_kept {q : List Instr} (s : State) (p : Plot) (n : Nat) (epoch : Nat) (accept : Nat) (h : Kept q s) : Kept q (State.loadSection s p n epoch accept) := by
  unfold State.loadSection
  repeat' (first | with_reducible assumption | with_reducible apply State.updTile_kept | fail_if_no_progress (with_reducible apply Kept.upd) | with_reducible apply foldl_kept | (intro) | split | (fail_if_no_progress extract_lets) | (fail_if_no_progress beta_reduce) | (dsimp +zetaDelta only) | fail)

theorem State.reserveStream_kept {q : List Instr} (s : State) (lead stream region n rate : Nat) (h : Kept q s) :
    ∀ y, State.reserveStream s lead stream region n rate = some y → Kept q y := by
  intro y hy
  unfold State.reserveStream at hy
  extract_lets m used taken at hy
  split at hy
  · cases hy
  · rw [Option.map_eq_some_iff] at hy
    obtain ⟨o, _, rfl⟩ := hy
    exact State.updQuad_kept _ _ _ h

theorem State.reserveEgress_kept {q : List Instr} (s : State) (lead kind chan serial n : Nat) (h : Kept q s) :
    ∀ y, State.reserveEgress s lead kind chan serial n = some y → Kept q y := by
  intro y hy
  unfold State.reserveEgress at hy
  obtain ⟨i, _, hi⟩ := List.exists_of_findSome?_eq_some hy
  extract_lets l at hi
  split at hi
  · cases hi
  · rw [Option.map_eq_some_iff] at hi
    obtain ⟨o, _, rfl⟩ := hi
    exact State.updFport_kept _ _ _ h

/-- A run over a list that may fail keeps both when each turn does. -/
theorem foldl_bind_kept {q : List Instr} {α : Type} {f : State → α → Option State} {l : List α} {a : Option State}
    (hf : ∀ t x, Kept q t → ∀ y, f t x = some y → Kept q y) (h : ∀ y, a = some y → Kept q y) :
    ∀ y, l.foldl (fun s x => s.bind (fun t => f t x)) a = some y → Kept q y := by
  induction l generalizing a with
  | nil => exact h
  | cons x l ih =>
    refine ih ?_
    intro y hy
    obtain ⟨t, ht, hy⟩ := Option.bind_eq_some_iff.1 hy
    exact hf t x (h t ht) y hy

theorem State.reserveLinks_kept {q : List Instr} (s : State) (b : Nat) (p : Plot) (o : Option State) (h : ∀ y, o = some y → Kept q y) :
    ∀ y, State.reserveLinks s b p o = some y → Kept q y := by
  refine foldl_bind_kept (fun t x ht y hy => ?_) h
  dsimp only at hy
  split at hy
  · cases hy; exact ht
  · split at hy
    · cases hy
    · exact State.reserveEgress_kept _ _ _ _ _ _ ht _ hy

theorem State.reserveAll_kept {q : List Instr} (s : State) (b : Nat) (p : Plot) (h : Kept q s) : ∀ y, State.reserveAll s b p = some y → Kept q y := by
  unfold State.reserveAll
  refine State.reserveLinks_kept _ _ _ _ (foldl_bind_kept (fun t x ht y hy => ?_) (fun y hy => by cases hy; exact h))
  split at hy
  · cases hy
  · exact State.reserveStream_kept _ _ _ _ _ _ ht _ hy

theorem State.unreserve_kept {q : List Instr} (s : State) (b : Nat) (h : Kept q s) : Kept q (State.unreserve s b) := by
  unfold State.unreserve
  repeat' (first | with_reducible assumption | with_reducible apply State.updFport_kept | with_reducible apply State.updQuad_kept | fail_if_no_progress (with_reducible apply Kept.upd) | with_reducible apply foldl_kept | (intro) | split | (fail_if_no_progress extract_lets) | (fail_if_no_progress beta_reduce) | (dsimp +zetaDelta only) | fail)

/-- What is chosen from a list is one of its elements. -/
theorem leastBy_mem {α : Type} (f : α → Nat) (l : List α) (x : α) (h : leastBy f l = some x) : x ∈ l := by
  induction l generalizing x with
  | nil => cases h
  | cons a l ih =>
    unfold leastBy at h
    split at h
    · cases h
      exact List.mem_cons_self
    · rename_i b hb
      split at h
      · cases h
        exact List.mem_cons_of_mem _ (ih _ hb)
      · cases h
        exact List.mem_cons_self

theorem State.choose_kept {q : List Instr} (s : State) (plat : Bytes) (model slot parcel : Nat) (h : Kept q s) :
    ∀ x y, State.choose s plat model slot parcel = some (x, y) → Kept q y := by
  intro x y hy
  have hm := leastBy_mem _ _ _ hy
  obtain ⟨p, _, hp⟩ := List.mem_filterMap.1 hm
  split at hp
  · rw [Option.map_eq_some_iff] at hp
    obtain ⟨t, ht, he⟩ := hp
    cases he
    exact State.reserveAll_kept _ _ _ h _ ht
  · cases hp

theorem State.buildCarve_kept {q : List Instr} (s : State) (q' : Nat) (h : Kept q s) : Kept q (State.buildCarve s q') := by
  unfold State.buildCarve
  repeat' (first | with_reducible assumption | with_reducible apply State.buildQuad_kept | fail_if_no_progress (with_reducible apply Kept.upd) | with_reducible apply foldl_kept | (intro) | split | (fail_if_no_progress extract_lets) | (fail_if_no_progress beta_reduce) | (dsimp +zetaDelta only) | fail)

theorem State.powerQuads_kept {q : List Instr} (s : State) (qs : List Nat) (h : Kept q s) : Kept q (State.powerQuads s qs) := by
  unfold State.powerQuads
  repeat' (first | with_reducible assumption | with_reducible apply State.buildCarve_kept | fail_if_no_progress (with_reducible apply Kept.upd) | with_reducible apply foldl_kept | (intro) | split | (fail_if_no_progress extract_lets) | (fail_if_no_progress beta_reduce) | (dsimp +zetaDelta only) | fail)

theorem State.joinClocks_kept {q : List Instr} (s : State) (q' : Nat) (h : Kept q s) : Kept q (State.joinClocks s q') := by
  unfold State.joinClocks
  repeat' (first | with_reducible assumption | fail_if_no_progress (with_reducible apply Kept.upd) | with_reducible apply foldl_kept | (intro) | split | (fail_if_no_progress extract_lets) | (fail_if_no_progress beta_reduce) | (dsimp +zetaDelta only) | fail)

theorem State.sendBind_kept {q : List Instr} (s : State) (p : Plot) (reply : Bool) (r : Nat) (h : Kept q s) : Kept q (State.sendBind s p reply r) := by
  unfold State.sendBind
  repeat' (first | with_reducible assumption | with_reducible apply State.mgmtSend_kept | fail_if_no_progress (with_reducible apply Kept.upd) | with_reducible apply foldl_kept | (intro) | split | (fail_if_no_progress extract_lets) | (fail_if_no_progress beta_reduce) | (dsimp +zetaDelta only) | fail)

theorem State.place_kept {q : List Instr} (s : State) (p : Plot) (h : Kept q s) : Kept q (State.place s p) := by
  unfold State.place
  repeat' (first | with_reducible assumption | with_reducible apply State.clearCaps_kept | with_reducible apply State.initQueues_kept | with_reducible apply State.joinClocks_kept | with_reducible apply State.powerQuads_kept | with_reducible apply State.sendBind_kept | with_reducible apply State.setBlock_kept | with_reducible apply State.updTile_kept | fail_if_no_progress (with_reducible apply Kept.upd) | with_reducible apply foldl_kept | (intro) | split | (fail_if_no_progress extract_lets) | (fail_if_no_progress beta_reduce) | (dsimp +zetaDelta only) | (with_reducible refine Kept.updMem ?_ (fun hm => ?_); rotate_left; · (first | with_reducible apply storeWord_wf | with_reducible apply Mem.store_wf | with_reducible apply Mem.zero_wf | with_reducible apply Mem.writeN_wf | with_reducible apply Mem.tagPages_wf | with_reducible apply Mem.ueSet_wf | with_reducible apply Mem.regionSet_wf | with_reducible apply Mem.tagsOff_wf | (with_reducible apply foldl_mem_wf; intro) | split) <;> (repeat' (first | with_reducible assumption | (intro) | with_reducible apply storeWord_wf | with_reducible apply Mem.store_wf | with_reducible apply Mem.zero_wf | with_reducible apply Mem.writeN_wf | with_reducible apply Mem.tagPages_wf | with_reducible apply Mem.ueSet_wf | with_reducible apply Mem.regionSet_wf | with_reducible apply Mem.tagsOff_wf | split | exact Kept.mem (by with_reducible assumption)))) | fail)

theorem State.dropFill_kept {q : List Instr} (s : State) (id : Nat) (status : Nat) (h : Kept q s) : Kept q (State.dropFill s id status) := by
  unfold State.dropFill
  repeat' (first | with_reducible assumption | with_reducible apply State.complete_kept | with_reducible apply State.endAll_kept | with_reducible apply State.endSlots_kept | with_reducible apply State.settle_kept | with_reducible apply State.updModel_kept | fail_if_no_progress (with_reducible apply Kept.upd) | with_reducible apply foldl_kept | (intro) | split | (fail_if_no_progress extract_lets) | (fail_if_no_progress beta_reduce) | (dsimp +zetaDelta only) | fail)

theorem State.placing_kept {q : List Instr} (s : State) (w : WaitPlace) (h : Kept q s) : ∀ x y, State.placing s w = some (x, y) → Kept q y := by
  intro x y hy
  unfold State.placing at hy
  split at hy
  · cases hy
  · obtain ⟨k, _, hk⟩ := List.exists_of_findSome?_eq_some hy
    dsimp only at hk
    split at hk
    · exact State.choose_kept _ _ _ _ _ h _ _ hk
    · cases hk

theorem execPlacement_kept {q : List Instr} (model : Fin 256) (s : State) (h : Kept q s) : ∀ y, execPlacement model s = .next y → Kept q y := by
  intro y hy
  unfold execPlacement at hy
  cases hy
  dsimp only
  repeat' (first | exact h | exact State.dropFill_kept _ _ _ h | split)
  rename_i hp
  exact Kept.upd (State.place_kept _ _ (State.placing_kept _ _ h _ _ hp))

theorem State.releasePlot_kept {q : List Instr} (s : State) (b : Nat) (what : Nat) (id : Nat) (h : Kept q s) : Kept q (State.releasePlot s b what id) := by
  unfold State.releasePlot
  repeat' (first | with_reducible assumption | with_reducible apply State.cancelGathers_kept | with_reducible apply State.cancelStreams_kept | with_reducible apply State.setBlock_kept | with_reducible apply State.startScrub_kept | with_reducible apply State.unreserve_kept | with_reducible apply State.updCist_kept | with_reducible apply State.updTiles_kept | fail_if_no_progress (with_reducible apply Kept.upd) | with_reducible apply foldl_kept | (intro) | split | (fail_if_no_progress extract_lets) | (fail_if_no_progress beta_reduce) | (dsimp +zetaDelta only) | fail)

theorem State.freePlot_kept {q : List Instr} (s : State) (b : Nat) (h : Kept q s) : Kept q (State.freePlot s b) := by
  unfold State.freePlot
  repeat' (first | with_reducible assumption | with_reducible apply State.evictModel_kept | with_reducible apply State.releasePlot_kept | with_reducible apply State.settle_kept | with_reducible apply State.updModel_kept | fail_if_no_progress (with_reducible apply Kept.upd) | with_reducible apply foldl_kept | (intro) | split | (fail_if_no_progress extract_lets) | (fail_if_no_progress beta_reduce) | (dsimp +zetaDelta only) | fail)

theorem execPlotRelease_kept {q : List Instr} (lead : Fin 64) (s : State) (h : Kept q s) : ∀ y, execPlotRelease lead s = .next y → Kept q y := by
  intro y hy
  unfold execPlotRelease at hy
  cases hy
  repeat' (first | with_reducible assumption | with_reducible apply State.freePlot_kept | fail_if_no_progress (with_reducible apply Kept.upd) | with_reducible apply foldl_kept | (intro) | split | (fail_if_no_progress extract_lets) | (fail_if_no_progress beta_reduce) | (dsimp +zetaDelta only) | fail)

theorem execScrubComplete_kept {q : List Instr} (id : Nat) (s : State) (h : Kept q s) : ∀ y, execScrubComplete id s = .next y → Kept q y := by
  intro y hy
  unfold execScrubComplete at hy
  cases hy
  repeat' (first | with_reducible assumption | with_reducible apply State.endEvict_kept | with_reducible apply State.endModel_kept | with_reducible apply State.endScrub_kept | with_reducible apply State.finishAdapter_kept | fail_if_no_progress (with_reducible apply Kept.upd) | with_reducible apply foldl_kept | (intro) | split | (fail_if_no_progress extract_lets) | (fail_if_no_progress beta_reduce) | (dsimp +zetaDelta only) | fail)

theorem execFillComplete_kept {q : List Instr} (lead : Fin 64) (s : State) (h : Kept q s) : ∀ y, execFillComplete lead s = .next y → Kept q y := by
  intro y hy
  unfold execFillComplete at hy
  cases hy
  repeat' (first | with_reducible assumption | with_reducible apply State.complete_kept | with_reducible apply State.loadSection_kept | with_reducible apply State.releasePlot_kept | with_reducible apply State.setPlot_kept | with_reducible apply State.updModel_kept | with_reducible apply State.updPlotRegs_kept | with_reducible apply State.writeImages_kept | fail_if_no_progress (with_reducible apply Kept.upd) | with_reducible apply foldl_kept | (intro) | split | (fail_if_no_progress extract_lets) | (fail_if_no_progress beta_reduce) | (dsimp +zetaDelta only) | fail)

theorem State.stopFiring_kept {q : List Instr} (s : State) (p : Plot) (h : Kept q s) : Kept q (State.stopFiring s p) := by
  unfold State.stopFiring
  repeat' (first | with_reducible assumption | with_reducible apply State.updTiles_kept | fail_if_no_progress (with_reducible apply Kept.upd) | with_reducible apply foldl_kept | (intro) | split | (fail_if_no_progress extract_lets) | (fail_if_no_progress beta_reduce) | (dsimp +zetaDelta only) | fail)

theorem execSwitchRequest_kept {q : List Instr} (lead : Fin 64) (s : State) (h : Kept q s) : ∀ y, execSwitchRequest lead s = .next y → Kept q y := by
  intro y hy
  unfold execSwitchRequest at hy
  cases hy
  repeat' (first | with_reducible assumption | with_reducible apply State.setPlot_kept | with_reducible apply State.stopFiring_kept | fail_if_no_progress (with_reducible apply Kept.upd) | with_reducible apply foldl_kept | (intro) | split | (fail_if_no_progress extract_lets) | (fail_if_no_progress beta_reduce) | (dsimp +zetaDelta only) | fail)

theorem execDrainComplete_kept {q : List Instr} (lead : Fin 64) (d : Nat) (s : State) (h : Kept q s) : ∀ y, execDrainComplete lead d s = .next y → Kept q y := by
  intro y hy
  unfold execDrainComplete at hy
  cases hy
  repeat' (first | with_reducible assumption | with_reducible apply State.setPlot_kept | with_reducible apply State.updPlotRegs_kept | with_reducible apply State.updTiles_kept | fail_if_no_progress (with_reducible apply Kept.upd) | with_reducible apply foldl_kept | (intro) | split | (fail_if_no_progress extract_lets) | (fail_if_no_progress beta_reduce) | (dsimp +zetaDelta only) | fail)

theorem execDrainBound_kept {q : List Instr} (lead : Fin 64) (s : State) (h : Kept q s) : ∀ y, execDrainBound lead s = .next y → Kept q y := by
  intro y hy
  unfold execDrainBound at hy
  cases hy
  repeat' (first | with_reducible assumption | with_reducible apply State.force_kept | fail_if_no_progress (with_reducible apply Kept.upd) | with_reducible apply foldl_kept | (intro) | split | (fail_if_no_progress extract_lets) | (fail_if_no_progress beta_reduce) | (dsimp +zetaDelta only) | fail)

theorem State.finishSwitch_kept {q : List Instr} (s : State) (b : Nat) (p : Plot) (last : Bool) (h : Kept q s) : Kept q (State.finishSwitch s b p last) := by
  unfold State.finishSwitch
  repeat' (first | with_reducible assumption | with_reducible apply State.endTask_kept | with_reducible apply State.examineEntries_kept | with_reducible apply State.force_kept | with_reducible apply State.loadSection_kept | with_reducible apply State.setPlot_kept | with_reducible apply State.updPlotRegs_kept | with_reducible apply State.updTiles_kept | fail_if_no_progress (with_reducible apply Kept.upd) | with_reducible apply foldl_kept | (intro) | split | (fail_if_no_progress extract_lets) | (fail_if_no_progress beta_reduce) | (dsimp +zetaDelta only) | fail)

theorem execImageLoadComplete_kept {q : List Instr} (lead : Fin 64) (s : State) (h : Kept q s) : ∀ y, execImageLoadComplete lead s = .next y → Kept q y := by
  intro y hy
  unfold execImageLoadComplete at hy
  cases hy
  repeat' (first | with_reducible assumption | with_reducible apply State.finishSwitch_kept | with_reducible apply State.force_kept | with_reducible apply State.unpark_kept | fail_if_no_progress (with_reducible apply Kept.upd) | with_reducible apply foldl_kept | (intro) | split | (fail_if_no_progress extract_lets) | (fail_if_no_progress beta_reduce) | (dsimp +zetaDelta only) | fail)

theorem State.degrade_kept {q : List Instr} (s : State) (b : Nat) (h : Kept q s) : Kept q (State.degrade s b) := by
  unfold State.degrade
  repeat' (first | with_reducible assumption | with_reducible apply State.endSlots_kept | with_reducible apply State.freePlot_kept | with_reducible apply State.releasePlot_kept | with_reducible apply State.setPlot_kept | with_reducible apply State.settle_kept | with_reducible apply State.updFab_kept | with_reducible apply State.updModel_kept | with_reducible apply State.wantFill_kept | fail_if_no_progress (with_reducible apply Kept.upd) | with_reducible apply foldl_kept | (intro) | split | (fail_if_no_progress extract_lets) | (fail_if_no_progress beta_reduce) | (dsimp +zetaDelta only) | fail)

theorem State.resetPlot_kept {q : List Instr} (s : State) (b : Nat) (p : Plot) (h : Kept q s) : Kept q (State.resetPlot s b p) := by
  unfold State.resetPlot
  refine State.setPlot_kept _ _ _ (State.loadSection_kept _ _ _ _ _ (State.cancelGathers_kept _ _ (State.cancelStreams_kept _ _
    (State.flushPlot_kept _ _ _ (State.updPlotRegs_kept _ _ _ (State.updTiles_kept _ _ _ (Kept.upd ?_)))))))
  exact ite_kept (State.unpark_kept _ _ h) h

theorem State.postForced_kept {q : List Instr} (s : State) (b : Nat) (p : Plot) (h : Kept q s) : Kept q (State.postForced s b p) :=
  State.post_kept _ _ _ _ _ _ _ _ h

theorem State.abortForced_kept {q : List Instr} (s : State) (b : Nat) (p : Plot) (h : Kept q s) : Kept q (State.abortForced s b p) := by
  unfold State.abortForced
  have h1 := foldl_kept (l := s.lateralAborts b) (f := fun (s : State) x => match s.plot x with
    | some y => if y.task.isSome then s.force x 0x0C 0x0403 0 else s
    | none => s) (fun t x ht => by
      split
      · exact ite_kept (State.force_kept _ _ _ _ _ _ ht) ht
      · exact ht) (State.abortTask_kept _ b p.forceStatus p.forceRetry h)
  exact ite_kept (State.sendAbort_kept _ _ _ _ _ _ _ h1) h1

theorem State.dropForced_kept {q : List Instr} (s : State) (b status : Nat) (h : Kept q s) : Kept q (State.dropForced s b status) :=
  State.freePlot_kept _ _ (State.settle_kept _ (State.endSlots_kept _ _ _ h))

theorem State.forcedSwitch_kept {q : List Instr} (s : State) (b : Nat) (h : Kept q s) : Kept q (State.forcedSwitch s b) := by
  unfold State.forcedSwitch
  split
  · exact h
  · rename_i p _
    have h1 := State.postForced_kept _ b p (State.resetPlot_kept s b p h)
    have h2 := ite_kept (c := p.task.isSome = true) (State.abortForced_kept _ b p h1) h1
    exact ite_kept h (ite_kept (State.dropForced_kept _ _ _ h2) (State.degrade_kept _ _ h2))

theorem execForcedSwitch_kept {q : List Instr} (lead : Fin 64) (s : State) (h : Kept q s) : ∀ y, execForcedSwitch lead s = .next y → Kept q y := by
  intro y hy
  unfold execForcedSwitch at hy
  cases hy
  repeat' (first | with_reducible assumption | with_reducible apply State.forcedSwitch_kept | fail_if_no_progress (with_reducible apply Kept.upd) | with_reducible apply foldl_kept | (intro) | split | (fail_if_no_progress extract_lets) | (fail_if_no_progress beta_reduce) | (dsimp +zetaDelta only) | fail)

theorem execPlotForce_kept {q : List Instr} (block : Fin 64) (s : State) (h : Kept q s) : ∀ y, execPlotForce block s = .next y → Kept q y := by
  intro y hy
  unfold execPlotForce at hy
  cases hy
  repeat' (first | with_reducible assumption | with_reducible apply State.force_kept | fail_if_no_progress (with_reducible apply Kept.upd) | with_reducible apply foldl_kept | (intro) | split | (fail_if_no_progress extract_lets) | (fail_if_no_progress beta_reduce) | (dsimp +zetaDelta only) | fail)

theorem execPlotReleaseBit_kept {q : List Instr} (block : Fin 64) (on : Bool) (s : State) (h : Kept q s) : ∀ y, execPlotReleaseBit block on s = .next y → Kept q y := by
  intro y hy
  unfold execPlotReleaseBit at hy
  cases hy
  repeat' (first | with_reducible assumption | with_reducible apply State.setPlot_kept | fail_if_no_progress (with_reducible apply Kept.upd) | with_reducible apply foldl_kept | (intro) | split | (fail_if_no_progress extract_lets) | (fail_if_no_progress beta_reduce) | (dsimp +zetaDelta only) | fail)

theorem execStepLimit_kept {q : List Instr} (lead : Fin 64) (s : State) (h : Kept q s) : ∀ y, execStepLimit lead s = .next y → Kept q y := by
  intro y hy
  unfold execStepLimit at hy
  cases hy
  repeat' (first | with_reducible assumption | with_reducible apply State.force_kept | fail_if_no_progress (with_reducible apply Kept.upd) | with_reducible apply foldl_kept | (intro) | split | (fail_if_no_progress extract_lets) | (fail_if_no_progress beta_reduce) | (dsimp +zetaDelta only) | fail)

theorem State.setYield_kept {q : List Instr} (s : State) (b : Nat) (h : Kept q s) : Kept q (State.setYield s b) := by
  unfold State.setYield
  repeat' (first | with_reducible assumption | with_reducible apply State.setPlot_kept | with_reducible apply State.updTiles_kept | fail_if_no_progress (with_reducible apply Kept.upd) | with_reducible apply foldl_kept | (intro) | split | (fail_if_no_progress extract_lets) | (fail_if_no_progress beta_reduce) | (dsimp +zetaDelta only) | fail)

theorem State.clearYield_kept {q : List Instr} (s : State) (b : Nat) (h : Kept q s) : Kept q (State.clearYield s b) := by
  unfold State.clearYield
  repeat' (first | with_reducible assumption | with_reducible apply State.setPlot_kept | with_reducible apply State.stopFiring_kept | with_reducible apply State.updTiles_kept | fail_if_no_progress (with_reducible apply Kept.upd) | with_reducible apply foldl_kept | (intro) | split | (fail_if_no_progress extract_lets) | (fail_if_no_progress beta_reduce) | (dsimp +zetaDelta only) | fail)

theorem execPlotYieldReq_kept {q : List Instr} (block : Fin 64) (on : Bool) (s : State) (h : Kept q s) : ∀ y, execPlotYieldReq block on s = .next y → Kept q y := by
  intro y hy
  unfold execPlotYieldReq at hy
  cases hy
  repeat' (first | with_reducible assumption | with_reducible apply State.clearYield_kept | with_reducible apply State.setYield_kept | fail_if_no_progress (with_reducible apply Kept.upd) | with_reducible apply foldl_kept | (intro) | split | (fail_if_no_progress extract_lets) | (fail_if_no_progress beta_reduce) | (dsimp +zetaDelta only) | fail)

theorem execYieldBound_kept {q : List Instr} (lead : Fin 64) (s : State) (h : Kept q s) : ∀ y, execYieldBound lead s = .next y → Kept q y := by
  intro y hy
  unfold execYieldBound at hy
  cases hy
  repeat' (first | with_reducible assumption | with_reducible apply State.force_kept | fail_if_no_progress (with_reducible apply Kept.upd) | with_reducible apply foldl_kept | (intro) | split | (fail_if_no_progress extract_lets) | (fail_if_no_progress beta_reduce) | (dsimp +zetaDelta only) | fail)

theorem State.keepSave_kept {q : List Instr} (s : State) (b : Nat) (p : Plot) (h : Kept q s) : Kept q (State.keepSave s b p) :=
  Kept.upd (State.setBlock_kept _ _ _ (State.tick_kept _ _ (State.fwWrite_kept _ _ _ h)))

theorem execSaveComplete_kept {q : List Instr} (lead : Fin 64) (s : State) (h : Kept q s) : ∀ y, execSaveComplete lead s = .next y → Kept q y := by
  intro y hy
  rw [← Host.Outcome.next.inj hy]
  split
  · exact h
  · exact ite_kept h (ite_kept (State.force_kept _ _ _ _ _ _ h) (State.releasePlot_kept _ _ _ _ (State.keepSave_kept _ _ _ h)))

theorem State.resume_kept {q : List Instr} (s : State) (b : Nat) (p : Plot) (k : SavedTask) (task : Option Task) (h : Kept q s) : Kept q (State.resume s b p k task) := by
  unfold State.resume
  repeat' (first | with_reducible assumption | with_reducible apply State.kvFeed_kept | with_reducible apply State.loadSection_kept | with_reducible apply State.setPlot_kept | with_reducible apply State.stopFiring_kept | with_reducible apply State.updPlotRegs_kept | with_reducible apply State.updTile_kept | with_reducible apply State.updTiles_kept | fail_if_no_progress (with_reducible apply Kept.upd) | with_reducible apply foldl_kept | (intro) | split | (fail_if_no_progress extract_lets) | (fail_if_no_progress beta_reduce) | (dsimp +zetaDelta only) | fail)

theorem State.forgetSave_kept {q : List Instr} (s : State) (i : Nat) (h : Kept q s) : Kept q (State.forgetSave s i) := Kept.upd h

theorem execRestore_kept {q : List Instr} (saved : Nat) (s : State) (h : Kept q s) : ∀ y, execRestore saved s = .next y → Kept q y := by
  intro y hy
  unfold execRestore at hy
  cases hy
  repeat' (first | with_reducible assumption | with_reducible apply State.countTier_kept | with_reducible apply State.forgetSave_kept | with_reducible apply State.endSlots_kept | with_reducible apply State.place_kept | with_reducible apply State.resume_kept | with_reducible apply State.settle_kept | with_reducible apply State.writeImages_kept | with_reducible refine State.placing_kept _ _ ?_ _ _ (by with_reducible assumption) | fail_if_no_progress (with_reducible apply Kept.upd) | with_reducible apply foldl_kept | (intro) | split | (fail_if_no_progress extract_lets) | (fail_if_no_progress beta_reduce) | (dsimp +zetaDelta only) | fail)

theorem State.rerun_kept {q : List Instr} (s : State) (b : Nat) (p : Plot) (k : Task) (h : Kept q s) : Kept q (State.rerun s b p k) := by
  unfold State.rerun
  repeat' (first | with_reducible assumption | with_reducible apply State.latStepStart_kept | with_reducible apply State.resume_kept | with_reducible apply State.startTask_kept | fail_if_no_progress (with_reducible apply Kept.upd) | with_reducible apply foldl_kept | (intro) | split | (fail_if_no_progress extract_lets) | (fail_if_no_progress beta_reduce) | (dsimp +zetaDelta only) | fail)

theorem State.mendCopy_kept {q : List Instr} (s : State) (p : Plot) (ok : Bool) (fetched : Option Bytes) (h : Kept q s) :
    ∀ y, State.mendCopy s p ok fetched = some y → Kept q y := by
  intro y hy
  unfold State.mendCopy at hy
  dsimp only at hy
  split at hy
  · cases hy
  · split at hy
    · split at hy
      · exact State.replaceCopy_kept _ _ _ _ h _ hy
      · cases hy; exact h
    · cases hy; exact h

theorem execWeightRetry_kept {q : List Instr} (lead : Fin 64) (ok : Bool) (fetched : Option Bytes) (s : State) (h : Kept q s) : ∀ y, execWeightRetry lead ok fetched s = .next y → Kept q y := by
  intro y hy
  unfold execWeightRetry at hy
  cases hy
  repeat' (first | with_reducible assumption | with_reducible apply State.endSlots_kept | with_reducible apply State.rerun_kept | with_reducible apply State.setPlot_kept | with_reducible apply State.settle_kept | with_reducible refine State.mendCopy_kept _ _ _ _ ?_ _ (by with_reducible assumption) | fail_if_no_progress (with_reducible apply Kept.upd) | with_reducible apply foldl_kept | (intro) | split | (fail_if_no_progress extract_lets) | (fail_if_no_progress beta_reduce) | (dsimp +zetaDelta only) | fail)

end Sys2Proof.Machine
end

