-- ==== Sys2Proof/Laws/KeptSurveyor.lean ====
section
/-! SUPPORT. Every operation of Machine/Surveyor.lean leaves the queue alone and keeps the memories in canonical form. -/

set_option linter.unusedTactic false
set_option linter.unreachableTactic false
set_option linter.unusedVariables false
set_option linter.unnecessarySeqFocus false

namespace Sys2Proof.Machine

theorem State.refit_kept {q : List Instr} (s : State) (b : Nat) (p : Plot) (h : Kept q s) : Kept q (State.refit s b p) := by
  unfold State.refit
  repeat' (first | with_reducible assumption | with_reducible apply State.freePlot_kept | fail_if_no_progress (with_reducible apply Kept.upd) | with_reducible apply foldl_kept | (intro) | split | (fail_if_no_progress extract_lets) | (fail_if_no_progress beta_reduce) | (dsimp +zetaDelta only) | fail)

theorem execSingleTileRetest_kept {q : List Instr} (tile : Fin 4096) (fails : BitVec 7) (us : BitVec 16) (s : State) (h : Kept q s) : ∀ y, execSingleTileRetest tile fails us s = .next y → Kept q y := by
  intro y hy
  unfold execSingleTileRetest at hy
  cases hy
  repeat' (first | with_reducible assumption | with_reducible apply State.refit_kept | with_reducible apply State.selfTestTile_kept | with_reducible apply State.updTile_kept | fail_if_no_progress (with_reducible apply Kept.upd) | with_reducible apply foldl_kept | (intro) | split | (fail_if_no_progress extract_lets) | (fail_if_no_progress beta_reduce) | (dsimp +zetaDelta only) | fail)

theorem State.without_kept {q : List Instr} (s : State) (gone : List Nat) (h : Kept q s) : Kept q (State.without s gone) := by
  unfold State.without
  repeat' (first | with_reducible assumption | with_reducible apply State.setBlock_kept | with_reducible apply State.unreserve_kept | fail_if_no_progress (with_reducible apply Kept.upd) | with_reducible apply foldl_kept | (intro) | split | (fail_if_no_progress extract_lets) | (fail_if_no_progress beta_reduce) | (dsimp +zetaDelta only) | fail)

theorem State.releaseIdle_kept {q : List Instr} (s : State) (plat : Bytes) (id f : Nat) (h : Kept q s) : Kept q (State.releaseIdle s plat id f) := by
  induction f generalizing s with
  | zero => exact h
  | succ f ih =>
    unfold State.releaseIdle
    split
    · exact h
    · extract_lets idle
      split
      · exact h
      · exact ih _ (State.freePlot_kept _ _ h)

theorem State.reexamine_kept {q : List Instr} (s : State) (w : WaitPlace) (h : Kept q s) : Kept q (State.reexamine s w) := by
  unfold State.reexamine
  repeat' (first | with_reducible assumption | with_reducible apply State.releaseIdle_kept | with_reducible apply State.setYield_kept | fail_if_no_progress (with_reducible apply Kept.upd) | with_reducible apply foldl_kept | (intro) | split | (fail_if_no_progress extract_lets) | (fail_if_no_progress beta_reduce) | (dsimp +zetaDelta only) | fail)

theorem State.serviceQuad_kept {q : List Instr} (s : State) (j : QuadJob) (h : Kept q s) : Kept q (State.serviceQuad s j) := by
  unfold State.serviceQuad
  repeat' (first | with_reducible assumption | with_reducible apply State.evictModel_kept | with_reducible apply State.freePlot_kept | with_reducible apply State.place_kept | with_reducible apply State.releasePlot_kept | with_reducible apply State.setPlot_kept | with_reducible apply State.settle_kept | with_reducible apply State.updLe_kept | with_reducible refine State.choose_kept _ _ _ _ _ ?_ _ _ (by with_reducible assumption) | fail_if_no_progress (with_reducible apply Kept.upd) | with_reducible apply foldl_kept | (intro) | split | (fail_if_no_progress extract_lets) | (fail_if_no_progress beta_reduce) | (dsimp +zetaDelta only) | fail)

theorem State.serviceQuads_kept {q : List Instr} (s : State) (h : Kept q s) : Kept q (State.serviceQuads s) := by
  unfold State.serviceQuads
  repeat' (first | with_reducible assumption | with_reducible apply State.serviceQuad_kept | fail_if_no_progress (with_reducible apply Kept.upd) | with_reducible apply foldl_kept | (intro) | split | (fail_if_no_progress extract_lets) | (fail_if_no_progress beta_reduce) | (dsimp +zetaDelta only) | fail)

theorem execSurveyorReexamine_kept {q : List Instr} (t : Nat) (s : State) (h : Kept q s) : ∀ y, execSurveyorReexamine t s = .next y → Kept q y := by
  intro y hy
  unfold execSurveyorReexamine at hy
  cases hy
  repeat' (first | with_reducible assumption | with_reducible apply State.at'_kept | with_reducible apply State.reexamine_kept | with_reducible apply State.serviceQuads_kept | fail_if_no_progress (with_reducible apply Kept.upd) | with_reducible apply foldl_kept | (intro) | split | (fail_if_no_progress extract_lets) | (fail_if_no_progress beta_reduce) | (dsimp +zetaDelta only) | fail)

theorem State.rebalance_kept {q : List Instr} (s : State) (sets : List SetView) (b : Nat) (h : Kept q s) : Kept q (State.rebalance s sets b) := by
  unfold State.rebalance
  repeat' (first | with_reducible assumption | with_reducible apply State.setPlot_kept | fail_if_no_progress (with_reducible apply Kept.upd) | with_reducible apply foldl_kept | (intro) | split | (fail_if_no_progress extract_lets) | (fail_if_no_progress beta_reduce) | (dsimp +zetaDelta only) | fail)

theorem execRebalance_kept {q : List Instr} (t : Nat) (sets : List SetView) (s : State) (h : Kept q s) :
    ∀ y, execRebalance t sets s = .next y → Kept q y := by
  intro y hy
  have he := Host.Outcome.next.inj hy
  rw [← he]
  refine foldl_kept (fun t x ht => State.rebalance_kept _ _ _ ht) ?_
  exact foldl_kept (fun t x ht => State.updParcel_kept _ _ _ ht) (Kept.upd (State.at'_kept _ _ h))

theorem State.handIn_kept {q : List Instr} (s : State) (h' : HandIn) (h : Kept q s) : Kept q (State.handIn s h') := by
  unfold State.handIn
  repeat' (first | with_reducible assumption | with_reducible apply State.fwWrite_kept | with_reducible apply State.growPages_kept | with_reducible apply State.refAdapter_kept | with_reducible apply State.setRegion_kept | with_reducible apply State.takeSpace_kept | with_reducible apply State.updReq_kept | fail_if_no_progress (with_reducible apply Kept.upd) | with_reducible apply foldl_kept | (intro) | split | (fail_if_no_progress extract_lets) | (fail_if_no_progress beta_reduce) | (dsimp +zetaDelta only) | fail)

theorem execHandoffCopyComplete_kept {q : List Instr} (handle : BitVec 32) (home : Option (BitVec 64)) (ok : Bool) (dest : BitVec 64) (arrive : Option HandIn) (s : State) (h : Kept q s) : ∀ y, execHandoffCopyComplete handle home ok dest arrive s = .next y → Kept q y := by
  intro y hy
  unfold execHandoffCopyComplete at hy
  cases hy
  repeat' (first | with_reducible assumption | with_reducible apply State.closeReq_kept | with_reducible apply State.collect_kept | with_reducible apply State.endReq_kept | with_reducible apply State.handIn_kept | with_reducible apply State.settle_kept | with_reducible apply State.updReq_kept | fail_if_no_progress (with_reducible apply Kept.upd) | with_reducible apply foldl_kept | (intro) | split | (fail_if_no_progress extract_lets) | (fail_if_no_progress beta_reduce) | (dsimp +zetaDelta only) | fail)

theorem execReturnedTokens_kept {q : List Instr} (handle : BitVec 32) (pos : Nat) (toks : List (BitVec 32)) (fin : Option (BitVec 16)) (s : State) (h : Kept q s) : ∀ y, execReturnedTokens handle pos toks fin s = .next y → Kept q y := by
  intro y hy
  unfold execReturnedTokens at hy
  cases hy
  repeat' (first | with_reducible assumption | with_reducible apply State.emitTokens_kept | with_reducible apply State.endReq_kept | with_reducible apply State.settle_kept | with_reducible apply State.updReq_kept | fail_if_no_progress (with_reducible apply Kept.upd) | with_reducible apply foldl_kept | (intro) | split | (fail_if_no_progress extract_lets) | (fail_if_no_progress beta_reduce) | (dsimp +zetaDelta only) | fail)

theorem State.failFill_kept {q : List Instr} (s : State) (b : Nat) (a : Nat) (h : Kept q s) : Kept q (State.failFill s b a) := by
  unfold State.failFill
  repeat' (first | with_reducible assumption | with_reducible apply State.dropFill_kept | with_reducible apply State.holdModel_kept | with_reducible apply State.post_kept | with_reducible apply State.releasePlot_kept | with_reducible apply State.updLoad_kept | with_reducible apply State.updModel_kept | fail_if_no_progress (with_reducible apply Kept.upd) | with_reducible apply foldl_kept | (intro) | split | (fail_if_no_progress extract_lets) | (fail_if_no_progress beta_reduce) | (dsimp +zetaDelta only) | fail)

theorem State.reissue_kept {q : List Instr} (s : State) (e : Nat) (c : SlCmd) (h : Kept q s) : Kept q (State.reissue s e c) := by
  unfold State.reissue
  repeat' (first | with_reducible assumption | with_reducible apply State.slSubmit_kept | fail_if_no_progress (with_reducible apply Kept.upd) | with_reducible apply foldl_kept | (intro) | split | (fail_if_no_progress extract_lets) | (fail_if_no_progress beta_reduce) | (dsimp +zetaDelta only) | fail)

theorem State.repairFill_kept {q : List Instr} (s : State) (e b : Nat) (c : SlCmd) (a : Nat) (fetched : Option Bytes) (h : Kept q s) :
    Kept q (State.repairFill s e b c a fetched) := by
  unfold State.repairFill
  split
  · rename_i hy
    obtain ⟨p, _, hp⟩ := Option.bind_eq_some_iff.1 hy
    split at hp
    · exact State.reissue_kept _ _ _ (State.replaceCopy_kept _ _ _ _ h _ hp)
    · cases hp
  · exact State.failFill_kept _ _ _ h

theorem State.dropSave_kept {q : List Instr} (s : State) (b : Nat) (h : Kept q s) : Kept q (State.dropSave s b) := by
  unfold State.dropSave
  repeat' (first | with_reducible assumption | with_reducible apply State.abortTask_kept | with_reducible apply State.freePlot_kept | fail_if_no_progress (with_reducible apply Kept.upd) | with_reducible apply foldl_kept | (intro) | split | (fail_if_no_progress extract_lets) | (fail_if_no_progress beta_reduce) | (dsimp +zetaDelta only) | fail)

theorem State.mendVersion_kept {q : List Instr} (s : State) (i : Nat) (n : Nat) (k : Nat) (h : Kept q s) : Kept q (State.mendVersion s i n k) := by
  unfold State.mendVersion
  repeat' (first | with_reducible assumption | with_reducible apply State.updVersion_kept | with_reducible refine State.replaceCopy_kept _ _ _ _ ?_ _ (by with_reducible assumption) | fail_if_no_progress (with_reducible apply Kept.upd) | with_reducible apply foldl_kept | (intro) | split | (fail_if_no_progress extract_lets) | (fail_if_no_progress beta_reduce) | (dsimp +zetaDelta only) | fail)

theorem State.damage_kept {q : List Instr} (s : State) (a : Nat) (h : Kept q s) : Kept q (State.damage s a) := by
  unfold State.damage
  repeat' (first | with_reducible assumption | with_reducible apply State.mendVersion_kept | with_reducible apply State.startLoads_kept | with_reducible apply State.updAdapter_kept | with_reducible apply State.updPrefix_kept | fail_if_no_progress (with_reducible apply Kept.upd) | with_reducible apply foldl_kept | (intro) | split | (fail_if_no_progress extract_lets) | (fail_if_no_progress beta_reduce) | (dsimp +zetaDelta only) | fail)

theorem State.slDynamic_kept {q : List Instr} (s : State) (e : Nat) (c : SlCmd) (cause : Nat) (a : Nat) (cl : Nat) (r : Nat) (fetched : Option Bytes) (h : Kept q s) : Kept q (State.slDynamic s e c cause a cl r fetched) := by
  unfold State.slDynamic
  repeat' (first | with_reducible assumption | with_reducible apply State.dropSave_kept | with_reducible apply State.endReq_kept | with_reducible apply State.repairFill_kept | with_reducible apply State.setPlot_kept | with_reducible apply State.settle_kept | fail_if_no_progress (with_reducible apply Kept.upd) | with_reducible apply foldl_kept | (intro) | split | (fail_if_no_progress extract_lets) | (fail_if_no_progress beta_reduce) | (dsimp +zetaDelta only) | fail)

theorem State.kvEnd_kept {q : List Instr} (s : State) (e : Nat) (c : SlCmd) (ok : Bool) (h : Kept q s) : Kept q (State.kvEnd s e c ok) := by
  unfold State.kvEnd
  repeat' (first | with_reducible assumption | with_reducible apply State.kvDone_kept | with_reducible apply State.kvFeed_kept | fail_if_no_progress (with_reducible apply Kept.upd) | with_reducible apply foldl_kept | (intro) | split | (fail_if_no_progress extract_lets) | (fail_if_no_progress beta_reduce) | (dsimp +zetaDelta only) | fail)

theorem State.noteCopy_kept {q : List Instr} (s : State) (c : SlCmd) (cause : Nat) (a : Nat) (cl : Nat) (h : Kept q s) : Kept q (State.noteCopy s c cause a cl) := by
  unfold State.noteCopy
  repeat' (first | with_reducible assumption | with_reducible apply State.setPlot_kept | fail_if_no_progress (with_reducible apply Kept.upd) | with_reducible apply foldl_kept | (intro) | split | (fail_if_no_progress extract_lets) | (fail_if_no_progress beta_reduce) | (dsimp +zetaDelta only) | fail)

theorem State.slReport_kept {q : List Instr} (s : State) (e : Nat) (c : SlCmd) (code a cl r : Nat) (h : Kept q s) :
    Kept q (State.slReport s e c code a cl r) := by
  unfold State.slReport
  repeat' (first | with_reducible assumption | with_reducible apply State.noteCopy_kept | with_reducible apply State.slOutcome_kept | with_reducible apply State.damage_kept | with_reducible apply State.post_kept | with_reducible apply State.signal_kept | with_reducible apply State.updEngine_kept | fail_if_no_progress (with_reducible apply Kept.upd) | with_reducible apply foldl_kept | (intro) | split | (fail_if_no_progress extract_lets) | (fail_if_no_progress beta_reduce) | (dsimp +zetaDelta only) | fail)

theorem execSluiceComplete_kept {q : List Instr} (engine : Fin 64) (index : BitVec 20) (fetched : Option Bytes) (s : State) (h : Kept q s) : ∀ y, execSluiceComplete engine index fetched s = .next y → Kept q y := by
  intro y hy
  unfold execSluiceComplete at hy
  cases hy
  repeat' (first | with_reducible assumption | with_reducible apply State.engineSignal_kept | with_reducible apply State.kvEnd_kept | with_reducible apply State.serveEngine_kept | with_reducible apply State.signal_kept | with_reducible apply State.slDynamic_kept | with_reducible apply State.slReport_kept | with_reducible apply State.updEngine_kept | fail_if_no_progress (with_reducible apply Kept.upd) | with_reducible apply foldl_kept | (intro) | split | (fail_if_no_progress extract_lets) | (fail_if_no_progress beta_reduce) | (dsimp +zetaDelta only) | fail)

theorem State.mendRow_kept {q : List Instr} (s : State) (id k : Nat) (fetched : Option Bytes) (h : Kept q s) : Kept q (State.mendRow s id k fetched) := by
  unfold State.mendRow
  cases hy : s.replaceCopy (modelRef (id % 256)) k fetched with
  | none => exact h
  | some y => exact State.replaceCopy_kept _ _ _ _ h _ hy

theorem State.rowTaken_kept {q : List Instr} (s : State) (i : Nat) (x : GRow) (turn quantum : Nat) (b : Bag) (h : Kept q s) : Kept q (State.rowTaken s i x turn quantum b) := by
  unfold State.rowTaken
  repeat' (first | with_reducible assumption | with_reducible apply State.updGe_kept | fail_if_no_progress (with_reducible apply Kept.upd) | with_reducible apply foldl_kept | (intro) | split | (fail_if_no_progress extract_lets) | (fail_if_no_progress beta_reduce) | (dsimp +zetaDelta only) | fail)

theorem State.rowFailed_kept {q : List Instr} (s : State) (i : Nat) (x : GRow) (c u : Nat) (fetched : Option Bytes) (h : Kept q s) : Kept q (State.rowFailed s i x c u fetched) := by
  unfold State.rowFailed
  repeat' (first | with_reducible assumption | with_reducible apply State.mendRow_kept | with_reducible apply State.geErr_kept | with_reducible apply State.countTier_kept | fail_if_no_progress (with_reducible apply Kept.upd) | with_reducible apply foldl_kept | (intro) | split | (fail_if_no_progress extract_lets) | (fail_if_no_progress beta_reduce) | (dsimp +zetaDelta only) | fail)

theorem execRowRead_kept {q : List Instr} (ge : Fin 96) (poison : Bool) (fetched : Option Bytes) (s : State) (h : Kept q s) : ∀ y, execRowRead ge poison fetched s = .next y → Kept q y := by
  intro y hy
  unfold execRowRead at hy
  cases hy
  repeat' (first | with_reducible assumption | with_reducible apply State.closeBag_kept | with_reducible apply State.rowFailed_kept | with_reducible apply State.rowTaken_kept | fail_if_no_progress (with_reducible apply Kept.upd) | with_reducible apply foldl_kept | (intro) | split | (fail_if_no_progress extract_lets) | (fail_if_no_progress beta_reduce) | (dsimp +zetaDelta only) | fail)

end Sys2Proof.Machine
end

