-- ==== Sys2Proof/Laws/KeptLinks.lean ====
section
/-! SUPPORT. Every operation of Machine/Links.lean leaves the queue alone and keeps the memories in canonical form. -/

set_option linter.unusedTactic false
set_option linter.unreachableTactic false
set_option linter.unusedVariables false
set_option linter.unnecessarySeqFocus false

namespace Sys2Proof.Machine

theorem State.setValid_kept {q : List Instr} (s : State) (v : Bool) (h : Kept q s) : Kept q (State.setValid s v) := by
  unfold State.setValid
  repeat' (first | with_reducible assumption | with_reducible apply State.post_kept | with_reducible apply State.signal_kept | fail_if_no_progress (with_reducible apply Kept.upd) | with_reducible apply foldl_kept | (intro) | split | (fail_if_no_progress extract_lets) | (fail_if_no_progress beta_reduce) | (dsimp +zetaDelta only) | fail)

theorem State.loseLock_kept {q : List Instr} (s : State) (h : Kept q s) : Kept q (State.loseLock s) := by
  unfold State.loseLock
  repeat' (first | with_reducible assumption | fail_if_no_progress (with_reducible apply Kept.upd) | with_reducible apply foldl_kept | (intro) | split | (fail_if_no_progress extract_lets) | (fail_if_no_progress beta_reduce) | (dsimp +zetaDelta only) | fail)

theorem State.movePtp_kept {q : List Instr} (s : State) (h : Kept q s) : Kept q (State.movePtp s) := by
  unfold State.movePtp
  repeat' (first | with_reducible assumption | with_reducible apply State.loseLock_kept | fail_if_no_progress (with_reducible apply Kept.upd) | with_reducible apply foldl_kept | (intro) | split | (fail_if_no_progress extract_lets) | (fail_if_no_progress beta_reduce) | (dsimp +zetaDelta only) | fail)

theorem State.ethDown_kept {q : List Instr} (s : State) (i : Nat) (h : Kept q s) : Kept q (State.ethDown s i) := by
  unfold State.ethDown
  repeat' (first | with_reducible assumption | with_reducible apply State.movePtp_kept | with_reducible apply State.post_kept | with_reducible apply State.signal_kept | fail_if_no_progress (with_reducible apply Kept.upd) | with_reducible apply foldl_kept | (intro) | split | (fail_if_no_progress extract_lets) | (fail_if_no_progress beta_reduce) | (dsimp +zetaDelta only) | fail)

theorem State.cxlDown_kept {q : List Instr} (s : State) (q' : Nat) (h : Kept q s) : Kept q (State.cxlDown s q') := by
  unfold State.cxlDown
  repeat' (first | with_reducible assumption | with_reducible apply State.countTier_kept | with_reducible apply State.post_kept | with_reducible apply State.signal_kept | with_reducible apply State.slAqFail_kept | with_reducible apply State.slFree_kept | with_reducible apply State.updQuad_kept | fail_if_no_progress (with_reducible apply Kept.upd) | with_reducible apply foldl_kept | (intro) | split | (fail_if_no_progress extract_lets) | (fail_if_no_progress beta_reduce) | (dsimp +zetaDelta only) | fail)

theorem State.fpErr_kept {q : List Instr} (s : State) (i : Nat) (cause : Nat) (h : Kept q s) : Kept q (State.fpErr s i cause) := by
  unfold State.fpErr
  repeat' (first | with_reducible assumption | with_reducible apply State.post_kept | with_reducible apply State.signal_kept | with_reducible apply State.updFport_kept | fail_if_no_progress (with_reducible apply Kept.upd) | with_reducible apply foldl_kept | (intro) | split | (fail_if_no_progress extract_lets) | (fail_if_no_progress beta_reduce) | (dsimp +zetaDelta only) | fail)

theorem State.quarantine_kept {q : List Instr} (s : State) (i : Nat) (h : Kept q s) : Kept q (State.quarantine s i) := by
  unfold State.quarantine
  repeat' (first | with_reducible assumption | with_reducible apply State.fpErr_kept | with_reducible apply State.post_kept | with_reducible apply State.updFport_kept | fail_if_no_progress (with_reducible apply Kept.upd) | with_reducible apply foldl_kept | (intro) | split | (fail_if_no_progress extract_lets) | (fail_if_no_progress beta_reduce) | (dsimp +zetaDelta only) | fail)

theorem State.startAgree_kept {q : List Instr} (s : State) (id : Nat) (cause : Nat) (h : Kept q s) : Kept q (State.startAgree s id cause) := by
  unfold State.startAgree
  repeat' (first | with_reducible assumption | with_reducible apply State.updFab_kept | fail_if_no_progress (with_reducible apply Kept.upd) | with_reducible apply foldl_kept | (intro) | split | (fail_if_no_progress extract_lets) | (fail_if_no_progress beta_reduce) | (dsimp +zetaDelta only) | fail)

theorem State.failRemote_kept {q : List Instr} (s : State) (i : Nat) (h : Kept q s) : Kept q (State.failRemote s i) := by
  unfold State.failRemote
  repeat' (first | with_reducible assumption | with_reducible apply State.updEngine_kept | fail_if_no_progress (with_reducible apply Kept.upd) | with_reducible apply foldl_kept | (intro) | split | (fail_if_no_progress extract_lets) | (fail_if_no_progress beta_reduce) | (dsimp +zetaDelta only) | fail)

theorem State.losePeer_kept {q : List Instr} (s : State) (far : Nat) (status : Nat) (h : Kept q s) : Kept q (State.losePeer s far status) := by
  unfold State.losePeer
  repeat' (first | with_reducible assumption | with_reducible apply State.dropReq_kept | with_reducible apply State.endAll_kept | with_reducible apply State.settle_kept | fail_if_no_progress (with_reducible apply Kept.upd) | with_reducible apply foldl_kept | (intro) | split | (fail_if_no_progress extract_lets) | (fail_if_no_progress beta_reduce) | (dsimp +zetaDelta only) | fail)

theorem State.linkDown_kept {q : List Instr} (s : State) (i : Nat) (h : Kept q s) : Kept q (State.linkDown s i) := by
  unfold State.linkDown
  repeat' (first | with_reducible assumption | with_reducible apply State.failRemote_kept | with_reducible apply State.force_kept | with_reducible apply State.losePeer_kept | with_reducible apply State.post_kept | with_reducible apply State.sendAbort_kept | with_reducible apply State.signal_kept | with_reducible apply State.startAgree_kept | with_reducible apply State.updFport_kept | fail_if_no_progress (with_reducible apply Kept.upd) | with_reducible apply foldl_kept | (intro) | split | (fail_if_no_progress extract_lets) | (fail_if_no_progress beta_reduce) | (dsimp +zetaDelta only) | fail)

theorem State.takeDown_kept {q : List Instr} (s : State) (i : Nat) (h : Kept q s) : Kept q (State.takeDown s i) := by
  unfold State.takeDown
  repeat' (first | with_reducible assumption | with_reducible apply State.linkDown_kept | with_reducible apply State.updFport_kept | fail_if_no_progress (with_reducible apply Kept.upd) | with_reducible apply foldl_kept | (intro) | split | (fail_if_no_progress extract_lets) | (fail_if_no_progress beta_reduce) | (dsimp +zetaDelta only) | fail)

theorem State.resetLink_kept {q : List Instr} (s : State) (i : Nat) (h : Kept q s) : Kept q (State.resetLink s i) := by
  unfold State.resetLink
  repeat' (first | with_reducible assumption | with_reducible apply State.takeDown_kept | with_reducible apply State.updFport_kept | fail_if_no_progress (with_reducible apply Kept.upd) | with_reducible apply foldl_kept | (intro) | split | (fail_if_no_progress extract_lets) | (fail_if_no_progress beta_reduce) | (dsimp +zetaDelta only) | fail)

theorem State.startTrain_kept {q : List Instr} (s : State) (f : Nat) (h : Kept q s) : Kept q (State.startTrain s f) := by
  induction f generalizing s with
  | zero => exact h
  | succ f ih =>
    unfold State.startTrain
    split
    · exact h
    · split
      · split
        · exact State.resetLink_kept _ _ h
        · exact ih _ (Kept.upd (State.complete_kept _ _ _ _ (State.takeDown_kept _ _ h)))
      · split
        · exact State.ethDown_kept _ _ h
        · exact Kept.upd (State.cxlDown_kept _ _ h)

theorem State.trainEnd_kept {q : List Instr} (s : State) (kind : Nat) (index : Nat) (h : Kept q s) : Kept q (State.trainEnd s kind index) := by
  unfold State.trainEnd
  repeat' (first | with_reducible assumption | with_reducible apply State.complete_kept | with_reducible apply State.startTrain_kept | fail_if_no_progress (with_reducible apply Kept.upd) | with_reducible apply foldl_kept | (intro) | split | (fail_if_no_progress extract_lets) | (fail_if_no_progress beta_reduce) | (dsimp +zetaDelta only) | fail)

theorem State.addTrain_kept {q : List Instr} (s : State) (j : TrainJob) (h : Kept q s) : Kept q (State.addTrain s j) := by
  unfold State.addTrain
  repeat' (first | with_reducible assumption | with_reducible apply State.startTrain_kept | fail_if_no_progress (with_reducible apply Kept.upd) | with_reducible apply foldl_kept | (intro) | split | (fail_if_no_progress extract_lets) | (fail_if_no_progress beta_reduce) | (dsimp +zetaDelta only) | fail)

theorem execLinkTrainingStart_kept {q : List Instr} (port : Fin 12) (t : Nat) (s : State) (h : Kept q s) : ∀ y, execLinkTrainingStart port t s = .next y → Kept q y := by
  intro y hy
  unfold execLinkTrainingStart at hy
  cases hy
  repeat' (first | with_reducible assumption | with_reducible apply State.at'_kept | with_reducible apply State.updFport_kept | fail_if_no_progress (with_reducible apply Kept.upd) | with_reducible apply foldl_kept | (intro) | split | (fail_if_no_progress extract_lets) | (fail_if_no_progress beta_reduce) | (dsimp +zetaDelta only) | fail)

theorem execLanesTrained_kept {q : List Instr} (port : Fin 12) (t : Nat) (s : State) (h : Kept q s) : ∀ y, execLanesTrained port t s = .next y → Kept q y := by
  intro y hy
  unfold execLanesTrained at hy
  cases hy
  repeat' (first | with_reducible assumption | with_reducible apply State.at'_kept | with_reducible apply State.signal_kept | with_reducible apply State.updFport_kept | fail_if_no_progress (with_reducible apply Kept.upd) | with_reducible apply foldl_kept | (intro) | split | (fail_if_no_progress extract_lets) | (fail_if_no_progress beta_reduce) | (dsimp +zetaDelta only) | fail)

theorem execTrainingTimeout_kept {q : List Instr} (port : Fin 12) (lanes : BitVec 4) (t : Nat) (s : State) (h : Kept q s) : ∀ y, execTrainingTimeout port lanes t s = .next y → Kept q y := by
  intro y hy
  unfold execTrainingTimeout at hy
  cases hy
  repeat' (first | with_reducible assumption | with_reducible apply State.at'_kept | with_reducible apply State.fpErr_kept | with_reducible apply State.trainEnd_kept | with_reducible apply State.updFport_kept | fail_if_no_progress (with_reducible apply Kept.upd) | with_reducible apply foldl_kept | (intro) | split | (fail_if_no_progress extract_lets) | (fail_if_no_progress beta_reduce) | (dsimp +zetaDelta only) | fail)

theorem execBenchmarkReceived_kept {q : List Instr} (port : Fin 12) (serial : BitVec 64) (slot : BitVec 2) (far : BitVec 4) (step : BitVec 8) (rtt : BitVec 16) (t : Nat) (s : State) (h : Kept q s) : ∀ y, execBenchmarkReceived port serial slot far step rtt t s = .next y → Kept q y := by
  intro y hy
  unfold execBenchmarkReceived at hy
  cases hy
  repeat' (first | with_reducible assumption | with_reducible apply State.at'_kept | with_reducible apply State.linkDown_kept | with_reducible apply State.put_kept | with_reducible apply State.quarantine_kept | with_reducible apply State.signal_kept | with_reducible apply State.trainEnd_kept | with_reducible apply State.updFport_kept | fail_if_no_progress (with_reducible apply Kept.upd) | with_reducible apply foldl_kept | (intro) | split | (fail_if_no_progress extract_lets) | (fail_if_no_progress beta_reduce) | (dsimp +zetaDelta only) | fail)

theorem execBenchmarkSend_kept {q : List Instr} (port : Fin 12) (s : State) (h : Kept q s) : ∀ y, execBenchmarkSend port s = .next y → Kept q y := by
  intro y hy
  unfold execBenchmarkSend at hy
  cases hy
  repeat' (first | with_reducible assumption | with_reducible apply State.setFport_kept | fail_if_no_progress (with_reducible apply Kept.upd) | with_reducible apply foldl_kept | (intro) | split | (fail_if_no_progress extract_lets) | (fail_if_no_progress beta_reduce) | (dsimp +zetaDelta only) | fail)

theorem State.recoverLink_kept {q : List Instr} (s : State) (i : Nat) (replay : Bool) (h : Kept q s) : Kept q (State.recoverLink s i replay) := by
  unfold State.recoverLink
  repeat' (first | with_reducible assumption | with_reducible apply State.fpErr_kept | with_reducible apply State.signal_kept | with_reducible apply State.updFport_kept | fail_if_no_progress (with_reducible apply Kept.upd) | with_reducible apply foldl_kept | (intro) | split | (fail_if_no_progress extract_lets) | (fail_if_no_progress beta_reduce) | (dsimp +zetaDelta only) | fail)

theorem State.resend_kept {q : List Instr} (s : State) (i : Nat) (h : Kept q s) : Kept q (State.resend s i) := by
  unfold State.resend
  repeat' (first | with_reducible assumption | with_reducible apply State.recoverLink_kept | with_reducible apply State.updFport_kept | fail_if_no_progress (with_reducible apply Kept.upd) | with_reducible apply foldl_kept | (intro) | split | (fail_if_no_progress extract_lets) | (fail_if_no_progress beta_reduce) | (dsimp +zetaDelta only) | fail)

theorem execLinkLoss_kept {q : List Instr} (port : Fin 12) (replay : Bool) (t : Nat) (s : State) (h : Kept q s) : ∀ y, execLinkLoss port replay t s = .next y → Kept q y := by
  intro y hy
  unfold execLinkLoss at hy
  cases hy
  repeat' (first | with_reducible assumption | with_reducible apply State.at'_kept | with_reducible apply State.recoverLink_kept | fail_if_no_progress (with_reducible apply Kept.upd) | with_reducible apply foldl_kept | (intro) | split | (fail_if_no_progress extract_lets) | (fail_if_no_progress beta_reduce) | (dsimp +zetaDelta only) | fail)

theorem execRecoverRelock_kept {q : List Instr} (port : Fin 12) (same : Bool) (t : Nat) (s : State) (h : Kept q s) : ∀ y, execRecoverRelock port same t s = .next y → Kept q y := by
  intro y hy
  unfold execRecoverRelock at hy
  cases hy
  repeat' (first | with_reducible assumption | with_reducible apply State.at'_kept | with_reducible apply State.linkDown_kept | with_reducible apply State.quarantine_kept | with_reducible apply State.resend_kept | with_reducible apply State.signal_kept | with_reducible apply State.updFport_kept | fail_if_no_progress (with_reducible apply Kept.upd) | with_reducible apply foldl_kept | (intro) | split | (fail_if_no_progress extract_lets) | (fail_if_no_progress beta_reduce) | (dsimp +zetaDelta only) | fail)

theorem execRecoverTimeout_kept {q : List Instr} (port : Fin 12) (t : Nat) (s : State) (h : Kept q s) : ∀ y, execRecoverTimeout port t s = .next y → Kept q y := by
  intro y hy
  unfold execRecoverTimeout at hy
  cases hy
  repeat' (first | with_reducible assumption | with_reducible apply State.at'_kept | with_reducible apply State.fpErr_kept | with_reducible apply State.linkDown_kept | fail_if_no_progress (with_reducible apply Kept.upd) | with_reducible apply foldl_kept | (intro) | split | (fail_if_no_progress extract_lets) | (fail_if_no_progress beta_reduce) | (dsimp +zetaDelta only) | fail)

theorem execDiscoveryEnd_kept {q : List Instr} (t : Nat) (s : State) (h : Kept q s) : ∀ y, execDiscoveryEnd t s = .next y → Kept q y := by
  intro y hy
  unfold execDiscoveryEnd at hy
  cases hy
  repeat' (first | with_reducible assumption | with_reducible apply State.at'_kept | with_reducible apply State.complete_kept | with_reducible apply State.signal_kept | with_reducible apply State.updFab_kept | with_reducible apply State.updFport_kept | fail_if_no_progress (with_reducible apply Kept.upd) | with_reducible apply foldl_kept | (intro) | split | (fail_if_no_progress extract_lets) | (fail_if_no_progress beta_reduce) | (dsimp +zetaDelta only) | fail)

theorem execFpCtrlEnable_kept {q : List Instr} (port : Fin 12) (on : Bool) (t : Nat) (s : State) (h : Kept q s) : ∀ y, execFpCtrlEnable port on t s = .next y → Kept q y := by
  intro y hy
  unfold execFpCtrlEnable at hy
  cases hy
  repeat' (first | with_reducible assumption | with_reducible apply State.at'_kept | with_reducible apply State.takeDown_kept | with_reducible apply State.trainEnd_kept | with_reducible apply State.updFport_kept | fail_if_no_progress (with_reducible apply Kept.upd) | with_reducible apply foldl_kept | (intro) | split | (fail_if_no_progress extract_lets) | (fail_if_no_progress beta_reduce) | (dsimp +zetaDelta only) | fail)

theorem execFpCtrlRetrain_kept {q : List Instr} (port : Fin 12) (t : Nat) (s : State) (h : Kept q s) : ∀ y, execFpCtrlRetrain port t s = .next y → Kept q y := by
  intro y hy
  unfold execFpCtrlRetrain at hy
  cases hy
  repeat' (first | with_reducible assumption | with_reducible apply State.at'_kept | with_reducible apply State.resetLink_kept | fail_if_no_progress (with_reducible apply Kept.upd) | with_reducible apply foldl_kept | (intro) | split | (fail_if_no_progress extract_lets) | (fail_if_no_progress beta_reduce) | (dsimp +zetaDelta only) | fail)

theorem State.planLinks_kept {q : List Instr} (s : State) (h : Kept q s) : Kept q (State.planLinks s) := by
  unfold State.planLinks
  repeat' (first | with_reducible assumption | with_reducible apply State.linkDown_kept | with_reducible apply State.quarantine_kept | with_reducible apply State.updFport_kept | fail_if_no_progress (with_reducible apply Kept.upd) | with_reducible apply foldl_kept | (intro) | split | (fail_if_no_progress extract_lets) | (fail_if_no_progress beta_reduce) | (dsimp +zetaDelta only) | fail)

end Sys2Proof.Machine
end

