-- ==== Sys2Proof/Laws/KeptMessages.lean ====
section
/-! SUPPORT. Every operation of Machine/Messages.lean leaves the queue alone and keeps the memories in canonical form. -/

set_option linter.unusedTactic false
set_option linter.unreachableTactic false
set_option linter.unusedVariables false
set_option linter.unnecessarySeqFocus false

namespace Sys2Proof.Machine

theorem State.fabRefuse_kept {q : List Instr} (s : State) (i : Nat) (h : Kept q s) : Kept q (State.fabRefuse s i) := by
  unfold State.fabRefuse
  repeat' (first | with_reducible assumption | with_reducible apply State.updFport_kept | fail_if_no_progress (with_reducible apply Kept.upd) | with_reducible apply foldl_kept | (intro) | split | (fail_if_no_progress extract_lets) | (fail_if_no_progress beta_reduce) | (dsimp +zetaDelta only) | fail)

theorem State.fabReply_kept {q : List Instr} (s : State) (m : FabMsg) (kind : Nat) (status : Nat) (data : Bytes) (h : Kept q s) : Kept q (State.fabReply s m kind status data) := by
  unfold State.fabReply
  repeat' (first | with_reducible assumption | with_reducible apply State.fabSend_kept | fail_if_no_progress (with_reducible apply Kept.upd) | with_reducible apply foldl_kept | (intro) | split | (fail_if_no_progress extract_lets) | (fail_if_no_progress beta_reduce) | (dsimp +zetaDelta only) | fail)

theorem State.msgWrite_kept {q : List Instr} (s : State) (i : Nat) (m : FabMsg) (h : Kept q s) : Kept q (State.msgWrite s i m) := by
  unfold State.msgWrite
  repeat' (first | with_reducible assumption | with_reducible apply State.fabRefuse_kept | with_reducible apply State.fabReply_kept | with_reducible apply State.put_kept | fail_if_no_progress (with_reducible apply Kept.upd) | with_reducible apply foldl_kept | (intro) | split | (fail_if_no_progress extract_lets) | (fail_if_no_progress beta_reduce) | (dsimp +zetaDelta only) | fail)

theorem State.msgRead_kept {q : List Instr} (s : State) (i : Nat) (m : FabMsg) (h : Kept q s) : Kept q (State.msgRead s i m) := by
  unfold State.msgRead
  repeat' (first | with_reducible assumption | with_reducible apply State.countTier_kept | with_reducible apply State.fabRefuse_kept | with_reducible apply State.fabReply_kept | fail_if_no_progress (with_reducible apply Kept.upd) | with_reducible apply foldl_kept | (intro) | split | (fail_if_no_progress extract_lets) | (fail_if_no_progress beta_reduce) | (dsimp +zetaDelta only) | fail)

theorem State.msgReply_kept {q : List Instr} (s : State) (m : FabMsg) (phase : SlPhase) (act : Nat → SlCmd → State) (h : Kept q s) (hfact : ∀ x0 x1, Kept q (act x0 x1)) : Kept q (State.msgReply s m phase act) := by
  unfold State.msgReply
  repeat' (first | with_reducible assumption | with_reducible apply State.slFail_kept | with_reducible apply State.slStale_kept | with_reducible apply hfact | fail_if_no_progress (with_reducible apply Kept.upd) | with_reducible apply foldl_kept | (intro) | split | (fail_if_no_progress extract_lets) | (fail_if_no_progress beta_reduce) | (dsimp +zetaDelta only) | fail)

theorem State.msgReadData_kept {q : List Instr} (s : State) (m : FabMsg) (h : Kept q s) : Kept q (State.msgReadData s m) := by
  unfold State.msgReadData
  repeat' (first | with_reducible assumption | with_reducible apply State.msgReply_kept | with_reducible apply State.updEngine_kept | fail_if_no_progress (with_reducible apply Kept.upd) | with_reducible apply foldl_kept | (intro) | split | (fail_if_no_progress extract_lets) | (fail_if_no_progress beta_reduce) | (dsimp +zetaDelta only) | fail)

theorem State.msgWriteAck_kept {q : List Instr} (s : State) (m : FabMsg) (h : Kept q s) : Kept q (State.msgWriteAck s m) := by
  unfold State.msgWriteAck
  repeat' (first | with_reducible assumption | with_reducible apply State.msgReply_kept | with_reducible apply State.plistFull_kept | with_reducible apply State.updEngine_kept | fail_if_no_progress (with_reducible apply Kept.upd) | with_reducible apply foldl_kept | (intro) | split | (fail_if_no_progress extract_lets) | (fail_if_no_progress beta_reduce) | (dsimp +zetaDelta only) | fail)

theorem State.msgChan_kept {q : List Instr} (s : State) (i : Nat) (m : FabMsg) (h : Kept q s) : Kept q (State.msgChan s i m) := by
  unfold State.msgChan
  repeat' (first | with_reducible assumption | with_reducible apply State.engineSignal_kept | with_reducible apply State.fabRefuse_kept | with_reducible apply State.fabReply_kept | with_reducible apply State.put_kept | fail_if_no_progress (with_reducible apply Kept.upd) | with_reducible apply foldl_kept | (intro) | split | (fail_if_no_progress extract_lets) | (fail_if_no_progress beta_reduce) | (dsimp +zetaDelta only) | fail)

theorem State.msgQueue_kept {q : List Instr} (s : State) (m : FabMsg) (h : Kept q s) : Kept q (State.msgQueue s m) := by
  unfold State.msgQueue
  repeat' (first | with_reducible assumption | with_reducible apply State.latArrive_kept | with_reducible apply State.leFault_kept | with_reducible apply State.tick_kept | with_reducible apply State.updLe_kept | with_reducible refine State.linkWhole_kept _ _ _ _ _ ?_ _ (by with_reducible assumption) | fail_if_no_progress (with_reducible apply Kept.upd) | with_reducible apply foldl_kept | (intro) | split | (fail_if_no_progress extract_lets) | (fail_if_no_progress beta_reduce) | (dsimp +zetaDelta only) | fail)

theorem State.fabTake_kept {q : List Instr} (s : State) (i : Nat) (m : FabMsg) (h : Kept q s) : Kept q (State.fabTake s i m) := by
  unfold State.fabTake
  repeat' (first | with_reducible assumption | with_reducible apply State.fabSend_kept | with_reducible apply State.msgChan_kept | with_reducible apply State.msgQueue_kept | with_reducible apply State.msgRead_kept | with_reducible apply State.msgReadData_kept | with_reducible apply State.msgWrite_kept | with_reducible apply State.msgWriteAck_kept | with_reducible apply State.updFab_kept | fail_if_no_progress (with_reducible apply Kept.upd) | with_reducible apply foldl_kept | (intro) | split | (fail_if_no_progress extract_lets) | (fail_if_no_progress beta_reduce) | (dsimp +zetaDelta only) | fail)

theorem State.fabArrive_kept {q : List Instr} (s : State) (kind : Nat) (port : Fin 12) (m : MsgIn) (h : Kept q s) : Kept q (State.fabArrive s kind port m) := by
  unfold State.fabArrive
  repeat' (first | with_reducible assumption | with_reducible apply State.fabTake_kept | fail_if_no_progress (with_reducible apply Kept.upd) | with_reducible apply foldl_kept | (intro) | split | (fail_if_no_progress extract_lets) | (fail_if_no_progress beta_reduce) | (dsimp +zetaDelta only) | fail)

theorem execWrite_kept {q : List Instr} (port : Fin 12) (m : MsgIn) (s : State) (h : Kept q s) : ∀ y, execWrite port m s = .next y → Kept q y := by
  intro y hy
  unfold execWrite at hy
  cases hy
  repeat' (first | with_reducible assumption | with_reducible apply State.fabArrive_kept | fail_if_no_progress (with_reducible apply Kept.upd) | with_reducible apply foldl_kept | (intro) | split | (fail_if_no_progress extract_lets) | (fail_if_no_progress beta_reduce) | (dsimp +zetaDelta only) | fail)

theorem execRead_kept {q : List Instr} (port : Fin 12) (m : MsgIn) (s : State) (h : Kept q s) : ∀ y, execRead port m s = .next y → Kept q y := by
  intro y hy
  unfold execRead at hy
  cases hy
  repeat' (first | with_reducible assumption | with_reducible apply State.fabArrive_kept | fail_if_no_progress (with_reducible apply Kept.upd) | with_reducible apply foldl_kept | (intro) | split | (fail_if_no_progress extract_lets) | (fail_if_no_progress beta_reduce) | (dsimp +zetaDelta only) | fail)

theorem execReadData_kept {q : List Instr} (port : Fin 12) (m : MsgIn) (s : State) (h : Kept q s) : ∀ y, execReadData port m s = .next y → Kept q y := by
  intro y hy
  unfold execReadData at hy
  cases hy
  repeat' (first | with_reducible assumption | with_reducible apply State.fabArrive_kept | fail_if_no_progress (with_reducible apply Kept.upd) | with_reducible apply foldl_kept | (intro) | split | (fail_if_no_progress extract_lets) | (fail_if_no_progress beta_reduce) | (dsimp +zetaDelta only) | fail)

theorem execWriteAck_kept {q : List Instr} (port : Fin 12) (m : MsgIn) (s : State) (h : Kept q s) : ∀ y, execWriteAck port m s = .next y → Kept q y := by
  intro y hy
  unfold execWriteAck at hy
  cases hy
  repeat' (first | with_reducible assumption | with_reducible apply State.fabArrive_kept | fail_if_no_progress (with_reducible apply Kept.upd) | with_reducible apply foldl_kept | (intro) | split | (fail_if_no_progress extract_lets) | (fail_if_no_progress beta_reduce) | (dsimp +zetaDelta only) | fail)

theorem execChanWrite_kept {q : List Instr} (port : Fin 12) (m : MsgIn) (s : State) (h : Kept q s) : ∀ y, execChanWrite port m s = .next y → Kept q y := by
  intro y hy
  unfold execChanWrite at hy
  cases hy
  repeat' (first | with_reducible assumption | with_reducible apply State.fabArrive_kept | fail_if_no_progress (with_reducible apply Kept.upd) | with_reducible apply foldl_kept | (intro) | split | (fail_if_no_progress extract_lets) | (fail_if_no_progress beta_reduce) | (dsimp +zetaDelta only) | fail)

theorem execQueueLink_kept {q : List Instr} (port : Fin 12) (m : MsgIn) (s : State) (h : Kept q s) : ∀ y, execQueueLink port m s = .next y → Kept q y := by
  intro y hy
  unfold execQueueLink at hy
  cases hy
  repeat' (first | with_reducible assumption | with_reducible apply State.fabArrive_kept | fail_if_no_progress (with_reducible apply Kept.upd) | with_reducible apply foldl_kept | (intro) | split | (fail_if_no_progress extract_lets) | (fail_if_no_progress beta_reduce) | (dsimp +zetaDelta only) | fail)

theorem execRemoteTimeout_kept {q : List Instr} (engine : Fin 64) (index : BitVec 20) (s : State) (h : Kept q s) : ∀ y, execRemoteTimeout engine index s = .next y → Kept q y := by
  intro y hy
  unfold execRemoteTimeout at hy
  cases hy
  repeat' (first | with_reducible assumption | with_reducible apply State.slFail_kept | with_reducible apply State.slFree_kept | fail_if_no_progress (with_reducible apply Kept.upd) | with_reducible apply foldl_kept | (intro) | split | (fail_if_no_progress extract_lets) | (fail_if_no_progress beta_reduce) | (dsimp +zetaDelta only) | fail)

theorem State.flitAck_kept {q : List Instr} (s : State) (i : Nat) (hd : Nat) (h : Kept q s) : Kept q (State.flitAck s i hd) := by
  unfold State.flitAck
  repeat' (first | with_reducible assumption | with_reducible apply State.setFport_kept | with_reducible apply State.resend_kept | fail_if_no_progress (with_reducible apply Kept.upd) | with_reducible apply foldl_kept | (intro) | split | (fail_if_no_progress extract_lets) | (fail_if_no_progress beta_reduce) | (dsimp +zetaDelta only) | fail)

theorem State.flitData_kept {q : List Instr} (s : State) (i : Nat) (hd : Nat) (flit : Bytes) (h : Kept q s) : Kept q (State.flitData s i hd flit) := by
  unfold State.flitData
  repeat' (first | with_reducible assumption | with_reducible apply State.setFport_kept | with_reducible apply State.fabTake_kept | fail_if_no_progress (with_reducible apply Kept.upd) | with_reducible apply foldl_kept | (intro) | split | (fail_if_no_progress extract_lets) | (fail_if_no_progress beta_reduce) | (dsimp +zetaDelta only) | fail)

theorem State.flitReply_kept {q : List Instr} (s : State) (i : Nat) (h : Kept q s) : Kept q (State.flitReply s i) := by
  unfold State.flitReply
  repeat' (first | with_reducible assumption | with_reducible apply State.setFport_kept | fail_if_no_progress (with_reducible apply Kept.upd) | with_reducible apply foldl_kept | (intro) | split | (fail_if_no_progress extract_lets) | (fail_if_no_progress beta_reduce) | (dsimp +zetaDelta only) | fail)

theorem State.fecSeen_kept {q : List Instr} (s : State) (i : Nat) (h : Kept q s) : Kept q (State.fecSeen s i) := by
  unfold State.fecSeen
  repeat' (first | with_reducible assumption | with_reducible apply State.tick_kept | with_reducible apply State.updFport_kept)

theorem execFlitReceive_kept {q : List Instr} (port : Fin 12) (flit : Bytes) (t : Nat) (s : State) (h : Kept q s) : ∀ y, execFlitReceive port flit t s = .next y → Kept q y := by
  intro y hy
  unfold execFlitReceive at hy
  cases hy
  repeat' (first | with_reducible assumption | with_reducible apply State.at'_kept | with_reducible apply State.flitReply_kept | with_reducible apply State.flitData_kept | with_reducible apply State.flitAck_kept | with_reducible apply State.fecSeen_kept | with_reducible apply State.updFport_kept | with_reducible apply State.setFport_kept | fail_if_no_progress (with_reducible apply Kept.upd) | with_reducible apply foldl_kept | (intro) | split | (fail_if_no_progress extract_lets) | (fail_if_no_progress beta_reduce) | (dsimp +zetaDelta only) | fail)

theorem execAckTimer_kept {q : List Instr} (port : Fin 12) (s : State) (h : Kept q s) : ∀ y, execAckTimer port s = .next y → Kept q y := by
  intro y hy
  unfold execAckTimer at hy
  cases hy
  repeat' (first | with_reducible assumption | with_reducible apply State.setFport_kept | fail_if_no_progress (with_reducible apply Kept.upd) | with_reducible apply foldl_kept | (intro) | split | (fail_if_no_progress extract_lets) | (fail_if_no_progress beta_reduce) | (dsimp +zetaDelta only) | fail)

theorem execNeighbourExchange_kept {q : List Instr} (arrive : Option MgmtIn) (list : List (BitVec 64)) (s : State) (h : Kept q s) : ∀ y, execNeighbourExchange arrive list s = .next y → Kept q y := by
  intro y hy
  unfold execNeighbourExchange at hy
  cases hy
  repeat' (first | with_reducible assumption | with_reducible apply State.mgmtSend_kept | with_reducible apply State.mgmtTake_kept | with_reducible apply State.updFab_kept | fail_if_no_progress (with_reducible apply Kept.upd) | with_reducible apply foldl_kept | (intro) | split | (fail_if_no_progress extract_lets) | (fail_if_no_progress beta_reduce) | (dsimp +zetaDelta only) | fail)

theorem execMgmtResend_kept {q : List Instr} (id : BitVec 32) (acked : Bool) (s : State) (h : Kept q s) : ∀ y, execMgmtResend id acked s = .next y → Kept q y := by
  intro y hy
  unfold execMgmtResend at hy
  cases hy
  repeat' (first | with_reducible assumption | with_reducible apply State.mgmtEmit_kept | with_reducible apply State.updFab_kept | fail_if_no_progress (with_reducible apply Kept.upd) | with_reducible apply foldl_kept | (intro) | split | (fail_if_no_progress extract_lets) | (fail_if_no_progress beta_reduce) | (dsimp +zetaDelta only) | fail)

theorem State.abortModel_kept {q : List Instr} (s : State) (cause : Nat) (i : Nat) (h : Kept q s) : Kept q (State.abortModel s cause i) := by
  unfold State.abortModel
  repeat' (first | with_reducible assumption | with_reducible apply State.startAgree_kept | with_reducible apply State.force_kept | fail_if_no_progress (with_reducible apply Kept.upd) | with_reducible apply foldl_kept | (intro) | split | (fail_if_no_progress extract_lets) | (fail_if_no_progress beta_reduce) | (dsimp +zetaDelta only) | fail)

theorem State.takeAbort_kept {q : List Instr} (s : State) (tag : Nat) (cause : Nat) (h : Kept q s) : Kept q (State.takeAbort s tag cause) := by
  unfold State.takeAbort
  repeat' (first | with_reducible assumption | with_reducible apply State.abortModel_kept | with_reducible apply State.signal_kept | with_reducible apply State.updFab_kept | fail_if_no_progress (with_reducible apply Kept.upd) | with_reducible apply foldl_kept | (intro) | split | (fail_if_no_progress extract_lets) | (fail_if_no_progress beta_reduce) | (dsimp +zetaDelta only) | fail)

theorem execAbortNotice_kept {q : List Instr} (m : MgmtIn) (tag : BitVec 64) (cause : BitVec 16) (t : Nat) (s : State) (h : Kept q s) : ∀ y, execAbortNotice m tag cause t s = .next y → Kept q y := by
  intro y hy
  unfold execAbortNotice at hy
  cases hy
  repeat' (first | with_reducible assumption | with_reducible apply State.at'_kept | with_reducible apply State.mgmtTake_kept | with_reducible apply State.takeAbort_kept | fail_if_no_progress (with_reducible apply Kept.upd) | with_reducible apply foldl_kept | (intro) | split | (fail_if_no_progress extract_lets) | (fail_if_no_progress beta_reduce) | (dsimp +zetaDelta only) | fail)

theorem State.takeBind_kept {q : List Instr} (s : State) (i : Nat) (channel : Nat) (peer : Nat) (out : Bool) (reply : Bool) (h : Kept q s) : Kept q (State.takeBind s i channel peer out reply) := by
  unfold State.takeBind
  repeat' (first | with_reducible assumption | with_reducible apply State.updFab_kept | with_reducible apply State.sendBind_kept | fail_if_no_progress (with_reducible apply Kept.upd) | with_reducible apply foldl_kept | (intro) | split | (fail_if_no_progress extract_lets) | (fail_if_no_progress beta_reduce) | (dsimp +zetaDelta only) | fail)

theorem execChannelBind_kept {q : List Instr} (m : MgmtIn) (model : Fin 256) (channel : Fin 4096) (out : Bool) (reply : Bool) (s : State) (h : Kept q s) : ∀ y, execChannelBind m model channel out reply s = .next y → Kept q y := by
  intro y hy
  unfold execChannelBind at hy
  cases hy
  repeat' (first | with_reducible assumption | with_reducible apply State.mgmtTake_kept | with_reducible apply State.takeBind_kept | fail_if_no_progress (with_reducible apply Kept.upd) | with_reducible apply foldl_kept | (intro) | split | (fail_if_no_progress extract_lets) | (fail_if_no_progress beta_reduce) | (dsimp +zetaDelta only) | fail)

theorem execDegradedAgreement_kept {q : List Instr} (model : Fin 256) (pos : Option (Fin 16)) (t : Nat) (s : State) (h : Kept q s) : ∀ y, execDegradedAgreement model pos t s = .next y → Kept q y := by
  intro y hy
  unfold execDegradedAgreement at hy
  cases hy
  repeat' (first | with_reducible assumption | with_reducible apply State.at'_kept | with_reducible apply State.degrade_kept | with_reducible apply State.updFab_kept | with_reducible apply State.updModel_kept | fail_if_no_progress (with_reducible apply Kept.upd) | with_reducible apply foldl_kept | (intro) | split | (fail_if_no_progress extract_lets) | (fail_if_no_progress beta_reduce) | (dsimp +zetaDelta only) | fail)

theorem execLivenessProbe_kept {q : List Instr} (port : Fin 12) (s : State) (h : Kept q s) : ∀ y, execLivenessProbe port s = .next y → Kept q y := by
  intro y hy
  unfold execLivenessProbe at hy
  cases hy
  repeat' (first | with_reducible assumption | with_reducible apply State.mgmtNet_kept | with_reducible apply State.updFport_kept | fail_if_no_progress (with_reducible apply Kept.upd) | with_reducible apply foldl_kept | (intro) | split | (fail_if_no_progress extract_lets) | (fail_if_no_progress beta_reduce) | (dsimp +zetaDelta only) | fail)

theorem execProbeAnswer_kept {q : List Instr} (serial : BitVec 64) (answer : Bool) (s : State) (h : Kept q s) : ∀ y, execProbeAnswer serial answer s = .next y → Kept q y := by
  intro y hy
  unfold execProbeAnswer at hy
  cases hy
  repeat' (first | with_reducible assumption | with_reducible apply State.mgmtNet_kept | with_reducible apply State.setFport_kept | fail_if_no_progress (with_reducible apply Kept.upd) | with_reducible apply foldl_kept | (intro) | split | (fail_if_no_progress extract_lets) | (fail_if_no_progress beta_reduce) | (dsimp +zetaDelta only) | fail)

theorem execMgmtAuthFail_kept {q : List Instr} (s : State) (h : Kept q s) : ∀ y, execMgmtAuthFail s = .next y → Kept q y := by
  intro y hy
  unfold execMgmtAuthFail at hy
  cases hy
  repeat' (first | with_reducible assumption | fail_if_no_progress (with_reducible apply Kept.upd) | with_reducible apply foldl_kept | (intro) | split | (fail_if_no_progress extract_lets) | (fail_if_no_progress beta_reduce) | (dsimp +zetaDelta only) | fail)

end Sys2Proof.Machine
end

