-- ==== Sys2Proof/Laws/KeptPorts.lean ====
section
/-! SUPPORT. Every operation of Machine/Ports.lean leaves the queue alone and keeps the memories in canonical form. -/

set_option linter.unusedTactic false
set_option linter.unreachableTactic false
set_option linter.unusedVariables false
set_option linter.unnecessarySeqFocus false

namespace Sys2Proof.Machine

theorem State.secEvent_kept {q : List Instr} (s : State) (i : Nat) (h : Kept q s) : Kept q (State.secEvent s i) := by
  unfold State.secEvent
  repeat' (first | with_reducible assumption | with_reducible apply State.event_kept | with_reducible apply State.signal_kept | fail_if_no_progress (with_reducible apply Kept.upd) | with_reducible apply foldl_kept | (intro) | split | (fail_if_no_progress extract_lets) | (fail_if_no_progress beta_reduce) | (dsimp +zetaDelta only) | fail)

theorem State.ethFast_kept {q : List Instr} (s : State) (i : Nat) (h : Kept q s) : Kept q (State.ethFast s i) := by
  unfold State.ethFast
  repeat' (first | with_reducible assumption | fail_if_no_progress (with_reducible apply Kept.upd) | with_reducible apply foldl_kept | (intro) | split | (fail_if_no_progress extract_lets) | (fail_if_no_progress beta_reduce) | (dsimp +zetaDelta only) | fail)

theorem execEthLinkChange_kept {q : List Instr} (port : Fin 8) (up : Bool) (t : Nat) (s : State) (h : Kept q s) : ∀ y, execEthLinkChange port up t s = .next y → Kept q y := by
  intro y hy
  unfold execEthLinkChange at hy
  cases hy
  repeat' (first | with_reducible assumption | with_reducible apply State.at'_kept | with_reducible apply State.ethDown_kept | with_reducible apply State.ethFast_kept | with_reducible apply State.movePtp_kept | with_reducible apply State.post_kept | with_reducible apply State.signal_kept | with_reducible apply State.trainEnd_kept | fail_if_no_progress (with_reducible apply Kept.upd) | with_reducible apply foldl_kept | (intro) | split | (fail_if_no_progress extract_lets) | (fail_if_no_progress beta_reduce) | (dsimp +zetaDelta only) | fail)

theorem execRdmaConnect_kept {q : List Instr} (port : Fin 8) (qp : BitVec 24) (priv : Bytes) (s : State) (h : Kept q s) : ∀ y, execRdmaConnect port qp priv s = .next y → Kept q y := by
  intro y hy
  unfold execRdmaConnect at hy
  cases hy
  repeat' (first | with_reducible assumption | fail_if_no_progress (with_reducible apply Kept.upd) | with_reducible apply foldl_kept | (intro) | split | (fail_if_no_progress extract_lets) | (fail_if_no_progress beta_reduce) | (dsimp +zetaDelta only) | fail)

theorem execNeighbourRequest_kept {q : List Instr} (port : Fin 8) (kind : Fin 4) (t : Nat) (s : State) (h : Kept q s) : ∀ y, execNeighbourRequest port kind t s = .next y → Kept q y := by
  intro y hy
  unfold execNeighbourRequest at hy
  cases hy
  repeat' (first | with_reducible assumption | with_reducible apply State.at'_kept | fail_if_no_progress (with_reducible apply Kept.upd) | with_reducible apply foldl_kept | (intro) | split | (fail_if_no_progress extract_lets) | (fail_if_no_progress beta_reduce) | (dsimp +zetaDelta only) | fail)

theorem execCongestionNotification_kept {q : List Instr} (qp : BitVec 24) (s : State) (h : Kept q s) : ∀ y, execCongestionNotification qp s = .next y → Kept q y := by
  intro y hy
  unfold execCongestionNotification at hy
  cases hy
  repeat' (first | with_reducible assumption | with_reducible apply State.tick_kept | fail_if_no_progress (with_reducible apply Kept.upd) | with_reducible apply foldl_kept | (intro) | split | (fail_if_no_progress extract_lets) | (fail_if_no_progress beta_reduce) | (dsimp +zetaDelta only) | fail)

theorem execPtpMessage_kept {q : List Instr} (port : Fin 4) (domain : BitVec 8) (locked : Bool) (offset : BitVec 32) (t : Nat) (s : State) (h : Kept q s) : ∀ y, execPtpMessage port domain locked offset t s = .next y → Kept q y := by
  intro y hy
  unfold execPtpMessage at hy
  cases hy
  repeat' (first | with_reducible assumption | with_reducible apply State.at'_kept | with_reducible apply State.loseLock_kept | with_reducible apply State.setValid_kept | fail_if_no_progress (with_reducible apply Kept.upd) | with_reducible apply foldl_kept | (intro) | split | (fail_if_no_progress extract_lets) | (fail_if_no_progress beta_reduce) | (dsimp +zetaDelta only) | fail)

theorem execHoldoverExpire_kept {q : List Instr} (t : Nat) (s : State) (h : Kept q s) : ∀ y, execHoldoverExpire t s = .next y → Kept q y := by
  intro y hy
  unfold execHoldoverExpire at hy
  cases hy
  repeat' (first | with_reducible assumption | with_reducible apply State.at'_kept | with_reducible apply State.setValid_kept | fail_if_no_progress (with_reducible apply Kept.upd) | with_reducible apply foldl_kept | (intro) | split | (fail_if_no_progress extract_lets) | (fail_if_no_progress beta_reduce) | (dsimp +zetaDelta only) | fail)

theorem execCxlLinkUp_kept {q : List Instr} (q' : Fin 4) (speed : BitVec 2) (width : BitVec 5) (cap : BitVec 22) (good : Bool) (digest : BitVec 64) (t : Nat) (s : State) (h : Kept q s) : ∀ y, execCxlLinkUp q' speed width cap good digest t s = .next y → Kept q y := by
  intro y hy
  unfold execCxlLinkUp at hy
  cases hy
  repeat' (first | with_reducible assumption | with_reducible apply State.at'_kept | with_reducible apply State.post_kept | with_reducible apply State.signal_kept | with_reducible apply State.trainEnd_kept | with_reducible apply State.updQuad_kept | fail_if_no_progress (with_reducible apply Kept.upd) | with_reducible apply foldl_kept | (intro) | split | (fail_if_no_progress extract_lets) | (fail_if_no_progress beta_reduce) | (dsimp +zetaDelta only) | fail)

theorem execCxlLinkDown_kept {q : List Instr} (q' : Fin 4) (t : Nat) (s : State) (h : Kept q s) : ∀ y, execCxlLinkDown q' t s = .next y → Kept q y := by
  intro y hy
  unfold execCxlLinkDown at hy
  cases hy
  repeat' (first | with_reducible assumption | with_reducible apply State.at'_kept | with_reducible apply State.cxlDown_kept | fail_if_no_progress (with_reducible apply Kept.upd) | with_reducible apply foldl_kept | (intro) | split | (fail_if_no_progress extract_lets) | (fail_if_no_progress beta_reduce) | (dsimp +zetaDelta only) | fail)

theorem execIdeFailure_kept {q : List Instr} (q' : Fin 4) (t : Nat) (s : State) (h : Kept q s) : ∀ y, execIdeFailure q' t s = .next y → Kept q y := by
  intro y hy
  unfold execIdeFailure at hy
  cases hy
  repeat' (first | with_reducible assumption | with_reducible apply State.at'_kept | with_reducible apply State.cxlDown_kept | with_reducible apply State.post_kept | with_reducible apply State.secEvent_kept | fail_if_no_progress (with_reducible apply Kept.upd) | with_reducible apply foldl_kept | (intro) | split | (fail_if_no_progress extract_lets) | (fail_if_no_progress beta_reduce) | (dsimp +zetaDelta only) | fail)

end Sys2Proof.Machine
end

