-- ==== Sys2Proof/Laws/KeptHeadgate.lean ====
section
/-! SUPPORT. Every operation of Machine/Headgate.lean leaves the queue alone and keeps the memories in canonical form. -/

set_option linter.unusedTactic false
set_option linter.unreachableTactic false
set_option linter.unusedVariables false
set_option linter.unnecessarySeqFocus false

namespace Sys2Proof.Machine

theorem execHicSourceEvent_kept {q : List Instr} (src : Fin 256) (s : State) (h : Kept q s) : ∀ y, execHicSourceEvent src s = .next y → Kept q y := by
  intro y hy
  unfold execHicSourceEvent at hy
  cases hy
  repeat' (first | with_reducible assumption | with_reducible apply State.signal_kept | fail_if_no_progress (with_reducible apply Kept.upd) | with_reducible apply foldl_kept | (intro) | split | (fail_if_no_progress extract_lets) | (fail_if_no_progress beta_reduce) | (dsimp +zetaDelta only) | fail)

theorem State.updCore_kept {q : List Instr} (s : State) (c : Nat) (f : HgCore → HgCore) (h : Kept q s) : Kept q (State.updCore s c f) := by
  unfold State.updCore
  repeat' (first | with_reducible assumption | with_reducible apply Work.core_kept | fail_if_no_progress (with_reducible apply Kept.upd) | with_reducible apply foldl_kept | (intro) | split | (fail_if_no_progress extract_lets) | (fail_if_no_progress beta_reduce) | (dsimp +zetaDelta only) | fail)

theorem State.take_kept {q : List Instr} (s : State) (x : CoreIn) (h : Kept q s) : Kept q (State.take s x) := by
  unfold State.take
  repeat' (first | with_reducible assumption | with_reducible apply Work.core_kept | with_reducible apply State.updCore_kept | fail_if_no_progress (with_reducible apply Kept.upd) | with_reducible apply foldl_kept | (intro) | split | (fail_if_no_progress extract_lets) | (fail_if_no_progress beta_reduce) | (dsimp +zetaDelta only) | fail)

theorem execHicTake_kept {q : List Instr} (x : CoreIn) (s : State) (h : Kept q s) : ∀ y, execHicTake x s = .next y → Kept q y := by
  intro y hy
  unfold execHicTake at hy
  cases hy
  repeat' (first | with_reducible assumption | with_reducible apply Work.core_kept | with_reducible apply State.take_kept | fail_if_no_progress (with_reducible apply Kept.upd) | with_reducible apply foldl_kept | (intro) | split | (fail_if_no_progress extract_lets) | (fail_if_no_progress beta_reduce) | (dsimp +zetaDelta only) | fail)

theorem execHicEoi_kept {q : List Instr} (core : Fin 4) (src : BitVec 8) (s : State) (h : Kept q s) : ∀ y, execHicEoi core src s = .next y → Kept q y := by
  intro y hy
  unfold execHicEoi at hy
  cases hy
  repeat' (first | with_reducible assumption | with_reducible apply Work.core_kept | fail_if_no_progress (with_reducible apply Kept.upd) | with_reducible apply foldl_kept | (intro) | split | (fail_if_no_progress extract_lets) | (fail_if_no_progress beta_reduce) | (dsimp +zetaDelta only) | fail)

theorem execHicSwi_kept {q : List Instr} (v : BitVec 4) (s : State) (h : Kept q s) : ∀ y, execHicSwi v s = .next y → Kept q y := by
  intro y hy
  unfold execHicSwi at hy
  cases hy
  repeat' (first | with_reducible assumption | with_reducible apply State.signal_kept | fail_if_no_progress (with_reducible apply Kept.upd) | with_reducible apply foldl_kept | (intro) | split | (fail_if_no_progress extract_lets) | (fail_if_no_progress beta_reduce) | (dsimp +zetaDelta only) | fail)

theorem execHicPendWrite_kept {q : List Instr} (w : Fin 4) (v : BitVec 64) (events : BitVec 64) (taker : Option CoreIn) (s : State) (h : Kept q s) : ∀ y, execHicPendWrite w v events taker s = .next y → Kept q y := by
  intro y hy
  unfold execHicPendWrite at hy
  cases hy
  repeat' (first | with_reducible assumption | with_reducible apply State.take_kept | fail_if_no_progress (with_reducible apply Kept.upd) | with_reducible apply foldl_kept | (intro) | split | (fail_if_no_progress extract_lets) | (fail_if_no_progress beta_reduce) | (dsimp +zetaDelta only) | fail)

theorem execLogPageWrite_kept {q : List Instr} (t : Nat) (s : State) (h : Kept q s) : ∀ y, execLogPageWrite t s = .next y → Kept q y := by
  intro y hy
  unfold execLogPageWrite at hy
  cases hy
  repeat' (first | with_reducible assumption | with_reducible apply State.at'_kept | fail_if_no_progress (with_reducible apply Kept.upd) | with_reducible apply foldl_kept | (intro) | split | (fail_if_no_progress extract_lets) | (fail_if_no_progress beta_reduce) | (dsimp +zetaDelta only) | fail)

theorem execLogFlushTimer_kept {q : List Instr} (t : Nat) (s : State) (h : Kept q s) : ∀ y, execLogFlushTimer t s = .next y → Kept q y := by
  intro y hy
  unfold execLogFlushTimer at hy
  cases hy
  repeat' (first | with_reducible assumption | with_reducible apply State.at'_kept | fail_if_no_progress (with_reducible apply Kept.upd) | with_reducible apply foldl_kept | (intro) | split | (fail_if_no_progress extract_lets) | (fail_if_no_progress beta_reduce) | (dsimp +zetaDelta only) | fail)

theorem execFieldbookEventPost_kept {q : List Instr} (src : BitVec 8) (code : BitVec 16) (status : BitVec 16) (parcel : BitVec 16) (unit : BitVec 32) (detail : BitVec 64) (t : Nat) (s : State) (h : Kept q s) : ∀ y, execFieldbookEventPost src code status parcel unit detail t s = .next y → Kept q y := by
  intro y hy
  unfold execFieldbookEventPost at hy
  cases hy
  repeat' (first | with_reducible assumption | with_reducible apply State.at'_kept | with_reducible apply State.post_kept | fail_if_no_progress (with_reducible apply Kept.upd) | with_reducible apply foldl_kept | (intro) | split | (fail_if_no_progress extract_lets) | (fail_if_no_progress beta_reduce) | (dsimp +zetaDelta only) | fail)

theorem execAuxiliaryInputReturn_kept {q : List Instr} (t : Nat) (s : State) (h : Kept q s) : ∀ y, execAuxiliaryInputReturn t s = .next y → Kept q y := by
  intro y hy
  unfold execAuxiliaryInputReturn at hy
  cases hy
  repeat' (first | with_reducible assumption | with_reducible apply State.at'_kept | fail_if_no_progress (with_reducible apply Kept.upd) | with_reducible apply foldl_kept | (intro) | split | (fail_if_no_progress extract_lets) | (fail_if_no_progress beta_reduce) | (dsimp +zetaDelta only) | fail)

theorem State.resetCore_kept {q : List Instr} (s : State) (c : Nat) (h : Kept q s) : Kept q (State.resetCore s c) := by
  unfold State.resetCore
  repeat' (first | with_reducible assumption | with_reducible apply Work.core_kept | with_reducible apply State.updCore_kept | fail_if_no_progress (with_reducible apply Kept.upd) | with_reducible apply foldl_kept | (intro) | split | (fail_if_no_progress extract_lets) | (fail_if_no_progress beta_reduce) | (dsimp +zetaDelta only) | fail)

theorem State.moveDuties_kept {q : List Instr} (s : State) (c : Nat) (h : Kept q s) : Kept q (State.moveDuties s c) := by
  unfold State.moveDuties
  repeat' (first | with_reducible assumption | with_reducible apply Work.core_kept | with_reducible apply State.updCore_kept | fail_if_no_progress (with_reducible apply Kept.upd) | with_reducible apply foldl_kept | (intro) | split | (fail_if_no_progress extract_lets) | (fail_if_no_progress beta_reduce) | (dsimp +zetaDelta only) | fail)

theorem execHeartbeatTimeout_kept {q : List Instr} (core : Fin 4) (t : Nat) (s : State) (h : Kept q s) : ∀ y, execHeartbeatTimeout core t s = .next y → Kept q y := by
  intro y hy
  unfold execHeartbeatTimeout at hy
  cases hy
  repeat' (first | with_reducible assumption | with_reducible apply State.at'_kept | with_reducible apply Work.core_kept | with_reducible apply State.moveDuties_kept | with_reducible apply State.post_kept | with_reducible apply State.resetCore_kept | with_reducible apply State.updCore_kept | fail_if_no_progress (with_reducible apply Kept.upd) | with_reducible apply foldl_kept | (intro) | split | (fail_if_no_progress extract_lets) | (fail_if_no_progress beta_reduce) | (dsimp +zetaDelta only) | fail)

theorem State.updArb_kept {q : List Instr} (s : State) (a : Nat) (f : Arb → Arb) (h : Kept q s) : Kept q (State.updArb s a f) := by
  unfold State.updArb
  repeat' (first | with_reducible assumption | fail_if_no_progress (with_reducible apply Kept.upd) | with_reducible apply foldl_kept | (intro) | split | (fail_if_no_progress extract_lets) | (fail_if_no_progress beta_reduce) | (dsimp +zetaDelta only) | fail)

theorem execArbDecision_kept {q : List Instr} (arb : Fin 112) (fw : BitVec 32) (other : BitVec 32) (static : Bool) (s : State) (h : Kept q s) : ∀ y, execArbDecision arb fw other static s = .next y → Kept q y := by
  intro y hy
  unfold execArbDecision at hy
  cases hy
  repeat' (first | with_reducible assumption | with_reducible apply State.updArb_kept | fail_if_no_progress (with_reducible apply Kept.upd) | with_reducible apply foldl_kept | (intro) | split | (fail_if_no_progress extract_lets) | (fail_if_no_progress beta_reduce) | (dsimp +zetaDelta only) | fail)

theorem execArbStarveThreshold_kept {q : List Instr} (arb : Fin 112) (r : Fin 32) (s : State) (h : Kept q s) : ∀ y, execArbStarveThreshold arb r s = .next y → Kept q y := by
  intro y hy
  unfold execArbStarveThreshold at hy
  cases hy
  repeat' (first | with_reducible assumption | with_reducible apply State.signal_kept | with_reducible apply State.updArb_kept | fail_if_no_progress (with_reducible apply Kept.upd) | with_reducible apply foldl_kept | (intro) | split | (fail_if_no_progress extract_lets) | (fail_if_no_progress beta_reduce) | (dsimp +zetaDelta only) | fail)

theorem State.setPolicy_kept {q : List Instr} (s : State) (i : Nat) (p : Option Policy) (h : Kept q s) : Kept q (State.setPolicy s i p) := by
  unfold State.setPolicy
  repeat' (first | with_reducible assumption | fail_if_no_progress (with_reducible apply Kept.upd) | with_reducible apply foldl_kept | (intro) | split | (fail_if_no_progress extract_lets) | (fail_if_no_progress beta_reduce) | (dsimp +zetaDelta only) | fail)

theorem State.polInvoke_kept {q : List Instr} (s : State) (i : Nat) (entry : Nat) (arg : Nat) (h : Kept q s) : Kept q (State.polInvoke s i entry arg) := by
  unfold State.polInvoke
  repeat' (first | with_reducible assumption | with_reducible apply State.setPolicy_kept | fail_if_no_progress (with_reducible apply Kept.upd) | with_reducible apply foldl_kept | (intro) | split | (fail_if_no_progress extract_lets) | (fail_if_no_progress beta_reduce) | (dsimp +zetaDelta only) | fail)

theorem State.resumePolicy_kept {q : List Instr} (s : State) (i : Nat) (h : Kept q s) : Kept q (State.resumePolicy s i) := by
  unfold State.resumePolicy
  repeat' (first | with_reducible assumption | with_reducible apply State.setPolicy_kept | fail_if_no_progress (with_reducible apply Kept.upd) | with_reducible apply foldl_kept | (intro) | split | (fail_if_no_progress extract_lets) | (fail_if_no_progress beta_reduce) | (dsimp +zetaDelta only) | fail)

theorem execPolicyTick_kept {q : List Instr} (slot : Fin 4) (t : Nat) (s : State) (h : Kept q s) : ∀ y, execPolicyTick slot t s = .next y → Kept q y := by
  intro y hy
  unfold execPolicyTick at hy
  cases hy
  repeat' (first | with_reducible assumption | with_reducible apply State.at'_kept | with_reducible apply State.polInvoke_kept | fail_if_no_progress (with_reducible apply Kept.upd) | with_reducible apply foldl_kept | (intro) | split | (fail_if_no_progress extract_lets) | (fail_if_no_progress beta_reduce) | (dsimp +zetaDelta only) | fail)

theorem execPolicyStarve_kept {q : List Instr} (slot : Fin 4) (arb : Fin 112) (s : State) (h : Kept q s) : ∀ y, execPolicyStarve slot arb s = .next y → Kept q y := by
  intro y hy
  unfold execPolicyStarve at hy
  cases hy
  repeat' (first | with_reducible assumption | with_reducible apply State.polInvoke_kept | fail_if_no_progress (with_reducible apply Kept.upd) | with_reducible apply foldl_kept | (intro) | split | (fail_if_no_progress extract_lets) | (fail_if_no_progress beta_reduce) | (dsimp +zetaDelta only) | fail)

theorem execPolicyStep_kept {q : List Instr} (slot : Fin 4) (lead : Fin 64) (s : State) (h : Kept q s) : ∀ y, execPolicyStep slot lead s = .next y → Kept q y := by
  intro y hy
  unfold execPolicyStep at hy
  cases hy
  repeat' (first | with_reducible assumption | with_reducible apply State.polInvoke_kept | fail_if_no_progress (with_reducible apply Kept.upd) | with_reducible apply foldl_kept | (intro) | split | (fail_if_no_progress extract_lets) | (fail_if_no_progress beta_reduce) | (dsimp +zetaDelta only) | fail)

theorem execPolicyBudgetOverrun_kept {q : List Instr} (slot : Fin 4) (s : State) (h : Kept q s) : ∀ y, execPolicyBudgetOverrun slot s = .next y → Kept q y := by
  intro y hy
  unfold execPolicyBudgetOverrun at hy
  cases hy
  repeat' (first | with_reducible assumption | with_reducible apply State.post_kept | with_reducible apply State.setPolicy_kept | fail_if_no_progress (with_reducible apply Kept.upd) | with_reducible apply foldl_kept | (intro) | split | (fail_if_no_progress extract_lets) | (fail_if_no_progress beta_reduce) | (dsimp +zetaDelta only) | fail)

theorem State.polCall_kept {q : List Instr} (s : State) (i : Nat) (act : Policy → State × Nat) (h : Kept q s)
    (hf : ∀ p, Kept q (act p).1) : Kept q (State.polCall s i act) := by
  unfold State.polCall
  split
  · exact h
  · split
    · exact h
    · extract_lets r
      split
      · exact hf _
      · exact State.setPolicy_kept _ _ _ (hf _)

theorem execPolShare_kept {q : List Instr} (slot : Fin 4) (lo : BitVec 64) (hi : BitVec 64) (s : State) (h : Kept q s) : ∀ y, execPolShare slot lo hi s = .next y → Kept q y := by
  intro y hy
  unfold execPolShare at hy
  cases hy
  repeat' (first | with_reducible assumption | with_reducible apply State.polCall_kept | with_reducible apply State.updParcel_kept | fail_if_no_progress (with_reducible apply Kept.upd) | with_reducible apply foldl_kept | (intro) | split | (fail_if_no_progress extract_lets) | (fail_if_no_progress beta_reduce) | (dsimp +zetaDelta only) | fail)

theorem execPolPreempt_kept {q : List Instr} (slot : Fin 4) (model : BitVec 64) (s : State) (h : Kept q s) : ∀ y, execPolPreempt slot model s = .next y → Kept q y := by
  intro y hy
  unfold execPolPreempt at hy
  cases hy
  repeat' (first | with_reducible assumption | with_reducible apply State.polCall_kept | fail_if_no_progress (with_reducible apply Kept.upd) | with_reducible apply foldl_kept | (intro) | split | (fail_if_no_progress extract_lets) | (fail_if_no_progress beta_reduce) | (dsimp +zetaDelta only) | fail)

theorem execPolWeight_kept {q : List Instr} (slot : Fin 4) (arb : BitVec 64) (r : BitVec 64) (w : BitVec 64) (s : State) (h : Kept q s) : ∀ y, execPolWeight slot arb r w s = .next y → Kept q y := by
  intro y hy
  unfold execPolWeight at hy
  cases hy
  repeat' (first | with_reducible assumption | with_reducible apply State.polCall_kept | with_reducible apply State.post_kept | with_reducible apply State.updArb_kept | fail_if_no_progress (with_reducible apply Kept.upd) | with_reducible apply foldl_kept | (intro) | split | (fail_if_no_progress extract_lets) | (fail_if_no_progress beta_reduce) | (dsimp +zetaDelta only) | fail)

theorem execPolDone_kept {q : List Instr} (slot : Fin 4) (s : State) (h : Kept q s) : ∀ y, execPolDone slot s = .next y → Kept q y := by
  intro y hy
  unfold execPolDone at hy
  cases hy
  repeat' (first | with_reducible assumption | with_reducible apply State.polCall_kept | with_reducible apply State.setPolicy_kept | fail_if_no_progress (with_reducible apply Kept.upd) | with_reducible apply foldl_kept | (intro) | split | (fail_if_no_progress extract_lets) | (fail_if_no_progress beta_reduce) | (dsimp +zetaDelta only) | fail)

theorem State.dropPolicy_kept {q : List Instr} (s : State) (parcel : Nat) (h : Kept q s) : Kept q (State.dropPolicy s parcel) := by
  unfold State.dropPolicy
  repeat' (first | with_reducible assumption | with_reducible apply State.setPolicy_kept | fail_if_no_progress (with_reducible apply Kept.upd) | with_reducible apply foldl_kept | (intro) | split | (fail_if_no_progress extract_lets) | (fail_if_no_progress beta_reduce) | (dsimp +zetaDelta only) | fail)

end Sys2Proof.Machine
end

