-- ==== Sys2Proof/Laws/KeptStore.lean ====
section
/-! SUPPORT. Every operation of Machine/Store.lean leaves the queue alone and keeps the memories in canonical form. -/

set_option linter.unusedTactic false
set_option linter.unreachableTactic false
set_option linter.unusedVariables false
set_option linter.unnecessarySeqFocus false

namespace Sys2Proof.Machine

theorem State.wantCommit_kept {q : List Instr} (s : State) (h : Kept q s) : Kept q (State.wantCommit s) := by
  unfold State.wantCommit
  repeat' (first | with_reducible assumption | fail_if_no_progress (with_reducible apply Kept.upd) | with_reducible apply foldl_kept | (intro) | split | (fail_if_no_progress extract_lets) | (fail_if_no_progress beta_reduce) | (dsimp +zetaDelta only) | fail)

theorem execStoreCommit_kept {q : List Instr} (t : Nat) (s : State) (h : Kept q s) : ∀ y, execStoreCommit t s = .next y → Kept q y := by
  intro y hy
  unfold execStoreCommit at hy
  cases hy
  repeat' (first | with_reducible assumption | with_reducible apply State.at'_kept | fail_if_no_progress (with_reducible apply Kept.upd) | with_reducible apply foldl_kept | (intro) | split | (fail_if_no_progress extract_lets) | (fail_if_no_progress beta_reduce) | (dsimp +zetaDelta only) | fail)

theorem execStoreCommitComplete_kept {q : List Instr} (ok : Bool) (t : Nat) (s : State) (h : Kept q s) : ∀ y, execStoreCommitComplete ok t s = .next y → Kept q y := by
  intro y hy
  unfold execStoreCommitComplete at hy
  cases hy
  repeat' (first | with_reducible assumption | with_reducible apply State.at'_kept | with_reducible apply State.complete_kept | with_reducible apply State.post_kept | fail_if_no_progress (with_reducible apply Kept.upd) | with_reducible apply foldl_kept | (intro) | split | (fail_if_no_progress extract_lets) | (fail_if_no_progress beta_reduce) | (dsimp +zetaDelta only) | fail)

theorem State.loadParcel_kept {q : List Instr} (s : State) (l : Bytes) (h : Kept q s) : Kept q (State.loadParcel s l) := by
  unfold State.loadParcel
  repeat' (first | with_reducible assumption | with_reducible apply State.setBox_kept | with_reducible apply State.updParcel_kept | fail_if_no_progress (with_reducible apply Kept.upd) | with_reducible apply foldl_kept | (intro) | split | (fail_if_no_progress extract_lets) | (fail_if_no_progress beta_reduce) | (dsimp +zetaDelta only) | fail)

theorem State.loadRec_kept {q : List Instr} (s : State) (r : StoreRec) (h : Kept q s) : Kept q (State.loadRec s r) := by
  unfold State.loadRec
  repeat' (first | with_reducible assumption | with_reducible apply State.loadParcel_kept | with_reducible apply State.setBox_kept | with_reducible apply State.updFab_kept | fail_if_no_progress (with_reducible apply Kept.upd) | with_reducible apply foldl_kept | (intro) | split | (fail_if_no_progress extract_lets) | (fail_if_no_progress beta_reduce) | (dsimp +zetaDelta only) | fail)

theorem State.loadStore_kept {q : List Instr} (s : State) (h : Kept q s) : Kept q (State.loadStore s) := by
  unfold State.loadStore
  repeat' (first | with_reducible assumption | with_reducible apply State.loadRec_kept | with_reducible apply State.post_kept | with_reducible refine State.choose_kept _ _ _ _ _ ?_ _ _ (by with_reducible assumption) | fail_if_no_progress (with_reducible apply Kept.upd) | with_reducible apply foldl_kept | (intro) | split | (fail_if_no_progress extract_lets) | (fail_if_no_progress beta_reduce) | (dsimp +zetaDelta only) | fail)

end Sys2Proof.Machine
end

