-- ==== Sys2Proof/Laws/KeptRegistry.lean ====
section
/-! SUPPORT. Every operation of Machine/Registry.lean leaves the queue alone and keeps the memories in canonical form. -/

set_option linter.unusedTactic false
set_option linter.unreachableTactic false
set_option linter.unusedVariables false
set_option linter.unnecessarySeqFocus false

namespace Sys2Proof.Machine

theorem State.updShard_kept {q : List Instr} (s : State) (r : LoadRef) (k : Nat) (f : Shard → Shard) (h : Kept q s) : Kept q (State.updShard s r k f) := by
  unfold State.updShard
  repeat' (first | with_reducible assumption | with_reducible apply State.updLoad_kept | fail_if_no_progress (with_reducible apply Kept.upd) | with_reducible apply foldl_kept | (intro) | split | (fail_if_no_progress extract_lets) | (fail_if_no_progress beta_reduce) | (dsimp +zetaDelta only) | fail)

theorem State.failShard_kept {q : List Instr} (s : State) (r : LoadRef) (k : Nat) (status : Nat) (h : Kept q s) : Kept q (State.failShard s r k status) := by
  unfold State.failShard
  repeat' (first | with_reducible assumption | with_reducible apply State.post_kept | with_reducible apply State.updShard_kept | fail_if_no_progress (with_reducible apply Kept.upd) | with_reducible apply foldl_kept | (intro) | split | (fail_if_no_progress extract_lets) | (fail_if_no_progress beta_reduce) | (dsimp +zetaDelta only) | fail)

theorem State.attemptFailed_kept {q : List Instr} (s : State) (r : LoadRef) (h' : Shard) (status : Nat) (h : Kept q s) : Kept q (State.attemptFailed s r h' status) := by
  unfold State.attemptFailed
  repeat' (first | with_reducible assumption | with_reducible apply State.checkLoad_kept | with_reducible apply State.event_kept | with_reducible apply State.failShard_kept | with_reducible apply Work.load_kept | with_reducible apply State.settle_kept | with_reducible apply State.startLoads_kept | with_reducible apply State.updShard_kept | fail_if_no_progress (with_reducible apply Kept.upd) | with_reducible apply foldl_kept | (intro) | split | (fail_if_no_progress extract_lets) | (fail_if_no_progress beta_reduce) | (dsimp +zetaDelta only) | fail)

theorem execShardAttemptEnd_kept {q : List Instr} (ref : LoadRef) (shard : Fin 260) (body : Bytes) (t : Nat) (s : State) (h : Kept q s) : ∀ y, execShardAttemptEnd ref shard body t s = .next y → Kept q y := by
  intro y hy
  unfold execShardAttemptEnd at hy
  cases hy
  repeat' (first | with_reducible assumption | with_reducible apply State.at'_kept | with_reducible apply State.attemptFailed_kept | with_reducible apply State.checkLoad_kept | with_reducible apply State.failShard_kept | with_reducible apply State.fwWrite_kept | with_reducible apply Work.load_kept | with_reducible apply State.settle_kept | with_reducible apply State.startLoads_kept | with_reducible apply State.updEntry_kept | with_reducible apply State.updShard_kept | fail_if_no_progress (with_reducible apply Kept.upd) | with_reducible apply foldl_kept | (intro) | split | (fail_if_no_progress extract_lets) | (fail_if_no_progress beta_reduce) | (dsimp +zetaDelta only) | fail)

theorem execShardTimeout_kept {q : List Instr} (ref : LoadRef) (shard : Fin 260) (t : Nat) (s : State) (h : Kept q s) : ∀ y, execShardTimeout ref shard t s = .next y → Kept q y := by
  intro y hy
  unfold execShardTimeout at hy
  cases hy
  repeat' (first | with_reducible assumption | with_reducible apply State.at'_kept | with_reducible apply State.attemptFailed_kept | with_reducible apply Work.load_kept | fail_if_no_progress (with_reducible apply Kept.upd) | with_reducible apply foldl_kept | (intro) | split | (fail_if_no_progress extract_lets) | (fail_if_no_progress beta_reduce) | (dsimp +zetaDelta only) | fail)

theorem execQpFailure_kept {q : List Instr} (qp : BitVec 24) (fetch : Option (LoadRef × Fin 4)) (t : Nat) (s : State) (h : Kept q s) : ∀ y, execQpFailure qp fetch t s = .next y → Kept q y := by
  intro y hy
  unfold execQpFailure at hy
  cases hy
  repeat' (first | with_reducible assumption | with_reducible apply State.at'_kept | with_reducible apply State.attemptFailed_kept | with_reducible apply Work.load_kept | fail_if_no_progress (with_reducible apply Kept.upd) | with_reducible apply foldl_kept | (intro) | split | (fail_if_no_progress extract_lets) | (fail_if_no_progress beta_reduce) | (dsimp +zetaDelta only) | fail)

theorem execGroupNotice_kept {q : List Instr} (m : MgmtIn) (tag : BitVec 64) (digest : BitVec 512) (member : Fin 64) (refs : Option (BitVec 32)) (t : Nat) (s : State) (h : Kept q s) : ∀ y, execGroupNotice m tag digest member refs t s = .next y → Kept q y := by
  intro y hy
  unfold execGroupNotice at hy
  cases hy
  repeat' (first | with_reducible assumption | with_reducible apply State.at'_kept | with_reducible apply Work.load_kept | with_reducible apply State.mgmtTake_kept | with_reducible apply State.settle_kept | with_reducible apply State.settleLoad_kept | with_reducible apply State.updLoad_kept | with_reducible apply State.updVersion_kept | fail_if_no_progress (with_reducible apply Kept.upd) | with_reducible apply foldl_kept | (intro) | split | (fail_if_no_progress extract_lets) | (fail_if_no_progress beta_reduce) | (dsimp +zetaDelta only) | fail)

theorem execGroupNoticeResend_kept {q : List Instr} (ref : LoadRef) (acked : Option (Fin 64)) (t : Nat) (s : State) (h : Kept q s) : ∀ y, execGroupNoticeResend ref acked t s = .next y → Kept q y := by
  intro y hy
  unfold execGroupNoticeResend at hy
  cases hy
  repeat' (first | with_reducible assumption | with_reducible apply State.at'_kept | with_reducible apply Work.load_kept | with_reducible apply State.putLoad_kept | with_reducible apply State.sendNotice_kept | fail_if_no_progress (with_reducible apply Kept.upd) | with_reducible apply foldl_kept | (intro) | split | (fail_if_no_progress extract_lets) | (fail_if_no_progress beta_reduce) | (dsimp +zetaDelta only) | fail)

theorem execEarlyNoticeExpire_kept {q : List Instr} (t : Nat) (s : State) (h : Kept q s) : ∀ y, execEarlyNoticeExpire t s = .next y → Kept q y := by
  intro y hy
  unfold execEarlyNoticeExpire at hy
  cases hy
  repeat' (first | with_reducible assumption | with_reducible apply State.at'_kept | fail_if_no_progress (with_reducible apply Kept.upd) | with_reducible apply foldl_kept | (intro) | split | (fail_if_no_progress extract_lets) | (fail_if_no_progress beta_reduce) | (dsimp +zetaDelta only) | fail)

theorem State.loseVersions_kept {q : List Instr} (s : State) (q' : Nat) (h : Kept q s) : Kept q (State.loseVersions s q') := by
  unfold State.loseVersions
  repeat' (first | with_reducible assumption | with_reducible apply State.updAdapter_kept | fail_if_no_progress (with_reducible apply Kept.upd) | with_reducible apply foldl_kept | (intro) | split | (fail_if_no_progress extract_lets) | (fail_if_no_progress beta_reduce) | (dsimp +zetaDelta only) | fail)

theorem State.loseShards_kept {q : List Instr} (s : State) (q' : Nat) (h : Kept q s) : Kept q (State.loseShards s q') := by
  unfold State.loseShards
  repeat' (first | with_reducible assumption | with_reducible apply State.dropFill_kept | with_reducible apply State.evictModel_kept | with_reducible apply State.holdModel_kept | with_reducible apply State.loseVersions_kept | with_reducible apply State.post_kept | with_reducible apply State.releasePlot_kept | with_reducible apply State.settle_kept | with_reducible apply State.updEntry_kept | with_reducible apply State.updShard_kept | fail_if_no_progress (with_reducible apply Kept.upd) | with_reducible apply foldl_kept | (intro) | split | (fail_if_no_progress extract_lets) | (fail_if_no_progress beta_reduce) | (dsimp +zetaDelta only) | fail)

theorem State.takeExtent_kept {q : List Instr} (s : State) (a : Alloc) (h : Kept q s) : Kept q (State.takeExtent s a) := by
  unfold State.takeExtent
  repeat' (first | with_reducible assumption | with_reducible apply State.setRegion_kept | with_reducible apply State.takeSpace_kept | fail_if_no_progress (with_reducible apply Kept.upd) | with_reducible apply foldl_kept | (intro) | split | (fail_if_no_progress extract_lets) | (fail_if_no_progress beta_reduce) | (dsimp +zetaDelta only) | fail)

theorem State.takeEarly_kept {q : List Instr} (s : State) (h' : Bytes) (h : Kept q s) : Kept q (State.takeEarly s h') := by
  unfold State.takeEarly
  repeat' (first | with_reducible assumption | fail_if_no_progress (with_reducible apply Kept.upd) | with_reducible apply foldl_kept | (intro) | split | (fail_if_no_progress extract_lets) | (fail_if_no_progress beta_reduce) | (dsimp +zetaDelta only) | fail)

theorem State.doRegister_kept {q : List Instr} (s : State) (p : Nat) (l : Bytes) (h : Kept q s) : Kept q (State.doRegister s p l).1 := by
  unfold State.doRegister
  repeat' (first | with_reducible assumption | with_reducible apply State.updEntry_kept | fail_if_no_progress (with_reducible apply Kept.upd) | with_reducible apply foldl_kept | (intro) | split | (fail_if_no_progress extract_lets) | (fail_if_no_progress beta_reduce) | (dsimp +zetaDelta only) | fail)

theorem State.startModel_kept {q : List Instr} (s : State) (i : Nat) (m : Image) (b : Bytes) (w : Waiter) (h : Kept q s) : Kept q (State.startModel s i m b w) := by
  unfold State.startModel
  repeat' (first | with_reducible assumption | with_reducible apply State.checkLoad_kept | with_reducible apply State.startLoads_kept | with_reducible apply State.takeEarly_kept | with_reducible apply State.updEntry_kept | fail_if_no_progress (with_reducible apply Kept.upd) | with_reducible apply foldl_kept | (intro) | split | (fail_if_no_progress extract_lets) | (fail_if_no_progress beta_reduce) | (dsimp +zetaDelta only) | fail)

theorem State.allocModel_kept {q : List Instr} (s : State) (i : Nat) (owner : Nat) (res : Nat) (aq : Nat) (bases : List Nat) (aqBase : Nat) (h : Kept q s) : Kept q (State.allocModel s i owner res aq bases aqBase) := by
  unfold State.allocModel
  repeat' (first | with_reducible assumption | with_reducible apply State.takeExtent_kept | with_reducible apply State.updEntry_kept | fail_if_no_progress (with_reducible apply Kept.upd) | with_reducible apply foldl_kept | (intro) | split | (fail_if_no_progress extract_lets) | (fail_if_no_progress beta_reduce) | (dsimp +zetaDelta only) | fail)

theorem State.doFetch_kept {q : List Instr} (s : State) (w : Waiter) (f : Option Bytes) (l : Bytes) (h : Kept q s) : Kept q (State.doFetch s w f l).1 := by
  unfold State.doFetch
  repeat' (first | with_reducible assumption | with_reducible apply State.allocModel_kept | with_reducible apply State.startModel_kept | fail_if_no_progress (with_reducible apply Kept.upd) | with_reducible apply foldl_kept | (intro) | split | (fail_if_no_progress extract_lets) | (fail_if_no_progress beta_reduce) | (dsimp +zetaDelta only) | fail)

theorem State.doFill_kept {q : List Instr} (s : State) (w : Waiter) (l : Bytes) (h : Kept q s) : Kept q (State.doFill s w l).1 := by
  unfold State.doFill
  repeat' (first | with_reducible assumption | with_reducible apply State.updModel_kept | with_reducible apply State.wantFill_kept | fail_if_no_progress (with_reducible apply Kept.upd) | with_reducible apply foldl_kept | (intro) | split | (fail_if_no_progress extract_lets) | (fail_if_no_progress beta_reduce) | (dsimp +zetaDelta only) | fail)

theorem State.doEvict_kept {q : List Instr} (s : State) (w : Waiter) (l : Bytes) (h : Kept q s) : Kept q (State.doEvict s w l).1 := by
  unfold State.doEvict
  repeat' (first | with_reducible assumption | with_reducible apply State.evictModel_kept | with_reducible apply State.settle_kept | fail_if_no_progress (with_reducible apply Kept.upd) | with_reducible apply foldl_kept | (intro) | split | (fail_if_no_progress extract_lets) | (fail_if_no_progress beta_reduce) | (dsimp +zetaDelta only) | fail)

theorem State.startVersion_kept {q : List Instr} (s : State) (i : Nat) (n : Nat) (owner : Nat) (m : Image) (b : Bytes) (w : Waiter) (base : Nat) (h : Kept q s) : Kept q (State.startVersion s i n owner m b w base) := by
  unfold State.startVersion
  repeat' (first | with_reducible assumption | with_reducible apply State.checkLoad_kept | with_reducible apply State.startLoads_kept | with_reducible apply State.takeEarly_kept | with_reducible apply State.takeExtent_kept | with_reducible apply State.updAdapter_kept | fail_if_no_progress (with_reducible apply Kept.upd) | with_reducible apply foldl_kept | (intro) | split | (fail_if_no_progress extract_lets) | (fail_if_no_progress beta_reduce) | (dsimp +zetaDelta only) | fail)

theorem State.doAdapterLoad_kept {q : List Instr} (s : State) (w : Waiter) (f : Option Bytes) (l : Bytes) (h : Kept q s) : Kept q (State.doAdapterLoad s w f l).1 := by
  unfold State.doAdapterLoad
  repeat' (first | with_reducible assumption | with_reducible apply State.startVersion_kept | with_reducible apply State.updAdapter_kept | fail_if_no_progress (with_reducible apply Kept.upd) | with_reducible apply foldl_kept | (intro) | split | (fail_if_no_progress extract_lets) | (fail_if_no_progress beta_reduce) | (dsimp +zetaDelta only) | fail)

theorem State.doAdapterReplace_kept {q : List Instr} (s : State) (w : Waiter) (f : Option Bytes) (l : Bytes) (h : Kept q s) : Kept q (State.doAdapterReplace s w f l).1 := by
  unfold State.doAdapterReplace
  repeat' (first | with_reducible assumption | with_reducible apply State.startVersion_kept | fail_if_no_progress (with_reducible apply Kept.upd) | with_reducible apply foldl_kept | (intro) | split | (fail_if_no_progress extract_lets) | (fail_if_no_progress beta_reduce) | (dsimp +zetaDelta only) | fail)

theorem State.withdrawReqs_kept {q : List Instr} (s : State) (id : Nat) (h : Kept q s) : Kept q (State.withdrawReqs s id) := by
  unfold State.withdrawReqs
  repeat' (first | with_reducible assumption | with_reducible apply State.endAll_kept | with_reducible apply State.updReq_kept | fail_if_no_progress (with_reducible apply Kept.upd) | with_reducible apply foldl_kept | (intro) | split | (fail_if_no_progress extract_lets) | (fail_if_no_progress beta_reduce) | (dsimp +zetaDelta only) | fail)

theorem State.doWithdraw_kept {q : List Instr} (s : State) (w : Waiter) (l : Bytes) (h : Kept q s) : Kept q (State.doWithdraw s w l).1 := by
  unfold State.doWithdraw
  repeat' (first | with_reducible assumption | with_reducible apply State.retireAdapter_kept | with_reducible apply State.settle_kept | with_reducible apply State.withdrawReqs_kept | fail_if_no_progress (with_reducible apply Kept.upd) | with_reducible apply foldl_kept | (intro) | split | (fail_if_no_progress extract_lets) | (fail_if_no_progress beta_reduce) | (dsimp +zetaDelta only) | fail)

theorem State.doPlatLoad_kept {q : List Instr} (s : State) (w : Waiter) (f : Option Bytes) (l : Bytes) (h : Kept q s) : Kept q (State.doPlatLoad s w f l).1 := by
  unfold State.doPlatLoad
  repeat' (first | with_reducible assumption | with_reducible apply State.updModel_kept | fail_if_no_progress (with_reducible apply Kept.upd) | with_reducible apply foldl_kept | (intro) | split | (fail_if_no_progress extract_lets) | (fail_if_no_progress beta_reduce) | (dsimp +zetaDelta only) | fail)

end Sys2Proof.Machine
end

