-- ==== Sys2Proof/Laws/KeptParcels.lean ====
section
/-! SUPPORT. Every operation of Machine/Parcels.lean leaves the queue alone and keeps the memories in canonical form. -/

set_option linter.unusedTactic false
set_option linter.unreachableTactic false
set_option linter.unusedVariables false
set_option linter.unnecessarySeqFocus false

namespace Sys2Proof.Machine

theorem State.makeParcel_kept {q : List Instr} (s : State) (p : Nat) (base : Nat) (len : Nat) (y : Parcel) (key : Bytes) (h : Kept q s) : Kept q (State.makeParcel s p base len y key) := by
  unfold State.makeParcel
  repeat' (first | with_reducible assumption | with_reducible apply State.setBox_kept | with_reducible apply State.setRegion_kept | with_reducible apply State.takeSpace_kept | with_reducible apply State.updParcel_kept | with_reducible apply State.wantCommit_kept | fail_if_no_progress (with_reducible apply Kept.upd) | with_reducible apply foldl_kept | (intro) | split | (fail_if_no_progress extract_lets) | (fail_if_no_progress beta_reduce) | (dsimp +zetaDelta only) | fail)

theorem State.doCreate_kept {q : List Instr} (s : State) (seq : Nat) (l : Bytes) (h : Kept q s) : Kept q (State.doCreate s seq l).1 := by
  unfold State.doCreate
  extract_lets p x
  split
  · exact h
  · split
    · exact h
    · split
      · split
        · exact h
        · exact State.makeParcel_kept _ _ _ _ _ _ h
      · exact h

theorem State.doEnable_kept {q : List Instr} (s : State) (l : Bytes) (deferred : Bool) (h : Kept q s) : Kept q (State.doEnable s l deferred).1 := by
  unfold State.doEnable
  repeat' (first | with_reducible assumption | with_reducible apply State.updParcel_kept | with_reducible apply State.wantCommit_kept | fail_if_no_progress (with_reducible apply Kept.upd) | with_reducible apply foldl_kept | (intro) | split | (fail_if_no_progress extract_lets) | (fail_if_no_progress beta_reduce) | (dsimp +zetaDelta only) | fail)

theorem State.closeParcel_kept {q : List Instr} (s : State) (p : Nat) (destroy : Bool) (w : Waiter) (h : Kept q s) : Kept q (State.closeParcel s p destroy w) := by
  unfold State.closeParcel
  repeat' (first | with_reducible assumption | with_reducible apply State.dropPolicy_kept | with_reducible apply State.endAll_kept | with_reducible apply State.settle_kept | with_reducible apply State.updParcel_kept | with_reducible apply State.wantCommit_kept | fail_if_no_progress (with_reducible apply Kept.upd) | with_reducible apply foldl_kept | (intro) | split | (fail_if_no_progress extract_lets) | (fail_if_no_progress beta_reduce) | (dsimp +zetaDelta only) | fail)

theorem State.doDisable_kept {q : List Instr} (s : State) (w : Waiter) (l : Bytes) (deferred : Bool) (h : Kept q s) : Kept q (State.doDisable s w l deferred).1 := by
  unfold State.doDisable
  repeat' (first | with_reducible assumption | with_reducible apply State.closeParcel_kept | fail_if_no_progress (with_reducible apply Kept.upd) | with_reducible apply foldl_kept | (intro) | split | (fail_if_no_progress extract_lets) | (fail_if_no_progress beta_reduce) | (dsimp +zetaDelta only) | fail)

theorem State.endSaved_kept {q : List Instr} (s : State) (p : Nat) (h : Kept q s) : Kept q (State.endSaved s p) := by
  unfold State.endSaved
  repeat' (first | with_reducible assumption | with_reducible apply State.endSlots_kept | fail_if_no_progress (with_reducible apply Kept.upd) | with_reducible apply foldl_kept | (intro) | split | (fail_if_no_progress extract_lets) | (fail_if_no_progress beta_reduce) | (dsimp +zetaDelta only) | fail)

theorem State.doDestroy_kept {q : List Instr} (s : State) (w : Waiter) (l : Bytes) (deferred : Bool) (h : Kept q s) : Kept q (State.doDestroy s w l deferred).1 := by
  unfold State.doDestroy
  repeat' (first | with_reducible assumption | with_reducible apply State.closeParcel_kept | with_reducible apply State.endSaved_kept | fail_if_no_progress (with_reducible apply Kept.upd) | with_reducible apply foldl_kept | (intro) | split | (fail_if_no_progress extract_lets) | (fail_if_no_progress beta_reduce) | (dsimp +zetaDelta only) | fail)

theorem State.scrubParcel_kept {q : List Instr} (s : State) (p : Nat) (h : Kept q s) : Kept q (State.scrubParcel s p) := by
  unfold State.scrubParcel
  repeat' (first | with_reducible assumption | with_reducible apply State.zeroRange_kept | fail_if_no_progress (with_reducible apply Kept.upd) | with_reducible apply foldl_kept | (intro) | split | (fail_if_no_progress extract_lets) | (fail_if_no_progress beta_reduce) | (dsimp +zetaDelta only) | fail)

theorem State.freeParcel_kept {q : List Instr} (s : State) (p : Nat) (h : Kept q s) : Kept q (State.freeParcel s p) := by
  unfold State.freeParcel
  repeat' (first | with_reducible assumption | with_reducible apply State.quarantine_kept | with_reducible apply State.setBox_kept | with_reducible apply State.setRegion_kept | with_reducible apply State.updParcel_kept | fail_if_no_progress (with_reducible apply Kept.upd) | with_reducible apply foldl_kept | (intro) | split | (fail_if_no_progress extract_lets) | (fail_if_no_progress beta_reduce) | (dsimp +zetaDelta only) | fail)

theorem execParcelScrubComplete_kept {q : List Instr} (parcel : Fin 513) (t : Nat) (s : State) (h : Kept q s) : ∀ y, execParcelScrubComplete parcel t s = .next y → Kept q y := by
  intro y hy
  unfold execParcelScrubComplete at hy
  cases hy
  repeat' (first | with_reducible assumption | with_reducible apply State.at'_kept | with_reducible apply State.complete_kept | with_reducible apply State.freeParcel_kept | with_reducible apply State.scrubParcel_kept | with_reducible apply State.updParcel_kept | with_reducible apply State.wantCommit_kept | fail_if_no_progress (with_reducible apply Kept.upd) | with_reducible apply foldl_kept | (intro) | split | (fail_if_no_progress extract_lets) | (fail_if_no_progress beta_reduce) | (dsimp +zetaDelta only) | fail)

theorem State.makeRing_kept {q : List Instr} (s : State) (p : Nat) (l : Bytes) (i : Nat) (base : Nat) (len : Nat) (h : Kept q s) : Kept q (State.makeRing s p l i base len) := by
  unfold State.makeRing
  repeat' (first | with_reducible assumption | with_reducible apply State.setRegion_kept | with_reducible apply State.takeSpace_kept | with_reducible apply State.tick_kept | with_reducible apply State.updCist_kept | with_reducible apply State.updRing_kept | fail_if_no_progress (with_reducible apply Kept.upd) | with_reducible apply foldl_kept | (intro) | split | (fail_if_no_progress extract_lets) | (fail_if_no_progress beta_reduce) | (dsimp +zetaDelta only) | fail)

theorem State.doRing_kept {q : List Instr} (s : State) (p : Nat) (l : Bytes) (h : Kept q s) : Kept q (State.doRing s p l).1 := by
  unfold State.doRing
  extract_lets i size q' hb len rings held mine
  split
  · exact h
  · split
    · exact h
    · split
      · exact h
      · split
        · exact h
        · exact State.makeRing_kept _ _ _ _ _ _ h

theorem State.doRingDestroy_kept {q : List Instr} (s : State) (w : Waiter) (l : Bytes) (h : Kept q s) : Kept q (State.doRingDestroy s w l).1 := by
  unfold State.doRingDestroy
  repeat' (first | with_reducible assumption | with_reducible apply State.destroyRing_kept | fail_if_no_progress (with_reducible apply Kept.upd) | with_reducible apply foldl_kept | (intro) | split | (fail_if_no_progress extract_lets) | (fail_if_no_progress beta_reduce) | (dsimp +zetaDelta only) | fail)

theorem State.lockPages_kept {q : List Instr} (s : State) (m : Model) (r : Req) (n : Nat) (h : Kept q s) : Kept q (State.lockPages s m r n) := by
  unfold State.lockPages
  repeat' (first | with_reducible assumption | with_reducible apply State.setRegion_kept | fail_if_no_progress (with_reducible apply Kept.upd) | with_reducible apply foldl_kept | (intro) | split | (fail_if_no_progress extract_lets) | (fail_if_no_progress beta_reduce) | (dsimp +zetaDelta only) | fail)

theorem State.makePrefix_kept {q : List Instr} (s : State) (m : Model) (r : Req) (i : Nat) (n : Nat) (base : Nat) (h : Kept q s) : Kept q (State.makePrefix s m r i n base) := by
  unfold State.makePrefix
  repeat' (first | with_reducible assumption | with_reducible apply State.fwWrite_kept | with_reducible apply State.lockPages_kept | with_reducible apply State.setRegion_kept | with_reducible apply State.takeSpace_kept | with_reducible apply State.updPrefix_kept | fail_if_no_progress (with_reducible apply Kept.upd) | with_reducible apply foldl_kept | (intro) | split | (fail_if_no_progress extract_lets) | (fail_if_no_progress beta_reduce) | (dsimp +zetaDelta only) | fail)

theorem State.doPin_kept {q : List Instr} (s : State) (w : Waiter) (l : Bytes) (h : Kept q s) : Kept q (State.doPin s w l).1 := by
  unfold State.doPin
  repeat' (first | with_reducible assumption | with_reducible apply State.makePrefix_kept | fail_if_no_progress (with_reducible apply Kept.upd) | with_reducible apply foldl_kept | (intro) | split | (fail_if_no_progress extract_lets) | (fail_if_no_progress beta_reduce) | (dsimp +zetaDelta only) | fail)

theorem State.doUnpin_kept {q : List Instr} (s : State) (w : Waiter) (l : Bytes) (h : Kept q s) : Kept q (State.doUnpin s w l).1 := by
  unfold State.doUnpin
  repeat' (first | with_reducible assumption | with_reducible apply State.collect_kept | with_reducible apply State.updPrefix_kept | fail_if_no_progress (with_reducible apply Kept.upd) | with_reducible apply foldl_kept | (intro) | split | (fail_if_no_progress extract_lets) | (fail_if_no_progress beta_reduce) | (dsimp +zetaDelta only) | fail)

end Sys2Proof.Machine
end

