-- ==== Sys2Proof/Laws/KeptRegisters.lean ====
section
/-! SUPPORT. Every operation of Machine/Registers.lean leaves the queue alone and keeps the memories in canonical form. -/

set_option linter.unusedTactic false
set_option linter.unreachableTactic false
set_option linter.unusedVariables false
set_option linter.unnecessarySeqFocus false

namespace Sys2Proof.Machine

theorem State.readBlock_kept {q : List Instr} (s : State) (b : Nat) (o : Nat) (h : Kept q s) : Kept q (State.readBlock s b o).2 := by
  unfold State.readBlock
  repeat' (first | with_reducible assumption | with_reducible apply State.setBlock_kept | fail_if_no_progress (with_reducible apply Kept.upd) | with_reducible apply foldl_kept | (intro) | split | (fail_if_no_progress extract_lets) | (fail_if_no_progress beta_reduce) | (dsimp +zetaDelta only) | fail)

theorem State.readReg_kept {q : List Instr} (s : State) (o : Nat) (h : Kept q s) : Kept q (State.readReg s o).2 := by
  unfold State.readReg
  exact ite_kept_snd h (ite_kept_snd (State.setTile_kept _ _ _ h) (ite_kept_snd (State.readBlock_kept _ _ _ h) (ite_kept_snd (State.updEngine_kept _ _ _ h) (ite_kept_snd (State.updQuad_kept _ _ _ h) (ite_kept_snd (ite_kept_snd h (ite_kept_snd (State.updPlotRegs_kept _ _ _ h) (State.updPlotRegs_kept _ _ _ h))) (ite_kept_snd (State.updArb_kept _ _ _ h) (ite_kept_snd (State.updCist_kept _ _ _ h) (ite_kept_snd (State.updLe_kept _ _ _ h) (ite_kept_snd (State.updGe_kept _ _ _ h) (ite_kept_snd h (ite_kept_snd (State.updTableEnt_kept _ _ _ h) (ite_kept_snd (Kept.upd h) (ite_kept_snd (Kept.upd h) (ite_kept_snd (Kept.upd h) (ite_kept_snd (Kept.upd h) (ite_kept_snd (State.updFport_kept _ _ _ h) (ite_kept_snd (Kept.upd h) h)))))))))))))))))

theorem execCounterReadClear_kept {q : List Instr} (off : BitVec 32) (s : State) (h : Kept q s) : ∀ y, execCounterReadClear off s = .next y → Kept q y := by
  intro y hy
  unfold execCounterReadClear at hy
  cases hy
  repeat' (first | with_reducible assumption | with_reducible apply State.readReg_kept | fail_if_no_progress (with_reducible apply Kept.upd) | with_reducible apply foldl_kept | (intro) | split | (fail_if_no_progress extract_lets) | (fail_if_no_progress beta_reduce) | (dsimp +zetaDelta only) | fail)

theorem execErrorRecordClear_kept {q : List Instr} (off : BitVec 32) (v : BitVec 64) (s : State) (h : Kept q s) :
    ∀ y, execErrorRecordClear off v s = .next y → Kept q y := by
  intro y hy
  rw [← Host.Outcome.next.inj hy]
  exact ite_kept h (ite_kept (State.updTile_kept _ _ _ h) (ite_kept (State.updTile_kept _ _ _ h) (ite_kept (State.updPlotRegs_kept _ _ _ h) (ite_kept (State.updEngine_kept _ _ _ h) (ite_kept (State.updArb_kept _ _ _ h) (ite_kept (State.updCist_kept _ _ _ h) (ite_kept (State.updLe_kept _ _ _ h) (ite_kept (State.updGe_kept _ _ _ h) (ite_kept h (ite_kept h (ite_kept (State.updFport_kept _ _ _ h) h)))))))))))

theorem execRegisterWrite_kept {q : List Instr} (off : BitVec 32) (v : BitVec 64) (s : State) (h : Kept q s) :
    ∀ y, execRegisterWrite off v s = .next y → Kept q y := by
  intro y hy
  rw [← Host.Outcome.next.inj hy]
  exact ite_kept h (ite_kept (State.updTile_kept _ _ _ h) (ite_kept (ite_kept (State.serveEngine_kept _ _ (State.updEngine_kept _ _ _ h)) (State.updEngine_kept _ _ _ h)) (ite_kept (State.updArb_kept _ _ _ h) (ite_kept (ite_kept h (State.updCist_kept _ _ _ h)) (ite_kept (State.updLe_kept _ _ _ h) (ite_kept (ite_kept h (State.updTableEnt_kept _ _ _ h)) (ite_kept (Kept.upd h) (ite_kept (State.wantCommit_kept _ (Kept.upd h)) (ite_kept (State.wantCommit_kept _ (Kept.upd h)) (ite_kept (Kept.upd h) h))))))))))

end Sys2Proof.Machine
end

