-- ==== Sys2Proof/Laws/KeptStats.lean ====
section
/-! SUPPORT. Every operation of Machine/Stats.lean leaves the queue alone and keeps the memories in canonical form. -/

set_option linter.unusedTactic false
set_option linter.unreachableTactic false
set_option linter.unusedVariables false
set_option linter.unnecessarySeqFocus false

namespace Sys2Proof.Machine

theorem readWords_kept {q : List Instr} (f : State → Nat → Nat × State) (n o : Nat) (s : State) (h : Kept q s)
    (hf : ∀ t x, Kept q t → Kept q (f t x).2) : Kept q (readWords f n o s).2 := by
  induction n generalizing o s with
  | zero => exact h
  | succ n ih => exact ih _ _ (hf _ _ h)

theorem State.ringWord_kept {q : List Instr} (i : Nat) (s : State) (o : Nat) (h : Kept q s) : Kept q (State.ringWord i s o).2 := by
  unfold State.ringWord
  repeat' (first | with_reducible assumption | with_reducible apply State.updRing_kept | fail_if_no_progress (with_reducible apply Kept.upd) | with_reducible apply foldl_kept | (intro) | split | (fail_if_no_progress extract_lets) | (fail_if_no_progress beta_reduce) | (dsimp +zetaDelta only) | fail)

theorem State.parcelWord_kept {q : List Instr} (p : Nat) (s : State) (o : Nat) (h : Kept q s) : Kept q (State.parcelWord p s o).2 := by
  unfold State.parcelWord
  repeat' (first | with_reducible assumption | with_reducible apply State.admitted_kept | with_reducible apply State.updParcel_kept | fail_if_no_progress (with_reducible apply Kept.upd) | with_reducible apply foldl_kept | (intro) | split | (fail_if_no_progress extract_lets) | (fail_if_no_progress beta_reduce) | (dsimp +zetaDelta only) | fail)

theorem State.counters_kept {q : List Instr} (s : State) (p : Nat) (l : Bytes) (h : Kept q s) : Kept q (State.counters s p l).1 := by
  unfold State.counters
  repeat' (first | with_reducible assumption | with_reducible apply State.parcelWord_kept | with_reducible apply State.readReg_kept | with_reducible apply readWords_kept | with_reducible apply State.ringWord_kept | fail_if_no_progress (with_reducible apply Kept.upd) | with_reducible apply foldl_kept | (intro) | split | (fail_if_no_progress extract_lets) | (fail_if_no_progress beta_reduce) | (dsimp +zetaDelta only) | fail)

theorem State.polCopy_kept {q : List Instr} (s : State) (i : Nat) (a : Nat) (l : Bytes) (h : Kept q s) : Kept q (State.polCopy s i a l).1 := by
  unfold State.polCopy
  repeat' (first | with_reducible assumption | with_reducible apply State.setPolicy_kept | fail_if_no_progress (with_reducible apply Kept.upd) | with_reducible apply foldl_kept | (intro) | split | (fail_if_no_progress extract_lets) | (fail_if_no_progress beta_reduce) | (dsimp +zetaDelta only) | fail)

theorem execPolCounters_kept {q : List Instr} (slot : Fin 4) (a0 : BitVec 64) (s : State) (h : Kept q s) : ∀ y, execPolCounters slot a0 s = .next y → Kept q y := by
  intro y hy
  unfold execPolCounters at hy
  cases hy
  repeat' (first | with_reducible assumption | with_reducible apply State.parcelWord_kept | with_reducible apply State.polCall_kept | with_reducible apply State.polCopy_kept | with_reducible apply readWords_kept | fail_if_no_progress (with_reducible apply Kept.upd) | with_reducible apply foldl_kept | (intro) | split | (fail_if_no_progress extract_lets) | (fail_if_no_progress beta_reduce) | (dsimp +zetaDelta only) | fail)

theorem execPolPlots_kept {q : List Instr} (slot : Fin 4) (a0 : BitVec 64) (s : State) (h : Kept q s) : ∀ y, execPolPlots slot a0 s = .next y → Kept q y := by
  intro y hy
  unfold execPolPlots at hy
  cases hy
  repeat' (first | with_reducible assumption | with_reducible apply State.polCall_kept | with_reducible apply State.polCopy_kept | fail_if_no_progress (with_reducible apply Kept.upd) | with_reducible apply foldl_kept | (intro) | split | (fail_if_no_progress extract_lets) | (fail_if_no_progress beta_reduce) | (dsimp +zetaDelta only) | fail)

theorem execI3cMctpMessage_kept {q : List Instr} (req : I3cReq) (s : State) (h : Kept q s) : ∀ y, execI3cMctpMessage req s = .next y → Kept q y := by
  intro y hy
  unfold execI3cMctpMessage at hy
  cases hy
  repeat' (first | with_reducible assumption | fail_if_no_progress (with_reducible apply Kept.upd) | with_reducible apply foldl_kept | (intro) | split | (fail_if_no_progress extract_lets) | (fail_if_no_progress beta_reduce) | (dsimp +zetaDelta only) | fail)

end Sys2Proof.Machine
end

