-- ==== Sys2Proof/Laws/KeptPower.lean ====
section
/-! SUPPORT. Every operation of Machine/Power.lean leaves the queue alone and keeps the memories in canonical form. -/

set_option linter.unusedTactic false
set_option linter.unreachableTactic false
set_option linter.unusedVariables false
set_option linter.unnecessarySeqFocus false

namespace Sys2Proof.Machine

theorem State.updPower_kept {q : List Instr} (s : State) (f : Power → Power) (h : Kept q s) : Kept q (State.updPower s f) := by
  unfold State.updPower
  repeat' (first | with_reducible assumption | fail_if_no_progress (with_reducible apply Kept.upd) | with_reducible apply foldl_kept | (intro) | split | (fail_if_no_progress extract_lets) | (fail_if_no_progress beta_reduce) | (dsimp +zetaDelta only) | fail)

theorem State.pwrEvent_kept {q : List Instr} (s : State) (i : Nat) (h : Kept q s) : Kept q (State.pwrEvent s i) := by
  unfold State.pwrEvent
  repeat' (first | with_reducible assumption | with_reducible apply State.event_kept | with_reducible apply State.signal_kept | with_reducible apply State.updPower_kept | fail_if_no_progress (with_reducible apply Kept.upd) | with_reducible apply foldl_kept | (intro) | split | (fail_if_no_progress extract_lets) | (fail_if_no_progress beta_reduce) | (dsimp +zetaDelta only) | fail)

theorem State.postPower_kept {q : List Instr} (s : State) (dr : Bool) (code : Nat) (status : Nat) (unit : Nat) (detail : Nat) (h : Kept q s) : Kept q (State.postPower s dr code status unit detail) := by
  unfold State.postPower
  repeat' (first | with_reducible assumption | with_reducible apply State.post_kept | fail_if_no_progress (with_reducible apply Kept.upd) | with_reducible apply foldl_kept | (intro) | split | (fail_if_no_progress extract_lets) | (fail_if_no_progress beta_reduce) | (dsimp +zetaDelta only) | fail)

theorem State.setMode_kept {q : List Instr} (s : State) (x : PwrMode) (cause : Nat) (h : Kept q s) : Kept q (State.setMode s x cause) := by
  unfold State.setMode
  repeat' (first | with_reducible assumption | with_reducible apply State.postPower_kept | with_reducible apply State.updPower_kept | fail_if_no_progress (with_reducible apply Kept.upd) | with_reducible apply foldl_kept | (intro) | split | (fail_if_no_progress extract_lets) | (fail_if_no_progress beta_reduce) | (dsimp +zetaDelta only) | fail)

theorem State.reached_kept {q : List Instr} (s : State) (x : PwrMode) (h : Kept q s) : Kept q (State.reached s x) := by
  unfold State.reached
  repeat' (first | with_reducible assumption | with_reducible apply State.complete_kept | with_reducible apply State.updPower_kept | fail_if_no_progress (with_reducible apply Kept.upd) | with_reducible apply foldl_kept | (intro) | split | (fail_if_no_progress extract_lets) | (fail_if_no_progress beta_reduce) | (dsimp +zetaDelta only) | fail)

theorem State.startClocks_kept {q : List Instr} (s : State) (h : Kept q s) : Kept q (State.startClocks s) := by
  unfold State.startClocks
  repeat' (first | with_reducible assumption | with_reducible apply State.updPower_kept | fail_if_no_progress (with_reducible apply Kept.upd) | with_reducible apply foldl_kept | (intro) | split | (fail_if_no_progress extract_lets) | (fail_if_no_progress beta_reduce) | (dsimp +zetaDelta only) | fail)

theorem State.stopClocks_kept {q : List Instr} (s : State) (h : Kept q s) : Kept q (State.stopClocks s) := by
  unfold State.stopClocks
  repeat' (first | with_reducible assumption | with_reducible apply State.updPower_kept | fail_if_no_progress (with_reducible apply Kept.upd) | with_reducible apply foldl_kept | (intro) | split | (fail_if_no_progress extract_lets) | (fail_if_no_progress beta_reduce) | (dsimp +zetaDelta only) | fail)

theorem State.arrayOff_kept {q : List Instr} (s : State) (q' : Nat) (h : Kept q s) : Kept q (State.arrayOff s q') := by
  unfold State.arrayOff
  repeat' (first | with_reducible assumption | with_reducible apply State.updPlotRegs_kept | with_reducible apply State.updPower_kept | with_reducible apply State.updTiles_kept | fail_if_no_progress (with_reducible apply Kept.upd) | with_reducible apply foldl_kept | (intro) | split | (fail_if_no_progress extract_lets) | (fail_if_no_progress beta_reduce) | (dsimp +zetaDelta only) | fail)

theorem State.fieldOff_kept {q : List Instr} (s : State) (u : Nat) (h : Kept q s) : Kept q (State.fieldOff s u) := by
  refine State.updPower_kept _ _ (State.updQuad_kept _ _ _ (Kept.updMem h (fun hm => ?_)))
  exact Mem.untag_wf _ _ _ (Mem.zero_wf _ _ _ hm)

theorem State.keptCarve_kept {q : List Instr} (s : State) (q' : Nat) (h : Kept q s) : Kept q (State.keptCarve s q') := by
  unfold State.keptCarve
  repeat' (first | with_reducible assumption | with_reducible apply State.buildCarve_kept | with_reducible apply State.buildQuad_kept | fail_if_no_progress (with_reducible apply Kept.upd) | with_reducible apply foldl_kept | (intro) | split | (fail_if_no_progress extract_lets) | (fail_if_no_progress beta_reduce) | (dsimp +zetaDelta only) | fail)

theorem State.memLost_kept {q : List Instr} (s : State) (q' : Nat) (h : Kept q s) : Kept q (State.memLost s q') := by
  unfold State.memLost
  repeat' (first | with_reducible assumption | with_reducible apply State.updCist_kept | with_reducible apply State.updQuad_kept | fail_if_no_progress (with_reducible apply Kept.upd) | with_reducible apply foldl_kept | (intro) | split | (fail_if_no_progress extract_lets) | (fail_if_no_progress beta_reduce) | (dsimp +zetaDelta only) | fail)

theorem State.assignDuties_kept {q : List Instr} (s : State) (stopped : List Nat) (h : Kept q s) : Kept q (State.assignDuties s stopped) := by
  unfold State.assignDuties
  repeat' (first | with_reducible assumption | with_reducible apply State.updCore_kept | fail_if_no_progress (with_reducible apply Kept.upd) | with_reducible apply foldl_kept | (intro) | split | (fail_if_no_progress extract_lets) | (fail_if_no_progress beta_reduce) | (dsimp +zetaDelta only) | fail)

theorem State.toOff_kept {q : List Instr} (s : State) (why : Nat) (h : Kept q s) : Kept q (State.toOff s why) :=
  ⟨h.1, reset_mem_wf⟩

theorem State.flushBook_kept {q : List Instr} (s : State) (h : Kept q s) : Kept q (State.flushBook s) := by
  unfold State.flushBook
  repeat' (first | with_reducible assumption | fail_if_no_progress (with_reducible apply Kept.upd) | with_reducible apply foldl_kept | (intro) | split | (fail_if_no_progress extract_lets) | (fail_if_no_progress beta_reduce) | (dsimp +zetaDelta only) | fail)

theorem State.endEvery_kept {q : List Instr} (s : State) (status : Nat) (h : Kept q s) : Kept q (State.endEvery s status) := by
  unfold State.endEvery
  repeat' (first | with_reducible assumption | with_reducible apply State.drainRing_kept | with_reducible apply State.endAll_kept | fail_if_no_progress (with_reducible apply Kept.upd) | with_reducible apply foldl_kept | (intro) | split | (fail_if_no_progress extract_lets) | (fail_if_no_progress beta_reduce) | (dsimp +zetaDelta only) | fail)

theorem State.forceTasks_kept {q : List Instr} (s : State) (cause : Nat) (status : Nat) (h : Kept q s) : Kept q (State.forceTasks s cause status) := by
  unfold State.forceTasks
  repeat' (first | with_reducible assumption | with_reducible apply State.force_kept | fail_if_no_progress (with_reducible apply Kept.upd) | with_reducible apply foldl_kept | (intro) | split | (fail_if_no_progress extract_lets) | (fail_if_no_progress beta_reduce) | (dsimp +zetaDelta only) | fail)

theorem execPowerFail_kept {q : List Instr} (cause : Fin 3) (mv : BitVec 16) (t : Nat) (s : State) (h : Kept q s) : ∀ y, execPowerFail cause mv t s = .next y → Kept q y := by
  intro y hy
  unfold execPowerFail at hy
  cases hy
  repeat' (first | with_reducible assumption | with_reducible apply State.at'_kept | with_reducible apply State.endEvery_kept | with_reducible apply State.flushBook_kept | with_reducible apply State.forceTasks_kept | with_reducible apply State.forcedSwitch_kept | with_reducible apply State.postPower_kept | with_reducible apply State.setMode_kept | with_reducible apply State.toOff_kept | fail_if_no_progress (with_reducible apply Kept.upd) | with_reducible apply foldl_kept | (intro) | split | (fail_if_no_progress extract_lets) | (fail_if_no_progress beta_reduce) | (dsimp +zetaDelta only) | fail)

theorem execHardwareTrip_kept {q : List Instr} (die : Fin 5) (t : Nat) (s : State) (h : Kept q s) : ∀ y, execHardwareTrip die t s = .next y → Kept q y := by
  intro y hy
  unfold execHardwareTrip at hy
  cases hy
  repeat' (first | with_reducible assumption | with_reducible apply State.at'_kept | with_reducible apply State.flushBook_kept | with_reducible apply State.postPower_kept | with_reducible apply State.toOff_kept | with_reducible apply State.updPower_kept | fail_if_no_progress (with_reducible apply Kept.upd) | with_reducible apply foldl_kept | (intro) | split | (fail_if_no_progress extract_lets) | (fail_if_no_progress beta_reduce) | (dsimp +zetaDelta only) | fail)

theorem execBrownoutEnter_kept {q : List Instr} (mv : BitVec 16) (t : Nat) (s : State) (h : Kept q s) : ∀ y, execBrownoutEnter mv t s = .next y → Kept q y := by
  intro y hy
  unfold execBrownoutEnter at hy
  cases hy
  repeat' (first | with_reducible assumption | with_reducible apply State.at'_kept | with_reducible apply State.postPower_kept | with_reducible apply State.pwrEvent_kept | with_reducible apply State.updPower_kept | fail_if_no_progress (with_reducible apply Kept.upd) | with_reducible apply foldl_kept | (intro) | split | (fail_if_no_progress extract_lets) | (fail_if_no_progress beta_reduce) | (dsimp +zetaDelta only) | fail)

theorem execBrownoutRelease_kept {q : List Instr} (mv : BitVec 16) (t : Nat) (s : State) (h : Kept q s) : ∀ y, execBrownoutRelease mv t s = .next y → Kept q y := by
  intro y hy
  unfold execBrownoutRelease at hy
  cases hy
  repeat' (first | with_reducible assumption | with_reducible apply State.at'_kept | with_reducible apply State.postPower_kept | with_reducible apply State.updPower_kept | fail_if_no_progress (with_reducible apply Kept.upd) | with_reducible apply foldl_kept | (intro) | split | (fail_if_no_progress extract_lets) | (fail_if_no_progress beta_reduce) | (dsimp +zetaDelta only) | fail)

theorem execPowerCapTick_kept {q : List Instr} (vmain : BitVec 16) (imain : BitVec 16) (vaux : BitVec 16) (avg : BitVec 16) (t : Nat) (s : State) (h : Kept q s) : ∀ y, execPowerCapTick vmain imain vaux avg t s = .next y → Kept q y := by
  intro y hy
  unfold execPowerCapTick at hy
  cases hy
  repeat' (first | with_reducible assumption | with_reducible apply State.at'_kept | with_reducible apply State.postPower_kept | with_reducible apply State.pwrEvent_kept | with_reducible apply State.updPower_kept | fail_if_no_progress (with_reducible apply Kept.upd) | with_reducible apply foldl_kept | (intro) | split | (fail_if_no_progress extract_lets) | (fail_if_no_progress beta_reduce) | (dsimp +zetaDelta only) | fail)

theorem execFrequencyChange_kept {q : List Instr} (quad : Fin 4) (t : Nat) (s : State) (h : Kept q s) : ∀ y, execFrequencyChange quad t s = .next y → Kept q y := by
  intro y hy
  unfold execFrequencyChange at hy
  cases hy
  repeat' (first | with_reducible assumption | with_reducible apply State.at'_kept | with_reducible apply State.updPower_kept | fail_if_no_progress (with_reducible apply Kept.upd) | with_reducible apply foldl_kept | (intro) | split | (fail_if_no_progress extract_lets) | (fail_if_no_progress beta_reduce) | (dsimp +zetaDelta only) | fail)

theorem State.coolStep_kept {q : List Instr} (s : State) (q' : Nat) (temp : Nat) (unit : Nat) (h : Kept q s) : Kept q (State.coolStep s q' temp unit) := by
  unfold State.coolStep
  repeat' (first | with_reducible assumption | with_reducible apply State.postPower_kept | with_reducible apply State.pwrEvent_kept | with_reducible apply State.updPower_kept | fail_if_no_progress (with_reducible apply Kept.upd) | with_reducible apply foldl_kept | (intro) | split | (fail_if_no_progress extract_lets) | (fail_if_no_progress beta_reduce) | (dsimp +zetaDelta only) | fail)

theorem State.warmStep_kept {q : List Instr} (s : State) (q' : Nat) (temp : Nat) (unit : Nat) (h : Kept q s) : Kept q (State.warmStep s q' temp unit) := by
  unfold State.warmStep
  repeat' (first | with_reducible assumption | with_reducible apply State.postPower_kept | with_reducible apply State.updPower_kept | fail_if_no_progress (with_reducible apply Kept.upd) | with_reducible apply foldl_kept | (intro) | split | (fail_if_no_progress extract_lets) | (fail_if_no_progress beta_reduce) | (dsimp +zetaDelta only) | fail)

theorem State.thermQuad_kept {q : List Instr} (s : State) (x : Samples) (q' : Nat) (h : Kept q s) : Kept q (State.thermQuad s x q') := by
  unfold State.thermQuad
  repeat' (first | with_reducible assumption | with_reducible apply State.coolStep_kept | with_reducible apply State.updPower_kept | with_reducible apply State.warmStep_kept | fail_if_no_progress (with_reducible apply Kept.upd) | with_reducible apply foldl_kept | (intro) | split | (fail_if_no_progress extract_lets) | (fail_if_no_progress beta_reduce) | (dsimp +zetaDelta only) | fail)

theorem execThermalSample_kept {q : List Instr} (x : Samples) (t : Nat) (s : State) (h : Kept q s) : ∀ y, execThermalSample x t s = .next y → Kept q y := by
  intro y hy
  unfold execThermalSample at hy
  cases hy
  repeat' (first | with_reducible assumption | with_reducible apply State.at'_kept | with_reducible apply State.thermQuad_kept | with_reducible apply State.updPower_kept | fail_if_no_progress (with_reducible apply Kept.upd) | with_reducible apply foldl_kept | (intro) | split | (fail_if_no_progress extract_lets) | (fail_if_no_progress beta_reduce) | (dsimp +zetaDelta only) | fail)

theorem State.dropHolds_kept {q : List Instr} (s : State) (h : Kept q s) : Kept q (State.dropHolds s) := by
  unfold State.dropHolds
  repeat' (first | with_reducible assumption | with_reducible apply State.dropReq_kept | fail_if_no_progress (with_reducible apply Kept.upd) | with_reducible apply foldl_kept | (intro) | split | (fail_if_no_progress extract_lets) | (fail_if_no_progress beta_reduce) | (dsimp +zetaDelta only) | fail)

theorem State.evictUnretained_kept {q : List Instr} (s : State) (h : Kept q s) : Kept q (State.evictUnretained s) := by
  unfold State.evictUnretained
  repeat' (first | with_reducible assumption | with_reducible apply State.releasePlot_kept | with_reducible apply State.updModel_kept | fail_if_no_progress (with_reducible apply Kept.upd) | with_reducible apply foldl_kept | (intro) | split | (fail_if_no_progress extract_lets) | (fail_if_no_progress beta_reduce) | (dsimp +zetaDelta only) | fail)

theorem State.fabOff_kept {q : List Instr} (s : State) (h : Kept q s) : Kept q (State.fabOff s) := by
  unfold State.fabOff
  repeat' (first | with_reducible assumption | with_reducible apply State.updFport_kept | fail_if_no_progress (with_reducible apply Kept.upd) | with_reducible apply foldl_kept | (intro) | split | (fail_if_no_progress extract_lets) | (fail_if_no_progress beta_reduce) | (dsimp +zetaDelta only) | fail)

theorem State.toDormant_kept {q : List Instr} (s : State) (h : Kept q s) : Kept q (State.toDormant s) := by
  unfold State.toDormant
  repeat' (first | with_reducible assumption | with_reducible apply State.arrayOff_kept | with_reducible apply State.assignDuties_kept | with_reducible apply State.cxlDown_kept | with_reducible apply State.dropHolds_kept | with_reducible apply State.ethDown_kept | with_reducible apply State.evictUnretained_kept | with_reducible apply State.fabOff_kept | with_reducible apply State.fieldOff_kept | with_reducible apply State.memLost_kept | with_reducible apply State.updCore_kept | with_reducible apply State.updPower_kept | with_reducible apply State.updQuad_kept | fail_if_no_progress (with_reducible apply Kept.upd) | with_reducible apply foldl_kept | (intro) | split | (fail_if_no_progress extract_lets) | (fail_if_no_progress beta_reduce) | (dsimp +zetaDelta only) | (with_reducible refine Kept.updMem ?_ (fun hm => ?_); rotate_left; · (first | with_reducible apply storeWord_wf | with_reducible apply Mem.store_wf | with_reducible apply Mem.zero_wf | with_reducible apply Mem.writeN_wf | with_reducible apply Mem.tagPages_wf | with_reducible apply Mem.ueSet_wf | with_reducible apply Mem.regionSet_wf | with_reducible apply Mem.tagsOff_wf | (with_reducible apply foldl_mem_wf; intro) | split) <;> (repeat' (first | with_reducible assumption | (intro) | with_reducible apply storeWord_wf | with_reducible apply Mem.store_wf | with_reducible apply Mem.zero_wf | with_reducible apply Mem.writeN_wf | with_reducible apply Mem.tagPages_wf | with_reducible apply Mem.ueSet_wf | with_reducible apply Mem.regionSet_wf | with_reducible apply Mem.tagsOff_wf | split | exact Kept.mem (by with_reducible assumption)))) | fail)

theorem State.placeAgain_kept {q : List Instr} (s : State) (b : Nat) (h : Kept q s) : Kept q (State.placeAgain s b) := by
  unfold State.placeAgain
  repeat' (first | with_reducible assumption | with_reducible apply State.loadSection_kept | with_reducible apply State.place_kept | with_reducible apply State.setPlot_kept | fail_if_no_progress (with_reducible apply Kept.upd) | with_reducible apply foldl_kept | (intro) | split | (fail_if_no_progress extract_lets) | (fail_if_no_progress beta_reduce) | (dsimp +zetaDelta only) | fail)

theorem State.leaveDormant_kept {q : List Instr} (s : State) (h : Kept q s) : Kept q (State.leaveDormant s) := by
  unfold State.leaveDormant
  repeat' (first | with_reducible assumption | with_reducible apply State.assignDuties_kept | with_reducible apply Work.core_kept | with_reducible apply State.keptCarve_kept | with_reducible apply State.placeAgain_kept | with_reducible apply State.updCore_kept | with_reducible apply State.updPower_kept | fail_if_no_progress (with_reducible apply Kept.upd) | with_reducible apply foldl_kept | (intro) | split | (fail_if_no_progress extract_lets) | (fail_if_no_progress beta_reduce) | (dsimp +zetaDelta only) | (with_reducible refine Kept.updMem ?_ (fun hm => ?_); rotate_left; · (first | with_reducible apply storeWord_wf | with_reducible apply Mem.store_wf | with_reducible apply Mem.zero_wf | with_reducible apply Mem.writeN_wf | with_reducible apply Mem.tagPages_wf | with_reducible apply Mem.ueSet_wf | with_reducible apply Mem.regionSet_wf | with_reducible apply Mem.tagsOff_wf | (with_reducible apply foldl_mem_wf; intro) | split) <;> (repeat' (first | with_reducible assumption | (intro) | with_reducible apply storeWord_wf | with_reducible apply Mem.store_wf | with_reducible apply Mem.zero_wf | with_reducible apply Mem.writeN_wf | with_reducible apply Mem.tagPages_wf | with_reducible apply Mem.ueSet_wf | with_reducible apply Mem.regionSet_wf | with_reducible apply Mem.tagsOff_wf | split | exact Kept.mem (by with_reducible assumption)))) | fail)

theorem State.resumeIntake_kept {q : List Instr} (s : State) (h : Kept q s) : Kept q (State.resumeIntake s) := by
  unfold State.resumeIntake
  repeat' (first | with_reducible assumption | with_reducible apply State.intake_kept | fail_if_no_progress (with_reducible apply Kept.upd) | with_reducible apply foldl_kept | (intro) | split | (fail_if_no_progress extract_lets) | (fail_if_no_progress beta_reduce) | (dsimp +zetaDelta only) | fail)

theorem execPowerStateDrainDone_kept {q : List Instr} (t : Nat) (s : State) (h : Kept q s) : ∀ y, execPowerStateDrainDone t s = .next y → Kept q y := by
  intro y hy
  unfold execPowerStateDrainDone at hy
  cases hy
  repeat' (first | with_reducible assumption | with_reducible apply State.at'_kept | with_reducible apply State.dropHolds_kept | with_reducible apply State.reached_kept | with_reducible apply State.setMode_kept | with_reducible apply State.stopClocks_kept | with_reducible apply State.toDormant_kept | with_reducible apply State.toOff_kept | with_reducible apply State.updPower_kept | fail_if_no_progress (with_reducible apply Kept.upd) | with_reducible apply foldl_kept | (intro) | split | (fail_if_no_progress extract_lets) | (fail_if_no_progress beta_reduce) | (dsimp +zetaDelta only) | fail)

theorem execWake_kept {q : List Instr} (t : Nat) (s : State) (h : Kept q s) : ∀ y, execWake t s = .next y → Kept q y := by
  intro y hy
  unfold execWake at hy
  cases hy
  repeat' (first | with_reducible assumption | with_reducible apply State.at'_kept | with_reducible apply State.leaveDormant_kept | with_reducible apply State.reached_kept | with_reducible apply State.resumeIntake_kept | with_reducible apply State.setMode_kept | with_reducible apply State.startClocks_kept | with_reducible apply State.stopClocks_kept | with_reducible apply State.updPower_kept | fail_if_no_progress (with_reducible apply Kept.upd) | with_reducible apply foldl_kept | (intro) | split | (fail_if_no_progress extract_lets) | (fail_if_no_progress beta_reduce) | (dsimp +zetaDelta only) | fail)

theorem State.enterHold_kept {q : List Instr} (s : State) (cool : Bool) (h : Kept q s) : Kept q (State.enterHold s cool) := by
  unfold State.enterHold
  repeat' (first | with_reducible assumption | with_reducible apply State.forceTasks_kept | with_reducible apply State.leaveDormant_kept | with_reducible apply State.setMode_kept | with_reducible apply State.stopClocks_kept | with_reducible apply State.updPower_kept | fail_if_no_progress (with_reducible apply Kept.upd) | with_reducible apply foldl_kept | (intro) | split | (fail_if_no_progress extract_lets) | (fail_if_no_progress beta_reduce) | (dsimp +zetaDelta only) | fail)

theorem execThermalLimit_kept {q : List Instr} (unit : BitVec 8) (temp : BitVec 8) (t : Nat) (s : State) (h : Kept q s) : ∀ y, execThermalLimit unit temp t s = .next y → Kept q y := by
  intro y hy
  unfold execThermalLimit at hy
  cases hy
  repeat' (first | with_reducible assumption | with_reducible apply State.at'_kept | with_reducible apply State.enterHold_kept | with_reducible apply State.postPower_kept | with_reducible apply State.pwrEvent_kept | with_reducible apply State.updPower_kept | fail_if_no_progress (with_reducible apply Kept.upd) | with_reducible apply foldl_kept | (intro) | split | (fail_if_no_progress extract_lets) | (fail_if_no_progress beta_reduce) | (dsimp +zetaDelta only) | fail)

theorem execCoolantLost_kept {q : List Instr} (t : Nat) (s : State) (h : Kept q s) : ∀ y, execCoolantLost t s = .next y → Kept q y := by
  intro y hy
  unfold execCoolantLost at hy
  cases hy
  repeat' (first | with_reducible assumption | with_reducible apply State.at'_kept | with_reducible apply State.enterHold_kept | with_reducible apply State.postPower_kept | with_reducible apply State.pwrEvent_kept | with_reducible apply State.toOff_kept | with_reducible apply State.updPower_kept | fail_if_no_progress (with_reducible apply Kept.upd) | with_reducible apply foldl_kept | (intro) | split | (fail_if_no_progress extract_lets) | (fail_if_no_progress beta_reduce) | (dsimp +zetaDelta only) | fail)

theorem execCoolantOffTimeout_kept {q : List Instr} (t : Nat) (s : State) (h : Kept q s) : ∀ y, execCoolantOffTimeout t s = .next y → Kept q y := by
  intro y hy
  unfold execCoolantOffTimeout at hy
  cases hy
  repeat' (first | with_reducible assumption | with_reducible apply State.at'_kept | with_reducible apply State.endEvery_kept | with_reducible apply State.flushBook_kept | with_reducible apply State.setMode_kept | with_reducible apply State.toOff_kept | fail_if_no_progress (with_reducible apply Kept.upd) | with_reducible apply foldl_kept | (intro) | split | (fail_if_no_progress extract_lets) | (fail_if_no_progress beta_reduce) | (dsimp +zetaDelta only) | fail)

theorem State.leaveHold_kept {q : List Instr} (s : State) (cause : Nat) (h : Kept q s) : Kept q (State.leaveHold s cause) := by
  unfold State.leaveHold
  repeat' (first | with_reducible assumption | with_reducible apply State.reached_kept | with_reducible apply State.resumeIntake_kept | with_reducible apply State.setMode_kept | with_reducible apply State.startClocks_kept | with_reducible apply State.updPower_kept | fail_if_no_progress (with_reducible apply Kept.upd) | with_reducible apply foldl_kept | (intro) | split | (fail_if_no_progress extract_lets) | (fail_if_no_progress beta_reduce) | (dsimp +zetaDelta only) | fail)

theorem execHoldRelease_kept {q : List Instr} (coolant : Bool) (t : Nat) (s : State) (h : Kept q s) : ∀ y, execHoldRelease coolant t s = .next y → Kept q y := by
  intro y hy
  unfold execHoldRelease at hy
  cases hy
  repeat' (first | with_reducible assumption | with_reducible apply State.at'_kept | with_reducible apply State.leaveHold_kept | with_reducible apply State.postPower_kept | with_reducible apply State.pwrEvent_kept | with_reducible apply State.updPower_kept | fail_if_no_progress (with_reducible apply Kept.upd) | with_reducible apply foldl_kept | (intro) | split | (fail_if_no_progress extract_lets) | (fail_if_no_progress beta_reduce) | (dsimp +zetaDelta only) | fail)

theorem State.dropJob_kept {q : List Instr} (s : State) (j : QuadJob) (h : Kept q s) : Kept q (State.dropJob s j) := by
  unfold State.dropJob
  repeat' (first | with_reducible assumption | with_reducible apply State.updPower_kept | fail_if_no_progress (with_reducible apply Kept.upd) | with_reducible apply foldl_kept | (intro) | split | (fail_if_no_progress extract_lets) | (fail_if_no_progress beta_reduce) | (dsimp +zetaDelta only) | fail)

theorem State.finishTakeOut_kept {q : List Instr} (s : State) (j : QuadJob) (h : Kept q s) : Kept q (State.finishTakeOut s j) := by
  unfold State.finishTakeOut
  repeat' (first | with_reducible assumption | with_reducible apply State.arrayOff_kept | with_reducible apply State.complete_kept | with_reducible apply State.dropJob_kept | with_reducible apply State.fieldOff_kept | with_reducible apply State.post_kept | fail_if_no_progress (with_reducible apply Kept.upd) | with_reducible apply foldl_kept | (intro) | split | (fail_if_no_progress extract_lets) | (fail_if_no_progress beta_reduce) | (dsimp +zetaDelta only) | fail)

theorem execQuadrantGate_kept {q : List Instr} (quad : Fin 4) (t : Nat) (s : State) (h : Kept q s) : ∀ y, execQuadrantGate quad t s = .next y → Kept q y := by
  intro y hy
  unfold execQuadrantGate at hy
  cases hy
  repeat' (first | with_reducible assumption | with_reducible apply State.arrayOff_kept | with_reducible apply State.at'_kept | with_reducible apply State.fieldOff_kept | with_reducible apply State.finishTakeOut_kept | fail_if_no_progress (with_reducible apply Kept.upd) | with_reducible apply foldl_kept | (intro) | split | (fail_if_no_progress extract_lets) | (fail_if_no_progress beta_reduce) | (dsimp +zetaDelta only) | fail)

theorem State.moveIntake_kept {q : List Instr} (s : State) (i src dst f : Nat) (h : Kept q s) : Kept q (State.moveIntake s i src dst f) := by
  induction f generalizing s with
  | zero => exact h
  | succ f ih =>
    unfold State.moveIntake
    extract_lets n r
    have hr : Kept q r.1 := State.popPacket_kept _ _ _ _ h
    split
    · exact h
    · split
      · rename_i s1 h1
        exact ih _ (State.linkWhole_kept _ _ _ _ _ hr _ h1)
      · exact ih _ (State.endReq_kept _ _ _ hr)

theorem State.moveRings_kept {q : List Instr} (s : State) (q' : Nat) (h : Kept q s) : Kept q (State.moveRings s q') := by
  unfold State.moveRings
  repeat' (first | with_reducible assumption | with_reducible apply State.moveIntake_kept | with_reducible apply State.updRing_kept | fail_if_no_progress (with_reducible apply Kept.upd) | with_reducible apply foldl_kept | (intro) | split | (fail_if_no_progress extract_lets) | (fail_if_no_progress beta_reduce) | (dsimp +zetaDelta only) | fail)

theorem State.doTakeOut_kept {q : List Instr} (s : State) (w : Waiter) (q' : Nat) (h : Kept q s) : Kept q (State.doTakeOut s w q').1 := by
  unfold State.doTakeOut
  repeat' (first | with_reducible assumption | with_reducible apply State.moveRings_kept | with_reducible apply State.serviceQuad_kept | with_reducible apply State.settle_kept | with_reducible apply State.updPower_kept | fail_if_no_progress (with_reducible apply Kept.upd) | with_reducible apply foldl_kept | (intro) | split | (fail_if_no_progress extract_lets) | (fail_if_no_progress beta_reduce) | (dsimp +zetaDelta only) | fail)

theorem State.startRetest_kept {q : List Instr} (s : State) (j : QuadJob) (h : Kept q s) : Kept q (State.startRetest s j) := by
  unfold State.startRetest
  repeat' (first | with_reducible assumption | with_reducible apply State.memLost_kept | with_reducible apply State.powerQuads_kept | with_reducible apply State.updPower_kept | fail_if_no_progress (with_reducible apply Kept.upd) | with_reducible apply foldl_kept | (intro) | split | (fail_if_no_progress extract_lets) | (fail_if_no_progress beta_reduce) | (dsimp +zetaDelta only) | (with_reducible refine Kept.updMem ?_ (fun hm => ?_); rotate_left; · (first | with_reducible apply storeWord_wf | with_reducible apply Mem.store_wf | with_reducible apply Mem.zero_wf | with_reducible apply Mem.writeN_wf | with_reducible apply Mem.tagPages_wf | with_reducible apply Mem.ueSet_wf | with_reducible apply Mem.regionSet_wf | with_reducible apply Mem.tagsOff_wf | (with_reducible apply foldl_mem_wf; intro) | split) <;> (repeat' (first | with_reducible assumption | (intro) | with_reducible apply storeWord_wf | with_reducible apply Mem.store_wf | with_reducible apply Mem.zero_wf | with_reducible apply Mem.writeN_wf | with_reducible apply Mem.tagPages_wf | with_reducible apply Mem.ueSet_wf | with_reducible apply Mem.regionSet_wf | with_reducible apply Mem.tagsOff_wf | split | exact Kept.mem (by with_reducible assumption)))) | fail)

theorem State.finishReturn_kept {q : List Instr} (s : State) (q' : Nat) (h : Kept q s) : Kept q (State.finishReturn s q') := by
  unfold State.finishReturn
  repeat' (first | with_reducible assumption | with_reducible apply State.arrayOff_kept | with_reducible apply State.fieldOff_kept | with_reducible apply State.keptCarve_kept | with_reducible apply State.post_kept | with_reducible apply State.startLoads_kept | with_reducible apply State.updPower_kept | with_reducible apply State.updQuad_kept | fail_if_no_progress (with_reducible apply Kept.upd) | with_reducible apply foldl_kept | (intro) | split | (fail_if_no_progress extract_lets) | (fail_if_no_progress beta_reduce) | (dsimp +zetaDelta only) | fail)

theorem State.doRetest_kept {q : List Instr} (s : State) (w : Waiter) (q' : Nat) (h : Kept q s) : Kept q (State.doRetest s w q').1 := by
  unfold State.doRetest
  repeat' (first | with_reducible assumption | with_reducible apply State.startRetest_kept | fail_if_no_progress (with_reducible apply Kept.upd) | with_reducible apply foldl_kept | (intro) | split | (fail_if_no_progress extract_lets) | (fail_if_no_progress beta_reduce) | (dsimp +zetaDelta only) | fail)

theorem State.doReturn_kept {q : List Instr} (s : State) (w : Waiter) (q' : Nat) (h : Kept q s) : Kept q (State.doReturn s w q').1 := by
  unfold State.doReturn
  repeat' (first | with_reducible assumption | with_reducible apply State.finishReturn_kept | with_reducible apply State.startRetest_kept | fail_if_no_progress (with_reducible apply Kept.upd) | with_reducible apply foldl_kept | (intro) | split | (fail_if_no_progress extract_lets) | (fail_if_no_progress beta_reduce) | (dsimp +zetaDelta only) | fail)

theorem execSelftestComplete_kept {q : List Instr} (quad : Fin 4) (full : Bool) (fails : List (Fin 1024 × BitVec 7)) (us : BitVec 16)
    (trained : BitVec 6) (rate8g : Bool) (t : Nat) (s : State) (h : Kept q s) :
    ∀ y, execSelftestComplete quad full fails us trained rate8g t s = .next y → Kept q y := by
  intro y hy
  unfold execSelftestComplete at hy
  extract_lets k s0 at hy
  have h0 : Kept q s0 := foldl_kept (fun t x ht => by
    split
    · exact ite_kept (State.refit_kept _ _ _ ht) ht
    · exact ht) (State.selfTestQuad_kept _ _ _ _ _ (State.at'_kept _ _ h))
  clear_value s0
  rw [← Host.Outcome.next.inj hy]
  split
  · exact h0
  · refine ite_kept h0 (State.complete_kept _ _ _ _ ?_)
    have h1 := ite_kept (c := (s0.quad k).regionUp = true) h0
      (State.updQuad_kept _ k (fun m => { m with stackUp := trained.toNat, rate8g := rate8g, recalFails := [] }) h0)
    exact ite_kept (State.finishReturn_kept _ _ (State.updPower_kept _ _ (State.dropJob_kept _ _ h1)))
      (State.updPower_kept _ _ (State.dropJob_kept _ _ h1))

theorem State.recalEnd_kept {q : List Instr} (s : State) (stack : Nat) (good : Bool) (h : Kept q s) : Kept q (State.recalEnd s stack good) := by
  unfold State.recalEnd
  repeat' (first | with_reducible assumption | with_reducible apply State.complete_kept | with_reducible apply State.updPower_kept | fail_if_no_progress (with_reducible apply Kept.upd) | with_reducible apply foldl_kept | (intro) | split | (fail_if_no_progress extract_lets) | (fail_if_no_progress beta_reduce) | (dsimp +zetaDelta only) | fail)

theorem State.stackFailed_kept {q : List Instr} (s : State) (stack : Nat) (h : Kept q s) : Kept q (State.stackFailed s stack) := by
  unfold State.stackFailed
  repeat' (first | with_reducible assumption | with_reducible apply State.loseShards_kept | with_reducible apply State.regionOut_kept | fail_if_no_progress (with_reducible apply Kept.upd) | with_reducible apply foldl_kept | (intro) | split | (fail_if_no_progress extract_lets) | (fail_if_no_progress beta_reduce) | (dsimp +zetaDelta only) | fail)

theorem execHbmRecalibration_kept {q : List Instr} (stack : Fin 24) (good : Bool) (s : State) (h : Kept q s) : ∀ y, execHbmRecalibration stack good s = .next y → Kept q y := by
  intro y hy
  unfold execHbmRecalibration at hy
  cases hy
  repeat' (first | with_reducible assumption | with_reducible apply State.post_kept | with_reducible apply State.recalEnd_kept | with_reducible apply State.stackFailed_kept | with_reducible apply State.updQuad_kept | fail_if_no_progress (with_reducible apply Kept.upd) | with_reducible apply foldl_kept | (intro) | split | (fail_if_no_progress extract_lets) | (fail_if_no_progress beta_reduce) | (dsimp +zetaDelta only) | fail)

theorem execPrecharge_kept {q : List Instr} (t : Nat) (s : State) (h : Kept q s) : ∀ y, execPrecharge t s = .next y → Kept q y := by
  intro y hy
  unfold execPrecharge at hy
  cases hy
  repeat' (first | with_reducible assumption | with_reducible apply State.at'_kept | with_reducible apply State.updPower_kept | fail_if_no_progress (with_reducible apply Kept.upd) | with_reducible apply foldl_kept | (intro) | split | (fail_if_no_progress extract_lets) | (fail_if_no_progress beta_reduce) | (dsimp +zetaDelta only) | fail)

theorem execJtagExtestExit_kept {q : List Instr} (t : Nat) (s : State) (h : Kept q s) : ∀ y, execJtagExtestExit t s = .next y → Kept q y := by
  intro y hy
  unfold execJtagExtestExit at hy
  cases hy
  repeat' (first | with_reducible assumption | with_reducible apply State.at'_kept | with_reducible apply State.setMode_kept | with_reducible apply State.toOff_kept | with_reducible apply State.updPower_kept | fail_if_no_progress (with_reducible apply Kept.upd) | with_reducible apply foldl_kept | (intro) | split | (fail_if_no_progress extract_lets) | (fail_if_no_progress beta_reduce) | (dsimp +zetaDelta only) | fail)

end Sys2Proof.Machine
end

