-- ==== Sys2Proof/Laws/KeptSecurity.lean ====
section
/-! SUPPORT. Every operation of Machine/Security.lean leaves the queue alone and keeps the memories in canonical form. -/

set_option linter.unusedTactic false
set_option linter.unreachableTactic false
set_option linter.unusedVariables false
set_option linter.unnecessarySeqFocus false

namespace Sys2Proof.Machine

theorem State.respond_kept {q : List Instr} (s : State) (key : Bytes) (zero : Bool) (n : Nat) (r : EdReq) (status : Nat) (payload : Bytes) (h : Kept q s) : Kept q (State.respond s key zero n r status payload) := by
  unfold State.respond
  repeat' (first | with_reducible assumption | with_reducible apply State.setBox_kept | with_reducible apply State.take_kept | fail_if_no_progress (with_reducible apply Kept.upd) | with_reducible apply foldl_kept | (intro) | split | (fail_if_no_progress extract_lets) | (fail_if_no_progress beta_reduce) | (dsimp +zetaDelta only) | fail)

theorem State.updSec_kept {q : List Instr} (s : State) (f : Sec → Sec) (h : Kept q s) : Kept q (State.updSec s f) := by
  unfold State.updSec
  repeat' (first | with_reducible assumption | fail_if_no_progress (with_reducible apply Kept.upd) | with_reducible apply foldl_kept | (intro) | split | (fail_if_no_progress extract_lets) | (fail_if_no_progress beta_reduce) | (dsimp +zetaDelta only) | fail)

theorem State.quadUp_kept {q : List Instr} (s : State) (q' : Nat) (x : QuadUp) (h : Kept q s) : Kept q (State.quadUp s q' x) := by
  unfold State.quadUp
  repeat' (first | with_reducible assumption | with_reducible apply State.arrayOff_kept | with_reducible apply State.buildCarve_kept | with_reducible apply State.fieldOff_kept | with_reducible apply State.post_kept | with_reducible apply State.selfTestQuad_kept | with_reducible apply State.updQuad_kept | fail_if_no_progress (with_reducible apply Kept.upd) | with_reducible apply foldl_kept | (intro) | split | (fail_if_no_progress extract_lets) | (fail_if_no_progress beta_reduce) | (dsimp +zetaDelta only) | fail)

theorem State.powerUp_kept {q : List Instr} (s : State) (slot : Nat) (bank : Nat) (quads : List QuadUp) (h : Kept q s) : Kept q (State.powerUp s slot bank quads) := by
  unfold State.powerUp
  repeat' (first | with_reducible assumption | with_reducible apply State.loadStore_kept | with_reducible apply State.quadUp_kept | with_reducible apply State.setMode_kept | with_reducible apply State.take_kept | with_reducible apply State.updCore_kept | with_reducible apply State.updFab_kept | with_reducible apply State.updPower_kept | with_reducible apply State.updSec_kept | fail_if_no_progress (with_reducible apply Kept.upd) | with_reducible apply foldl_kept | (intro) | split | (fail_if_no_progress extract_lets) | (fail_if_no_progress beta_reduce) | (dsimp +zetaDelta only) | (with_reducible refine Kept.updMem ?_ (fun hm => ?_); rotate_left; · (first | with_reducible apply storeWord_wf | with_reducible apply Mem.store_wf | with_reducible apply Mem.zero_wf | with_reducible apply Mem.writeN_wf | with_reducible apply Mem.tagPages_wf | with_reducible apply Mem.ueSet_wf | with_reducible apply Mem.regionSet_wf | with_reducible apply Mem.tagsOff_wf | (with_reducible apply foldl_mem_wf; intro) | split) <;> (repeat' (first | with_reducible assumption | (intro) | with_reducible apply storeWord_wf | with_reducible apply Mem.store_wf | with_reducible apply Mem.zero_wf | with_reducible apply Mem.writeN_wf | with_reducible apply Mem.tagPages_wf | with_reducible apply Mem.ueSet_wf | with_reducible apply Mem.regionSet_wf | with_reducible apply Mem.tagsOff_wf | split | exact Kept.mem (by with_reducible assumption)))) | fail)

theorem execPowerUpFromOff_kept {q : List Instr} (slot : Fin 4) (quads : List QuadUp) (t : Nat) (s : State) (h : Kept q s) : ∀ y, execPowerUpFromOff slot quads t s = .next y → Kept q y := by
  intro y hy
  unfold execPowerUpFromOff at hy
  cases hy
  repeat' (first | with_reducible assumption | with_reducible apply State.at'_kept | with_reducible apply State.post_kept | with_reducible apply State.powerUp_kept | fail_if_no_progress (with_reducible apply Kept.upd) | with_reducible apply foldl_kept | (intro) | split | (fail_if_no_progress extract_lets) | (fail_if_no_progress beta_reduce) | (dsimp +zetaDelta only) | fail)

theorem State.doPolicy_kept {q : List Instr} (s : State) (f : Option Bytes) (len : Nat) (h : Kept q s) : Kept q (State.doPolicy s f len).1 := by
  unfold State.doPolicy
  repeat' (first | with_reducible assumption | with_reducible apply State.setPolicy_kept | fail_if_no_progress (with_reducible apply Kept.upd) | with_reducible apply foldl_kept | (intro) | split | (fail_if_no_progress extract_lets) | (fail_if_no_progress beta_reduce) | (dsimp +zetaDelta only) | fail)

theorem State.endStaging_kept {q : List Instr} (s : State) (g : Staging) (status : Nat) (version : Nat) (h : Kept q s) : Kept q (State.endStaging s g status version) := by
  unfold State.endStaging
  repeat' (first | with_reducible assumption | with_reducible apply State.complete_kept | with_reducible apply State.post_kept | with_reducible apply State.secEvent_kept | with_reducible apply State.updSec_kept | fail_if_no_progress (with_reducible apply Kept.upd) | with_reducible apply foldl_kept | (intro) | split | (fail_if_no_progress extract_lets) | (fail_if_no_progress beta_reduce) | (dsimp +zetaDelta only) | fail)

theorem execFirmwareStagingComplete_kept {q : List Instr} (image : Option Bytes) (same : Bool) (t : Nat) (s : State) (h : Kept q s) : ∀ y, execFirmwareStagingComplete image same t s = .next y → Kept q y := by
  intro y hy
  unfold execFirmwareStagingComplete at hy
  cases hy
  repeat' (first | with_reducible assumption | with_reducible apply State.at'_kept | with_reducible apply State.complete_kept | with_reducible apply State.doPolicy_kept | with_reducible apply State.endStaging_kept | with_reducible apply State.updSec_kept | fail_if_no_progress (with_reducible apply Kept.upd) | with_reducible apply foldl_kept | (intro) | split | (fail_if_no_progress extract_lets) | (fail_if_no_progress beta_reduce) | (dsimp +zetaDelta only) | fail)

theorem State.startCore_kept {q : List Instr} (s : State) (c : Nat) (bank : Nat) (h : Kept q s) : Kept q (State.startCore s c bank) := by
  unfold State.startCore
  repeat' (first | with_reducible assumption | with_reducible apply State.resetCore_kept | with_reducible apply State.updCore_kept | fail_if_no_progress (with_reducible apply Kept.upd) | with_reducible apply foldl_kept | (intro) | split | (fail_if_no_progress extract_lets) | (fail_if_no_progress beta_reduce) | (dsimp +zetaDelta only) | fail)

theorem State.finishActivation_kept {q : List Instr} (s : State) (w : Waiter) (h : Kept q s) : Kept q (State.finishActivation s w) := by
  unfold State.finishActivation
  repeat' (first | with_reducible assumption | with_reducible apply State.assignDuties_kept | with_reducible apply State.complete_kept | with_reducible apply State.post_kept | with_reducible apply State.secEvent_kept | with_reducible apply State.updCore_kept | with_reducible apply State.updSec_kept | fail_if_no_progress (with_reducible apply Kept.upd) | with_reducible apply foldl_kept | (intro) | split | (fail_if_no_progress extract_lets) | (fail_if_no_progress beta_reduce) | (dsimp +zetaDelta only) | fail)

theorem execActivationCoreSwitched_kept {q : List Instr} (t : Nat) (s : State) (h : Kept q s) : ∀ y, execActivationCoreSwitched t s = .next y → Kept q y := by
  intro y hy
  unfold execActivationCoreSwitched at hy
  cases hy
  repeat' (first | with_reducible assumption | with_reducible apply State.assignDuties_kept | with_reducible apply State.at'_kept | with_reducible apply Work.core_kept | with_reducible apply State.finishActivation_kept | with_reducible apply State.resumePolicy_kept | with_reducible apply State.startCore_kept | with_reducible apply State.updSec_kept | fail_if_no_progress (with_reducible apply Kept.upd) | with_reducible apply foldl_kept | (intro) | split | (fail_if_no_progress extract_lets) | (fail_if_no_progress beta_reduce) | (dsimp +zetaDelta only) | fail)

theorem execActivationUndo_kept {q : List Instr} (t : Nat) (s : State) (h : Kept q s) : ∀ y, execActivationUndo t s = .next y → Kept q y := by
  intro y hy
  unfold execActivationUndo at hy
  cases hy
  repeat' (first | with_reducible assumption | with_reducible apply State.assignDuties_kept | with_reducible apply State.at'_kept | with_reducible apply Work.core_kept | with_reducible apply State.event_kept | with_reducible apply State.post_kept | with_reducible apply State.resumePolicy_kept | with_reducible apply State.secEvent_kept | with_reducible apply State.startCore_kept | with_reducible apply State.updSec_kept | fail_if_no_progress (with_reducible apply Kept.upd) | with_reducible apply foldl_kept | (intro) | split | (fail_if_no_progress extract_lets) | (fail_if_no_progress beta_reduce) | (dsimp +zetaDelta only) | fail)

theorem State.doStage_kept {q : List Instr} (s : State) (w : Waiter) (len : Nat) (h : Kept q s) : Kept q (State.doStage s w len).1 := by
  unfold State.doStage
  repeat' (first | with_reducible assumption | with_reducible apply State.updSec_kept | fail_if_no_progress (with_reducible apply Kept.upd) | with_reducible apply foldl_kept | (intro) | split | (fail_if_no_progress extract_lets) | (fail_if_no_progress beta_reduce) | (dsimp +zetaDelta only) | fail)

theorem State.doActivate_kept {q : List Instr} (s : State) (w : Waiter) (h : Kept q s) : Kept q (State.doActivate s w).1 := by
  unfold State.doActivate
  repeat' (first | with_reducible assumption | with_reducible apply State.assignDuties_kept | with_reducible apply State.updSec_kept | fail_if_no_progress (with_reducible apply Kept.upd) | with_reducible apply foldl_kept | (intro) | split | (fail_if_no_progress extract_lets) | (fail_if_no_progress beta_reduce) | (dsimp +zetaDelta only) | fail)

theorem State.setKey0_kept {q : List Instr} (s : State) (k : Bytes) (mode : Nat) (w : Waiter) (h : Kept q s) : Kept q (State.setKey0 s k mode w) := by
  unfold State.setKey0
  repeat' (first | with_reducible assumption | with_reducible apply State.post_kept | with_reducible apply State.setBox_kept | with_reducible apply State.updSec_kept | with_reducible apply State.wantCommit_kept | fail_if_no_progress (with_reducible apply Kept.upd) | with_reducible apply foldl_kept | (intro) | split | (fail_if_no_progress extract_lets) | (fail_if_no_progress beta_reduce) | (dsimp +zetaDelta only) | fail)

theorem State.doInstall_kept {q : List Instr} (s : State) (w : Waiter) (l : Bytes) (h : Kept q s) : Kept q (State.doInstall s w l).1 := by
  unfold State.doInstall
  repeat' (first | with_reducible assumption | with_reducible apply State.setKey0_kept | fail_if_no_progress (with_reducible apply Kept.upd) | with_reducible apply foldl_kept | (intro) | split | (fail_if_no_progress extract_lets) | (fail_if_no_progress beta_reduce) | (dsimp +zetaDelta only) | fail)

theorem State.doReplaceKey_kept {q : List Instr} (s : State) (w : Waiter) (seq : Nat) (l : Bytes) (h : Kept q s) : Kept q (State.doReplaceKey s w seq l).1 := by
  unfold State.doReplaceKey
  repeat' (first | with_reducible assumption | with_reducible apply State.setKey0_kept | fail_if_no_progress (with_reducible apply Kept.upd) | with_reducible apply foldl_kept | (intro) | split | (fail_if_no_progress extract_lets) | (fail_if_no_progress beta_reduce) | (dsimp +zetaDelta only) | fail)

theorem State.sign_kept {q : List Instr} (s : State) (r : EdReq) (body : Bytes) (h : Kept q s) : Kept q (State.sign s r body).1 := by
  unfold State.sign
  repeat' (first | with_reducible assumption | with_reducible apply State.secEvent_kept | with_reducible apply State.tick_kept | with_reducible apply State.updSec_kept | fail_if_no_progress (with_reducible apply Kept.upd) | with_reducible apply foldl_kept | (intro) | split | (fail_if_no_progress extract_lets) | (fail_if_no_progress beta_reduce) | (dsimp +zetaDelta only) | fail)

theorem State.spdmServe_kept {q : List Instr} (s : State) (r : EdReq) (l : Bytes) (h : Kept q s) : Kept q (State.spdmServe s r l).1 := by
  unfold State.spdmServe
  repeat' (first | with_reducible assumption | with_reducible apply State.sign_kept | with_reducible apply State.take_kept | with_reducible apply State.tick_kept | fail_if_no_progress (with_reducible apply Kept.upd) | with_reducible apply foldl_kept | (intro) | split | (fail_if_no_progress extract_lets) | (fail_if_no_progress beta_reduce) | (dsimp +zetaDelta only) | fail)

theorem State.doSpdm_kept {q : List Instr} (s : State) (r : EdReq) (p : Nat) (l : Bytes) (h : Kept q s) : Kept q (State.doSpdm s r p l).1 := by
  unfold State.doSpdm
  repeat' (first | with_reducible assumption | with_reducible apply State.spdmServe_kept | with_reducible apply State.updSec_kept | fail_if_no_progress (with_reducible apply Kept.upd) | with_reducible apply foldl_kept | (intro) | split | (fail_if_no_progress extract_lets) | (fail_if_no_progress beta_reduce) | (dsimp +zetaDelta only) | fail)

theorem execSignatureComplete_kept {q : List Instr} (t : Nat) (s : State) (h : Kept q s) : ∀ y, execSignatureComplete t s = .next y → Kept q y := by
  intro y hy
  unfold execSignatureComplete at hy
  cases hy
  repeat' (first | with_reducible assumption | with_reducible apply State.at'_kept | with_reducible apply State.respond_kept | with_reducible apply State.tick_kept | with_reducible apply State.updSec_kept | fail_if_no_progress (with_reducible apply Kept.upd) | with_reducible apply foldl_kept | (intro) | split | (fail_if_no_progress extract_lets) | (fail_if_no_progress beta_reduce) | (dsimp +zetaDelta only) | fail)

end Sys2Proof.Machine
end

