-- ==== Sys2Proof/Laws/KeptEdush.lean ====
section
/-! SUPPORT. Every operation of Machine/Edush.lean leaves the queue alone and keeps the memories in canonical form. -/

set_option linter.unusedTactic false
set_option linter.unreachableTactic false
set_option linter.unusedVariables false
set_option linter.unnecessarySeqFocus false

namespace Sys2Proof.Machine

theorem State.authFail_kept {q : List Instr} (s : State) (r : EdReq) (h : Kept q s) : Kept q (State.authFail s r) := by
  unfold State.authFail
  repeat' (first | with_reducible assumption | fail_if_no_progress (with_reducible apply Kept.upd) | with_reducible apply foldl_kept | (intro) | split | (fail_if_no_progress extract_lets) | (fail_if_no_progress beta_reduce) | (dsimp +zetaDelta only) | fail)

theorem State.answerTo_kept {q : List Instr} (s : State) (r : EdReq) (msg : Bytes) (h : Kept q s) : Kept q (State.answerTo s r msg) := by
  unfold State.answerTo
  repeat' (first | with_reducible assumption | fail_if_no_progress (with_reducible apply Kept.upd) | with_reducible apply foldl_kept | (intro) | split | (fail_if_no_progress extract_lets) | (fail_if_no_progress beta_reduce) | (dsimp +zetaDelta only) | fail)

theorem State.seenAgain_kept {q : List Instr} (s : State) (r : EdReq) (h : Kept q s) : Kept q (State.seenAgain s r) := by
  unfold State.seenAgain
  repeat' (first | with_reducible assumption | with_reducible apply State.answerTo_kept | fail_if_no_progress (with_reducible apply Kept.upd) | with_reducible apply foldl_kept | (intro) | split | (fail_if_no_progress extract_lets) | (fail_if_no_progress beta_reduce) | (dsimp +zetaDelta only) | fail)

theorem State.askFloor_kept {q : List Instr} (s : State) (p : Nat) (top : Nat) (h : Kept q s) : Kept q (State.askFloor s p top) := by
  unfold State.askFloor
  repeat' (first | with_reducible assumption | with_reducible apply State.wantCommit_kept | fail_if_no_progress (with_reducible apply Kept.upd) | with_reducible apply foldl_kept | (intro) | split | (fail_if_no_progress extract_lets) | (fail_if_no_progress beta_reduce) | (dsimp +zetaDelta only) | fail)

theorem State.nextFloor_kept {q : List Instr} (s : State) (p : Nat) (h : Kept q s) : Kept q (State.nextFloor s p) := by
  unfold State.nextFloor
  repeat' (first | with_reducible assumption | with_reducible apply State.askFloor_kept | fail_if_no_progress (with_reducible apply Kept.upd) | with_reducible apply foldl_kept | (intro) | split | (fail_if_no_progress extract_lets) | (fail_if_no_progress beta_reduce) | (dsimp +zetaDelta only) | fail)

theorem State.doNop_kept {q : List Instr} (s : State) (p : Nat) (l : Bytes) (h : Kept q s) : Kept q (State.doNop s p l).1 := by
  unfold State.doNop
  repeat' (first | with_reducible assumption | with_reducible apply State.setBox_kept | fail_if_no_progress (with_reducible apply Kept.upd) | with_reducible apply foldl_kept | (intro) | split | (fail_if_no_progress extract_lets) | (fail_if_no_progress beta_reduce) | (dsimp +zetaDelta only) | fail)

theorem State.doPlan_kept {q : List Instr} (s : State) (w : Waiter) (l : Bytes) (h : Kept q s) : Kept q (State.doPlan s w l).1 := by
  unfold State.doPlan
  repeat' (first | with_reducible assumption | with_reducible apply State.planLinks_kept | with_reducible apply State.updFab_kept | with_reducible apply State.updPower_kept | with_reducible apply State.wantCommit_kept | fail_if_no_progress (with_reducible apply Kept.upd) | with_reducible apply foldl_kept | (intro) | split | (fail_if_no_progress extract_lets) | (fail_if_no_progress beta_reduce) | (dsimp +zetaDelta only) | fail)

theorem State.doRetrain_kept {q : List Instr} (s : State) (w : Waiter) (l : Bytes) (h : Kept q s) : Kept q (State.doRetrain s w l).1 := by
  unfold State.doRetrain
  repeat' (first | with_reducible assumption | with_reducible apply State.addTrain_kept | fail_if_no_progress (with_reducible apply Kept.upd) | with_reducible apply foldl_kept | (intro) | split | (fail_if_no_progress extract_lets) | (fail_if_no_progress beta_reduce) | (dsimp +zetaDelta only) | fail)

theorem State.doCap_kept {q : List Instr} (s : State) (l : Bytes) (h : Kept q s) : Kept q (State.doCap s l).1 := by
  unfold State.doCap
  repeat' (first | with_reducible assumption | with_reducible apply State.updPower_kept | with_reducible apply State.wantCommit_kept | fail_if_no_progress (with_reducible apply Kept.upd) | with_reducible apply foldl_kept | (intro) | split | (fail_if_no_progress extract_lets) | (fail_if_no_progress beta_reduce) | (dsimp +zetaDelta only) | fail)

theorem State.doState_kept {q : List Instr} (s : State) (w : Waiter) (l : Bytes) (h : Kept q s) : Kept q (State.doState s w l).1 := by
  unfold State.doState
  repeat' (first | with_reducible assumption | with_reducible apply State.updPower_kept | fail_if_no_progress (with_reducible apply Kept.upd) | with_reducible apply foldl_kept | (intro) | split | (fail_if_no_progress extract_lets) | (fail_if_no_progress beta_reduce) | (dsimp +zetaDelta only) | fail)

theorem State.doNetwork_kept {q : List Instr} (s : State) (l : Bytes) (h : Kept q s) : Kept q (State.doNetwork s l).1 := by
  unfold State.doNetwork
  repeat' (first | with_reducible assumption | with_reducible apply State.wantCommit_kept | fail_if_no_progress (with_reducible apply Kept.upd) | with_reducible apply foldl_kept | (intro) | split | (fail_if_no_progress extract_lets) | (fail_if_no_progress beta_reduce) | (dsimp +zetaDelta only) | fail)

theorem State.doRecal_kept {q : List Instr} (s : State) (w : Waiter) (l : Bytes) (h : Kept q s) : Kept q (State.doRecal s w l).1 := by
  unfold State.doRecal
  repeat' (first | with_reducible assumption | with_reducible apply State.updPower_kept | fail_if_no_progress (with_reducible apply Kept.upd) | with_reducible apply foldl_kept | (intro) | split | (fail_if_no_progress extract_lets) | (fail_if_no_progress beta_reduce) | (dsimp +zetaDelta only) | fail)

theorem State.doFwStage_kept {q : List Instr} (s : State) (w : Waiter) (f : Option Bytes) (l : Bytes) (h : Kept q s) : Kept q (State.doFwStage s w f l).1 := by
  unfold State.doFwStage
  repeat' (first | with_reducible assumption | with_reducible apply State.doPolicy_kept | with_reducible apply State.doStage_kept | fail_if_no_progress (with_reducible apply Kept.upd) | with_reducible apply foldl_kept | (intro) | split | (fail_if_no_progress extract_lets) | (fail_if_no_progress beta_reduce) | (dsimp +zetaDelta only) | fail)

theorem State.serveReq_kept {q : List Instr} (s : State) (r : EdReq) (late : Bool) (h : Kept q s) : Kept q (State.serveReq s r late).1 := by
  unfold State.serveReq
  repeat' (first | with_reducible assumption | with_reducible apply State.counters_kept | with_reducible apply State.doActivate_kept | with_reducible apply State.doAdapterLoad_kept | with_reducible apply State.doAdapterReplace_kept | with_reducible apply State.doCap_kept | with_reducible apply State.doCreate_kept | with_reducible apply State.doDestroy_kept | with_reducible apply State.doDisable_kept | with_reducible apply State.doEnable_kept | with_reducible apply State.doEvict_kept | with_reducible apply State.doFetch_kept | with_reducible apply State.doFill_kept | with_reducible apply State.doFwStage_kept | with_reducible apply State.doInstall_kept | with_reducible apply State.doNetwork_kept | with_reducible apply State.doNop_kept | with_reducible apply State.doPin_kept | with_reducible apply State.doPlan_kept | with_reducible apply State.doPlatLoad_kept | with_reducible apply State.doRecal_kept | with_reducible apply State.doRegister_kept | with_reducible apply State.doReplaceKey_kept | with_reducible apply State.doRetest_kept | with_reducible apply State.doRetrain_kept | with_reducible apply State.doReturn_kept | with_reducible apply State.doRing_kept | with_reducible apply State.doRingDestroy_kept | with_reducible apply State.doSpdm_kept | with_reducible apply State.doState_kept | with_reducible apply State.doTakeOut_kept | with_reducible apply State.doUnpin_kept | with_reducible apply State.doWithdraw_kept | fail_if_no_progress (with_reducible apply Kept.upd) | with_reducible apply foldl_kept | (intro) | split | (fail_if_no_progress extract_lets) | (fail_if_no_progress beta_reduce) | (dsimp +zetaDelta only) | fail)

theorem State.reply_kept {q : List Instr} (s : State) (r : EdReq) (after : State) (status : Nat) (body : Bytes) (h : Kept q s) (h1 : Kept q after) : Kept q (State.reply s r after status body) := by
  unfold State.reply
  repeat' (first | with_reducible assumption | with_reducible apply State.respond_kept | fail_if_no_progress (with_reducible apply Kept.upd) | with_reducible apply foldl_kept | (intro) | split | (fail_if_no_progress extract_lets) | (fail_if_no_progress beta_reduce) | (dsimp +zetaDelta only) | fail)

theorem State.finish_kept {q : List Instr} (s : State) (r : EdReq) (x : State × Ans) (h : Kept q s) (h1 : Kept q x.1) : Kept q (State.finish s r x) := by
  unfold State.finish
  repeat' (first | with_reducible assumption | with_reducible apply State.complete_kept | with_reducible apply State.reply_kept | fail_if_no_progress (with_reducible apply Kept.upd) | with_reducible apply foldl_kept | (intro) | split | (fail_if_no_progress extract_lets) | (fail_if_no_progress beta_reduce) | (dsimp +zetaDelta only) | fail)

theorem State.flushEvents_kept {q : List Instr} (s : State) (p : Nat) (h : Kept q s) : Kept q (State.flushEvents s p) := by
  unfold State.flushEvents
  repeat' (first | with_reducible assumption | with_reducible apply State.setBox_kept | with_reducible apply State.transmit_kept | fail_if_no_progress (with_reducible apply Kept.upd) | with_reducible apply foldl_kept | (intro) | split | (fail_if_no_progress extract_lets) | (fail_if_no_progress beta_reduce) | (dsimp +zetaDelta only) | fail)

theorem State.execute_kept {q : List Instr} (s : State) (r : EdReq) (h : Kept q s) : Kept q (State.execute s r) := by
  unfold State.execute
  repeat' (first | with_reducible assumption | with_reducible apply State.finish_kept | with_reducible apply State.flushEvents_kept | with_reducible apply State.nextFloor_kept | with_reducible apply State.serveReq_kept | with_reducible apply State.setBox_kept | fail_if_no_progress (with_reducible apply Kept.upd) | with_reducible apply foldl_kept | (intro) | split | (fail_if_no_progress extract_lets) | (fail_if_no_progress beta_reduce) | (dsimp +zetaDelta only) | fail)

theorem State.sequence_kept {q : List Instr} (s : State) (r : EdReq) (h : Kept q s) : Kept q (State.sequence s r) := by
  unfold State.sequence
  repeat' (first | with_reducible assumption | with_reducible apply State.askFloor_kept | with_reducible apply State.execute_kept | with_reducible apply State.seenAgain_kept | fail_if_no_progress (with_reducible apply Kept.upd) | with_reducible apply foldl_kept | (intro) | split | (fail_if_no_progress extract_lets) | (fail_if_no_progress beta_reduce) | (dsimp +zetaDelta only) | fail)

theorem State.receive_kept {q : List Instr} (s : State) (r : EdReq) (h : Kept q s) : Kept q (State.receive s r) := by
  unfold State.receive
  repeat' (first | with_reducible assumption | with_reducible apply State.at'_kept | with_reducible apply State.authFail_kept | with_reducible apply State.sequence_kept | fail_if_no_progress (with_reducible apply Kept.upd) | with_reducible apply foldl_kept | (intro) | split | (fail_if_no_progress extract_lets) | (fail_if_no_progress beta_reduce) | (dsimp +zetaDelta only) | fail)

theorem execDeferredRun_kept {q : List Instr} (i : Nat) (t : Nat) (s : State) (h : Kept q s) : ∀ y, execDeferredRun i t s = .next y → Kept q y := by
  intro y hy
  unfold execDeferredRun at hy
  cases hy
  repeat' (first | with_reducible assumption | with_reducible apply State.at'_kept | with_reducible apply State.complete_kept | with_reducible apply State.serveReq_kept | with_reducible apply State.take_kept | fail_if_no_progress (with_reducible apply Kept.upd) | with_reducible apply foldl_kept | (intro) | split | (fail_if_no_progress extract_lets) | (fail_if_no_progress beta_reduce) | (dsimp +zetaDelta only) | fail)

theorem execEventResend_kept {q : List Instr} (parcel : Fin 513) (num : BitVec 32) (t : Nat) (s : State) (h : Kept q s) : ∀ y, execEventResend parcel num t s = .next y → Kept q y := by
  intro y hy
  unfold execEventResend at hy
  cases hy
  repeat' (first | with_reducible assumption | with_reducible apply State.at'_kept | with_reducible apply State.setBox_kept | with_reducible apply State.transmit_kept | fail_if_no_progress (with_reducible apply Kept.upd) | with_reducible apply foldl_kept | (intro) | split | (fail_if_no_progress extract_lets) | (fail_if_no_progress beta_reduce) | (dsimp +zetaDelta only) | fail)

theorem execSeqFloorCommitDone_kept {q : List Instr} (t : Nat) (s : State) (h : Kept q s) : ∀ y, execSeqFloorCommitDone t s = .next y → Kept q y := by
  intro y hy
  unfold execSeqFloorCommitDone at hy
  cases hy
  repeat' (first | with_reducible assumption | with_reducible apply State.at'_kept | with_reducible apply State.sequence_kept | fail_if_no_progress (with_reducible apply Kept.upd) | with_reducible apply foldl_kept | (intro) | split | (fail_if_no_progress extract_lets) | (fail_if_no_progress beta_reduce) | (dsimp +zetaDelta only) | fail)

theorem execEdushNop_kept {q : List Instr} (op : BitVec 16) (m : Mail) (s : State) (h : Kept q s) : ∀ y, execEdushNop op m s = .next y → Kept q y := by
  intro y hy
  unfold execEdushNop at hy
  cases hy
  repeat' (first | with_reducible assumption | with_reducible apply State.receive_kept | fail_if_no_progress (with_reducible apply Kept.upd) | with_reducible apply foldl_kept | (intro) | split | (fail_if_no_progress extract_lets) | (fail_if_no_progress beta_reduce) | (dsimp +zetaDelta only) | fail)

theorem execParcelCreate_kept {q : List Instr} (m : Mail) (s : State) (h : Kept q s) : ∀ y, execParcelCreate m s = .next y → Kept q y := by
  intro y hy
  unfold execParcelCreate at hy
  cases hy
  repeat' (first | with_reducible assumption | with_reducible apply State.receive_kept | fail_if_no_progress (with_reducible apply Kept.upd) | with_reducible apply foldl_kept | (intro) | split | (fail_if_no_progress extract_lets) | (fail_if_no_progress beta_reduce) | (dsimp +zetaDelta only) | fail)

theorem execParcelDestroy_kept {q : List Instr} (m : Mail) (s : State) (h : Kept q s) : ∀ y, execParcelDestroy m s = .next y → Kept q y := by
  intro y hy
  unfold execParcelDestroy at hy
  cases hy
  repeat' (first | with_reducible assumption | with_reducible apply State.receive_kept | fail_if_no_progress (with_reducible apply Kept.upd) | with_reducible apply foldl_kept | (intro) | split | (fail_if_no_progress extract_lets) | (fail_if_no_progress beta_reduce) | (dsimp +zetaDelta only) | fail)

theorem execParcelEnable_kept {q : List Instr} (m : Mail) (s : State) (h : Kept q s) : ∀ y, execParcelEnable m s = .next y → Kept q y := by
  intro y hy
  unfold execParcelEnable at hy
  cases hy
  repeat' (first | with_reducible assumption | with_reducible apply State.receive_kept | fail_if_no_progress (with_reducible apply Kept.upd) | with_reducible apply foldl_kept | (intro) | split | (fail_if_no_progress extract_lets) | (fail_if_no_progress beta_reduce) | (dsimp +zetaDelta only) | fail)

theorem execParcelDisable_kept {q : List Instr} (m : Mail) (s : State) (h : Kept q s) : ∀ y, execParcelDisable m s = .next y → Kept q y := by
  intro y hy
  unfold execParcelDisable at hy
  cases hy
  repeat' (first | with_reducible assumption | with_reducible apply State.receive_kept | fail_if_no_progress (with_reducible apply Kept.upd) | with_reducible apply foldl_kept | (intro) | split | (fail_if_no_progress extract_lets) | (fail_if_no_progress beta_reduce) | (dsimp +zetaDelta only) | fail)

theorem execModelRegister_kept {q : List Instr} (m : Mail) (s : State) (h : Kept q s) : ∀ y, execModelRegister m s = .next y → Kept q y := by
  intro y hy
  unfold execModelRegister at hy
  cases hy
  repeat' (first | with_reducible assumption | with_reducible apply State.receive_kept | fail_if_no_progress (with_reducible apply Kept.upd) | with_reducible apply foldl_kept | (intro) | split | (fail_if_no_progress extract_lets) | (fail_if_no_progress beta_reduce) | (dsimp +zetaDelta only) | fail)

theorem execModelFetch_kept {q : List Instr} (m : Mail) (s : State) (h : Kept q s) : ∀ y, execModelFetch m s = .next y → Kept q y := by
  intro y hy
  unfold execModelFetch at hy
  cases hy
  repeat' (first | with_reducible assumption | with_reducible apply State.receive_kept | fail_if_no_progress (with_reducible apply Kept.upd) | with_reducible apply foldl_kept | (intro) | split | (fail_if_no_progress extract_lets) | (fail_if_no_progress beta_reduce) | (dsimp +zetaDelta only) | fail)

theorem execModelFill_kept {q : List Instr} (m : Mail) (s : State) (h : Kept q s) : ∀ y, execModelFill m s = .next y → Kept q y := by
  intro y hy
  unfold execModelFill at hy
  cases hy
  repeat' (first | with_reducible assumption | with_reducible apply State.receive_kept | fail_if_no_progress (with_reducible apply Kept.upd) | with_reducible apply foldl_kept | (intro) | split | (fail_if_no_progress extract_lets) | (fail_if_no_progress beta_reduce) | (dsimp +zetaDelta only) | fail)

theorem execModelEvict_kept {q : List Instr} (m : Mail) (s : State) (h : Kept q s) : ∀ y, execModelEvict m s = .next y → Kept q y := by
  intro y hy
  unfold execModelEvict at hy
  cases hy
  repeat' (first | with_reducible assumption | with_reducible apply State.receive_kept | fail_if_no_progress (with_reducible apply Kept.upd) | with_reducible apply foldl_kept | (intro) | split | (fail_if_no_progress extract_lets) | (fail_if_no_progress beta_reduce) | (dsimp +zetaDelta only) | fail)

theorem execAdapterLoad_kept {q : List Instr} (m : Mail) (s : State) (h : Kept q s) : ∀ y, execAdapterLoad m s = .next y → Kept q y := by
  intro y hy
  unfold execAdapterLoad at hy
  cases hy
  repeat' (first | with_reducible assumption | with_reducible apply State.receive_kept | fail_if_no_progress (with_reducible apply Kept.upd) | with_reducible apply foldl_kept | (intro) | split | (fail_if_no_progress extract_lets) | (fail_if_no_progress beta_reduce) | (dsimp +zetaDelta only) | fail)

theorem execAdapterReplace_kept {q : List Instr} (m : Mail) (s : State) (h : Kept q s) : ∀ y, execAdapterReplace m s = .next y → Kept q y := by
  intro y hy
  unfold execAdapterReplace at hy
  cases hy
  repeat' (first | with_reducible assumption | with_reducible apply State.receive_kept | fail_if_no_progress (with_reducible apply Kept.upd) | with_reducible apply foldl_kept | (intro) | split | (fail_if_no_progress extract_lets) | (fail_if_no_progress beta_reduce) | (dsimp +zetaDelta only) | fail)

theorem execAdapterWithdraw_kept {q : List Instr} (m : Mail) (s : State) (h : Kept q s) : ∀ y, execAdapterWithdraw m s = .next y → Kept q y := by
  intro y hy
  unfold execAdapterWithdraw at hy
  cases hy
  repeat' (first | with_reducible assumption | with_reducible apply State.receive_kept | fail_if_no_progress (with_reducible apply Kept.upd) | with_reducible apply foldl_kept | (intro) | split | (fail_if_no_progress extract_lets) | (fail_if_no_progress beta_reduce) | (dsimp +zetaDelta only) | fail)

theorem execPlatLoad_kept {q : List Instr} (m : Mail) (s : State) (h : Kept q s) : ∀ y, execPlatLoad m s = .next y → Kept q y := by
  intro y hy
  unfold execPlatLoad at hy
  cases hy
  repeat' (first | with_reducible assumption | with_reducible apply State.receive_kept | fail_if_no_progress (with_reducible apply Kept.upd) | with_reducible apply foldl_kept | (intro) | split | (fail_if_no_progress extract_lets) | (fail_if_no_progress beta_reduce) | (dsimp +zetaDelta only) | fail)

theorem execPrefixPin_kept {q : List Instr} (m : Mail) (s : State) (h : Kept q s) : ∀ y, execPrefixPin m s = .next y → Kept q y := by
  intro y hy
  unfold execPrefixPin at hy
  cases hy
  repeat' (first | with_reducible assumption | with_reducible apply State.receive_kept | fail_if_no_progress (with_reducible apply Kept.upd) | with_reducible apply foldl_kept | (intro) | split | (fail_if_no_progress extract_lets) | (fail_if_no_progress beta_reduce) | (dsimp +zetaDelta only) | fail)

theorem execPrefixUnpin_kept {q : List Instr} (m : Mail) (s : State) (h : Kept q s) : ∀ y, execPrefixUnpin m s = .next y → Kept q y := by
  intro y hy
  unfold execPrefixUnpin at hy
  cases hy
  repeat' (first | with_reducible assumption | with_reducible apply State.receive_kept | fail_if_no_progress (with_reducible apply Kept.upd) | with_reducible apply foldl_kept | (intro) | split | (fail_if_no_progress extract_lets) | (fail_if_no_progress beta_reduce) | (dsimp +zetaDelta only) | fail)

theorem execRingCreate_kept {q : List Instr} (m : Mail) (s : State) (h : Kept q s) : ∀ y, execRingCreate m s = .next y → Kept q y := by
  intro y hy
  unfold execRingCreate at hy
  cases hy
  repeat' (first | with_reducible assumption | with_reducible apply State.receive_kept | fail_if_no_progress (with_reducible apply Kept.upd) | with_reducible apply foldl_kept | (intro) | split | (fail_if_no_progress extract_lets) | (fail_if_no_progress beta_reduce) | (dsimp +zetaDelta only) | fail)

theorem execRingDestroy_kept {q : List Instr} (m : Mail) (s : State) (h : Kept q s) : ∀ y, execRingDestroy m s = .next y → Kept q y := by
  intro y hy
  unfold execRingDestroy at hy
  cases hy
  repeat' (first | with_reducible assumption | with_reducible apply State.receive_kept | fail_if_no_progress (with_reducible apply Kept.upd) | with_reducible apply foldl_kept | (intro) | split | (fail_if_no_progress extract_lets) | (fail_if_no_progress beta_reduce) | (dsimp +zetaDelta only) | fail)

theorem execStatsRead_kept {q : List Instr} (m : Mail) (s : State) (h : Kept q s) : ∀ y, execStatsRead m s = .next y → Kept q y := by
  intro y hy
  unfold execStatsRead at hy
  cases hy
  repeat' (first | with_reducible assumption | with_reducible apply State.receive_kept | fail_if_no_progress (with_reducible apply Kept.upd) | with_reducible apply foldl_kept | (intro) | split | (fail_if_no_progress extract_lets) | (fail_if_no_progress beta_reduce) | (dsimp +zetaDelta only) | fail)

theorem execCountersRead_kept {q : List Instr} (m : Mail) (s : State) (h : Kept q s) : ∀ y, execCountersRead m s = .next y → Kept q y := by
  intro y hy
  unfold execCountersRead at hy
  cases hy
  repeat' (first | with_reducible assumption | with_reducible apply State.receive_kept | fail_if_no_progress (with_reducible apply Kept.upd) | with_reducible apply foldl_kept | (intro) | split | (fail_if_no_progress extract_lets) | (fail_if_no_progress beta_reduce) | (dsimp +zetaDelta only) | fail)

theorem execFieldbookRead_kept {q : List Instr} (m : Mail) (s : State) (h : Kept q s) : ∀ y, execFieldbookRead m s = .next y → Kept q y := by
  intro y hy
  unfold execFieldbookRead at hy
  cases hy
  repeat' (first | with_reducible assumption | with_reducible apply State.receive_kept | fail_if_no_progress (with_reducible apply Kept.upd) | with_reducible apply foldl_kept | (intro) | split | (fail_if_no_progress extract_lets) | (fail_if_no_progress beta_reduce) | (dsimp +zetaDelta only) | fail)

theorem execTopologyPlanSet_kept {q : List Instr} (m : Mail) (s : State) (h : Kept q s) : ∀ y, execTopologyPlanSet m s = .next y → Kept q y := by
  intro y hy
  unfold execTopologyPlanSet at hy
  cases hy
  repeat' (first | with_reducible assumption | with_reducible apply State.receive_kept | fail_if_no_progress (with_reducible apply Kept.upd) | with_reducible apply foldl_kept | (intro) | split | (fail_if_no_progress extract_lets) | (fail_if_no_progress beta_reduce) | (dsimp +zetaDelta only) | fail)

theorem execTopologyRead_kept {q : List Instr} (m : Mail) (s : State) (h : Kept q s) : ∀ y, execTopologyRead m s = .next y → Kept q y := by
  intro y hy
  unfold execTopologyRead at hy
  cases hy
  repeat' (first | with_reducible assumption | with_reducible apply State.receive_kept | fail_if_no_progress (with_reducible apply Kept.upd) | with_reducible apply foldl_kept | (intro) | split | (fail_if_no_progress extract_lets) | (fail_if_no_progress beta_reduce) | (dsimp +zetaDelta only) | fail)

theorem execLinkRetrain_kept {q : List Instr} (m : Mail) (s : State) (h : Kept q s) : ∀ y, execLinkRetrain m s = .next y → Kept q y := by
  intro y hy
  unfold execLinkRetrain at hy
  cases hy
  repeat' (first | with_reducible assumption | with_reducible apply State.receive_kept | fail_if_no_progress (with_reducible apply Kept.upd) | with_reducible apply foldl_kept | (intro) | split | (fail_if_no_progress extract_lets) | (fail_if_no_progress beta_reduce) | (dsimp +zetaDelta only) | fail)

theorem execPowerCapSet_kept {q : List Instr} (m : Mail) (s : State) (h : Kept q s) : ∀ y, execPowerCapSet m s = .next y → Kept q y := by
  intro y hy
  unfold execPowerCapSet at hy
  cases hy
  repeat' (first | with_reducible assumption | with_reducible apply State.receive_kept | fail_if_no_progress (with_reducible apply Kept.upd) | with_reducible apply foldl_kept | (intro) | split | (fail_if_no_progress extract_lets) | (fail_if_no_progress beta_reduce) | (dsimp +zetaDelta only) | fail)

theorem execStateSet_kept {q : List Instr} (m : Mail) (s : State) (h : Kept q s) : ∀ y, execStateSet m s = .next y → Kept q y := by
  intro y hy
  unfold execStateSet at hy
  cases hy
  repeat' (first | with_reducible assumption | with_reducible apply State.receive_kept | fail_if_no_progress (with_reducible apply Kept.upd) | with_reducible apply foldl_kept | (intro) | split | (fail_if_no_progress extract_lets) | (fail_if_no_progress beta_reduce) | (dsimp +zetaDelta only) | fail)

theorem execStateSetNetwork_kept {q : List Instr} (m : Mail) (s : State) (h : Kept q s) : ∀ y, execStateSetNetwork m s = .next y → Kept q y := by
  intro y hy
  unfold execStateSetNetwork at hy
  cases hy
  repeat' (first | with_reducible assumption | with_reducible apply State.receive_kept | fail_if_no_progress (with_reducible apply Kept.upd) | with_reducible apply foldl_kept | (intro) | split | (fail_if_no_progress extract_lets) | (fail_if_no_progress beta_reduce) | (dsimp +zetaDelta only) | fail)

theorem execParcel0KeyInstall_kept {q : List Instr} (m : Mail) (s : State) (h : Kept q s) : ∀ y, execParcel0KeyInstall m s = .next y → Kept q y := by
  intro y hy
  unfold execParcel0KeyInstall at hy
  cases hy
  repeat' (first | with_reducible assumption | with_reducible apply State.receive_kept | fail_if_no_progress (with_reducible apply Kept.upd) | with_reducible apply foldl_kept | (intro) | split | (fail_if_no_progress extract_lets) | (fail_if_no_progress beta_reduce) | (dsimp +zetaDelta only) | fail)

theorem execParcel0KeyReplace_kept {q : List Instr} (m : Mail) (s : State) (h : Kept q s) : ∀ y, execParcel0KeyReplace m s = .next y → Kept q y := by
  intro y hy
  unfold execParcel0KeyReplace at hy
  cases hy
  repeat' (first | with_reducible assumption | with_reducible apply State.receive_kept | fail_if_no_progress (with_reducible apply Kept.upd) | with_reducible apply foldl_kept | (intro) | split | (fail_if_no_progress extract_lets) | (fail_if_no_progress beta_reduce) | (dsimp +zetaDelta only) | fail)

theorem execQuadrantTakeOut_kept {q : List Instr} (m : Mail) (s : State) (h : Kept q s) : ∀ y, execQuadrantTakeOut m s = .next y → Kept q y := by
  intro y hy
  unfold execQuadrantTakeOut at hy
  cases hy
  repeat' (first | with_reducible assumption | with_reducible apply State.receive_kept | fail_if_no_progress (with_reducible apply Kept.upd) | with_reducible apply foldl_kept | (intro) | split | (fail_if_no_progress extract_lets) | (fail_if_no_progress beta_reduce) | (dsimp +zetaDelta only) | fail)

theorem execQuadrantRetest_kept {q : List Instr} (m : Mail) (s : State) (h : Kept q s) : ∀ y, execQuadrantRetest m s = .next y → Kept q y := by
  intro y hy
  unfold execQuadrantRetest at hy
  cases hy
  repeat' (first | with_reducible assumption | with_reducible apply State.receive_kept | fail_if_no_progress (with_reducible apply Kept.upd) | with_reducible apply foldl_kept | (intro) | split | (fail_if_no_progress extract_lets) | (fail_if_no_progress beta_reduce) | (dsimp +zetaDelta only) | fail)

theorem execQuadrantReturn_kept {q : List Instr} (m : Mail) (s : State) (h : Kept q s) : ∀ y, execQuadrantReturn m s = .next y → Kept q y := by
  intro y hy
  unfold execQuadrantReturn at hy
  cases hy
  repeat' (first | with_reducible assumption | with_reducible apply State.receive_kept | fail_if_no_progress (with_reducible apply Kept.upd) | with_reducible apply foldl_kept | (intro) | split | (fail_if_no_progress extract_lets) | (fail_if_no_progress beta_reduce) | (dsimp +zetaDelta only) | fail)

theorem execHbmRecal_kept {q : List Instr} (m : Mail) (s : State) (h : Kept q s) : ∀ y, execHbmRecal m s = .next y → Kept q y := by
  intro y hy
  unfold execHbmRecal at hy
  cases hy
  repeat' (first | with_reducible assumption | with_reducible apply State.receive_kept | fail_if_no_progress (with_reducible apply Kept.upd) | with_reducible apply foldl_kept | (intro) | split | (fail_if_no_progress extract_lets) | (fail_if_no_progress beta_reduce) | (dsimp +zetaDelta only) | fail)

theorem execFwStage_kept {q : List Instr} (m : Mail) (s : State) (h : Kept q s) : ∀ y, execFwStage m s = .next y → Kept q y := by
  intro y hy
  unfold execFwStage at hy
  cases hy
  repeat' (first | with_reducible assumption | with_reducible apply State.receive_kept | fail_if_no_progress (with_reducible apply Kept.upd) | with_reducible apply foldl_kept | (intro) | split | (fail_if_no_progress extract_lets) | (fail_if_no_progress beta_reduce) | (dsimp +zetaDelta only) | fail)

theorem execPolicyImageStage_kept {q : List Instr} (m : Mail) (s : State) (h : Kept q s) : ∀ y, execPolicyImageStage m s = .next y → Kept q y := by
  intro y hy
  unfold execPolicyImageStage at hy
  cases hy
  repeat' (first | with_reducible assumption | with_reducible apply State.receive_kept | fail_if_no_progress (with_reducible apply Kept.upd) | with_reducible apply foldl_kept | (intro) | split | (fail_if_no_progress extract_lets) | (fail_if_no_progress beta_reduce) | (dsimp +zetaDelta only) | fail)

theorem execFwActivate_kept {q : List Instr} (m : Mail) (s : State) (h : Kept q s) : ∀ y, execFwActivate m s = .next y → Kept q y := by
  intro y hy
  unfold execFwActivate at hy
  cases hy
  repeat' (first | with_reducible assumption | with_reducible apply State.receive_kept | fail_if_no_progress (with_reducible apply Kept.upd) | with_reducible apply foldl_kept | (intro) | split | (fail_if_no_progress extract_lets) | (fail_if_no_progress beta_reduce) | (dsimp +zetaDelta only) | fail)

theorem execSpdmMessage_kept {q : List Instr} (m : Mail) (s : State) (h : Kept q s) : ∀ y, execSpdmMessage m s = .next y → Kept q y := by
  intro y hy
  unfold execSpdmMessage at hy
  cases hy
  repeat' (first | with_reducible assumption | with_reducible apply State.receive_kept | fail_if_no_progress (with_reducible apply Kept.upd) | with_reducible apply foldl_kept | (intro) | split | (fail_if_no_progress extract_lets) | (fail_if_no_progress beta_reduce) | (dsimp +zetaDelta only) | fail)

end Sys2Proof.Machine
end

