-- ==== Sys2Proof/Laws/KeptTileCore.lean ====
section
/-! SUPPORT. Every operation of Machine/TileCore.lean leaves the queue alone and keeps the memories in canonical form. -/

set_option linter.unusedTactic false
set_option linter.unreachableTactic false
set_option linter.unusedVariables false
set_option linter.unnecessarySeqFocus false

namespace Sys2Proof.Machine

theorem execNop_kept {q : List Instr} (x : Issue) (slot : Fin 8) (s : State) (h : Kept q s) : ∀ y, execNop x slot s = .next y → Kept q y := by
  intro y hy
  unfold execNop at hy
  cases hy
  repeat' (first | with_reducible assumption | with_reducible apply issueOp_kept | fail_if_no_progress (with_reducible apply Kept.upd) | with_reducible apply foldl_kept | (intro) | split | (fail_if_no_progress extract_lets) | (fail_if_no_progress beta_reduce) | (dsimp +zetaDelta only) | fail)

theorem execBr_kept {q : List Instr} (x : Issue) (f : SlotF) (s : State) (h : Kept q s) : ∀ y, execBr x f s = .next y → Kept q y := by
  intro y hy
  unfold execBr at hy
  cases hy
  repeat' (first | with_reducible assumption | with_reducible apply issueOp_kept | fail_if_no_progress (with_reducible apply Kept.upd) | with_reducible apply foldl_kept | (intro) | split | (fail_if_no_progress extract_lets) | (fail_if_no_progress beta_reduce) | (dsimp +zetaDelta only) | fail)

theorem execLoop_kept {q : List Instr} (x : Issue) (f : SlotF) (s : State) (h : Kept q s) : ∀ y, execLoop x f s = .next y → Kept q y := by
  intro y hy
  unfold execLoop at hy
  cases hy
  repeat' (first | with_reducible assumption | with_reducible apply issueOp_kept | fail_if_no_progress (with_reducible apply Kept.upd) | with_reducible apply foldl_kept | (intro) | split | (fail_if_no_progress extract_lets) | (fail_if_no_progress beta_reduce) | (dsimp +zetaDelta only) | fail)

theorem execWait_kept {q : List Instr} (x : Issue) (f : SlotF) (s : State) (h : Kept q s) : ∀ y, execWait x f s = .next y → Kept q y := by
  intro y hy
  unfold execWait at hy
  cases hy
  repeat' (first | with_reducible assumption | with_reducible apply issueOp_kept | fail_if_no_progress (with_reducible apply Kept.upd) | with_reducible apply foldl_kept | (intro) | split | (fail_if_no_progress extract_lets) | (fail_if_no_progress beta_reduce) | (dsimp +zetaDelta only) | fail)

theorem execSignal_kept {q : List Instr} (x : Issue) (f : SlotF) (s : State) (h : Kept q s) : ∀ y, execSignal x f s = .next y → Kept q y := by
  intro y hy
  unfold execSignal at hy
  cases hy
  repeat' (first | with_reducible assumption | with_reducible apply issueOp_kept | fail_if_no_progress (with_reducible apply Kept.upd) | with_reducible apply foldl_kept | (intro) | split | (fail_if_no_progress extract_lets) | (fail_if_no_progress beta_reduce) | (dsimp +zetaDelta only) | fail)

theorem execYield_kept {q : List Instr} (x : Issue) (f : SlotF) (s : State) (h : Kept q s) : ∀ y, execYield x f s = .next y → Kept q y := by
  intro y hy
  unfold execYield at hy
  cases hy
  repeat' (first | with_reducible assumption | with_reducible apply issueOp_kept | fail_if_no_progress (with_reducible apply Kept.upd) | with_reducible apply foldl_kept | (intro) | split | (fail_if_no_progress extract_lets) | (fail_if_no_progress beta_reduce) | (dsimp +zetaDelta only) | fail)

theorem execEob_kept {q : List Instr} (x : Issue) (f : SlotF) (s : State) (h : Kept q s) : ∀ y, execEob x f s = .next y → Kept q y := by
  intro y hy
  unfold execEob at hy
  cases hy
  repeat' (first | with_reducible assumption | with_reducible apply issueOp_kept | fail_if_no_progress (with_reducible apply Kept.upd) | with_reducible apply foldl_kept | (intro) | split | (fail_if_no_progress extract_lets) | (fail_if_no_progress beta_reduce) | (dsimp +zetaDelta only) | fail)

theorem execFence_kept {q : List Instr} (x : Issue) (f : SlotF) (s : State) (h : Kept q s) : ∀ y, execFence x f s = .next y → Kept q y := by
  intro y hy
  unfold execFence at hy
  cases hy
  repeat' (first | with_reducible assumption | with_reducible apply issueOp_kept | fail_if_no_progress (with_reducible apply Kept.upd) | with_reducible apply foldl_kept | (intro) | split | (fail_if_no_progress extract_lets) | (fail_if_no_progress beta_reduce) | (dsimp +zetaDelta only) | fail)

theorem execTrap_kept {q : List Instr} (x : Issue) (f : SlotF) (s : State) (h : Kept q s) : ∀ y, execTrap x f s = .next y → Kept q y := by
  intro y hy
  unfold execTrap at hy
  cases hy
  repeat' (first | with_reducible assumption | with_reducible apply issueOp_kept | fail_if_no_progress (with_reducible apply Kept.upd) | with_reducible apply foldl_kept | (intro) | split | (fail_if_no_progress extract_lets) | (fail_if_no_progress beta_reduce) | (dsimp +zetaDelta only) | fail)

theorem execMma_kept {q : List Instr} (x : Issue) (f : SlotF) (s : State) (h : Kept q s) : ∀ y, execMma x f s = .next y → Kept q y := by
  intro y hy
  unfold execMma at hy
  cases hy
  repeat' (first | with_reducible assumption | with_reducible apply issueOp_kept | fail_if_no_progress (with_reducible apply Kept.upd) | with_reducible apply foldl_kept | (intro) | split | (fail_if_no_progress extract_lets) | (fail_if_no_progress beta_reduce) | (dsimp +zetaDelta only) | fail)

theorem execMmaz_kept {q : List Instr} (x : Issue) (f : SlotF) (s : State) (h : Kept q s) : ∀ y, execMmaz x f s = .next y → Kept q y := by
  intro y hy
  unfold execMmaz at hy
  cases hy
  repeat' (first | with_reducible assumption | with_reducible apply issueOp_kept | fail_if_no_progress (with_reducible apply Kept.upd) | with_reducible apply foldl_kept | (intro) | split | (fail_if_no_progress extract_lets) | (fail_if_no_progress beta_reduce) | (dsimp +zetaDelta only) | fail)

theorem execAclr_kept {q : List Instr} (x : Issue) (f : SlotF) (s : State) (h : Kept q s) : ∀ y, execAclr x f s = .next y → Kept q y := by
  intro y hy
  unfold execAclr at hy
  cases hy
  repeat' (first | with_reducible assumption | with_reducible apply issueOp_kept | fail_if_no_progress (with_reducible apply Kept.upd) | with_reducible apply foldl_kept | (intro) | split | (fail_if_no_progress extract_lets) | (fail_if_no_progress beta_reduce) | (dsimp +zetaDelta only) | fail)

theorem execArd_kept {q : List Instr} (x : Issue) (f : SlotF) (s : State) (h : Kept q s) : ∀ y, execArd x f s = .next y → Kept q y := by
  intro y hy
  unfold execArd at hy
  cases hy
  repeat' (first | with_reducible assumption | with_reducible apply issueOp_kept | fail_if_no_progress (with_reducible apply Kept.upd) | with_reducible apply foldl_kept | (intro) | split | (fail_if_no_progress extract_lets) | (fail_if_no_progress beta_reduce) | (dsimp +zetaDelta only) | fail)

theorem execAraw_kept {q : List Instr} (x : Issue) (f : SlotF) (s : State) (h : Kept q s) : ∀ y, execAraw x f s = .next y → Kept q y := by
  intro y hy
  unfold execAraw at hy
  cases hy
  repeat' (first | with_reducible assumption | with_reducible apply issueOp_kept | fail_if_no_progress (with_reducible apply Kept.upd) | with_reducible apply foldl_kept | (intro) | split | (fail_if_no_progress extract_lets) | (fail_if_no_progress beta_reduce) | (dsimp +zetaDelta only) | fail)

theorem execAadd_kept {q : List Instr} (x : Issue) (f : SlotF) (s : State) (h : Kept q s) : ∀ y, execAadd x f s = .next y → Kept q y := by
  intro y hy
  unfold execAadd at hy
  cases hy
  repeat' (first | with_reducible assumption | with_reducible apply issueOp_kept | fail_if_no_progress (with_reducible apply Kept.upd) | with_reducible apply foldl_kept | (intro) | split | (fail_if_no_progress extract_lets) | (fail_if_no_progress beta_reduce) | (dsimp +zetaDelta only) | fail)

theorem execAwin_kept {q : List Instr} (x : Issue) (f : SlotF) (s : State) (h : Kept q s) : ∀ y, execAwin x f s = .next y → Kept q y := by
  intro y hy
  unfold execAwin at hy
  cases hy
  repeat' (first | with_reducible assumption | with_reducible apply issueOp_kept | fail_if_no_progress (with_reducible apply Kept.upd) | with_reducible apply foldl_kept | (intro) | split | (fail_if_no_progress extract_lets) | (fail_if_no_progress beta_reduce) | (dsimp +zetaDelta only) | fail)

theorem execAflag_kept {q : List Instr} (x : Issue) (f : SlotF) (s : State) (h : Kept q s) : ∀ y, execAflag x f s = .next y → Kept q y := by
  intro y hy
  unfold execAflag at hy
  cases hy
  repeat' (first | with_reducible assumption | with_reducible apply issueOp_kept | fail_if_no_progress (with_reducible apply Kept.upd) | with_reducible apply foldl_kept | (intro) | split | (fail_if_no_progress extract_lets) | (fail_if_no_progress beta_reduce) | (dsimp +zetaDelta only) | fail)

theorem execVfma_kept {q : List Instr} (x : Issue) (f : SlotF) (s : State) (h : Kept q s) : ∀ y, execVfma x f s = .next y → Kept q y := by
  intro y hy
  unfold execVfma at hy
  cases hy
  repeat' (first | with_reducible assumption | with_reducible apply issueOp_kept | fail_if_no_progress (with_reducible apply Kept.upd) | with_reducible apply foldl_kept | (intro) | split | (fail_if_no_progress extract_lets) | (fail_if_no_progress beta_reduce) | (dsimp +zetaDelta only) | fail)

theorem execVadd_kept {q : List Instr} (x : Issue) (f : SlotF) (s : State) (h : Kept q s) : ∀ y, execVadd x f s = .next y → Kept q y := by
  intro y hy
  unfold execVadd at hy
  cases hy
  repeat' (first | with_reducible assumption | with_reducible apply issueOp_kept | fail_if_no_progress (with_reducible apply Kept.upd) | with_reducible apply foldl_kept | (intro) | split | (fail_if_no_progress extract_lets) | (fail_if_no_progress beta_reduce) | (dsimp +zetaDelta only) | fail)

theorem execVsub_kept {q : List Instr} (x : Issue) (f : SlotF) (s : State) (h : Kept q s) : ∀ y, execVsub x f s = .next y → Kept q y := by
  intro y hy
  unfold execVsub at hy
  cases hy
  repeat' (first | with_reducible assumption | with_reducible apply issueOp_kept | fail_if_no_progress (with_reducible apply Kept.upd) | with_reducible apply foldl_kept | (intro) | split | (fail_if_no_progress extract_lets) | (fail_if_no_progress beta_reduce) | (dsimp +zetaDelta only) | fail)

theorem execVmul_kept {q : List Instr} (x : Issue) (f : SlotF) (s : State) (h : Kept q s) : ∀ y, execVmul x f s = .next y → Kept q y := by
  intro y hy
  unfold execVmul at hy
  cases hy
  repeat' (first | with_reducible assumption | with_reducible apply issueOp_kept | fail_if_no_progress (with_reducible apply Kept.upd) | with_reducible apply foldl_kept | (intro) | split | (fail_if_no_progress extract_lets) | (fail_if_no_progress beta_reduce) | (dsimp +zetaDelta only) | fail)

theorem execVmax_kept {q : List Instr} (x : Issue) (f : SlotF) (s : State) (h : Kept q s) : ∀ y, execVmax x f s = .next y → Kept q y := by
  intro y hy
  unfold execVmax at hy
  cases hy
  repeat' (first | with_reducible assumption | with_reducible apply issueOp_kept | fail_if_no_progress (with_reducible apply Kept.upd) | with_reducible apply foldl_kept | (intro) | split | (fail_if_no_progress extract_lets) | (fail_if_no_progress beta_reduce) | (dsimp +zetaDelta only) | fail)

theorem execVmin_kept {q : List Instr} (x : Issue) (f : SlotF) (s : State) (h : Kept q s) : ∀ y, execVmin x f s = .next y → Kept q y := by
  intro y hy
  unfold execVmin at hy
  cases hy
  repeat' (first | with_reducible assumption | with_reducible apply issueOp_kept | fail_if_no_progress (with_reducible apply Kept.upd) | with_reducible apply foldl_kept | (intro) | split | (fail_if_no_progress extract_lets) | (fail_if_no_progress beta_reduce) | (dsimp +zetaDelta only) | fail)

theorem execVexp2_kept {q : List Instr} (x : Issue) (f : SlotF) (s : State) (h : Kept q s) : ∀ y, execVexp2 x f s = .next y → Kept q y := by
  intro y hy
  unfold execVexp2 at hy
  cases hy
  repeat' (first | with_reducible assumption | with_reducible apply issueOp_kept | fail_if_no_progress (with_reducible apply Kept.upd) | with_reducible apply foldl_kept | (intro) | split | (fail_if_no_progress extract_lets) | (fail_if_no_progress beta_reduce) | (dsimp +zetaDelta only) | fail)

theorem execVlog2_kept {q : List Instr} (x : Issue) (f : SlotF) (s : State) (h : Kept q s) : ∀ y, execVlog2 x f s = .next y → Kept q y := by
  intro y hy
  unfold execVlog2 at hy
  cases hy
  repeat' (first | with_reducible assumption | with_reducible apply issueOp_kept | fail_if_no_progress (with_reducible apply Kept.upd) | with_reducible apply foldl_kept | (intro) | split | (fail_if_no_progress extract_lets) | (fail_if_no_progress beta_reduce) | (dsimp +zetaDelta only) | fail)

theorem execVrcp_kept {q : List Instr} (x : Issue) (f : SlotF) (s : State) (h : Kept q s) : ∀ y, execVrcp x f s = .next y → Kept q y := by
  intro y hy
  unfold execVrcp at hy
  cases hy
  repeat' (first | with_reducible assumption | with_reducible apply issueOp_kept | fail_if_no_progress (with_reducible apply Kept.upd) | with_reducible apply foldl_kept | (intro) | split | (fail_if_no_progress extract_lets) | (fail_if_no_progress beta_reduce) | (dsimp +zetaDelta only) | fail)

theorem execVrsq_kept {q : List Instr} (x : Issue) (f : SlotF) (s : State) (h : Kept q s) : ∀ y, execVrsq x f s = .next y → Kept q y := by
  intro y hy
  unfold execVrsq at hy
  cases hy
  repeat' (first | with_reducible assumption | with_reducible apply issueOp_kept | fail_if_no_progress (with_reducible apply Kept.upd) | with_reducible apply foldl_kept | (intro) | split | (fail_if_no_progress extract_lets) | (fail_if_no_progress beta_reduce) | (dsimp +zetaDelta only) | fail)

theorem execVcvt_kept {q : List Instr} (x : Issue) (f : SlotF) (s : State) (h : Kept q s) : ∀ y, execVcvt x f s = .next y → Kept q y := by
  intro y hy
  unfold execVcvt at hy
  cases hy
  repeat' (first | with_reducible assumption | with_reducible apply issueOp_kept | fail_if_no_progress (with_reducible apply Kept.upd) | with_reducible apply foldl_kept | (intro) | split | (fail_if_no_progress extract_lets) | (fail_if_no_progress beta_reduce) | (dsimp +zetaDelta only) | fail)

theorem execVrsum_kept {q : List Instr} (x : Issue) (f : SlotF) (s : State) (h : Kept q s) : ∀ y, execVrsum x f s = .next y → Kept q y := by
  intro y hy
  unfold execVrsum at hy
  cases hy
  repeat' (first | with_reducible assumption | with_reducible apply issueOp_kept | fail_if_no_progress (with_reducible apply Kept.upd) | with_reducible apply foldl_kept | (intro) | split | (fail_if_no_progress extract_lets) | (fail_if_no_progress beta_reduce) | (dsimp +zetaDelta only) | fail)

theorem execVcmp_kept {q : List Instr} (x : Issue) (f : SlotF) (s : State) (h : Kept q s) : ∀ y, execVcmp x f s = .next y → Kept q y := by
  intro y hy
  unfold execVcmp at hy
  cases hy
  repeat' (first | with_reducible assumption | with_reducible apply issueOp_kept | fail_if_no_progress (with_reducible apply Kept.upd) | with_reducible apply foldl_kept | (intro) | split | (fail_if_no_progress extract_lets) | (fail_if_no_progress beta_reduce) | (dsimp +zetaDelta only) | fail)

theorem execSli_kept {q : List Instr} (x : Issue) (f : SlotF) (s : State) (h : Kept q s) : ∀ y, execSli x f s = .next y → Kept q y := by
  intro y hy
  unfold execSli at hy
  cases hy
  repeat' (first | with_reducible assumption | with_reducible apply issueOp_kept | fail_if_no_progress (with_reducible apply Kept.upd) | with_reducible apply foldl_kept | (intro) | split | (fail_if_no_progress extract_lets) | (fail_if_no_progress beta_reduce) | (dsimp +zetaDelta only) | fail)

theorem execSadd_kept {q : List Instr} (x : Issue) (f : SlotF) (s : State) (h : Kept q s) : ∀ y, execSadd x f s = .next y → Kept q y := by
  intro y hy
  unfold execSadd at hy
  cases hy
  repeat' (first | with_reducible assumption | with_reducible apply issueOp_kept | fail_if_no_progress (with_reducible apply Kept.upd) | with_reducible apply foldl_kept | (intro) | split | (fail_if_no_progress extract_lets) | (fail_if_no_progress beta_reduce) | (dsimp +zetaDelta only) | fail)

theorem execSsub_kept {q : List Instr} (x : Issue) (f : SlotF) (s : State) (h : Kept q s) : ∀ y, execSsub x f s = .next y → Kept q y := by
  intro y hy
  unfold execSsub at hy
  cases hy
  repeat' (first | with_reducible assumption | with_reducible apply issueOp_kept | fail_if_no_progress (with_reducible apply Kept.upd) | with_reducible apply foldl_kept | (intro) | split | (fail_if_no_progress extract_lets) | (fail_if_no_progress beta_reduce) | (dsimp +zetaDelta only) | fail)

theorem execSmul_kept {q : List Instr} (x : Issue) (f : SlotF) (s : State) (h : Kept q s) : ∀ y, execSmul x f s = .next y → Kept q y := by
  intro y hy
  unfold execSmul at hy
  cases hy
  repeat' (first | with_reducible assumption | with_reducible apply issueOp_kept | fail_if_no_progress (with_reducible apply Kept.upd) | with_reducible apply foldl_kept | (intro) | split | (fail_if_no_progress extract_lets) | (fail_if_no_progress beta_reduce) | (dsimp +zetaDelta only) | fail)

theorem execSand_kept {q : List Instr} (x : Issue) (f : SlotF) (s : State) (h : Kept q s) : ∀ y, execSand x f s = .next y → Kept q y := by
  intro y hy
  unfold execSand at hy
  cases hy
  repeat' (first | with_reducible assumption | with_reducible apply issueOp_kept | fail_if_no_progress (with_reducible apply Kept.upd) | with_reducible apply foldl_kept | (intro) | split | (fail_if_no_progress extract_lets) | (fail_if_no_progress beta_reduce) | (dsimp +zetaDelta only) | fail)

theorem execSor_kept {q : List Instr} (x : Issue) (f : SlotF) (s : State) (h : Kept q s) : ∀ y, execSor x f s = .next y → Kept q y := by
  intro y hy
  unfold execSor at hy
  cases hy
  repeat' (first | with_reducible assumption | with_reducible apply issueOp_kept | fail_if_no_progress (with_reducible apply Kept.upd) | with_reducible apply foldl_kept | (intro) | split | (fail_if_no_progress extract_lets) | (fail_if_no_progress beta_reduce) | (dsimp +zetaDelta only) | fail)

theorem execSxor_kept {q : List Instr} (x : Issue) (f : SlotF) (s : State) (h : Kept q s) : ∀ y, execSxor x f s = .next y → Kept q y := by
  intro y hy
  unfold execSxor at hy
  cases hy
  repeat' (first | with_reducible assumption | with_reducible apply issueOp_kept | fail_if_no_progress (with_reducible apply Kept.upd) | with_reducible apply foldl_kept | (intro) | split | (fail_if_no_progress extract_lets) | (fail_if_no_progress beta_reduce) | (dsimp +zetaDelta only) | fail)

theorem execSshl_kept {q : List Instr} (x : Issue) (f : SlotF) (s : State) (h : Kept q s) : ∀ y, execSshl x f s = .next y → Kept q y := by
  intro y hy
  unfold execSshl at hy
  cases hy
  repeat' (first | with_reducible assumption | with_reducible apply issueOp_kept | fail_if_no_progress (with_reducible apply Kept.upd) | with_reducible apply foldl_kept | (intro) | split | (fail_if_no_progress extract_lets) | (fail_if_no_progress beta_reduce) | (dsimp +zetaDelta only) | fail)

theorem execSshr_kept {q : List Instr} (x : Issue) (f : SlotF) (s : State) (h : Kept q s) : ∀ y, execSshr x f s = .next y → Kept q y := by
  intro y hy
  unfold execSshr at hy
  cases hy
  repeat' (first | with_reducible assumption | with_reducible apply issueOp_kept | fail_if_no_progress (with_reducible apply Kept.upd) | with_reducible apply foldl_kept | (intro) | split | (fail_if_no_progress extract_lets) | (fail_if_no_progress beta_reduce) | (dsimp +zetaDelta only) | fail)

theorem execSsra_kept {q : List Instr} (x : Issue) (f : SlotF) (s : State) (h : Kept q s) : ∀ y, execSsra x f s = .next y → Kept q y := by
  intro y hy
  unfold execSsra at hy
  cases hy
  repeat' (first | with_reducible assumption | with_reducible apply issueOp_kept | fail_if_no_progress (with_reducible apply Kept.upd) | with_reducible apply foldl_kept | (intro) | split | (fail_if_no_progress extract_lets) | (fail_if_no_progress beta_reduce) | (dsimp +zetaDelta only) | fail)

theorem execScmp_kept {q : List Instr} (x : Issue) (f : SlotF) (s : State) (h : Kept q s) : ∀ y, execScmp x f s = .next y → Kept q y := by
  intro y hy
  unfold execScmp at hy
  cases hy
  repeat' (first | with_reducible assumption | with_reducible apply issueOp_kept | fail_if_no_progress (with_reducible apply Kept.upd) | with_reducible apply foldl_kept | (intro) | split | (fail_if_no_progress extract_lets) | (fail_if_no_progress beta_reduce) | (dsimp +zetaDelta only) | fail)

theorem execSfromv_kept {q : List Instr} (x : Issue) (f : SlotF) (s : State) (h : Kept q s) : ∀ y, execSfromv x f s = .next y → Kept q y := by
  intro y hy
  unfold execSfromv at hy
  cases hy
  repeat' (first | with_reducible assumption | with_reducible apply issueOp_kept | fail_if_no_progress (with_reducible apply Kept.upd) | with_reducible apply foldl_kept | (intro) | split | (fail_if_no_progress extract_lets) | (fail_if_no_progress beta_reduce) | (dsimp +zetaDelta only) | fail)

theorem execVbcast_kept {q : List Instr} (x : Issue) (f : SlotF) (s : State) (h : Kept q s) : ∀ y, execVbcast x f s = .next y → Kept q y := by
  intro y hy
  unfold execVbcast at hy
  cases hy
  repeat' (first | with_reducible assumption | with_reducible apply issueOp_kept | fail_if_no_progress (with_reducible apply Kept.upd) | with_reducible apply foldl_kept | (intro) | split | (fail_if_no_progress extract_lets) | (fail_if_no_progress beta_reduce) | (dsimp +zetaDelta only) | fail)

theorem execViadd_kept {q : List Instr} (x : Issue) (f : SlotF) (s : State) (h : Kept q s) : ∀ y, execViadd x f s = .next y → Kept q y := by
  intro y hy
  unfold execViadd at hy
  cases hy
  repeat' (first | with_reducible assumption | with_reducible apply issueOp_kept | fail_if_no_progress (with_reducible apply Kept.upd) | with_reducible apply foldl_kept | (intro) | split | (fail_if_no_progress extract_lets) | (fail_if_no_progress beta_reduce) | (dsimp +zetaDelta only) | fail)

theorem execVand_kept {q : List Instr} (x : Issue) (f : SlotF) (s : State) (h : Kept q s) : ∀ y, execVand x f s = .next y → Kept q y := by
  intro y hy
  unfold execVand at hy
  cases hy
  repeat' (first | with_reducible assumption | with_reducible apply issueOp_kept | fail_if_no_progress (with_reducible apply Kept.upd) | with_reducible apply foldl_kept | (intro) | split | (fail_if_no_progress extract_lets) | (fail_if_no_progress beta_reduce) | (dsimp +zetaDelta only) | fail)

theorem execVor_kept {q : List Instr} (x : Issue) (f : SlotF) (s : State) (h : Kept q s) : ∀ y, execVor x f s = .next y → Kept q y := by
  intro y hy
  unfold execVor at hy
  cases hy
  repeat' (first | with_reducible assumption | with_reducible apply issueOp_kept | fail_if_no_progress (with_reducible apply Kept.upd) | with_reducible apply foldl_kept | (intro) | split | (fail_if_no_progress extract_lets) | (fail_if_no_progress beta_reduce) | (dsimp +zetaDelta only) | fail)

theorem execVxor_kept {q : List Instr} (x : Issue) (f : SlotF) (s : State) (h : Kept q s) : ∀ y, execVxor x f s = .next y → Kept q y := by
  intro y hy
  unfold execVxor at hy
  cases hy
  repeat' (first | with_reducible assumption | with_reducible apply issueOp_kept | fail_if_no_progress (with_reducible apply Kept.upd) | with_reducible apply foldl_kept | (intro) | split | (fail_if_no_progress extract_lets) | (fail_if_no_progress beta_reduce) | (dsimp +zetaDelta only) | fail)

theorem execVperm_kept {q : List Instr} (x : Issue) (f : SlotF) (s : State) (h : Kept q s) : ∀ y, execVperm x f s = .next y → Kept q y := by
  intro y hy
  unfold execVperm at hy
  cases hy
  repeat' (first | with_reducible assumption | with_reducible apply issueOp_kept | fail_if_no_progress (with_reducible apply Kept.upd) | with_reducible apply foldl_kept | (intro) | split | (fail_if_no_progress extract_lets) | (fail_if_no_progress beta_reduce) | (dsimp +zetaDelta only) | fail)

theorem execVsel_kept {q : List Instr} (x : Issue) (f : SlotF) (s : State) (h : Kept q s) : ∀ y, execVsel x f s = .next y → Kept q y := by
  intro y hy
  unfold execVsel at hy
  cases hy
  repeat' (first | with_reducible assumption | with_reducible apply issueOp_kept | fail_if_no_progress (with_reducible apply Kept.upd) | with_reducible apply foldl_kept | (intro) | split | (fail_if_no_progress extract_lets) | (fail_if_no_progress beta_reduce) | (dsimp +zetaDelta only) | fail)

theorem execVmov_kept {q : List Instr} (x : Issue) (f : SlotF) (s : State) (h : Kept q s) : ∀ y, execVmov x f s = .next y → Kept q y := by
  intro y hy
  unfold execVmov at hy
  cases hy
  repeat' (first | with_reducible assumption | with_reducible apply issueOp_kept | fail_if_no_progress (with_reducible apply Kept.upd) | with_reducible apply foldl_kept | (intro) | split | (fail_if_no_progress extract_lets) | (fail_if_no_progress beta_reduce) | (dsimp +zetaDelta only) | fail)

theorem execPand_kept {q : List Instr} (x : Issue) (f : SlotF) (s : State) (h : Kept q s) : ∀ y, execPand x f s = .next y → Kept q y := by
  intro y hy
  unfold execPand at hy
  cases hy
  repeat' (first | with_reducible assumption | with_reducible apply issueOp_kept | fail_if_no_progress (with_reducible apply Kept.upd) | with_reducible apply foldl_kept | (intro) | split | (fail_if_no_progress extract_lets) | (fail_if_no_progress beta_reduce) | (dsimp +zetaDelta only) | fail)

theorem execPor_kept {q : List Instr} (x : Issue) (f : SlotF) (s : State) (h : Kept q s) : ∀ y, execPor x f s = .next y → Kept q y := by
  intro y hy
  unfold execPor at hy
  cases hy
  repeat' (first | with_reducible assumption | with_reducible apply issueOp_kept | fail_if_no_progress (with_reducible apply Kept.upd) | with_reducible apply foldl_kept | (intro) | split | (fail_if_no_progress extract_lets) | (fail_if_no_progress beta_reduce) | (dsimp +zetaDelta only) | fail)

theorem execPxor_kept {q : List Instr} (x : Issue) (f : SlotF) (s : State) (h : Kept q s) : ∀ y, execPxor x f s = .next y → Kept q y := by
  intro y hy
  unfold execPxor at hy
  cases hy
  repeat' (first | with_reducible assumption | with_reducible apply issueOp_kept | fail_if_no_progress (with_reducible apply Kept.upd) | with_reducible apply foldl_kept | (intro) | split | (fail_if_no_progress extract_lets) | (fail_if_no_progress beta_reduce) | (dsimp +zetaDelta only) | fail)

theorem execPnot_kept {q : List Instr} (x : Issue) (f : SlotF) (s : State) (h : Kept q s) : ∀ y, execPnot x f s = .next y → Kept q y := by
  intro y hy
  unfold execPnot at hy
  cases hy
  repeat' (first | with_reducible assumption | with_reducible apply issueOp_kept | fail_if_no_progress (with_reducible apply Kept.upd) | with_reducible apply foldl_kept | (intro) | split | (fail_if_no_progress extract_lets) | (fail_if_no_progress beta_reduce) | (dsimp +zetaDelta only) | fail)

theorem execPrange_kept {q : List Instr} (x : Issue) (f : SlotF) (s : State) (h : Kept q s) : ∀ y, execPrange x f s = .next y → Kept q y := by
  intro y hy
  unfold execPrange at hy
  cases hy
  repeat' (first | with_reducible assumption | with_reducible apply issueOp_kept | fail_if_no_progress (with_reducible apply Kept.upd) | with_reducible apply foldl_kept | (intro) | split | (fail_if_no_progress extract_lets) | (fail_if_no_progress beta_reduce) | (dsimp +zetaDelta only) | fail)

theorem execLd_kept {q : List Instr} (x : Issue) (hi : Bool) (f : SlotF) (s : State) (h : Kept q s) : ∀ y, execLd x hi f s = .next y → Kept q y := by
  intro y hy
  unfold execLd at hy
  cases hy
  repeat' (first | with_reducible assumption | with_reducible apply issueOp_kept | fail_if_no_progress (with_reducible apply Kept.upd) | with_reducible apply foldl_kept | (intro) | split | (fail_if_no_progress extract_lets) | (fail_if_no_progress beta_reduce) | (dsimp +zetaDelta only) | fail)

theorem execLds_kept {q : List Instr} (x : Issue) (hi : Bool) (f : SlotF) (s : State) (h : Kept q s) : ∀ y, execLds x hi f s = .next y → Kept q y := by
  intro y hy
  unfold execLds at hy
  cases hy
  repeat' (first | with_reducible assumption | with_reducible apply issueOp_kept | fail_if_no_progress (with_reducible apply Kept.upd) | with_reducible apply foldl_kept | (intro) | split | (fail_if_no_progress extract_lets) | (fail_if_no_progress beta_reduce) | (dsimp +zetaDelta only) | fail)

theorem execSt_kept {q : List Instr} (x : Issue) (hi : Bool) (f : SlotF) (s : State) (h : Kept q s) : ∀ y, execSt x hi f s = .next y → Kept q y := by
  intro y hy
  unfold execSt at hy
  cases hy
  repeat' (first | with_reducible assumption | with_reducible apply issueOp_kept | fail_if_no_progress (with_reducible apply Kept.upd) | with_reducible apply foldl_kept | (intro) | split | (fail_if_no_progress extract_lets) | (fail_if_no_progress beta_reduce) | (dsimp +zetaDelta only) | fail)

theorem execSts_kept {q : List Instr} (x : Issue) (hi : Bool) (f : SlotF) (s : State) (h : Kept q s) : ∀ y, execSts x hi f s = .next y → Kept q y := by
  intro y hy
  unfold execSts at hy
  cases hy
  repeat' (first | with_reducible assumption | with_reducible apply issueOp_kept | fail_if_no_progress (with_reducible apply Kept.upd) | with_reducible apply foldl_kept | (intro) | split | (fail_if_no_progress extract_lets) | (fail_if_no_progress beta_reduce) | (dsimp +zetaDelta only) | fail)

theorem execSend_kept {q : List Instr} (x : Issue) (f : SlotF) (s : State) (h : Kept q s) : ∀ y, execSend x f s = .next y → Kept q y := by
  intro y hy
  unfold execSend at hy
  cases hy
  repeat' (first | with_reducible assumption | with_reducible apply issueOp_kept | fail_if_no_progress (with_reducible apply Kept.upd) | with_reducible apply foldl_kept | (intro) | split | (fail_if_no_progress extract_lets) | (fail_if_no_progress beta_reduce) | (dsimp +zetaDelta only) | fail)

theorem execSends_kept {q : List Instr} (x : Issue) (f : SlotF) (s : State) (h : Kept q s) : ∀ y, execSends x f s = .next y → Kept q y := by
  intro y hy
  unfold execSends at hy
  cases hy
  repeat' (first | with_reducible assumption | with_reducible apply issueOp_kept | fail_if_no_progress (with_reducible apply Kept.upd) | with_reducible apply foldl_kept | (intro) | split | (fail_if_no_progress extract_lets) | (fail_if_no_progress beta_reduce) | (dsimp +zetaDelta only) | fail)

theorem execRecv_kept {q : List Instr} (x : Issue) (f : SlotF) (s : State) (h : Kept q s) : ∀ y, execRecv x f s = .next y → Kept q y := by
  intro y hy
  unfold execRecv at hy
  cases hy
  repeat' (first | with_reducible assumption | with_reducible apply issueOp_kept | fail_if_no_progress (with_reducible apply Kept.upd) | with_reducible apply foldl_kept | (intro) | split | (fail_if_no_progress extract_lets) | (fail_if_no_progress beta_reduce) | (dsimp +zetaDelta only) | fail)

theorem execSteer_kept {q : List Instr} (x : Issue) (f : SlotF) (s : State) (h : Kept q s) : ∀ y, execSteer x f s = .next y → Kept q y := by
  intro y hy
  unfold execSteer at hy
  cases hy
  repeat' (first | with_reducible assumption | with_reducible apply issueOp_kept | fail_if_no_progress (with_reducible apply Kept.upd) | with_reducible apply foldl_kept | (intro) | split | (fail_if_no_progress extract_lets) | (fail_if_no_progress beta_reduce) | (dsimp +zetaDelta only) | fail)

theorem execMerge_kept {q : List Instr} (x : Issue) (f : SlotF) (s : State) (h : Kept q s) : ∀ y, execMerge x f s = .next y → Kept q y := by
  intro y hy
  unfold execMerge at hy
  cases hy
  repeat' (first | with_reducible assumption | with_reducible apply issueOp_kept | fail_if_no_progress (with_reducible apply Kept.upd) | with_reducible apply foldl_kept | (intro) | split | (fail_if_no_progress extract_lets) | (fail_if_no_progress beta_reduce) | (dsimp +zetaDelta only) | fail)

end Sys2Proof.Machine
end

