-- ==== Sys2Proof/Laws/State.lean ====
section
/-! SUPPORT. What each named update of the state leaves as it was: one lemma per update and field, and per update and table read. -/

namespace Sys2Proof.Machine

variable (s : State)

/-! `setTile`. -/

@[simp] theorem State.setTile_pending (g : Nat) (t : Tile) : (s.setTile g t).pending = s.pending := rfl
@[simp] theorem State.setTile_free (g : Nat) (t : Tile) : (s.setTile g t).free = s.free := rfl
@[simp] theorem State.setTile_now (g : Nat) (t : Tile) : (s.setTile g t).now = s.now := rfl
@[simp] theorem State.setTile_time (g : Nat) (t : Tile) : (s.setTile g t).time = s.time := rfl
@[simp] theorem State.setTile_mem (g : Nat) (t : Tile) : (s.setTile g t).mem = s.mem := rfl
@[simp] theorem State.setTile_quads (g : Nat) (t : Tile) : (s.setTile g t).quads = s.quads := rfl
@[simp] theorem State.setTile_blocks (g : Nat) (t : Tile) : (s.setTile g t).blocks = s.blocks := rfl
@[simp] theorem State.setTile_flights (g : Nat) (t : Tile) : (s.setTile g t).flights = s.flights := rfl
@[simp] theorem State.setTile_mail (g : Nat) (t : Tile) : (s.setTile g t).mail = s.mail := rfl
@[simp] theorem State.setTile_book (g : Nat) (t : Tile) : (s.setTile g t).book = s.book := rfl
@[simp] theorem State.setTile_slot (g : Nat) (t : Tile) : (s.setTile g t).slot = s.slot := rfl
@[simp] theorem State.setTile_engines (g : Nat) (t : Tile) : (s.setTile g t).engines = s.engines := rfl
@[simp] theorem State.setTile_fab (g : Nat) (t : Tile) : (s.setTile g t).fab = s.fab := rfl
@[simp] theorem State.setTile_hic (g : Nat) (t : Tile) : (s.setTile g t).hic = s.hic := rfl
@[simp] theorem State.setTile_cist (g : Nat) (t : Tile) : (s.setTile g t).cist = s.cist := rfl
@[simp] theorem State.setTile_les (g : Nat) (t : Tile) : (s.setTile g t).les = s.les := rfl
@[simp] theorem State.setTile_ges (g : Nat) (t : Tile) : (s.setTile g t).ges = s.ges := rfl
@[simp] theorem State.setTile_tables (g : Nat) (t : Tile) : (s.setTile g t).tables = s.tables := rfl
@[simp] theorem State.setTile_models (g : Nat) (t : Tile) : (s.setTile g t).models = s.models := rfl
@[simp] theorem State.setTile_adapters (g : Nat) (t : Tile) : (s.setTile g t).adapters = s.adapters := rfl
@[simp] theorem State.setTile_serve (g : Nat) (t : Tile) : (s.setTile g t).serve = s.serve := rfl
@[simp] theorem State.setTile_parcels (g : Nat) (t : Tile) : (s.setTile g t).parcels = s.parcels := rfl
@[simp] theorem State.setTile_sched (g : Nat) (t : Tile) : (s.setTile g t).sched = s.sched := rfl
@[simp] theorem State.setTile_arbs (g : Nat) (t : Tile) : (s.setTile g t).arbs = s.arbs := rfl
@[simp] theorem State.setTile_cores (g : Nat) (t : Tile) : (s.setTile g t).cores = s.cores := rfl
@[simp] theorem State.setTile_policies (g : Nat) (t : Tile) : (s.setTile g t).policies = s.policies := rfl
@[simp] theorem State.setTile_store (g : Nat) (t : Tile) : (s.setTile g t).store = s.store := rfl
@[simp] theorem State.setTile_power (g : Nat) (t : Tile) : (s.setTile g t).power = s.power := rfl
@[simp] theorem State.setTile_sec (g : Nat) (t : Tile) : (s.setTile g t).sec = s.sec := rfl
@[simp] theorem State.setTile_block (g : Nat) (t : Tile) (i : Nat) : (s.setTile g t).block i = s.block i := rfl
@[simp] theorem State.setTile_plot (g : Nat) (t : Tile) (i : Nat) : (s.setTile g t).plot i = s.plot i := rfl
@[simp] theorem State.setTile_box (g : Nat) (t : Tile) (i : Nat) : (s.setTile g t).box i = s.box i := rfl
@[simp] theorem State.setTile_quad (g : Nat) (t : Tile) (i : Nat) : (s.setTile g t).quad i = s.quad i := rfl
@[simp] theorem State.setTile_engine (g : Nat) (t : Tile) (i : Nat) : (s.setTile g t).engine i = s.engine i := rfl
@[simp] theorem State.setTile_cistern (g : Nat) (t : Tile) (i : Nat) : (s.setTile g t).cistern i = s.cistern i := rfl
@[simp] theorem State.setTile_lateral (g : Nat) (t : Tile) (i : Nat) : (s.setTile g t).lateral i = s.lateral i := rfl
@[simp] theorem State.setTile_gatherEng (g : Nat) (t : Tile) (i : Nat) : (s.setTile g t).gatherEng i = s.gatherEng i := rfl
@[simp] theorem State.setTile_tableEnt (g : Nat) (t : Tile) (i : Nat) : (s.setTile g t).tableEnt i = s.tableEnt i := rfl
@[simp] theorem State.setTile_fport (g : Nat) (t : Tile) (i : Nat) : (s.setTile g t).fport i = s.fport i := rfl
@[simp] theorem State.setTile_core (g : Nat) (t : Tile) (i : Nat) : (s.setTile g t).core i = s.core i := rfl
@[simp] theorem State.setTile_arb (g : Nat) (t : Tile) (i : Nat) : (s.setTile g t).arb i = s.arb i := rfl
@[simp] theorem State.setTile_policy (g : Nat) (t : Tile) (i : Nat) : (s.setTile g t).policy i = s.policy i := rfl
@[simp] theorem State.setTile_ring (g : Nat) (t : Tile) (i : Nat) : (s.setTile g t).ring i = s.ring i := rfl
@[simp] theorem State.setTile_req (g : Nat) (t : Tile) (i : Nat) : (s.setTile g t).req i = s.req i := rfl
@[simp] theorem State.setTile_prefixAt (g : Nat) (t : Tile) (i : Nat) : (s.setTile g t).prefixAt i = s.prefixAt i := rfl
@[simp] theorem State.setTile_parcel (g : Nat) (t : Tile) (i : Nat) : (s.setTile g t).parcel i = s.parcel i := rfl
@[simp] theorem State.setTile_entry (g : Nat) (t : Tile) (i : Nat) : (s.setTile g t).entry i = s.entry i := rfl
@[simp] theorem State.setTile_modelOf (g : Nat) (t : Tile) (i : Nat) : (s.setTile g t).modelOf i = s.modelOf i := rfl
@[simp] theorem State.setTile_adapter (g : Nat) (t : Tile) (i : Nat) : (s.setTile g t).adapter i = s.adapter i := rfl

/-! `updTile`. -/

@[simp] theorem State.updTile_pending (g : Nat) (f : Tile → Tile) : (s.updTile g f).pending = s.pending := rfl
@[simp] theorem State.updTile_free (g : Nat) (f : Tile → Tile) : (s.updTile g f).free = s.free := rfl
@[simp] theorem State.updTile_now (g : Nat) (f : Tile → Tile) : (s.updTile g f).now = s.now := rfl
@[simp] theorem State.updTile_time (g : Nat) (f : Tile → Tile) : (s.updTile g f).time = s.time := rfl
@[simp] theorem State.updTile_mem (g : Nat) (f : Tile → Tile) : (s.updTile g f).mem = s.mem := rfl
@[simp] theorem State.updTile_quads (g : Nat) (f : Tile → Tile) : (s.updTile g f).quads = s.quads := rfl
@[simp] theorem State.updTile_blocks (g : Nat) (f : Tile → Tile) : (s.updTile g f).blocks = s.blocks := rfl
@[simp] theorem State.updTile_flights (g : Nat) (f : Tile → Tile) : (s.updTile g f).flights = s.flights := rfl
@[simp] theorem State.updTile_mail (g : Nat) (f : Tile → Tile) : (s.updTile g f).mail = s.mail := rfl
@[simp] theorem State.updTile_book (g : Nat) (f : Tile → Tile) : (s.updTile g f).book = s.book := rfl
@[simp] theorem State.updTile_slot (g : Nat) (f : Tile → Tile) : (s.updTile g f).slot = s.slot := rfl
@[simp] theorem State.updTile_engines (g : Nat) (f : Tile → Tile) : (s.updTile g f).engines = s.engines := rfl
@[simp] theorem State.updTile_fab (g : Nat) (f : Tile → Tile) : (s.updTile g f).fab = s.fab := rfl
@[simp] theorem State.updTile_hic (g : Nat) (f : Tile → Tile) : (s.updTile g f).hic = s.hic := rfl
@[simp] theorem State.updTile_cist (g : Nat) (f : Tile → Tile) : (s.updTile g f).cist = s.cist := rfl
@[simp] theorem State.updTile_les (g : Nat) (f : Tile → Tile) : (s.updTile g f).les = s.les := rfl
@[simp] theorem State.updTile_ges (g : Nat) (f : Tile → Tile) : (s.updTile g f).ges = s.ges := rfl
@[simp] theorem State.updTile_tables (g : Nat) (f : Tile → Tile) : (s.updTile g f).tables = s.tables := rfl
@[simp] theorem State.updTile_models (g : Nat) (f : Tile → Tile) : (s.updTile g f).models = s.models := rfl
@[simp] theorem State.updTile_adapters (g : Nat) (f : Tile → Tile) : (s.updTile g f).adapters = s.adapters := rfl
@[simp] theorem State.updTile_serve (g : Nat) (f : Tile → Tile) : (s.updTile g f).serve = s.serve := rfl
@[simp] theorem State.updTile_parcels (g : Nat) (f : Tile → Tile) : (s.updTile g f).parcels = s.parcels := rfl
@[simp] theorem State.updTile_sched (g : Nat) (f : Tile → Tile) : (s.updTile g f).sched = s.sched := rfl
@[simp] theorem State.updTile_arbs (g : Nat) (f : Tile → Tile) : (s.updTile g f).arbs = s.arbs := rfl
@[simp] theorem State.updTile_cores (g : Nat) (f : Tile → Tile) : (s.updTile g f).cores = s.cores := rfl
@[simp] theorem State.updTile_policies (g : Nat) (f : Tile → Tile) : (s.updTile g f).policies = s.policies := rfl
@[simp] theorem State.updTile_store (g : Nat) (f : Tile → Tile) : (s.updTile g f).store = s.store := rfl
@[simp] theorem State.updTile_power (g : Nat) (f : Tile → Tile) : (s.updTile g f).power = s.power := rfl
@[simp] theorem State.updTile_sec (g : Nat) (f : Tile → Tile) : (s.updTile g f).sec = s.sec := rfl
@[simp] theorem State.updTile_block (g : Nat) (f : Tile → Tile) (i : Nat) : (s.updTile g f).block i = s.block i := rfl
@[simp] theorem State.updTile_plot (g : Nat) (f : Tile → Tile) (i : Nat) : (s.updTile g f).plot i = s.plot i := rfl
@[simp] theorem State.updTile_box (g : Nat) (f : Tile → Tile) (i : Nat) : (s.updTile g f).box i = s.box i := rfl
@[simp] theorem State.updTile_quad (g : Nat) (f : Tile → Tile) (i : Nat) : (s.updTile g f).quad i = s.quad i := rfl
@[simp] theorem State.updTile_engine (g : Nat) (f : Tile → Tile) (i : Nat) : (s.updTile g f).engine i = s.engine i := rfl
@[simp] theorem State.updTile_cistern (g : Nat) (f : Tile → Tile) (i : Nat) : (s.updTile g f).cistern i = s.cistern i := rfl
@[simp] theorem State.updTile_lateral (g : Nat) (f : Tile → Tile) (i : Nat) : (s.updTile g f).lateral i = s.lateral i := rfl
@[simp] theorem State.updTile_gatherEng (g : Nat) (f : Tile → Tile) (i : Nat) : (s.updTile g f).gatherEng i = s.gatherEng i := rfl
@[simp] theorem State.updTile_tableEnt (g : Nat) (f : Tile → Tile) (i : Nat) : (s.updTile g f).tableEnt i = s.tableEnt i := rfl
@[simp] theorem State.updTile_fport (g : Nat) (f : Tile → Tile) (i : Nat) : (s.updTile g f).fport i = s.fport i := rfl
@[simp] theorem State.updTile_core (g : Nat) (f : Tile → Tile) (i : Nat) : (s.updTile g f).core i = s.core i := rfl
@[simp] theorem State.updTile_arb (g : Nat) (f : Tile → Tile) (i : Nat) : (s.updTile g f).arb i = s.arb i := rfl
@[simp] theorem State.updTile_policy (g : Nat) (f : Tile → Tile) (i : Nat) : (s.updTile g f).policy i = s.policy i := rfl
@[simp] theorem State.updTile_ring (g : Nat) (f : Tile → Tile) (i : Nat) : (s.updTile g f).ring i = s.ring i := rfl
@[simp] theorem State.updTile_req (g : Nat) (f : Tile → Tile) (i : Nat) : (s.updTile g f).req i = s.req i := rfl
@[simp] theorem State.updTile_prefixAt (g : Nat) (f : Tile → Tile) (i : Nat) : (s.updTile g f).prefixAt i = s.prefixAt i := rfl
@[simp] theorem State.updTile_parcel (g : Nat) (f : Tile → Tile) (i : Nat) : (s.updTile g f).parcel i = s.parcel i := rfl
@[simp] theorem State.updTile_entry (g : Nat) (f : Tile → Tile) (i : Nat) : (s.updTile g f).entry i = s.entry i := rfl
@[simp] theorem State.updTile_modelOf (g : Nat) (f : Tile → Tile) (i : Nat) : (s.updTile g f).modelOf i = s.modelOf i := rfl
@[simp] theorem State.updTile_adapter (g : Nat) (f : Tile → Tile) (i : Nat) : (s.updTile g f).adapter i = s.adapter i := rfl

/-! `setBlock`. -/

@[simp] theorem State.setBlock_pending (b : Nat) (x : Block) : (s.setBlock b x).pending = s.pending := rfl
@[simp] theorem State.setBlock_free (b : Nat) (x : Block) : (s.setBlock b x).free = s.free := rfl
@[simp] theorem State.setBlock_now (b : Nat) (x : Block) : (s.setBlock b x).now = s.now := rfl
@[simp] theorem State.setBlock_time (b : Nat) (x : Block) : (s.setBlock b x).time = s.time := rfl
@[simp] theorem State.setBlock_mem (b : Nat) (x : Block) : (s.setBlock b x).mem = s.mem := rfl
@[simp] theorem State.setBlock_quads (b : Nat) (x : Block) : (s.setBlock b x).quads = s.quads := rfl
@[simp] theorem State.setBlock_tiles (b : Nat) (x : Block) : (s.setBlock b x).tiles = s.tiles := rfl
@[simp] theorem State.setBlock_flights (b : Nat) (x : Block) : (s.setBlock b x).flights = s.flights := rfl
@[simp] theorem State.setBlock_mail (b : Nat) (x : Block) : (s.setBlock b x).mail = s.mail := rfl
@[simp] theorem State.setBlock_book (b : Nat) (x : Block) : (s.setBlock b x).book = s.book := rfl
@[simp] theorem State.setBlock_slot (b : Nat) (x : Block) : (s.setBlock b x).slot = s.slot := rfl
@[simp] theorem State.setBlock_engines (b : Nat) (x : Block) : (s.setBlock b x).engines = s.engines := rfl
@[simp] theorem State.setBlock_fab (b : Nat) (x : Block) : (s.setBlock b x).fab = s.fab := rfl
@[simp] theorem State.setBlock_hic (b : Nat) (x : Block) : (s.setBlock b x).hic = s.hic := rfl
@[simp] theorem State.setBlock_cist (b : Nat) (x : Block) : (s.setBlock b x).cist = s.cist := rfl
@[simp] theorem State.setBlock_les (b : Nat) (x : Block) : (s.setBlock b x).les = s.les := rfl
@[simp] theorem State.setBlock_ges (b : Nat) (x : Block) : (s.setBlock b x).ges = s.ges := rfl
@[simp] theorem State.setBlock_tables (b : Nat) (x : Block) : (s.setBlock b x).tables = s.tables := rfl
@[simp] theorem State.setBlock_models (b : Nat) (x : Block) : (s.setBlock b x).models = s.models := rfl
@[simp] theorem State.setBlock_adapters (b : Nat) (x : Block) : (s.setBlock b x).adapters = s.adapters := rfl
@[simp] theorem State.setBlock_serve (b : Nat) (x : Block) : (s.setBlock b x).serve = s.serve := rfl
@[simp] theorem State.setBlock_parcels (b : Nat) (x : Block) : (s.setBlock b x).parcels = s.parcels := rfl
@[simp] theorem State.setBlock_sched (b : Nat) (x : Block) : (s.setBlock b x).sched = s.sched := rfl
@[simp] theorem State.setBlock_arbs (b : Nat) (x : Block) : (s.setBlock b x).arbs = s.arbs := rfl
@[simp] theorem State.setBlock_cores (b : Nat) (x : Block) : (s.setBlock b x).cores = s.cores := rfl
@[simp] theorem State.setBlock_policies (b : Nat) (x : Block) : (s.setBlock b x).policies = s.policies := rfl
@[simp] theorem State.setBlock_store (b : Nat) (x : Block) : (s.setBlock b x).store = s.store := rfl
@[simp] theorem State.setBlock_power (b : Nat) (x : Block) : (s.setBlock b x).power = s.power := rfl
@[simp] theorem State.setBlock_sec (b : Nat) (x : Block) : (s.setBlock b x).sec = s.sec := rfl
@[simp] theorem State.setBlock_tile (b : Nat) (x : Block) (i : Nat) : (s.setBlock b x).tile i = s.tile i := rfl
@[simp] theorem State.setBlock_box (b : Nat) (x : Block) (i : Nat) : (s.setBlock b x).box i = s.box i := rfl
@[simp] theorem State.setBlock_quad (b : Nat) (x : Block) (i : Nat) : (s.setBlock b x).quad i = s.quad i := rfl
@[simp] theorem State.setBlock_engine (b : Nat) (x : Block) (i : Nat) : (s.setBlock b x).engine i = s.engine i := rfl
@[simp] theorem State.setBlock_cistern (b : Nat) (x : Block) (i : Nat) : (s.setBlock b x).cistern i = s.cistern i := rfl
@[simp] theorem State.setBlock_lateral (b : Nat) (x : Block) (i : Nat) : (s.setBlock b x).lateral i = s.lateral i := rfl
@[simp] theorem State.setBlock_gatherEng (b : Nat) (x : Block) (i : Nat) : (s.setBlock b x).gatherEng i = s.gatherEng i := rfl
@[simp] theorem State.setBlock_tableEnt (b : Nat) (x : Block) (i : Nat) : (s.setBlock b x).tableEnt i = s.tableEnt i := rfl
@[simp] theorem State.setBlock_fport (b : Nat) (x : Block) (i : Nat) : (s.setBlock b x).fport i = s.fport i := rfl
@[simp] theorem State.setBlock_core (b : Nat) (x : Block) (i : Nat) : (s.setBlock b x).core i = s.core i := rfl
@[simp] theorem State.setBlock_arb (b : Nat) (x : Block) (i : Nat) : (s.setBlock b x).arb i = s.arb i := rfl
@[simp] theorem State.setBlock_policy (b : Nat) (x : Block) (i : Nat) : (s.setBlock b x).policy i = s.policy i := rfl
@[simp] theorem State.setBlock_ring (b : Nat) (x : Block) (i : Nat) : (s.setBlock b x).ring i = s.ring i := rfl
@[simp] theorem State.setBlock_req (b : Nat) (x : Block) (i : Nat) : (s.setBlock b x).req i = s.req i := rfl
@[simp] theorem State.setBlock_prefixAt (b : Nat) (x : Block) (i : Nat) : (s.setBlock b x).prefixAt i = s.prefixAt i := rfl
@[simp] theorem State.setBlock_parcel (b : Nat) (x : Block) (i : Nat) : (s.setBlock b x).parcel i = s.parcel i := rfl
@[simp] theorem State.setBlock_entry (b : Nat) (x : Block) (i : Nat) : (s.setBlock b x).entry i = s.entry i := rfl
@[simp] theorem State.setBlock_modelOf (b : Nat) (x : Block) (i : Nat) : (s.setBlock b x).modelOf i = s.modelOf i := rfl
@[simp] theorem State.setBlock_adapter (b : Nat) (x : Block) (i : Nat) : (s.setBlock b x).adapter i = s.adapter i := rfl

/-! `setPlot`. -/

@[simp] theorem State.setPlot_pending (b : Nat) (p : Plot) : (s.setPlot b p).pending = s.pending := rfl
@[simp] theorem State.setPlot_free (b : Nat) (p : Plot) : (s.setPlot b p).free = s.free := rfl
@[simp] theorem State.setPlot_now (b : Nat) (p : Plot) : (s.setPlot b p).now = s.now := rfl
@[simp] theorem State.setPlot_time (b : Nat) (p : Plot) : (s.setPlot b p).time = s.time := rfl
@[simp] theorem State.setPlot_mem (b : Nat) (p : Plot) : (s.setPlot b p).mem = s.mem := rfl
@[simp] theorem State.setPlot_quads (b : Nat) (p : Plot) : (s.setPlot b p).quads = s.quads := rfl
@[simp] theorem State.setPlot_tiles (b : Nat) (p : Plot) : (s.setPlot b p).tiles = s.tiles := rfl
@[simp] theorem State.setPlot_flights (b : Nat) (p : Plot) : (s.setPlot b p).flights = s.flights := rfl
@[simp] theorem State.setPlot_mail (b : Nat) (p : Plot) : (s.setPlot b p).mail = s.mail := rfl
@[simp] theorem State.setPlot_book (b : Nat) (p : Plot) : (s.setPlot b p).book = s.book := rfl
@[simp] theorem State.setPlot_slot (b : Nat) (p : Plot) : (s.setPlot b p).slot = s.slot := rfl
@[simp] theorem State.setPlot_engines (b : Nat) (p : Plot) : (s.setPlot b p).engines = s.engines := rfl
@[simp] theorem State.setPlot_fab (b : Nat) (p : Plot) : (s.setPlot b p).fab = s.fab := rfl
@[simp] theorem State.setPlot_hic (b : Nat) (p : Plot) : (s.setPlot b p).hic = s.hic := rfl
@[simp] theorem State.setPlot_cist (b : Nat) (p : Plot) : (s.setPlot b p).cist = s.cist := rfl
@[simp] theorem State.setPlot_les (b : Nat) (p : Plot) : (s.setPlot b p).les = s.les := rfl
@[simp] theorem State.setPlot_ges (b : Nat) (p : Plot) : (s.setPlot b p).ges = s.ges := rfl
@[simp] theorem State.setPlot_tables (b : Nat) (p : Plot) : (s.setPlot b p).tables = s.tables := rfl
@[simp] theorem State.setPlot_models (b : Nat) (p : Plot) : (s.setPlot b p).models = s.models := rfl
@[simp] theorem State.setPlot_adapters (b : Nat) (p : Plot) : (s.setPlot b p).adapters = s.adapters := rfl
@[simp] theorem State.setPlot_serve (b : Nat) (p : Plot) : (s.setPlot b p).serve = s.serve := rfl
@[simp] theorem State.setPlot_parcels (b : Nat) (p : Plot) : (s.setPlot b p).parcels = s.parcels := rfl
@[simp] theorem State.setPlot_sched (b : Nat) (p : Plot) : (s.setPlot b p).sched = s.sched := rfl
@[simp] theorem State.setPlot_arbs (b : Nat) (p : Plot) : (s.setPlot b p).arbs = s.arbs := rfl
@[simp] theorem State.setPlot_cores (b : Nat) (p : Plot) : (s.setPlot b p).cores = s.cores := rfl
@[simp] theorem State.setPlot_policies (b : Nat) (p : Plot) : (s.setPlot b p).policies = s.policies := rfl
@[simp] theorem State.setPlot_store (b : Nat) (p : Plot) : (s.setPlot b p).store = s.store := rfl
@[simp] theorem State.setPlot_power (b : Nat) (p : Plot) : (s.setPlot b p).power = s.power := rfl
@[simp] theorem State.setPlot_sec (b : Nat) (p : Plot) : (s.setPlot b p).sec = s.sec := rfl
@[simp] theorem State.setPlot_tile (b : Nat) (p : Plot) (i : Nat) : (s.setPlot b p).tile i = s.tile i := rfl
@[simp] theorem State.setPlot_box (b : Nat) (p : Plot) (i : Nat) : (s.setPlot b p).box i = s.box i := rfl
@[simp] theorem State.setPlot_quad (b : Nat) (p : Plot) (i : Nat) : (s.setPlot b p).quad i = s.quad i := rfl
@[simp] theorem State.setPlot_engine (b : Nat) (p : Plot) (i : Nat) : (s.setPlot b p).engine i = s.engine i := rfl
@[simp] theorem State.setPlot_cistern (b : Nat) (p : Plot) (i : Nat) : (s.setPlot b p).cistern i = s.cistern i := rfl
@[simp] theorem State.setPlot_lateral (b : Nat) (p : Plot) (i : Nat) : (s.setPlot b p).lateral i = s.lateral i := rfl
@[simp] theorem State.setPlot_gatherEng (b : Nat) (p : Plot) (i : Nat) : (s.setPlot b p).gatherEng i = s.gatherEng i := rfl
@[simp] theorem State.setPlot_tableEnt (b : Nat) (p : Plot) (i : Nat) : (s.setPlot b p).tableEnt i = s.tableEnt i := rfl
@[simp] theorem State.setPlot_fport (b : Nat) (p : Plot) (i : Nat) : (s.setPlot b p).fport i = s.fport i := rfl
@[simp] theorem State.setPlot_core (b : Nat) (p : Plot) (i : Nat) : (s.setPlot b p).core i = s.core i := rfl
@[simp] theorem State.setPlot_arb (b : Nat) (p : Plot) (i : Nat) : (s.setPlot b p).arb i = s.arb i := rfl
@[simp] theorem State.setPlot_policy (b : Nat) (p : Plot) (i : Nat) : (s.setPlot b p).policy i = s.policy i := rfl
@[simp] theorem State.setPlot_ring (b : Nat) (p : Plot) (i : Nat) : (s.setPlot b p).ring i = s.ring i := rfl
@[simp] theorem State.setPlot_req (b : Nat) (p : Plot) (i : Nat) : (s.setPlot b p).req i = s.req i := rfl
@[simp] theorem State.setPlot_prefixAt (b : Nat) (p : Plot) (i : Nat) : (s.setPlot b p).prefixAt i = s.prefixAt i := rfl
@[simp] theorem State.setPlot_parcel (b : Nat) (p : Plot) (i : Nat) : (s.setPlot b p).parcel i = s.parcel i := rfl
@[simp] theorem State.setPlot_entry (b : Nat) (p : Plot) (i : Nat) : (s.setPlot b p).entry i = s.entry i := rfl
@[simp] theorem State.setPlot_modelOf (b : Nat) (p : Plot) (i : Nat) : (s.setPlot b p).modelOf i = s.modelOf i := rfl
@[simp] theorem State.setPlot_adapter (b : Nat) (p : Plot) (i : Nat) : (s.setPlot b p).adapter i = s.adapter i := rfl

/-! `updPlotRegs`. -/

@[simp] theorem State.updPlotRegs_pending (b : Nat) (f : PlotRegs → PlotRegs) : (s.updPlotRegs b f).pending = s.pending := rfl
@[simp] theorem State.updPlotRegs_free (b : Nat) (f : PlotRegs → PlotRegs) : (s.updPlotRegs b f).free = s.free := rfl
@[simp] theorem State.updPlotRegs_now (b : Nat) (f : PlotRegs → PlotRegs) : (s.updPlotRegs b f).now = s.now := rfl
@[simp] theorem State.updPlotRegs_time (b : Nat) (f : PlotRegs → PlotRegs) : (s.updPlotRegs b f).time = s.time := rfl
@[simp] theorem State.updPlotRegs_mem (b : Nat) (f : PlotRegs → PlotRegs) : (s.updPlotRegs b f).mem = s.mem := rfl
@[simp] theorem State.updPlotRegs_quads (b : Nat) (f : PlotRegs → PlotRegs) : (s.updPlotRegs b f).quads = s.quads := rfl
@[simp] theorem State.updPlotRegs_tiles (b : Nat) (f : PlotRegs → PlotRegs) : (s.updPlotRegs b f).tiles = s.tiles := rfl
@[simp] theorem State.updPlotRegs_flights (b : Nat) (f : PlotRegs → PlotRegs) : (s.updPlotRegs b f).flights = s.flights := rfl
@[simp] theorem State.updPlotRegs_mail (b : Nat) (f : PlotRegs → PlotRegs) : (s.updPlotRegs b f).mail = s.mail := rfl
@[simp] theorem State.updPlotRegs_book (b : Nat) (f : PlotRegs → PlotRegs) : (s.updPlotRegs b f).book = s.book := rfl
@[simp] theorem State.updPlotRegs_slot (b : Nat) (f : PlotRegs → PlotRegs) : (s.updPlotRegs b f).slot = s.slot := rfl
@[simp] theorem State.updPlotRegs_engines (b : Nat) (f : PlotRegs → PlotRegs) : (s.updPlotRegs b f).engines = s.engines := rfl
@[simp] theorem State.updPlotRegs_fab (b : Nat) (f : PlotRegs → PlotRegs) : (s.updPlotRegs b f).fab = s.fab := rfl
@[simp] theorem State.updPlotRegs_hic (b : Nat) (f : PlotRegs → PlotRegs) : (s.updPlotRegs b f).hic = s.hic := rfl
@[simp] theorem State.updPlotRegs_cist (b : Nat) (f : PlotRegs → PlotRegs) : (s.updPlotRegs b f).cist = s.cist := rfl
@[simp] theorem State.updPlotRegs_les (b : Nat) (f : PlotRegs → PlotRegs) : (s.updPlotRegs b f).les = s.les := rfl
@[simp] theorem State.updPlotRegs_ges (b : Nat) (f : PlotRegs → PlotRegs) : (s.updPlotRegs b f).ges = s.ges := rfl
@[simp] theorem State.updPlotRegs_tables (b : Nat) (f : PlotRegs → PlotRegs) : (s.updPlotRegs b f).tables = s.tables := rfl
@[simp] theorem State.updPlotRegs_models (b : Nat) (f : PlotRegs → PlotRegs) : (s.updPlotRegs b f).models = s.models := rfl
@[simp] theorem State.updPlotRegs_adapters (b : Nat) (f : PlotRegs → PlotRegs) : (s.updPlotRegs b f).adapters = s.adapters := rfl
@[simp] theorem State.updPlotRegs_serve (b : Nat) (f : PlotRegs → PlotRegs) : (s.updPlotRegs b f).serve = s.serve := rfl
@[simp] theorem State.updPlotRegs_parcels (b : Nat) (f : PlotRegs → PlotRegs) : (s.updPlotRegs b f).parcels = s.parcels := rfl
@[simp] theorem State.updPlotRegs_sched (b : Nat) (f : PlotRegs → PlotRegs) : (s.updPlotRegs b f).sched = s.sched := rfl
@[simp] theorem State.updPlotRegs_arbs (b : Nat) (f : PlotRegs → PlotRegs) : (s.updPlotRegs b f).arbs = s.arbs := rfl
@[simp] theorem State.updPlotRegs_cores (b : Nat) (f : PlotRegs → PlotRegs) : (s.updPlotRegs b f).cores = s.cores := rfl
@[simp] theorem State.updPlotRegs_policies (b : Nat) (f : PlotRegs → PlotRegs) : (s.updPlotRegs b f).policies = s.policies := rfl
@[simp] theorem State.updPlotRegs_store (b : Nat) (f : PlotRegs → PlotRegs) : (s.updPlotRegs b f).store = s.store := rfl
@[simp] theorem State.updPlotRegs_power (b : Nat) (f : PlotRegs → PlotRegs) : (s.updPlotRegs b f).power = s.power := rfl
@[simp] theorem State.updPlotRegs_sec (b : Nat) (f : PlotRegs → PlotRegs) : (s.updPlotRegs b f).sec = s.sec := rfl
@[simp] theorem State.updPlotRegs_tile (b : Nat) (f : PlotRegs → PlotRegs) (i : Nat) : (s.updPlotRegs b f).tile i = s.tile i := rfl
@[simp] theorem State.updPlotRegs_box (b : Nat) (f : PlotRegs → PlotRegs) (i : Nat) : (s.updPlotRegs b f).box i = s.box i := rfl
@[simp] theorem State.updPlotRegs_quad (b : Nat) (f : PlotRegs → PlotRegs) (i : Nat) : (s.updPlotRegs b f).quad i = s.quad i := rfl
@[simp] theorem State.updPlotRegs_engine (b : Nat) (f : PlotRegs → PlotRegs) (i : Nat) : (s.updPlotRegs b f).engine i = s.engine i := rfl
@[simp] theorem State.updPlotRegs_cistern (b : Nat) (f : PlotRegs → PlotRegs) (i : Nat) : (s.updPlotRegs b f).cistern i = s.cistern i := rfl
@[simp] theorem State.updPlotRegs_lateral (b : Nat) (f : PlotRegs → PlotRegs) (i : Nat) : (s.updPlotRegs b f).lateral i = s.lateral i := rfl
@[simp] theorem State.updPlotRegs_gatherEng (b : Nat) (f : PlotRegs → PlotRegs) (i : Nat) : (s.updPlotRegs b f).gatherEng i = s.gatherEng i := rfl
@[simp] theorem State.updPlotRegs_tableEnt (b : Nat) (f : PlotRegs → PlotRegs) (i : Nat) : (s.updPlotRegs b f).tableEnt i = s.tableEnt i := rfl
@[simp] theorem State.updPlotRegs_fport (b : Nat) (f : PlotRegs → PlotRegs) (i : Nat) : (s.updPlotRegs b f).fport i = s.fport i := rfl
@[simp] theorem State.updPlotRegs_core (b : Nat) (f : PlotRegs → PlotRegs) (i : Nat) : (s.updPlotRegs b f).core i = s.core i := rfl
@[simp] theorem State.updPlotRegs_arb (b : Nat) (f : PlotRegs → PlotRegs) (i : Nat) : (s.updPlotRegs b f).arb i = s.arb i := rfl
@[simp] theorem State.updPlotRegs_policy (b : Nat) (f : PlotRegs → PlotRegs) (i : Nat) : (s.updPlotRegs b f).policy i = s.policy i := rfl
@[simp] theorem State.updPlotRegs_ring (b : Nat) (f : PlotRegs → PlotRegs) (i : Nat) : (s.updPlotRegs b f).ring i = s.ring i := rfl
@[simp] theorem State.updPlotRegs_req (b : Nat) (f : PlotRegs → PlotRegs) (i : Nat) : (s.updPlotRegs b f).req i = s.req i := rfl
@[simp] theorem State.updPlotRegs_prefixAt (b : Nat) (f : PlotRegs → PlotRegs) (i : Nat) : (s.updPlotRegs b f).prefixAt i = s.prefixAt i := rfl
@[simp] theorem State.updPlotRegs_parcel (b : Nat) (f : PlotRegs → PlotRegs) (i : Nat) : (s.updPlotRegs b f).parcel i = s.parcel i := rfl
@[simp] theorem State.updPlotRegs_entry (b : Nat) (f : PlotRegs → PlotRegs) (i : Nat) : (s.updPlotRegs b f).entry i = s.entry i := rfl
@[simp] theorem State.updPlotRegs_modelOf (b : Nat) (f : PlotRegs → PlotRegs) (i : Nat) : (s.updPlotRegs b f).modelOf i = s.modelOf i := rfl
@[simp] theorem State.updPlotRegs_adapter (b : Nat) (f : PlotRegs → PlotRegs) (i : Nat) : (s.updPlotRegs b f).adapter i = s.adapter i := rfl

/-! `setBox`. -/

@[simp] theorem State.setBox_pending (k : Nat) (m : Mailbox) : (s.setBox k m).pending = s.pending := rfl
@[simp] theorem State.setBox_free (k : Nat) (m : Mailbox) : (s.setBox k m).free = s.free := rfl
@[simp] theorem State.setBox_now (k : Nat) (m : Mailbox) : (s.setBox k m).now = s.now := rfl
@[simp] theorem State.setBox_time (k : Nat) (m : Mailbox) : (s.setBox k m).time = s.time := rfl
@[simp] theorem State.setBox_mem (k : Nat) (m : Mailbox) : (s.setBox k m).mem = s.mem := rfl
@[simp] theorem State.setBox_quads (k : Nat) (m : Mailbox) : (s.setBox k m).quads = s.quads := rfl
@[simp] theorem State.setBox_tiles (k : Nat) (m : Mailbox) : (s.setBox k m).tiles = s.tiles := rfl
@[simp] theorem State.setBox_blocks (k : Nat) (m : Mailbox) : (s.setBox k m).blocks = s.blocks := rfl
@[simp] theorem State.setBox_flights (k : Nat) (m : Mailbox) : (s.setBox k m).flights = s.flights := rfl
@[simp] theorem State.setBox_book (k : Nat) (m : Mailbox) : (s.setBox k m).book = s.book := rfl
@[simp] theorem State.setBox_slot (k : Nat) (m : Mailbox) : (s.setBox k m).slot = s.slot := rfl
@[simp] theorem State.setBox_engines (k : Nat) (m : Mailbox) : (s.setBox k m).engines = s.engines := rfl
@[simp] theorem State.setBox_fab (k : Nat) (m : Mailbox) : (s.setBox k m).fab = s.fab := rfl
@[simp] theorem State.setBox_hic (k : Nat) (m : Mailbox) : (s.setBox k m).hic = s.hic := rfl
@[simp] theorem State.setBox_cist (k : Nat) (m : Mailbox) : (s.setBox k m).cist = s.cist := rfl
@[simp] theorem State.setBox_les (k : Nat) (m : Mailbox) : (s.setBox k m).les = s.les := rfl
@[simp] theorem State.setBox_ges (k : Nat) (m : Mailbox) : (s.setBox k m).ges = s.ges := rfl
@[simp] theorem State.setBox_tables (k : Nat) (m : Mailbox) : (s.setBox k m).tables = s.tables := rfl
@[simp] theorem State.setBox_models (k : Nat) (m : Mailbox) : (s.setBox k m).models = s.models := rfl
@[simp] theorem State.setBox_adapters (k : Nat) (m : Mailbox) : (s.setBox k m).adapters = s.adapters := rfl
@[simp] theorem State.setBox_serve (k : Nat) (m : Mailbox) : (s.setBox k m).serve = s.serve := rfl
@[simp] theorem State.setBox_parcels (k : Nat) (m : Mailbox) : (s.setBox k m).parcels = s.parcels := rfl
@[simp] theorem State.setBox_sched (k : Nat) (m : Mailbox) : (s.setBox k m).sched = s.sched := rfl
@[simp] theorem State.setBox_arbs (k : Nat) (m : Mailbox) : (s.setBox k m).arbs = s.arbs := rfl
@[simp] theorem State.setBox_cores (k : Nat) (m : Mailbox) : (s.setBox k m).cores = s.cores := rfl
@[simp] theorem State.setBox_policies (k : Nat) (m : Mailbox) : (s.setBox k m).policies = s.policies := rfl
@[simp] theorem State.setBox_store (k : Nat) (m : Mailbox) : (s.setBox k m).store = s.store := rfl
@[simp] theorem State.setBox_power (k : Nat) (m : Mailbox) : (s.setBox k m).power = s.power := rfl
@[simp] theorem State.setBox_sec (k : Nat) (m : Mailbox) : (s.setBox k m).sec = s.sec := rfl
@[simp] theorem State.setBox_tile (k : Nat) (m : Mailbox) (i : Nat) : (s.setBox k m).tile i = s.tile i := rfl
@[simp] theorem State.setBox_block (k : Nat) (m : Mailbox) (i : Nat) : (s.setBox k m).block i = s.block i := rfl
@[simp] theorem State.setBox_plot (k : Nat) (m : Mailbox) (i : Nat) : (s.setBox k m).plot i = s.plot i := rfl
@[simp] theorem State.setBox_quad (k : Nat) (m : Mailbox) (i : Nat) : (s.setBox k m).quad i = s.quad i := rfl
@[simp] theorem State.setBox_engine (k : Nat) (m : Mailbox) (i : Nat) : (s.setBox k m).engine i = s.engine i := rfl
@[simp] theorem State.setBox_cistern (k : Nat) (m : Mailbox) (i : Nat) : (s.setBox k m).cistern i = s.cistern i := rfl
@[simp] theorem State.setBox_lateral (k : Nat) (m : Mailbox) (i : Nat) : (s.setBox k m).lateral i = s.lateral i := rfl
@[simp] theorem State.setBox_gatherEng (k : Nat) (m : Mailbox) (i : Nat) : (s.setBox k m).gatherEng i = s.gatherEng i := rfl
@[simp] theorem State.setBox_tableEnt (k : Nat) (m : Mailbox) (i : Nat) : (s.setBox k m).tableEnt i = s.tableEnt i := rfl
@[simp] theorem State.setBox_fport (k : Nat) (m : Mailbox) (i : Nat) : (s.setBox k m).fport i = s.fport i := rfl
@[simp] theorem State.setBox_core (k : Nat) (m : Mailbox) (i : Nat) : (s.setBox k m).core i = s.core i := rfl
@[simp] theorem State.setBox_arb (k : Nat) (m : Mailbox) (i : Nat) : (s.setBox k m).arb i = s.arb i := rfl
@[simp] theorem State.setBox_policy (k : Nat) (m : Mailbox) (i : Nat) : (s.setBox k m).policy i = s.policy i := rfl
@[simp] theorem State.setBox_ring (k : Nat) (m : Mailbox) (i : Nat) : (s.setBox k m).ring i = s.ring i := rfl
@[simp] theorem State.setBox_req (k : Nat) (m : Mailbox) (i : Nat) : (s.setBox k m).req i = s.req i := rfl
@[simp] theorem State.setBox_prefixAt (k : Nat) (m : Mailbox) (i : Nat) : (s.setBox k m).prefixAt i = s.prefixAt i := rfl
@[simp] theorem State.setBox_parcel (k : Nat) (m : Mailbox) (i : Nat) : (s.setBox k m).parcel i = s.parcel i := rfl
@[simp] theorem State.setBox_entry (k : Nat) (m : Mailbox) (i : Nat) : (s.setBox k m).entry i = s.entry i := rfl
@[simp] theorem State.setBox_modelOf (k : Nat) (m : Mailbox) (i : Nat) : (s.setBox k m).modelOf i = s.modelOf i := rfl
@[simp] theorem State.setBox_adapter (k : Nat) (m : Mailbox) (i : Nat) : (s.setBox k m).adapter i = s.adapter i := rfl

/-! `updQuad`. -/

@[simp] theorem State.updQuad_pending (q : Nat) (f : QuadMem → QuadMem) : (s.updQuad q f).pending = s.pending := rfl
@[simp] theorem State.updQuad_free (q : Nat) (f : QuadMem → QuadMem) : (s.updQuad q f).free = s.free := rfl
@[simp] theorem State.updQuad_now (q : Nat) (f : QuadMem → QuadMem) : (s.updQuad q f).now = s.now := rfl
@[simp] theorem State.updQuad_time (q : Nat) (f : QuadMem → QuadMem) : (s.updQuad q f).time = s.time := rfl
@[simp] theorem State.updQuad_mem (q : Nat) (f : QuadMem → QuadMem) : (s.updQuad q f).mem = s.mem := rfl
@[simp] theorem State.updQuad_tiles (q : Nat) (f : QuadMem → QuadMem) : (s.updQuad q f).tiles = s.tiles := rfl
@[simp] theorem State.updQuad_blocks (q : Nat) (f : QuadMem → QuadMem) : (s.updQuad q f).blocks = s.blocks := rfl
@[simp] theorem State.updQuad_flights (q : Nat) (f : QuadMem → QuadMem) : (s.updQuad q f).flights = s.flights := rfl
@[simp] theorem State.updQuad_mail (q : Nat) (f : QuadMem → QuadMem) : (s.updQuad q f).mail = s.mail := rfl
@[simp] theorem State.updQuad_book (q : Nat) (f : QuadMem → QuadMem) : (s.updQuad q f).book = s.book := rfl
@[simp] theorem State.updQuad_slot (q : Nat) (f : QuadMem → QuadMem) : (s.updQuad q f).slot = s.slot := rfl
@[simp] theorem State.updQuad_engines (q : Nat) (f : QuadMem → QuadMem) : (s.updQuad q f).engines = s.engines := rfl
@[simp] theorem State.updQuad_fab (q : Nat) (f : QuadMem → QuadMem) : (s.updQuad q f).fab = s.fab := rfl
@[simp] theorem State.updQuad_hic (q : Nat) (f : QuadMem → QuadMem) : (s.updQuad q f).hic = s.hic := rfl
@[simp] theorem State.updQuad_cist (q : Nat) (f : QuadMem → QuadMem) : (s.updQuad q f).cist = s.cist := rfl
@[simp] theorem State.updQuad_les (q : Nat) (f : QuadMem → QuadMem) : (s.updQuad q f).les = s.les := rfl
@[simp] theorem State.updQuad_ges (q : Nat) (f : QuadMem → QuadMem) : (s.updQuad q f).ges = s.ges := rfl
@[simp] theorem State.updQuad_tables (q : Nat) (f : QuadMem → QuadMem) : (s.updQuad q f).tables = s.tables := rfl
@[simp] theorem State.updQuad_models (q : Nat) (f : QuadMem → QuadMem) : (s.updQuad q f).models = s.models := rfl
@[simp] theorem State.updQuad_adapters (q : Nat) (f : QuadMem → QuadMem) : (s.updQuad q f).adapters = s.adapters := rfl
@[simp] theorem State.updQuad_serve (q : Nat) (f : QuadMem → QuadMem) : (s.updQuad q f).serve = s.serve := rfl
@[simp] theorem State.updQuad_parcels (q : Nat) (f : QuadMem → QuadMem) : (s.updQuad q f).parcels = s.parcels := rfl
@[simp] theorem State.updQuad_sched (q : Nat) (f : QuadMem → QuadMem) : (s.updQuad q f).sched = s.sched := rfl
@[simp] theorem State.updQuad_arbs (q : Nat) (f : QuadMem → QuadMem) : (s.updQuad q f).arbs = s.arbs := rfl
@[simp] theorem State.updQuad_cores (q : Nat) (f : QuadMem → QuadMem) : (s.updQuad q f).cores = s.cores := rfl
@[simp] theorem State.updQuad_policies (q : Nat) (f : QuadMem → QuadMem) : (s.updQuad q f).policies = s.policies := rfl
@[simp] theorem State.updQuad_store (q : Nat) (f : QuadMem → QuadMem) : (s.updQuad q f).store = s.store := rfl
@[simp] theorem State.updQuad_power (q : Nat) (f : QuadMem → QuadMem) : (s.updQuad q f).power = s.power := rfl
@[simp] theorem State.updQuad_sec (q : Nat) (f : QuadMem → QuadMem) : (s.updQuad q f).sec = s.sec := rfl
@[simp] theorem State.updQuad_tile (q : Nat) (f : QuadMem → QuadMem) (i : Nat) : (s.updQuad q f).tile i = s.tile i := rfl
@[simp] theorem State.updQuad_block (q : Nat) (f : QuadMem → QuadMem) (i : Nat) : (s.updQuad q f).block i = s.block i := rfl
@[simp] theorem State.updQuad_plot (q : Nat) (f : QuadMem → QuadMem) (i : Nat) : (s.updQuad q f).plot i = s.plot i := rfl
@[simp] theorem State.updQuad_box (q : Nat) (f : QuadMem → QuadMem) (i : Nat) : (s.updQuad q f).box i = s.box i := rfl
@[simp] theorem State.updQuad_engine (q : Nat) (f : QuadMem → QuadMem) (i : Nat) : (s.updQuad q f).engine i = s.engine i := rfl
@[simp] theorem State.updQuad_cistern (q : Nat) (f : QuadMem → QuadMem) (i : Nat) : (s.updQuad q f).cistern i = s.cistern i := rfl
@[simp] theorem State.updQuad_lateral (q : Nat) (f : QuadMem → QuadMem) (i : Nat) : (s.updQuad q f).lateral i = s.lateral i := rfl
@[simp] theorem State.updQuad_gatherEng (q : Nat) (f : QuadMem → QuadMem) (i : Nat) : (s.updQuad q f).gatherEng i = s.gatherEng i := rfl
@[simp] theorem State.updQuad_tableEnt (q : Nat) (f : QuadMem → QuadMem) (i : Nat) : (s.updQuad q f).tableEnt i = s.tableEnt i := rfl
@[simp] theorem State.updQuad_fport (q : Nat) (f : QuadMem → QuadMem) (i : Nat) : (s.updQuad q f).fport i = s.fport i := rfl
@[simp] theorem State.updQuad_core (q : Nat) (f : QuadMem → QuadMem) (i : Nat) : (s.updQuad q f).core i = s.core i := rfl
@[simp] theorem State.updQuad_arb (q : Nat) (f : QuadMem → QuadMem) (i : Nat) : (s.updQuad q f).arb i = s.arb i := rfl
@[simp] theorem State.updQuad_policy (q : Nat) (f : QuadMem → QuadMem) (i : Nat) : (s.updQuad q f).policy i = s.policy i := rfl
@[simp] theorem State.updQuad_ring (q : Nat) (f : QuadMem → QuadMem) (i : Nat) : (s.updQuad q f).ring i = s.ring i := rfl
@[simp] theorem State.updQuad_req (q : Nat) (f : QuadMem → QuadMem) (i : Nat) : (s.updQuad q f).req i = s.req i := rfl
@[simp] theorem State.updQuad_prefixAt (q : Nat) (f : QuadMem → QuadMem) (i : Nat) : (s.updQuad q f).prefixAt i = s.prefixAt i := rfl
@[simp] theorem State.updQuad_parcel (q : Nat) (f : QuadMem → QuadMem) (i : Nat) : (s.updQuad q f).parcel i = s.parcel i := rfl
@[simp] theorem State.updQuad_entry (q : Nat) (f : QuadMem → QuadMem) (i : Nat) : (s.updQuad q f).entry i = s.entry i := rfl
@[simp] theorem State.updQuad_modelOf (q : Nat) (f : QuadMem → QuadMem) (i : Nat) : (s.updQuad q f).modelOf i = s.modelOf i := rfl
@[simp] theorem State.updQuad_adapter (q : Nat) (f : QuadMem → QuadMem) (i : Nat) : (s.updQuad q f).adapter i = s.adapter i := rfl

/-! `tick`. -/

@[simp] theorem State.tick_pending (n : Nat) : (s.tick n).pending = s.pending := rfl
@[simp] theorem State.tick_now (n : Nat) : (s.tick n).now = s.now := rfl
@[simp] theorem State.tick_time (n : Nat) : (s.tick n).time = s.time := rfl
@[simp] theorem State.tick_mem (n : Nat) : (s.tick n).mem = s.mem := rfl
@[simp] theorem State.tick_quads (n : Nat) : (s.tick n).quads = s.quads := rfl
@[simp] theorem State.tick_tiles (n : Nat) : (s.tick n).tiles = s.tiles := rfl
@[simp] theorem State.tick_blocks (n : Nat) : (s.tick n).blocks = s.blocks := rfl
@[simp] theorem State.tick_flights (n : Nat) : (s.tick n).flights = s.flights := rfl
@[simp] theorem State.tick_mail (n : Nat) : (s.tick n).mail = s.mail := rfl
@[simp] theorem State.tick_book (n : Nat) : (s.tick n).book = s.book := rfl
@[simp] theorem State.tick_slot (n : Nat) : (s.tick n).slot = s.slot := rfl
@[simp] theorem State.tick_engines (n : Nat) : (s.tick n).engines = s.engines := rfl
@[simp] theorem State.tick_fab (n : Nat) : (s.tick n).fab = s.fab := rfl
@[simp] theorem State.tick_hic (n : Nat) : (s.tick n).hic = s.hic := rfl
@[simp] theorem State.tick_cist (n : Nat) : (s.tick n).cist = s.cist := rfl
@[simp] theorem State.tick_les (n : Nat) : (s.tick n).les = s.les := rfl
@[simp] theorem State.tick_ges (n : Nat) : (s.tick n).ges = s.ges := rfl
@[simp] theorem State.tick_tables (n : Nat) : (s.tick n).tables = s.tables := rfl
@[simp] theorem State.tick_models (n : Nat) : (s.tick n).models = s.models := rfl
@[simp] theorem State.tick_adapters (n : Nat) : (s.tick n).adapters = s.adapters := rfl
@[simp] theorem State.tick_serve (n : Nat) : (s.tick n).serve = s.serve := rfl
@[simp] theorem State.tick_parcels (n : Nat) : (s.tick n).parcels = s.parcels := rfl
@[simp] theorem State.tick_sched (n : Nat) : (s.tick n).sched = s.sched := rfl
@[simp] theorem State.tick_arbs (n : Nat) : (s.tick n).arbs = s.arbs := rfl
@[simp] theorem State.tick_cores (n : Nat) : (s.tick n).cores = s.cores := rfl
@[simp] theorem State.tick_policies (n : Nat) : (s.tick n).policies = s.policies := rfl
@[simp] theorem State.tick_store (n : Nat) : (s.tick n).store = s.store := rfl
@[simp] theorem State.tick_power (n : Nat) : (s.tick n).power = s.power := rfl
@[simp] theorem State.tick_sec (n : Nat) : (s.tick n).sec = s.sec := rfl
@[simp] theorem State.tick_tile (n : Nat) (i : Nat) : (s.tick n).tile i = s.tile i := rfl
@[simp] theorem State.tick_block (n : Nat) (i : Nat) : (s.tick n).block i = s.block i := rfl
@[simp] theorem State.tick_plot (n : Nat) (i : Nat) : (s.tick n).plot i = s.plot i := rfl
@[simp] theorem State.tick_box (n : Nat) (i : Nat) : (s.tick n).box i = s.box i := rfl
@[simp] theorem State.tick_quad (n : Nat) (i : Nat) : (s.tick n).quad i = s.quad i := rfl
@[simp] theorem State.tick_engine (n : Nat) (i : Nat) : (s.tick n).engine i = s.engine i := rfl
@[simp] theorem State.tick_cistern (n : Nat) (i : Nat) : (s.tick n).cistern i = s.cistern i := rfl
@[simp] theorem State.tick_lateral (n : Nat) (i : Nat) : (s.tick n).lateral i = s.lateral i := rfl
@[simp] theorem State.tick_gatherEng (n : Nat) (i : Nat) : (s.tick n).gatherEng i = s.gatherEng i := rfl
@[simp] theorem State.tick_tableEnt (n : Nat) (i : Nat) : (s.tick n).tableEnt i = s.tableEnt i := rfl
@[simp] theorem State.tick_fport (n : Nat) (i : Nat) : (s.tick n).fport i = s.fport i := rfl
@[simp] theorem State.tick_core (n : Nat) (i : Nat) : (s.tick n).core i = s.core i := rfl
@[simp] theorem State.tick_arb (n : Nat) (i : Nat) : (s.tick n).arb i = s.arb i := rfl
@[simp] theorem State.tick_policy (n : Nat) (i : Nat) : (s.tick n).policy i = s.policy i := rfl
@[simp] theorem State.tick_ring (n : Nat) (i : Nat) : (s.tick n).ring i = s.ring i := rfl
@[simp] theorem State.tick_req (n : Nat) (i : Nat) : (s.tick n).req i = s.req i := rfl
@[simp] theorem State.tick_prefixAt (n : Nat) (i : Nat) : (s.tick n).prefixAt i = s.prefixAt i := rfl
@[simp] theorem State.tick_parcel (n : Nat) (i : Nat) : (s.tick n).parcel i = s.parcel i := rfl
@[simp] theorem State.tick_entry (n : Nat) (i : Nat) : (s.tick n).entry i = s.entry i := rfl
@[simp] theorem State.tick_modelOf (n : Nat) (i : Nat) : (s.tick n).modelOf i = s.modelOf i := rfl
@[simp] theorem State.tick_adapter (n : Nat) (i : Nat) : (s.tick n).adapter i = s.adapter i := rfl

/-! `signal`. -/

@[simp] theorem State.signal_pending (n : Nat) : (s.signal n).pending = s.pending := rfl
@[simp] theorem State.signal_free (n : Nat) : (s.signal n).free = s.free := rfl
@[simp] theorem State.signal_now (n : Nat) : (s.signal n).now = s.now := rfl
@[simp] theorem State.signal_time (n : Nat) : (s.signal n).time = s.time := rfl
@[simp] theorem State.signal_mem (n : Nat) : (s.signal n).mem = s.mem := rfl
@[simp] theorem State.signal_quads (n : Nat) : (s.signal n).quads = s.quads := rfl
@[simp] theorem State.signal_tiles (n : Nat) : (s.signal n).tiles = s.tiles := rfl
@[simp] theorem State.signal_blocks (n : Nat) : (s.signal n).blocks = s.blocks := rfl
@[simp] theorem State.signal_flights (n : Nat) : (s.signal n).flights = s.flights := rfl
@[simp] theorem State.signal_mail (n : Nat) : (s.signal n).mail = s.mail := rfl
@[simp] theorem State.signal_book (n : Nat) : (s.signal n).book = s.book := rfl
@[simp] theorem State.signal_slot (n : Nat) : (s.signal n).slot = s.slot := rfl
@[simp] theorem State.signal_engines (n : Nat) : (s.signal n).engines = s.engines := rfl
@[simp] theorem State.signal_fab (n : Nat) : (s.signal n).fab = s.fab := rfl
@[simp] theorem State.signal_cist (n : Nat) : (s.signal n).cist = s.cist := rfl
@[simp] theorem State.signal_les (n : Nat) : (s.signal n).les = s.les := rfl
@[simp] theorem State.signal_ges (n : Nat) : (s.signal n).ges = s.ges := rfl
@[simp] theorem State.signal_tables (n : Nat) : (s.signal n).tables = s.tables := rfl
@[simp] theorem State.signal_models (n : Nat) : (s.signal n).models = s.models := rfl
@[simp] theorem State.signal_adapters (n : Nat) : (s.signal n).adapters = s.adapters := rfl
@[simp] theorem State.signal_serve (n : Nat) : (s.signal n).serve = s.serve := rfl
@[simp] theorem State.signal_parcels (n : Nat) : (s.signal n).parcels = s.parcels := rfl
@[simp] theorem State.signal_sched (n : Nat) : (s.signal n).sched = s.sched := rfl
@[simp] theorem State.signal_arbs (n : Nat) : (s.signal n).arbs = s.arbs := rfl
@[simp] theorem State.signal_cores (n : Nat) : (s.signal n).cores = s.cores := rfl
@[simp] theorem State.signal_policies (n : Nat) : (s.signal n).policies = s.policies := rfl
@[simp] theorem State.signal_store (n : Nat) : (s.signal n).store = s.store := rfl
@[simp] theorem State.signal_power (n : Nat) : (s.signal n).power = s.power := rfl
@[simp] theorem State.signal_sec (n : Nat) : (s.signal n).sec = s.sec := rfl
@[simp] theorem State.signal_tile (n : Nat) (i : Nat) : (s.signal n).tile i = s.tile i := rfl
@[simp] theorem State.signal_block (n : Nat) (i : Nat) : (s.signal n).block i = s.block i := rfl
@[simp] theorem State.signal_plot (n : Nat) (i : Nat) : (s.signal n).plot i = s.plot i := rfl
@[simp] theorem State.signal_box (n : Nat) (i : Nat) : (s.signal n).box i = s.box i := rfl
@[simp] theorem State.signal_quad (n : Nat) (i : Nat) : (s.signal n).quad i = s.quad i := rfl
@[simp] theorem State.signal_engine (n : Nat) (i : Nat) : (s.signal n).engine i = s.engine i := rfl
@[simp] theorem State.signal_cistern (n : Nat) (i : Nat) : (s.signal n).cistern i = s.cistern i := rfl
@[simp] theorem State.signal_lateral (n : Nat) (i : Nat) : (s.signal n).lateral i = s.lateral i := rfl
@[simp] theorem State.signal_gatherEng (n : Nat) (i : Nat) : (s.signal n).gatherEng i = s.gatherEng i := rfl
@[simp] theorem State.signal_tableEnt (n : Nat) (i : Nat) : (s.signal n).tableEnt i = s.tableEnt i := rfl
@[simp] theorem State.signal_fport (n : Nat) (i : Nat) : (s.signal n).fport i = s.fport i := rfl
@[simp] theorem State.signal_core (n : Nat) (i : Nat) : (s.signal n).core i = s.core i := rfl
@[simp] theorem State.signal_arb (n : Nat) (i : Nat) : (s.signal n).arb i = s.arb i := rfl
@[simp] theorem State.signal_policy (n : Nat) (i : Nat) : (s.signal n).policy i = s.policy i := rfl
@[simp] theorem State.signal_ring (n : Nat) (i : Nat) : (s.signal n).ring i = s.ring i := rfl
@[simp] theorem State.signal_req (n : Nat) (i : Nat) : (s.signal n).req i = s.req i := rfl
@[simp] theorem State.signal_prefixAt (n : Nat) (i : Nat) : (s.signal n).prefixAt i = s.prefixAt i := rfl
@[simp] theorem State.signal_parcel (n : Nat) (i : Nat) : (s.signal n).parcel i = s.parcel i := rfl
@[simp] theorem State.signal_entry (n : Nat) (i : Nat) : (s.signal n).entry i = s.entry i := rfl
@[simp] theorem State.signal_modelOf (n : Nat) (i : Nat) : (s.signal n).modelOf i = s.modelOf i := rfl
@[simp] theorem State.signal_adapter (n : Nat) (i : Nat) : (s.signal n).adapter i = s.adapter i := rfl

/-! `updEngine`. -/

@[simp] theorem State.updEngine_pending (e : Nat) (f : Engine → Engine) : (s.updEngine e f).pending = s.pending := rfl
@[simp] theorem State.updEngine_free (e : Nat) (f : Engine → Engine) : (s.updEngine e f).free = s.free := rfl
@[simp] theorem State.updEngine_now (e : Nat) (f : Engine → Engine) : (s.updEngine e f).now = s.now := rfl
@[simp] theorem State.updEngine_time (e : Nat) (f : Engine → Engine) : (s.updEngine e f).time = s.time := rfl
@[simp] theorem State.updEngine_mem (e : Nat) (f : Engine → Engine) : (s.updEngine e f).mem = s.mem := rfl
@[simp] theorem State.updEngine_quads (e : Nat) (f : Engine → Engine) : (s.updEngine e f).quads = s.quads := rfl
@[simp] theorem State.updEngine_tiles (e : Nat) (f : Engine → Engine) : (s.updEngine e f).tiles = s.tiles := rfl
@[simp] theorem State.updEngine_blocks (e : Nat) (f : Engine → Engine) : (s.updEngine e f).blocks = s.blocks := rfl
@[simp] theorem State.updEngine_flights (e : Nat) (f : Engine → Engine) : (s.updEngine e f).flights = s.flights := rfl
@[simp] theorem State.updEngine_mail (e : Nat) (f : Engine → Engine) : (s.updEngine e f).mail = s.mail := rfl
@[simp] theorem State.updEngine_book (e : Nat) (f : Engine → Engine) : (s.updEngine e f).book = s.book := rfl
@[simp] theorem State.updEngine_slot (e : Nat) (f : Engine → Engine) : (s.updEngine e f).slot = s.slot := rfl
@[simp] theorem State.updEngine_fab (e : Nat) (f : Engine → Engine) : (s.updEngine e f).fab = s.fab := rfl
@[simp] theorem State.updEngine_hic (e : Nat) (f : Engine → Engine) : (s.updEngine e f).hic = s.hic := rfl
@[simp] theorem State.updEngine_cist (e : Nat) (f : Engine → Engine) : (s.updEngine e f).cist = s.cist := rfl
@[simp] theorem State.updEngine_les (e : Nat) (f : Engine → Engine) : (s.updEngine e f).les = s.les := rfl
@[simp] theorem State.updEngine_ges (e : Nat) (f : Engine → Engine) : (s.updEngine e f).ges = s.ges := rfl
@[simp] theorem State.updEngine_tables (e : Nat) (f : Engine → Engine) : (s.updEngine e f).tables = s.tables := rfl
@[simp] theorem State.updEngine_models (e : Nat) (f : Engine → Engine) : (s.updEngine e f).models = s.models := rfl
@[simp] theorem State.updEngine_adapters (e : Nat) (f : Engine → Engine) : (s.updEngine e f).adapters = s.adapters := rfl
@[simp] theorem State.updEngine_serve (e : Nat) (f : Engine → Engine) : (s.updEngine e f).serve = s.serve := rfl
@[simp] theorem State.updEngine_parcels (e : Nat) (f : Engine → Engine) : (s.updEngine e f).parcels = s.parcels := rfl
@[simp] theorem State.updEngine_sched (e : Nat) (f : Engine → Engine) : (s.updEngine e f).sched = s.sched := rfl
@[simp] theorem State.updEngine_arbs (e : Nat) (f : Engine → Engine) : (s.updEngine e f).arbs = s.arbs := rfl
@[simp] theorem State.updEngine_cores (e : Nat) (f : Engine → Engine) : (s.updEngine e f).cores = s.cores := rfl
@[simp] theorem State.updEngine_policies (e : Nat) (f : Engine → Engine) : (s.updEngine e f).policies = s.policies := rfl
@[simp] theorem State.updEngine_store (e : Nat) (f : Engine → Engine) : (s.updEngine e f).store = s.store := rfl
@[simp] theorem State.updEngine_power (e : Nat) (f : Engine → Engine) : (s.updEngine e f).power = s.power := rfl
@[simp] theorem State.updEngine_sec (e : Nat) (f : Engine → Engine) : (s.updEngine e f).sec = s.sec := rfl
@[simp] theorem State.updEngine_tile (e : Nat) (f : Engine → Engine) (i : Nat) : (s.updEngine e f).tile i = s.tile i := rfl
@[simp] theorem State.updEngine_block (e : Nat) (f : Engine → Engine) (i : Nat) : (s.updEngine e f).block i = s.block i := rfl
@[simp] theorem State.updEngine_plot (e : Nat) (f : Engine → Engine) (i : Nat) : (s.updEngine e f).plot i = s.plot i := rfl
@[simp] theorem State.updEngine_box (e : Nat) (f : Engine → Engine) (i : Nat) : (s.updEngine e f).box i = s.box i := rfl
@[simp] theorem State.updEngine_quad (e : Nat) (f : Engine → Engine) (i : Nat) : (s.updEngine e f).quad i = s.quad i := rfl
@[simp] theorem State.updEngine_cistern (e : Nat) (f : Engine → Engine) (i : Nat) : (s.updEngine e f).cistern i = s.cistern i := rfl
@[simp] theorem State.updEngine_lateral (e : Nat) (f : Engine → Engine) (i : Nat) : (s.updEngine e f).lateral i = s.lateral i := rfl
@[simp] theorem State.updEngine_gatherEng (e : Nat) (f : Engine → Engine) (i : Nat) : (s.updEngine e f).gatherEng i = s.gatherEng i := rfl
@[simp] theorem State.updEngine_tableEnt (e : Nat) (f : Engine → Engine) (i : Nat) : (s.updEngine e f).tableEnt i = s.tableEnt i := rfl
@[simp] theorem State.updEngine_fport (e : Nat) (f : Engine → Engine) (i : Nat) : (s.updEngine e f).fport i = s.fport i := rfl
@[simp] theorem State.updEngine_core (e : Nat) (f : Engine → Engine) (i : Nat) : (s.updEngine e f).core i = s.core i := rfl
@[simp] theorem State.updEngine_arb (e : Nat) (f : Engine → Engine) (i : Nat) : (s.updEngine e f).arb i = s.arb i := rfl
@[simp] theorem State.updEngine_policy (e : Nat) (f : Engine → Engine) (i : Nat) : (s.updEngine e f).policy i = s.policy i := rfl
@[simp] theorem State.updEngine_ring (e : Nat) (f : Engine → Engine) (i : Nat) : (s.updEngine e f).ring i = s.ring i := rfl
@[simp] theorem State.updEngine_req (e : Nat) (f : Engine → Engine) (i : Nat) : (s.updEngine e f).req i = s.req i := rfl
@[simp] theorem State.updEngine_prefixAt (e : Nat) (f : Engine → Engine) (i : Nat) : (s.updEngine e f).prefixAt i = s.prefixAt i := rfl
@[simp] theorem State.updEngine_parcel (e : Nat) (f : Engine → Engine) (i : Nat) : (s.updEngine e f).parcel i = s.parcel i := rfl
@[simp] theorem State.updEngine_entry (e : Nat) (f : Engine → Engine) (i : Nat) : (s.updEngine e f).entry i = s.entry i := rfl
@[simp] theorem State.updEngine_modelOf (e : Nat) (f : Engine → Engine) (i : Nat) : (s.updEngine e f).modelOf i = s.modelOf i := rfl
@[simp] theorem State.updEngine_adapter (e : Nat) (f : Engine → Engine) (i : Nat) : (s.updEngine e f).adapter i = s.adapter i := rfl

/-! `updCist`. -/

@[simp] theorem State.updCist_pending (q : Nat) (f : Cistern → Cistern) : (s.updCist q f).pending = s.pending := rfl
@[simp] theorem State.updCist_free (q : Nat) (f : Cistern → Cistern) : (s.updCist q f).free = s.free := rfl
@[simp] theorem State.updCist_now (q : Nat) (f : Cistern → Cistern) : (s.updCist q f).now = s.now := rfl
@[simp] theorem State.updCist_time (q : Nat) (f : Cistern → Cistern) : (s.updCist q f).time = s.time := rfl
@[simp] theorem State.updCist_quads (q : Nat) (f : Cistern → Cistern) : (s.updCist q f).quads = s.quads := rfl
@[simp] theorem State.updCist_tiles (q : Nat) (f : Cistern → Cistern) : (s.updCist q f).tiles = s.tiles := rfl
@[simp] theorem State.updCist_blocks (q : Nat) (f : Cistern → Cistern) : (s.updCist q f).blocks = s.blocks := rfl
@[simp] theorem State.updCist_flights (q : Nat) (f : Cistern → Cistern) : (s.updCist q f).flights = s.flights := rfl
@[simp] theorem State.updCist_mail (q : Nat) (f : Cistern → Cistern) : (s.updCist q f).mail = s.mail := rfl
@[simp] theorem State.updCist_book (q : Nat) (f : Cistern → Cistern) : (s.updCist q f).book = s.book := rfl
@[simp] theorem State.updCist_slot (q : Nat) (f : Cistern → Cistern) : (s.updCist q f).slot = s.slot := rfl
@[simp] theorem State.updCist_engines (q : Nat) (f : Cistern → Cistern) : (s.updCist q f).engines = s.engines := rfl
@[simp] theorem State.updCist_fab (q : Nat) (f : Cistern → Cistern) : (s.updCist q f).fab = s.fab := rfl
@[simp] theorem State.updCist_hic (q : Nat) (f : Cistern → Cistern) : (s.updCist q f).hic = s.hic := rfl
@[simp] theorem State.updCist_les (q : Nat) (f : Cistern → Cistern) : (s.updCist q f).les = s.les := rfl
@[simp] theorem State.updCist_ges (q : Nat) (f : Cistern → Cistern) : (s.updCist q f).ges = s.ges := rfl
@[simp] theorem State.updCist_tables (q : Nat) (f : Cistern → Cistern) : (s.updCist q f).tables = s.tables := rfl
@[simp] theorem State.updCist_models (q : Nat) (f : Cistern → Cistern) : (s.updCist q f).models = s.models := rfl
@[simp] theorem State.updCist_adapters (q : Nat) (f : Cistern → Cistern) : (s.updCist q f).adapters = s.adapters := rfl
@[simp] theorem State.updCist_serve (q : Nat) (f : Cistern → Cistern) : (s.updCist q f).serve = s.serve := rfl
@[simp] theorem State.updCist_parcels (q : Nat) (f : Cistern → Cistern) : (s.updCist q f).parcels = s.parcels := rfl
@[simp] theorem State.updCist_sched (q : Nat) (f : Cistern → Cistern) : (s.updCist q f).sched = s.sched := rfl
@[simp] theorem State.updCist_arbs (q : Nat) (f : Cistern → Cistern) : (s.updCist q f).arbs = s.arbs := rfl
@[simp] theorem State.updCist_cores (q : Nat) (f : Cistern → Cistern) : (s.updCist q f).cores = s.cores := rfl
@[simp] theorem State.updCist_policies (q : Nat) (f : Cistern → Cistern) : (s.updCist q f).policies = s.policies := rfl
@[simp] theorem State.updCist_store (q : Nat) (f : Cistern → Cistern) : (s.updCist q f).store = s.store := rfl
@[simp] theorem State.updCist_power (q : Nat) (f : Cistern → Cistern) : (s.updCist q f).power = s.power := rfl
@[simp] theorem State.updCist_sec (q : Nat) (f : Cistern → Cistern) : (s.updCist q f).sec = s.sec := rfl
@[simp] theorem State.updCist_tile (q : Nat) (f : Cistern → Cistern) (i : Nat) : (s.updCist q f).tile i = s.tile i := rfl
@[simp] theorem State.updCist_block (q : Nat) (f : Cistern → Cistern) (i : Nat) : (s.updCist q f).block i = s.block i := rfl
@[simp] theorem State.updCist_plot (q : Nat) (f : Cistern → Cistern) (i : Nat) : (s.updCist q f).plot i = s.plot i := rfl
@[simp] theorem State.updCist_box (q : Nat) (f : Cistern → Cistern) (i : Nat) : (s.updCist q f).box i = s.box i := rfl
@[simp] theorem State.updCist_quad (q : Nat) (f : Cistern → Cistern) (i : Nat) : (s.updCist q f).quad i = s.quad i := rfl
@[simp] theorem State.updCist_engine (q : Nat) (f : Cistern → Cistern) (i : Nat) : (s.updCist q f).engine i = s.engine i := rfl
@[simp] theorem State.updCist_lateral (q : Nat) (f : Cistern → Cistern) (i : Nat) : (s.updCist q f).lateral i = s.lateral i := rfl
@[simp] theorem State.updCist_gatherEng (q : Nat) (f : Cistern → Cistern) (i : Nat) : (s.updCist q f).gatherEng i = s.gatherEng i := rfl
@[simp] theorem State.updCist_tableEnt (q : Nat) (f : Cistern → Cistern) (i : Nat) : (s.updCist q f).tableEnt i = s.tableEnt i := rfl
@[simp] theorem State.updCist_fport (q : Nat) (f : Cistern → Cistern) (i : Nat) : (s.updCist q f).fport i = s.fport i := rfl
@[simp] theorem State.updCist_core (q : Nat) (f : Cistern → Cistern) (i : Nat) : (s.updCist q f).core i = s.core i := rfl
@[simp] theorem State.updCist_arb (q : Nat) (f : Cistern → Cistern) (i : Nat) : (s.updCist q f).arb i = s.arb i := rfl
@[simp] theorem State.updCist_policy (q : Nat) (f : Cistern → Cistern) (i : Nat) : (s.updCist q f).policy i = s.policy i := rfl
@[simp] theorem State.updCist_ring (q : Nat) (f : Cistern → Cistern) (i : Nat) : (s.updCist q f).ring i = s.ring i := rfl
@[simp] theorem State.updCist_req (q : Nat) (f : Cistern → Cistern) (i : Nat) : (s.updCist q f).req i = s.req i := rfl
@[simp] theorem State.updCist_prefixAt (q : Nat) (f : Cistern → Cistern) (i : Nat) : (s.updCist q f).prefixAt i = s.prefixAt i := rfl
@[simp] theorem State.updCist_parcel (q : Nat) (f : Cistern → Cistern) (i : Nat) : (s.updCist q f).parcel i = s.parcel i := rfl
@[simp] theorem State.updCist_entry (q : Nat) (f : Cistern → Cistern) (i : Nat) : (s.updCist q f).entry i = s.entry i := rfl
@[simp] theorem State.updCist_modelOf (q : Nat) (f : Cistern → Cistern) (i : Nat) : (s.updCist q f).modelOf i = s.modelOf i := rfl
@[simp] theorem State.updCist_adapter (q : Nat) (f : Cistern → Cistern) (i : Nat) : (s.updCist q f).adapter i = s.adapter i := rfl

/-! `updLe`. -/

@[simp] theorem State.updLe_pending (e : Nat) (f : Lateral → Lateral) : (s.updLe e f).pending = s.pending := rfl
@[simp] theorem State.updLe_free (e : Nat) (f : Lateral → Lateral) : (s.updLe e f).free = s.free := rfl
@[simp] theorem State.updLe_now (e : Nat) (f : Lateral → Lateral) : (s.updLe e f).now = s.now := rfl
@[simp] theorem State.updLe_time (e : Nat) (f : Lateral → Lateral) : (s.updLe e f).time = s.time := rfl
@[simp] theorem State.updLe_mem (e : Nat) (f : Lateral → Lateral) : (s.updLe e f).mem = s.mem := rfl
@[simp] theorem State.updLe_quads (e : Nat) (f : Lateral → Lateral) : (s.updLe e f).quads = s.quads := rfl
@[simp] theorem State.updLe_tiles (e : Nat) (f : Lateral → Lateral) : (s.updLe e f).tiles = s.tiles := rfl
@[simp] theorem State.updLe_blocks (e : Nat) (f : Lateral → Lateral) : (s.updLe e f).blocks = s.blocks := rfl
@[simp] theorem State.updLe_flights (e : Nat) (f : Lateral → Lateral) : (s.updLe e f).flights = s.flights := rfl
@[simp] theorem State.updLe_mail (e : Nat) (f : Lateral → Lateral) : (s.updLe e f).mail = s.mail := rfl
@[simp] theorem State.updLe_book (e : Nat) (f : Lateral → Lateral) : (s.updLe e f).book = s.book := rfl
@[simp] theorem State.updLe_slot (e : Nat) (f : Lateral → Lateral) : (s.updLe e f).slot = s.slot := rfl
@[simp] theorem State.updLe_engines (e : Nat) (f : Lateral → Lateral) : (s.updLe e f).engines = s.engines := rfl
@[simp] theorem State.updLe_fab (e : Nat) (f : Lateral → Lateral) : (s.updLe e f).fab = s.fab := rfl
@[simp] theorem State.updLe_hic (e : Nat) (f : Lateral → Lateral) : (s.updLe e f).hic = s.hic := rfl
@[simp] theorem State.updLe_cist (e : Nat) (f : Lateral → Lateral) : (s.updLe e f).cist = s.cist := rfl
@[simp] theorem State.updLe_ges (e : Nat) (f : Lateral → Lateral) : (s.updLe e f).ges = s.ges := rfl
@[simp] theorem State.updLe_tables (e : Nat) (f : Lateral → Lateral) : (s.updLe e f).tables = s.tables := rfl
@[simp] theorem State.updLe_models (e : Nat) (f : Lateral → Lateral) : (s.updLe e f).models = s.models := rfl
@[simp] theorem State.updLe_adapters (e : Nat) (f : Lateral → Lateral) : (s.updLe e f).adapters = s.adapters := rfl
@[simp] theorem State.updLe_serve (e : Nat) (f : Lateral → Lateral) : (s.updLe e f).serve = s.serve := rfl
@[simp] theorem State.updLe_parcels (e : Nat) (f : Lateral → Lateral) : (s.updLe e f).parcels = s.parcels := rfl
@[simp] theorem State.updLe_sched (e : Nat) (f : Lateral → Lateral) : (s.updLe e f).sched = s.sched := rfl
@[simp] theorem State.updLe_arbs (e : Nat) (f : Lateral → Lateral) : (s.updLe e f).arbs = s.arbs := rfl
@[simp] theorem State.updLe_cores (e : Nat) (f : Lateral → Lateral) : (s.updLe e f).cores = s.cores := rfl
@[simp] theorem State.updLe_policies (e : Nat) (f : Lateral → Lateral) : (s.updLe e f).policies = s.policies := rfl
@[simp] theorem State.updLe_store (e : Nat) (f : Lateral → Lateral) : (s.updLe e f).store = s.store := rfl
@[simp] theorem State.updLe_power (e : Nat) (f : Lateral → Lateral) : (s.updLe e f).power = s.power := rfl
@[simp] theorem State.updLe_sec (e : Nat) (f : Lateral → Lateral) : (s.updLe e f).sec = s.sec := rfl
@[simp] theorem State.updLe_tile (e : Nat) (f : Lateral → Lateral) (i : Nat) : (s.updLe e f).tile i = s.tile i := rfl
@[simp] theorem State.updLe_block (e : Nat) (f : Lateral → Lateral) (i : Nat) : (s.updLe e f).block i = s.block i := rfl
@[simp] theorem State.updLe_plot (e : Nat) (f : Lateral → Lateral) (i : Nat) : (s.updLe e f).plot i = s.plot i := rfl
@[simp] theorem State.updLe_box (e : Nat) (f : Lateral → Lateral) (i : Nat) : (s.updLe e f).box i = s.box i := rfl
@[simp] theorem State.updLe_quad (e : Nat) (f : Lateral → Lateral) (i : Nat) : (s.updLe e f).quad i = s.quad i := rfl
@[simp] theorem State.updLe_engine (e : Nat) (f : Lateral → Lateral) (i : Nat) : (s.updLe e f).engine i = s.engine i := rfl
@[simp] theorem State.updLe_cistern (e : Nat) (f : Lateral → Lateral) (i : Nat) : (s.updLe e f).cistern i = s.cistern i := rfl
@[simp] theorem State.updLe_gatherEng (e : Nat) (f : Lateral → Lateral) (i : Nat) : (s.updLe e f).gatherEng i = s.gatherEng i := rfl
@[simp] theorem State.updLe_tableEnt (e : Nat) (f : Lateral → Lateral) (i : Nat) : (s.updLe e f).tableEnt i = s.tableEnt i := rfl
@[simp] theorem State.updLe_fport (e : Nat) (f : Lateral → Lateral) (i : Nat) : (s.updLe e f).fport i = s.fport i := rfl
@[simp] theorem State.updLe_core (e : Nat) (f : Lateral → Lateral) (i : Nat) : (s.updLe e f).core i = s.core i := rfl
@[simp] theorem State.updLe_arb (e : Nat) (f : Lateral → Lateral) (i : Nat) : (s.updLe e f).arb i = s.arb i := rfl
@[simp] theorem State.updLe_policy (e : Nat) (f : Lateral → Lateral) (i : Nat) : (s.updLe e f).policy i = s.policy i := rfl
@[simp] theorem State.updLe_ring (e : Nat) (f : Lateral → Lateral) (i : Nat) : (s.updLe e f).ring i = s.ring i := rfl
@[simp] theorem State.updLe_req (e : Nat) (f : Lateral → Lateral) (i : Nat) : (s.updLe e f).req i = s.req i := rfl
@[simp] theorem State.updLe_prefixAt (e : Nat) (f : Lateral → Lateral) (i : Nat) : (s.updLe e f).prefixAt i = s.prefixAt i := rfl
@[simp] theorem State.updLe_parcel (e : Nat) (f : Lateral → Lateral) (i : Nat) : (s.updLe e f).parcel i = s.parcel i := rfl
@[simp] theorem State.updLe_entry (e : Nat) (f : Lateral → Lateral) (i : Nat) : (s.updLe e f).entry i = s.entry i := rfl
@[simp] theorem State.updLe_modelOf (e : Nat) (f : Lateral → Lateral) (i : Nat) : (s.updLe e f).modelOf i = s.modelOf i := rfl
@[simp] theorem State.updLe_adapter (e : Nat) (f : Lateral → Lateral) (i : Nat) : (s.updLe e f).adapter i = s.adapter i := rfl

/-! `updGe`. -/

@[simp] theorem State.updGe_pending (g : Nat) (f : GatherEng → GatherEng) : (s.updGe g f).pending = s.pending := rfl
@[simp] theorem State.updGe_free (g : Nat) (f : GatherEng → GatherEng) : (s.updGe g f).free = s.free := rfl
@[simp] theorem State.updGe_now (g : Nat) (f : GatherEng → GatherEng) : (s.updGe g f).now = s.now := rfl
@[simp] theorem State.updGe_time (g : Nat) (f : GatherEng → GatherEng) : (s.updGe g f).time = s.time := rfl
@[simp] theorem State.updGe_mem (g : Nat) (f : GatherEng → GatherEng) : (s.updGe g f).mem = s.mem := rfl
@[simp] theorem State.updGe_quads (g : Nat) (f : GatherEng → GatherEng) : (s.updGe g f).quads = s.quads := rfl
@[simp] theorem State.updGe_tiles (g : Nat) (f : GatherEng → GatherEng) : (s.updGe g f).tiles = s.tiles := rfl
@[simp] theorem State.updGe_blocks (g : Nat) (f : GatherEng → GatherEng) : (s.updGe g f).blocks = s.blocks := rfl
@[simp] theorem State.updGe_flights (g : Nat) (f : GatherEng → GatherEng) : (s.updGe g f).flights = s.flights := rfl
@[simp] theorem State.updGe_mail (g : Nat) (f : GatherEng → GatherEng) : (s.updGe g f).mail = s.mail := rfl
@[simp] theorem State.updGe_book (g : Nat) (f : GatherEng → GatherEng) : (s.updGe g f).book = s.book := rfl
@[simp] theorem State.updGe_slot (g : Nat) (f : GatherEng → GatherEng) : (s.updGe g f).slot = s.slot := rfl
@[simp] theorem State.updGe_engines (g : Nat) (f : GatherEng → GatherEng) : (s.updGe g f).engines = s.engines := rfl
@[simp] theorem State.updGe_fab (g : Nat) (f : GatherEng → GatherEng) : (s.updGe g f).fab = s.fab := rfl
@[simp] theorem State.updGe_hic (g : Nat) (f : GatherEng → GatherEng) : (s.updGe g f).hic = s.hic := rfl
@[simp] theorem State.updGe_cist (g : Nat) (f : GatherEng → GatherEng) : (s.updGe g f).cist = s.cist := rfl
@[simp] theorem State.updGe_les (g : Nat) (f : GatherEng → GatherEng) : (s.updGe g f).les = s.les := rfl
@[simp] theorem State.updGe_tables (g : Nat) (f : GatherEng → GatherEng) : (s.updGe g f).tables = s.tables := rfl
@[simp] theorem State.updGe_models (g : Nat) (f : GatherEng → GatherEng) : (s.updGe g f).models = s.models := rfl
@[simp] theorem State.updGe_adapters (g : Nat) (f : GatherEng → GatherEng) : (s.updGe g f).adapters = s.adapters := rfl
@[simp] theorem State.updGe_serve (g : Nat) (f : GatherEng → GatherEng) : (s.updGe g f).serve = s.serve := rfl
@[simp] theorem State.updGe_parcels (g : Nat) (f : GatherEng → GatherEng) : (s.updGe g f).parcels = s.parcels := rfl
@[simp] theorem State.updGe_sched (g : Nat) (f : GatherEng → GatherEng) : (s.updGe g f).sched = s.sched := rfl
@[simp] theorem State.updGe_arbs (g : Nat) (f : GatherEng → GatherEng) : (s.updGe g f).arbs = s.arbs := rfl
@[simp] theorem State.updGe_cores (g : Nat) (f : GatherEng → GatherEng) : (s.updGe g f).cores = s.cores := rfl
@[simp] theorem State.updGe_policies (g : Nat) (f : GatherEng → GatherEng) : (s.updGe g f).policies = s.policies := rfl
@[simp] theorem State.updGe_store (g : Nat) (f : GatherEng → GatherEng) : (s.updGe g f).store = s.store := rfl
@[simp] theorem State.updGe_power (g : Nat) (f : GatherEng → GatherEng) : (s.updGe g f).power = s.power := rfl
@[simp] theorem State.updGe_sec (g : Nat) (f : GatherEng → GatherEng) : (s.updGe g f).sec = s.sec := rfl
@[simp] theorem State.updGe_tile (g : Nat) (f : GatherEng → GatherEng) (i : Nat) : (s.updGe g f).tile i = s.tile i := rfl
@[simp] theorem State.updGe_block (g : Nat) (f : GatherEng → GatherEng) (i : Nat) : (s.updGe g f).block i = s.block i := rfl
@[simp] theorem State.updGe_plot (g : Nat) (f : GatherEng → GatherEng) (i : Nat) : (s.updGe g f).plot i = s.plot i := rfl
@[simp] theorem State.updGe_box (g : Nat) (f : GatherEng → GatherEng) (i : Nat) : (s.updGe g f).box i = s.box i := rfl
@[simp] theorem State.updGe_quad (g : Nat) (f : GatherEng → GatherEng) (i : Nat) : (s.updGe g f).quad i = s.quad i := rfl
@[simp] theorem State.updGe_engine (g : Nat) (f : GatherEng → GatherEng) (i : Nat) : (s.updGe g f).engine i = s.engine i := rfl
@[simp] theorem State.updGe_cistern (g : Nat) (f : GatherEng → GatherEng) (i : Nat) : (s.updGe g f).cistern i = s.cistern i := rfl
@[simp] theorem State.updGe_lateral (g : Nat) (f : GatherEng → GatherEng) (i : Nat) : (s.updGe g f).lateral i = s.lateral i := rfl
@[simp] theorem State.updGe_tableEnt (g : Nat) (f : GatherEng → GatherEng) (i : Nat) : (s.updGe g f).tableEnt i = s.tableEnt i := rfl
@[simp] theorem State.updGe_fport (g : Nat) (f : GatherEng → GatherEng) (i : Nat) : (s.updGe g f).fport i = s.fport i := rfl
@[simp] theorem State.updGe_core (g : Nat) (f : GatherEng → GatherEng) (i : Nat) : (s.updGe g f).core i = s.core i := rfl
@[simp] theorem State.updGe_arb (g : Nat) (f : GatherEng → GatherEng) (i : Nat) : (s.updGe g f).arb i = s.arb i := rfl
@[simp] theorem State.updGe_policy (g : Nat) (f : GatherEng → GatherEng) (i : Nat) : (s.updGe g f).policy i = s.policy i := rfl
@[simp] theorem State.updGe_ring (g : Nat) (f : GatherEng → GatherEng) (i : Nat) : (s.updGe g f).ring i = s.ring i := rfl
@[simp] theorem State.updGe_req (g : Nat) (f : GatherEng → GatherEng) (i : Nat) : (s.updGe g f).req i = s.req i := rfl
@[simp] theorem State.updGe_prefixAt (g : Nat) (f : GatherEng → GatherEng) (i : Nat) : (s.updGe g f).prefixAt i = s.prefixAt i := rfl
@[simp] theorem State.updGe_parcel (g : Nat) (f : GatherEng → GatherEng) (i : Nat) : (s.updGe g f).parcel i = s.parcel i := rfl
@[simp] theorem State.updGe_entry (g : Nat) (f : GatherEng → GatherEng) (i : Nat) : (s.updGe g f).entry i = s.entry i := rfl
@[simp] theorem State.updGe_modelOf (g : Nat) (f : GatherEng → GatherEng) (i : Nat) : (s.updGe g f).modelOf i = s.modelOf i := rfl
@[simp] theorem State.updGe_adapter (g : Nat) (f : GatherEng → GatherEng) (i : Nat) : (s.updGe g f).adapter i = s.adapter i := rfl

/-! `updTableEnt`. -/

@[simp] theorem State.updTableEnt_pending (k : Nat) (f : TableEnt → TableEnt) : (s.updTableEnt k f).pending = s.pending := rfl
@[simp] theorem State.updTableEnt_free (k : Nat) (f : TableEnt → TableEnt) : (s.updTableEnt k f).free = s.free := rfl
@[simp] theorem State.updTableEnt_now (k : Nat) (f : TableEnt → TableEnt) : (s.updTableEnt k f).now = s.now := rfl
@[simp] theorem State.updTableEnt_time (k : Nat) (f : TableEnt → TableEnt) : (s.updTableEnt k f).time = s.time := rfl
@[simp] theorem State.updTableEnt_mem (k : Nat) (f : TableEnt → TableEnt) : (s.updTableEnt k f).mem = s.mem := rfl
@[simp] theorem State.updTableEnt_quads (k : Nat) (f : TableEnt → TableEnt) : (s.updTableEnt k f).quads = s.quads := rfl
@[simp] theorem State.updTableEnt_tiles (k : Nat) (f : TableEnt → TableEnt) : (s.updTableEnt k f).tiles = s.tiles := rfl
@[simp] theorem State.updTableEnt_blocks (k : Nat) (f : TableEnt → TableEnt) : (s.updTableEnt k f).blocks = s.blocks := rfl
@[simp] theorem State.updTableEnt_flights (k : Nat) (f : TableEnt → TableEnt) : (s.updTableEnt k f).flights = s.flights := rfl
@[simp] theorem State.updTableEnt_mail (k : Nat) (f : TableEnt → TableEnt) : (s.updTableEnt k f).mail = s.mail := rfl
@[simp] theorem State.updTableEnt_book (k : Nat) (f : TableEnt → TableEnt) : (s.updTableEnt k f).book = s.book := rfl
@[simp] theorem State.updTableEnt_slot (k : Nat) (f : TableEnt → TableEnt) : (s.updTableEnt k f).slot = s.slot := rfl
@[simp] theorem State.updTableEnt_engines (k : Nat) (f : TableEnt → TableEnt) : (s.updTableEnt k f).engines = s.engines := rfl
@[simp] theorem State.updTableEnt_fab (k : Nat) (f : TableEnt → TableEnt) : (s.updTableEnt k f).fab = s.fab := rfl
@[simp] theorem State.updTableEnt_hic (k : Nat) (f : TableEnt → TableEnt) : (s.updTableEnt k f).hic = s.hic := rfl
@[simp] theorem State.updTableEnt_cist (k : Nat) (f : TableEnt → TableEnt) : (s.updTableEnt k f).cist = s.cist := rfl
@[simp] theorem State.updTableEnt_les (k : Nat) (f : TableEnt → TableEnt) : (s.updTableEnt k f).les = s.les := rfl
@[simp] theorem State.updTableEnt_ges (k : Nat) (f : TableEnt → TableEnt) : (s.updTableEnt k f).ges = s.ges := rfl
@[simp] theorem State.updTableEnt_models (k : Nat) (f : TableEnt → TableEnt) : (s.updTableEnt k f).models = s.models := rfl
@[simp] theorem State.updTableEnt_adapters (k : Nat) (f : TableEnt → TableEnt) : (s.updTableEnt k f).adapters = s.adapters := rfl
@[simp] theorem State.updTableEnt_serve (k : Nat) (f : TableEnt → TableEnt) : (s.updTableEnt k f).serve = s.serve := rfl
@[simp] theorem State.updTableEnt_parcels (k : Nat) (f : TableEnt → TableEnt) : (s.updTableEnt k f).parcels = s.parcels := rfl
@[simp] theorem State.updTableEnt_sched (k : Nat) (f : TableEnt → TableEnt) : (s.updTableEnt k f).sched = s.sched := rfl
@[simp] theorem State.updTableEnt_arbs (k : Nat) (f : TableEnt → TableEnt) : (s.updTableEnt k f).arbs = s.arbs := rfl
@[simp] theorem State.updTableEnt_cores (k : Nat) (f : TableEnt → TableEnt) : (s.updTableEnt k f).cores = s.cores := rfl
@[simp] theorem State.updTableEnt_policies (k : Nat) (f : TableEnt → TableEnt) : (s.updTableEnt k f).policies = s.policies := rfl
@[simp] theorem State.updTableEnt_store (k : Nat) (f : TableEnt → TableEnt) : (s.updTableEnt k f).store = s.store := rfl
@[simp] theorem State.updTableEnt_power (k : Nat) (f : TableEnt → TableEnt) : (s.updTableEnt k f).power = s.power := rfl
@[simp] theorem State.updTableEnt_sec (k : Nat) (f : TableEnt → TableEnt) : (s.updTableEnt k f).sec = s.sec := rfl
@[simp] theorem State.updTableEnt_tile (k : Nat) (f : TableEnt → TableEnt) (i : Nat) : (s.updTableEnt k f).tile i = s.tile i := rfl
@[simp] theorem State.updTableEnt_block (k : Nat) (f : TableEnt → TableEnt) (i : Nat) : (s.updTableEnt k f).block i = s.block i := rfl
@[simp] theorem State.updTableEnt_plot (k : Nat) (f : TableEnt → TableEnt) (i : Nat) : (s.updTableEnt k f).plot i = s.plot i := rfl
@[simp] theorem State.updTableEnt_box (k : Nat) (f : TableEnt → TableEnt) (i : Nat) : (s.updTableEnt k f).box i = s.box i := rfl
@[simp] theorem State.updTableEnt_quad (k : Nat) (f : TableEnt → TableEnt) (i : Nat) : (s.updTableEnt k f).quad i = s.quad i := rfl
@[simp] theorem State.updTableEnt_engine (k : Nat) (f : TableEnt → TableEnt) (i : Nat) : (s.updTableEnt k f).engine i = s.engine i := rfl
@[simp] theorem State.updTableEnt_cistern (k : Nat) (f : TableEnt → TableEnt) (i : Nat) : (s.updTableEnt k f).cistern i = s.cistern i := rfl
@[simp] theorem State.updTableEnt_lateral (k : Nat) (f : TableEnt → TableEnt) (i : Nat) : (s.updTableEnt k f).lateral i = s.lateral i := rfl
@[simp] theorem State.updTableEnt_gatherEng (k : Nat) (f : TableEnt → TableEnt) (i : Nat) : (s.updTableEnt k f).gatherEng i = s.gatherEng i := rfl
@[simp] theorem State.updTableEnt_fport (k : Nat) (f : TableEnt → TableEnt) (i : Nat) : (s.updTableEnt k f).fport i = s.fport i := rfl
@[simp] theorem State.updTableEnt_core (k : Nat) (f : TableEnt → TableEnt) (i : Nat) : (s.updTableEnt k f).core i = s.core i := rfl
@[simp] theorem State.updTableEnt_arb (k : Nat) (f : TableEnt → TableEnt) (i : Nat) : (s.updTableEnt k f).arb i = s.arb i := rfl
@[simp] theorem State.updTableEnt_policy (k : Nat) (f : TableEnt → TableEnt) (i : Nat) : (s.updTableEnt k f).policy i = s.policy i := rfl
@[simp] theorem State.updTableEnt_ring (k : Nat) (f : TableEnt → TableEnt) (i : Nat) : (s.updTableEnt k f).ring i = s.ring i := rfl
@[simp] theorem State.updTableEnt_req (k : Nat) (f : TableEnt → TableEnt) (i : Nat) : (s.updTableEnt k f).req i = s.req i := rfl
@[simp] theorem State.updTableEnt_prefixAt (k : Nat) (f : TableEnt → TableEnt) (i : Nat) : (s.updTableEnt k f).prefixAt i = s.prefixAt i := rfl
@[simp] theorem State.updTableEnt_parcel (k : Nat) (f : TableEnt → TableEnt) (i : Nat) : (s.updTableEnt k f).parcel i = s.parcel i := rfl
@[simp] theorem State.updTableEnt_entry (k : Nat) (f : TableEnt → TableEnt) (i : Nat) : (s.updTableEnt k f).entry i = s.entry i := rfl
@[simp] theorem State.updTableEnt_modelOf (k : Nat) (f : TableEnt → TableEnt) (i : Nat) : (s.updTableEnt k f).modelOf i = s.modelOf i := rfl
@[simp] theorem State.updTableEnt_adapter (k : Nat) (f : TableEnt → TableEnt) (i : Nat) : (s.updTableEnt k f).adapter i = s.adapter i := rfl

/-! `updFab`. -/

@[simp] theorem State.updFab_pending (f : Fab → Fab) : (s.updFab f).pending = s.pending := rfl
@[simp] theorem State.updFab_free (f : Fab → Fab) : (s.updFab f).free = s.free := rfl
@[simp] theorem State.updFab_now (f : Fab → Fab) : (s.updFab f).now = s.now := rfl
@[simp] theorem State.updFab_time (f : Fab → Fab) : (s.updFab f).time = s.time := rfl
@[simp] theorem State.updFab_mem (f : Fab → Fab) : (s.updFab f).mem = s.mem := rfl
@[simp] theorem State.updFab_quads (f : Fab → Fab) : (s.updFab f).quads = s.quads := rfl
@[simp] theorem State.updFab_tiles (f : Fab → Fab) : (s.updFab f).tiles = s.tiles := rfl
@[simp] theorem State.updFab_blocks (f : Fab → Fab) : (s.updFab f).blocks = s.blocks := rfl
@[simp] theorem State.updFab_flights (f : Fab → Fab) : (s.updFab f).flights = s.flights := rfl
@[simp] theorem State.updFab_mail (f : Fab → Fab) : (s.updFab f).mail = s.mail := rfl
@[simp] theorem State.updFab_book (f : Fab → Fab) : (s.updFab f).book = s.book := rfl
@[simp] theorem State.updFab_slot (f : Fab → Fab) : (s.updFab f).slot = s.slot := rfl
@[simp] theorem State.updFab_engines (f : Fab → Fab) : (s.updFab f).engines = s.engines := rfl
@[simp] theorem State.updFab_hic (f : Fab → Fab) : (s.updFab f).hic = s.hic := rfl
@[simp] theorem State.updFab_cist (f : Fab → Fab) : (s.updFab f).cist = s.cist := rfl
@[simp] theorem State.updFab_les (f : Fab → Fab) : (s.updFab f).les = s.les := rfl
@[simp] theorem State.updFab_ges (f : Fab → Fab) : (s.updFab f).ges = s.ges := rfl
@[simp] theorem State.updFab_tables (f : Fab → Fab) : (s.updFab f).tables = s.tables := rfl
@[simp] theorem State.updFab_models (f : Fab → Fab) : (s.updFab f).models = s.models := rfl
@[simp] theorem State.updFab_adapters (f : Fab → Fab) : (s.updFab f).adapters = s.adapters := rfl
@[simp] theorem State.updFab_serve (f : Fab → Fab) : (s.updFab f).serve = s.serve := rfl
@[simp] theorem State.updFab_parcels (f : Fab → Fab) : (s.updFab f).parcels = s.parcels := rfl
@[simp] theorem State.updFab_sched (f : Fab → Fab) : (s.updFab f).sched = s.sched := rfl
@[simp] theorem State.updFab_arbs (f : Fab → Fab) : (s.updFab f).arbs = s.arbs := rfl
@[simp] theorem State.updFab_cores (f : Fab → Fab) : (s.updFab f).cores = s.cores := rfl
@[simp] theorem State.updFab_policies (f : Fab → Fab) : (s.updFab f).policies = s.policies := rfl
@[simp] theorem State.updFab_store (f : Fab → Fab) : (s.updFab f).store = s.store := rfl
@[simp] theorem State.updFab_power (f : Fab → Fab) : (s.updFab f).power = s.power := rfl
@[simp] theorem State.updFab_sec (f : Fab → Fab) : (s.updFab f).sec = s.sec := rfl
@[simp] theorem State.updFab_tile (f : Fab → Fab) (i : Nat) : (s.updFab f).tile i = s.tile i := rfl
@[simp] theorem State.updFab_block (f : Fab → Fab) (i : Nat) : (s.updFab f).block i = s.block i := rfl
@[simp] theorem State.updFab_plot (f : Fab → Fab) (i : Nat) : (s.updFab f).plot i = s.plot i := rfl
@[simp] theorem State.updFab_box (f : Fab → Fab) (i : Nat) : (s.updFab f).box i = s.box i := rfl
@[simp] theorem State.updFab_quad (f : Fab → Fab) (i : Nat) : (s.updFab f).quad i = s.quad i := rfl
@[simp] theorem State.updFab_engine (f : Fab → Fab) (i : Nat) : (s.updFab f).engine i = s.engine i := rfl
@[simp] theorem State.updFab_cistern (f : Fab → Fab) (i : Nat) : (s.updFab f).cistern i = s.cistern i := rfl
@[simp] theorem State.updFab_lateral (f : Fab → Fab) (i : Nat) : (s.updFab f).lateral i = s.lateral i := rfl
@[simp] theorem State.updFab_gatherEng (f : Fab → Fab) (i : Nat) : (s.updFab f).gatherEng i = s.gatherEng i := rfl
@[simp] theorem State.updFab_tableEnt (f : Fab → Fab) (i : Nat) : (s.updFab f).tableEnt i = s.tableEnt i := rfl
@[simp] theorem State.updFab_core (f : Fab → Fab) (i : Nat) : (s.updFab f).core i = s.core i := rfl
@[simp] theorem State.updFab_arb (f : Fab → Fab) (i : Nat) : (s.updFab f).arb i = s.arb i := rfl
@[simp] theorem State.updFab_policy (f : Fab → Fab) (i : Nat) : (s.updFab f).policy i = s.policy i := rfl
@[simp] theorem State.updFab_ring (f : Fab → Fab) (i : Nat) : (s.updFab f).ring i = s.ring i := rfl
@[simp] theorem State.updFab_req (f : Fab → Fab) (i : Nat) : (s.updFab f).req i = s.req i := rfl
@[simp] theorem State.updFab_prefixAt (f : Fab → Fab) (i : Nat) : (s.updFab f).prefixAt i = s.prefixAt i := rfl
@[simp] theorem State.updFab_parcel (f : Fab → Fab) (i : Nat) : (s.updFab f).parcel i = s.parcel i := rfl
@[simp] theorem State.updFab_entry (f : Fab → Fab) (i : Nat) : (s.updFab f).entry i = s.entry i := rfl
@[simp] theorem State.updFab_modelOf (f : Fab → Fab) (i : Nat) : (s.updFab f).modelOf i = s.modelOf i := rfl
@[simp] theorem State.updFab_adapter (f : Fab → Fab) (i : Nat) : (s.updFab f).adapter i = s.adapter i := rfl

/-! `updFport`. -/

@[simp] theorem State.updFport_pending (i : Nat) (f : FabPort → FabPort) : (s.updFport i f).pending = s.pending := rfl
@[simp] theorem State.updFport_free (i : Nat) (f : FabPort → FabPort) : (s.updFport i f).free = s.free := rfl
@[simp] theorem State.updFport_now (i : Nat) (f : FabPort → FabPort) : (s.updFport i f).now = s.now := rfl
@[simp] theorem State.updFport_time (i : Nat) (f : FabPort → FabPort) : (s.updFport i f).time = s.time := rfl
@[simp] theorem State.updFport_mem (i : Nat) (f : FabPort → FabPort) : (s.updFport i f).mem = s.mem := rfl
@[simp] theorem State.updFport_quads (i : Nat) (f : FabPort → FabPort) : (s.updFport i f).quads = s.quads := rfl
@[simp] theorem State.updFport_tiles (i : Nat) (f : FabPort → FabPort) : (s.updFport i f).tiles = s.tiles := rfl
@[simp] theorem State.updFport_blocks (i : Nat) (f : FabPort → FabPort) : (s.updFport i f).blocks = s.blocks := rfl
@[simp] theorem State.updFport_flights (i : Nat) (f : FabPort → FabPort) : (s.updFport i f).flights = s.flights := rfl
@[simp] theorem State.updFport_mail (i : Nat) (f : FabPort → FabPort) : (s.updFport i f).mail = s.mail := rfl
@[simp] theorem State.updFport_book (i : Nat) (f : FabPort → FabPort) : (s.updFport i f).book = s.book := rfl
@[simp] theorem State.updFport_slot (i : Nat) (f : FabPort → FabPort) : (s.updFport i f).slot = s.slot := rfl
@[simp] theorem State.updFport_engines (i : Nat) (f : FabPort → FabPort) : (s.updFport i f).engines = s.engines := rfl
@[simp] theorem State.updFport_hic (i : Nat) (f : FabPort → FabPort) : (s.updFport i f).hic = s.hic := rfl
@[simp] theorem State.updFport_cist (i : Nat) (f : FabPort → FabPort) : (s.updFport i f).cist = s.cist := rfl
@[simp] theorem State.updFport_les (i : Nat) (f : FabPort → FabPort) : (s.updFport i f).les = s.les := rfl
@[simp] theorem State.updFport_ges (i : Nat) (f : FabPort → FabPort) : (s.updFport i f).ges = s.ges := rfl
@[simp] theorem State.updFport_tables (i : Nat) (f : FabPort → FabPort) : (s.updFport i f).tables = s.tables := rfl
@[simp] theorem State.updFport_models (i : Nat) (f : FabPort → FabPort) : (s.updFport i f).models = s.models := rfl
@[simp] theorem State.updFport_adapters (i : Nat) (f : FabPort → FabPort) : (s.updFport i f).adapters = s.adapters := rfl
@[simp] theorem State.updFport_serve (i : Nat) (f : FabPort → FabPort) : (s.updFport i f).serve = s.serve := rfl
@[simp] theorem State.updFport_parcels (i : Nat) (f : FabPort → FabPort) : (s.updFport i f).parcels = s.parcels := rfl
@[simp] theorem State.updFport_sched (i : Nat) (f : FabPort → FabPort) : (s.updFport i f).sched = s.sched := rfl
@[simp] theorem State.updFport_arbs (i : Nat) (f : FabPort → FabPort) : (s.updFport i f).arbs = s.arbs := rfl
@[simp] theorem State.updFport_cores (i : Nat) (f : FabPort → FabPort) : (s.updFport i f).cores = s.cores := rfl
@[simp] theorem State.updFport_policies (i : Nat) (f : FabPort → FabPort) : (s.updFport i f).policies = s.policies := rfl
@[simp] theorem State.updFport_store (i : Nat) (f : FabPort → FabPort) : (s.updFport i f).store = s.store := rfl
@[simp] theorem State.updFport_power (i : Nat) (f : FabPort → FabPort) : (s.updFport i f).power = s.power := rfl
@[simp] theorem State.updFport_sec (i : Nat) (f : FabPort → FabPort) : (s.updFport i f).sec = s.sec := rfl
@[simp] theorem State.updFport_tile (j : Nat) (f : FabPort → FabPort) (i : Nat) : (s.updFport j f).tile i = s.tile i := rfl
@[simp] theorem State.updFport_block (j : Nat) (f : FabPort → FabPort) (i : Nat) : (s.updFport j f).block i = s.block i := rfl
@[simp] theorem State.updFport_plot (j : Nat) (f : FabPort → FabPort) (i : Nat) : (s.updFport j f).plot i = s.plot i := rfl
@[simp] theorem State.updFport_box (j : Nat) (f : FabPort → FabPort) (i : Nat) : (s.updFport j f).box i = s.box i := rfl
@[simp] theorem State.updFport_quad (j : Nat) (f : FabPort → FabPort) (i : Nat) : (s.updFport j f).quad i = s.quad i := rfl
@[simp] theorem State.updFport_engine (j : Nat) (f : FabPort → FabPort) (i : Nat) : (s.updFport j f).engine i = s.engine i := rfl
@[simp] theorem State.updFport_cistern (j : Nat) (f : FabPort → FabPort) (i : Nat) : (s.updFport j f).cistern i = s.cistern i := rfl
@[simp] theorem State.updFport_lateral (j : Nat) (f : FabPort → FabPort) (i : Nat) : (s.updFport j f).lateral i = s.lateral i := rfl
@[simp] theorem State.updFport_gatherEng (j : Nat) (f : FabPort → FabPort) (i : Nat) : (s.updFport j f).gatherEng i = s.gatherEng i := rfl
@[simp] theorem State.updFport_tableEnt (j : Nat) (f : FabPort → FabPort) (i : Nat) : (s.updFport j f).tableEnt i = s.tableEnt i := rfl
@[simp] theorem State.updFport_core (j : Nat) (f : FabPort → FabPort) (i : Nat) : (s.updFport j f).core i = s.core i := rfl
@[simp] theorem State.updFport_arb (j : Nat) (f : FabPort → FabPort) (i : Nat) : (s.updFport j f).arb i = s.arb i := rfl
@[simp] theorem State.updFport_policy (j : Nat) (f : FabPort → FabPort) (i : Nat) : (s.updFport j f).policy i = s.policy i := rfl
@[simp] theorem State.updFport_ring (j : Nat) (f : FabPort → FabPort) (i : Nat) : (s.updFport j f).ring i = s.ring i := rfl
@[simp] theorem State.updFport_req (j : Nat) (f : FabPort → FabPort) (i : Nat) : (s.updFport j f).req i = s.req i := rfl
@[simp] theorem State.updFport_prefixAt (j : Nat) (f : FabPort → FabPort) (i : Nat) : (s.updFport j f).prefixAt i = s.prefixAt i := rfl
@[simp] theorem State.updFport_parcel (j : Nat) (f : FabPort → FabPort) (i : Nat) : (s.updFport j f).parcel i = s.parcel i := rfl
@[simp] theorem State.updFport_entry (j : Nat) (f : FabPort → FabPort) (i : Nat) : (s.updFport j f).entry i = s.entry i := rfl
@[simp] theorem State.updFport_modelOf (j : Nat) (f : FabPort → FabPort) (i : Nat) : (s.updFport j f).modelOf i = s.modelOf i := rfl
@[simp] theorem State.updFport_adapter (j : Nat) (f : FabPort → FabPort) (i : Nat) : (s.updFport j f).adapter i = s.adapter i := rfl

/-! `updCore`. -/

@[simp] theorem State.updCore_pending (c : Nat) (f : HgCore → HgCore) : (s.updCore c f).pending = s.pending := rfl
@[simp] theorem State.updCore_free (c : Nat) (f : HgCore → HgCore) : (s.updCore c f).free = s.free := rfl
@[simp] theorem State.updCore_now (c : Nat) (f : HgCore → HgCore) : (s.updCore c f).now = s.now := rfl
@[simp] theorem State.updCore_time (c : Nat) (f : HgCore → HgCore) : (s.updCore c f).time = s.time := rfl
@[simp] theorem State.updCore_mem (c : Nat) (f : HgCore → HgCore) : (s.updCore c f).mem = s.mem := rfl
@[simp] theorem State.updCore_quads (c : Nat) (f : HgCore → HgCore) : (s.updCore c f).quads = s.quads := rfl
@[simp] theorem State.updCore_tiles (c : Nat) (f : HgCore → HgCore) : (s.updCore c f).tiles = s.tiles := rfl
@[simp] theorem State.updCore_blocks (c : Nat) (f : HgCore → HgCore) : (s.updCore c f).blocks = s.blocks := rfl
@[simp] theorem State.updCore_flights (c : Nat) (f : HgCore → HgCore) : (s.updCore c f).flights = s.flights := rfl
@[simp] theorem State.updCore_mail (c : Nat) (f : HgCore → HgCore) : (s.updCore c f).mail = s.mail := rfl
@[simp] theorem State.updCore_book (c : Nat) (f : HgCore → HgCore) : (s.updCore c f).book = s.book := rfl
@[simp] theorem State.updCore_slot (c : Nat) (f : HgCore → HgCore) : (s.updCore c f).slot = s.slot := rfl
@[simp] theorem State.updCore_engines (c : Nat) (f : HgCore → HgCore) : (s.updCore c f).engines = s.engines := rfl
@[simp] theorem State.updCore_fab (c : Nat) (f : HgCore → HgCore) : (s.updCore c f).fab = s.fab := rfl
@[simp] theorem State.updCore_hic (c : Nat) (f : HgCore → HgCore) : (s.updCore c f).hic = s.hic := rfl
@[simp] theorem State.updCore_cist (c : Nat) (f : HgCore → HgCore) : (s.updCore c f).cist = s.cist := rfl
@[simp] theorem State.updCore_les (c : Nat) (f : HgCore → HgCore) : (s.updCore c f).les = s.les := rfl
@[simp] theorem State.updCore_ges (c : Nat) (f : HgCore → HgCore) : (s.updCore c f).ges = s.ges := rfl
@[simp] theorem State.updCore_tables (c : Nat) (f : HgCore → HgCore) : (s.updCore c f).tables = s.tables := rfl
@[simp] theorem State.updCore_models (c : Nat) (f : HgCore → HgCore) : (s.updCore c f).models = s.models := rfl
@[simp] theorem State.updCore_adapters (c : Nat) (f : HgCore → HgCore) : (s.updCore c f).adapters = s.adapters := rfl
@[simp] theorem State.updCore_serve (c : Nat) (f : HgCore → HgCore) : (s.updCore c f).serve = s.serve := rfl
@[simp] theorem State.updCore_parcels (c : Nat) (f : HgCore → HgCore) : (s.updCore c f).parcels = s.parcels := rfl
@[simp] theorem State.updCore_sched (c : Nat) (f : HgCore → HgCore) : (s.updCore c f).sched = s.sched := rfl
@[simp] theorem State.updCore_arbs (c : Nat) (f : HgCore → HgCore) : (s.updCore c f).arbs = s.arbs := rfl
@[simp] theorem State.updCore_policies (c : Nat) (f : HgCore → HgCore) : (s.updCore c f).policies = s.policies := rfl
@[simp] theorem State.updCore_store (c : Nat) (f : HgCore → HgCore) : (s.updCore c f).store = s.store := rfl
@[simp] theorem State.updCore_power (c : Nat) (f : HgCore → HgCore) : (s.updCore c f).power = s.power := rfl
@[simp] theorem State.updCore_sec (c : Nat) (f : HgCore → HgCore) : (s.updCore c f).sec = s.sec := rfl
@[simp] theorem State.updCore_tile (c : Nat) (f : HgCore → HgCore) (i : Nat) : (s.updCore c f).tile i = s.tile i := rfl
@[simp] theorem State.updCore_block (c : Nat) (f : HgCore → HgCore) (i : Nat) : (s.updCore c f).block i = s.block i := rfl
@[simp] theorem State.updCore_plot (c : Nat) (f : HgCore → HgCore) (i : Nat) : (s.updCore c f).plot i = s.plot i := rfl
@[simp] theorem State.updCore_box (c : Nat) (f : HgCore → HgCore) (i : Nat) : (s.updCore c f).box i = s.box i := rfl
@[simp] theorem State.updCore_quad (c : Nat) (f : HgCore → HgCore) (i : Nat) : (s.updCore c f).quad i = s.quad i := rfl
@[simp] theorem State.updCore_engine (c : Nat) (f : HgCore → HgCore) (i : Nat) : (s.updCore c f).engine i = s.engine i := rfl
@[simp] theorem State.updCore_cistern (c : Nat) (f : HgCore → HgCore) (i : Nat) : (s.updCore c f).cistern i = s.cistern i := rfl
@[simp] theorem State.updCore_lateral (c : Nat) (f : HgCore → HgCore) (i : Nat) : (s.updCore c f).lateral i = s.lateral i := rfl
@[simp] theorem State.updCore_gatherEng (c : Nat) (f : HgCore → HgCore) (i : Nat) : (s.updCore c f).gatherEng i = s.gatherEng i := rfl
@[simp] theorem State.updCore_tableEnt (c : Nat) (f : HgCore → HgCore) (i : Nat) : (s.updCore c f).tableEnt i = s.tableEnt i := rfl
@[simp] theorem State.updCore_fport (c : Nat) (f : HgCore → HgCore) (i : Nat) : (s.updCore c f).fport i = s.fport i := rfl
@[simp] theorem State.updCore_arb (c : Nat) (f : HgCore → HgCore) (i : Nat) : (s.updCore c f).arb i = s.arb i := rfl
@[simp] theorem State.updCore_policy (c : Nat) (f : HgCore → HgCore) (i : Nat) : (s.updCore c f).policy i = s.policy i := rfl
@[simp] theorem State.updCore_ring (c : Nat) (f : HgCore → HgCore) (i : Nat) : (s.updCore c f).ring i = s.ring i := rfl
@[simp] theorem State.updCore_req (c : Nat) (f : HgCore → HgCore) (i : Nat) : (s.updCore c f).req i = s.req i := rfl
@[simp] theorem State.updCore_prefixAt (c : Nat) (f : HgCore → HgCore) (i : Nat) : (s.updCore c f).prefixAt i = s.prefixAt i := rfl
@[simp] theorem State.updCore_parcel (c : Nat) (f : HgCore → HgCore) (i : Nat) : (s.updCore c f).parcel i = s.parcel i := rfl
@[simp] theorem State.updCore_entry (c : Nat) (f : HgCore → HgCore) (i : Nat) : (s.updCore c f).entry i = s.entry i := rfl
@[simp] theorem State.updCore_modelOf (c : Nat) (f : HgCore → HgCore) (i : Nat) : (s.updCore c f).modelOf i = s.modelOf i := rfl
@[simp] theorem State.updCore_adapter (c : Nat) (f : HgCore → HgCore) (i : Nat) : (s.updCore c f).adapter i = s.adapter i := rfl

/-! `updArb`. -/

@[simp] theorem State.updArb_pending (a : Nat) (f : Arb → Arb) : (s.updArb a f).pending = s.pending := rfl
@[simp] theorem State.updArb_free (a : Nat) (f : Arb → Arb) : (s.updArb a f).free = s.free := rfl
@[simp] theorem State.updArb_now (a : Nat) (f : Arb → Arb) : (s.updArb a f).now = s.now := rfl
@[simp] theorem State.updArb_time (a : Nat) (f : Arb → Arb) : (s.updArb a f).time = s.time := rfl
@[simp] theorem State.updArb_mem (a : Nat) (f : Arb → Arb) : (s.updArb a f).mem = s.mem := rfl
@[simp] theorem State.updArb_quads (a : Nat) (f : Arb → Arb) : (s.updArb a f).quads = s.quads := rfl
@[simp] theorem State.updArb_tiles (a : Nat) (f : Arb → Arb) : (s.updArb a f).tiles = s.tiles := rfl
@[simp] theorem State.updArb_blocks (a : Nat) (f : Arb → Arb) : (s.updArb a f).blocks = s.blocks := rfl
@[simp] theorem State.updArb_flights (a : Nat) (f : Arb → Arb) : (s.updArb a f).flights = s.flights := rfl
@[simp] theorem State.updArb_mail (a : Nat) (f : Arb → Arb) : (s.updArb a f).mail = s.mail := rfl
@[simp] theorem State.updArb_book (a : Nat) (f : Arb → Arb) : (s.updArb a f).book = s.book := rfl
@[simp] theorem State.updArb_slot (a : Nat) (f : Arb → Arb) : (s.updArb a f).slot = s.slot := rfl
@[simp] theorem State.updArb_engines (a : Nat) (f : Arb → Arb) : (s.updArb a f).engines = s.engines := rfl
@[simp] theorem State.updArb_fab (a : Nat) (f : Arb → Arb) : (s.updArb a f).fab = s.fab := rfl
@[simp] theorem State.updArb_hic (a : Nat) (f : Arb → Arb) : (s.updArb a f).hic = s.hic := rfl
@[simp] theorem State.updArb_cist (a : Nat) (f : Arb → Arb) : (s.updArb a f).cist = s.cist := rfl
@[simp] theorem State.updArb_les (a : Nat) (f : Arb → Arb) : (s.updArb a f).les = s.les := rfl
@[simp] theorem State.updArb_ges (a : Nat) (f : Arb → Arb) : (s.updArb a f).ges = s.ges := rfl
@[simp] theorem State.updArb_tables (a : Nat) (f : Arb → Arb) : (s.updArb a f).tables = s.tables := rfl
@[simp] theorem State.updArb_models (a : Nat) (f : Arb → Arb) : (s.updArb a f).models = s.models := rfl
@[simp] theorem State.updArb_adapters (a : Nat) (f : Arb → Arb) : (s.updArb a f).adapters = s.adapters := rfl
@[simp] theorem State.updArb_serve (a : Nat) (f : Arb → Arb) : (s.updArb a f).serve = s.serve := rfl
@[simp] theorem State.updArb_parcels (a : Nat) (f : Arb → Arb) : (s.updArb a f).parcels = s.parcels := rfl
@[simp] theorem State.updArb_sched (a : Nat) (f : Arb → Arb) : (s.updArb a f).sched = s.sched := rfl
@[simp] theorem State.updArb_cores (a : Nat) (f : Arb → Arb) : (s.updArb a f).cores = s.cores := rfl
@[simp] theorem State.updArb_policies (a : Nat) (f : Arb → Arb) : (s.updArb a f).policies = s.policies := rfl
@[simp] theorem State.updArb_store (a : Nat) (f : Arb → Arb) : (s.updArb a f).store = s.store := rfl
@[simp] theorem State.updArb_power (a : Nat) (f : Arb → Arb) : (s.updArb a f).power = s.power := rfl
@[simp] theorem State.updArb_sec (a : Nat) (f : Arb → Arb) : (s.updArb a f).sec = s.sec := rfl
@[simp] theorem State.updArb_tile (a : Nat) (f : Arb → Arb) (i : Nat) : (s.updArb a f).tile i = s.tile i := rfl
@[simp] theorem State.updArb_block (a : Nat) (f : Arb → Arb) (i : Nat) : (s.updArb a f).block i = s.block i := rfl
@[simp] theorem State.updArb_plot (a : Nat) (f : Arb → Arb) (i : Nat) : (s.updArb a f).plot i = s.plot i := rfl
@[simp] theorem State.updArb_box (a : Nat) (f : Arb → Arb) (i : Nat) : (s.updArb a f).box i = s.box i := rfl
@[simp] theorem State.updArb_quad (a : Nat) (f : Arb → Arb) (i : Nat) : (s.updArb a f).quad i = s.quad i := rfl
@[simp] theorem State.updArb_engine (a : Nat) (f : Arb → Arb) (i : Nat) : (s.updArb a f).engine i = s.engine i := rfl
@[simp] theorem State.updArb_cistern (a : Nat) (f : Arb → Arb) (i : Nat) : (s.updArb a f).cistern i = s.cistern i := rfl
@[simp] theorem State.updArb_lateral (a : Nat) (f : Arb → Arb) (i : Nat) : (s.updArb a f).lateral i = s.lateral i := rfl
@[simp] theorem State.updArb_gatherEng (a : Nat) (f : Arb → Arb) (i : Nat) : (s.updArb a f).gatherEng i = s.gatherEng i := rfl
@[simp] theorem State.updArb_tableEnt (a : Nat) (f : Arb → Arb) (i : Nat) : (s.updArb a f).tableEnt i = s.tableEnt i := rfl
@[simp] theorem State.updArb_fport (a : Nat) (f : Arb → Arb) (i : Nat) : (s.updArb a f).fport i = s.fport i := rfl
@[simp] theorem State.updArb_core (a : Nat) (f : Arb → Arb) (i : Nat) : (s.updArb a f).core i = s.core i := rfl
@[simp] theorem State.updArb_policy (a : Nat) (f : Arb → Arb) (i : Nat) : (s.updArb a f).policy i = s.policy i := rfl
@[simp] theorem State.updArb_ring (a : Nat) (f : Arb → Arb) (i : Nat) : (s.updArb a f).ring i = s.ring i := rfl
@[simp] theorem State.updArb_req (a : Nat) (f : Arb → Arb) (i : Nat) : (s.updArb a f).req i = s.req i := rfl
@[simp] theorem State.updArb_prefixAt (a : Nat) (f : Arb → Arb) (i : Nat) : (s.updArb a f).prefixAt i = s.prefixAt i := rfl
@[simp] theorem State.updArb_parcel (a : Nat) (f : Arb → Arb) (i : Nat) : (s.updArb a f).parcel i = s.parcel i := rfl
@[simp] theorem State.updArb_entry (a : Nat) (f : Arb → Arb) (i : Nat) : (s.updArb a f).entry i = s.entry i := rfl
@[simp] theorem State.updArb_modelOf (a : Nat) (f : Arb → Arb) (i : Nat) : (s.updArb a f).modelOf i = s.modelOf i := rfl
@[simp] theorem State.updArb_adapter (a : Nat) (f : Arb → Arb) (i : Nat) : (s.updArb a f).adapter i = s.adapter i := rfl

/-! `setPolicy`. -/

@[simp] theorem State.setPolicy_pending (i : Nat) (p : Option Policy) : (s.setPolicy i p).pending = s.pending := rfl
@[simp] theorem State.setPolicy_free (i : Nat) (p : Option Policy) : (s.setPolicy i p).free = s.free := rfl
@[simp] theorem State.setPolicy_now (i : Nat) (p : Option Policy) : (s.setPolicy i p).now = s.now := rfl
@[simp] theorem State.setPolicy_time (i : Nat) (p : Option Policy) : (s.setPolicy i p).time = s.time := rfl
@[simp] theorem State.setPolicy_mem (i : Nat) (p : Option Policy) : (s.setPolicy i p).mem = s.mem := rfl
@[simp] theorem State.setPolicy_quads (i : Nat) (p : Option Policy) : (s.setPolicy i p).quads = s.quads := rfl
@[simp] theorem State.setPolicy_tiles (i : Nat) (p : Option Policy) : (s.setPolicy i p).tiles = s.tiles := rfl
@[simp] theorem State.setPolicy_blocks (i : Nat) (p : Option Policy) : (s.setPolicy i p).blocks = s.blocks := rfl
@[simp] theorem State.setPolicy_flights (i : Nat) (p : Option Policy) : (s.setPolicy i p).flights = s.flights := rfl
@[simp] theorem State.setPolicy_mail (i : Nat) (p : Option Policy) : (s.setPolicy i p).mail = s.mail := rfl
@[simp] theorem State.setPolicy_book (i : Nat) (p : Option Policy) : (s.setPolicy i p).book = s.book := rfl
@[simp] theorem State.setPolicy_slot (i : Nat) (p : Option Policy) : (s.setPolicy i p).slot = s.slot := rfl
@[simp] theorem State.setPolicy_engines (i : Nat) (p : Option Policy) : (s.setPolicy i p).engines = s.engines := rfl
@[simp] theorem State.setPolicy_fab (i : Nat) (p : Option Policy) : (s.setPolicy i p).fab = s.fab := rfl
@[simp] theorem State.setPolicy_hic (i : Nat) (p : Option Policy) : (s.setPolicy i p).hic = s.hic := rfl
@[simp] theorem State.setPolicy_cist (i : Nat) (p : Option Policy) : (s.setPolicy i p).cist = s.cist := rfl
@[simp] theorem State.setPolicy_les (i : Nat) (p : Option Policy) : (s.setPolicy i p).les = s.les := rfl
@[simp] theorem State.setPolicy_ges (i : Nat) (p : Option Policy) : (s.setPolicy i p).ges = s.ges := rfl
@[simp] theorem State.setPolicy_tables (i : Nat) (p : Option Policy) : (s.setPolicy i p).tables = s.tables := rfl
@[simp] theorem State.setPolicy_models (i : Nat) (p : Option Policy) : (s.setPolicy i p).models = s.models := rfl
@[simp] theorem State.setPolicy_adapters (i : Nat) (p : Option Policy) : (s.setPolicy i p).adapters = s.adapters := rfl
@[simp] theorem State.setPolicy_serve (i : Nat) (p : Option Policy) : (s.setPolicy i p).serve = s.serve := rfl
@[simp] theorem State.setPolicy_parcels (i : Nat) (p : Option Policy) : (s.setPolicy i p).parcels = s.parcels := rfl
@[simp] theorem State.setPolicy_sched (i : Nat) (p : Option Policy) : (s.setPolicy i p).sched = s.sched := rfl
@[simp] theorem State.setPolicy_arbs (i : Nat) (p : Option Policy) : (s.setPolicy i p).arbs = s.arbs := rfl
@[simp] theorem State.setPolicy_cores (i : Nat) (p : Option Policy) : (s.setPolicy i p).cores = s.cores := rfl
@[simp] theorem State.setPolicy_store (i : Nat) (p : Option Policy) : (s.setPolicy i p).store = s.store := rfl
@[simp] theorem State.setPolicy_power (i : Nat) (p : Option Policy) : (s.setPolicy i p).power = s.power := rfl
@[simp] theorem State.setPolicy_sec (i : Nat) (p : Option Policy) : (s.setPolicy i p).sec = s.sec := rfl
@[simp] theorem State.setPolicy_tile (j : Nat) (p : Option Policy) (i : Nat) : (s.setPolicy j p).tile i = s.tile i := rfl
@[simp] theorem State.setPolicy_block (j : Nat) (p : Option Policy) (i : Nat) : (s.setPolicy j p).block i = s.block i := rfl
@[simp] theorem State.setPolicy_plot (j : Nat) (p : Option Policy) (i : Nat) : (s.setPolicy j p).plot i = s.plot i := rfl
@[simp] theorem State.setPolicy_box (j : Nat) (p : Option Policy) (i : Nat) : (s.setPolicy j p).box i = s.box i := rfl
@[simp] theorem State.setPolicy_quad (j : Nat) (p : Option Policy) (i : Nat) : (s.setPolicy j p).quad i = s.quad i := rfl
@[simp] theorem State.setPolicy_engine (j : Nat) (p : Option Policy) (i : Nat) : (s.setPolicy j p).engine i = s.engine i := rfl
@[simp] theorem State.setPolicy_cistern (j : Nat) (p : Option Policy) (i : Nat) : (s.setPolicy j p).cistern i = s.cistern i := rfl
@[simp] theorem State.setPolicy_lateral (j : Nat) (p : Option Policy) (i : Nat) : (s.setPolicy j p).lateral i = s.lateral i := rfl
@[simp] theorem State.setPolicy_gatherEng (j : Nat) (p : Option Policy) (i : Nat) : (s.setPolicy j p).gatherEng i = s.gatherEng i := rfl
@[simp] theorem State.setPolicy_tableEnt (j : Nat) (p : Option Policy) (i : Nat) : (s.setPolicy j p).tableEnt i = s.tableEnt i := rfl
@[simp] theorem State.setPolicy_fport (j : Nat) (p : Option Policy) (i : Nat) : (s.setPolicy j p).fport i = s.fport i := rfl
@[simp] theorem State.setPolicy_core (j : Nat) (p : Option Policy) (i : Nat) : (s.setPolicy j p).core i = s.core i := rfl
@[simp] theorem State.setPolicy_arb (j : Nat) (p : Option Policy) (i : Nat) : (s.setPolicy j p).arb i = s.arb i := rfl
@[simp] theorem State.setPolicy_ring (j : Nat) (p : Option Policy) (i : Nat) : (s.setPolicy j p).ring i = s.ring i := rfl
@[simp] theorem State.setPolicy_req (j : Nat) (p : Option Policy) (i : Nat) : (s.setPolicy j p).req i = s.req i := rfl
@[simp] theorem State.setPolicy_prefixAt (j : Nat) (p : Option Policy) (i : Nat) : (s.setPolicy j p).prefixAt i = s.prefixAt i := rfl
@[simp] theorem State.setPolicy_parcel (j : Nat) (p : Option Policy) (i : Nat) : (s.setPolicy j p).parcel i = s.parcel i := rfl
@[simp] theorem State.setPolicy_entry (j : Nat) (p : Option Policy) (i : Nat) : (s.setPolicy j p).entry i = s.entry i := rfl
@[simp] theorem State.setPolicy_modelOf (j : Nat) (p : Option Policy) (i : Nat) : (s.setPolicy j p).modelOf i = s.modelOf i := rfl
@[simp] theorem State.setPolicy_adapter (j : Nat) (p : Option Policy) (i : Nat) : (s.setPolicy j p).adapter i = s.adapter i := rfl

/-! `updRing`. -/

@[simp] theorem State.updRing_pending (i : Nat) (f : Ring → Ring) : (s.updRing i f).pending = s.pending := rfl
@[simp] theorem State.updRing_free (i : Nat) (f : Ring → Ring) : (s.updRing i f).free = s.free := rfl
@[simp] theorem State.updRing_now (i : Nat) (f : Ring → Ring) : (s.updRing i f).now = s.now := rfl
@[simp] theorem State.updRing_time (i : Nat) (f : Ring → Ring) : (s.updRing i f).time = s.time := rfl
@[simp] theorem State.updRing_mem (i : Nat) (f : Ring → Ring) : (s.updRing i f).mem = s.mem := rfl
@[simp] theorem State.updRing_quads (i : Nat) (f : Ring → Ring) : (s.updRing i f).quads = s.quads := rfl
@[simp] theorem State.updRing_tiles (i : Nat) (f : Ring → Ring) : (s.updRing i f).tiles = s.tiles := rfl
@[simp] theorem State.updRing_blocks (i : Nat) (f : Ring → Ring) : (s.updRing i f).blocks = s.blocks := rfl
@[simp] theorem State.updRing_flights (i : Nat) (f : Ring → Ring) : (s.updRing i f).flights = s.flights := rfl
@[simp] theorem State.updRing_mail (i : Nat) (f : Ring → Ring) : (s.updRing i f).mail = s.mail := rfl
@[simp] theorem State.updRing_book (i : Nat) (f : Ring → Ring) : (s.updRing i f).book = s.book := rfl
@[simp] theorem State.updRing_slot (i : Nat) (f : Ring → Ring) : (s.updRing i f).slot = s.slot := rfl
@[simp] theorem State.updRing_engines (i : Nat) (f : Ring → Ring) : (s.updRing i f).engines = s.engines := rfl
@[simp] theorem State.updRing_fab (i : Nat) (f : Ring → Ring) : (s.updRing i f).fab = s.fab := rfl
@[simp] theorem State.updRing_hic (i : Nat) (f : Ring → Ring) : (s.updRing i f).hic = s.hic := rfl
@[simp] theorem State.updRing_cist (i : Nat) (f : Ring → Ring) : (s.updRing i f).cist = s.cist := rfl
@[simp] theorem State.updRing_les (i : Nat) (f : Ring → Ring) : (s.updRing i f).les = s.les := rfl
@[simp] theorem State.updRing_ges (i : Nat) (f : Ring → Ring) : (s.updRing i f).ges = s.ges := rfl
@[simp] theorem State.updRing_tables (i : Nat) (f : Ring → Ring) : (s.updRing i f).tables = s.tables := rfl
@[simp] theorem State.updRing_models (i : Nat) (f : Ring → Ring) : (s.updRing i f).models = s.models := rfl
@[simp] theorem State.updRing_adapters (i : Nat) (f : Ring → Ring) : (s.updRing i f).adapters = s.adapters := rfl
@[simp] theorem State.updRing_parcels (i : Nat) (f : Ring → Ring) : (s.updRing i f).parcels = s.parcels := rfl
@[simp] theorem State.updRing_sched (i : Nat) (f : Ring → Ring) : (s.updRing i f).sched = s.sched := rfl
@[simp] theorem State.updRing_arbs (i : Nat) (f : Ring → Ring) : (s.updRing i f).arbs = s.arbs := rfl
@[simp] theorem State.updRing_cores (i : Nat) (f : Ring → Ring) : (s.updRing i f).cores = s.cores := rfl
@[simp] theorem State.updRing_policies (i : Nat) (f : Ring → Ring) : (s.updRing i f).policies = s.policies := rfl
@[simp] theorem State.updRing_store (i : Nat) (f : Ring → Ring) : (s.updRing i f).store = s.store := rfl
@[simp] theorem State.updRing_power (i : Nat) (f : Ring → Ring) : (s.updRing i f).power = s.power := rfl
@[simp] theorem State.updRing_sec (i : Nat) (f : Ring → Ring) : (s.updRing i f).sec = s.sec := rfl
@[simp] theorem State.updRing_tile (j : Nat) (f : Ring → Ring) (i : Nat) : (s.updRing j f).tile i = s.tile i := rfl
@[simp] theorem State.updRing_block (j : Nat) (f : Ring → Ring) (i : Nat) : (s.updRing j f).block i = s.block i := rfl
@[simp] theorem State.updRing_plot (j : Nat) (f : Ring → Ring) (i : Nat) : (s.updRing j f).plot i = s.plot i := rfl
@[simp] theorem State.updRing_box (j : Nat) (f : Ring → Ring) (i : Nat) : (s.updRing j f).box i = s.box i := rfl
@[simp] theorem State.updRing_quad (j : Nat) (f : Ring → Ring) (i : Nat) : (s.updRing j f).quad i = s.quad i := rfl
@[simp] theorem State.updRing_engine (j : Nat) (f : Ring → Ring) (i : Nat) : (s.updRing j f).engine i = s.engine i := rfl
@[simp] theorem State.updRing_cistern (j : Nat) (f : Ring → Ring) (i : Nat) : (s.updRing j f).cistern i = s.cistern i := rfl
@[simp] theorem State.updRing_lateral (j : Nat) (f : Ring → Ring) (i : Nat) : (s.updRing j f).lateral i = s.lateral i := rfl
@[simp] theorem State.updRing_gatherEng (j : Nat) (f : Ring → Ring) (i : Nat) : (s.updRing j f).gatherEng i = s.gatherEng i := rfl
@[simp] theorem State.updRing_tableEnt (j : Nat) (f : Ring → Ring) (i : Nat) : (s.updRing j f).tableEnt i = s.tableEnt i := rfl
@[simp] theorem State.updRing_fport (j : Nat) (f : Ring → Ring) (i : Nat) : (s.updRing j f).fport i = s.fport i := rfl
@[simp] theorem State.updRing_core (j : Nat) (f : Ring → Ring) (i : Nat) : (s.updRing j f).core i = s.core i := rfl
@[simp] theorem State.updRing_arb (j : Nat) (f : Ring → Ring) (i : Nat) : (s.updRing j f).arb i = s.arb i := rfl
@[simp] theorem State.updRing_policy (j : Nat) (f : Ring → Ring) (i : Nat) : (s.updRing j f).policy i = s.policy i := rfl
@[simp] theorem State.updRing_parcel (j : Nat) (f : Ring → Ring) (i : Nat) : (s.updRing j f).parcel i = s.parcel i := rfl
@[simp] theorem State.updRing_entry (j : Nat) (f : Ring → Ring) (i : Nat) : (s.updRing j f).entry i = s.entry i := rfl
@[simp] theorem State.updRing_modelOf (j : Nat) (f : Ring → Ring) (i : Nat) : (s.updRing j f).modelOf i = s.modelOf i := rfl
@[simp] theorem State.updRing_adapter (j : Nat) (f : Ring → Ring) (i : Nat) : (s.updRing j f).adapter i = s.adapter i := rfl

/-! `updReq`. -/

@[simp] theorem State.updReq_pending (h : Nat) (f : Req → Req) : (s.updReq h f).pending = s.pending := rfl
@[simp] theorem State.updReq_free (h : Nat) (f : Req → Req) : (s.updReq h f).free = s.free := rfl
@[simp] theorem State.updReq_now (h : Nat) (f : Req → Req) : (s.updReq h f).now = s.now := rfl
@[simp] theorem State.updReq_time (h : Nat) (f : Req → Req) : (s.updReq h f).time = s.time := rfl
@[simp] theorem State.updReq_mem (h : Nat) (f : Req → Req) : (s.updReq h f).mem = s.mem := rfl
@[simp] theorem State.updReq_quads (h : Nat) (f : Req → Req) : (s.updReq h f).quads = s.quads := rfl
@[simp] theorem State.updReq_tiles (h : Nat) (f : Req → Req) : (s.updReq h f).tiles = s.tiles := rfl
@[simp] theorem State.updReq_blocks (h : Nat) (f : Req → Req) : (s.updReq h f).blocks = s.blocks := rfl
@[simp] theorem State.updReq_flights (h : Nat) (f : Req → Req) : (s.updReq h f).flights = s.flights := rfl
@[simp] theorem State.updReq_mail (h : Nat) (f : Req → Req) : (s.updReq h f).mail = s.mail := rfl
@[simp] theorem State.updReq_book (h : Nat) (f : Req → Req) : (s.updReq h f).book = s.book := rfl
@[simp] theorem State.updReq_slot (h : Nat) (f : Req → Req) : (s.updReq h f).slot = s.slot := rfl
@[simp] theorem State.updReq_engines (h : Nat) (f : Req → Req) : (s.updReq h f).engines = s.engines := rfl
@[simp] theorem State.updReq_fab (h : Nat) (f : Req → Req) : (s.updReq h f).fab = s.fab := rfl
@[simp] theorem State.updReq_hic (h : Nat) (f : Req → Req) : (s.updReq h f).hic = s.hic := rfl
@[simp] theorem State.updReq_cist (h : Nat) (f : Req → Req) : (s.updReq h f).cist = s.cist := rfl
@[simp] theorem State.updReq_les (h : Nat) (f : Req → Req) : (s.updReq h f).les = s.les := rfl
@[simp] theorem State.updReq_ges (h : Nat) (f : Req → Req) : (s.updReq h f).ges = s.ges := rfl
@[simp] theorem State.updReq_tables (h : Nat) (f : Req → Req) : (s.updReq h f).tables = s.tables := rfl
@[simp] theorem State.updReq_models (h : Nat) (f : Req → Req) : (s.updReq h f).models = s.models := rfl
@[simp] theorem State.updReq_adapters (h : Nat) (f : Req → Req) : (s.updReq h f).adapters = s.adapters := rfl
@[simp] theorem State.updReq_parcels (h : Nat) (f : Req → Req) : (s.updReq h f).parcels = s.parcels := rfl
@[simp] theorem State.updReq_sched (h : Nat) (f : Req → Req) : (s.updReq h f).sched = s.sched := rfl
@[simp] theorem State.updReq_arbs (h : Nat) (f : Req → Req) : (s.updReq h f).arbs = s.arbs := rfl
@[simp] theorem State.updReq_cores (h : Nat) (f : Req → Req) : (s.updReq h f).cores = s.cores := rfl
@[simp] theorem State.updReq_policies (h : Nat) (f : Req → Req) : (s.updReq h f).policies = s.policies := rfl
@[simp] theorem State.updReq_store (h : Nat) (f : Req → Req) : (s.updReq h f).store = s.store := rfl
@[simp] theorem State.updReq_power (h : Nat) (f : Req → Req) : (s.updReq h f).power = s.power := rfl
@[simp] theorem State.updReq_sec (h : Nat) (f : Req → Req) : (s.updReq h f).sec = s.sec := rfl
@[simp] theorem State.updReq_tile (h : Nat) (f : Req → Req) (i : Nat) : (s.updReq h f).tile i = s.tile i := rfl
@[simp] theorem State.updReq_block (h : Nat) (f : Req → Req) (i : Nat) : (s.updReq h f).block i = s.block i := rfl
@[simp] theorem State.updReq_plot (h : Nat) (f : Req → Req) (i : Nat) : (s.updReq h f).plot i = s.plot i := rfl
@[simp] theorem State.updReq_box (h : Nat) (f : Req → Req) (i : Nat) : (s.updReq h f).box i = s.box i := rfl
@[simp] theorem State.updReq_quad (h : Nat) (f : Req → Req) (i : Nat) : (s.updReq h f).quad i = s.quad i := rfl
@[simp] theorem State.updReq_engine (h : Nat) (f : Req → Req) (i : Nat) : (s.updReq h f).engine i = s.engine i := rfl
@[simp] theorem State.updReq_cistern (h : Nat) (f : Req → Req) (i : Nat) : (s.updReq h f).cistern i = s.cistern i := rfl
@[simp] theorem State.updReq_lateral (h : Nat) (f : Req → Req) (i : Nat) : (s.updReq h f).lateral i = s.lateral i := rfl
@[simp] theorem State.updReq_gatherEng (h : Nat) (f : Req → Req) (i : Nat) : (s.updReq h f).gatherEng i = s.gatherEng i := rfl
@[simp] theorem State.updReq_tableEnt (h : Nat) (f : Req → Req) (i : Nat) : (s.updReq h f).tableEnt i = s.tableEnt i := rfl
@[simp] theorem State.updReq_fport (h : Nat) (f : Req → Req) (i : Nat) : (s.updReq h f).fport i = s.fport i := rfl
@[simp] theorem State.updReq_core (h : Nat) (f : Req → Req) (i : Nat) : (s.updReq h f).core i = s.core i := rfl
@[simp] theorem State.updReq_arb (h : Nat) (f : Req → Req) (i : Nat) : (s.updReq h f).arb i = s.arb i := rfl
@[simp] theorem State.updReq_policy (h : Nat) (f : Req → Req) (i : Nat) : (s.updReq h f).policy i = s.policy i := rfl
@[simp] theorem State.updReq_parcel (h : Nat) (f : Req → Req) (i : Nat) : (s.updReq h f).parcel i = s.parcel i := rfl
@[simp] theorem State.updReq_entry (h : Nat) (f : Req → Req) (i : Nat) : (s.updReq h f).entry i = s.entry i := rfl
@[simp] theorem State.updReq_modelOf (h : Nat) (f : Req → Req) (i : Nat) : (s.updReq h f).modelOf i = s.modelOf i := rfl
@[simp] theorem State.updReq_adapter (h : Nat) (f : Req → Req) (i : Nat) : (s.updReq h f).adapter i = s.adapter i := rfl

/-! `updPrefix`. -/

@[simp] theorem State.updPrefix_pending (i : Nat) (f : Prefix → Prefix) : (s.updPrefix i f).pending = s.pending := rfl
@[simp] theorem State.updPrefix_free (i : Nat) (f : Prefix → Prefix) : (s.updPrefix i f).free = s.free := rfl
@[simp] theorem State.updPrefix_now (i : Nat) (f : Prefix → Prefix) : (s.updPrefix i f).now = s.now := rfl
@[simp] theorem State.updPrefix_time (i : Nat) (f : Prefix → Prefix) : (s.updPrefix i f).time = s.time := rfl
@[simp] theorem State.updPrefix_mem (i : Nat) (f : Prefix → Prefix) : (s.updPrefix i f).mem = s.mem := rfl
@[simp] theorem State.updPrefix_quads (i : Nat) (f : Prefix → Prefix) : (s.updPrefix i f).quads = s.quads := rfl
@[simp] theorem State.updPrefix_tiles (i : Nat) (f : Prefix → Prefix) : (s.updPrefix i f).tiles = s.tiles := rfl
@[simp] theorem State.updPrefix_blocks (i : Nat) (f : Prefix → Prefix) : (s.updPrefix i f).blocks = s.blocks := rfl
@[simp] theorem State.updPrefix_flights (i : Nat) (f : Prefix → Prefix) : (s.updPrefix i f).flights = s.flights := rfl
@[simp] theorem State.updPrefix_mail (i : Nat) (f : Prefix → Prefix) : (s.updPrefix i f).mail = s.mail := rfl
@[simp] theorem State.updPrefix_book (i : Nat) (f : Prefix → Prefix) : (s.updPrefix i f).book = s.book := rfl
@[simp] theorem State.updPrefix_slot (i : Nat) (f : Prefix → Prefix) : (s.updPrefix i f).slot = s.slot := rfl
@[simp] theorem State.updPrefix_engines (i : Nat) (f : Prefix → Prefix) : (s.updPrefix i f).engines = s.engines := rfl
@[simp] theorem State.updPrefix_fab (i : Nat) (f : Prefix → Prefix) : (s.updPrefix i f).fab = s.fab := rfl
@[simp] theorem State.updPrefix_hic (i : Nat) (f : Prefix → Prefix) : (s.updPrefix i f).hic = s.hic := rfl
@[simp] theorem State.updPrefix_cist (i : Nat) (f : Prefix → Prefix) : (s.updPrefix i f).cist = s.cist := rfl
@[simp] theorem State.updPrefix_les (i : Nat) (f : Prefix → Prefix) : (s.updPrefix i f).les = s.les := rfl
@[simp] theorem State.updPrefix_ges (i : Nat) (f : Prefix → Prefix) : (s.updPrefix i f).ges = s.ges := rfl
@[simp] theorem State.updPrefix_tables (i : Nat) (f : Prefix → Prefix) : (s.updPrefix i f).tables = s.tables := rfl
@[simp] theorem State.updPrefix_models (i : Nat) (f : Prefix → Prefix) : (s.updPrefix i f).models = s.models := rfl
@[simp] theorem State.updPrefix_adapters (i : Nat) (f : Prefix → Prefix) : (s.updPrefix i f).adapters = s.adapters := rfl
@[simp] theorem State.updPrefix_parcels (i : Nat) (f : Prefix → Prefix) : (s.updPrefix i f).parcels = s.parcels := rfl
@[simp] theorem State.updPrefix_sched (i : Nat) (f : Prefix → Prefix) : (s.updPrefix i f).sched = s.sched := rfl
@[simp] theorem State.updPrefix_arbs (i : Nat) (f : Prefix → Prefix) : (s.updPrefix i f).arbs = s.arbs := rfl
@[simp] theorem State.updPrefix_cores (i : Nat) (f : Prefix → Prefix) : (s.updPrefix i f).cores = s.cores := rfl
@[simp] theorem State.updPrefix_policies (i : Nat) (f : Prefix → Prefix) : (s.updPrefix i f).policies = s.policies := rfl
@[simp] theorem State.updPrefix_store (i : Nat) (f : Prefix → Prefix) : (s.updPrefix i f).store = s.store := rfl
@[simp] theorem State.updPrefix_power (i : Nat) (f : Prefix → Prefix) : (s.updPrefix i f).power = s.power := rfl
@[simp] theorem State.updPrefix_sec (i : Nat) (f : Prefix → Prefix) : (s.updPrefix i f).sec = s.sec := rfl
@[simp] theorem State.updPrefix_tile (j : Nat) (f : Prefix → Prefix) (i : Nat) : (s.updPrefix j f).tile i = s.tile i := rfl
@[simp] theorem State.updPrefix_block (j : Nat) (f : Prefix → Prefix) (i : Nat) : (s.updPrefix j f).block i = s.block i := rfl
@[simp] theorem State.updPrefix_plot (j : Nat) (f : Prefix → Prefix) (i : Nat) : (s.updPrefix j f).plot i = s.plot i := rfl
@[simp] theorem State.updPrefix_box (j : Nat) (f : Prefix → Prefix) (i : Nat) : (s.updPrefix j f).box i = s.box i := rfl
@[simp] theorem State.updPrefix_quad (j : Nat) (f : Prefix → Prefix) (i : Nat) : (s.updPrefix j f).quad i = s.quad i := rfl
@[simp] theorem State.updPrefix_engine (j : Nat) (f : Prefix → Prefix) (i : Nat) : (s.updPrefix j f).engine i = s.engine i := rfl
@[simp] theorem State.updPrefix_cistern (j : Nat) (f : Prefix → Prefix) (i : Nat) : (s.updPrefix j f).cistern i = s.cistern i := rfl
@[simp] theorem State.updPrefix_lateral (j : Nat) (f : Prefix → Prefix) (i : Nat) : (s.updPrefix j f).lateral i = s.lateral i := rfl
@[simp] theorem State.updPrefix_gatherEng (j : Nat) (f : Prefix → Prefix) (i : Nat) : (s.updPrefix j f).gatherEng i = s.gatherEng i := rfl
@[simp] theorem State.updPrefix_tableEnt (j : Nat) (f : Prefix → Prefix) (i : Nat) : (s.updPrefix j f).tableEnt i = s.tableEnt i := rfl
@[simp] theorem State.updPrefix_fport (j : Nat) (f : Prefix → Prefix) (i : Nat) : (s.updPrefix j f).fport i = s.fport i := rfl
@[simp] theorem State.updPrefix_core (j : Nat) (f : Prefix → Prefix) (i : Nat) : (s.updPrefix j f).core i = s.core i := rfl
@[simp] theorem State.updPrefix_arb (j : Nat) (f : Prefix → Prefix) (i : Nat) : (s.updPrefix j f).arb i = s.arb i := rfl
@[simp] theorem State.updPrefix_policy (j : Nat) (f : Prefix → Prefix) (i : Nat) : (s.updPrefix j f).policy i = s.policy i := rfl
@[simp] theorem State.updPrefix_parcel (j : Nat) (f : Prefix → Prefix) (i : Nat) : (s.updPrefix j f).parcel i = s.parcel i := rfl
@[simp] theorem State.updPrefix_entry (j : Nat) (f : Prefix → Prefix) (i : Nat) : (s.updPrefix j f).entry i = s.entry i := rfl
@[simp] theorem State.updPrefix_modelOf (j : Nat) (f : Prefix → Prefix) (i : Nat) : (s.updPrefix j f).modelOf i = s.modelOf i := rfl
@[simp] theorem State.updPrefix_adapter (j : Nat) (f : Prefix → Prefix) (i : Nat) : (s.updPrefix j f).adapter i = s.adapter i := rfl

/-! `updParcel`. -/

@[simp] theorem State.updParcel_pending (k : Nat) (f : Parcel → Parcel) : (s.updParcel k f).pending = s.pending := rfl
@[simp] theorem State.updParcel_free (k : Nat) (f : Parcel → Parcel) : (s.updParcel k f).free = s.free := rfl
@[simp] theorem State.updParcel_now (k : Nat) (f : Parcel → Parcel) : (s.updParcel k f).now = s.now := rfl
@[simp] theorem State.updParcel_time (k : Nat) (f : Parcel → Parcel) : (s.updParcel k f).time = s.time := rfl
@[simp] theorem State.updParcel_mem (k : Nat) (f : Parcel → Parcel) : (s.updParcel k f).mem = s.mem := rfl
@[simp] theorem State.updParcel_quads (k : Nat) (f : Parcel → Parcel) : (s.updParcel k f).quads = s.quads := rfl
@[simp] theorem State.updParcel_tiles (k : Nat) (f : Parcel → Parcel) : (s.updParcel k f).tiles = s.tiles := rfl
@[simp] theorem State.updParcel_blocks (k : Nat) (f : Parcel → Parcel) : (s.updParcel k f).blocks = s.blocks := rfl
@[simp] theorem State.updParcel_flights (k : Nat) (f : Parcel → Parcel) : (s.updParcel k f).flights = s.flights := rfl
@[simp] theorem State.updParcel_mail (k : Nat) (f : Parcel → Parcel) : (s.updParcel k f).mail = s.mail := rfl
@[simp] theorem State.updParcel_book (k : Nat) (f : Parcel → Parcel) : (s.updParcel k f).book = s.book := rfl
@[simp] theorem State.updParcel_slot (k : Nat) (f : Parcel → Parcel) : (s.updParcel k f).slot = s.slot := rfl
@[simp] theorem State.updParcel_engines (k : Nat) (f : Parcel → Parcel) : (s.updParcel k f).engines = s.engines := rfl
@[simp] theorem State.updParcel_fab (k : Nat) (f : Parcel → Parcel) : (s.updParcel k f).fab = s.fab := rfl
@[simp] theorem State.updParcel_hic (k : Nat) (f : Parcel → Parcel) : (s.updParcel k f).hic = s.hic := rfl
@[simp] theorem State.updParcel_cist (k : Nat) (f : Parcel → Parcel) : (s.updParcel k f).cist = s.cist := rfl
@[simp] theorem State.updParcel_les (k : Nat) (f : Parcel → Parcel) : (s.updParcel k f).les = s.les := rfl
@[simp] theorem State.updParcel_ges (k : Nat) (f : Parcel → Parcel) : (s.updParcel k f).ges = s.ges := rfl
@[simp] theorem State.updParcel_tables (k : Nat) (f : Parcel → Parcel) : (s.updParcel k f).tables = s.tables := rfl
@[simp] theorem State.updParcel_models (k : Nat) (f : Parcel → Parcel) : (s.updParcel k f).models = s.models := rfl
@[simp] theorem State.updParcel_adapters (k : Nat) (f : Parcel → Parcel) : (s.updParcel k f).adapters = s.adapters := rfl
@[simp] theorem State.updParcel_serve (k : Nat) (f : Parcel → Parcel) : (s.updParcel k f).serve = s.serve := rfl
@[simp] theorem State.updParcel_sched (k : Nat) (f : Parcel → Parcel) : (s.updParcel k f).sched = s.sched := rfl
@[simp] theorem State.updParcel_arbs (k : Nat) (f : Parcel → Parcel) : (s.updParcel k f).arbs = s.arbs := rfl
@[simp] theorem State.updParcel_cores (k : Nat) (f : Parcel → Parcel) : (s.updParcel k f).cores = s.cores := rfl
@[simp] theorem State.updParcel_policies (k : Nat) (f : Parcel → Parcel) : (s.updParcel k f).policies = s.policies := rfl
@[simp] theorem State.updParcel_store (k : Nat) (f : Parcel → Parcel) : (s.updParcel k f).store = s.store := rfl
@[simp] theorem State.updParcel_power (k : Nat) (f : Parcel → Parcel) : (s.updParcel k f).power = s.power := rfl
@[simp] theorem State.updParcel_sec (k : Nat) (f : Parcel → Parcel) : (s.updParcel k f).sec = s.sec := rfl
@[simp] theorem State.updParcel_tile (k : Nat) (f : Parcel → Parcel) (i : Nat) : (s.updParcel k f).tile i = s.tile i := rfl
@[simp] theorem State.updParcel_block (k : Nat) (f : Parcel → Parcel) (i : Nat) : (s.updParcel k f).block i = s.block i := rfl
@[simp] theorem State.updParcel_plot (k : Nat) (f : Parcel → Parcel) (i : Nat) : (s.updParcel k f).plot i = s.plot i := rfl
@[simp] theorem State.updParcel_box (k : Nat) (f : Parcel → Parcel) (i : Nat) : (s.updParcel k f).box i = s.box i := rfl
@[simp] theorem State.updParcel_quad (k : Nat) (f : Parcel → Parcel) (i : Nat) : (s.updParcel k f).quad i = s.quad i := rfl
@[simp] theorem State.updParcel_engine (k : Nat) (f : Parcel → Parcel) (i : Nat) : (s.updParcel k f).engine i = s.engine i := rfl
@[simp] theorem State.updParcel_cistern (k : Nat) (f : Parcel → Parcel) (i : Nat) : (s.updParcel k f).cistern i = s.cistern i := rfl
@[simp] theorem State.updParcel_lateral (k : Nat) (f : Parcel → Parcel) (i : Nat) : (s.updParcel k f).lateral i = s.lateral i := rfl
@[simp] theorem State.updParcel_gatherEng (k : Nat) (f : Parcel → Parcel) (i : Nat) : (s.updParcel k f).gatherEng i = s.gatherEng i := rfl
@[simp] theorem State.updParcel_tableEnt (k : Nat) (f : Parcel → Parcel) (i : Nat) : (s.updParcel k f).tableEnt i = s.tableEnt i := rfl
@[simp] theorem State.updParcel_fport (k : Nat) (f : Parcel → Parcel) (i : Nat) : (s.updParcel k f).fport i = s.fport i := rfl
@[simp] theorem State.updParcel_core (k : Nat) (f : Parcel → Parcel) (i : Nat) : (s.updParcel k f).core i = s.core i := rfl
@[simp] theorem State.updParcel_arb (k : Nat) (f : Parcel → Parcel) (i : Nat) : (s.updParcel k f).arb i = s.arb i := rfl
@[simp] theorem State.updParcel_policy (k : Nat) (f : Parcel → Parcel) (i : Nat) : (s.updParcel k f).policy i = s.policy i := rfl
@[simp] theorem State.updParcel_ring (k : Nat) (f : Parcel → Parcel) (i : Nat) : (s.updParcel k f).ring i = s.ring i := rfl
@[simp] theorem State.updParcel_req (k : Nat) (f : Parcel → Parcel) (i : Nat) : (s.updParcel k f).req i = s.req i := rfl
@[simp] theorem State.updParcel_prefixAt (k : Nat) (f : Parcel → Parcel) (i : Nat) : (s.updParcel k f).prefixAt i = s.prefixAt i := rfl
@[simp] theorem State.updParcel_entry (k : Nat) (f : Parcel → Parcel) (i : Nat) : (s.updParcel k f).entry i = s.entry i := rfl
@[simp] theorem State.updParcel_modelOf (k : Nat) (f : Parcel → Parcel) (i : Nat) : (s.updParcel k f).modelOf i = s.modelOf i := rfl
@[simp] theorem State.updParcel_adapter (k : Nat) (f : Parcel → Parcel) (i : Nat) : (s.updParcel k f).adapter i = s.adapter i := rfl

/-! `updEntry`. -/

@[simp] theorem State.updEntry_pending (i : Nat) (f : Model → Model) : (s.updEntry i f).pending = s.pending := rfl
@[simp] theorem State.updEntry_free (i : Nat) (f : Model → Model) : (s.updEntry i f).free = s.free := rfl
@[simp] theorem State.updEntry_now (i : Nat) (f : Model → Model) : (s.updEntry i f).now = s.now := rfl
@[simp] theorem State.updEntry_time (i : Nat) (f : Model → Model) : (s.updEntry i f).time = s.time := rfl
@[simp] theorem State.updEntry_mem (i : Nat) (f : Model → Model) : (s.updEntry i f).mem = s.mem := rfl
@[simp] theorem State.updEntry_quads (i : Nat) (f : Model → Model) : (s.updEntry i f).quads = s.quads := rfl
@[simp] theorem State.updEntry_tiles (i : Nat) (f : Model → Model) : (s.updEntry i f).tiles = s.tiles := rfl
@[simp] theorem State.updEntry_blocks (i : Nat) (f : Model → Model) : (s.updEntry i f).blocks = s.blocks := rfl
@[simp] theorem State.updEntry_flights (i : Nat) (f : Model → Model) : (s.updEntry i f).flights = s.flights := rfl
@[simp] theorem State.updEntry_mail (i : Nat) (f : Model → Model) : (s.updEntry i f).mail = s.mail := rfl
@[simp] theorem State.updEntry_book (i : Nat) (f : Model → Model) : (s.updEntry i f).book = s.book := rfl
@[simp] theorem State.updEntry_slot (i : Nat) (f : Model → Model) : (s.updEntry i f).slot = s.slot := rfl
@[simp] theorem State.updEntry_engines (i : Nat) (f : Model → Model) : (s.updEntry i f).engines = s.engines := rfl
@[simp] theorem State.updEntry_fab (i : Nat) (f : Model → Model) : (s.updEntry i f).fab = s.fab := rfl
@[simp] theorem State.updEntry_hic (i : Nat) (f : Model → Model) : (s.updEntry i f).hic = s.hic := rfl
@[simp] theorem State.updEntry_cist (i : Nat) (f : Model → Model) : (s.updEntry i f).cist = s.cist := rfl
@[simp] theorem State.updEntry_les (i : Nat) (f : Model → Model) : (s.updEntry i f).les = s.les := rfl
@[simp] theorem State.updEntry_ges (i : Nat) (f : Model → Model) : (s.updEntry i f).ges = s.ges := rfl
@[simp] theorem State.updEntry_tables (i : Nat) (f : Model → Model) : (s.updEntry i f).tables = s.tables := rfl
@[simp] theorem State.updEntry_adapters (i : Nat) (f : Model → Model) : (s.updEntry i f).adapters = s.adapters := rfl
@[simp] theorem State.updEntry_serve (i : Nat) (f : Model → Model) : (s.updEntry i f).serve = s.serve := rfl
@[simp] theorem State.updEntry_parcels (i : Nat) (f : Model → Model) : (s.updEntry i f).parcels = s.parcels := rfl
@[simp] theorem State.updEntry_sched (i : Nat) (f : Model → Model) : (s.updEntry i f).sched = s.sched := rfl
@[simp] theorem State.updEntry_arbs (i : Nat) (f : Model → Model) : (s.updEntry i f).arbs = s.arbs := rfl
@[simp] theorem State.updEntry_cores (i : Nat) (f : Model → Model) : (s.updEntry i f).cores = s.cores := rfl
@[simp] theorem State.updEntry_policies (i : Nat) (f : Model → Model) : (s.updEntry i f).policies = s.policies := rfl
@[simp] theorem State.updEntry_store (i : Nat) (f : Model → Model) : (s.updEntry i f).store = s.store := rfl
@[simp] theorem State.updEntry_power (i : Nat) (f : Model → Model) : (s.updEntry i f).power = s.power := rfl
@[simp] theorem State.updEntry_sec (i : Nat) (f : Model → Model) : (s.updEntry i f).sec = s.sec := rfl
@[simp] theorem State.updEntry_tile (j : Nat) (f : Model → Model) (i : Nat) : (s.updEntry j f).tile i = s.tile i := rfl
@[simp] theorem State.updEntry_block (j : Nat) (f : Model → Model) (i : Nat) : (s.updEntry j f).block i = s.block i := rfl
@[simp] theorem State.updEntry_plot (j : Nat) (f : Model → Model) (i : Nat) : (s.updEntry j f).plot i = s.plot i := rfl
@[simp] theorem State.updEntry_box (j : Nat) (f : Model → Model) (i : Nat) : (s.updEntry j f).box i = s.box i := rfl
@[simp] theorem State.updEntry_quad (j : Nat) (f : Model → Model) (i : Nat) : (s.updEntry j f).quad i = s.quad i := rfl
@[simp] theorem State.updEntry_engine (j : Nat) (f : Model → Model) (i : Nat) : (s.updEntry j f).engine i = s.engine i := rfl
@[simp] theorem State.updEntry_cistern (j : Nat) (f : Model → Model) (i : Nat) : (s.updEntry j f).cistern i = s.cistern i := rfl
@[simp] theorem State.updEntry_lateral (j : Nat) (f : Model → Model) (i : Nat) : (s.updEntry j f).lateral i = s.lateral i := rfl
@[simp] theorem State.updEntry_gatherEng (j : Nat) (f : Model → Model) (i : Nat) : (s.updEntry j f).gatherEng i = s.gatherEng i := rfl
@[simp] theorem State.updEntry_tableEnt (j : Nat) (f : Model → Model) (i : Nat) : (s.updEntry j f).tableEnt i = s.tableEnt i := rfl
@[simp] theorem State.updEntry_fport (j : Nat) (f : Model → Model) (i : Nat) : (s.updEntry j f).fport i = s.fport i := rfl
@[simp] theorem State.updEntry_core (j : Nat) (f : Model → Model) (i : Nat) : (s.updEntry j f).core i = s.core i := rfl
@[simp] theorem State.updEntry_arb (j : Nat) (f : Model → Model) (i : Nat) : (s.updEntry j f).arb i = s.arb i := rfl
@[simp] theorem State.updEntry_policy (j : Nat) (f : Model → Model) (i : Nat) : (s.updEntry j f).policy i = s.policy i := rfl
@[simp] theorem State.updEntry_ring (j : Nat) (f : Model → Model) (i : Nat) : (s.updEntry j f).ring i = s.ring i := rfl
@[simp] theorem State.updEntry_req (j : Nat) (f : Model → Model) (i : Nat) : (s.updEntry j f).req i = s.req i := rfl
@[simp] theorem State.updEntry_prefixAt (j : Nat) (f : Model → Model) (i : Nat) : (s.updEntry j f).prefixAt i = s.prefixAt i := rfl
@[simp] theorem State.updEntry_parcel (j : Nat) (f : Model → Model) (i : Nat) : (s.updEntry j f).parcel i = s.parcel i := rfl
@[simp] theorem State.updEntry_adapter (j : Nat) (f : Model → Model) (i : Nat) : (s.updEntry j f).adapter i = s.adapter i := rfl

/-! `updModel`. -/

@[simp] theorem State.updModel_pending (id : Nat) (f : Model → Model) : (s.updModel id f).pending = s.pending := rfl
@[simp] theorem State.updModel_free (id : Nat) (f : Model → Model) : (s.updModel id f).free = s.free := rfl
@[simp] theorem State.updModel_now (id : Nat) (f : Model → Model) : (s.updModel id f).now = s.now := rfl
@[simp] theorem State.updModel_time (id : Nat) (f : Model → Model) : (s.updModel id f).time = s.time := rfl
@[simp] theorem State.updModel_mem (id : Nat) (f : Model → Model) : (s.updModel id f).mem = s.mem := rfl
@[simp] theorem State.updModel_quads (id : Nat) (f : Model → Model) : (s.updModel id f).quads = s.quads := rfl
@[simp] theorem State.updModel_tiles (id : Nat) (f : Model → Model) : (s.updModel id f).tiles = s.tiles := rfl
@[simp] theorem State.updModel_blocks (id : Nat) (f : Model → Model) : (s.updModel id f).blocks = s.blocks := rfl
@[simp] theorem State.updModel_flights (id : Nat) (f : Model → Model) : (s.updModel id f).flights = s.flights := rfl
@[simp] theorem State.updModel_mail (id : Nat) (f : Model → Model) : (s.updModel id f).mail = s.mail := rfl
@[simp] theorem State.updModel_book (id : Nat) (f : Model → Model) : (s.updModel id f).book = s.book := rfl
@[simp] theorem State.updModel_slot (id : Nat) (f : Model → Model) : (s.updModel id f).slot = s.slot := rfl
@[simp] theorem State.updModel_engines (id : Nat) (f : Model → Model) : (s.updModel id f).engines = s.engines := rfl
@[simp] theorem State.updModel_fab (id : Nat) (f : Model → Model) : (s.updModel id f).fab = s.fab := rfl
@[simp] theorem State.updModel_hic (id : Nat) (f : Model → Model) : (s.updModel id f).hic = s.hic := rfl
@[simp] theorem State.updModel_cist (id : Nat) (f : Model → Model) : (s.updModel id f).cist = s.cist := rfl
@[simp] theorem State.updModel_les (id : Nat) (f : Model → Model) : (s.updModel id f).les = s.les := rfl
@[simp] theorem State.updModel_ges (id : Nat) (f : Model → Model) : (s.updModel id f).ges = s.ges := rfl
@[simp] theorem State.updModel_tables (id : Nat) (f : Model → Model) : (s.updModel id f).tables = s.tables := rfl
@[simp] theorem State.updModel_adapters (id : Nat) (f : Model → Model) : (s.updModel id f).adapters = s.adapters := rfl
@[simp] theorem State.updModel_serve (id : Nat) (f : Model → Model) : (s.updModel id f).serve = s.serve := rfl
@[simp] theorem State.updModel_parcels (id : Nat) (f : Model → Model) : (s.updModel id f).parcels = s.parcels := rfl
@[simp] theorem State.updModel_sched (id : Nat) (f : Model → Model) : (s.updModel id f).sched = s.sched := rfl
@[simp] theorem State.updModel_arbs (id : Nat) (f : Model → Model) : (s.updModel id f).arbs = s.arbs := rfl
@[simp] theorem State.updModel_cores (id : Nat) (f : Model → Model) : (s.updModel id f).cores = s.cores := rfl
@[simp] theorem State.updModel_policies (id : Nat) (f : Model → Model) : (s.updModel id f).policies = s.policies := rfl
@[simp] theorem State.updModel_store (id : Nat) (f : Model → Model) : (s.updModel id f).store = s.store := rfl
@[simp] theorem State.updModel_power (id : Nat) (f : Model → Model) : (s.updModel id f).power = s.power := rfl
@[simp] theorem State.updModel_sec (id : Nat) (f : Model → Model) : (s.updModel id f).sec = s.sec := rfl
@[simp] theorem State.updModel_tile (id : Nat) (f : Model → Model) (i : Nat) : (s.updModel id f).tile i = s.tile i := rfl
@[simp] theorem State.updModel_block (id : Nat) (f : Model → Model) (i : Nat) : (s.updModel id f).block i = s.block i := rfl
@[simp] theorem State.updModel_plot (id : Nat) (f : Model → Model) (i : Nat) : (s.updModel id f).plot i = s.plot i := rfl
@[simp] theorem State.updModel_box (id : Nat) (f : Model → Model) (i : Nat) : (s.updModel id f).box i = s.box i := rfl
@[simp] theorem State.updModel_quad (id : Nat) (f : Model → Model) (i : Nat) : (s.updModel id f).quad i = s.quad i := rfl
@[simp] theorem State.updModel_engine (id : Nat) (f : Model → Model) (i : Nat) : (s.updModel id f).engine i = s.engine i := rfl
@[simp] theorem State.updModel_cistern (id : Nat) (f : Model → Model) (i : Nat) : (s.updModel id f).cistern i = s.cistern i := rfl
@[simp] theorem State.updModel_lateral (id : Nat) (f : Model → Model) (i : Nat) : (s.updModel id f).lateral i = s.lateral i := rfl
@[simp] theorem State.updModel_gatherEng (id : Nat) (f : Model → Model) (i : Nat) : (s.updModel id f).gatherEng i = s.gatherEng i := rfl
@[simp] theorem State.updModel_tableEnt (id : Nat) (f : Model → Model) (i : Nat) : (s.updModel id f).tableEnt i = s.tableEnt i := rfl
@[simp] theorem State.updModel_fport (id : Nat) (f : Model → Model) (i : Nat) : (s.updModel id f).fport i = s.fport i := rfl
@[simp] theorem State.updModel_core (id : Nat) (f : Model → Model) (i : Nat) : (s.updModel id f).core i = s.core i := rfl
@[simp] theorem State.updModel_arb (id : Nat) (f : Model → Model) (i : Nat) : (s.updModel id f).arb i = s.arb i := rfl
@[simp] theorem State.updModel_policy (id : Nat) (f : Model → Model) (i : Nat) : (s.updModel id f).policy i = s.policy i := rfl
@[simp] theorem State.updModel_ring (id : Nat) (f : Model → Model) (i : Nat) : (s.updModel id f).ring i = s.ring i := rfl
@[simp] theorem State.updModel_req (id : Nat) (f : Model → Model) (i : Nat) : (s.updModel id f).req i = s.req i := rfl
@[simp] theorem State.updModel_prefixAt (id : Nat) (f : Model → Model) (i : Nat) : (s.updModel id f).prefixAt i = s.prefixAt i := rfl
@[simp] theorem State.updModel_parcel (id : Nat) (f : Model → Model) (i : Nat) : (s.updModel id f).parcel i = s.parcel i := rfl
@[simp] theorem State.updModel_adapter (id : Nat) (f : Model → Model) (i : Nat) : (s.updModel id f).adapter i = s.adapter i := rfl

/-! `updAdapter`. -/

@[simp] theorem State.updAdapter_pending (i : Nat) (f : Adapter → Adapter) : (s.updAdapter i f).pending = s.pending := rfl
@[simp] theorem State.updAdapter_free (i : Nat) (f : Adapter → Adapter) : (s.updAdapter i f).free = s.free := rfl
@[simp] theorem State.updAdapter_now (i : Nat) (f : Adapter → Adapter) : (s.updAdapter i f).now = s.now := rfl
@[simp] theorem State.updAdapter_time (i : Nat) (f : Adapter → Adapter) : (s.updAdapter i f).time = s.time := rfl
@[simp] theorem State.updAdapter_mem (i : Nat) (f : Adapter → Adapter) : (s.updAdapter i f).mem = s.mem := rfl
@[simp] theorem State.updAdapter_quads (i : Nat) (f : Adapter → Adapter) : (s.updAdapter i f).quads = s.quads := rfl
@[simp] theorem State.updAdapter_tiles (i : Nat) (f : Adapter → Adapter) : (s.updAdapter i f).tiles = s.tiles := rfl
@[simp] theorem State.updAdapter_blocks (i : Nat) (f : Adapter → Adapter) : (s.updAdapter i f).blocks = s.blocks := rfl
@[simp] theorem State.updAdapter_flights (i : Nat) (f : Adapter → Adapter) : (s.updAdapter i f).flights = s.flights := rfl
@[simp] theorem State.updAdapter_mail (i : Nat) (f : Adapter → Adapter) : (s.updAdapter i f).mail = s.mail := rfl
@[simp] theorem State.updAdapter_book (i : Nat) (f : Adapter → Adapter) : (s.updAdapter i f).book = s.book := rfl
@[simp] theorem State.updAdapter_slot (i : Nat) (f : Adapter → Adapter) : (s.updAdapter i f).slot = s.slot := rfl
@[simp] theorem State.updAdapter_engines (i : Nat) (f : Adapter → Adapter) : (s.updAdapter i f).engines = s.engines := rfl
@[simp] theorem State.updAdapter_fab (i : Nat) (f : Adapter → Adapter) : (s.updAdapter i f).fab = s.fab := rfl
@[simp] theorem State.updAdapter_hic (i : Nat) (f : Adapter → Adapter) : (s.updAdapter i f).hic = s.hic := rfl
@[simp] theorem State.updAdapter_cist (i : Nat) (f : Adapter → Adapter) : (s.updAdapter i f).cist = s.cist := rfl
@[simp] theorem State.updAdapter_les (i : Nat) (f : Adapter → Adapter) : (s.updAdapter i f).les = s.les := rfl
@[simp] theorem State.updAdapter_ges (i : Nat) (f : Adapter → Adapter) : (s.updAdapter i f).ges = s.ges := rfl
@[simp] theorem State.updAdapter_tables (i : Nat) (f : Adapter → Adapter) : (s.updAdapter i f).tables = s.tables := rfl
@[simp] theorem State.updAdapter_models (i : Nat) (f : Adapter → Adapter) : (s.updAdapter i f).models = s.models := rfl
@[simp] theorem State.updAdapter_serve (i : Nat) (f : Adapter → Adapter) : (s.updAdapter i f).serve = s.serve := rfl
@[simp] theorem State.updAdapter_parcels (i : Nat) (f : Adapter → Adapter) : (s.updAdapter i f).parcels = s.parcels := rfl
@[simp] theorem State.updAdapter_sched (i : Nat) (f : Adapter → Adapter) : (s.updAdapter i f).sched = s.sched := rfl
@[simp] theorem State.updAdapter_arbs (i : Nat) (f : Adapter → Adapter) : (s.updAdapter i f).arbs = s.arbs := rfl
@[simp] theorem State.updAdapter_cores (i : Nat) (f : Adapter → Adapter) : (s.updAdapter i f).cores = s.cores := rfl
@[simp] theorem State.updAdapter_policies (i : Nat) (f : Adapter → Adapter) : (s.updAdapter i f).policies = s.policies := rfl
@[simp] theorem State.updAdapter_store (i : Nat) (f : Adapter → Adapter) : (s.updAdapter i f).store = s.store := rfl
@[simp] theorem State.updAdapter_power (i : Nat) (f : Adapter → Adapter) : (s.updAdapter i f).power = s.power := rfl
@[simp] theorem State.updAdapter_sec (i : Nat) (f : Adapter → Adapter) : (s.updAdapter i f).sec = s.sec := rfl
@[simp] theorem State.updAdapter_tile (j : Nat) (f : Adapter → Adapter) (i : Nat) : (s.updAdapter j f).tile i = s.tile i := rfl
@[simp] theorem State.updAdapter_block (j : Nat) (f : Adapter → Adapter) (i : Nat) : (s.updAdapter j f).block i = s.block i := rfl
@[simp] theorem State.updAdapter_plot (j : Nat) (f : Adapter → Adapter) (i : Nat) : (s.updAdapter j f).plot i = s.plot i := rfl
@[simp] theorem State.updAdapter_box (j : Nat) (f : Adapter → Adapter) (i : Nat) : (s.updAdapter j f).box i = s.box i := rfl
@[simp] theorem State.updAdapter_quad (j : Nat) (f : Adapter → Adapter) (i : Nat) : (s.updAdapter j f).quad i = s.quad i := rfl
@[simp] theorem State.updAdapter_engine (j : Nat) (f : Adapter → Adapter) (i : Nat) : (s.updAdapter j f).engine i = s.engine i := rfl
@[simp] theorem State.updAdapter_cistern (j : Nat) (f : Adapter → Adapter) (i : Nat) : (s.updAdapter j f).cistern i = s.cistern i := rfl
@[simp] theorem State.updAdapter_lateral (j : Nat) (f : Adapter → Adapter) (i : Nat) : (s.updAdapter j f).lateral i = s.lateral i := rfl
@[simp] theorem State.updAdapter_gatherEng (j : Nat) (f : Adapter → Adapter) (i : Nat) : (s.updAdapter j f).gatherEng i = s.gatherEng i := rfl
@[simp] theorem State.updAdapter_tableEnt (j : Nat) (f : Adapter → Adapter) (i : Nat) : (s.updAdapter j f).tableEnt i = s.tableEnt i := rfl
@[simp] theorem State.updAdapter_fport (j : Nat) (f : Adapter → Adapter) (i : Nat) : (s.updAdapter j f).fport i = s.fport i := rfl
@[simp] theorem State.updAdapter_core (j : Nat) (f : Adapter → Adapter) (i : Nat) : (s.updAdapter j f).core i = s.core i := rfl
@[simp] theorem State.updAdapter_arb (j : Nat) (f : Adapter → Adapter) (i : Nat) : (s.updAdapter j f).arb i = s.arb i := rfl
@[simp] theorem State.updAdapter_policy (j : Nat) (f : Adapter → Adapter) (i : Nat) : (s.updAdapter j f).policy i = s.policy i := rfl
@[simp] theorem State.updAdapter_ring (j : Nat) (f : Adapter → Adapter) (i : Nat) : (s.updAdapter j f).ring i = s.ring i := rfl
@[simp] theorem State.updAdapter_req (j : Nat) (f : Adapter → Adapter) (i : Nat) : (s.updAdapter j f).req i = s.req i := rfl
@[simp] theorem State.updAdapter_prefixAt (j : Nat) (f : Adapter → Adapter) (i : Nat) : (s.updAdapter j f).prefixAt i = s.prefixAt i := rfl
@[simp] theorem State.updAdapter_parcel (j : Nat) (f : Adapter → Adapter) (i : Nat) : (s.updAdapter j f).parcel i = s.parcel i := rfl
@[simp] theorem State.updAdapter_entry (j : Nat) (f : Adapter → Adapter) (i : Nat) : (s.updAdapter j f).entry i = s.entry i := rfl
@[simp] theorem State.updAdapter_modelOf (j : Nat) (f : Adapter → Adapter) (i : Nat) : (s.updAdapter j f).modelOf i = s.modelOf i := rfl

/-! `updPower`. -/

@[simp] theorem State.updPower_pending (f : Power → Power) : (s.updPower f).pending = s.pending := rfl
@[simp] theorem State.updPower_free (f : Power → Power) : (s.updPower f).free = s.free := rfl
@[simp] theorem State.updPower_now (f : Power → Power) : (s.updPower f).now = s.now := rfl
@[simp] theorem State.updPower_time (f : Power → Power) : (s.updPower f).time = s.time := rfl
@[simp] theorem State.updPower_mem (f : Power → Power) : (s.updPower f).mem = s.mem := rfl
@[simp] theorem State.updPower_quads (f : Power → Power) : (s.updPower f).quads = s.quads := rfl
@[simp] theorem State.updPower_tiles (f : Power → Power) : (s.updPower f).tiles = s.tiles := rfl
@[simp] theorem State.updPower_blocks (f : Power → Power) : (s.updPower f).blocks = s.blocks := rfl
@[simp] theorem State.updPower_flights (f : Power → Power) : (s.updPower f).flights = s.flights := rfl
@[simp] theorem State.updPower_mail (f : Power → Power) : (s.updPower f).mail = s.mail := rfl
@[simp] theorem State.updPower_book (f : Power → Power) : (s.updPower f).book = s.book := rfl
@[simp] theorem State.updPower_slot (f : Power → Power) : (s.updPower f).slot = s.slot := rfl
@[simp] theorem State.updPower_engines (f : Power → Power) : (s.updPower f).engines = s.engines := rfl
@[simp] theorem State.updPower_fab (f : Power → Power) : (s.updPower f).fab = s.fab := rfl
@[simp] theorem State.updPower_hic (f : Power → Power) : (s.updPower f).hic = s.hic := rfl
@[simp] theorem State.updPower_cist (f : Power → Power) : (s.updPower f).cist = s.cist := rfl
@[simp] theorem State.updPower_les (f : Power → Power) : (s.updPower f).les = s.les := rfl
@[simp] theorem State.updPower_ges (f : Power → Power) : (s.updPower f).ges = s.ges := rfl
@[simp] theorem State.updPower_tables (f : Power → Power) : (s.updPower f).tables = s.tables := rfl
@[simp] theorem State.updPower_models (f : Power → Power) : (s.updPower f).models = s.models := rfl
@[simp] theorem State.updPower_adapters (f : Power → Power) : (s.updPower f).adapters = s.adapters := rfl
@[simp] theorem State.updPower_serve (f : Power → Power) : (s.updPower f).serve = s.serve := rfl
@[simp] theorem State.updPower_parcels (f : Power → Power) : (s.updPower f).parcels = s.parcels := rfl
@[simp] theorem State.updPower_sched (f : Power → Power) : (s.updPower f).sched = s.sched := rfl
@[simp] theorem State.updPower_arbs (f : Power → Power) : (s.updPower f).arbs = s.arbs := rfl
@[simp] theorem State.updPower_cores (f : Power → Power) : (s.updPower f).cores = s.cores := rfl
@[simp] theorem State.updPower_policies (f : Power → Power) : (s.updPower f).policies = s.policies := rfl
@[simp] theorem State.updPower_store (f : Power → Power) : (s.updPower f).store = s.store := rfl
@[simp] theorem State.updPower_sec (f : Power → Power) : (s.updPower f).sec = s.sec := rfl
@[simp] theorem State.updPower_tile (f : Power → Power) (i : Nat) : (s.updPower f).tile i = s.tile i := rfl
@[simp] theorem State.updPower_block (f : Power → Power) (i : Nat) : (s.updPower f).block i = s.block i := rfl
@[simp] theorem State.updPower_plot (f : Power → Power) (i : Nat) : (s.updPower f).plot i = s.plot i := rfl
@[simp] theorem State.updPower_box (f : Power → Power) (i : Nat) : (s.updPower f).box i = s.box i := rfl
@[simp] theorem State.updPower_quad (f : Power → Power) (i : Nat) : (s.updPower f).quad i = s.quad i := rfl
@[simp] theorem State.updPower_engine (f : Power → Power) (i : Nat) : (s.updPower f).engine i = s.engine i := rfl
@[simp] theorem State.updPower_cistern (f : Power → Power) (i : Nat) : (s.updPower f).cistern i = s.cistern i := rfl
@[simp] theorem State.updPower_lateral (f : Power → Power) (i : Nat) : (s.updPower f).lateral i = s.lateral i := rfl
@[simp] theorem State.updPower_gatherEng (f : Power → Power) (i : Nat) : (s.updPower f).gatherEng i = s.gatherEng i := rfl
@[simp] theorem State.updPower_tableEnt (f : Power → Power) (i : Nat) : (s.updPower f).tableEnt i = s.tableEnt i := rfl
@[simp] theorem State.updPower_fport (f : Power → Power) (i : Nat) : (s.updPower f).fport i = s.fport i := rfl
@[simp] theorem State.updPower_core (f : Power → Power) (i : Nat) : (s.updPower f).core i = s.core i := rfl
@[simp] theorem State.updPower_arb (f : Power → Power) (i : Nat) : (s.updPower f).arb i = s.arb i := rfl
@[simp] theorem State.updPower_policy (f : Power → Power) (i : Nat) : (s.updPower f).policy i = s.policy i := rfl
@[simp] theorem State.updPower_ring (f : Power → Power) (i : Nat) : (s.updPower f).ring i = s.ring i := rfl
@[simp] theorem State.updPower_req (f : Power → Power) (i : Nat) : (s.updPower f).req i = s.req i := rfl
@[simp] theorem State.updPower_prefixAt (f : Power → Power) (i : Nat) : (s.updPower f).prefixAt i = s.prefixAt i := rfl
@[simp] theorem State.updPower_parcel (f : Power → Power) (i : Nat) : (s.updPower f).parcel i = s.parcel i := rfl
@[simp] theorem State.updPower_entry (f : Power → Power) (i : Nat) : (s.updPower f).entry i = s.entry i := rfl
@[simp] theorem State.updPower_modelOf (f : Power → Power) (i : Nat) : (s.updPower f).modelOf i = s.modelOf i := rfl
@[simp] theorem State.updPower_adapter (f : Power → Power) (i : Nat) : (s.updPower f).adapter i = s.adapter i := rfl

/-! `updSec`. -/

@[simp] theorem State.updSec_pending (f : Sec → Sec) : (s.updSec f).pending = s.pending := rfl
@[simp] theorem State.updSec_free (f : Sec → Sec) : (s.updSec f).free = s.free := rfl
@[simp] theorem State.updSec_now (f : Sec → Sec) : (s.updSec f).now = s.now := rfl
@[simp] theorem State.updSec_time (f : Sec → Sec) : (s.updSec f).time = s.time := rfl
@[simp] theorem State.updSec_mem (f : Sec → Sec) : (s.updSec f).mem = s.mem := rfl
@[simp] theorem State.updSec_quads (f : Sec → Sec) : (s.updSec f).quads = s.quads := rfl
@[simp] theorem State.updSec_tiles (f : Sec → Sec) : (s.updSec f).tiles = s.tiles := rfl
@[simp] theorem State.updSec_blocks (f : Sec → Sec) : (s.updSec f).blocks = s.blocks := rfl
@[simp] theorem State.updSec_flights (f : Sec → Sec) : (s.updSec f).flights = s.flights := rfl
@[simp] theorem State.updSec_mail (f : Sec → Sec) : (s.updSec f).mail = s.mail := rfl
@[simp] theorem State.updSec_book (f : Sec → Sec) : (s.updSec f).book = s.book := rfl
@[simp] theorem State.updSec_slot (f : Sec → Sec) : (s.updSec f).slot = s.slot := rfl
@[simp] theorem State.updSec_engines (f : Sec → Sec) : (s.updSec f).engines = s.engines := rfl
@[simp] theorem State.updSec_fab (f : Sec → Sec) : (s.updSec f).fab = s.fab := rfl
@[simp] theorem State.updSec_hic (f : Sec → Sec) : (s.updSec f).hic = s.hic := rfl
@[simp] theorem State.updSec_cist (f : Sec → Sec) : (s.updSec f).cist = s.cist := rfl
@[simp] theorem State.updSec_les (f : Sec → Sec) : (s.updSec f).les = s.les := rfl
@[simp] theorem State.updSec_ges (f : Sec → Sec) : (s.updSec f).ges = s.ges := rfl
@[simp] theorem State.updSec_tables (f : Sec → Sec) : (s.updSec f).tables = s.tables := rfl
@[simp] theorem State.updSec_models (f : Sec → Sec) : (s.updSec f).models = s.models := rfl
@[simp] theorem State.updSec_adapters (f : Sec → Sec) : (s.updSec f).adapters = s.adapters := rfl
@[simp] theorem State.updSec_serve (f : Sec → Sec) : (s.updSec f).serve = s.serve := rfl
@[simp] theorem State.updSec_parcels (f : Sec → Sec) : (s.updSec f).parcels = s.parcels := rfl
@[simp] theorem State.updSec_sched (f : Sec → Sec) : (s.updSec f).sched = s.sched := rfl
@[simp] theorem State.updSec_arbs (f : Sec → Sec) : (s.updSec f).arbs = s.arbs := rfl
@[simp] theorem State.updSec_cores (f : Sec → Sec) : (s.updSec f).cores = s.cores := rfl
@[simp] theorem State.updSec_policies (f : Sec → Sec) : (s.updSec f).policies = s.policies := rfl
@[simp] theorem State.updSec_store (f : Sec → Sec) : (s.updSec f).store = s.store := rfl
@[simp] theorem State.updSec_power (f : Sec → Sec) : (s.updSec f).power = s.power := rfl
@[simp] theorem State.updSec_tile (f : Sec → Sec) (i : Nat) : (s.updSec f).tile i = s.tile i := rfl
@[simp] theorem State.updSec_block (f : Sec → Sec) (i : Nat) : (s.updSec f).block i = s.block i := rfl
@[simp] theorem State.updSec_plot (f : Sec → Sec) (i : Nat) : (s.updSec f).plot i = s.plot i := rfl
@[simp] theorem State.updSec_box (f : Sec → Sec) (i : Nat) : (s.updSec f).box i = s.box i := rfl
@[simp] theorem State.updSec_quad (f : Sec → Sec) (i : Nat) : (s.updSec f).quad i = s.quad i := rfl
@[simp] theorem State.updSec_engine (f : Sec → Sec) (i : Nat) : (s.updSec f).engine i = s.engine i := rfl
@[simp] theorem State.updSec_cistern (f : Sec → Sec) (i : Nat) : (s.updSec f).cistern i = s.cistern i := rfl
@[simp] theorem State.updSec_lateral (f : Sec → Sec) (i : Nat) : (s.updSec f).lateral i = s.lateral i := rfl
@[simp] theorem State.updSec_gatherEng (f : Sec → Sec) (i : Nat) : (s.updSec f).gatherEng i = s.gatherEng i := rfl
@[simp] theorem State.updSec_tableEnt (f : Sec → Sec) (i : Nat) : (s.updSec f).tableEnt i = s.tableEnt i := rfl
@[simp] theorem State.updSec_fport (f : Sec → Sec) (i : Nat) : (s.updSec f).fport i = s.fport i := rfl
@[simp] theorem State.updSec_core (f : Sec → Sec) (i : Nat) : (s.updSec f).core i = s.core i := rfl
@[simp] theorem State.updSec_arb (f : Sec → Sec) (i : Nat) : (s.updSec f).arb i = s.arb i := rfl
@[simp] theorem State.updSec_policy (f : Sec → Sec) (i : Nat) : (s.updSec f).policy i = s.policy i := rfl
@[simp] theorem State.updSec_ring (f : Sec → Sec) (i : Nat) : (s.updSec f).ring i = s.ring i := rfl
@[simp] theorem State.updSec_req (f : Sec → Sec) (i : Nat) : (s.updSec f).req i = s.req i := rfl
@[simp] theorem State.updSec_prefixAt (f : Sec → Sec) (i : Nat) : (s.updSec f).prefixAt i = s.prefixAt i := rfl
@[simp] theorem State.updSec_parcel (f : Sec → Sec) (i : Nat) : (s.updSec f).parcel i = s.parcel i := rfl
@[simp] theorem State.updSec_entry (f : Sec → Sec) (i : Nat) : (s.updSec f).entry i = s.entry i := rfl
@[simp] theorem State.updSec_modelOf (f : Sec → Sec) (i : Nat) : (s.updSec f).modelOf i = s.modelOf i := rfl
@[simp] theorem State.updSec_adapter (f : Sec → Sec) (i : Nat) : (s.updSec f).adapter i = s.adapter i := rfl

/-! What a read finds of the entry an update wrote. -/

@[simp] theorem State.updTile_tile_at (g i : Nat) (f : Tile → Tile) : (s.updTile g f).tile i = if g = i then f (s.tile i) else s.tile i := by
  simp only [State.updTile, State.setTile, State.tile, SMap.get_set]
  split
  · next h => rw [h]
  · rfl

@[simp] theorem State.setTile_tile_at (g i : Nat) (t : Tile) : (s.setTile g t).tile i = if g = i then t else s.tile i := by
  simp only [State.setTile, State.tile, SMap.get_set]

@[simp] theorem State.setBlock_block_at (b i : Nat) (x : Block) : (s.setBlock b x).block i = if b = i then x else s.block i := by
  simp only [State.setBlock, State.block, SMap.get_set]

@[simp] theorem State.setBlock_plot_at (b i : Nat) (x : Block) : (s.setBlock b x).plot i = if b = i then x.plot else s.plot i := by
  simp only [State.setBlock, State.plot, State.block, SMap.get_set]
  split <;> rfl

@[simp] theorem State.setPlot_plot_at (b i : Nat) (p : Plot) : (s.setPlot b p).plot i = if b = i then some p else s.plot i := by
  simp only [State.setPlot, State.setBlock, State.plot, State.block, SMap.get_set]
  split <;> rfl

@[simp] theorem State.setPlot_block_at (b i : Nat) (p : Plot) : (s.setPlot b p).block i = if b = i then { s.block b with plot := some p } else s.block i := by
  simp only [State.setPlot, State.setBlock, State.block, SMap.get_set]

@[simp] theorem State.updPlotRegs_plot_at (b i : Nat) (f : PlotRegs → PlotRegs) : (s.updPlotRegs b f).plot i = s.plot i := by
  simp only [State.updPlotRegs, State.setBlock, State.plot, State.block, SMap.get_set]
  split
  · next h => rw [h]
  · rfl

@[simp] theorem State.updPlotRegs_block_at (b i : Nat) (f : PlotRegs → PlotRegs) : (s.updPlotRegs b f).block i = if b = i then { s.block b with regs := f (s.block b).regs } else s.block i := by
  simp only [State.updPlotRegs, State.setBlock, State.block, SMap.get_set]

@[simp] theorem State.setBox_box_at (k i : Nat) (m : Mailbox) : (s.setBox k m).box i = if k = i then m else s.box i := by
  simp only [State.setBox, State.box, SMap.get_set]

@[simp] theorem State.updQuad_quad_at (q i : Nat) (f : QuadMem → QuadMem) : (s.updQuad q f).quad i = if q = i then f (s.quad q) else s.quad i := by
  simp only [State.updQuad, State.quad, SMap.get_set]

@[simp] theorem State.updEngine_engine_at (e i : Nat) (f : Engine → Engine) : (s.updEngine e f).engine i = if e = i then f (s.engine e) else s.engine i := by
  simp only [State.updEngine, State.setEngine, State.engine, SMap.get_set]

@[simp] theorem State.updCist_cistern_at (q i : Nat) (f : Cistern → Cistern) : (s.updCist q f).cistern i = if q = i then f (s.cistern q) else s.cistern i := by
  simp only [State.updCist, State.cistern, SMap.get_set]

@[simp] theorem State.updLe_lateral_at (e i : Nat) (f : Lateral → Lateral) : (s.updLe e f).lateral i = if e = i then f (s.lateral e) else s.lateral i := by
  simp only [State.updLe, State.lateral, SMap.get_set]

@[simp] theorem State.updGe_gatherEng_at (g i : Nat) (f : GatherEng → GatherEng) : (s.updGe g f).gatherEng i = if g = i then f (s.gatherEng g) else s.gatherEng i := by
  simp only [State.updGe, State.gatherEng, SMap.get_set]

@[simp] theorem State.updTableEnt_tableEnt_at (k i : Nat) (f : TableEnt → TableEnt) : (s.updTableEnt k f).tableEnt i = if k = i then f (s.tableEnt k) else s.tableEnt i := by
  simp only [State.updTableEnt, State.tableEnt, SMap.get_set]

@[simp] theorem State.updFport_fport_at (k i : Nat) (f : FabPort → FabPort) : (s.updFport k f).fport i = if k = i then f (s.fport k) else s.fport i := by
  simp only [State.updFport, State.setFport, State.updFab, State.fport, SMap.get_set]

@[simp] theorem State.updCore_core_at (c i : Nat) (f : HgCore → HgCore) : (s.updCore c f).core i = if c = i then f (s.core c) else s.core i := by
  simp only [State.updCore, State.core, SMap.get_set]

@[simp] theorem State.updArb_arb_at (a i : Nat) (f : Arb → Arb) : (s.updArb a f).arb i = if a = i then f (s.arb a) else s.arb i := by
  simp only [State.updArb, State.arb, SMap.get_set]

@[simp] theorem State.setPolicy_policy_at (k i : Nat) (p : Option Policy) : (s.setPolicy k p).policy i = if k = i then p else s.policy i := by
  simp only [State.setPolicy, State.policy, SMap.get_set]

@[simp] theorem State.updRing_ring_at (k i : Nat) (f : Ring → Ring) : (s.updRing k f).ring i = if k = i then f (s.ring k) else s.ring i := by
  simp only [State.updRing, State.ring, SMap.get_set]

@[simp] theorem State.updPrefix_prefixAt_at (k i : Nat) (f : Prefix → Prefix) : (s.updPrefix k f).prefixAt i = if k = i then f (s.prefixAt k) else s.prefixAt i := by
  simp only [State.updPrefix, State.prefixAt, SMap.get_set]

@[simp] theorem State.updParcel_parcel_at (k i : Nat) (f : Parcel → Parcel) : (s.updParcel k f).parcel i = if k = i then f (s.parcel k) else s.parcel i := by
  simp only [State.updParcel, State.parcel, SMap.get_set]

@[simp] theorem State.updEntry_entry_at (k i : Nat) (f : Model → Model) : (s.updEntry k f).entry i = if k = i then f (s.entry k) else s.entry i := by
  simp only [State.updEntry, State.entry, SMap.get_set]

@[simp] theorem State.updModel_entry_at (id i : Nat) (f : Model → Model) : (s.updModel id f).entry i = if id % 256 = i then f (s.entry (id % 256)) else s.entry i := by
  simp only [State.updModel, State.updEntry, State.entry, SMap.get_set]

@[simp] theorem State.updAdapter_adapter_at (k i : Nat) (f : Adapter → Adapter) : (s.updAdapter k f).adapter i = if k = i then f (s.adapter k) else s.adapter i := by
  simp only [State.updAdapter, State.adapter, SMap.get_set]

/-- What a change of every tile of a list leaves as it was. -/
theorem State.updTiles_eq (l : List Nat) (f : Tile → Tile) :
    ∃ m, s.updTiles l f = { s with tiles := m } := by
  induction l generalizing s with
  | nil => exact ⟨s.tiles, rfl⟩
  | cons g l ih =>
    obtain ⟨m, hm⟩ := ih (s.updTile g f)
    exact ⟨m, hm⟩

@[simp] theorem State.updTiles_pending (l : List Nat) (f : Tile → Tile) : (s.updTiles l f).pending = s.pending := by
  obtain ⟨m, h⟩ := s.updTiles_eq l f; rw [h]
@[simp] theorem State.updTiles_free (l : List Nat) (f : Tile → Tile) : (s.updTiles l f).free = s.free := by
  obtain ⟨m, h⟩ := s.updTiles_eq l f; rw [h]
@[simp] theorem State.updTiles_now (l : List Nat) (f : Tile → Tile) : (s.updTiles l f).now = s.now := by
  obtain ⟨m, h⟩ := s.updTiles_eq l f; rw [h]
@[simp] theorem State.updTiles_time (l : List Nat) (f : Tile → Tile) : (s.updTiles l f).time = s.time := by
  obtain ⟨m, h⟩ := s.updTiles_eq l f; rw [h]
@[simp] theorem State.updTiles_mem (l : List Nat) (f : Tile → Tile) : (s.updTiles l f).mem = s.mem := by
  obtain ⟨m, h⟩ := s.updTiles_eq l f; rw [h]
@[simp] theorem State.updTiles_quads (l : List Nat) (f : Tile → Tile) : (s.updTiles l f).quads = s.quads := by
  obtain ⟨m, h⟩ := s.updTiles_eq l f; rw [h]
@[simp] theorem State.updTiles_blocks (l : List Nat) (f : Tile → Tile) : (s.updTiles l f).blocks = s.blocks := by
  obtain ⟨m, h⟩ := s.updTiles_eq l f; rw [h]
@[simp] theorem State.updTiles_flights (l : List Nat) (f : Tile → Tile) : (s.updTiles l f).flights = s.flights := by
  obtain ⟨m, h⟩ := s.updTiles_eq l f; rw [h]
@[simp] theorem State.updTiles_mail (l : List Nat) (f : Tile → Tile) : (s.updTiles l f).mail = s.mail := by
  obtain ⟨m, h⟩ := s.updTiles_eq l f; rw [h]
@[simp] theorem State.updTiles_book (l : List Nat) (f : Tile → Tile) : (s.updTiles l f).book = s.book := by
  obtain ⟨m, h⟩ := s.updTiles_eq l f; rw [h]
@[simp] theorem State.updTiles_slot (l : List Nat) (f : Tile → Tile) : (s.updTiles l f).slot = s.slot := by
  obtain ⟨m, h⟩ := s.updTiles_eq l f; rw [h]
@[simp] theorem State.updTiles_engines (l : List Nat) (f : Tile → Tile) : (s.updTiles l f).engines = s.engines := by
  obtain ⟨m, h⟩ := s.updTiles_eq l f; rw [h]
@[simp] theorem State.updTiles_fab (l : List Nat) (f : Tile → Tile) : (s.updTiles l f).fab = s.fab := by
  obtain ⟨m, h⟩ := s.updTiles_eq l f; rw [h]
@[simp] theorem State.updTiles_hic (l : List Nat) (f : Tile → Tile) : (s.updTiles l f).hic = s.hic := by
  obtain ⟨m, h⟩ := s.updTiles_eq l f; rw [h]
@[simp] theorem State.updTiles_cist (l : List Nat) (f : Tile → Tile) : (s.updTiles l f).cist = s.cist := by
  obtain ⟨m, h⟩ := s.updTiles_eq l f; rw [h]
@[simp] theorem State.updTiles_les (l : List Nat) (f : Tile → Tile) : (s.updTiles l f).les = s.les := by
  obtain ⟨m, h⟩ := s.updTiles_eq l f; rw [h]
@[simp] theorem State.updTiles_ges (l : List Nat) (f : Tile → Tile) : (s.updTiles l f).ges = s.ges := by
  obtain ⟨m, h⟩ := s.updTiles_eq l f; rw [h]
@[simp] theorem State.updTiles_tables (l : List Nat) (f : Tile → Tile) : (s.updTiles l f).tables = s.tables := by
  obtain ⟨m, h⟩ := s.updTiles_eq l f; rw [h]
@[simp] theorem State.updTiles_models (l : List Nat) (f : Tile → Tile) : (s.updTiles l f).models = s.models := by
  obtain ⟨m, h⟩ := s.updTiles_eq l f; rw [h]
@[simp] theorem State.updTiles_adapters (l : List Nat) (f : Tile → Tile) : (s.updTiles l f).adapters = s.adapters := by
  obtain ⟨m, h⟩ := s.updTiles_eq l f; rw [h]
@[simp] theorem State.updTiles_serve (l : List Nat) (f : Tile → Tile) : (s.updTiles l f).serve = s.serve := by
  obtain ⟨m, h⟩ := s.updTiles_eq l f; rw [h]
@[simp] theorem State.updTiles_parcels (l : List Nat) (f : Tile → Tile) : (s.updTiles l f).parcels = s.parcels := by
  obtain ⟨m, h⟩ := s.updTiles_eq l f; rw [h]
@[simp] theorem State.updTiles_sched (l : List Nat) (f : Tile → Tile) : (s.updTiles l f).sched = s.sched := by
  obtain ⟨m, h⟩ := s.updTiles_eq l f; rw [h]
@[simp] theorem State.updTiles_arbs (l : List Nat) (f : Tile → Tile) : (s.updTiles l f).arbs = s.arbs := by
  obtain ⟨m, h⟩ := s.updTiles_eq l f; rw [h]
@[simp] theorem State.updTiles_cores (l : List Nat) (f : Tile → Tile) : (s.updTiles l f).cores = s.cores := by
  obtain ⟨m, h⟩ := s.updTiles_eq l f; rw [h]
@[simp] theorem State.updTiles_policies (l : List Nat) (f : Tile → Tile) : (s.updTiles l f).policies = s.policies := by
  obtain ⟨m, h⟩ := s.updTiles_eq l f; rw [h]
@[simp] theorem State.updTiles_store (l : List Nat) (f : Tile → Tile) : (s.updTiles l f).store = s.store := by
  obtain ⟨m, h⟩ := s.updTiles_eq l f; rw [h]
@[simp] theorem State.updTiles_power (l : List Nat) (f : Tile → Tile) : (s.updTiles l f).power = s.power := by
  obtain ⟨m, h⟩ := s.updTiles_eq l f; rw [h]
@[simp] theorem State.updTiles_sec (l : List Nat) (f : Tile → Tile) : (s.updTiles l f).sec = s.sec := by
  obtain ⟨m, h⟩ := s.updTiles_eq l f; rw [h]
@[simp] theorem State.updTiles_block (l : List Nat) (f : Tile → Tile) (i : Nat) : (s.updTiles l f).block i = s.block i := by
  obtain ⟨m, h⟩ := s.updTiles_eq l f; rw [h]; rfl
@[simp] theorem State.updTiles_plot (l : List Nat) (f : Tile → Tile) (i : Nat) : (s.updTiles l f).plot i = s.plot i := by
  obtain ⟨m, h⟩ := s.updTiles_eq l f; rw [h]; rfl
@[simp] theorem State.updTiles_box (l : List Nat) (f : Tile → Tile) (i : Nat) : (s.updTiles l f).box i = s.box i := by
  obtain ⟨m, h⟩ := s.updTiles_eq l f; rw [h]; rfl
@[simp] theorem State.updTiles_quad (l : List Nat) (f : Tile → Tile) (i : Nat) : (s.updTiles l f).quad i = s.quad i := by
  obtain ⟨m, h⟩ := s.updTiles_eq l f; rw [h]; rfl
@[simp] theorem State.updTiles_engine (l : List Nat) (f : Tile → Tile) (i : Nat) : (s.updTiles l f).engine i = s.engine i := by
  obtain ⟨m, h⟩ := s.updTiles_eq l f; rw [h]; rfl
@[simp] theorem State.updTiles_cistern (l : List Nat) (f : Tile → Tile) (i : Nat) : (s.updTiles l f).cistern i = s.cistern i := by
  obtain ⟨m, h⟩ := s.updTiles_eq l f; rw [h]; rfl
@[simp] theorem State.updTiles_lateral (l : List Nat) (f : Tile → Tile) (i : Nat) : (s.updTiles l f).lateral i = s.lateral i := by
  obtain ⟨m, h⟩ := s.updTiles_eq l f; rw [h]; rfl
@[simp] theorem State.updTiles_gatherEng (l : List Nat) (f : Tile → Tile) (i : Nat) : (s.updTiles l f).gatherEng i = s.gatherEng i := by
  obtain ⟨m, h⟩ := s.updTiles_eq l f; rw [h]; rfl
@[simp] theorem State.updTiles_tableEnt (l : List Nat) (f : Tile → Tile) (i : Nat) : (s.updTiles l f).tableEnt i = s.tableEnt i := by
  obtain ⟨m, h⟩ := s.updTiles_eq l f; rw [h]; rfl
@[simp] theorem State.updTiles_fport (l : List Nat) (f : Tile → Tile) (i : Nat) : (s.updTiles l f).fport i = s.fport i := by
  obtain ⟨m, h⟩ := s.updTiles_eq l f; rw [h]; rfl
@[simp] theorem State.updTiles_core (l : List Nat) (f : Tile → Tile) (i : Nat) : (s.updTiles l f).core i = s.core i := by
  obtain ⟨m, h⟩ := s.updTiles_eq l f; rw [h]; rfl
@[simp] theorem State.updTiles_arb (l : List Nat) (f : Tile → Tile) (i : Nat) : (s.updTiles l f).arb i = s.arb i := by
  obtain ⟨m, h⟩ := s.updTiles_eq l f; rw [h]; rfl
@[simp] theorem State.updTiles_policy (l : List Nat) (f : Tile → Tile) (i : Nat) : (s.updTiles l f).policy i = s.policy i := by
  obtain ⟨m, h⟩ := s.updTiles_eq l f; rw [h]; rfl
@[simp] theorem State.updTiles_ring (l : List Nat) (f : Tile → Tile) (i : Nat) : (s.updTiles l f).ring i = s.ring i := by
  obtain ⟨m, h⟩ := s.updTiles_eq l f; rw [h]; rfl
@[simp] theorem State.updTiles_req (l : List Nat) (f : Tile → Tile) (i : Nat) : (s.updTiles l f).req i = s.req i := by
  obtain ⟨m, h⟩ := s.updTiles_eq l f; rw [h]; rfl
@[simp] theorem State.updTiles_prefixAt (l : List Nat) (f : Tile → Tile) (i : Nat) : (s.updTiles l f).prefixAt i = s.prefixAt i := by
  obtain ⟨m, h⟩ := s.updTiles_eq l f; rw [h]; rfl
@[simp] theorem State.updTiles_parcel (l : List Nat) (f : Tile → Tile) (i : Nat) : (s.updTiles l f).parcel i = s.parcel i := by
  obtain ⟨m, h⟩ := s.updTiles_eq l f; rw [h]; rfl
@[simp] theorem State.updTiles_entry (l : List Nat) (f : Tile → Tile) (i : Nat) : (s.updTiles l f).entry i = s.entry i := by
  obtain ⟨m, h⟩ := s.updTiles_eq l f; rw [h]; rfl
@[simp] theorem State.updTiles_modelOf (l : List Nat) (f : Tile → Tile) (i : Nat) : (s.updTiles l f).modelOf i = s.modelOf i := by
  obtain ⟨m, h⟩ := s.updTiles_eq l f; rw [h]; rfl
@[simp] theorem State.updTiles_adapter (l : List Nat) (f : Tile → Tile) (i : Nat) : (s.updTiles l f).adapter i = s.adapter i := by
  obtain ⟨m, h⟩ := s.updTiles_eq l f; rw [h]; rfl

/-- Every tile outside the list is as it was. -/
theorem State.updTiles_tile_other (l : List Nat) (f : Tile → Tile) (i : Nat) (h : i ∉ l) : (s.updTiles l f).tile i = s.tile i := by
  induction l generalizing s with
  | nil => rfl
  | cons g l ih =>
    have h1 : (s.updTiles (g :: l) f) = (s.updTile g f).updTiles l f := rfl
    rw [h1, ih _ (fun hm => h (List.mem_cons_of_mem _ hm)), State.updTile_tile_at, if_neg (fun e => h (by rw [e]; exact List.mem_cons_self))]

/-- Every tile of a list without repeats is changed once. -/
theorem State.updTiles_tile (l : List Nat) (f : Tile → Tile) (i : Nat) (hd : l.Nodup) (h : i ∈ l) : (s.updTiles l f).tile i = f (s.tile i) := by
  induction l generalizing s with
  | nil => cases h
  | cons g l ih =>
    have h1 : (s.updTiles (g :: l) f) = (s.updTile g f).updTiles l f := rfl
    rw [List.nodup_cons] at hd
    rw [h1]
    by_cases e : g = i
    · subst e; rw [State.updTiles_tile_other _ _ _ _ hd.1, State.updTile_tile_at, if_pos rfl]
    · rw [ih _ hd.2 ((List.mem_cons.1 h).resolve_left (Ne.symm e)), State.updTile_tile_at, if_neg e]

/-- What every change of a tile gives it, the change of every tile of a list gives every tile of the list. -/
theorem State.updTiles_all (l : List Nat) (f : Tile → Tile) (P : Tile → Prop) (hf : ∀ t, P (f t)) (i : Nat) (h : i ∈ l) :
    P ((s.updTiles l f).tile i) := by
  induction l generalizing s with
  | nil => cases h
  | cons g l ih =>
    have h1 : (s.updTiles (g :: l) f) = (s.updTile g f).updTiles l f := rfl
    rw [h1]
    by_cases e : i ∈ l
    · exact ih _ e
    · rw [State.updTiles_tile_other _ _ _ _ e, State.updTile_tile_at, if_pos (((List.mem_cons.1 h).resolve_right e).symm)]; exact hf _

end Sys2Proof.Machine
end

