-- ==== Sys2Proof/Laws/Ops.lean ====
section
/-! SUPPORT. What each shared operation can do: the parts of the state it may change, and what it makes of them. -/

namespace Sys2Proof.Machine

variable (s : State)

/-- Sending an event changes the mail only. -/
theorem State.transmit_eq (p : Nat) (e : EvMsg) : ∃ m, (s.transmit p e).1 = { s with mail := m } := by
  unfold State.transmit
  split
  · exact ⟨_, rfl⟩
  · exact ⟨s.mail, rfl⟩

/-- An event changes the mail only. -/
theorem State.event_eq (p kind op seq status object : Nat) (body : Bytes) (dest : Option NetAddr) :
    ∃ m, s.event p kind op seq status object body dest = { s with mail := m } := by
  unfold State.event
  dsimp only
  split
  · exact ⟨s.mail, rfl⟩
  · generalize hr : s.transmit p _ = r
    obtain ⟨m, hm⟩ := s.transmit_eq p _
    rw [hr] at hm
    rw [hm]
    exact ⟨_, rfl⟩

/-- An answer changes the mail only. -/
theorem State.complete_eq (w : Waiter) (status : Nat) (body : Bytes) : ∃ m, s.complete w status body = { s with mail := m } :=
  s.event_eq _ _ _ _ _ _ _ _

/-- A record changes the mail and the field book only. -/
theorem State.post_eq (dr : Bool) (src code status parcel unit : Nat) (detail : BitVec 64) :
    ∃ m b, s.post dr src code status parcel unit detail = { s with mail := m, book := b } := by
  unfold State.post
  dsimp only
  split
  · exact ⟨s.mail, _, rfl⟩
  · obtain ⟨m, hm⟩ := State.event_eq { s with book := _ } 0 4 0 0 status unit (toLe 4 s.book.next) none
    exact ⟨m, _, hm⟩

/-- A force changes the block controllers and the interrupt controller only. -/
theorem State.force_eq (b cause status tile : Nat) (retry : Bool) :
    ∃ h l, s.force b cause status tile retry = { s with hic := h, blocks := l } := by
  unfold State.force
  split
  · exact ⟨s.hic, s.blocks, rfl⟩
  · split
    · exact ⟨s.hic, s.blocks, rfl⟩
    · dsimp only
      split <;> exact ⟨_, _, rfl⟩

/-- A tile fault changes the tiles, the mail, the field book, the block controllers and the interrupt controller only. -/
theorem State.tileFault_eq (g cause : Nat) (info : BitVec 64) (status : Nat) :
    ∃ t m k h l, s.tileFault g cause info status = { s with tiles := t, mail := m, book := k, hic := h, blocks := l } := by
  unfold State.tileFault
  dsimp only
  obtain ⟨m, k, hp⟩ := State.post_eq (s.setTile g _) false 0x01 cause 0 (s.parcelOf g) g info
  split
  · obtain ⟨h, l, hf⟩ := State.force_eq (State.post (s.setTile g _) false 0x01 cause 0 (s.parcelOf g) g info) _ 0x10 status g false
    rw [hf, hp]
    exact ⟨_, _, _, _, _, rfl⟩
  · rw [hp]
    exact ⟨_, _, _, _, _, rfl⟩

/-- A canal fault changes the same parts as a tile fault. -/
theorem State.canalFault_eq (g cause : Nat) (info : BitVec 64) :
    ∃ t m k h l, s.canalFault g cause info = { s with tiles := t, mail := m, book := k, hic := h, blocks := l } := by
  unfold State.canalFault
  dsimp only
  obtain ⟨m, k, hp⟩ := State.post_eq (s.setTile g _) false 0x02 cause 0 (s.parcelOf g) g info
  split
  · obtain ⟨h, l, hf⟩ := State.force_eq (State.post (s.setTile g _) false 0x02 cause 0 (s.parcelOf g) g info) _ 0x11 0x0403 g false
    rw [hf, hp]
    exact ⟨_, _, _, _, _, rfl⟩
  · rw [hp]
    exact ⟨_, _, _, _, _, rfl⟩

/-- A force that meets no force in progress forces the plot by its cause (R150 step 1). -/
theorem State.force_forcedBy (b cause status tile : Nat) (retry : Bool) (p : Plot) (h : s.plot b = some p) (hb : b < 64)
    (h1 : p.state ≠ .free) (h2 : p.state ≠ .forcing) : forcedBy s (s.force b cause status tile retry) b cause := by
  have hp : (BitVec.ofNat 256 (2 ^ (16 + b))).getLsbD (16 + b) = true := by
    rw [BitVec.getLsbD_ofNat, Nat.testBit_two_pow_self]; simp; omega
  unfold State.force forcedBy
  rw [h]
  simp only [h1, h2, if_false]
  refine ⟨⟨_, by rw [State.setPlot_plot_at, if_pos rfl], rfl, rfl, rfl⟩, ?_, ?_, ?_, ?_⟩
  · by_cases hv : (s.block b).regs.fault.valid = true <;> simp [FaultRec.raise, hv]
  · intro hv; simp [FaultRec.raise, hv]
  · simp
  · show (s.hic.pend ||| BitVec.ofNat 256 (2 ^ (16 + b))).getLsbD (16 + b) = true
    rw [BitVec.getLsbD_or, hp, Bool.or_true]

end Sys2Proof.Machine
end

