-- ==== Sys2Proof/Laws/Word.lean ====
section
/-! SUPPORT. What a word that issues does: it runs, and a word of one slot goes to the successor its operation gives. -/

namespace Sys2Proof.Machine

/-- A word that issues runs. -/
theorem issueWord_issues {x : Issue} {o : SlotOp} {w : List SlotOp} {s : State} {c : Ctx} (h : Issues x w s c) (ho : holdsOp w o = true) :
    issueWord x o s = runWord (envOf x s c) w s := by
  have hh := h.waits
  unfold envOf at hh ⊢
  simp only [issueWord, h.live, h.word, h.picked, h.unheld, ho, h.sound, h.legal, hh, Option.isNone_none, Bool.and_self, if_true]
  rfl

/-- A word of one slot that issues runs. -/
theorem issueOp_alone {x : Issue} {slot : Fin 8} {op : BitVec 8} {f : SlotF} {s : State} {c : Ctx} (hop : op ≠ 0) (h : Alone x ⟨slot, op, f⟩ s c) :
    issueOp x slot op f s = runWord (envOf x s c) [⟨slot, op, f⟩] s :=
  issueWord_issues h (by rw [holdsOp, if_neg hop]; simp)

/-- An empty word that issues as `NOP` runs. -/
theorem issueOp_empty {x : Issue} {slot : Fin 8} {f : SlotF} {s : State} {c : Ctx} (h : Issues x [] s c) :
    issueOp x slot 0 f s = runWord (envOf x s c) [] s :=
  issueWord_issues h (by simp [holdsOp])

/-- The guard of a slot is what its operation tests. -/
theorem guarded_iff (x : Issue) (s : State) (c : Ctx) (f : SlotF) : Guarded x s c f ↔ (envOf x s c).on f = true := Iff.rfl

/-- Faults that a word raises beside no canal fault, none of them MATCH_FULL, whose status differs. -/
theorem raise_faults {x : Issue} {s s' : State} {c : Ctx} {k : CoreSt} {l : List (Nat × Nat)} {fl : Flow} (hc : ∀ cd ∈ l, cd.1 ≠ 0x0E) :
    Work.raise ⟨s', k, l, [], fl⟩ (envOf x s c) = l.foldl (fun s cd => wordFault x c cd.1 cd.2 s) (s'.setTile x.tile.val k.t) := by
  unfold Work.raise envOf issueEnv
  dsimp only [List.foldl_nil]
  generalize s'.setTile x.tile.val k.t = t
  induction l generalizing t with
  | nil => rw [List.foldl_nil, List.foldl_nil]
  | cons a l ih =>
    have e : (fun (u : State) => u.tileFault x.tile.val a.1 (faultInfo c.pc c.entry c.tag a.2) (if a.1 = 0x06 then 0x0404 else tileFaultStatus a.1))
        = wordFault x c a.1 a.2 := by
      unfold wordFault tileFaultStatus
      rw [if_neg (hc a List.mem_cons_self)]
    rw [List.foldl_cons, List.foldl_cons, ih (fun cd h => hc cd (List.mem_cons_of_mem _ h)), ← e]

/-- Where a word that goes on ends (R49). -/
theorem successor_seq (x : Issue) (s : State) (c : Ctx) :
    successor c (trigOfCtx x s c) .seq = (loopEnd c.pc c.loops, if Follows x s c then none else some 0x02) := by
  unfold Follows inBlock successor
  simp only [decide_eq_true_eq]

/-- A word of one slot whose operation goes on to the word that follows, with any tile faults it raises: the state its operation made, those
faults, and the check of the word's end. -/
theorem runWord_seq {x : Issue} {o : SlotOp} {s s' : State} {c : Ctx} {k : CoreSt} {l : List (Nat × Nat)}
    (hr : runSlot o (envOf x s c) o.f ⟨s, coreOf x s c, [], [], .seq⟩ = ⟨s', k, l, [], .seq⟩) (hc : ∀ cd ∈ l, cd.1 ≠ 0x0E) :
    runWord (envOf x s c) [o] s = endCheck x s c (l.foldl (fun s cd => wordFault x c cd.1 cd.2 s) (issued x s' (k.onward c))) := by
  have hn : successor (envOf x s c).c ((envOf x s c).t.trigAt (envOf x s c).c.entry) .seq = _ := successor_seq x s c
  unfold coreOf at hr
  unfold runWord
  dsimp only [List.foldl_cons, List.foldl_nil]
  rw [show (⟨s, ⟨(envOf x s c).t, (envOf x s c).c⟩, [], [], .seq⟩ : Work) = ⟨s, ⟨s.tile x.tile.val, c⟩, [], [], .seq⟩ from rfl, hr]
  dsimp only
  rw [hn]
  unfold endCheck
  by_cases hf : Follows x s c
  · rw [if_pos hf, if_pos hf]
    exact raise_faults hc
  · rw [if_neg hf, if_neg hf]
    dsimp only [Work.fault]
    have h : ∀ cd ∈ l ++ [(0x02, (loopEnd c.pc c.loops).1)], cd.1 ≠ 0x0E := by
      simp only [List.mem_append, List.mem_singleton]
      rintro cd (h | rfl)
      · exact hc cd h
      · exact (by decide : (2 : Nat) ≠ 14)
    rw [raise_faults h, List.foldl_append]
    rfl

/-- One that raises nothing and goes on inside its block. -/
theorem runWord_onward {x : Issue} {o : SlotOp} {s s' : State} {c : Ctx} {k : CoreSt} (hf : Follows x s c)
    (hr : runSlot o (envOf x s c) o.f ⟨s, coreOf x s c, [], [], .seq⟩ = ⟨s', k, [], [], .seq⟩) :
    runWord (envOf x s c) [o] s = issued x s' (k.onward c) := by
  rw [runWord_seq hr (by simp), endCheck, if_pos hf, List.foldl_nil]

end Sys2Proof.Machine
end

