-- ==== Sys2Proof/WellFormed.lean ====
section
/-! DEFINITION. What a well-formed command is: the lengths and ranges of operands that their types leave wider than the spec, and the
payload bytes that tell rows of one opcode apart. -/

namespace Sys2Proof

/-! Helpers over operands. -/

/-- A cycle of an issue unit: the contexts that interlocks hold, each named once and none of them the one that issues (R44). -/
def issueWf (x : Issue) : Bool := decide (x.ctx :: x.busy).Nodup

/-- The inputs on which tokens arrive in one cycle, each named once (R100). -/
def portsWf (port : Fin 4) (more : List (Fin 4 × BitVec 304)) : Bool := decide (port :: more.map (fun x => x.1)).Nodup

/-- A datagram's fields (R356, R357): at most 8,128 bytes of payload and 30 reserved header bytes. -/
def mailWf (m : Mail) : Bool := decide (m.payload.length ≤ 8128 ∧ m.resv.length = 30)

/-- A byte of the payload. -/
def mailByte (m : Mail) (i : Nat) : Nat := (m.payload.getD i 0).toNat

/-- The opcodes of Table 13-3 that have a row of their own. -/
def edOpcodes : List Nat :=
  [0x10, 0x11, 0x12, 0x13, 0x20, 0x21, 0x22, 0x23, 0x28, 0x29, 0x2A, 0x30, 0x38, 0x39, 0x40, 0x41, 0x50, 0x51, 0x52, 0x60, 0x61, 0x62,
   0x70, 0x71, 0x78, 0x79, 0x80, 0x81, 0x90]

/-- A fetched image that carries the policy magic (R413). -/
def mailPolicy (m : Mail) : Bool := m.fetched.any (fun l => l.take 4 == [0x50, 0x50, 0x4F, 0x4C])

/-- A message's data are as long as it says, except in a `READ` (Table 14-6). -/
def msgWf (m : MsgIn) : Bool := decide (m.data.length = m.len.toNat)

/-- Weights and numbers of a gather sub-packet within their fields (R312). -/
def gsubWf (g : GSub) : Bool :=
  decide (g.srcMod < 64 ∧ g.srcLe < 4 ∧ g.parcel ≤ 512 ∧ g.table < 1024) && g.rows.all (fun r => decide (r.weight < 2 ^ 32))

/-- The numbers of a partial within their fields (R313, R314). -/
def gpartWf (g : GPart) : Bool := g.elems.all (fun e => decide (e.cls ≤ 3))

/-- A request that arrives with its pages (R295). -/
def handWf (h : HandIn) : Bool := decide (h.parcel ≤ 512 ∧ h.generated ≤ h.maxNew ∧ h.params.length ≤ 4096 ∧ h.tokens.length = 4 * (h.prompt + h.generated))

/-- The plots of a replica set: tray slots 0 to 3 and shares up to 256 (R296). -/
def setWf (x : SetView) : Bool := x.peers.all (fun p => decide (p.slot ≤ 3 ∧ p.lo ≤ p.hi ∧ p.hi ≤ 256))

/-- A sample: four quadrants with a reading each at least, 24 stacks, and the Headworks die (R454). -/
def samplesWf (x : Samples) : Bool := decide (x.dies.length = 4 ∧ x.hbm.length = 24) && x.dies.all (fun l => !l.isEmpty) && !x.hw.isEmpty

/-- The failing tiles of a self-test, each named once (R67). -/
def failsWf (l : List (Fin 1024 × BitVec 7)) : Bool := decide (l.map (fun x => x.1.val)).Nodup

/-- The quadrants of a power-up: all four (Table 18-7). -/
def quadsWf (l : List QuadUp) : Bool := decide (l.length = 4) && l.all (fun x => failsWf x.fails)

/-- An entry written into a ring lies within one entry, a window's data within 1 GiB (R280, R372). -/
def intakeWf (stage : Bool) (off : Nat) (data : Bytes) : Bool := decide (data.length ≤ 2 ^ 30 ∧ off + data.length ≤ (if stage then 2 ^ 30 else 2 ^ 18))

/-- A command is well formed. -/
def Instr.wf (i : Instr) : Bool :=
  match i with
  | .nop x _ => issueWf x
  | .br x _ => issueWf x
  | .loop x _ => issueWf x
  | .wait x _ => issueWf x
  | .semaphoreWaitPass x => issueWf x
  | .signal x _ => issueWf x
  | .yield x _ => issueWf x
  | .eob x _ => issueWf x
  | .fence x _ => issueWf x
  | .trap x _ => issueWf x
  | .mma x _ => issueWf x
  | .mmaz x _ => issueWf x
  | .mmaLand _ _ => true
  | .aclr x _ => issueWf x
  | .ard x _ => issueWf x
  | .araw x _ => issueWf x
  | .aadd x _ => issueWf x
  | .awin x _ => issueWf x
  | .aflag x _ => issueWf x
  | .vfma x _ => issueWf x
  | .vadd x _ => issueWf x
  | .vsub x _ => issueWf x
  | .vmul x _ => issueWf x
  | .vmax x _ => issueWf x
  | .vmin x _ => issueWf x
  | .vexp2 x _ => issueWf x
  | .vlog2 x _ => issueWf x
  | .vrcp x _ => issueWf x
  | .vrsq x _ => issueWf x
  | .vcvt x _ => issueWf x
  | .vrsum x _ => issueWf x
  | .vcmp x _ => issueWf x
  | .sli x _ => issueWf x
  | .sadd x _ => issueWf x
  | .ssub x _ => issueWf x
  | .smul x _ => issueWf x
  | .sand x _ => issueWf x
  | .sor x _ => issueWf x
  | .sxor x _ => issueWf x
  | .sshl x _ => issueWf x
  | .sshr x _ => issueWf x
  | .ssra x _ => issueWf x
  | .scmp x _ => issueWf x
  | .sfromv x _ => issueWf x
  | .vbcast x _ => issueWf x
  | .viadd x _ => issueWf x
  | .vand x _ => issueWf x
  | .vor x _ => issueWf x
  | .vxor x _ => issueWf x
  | .vperm x _ => issueWf x
  | .vsel x _ => issueWf x
  | .vmov x _ => issueWf x
  | .pand x _ => issueWf x
  | .por x _ => issueWf x
  | .pxor x _ => issueWf x
  | .pnot x _ => issueWf x
  | .prange x _ => issueWf x
  | .ld x _ _ => issueWf x
  | .lds x _ _ => issueWf x
  | .st x _ _ => issueWf x
  | .sts x _ _ => issueWf x
  | .send x _ => issueWf x
  | .sends x _ => issueWf x
  | .recv x _ => issueWf x
  | .steer x _ => issueWf x
  | .merge x _ => issueWf x
  | .triggerFire _ _ => true
  | .contextRetire _ _ => true
  | .yieldDone _ => true
  | .tileYieldReq _ _ => true
  | .tileStop _ _ => true
  | .selftestComplete _ _ fails _ _ _ _ => failsWf fails
  | .singleTileRetest _ _ _ => true
  | .tokenArrive _ port _ _ more => portsWf port more
  | .steerTregEnter _ _ => true
  | .tregInject _ _ => true
  | .gateAppend _ _ _ => true
  | .gateSetMode _ _ _ => true
  | .gateFlush _ _ _ => true
  | .gateSetCap _ _ _ => true
  | .gateInject _ _ _ => true
  | .switchRequest _ => true
  | .drainComplete _ _ => true
  | .drainBound _ => true
  | .imageLoadComplete _ => true
  | .forcedSwitch _ => true
  | .plotForce _ => true
  | .plotReleaseBit _ _ => true
  | .plotYieldReq _ _ => true
  | .yieldBound _ => true
  | .saveComplete _ => true
  | .restore _ => true
  | .stepLimit _ => true
  | .stepStart _ _ => true
  | .placement _ => true
  | .fillComplete _ => true
  | .plotRelease _ => true
  | .scrubComplete _ => true
  | .surveyorReexamine _ => true
  | .copy _ _ _ => true
  | .copyRaw _ _ _ => true
  | .fill _ _ _ => true
  | .plist _ _ _ => true
  | .stage _ _ _ => true
  | .sluiceSignal _ _ _ => true
  | .sluiceComplete _ _ _ => true
  | .weightRetry _ _ _ => true
  | .slRingTailWrite _ _ => true
  | .streamRelease _ _ _ => true
  | .engineSemTake _ _ => true
  | .tierReply _ _ _ _ _ => true
  | .tierWatchdog _ _ _ => true
  | .aqReadTimeout _ _ => true
  | .patrolScrub _ _ => true
  | .hbmRecalibration _ _ => true
  | .memCfgWrite _ _ => true
  | .cxlLinkUp _ _ _ _ _ _ _ => true
  | .cxlLinkDown _ _ => true
  | .ideFailure _ _ => true
  | .routePacket _ => true
  | .returnPacket _ => true
  | .rtCommit _ _ => true
  | .gatherPacket _ => true
  | .gatherSubpacket _ remote => remote.all gsubWf
  | .rowRead _ _ _ => true
  | .gatherPartial _ remote => remote.all gpartWf
  | .geCtrlEnable _ _ => true
  | .doorbell _ _ _ _ => true
  | .admission _ _ => true
  | .deadlineMissed _ _ => true
  | .completionBacklogDrain _ => true
  | .kvHoldExpire _ _ => true
  | .handoffCopyComplete _ _ _ _ arrive => arrive.all handWf
  | .rebalance _ sets => sets.all setWf
  | .identifierQuarantineEnd _ => true
  | .shardAttemptEnd _ _ _ _ => true
  | .shardTimeout _ _ _ => true
  | .groupNotice _ _ _ _ _ _ => true
  | .groupNoticeResend _ _ _ => true
  | .earlyNoticeExpire _ => true
  | .deferredRun _ _ => true
  | .parcelScrubComplete _ _ => true
  | .ptpMessage _ _ _ _ _ => true
  | .holdoverExpire _ => true
  | .arbDecision _ _ _ _ => true
  | .arbStarveThreshold _ _ => true
  | .edushNop op m => mailWf m && (op == 1 || !edOpcodes.contains op.toNat)
  | .parcelCreate m => mailWf m
  | .parcelDestroy m => mailWf m
  | .parcelEnable m => mailWf m
  | .parcelDisable m => mailWf m
  | .modelRegister m => mailWf m
  | .modelFetch m => mailWf m
  | .modelFill m => mailWf m
  | .modelEvict m => mailWf m
  | .adapterLoad m => mailWf m
  | .adapterReplace m => mailWf m
  | .adapterWithdraw m => mailWf m
  | .platLoad m => mailWf m
  | .prefixPin m => mailWf m
  | .prefixUnpin m => mailWf m
  | .ringCreate m => mailWf m
  | .ringDestroy m => mailWf m
  | .statsRead m => mailWf m
  | .countersRead m => mailWf m
  | .fieldbookRead m => mailWf m
  | .topologyPlanSet m => mailWf m
  | .topologyRead m => mailWf m
  | .linkRetrain m => mailWf m
  | .powerCapSet m => mailWf m
  | .stateSet m => mailWf m && mailByte m 0 == 0
  | .stateSetNetwork m => mailWf m && mailByte m 0 == 1
  | .parcel0KeyInstall m => mailWf m && mailByte m 0 == 2 && mailByte m 1 == 0
  | .parcel0KeyReplace m => mailWf m && mailByte m 0 == 2 && mailByte m 1 == 1
  | .quadrantTakeOut m => mailWf m && mailByte m 1 == 0
  | .quadrantRetest m => mailWf m && mailByte m 1 == 1
  | .quadrantReturn m => mailWf m && mailByte m 1 == 2
  | .hbmRecal m => mailWf m
  | .fwStage m => mailWf m && !mailPolicy m
  | .policyImageStage m => mailWf m && mailPolicy m
  | .fwActivate m => mailWf m
  | .activationUndo _ => true
  | .spdmMessage m => mailWf m
  | .eventResend _ _ _ => true
  | .seqFloorCommitDone _ => true
  | .ethLinkChange _ _ _ => true
  | .qpFailure _ _ _ => true
  | .rdmaConnect _ _ _ => true
  | .neighbourRequest _ _ _ => true
  | .flitReceive _ flit _ => decide (flit.length = 256)
  | .ackTimer _ => true
  | .linkTrainingStart _ _ => true
  | .lanesTrained _ _ => true
  | .trainingTimeout _ _ _ => true
  | .benchmarkReceived _ _ _ _ _ _ _ => true
  | .benchmarkSend _ => true
  | .linkLoss _ _ _ => true
  | .recoverRelock _ _ _ => true
  | .recoverTimeout _ _ => true
  | .discoveryEnd _ => true
  | .fpCtrlEnable _ _ _ => true
  | .fpCtrlRetrain _ _ => true
  | .write _ m => msgWf m
  | .read _ _ => true
  | .readData _ m => msgWf m
  | .writeAck _ m => msgWf m
  | .chanWrite _ m => msgWf m
  | .queueLink _ m => msgWf m
  | .remoteTimeout _ _ => true
  | .neighbourExchange _ _ => true
  | .mgmtResend _ _ => true
  | .abortNotice _ _ _ _ => true
  | .channelBind _ _ _ _ _ => true
  | .degradedAgreement _ _ _ => true
  | .returnedTokens _ _ _ _ => true
  | .livenessProbe _ => true
  | .probeAnswer _ _ => true
  | .mgmtAuthFail => true
  | .policyTick _ _ => true
  | .policyStarve _ _ => true
  | .policyStep _ _ => true
  | .policyBudgetOverrun _ => true
  | .polCounters _ _ => true
  | .polPlots _ _ => true
  | .polShare _ _ _ => true
  | .polPreempt _ _ => true
  | .polWeight _ _ _ _ => true
  | .polDone _ => true
  | .hicSourceEvent _ => true
  | .hicTake _ => true
  | .hicEoi _ _ => true
  | .hicSwi _ => true
  | .hicPendWrite _ _ _ _ => true
  | .heartbeatTimeout _ _ => true
  | .fieldbookEventPost _ _ _ _ _ _ _ => true
  | .logPageWrite _ => true
  | .logFlushTimer _ => true
  | .storeCommit _ => true
  | .storeCommitComplete _ _ => true
  | .powerCapTick _ _ _ _ _ => true
  | .thermalSample x _ => samplesWf x
  | .frequencyChange _ _ => true
  | .thermalLimit _ _ _ => true
  | .holdRelease _ _ => true
  | .hardwareTrip _ _ => true
  | .brownoutEnter _ _ => true
  | .brownoutRelease _ _ => true
  | .powerFail _ _ _ => true
  | .coolantLost _ => true
  | .coolantOffTimeout _ => true
  | .powerStateDrainDone _ => true
  | .wake _ => true
  | .quadrantGate _ _ => true
  | .powerUpFromOff _ quads _ => quadsWf quads
  | .precharge _ => true
  | .jtagExtestExit _ => true
  | .i3cMctpMessage _ => true
  | .errorRecordClear _ _ => true
  | .counterReadClear _ => true
  | .registerWrite _ _ => true
  | .auxiliaryInputReturn _ => true
  | .intakeRdmaWrite _ _ inStage off data => intakeWf inStage off data
  | .congestionNotification _ => true
  | .firmwareStagingComplete image _ _ => image.all (fun l => decide (l.length ≤ 16777216))
  | .activationCoreSwitched _ => true
  | .signatureComplete _ => true

end Sys2Proof
end

