-- ==== Sys2Proof/Tests/Slice0.lean ====
section
/-! SUPPORT. The author's own tests: the checks of WellFormed on ill-formed terms, small facts about single commands, and for every
statement with hypotheses a state and operands that meet them, clause by clause. -/

namespace Sys2Proof.Tests

set_option Elab.async false
set_option linter.unusedVariables false

open Sys2Proof Sys2Proof.Machine

/-! Small states. -/

/-- A module that serves, with every domain on, in tray slot 0. -/
def s0 : State := { State.reset with slot := 0, power := { Power.reset with mode := .serve, array := 15, field := 15, mem := 15 } }

/-- Fields of a slot: a destination and three sources. -/
def fOf (d a b c : BitVec 8) : SlotF := ⟨false, false, 0, d, a, b, c, 0, 0⟩

/-- A ready context at word 0. -/
def c0 : Ctx :=
  { state := .ready, entry := 0, tag := 0, pc := 0, loops := [], s := [], p := [], v := [], vpriv := 0, sr := 0, bound := [], held := none, yieldPoint := 0 }

/-- Trigger entry 0 with a block of words 0 to 10. -/
def trig0 : BitVec 128 := BitVec.ofNat 128 (1 + 10 * 2 ^ 16)

/-- A tile with a block of words 0 to 10, a window of 4 KiB, a rota whose entry 0 injects, and a context. -/
def tileOf (c : Ctx) : Tile :=
  { Tile.reset with
    trig := [(0, trig0)], ctxs := [(0, some c)], rota := [(0, 5)], regs := { TileRegs.reset with fwinLimit := 4096 } }

/-- The module with that tile. -/
def coreState (c : Ctx) : State := s0.setTile 0 (tileOf c)

def x0 : Issue := ⟨0, 0, [], 0, 0, 0, false⟩


/-- An idle plot of one block. -/
def p0 : Plot :=
  { state := .idle, brow := 0, bcol := 0, rows := 1, cols := 1, model := 0, platSlot := 0, parcel := 1, plat := [], gates := [], sect := 0, epoch := 0,
    held := 0, heldBy := [], accept := 0, loading := false, leftover := false, drain := 0, endReport := false, heldSwitch := false, heldYield := false,
    release := false, yieldReq := false, forceCause := 0, forceStatus := 0, forceRetry := false, task := none, redo := none, steps := 0, mark := .mixed,
    markNext := .mixed, phi := 0, phiNext := 0, phiStar := 0, movedFrom := none, saveArea := [], lastStepAt := 0, lastSave := none, carried := [], badCopy := none, kvIn := [], kvOut := [],
    setStar := 0 }

/-- The module with a plot led by block 0. -/
def plotState (p : Plot) : State := s0.setPlot 0 p

/-- A sluice command of parcel 0. -/
def cmd0 : SlCmd :=
  { op := 2, flags := 0, cls := 0, parcel := 0, idx := 0, gen := 0, req := 0, src := 0, dst := 0, len := 0, semTile := 0, semFull := 0, semEmpty := 0,
    fillVal := 0, lead := none, chan := none, phase := .waitSem, entry := 0, buf := [], got := [], need := [], stale := false, slots := false, back := false,
    paid := false }

/-- A task of one step. -/
def task0 : Task := ⟨1, [], [], false, false, 0⟩

/-- A queued request of parcel 1. -/
def req0 : Req :=
  { handle := 5, ring := 0, parcel := 1, model := 0, adapter := 0, aver := 0, prefixH := 0, preIx := 0, start := 0, deadline := 100, prompt := 0, maxNew := 4,
    generated := 0, pos := 0, specMode := 0, specWidth := 0, holdKv := false, finalOnly := false, stageOff := 0, paramLen := 0, state := .queued,
    started := false, clamped := false, dropped := false, withdrawn := false, area := 0, areaLen := 0, pageTab := 0, tokens := 0, params := 0, spec := 0,
    pageBase := 0, pages := 0, withheld := [], holdUntil := 0, away := false, runsOn := 0, home := 0, dTab := 0, dBase := 0,
    dPages := 0 }

/-- The module with one request. -/
def reqState (r : Req) : State := { s0 with serve := { Serve.reset with reqs := [r] } }

/-- A wide word that holds operation `op` with fields `f` in slot `k` (Table 2-5). -/
def wordWith (k : Fin 8) (op : BitVec 8) (f : SlotF) : WideWord :=
  BitVec.ofNat 1024 ((op.toNat + 2 ^ 8 * f.psel.toNat + 2 ^ 12 * f.pen.toNat + 2 ^ 13 * f.pinv.toNat + 2 ^ 16 * f.dst.toNat +
    2 ^ 24 * f.srcA.toNat + 2 ^ 32 * f.srcB.toNat + 2 ^ 40 * f.srcC.toNat + 2 ^ 48 * f.mod.toNat + 2 ^ 64 * f.imm.toNat) * 2 ^ (128 * k.val))

/-- A tile that holds that word at address 0 and runs. -/
def Tile.holds (t : Tile) (k : Fin 8) (op : BitVec 8) (f : SlotF) : Tile :=
  { t with imem := [(0, wordWith k op f)], regs := { t.regs with state := .running } }

/-- The module whose tile 0 holds that word, for context `c` of its block. -/
def opState (k : Fin 8) (op : BitVec 8) (f : SlotF) (c : Ctx) : State := s0.setTile 0 (Tile.holds (tileOf c) k op f)

/-- A word of one slot that issues, of the small states below. -/
theorem alone {x : Issue} {o : SlotOp} {s : State} {c : Ctx} (h2 : (s.tile x.tile.val).ctx x.ctx.val = some c := by decide +kernel)
    (h3 : issuePicks x s c = true := by decide +kernel) (h4 : x.parity = false := by decide) (h5 : c.held = none := by decide +kernel)
    (h6 : (s.tile x.tile.val).wordAt c.pc = [o] := by decide +kernel) (h7 : wordOk c [o] = true := by decide +kernel)
    (h8 : wordHold (envOf x s c) [o] = .none := by decide +kernel) : Alone x o s c :=
  ⟨⟨h2, h3, h4, h5, h6⟩, h7, h8⟩

theorem runs {x : Issue} {slot : Fin 8} {op : BitVec 8} {f : SlotF} {s : State} {c : Ctx}
    (h : Alone x ⟨slot, op, f⟩ s c := by exact alone) : Runs x slot op f s c := h

/-! Hypotheses that can be met. -/

/-- A tile that runs, with a trigger entry of rule EQUAL on queue 0 and a token in it. -/
def fireState : State :=
  s0.setTile 0 { tileOf c0 with
    ctxs := [], trig := [(0, BitVec.ofNat 128 (1 + 10 * 2 ^ 16 + 2 ^ 24))], queues := [(0, [⟨mkToken 0 0, 0, false⟩])],
    regs := { (tileOf c0).regs with state := .running } }

/-- Bytes of a length, zero but where a list says. -/
def bytesOf (n : Nat) (l : List (Nat × Nat)) : Bytes := (List.range n).map (fun i => BitVec.ofNat 8 (SMap.get 0 l i))

/-- A plat of one section with one stream record, a window of gate 0. -/
def plat0 : Bytes := bytesOf 0x200 [(0x30, 0x50), (0x40, 0xA0), (0x44, 128), (0x68, 1), (0xA0, 1)]

/-- A plot that runs it, with gate 0. -/
def runPlot : Plot := { p0 with state := .running, plat := plat0, gates := [0], task := some task0 }

/-- The module with that plot, its tile 0 and one token at gate 0. -/
def gateState (tok : Token) : State :=
  { (s0.setTile 0 { tileOf c0 with lead := some 0 }).setPlot 0 runPlot with flights := [⟨0, true, tok⟩] }

/-- A cistern whose queue 0 holds packets. -/
def cistWith (l : List Pkt) : Cistern := { Cistern.reset with queues := [(0, { CQueue.reset with pkts := l })] }

/-- A registered model of parcel 1 as entry 0, generation 1 (identifier 256), with a plat of one block at position 0; 16 tokens and
4 slots in a step, a context of 64. -/
def model0 : Model :=
  { Model.reset with
    state := .filled, owner := 1, serials := [5], plats := [(0, bytesOf 0x40 [(0, 1), (1, 1)])],
    reg := bytesOf 0x80 [(0x10, 16), (0x12, 4), (0x14, 64), (0x18, 1), (0x1D, 16)] }

/-- A serving module whose Field is on everywhere, with a model. -/
def modelState (m : Model) : State :=
  { s0 with models := [(0, m)], quads := [(0, { QuadMem.reset with regionUp := true, stackUp := 63, carve := List.range 1024 })] }

/-- A saved task of the model. -/
def saved0 : SavedTask :=
  { parcel := 1, model := 256, platSlot := 0, rows := 1, cols := 1, sect := 0, epoch := 0, held := 0, heldBy := [], heldSwitch := false,
    endRemain := 0, task := some task0, steps := 1, mark := .mixed, phi := 0, tiles := [], place := 0, bytes := 0, kvIn := [], kvOut := [] }

/-- A plot that decodes request 5 of the model. -/
def stepState : State :=
  { modelState model0 with
    blocks := [(0, { Block.reset with plot := some { p0 with model := 256 } })],
    serve := { Serve.reset with reqs := [{ req0 with model := 256, state := .decode, started := true, prompt := 2, pos := 2, generated := 1 }] } }

/-- A plot that runs, with one source stream in its section. -/
def relPlot : Plot := { runPlot with plat := bytesOf 0x200 [(0x30, 0x50), (0x40, 0xA0), (0x44, 128), (0x68, 1)] }

/-- The module with one command in a place of engine 0. -/
def engState (c : SlCmd) : State := { modelState model0 with engines := [(0, { Engine.reset with flight := [c] })] }

/-- Memory with the items of a packet in cell 0 of quadrant 0, the last of them marked. -/
def cellMem (l : List Bytes) : Mem :=
  ((State.reset.mem.writeN (3145728 + 8 + 4 * (l.length - 1)) [4]).writeN (3145728 + 0x40) (l.flatMap id))

/-- The plot of a lateral engine's table, with one LAT_OUT queue. -/
def latPlot : Plot := { p0 with plat := bytesOf 0x100 [(0x11, 16)] }

/-- The module whose lateral engine 0 has table 0 and one packet in a queue of its plot. -/
def latState (l : List Bytes) : State :=
  { s0.setPlot 0 latPlot with
    mem := cellMem l
    tables := [(0, { TableEnt.reset with valid := true, rowBytes := 4 })]
    les := [(0, { Lateral.reset with enable := true, tables := [(0, { RTable.reset with valid := true })] })]
    cist := [(0, { Cistern.reset with queues := [(0, { CQueue.reset with latOut := true, pkts := [⟨[0], l.length, false, false⟩] })] })] }

/-- A gather record of one bag and one index. -/
def gatherPkt : List Bytes :=
  [bytesOf 32 [(0, 4), (4, 1), (6, 1)], bytesOf 32 [(0, 1)], bytesOf 32 []]

def sub0 : GSub := ⟨0, 0, 0, 0, 1, 0, 0, [⟨0, 0, 0⟩]⟩
def part0 : GPart := ⟨0, 0, 0, 0, false, 0, [], false, false⟩
def row0 : GRow := ⟨0, 0, 0, 0, 0, 1, 0, 0, 0, 0, 0⟩
def gather0 : OpenGather := ⟨0, 0, 0, 0, 0, false, 0, 0, 0, 0, 0, 0, [1], [], [false], [(0, 0)], false⟩

/-- The module with sub-packets, partials and open gathers at lateral engine 0. -/
def subState (subs : List GSub) (parts : List GPart) (gs : List OpenGather) : State :=
  { s0 with les := [(0, { Lateral.reset with enable := true, subs := subs, parts := parts, gathers := gs })] }

/-- A ring of 4 entries in use, bound to a queue pair. -/
def ring0 : Ring :=
  { Ring.reset with
    state := 1, owner := 1, logSize := 2, logCpl := 2, stageLen := 64, posted := 1, entries := [(0, bytesOf 64 [(3, 1), (0x20, 1), (0x10, 0)])] }

def ringState (r : Ring) : State :=
  { modelState model0 with
    serve := { Serve.reset with rings := [(0, r)] }
    cist := [(0, { Cistern.reset with pool := 4, sysCells := 4, quota := [] })]
    mail := { MailSt.reset with qps := [⟨1, some 0, 0, true, 4⟩] } }

/-- An enabled parcel. -/
def parcel0 : Parcel := { Parcel.reset with state := .enabled, qInflight := 4, qRes := 64, qBlocks := 4, pfMax := 256, pfHi := 256, qModels := 4 }

/-- The module with parcel 1 enabled, a model, and some requests. -/
def serveState (m : Model) (l : List Req) : State :=
  { modelState m with parcels := [(1, parcel0)], serve := { Serve.reset with reqs := l } }

/-- The module with request 5 in the intake queue of ring 0. -/
def admState : State :=
  { serveState model0 [{ req0 with state := .admitting }] with
    quads := []
    mem := cellMem [bytesOf 32 [(0, 5)]]
    cist := [(0, { Cistern.reset with queues := [(4096, { CQueue.reset with pkts := [⟨[0], 1, false, false⟩] })] })] }

/-- A shard of 4 bytes that is being fetched. -/
def shard0 : Shard := ⟨0, 0, 0, 0, 0, 4, 0, 0, sha512 [1, 2, 3, 4], 0, 1, true, 0, 0⟩

/-- A fetch in progress. -/
def job0 : FetchJob := ⟨[], 1, 5, none⟩

/-- The module with model entry 0 loading one shard. -/
def loadState : State := modelState { model0 with state := .loading, shards := [shard0], fetch := some job0 }
def loadRef0 : LoadRef := ⟨false, 0, 0⟩
def load0 : Load := ⟨[shard0], [], [], [], some job0, 0, [5]⟩

/-- A request of a parcel whose key is the byte 1, with its tag. -/
def mailOf (op : Nat) (parcel : BitVec 16) (l : Bytes) (f : Option Bytes := none) (port : Fin 8 := 4) : Mail :=
  let m : Mail :=
    { port := port, srcIp := 0, srcUdp := 0, magic := 0x4544, version := 1, hflags := 0, parcel := parcel, seq := 1, len := BitVec.ofNat 32 l.length,
      status := 0, resv := zeros 30, tag := 0, payload := l, fetched := f, now := 0, drop := false }
  { m with tag := BitVec.ofNat 128 (EdReq.tagOf ⟨op, m⟩ [1]) }

/-- The module whose parcels 0 and 1 have keys. -/
def keyed (s : State) : State :=
  { s with mail := { s.mail with boxes := [(0, { Mailbox.fresh with key := some [1] }), (1, { Mailbox.fresh with key := some [1] })] } }

/-- Sixteen bytes spell less than 2^128. -/
theorem leNat_lt (l : Bytes) : leNat l < 256 ^ l.length := by
  induction l with
  | nil => decide
  | cons a l ih =>
    have h := a.isLt
    simp only [leNat, List.length_cons, Nat.pow_succ]
    omega

/-- A request so tagged is authentic where its parcel has that key. -/
theorem authentic_mail {s : State} {op : Nat} {parcel : BitVec 16} {l : Bytes} {f : Option Bytes} {port : Fin 8}
    (h : (s.box parcel.toNat).key = some [1]) : s.authentic ⟨op, mailOf op parcel l f port⟩ = true := by
  have ht : ∀ (r : EdReq) (k : Bytes), r.tagOf k < 2 ^ 128 := fun r k => by
    unfold EdReq.tagOf
    refine Nat.lt_of_lt_of_le (leNat_lt _) (Nat.le_trans (Nat.pow_le_pow_right (by decide) (List.length_take_le 16 _)) (by decide))
  unfold State.authentic
  show (match (s.box parcel.toNat).key with | some key => _ | none => _) = true
  rw [h]
  show (EdReq.tagOf _ _ == (BitVec.ofNat 128 (EdReq.tagOf _ _)).toNat) = true
  rw [BitVec.toNat_ofNat, Nat.mod_eq_of_lt (ht _ _)]
  exact beq_self_eq_true _

/-- A request that comes through, of the small states. -/
theorem comes {s : State} {r : EdReq} (h1 : s.power.mode ≠ .off := by decide +kernel) (h2 : s.power.mode ≠ .starting := by decide +kernel)
    (h3 : mailHeadOk r.mail = true := by decide +kernel) (h4 : (s.at' r.mail.now).authentic r = true := by exact authentic_mail (by decide +kernel))
    (h5 : s.mail.setAside = [] := by decide +kernel) (h6 : ((s.at' r.mail.now).box r.mail.parcel.toNat).isNew r.mail.seq.toNat = true := by decide +kernel)
    (h7 : (s.at' r.mail.now).mustWait r.mail.parcel.toNat r.mail.seq.toNat = false := by decide +kernel) : comesThrough s r :=
  ⟨h1, h2, h3, h4, h5, h6, h7⟩

/-- A request that passes every check. -/
theorem pass {s : State} {r : EdReq} (h : comesThrough s r := by exact comes) (h1 : (accepted s r).edCheck r = 0 := by decide +kernel)
    (h2 : (accepted s r).power.mode = .serve := by decide +kernel) (h3 : (accepted s r).power.going = none := by decide +kernel) : passes s r :=
  ⟨h, h1, fun _ => ⟨h2, h3⟩⟩

/-- Two bytes of a number. -/
def two (n : Nat) : Bytes := toLe 2 n

/-- The module with fabric port 0 as given, planned to module 9 in tray slot 1. -/
def portState (p : FabPort) : State :=
  { modelState model0 with fab := { Fab.reset with ports := [(0, p)], plan := [some ⟨9, 1, 0⟩] }, time := { TimeSt.reset with cfg := 10 } }

def upPort : FabPort := { FabPort.reset with state := .up }

/-- A message from module 9 to this one. -/
def msg0 : MsgIn := ⟨Config.serial, 9, 8, 0, 0, 0, 0, 0, 0, 0, []⟩

/-- Commands that wait for answers of other modules. -/
def cmdFetch : SlCmd := { cmd0 with phase := .fetch, need := [(0, 4)] }
def cmdPush : SlCmd := { cmd0 with phase := .push, need := [(0, 4)] }

/-- A plot with a channel for input from member 1, and the module with that channel bound. -/
def chanPlot : Plot := { p0 with model := 256, plat := bytesOf 0x100 [(0x28, 0xC0), (0xEA, 1), (0xF0, 0x80), (0x80, 1), (0x81, 1), (0x90, 64)] }

def chanState (bound : Bool) : State :=
  { portState upPort with
    models := [(0, { model0 with serials := [5, 9] })]
    tiles := [(0, { tileOf c0 with lead := some 0 })]
    blocks := [(0, { Block.reset with plot := some chanPlot })]
    fab := { (portState upPort).fab with chans := if bound then [⟨0, 0, 9, false⟩] else [], agree := [⟨256, 0x0407, none⟩] } }

/-- A policy module of parcel 1. -/
def policy0 : Policy := ⟨1, [], [], 0, none, [], 0⟩
def policy1 : Policy := { policy0 with running := some ⟨1, 0⟩ }

/-- The module with a policy in slot 0, parcel 1 enabled, and its plot. -/
def polState (p : Policy) : State :=
  { modelState model0 with
    parcels := [(1, parcel0)]
    policies := [(0, some p)]
    blocks := [(0, { Block.reset with plot := some p0 })]
    arbs := [(0, { Arb.reset with starve := 1 })]
    sched := { Sched.reset with waits := [⟨256, false, none⟩] } }

/-- An interrupt controller with source 5 pending for core 0. -/
def hic0 : Hic :=
  { Hic.reset with enable := true, en := 32, pend := 32, prio := [(5, 9)] }

def hicState (h : Hic) (k : HgCore) : State := { s0 with hic := h, cores := [(0, k), (1, { HgCore.reset with running := true })] }

def core0 : HgCore := { HgCore.reset with running := true, mie := true, meie := true }

def full16 : Hic := { Hic.reset with active := List.replicate 16 ⟨0, 5, 9⟩ }

def rec0 : FbRec := ⟨1, 9, 0, 0, 0, 0, 0, 0, 0⟩
def rec1 : FbRec := ⟨1, 1, 0, 0, 0, 0, 0, 0, 0⟩
def bookState (l : List FbRec) : State := { s0 with book := { FieldBook.reset with ring := l, waiting := l.length } }

/-- Temperatures of every quadrant. -/
def temps (t : BitVec 8) : Samples := ⟨[[t], [t], [t], [t]], [], []⟩

def powerState (p : Power) : State := { s0 with power := p }
def pw0 : Power := s0.power

def waiter0 : Waiter := ⟨0, 0x80, 1, none, 0⟩
/-- One of parcel 1. -/
def waiter1 : Waiter := { waiter0 with parcel := 1 }
def stg0 : Staging := ⟨4, waiter0⟩
def act0 : Activation := ⟨3, [], waiter0⟩
def cores4 : SMap HgCore := [(0, core0), (1, core0), (2, core0), (3, core0)]

def event0 : EvMsg := ⟨1, 1, false, 0x80, 1, 0, 0, 0, [], some ⟨0, 0, 4⟩, 1, 0⟩
def boxState (e : EvMsg) : State :=
  { s0 with mail := { MailSt.reset with boxes := [(0, { Mailbox.fresh with key := some [1], unacked := [e] })] } }


/-- Another serial number than this module's. -/
theorem other_dest : (Config.serial + 1).toNat ≠ ownSerial := by
  unfold ownSerial
  intro h
  have := BitVec.eq_of_toNat_eq h
  revert this
  generalize Config.serial = x
  bv_omega

/-- What an `Option` holds, as its two parts, or its three. -/
theorem got {α β : Type} {o : Option (α × β)} (h : o.isSome = true) : o = some ((o.get h).1, (o.get h).2) := (Option.some_get h).symm
theorem got3 {α β γ : Type} {o : Option (α × β × γ)} (h : o.isSome = true) : o = some ((o.get h).1, (o.get h).2.1, (o.get h).2.2) :=
  (Option.some_get h).symm


/-! A signed image: under the exponent 1 and a modulus of ones a signature is the encoded message itself. -/

/-- The encoded message of a signature with a salt of zeros (RFC 8017). -/
def pssEm (m : Bytes) : Bytes :=
  let h := sha512 (zeros 8 ++ sha512 m ++ zeros 64)
  match xorBytes (zeros 382 ++ [1] ++ zeros 64) (mgf1 h 447) with
  | b :: l => (b &&& 0x7F) :: l ++ h ++ [0xBC]
  | [] => []

def onesN : Bytes := List.replicate 512 0xFF

/-- A shard table of one shard of 64 bytes, and the signed manifest before it: of a model (kind 0) or an adapter (kind 1). -/
def tab0 : Bytes := bytesOf 128 [(7, 1), (0x10, 64)]
def hdr0 (kind : Nat) : Bytes :=
  bytesOf 64 [(0, 0x44), (1, 0x52), (2, 0x58), (3, 0x4D), (4, 1), (6, kind), (10, 1), (12, 1), (0x20, 64), (0x29, 3), (0x32, 0x20)] ++
    sha512 tab0 ++ zeros 128
def image0 (kind : Nat) : Bytes := hdr0 kind ++ pssEm (hdr0 kind) ++ tab0
def parsed0 (kind : Nat) : Image := ⟨(image0 kind).take 768, (image0 kind).drop 768⟩

theorem parsed_model : imageOf (some (image0 0)) = some (parsed0 0) := by decide +kernel
theorem parsed_adapter : imageOf (some (image0 1)) = some (parsed0 1) := by decide +kernel

/-- The module with model 0 of parcel 1, whose signing key that is. -/
def imgState (m : Model) : State := { modelState m with parcels := [(1, { parcel0 with signE := 1, signN := onesN, qAdapters := 4 })] }

theorem image_passes {s : State} {o : Nat} {base : Bool} (k : Nat) (hk : (k = 0) ∨ (k = 1 ∧ base = true)) (hs : s.signKey o = (1, onesN)) :
    s.imageStatus (some (image0 k)) k o 1 0 0 base [] = 0 := by
  unfold State.imageStatus
  rcases hk with rfl | ⟨rfl, rfl⟩
  · have e : leAt (parsed0 0).manifest 8 1 = 0 := by decide +kernel
    simp only [parsed_model, e, ↓reduceIte, hs, List.all_nil, Bool.and_true]
    decide +kernel
  · have e : leAt (parsed0 1).manifest 8 1 = 0 := by decide +kernel
    simp only [parsed_adapter, e, ↓reduceIte, hs, List.all_nil, Bool.and_true]
    decide +kernel


/-- An adapter version that is loading. -/
def aver0 : AVer := ⟨1, 1, 0, [], [], false, 0, [5], [], [], [], [], none, 0, 0⟩

theorem get_map {α : Type} (d v : α) (k : Nat) : ∀ l : List Nat, k ∈ l → SMap.get d (l.map (fun i => (i, v))) k = v
  | a :: l, h => by
    by_cases e : a = k
    · simp [SMap.get, e]
    · simp [SMap.get, e, get_map d v k l (by simpa [Ne.symm e] using h)]

/-- The module with a model and every adapter entry in use. -/
def allUsed : State :=
  { modelState model0 with adapters := (List.range 4096).map (fun i => (i, { Adapter.reset with used := true })) }

theorem used_all {s : State} {v : Adapter} {l : List Nat} (h : s.adapters = l.map (fun i => (i, v))) (hv : v.used = true) :
    l.find? (fun i => !(s.adapter i).used && decide ((s.adapter i).freeAt ≤ s.now)) = none := by
  refine List.find?_eq_none.mpr (fun i hi => ?_)
  have e : s.adapter i = v := by
    unfold State.adapter
    rw [h]
    exact get_map _ _ i l hi
  simp [e, hv]

theorem all_used : (List.range 4096).find? (fun i => !(allUsed.adapter i).used && decide ((allUsed.adapter i).freeAt ≤ allUsed.now)) = none :=
  used_all (v := { Adapter.reset with used := true }) (by rw [allUsed]) rfl

/-- A policy image of parcel 1 for slot 1, without a body, signed by that key. -/
def polHead : Bytes :=
  bytesOf 128 [(0, 0x50), (1, 0x50), (2, 0x4F), (3, 0x4C), (4, 1), (6, 1), (8, 1)] ++ sha512 [] ++ zeros 64
def policyImage : Bytes := polHead ++ pssEm polHead

/-- The module whose link leads to module `n`. -/
def routedTo (n : Nat) : State := portState { upPort with benchSerial := n }

theorem route_there (n : Nat) : (routedTo n).routePort n ≠ none := by
  have h : (0 : Nat) ∈ (routedTo n).directPorts n := by
    refine List.mem_filter.mpr ⟨by decide, ?_⟩
    have e : (routedTo n).fport 0 = { upPort with benchSerial := n } := rfl
    simp [e]
    rfl
  unfold State.routePort
  cases e : (routedTo n).directPorts n with
  | nil => rw [e] at h; cases h
  | cons a l => simp

set_option maxRecDepth 4000 in
/-- States and operands that meet the hypotheses of `ScalarOperationsWriteTheirResult`, clause by clause. -/
theorem witness_ScalarOperationsWriteTheirResult :
  (∃ (x : Issue) (f : SlotF) (s : State) (c : Ctx), Runs x 4 1 f s c) ∧
  (∃ (x : Issue) (f : SlotF) (s : State) (c : Ctx), Runs x 4 2 f s c) ∧
  (∃ (x : Issue) (f : SlotF) (s : State) (c : Ctx), Runs x 4 3 f s c) ∧
  (∃ (x : Issue) (f : SlotF) (s : State) (c : Ctx), Runs x 4 4 f s c) ∧
  (∃ (x : Issue) (f : SlotF) (s : State) (c : Ctx), Runs x 4 5 f s c) ∧
  (∃ (x : Issue) (f : SlotF) (s : State) (c : Ctx), Runs x 4 6 f s c) ∧
  (∃ (x : Issue) (f : SlotF) (s : State) (c : Ctx), Runs x 4 7 f s c) ∧
  (∃ (x : Issue) (f : SlotF) (s : State) (c : Ctx), Runs x 4 8 f s c) ∧
  (∃ (x : Issue) (f : SlotF) (s : State) (c : Ctx), Runs x 4 9 f s c) ∧
  (∃ (x : Issue) (f : SlotF) (s : State) (c : Ctx), Runs x 4 10 f s c) :=
  ⟨⟨x0, fOf 0x0 0x0 0x0 0x0, opState 4 1 (fOf 0x0 0x0 0x0 0x0) c0, c0, runs⟩,
   ⟨x0, fOf 0x0 0x0 0x0 0x0, opState 4 2 (fOf 0x0 0x0 0x0 0x0) c0, c0, runs⟩,
   ⟨x0, fOf 0x0 0x0 0x0 0x0, opState 4 3 (fOf 0x0 0x0 0x0 0x0) c0, c0, runs⟩,
   ⟨x0, fOf 0x0 0x0 0x0 0x0, opState 4 4 (fOf 0x0 0x0 0x0 0x0) c0, c0, runs⟩,
   ⟨x0, fOf 0x0 0x0 0x0 0x0, opState 4 5 (fOf 0x0 0x0 0x0 0x0) c0, c0, runs⟩,
   ⟨x0, fOf 0x0 0x0 0x0 0x0, opState 4 6 (fOf 0x0 0x0 0x0 0x0) c0, c0, runs⟩,
   ⟨x0, fOf 0x0 0x0 0x0 0x0, opState 4 7 (fOf 0x0 0x0 0x0 0x0) c0, c0, runs⟩,
   ⟨x0, fOf 0x0 0x0 0x0 0x0, opState 4 8 (fOf 0x0 0x0 0x0 0x0) c0, c0, runs⟩,
   ⟨x0, fOf 0x0 0x0 0x0 0x0, opState 4 9 (fOf 0x0 0x0 0x0 0x0) c0, c0, runs⟩,
   ⟨x0, fOf 0x1F 0x1F 0xFF 0x0, opState 4 10 (fOf 0x1F 0x1F 0xFF 0x0) c0, c0, runs⟩⟩

set_option maxRecDepth 4000 in
/-- States and operands that meet the hypotheses of `PredicateOperationsWriteUnderTheMask`, clause by clause. -/
theorem witness_PredicateOperationsWriteUnderTheMask :
  (∃ (x : Issue) (f : SlotF) (s : State) (c : Ctx), Runs x 4 11 f s c) ∧
  (∃ (x : Issue) (f : SlotF) (s : State) (c : Ctx), Runs x 4 21 f s c) ∧
  (∃ (x : Issue) (f : SlotF) (s : State) (c : Ctx), Runs x 4 22 f s c) ∧
  (∃ (x : Issue) (f : SlotF) (s : State) (c : Ctx), Runs x 4 23 f s c) ∧
  (∃ (x : Issue) (f : SlotF) (s : State) (c : Ctx), Runs x 4 24 f s c) ∧
  (∃ (x : Issue) (f : SlotF) (s : State) (c : Ctx), Runs x 4 25 f s c) ∧
  (∃ (x : Issue) (f : SlotF) (s : State) (c : Ctx), Runs x 3 13 f s c) :=
  ⟨⟨x0, fOf 0x80 0x0 0x0 0x0, opState 4 11 (fOf 0x80 0x0 0x0 0x0) c0, c0, runs⟩,
   ⟨x0, fOf 0x80 0x80 0x80 0x0, opState 4 21 (fOf 0x80 0x80 0x80 0x0) c0, c0, runs⟩,
   ⟨x0, fOf 0x80 0x80 0x80 0x0, opState 4 22 (fOf 0x80 0x80 0x80 0x0) c0, c0, runs⟩,
   ⟨x0, fOf 0x80 0x80 0x80 0x0, opState 4 23 (fOf 0x80 0x80 0x80 0x0) c0, c0, runs⟩,
   ⟨x0, fOf 0x80 0x80 0x0 0x0, opState 4 24 (fOf 0x80 0x80 0x0 0x0) c0, c0, runs⟩,
   ⟨x0, fOf 0x8F 0x0 0x0 0x0, opState 4 25 (fOf 0x8F 0x0 0x0 0x0) c0, c0, runs⟩,
   ⟨x0, fOf 0x80 0x40 0x7F 0x0, opState 3 13 (fOf 0x80 0x40 0x7F 0x0) c0, c0, runs⟩⟩

set_option maxRecDepth 4000 in
/-- States and operands that meet the hypotheses of `LaneArithmeticRoundsEachLaneOnce`, clause by clause. -/
theorem witness_LaneArithmeticRoundsEachLaneOnce :
  (∃ (x : Issue) (f : SlotF) (s : State) (c : Ctx), Runs x 3 1 f s c) ∧
  (∃ (x : Issue) (f : SlotF) (s : State) (c : Ctx), Runs x 3 2 f s c) ∧
  (∃ (x : Issue) (f : SlotF) (s : State) (c : Ctx), Runs x 3 3 f s c) ∧
  (∃ (x : Issue) (f : SlotF) (s : State) (c : Ctx), Runs x 3 4 f s c) ∧
  (∃ (x : Issue) (f : SlotF) (s : State) (c : Ctx), Runs x 3 5 f s c) ∧
  (∃ (x : Issue) (f : SlotF) (s : State) (c : Ctx), Runs x 3 6 f s c) :=
  ⟨⟨x0, fOf 0x40 0x40 0x40 0x40, opState 3 1 (fOf 0x40 0x40 0x40 0x40) c0, c0, runs⟩,
   ⟨x0, fOf 0x7F 0x40 0x40 0x0, opState 3 2 (fOf 0x7F 0x40 0x40 0x0) c0, c0, runs⟩,
   ⟨x0, fOf 0x7F 0x40 0x40 0x0, opState 3 3 (fOf 0x7F 0x40 0x40 0x0) c0, c0, runs⟩,
   ⟨x0, fOf 0x7F 0x40 0x40 0x0, opState 3 4 (fOf 0x7F 0x40 0x40 0x0) c0, c0, runs⟩,
   ⟨x0, fOf 0x7F 0x40 0x40 0x0, opState 3 5 (fOf 0x7F 0x40 0x40 0x0) c0, c0, runs⟩,
   ⟨x0, fOf 0x7F 0x40 0x40 0x0, opState 3 6 (fOf 0x7F 0x40 0x40 0x0) c0, c0, runs⟩⟩

set_option maxRecDepth 4000 in
/-- States and operands that meet the hypotheses of `LaneFunctionsAndConversionsWriteTheirLanes`, clause by clause. -/
theorem witness_LaneFunctionsAndConversionsWriteTheirLanes :
  (∃ (x : Issue) (f : SlotF) (s : State) (c : Ctx), Runs x 3 7 f s c) ∧
  (∃ (x : Issue) (f : SlotF) (s : State) (c : Ctx), Runs x 3 8 f s c) ∧
  (∃ (x : Issue) (f : SlotF) (s : State) (c : Ctx), Runs x 3 9 f s c) ∧
  (∃ (x : Issue) (f : SlotF) (s : State) (c : Ctx), Runs x 3 10 f s c) ∧
  (∃ (x : Issue) (f : SlotF) (s : State) (c : Ctx), Runs x 3 11 f s c) ∧
  (∃ (x : Issue) (f : SlotF) (s : State) (c : Ctx), Runs x 3 12 f s c) ∧
  (∃ (x : Issue) (f : SlotF) (s : State) (c : Ctx), Runs x 4 12 f s c) ∧
  (∃ (x : Issue) (f : SlotF) (s : State) (c : Ctx), Runs x 4 13 f s c) :=
  ⟨⟨x0, fOf 0x40 0x40 0x0 0x0, opState 3 7 (fOf 0x40 0x40 0x0 0x0) c0, c0, runs⟩,
   ⟨x0, fOf 0x40 0x40 0x0 0x0, opState 3 8 (fOf 0x40 0x40 0x0 0x0) c0, c0, runs⟩,
   ⟨x0, fOf 0x40 0x40 0x0 0x0, opState 3 9 (fOf 0x40 0x40 0x0 0x0) c0, c0, runs⟩,
   ⟨x0, fOf 0x40 0x40 0x0 0x0, opState 3 10 (fOf 0x40 0x40 0x0 0x0) c0, c0, runs⟩,
   ⟨x0, fOf 0x40 0x40 0x0 0x0, opState 3 11 (fOf 0x40 0x40 0x0 0x0) c0, c0, runs⟩,
   ⟨x0, fOf 0x40 0x40 0x0 0x0, opState 3 12 (fOf 0x40 0x40 0x0 0x0) c0, c0, runs⟩,
   ⟨x0, fOf 0x0 0x40 0x0 0x0, opState 4 12 (fOf 0x0 0x40 0x0 0x0) c0, c0, runs⟩,
   ⟨x0, fOf 0x40 0x0 0x0 0x0, opState 4 13 (fOf 0x40 0x0 0x0 0x0) c0, c0, runs⟩⟩

set_option maxRecDepth 4000 in
/-- States and operands that meet the hypotheses of `IntegerLaneAndMoveOperationsWriteTheirLanes`, clause by clause. -/
theorem witness_IntegerLaneAndMoveOperationsWriteTheirLanes :
  (∃ (x : Issue) (f : SlotF) (s : State) (c : Ctx), Runs x 4 14 f s c) ∧
  (∃ (x : Issue) (f : SlotF) (s : State) (c : Ctx), Runs x 4 15 f s c) ∧
  (∃ (x : Issue) (f : SlotF) (s : State) (c : Ctx), Runs x 4 16 f s c) ∧
  (∃ (x : Issue) (f : SlotF) (s : State) (c : Ctx), Runs x 4 17 f s c) ∧
  (∃ (x : Issue) (f : SlotF) (s : State) (c : Ctx), Runs x 4 18 f s c) ∧
  (∃ (x : Issue) (f : SlotF) (s : State) (c : Ctx), Runs x 4 19 f s c) ∧
  (∃ (x : Issue) (f : SlotF) (s : State) (c : Ctx), Runs x 4 20 f s c) :=
  ⟨⟨x0, fOf 0x40 0x40 0x40 0x0, opState 4 14 (fOf 0x40 0x40 0x40 0x0) c0, c0, runs⟩,
   ⟨x0, fOf 0x40 0x40 0x40 0x0, opState 4 15 (fOf 0x40 0x40 0x40 0x0) c0, c0, runs⟩,
   ⟨x0, fOf 0x40 0x40 0x40 0x0, opState 4 16 (fOf 0x40 0x40 0x40 0x0) c0, c0, runs⟩,
   ⟨x0, fOf 0x40 0x40 0x40 0x0, opState 4 17 (fOf 0x40 0x40 0x40 0x0) c0, c0, runs⟩,
   ⟨x0, fOf 0x40 0x40 0x40 0x0, opState 4 18 (fOf 0x40 0x40 0x40 0x0) c0, c0, runs⟩,
   ⟨x0, fOf 0x40 0x40 0x40 0x80, opState 4 19 (fOf 0x40 0x40 0x40 0x80) c0, c0, runs⟩,
   ⟨x0, fOf 0x40 0x40 0x0 0x0, opState 4 20 (fOf 0x40 0x40 0x0 0x0) c0, c0, runs⟩⟩

set_option maxRecDepth 4000 in
/-- States and operands that meet the hypotheses of `MatrixOperationsActOnTheirBank`, clause by clause. -/
theorem witness_MatrixOperationsActOnTheirBank :
  (∃ (x : Issue) (f : SlotF) (s : State) (c : Ctx), Runs x 1 1 f s c ∧ mayUse x s f.dst) ∧
  (∃ (x : Issue) (f : SlotF) (s : State) (c : Ctx), Runs x 1 2 f s c ∧ mayUse x s f.dst) ∧
  (∃ (x : Issue) (f : SlotF) (s : State) (c : Ctx), Runs x 2 1 f s c ∧ mayUse x s f.dst) ∧
  (∃ (x : Issue) (f : SlotF) (s : State) (c : Ctx), Runs x 2 5 f s c ∧ mayUse x s f.dst) ∧
  (∃ (x : Issue) (f : SlotF) (s : State) (c : Ctx), Runs x 2 4 f s c ∧ mayUse x s f.dst) ∧
  (∃ (x : Issue) (f : SlotF) (s : State) (c : Ctx), Runs x 2 3 f s c ∧ mayUse x s f.srcA) ∧
  (∃ (x : Issue) (f : SlotF) (s : State) (c : Ctx), Runs x 2 2 f s c ∧ mayUse x s f.srcA) ∧
  (∃ (x : Issue) (f : SlotF) (s : State) (c : Ctx), Runs x 2 6 f s c ∧ mayUse x s f.srcA) ∧
  (∃ (x : Issue) (f : SlotF) (s : State) (c : Ctx), Runs x 1 1 f s c ∧ ¬ mayUse x s f.dst) ∧
  (∃ (x : Issue) (f : SlotF) (s : State) (c : Ctx), Runs x 1 2 f s c ∧ ¬ mayUse x s f.dst) ∧
  (∃ (x : Issue) (f : SlotF) (s : State) (c : Ctx), Runs x 2 1 f s c ∧ Guarded x s c f ∧ ¬ mayUse x s f.dst) ∧
  (∃ (x : Issue) (f : SlotF) (s : State) (c : Ctx), Runs x 2 5 f s c ∧ Guarded x s c f ∧ ¬ mayUse x s f.dst) ∧
  (∃ (x : Issue) (f : SlotF) (s : State) (c : Ctx), Runs x 2 4 f s c ∧ Guarded x s c f ∧ ¬ mayUse x s f.dst) ∧
  (∃ (x : Issue) (f : SlotF) (s : State) (c : Ctx), Runs x 2 3 f s c ∧ ¬ mayUse x s f.srcA) ∧
  (∃ (x : Issue) (f : SlotF) (s : State) (c : Ctx), Runs x 2 2 f s c ∧ ¬ mayUse x s f.srcA) ∧
  (∃ (x : Issue) (f : SlotF) (s : State) (c : Ctx), Runs x 2 6 f s c ∧ Guarded x s c f ∧ ¬ mayUse x s f.srcA) ∧
  (∃ (x : Issue) (f : SlotF) (s : State) (c : Ctx), Runs x 2 1 f s c ∧ ¬ Guarded x s c f) ∧
  (∃ (x : Issue) (f : SlotF) (s : State) (c : Ctx), Runs x 2 5 f s c ∧ ¬ Guarded x s c f) ∧
  (∃ (x : Issue) (f : SlotF) (s : State) (c : Ctx), Runs x 2 4 f s c ∧ ¬ Guarded x s c f) ∧
  (∃ (x : Issue) (f : SlotF) (s : State) (c : Ctx), Runs x 2 6 f s c ∧ ¬ Guarded x s c f) :=
  ⟨⟨x0, ⟨false, false, 0, 0xC0, 0x40, 0x40, 0xFF, 17, 0⟩, opState 1 1 (⟨false, false, 0, 0xC0, 0x40, 0x40, 0xFF, 17, 0⟩) c0, c0, runs, by unfold mayUse; decide +kernel⟩,
   ⟨x0, ⟨false, false, 0, 0xC0, 0x40, 0x40, 0xFF, 17, 0⟩, opState 1 2 (⟨false, false, 0, 0xC0, 0x40, 0x40, 0xFF, 17, 0⟩) c0, c0, runs, by unfold mayUse; decide +kernel⟩,
   ⟨x0, fOf 0xC1 0x0 0x0 0x0, opState 2 1 (fOf 0xC1 0x0 0x0 0x0) c0, c0, runs, by unfold mayUse; decide +kernel⟩,
   ⟨x0, fOf 0xC0 0x0 0x0 0x0, opState 2 5 (fOf 0xC0 0x0 0x0 0x0) c0, c0, runs, by unfold mayUse; decide +kernel⟩,
   ⟨x0, fOf 0xC0 0x40 0x0 0x0, opState 2 4 (fOf 0xC0 0x40 0x0 0x0) c0, c0, runs, by unfold mayUse; decide +kernel⟩,
   ⟨x0, fOf 0x40 0xC0 0x0 0x0, opState 2 3 (fOf 0x40 0xC0 0x0 0x0) c0, c0, runs, by unfold mayUse; decide +kernel⟩,
   ⟨x0, fOf 0x40 0xC1 0x0 0xFF, opState 2 2 (fOf 0x40 0xC1 0x0 0xFF) c0, c0, runs, by unfold mayUse; decide +kernel⟩,
   ⟨x0, fOf 0x0 0xC0 0x0 0x0, opState 2 6 (fOf 0x0 0xC0 0x0 0x0) c0, c0, runs, by unfold mayUse; decide +kernel⟩,
   ⟨x0, ⟨false, false, 0, 0xC0, 0x40, 0x40, 0xFF, 17, 0⟩, (opState 1 1 (⟨false, false, 0, 0xC0, 0x40, 0x40, 0xFF, 17, 0⟩) (c0)).updTile 0 (fun t => t.setBank 0 { Bank.clear with owner := some 3 }), c0, runs, by unfold mayUse; decide +kernel⟩,
   ⟨x0, ⟨false, false, 0, 0xC0, 0x40, 0x40, 0xFF, 17, 0⟩, (opState 1 2 (⟨false, false, 0, 0xC0, 0x40, 0x40, 0xFF, 17, 0⟩) (c0)).updTile 0 (fun t => t.setBank 0 { Bank.clear with owner := some 3 }), c0, runs, by unfold mayUse; decide +kernel⟩,
   ⟨x0, ⟨false, false, 0, 0xC0, 0x40, 0x40, 0xFF, 17, 0⟩, (opState 2 1 (⟨false, false, 0, 0xC0, 0x40, 0x40, 0xFF, 17, 0⟩) (c0)).updTile 0 (fun t => t.setBank 0 { Bank.clear with owner := some 3 }), c0, runs, by unfold Guarded mayUse; decide +kernel⟩,
   ⟨x0, ⟨false, false, 0, 0xC0, 0x40, 0x40, 0xFF, 17, 0⟩, (opState 2 5 (⟨false, false, 0, 0xC0, 0x40, 0x40, 0xFF, 17, 0⟩) (c0)).updTile 0 (fun t => t.setBank 0 { Bank.clear with owner := some 3 }), c0, runs, by unfold Guarded mayUse; decide +kernel⟩,
   ⟨x0, ⟨false, false, 0, 0xC0, 0x40, 0x40, 0xFF, 17, 0⟩, (opState 2 4 (⟨false, false, 0, 0xC0, 0x40, 0x40, 0xFF, 17, 0⟩) (c0)).updTile 0 (fun t => t.setBank 0 { Bank.clear with owner := some 3 }), c0, runs, by unfold Guarded mayUse; decide +kernel⟩,
   ⟨x0, fOf 0x40 0xC0 0x0 0x0, (opState 2 3 (fOf 0x40 0xC0 0x0 0x0) (c0)).updTile 0 (fun t => t.setBank 0 { Bank.clear with owner := some 3 }), c0, runs, by unfold mayUse; decide +kernel⟩,
   ⟨x0, fOf 0x40 0xC0 0 0xFF, (opState 2 2 (fOf 0x40 0xC0 0 0xFF) (c0)).updTile 0 (fun t => t.setBank 0 { Bank.clear with owner := some 3 }), c0, runs, by unfold mayUse; decide +kernel⟩,
   ⟨x0, fOf 0x0 0xC0 0x0 0x0, (opState 2 6 (fOf 0x0 0xC0 0x0 0x0) (c0)).updTile 0 (fun t => t.setBank 0 { Bank.clear with owner := some 3 }), c0, runs, by unfold Guarded mayUse; decide +kernel⟩,
   ⟨x0, ⟨true, false, 0, 0xC1, 0, 0, 0, 0, 0⟩, opState 2 1 (⟨true, false, 0, 0xC1, 0, 0, 0, 0, 0⟩) (c0), c0, runs, by unfold Guarded; decide +kernel⟩,
   ⟨x0, ⟨true, false, 0, 0xC0, 0, 0, 0, 0, 0⟩, opState 2 5 (⟨true, false, 0, 0xC0, 0, 0, 0, 0, 0⟩) (c0), c0, runs, by unfold Guarded; decide +kernel⟩,
   ⟨x0, ⟨true, false, 0, 0xC0, 0x40, 0, 0, 0, 0⟩, opState 2 4 (⟨true, false, 0, 0xC0, 0x40, 0, 0, 0, 0⟩) (c0), c0, runs, by unfold Guarded; decide +kernel⟩,
   ⟨x0, ⟨true, false, 0, 0, 0xC0, 0, 0, 0, 0⟩, opState 2 6 (⟨true, false, 0, 0, 0xC0, 0, 0, 0, 0⟩) (c0), c0, runs, by unfold Guarded; decide +kernel⟩⟩

set_option maxRecDepth 4000 in
/-- States and operands that meet the hypotheses of `LoadsAndStoresMoveTheirBytes`, clause by clause. -/
theorem witness_LoadsAndStoresMoveTheirBytes :
  (∃ (x : Issue) (hi : Bool) (f : SlotF) (s : State) (c : Ctx) (k : Nat), Runs x (if hi then 6 else 5) 1 f s c ∧ reaches x s c f 32 256 k ∧ firstUe 16 s.mem.ueField k 256 = none) ∧
  (∃ (x : Issue) (hi : Bool) (f : SlotF) (s : State) (c : Ctx) (k u : Nat), Runs x (if hi then 6 else 5) 1 f s c ∧ reaches x s c f 32 256 k ∧ firstUe 16 s.mem.ueField k 256 = some u ∧ (s.tile x.tile.val).lead = none) ∧
  (∃ (x : Issue) (hi : Bool) (f : SlotF) (s : State) (c : Ctx) (k u b : Nat) (p : Plot), Runs x (if hi then 6 else 5) 1 f s c ∧ reaches x s c f 32 256 k ∧ firstUe 16 s.mem.ueField k 256 = some u ∧ (s.tile x.tile.val).lead = some b ∧ s.plot b = some p ∧ (s.mem.tag u).cls = 2 ∧ p.hasReq (s.mem.tag u).req = true) ∧
  (∃ (x : Issue) (hi : Bool) (f : SlotF) (s : State) (c : Ctx) (k u b : Nat) (p : Plot), Runs x (if hi then 6 else 5) 1 f s c ∧ reaches x s c f 32 256 k ∧ firstUe 16 s.mem.ueField k 256 = some u ∧ (s.tile x.tile.val).lead = some b ∧ s.plot b = some p ∧ ¬ ((s.mem.tag u).cls = 2 ∧ p.hasReq (s.mem.tag u).req = true)) ∧
  (∃ (x : Issue) (hi : Bool) (f : SlotF) (s : State) (c : Ctx) (k : Nat), Runs x (if hi then 6 else 5) 2 f s c ∧ Guarded x s c f ∧ reaches x s c f 8 8 k ∧ firstUe 16 s.mem.ueField k 8 = none) ∧
  (∃ (x : Issue) (hi : Bool) (f : SlotF) (s : State) (c : Ctx) (k u : Nat), Runs x (if hi then 6 else 5) 2 f s c ∧ Guarded x s c f ∧ reaches x s c f 8 8 k ∧ firstUe 16 s.mem.ueField k 8 = some u ∧ (s.tile x.tile.val).lead = none) ∧
  (∃ (x : Issue) (hi : Bool) (f : SlotF) (s : State) (c : Ctx) (k u b : Nat) (p : Plot), Runs x (if hi then 6 else 5) 2 f s c ∧ Guarded x s c f ∧ reaches x s c f 8 8 k ∧ firstUe 16 s.mem.ueField k 8 = some u ∧ (s.tile x.tile.val).lead = some b ∧ s.plot b = some p ∧ (s.mem.tag u).cls = 2 ∧ p.hasReq (s.mem.tag u).req = true) ∧
  (∃ (x : Issue) (hi : Bool) (f : SlotF) (s : State) (c : Ctx) (k u b : Nat) (p : Plot), Runs x (if hi then 6 else 5) 2 f s c ∧ Guarded x s c f ∧ reaches x s c f 8 8 k ∧ firstUe 16 s.mem.ueField k 8 = some u ∧ (s.tile x.tile.val).lead = some b ∧ s.plot b = some p ∧ ¬ ((s.mem.tag u).cls = 2 ∧ p.hasReq (s.mem.tag u).req = true)) ∧
  (∃ (x : Issue) (hi : Bool) (f : SlotF) (s : State) (c : Ctx) (k : Nat), Runs x (if hi then 6 else 5) 3 f s c ∧ reaches x s c f 32 256 k) ∧
  (∃ (x : Issue) (hi : Bool) (f : SlotF) (s : State) (c : Ctx) (k : Nat), Runs x (if hi then 6 else 5) 4 f s c ∧ reaches x s c f 8 8 k ∧ Guarded x s c f) ∧
  (∃ (x : Issue) (hi : Bool) (f : SlotF) (s : State) (c : Ctx), Runs x (if hi then 6 else 5) 2 f s c ∧ ¬ Guarded x s c f) ∧
  (∃ (x : Issue) (hi : Bool) (f : SlotF) (s : State) (c : Ctx), Runs x (if hi then 6 else 5) 4 f s c ∧ ¬ Guarded x s c f) ∧
  (∃ (x : Issue) (hi : Bool) (f : SlotF) (s : State) (c : Ctx), Runs x (if hi then 6 else 5) 1 f s c ∧ addrOf x s c f % 32 ≠ 0) ∧
  (∃ (x : Issue) (hi : Bool) (f : SlotF) (s : State) (c : Ctx), Runs x (if hi then 6 else 5) 1 f s c ∧ addrOf x s c f % 32 = 0 ∧ (s.tile x.tile.val).regs.fwinLimit < addrOf x s c f + 256) ∧
  (∃ (x : Issue) (hi : Bool) (f : SlotF) (s : State) (c : Ctx), Runs x (if hi then 6 else 5) 2 f s c ∧ Guarded x s c f ∧ addrOf x s c f % 8 ≠ 0) ∧
  (∃ (x : Issue) (hi : Bool) (f : SlotF) (s : State) (c : Ctx), Runs x (if hi then 6 else 5) 2 f s c ∧ Guarded x s c f ∧ addrOf x s c f % 8 = 0 ∧ (s.tile x.tile.val).regs.fwinLimit < addrOf x s c f + 8) ∧
  (∃ (x : Issue) (hi : Bool) (f : SlotF) (s : State) (c : Ctx), Runs x (if hi then 6 else 5) 3 f s c ∧ addrOf x s c f % 32 ≠ 0) ∧
  (∃ (x : Issue) (hi : Bool) (f : SlotF) (s : State) (c : Ctx), Runs x (if hi then 6 else 5) 3 f s c ∧ addrOf x s c f % 32 = 0 ∧ (s.tile x.tile.val).regs.fwinLimit < addrOf x s c f + 256) ∧
  (∃ (x : Issue) (hi : Bool) (f : SlotF) (s : State) (c : Ctx), Runs x (if hi then 6 else 5) 4 f s c ∧ Guarded x s c f ∧ addrOf x s c f % 8 ≠ 0) ∧
  (∃ (x : Issue) (hi : Bool) (f : SlotF) (s : State) (c : Ctx), Runs x (if hi then 6 else 5) 4 f s c ∧ Guarded x s c f ∧ addrOf x s c f % 8 = 0 ∧ (s.tile x.tile.val).regs.fwinLimit < addrOf x s c f + 8) :=
  ⟨⟨x0, false, fOf 0x40 0 0 0, opState 5 1 (fOf 0x40 0 0 0) (c0), c0, 0, runs, by unfold reaches; decide +kernel⟩,
   ⟨x0, false, fOf 0x40 0 0 0, { opState 5 1 (fOf 0x40 0 0 0) (c0) with mem := { s0.mem with ueField := [0] } }, c0, 0, 0, runs, by unfold reaches; decide +kernel⟩,
   ⟨x0, false, fOf 0x40 0 0 0, { (opState 5 1 (fOf 0x40 0 0 0) (c0)).updTile 0 (fun t => { t with lead := some 0 }) with mem := { s0.mem with ueField := [(0, true)], tags := [(0, ⟨2, 5⟩)] }, blocks := [(0, { Block.reset with plot := some { p0 with state := .running, task := some { task0 with slots := [⟨5, 0, 1, 0, false, 0, none⟩] } } })] }, c0, 0, 0, 0, _, runs, by unfold reaches; decide +kernel, by decide +kernel, by decide +kernel, rfl, by decide +kernel⟩,
   ⟨x0, true, fOf 0x40 0 0 0, { (opState 6 1 (fOf 0x40 0 0 0) (c0)).updTile 0 (fun t => { t with lead := some 0 }) with mem := { s0.mem with ueField := [(0, true)] }, blocks := [(0, { Block.reset with plot := some { p0 with state := .running, task := some { task0 with slots := [⟨5, 0, 1, 0, false, 0, none⟩] } } })] }, c0, 0, 0, 0, _, runs, by unfold reaches; decide +kernel, by decide +kernel, by decide +kernel, rfl, by decide +kernel⟩,
   ⟨x0, false, ⟨false, false, 0, 0, 0, 0, 0, 0, 0⟩, opState 5 2 (⟨false, false, 0, 0, 0, 0, 0, 0, 0⟩) (c0), c0, 0, runs, by unfold Guarded reaches; decide +kernel⟩,
   ⟨x0, false, fOf 0 0 0 0, { opState 5 2 (fOf 0 0 0 0) (c0) with mem := { s0.mem with ueField := [0] } }, c0, 0, 0, runs, by unfold Guarded reaches; decide +kernel⟩,
   by refine ⟨x0, false, fOf 0 0 0 0, { (opState 5 2 (fOf 0 0 0 0) (c0)).updTile 0 (fun t => { t with lead := some 0 }) with mem := { s0.mem with ueField := [(0, true)], tags := [(0, ⟨2, 5⟩)] }, blocks := [(0, { Block.reset with plot := some { p0 with state := .running, task := some { task0 with slots := [⟨5, 0, 1, 0, false, 0, none⟩] } } })] }, c0, 0, 0, 0, _, runs, by unfold Guarded; decide +kernel, by unfold reaches; decide +kernel, ?_, ?_, rfl, ?_⟩ <;> decide +kernel,
   by refine ⟨x0, true, fOf 0 0 0 0, { (opState 6 2 (fOf 0 0 0 0) (c0)).updTile 0 (fun t => { t with lead := some 0 }) with mem := { s0.mem with ueField := [(0, true)] }, blocks := [(0, { Block.reset with plot := some { p0 with state := .running, task := some { task0 with slots := [⟨5, 0, 1, 0, false, 0, none⟩] } } })] }, c0, 0, 0, 0, _, runs, by unfold Guarded; decide +kernel, by unfold reaches; decide +kernel, ?_, ?_, rfl, ?_⟩ <;> decide +kernel,
   ⟨x0, false, ⟨false, false, 0, 0, 0, 0, 0x40, 0, 0⟩, opState 5 3 (⟨false, false, 0, 0, 0, 0, 0x40, 0, 0⟩) (c0), c0, 0, runs, by unfold reaches; decide +kernel⟩,
   ⟨x0, false, ⟨false, false, 0, 0, 0, 0, 0, 0, 0⟩, opState 5 4 (⟨false, false, 0, 0, 0, 0, 0, 0, 0⟩) (c0), c0, 0, runs, by unfold Guarded reaches; decide +kernel⟩,
   ⟨x0, false, ⟨true, false, 0, 0, 0, 0, 0, 0, 0⟩, opState 5 2 (⟨true, false, 0, 0, 0, 0, 0, 0, 0⟩) (c0), c0, runs, by unfold Guarded; decide +kernel⟩,
   ⟨x0, false, ⟨true, false, 0, 0, 0, 0, 0, 0, 0⟩, opState 5 4 (⟨true, false, 0, 0, 0, 0, 0, 0, 0⟩) (c0), c0, runs, by unfold Guarded; decide +kernel⟩,
   ⟨x0, false, ⟨false, false, 0, 0x40, 0, 0, 0, 0, 1⟩, opState 5 1 (⟨false, false, 0, 0x40, 0, 0, 0, 0, 1⟩) (c0), c0, runs, by decide +kernel⟩,
   ⟨x0, false, fOf 0x40 0x0 0x0 0x0, (opState 5 1 (fOf 0x40 0x0 0x0 0x0) (c0)).updTile 0 (fun t => { t with regs := { t.regs with fwinLimit := 0 } }), c0, runs, by decide +kernel⟩,
   ⟨x0, false, ⟨false, false, 0, 0, 0, 0, 0, 0, 1⟩, opState 5 2 (⟨false, false, 0, 0, 0, 0, 0, 0, 1⟩) (c0), c0, runs, by unfold Guarded; decide +kernel⟩,
   ⟨x0, false, ⟨false, false, 0, 0, 0, 0, 0, 0, 0⟩, (opState 5 2 (⟨false, false, 0, 0, 0, 0, 0, 0, 0⟩) (c0)).updTile 0 (fun t => { t with regs := { t.regs with fwinLimit := 0 } }), c0, runs, by unfold Guarded; decide +kernel⟩,
   ⟨x0, true, ⟨false, false, 0, 0, 0, 0, 0x40, 0, 1⟩, opState 6 3 (⟨false, false, 0, 0, 0, 0, 0x40, 0, 1⟩) (c0), c0, runs, by decide +kernel⟩,
   ⟨x0, false, ⟨false, false, 0, 0xFF, 0xFF, 0xFF, 0x40, 0, 3840⟩, (opState 5 3 (⟨false, false, 0, 0xFF, 0xFF, 0xFF, 0x40, 0, 3840⟩) (c0)).updTile 0 (fun t => { t with regs := { t.regs with fwinLimit := 0 } }), c0, runs, by decide +kernel⟩,
   ⟨x0, false, ⟨false, false, 0, 0, 0, 0, 0, 0, 1⟩, opState 5 4 (⟨false, false, 0, 0, 0, 0, 0, 0, 1⟩) (c0), c0, runs, by unfold Guarded; decide +kernel⟩,
   ⟨x0, false, ⟨false, false, 0, 0, 0, 0, 0, 0, 0⟩, (opState 5 4 (⟨false, false, 0, 0, 0, 0, 0, 0, 0⟩) (c0)).updTile 0 (fun t => { t with regs := { t.regs with fwinLimit := 0 } }), c0, runs, by unfold Guarded; decide +kernel⟩⟩

set_option maxRecDepth 4000 in
/-- States and operands that meet the hypotheses of `TokenOperationsSendBindAndConfigure`, clause by clause. -/
theorem witness_TokenOperationsSendBindAndConfigure :
  (∃ (x : Issue) (f : SlotF) (s : State) (c : Ctx), Runs x 7 1 f s c ∧ Guarded x s c f ∧ f.imm.getLsbD 40 = false ∧ injectsHere x s f) ∧
  (∃ (x : Issue) (f : SlotF) (s : State) (c : Ctx), Runs x 7 1 f s c ∧ Guarded x s c f ∧ f.imm.getLsbD 40 = false ∧ ¬ injectsHere x s f) ∧
  (∃ (x : Issue) (f : SlotF) (s : State) (c : Ctx), Runs x 7 1 f s c ∧ Guarded x s c f ∧ f.imm.getLsbD 40 = true ∧ (ownQueue x s c f (laneAt 256 (vOf x s c f.srcA).toNat (f.mod.toNat % 8))).2 = none) ∧
  (∃ (x : Issue) (f : SlotF) (s : State) (c : Ctx), Runs x 7 1 f s c) ∧
  (∃ (x : Issue) (f : SlotF) (s : State) (c : Ctx), Runs x 7 1 f s c ∧ ¬ Guarded x s c f) ∧
  (∃ (x : Issue) (f : SlotF) (s : State) (c : Ctx), Runs x 7 2 f s c ∧ Guarded x s c f ∧ f.imm.getLsbD 40 = false ∧ injectsHere x s f) ∧
  (∃ (x : Issue) (f : SlotF) (s : State) (c : Ctx), Runs x 7 2 f s c ∧ Guarded x s c f ∧ f.imm.getLsbD 40 = false ∧ ¬ injectsHere x s f) ∧
  (∃ (x : Issue) (f : SlotF) (s : State) (c : Ctx), Runs x 7 2 f s c ∧ Guarded x s c f ∧ f.imm.getLsbD 40 = true ∧ (ownQueue x s c f (runOf4 x s c f.srcA)).2 = none) ∧
  (∃ (x : Issue) (f : SlotF) (s : State) (c : Ctx), Runs x 7 2 f s c) ∧
  (∃ (x : Issue) (f : SlotF) (s : State) (c : Ctx), Runs x 7 2 f s c ∧ ¬ Guarded x s c f) ∧
  (∃ (x : Issue) (f : SlotF) (s : State) (c : Ctx), Runs x 7 3 f s c) ∧
  (∃ (x : Issue) (f : SlotF) (s : State) (c : Ctx), Runs x 7 3 f s c) ∧
  (∃ (x : Issue) (f : SlotF) (s : State) (c : Ctx), Runs x 7 3 f s c ∧ Guarded x s c f ∧ boundTok x s c f = none) ∧
  (∃ (x : Issue) (f : SlotF) (s : State) (c : Ctx), Runs x 7 3 f s c ∧ ¬ Guarded x s c f) ∧
  (∃ (x : Issue) (f : SlotF) (s : State) (c : Ctx), Runs x 7 4 f s c) ∧
  (∃ (x : Issue) (f : SlotF) (s : State) (c : Ctx), Runs x 7 5 f s c) :=
  ⟨⟨x0, ⟨false, false, 0, 0xC0, 0x40, 0x40, 0xFF, 17, 0⟩, opState 7 1 (⟨false, false, 0, 0xC0, 0x40, 0x40, 0xFF, 17, 0⟩) (c0), c0, runs, by unfold Guarded injectsHere; decide +kernel⟩,
   ⟨x0, ⟨false, false, 0, 0xC0, 0x40, 0x40, 0xFF, 17, 0⟩, (opState 7 1 (⟨false, false, 0, 0xC0, 0x40, 0x40, 0xFF, 17, 0⟩) (c0)).updTile 0 (fun t => { t with rota := [] }), c0, runs, by unfold Guarded injectsHere; decide +kernel⟩,
   ⟨x0, ⟨false, false, 0, 0, 0x40, 0, 0, 0, 2 ^ 40⟩, opState 7 1 (⟨false, false, 0, 0, 0x40, 0, 0, 0, 2 ^ 40⟩) (c0), c0, runs, by unfold Guarded; decide +kernel⟩,
   ⟨x0, ⟨false, false, 0, 0xC0, 0x40, 0x40, 0xFF, 17, 0⟩, opState 7 1 (⟨false, false, 0, 0xC0, 0x40, 0x40, 0xFF, 17, 0⟩) (c0), c0, runs⟩,
   ⟨x0, ⟨true, false, 0, 0, 0xFF, 0xFF, 0, 0, 0⟩, opState 7 1 (⟨true, false, 0, 0, 0xFF, 0xFF, 0, 0, 0⟩) (c0), c0, runs, by unfold Guarded; decide +kernel⟩,
   ⟨x0, ⟨false, false, 0, 0, 0, 0, 0, 0, 0⟩, opState 7 2 (⟨false, false, 0, 0, 0, 0, 0, 0, 0⟩) (c0), c0, runs, by unfold Guarded injectsHere; decide +kernel⟩,
   ⟨x0, ⟨false, false, 0, 0, 0, 0, 0, 0, 0⟩, (opState 7 2 (⟨false, false, 0, 0, 0, 0, 0, 0, 0⟩) (c0)).updTile 0 (fun t => { t with rota := [] }), c0, runs, by unfold Guarded injectsHere; decide +kernel⟩,
   ⟨x0, ⟨false, false, 0, 0, 0, 0, 0, 0, 2 ^ 40⟩, opState 7 2 (⟨false, false, 0, 0, 0, 0, 0, 0, 2 ^ 40⟩) (c0), c0, runs, by unfold Guarded; decide +kernel⟩,
   ⟨x0, ⟨false, false, 0, 0, 0, 0, 0, 0, 0⟩, opState 7 2 (⟨false, false, 0, 0, 0, 0, 0, 0, 0⟩) (c0), c0, runs⟩,
   ⟨x0, ⟨true, false, 0, 0, 0, 0, 0, 0, 0⟩, opState 7 2 (⟨true, false, 0, 0, 0, 0, 0, 0, 0⟩) (c0), c0, runs, by unfold Guarded; decide +kernel⟩,
   ⟨x0, fOf 0x40 0xD0 0x0 0x0, opState 7 3 (fOf 0x40 0xD0 0x0 0x0) (c0), c0, runs⟩,
   ⟨x0, fOf 0x40 0xD0 0x0 0x0, opState 7 3 (fOf 0x40 0xD0 0x0 0x0) (c0), c0, runs⟩,
   ⟨x0, fOf 0x40 0xD0 0x0 0x0, opState 7 3 (fOf 0x40 0xD0 0x0 0x0) (c0), c0, runs, by unfold Guarded; decide +kernel⟩,
   ⟨x0, ⟨true, false, 0, 0x40, 0xD0, 0, 0, 0, 0⟩, opState 7 3 (⟨true, false, 0, 0x40, 0xD0, 0, 0, 0, 0⟩) (c0), c0, runs, by unfold Guarded; decide +kernel⟩,
   ⟨x0, fOf 0x0 0x0 0x0 0x0, opState 7 4 (fOf 0x0 0x0 0x0 0x0) c0, c0, runs⟩,
   ⟨x0, fOf 0x0 0x0 0x0 0x0, opState 7 5 (fOf 0x0 0x0 0x0 0x0) c0, c0, runs⟩⟩

set_option maxRecDepth 4000 in
/-- States and operands that meet the hypotheses of `FlowOperationsGoWhereTheyName`, clause by clause. -/
theorem witness_FlowOperationsGoWhereTheyName :
  (∃ (x : Issue) (slot : Fin 8) (s : State) (c : Ctx), Issues x [] s c) ∧
  (∃ (x : Issue) (slot : Fin 8) (o : SlotOp) (s : State) (c : Ctx), Takes x [o] s c ∧ o.slot = slot ∧ opSig slot.val o.op.toNat o.f.mod.toNat = none) ∧
  (∃ (x : Issue) (f : SlotF) (s : State) (c : Ctx), Runs x 0 7 f s c) ∧
  (∃ (x : Issue) (f : SlotF) (s : State) (c : Ctx), Runs x 0 1 f s c ∧ Guarded x s c f ∧ inBlock x s c (f.imm.toNat % 256)) ∧
  (∃ (x : Issue) (f : SlotF) (s : State) (c : Ctx), Runs x 0 1 f s c ∧ Guarded x s c f ∧ ¬ inBlock x s c (f.imm.toNat % 256)) ∧
  (∃ (x : Issue) (f : SlotF) (s : State) (c : Ctx), Runs x 0 1 f s c ∧ ¬ Guarded x s c f) ∧
  (∃ (x : Issue) (f : SlotF) (s : State) (c : Ctx), Runs x 0 2 f s c ∧ Guarded x s c f ∧ loopCount x s c f ≠ 0 ∧ c.loops.length < 4 ∧ inBlock x s c (fieldN f.imm.toNat 32 8) ∧ inBlock x s c (c.pc + 1)) ∧
  (∃ (x : Issue) (f : SlotF) (s : State) (c : Ctx), Runs x 0 2 f s c ∧ Guarded x s c f ∧ loopCount x s c f ≠ 0 ∧ c.loops.length < 4 ∧ inBlock x s c (fieldN f.imm.toNat 32 8) ∧ ¬ inBlock x s c (c.pc + 1)) ∧
  (∃ (x : Issue) (f : SlotF) (s : State) (c : Ctx), Runs x 0 2 f s c ∧ Guarded x s c f ∧ loopCount x s c f ≠ 0 ∧ c.loops.length < 4 ∧ ¬ inBlock x s c (fieldN f.imm.toNat 32 8)) ∧
  (∃ (x : Issue) (f : SlotF) (s : State) (c : Ctx), Runs x 0 2 f s c ∧ Guarded x s c f ∧ loopCount x s c f ≠ 0 ∧ 4 ≤ c.loops.length) ∧
  (∃ (x : Issue) (f : SlotF) (s : State) (c : Ctx), Runs x 0 2 f s c ∧ Guarded x s c f ∧ loopCount x s c f = 0 ∧ inBlock x s c (fieldN f.imm.toNat 32 8 + 1)) ∧
  (∃ (x : Issue) (f : SlotF) (s : State) (c : Ctx), Runs x 0 2 f s c ∧ Guarded x s c f ∧ loopCount x s c f = 0 ∧ ¬ inBlock x s c (fieldN f.imm.toNat 32 8 + 1)) ∧
  (∃ (x : Issue) (f : SlotF) (s : State) (c : Ctx), Runs x 0 2 f s c ∧ ¬ Guarded x s c f) ∧
  (∃ (x : Issue) (f : SlotF) (s : State) (c : Ctx), Runs x 0 6 f s c ∧ Guarded x s c f) ∧
  (∃ (x : Issue) (f : SlotF) (s : State) (c : Ctx), Runs x 0 6 f s c ∧ ¬ Guarded x s c f) ∧
  (∃ (x : Issue) (f : SlotF) (s : State) (c : Ctx), Runs x 0 5 f s c ∧ Guarded x s c f ∧ (s.tile x.tile.val).regs.yieldReq = true ∧ hasPoint x s (f.imm.toNat % 256)) ∧
  (∃ (x : Issue) (f : SlotF) (s : State) (c : Ctx), Runs x 0 5 f s c) ∧
  (∃ (x : Issue) (f : SlotF) (s : State) (c : Ctx), Runs x 0 5 f s c ∧ (¬ Guarded x s c f ∨ (s.tile x.tile.val).regs.yieldReq = false)) :=
  ⟨⟨x0, 0, opState 0 0 (fOf 0 0 0 0) c0, c0, ⟨⟨by decide +kernel, by decide +kernel, rfl, rfl, by decide +kernel⟩, by decide +kernel, by decide +kernel⟩⟩,
   ⟨x0, 4, ⟨4, 99, fOf 0 0 0 0⟩, opState 4 99 (fOf 0 0 0 0) c0, c0, ⟨by decide +kernel, by decide +kernel, rfl, rfl, by decide +kernel⟩, by decide +kernel⟩,
   ⟨x0, fOf 0x0 0x0 0x0 0x0, opState 0 7 (fOf 0x0 0x0 0x0 0x0) c0, c0, runs⟩,
   ⟨x0, ⟨false, false, 0, 0, 0, 0, 0, 0, 0⟩, opState 0 1 (⟨false, false, 0, 0, 0, 0, 0, 0, 0⟩) (c0), c0, runs, by unfold Guarded inBlock; decide +kernel⟩,
   ⟨x0, ⟨false, false, 0, 0, 0, 0, 0, 0, 100⟩, opState 0 1 (⟨false, false, 0, 0, 0, 0, 0, 0, 100⟩) (c0), c0, runs, by unfold Guarded inBlock; decide +kernel⟩,
   ⟨x0, ⟨true, false, 0, 0, 0, 0, 0, 0, 0⟩, opState 0 1 (⟨true, false, 0, 0, 0, 0, 0, 0, 0⟩) c0, c0, runs, by unfold Guarded; decide +kernel⟩,
   ⟨x0, ⟨false, false, 0, 0x40, 0xFF, 0xFF, 0, 0, 3840⟩, opState 0 2 (⟨false, false, 0, 0x40, 0xFF, 0xFF, 0, 0, 3840⟩) (c0), c0, runs, by unfold Guarded inBlock; decide +kernel⟩,
   ⟨x0, ⟨false, false, 0, 0, 0xFF, 0, 0, 0, 2⟩, (opState 0 2 (⟨false, false, 0, 0, 0xFF, 0, 0, 0, 2⟩) (c0)).updTile 0 (fun t => { t with trig := [(0, BitVec.ofNat 128 1)] }), c0, runs, by unfold Guarded inBlock; decide +kernel⟩,
   ⟨x0, ⟨false, false, 0, 0, 0xFF, 0, 0, 0, BitVec.ofNat 64 (3 + 9 * 2 ^ 32)⟩, (opState 0 2 (⟨false, false, 0, 0, 0xFF, 0, 0, 0, BitVec.ofNat 64 (3 + 9 * 2 ^ 32)⟩) (c0)).updTile 0 (fun t => { t with trig := [(0, BitVec.ofNat 128 (1 + 5 * 2 ^ 16))] }), c0, runs, by unfold Guarded inBlock; decide +kernel⟩,
   ⟨x0, ⟨false, false, 0, 0x40, 0xFF, 0xFF, 0, 0, 3840⟩, opState 0 2 (⟨false, false, 0, 0x40, 0xFF, 0xFF, 0, 0, 3840⟩) ({ c0 with loops := [⟨0, 1, 2⟩, ⟨0, 1, 2⟩, ⟨0, 1, 2⟩, ⟨0, 1, 2⟩] }), { c0 with loops := [⟨0, 1, 2⟩, ⟨0, 1, 2⟩, ⟨0, 1, 2⟩, ⟨0, 1, 2⟩] }, runs, by unfold Guarded; decide +kernel⟩,
   ⟨x0, ⟨false, false, 0, 0, 0, 0, 0, 0, 0⟩, opState 0 2 (⟨false, false, 0, 0, 0, 0, 0, 0, 0⟩) (c0), c0, runs, by unfold Guarded inBlock; decide +kernel⟩,
   ⟨x0, ⟨false, false, 0, 0, 0, 0, 0, 0, 8 * 2 ^ 32⟩, (opState 0 2 (⟨false, false, 0, 0, 0, 0, 0, 0, 8 * 2 ^ 32⟩) (c0)).updTile 0 (fun t => { t with trig := [(0, BitVec.ofNat 128 (1 + 5 * 2 ^ 16))] }), c0, runs, by unfold Guarded inBlock; decide +kernel⟩,
   ⟨x0, ⟨true, false, 0, 0, 0, 0, 0, 0, 0⟩, opState 0 2 (⟨true, false, 0, 0, 0, 0, 0, 0, 0⟩) (c0), c0, runs, by unfold Guarded; decide +kernel⟩,
   ⟨x0, ⟨false, false, 0, 0, 0, 0, 0, 0, 0⟩, opState 0 6 (⟨false, false, 0, 0, 0, 0, 0, 0, 0⟩) (c0), c0, runs, by unfold Guarded; decide +kernel⟩,
   ⟨x0, ⟨true, false, 0, 0, 0, 0, 0, 0, 0⟩, opState 0 6 (⟨true, false, 0, 0, 0, 0, 0, 0, 0⟩) (c0), c0, runs, by unfold Guarded; decide +kernel⟩,
   ⟨x0, fOf 0 0 0 0, (opState 0 5 (fOf 0 0 0 0) (c0)).updTile 0 (fun t => { t with regs := { t.regs with yieldReq := true } }), c0, runs, by unfold Guarded; decide +kernel, by decide +kernel, by intro b p h; exact nomatch h⟩,
   ⟨x0, ⟨false, false, 0, 0, 0, 0, 0, 0, 0⟩, opState 0 5 (⟨false, false, 0, 0, 0, 0, 0, 0, 0⟩) (c0), c0, runs⟩,
   ⟨x0, ⟨false, false, 0, 0, 0, 0, 0, 0, 0⟩, opState 0 5 (⟨false, false, 0, 0, 0, 0, 0, 0, 0⟩) (c0), c0, runs, by unfold Guarded; decide +kernel⟩⟩

set_option maxRecDepth 4000 in
/-- States and operands that meet the hypotheses of `WaitAndSignalCountTheirSemaphore`, clause by clause. -/
theorem witness_WaitAndSignalCountTheirSemaphore :
  (∃ (x : Issue) (f : SlotF) (s : State) (c : Ctx), Runs x 0 3 f s c ∧ Guarded x s c f) ∧
  (∃ (x : Issue) (f : SlotF) (s : State) (c : Ctx), Runs x 0 3 f s c ∧ ¬ Guarded x s c f) ∧
  (∃ (x : Issue) (f : SlotF) (s : State) (c : Ctx), Takes x [⟨0, 3, f⟩] s c ∧ wordOk c [⟨0, 3, f⟩] = true ∧ Guarded x s c f ∧ SMap.get 0 (s.tile x.tile.val).sem (f.imm.toNat % 32) = 0) ∧
  (∃ (x : Issue) (f : SlotF) (s : State) (c : Ctx), Runs x 0 4 f s c ∧ Guarded x s c f ∧ SMap.get 0 (s.tile x.tile.val).sem (f.imm.toNat % 32) < 0xFFFF) ∧
  (∃ (x : Issue) (f : SlotF) (s : State) (c : Ctx), Runs x 0 4 f s c ∧ Guarded x s c f ∧ 0xFFFF ≤ SMap.get 0 (s.tile x.tile.val).sem (f.imm.toNat % 32)) ∧
  (∃ (x : Issue) (f : SlotF) (s : State) (c : Ctx), Runs x 0 4 f s c ∧ ¬ Guarded x s c f) ∧
  (∃ (x : Issue) (s : State) (c : Ctx) (w : List SlotOp), (s.tile x.tile.val).ctx x.ctx.val = some c ∧ c.held = some w ∧ issuePicks x s c = true ∧ x.parity = false) ∧
  (∃ (x : Issue) (s : State) (c : Ctx), (s.tile x.tile.val).ctx x.ctx.val = some c ∧ (c.held = none ∨ issuePicks x s c = false)) ∧
  (∃ (x : Issue) (f : SlotF) (s : State) (c : Ctx), Runs x 0 8 f s c ∧ Guarded x s c f) ∧
  (∃ (x : Issue) (f : SlotF) (s : State) (c : Ctx), Runs x 0 8 f s c ∧ Follows x s c ∧ Guarded x s c f ∧ (s.tile x.tile.val).regs.fault.valid = false) ∧
  (∃ (x : Issue) (f : SlotF) (s : State) (c : Ctx), Runs x 0 8 f s c ∧ ¬ Guarded x s c f) ∧
  (∃ (x : Issue) (o : SlotOp) (w : List SlotOp) (s : State) (c : Ctx), Takes x w s c ∧ holdsOp w o = true ∧ wordOk c w = false) ∧
  (∃ (x : Issue) (o : SlotOp) (w : List SlotOp) (s : State) (c : Ctx), Takes x w s c ∧ holdsOp w o = true ∧ wordOk c w = true ∧ wordHold (envOf x s c) w = .send) ∧
  (∃ (x : Issue) (o : SlotOp) (w : List SlotOp) (s : State) (c : Ctx), Takes x w s c ∧ holdsOp w o = false) :=
  ⟨⟨x0, ⟨false, false, 0, 0, 0, 0, 0, 0, 0⟩, (opState 0 3 (⟨false, false, 0, 0, 0, 0, 0, 0, 0⟩) (c0)).updTile 0 (fun t => { t with sem := [(0, 1)] }), c0, runs, by unfold Guarded; decide +kernel⟩,
   ⟨x0, ⟨true, false, 0, 0, 0, 0, 0, 0, 0⟩, opState 0 3 (⟨true, false, 0, 0, 0, 0, 0, 0, 0⟩) c0, c0, runs, by unfold Guarded; decide +kernel⟩,
   ⟨x0, fOf 0 0 0 0, opState 0 3 (fOf 0 0 0 0) c0, c0, ⟨by decide +kernel, by decide +kernel, rfl, rfl, by decide +kernel⟩, by unfold Guarded; decide +kernel⟩,
   ⟨x0, ⟨false, false, 0, 0, 0, 0, 0, 0, 0⟩, opState 0 4 (⟨false, false, 0, 0, 0, 0, 0, 0, 0⟩) (c0), c0, runs, by unfold Guarded; decide +kernel⟩,
   ⟨x0, ⟨false, false, 0, 0, 0, 0, 0, 0, 0⟩, (opState 0 4 (⟨false, false, 0, 0, 0, 0, 0, 0, 0⟩) (c0)).updTile 0 (fun t => { t with sem := [(0, 65535)] }), c0, runs, by unfold Guarded; decide +kernel⟩,
   ⟨x0, ⟨true, false, 0, 0, 0, 0, 0, 0, 0⟩, opState 0 4 (⟨true, false, 0, 0, 0, 0, 0, 0, 0⟩) c0, c0, runs, by unfold Guarded; decide +kernel⟩,
   ⟨x0, opState 0 7 (fOf 0 0 0 0) { c0 with state := .stalled, held := some [⟨0, 7, fOf 0 0 0 0⟩] }, { c0 with state := .stalled, held := some [⟨0, 7, fOf 0 0 0 0⟩] }, [⟨0, 7, fOf 0 0 0 0⟩], by decide +kernel⟩,
   ⟨x0, chanState true, _, rfl, by decide +kernel⟩,
   ⟨x0, ⟨false, false, 0, 0, 0, 0, 0, 0, 0⟩, opState 0 8 (⟨false, false, 0, 0, 0, 0, 0, 0, 0⟩) (c0), c0, runs, by unfold Guarded; decide +kernel⟩,
   ⟨x0, ⟨false, false, 0, 0, 0, 0, 0, 0, 0⟩, opState 0 8 (⟨false, false, 0, 0, 0, 0, 0, 0, 0⟩) (c0), c0, runs, by unfold Guarded Follows; decide +kernel⟩,
   ⟨x0, ⟨true, false, 0, 0, 0, 0, 0, 0, 0⟩, opState 0 8 (⟨true, false, 0, 0, 0, 0, 0, 0, 0⟩) c0, c0, runs, by unfold Guarded; decide +kernel⟩,
   ⟨x0, ⟨4, 99, fOf 0 0 0 0⟩, [⟨4, 99, fOf 0 0 0 0⟩], opState 4 99 (fOf 0 0 0 0) c0, c0, ⟨by decide +kernel, by decide +kernel, rfl, rfl, by decide +kernel⟩, by decide +kernel⟩,
   ⟨x0, ⟨7, 2, fOf 0 0 0 0⟩, [⟨7, 2, fOf 0 0 0 0⟩], (opState 7 2 (fOf 0 0 0 0) c0).updTile 0 (fun t => { t with tregs := [(0, some ⟨mkToken 0 0, 0⟩)] }), c0, ⟨by decide +kernel, by decide +kernel, rfl, rfl, by decide +kernel⟩, by decide +kernel⟩,
   ⟨x0, ⟨0, 7, fOf 0 0 0 0⟩, [⟨0, 8, fOf 0 0 0 0⟩], opState 0 8 (fOf 0 0 0 0) c0, c0, ⟨by decide +kernel, by decide +kernel, rfl, rfl, by decide +kernel⟩, by decide +kernel⟩⟩

set_option maxRecDepth 4000 in
/-- States and operands that meet the hypotheses of `TriggerUnitFiresRetiresAndYields`, clause by clause. -/
theorem witness_TriggerUnitFiresRetiresAndYields :
  (∃ (tile : Fin 4096) (s : State) (f : Firing) (k : Nat), fires s tile.val f k) ∧
  (∃ (tile : Fin 4096) (s : State), (s.tile tile.val).mayFire = true ∧ (s.tile tile.val).badEntry = none ∧ (∀ f, f ∈ satisfied (s.tile tile.val) → (s.tile tile.val).hasRoom ((s.tile tile.val).trigAt f.entry) = false)) ∧
  (∃ (tile : Fin 4096) (s : State) (f : Firing), (s.tile tile.val).mayFire = true ∧ (s.tile tile.val).badEntry = none ∧ nextFiring (s.tile tile.val) = some f ∧ repeated (s.tile tile.val) f) ∧
  (∃ (tile : Fin 4096) (s : State) (i : Nat), (s.tile tile.val).mayFire = true ∧ (s.tile tile.val).badEntry = some i) ∧
  (∃ (tile : Fin 4096) (s : State), (s.tile tile.val).mayFire = true) ∧
  (∃ (tile : Fin 4096) (parity : Bool) (s : State), (s.tile tile.val).mayFire = false) ∧
  (∃ (tile : Fin 4096) (ctx : Fin 512) (s : State) (c : Ctx), (s.tile tile.val).ctx ctx.val = some c ∧ c.state = .retiring) ∧
  (∃ (tile : Fin 4096) (ctx : Fin 512) (s : State), (∀ c, (s.tile tile.val).ctx ctx.val = some c → c.state ≠ .retiring)) ∧
  (∃ (tile : Fin 4096) (s : State), allYielded (s.tile tile.val)) ∧
  (∃ (tile : Fin 4096) (s : State) (b : Nat) (p : Plot), allYielded (s.tile tile.val) ∧ (s.tile tile.val).lead = some b ∧ s.plot b = some p ∧ p.state = .yielding) ∧
  (∃ (tile : Fin 4096) (s : State), ¬ allYielded (s.tile tile.val)) ∧
  (∃ (tile : Fin 4096) (fails : BitVec 7) (us : BitVec 16) (s : State), (s.tile tile.val).regs.retest = false) ∧
  (∃ (tile : Fin 4096) (fails : BitVec 7) (us : BitVec 16) (s : State) (b : Nat) (p : Plot), (s.tile tile.val).lead = some b ∧ s.plot b = some p ∧ p.state ≠ .idle) ∧
  (∃ (tile : Fin 4096) (fails : BitVec 7) (us : BitVec 16) (s : State), (s.tile tile.val).regs.retest = true ∧ (∀ b, (s.tile tile.val).lead = some b → s.plot b = none)) ∧
  (∃ (tile : Fin 4096) (fails : BitVec 7) (us : BitVec 16) (s : State) (b : Nat) (p : Plot), (s.tile tile.val).regs.retest = true ∧ (s.tile tile.val).lead = some b ∧ s.plot b = some p ∧ p.state = .idle) :=
  ⟨⟨0, fireState, (nextFiring (fireState.tile 0)).get (by decide +kernel), 0, ⟨by decide +kernel, by decide +kernel, (Option.some_get _).symm, by unfold repeated; decide +kernel, by decide +kernel⟩⟩,
   ⟨0, fireState.updTile 0 (fun t => { t with ctxs := (List.range 512).map (fun k => (k, some c0)) }), by decide +kernel⟩,
   by refine ⟨0, s0.setTile 0 { tileOf c0 with trig := [(0, BitVec.ofNat 128 (1 + 10 * 2 ^ 16 + 2 ^ 24))], queues := [(0, [⟨mkToken 0 0, 0, false⟩])], regs := { (tileOf c0).regs with state := .running } }, ⟨0, 0, [⟨0, 0, false, mkToken 0 0⟩]⟩, ?_, ?_, ?_, by unfold repeated; decide +kernel⟩ <;> decide +kernel,
   ⟨0, opState 0 1 (⟨true, false, 0, 0, 0, 0, 0, 0, 0⟩) c0, _, by decide +kernel, rfl⟩,
   ⟨0, opState 0 1 (⟨true, false, 0, 0, 0, 0, 0, 0, 0⟩) c0, by decide +kernel⟩,
   ⟨0, false, s0, by decide +kernel⟩,
   ⟨0, 0, coreState { c0 with state := .retiring }, { c0 with state := .retiring }, by decide +kernel⟩,
   ⟨0, 0, s0, by decide +kernel⟩,
   ⟨0, s0.setTile 0 { tileOf { c0 with state := .yielded } with regs := { (tileOf c0).regs with yieldReq := true } }, by unfold allYielded; decide +kernel⟩,
   ⟨0, { s0 with tiles := [(0, { tileOf { c0 with state := .yielded } with lead := some 0, regs := { TileRegs.reset with yieldReq := true } })], blocks := [(0, { Block.reset with plot := some { p0 with state := .yielding } })] }, 0, _, ⟨rfl, rfl, by decide +kernel⟩, rfl, rfl, rfl⟩,
   ⟨0, s0, by unfold allYielded; decide +kernel⟩,
   ⟨0, 0, 0, s0, by decide +kernel⟩,
   ⟨0, 0, 0, { s0 with tiles := [(0, { tileOf c0 with lead := some 63 })], blocks := [(63, { Block.reset with plot := some { p0 with state := .running } })] }, _, _, rfl, rfl, by decide +kernel⟩,
   ⟨0, 0, 0, s0.setTile 0 { tileOf c0 with regs := { (tileOf c0).regs with retest := true } }, by decide +kernel⟩,
   ⟨0, 0, 0, { s0 with tiles := [(0, { tileOf c0 with lead := some 0, regs := { TileRegs.reset with retest := true } })], blocks := [(0, { Block.reset with plot := some p0 })] }, 0, _, rfl, rfl, rfl, rfl⟩⟩

set_option maxRecDepth 4000 in
/-- States and operands that meet the hypotheses of `CanalMovesTokensAlongItsRota`, clause by clause. -/
theorem witness_CanalMovesTokensAlongItsRota :
  (∃ (tile : Fin 4096) (port : Fin 4) (turn : Fin 256) (flip : BitVec 304) (s : State) (tok : Token) (l : List Flight), takeFlight (4 * tile.val + port.val) false s.flights = some (tok, l) ∧ turn.val < (s.tile tile.val).turns ∧ passesIn s tile.val port.val turn.val (tok.disturb flip)) ∧
  (∃ (tile : Fin 4096) (port p2 : Fin 4) (turn : Fin 256) (flip f2 : BitVec 304) (s : State) (a b : Token) (l l2 : List Flight), takeFlight (4 * tile.val + port.val) false s.flights = some (a, l) ∧ takeFlight (4 * tile.val + p2.val) false l = some (b, l2) ∧ turn.val < (s.tile tile.val).turns ∧ passesIn s tile.val port.val turn.val (a.disturb flip) ∧ passesIn s tile.val p2.val turn.val (b.disturb f2)) ∧
  (∃ (tile : Fin 4096) (port : Fin 4) (turn : Fin 256) (flip : BitVec 304) (s : State) (tok : Token) (l : List Flight), takeFlight (4 * tile.val + port.val) false s.flights = some (tok, l) ∧ turn.val < (s.tile tile.val).turns ∧ ((s.tile tile.val).portOn port.val = false ∨ (s.tile tile.val).regs.fenceFull = true)) ∧
  (∃ (tile : Fin 4096) (port : Fin 4) (turn : Fin 256) (flip : BitVec 304) (more : List (Fin 4 × BitVec 304)) (s : State), (takeFlight (4 * tile.val + port.val) false s.flights = none ∨ (s.tile tile.val).turns ≤ turn.val)) ∧
  (∃ (s : State) (g port turn : Nat) (tok : Token), s.loadingAt g = false ∧ routed (s.tile g) port turn = false) ∧
  (∃ (tile : Fin 4096) (turn : Fin 256) (s : State) (x : TurnTok), (s.tile tile.val).treg (rotaTreg ((s.tile tile.val).rotaAt turn.val)) = some x ∧ x.entry = turn.val ∧ turn.val < (s.tile tile.val).turns ∧ s.loadingAt tile.val = false) ∧
  (∃ (tile : Fin 4096) (turn : Fin 256) (s : State), ((∀ x, (s.tile tile.val).treg (rotaTreg ((s.tile tile.val).rotaAt turn.val)) = some x → x.entry ≠ turn.val) ∨ (s.tile tile.val).turns ≤ turn.val ∨ s.loadingAt tile.val = true)) ∧
  (∃ (s : State) (g turn o : Nat) (ins : List (Nat × Token)) (tok : Token), ins = [(o, tok)] ∧ (∀ k, k < 6 → rotaSrc ((s.tile g).rotaAt turn) k ≠ o)) ∧
  (∃ (tile : Fin 4096) (turn : Fin 256) (s : State) (m : MEntry) (k : Nat), nextPaired (s.tile tile.val) = some (m, k)) ∧
  (∃ (tile : Fin 4096) (turn : Fin 256) (s : State), nextPaired (s.tile tile.val) = none ∧ (∀ m ∈ (s.tile tile.val).matchStore, m.paired.isSome = true → m.held = true)) ∧
  (∃ (tile : Fin 4096) (turn : Fin 256) (s : State) (m : MEntry), nextPaired (s.tile tile.val) = none ∧ (s.tile tile.val).matchStore.find? (fun m => m.paired.isSome && !m.held) = some m) :=
  ⟨⟨0, 0, 0, 0, { s0.setTile 0 { tileOf c0 with rota := [(0, 1)], regs := { (tileOf c0).regs with linkEn := 1 } } with flights := [⟨0, false, mkToken 0 0⟩] }, _, _, rfl, by unfold passesIn; decide +kernel⟩,
   ⟨0, 0, 1, 0, 0, 0, { s0.setTile 0 { tileOf c0 with rota := [(0, 17)], regs := { (tileOf c0).regs with linkEn := 3 } } with flights := [⟨0, false, mkToken 0 0⟩, ⟨1, false, mkToken 0 0⟩] }, _, _, _, _, rfl, rfl, by decide +kernel, by unfold passesIn; decide +kernel, by unfold passesIn; decide +kernel⟩,
   ⟨0, 0, 0, 0, { s0.setTile 0 { tileOf c0 with rota := [(0, 1)], regs := { (tileOf c0).regs with linkEn := 0 } } with flights := [⟨0, false, mkToken 0 0⟩] }, _, _, rfl, by decide +kernel⟩,
   ⟨0, 0, 0, 0, [], s0, by decide +kernel⟩,
   ⟨s0, 0, 0, 0, mkToken (mkHeader 0 0 1 0) 0, by decide +kernel⟩,
   ⟨0, 0, s0.setTile 0 { tileOf c0 with tregs := [(0, some ⟨mkToken 0 0, 0⟩)] }, ⟨mkToken 0 0, 0⟩, by decide +kernel⟩,
   ⟨0, 0, s0, by decide +kernel⟩,
   ⟨s0, 0, 0, 5, _, mkToken 0 0, rfl, by decide +kernel⟩,
   ⟨0, 0, s0.setTile 0 { tileOf c0 with matchStore := [⟨mkToken 0 0, 0, true, some 0⟩] }, _, _, rfl⟩,
   ⟨0, 0, s0, by decide +kernel⟩,
   ⟨0, 0, s0.setTile 0 { tileOf c0 with matchStore := [⟨mkToken 0 0, 0, false, some 0⟩], tregs := [(0, some ⟨mkToken 0 0, 0⟩)] }, ⟨mkToken 0 0, 0, false, some 0⟩, by decide +kernel⟩⟩

set_option maxRecDepth 4000 in
/-- States and operands that meet the hypotheses of `DeliveryQueuesAValidToken`, clause by clause. -/
theorem witness_DeliveryQueuesAValidToken :
  (∃ (s : State) (g port turn : Nat) (tok : Token), tok.crcOk = true ∧ (s.tile g).stale tok = false) ∧
  (∃ (s : State) (g port turn : Nat) (tok : Token), tok.crcOk = true ∧ (s.tile g).stale tok = true) ∧
  (∃ (s : State) (g port turn : Nat) (tok : Token), tok.crcOk = false) ∧
  (∃ (s : State) (g : Nat) (tok : Token) (t : Tile), tok.steer = false ∧ (s.tile g).enqueue (tok.qsel % 16) tok = (t, none)) ∧
  (∃ (s : State) (g d : Nat) (tok : Token) (t : Tile), tok.steer = false ∧ (s.tile g).enqueue (tok.qsel % 16) tok = (t, some (0x07, d))) ∧
  (∃ (s : State) (g : Nat) (tok : Token), tok.steer = false ∧ 16 ≤ ((s.tile g).queue (tok.qsel % 16)).length) ∧
  (∃ (t : Tile) (j : Nat) (k : Token), (t.queue j).length < 16 ∧ t.isSticky j = false) ∧
  (∃ (s : State) (g : Nat) (tok : Token), tok.steer = true ∧ (s.tile g).mate tok = none ∧ (s.tile g).matchLive < 64) ∧
  (∃ (s : State) (g : Nat) (tok : Token), tok.steer = true ∧ (s.tile g).mate tok = none ∧ 64 ≤ (s.tile g).matchLive) ∧
  (∃ (s : State) (g : Nat) (tok : Token) (m : MEntry), tok.steer = true ∧ (s.tile g).mate tok = some m) ∧
  (∃ (s : State) (g : Nat) (a b : Token), a.steer = true ∧ b.steer = true ∧ (s.tile g).mate a = none ∧ (s.tile g).mate b = none ∧ ((s.tile g).chan a.chan).mates a b = true) ∧
  (∃ (s : State) (g : Nat) (a b : Token), (a.steer && b.steer) = false) :=
  ⟨⟨s0, 0, 0, 0, mkToken 0 0, by decide +kernel⟩,
   ⟨coreState c0, 0, 4, 0, mkToken (mkHeader 0 0 1 0) 0, by decide +kernel⟩,
   ⟨s0, 0, 0, 0, ⟨0, 0, crc16 (tokenBytes 0 0) ^^^ 1⟩, by decide +kernel⟩,
   ⟨s0, 0, mkToken (mkHeader 0 0 1 0) 0, _, by decide +kernel, rfl⟩,
   ⟨s0.setTile 0 { tileOf c0 with trig := [(0, BitVec.ofNat 128 (1 + 2 ^ 24))], old := [(0, 1)] }, 0, 0, mkToken 0 0, _, by decide +kernel, rfl⟩,
   ⟨s0.setTile 0 { tileOf c0 with queues := [(0, List.replicate 16 ⟨mkToken 0 0, 0, false⟩)] }, 0, mkToken 0 0, by decide +kernel⟩,
   ⟨tileOf c0, 0, mkToken (mkHeader 0 0 1 0) 0, by decide +kernel⟩,
   ⟨s0, 0, mkToken (mkHeader 1 0 0 0) 0, by decide +kernel⟩,
   ⟨s0.setTile 0 { tileOf c0 with matchStore := List.replicate 64 ⟨mkToken 0 0, 0, true, none⟩ }, 0, mkToken (mkHeader 1 0 0 0) 0, by decide +kernel⟩,
   ⟨s0.setTile 0 { tileOf c0 with chans := [(0, .steer 0)], matchStore := [⟨mkToken (mkHeader 1 0 0 0) 0, 0, true, none⟩] }, 0, mkToken (mkHeader 3 0 0 0) 0, ⟨mkToken (mkHeader 1 0 0 0) 0, 0, true, none⟩, by decide +kernel⟩,
   ⟨s0.setTile 0 { tileOf c0 with chans := [(0, .steer 0)] }, 0, mkToken (mkHeader 1 0 0 0) 0, mkToken (mkHeader 3 0 0 0) 0, by decide +kernel⟩,
   ⟨s0, 0, mkToken (mkHeader 0 0 1 0) 0, mkToken (mkHeader 0 0 1 0) 0, by decide +kernel⟩⟩

set_option maxRecDepth 4000 in
/-- States and operands that meet the hypotheses of `GateTokensActOnTheirQueue`, clause by clause. -/
theorem witness_GateTokensActOnTheirQueue :
  (∃ (tile : Fin 4096) (port : Fin 4) (flip : BitVec 304) (s : State) (tok : Token) (b : Nat) (p : Plot) (l : List Flight), AtGate s tile port flip tok b p l ∧ tok.qsel / 256 % 8 = 0) ∧
  (∃ (tile : Fin 4096) (port : Fin 4) (flip : BitVec 304) (s : State) (tok : Token) (b : Nat) (p : Plot) (l : List Flight), AtGate s tile port flip tok b p l ∧ 4 ≤ tok.qsel / 256 % 8) ∧
  (∃ (tile : Fin 4096) (port : Fin 4) (flip : BitVec 304) (s : State) (tok : Token) (b : Nat) (p : Plot) (l : List Flight), AtGate s tile port flip tok b p l ∧ tok.qsel / 256 % 8 = 1 ∧ parkMoves s tile p tok = false) ∧
  (∃ (tile : Fin 4096) (port : Fin 4) (flip : BitVec 304) (s : State) (tok : Token) (b : Nat) (p : Plot) (l : List Flight), AtGate s tile port flip tok b p l ∧ tok.qsel / 256 % 8 = 1 ∧ parkMoves s tile p tok = true) ∧
  (∃ (tile : Fin 4096) (port : Fin 4) (flip : BitVec 304) (s : State) (tok : Token) (b : Nat) (p : Plot) (l : List Flight), AtGate s tile port flip tok b p l ∧ tok.qsel / 256 % 8 = 2) ∧
  (∃ (tile : Fin 4096) (port : Fin 4) (flip : BitVec 304) (s : State) (tok : Token) (b : Nat) (p : Plot) (l : List Flight), AtGate s tile port flip tok b p l ∧ tok.qsel / 256 % 8 = 3 ∧ ((s.cistern (tileQuad tile.val)).queue (gateQueue tile p tok)).latOut = true) ∧
  (∃ (tile : Fin 4096) (port : Fin 4) (flip : BitVec 304) (s : State) (tok : Token) (b : Nat) (p : Plot) (l : List Flight), AtGate s tile port flip tok b p l ∧ tok.qsel / 256 % 8 = 3 ∧ (((s.cistern (tileQuad tile.val)).queue (gateQueue tile p tok)).latOut = false ∨ s.routeOf b = none)) ∧
  (∃ (tile : Fin 4096) (port : Fin 4) (flip : BitVec 304) (s : State) (tok : Token) (l : List Flight), takeFlight (4 * tile.val + port.val) true s.flights = some (tok, l) ∧ ¬ ((tok.disturb flip).qsel / 256 % 8 = 0 ∨ 4 ≤ (tok.disturb flip).qsel / 256 % 8)) ∧
  (∃ (tile : Fin 4096) (port : Fin 4) (flip : BitVec 304) (s : State) (tok : Token) (l : List Flight), takeFlight (4 * tile.val + port.val) true s.flights = some (tok, l) ∧ ((tok.disturb flip).qsel / 256 % 8 = 0 ∨ 4 ≤ (tok.disturb flip).qsel / 256 % 8) ∧ ({ s with flights := l } : State).gatePlot (4 * tile.val + port.val) = none) ∧
  (∃ (tile : Fin 4096) (port : Fin 4) (flip : BitVec 304) (s : State) (tok : Token) (l : List Flight), takeFlight (4 * tile.val + port.val) true s.flights = some (tok, l) ∧ ((tok.disturb flip).qsel / 256 % 8 = 0 ∨ 4 ≤ (tok.disturb flip).qsel / 256 % 8) ∧ (({ s with flights := l } : State).gatePlot (4 * tile.val + port.val)).isSome = true ∧ ({ s with flights := l } : State).loadingAt tile.val = true) ∧
  (∃ (tile : Fin 4096) (port : Fin 4) (flip : BitVec 304) (s : State), takeFlight (4 * tile.val + port.val) true s.flights = none) ∧
  (∃ (tile : Fin 4096) (port : Fin 4) (flip : BitVec 304) (s : State) (tok : Token) (l : List Flight), takeFlight (4 * tile.val + port.val) true s.flights = some (tok, l) ∧ ¬ ((tok.disturb flip).qsel / 256 % 8 = 1)) ∧
  (∃ (tile : Fin 4096) (port : Fin 4) (flip : BitVec 304) (s : State) (tok : Token) (l : List Flight), takeFlight (4 * tile.val + port.val) true s.flights = some (tok, l) ∧ (tok.disturb flip).qsel / 256 % 8 = 1 ∧ ({ s with flights := l } : State).gatePlot (4 * tile.val + port.val) = none) ∧
  (∃ (tile : Fin 4096) (port : Fin 4) (flip : BitVec 304) (s : State) (tok : Token) (l : List Flight), takeFlight (4 * tile.val + port.val) true s.flights = some (tok, l) ∧ (tok.disturb flip).qsel / 256 % 8 = 1 ∧ (({ s with flights := l } : State).gatePlot (4 * tile.val + port.val)).isSome = true ∧ ({ s with flights := l } : State).loadingAt tile.val = true) ∧
  (∃ (tile : Fin 4096) (port : Fin 4) (flip : BitVec 304) (s : State), takeFlight (4 * tile.val + port.val) true s.flights = none) ∧
  (∃ (tile : Fin 4096) (port : Fin 4) (flip : BitVec 304) (s : State) (tok : Token) (l : List Flight), takeFlight (4 * tile.val + port.val) true s.flights = some (tok, l) ∧ ¬ ((tok.disturb flip).qsel / 256 % 8 = 2)) ∧
  (∃ (tile : Fin 4096) (port : Fin 4) (flip : BitVec 304) (s : State) (tok : Token) (l : List Flight), takeFlight (4 * tile.val + port.val) true s.flights = some (tok, l) ∧ (tok.disturb flip).qsel / 256 % 8 = 2 ∧ ({ s with flights := l } : State).gatePlot (4 * tile.val + port.val) = none) ∧
  (∃ (tile : Fin 4096) (port : Fin 4) (flip : BitVec 304) (s : State) (tok : Token) (l : List Flight), takeFlight (4 * tile.val + port.val) true s.flights = some (tok, l) ∧ (tok.disturb flip).qsel / 256 % 8 = 2 ∧ (({ s with flights := l } : State).gatePlot (4 * tile.val + port.val)).isSome = true ∧ ({ s with flights := l } : State).loadingAt tile.val = true) ∧
  (∃ (tile : Fin 4096) (port : Fin 4) (flip : BitVec 304) (s : State), takeFlight (4 * tile.val + port.val) true s.flights = none) ∧
  (∃ (tile : Fin 4096) (port : Fin 4) (flip : BitVec 304) (s : State) (tok : Token) (l : List Flight), takeFlight (4 * tile.val + port.val) true s.flights = some (tok, l) ∧ ¬ ((tok.disturb flip).qsel / 256 % 8 = 3)) ∧
  (∃ (tile : Fin 4096) (port : Fin 4) (flip : BitVec 304) (s : State) (tok : Token) (l : List Flight), takeFlight (4 * tile.val + port.val) true s.flights = some (tok, l) ∧ (tok.disturb flip).qsel / 256 % 8 = 3 ∧ ({ s with flights := l } : State).gatePlot (4 * tile.val + port.val) = none) ∧
  (∃ (tile : Fin 4096) (port : Fin 4) (flip : BitVec 304) (s : State) (tok : Token) (l : List Flight), takeFlight (4 * tile.val + port.val) true s.flights = some (tok, l) ∧ (tok.disturb flip).qsel / 256 % 8 = 3 ∧ (({ s with flights := l } : State).gatePlot (4 * tile.val + port.val)).isSome = true ∧ ({ s with flights := l } : State).loadingAt tile.val = true) ∧
  (∃ (tile : Fin 4096) (port : Fin 4) (flip : BitVec 304) (s : State), takeFlight (4 * tile.val + port.val) true s.flights = none) ∧
  (∃ (tile : Fin 4096) (port : Fin 4) (turn : Fin 256) (s : State) (b i k : Nat) (p : Plot) (h : BitVec 32) (pay : BitVec 256), openWindow s tile port turn b p i ∧ s.headItem (tileQuad tile.val) (streamQueue tile p i) = some (k, h, pay) ∧ s.headUe (tileQuad tile.val) (streamQueue tile p i) = none ∧ ((s.cistern (tileQuad tile.val)).queue (streamQueue tile p i)).park = false) ∧
  (∃ (tile : Fin 4096) (port : Fin 4) (turn : Fin 256) (s : State) (b i k : Nat) (p : Plot) (h : BitVec 32) (pay : BitVec 256), openWindow s tile port turn b p i ∧ s.headItem (tileQuad tile.val) (streamQueue tile p i) = some (k, h, pay) ∧ s.headUe (tileQuad tile.val) (streamQueue tile p i) = none ∧ ((s.cistern (tileQuad tile.val)).queue (streamQueue tile p i)).park = true ∧ bitB (s.tile tile.val).regs.epochAccept (fieldN h.toNat 12 4) = true) ∧
  (∃ (tile : Fin 4096) (port : Fin 4) (turn : Fin 256) (s : State) (b i : Nat) (p : Plot), openWindow s tile port turn b p i ∧ s.headItem (tileQuad tile.val) (streamQueue tile p i) = none) :=
  ⟨⟨0, 0, 0, gateState (mkToken (mkHeader 0 0 0 0) 0), (mkToken (mkHeader 0 0 0 0) 0).disturb 0, 0, runPlot, [], ⟨⟨(mkToken (mkHeader 0 0 0 0) 0), rfl, rfl⟩, rfl, rfl⟩, by decide +kernel⟩,
   ⟨0, 0, 0, gateState (mkToken (mkHeader 0 0 0 1024) 0), (mkToken (mkHeader 0 0 0 1024) 0).disturb 0, 0, runPlot, [], ⟨⟨(mkToken (mkHeader 0 0 0 1024) 0), rfl, rfl⟩, rfl, rfl⟩, by decide +kernel⟩,
   ⟨0, 0, 0, gateState (mkToken (mkHeader 0 0 0 256) 0), (mkToken (mkHeader 0 0 0 256) 0).disturb 0, 0, runPlot, [], ⟨⟨(mkToken (mkHeader 0 0 0 256) 0), rfl, rfl⟩, rfl, rfl⟩, by decide +kernel⟩,
   ⟨0, 0, 0, { gateState (mkToken (mkHeader 0 0 0 256) 2) with cist := [(0, cistWith [⟨[0], 1, false, false⟩])] }, (mkToken (mkHeader 0 0 0 256) 2).disturb 0, 0, runPlot, [], ⟨⟨(mkToken (mkHeader 0 0 0 256) 2), rfl, rfl⟩, rfl, rfl⟩, by decide +kernel⟩,
   ⟨0, 0, 0, gateState (mkToken (mkHeader 0 0 0 512) 0), (mkToken (mkHeader 0 0 0 512) 0).disturb 0, 0, runPlot, [], ⟨⟨(mkToken (mkHeader 0 0 0 512) 0), rfl, rfl⟩, rfl, rfl⟩, by decide +kernel⟩,
   ⟨0, 0, 0, { gateState (mkToken (mkHeader 0 0 0 768) 0) with cist := [(0, { Cistern.reset with queues := [(0, { CQueue.reset with latOut := true })] })] }, (mkToken (mkHeader 0 0 0 768) 0).disturb 0, 0, runPlot, [], ⟨⟨(mkToken (mkHeader 0 0 0 768) 0), rfl, rfl⟩, rfl, rfl⟩, by decide +kernel⟩,
   ⟨0, 0, 0, gateState (mkToken (mkHeader 0 0 0 768) 0), (mkToken (mkHeader 0 0 0 768) 0).disturb 0, 0, runPlot, [], ⟨⟨(mkToken (mkHeader 0 0 0 768) 0), rfl, rfl⟩, rfl, rfl⟩, by decide +kernel⟩,
   ⟨0, 0, 0, gateState (mkToken (mkHeader 0 0 0 256) 0), _, _, rfl, by decide +kernel⟩,
   ⟨0, 0, 0, { s0 with flights := [⟨0, true, (mkToken (mkHeader 0 0 0 0) 0)⟩] }, _, _, rfl, by decide +kernel⟩,
   ⟨0, 0, 0, { gateState (mkToken (mkHeader 0 0 0 0) 0) with blocks := [(0, { Block.reset with plot := some { runPlot with loading := true } })] }, _, _, rfl, by decide +kernel⟩,
   ⟨0, 0, 0, s0, by decide +kernel⟩,
   ⟨0, 0, 0, gateState (mkToken (mkHeader 0 0 0 0) 0), _, _, rfl, by decide +kernel⟩,
   ⟨0, 0, 0, { s0 with flights := [⟨0, true, (mkToken (mkHeader 0 0 0 256) 0)⟩] }, _, _, rfl, by decide +kernel⟩,
   ⟨0, 0, 0, { gateState (mkToken (mkHeader 0 0 0 256) 0) with blocks := [(0, { Block.reset with plot := some { runPlot with loading := true } })] }, _, _, rfl, by decide +kernel⟩,
   ⟨0, 0, 0, s0, by decide +kernel⟩,
   ⟨0, 0, 0, gateState (mkToken (mkHeader 0 0 0 0) 0), _, _, rfl, by decide +kernel⟩,
   ⟨0, 0, 0, { s0 with flights := [⟨0, true, (mkToken (mkHeader 0 0 0 512) 0)⟩] }, _, _, rfl, by decide +kernel⟩,
   ⟨0, 0, 0, { gateState (mkToken (mkHeader 0 0 0 512) 0) with blocks := [(0, { Block.reset with plot := some { runPlot with loading := true } })] }, _, _, rfl, by decide +kernel⟩,
   ⟨0, 0, 0, s0, by decide +kernel⟩,
   ⟨0, 0, 0, gateState (mkToken (mkHeader 0 0 0 0) 0), _, _, rfl, by decide +kernel⟩,
   ⟨0, 0, 0, { s0 with flights := [⟨0, true, (mkToken (mkHeader 0 0 0 768) 0)⟩] }, _, _, rfl, by decide +kernel⟩,
   ⟨0, 0, 0, { gateState (mkToken (mkHeader 0 0 0 768) 0) with blocks := [(0, { Block.reset with plot := some { runPlot with loading := true } })] }, _, _, rfl, by decide +kernel⟩,
   ⟨0, 0, 0, s0, by decide +kernel⟩,
   ⟨0, 0, 0, { (s0.setTile 0 { tileOf c0 with lead := some 0, regs := { TileRegs.reset with epochAccept := 1 } }).setPlot 0 runPlot with cist := [(0, { Cistern.reset with queues := [(0, { CQueue.reset with pkts := [⟨[0], 1, false, false⟩], park := false })] })] }, 0, 0, _, runPlot, _, _, ⟨rfl, Or.inl rfl, by decide +kernel⟩, rfl, by decide +kernel⟩,
   ⟨0, 0, 0, { (s0.setTile 0 { tileOf c0 with lead := some 0, regs := { TileRegs.reset with epochAccept := 1 } }).setPlot 0 runPlot with cist := [(0, { Cistern.reset with queues := [(0, { CQueue.reset with pkts := [⟨[0], 1, false, false⟩], park := true })] })] }, 0, 0, _, runPlot, _, _, ⟨rfl, Or.inl rfl, by decide +kernel⟩, rfl, by decide +kernel⟩,
   ⟨0, 0, 0, { (s0.setTile 0 { tileOf c0 with lead := some 0, regs := { TileRegs.reset with epochAccept := 1 } }).setPlot 0 runPlot with cist := [(0, { Cistern.reset with queues := [(0, { CQueue.reset with pkts := [], park := false })] })] }, 0, 0, runPlot, ⟨rfl, Or.inl rfl, by decide +kernel⟩, by decide +kernel⟩⟩

set_option maxRecDepth 4000 in
/-- States and operands that meet the hypotheses of `ReadersTakeItemsFromTheHead`, clause by clause. -/
theorem witness_ReadersTakeItemsFromTheHead :
  (∃ (s : State) (q n : Nat) (p : Pkt) (l : List Pkt), ((s.cistern q).queue n).pkts = p :: l) ∧
  (∃ (c : Cistern) (n : Nat) (p : Pkt) (l : List Pkt), (c.queue n).pkts = p :: l ∧ (c.queue n).pos + 1 ≠ p.n ∧ ((c.queue n).pos + 1) % 14 ≠ 0) ∧
  (∃ (c : Cistern) (n x : Nat) (r : List Nat) (p : Pkt) (l : List Pkt), (c.queue n).pkts = p :: l ∧ p.cells = x :: r ∧ (c.queue n).pos + 1 ≠ p.n ∧ ((c.queue n).pos + 1) % 14 = 0) ∧
  (∃ (c : Cistern) (n : Nat) (p : Pkt) (l : List Pkt), (c.queue n).pkts = p :: l ∧ (∀ y ∈ l, y.doomed = false) ∧ (c.queue n).pos + 1 = p.n) ∧
  (∃ (c : Cistern) (n : Nat), (c.queue n).pkts = []) :=
  ⟨⟨latState [bytesOf 32 [(0, 3)]], 0, 0, _, _, rfl⟩,
   ⟨cistWith [⟨[0], 3, false, false⟩], 0, _, _, rfl, by decide +kernel⟩,
   ⟨{ Cistern.reset with queues := [(0, { CQueue.reset with pkts := [⟨[0, 1], 20, false, false⟩], pos := 13 })] }, 0, 0, [1], _, _, rfl, by decide +kernel⟩,
   ⟨cistWith [⟨[0], 1, false, false⟩], 0, _, _, rfl, by decide +kernel⟩,
   ⟨{ Cistern.reset with pool := 2, quota := [(0, 2)] }, 0, by decide +kernel⟩⟩

set_option maxRecDepth 4000 in
/-- States and operands that meet the hypotheses of `PacketsLinkWholeAtTheTail`, clause by clause. -/
theorem witness_PacketsLinkWholeAtTheTail :
  (∃ (s : State) (q n w : Nat) (hdr : BitVec 32) (pay : BitVec 256), (s.cistern q).building = [] ∧ (s.cistern q).take (queueOwner n) = none) ∧
  (∃ (s : State) (q n w x : Nat) (c1 : Cistern) (hdr : BitVec 32) (pay : BitVec 256), (s.cistern q).building = [] ∧ hdr.getLsbD 2 = false ∧ (s.cistern q).take (queueOwner n) = some (x, c1)) ∧
  (∃ (s : State) (q n w x : Nat) (c1 : Cistern) (hdr : BitVec 32) (pay : BitVec 256), (s.cistern q).building = [] ∧ hdr.getLsbD 2 = true ∧ (s.cistern q).take (queueOwner n) = some (x, c1)) ∧
  (∃ (c : Cistern) (o x : Nat) (c1 : Cistern), c.take o = some (x, c1)) ∧
  (∃ (c : Cistern) (o : Nat), c.quotaOf o ≤ c.heldBy o) :=
  ⟨⟨s0, 0, 0, 0, 0, 0, by decide +kernel⟩,
   ⟨{ s0 with cist := [(0, { Cistern.reset with pool := 2, quota := [(0, 2)] })] }, 0, 0, 0, 0, { Cistern.reset with pool := 2, fresh := 1, quota := [(0, 2)], held := [(0, 1)] }, 0, 0, by decide +kernel⟩,
   ⟨{ s0 with cist := [(0, { Cistern.reset with pool := 4, quota := [(0, 4)] })] }, 0, 0, 0, _, _, 4, 0, by decide +kernel, by decide +kernel, rfl⟩,
   ⟨{ Cistern.reset with pool := 2, quota := [(0, 2)] }, 0, 0, { Cistern.reset with pool := 2, fresh := 1, quota := [(0, 2)], held := [(0, 1)] }, by decide +kernel⟩,
   ⟨{ Cistern.reset with pool := 2, quota := [(0, 2)] }, 1, by decide +kernel⟩⟩

set_option maxRecDepth 4000 in
/-- States and operands that meet the hypotheses of `PlotSwitchesSections`, clause by clause. -/
theorem witness_PlotSwitchesSections :
  (∃ (lead : Fin 64) (s : State) (p : Plot), s.plot lead.val = some p ∧ p.endReport = true ∧ p.state = .running) ∧
  (∃ (lead : Fin 64) (s : State) (p : Plot), s.plot lead.val = some p ∧ p.endReport = true ∧ p.state = .yielding) ∧
  (∃ (lead : Fin 64) (s : State) (p : Plot), s.plot lead.val = some p ∧ (p.endReport = false ∨ (p.state ≠ .running ∧ p.state ≠ .yielding))) ∧
  (∃ (lead : Fin 64) (s : State), s.plot lead.val = none) ∧
  (∃ (d : Nat) (lead : Fin 64) (s : State) (p : Plot), s.plot lead.val = some p ∧ p.state = .switching ∧ p.loading = false ∧ s.drained p = true) ∧
  (∃ (d : Nat) (lead : Fin 64) (s : State) (p : Plot), s.plot lead.val = some p ∧ (p.state ≠ .switching ∨ p.loading = true ∨ s.drained p = false)) ∧
  (∃ (d : Nat) (lead : Fin 64) (s : State), s.plot lead.val = none) ∧
  (∃ (lead : Fin 64) (s : State) (p : Plot), s.plot lead.val = some p ∧ p.state = .switching ∧ p.loading = false ∧ s.drained p = false) ∧
  (∃ (lead : Fin 64) (s : State) (p : Plot), s.plot lead.val = some p ∧ (p.state ≠ .switching ∨ p.loading = true ∨ s.drained p = true)) ∧
  (∃ (lead : Fin 64) (s : State), s.plot lead.val = none) ∧
  (∃ (lead : Fin 64) (s : State) (p : Plot), s.plot lead.val = some p ∧ p.state = .switching ∧ p.loading = true ∧ lastSect p = false) ∧
  (∃ (lead : Fin 64) (s : State) (p : Plot), s.plot lead.val = some p ∧ p.state = .switching ∧ p.loading = true ∧ lastSect p = true ∧ s.parkedEmpty p = true) ∧
  (∃ (lead : Fin 64) (s : State) (p : Plot), s.plot lead.val = some p ∧ p.state = .switching ∧ p.loading = true ∧ lastSect p = true ∧ s.parkedEmpty p = false) ∧
  (∃ (lead : Fin 64) (s : State) (p : Plot), s.plot lead.val = some p ∧ (p.state ≠ .switching ∨ p.loading = false)) ∧
  (∃ (lead : Fin 64) (s : State), s.plot lead.val = none) ∧
  (∃ (b e : Nat) (s : State) (p : Plot), nextEpoch p.held p.epoch = some e ∧ heldCount p.held ≤ p.env 3 1 ∧ p.leftover = false) ∧
  (∃ (b e : Nat) (s : State) (p : Plot), nextEpoch p.held p.epoch = some e ∧ heldCount p.held ≤ p.env 3 1 ∧ p.leftover = false) ∧
  (∃ (s : State) (p : Plot), (∀ g, g ∈ p.tiles → (s.tile g).badEntry = none)) ∧
  (∃ (s : State) (p : Plot) (g i : Nat), p.tiles.find? (fun g => (s.tile g).badEntry.isSome) = some g ∧ (s.tile g).badEntry = some i) ∧
  (∃ (b : Fin 64) (e : Nat) (s : State) (p : Plot) (last : Bool), nextEpoch p.held p.epoch = some e ∧ heldCount p.held ≤ p.env 3 1 ∧ p.leftover = true ∧ p.state = .switching) ∧
  (∃ (held epoch e : Nat), nextEpoch held epoch = some e) ∧
  (∃ (b : Nat) (s : State) (p : Plot) (last : Bool), (nextEpoch p.held p.epoch = none ∨ p.env 3 1 < heldCount p.held)) :=
  ⟨⟨0, plotState { p0 with state := .running, endReport := true }, { p0 with state := .running, endReport := true }, by decide +kernel⟩,
   ⟨0, plotState { p0 with endReport := true, state := .yielding }, _, rfl, by decide +kernel⟩,
   ⟨0, chanState true, _, rfl, by decide +kernel⟩,
   ⟨0, s0, by decide +kernel⟩,
   ⟨0, 0, plotState { p0 with state := .switching }, { p0 with state := .switching }, by decide +kernel⟩,
   ⟨0, 0, chanState true, _, rfl, by decide +kernel⟩,
   ⟨0, 0, s0, by decide +kernel⟩,
   ⟨0, { plotState { p0 with state := .switching } with tiles := [(0, tileOf c0)] }, { p0 with state := .switching }, by decide +kernel⟩,
   ⟨0, chanState true, _, rfl, by decide +kernel⟩,
   ⟨0, s0, by decide +kernel⟩,
   ⟨0, plotState { p0 with state := .switching, loading := true, leftover := true }, _, rfl, by decide +kernel⟩,
   ⟨0, plotState { p0 with state := .switching, loading := true, plat := bytesOf 0x100 [(0x30, 0x50), (0x51, 1)] }, _, rfl, by decide +kernel⟩,
   ⟨0, { plotState { runPlot with state := .switching, loading := true, plat := bytesOf 0x200 [(0x30, 0x50), (0x51, 1)] } with cist := [(0, { Cistern.reset with queues := [(0, { CQueue.reset with park := true, pkts := [⟨[0], 1, false, false⟩] })] })] }, _, rfl, by decide +kernel⟩,
   ⟨0, chanState true, _, rfl, by decide +kernel⟩,
   ⟨0, s0, by decide +kernel⟩,
   ⟨0, _, s0, chanPlot, rfl, by decide +kernel⟩,
   ⟨0, _, s0, chanPlot, rfl, by decide +kernel⟩,
   ⟨s0, chanPlot, by decide +kernel⟩,
   ⟨chanState true, chanPlot, 0, _, by decide +kernel, rfl⟩,
   ⟨0, _, s0, { p0 with state := .switching, loading := true, leftover := true }, false, rfl, by decide +kernel⟩,
   ⟨1, 0, 1, by decide +kernel⟩,
   ⟨0, s0, { p0 with held := 65535 }, false, by decide +kernel⟩⟩

set_option maxRecDepth 4000 in
/-- States and operands that meet the hypotheses of `PlotIsForced`, clause by clause. -/
theorem witness_PlotIsForced :
  (∃ (lead : Fin 64) (s : State) (p : Plot), s.plot lead.val = some p ∧ p.state ≠ .free ∧ p.state ≠ .filling ∧ p.state ≠ .forcing) ∧
  (∃ (lead : Fin 64) (s : State) (p : Plot), s.plot lead.val = some p ∧ p.state = .forcing) ∧
  (∃ (lead : Fin 64) (s : State) (p : Plot), s.plot lead.val = some p ∧ (p.state = .free ∨ p.state = .filling)) ∧
  (∃ (lead : Fin 64) (s : State), s.plot lead.val = none) ∧
  (∃ (lead : Fin 64) (s : State) (p : Plot), s.plot lead.val = some p ∧ p.task.isSome = true ∧ p.state ≠ .free ∧ p.state ≠ .forcing) ∧
  (∃ (lead : Fin 64) (s : State) (p : Plot), s.plot lead.val = some p ∧ p.task.isSome = true ∧ (p.state = .free ∨ p.state = .forcing)) ∧
  (∃ (lead : Fin 64) (s : State) (p : Plot), s.plot lead.val = some p ∧ p.task.isSome = false) ∧
  (∃ (lead : Fin 64) (s : State), s.plot lead.val = none) ∧
  (∃ (lead : Fin 64) (s : State) (p : Plot), s.plot lead.val = some p ∧ p.state = .yielding ∧ (∃ g, g ∈ p.tiles ∧ (s.tile g).regs.yieldDone = false)) ∧
  (∃ (lead : Fin 64) (s : State) (p : Plot), s.plot lead.val = some p ∧ (p.state ≠ .yielding ∨ (∀ g, g ∈ p.tiles → (s.tile g).regs.yieldDone = true))) ∧
  (∃ (lead : Fin 64) (s : State), s.plot lead.val = none) ∧
  (∃ (on : Bool) (lead : Fin 64) (s : State) (p : Plot), s.plot lead.val = some p ∧ p.state ≠ .free ∧ p.state ≠ .filling) ∧
  (∃ (on : Bool) (lead : Fin 64) (s : State) (p : Plot), s.plot lead.val = some p ∧ (p.state = .free ∨ p.state = .filling)) ∧
  (∃ (on : Bool) (lead : Fin 64) (s : State), s.plot lead.val = none) ∧
  (∃ (lead : Fin 64) (s : State) (p : Plot), s.plot lead.val = some p ∧ p.state = .forcing ∧ p.release = false) ∧
  (∃ (lead : Fin 64) (s : State) (p : Plot), s.plot lead.val = some p ∧ p.state = .forcing ∧ p.release = true) ∧
  (∃ (lead : Fin 64) (s : State) (p : Plot), s.plot lead.val = some p ∧ quietForce s p) ∧
  (∃ (lead : Fin 64) (s : State) (p : Plot), s.plot lead.val = some p ∧ p.state ≠ .forcing) ∧
  (∃ (lead : Fin 64) (s : State), s.plot lead.val = none) ∧
  (∃ (b : Nat) (s : State) (p : Plot) (k : Task), s.plot b = some p ∧ p.task = some k ∧ ¬ (p.forceRetry = true ∧ k.retried = false) ∧ p.forceStatus ≠ 0x0407) ∧
  (∃ (s : State) (p : Plot) (b c1 c2 st tile : Nat) (info : BitVec 64) (m retry : Bool), s.plot b = some p ∧ p.state = .forcing ∧ (s.block b).regs.fault = ⟨c1, true, m, info⟩) ∧
  (∃ (s : State) (b c st tile : Nat) (retry : Bool), (∀ p, s.plot b = some p → p.state = .free)) ∧
  (∃ (s : State) (p : Plot) (b c st tile : Nat) (retry : Bool), s.plot b = some p ∧ p.state ≠ .free ∧ p.state ≠ .forcing) :=
  ⟨⟨0, plotState { p0 with state := .running }, { p0 with state := .running }, by decide +kernel⟩,
   ⟨0, plotState { p0 with state := .forcing }, _, rfl, by decide +kernel⟩,
   ⟨0, plotState { p0 with state := .filling }, { p0 with state := .filling }, by decide +kernel⟩,
   ⟨0, s0, by decide +kernel⟩,
   ⟨0, plotState { p0 with state := .running, task := some task0 }, { p0 with state := .running, task := some task0 }, by decide +kernel⟩,
   ⟨0, plotState { p0 with state := .forcing, task := some task0 }, _, rfl, by decide +kernel⟩,
   ⟨0, chanState true, _, rfl, by decide +kernel⟩,
   ⟨0, s0, by decide +kernel⟩,
   ⟨0, plotState { p0 with state := .yielding }, { p0 with state := .yielding }, by decide +kernel, by decide +kernel, ⟨0, by decide +kernel, by decide +kernel⟩⟩,
   ⟨0, chanState true, _, rfl, by decide +kernel⟩,
   ⟨0, s0, by decide +kernel⟩,
   ⟨true, 0, plotState { p0 with state := .idle }, { p0 with state := .idle }, by decide +kernel⟩,
   ⟨false, 0, plotState { p0 with state := .filling }, _, rfl, by decide +kernel⟩,
   ⟨false, 0, s0, by decide +kernel⟩,
   ⟨0, plotState { p0 with state := .forcing }, _, rfl, by decide +kernel⟩,
   ⟨0, plotState { p0 with state := .forcing, release := true }, _, rfl, by decide +kernel⟩,
   ⟨0, plotState { p0 with state := .forcing }, { p0 with state := .forcing }, by decide +kernel, ⟨rfl, rfl, rfl, rfl⟩⟩,
   ⟨0, chanState true, _, rfl, by decide +kernel⟩,
   ⟨0, s0, by decide +kernel⟩,
   ⟨0, plotState { p0 with state := .running, task := some task0 }, _, _, rfl, rfl, by decide +kernel⟩,
   ⟨{ s0 with blocks := [(0, { Block.reset with plot := some { p0 with state := .forcing }, regs := { PlotRegs.reset with fault := ⟨1, true, false, 0⟩ } })] }, _, 0, 1, 0, 0, 0, 0, false, false, rfl, by decide +kernel⟩,
   ⟨s0, 0, 0, 0, 0, false, by decide +kernel⟩,
   ⟨plotState { p0 with state := .yielding }, { p0 with state := .yielding }, 0, 0x0A, 0x0405, 0, true, by decide +kernel, by decide +kernel, by decide +kernel⟩⟩

set_option maxRecDepth 4000 in
/-- States and operands that meet the hypotheses of `PlotYieldsSavesAndRestores`, clause by clause. -/
theorem witness_PlotYieldsSavesAndRestores :
  (∃ (lead : Fin 64) (s : State) (p : Plot), s.plot lead.val = some p ∧ p.state = .running ∧ p.yieldReq = false) ∧
  (∃ (lead : Fin 64) (s : State) (p : Plot), s.plot lead.val = some p ∧ p.state = .switching ∧ p.yieldReq = false) ∧
  (∃ (lead : Fin 64) (s : State) (p : Plot), s.plot lead.val = some p ∧ p.state ≠ .free ∧ p.state ≠ .filling ∧ p.state ≠ .switching ∧ p.state ≠ .running ∧ p.yieldReq = false) ∧
  (∃ (lead : Fin 64) (s : State) (p : Plot), s.plot lead.val = some p ∧ p.state = .yielding ∧ p.yieldReq = true) ∧
  (∃ (lead : Fin 64) (s : State) (p : Plot), s.plot lead.val = some p ∧ p.state ≠ .free ∧ p.state ≠ .filling ∧ p.state ≠ .yielding ∧ p.yieldReq = true) ∧
  (∃ (on : Bool) (lead : Fin 64) (s : State) (p : Plot), s.plot lead.val = some p ∧ (p.state = .free ∨ p.state = .filling ∨ p.yieldReq = on)) ∧
  (∃ (on : Bool) (lead : Fin 64) (s : State), s.plot lead.val = none) ∧
  (∃ (lead : Fin 64) (s : State) (p : Plot), s.plot lead.val = some p ∧ p.state = .yielding ∧ (∀ g, g ∈ p.tiles → (s.tile g).regs.yieldDone = true) ∧ p.saveArea.foldl (fun a x => a + p.saveBytes x) 0 ≤ p.env 0x20 8) ∧
  (∃ (b what id : Nat) (s : State) (p : Plot), s.plot b = some p) ∧
  (∃ (lead : Fin 64) (s : State) (p : Plot), s.plot lead.val = some p ∧ p.state = .yielding ∧ (∀ g, g ∈ p.tiles → (s.tile g).regs.yieldDone = true) ∧ p.env 0x20 8 < p.saveArea.foldl (fun a x => a + p.saveBytes x) 0) ∧
  (∃ (lead : Fin 64) (s : State) (p : Plot), s.plot lead.val = some p ∧ (p.state ≠ .yielding ∨ (∃ g, g ∈ p.tiles ∧ (s.tile g).regs.yieldDone = false))) ∧
  (∃ (lead : Fin 64) (s : State), s.plot lead.val = none) ∧
  (∃ (saved : Nat) (s s0 : State) (k : SavedTask) (w : WaitPlace) (p : Plot), SMap.get none s.sched.saved saved = some k ∧ s.sched.waits.find? (fun w => w.saved == some saved) = some w ∧ s.power.mayStep = true ∧ s.waitTurn w = true ∧ s.placing w = some (p, s0) ∧ firstUe 32 s.mem.ueRes k.place k.bytes = none) ∧
  (∃ (saved u : Nat) (s s0 : State) (k : SavedTask) (w : WaitPlace) (p : Plot), SMap.get none s.sched.saved saved = some k ∧ s.sched.waits.find? (fun w => w.saved == some saved) = some w ∧ s.power.mayStep = true ∧ s.waitTurn w = true ∧ s.placing w = some (p, s0) ∧ firstUe 32 s.mem.ueRes k.place k.bytes = some u) ∧
  (∃ (saved : Nat) (s : State), (SMap.get none s.sched.saved saved = none ∨ s.power.mayStep = false ∨ (∀ w, s.sched.waits.find? (fun w => w.saved == some saved) = some w → s.waitTurn w = false ∨ s.placing w = none))) :=
  ⟨⟨0, plotState { p0 with state := .running }, { p0 with state := .running }, by decide +kernel⟩,
   ⟨0, plotState { p0 with state := .switching }, { p0 with state := .switching }, by decide +kernel⟩,
   ⟨0, chanState true, _, rfl, by decide +kernel⟩,
   ⟨0, plotState { p0 with state := .yielding, yieldReq := true }, _, rfl, by decide +kernel⟩,
   ⟨0, plotState { p0 with yieldReq := true }, _, rfl, by decide +kernel⟩,
   ⟨false, 0, chanState true, _, rfl, by decide +kernel⟩,
   ⟨false, 0, s0, by decide +kernel⟩,
   ⟨0, (plotState { p0 with state := .yielding }).updTiles (Plot.tiles p0) (fun t => { t with regs := { t.regs with yieldDone := true } }), { p0 with state := .yielding }, by decide +kernel⟩,
   ⟨0, 0, 0, chanState true, _, rfl⟩,
   ⟨0, (plotState { p0 with state := .yielding, saveArea := [⟨0, [⟨0, { c0 with yieldPoint := 0 }⟩], [], [], [], none, none, [], []⟩], plat := bytesOf 0x100 [(0x34, 0x80), (0x38, 1), (0x98, 64)] }).updTiles (Plot.tiles p0) (fun t => { t with regs := { t.regs with yieldDone := true } }), { p0 with state := .yielding, saveArea := [⟨0, [⟨0, { c0 with yieldPoint := 0 }⟩], [], [], [], none, none, [], []⟩], plat := bytesOf 0x100 [(0x34, 0x80), (0x38, 1), (0x98, 64)] }, by decide +kernel⟩,
   ⟨0, chanState true, _, rfl, by decide +kernel⟩,
   ⟨0, s0, by decide +kernel⟩,
   ⟨0, { modelState model0 with parcels := [(1, parcel0)], mem := { s0.mem with ueRes := [] }, sched := { Sched.reset with saved := [(0, some { saved0 with bytes := 0 })], waits := [⟨256, false, some 0⟩] } }, ((({ modelState model0 with parcels := [(1, parcel0)], mem := { s0.mem with ueRes := [] }, sched := { Sched.reset with saved := [(0, some { saved0 with bytes := 0 })], waits := [⟨256, false, some 0⟩] } } : State).placing ⟨256, false, some 0⟩).get (by decide +kernel)).2, { saved0 with bytes := 0 }, ⟨256, false, some 0⟩, ((({ modelState model0 with parcels := [(1, parcel0)], mem := { s0.mem with ueRes := [] }, sched := { Sched.reset with saved := [(0, some { saved0 with bytes := 0 })], waits := [⟨256, false, some 0⟩] } } : State).placing ⟨256, false, some 0⟩).get (by decide +kernel)).1, rfl, rfl, by decide +kernel, by decide +kernel, got _, by decide +kernel⟩,
   ⟨0, 0, { modelState model0 with parcels := [(1, parcel0)], mem := { s0.mem with ueRes := [(0, true)] }, sched := { Sched.reset with saved := [(0, some { saved0 with bytes := 64 })], waits := [⟨256, false, some 0⟩] } }, ((({ modelState model0 with parcels := [(1, parcel0)], mem := { s0.mem with ueRes := [(0, true)] }, sched := { Sched.reset with saved := [(0, some { saved0 with bytes := 64 })], waits := [⟨256, false, some 0⟩] } } : State).placing ⟨256, false, some 0⟩).get (by decide +kernel)).2, { saved0 with bytes := 64 }, ⟨256, false, some 0⟩, ((({ modelState model0 with parcels := [(1, parcel0)], mem := { s0.mem with ueRes := [(0, true)] }, sched := { Sched.reset with saved := [(0, some { saved0 with bytes := 64 })], waits := [⟨256, false, some 0⟩] } } : State).placing ⟨256, false, some 0⟩).get (by decide +kernel)).1, rfl, rfl, by decide +kernel, by decide +kernel, got _, by decide +kernel⟩,
   ⟨0, s0, by decide +kernel⟩⟩

set_option maxRecDepth 4000 in
/-- States and operands that meet the hypotheses of `PlotsAreFilledPlacedAndReleased`, clause by clause. -/
theorem witness_PlotsAreFilledPlacedAndReleased :
  (∃ (model : Fin 256) (s s1 : State) (m : Model) (w : WaitPlace) (p : Plot), s.modelOf (s.modelId model.val) = some m ∧ s.power.mode = .serve ∧ s.sched.waits.find? (fun w => w.model == s.modelId model.val && w.saved.isNone) = some w ∧ s.platChoices (s.modelId model.val) m ≠ [] ∧ s.waitTurn w = true ∧ s.placing w = some (p, s1) ∧ (∃ k, k ∈ s.platChoices (s.modelId model.val) m ∧ s.blocksFit m.owner (SMap.get [] m.plats k) = true)) ∧
  (∃ (model : Fin 256) (s : State) (m : Model) (w : WaitPlace), s.modelOf (s.modelId model.val) = some m ∧ s.power.mode = .serve ∧ s.sched.waits.find? (fun w => w.model == s.modelId model.val && w.saved.isNone) = some w) ∧
  (∃ (model : Fin 256) (s : State), (s.modelOf (s.modelId model.val) = none ∨ s.power.mode ≠ .serve ∨ s.sched.waits.find? (fun w => w.model == s.modelId model.val && w.saved.isNone) = none)) ∧
  (∃ (s : State) (p : Plot) (g : Nat), g ∈ p.tiles) ∧
  (∃ (lead : Fin 64) (s : State) (p : Plot), s.plot lead.val = some p ∧ (p.state = .filling ∨ (p.state = .idle ∧ ∃ m, s.modelOf p.model = some m ∧ m.state = .filling)) ∧ s.fillRuns p = false ∧ p.movedFrom = none) ∧
  (∃ (o : Nat) (lead : Fin 64) (s : State) (p : Plot), s.plot lead.val = some p ∧ (p.state = .filling ∨ (p.state = .idle ∧ ∃ m, s.modelOf p.model = some m ∧ m.state = .filling)) ∧ s.fillRuns p = false ∧ p.movedFrom = some o) ∧
  (∃ (lead : Fin 64) (s : State) (p : Plot), s.plot lead.val = some p ∧ ((p.state ≠ .filling ∧ (p.state ≠ .idle ∨ ∀ m, s.modelOf p.model = some m → m.state ≠ .filling)) ∨ s.fillRuns p = true)) ∧
  (∃ (lead : Fin 64) (s : State), s.plot lead.val = none) ∧
  (∃ (lead : Fin 64) (s : State) (p : Plot), s.plot lead.val = some p ∧ p.idle = true ∧ (∀ r, r ∈ s.serve.reqs → r.model = p.model → r.away = true ∨ r.state = .held ∨ r.state = .admitting)) ∧
  (∃ (lead : Fin 64) (s : State) (p : Plot), s.plot lead.val = some p ∧ (p.idle = false ∨ (∃ r, r ∈ s.serve.reqs ∧ r.model = p.model ∧ r.away = false ∧ r.state ≠ .held ∧ r.state ≠ .admitting))) ∧
  (∃ (lead : Fin 64) (s : State), s.plot lead.val = none) ∧
  (∃ (id : Nat) (s : State) (j : ScrubJob), SMap.get none s.sched.scrubs id = some j) ∧
  (∃ (id : Nat) (s : State), SMap.get none s.sched.scrubs id = none) ∧
  (∃ (k : Task) (f : Option Bytes) (s1 : State) (lead : Fin 64) (s : State) (p : Plot), s.plot lead.val = some p ∧ p.redo = some k ∧ k.rerun = false ∧ s.stepReady lead.val p = true ∧ (s.setPlot lead.val { p with badCopy := none }).mendCopy p true f = some s1) ∧
  (∃ (k : Task) (ok : Bool) (f : Option Bytes) (lead : Fin 64) (s : State) (p : Plot), s.plot lead.val = some p ∧ p.redo = some k ∧ k.rerun = false ∧ p.state = .idle ∧ (ok = true → s.stepReady lead.val p = true) ∧ (s.setPlot lead.val { p with badCopy := none }).mendCopy p ok f = none) ∧
  (∃ (ok : Bool) (f : Option Bytes) (lead : Fin 64) (s : State) (p : Plot), s.plot lead.val = some p ∧ (p.redo = none ∨ p.state ≠ .idle ∨ (∃ k, p.redo = some k ∧ k.rerun = true) ∨ (ok = true ∧ s.stepReady lead.val p = false))) ∧
  (∃ (ok : Bool) (f : Option Bytes) (lead : Fin 64) (s : State), s.plot lead.val = none) ∧
  (∃ (s : State) (b : Nat) (p : Plot) (k : Task), p.lastSave = none) ∧
  (∃ (s : State) (b : Nat) (p : Plot) (k : Task) (v : SavedTask), p.lastSave = some v) ∧
  (∃ (s : State), (∀ j, j ∈ s.power.jobs → j.action ≠ 0)) ∧
  (∃ (s : State) (w : WaitPlace), s.urgent w = false) ∧
  (∃ (lead : Fin 64) (t : Nat) (s s1 s2 : State) (p : Plot) (m : Model) (l : List StepSlot), (s.at' t).plot lead.val = some p ∧ (s.at' t).stepReady lead.val p = true ∧ (∀ k, p.redo = some k → k.rerun = true) ∧ s1 = ((s.at' t).refuseLate p.model).settle ∧ s1.modelOf p.model = some m ∧ (m.state = .filled ∨ m.state = .evicting ∨ m.state = .removing) ∧ s2 = s1.setPlot lead.val { p with mark := p.markNext, phi := p.phiNext, redo := none } ∧ l = p.redo.elim (s2.compose m { p with mark := p.markNext, phi := p.phiNext }) (fun k => k.slots.filter (fun x => x.masked.isNone && (s2.req x.req).isSome))) ∧
  (∃ (lead : Fin 64) (t : Nat) (s : State) (p : Plot), (s.at' t).plot lead.val = some p ∧ ((s.at' t).stepReady lead.val p = false ∨ ∃ k, p.redo = some k ∧ k.rerun = false)) ∧
  (∃ (lead : Fin 64) (t : Nat) (s s1 : State) (p : Plot), (s.at' t).plot lead.val = some p ∧ (s.at' t).stepReady lead.val p = true ∧ (∀ k, p.redo = some k → k.rerun = true) ∧ s1 = ((s.at' t).refuseLate p.model).settle ∧ (∀ m, s1.modelOf p.model = some m → m.state ≠ .filled ∧ m.state ≠ .evicting ∧ m.state ≠ .removing)) ∧
  (∃ (lead : Fin 64) (t : Nat) (s : State), (s.at' t).plot lead.val = none) ∧
  (∃ (s : State) (b : Nat) (p : Plot) (m : Model) (l : List StepSlot) (r : Bool), s.plot b = some p ∧ s.modelOf p.model = some m) :=
  ⟨⟨0, { modelState { model0 with state := .filling } with parcels := [(1, parcel0)], sched := { Sched.reset with waits := [⟨256, false, none⟩] } }, ((({ modelState { model0 with state := .filling } with parcels := [(1, parcel0)], sched := { Sched.reset with waits := [⟨256, false, none⟩] } } : State).placing ⟨256, false, none⟩).get (by decide +kernel)).2, _, ⟨256, false, none⟩, ((({ modelState { model0 with state := .filling } with parcels := [(1, parcel0)], sched := { Sched.reset with waits := [⟨256, false, none⟩] } } : State).placing ⟨256, false, none⟩).get (by decide +kernel)).1, rfl, by decide +kernel, rfl, by decide +kernel, by decide +kernel, got _, ⟨0, by decide +kernel⟩⟩,
   ⟨0, polState policy1, _, ⟨256, false, none⟩, rfl, by decide +kernel⟩,
   ⟨0, s0, by decide +kernel⟩,
   ⟨s0, p0, 0, by decide +kernel⟩,
   ⟨0, plotState { p0 with state := .filling }, _, rfl, by decide +kernel⟩,
   ⟨1, 0, plotState { p0 with state := .filling, movedFrom := some 1 }, _, rfl, by decide +kernel⟩,
   ⟨0, chanState true, _, rfl, by decide +kernel⟩,
   ⟨0, s0, by decide +kernel⟩,
   ⟨0, plotState { p0 with state := .idle }, { p0 with state := .idle }, by decide +kernel⟩,
   ⟨0, plotState { p0 with state := .switching }, _, rfl, by decide +kernel⟩,
   ⟨0, s0, by decide +kernel⟩,
   ⟨0, { s0 with sched := { Sched.reset with scrubs := [(0, some ⟨[], [], 0, 0⟩)] } }, _, rfl⟩,
   ⟨0, s0, by decide +kernel⟩,
   ⟨task0, none, _, 0, { modelState model0 with blocks := [(0, { Block.reset with plot := some { p0 with model := 256, redo := some task0 } })] }, { p0 with model := 256, redo := some task0 }, rfl, rfl, by decide +kernel, by decide +kernel, rfl⟩,
   ⟨_, false, none, 0, plotState { p0 with redo := some task0 }, _, rfl, rfl, by decide +kernel⟩,
   ⟨false, none, 0, chanState true, _, rfl, by decide +kernel⟩,
   ⟨false, none, 0, s0, by decide +kernel⟩,
   ⟨s0, 0, chanPlot, task0, by decide +kernel⟩,
   ⟨s0, 0, { p0 with lastSave := some saved0 }, task0, _, rfl⟩,
   ⟨s0, by decide +kernel⟩,
   ⟨s0, ⟨256, false, none⟩, by decide +kernel⟩,
   ⟨0, 0, stepState, _, _, { p0 with model := 256 }, model0, _, rfl, by decide +kernel, by decide +kernel, rfl, by decide +kernel, Or.inl rfl, rfl, rfl⟩,
   ⟨0, 0, plotState { p0 with state := .switching }, _, rfl, by decide +kernel⟩,
   ⟨0, 0, plotState p0, _, p0, rfl, by decide +kernel, by decide +kernel, rfl, by decide +kernel⟩,
   ⟨0, 0, s0, by decide +kernel⟩,
   ⟨chanState true, 0, _, _, [], false, rfl, rfl⟩⟩

set_option maxRecDepth 4000 in
/-- States and operands that meet the hypotheses of `CommandsJoinTheirEngine`, clause by clause. -/
theorem witness_CommandsJoinTheirEngine :
  (∃ (e : Nat) (s : State) (c : SlCmd) (y : Engine) (c' : SlCmd), idleEngine (s.engine e) ∧ c.lead.isSome = true ∧ (s.engine e).renew c s.now = some (y, c')) ∧
  (∃ (e : Nat) (s : State) (c : SlCmd), idleEngine (s.engine e) ∧ c.lead.isSome = true ∧ (s.engine e).renew c s.now = none) ∧
  (∃ (x y : Engine) (c c' : SlCmd) (now : Nat), c.lead.isSome = true ∧ x.renew c now = some (y, c')) ∧
  (∃ (e : Nat) (s : State) (c : SlCmd), idleEngine (s.engine e) ∧ c.lead = none ∧ (s.engine e).turn = c.parcel ∧ (∀ n, c.charge = some n → (n : Int) ≤ (s.engine e).deficit c.parcel) ∧ 0 < (s.engine e).deficit c.parcel) ∧
  (∃ (e : Nat) (s : State) (c : SlCmd), fullEngine (s.engine e) ∧ c.lead = none) ∧
  (∃ (e : Nat) (s : State) (c : SlCmd), fullEngine (s.engine e) ∧ c.lead.isSome = true) ∧
  (∃ (e : Fin 64) (tail : BitVec 16) (s : State), (s.engine e.val).enable = false) ∧
  (∃ (s : State) (f : Nat) (x : Engine), x.enable = true ∧ x.halt = false ∧ x.ringHead ≠ x.ringTail % x.ringEntries ∧ x.dyn.length < 64) ∧
  (∃ (s : State) (f : Nat) (x : Engine), (x.enable = false ∨ x.halt = true ∨ x.ringHead = x.ringTail % x.ringEntries ∨ 64 ≤ x.dyn.length)) ∧
  (∃ (lead : Fin 64) (record : BitVec 16) (k : Nat) (s : State) (p : Plot), s.plot lead.val = some p ∧ released p record.toNat k) ∧
  (∃ (lead : Fin 64) (record : BitVec 16) (k : Nat) (s : State), (∀ p, s.plot lead.val = some p → ¬ released p record.toNat k)) ∧
  (∃ (s : State) (c : SlCmd) (cause a cl r : Nat), s.slEnter c = .error (.bad cause a cl r)) ∧
  (∃ (s : State) (c : SlCmd), c.cls ≤ 2 ∧ (c.op = 2 ∨ c.op = 3 ∨ c.op = 5) ∧ 2 ^ 24 < c.len) ∧
  (∃ (s : State) (c : SlCmd), s.slEnter c = .ok () ∧ c.op ≠ 4) ∧
  (∃ (s : State) (c : SlCmd), s.slEnter c = .ok () ∧ c.op = 4) ∧
  (∃ (s : State) (c : SlCmd), s.slStart c = .ok ()) ∧
  (∃ (s : State) (c : SlCmd) (cause a cl r : Nat), s.slStart c = .error (.bad cause a cl r)) :=
  ⟨⟨0, s0, { cmd0 with lead := some 0 }, (((s0.engine 0).renew { cmd0 with lead := some 0 } s0.now).get (by decide +kernel)).1, (((s0.engine 0).renew { cmd0 with lead := some 0 } s0.now).get (by decide +kernel)).2, ⟨rfl, rfl, rfl, rfl⟩, rfl, got _⟩,
   ⟨0, { s0 with engines := [(0, { Engine.reset with uses := [(0, 1)] })] }, { cmd0 with lead := some 0 }, ⟨rfl, rfl, rfl, rfl⟩, rfl, by decide +kernel⟩,
   ⟨Engine.reset, ((Engine.reset.renew { cmd0 with lead := some 0 } 0).get (by decide +kernel)).1, { cmd0 with lead := some 0 }, ((Engine.reset.renew { cmd0 with lead := some 0 } 0).get (by decide +kernel)).2, 0, rfl, got _⟩,
   ⟨0, { s0 with engines := [(0, { Engine.reset with deficits := [(0, 100)] })] }, { cmd0 with len := 100 }, ⟨rfl, rfl, rfl, rfl⟩, by decide +kernel, by decide +kernel, fun n h => by injection h with h; subst h; decide +kernel, by decide +kernel⟩,
   ⟨0, { s0 with engines := [(0, { Engine.reset with flight := List.replicate 32 cmd0 })] }, cmdFetch, by unfold fullEngine; decide +kernel⟩,
   ⟨0, { s0 with engines := [(0, { Engine.reset with flight := List.replicate 32 cmd0 })] }, { cmd0 with lead := some 0 }, by unfold fullEngine; decide +kernel⟩,
   ⟨0, 0, s0, by decide +kernel⟩,
   ⟨s0, 0, { Engine.reset with enable := true, ringTail := 1 }, by decide +kernel⟩,
   ⟨s0, 0, Engine.reset, by decide +kernel⟩,
   ⟨0, 0, 0, plotState relPlot, _, rfl, by unfold released; decide +kernel⟩,
   ⟨0, 0, 0, s0, by unfold released; decide +kernel⟩,
   ⟨s0, { cmd0 with op := 0 }, 1, 0, 0, 0, by decide +kernel⟩,
   ⟨s0, { cmd0 with len := 2 ^ 24 + 1 }, by decide +kernel⟩,
   ⟨s0, cmdFetch, by decide +kernel⟩,
   ⟨s0, { cmd0 with op := 4 }, rfl, rfl⟩,
   ⟨s0, cmdFetch, by decide +kernel⟩,
   ⟨s0, { cmd0 with op := 1, dst := 2 ^ 48 }, _, _, _, _, rfl⟩⟩

set_option maxRecDepth 4000 in
/-- States and operands that meet the hypotheses of `CommandsMoveTheirBytesAndComplete`, clause by clause. -/
theorem witness_CommandsMoveTheirBytesAndComplete :
  (∃ (e : Fin 64) (index : BitVec 20) (s : State) (c : SlCmd), (s.engine e.val).findCmd index.toNat (fun p => p == .waitSem) = some c ∧ 0 < SMap.get 0 (s.tile c.semTile).sem c.takeSem) ∧
  (∃ (e : Fin 64) (index : BitVec 20) (s : State), (∀ c, (s.engine e.val).findCmd index.toNat (fun p => p == .waitSem) = some c → SMap.get 0 (s.tile c.semTile).sem c.takeSem = 0)) ∧
  (∃ (e : Fin 64) (index : BitVec 20) (gen : BitVec 6) (poison : Bool) (ces : List (BitVec 52)) (s : State) (c : SlCmd), ((s.countCe ces).engine e.val).findXfer index.toNat gen.toNat (fun p => p == .reading) = some c ∧ (poison = false ∨ (s.countCe ces).slAquifer c none = none)) ∧
  (∃ (e : Fin 64) (index : BitVec 20) (gen : BitVec 6) (ces : List (BitVec 52)) (s : State) (c : SlCmd) (a : Nat), ((s.countCe ces).engine e.val).findXfer index.toNat gen.toNat (fun p => p == .reading) = some c ∧ (s.countCe ces).slAquifer c none = some a) ∧
  (∃ (e : Fin 64) (index : BitVec 20) (gen : BitVec 6) (poison : Bool) (ces : List (BitVec 52)) (s : State), ((s.countCe ces).engine e.val).findXfer index.toNat gen.toNat (fun p => p == .reading) = none) ∧
  (∃ (s : State) (e : Nat) (c0 c : SlCmd) (t : State) (w : List SlWrite), s.slBill e c0 = (t, c) ∧ t.slExec e c = .ok w) ∧
  (∃ (s : State) (e : Nat) (c0 c : SlCmd) (t : State) (cause a cl r : Nat), s.slBill e c0 = (t, c) ∧ t.slExec e c = .error (.bad cause a cl r)) ∧
  (∃ (s : State) (e : Nat) (c0 c : SlCmd) (t : State) (l : List (Nat × Nat)), s.slBill e c0 = (t, c) ∧ t.slExec e c = .error (.need l)) ∧
  (∃ (s : State) (e : Nat) (c : SlCmd) (w : List SlWrite), c.chan = none ∧ (∀ x, x ∈ w → s.isLocal x.1 = true) ∧ c.op ≠ 4 ∧ c.pondEn = false) ∧
  (∃ (s : State) (e : Nat) (c : SlCmd), c.op = 3) ∧
  (∃ (s : State) (e : Nat) (c : SlCmd) (l : Bytes), (c.op = 2 ∨ c.op = 5) ∧ s.slRead e c c.src c.len = .ok l) ∧
  (∃ (s : State) (e : Nat) (c : SlCmd) (a n : Nat), 0 < n ∧ s.isLocal a = true ∧ addrTier a = 0) ∧
  (∃ (s : State) (c : SlCmd) (i a : Nat) (l : Bytes), (∀ j, j < l.length → addrKey a + j ≠ i)) ∧
  (∃ (e : Fin 64) (index : BitVec 20) (s : State) (c : SlCmd) (a : Nat), (s.engine e.val).findCmd index.toNat (fun p => p == .reading) = some c ∧ s.slAquifer c none = some a) ∧
  (∃ (e : Fin 64) (index : BitVec 20) (s : State), (∀ c, (s.engine e.val).findCmd index.toNat (fun p => p == .reading) = some c → s.slAquifer c none = none)) ∧
  (∃ (e : Fin 64) (index : BitVec 20) (f : Option Bytes) (s : State) (c : SlCmd), doneCmd (s.engine e.val) index.toNat c ∧ c.phase = .done) ∧
  (∃ (e : Fin 64) (index : BitVec 20) (f : Option Bytes) (s : State) (c : SlCmd) (code a cl r : Nat), doneCmd (s.engine e.val) index.toNat c ∧ c.phase = .failed code a cl r) ∧
  (∃ (e : Fin 64) (index : BitVec 20) (f : Option Bytes) (s : State), (∀ c, ¬ doneCmd (s.engine e.val) index.toNat c)) ∧
  (∃ (s : State) (g i : Nat), SMap.get 0 (s.tile g).sem i < 0xFFFF) ∧
  (∃ (s : State) (g i : Nat), 0xFFFF ≤ SMap.get 0 (s.tile g).sem i) ∧
  (∃ (x : Engine) (c : SlCmd) (cause a : Nat), x.err.valid = false) :=
  ⟨⟨0, 0, (engState cmd0).updTile 0 (fun t => { t with sem := [(0, 1)] }), cmd0, by decide +kernel⟩,
   ⟨0, 0, s0, by decide +kernel⟩,
   ⟨0, 0, 0, false, [], engState { cmd0 with phase := .reading }, { cmd0 with phase := .reading }, by decide +kernel⟩,
   ⟨0, 0, 0, [], engState { cmd0 with phase := .reading, src := 2 * 2 ^ 48, len := 32 }, { cmd0 with phase := .reading, src := 2 * 2 ^ 48, len := 32 }, 2 * 2 ^ 48, by decide +kernel⟩,
   ⟨0, 0, 0, false, [], s0, by decide +kernel⟩,
   ⟨s0, 0, { cmd0 with op := 3 }, _, _, _, rfl, rfl⟩,
   ⟨s0, 0, { cmd0 with op := 1, src := 0, dst := 2 ^ 48 }, _, _, _, _, _, _, rfl, rfl⟩,
   ⟨s0, 0, { cmd0 with src := 2 ^ 48 * 4, len := 32 }, _, _, _, rfl, rfl⟩,
   ⟨s0, 0, { cmd0 with flags := 0 }, [], by decide +kernel⟩,
   ⟨s0, 0, { cmd0 with op := 3 }, by decide +kernel⟩,
   ⟨s0, 0, { cmd0 with len := 0 }, [], by decide +kernel⟩,
   ⟨s0, 0, { cmd0 with len := 1 }, 0, 1, by decide +kernel⟩,
   ⟨s0, cmd0, 9, 0, [1], by decide +kernel⟩,
   ⟨0, 0, engState { cmd0 with phase := .reading, src := 2 * 2 ^ 48, len := 32 }, { cmd0 with phase := .reading, src := 2 * 2 ^ 48, len := 32 }, 2 * 2 ^ 48, by decide +kernel⟩,
   ⟨0, 0, s0, by decide +kernel⟩,
   ⟨0, 0, none, engState { cmd0 with phase := .done }, { cmd0 with phase := .done }, by unfold doneCmd; decide +kernel⟩,
   ⟨0, 0, none, engState { cmd0 with phase := .failed 1 0 0 0 }, { cmd0 with phase := .failed 1 0 0 0 }, 1, 0, 0, 0, by unfold doneCmd; decide +kernel⟩,
   ⟨0, 0, none, s0, by intro c h; exact nomatch h⟩,
   ⟨s0, 0, 0, by decide +kernel⟩,
   ⟨s0.updTile 0 (fun t => { t with sem := [(0, 65535)] }), 0, 0, by decide +kernel⟩,
   ⟨Engine.reset, cmd0, 0, 0, by decide +kernel⟩⟩

set_option maxRecDepth 4000 in
/-- States and operands that meet the hypotheses of `TiersAreScrubbedWatchedAndSetUp`, clause by clause. -/
theorem witness_TiersAreScrubbedWatchedAndSetUp :
  (∃ (addr : BitVec 52) (s : State), s.unmapped addr.toNat 1 = none ∧ addrTier addr.toNat = 0) ∧
  (∃ (addr : BitVec 52) (s : State), s.unmapped addr.toNat 1 = none ∧ addrTier addr.toNat = 1) ∧
  (∃ (addr : BitVec 52) (found : Fin 3) (s : State), (2 ≤ addrTier addr.toNat ∨ s.unmapped addr.toNat 1 ≠ none)) ∧
  (∃ (lead : Fin 64) (ns stall : Nat) (s : State) (p : Plot), s.plot lead.val = some p ∧ s.waitsTier lead.val p = true ∧ p.state ≠ .free ∧ p.state ≠ .forcing ∧ p.task.isSome = true ∧ 1000 * (if p.env 0x1A 2 = 0 then 200 else p.env 0x1A 2) < ns) ∧
  (∃ (lead : Fin 64) (ns stall : Nat) (s : State) (p : Plot), s.plot lead.val = some p ∧ s.waitsTier lead.val p = true ∧ (ns ≤ 1000 * (if p.env 0x1A 2 = 0 then 200 else p.env 0x1A 2) ∨ p.task.isSome = false)) ∧
  (∃ (lead : Fin 64) (ns stall : Nat) (s : State), (∀ p, s.plot lead.val = some p → s.waitsTier lead.val p = false)) ∧
  (∃ (q : Fin 4) (v : BitVec 64) (s : State), s.quadHasPlot q.val = true) ∧
  (∃ (q : Fin 4) (v : BitVec 64) (s : State), s.quadHasPlot q.val = false ∧ s.cistHasCell q.val = false) ∧
  (∃ (q : Fin 4) (v : BitVec 64) (s : State), s.quadHasPlot q.val = false ∧ s.cistHasCell q.val = true) ∧
  (∃ (stack : Fin 24) (s : State), s.power.mode ≠ .dormant ∧ s.power.mode ≠ .off) ∧
  (∃ (stack : Fin 24) (s : State), s.power.mode ≠ .dormant ∧ s.power.mode ≠ .off) ∧
  (∃ (stack : Fin 24) (good : Bool) (s : State), (s.power.mode = .dormant ∨ s.power.mode = .off)) ∧
  (∃ (q : Fin 4) (speed : BitVec 2) (width : BitVec 5) (cap : BitVec 22) (good : Bool) (digest : BitVec 64) (t : Nat) (s : State), (bitB s.sec.ideDown q.val = true ∨ (s.quad q.val).aqUp = true)) ∧
  (∃ (q : Fin 4) (speed : BitVec 2) (width : BitVec 5) (cap : BitVec 22) (good : Bool) (digest : BitVec 64) (t : Nat) (s : State), bitB s.sec.ideDown q.val = false ∧ (s.quad q.val).aqUp = false) ∧
  (∃ (q : Fin 4) (s : State), (s.quad q.val).aqUp = true) ∧
  (∃ (q : Fin 4) (s : State), (s.quad q.val).aqUp = false) ∧
  (∃ (q : Fin 4) (t : Nat) (s : State), (s.quad q.val).aqIde = false) ∧
  (∃ (q : Fin 4) (t : Nat) (s : State), (s.quad q.val).aqIde = true) :=
  ⟨⟨0, s0, by decide +kernel⟩,
   ⟨0x1000000000000, modelState model0, by decide +kernel⟩,
   ⟨0x1000000000000, 0, s0, by decide +kernel⟩,
   ⟨0, 300000, 0, { s0 with tiles := [(0, { tileOf { c0 with state := .stalled, held := some [⟨0, 3, fOf 0 0 0 0⟩] } with lead := some 0 })], blocks := [(0, { Block.reset with plot := some { p0 with state := .running, task := some task0 } })], engines := [(0, { Engine.reset with flight := [{ cmd0 with lead := some 0, flags := 2 }] })] }, _, rfl, by decide +kernel⟩,
   ⟨0, 0, 0, { s0 with tiles := [(0, { tileOf { c0 with state := .stalled, held := some [⟨0, 3, fOf 0 0 0 0⟩] } with lead := some 0 })], blocks := [(0, { Block.reset with plot := some { p0 with state := .running, task := some task0 } })], engines := [(0, { Engine.reset with flight := [{ cmd0 with lead := some 0, flags := 2 }] })] }, _, rfl, by decide +kernel⟩,
   ⟨0, 0, 0, s0, by decide +kernel⟩,
   ⟨0, 0, (s0.setTile 0 { tileOf c0 with lead := some 0 }), by decide +kernel⟩,
   ⟨0, 0, s0, by decide +kernel⟩,
   ⟨0, 0, latState [bytesOf 32 [(0, 3)]], by decide +kernel⟩,
   ⟨0, s0, by decide +kernel⟩,
   ⟨0, s0, by decide +kernel⟩,
   ⟨0, false, powerState { pw0 with mode := .off }, by decide +kernel⟩,
   ⟨0, 0, 0, 0, false, 0, 0, { s0 with quads := [(0, { QuadMem.reset with aqUp := true, aqIde := true })] }, by decide +kernel⟩,
   ⟨0, 0, 0, 0, false, 0, 0, s0, by decide +kernel⟩,
   ⟨0, { s0 with quads := [(0, { QuadMem.reset with aqUp := true, aqIde := true })] }, by decide +kernel⟩,
   ⟨0, s0, by decide +kernel⟩,
   ⟨0, 0, s0, by decide +kernel⟩,
   ⟨0, 0, { s0 with quads := [(0, { QuadMem.reset with aqUp := true, aqIde := true })] }, by decide +kernel⟩⟩

set_option maxRecDepth 4000 in
/-- States and operands that meet the hypotheses of `ExpertsAreRankedByScore`, clause by clause. -/
theorem witness_ExpertsAreRankedByScore :
  (∃ (r : RTable) (x : Nat), (r.capOf x = 0xFFFF ∨ r.usedOf x < r.capOf x)) ∧
  (∃ (r : RTable) (x : Nat), r.capOf x ≠ 0xFFFF ∧ r.capOf x ≤ r.usedOf x) :=
  ⟨⟨RTable.reset, 0, by decide +kernel⟩,
   ⟨{ RTable.reset with cap := [(0, 4)], used := [(0, 4)] }, 0, by decide +kernel⟩⟩

set_option maxRecDepth 4000 in
/-- States and operands that meet the hypotheses of `LateralEnginesTakePackets`, clause by clause. -/
theorem witness_LateralEnginesTakePackets :
  (∃ (le : Fin 4) (s : State), s.latNext le.val (fun k => !k.pkts.isEmpty) = none) ∧
  (∃ (le : Fin 4) (s : State) (t q n : Nat), s.latNext le.val (fun k => !k.pkts.isEmpty) = some (t, q, n)) ∧
  (∃ (u : Nat) (le : Fin 4) (s : State) (t q n : Nat), s.latNext le.val (fun k => !k.pkts.isEmpty) = some (t, q, n) ∧ s.packetUe q n = some u) ∧
  (∃ (le : Fin 4) (s : State) (t q n : Nat), comesTo s le.val t q n ∧ packetKind (headPacket s q n) ≠ 3 ∧ packetKind (headPacket s q n) ≠ 4) ∧
  (∃ (s : State) (e t q : Nat) (items : List Bytes), ¬ routeRecordOk items) ∧
  (∃ (s : State) (e t q : Nat) (items : List Bytes), routeRecordOk items ∧ (∃ x, x ∈ (((s.lateral e).table t).offers items).2.2 ∧ ((s.lateral e).table t).entry x % 4 = 0)) ∧
  (∃ (s : State) (e t q : Nat) (items : List Bytes), routeRecordOk items ∧ (∀ x, x ∈ (((s.lateral e).table t).offers items).2.2 → ((s.lateral e).table t).entry x % 4 ≠ 0)) ∧
  (∃ (s : State) (e cause table queue rtag : Nat) (lead : Nat) (p : Plot), (s.lateral e).err.valid = false ∧ s.plot lead = some p ∧ p.state ≠ .free ∧ p.state ≠ .forcing) ∧
  (∃ (le : Fin 4) (s : State) (t q n : Nat), comesTo s le.val t q n ∧ packetKind (headPacket s q n) = 3 ∧ leAt ((headPacket s q n).headD []) 4 4 / 2 ^ 30 % 4 = s.slot % 4) ∧
  (∃ (le : Fin 4) (s : State) (t q n : Nat), comesTo s le.val t q n ∧ packetKind (headPacket s q n) = 3 ∧ leAt ((headPacket s q n).headD []) 4 4 / 2 ^ 30 % 4 ≠ s.slot % 4) ∧
  (∃ (s : State) (e q lead : Nat) (items : List Bytes) (r : RTable), (s.lateral e).table (leAt (items.headD []) 0xC 1 % 16) = r ∧ (r.valid = false ∨ s.plot r.lead = none ∨ leAt (items.headD []) 4 4 % 2 ^ 12 ≠ r.gen ∨ r.aborted = true)) ∧
  (∃ (s : State) (e q lead : Nat) (items : List Bytes) (r : RTable), (s.lateral e).table (leAt (items.headD []) 0xC 1 % 16) = r ∧ r.valid = true ∧ (s.plot r.lead).isSome = true ∧ leAt (items.headD []) 4 4 % 2 ^ 12 = r.gen ∧ r.aborted = false) ∧
  (∃ (s : State) (b step e t : Nat), s.routeOf b = some (e, t)) :=
  ⟨⟨0, s0, by decide +kernel⟩,
   ⟨0, latState [bytesOf 32 [(0, 3)]], _, _, _, rfl⟩,
   ⟨3145728, 0, { latState [bytesOf 32 [(0, 1)]] with mem := { cellMem [bytesOf 32 [(0, 1)]] with ueField := [(196608, true)] } }, 0, 0, 0, by decide +kernel⟩,
   ⟨0, latState [bytesOf 32 [(0, 1)]], 0, 0, 0, ⟨by decide +kernel, by decide +kernel⟩, by decide +kernel, by decide +kernel⟩,
   ⟨s0, 0, 0, 0, [], fun h => absurd h.1 (by decide +kernel)⟩,
   ⟨s0, 0, 0, 0, [bytesOf 32 [(0, 1), (2, 2)], bytesOf 32 []], by unfold routeRecordOk; decide +kernel, by decide +kernel⟩,
   ⟨{ s0 with les := [(0, { Lateral.reset with tables := [(0, { RTable.reset with bank := [(0, 1), (1, 1), (64, 1), (65, 1)] })] })] }, 0, 0, 0, [bytesOf 32 [(0, 1), (2, 2)], bytesOf 32 []], by unfold routeRecordOk; decide +kernel, by decide +kernel⟩,
   ⟨plotState p0, 0, 0x10, 0, 0, 0, 0, p0, by decide +kernel⟩,
   ⟨0, latState [bytesOf 32 [(0, 3)]], 0, 0, 0, ⟨by decide +kernel, by decide +kernel⟩, by decide +kernel, by decide +kernel⟩,
   ⟨0, { latState [bytesOf 32 [(0, 3), (7, 64)]] with slot := 0 }, 0, 0, 0, ⟨by decide +kernel, by decide +kernel⟩, by decide +kernel, by decide +kernel⟩,
   ⟨s0, 0, 0, 0, [], _, rfl, by decide +kernel⟩,
   ⟨latState [bytesOf 32 [(0, 3)]], 0, 0, 0, [], _, rfl, by decide +kernel⟩,
   ⟨latState [bytesOf 32 [(0, 3)]], 0, 1, 0, 0, by decide +kernel⟩⟩

set_option maxRecDepth 4000 in
/-- States and operands that meet the hypotheses of `GathersReadAndPoolRows`, clause by clause. -/
theorem witness_GathersReadAndPoolRows :
  (∃ (le : Fin 4) (s : State) (t q n : Nat), comesTo s le.val t q n ∧ packetKind (headPacket s q n) = 4) ∧
  (∃ (s : State) (p : Plot) (items : List Bytes), (leAt (items.headD []) 4 2 < 1 ∨ 256 < leAt (items.headD []) 4 2 ∨ 4000 < leAt (items.headD []) 6 2 ∨ leAt (items.headD []) 0x10 4 % 64 ≠ 0)) ∧
  (∃ (s : State) (p : Plot) (items : List Bytes), ((s.tableEnt (gatherTable items)).valid = false ∨ (s.tableEnt (gatherTable items)).model ≠ p.model)) ∧
  (∃ (s : State) (r : RTable) (p : Plot) (items : List Bytes), goodGather s r p items) ∧
  (∃ (le : Fin 4) (s : State) (g : GSub) (l : List GSub), (s.lateral le.val).subs = g :: l) ∧
  (∃ (le : Fin 4) (s : State), (s.lateral le.val).subs = []) ∧
  (∃ (s : State) (e : Nat) (g : GSub), s.gatherRoom e (subItems g) = false) ∧
  (∃ (s : State) (e : Nat) (g : GSub) (x : GIdx), s.gatherRoom e (subItems g) = true ∧ g.rows = [x] ∧ (s.gatherEng ((s.tableEnt g.table).engineOf (x.row - (s.tableEnt g.table).bound (s.slot % 4)))).enable = true) ∧
  (∃ (ge : Fin 96) (poison : Bool) (f : Option Bytes) (s : State) (x : GRow) (turn quantum : Nat) (b : Bag), (s.gatherEng ge.val).pick = some (x, turn, quantum) ∧ s.rowFail (s.tableEnt x.table) x.row poison = none ∧ b = s.rowBag (s.gatherEng ge.val) (s.tableEnt x.table) x false) ∧
  (∃ (ge : Fin 96) (poison : Bool) (f : Option Bytes) (s : State) (x : GRow) (turn quantum c u : Nat) (b : Bag), (s.gatherEng ge.val).pick = some (x, turn, quantum) ∧ s.rowFail (s.tableEnt x.table) x.row poison = some (c, u) ∧ b = s.rowBag (s.gatherEng ge.val) (s.tableEnt x.table) x true) ∧
  (∃ (ge : Fin 96) (poison : Bool) (f : Option Bytes) (s : State), (s.gatherEng ge.val).pick = none) ∧
  (∃ (g : GatherEng) (x : GRow) (turn quantum : Nat), g.pick = some (x, turn, quantum)) ∧
  (∃ (le : Fin 4) (s : State) (p : GPart) (l : List GPart), (s.lateral le.val).parts = p :: l) ∧
  (∃ (le : Fin 4) (s : State), (s.lateral le.val).parts = []) ∧
  (∃ (s : State) (e : Nat) (p : GPart), ((∀ g, g ∈ (s.lateral e).gathers → g.gid ≠ p.gid) ∨ (∃ g, (s.lateral e).gathers.find? (fun g => g.gid == p.gid) = some g ∧ (g.gen ≠ p.gen ∨ p.gen ≠ ((s.lateral e).table g.route).gen)))) ∧
  (∃ (s : State) (e : Nat) (p : GPart) (g : OpenGather), (s.lateral e).gathers.find? (fun g => g.gid == p.gid) = some g ∧ g.gen = p.gen ∧ p.gen = ((s.lateral e).table g.route).gen) ∧
  (∃ (s : State) (e : Nat) (p : GPart) (g : OpenGather), (s.lateral e).gathers = [g] ∧ g.gid = p.gid ∧ g.gen = p.gen ∧ p.gen = ((s.lateral e).table g.route).gen ∧ g.failed = false ∧ p.quota = false ∧ s.gatherRoom e (partItems p) = true ∧ p.fail = false) ∧
  (∃ (a b : GElem), (a.cls = 3 ∨ b.cls = 3)) :=
  ⟨⟨0, latState [bytesOf 32 [(0, 4)]], 0, 0, 0, by unfold comesTo; decide +kernel⟩,
   ⟨s0, chanPlot, [], by decide +kernel⟩,
   ⟨s0, chanPlot, [], by decide +kernel⟩,
   ⟨{ plotState { chanPlot with plat := bytesOf 0x100 [(0x28, 0x40), (0x52, 1)] } with tables := [(0, { TableEnt.reset with valid := true, model := 256, rowBytes := 4 })] }, { RTable.reset with lead := 0 }, { chanPlot with plat := bytesOf 0x100 [(0x28, 0x40), (0x52, 1)] }, gatherPkt, by unfold goodGather; decide +kernel⟩,
   ⟨0, subState [sub0] [] [], sub0, [], by decide +kernel⟩,
   ⟨0, s0, by decide +kernel⟩,
   ⟨s0, 0, sub0, by decide +kernel⟩,
   ⟨{ s0 with cist := [(0, { Cistern.reset with pool := 4, sysCells := 4 })], ges := (List.range 96).map (fun i => (i, { GatherEng.reset with enable := true })) }, 0, sub0, ⟨0, 0, 0⟩, by decide +kernel⟩,
   ⟨0, false, none, { s0 with ges := [(0, { GatherEng.reset with enable := true, rows := [row0] })] }, _, _, _, _, rfl, by decide +kernel, rfl⟩,
   ⟨0, true, none, { s0 with tables := [(0, { TableEnt.reset with aq := true })], ges := [(0, { GatherEng.reset with enable := true, rows := [row0] })] }, row0, 1, 63, 2, _, _, by decide +kernel, rfl, rfl⟩,
   ⟨0, false, none, s0, by decide +kernel⟩,
   ⟨{ GatherEng.reset with enable := true, rows := [row0] }, row0, 1, 63, by decide +kernel⟩,
   ⟨0, subState [] [part0] [], part0, [], by decide +kernel⟩,
   ⟨0, s0, by decide +kernel⟩,
   ⟨s0, 0, part0, by decide +kernel⟩,
   ⟨subState [] [part0] [gather0], 0, part0, gather0, by decide +kernel⟩,
   ⟨{ subState [] [] [gather0] with cist := [(0, { Cistern.reset with pool := 4, sysCells := 4 })] }, 0, part0, gather0, by decide +kernel⟩,
   ⟨⟨3, 0, false, 0, 0⟩, ⟨0, 0, false, 0, 0⟩, by decide +kernel⟩⟩

set_option maxRecDepth 4000 in
/-- States and operands that meet the hypotheses of `RingsTakeEntriesAndWriteRecords`, clause by clause. -/
theorem witness_RingsTakeEntriesAndWriteRecords :
  (∃ (ring : Fin 256) (qp : BitVec 24) (value : BitVec 64) (t : Nat) (s : State) (r : Ring) (posted d : Nat), (s.at' t).ring ring.val = r ∧ posted = fieldN value.toNat 0 16 ∧ d = fieldN value.toNat 32 16 ∧ (r.state ≠ 1 ∨ (s.at' t).bound ring.val qp.toNat = false ∨ posted + d * 2 ^ 16 = r.lastDb)) ∧
  (∃ (ring : Fin 256) (qp : BitVec 24) (value : BitVec 64) (t : Nat) (s : State) (r : Ring) (posted d : Nat), (s.at' t).ring ring.val = r ∧ posted = fieldN value.toNat 0 16 ∧ d = fieldN value.toNat 32 16 ∧ r.state = 1 ∧ (s.at' t).bound ring.val qp.toNat = true ∧ posted + d * 2 ^ 16 ≠ r.lastDb ∧ r.size < (posted + 65536 - r.readIx) % 65536) ∧
  (∃ (ring : Fin 256) (qp : BitVec 24) (value : BitVec 64) (t : Nat) (s : State) (r : Ring) (posted d : Nat), (s.at' t).ring ring.val = r ∧ posted = fieldN value.toNat 0 16 ∧ d = fieldN value.toNat 32 16 ∧ r.state = 1 ∧ (s.at' t).bound ring.val qp.toNat = true ∧ posted + d * 2 ^ 16 ≠ r.lastDb ∧ (posted + 65536 - r.readIx) % 65536 ≤ r.size) ∧
  (∃ (s : State) (i f : Nat), s.readEntry i = none) ∧
  (∃ (s s' : State) (i f : Nat), s.readEntry i = some s') ∧
  (∃ (s : State) (i : Nat), ((s.ring i).state ≠ 1 ∨ (s.ring i).posted = (s.ring i).readIx ∨ s.power.reads = false ∨ (SMap.get SlotGen.reset s.serve.slots ((s.ring i).handleBase + (s.ring i).readIx % (s.ring i).size)).busy = true ∨ s.now < (SMap.get SlotGen.reset s.serve.slots ((s.ring i).handleBase + (s.ring i).readIx % (s.ring i).size)).until')) ∧
  (∃ (s s' : State) (i : Nat), s.readEntry i = some s' ∧ s.intakeCheck i ((s.ring i).entryAt ((s.ring i).readIx % (s.ring i).size)) ((s.ring i).handleBase + (s.ring i).readIx % (s.ring i).size) = none) ∧
  (∃ (s s' : State) (i st : Nat), s.readEntry i = some s' ∧ s.intakeCheck i ((s.ring i).entryAt ((s.ring i).readIx % (s.ring i).size)) ((s.ring i).handleBase + (s.ring i).readIx % (s.ring i).size) = some st) ∧
  (∃ (s : State) (i : Nat) (c : CplRec) (keep : Bool), (s.ring i).state = 0) ∧
  (∃ (s : State) (i : Nat) (c : CplRec) (keep : Bool), (s.ring i).state ≠ 0 ∧ (s.ring i).backlog = [] ∧ s.canWrite i = true) ∧
  (∃ (s : State) (i : Nat) (c : CplRec) (keep : Bool), (s.ring i).state ≠ 0 ∧ ((s.ring i).backlog ≠ [] ∨ s.canWrite i = false)) ∧
  (∃ (s : State) (i f : Nat), ((s.ring i).backlog = [] ∨ s.canWrite i = false)) ∧
  (∃ (s : State) (i f : Nat) (c : CplRec) (l : List CplRec), (s.ring i).backlog = c :: l ∧ s.canWrite i = true) ∧
  (∃ (stage : Bool) (ring : Fin 256) (qp : BitVec 24) (off : Nat) (data : Bytes) (s : State), ((s.ring ring.val).state = 0 ∨ s.bound ring.val qp.toNat = false ∨ data = [])) ∧
  (∃ (ring : Fin 256) (qp : BitVec 24) (off : Nat) (data : Bytes) (s : State), (s.ring ring.val).state ≠ 0 ∧ s.bound ring.val qp.toNat = true ∧ data ≠ []) :=
  ⟨⟨0, 0, 0, 0, s0, _, _, _, rfl, rfl, rfl, by decide +kernel⟩,
   ⟨0, 1, 5, 0, ringState ring0, _, _, _, rfl, rfl, rfl, by decide +kernel⟩,
   ⟨0, 1, 1, 0, ringState ring0, _, _, _, rfl, rfl, rfl, by decide +kernel⟩,
   ⟨s0, 0, 0, by decide +kernel⟩,
   ⟨ringState ring0, ((ringState ring0).readEntry 0).get (by decide +kernel), 0, 0, (Option.some_get _).symm⟩,
   ⟨s0, 0, by decide +kernel⟩,
   ⟨ringState ring0, ((ringState ring0).readEntry 0).get (by decide +kernel), 0, (Option.some_get _).symm, by decide +kernel⟩,
   ⟨ringState { ring0 with stageLen := 0, entries := [(0, bytesOf 64 [(3, 2), (0x20, 1)])] }, ((ringState { ring0 with stageLen := 0, entries := [(0, bytesOf 64 [(3, 2), (0x20, 1)])] }).readEntry 0).get (by decide +kernel), 0, 0x0104, (Option.some_get _).symm, by decide +kernel⟩,
   ⟨s0, 0, ⟨zeros 64, none⟩, false, by decide +kernel⟩,
   ⟨ringState ring0, 0, ⟨zeros 64, none⟩, false, by decide +kernel⟩,
   ⟨{ { s0 with mail := { MailSt.reset with linkUp := [(0, true)] } } with serve := { Serve.reset with rings := [(0, { ring0 with key := 7 })] } }, 0, ⟨zeros 64, none⟩, false, by decide +kernel⟩,
   ⟨s0, 0, 0, by decide +kernel⟩,
   ⟨ringState { ring0 with backlog := [⟨zeros 64, none⟩] }, 0, 0, _, _, rfl, by decide +kernel⟩,
   ⟨false, 0, 0, 0, [], s0, by decide +kernel⟩,
   ⟨0, 1, 0, bytesOf 0x268 [(0x50, 1)], ringState ring0, by decide +kernel⟩⟩

set_option maxRecDepth 4000 in
/-- States and operands that meet the hypotheses of `RequestsAreAdmittedAndEnd`, clause by clause. -/
theorem witness_RequestsAreAdmittedAndEnd :
  (∃ (u : Nat) (y : State) (ring : Fin 256) (t : Nat) (s x : State), x = s.at' t ∧ x.packetUe (x.ring ring.val).quad (intakeQueue ring.val) = some u ∧ y = (((x.countTier 7 (x.boardAddr u)).cistErr (x.ring ring.val).quad 0x05 (intakeQueue ring.val) 0x7F (x.ring ring.val).owner).popPacket (x.ring ring.val).quad (intakeQueue ring.val) 1025).1) ∧
  (∃ (ring : Fin 256) (t : Nat) (s x : State), x = s.at' t ∧ x.packetUe (x.ring ring.val).quad (intakeQueue ring.val) = none ∧ (x.popPacket (x.ring ring.val).quad (intakeQueue ring.val) 1025).2 = []) ∧
  (∃ (h : BitVec 32) (pay : BitVec 256) (l : List (BitVec 32 × BitVec 256)) (y : State) (ring : Fin 256) (t : Nat) (s x : State), x = s.at' t ∧ x.packetUe (x.ring ring.val).quad (intakeQueue ring.val) = none ∧ x.popPacket (x.ring ring.val).quad (intakeQueue ring.val) 1025 = (y, (h, pay) :: l)) ∧
  (∃ (s : State) (r : Req), (s.parcel r.parcel).state ≠ .enabled) ∧
  (∃ (s : State) (r : Req), (s.parcel r.parcel).state = .enabled ∧ (∀ m, ¬ mayAsk s r m)) ∧
  (∃ (s : State) (r : Req) (m : Model), mayAsk s r m ∧ (∀ v, ¬ bindsVersion s r v)) ∧
  (∃ (v : Nat) (s : State) (r : Req) (m : Model), mayAsk s r m ∧ bindsVersion s r v ∧ (∀ p l, ¬ startsAt s r v p l)) ∧
  (∃ (v p l : Nat) (s : State) (r : Req) (m : Model), mayAsk s r m ∧ bindsVersion s r v ∧ startsAt s r v p l ∧ s.reserve m r l = none) ∧
  (∃ (v p l base len : Nat) (a : AreaPlan) (s : State) (r : Req) (m : Model), mayAsk s r m ∧ bindsVersion s r v ∧ startsAt s r v p l ∧ s.reserve m r l = some (a, base, len)) ∧
  (∃ (s : State) (m : Model) (r : Req) (l : Nat), ((s.parcel r.parcel).qInflight ≤ (s.serve.reqs.filter (fun y => y.parcel == r.parcel && y.state != .admitting && y.home == 0)).length ∨ m.maxContext < l + r.prompt + r.maxNew ∨ (s.parcel r.parcel).qRes * mib2 < s.resUsed r.parcel + (areaPlan m (s.draftOf m r) r l).len m)) ∧
  (∃ (handle : BitVec 32) (t : Nat) (s : State) (r : Req), s.req handle.toNat = some r) ∧
  (∃ (handle : BitVec 32) (t : Nat) (s : State), s.req handle.toNat = none) ∧
  (∃ (s : State) (k st : Nat) (r : Req), s.req k = some r ∧ (r.state = .held ∨ r.state = .ended)) ∧
  (∃ (s : State) (k st : Nat) (r : Req), s.req k = some r ∧ r.state ≠ .held ∧ r.state ≠ .ended ∧ r.home = 0 ∧ (s.ring r.ring).state ≠ 0 ∧ s.canWrite r.ring = false) ∧
  (∃ (s : State) (k st : Nat) (r : Req), s.req k = some r ∧ r.state ≠ .held ∧ r.state ≠ .ended ∧ r.home = 0 ∧ (s.ring r.ring).state ≠ 0 ∧ r.withheld = [] ∧ (s.ring r.ring).backlog = [] ∧ s.canWrite r.ring = true ∧ (∀ x, x ∈ s.serve.reqs → x.home = 0 → x.state = .ended → x.handle % 2 ^ 24 ≠ r.handle % 2 ^ 24)) ∧
  (∃ (s : State) (k st : Nat) (r : Req), s.req k = some r ∧ r.state ≠ .held ∧ r.state ≠ .ended ∧ r.home ≠ 0) ∧
  (∃ (s : State) (k st : Nat) (r : Req), s.req k = some r ∧ r.home = 0) :=
  ⟨⟨3145728, _, 0, 0, { admState with mem := { admState.mem with ueField := [(196608, true)] } }, _, rfl, by decide +kernel, rfl⟩,
   ⟨0, 0, s0, _, rfl, by decide +kernel⟩,
   ⟨4, 5, [], (admState.popPacket 0 (intakeQueue 0) 1025).1, 0, 0, admState, _, rfl, by decide +kernel, Prod.ext rfl (by decide +kernel)⟩,
   ⟨s0, req0, by decide +kernel⟩,
   ⟨{ s0 with parcels := [(1, parcel0)] }, req0, rfl, by intro m h; exact nomatch h.2.1⟩,
   ⟨serveState model0 [], { req0 with model := 256, adapter := 9 }, model0, ⟨by decide +kernel, by decide +kernel, by decide +kernel, by decide +kernel, by decide +kernel⟩, by intro v h; rcases h with h | h; exact absurd h.1 (by decide); exact nomatch h.2⟩,
   ⟨0, serveState model0 [], { req0 with model := 256, prefixH := 9 }, model0, ⟨by decide +kernel, by decide +kernel, by decide +kernel, by decide +kernel, by decide +kernel⟩, Or.inl ⟨rfl, rfl⟩, by intro p l h; rcases h with h | ⟨_, i, h, _⟩; exact absurd h.1 (by decide); exact nomatch h⟩,
   ⟨0, 0, 0, admState, { req0 with model := 256, prompt := 2, maxNew := 4 }, model0, by unfold mayAsk bindsVersion startsAt; decide +kernel⟩,
   ⟨0, 0, 0, (((serveState model0 []).reserve model0 { req0 with model := 256, prompt := 2 } 0).get (by decide +kernel)).2.1, (((serveState model0 []).reserve model0 { req0 with model := 256, prompt := 2 } 0).get (by decide +kernel)).2.2, (((serveState model0 []).reserve model0 { req0 with model := 256, prompt := 2 } 0).get (by decide +kernel)).1, serveState model0 [], { req0 with model := 256, prompt := 2 }, model0, ⟨by decide +kernel, by decide +kernel, by decide +kernel, by decide +kernel, by decide +kernel⟩, Or.inl ⟨rfl, rfl⟩, Or.inl ⟨rfl, rfl, rfl⟩, got3 _⟩,
   ⟨s0, model0, req0, 0, by decide +kernel⟩,
   ⟨5, 0, reqState { req0 with state := .decode, started := true }, ((reqState { req0 with state := .decode, started := true }).req (5 : BitVec 32).toNat).get (by decide +kernel), (Option.some_get _).symm⟩,
   ⟨0, 0, s0, by decide +kernel⟩,
   ⟨reqState ({ req0 with state := .held }), 5, 0, ((reqState ({ req0 with state := .held })).req (5 : Nat)).get (by decide +kernel), (Option.some_get _).symm, by decide +kernel⟩,
   ⟨{ ringState { ring0 with written := 3 } with serve := { Serve.reset with rings := [(0, { ring0 with written := 3 })], reqs := [req0] } }, 5, 0, req0, by decide +kernel⟩,
   ⟨{ ringState ring0 with serve := { Serve.reset with rings := [(0, ring0)], reqs := [req0] } }, 5, 0, req0, by decide +kernel⟩,
   ⟨reqState { req0 with home := 1 }, 5 + 2 ^ 32, 0, { req0 with home := 1 }, by decide +kernel⟩,
   ⟨reqState { req0 with state := .decode, started := true }, 5, 0, ((reqState { req0 with state := .decode, started := true }).req (5 : Nat)).get (by decide +kernel), (Option.some_get _).symm, by decide +kernel⟩⟩

set_option maxRecDepth 4000 in
/-- States and operands that meet the hypotheses of `StepsAreSharedAndHandedOff`, clause by clause. -/
theorem witness_StepsAreSharedAndHandedOff :
  (∃ (wp wd lo hi : Nat), lo ≤ hi) ∧
  (∃ (handle : BitVec 32) (home : Option (BitVec 64)) (ok : Bool) (dest : BitVec 64) (s : State), (s.req (handle.toNat + home.elim 0 (fun x => x.toNat + 1) * 2 ^ 32) = none ∨ ∃ r, s.req (handle.toNat + home.elim 0 (fun x => x.toNat + 1) * 2 ^ 32) = some r ∧ (s.moveSlot r).bind s.slotSerial = none)) ∧
  (∃ (handle : BitVec 32) (home : Option (BitVec 64)) (ok : Bool) (dest : BitVec 64) (s : State) (r : Req) (d : Nat), s.req (handle.toNat + home.elim 0 (fun x => x.toNat + 1) * 2 ^ 32) = some r ∧ (s.moveSlot r).bind s.slotSerial = some d) ∧
  (∃ (s : State) (r : Req), r.state ≠ .queued ∧ r.state ≠ .handoff) ∧
  (∃ (s : State) (m : Model) (p : Plot) (k : Nat), s.decodeSlotOf m p = some k) ∧
  (∃ (s : State) (p : Plot) (k : Nat), s.promptSlot p = some k) ∧
  (∃ (handle : BitVec 32) (pos : Nat) (toks : List (BitVec 32)) (fin : Option (BitVec 16)) (s : State), (s.req handle.toNat).filter (fun r => r.away && r.state != .held && r.state != .ended) = none) ∧
  (∃ (handle : BitVec 32) (pos : Nat) (toks : List (BitVec 32)) (fin : Option (BitVec 16)) (s y z : State) (r : Req) (l : List Nat), s.req handle.toNat = some r ∧ r.away = true ∧ r.state ≠ .held ∧ r.state ≠ .ended ∧ l = (toks.map (fun x => x.toNat)).take (r.maxNew - r.generated) ∧ y = s.updReq r.key (fun q => { q with generated := q.generated + l.length, started := true, state := .decode }) ∧ z = (if l = [] then y else y.emitTokens r pos l)) :=
  ⟨⟨0, 0, 0, 0, by decide +kernel⟩,
   ⟨0, none, false, 0, s0, by decide +kernel⟩,
   ⟨5, none, true, 0, { stepState with blocks := [(0, { Block.reset with plot := some { p0 with model := 256, mark := .decode } })], serve := { Serve.reset with reqs := [{ req0 with model := 256, state := .handoff }] } }, { req0 with model := 256, state := .handoff }, ownSerial, by decide +kernel, rfl⟩,
   ⟨s0, { req0 with state := .held }, by decide +kernel⟩,
   ⟨stepState, model0, { p0 with model := 256, mark := .decode }, 0, by decide +kernel⟩,
   ⟨{ stepState with sched := { Sched.reset with sets := [⟨256, [⟨1, true, 0, 0, 0, 0, 0, 0, 256⟩]⟩] } }, { p0 with model := 256, mark := .decode }, 1, by decide +kernel⟩,
   ⟨0, 0, [], none, s0, by decide +kernel⟩,
   ⟨5, 0, [], none, reqState { req0 with state := .decode, away := true }, _, _, { req0 with state := .decode, away := true }, _, by decide +kernel, rfl, by decide, by decide, rfl, rfl, rfl⟩⟩

set_option maxRecDepth 4000 in
/-- States and operands that meet the hypotheses of `FetchesVerifyShards`, clause by clause. -/
theorem witness_FetchesVerifyShards :
  (∃ (ref : LoadRef) (shard : Fin 260) (body : Bytes) (t : Nat) (s x : State), x = s.at' t ∧ (x.load ref = none ∨ ∃ l, x.load ref = some l ∧ l.shards.find? (fun h => h.index == shard.val && h.running) = none)) ∧
  (∃ (l : Load) (h : Shard) (ref : LoadRef) (shard : Fin 260) (body : Bytes) (t : Nat) (s x : State), x = s.at' t ∧ x.load ref = some l ∧ l.shards.find? (fun h => h.index == shard.val && h.running) = some h) ∧
  (∃ (y : State) (l : Load) (h : Shard) (ref : LoadRef) (shard : Fin 260) (body : Bytes) (t : Nat) (s x : State), x = s.at' t ∧ x.load ref = some l ∧ l.shards.find? (fun h => h.index == shard.val && h.running) = some h ∧ body.length = h.len ∧ x.canRest ref h = true ∧ y = (x.places ref h).foldl (fun s k => s.fwWrite k body) x) ∧
  (∃ (s y : State) (ref : LoadRef) (h : Shard) (st : Nat), y = (match (s.load ref).bind (fun l => l.fetch.bind (fun j => j.waiter)) with | some w => s.event w.parcel 2 w.op w.seq st w.obj (toLe 4 h.index ++ toLe 1 h.attempt) w.dest | none => s)) ∧
  (∃ (ref : LoadRef) (shard : Fin 260) (t : Nat) (s : State), (∀ l, (s.at' t).load ref = some l → l.fetch = none ∨ l.shards.find? (fun h => h.index == shard.val && h.running) = none)) ∧
  (∃ (ref : LoadRef) (shard : Fin 260) (t : Nat) (s : State) (l : Load) (h : Shard) (j : FetchJob), (s.at' t).load ref = some l ∧ l.shards.find? (fun h => h.index == shard.val && h.running) = some h ∧ l.fetch = some j) ∧
  (∃ (m : MgmtIn) (tag : BitVec 64) (digest : BitVec 512) (member : Fin 64) (refs : Option (BitVec 32)) (t : Nat) (s : State), m.netB = true ∧ (s.box 0).key = none) ∧
  (∃ (m : MgmtIn) (tag : BitVec 64) (digest : BitVec 512) (member : Fin 64) (refs : Option (BitVec 32)) (t : Nat) (s : State), mgmtAgain s m) ∧
  (∃ (y : State) (mine : List LoadRef) (m : MgmtIn) (tag : BitVec 64) (digest : BitVec 512) (member : Fin 64) (refs : Option (BitVec 32)) (t : Nat) (s : State), mgmtFresh s m ∧ y = mgmtSeenNow (s.at' t) m ∧ mine = y.loadRefs.filter (fun r => (y.load r).any (fun l => manifestTag l.manifest == tag.toNat && manifestDigest l.manifest == digest.toNat))) ∧
  (∃ (ref : LoadRef) (acked : Option (Fin 64)) (t : Nat) (s : State), (s.at' t).load ref = none) ∧
  (∃ (ref : LoadRef) (k : Fin 64) (t : Nat) (s : State) (l : Load), (s.at' t).load ref = some l) ∧
  (∃ (s : State) (i : Fin 256) (h : Shard), (s.entry i.val).state ≠ .free ∧ (s.entry i.val).shards = [h] ∧ h.index < 260) :=
  ⟨⟨loadRef0, 0, [], 0, s0, _, rfl, by decide +kernel⟩,
   ⟨_, shard0, loadRef0, 0, [], 0, loadState, _, rfl, rfl, by decide +kernel⟩,
   by refine ⟨_, load0, shard0, loadRef0, 0, [1, 2, 3, 4], 0, loadState, _, rfl, ?_, ?_, by decide, ?_, rfl⟩ <;> decide +kernel,
   ⟨s0, _, loadRef0, shard0, 0, rfl⟩,
   ⟨loadRef0, 0, 0, s0, by decide +kernel⟩,
   ⟨loadRef0, 0, 0, loadState, load0, shard0, job0, by decide +kernel⟩,
   ⟨⟨9, 1, true⟩, 0, 0, 0, none, 0, s0, by decide +kernel⟩,
   ⟨⟨9, 1, false⟩, 0, 0, 0, none, 0, { s0 with fab := { Fab.reset with mgmtSeen := [(9, 1)] } }, by unfold mgmtAgain; decide +kernel⟩,
   ⟨_, _, ⟨9, 1, false⟩, 0, 0, 0, none, 0, s0, by unfold mgmtFresh; decide +kernel, rfl, rfl⟩,
   ⟨loadRef0, none, 0, s0, by decide +kernel⟩,
   ⟨loadRef0, 0, 0, loadState, load0, by decide +kernel⟩,
   ⟨loadState, 0, shard0, by decide +kernel⟩⟩

set_option maxRecDepth 4000 in
/-- States and operands that meet the hypotheses of `TimeAndArbiters`, clause by clause. -/
theorem witness_TimeAndArbiters :
  (∃ (port : Fin 4) (domain : BitVec 8) (offset : BitVec 32) (t : Nat) (s : State), port.val = s.time.port ∧ SMap.get false s.mail.linkUp port.val = true ∧ domain.toNat = s.time.domain) ∧
  (∃ (port : Fin 4) (domain : BitVec 8) (locked : Bool) (offset : BitVec 32) (t : Nat) (s : State), (port.val ≠ s.time.port ∨ SMap.get false s.mail.linkUp port.val = false ∨ domain.toNat ≠ s.time.domain)) ∧
  (∃ (t : Nat) (s : State), s.time.holdover = true ∧ s.time.holdFrom + s.time.cfg * 1000000000 ≤ max s.now t) ∧
  (∃ (t : Nat) (s : State), (s.time.holdover = false ∨ max s.now t < s.time.holdFrom + s.time.cfg * 1000000000)) ∧
  (∃ (arb : Fin 112) (r : Fin 32) (s : State), (s.arb arb.val).thr ≠ 0 ∧ (s.arb arb.val).thr ≤ SMap.get 0 (s.arb arb.val).cur r.val ∧ bitB (s.arb arb.val).marked r.val = false ∧ r.val < arbRequesters arb.val) ∧
  (∃ (arb : Fin 112) (r : Fin 32) (s : State), ((s.arb arb.val).thr = 0 ∨ SMap.get 0 (s.arb arb.val).cur r.val < (s.arb arb.val).thr ∨ bitB (s.arb arb.val).marked r.val = true ∨ arbRequesters arb.val ≤ r.val)) ∧
  (∃ (parcel : Fin 513) (t : Nat) (s : State), ((s.at' t).scrubbingFor parcel.val = true ∨ ((s.parcel parcel.val).state ≠ .scrubbing ∧ ((s.parcel parcel.val).state ≠ .destroying ∨ (s.at' t).parcelHolds parcel.val = true)))) ∧
  (∃ (parcel : Fin 513) (t : Nat) (s : State), (s.at' t).scrubbingFor parcel.val = false ∧ (s.parcel parcel.val).state = .scrubbing) ∧
  (∃ (parcel : Fin 513) (t : Nat) (s : State), (s.at' t).scrubbingFor parcel.val = false ∧ (s.parcel parcel.val).state = .destroying ∧ (s.at' t).parcelHolds parcel.val = false) ∧
  (∃ (i t : Nat) (s : State), s.mail.deferred[i]? = none) ∧
  (∃ (i t : Nat) (s x : State) (d : Deferred), x = s.at' t ∧ x.mail.deferred[i]? = some d ∧ (x.mail.deferred.take i).any (fun y => y.obj == d.obj) = true) ∧
  (∃ (z : State) (i t : Nat) (s x : State) (d : Deferred), x = s.at' t ∧ x.mail.deferred[i]? = some d ∧ (x.mail.deferred.take i).any (fun y => y.obj == d.obj) = false ∧ z = { x with mail := { x.mail with deferred := x.mail.deferred.eraseIdx i } } ∧ z.goneParcel d.req.mail.parcel.toNat = true) ∧
  (∃ (z y : State) (i t : Nat) (s x : State) (d : Deferred), x = s.at' t ∧ x.mail.deferred[i]? = some d ∧ (x.mail.deferred.take i).any (fun y => y.obj == d.obj) = false ∧ z = { x with mail := { x.mail with deferred := x.mail.deferred.eraseIdx i } } ∧ z.goneParcel d.req.mail.parcel.toNat = false) :=
  ⟨⟨0, 0, 0, 0, { { s0 with mail := { MailSt.reset with linkUp := [(0, true)] } } with serve := { Serve.reset with rings := [(0, { ring0 with key := 7 })] } }, by decide +kernel⟩,
   ⟨0, 0, false, 0, 0, s0, by decide +kernel⟩,
   ⟨10000000000, { s0 with time := { TimeSt.reset with holdover := true } }, by decide +kernel⟩,
   ⟨0, s0, by decide +kernel⟩,
   ⟨111, 5, { s0 with arbs := [(111, { Arb.reset with thr := 2, cur := [(5, 2)] })] }, by decide +kernel⟩,
   ⟨0, 0, s0, by decide +kernel⟩,
   ⟨0, 0, s0, by decide +kernel⟩,
   ⟨512, 0, { s0 with parcels := [(512, { Parcel.reset with state := .scrubbing })] }, by decide +kernel⟩,
   ⟨1, 0, { s0 with parcels := [(1, { Parcel.reset with state := .destroying })] }, by decide +kernel⟩,
   ⟨0, 0, s0, by decide +kernel⟩,
   ⟨1, 0, { s0 with mail := { MailSt.reset with deferred := [⟨⟨0, 0⟩, ⟨0x10, mailOf 0x10 1 []⟩⟩, ⟨⟨0, 0⟩, ⟨0x10, mailOf 0x10 1 []⟩⟩] } }, _, _, rfl, rfl, by decide +kernel⟩,
   ⟨_, 0, 0, { s0 with parcels := [(1, { Parcel.reset with state := .destroying })], mail := { MailSt.reset with deferred := [⟨⟨0, 0⟩, ⟨0x10, mailOf 0x10 1 []⟩⟩] } }, _, _, rfl, rfl, by decide +kernel, rfl, by decide +kernel⟩,
   ⟨_, s0, 0, 0, { s0 with parcels := [(1, parcel0)], mail := { MailSt.reset with deferred := [⟨⟨0, 0⟩, ⟨0x10, mailOf 0x10 1 []⟩⟩] } }, _, _, rfl, rfl, by decide +kernel, rfl, by decide +kernel⟩⟩

set_option maxRecDepth 4000 in
/-- States and operands that meet the hypotheses of `EdushRequestsAreChecked`, clause by clause. -/
theorem witness_EdushRequestsAreChecked :
  (∃ (r : EdReq) (s : State), (s.power.mode = .off ∨ s.power.mode = .starting)) ∧
  (∃ (r : EdReq) (s : State), s.power.mode ≠ .off ∧ s.power.mode ≠ .starting ∧ mailHeadOk r.mail = false) ∧
  (∃ (r : EdReq) (s : State), s.power.mode ≠ .off ∧ s.power.mode ≠ .starting ∧ mailHeadOk r.mail = true ∧ (s.at' r.mail.now).authentic r = false) ∧
  (∃ (r : EdReq) (s : State), comesThrough s r) ∧
  (∃ (r : EdReq) (s : State), comesThrough s r ∧ (accepted s r).edCheck r ≠ 0) ∧
  (∃ (r : EdReq) (s : State), comesThrough s r ∧ (accepted s r).edCheck r = 0) ∧
  (∃ (r : EdReq) (a : State) (late : Bool), waitsServe r.op = true ∧ a.power.going = some .off) ∧
  (∃ (r : EdReq) (a : State) (late : Bool), waitsServe r.op = true ∧ a.power.going ≠ some .off ∧ (a.power.going ≠ none ∨ a.power.mode ≠ .serve)) ∧
  (∃ (r : EdReq) (s : State), s.power.mode ≠ .off ∧ s.power.mode ≠ .starting ∧ mailHeadOk r.mail = true ∧ (s.at' r.mail.now).authentic r = true ∧ s.mail.setAside = [] ∧ (s.box r.mail.parcel.toNat).isNew r.mail.seq.toNat = false) ∧
  (∃ (r : EdReq) (s : State), s.power.mode ≠ .off ∧ s.power.mode ≠ .starting ∧ mailHeadOk r.mail = true ∧ (s.at' r.mail.now).authentic r = true) ∧
  (∃ (b : Mailbox) (seq : Nat), seq < 2 ^ 32 ∧ b.high < 2 ^ 32 ∧ b.isNew seq = true) ∧
  (∃ (b : Mailbox) (seq : Nat), seq < 2 ^ 32 ∧ b.high < 2 ^ 32 ∧ 64 ≤ b.behind seq ∧ b.moves seq = false) ∧
  (∃ (s x : State) (r : EdReq) (st : Nat) (body : Bytes), x.mail.out.length = s.mail.out.length) ∧
  (∃ (s x : State) (r : EdReq) (k : ObjKey), (x.mail.deferred.filter (fun d => d.obj == k)).length < 16) :=
  ⟨⟨⟨1, mailOf 1 0 []⟩, State.reset, by decide +kernel⟩,
   ⟨⟨1, { mailOf 1 0 [] with version := 2 }⟩, keyed s0, by decide +kernel⟩,
   ⟨⟨1, { mailOf 1 0 [] with tag := 0 }⟩, keyed s0, by decide +kernel⟩,
   ⟨⟨1, mailOf 1 0 []⟩, keyed s0, comes⟩,
   ⟨⟨1, mailOf 1 0 [0]⟩, keyed s0, comes, by decide +kernel⟩,
   ⟨⟨1, mailOf 1 0 []⟩, keyed s0, comes, by decide +kernel⟩,
   ⟨⟨0x21, mailOf 0x21 1 []⟩, powerState { pw0 with going := some .off }, false, by decide +kernel⟩,
   ⟨⟨0x21, mailOf 0x21 1 []⟩, powerState { pw0 with mode := .quiet }, false, by decide +kernel⟩,
   ⟨⟨1, mailOf 1 0 []⟩, { s0 with mail := { MailSt.reset with boxes := [(0, { Mailbox.fresh with key := some [1], high := 1 })] } }, by decide +kernel⟩,
   ⟨⟨1, mailOf 1 0 []⟩, keyed s0, by decide +kernel⟩,
   ⟨Mailbox.fresh, 1, by decide +kernel⟩,
   ⟨{ Mailbox.fresh with high := 64 }, 0, by decide +kernel⟩,
   ⟨s0, s0, ⟨1, mailOf 1 0 []⟩, 0, [], by decide +kernel⟩,
   ⟨s0, s0, ⟨1, mailOf 1 0 []⟩, ⟨0, 0⟩, by decide +kernel⟩⟩

set_option maxRecDepth 4000 in
/-- States and operands that meet the hypotheses of `EdushParcelRequestsHaveTheirEffect`, clause by clause. -/
theorem witness_EdushParcelRequestsHaveTheirEffect :
  (∃ (m : Mail) (s a : State), passes s ⟨1, m⟩ ∧ accepted s ⟨1, m⟩ = a) ∧
  (∃ (op : BitVec 16) (m : Mail) (s : State), comesThrough s ⟨op.toNat, m⟩ ∧ edOp op.toNat = none ∧ m.len.toNat = m.payload.length ∧ m.payload.length ≤ 8128) ∧
  (∃ (m : Mail) (s a : State), passes s ⟨0x10, m⟩ ∧ accepted s ⟨0x10, m⟩ = a) ∧
  (∃ (m : Mail) (s a : State), passes s ⟨0x11, m⟩ ∧ accepted s ⟨0x11, m⟩ = a) ∧
  (∃ (m : Mail) (s a : State), passes s ⟨0x12, m⟩ ∧ accepted s ⟨0x12, m⟩ = a) ∧
  (∃ (m : Mail) (s a : State), passes s ⟨0x13, m⟩ ∧ accepted s ⟨0x13, m⟩ = a) ∧
  (∃ (s : State) (seq p : Nat) (l : Bytes), p = leAt l 0 2 ∧ ((s.parcel p).dying = true ∨ ((s.parcel p).state = .free ∧ s.now < (s.parcel p).quarantine))) ∧
  (∃ (s : State) (seq p : Nat) (l : Bytes), p = leAt l 0 2 ∧ (s.parcel p).dying = false ∧ (s.parcel p).state ≠ .free) ∧
  (∃ (s : State) (seq p : Nat) (l : Bytes), p = leAt l 0 2 ∧ (s.parcel p).state = .free ∧ (s.parcel p).quarantine ≤ s.now ∧ (quotasOf l = none ∨ (s.box 0).key = none)) ∧
  (∃ (s : State) (seq p : Nat) (l : Bytes) (y : Parcel) (k0 : Bytes), p = leAt l 0 2 ∧ (s.parcel p).state = .free ∧ (s.parcel p).quarantine ≤ s.now ∧ quotasOf l = some y ∧ (s.box 0).key = some k0 ∧ s.preBase y.qPreempt = none) ∧
  (∃ (s : State) (seq p : Nat) (l : Bytes) (y : Parcel) (k0 : Bytes) (base : Nat), p = leAt l 0 2 ∧ (s.parcel p).state = .free ∧ (s.parcel p).quarantine ≤ s.now ∧ quotasOf l = some y ∧ (s.box 0).key = some k0 ∧ s.preBase y.qPreempt = some base) ∧
  (∃ (s : State) (w : Waiter) (p : Nat) (l : Bytes) (late : Bool), p = leAt l 0 2 ∧ (s.parcel p).state = .free) ∧
  (∃ (s : State) (w : Waiter) (p : Nat) (l : Bytes) (late : Bool), p = leAt l 0 2 ∧ (s.parcel p).state ≠ .free ∧ ((s.parcel p).dying = true ∨ (s.parcel p).closing = true)) ∧
  (∃ (s : State) (w : Waiter) (p : Nat) (l : Bytes) (late : Bool), p = leAt l 0 2 ∧ (s.parcel p).state = .disabled ∧ (s.parcel p).dying = false ∧ (s.parcel p).closing = false) ∧
  (∃ (s : State) (w : Waiter) (p : Nat) (l : Bytes) (late : Bool), p = leAt l 0 2 ∧ (s.parcel p).state = .enabled ∧ (s.parcel p).dying = false ∧ (s.parcel p).closing = false) ∧
  (∃ (l : Bytes) (y : Parcel), quotasOf l = some y) :=
  ⟨⟨mailOf 1 0 [], keyed s0, accepted (keyed s0) ⟨1, mailOf 1 0 []⟩, pass, rfl⟩,
   ⟨0xFF, mailOf 0xFF 0 [], keyed s0, comes, by decide +kernel⟩,
   ⟨mailOf 0x10 0 (bytesOf 0x268 [(0, 2), (0x50, 1)]), keyed s0, _, pass, rfl⟩,
   ⟨mailOf 0x11 0 (two 1), keyed s0, _, pass, rfl⟩,
   ⟨mailOf 0x12 0 (two 1), keyed s0, _, pass, rfl⟩,
   ⟨mailOf 0x13 0 (two 1), keyed s0, _, pass, rfl⟩,
   ⟨keyed { s0 with parcels := [(1, { Parcel.reset with state := .draining, destroy := true })] }, 0, _, [1], rfl, by decide +kernel⟩,
   ⟨polState policy1, 0, _, [1], rfl, by decide +kernel⟩,
   ⟨s0, 0, _, [], rfl, by decide +kernel⟩,
   ⟨keyed s0, 0, 1, bytesOf 0x268 [(0, 1), (0x50, 1), (0x60, 1)], (quotasOf (bytesOf 0x268 [(0, 1), (0x50, 1), (0x60, 1)])).get (by decide +kernel), [1], rfl, rfl, by decide +kernel, (Option.some_get _).symm, by decide +kernel, by decide +kernel⟩,
   ⟨keyed (modelState model0), 0, 1, bytesOf 0x268 [(0, 1), (0x50, 1), (0x60, 1)], (quotasOf (bytesOf 0x268 [(0, 1), (0x50, 1), (0x60, 1)])).get (by decide +kernel), [1], ((keyed (modelState model0)).preBase ((quotasOf (bytesOf 0x268 [(0, 1), (0x50, 1), (0x60, 1)])).get (by decide +kernel)).qPreempt).get (by decide +kernel), rfl, rfl, by decide +kernel, (Option.some_get _).symm, by decide +kernel, (Option.some_get _).symm⟩,
   ⟨s0, waiter0, _, [], false, rfl, by decide +kernel⟩,
   ⟨keyed { s0 with parcels := [(1, { Parcel.reset with state := .draining, destroy := true })] }, waiter0, _, [1], false, rfl, by decide +kernel⟩,
   ⟨keyed { s0 with parcels := [(1, { Parcel.reset with state := .disabled })] }, waiter0, _, [1], false, rfl, by decide +kernel⟩,
   ⟨polState policy1, waiter0, _, [1], false, rfl, by decide +kernel⟩,
   ⟨bytesOf 0x268 [(0x50, 1)], { Parcel.reset with state := .disabled, pfMax := 1, pfHi := 1, askHi := 1, signN := zeros 512 }, by decide +kernel⟩⟩

set_option maxRecDepth 4000 in
/-- States and operands that meet the hypotheses of `EdushModelRequestsHaveTheirEffect`, clause by clause. -/
theorem witness_EdushModelRequestsHaveTheirEffect :
  (∃ (m : Mail) (s a : State), passes s ⟨0x20, m⟩ ∧ accepted s ⟨0x20, m⟩ = a) ∧
  (∃ (m : Mail) (s a : State), passes s ⟨0x21, m⟩ ∧ accepted s ⟨0x21, m⟩ = a) ∧
  (∃ (m : Mail) (s a : State), passes s ⟨0x22, m⟩ ∧ accepted s ⟨0x22, m⟩ = a) ∧
  (∃ (m : Mail) (s a : State), passes s ⟨0x23, m⟩ ∧ accepted s ⟨0x23, m⟩ = a) ∧
  (∃ (m : Mail) (s a : State), passes s ⟨0x28, m⟩ ∧ accepted s ⟨0x28, m⟩ = a) ∧
  (∃ (m : Mail) (s a : State), passes s ⟨0x29, m⟩ ∧ accepted s ⟨0x29, m⟩ = a) ∧
  (∃ (m : Mail) (s a : State), passes s ⟨0x2A, m⟩ ∧ accepted s ⟨0x2A, m⟩ = a) ∧
  (∃ (m : Mail) (s a : State), passes s ⟨0x30, m⟩ ∧ accepted s ⟨0x30, m⟩ = a) ∧
  (∃ (s : State) (p : Nat) (l : Bytes), ((p ≠ 0 ∧ (askedOwner p l ≠ p ∨ askedGrants p l ≠ [])) ∨ s.knownParcel (askedOwner p l) = false ∨ (∃ g, g ∈ askedGrants p l ∧ s.knownParcel g = false) ∨ s.tableClash l = true)) ∧
  (∃ (s : State) (p : Nat) (l : Bytes), (p = 0 ∨ (askedOwner p l = p ∧ askedGrants p l = [])) ∧ s.knownParcel (askedOwner p l) = true ∧ (∀ g, g ∈ askedGrants p l → s.knownParcel g = true) ∧ s.tableClash l = false ∧ (s.freeEntry = none ∨ s.modelsFull (askedOwner p l) = true ∨ (∃ g, g ∈ askedGrants p l ∧ s.modelsFull g = true))) ∧
  (∃ (s : State) (p : Nat) (l : Bytes) (i : Nat), (p = 0 ∨ (askedOwner p l = p ∧ askedGrants p l = [])) ∧ s.knownParcel (askedOwner p l) = true ∧ (∀ g, g ∈ askedGrants p l → s.knownParcel g = true) ∧ s.tableClash l = false ∧ s.freeEntry = some i ∧ s.modelsFull (askedOwner p l) = false ∧ (∀ g, g ∈ askedGrants p l → s.modelsFull g = false)) ∧
  (∃ (s : State) (w : Waiter) (f : Option Bytes) (l : Bytes), s.modelOf (leAt l 0 2) = none) ∧
  (∃ (s : State) (w : Waiter) (f : Option Bytes) (l : Bytes) (x : Model), s.modelOf (leAt l 0 2) = some x ∧ ownerOk w.parcel x.owner = false) ∧
  (∃ (s : State) (w : Waiter) (f : Option Bytes) (l : Bytes) (x : Model), s.modelOf (leAt l 0 2) = some x ∧ ownerOk w.parcel x.owner = true ∧ imageOf f = none) ∧
  (∃ (s : State) (w : Waiter) (f : Option Bytes) (l : Bytes) (x : Model) (y : Image) (st : Nat), s.modelOf (leAt l 0 2) = some x ∧ ownerOk w.parcel x.owner = true ∧ imageOf f = some y ∧ s.imageStatus f 0 x.owner (leAt (l.drop 8) 4 2) (leAt (l.drop 8) 0 1) (x.reg' 0 8) true x.tableRecs = st ∧ st ≠ 0) ∧
  (∃ (s : State) (w : Waiter) (f : Option Bytes) (l : Bytes) (x : Model) (y : Image), s.modelOf (leAt l 0 2) = some x ∧ ownerOk w.parcel x.owner = true ∧ imageOf f = some y ∧ s.imageStatus f 0 x.owner (leAt (l.drop 8) 4 2) (leAt (l.drop 8) 0 1) (x.reg' 0 8) true x.tableRecs = 0 ∧ x.state = .registered ∧ s.findBases x.owner (leAt y.manifest 0x30 8) (leAt y.manifest 0x38 8) = none) ∧
  (∃ (s : State) (w : Waiter) (f : Option Bytes) (l : Bytes) (x : Model) (y : Image) (bs : List Nat) (q : Nat), s.modelOf (leAt l 0 2) = some x ∧ ownerOk w.parcel x.owner = true ∧ imageOf f = some y ∧ s.imageStatus f 0 x.owner (leAt (l.drop 8) 4 2) (leAt (l.drop 8) 0 1) (x.reg' 0 8) true x.tableRecs = 0 ∧ x.state = .registered ∧ s.findBases x.owner (leAt y.manifest 0x30 8) (leAt y.manifest 0x38 8) = some (bs, q)) ∧
  (∃ (s : State) (w : Waiter) (f : Option Bytes) (l : Bytes) (x : Model) (y : Image), s.modelOf (leAt l 0 2) = some x ∧ ownerOk w.parcel x.owner = true ∧ imageOf f = some y ∧ s.imageStatus f 0 x.owner (leAt (l.drop 8) 4 2) (leAt (l.drop 8) 0 1) (x.reg' 0 8) true x.tableRecs = 0 ∧ x.state ≠ .registered ∧ manifestDigest y.manifest ≠ manifestDigest x.manifest) ∧
  (∃ (s : State) (w : Waiter) (f : Option Bytes) (l : Bytes) (x : Model) (y : Image), s.modelOf (leAt l 0 2) = some x ∧ ownerOk w.parcel x.owner = true ∧ imageOf f = some y ∧ s.imageStatus f 0 x.owner (leAt (l.drop 8) 4 2) (leAt (l.drop 8) 0 1) (x.reg' 0 8) true x.tableRecs = 0 ∧ x.state = .removing ∧ manifestDigest y.manifest = manifestDigest x.manifest) ∧
  (∃ (s : State) (w : Waiter) (f : Option Bytes) (l : Bytes) (x : Model) (y : Image), s.modelOf (leAt l 0 2) = some x ∧ ownerOk w.parcel x.owner = true ∧ imageOf f = some y ∧ s.imageStatus f 0 x.owner (leAt (l.drop 8) 4 2) (leAt (l.drop 8) 0 1) (x.reg' 0 8) true x.tableRecs = 0 ∧ x.state = .loading ∧ manifestDigest y.manifest = manifestDigest x.manifest ∧ (x.fetch.any (fun j => j.waiter.isSome)) = true) ∧
  (∃ (s : State) (w : Waiter) (f : Option Bytes) (l : Bytes) (x : Model) (y : Image), s.modelOf (leAt l 0 2) = some x ∧ ownerOk w.parcel x.owner = true ∧ imageOf f = some y ∧ s.imageStatus f 0 x.owner (leAt (l.drop 8) 4 2) (leAt (l.drop 8) 0 1) (x.reg' 0 8) true x.tableRecs = 0 ∧ x.state = .loading ∧ manifestDigest y.manifest = manifestDigest x.manifest ∧ (x.fetch.any (fun j => j.waiter.isSome)) = false) ∧
  (∃ (s : State) (w : Waiter) (f : Option Bytes) (l : Bytes) (x : Model) (y : Image), s.modelOf (leAt l 0 2) = some x ∧ ownerOk w.parcel x.owner = true ∧ imageOf f = some y ∧ s.imageStatus f 0 x.owner (leAt (l.drop 8) 4 2) (leAt (l.drop 8) 0 1) (x.reg' 0 8) true x.tableRecs = 0 ∧ x.state ≠ .registered ∧ x.state ≠ .removing ∧ x.state ≠ .loading ∧ manifestDigest y.manifest = manifestDigest x.manifest) ∧
  (∃ (s : State) (w : Waiter) (l : Bytes), s.modelOf (leAt l 0 2) = none) ∧
  (∃ (s : State) (w : Waiter) (l : Bytes) (x : Model), s.modelOf (leAt l 0 2) = some x ∧ x.allows w.parcel = false) ∧
  (∃ (s : State) (w : Waiter) (l : Bytes) (x : Model), s.modelOf (leAt l 0 2) = some x ∧ x.allows w.parcel = true ∧ x.state = .filled) ∧
  (∃ (s : State) (w : Waiter) (l : Bytes) (x : Model), s.modelOf (leAt l 0 2) = some x ∧ x.allows w.parcel = true ∧ x.state = .filling) ∧
  (∃ (s : State) (w : Waiter) (l : Bytes) (x : Model), s.modelOf (leAt l 0 2) = some x ∧ x.allows w.parcel = true ∧ x.state = .evicting) ∧
  (∃ (s : State) (w : Waiter) (l : Bytes) (x : Model), s.modelOf (leAt l 0 2) = some x ∧ x.allows w.parcel = true ∧ x.state = .ready ∧ s.blocksOk x = true) ∧
  (∃ (s : State) (w : Waiter) (l : Bytes) (x : Model), s.modelOf (leAt l 0 2) = some x ∧ x.allows w.parcel = true ∧ x.state = .ready ∧ s.blocksOk x = false) ∧
  (∃ (s : State) (w : Waiter) (l : Bytes) (x : Model), s.modelOf (leAt l 0 2) = some x ∧ x.allows w.parcel = true ∧ (x.state = .free ∨ x.state = .registered ∨ x.state = .loading ∨ x.state = .removing)) ∧
  (∃ (s : State) (w : Waiter) (l : Bytes), s.modelOf (leAt l 0 2) = none) ∧
  (∃ (s : State) (w : Waiter) (l : Bytes) (x : Model), s.modelOf (leAt l 0 2) = some x ∧ (ownerOk w.parcel x.owner = false ∨ (leAt l 2 1 = 1 ∧ (s.adapters.any (fun (z : Nat × Adapter) => z.2.used && z.2.model == leAt l 0 2)) = true))) ∧
  (∃ (s : State) (w : Waiter) (l : Bytes) (x : Model), s.modelOf (leAt l 0 2) = some x ∧ ownerOk w.parcel x.owner = true ∧ (leAt l 2 1 ≠ 1 ∨ (s.adapters.any (fun (z : Nat × Adapter) => z.2.used && z.2.model == leAt l 0 2)) = false) ∧ x.state = .filling) ∧
  (∃ (s : State) (w : Waiter) (l : Bytes) (x : Model), s.modelOf (leAt l 0 2) = some x ∧ ownerOk w.parcel x.owner = true ∧ (leAt l 2 1 ≠ 1 ∨ (s.adapters.any (fun (z : Nat × Adapter) => z.2.used && z.2.model == leAt l 0 2)) = false) ∧ leAt l 2 1 = 1 ∧ (x.state = .evicting ∨ x.state = .removing ∨ (x.state ≠ .filling ∧ (x.fetch.any (fun j => j.waiter.isSome)) = true))) ∧
  (∃ (s : State) (w : Waiter) (l : Bytes) (x : Model), s.modelOf (leAt l 0 2) = some x ∧ ownerOk w.parcel x.owner = true ∧ (leAt l 2 1 ≠ 1 ∨ (s.adapters.any (fun (z : Nat × Adapter) => z.2.used && z.2.model == leAt l 0 2)) = false) ∧ leAt l 2 1 = 1 ∧ x.state ≠ .filling ∧ x.state ≠ .evicting ∧ x.state ≠ .removing ∧ (x.fetch.any (fun j => j.waiter.isSome)) = false) ∧
  (∃ (s : State) (w : Waiter) (l : Bytes) (x : Model), s.modelOf (leAt l 0 2) = some x ∧ ownerOk w.parcel x.owner = true ∧ leAt l 2 1 ≠ 1 ∧ x.state = .filled) ∧
  (∃ (s : State) (w : Waiter) (l : Bytes) (x : Model), s.modelOf (leAt l 0 2) = some x ∧ ownerOk w.parcel x.owner = true ∧ leAt l 2 1 ≠ 1 ∧ x.state ≠ .filled ∧ x.state ≠ .filling) ∧
  (∃ (s : State) (w : Waiter) (f : Option Bytes) (l : Bytes), s.modelOf (leAt l 0 2) = none) ∧
  (∃ (s : State) (w : Waiter) (f : Option Bytes) (l : Bytes) (x : Model), s.modelOf (leAt l 0 2) = some x ∧ w.parcel ≠ x.owner ∧ w.parcel ∉ x.grants) ∧
  (∃ (s : State) (w : Waiter) (f : Option Bytes) (l : Bytes) (x : Model), s.modelOf (leAt l 0 2) = some x ∧ (w.parcel = x.owner ∨ w.parcel ∈ x.grants) ∧ (List.range 4096).find? (fun i => !(s.adapter i).used && decide ((s.adapter i).freeAt ≤ s.now)) = none) ∧
  (∃ (s : State) (w : Waiter) (f : Option Bytes) (l : Bytes) (x : Model) (i : Nat), s.modelOf (leAt l 0 2) = some x ∧ (w.parcel = x.owner ∨ w.parcel ∈ x.grants) ∧ (List.range 4096).find? (fun i => !(s.adapter i).used && decide ((s.adapter i).freeAt ≤ s.now)) = some i ∧ imageOf f = none) ∧
  (∃ (s : State) (w : Waiter) (f : Option Bytes) (l : Bytes) (x : Model) (i : Nat) (y : Image), s.modelOf (leAt l 0 2) = some x ∧ (w.parcel = x.owner ∨ w.parcel ∈ x.grants) ∧ (List.range 4096).find? (fun i => !(s.adapter i).used && decide ((s.adapter i).freeAt ≤ s.now)) = some i ∧ imageOf f = some y ∧ w.parcel ≠ 0 ∧ (s.parcel w.parcel).qAdapters ≤ (s.adapters.filter (fun (z : Nat × Adapter) => z.2.used && z.2.owner == w.parcel)).length) ∧
  (∃ (s : State) (w : Waiter) (f : Option Bytes) (l : Bytes) (x : Model) (i : Nat) (y : Image) (st : Nat), s.modelOf (leAt l 0 2) = some x ∧ (w.parcel = x.owner ∨ w.parcel ∈ x.grants) ∧ (List.range 4096).find? (fun i => !(s.adapter i).used && decide ((s.adapter i).freeAt ≤ s.now)) = some i ∧ imageOf f = some y ∧ (w.parcel = 0 ∨ (s.adapters.filter (fun (z : Nat × Adapter) => z.2.used && z.2.owner == w.parcel)).length < (s.parcel w.parcel).qAdapters) ∧ s.imageStatus f 1 w.parcel (leAt (l.drop 8) 4 2) (leAt (l.drop 8) 0 1) (x.reg' 0 8) x.serves [] = st ∧ st ≠ 0) ∧
  (∃ (s : State) (w : Waiter) (f : Option Bytes) (l : Bytes) (x : Model) (i : Nat) (y : Image), s.modelOf (leAt l 0 2) = some x ∧ (w.parcel = x.owner ∨ w.parcel ∈ x.grants) ∧ (List.range 4096).find? (fun i => !(s.adapter i).used && decide ((s.adapter i).freeAt ≤ s.now)) = some i ∧ imageOf f = some y ∧ (w.parcel = 0 ∨ (s.adapters.filter (fun (z : Nat × Adapter) => z.2.used && z.2.owner == w.parcel)).length < (s.parcel w.parcel).qAdapters) ∧ s.imageStatus f 1 w.parcel (leAt (l.drop 8) 4 2) (leAt (l.drop 8) 0 1) (x.reg' 0 8) x.serves [] = 0 ∧ s.findVersion w.parcel (leAt y.manifest 0x30 8) = none) ∧
  (∃ (s : State) (w : Waiter) (f : Option Bytes) (l : Bytes) (x : Model) (i : Nat) (y : Image) (base : Nat), s.modelOf (leAt l 0 2) = some x ∧ (w.parcel = x.owner ∨ w.parcel ∈ x.grants) ∧ (List.range 4096).find? (fun i => !(s.adapter i).used && decide ((s.adapter i).freeAt ≤ s.now)) = some i ∧ imageOf f = some y ∧ (w.parcel = 0 ∨ (s.adapters.filter (fun (z : Nat × Adapter) => z.2.used && z.2.owner == w.parcel)).length < (s.parcel w.parcel).qAdapters) ∧ s.imageStatus f 1 w.parcel (leAt (l.drop 8) 4 2) (leAt (l.drop 8) 0 1) (x.reg' 0 8) x.serves [] = 0 ∧ s.findVersion w.parcel (leAt y.manifest 0x30 8) = some base) ∧
  (∃ (s : State) (w : Waiter) (f : Option Bytes) (l : Bytes), s.adapterOf (leAt l 0 4) = none) ∧
  (∃ (s : State) (w : Waiter) (f : Option Bytes) (l : Bytes) (z : Adapter), s.adapterOf (leAt l 0 4) = some z ∧ ownerOk w.parcel z.owner = false) ∧
  (∃ (s : State) (w : Waiter) (f : Option Bytes) (l : Bytes) (z : Adapter), s.adapterOf (leAt l 0 4) = some z ∧ ownerOk w.parcel z.owner = true ∧ z.withdrawing = true) ∧
  (∃ (s : State) (w : Waiter) (f : Option Bytes) (l : Bytes) (z : Adapter), s.adapterOf (leAt l 0 4) = some z ∧ ownerOk w.parcel z.owner = true ∧ z.withdrawing = false ∧ z.loading = true) ∧
  (∃ (s : State) (w : Waiter) (f : Option Bytes) (l : Bytes) (z : Adapter), s.adapterOf (leAt l 0 4) = some z ∧ ownerOk w.parcel z.owner = true ∧ z.withdrawing = false ∧ z.loading = false ∧ (65535 ≤ z.highest ∨ 4 ≤ z.versions.length)) ∧
  (∃ (s : State) (w : Waiter) (f : Option Bytes) (l : Bytes) (z : Adapter), s.adapterOf (leAt l 0 4) = some z ∧ ownerOk w.parcel z.owner = true ∧ z.withdrawing = false ∧ z.loading = false ∧ z.highest < 65535 ∧ z.versions.length < 4 ∧ imageOf f = none) ∧
  (∃ (s : State) (w : Waiter) (f : Option Bytes) (l : Bytes) (z : Adapter) (y : Image) (st : Nat), s.adapterOf (leAt l 0 4) = some z ∧ ownerOk w.parcel z.owner = true ∧ z.withdrawing = false ∧ z.loading = false ∧ z.highest < 65535 ∧ z.versions.length < 4 ∧ imageOf f = some y ∧ s.imageStatus f 1 z.owner (leAt (l.drop 8) 4 2) (leAt (l.drop 8) 0 1) ((s.modelOf z.model).elim 0 (fun x => x.reg' 0 8)) ((s.modelOf z.model).any Model.serves) [] = st ∧ st ≠ 0) ∧
  (∃ (s : State) (w : Waiter) (f : Option Bytes) (l : Bytes) (z : Adapter) (y : Image), s.adapterOf (leAt l 0 4) = some z ∧ ownerOk w.parcel z.owner = true ∧ z.withdrawing = false ∧ z.loading = false ∧ z.highest < 65535 ∧ z.versions.length < 4 ∧ imageOf f = some y ∧ s.imageStatus f 1 z.owner (leAt (l.drop 8) 4 2) (leAt (l.drop 8) 0 1) ((s.modelOf z.model).elim 0 (fun x => x.reg' 0 8)) ((s.modelOf z.model).any Model.serves) [] = 0 ∧ s.findVersion z.owner (leAt y.manifest 0x30 8) = none) ∧
  (∃ (s : State) (w : Waiter) (f : Option Bytes) (l : Bytes) (z : Adapter) (y : Image) (base : Nat), s.adapterOf (leAt l 0 4) = some z ∧ ownerOk w.parcel z.owner = true ∧ z.withdrawing = false ∧ z.loading = false ∧ z.highest < 65535 ∧ z.versions.length < 4 ∧ imageOf f = some y ∧ s.imageStatus f 1 z.owner (leAt (l.drop 8) 4 2) (leAt (l.drop 8) 0 1) ((s.modelOf z.model).elim 0 (fun x => x.reg' 0 8)) ((s.modelOf z.model).any Model.serves) [] = 0 ∧ s.findVersion z.owner (leAt y.manifest 0x30 8) = some base) ∧
  (∃ (s : State) (w : Waiter) (l : Bytes), s.adapterOf (leAt l 0 4) = none) ∧
  (∃ (s : State) (w : Waiter) (l : Bytes) (z : Adapter), s.adapterOf (leAt l 0 4) = some z ∧ ownerOk w.parcel z.owner = false) ∧
  (∃ (s : State) (w : Waiter) (l : Bytes) (z : Adapter), s.adapterOf (leAt l 0 4) = some z ∧ ownerOk w.parcel z.owner = true ∧ (z.loading = true ∨ z.withdrawing = true)) ∧
  (∃ (s : State) (w : Waiter) (l : Bytes) (z : Adapter), s.adapterOf (leAt l 0 4) = some z ∧ ownerOk w.parcel z.owner = true ∧ z.loading = false ∧ z.withdrawing = false) ∧
  (∃ (s : State) (w : Waiter) (f : Option Bytes) (l : Bytes), s.modelOf (leAt l 0 2) = none) ∧
  (∃ (s : State) (w : Waiter) (f : Option Bytes) (l : Bytes) (x : Model), s.modelOf (leAt l 0 2) = some x ∧ ownerOk w.parcel x.owner = false) ∧
  (∃ (s : State) (w : Waiter) (f : Option Bytes) (l : Bytes) (x : Model), s.modelOf (leAt l 0 2) = some x ∧ ownerOk w.parcel x.owner = true ∧ f = none) ∧
  (∃ (s : State) (w : Waiter) (f : Option Bytes) (l : Bytes) (x : Model) (y : Bytes) (st : Nat), s.modelOf (leAt l 0 2) = some x ∧ ownerOk w.parcel x.owner = true ∧ f = some y ∧ s.platLoadStatus y (s.signKey x.owner).1 (s.signKey x.owner).2 (x.reg' 0 8) x.serials x.member = st) ∧
  (∃ (s : State) (i : Nat), s.freeEntry = some i) :=
  ⟨⟨mailOf 0x20 1 (bytesOf 0x50 []), keyed { s0 with parcels := [(1, { Parcel.reset with state := .enabled })] }, _, pass, rfl⟩,
   ⟨mailOf 0x21 1 (bytesOf 0x98 [(9, 1), (12, 1)]), keyed { s0 with parcels := [(1, { Parcel.reset with state := .enabled })] }, _, pass, rfl⟩,
   ⟨mailOf 0x22 1 (two 256), keyed { s0 with parcels := [(1, { Parcel.reset with state := .enabled })] }, _, pass, rfl⟩,
   ⟨mailOf 0x23 1 (two 256 ++ [0]), keyed { s0 with parcels := [(1, { Parcel.reset with state := .enabled })] }, _, pass, rfl⟩,
   ⟨mailOf 0x28 1 (bytesOf 0x98 [(9, 1), (12, 1)]), keyed { s0 with parcels := [(1, { Parcel.reset with state := .enabled })] }, _, pass, rfl⟩,
   ⟨mailOf 0x29 1 (bytesOf 0x98 [(9, 1), (12, 1)]), keyed { s0 with parcels := [(1, { Parcel.reset with state := .enabled })] }, _, pass, rfl⟩,
   ⟨mailOf 0x2A 1 (toLe 4 0x1000000 ++ [0]), keyed { s0 with parcels := [(1, { Parcel.reset with state := .enabled })] }, _, pass, rfl⟩,
   ⟨mailOf 0x30 1 (bytesOf 0x90 [(1, 1), (9, 1)]), keyed { s0 with parcels := [(1, { Parcel.reset with state := .enabled })] }, _, pass, rfl⟩,
   ⟨s0, 1, [], by decide +kernel⟩,
   ⟨keyed { s0 with parcels := [(1, { Parcel.reset with state := .enabled })] }, 1, [], by decide +kernel⟩,
   by refine ⟨serveState model0 [], 1, [], 1, Or.inr ⟨by decide +kernel, by decide +kernel⟩, ?_, ?_, ?_, ?_, ?_, ?_⟩ <;> decide +kernel,
   ⟨s0, waiter0, none, [], by decide +kernel⟩,
   ⟨modelState model0, { waiter0 with parcel := 2 }, none, bytesOf 64 [(1, 1)], _, rfl, by decide +kernel⟩,
   ⟨modelState model0, waiter0, none, bytesOf 64 [(1, 1)], _, rfl, by decide +kernel⟩,
   ⟨modelState model0, waiter0, some (zeros 768), bytesOf 64 [(1, 1), (12, 1)], model0, ⟨zeros 768, []⟩, 0x0102, by decide +kernel⟩,
   ⟨{ imgState ({ model0 with state := .registered }) with parcels := [(1, { parcel0 with signE := 1, signN := onesN, qRes := 0 })] }, waiter0, some (image0 0), bytesOf 64 [(1, 1), (12, 1)], { model0 with state := .registered }, parsed0 0, rfl, by decide +kernel, parsed_model, image_passes 0 (Or.inl rfl) rfl, rfl, by decide +kernel⟩,
   ⟨imgState ({ model0 with state := .registered }), waiter0, some (image0 0), bytesOf 64 [(1, 1), (12, 1)], { model0 with state := .registered }, parsed0 0, (((imgState ({ model0 with state := .registered })).findBases 1 (leAt (parsed0 0).manifest 0x30 8) (leAt (parsed0 0).manifest 0x38 8)).get (by decide +kernel)).1, (((imgState ({ model0 with state := .registered })).findBases 1 (leAt (parsed0 0).manifest 0x30 8) (leAt (parsed0 0).manifest 0x38 8)).get (by decide +kernel)).2, rfl, by decide +kernel, parsed_model, image_passes 0 (Or.inl rfl) rfl, rfl, got _⟩,
   ⟨imgState (model0), waiter0, some (image0 0), bytesOf 64 [(1, 1), (12, 1)], model0, parsed0 0, rfl, by decide +kernel, parsed_model, image_passes 0 (Or.inl rfl) rfl, by decide, by decide +kernel⟩,
   ⟨imgState ({ model0 with state := .removing, manifest := (parsed0 0).manifest }), waiter0, some (image0 0), bytesOf 64 [(1, 1), (12, 1)], { model0 with state := .removing, manifest := (parsed0 0).manifest }, parsed0 0, rfl, by decide +kernel, parsed_model, image_passes 0 (Or.inl rfl) rfl, rfl, rfl⟩,
   ⟨imgState ({ model0 with state := .loading, manifest := (parsed0 0).manifest, fetch := some { job0 with waiter := some waiter0 } }), waiter0, some (image0 0), bytesOf 64 [(1, 1), (12, 1)], { model0 with state := .loading, manifest := (parsed0 0).manifest, fetch := some { job0 with waiter := some waiter0 } }, parsed0 0, rfl, by decide +kernel, parsed_model, image_passes 0 (Or.inl rfl) rfl, rfl, rfl, rfl⟩,
   ⟨imgState ({ model0 with state := .loading, manifest := (parsed0 0).manifest }), waiter0, some (image0 0), bytesOf 64 [(1, 1), (12, 1)], { model0 with state := .loading, manifest := (parsed0 0).manifest }, parsed0 0, rfl, by decide +kernel, parsed_model, image_passes 0 (Or.inl rfl) rfl, rfl, rfl, rfl⟩,
   ⟨imgState ({ model0 with state := .filled, manifest := (parsed0 0).manifest }), waiter0, some (image0 0), bytesOf 64 [(1, 1), (12, 1)], { model0 with state := .filled, manifest := (parsed0 0).manifest }, parsed0 0, rfl, by decide +kernel, parsed_model, image_passes 0 (Or.inl rfl) rfl, by decide, by decide, by decide, rfl⟩,
   ⟨s0, waiter0, [], by decide +kernel⟩,
   ⟨modelState model0, { waiter0 with parcel := 2 }, bytesOf 64 [(1, 1)], _, rfl, by decide +kernel⟩,
   ⟨modelState model0, waiter0, bytesOf 64 [(1, 1)], _, rfl, by decide +kernel⟩,
   ⟨modelState { model0 with state := .filling }, waiter0, bytesOf 64 [(1, 1)], _, rfl, by decide +kernel⟩,
   ⟨modelState { model0 with state := .evicting }, waiter0, bytesOf 64 [(1, 1)], _, rfl, by decide +kernel⟩,
   ⟨keyed (serveState { model0 with state := .ready } []), waiter0, bytesOf 64 [(1, 1)], _, rfl, by decide +kernel⟩,
   ⟨modelState { model0 with state := .ready }, waiter0, bytesOf 64 [(1, 1)], _, rfl, by decide +kernel⟩,
   ⟨loadState, waiter0, bytesOf 64 [(1, 1)], _, rfl, by decide +kernel⟩,
   ⟨s0, waiter0, [], by decide +kernel⟩,
   ⟨modelState model0, { waiter0 with parcel := 2 }, bytesOf 64 [(1, 1)], _, rfl, by decide +kernel⟩,
   ⟨modelState { model0 with state := .filling }, waiter0, bytesOf 64 [(1, 1)], _, rfl, by decide +kernel⟩,
   ⟨modelState { model0 with state := .evicting }, waiter0, bytesOf 64 [(1, 1), (2, 1)], _, rfl, by decide +kernel⟩,
   ⟨modelState model0, waiter0, bytesOf 64 [(1, 1), (2, 1)], _, rfl, by decide +kernel⟩,
   ⟨modelState model0, waiter0, bytesOf 64 [(1, 1)], _, rfl, by decide +kernel⟩,
   ⟨loadState, waiter0, bytesOf 64 [(1, 1)], _, rfl, by decide +kernel⟩,
   ⟨s0, waiter0, none, [], by decide +kernel⟩,
   ⟨modelState model0, waiter0, none, bytesOf 64 [(1, 1)], _, rfl, by decide +kernel⟩,
   ⟨allUsed, waiter1, none, bytesOf 64 [(1, 1)], model0, rfl, Or.inl rfl, all_used⟩,
   ⟨modelState model0, waiter1, none, bytesOf 64 [(1, 1)], model0, 0, rfl, Or.inl rfl, by decide +kernel, rfl⟩,
   ⟨modelState model0, waiter1, some (image0 1), bytesOf 64 [(1, 1), (12, 1)], model0, 0, parsed0 1, rfl, Or.inl rfl, by decide +kernel, parsed_adapter, by decide, by decide +kernel⟩,
   ⟨imgState model0, waiter1, some (zeros 768), bytesOf 64 [(1, 1), (12, 1)], model0, 0, ⟨zeros 768, []⟩, 0x0102, by decide +kernel⟩,
   ⟨{ imgState model0 with parcels := [(1, { parcel0 with signE := 1, signN := onesN, qAdapters := 4, qRes := 0 })] }, waiter1, some (image0 1), bytesOf 64 [(1, 1), (12, 1)], model0, 0, parsed0 1, rfl, Or.inl rfl, by decide +kernel, parsed_adapter, Or.inr (by decide +kernel), image_passes 1 (Or.inr ⟨rfl, rfl⟩) rfl, by decide +kernel⟩,
   ⟨imgState model0, waiter1, some (image0 1), bytesOf 64 [(1, 1), (12, 1)], model0, 0, parsed0 1, ((imgState model0).findVersion 1 (leAt (parsed0 1).manifest 0x30 8)).get (by decide +kernel), rfl, Or.inl rfl, by decide +kernel, parsed_adapter, Or.inr (by decide +kernel), image_passes 1 (Or.inr ⟨rfl, rfl⟩) rfl, (Option.some_get _).symm⟩,
   ⟨s0, waiter0, none, [], by decide +kernel⟩,
   ⟨{ imgState model0 with adapters := [(0, { Adapter.reset with used := true, owner := 2, model := 256 })] }, waiter1, none, bytesOf 64 [(3, 1), (12, 1)], { Adapter.reset with used := true, owner := 2, model := 256 }, by decide +kernel⟩,
   ⟨{ imgState model0 with adapters := [(0, { Adapter.reset with used := true, owner := 1, withdrawing := true })] }, waiter0, none, bytesOf 64 [(3, 1), (12, 1)], { Adapter.reset with used := true, owner := 1, withdrawing := true }, by decide +kernel⟩,
   ⟨{ imgState model0 with adapters := [(0, { Adapter.reset with used := true, owner := 1, versions := [aver0] })] }, waiter0, none, bytesOf 64 [(3, 1), (12, 1)], { Adapter.reset with used := true, owner := 1, versions := [aver0] }, by decide +kernel⟩,
   ⟨{ imgState model0 with adapters := [(0, { Adapter.reset with used := true, owner := 1, highest := 65535 })] }, waiter0, none, bytesOf 64 [(3, 1), (12, 1)], { Adapter.reset with used := true, owner := 1, highest := 65535 }, by decide +kernel⟩,
   ⟨{ imgState model0 with adapters := [(0, { Adapter.reset with used := true, owner := 1, model := 256 })] }, waiter0, none, bytesOf 64 [(3, 1), (12, 1)], { Adapter.reset with used := true, owner := 1, model := 256 }, by decide +kernel⟩,
   ⟨{ imgState model0 with adapters := [(0, { Adapter.reset with used := true, owner := 1, model := 256 })] }, waiter0, some (zeros 768), bytesOf 64 [(3, 1), (12, 1)], { Adapter.reset with used := true, owner := 1, model := 256 }, ⟨zeros 768, []⟩, 0x0102, by decide +kernel⟩,
   ⟨{ { imgState model0 with parcels := [(1, { parcel0 with signE := 1, signN := onesN, qAdapters := 4, qRes := 0 })] } with adapters := [(0, { Adapter.reset with used := true, owner := 1, model := 256 })] }, waiter0, some (image0 1), bytesOf 64 [(3, 1), (12, 1)], { Adapter.reset with used := true, owner := 1, model := 256 }, parsed0 1, by decide +kernel, rfl, rfl, rfl, by decide, by decide, parsed_adapter, image_passes 1 (Or.inr ⟨rfl, rfl⟩) rfl, by decide +kernel⟩,
   ⟨{ imgState model0 with adapters := [(0, { Adapter.reset with used := true, owner := 1, model := 256 })] }, waiter0, some (image0 1), bytesOf 64 [(3, 1), (12, 1)], { Adapter.reset with used := true, owner := 1, model := 256 }, parsed0 1, (({ imgState model0 with adapters := [(0, { Adapter.reset with used := true, owner := 1, model := 256 })] } : State).findVersion 1 (leAt (parsed0 1).manifest 0x30 8)).get (by decide +kernel), by decide +kernel, rfl, rfl, rfl, by decide, by decide, parsed_adapter, image_passes 1 (Or.inr ⟨rfl, rfl⟩) rfl, (Option.some_get _).symm⟩,
   ⟨s0, waiter0, [], by decide +kernel⟩,
   ⟨{ imgState model0 with adapters := [(0, { Adapter.reset with used := true, owner := 2, model := 256 })] }, waiter1, bytesOf 64 [(3, 1), (12, 1)], { Adapter.reset with used := true, owner := 2, model := 256 }, by decide +kernel⟩,
   ⟨{ imgState model0 with adapters := [(0, { Adapter.reset with used := true, owner := 1, withdrawing := true })] }, waiter0, bytesOf 64 [(3, 1), (12, 1)], { Adapter.reset with used := true, owner := 1, withdrawing := true }, by decide +kernel⟩,
   ⟨{ imgState model0 with adapters := [(0, { Adapter.reset with used := true, owner := 1, model := 256 })] }, waiter0, bytesOf 64 [(3, 1), (12, 1)], { Adapter.reset with used := true, owner := 1, model := 256 }, by decide +kernel⟩,
   ⟨s0, waiter0, none, [], by decide +kernel⟩,
   ⟨modelState model0, { waiter0 with parcel := 2 }, none, bytesOf 64 [(1, 1)], _, rfl, by decide +kernel⟩,
   ⟨modelState model0, waiter0, _, bytesOf 64 [(1, 1)], _, rfl, by decide +kernel, rfl⟩,
   ⟨modelState model0, waiter0, some (bytesOf 64 []), bytesOf 64 [(1, 1)], _, _, _, rfl, by decide +kernel, rfl, rfl⟩,
   ⟨s0, _, rfl⟩⟩

set_option maxRecDepth 4000 in
/-- States and operands that meet the hypotheses of `EdushServingRequestsHaveTheirEffect`, clause by clause. -/
theorem witness_EdushServingRequestsHaveTheirEffect :
  (∃ (m : Mail) (s a : State), passes s ⟨0x38, m⟩ ∧ accepted s ⟨0x38, m⟩ = a) ∧
  (∃ (m : Mail) (s a : State), passes s ⟨0x39, m⟩ ∧ accepted s ⟨0x39, m⟩ = a) ∧
  (∃ (m : Mail) (s a : State), passes s ⟨0x40, m⟩ ∧ accepted s ⟨0x40, m⟩ = a) ∧
  (∃ (m : Mail) (s a : State), passes s ⟨0x41, m⟩ ∧ accepted s ⟨0x41, m⟩ = a) ∧
  (∃ (m : Mail) (s a : State), passes s ⟨0x50, m⟩ ∧ accepted s ⟨0x50, m⟩ = a) ∧
  (∃ (m : Mail) (s a : State), passes s ⟨0x51, m⟩ ∧ accepted s ⟨0x51, m⟩ = a) ∧
  (∃ (m : Mail) (s a : State), passes s ⟨0x52, m⟩ ∧ accepted s ⟨0x52, m⟩ = a) ∧
  (∃ (m : Mail) (s a : State), passes s ⟨0x90, m⟩ ∧ accepted s ⟨0x90, m⟩ = a) ∧
  (∃ (s : State) (w : Waiter) (l : Bytes), (s.req (leAt l 0 4) = none ∨ (∃ r, s.req (leAt l 0 4) = some r ∧ r.home ≠ 0))) ∧
  (∃ (s : State) (w : Waiter) (l : Bytes) (r : Req), s.req (leAt l 0 4) = some r ∧ r.home = 0 ∧ ownerOk w.parcel r.parcel = false) ∧
  (∃ (s : State) (w : Waiter) (l : Bytes) (r : Req), s.req (leAt l 0 4) = some r ∧ r.home = 0 ∧ ownerOk w.parcel r.parcel = true ∧ r.mayPin (leAt l 4 4) = false) ∧
  (∃ (s : State) (w : Waiter) (l : Bytes) (r : Req), s.req (leAt l 0 4) = some r ∧ r.home = 0 ∧ ownerOk w.parcel r.parcel = true ∧ r.mayPin (leAt l 4 4) = true ∧ s.modelOf r.model = none) ∧
  (∃ (s : State) (w : Waiter) (l : Bytes) (r : Req) (x : Model), s.req (leAt l 0 4) = some r ∧ r.home = 0 ∧ ownerOk w.parcel r.parcel = true ∧ r.mayPin (leAt l 4 4) = true ∧ s.modelOf r.model = some x ∧ (s.freePrefix = none ∨ (s.parcel r.parcel).qRes * mib2 < s.resUsed r.parcel + x.pinLen (leAt l 4 4) ∨ s.pinBase r (x.pinLen (leAt l 4 4)) = none)) ∧
  (∃ (s : State) (w : Waiter) (l : Bytes) (r : Req) (x : Model) (i base : Nat), s.req (leAt l 0 4) = some r ∧ r.home = 0 ∧ ownerOk w.parcel r.parcel = true ∧ r.mayPin (leAt l 4 4) = true ∧ s.modelOf r.model = some x ∧ s.freePrefix = some i ∧ s.resUsed r.parcel + x.pinLen (leAt l 4 4) ≤ (s.parcel r.parcel).qRes * mib2 ∧ s.pinBase r (x.pinLen (leAt l 4 4)) = some base) ∧
  (∃ (s : State) (w : Waiter) (l : Bytes) (y : Prefix), s.prefixAt (leAt l 0 8 % 2 ^ 46) = y ∧ (y.used = false ∨ y.pinned = false ∨ y.gen ≠ leAt l 0 8 / 2 ^ 56 ∨ y.parcel ≠ leAt l 0 8 / 2 ^ 46 % 2 ^ 10)) ∧
  (∃ (s : State) (w : Waiter) (l : Bytes) (y : Prefix), s.prefixAt (leAt l 0 8 % 2 ^ 46) = y ∧ y.used = true ∧ y.pinned = true ∧ y.gen = leAt l 0 8 / 2 ^ 56 ∧ y.parcel = leAt l 0 8 / 2 ^ 46 % 2 ^ 10 ∧ ownerOk w.parcel y.parcel = false) ∧
  (∃ (s : State) (w : Waiter) (l : Bytes) (y : Prefix), s.prefixAt (leAt l 0 8 % 2 ^ 46) = y ∧ y.used = true ∧ y.pinned = true ∧ y.gen = leAt l 0 8 / 2 ^ 56 ∧ y.parcel = leAt l 0 8 / 2 ^ 46 % 2 ^ 10 ∧ ownerOk w.parcel y.parcel = true ∧ y.refs = 0) ∧
  (∃ (s : State) (w : Waiter) (l : Bytes) (y : Prefix), s.prefixAt (leAt l 0 8 % 2 ^ 46) = y ∧ y.used = true ∧ y.pinned = true ∧ y.gen = leAt l 0 8 / 2 ^ 56 ∧ y.parcel = leAt l 0 8 / 2 ^ 46 % 2 ^ 10 ∧ ownerOk w.parcel y.parcel = true ∧ y.refs ≠ 0) ∧
  (∃ (s : State) (p : Nat) (l : Bytes), (s.ring (leAt l 0 1)).state = 2) ∧
  (∃ (s : State) (p : Nat) (l : Bytes), (s.ring (leAt l 0 1)).state ≠ 2 ∧ ((s.ring (leAt l 0 1)).state ≠ 0 ∨ ringsOverlap s (leAt l 4 4) (2 ^ leAt l 1 1))) ∧
  (∃ (s : State) (p : Nat) (l : Bytes), (s.ring (leAt l 0 1)).state = 0 ∧ ¬ ringsOverlap s (leAt l 4 4) (2 ^ leAt l 1 1) ∧ (16384 < slotsHeld s + 2 ^ leAt l 1 1 ∨ (p ≠ 0 ∧ ((s.parcel p).qRings ≤ ringsOf s p ∨ (s.parcel p).qRes * mib2 < s.resUsed p + upMib (leAt l 8 4 * 2 ^ 20))) ∨ s.findSpace 1 (leAt l 2 1) (upMib (leAt l 8 4 * 2 ^ 20)) = none)) ∧
  (∃ (s : State) (p : Nat) (l : Bytes) (base : Nat), (s.ring (leAt l 0 1)).state = 0 ∧ ¬ ringsOverlap s (leAt l 4 4) (2 ^ leAt l 1 1) ∧ slotsHeld s + 2 ^ leAt l 1 1 ≤ 16384 ∧ (p = 0 ∨ (ringsOf s p < (s.parcel p).qRings ∧ s.resUsed p + upMib (leAt l 8 4 * 2 ^ 20) ≤ (s.parcel p).qRes * mib2)) ∧ s.findSpace 1 (leAt l 2 1) (upMib (leAt l 8 4 * 2 ^ 20)) = some base) ∧
  (∃ (s : State) (w : Waiter) (l : Bytes), ((s.ring (leAt l 0 1)).state ≠ 1 ∨ ownerOk w.parcel (s.ring (leAt l 0 1)).owner = false)) ∧
  (∃ (s : State) (w : Waiter) (l : Bytes), (s.ring (leAt l 0 1)).state = 1 ∧ ownerOk w.parcel (s.ring (leAt l 0 1)).owner = true) ∧
  (∃ (s : State) (p : Nat) (l x : Bytes), s.statsRecord p (leAt l 0 2) (leAt l 2 2) = some x) ∧
  (∃ (s : State) (p : Nat) (l : Bytes), s.statsRecord p (leAt l 0 2) (leAt l 2 2) = none) ∧
  (∃ (s : State) (r : EdReq) (p : Nat) (l : Bytes), leAt l 1 1 = 0x84) ∧
  (∃ (s : State) (r : EdReq) (p : Nat) (l : Bytes), leAt l 1 1 ≠ 0x84 ∧ (leAt l 0 1 ≠ 0x12 ∨ leAt l 1 1 ∉ ([0x81, 0x82, 0x83, 0xE0, 0xE1, 0xE3] : List Nat))) ∧
  (∃ (s : State) (r : EdReq) (p : Nat) (l : Bytes), leAt l 0 1 = 0x12 ∧ ((leAt l 1 1 = 0xE1 ∧ (SMap.get (⟨0⟩ : Spdm) s.sec.spdm p).stage ≠ 1) ∨ (leAt l 1 1 = 0xE3 ∧ (SMap.get (⟨0⟩ : Spdm) s.sec.spdm p).stage ≠ 2) ∨ (leAt l 1 1 ∈ ([0x81, 0x82, 0x83, 0xE0] : List Nat) ∧ (SMap.get (⟨0⟩ : Spdm) s.sec.spdm p).stage ≠ 3))) ∧
  (∃ (s : State) (r : EdReq) (p : Nat) (l : Bytes), leAt l 0 1 = 0x12 ∧ leAt l 1 1 = 0xE1 ∧ (SMap.get (⟨0⟩ : Spdm) s.sec.spdm p).stage = 1) ∧
  (∃ (s : State) (r : EdReq) (p : Nat) (l : Bytes), leAt l 0 1 = 0x12 ∧ leAt l 1 1 = 0xE3 ∧ (SMap.get (⟨0⟩ : Spdm) s.sec.spdm p).stage = 2 ∧ spdmAlgOk l = true) ∧
  (∃ (s : State) (r : EdReq) (p : Nat) (l : Bytes), leAt l 0 1 = 0x12 ∧ leAt l 1 1 ∈ ([0x81, 0x82, 0x83, 0xE0] : List Nat) ∧ (SMap.get (⟨0⟩ : Spdm) s.sec.spdm p).stage = 3) :=
  ⟨⟨mailOf 0x38 1 (toLe 4 5 ++ toLe 4 64) (none) 0, keyed { s0 with parcels := [(1, { Parcel.reset with state := .enabled })] }, _, pass, rfl⟩,
   ⟨mailOf 0x39 1 (toLe 8 (2 ^ 56 + 2 ^ 46)) (none) 0, keyed { s0 with parcels := [(1, { Parcel.reset with state := .enabled })] }, _, pass, rfl⟩,
   ⟨mailOf 0x40 0 (bytesOf 0x18 [(1, 4), (3, 6), (8, 1)]), keyed s0, _, pass, rfl⟩,
   ⟨mailOf 0x41 1 ([0]), keyed { s0 with parcels := [(1, { Parcel.reset with state := .enabled })] }, _, pass, rfl⟩,
   ⟨mailOf 0x50 1 (bytesOf 10 [(0, 1)]), keyed { s0 with parcels := [(1, { Parcel.reset with state := .enabled })] }, _, pass, rfl⟩,
   ⟨mailOf 0x51 0 (bytesOf 16 [(0, 2), (2, 1)]), keyed s0, _, pass, rfl⟩,
   ⟨mailOf 0x52 0 (bytesOf 6 [(4, 1)]), keyed s0, accepted (keyed s0) ⟨0x52, mailOf 0x52 0 (bytesOf 6 [(4, 1)])⟩, pass, rfl⟩,
   ⟨mailOf 0x90 0 ([0x12, 0x84, 0, 0]), keyed s0, _, pass, rfl⟩,
   ⟨s0, waiter0, [], by decide +kernel⟩,
   ⟨{ modelState model0 with parcels := [(1, parcel0)], serve := { Serve.reset with reqs := [{ req0 with model := 256, state := .decode, pos := 64 }] } }, { waiter0 with parcel := 2 }, bytesOf 8 [(0, 5)], { req0 with model := 256, state := .decode, pos := 64 }, by decide +kernel⟩,
   ⟨{ modelState model0 with parcels := [(1, parcel0)], serve := { Serve.reset with reqs := [{ req0 with model := 256, state := .decode, pos := 64 }] } }, waiter1, bytesOf 8 [(0, 5)], { req0 with model := 256, state := .decode, pos := 64 }, by decide +kernel⟩,
   ⟨{ s0 with parcels := [(1, parcel0)], serve := { Serve.reset with reqs := [{ req0 with model := 256, state := .decode, pos := 64 }] } }, waiter1, bytesOf 8 [(0, 5), (4, 64)], { req0 with model := 256, state := .decode, pos := 64 }, by decide +kernel⟩,
   ⟨{ { modelState model0 with parcels := [(1, parcel0)], serve := { Serve.reset with reqs := [{ req0 with model := 256, state := .decode, pos := 64 }] } } with parcels := [(1, { parcel0 with qRes := 0 })] }, waiter1, bytesOf 8 [(0, 5), (4, 3)], { req0 with model := 256, state := .decode, pos := 64 }, model0, by decide +kernel⟩,
   ⟨{ modelState model0 with parcels := [(1, parcel0)], serve := { Serve.reset with reqs := [{ req0 with model := 256, state := .decode, pos := 64 }] } }, waiter1, bytesOf 8 [(0, 5), (4, 64)], { req0 with model := 256, state := .decode, pos := 64 }, model0, 0, 0, by decide +kernel⟩,
   ⟨s0, waiter0, [], _, rfl, by decide +kernel⟩,
   ⟨{ s0 with serve := { Serve.reset with prefixes := [(0, { Prefix.reset with used := true, pinned := true, parcel := 1 })] } }, { waiter0 with parcel := 2 }, bytesOf 8 [(5, 64), (7, 1)], _, rfl, by decide +kernel⟩,
   ⟨{ s0 with serve := { Serve.reset with prefixes := [(0, { Prefix.reset with used := true, pinned := true, parcel := 1 })] } }, waiter1, bytesOf 8 [(5, 64), (7, 1)], _, rfl, by decide +kernel⟩,
   ⟨{ s0 with serve := { Serve.reset with prefixes := [(0, { Prefix.reset with used := true, pinned := true, parcel := 1, refs := 1 })] } }, waiter1, bytesOf 8 [(5, 64), (7, 1)], _, rfl, by decide +kernel⟩,
   ⟨ringState { ring0 with state := 2 }, 0, [], by decide +kernel⟩,
   ⟨{ { s0 with mail := { MailSt.reset with linkUp := [(0, true)] } } with serve := { Serve.reset with rings := [(0, { ring0 with key := 7 })] } }, 0, [], by unfold ringsOverlap; decide +kernel⟩,
   ⟨s0, 0, toLe 4 0x4C4F5050, by unfold ringsOverlap; decide +kernel⟩,
   ⟨modelState model0, 0, bytesOf 12 [(1, 2)], 0, by unfold ringsOverlap; decide +kernel⟩,
   ⟨s0, waiter0, [], by decide +kernel⟩,
   ⟨{ { s0 with mail := { MailSt.reset with linkUp := [(0, true)] } } with serve := { Serve.reset with rings := [(0, { ring0 with key := 7 })] } }, waiter0, [], by decide +kernel⟩,
   ⟨s0, 0, [1], _, rfl⟩,
   ⟨s0, 0, [], by decide +kernel⟩,
   ⟨s0, ⟨0x90, mailOf 0x90 1 []⟩, 1, bytesOf 4 [(1, 0x84)], by decide +kernel⟩,
   ⟨s0, ⟨1, mailOf 1 0 []⟩, 0, [], by decide +kernel⟩,
   ⟨s0, ⟨0x90, mailOf 0x90 1 []⟩, 1, bytesOf 4 [(0, 0x12), (1, 0xE1)], by decide +kernel⟩,
   ⟨{ s0 with sec := { s0.sec with spdm := [(1, ⟨1⟩)] } }, ⟨0x90, mailOf 0x90 1 []⟩, 1, bytesOf 4 [(0, 0x12), (1, 0xE1)], by decide +kernel⟩,
   ⟨{ s0 with sec := { s0.sec with spdm := [(1, ⟨2⟩)] } }, ⟨0x90, mailOf 0x90 1 []⟩, 1, bytesOf 32 [(0, 0x12), (1, 0xE3), (6, 1), (8, 32), (12, 4)], by decide +kernel⟩,
   ⟨{ s0 with sec := { s0.sec with spdm := [(1, ⟨3⟩)] } }, ⟨0x90, mailOf 0x90 1 []⟩, 1, bytesOf 4 [(0, 0x12), (1, 0x81)], by decide +kernel⟩⟩

set_option maxRecDepth 4000 in
/-- States and operands that meet the hypotheses of `EdushModuleRequestsHaveTheirEffect`, clause by clause. -/
theorem witness_EdushModuleRequestsHaveTheirEffect :
  (∃ (m : Mail) (s a : State), passes s ⟨0x60, m⟩ ∧ accepted s ⟨0x60, m⟩ = a) ∧
  (∃ (m : Mail) (s a : State), passes s ⟨0x61, m⟩ ∧ accepted s ⟨0x61, m⟩ = a) ∧
  (∃ (m : Mail) (s a : State), passes s ⟨0x62, m⟩ ∧ accepted s ⟨0x62, m⟩ = a) ∧
  (∃ (m : Mail) (s a : State), passes s ⟨0x70, m⟩ ∧ accepted s ⟨0x70, m⟩ = a) ∧
  (∃ (m : Mail) (s a : State), passes s ⟨0x71, m⟩ ∧ accepted s ⟨0x71, m⟩ = a ∧ leAt m.payload 0 1 = 0) ∧
  (∃ (m : Mail) (s a : State), passes s ⟨0x71, m⟩ ∧ accepted s ⟨0x71, m⟩ = a ∧ leAt m.payload 0 1 = 1) ∧
  (∃ (m : Mail) (s a : State), passes s ⟨0x71, m⟩ ∧ accepted s ⟨0x71, m⟩ = a ∧ leAt m.payload 0 1 = 2 ∧ leAt m.payload 1 1 = 0) ∧
  (∃ (m : Mail) (s a : State), passes s ⟨0x71, m⟩ ∧ accepted s ⟨0x71, m⟩ = a ∧ leAt m.payload 0 1 = 2 ∧ leAt m.payload 1 1 = 1) ∧
  (∃ (m : Mail) (s a : State), passes s ⟨0x78, m⟩ ∧ accepted s ⟨0x78, m⟩ = a ∧ leAt m.payload 1 1 = 0) ∧
  (∃ (m : Mail) (s a : State), passes s ⟨0x78, m⟩ ∧ accepted s ⟨0x78, m⟩ = a ∧ leAt m.payload 1 1 = 1) ∧
  (∃ (m : Mail) (s a : State), passes s ⟨0x78, m⟩ ∧ accepted s ⟨0x78, m⟩ = a ∧ leAt m.payload 1 1 = 2) ∧
  (∃ (m : Mail) (s a : State), passes s ⟨0x79, m⟩ ∧ accepted s ⟨0x79, m⟩ = a) ∧
  (∃ (m : Mail) (s a : State), passes s ⟨0x80, m⟩ ∧ accepted s ⟨0x80, m⟩ = a) ∧
  (∃ (m : Mail) (s a : State), passes s ⟨0x80, m⟩ ∧ accepted s ⟨0x80, m⟩ = a) ∧
  (∃ (m : Mail) (s a : State), passes s ⟨0x81, m⟩ ∧ accepted s ⟨0x81, m⟩ = a) ∧
  (∃ (s : State) (w : Waiter) (l : Bytes), s.fab.discovering = true) ∧
  (∃ (s : State) (w : Waiter) (l : Bytes), s.fab.discovering = false) ∧
  (∃ (s : State) (i : Nat), i < 12 ∧ (s.fport i).state = .quarantined ∧ (∀ j, j < 12 → (s.fport j).state ≠ .up)) ∧
  (∃ (s : State) (w : Waiter) (l : Bytes), ((s.power.trains.any (fun j => j.kind == leAt l 0 1 && j.index == leAt l 1 1)) = true ∨ (leAt l 0 1 = 0 ∧ (s.fport (leAt l 1 1)).state = .recover))) ∧
  (∃ (s : State) (w : Waiter) (l : Bytes), (s.power.trains.any (fun j => j.kind == leAt l 0 1 && j.index == leAt l 1 1)) = false ∧ (leAt l 0 1 ≠ 0 ∨ (s.fport (leAt l 1 1)).state ≠ .recover)) ∧
  (∃ (s : State) (w : Waiter) (l : Bytes) (x : PwrMode), x = pwrModeOf (leAt l 1 1) ∧ (s.power.mode = .starting ∨ s.power.going ≠ none ∨ s.power.waits ≠ [])) ∧
  (∃ (s : State) (w : Waiter) (l : Bytes) (x : PwrMode), x = pwrModeOf (leAt l 1 1) ∧ s.power.mode ≠ .starting ∧ s.power.going = none ∧ s.power.waits = [] ∧ s.power.mode = x) ∧
  (∃ (s : State) (w : Waiter) (l : Bytes) (x : PwrMode), x = pwrModeOf (leAt l 1 1) ∧ s.power.mode ≠ .starting ∧ s.power.going = none ∧ s.power.waits = [] ∧ s.power.mode ≠ x ∧ (s.power.thermHold = true ∨ s.power.coolHold = true)) ∧
  (∃ (s : State) (w : Waiter) (l : Bytes) (x : PwrMode), x = pwrModeOf (leAt l 1 1) ∧ s.power.mode ≠ .starting ∧ s.power.going = none ∧ s.power.waits = [] ∧ s.power.mode ≠ x ∧ s.power.thermHold = false ∧ s.power.coolHold = false) ∧
  (∃ (s : State) (w : Waiter) (l : Bytes) (o : Option Bytes), (s.box 0).key = none ∧ (oaepDecrypt Config.identityN.toNat Config.identityD.toNat (slice l 8 512)).filter (fun k => k.length == 64) = o) ∧
  (∃ (s : State) (w : Waiter) (l : Bytes) (k : Bytes), (s.box 0).key = some k) ∧
  (∃ (s : State) (w : Waiter) (l : Bytes) (k : Bytes) (seq : Nat), (s.box 0).key = some k) ∧
  (∃ (s : State) (w : Waiter) (l : Bytes) (seq : Nat), (s.box 0).key = none) ∧
  (∃ (s : State) (w : Waiter) (q : Nat), (s.power.jobs.any (fun j => j.quad == q)) = true) ∧
  (∃ (s : State) (w : Waiter) (q : Nat), (s.power.jobs.any (fun j => j.quad == q)) = true) ∧
  (∃ (s : State) (w : Waiter) (q : Nat), (s.power.jobs.any (fun j => j.quad == q)) = true) ∧
  (∃ (s : State) (w : Waiter) (q : Nat), (s.power.jobs.any (fun j => j.quad == q)) = false ∧ (SMap.get 0 s.power.outQuads q ≠ 0 ∨ (∀ x, x < 4 → x ≠ q → SMap.get 0 s.power.outQuads x ≠ 0))) ∧
  (∃ (s : State) (w : Waiter) (q : Nat) (x : Nat), (s.power.jobs.any (fun j => j.quad == q)) = false ∧ SMap.get 0 s.power.outQuads q = 0 ∧ x < 4 ∧ x ≠ q ∧ SMap.get 0 s.power.outQuads x = 0) ∧
  (∃ (s : State) (w : Waiter) (q : Nat), (s.power.jobs.any (fun j => j.quad == q)) = false ∧ SMap.get 0 s.power.outQuads q = 0) ∧
  (∃ (s : State) (w : Waiter) (q : Nat), (s.power.jobs.any (fun j => j.quad == q)) = false ∧ SMap.get 0 s.power.outQuads q ≠ 0) ∧
  (∃ (s : State) (w : Waiter) (q : Nat), (s.power.jobs.any (fun j => j.quad == q)) = false ∧ SMap.get 0 s.power.outQuads q = 0) ∧
  (∃ (s : State) (w : Waiter) (q : Nat), (s.power.jobs.any (fun j => j.quad == q)) = false ∧ SMap.get 0 s.power.outQuads q = 2) ∧
  (∃ (s : State) (w : Waiter) (q : Nat), (s.power.jobs.any (fun j => j.quad == q)) = false ∧ SMap.get 0 s.power.outQuads q ≠ 0 ∧ SMap.get 0 s.power.outQuads q ≠ 2) ∧
  (∃ (s : State) (w : Waiter) (l : Bytes), (s.power.trains.any (fun j => j.kind == 3 && j.index == leAt l 0 1)) = true) ∧
  (∃ (s : State) (w : Waiter) (l : Bytes), (s.power.trains.any (fun j => j.kind == 3 && j.index == leAt l 0 1)) = false) ∧
  (∃ (s : State) (w : Waiter) (f : Option Bytes) (l : Bytes), (s.sec.staging ≠ none ∨ s.sec.activation ≠ none)) ∧
  (∃ (s : State) (w : Waiter) (f : Option Bytes) (l : Bytes), s.sec.staging = none ∧ s.sec.activation = none ∧ (f.any (fun x => leAt x 0 4 == 0x4C4F5050)) = true) ∧
  (∃ (s : State) (w : Waiter) (f : Option Bytes) (l : Bytes), s.sec.staging = none ∧ s.sec.activation = none ∧ (f.any (fun x => leAt x 0 4 == 0x4C4F5050)) = false) ∧
  (∃ (s : State) (f : Bytes), f.length = leAt f 0x10 4 + 768 ∧ policyOk f = true ∧ s.policySigned f = true ∧ (s.parcel (leAt f 8 2)).state = .enabled ∧ (∀ k, k < 4 → ∀ y, s.policy k = some y → (y.parcel = leAt f 8 2 ↔ k = leAt f 6 1))) ∧
  (∃ (s : State) (w : Waiter), (s.sec.staging ≠ none ∨ s.sec.activation ≠ none)) ∧
  (∃ (s : State) (w : Waiter), s.sec.staging = none ∧ s.sec.activation = none) :=
  ⟨⟨mailOf 0x60 0 (bytesOf 208 []), keyed s0, _, pass, rfl⟩,
   ⟨mailOf 0x61 0 ([]), keyed s0, accepted (keyed s0) ⟨0x61, mailOf 0x61 0 ([])⟩, pass, rfl⟩,
   ⟨mailOf 0x62 0 ([1, 0]), keyed s0, _, pass, rfl⟩,
   ⟨mailOf 0x70 0 (toLe 4 1000), keyed s0, accepted (keyed s0) ⟨0x70, mailOf 0x70 0 (toLe 4 1000)⟩, pass, rfl⟩,
   ⟨mailOf 0x71 0 ([0, 4, 0]), keyed s0, _, pass, rfl, by decide +kernel⟩,
   ⟨mailOf 0x71 0 (bytesOf 56 [(0, 1), (1, 1)]), keyed s0, accepted (keyed s0) ⟨0x71, mailOf 0x71 0 (bytesOf 56 [(0, 1), (1, 1)])⟩, pass, rfl, by decide +kernel⟩,
   ⟨mailOf 0x71 0 (bytesOf 0x208 [(0, 2)]), keyed s0, _, pass, rfl, by decide +kernel, by decide +kernel⟩,
   ⟨mailOf 0x71 0 (bytesOf 0x48 [(0, 2), (1, 1)]), keyed s0, _, pass, rfl, by decide +kernel⟩,
   ⟨mailOf 0x78 0 ([3, 0]), keyed s0, _, pass, rfl, by decide +kernel⟩,
   ⟨mailOf 0x78 0 ([0, 1]), keyed s0, _, pass, rfl, by decide +kernel⟩,
   ⟨mailOf 0x78 0 ([0, 2]), keyed s0, _, pass, rfl, by decide +kernel⟩,
   ⟨mailOf 0x79 0 ([23]), keyed s0, _, pass, rfl⟩,
   ⟨mailOf 0x80 0 (bytesOf 0x90 [(9, 1)]), keyed s0, _, pass, rfl⟩,
   ⟨mailOf 0x80 0 (bytesOf 0x90 [(9, 1)]), keyed s0, _, pass, rfl⟩,
   ⟨mailOf 0x81 0 [], keyed s0, _, pass, rfl⟩,
   ⟨{ s0 with fab := { Fab.reset with discovering := true } }, waiter0, [], by decide +kernel⟩,
   ⟨s0, waiter0, [], by decide +kernel⟩,
   ⟨{ s0 with fab := { Fab.reset with ports := [(0, { FabPort.reset with state := .quarantined })] } }, 0, by decide +kernel⟩,
   ⟨portState { FabPort.reset with state := .recover }, waiter0, [], by decide +kernel⟩,
   ⟨s0, waiter0, [], by decide +kernel⟩,
   ⟨State.reset, waiter0, [], _, rfl, by decide +kernel⟩,
   ⟨s0, waiter0, [1, 1], _, rfl, by decide +kernel⟩,
   ⟨powerState { pw0 with thermHold := true, temps := [(9, 85)] }, waiter0, [], _, rfl, by decide +kernel⟩,
   ⟨s0, waiter0, [], _, rfl, by decide +kernel⟩,
   ⟨s0, waiter0, [], _, by decide +kernel, rfl⟩,
   ⟨keyed s0, waiter0, [], _, rfl⟩,
   ⟨keyed s0, waiter0, [], _, 0, rfl⟩,
   ⟨s0, waiter0, [], 0, by decide +kernel⟩,
   ⟨powerState { pw0 with jobs := [⟨3, 1, waiter0, 0, 0⟩] }, waiter0, 3, by decide +kernel⟩,
   ⟨powerState { pw0 with jobs := [⟨3, 1, waiter0, 0, 0⟩] }, waiter0, 3, by decide +kernel⟩,
   ⟨powerState { pw0 with jobs := [⟨3, 1, waiter0, 0, 0⟩] }, waiter0, 3, by decide +kernel⟩,
   ⟨powerState { pw0 with outQuads := [(0, 1)] }, waiter0, 0, by decide +kernel⟩,
   ⟨s0, waiter0, 0, 1, by decide +kernel⟩,
   ⟨s0, waiter0, 0, by decide +kernel⟩,
   ⟨keyed { s0 with power := { s0.power with outQuads := [(0, 1)] } }, waiter0, 0, by decide +kernel⟩,
   ⟨s0, waiter0, 0, by decide +kernel⟩,
   ⟨keyed { s0 with power := { s0.power with outQuads := [(0, 2)] } }, waiter0, 0, by decide +kernel⟩,
   ⟨keyed { s0 with power := { s0.power with outQuads := [(0, 1)] } }, waiter0, 0, by decide +kernel⟩,
   ⟨powerState { pw0 with trains := [⟨3, 0, waiter0⟩] }, waiter0, [], by decide +kernel⟩,
   ⟨s0, waiter0, [], by decide +kernel⟩,
   ⟨{ s0 with sec := { Sec.reset with staging := some stg0 } }, waiter0, none, [], by decide +kernel⟩,
   ⟨s0, waiter0, some [0x50, 0x50, 0x4F, 0x4C], [], by decide +kernel⟩,
   ⟨s0, waiter0, none, [], by decide +kernel⟩,
   ⟨{ s0 with parcels := [(1, { parcel0 with signE := 1, signN := onesN })] }, policyImage, by decide +kernel, by decide +kernel, by decide +kernel, rfl, fun _ _ _ h => nomatch h⟩,
   ⟨{ s0 with sec := { Sec.reset with staging := some stg0 } }, waiter0, by decide +kernel⟩,
   ⟨s0, waiter0, by decide +kernel⟩⟩

set_option maxRecDepth 4000 in
/-- States and operands that meet the hypotheses of `LinksTrainIdentifyAndRecover`, clause by clause. -/
theorem witness_LinksTrainIdentifyAndRecover :
  (∃ (port : Fin 12) (t : Nat) (s : State), (s.fport port.val).state = .down ∧ (s.fport port.val).enable = true) ∧
  (∃ (port : Fin 12) (t : Nat) (s : State), ¬ ((s.fport port.val).state = .down ∧ (s.fport port.val).enable = true)) ∧
  (∃ (port : Fin 12) (t : Nat) (s : State), (s.fport port.val).state = .training) ∧
  (∃ (port : Fin 12) (lanes : BitVec 4) (t : Nat) (s : State), (s.fport port.val).state ≠ .training) ∧
  (∃ (port : Fin 12) (lanes : BitVec 4) (t : Nat) (s : State), (s.fport port.val).state = .training) ∧
  (∃ (port : Fin 12) (serial : BitVec 64) (slot : BitVec 2) (far : BitVec 4) (step : BitVec 8) (rtt : BitVec 16) (t : Nat) (s : State), (s.fport port.val).state = .ident ∧ planned s port.val serial.toNat slot.toNat far.toNat step.toNat) ∧
  (∃ (port : Fin 12) (serial : BitVec 64) (slot : BitVec 2) (far : BitVec 4) (step : BitVec 8) (rtt : BitVec 16) (t : Nat) (s : State), (s.fport port.val).state = .ident ∧ ¬ planned s port.val serial.toNat slot.toNat far.toNat step.toNat) ∧
  (∃ (port : Fin 12) (serial : BitVec 64) (slot : BitVec 2) (far : BitVec 4) (step : BitVec 8) (rtt : BitVec 16) (t : Nat) (s : State), (s.fport port.val).state = .up ∧ planned s port.val serial.toNat slot.toNat far.toNat step.toNat) ∧
  (∃ (port : Fin 12) (serial : BitVec 64) (slot : BitVec 2) (far : BitVec 4) (step : BitVec 8) (rtt : BitVec 16) (t : Nat) (s : State), (s.fport port.val).state = .up ∧ ¬ planned s port.val serial.toNat slot.toNat far.toNat step.toNat) ∧
  (∃ (port : Fin 12) (serial : BitVec 64) (slot : BitVec 2) (far : BitVec 4) (step : BitVec 8) (rtt : BitVec 16) (t : Nat) (s : State), (s.fport port.val).state = .quarantined) ∧
  (∃ (port : Fin 12) (serial : BitVec 64) (slot : BitVec 2) (far : BitVec 4) (step : BitVec 8) (rtt : BitVec 16) (t : Nat) (s : State), ((s.fport port.val).state = .down ∨ (s.fport port.val).state = .training ∨ (s.fport port.val).state = .recover)) ∧
  (∃ (port : Fin 12) (s : State), ((s.fport port.val).state = .up ∨ (s.fport port.val).state = .ident ∨ (s.fport port.val).state = .quarantined) ∧ (s.fport port.val).replay.length < 512) ∧
  (∃ (port : Fin 12) (s : State), (512 ≤ (s.fport port.val).replay.length ∨ (s.fport port.val).state = .down ∨ (s.fport port.val).state = .training ∨ (s.fport port.val).state = .recover)) ∧
  (∃ (port : Fin 12) (replay : Bool) (t : Nat) (s : State), (s.fport port.val).state = .up) ∧
  (∃ (port : Fin 12) (replay : Bool) (t : Nat) (s : State), (s.fport port.val).state ≠ .up) ∧
  (∃ (port : Fin 12) (t : Nat) (s : State), (s.fport port.val).state = .recover ∧ s.benchOk port.val = true) ∧
  (∃ (port : Fin 12) (s : State), (∀ f, f ∈ (s.fport port.val).replay → f.sends < 7)) ∧
  (∃ (port : Fin 12) (s : State) (f : SentFlit), (s.fport port.val).state = .up ∧ f ∈ (s.fport port.val).replay ∧ 7 ≤ f.sends) ∧
  (∃ (port : Fin 12) (t : Nat) (s : State), (s.fport port.val).state = .recover ∧ s.benchOk port.val = false) ∧
  (∃ (port : Fin 12) (same : Bool) (t : Nat) (s : State), (same = false ∨ (s.fport port.val).state ≠ .recover)) ∧
  (∃ (port : Fin 12) (t : Nat) (s : State), (s.fport port.val).state = .recover) ∧
  (∃ (port : Fin 12) (t : Nat) (s : State), (s.fport port.val).state ≠ .recover) ∧
  (∃ (t : Nat) (s : State), s.fab.discovering = true) ∧
  (∃ (t : Nat) (s : State), s.fab.discovering = false) ∧
  (∃ (port : Fin 12) (s : State), ((s.fport port.val).state = .up ∨ (s.fport port.val).state = .recover)) ∧
  (∃ (port : Fin 12) (s : State), (s.fport port.val).state ≠ .up ∧ (s.fport port.val).state ≠ .recover) ∧
  (∃ (port : Fin 12) (s : State), ((s.takeDown port.val).fport port.val).enable = true) ∧
  (∃ (port : Fin 12) (s : State), ((s.takeDown port.val).fport port.val).enable = false) :=
  ⟨⟨0, 0, s0, by decide +kernel⟩,
   ⟨0, 0, chanState true, by decide +kernel⟩,
   ⟨0, 0, portState { FabPort.reset with state := .training }, by decide +kernel⟩,
   ⟨0, 0, 0, s0, by decide +kernel⟩,
   ⟨0, 0, 0, portState { FabPort.reset with state := .training }, by decide +kernel⟩,
   ⟨0, 9, 1, 0, 1, 0, 0, { modelState model0 with fab := { Fab.reset with ports := [(0, { FabPort.reset with state := .ident })], plan := [some ⟨9, 1, 0⟩] } }, rfl, ⟨⟨9, 1, 0⟩, rfl, rfl, rfl, rfl, rfl⟩⟩,
   ⟨0, 0, 0, 0, 0, 0, 0, portState { FabPort.reset with state := .ident }, by unfold planned; decide +kernel⟩,
   ⟨0, 9, 1, 0, 1, 0, 0, { modelState model0 with fab := { Fab.reset with ports := [(0, { FabPort.reset with state := .up })], plan := [some ⟨9, 1, 0⟩] } }, rfl, ⟨⟨9, 1, 0⟩, rfl, rfl, rfl, rfl, rfl⟩⟩,
   ⟨0, 0, 0, 0, 0, 0, 0, chanState true, by unfold planned; decide +kernel⟩,
   ⟨0, 9, 1, 0, 1, 0, 0, { modelState model0 with fab := { Fab.reset with ports := [(0, { FabPort.reset with state := .quarantined })], plan := [some ⟨9, 1, 0⟩] } }, by decide +kernel⟩,
   ⟨0, 0, 0, 0, 0, 0, 0, s0, by decide +kernel⟩,
   ⟨0, chanState true, by decide +kernel⟩,
   ⟨0, s0, by decide +kernel⟩,
   ⟨0, false, 0, chanState true, by decide +kernel⟩,
   ⟨0, false, 0, s0, by decide +kernel⟩,
   ⟨0, 0, portState { FabPort.reset with state := .recover, benchSerial := 9, benchSlot := 1, benchPort := 0, benchStep := 1 }, by decide +kernel⟩,
   ⟨0, s0, by decide +kernel⟩,
   ⟨0, portState { upPort with replay := [⟨0, [], 7⟩] }, ⟨0, [], 7⟩, by decide +kernel⟩,
   ⟨0, 0, portState { FabPort.reset with state := .recover }, by decide +kernel⟩,
   ⟨0, false, 0, s0, by decide +kernel⟩,
   ⟨0, 0, portState { FabPort.reset with state := .recover }, by decide +kernel⟩,
   ⟨0, 0, s0, by decide +kernel⟩,
   ⟨0, { s0 with fab := { Fab.reset with discovering := true } }, by decide +kernel⟩,
   ⟨0, s0, by decide +kernel⟩,
   ⟨0, chanState true, by decide +kernel⟩,
   ⟨0, s0, by decide +kernel⟩,
   ⟨0, s0, by decide +kernel⟩,
   ⟨0, { portState { upPort with enable := false } with slot := 0 }, by decide +kernel⟩⟩

set_option maxRecDepth 4000 in
/-- States and operands that meet the hypotheses of `MessagesAreCheckedAndAnswered`, clause by clause. -/
theorem witness_MessagesAreCheckedAndAnswered :
  (∃ (k : Nat) (port : Fin 12) (m : MsgIn) (s : State), (s.fport port.val).state ≠ .up) ∧
  (∃ (k : Nat) (port : Fin 12) (m : MsgIn) (s : State), (s.fport port.val).state = .up ∧ m.dest.toNat ≠ ownSerial ∧ (m.ttl.toNat ≤ 1 ∨ s.routePort m.dest.toNat = none)) ∧
  (∃ (k : Nat) (port : Fin 12) (m : MsgIn) (s : State), (s.fport port.val).state = .up ∧ m.dest.toNat ≠ ownSerial ∧ 1 < m.ttl.toNat ∧ s.routePort m.dest.toNat ≠ none) ∧
  (∃ (port : Fin 12) (m : MsgIn) (s : State), (s.fport port.val).state = .up ∧ m.dest.toNat = ownSerial ∧ s.refuses (msgOf 1 m) true = none) ∧
  (∃ (c : Nat) (port : Fin 12) (m : MsgIn) (s : State), (s.fport port.val).state = .up ∧ m.dest.toNat = ownSerial ∧ s.refuses (msgOf 1 m) true = some c) ∧
  (∃ (port : Fin 12) (m : MsgIn) (s : State), (s.fport port.val).state = .up ∧ m.dest.toNat = ownSerial ∧ s.refuses (msgOf 2 m) false = none ∧ s.readUe (m.addr.toNat % 2 ^ 52) m.len.toNat = none) ∧
  (∃ (c u : Nat) (port : Fin 12) (m : MsgIn) (s : State), (s.fport port.val).state = .up ∧ m.dest.toNat = ownSerial ∧ s.refuses (msgOf 2 m) false = none ∧ s.readUe (m.addr.toNat % 2 ^ 52) m.len.toNat = some (c, u)) ∧
  (∃ (c : Nat) (port : Fin 12) (m : MsgIn) (s : State), (s.fport port.val).state = .up ∧ m.dest.toNat = ownSerial ∧ s.refuses (msgOf 2 m) false = some c) ∧
  (∃ (s : State) (m : FabMsg) (w : Bool), (s.isPeer m.src = false ∨ s.isLocal (m.addr % 2 ^ 52) = false)) ∧
  (∃ (s : State) (m : FabMsg) (w : Bool), s.isPeer m.src = true ∧ s.isLocal (m.addr % 2 ^ 52) = true) ∧
  (∃ (port : Fin 12) (m : MsgIn) (s : State), (s.fport port.val).state = .up ∧ m.dest.toNat = ownSerial ∧ s.replyTo (msgOf 3 m) .fetch = none) ∧
  (∃ (port : Fin 12) (m : MsgIn) (s : State), (s.fport port.val).state = .up ∧ m.dest.toNat = ownSerial ∧ s.replyTo (msgOf 7 m) .push = none) ∧
  (∃ (e : Nat) (c : SlCmd) (port : Fin 12) (m : MsgIn) (s : State), (s.fport port.val).state = .up ∧ m.dest.toNat = ownSerial ∧ s.replyTo (msgOf 3 m) .fetch = some (e, c) ∧ (c.stale = true ∨ c.gen ≠ m.xfer.toNat / 2 ^ 20 % 64)) ∧
  (∃ (e : Nat) (c : SlCmd) (port : Fin 12) (m : MsgIn) (s : State), (s.fport port.val).state = .up ∧ m.dest.toNat = ownSerial ∧ s.replyTo (msgOf 7 m) .push = some (e, c) ∧ (c.stale = true ∨ c.gen ≠ m.xfer.toNat / 2 ^ 20 % 64)) ∧
  (∃ (e : Nat) (c : SlCmd) (port : Fin 12) (m : MsgIn) (s : State), (s.fport port.val).state = .up ∧ m.dest.toNat = ownSerial ∧ s.replyTo (msgOf 3 m) .fetch = some (e, c) ∧ c.stale = false ∧ c.gen = m.xfer.toNat / 2 ^ 20 % 64 ∧ m.mstatus ≠ 0) ∧
  (∃ (e : Nat) (c : SlCmd) (port : Fin 12) (m : MsgIn) (s : State), (s.fport port.val).state = .up ∧ m.dest.toNat = ownSerial ∧ s.replyTo (msgOf 7 m) .push = some (e, c) ∧ c.stale = false ∧ c.gen = m.xfer.toNat / 2 ^ 20 % 64 ∧ m.mstatus ≠ 0) ∧
  (∃ (e : Nat) (c : SlCmd) (port : Fin 12) (m : MsgIn) (s : State), (s.fport port.val).state = .up ∧ m.dest.toNat = ownSerial ∧ s.replyTo (msgOf 3 m) .fetch = some (e, c) ∧ c.stale = false ∧ c.gen = m.xfer.toNat / 2 ^ 20 % 64 ∧ m.mstatus = 0) ∧
  (∃ (e : Nat) (c : SlCmd) (port : Fin 12) (m : MsgIn) (s : State), (s.fport port.val).state = .up ∧ m.dest.toNat = ownSerial ∧ s.replyTo (msgOf 7 m) .push = some (e, c) ∧ c.stale = false ∧ c.gen = m.xfer.toNat / 2 ^ 20 % 64 ∧ m.mstatus = 0 ∧ (∀ n, n ∈ c.need → n.1 = m.addr.toNat % 2 ^ 52)) ∧
  (∃ (e : Nat) (c : SlCmd) (port : Fin 12) (m : MsgIn) (s : State), (s.fport port.val).state = .up ∧ m.dest.toNat = ownSerial ∧ s.replyTo (msgOf 7 m) .push = some (e, c) ∧ c.stale = false ∧ c.gen = m.xfer.toNat / 2 ^ 20 % 64 ∧ m.mstatus = 0 ∧ (∃ n, n ∈ c.need ∧ n.1 ≠ m.addr.toNat % 2 ^ 52)) ∧
  (∃ (c : SlCmd), c.op ≠ 4) ∧
  (∃ (c : SlCmd), c.op = 4 ∧ c.back = true ∧ c.entry + 1 < c.len + min c.len 2) ∧
  (∃ (port : Fin 12) (m : MsgIn) (s : State), (s.fport port.val).state = .up ∧ m.dest.toNat = ownSerial ∧ s.fab.chans.find? (fun c => !c.out && c.channel == m.channel.toNat && c.peer == m.src.toNat) = none) ∧
  (∃ (c : ChanBind) (port : Fin 12) (m : MsgIn) (s : State), (s.fport port.val).state = .up ∧ m.dest.toNat = ownSerial ∧ s.fab.chans.find? (fun c => !c.out && c.channel == m.channel.toNat && c.peer == m.src.toNat) = some c ∧ (s.plot c.lead = none ∨ ∃ p, s.plot c.lead = some p ∧ (s.fabRecs p).find? (fun r => leAt p.plat r 1 == 1 && leAt p.plat (r + 2) 2 == m.channel.toNat) = none)) ∧
  (∃ (c : ChanBind) (p : Plot) (r : Nat) (port : Fin 12) (m : MsgIn) (s : State), (s.fport port.val).state = .up ∧ m.dest.toNat = ownSerial ∧ s.fab.chans.find? (fun c => !c.out && c.channel == m.channel.toNat && c.peer == m.src.toNat) = some c ∧ s.plot c.lead = some p ∧ (s.fabRecs p).find? (fun r => leAt p.plat r 1 == 1 && leAt p.plat (r + 2) 2 == m.channel.toNat) = some r ∧ (leAt p.plat (r + 0x10) 4 < m.addr.toNat % 2 ^ 32 + m.data.length ∨ (m.data ≠ [] ∧ s.unmapped (chanAddr s m p r) m.data.length ≠ none))) ∧
  (∃ (c : ChanBind) (p : Plot) (r : Nat) (port : Fin 12) (m : MsgIn) (s : State), (s.fport port.val).state = .up ∧ m.dest.toNat = ownSerial ∧ s.fab.chans.find? (fun c => !c.out && c.channel == m.channel.toNat && c.peer == m.src.toNat) = some c ∧ s.plot c.lead = some p ∧ (s.fabRecs p).find? (fun r => leAt p.plat r 1 == 1 && leAt p.plat (r + 2) 2 == m.channel.toNat) = some r ∧ m.data ≠ [] ∧ m.addr.toNat % 2 ^ 32 + m.data.length ≤ leAt p.plat (r + 0x10) 4 ∧ s.unmapped (chanAddr s m p r) m.data.length = none ∧ s.mayTouch (some c.lead) 0 (chanAddr s m p r) m.data.length true = false) ∧
  (∃ (c : ChanBind) (p : Plot) (r : Nat) (port : Fin 12) (m : MsgIn) (s : State), (s.fport port.val).state = .up ∧ m.dest.toNat = ownSerial ∧ boundChan s m c p r ∧ m.data ≠ [] ∧ bitB m.mflags.toNat 0 = false) ∧
  (∃ (c : ChanBind) (p : Plot) (r : Nat) (port : Fin 12) (m : MsgIn) (s : State), (s.fport port.val).state = .up ∧ m.dest.toNat = ownSerial ∧ boundChan s m c p r ∧ m.data ≠ [] ∧ bitB m.mflags.toNat 0 = true) ∧
  (∃ (c : ChanBind) (p : Plot) (r : Nat) (port : Fin 12) (m : MsgIn) (s : State), (s.fport port.val).state = .up ∧ m.dest.toNat = ownSerial ∧ s.fab.chans.find? (fun c => !c.out && c.channel == m.channel.toNat && c.peer == m.src.toNat) = some c ∧ s.plot c.lead = some p ∧ (s.fabRecs p).find? (fun r => leAt p.plat r 1 == 1 && leAt p.plat (r + 2) 2 == m.channel.toNat) = some r ∧ m.data = [] ∧ m.addr.toNat % 2 ^ 32 ≤ leAt p.plat (r + 0x10) 4) ∧
  (∃ (port : Fin 12) (m : MsgIn) (s : State), (s.fport port.val).state = .up ∧ m.dest.toNat = ownSerial ∧ (m.addr.toNat / 2 ^ 15 % 4 ≠ s.slot % 4 ∨ queueItems m = [])) ∧
  (∃ (port : Fin 12) (m : MsgIn) (s : State), (s.fport port.val).state = .up ∧ m.dest.toNat = ownSerial ∧ m.addr.toNat / 2 ^ 15 % 4 = s.slot % 4 ∧ queueItems m ≠ [] ∧ leAt ((queueItems m).headD []) 0 1 = 3) ∧
  (∃ (y : State) (port : Fin 12) (m : MsgIn) (s : State), (s.fport port.val).state = .up ∧ m.dest.toNat = ownSerial ∧ m.addr.toNat / 2 ^ 15 % 4 = s.slot % 4 ∧ queueItems m ≠ [] ∧ leAt ((queueItems m).headD []) 0 1 ≠ 3 ∧ s.linkWhole (m.addr.toNat / 2 ^ 13 % 4) (m.addr.toNat % 2 ^ 13) (0x40 + m.addr.toNat / 2 ^ 13 % 4) (s.latItems (queueItems m)) = some y) ∧
  (∃ (port : Fin 12) (m : MsgIn) (s : State), (s.fport port.val).state = .up ∧ m.dest.toNat = ownSerial ∧ m.addr.toNat / 2 ^ 15 % 4 = s.slot % 4 ∧ queueItems m ≠ [] ∧ leAt ((queueItems m).headD []) 0 1 ≠ 3 ∧ s.linkWhole (m.addr.toNat / 2 ^ 13 % 4) (m.addr.toNat % 2 ^ 13) (0x40 + m.addr.toNat / 2 ^ 13 % 4) (s.latItems (queueItems m)) = none) ∧
  (∃ (e : Fin 64) (index : BitVec 20) (s : State) (c : SlCmd), (s.engine e.val).findCmd index.toNat (fun p => p == .fetch || p == .push) = some c ∧ c.stale = false) ∧
  (∃ (e : Fin 64) (index : BitVec 20) (s : State) (c : SlCmd), (s.engine e.val).findCmd index.toNat (fun p => p == .fetch || p == .push) = some c ∧ c.stale = true) ∧
  (∃ (e : Fin 64) (index : BitVec 20) (s : State), (s.engine e.val).findCmd index.toNat (fun p => p == .fetch || p == .push) = none) :=
  ⟨⟨0, 0, { msg0 with data := [1] }, s0, by decide +kernel⟩,
   ⟨0, 0, { msg0 with dest := Config.serial + 1, ttl := 1 }, chanState true, by decide +kernel, other_dest, by decide +kernel⟩,
   ⟨0, 0, { msg0 with dest := Config.serial + 1, ttl := 8 }, routedTo (Config.serial + 1).toNat, rfl, other_dest, by decide, route_there _⟩,
   ⟨0, msg0, portState upPort, by decide +kernel, rfl, by decide +kernel⟩,
   ⟨3, 0, { msg0 with src := 8 }, portState upPort, by decide +kernel, rfl, by decide +kernel⟩,
   ⟨0, msg0, portState upPort, by decide +kernel, rfl, by decide +kernel, by decide +kernel⟩,
   ⟨_, _, 0, { msg0 with addr := 0x1000000000000, len := 32 }, { portState upPort with mem := { State.reset.mem with ueRes := [(2 ^ 43, true)] } }, by decide +kernel, rfl, by decide +kernel, rfl⟩,
   ⟨_, 0, { msg0 with src := 8 }, chanState true, by decide +kernel, rfl, rfl⟩,
   ⟨s0, ⟨0, 8, 1, 0, 0, 0, 0, 0, 0, 0, 0, []⟩, false, by decide +kernel⟩,
   ⟨portState upPort, ⟨0, 9, 1, 0, 0, 0, 0, 0, 0, 0, 0, []⟩, false, by decide +kernel⟩,
   ⟨0, { msg0 with data := [1] }, chanState true, by decide +kernel, rfl, by decide +kernel⟩,
   ⟨0, { msg0 with data := [1] }, chanState true, by decide +kernel, rfl, by decide +kernel⟩,
   ⟨0, { cmdFetch with stale := true }, 0, msg0, { portState upPort with engines := [(0, { Engine.reset with flight := [{ cmdFetch with stale := true }] })] }, by decide +kernel, rfl, by decide +kernel⟩,
   ⟨0, { cmdPush with stale := true }, 0, msg0, { portState upPort with engines := [(0, { Engine.reset with flight := [{ cmdPush with stale := true }] })] }, by decide +kernel, rfl, by decide +kernel⟩,
   ⟨_, _, 0, { msg0 with mstatus := 1 }, { portState upPort with engines := [(0, { Engine.reset with flight := [cmdFetch] })] }, by decide +kernel, rfl, rfl, by decide +kernel⟩,
   by refine ⟨0, cmdPush, 0, { msg0 with mstatus := 1 }, { portState upPort with engines := [(0, { Engine.reset with flight := [cmdPush] })] }, ?_, rfl, ?_, ?_, ?_, ?_⟩ <;> decide +kernel,
   ⟨_, _, 0, { msg0 with data := [1] }, { portState upPort with engines := [(0, { Engine.reset with flight := [cmdFetch] })] }, by decide +kernel, rfl, rfl, by decide +kernel⟩,
   ⟨_, _, 0, { msg0 with data := [1] }, { portState upPort with engines := [(0, { Engine.reset with flight := [cmdPush] })] }, by decide +kernel, rfl, rfl, by decide +kernel⟩,
   ⟨0, { cmdPush with need := [(0, 4), (64, 4)] }, 0, msg0, { portState upPort with engines := [(0, { Engine.reset with flight := [{ cmdPush with need := [(0, 4), (64, 4)] }] })] }, by decide +kernel, rfl, by decide +kernel⟩,
   ⟨cmdFetch, by decide +kernel⟩,
   ⟨{ cmd0 with op := 4, back := true, len := 1 }, by decide +kernel⟩,
   ⟨0, { msg0 with src := 8 }, chanState true, by decide +kernel, rfl, by decide +kernel⟩,
   ⟨⟨0, 0, 9, false⟩, 0, msg0, { chanState true with blocks := [] }, by decide +kernel, rfl, by decide +kernel⟩,
   ⟨⟨0, 0, 9, false⟩, chanPlot, 0x80, 0, { msg0 with addr := 64, data := [1] }, chanState true, by decide +kernel, rfl, by decide +kernel⟩,
   ⟨⟨0, 0, 9, false⟩, chanPlot, 0x80, 0, { msg0 with data := [1] }, { chanState true with tiles := [(0, { tileOf c0 with lead := some 0, regs := { TileRegs.reset with fwinBase := 0x100000, fwinLimit := 0x101000 } })] }, by decide +kernel, rfl, by decide +kernel⟩,
   ⟨⟨0, 0, 9, false⟩, chanPlot, 0x80, 0, { msg0 with data := [1] }, chanState true, by decide +kernel, rfl, ⟨by decide +kernel, by decide +kernel, by decide +kernel, by decide +kernel, by decide +kernel, by decide +kernel⟩, by decide +kernel, by decide +kernel⟩,
   ⟨⟨0, 0, 9, false⟩, chanPlot, 0x80, 0, { msg0 with mflags := 1, data := [1] }, chanState true, by decide +kernel, rfl, ⟨by decide +kernel, by decide +kernel, by decide +kernel, by decide +kernel, by decide +kernel, by decide +kernel⟩, by decide +kernel, by decide +kernel⟩,
   ⟨⟨0, 0, 9, false⟩, chanPlot, 0x80, 0, msg0, chanState true, by decide +kernel, rfl, by decide +kernel⟩,
   ⟨0, { msg0 with data := [1] }, chanState true, by decide +kernel, rfl, by decide +kernel⟩,
   ⟨0, { msg0 with data := 3 :: zeros 31 }, portState upPort, by decide +kernel, rfl, by decide +kernel⟩,
   ⟨_, 0, { msg0 with addr := 0x1000, data := zeros 32 }, { portState upPort with cist := [(0, { Cistern.reset with pool := 4, sysCells := 4, quota := [] })] }, by decide +kernel, rfl, by decide +kernel, by decide +kernel, by decide +kernel, rfl⟩,
   ⟨0, { msg0 with data := zeros 32 }, chanState true, by decide +kernel, rfl, by decide +kernel⟩,
   ⟨0, 0, { portState upPort with engines := [(0, { Engine.reset with flight := [cmdFetch] })] }, cmdFetch, by decide +kernel⟩,
   ⟨0, 0, { portState upPort with engines := [(0, { Engine.reset with flight := [{ cmdFetch with stale := true }] })] }, { cmdFetch with stale := true }, by decide +kernel⟩,
   ⟨0, 0, s0, by decide +kernel⟩⟩

set_option maxRecDepth 4000 in
/-- States and operands that meet the hypotheses of `FlitsAndManagementTravel`, clause by clause. -/
theorem witness_FlitsAndManagementTravel :
  (∃ (port : Fin 12) (flit : Bytes) (t : Nat) (s : State), ((s.fport port.val).state = .up ∨ (s.fport port.val).state = .ident ∨ (s.fport port.val).state = .quarantined) ∧ flitCrcOk flit = false) ∧
  (∃ (port : Fin 12) (flit : Bytes) (t : Nat) (s : State), ((s.fport port.val).state = .up ∨ (s.fport port.val).state = .ident ∨ (s.fport port.val).state = .quarantined) ∧ flitCrcOk flit = true) ∧
  (∃ (port : Fin 12) (flit : Bytes) (t : Nat) (s : State), ((s.fport port.val).state = .down ∨ (s.fport port.val).state = .training ∨ (s.fport port.val).state = .recover)) ∧
  (∃ (i h : Nat) (s : State), bitB h 28 = false) ∧
  (∃ (i h : Nat) (s : State), bitB h 28 = true) ∧
  (∃ (i h : Nat) (flit : Bytes) (s : State), fieldN h 0 4 ≠ 1 ∧ fieldN h 0 4 ≠ 3) ∧
  (∃ (i h : Nat) (flit : Bytes) (s : State), (fieldN h 0 4 = 3 ∨ (fieldN h 0 4 = 1 ∧ (fieldN h 8 10 ≠ (s.fport i).rxSeq ∨ (s.fport i).state ≠ .up)))) ∧
  (∃ (i h : Nat) (flit : Bytes) (s : State) (l : Bytes), fieldN h 0 4 = 1 ∧ fieldN h 8 10 = (s.fport i).rxSeq ∧ (s.fport i).state = .up ∧ bitB h 7 = true ∧ l = (if bitB h 6 = true then [] else SMap.get [] (s.fport i).asm (fieldN h 4 2)) ++ slice flit 8 (min 240 (fieldN h 48 8)) ∧ 48 ≤ l.length) ∧
  (∃ (i h : Nat) (flit : Bytes) (s : State), fieldN h 0 4 = 1 ∧ fieldN h 8 10 = (s.fport i).rxSeq ∧ (s.fport i).state = .up ∧ bitB h 7 = false) ∧
  (∃ (i : Nat) (s : State), (s.fport i).sinceAck < 64) ∧
  (∃ (i : Nat) (s : State), 64 ≤ (s.fport i).sinceAck) ∧
  (∃ (p : FabPort) (seq : Nat), seq = p.rxSeq) ∧
  (∃ (p : FabPort) (seq : Nat), seq ≠ p.rxSeq) ∧
  (∃ (p : FabPort) (seq : Nat), seq ≠ p.rxSeq ∧ p.discarding = false ∧ (seq + 1024 - p.rxSeq) % 1024 < 512) ∧
  (∃ (port : Fin 12) (s : State), (s.fport port.val).state = .up) ∧
  (∃ (port : Fin 12) (s : State), (s.fport port.val).state ≠ .up) ∧
  (∃ (m : MgmtIn) (list : List (BitVec 64)) (s : State), mgmtFresh s m) ∧
  (∃ (m : MgmtIn) (list : List (BitVec 64)) (tag : BitVec 64) (cause : BitVec 16) (t : Nat) (s : State), mgmtAgain s m) ∧
  (∃ (m : MgmtIn) (list : List (BitVec 64)) (tag : BitVec 64) (cause : BitVec 16) (t : Nat) (s : State), m.netB = true ∧ (s.box 0).key = none) ∧
  (∃ (id : BitVec 32) (acked : Bool) (s : State), s.fab.mgmt.find? (fun y => y.id == id.toNat) = none) ∧
  (∃ (id : BitVec 32) (s : State) (x : MgmtMsg), s.fab.mgmt.find? (fun y => y.id == id.toNat) = some x) ∧
  (∃ (m : MgmtIn) (tag : BitVec 64) (cause : BitVec 16) (t : Nat) (s : State), mgmtFresh s m) ∧
  (∃ (m : MgmtIn) (tag : BitVec 64) (cause : BitVec 16) (t : Nat) (s : State), mgmtFresh s m ∧ s.models = []) ∧
  (∃ (m : MgmtIn) (tag : BitVec 64) (t : Nat) (s : State) (i : Nat) (b : Nat) (p : Plot), mgmtFresh s m ∧ s.modelsOfTag tag.toNat = [i] ∧ s.plotOfModel (s.modelId i) = some b ∧ s.plot b = some p ∧ p.task.isSome = true ∧ p.state ≠ .free ∧ p.state ≠ .forcing ∧ b < 64) ∧
  (∃ (cause i b : Nat) (p : Plot) (s : State), cause ≠ 0x0407 ∧ s.plotOfModel (s.modelId i) = some b ∧ s.plot b = some p ∧ p.task.isSome = true) ∧
  (∃ (cause i b : Nat) (p : Plot) (s : State), cause ≠ 0x0407 ∧ s.plotOfModel (s.modelId i) = some b ∧ s.plot b = some p ∧ p.task = none) ∧
  (∃ (cause i : Nat) (s : State), s.plotOfModel (s.modelId i) = none) ∧
  (∃ (port : Fin 12) (s : State), (s.fport port.val).state = .recover) ∧
  (∃ (port : Fin 12) (s : State), (s.fport port.val).state ≠ .recover) :=
  ⟨⟨0, [], 0, chanState true, by decide +kernel⟩,
   ⟨0, zeros 252 ++ toLe 4 (crc32 (zeros 252)).toNat, 0, portState upPort, by decide +kernel⟩,
   ⟨0, [], 0, s0, by decide +kernel⟩,
   ⟨0, 0, s0, by decide +kernel⟩,
   ⟨0, 2 ^ 28, s0, by decide +kernel⟩,
   ⟨0, 0, [], s0, by decide +kernel⟩,
   ⟨0, 1, [], s0, by decide +kernel⟩,
   ⟨0, 1 + 2 ^ 6 + 2 ^ 7 + 48 * 2 ^ 48, zeros 256, portState upPort, zeros 48, by decide +kernel⟩,
   ⟨0, 1, [], chanState true, by decide +kernel⟩,
   ⟨0, s0, by decide +kernel⟩,
   ⟨0, portState { upPort with sinceAck := 64 }, by decide +kernel⟩,
   ⟨upPort, 0, by decide +kernel⟩,
   ⟨upPort, 1, by decide +kernel⟩,
   ⟨upPort, 1, by decide +kernel⟩,
   ⟨0, portState upPort, by decide +kernel⟩,
   ⟨0, s0, by decide +kernel⟩,
   ⟨⟨9, 1, false⟩, [], portState upPort, by unfold mgmtFresh; decide +kernel⟩,
   ⟨⟨9, 1, false⟩, [], 0, 0, 0, { s0 with fab := { Fab.reset with mgmtSeen := [(9, 1)] } }, by unfold mgmtAgain; decide +kernel⟩,
   ⟨⟨9, 1, true⟩, [], 0, 0, 0, s0, by decide +kernel⟩,
   ⟨0, false, s0, by decide +kernel⟩,
   ⟨1, { s0 with fab := { Fab.reset with mgmt := [⟨1, 9, false, [], 1⟩] } }, ⟨1, 9, false, [], 1⟩, by decide +kernel⟩,
   ⟨⟨9, 1, false⟩, 0, 0, 0, s0, by unfold mgmtFresh; decide +kernel⟩,
   ⟨⟨9, 1, false⟩, 0, 0, 0, s0, by unfold mgmtFresh; decide +kernel⟩,
   ⟨⟨9, 1, false⟩, 0, 0, { modelState model0 with blocks := [(63, { Block.reset with plot := some { p0 with model := 256, state := .running, task := some task0 } })] }, 0, 63, { p0 with model := 256, state := .running, task := some task0 }, by unfold mgmtFresh; decide +kernel⟩,
   ⟨0, 0, _, _, { modelState model0 with blocks := [(63, { Block.reset with plot := some { p0 with model := 256, state := .running, task := some task0 } })] }, by decide +kernel, rfl, rfl, by decide +kernel⟩,
   ⟨0, 0, _, _, chanState true, by decide +kernel, rfl, rfl, by decide +kernel⟩,
   ⟨0, 0, s0, by decide +kernel⟩,
   ⟨0, portState { FabPort.reset with state := .recover }, by decide +kernel⟩,
   ⟨0, s0, by decide +kernel⟩⟩

set_option maxRecDepth 4000 in
/-- States and operands that meet the hypotheses of `ChannelsBindAndModelsDegrade`, clause by clause. -/
theorem witness_ChannelsBindAndModelsDegrade :
  (∃ (m : MgmtIn) (model : Fin 256) (channel : Fin 4096) (out reply : Bool) (s : State), mgmtFresh s m) ∧
  (∃ (m : MgmtIn) (model : Fin 256) (channel : Fin 4096) (out reply : Bool) (s : State), mgmtAgain s m) ∧
  (∃ (m : MgmtIn) (model : Fin 256) (channel : Fin 4096) (out reply : Bool) (s : State), m.netB = true ∧ (s.box 0).key = none) ∧
  (∃ (m : MgmtIn) (model : Fin 256) (channel : Fin 4096) (out : Bool) (s : State) (b : Nat) (p : Plot) (r : Nat), mgmtFresh s m ∧ s.plotOfModel (s.modelId model.val) = some b ∧ s.plot b = some p ∧ (s.fabRecs p).find? (fun r => leAt p.plat r 1 == (if out then 0 else 1) && leAt p.plat (r + 2) 2 == channel.val && (s.entry model.val).serials.getD (leAt p.plat (r + 1) 1) 0 == m.src.toNat) = some r) ∧
  (∃ (i channel peer : Nat) (out : Bool) (s : State) (b : Nat) (p : Plot) (r : Nat), s.chanRecord i channel peer out = some (b, p, r)) ∧
  (∃ (i channel peer : Nat) (out reply : Bool) (s : State), s.chanRecord i channel peer out = none) ∧
  (∃ (m : MgmtIn) (model : Fin 256) (channel : Fin 4096) (out reply : Bool) (s : State), mgmtFresh s m ∧ s.plotOfModel (s.modelId model.val) = none) ∧
  (∃ (pos : Option (Fin 16)) (model : Fin 256) (t : Nat) (s : State) (x : Model), s.modelOf (s.modelId model.val) = some x ∧ (∀ k, pos = some k → SMap.get [] x.plats k.val ≠ []) ∧ s.plotOfModel (s.modelId model.val) = none ∧ (pos = some 0 ∨ s.fab.agree.any (fun a => a.model == s.modelId model.val && a.chosen.isNone) = true)) ∧
  (∃ (pos : Option (Fin 16)) (model : Fin 256) (t : Nat) (s : State) (x : Model) (b : Nat) (p : Plot), s.modelOf (s.modelId model.val) = some x ∧ (∀ k, pos = some k → SMap.get [] x.plats k.val ≠ []) ∧ s.plotOfModel (s.modelId model.val) = some b ∧ s.plot b = some p ∧ pos ≠ some 0 ∧ s.fab.agree.any (fun a => a.model == s.modelId model.val && a.chosen.isNone) = true) ∧
  (∃ (pos : Option (Fin 16)) (model : Fin 256) (t : Nat) (s : State) (x : Model) (b : Nat) (p : Plot), s.modelOf (s.modelId model.val) = some x ∧ (∀ k, pos = some k → SMap.get [] x.plats k.val ≠ []) ∧ s.plotOfModel (s.modelId model.val) = some b ∧ s.plot b = some p ∧ pos = some 0 ∧ x.position ≠ 0 ∧ p.idle = true ∧ s.plotWanted p = false ∧ x.state = .filled ∧ s.linksUp (s.modelId model.val) 0 x = true) ∧
  (∃ (model : Fin 256) (t : Nat) (s : State) (x : Model) (b : Nat) (p : Plot), s.modelOf (s.modelId model.val) = some x ∧ s.plotOfModel (s.modelId model.val) = some b ∧ s.plot b = some p ∧ (x.position = 0 ∨ p.idle = false ∨ s.plotWanted p = true ∨ x.state ≠ .filled ∨ s.linksUp (s.modelId model.val) 0 x = false)) ∧
  (∃ (pos : Option (Fin 16)) (model : Fin 256) (t : Nat) (s : State), pos ≠ some 0 ∧ s.fab.agree.any (fun a => a.model == s.modelId model.val && a.chosen.isNone) = false) ∧
  (∃ (pos : Fin 16) (model : Fin 256) (t : Nat) (s : State) (x : Model), s.modelOf (s.modelId model.val) = some x ∧ SMap.get [] x.plats pos.val = []) ∧
  (∃ (pos : Option (Fin 16)) (model : Fin 256) (t : Nat) (s : State), s.modelOf (s.modelId model.val) = none) ∧
  (∃ (s : State) (id cause : Nat), (∀ a, a ∈ s.fab.agree → a.model ≠ id ∨ a.chosen ≠ none)) :=
  ⟨⟨⟨9, 1, false⟩, 0, 0, false, false, s0, by unfold mgmtFresh; decide +kernel⟩,
   ⟨⟨9, 1, false⟩, 0, 0, false, false, { s0 with fab := { Fab.reset with mgmtSeen := [(9, 1)] } }, by unfold mgmtAgain; decide +kernel⟩,
   ⟨⟨9, 1, true⟩, 0, 0, false, false, s0, by decide +kernel⟩,
   ⟨⟨9, 1, false⟩, 0, 0, false, chanState false, 0, chanPlot, 0x80, by unfold mgmtFresh; decide +kernel⟩,
   ⟨0, 0, 9, false, chanState true, 0, chanPlot, 0x80, by decide +kernel⟩,
   ⟨0, 0, 0, false, false, s0, by decide +kernel⟩,
   ⟨⟨9, 1, false⟩, 0, 0, false, false, s0, by unfold mgmtFresh; decide +kernel⟩,
   ⟨none, 0, 0, { chanState false with blocks := [] }, _, rfl, by decide +kernel⟩,
   ⟨none, 0, 0, chanState true, _, _, _, rfl, by decide +kernel, rfl, rfl, by decide +kernel⟩,
   by refine ⟨some 0, 0, 0, { chanState true with models := [(0, { model0 with serials := [5, 9], position := 1 })] }, { model0 with serials := [5, 9], position := 1 }, 0, chanPlot, rfl, ?_, ?_, ?_, ?_, ?_, ?_, ?_, ?_, ?_⟩ <;> decide +kernel,
   ⟨0, 0, chanState true, _, _, _, rfl, rfl, rfl, by decide +kernel⟩,
   ⟨none, 0, 0, s0, by decide +kernel⟩,
   ⟨1, 0, 0, modelState model0, _, rfl, by decide +kernel⟩,
   ⟨none, 0, 0, s0, by decide +kernel⟩,
   ⟨s0, 0, 0, by decide +kernel⟩⟩

set_option maxRecDepth 4000 in
/-- States and operands that meet the hypotheses of `PoliciesAreInvokedAndCall`, clause by clause. -/
theorem witness_PoliciesAreInvokedAndCall :
  (∃ (slot : Fin 4) (t : Nat) (s : State) (p : Policy), s.policy slot.val = some p ∧ (s.parcel p.parcel).state = .enabled ∧ p.running = none ∧ s.polHalted slot.val = false) ∧
  (∃ (slot : Fin 4) (t : Nat) (s : State) (p : Policy), s.policy slot.val = some p ∧ (s.parcel p.parcel).state = .enabled ∧ (p.running ≠ none ∨ s.polHalted slot.val = true) ∧ p.queue.length < 8) ∧
  (∃ (slot : Fin 4) (t : Nat) (s : State) (p : Policy), s.policy slot.val = some p ∧ (s.parcel p.parcel).state = .enabled ∧ (p.running ≠ none ∨ s.polHalted slot.val = true) ∧ 8 ≤ p.queue.length) ∧
  (∃ (slot : Fin 4) (arb : Fin 112) (s : State) (p : Policy), s.policy slot.val = some p ∧ (s.parcel p.parcel).state = .enabled ∧ p.running = none ∧ (s.arb arb.val).starve ≠ 0 ∧ s.arbNear arb.val p.parcel = true ∧ s.polHalted slot.val = false) ∧
  (∃ (slot : Fin 4) (lead : Fin 64) (s : State) (p : Policy) (z : Plot), s.policy slot.val = some p ∧ (s.parcel p.parcel).state = .enabled ∧ p.running = none ∧ s.plot lead.val = some z ∧ z.parcel = p.parcel ∧ s.polHalted slot.val = false) ∧
  (∃ (slot : Fin 4) (lead : Fin 64) (s : State) (p : Policy) (z : Plot), s.policy slot.val = some p ∧ s.plot lead.val = some z ∧ z.parcel ≠ p.parcel) ∧
  (∃ (slot : Fin 4) (s : State) (p : Policy), s.policy slot.val = some p ∧ p.running ≠ none) ∧
  (∃ (slot : Fin 4) (lo hi : BitVec 64) (s : State) (p : Policy), s.policy slot.val = some p ∧ p.running ≠ none) ∧
  (∃ (slot : Fin 4) (model : BitVec 64) (s : State) (p : Policy) (m : Model), s.policy slot.val = some p ∧ p.running ≠ none ∧ s.modelOf model.toNat = some m ∧ m.owner = p.parcel) ∧
  (∃ (slot : Fin 4) (model : BitVec 64) (s : State) (p : Policy), s.policy slot.val = some p ∧ p.running ≠ none ∧ s.modelOf model.toNat = none) ∧
  (∃ (slot : Fin 4) (arb r w : BitVec 64) (s : State) (p : Policy), s.policy slot.val = some p ∧ p.running = some ⟨1, arb.toNat⟩ ∧ arb.toNat < 112 ∧ r.toNat < arbRequesters arb.toNat) ∧
  (∃ (slot : Fin 4) (a0 : BitVec 64) (s : State) (p : Policy), s.policy slot.val = some p ∧ p.running ≠ none ∧ a0.toNat + 40 ≤ 2 ^ 20) ∧
  (∃ (slot : Fin 4) (a0 : BitVec 64) (s : State) (p : Policy), s.policy slot.val = some p ∧ p.running ≠ none ∧ a0.toNat + 1024 ≤ 2 ^ 20) ∧
  (∃ (slot : Fin 4) (s : State) (p : Policy), s.policy slot.val = some p ∧ p.running ≠ none ∧ s.polHalted slot.val = false) ∧
  (∃ (slot : Fin 4) (t : Nat) (s : State), (s.policy slot.val = none ∨ ∃ p, s.policy slot.val = some p ∧ (s.parcel p.parcel).state ≠ .enabled)) ∧
  (∃ (slot : Fin 4) (arb : Fin 112) (s : State) (p : Policy), s.policy slot.val = some p ∧ (s.arb arb.val).starve ≠ 0 ∧ s.arbNear arb.val p.parcel = true) ∧
  (∃ (slot : Fin 4) (arb : Fin 112) (s : State), (s.policy slot.val = none ∨ (s.arb arb.val).starve = 0 ∨ ∃ p, s.policy slot.val = some p ∧ s.arbNear arb.val p.parcel = false)) ∧
  (∃ (slot : Fin 4) (lead : Fin 64) (s : State) (p : Policy) (z : Plot), s.policy slot.val = some p ∧ s.plot lead.val = some z ∧ z.parcel = p.parcel) ∧
  (∃ (slot : Fin 4) (lead : Fin 64) (s : State), (s.policy slot.val = none ∨ s.plot lead.val = none)) ∧
  (∃ (slot : Fin 4) (entry arg : Nat) (s : State) (p : Policy), s.policy slot.val = some p ∧ (s.parcel p.parcel).state = .enabled ∧ p.running = none ∧ s.polHalted slot.val = false) ∧
  (∃ (slot : Fin 4) (entry arg : Nat) (s : State) (p : Policy), s.policy slot.val = some p ∧ (s.parcel p.parcel).state = .enabled ∧ (p.running ≠ none ∨ s.polHalted slot.val = true) ∧ p.queue.length < 8) ∧
  (∃ (slot : Fin 4) (entry arg : Nat) (s : State) (p : Policy), s.policy slot.val = some p ∧ (s.parcel p.parcel).state = .enabled ∧ (p.running ≠ none ∨ s.polHalted slot.val = true) ∧ 8 ≤ p.queue.length) ∧
  (∃ (slot : Fin 4) (entry arg : Nat) (s : State) (p : Policy), s.policy slot.val = some p ∧ (s.parcel p.parcel).state ≠ .enabled) ∧
  (∃ (slot : Fin 4) (a b c : BitVec 64) (s : State), (s.policy slot.val = none ∨ (∃ p, s.policy slot.val = some p ∧ p.running = none))) ∧
  (∃ (slot : Fin 4) (model : BitVec 64) (s : State) (p : Policy) (m : Model), s.policy slot.val = some p ∧ p.running ≠ none ∧ s.modelOf model.toNat = some m ∧ m.owner ≠ p.parcel) ∧
  (∃ (slot : Fin 4) (arb r w : BitVec 64) (s : State) (p : Policy), s.policy slot.val = some p ∧ p.running ≠ none ∧ (p.running ≠ some ⟨1, arb.toNat⟩ ∨ 112 ≤ arb.toNat ∨ arbRequesters arb.toNat ≤ r.toNat)) ∧
  (∃ (slot : Fin 4) (a0 : BitVec 64) (s : State) (p : Policy), s.policy slot.val = some p ∧ p.running ≠ none ∧ 2 ^ 20 < a0.toNat + 40) ∧
  (∃ (slot : Fin 4) (a0 : BitVec 64) (s : State) (p : Policy), s.policy slot.val = some p ∧ p.running ≠ none ∧ 2 ^ 20 < a0.toNat + 1024) ∧
  (∃ (slot : Fin 4) (s : State) (p : Policy), s.policy slot.val = some p ∧ p.running ≠ none ∧ s.polHalted slot.val = true) :=
  ⟨⟨0, 0, polState policy0, policy0, by decide +kernel⟩,
   ⟨0, 0, polState policy1, policy1, by decide +kernel⟩,
   ⟨0, 0, polState { policy1 with queue := List.replicate 8 ⟨0, 0⟩ }, { policy1 with queue := List.replicate 8 ⟨0, 0⟩ }, by decide +kernel⟩,
   ⟨0, 0, polState policy0, policy0, by decide +kernel⟩,
   ⟨0, 0, polState policy0, policy0, p0, by decide +kernel⟩,
   ⟨0, 0, polState { policy0 with parcel := 2 }, { policy0 with parcel := 2 }, p0, by decide +kernel⟩,
   ⟨0, polState policy1, policy1, by decide +kernel⟩,
   ⟨0, 0, 0, polState policy1, _, rfl, by decide +kernel⟩,
   ⟨0, 256, polState policy1, _, _, rfl, by decide +kernel, rfl, by decide +kernel⟩,
   ⟨0, 512, polState policy1, policy1, by decide +kernel⟩,
   ⟨0, 111, 5, 1, polState { policy0 with running := some ⟨1, 111⟩ }, { policy0 with running := some ⟨1, 111⟩ }, by decide +kernel⟩,
   ⟨0, 1048536, polState policy1, policy1, by decide +kernel⟩,
   ⟨0, 1047552, polState policy1, policy1, by decide +kernel⟩,
   ⟨0, polState policy1, policy1, by decide +kernel⟩,
   ⟨0, 0, s0, by decide +kernel⟩,
   ⟨0, 0, polState policy1, _, rfl, by decide +kernel⟩,
   ⟨0, 0, s0, by decide +kernel⟩,
   ⟨0, 0, polState policy1, _, _, rfl, rfl, by decide +kernel⟩,
   ⟨0, 0, s0, by decide +kernel⟩,
   ⟨0, 0, 0, polState policy0, _, rfl, by decide +kernel⟩,
   ⟨0, 0, 0, polState policy1, _, rfl, by decide +kernel⟩,
   ⟨0, 0, 0, polState { policy1 with queue := List.replicate 8 ⟨0, 0⟩ }, _, rfl, by decide +kernel⟩,
   ⟨0, 0, 0, polState { policy0 with parcel := 2 }, _, rfl, by decide +kernel⟩,
   ⟨0, 0, 0, 0, s0, by decide +kernel⟩,
   ⟨0, 256, { polState policy1 with models := [(0, { model0 with owner := 2 })] }, policy1, { model0 with owner := 2 }, by decide +kernel⟩,
   ⟨0, 1, 0, 0, polState policy1, _, rfl, by decide +kernel⟩,
   ⟨0, 0xFFFFD, polState policy1, policy1, by decide +kernel⟩,
   ⟨0, 1048536, polState policy1, _, rfl, by decide +kernel⟩,
   ⟨3, { polState policy1 with policies := [(3, some policy1)], sec := { Sec.reset with activation := some act0 } }, policy1, by decide +kernel⟩⟩

set_option maxRecDepth 4000 in
/-- States and operands that meet the hypotheses of `InterruptsAreRaisedTakenAndEnded`, clause by clause. -/
theorem witness_InterruptsAreRaisedTakenAndEnded :
  (∃ (src : Fin 256) (s : State), hicSource src.val = true) ∧
  (∃ (h : Hic) (c n : Nat), h.offer c = some n) ∧
  (∃ (h : Hic) (c : Nat), h.offer c = none) ∧
  (∃ (core : Fin 4) (pc : BitVec 64) (s : State) (n : Nat), (s.core core.val).running = true ∧ (s.core core.val).held = false ∧ s.hic.offer core.val = some n) ∧
  (∃ (x : CoreIn) (s : State), (x.mie = false ∨ x.meie = false ∨ s.hic.offer x.core.val = none)) ∧
  (∃ (core : Fin 4) (src : BitVec 8) (s : State) (a : HicActive), a ∈ s.hic.active ∧ a.core = core.val ∧ a.src = src.toNat) ∧
  (∃ (core : Fin 4) (src : BitVec 8) (s : State), (∀ a, a ∈ s.hic.active → a.core ≠ core.val ∨ a.src ≠ src.toNat)) ∧
  (∃ (w : Fin 4) (v events : BitVec 64) (taker : Option CoreIn) (s x : State), (taker.elim s (fun c => s.take c)) = x) ∧
  (∃ (core : Fin 4) (t : Nat) (s : State), s.watched core.val = true ∧ (s.core core.val).heartbeat + 100000000 ≤ (s.at' t).now) ∧
  (∃ (core : Fin 4) (t : Nat) (s : State) (c : Nat), s.watched core.val = true ∧ (s.core core.val).heartbeat + 100000000 ≤ (s.at' t).now ∧ 2 ≤ ((s.core core.val).resets.filter (fun x => decide ((s.at' t).now < x + 10000000000))).length ∧ c < 4 ∧ c ≠ core.val ∧ (s.core c).running = true ∧ (s.core c).held = false) ∧
  (∃ (core : Fin 4) (t : Nat) (s : State), (s.at' t).now < (s.core core.val).heartbeat + 100000000) ∧
  (∃ (src : Fin 256) (s : State), hicSource src.val = false) ∧
  (∃ (x : CoreIn) (s : State), ((s.core x.core.val).running = false ∨ (s.core x.core.val).held = true)) ∧
  (∃ (core : Fin 4) (t : Nat) (s : State), s.watched core.val = true ∧ (s.core core.val).heartbeat + 100000000 ≤ (s.at' t).now ∧ (∀ c, c < 4 → c ≠ core.val → (s.core c).running = false ∨ (s.core c).held = true)) ∧
  (∃ (core : Fin 4) (t : Nat) (s : State), s.watched core.val = false) :=
  ⟨⟨226, s0, by decide +kernel⟩,
   ⟨hic0, 0, 5, by decide +kernel⟩,
   ⟨Hic.reset, 0, by decide +kernel⟩,
   ⟨0, 64, hicState hic0 core0, 5, by decide +kernel, by decide +kernel, by decide +kernel⟩,
   ⟨⟨0, 0, false, true⟩, hicState hic0 core0, by decide +kernel⟩,
   ⟨0, 5, { s0 with hic := { Hic.reset with active := [⟨0, 5, 9⟩] } }, ⟨0, 5, 9⟩, by decide +kernel⟩,
   ⟨0, 5, s0, by decide +kernel⟩,
   ⟨0, 0, 0, some ⟨0, 64, true, true⟩, hicState hic0 core0, (hicState hic0 core0).take ⟨0, 64, true, true⟩, rfl⟩,
   ⟨0, 100000000, hicState hic0 core0, by decide +kernel⟩,
   ⟨0, 100000000, hicState hic0 { core0 with resets := [1, 2] }, 1, by decide +kernel⟩,
   ⟨0, 99999999, hicState hic0 core0, by decide +kernel⟩,
   ⟨9, s0, by decide +kernel⟩,
   ⟨⟨0, 0, true, true⟩, s0, by decide +kernel⟩,
   ⟨0, 100000000, { s0 with cores := [(0, { HgCore.reset with running := true })] }, by decide +kernel⟩,
   ⟨0, 0, s0, by decide +kernel⟩⟩

set_option maxRecDepth 4000 in
/-- States and operands that meet the hypotheses of `TheLogAndTheStoreAreWritten`, clause by clause. -/
theorem witness_TheLogAndTheStoreAreWritten :
  (∃ (t : Nat) (s : State), 127 ≤ s.book.fresh.length) ∧
  (∃ (t : Nat) (s : State), s.book.fresh.length < 127 ∧ (∀ r, r ∈ s.book.fresh → r.flushes = false)) ∧
  (∃ (t : Nat) (s : State) (r : FbRec), r ∈ s.book.fresh ∧ (r.status = 0x0501 ∨ r.src = 9)) ∧
  (∃ (t : Nat) (s : State), s.book.lastPage + 10000000000 ≤ (s.at' t).now ∧ s.book.fresh ≠ [] ∧ s.book.fresh.length ≤ 127) ∧
  (∃ (t : Nat) (s : State), (s.at' t).now < s.book.lastPage + 10000000000) ∧
  (∃ (t : Nat) (s : State), s.store.running = none) ∧
  (∃ (t : Nat) (s : State), s.store.running ≠ none) ∧
  (∃ (t : Nat) (s : State) (img : List StoreRec), s.store.running = some img ∧ s.sec.keyWaits = []) ∧
  (∃ (t : Nat) (s : State) (img : List StoreRec), s.store.running = some img) ∧
  (∃ (t : Nat) (s : State) (r : FbRec), r ∈ s.book.fresh ∧ r.flushes = true) ∧
  (∃ (t : Nat) (s : State), s.book.lastPage + 10000000000 ≤ (s.at' t).now ∧ s.book.fresh ≠ []) ∧
  (∃ (t : Nat) (s : State), s.book.fresh = []) ∧
  (∃ (ok : Bool) (t : Nat) (s : State), s.store.running = none) ∧
  (∃ (t : Nat) (s : State) (img : List StoreRec), s.store.running = some img) ∧
  (∃ (t : Nat) (s : State) (img : List StoreRec) (k : Bytes), s.store.running = some img ∧ (s.box 0).key = some k ∧ ⟨2, keyWrap storeKey k⟩ ∈ img) :=
  ⟨⟨0, bookState (List.replicate 127 rec1), by decide +kernel⟩,
   ⟨0, bookState [rec1], by decide +kernel⟩,
   ⟨0, bookState [rec0], rec0, by decide +kernel⟩,
   ⟨10000000000, bookState [rec1], by decide +kernel⟩,
   ⟨9999999999, bookState [rec1], by decide +kernel⟩,
   ⟨0, s0, by decide +kernel⟩,
   ⟨0, { s0 with store := { Store.reset with running := some [] } }, by decide +kernel⟩,
   ⟨0, { s0 with store := { Store.reset with running := some [] } }, [], by decide +kernel⟩,
   ⟨0, { s0 with store := { Store.reset with running := some [] } }, [], by decide +kernel⟩,
   ⟨0, bookState [rec0], rec0, by decide +kernel⟩,
   ⟨10000000000, bookState [rec0], by decide +kernel⟩,
   ⟨0, s0, by decide +kernel⟩,
   ⟨false, 0, s0, by decide +kernel⟩,
   ⟨0, { s0 with store := { Store.reset with running := some [] } }, [], by decide +kernel⟩,
   ⟨0, { keyed s0 with store := { Store.reset with running := some [⟨2, keyWrap storeKey [1]⟩] } }, [⟨2, keyWrap storeKey [1]⟩], [1], rfl, rfl, List.Mem.head _⟩⟩

set_option maxRecDepth 4000 in
/-- States and operands that meet the hypotheses of `TheClockFollowsPowerAndTemperature`, clause by clause. -/
theorem witness_TheClockFollowsPowerAndTemperature :
  (∃ (vm im va avg : BitVec 16) (t : Nat) (s : State), s.power.mode ≠ .off ∧ s.power.cap < avg.toNat ∧ s.power.capFloor = false ∧ s.power.quadsOn ≠ []) ∧
  (∃ (vm im va avg : BitVec 16) (t : Nat) (s : State), s.power.mode ≠ .off ∧ 100 * avg.toNat < 95 * s.power.cap ∧ s.power.capLow = 99) ∧
  (∃ (vm im va avg : BitVec 16) (t : Nat) (s : State), s.power.mode ≠ .off ∧ s.power.cap < avg.toNat ∧ s.power.capFloor = true ∧ s.power.capHigh = 99 ∧ s.power.capLimited = false) ∧
  (∃ (x : Samples) (t : Nat) (s : State) (q : Nat), s.power.mode ≠ .off ∧ q < 4 ∧ 95 ≤ (quadTemp x q).1 ∧ SMap.get 0 s.power.thermDir q ≠ 1) ∧
  (∃ (x : Samples) (t : Nat) (s : State) (q : Nat), s.power.mode ≠ .off ∧ q < 4 ∧ (quadTemp x q).1 < 95 ∧ 90 ≤ (quadTemp x q).1) ∧
  (∃ (x : Samples) (t : Nat) (s : State) (q : Nat), s.power.mode ≠ .off ∧ q < 4 ∧ (quadTemp x q).1 < 90 ∧ SMap.get 19 s.power.thermCeil q < 19 ∧ SMap.get 0 s.power.thermDir q = 2 ∧ SMap.get 0 s.power.thermAt q + 10000000 ≤ (s.at' t).now) ∧
  (∃ (s : State) (q x : Nat), x ∈ s.clockGroup q) ∧
  (∃ (quad : Fin 4) (t : Nat) (s : State), s.power.mode = .serve ∧ (∀ b p, s.plot b = some p → p.state ≠ .switching)) ∧
  (∃ (quad : Fin 4) (t : Nat) (s : State) (b : Nat) (p : Plot) (q : Nat), b < 64 ∧ s.plot b = some p ∧ p.state = .switching ∧ q ∈ p.quads ∧ q ∈ s.clockGroup quad.val) ∧
  (∃ (unit temp : BitVec 8) (t : Nat) (s : State), s.power.mode ≠ .off ∧ s.power.mode ≠ .starting ∧ s.power.thermHold = false) ∧
  (∃ (t : Nat) (s : State), s.power.thermHold = true ∧ s.power.coolHold = false ∧ SMap.get 0 s.power.temps 9 < 85 ∧ s.power.hotAt + 1000000000 ≤ (s.at' t).now ∧ s.power.wanted = .serve ∧ s.serve.rings = [] ∧ s.power.waits = []) ∧
  (∃ (coolant : Bool) (t : Nat) (s : State), s.power.thermHold = true ∧ s.power.coolHold = false ∧ 85 ≤ SMap.get 0 s.power.temps 9) ∧
  (∃ (mv : BitVec 16) (t : Nat) (s : State), s.power.mode ≠ .off ∧ s.power.brownout = false) ∧
  (∃ (mv : BitVec 16) (t : Nat) (s : State), s.power.brownout = true) ∧
  (∃ (vm im va avg : BitVec 16) (t : Nat) (s : State), s.power.mode = .off) ∧
  (∃ (vm im va avg : BitVec 16) (t : Nat) (s : State), s.power.mode ≠ .off ∧ avg.toNat ≤ s.power.cap ∧ (95 * s.power.cap ≤ 100 * avg.toNat ∨ s.power.capLow < 99)) ∧
  (∃ (vm im va avg : BitVec 16) (t : Nat) (s : State), s.power.mode ≠ .off ∧ s.power.cap < avg.toNat ∧ s.power.capFloor = true ∧ (s.power.capHigh < 99 ∨ s.power.capLimited = true)) ∧
  (∃ (x : Samples) (t : Nat) (s : State), s.power.mode = .off) ∧
  (∃ (x : Samples) (t : Nat) (s : State) (q : Nat), s.power.mode ≠ .off ∧ q < 4 ∧ 95 ≤ (quadTemp x q).1 ∧ SMap.get 0 s.power.thermDir q = 1) ∧
  (∃ (x : Samples) (t : Nat) (s : State) (q : Nat), s.power.mode ≠ .off ∧ q < 4 ∧ (quadTemp x q).1 < 90 ∧ SMap.get 19 s.power.thermCeil q < 19 ∧ SMap.get 0 s.power.thermDir q ≠ 2) ∧
  (∃ (x : Samples) (t : Nat) (s : State) (q : Nat), s.power.mode ≠ .off ∧ q < 4 ∧ (quadTemp x q).1 < 90 ∧ (19 ≤ SMap.get 19 s.power.thermCeil q ∨ (SMap.get 0 s.power.thermDir q = 2 ∧ (s.at' t).now < SMap.get 0 s.power.thermAt q + 10000000))) ∧
  (∃ (quad : Fin 4) (t : Nat) (s : State), s.power.mode ≠ .serve) ∧
  (∃ (unit temp : BitVec 8) (t : Nat) (s : State), (s.power.mode = .off ∨ s.power.mode = .starting ∨ s.power.thermHold = true)) ∧
  (∃ (coolant : Bool) (t : Nat) (s : State), s.power.thermHold = false ∧ s.power.coolHold = false) ∧
  (∃ (coolant : Bool) (t : Nat) (s : State), s.power.thermHold = true ∧ s.power.coolHold = false ∧ SMap.get 0 s.power.temps 9 < 85 ∧ s.power.hotAt + 1000000000 ≤ (s.at' t).now) ∧
  (∃ (coolant : Bool) (t : Nat) (s : State), s.power.coolHold = true ∧ s.power.coolOk = true ∧ SMap.get 0 s.power.temps 9 < 85 ∧ (s.power.thermHold = false ∨ s.power.hotAt + 1000000000 ≤ (s.at' t).now)) ∧
  (∃ (t : Nat) (s : State), s.power.coolHold = true ∧ s.power.coolOk = false ∧ SMap.get 0 s.power.temps 9 < 85 ∧ (s.power.thermHold = false ∨ s.power.hotAt + 1000000000 ≤ (s.at' t).now)) ∧
  (∃ (t : Nat) (s : State), s.power.coolHold = true ∧ s.power.coolOk = false) ∧
  (∃ (cause : Nat) (s : State), s.isDrainedAll = false ∧ (s.power.wanted = .quiet ∨ s.power.wanted = .dormant ∨ s.power.wanted = .off)) ∧
  (∃ (cause : Nat) (s : State), s.isDrainedAll = true ∧ (s.power.wanted = .quiet ∨ s.power.wanted = .dormant ∨ s.power.wanted = .off)) ∧
  (∃ (mv : BitVec 16) (t : Nat) (s : State), (s.power.mode = .off ∨ s.power.brownout = true)) ∧
  (∃ (mv : BitVec 16) (t : Nat) (s : State), s.power.brownout = false) :=
  ⟨⟨48000, 0, 5000, 3801, 0, s0, by decide +kernel⟩,
   ⟨48000, 0, 5000, 3609, 0, powerState { pw0 with capLow := 99 }, by decide +kernel⟩,
   ⟨48000, 0, 5000, 3801, 0, powerState { pw0 with capCeil := [(0, 8), (1, 8), (2, 8), (3, 8)], capHigh := 99 }, by decide +kernel⟩,
   ⟨temps 95, 0, s0, 3, by decide +kernel⟩,
   ⟨temps 90, 0, s0, 0, by decide +kernel⟩,
   ⟨temps 89, 10000000, powerState { pw0 with thermCeil := [(0, 18)], thermDir := [(0, 2)] }, 0, by decide +kernel⟩,
   ⟨s0, 0, 0, by decide +kernel⟩,
   ⟨0, 0, s0, by decide +kernel, fun b p h => by cases h⟩,
   ⟨0, 0, plotState { p0 with state := .switching }, 0, { p0 with state := .switching }, 0, by decide +kernel⟩,
   ⟨0, 0, 0, s0, by decide +kernel⟩,
   ⟨1000000000, powerState { pw0 with thermHold := true }, by decide +kernel⟩,
   ⟨false, 0, powerState { pw0 with thermHold := true, temps := [(9, 85)] }, by decide +kernel⟩,
   ⟨41000, 0, s0, by decide +kernel⟩,
   ⟨41000, 0, powerState { pw0 with brownout := true }, by decide +kernel⟩,
   ⟨0, 0, 0, 0, 0, powerState { pw0 with mode := .off }, by decide +kernel⟩,
   ⟨0, 0, 0, 0, 0, s0, by decide +kernel⟩,
   ⟨0, 0, 0, 3801, 0, powerState { pw0 with capCeil := [(0, 8), (1, 8), (2, 8), (3, 8)] }, by decide +kernel⟩,
   ⟨temps 89, 0, powerState { pw0 with mode := .off }, by decide +kernel⟩,
   ⟨temps 95, 0, powerState { pw0 with thermDir := [(0, 1)] }, 0, by decide +kernel⟩,
   ⟨temps 89, 0, powerState { pw0 with thermCeil := [(0, 18)] }, 0, by decide +kernel⟩,
   ⟨temps 89, 0, s0, 0, by decide +kernel⟩,
   ⟨0, 0, State.reset, by decide +kernel⟩,
   ⟨0, 0, 0, powerState { pw0 with thermHold := true, temps := [(9, 85)] }, by decide +kernel⟩,
   ⟨false, 0, s0, by decide +kernel⟩,
   ⟨false, 9999999999, powerState { pw0 with thermHold := true }, by decide +kernel⟩,
   ⟨true, 0, powerState { pw0 with coolHold := true, coolOk := true }, by decide +kernel⟩,
   ⟨0, powerState { pw0 with coolHold := true, coolOk := false }, by decide +kernel⟩,
   ⟨0, powerState { pw0 with coolHold := true, coolOk := false }, by decide +kernel⟩,
   ⟨0, { powerState { pw0 with wanted := .quiet } with serve := { Serve.reset with reqs := [{ req0 with state := .decode, started := true }] } }, by decide +kernel⟩,
   ⟨0, powerState { pw0 with wanted := .quiet }, by decide +kernel⟩,
   ⟨0, 0, powerState { pw0 with brownout := true }, by decide +kernel⟩,
   ⟨0, 0, s0, by decide +kernel⟩⟩

set_option maxRecDepth 4000 in
/-- States and operands that meet the hypotheses of `PowerStatesChangeAndFail`, clause by clause. -/
theorem witness_PowerStatesChangeAndFail :
  (∃ (die : Fin 5) (t : Nat) (s : State), s.power.mode ≠ .off) ∧
  (∃ (cause : Fin 3) (mv : BitVec 16) (t : Nat) (s : State), s.power.mode ≠ .off) ∧
  (∃ (t : Nat) (s : State), s.power.mode = .starting ∧ (s.power.coolHold = false ∨ s.power.coolOk = true)) ∧
  (∃ (t : Nat) (s : State), s.power.mode ≠ .off ∧ s.power.mode ≠ .starting ∧ (s.power.coolHold = false ∨ s.power.coolOk = true)) ∧
  (∃ (t : Nat) (s : State), s.power.coolHold = true ∧ s.power.coolOk = false ∧ s.power.holdAt + 5000000000 ≤ (s.at' t).now) ∧
  (∃ (t : Nat) (s : State), (s.power.coolHold = false ∨ s.power.coolOk = true)) ∧
  (∃ (t : Nat) (s : State), s.isDrainedAll = true ∧ s.power.going = some .quiet ∧ s.power.mode = .serve) ∧
  (∃ (t : Nat) (s : State), s.isDrainedAll = true ∧ s.power.going = some .off) ∧
  (∃ (t : Nat) (s : State), s.isDrainedAll = true ∧ s.power.going = some .dormant) ∧
  (∃ (t : Nat) (s : State), s.isDrainedAll = false) ∧
  (∃ (t : Nat) (s : State), s.power.going = some .serve ∧ s.power.mode = .quiet ∧ s.serve.rings = []) ∧
  (∃ (quad : Fin 4) (t : Nat) (s : State), s.quadBusy quad.val = false ∧ s.power.mode = .serve ∧ s.power.qgateMs ≠ 0 ∧ bitB s.power.array quad.val = true ∧ (∀ j, j ∈ s.power.jobs → j.quad ≠ quad.val) ∧ SMap.get 0 s.power.emptyAt quad.val + 1000000 * s.power.qgateMs ≤ (s.at' t).now) ∧
  (∃ (quad : Fin 4) (t : Nat) (s : State), s.quadBusy quad.val = true) ∧
  (∃ (slot : Fin 4) (quads : List QuadUp) (t : Nat) (s : State) (o : Option (Nat × Option Nat)), (s.power.mode = .off ∨ s.power.mode = .starting) ∧ s.power.mainClosed = true ∧ s.power.offCause ≠ 3 ∧ s.sec.boot = o) ∧
  (∃ (t : Nat) (s : State), s.power.mode = .off) ∧
  (∃ (t : Nat) (s : State), s.power.mode = .quiet ∧ (∀ x, x ∈ s.parcels → x.2.state ≠ .enabled)) ∧
  (∃ (t : Nat) (s : State) (x : Nat × Parcel), x ∈ s.parcels ∧ x.2.state = .enabled) ∧
  (∃ (die : Fin 5) (cause : Fin 3) (mv : BitVec 16) (t : Nat) (s : State), s.power.mode = .off) ∧
  (∃ (t : Nat) (s : State), (s.power.mode = .off ∨ (s.power.coolHold = true ∧ s.power.coolOk = false))) ∧
  (∃ (t : Nat) (s : State), (s.at' t).now < s.power.holdAt + 5000000000) ∧
  (∃ (t : Nat) (s : State), (s.power.going = none ∨ s.power.going = some .serve ∨ s.power.going = some .starting ∨ (s.power.going = some .quiet ∧ s.power.mode ≠ .serve))) ∧
  (∃ (t : Nat) (s : State), s.power.going = some .serve ∧ s.power.mode = .quiet) ∧
  (∃ (t : Nat) (s : State), s.power.going = some .serve ∧ s.power.mode = .dormant) ∧
  (∃ (t : Nat) (s : State), s.power.going = some .quiet ∧ s.power.mode = .dormant) ∧
  (∃ (s : State) (c : Nat), 1 ≤ c ∧ c ≤ 3 ∧ (s.core c).held = false) ∧
  (∃ (t : Nat) (s : State), (s.power.going = none ∨ s.power.mode = .serve ∨ s.power.mode = .off ∨ s.power.mode = .starting)) ∧
  (∃ (quad : Fin 4) (t : Nat) (s : State) (j : QuadJob), s.quadBusy quad.val = false ∧ s.power.jobs.find? (fun j => j.quad == quad.val && j.action == 0) = some j) ∧
  (∃ (s : State) (j : QuadJob), j.quad < 4) ∧
  (∃ (quad : Fin 4) (t : Nat) (s : State), (∀ j, j ∈ s.power.jobs → j.quad ≠ quad.val ∨ j.action ≠ 0) ∧ (s.power.mode ≠ .serve ∨ s.power.qgateMs = 0 ∨ bitB s.power.array quad.val = false ∨ (∃ j, j ∈ s.power.jobs ∧ j.quad = quad.val) ∨ (s.at' t).now < SMap.get 0 s.power.emptyAt quad.val + 1000000 * s.power.qgateMs)) ∧
  (∃ (slot : Fin 4) (quads : List QuadUp) (t : Nat) (s : State), ((s.power.mode ≠ .off ∧ s.power.mode ≠ .starting) ∨ s.power.mainClosed = false ∨ s.power.offCause = 3)) ∧
  (∃ (t : Nat) (s : State), s.power.mode ≠ .off) ∧
  (∃ (t : Nat) (s : State), s.power.mode ≠ .quiet) :=
  ⟨⟨4, 0, s0, by decide +kernel⟩,
   ⟨2, 41000, 0, s0, by decide +kernel⟩,
   ⟨0, State.reset, by decide +kernel⟩,
   ⟨0, s0, by decide +kernel⟩,
   ⟨5000000000, powerState { pw0 with coolHold := true, coolOk := false }, by decide +kernel⟩,
   ⟨0, s0, by decide +kernel⟩,
   ⟨0, powerState { pw0 with going := some .quiet }, by decide +kernel⟩,
   ⟨0, powerState { pw0 with going := some .off }, by decide +kernel⟩,
   ⟨0, powerState { pw0 with going := some .dormant }, by decide +kernel⟩,
   ⟨0, reqState { req0 with state := .decode, started := true }, by decide +kernel⟩,
   ⟨0, powerState { pw0 with mode := .quiet, going := some .serve }, by decide +kernel⟩,
   ⟨0, 100000000, s0, by decide +kernel⟩,
   ⟨0, 0, s0.setTile 0 { tileOf c0 with lead := some 0 }, by decide +kernel⟩,
   ⟨0, [], 0, State.reset, _, by decide +kernel, by decide +kernel, by decide +kernel, rfl⟩,
   ⟨0, powerState { pw0 with mode := .off }, by decide +kernel⟩,
   ⟨0, powerState { pw0 with mode := .quiet }, by decide +kernel⟩,
   ⟨0, { s0 with parcels := [(1, parcel0)] }, (1, parcel0), by decide +kernel⟩,
   ⟨0, 0, 0, 0, powerState { pw0 with mode := .off }, by decide +kernel⟩,
   ⟨0, powerState { pw0 with mode := .off }, by decide +kernel⟩,
   ⟨0, s0, by decide +kernel⟩,
   ⟨0, s0, by decide +kernel⟩,
   ⟨0, powerState { pw0 with mode := .quiet, going := some .serve }, by decide +kernel⟩,
   ⟨0, powerState { pw0 with mode := .dormant, going := some .serve }, by decide +kernel⟩,
   ⟨0, powerState { pw0 with mode := .dormant, going := some .quiet }, by decide +kernel⟩,
   ⟨s0, 1, by decide +kernel⟩,
   ⟨0, s0, by decide +kernel⟩,
   ⟨0, 0, powerState { pw0 with jobs := [⟨0, 0, waiter0, 0, 0⟩] }, ⟨0, 0, waiter0, 0, 0⟩, by decide +kernel⟩,
   ⟨s0, ⟨3, 1, waiter0, 0, 0⟩, by decide +kernel⟩,
   ⟨0, 0, s0, by decide +kernel⟩,
   ⟨0, [], 0, s0, by decide +kernel⟩,
   ⟨0, s0, by decide +kernel⟩,
   ⟨0, s0, by decide +kernel⟩⟩

set_option maxRecDepth 4000 in
/-- States and operands that meet the hypotheses of `FirmwareAndSignaturesComplete`, clause by clause. -/
theorem witness_FirmwareAndSignaturesComplete :
  (∃ (same : Bool) (t : Nat) (s : State) (g : Staging), s.sec.staging = some g) ∧
  (∃ (l : Bytes) (t : Nat) (s : State) (g : Staging) (st : Nat), s.sec.staging = some g ∧ l.length = g.len ∧ leAt l 0 4 ≠ 0x4C4F5050 ∧ s.sec.stageStatus l g.len = st) ∧
  (∃ (x : Sec) (l : Bytes) (len : Nat), (fwHeadOk l = false ∨ fwSigned l = false ∨ leAt l 0x10 4 ≠ len ∨ leAt l 7 1 < x.floor ∨ 1 < leAt l 6 1)) ∧
  (∃ (t : Nat) (s : State) (a : Activation) (c : Nat), s.sec.activation = some a ∧ a.core < 4 ∧ (s.core a.core).running = true ∧ (s.core a.core).held = false ∧ s.nextCore (([3, 2, 1, 0] : List Nat).filter (fun c => decide (c < a.core))) = some c) ∧
  (∃ (t : Nat) (s : State) (a : Activation), s.sec.activation = some a ∧ s.nextCore (([3, 2, 1, 0] : List Nat).filter (fun c => decide (c < a.core))) = none) ∧
  (∃ (t : Nat) (s : State) (a : Activation), s.sec.activation = some a) ∧
  (∃ (t : Nat) (s : State) (j : SignJob) (l : List SignJob) (key : Bytes), s.sec.signs = j :: l ∧ (s.box j.req.mail.parcel.toNat).key = some key) ∧
  (∃ (t : Nat) (s : State), s.sec.signs = []) ∧
  (∃ (first : BitVec 32) (n : BitVec 8) (s : State), (n = 0 ∨ 8 < n.toNat)) ∧
  (∃ (image : Option Bytes) (same : Bool) (t : Nat) (s : State), s.sec.staging = none) ∧
  (∃ (l : Bytes) (same : Bool) (t : Nat) (s : State) (g : Staging), s.sec.staging = some g ∧ l.length ≠ g.len) ∧
  (∃ (l : Bytes) (same : Bool) (t : Nat) (s : State) (g : Staging), s.sec.staging = some g ∧ l.length = g.len ∧ leAt l 0 4 = 0x4C4F5050) ∧
  (∃ (l : Bytes) (same : Bool) (t : Nat) (s : State) (g : Staging), s.sec.staging = some g ∧ l.length = g.len ∧ leAt l 0 4 ≠ 0x4C4F5050) ∧
  (∃ (t : Nat) (s : State), s.sec.activation = none) ∧
  (∃ (t : Nat) (s : State) (j : SignJob) (l : List SignJob), s.sec.signs = j :: l ∧ (s.box j.req.mail.parcel.toNat).key = none) :=
  ⟨⟨true, 0, { s0 with sec := { Sec.reset with staging := some stg0 } }, stg0, by decide +kernel⟩,
   ⟨zeros 4, 0, { s0 with sec := { Sec.reset with staging := some stg0 } }, stg0, _, rfl, by decide +kernel, by decide +kernel, rfl⟩,
   ⟨Sec.reset, [], 0, Or.inl (by decide +kernel)⟩,
   ⟨0, { s0 with cores := cores4, sec := { Sec.reset with activation := some act0 } }, act0, 2, by decide +kernel⟩,
   ⟨0, { s0 with cores := cores4, sec := { Sec.reset with activation := some { act0 with core := 0 } } }, { act0 with core := 0 }, by decide +kernel⟩,
   ⟨0, { s0 with cores := cores4, sec := { Sec.reset with activation := some act0 } }, act0, by decide +kernel⟩,
   ⟨0, keyed { s0 with sec := { Sec.reset with signs := [⟨⟨0x90, mailOf 0x90 0 []⟩, []⟩] } }, ⟨⟨0x90, mailOf 0x90 0 []⟩, []⟩, [], [1], by decide +kernel⟩,
   ⟨0, s0, by decide +kernel⟩,
   ⟨0, 9, s0, by decide +kernel⟩,
   ⟨none, false, 0, s0, by decide +kernel⟩,
   ⟨[], false, 0, { s0 with sec := { Sec.reset with staging := some stg0 } }, _, rfl, by decide +kernel⟩,
   ⟨toLe 4 0x4C4F5050, false, 0, { s0 with sec := { Sec.reset with staging := some stg0 } }, _, rfl, by decide +kernel⟩,
   ⟨zeros 4, false, 0, { s0 with sec := { Sec.reset with staging := some stg0 } }, stg0, by decide +kernel⟩,
   ⟨0, s0, by decide +kernel⟩,
   ⟨0, { s0 with sec := { Sec.reset with signs := [⟨⟨0x90, mailOf 0x90 0 []⟩, []⟩] } }, ⟨⟨0x90, mailOf 0x90 0 []⟩, []⟩, [], by decide +kernel⟩⟩

set_option maxRecDepth 4000 in
/-- States and operands that meet the hypotheses of `PortsAnswerAndEventsRepeat`, clause by clause. -/
theorem witness_PortsAnswerAndEventsRepeat :
  (∃ (port : Fin 8) (t : Nat) (s : State), SMap.get false s.mail.linkUp port.val = true) ∧
  (∃ (port : Fin 8) (t : Nat) (s : State), SMap.get false s.mail.linkUp port.val = false) ∧
  (∃ (port : Fin 8) (t : Nat) (s : State), SMap.get false s.mail.linkUp port.val = false ∧ s.power.mode ≠ .off ∧ (s.power.mode = .dormant → port.val % 4 = 0)) ∧
  (∃ (port : Fin 8) (qp : BitVec 24) (priv : Bytes) (s : State), port.val < 4 ∧ SMap.get false s.mail.linkUp port.val = true ∧ priv.length = 8 ∧ (s.ring (leAt priv 2 1)).state = 1 ∧ (s.ring (leAt priv 2 1)).owner = leAt priv 0 2 ∧ (s.ring (leAt priv 2 1)).key = leAt priv 4 4 ∧ (s.ringQps (leAt priv 2 1)).length < 8 ∧ s.mail.qps.length < 4096 ∧ (∀ q, q ∈ s.mail.qps → q.num ≠ qp.toNat)) ∧
  (∃ (port : Fin 8) (qp : BitVec 24) (priv : Bytes) (s : State), (4 ≤ port.val ∨ priv.length ≠ 8 ∨ (s.ring (leAt priv 2 1)).state ≠ 1 ∨ (s.ring (leAt priv 2 1)).owner ≠ leAt priv 0 2 ∨ (s.ring (leAt priv 2 1)).key ≠ leAt priv 4 4 ∨ 8 ≤ (s.ringQps (leAt priv 2 1)).length)) ∧
  (∃ (port : Fin 8) (kind : Fin 4) (t : Nat) (s : State), SMap.get false s.mail.linkUp port.val = true ∧ (s.mail.answered.filter (fun x => x.1 == 4 * port.val + kind.val && decide ((s.at' t).now < x.2 + 1000000000))).length < 100) ∧
  (∃ (port : Fin 8) (kind : Fin 4) (t : Nat) (s : State), 100 ≤ (s.mail.answered.filter (fun x => x.1 == 4 * port.val + kind.val && decide ((s.at' t).now < x.2 + 1000000000))).length) ∧
  (∃ (parcel : Fin 513) (num : BitVec 32) (t : Nat) (s : State) (e : EvMsg) (key : Bytes) (a : NetAddr), (s.box parcel.val).unacked.find? (fun e => e.num == num.toNat) = some e ∧ 0 < e.sends ∧ e.sends < 20 ∧ e.nextAt ≤ (s.at' t).now ∧ (∀ y, y ∈ (s.box parcel.val).unacked → y.nextAt = e.nextAt → 0 < y.sends → y.sends < 20 → e.num ≤ y.num) ∧ (s.box parcel.val).key = some key ∧ (if e.dest.isSome then e.dest else (s.box parcel.val).addr) = some a) ∧
  (∃ (parcel : Fin 513) (num : BitVec 32) (t : Nat) (s : State) (e : EvMsg), (s.box parcel.val).unacked.find? (fun e => e.num == num.toNat) = some e ∧ (e.sends = 0 ∨ 20 ≤ e.sends ∨ (s.at' t).now < e.nextAt ∨ (∃ y, y ∈ (s.box parcel.val).unacked ∧ y.nextAt = e.nextAt ∧ 0 < y.sends ∧ y.sends < 20 ∧ y.num < e.num))) ∧
  (∃ (t : Nat) (s x : State) (r : EdReq), s.mail.setAside = [r] ∧ x = { s.at' t with mail := { s.mail with setAside := [] } } ∧ (s.box r.mail.parcel.toNat).key ≠ none ∧ (s.box r.mail.parcel.toNat).isNew r.mail.seq.toNat = true ∧ x.mustWait r.mail.parcel.toNat r.mail.seq.toNat = false) ∧
  (∃ (t : Nat) (s x : State) (r : EdReq), s.mail.setAside = [r] ∧ x = { s.at' t with mail := { s.mail with setAside := [] } } ∧ (s.box r.mail.parcel.toNat).key ≠ none ∧ (s.box r.mail.parcel.toNat).isNew r.mail.seq.toNat = true ∧ x.mustWait r.mail.parcel.toNat r.mail.seq.toNat = true) ∧
  (∃ (port : Fin 8) (t : Nat) (s : State), (SMap.get false s.mail.linkUp port.val = true ∨ s.power.mode = .off ∨ (s.power.mode = .dormant ∧ port.val % 4 ≠ 0))) ∧
  (∃ (s : State) (i : Nat), i < 4 ∧ SMap.get false s.mail.linkUp i = true ∧ (∀ j, j < i → SMap.get false s.mail.linkUp j = false)) ∧
  (∃ (s : State), (∀ j, j < 4 → SMap.get false s.mail.linkUp j = false)) ∧
  (∃ (port : Fin 8) (qp : BitVec 24) (priv : Bytes) (s : State), (SMap.get false s.mail.linkUp port.val = false ∨ 4096 ≤ s.mail.qps.length ∨ (∃ q, q ∈ s.mail.qps ∧ q.num = qp.toNat))) ∧
  (∃ (port : Fin 8) (kind : Fin 4) (t : Nat) (s : State), SMap.get false s.mail.linkUp port.val = false) ∧
  (∃ (parcel : Fin 513) (num : BitVec 32) (t : Nat) (s : State), (s.box parcel.val).unacked.find? (fun e => e.num == num.toNat) = none) ∧
  (∃ (parcel : Fin 513) (num : BitVec 32) (t : Nat) (s : State), ((s.box parcel.val).key = none ∨ ((s.box parcel.val).addr = none ∧ ∀ e, e ∈ (s.box parcel.val).unacked → e.dest = none))) :=
  ⟨⟨0, 0, { s0 with mail := { MailSt.reset with linkUp := [(0, true)] } }, by decide +kernel⟩,
   ⟨0, 0, s0, by decide +kernel⟩,
   ⟨0, 0, s0, by decide +kernel⟩,
   ⟨0, 4095, [1, 0, 0, 0, 7, 0, 0, 0], { { s0 with mail := { MailSt.reset with linkUp := [(0, true)] } } with serve := { Serve.reset with rings := [(0, { ring0 with key := 7 })] } }, by decide +kernel⟩,
   ⟨4, 0, [], s0, by decide +kernel⟩,
   ⟨0, 0, 0, { { s0 with mail := { MailSt.reset with linkUp := [(0, true)] } } with serve := { Serve.reset with rings := [(0, { ring0 with key := 7 })] } }, by decide +kernel⟩,
   ⟨0, 0, 0, { s0 with mail := { MailSt.reset with answered := List.replicate 100 (0, 0) } }, by decide +kernel⟩,
   by refine ⟨0, 1, 0, boxState { event0 with sends := 1 }, { event0 with sends := 1 }, [1], ⟨0, 0, 4⟩, ?_, ?_, ?_, ?_, ?_, ?_, ?_⟩ <;> decide +kernel,
   ⟨0, 1, 0, boxState { event0 with sends := 20 }, { event0 with sends := 20 }, by decide +kernel, by decide +kernel⟩,
   ⟨0, { s0 with store := { Store.reset with floors := [(0, 65536)] }, mail := { MailSt.reset with setAside := [⟨1, { mailOf 1 0 [] with seq := 65536 }⟩], boxes := [(0, { Mailbox.fresh with key := some [1], high := 65000 })] } }, _, ⟨1, { mailOf 1 0 [] with seq := 65536 }⟩, by decide +kernel, rfl, by decide +kernel, by decide +kernel, by decide +kernel⟩,
   ⟨0, { s0 with store := { Store.reset with floors := [(0, 0)] }, mail := { MailSt.reset with setAside := [⟨1, { mailOf 1 0 [] with seq := 65536 }⟩], boxes := [(0, { Mailbox.fresh with key := some [1], high := 65000 })] } }, _, ⟨1, { mailOf 1 0 [] with seq := 65536 }⟩, by decide +kernel, rfl, by decide +kernel, by decide +kernel, by decide +kernel⟩,
   ⟨0, 0, { { s0 with mail := { MailSt.reset with linkUp := [(0, true)] } } with serve := { Serve.reset with rings := [(0, { ring0 with key := 7 })] } }, by decide +kernel⟩,
   ⟨{ { s0 with mail := { MailSt.reset with linkUp := [(0, true)] } } with serve := { Serve.reset with rings := [(0, { ring0 with key := 7 })] } }, 0, by decide +kernel⟩,
   ⟨s0, by decide +kernel⟩,
   ⟨0, 0, [], s0, by decide +kernel⟩,
   ⟨0, 0, 0, s0, by decide +kernel⟩,
   ⟨0, 0, 0, s0, by decide +kernel⟩,
   ⟨0, 0, 0, s0, by decide +kernel⟩⟩

set_option maxRecDepth 4000 in
/-- States and operands that meet the hypotheses of `RegistersAreWrittenAndCleared`, clause by clause. -/
theorem witness_RegistersAreWrittenAndCleared :
  (∃ (s : State) (g : Nat) (o : Nat), g < 4096 ∧ o < 0x1000 ∧ s.power.mode ≠ .off) ∧
  (∃ (s : State) (o : Nat), s.power.mode = .off) ∧
  (∃ (off : BitVec 32) (v : BitVec 64) (s : State), s.regOn off.toNat = false) ∧
  (∃ (off : BitVec 32) (v : BitVec 64) (s : State) (g : Nat), s.regOn off.toNat = true ∧ g < 4096 ∧ off.toNat = 0x1000 * g + 0x018) ∧
  (∃ (off : BitVec 32) (v : BitVec 64) (s : State) (g : Nat), s.regOn off.toNat = true ∧ g < 4096 ∧ off.toNat = 0x1000 * g + 0x108) ∧
  (∃ (off : BitVec 32) (v : BitVec 64) (s : State) (b : Nat), s.regOn off.toNat = true ∧ b < 64 ∧ off.toNat = 0x1000000 + 0x1000 * b + 0x050) ∧
  (∃ (off : BitVec 32) (v : BitVec 64) (s : State) (e : Nat), s.regOn off.toNat = true ∧ e < 64 ∧ off.toNat = 0x1040000 + 0x1000 * e + 0x030) ∧
  (∃ (off : BitVec 32) (v : BitVec 64) (s : State) (q : Nat), s.regOn off.toNat = true ∧ q < 4 ∧ off.toNat = 0x3000000 + 0x100000 * q + 0x10) ∧
  (∃ (off : BitVec 32) (v : BitVec 64) (s : State) (e : Nat), s.regOn off.toNat = true ∧ e < 4 ∧ off.toNat = 0x3400000 + 0x10000 * e + 0x010) ∧
  (∃ (off : BitVec 32) (v : BitVec 64) (s : State) (g : Nat), s.regOn off.toNat = true ∧ g < 96 ∧ off.toNat = 0x4000000 + 0x1000 * g + 0x010) ∧
  (∃ (off : BitVec 32) (v : BitVec 64) (s : State), s.regOn off.toNat = true ∧ off.toNat = 0x10060058 ∧ s.power.event < 2 ^ 64) ∧
  (∃ (off : BitVec 32) (v : BitVec 64) (s : State), s.regOn off.toNat = true ∧ off.toNat = 0x10080008 ∧ s.sec.event < 2 ^ 64) ∧
  (∃ (off : BitVec 32) (s : State) (g : Nat), s.regOn off.toNat = true ∧ g < 4096 ∧ off.toNat = 0x1000 * g + 0x040) ∧
  (∃ (off : BitVec 32) (s : State) (g : Nat), s.regOn off.toNat = true ∧ g < 4096 ∧ off.toNat = 0x1000 * g + 0x018) ∧
  (∃ (off : BitVec 32) (v : BitVec 64) (s : State) (g : Nat), s.regOn off.toNat = true ∧ g < 4096 ∧ off.toNat = 0x1000 * g + 0x028) ∧
  (∃ (off : BitVec 32) (v : BitVec 64) (s : State) (g : Nat), s.regOn off.toNat = true ∧ g < 4096 ∧ off.toNat = 0x1000 * g + 0x100) ∧
  (∃ (off : BitVec 32) (v : BitVec 64) (s : State) (g : Nat), s.regOn off.toNat = true ∧ g < 4096 ∧ (off.toNat = 0x1000 * g + 0x018 ∨ off.toNat = 0x1000 * g + 0x048)) ∧
  (∃ (off : BitVec 32) (v : BitVec 64) (s : State) (n : Nat), s.power.mode ≠ .off ∧ n < 256 ∧ off.toNat = 0x10000800 + 8 * n) ∧
  (∃ (off : BitVec 32) (v : BitVec 64) (s : State), s.power.mode ≠ .off ∧ off.toNat = 0x10060008) ∧
  (∃ (off : BitVec 32) (v : BitVec 64) (s : State), s.power.mode ≠ .off ∧ off.toNat = 0x10040010) ∧
  (∃ (off : BitVec 32) (v : BitVec 64) (s : State), off.toNat % 8 ≠ 0) ∧
  (∃ (off : BitVec 32) (v : BitVec 64) (s : State), off.toNat % 8 = 0) ∧
  (∃ (off : BitVec 32) (v : BitVec 64) (s : State) (g o : Nat), s.regOn off.toNat = true ∧ g < 4096 ∧ o < 0x1000 ∧ o % 8 = 0 ∧ off.toNat = 0x1000 * g + o) ∧
  (∃ (t : Tile) (n : Nat), t.regs.state = .idle) ∧
  (∃ (t : Tile) (o n : Nat), t.regs.state ≠ .idle) ∧
  (∃ (off : BitVec 32) (v : BitVec 64) (s : State) (e : Nat), s.regOn off.toNat = true ∧ e < 64 ∧ off.toNat = 0x1040000 + 0x1000 * e + 0x008) ∧
  (∃ (off : BitVec 32) (v : BitVec 64) (s : State) (e o : Nat), s.regOn off.toNat = true ∧ e < 64 ∧ o < 0x1000 ∧ o % 8 = 0 ∧ o ≠ 0x008 ∧ off.toNat = 0x1040000 + 0x1000 * e + o) ∧
  (∃ (x : Engine) (n : Nat), x.enable = true) ∧
  (∃ (x : Engine) (n : Nat), x.enable = false) ∧
  (∃ (off : BitVec 32) (v : BitVec 64) (s : State) (a o : Nat), s.regOn off.toNat = true ∧ a < 112 ∧ o < 0x1000 ∧ o % 8 = 0 ∧ off.toNat = 0x2000000 + 0x1000 * a + o) ∧
  (∃ (x : Arb) (a r n : Nat), r < arbRequesters a) ∧
  (∃ (off : BitVec 32) (v : BitVec 64) (s : State) (e o : Nat), s.regOn off.toNat = true ∧ e < 4 ∧ o < 0x10000 ∧ o % 8 = 0 ∧ off.toNat = 0x3400000 + 0x10000 * e + o) ∧
  (∃ (off : BitVec 32) (v : BitVec 64) (s : State) (q : Nat), s.regOn off.toNat = true ∧ q < 4 ∧ off.toNat = 0x3000000 + 0x100000 * q) ∧
  (∃ (off : BitVec 32) (v : BitVec 64) (s : State) (t : Nat), s.power.mode ≠ .off ∧ t < 1024 ∧ 0x4100000 + 64 * t ≤ off.toNat ∧ off.toNat < 0x4100000 + 64 * (t + 1) ∧ s.modelRuns (s.tableEnt t).model = true) ∧
  (∃ (off : BitVec 32) (v : BitVec 64) (s : State) (w : Nat), s.power.mode ≠ .off ∧ w < 4 ∧ off.toNat = 0x10000100 + 8 * w) ∧
  (∃ (off : BitVec 32) (v : BitVec 64) (s : State), s.power.mode ≠ .off ∧ off.toNat = 0x10040028) ∧
  (∃ (off : BitVec 32) (v : BitVec 64) (s : State) (a : Nat), s.regOn off.toNat = true ∧ a < 112 ∧ off.toNat = 0x2000000 + 0x1000 * a + 0x018 ∧ (s.arb a).starve < 2 ^ 64) ∧
  (∃ (off : BitVec 32) (v : BitVec 64) (s : State) (i : Nat), s.power.mode ≠ .off ∧ i < 12 ∧ off.toNat = 0x10100028 + 0x1000 * i) ∧
  (∃ (off : BitVec 32) (v : BitVec 64) (s : State) (g o : Nat), g < 4096 ∧ o < 0x1000 ∧ o ≠ 0x018 ∧ o ≠ 0x108 ∧ off.toNat = 0x1000 * g + o) :=
  ⟨⟨s0, 4095, 0xFFF, by decide +kernel⟩,
   ⟨powerState { pw0 with mode := .off }, 0, by decide +kernel⟩,
   ⟨0, 0, State.reset, by decide +kernel⟩,
   ⟨0xFFF018, 0, s0, 4095, by decide +kernel⟩,
   ⟨0xFFF108, 0, s0, 4095, by decide +kernel⟩,
   ⟨0x103F050, 0, s0, 63, by decide +kernel⟩,
   ⟨0x107F030, 0, s0, 63, by decide +kernel⟩,
   ⟨0x3300010, 0, s0, 3, by decide +kernel⟩,
   ⟨0x3430010, 0, s0, 3, by decide +kernel⟩,
   ⟨0x405F010, 0, s0, 95, by decide +kernel⟩,
   ⟨0x10060058, 0, s0, by decide +kernel⟩,
   ⟨0x10080008, 0, s0, by decide +kernel⟩,
   ⟨0x40, s0, 0, by decide +kernel⟩,
   ⟨0x18, s0, 0, by decide +kernel⟩,
   ⟨0x28, 0, s0, 0, by decide +kernel⟩,
   ⟨0x100, 0, s0, 0, by decide +kernel⟩,
   ⟨0x48, 0, s0, 0, by decide +kernel⟩,
   ⟨0x10000FF8, 0, s0, 255, by decide +kernel⟩,
   ⟨0x10060008, 0, s0, by decide +kernel⟩,
   ⟨0x10040010, 0, s0, by decide +kernel⟩,
   ⟨1, 0, s0, by decide +kernel⟩,
   ⟨0, 0, s0, by decide +kernel⟩,
   ⟨0, 0, s0, 0, 0, by decide +kernel⟩,
   ⟨tileOf c0, 0, by decide +kernel⟩,
   ⟨Tile.holds (tileOf c0) 0 0 (fOf 0 0 0 0), 0, 0, by decide +kernel⟩,
   ⟨0x107F008, 0, s0, 63, by decide +kernel⟩,
   ⟨0x1040000, 0, s0, 0, 0, by decide +kernel⟩,
   ⟨{ Engine.reset with enable := true }, 0, by decide +kernel⟩,
   ⟨Engine.reset, 0, by decide +kernel⟩,
   ⟨0x206F000, 0, s0, 111, 0, by decide +kernel⟩,
   ⟨Arb.reset, 0, 0, 0, by decide +kernel⟩,
   ⟨0x3400000, 0, s0, 0, 0, by decide +kernel⟩,
   ⟨0x3300000, 0, s0, 3, by decide +kernel⟩,
   ⟨0x4100000, 0, { modelState model0 with tables := [(0, { TableEnt.reset with valid := true, model := 256 })], blocks := [(0, { Block.reset with plot := some { p0 with model := 256, state := .running } })] }, 0, by decide +kernel⟩,
   ⟨0x10000118, 0, s0, 3, by decide +kernel⟩,
   ⟨0x10040028, 0, s0, by decide +kernel⟩,
   ⟨0x206F018, 0, s0, 111, by decide +kernel⟩,
   ⟨0x1010B028, 0, s0, 11, by decide +kernel⟩,
   ⟨0, 0, s0, 0, 0, by decide +kernel⟩⟩

set_option maxRecDepth 4000 in
/-- States and operands that meet the hypotheses of `SelfTestsFenceTiles`, clause by clause. -/
theorem witness_SelfTestsFenceTiles :
  (∃ (r : TileRegs) (mask us : Nat), mask % 128 = 0) ∧
  (∃ (r : TileRegs) (mask us : Nat), mask % 128 ≠ 0) ∧
  (∃ (quad : Fin 4) (full : Bool) (fails : List (Fin 1024 × BitVec 7)) (us : BitVec 16) (trained : BitVec 6) (rate8g : Bool) (t : Nat) (s : State), s.power.jobs = []) ∧
  (∃ (quad : Fin 4) (full : Bool) (fails : List (Fin 1024 × BitVec 7)) (us : Nat) (s y : State), s.selfTestQuad quad.val full fails us = y) ∧
  (∃ (s : State), (∀ b p, s.plot b = some p → p.task ≠ none ∨ s.fencesOk p = true)) ∧
  (∃ (s : State) (b : Nat) (p : Plot), s.fencesOk p = false) ∧
  (∃ (quad : Fin 4) (fails : List (Fin 1024 × BitVec 7)) (us : BitVec 16) (trained : BitVec 6) (rate8g : Bool) (t : Nat) (s : State) (j : QuadJob), s.power.jobs = [j] ∧ j.quad = quad.val ∧ j.action = 1) :=
  ⟨⟨TileRegs.reset, 0, 0, by decide +kernel⟩,
   ⟨TileRegs.reset, 1, 0, by decide +kernel⟩,
   ⟨0, true, [], 0, 63, true, 0, s0, by decide +kernel⟩,
   ⟨0, false, [], 0, s0, _, rfl⟩,
   ⟨s0, fun _ _ h => nomatch h⟩,
   ⟨{ plotState p0 with tiles := [(0, { Tile.reset with regs := { TileRegs.reset with fenceFull := true } })] }, 0, p0, by decide +kernel⟩,
   ⟨3, [], 0, 63, true, 0, powerState { pw0 with jobs := [⟨3, 1, waiter0, 0, 0⟩] }, ⟨3, 1, waiter0, 0, 0⟩, by decide +kernel⟩⟩

set_option maxRecDepth 4000 in
/-- States and operands that meet the hypotheses of `StepRunsTheFrontCommand`, clause by clause. -/
theorem witness_StepRunsTheFrontCommand :
  (∃ (c : Instr) (q : List Instr) (s : State), s.pending = c :: q) ∧
  (∃ (s : State), s.pending = []) :=
  ⟨⟨.hicSwi 0, [], { s0 with pending := [.hicSwi 0] }, by decide +kernel⟩,
   ⟨s0, by decide +kernel⟩⟩

set_option maxRecDepth 4000 in
/-- States and operands that meet the hypotheses of `ResetLeavesTheStatedValues`, clause by clause. -/
theorem witness_ResetLeavesTheStatedValues :
  (∃ q, q < 4) ∧
  (∃ i, i < 12) ∧
  (∃ w, w < 4) :=
  ⟨⟨3, by decide +kernel⟩,
   ⟨11, by decide +kernel⟩,
   ⟨3, by decide +kernel⟩⟩

set_option maxRecDepth 4000 in
/-- States and operands that meet the hypotheses of `EveryStepKeepsMemoryCanonicalAndTheQueue`, clause by clause. -/
theorem witness_EveryStepKeepsMemoryCanonicalAndTheQueue :
  (∃ (s t : State), Memory.wf s.mem = true ∧ step s = .next t) ∧
  (∃ (c : Instr) (q : List Instr) (s t : State), Kept q s ∧ exec c s = .next t) ∧
  (∃ (n : Nat) (s t : State), Memory.wf s.mem = true ∧ runFrom n s = some t) :=
  ⟨⟨s0, _, by decide +kernel, rfl⟩,
   ⟨.logPageWrite 0, [], s0, _, ⟨rfl, rfl⟩, rfl⟩,
   ⟨0, s0, s0, by decide +kernel, rfl⟩⟩

set_option maxRecDepth 4000 in
/-- States and operands that meet the hypotheses of `AnEventSetsThePendingBit`, clause by clause. -/
theorem witness_AnEventSetsThePendingBit :
  (∃ (s : State) (n : Nat), n < 256) ∧
  (∃ (s : State) (c n : Nat), n < 256 ∧ s.hic.en.getLsbD n = true ∧ SMap.get 0 s.hic.target n = c ∧ SMap.get 0 s.hic.thresh c < SMap.get 0 s.hic.prio n ∧ s.hic.enable = true ∧ s.hic.of c = [] ∧ (∀ m, m < 256 → m ≠ n → s.hic.eligible c m = false)) :=
  ⟨⟨s0, 255, by decide +kernel⟩,
   ⟨{ s0 with hic := { hic0 with pend := 0 } }, 0, 5, by decide +kernel⟩⟩

set_option maxRecDepth 4000 in
/-- States and operands that meet the hypotheses of `ACoreHoldsAtMostSixteenSources`, clause by clause. -/
theorem witness_ACoreHoldsAtMostSixteenSources :
  (∃ (x : CoreIn) (s t : State) (c : Nat), (s.hic.of c).length ≤ 16 ∧ exec (.hicTake x) s = .next t) ∧
  (∃ (core : Fin 4) (src : BitVec 8) (s t : State) (c : Nat), exec (.hicEoi core src) s = .next t) ∧
  (∃ (w : Fin 4) (v events : BitVec 64) (taker : Option CoreIn) (s t : State) (c : Nat), (s.hic.of c).length ≤ 16 ∧ exec (.hicPendWrite w v events taker) s = .next t) ∧
  (∃ (s : State) (c : Nat), 16 ≤ (s.hic.of c).length) ∧
  (∃ (x : CoreIn) (s : State), 16 ≤ (s.hic.of x.core.val).length) :=
  ⟨⟨⟨0, 64, true, true⟩, hicState hic0 core0, (hicState hic0 core0).take ⟨0, 64, true, true⟩, 0, by decide +kernel, rfl⟩,
   ⟨0, 5, s0, _, 0, rfl⟩,
   ⟨0, 0, 0, none, s0, _, 0, by decide +kernel, rfl⟩,
   ⟨{ s0 with hic := full16 }, 0, by decide +kernel⟩,
   ⟨⟨0, 0, true, true⟩, { s0 with hic := full16 }, by decide +kernel⟩⟩

set_option maxRecDepth 4000 in
/-- States and operands that meet the hypotheses of `EventsAreNumberedSentAndKept`, clause by clause. -/
theorem witness_EventsAreNumberedSentAndKept :
  (∃ (s : State) (p kind op seq status object : Nat) (body : Bytes) (dest : Option NetAddr), (s.box p).key = none) ∧
  (∃ (s y : State) (p kind op seq status object : Nat) (body : Bytes) (dest : Option NetAddr), (s.box p).key ≠ none ∧ s.event p kind op seq status object body dest = y) ∧
  (∃ (s : State) (p kind op seq status object : Nat) (body key : Bytes) (a : NetAddr), (s.box p).key = some key) :=
  ⟨⟨s0, 0, 1, 0x80, 1, 0, 0, [], none, by decide +kernel⟩,
   ⟨keyed s0, _, 0, 1, 0x80, 1, 0, 0, [], none, by decide +kernel, rfl⟩,
   ⟨keyed s0, 0, 1, 0x80, 1, 0, 0, [], [1], ⟨0, 0, 4⟩, by decide +kernel⟩⟩

set_option maxRecDepth 4000 in
/-- States and operands that meet the hypotheses of `FaultsStopTheirTileAndForceItsPlot`, clause by clause. -/
theorem witness_FaultsStopTheirTileAndForceItsPlot :
  (∃ (s y : State) (g cause status : Nat) (info : BitVec 64), s.tileFault g cause info status = y) ∧
  (∃ (s : State) (g cause status : Nat) (info : BitVec 64) (b : Nat) (p : Plot), (s.tile g).lead = some b ∧ b < 64 ∧ s.plot b = some p ∧ p.state ≠ .free ∧ p.state ≠ .forcing) ∧
  (∃ (s y : State) (g cause : Nat) (info : BitVec 64), s.canalFault g cause info = y) ∧
  (∃ (s : State) (g cause : Nat) (info : BitVec 64) (b : Nat) (p : Plot), (s.tile g).lead = some b ∧ b < 64 ∧ s.plot b = some p ∧ p.state ≠ .free ∧ p.state ≠ .forcing) :=
  ⟨⟨coreState c0, _, 0, 1, 0x0403, 0, rfl⟩,
   ⟨{ s0 with tiles := [(0, { tileOf c0 with lead := some 63 })], blocks := [(63, { Block.reset with plot := some { p0 with state := .running } })] }, 0, 1, 0x0403, 0, 63, { p0 with state := .running }, by decide +kernel⟩,
   ⟨coreState c0, _, 0, 1, 0, rfl⟩,
   ⟨{ s0 with tiles := [(0, { tileOf c0 with lead := some 63 })], blocks := [(63, { Block.reset with plot := some { p0 with state := .running } })] }, 0, 1, 0, 63, { p0 with state := .running }, by decide +kernel⟩⟩

set_option maxRecDepth 4000 in
/-- States and operands that meet the hypotheses of `WritesRenewWholeCodeWords`, clause by clause. -/
theorem witness_WritesRenewWholeCodeWords :
  (∃ (m : Mem) (k i : Nat) (l : Bytes), i < l.length) ∧
  (∃ (m : Mem) (k a : Nat) (l : Bytes), (a < k ∨ k + l.length ≤ a)) ∧
  (∃ (m : Mem) (k : Nat) (l : Bytes), Memory.wf m = true) :=
  ⟨⟨State.reset.mem, 0, 0, [1], by decide +kernel⟩,
   ⟨State.reset.mem, 0, 1, [1], by decide +kernel⟩,
   ⟨State.reset.mem, 0, [1], by decide +kernel⟩⟩

set_option maxRecDepth 4000 in
/-- States and operands that meet the hypotheses of `ManagementLeavesMemoryAndTokens`, clause by clause. -/
theorem witness_ManagementLeavesMemoryAndTokens :
  ∃ (c : Instr) (s t : State), leavesMemory c = true ∧ exec c s = .next t :=
  ⟨.hicSwi 0, s0, _, by decide +kernel, rfl⟩


/-! Terms that are not well formed: one for each check of WellFormed, beside one that passes. -/

theorem test_cycle_of_a_tile : Instr.wf (.aclr { x0 with busy := [1, 2] } (fOf 0 0 0 0)) = true := by decide
theorem test_cycle_names_a_context_twice : Instr.wf (.aclr { x0 with busy := [1, 0] } (fOf 0 0 0 0)) = false := by decide
theorem test_inputs_of_a_cycle : Instr.wf (.tokenArrive 0 1 0 0 [(1, 0)]) = false := by decide
theorem test_selftest_fails_once : Instr.wf (.selftestComplete 0 false [(5, 1), (5, 2)] 0 0 false 0) = false := by decide

/-- A datagram of NOP. -/
def mail0 : Mail :=
  { port := 4, srcIp := 0, srcUdp := 0, magic := 0x4544, version := 1, hflags := 0, parcel := 0, seq := 1, len := 0, status := 0,
    resv := zeros 30, tag := 0, payload := [], fetched := none, now := 0, drop := false }

theorem test_mail_wf : Instr.wf (.topologyRead mail0) = true := by decide
theorem test_mail_reserved_bytes : Instr.wf (.topologyRead { mail0 with resv := [] }) = false := by decide
theorem test_mail_payload_bound : Instr.wf (.topologyRead { mail0 with payload := List.replicate 8129 0 }) = false := by decide +kernel
theorem test_nop_takes_no_other_row : Instr.wf (.edushNop 0x10 mail0) = false := by decide
theorem test_state_set_mode : Instr.wf (.stateSet { mail0 with payload := [1, 1] }) = false := by decide
theorem test_key_install_mode : Instr.wf (.parcel0KeyInstall { mail0 with payload := [2, 1] }) = false := by decide
theorem test_quadrant_action : Instr.wf (.quadrantReturn { mail0 with payload := [0, 1] }) = false := by decide
theorem test_policy_image_magic : Instr.wf (.policyImageStage { mail0 with fetched := some [1] }) = false := by decide
theorem test_firmware_image_magic : Instr.wf (.fwStage { mail0 with fetched := some [0x50, 0x50, 0x4F, 0x4C] }) = false := by decide
theorem test_message_length : Instr.wf (.write 0 { msg0 with len := 4 }) = false := by decide
theorem test_sub_packet_ranges : Instr.wf (.gatherSubpacket 0 (some { sub0 with table := 1024 })) = false := by decide
theorem test_partial_class : Instr.wf (.gatherPartial 0 (some { part0 with elems := [⟨4, 0, false, 0, 0⟩] })) = false := by decide
theorem test_set_shares : Instr.wf (.rebalance 0 [⟨256, [⟨0, true, 0, 0, 0, 0, 0, 9, 8⟩]⟩]) = false := by decide
theorem test_sample_sizes : Instr.wf (.thermalSample (temps 40) 0) = false := by decide
theorem test_power_up_quadrants : Instr.wf (.powerUpFromOff 0 [] 0) = false := by decide
theorem test_flit_length : Instr.wf (.flitReceive 0 [] 0) = false := by decide
theorem test_ring_write_bound : Instr.wf (.intakeRdmaWrite 0 0 false (2 ^ 18) [1]) = false := by decide

/-! The spec's worked examples, value by value. -/

/-- Tile 2,085 is at row 33, column 5 (the example of chapter 1). -/
theorem test_tile_place : (tileRow 2085, tileCol 2085) = (33, 5) := by decide

/-- Its slice offset 0x1_0000 on the module in tray slot 1 (the example of chapter 6). -/
theorem test_board_address : ({ s0 with slot := 1 } : State).boardAddr (fieldKey 2085 0x10000) = 0x4000209410000 := by decide +kernel

/-- The product of 0x4140 and 0x3E20 under W = 4 is 15 × 2^93, exact (the example of chapter 3). -/
theorem test_product_exact :
    contrib 4 (mmaProduct (elemVal 10 0x4140) (elemVal 10 0x3E20) (some 0) (some 0)) = ⟨15 * 2 ^ 93, false, false, .finite⟩ := by decide +kernel

/-- That of 0x2B81 and 0x2683 is 66 with UNDER. -/
theorem test_product_truncated :
    contrib 4 (mmaProduct (elemVal 10 0x2B81) (elemVal 10 0x2683) (some 0) (some 0)) = ⟨66, true, false, .finite⟩ := by decide +kernel

/-- Their sum reads out as BF16 0x3FF0. -/
theorem test_read_out_nearest : (⟨15 * 2 ^ 93 + 66, .finite⟩ : Acc).readOut 4 10 false 0 = 0x3FF0 := by decide +kernel

/-- 1.875 + 2^−9 rounds up with r = 0xD000_0000 and down with r = 0x2000_0000. -/
theorem test_read_out_stochastic :
    ((⟨15 * 2 ^ 93 + 2 ^ 87, .finite⟩ : Acc).readOut 4 10 true 0xD0000000, (⟨15 * 2 ^ 93 + 2 ^ 87, .finite⟩ : Acc).readOut 4 10 true 0x20000000)
      = (0x3FF1, 0x3FF0) := by decide +kernel

/-- An MXFP8 E4M3 block with amax = 300 has scale 0x7F, and 300 reads as 0x79 (chapter 3). -/
theorem test_mx_block : (mxScale 3 0 [⟨300 * 2 ^ 100, .finite⟩], readFin fmtE4M3 false 0 false 300 0) = (0x7F, 0x79) := by decide +kernel

/-- The gate weights of scores 0.375 and 0.25 are 0x3F19_999A and 0x3ECC_CCCD (the example of chapter 9). -/
theorem test_gate_weights :
    (gateWeight true (fun x => if x = 2 then 0x3EC0 else 0x3E80) [2, 1] 0, gateWeight true (fun x => if x = 2 then 0x3EC0 else 0x3E80) [2, 1] 1)
      = (0x3F19999A, 0x3ECCCCCD) := by decide +kernel

/-- Scores 0.125, 0.25, 0.375, 0.25 rank e2, e1, e3, e0. -/
theorem test_rank : rankExperts 4 (fun x => if x = 0 then 0x3E00 else if x = 2 then 0x3EC0 else 0x3E80) = [2, 1, 3, 0] := by decide +kernel

/-- With e1 and e2 full, both copies of slot 3 move, to e3 and e0. -/
theorem test_second_choice :
    (offerSecond { RTable.reset with cap := [(0, 3), (1, 3), (2, 3), (3, 3)], used := [(1, 3), (2, 3)] } [3, 0] [⟨0, none, false⟩, ⟨1, none, false⟩]).2.1
      = [⟨0, some 3, true⟩, ⟨1, some 0, true⟩] := by decide +kernel

/-- The table of the example of chapter 11. -/
def table12 : TableEnt :=
  { TableEnt.reset with
    valid := true, fmt := 8, scaled := true, rowBytes := 128, rowsTotal := 1200000000, bound1 := 300000000, bound2 := 600000000, bound3 := 900000000,
    base := 0x1000400000000, rpb := 15, twin := 80 }

/-- Rows 5, 299,999,999 and, on module 2, 130,000,017 go to engines 0, 9 and 16. -/
theorem test_gather_engines : [5, 299999999, 130000017].map table12.engineOf = [0, 9, 16] := by decide +kernel

/-- 23 at scale 2^−7, −9 at 2^−6 and 100 at 2^−8 make 450,560 units, BF16 0x3EDC. -/
theorem test_gather_pool :
    poolOut 0 3 80 10 ((([(23, 0x3C000000), (256 - 9, 0x3C800000), (100, 0x3B800000)].foldl (fun (b : Bag) x =>
      b.addRow 0 80 [(elemVal 8 x.1).mul (fmtFP32.decode x.2)]) ⟨0, [], false, false, 3, false⟩).elems).headD elemZero) = 0x3EDC := by decide +kernel

/-- The interrupt controller of the example of chapter 15: 117 runs on core 2, 25 and 117 pend. -/
def hic15 : Hic :=
  { Hic.reset with
    grpBits := 4, enable := true, en := BitVec.allOnes 256, pend := BitVec.ofNat 256 (2 ^ 25 + 2 ^ 117),
    prio := [(25, 0x5A), (117, 0x52), (203, 0x90)], target := [(25, 2), (117, 2), (203, 2)], vbase := [(2, 0x1004000)], active := [⟨2, 117, 0x52⟩] }

/-- Group 5 is not above the running group 5. -/
theorem test_hic_same_group : hic15.offer 2 = none := by decide +kernel

/-- Source 203 of group 9 is taken at 0x0100_72C0. -/
theorem test_hic_take :
    ((({ s0 with hic := { hic15 with pend := BitVec.ofNat 256 (2 ^ 25 + 2 ^ 117 + 2 ^ 203) }, cores := [(2, core0)] } : State).take ⟨2, 0, true, true⟩).core 2).pc
      = 0x010072C0 := by decide +kernel

/-- With none active, source 25 comes before 117 by its lower priority bits. -/
theorem test_hic_lower_bits : ({ hic15 with active := [] } : Hic).offer 2 = some 25 := by decide +kernel

/-- After SEQ 1,001 the number 938 may be new and 937 may not (the example of chapter 13). -/
theorem test_seq_window :
    (({ Mailbox.fresh with high := 1001, seen := 1 } : Mailbox).isNew 938, ({ Mailbox.fresh with high := 1001, seen := 1 } : Mailbox).isNew 937)
      = (true, false) := by decide +kernel

end Sys2Proof.Tests
end

section
/-! SUPPORT. The registers of control space (R9, R10, R12, R13, R412): which domain gates an offset, what a read, a write and a write of
ones find at the offset of each unit, and the two statements of chapter 0 that these settle. -/

namespace Sys2Proof.Machine

/-! Bits of a natural number. -/

theorem bitB_eq_testBit (n i : Nat) : bitB n i = n.testBit i := by
  rw [bitB, Nat.testBit_eq_decide_div_mod_eq, beq_eq_decide]

theorem bitB_toNat {w : Nat} (v : BitVec w) (i : Nat) : bitB v.toNat i = v.getLsbD i := bitB_eq_testBit _ _

/-- Ones written to an event word clear their bits (R9). -/
theorem bitB_and_not {x : Nat} (v : BitVec 64) (hx : x < 2 ^ 64) (i : Nat) :
    bitB (x &&& (2 ^ 64 - 1 - v.toNat)) i = (bitB x i && !bitB v.toNat i) := by
  have hn : 2 ^ 64 - 1 - v.toNat = 2 ^ 64 - (v.toNat + 1) := by omega
  simp only [bitB_eq_testBit, Nat.testBit_and, hn, Nat.testBit_two_pow_sub_succ v.isLt]
  by_cases hi : i < 64
  · simp only [hi, decide_true, Bool.true_and]
  · have : x.testBit i = false := Nat.testBit_lt_two_pow (hx.trans_le (Nat.pow_le_pow_right (by decide) (by omega)))
    simp only [this, Bool.false_and]

/-- Replacing the 64 bits from `k` on leaves the bits below and above them. -/
theorem testBit_replace_field {x m : Nat} (k i : Nat) (hm : m < 2 ^ 64) :
    (x - x / 2 ^ k % 2 ^ 64 * 2 ^ k + m * 2 ^ k).testBit i = if k ≤ i ∧ i < k + 64 then m.testBit (i - k) else x.testBit i := by
  have hx : x = 2 ^ k * (2 ^ 64 * (x / 2 ^ k / 2 ^ 64) + x / 2 ^ k % 2 ^ 64) + x % 2 ^ k := by
    rw [Nat.div_add_mod, Nat.div_add_mod]
  have hlo : x % 2 ^ k < 2 ^ k := Nat.mod_lt _ (Nat.two_pow_pos k)
  have hq : x / 2 ^ k % 2 ^ 64 < 2 ^ 64 := Nat.mod_lt _ (Nat.two_pow_pos 64)
  generalize x / 2 ^ k / 2 ^ 64 = hi at hx
  generalize x / 2 ^ k % 2 ^ 64 = q at hx hq ⊢
  generalize x % 2 ^ k = lo at hx hlo
  have hy : x - q * 2 ^ k + m * 2 ^ k = 2 ^ k * (2 ^ 64 * hi + m) + lo := by
    rw [hx, Nat.mul_add, Nat.mul_add, Nat.mul_comm q, Nat.mul_comm m]
    omega
  rw [hy, hx]
  simp only [Nat.testBit_two_pow_mul_add _ hlo, Nat.testBit_two_pow_mul_add _ hm, Nat.testBit_two_pow_mul_add _ hq]
  by_cases h1 : i < k
  · rw [if_pos h1, if_neg (by omega), if_pos h1]
  · by_cases h2 : i - k < 64
    · rw [if_neg h1, if_pos h2, if_pos (by omega)]
    · rw [if_neg h1, if_neg h2, if_neg (by omega), if_neg h1, if_neg h2]

theorem getLsbD_setQuarter (x : BitVec 256) (v : BitVec 64) (w n : Nat) (hn : n < 256) :
    (setQuarter x w v.toNat).getLsbD n = if n / 64 = w then v.getLsbD (n % 64) else x.getLsbD n := by
  rw [setQuarter, quarter, BitVec.getLsbD_ofNat, testBit_replace_field _ _ (Nat.mod_lt _ (Nat.two_pow_pos 64)), Nat.mod_eq_of_lt v.isLt]
  by_cases h : n / 64 = w
  · rw [if_pos h, if_pos (by omega), show n - 64 * w = n % 64 by omega, decide_eq_true hn, Bool.true_and]
    rfl
  · rw [if_neg h, if_neg (by omega), decide_eq_true hn, Bool.true_and]
    rfl

/-! Fault records. -/

/-- Bit 8 clears a record whole, bit 9 its `MULTI` alone (R9, Table 2-17). -/
theorem FaultRec.w1c_fields (f : FaultRec) (v : Nat) :
    (bitB v 8 = true → f.w1c v = .clear) ∧
    (bitB v 8 = false → (f.w1c v).valid = f.valid ∧ (f.w1c v).cause = f.cause ∧ (f.w1c v).info = f.info ∧
      (f.w1c v).multi = (f.multi && !bitB v 9)) := by
  refine ⟨fun h => by rw [FaultRec.w1c, if_pos h], fun h => ?_⟩
  rw [FaultRec.w1c, if_neg (by simp [h])]
  cases hb : bitB v 9 <;> simp

/-! The writes of one unit. -/

/-- A tile that is not idle ignores writes (R66, R128). -/
theorem Tile.write_of_busy {t : Tile} (o n : Nat) (h : t.regs.state ≠ .idle) : t.write o n = t :=
  if_pos h

theorem Tile.write_fwinBase {t : Tile} (n : Nat) (h : t.regs.state = .idle) :
    t.write 0x028 n = t.updRegs (fun r => { r with fwinBase := n % 2 ^ 22 / 4096 * 4096 }) :=
  if_neg (not_not_intro h)

theorem Tile.write_fwinLimit {t : Tile} (n : Nat) (h : t.regs.state = .idle) :
    t.write 0x030 n = t.updRegs (fun r => { r with fwinLimit := n % 2 ^ 22 / 4096 * 4096 }) :=
  if_neg (not_not_intro h)

theorem Tile.write_windows {t : Tile} (n : Nat) (h : t.regs.state = .idle) :
    t.write 0x038 n = { t with a0 := { t.a0 with w := BitVec.ofNat 10 n }, a1 := { t.a1 with w := BitVec.ofNat 10 (n / 2 ^ 16) } } :=
  if_neg (not_not_intro h)

theorem Tile.write_canalCtrl {t : Tile} (n : Nat) (h : t.regs.state = .idle) :
    t.write 0x100 n = t.updRegs (fun r => { r with
      period := n % 256, linkEn := n / 2 ^ 8 % 16, epochAccept := n / 2 ^ 16 % 2 ^ 16 }) :=
  if_neg (not_not_intro h)

/-- A write of the window base leaves the limit and the V registers, idle or not. -/
theorem Tile.write_fwinBase_frame (t : Tile) (n : Nat) :
    (t.write 0x028 n).regs.fwinLimit = t.regs.fwinLimit ∧ (t.write 0x028 n).v = t.v := by
  by_cases h : t.regs.state = .idle
  · rw [Tile.write_fwinBase n h]
    exact ⟨rfl, rfl⟩
  · rw [Tile.write_of_busy _ n h]
    exact ⟨rfl, rfl⟩

/-- The fault record and the counters of a tile take no write (R12, Table 2-15). -/
theorem Tile.write_readOnly (t : Tile) {o : Nat} (n : Nat) (h : o = 0x018 ∨ o = 0x048) : t.write o n = t := by
  unfold Tile.write
  obtain rfl | rfl := h <;> exact ite_self t

/-- The ring of an engine is fixed while the engine is enabled (R200). -/
theorem Engine.write_ring_of_enabled {x : Engine} (n : Nat) (h : x.enable = true) : x.write 0x010 n = x ∧ x.write 0x018 n = x :=
  ⟨if_pos h, if_pos h⟩

theorem Engine.write_ring_of_disabled {x : Engine} (n : Nat) (h : x.enable = false) :
    x.write 0x010 n = { x with ringBase := n % 2 ^ 52 / 64 * 64 } ∧ x.write 0x018 n = { x with ringSize := n % 32 } :=
  ⟨if_neg (by simp [h]), if_neg (by simp [h])⟩

theorem Arb.write_weight (x : Arb) {a r : Nat} (n : Nat) (hr : r < arbRequesters a) :
    x.write a (0x118 + 0x20 * r) n = { x with weight := SMap.set 1 x.weight r (n % 16) } := by
  have e : (0x118 + 0x20 * r - 0x100) / 0x20 = r := by omega
  simp only [Arb.write, e]
  rw [if_pos ⟨by omega, hr⟩, if_pos (by omega)]

theorem Hic.write_source (h : Hic) {k : Nat} (n : Nat) (hk : k < 256) :
    h.write (0x800 + 8 * k) n = { h with prio := SMap.set 0 h.prio k (n % 256), target := SMap.set 0 h.target k (n / 2 ^ 8 % 4) } := by
  have e : (0x800 + 8 * k - 0x800) / 8 = k := by omega
  simp (disch := omega) only [Hic.write, e, if_pos, if_neg]

theorem Hic.write_enables (h : Hic) {w : Nat} (n : Nat) (hw : w < 4) :
    h.write (0x100 + 8 * w) n = { h with en := setQuarter h.en w n } := by
  have e : (0x100 + 8 * w - 0x100) / 8 = w := by omega
  simp (disch := omega) only [Hic.write, e, if_pos, if_neg]

/-! The reads of one unit. -/

/-- `CLK_Q` of a quadrant (Table 16-7). -/
theorem Power.reg_clk (p : Power) (ready : Bool) {q : Nat} (hq : q < 4) :
    (p.reg ready (0x028 + 8 * q)).1 = SMap.get 19 p.freq q + SMap.get 19 p.thermCeil q * 2 ^ 8 + SMap.get 19 p.capCeil q * 2 ^ 16
      + SMap.get 19 p.voltCeil q * 2 ^ 24 := by
  have e : (0x028 + 8 * q - 0x028) / 8 = q := by omega
  simp (disch := omega) only [Power.reg, e, if_pos]

/-- A quarter of `HIC_EN` (Table 15-6). -/
theorem Hic.reg_enables (h : Hic) {w : Nat} (hw : w < 4) : (h.reg (0x100 + 8 * w)).1 = quarter h.en w := by
  have e : (0x100 + 8 * w - 0x100) / 8 = w := by omega
  simp (disch := omega) only [Hic.reg, e, if_pos, if_neg]

@[simp] theorem quarter_zero (w : Nat) : quarter 0 w = 0 := by simp [quarter]

section
variable {s : State} {off : BitVec 32} {v : BitVec 64}

/-! Domains (R412, Table 16-1). -/

/-- No register is on while the module is Off. -/
theorem State.regOn_of_off (o : Nat) (h : s.power.mode = .off) : s.regOn o = false := by
  rw [State.regOn, h]
  rfl

theorem regDomain_tile {g o : Nat} (hg : g < 4096) (ho : o < 0x1000) : regDomain (0x1000 * g + o) = 1 + tileQuad g := by
  have e : (0x1000 * g + o) / 0x1000 = g := by omega
  rw [regDomain, if_pos (by omega), e]

/-- The registers of a tile are on with the ARRAY domain of its quadrant. -/
theorem State.regOn_tile {g o : Nat} (hg : g < 4096) (ho : o < 0x1000) (hm : s.power.mode ≠ .off) :
    s.regOn (0x1000 * g + o) = bitB s.power.array (tileQuad g) := by
  have hq : tileQuad g < 4 := by unfold tileQuad; omega
  have h0 : (1 + tileQuad g == 0) = false := beq_false_of_ne (by omega)
  simp only [State.regOn, regDomain_tile hg ho, bne_iff_ne.2 hm, h0, if_pos (show 1 + tileQuad g < 5 by omega),
    Nat.add_sub_cancel_left, Bool.true_and, Bool.false_or]

/-- Above the gather engines every register is in the Headworks main domain. -/
theorem State.regOn_headworks {o : Nat} (ho : 0x4060000 ≤ o) (hm : s.power.mode ≠ .off) : s.regOn o = true := by
  have hd : regDomain o = 0 := by simp (disch := omega) only [regDomain, if_neg]
  rw [State.regOn, hd, bne_iff_ne.2 hm]
  rfl

/-- A register whose domain is off ignores all three commands. -/
theorem exec_register_of_regOff (off : BitVec 32) (v : BitVec 64) (s : State) (h : s.regOn off.toNat = false) :
    exec (.errorRecordClear off v) s = .next s ∧ exec (.registerWrite off v) s = .next s ∧ exec (.counterReadClear off) s = .next s := by
  have hn : (!s.regOn off.toNat) = true := by rw [h]; rfl
  refine ⟨congrArg Host.Outcome.next (if_pos hn), congrArg Host.Outcome.next (if_pos (Or.inl hn)), congrArg Host.Outcome.next ?_⟩
  rw [State.readReg, if_pos hn]
  exact ite_self s

/-! Reads. -/

theorem exec_counterReadClear_aligned (s : State) (h : off.toNat % 8 = 0) :
    exec (.counterReadClear off) s = .next (s.readReg off.toNat).2 :=
  congrArg Host.Outcome.next (if_pos h)

/-- An offset that is not a multiple of 8 is no register. -/
theorem exec_register_unaligned (off : BitVec 32) (v : BitVec 64) (s : State) (h : off.toNat % 8 ≠ 0) :
    exec (.registerWrite off v) s = .next s ∧ exec (.counterReadClear off) s = .next s :=
  ⟨congrArg Host.Outcome.next (if_pos (Or.inr h)), congrArg Host.Outcome.next (if_neg h)⟩

theorem State.readReg_tile {g i o : Nat} (hon : s.regOn o = true) (hg : g < 4096) (hi : i < 0x1000) (ho : o = 0x1000 * g + i) :
    s.readReg o = (((s.tile g).reg g i).1, s.setTile g ((s.tile g).reg g i).2) := by
  have eg : o / 0x1000 = g := by omega
  have ei : o % 0x1000 = i := by omega
  simp (disch := omega) only [State.readReg, hon, eg, ei, Bool.not_true, Bool.false_eq_true, if_false, if_pos]

theorem State.readReg_hic {i o : Nat} (hi : i < 0x2000) (ho : o = 0x10000000 + i) (hm : s.power.mode ≠ .off) :
    (s.readReg o).1 = (s.hic.reg i).1 := by
  have ei : o - 0x10000000 = i := by omega
  simp (disch := omega) only [State.readReg, State.regOn_headworks (s := s) (o := o) (by omega) hm, ei,
    Bool.not_true, Bool.false_eq_true, if_false, if_pos, if_neg]

theorem State.readReg_time {i o : Nat} (hi : i < 0x1000) (ho : o = 0x10040000 + i) (hm : s.power.mode ≠ .off) :
    (s.readReg o).1 = (s.time.reg s.now i).1 := by
  have ei : o - 0x10040000 = i := by omega
  simp (disch := omega) only [State.readReg, State.regOn_headworks (s := s) (o := o) (by omega) hm, ei,
    Bool.not_true, Bool.false_eq_true, if_false, if_pos, if_neg]

theorem State.readReg_power {i o : Nat} (hi : i < 0x1000) (ho : o = 0x10060000 + i) (hm : s.power.mode ≠ .off) :
    (s.readReg o).1 = (s.power.reg s.noTask i).1 := by
  have ei : o - 0x10060000 = i := by omega
  simp (disch := omega) only [State.readReg, State.regOn_headworks (s := s) (o := o) (by omega) hm, ei,
    Bool.not_true, Bool.false_eq_true, if_false, if_pos, if_neg]

theorem State.readReg_fport {k i o : Nat} (hk : k < 12) (hi : i < 0x1000) (ho : o = 0x10100000 + 0x1000 * k + i) (hm : s.power.mode ≠ .off) :
    (s.readReg o).1 = ((s.fport k).reg (s.fab.planOf k).isSome i).1 := by
  have ek : (o - 0x10100000) / 0x1000 = k := by omega
  have ei : o % 0x1000 = i := by omega
  simp (disch := omega) only [State.readReg, State.regOn_headworks (s := s) (o := o) (by omega) hm, ek, ei, Bool.not_true,
    Bool.false_eq_true, if_false, if_pos, if_neg]

/-! ERROR_RECORD_CLEAR by unit. -/

theorem exec_errorRecordClear_tile (hon : s.regOn off.toNat = true) {g : Nat} (hg : g < 4096) (ho : off.toNat = 0x1000 * g + 0x018) :
    exec (.errorRecordClear off v) s =
      .next (s.updTile g (fun t => t.updRegs (fun r => { r with fault := r.fault.w1c v.toNat }))) := by
  have e : off.toNat / 0x1000 = g := by omega
  show execErrorRecordClear off v s = _
  simp (disch := omega) only [execErrorRecordClear, hon, e, Bool.not_true, Bool.false_eq_true, if_false, if_pos]

theorem exec_errorRecordClear_canal (hon : s.regOn off.toNat = true) {g : Nat} (hg : g < 4096) (ho : off.toNat = 0x1000 * g + 0x108) :
    exec (.errorRecordClear off v) s =
      .next (s.updTile g (fun t => t.updRegs (fun r => { r with canalFault := r.canalFault.w1c v.toNat }))) := by
  have e : off.toNat / 0x1000 = g := by omega
  show execErrorRecordClear off v s = _
  simp (disch := omega) only [execErrorRecordClear, hon, e, Bool.not_true, Bool.false_eq_true, if_false, if_pos, if_neg]

/-- A tile has no other record. -/
theorem exec_errorRecordClear_tile_other {g o : Nat} (hg : g < 4096) (hi : o < 0x1000) (h1 : o ≠ 0x018) (h2 : o ≠ 0x108)
    (ho : off.toNat = 0x1000 * g + o) : exec (.errorRecordClear off v) s = .next s := by
  show execErrorRecordClear off v s = _
  simp (disch := omega) only [execErrorRecordClear, if_neg, ite_self]

theorem exec_errorRecordClear_plot (hon : s.regOn off.toNat = true) {b : Nat} (hb : b < 64) (ho : off.toNat = 0x1000000 + 0x1000 * b + 0x050) :
    exec (.errorRecordClear off v) s = .next (s.updPlotRegs b (fun r => { r with
      fault := r.fault.w1c v.toNat, faultTile := if bitB v.toNat 8 then 0 else r.faultTile })) := by
  have e : (off.toNat - 0x1000000) / 0x1000 = b := by omega
  show execErrorRecordClear off v s = _
  simp (disch := omega) only [execErrorRecordClear, hon, e, Bool.not_true, Bool.false_eq_true, if_false, if_pos, if_neg]

theorem exec_errorRecordClear_engine (hon : s.regOn off.toNat = true) {k : Nat} (hk : k < 64) (ho : off.toNat = 0x1040000 + 0x1000 * k + 0x030) :
    exec (.errorRecordClear off v) s = .next (s.updEngine k (fun x => { x with
      err := x.err.w1c v.toNat, errId := if bitB v.toNat 8 then 0 else x.errId, errAddr := if bitB v.toNat 8 then 0 else x.errAddr })) := by
  have e : (off.toNat - 0x1040000) / 0x1000 = k := by omega
  show execErrorRecordClear off v s = _
  simp (disch := omega) only [execErrorRecordClear, hon, e, Bool.not_true, Bool.false_eq_true, if_false, if_pos, if_neg]

theorem exec_errorRecordClear_arb (hon : s.regOn off.toNat = true) {a : Nat} (ha : a < 112) (ho : off.toNat = 0x2000000 + 0x1000 * a + 0x018) :
    exec (.errorRecordClear off v) s = .next (s.updArb a (fun x => { x with starve := x.starve &&& (2 ^ 64 - 1 - v.toNat) })) := by
  have e : (off.toNat - 0x2000000) / 0x1000 = a := by omega
  show execErrorRecordClear off v s = _
  simp (disch := omega) only [execErrorRecordClear, hon, e, Bool.not_true, Bool.false_eq_true, if_false, if_pos, if_neg]

theorem exec_errorRecordClear_cistern (hon : s.regOn off.toNat = true) {q : Nat} (hq : q < 4) (ho : off.toNat = 0x3000000 + 0x100000 * q + 0x10) :
    exec (.errorRecordClear off v) s = .next (s.updCist q (fun c => { c with
      err := c.err.w1c v.toNat, errInfo := if bitB v.toNat 8 then 0 else c.errInfo })) := by
  have e : (off.toNat - 0x3000000) / 0x100000 = q := by omega
  show execErrorRecordClear off v s = _
  simp (disch := omega) only [execErrorRecordClear, hon, e, Bool.not_true, Bool.false_eq_true, if_false, if_pos, if_neg]

theorem exec_errorRecordClear_lateral (hon : s.regOn off.toNat = true) {k : Nat} (hk : k < 4) (ho : off.toNat = 0x3400000 + 0x10000 * k + 0x010) :
    exec (.errorRecordClear off v) s = .next (s.updLe k (fun l => { l with
      err := l.err.w1c v.toNat, errInfo := if bitB v.toNat 8 then 0 else l.errInfo })) := by
  have e : (off.toNat - 0x3400000) / 0x10000 = k := by omega
  show execErrorRecordClear off v s = _
  simp (disch := omega) only [execErrorRecordClear, hon, e, Bool.not_true, Bool.false_eq_true, if_false, if_pos, if_neg]

theorem exec_errorRecordClear_gather (hon : s.regOn off.toNat = true) {g : Nat} (hg : g < 96) (ho : off.toNat = 0x4000000 + 0x1000 * g + 0x010) :
    exec (.errorRecordClear off v) s = .next (s.updGe g (fun x => { x with
      err := x.err.w1c v.toNat, errAddr := if bitB v.toNat 8 then 0 else x.errAddr })) := by
  have e : (off.toNat - 0x4000000) / 0x1000 = g := by omega
  show execErrorRecordClear off v s = _
  simp (disch := omega) only [execErrorRecordClear, hon, e, Bool.not_true, Bool.false_eq_true, if_false, if_pos, if_neg]

theorem exec_errorRecordClear_power (hon : s.regOn off.toNat = true) (ho : off.toNat = 0x10060058) :
    exec (.errorRecordClear off v) s =
      .next { s with power := { s.power with event := s.power.event &&& (2 ^ 64 - 1 - v.toNat) } } := by
  show execErrorRecordClear off v s = _
  simp (disch := omega) only [execErrorRecordClear, hon, Bool.not_true, Bool.false_eq_true, if_false, if_pos, if_neg]

theorem exec_errorRecordClear_sec (hon : s.regOn off.toNat = true) (ho : off.toNat = 0x10080008) :
    exec (.errorRecordClear off v) s = .next { s with sec := { s.sec with event := s.sec.event &&& (2 ^ 64 - 1 - v.toNat) } } := by
  show execErrorRecordClear off v s = _
  simp (disch := omega) only [execErrorRecordClear, hon, Bool.not_true, Bool.false_eq_true, if_false, if_pos, if_neg]

theorem exec_errorRecordClear_fport (hm : s.power.mode ≠ .off) {i : Nat} (hi : i < 12) (ho : off.toNat = 0x10100028 + 0x1000 * i) :
    exec (.errorRecordClear off v) s = .next (s.updFport i (fun p =>
      if v.getLsbD 8 then { p with errCause := 0, errValid := false, errMulti := false }
      else if v.getLsbD 9 then { p with errMulti := false } else p)) := by
  have e : (off.toNat - 0x10100000) / 0x1000 = i := by omega
  show execErrorRecordClear off v s = _
  simp (disch := omega) only [execErrorRecordClear, State.regOn_headworks (s := s) (o := off.toNat) (by omega) hm, e, bitB_toNat,
    Bool.not_true, Bool.false_eq_true, if_false, if_pos, if_neg]

/-! REGISTER_WRITE by unit. -/

theorem exec_registerWrite_tile (hon : s.regOn off.toNat = true) {g o : Nat} (hg : g < 4096) (hi : o < 0x1000) (ha : o % 8 = 0)
    (ho : off.toNat = 0x1000 * g + o) : exec (.registerWrite off v) s = .next (s.updTile g (fun t => t.write o v.toNat)) := by
  have eg : off.toNat / 0x1000 = g := by omega
  have eo : off.toNat % 0x1000 = o := by omega
  show execRegisterWrite off v s = _
  simp (disch := omega) only [execRegisterWrite, hon, eg, eo, Bool.not_true, Bool.false_eq_true, false_or, if_pos, if_neg]

theorem exec_registerWrite_engineCtrl (hon : s.regOn off.toNat = true) {k : Nat} (hk : k < 64) (ho : off.toNat = 0x1040000 + 0x1000 * k + 0x008) :
    exec (.registerWrite off v) s =
      .next ((s.updEngine k (fun x => { x with enable := v.getLsbD 0, halt := v.getLsbD 1 })).serveEngine k) := by
  have ek : (off.toNat - 0x1040000) / 0x1000 = k := by omega
  have eo : off.toNat % 0x1000 = 0x008 := by omega
  show execRegisterWrite off v s = _
  simp (disch := omega) only [execRegisterWrite, hon, ek, eo, ← bitB_toNat, Bool.not_true, Bool.false_eq_true, false_or, if_pos, if_neg]
  rfl

theorem exec_registerWrite_engine (hon : s.regOn off.toNat = true) {k o : Nat} (hk : k < 64) (hi : o < 0x1000) (ha : o % 8 = 0) (hc : o ≠ 0x008)
    (ho : off.toNat = 0x1040000 + 0x1000 * k + o) : exec (.registerWrite off v) s = .next (s.updEngine k (fun x => x.write o v.toNat)) := by
  have ek : (off.toNat - 0x1040000) / 0x1000 = k := by omega
  have eo : off.toNat % 0x1000 = o := by omega
  show execRegisterWrite off v s = _
  simp (disch := omega) only [execRegisterWrite, hon, ek, eo, Bool.not_true, Bool.false_eq_true, false_or, if_pos, if_neg]

theorem exec_registerWrite_arb (hon : s.regOn off.toNat = true) {a o : Nat} (hk : a < 112) (hi : o < 0x1000) (ha : o % 8 = 0)
    (ho : off.toNat = 0x2000000 + 0x1000 * a + o) : exec (.registerWrite off v) s = .next (s.updArb a (fun x => x.write a o v.toNat)) := by
  have ek : (off.toNat - 0x2000000) / 0x1000 = a := by omega
  have eo : off.toNat % 0x1000 = o := by omega
  show execRegisterWrite off v s = _
  simp (disch := omega) only [execRegisterWrite, hon, ek, eo, Bool.not_true, Bool.false_eq_true, false_or, if_pos, if_neg]

theorem exec_registerWrite_lateral (hon : s.regOn off.toNat = true) {k o : Nat} (hk : k < 4) (hi : o < 0x10000) (ha : o % 8 = 0)
    (ho : off.toNat = 0x3400000 + 0x10000 * k + o) : exec (.registerWrite off v) s = .next (s.updLe k (fun l => l.write o v.toNat)) := by
  have ek : (off.toNat - 0x3400000) / 0x10000 = k := by omega
  have eo : off.toNat % 0x10000 = o := by omega
  show execRegisterWrite off v s = _
  simp (disch := omega) only [execRegisterWrite, hon, ek, eo, Bool.not_true, Bool.false_eq_true, false_or, if_pos, if_neg]

theorem exec_registerWrite_cistern (hon : s.regOn off.toNat = true) {q : Nat} (hq : q < 4) (ho : off.toNat = 0x3000000 + 0x100000 * q) :
    exec (.registerWrite off v) s =
      .next (if s.quadHasPlot q = true then s else s.updCist q (fun c => { c with sysCells := v.toNat % 2 ^ 20 })) := by
  have e : (off.toNat - 0x3000000) / 0x100000 = q := by omega
  show execRegisterWrite off v s = _
  simp (disch := omega) only [execRegisterWrite, hon, e, Bool.not_true, Bool.false_eq_true, false_or, if_pos, if_neg]

/-- The directory entry of a table is fixed while a plot of its model runs (R306). -/
theorem exec_registerWrite_table_of_runs {t : Nat} (ht : t < 1024) (hlo : 0x4100000 + 64 * t ≤ off.toNat)
    (hhi : off.toNat < 0x4100000 + 64 * (t + 1)) (hr : s.modelRuns (s.tableEnt t).model = true) :
    exec (.registerWrite off v) s = .next s := by
  have et : (off.toNat - 0x4100000) / 64 = t := by omega
  show execRegisterWrite off v s = _
  simp (disch := omega) only [execRegisterWrite, et, hr, if_true, if_pos, if_neg, ite_self]

theorem exec_registerWrite_hic (hm : s.power.mode ≠ .off) {i : Nat} (hi : i < 0x2000) (ha : i % 8 = 0) (ho : off.toNat = 0x10000000 + i) :
    exec (.registerWrite off v) s = .next { s with hic := s.hic.write i v.toNat } := by
  have ei : off.toNat - 0x10000000 = i := by omega
  show execRegisterWrite off v s = _
  simp (disch := omega) only [execRegisterWrite, State.regOn_headworks (s := s) (o := off.toNat) (by omega) hm, ei, Bool.not_true,
    Bool.false_eq_true, false_or, if_pos, if_neg]

theorem exec_registerWrite_timeCfg (hm : s.power.mode ≠ .off) (ho : off.toNat = 0x10040010) :
    exec (.registerWrite off v) s = .next ({ s with time := { s.time with
      domain := v.toNat % 256, cfg := min 3600 (v.toNat / 2 ^ 16 % 2 ^ 16) } } : State).wantCommit := by
  show execRegisterWrite off v s = _
  simp (disch := omega) only [execRegisterWrite, State.regOn_headworks (s := s) (o := off.toNat) (by omega) hm, Bool.not_true,
    Bool.false_eq_true, false_or, if_pos, if_neg]

theorem exec_registerWrite_surveyCfg (hm : s.power.mode ≠ .off) (ho : off.toNat = 0x10040028) :
    exec (.registerWrite off v) s = .next ({ s with time := { s.time with surveyCfg := v.toNat % 2 ^ 32 } } : State).wantCommit := by
  show execRegisterWrite off v s = _
  simp (disch := omega) only [execRegisterWrite, State.regOn_headworks (s := s) (o := off.toNat) (by omega) hm, Bool.not_true,
    Bool.false_eq_true, false_or, if_pos, if_neg]

theorem exec_registerWrite_pwrCfg (hm : s.power.mode ≠ .off) (ho : off.toNat = 0x10060008) :
    exec (.registerWrite off v) s =
      .next { s with power := { s.power with qgateMs := v.toNat % 2 ^ 16, retain := fieldN v.toNat 16 4 } } := by
  show execRegisterWrite off v s = _
  simp (disch := omega) only [execRegisterWrite, State.regOn_headworks (s := s) (o := off.toNat) (by omega) hm, Bool.not_true,
    Bool.false_eq_true, false_or, if_pos, if_neg]

/-! What the commands do to single registers. -/

/-- A read of `FIRE_CNT` gives the count, and the tile afterwards has none (R9, R13). -/
theorem State.readReg_fireCnt {o g : Nat} (hon : s.regOn o = true) (hg : g < 4096) (ho : o = 0x1000 * g + 0x040) :
    s.readReg o = ((s.tile g).regs.fireCnt, s.setTile g { s.tile g with regs := { (s.tile g).regs with fireCnt := 0 } }) :=
  State.readReg_tile hon hg (by decide) ho

/-- A counter read of a fault record, which does not clear on a read, leaves every tile as it was. -/
theorem exec_counterReadClear_tileFault (hon : s.regOn off.toNat = true) {g : Nat} (hg : g < 4096) (ho : off.toNat = 0x1000 * g + 0x018) :
    ∃ y : State, exec (.counterReadClear off) s = .next y ∧ ∀ i, y.tile i = s.tile i := by
  refine ⟨_, exec_counterReadClear_aligned s (by omega), fun i => ?_⟩
  rw [State.readReg_tile hon hg (by decide) ho, State.setTile_tile_at]
  split
  · next h => rw [← h]; rfl
  · rfl

/-- A write of `FWIN_BASE` sets it in an idle tile, and changes nothing of a busy one (R66). -/
theorem exec_registerWrite_fwinBase (hon : s.regOn off.toNat = true) {g : Nat} (hg : g < 4096) (ho : off.toNat = 0x1000 * g + 0x028) :
    ∃ y : State, exec (.registerWrite off v) s = .next y ∧
      ((s.tile g).regs.state = .idle → (y.tile g).regs.fwinBase = v.toNat % 2 ^ 22 / 4096 * 4096) ∧
      ((s.tile g).regs.state ≠ .idle → y.tile g = s.tile g) ∧
      (y.tile g).regs.fwinLimit = (s.tile g).regs.fwinLimit ∧ (y.tile g).v = (s.tile g).v ∧ (∀ i, i ≠ g → y.tile i = s.tile i) ∧
      y.mem = s.mem := by
  refine ⟨_, exec_registerWrite_tile hon hg (by decide) (by decide) ho, ?_⟩
  simp only [State.updTile_tile_at, if_true]
  refine ⟨fun h => ?_, Tile.write_of_busy _ _, (Tile.write_fwinBase_frame _ _).1, (Tile.write_fwinBase_frame _ _).2,
    fun i hi => if_neg hi.symm, rfl⟩
  rw [Tile.write_fwinBase _ h]
  rfl

/-- A write of `CANAL_CTRL` sets its three fields in an idle tile, and changes nothing of a busy one (R128). -/
theorem exec_registerWrite_canalCtrl (hon : s.regOn off.toNat = true) {g : Nat} (hg : g < 4096) (ho : off.toNat = 0x1000 * g + 0x100) :
    ∃ y : State, exec (.registerWrite off v) s = .next y ∧ ((s.tile g).regs.state = .idle → (y.tile g).regs.period = v.toNat % 256 ∧
      (y.tile g).regs.linkEn = v.toNat / 2 ^ 8 % 16 ∧ (y.tile g).regs.epochAccept = v.toNat / 2 ^ 16 % 2 ^ 16) ∧
      ((s.tile g).regs.state ≠ .idle → y.tile g = s.tile g) := by
  refine ⟨_, exec_registerWrite_tile hon hg (by decide) (by decide) ho, ?_⟩
  simp only [State.updTile_tile_at, if_true]
  refine ⟨fun h => ?_, Tile.write_of_busy _ _⟩
  rw [Tile.write_canalCtrl _ h]
  exact ⟨rfl, rfl, rfl⟩

/-- A write to a fault record or a counter of a tile changes no tile (R12). -/
theorem exec_registerWrite_tile_readOnly (hon : s.regOn off.toNat = true) {g : Nat} (hg : g < 4096)
    (ho : off.toNat = 0x1000 * g + 0x018 ∨ off.toNat = 0x1000 * g + 0x048) :
    ∃ y : State, exec (.registerWrite off v) s = .next y ∧ ∀ i, y.tile i = s.tile i := by
  have hw : ∃ o, o < 0x1000 ∧ o % 8 = 0 ∧ (o = 0x018 ∨ o = 0x048) ∧ off.toNat = 0x1000 * g + o := by
    obtain h | h := ho
    · exact ⟨0x018, by decide, by decide, .inl rfl, h⟩
    · exact ⟨0x048, by decide, by decide, .inr rfl, h⟩
  obtain ⟨o, hi, ha, hro, ho⟩ := hw
  refine ⟨_, exec_registerWrite_tile hon hg hi ha ho, fun i => ?_⟩
  rw [State.updTile_tile_at, Tile.write_readOnly _ _ hro, ite_self]

/-- A write to the priority register of a source sets that source alone, and no pending or enable bit (Table 15-6). -/
theorem exec_registerWrite_hicSource (hm : s.power.mode ≠ .off) {n : Nat} (hn : n < 256) (ho : off.toNat = 0x10000800 + 8 * n) :
    ∃ y : State, exec (.registerWrite off v) s = .next y ∧ SMap.get 0 y.hic.prio n = v.toNat % 256 ∧
      SMap.get 0 y.hic.target n = v.toNat / 2 ^ 8 % 4 ∧ (∀ m, m ≠ n → SMap.get 0 y.hic.prio m = SMap.get 0 s.hic.prio m) ∧
      y.hic.pend = s.hic.pend ∧ y.hic.en = s.hic.en := by
  refine ⟨_, exec_registerWrite_hic (i := 0x800 + 8 * n) hm (by omega) (by omega) (by omega), ?_⟩
  rw [Hic.write_source _ _ hn]
  exact ⟨SMap.get_set_same _ _ _ _, SMap.get_set_same _ _ _ _, fun m h => SMap.get_set_other _ _ _ _ _ h, rfl, rfl⟩

/-- A write to a quarter of `HIC_EN` sets its 64 bits and leaves the others and the pending bits (Table 15-6). -/
theorem exec_registerWrite_hicEnables (hm : s.power.mode ≠ .off) {w : Nat} (hw : w < 4) (ho : off.toNat = 0x10000100 + 8 * w) :
    ∃ y : State, exec (.registerWrite off v) s = .next y ∧
      (∀ n, n < 256 → y.hic.en.getLsbD n = if n / 64 = w then v.getLsbD (n % 64) else s.hic.en.getLsbD n) ∧ y.hic.pend = s.hic.pend := by
  refine ⟨_, exec_registerWrite_hic (i := 0x100 + 8 * w) hm (by omega) (by omega) (by omega), ?_⟩
  rw [Hic.write_enables _ _ hw]
  exact ⟨fun n hn => getLsbD_setQuarter _ v w n hn, rfl⟩

/-- Ones written to a fabric port's error record clear that port's record and no other (Table 14-9). -/
theorem exec_errorRecordClear_fport_fields (hm : s.power.mode ≠ .off) {i : Nat} (hi : i < 12) (ho : off.toNat = 0x10100028 + 0x1000 * i) :
    ∃ y : State, exec (.errorRecordClear off v) s = .next y ∧
      (v.getLsbD 8 = true → y.fport i = { s.fport i with errCause := 0, errValid := false, errMulti := false }) ∧
      (v.getLsbD 8 = false → v.getLsbD 9 = true → y.fport i = { s.fport i with errMulti := false }) ∧
      (v.getLsbD 8 = false → v.getLsbD 9 = false → y.fport i = s.fport i) ∧ (∀ j, j ≠ i → y.fport j = s.fport j) := by
  refine ⟨_, exec_errorRecordClear_fport hm hi ho, ?_⟩
  simp only [State.updFport_fport_at, if_true]
  exact ⟨fun h => if_pos h, fun h8 h9 => by rw [h8, h9]; rfl, fun h8 h9 => by rw [h8, h9]; rfl, fun j hj => if_neg hj.symm⟩

end

/-! The statements. -/

/-- Settles O48: each clause is the lemma of the unit at its offset, with what a read finds of the entry that the update wrote. -/
theorem registersAreWrittenAndCleared : Obligations.RegistersAreWrittenAndCleared := by
  unfold Obligations.RegistersAreWrittenAndCleared
  exact ⟨
    FaultRec.w1c_fields,
    fun _ _ _ hg ho hm => Bool.eq_iff_iff.1 (State.regOn_tile hg ho hm),
    fun _ o => State.regOn_of_off o,
    exec_register_of_regOff,
    fun _ _ _ _ hon hg ho => ⟨_, exec_errorRecordClear_tile hon hg ho, (State.updTile_tile_at ..).trans (if_pos rfl),
      fun _ h => (State.updTile_tile_at ..).trans (if_neg h.symm), rfl, rfl⟩,
    fun _ _ _ _ hon hg ho => ⟨_, exec_errorRecordClear_canal hon hg ho, (State.updTile_tile_at ..).trans (if_pos rfl),
      fun _ h => (State.updTile_tile_at ..).trans (if_neg h.symm)⟩,
    fun _ _ _ _ hon hb ho => ⟨_, exec_errorRecordClear_plot hon hb ho, by rw [State.updPlotRegs_block_at, if_pos rfl],
      State.updPlotRegs_plot_at .., fun _ h => (State.updPlotRegs_block_at ..).trans (if_neg h.symm), rfl⟩,
    fun _ _ _ _ hon he ho => ⟨_, exec_errorRecordClear_engine hon he ho, by rw [State.updEngine_engine_at, if_pos rfl],
      by rw [State.updEngine_engine_at, if_pos rfl], fun _ h => (State.updEngine_engine_at ..).trans (if_neg h.symm)⟩,
    fun _ _ _ _ hon hq ho => ⟨_, exec_errorRecordClear_cistern hon hq ho, by rw [State.updCist_cistern_at, if_pos rfl],
      by rw [State.updCist_cistern_at, if_pos rfl], fun _ h => (State.updCist_cistern_at ..).trans (if_neg h.symm)⟩,
    fun _ _ _ _ hon he ho => ⟨_, exec_errorRecordClear_lateral hon he ho, by rw [State.updLe_lateral_at, if_pos rfl],
      fun _ h => (State.updLe_lateral_at ..).trans (if_neg h.symm)⟩,
    fun _ _ _ _ hon hg ho => ⟨_, exec_errorRecordClear_gather hon hg ho, by rw [State.updGe_gatherEng_at, if_pos rfl],
      fun _ h => (State.updGe_gatherEng_at ..).trans (if_neg h.symm)⟩,
    fun _ v _ hon ho hx => ⟨_, exec_errorRecordClear_power hon ho, bitB_and_not v hx⟩,
    fun _ v _ hon ho hx => ⟨_, exec_errorRecordClear_sec hon ho, bitB_and_not v hx⟩,
    fun _ s _ hon hg ho => ⟨State.readReg_fireCnt hon hg ho, _,
      (exec_counterReadClear_aligned s (by omega)).trans (by rw [State.readReg_fireCnt hon hg ho]),
      (State.setTile_tile_at ..).trans (if_pos rfl), fun _ h => (State.setTile_tile_at ..).trans (if_neg h.symm), rfl⟩,
    fun _ _ _ hon hg ho => exec_counterReadClear_tileFault hon hg ho,
    fun _ _ _ _ hon hg ho => exec_registerWrite_fwinBase hon hg ho,
    fun _ _ _ _ hon hg ho => exec_registerWrite_canalCtrl hon hg ho,
    fun _ _ _ _ hon hg ho => exec_registerWrite_tile_readOnly hon hg ho,
    fun _ _ _ _ hm hn ho => exec_registerWrite_hicSource hm hn ho,
    fun _ _ _ hm ho => exec_registerWrite_pwrCfg hm ho,
    fun _ _ _ hm ho => ⟨_, exec_registerWrite_timeCfg hm ho, rfl, Nat.min_le_left _ _, rfl, rfl⟩,
    exec_register_unaligned,
    fun _ _ s ha => exec_counterReadClear_aligned s ha,
    fun _ _ _ _ _ hon hg hi ha ho => exec_registerWrite_tile hon hg hi ha ho,
    fun _ n h => ⟨by rw [Tile.write_fwinLimit n h]; rfl, by rw [Tile.write_windows n h], by rw [Tile.write_windows n h]⟩,
    fun _ o n h => Tile.write_of_busy o n h,
    fun _ _ _ _ hon he ho => exec_registerWrite_engineCtrl hon he ho,
    fun _ _ _ _ _ hon he hi ha hc ho => exec_registerWrite_engine hon he hi ha hc ho,
    fun _ n h => Engine.write_ring_of_enabled n h,
    fun _ n h => Engine.write_ring_of_disabled n h,
    fun _ _ _ _ _ hon ha hi h8 ho => exec_registerWrite_arb hon ha hi h8 ho,
    fun x _ _ n hr => Arb.write_weight x n hr,
    fun _ _ _ _ _ hon he hi ha ho => exec_registerWrite_lateral hon he hi ha ho,
    fun _ _ _ _ hon hq ho => exec_registerWrite_cistern hon hq ho,
    fun _ _ _ _ _ ht hlo hhi hr => exec_registerWrite_table_of_runs ht hlo hhi hr,
    fun _ _ _ _ hm hw ho => exec_registerWrite_hicEnables hm hw ho,
    fun _ _ _ hm ho => ⟨_, exec_registerWrite_surveyCfg hm ho, rfl, rfl⟩,
    fun _ v _ _ hon ha ho hx => ⟨_, exec_errorRecordClear_arb hon ha ho,
      by rw [State.updArb_arb_at, if_pos rfl]; exact bitB_and_not v hx,
      fun _ h => (State.updArb_arb_at ..).trans (if_neg h.symm)⟩,
    fun _ _ _ _ hm hi ho => exec_errorRecordClear_fport_fields hm hi ho,
    fun _ _ _ _ _ hg hi h1 h2 ho => exec_errorRecordClear_tile_other hg hi h1 h2 ho⟩

/-- The module is not Off after reset, so every Headworks register answers. -/
theorem reset_mode_ne_off : State.reset.power.mode ≠ .off := by decide

theorem reset_readReg_power {i o x : Nat} (hi : i < 0x1000) (ho : o = 0x10060000 + i) (hx : (Power.reset.reg State.reset.noTask i).1 = x) :
    (State.reset.readReg o).1 = x :=
  (State.readReg_power hi ho reset_mode_ne_off).trans hx

theorem reset_readReg_time {i o x : Nat} (hi : i < 0x1000) (ho : o = 0x10040000 + i) (hx : (TimeSt.reset.reg 0 i).1 = x) :
    (State.reset.readReg o).1 = x :=
  (State.readReg_time hi ho reset_mode_ne_off).trans hx

/-- Every quadrant starts at clock code 19, with no ceiling below it. -/
theorem reset_power_reg_clk (ready : Bool) {q : Nat} (hq : q < 4) : (Power.reset.reg ready (0x028 + 8 * q)).1 = 0x13131313 := by
  have h : SMap.get 19 ([] : SMap Nat) q = 19 := SMap.get_nil 19 q
  rw [Power.reg_clk _ _ hq]
  change SMap.get 19 [] q + SMap.get 19 [] q * 2 ^ 8 + SMap.get 19 [] q * 2 ^ 16 + SMap.get 19 [] q * 2 ^ 24 = 0x13131313
  norm_num [h]

/-- `CANAL_CTRL` of a tile reads zero after reset (Table 4-11). -/
theorem reset_canalCtrl : TileRegs.reset.canalCtrl = 0 := by decide

/-- Settles O51: a read after reset finds the unit's own reset value, and every table is empty. -/
theorem resetLeavesTheStatedValues : Obligations.ResetLeavesTheStatedValues := by
  unfold Obligations.ResetLeavesTheStatedValues
  refine ⟨reset_readReg_power (i := 0) (by decide) rfl rfl, reset_readReg_power (i := 8) (by decide) rfl rfl,
    reset_readReg_power (i := 0x10) (by decide) rfl rfl,
    fun q hq => reset_readReg_power (by omega) (by omega) (reset_power_reg_clk _ hq), reset_readReg_time (i := 0x10) (by decide) rfl rfl,
    reset_readReg_time (i := 0x28) (by decide) rfl rfl, fun i hi => ?_, fun w hw => ?_, fun _ => rfl,
    fun _ => ⟨rfl, reset_canalCtrl, rfl⟩, fun _ => rfl, fun _ => rfl, fun _ => rfl, rfl, rfl, rfl, rfl⟩
  · exact State.readReg_fport (i := 8) hi (by decide) (by omega) reset_mode_ne_off
  · rw [State.readReg_hic (i := 0x100 + 8 * w) (by omega) (by omega) reset_mode_ne_off, Hic.reg_enables _ hw]
    exact quarter_zero w

end Sys2Proof.Machine
end

section
/-! SUPPORT. Requests (R25 to R28, R244, R282, R284, R287, R288, R295, R301): what each operation that a request's end uses can change, how the
checks of Table 1-5 decide, and the statement of chapter 1 that these settle. -/

namespace Sys2Proof.Machine

variable (s : State)

/-! What can change: the management channel, the references of adapters and the space that a request gives back. -/

/-- A run over a list is a step of a relation that every turn is a step of, when steps compose. -/
theorem foldl_rel {α : Type} {R : State → State → Prop} {f : State → α → State} (h0 : ∀ s, R s s)
    (ht : ∀ {s t u}, R s t → R t u → R s u) (hf : ∀ s x, R s (f s x)) (l : List α) : R s (l.foldl f s) := by
  induction l generalizing s with
  | nil => exact h0 s
  | cons x l ih => exact ht (hf s x) (ih (f s x))

theorem State.fabSend_eq (vc : Nat) (m : FabMsg) : ∃ b, s.fabSend vc m = { s with fab := b } := by
  unfold State.fabSend
  split
  · split <;> exact ⟨_, rfl⟩
  · exact ⟨_, rfl⟩
  · split <;> exact ⟨_, rfl⟩

theorem State.mgmtNet_eq (dest id : Nat) (body : Bytes) : ∃ b, s.mgmtNet dest id body = { s with fab := b } := by
  unfold State.mgmtNet
  split
  · exact ⟨s.fab, rfl⟩
  · exact ⟨_, rfl⟩

theorem State.mgmtEmit_eq (dest id : Nat) (both : Bool) (body : Bytes) : ∃ b, s.mgmtEmit dest id both body = { s with fab := b } := by
  obtain ⟨b, hb⟩ : ∃ b, (if (s.routePort dest).isSome then s.fabSend 2 (newMsg dest 6 0 0 id 0 0 0 body) else s) = { s with fab := b } := by
    split
    · exact s.fabSend_eq _ _
    · exact ⟨s.fab, rfl⟩
  unfold State.mgmtEmit
  dsimp only
  rw [hb]
  split
  · exact State.mgmtNet_eq { s with fab := b } dest id body
  · exact ⟨b, rfl⟩

/-- A message to a group changes the fabric block only. -/
theorem State.mgmtGroup_eq (serials : List Nat) (both : Bool) (body : Bytes) : ∃ b, s.mgmtGroup serials both body = { s with fab := b } :=
  foldl_rel (R := fun s t => ∃ b, t = { s with fab := b }) s (fun s => ⟨s.fab, rfl⟩)
    (by rintro s _ _ ⟨b, rfl⟩ ⟨c, rfl⟩; exact ⟨c, rfl⟩) (fun s d => (s.updFab _).mgmtEmit_eq d s.fab.mgmtNext both body) _

/-- A count of references on an adapter version changes the adapter table and the fabric block only. -/
theorem State.countRef_eq (i n : Nat) (up : Bool) : ∃ a b, s.countRef i n up = { s with adapters := a, fab := b } := by
  unfold State.countRef
  split
  · exact ⟨s.adapters, s.fab, rfl⟩
  · unfold State.tellRefs
    split
    · exact ⟨_, s.fab, rfl⟩
    · obtain ⟨b, hb⟩ := State.mgmtGroup_eq _ _ _ _
      exact ⟨_, b, hb⟩

theorem State.setRegion_eq (tier base len owner : Nat) (write shared : Bool) :
    ∃ m, s.setRegion tier base len owner write shared = { s with mem := m } :=
  ⟨_, rfl⟩

/-- The start of a scrub changes the region tables, the allocations, the scrubs and the marks of blocks only. -/
theorem State.startScrub_eq (mine : Alloc → Bool) (blocks : List Nat) (ranges : List (Nat × Nat)) (what id : Nat) :
    ∃ m l c b, s.startScrub mine blocks ranges what id = { s with mem := m, serve := { s.serve with allocs := l }, sched := c, blocks := b } := by
  unfold State.startScrub
  dsimp only
  obtain ⟨m, hm⟩ := foldl_rel (R := fun s t => ∃ m, t = { s with mem := m }) s (fun s => ⟨s.mem, rfl⟩)
    (by rintro s _ _ ⟨m, rfl⟩ ⟨n, rfl⟩; exact ⟨n, rfl⟩) (fun s (a : Alloc) => s.setRegion_eq a.tier a.base a.len 0 false false)
    (s.serve.allocs.filter mine)
  rw [hm]
  exact ⟨_, _, _, _, rfl⟩

/-- What nothing uses any more is scrubbed: no request, slot, ring or record changes. -/
theorem State.collect_eq : ∃ m l c b, s.collect = { s with mem := m, serve := { s.serve with allocs := l }, sched := c, blocks := b } := by
  unfold State.collect State.collectFor
  dsimp only
  split
  · exact State.startScrub_eq _ _ _ _ _ _
  · exact ⟨s.mem, _, s.sched, s.blocks, rfl⟩

/-- A dropped request leaves the list of requests, and its slot is quarantined where it was admitted here; shared pages lose a reference and space is freed. -/
theorem State.dropReq_eq (r : Req) : ∃ m p l c b, s.dropReq r = { s with
    mem := m
    serve := { s.serve with
      reqs := s.serve.reqs.filter (fun x => x.key != r.key)
      slots := if r.home = 0 then
          SMap.upd SlotGen.reset s.serve.slots (r.handle % 2 ^ 24) (fun g => ⟨nextGen g.gen, false, s.now + quarantineNs⟩)
        else s.serve.slots
      prefixes := p
      allocs := l }
    sched := c
    blocks := b } := by
  obtain ⟨p, hp⟩ : ∃ p, (if r.preIx = 0 then s else s.unrefPrefix (r.preIx - 1)) = { s with serve := { s.serve with prefixes := p } } := by
    split
    · exact ⟨s.serve.prefixes, rfl⟩
    · exact ⟨_, rfl⟩
  unfold State.dropReq
  dsimp only
  rw [hp]
  split
  all_goals
    obtain ⟨m, l, c, b, hc⟩ := State.collect_eq _
    exact ⟨m, p, l, c, b, hc⟩

theorem State.dropReq_req_none (r : Req) : (s.dropReq r).req r.key = none := by
  obtain ⟨m, p, l, c, b, h⟩ := s.dropReq_eq r
  simp [h, State.req]

/-- The slot of a dropped request that was admitted here gets a new generation and is quarantined (R282). -/
theorem State.dropReq_slot (r : Req) (hr : r.home = 0) : SMap.get SlotGen.reset (s.dropReq r).serve.slots (r.handle % 2 ^ 24) =
    ⟨nextGen (SMap.get SlotGen.reset s.serve.slots (r.handle % 2 ^ 24)).gen, false, s.now + quarantineNs⟩ := by
  obtain ⟨m, p, l, c, b, h⟩ := s.dropReq_eq r
  simp only [h, if_pos hr, SMap.upd, SMap.get_set_same]

/-! What the end of a request leaves alone once its records are on their way. -/

/-- The counts of parcels, the rings, the records written and those for other modules are as they were. -/
structure SameRecords (s t : State) : Prop where
  parcels : t.parcels = s.parcels
  rings : t.serve.rings = s.serve.rings
  out : t.serve.out = s.serve.out
  away : t.serve.away = s.serve.away

theorem SameRecords.refl : SameRecords s s := ⟨rfl, rfl, rfl, rfl⟩

variable {s}

theorem SameRecords.trans {t u : State} (h : SameRecords s t) (g : SameRecords t u) : SameRecords s u :=
  ⟨g.parcels.trans h.parcels, g.rings.trans h.rings, g.out.trans h.out, g.away.trans h.away⟩

variable (s)

theorem State.unrefAdapter_same (id ver : Nat) : SameRecords s (s.unrefAdapter id ver) := by
  obtain ⟨a, b, h⟩ := s.countRef_eq (id % 4096) ver false
  rw [State.unrefAdapter, h]
  exact ⟨rfl, rfl, rfl, rfl⟩

theorem State.dropReq_same (r : Req) : SameRecords s (s.dropReq r) := by
  obtain ⟨m, p, l, c, b, h⟩ := s.dropReq_eq r
  rw [h]
  exact ⟨rfl, rfl, rfl, rfl⟩

theorem State.closeReq_same (k : Nat) : SameRecords s (s.closeReq k) := by
  unfold State.closeReq
  split
  · exact .refl s
  · split
    · exact .refl s
    · dsimp only
      split
      · exact (s.unrefAdapter_same _ _).trans ⟨rfl, rfl, rfl, rfl⟩
      · exact (s.unrefAdapter_same _ _).trans (State.dropReq_same _ _)

theorem State.recSent_same (c : CplRec) : SameRecords s (s.recSent c) := by
  unfold State.recSent
  split
  · exact .refl s
  · split
    · exact s.closeReq_same _
    · exact ⟨rfl, rfl, rfl, rfl⟩

/-! What becomes of a request whose final record has been sent. -/

/-- A change at one key that keeps the keys changes what a search for that key finds. -/
theorem find?_map_at {α : Type} {key : α → Nat} {f : α → α} {l : List α} {k : Nat} {a : α} (hf : ∀ x, key (f x) = key x)
    (h : l.find? (fun x => key x == k) = some a) :
    (l.map (fun x => if key x = k then f x else x)).find? (fun x => key x == k) = some (f a) := by
  have hp : ∀ x, key (if key x = k then f x else x) = key x := fun x => by split; exacts [hf x, rfl]
  have ha : key a = k := by simpa using List.find?_some h
  simp only [List.find?_map, Function.comp_def, hp, h, Option.map_some, if_pos ha]

section
variable {s} {k : Nat} {r : Req}

theorem State.req_key (h : s.req k = some r) : r.key = k := by simpa using List.find?_some h

theorem State.req_mem (h : s.req k = some r) : r ∈ s.serve.reqs := List.mem_of_find?_eq_some h

/-- A change that leaves the handle and the home of a request changes the one that its key finds. -/
theorem State.req_updReq {f : Req → Req} (hf : ∀ x, (f x).key = x.key) (h : s.req k = some r) : (s.updReq k f).req k = some (f r) :=
  find?_map_at hf h

/-- A request that asked for no hold is gone with its final record (R282). -/
theorem State.closeReq_gone (h : s.req k = some r) (he : r.state = .ended) (hk : r.holdKv = false) : (s.closeReq k).req k = none := by
  obtain rfl := State.req_key h
  simp only [State.closeReq, h, he, hk, ne_eq, not_true_eq_false, if_false, Bool.false_eq_true]
  exact State.dropReq_req_none _ r

/-- A request that asked to keep its pages is held from its final record on (R288). -/
theorem State.closeReq_held (h : s.req k = some r) (he : r.state = .ended) (hk : r.holdKv = true) :
    ∃ y, (s.closeReq k).req k = some y ∧ y.state = .held := by
  obtain ⟨a, b, hu⟩ := s.countRef_eq (r.adapter % 4096) r.aver false
  simp only [State.closeReq, h, he, hk, ne_eq, not_true_eq_false, if_false, if_true, State.unrefAdapter, hu]
  exact ⟨_, State.req_updReq (fun _ => rfl) h, rfl⟩

end

/-! Records. -/

theorem State.pushRec_parcels (i : Nat) (c : CplRec) (keep : Bool) : (s.pushRec i c keep).1.parcels = s.parcels := by
  unfold State.pushRec
  dsimp only
  split
  · exact (s.recSent_same c).parcels
  · split
    · exact (State.recSent_same _ c).parcels
    · split <;> rfl

/-- The token records of a request go to its ring, in order (R287). -/
def State.pushWithheld (s : State) (i : Nat) (l : List Nat) : State :=
  l.foldl (fun s k => (s.pushRec i ⟨s.mem.readN k 64, none⟩ true).1) s

@[simp] theorem State.pushWithheld_nil (i : Nat) : s.pushWithheld i [] = s := rfl

theorem State.pushWithheld_parcels (i : Nat) (l : List Nat) : (s.pushWithheld i l).parcels = s.parcels := by
  induction l generalizing s with
  | nil => rfl
  | cons k l ih => exact (ih _).trans (s.pushRec_parcels _ _ _)

/-- A record waits: the requests are as they were, and so is the ring but for a backlog of one record more. -/
structure Waited (i n : Nat) (s t : State) : Prop where
  reqs : t.serve.reqs = s.serve.reqs
  state : (t.ring i).state = (s.ring i).state
  canWrite : t.canWrite i = s.canWrite i
  backlog : (t.ring i).backlog.length = (s.ring i).backlog.length + n

/-- A record that must be kept waits where it cannot be written (R287). -/
theorem State.pushRec_waited (i : Nat) (c : CplRec) (h : (s.ring i).state ≠ 0) (hw : s.canWrite i = false) :
    Waited i 1 s (s.pushRec i c true).1 := by
  simp only [State.pushRec, h, hw, if_false, Bool.and_false, Bool.false_eq_true, Bool.true_or, if_true]
  have hr : ∀ f, (s.updRing i f).ring i = f (s.ring i) := fun f => SMap.get_set_same _ _ _ _
  exact ⟨rfl, by rw [hr], by simp only [State.canWrite, hr]; rfl, by rw [hr]; exact List.length_append⟩

/-- The same for the token records that a request withheld, one after the other. -/
theorem State.pushWithheld_waited (i : Nat) (l : List Nat) (h : (s.ring i).state ≠ 0) (hw : s.canWrite i = false) :
    Waited i l.length s (s.pushWithheld i l) := by
  induction l generalizing s with
  | nil => exact ⟨rfl, rfl, rfl, rfl⟩
  | cons k l ih =>
    have h1 := s.pushRec_waited i ⟨s.mem.readN k 64, none⟩ h hw
    have h2 := ih _ (h1.state ▸ h) (h1.canWrite ▸ hw)
    exact ⟨h2.reqs.trans h1.reqs, h2.state.trans h1.state, h2.canWrite.trans h1.canWrite,
      by rw [List.length_cons]; exact h2.backlog.trans (by rw [h1.backlog]; omega)⟩

/-- A record is written at once where none waits before it and there is space (R286). -/
theorem State.pushRec_written (i : Nat) (c : CplRec) (keep : Bool) (h : (s.ring i).state ≠ 0) (hb : (s.ring i).backlog = [])
    (hw : s.canWrite i = true) : (s.pushRec i c keep).1 = (s.writeRec i c.bytes).recSent c := by
  simp only [State.pushRec, h, hb, hw, if_false, List.isEmpty_nil, Bool.and_self, if_true]

theorem State.writeRec_req (i : Nat) (b : Bytes) (k : Nat) : (s.writeRec i b).req k = s.req k := rfl

/-- The record that a ring writes; its status is the one given, whatever its `PHASE`. -/
theorem State.writeRec_out (i : Nat) (b : Bytes) : ∃ c, (s.writeRec i b).serve.out = s.serve.out ++ [c] ∧ c.ring = i ∧
    ∃ fl, c.bytes = b.set 6 fl :=
  ⟨_, rfl, rfl, _, rfl⟩

/-- The status of a completion record (Table 10-3). -/
theorem slice_recBytes_status (handle status cflags pos total : Nat) (toks : List Nat) (time : Nat) :
    slice (recBytes handle status cflags pos total toks time) 4 2 = toLe 2 status := rfl

theorem slice_recBytes_set_status (handle status cflags pos total : Nat) (toks : List Nat) (time : Nat) (fl : BitVec 8) :
    slice ((recBytes handle status cflags pos total toks time).set 6 fl) 4 2 = toLe 2 status := rfl

/-- The final record of a request (R286). -/
def State.finalBytes (s : State) (r : Req) (status : Nat) : Bytes :=
  recBytes r.handle status (1 + (if s.isLate r then 2 else 0) + (if r.clamped then 4 else 0) + (if r.dropped then 8 else 0)) 0 r.generated []
    s.now

/-- The final records of a request admitted here go to its ring (R287). -/
theorem State.finalRecs_here (r : Req) (status : Nat) (h : r.home = 0) : s.finalRecs r status =
    ((s.pushWithheld r.ring r.withheld).pushRec r.ring ⟨s.finalBytes r status, some (r.handle % 2 ^ 24)⟩ true).1 :=
  if_neg (not_not_intro h)

/-- The final record of a request of another module returns there (R295). -/
theorem State.finalRecs_away (r : Req) (status : Nat) (h : r.home ≠ 0) : s.finalRecs r status = State.closeReq
    { s with serve := { s.serve with away := s.serve.away ++ [⟨r.home - 1, r.handle, s.finalBytes r status⟩] } } r.key :=
  if_pos h

theorem State.finalRecs_parcels (r : Req) (status : Nat) : (s.finalRecs r status).parcels = s.parcels := by
  by_cases h : r.home = 0
  · rw [s.finalRecs_here r status h]
    exact (State.pushRec_parcels _ _ _ _).trans (s.pushWithheld_parcels _ _)
  · rw [s.finalRecs_away r status h]
    exact (State.closeReq_same _ _).parcels

/-! The end of a request. -/

/-- The counts of a parcel when a request of it ends with a status (R28, R329). -/
def endCounts (r : Req) (status : Nat) (late : Bool) (p : Parcel) : Parcel :=
  if r.home ≠ 0 then p
  else if r.state = .admitting then { p with refused := satAdd 64 p.refused 1 }
  else { p with
    endedOk := if status = 0 then satAdd 64 p.endedOk 1 else p.endedOk
    endedOther := if status = 0 then p.endedOther else satAdd 64 p.endedOther 1
    endedLate := if late then satAdd 64 p.endedLate 1 else p.endedLate }

/-- An ended request; a refused one is never held (R288, log entry 72). -/
def Req.markEnded (r : Req) : Req := { r with state := .ended, holdKv := r.holdKv && r.state != .admitting }

/-- A request is counted and marked as ended; its records are still to come. -/
def State.markEnded (s : State) (r : Req) (k status : Nat) : State :=
  (s.updParcel r.parcel (endCounts r status (s.isLate r))).updReq k Req.markEnded

section
variable {s} {k : Nat} {r : Req}

theorem State.endReq_over (status : Nat) (h : s.req k = some r) (he : r.state = .held ∨ r.state = .ended) : s.endReq k status = s := by
  simp only [State.endReq, h, if_pos he]

theorem State.endReq_live (status : Nat) (h : s.req k = some r) (hh : r.state ≠ .held) (he : r.state ≠ .ended) :
    s.endReq k status = (s.markEnded r k status).finalRecs r status := by
  simp only [State.endReq, h, hh, he, or_self, if_false]
  rfl

@[simp] theorem State.markEnded_ring (status i : Nat) : (s.markEnded r k status).ring i = s.ring i := rfl

@[simp] theorem State.markEnded_canWrite (status i : Nat) : (s.markEnded r k status).canWrite i = s.canWrite i := rfl

@[simp] theorem State.markEnded_out (status : Nat) : (s.markEnded r k status).serve.out = s.serve.out := rfl

@[simp] theorem State.markEnded_away (status : Nat) : (s.markEnded r k status).serve.away = s.serve.away := rfl

theorem State.markEnded_req (status : Nat) (h : s.req k = some r) : (s.markEnded r k status).req k = some r.markEnded :=
  State.req_updReq (s := s.updParcel r.parcel _) (fun _ => rfl) h

/-- What a request's end counts, whatever becomes of its records. -/
theorem State.endReq_parcel (status : Nat) (h : s.req k = some r) (hh : r.state ≠ .held) (he : r.state ≠ .ended) :
    (s.endReq k status).parcel r.parcel = endCounts r status (s.isLate r) (s.parcel r.parcel) := by
  rw [State.endReq_live status h hh he, State.parcel, State.finalRecs_parcels]
  exact SMap.get_set_same _ _ _ _

/-- Where its ring cannot take a record, a request stays, ended, and its records wait in the backlog (R287). -/
theorem State.endReq_waits (status : Nat) (h : s.req k = some r) (hh : r.state ≠ .held) (he : r.state ≠ .ended) (h0 : r.home = 0)
    (hr : (s.ring r.ring).state ≠ 0) (hw : s.canWrite r.ring = false) :
    (∃ y, (s.endReq k status).req k = some y ∧ y.state = .ended) ∧
      ((s.endReq k status).ring r.ring).backlog.length = (s.ring r.ring).backlog.length + r.withheld.length + 1 := by
  have h1 := (s.markEnded r k status).pushWithheld_waited r.ring r.withheld hr hw
  have h2 := ((s.markEnded r k status).pushWithheld r.ring r.withheld).pushRec_waited r.ring
    ⟨(s.markEnded r k status).finalBytes r status, some (r.handle % 2 ^ 24)⟩ (h1.state ▸ hr) (h1.canWrite ▸ hw)
  rw [State.endReq_live status h hh he, State.finalRecs_here _ r status h0]
  refine ⟨⟨r.markEnded, ?_, rfl⟩, ?_⟩
  · rw [State.req, h2.reqs, h1.reqs]
    exact State.markEnded_req status h
  · rw [h2.backlog, h1.backlog]
    rfl

/-- The final record of a slot closes the request marked as ended there, when no other ended request holds the slot. -/
theorem State.recSent_markEnded (status : Nat) (b : Bytes) {t : State} (h : s.req k = some r) (h0 : r.home = 0)
    (hu : ∀ x, x ∈ s.serve.reqs → x.home = 0 → x.state = .ended → x.handle % 2 ^ 24 ≠ r.handle % 2 ^ 24)
    (ht : t.serve.reqs = (s.markEnded r k status).serve.reqs) : t.recSent ⟨b, some (r.handle % 2 ^ 24)⟩ = t.closeReq k := by
  have hmem : r.markEnded ∈ t.serve.reqs := ht ▸ State.req_mem (State.markEnded_req status h)
  cases hf : t.serve.reqs.find? (fun x => x.home == 0 && x.state == .ended && x.handle % 2 ^ 24 == r.handle % 2 ^ 24) with
  | none => exact absurd (List.find?_eq_none.1 hf _ hmem) (by simp [Req.markEnded, h0])
  | some x =>
    have hx := List.find?_some hf
    simp only [Bool.and_eq_true, beq_iff_eq] at hx
    obtain ⟨⟨hxh, hxe⟩, hxs⟩ := hx
    obtain ⟨y, hy, rfl⟩ := List.mem_map.1 (ht ▸ List.mem_of_find?_eq_some hf : x ∈ (s.markEnded r k status).serve.reqs)
    have hk : y.key = k := by
      by_contra hk
      rw [if_neg hk] at hxh hxe hxs
      exact hu y hy hxh hxe hxs
    simp only [State.recSent, hf, if_pos hk]
    exact congrArg t.closeReq hk

/-- Where its ring can take a record and none waits, a request's final record is written at once, and the request is closed (R282, R286). -/
theorem State.endReq_writes (status : Nat) (h : s.req k = some r) (hh : r.state ≠ .held) (he : r.state ≠ .ended) (h0 : r.home = 0)
    (hr : (s.ring r.ring).state ≠ 0) (hl : r.withheld = []) (hb : (s.ring r.ring).backlog = []) (hw : s.canWrite r.ring = true)
    (hu : ∀ x, x ∈ s.serve.reqs → x.home = 0 → x.state = .ended → x.handle % 2 ^ 24 ≠ r.handle % 2 ^ 24) :
    s.endReq k status = ((s.markEnded r k status).writeRec r.ring ((s.markEnded r k status).finalBytes r status)).closeReq k := by
  rw [State.endReq_live status h hh he, State.finalRecs_here _ r status h0, hl, State.pushWithheld_nil,
    State.pushRec_written _ r.ring _ true (by simpa using hr) (by simpa using hb) (by simpa using hw)]
  exact State.recSent_markEnded status _ h h0 hu rfl

/-- The final record written is the last one out, and carries the status (R286). -/
theorem State.closeReq_writeRec_out (s : State) (r : Req) (k status : Nat) :
    ∃ c, (((s.markEnded r k status).writeRec r.ring ((s.markEnded r k status).finalBytes r status)).closeReq k).serve.out = s.serve.out ++ [c] ∧
      c.ring = r.ring ∧ slice c.bytes 4 2 = toLe 2 status := by
  obtain ⟨c, ho, hc, fl, hfl⟩ := (s.markEnded r k status).writeRec_out r.ring ((s.markEnded r k status).finalBytes r status)
  refine ⟨c, ?_, hc, ?_⟩
  · rw [(State.closeReq_same _ k).out]
    exact ho
  · rw [hfl]
    exact slice_recBytes_set_status _ _ _ _ _ _ _ _

/-- The final record of another module's request carries the status too (R295). -/
theorem State.endReq_away (status : Nat) (h : s.req k = some r) (hh : r.state ≠ .held) (he : r.state ≠ .ended) (h0 : r.home ≠ 0) :
    ∃ b, (s.endReq k status).serve.away = s.serve.away ++ [⟨r.home - 1, r.handle, b⟩] ∧ slice b 4 2 = toLe 2 status := by
  rw [State.endReq_live status h hh he, State.finalRecs_away _ r status h0, (State.closeReq_same _ _).away]
  exact ⟨_, rfl, slice_recBytes_status _ _ _ _ _ _ _⟩

end

/-! The checks of Table 1-5. -/

/-- The adapter version that a request binds, as check 3 finds it (R244). -/
theorem bindsVersion_iff (r : Req) (v : Nat) :
    bindsVersion s r v ↔ (if r.adapter = 0 then some 0 else s.bindAdapter r.adapter r.parcel r.model) = some v := by
  unfold bindsVersion
  split
  · next h => simp [h, eq_comm]
  · next h => simp [h]

/-- The shared positions that a request starts behind, as check 4 finds them (R301). -/
theorem startsAt_iff (r : Req) (v p l : Nat) :
    startsAt s r v p l ↔
      (if r.prefixH = 0 then some 0 else (s.bindPrefix r.prefixH r.parcel r.model r.adapter v).map (fun i => i + 1)) = some p ∧
        (if p = 0 then 0 else (s.prefixAt (p - 1)).len) = l := by
  unfold startsAt
  split
  · next h =>
    simp only [h, ne_eq, not_true_eq_false, false_and, or_false, true_and, Option.some.injEq]
    constructor
    · rintro ⟨rfl, rfl⟩
      exact ⟨rfl, rfl⟩
    · rintro ⟨rfl, rfl⟩
      exact ⟨rfl, rfl⟩
  · next h =>
    simp only [h, ne_eq, not_false_eq_true, false_and, false_or, true_and, Option.map_eq_some_iff]
    constructor
    · rintro ⟨i, hi, rfl, rfl⟩
      exact ⟨⟨i, hi, rfl⟩, rfl⟩
    · rintro ⟨⟨i, hi, rfl⟩, rfl⟩
      exact ⟨i, hi, rfl, rfl⟩

section
variable {s} {r : Req} {m : Model} {v p l : Nat}

/-- What check 2 asks of a model (R25). -/
theorem mayAsk_iff : mayAsk s r m ↔ (s.parcel r.parcel).state = .enabled ∧ s.modelOf r.model = some m ∧
    ¬ (m.stepTokens = 0 ∨ (!m.allows r.parcel) = true ∨ (m.state ≠ .ready ∧ m.state ≠ .filling ∧ m.state ≠ .filled)) := by
  simp only [mayAsk, not_or, Bool.not_eq_true', Bool.not_eq_false, ne_eq]
  tauto

theorem State.tryAdmit_of_not_enabled (h : (s.parcel r.parcel).state ≠ .enabled) : s.tryAdmit r = s.endReq r.key 0x0201 :=
  if_pos h

theorem State.tryAdmit_of_not_mayAsk (he : (s.parcel r.parcel).state = .enabled) (h : ∀ m, ¬ mayAsk s r m) :
    s.tryAdmit r = s.endReq r.key 0x0304 := by
  unfold State.tryAdmit
  rw [if_neg (not_not_intro he)]
  cases hm : s.modelOf r.model with
  | none => rfl
  | some m => exact if_pos (not_not.1 fun hc => h m (mayAsk_iff.2 ⟨he, hm, hc⟩))

theorem State.tryAdmit_of_not_bindsVersion (ha : mayAsk s r m) (h : ∀ v, ¬ bindsVersion s r v) : s.tryAdmit r = s.endReq r.key 0x0305 := by
  obtain ⟨he, hm, hc⟩ := mayAsk_iff.1 ha
  have hv := Option.eq_none_iff_forall_ne_some.2 fun v hv => h v ((bindsVersion_iff s r v).2 hv)
  simp only [State.tryAdmit, he, ne_eq, not_true_eq_false, if_false, hm, if_neg hc, hv]

theorem State.tryAdmit_of_not_startsAt (ha : mayAsk s r m) (hb : bindsVersion s r v) (h : ∀ p l, ¬ startsAt s r v p l) :
    s.tryAdmit r = s.endReq r.key 0x0306 := by
  obtain ⟨he, hm, hc⟩ := mayAsk_iff.1 ha
  have hp := Option.eq_none_iff_forall_ne_some.2 fun p hp => h p _ ((startsAt_iff s r v p _).2 ⟨hp, rfl⟩)
  simp only [State.tryAdmit, he, ne_eq, not_true_eq_false, if_false, hm, if_neg hc, (bindsVersion_iff s r v).1 hb, hp]

theorem State.tryAdmit_of_no_room (ha : mayAsk s r m) (hb : bindsVersion s r v) (hs : startsAt s r v p l) (h : s.reserve m r l = none) :
    s.tryAdmit r = s.endReq r.key 0x0202 := by
  obtain ⟨he, hm, hc⟩ := mayAsk_iff.1 ha
  obtain ⟨hp, hl⟩ := (startsAt_iff s r v p l).1 hs
  simp only [State.tryAdmit, he, ne_eq, not_true_eq_false, if_false, hm, if_neg hc, (bindsVersion_iff s r v).1 hb, hp, hl, h]

/-- A request that passes every check is admitted, but where its model is to be filled beyond its owner's `Q_BLOCKS`. -/
theorem State.tryAdmit_of_room {a : AreaPlan} {base len : Nat} (ha : mayAsk s r m) (hb : bindsVersion s r v) (hs : startsAt s r v p l)
    (h : s.reserve m r l = some (a, base, len)) : s.tryAdmit r =
      if m.state = .ready then
        if s.blocksOk m = true then (s.admitted m r v p l a base len).wantFill r.model else s.endReq r.key 0x0202
      else s.admitted m r v p l a base len := by
  obtain ⟨he, hm, hc⟩ := mayAsk_iff.1 ha
  obtain ⟨hp, hl⟩ := (startsAt_iff s r v p l).1 hs
  simp only [State.tryAdmit, he, ne_eq, not_true_eq_false, if_false, hm, if_neg hc, (bindsVersion_iff s r v).1 hb, hp, hl, h]

end

/-! The commands. -/

section
variable {s} {ring : Fin 256} {t : Nat} {x y : State}

/-- A damaged packet is counted and taken; the oldest request of the ring that waits for admission ends (R256, R275, log entry 71). -/
theorem exec_admission_damaged {u : Nat} (hx : x = s.at' t) (hu : x.packetUe (x.ring ring.val).quad (intakeQueue ring.val) = some u)
    (hy : y = (((x.countTier 7 (x.boardAddr u)).cistErr (x.ring ring.val).quad 0x05 (intakeQueue ring.val) 0x7F
      (x.ring ring.val).owner).popPacket (x.ring ring.val).quad (intakeQueue ring.val) 1025).1) :
    exec (.admission ring t) s =
      .next ((y.serve.reqs.find? (fun r => r.ring == ring.val && r.state == .admitting)).elim y (fun r => y.endReq r.key 0x0404)).settle := by
  subst hx hy
  change execAdmission ring t s = _
  simp only [execAdmission, hu]
  split
  · next r hr => rw [hr, Option.elim_some]
  · next hr => rw [hr, Option.elim_none]

/-- Without a packet the idle item is taken, but from a queue that stalls (R256). -/
theorem exec_admission_idle (hx : x = s.at' t) (hu : x.packetUe (x.ring ring.val).quad (intakeQueue ring.val) = none)
    (hp : (x.popPacket (x.ring ring.val).quad (intakeQueue ring.val) 1025).2 = []) :
    exec (.admission ring t) s = .next (if ((x.cistern (x.ring ring.val).quad).queue (intakeQueue ring.val)).stall then x
      else x.idleItem (x.ring ring.val).quad).settle := by
  subst hx
  change execAdmission ring t s = _
  simp only [execAdmission, hu, hp]

/-- A packet names its request, which is checked when it waits for admission on this ring (R284). -/
theorem exec_admission_packet {h : BitVec 32} {pay : BitVec 256} {l : List (BitVec 32 × BitVec 256)} (hx : x = s.at' t)
    (hu : x.packetUe (x.ring ring.val).quad (intakeQueue ring.val) = none)
    (hp : x.popPacket (x.ring ring.val).quad (intakeQueue ring.val) 1025 = (y, (h, pay) :: l)) :
    exec (.admission ring t) s = .next ((y.req (pay.toNat % 2 ^ 32)).elim y
      (fun r => if r.state = .admitting ∧ r.ring = ring.val ∧ r.home = 0 then y.tryAdmit r else y)).settle := by
  subst hx
  change execAdmission ring t s = _
  simp only [execAdmission, hu, hp]
  split
  · next r hr => rw [hr, Option.elim_some]
  · next hr => rw [hr, Option.elim_none]

variable {handle : BitVec 32} {r : Req}

theorem exec_deadlineMissed_of_req (h : s.req handle.toNat = some r) : exec (.deadlineMissed handle t) s =
    .next (if s.time.valid ∧ !r.started ∧ (r.state = .admitting ∨ r.state = .queued) ∧ r.deadline ≠ 2 ^ 64 - 1 ∧ r.deadline < max s.now t then
      ((s.at' t).endReq r.key 0x0401).settle else s.at' t) := by
  change execDeadlineMissed handle t s = _
  have h' : (s.at' t).req handle.toNat = some r := h
  simp only [execDeadlineMissed, h']
  rfl

theorem exec_kvHoldExpire_of_req (h : s.req handle.toNat = some r) : exec (.kvHoldExpire handle t) s =
    .next (if r.state = .held ∧ r.holdUntil ≤ max s.now t then (s.at' t).dropReq r else s.at' t) := by
  change execKvHoldExpire handle t s = _
  have h' : (s.at' t).req handle.toNat = some r := h
  simp only [execKvHoldExpire, h']
  rfl

/-- A handle that names no request changes nothing but the time. -/
theorem exec_expiry_of_no_req (h : s.req handle.toNat = none) :
    exec (.deadlineMissed handle t) s = .next (s.at' t) ∧ exec (.kvHoldExpire handle t) s = .next (s.at' t) := by
  change execDeadlineMissed handle t s = _ ∧ execKvHoldExpire handle t s = _
  have h' : (s.at' t).req handle.toNat = none := h
  simp only [execDeadlineMissed, execKvHoldExpire, h', and_self]

/-- The guard of DEADLINE_MISSED is the missed deadline (R27, R328). -/
theorem missedDeadline_iff : missedDeadline (s.at' t) r ↔
    s.time.valid ∧ !r.started ∧ (r.state = .admitting ∨ r.state = .queued) ∧ r.deadline ≠ 2 ^ 64 - 1 ∧ r.deadline < max s.now t := by
  simp only [missedDeadline, Bool.not_eq_true']
  rfl

end

/-- A request over its quotas or its model's longest context finds no room (R284). -/
theorem State.reserve_of_over {m : Model} {r : Req} {l : Nat}
    (h : (s.parcel r.parcel).qInflight ≤
        (s.serve.reqs.filter (fun y => y.parcel == r.parcel && y.state != .admitting && y.home == 0)).length ∨
      m.maxContext < l + r.prompt + r.maxNew ∨
      (s.parcel r.parcel).qRes * mib2 < s.resUsed r.parcel + (areaPlan m (s.draftOf m r) r l).len m) : s.reserve m r l = none :=
  if_pos h

end Sys2Proof.Machine
end

section
namespace Sys2Proof.Machine

/-- Settles O28: the checks of Table 1-5 fall one by one; the end of a request is its counts, its mark and its final record, which the ring
takes at once or keeps. -/
theorem requestsAreAdmittedAndEnd : Obligations.RequestsAreAdmittedAndEnd := by
  unfold Obligations.RequestsAreAdmittedAndEnd
  refine ⟨?damaged, fun ring t s x => exec_admission_idle, ?packet, fun s r => State.tryAdmit_of_not_enabled,
    fun s r => State.tryAdmit_of_not_mayAsk, fun s r m => State.tryAdmit_of_not_bindsVersion, fun v s r m => State.tryAdmit_of_not_startsAt,
    fun v p l s r m => State.tryAdmit_of_no_room, ?room, fun s m r l => s.reserve_of_over, ?expiry,
    fun handle t s => exec_expiry_of_no_req, ?drop, fun s k st r => State.endReq_over st, fun s k st r => State.endReq_waits st, ?writes,
    fun s k st r => State.endReq_away st, ?counts⟩
  case damaged =>
    intro u y ring t s x hx hu hy
    rw [exec_admission_damaged hx hu hy]
    exact ⟨fun h => by rw [h, Option.elim_none], fun r h => by rw [h, Option.elim_some]⟩
  case packet =>
    intro h pay l y ring t s x hx hu hp
    rw [exec_admission_packet hx hu hp]
    refine ⟨fun r hr hok => by rw [hr, Option.elim_some, if_pos hok], fun hno => ?_⟩
    cases hr : y.req (pay.toNat % 2 ^ 32) with
    | none => rfl
    | some r => rw [Option.elim_some, if_neg (hno r hr)]
  case room =>
    intro v p l base len a s r m ha hb hs h
    rw [State.tryAdmit_of_room ha hb hs h]
    exact ⟨fun hn => if_neg hn, fun hy ho => by rw [if_pos hy, if_pos ho], fun hy ho => by rw [if_pos hy, if_neg (ne_true_of_eq_false ho)]⟩
  case expiry =>
    intro handle t s r h
    rw [exec_deadlineMissed_of_req h, exec_kvHoldExpire_of_req h, missedDeadline_iff]
    refine ⟨fun hd => ?_, fun hd => ?_, fun hd => ?_, fun hd => ?_⟩
    · rw [if_pos hd]
    · rw [if_neg hd]
    · rw [if_pos hd]
    · rw [if_neg hd]
  case drop =>
    exact fun s r => ⟨s.dropReq_req_none r, fun h0 g hg => hg ▸ s.dropReq_slot r h0⟩
  case writes =>
    intro s k st r h hh he h0 hr hl hb hw hu
    have hm := fun b => (State.writeRec_req _ r.ring b k).trans (State.markEnded_req st h)
    rw [State.endReq_writes st h hh he h0 hr hl hb hw hu]
    refine ⟨s.closeReq_writeRec_out r k st, fun hk => State.closeReq_gone (hm _) rfl ?_, fun hk ha => State.closeReq_held (hm _) rfl ?_⟩
    · obtain hk | hk := hk <;> simp [Req.markEnded, hk]
    · simp [Req.markEnded, hk, ha]
  case counts =>
    intro s k st r h h0
    refine ⟨fun ha => ?_, fun ha hh he => ?_⟩
    · rw [State.endReq_parcel st h (by simp [ha]) (by simp [ha]), endCounts, if_neg (not_not_intro h0), if_pos ha]
    · rw [State.endReq_parcel st h hh he, endCounts, if_neg (not_not_intro h0), if_neg ha]

end Sys2Proof.Machine
end

section
/-! SUPPORT. Words of one slot (R44 to R49): what a word leaves whose operation goes on, is guarded as a whole, acts on a bank or raises a fault,
and the statements of chapter 2 on the scalar, predicate, vector and matrix operations, each of which is one of these. -/

namespace Sys2Proof.Machine

/-- A word before its operations: nothing written, no fault, control going on. -/
abbrev unwritten (x : Issue) (s : State) (c : Ctx) : Work := ⟨s, coreOf x s c, [], [], .seq⟩

section
variable {x : Issue} {slot : Fin 8} {op : BitVec 8} {f : SlotF} {s s' : State} {c : Ctx} {k : CoreSt} {w : Work}

/-- A word of one slot whose operation goes on: the state its operation made, and the check of the word's end. -/
theorem issueOp_onward (h : Runs x slot op f s c)
    (hr : runSlot ⟨slot, op, f⟩ (envOf x s c) f (unwritten x s c) = ⟨s', k, [], [], .seq⟩) (hop : op ≠ 0 := by decide) :
    issueOp x slot op f s = endCheck x s c (issued x s' (k.onward c)) :=
  (issueOp_alone hop h).trans (runWord_seq hr (by simp))

/-- One that changes nothing but its tile and context. -/
theorem issueOp_done (h : Runs x slot op f s c)
    (hr : runSlot ⟨slot, op, f⟩ (envOf x s c) f (unwritten x s c) = ⟨s, k, [], [], .seq⟩) (hop : op ≠ 0 := by decide) :
    Host.Outcome.next (issueOp x slot op f s) = done x s c k :=
  congrArg Host.Outcome.next (issueOp_onward h hr hop)

/-- One that is guarded as a whole (R47). -/
theorem issueOp_whole (h : Runs x slot op f s c)
    (hr : runSlot ⟨slot, op, f⟩ (envOf x s c) f (unwritten x s c) = if (envOf x s c).on f then ⟨s, k, [], [], .seq⟩ else unwritten x s c)
    (hop : op ≠ 0 := by decide) :
    Host.Outcome.next (issueOp x slot op f s) = done x s c (whole x s c f k) :=
  issueOp_done h (hr.trans (apply_ite (fun k => (⟨s, k, [], [], .seq⟩ : Work)) _ _ _).symm) hop

/-- One guarded as a whole does nothing where its guard is clear. -/
theorem issueOp_unguarded (h : Runs x slot op f s c) (hg : ¬ Guarded x s c f)
    (hr : runSlot ⟨slot, op, f⟩ (envOf x s c) f (unwritten x s c) = if (envOf x s c).on f then w else unwritten x s c) (hop : op ≠ 0 := by decide) :
    Host.Outcome.next (issueOp x slot op f s) = done x s c (coreOf x s c) :=
  issueOp_done h (hr.trans (if_neg hg)) hop

/-- One that raises a tile fault and changes nothing else. -/
theorem issueOp_faulted {cause detail : Nat} (h : Runs x slot op f s c)
    (hr : runSlot ⟨slot, op, f⟩ (envOf x s c) f (unwritten x s c) = (unwritten x s c).fault cause detail) (hop : op ≠ 0 := by decide)
    (hc : cause ≠ 0x0E := by decide) :
    Host.Outcome.next (issueOp x slot op f s) = faulted x s c cause detail :=
  congrArg Host.Outcome.next ((issueOp_alone hop h).trans (runWord_seq hr (by simpa using hc)))

/-! Banks (R34). -/

theorem Work.onBank_of_mayUse {r : BitVec 8} (h : mayUse x s r) (w : Work) (g : Work → Bank → Work) :
    w.onBank (envOf x s c) r g = g w ((s.tile x.tile.val).bank r) := by
  have ht : (envOf x s c).t = s.tile x.tile.val := rfl
  have hk : (envOf x s c).k = x.ctx.val := rfl
  obtain h | h := h <;> simp [Work.onBank, ht, hk, h]

theorem Work.onBank_of_not_mayUse {r : BitVec 8} (h : ¬ mayUse x s r) (w : Work) (g : Work → Bank → Work) :
    w.onBank (envOf x s c) r g = w.fault 0x0D 0 := by
  obtain ⟨hn, hs⟩ := not_or.1 h
  obtain ⟨o, ho⟩ := Option.ne_none_iff_exists'.1 hn
  have hne : o ≠ x.ctx.val := fun e => hs (by rw [ho, e])
  have ht : (envOf x s c).t = s.tile x.tile.val := rfl
  have hk : (envOf x s c).k = x.ctx.val := rfl
  simp [Work.onBank, ht, hk, ho, hne]

/-- What an `ARD` leaves of a bank that the context may use (R88 to R92). -/
theorem opArd_of_mayUse (c : Ctx) (h : mayUse x s f.srcA) :
    opArd (envOf x s c) f (unwritten x s c) = ⟨s, readOut x s c f ((s.tile x.tile.val).bank f.srcA).landAll.examine, [], [], .seq⟩ := by
  unfold opArd readOut
  rw [Work.onBank_of_mayUse h]
  cases hx : isMX (f.mod.toNat % 16) <;> simp only [hx] <;> rfl

section
variable {r : BitVec 8} {g : Work → Bank → Work} {run : SlotF → Work → Work}

/-- An operation on a bank that the context may use. -/
theorem issueOp_onBank (h : Runs x slot op f s c) (hm : mayUse x s r) (hr : runSlot ⟨slot, op, f⟩ (envOf x s c) = run)
    (hb : ∀ w, run f w = w.onBank (envOf x s c) r g)
    (hg : g (unwritten x s c) ((s.tile x.tile.val).bank r) = ⟨s, k, [], [], .seq⟩) (hop : op ≠ 0 := by decide) :
    Host.Outcome.next (issueOp x slot op f s) = done x s c k :=
  issueOp_done h (by rw [hr, hb, Work.onBank_of_mayUse hm, hg]) hop

theorem issueOp_onBank_whole (h : Runs x slot op f s c) (hm : mayUse x s r)
    (hr : runSlot ⟨slot, op, f⟩ (envOf x s c) f (unwritten x s c) =
      if (envOf x s c).on f then (unwritten x s c).onBank (envOf x s c) r g else unwritten x s c)
    (hg : g (unwritten x s c) ((s.tile x.tile.val).bank r) = ⟨s, k, [], [], .seq⟩) (hop : op ≠ 0 := by decide) :
    Host.Outcome.next (issueOp x slot op f s) = done x s c (whole x s c f k) :=
  issueOp_whole h (by rw [hr, Work.onBank_of_mayUse hm, hg]) hop

/-- An operation on a bank that another context owns raises `BANK_OWNED`. -/
theorem issueOp_bankOwned (h : Runs x slot op f s c) (hm : ¬ mayUse x s r) (hr : runSlot ⟨slot, op, f⟩ (envOf x s c) = run)
    (hb : ∀ w, run f w = w.onBank (envOf x s c) r g) (hop : op ≠ 0 := by decide) :
    Host.Outcome.next (issueOp x slot op f s) = faulted x s c 0x0D 0 :=
  issueOp_faulted h (by rw [hr, hb, Work.onBank_of_not_mayUse hm]) hop

theorem issueOp_bankOwned_whole (h : Runs x slot op f s c) (hg : Guarded x s c f) (hm : ¬ mayUse x s r)
    (hr : runSlot ⟨slot, op, f⟩ (envOf x s c) f (unwritten x s c) =
      if (envOf x s c).on f then (unwritten x s c).onBank (envOf x s c) r g else unwritten x s c) (hop : op ≠ 0 := by decide) :
    Host.Outcome.next (issueOp x slot op f s) = faulted x s c 0x0D 0 :=
  issueOp_faulted h (by rw [hr, if_pos ((guarded_iff x s c f).1 hg), Work.onBank_of_not_mayUse hm]) hop

end

end

/-! The statements. -/

/-- Settles O1: each operation is guarded as a whole, and its effect is the write of its result. -/
theorem scalarOperationsWriteTheirResult : Obligations.ScalarOperationsWriteTheirResult := by
  unfold Obligations.ScalarOperationsWriteTheirResult
  refine ⟨?_, ?_, ?_, ?_, ?_, ?_, ?_, ?_, ?_, ?_⟩ <;> exact fun _ _ _ _ h => issueOp_whole h rfl

/-- A bit of `PRANGE` lies between the clamped bounds, as naturals or as integers (log entry 7). -/
theorem prange_bits (a b : Int) :
    (fun i : Nat => if (max 0 (min 64 a)).toNat ≤ i ∧ i < (max 0 (min 64 b)).toNat then 1 else 0) =
      fun i : Nat => if max 0 (min 64 a) ≤ (i : Int) ∧ (i : Int) < max 0 (min 64 b) then 1 else 0 := by
  funext i
  simp only [Int.toNat_le, Int.lt_toNat]

/-- Settles O2: each operation writes its bits under the mask; the bounds of `PRANGE` are compared as integers. -/
theorem predicateOperationsWriteUnderTheMask : Obligations.PredicateOperationsWriteUnderTheMask := by
  unfold Obligations.PredicateOperationsWriteUnderTheMask
  refine ⟨?_, ?_, ?_, ?_, ?_, ?prange, ?_⟩
  case prange =>
    intro x f s c h
    rw [← prange_bits]
    exact issueOp_done h rfl
  all_goals exact fun _ _ _ _ h => issueOp_done h rfl

/-- Settles O3: each operation writes its lanes under the mask. -/
theorem laneArithmeticRoundsEachLaneOnce : Obligations.LaneArithmeticRoundsEachLaneOnce := by
  unfold Obligations.LaneArithmeticRoundsEachLaneOnce
  refine ⟨?_, ?_, ?_, ?_, ?_, ?_⟩ <;> exact fun _ _ _ _ h => issueOp_done h rfl

/-- Settles O5: each operation writes its lanes under the mask. -/
theorem integerLaneAndMoveOperationsWriteTheirLanes : Obligations.IntegerLaneAndMoveOperationsWriteTheirLanes := by
  unfold Obligations.IntegerLaneAndMoveOperationsWriteTheirLanes
  refine ⟨?_, ?_, ?_, ?_, ?_, ?_, ?_⟩ <;> exact fun _ _ _ _ h => issueOp_done h rfl

/-- Settles O6: each operation acts on its bank where the context may use it and raises `BANK_OWNED` where not; `ACLR`, `AWIN`, `AADD` and
`AFLAG` are guarded as a whole. -/
theorem matrixOperationsActOnTheirBank : Obligations.MatrixOperationsActOnTheirBank := by
  unfold Obligations.MatrixOperationsActOnTheirBank
  refine ⟨fun x f s c h hm => issueOp_onBank (run := opMma false _) h hm rfl (fun _ => rfl) rfl,
    fun x f s c h hm => issueOp_onBank (run := opMma true _) h hm rfl (fun _ => rfl) rfl, ?aclr, ?awin, ?aadd,
    fun x f s c h hm => issueOp_onBank (run := opAraw _) h hm rfl (fun _ => rfl) rfl,
    fun x f s c h hm => issueOp_done h (opArd_of_mayUse c hm), ?aflag,
    fun x f s c h hm => issueOp_bankOwned (run := opMma false _) h hm rfl (fun _ => rfl),
    fun x f s c h hm => issueOp_bankOwned (run := opMma true _) h hm rfl (fun _ => rfl),
    fun x f s c h hg hm => issueOp_bankOwned_whole h hg hm rfl, fun x f s c h hg hm => issueOp_bankOwned_whole h hg hm rfl,
    fun x f s c h hg hm => issueOp_bankOwned_whole h hg hm rfl,
    fun x f s c h hm => issueOp_bankOwned (run := opAraw _) h hm rfl (fun _ => rfl),
    fun x f s c h hm => issueOp_bankOwned (run := opArd _) h hm rfl (fun _ => rfl), fun x f s c h hg hm => issueOp_bankOwned_whole h hg hm rfl,
    fun x f s c h hg => issueOp_unguarded h hg rfl, fun x f s c h hg => issueOp_unguarded h hg rfl,
    fun x f s c h hg => issueOp_unguarded h hg rfl, fun x f s c h hg => issueOp_unguarded h hg rfl, fun _ _ => rfl, fun _ _ => rfl⟩
  case aclr | awin | aadd | aflag =>
    intro x f s c h hm
    refine issueOp_onBank_whole h hm rfl ?_
    rfl

end Sys2Proof.Machine
end

section
/-! SUPPORT. Tile and canal faults (R65, R127, R150): both stop their tile in the same way, and the statement of chapter 2 on them. -/

namespace Sys2Proof.Machine

/-! Fault records (Table 2-17). -/

theorem FaultRec.raise_of_clear {r : FaultRec} (cause : Nat) (info : BitVec 64) (h : r.valid = false) :
    r.raise cause info = ⟨cause, true, false, info⟩ :=
  if_neg (by simp [h])

theorem FaultRec.raise_of_valid {r : FaultRec} (cause : Nat) (info : BitVec 64) (h : r.valid = true) :
    r.raise cause info = { r with multi := true } :=
  if_pos h

theorem FaultRec.raise_valid (r : FaultRec) (cause : Nat) (info : BitVec 64) : (r.raise cause info).valid = true := by
  cases h : r.valid
  · rw [r.raise_of_clear cause info h]
  · rw [r.raise_of_valid cause info h]
    exact h

/-- The first fault stands. -/
theorem FaultRec.raise_first {r : FaultRec} (cause : Nat) (info : BitVec 64) (h : r.valid = false) :
    (r.raise cause info).cause = cause ∧ (r.raise cause info).info = info := by
  rw [r.raise_of_clear cause info h]
  exact ⟨rfl, rfl⟩

section
variable (s : State)

/-! What a fault changes. -/

/-- A force leaves every other block controller. -/
theorem State.force_block_other {b i : Nat} (cause status tile : Nat) (retry : Bool) (h : b ≠ i) :
    (s.force b cause status tile retry).block i = s.block i := by
  unfold State.force
  split
  · rfl
  · split
    · rfl
    · dsimp only
      split <;> simp [h]

/-- A record without a status changes the field book only, and takes the next number. -/
theorem State.post_quiet (src code parcel unit : Nat) (detail : BitVec 64) :
    ∃ b, s.post false src code 0 parcel unit detail = { s with book := b } ∧ b.next = s.book.next + 1 :=
  ⟨_, rfl, rfl⟩

/-- A fault stops tile `g` as `t`, posts one record without a status, and forces the plot of the tile, if it has one (R65, R127). -/
def State.stopTile (s : State) (g : Nat) (t : Tile) (src code cause status : Nat) (info : BitVec 64) : State :=
  (s.tile g).lead.elim ((s.setTile g t).post false src code 0 (s.parcelOf g) g info)
    (fun b => ((s.setTile g t).post false src code 0 (s.parcelOf g) g info).force b cause status g)

theorem State.tileFault_eq_stopTile (g cause : Nat) (info : BitVec 64) (status : Nat) : s.tileFault g cause info status =
    s.stopTile g { (s.tile g).discardCtxs with
      halted := true
      regs := { (s.tile g).regs with
        fault := (s.tile g).regs.fault.raise cause info, retest := (s.tile g).regs.retest || decide (cause = 0x0F) } } 0x01 cause 0x10 status info := by
  unfold State.tileFault State.stopTile
  dsimp only
  cases (s.tile g).lead <;> rfl

theorem State.canalFault_eq_stopTile (g cause : Nat) (info : BitVec 64) : s.canalFault g cause info =
    s.stopTile g { (s.tile g).discardCtxs with
      halted := true
      regs := { (s.tile g).regs with canalFault := (s.tile g).regs.canalFault.raise cause info } } 0x02 cause 0x11 0x0403 info := by
  unfold State.canalFault State.stopTile
  dsimp only
  cases (s.tile g).lead <;> rfl

/-- The tile is stopped and one record posted; the other tiles, memory and the blocks of the other plots are as before. -/
theorem State.stopTile_frame (g : Nat) (t : Tile) (src code cause status : Nat) (info : BitVec 64) {y : State}
    (h : s.stopTile g t src code cause status info = y) :
    y.tile g = t ∧ (∀ i, i ≠ g → y.tile i = s.tile i) ∧ y.book.next = s.book.next + 1 ∧ y.mem = s.mem ∧
      ∀ b, (s.tile g).lead ≠ some b → y.block b = s.block b := by
  obtain ⟨k, hp, hk⟩ := State.post_quiet (s.setTile g t) src code (s.parcelOf g) g info
  unfold State.stopTile at h
  rw [hp] at h
  have hy : ∃ i l, y = { s.setTile g t with book := k, hic := i, blocks := l } ∧
      ∀ b, (s.tile g).lead ≠ some b → y.block b = s.block b := by
    subst h
    cases (s.tile g).lead with
    | none => exact ⟨_, _, rfl, fun _ _ => rfl⟩
    | some b =>
      obtain ⟨i, l, e⟩ := State.force_eq { s.setTile g t with book := k } b cause status g false
      exact ⟨i, l, e, fun j hj => State.force_block_other _ _ _ _ _ (fun e => hj (congrArg some e))⟩
  obtain ⟨i, l, rfl, hl⟩ := hy
  exact ⟨(s.setTile_tile_at g g t).trans (if_pos rfl), fun j hj => (s.setTile_tile_at g j t).trans (if_neg hj.symm), hk, rfl, hl⟩

/-- The plot of the tile is forced. -/
theorem State.stopTile_forcedBy {s : State} {g b : Nat} {p : Plot} (t : Tile) (src code cause status : Nat) (info : BitVec 64)
    (hl : (s.tile g).lead = some b) (hb : b < 64) (hp : s.plot b = some p) (h1 : p.state ≠ .free) (h2 : p.state ≠ .forcing) :
    forcedBy s (s.stopTile g t src code cause status info) b cause := by
  unfold State.stopTile
  rw [hl]
  exact State.force_forcedBy ((s.setTile g t).post false src code 0 (s.parcelOf g) g info) b cause status g false p hp hb h1 h2

end

/-- Settles O58: both faults stop their tile in the same way, and differ in the record they raise and the cause of the force. -/
theorem faultsStopTheirTileAndForceItsPlot : Obligations.FaultsStopTheirTileAndForceItsPlot := by
  unfold Obligations.FaultsStopTheirTileAndForceItsPlot
  refine ⟨?tile, fun s g cause status info b p hl hb hp h1 h2 => ?_, ?canal, fun s g cause info b p hl hb hp h1 h2 => ?_⟩
  case tile =>
    intro s y g cause status info h
    rw [State.tileFault_eq_stopTile] at h
    obtain ⟨ht, ho, hn, hm, hb⟩ := s.stopTile_frame _ _ _ _ _ _ _ h
    rw [ht]
    exact ⟨rfl, rfl, FaultRec.raise_valid _ _ _, rfl, FaultRec.raise_first _ _, FaultRec.raise_of_valid _ _, ho, hn, hm, hb⟩
  case canal =>
    intro s y g cause info h
    rw [State.canalFault_eq_stopTile] at h
    obtain ⟨ht, ho, hn, hm, hb⟩ := s.stopTile_frame _ _ _ _ _ _ _ h
    rw [ht]
    exact ⟨rfl, rfl, FaultRec.raise_valid _ _ _, rfl, FaultRec.raise_first _ _, ho, hn, hm, hb⟩
  · rw [State.tileFault_eq_stopTile]
    exact State.stopTile_forcedBy _ _ _ _ _ _ hl hb hp h1 h2
  · rw [State.canalFault_eq_stopTile]
    exact State.stopTile_forcedBy _ _ _ _ _ _ hl hb hp h1 h2

end Sys2Proof.Machine
end

section
/-! SUPPORT. Where a word goes (R43, R48 to R50, R61) and the words that do not issue, with the statements of chapter 2 on slot 0. -/

namespace Sys2Proof.Machine

/-! Forces and the yield records of a plot. -/

/-- A force leaves the plat and the section of the plot, and with them its yield records. -/
theorem State.force_hasYield (s : State) (b cause status tile n i : Nat) (retry : Bool) :
    ((s.force b cause status tile retry).plot i).map (fun p => p.hasYield n) = (s.plot i).map (fun p => p.hasYield n) := by
  unfold State.force
  split
  · rfl
  · next p hp =>
    split
    · rfl
    · dsimp only
      split
      · simp
      · by_cases h : b = i
        · subst h
          simp only [State.setPlot_plot_at, if_true, hp]
          rfl
        · simp [h]

theorem State.tileFault_hasYield (s : State) (g cause n i : Nat) (info : BitVec 64) (status : Nat) :
    ((s.tileFault g cause info status).plot i).map (fun p => p.hasYield n) = (s.plot i).map (fun p => p.hasYield n) := by
  unfold State.tileFault
  dsimp only
  split
  · exact State.force_hasYield (State.post (s.setTile g _) false 0x01 cause 0 (s.parcelOf g) g info) _ _ _ _ _ _ _
  · rfl

section
variable {x : Issue} {slot : Fin 8} {op : BitVec 8} {f : SlotF} {s : State} {c : Ctx} {fl : Flow} {pc n a : Nat} {l : List OpenLoop}
  {o : SlotOp} {w : List SlotOp}

/-! Successors (R49). -/

theorem successor_jump : successor c (trigOfCtx x s c) (.jump a) = ((a, c.loops), if inBlock x s c a then none else some 0x02) := by
  simp only [successor, decide_eq_true_eq]

theorem successor_skip : successor c (trigOfCtx x s c) (.skip a) = ((a, c.loops), if inBlock x s c a then none else some 0x02) :=
  successor_jump

/-- A loop opens where fewer than four are open and its end lies in the block. -/
theorem successor_loop (hl : c.loops.length < 4) (hb : inBlock x s c a) : successor c (trigOfCtx x s c) (.loop a n) =
    ((c.pc + 1, ⟨c.pc + 1, a, n⟩ :: c.loops), if inBlock x s c (c.pc + 1) then none else some 0x02) := by
  simp only [successor, decide_eq_true_eq, if_neg (Nat.not_le.2 hl)]
  exact if_pos hb

theorem successor_loop_out (hl : c.loops.length < 4) (hb : ¬ inBlock x s c a) :
    successor c (trigOfCtx x s c) (.loop a n) = ((c.pc + 1, c.loops), some 0x02) := by
  simp only [successor, decide_eq_true_eq, if_neg (Nat.not_le.2 hl)]
  exact if_neg hb

theorem successor_loop_deep (hl : 4 ≤ c.loops.length) : successor c (trigOfCtx x s c) (.loop a n) = ((c.pc + 1, c.loops), some 0x03) :=
  if_pos hl

/-! Branches. -/

/-- A word whose operation names where to go. -/
def Flow.branches : Flow → Prop
  | .jump _ => True
  | .skip _ => True
  | .loop _ _ => True
  | .seq => False
  | .eob => False
  | .yield _ => False

/-- Such a word goes there, with the fault that finding its successor raises, if any. -/
theorem issueOp_branch {e : Option Nat} (h : Runs x slot op f s c) (hop : op ≠ 0) (hfl : fl.branches)
    (hr : runSlot ⟨slot, op, f⟩ (envOf x s c) f (unwritten x s c) = { unwritten x s c with flow := fl })
    (hn : successor c (trigOfCtx x s c) fl = ((pc, l), e)) (he : ∀ cause ∈ e, cause ≠ 0x0E) :
    issueOp x slot op f s =
      e.elim (issued x s ((coreOf x s c).goTo pc l)) (fun cause => wordFault x c cause pc (issued x s ((coreOf x s c).goTo pc l))) := by
  have hn' : successor (envOf x s c).c ((envOf x s c).t.trigAt (envOf x s c).c.entry) fl = _ := hn
  have hr' : runSlot ⟨slot, op, f⟩ (envOf x s c) f ⟨s, ⟨(envOf x s c).t, (envOf x s c).c⟩, [], [], .seq⟩ = _ := hr
  rw [issueOp_alone hop h]
  unfold runWord
  dsimp only [List.foldl_cons, List.foldl_nil]
  rw [hr']
  dsimp only
  rw [hn']
  cases fl
  case seq | eob | yield => exact hfl.elim
  all_goals
    cases e with
    | none => rfl
    | some cause => exact raise_faults (l := [(cause, pc)]) (by simpa using he)

theorem issueOp_goTo (h : Runs x slot op f s c)
    (hr : runSlot ⟨slot, op, f⟩ (envOf x s c) f (unwritten x s c) = { unwritten x s c with flow := fl })
    (hn : successor c (trigOfCtx x s c) fl = ((pc, l), none)) (hop : op ≠ 0 := by decide) (hfl : fl.branches := by trivial) :
    (.next (issueOp x slot op f s) : Host.Outcome State Fault Refusal) = .next (issued x s ((coreOf x s c).goTo pc l)) :=
  congrArg Host.Outcome.next (issueOp_branch h hop hfl hr hn (by simp))

theorem issueOp_lost {cause : Nat} (h : Runs x slot op f s c)
    (hr : runSlot ⟨slot, op, f⟩ (envOf x s c) f (unwritten x s c) = { unwritten x s c with flow := fl })
    (hn : successor c (trigOfCtx x s c) fl = ((pc, l), some cause)) (hop : op ≠ 0 := by decide) (hfl : fl.branches := by trivial)
    (hc : cause ≠ 0x0E := by decide) :
    Host.Outcome.next (issueOp x slot op f s) = lost x s c cause pc l :=
  congrArg Host.Outcome.next (issueOp_branch h hop hfl hr hn (by simpa using hc))

/-! `LOOP`. -/

/-- What a `LOOP` with its guard asks for: its end word and count, or the word past its end where the count is 0 (log entry 16). -/
theorem opLoop_guarded (hg : Guarded x s c f) : opLoop (envOf x s c) f (unwritten x s c) = { unwritten x s c with
    flow := if loopCount x s c f = 0 then .skip (fieldN f.imm.toNat 32 8 + 1) else .loop (fieldN f.imm.toNat 32 8) (loopCount x s c f) } := by
  refine (if_pos hg).trans ?_
  exact (apply_ite (fun fl => ({ unwritten x s c with flow := fl } : Work)) (loopCount x s c f = 0) _ _).symm

theorem opLoop_of_zero (hg : Guarded x s c f) (h0 : loopCount x s c f = 0) :
    opLoop (envOf x s c) f (unwritten x s c) = { unwritten x s c with flow := .skip (fieldN f.imm.toNat 32 8 + 1) } := by
  rw [opLoop_guarded hg, if_pos h0]

theorem opLoop_of_count (hg : Guarded x s c f) (h0 : loopCount x s c f ≠ 0) : opLoop (envOf x s c) f (unwritten x s c) =
    { unwritten x s c with flow := .loop (fieldN f.imm.toNat 32 8) (loopCount x s c f) } := by
  rw [opLoop_guarded hg, if_neg h0]

/-! `EOB` and `YIELD`. -/

/-- A word of one slot that ends its block (R43). -/
theorem issueOp_eob (h : Runs x slot op f s c)
    (hr : runSlot ⟨slot, op, f⟩ (envOf x s c) f (unwritten x s c) = { unwritten x s c with flow := .eob }) (hop : op ≠ 0 := by decide) :
    issueOp x slot op f s = issued x s { coreOf x s c with c := { c with state := .retiring } } := by
  have hr' : runSlot ⟨slot, op, f⟩ (envOf x s c) f ⟨s, ⟨(envOf x s c).t, (envOf x s c).c⟩, [], [], .seq⟩ = _ := hr
  have hc : ({ c with state := .retiring } : Ctx) = { c with state := .retiring, held := none } := by
    rw [← h.unheld]
  rw [issueOp_alone hop h, hc]
  unfold runWord
  dsimp only [List.foldl_cons, List.foldl_nil]
  rw [hr']
  rfl

/-- What `YIELD` does when it yields (R61). -/
theorem opYield_yields (hg : Guarded x s c f) (hy : (s.tile x.tile.val).regs.yieldReq = true) :
    opYield (envOf x s c) f (unwritten x s c) = { unwritten x s c with flow := .yield (f.imm.toNat % 256) } :=
  if_pos (Bool.and_eq_true_iff.2 ⟨hg, hy⟩)

theorem opYield_goes_on (h : ¬ Guarded x s c f ∨ (s.tile x.tile.val).regs.yieldReq = false) :
    opYield (envOf x s c) f (unwritten x s c) = unwritten x s c := by
  refine if_neg fun hy => ?_
  obtain ⟨hg, hr⟩ := Bool.and_eq_true_iff.1 hy
  exact h.elim (fun hn => hn hg) (fun hn => Bool.false_ne_true (hn.symm.trans hr))

/-- A word of one slot that yields at a point: it parks, and its plot is forced where its section has no record of the point. -/
theorem issueOp_yield (h : Runs x slot op f s c) (hop : op ≠ 0)
    (hr : runSlot ⟨slot, op, f⟩ (envOf x s c) f (unwritten x s c) = { unwritten x s c with flow := .yield n }) :
    issueOp x slot op f s = match (s.tile x.tile.val).lead with
      | some b => (match (parkedAt x s c n).plot b with
        | some p => if p.hasYield n then parkedAt x s c n else (parkedAt x s c n).force b 0x06 0x0403 x.tile.val
        | none => parkedAt x s c n)
      | none => parkedAt x s c n := by
  have hr' : runSlot ⟨slot, op, f⟩ (envOf x s c) f ⟨s, ⟨(envOf x s c).t, (envOf x s c).c⟩, [], [], .seq⟩ = _ := hr
  have hn : successor (envOf x s c).c ((envOf x s c).t.trigAt (envOf x s c).c.entry) (.yield n) = _ := successor_seq x s c
  rw [issueOp_alone hop h]
  unfold runWord
  dsimp only [List.foldl_cons, List.foldl_nil]
  rw [hr']
  dsimp only
  rw [hn]
  by_cases hf : Follows x s c
  · rw [if_pos hf, show parkedAt x s c n = _ from if_pos hf]
    cases hl : (s.tile x.tile.val).lead with
    | none => rw [show (envOf x s c).t.lead = none from hl]; rfl
    | some b => rw [show (envOf x s c).t.lead = some b from hl]; rfl
  · rw [if_neg hf, show parkedAt x s c n = _ from if_neg hf]
    cases hl : (s.tile x.tile.val).lead with
    | none => rw [show (envOf x s c).t.lead = none from hl]; exact raise_faults (l := [(_, _)]) (by simp)
    | some b =>
      rw [show (envOf x s c).t.lead = some b from hl]
      dsimp only [Work.fault, List.nil_append]
      rw [raise_faults (by simp)]
      rfl

theorem parkedAt_hasYield (x : Issue) (s : State) (c : Ctx) (n i m : Nat) :
    ((parkedAt x s c n).plot i).map (fun p => p.hasYield m) = (s.plot i).map (fun p => p.hasYield m) := by
  unfold parkedAt endCheck
  split
  · rfl
  · exact State.tileFault_hasYield _ _ _ _ _ _ _

/-- A point that the section records: the context parks. -/
theorem issueOp_yield_of_hasPoint (h : Runs x slot op f s c) (hp : hasPoint x s n)
    (hr : runSlot ⟨slot, op, f⟩ (envOf x s c) f (unwritten x s c) = { unwritten x s c with flow := .yield n }) (hop : op ≠ 0 := by decide) :
    issueOp x slot op f s = parkedAt x s c n := by
  rw [issueOp_yield h hop hr]
  split
  · next b hl =>
    have hy := parkedAt_hasYield x s c n b n
    split
    · next q hq =>
      rw [hq] at hy
      obtain ⟨p, hs, he⟩ := Option.map_eq_some_iff.1 hy.symm
      rw [if_pos (he.symm.trans (hp b p hl hs))]
    · rfl
  · rfl

/-- A point of which the section has no record: the plot is forced (Table 5-5). -/
theorem issueOp_yield_of_no_point {b : Nat} {p : Plot} (h : Runs x slot op f s c) (hl : (s.tile x.tile.val).lead = some b)
    (hs : s.plot b = some p) (hp : p.hasYield n = false)
    (hr : runSlot ⟨slot, op, f⟩ (envOf x s c) f (unwritten x s c) = { unwritten x s c with flow := .yield n }) (hop : op ≠ 0 := by decide) :
    issueOp x slot op f s = (parkedAt x s c n).force b 0x06 0x0403 x.tile.val := by
  have hy := parkedAt_hasYield x s c n b n
  rw [hs] at hy
  obtain ⟨q, hq, he⟩ := Option.map_eq_some_iff.1 hy
  rw [issueOp_yield h hop hr, hl]
  dsimp only
  rw [hq]
  exact if_neg (by simp [he, hp])

/-! `NOP` and words that do not issue (R45, R48, R50, R56). -/

/-- An empty word runs as one whose slot holds no operation. -/
theorem issueOp_nop (h : Issues x [] s c) : issueOp x slot 0 f s = wentOn x s c (coreOf x s c) := by
  rw [issueOp_empty h, show runWord (envOf x s c) [] s = runWord (envOf x s c) [⟨0, 0, f⟩] s from rfl]
  exact runWord_seq (l := []) rfl (by simp)

/-- A word with an opcode not listed for its slot is illegal. -/
theorem wordOk_of_unlisted (ho : opSig o.slot.val o.op.toNat o.f.mod.toNat = none) : wordOk c [o] = false := by
  simp [wordOk, slotOk, ho]

/-- An illegal word raises `ILLEGAL_WORD`. -/
theorem issueWord_illegal (h : Takes x w s c) (ho : holdsOp w o = true) (hw : wordOk c w = false) : issueWord x o s = wordFault x c 0x01 0 s := by
  simp only [issueWord, h.live, h.word, h.picked, h.unheld, ho, h.sound, hw, Option.isNone_none, Bool.and_self, if_true, Bool.false_eq_true, if_false]
  rfl

/-- A legal word issues, or stalls its context: a `WAIT` with its word, a send without. -/
theorem issueWord_legal {hold : Hold} (h : Takes x w s c) (ho : holdsOp w o = true) (hw : wordOk c w = true)
    (hh : wordHold (envOf x s c) w = hold) : issueWord x o s = match (generalizing := false) hold with
      | .wait => stallCtx (envOf x s c) (some w) s
      | .send => stallCtx (envOf x s c) none s
      | .none => runWord (envOf x s c) w s := by
  unfold envOf at hh ⊢
  cases hold <;>
    simp only [issueWord, h.live, h.word, h.picked, h.unheld, ho, h.sound, hw, hh, Option.isNone_none, Bool.and_self, if_true,
      Bool.false_eq_true, if_false]

/-- A command that names an operation the word does not hold changes nothing (log entry 4). -/
theorem issueWord_other (h : Takes x w s c) (ho : holdsOp w o = false) : issueWord x o s = s := by
  simp [issueWord, h.live, h.word, ho]

/-- The word of a `WAIT` whose guard holds waits exactly where its counter is zero. -/
theorem wordHold_wait (hg : Guarded x s c f) :
    wordHold (envOf x s c) [⟨0, 3, f⟩] = .wait ↔ SMap.get 0 (s.tile x.tile.val).sem (f.imm.toNat % 32) = 0 := by
  have hon : (envOf x s c).on f = true := hg
  have ht : (envOf x s c).t = s.tile x.tile.val := rfl
  simp [wordHold, hon, ht]

theorem exec_semaphoreWaitPass_held (hl : (s.tile x.tile.val).ctx x.ctx.val = some c) (hh : c.held = some w)
    (hp : issuePicks x s c = true) (hs : x.parity = false) : exec (.semaphoreWaitPass x) s = .next (runWord (envOf x s c) w s) := by
  change execSemaphoreWaitPass x s = _
  simp only [execSemaphoreWaitPass, hl, hh, hp, hs, if_true, Bool.false_eq_true, if_false]
  rfl

theorem exec_semaphoreWaitPass_idle (hl : (s.tile x.tile.val).ctx x.ctx.val = some c) (h : c.held = none ∨ issuePicks x s c = false) :
    exec (.semaphoreWaitPass x) s = .next s := by
  change execSemaphoreWaitPass x s = _
  cases hh : c.held with
  | none => simp only [execSemaphoreWaitPass, hl, hh]
  | some w =>
    have hp : issuePicks x s c = false := h.resolve_left (by simp [hh])
    simp only [execSemaphoreWaitPass, hl, hh, hp, Bool.false_eq_true, if_false]

/-! The tile of a word that faults (R65). -/

theorem issued_tile (k : CoreSt) : (issued x s k).tile x.tile.val =
    (k.t.setCtx x.ctx.val (some k.c)).updRegs (fun r => { r with issueCnt := satAdd 48 r.issueCnt 1 }) :=
  (State.setTile_tile_at ..).trans (if_pos rfl)

/-- With no fault recorded before, the fault of a word stands in the record of its stopped tile. -/
theorem wordFault_tile {cause detail : Nat} (h : (s.tile x.tile.val).regs.fault.valid = false) :
    ((wordFault x c cause detail s).tile x.tile.val).halted = true ∧ ((wordFault x c cause detail s).tile x.tile.val).ctxs = [] ∧
      ((wordFault x c cause detail s).tile x.tile.val).regs.fault = ⟨cause, true, false, faultInfo c.pc c.entry c.tag detail⟩ := by
  rw [wordFault, State.tileFault_eq_stopTile, (s.stopTile_frame _ _ _ _ _ _ _ rfl).1]
  exact ⟨rfl, rfl, FaultRec.raise_of_clear _ _ h⟩

end

/-! The statements. -/

/-- Settles O9: each operation names its flow, and the flow gives the successor (R49). -/
theorem flowOperationsGoWhereTheyName : Obligations.FlowOperationsGoWhereTheyName := by
  unfold Obligations.FlowOperationsGoWhereTheyName
  refine ⟨fun x slot s c h => congrArg _ (issueOp_nop h), ?unlisted, fun x f s c h => issueOp_done h rfl,
    fun x f s c h hg hb => issueOp_goTo (fl := .jump _) h (if_pos hg) (by rw [successor_jump, if_pos hb]),
    fun x f s c h hg hb => issueOp_lost (fl := .jump _) h (if_pos hg) (by rw [successor_jump, if_neg hb]),
    fun x f s c h hg => issueOp_unguarded h hg rfl,
    fun x f s c h hg h0 hl hb hn => issueOp_goTo h (opLoop_of_count hg h0) (by rw [successor_loop hl hb, if_pos hn]),
    fun x f s c h hg h0 hl hb hn => issueOp_lost h (opLoop_of_count hg h0) (by rw [successor_loop hl hb, if_neg hn]),
    fun x f s c h hg h0 hl hb => issueOp_lost h (opLoop_of_count hg h0) (successor_loop_out hl hb),
    fun x f s c h hg h0 hl => issueOp_lost h (opLoop_of_count hg h0) (successor_loop_deep hl),
    fun x f s c h hg h0 hb => issueOp_goTo h (opLoop_of_zero hg h0) (by rw [successor_skip, if_pos hb]),
    fun x f s c h hg h0 hb => issueOp_lost h (opLoop_of_zero hg h0) (by rw [successor_skip, if_neg hb]),
    fun x f s c h hg => issueOp_unguarded h hg rfl,
    fun x f s c h hg => congrArg _ (issueOp_eob h (if_pos hg)),
    fun x f s c h hg => issueOp_unguarded h hg rfl,
    fun x f s c h hg hy hp => congrArg _ (issueOp_yield_of_hasPoint h hp (opYield_yields hg hy)),
    fun x f s c h b p hg hy hl hs hp => congrArg _ (issueOp_yield_of_no_point h hl hs hp (opYield_yields hg hy)),
    fun x f s c h hn => issueOp_done h (opYield_goes_on hn)⟩
  case unlisted =>
    rintro x slot o s c h rfl ho
    exact congrArg _ (issueWord_illegal h (by simp [holdsOp, ho]) (wordOk_of_unlisted ho))

/-- Settles O10: a `WAIT` that issues has found its counter above zero, and one that has not stalls; a fault of a word stops its tile. -/
theorem waitAndSignalCountTheirSemaphore : Obligations.WaitAndSignalCountTheirSemaphore := by
  unfold Obligations.WaitAndSignalCountTheirSemaphore
  refine ⟨?wait, fun x f s c h hg => issueOp_unguarded h hg rfl, ?waits,
    fun x f s c h hg hn => issueOp_done h ((if_pos hg).trans (if_pos hn)),
    fun x f s c h hg hn => issueOp_faulted h ((if_pos hg).trans (if_neg (Nat.not_lt.2 hn))),
    fun x f s c h hg => issueOp_unguarded h hg rfl,
    fun x s c w => exec_semaphoreWaitPass_held, fun x s c => exec_semaphoreWaitPass_idle,
    fun x f s c h hg => issueOp_faulted h (if_pos hg), ?trap,
    fun x f s c h hg => issueOp_unguarded h hg rfl,
    fun x o w s c => issueWord_illegal, fun x o w s c => issueWord_legal, fun x o w s c => issueWord_other⟩
  case wait =>
    refine fun x f s c h hg => ⟨Nat.pos_of_ne_zero fun h0 => ?_, issueOp_done h (if_pos hg)⟩
    exact absurd (h.waits.symm.trans ((wordHold_wait hg).2 h0)) (by decide)
  case waits =>
    exact fun x f s c h hw hg h0 => congrArg _ (issueWord_legal h (by simp [holdsOp]) hw ((wordHold_wait hg).2 h0))
  case trap =>
    intro x f s c h hf hg hv
    refine ⟨_, issueOp_faulted h (if_pos hg), ?_⟩
    rw [endCheck, if_pos hf]
    exact wordFault_tile (by rw [issued_tile]; exact hv)

end Sys2Proof.Machine
end

section
/-! SUPPORT. A word that faults twice, and with it the statement of chapter 2 on the token operations. -/

namespace Sys2Proof.Machine

/-! A word that faults twice: a `SEND` through an entry that does not inject (R111), as the last word of its block (R49). -/

/-- A `SEND` of 0xFF through rota entry 0, which injects nothing. -/
def strayFields : SlotF := { pen := false, pinv := false, psel := 0, dst := 0, srcA := 0xFF, srcB := 0, srcC := 0, mod := 0, imm := 0 }

/-- A ready context at word 0. -/
def strayCtx : Ctx where
  state := .ready
  entry := 0
  tag := 0
  pc := 0
  loops := []
  s := []
  p := []
  v := []
  vpriv := 0
  sr := 0
  bound := []
  held := none
  yieldPoint := 0

/-- Tile 0 runs that word for that context; its trigger entry 0 is a block of word 0 alone. -/
def strayState : State := State.reset.setTile 0 { Tile.reset with
  imem := [(0, BitVec.ofNat 1024 ((1 + 0xFF * 2 ^ 24) * 2 ^ (128 * 7)))]
  ctxs := [(0, some strayCtx)]
  regs := { TileRegs.reset with state := .running } }

def strayIssue : Issue := { tile := 0, ctx := 0, busy := [], turn := 0, ce5 := 0, ce6 := 0, parity := false }

theorem strayRuns : Runs strayIssue 7 1 strayFields strayState strayCtx where
  live := by decide +kernel
  picked := by decide +kernel
  sound := rfl
  unheld := rfl
  word := by decide +kernel
  legal := by decide +kernel
  waits := by decide +kernel

/-- The sources of the field-book records of a next state, oldest first: 1 for a tile fault, 2 for a canal fault. -/
def bookSources (o : Host.Outcome State Fault Refusal) : List Nat :=
  match o with
  | .next t => t.book.ring.map (fun r => r.src)
  | .fault _ => []
  | .refused _ => []

/-- Refutes O8: a word whose `SEND` does not inject and whose successor lies outside its block raises the tile fault of its end before the canal
fault (R65, R127), where the statement has the canal fault first; the records of the field book tell the order. -/
theorem not_tokenOperationsSendBindAndConfigure : ¬ Obligations.TokenOperationsSendBindAndConfigure := by
  unfold Obligations.TokenOperationsSendBindAndConfigure
  rintro ⟨-, hsend, -⟩
  have hg : Guarded strayIssue strayState strayCtx strayFields := by unfold Guarded; decide +kernel
  have hi : ¬ injectsHere strayIssue strayState strayFields := by unfold injectsHere; decide +kernel
  have h := congrArg bookSources (hsend strayIssue strayFields strayState strayCtx strayRuns hg rfl hi)
  have hl : bookSources (exec (.send strayIssue strayFields) strayState) = [1, 2] := by decide +kernel
  rw [hl] at h
  revert h
  decide +kernel

end Sys2Proof.Machine
end

section
/-! SUPPORT. Loads and stores (R54, R55, R58, R60): the address, the access, what a load meets and what a store writes, and the statement of
chapter 2 on them. -/

namespace Sys2Proof.Machine

/-! The bytes of a store. -/

/-- Byte `r` of a number written out. -/
theorem toLe_getD (n x r : Nat) (hr : r < n) : (toLe n x).getD r 0 = BitVec.ofNat 8 (x / 256 ^ r) := by
  induction n generalizing x r with
  | zero => omega
  | succ n ih =>
    cases r with
    | zero => simp [toLe]
    | succ r =>
      have h := ih (x / 256) r (by omega)
      rw [Nat.div_div_eq_div_mul, ← Nat.pow_succ'] at h
      simpa [toLe] using h

theorem toLe_length (n x : Nat) : (toLe n x).length = n := by
  induction n generalizing x with
  | zero => rfl
  | succ n ih => simp [toLe, ih]

/-- Byte `r` of the 16-byte part `i` of a register is its byte `16 i + r`. -/
theorem toLe_laneAt (v i r : Nat) (hr : r < 16) : (toLe 16 (laneAt 128 v i)).getD r 0 = BitVec.ofNat 8 (laneAt 8 v (16 * i + r)) := by
  rw [toLe_getD _ _ _ hr, show (256 : Nat) = 2 ^ 8 from rfl, ← Nat.pow_mul]
  refine BitVec.eq_of_getLsbD_eq fun n hn => ?_
  simp only [laneAt, BitVec.getLsbD_ofNat, Nat.testBit_div_two_pow, Nat.testBit_mod_two_pow]
  rw [show n + 8 * r + 128 * i = n + 8 * (16 * i + r) by omega]
  simp [hn, show n + 8 * r < 128 by omega]

/-- A run of byte writes writes the bytes it names. -/
theorem Mem.read_foldl_write (m : Mem) (k : Nat) (on : Nat → Bool) (g : Nat → Byte) (js : List Nat) :
    (∀ j ∈ js, on j = true → (js.foldl (fun m j => if on j then m.write (k + j) (g j) else m) m).read (k + j) = g j) ∧
    ∀ a, (∀ j ∈ js, a = k + j → on j = false) → (js.foldl (fun m j => if on j then m.write (k + j) (g j) else m) m).read a = m.read a := by
  induction js generalizing m with
  | nil => exact ⟨fun j hj => absurd hj List.not_mem_nil, fun a _ => rfl⟩
  | cons i js ih =>
    obtain ⟨hw, hf⟩ := ih (if on i then m.write (k + i) (g i) else m)
    refine ⟨fun j hj ho => ?_, fun a ha => ?_⟩
    · by_cases hm : j ∈ js
      · exact hw j hm ho
      · have hji : j = i := (List.mem_cons.1 hj).resolve_right hm
        subst hji
        refine (hf _ fun y hy he => absurd (by omega : j = y) fun e => hm (e ▸ hy)).trans ?_
        rw [if_pos ho]
        exact Mem.read_write_same _ _ _
    · refine (hf a fun j hj => ha j (List.mem_cons_of_mem _ hj)).trans ?_
      split
      · next ho => exact Mem.read_write_other _ _ _ _ fun e => Bool.false_ne_true ((ha i List.mem_cons_self e).symm.trans ho)
      · rfl

/-- A 16-byte word of a V store writes its enabled bytes. -/
theorem read_storeWord (m : Mem) (k v i : Nat) (on : Nat → Bool) :
    (∀ j, j / 16 = i → on j = true → (storeWord m k v on i).read (k + j) = BitVec.ofNat 8 (laneAt 8 v j)) ∧
    ∀ a, (∀ j, j / 16 = i → a = k + j → on j = false) → (storeWord m k v on i).read a = m.read a := by
  have hmem : ∀ j, j ∈ (List.range 16).map (fun j => 16 * i + j) ↔ j / 16 = i := by
    intro j
    simp only [List.mem_map, List.mem_range]
    exact ⟨fun ⟨r, hr, e⟩ => by omega, fun h => ⟨j % 16, by omega, by omega⟩⟩
  unfold storeWord
  dsimp only
  split
  · next hall =>
    have hon : ∀ j, j / 16 = i → on j = true := fun j hj => List.all_eq_true.1 hall j ((hmem j).2 hj)
    refine ⟨fun j hj _ => ?_, fun a ha => Mem.read_store_other _ _ _ _ ?_⟩
    · have h := Mem.read_store_same m (k + 16 * i) (j % 16) (toLe 16 (laneAt 128 v i)) (by rw [toLe_length]; omega)
      rw [toLe_laneAt _ _ _ (by omega), show 16 * i + j % 16 = j by omega, show k + 16 * i + j % 16 = k + j by omega] at h
      exact h
    · rw [toLe_length]
      by_contra hc
      have hj : (a - k) / 16 = i := by omega
      exact Bool.false_ne_true ((ha (a - k) hj (by omega)).symm.trans (hon _ hj))
  · obtain ⟨hw, hf⟩ := Mem.read_foldl_write m k on (fun j => BitVec.ofNat 8 (laneAt 8 v j)) ((List.range 16).map (fun j => 16 * i + j))
    exact ⟨fun j hj => hw j ((hmem j).2 hj), fun a ha => hf a fun j hj => ha j ((hmem j).1 hj)⟩

/-- A V store, word by word, writes its enabled bytes. -/
theorem read_foldl_storeWord (m : Mem) (k v : Nat) (on : Nat → Bool) (l : List Nat) :
    (∀ j, j / 16 ∈ l → on j = true → (l.foldl (fun m i => storeWord m k v on i) m).read (k + j) = BitVec.ofNat 8 (laneAt 8 v j)) ∧
    ∀ a, (∀ j, j / 16 ∈ l → a = k + j → on j = false) → (l.foldl (fun m i => storeWord m k v on i) m).read a = m.read a := by
  induction l generalizing m with
  | nil => exact ⟨fun j hj => absurd hj List.not_mem_nil, fun a _ => rfl⟩
  | cons i l ih =>
    obtain ⟨hw, hf⟩ := ih (storeWord m k v on i)
    obtain ⟨hw1, hf1⟩ := read_storeWord m k v i on
    refine ⟨fun j hj ho => ?_, fun a ha => ?_⟩
    · by_cases hm : j / 16 ∈ l
      · exact hw j hm ho
      · refine (hf _ fun y hy he => absurd hy ?_).trans (hw1 j ((List.mem_cons.1 hj).resolve_right hm) ho)
        rwa [← show j = y by omega]
    · exact (hf a fun j hj => ha j (List.mem_cons_of_mem _ hj)).trans (hf1 a fun j hj => ha j (hj ▸ List.mem_cons_self))

section
variable {x : Issue} {hi : Bool} {slot : Fin 8} {op : BitVec 8} {f : SlotF} {s s' : State} {c : Ctx} {k : CoreSt}

/-! Words that change more than their tile. -/

theorem endCheck_of_tile (ht : s'.tile x.tile.val = s.tile x.tile.val) (t : State) : endCheck x s' c t = endCheck x s c t := by
  unfold endCheck Follows inBlock trigOfCtx
  rw [ht]

/-- A word of one slot whose operation changes the state but not the tile, and goes on. -/
theorem issueOp_done_of_tile (h : Runs x slot op f s c) (ht : s'.tile x.tile.val = s.tile x.tile.val)
    (hr : runSlot ⟨slot, op, f⟩ (envOf x s c) f (unwritten x s c) = ⟨s', k, [], [], .seq⟩) (hop : op ≠ 0 := by decide) :
    Host.Outcome.next (issueOp x slot op f s) = done x s' c k := by
  rw [issueOp_onward h hr hop, done, wentOn, endCheck_of_tile ht]

/-- One that also raises a tile fault. -/
theorem issueOp_faulted_of_tile {cause detail : Nat} (h : Runs x slot op f s c) (ht : s'.tile x.tile.val = s.tile x.tile.val)
    (hr : runSlot ⟨slot, op, f⟩ (envOf x s c) f (unwritten x s c) = ⟨s', coreOf x s c, [(cause, detail)], [], .seq⟩) (hop : op ≠ 0 := by decide)
    (hc : cause ≠ 0x0E := by decide) : Host.Outcome.next (issueOp x slot op f s) = faulted x s' c cause detail := by
  rw [issueOp_alone hop h, runWord_seq hr (by simpa using hc), faulted, endCheck_of_tile ht, show coreOf x s' c = coreOf x s c by rw [coreOf, ht]; rfl]
  rfl

/-! The address and the access (R54, R58). -/

theorem addrOf_eq (x : Issue) (s : State) (c : Ctx) (f : SlotF) : addrOf x s c f = f.imm.toNat % 2 ^ 22 +
    (if f.srcA ≠ 0xFF then (sOf x s c f.srcA).toNat * 2 ^ (f.mod.toNat % 64) else 0) + (if f.srcB ≠ 0xFF then (sOf x s c f.srcB).toNat else 0) := by
  have h (r : BitVec 8) : (if r ≠ 0xFF then (sOf x s c r).toNat else 0) = (sOf x s c r).toNat := by
    split
    · rfl
    · next h => rw [not_not.1 h]; rfl
  rw [h, ← ite_zero_mul, h]
  rfl

/-- What slot 5 or, with `hi`, slot 6 reads: the single-bit errors are those of the slot's own load. -/
def portEnv (x : Issue) (hi : Bool) (s : State) (c : Ctx) : Env := { envOf x s c with ce := if hi then x.ce6.val else x.ce5.val }

theorem runSlot_port (x : Issue) (hi : Bool) (op : BitVec 8) (f : SlotF) (s : State) (c : Ctx) :
    runSlot ⟨if hi then 6 else 5, op, f⟩ (envOf x s c) = run56 op.toNat (portEnv x hi s c) := by
  cases hi <;> rfl

section
variable {al n key : Nat} {w : Work} {ok : Work → Nat → Work}

theorem Work.access_misaligned (hi : Bool) (ha : addrOf x s c f % al ≠ 0) :
    w.access (portEnv x hi s c) f al n ok = w.fault 0x05 (addrOf x s c f) :=
  if_pos ha

theorem Work.access_outside (hi : Bool) (ha : addrOf x s c f % al = 0) (hn : (s.tile x.tile.val).regs.fwinLimit < addrOf x s c f + n) :
    w.access (portEnv x hi s c) f al n ok = w.fault 0x04 (addrOf x s c f) :=
  (if_neg (not_not_intro ha)).trans (if_pos hn)

theorem Work.access_reaches (hi : Bool) (h : reaches x s c f al n key) : w.access (portEnv x hi s c) f al n ok = ok w key := by
  obtain ⟨ha, hn, rfl⟩ := h
  exact (if_neg (not_not_intro ha)).trans (if_neg (Nat.not_lt.2 hn))

end

/-! Loads (R60, Table 6-8). -/

section
variable {al n key u : Nat} {put : Work → Nat → Work}

/-- A corrected word is counted in the memory block of a quadrant only. -/
theorem State.countFieldCe_eq (s : State) (q n : Nat) : ∃ m, s.countFieldCe q n = { s with quads := m } := by
  unfold State.countFieldCe
  split
  · exact ⟨s.quads, rfl⟩
  · exact ⟨_, rfl⟩

theorem corrected_tile (x : Issue) (hi : Bool) (n : Nat) (s : State) (g : Nat) : (corrected x hi n s).tile g = s.tile g := by
  obtain ⟨m, h⟩ := s.countFieldCe_eq (tileQuad x.tile.val) (min (if hi then x.ce6.val else x.ce5.val) ((n + 15) / 16))
  rw [corrected, h]
  rfl

theorem corrected_plot (x : Issue) (hi : Bool) (n : Nat) (s : State) (b : Nat) : (corrected x hi n s).plot b = s.plot b := by
  obtain ⟨m, h⟩ := s.countFieldCe_eq (tileQuad x.tile.val) (min (if hi then x.ce6.val else x.ce5.val) ((n + 15) / 16))
  rw [corrected, h]
  rfl

/-- A load that meets no uncorrectable word takes the bytes. -/
theorem Work.load_clean (hr : reaches x s c f al n key) (hu : firstUe 16 s.mem.ueField key n = none) :
    (unwritten x s c).load (portEnv x hi s c) f al n put = put { unwritten x s c with s := corrected x hi n s } (leNat (s.mem.readN key n)) := by
  have hu' : firstUe 16 (portEnv x hi s c).m.ueField key n = none := hu
  unfold Work.load
  rw [Work.access_reaches hi hr]
  dsimp only
  rw [hu']
  rfl

theorem Work.writeV_port (x : Issue) (hi : Bool) (s s' : State) (c : Ctx) (f : SlotF) (v : Nat) :
    ({ unwritten x s c with s := s' }).writeV (portEnv x hi s c) ((portEnv x hi s c).mask f) f.dst v = ⟨s', setV x s c f v, [], [], .seq⟩ :=
  rfl

theorem Work.writeS_port (x : Issue) (s s' : State) (c : Ctx) (r : BitVec 8) (v : BitVec 64) :
    ({ unwritten x s c with s := s' }).writeS r v = ⟨s', (coreOf x s c).writeS r v, [], [], .seq⟩ :=
  rfl

/-- An uncorrectable word is counted; on a tile of no plot it raises `FIELD_UE`. -/
theorem Work.load_damaged_alone (hr : reaches x s c f al n key) (hu : firstUe 16 s.mem.ueField key n = some u)
    (hl : (s.tile x.tile.val).lead = none) : (unwritten x s c).load (portEnv x hi s c) f al n put =
      ({ unwritten x s c with s := (corrected x hi n s).countFieldUe u }).fault 0x06 (addrOf x s c f) := by
  have hu' : firstUe 16 (portEnv x hi s c).m.ueField key n = some u := hu
  have hl' : (portEnv x hi s c).t.lead = none := hl
  simp only [Work.load, Work.access_reaches hi hr, hu', hl']
  rfl

/-- On a tile of a plot, PRIVATE data of a request of the running task mask that request; WEIGHT data have the batch run again. -/
theorem Work.load_damaged {b : Nat} {p : Plot} (hr : reaches x s c f al n key) (hu : firstUe 16 s.mem.ueField key n = some u)
    (hl : (s.tile x.tile.val).lead = some b) (hp : s.plot b = some p) : (unwritten x s c).load (portEnv x hi s c) f al n put =
      if (s.mem.tag u).cls = 2 ∧ p.hasReq (s.mem.tag u).req = true then
        { unwritten x s c with s := ((corrected x hi n s).countFieldUe u).setPlot b (p.maskReq (s.mem.tag u).req 0x0404) }
      else ({ unwritten x s c with s := if (s.mem.tag u).cls = 1 ∧ p.state ≠ PlotState.forcing then
          ((corrected x hi n s).countFieldUe u).setPlot b { p with forceRetry := true }
        else (corrected x hi n s).countFieldUe u }).fault 0x06 (addrOf x s c f) := by
  have hu' : firstUe 16 (portEnv x hi s c).m.ueField key n = some u := hu
  have hl' : (portEnv x hi s c).t.lead = some b := hl
  have hp' : State.plot (State.countFieldUe (State.countFieldCe s (tileQuad (portEnv x hi s c).g) (min (portEnv x hi s c).ce ((n + 15) / 16))) u) b = some p :=
    (corrected_plot x hi n s b).trans hp
  simp only [Work.load, Work.access_reaches hi hr, hu', hl', hp']
  by_cases hm : (s.mem.tag u).cls = 2 ∧ p.hasReq (s.mem.tag u).req = true
  · rw [if_pos hm]
    exact if_pos hm
  · rw [if_neg hm]
    refine (if_neg hm).trans ?_
    by_cases hw : (s.mem.tag u).cls = 1 ∧ p.state ≠ .forcing
    · rw [if_pos hw]
      exact if_pos hw
    · rw [if_neg hw]
      exact if_neg hw

/-! The words of slots 5 and 6. -/

theorem opLd_load (x : Issue) (hi : Bool) (f : SlotF) (s : State) (c : Ctx) (w : Work) : run56 (1 : BitVec 8).toNat (portEnv x hi s c) f w =
    w.load (portEnv x hi s c) f 32 256 (fun w v => w.writeV (portEnv x hi s c) ((portEnv x hi s c).mask f) f.dst v) :=
  rfl

theorem opLds_load (hg : Guarded x s c f) (w : Work) : run56 (2 : BitVec 8).toNat (portEnv x hi s c) f w =
    w.load (portEnv x hi s c) f 8 8 (fun w v => w.writeS f.dst (BitVec.ofNat 64 v)) :=
  if_pos hg

/-- A load is an access. -/
theorem Work.load_access (w : Work) (e : Env) (f : SlotF) (al n : Nat) (put : Work → Nat → Work) : ∃ ok, w.load e f al n put = w.access e f al n ok := by
  unfold Work.load
  exact ⟨_, rfl⟩

theorem opLd_access (x : Issue) (hi : Bool) (f : SlotF) (s : State) (c : Ctx) (w : Work) :
    ∃ ok, run56 (1 : BitVec 8).toNat (portEnv x hi s c) f w = w.access (portEnv x hi s c) f 32 256 ok := by
  rw [opLd_load]
  exact Work.load_access ..

theorem opLds_access (hg : Guarded x s c f) (w : Work) :
    ∃ ok, run56 (2 : BitVec 8).toNat (portEnv x hi s c) f w = w.access (portEnv x hi s c) f 8 8 ok := by
  rw [opLds_load hg]
  exact Work.load_access ..

theorem opSts_access (hg : Guarded x s c f) (w : Work) : ∃ ok, opSts (portEnv x hi s c) f w = w.access (portEnv x hi s c) f 8 8 ok :=
  ⟨_, if_pos hg⟩

theorem opSt_access (e : Env) (f : SlotF) (w : Work) : ∃ ok, opSt e f w = w.access e f 32 256 ok := by
  unfold opSt
  exact ⟨_, rfl⟩

theorem issueOp_misaligned (h : Runs x (if hi then 6 else 5) op f s c)
    (ha : addrOf x s c f % al ≠ 0)
    (hr : ∃ ok, run56 op.toNat (portEnv x hi s c) f (unwritten x s c) = (unwritten x s c).access (portEnv x hi s c) f al n ok) (hop : op ≠ 0 := by decide) :
    Host.Outcome.next (issueOp x (if hi then 6 else 5) op f s) = faulted x s c 0x05 (addrOf x s c f) :=
  issueOp_faulted h (by obtain ⟨_, hr⟩ := hr; rw [runSlot_port, hr, Work.access_misaligned hi ha]) hop

theorem issueOp_outside (h : Runs x (if hi then 6 else 5) op f s c)
    (ha : addrOf x s c f % al = 0) (hn : (s.tile x.tile.val).regs.fwinLimit < addrOf x s c f + n)
    (hr : ∃ ok, run56 op.toNat (portEnv x hi s c) f (unwritten x s c) = (unwritten x s c).access (portEnv x hi s c) f al n ok) (hop : op ≠ 0 := by decide) :
    Host.Outcome.next (issueOp x (if hi then 6 else 5) op f s) = faulted x s c 0x04 (addrOf x s c f) :=
  issueOp_faulted h (by obtain ⟨_, hr⟩ := hr; rw [runSlot_port, hr, Work.access_outside hi ha hn]) hop

section
variable (h : Runs x (if hi then 6 else 5) op f s c)
  (hr : run56 op.toNat (portEnv x hi s c) f (unwritten x s c) = (unwritten x s c).load (portEnv x hi s c) f al n put)
  (ha : reaches x s c f al n key)
include h hr ha

theorem issueOp_load_clean (hu : firstUe 16 s.mem.ueField key n = none)
    (hp : put { unwritten x s c with s := corrected x hi n s } (leNat (s.mem.readN key n)) = ⟨corrected x hi n s, k, [], [], .seq⟩)
    (hop : op ≠ 0 := by decide) : Host.Outcome.next (issueOp x (if hi then 6 else 5) op f s) = done x (corrected x hi n s) c k :=
  issueOp_done_of_tile h (corrected_tile ..) (by rw [runSlot_port, hr, Work.load_clean ha hu, hp]) hop

theorem issueOp_load_damaged_alone (hu : firstUe 16 s.mem.ueField key n = some u) (hl : (s.tile x.tile.val).lead = none) (hop : op ≠ 0 := by decide) :
    Host.Outcome.next (issueOp x (if hi then 6 else 5) op f s) = faulted x ((corrected x hi n s).countFieldUe u) c 0x06 (addrOf x s c f) :=
  issueOp_faulted_of_tile h (corrected_tile ..) (by rw [runSlot_port, hr, Work.load_damaged_alone ha hu hl]; rfl) hop

theorem issueOp_load_masks {b : Nat} {p : Plot} (hu : firstUe 16 s.mem.ueField key n = some u) (hl : (s.tile x.tile.val).lead = some b)
    (hp : s.plot b = some p) (hc : (s.mem.tag u).cls = 2) (hq : p.hasReq (s.mem.tag u).req = true) (hop : op ≠ 0 := by decide) :
    Host.Outcome.next (issueOp x (if hi then 6 else 5) op f s) =
      done x (((corrected x hi n s).countFieldUe u).setPlot b (p.maskReq (s.mem.tag u).req 0x0404)) c (coreOf x s c) :=
  issueOp_done_of_tile h (corrected_tile ..) (by rw [runSlot_port, hr, Work.load_damaged ha hu hl hp, if_pos ⟨hc, hq⟩]) hop

theorem issueOp_load_faults {b : Nat} {p : Plot} (hu : firstUe 16 s.mem.ueField key n = some u) (hl : (s.tile x.tile.val).lead = some b)
    (hp : s.plot b = some p) (hm : ¬ ((s.mem.tag u).cls = 2 ∧ p.hasReq (s.mem.tag u).req = true)) (hop : op ≠ 0 := by decide) :
    Host.Outcome.next (issueOp x (if hi then 6 else 5) op f s) =
      faulted x (if (s.mem.tag u).cls = 1 ∧ p.state ≠ .forcing then ((corrected x hi n s).countFieldUe u).setPlot b { p with forceRetry := true }
        else (corrected x hi n s).countFieldUe u) c 0x06 (addrOf x s c f) := by
  refine issueOp_faulted_of_tile h ?_ (by rw [runSlot_port, hr, Work.load_damaged ha hu hl hp, if_neg hm]; rfl) hop
  split <;> exact corrected_tile ..

end

/-! Stores. -/

/-- A V store writes the enabled bytes of its register and no others (R55). -/
theorem opSt_writes (w : Work) (hr : reaches x s c f 32 256 key) : ∃ m,
    opSt (portEnv x hi s c) f { w with s := s } = { w with s := { s with mem := m } } ∧
    (∀ j, j < 256 → storesByte x s c f j → m.read (key + j) = BitVec.ofNat 8 (laneAt 8 (vOf x s c f.srcC).toNat j)) ∧
    ∀ a, ¬ (key ≤ a ∧ a < key + 256 ∧ storesByte x s c f (a - key)) → m.read a = s.mem.read a := by
  have hon : ∀ j, j < 256 → ((((portEnv x hi s c).mask f).getLsbD (j / 4) &&
      decide (j < if f.dst = 0xFF then 256 else min 256 ((portEnv x hi s c).rs f.dst).toNat)) = true ↔ storesByte x s c f j) := by
    intro j hj
    rw [Bool.and_eq_true, decide_eq_true_eq]
    refine and_congr Iff.rfl ?_
    split
    · next h => exact iff_of_true hj fun hn => absurd h hn
    · next h => exact ⟨fun hm _ => (lt_min_iff.1 hm).2, fun hm => lt_min hj (hm h)⟩
  obtain ⟨hw, hf⟩ := read_foldl_storeWord s.mem key ((portEnv x hi s c).rv f.srcC) (fun j => ((portEnv x hi s c).mask f).getLsbD (j / 4) &&
      decide (j < if f.dst = 0xFF then 256 else min 256 ((portEnv x hi s c).rs f.dst).toNat)) (List.range 16)
  refine ⟨_, Work.access_reaches hi hr, fun j hj hs => hw j (List.mem_range.2 (by omega)) ((hon j hj).2 hs), fun a ha => hf a fun j hj he => ?_⟩
  have hj' : j < 256 := by have := List.mem_range.1 hj; omega
  refine Bool.eq_false_iff.2 fun h => ha ⟨by omega, by omega, ?_⟩
  rw [show a - key = j by omega]
  exact (hon j hj').1 h

end

end

/-- Settles O7: a load puts what its clean access finds or ends as its damaged one does, a store writes its enabled bytes, and an access that its
address forbids faults. -/
theorem loadsAndStoresMoveTheirBytes : Obligations.LoadsAndStoresMoveTheirBytes := by
  unfold Obligations.LoadsAndStoresMoveTheirBytes
  refine ⟨addrOf_eq, fun x hi f s c k h ha hu => issueOp_load_clean h (opLd_load ..) ha hu (Work.writeV_port ..),
    fun x hi f s c k u h ha hu hl => issueOp_load_damaged_alone h (opLd_load ..) ha hu hl,
    fun x hi f s c k u b p h ha hu hl hp hc hq => issueOp_load_masks h (opLd_load ..) ha hu hl hp hc hq,
    fun x hi f s c k u b p h ha hu hl hp hm => issueOp_load_faults h (opLd_load ..) ha hu hl hp hm,
    fun x hi f s c k h hg ha hu => issueOp_load_clean h (opLds_load hg _) ha hu (Work.writeS_port ..),
    fun x hi f s c k u h hg ha hu hl => issueOp_load_damaged_alone h (opLds_load hg _) ha hu hl,
    fun x hi f s c k u b p h hg ha hu hl hp hc hq => issueOp_load_masks h (opLds_load hg _) ha hu hl hp hc hq,
    fun x hi f s c k u b p h hg ha hu hl hp hm => issueOp_load_faults h (opLds_load hg _) ha hu hl hp hm, ?st, ?sts,
    fun x hi f s c h hg => issueOp_done h (by rw [runSlot_port]; exact if_neg hg),
    fun x hi f s c h hg => issueOp_done h (by rw [runSlot_port]; exact if_neg hg),
    fun x hi f s c h ha => issueOp_misaligned h ha (opLd_access ..), fun x hi f s c h ha hn => issueOp_outside h ha hn (opLd_access ..),
    fun x hi f s c h hg ha => issueOp_misaligned h ha (opLds_access hg _), fun x hi f s c h hg ha hn => issueOp_outside h ha hn (opLds_access hg _),
    fun x hi f s c h ha => issueOp_misaligned h ha (opSt_access ..), fun x hi f s c h ha hn => issueOp_outside h ha hn (opSt_access ..),
    fun x hi f s c h hg ha => issueOp_misaligned h ha (opSts_access hg _), fun x hi f s c h hg ha hn => issueOp_outside h ha hn (opSts_access hg _)⟩
  case st =>
    intro x hi f s c k h ha
    obtain ⟨m, hm, hw, hf⟩ := opSt_writes (hi := hi) (unwritten x s c) ha
    exact ⟨m, issueOp_done_of_tile h rfl (by rw [runSlot_port]; exact hm), hw, hf⟩
  case sts =>
    intro x hi f s c k h ha hg
    refine issueOp_done_of_tile h rfl ?_
    rw [runSlot_port]
    exact (if_pos hg).trans (Work.access_reaches hi ha)

end Sys2Proof.Machine
end

section
/-! SUPPORT. The trigger unit, retirement, yield and retest of a tile (R39 to R43, R61, R62, R66, R69), with the statement of chapter 2 on them. -/

namespace Sys2Proof.Machine

/-! Contexts of a tile. -/

theorem Tile.setCtx_ctx_at (t : Tile) (k j : Nat) (c : Option Ctx) : (t.setCtx k c).ctx j = if k = j then c else t.ctx j :=
  SMap.get_set none t.ctxs k j c

section
variable {s : State} {g k : Nat} {f : Firing}

/-! Firing (R41). -/

/-- Binding tokens marks entries of the queues only. -/
theorem Tile.bindToks_eq (t : Tile) (l : List BoundTok) : ∃ q, t.bindToks l = { t with queues := q } := by
  induction l generalizing t with
  | nil => exact ⟨t.queues, rfl⟩
  | cons b l ih =>
    obtain ⟨q, hq⟩ := ih (if b.sticky then t
      else t.setQueue b.queue ((t.queue b.queue).map (fun q => if q.serial = b.serial then { q with bound := true } else q)))
    refine ⟨q, hq.trans ?_⟩
    split <;> rfl

/-- A cycle of the trigger unit counts a wait where a satisfied entry lacks its resources (R32). -/
def State.countWait (s : State) (g : Nat) : State :=
  if (satisfied (s.tile g)).any (fun f => !(s.tile g).hasRoom ((s.tile g).trigAt f.entry)) then
    s.setTile g ((s.tile g).updRegs (fun r => { r with waitCnt := satAdd 48 r.waitCnt 1 }))
  else s

theorem State.countWait_frame (s : State) (g : Nat) : (s.countWait g).tile g = waited (s.tile g) ∧
    (∀ i, i ≠ g → (s.countWait g).tile i = s.tile i) ∧ s.countWait g = { s with tiles := (s.countWait g).tiles } := by
  unfold State.countWait waited
  split
  · exact ⟨(s.setTile_tile_at ..).trans (if_pos rfl), fun i hi => (s.setTile_tile_at ..).trans (if_neg hi.symm), rfl⟩
  · exact ⟨rfl, fun _ _ => rfl, rfl⟩

theorem waited_ctxs (t : Tile) : (waited t).ctxs = t.ctxs := by
  unfold waited
  split <;> rfl

/-- The banks of the entry, taken one by one. -/
theorem firedTile_eq (s : State) (g k : Nat) (f : Firing) : firedTile s g f k =
    (let e := (s.tile g).trigAt f.entry
     let t := (((s.countWait g).tile g).bindToks f.toks).setCtx k (some (newCtx (s.tile g) f e (s.seedFor g f)))
     { t with
       a0 := if e.own0 then { t.a0 with owner := some k } else t.a0
       a1 := if e.own1 then { t.a1 with owner := some k } else t.a1
       regs := { t.regs with fireCnt := satAdd 48 t.regs.fireCnt 1 } }) := by
  simp only [firedTile, (s.countWait_frame g).1]
  cases ((s.tile g).trigAt f.entry).own0 <;> cases ((s.tile g).trigAt f.entry).own1 <;> rfl

/-- A cycle of a tile that may fire and whose entries all fit their rules. -/
theorem fireTile_of_fit (hm : (s.tile g).mayFire = true) (hb : (s.tile g).badEntry = none) : fireTile g false s =
    (nextFiring (s.tile g)).elim (s.countWait g) (fun f =>
      if decide (((s.tile g).trigAt f.entry).rule = 0 ∨ ((s.tile g).trigAt f.entry).rule = 2) &&
          (s.tile g).live.any (fun kc => kc.2.entry == f.entry && kc.2.tag == f.tag) then
        (s.countWait g).tileFault g 0x08 (faultInfo ((s.tile g).trigAt f.entry).start f.entry f.tag 0) 0x0403
      else (s.tile g).freeSlot.elim (s.countWait g) (fun k => (s.countWait g).setTile g (firedTile s g f k))) := by
  simp only [fireTile, hm, hb, Bool.not_true, Bool.false_eq_true, if_false]
  change (match nextFiring (s.tile g) with | none => s.countWait g | some f => _) = _
  cases nextFiring (s.tile g) with
  | none => rfl
  | some f =>
    refine if_congr Iff.rfl rfl ?_
    cases (s.tile g).freeSlot with
    | none => rfl
    | some k =>
      exact congrArg ((s.countWait g).setTile g) (firedTile_eq s g k f).symm

theorem repeated_iff (t : Tile) (f : Firing) : (decide ((t.trigAt f.entry).rule = 0 ∨ (t.trigAt f.entry).rule = 2) &&
    t.live.any (fun kc => kc.2.entry == f.entry && kc.2.tag == f.tag)) = true ↔ repeated t f := by
  rw [Bool.and_eq_true, decide_eq_true_eq]
  rfl

theorem fireTile_of_fires (h : fires s g f k) : fireTile g false s = (s.countWait g).setTile g (firedTile s g f k) := by
  obtain ⟨hm, hb, hf, hr, hk⟩ := h
  rw [fireTile_of_fit hm hb, hf, hk]
  exact if_neg (mt (repeated_iff _ f).1 hr)

theorem fireTile_of_repeated (hm : (s.tile g).mayFire = true) (hb : (s.tile g).badEntry = none) (hf : nextFiring (s.tile g) = some f)
    (hr : repeated (s.tile g) f) : fireTile g false s =
      (s.countWait g).tileFault g 0x08 (faultInfo ((s.tile g).trigAt f.entry).start f.entry f.tag 0) 0x0403 := by
  rw [fireTile_of_fit hm hb, hf]
  exact if_pos ((repeated_iff _ f).2 hr)

theorem fireTile_of_no_room (hm : (s.tile g).mayFire = true) (hb : (s.tile g).badEntry = none)
    (h : ∀ f, f ∈ satisfied (s.tile g) → (s.tile g).hasRoom ((s.tile g).trigAt f.entry) = false) : fireTile g false s = s.countWait g := by
  have hn : nextFiring (s.tile g) = none := List.find?_eq_none.2 (fun f hf => by rw [h f hf]; decide)
  rw [fireTile_of_fit hm hb, hn]
  rfl

theorem fireTile_of_badEntry {i : Nat} (hm : (s.tile g).mayFire = true) (hb : (s.tile g).badEntry = some i) :
    fireTile g false s = s.tileFault g 0x01 (faultInfo 0 i 0 0) 0x0403 := by
  simp only [fireTile, hm, hb, Bool.not_true, Bool.false_eq_true, if_false]

theorem fireTile_parity (hm : (s.tile g).mayFire = true) : fireTile g true s = s.tileFault g 0x0F (faultInfo 0 0 0 0) 0x0403 := by
  simp only [fireTile, hm, Bool.not_true, Bool.false_eq_true, if_false, if_true]

theorem fireTile_of_not_mayFire (parity : Bool) (hm : (s.tile g).mayFire = false) : fireTile g parity s = s := by
  simp only [fireTile, hm, Bool.not_false, if_true]

/-- The new context stands in its slot, the others are as they were. -/
theorem firedTile_ctx (s : State) (g k j : Nat) (f : Firing) : (firedTile s g f k).ctx j =
    if k = j then some (newCtx (s.tile g) f ((s.tile g).trigAt f.entry) (s.seedFor g f)) else (s.tile g).ctx j := by
  obtain ⟨q, hq⟩ := (waited (s.tile g)).bindToks_eq f.toks
  have hctx : ∀ j, (firedTile s g f k).ctx j = (((waited (s.tile g)).bindToks f.toks).setCtx k
      (some (newCtx (s.tile g) f ((s.tile g).trigAt f.entry) (s.seedFor g f)))).ctx j := fun _ => rfl
  rw [hctx, Tile.setCtx_ctx_at, hq]
  simp only [Tile.ctx, waited_ctxs]

end

/-! Retirement (R42, R43). -/

section
variable (t : Tile) (k : Nat)

/-- Keeping some tokens of a queue changes the queues alone, and only that one. -/
theorem Tile.setQueue_filter (j : Nat) (p : QEntry → Bool) : ∃ q, t.setQueue j ((t.queue j).filter p) = { t with queues := q } ∧
    ∀ i y, y ∈ SMap.get [] q i → y ∈ t.queue i ∧ (j = i → p y = true) := by
  refine ⟨_, rfl, fun i y hy => ?_⟩
  rw [SMap.get_set] at hy
  split at hy
  · rename_i hji
    exact hji ▸ ⟨(List.mem_filter.1 hy).1, fun _ => (List.mem_filter.1 hy).2⟩
  · rename_i hji
    exact ⟨hy, fun h => absurd h hji⟩

/-- A freed token leaves its queue; a freed sticky one may stay there. -/
theorem Tile.freeTok_eq (b : BoundTok) : ∃ q, t.freeToks [b] = { t with queues := q } ∧
    ∀ i y, y ∈ SMap.get [] q i → y ∈ t.queue i ∧ (b.sticky = false → b.queue = i → y.serial ≠ b.serial) := by
  cases hb : b.sticky with
  | true =>
    have hf : t.freeToks [b] = t.freeSticky b.queue := by simp only [Tile.freeToks, List.foldl, hb, if_true]
    rw [hf, Tile.freeSticky]
    split
    · exact ⟨t.queues, rfl, fun i y hy => ⟨hy, fun h => absurd h (by decide)⟩⟩
    · obtain ⟨q, hq, hy⟩ := t.setQueue_filter b.queue _
      exact ⟨q, hq, fun i y h => ⟨(hy i y h).1, fun h => absurd h (by decide)⟩⟩
  | false =>
    have hf : t.freeToks [b] = t.setQueue b.queue ((t.queue b.queue).filter (fun q => q.serial != b.serial)) := by
      simp only [Tile.freeToks, List.foldl, hb, Bool.false_eq_true, if_false]
    obtain ⟨q, hq, hy⟩ := t.setQueue_filter b.queue (fun q => q.serial != b.serial)
    exact ⟨q, hf.trans hq, fun i y h => ⟨(hy i y h).1, fun _ hj => bne_iff_ne.1 ((hy i y h).2 hj)⟩⟩

/-- Freeing the tokens of a context changes the queues alone: none gains a token, and no freed token is left. -/
theorem Tile.freeToks_eq (l : List BoundTok) : ∃ q, t.freeToks l = { t with queues := q } ∧
    ∀ i y, y ∈ SMap.get [] q i → y ∈ t.queue i ∧ ∀ b ∈ l, b.sticky = false → b.queue = i → y.serial ≠ b.serial := by
  induction l generalizing t with
  | nil => exact ⟨t.queues, rfl, fun i y h => ⟨h, fun b hb => absurd hb List.not_mem_nil⟩⟩
  | cons b l ih =>
    obtain ⟨q1, hq1, h1⟩ := t.freeTok_eq b
    obtain ⟨q, hq, h⟩ := ih { t with queues := q1 }
    have hcons : t.freeToks (b :: l) = (t.freeToks [b]).freeToks l := rfl
    refine ⟨q, by rw [hcons, hq1, hq], fun i y hy => ⟨(h1 i y (h i y hy).1).1, fun x hx => ?_⟩⟩
    rcases List.mem_cons.1 hx with rfl | hx
    · exact (h1 i y (h i y hy).1).2
    · exact (h i y hy).2 x hx

/-- Marking tags retired changes the marks alone. -/
theorem Tile.markRetired_foldl_eq (i : Nat) (tags : List Nat) :
    ∃ r, tags.foldl (fun t g => t.markRetired i g) t = { t with retired := r } := by
  induction tags generalizing t with
  | nil => exact ⟨t.retired, rfl⟩
  | cons g tags ih =>
    obtain ⟨r, hr⟩ := ih (t.markRetired i g)
    refine ⟨r, hr.trans ?_⟩
    unfold Tile.markRetired
    split <;> rfl

/-- A tile whose `OLD` of an entry moves past the mark it stands at, which is cleared. -/
def Tile.passOld (t : Tile) (i : Nat) : Tile :=
  { t with
    retired := SMap.set false t.retired (512 * i + SMap.get 0 t.old i) false
    old := SMap.set 0 t.old i ((SMap.get 0 t.old i + 1) % 512) }

theorem Tile.advanceOld_succ (i n : Nat) : Tile.advanceOld i (n + 1) t =
    if SMap.get false t.retired (512 * i + SMap.get 0 t.old i) then Tile.advanceOld i n (t.passOld i) else t := rfl

/-- `OLD` moves past retired tags only: nothing but `OLD` and the marks changes. -/
theorem Tile.advanceOld_eq (i n : Nat) : ∃ r o, Tile.advanceOld i n t = { t with retired := r, old := o } := by
  induction n generalizing t with
  | zero => exact ⟨t.retired, t.old, rfl⟩
  | succ n ih =>
    rw [Tile.advanceOld_succ]
    split
    · obtain ⟨r, o, h⟩ := ih (t.passOld i)
      exact ⟨r, o, h⟩
    · exact ⟨t.retired, t.old, rfl⟩

/-- The mark at distance `j` after `OLD`. -/
def Tile.markAfter (t : Tile) (i j : Nat) : Bool := SMap.get false t.retired (512 * i + (SMap.get 0 t.old i + j) % 512)

/-- One step of `OLD` brings each mark one nearer; the one passed is cleared and stands last. -/
theorem Tile.markAfter_pass (i j : Nat) (h : SMap.get 0 t.old i < 512) (hj : j < 512) :
    (t.passOld i).markAfter i j = if j = 511 then false else t.markAfter i (j + 1) := by
  simp only [Tile.markAfter, Tile.passOld, SMap.get_set, if_true]
  generalize SMap.get 0 t.old i = o at h
  have hmod : ((o + 1) % 512 + j) % 512 = (o + (j + 1)) % 512 := by omega
  rw [hmod]
  by_cases hl : j = 511
  · rw [if_pos hl, if_pos (by omega)]
  · rw [if_neg hl, if_neg (by omega)]

/-- With the marks beyond distance `n` clear, `n` steps bring `OLD` to a tag that is not marked. -/
theorem Tile.advanceOld_stops (i n : Nat) (h : SMap.get 0 t.old i < 512) (hn : n ≤ 512) (hc : ∀ j, n ≤ j → j < 512 → t.markAfter i j = false) :
    SMap.get false (Tile.advanceOld i n t).retired (512 * i + SMap.get 0 (Tile.advanceOld i n t).old i) = false := by
  induction n generalizing t with
  | zero =>
    have h0 := hc 0 (Nat.le_refl 0) (by decide)
    rw [Tile.markAfter, Nat.add_zero, Nat.mod_eq_of_lt h] at h0
    exact h0
  | succ n ih =>
    rw [Tile.advanceOld_succ]
    split
    · refine ih _ ?_ (by omega) (fun j hj hl => ?_)
      · rw [Tile.passOld, SMap.get_set, if_pos rfl]
        exact Nat.mod_lt _ (by decide)
      · rw [t.markAfter_pass i j h hl]
        split
        · rfl
        · exact hc (j + 1) (by omega) (by omega)
    · rename_i hm
      exact Bool.eq_false_iff.2 hm

theorem Bank.disown_owner (b : Bank) : (b.disown k).owner ≠ some k := by
  unfold Bank.disown
  split
  · exact fun h => nomatch h
  · assumption

theorem retiredTile_facts (c : Ctx) : (retiredTile t k c).ctx k = none ∧ (∀ j, j ≠ k → (retiredTile t k c).ctx j = t.ctx j) ∧
    (retiredTile t k c).a0.owner ≠ some k ∧ (retiredTile t k c).a1.owner ≠ some k ∧
    (∀ b ∈ c.bound, b.sticky = false → ∀ y ∈ (retiredTile t k c).queue b.queue, y.serial ≠ b.serial) ∧
    (SMap.get 0 t.old c.entry < 512 → SMap.get false (retiredTile t k c).retired (512 * c.entry + SMap.get 0 (retiredTile t k c).old c.entry) = false) := by
  obtain ⟨q, hq, hy⟩ := (t.setCtx k none).freeToks_eq c.bound
  obtain ⟨r, hr⟩ := Tile.markRetired_foldl_eq { t.setCtx k none with queues := q } c.entry
    (if (t.trigAt c.entry).rule = 3 then c.bound.map (fun b => b.tok.tag) else [c.tag])
  obtain ⟨r', o, ha⟩ := Tile.advanceOld_eq { t.setCtx k none with queues := q, retired := r } c.entry 512
  have hstop := Tile.advanceOld_stops { t.setCtx k none with queues := q, retired := r } c.entry 512
  rw [ha] at hstop
  have hctx : ∀ j, (retiredTile t k c).ctx j = if k = j then none else t.ctx j := by
    intro j
    rw [← Tile.setCtx_ctx_at, retiredTile, hq, hr, ha]
    rfl
  refine ⟨(hctx k).trans (if_pos rfl), fun j hj => (hctx j).trans (if_neg hj.symm), Bank.disown_owner k _, Bank.disown_owner k _,
    fun b hb hs y h => (hy b.queue y ?_).2 b hb hs rfl, fun ho => ?_⟩
  · rw [retiredTile, hq, hr, ha] at h
    exact h
  · rw [retiredTile, hq, hr, ha]
    exact hstop ho (Nat.le_refl 512) (fun j h1 h2 => absurd h1 (by omega))

end

section
variable {s : State} (tile : Fin 4096) (ctx : Fin 512)

theorem exec_contextRetire_of_retiring {c : Ctx} (hc : (s.tile tile.val).ctx ctx.val = some c) (h : c.state = .retiring) :
    exec (.contextRetire tile ctx) s = .next (match (retiredTile (s.tile tile.val) ctx.val c).behindQueue with
      | none => (s.setTile tile.val (retiredTile (s.tile tile.val) ctx.val c)).sentinel tile.val c.entry
      | some j => ((s.setTile tile.val (retiredTile (s.tile tile.val) ctx.val c)).sentinel tile.val c.entry).tileFault tile.val 0x07
          (faultInfo c.pc c.entry c.tag j) 0x0403) := by
  change execContextRetire tile ctx s = _
  simp only [execContextRetire, hc, if_pos h]
  change Host.Outcome.next (match (retiredTile (s.tile tile.val) ctx.val c).behindQueue with | some j => _ | none => _) = _
  cases (retiredTile (s.tile tile.val) ctx.val c).behindQueue <;> rfl

theorem exec_contextRetire_other (h : ∀ c, (s.tile tile.val).ctx ctx.val = some c → c.state ≠ .retiring) :
    exec (.contextRetire tile ctx) s = .next s := by
  change execContextRetire tile ctx s = _
  unfold execContextRetire
  cases hc : (s.tile tile.val).ctx ctx.val with
  | none => simp only [hc]
  | some c => simp only [hc, if_neg (h c hc)]

/-! Yield (R61, R62). -/

theorem allYielded_iff (t : Tile) : (t.regs.yieldReq && !t.regs.yieldDone && t.live.all (fun kc => kc.2.state == .yielded)) = true ↔ allYielded t := by
  rw [Bool.and_eq_true, Bool.and_eq_true, Bool.not_eq_true', and_assoc]
  rfl

theorem exec_yieldDone_of_saving {b : Nat} {p : Plot} (h : allYielded (s.tile tile.val)) (hl : (s.tile tile.val).lead = some b)
    (hp : s.plot b = some p) (hy : p.state = .yielding) : exec (.yieldDone tile) s =
      .next ((s.setTile tile.val (parkedTile (s.tile tile.val))).setPlot b { p with saveArea := p.saveArea ++ [saveTile p tile.val (s.tile tile.val)] }) := by
  have hp1 : ∀ t, (s.setTile tile.val t).plot b = some p := fun _ => hp
  change execYieldDone tile s = _
  simp only [execYieldDone, if_pos ((allYielded_iff _).2 h), hl, hp1, if_pos hy]
  rfl

theorem exec_yieldDone_of_not_saving (h : allYielded (s.tile tile.val))
    (hn : ∀ b p, (s.tile tile.val).lead = some b → s.plot b = some p → p.state ≠ .yielding) :
    exec (.yieldDone tile) s = .next (s.setTile tile.val (parkedTile (s.tile tile.val))) := by
  have hp1 : ∀ t b, (s.setTile tile.val t).plot b = s.plot b := fun _ _ => rfl
  change execYieldDone tile s = _
  simp only [execYieldDone, if_pos ((allYielded_iff _).2 h), hp1]
  cases hl : (s.tile tile.val).lead with
  | none => rfl
  | some b =>
    cases hp : s.plot b with
    | none => simp only [hp]; rfl
    | some p => simp only [hp, if_neg (hn b p hl hp)]; rfl

theorem exec_yieldDone_of_not_allYielded (h : ¬ allYielded (s.tile tile.val)) : exec (.yieldDone tile) s = .next s := by
  change execYieldDone tile s = _
  simp only [execYieldDone, if_neg (mt (allYielded_iff _).1 h)]

/-- A table whose entries are all changed alike reads the changed entry. -/
theorem SMap.get_map_value {α β : Type} (d : α) (f : α → β) (m : SMap α) (k : Nat) :
    SMap.get (f d) (m.map (fun e => (e.1, f e.2))) k = f (SMap.get d m k) := by
  induction m with
  | nil => rfl
  | cons e m ih =>
    simp only [List.map_cons, SMap.get, ih]
    split <;> rfl

theorem exec_tileYieldReq_clear (s : State) : ∃ t, exec (.tileYieldReq tile false) s = .next t ∧ (t.tile tile.val).regs = { (s.tile tile.val).regs with
      yieldReq := false, yieldDone := false, state := if (s.tile tile.val).regs.state = .parked then .running else (s.tile tile.val).regs.state } ∧
    (∀ k, (t.tile tile.val).ctx k = ((s.tile tile.val).ctx k).map (fun c => if c.state = .yielded then { c with state := .ready } else c)) ∧
    (∀ g, g ≠ tile.val → t.tile g = s.tile g) ∧ t = { s with tiles := t.tiles } := by
  have ht : (s.updTile tile.val (fun t => t.setYieldReq false)).tile tile.val = (s.tile tile.val).setYieldReq false :=
    (State.updTile_tile_at ..).trans (if_pos rfl)
  refine ⟨_, rfl, congrArg Tile.regs ht, fun k => ?_, fun g hg => (State.updTile_tile_at ..).trans (if_neg hg.symm), rfl⟩
  rw [ht]
  exact SMap.get_map_value none (Option.map fun c : Ctx => if c.state = .yielded then { c with state := .ready } else c) (s.tile tile.val).ctxs k

/-! Retest (R68, R69). -/

/-- A neighbour disables its port `o` toward a fenced tile (R102). -/
def State.shutPort (s : State) (on : Bool) (n o : Nat) : State :=
  if on then s.updTile n (fun t => t.updRegs (fun x => { x with linkEn := clearBitN x.linkEn o })) else s

/-- A state that differs from another by enabled ports of tiles alone. -/
def State.PortsApart (s u : State) : Prop := u = { s with tiles := u.tiles } ∧ ∀ i, ∃ m, (u.tile i).regs = { (s.tile i).regs with linkEn := m }

theorem State.PortsApart.trans {s u v : State} (h1 : s.PortsApart u) (h2 : u.PortsApart v) : s.PortsApart v := by
  refine ⟨?_, fun i => ?_⟩
  · rw [h2.1, h1.1]
  · obtain ⟨m, hm⟩ := h1.2 i
    obtain ⟨m', hm'⟩ := h2.2 i
    exact ⟨m', by rw [hm', hm]⟩

theorem State.shutPort_portsApart (s : State) (on : Bool) (n o : Nat) : s.PortsApart (s.shutPort on n o) := by
  unfold State.shutPort
  split
  · refine ⟨rfl, fun i => ?_⟩
    rw [State.updTile_tile_at]
    split
    · exact ⟨_, rfl⟩
    · exact ⟨_, rfl⟩
  · exact ⟨rfl, fun i => ⟨_, rfl⟩⟩

theorem State.closeLinks_portsApart (s : State) (g : Nat) : s.PortsApart (s.closeLinks g) :=
  (((s.shutPort_portsApart ..).trans (State.shutPort_portsApart ..)).trans (State.shutPort_portsApart ..)).trans (State.shutPort_portsApart ..)

/-- Tile `g` with the registers a self-test leaves, and the ports toward it closed where it is fenced whole. -/
def State.fenced (s : State) (g : Nat) (full : Bool) (mask us : Nat) : State :=
  if ((s.tile g).regs.selfTest full mask us).fenceFull then
    (s.setTile g { s.tile g with regs := (s.tile g).regs.selfTest full mask us }).closeLinks g
  else s.setTile g { s.tile g with regs := (s.tile g).regs.selfTest full mask us }

theorem State.fenced_portsApart (s : State) (g : Nat) (full : Bool) (mask us : Nat) :
    (s.setTile g { s.tile g with regs := (s.tile g).regs.selfTest full mask us }).PortsApart (s.fenced g full mask us) := by
  unfold State.fenced
  split
  · exact State.closeLinks_portsApart ..
  · exact ⟨rfl, fun i => ⟨_, rfl⟩⟩

/-- A self-test stores at most a record beside that. -/
theorem State.selfTestTile_book (s : State) (g : Nat) (full : Bool) (mask us : Nat) :
    ∃ bk, s.selfTestTile g full mask us = { s.fenced g full mask us with book := bk } := by
  change ∃ bk, (if ((s.tile g).regs.selfTest full mask us).fenceCore = (s.tile g).regs.fenceCore ∧
      ((s.tile g).regs.selfTest full mask us).fenceFull = (s.tile g).regs.fenceFull then s.fenced g full mask us
    else State.post (s.fenced g full mask us) false 0x01 0x80 0 _ g _) = _
  split
  · exact ⟨_, rfl⟩
  · obtain ⟨b, hb, -⟩ := (s.fenced g full mask us).post_quiet 0x01 0x80 (s.parcelOf g) g
      (BitVec.ofNat 64 (((s.tile g).regs.selfTest full mask us).status7 + ((s.tile g).regs.selfTest full mask us).selftest.toNat % 2 ^ 16 * 2 ^ 16))
    exact ⟨b, hb⟩

/-- A self-test changes tiles and may store a record; the tested tile gets the registers of R68, but for ports. -/
theorem State.selfTestTile_eq (s : State) (g : Nat) (full : Bool) (mask us : Nat) :
    (∃ tl bk, s.selfTestTile g full mask us = { s with tiles := tl, book := bk }) ∧
    ∃ m, ((s.selfTestTile g full mask us).tile g).regs = { (s.tile g).regs.selfTest full mask us with linkEn := m } := by
  obtain ⟨bk, hs⟩ := s.selfTestTile_book g full mask us
  obtain ⟨hu, hregs⟩ := s.fenced_portsApart g full mask us
  obtain ⟨m, hm⟩ := hregs g
  rw [State.setTile_tile_at, if_pos rfl] at hm
  rw [hs]
  refine ⟨⟨(s.fenced g full mask us).tiles, bk, ?_⟩, m, hm⟩
  rw [hu]
  rfl

/-- A self-test that finds nothing failing keeps the fences. -/
theorem TileRegs.selfTest_clean (r : TileRegs) (us : Nat) :
    (r.selfTest false 0 us).fenceCore = r.fenceCore ∧ (r.selfTest false 0 us).fenceFull = r.fenceFull := by
  simp [TileRegs.selfTest, bitB]

theorem retested_plot (s : State) (g b : Nat) (fails : BitVec 7) (us : BitVec 16) : (retested s g fails us).plot b = s.plot b := by
  obtain ⟨⟨tl, bk, h⟩, -⟩ := s.selfTestTile_eq g false fails.toNat us.toNat
  unfold retested
  rw [h]
  split <;> rfl

theorem retested_clean (s : State) (g : Nat) (us : BitVec 16) : ((retested s g 0 us).tile g).regs.retest = false ∧
    ((retested s g 0 us).tile g).regs.fenceCore = (s.tile g).regs.fenceCore ∧ ((retested s g 0 us).tile g).regs.fenceFull = (s.tile g).regs.fenceFull := by
  obtain ⟨-, m, h⟩ := s.selfTestTile_eq g false (0 : BitVec 7).toNat us.toNat
  obtain ⟨hc, hf⟩ := (s.tile g).regs.selfTest_clean us.toNat
  rw [retested, if_pos (by decide), State.updTile_tile_at, if_pos rfl, h]
  exact ⟨rfl, hc, hf⟩

theorem retested_eq (s : State) (g : Nat) (fails : BitVec 7) (us : BitVec 16) : (if decide ((fails.toNat % 32 ≠ 0) ∨ bitB fails.toNat 6) then
    s.selfTestTile g false fails.toNat us.toNat
  else (s.selfTestTile g false fails.toNat us.toNat).updTile g (fun t => t.updRegs (fun r => { r with retest := false }))) = retested s g fails us := by
  unfold retested
  by_cases h : fails.toNat % 32 = 0 ∧ bitB fails.toNat 6 = false
  · rw [if_pos h, if_neg (by simp [h.1, h.2])]
    rfl
  · rw [if_neg h, if_pos (by simpa [imp_iff_not_or] using h)]

theorem exec_singleTileRetest_of_free (fails : BitVec 7) (us : BitVec 16) (hr : (s.tile tile.val).regs.retest = true)
    (hn : ∀ b, (s.tile tile.val).lead = some b → s.plot b = none) : exec (.singleTileRetest tile fails us) s = .next (retested s tile.val fails us) := by
  change execSingleTileRetest tile fails us s = _
  simp only [execSingleTileRetest, retested_eq, retested_plot]
  cases hl : (s.tile tile.val).lead with
  | none => simp [hr]
  | some b => simp [hr, hn b hl]

theorem exec_singleTileRetest_of_idle (fails : BitVec 7) (us : BitVec 16) {b : Nat} {p : Plot} (hr : (s.tile tile.val).regs.retest = true)
    (hl : (s.tile tile.val).lead = some b) (hp : s.plot b = some p) (hi : p.state = .idle) :
    exec (.singleTileRetest tile fails us) s = .next ((retested s tile.val fails us).refit b p) := by
  change execSingleTileRetest tile fails us s = _
  simp only [execSingleTileRetest, retested_eq, retested_plot]
  simp [hr, hl, hp, hi]

theorem exec_singleTileRetest_unmarked (fails : BitVec 7) (us : BitVec 16) (h : (s.tile tile.val).regs.retest = false) :
    exec (.singleTileRetest tile fails us) s = .next s := by
  change execSingleTileRetest tile fails us s = _
  simp only [execSingleTileRetest, h, Bool.not_false, true_or, if_true]

theorem exec_singleTileRetest_busy (fails : BitVec 7) (us : BitVec 16) {b : Nat} {p : Plot} (hl : (s.tile tile.val).lead = some b) (hp : s.plot b = some p)
    (h : p.state ≠ .idle) : exec (.singleTileRetest tile fails us) s = .next s := by
  have hb : (!(p.state == .idle)) = true := by simpa using h
  change execSingleTileRetest tile fails us s = _
  simp only [execSingleTileRetest, hl, hp, Option.elim, hb, or_true, if_true]

end

/-- Settles O11: the cycle of the trigger unit by what its first firing meets, retirement by the tile it leaves, yield and retest by whether the
tile may be parked or tested. -/
theorem triggerUnitFiresRetiresAndYields : Obligations.TriggerUnitFiresRetiresAndYields := by
  unfold Obligations.TriggerUnitFiresRetiresAndYields
  refine ⟨fun tile s f k h => ?_, fun tile s hm hb h => ?_, fun tile s f hm hb hf hr => ?_, fun tile s i hm hb => ?_, fun tile s hm => ?_,
    fun tile parity s hm => ?_, fun tile ctx s c hc h => exec_contextRetire_of_retiring tile ctx hc h, fun tile ctx s h => exec_contextRetire_other tile ctx h,
    retiredTile_facts, fun tile s h => ?_, fun tile s b p h hl hp hy => exec_yieldDone_of_saving tile h hl hp hy,
    fun tile s h => exec_yieldDone_of_not_allYielded tile h, fun tile s => ⟨rfl, exec_tileYieldReq_clear tile s⟩, fun tile on s => rfl,
    fun tile fails us s h => exec_singleTileRetest_unmarked tile fails us h,
    fun tile fails us s b p hl hp h => exec_singleTileRetest_busy tile fails us hl hp h,
    fun tile fails us s hr hn => exec_singleTileRetest_of_free tile fails us hr hn,
    fun tile fails us s b p hr hl hp hi => exec_singleTileRetest_of_idle tile fails us hr hl hp hi, fun tile us s => retested_clean s tile.val us⟩
  · obtain ⟨-, hother, hframe⟩ := s.countWait_frame tile.val
    have ht : ((s.countWait tile.val).setTile tile.val (firedTile s tile.val f k)).tile tile.val = firedTile s tile.val f k :=
      (State.setTile_tile_at ..).trans (if_pos rfl)
    refine ⟨_, congrArg Host.Outcome.next (fireTile_of_fires h), ht, ?_, fun j hj => ?_, fun g hg => ?_, ?_⟩
    · rw [ht, firedTile_ctx, if_pos rfl]
    · rw [ht, firedTile_ctx, if_neg hj.symm]
    · rw [State.setTile_tile_at, if_neg hg.symm, hother g hg]
    · rw [hframe]
      rfl
  · exact ⟨_, congrArg Host.Outcome.next (fireTile_of_no_room hm hb h), s.countWait_frame tile.val⟩
  · exact ⟨_, congrArg Host.Outcome.next (fireTile_of_repeated hm hb hf hr), s.countWait_frame tile.val⟩
  · exact congrArg Host.Outcome.next (fireTile_of_badEntry hm hb)
  · exact congrArg Host.Outcome.next (fireTile_parity hm)
  · exact congrArg Host.Outcome.next (fireTile_of_not_mayFire parity hm)
  · by_cases hs : ∃ b p, (s.tile tile.val).lead = some b ∧ s.plot b = some p ∧ p.state = .yielding
    · obtain ⟨b, p, hl, hp, hy⟩ := hs
      exact .inr ⟨b, p, hl, hp, hy, exec_yieldDone_of_saving tile h hl hp hy⟩
    · exact .inl (exec_yieldDone_of_not_saving tile h (fun b p hl hp hy => hs ⟨b, p, hl, hp, hy⟩))

end Sys2Proof.Machine
end

section
/-! SUPPORT. Yield, save and restore of a plot (R152 to R154, R341, R345), with the statement of chapter 2 on them. -/

namespace Sys2Proof.Machine

/-! Runs over tiles. -/

section
variable {α : Type} (F : State → α → Tile → Tile) (key : α → Nat) (l : List α) (s : State)

/-- Changing tiles one after another changes tiles only. -/
theorem foldl_updTile_eq : ∃ m, l.foldl (fun s x => s.updTile (key x) (F s x)) s = { s with tiles := m } :=
  foldl_rel (R := fun s t => ∃ m, t = { s with tiles := m }) s (fun s => ⟨s.tiles, rfl⟩)
    (by rintro s _ _ ⟨m, rfl⟩ ⟨n, rfl⟩; exact ⟨n, rfl⟩) (fun s x => ⟨_, rfl⟩) l

variable {F}

theorem foldl_updTile_keeps {P : Tile → Prop} (hf : ∀ s x t, P t → P (F s x t)) {i : Nat} (h : P (s.tile i)) :
    P ((l.foldl (fun s x => s.updTile (key x) (F s x)) s).tile i) := by
  induction l generalizing s with
  | nil => exact h
  | cons x l ih =>
    refine ih (s.updTile (key x) (F s x)) ?_
    rw [State.updTile_tile_at]
    split
    · exact hf s x _ h
    · exact h

theorem foldl_updTile_all {P : Tile → Prop} (hf : ∀ s x t, P (F s x t)) {x : α} (hx : x ∈ l) :
    P ((l.foldl (fun s x => s.updTile (key x) (F s x)) s).tile (key x)) := by
  induction l generalizing s with
  | nil => cases hx
  | cons y l ih =>
    rcases List.mem_cons.1 hx with rfl | hx
    · refine foldl_updTile_keeps key l _ (fun s x t _ => hf s x t) ?_
      rw [State.updTile_tile_at, if_pos rfl]
      exact hf s x _
    · exact ih _ hx

end

section
variable {s : State} {b : Nat} {p : Plot}

/-! Yield requests (R151, R152). -/

theorem setYield_none (h : s.plot b = none) : s.setYield b = s := by
  simp only [State.setYield, h]

theorem clearYield_none (h : s.plot b = none) : s.clearYield b = s := by
  simp only [State.clearYield, h]

theorem setYield_ignored (h : s.plot b = some p) (hi : p.state = .free ∨ p.state = .filling ∨ p.yieldReq = true) : s.setYield b = s := by
  simp only [State.setYield, h]
  exact if_pos hi

theorem clearYield_ignored (h : s.plot b = some p) (hi : p.state = .free ∨ p.state = .filling ∨ p.yieldReq = false) : s.clearYield b = s := by
  simp only [State.clearYield, h]
  exact if_pos (by simpa using hi)

theorem setYield_switching (h : s.plot b = some p) (hs : p.state = .switching) (hy : p.yieldReq = false) :
    s.setYield b = s.setPlot b { p with yieldReq := true, heldYield := true } := by
  simp only [State.setYield, h]
  rw [if_neg (by simp [hs, hy]), if_pos hs]

theorem setYield_passed (h : s.plot b = some p) (h1 : p.state ≠ .free) (h2 : p.state ≠ .filling) (h3 : p.state ≠ .switching) (hy : p.yieldReq = false) :
    s.setYield b = (s.setPlot b { p with yieldReq := true, state := if p.state = .running then .yielding else p.state }).updTiles p.tiles
      (fun t => t.setYieldReq true) := by
  simp only [State.setYield, h]
  rw [if_neg (by simp [h1, h2, hy]), if_neg h3]

/-- What passing the request to the tiles leaves. -/
theorem updTiles_setYieldReq (q : Plot) : ((s.setPlot b q).updTiles p.tiles (fun t => t.setYieldReq true)).plot b = some q ∧
    (∀ g, g ∈ p.tiles → (((s.setPlot b q).updTiles p.tiles (fun t => t.setYieldReq true)).tile g).regs.yieldReq = true) ∧
    (∀ g, g ∉ p.tiles → ((s.setPlot b q).updTiles p.tiles (fun t => t.setYieldReq true)).tile g = s.tile g) ∧
    ((s.setPlot b q).updTiles p.tiles (fun t => t.setYieldReq true)).mem = s.mem := by
  refine ⟨?_, fun g hg => ?_, fun g hg => ?_, ?_⟩
  · rw [State.updTiles_plot, State.setPlot_plot_at, if_pos rfl]
  · exact State.updTiles_all _ _ _ (fun t => t.regs.yieldReq = true) (fun _ => rfl) g hg
  · exact State.updTiles_tile_other _ _ _ g hg
  · exact State.updTiles_mem ..

/-- A plot whose yield request is taken back. -/
def Plot.unasked (p : Plot) : Plot := { p with yieldReq := false, heldYield := false, saveArea := [], heldSwitch := false }

/-- A yielding plot whose yield request is taken back runs on, or switches where a switch request was held. -/
def Plot.ranOn (p : Plot) : Plot := { p.unasked with state := if p.heldSwitch then .switching else .running }

/-- The request taken back from the plot and from its tiles. -/
def State.takeBackYield (s : State) (b : Nat) (p q : Plot) : State := (s.setPlot b q).updTiles p.tiles (fun t => t.setYieldReq false)

theorem takeBackYield_facts (s : State) (b : Nat) (p q : Plot) : (s.takeBackYield b p q).plot b = some q ∧
    (∀ g, g ∈ p.tiles → ((s.takeBackYield b p q).tile g).regs.yieldReq = false ∧ ((s.takeBackYield b p q).tile g).regs.yieldDone = false) ∧
    (∀ g, g ∉ p.tiles → (s.takeBackYield b p q).tile g = s.tile g) ∧ (s.takeBackYield b p q).mem = s.mem := by
  refine ⟨?_, fun g hg => ?_, fun g hg => ?_, ?_⟩
  · rw [State.takeBackYield, State.updTiles_plot, State.setPlot_plot_at, if_pos rfl]
  · exact State.updTiles_all _ _ _ (fun t => t.regs.yieldReq = false ∧ t.regs.yieldDone = false) (fun _ => ⟨rfl, rfl⟩) g hg
  · exact State.updTiles_tile_other _ _ _ g hg
  · exact State.updTiles_mem ..

theorem clearYield_not_yielding (h : s.plot b = some p) (h1 : p.state ≠ .free) (h2 : p.state ≠ .filling) (h3 : p.state ≠ .yielding)
    (hy : p.yieldReq = true) : s.clearYield b = s.takeBackYield b p p.unasked := by
  simp only [State.clearYield, h]
  rw [if_neg (by simp [h1, h2, hy]), if_neg (fun e => h3 e.1), if_neg h3]
  rfl

theorem clearYield_yielding (h : s.plot b = some p) (hs : p.state = .yielding) (hy : p.yieldReq = true) :
    s.clearYield b = if p.heldSwitch then (s.takeBackYield b p p.ranOn).stopFiring p else s.takeBackYield b p p.ranOn := by
  simp only [State.clearYield, h]
  rw [if_neg (by simp [hs, hy]), if_pos hs]
  exact if_congr (and_iff_right hs) rfl rfl

/-- Stopping the trigger units of a plot stops each of them and leaves the rest of the tiles, the plot and memory. -/
theorem stopFiring_frame (s : State) (p : Plot) : (∀ i, (s.stopFiring p).plot i = s.plot i) ∧ (∀ i, (s.stopFiring p).block i = s.block i) ∧
    (∀ g, g ∈ p.tiles → ((s.stopFiring p).tile g).fireStop = true) ∧ (∀ g, g ∉ p.tiles → (s.stopFiring p).tile g = s.tile g) ∧
    (s.stopFiring p).mem = s.mem :=
  ⟨s.updTiles_plot _ _, s.updTiles_block _ _, fun g hg => State.updTiles_all _ _ _ (fun t => t.fireStop = true) (fun _ => rfl) g hg,
    fun g hg => State.updTiles_tile_other _ _ _ g hg, State.updTiles_mem ..⟩

/-- Stopping the trigger units of a plot keeps whatever of a tile does not depend on the stop and on `DRAINED`. -/
theorem stopFiring_keeps (s : State) (p : Plot) {P : Tile → Prop}
    (hP : ∀ t, P t → P { t with fireStop := true, regs := { t.regs with drained := t.isDrained } })
    {g : Nat} (h : P (s.tile g)) : P ((s.stopFiring p).tile g) :=
  foldl_updTile_keeps (F := fun _ _ t => { t with fireStop := true, regs := { t.regs with drained := t.isDrained } }) id p.tiles s (fun _ _ => hP) h

theorem clearYield_facts (h : s.plot b = some p) (hs : p.state = .yielding) (hy : p.yieldReq = true) :
    (s.clearYield b).plot b = some p.ranOn ∧
    (∀ g, g ∈ p.tiles → ((s.clearYield b).tile g).regs.yieldReq = false ∧ ((s.clearYield b).tile g).regs.yieldDone = false ∧
      (p.heldSwitch = true → ((s.clearYield b).tile g).fireStop = true)) ∧
    (∀ g, g ∉ p.tiles → (s.clearYield b).tile g = s.tile g) ∧ (s.clearYield b).mem = s.mem := by
  obtain ⟨hplot, htiles, hother, hmem⟩ := takeBackYield_facts s b p p.ranOn
  rw [clearYield_yielding h hs hy]
  split
  · obtain ⟨fplot, -, fstop, fother, fmem⟩ := stopFiring_frame (s.takeBackYield b p p.ranOn) p
    refine ⟨(fplot b).trans hplot, fun g hg => ?_, fun g hg => (fother g hg).trans (hother g hg), fmem.trans hmem⟩
    obtain ⟨hr, hd⟩ := stopFiring_keeps _ p (P := fun t => t.regs.yieldReq = false ∧ t.regs.yieldDone = false) (fun _ h => h) (htiles g hg)
    exact ⟨hr, hd, fun _ => fstop g hg⟩
  · next hh => exact ⟨hplot, fun g hg => ⟨(htiles g hg).1, (htiles g hg).2, fun e => absurd e hh⟩, hother, hmem⟩

/-! A save (R152, R153, R341). -/

/-- Whether a tile of the plot has not reported. -/
theorem any_not_yieldDone_iff (s : State) (p : Plot) : p.tiles.any (fun g => !(s.tile g).regs.yieldDone) = true ↔
    ∃ g, g ∈ p.tiles ∧ (s.tile g).regs.yieldDone = false := by
  simp only [List.any_eq_true, Bool.not_eq_true']

theorem exec_saveComplete_none (lead : Fin 64) (h : s.plot lead.val = none) : exec (.saveComplete lead) s = .next s := by
  change execSaveComplete lead s = _
  simp only [execSaveComplete, h]

theorem exec_saveComplete_early (lead : Fin 64) (h : s.plot lead.val = some p)
    (hn : p.state ≠ .yielding ∨ ∃ g, g ∈ p.tiles ∧ (s.tile g).regs.yieldDone = false) : exec (.saveComplete lead) s = .next s := by
  change execSaveComplete lead s = _
  simp only [execSaveComplete, h, any_not_yieldDone_iff]
  rw [if_pos hn]

/-- A complete save is kept and the plot released, unless it is larger than `SAVE_MAX`. -/
theorem exec_saveComplete_done (lead : Fin 64) (h : s.plot lead.val = some p) (hs : p.state = .yielding)
    (hd : ∀ g, g ∈ p.tiles → (s.tile g).regs.yieldDone = true) : exec (.saveComplete lead) s =
      .next (if p.env 0x20 8 < p.saveArea.foldl (fun a t => a + p.saveBytes t) 0 then s.force lead.val 0x07 0x0403 0
        else (s.keepSave lead.val p).releasePlot lead.val 0 0) := by
  have hn : ¬ (p.state ≠ .yielding ∨ ∃ g, g ∈ p.tiles ∧ (s.tile g).regs.yieldDone = false) := by
    rintro (h | ⟨g, hg, h⟩)
    · exact h hs
    · rw [hd g hg] at h
      cases h
  change execSaveComplete lead s = _
  simp only [execSaveComplete, h, any_not_yieldDone_iff]
  rw [if_neg hn]

/-- A write of firmware changes memory and the ponds only. -/
theorem fwWrite_eq (s : State) (k : Nat) (l : Bytes) : ∃ m q, s.fwWrite k l = { s with mem := m, quads := q } := by
  unfold State.fwWrite State.put
  split
  · exact ⟨s.mem, s.quads, rfl⟩
  · dsimp only
    split
    · exact ⟨_, s.quads, rfl⟩
    · split
      · exact ⟨_, _, rfl⟩
      · exact ⟨_, s.quads, rfl⟩

theorem keepSave_facts (s : State) (b : Nat) (p : Plot) : (s.keepSave b p).plot b = some { p with state := .saved } ∧
    ((s.keepSave b p).sched.waits = s.sched.waits ++ [⟨p.model, false, some s.sched.nextSaved⟩]) ∧
    (∃ k, SMap.get none (s.keepSave b p).sched.saved s.sched.nextSaved = some k ∧ k.model = p.model ∧ k.task = p.task ∧ k.sect = p.sect ∧
      k.epoch = p.epoch ∧ k.held = p.held ∧ k.heldSwitch = p.heldSwitch ∧ k.steps = p.steps ∧ k.endRemain = (s.block b).regs.endRemain ∧ k.tiles = p.saveArea ∧
      k.bytes = 4096 + p.saveArea.foldl (fun a x => a + p.saveBytes x) 0) ∧ (s.keepSave b p).tiles = s.tiles := by
  obtain ⟨m, q, hw⟩ := fwWrite_eq s (s.savePlace p.parcel (4096 + p.saveArea.foldl (fun a t => a + p.saveBytes t) 0))
    (s.saveBytes (4096 + p.saveArea.foldl (fun a t => a + p.saveBytes t) 0))
  simp only [State.keepSave, hw]
  refine ⟨?_, rfl, ⟨_, SMap.get_set_same .., rfl, rfl, rfl, rfl, rfl, rfl, rfl, rfl, rfl, rfl⟩, rfl⟩
  exact (State.setBlock_plot_at ..).trans (if_pos rfl)

/-! The release of a plot (R139). -/

/-- Marking blocks for a scrub leaves what they lead. -/
theorem markScrubbing_plot (blocks : List Nat) (m : SMap Block) (i : Nat) : (SMap.get Block.reset
    (blocks.foldl (fun m b => SMap.upd Block.reset m b (fun x => { x with scrubbing := true })) m) i).plot = (SMap.get Block.reset m i).plot := by
  induction blocks generalizing m with
  | nil => rfl
  | cons b blocks ih =>
    rw [List.foldl_cons, ih, SMap.upd, SMap.get_set]
    split
    · next h => rw [h]
    · rfl

theorem startScrub_plot (s : State) (mine : Alloc → Bool) (blocks : List Nat) (ranges : List (Nat × Nat)) (what id i : Nat) :
    (s.startScrub mine blocks ranges what id).plot i = s.plot i := by
  obtain ⟨m, hm⟩ := foldl_rel (R := fun s t => ∃ m, t = { s with mem := m }) s (fun s => ⟨s.mem, rfl⟩)
    (by rintro s _ _ ⟨m, rfl⟩ ⟨n, rfl⟩; exact ⟨n, rfl⟩) (fun s (a : Alloc) => s.setRegion_eq a.tier a.base a.len 0 false false)
    (s.serve.allocs.filter mine)
  unfold State.startScrub
  dsimp only
  rw [hm]
  exact markScrubbing_plot blocks s.blocks i

theorem releasePlot_facts (what id : Nat) (h : s.plot b = some p) : (s.releasePlot b what id).plot b = none ∧
    (∀ g, g ∈ p.tiles → ((s.releasePlot b what id).tile g).lead = none ∧ ((s.releasePlot b what id).tile g).ctxs = []) := by
  have hscrub : ∀ (u : State) (f : Alloc → Bool) l r w i, (u.startScrub f l r w i).tiles = u.tiles := by
    intro u f l r w i
    obtain ⟨m, a, c, k, e⟩ := u.startScrub_eq f l r w i
    rw [e]
  have hcist : ∀ u : State, (p.quads.foldl (fun (s : State) q => s.updCist q (fun c => c.clearQueues ((p.queuePlace q).getD 0) 0)) u).tiles = u.tiles :=
    fun u => foldl_rel (R := fun s t => t.tiles = s.tiles) (f := fun s q => s.updCist q (fun c => c.clearQueues ((p.queuePlace q).getD 0) 0)) u
      (fun _ => rfl) (fun h1 h2 => h2.trans h1) (fun _ _ => rfl) p.quads
  simp only [State.releasePlot, h]
  refine ⟨?_, fun g hg => ?_⟩
  · rw [startScrub_plot]
    exact (State.setBlock_plot_at ..).trans (if_pos rfl)
  · rw [State.tile, hscrub]
    simp only [State.setBlock_tiles, hcist]
    exact State.updTiles_all _ p.tiles _ (fun t => t.lead = none ∧ t.ctxs = []) (fun _ => ⟨rfl, rfl⟩) g hg

/-! A restore (R34, R154, R345). -/

theorem restore_facts (t : Tile) (x : SavedTile) : (t.restore x).s = x.s ∧ (t.restore x).p = x.p ∧ (t.restore x).v = x.v ∧ (t.restore x).sem = x.sem ∧
    (t.restore x).queues = x.queues ∧
    (∀ c, (t.restore x).a0.owner = some c → ∃ y, y ∈ x.ctxs ∧ y.slot = c ∧ (t.trigAt y.ctx.entry).own0 = true) := by
  refine ⟨rfl, rfl, rfl, rfl, rfl, fun c hc => ?_⟩
  obtain ⟨y, hy, hslot⟩ := Option.map_eq_some_iff.1 (show (x.ctxs.find? (fun c => (t.trigAt c.ctx.entry).own0)).map (fun c => c.slot) = some c from hc)
  exact ⟨y, List.mem_of_find?_eq_some hy, hslot, List.find?_some (p := fun c : SavedCtx => (t.trigAt c.ctx.entry).own0) hy⟩

/-- The section of a task is loaded and the saved sets are written back. -/
def State.restoreTiles (s : State) (p : Plot) (k : SavedTask) : State :=
  (k.tiles.foldl (fun (s : State) x => s.updTile (p.tileOf x.pos) (fun t => t.restore x))
    (s.loadSection p k.sect k.epoch (({ p with held := k.held, heldBy := k.heldBy } : Plot).acceptOf k.sect))).updTiles p.tiles
      (fun t => { t with regs := { t.regs with state := t.regs.become .running } })

theorem restoreTiles_eq (s : State) (p : Plot) (k : SavedTask) : ∃ m, s.restoreTiles p k = { s with tiles := m } := by
  obtain ⟨m1, h1⟩ := foldl_updTile_eq (fun s g t => t.loadImage s.mem (fieldKey g (p.sectField k.sect 0x10 4)) (p.sectField k.sect 2 1) k.epoch
    (({ p with held := k.held, heldBy := k.heldBy } : Plot).acceptOf k.sect)) id p.tiles s
  obtain ⟨m2, h2⟩ := foldl_updTile_eq (fun _ x t => t.restore x) (fun x => p.tileOf x.pos) k.tiles { s with tiles := m1 }
  obtain ⟨m3, h3⟩ := State.updTiles_eq { s with tiles := m2 } p.tiles (fun t => { t with regs := { t.regs with state := t.regs.become .running } })
  refine ⟨m3, ?_⟩
  rw [State.restoreTiles, State.loadSection]
  simp only [id] at h1
  rw [h1, h2, h3]

theorem restoreTiles_epoch (s : State) (p : Plot) (k : SavedTask) {g : Nat} (hg : g ∈ p.tiles) : ((s.restoreTiles p k).tile g).regs.epoch = k.epoch := by
  refine foldl_updTile_keeps (F := fun _ _ t => { t with regs := { t.regs with state := t.regs.become .running } }) (P := fun t => t.regs.epoch = k.epoch)
    id p.tiles _ (fun _ _ _ h => h) ?_
  refine foldl_updTile_keeps (F := fun _ x t => t.restore x) (P := fun t => t.regs.epoch = k.epoch) (fun x => p.tileOf x.pos) k.tiles _ (fun _ _ _ h => h) ?_
  exact foldl_updTile_all (F := fun s g t => t.loadImage s.mem (fieldKey g (p.sectField k.sect 0x10 4)) (p.sectField k.sect 2 1) k.epoch
    (({ p with held := k.held, heldBy := k.heldBy } : Plot).acceptOf k.sect)) (P := fun t => t.regs.epoch = k.epoch) id p.tiles s (fun _ _ _ => rfl) hg

/-- A plot that takes up a saved task (R154). -/
def Plot.resumed (p : Plot) (k : SavedTask) (task : Option Task) (now : Nat) : Plot :=
  { p with
    held := k.held, heldBy := k.heldBy, state := if k.heldSwitch then .switching else .running, sect := k.sect, epoch := k.epoch
    accept := ({ p with held := k.held, heldBy := k.heldBy } : Plot).acceptOf k.sect, task := task, redo := none, endReport := false, lastSave := some k
    carried := [], lastStepAt := now, kvIn := k.kvIn, kvOut := k.kvOut }

/-- The state with the task taken up, before the Surveyor feeds it pages. -/
def State.takenUp (s : State) (b : Nat) (p : Plot) (k : SavedTask) (task : Option Task) : State :=
  ((s.restoreTiles p k).setPlot b (p.resumed k task s.now)).updPlotRegs b (fun r => { r with endRemain := k.endRemain })

theorem resume_eq (s : State) (b : Nat) (p : Plot) (k : SavedTask) (task : Option Task) :
    s.resume b p k task = (if k.heldSwitch then (s.takenUp b p k task).stopFiring p else s.takenUp b p k task).kvFeed b := rfl

theorem takenUp_facts (s : State) (b : Nat) (p : Plot) (k : SavedTask) (task : Option Task) :
    (s.takenUp b p k task).plot b = some (p.resumed k task s.now) ∧ ((s.takenUp b p k task).block b).regs.endRemain = k.endRemain ∧
    (∀ g, g ∈ p.tiles → ((s.takenUp b p k task).tile g).regs.epoch = k.epoch) ∧ (s.takenUp b p k task).mem = s.mem := by
  refine ⟨?_, ?_, fun g hg => restoreTiles_epoch s p k hg, ?_⟩
  · rw [State.takenUp, State.updPlotRegs_plot_at, State.setPlot_plot_at, if_pos rfl]
  · rw [State.takenUp, State.updPlotRegs_block_at, if_pos rfl]
  · obtain ⟨m, hm⟩ := restoreTiles_eq s p k
    rw [State.takenUp, hm]
    rfl

theorem resume_facts (s : State) (b : Nat) (p : Plot) (k : SavedTask) (task : Option Task) : ∃ t : State, s.resume b p k task = t.kvFeed b ∧
    t.plot b = some (p.resumed k task s.now) ∧ (t.block b).regs.endRemain = k.endRemain ∧ (∀ g, g ∈ p.tiles → (t.tile g).regs.epoch = k.epoch) ∧
    t.mem = s.mem := by
  obtain ⟨hplot, hblock, hepoch, hmem⟩ := takenUp_facts s b p k task
  refine ⟨_, resume_eq s b p k task, ?_⟩
  split
  · obtain ⟨fplot, fblock, -, -, fmem⟩ := stopFiring_frame (s.takenUp b p k task) p
    refine ⟨(fplot b).trans hplot, ?_, fun g hg => ?_, fmem.trans hmem⟩
    · rw [fblock, hblock]
    · exact stopFiring_keeps _ p (P := fun t => t.regs.epoch = k.epoch) (fun _ h => h) (hepoch g hg)
  · exact ⟨hplot, hblock, hepoch, hmem⟩

section
variable {saved : Nat} {s0 : State} {k : SavedTask} {w : WaitPlace}

/-- A restore of a saved task that has its turn and a place. -/
theorem exec_restore_placed (hk : SMap.get none s.sched.saved saved = some k) (hw : s.sched.waits.find? (fun w => w.saved == some saved) = some w)
    (hm : s.power.mayStep = true) (ht : s.waitTurn w = true) (hp : s.placing w = some (p, s0)) :
    exec (.restore saved) s = .next ((firstUe 32 s.mem.ueRes k.place k.bytes).elim
      ((((s0.place p).writeImages p).resume p.lead { p with
        gates := p.edgeGates, steps := k.steps, mark := k.mark, markNext := k.mark, phi := k.phi, phiNext := k.phi, phiStar := k.phi } k k.task).forgetSave saved)
      (fun u => (((s.countTier 6 (s.boardAddr u)).forgetSave saved).endSlots (k.task.elim [] (fun x => x.slots)) 0x0402).settle)) := by
  change execRestore saved s = _
  simp only [execRestore, hk, hw, hm, ht, hp, Bool.not_true, Bool.false_eq_true, or_self, if_false]
  cases firstUe 32 s.mem.ueRes k.place k.bytes <;> rfl

theorem exec_restore_other (h : SMap.get none s.sched.saved saved = none ∨ s.power.mayStep = false ∨
    (∀ w, s.sched.waits.find? (fun w => w.saved == some saved) = some w → s.waitTurn w = false ∨ s.placing w = none)) :
    exec (.restore saved) s = .next s := by
  change execRestore saved s = _
  cases hk : SMap.get none s.sched.saved saved with
  | none => simp only [execRestore, hk]
  | some k =>
    cases hw : s.sched.waits.find? (fun w => w.saved == some saved) with
    | none => simp only [execRestore, hk, hw]
    | some w =>
      simp only [execRestore, hk, hw]
      by_cases hn : (!s.power.mayStep) = true ∨ (!s.waitTurn w) = true
      · rw [if_pos hn]
      · obtain ⟨hm, ht⟩ : s.power.mayStep = true ∧ s.waitTurn w = true := by simpa [not_or] using hn
        have hp : s.placing w = none := by simpa [hk, hm, ht] using h.imp_right (Or.imp_right (fun h => h w hw))
        rw [if_neg hn, hp]

end

theorem forgetSave_facts (saved : Nat) (s : State) : SMap.get none (s.forgetSave saved).sched.saved saved = none ∧
    (∀ w, w ∈ (s.forgetSave saved).sched.waits → w.saved ≠ some saved) :=
  ⟨SMap.get_set_same none s.sched.saved saved none, fun _ hw => bne_iff_ne.1 (List.mem_filter.1 hw).2⟩

end

/-- Settles O19: yield requests by the state of the plot, the end of a save by what its tiles report, a restore by what waits, each with what
the operation it ends in leaves. -/
theorem plotYieldsSavesAndRestores : Obligations.PlotYieldsSavesAndRestores := by
  unfold Obligations.PlotYieldsSavesAndRestores
  refine ⟨fun lead s p h hs hy => ?_, fun lead s p h hs hy => ?_, fun lead s p h h1 h2 h3 h4 hy => ?_, fun lead s p h hs hy => ?_,
    fun lead s p h h1 h2 h3 hy => ?_, fun on lead s p h hi => ?_, fun on lead s h => ?_, fun lead s p h hs hd hl => ?_,
    fun b s p => keepSave_facts s b p, fun b what id s p h => releasePlot_facts what id h, fun lead s p h hs hd hl => ?_,
    fun lead s p h hn => exec_saveComplete_early lead h hn, fun lead s h => exec_saveComplete_none lead h,
    fun saved s s0 k w p hk hw hm ht hp hu => ?_, fun saved u s s0 k w p hk hw hm ht hp hu => ?_, fun saved s h => exec_restore_other h,
    fun b s p k task => resume_facts s b p k task, restore_facts, forgetSave_facts⟩
  · have hn : ∀ x, x ≠ .running → p.state ≠ x := fun x hx e => hx (e.symm.trans hs)
    refine ⟨_, congrArg Host.Outcome.next (setYield_passed h (hn _ (by decide)) (hn _ (by decide)) (hn _ (by decide)) hy), ?_⟩
    rw [if_pos hs]
    exact updTiles_setYieldReq _
  · exact ⟨_, congrArg Host.Outcome.next (setYield_switching h hs hy), (State.setPlot_plot_at ..).trans (if_pos rfl), rfl, rfl⟩
  · refine ⟨_, congrArg Host.Outcome.next (setYield_passed h h1 h2 h3 hy), ?_⟩
    rw [if_neg h4]
    exact updTiles_setYieldReq _
  · exact ⟨_, rfl, clearYield_facts h hs hy⟩
  · exact ⟨_, congrArg Host.Outcome.next (clearYield_not_yielding h h1 h2 h3 hy), takeBackYield_facts s lead.val p p.unasked⟩
  · cases on with
    | true => exact congrArg Host.Outcome.next (setYield_ignored h hi)
    | false => exact congrArg Host.Outcome.next (clearYield_ignored h hi)
  · cases on with
    | true => exact congrArg Host.Outcome.next (setYield_none h)
    | false => exact congrArg Host.Outcome.next (clearYield_none h)
  · rw [exec_saveComplete_done lead h hs hd, if_neg (by omega)]
  · obtain ⟨hic, l, hf⟩ := s.force_eq lead.val 0x07 0x0403 0 false
    rw [exec_saveComplete_done lead h hs hd, if_pos hl]
    refine ⟨_, rfl, s.force_forcedBy lead.val 0x07 0x0403 0 false p h lead.isLt ?_ ?_, ?_, ?_⟩
    · rw [hs]
      decide
    · rw [hs]
      decide
    · rw [hf]
    · rw [hf]
  · rw [exec_restore_placed hk hw hm ht hp, hu]
    rfl
  · rw [exec_restore_placed hk hw hm ht hp, hu]
    rfl

end Sys2Proof.Machine
end

section
/-! SUPPORT. The functions of Table 3-8, the conversion, the lane sum and the broadcast (R95, R97, R98), with the statement of chapter 3 on them. -/

namespace Sys2Proof.Machine

/-- A full mask leaves nothing of the register's old value (R47). -/
theorem mergeV_allOnes (new old : VReg) : mergeV (BitVec.allOnes 64) new old = new := if_pos rfl

/-- `VRSUM` writes its whole destination: its guard has chosen the source lanes already (R98). -/
theorem opVrsum_alone (x : Issue) (s : State) (c : Ctx) (f : SlotF) :
    opVrsum (envOf x s c) f (unwritten x s c) =
      ⟨s, (coreOf x s c).writeV f.dst (BitVec.ofNat 2048 (laneSum x s c f)), [], [], .seq⟩ := by
  rw [← mergeV_allOnes (BitVec.ofNat 2048 (laneSum x s c f)) (vOf x s c f.dst)]
  rfl

/-- Settles O4: each operation writes its lanes under the mask, but `VRSUM`, whose destination is written whole, and `SFROMV`, which is
guarded as a whole. -/
theorem laneFunctionsAndConversionsWriteTheirLanes : Obligations.LaneFunctionsAndConversionsWriteTheirLanes := by
  unfold Obligations.LaneFunctionsAndConversionsWriteTheirLanes
  refine ⟨?exp2, ?log2, ?rcp, ?rsq, ?cvt, ?rsum, ?sfromv, ?bcast⟩
  case rsum => exact fun x f s c h => issueOp_done h (opVrsum_alone x s c f)
  case sfromv => exact fun _ _ _ _ h => issueOp_whole h rfl
  case exp2 | log2 | rcp | rsq | cvt | bcast => exact fun _ _ _ _ h => issueOp_done h rfl

end Sys2Proof.Machine
end

section
/-! SUPPORT. One cycle of a switch (R100 to R117): its inputs, its turn register, its outputs, and what the steering unit moves (R110, R111, R126),
with the statement of chapter 4 on them. -/

namespace Sys2Proof.Machine

section
variable {s : State} {g port turn : Nat} {tok : Token}

/-! An input (R102, R106, R114). -/

/-- A token that passes the checks of its input leaves the state as it was. -/
theorem ingress_of_passesIn (h : passesIn s g port turn tok) : s.ingress g port turn tok = (s, some tok) := by
  obtain ⟨-, -, hload, hrouted, hcrc⟩ := h
  have hbad : (crossesDie g port && !tok.crcOk) = false := by
    cases hd : crossesDie g port with
    | false => rfl
    | true => rw [hcrc hd]; rfl
  unfold routed at hrouted
  unfold State.ingress
  simp only [hload, hrouted, hbad, Bool.not_true, Bool.false_eq_true, if_false]

/-- A token that no output takes goes no further: its CRC is checked first, then its epoch, and what passes both is a canal fault. -/
theorem ingress_unrouted (hload : s.loadingAt g = false) (hrouted : routed (s.tile g) port turn = false) :
    s.ingress g port turn tok = (if tok.crcOk = false then s.canalFault g 1 (canalInfo turn port turn tok)
      else if (s.tile g).stale tok = true then s.setTile g ((s.tile g).updRegs (fun r => { r with staleDrop := satAdd 32 r.staleDrop 1 }))
      else s.canalFault g 2 (canalInfo turn port turn tok), none) := by
  unfold routed at hrouted
  unfold State.ingress
  simp only [hload, hrouted, Bool.not_false, Bool.false_eq_true, if_false, if_true, Bool.not_eq_true']
  split
  · rfl
  · split <;> rfl

variable {flip : BitVec 304} {l : List (Nat × BitVec 304)} {fl : List Flight} {ins : List (Nat × Token)}

theorem takeInputs_passes (h : takeFlight (4 * g + port) false s.flights = some (tok, fl)) (hp : passesIn s g port turn (tok.disturb flip)) :
    State.takeInputs g turn ((port, flip) :: l) (s, ins) =
      State.takeInputs g turn l ({ s with flights := fl }, ins ++ [(port + 1, tok.disturb flip)]) := by
  have hp' : passesIn { s with flights := fl } g port turn (tok.disturb flip) := hp
  have ⟨hon, hfence, _⟩ := hp'
  simp only [State.takeInputs, h, hon, hfence, ingress_of_passesIn hp', Bool.not_false, Bool.and_self, if_true]

theorem takeInputs_disabled (h : takeFlight (4 * g + port) false s.flights = some (tok, fl))
    (hoff : (s.tile g).portOn port = false ∨ (s.tile g).regs.fenceFull = true) :
    State.takeInputs g turn ((port, flip) :: l) (s, ins) = State.takeInputs g turn l ({ s with flights := fl }, ins) := by
  have hno : ¬ ((({ s with flights := fl } : State).tile g).portOn port && !(({ s with flights := fl } : State).tile g).regs.fenceFull) = true := by
    change ¬ ((s.tile g).portOn port && !(s.tile g).regs.fenceFull) = true
    rcases hoff with h | h <;> simp [h]
  simp only [State.takeInputs, h, if_neg hno]

/-! The turn register of an entry (R110). -/

theorem injection_leaves {x : TurnTok} (h : (s.tile g).treg (rotaTreg ((s.tile g).rotaAt turn)) = some x) (he : x.entry = turn)
    (hload : s.loadingAt g = false) : s.injection g turn = (s.setTile g (leftTurnRegister (s.tile g) turn), [(5, x.tok)]) := by
  simp only [State.injection, h, he, hload, and_self, if_true]
  rfl

theorem injection_stays (h : (∀ x, (s.tile g).treg (rotaTreg ((s.tile g).rotaAt turn)) = some x → x.entry ≠ turn) ∨ s.loadingAt g = true) :
    s.injection g turn = (s, []) := by
  cases ht : (s.tile g).treg (rotaTreg ((s.tile g).rotaAt turn)) with
  | none => simp only [State.injection, ht]
  | some x =>
    have hno : ¬ (x.entry = turn ∧ s.loadingAt g = false) := by
      rintro ⟨he, hload⟩
      rcases h with h | h
      · exact h x ht he
      · rw [hload] at h
        cases h
    simp only [State.injection, ht, if_neg hno]

/-! The outputs of an entry (R109). -/

/-- Tokens that no output names change nothing. -/
theorem fanOut_untaken (h : ∀ k, k < 6 → fromSrc ins ((s.tile g).rotaAt turn) k = none) : s.fanOut g turn ins = s := by
  simp only [State.fanOut, List.range_succ, List.range_zero, List.nil_append, List.cons_append, List.foldl_cons, List.foldl_nil,
    h 0 (by decide), h 1 (by decide), h 2 (by decide), h 3 (by decide), h 4 (by decide), h 5 (by decide), State.deliverBoth]

theorem fanOut_nil : s.fanOut g turn [] = s := fanOut_untaken (fun _ _ => rfl)

theorem fanOut_unnamed {o : Nat} (h : ∀ k, k < 6 → rotaSrc ((s.tile g).rotaAt turn) k ≠ o) : s.fanOut g turn [(o, tok)] = s :=
  fanOut_untaken (fun k hk => by
    have hne : (o == rotaSrc ((s.tile g).rotaAt turn) k) = false := beq_eq_false_iff_ne.2 (Ne.symm (h k hk))
    rw [fromSrc, List.find?_singleton, hne]
    rfl)

/-! One cycle. -/

theorem switchCycle_within (ports : List (Nat × BitVec 304)) (h : turn < (s.tile g).turns) : s.switchCycle g turn ports =
    ((State.takeInputs g turn ports (s, [])).1.injection g turn).1.fanOut g turn
      ((State.takeInputs g turn ports (s, [])).2 ++ ((State.takeInputs g turn ports (s, [])).1.injection g turn).2) := if_pos h

theorem switchCycle_beyond (ports : List (Nat × BitVec 304)) (h : (s.tile g).turns ≤ turn) : s.switchCycle g turn ports = s :=
  if_neg (Nat.not_lt.2 h)

end

section
variable {s : State} {tile : Fin 4096} {port : Fin 4} {turn : Fin 256} {flip : BitVec 304} {more : List (Fin 4 × BitVec 304)} {tok : Token}
  {l : List Flight}

theorem exec_tokenArrive_none (h : takeFlight (4 * tile.val + port.val) false s.flights = none) :
    exec (.tokenArrive tile port turn flip more) s = .next s := by
  change execTokenArrive tile port turn flip more s = _
  simp only [execTokenArrive, h]

theorem exec_tokenArrive_some (h : takeFlight (4 * tile.val + port.val) false s.flights = some (tok, l)) :
    exec (.tokenArrive tile port turn flip more) s =
      .next (s.switchCycle tile.val turn.val ((port.val, flip) :: more.map (fun x => (x.1.val, x.2)))) := by
  change execTokenArrive tile port turn flip more s = _
  simp only [execTokenArrive, h]

theorem exec_tregInject_within (h : turn.val < (s.tile tile.val).turns) : exec (.tregInject tile turn) s =
    .next ((s.injection tile.val turn.val).1.fanOut tile.val turn.val (s.injection tile.val turn.val).2) :=
  congrArg Host.Outcome.next (switchCycle_within [] h)

theorem exec_tregInject_other (h : (∀ x, (s.tile tile.val).treg (rotaTreg ((s.tile tile.val).rotaAt turn.val)) = some x → x.entry ≠ turn.val) ∨
    (s.tile tile.val).turns ≤ turn.val ∨ s.loadingAt tile.val = true) : exec (.tregInject tile turn) s = .next s := by
  by_cases ht : turn.val < (s.tile tile.val).turns
  · have hstays := injection_stays (h.imp_right (Or.resolve_left · (Nat.not_le.2 ht)))
    rw [exec_tregInject_within ht, hstays, fanOut_nil]
  · exact congrArg Host.Outcome.next (switchCycle_beyond [] (Nat.not_lt.1 ht))

/-! STEER_TREG_ENTER (R111, R124 to R126). -/

variable {m : MEntry} {k : Nat}

theorem exec_steerTregEnter_moves (h : nextPaired (s.tile tile.val) = some (m, k)) : exec (.steerTregEnter tile turn) s =
    .next (if (s.tile tile.val).injects k = true then
        (s.setTile tile.val ((s.tile tile.val).dropMatch m.serial)).updTile tile.val (fun t =>
          { t with tregs := SMap.set none t.tregs (rotaTreg (t.rotaAt k)) (some ⟨m.tok, k⟩) })
      else (s.setTile tile.val ((s.tile tile.val).dropMatch m.serial)).canalFault tile.val 4 (canalInfo turn.val 6 k m.tok)) := by
  unfold nextPaired at h
  change execSteerTregEnter tile turn s = _
  simp only [execSteerTregEnter, h]

/-- The oldest paired token without a match-store entry, as `STEER_TREG_ENTER` looks for it. -/
theorem find?_paired_unheld (l : List MEntry) :
    (l.filterMap (fun m => m.paired.map (fun k => (m, k)))).find? (fun mk => !mk.1.held) =
      (l.find? (fun m => m.paired.isSome && !m.held)).bind (fun m => m.paired.map (fun k => (m, k))) := by
  have hp : (fun m : MEntry => (m.paired.map (fun k => (m, k))).any (fun mk => !mk.1.held)) = fun m => m.paired.isSome && !m.held := by
    funext m
    cases h : m.paired <;> simp
  rw [List.find?_filterMap, hp]

theorem exec_steerTregEnter_idle (h : nextPaired (s.tile tile.val) = none)
    (hn : (s.tile tile.val).matchStore.find? (fun m => m.paired.isSome && !m.held) = none) :
    exec (.steerTregEnter tile turn) s = .next s := by
  unfold nextPaired at h
  change execSteerTregEnter tile turn s = _
  simp only [execSteerTregEnter, h, find?_paired_unheld, hn, Option.bind_none]

theorem exec_steerTregEnter_waits (h : nextPaired (s.tile tile.val) = none)
    (hm : (s.tile tile.val).matchStore.find? (fun m => m.paired.isSome && !m.held) = some m) :
    exec (.steerTregEnter tile turn) s = .next (if 64 ≤ (s.tile tile.val).matchLive
      then (s.setTile tile.val ((s.tile tile.val).dropMatch m.serial)).tileFault tile.val 0x0E (faultInfo 0 0 m.tok.tag m.tok.chan) 0x0408
      else s.setTile tile.val (Tile.noteMatch { s.tile tile.val with
        matchStore := (s.tile tile.val).matchStore.map (fun x => if x.serial = m.serial then { x with held := true } else x) })) := by
  obtain ⟨hpaired, -⟩ : m.paired.isSome = true ∧ m.held = false := by simpa using List.find?_some hm
  obtain ⟨k, hk⟩ := Option.isSome_iff_exists.1 hpaired
  unfold nextPaired at h
  change execSteerTregEnter tile turn s = _
  simp only [execSteerTregEnter, h, find?_paired_unheld, hm, Option.bind_some, hk, Option.map_some]

end

/-- Settles O12: one cycle of a switch by what its inputs take, what its turn register holds and what its entry names, and the steering unit by what
has paired. -/
theorem canalMovesTokensAlongItsRota : Obligations.CanalMovesTokensAlongItsRota := by
  unfold Obligations.CanalMovesTokensAlongItsRota
  refine ⟨fun tile port turn flip s tok l h ht hp => ?one, fun tile port p2 turn flip f2 s a b l l2 ha hb ht hpa hpb => ?two,
    fun tile port turn flip s tok l h ht hoff => ?off, fun tile port turn flip more s h => ?nothing, fun s g port turn tok hload hr => ?unrouted,
    fun tile turn s x h he ht hload => ?inject, fun tile turn s h => exec_tregInject_other h,
    fun s g turn o ins tok hins h => hins ▸ fanOut_unnamed h, fun tile turn s m k h => ⟨fun hin => ?enter, fun hin => ?noInject⟩,
    fun tile turn s h hheld => ?idle, fun tile turn s m h hm => exec_steerTregEnter_waits h hm⟩
  case one =>
    rw [exec_tokenArrive_some h, switchCycle_within _ ht, List.map_nil, takeInputs_passes h hp]
    rfl
  case two =>
    have hpb' : passesIn { s with flights := l } tile.val p2.val turn.val (b.disturb f2) := hpb
    rw [exec_tokenArrive_some ha, switchCycle_within _ ht, List.map_cons, List.map_nil, takeInputs_passes ha hpa, takeInputs_passes hb hpb']
    rfl
  case off =>
    have ht' : turn.val < (({ s with flights := l } : State).tile tile.val).turns := ht
    rw [exec_tokenArrive_some h, switchCycle_within _ ht, List.map_nil, takeInputs_disabled h hoff, exec_tregInject_within ht']
    rfl
  case nothing =>
    cases hf : takeFlight (4 * tile.val + port.val) false s.flights with
    | none => exact exec_tokenArrive_none hf
    | some r => rw [exec_tokenArrive_some hf, switchCycle_beyond _ (h.resolve_left (by simp [hf]))]
  case unrouted =>
    rw [ingress_unrouted hload hr]
    refine ⟨fun hc => by rw [if_pos hc], fun hc hs => ?_, fun hc hs => ?_⟩
    · rw [if_neg (ne_false_of_eq_true hc), if_pos hs]
    · rw [if_neg (ne_false_of_eq_true hc), if_neg (ne_true_of_eq_false hs)]
  case inject => rw [exec_tregInject_within ht, injection_leaves h he hload]
  case enter =>
    refine ⟨_, (exec_steerTregEnter_moves h).trans (congrArg Host.Outcome.next (if_pos hin)), ?_, fun g hg => ?_, rfl⟩
    · simp only [State.updTile_tile_at, State.setTile_tile_at, if_true]
      rfl
    · simp only [State.updTile_tile_at, State.setTile_tile_at, if_neg (Ne.symm hg)]
  case noInject => rw [exec_steerTregEnter_moves h, if_neg (ne_true_of_eq_false hin)]
  case idle =>
    refine exec_steerTregEnter_idle h (List.find?_eq_none.2 fun m hm => ?_)
    cases hp : m.paired.isSome with
    | false => simp
    | true => simp [hheld m hm hp]

end Sys2Proof.Machine
end

section
/-! SUPPORT. The edge gates (R118, R119, R253 to R261, R269): when a gate acts on a token, what each operation does to its queue and what a window
turn injects, with the second statement of chapter 4 on them. -/

namespace Sys2Proof.Machine

/-! A token at a gate (R118, R119, R261). -/

section
variable {s : State} {tile : Fin 4096} {port : Fin 4} {flip : BitVec 304} {tok : Token} {b : Nat} {p : Plot} {l : List Flight}
  {mine : Nat → Bool} {act : State → Nat → Plot → Token → Nat → Nat → State}

theorem gate_tile (tile : Fin 4096) (port : Fin 4) : (4 * tile.val + port.val) / 4 = tile.val := by omega

theorem atGate_none (h : takeFlight (4 * tile.val + port.val) true s.flights = none) :
    s.atGate (4 * tile.val + port.val) flip mine act = s := by
  simp only [State.atGate, h]

theorem atGate_other (h : takeFlight (4 * tile.val + port.val) true s.flights = some (tok, l)) (hm : ¬ mine ((tok.disturb flip).qsel / 256 % 8) = true) :
    s.atGate (4 * tile.val + port.val) flip mine act = s := by
  simp only [State.atGate, h, Bool.eq_false_iff.2 hm, Bool.not_false, if_true]

theorem atGate_unowned (h : takeFlight (4 * tile.val + port.val) true s.flights = some (tok, l)) (hm : mine ((tok.disturb flip).qsel / 256 % 8) = true)
    (hg : ({ s with flights := l } : State).gatePlot (4 * tile.val + port.val) = none) :
    s.atGate (4 * tile.val + port.val) flip mine act = { s with flights := l } := by
  simp only [State.atGate, h, hm, hg, Bool.not_true, Bool.false_eq_true, if_false]

theorem atGate_loading (h : takeFlight (4 * tile.val + port.val) true s.flights = some (tok, l)) (hm : mine ((tok.disturb flip).qsel / 256 % 8) = true)
    (hg : (({ s with flights := l } : State).gatePlot (4 * tile.val + port.val)).isSome = true)
    (hload : ({ s with flights := l } : State).loadingAt tile.val = true) :
    s.atGate (4 * tile.val + port.val) flip mine act = ({ s with flights := l } : State).discardAt tile.val 1 := by
  obtain ⟨⟨b, p⟩, hg⟩ := Option.isSome_iff_exists.1 hg
  simp only [State.atGate, h, hm, hg, gate_tile, hload, Bool.not_true, Bool.false_eq_true, if_false, if_true]

theorem atGate_acts (h : AtGate s tile port flip tok b p l) (hm : mine (tok.qsel / 256 % 8) = true) :
    s.atGate (4 * tile.val + port.val) flip mine act =
      act { s with flights := l } b p tok (tileQuad tile.val) (gateQueue tile p tok) := by
  obtain ⟨⟨t, ht, rfl⟩, hg, hload⟩ := h
  simp only [State.atGate, ht, hm, hg, gate_tile, hload, Bool.not_true, Bool.false_eq_true, if_false]
  rfl

/-! APPEND and the reserved operations (R253, R261). -/

theorem exec_gateAppend_acts (h : AtGate s tile port flip tok b p l) (ho : tok.qsel / 256 % 8 = 0) : exec (.gateAppend tile port flip) s =
    .next (match ({ s with flights := l } : State).appendItem (tileQuad tile.val) (gateQueue tile p tok) (gateWriter (4 * tile.val + port.val))
        tok.header tok.payload with
      | (t, none) => t
      | (t, some c) => t.cistFault (tileQuad tile.val) c (gateQueue tile p tok) (gateWriter (4 * tile.val + port.val)) (some b)) := by
  change execGateAppend tile port flip s = _
  rw [execGateAppend, atGate_acts h]
  · exact congrArg Host.Outcome.next (if_pos ho)
  · simp [ho]

theorem exec_gateAppend_reserved (h : AtGate s tile port flip tok b p l) (ho : 4 ≤ tok.qsel / 256 % 8) : exec (.gateAppend tile port flip) s =
    .next (({ s with flights := l } : State).cistFault (tileQuad tile.val) 3 (gateQueue tile p tok)
      (gateWriter (4 * tile.val + port.val)) (some b)) := by
  change execGateAppend tile port flip s = _
  rw [execGateAppend, atGate_acts h]
  · exact congrArg Host.Outcome.next (if_neg (by omega))
  · simp [ho]

/-! SET_MODE (R259, R261). -/

theorem parkMoves_iff (s : State) (tile : Fin 4096) (p : Plot) (tok : Token) : parkMoves s tile p tok = true ↔
    bitB (tok.payload.toNat % 256) 1 ≠ ((s.cistern (tileQuad tile.val)).queue (gateQueue tile p tok)).park ∧
      ((!((s.cistern (tileQuad tile.val)).queue (gateQueue tile p tok)).pkts.isEmpty) = true ∨
        (s.cistern (tileQuad tile.val)).building.any (fun y => y.queue == gateQueue tile p tok) = true) := by
  simp only [parkMoves, Bool.and_eq_true, bne_iff_ne, Bool.not_and, Bool.or_eq_true, Bool.not_not]

theorem exec_gateSetMode_acts (h : AtGate s tile port flip tok b p l) (ho : tok.qsel / 256 % 8 = 1) : exec (.gateSetMode tile port flip) s =
    .next (if parkMoves s tile p tok = true then ({ s with flights := l } : State).cistFault (tileQuad tile.val) 4 (gateQueue tile p tok)
        (gateWriter (4 * tile.val + port.val)) (some b)
      else ({ s with flights := l } : State).updCist (tileQuad tile.val) (fun c => c.setQueue (gateQueue tile p tok)
        (withMode (c.queue (gateQueue tile p tok)) tok.payload.toNat))) := by
  change execGateSetMode tile port flip s = _
  rw [execGateSetMode, atGate_acts h]
  · exact congrArg Host.Outcome.next (if_congr (parkMoves_iff s tile p tok).symm rfl rfl)
  · exact beq_iff_eq.2 ho

/-! SET_CAP (R269). -/

theorem Lateral.table_updTable_same (x : Lateral) (t : Nat) (f : RTable → RTable) : (x.updTable t f).table t = f (x.table t) :=
  SMap.get_set_same ..

/-- Writing capacities from expert `f` on, none at 64 or above, changes those experts and no other. -/
theorem get_foldl_set_below {d : Nat} (f : Nat) (v : Nat → Nat) (m : SMap Nat) (n x : Nat) :
    SMap.get d ((List.range n).foldl (fun m j => if f + j < 64 then SMap.set d m (f + j) (v j) else m) m) x =
      if f ≤ x ∧ x < f + n ∧ x < 64 then v (x - f) else SMap.get d m x := by
  induction n with
  | zero => rw [if_neg (by omega)]; rfl
  | succ n ih =>
    rw [List.range_succ, List.foldl_append, List.foldl_cons, List.foldl_nil]
    by_cases hx : x = f + n ∧ x < 64
    · obtain ⟨rfl, hlt⟩ := hx
      rw [if_pos hlt, SMap.get_set_same, if_pos (by omega), Nat.add_sub_cancel_left]
    · have hsame : (f ≤ x ∧ x < f + (n + 1) ∧ x < 64) ↔ (f ≤ x ∧ x < f + n ∧ x < 64) := by omega
      rw [if_congr hsame rfl rfl, ← ih]
      split
      · exact SMap.get_set_other _ _ _ _ _ (by omega)
      · rfl

/-- The route table with the capacities that a payload gives (R269). -/
def RTable.withCaps (r : RTable) (n : Nat) : RTable :=
  { r with cap := (List.range 15).foldl (fun m j =>
      if fieldN n 0 16 + j < 64 then SMap.set 0xFFFF m (fieldN n 0 16 + j) (fieldN n (16 + 16 * j) 16) else m) r.cap }

theorem RTable.get_withCaps_cap (r : RTable) (n x : Nat) : SMap.get 0xFFFF (r.withCaps n).cap x =
    if fieldN n 0 16 ≤ x ∧ x < fieldN n 0 16 + 15 ∧ x < 64 then fieldN n (16 + 16 * (x - fieldN n 0 16)) 16 else SMap.get 0xFFFF r.cap x :=
  get_foldl_set_below (fieldN n 0 16) (fun j => fieldN n (16 + 16 * j) 16) r.cap 15 x

theorem exec_gateSetCap_writes (h : AtGate s tile port flip tok b p l) (ho : tok.qsel / 256 % 8 = 3)
    (hq : ((s.cistern (tileQuad tile.val)).queue (gateQueue tile p tok)).latOut = true) {e t : Nat}
    (hr : ({ s with flights := l } : State).routeOf b = some (e, t)) : exec (.gateSetCap tile port flip) s =
      .next (({ s with flights := l } : State).updLe e (fun x => x.updTable t (fun r => r.withCaps tok.payload.toNat))) := by
  change execGateSetCap tile port flip s = _
  rw [execGateSetCap, atGate_acts h]
  · refine congrArg Host.Outcome.next ((if_pos hq).trans ?_)
    simp only [hr]
    rfl
  · exact beq_iff_eq.2 ho

theorem exec_gateSetCap_nothing (h : AtGate s tile port flip tok b p l) (ho : tok.qsel / 256 % 8 = 3)
    (hn : ((s.cistern (tileQuad tile.val)).queue (gateQueue tile p tok)).latOut = false ∨ s.routeOf b = none) :
    exec (.gateSetCap tile port flip) s = .next { s with flights := l } := by
  change execGateSetCap tile port flip s = _
  rw [execGateSetCap, atGate_acts h]
  · refine congrArg Host.Outcome.next ?_
    cases hq : ((s.cistern (tileQuad tile.val)).queue (gateQueue tile p tok)).latOut with
    | false => exact if_neg (ne_true_of_eq_false hq)
    | true =>
      have hr : ({ s with flights := l } : State).routeOf b = none := hn.resolve_left (ne_false_of_eq_true hq)
      refine (if_pos hq).trans ?_
      simp only [hr]
  · exact beq_iff_eq.2 ho

end

/-! The fields of a token that a gate makes (R104 to R106, Table 4-1). -/

section
variable (fl tag ep q : Nat) (pay : BitVec 256)

theorem mkHeader_toNat : (mkHeader fl tag ep q).toNat = fl % 8 + tag % 512 * 2 ^ 3 + ep % 16 * 2 ^ 12 + q % 2 ^ 16 * 2 ^ 16 := by
  rw [mkHeader, BitVec.toNat_ofNat, Nat.mod_eq_of_lt (by omega)]

theorem mkToken_tag : (mkToken (mkHeader fl tag ep q) pay).tag = tag % 512 := by
  change fieldN (mkHeader fl tag ep q).toNat 3 9 = _
  rw [mkHeader_toNat, fieldN]
  omega

theorem mkToken_epoch : (mkToken (mkHeader fl tag ep q) pay).epoch = ep % 16 := by
  change fieldN (mkHeader fl tag ep q).toNat 12 4 = _
  rw [mkHeader_toNat, fieldN]
  omega

theorem mkToken_parked : (mkToken (mkHeader fl tag ep q) pay).parked = bitB q 15 := by
  change (mkHeader fl tag ep q).getLsbD 31 = _
  rw [← bitB_toNat, mkHeader_toNat, bitB, bitB]
  congr 1
  omega

theorem mkToken_crcOk (h : BitVec 32) : (mkToken h pay).crcOk = true := beq_self_eq_true _

end

/-! GATE_INJECT (R118, R256, R257, R259). -/

section
variable (s : State)

theorem State.countForced_flights (q n items : Nat) : (s.countForced q n items).flights = s.flights := by
  unfold State.countForced
  split <;> rfl

theorem State.takeItem_flights (q n : Nat) : (s.takeItem q n).flights = s.flights := by
  unfold State.takeItem
  dsimp only
  split
  · rfl
  · exact State.countForced_flights ..

theorem State.gateSend_flights (key : Nat) (hdr : BitVec 32) (pay : BitVec 256) :
    (s.gateSend key hdr pay).flights = s.flights ++ [⟨key, false, mkToken hdr pay⟩] := rfl

theorem State.gateSend_cist (key : Nat) (hdr : BitVec 32) (pay : BitVec 256) : (s.gateSend key hdr pay).cist = s.cist := rfl

end

/-- The header that a gate gives an item of queue `x` whose own header is `h`: a parked queue's item keeps its epoch and has the parked bit,
another goes in the epoch of the plot (R257, R259). -/
def CQueue.injectHeader (x : CQueue) (epoch : Nat) (h : BitVec 32) : BitVec 32 :=
  mkHeader ((if bitB x.deliv 4 then 1 else 0) + fieldN h.toNat 1 2 * 2) (fieldN h.toNat 3 9) (if x.park then fieldN h.toNat 12 4 else epoch)
    (x.deliv % 16 + (if x.park then 2 ^ 15 else 0))

section
variable (x : CQueue) (epoch : Nat) (h : BitVec 32) (pay : BitVec 256)

theorem injectHeader_tag : (mkToken (x.injectHeader epoch h) pay).tag = fieldN h.toNat 3 9 :=
  (mkToken_tag ..).trans (Nat.mod_mod _ _)

variable {x}

theorem injectHeader_epoch_plot (hx : x.park = false) : (mkToken (x.injectHeader epoch h) pay).epoch = epoch % 16 := by
  rw [CQueue.injectHeader, mkToken_epoch, hx]
  rfl

theorem injectHeader_epoch_parked (hx : x.park = true) : (mkToken (x.injectHeader epoch h) pay).epoch = fieldN h.toNat 12 4 := by
  rw [CQueue.injectHeader, mkToken_epoch, hx]
  exact Nat.mod_mod _ _

theorem injectHeader_parked (hx : x.park = true) : (mkToken (x.injectHeader epoch h) pay).parked = true := by
  rw [CQueue.injectHeader, mkToken_parked, if_pos hx, bitB, beq_iff_eq]
  omega

end

section
variable {s : State} {tile : Fin 4096} {port : Fin 4} {turn : Fin 256} {b i : Nat} {p : Plot}

theorem exec_gateInject_empty (hw : openWindow s tile port turn b p i) (hn : s.headItem (tileQuad tile.val) (streamQueue tile p i) = none) :
    exec (.gateInject tile port turn) s = .next (if ((s.cistern (tileQuad tile.val)).queue (streamQueue tile p i)).stall = true ∨
        ((s.cistern (tileQuad tile.val)).queue (streamQueue tile p i)).park = true then s
      else (s.idleItem (tileQuad tile.val)).gateSend (4 * tile.val + port.val)
        (mkHeader 0 511 p.epoch (((s.cistern (tileQuad tile.val)).queue (streamQueue tile p i)).deliv % 16)) 0) := by
  obtain ⟨hg, hs, hi⟩ := hw
  unfold streamQueue at hn ⊢
  change execGateInject tile port turn s = _
  simp only [execGateInject, hg, hs, hi, hn, if_true]

/-- The good head item of a queue that may give it goes on the link. -/
theorem exec_gateInject_item {k : Nat} {h : BitVec 32} {pay : BitVec 256} (hw : openWindow s tile port turn b p i)
    (hh : s.headItem (tileQuad tile.val) (streamQueue tile p i) = some (k, h, pay))
    (hue : s.headUe (tileQuad tile.val) (streamQueue tile p i) = none)
    (ha : ((s.cistern (tileQuad tile.val)).queue (streamQueue tile p i)).park = true →
      bitB (s.tile tile.val).regs.epochAccept (fieldN h.toNat 12 4) = true) :
    ∃ t, exec (.gateInject tile port turn) s = .next t ∧
      t.flights = s.flights ++ [⟨4 * tile.val + port.val, false,
        mkToken (((s.cistern (tileQuad tile.val)).queue (streamQueue tile p i)).injectHeader p.epoch h) pay⟩] ∧
      t.cist = (s.takeItem (tileQuad tile.val) (streamQueue tile p i)).cist := by
  refine ⟨(s.takeItem (tileQuad tile.val) (streamQueue tile p i)).gateSend (4 * tile.val + port.val)
    (((s.cistern (tileQuad tile.val)).queue (streamQueue tile p i)).injectHeader p.epoch h) pay, ?_,
    by rw [State.gateSend_flights, State.takeItem_flights], State.gateSend_cist ..⟩
  obtain ⟨hg, hs, hi⟩ := hw
  unfold streamQueue at hh hue ha ⊢
  have hgive : ¬ (((s.cistern (tileQuad tile.val)).queue (p.queueNum (tileQuad tile.val) (leAt p.plat (p.streamRec i + 0x16) 2))).park = true ∧
      (!bitB (s.tile tile.val).regs.epochAccept (fieldN h.toNat 12 4)) = true) := by
    rintro ⟨hpark, hno⟩
    rw [ha hpark] at hno
    cases hno
  change execGateInject tile port turn s = _
  simp only [execGateInject, hg, hs, hi, hh, hue, if_true, if_neg hgive]
  rfl

end

/-- Settles O14: what a gate does with a token it does not act on is the same for every operation; each operation then has its own effect on the
queue, and a window turn injects by what its queue holds. -/
theorem gateTokensActOnTheirQueue : Obligations.GateTokensActOnTheirQueue := by
  unfold Obligations.GateTokensActOnTheirQueue
  refine ⟨?append, ?reserved, ?setMode, ?modeBusy, ?flush, ?setCap, ?noCap, ?other0, ?unowned0, ?loading0, ?none0, ?other1, ?unowned1, ?loading1,
    ?none1, ?other2, ?unowned2, ?loading2, ?none2, ?other3, ?unowned3, ?loading3, ?none3, ?inject, ?injectParked, ?empty⟩
  case other0 | other1 | other2 | other3 =>
    exact fun tile port flip s tok l h ho => congrArg Host.Outcome.next (atGate_other h (by simpa using ho))
  case unowned0 | unowned1 | unowned2 | unowned3 =>
    exact fun tile port flip s tok l h ho hg => congrArg Host.Outcome.next (atGate_unowned h (by simpa using ho) hg)
  case loading0 | loading1 | loading2 | loading3 =>
    exact fun tile port flip s tok l h ho hg hload => congrArg Host.Outcome.next (atGate_loading h (by simpa using ho) hg hload)
  case none0 | none1 | none2 | none3 => exact fun tile port flip s h => congrArg Host.Outcome.next (atGate_none h)
  case append => exact fun tile port flip s tok b p l h ho => exec_gateAppend_acts h ho
  case reserved => exact fun tile port flip s tok b p l h ho => exec_gateAppend_reserved h ho
  case setMode => exact fun tile port flip s tok b p l h ho hm => by rw [exec_gateSetMode_acts h ho, if_neg (ne_true_of_eq_false hm)]
  case modeBusy => exact fun tile port flip s tok b p l h ho hm => by rw [exec_gateSetMode_acts h ho, if_pos hm]
  case flush => exact fun tile port flip s tok b p l h ho => congrArg Host.Outcome.next (atGate_acts h (beq_iff_eq.2 ho))
  case setCap =>
    intro tile port flip s tok b p l h ho hq e t hr
    refine ⟨_, exec_gateSetCap_writes h ho hq hr, fun j hj hlt => ?_, fun x hx => ?_, rfl⟩
    · rw [State.updLe_lateral_at, if_pos rfl, Lateral.table_updTable_same, RTable.get_withCaps_cap, if_pos (by omega), Nat.add_sub_cancel_left]
    · rw [State.updLe_lateral_at, if_pos rfl, Lateral.table_updTable_same, RTable.get_withCaps_cap, if_neg (by omega)]
      rfl
  case noCap => exact fun tile port flip s tok b p l h ho hn => exec_gateSetCap_nothing h ho hn
  case inject =>
    intro tile port turn s b i k p h pay hw hh hue hp
    obtain ⟨t, hexec, hflights, hcist⟩ := exec_gateInject_item hw hh hue (fun hp' => absurd hp' (ne_true_of_eq_false hp))
    exact ⟨t, _, hexec, hflights, rfl, injectHeader_epoch_plot _ _ _ hp, injectHeader_tag _ _ _ _, mkToken_crcOk _ _, hcist⟩
  case injectParked =>
    intro tile port turn s b i k p h pay hw hh hue hp ha
    obtain ⟨t, hexec, hflights, -⟩ := exec_gateInject_item hw hh hue (fun _ => ha)
    exact ⟨t, _, hexec, hflights, rfl, injectHeader_epoch_parked _ _ _ hp, injectHeader_parked _ _ _ hp, injectHeader_tag _ _ _ _, mkToken_crcOk _ _⟩
  case empty => exact fun tile port turn s b i p hw hn => exec_gateInject_empty hw hn

end Sys2Proof.Machine
end

section
/-! SUPPORT. The normal switch of a plot (R142 to R149, R187, R259), with the statement of chapter 5 on it. -/

namespace Sys2Proof.Machine

/-! Loading a section (R143). -/

section
variable (s : State) (p : Plot) (n e a : Nat)

theorem foldl_updTile_other {α : Type} {F : State → α → Tile → Tile} {key : α → Nat} {l : List α} {i : Nat} (h : ∀ x, x ∈ l → key x ≠ i) :
    (l.foldl (fun s x => s.updTile (key x) (F s x)) s).tile i = s.tile i := by
  induction l generalizing s with
  | nil => rfl
  | cons x l ih =>
    refine (ih _ fun y hy => h y (List.mem_cons_of_mem x hy)).trans ?_
    rw [State.updTile_tile_at, if_neg (h x List.mem_cons_self)]

/-- Loading a section changes tiles only. -/
theorem State.loadSection_eq : ∃ m, s.loadSection p n e a = { s with tiles := m } :=
  foldl_updTile_eq (fun s g t => t.loadImage s.mem (fieldKey g (p.sectField n 0x10 4)) (p.sectField n 2 1) e a) id p.tiles s

@[simp] theorem State.loadSection_block (i : Nat) : (s.loadSection p n e a).block i = s.block i := by
  obtain ⟨m, h⟩ := s.loadSection_eq p n e a
  rw [h]
  rfl

@[simp] theorem State.loadSection_mem : (s.loadSection p n e a).mem = s.mem := by
  obtain ⟨m, h⟩ := s.loadSection_eq p n e a
  rw [h]

variable {p} {g : Nat}

theorem State.loadSection_tile_other (hg : g ∉ p.tiles) : (s.loadSection p n e a).tile g = s.tile g :=
  foldl_updTile_other (F := fun s g t => t.loadImage s.mem (fieldKey g (p.sectField n 0x10 4)) (p.sectField n 2 1) e a) (key := id) s
    fun _ hx hxg => hg (hxg ▸ hx)

/-- The next section fires in its epoch and accepts what it may (R149 step 4). -/
theorem State.loadSection_tile (hg : g ∈ p.tiles) : ((s.loadSection p n e a).tile g).regs.epoch = e ∧
    ((s.loadSection p n e a).tile g).regs.epochAccept = a ∧ ((s.loadSection p n e a).tile g).fireStop = false :=
  foldl_updTile_all (F := fun s g t => t.loadImage s.mem (fieldKey g (p.sectField n 0x10 4)) (p.sectField n 2 1) e a)
    (P := fun t => t.regs.epoch = e ∧ t.regs.epochAccept = a ∧ t.fireStop = false) id p.tiles s (fun _ _ _ => ⟨rfl, rfl, rfl⟩) hg

/-- Loading a section keeps whatever of a tile a load of an image keeps. -/
theorem State.loadSection_keeps {P : Tile → Prop} (hP : ∀ t m k y, P t → P (t.loadImage m k y e a)) (h : P (s.tile g)) :
    P ((s.loadSection p n e a).tile g) :=
  foldl_updTile_keeps (F := fun s g t => t.loadImage s.mem (fieldKey g (p.sectField n 0x10 4)) (p.sectField n 2 1) e a)
    id p.tiles s (fun _ _ _ h => hP _ _ _ _ h) h

/-- Changing every tile of a list keeps whatever of a tile the change keeps. -/
theorem State.updTiles_keeps {P : Tile → Prop} {f : Tile → Tile} (hf : ∀ t, P t → P (f t)) (l : List Nat) (h : P (s.tile g)) :
    P ((s.updTiles l f).tile g) :=
  foldl_updTile_keeps (F := fun _ _ => f) id l s (fun _ _ => hf) h

/-- Changing every tile of a list gives its tiles what the change makes of what it keeps. -/
theorem State.updTiles_of_keeps {P Q : Tile → Prop} {f : Tile → Tile} (hf : ∀ t, P t → P (f t) ∧ Q (f t)) {l : List Nat} (hg : g ∈ l)
    (h : P (s.tile g)) : Q ((s.updTiles l f).tile g) := by
  induction l generalizing s with
  | nil => cases hg
  | cons x l ih =>
    by_cases hl : g ∈ l
    · refine ih (s.updTile x f) hl ?_
      rw [State.updTile_tile_at]
      split
      · exact (hf _ h).1
      · exact h
    · have hx : x = g := ((List.mem_cons.1 hg).resolve_right hl).symm
      have hs : s.updTiles (x :: l) f = (s.updTile x f).updTiles l f := rfl
      rw [hs, State.updTiles_tile_other _ _ _ _ hl, State.updTile_tile_at, if_pos hx]
      exact (hf _ h).2

end

theorem State.loadSection_state (s : State) (p : Plot) (n e a g : Nat) : ((s.loadSection p n e a).tile g).regs.state = (s.tile g).regs.state :=
  s.loadSection_keeps n e a (p := p) (P := fun t => t.regs.state = (s.tile g).regs.state) (fun _ _ _ _ h => h) (Eq.refl _)

/-- A tile that takes a state takes it again. -/
theorem TileRegs.become_become {r r' : TileRegs} {x : TileState} (h : r'.state = r.become x) : r'.become x = r.become x := by
  unfold TileRegs.become at h ⊢
  rw [h]
  split <;> simp_all

/-- The state that the tiles of a plot take, each from the one it had (R24). -/
theorem State.updTiles_become (s : State) {f : Tile → Tile} {x : TileState} (hf : ∀ t, (f t).regs.state = t.regs.become x) {l : List Nat} {g : Nat}
    (hg : g ∈ l) : ((s.updTiles l f).tile g).regs.state = (s.tile g).regs.become x :=
  State.updTiles_of_keeps s (P := fun t => t.regs.become x = (s.tile g).regs.become x) (Q := fun t => t.regs.state = (s.tile g).regs.become x)
    (fun t ht => ⟨(TileRegs.become_become (hf t)).trans ht, (hf t).trans ht⟩) hg (Eq.refl _)

theorem TileRegs.become_of_state {r r' : TileRegs} (h : r'.state = r.state) (x : TileState) : r'.become x = r.become x := by
  unfold TileRegs.become
  rw [h]

/-! Forces met by a switch. -/

/-- A force of a state that has the records of its block as they were is a force of the state before. -/
theorem forcedBy_of_regs {s s' t : State} {b c : Nat} (h : forcedBy s' t b c) (hf : (s'.block b).regs.fault = (s.block b).regs.fault)
    (hn : (s'.block b).regs.forceCnt = (s.block b).regs.forceCnt) : forcedBy s t b c := by
  unfold forcedBy at h ⊢
  rwa [hf, hn] at h

@[simp] theorem State.force_tiles (s : State) (b c st tile : Nat) (retry : Bool) : (s.force b c st tile retry).tiles = s.tiles := by
  obtain ⟨h, l, e⟩ := s.force_eq b c st tile retry
  rw [e]

@[simp] theorem State.force_mem (s : State) (b c st tile : Nat) (retry : Bool) : (s.force b c st tile retry).mem = s.mem := by
  obtain ⟨h, l, e⟩ := s.force_eq b c st tile retry
  rw [e]

theorem State.force_tile (s : State) (b c st tile g : Nat) (retry : Bool) : (s.force b c st tile retry).tile g = s.tile g := by
  rw [State.tile, State.force_tiles, State.tile]

/-- A change of a cistern changes the cisterns and zeroes the cells it frees (R250). -/
theorem State.updCist_eq (s : State) (q : Nat) (f : Cistern → Cistern) : ∃ c m, s.updCist q f = { s with cist := c, mem := m } := ⟨_, _, rfl⟩

/-- Unparking queues changes the cisterns and the cells they free only. -/
theorem State.unpark_eq (s : State) (p : Plot) : ∃ c m, s.unpark p = { s with cist := c, mem := m } :=
  foldl_rel (R := fun s t => ∃ c m, t = { s with cist := c, mem := m }) s (fun s => ⟨s.cist, s.mem, rfl⟩)
    (by rintro s _ _ ⟨c, m, rfl⟩ ⟨d, n, rfl⟩; exact ⟨d, n, rfl⟩) (fun s x => by
      split
      · exact s.updCist_eq _ _
      · exact ⟨s.cist, s.mem, rfl⟩) p.queues

/-! The commands of a switch. -/

section
variable {s : State} {lead : Fin 64} {p : Plot}

theorem exec_switchRequest_none (h : s.plot lead.val = none) : exec (.switchRequest lead) s = .next s := by
  change execSwitchRequest lead s = _
  simp only [execSwitchRequest, h]

theorem exec_switchRequest_some (h : s.plot lead.val = some p) : exec (.switchRequest lead) s =
    .next (if !p.endReport then s
      else if p.state = .running then (s.setPlot lead.val { p with state := .switching, endReport := false }).stopFiring p
      else if p.state = .yielding then s.setPlot lead.val { p with heldSwitch := true, endReport := false } else s) := by
  change execSwitchRequest lead s = _
  simp only [execSwitchRequest, h]

theorem exec_drainComplete_none (d : Nat) (h : s.plot lead.val = none) : exec (.drainComplete lead d) s = .next s := by
  change execDrainComplete lead d s = _
  simp only [execDrainComplete, h]

/-- The image load of a drained plot begins, its tokens discarded and counted (R143 step 5, R147). -/
def State.beginLoad (s : State) (b : Nat) (p : Plot) (d : Nat) : State :=
  ((s.updTiles p.tiles (fun t => { t with queues := [], matchStore := [], tregs := [] })).setPlot b
    { p with loading := true, leftover := decide (0 < leftTokens s p), drain := d }).updPlotRegs b
      (fun r => { r with discard := satAdd 32 r.discard (leftTokens s p) })

theorem exec_drainComplete_some (d : Nat) (h : s.plot lead.val = some p) : exec (.drainComplete lead d) s =
    .next (if p.state ≠ .switching ∨ p.loading ∨ !s.drained p then s else s.beginLoad lead.val p d) := by
  change execDrainComplete lead d s = _
  simp only [execDrainComplete, h]
  rfl

theorem beginLoad_facts (s : State) (b : Nat) (p : Plot) (d : Nat) :
    (s.beginLoad b p d).plot b = some { p with loading := true, leftover := decide (0 < leftTokens s p), drain := d } ∧
    ((s.beginLoad b p d).block b).regs.discard = satAdd 32 (s.block b).regs.discard (leftTokens s p) ∧
    (∀ g, g ∈ p.tiles → ((s.beginLoad b p d).tile g).queues = [] ∧ ((s.beginLoad b p d).tile g).matchStore = [] ∧
      ((s.beginLoad b p d).tile g).tregs = []) ∧ (s.beginLoad b p d).mem = s.mem := by
  refine ⟨?_, ?_, fun g hg => ?_, State.updTiles_mem ..⟩
  · rw [State.beginLoad, State.updPlotRegs_plot_at, State.setPlot_plot_at, if_pos rfl]
  · simp only [State.beginLoad, State.updPlotRegs_block_at, State.setPlot_block_at, State.updTiles_block, if_true]
  · exact State.updTiles_all _ p.tiles _ (fun t => t.queues = [] ∧ t.matchStore = [] ∧ t.tregs = []) (fun _ => ⟨rfl, rfl, rfl⟩) g hg

theorem exec_drainBound_none (h : s.plot lead.val = none) : exec (.drainBound lead) s = .next s := by
  change execDrainBound lead s = _
  simp only [execDrainBound, h]

theorem exec_drainBound_some (h : s.plot lead.val = some p) : exec (.drainBound lead) s =
    .next (if p.state = .switching ∧ !p.loading ∧ !s.drained p then s.force lead.val 0x01 0x0403 0 else s) := by
  change execDrainBound lead s = _
  simp only [execDrainBound, h]

theorem exec_imageLoadComplete_none (h : s.plot lead.val = none) : exec (.imageLoadComplete lead) s = .next s := by
  change execImageLoadComplete lead s = _
  simp only [execImageLoadComplete, h]

theorem exec_imageLoadComplete_some (h : s.plot lead.val = some p) : exec (.imageLoadComplete lead) s =
    .next (if p.state ≠ .switching ∨ !p.loading then s
      else if lastSect p then
        if s.parkedEmpty p then (s.unpark p).finishSwitch lead.val { p.holdEpoch with held := 0, heldBy := [] } true
        else (s.unpark p).force lead.val 0x04 0x0403 0
      else s.finishSwitch lead.val p.holdEpoch false) := by
  change execImageLoadComplete lead s = _
  simp only [execImageLoadComplete, h]
  rfl

end

/-! The end of a switch (R143 steps 7 and 8, R147 to R149). -/

/-- The section that a switch loads: after a LAST one the first (R149). -/
def Plot.nextSect (p : Plot) (last : Bool) : Nat := if last then leAt p.plat 8 1 else p.sectField p.sect 3 1

/-- A section loaded on the tiles of its plot, with its `END_REMAIN`. -/
def State.loadNext (s : State) (b : Nat) (p : Plot) (n e : Nat) : State :=
  (s.loadSection p n e (p.acceptOf n)).updPlotRegs b (fun r => { r with endRemain := p.sectField n 0xC 4 })

/-- A section loaded and the switch counted (Table 5-12). -/
def State.loadCounted (s : State) (b : Nat) (p : Plot) (n e : Nat) : State :=
  (s.loadNext b p n e).updPlotRegs b (fun r => { r with
    switchCnt := satAdd 48 r.switchCnt 1
    switchLast := min (233 + p.drain) 65535
    switchLastD := min p.drain 65535
    switchMax := max r.switchMax (min (233 + p.drain) 65535) })

/-- A plot that has switched to section `n` in epoch `e`. -/
def Plot.switched (p : Plot) (n e : Nat) : Plot :=
  { p with sect := n, carried := p.carryOn, epoch := e, accept := p.acceptOf n, loading := false, leftover := false, endReport := false }

section
variable (s : State) (b n e : Nat) {p : Plot}

theorem loadNext_block : ((s.loadNext b p n e).block b).regs = { (s.block b).regs with endRemain := p.sectField n 0xC 4 } := by
  simp [State.loadNext]

theorem loadCounted_tile (g : Nat) : (s.loadCounted b p n e).tile g = (s.loadSection p n e (p.acceptOf n)).tile g := by
  rw [State.loadCounted, State.updPlotRegs_tile, State.loadNext, State.updPlotRegs_tile]

theorem loadCounted_mem : (s.loadCounted b p n e).mem = s.mem := by
  rw [State.loadCounted, State.updPlotRegs_mem, State.loadNext, State.updPlotRegs_mem, State.loadSection_mem]

/-- What a counted switch of a plot that was `p` leaves, with `q` as the plot: the counters, the tiles of the plot in section `n` and epoch `e`,
everything outside the plot and memory as they were. -/
def SwitchedTo (s t : State) (b : Nat) (p q : Plot) (n e : Nat) : Prop :=
  t.plot b = some q ∧ switchCounted s t b p n ∧
    (∀ g, g ∈ p.tiles → (t.tile g).regs.epoch = e ∧ (t.tile g).regs.epochAccept = p.acceptOf n ∧ (t.tile g).fireStop = false) ∧
    (∀ g, g ∉ p.tiles → t.tile g = s.tile g) ∧ t.mem = s.mem

theorem loadCounted_switchedTo (q : Plot) : SwitchedTo s ((s.loadCounted b p n e).setPlot b q) b p q n e := by
  refine ⟨(State.setPlot_plot_at ..).trans (if_pos rfl), ?_, fun g hg => ?_, fun g hg => ?_, ?_⟩
  · simp [switchCounted, State.loadCounted, loadNext_block]
  · rw [State.setPlot_tile, loadCounted_tile]
    exact s.loadSection_tile n e (p.acceptOf n) hg
  · rw [State.setPlot_tile, loadCounted_tile]
    exact s.loadSection_tile_other n e (p.acceptOf n) hg
  · exact (State.setPlot_mem ..).trans (loadCounted_mem s b n e)

variable {s b n e} {last : Bool}

/-- The tiles of a plot that has switched may change in what the switch does not set. -/
theorem SwitchedTo.updTiles {t : State} {q : Plot} (h : SwitchedTo s t b p q n e) {f : Tile → Tile} (hf : ∀ t, (f t).regs.epoch = t.regs.epoch ∧
    (f t).regs.epochAccept = t.regs.epochAccept ∧ (f t).fireStop = t.fireStop) : SwitchedTo s (t.updTiles p.tiles f) b p q n e := by
  obtain ⟨hplot, hcount, htile, hother, hmem⟩ := h
  refine ⟨(State.updTiles_plot ..).trans hplot, ?_, fun g hg => ?_, fun g hg => ?_, (State.updTiles_mem ..).trans hmem⟩
  · rw [switchCounted, State.updTiles_block]
    exact hcount
  · refine State.updTiles_keeps _ (P := fun t => t.regs.epoch = e ∧ t.regs.epochAccept = p.acceptOf n ∧ t.fireStop = false)
      (fun t ht => ?_) p.tiles (htile g hg)
    obtain ⟨h1, h2, h3⟩ := hf t
    rwa [h1, h2, h3]
  · exact (State.updTiles_tile_other _ _ _ g hg).trans (hother g hg)

/-- Without a free epoch, or with more epochs held than the plat allows, the plot is forced (R149 step 3). -/
theorem finishSwitch_no_epoch (h : nextEpoch p.held p.epoch = none ∨ p.env 3 1 < heldCount p.held) :
    s.finishSwitch b p last = s.force b 0x03 0x0403 0 := by
  cases he : nextEpoch p.held p.epoch with
  | none => simp only [State.finishSwitch, he]
  | some e =>
    have hc : p.env 3 1 < heldCount p.held := by simpa [he] using h
    simp only [State.finishSwitch, he]
    rw [if_pos hc]

section
variable (he : nextEpoch p.held p.epoch = some e) (hc : heldCount p.held ≤ p.env 3 1)
include he hc

/-- Where tokens were left at the switch the plot is forced in the next section (R148). -/
theorem finishSwitch_leftover (hl : p.leftover = true) : s.finishSwitch b p last = State.force ((s.loadNext b p (p.nextSect last) e).setPlot b
      { p with sect := p.nextSect last, epoch := e, accept := p.acceptOf (p.nextSect last) }) b 0x02 0x0403 0 := by
  simp only [State.finishSwitch, he]
  rw [if_neg (Nat.not_lt.2 hc), if_pos hl]
  rfl

variable (hl : p.leftover = false)
include hl

theorem finishSwitch_last : s.finishSwitch b p true =
    State.endTask (((s.loadCounted b p (leAt p.plat 8 1) e).setPlot b { p.switched (leAt p.plat 8 1) e with state := .idle }).updTiles p.tiles
      (fun t => { t with regs := { t.regs with state := t.regs.become .idle } })) b := by
  simp only [State.finishSwitch, he]
  rw [if_neg (Nat.not_lt.2 hc), if_neg (ne_true_of_eq_false hl)]
  rfl

theorem finishSwitch_yielding (hy : p.heldYield = true) : s.finishSwitch b p false =
    State.examineEntries (((s.loadCounted b p (p.sectField p.sect 3 1) e).setPlot b
      { p.switched (p.sectField p.sect 3 1) e with state := .yielding, heldYield := false }).updTiles p.tiles (fun t => t.setYieldReq true)) p := by
  simp only [State.finishSwitch, he]
  rw [if_neg (Nat.not_lt.2 hc), if_neg (ne_true_of_eq_false hl), if_pos hy]
  rfl

theorem finishSwitch_running (hy : p.heldYield = false) : s.finishSwitch b p false =
    State.examineEntries ((s.loadCounted b p (p.sectField p.sect 3 1) e).setPlot b
      { p.switched (p.sectField p.sect 3 1) e with state := .running, heldYield := false }) p := by
  simp only [State.finishSwitch, he]
  rw [if_neg (Nat.not_lt.2 hc), if_neg (ne_true_of_eq_false hl), if_neg (ne_true_of_eq_false hy)]
  exact congrArg (fun y => State.examineEntries ((s.loadCounted b p (p.sectField p.sect 3 1) e).setPlot b
    { p.switched (p.sectField p.sect 3 1) e with state := .running, heldYield := y }) p) hy

end

/-- A loaded section leaves the states of the tiles (R24). -/
theorem loadCounted_state (g : Nat) : ((s.loadCounted b p n e).tile g).regs.state = (s.tile g).regs.state := by
  rw [loadCounted_tile, State.loadSection_state]

/-- Entries that fit are examined without effect (R41). -/
theorem examineEntries_fit (h : ∀ g, g ∈ p.tiles → (s.tile g).badEntry = none) : s.examineEntries p = s := by
  have hf : p.tiles.find? (fun g => (s.tile g).badEntry.isSome) = none := List.find?_eq_none.2 fun g hg => by rw [h g hg]; exact Bool.false_ne_true
  simp only [State.examineEntries, hf]

theorem examineEntries_bad {g i : Nat} (h : p.tiles.find? (fun g => (s.tile g).badEntry.isSome) = some g) (hb : (s.tile g).badEntry = some i) :
    s.examineEntries p = s.tileFault g 0x01 (faultInfo 0 i 0 0) 0x0403 := by
  simp only [State.examineEntries, h, hb, Option.getD_some]

end

/-- The next epoch is one of 16 and not held (R149 step 3). -/
theorem nextEpoch_free {held epoch e : Nat} (h : nextEpoch held epoch = some e) : e < 16 ∧ bitB held e = false := by
  obtain ⟨k, -, rfl⟩ := List.mem_map.1 (List.mem_of_find?_eq_some h)
  exact ⟨Nat.mod_lt _ (by decide), by simpa using List.find?_some h⟩

/-- Settles O17: each command of a switch by the state of its plot, the end of a switch by the epochs, the tokens left and the section it
leaves. -/
theorem plotSwitchesSections : Obligations.PlotSwitchesSections := by
  unfold Obligations.PlotSwitchesSections
  refine ⟨?request, fun lead s p h he hs => ?_, fun lead s p h hn => ?_, fun lead s h => exec_switchRequest_none h,
    fun d lead s p h hs hl hd => ?_, fun d lead s p h hn => ?_, fun d lead s h => exec_drainComplete_none d h,
    ?bound, fun lead s p h hn => ?_, fun lead s h => exec_drainBound_none h,
    fun lead s p h hs hl hn => ?_, fun lead s p h hs hl hn he => ?_, ?parked, fun lead s p h hn => ?_,
    fun lead s h => exec_imageLoadComplete_none h, ?next, ?last, fun s p => examineEntries_fit, fun s p g i => examineEntries_bad, ?leftover,
    fun held epoch e => nextEpoch_free, fun b s p last => finishSwitch_no_epoch⟩
  case request =>
    intro lead s p h he hs
    obtain ⟨fplot, -, fstop, fother, fmem⟩ := stopFiring_frame (s.setPlot lead.val { p with state := .switching, endReport := false }) p
    refine ⟨_, ?_, (fplot _).trans ((State.setPlot_plot_at ..).trans (if_pos rfl)), fstop, fother, fmem⟩
    rw [exec_switchRequest_some h, if_neg (by simp [he]), if_pos hs]
  · rw [exec_switchRequest_some h, if_neg (by simp [he]), if_neg (by simp [hs]), if_pos hs]
  · rw [exec_switchRequest_some h]
    obtain he | ⟨hr, hy⟩ := hn
    · rw [if_pos (by simp [he])]
    · rw [if_neg hr, if_neg hy, ite_self]
  · refine ⟨_, ?_, beginLoad_facts s lead.val p d⟩
    rw [exec_drainComplete_some d h, if_neg (by simp [hs, hl, hd])]
  · rw [exec_drainComplete_some d h, if_pos (by simpa using hn)]
  case bound =>
    intro lead s p h hs hl hd
    refine ⟨_, ?_, s.force_forcedBy lead.val 0x01 0x0403 0 false p h lead.isLt (by simp [hs]) (by simp [hs]), s.force_tiles .., s.force_mem ..⟩
    rw [exec_drainBound_some h, if_pos (by simp [hs, hl, hd])]
  · rw [exec_drainBound_some h, if_neg]
    rintro ⟨hs, hl, hd⟩
    simp_all
  · rw [exec_imageLoadComplete_some h, if_neg (by simp [hs, hl]), if_neg (by simp [hn])]
  · rw [exec_imageLoadComplete_some h, if_neg (by simp [hs, hl]), if_pos hn, if_pos he]
  case parked =>
    intro lead s p h hs hl hn he
    obtain ⟨c, m, hu⟩ := s.unpark_eq p
    refine ⟨(s.unpark p).force lead.val 0x04 0x0403 0, ?_, ?_⟩
    · rw [exec_imageLoadComplete_some h, if_neg (by simp [hs, hl]), if_pos hn, if_neg (ne_true_of_eq_false he)]
    · rw [hu]
      exact forcedBy_of_regs (State.force_forcedBy { s with cist := c, mem := m } lead.val 0x04 0x0403 0 false p h lead.isLt (by simp [hs]) (by simp [hs])) rfl rfl
  · rw [exec_imageLoadComplete_some h, if_pos (by simpa using hn)]
  case next =>
    intro b e s p he hc hl
    cases hy : p.heldYield with
    | true => exact ⟨_, finishSwitch_yielding he hc hl hy, (loadCounted_switchedTo s b _ e _).updTiles fun _ => ⟨rfl, rfl, rfl⟩⟩
    | false => exact ⟨_, finishSwitch_running he hc hl hy, loadCounted_switchedTo s b _ e _⟩
  case last =>
    intro b e s p he hc hl
    obtain ⟨hplot, hcount, htile, hother, hmem⟩ := (loadCounted_switchedTo s b (leAt p.plat 8 1) e (p := p)
      { p.switched (leAt p.plat 8 1) e with state := .idle }).updTiles
        (f := fun t => { t with regs := { t.regs with state := t.regs.become .idle } }) (fun _ => ⟨rfl, rfl, rfl⟩)
    refine ⟨_, finishSwitch_last he hc hl, hplot, hcount, fun g hg => ?_, hother, hmem⟩
    obtain ⟨hepoch, -, hstop⟩ := htile g hg
    refine ⟨hepoch, ?_, hstop⟩
    rw [State.updTiles_become _ (fun _ => rfl) hg, State.setPlot_tile]
    exact TileRegs.become_of_state (loadCounted_state g) .idle
  case leftover =>
    intro b e s p last he hc hl hs
    rw [finishSwitch_leftover he hc hl]
    refine ⟨?_, ?_, fun g hg => ?_⟩
    · refine forcedBy_of_regs (State.force_forcedBy _ b.val 0x02 0x0403 0 false _ ((State.setPlot_plot_at ..).trans (if_pos rfl)) b.isLt
        (by simp [hs]) (by simp [hs])) ?_ ?_ <;> simp [loadNext_block]
    · rw [State.force_mem]
      exact s.loadSection_mem ..
    · rw [State.force_tile]
      exact (s.loadSection_tile _ _ _ hg).1

end Sys2Proof.Machine
end

section
/-! SUPPORT. The forced switch of a plot (R149 to R151, R153, R155, R156, R276), with the statement of chapter 5 on it. -/

namespace Sys2Proof.Machine

/-! A force (R150 step 1). -/

section
variable {s : State} {b : Nat} {p : Plot} (c st tile : Nat) (retry : Bool)

theorem force_none (h : s.plot b = none) : s.force b c st tile retry = s := by
  simp only [State.force, h]

theorem force_free (h : s.plot b = some p) (hs : p.state = .free) : s.force b c st tile retry = s := by
  simp only [State.force, h]
  exact if_pos hs

/-- The fault record of a block with a fault raised: the first cause stands, with its tile (Table 2-17). -/
def PlotRegs.raise (r : PlotRegs) (cause tile : Nat) : PlotRegs :=
  { r with faultTile := if r.fault.valid then r.faultTile else tile, fault := r.fault.raise cause 0 }

/-- A plot that a force makes FORCING. -/
def Plot.forced (p : Plot) (cause status : Nat) (retry : Bool) : Plot :=
  { p with
    state := .forcing, loading := false, leftover := false, endReport := false, heldSwitch := false, heldYield := false, saveArea := []
    forceCause := cause, forceStatus := status, forceRetry := retry }

theorem force_forcing (h : s.plot b = some p) (hs : p.state = .forcing) :
    s.force b c st tile retry = (s.signal (16 + b)).updPlotRegs b (fun r => r.raise c tile) := by
  simp only [State.force, h]
  rw [if_neg (by simp [hs]), if_pos hs]
  rfl

theorem force_live (h : s.plot b = some p) (h1 : p.state ≠ .free) (h2 : p.state ≠ .forcing) : s.force b c st tile retry =
    (((s.signal (16 + b)).updPlotRegs b (fun r => r.raise c tile)).updPlotRegs b (fun r => { r with forceCnt := satAdd 32 r.forceCnt 1 })).setPlot b
      (p.forced c (s.forcedStatus p c st) ((retry && !s.saving p) || p.forceRetry)) := by
  simp only [State.force, h]
  rw [if_neg h1, if_neg h2]
  rfl

/-- A force that meets a force only sets `MULTI` (R151). -/
theorem force_forcing_facts {c1 : Nat} {m : Bool} {info : BitVec 64} (h : s.plot b = some p) (hs : p.state = .forcing)
    (hf : (s.block b).regs.fault = ⟨c1, true, m, info⟩) :
    ((s.force b c st tile retry).block b).regs.fault = ⟨c1, true, true, info⟩ ∧ (s.force b c st tile retry).plot b = some p := by
  rw [force_forcing c st tile retry h hs]
  refine ⟨?_, ?_⟩
  · rw [State.updPlotRegs_block_at, if_pos rfl, State.signal_block]
    change (s.block b).regs.fault.raise c 0 = _
    rw [hf]
    rfl
  · rw [State.updPlotRegs_plot_at, State.signal_plot]
    exact h

theorem saving_iff : s.saving p = true ↔ p.state = .yielding ∧ ∀ g, g ∈ p.tiles → (s.tile g).regs.yieldDone = true := by
  rw [State.saving, Bool.and_eq_true, beq_iff_eq, List.all_eq_true]

theorem forcedStatus_of_saving (h : s.saving p = true) (hc : c ≠ 0x07) : s.forcedStatus p c st = 0x0402 := if_pos ⟨h, hc⟩

theorem forcedStatus_of_not_saving (h : s.saving p = false) : s.forcedStatus p c st = st :=
  if_neg fun hs => Bool.false_ne_true (h.symm.trans hs.1)

/-- The plot that a force leaves: one that meets the save of the task gives it `PREEMPTED`, but where the save itself is too large (R153). -/
theorem force_live_plot (h : s.plot b = some p) (h1 : p.state ≠ .free) (h2 : p.state ≠ .forcing) :
    ∃ q, (s.force b c st tile retry).plot b = some q ∧ q.state = .forcing ∧ q.forceCause = c ∧ q.loading = false ∧ q.task = p.task ∧
      (p.state = .yielding → (∀ g, g ∈ p.tiles → (s.tile g).regs.yieldDone = true) → c ≠ 0x07 → q.forceStatus = 0x0402 ∧ q.forceRetry = p.forceRetry) ∧
      (p.state ≠ .yielding ∨ (∃ g, g ∈ p.tiles ∧ (s.tile g).regs.yieldDone = false) → q.forceStatus = st ∧ q.forceRetry = (retry || p.forceRetry)) := by
  rw [force_live c st tile retry h h1 h2]
  refine ⟨_, (State.setPlot_plot_at ..).trans (if_pos rfl), rfl, rfl, rfl, rfl, fun hy hd hc => ?_, fun hn => ?_⟩
  · have hs : s.saving p = true := saving_iff.2 ⟨hy, hd⟩
    exact ⟨forcedStatus_of_saving c st hs hc, by simp [Plot.forced, hs]⟩
  · have hs : s.saving p = false := by
      rw [← Bool.not_eq_true, saving_iff]
      rintro ⟨hy, hd⟩
      obtain hn | ⟨g, hg, hn⟩ := hn
      · exact hn hy
      · exact Bool.false_ne_true (hn.symm.trans (hd g hg))
    exact ⟨forcedStatus_of_not_saving c st hs, by simp [Plot.forced, hs]⟩

/-- A force of a plot that is neither `FREE` nor `FORCING`. -/
theorem force_forcedBy_frame {lead : Fin 64} (h : s.plot lead.val = some p) (h1 : p.state ≠ .free) (h2 : p.state ≠ .forcing) :
    forcedBy s (s.force lead.val c st tile retry) lead.val c ∧ (s.force lead.val c st tile retry).tiles = s.tiles ∧
      (s.force lead.val c st tile retry).mem = s.mem :=
  ⟨s.force_forcedBy lead.val c st tile retry p h lead.isLt h1 h2, s.force_tiles .., s.force_mem ..⟩

end

/-! The commands that force a plot, and the `RELEASE` bit. -/

section
variable {s : State} {lead : Fin 64} {p : Plot}

theorem exec_plotForce_none (h : s.plot lead.val = none) : exec (.plotForce lead) s = .next s := by
  change execPlotForce lead s = _
  simp only [execPlotForce, h]

theorem exec_plotForce_some (h : s.plot lead.val = some p) : exec (.plotForce lead) s =
    .next (if p.state = .free ∨ p.state = .filling then s else s.force lead.val 0x20 0x0403 0) := by
  change execPlotForce lead s = _
  simp only [execPlotForce, h]

theorem exec_stepLimit_none (h : s.plot lead.val = none) : exec (.stepLimit lead) s = .next s := by
  change execStepLimit lead s = _
  simp only [execStepLimit, h]

theorem exec_stepLimit_some (h : s.plot lead.val = some p) : exec (.stepLimit lead) s =
    .next (if p.task.isSome then s.force lead.val 0x08 0x0403 0 else s) := by
  change execStepLimit lead s = _
  simp only [execStepLimit, h]

theorem exec_yieldBound_none (h : s.plot lead.val = none) : exec (.yieldBound lead) s = .next s := by
  change execYieldBound lead s = _
  simp only [execYieldBound, h]

theorem exec_yieldBound_some (h : s.plot lead.val = some p) : exec (.yieldBound lead) s =
    .next (if p.state = .yielding ∧ ∃ g, g ∈ p.tiles ∧ (s.tile g).regs.yieldDone = false then s.force lead.val 0x05 0x0403 0 else s) := by
  change execYieldBound lead s = _
  simp only [execYieldBound, h, any_not_yieldDone_iff]

theorem exec_plotReleaseBit_none (on : Bool) (h : s.plot lead.val = none) : exec (.plotReleaseBit lead on) s = .next s := by
  change execPlotReleaseBit lead on s = _
  simp only [execPlotReleaseBit, h]

theorem exec_plotReleaseBit_some (on : Bool) (h : s.plot lead.val = some p) : exec (.plotReleaseBit lead on) s =
    .next (if p.state = .free ∨ p.state = .filling then s else s.setPlot lead.val { p with release := on }) := by
  change execPlotReleaseBit lead on s = _
  simp only [execPlotReleaseBit, h]

theorem exec_forcedSwitch_none (h : s.plot lead.val = none) : exec (.forcedSwitch lead) s = .next s := by
  change execForcedSwitch lead s = _
  simp only [execForcedSwitch, State.forcedSwitch, h]

/-- The plot reset and the event in the field book, with the end of the task where there is one (R150 steps 2 to 7). -/
def State.endForced (s : State) (b : Nat) (p : Plot) : State :=
  if p.task.isSome then ((s.resetPlot b p).postForced b p).abortForced b p else (s.resetPlot b p).postForced b p

theorem exec_forcedSwitch_some (h : s.plot lead.val = some p) : exec (.forcedSwitch lead) s =
    .next (if p.state ≠ .forcing then s
      else if p.release then (s.endForced lead.val p).dropForced lead.val p.forceStatus else (s.endForced lead.val p).degrade lead.val) := by
  change execForcedSwitch lead s = _
  simp only [execForcedSwitch, State.forcedSwitch, h]
  rfl

end

/-! The reset of a plot (R150 steps 2 to 6). -/

/-- Serving a sluice engine changes the engines only. -/
theorem State.slServe_eq (e f : Nat) (s : State) : ∃ x, State.slServe e f s = { s with engines := x } := by
  induction f generalizing s with
  | zero => exact ⟨s.engines, rfl⟩
  | succ f ih =>
    unfold State.slServe
    dsimp only
    split
    · exact ⟨_, rfl⟩
    · split
      · exact ⟨_, rfl⟩
      · next y c _ =>
        obtain ⟨x, hx⟩ := ih (s.setEngine e (s.slTake y c))
        exact ⟨x, hx⟩

section
variable (s : State) (b : Nat) (p : Plot)

theorem State.cancelStreams_eq : ∃ x, s.cancelStreams b = { s with engines := x } :=
  foldl_rel (R := fun s t => ∃ x, t = { s with engines := x }) s (fun s => ⟨s.engines, rfl⟩)
    (by rintro s _ _ ⟨x, rfl⟩ ⟨y, rfl⟩; exact ⟨y, rfl⟩) (fun s e => by
      obtain ⟨x, hx⟩ := State.slServe_eq e.1 33 (s.updEngine e.1 (fun x => x.cancel b))
      exact ⟨x, hx⟩) s.engines

theorem State.cancelGathers_eq : ∃ x, s.cancelGathers b = { s with les := x } :=
  foldl_rel (R := fun s t => ∃ x, t = { s with les := x }) s (fun s => ⟨s.les, rfl⟩)
    (by rintro s _ _ ⟨x, rfl⟩ ⟨y, rfl⟩; exact ⟨y, rfl⟩) (fun _ _ => ⟨_, rfl⟩) [0, 1, 2, 3]

/-- One queue of a plot flushed, what it held counted as discarded. -/
def State.flushQueue (s : State) (b : Nat) (x : Nat × Nat) : State :=
  let s1 := s.updCist x.1 (fun c => c.flush x.2 true)
  s1.updPlotRegs b (fun g => { g with discard := satAdd 32 g.discard ((s.cistern x.1).linked x.2 - (s1.cistern x.1).linked x.2) })

theorem State.flushQueue_endRemain (x : Nat × Nat) : ((s.flushQueue b x).block b).regs.endRemain = (s.block b).regs.endRemain := by
  rw [State.flushQueue, State.updPlotRegs_block_at, if_pos rfl, State.updCist_block]

/-- Flushing the queues of a plot changes the cisterns, the cells they free, and the count of what its block has discarded. -/
theorem State.flushPlot_eq : (∃ c m l, s.flushPlot b p = { s with cist := c, mem := m, blocks := l }) ∧
    ((s.flushPlot b p).block b).regs.endRemain = (s.block b).regs.endRemain :=
  foldl_rel (f := fun s x => s.flushQueue b x) (R := fun s t => (∃ c m l, t = { s with cist := c, mem := m, blocks := l }) ∧
      (t.block b).regs.endRemain = (s.block b).regs.endRemain) s (fun s => ⟨⟨s.cist, s.mem, s.blocks, rfl⟩, rfl⟩)
    (by rintro s _ _ ⟨⟨c, m, l, rfl⟩, h⟩ ⟨⟨d, n, k, rfl⟩, h'⟩; exact ⟨⟨d, n, k, rfl⟩, h'.trans h⟩)
    (fun s x => ⟨⟨_, _, _, rfl⟩, s.flushQueue_endRemain b x⟩) _

/-- A plot emptied by a forced switch: no token on its links, no context or token in its tiles, its queues flushed and its engine commands
cancelled (R150, R156, R184, R320). -/
def State.emptied (s : State) (b : Nat) (p : Plot) : State :=
  let s0 := if lastSect p then s.unpark p else s
  ((((({ s0 with flights := s0.flights.filter (fun f => !p.tiles.contains (f.dst / 4)) } : State).updTiles p.tiles (fun t => t.clearFor p)).updPlotRegs b
    (fun r => { r with
      discard := satAdd 32 r.discard (leftTokens s p + s.inflight p), endRemain := p.sectField (leAt p.plat 8 1) 0xC 4 })).flushPlot b
        p).cancelStreams b).cancelGathers b

/-- The epoch in which a forced switch leaves its plot: the one a switch would take (R149, R150). -/
def State.freshEpoch (s : State) (p : Plot) : Nat :=
  (nextEpoch (if lastSect p = true ∧ s.parkedEmpty p = true then 0 else p.holdEpoch.held) p.epoch).getD 0

/-- A plot reset to its first section in an epoch (R150). -/
def Plot.afresh (p : Plot) (e : Nat) : Plot :=
  { p.unforce with
    state := .idle, sect := leAt p.plat 8 1, epoch := e, held := 0, heldBy := [], accept := 0, endReport := false, heldSwitch := false
    heldYield := false, yieldReq := false, loading := false, leftover := false, carried := [], kvIn := [], kvOut := [] }

theorem resetPlot_eq : s.resetPlot b p =
    ((s.emptied b p).loadSection p (leAt p.plat 8 1) (s.freshEpoch p) 0).setPlot b (p.afresh (s.freshEpoch p)) := by
  have he : s.freshEpoch p = (nextEpoch (if lastSect p && s.parkedEmpty p then 0 else p.holdEpoch.held) p.epoch).getD 0 := by
    rw [State.freshEpoch]
    simp only [Bool.and_eq_true]
  rw [he]
  rfl

theorem emptied_facts : (∀ x, x ∈ (s.emptied b p).flights → ¬ (x.dst / 4 ∈ p.tiles)) ∧ (s.emptied b p).fab = s.fab ∧
    ((s.emptied b p).block b).regs.endRemain = p.sectField (leAt p.plat 8 1) 0xC 4 ∧
    (∀ g, g ∈ p.tiles → ((s.emptied b p).tile g).ctxs = [] ∧ ((s.emptied b p).tile g).queues = [] ∧ ((s.emptied b p).tile g).halted = false) := by
  obtain ⟨c0, m0, h0⟩ : ∃ c m, (if lastSect p then s.unpark p else s) = { s with cist := c, mem := m } := by
    split
    · exact s.unpark_eq p
    · exact ⟨s.cist, s.mem, rfl⟩
  simp only [State.emptied, h0]
  generalize hu : (State.updPlotRegs (State.updTiles _ p.tiles (fun t => t.clearFor p)) b _) = u
  obtain ⟨⟨c, m, l, hf⟩, hr⟩ := u.flushPlot_eq b p
  obtain ⟨x, hx⟩ := (u.flushPlot b p).cancelStreams_eq b
  obtain ⟨y, hy⟩ := ((u.flushPlot b p).cancelStreams b).cancelGathers_eq b
  have hflights : u.flights = s.flights.filter (fun f => !p.tiles.contains (f.dst / 4)) := by
    rw [← hu, State.updPlotRegs_flights, State.updTiles_flights]
  have hfab : u.fab = s.fab := by
    rw [← hu, State.updPlotRegs_fab, State.updTiles_fab]
  have hend : (u.block b).regs.endRemain = p.sectField (leAt p.plat 8 1) 0xC 4 := by
    rw [← hu, State.updPlotRegs_block_at, if_pos rfl]
  have htile : ∀ g, g ∈ p.tiles → (u.tile g).ctxs = [] ∧ (u.tile g).queues = [] ∧ (u.tile g).halted = false := fun g hg => by
    rw [← hu, State.updPlotRegs_tile]
    exact State.updTiles_all _ p.tiles _ (fun t => t.ctxs = [] ∧ t.queues = [] ∧ t.halted = false) (fun _ => ⟨rfl, rfl, rfl⟩) g hg
  rw [hy, hx]
  refine ⟨fun z hz => ?_, ?_, hr.trans hend, ?_⟩
  · have hz' : z ∈ u.flights := by rwa [hf] at hz
    rw [hflights] at hz'
    simpa using (List.mem_filter.1 hz').2
  · rw [hf]
    exact hfab
  · rw [hf]
    exact htile

/-- An image loaded leaves the contexts and the queues of its tile, and a tile that runs. -/
theorem loadImage_keeps (t : Tile) (m : Mem) (k period epoch accept : Nat) : (t.loadImage m k period epoch accept).ctxs = t.ctxs ∧
    (t.loadImage m k period epoch accept).queues = t.queues ∧ (t.loadImage m k period epoch accept).halted = t.halted := by
  simp only [Tile.loadImage, and_self]

theorem resetPlot_fab : (s.resetPlot b p).fab = s.fab := by
  obtain ⟨-, hfab, -⟩ := emptied_facts s b p
  obtain ⟨m, hm⟩ := (s.emptied b p).loadSection_eq p (leAt p.plat 8 1) (s.freshEpoch p) 0
  rw [resetPlot_eq, State.setPlot_fab, hm]
  exact hfab

theorem resetPlot_facts : (s.resetPlot b p).plot b = some (p.afresh (s.freshEpoch p)) ∧
    (∀ x, x ∈ (s.resetPlot b p).flights → ¬ (x.dst / 4 ∈ p.tiles)) ∧
    ((s.resetPlot b p).block b).regs.endRemain = p.sectField (leAt p.plat 8 1) 0xC 4 ∧
    (∀ g, g ∈ p.tiles → ((s.resetPlot b p).tile g).ctxs = [] ∧ ((s.resetPlot b p).tile g).queues = [] ∧
      ((s.resetPlot b p).tile g).halted = false) := by
  obtain ⟨hflights, -, hend, htile⟩ := emptied_facts s b p
  rw [resetPlot_eq]
  refine ⟨(State.setPlot_plot_at ..).trans (if_pos rfl), ?_, ?_, fun g hg => ?_⟩
  · obtain ⟨m, hm⟩ := (s.emptied b p).loadSection_eq p (leAt p.plat 8 1) (s.freshEpoch p) 0
    rw [State.setPlot_flights, hm]
    exact hflights
  · rw [State.setPlot_block_at, if_pos rfl, State.loadSection_block]
    exact hend
  · rw [State.setPlot_tile]
    refine State.loadSection_keeps _ _ _ _ (P := fun t => t.ctxs = [] ∧ t.queues = [] ∧ t.halted = false) (fun t m k y h => ?_) (htile g hg)
    obtain ⟨hctxs, hqueues, hhalted⟩ := loadImage_keeps t m k y (s.freshEpoch p) 0
    rwa [hctxs, hqueues, hhalted]

end

/-! The end of a forced switch (R150 step 7, R276). -/

section
variable {s : State} {b : Nat} {p : Plot}

theorem degrade_of_no_agreement (h : s.fab.agree = []) : s.degrade b = s := by
  unfold State.degrade
  rw [h]
  split <;> rfl

/-- The record of a forced switch without a task changes the field book only. -/
theorem postForced_eq (h : p.task = none) : ∃ k, s.postForced b p = { s with book := k } := by
  rw [State.postForced, h]
  obtain ⟨k, hk, -⟩ := s.post_quiet 0x03 p.forceCause p.parcel b _
  exact ⟨k, hk⟩

theorem endForced_quiet {lead : Fin 64} (h : s.plot lead.val = some p) (hq : quietForce s p) :
    exec (.forcedSwitch lead) s = .next ((s.resetPlot lead.val p).postForced lead.val p) ∧
      ((s.resetPlot lead.val p).postForced lead.val p).plot lead.val = (s.resetPlot lead.val p).plot lead.val := by
  obtain ⟨hs, ht, hr, ha⟩ := hq
  obtain ⟨k, hk⟩ := postForced_eq (s := s.resetPlot lead.val p) (b := lead.val) ht
  have he : s.endForced lead.val p = (s.resetPlot lead.val p).postForced lead.val p := if_neg (by simp [ht])
  refine ⟨?_, by rw [hk]; rfl⟩
  rw [exec_forcedSwitch_some h, if_neg (not_not_intro hs), if_neg (ne_true_of_eq_false hr), he, degrade_of_no_agreement]
  rw [hk]
  exact (congrArg Fab.agree (resetPlot_fab s lead.val p)).trans ha

/-- A task that is not to run again ends with every request of its batch (R28, R150). -/
theorem abortTask_ends {k : Task} (status : Nat) (retry : Bool) (h : s.plot b = some p) (hk : p.task = some k)
    (hr : ¬ (retry = true ∧ k.retried = false)) (hd : status ≠ 0x0407) : s.abortTask b status retry =
      (((((s.setPlot b { p with task := none, kvIn := [], kvOut := [], redo := none }).latStepEnd b true).endSlots k.slots status)).stepReport b p k).settle := by
  have ha : ((retry && !k.retried) || (decide (status = 0x0407) && !s.noDegraded p.model)) = false := by
    rw [decide_eq_false hd, Bool.false_and, Bool.or_false, Bool.and_eq_false_iff]
    by_contra hn
    exact hr (by simpa using hn)
  simp only [State.abortTask, h, hk, ha, Bool.false_eq_true, if_false]

end

/-- Settles O18: each command that forces a plot by the state of the plot, and the forced switch by what the reset, the end of the task and the
release leave. -/
theorem plotIsForced : Obligations.PlotIsForced := by
  unfold Obligations.PlotIsForced
  refine ⟨fun lead s p h h1 h2 h3 => ?_, fun lead s p h hs => ?_, fun lead s p h hs => ?_, fun lead s h => exec_plotForce_none h,
    fun lead s p h ht h1 h2 => ?_, fun lead s p h ht _ => ?_, fun lead s p h ht => ?_, fun lead s h => exec_stepLimit_none h,
    fun lead s p h hs hd => ?_, fun lead s p h hn => ?_, fun lead s h => exec_yieldBound_none h,
    fun on lead s p h h1 h2 => ?_, fun on lead s p h hs => ?_, fun on lead s h => exec_plotReleaseBit_none on h,
    fun lead s p h hs hr => ?_, fun lead s p h hs hr => ?_, fun lead s p h hq => ?_, fun lead s p h hs => ?_, fun lead s h => exec_forcedSwitch_none h,
    fun b s p => resetPlot_facts s b p, fun b s p k h hk hr hd => abortTask_ends _ _ h hk hr hd,
    fun s p b c1 c2 st tile info m retry h hs hf => force_forcing_facts c2 st tile retry h hs hf, fun s b c st tile retry h => ?_,
    fun s p b c st tile retry h h1 h2 => force_live_plot c st tile retry h h1 h2⟩
  · refine ⟨_, ?_, force_forcedBy_frame 0x20 0x0403 0 false h h1 h3⟩
    rw [exec_plotForce_some h, if_neg (not_or.2 ⟨h1, h2⟩)]
  · rw [exec_plotForce_some h, if_neg (by simp [hs])]
  · rw [exec_plotForce_some h, if_pos hs]
  · refine ⟨_, ?_, force_forcedBy_frame 0x08 0x0403 0 false h h1 h2⟩
    rw [exec_stepLimit_some h, if_pos ht]
  · rw [exec_stepLimit_some h, if_pos ht]
  · rw [exec_stepLimit_some h, if_neg (ne_true_of_eq_false ht)]
  · refine ⟨_, ?_, force_forcedBy_frame 0x05 0x0403 0 false h (by simp [hs]) (by simp [hs])⟩
    rw [exec_yieldBound_some h, if_pos ⟨hs, hd⟩]
  · rw [exec_yieldBound_some h, if_neg]
    rintro ⟨hs, g, hg, hd⟩
    exact hn.elim (fun hn => hn hs) (fun hn => Bool.false_ne_true (hd.symm.trans (hn g hg)))
  · refine ⟨_, ?_, (State.setPlot_plot_at ..).trans (if_pos rfl), fun i hi => (State.setPlot_block_at ..).trans (if_neg hi.symm), rfl, rfl⟩
    rw [exec_plotReleaseBit_some on h, if_neg (not_or.2 ⟨h1, h2⟩)]
  · rw [exec_plotReleaseBit_some on h, if_pos hs]
  · rw [exec_forcedSwitch_some h, if_neg (not_not_intro hs), if_neg (ne_true_of_eq_false hr)]
    rfl
  · rw [exec_forcedSwitch_some h, if_neg (not_not_intro hs), if_pos hr]
    rfl
  · obtain ⟨hexec, hplot⟩ := endForced_quiet h hq
    exact ⟨_, hexec, rfl, hplot⟩
  · rw [exec_forcedSwitch_some h, if_pos hs]
  · cases hp : s.plot b with
    | none => exact force_none c st tile retry hp
    | some p => exact force_free c st tile retry hp (h p hp)

end Sys2Proof.Machine
end

section
/-! SUPPORT. What the end of requests leaves alone: whatever waits for it, no tile changes and every block leads the plot it led (R28, R231, R246,
R285, R325). -/

namespace Sys2Proof.Machine

/-- Every tile and every plot is as it was. -/
structure SamePlots (s t : State) : Prop where
  tiles : t.tiles = s.tiles
  plot : ∀ i, t.plot i = s.plot i

section
variable (s : State)

theorem SamePlots.refl : SamePlots s s := ⟨rfl, fun _ => rfl⟩

variable {s}

theorem SamePlots.trans {t u : State} (h : SamePlots s t) (g : SamePlots t u) : SamePlots s u :=
  ⟨g.tiles.trans h.tiles, fun i => (g.plot i).trans (h.plot i)⟩

theorem SamePlots.of_fields {t : State} (ht : t.tiles = s.tiles) (hb : t.blocks = s.blocks) : SamePlots s t :=
  ⟨ht, fun i => by rw [State.plot, State.block, hb, State.plot, State.block]⟩

/-- A change of other fields goes before. -/
theorem SamePlots.before {t u : State} (h : SamePlots t u) (ht : t.tiles = s.tiles) (hb : t.blocks = s.blocks) : SamePlots s u :=
  (SamePlots.of_fields ht hb).trans h

/-- A change of other fields follows. -/
theorem SamePlots.after {t u : State} (h : SamePlots s t) (ht : u.tiles = t.tiles) (hb : u.blocks = t.blocks) : SamePlots s u :=
  h.trans (SamePlots.of_fields ht hb)

theorem SamePlots.tile {t : State} (h : SamePlots s t) (g : Nat) : t.tile g = s.tile g := by
  rw [State.tile, h.tiles, State.tile]

/-- A run over a list leaves the plots when each turn does. -/
theorem SamePlots.foldl {α : Type} {f : State → α → State} (hf : ∀ s x, SamePlots s (f s x)) (l : List α) (s : State) : SamePlots s (l.foldl f s) :=
  foldl_rel s SamePlots.refl SamePlots.trans hf l

variable (s)

theorem State.complete_samePlots (w : Waiter) (status : Nat) (body : Bytes) : SamePlots s (s.complete w status body) := by
  obtain ⟨m, h⟩ := s.complete_eq w status body
  rw [h]
  exact ⟨rfl, fun _ => rfl⟩

variable {s} in
theorem SamePlots.complete {t : State} (h : SamePlots s t) (w : Waiter) (status : Nat) (body : Bytes) : SamePlots s (t.complete w status body) :=
  h.trans (t.complete_samePlots w status body)

theorem State.startScrub_samePlots (mine : Alloc → Bool) (blocks : List Nat) (ranges : List (Nat × Nat)) (what id : Nat) :
    SamePlots s (s.startScrub mine blocks ranges what id) := by
  refine ⟨?_, startScrub_plot s mine blocks ranges what id⟩
  obtain ⟨m, l, c, b, h⟩ := s.startScrub_eq mine blocks ranges what id
  rw [h]

/-! The end of a request. -/

theorem State.countRef_samePlots (i n : Nat) (up : Bool) : SamePlots s (s.countRef i n up) := by
  obtain ⟨a, b, h⟩ := s.countRef_eq i n up
  rw [h]
  exact ⟨rfl, fun _ => rfl⟩

theorem State.collectFor_samePlots (what id : Nat) : SamePlots s (s.collectFor what id) := by
  unfold State.collectFor
  dsimp only
  split
  · exact (State.startScrub_samePlots _ _ _ _ _ _).before rfl rfl
  · exact ⟨rfl, fun _ => rfl⟩

theorem State.dropReq_samePlots (r : Req) : SamePlots s (s.dropReq r) := by
  unfold State.dropReq
  dsimp only
  refine SamePlots.trans ?_ (State.collectFor_samePlots _ _ _)
  have hp : SamePlots s (if r.preIx = 0 then s else s.unrefPrefix (r.preIx - 1)) := by
    split <;> exact ⟨rfl, fun _ => rfl⟩
  split
  · exact hp.after rfl rfl
  · exact hp.after rfl rfl

theorem State.closeReq_samePlots (k : Nat) : SamePlots s (s.closeReq k) := by
  unfold State.closeReq
  split
  · exact .refl s
  · next r _ =>
    split
    · exact .refl s
    · dsimp only
      refine (s.countRef_samePlots (r.adapter % 4096) r.aver false).trans ?_
      split
      · exact ⟨rfl, fun _ => rfl⟩
      · exact State.dropReq_samePlots _ _

theorem State.recSent_samePlots (c : CplRec) : SamePlots s (s.recSent c) := by
  unfold State.recSent
  split
  · exact .refl s
  · split
    · exact s.closeReq_samePlots _
    · exact ⟨rfl, fun _ => rfl⟩

theorem State.pushRec_samePlots (i : Nat) (c : CplRec) (keep : Bool) : SamePlots s (s.pushRec i c keep).1 := by
  unfold State.pushRec
  dsimp only
  split
  · exact s.recSent_samePlots c
  · split
    · exact (State.recSent_samePlots _ c).before rfl rfl
    · split <;> exact ⟨rfl, fun _ => rfl⟩

theorem State.finalRecs_samePlots (r : Req) (status : Nat) : SamePlots s (s.finalRecs r status) := by
  by_cases h : r.home = 0
  · rw [s.finalRecs_here r status h]
    exact (SamePlots.foldl (fun s k => s.pushRec_samePlots _ _ _) _ _).trans (State.pushRec_samePlots _ _ _ _)
  · rw [s.finalRecs_away r status h]
    exact (State.closeReq_samePlots _ _).before rfl rfl

theorem State.endReq_samePlots (k status : Nat) : SamePlots s (s.endReq k status) := by
  cases h : s.req k with
  | none =>
    rw [State.endReq, h]
    exact .refl s
  | some r =>
    by_cases ho : r.state = .held ∨ r.state = .ended
    · rw [State.endReq_over status h ho]
      exact .refl s
    · obtain ⟨hh, he⟩ := not_or.1 ho
      rw [State.endReq_live status h hh he]
      exact (State.finalRecs_samePlots _ _ _).before rfl rfl

theorem State.endAll_samePlots (l : List Req) (status : Nat) : SamePlots s (s.endAll l status) :=
  SamePlots.foldl (f := fun s (r : Req) => s.endReq r.key status) (fun s r => s.endReq_samePlots r.key status) l s

/-! Rings, adapters and fetches. -/

theorem State.finishRing_samePlots (i : Nat) : SamePlots s (s.finishRing i) := by
  unfold State.finishRing
  extract_lets r s1 mail s2 s3
  have h3 : SamePlots s s3 := (s2.startScrub_samePlots _ _ _ _ _).before rfl rfl
  split
  · split
    · exact h3.complete _ _ _
    · exact h3
  · exact .refl s

theorem State.destroyRing_samePlots (i : Nat) (w : Option Waiter) : SamePlots s (s.destroyRing i w) :=
  ((State.endAll_samePlots _ _ _).trans (State.finishRing_samePlots _ i)).before rfl rfl

theorem State.freeVersion_samePlots (i n : Nat) : SamePlots s (s.freeVersion i n) := by
  unfold State.freeVersion
  split
  · exact .refl s
  · exact (State.startScrub_samePlots _ _ _ _ _ _).before rfl rfl

theorem State.tellRefs_samePlots (i n : Nat) : SamePlots s (s.tellRefs i n) := by
  unfold State.tellRefs
  split
  · exact .refl s
  · obtain ⟨b, h⟩ := State.mgmtGroup_eq _ _ _ _
    rw [h]
    exact ⟨rfl, fun _ => rfl⟩

theorem State.retireVersion_samePlots (i : Nat) (v : AVer) : SamePlots s (s.retireVersion i v) := by
  have ht : SamePlots s (if v.told then s else s.tellRefs i v.num) := by
    split
    · exact .refl s
    · exact s.tellRefs_samePlots _ _
  unfold State.retireVersion
  split
  · exact .refl s
  · dsimp only
    split
    · exact ht.trans (State.freeVersion_samePlots _ _ _)
    · exact ht

theorem State.finishAdapter_samePlots (i : Nat) : SamePlots s (s.finishAdapter i) := by
  unfold State.finishAdapter
  extract_lets a fresh s1
  have h1 : SamePlots s s1 := .of_fields rfl rfl
  split
  · split
    · exact h1.complete _ _ _
    · exact h1
  · exact .refl s

theorem State.settleAdapters_samePlots : SamePlots s s.settleAdapters := by
  unfold State.settleAdapters
  refine SamePlots.foldl (fun s x => ?_) _ s
  exact (SamePlots.foldl (fun s v => s.retireVersion_samePlots x.1 v) _ s).trans (State.finishAdapter_samePlots _ x.1)

theorem State.putLoad_samePlots (r : LoadRef) (l : Load) : SamePlots s (s.putLoad r l) := by
  unfold State.putLoad
  split <;> exact ⟨rfl, fun _ => rfl⟩

theorem State.endFetch_samePlots (r : LoadRef) (status : Nat) : SamePlots s (s.endFetch r status) := by
  unfold State.endFetch
  split
  · exact .refl s
  · split
    · exact .refl s
    · dsimp only
      split
      · exact (s.putLoad_samePlots _ _).complete _ _ _
      · exact s.putLoad_samePlots _ _

theorem State.retireAdapter_samePlots (i : Nat) (w : Option Waiter) : SamePlots s (s.retireAdapter i w) := .of_fields rfl rfl

/-! Evictions (R231, R241). -/

theorem State.holdModel_samePlots (i : Nat) : SamePlots s (s.holdModel i) := by
  unfold State.holdModel
  refine SamePlots.foldl (fun s a => ?_) _ s
  obtain ⟨m, h⟩ := s.setRegion_eq a.tier a.base a.len 0 false false
  rw [h]
  exact .of_fields rfl rfl

theorem State.wantFill_samePlots (id : Nat) : SamePlots s (s.wantFill id) := .of_fields rfl rfl

theorem State.endEvict_samePlots (i : Nat) : SamePlots s (s.endEvict i) := by
  unfold State.endEvict
  extract_lets m id s1 s2 s3
  have h1 : SamePlots s s1 := .of_fields rfl rfl
  have h2 : SamePlots s s2 := by
    unfold s2
    split
    · exact h1.trans (s1.holdModel_samePlots i)
    · exact h1
  have h3 : SamePlots s s3 := by
    unfold s3
    split
    · exact h2.complete _ _ _
    · exact h2
  split
  · exact s.startScrub_samePlots _ _ _ _ _
  · split
    · split
      · exact h3.trans (s3.wantFill_samePlots id)
      · exact h3
    · exact .refl s

theorem State.evictModel_samePlots (i : Nat) (registry : Bool) (w : Option Waiter) : SamePlots s (s.evictModel i registry w) := by
  unfold State.evictModel
  extract_lets id s1 s2 saved s3 sched s5
  have h2 : SamePlots s s2 := (s1.endAll_samePlots _ _).before rfl rfl
  have h3 : SamePlots s s3 := by
    refine h2.trans (SamePlots.foldl (fun s x => ?_) saved s2)
    split
    · split
      · exact .foldl (fun s y => s.endReq_samePlots _ _) _ s
      · exact .refl s
    · exact .refl s
  have h5 : SamePlots s s5 := h3.after rfl rfl
  split
  · exact h5.trans (s5.endEvict_samePlots i)
  · exact h5

/-! Parcels that drain (R325), and all that waits for requests to end. -/

theorem State.dropHeld_samePlots (p : Nat) : SamePlots s (s.dropHeld p) := by
  unfold State.dropHeld
  extract_lets l pre serve s1 fresh s2
  have h2 : SamePlots s s2 := by
    refine SamePlots.before (SamePlots.foldl (fun s x => ?_) pre s1) rfl rfl
    exact .of_fields rfl rfl
  refine (h2.trans (SamePlots.foldl (fun s r => ?_) l s2)).trans (State.collectFor_samePlots _ 5 p)
  exact .of_fields rfl rfl

theorem State.destroyObjects_samePlots (p : Nat) : SamePlots s (s.destroyObjects p) := by
  unfold State.destroyObjects
  extract_lets s1 mine s2
  have h1 : SamePlots s s1 := by
    refine SamePlots.foldl (fun s i => ?_) _ s
    split
    · exact s.destroyRing_samePlots i none
    · exact .refl s
  have h2 : SamePlots s1 s2 := by
    refine SamePlots.trans (SamePlots.foldl (fun s a => SamePlots.trans ?_ (State.retireAdapter_samePlots _ _ _)) mine s1)
      (State.settleAdapters_samePlots _)
    exact .foldl (fun s v => (s.endFetch_samePlots _ _).trans (State.freeVersion_samePlots _ _ _)) _ s
  refine (h1.trans h2).trans (SamePlots.foldl (fun s i => ?_) _ s2)
  extract_lets m
  split
  · exact (s.endFetch_samePlots _ _).trans (State.evictModel_samePlots _ _ _ _)
  · exact .refl s

theorem State.settleParcel_samePlots (p : Nat) : SamePlots s (s.settleParcel p) := by
  unfold State.settleParcel
  extract_lets x s1
  have h1 : SamePlots s s1 := s.dropHeld_samePlots p
  split
  · split
    · exact (h1.trans (s1.destroyObjects_samePlots p)).after (State.updParcel_tiles ..) (State.updParcel_blocks ..)
    · exact h1.after (State.updParcel_tiles ..) (State.updParcel_blocks ..)
  · exact .refl s

theorem State.settle_samePlots : SamePlots s s.settle := by
  unfold State.settle
  extract_lets s1
  have h1 : SamePlots s s1 := (SamePlots.foldl (fun s r => s.finishRing_samePlots r.1) s.serve.rings s).trans (State.settleAdapters_samePlots _)
  exact h1.trans (SamePlots.foldl (fun s p => s.settleParcel_samePlots p.1) s1.parcels s1)

end

end Sys2Proof.Machine
end

section
/-! SUPPORT. The placement, fill, release and scrub of plots and the start of their steps (R136 to R139, R198, R231, R238, R269, R293, R330, R340,
R478), with the statement of chapter 5 on them. -/

namespace Sys2Proof.Machine

/-! Placement (R138). -/

/-- A tile as a placement leaves it: cleared, led by the lead block, with the Field window and the ports of the plat (R36, R102, R119). -/
def Plot.placedTile (p : Plot) (gates : List Nat) (g : Nat) (t : Tile) : Tile :=
  let t := t.clearFor p
  { t with lead := some p.lead, regs := { t.regs with
    fwinBase := p.env 0xC 4, fwinLimit := p.env 0x10 4, linkEn := p.linkEn gates g, epoch := 0, epochAccept := 0 } }

/-- A tile placed, and the tags of its Field window reset. -/
def State.placeTile (s : State) (p : Plot) (gates : List Nat) (g : Nat) : State :=
  { s.updTile g (p.placedTile gates g) with
    mem := if p.env 0x10 4 = 0 then s.mem else s.mem.tagPages (fieldKey g (p.env 0xC 4)) (p.env 0x10 4) ⟨0, 0⟩ }

/-- A run over a list gives a tile of the list what each turn gives the tile it names, when a turn leaves the other tiles. -/
theorem foldl_tile_of_mem {F : State → Nat → State} {P : Tile → Prop} {g : Nat} (hset : ∀ s, P ((F s g).tile g))
    (hother : ∀ s x, x ≠ g → (F s x).tile g = s.tile g) {l : List Nat} (s : State) (hg : g ∈ l) : P ((l.foldl F s).tile g) := by
  have hkeep : ∀ (l : List Nat) (s : State), P (s.tile g) → P ((l.foldl F s).tile g) := fun l => by
    induction l with
    | nil => exact fun _ h => h
    | cons x l ih =>
      intro s h
      refine ih _ ?_
      by_cases hx : x = g
      · rw [hx]
        exact hset s
      · rw [hother s x hx]
        exact h
  induction l generalizing s with
  | nil => cases hg
  | cons x l ih =>
    obtain rfl | hl := List.mem_cons.1 hg
    · exact hkeep l _ (hset s)
    · exact ih _ hl

/-- A run over a list leaves the tiles when each turn does. -/
theorem foldl_sameTiles {α : Type} {f : State → α → State} (hf : ∀ s x, (f s x).tiles = s.tiles) (l : List α) (s : State) :
    (l.foldl f s).tiles = s.tiles :=
  foldl_rel (R := fun s t => t.tiles = s.tiles) s (fun _ => rfl) (fun h g => g.trans h) hf l

section
variable (s : State) (p : Plot)

theorem State.initQueues_tiles (b : Nat) : (s.initQueues b p).tiles = s.tiles := by
  unfold State.initQueues
  exact foldl_sameTiles (fun s q => State.updCist_tiles s q _) p.quads s

theorem State.clearCaps_tiles (b : Nat) : (s.clearCaps b).tiles = s.tiles := by
  unfold State.clearCaps
  refine foldl_sameTiles (fun s e => foldl_sameTiles (fun s t => ?_) _ s) _ s
  split <;> rfl

theorem State.joinClocks_tiles (q : Nat) : (s.joinClocks q).tiles = s.tiles := by
  unfold State.joinClocks
  refine foldl_sameTiles (fun s x => ?_) _ s
  split <;> rfl

theorem State.mgmtSend_eq (dest : Nat) (both : Bool) (body : Bytes) : ∃ b, s.mgmtSend dest both body = { s with fab := b } := by
  unfold State.mgmtSend
  obtain ⟨b, h⟩ := State.mgmtEmit_eq (s.updFab _) dest s.fab.mgmtNext both body
  exact ⟨b, h⟩

theorem State.sendBind_tiles (reply : Bool) (r : Nat) : (s.sendBind p reply r).tiles = s.tiles := by
  unfold State.sendBind
  extract_lets m k
  split
  · rfl
  · obtain ⟨b, h⟩ := s.mgmtSend_eq _ false _
    rw [h]

/-- What a placement does to tiles is done tile by tile. -/
theorem place_tiles : (s.place p).tiles = (p.tiles.foldl (fun s g => s.placeTile p p.edgeGates g) (s.powerQuads p.quads)).tiles := by
  unfold State.place
  extract_lets b gates s1 s2 block regs s3 s4
  have h3 : s3.tiles = s2.tiles := State.initQueues_tiles _ _ _
  have h4 : s4.tiles = s3.tiles := (foldl_sameTiles (fun s q => s.joinClocks_tiles q) _ _).trans (s3.clearCaps_tiles b)
  exact (foldl_sameTiles (fun s r => s.sendBind_tiles p false r) _ s4).trans (h4.trans h3)

/-- A placed tile is led by the lead block and holds no context and no token; it has the Field window and the ports of the plat. -/
theorem place_tile {g : Nat} (hg : g ∈ p.tiles) : ((s.place p).tile g).lead = some p.lead ∧ ((s.place p).tile g).ctxs = [] ∧
    ((s.place p).tile g).queues = [] ∧ ((s.place p).tile g).regs.fwinBase = p.env 0xC 4 ∧ ((s.place p).tile g).regs.fwinLimit = p.env 0x10 4 ∧
    ((s.place p).tile g).regs.linkEn = p.linkEn p.edgeGates g := by
  have hat : ∀ (s : State) (x : Nat), (s.placeTile p p.edgeGates x).tile g = (s.updTile x (p.placedTile p.edgeGates x)).tile g := fun _ _ => rfl
  rw [State.tile, place_tiles]
  refine foldl_tile_of_mem (F := fun s g => s.placeTile p p.edgeGates g) (P := fun t => t.lead = some p.lead ∧ t.ctxs = [] ∧ t.queues = [] ∧
    t.regs.fwinBase = p.env 0xC 4 ∧ t.regs.fwinLimit = p.env 0x10 4 ∧ t.regs.linkEn = p.linkEn p.edgeGates g) (fun s => ?_) (fun s x hx => ?_) _ hg
  · rw [hat, State.updTile_tile_at, if_pos rfl]
    exact ⟨rfl, rfl, rfl, rfl, rfl, rfl⟩
  · rw [hat, State.updTile_tile_at, if_neg hx]

end

/-- A waiting placement of a model is over. -/
def State.dropWait (s : State) (id : Nat) : State :=
  { s with sched := { s.sched with waits := s.sched.waits.filter (fun w => !(w.model == id && w.saved.isNone)) } }

theorem dropWait_waits {s : State} {id : Nat} {w : WaitPlace} (hw : w ∈ (s.dropWait id).sched.waits) : ¬ (w.model = id ∧ w.saved = none) := by
  have h := (List.mem_filter.1 hw).2
  rintro ⟨rfl, hn⟩
  simp [hn] at h

section
variable {s : State} {model : Fin 256} {m : Model} {w : WaitPlace}

theorem exec_placement_some (hm : s.modelOf (s.modelId model.val) = some m) (hs : s.power.mode = .serve)
    (hw : s.sched.waits.find? (fun w => w.model == s.modelId model.val && w.saved.isNone) = some w) : exec (.placement model) s =
      .next (if s.platChoices (s.modelId model.val) m = [] then s.dropFill (s.modelId model.val) 0x0601
        else if ∀ k, k ∈ s.platChoices (s.modelId model.val) m → s.blocksFit m.owner (SMap.get [] m.plats k) = false then
          s.dropFill (s.modelId model.val) 0x0202
        else if s.waitTurn w = false then s
        else (s.placing w).elim s (fun x => (x.2.place x.1).dropWait (s.modelId model.val))) := by
  change execPlacement model s = _
  simp only [execPlacement, hm, hw, hs, ne_eq, not_true_eq_false, if_false, List.isEmpty_iff, List.all_eq_true, Bool.not_eq_true']
  cases s.placing w <;> rfl

theorem exec_placement_none (h : s.modelOf (s.modelId model.val) = none ∨ s.power.mode ≠ .serve ∨
    s.sched.waits.find? (fun w => w.model == s.modelId model.val && w.saved.isNone) = none) : exec (.placement model) s = .next s := by
  change execPlacement model s = _
  cases hm : s.modelOf (s.modelId model.val) with
  | none => simp only [execPlacement, hm]
  | some m =>
    cases hw : s.sched.waits.find? (fun w => w.model == s.modelId model.val && w.saved.isNone) with
    | none => simp only [execPlacement, hm, hw]
    | some w =>
      simp only [execPlacement, hm, hw]
      exact congrArg _ (if_pos (by simpa [hm, hw] using h))

end

/-! The end of a fill (R138, R149, R238). -/

/-- Writing images changes memory only. -/
theorem writeImages_eq (s : State) (p : Plot) : ∃ m, s.writeImages p = { s with mem := m } := by
  have ht : ∀ {s t u : State}, (∃ m, t = { s with mem := m }) → (∃ m, u = { t with mem := m }) → ∃ m, u = { s with mem := m } := by
    rintro s _ _ ⟨m, rfl⟩ ⟨n, rfl⟩
    exact ⟨n, rfl⟩
  unfold State.writeImages
  exact foldl_rel (R := fun s t => ∃ m, t = { s with mem := m }) s (fun s => ⟨s.mem, rfl⟩) ht
    (fun s g => foldl_rel (R := fun s t => ∃ m, t = { s with mem := m }) s (fun s => ⟨s.mem, rfl⟩) ht (fun _ _ => ⟨_, rfl⟩) p.sects) _

/-- A plot whose fill has ended. -/
def Plot.filled (p : Plot) (redo : Option Task) : Plot :=
  { p with state := .idle, epoch := 0, held := 0, heldBy := [], accept := 0, movedFrom := none, redo := redo }

/-- A model whose plot is filled serves (Table 8-5). -/
def Model.filled (m : Model) : Model := if m.state = .filling then { m with state := .filled, fills := [], redo := none } else m

/-- The images written and the first section loaded. -/
def State.loadFirst (s : State) (b : Nat) (p : Plot) : State :=
  (((s.writeImages p).loadSection p p.sect 0 0).setPlot b (p.filled ((s.modelOf p.model).elim none (fun m => m.redo)))).updPlotRegs b
    (fun r => { r with endRemain := p.sectField p.sect 0xC 4 })

/-- A fill ended: the model serves, and what waited for the fill is answered. -/
def State.fillDone (s : State) (b : Nat) (p : Plot) : State :=
  ((s.modelOf p.model).elim [] (fun m => if m.state = .filling then m.fills else [])).foldl (fun s w => s.complete w 0 [])
    ((s.loadFirst b p).updModel p.model Model.filled)

section
variable {s : State} {lead : Fin 64} {p : Plot}

theorem exec_fillComplete_none (h : s.plot lead.val = none) : exec (.fillComplete lead) s = .next s := by
  change execFillComplete lead s = _
  simp only [execFillComplete, h]

/-- The fill of a plot is in progress: its own, or that of its model. -/
theorem fillWaits_iff : (p.state ≠ .filling ∧ (!(p.state == .idle && (s.modelOf p.model).elim false (fun m => m.state == .filling))) = true) ↔
    ¬ (p.state = .filling ∨ (p.state = .idle ∧ ∃ m, s.modelOf p.model = some m ∧ m.state = .filling)) := by
  cases s.modelOf p.model <;> simp [imp_iff_not_or]

theorem exec_fillComplete_ignored (h : s.plot lead.val = some p)
    (hn : ¬ (p.state = .filling ∨ (p.state = .idle ∧ ∃ m, s.modelOf p.model = some m ∧ m.state = .filling)) ∨ s.fillRuns p = true) :
    exec (.fillComplete lead) s = .next s := by
  change execFillComplete lead s = _
  simp only [execFillComplete, h]
  rw [if_pos (hn.imp_left fillWaits_iff.2)]

theorem exec_fillComplete_ends (h : s.plot lead.val = some p)
    (hf : p.state = .filling ∨ (p.state = .idle ∧ ∃ m, s.modelOf p.model = some m ∧ m.state = .filling)) (hr : s.fillRuns p = false) :
    exec (.fillComplete lead) s = .next (p.movedFrom.elim (s.fillDone lead.val p) (fun o => (s.fillDone lead.val p).releasePlot o 4 0)) := by
  change execFillComplete lead s = _
  simp only [execFillComplete, h]
  rw [if_neg (not_or.2 ⟨fun hn => fillWaits_iff.1 hn hf, ne_true_of_eq_false hr⟩)]
  cases p.movedFrom <;> rfl

end

section
variable (s : State) (b : Nat) (p : Plot)

/-- The answers of a fill change no block, no byte and no model. -/
theorem fillDone_frame : (s.fillDone b p).blocks = (s.loadFirst b p).blocks ∧ (s.fillDone b p).mem = (s.loadFirst b p).mem ∧
    (s.fillDone b p).models = ((s.loadFirst b p).updModel p.model Model.filled).models :=
  foldl_rel (R := fun s t => t.blocks = s.blocks ∧ t.mem = s.mem ∧ t.models = s.models) ((s.loadFirst b p).updModel p.model Model.filled)
    (fun _ => ⟨rfl, rfl, rfl⟩) (fun ⟨h1, h2, h3⟩ ⟨g1, g2, g3⟩ => ⟨g1.trans h1, g2.trans h2, g3.trans h3⟩) (fun s (w : Waiter) => by
      obtain ⟨m, h⟩ := s.complete_eq w 0 []
      rw [h]
      exact ⟨rfl, rfl, rfl⟩) _

theorem loadFirst_models : (s.loadFirst b p).models = s.models := by
  obtain ⟨m, hw⟩ := writeImages_eq s p
  obtain ⟨t, hl⟩ := (s.writeImages p).loadSection_eq p p.sect 0 0
  rw [State.loadFirst, State.updPlotRegs_models, State.setPlot_models, hl, hw]

theorem modelOf_entry {s : State} {id : Nat} {m : Model} (h : s.modelOf id = some m) : s.entry (id % 256) = m := by
  unfold State.modelOf at h
  dsimp only at h
  split at h
  · exact Option.some.inj h
  · cases h

theorem fillDone_facts : (s.fillDone b p).plot b = some (p.filled ((s.modelOf p.model).elim none (fun m => m.redo))) ∧
    ((s.fillDone b p).block b).regs.endRemain = p.sectField p.sect 0xC 4 ∧ (s.fillDone b p).mem = (s.writeImages p).mem ∧
    (∀ m, s.modelOf p.model = some m → m.state = .filling → ((s.fillDone b p).entry (p.model % 256)).state = .filled) := by
  obtain ⟨hblocks, hmem, hmodels⟩ := fillDone_frame s b p
  refine ⟨?_, ?_, hmem.trans ?_, fun m h hs => ?_⟩
  · rw [State.plot, State.block, hblocks, ← State.block, ← State.plot, State.loadFirst, State.updPlotRegs_plot_at, State.setPlot_plot_at, if_pos rfl]
  · rw [State.block, hblocks, ← State.block, State.loadFirst, State.updPlotRegs_block_at, if_pos rfl]
  · rw [State.loadFirst, State.updPlotRegs_mem, State.setPlot_mem, State.loadSection_mem]
  · rw [State.entry, hmodels, ← State.entry, State.updModel_entry_at, if_pos rfl, State.entry, loadFirst_models, ← State.entry, modelOf_entry h,
      Model.filled, if_pos hs]

end

/-! Release and scrub (R139, R231, R478). -/

section
variable {s : State} {lead : Fin 64} {p : Plot}

/-- A plot that goes leads no block and no tile, whatever becomes of its model. -/
theorem freePlot_facts {b : Nat} (h : s.plot b = some p) : (s.freePlot b).plot b = none ∧
    (∀ g, g ∈ p.tiles → ((s.freePlot b).tile g).lead = none ∧ ((s.freePlot b).tile g).ctxs = []) := by
  cases hm : s.modelOf p.model with
  | none =>
    simp only [State.freePlot, h, hm]
    exact releasePlot_facts 0 0 h
  | some m =>
    simp only [State.freePlot, h, hm]
    refine releasePlot_facts 1 _ (Eq.trans ?_ h)
    split
    · exact ((s.evictModel_samePlots _ _ _).trans (State.settle_samePlots _)).plot b
    · split <;> rfl

theorem exec_plotRelease_none (h : s.plot lead.val = none) : exec (.plotRelease lead) s = .next s := by
  change execPlotRelease lead s = _
  simp only [execPlotRelease, h]

/-- Whether a request needs the plot of its model (R139). -/
theorem any_needs_iff : s.serve.reqs.any (fun r => r.model == p.model && !r.away && r.state != .held && r.state != .admitting) = true ↔
    ∃ r, r ∈ s.serve.reqs ∧ r.model = p.model ∧ r.away = false ∧ r.state ≠ .held ∧ r.state ≠ .admitting := by
  simp [and_assoc]

theorem exec_plotRelease_kept (h : s.plot lead.val = some p) (hn : p.idle = false ∨
    ∃ r, r ∈ s.serve.reqs ∧ r.model = p.model ∧ r.away = false ∧ r.state ≠ .held ∧ r.state ≠ .admitting) : exec (.plotRelease lead) s = .next s := by
  change execPlotRelease lead s = _
  simp only [execPlotRelease, h, any_needs_iff]
  rw [if_pos (hn.imp_left fun hi => by rw [hi]; rfl)]

theorem exec_plotRelease_free (h : s.plot lead.val = some p) (hi : p.idle = true)
    (hr : ∀ r, r ∈ s.serve.reqs → r.model = p.model → r.away = true ∨ r.state = .held ∨ r.state = .admitting) :
    exec (.plotRelease lead) s = .next (s.freePlot lead.val) := by
  change execPlotRelease lead s = _
  simp only [execPlotRelease, h, any_needs_iff]
  rw [if_neg]
  rintro (hn | ⟨r, hm, he, ha, hh, hadm⟩)
  · rw [hi] at hn
    cases hn
  · obtain h1 | h2 | h3 := hr r hm he
    · exact Bool.false_ne_true (ha.symm.trans h1)
    · exact hh h2
    · exact hadm h3

end

section
variable (s : State)

/-- A write of Reservoir renews the ponds and changes no byte (R190). -/
theorem pondWrite_mem (k n : Nat) : (s.pondWrite k n).mem = s.mem :=
  foldl_rel (R := fun s t => t.mem = s.mem) s (fun _ => rfl) (fun h g => g.trans h) (fun s q => State.updQuad_mem s q _) [0, 1, 2, 3]

theorem zeroRange_read (k n a : Nat) : (s.zeroRange k n).mem.read a = if k ≤ a ∧ a < k + n then 0 else s.mem.read a := by
  unfold State.zeroRange
  by_cases hn : n = 0
  · rw [if_pos hn, if_neg (by omega)]
  · rw [if_neg hn, ← Mem.read_zero]
    dsimp only
    split
    · rw [pondWrite_mem]
    · rfl

theorem zeroRanges_read (l : List (Nat × Nat)) (a : Nat) : (l.foldl (fun s r => s.zeroRange r.1 r.2) s).mem.read a =
    if ∃ r, r ∈ l ∧ r.1 ≤ a ∧ a < r.1 + r.2 then 0 else s.mem.read a := by
  induction l generalizing s with
  | nil => simp
  | cons r l ih =>
    rw [List.foldl_cons, ih, zeroRange_read]
    by_cases hl : ∃ r, r ∈ l ∧ r.1 ≤ a ∧ a < r.1 + r.2
    · obtain ⟨x, hx, h⟩ := hl
      rw [if_pos ⟨x, hx, h⟩, if_pos ⟨x, List.mem_cons_of_mem r hx, h⟩]
    · rw [if_neg hl]
      refine if_congr ⟨fun h => ⟨r, List.mem_cons_self, h⟩, ?_⟩ rfl rfl
      rintro ⟨x, hx, h⟩
      obtain rfl | hx := List.mem_cons.1 hx
      · exact h
      · exact absurd ⟨x, hx, h⟩ hl

/-- The blocks of a scrub that has ended are free. -/
theorem clearScrubbing {l : List Nat} (m : SMap Block) {b : Nat} (hb : b ∈ l) : (SMap.get Block.reset
    (l.foldl (fun m b => SMap.upd Block.reset m b (fun x => { x with scrubbing := false, saved := false })) m) b).scrubbing = false := by
  have hkeep : ∀ (l : List Nat) (m : SMap Block), (SMap.get Block.reset m b).scrubbing = false → (SMap.get Block.reset
      (l.foldl (fun m b => SMap.upd Block.reset m b (fun x => { x with scrubbing := false, saved := false })) m) b).scrubbing = false := fun l => by
    induction l with
    | nil => exact fun _ h => h
    | cons x l ih =>
      intro m h
      refine ih _ ?_
      simp only [SMap.upd, SMap.get_set]
      split
      · rfl
      · exact h
  induction l generalizing m with
  | nil => cases hb
  | cons x l ih =>
    obtain rfl | hl := List.mem_cons.1 hb
    · refine hkeep l _ ?_
      simp only [SMap.upd, SMap.get_set_same]
    · exact ih _ hl

variable {s} {id : Nat} {j : ScrubJob}

theorem exec_scrubComplete_none (h : SMap.get none s.sched.scrubs id = none) : exec (.scrubComplete id) s = .next s := by
  change execScrubComplete id s = _
  simp only [execScrubComplete, h]

theorem exec_scrubComplete_some (h : SMap.get none s.sched.scrubs id = some j) : exec (.scrubComplete id) s =
    .next (if j.what = 1 then (s.endScrub id).endEvict j.id else if j.what = 2 then (s.endScrub id).endModel j.id
      else if j.what = 3 then (s.endScrub id).finishAdapter j.id else s.endScrub id) := by
  change execScrubComplete id s = _
  simp only [execScrubComplete, h]

theorem endScrub_facts (h : SMap.get none s.sched.scrubs id = some j) : SMap.get none (s.endScrub id).sched.scrubs id = none ∧
    (∀ r, r ∈ j.ranges → ∀ a, r.1 ≤ a → a < r.1 + r.2 → (s.endScrub id).mem.read a = 0) ∧
    (∀ a, (∀ r, r ∈ j.ranges → ¬ (r.1 ≤ a ∧ a < r.1 + r.2)) → (s.endScrub id).mem.read a = s.mem.read a) ∧
    (∀ b, b ∈ j.blocks → ((s.endScrub id).block b).scrubbing = false) := by
  have hread : ∀ a, (s.endScrub id).mem.read a = if ∃ r, r ∈ j.ranges ∧ r.1 ≤ a ∧ a < r.1 + r.2 then 0 else s.mem.read a := fun a => by
    simp only [State.endScrub, h]
    exact zeroRanges_read s j.ranges a
  refine ⟨?_, fun r hr a h1 h2 => ?_, fun a hn => ?_, fun b hb => ?_⟩
  · simp only [State.endScrub, h, SMap.get_set_same]
  · rw [hread, if_pos ⟨r, hr, h1, h2⟩]
  · rw [hread, if_neg fun ⟨r, hr, h⟩ => hn r hr h]
  · simp only [State.endScrub, h]
    exact clearScrubbing _ hb

end

/-! WEIGHT_RETRY (R198). -/

section
variable {s : State} {lead : Fin 64} {p : Plot} {k : Task} {ok : Bool} {f : Option Bytes}

theorem exec_weightRetry_none (h : s.plot lead.val = none) : exec (.weightRetry lead ok f) s = .next s := by
  change execWeightRetry lead ok f s = _
  simp only [execWeightRetry, h]

/-- A task that waits to run again on an idle plot. -/
theorem exec_weightRetry_some (h : s.plot lead.val = some p) (hk : p.redo = some k) : exec (.weightRetry lead ok f) s =
    .next (if p.state ≠ .idle ∨ k.rerun = true then s
      else if s.stepReady lead.val p = false ∧ ok = true then s
      else ((s.setPlot lead.val { p with badCopy := none }).mendCopy p ok f).elim
        ((s.setPlot lead.val { p with redo := none, badCopy := none }).endSlots k.slots 0x0404).settle
        (fun s1 => s1.rerun lead.val { p with badCopy := none } k)) := by
  change execWeightRetry lead ok f s = _
  simp only [execWeightRetry, h, Bool.not_eq_true']
  generalize (s.setPlot lead.val { p with badCopy := none }).mendCopy p ok f = c
  simp only [hk]
  cases c <;> rfl

theorem exec_weightRetry_ignored (h : s.plot lead.val = some p) (hn : p.redo = none ∨ p.state ≠ .idle ∨ (∃ k, p.redo = some k ∧ k.rerun = true) ∨
    (ok = true ∧ s.stepReady lead.val p = false)) : exec (.weightRetry lead ok f) s = .next s := by
  cases hk : p.redo with
  | none =>
    change execWeightRetry lead ok f s = _
    simp only [execWeightRetry, h, hk]
  | some k =>
    rw [exec_weightRetry_some h hk]
    simp only [hk, reduceCtorEq, Option.some.injEq, exists_eq_left', false_or] at hn
    obtain hi | hr | ⟨ho, hs⟩ := hn
    · rw [if_pos (.inl hi)]
    · rw [if_pos (.inr hr)]
    · rw [if_pos (c := s.stepReady lead.val p = false ∧ ok = true) ⟨hs, ho⟩, ite_self]

theorem stepReady_idle {b : Nat} (h : s.stepReady b p = true) : p.state = .idle := by
  simp only [State.stepReady, Bool.and_eq_true, beq_iff_eq] at h
  exact h.1.1.1.1.1

end

/-! The start of a step (R129, R290, R293). -/

section
variable (s : State)

/-- A step at its start changes memory, the ponds and the requests. -/
def OnlyPages (s t : State) : Prop := ∃ m q v, t = { s with mem := m, quads := q, serve := v }

theorem OnlyPages.refl : OnlyPages s s := ⟨s.mem, s.quads, s.serve, rfl⟩

variable {s} in
theorem OnlyPages.trans {t u : State} (h : OnlyPages s t) (g : OnlyPages t u) : OnlyPages s u := by
  obtain ⟨m, q, v, rfl⟩ := h
  obtain ⟨m', q', v', rfl⟩ := g
  exact ⟨m', q', v', rfl⟩

theorem OnlyPages.foldl {α : Type} {f : State → α → State} (hf : ∀ s x, OnlyPages s (f s x)) (l : List α) : OnlyPages s (l.foldl f s) :=
  foldl_rel s OnlyPages.refl OnlyPages.trans hf l

theorem fwWrite_onlyPages (k : Nat) (l : Bytes) : OnlyPages s (s.fwWrite k l) := by
  obtain ⟨m, q, h⟩ := fwWrite_eq s k l
  exact ⟨m, q, s.serve, h⟩

theorem updReq_onlyPages (k : Nat) (f : Req → Req) : OnlyPages s (s.updReq k f) := ⟨s.mem, s.quads, _, rfl⟩

theorem growPages_onlyPages (m : Model) (k n : Nat) : OnlyPages s (s.growPages m k n) := by
  unfold State.growPages
  split
  · exact .refl s
  · exact (OnlyPages.foldl s (fun s _ => fwWrite_onlyPages s _ _) _).trans (updReq_onlyPages _ k _)

theorem growDraft_onlyPages (d : Model) (k n : Nat) : OnlyPages s (s.growDraft d k n) := by
  unfold State.growDraft
  split
  · exact .refl s
  · split
    · exact .refl s
    · exact (OnlyPages.foldl s (fun s _ => fwWrite_onlyPages s _ _) _).trans (updReq_onlyPages _ k _)

theorem latStepStart_eq (b step : Nat) : ∃ l, s.latStepStart b step = { s with les := l } := by
  unfold State.latStepStart
  split
  · exact ⟨s.les, rfl⟩
  · exact ⟨_, rfl⟩

end

/-- The pages that a slot of a step needs (R290, R302). -/
def State.growFor (s : State) (m : Model) (x : StepSlot) : State :=
  match s.req x.req with
  | some r =>
    if x.masked.isSome then s
    else if x.kind = 5 then s.growDraft m r.key (min (x.pos + max 1 r.specWidth) (r.start + r.prompt + r.maxNew))
    else s.growPages m r.key (min (x.pos + x.ntok) (r.start + r.prompt + r.maxNew))
  | none => s

/-- A request whose slot starts. -/
def StepSlot.begin (x : StepSlot) (r : Req) : Req :=
  if x.kind = 5 ∨ x.masked.isSome then r else { r with started := true, state := if r.state = .queued then .prefill else r.state }

/-- The pages of a step taken and its step table written. -/
def State.stepPages (s : State) (b : Nat) (m : Model) (p : Plot) (l : List StepSlot) : State :=
  (l.foldl (fun s x => s.growFor m x) s).writeStepTable b m p (p.steps + 1) l

/-- The requests of a step started too. -/
def State.stepBegun (s : State) (b : Nat) (m : Model) (p : Plot) (l : List StepSlot) : State :=
  l.foldl (fun s x => s.updReq x.req x.begin) (s.stepPages b m p l)

/-- The task of a step (R129, R182). -/
def State.stepTask (s : State) (b : Nat) (m : Model) (p : Plot) (l : List StepSlot) (retried : Bool) : Task :=
  ⟨p.steps + 1, l, ((l.filter (fun x => x.masked.isNone)).filterMap (fun x => ((s.stepBegun b m p l).req x.req).map (fun r => r.parcel))).eraseDups,
    retried, false, s.now⟩

/-- A plot that runs a task from its first section, or yields where a yield is asked for (Table 5-7). -/
def Plot.started (p : Plot) (k : Task) (kvIn kvOut : List KvMove) : Plot :=
  { p with
    state := if p.yieldReq then .yielding else .running, task := some k, steps := k.step, endReport := false, heldYield := false, lastSave := none
    carried := [], badCopy := none, redo := none, lastStepAt := k.startAt, kvIn := kvIn, kvOut := kvOut }

/-- A tile of a plot that starts a task. -/
def Plot.startTile (p : Plot) (t : Tile) : Tile :=
  { t with fireStop := false, regs := { t.regs with state := t.regs.become .running, drained := false, yieldReq := p.yieldReq } }

/-- The state of a step started, before its entries are examined and its page moves posted. -/
def State.stepStarted (s : State) (b : Nat) (m : Model) (p : Plot) (l : List StepSlot) (retried : Bool) : State :=
  ((((s.stepBegun b m p l).setPlot b (p.started (s.stepTask b m p l retried) (kvReads m l) (p.kvOut ++ (s.stepPages b m p l).kvWrites m l))).updPlotRegs b
    (fun r => { r with endRemain := p.sectField p.sect 0xC 4 })).latStepStart b (p.steps + 1)).updTiles p.tiles p.startTile

section
variable {s : State} {b : Nat} {p : Plot} {m : Model} (l : List StepSlot) (r : Bool)

theorem startTask_eq (h : s.plot b = some p) (hm : s.modelOf p.model = some m) :
    s.startTask b l r = ((s.stepStarted b m p l r).examineEntries p).kvFeed b := by
  simp only [State.startTask, h, hm]
  rfl

variable (s b p m)

theorem growFor_onlyPages (x : StepSlot) : OnlyPages s (s.growFor m x) := by
  unfold State.growFor
  split
  · split
    · exact .refl s
    · split
      · exact growDraft_onlyPages s m _ _
      · exact growPages_onlyPages s m _ _
  · exact .refl s

theorem stepBegun_onlyPages : OnlyPages s (s.stepBegun b m p l) :=
  ((OnlyPages.foldl s (fun s x => growFor_onlyPages s m x) l).trans (fwWrite_onlyPages _ _ _)).trans
    (OnlyPages.foldl _ (fun s x => updReq_onlyPages s x.req x.begin) l)

theorem stepStarted_facts : (s.stepStarted b m p l r).plot b =
      some (p.started (s.stepTask b m p l r) (kvReads m l) (p.kvOut ++ (s.stepPages b m p l).kvWrites m l)) ∧
    ((s.stepStarted b m p l r).block b).regs.endRemain = p.sectField p.sect 0xC 4 ∧
    (∀ g, g ∈ p.tiles → ((s.stepStarted b m p l r).tile g).fireStop = false ∧
      ((s.stepStarted b m p l r).tile g).regs.state = ((s.tile g).regs.become .running)) := by
  obtain ⟨mem, quads, serve, hb⟩ := stepBegun_onlyPages s b p m l
  rw [State.stepStarted]
  generalize p.started _ _ _ = q
  generalize hu : ((s.stepBegun b m p l).setPlot b q).updPlotRegs b (fun r => { r with endRemain := p.sectField p.sect 0xC 4 }) = u
  obtain ⟨les, hl⟩ := latStepStart_eq u b (p.steps + 1)
  have hplot : (u.latStepStart b (p.steps + 1)).plot b = u.plot b := by
    rw [hl]
    rfl
  have hblock : (u.latStepStart b (p.steps + 1)).block b = u.block b := by
    rw [hl]
    rfl
  have htile : ∀ g, (u.latStepStart b (p.steps + 1)).tile g = s.tile g := fun g => by
    rw [State.tile, hl, ← hu, State.updPlotRegs_tiles, State.setPlot_tiles, hb, State.tile]
  refine ⟨?_, ?_, fun g hg => ⟨?_, ?_⟩⟩
  · rw [State.updTiles_plot, hplot, ← hu, State.updPlotRegs_plot_at, State.setPlot_plot_at, if_pos rfl]
  · rw [State.updTiles_block, hblock, ← hu, State.updPlotRegs_block_at, if_pos rfl]
  · exact State.updTiles_all _ p.tiles _ (fun t => t.fireStop = false) (fun _ => rfl) g hg
  · rw [State.updTiles_become _ (fun _ => rfl) hg, htile]

end

section
variable {s s1 : State} {lead : Fin 64} {t : Nat} {p : Plot}

theorem exec_stepStart_none (h : (s.at' t).plot lead.val = none) : exec (.stepStart lead t) s = .next (s.at' t) := by
  change execStepStart lead t s = _
  simp only [execStepStart, h]

/-- A task waits to run again, and not for the step that a link failure aborted. -/
theorem redo_any_iff : p.redo.any (fun k => !k.rerun) = true ↔ ∃ k, p.redo = some k ∧ k.rerun = false := by
  simp [Option.any_eq_true]

theorem exec_stepStart_early (h : (s.at' t).plot lead.val = some p)
    (hn : (s.at' t).stepReady lead.val p = false ∨ ∃ k, p.redo = some k ∧ k.rerun = false) : exec (.stepStart lead t) s = .next (s.at' t) := by
  change execStepStart lead t s = _
  simp only [execStepStart, h, redo_any_iff, Bool.not_eq_true']
  rw [if_pos hn]

/-- The slots of a step: those of the step that runs again which still have their request, or a new batch (R293, R406). -/
def State.stepSlots (s : State) (p : Plot) (m : Model) : List StepSlot :=
  p.redo.elim (s.compose m { p with mark := p.markNext, phi := p.phiNext })
    (fun k => k.slots.filter (fun x => x.masked.isNone && (s.req x.req).isSome))

/-- The slots of a batch that need proposals (R302). -/
def specSlots (l : List StepSlot) : List StepSlot := l.filter (fun x => x.kind == 3 || x.kind == 4)

/-- A batch started, and the proposals it needs in the plot of the draft model (R302). -/
def State.startBatch (s : State) (b : Nat) (m : Model) (l : List StepSlot) : State :=
  if l = [] then s else
    match s.draftPlot m with
    | none => s.startTask b l
    | some d => if (specSlots l).isEmpty then s.startTask b l
      else (s.startTask b l).startTask d ((specSlots l).map (fun x => { x with kind := 5, ntok := 1, spec := 0 }))

theorem stepReady_not_early (hr : (s.at' t).stepReady lead.val p = true) (hk : ∀ k, p.redo = some k → k.rerun = true) :
    ¬ ((s.at' t).stepReady lead.val p = false ∨ ∃ k, p.redo = some k ∧ k.rerun = false) := by
  rintro (hn | ⟨k, he, hn⟩)
  · exact Bool.false_ne_true (hn.symm.trans hr)
  · exact Bool.false_ne_true (hn.symm.trans (hk k he))

section
variable (h : (s.at' t).plot lead.val = some p) (hr : (s.at' t).stepReady lead.val p = true) (hk : ∀ k, p.redo = some k → k.rerun = true)
  (hs : s1 = ((s.at' t).refuseLate p.model).settle)
include h hr hk hs

theorem exec_stepStart_unserved (hm : ∀ m, s1.modelOf p.model = some m → m.state ≠ .filled ∧ m.state ≠ .evicting ∧ m.state ≠ .removing) :
    exec (.stepStart lead t) s = .next s1 := by
  subst hs
  change execStepStart lead t s = _
  simp only [execStepStart, h, redo_any_iff, Bool.not_eq_true']
  rw [if_neg (stepReady_not_early hr hk)]
  split
  · rfl
  · next m he => rw [if_pos (hm m he)]

theorem exec_stepStart_serves {m : Model} (hm : s1.modelOf p.model = some m) (hst : m.state = .filled ∨ m.state = .evicting ∨ m.state = .removing) :
    exec (.stepStart lead t) s = .next ((s1.setPlot lead.val { p with mark := p.markNext, phi := p.phiNext, redo := none }).startBatch lead.val m
      ((s1.setPlot lead.val { p with mark := p.markNext, phi := p.phiNext, redo := none }).stepSlots p m)) := by
  subst hs
  have hserves : ¬ (m.state ≠ .filled ∧ m.state ≠ .evicting ∧ m.state ≠ .removing) := fun ⟨h1, h2, h3⟩ =>
    hst.elim h1 (fun hst => hst.elim h2 h3)
  change execStepStart lead t s = _
  simp only [execStepStart, h, redo_any_iff, Bool.not_eq_true', hm]
  rw [if_neg (stepReady_not_early hr hk), if_neg hserves]
  generalize State.setPlot _ lead.val _ = s2
  unfold State.startBatch State.stepSlots specSlots
  simp only [List.isEmpty_iff]
  cases s2.draftPlot m <;> cases p.redo <;> rfl

end

end

/-! What the Surveyor looks through (R330, R482). -/

theorem serviceQuads_idle {s : State} (h : ∀ j, j ∈ s.power.jobs → j.action ≠ 0) : s.serviceQuads = s := by
  have hj : s.power.jobs.filter (fun j => j.action == 0) = [] := List.filter_eq_nil_iff.2 fun j hj => by simpa using h j hj
  rw [State.serviceQuads, hj, List.foldl_nil]

theorem reexamine_not_urgent {s : State} {w : WaitPlace} (h : s.urgent w = false) : s.reexamine w = s := by
  unfold State.reexamine
  extract_lets plat
  exact if_pos (.inl (by rw [h]; rfl))

/-- Settles O20: each command of the Surveyor by the state of the plot and what waits, each with what the operation it ends in leaves. -/
theorem plotsAreFilledPlacedAndReleased : Obligations.PlotsAreFilledPlacedAndReleased := by
  unfold Obligations.PlotsAreFilledPlacedAndReleased
  refine ⟨?placed, ?dropped, fun model s => exec_placement_none, fun s p g => place_tile s p, ?filled, ?moved, fun lead s p h hn => ?_,
    fun lead s h => exec_fillComplete_none h, fun lead s p h hi hr => ?_, fun lead s p h hn => exec_plotRelease_kept h hn,
    fun lead s h => exec_plotRelease_none h, fun id s j h => ⟨exec_scrubComplete_some h, endScrub_facts h⟩,
    fun id s h => exec_scrubComplete_none h, fun k f s1 lead s p h hk hn hr hc => ?_, fun k ok f lead s p h hk hn hs hr hc => ?_,
    fun ok f lead s p h hn => exec_weightRetry_ignored h hn, fun ok f lead s h => exec_weightRetry_none h, fun s b p k hv => ?_,
    fun s b p k v hv => ?_, fun t s => rfl, fun s => serviceQuads_idle, fun s w => reexamine_not_urgent, ?start,
    fun lead t s p h hn => exec_stepStart_early h hn, fun lead t s s1 p h hr hk hs hm => exec_stepStart_unserved h hr hk hs hm,
    fun lead t s h => exec_stepStart_none h, ?task⟩
  case placed =>
    intro model s s1 m w p hm hs hw hl ht hp hfit
    obtain ⟨k, hk, hfit⟩ := hfit
    refine ⟨(s1.place p).dropWait (s.modelId model.val), ?_, rfl, fun w => dropWait_waits⟩
    rw [exec_placement_some hm hs hw, if_neg hl, if_neg (fun hn => Bool.false_ne_true ((hn k hk).symm.trans hfit)),
      if_neg (by rw [ht]; exact Bool.true_eq_false_eq_False), hp]
    rfl
  case dropped =>
    intro model s m w hm hs hw
    rw [exec_placement_some hm hs hw]
    refine ⟨fun hl => by rw [if_pos hl], fun hl hn => by rw [if_neg hl, if_pos hn], ?_⟩
    rintro ⟨k, hk, hfit⟩ hn
    rw [if_neg (List.ne_nil_of_mem hk), if_neg (fun hn => Bool.false_ne_true ((hn k hk).symm.trans hfit))]
    obtain ht | hp := hn
    · rw [if_pos ht]
    · rw [hp, Option.elim_none, ite_self]
  case filled =>
    intro lead s p h hf hr hm
    obtain ⟨hplot, hend, hmem, hentry⟩ := fillDone_facts s lead.val p
    refine ⟨s.fillDone lead.val p, ?_, ⟨_, hplot, rfl, rfl, rfl, rfl, rfl⟩, hend, hmem, hentry⟩
    rw [exec_fillComplete_ends h hf hr, hm, Option.elim_none]
  case moved =>
    intro o lead s p h hf hr hm
    obtain ⟨hplot, -, hmem, -⟩ := fillDone_facts s lead.val p
    refine ⟨s.fillDone lead.val p, ?_, ⟨_, hplot, rfl, rfl, rfl, rfl⟩, hmem⟩
    rw [exec_fillComplete_ends h hf hr, hm, Option.elim_some]
  · refine exec_fillComplete_ignored h (hn.imp_left ?_)
    rintro ⟨h1, h2⟩ (hf | ⟨hi, m, hm, hf⟩)
    · exact h1 hf
    · exact h2.elim (fun h2 => h2 hi) (fun h2 => h2 m hm hf)
  · obtain ⟨hplot, htile⟩ := freePlot_facts h
    exact ⟨_, exec_plotRelease_free h hi hr, rfl, hplot, htile⟩
  · rw [exec_weightRetry_some h hk, if_neg (by simp [stepReady_idle hr, hn]), if_neg (by simp [hr]), hc, Option.elim_some]
  · rw [exec_weightRetry_some h hk, if_neg (by simp [hs, hn]), if_neg (fun ⟨h1, h2⟩ => Bool.false_ne_true (h1.symm.trans (hr h2))), hc,
      Option.elim_none]
  · rw [State.rerun, hv]
  · rw [State.rerun, hv]
  case start =>
    intro lead t s s1 s2 p m l h hr hk hs hm hst hs2 hl
    rw [exec_stepStart_serves h hr hk hs hm hst, ← hs2, show s2.stepSlots p m = l from hl.symm, State.startBatch]
    cases s2.draftPlot m <;> rfl
  case task =>
    intro s b p m l r h hm
    obtain ⟨hplot, hend, htile⟩ := stepStarted_facts s b p m l r
    exact ⟨_, _, _, startTask_eq l r h hm, hplot, rfl, rfl, rfl, rfl, rfl, rfl, rfl, hend, htile⟩

end Sys2Proof.Machine
end

section
/-! SUPPORT. Shards and notices of a fetch (R234 to R237, R244, R355, R402, R403): what the end of an attempt, its timeout, a failed queue pair
and a notice come to, with the statement of chapter 8 on them. -/

namespace Sys2Proof.Machine

/-! SHARD_ATTEMPT_END (R234, R236, R237, R243). -/

section
variable {s x : State} {ref : LoadRef} {shard : Fin 260} {body : Bytes} {t : Nat} {l : Load} {h : Shard}

theorem exec_shardAttemptEnd_not_running (hx : x = s.at' t)
    (hn : x.load ref = none ∨ ∃ l, x.load ref = some l ∧ l.shards.find? (fun h => h.index == shard.val && h.running) = none) :
    exec (.shardAttemptEnd ref shard body t) s = .next x := by
  subst hx
  change execShardAttemptEnd ref shard body t s = _
  obtain hl | ⟨l, hl, hf⟩ := hn
  · simp only [execShardAttemptEnd, hl]
  · simp only [execShardAttemptEnd, hl, hf]

/-- A shard that a fetch has read whole: a plat passes its checks too, and is installed (R236). -/
def State.shardRead (y : State) (ref : LoadRef) (l : Load) (h : Shard) (body : Bytes) : State :=
  let y1 := y.updShard ref h.index (fun h => { h with state := 1, running := false })
  if h.kind = 1 ∧ ref.adapter = false then
    let st := y.platStatus body (manifestTag l.manifest) l.serials l.member
    if st ≠ 0 then y.failShard ref h.index st
    else y1.updEntry ref.index.val (fun m => { m with plats := SMap.set [] m.plats (l.platPos h.index) body })
  else y1

section
variable (hx : x = s.at' t) (hl : x.load ref = some l) (hf : l.shards.find? (fun h => h.index == shard.val && h.running) = some h)
include hx hl hf

theorem exec_shardAttemptEnd_short (hb : body.length ≠ h.len) : exec (.shardAttemptEnd ref shard body t) s = .next x := by
  subst hx
  change execShardAttemptEnd ref shard body t s = _
  simp only [execShardAttemptEnd, hl, hf]
  rw [if_pos hb]

theorem exec_shardAttemptEnd_no_place (hb : body.length = h.len) (hr : x.canRest ref h = false) :
    exec (.shardAttemptEnd ref shard body t) s = .next (x.updShard ref h.index (fun h => { h with running := false })) := by
  subst hx
  change execShardAttemptEnd ref shard body t s = _
  simp only [execShardAttemptEnd, hl, hf]
  rw [if_neg (not_not_intro hb), hr]
  rfl

/-- A whole attempt of a shard with a place in service writes its bytes, and the digest decides. -/
theorem exec_shardAttemptEnd_whole {y : State} (hb : body.length = h.len) (hr : x.canRest ref h = true)
    (hy : y = (x.places ref h).foldl (fun s k => s.fwWrite k body) x) : exec (.shardAttemptEnd ref shard body t) s =
      .next (if sha512 body ≠ h.digest then y.attemptFailed ref h 0x0301 else ((y.shardRead ref l h body).checkLoad ref).startLoads.settle) := by
  subst hx
  change execShardAttemptEnd ref shard body t s = _
  simp only [execShardAttemptEnd, hl, hf]
  rw [if_neg (not_not_intro hb), hr, Bool.not_true, if_neg Bool.false_ne_true, ← hy]
  unfold State.shardRead
  by_cases hp : h.kind = 1 ∧ ref.adapter = false
  · simp only [hp, Bool.not_false, and_self, if_true]
  · simp only [Bool.not_eq_true', if_neg hp, ne_eq, not_true_eq_false, if_false]

end

section
variable {y : State}

theorem shardRead_data (hk : h.kind ≠ 1 ∨ ref.adapter = true) :
    y.shardRead ref l h body = y.updShard ref h.index (fun h => { h with state := 1, running := false }) :=
  if_neg fun ⟨h1, h2⟩ => hk.elim (· h1) fun ha => Bool.false_ne_true (h2.symm.trans ha)

theorem shardRead_bad_plat (hk : h.kind = 1) (ha : ref.adapter = false)
    (hp : y.platStatus body (manifestTag l.manifest) l.serials l.member ≠ 0) :
    y.shardRead ref l h body = y.failShard ref h.index (y.platStatus body (manifestTag l.manifest) l.serials l.member) :=
  (if_pos ⟨hk, ha⟩).trans (if_pos hp)

theorem shardRead_plat (hk : h.kind = 1) (ha : ref.adapter = false)
    (hp : y.platStatus body (manifestTag l.manifest) l.serials l.member = 0) :
    y.shardRead ref l h body = (y.updShard ref h.index (fun h => { h with state := 1, running := false })).updEntry ref.index.val
      (fun m => { m with plats := SMap.set [] m.plats (l.platPos h.index) body }) :=
  (if_pos ⟨hk, ha⟩).trans (if_neg (not_not_intro hp))

end

end

/-! The parts of an attempt (R234, R237). -/

section
variable (s : State) (ref : LoadRef)

/-- An attempt that fails is told to the requester, which changes the mail only, and is tried again but for the fourth. -/
theorem attemptFailed_eq {y : State} (h : Shard) (st : Nat)
    (hy : y = (match (s.load ref).bind (fun l => l.fetch.bind (fun j => j.waiter)) with
      | some w => s.event w.parcel 2 w.op w.seq st w.obj (toLe 4 h.index ++ toLe 1 h.attempt) w.dest
      | none => s)) :
    s.attemptFailed ref h st = ((if 3 ≤ h.attempt then y.failShard ref h.index st
      else y.updShard ref h.index (fun h => { h with attempt := h.attempt + 1, startAt := y.now })).checkLoad ref).startLoads.settle := by
  have hn : y.now = s.now := by
    rw [hy]
    split
    · next w _ =>
      obtain ⟨m, hm⟩ := s.event_eq w.parcel 2 w.op w.seq st w.obj (toLe 4 h.index ++ toLe 1 h.attempt) w.dest
      rw [hm]
    · rfl
  rw [hn, hy]
  rfl

@[simp] theorem modelRef_adapter (i : Nat) : (modelRef i).adapter = false := rfl

theorem modelRef_index {i : Nat} (hi : i < 256) : (modelRef i).index.val = i := Nat.mod_eq_of_lt (by omega)

theorem load_modelRef {i : Nat} (hi : i < 256) (hs : (s.entry i).state ≠ .free) : s.load (modelRef i) =
    some ⟨(s.entry i).shards, (s.entry i).manifest, (s.entry i).notices, (s.entry i).owed, (s.entry i).fetch, (s.entry i).member,
      (s.entry i).serials⟩ := by
  unfold State.load
  rw [modelRef_index hi]
  exact if_neg (not_or.2 ⟨hs, by omega⟩)

/-- A change of a shard of a registry entry is the change of that entry's list. -/
theorem updShard_modelRef_shards {i : Nat} (hi : i < 256) (hs : (s.entry i).state ≠ .free) (k : Nat) (f : Shard → Shard) :
    ((s.updShard (modelRef i) k f).entry i).shards = (s.entry i).shards.map (fun h => if h.index = k then f h else h) := by
  unfold State.updShard State.updLoad
  rw [load_modelRef s hi hs]
  simp only [State.putLoad, modelRef_adapter, Bool.false_eq_true, if_false, modelRef_index hi, State.updEntry_entry_at, if_true]

end

/-! SHARD_TIMEOUT (R234). -/

section
variable {s : State} {ref : LoadRef} {shard : Fin 260} {t : Nat}

theorem exec_shardTimeout_not_running (hn : ∀ l, (s.at' t).load ref = some l →
    l.fetch = none ∨ l.shards.find? (fun h => h.index == shard.val && h.running) = none) :
    exec (.shardTimeout ref shard t) s = .next (s.at' t) := by
  change execShardTimeout ref shard t s = _
  unfold execShardTimeout
  cases hl : (s.at' t).load ref with
  | none => simp only [hl]
  | some l =>
    simp only [hl]
    obtain hj | hf := hn l hl
    · rw [hj]
      cases l.shards.find? (fun h => h.index == shard.val && h.running) <;> rfl
    · simp only [hf]

theorem exec_shardTimeout_running {l : Load} {h : Shard} {j : FetchJob} (hl : (s.at' t).load ref = some l)
    (hf : l.shards.find? (fun h => h.index == shard.val && h.running) = some h) (hj : l.fetch = some j) :
    exec (.shardTimeout ref shard t) s =
      .next (if h.startAt + 1000000000 * j.timeout ≤ max s.now t then (s.at' t).attemptFailed ref h 0x0302 else s.at' t) := by
  change execShardTimeout ref shard t s = _
  simp only [execShardTimeout, hl, hf, hj]
  rfl

end

/-! QP_FAILURE (R355). -/

section
variable (s : State) (qp : BitVec 24) (t : Nat)

/-- A queue pair is dead from now on. -/
def State.deadQp (s : State) (n : Nat) : State :=
  { s with mail := { s.mail with qps := s.mail.qps.map (fun q => if q.num = n then { q with live := false } else q) } }

theorem deadQp_live {n : Nat} {q : QPair} (hq : q ∈ (s.deadQp n).mail.qps) (hn : q.num = n) : q.live = false := by
  obtain ⟨p, -, rfl⟩ := List.mem_map.1 hq
  split at hn
  · next h => rw [if_pos h]
  · next h => exact absurd hn h

theorem exec_qpFailure_unread : exec (.qpFailure qp none t) s = .next ((s.at' t).deadQp qp.toNat) := rfl

theorem exec_qpFailure_no_load {ref : LoadRef} (k : Fin 4) (hl : ((s.at' t).deadQp qp.toNat).load ref = none) :
    exec (.qpFailure qp (some (ref, k)) t) s = .next ((s.at' t).deadQp qp.toNat) := by
  change Host.Outcome.next (match ((s.at' t).deadQp qp.toNat).load ref with | none => (s.at' t).deadQp qp.toNat | some l => _) = _
  rw [hl]

/-- The attempts of a list that read through server `k` end as missing. -/
theorem exec_qpFailure_load {ref : LoadRef} (k : Fin 4) {l : Load} (hl : ((s.at' t).deadQp qp.toNat).load ref = some l) :
    exec (.qpFailure qp (some (ref, k)) t) s = .next ((l.shards.filter (fun h => h.running &&
      (h.index + h.attempt) % (l.fetch.map (fun j => j.servers)).getD 1 == k.val)).foldl (fun s h => s.attemptFailed ref h 0x0302)
        ((s.at' t).deadQp qp.toNat)) := by
  change Host.Outcome.next (match ((s.at' t).deadQp qp.toNat).load ref with | none => (s.at' t).deadQp qp.toNat | some l => _) = _
  rw [hl]
  rfl

end

/-! Management messages on arrival (R402, R403). -/

section
variable {s : State} {m : MgmtIn} {act : State → State}

theorem mgmtTake_bad (hb : m.netB = true) (hk : (s.box 0).key = none) : s.mgmtTake m act = mgmtBad s :=
  if_pos ⟨hb, by rw [hk]; rfl⟩

theorem mgmtTake_again (h : mgmtAgain s m) : s.mgmtTake m act = mgmtAcked s m := by
  obtain ⟨hk, hs⟩ := h
  unfold State.mgmtTake
  rw [if_neg fun ⟨hb, hn⟩ => hk hb (Option.isNone_iff_eq_none.1 hn)]
  exact if_pos hs

theorem mgmtTake_fresh (h : mgmtFresh s m) : s.mgmtTake m act = act (mgmtSeenNow s m) := by
  obtain ⟨hk, hs⟩ := h
  unfold State.mgmtTake
  rw [if_neg fun ⟨hb, hn⟩ => hk hb (Option.isNone_iff_eq_none.1 hn)]
  exact if_neg (by rw [hs]; exact Bool.false_ne_true)

theorem mgmtSeenNow_now (s : State) (m : MgmtIn) : (mgmtSeenNow s m).now = s.now := by
  obtain ⟨b, hb⟩ := s.mgmtEmit_eq m.src.toNat m.id.toNat m.netB [0]
  change (s.mgmtEmit m.src.toNat m.id.toNat m.netB [0]).now = _
  rw [hb]

end

/-! GROUP_NOTICE (R235, R244) and its resend. -/

section
variable {s y : State} {m : MgmtIn} {tag : BitVec 64} {digest : BitVec 512} {member : Fin 64} {t : Nat} {mine : List LoadRef}

section
variable (hm : mgmtFresh s m) (hy : y = mgmtSeenNow (s.at' t) m)
  (hr : mine = y.loadRefs.filter (fun r => (y.load r).any (fun l => manifestTag l.manifest == tag.toNat && manifestDigest l.manifest == digest.toNat)))
include hm hy hr

theorem exec_groupNotice_early (h : mine = []) : exec (.groupNotice m tag digest member none t) s =
    .next { y with serve := { y.serve with early := y.serve.early ++ [⟨tag.toNat, toLe 64 digest.toNat, member.val, max s.now t⟩] } } := by
  have hn : y.now = max s.now t := by rw [hy, mgmtSeenNow_now]; rfl
  change execGroupNotice m tag digest member none t s = _
  unfold execGroupNotice
  rw [mgmtTake_fresh (s := s.at' t) hm, ← hy, ← hn]
  dsimp only
  rw [← hr, h]
  rfl

theorem exec_groupNotice_noted (h : mine ≠ []) : exec (.groupNotice m tag digest member none t) s =
    .next (mine.foldl (fun (s : State) r => (s.updLoad r (fun l => { l with
      notices := l.notices.filter (fun k => k != member.val) ++ [member.val] })).settleLoad r) y).settle := by
  change execGroupNotice m tag digest member none t s = _
  unfold execGroupNotice
  rw [mgmtTake_fresh (s := s.at' t) hm, ← hy]
  dsimp only
  rw [← hr, if_neg (by simpa using h)]

theorem exec_groupNotice_refs (n : BitVec 32) : exec (.groupNotice m tag digest member (some n) t) s =
    .next (mine.foldl (fun (s : State) r => if r.adapter then s.updVersion r.index.val r.version.toNat (fun v => { v with
      peerRefs := SMap.set 0 v.peerRefs member.val n.toNat
      peerDone := v.peerDone.filter (fun k => k != member.val) ++ (if n.toNat = 0 then [member.val] else []) }) else s) y).settle := by
  change execGroupNotice m tag digest member (some n) t s = _
  unfold execGroupNotice
  rw [mgmtTake_fresh (s := s.at' t) hm, ← hy]
  dsimp only
  rw [← hr]

end

theorem exec_groupNoticeResend_gone {ref : LoadRef} (acked : Option (Fin 64)) (h : (s.at' t).load ref = none) :
    exec (.groupNoticeResend ref acked t) s = .next (s.at' t) := by
  change execGroupNoticeResend ref acked t s = _
  simp only [execGroupNoticeResend, h]

theorem exec_groupNoticeResend_load {ref : LoadRef} {l : Load} (k : Fin 64) (h : (s.at' t).load ref = some l) :
    exec (.groupNoticeResend ref (some k) t) s = .next ((s.at' t).putLoad ref { l with owed := l.owed.filter (fun x => x != k.val) }) ∧
    exec (.groupNoticeResend ref none t) s = .next ((s.at' t).sendNotice l l.owed) := by
  constructor
  · change execGroupNoticeResend ref (some k) t s = _
    simp only [execGroupNoticeResend, h]
  · change execGroupNoticeResend ref none t s = _
    simp only [execGroupNoticeResend, h]

end

/-- Settles O30: the end of an attempt by its length, its places, its digest and the plat it brings, a timeout and a dead queue pair by the attempts
that run, and a notice by whether it is taken, is new and finds a fetch in hand. -/
theorem fetchesVerifyShards : Obligations.FetchesVerifyShards := by
  unfold Obligations.FetchesVerifyShards
  refine ⟨fun ref shard body t s x hx => exec_shardAttemptEnd_not_running hx,
    fun l h ref shard body t s x hx hl hf => ⟨exec_shardAttemptEnd_short hx hl hf, exec_shardAttemptEnd_no_place hx hl hf⟩,
    ?whole, fun s y ref h st => attemptFailed_eq s ref h st, fun ref shard t s => exec_shardTimeout_not_running,
    fun ref shard t s l h j => exec_shardTimeout_running, ?queuePair, ?bad, ?again, ?notice,
    fun ref acked t s => exec_groupNoticeResend_gone acked, fun ref k t s l => exec_groupNoticeResend_load k, ?expire, ?marked⟩
  case whole =>
    intro y l h ref shard body t s x hx hl hf hb hr hy
    rw [exec_shardAttemptEnd_whole hx hl hf hb hr hy]
    refine ⟨fun hd => by rw [if_pos hd], fun hd hk => ?_, fun hd hk ha hp => ?_, fun hd hk ha hp => ?_⟩ <;> rw [if_neg (not_not_intro hd)]
    · rw [shardRead_data hk]
    · rw [shardRead_bad_plat hk ha hp]
    · rw [shardRead_plat hk ha hp]
  case queuePair =>
    exact fun qp t s => ⟨(s.at' t).deadQp qp.toNat, exec_qpFailure_unread s qp t, fun q => deadQp_live _, List.length_map _, rfl,
      fun ref k => ⟨exec_qpFailure_no_load s qp t k, fun l => exec_qpFailure_load s qp t k⟩⟩
  case bad =>
    exact fun m tag digest member refs t s hb hk => congrArg Host.Outcome.next (mgmtTake_bad (s := s.at' t) hb hk)
  case again =>
    exact fun m tag digest member refs t s h => congrArg Host.Outcome.next (mgmtTake_again (s := s.at' t) h)
  case notice =>
    intro y mine m tag digest member refs t s hm hy hr
    refine ⟨?_, ?_, ?_⟩
    · rintro rfl
      exact exec_groupNotice_early hm hy hr
    · rintro rfl
      exact exec_groupNotice_noted hm hy hr
    · rintro n rfl
      exact exec_groupNotice_refs hm hy hr n
  case expire =>
    exact fun t s => ⟨_, rfl, fun e => by rw [List.mem_filter, decide_eq_true_eq]; rfl, rfl, rfl⟩
  case marked =>
    intro s i h hs hl hi
    rw [updShard_modelRef_shards s i.isLt hs, hl, List.map_cons, List.map_nil, if_pos rfl]

end Sys2Proof.Machine
end

section
/-! SUPPORT. The registry's requests (R229 to R233, R238, R241, R242, R246, R247, R365, R445): what a request that passes every check comes
to, and what each finds of its model or adapter, with the statement of chapter 8 on them. -/

namespace Sys2Proof.Machine

/-! A request that passes every check (Table 13-4). -/

section
variable {s : State} {r : EdReq}

/-- A request that checks 1 to 3 of Table 13-4 let through is executed. -/
theorem State.receive_of_comesThrough (h : comesThrough s r) : s.receive r = (s.at' r.mail.now).execute r := by
  obtain ⟨hoff, hstart, hhead, hauth, hside, hnew, hwait⟩ := h
  have hmode : ¬ ((s.at' r.mail.now).power.mode = .off ∨ (s.at' r.mail.now).power.mode = .starting) := not_or.2 ⟨hoff, hstart⟩
  have hany : (s.at' r.mail.now).mail.setAside = [] := hside
  simp only [State.receive, State.sequence, if_neg hmode, hhead, hauth, hany, hnew, hwait, List.any_nil, Bool.not_true, Bool.false_eq_true,
    if_false]

theorem State.receive_of_passes (h : passes s r) : s.receive r = (accepted s r).finish r ((accepted s r).serveReq r false) := by
  obtain ⟨hc, hk, -⟩ := h
  rw [State.receive_of_comesThrough hc]
  exact congrArg ((accepted s r).finish r) (if_neg (not_not_intro hk))

/-- A request that passes has the effect of its opcode: `SERVE` holds where it waits for it (R445). -/
theorem exec_of_passes {i : Instr} (h : passes s r) (hi : exec i s = .next (s.receive r)) {f : State → State × Ans}
    (hf : ∀ a : State, a.serveReq r false = if waitsServe r.op && a.power.going == some .off then (a, .final 0x0105 [])
      else if waitsServe r.op && (a.power.going.isSome || a.power.mode != .serve) then (a, .wait ⟨7, 1⟩) else f a)
    {a : State} (ha : accepted s r = a) : exec i s = answered s r (f a).1 (f a).2 := by
  rw [hi, State.receive_of_passes h, hf]
  subst ha
  obtain ⟨-, -, hs⟩ := h
  cases hw : waitsServe r.op with
  | false => rfl
  | true =>
    obtain ⟨hm, hg⟩ := hs hw
    rw [hg, hm]
    rfl

end

/-! MODEL_REGISTER (R229, R371). -/

section
variable {s : State} {p : Nat} {l : Bytes}

/-- Who may register a model for whom, and with which tables. -/
def State.mayRegister (s : State) (p : Nat) (l : Bytes) : Prop :=
  (p = 0 ∨ (askedOwner p l = p ∧ askedGrants p l = [])) ∧ s.knownParcel (askedOwner p l) = true ∧
    (∀ g, g ∈ askedGrants p l → s.knownParcel g = true) ∧ s.tableClash l = false

theorem doRegister_refused (h : ¬ s.mayRegister p l) : s.doRegister p l = (s, .final 0x0105 []) := by
  unfold State.doRegister
  extract_lets owner others
  by_cases h1 : p ≠ 0 ∧ (owner ≠ p ∨ (!others.isEmpty) = true)
  · exact if_pos h1
  · refine (if_neg h1).trans (if_pos (by_contra fun h2 => h ?_))
    simp only [not_or, Bool.not_eq_true', Bool.not_eq_false, Bool.not_eq_true, List.all_eq_true] at h2
    obtain ⟨ho, hg, ht⟩ := h2
    refine ⟨?_, ho, hg, ht⟩
    simp only [ne_eq, Bool.not_eq_true', List.isEmpty_eq_false_iff] at h1
    tauto

theorem doRegister_allowed (h : s.mayRegister p l) : s.doRegister p l = s.freeEntry.elim (s, .final 0x0202 []) fun i =>
    if s.modelsFull (askedOwner p l) = true ∨ (askedGrants p l).any s.modelsFull = true then (s, .final 0x0202 [])
    else (s.updEntry i (fun y => { Model.reset with gen := y.gen, state := .registered, owner := askedOwner p l, grants := askedGrants p l, reg := l }),
      .final 0 (toLe 2 ((s.updEntry i (fun y => { Model.reset with
        gen := y.gen, state := .registered, owner := askedOwner p l, grants := askedGrants p l, reg := l })).modelId i))) := by
  obtain ⟨hp, ho, hg, ht⟩ := h
  unfold State.doRegister
  extract_lets owner others
  rw [if_neg (by simp [owner, others]; tauto), if_neg (by simpa [owner, others, ho, ht] using hg)]
  cases s.freeEntry <;> rfl

end

theorem freeEntry_first {s : State} {i : Nat} (h : s.freeEntry = some i) :
    i < 256 ∧ (s.entry i).state = .free ∧ ∀ j, j < i → (s.entry j).state ≠ .free ∨ s.now < (s.entry j).freeAt := by
  obtain ⟨hi, hm, hlt⟩ := List.find?_range_eq_some.1 h
  simp only [Bool.and_eq_true, beq_iff_eq, decide_eq_true_eq] at hi
  refine ⟨List.mem_range.1 hm, hi.1, fun j hj => ?_⟩
  simpa [-not_and, not_and_or] using hlt j hj

/-! MODEL_FETCH (R232, R233, Tables 8-6 and 8-7). -/

section
variable {s : State} {w : Waiter} {f : Option Bytes} {l : Bytes} {x : Model} {y : Image}

theorem doFetch_unknown (h : s.modelOf (leAt l 0 2) = none) : s.doFetch w f l = (s, .final 0x0304 []) := by
  simp only [State.doFetch, h]

theorem doFetch_stranger (h : s.modelOf (leAt l 0 2) = some x) (ho : ownerOk w.parcel x.owner = false) :
    s.doFetch w f l = (s, .final 0x0105 []) := by
  simp only [State.doFetch, h, ho, Bool.not_false, if_true]

theorem doFetch_unread (h : s.modelOf (leAt l 0 2) = some x) (ho : ownerOk w.parcel x.owner = true) (hi : imageOf f = none) :
    s.doFetch w f l = (s, .final 0x0302 []) := by
  simp only [State.doFetch, h, ho, hi, Bool.not_true, Bool.false_eq_true, if_false]

/-- Checks 1 to 7 of Table 8-7 on the image of a fetch. -/
def State.fetchStatus (s : State) (f : Option Bytes) (l : Bytes) (x : Model) : Nat :=
  s.imageStatus f 0 x.owner (leAt (l.drop 8) 4 2) (leAt (l.drop 8) 0 1) (x.reg' 0 8) true x.tableRecs

section
variable (h : s.modelOf (leAt l 0 2) = some x) (ho : ownerOk w.parcel x.owner = true) (hi : imageOf f = some y)
include h ho hi

theorem doFetch_failed (hs : s.fetchStatus f l x ≠ 0) : s.doFetch w f l = (s, .final (s.fetchStatus f l x) []) := by
  simp only [State.doFetch, h, ho, hi, Bool.not_true, Bool.false_eq_true, if_false]
  exact if_pos hs

theorem doFetch_registered (hs : s.fetchStatus f l x = 0) (hx : x.state = .registered) : s.doFetch w f l =
    (s.findBases x.owner (leAt y.manifest 0x30 8) (leAt y.manifest 0x38 8)).elim (s, .final 0x0202 []) fun b =>
      ((s.allocModel (leAt l 0 2 % 256) x.owner (leAt y.manifest 0x30 8) (leAt y.manifest 0x38 8) b.1 b.2).startModel
        (leAt l 0 2 % 256) y (l.drop 8) w, .started []) := by
  simp only [State.doFetch, h, ho, hi, Bool.not_true, Bool.false_eq_true, if_false]
  refine (if_neg (not_not_intro hs)).trans ((if_pos hx).trans ?_)
  cases s.findBases x.owner (leAt y.manifest 0x30 8) (leAt y.manifest 0x38 8) <;> rfl

/-- A fetch of a model that has an image already (Table 8-6): its digest, then its state decide. -/
theorem doFetch_again (hs : s.fetchStatus f l x = 0) (hx : x.state ≠ .registered) : s.doFetch w f l =
    if manifestDigest y.manifest ≠ manifestDigest x.manifest then (s, .final 0x0105 [])
    else if x.state = .removing then (s, .final 0x0304 [])
    else if x.state = .loading then
      if x.fetch.any (fun j => j.waiter.isSome) = true then (s, .wait (modelKeyOf (leAt l 0 2 % 256)))
      else (s.startModel (leAt l 0 2 % 256) y (l.drop 8) w, .started [])
    else (s, .ended 0 []) := by
  simp only [State.doFetch, h, ho, hi, Bool.not_true, Bool.false_eq_true, if_false]
  exact (if_neg (not_not_intro hs)).trans (if_neg hx)

end

end

/-! MODEL_FILL (R232, R238, Table 12-1). -/

section
variable {s : State} {w : Waiter} {l : Bytes} {x : Model}

theorem doFill_unknown (h : s.modelOf (leAt l 0 2) = none) : s.doFill w l = (s, .final 0x0304 []) := by
  simp only [State.doFill, h]

theorem doFill_stranger (h : s.modelOf (leAt l 0 2) = some x) (ha : x.allows w.parcel = false) : s.doFill w l = (s, .final 0x0105 []) := by
  simp only [State.doFill, h, ha, Bool.not_false, if_true]

section
variable (h : s.modelOf (leAt l 0 2) = some x) (ha : x.allows w.parcel = true)
include h ha

theorem doFill_filled (hx : x.state = .filled) : s.doFill w l = (s, .ended 0 []) := by
  simp only [State.doFill, h, ha, hx, Bool.not_true, Bool.false_eq_true, if_false]

theorem doFill_filling (hx : x.state = .filling) :
    s.doFill w l = (s.updModel (leAt l 0 2) (fun y => { y with fills := y.fills ++ [w] }), .started []) := by
  simp only [State.doFill, h, ha, hx, Bool.not_true, Bool.false_eq_true, if_false]

theorem doFill_evicting (hx : x.state = .evicting) : s.doFill w l = (s, .wait (modelKeyOf (leAt l 0 2 % 256))) := by
  simp only [State.doFill, h, ha, hx, Bool.not_true, Bool.false_eq_true, if_false]

theorem doFill_ready (hx : x.state = .ready) : s.doFill w l = if s.blocksOk x = true then
    ((s.wantFill (leAt l 0 2)).updModel (leAt l 0 2) (fun y => { y with fills := y.fills ++ [w] }), .started []) else (s, .final 0x0202 []) := by
  simp only [State.doFill, h, ha, hx, Bool.not_true, Bool.false_eq_true, if_false]

theorem doFill_unloaded (hx : x.state = .free ∨ x.state = .registered ∨ x.state = .loading ∨ x.state = .removing) :
    s.doFill w l = (s, .final 0x0304 []) := by
  obtain hx | hx | hx | hx := hx <;> simp only [State.doFill, h, ha, hx, Bool.not_true, Bool.false_eq_true, if_false]

end

end

/-! MODEL_EVICT (R231, R232, R241, Table 12-7). -/

section
variable {s : State} {w : Waiter} {l : Bytes} {x : Model}

theorem doEvict_unknown (h : s.modelOf (leAt l 0 2) = none) : s.doEvict w l = (s, .final 0x0304 []) := by
  simp only [State.doEvict, h]

/-- Whether adapters rest on the model that an eviction names. -/
def State.hasAdapters (s : State) (l : Bytes) : Bool := s.adapters.any (fun (z : Nat × Adapter) => z.2.used && z.2.model == leAt l 0 2)

/-- A model that is not the caller's, or that adapters rest on, is not evicted. -/
theorem doEvict_refused (h : s.modelOf (leAt l 0 2) = some x) (hn : ownerOk w.parcel x.owner = false ∨ (leAt l 2 1 = 1 ∧ s.hasAdapters l = true)) :
    s.doEvict w l = (s, .final 0x0105 []) := by
  simp only [State.doEvict, h, Bool.not_eq_true', beq_iff_eq]
  by_cases ho : ownerOk w.parcel x.owner = false
  · exact if_pos ho
  · exact (if_neg ho).trans (if_pos (hn.resolve_left ho))

/-- An eviction that the model's owner may ask for: `REGISTRY` and the state of the model decide. -/
theorem doEvict_allowed (h : s.modelOf (leAt l 0 2) = some x) (ho : ownerOk w.parcel x.owner = true) (ha : leAt l 2 1 ≠ 1 ∨ s.hasAdapters l = false) :
    s.doEvict w l = if x.state = .filling then (s, .wait (modelKeyOf (leAt l 0 2 % 256)))
    else if leAt l 2 1 = 1 then
      if x.state = .evicting ∨ x.state = .removing ∨ x.fetch.any (fun j => j.waiter.isSome) = true then
        (s, .wait (modelKeyOf (leAt l 0 2 % 256)))
      else ((s.evictModel (leAt l 0 2 % 256) true (some w)).settle, .started [])
    else if x.state = .filled then ((s.evictModel (leAt l 0 2 % 256) false (some w)).settle, .started [])
    else (s, .ended 0 []) := by
  simp only [State.doEvict, h, ho, Bool.not_true, Bool.false_eq_true, if_false, beq_iff_eq]
  rw [if_neg]
  rintro ⟨h1, h2⟩
  obtain ha | ha := ha
  · exact ha h1
  · exact Bool.false_ne_true (ha.symm.trans h2)

end

/-! ADAPTER_LOAD (R242). -/

section
variable {s : State} {w : Waiter} {f : Option Bytes} {l : Bytes} {x : Model} {i : Nat} {y : Image}

/-- The adapter number that a new adapter takes: the first that is free and out of quarantine. -/
def State.freeAdapter (s : State) : Option Nat :=
  (List.range 4096).find? (fun i => !(s.adapter i).used && decide ((s.adapter i).freeAt ≤ s.now))

/-- The adapters that a parcel holds (Table 12-1). -/
def State.adaptersOf (s : State) (p : Nat) : Nat := (s.adapters.filter (fun (z : Nat × Adapter) => z.2.used && z.2.owner == p)).length

/-- Checks 1 to 7 of Table 8-7 on the image of a new adapter of a parcel. -/
def State.loadStatus (s : State) (f : Option Bytes) (p : Nat) (l : Bytes) (x : Model) : Nat :=
  s.imageStatus f 1 p (leAt (l.drop 8) 4 2) (leAt (l.drop 8) 0 1) (x.reg' 0 8) x.serves []

theorem doAdapterLoad_unknown (h : s.modelOf (leAt l 0 2) = none) : s.doAdapterLoad w f l = (s, .final 0x0304 []) := by
  simp only [State.doAdapterLoad, h]

theorem doAdapterLoad_stranger (h : s.modelOf (leAt l 0 2) = some x) (ho : w.parcel ≠ x.owner) (hg : w.parcel ∉ x.grants) :
    s.doAdapterLoad w f l = (s, .final 0x0105 []) := by
  simp only [State.doAdapterLoad, h]
  exact if_pos ⟨ho, by simpa using hg⟩

section
variable (h : s.modelOf (leAt l 0 2) = some x) (ho : w.parcel = x.owner ∨ w.parcel ∈ x.grants)
include h ho

/-- A load for a parcel that may use the model turns on the number it can take, then on its image. -/
theorem doAdapterLoad_allowed : s.doAdapterLoad w f l = s.freeAdapter.elim (s, .final 0x0202 []) fun i =>
    (imageOf f).elim (s, .final 0x0302 []) fun y =>
      if w.parcel ≠ 0 ∧ (s.parcel w.parcel).qAdapters ≤ s.adaptersOf w.parcel then (s, .final 0x0202 [])
      else if s.loadStatus f w.parcel l x ≠ 0 then (s, .final (s.loadStatus f w.parcel l x) [])
      else (s.findVersion w.parcel (leAt y.manifest 0x30 8)).elim (s, .final 0x0202 []) fun base =>
        ((s.updAdapter i (fun z => { Adapter.reset with gen := z.gen, used := true, model := leAt l 0 2, owner := w.parcel })).startVersion
          i 1 w.parcel y (l.drop 8) { w with obj := i + (s.adapter i).gen * 2 ^ 24 } base,
          .started (toLe 4 (i + (s.adapter i).gen * 2 ^ 24))) := by
  simp only [State.doAdapterLoad, h]
  rw [if_neg (by simpa [or_iff_not_imp_left] using ho)]
  unfold State.freeAdapter
  generalize (List.range 4096).find? _ = n
  cases n with
  | none => rfl
  | some i =>
    cases imageOf f with
    | none => rfl
    | some y =>
      dsimp only [Option.elim_some]
      cases s.findVersion w.parcel (leAt y.manifest 0x30 8) <;> rfl

/-- A load within the quota that has read its image. -/
theorem doAdapterLoad_image (hn : s.freeAdapter = some i) (hi : imageOf f = some y)
    (hq : w.parcel = 0 ∨ s.adaptersOf w.parcel < (s.parcel w.parcel).qAdapters) {st : Nat} (hs : s.loadStatus f w.parcel l x = st) :
    s.doAdapterLoad w f l = if st ≠ 0 then (s, .final st [])
      else (s.findVersion w.parcel (leAt y.manifest 0x30 8)).elim (s, .final 0x0202 []) fun base =>
        ((s.updAdapter i (fun z => { Adapter.reset with gen := z.gen, used := true, model := leAt l 0 2, owner := w.parcel })).startVersion
          i 1 w.parcel y (l.drop 8) { w with obj := i + (s.adapter i).gen * 2 ^ 24 } base,
          .started (toLe 4 (i + (s.adapter i).gen * 2 ^ 24))) := by
  rw [doAdapterLoad_allowed h ho, hn, hi, Option.elim_some, Option.elim_some, hs, if_neg]
  rintro ⟨h0, h1⟩
  exact hq.elim h0 h1.not_gt

end

end

/-! ADAPTER_REPLACE (R242, R246, R247). -/

section
variable {s : State} {w : Waiter} {f : Option Bytes} {l : Bytes} {z : Adapter}

/-- Checks 1 to 7 of Table 8-7 on the image of an adapter's next version. -/
def State.replaceStatus (s : State) (f : Option Bytes) (l : Bytes) (z : Adapter) : Nat :=
  s.imageStatus f 1 z.owner (leAt (l.drop 8) 4 2) (leAt (l.drop 8) 0 1) ((s.modelOf z.model).elim 0 (fun x => x.reg' 0 8))
    ((s.modelOf z.model).any Model.serves) []

theorem doAdapterReplace_unknown (h : s.adapterOf (leAt l 0 4) = none) : s.doAdapterReplace w f l = (s, .final 0x0305 []) := by
  simp only [State.doAdapterReplace, h]

theorem doAdapterReplace_stranger (h : s.adapterOf (leAt l 0 4) = some z) (ho : ownerOk w.parcel z.owner = false) :
    s.doAdapterReplace w f l = (s, .final 0x0105 []) := by
  simp only [State.doAdapterReplace, h, ho, Bool.not_false, if_true]

/-- A replacement that the adapter's owner may ask for turns on the adapter's versions, then on its image. -/
theorem doAdapterReplace_allowed (h : s.adapterOf (leAt l 0 4) = some z) (ho : ownerOk w.parcel z.owner = true) :
    s.doAdapterReplace w f l = if z.withdrawing = true then (s, .final 0x0305 [])
    else if z.loading = true then (s, .wait (adapterKeyOf (leAt l 0 4 % 4096)))
    else if 65535 ≤ z.highest ∨ 4 ≤ z.versions.length then (s, .final 0x0202 [])
    else (imageOf f).elim (s, .final 0x0302 []) fun y =>
      if s.replaceStatus f l z ≠ 0 then (s, .final (s.replaceStatus f l z) [])
      else (s.findVersion z.owner (leAt y.manifest 0x30 8)).elim (s, .final 0x0202 []) fun base =>
        (s.startVersion (leAt l 0 4 % 4096) (z.highest + 1) z.owner y (l.drop 8) w base, .started (toLe 2 (z.highest + 1))) := by
  simp only [State.doAdapterReplace, h, ho, Bool.not_true, Bool.false_eq_true, if_false]
  cases imageOf f with
  | none => rfl
  | some y =>
    dsimp only [Option.elim_some]
    cases s.findVersion z.owner (leAt y.manifest 0x30 8) <;> rfl

/-- A replacement of an adapter that may have another version turns on its image. -/
theorem doAdapterReplace_room (h : s.adapterOf (leAt l 0 4) = some z) (ho : ownerOk w.parcel z.owner = true) (hw : z.withdrawing = false)
    (hl : z.loading = false) (hn : z.highest < 65535) (hv : z.versions.length < 4) {st : Nat} (hs : s.replaceStatus f l z = st) :
    s.doAdapterReplace w f l = (imageOf f).elim (s, .final 0x0302 []) fun y =>
      if st ≠ 0 then (s, .final st [])
      else (s.findVersion z.owner (leAt y.manifest 0x30 8)).elim (s, .final 0x0202 []) fun base =>
        (s.startVersion (leAt l 0 4 % 4096) (z.highest + 1) z.owner y (l.drop 8) w base, .started (toLe 2 (z.highest + 1))) := by
  rw [doAdapterReplace_allowed h ho, hw, hl, hs, if_neg Bool.false_ne_true, if_neg Bool.false_ne_true, if_neg (by omega)]

end

/-! ADAPTER_WITHDRAW (R246, R247). -/

section
variable {s : State} {w : Waiter} {l : Bytes} {z : Adapter}

theorem doWithdraw_unknown (h : s.adapterOf (leAt l 0 4) = none) : s.doWithdraw w l = (s, .final 0x0305 []) := by
  simp only [State.doWithdraw, h]

theorem doWithdraw_stranger (h : s.adapterOf (leAt l 0 4) = some z) (ho : ownerOk w.parcel z.owner = false) :
    s.doWithdraw w l = (s, .final 0x0105 []) := by
  simp only [State.doWithdraw, h, ho, Bool.not_false, if_true]

theorem doWithdraw_allowed (h : s.adapterOf (leAt l 0 4) = some z) (ho : ownerOk w.parcel z.owner = true) :
    s.doWithdraw w l = if z.loading = true ∨ z.withdrawing = true then (s, .wait (adapterKeyOf (leAt l 0 4 % 4096)))
    else ((if bitB (leAt l 4 1) 0 then (s.retireAdapter (leAt l 0 4 % 4096) (some w)).withdrawReqs (leAt l 0 4)
      else s.retireAdapter (leAt l 0 4 % 4096) (some w)).settle, .started []) := by
  simp only [State.doWithdraw, h, ho, Bool.not_true, Bool.false_eq_true, if_false]

end

/-! PLAT_LOAD (R135, Table 5-6). -/

section
variable {s : State} {w : Waiter} {f : Option Bytes} {l : Bytes} {x : Model}

theorem doPlatLoad_unknown (h : s.modelOf (leAt l 0 2) = none) : s.doPlatLoad w f l = (s, .final 0x0304 []) := by
  simp only [State.doPlatLoad, h]

theorem doPlatLoad_stranger (h : s.modelOf (leAt l 0 2) = some x) (ho : ownerOk w.parcel x.owner = false) :
    s.doPlatLoad w f l = (s, .final 0x0105 []) := by
  simp only [State.doPlatLoad, h, ho, Bool.not_false, if_true]

theorem doPlatLoad_unread (h : s.modelOf (leAt l 0 2) = some x) (ho : ownerOk w.parcel x.owner = true) :
    s.doPlatLoad w none l = (s, .ended 0x0302 []) := by
  simp only [State.doPlatLoad, h, ho, Bool.not_true, Bool.false_eq_true, if_false]

/-- A plat that has been read is installed where it passes its checks. -/
theorem doPlatLoad_read {y : Bytes} {st : Nat} (h : s.modelOf (leAt l 0 2) = some x) (ho : ownerOk w.parcel x.owner = true)
    (hs : s.platLoadStatus y (s.signKey x.owner).1 (s.signKey x.owner).2 (x.reg' 0 8) x.serials x.member = st) : s.doPlatLoad w (some y) l =
      (if st = 0 then s.updModel (leAt l 0 2) (fun z => { z with plats := SMap.set [] z.plats (leAt l 2 1) y }) else s, .ended st []) := by
  simp only [State.doPlatLoad, h, ho, hs, Bool.not_true, Bool.false_eq_true, if_false]
  by_cases h0 : st = 0
  · rw [if_neg (not_not_intro h0), if_pos h0, h0]
  · rw [if_pos h0, if_neg h0]

end

/-- Settles O34: a request that passes every check has the effect of its opcode, and each effect goes by its object, its caller, the quotas, the
image and the state of the object, in that order. -/
theorem edushModelRequestsHaveTheirEffect : Obligations.EdushModelRequestsHaveTheirEffect := by
  unfold Obligations.EdushModelRequestsHaveTheirEffect
  refine ⟨fun m s a h ha => exec_of_passes h rfl (fun _ => rfl) ha, fun m s a h ha => exec_of_passes h rfl (fun _ => rfl) ha,
    fun m s a h ha => exec_of_passes h rfl (fun _ => rfl) ha, fun m s a h ha => exec_of_passes h rfl (fun _ => rfl) ha,
    fun m s a h ha => exec_of_passes h rfl (fun _ => rfl) ha, fun m s a h ha => exec_of_passes h rfl (fun _ => rfl) ha,
    fun m s a h ha => exec_of_passes h rfl (fun _ => rfl) ha, fun m s a h ha => exec_of_passes h rfl (fun _ => rfl) ha,
    ?registerRefused, ?registerFull, ?registered,
    fun s w f l => doFetch_unknown, fun s w f l x => doFetch_stranger, fun s w f l x => doFetch_unread, ?fetchFailed, ?fetchNoRoom, ?fetchStarts,
    ?fetchOther, ?fetchRemoving, ?fetchWaits, ?fetchMissing, ?fetchEnds,
    fun s w l => doFill_unknown, fun s w l x => doFill_stranger, fun s w l x => doFill_filled, fun s w l x => doFill_filling,
    fun s w l x => doFill_evicting, ?fillStarts, ?fillFull, fun s w l x => doFill_unloaded,
    fun s w l => doEvict_unknown, fun s w l x => doEvict_refused, ?evictFilling, ?evictWaits, ?evictRegistry, ?evictField, ?evictEnds,
    fun s w f l => doAdapterLoad_unknown, fun s w f l x => doAdapterLoad_stranger, ?loadNoNumber, ?loadUnread, ?loadQuota, ?loadFailed,
    ?loadNoRoom, ?loadStarts,
    fun s w f l => doAdapterReplace_unknown, fun s w f l z => doAdapterReplace_stranger, ?replaceGone, ?replaceWaits, ?replaceFull, ?replaceUnread,
    ?replaceFailed, ?replaceNoRoom, ?replaceStarts,
    fun s w l => doWithdraw_unknown, fun s w l z => doWithdraw_stranger, ?withdrawWaits, ?withdrawn,
    fun s w f l => doPlatLoad_unknown, fun s w f l x => doPlatLoad_stranger, ?platUnread, ?platRead, fun s i => freeEntry_first⟩
  case registerRefused =>
    intro s p l hn
    refine doRegister_refused ?_
    rintro ⟨hp, ho, hg, ht⟩
    obtain ⟨h0, h1⟩ | h1 | ⟨g, hm, h1⟩ | h1 := hn
    · obtain hp | ⟨hp, hq⟩ := hp
      · exact h0 hp
      · exact h1.elim (· hp) (· hq)
    · exact Bool.false_ne_true (h1.symm.trans ho)
    · exact Bool.false_ne_true (h1.symm.trans (hg g hm))
    · exact Bool.false_ne_true (ht.symm.trans h1)
  case registerFull =>
    intro s p l hp ho hg ht hn
    rw [doRegister_allowed ⟨hp, ho, hg, ht⟩]
    cases he : s.freeEntry with
    | none => rfl
    | some i =>
      rw [he] at hn
      obtain hn | hn | ⟨g, hm, hn⟩ := hn
      · cases hn
      · exact if_pos (.inl hn)
      · exact if_pos (.inr (List.any_eq_true.2 ⟨g, hm, hn⟩))
  case registered =>
    intro s p l i hp ho hg ht he hf hn
    rw [doRegister_allowed ⟨hp, ho, hg, ht⟩, he, Option.elim_some, if_neg]
    rintro (h1 | h1)
    · exact Bool.false_ne_true (hf.symm.trans h1)
    · obtain ⟨g, hm, h1⟩ := List.any_eq_true.1 h1
      exact Bool.false_ne_true ((hn g hm).symm.trans h1)
  case fetchFailed =>
    rintro s w f l x y st h ho hi rfl hs
    exact doFetch_failed h ho hi hs
  case fetchNoRoom =>
    intro s w f l x y h ho hi hs hx hb
    rw [doFetch_registered h ho hi hs hx, hb, Option.elim_none]
  case fetchStarts =>
    intro s w f l x y bs q h ho hi hs hx hb
    rw [doFetch_registered h ho hi hs hx, hb, Option.elim_some]
  case fetchOther =>
    intro s w f l x y h ho hi hs hx hd
    rw [doFetch_again h ho hi hs hx, if_pos hd]
  case fetchRemoving =>
    intro s w f l x y h ho hi hs hx hd
    rw [doFetch_again h ho hi hs (by simp [hx]), if_neg (not_not_intro hd), if_pos hx]
  case fetchWaits =>
    intro s w f l x y h ho hi hs hx hd hw
    rw [doFetch_again h ho hi hs (by simp [hx]), if_neg (not_not_intro hd), if_neg (by simp [hx]), if_pos hx, if_pos hw]
  case fetchMissing =>
    intro s w f l x y h ho hi hs hx hd hw
    rw [doFetch_again h ho hi hs (by simp [hx]), if_neg (not_not_intro hd), if_neg (by simp [hx]), if_pos hx, if_neg (by simp [hw])]
  case fetchEnds =>
    intro s w f l x y h ho hi hs h1 h2 h3 hd
    rw [doFetch_again h ho hi hs h1, if_neg (not_not_intro hd), if_neg h2, if_neg h3]
  case fillStarts =>
    intro s w l x h ha hx hb
    rw [doFill_ready h ha hx, if_pos hb]
  case fillFull =>
    intro s w l x h ha hx hb
    rw [doFill_ready h ha hx, if_neg (by simp [hb])]
  case evictFilling =>
    intro s w l x h ho ha hx
    rw [doEvict_allowed h ho ha, if_pos hx]
  case evictWaits =>
    intro s w l x h ho ha hr hx
    rw [doEvict_allowed h ho ha, if_pos hr, ite_eq_left_iff]
    exact fun hf => if_pos (hx.imp_right (Or.imp_right And.right))
  case evictRegistry =>
    intro s w l x h ho ha hr h1 h2 h3 hw
    rw [doEvict_allowed h ho ha, if_neg h1, if_pos hr, if_neg (by simp [h2, h3, hw])]
  case evictField =>
    intro s w l x h ho hr hx
    rw [doEvict_allowed h ho (.inl hr), if_neg (by simp [hx]), if_neg hr, if_pos hx]
  case evictEnds =>
    intro s w l x h ho hr h1 h2
    rw [doEvict_allowed h ho (.inl hr), if_neg h2, if_neg hr, if_neg h1]
  case loadNoNumber =>
    intro s w f l x h ho hn
    rw [doAdapterLoad_allowed h ho, show s.freeAdapter = none from hn, Option.elim_none]
  case loadUnread =>
    intro s w f l x i h ho hn hi
    rw [doAdapterLoad_allowed h ho, show s.freeAdapter = some i from hn, hi, Option.elim_some, Option.elim_none]
  case loadQuota =>
    intro s w f l x i y h ho hn hi hp hq
    rw [doAdapterLoad_allowed h ho, show s.freeAdapter = some i from hn, hi, Option.elim_some, Option.elim_some]
    exact if_pos ⟨hp, hq⟩
  case loadFailed =>
    intro s w f l x i y st h ho hn hi hq hs h0
    rw [doAdapterLoad_image h ho hn hi hq hs, if_pos h0]
  case loadNoRoom =>
    intro s w f l x i y h ho hn hi hq hs hv
    rw [doAdapterLoad_image h ho hn hi hq hs, if_neg (not_not_intro rfl), hv, Option.elim_none]
  case loadStarts =>
    intro s w f l x i y base h ho hn hi hq hs hv
    rw [doAdapterLoad_image h ho hn hi hq hs, if_neg (not_not_intro rfl), hv, Option.elim_some]
  case replaceGone =>
    intro s w f l z h ho hw
    rw [doAdapterReplace_allowed h ho, if_pos hw]
  case replaceWaits =>
    intro s w f l z h ho hw hl
    rw [doAdapterReplace_allowed h ho, if_neg (by simp [hw]), if_pos hl]
  case replaceFull =>
    intro s w f l z h ho hw hl hn
    rw [doAdapterReplace_allowed h ho, if_neg (by simp [hw]), if_neg (by simp [hl]), if_pos hn]
  case replaceUnread =>
    intro s w f l z h ho hw hl hn hv hi
    rw [doAdapterReplace_room h ho hw hl hn hv rfl, hi, Option.elim_none]
  case replaceFailed =>
    intro s w f l z y st h ho hw hl hn hv hi hs h0
    rw [doAdapterReplace_room h ho hw hl hn hv hs, hi, Option.elim_some, if_pos h0]
  case replaceNoRoom =>
    intro s w f l z y h ho hw hl hn hv hi hs hb
    rw [doAdapterReplace_room h ho hw hl hn hv hs, hi, Option.elim_some, if_neg (not_not_intro rfl), hb, Option.elim_none]
  case replaceStarts =>
    intro s w f l z y base h ho hw hl hn hv hi hs hb
    rw [doAdapterReplace_room h ho hw hl hn hv hs, hi, Option.elim_some, if_neg (not_not_intro rfl), hb, Option.elim_some]
  case withdrawWaits =>
    intro s w l z h ho hn
    rw [doWithdraw_allowed h ho, if_pos hn]
  case withdrawn =>
    intro s w l z h ho hl hw
    rw [doWithdraw_allowed h ho, if_neg (by simp [hl, hw])]
  case platUnread =>
    rintro s w _ l x h ho rfl
    exact doPlatLoad_unread h ho
  case platRead =>
    rintro s w _ l x y st h ho rfl hs
    exact doPlatLoad_read h ho hs

end Sys2Proof.Machine
end

section
/-! SUPPORT. The head of a queue (R255, R258): what its reader finds there and what taking an item does to the queue and the free list, with the
statement of chapter 9 on readers. -/

namespace Sys2Proof.Machine

section
variable (c : Cistern) (n : Nat)

@[simp] theorem Cistern.queue_setQueue_same (x : CQueue) : (c.setQueue n x).queue n = x := SMap.get_set_same ..

@[simp] theorem Cistern.give_queue (o : Nat) (cells : List Nat) : (c.give o cells).queue n = c.queue n := rfl

/-- The end of a flush clears the queue's flush bit and changes nothing else of it. -/
theorem Cistern.endFlush_head : ((c.endFlush n).queue n).pkts = (c.queue n).pkts ∧ ((c.endFlush n).queue n).pos = (c.queue n).pos ∧
    (c.endFlush n).freed = c.freed := by
  unfold Cistern.endFlush
  dsimp only
  split
  · rw [Cistern.queue_setQueue_same]
    exact ⟨rfl, rfl, rfl⟩
  · exact ⟨rfl, rfl, rfl⟩

variable {c n}

/-- A queue without flushed packets loses none at a packet boundary (R258). -/
theorem Cistern.dropDoomed_head (hpos : (c.queue n).pos = 0) (hd : ∀ y ∈ (c.queue n).pkts, y.doomed = false) :
    ((c.dropDoomed n).queue n).pkts = (c.queue n).pkts ∧ ((c.dropDoomed n).queue n).pos = 0 ∧ (c.dropDoomed n).freed = c.freed := by
  have hbad : (c.queue n).pkts.filter (fun p => p.doomed) = [] := List.filter_eq_nil_iff.2 fun y hy => ne_true_of_eq_false (hd y hy)
  have hgood : (c.queue n).pkts.filter (fun p => !p.doomed) = (c.queue n).pkts :=
    List.filter_eq_self.2 fun y hy => by rw [hd y hy, Bool.not_false]
  unfold Cistern.dropDoomed
  dsimp only
  rw [if_pos hpos, hbad, hgood]
  obtain ⟨hpkts, hpos', hfreed⟩ := Cistern.endFlush_head
    { (c.setQueue n { c.queue n with disc := satAdd 64 (c.queue n).disc 0 }).give (queueOwner n) [] with
      flushCnt := satAdd 32 c.flushCnt 0 } n
  exact ⟨hpkts.trans ((congrArg CQueue.pkts (c.queue_setQueue_same n _)).trans rfl),
    hpos'.trans ((congrArg CQueue.pos (c.queue_setQueue_same n _)).trans hpos), hfreed⟩

section
variable {p : Pkt} {l : List Pkt} (h : (c.queue n).pkts = p :: l)
include h

/-- An item inside its cell: only the reader moves. -/
theorem Cistern.popItem_inside (hn : (c.queue n).pos + 1 ≠ p.n) (hc : ((c.queue n).pos + 1) % 14 ≠ 0) :
    c.popItem n = c.setQueue n { c.queue n with pos := (c.queue n).pos + 1 } := by
  unfold Cistern.popItem
  simp only [h]
  rw [if_neg hn, if_neg hc]

/-- The last item of a cell that is not the packet's last: the cell returns. -/
theorem Cistern.popItem_cell (hn : (c.queue n).pos + 1 ≠ p.n) (hc : ((c.queue n).pos + 1) % 14 = 0) :
    c.popItem n = (c.setQueue n { c.queue n with
      pkts := { p with cells := p.cells.tail } :: l, pos := (c.queue n).pos + 1 }).give (queueOwner n) (p.cells.take 1) := by
  unfold Cistern.popItem
  simp only [h]
  rw [if_neg hn, if_pos hc]

/-- The last item of a packet: the packet goes with the cells it still holds. -/
theorem Cistern.popItem_packet (hn : (c.queue n).pos + 1 = p.n) :
    c.popItem n = ((c.setQueue n { c.queue n with pkts := l, pos := 0 }).give (queueOwner n) p.cells).dropDoomed n := by
  unfold Cistern.popItem
  simp only [h]
  rw [if_pos hn]

end

theorem Cistern.popItem_empty (h : (c.queue n).pkts = []) : c.popItem n = c := by
  unfold Cistern.popItem
  simp only [h]

end

theorem State.headItem_key {s : State} {q n : Nat} {p : Pkt} {l : List Pkt} (h : ((s.cistern q).queue n).pkts = p :: l) :
    (s.headItem q n).map (fun x => x.1) = some (s.cellKey q (p.cells.headD 0)) := by
  unfold State.headItem
  simp only [h]
  rfl

/-- Settles O15: where the item stands in its cell and its packet decides what returns. -/
theorem readersTakeItemsFromTheHead : Obligations.ReadersTakeItemsFromTheHead := by
  unfold Obligations.ReadersTakeItemsFromTheHead
  refine ⟨fun s q n p l h => State.headItem_key h, ?inside, ?cell, ?packet, fun c n h => Cistern.popItem_empty h⟩
  case inside =>
    intro c n p l h hn hc
    rw [Cistern.popItem_inside h hn hc]
    exact ⟨c.queue_setQueue_same n _, rfl⟩
  case cell =>
    intro c n x r p l h hcells hn hc
    rw [Cistern.popItem_cell h hn hc, hcells, Cistern.give_queue, Cistern.queue_setQueue_same]
    exact ⟨rfl, rfl⟩
  case packet =>
    intro c n p l h hd hn
    have hq : ((c.setQueue n { c.queue n with pkts := l, pos := 0 }).give (queueOwner n) p.cells).queue n =
        { c.queue n with pkts := l, pos := 0 } := c.queue_setQueue_same n _
    have hdrop := Cistern.dropDoomed_head (congrArg CQueue.pos hq) (by rw [hq]; exact hd)
    rwa [hq, ← Cistern.popItem_packet h hn] at hdrop

end Sys2Proof.Machine
end

section
/-! SUPPORT. The ranking of experts and their capacities (R263, R269, R270), with the statement of chapter 9 on them. -/

namespace Sys2Proof.Machine

/-! The order of scores (R263): a NaN after every number, else the greater score first. -/

theorem scoreBefore_iff (a b : Nat) : scoreBefore a b = true ↔
    fmtBF16.isNaN b = true ∨ (fmtBF16.isNaN a = false ∧ fmtBF16.key0 b ≤ fmtBF16.key0 a) := by
  unfold scoreBefore
  cases fmtBF16.isNaN a <;> simp

theorem scoreBefore_total {a b : Nat} (h : scoreBefore a b = false) : scoreBefore b a = true := by
  rw [← Bool.not_eq_true, scoreBefore_iff, not_or] at h
  obtain ⟨hb, hk⟩ := h
  rw [scoreBefore_iff]
  cases ha : fmtBF16.isNaN a with
  | true => exact .inl rfl
  | false => exact .inr ⟨Bool.eq_false_iff.2 hb, Int.le_of_lt (Int.not_le.1 fun hle => hk ⟨ha, hle⟩)⟩

theorem scoreBefore_trans {a b c : Nat} (h1 : scoreBefore a b = true) (h2 : scoreBefore b c = true) : scoreBefore a c = true := by
  rw [scoreBefore_iff] at h1 h2 ⊢
  obtain hc | ⟨hb, hcb⟩ := h2
  · exact .inl hc
  · obtain hb' | ⟨ha, hba⟩ := h1
    · exact absurd hb' (ne_true_of_eq_false hb)
    · exact .inr ⟨ha, hcb.trans hba⟩

/-- Expert `x` ranks before expert `y`: by its score, or by its index where the scores rank alike. -/
def RanksBefore (score : Nat → Nat) (x y : Nat) : Prop :=
  scoreBefore (score x) (score y) = true ∧ (scoreBefore (score y) (score x) = true → x < y)

section
variable {score : Nat → Nat} {x y z : Nat}

theorem RanksBefore.trans (h1 : RanksBefore score x y) (h2 : RanksBefore score y z) : RanksBefore score x z :=
  ⟨scoreBefore_trans h1.1 h2.1, fun h => (h1.2 (scoreBefore_trans h2.1 h)).trans (h2.2 (scoreBefore_trans h h1.1))⟩

theorem ranksBefore_of_not_scoreBefore (h : scoreBefore (score y) (score x) = false) : RanksBefore score x y :=
  ⟨scoreBefore_total h, fun h' => absurd h' (ne_true_of_eq_false h)⟩

theorem rankInsert_perm (score : Nat → Nat) (x : Nat) (l : List Nat) : (rankInsert score x l).Perm (x :: l) := by
  induction l with
  | nil => exact .refl _
  | cons y l ih =>
    unfold rankInsert
    split
    · exact (ih.cons y).trans (.swap x y l)
    · exact .refl _

/-- An expert of higher index than all that are ranked takes its place among them. -/
theorem rankInsert_pairwise {l : List Nat} (hl : l.Pairwise (RanksBefore score)) (hx : ∀ y ∈ l, y < x) :
    (rankInsert score x l).Pairwise (RanksBefore score) := by
  induction l with
  | nil => exact List.pairwise_singleton _ _
  | cons y l ih =>
    obtain ⟨hy, hl'⟩ := List.pairwise_cons.1 hl
    obtain ⟨hyx, hx'⟩ := List.forall_mem_cons.1 hx
    unfold rankInsert
    split
    · next hb =>
      refine List.pairwise_cons.2 ⟨fun z hz => ?_, ih hl' hx'⟩
      obtain rfl | hz := List.mem_cons.1 ((rankInsert_perm score x l).mem_iff.1 hz)
      · exact ⟨hb, fun _ => hyx⟩
      · exact hy z hz
    · next hb =>
      have hxy : RanksBefore score x y := ranksBefore_of_not_scoreBefore (Bool.eq_false_iff.2 hb)
      exact List.pairwise_cons.2 ⟨List.forall_mem_cons.2 ⟨hxy, fun z hz => hxy.trans (hy z hz)⟩, hl⟩

theorem rankExperts_succ (n : Nat) (score : Nat → Nat) : rankExperts (n + 1) score = rankInsert score n (rankExperts n score) := by
  rw [rankExperts, List.range_succ, List.foldl_append]
  rfl

theorem rankExperts_perm (n : Nat) (score : Nat → Nat) : (rankExperts n score).Perm (List.range n) := by
  induction n with
  | zero => exact .refl _
  | succ n ih =>
    rw [rankExperts_succ, List.range_succ]
    exact ((rankInsert_perm score n _).trans (ih.cons n)).trans (List.perm_append_singleton n _).symm

theorem rankExperts_pairwise (n : Nat) (score : Nat → Nat) : (rankExperts n score).Pairwise (RanksBefore score) := by
  induction n with
  | zero => exact .nil
  | succ n ih =>
    rw [rankExperts_succ]
    exact rankInsert_pairwise ih fun y hy => List.mem_range.1 ((rankExperts_perm n score).mem_iff.1 hy)

end

/-! Offers to one expert (R269, R270). -/

section
variable {r : RTable} {x : Nat}

/-- The table with one more use of expert `x` counted. -/
def RTable.countUse (r : RTable) (x : Nat) : RTable := { r with used := SMap.set 0 r.used x (r.usedOf x + 1) }

theorem RTable.countUse_usedOf (r : RTable) (x i : Nat) : (r.countUse x).usedOf i = if x = i then r.usedOf x + 1 else r.usedOf i := by
  simp only [RTable.usedOf, RTable.countUse, SMap.get_set]

theorem RTable.offer_of_room (h : r.capOf x = 0xFFFF ∨ r.usedOf x < r.capOf x) : r.offer x = some (r.countUse x) := if_pos h

theorem RTable.offer_of_full (h1 : r.capOf x ≠ 0xFFFF) (h2 : r.capOf x ≤ r.usedOf x) : r.offer x = none :=
  if_neg fun h => h.elim h1 (Nat.not_lt.2 h2)

end

/-- Settles O24: each expert in turn is put in its place among those of lower index. -/
theorem expertsAreRankedByScore : Obligations.ExpertsAreRankedByScore := by
  unfold Obligations.ExpertsAreRankedByScore
  exact ⟨fun n score => ⟨rankExperts_perm n score, rankExperts_pairwise n score⟩,
    fun r x h => ⟨_, RTable.offer_of_room h, (r.countUse_usedOf x x).trans (if_pos rfl),
      fun i hi => (r.countUse_usedOf x i).trans (if_neg hi.symm), rfl⟩,
    fun r x => RTable.offer_of_full⟩

end Sys2Proof.Machine
end

section
/-! SUPPORT. The lateral engines (R256, R262 to R271, R275, R276): taking a packet, the offers of a route packet, faults, returns and the two banks of
a route table, with the statement of chapter 9 on them. -/

namespace Sys2Proof.Machine

/-! Taking a packet (R265, R275). -/

section
variable {s : State} {e t q n : Nat} {mine : Nat → Bool} {act : State → Nat → Nat → Nat → List Bytes → State}

theorem latTake_none (h : s.latNext e (fun k => !k.pkts.isEmpty) = none) : s.latTake e mine act = s.latIdle e := by
  simp only [State.latTake, h]

theorem latTake_otherKind (h : s.latNext e (fun k => !k.pkts.isEmpty) = some (t, q, n)) (hk : mine (packetKind (headPacket s q n)) = false) :
    s.latTake e mine act = s := by
  simp only [State.latTake, h]
  exact if_pos (congrArg not hk)

theorem latTake_bad {u : Nat} (h : s.latNext e (fun k => !k.pkts.isEmpty) = some (t, q, n))
    (hk : mine (packetKind (headPacket s q n)) = true) (hu : s.packetUe q n = some u) : s.latTake e mine act = badPacket s e t q n u := by
  simp only [State.latTake, h, hu]
  exact if_neg (ne_true_of_eq_false (congrArg not hk))

theorem latTake_whole (h : comesTo s e t q n) (hk : mine (packetKind (headPacket s q n)) = true) :
    s.latTake e mine act = act (tookPacket s e t q n) t q n (headPacket s q n) := by
  obtain ⟨hnext, hu⟩ := h
  simp only [State.latTake, hnext, hu]
  exact if_neg (ne_true_of_eq_false (congrArg not hk))

theorem latIdle_none (h : s.latNext e (fun k => !k.stall) = none) : s.latIdle e = s := by
  simp only [State.latIdle, h]

theorem latIdle_some (h : s.latNext e (fun k => !k.stall) = some (t, q, n)) : s.latIdle e = (s.latTurn e t q n).idleItem q := by
  simp only [State.latIdle, h]

end

section
variable (s : State) (q n : Nat)

@[simp] theorem State.countForced_slot (items : Nat) : (s.countForced q n items).slot = s.slot := by
  unfold State.countForced
  split <;> rfl

@[simp] theorem State.takeItem_slot : (s.takeItem q n).slot = s.slot := by
  unfold State.takeItem
  dsimp only
  split
  · rfl
  · exact State.countForced_slot ..

@[simp] theorem State.popPacket_slot (f : Nat) : (s.popPacket q n f).1.slot = s.slot := by
  induction f generalizing s with
  | zero => rfl
  | succ f ih =>
    unfold State.popPacket
    split
    · rfl
    · dsimp only
      split
      · exact s.takeItem_slot q n
      · exact (ih _).trans (s.takeItem_slot q n)

/-- Taking a packet leaves the module in its slot. -/
theorem tookPacket_slot (e t : Nat) : (tookPacket s e t q n).slot = s.slot := State.popPacket_slot ..

end

/-! The three commands that take packets, by the kind of the packet (Tables 9-7, 11-2). -/

section
variable {s : State} {le : Fin 4} {t q n : Nat}

theorem routeKind_iff {k : Nat} : (k != 3 && k != 4) = true ↔ k ≠ 3 ∧ k ≠ 4 := by
  rw [Bool.and_eq_true, bne_iff_ne, bne_iff_ne]

theorem exec_latPackets_none (h : s.latNext le.val (fun k => !k.pkts.isEmpty) = none) :
    exec (.routePacket le) s = .next (s.latIdle le.val) ∧ exec (.returnPacket le) s = .next (s.latIdle le.val) ∧
      exec (.gatherPacket le) s = .next (s.latIdle le.val) :=
  ⟨congrArg Host.Outcome.next (latTake_none h), congrArg Host.Outcome.next (latTake_none h), congrArg Host.Outcome.next (latTake_none h)⟩

theorem exec_latPackets_otherKind (h : s.latNext le.val (fun k => !k.pkts.isEmpty) = some (t, q, n)) :
    (packetKind (headPacket s q n) = 3 ∨ packetKind (headPacket s q n) = 4 → exec (.routePacket le) s = .next s) ∧
      (packetKind (headPacket s q n) ≠ 3 → exec (.returnPacket le) s = .next s) ∧
      (packetKind (headPacket s q n) ≠ 4 → exec (.gatherPacket le) s = .next s) := by
  refine ⟨fun hk => congrArg Host.Outcome.next (latTake_otherKind h ?_),
    fun hk => congrArg Host.Outcome.next (latTake_otherKind h (beq_false_of_ne hk)),
    fun hk => congrArg Host.Outcome.next (latTake_otherKind h (beq_false_of_ne hk))⟩
  rw [← Bool.not_eq_true, routeKind_iff]
  omega

theorem exec_latPackets_bad {u : Nat} (h : s.latNext le.val (fun k => !k.pkts.isEmpty) = some (t, q, n)) (hu : s.packetUe q n = some u) :
    (packetKind (headPacket s q n) ≠ 3 → packetKind (headPacket s q n) ≠ 4 → exec (.routePacket le) s = .next (badPacket s le.val t q n u)) ∧
      (packetKind (headPacket s q n) = 3 → exec (.returnPacket le) s = .next (badPacket s le.val t q n u)) ∧
      (packetKind (headPacket s q n) = 4 → exec (.gatherPacket le) s = .next (badPacket s le.val t q n u)) :=
  ⟨fun h3 h4 => congrArg Host.Outcome.next (latTake_bad h (routeKind_iff.2 ⟨h3, h4⟩) hu),
    fun hk => congrArg Host.Outcome.next (latTake_bad h (beq_iff_eq.2 hk) hu),
    fun hk => congrArg Host.Outcome.next (latTake_bad h (beq_iff_eq.2 hk) hu)⟩

theorem exec_routePacket_whole (h : comesTo s le.val t q n) (h3 : packetKind (headPacket s q n) ≠ 3) (h4 : packetKind (headPacket s q n) ≠ 4) :
    exec (.routePacket le) s = .next ((tookPacket s le.val t q n).latRoute le.val t n (headPacket s q n)) :=
  congrArg Host.Outcome.next (latTake_whole h (routeKind_iff.2 ⟨h3, h4⟩))

/-- A return packet: its tag names the module and the lateral engine that it goes to (Table 9-8). -/
theorem exec_returnPacket_whole (h : comesTo s le.val t q n) (hk : packetKind (headPacket s q n) = 3) : exec (.returnPacket le) s = .next
    (if leAt ((headPacket s q n).headD []) 4 4 / 2 ^ 30 % 4 = s.slot % 4
      then (tookPacket s le.val t q n).latArrive (leAt ((headPacket s q n).headD []) 4 4 / 2 ^ 28 % 4) n
        (((tookPacket s le.val t q n).lateral le.val).table t).lead (headPacket s q n)
      else (tookPacket s le.val t q n).latRemote le.val (leAt ((headPacket s q n).headD []) 4 4 / 2 ^ 30 % 4)
        (leAt ((headPacket s q n).headD []) 4 4 / 2 ^ 28 % 4) 0 (((tookPacket s le.val t q n).lateral le.val).table t).lead (headPacket s q n)) := by
  rw [← tookPacket_slot s q n le.val t]
  exact congrArg Host.Outcome.next (latTake_whole h (beq_iff_eq.2 hk))

end

/-! The offers of a route packet (R269, R270). -/

theorem RTable.offer_bank {r y : RTable} {x : Nat} (h : r.offer x = some y) : y.bank = r.bank := by
  unfold RTable.offer at h
  split at h
  · rw [← Option.some.inj h]
  · cases h

/-- Each choice has one copy, of its rank; it goes to its own expert or nowhere. -/
theorem offerChoices_facts (r : RTable) (l : List (Nat × Nat)) : (offerChoices r l).2.map CopyTo.rank = l.map Prod.fst ∧
    (∀ c x, c ∈ (offerChoices r l).2 → c.expert = some x → x ∈ l.map Prod.snd) ∧ (offerChoices r l).1.bank = r.bank := by
  induction l generalizing r with
  | nil => exact ⟨rfl, fun c x hc => absurd hc List.not_mem_nil, rfl⟩
  | cons a l ih =>
    obtain ⟨k, z⟩ := a
    unfold offerChoices
    cases ho : r.offer z with
    | some r1 =>
      obtain ⟨hr, he, hb⟩ := ih r1
      refine ⟨congrArg (k :: ·) hr, fun c x hc hx => ?_, hb.trans (RTable.offer_bank ho)⟩
      obtain rfl | hc := List.mem_cons.1 hc
      · exact List.mem_cons.2 (.inl (Option.some.inj hx).symm)
      · exact List.mem_cons_of_mem _ (he c x hc hx)
    | none =>
      obtain ⟨hr, he, hb⟩ := ih r
      refine ⟨congrArg (k :: ·) hr, fun c x hc hx => ?_, hb⟩
      obtain rfl | hc := List.mem_cons.1 hc
      · cases hx
      · exact List.mem_cons_of_mem _ (he c x hc hx)

/-- The second offers keep each copy's rank; a copy goes to the expert it had, or to one that they offer it to. -/
theorem offerSecond_facts (r : RTable) (rest : List Nat) (l : List CopyTo) :
    (offerSecond r rest l).2.1.map CopyTo.rank = l.map CopyTo.rank ∧
    (∀ c x, c ∈ (offerSecond r rest l).2.1 → c.expert = some x → (∃ d ∈ l, d.expert = some x) ∨ x ∈ (offerSecond r rest l).2.2) ∧
    (offerSecond r rest l).1.bank = r.bank := by
  fun_induction offerSecond r rest l with
  | case1 r rest => exact ⟨rfl, fun c x hc => absurd hc List.not_mem_nil, rfl⟩
  | case2 r c l hn z rest r1 ho o ih =>
    obtain ⟨hr, he, hb⟩ := ih
    refine ⟨congrArg (c.rank :: ·) hr, fun d x hd hx => ?_, hb.trans (RTable.offer_bank ho)⟩
    obtain rfl | hd := List.mem_cons.1 hd
    · exact .inr (List.mem_cons.2 (.inl (Option.some.inj hx).symm))
    · exact (he d x hd hx).imp (fun ⟨y, hy, h⟩ => ⟨y, List.mem_cons_of_mem _ hy, h⟩) (List.mem_cons_of_mem _)
  | case3 r c l hn z rest ho o ih =>
    obtain ⟨hr, he, hb⟩ := ih
    refine ⟨congrArg (c.rank :: ·) hr, fun d x hd hx => ?_, hb⟩
    obtain rfl | hd := List.mem_cons.1 hd
    · exact .inl ⟨_, List.mem_cons_self, hx⟩
    · exact (he d x hd hx).imp (fun ⟨y, hy, h⟩ => ⟨y, List.mem_cons_of_mem _ hy, h⟩) (List.mem_cons_of_mem _)
  | case4 r rest c l _ ih =>
    obtain ⟨hr, he, hb⟩ := ih
    refine ⟨congrArg (c.rank :: ·) hr, fun d x hd hx => ?_, hb⟩
    obtain rfl | hd := List.mem_cons.1 hd
    · exact .inl ⟨_, List.mem_cons_self, hx⟩
    · exact (he d x hd hx).imp_left fun ⟨y, hy, h⟩ => ⟨y, List.mem_cons_of_mem _ hy, h⟩

/-- The table that a route packet's offers start from: the counts of uses start anew with a step and a half (R269). -/
def RTable.renewed (r : RTable) (half : Nat) : RTable :=
  if r.gen ≠ r.usedGen ∨ half ≠ r.half then { r with used := [], usedGen := r.gen, half := half } else r

theorem RTable.renewed_bank (r : RTable) (half : Nat) : (r.renewed half).bank = r.bank := by
  unfold RTable.renewed
  split <;> rfl

/-- The first offers of a route packet, each choice with its rank. -/
def RTable.firstOffers (r : RTable) (items : List Bytes) : RTable × List CopyTo :=
  offerChoices (r.renewed (leAt (items.headD []) 1 1 / 8 % 2)) ((routeChoices items).zipIdx.map (fun x => (x.2, x.1)))

section
variable (r : RTable) (items : List Bytes)

theorem RTable.firstOffers_facts : (r.firstOffers items).2.map CopyTo.rank = List.range (routeChoices items).length ∧
    (∀ c x, c ∈ (r.firstOffers items).2 → c.expert = some x → x ∈ routeChoices items) ∧ (r.firstOffers items).1.bank = r.bank := by
  obtain ⟨hr, he, hb⟩ := offerChoices_facts (r.renewed (leAt (items.headD []) 1 1 / 8 % 2)) ((routeChoices items).zipIdx.map (fun x => (x.2, x.1)))
  rw [List.map_map, show (Prod.fst ∘ fun x : Nat × Nat => (x.2, x.1)) = Prod.snd from rfl, List.zipIdx_map_snd, ← List.range_eq_range'] at hr
  rw [List.map_map, show (Prod.snd ∘ fun x : Nat × Nat => (x.2, x.1)) = Prod.fst from rfl, List.zipIdx_map_fst] at he
  exact ⟨hr, he, hb.trans (r.renewed_bank _)⟩

theorem RTable.offers_eq : r.offers items = if leAt (items.headD []) 1 1 / 4 % 2 = 1 then
    ((offerSecond (r.firstOffers items).1 ((routeRanked items).drop (1 + leAt (items.headD []) 1 1 % 2)) (r.firstOffers items).2).1,
      (offerSecond (r.firstOffers items).1 ((routeRanked items).drop (1 + leAt (items.headD []) 1 1 % 2)) (r.firstOffers items).2).2.1,
      routeChoices items ++
        (offerSecond (r.firstOffers items).1 ((routeRanked items).drop (1 + leAt (items.headD []) 1 1 % 2)) (r.firstOffers items).2).2.2)
    else ((r.firstOffers items).1, (r.firstOffers items).2, routeChoices items) := rfl

/-- Each choice of a route packet has one copy, and a copy goes only to an expert it was offered to. -/
theorem RTable.offers_facts : (r.offers items).2.1.map CopyTo.rank = List.range (routeChoices items).length ∧
    (∀ c x, c ∈ (r.offers items).2.1 → c.expert = some x → x ∈ (r.offers items).2.2) ∧ (r.offers items).1.bank = r.bank := by
  obtain ⟨hr, he, hb⟩ := r.firstOffers_facts items
  rw [RTable.offers_eq]
  split
  · obtain ⟨hr2, he2, hb2⟩ := offerSecond_facts (r.firstOffers items).1 ((routeRanked items).drop (1 + leAt (items.headD []) 1 1 % 2))
      (r.firstOffers items).2
    refine ⟨hr2.trans hr, fun c x hc hx => List.mem_append.2 ?_, hb2.trans hb⟩
    exact (he2 c x hc hx).imp_left fun ⟨d, hd, hx⟩ => he d x hd hx
  · exact ⟨hr, he, hb⟩

end

/-! Route packets (R262, R275, Table 9-9). -/

theorem routeOk_iff (items : List Bytes) : routeOk items = true ↔ routeRecordOk items := decide_eq_true_iff

section
variable {s : State} {e t q : Nat} {items : List Bytes}

theorem latRoute_bad (h : ¬ routeRecordOk items) : s.latRoute e t q items = s.leFault e 0x10 t q 0 [((s.lateral e).table t).lead] :=
  if_pos (by rw [Bool.not_eq_true', ← Bool.not_eq_true, routeOk_iff]; exact h)

/-- A good record: some expert offered to has no valid entry, or the copies go out. -/
theorem latRoute_good (h : routeRecordOk items) : s.latRoute e t q items =
    if (((s.lateral e).table t).offers items).2.2.any (fun x => decide (((s.lateral e).table t).entry x % 4 = 0)) = true
    then s.leFault e 0x11 t q 0 [((s.lateral e).table t).lead]
    else (s.updLe e (fun l => l.updTable t (fun _ => (((s.lateral e).table t).offers items).1))).latCopies e t q
      ((s.lateral e).table t).lead items (((s.lateral e).table t).offers items).2.1 :=
  if_neg (by rw [(routeOk_iff items).2 h]; exact Bool.false_ne_true)

theorem latRoute_noEntry (h : routeRecordOk items)
    (hx : ∃ x, x ∈ (((s.lateral e).table t).offers items).2.2 ∧ ((s.lateral e).table t).entry x % 4 = 0) :
    s.latRoute e t q items = s.leFault e 0x11 t q 0 [((s.lateral e).table t).lead] := by
  rw [latRoute_good h, if_pos (List.any_eq_true.2 (hx.imp fun x hx => hx.imp_right decide_eq_true))]

theorem latRoute_routes (h : routeRecordOk items)
    (hx : ∀ x, x ∈ (((s.lateral e).table t).offers items).2.2 → ((s.lateral e).table t).entry x % 4 ≠ 0) :
    s.latRoute e t q items = (s.updLe e (fun l => l.updTable t (fun _ => (((s.lateral e).table t).offers items).1))).latCopies e t q
      ((s.lateral e).table t).lead items (((s.lateral e).table t).offers items).2.1 := by
  refine (latRoute_good h).trans (if_neg fun ha => ?_)
  obtain ⟨x, hmem, h0⟩ := List.any_eq_true.1 ha
  exact hx x hmem (of_decide_eq_true h0)

end

/-! Faults (R275, Table 9-11). -/

/-- A lateral engine with a fault raised: the first stands. -/
def Lateral.raise (l : Lateral) (cause info : Nat) : Lateral :=
  { l with errInfo := if l.err.valid then l.errInfo else info, err := l.err.raise cause 0 }

@[simp] theorem Lateral.raise_err (l : Lateral) (cause info : Nat) : (l.raise cause info).err = l.err.raise cause 0 := rfl

@[simp] theorem Lateral.raise_table (l : Lateral) (cause info t : Nat) : (l.raise cause info).table t = l.table t := rfl

/-- `LE_ERR_INFO` (Table 9-11): table, queue and return tag. -/
def leInfo (table queue rtag : Nat) : Nat := table % 16 + queue % 2 ^ 13 * 2 ^ 4 + rtag % 2 ^ 32 * 2 ^ 32

section
variable (s : State) (e cause table queue rtag parcel : Nat)

/-- A lateral fault changes its engine, which keeps it, the interrupt controller and the field book only. -/
theorem leErr_eq : ∃ h k, s.leErr e cause table queue rtag parcel =
    { s.updLe e (fun l => l.raise cause (leInfo table queue rtag)) with hic := h, book := k } ∧ k.next = s.book.next + 1 := by
  obtain ⟨k, hp, hk⟩ := State.post_quiet ((s.updLe e (fun l => l.raise cause (leInfo table queue rtag))).signal (152 + e)) 0x06 cause parcel e
    (BitVec.ofNat 64 (leInfo table queue rtag))
  exact ⟨_, k, hp, hk⟩

theorem leErr_lateral : (s.leErr e cause table queue rtag parcel).lateral e = (s.lateral e).raise cause (leInfo table queue rtag) := by
  obtain ⟨h, k, he, -⟩ := leErr_eq s e cause table queue rtag parcel
  rw [he]
  change (s.updLe e (fun l => l.raise cause (leInfo table queue rtag))).lateral e = _
  rw [State.updLe_lateral_at, if_pos rfl]

/-- A lateral fault takes the next number of the field book and touches no plot, tile or cistern. -/
theorem leErr_frame : (s.leErr e cause table queue rtag parcel).book.next = s.book.next + 1 ∧
    (∀ b, (s.leErr e cause table queue rtag parcel).plot b = s.plot b) ∧ (s.leErr e cause table queue rtag parcel).tiles = s.tiles ∧
    (s.leErr e cause table queue rtag parcel).cist = s.cist := by
  obtain ⟨h, k, he, hk⟩ := leErr_eq s e cause table queue rtag parcel
  rw [he]
  exact ⟨hk, fun _ => rfl, rfl, rfl⟩

/-- The status a force gives depends on the tiles. -/
theorem forcedStatus_congr {u : State} (h : u.tiles = s.tiles) (p : Plot) (c st : Nat) : u.forcedStatus p c st = s.forcedStatus p c st := by
  have ht : u.tile = s.tile := funext fun g => congrArg (fun m => SMap.get Tile.reset m g) h
  rw [State.forcedStatus, State.saving, ht]
  rfl

theorem force_latFrame (b c st tile : Nat) : (∀ i, (s.force b c st tile).lateral i = s.lateral i) ∧ (s.force b c st tile).book = s.book := by
  obtain ⟨h, l, he⟩ := s.force_eq b c st tile false
  rw [he]
  exact ⟨fun _ => rfl, rfl⟩

theorem leFault_single (lead : Nat) : s.leFault e cause table queue rtag [lead] =
    (s.leErr e cause table queue rtag (s.leadParcel lead)).force lead 0x0C 0x0403 0 := rfl

/-- The fault of one plot is kept and recorded, and forces the plot (cause 12). -/
theorem leFault_forces {lead : Nat} {p : Plot} (hv : (s.lateral e).err.valid = false) (hp : s.plot lead = some p) (h1 : p.state ≠ .free)
    (h2 : p.state ≠ .forcing) : ((s.leFault e cause table queue rtag [lead]).lateral e).err = ⟨cause, true, false, 0⟩ ∧
      (∃ y, (s.leFault e cause table queue rtag [lead]).plot lead = some y ∧ y.state = .forcing ∧ y.forceCause = 0x0C ∧
        y.forceStatus = s.forcedStatus p 0x0C 0x0403) ∧
      (s.leFault e cause table queue rtag [lead]).book.next = s.book.next + 1 := by
  obtain ⟨hbook, hplot, htiles, -⟩ := leErr_frame s e cause table queue rtag (s.leadParcel lead)
  obtain ⟨hlat, hbook'⟩ := force_latFrame (s.leErr e cause table queue rtag (s.leadParcel lead)) lead 0x0C 0x0403 0
  rw [leFault_single, hlat, hbook', leErr_lateral, Lateral.raise_err]
  refine ⟨FaultRec.raise_of_clear cause 0 hv, ?_, hbook⟩
  rw [force_live _ _ _ _ ((hplot lead).trans hp) h1 h2]
  exact ⟨_, (State.setPlot_plot_at ..).trans (if_pos rfl), rfl, rfl, forcedStatus_congr s htiles p 0x0C 0x0403⟩

end

/-! Returns (R267, R268, R276). -/

/-- A return that is dropped is counted in its table. -/
def State.dropReturn (s : State) (e t : Nat) : State :=
  s.updLe e (fun l => l.updTable t (fun r => { r with staleCnt := satAdd 32 r.staleCnt 1 }))

theorem dropReturn_table (s : State) (e t : Nat) : ((s.dropReturn e t).lateral e).table t =
    { (s.lateral e).table t with staleCnt := satAdd 32 ((s.lateral e).table t).staleCnt 1 } := by
  rw [State.dropReturn, State.updLe_lateral_at, if_pos rfl, Lateral.table_updTable_same]

theorem dropReturn_err (s : State) (e t : Nat) : ((s.dropReturn e t).lateral e).err = (s.lateral e).err := by
  rw [State.dropReturn, State.updLe_lateral_at, if_pos rfl]
  rfl

section
variable {s : State} {e q lead : Nat} {items : List Bytes} {r : RTable} (hr : (s.lateral e).table (leAt (items.headD []) 0xC 1 % 16) = r)
include hr

theorem latArrive_noTable (h : r.valid = false ∨ s.plot r.lead = none) : s.latArrive e q lead items =
    (s.leErr e 0x13 (leAt (items.headD []) 0xC 1 % 16) q (leAt (items.headD []) 4 4) (s.leadParcel lead)).dropReturn e
      (leAt (items.headD []) 0xC 1 % 16) := by
  subst hr
  exact if_pos (h.imp (congrArg not) Option.isNone_iff_eq_none.2)

section
variable (hv : r.valid = true) (hp : (s.plot r.lead).isSome = true)
include hv hp

theorem latArrive_ofTable : s.latArrive e q lead items =
    if leAt (items.headD []) 4 4 % 2 ^ 12 ≠ r.gen ∨ r.aborted = true then s.dropReturn e (leAt (items.headD []) 0xC 1 % 16)
    else s.latReturn e (leAt (items.headD []) 0xC 1 % 16) (leAt (items.headD []) 4 4 / 2 ^ 27 % 2) (leAt (items.headD []) 4 4) q lead items := by
  subst hr
  refine if_neg ?_
  rw [hv, ← Option.not_isSome, hp]
  exact fun h => h.elim Bool.false_ne_true Bool.false_ne_true

theorem latArrive_linked (hg : leAt (items.headD []) 4 4 % 2 ^ 12 = r.gen) (ha : r.aborted = false) : s.latArrive e q lead items =
    s.latReturn e (leAt (items.headD []) 0xC 1 % 16) (leAt (items.headD []) 4 4 / 2 ^ 27 % 2) (leAt (items.headD []) 4 4) q lead items :=
  (latArrive_ofTable hr hv hp).trans (if_neg fun h => h.elim (absurd hg) (ne_true_of_eq_false ha))

end

/-- A return for no table in use is a fault; it and a stale one are counted in the table and change no cistern. -/
theorem latArrive_dropped
    (h : r.valid = false ∨ s.plot r.lead = none ∨ leAt (items.headD []) 4 4 % 2 ^ 12 ≠ r.gen ∨ r.aborted = true) :
    ((s.latArrive e q lead items).lateral e).table (leAt (items.headD []) 0xC 1 % 16) = { r with staleCnt := satAdd 32 r.staleCnt 1 } ∧
    (s.latArrive e q lead items).cist = s.cist ∧
    (r.valid = false ∨ s.plot r.lead = none → ((s.latArrive e q lead items).lateral e).err = (s.lateral e).err.raise 0x13 0) := by
  by_cases hn : r.valid = false ∨ s.plot r.lead = none
  · obtain ⟨-, -, -, hcist⟩ := leErr_frame s e 0x13 (leAt (items.headD []) 0xC 1 % 16) q (leAt (items.headD []) 4 4) (s.leadParcel lead)
    rw [latArrive_noTable hr hn, dropReturn_table, dropReturn_err, leErr_lateral, Lateral.raise_err, Lateral.raise_table, hr]
    exact ⟨rfl, hcist, fun _ => rfl⟩
  · obtain ⟨hv, hp⟩ := not_or.1 hn
    have hs := (or_assoc.2 h).resolve_left hn
    rw [latArrive_ofTable hr (by simpa using hv) (Option.isSome_iff_ne_none.2 hp), if_pos hs, dropReturn_table, hr]
    exact ⟨rfl, rfl, fun h => absurd h hn⟩

end

/-! The banks of a route table (R265, R267). -/

section
variable (s : State)

theorem Lateral.table_updTable_other (x : Lateral) {t j : Nat} (f : RTable → RTable) (h : j ≠ t) : (x.updTable t f).table j = x.table j :=
  SMap.get_set_other _ _ _ _ _ h

theorem exec_rtCommit (le : Fin 4) (table : Fin 16) : exec (.rtCommit le table) s =
    .next (s.updLe le.val (fun l => l.updTable table.val (fun r => { r with commit := true }))) := rfl

/-- A commit marks its table and no other. -/
theorem exec_rtCommit_facts (le : Fin 4) (table : Fin 16) : ∃ t, exec (.rtCommit le table) s = .next t ∧
    (t.lateral le.val).table table.val = { (s.lateral le.val).table table.val with commit := true } ∧
    (∀ j, j ≠ table.val → (t.lateral le.val).table j = (s.lateral le.val).table j) ∧
    (∀ i, i ≠ le.val → t.lateral i = s.lateral i) ∧ t.mem = s.mem ∧ t.tiles = s.tiles := by
  refine ⟨_, exec_rtCommit s le table, ?_, fun j hj => ?_, fun i hi => ?_, rfl, rfl⟩
  · rw [State.updLe_lateral_at, if_pos rfl, Lateral.table_updTable_same]
  · rw [State.updLe_lateral_at, if_pos rfl, Lateral.table_updTable_other _ _ hj]
  · rw [State.updLe_lateral_at, if_neg hi.symm]

theorem latStepStart_table {b e t : Nat} (step : Nat) (h : s.routeOf b = some (e, t)) :
    ((s.latStepStart b step).lateral e).table t = { (s.lateral e).table t with
      active := if ((s.lateral e).table t).commit then 1 - ((s.lateral e).table t).active else ((s.lateral e).table t).active
      commit := false
      gen := step % 4096
      aborted := false
      moved := []
      bypass := [] } := by
  unfold State.latStepStart
  rw [h]
  dsimp only
  rw [State.updLe_lateral_at, if_pos rfl, Lateral.table_updTable_same]

end

/-- Settles O25: each packet by what the engine comes to and the packet's kind, a route packet by its record and its offers, a return by its tag and
its table, and the banks by the commit mark. -/
theorem lateralEnginesTakePackets : Obligations.LateralEnginesTakePackets := by
  unfold Obligations.LateralEnginesTakePackets
  refine ⟨fun le s => exec_latPackets_none, fun s e => ⟨latIdle_none, fun t q n h => ⟨latIdle_some h, ?idle⟩⟩,
    fun le s t q n => exec_latPackets_otherKind, fun u le s t q n => exec_latPackets_bad, fun le s t q n => exec_routePacket_whole, routeOk_iff,
    fun s e t q items => latRoute_bad, fun s e t q items => latRoute_noEntry, fun s e t q items => latRoute_routes, RTable.offers_facts,
    fun s e cause table queue rtag lead p => leFault_forces s e cause table queue rtag, ?here, ?remote,
    fun s e q lead items r => latArrive_dropped, fun s e q lead items r => latArrive_linked, fun le table s => exec_rtCommit_facts s le table,
    fun s b step e t => latStepStart_table s step⟩
  case idle =>
    rw [latIdle_some h, State.idleItem, State.updCist_cistern_at, if_pos rfl]
    rfl
  case here =>
    intro le s t q n h hk hm
    rw [exec_returnPacket_whole h hk, if_pos hm]
  case remote =>
    intro le s t q n h hk hm
    rw [exec_returnPacket_whole h hk, if_neg hm]

end Sys2Proof.Machine
end

section
/-! SUPPORT. Intake rings and completion records (R279, R280, R282, R283, R286, R287, R347, R372): what an entry that is read becomes, where a
record goes, what an RDMA write changes, with the statement of chapter 10 on them. -/

namespace Sys2Proof.Machine

/-! What a packet linked to a queue leaves alone (R253). -/

section
variable (s : State)

@[simp] theorem State.countForced_serve (q n items : Nat) : (s.countForced q n items).serve = s.serve := by
  unfold State.countForced
  split <;> rfl

theorem State.linkPkt_serve (q n : Nat) (cells : List Nat) (items : Nat) : (s.linkPkt q n cells items).serve = s.serve := by
  unfold State.linkPkt
  dsimp only
  split <;> rfl

theorem State.appendItem_serve (q n writer : Nat) (hdr : BitVec 32) (pay : BitVec 256) :
    (s.appendItem q n writer hdr pay).1.serve = s.serve := by
  unfold State.appendItem
  extract_lets c last b rest got
  clear_value got
  split
  · rfl
  · split
    · rfl
    · obtain _ | ⟨cells, c1⟩ := got
      · rfl
      · dsimp -zeta only
        extract_lets k m0 m1 b1
        split
        · rfl
        · split
          · dsimp only
            split
            · exact State.countForced_serve ..
            · rfl
          · exact State.linkPkt_serve ..

theorem State.linkWhole_serve {t : State} {q n writer : Nat} {items : List (BitVec 32 × BitVec 256)}
    (h : s.linkWhole q n writer items = some t) : t.serve = s.serve := by
  unfold State.linkWhole at h
  split at h
  · cases h
  · cases h
    exact foldl_rel (R := fun s t => t.serve = s.serve) s (fun _ => rfl) (fun h g => g.trans h) (fun s _ => s.appendItem_serve ..) _

end

/-! Records (R286, R287). -/

section
variable (s : State) (i : Nat)

theorem State.ring_congr {s t : State} (i : Nat) (h : t.serve.rings = s.serve.rings) : t.ring i = s.ring i :=
  congrArg (SMap.get Ring.reset · i) h

/-- Whether a record can be written turns on the counts of its ring and on the queue pairs (R280, R287, R372). -/
theorem State.canWrite_congr {s t : State} {i : Nat} (hq : t.mail.qps = s.mail.qps) (hw : (t.ring i).written = (s.ring i).written)
    (hc : (t.ring i).consumed = (s.ring i).consumed) (hl : (t.ring i).logCpl = (s.ring i).logCpl) : t.canWrite i = s.canWrite i := by
  simp only [State.canWrite, State.ringQps, hq, hw, hc, hl]

theorem State.writeRec_ring (b : Bytes) : (s.writeRec i b).ring i = { s.ring i with
    written := ((s.ring i).written + 1) % 65536, recs := (s.ring i).recs + 1, recCnt := satAdd 64 (s.ring i).recCnt 1 } :=
  SMap.get_set_same _ _ _ _

/-- The flags of a record that is written: bit 7 is its `PHASE` (R286). -/
theorem phase_bit7 (x : BitVec 8) (phase : Bool) :
    bitB (BitVec.ofNat 8 (x.toNat % 128 + (if phase = true then 128 else 0))).toNat 7 = phase := by
  rw [BitVec.toNat_ofNat, bitB, beq_eq_decide]
  cases phase
  · exact decide_eq_false (by simp only [Bool.false_eq_true, if_false]; omega)
  · exact decide_eq_true (by simp only [if_true]; omega)

/-- The record that a ring writes is the one given but for its flags. -/
theorem State.writeRec_record (b : Bytes) : ∃ x, (s.writeRec i b).serve.out = s.serve.out ++ [x] ∧ x.ring = i ∧
    x.bytes.length = b.length ∧ (∀ j, j ≠ 6 → x.bytes.getD j 0 = b.getD j 0) ∧
    (6 < b.length → bitB (x.bytes.getD 6 0).toNat 7 = bitB (s.ring i).recs (s.ring i).logCpl) := by
  refine ⟨_, rfl, rfl, List.length_set, fun j hj => ?other, fun hl => ?flags⟩
  case other => simp only [List.getD_eq_getElem?_getD, List.getElem?_set_ne (Ne.symm hj)]
  case flags =>
    rw [List.getD_eq_getElem?_getD, List.getElem?_set_self hl, Option.getD_some]
    exact phase_bit7 _ _

variable (c : CplRec) (keep : Bool)

/-- A ring that is gone takes no record: what waited for it ends. -/
theorem State.pushRec_gone (h : (s.ring i).state = 0) : s.pushRec i c keep = (s.recSent c, false) :=
  if_pos h

theorem State.pushRec_at_once (h : (s.ring i).state ≠ 0) (hb : (s.ring i).backlog = []) (hw : s.canWrite i = true) :
    s.pushRec i c keep = ((s.writeRec i c.bytes).recSent c, false) := by
  simp only [State.pushRec, h, hb, hw, if_false, List.isEmpty_nil, Bool.and_self, if_true]

/-- Where a record cannot be written, it is kept, or it is dropped when it may be and the backlog is full. -/
theorem State.pushRec_held (h : (s.ring i).state ≠ 0) (hw : (s.ring i).backlog ≠ [] ∨ s.canWrite i = false) :
    s.pushRec i c keep = if keep = true ∨ (s.ring i).backlog.length < 4096 then
      (s.updRing i (fun r => { r with backlog := r.backlog ++ [c], backlogHwm := max r.backlogHwm (r.backlog.length + 1) }), false)
    else (s.updRing i (fun r => { r with dropCnt := satAdd 64 r.dropCnt 1 }), true) := by
  have hn : ((s.ring i).backlog.isEmpty && s.canWrite i) = false := by
    rwa [Bool.and_eq_false_iff, List.isEmpty_eq_false_iff]
  simp only [State.pushRec, h, hn, if_false, Bool.false_eq_true, Bool.or_eq_true, decide_eq_true_eq]

/-- Whatever becomes of a record, its ring has read and refused what it had. -/
theorem State.pushRec_counts : ((s.pushRec i c keep).1.ring i).refusedCnt = (s.ring i).refusedCnt ∧
    ((s.pushRec i c keep).1.ring i).readIx = (s.ring i).readIx := by
  have sent : ∀ t : State, (t.recSent c).ring i = t.ring i := fun t => State.ring_congr i (t.recSent_same c).rings
  by_cases h : (s.ring i).state = 0
  · rw [s.pushRec_gone i c keep h, sent]
    exact ⟨rfl, rfl⟩
  · by_cases hw : (s.ring i).backlog = [] ∧ s.canWrite i = true
    · rw [s.pushRec_at_once i c keep h hw.1 hw.2, sent, s.writeRec_ring i]
      exact ⟨rfl, rfl⟩
    · rw [s.pushRec_held i c keep h (by simpa [imp_iff_not_or] using hw)]
      split <;> simp only [State.updRing_ring_at, if_true, and_self]

theorem State.drainRing_stops (f : Nat) (h : (s.ring i).backlog = [] ∨ s.canWrite i = false) : State.drainRing i f s = s := by
  cases f with
  | zero => rfl
  | succ f =>
    unfold State.drainRing
    split
    · rfl
    · next c l hb =>
      rw [hb] at h
      exact if_neg (by simpa using h)

theorem State.drainRing_writes (f : Nat) {c : CplRec} {l : List CplRec} (hb : (s.ring i).backlog = c :: l) (hw : s.canWrite i = true) :
    State.drainRing i (f + 1) s = State.drainRing i f (((s.updRing i (fun r => { r with backlog := l })).writeRec i c.bytes).recSent c) := by
  rw [State.drainRing, hb]
  exact if_pos hw

end

/-! Entries (R280, R282, R283). -/

section
variable {s : State} {i : Nat}

/-- The slot that a ring reads next (R282). -/
def State.nextSlot (s : State) (i : Nat) : Nat := (s.ring i).handleBase + (s.ring i).readIx % (s.ring i).size

/-- The entry that a ring reads next (R283). -/
def State.nextEntry (s : State) (i : Nat) : Bytes := (s.ring i).entryAt ((s.ring i).readIx % (s.ring i).size)

/-- A posted entry can be read: the module serves, and its slot is neither in use nor quarantined (R282, R283, R445). -/
def State.mayRead (s : State) (i : Nat) : Prop :=
  (s.ring i).state = 1 ∧ (s.ring i).posted ≠ (s.ring i).readIx ∧ s.power.reads = true ∧
    (SMap.get SlotGen.reset s.serve.slots (s.nextSlot i)).busy = false ∧ (SMap.get SlotGen.reset s.serve.slots (s.nextSlot i)).until' ≤ s.now

/-- An entry has been read. -/
def State.passEntry (s : State) (i : Nat) : State :=
  s.updRing i (fun r => { r with readIx := (r.readIx + 1) % 65536, readCnt := satAdd 64 r.readCnt 1 })

/-- A slot is in use from now on (R282). -/
def State.claimSlot (s : State) (slot : Nat) : State :=
  { s with serve := { s.serve with slots := SMap.upd SlotGen.reset s.serve.slots slot (fun g => { g with busy := true }) } }

theorem State.claimSlot_busy (s : State) (slot : Nat) : (SMap.get SlotGen.reset (s.claimSlot slot).serve.slots slot).busy = true := by
  rw [State.claimSlot, SMap.upd, SMap.get_set_same]

/-- An entry that has been read and failed a check of Table 10-2. -/
def State.refuseEntry (s : State) (i : Nat) : State :=
  ((s.passEntry i).claimSlot (s.nextSlot i)).updRing i (fun r => { r with refusedCnt := satAdd 64 r.refusedCnt 1 })

theorem State.passEntry_ring (s : State) (i : Nat) : (s.passEntry i).ring i = { s.ring i with
    readIx := ((s.ring i).readIx + 1) % 65536, readCnt := satAdd 64 (s.ring i).readCnt 1 } :=
  SMap.get_set_same _ _ _ _

theorem State.refuseEntry_ring (s : State) (i : Nat) : (s.refuseEntry i).ring i = { s.ring i with
    readIx := ((s.ring i).readIx + 1) % 65536, readCnt := satAdd 64 (s.ring i).readCnt 1
    refusedCnt := satAdd 64 (s.ring i).refusedCnt 1 } := by
  rw [State.refuseEntry, State.updRing_ring_at, if_pos rfl]
  exact congrArg (fun r : Ring => { r with refusedCnt := satAdd 64 r.refusedCnt 1 }) (s.passEntry_ring i)

/-- The checks of an entry do not turn on what its ring has read. -/
theorem State.passEntry_intakeCheck (s : State) (i : Nat) (e : Bytes) (slot : Nat) :
    (s.passEntry i).intakeCheck i e slot = s.intakeCheck i e slot := by
  simp only [State.intakeCheck, s.passEntry_ring i]
  rfl

theorem State.readEntry_waits (h : ¬ s.mayRead i) : s.readEntry i = none := by
  simp only [State.readEntry]
  split
  · rfl
  · next h1 =>
    rw [not_or, not_or, not_not] at h1
    obtain ⟨h1, h2, h3⟩ := h1
    refine if_pos (not_not.1 fun h4 => h ?_)
    rw [not_or, Bool.not_eq_true, not_lt] at h4
    exact ⟨h1, h2, by simpa using h3, h4⟩

theorem State.mayRead_of_readEntry {t : State} (h : s.readEntry i = some t) : s.mayRead i :=
  not_not.1 fun hn => by simp [State.readEntry_waits hn] at h

/-- A request enters the module's tables, admitting, in the slot that its entry names (R282, R283). -/
def State.enterReq (s : State) (slot : Nat) (r : Req) : State :=
  { s.claimSlot slot with serve := { (s.claimSlot slot).serve with reqs := s.serve.reqs ++ [r] } }

/-- The packet of the entry that is read goes to the intake queue (R256, R283): none where cells lack. -/
def State.linkEntry (s : State) (i : Nat) : Option State :=
  (s.passEntry i).linkWhole (s.ring i).quad (intakeQueue i) 0x7F ((s.passEntry i).latItems [(s.nextEntry i).take 32, (s.nextEntry i).drop 32])

/-- An entry that is read becomes a request in its slot, once its packet is linked, or is refused by a record (R283, Table 10-2). -/
theorem State.readEntry_reads (h : s.mayRead i) : s.readEntry i = (s.intakeCheck i (s.nextEntry i) (s.nextSlot i)).elim
    ((s.linkEntry i).map fun t => (t.tick 2).enterReq (s.nextSlot i) (reqOf i (s.ring i).owner (s.nextEntry i)))
    (fun st => some ((s.refuseEntry i).pushRec i
      ⟨recBytes (leAt (s.nextEntry i) 0 4) st 1 0 0 [] s.now, some (s.nextSlot i)⟩ true).1) := by
  obtain ⟨h1, h2, h3, h4, h5⟩ := h
  rw [← s.passEntry_intakeCheck]
  refine (if_neg (by simp [h1, h2, h3])).trans ((if_neg ?free).trans ?read)
  case free => exact not_or.2 ⟨fun h => Bool.false_ne_true (h4.symm.trans h), not_lt.2 h5⟩
  case read =>
    dsimp only
    split
    · next st hc =>
      rw [show (s.passEntry i).intakeCheck i (s.nextEntry i) (s.nextSlot i) = some st from hc]
      rfl
    · next hc =>
      rw [show (s.passEntry i).intakeCheck i (s.nextEntry i) (s.nextSlot i) = none from hc, Option.elim_none]
      split
      · next hl =>
        rw [show s.linkEntry i = none from hl]
        rfl
      · next t hl =>
        rw [show s.linkEntry i = some t from hl]
        rfl

/-- An entry with its checks passed (R283). -/
theorem State.readEntry_enters {t : State} (h : s.readEntry i = some t) (hc : s.intakeCheck i (s.nextEntry i) (s.nextSlot i) = none) :
    t.serve.reqs = s.serve.reqs ++ [reqOf i (s.ring i).owner (s.nextEntry i)] ∧ (t.ring i).readIx = ((s.ring i).readIx + 1) % 65536 ∧
      (SMap.get SlotGen.reset t.serve.slots (s.nextSlot i)).busy = true := by
  rw [State.readEntry_reads (State.mayRead_of_readEntry h), hc, Option.elim_none, Option.map_eq_some_iff] at h
  obtain ⟨u, hu, rfl⟩ := h
  have hs : u.serve = (s.passEntry i).serve := State.linkWhole_serve _ hu
  have hreqs : u.serve.reqs = (s.passEntry i).serve.reqs := congrArg Serve.reqs hs
  have hring : u.ring i = (s.passEntry i).ring i := State.ring_congr i (congrArg Serve.rings hs)
  refine ⟨congrArg (· ++ _) hreqs, ?_, State.claimSlot_busy _ _⟩
  exact congrArg Ring.readIx (hring.trans (s.passEntry_ring i))

/-- An entry that failed a check is counted, and its record goes out where none waits before it and there is space (R283, R286). -/
theorem State.readEntry_refuses {t : State} {st : Nat} (h : s.readEntry i = some t)
    (hc : s.intakeCheck i (s.nextEntry i) (s.nextSlot i) = some st) : (t.ring i).refusedCnt = satAdd 64 (s.ring i).refusedCnt 1 ∧
      (t.ring i).readIx = ((s.ring i).readIx + 1) % 65536 ∧ ((s.ring i).backlog = [] → s.canWrite i = true →
        ∃ c, t.serve.out = s.serve.out ++ [c] ∧ c.ring = i ∧ slice c.bytes 4 2 = toLe 2 st) := by
  have hr := State.mayRead_of_readEntry h
  rw [State.readEntry_reads hr, hc, Option.elim_some, Option.some.injEq] at h
  subst h
  have hq := s.refuseEntry_ring i
  refine ⟨?_, ?_, fun hb hw => ?_⟩
  · rw [(State.pushRec_counts _ _ _ _).1, hq]
  · rw [(State.pushRec_counts _ _ _ _).2, hq]
  · have hs : ((s.refuseEntry i).ring i).state ≠ 0 := by rw [hq, hr.1]; exact one_ne_zero
    have hb' : ((s.refuseEntry i).ring i).backlog = [] := by rw [hq, hb]
    have hw' : (s.refuseEntry i).canWrite i = true :=
      (State.canWrite_congr (s := s) (t := s.refuseEntry i) rfl (by rw [hq]) (by rw [hq]) (by rw [hq])).trans hw
    rw [State.pushRec_written _ i _ true hs hb' hw', (State.recSent_same _ _).out]
    obtain ⟨c, ho, hc, fl, hfl⟩ := (s.refuseEntry i).writeRec_out i (recBytes (leAt (s.nextEntry i) 0 4) st 1 0 0 [] s.now)
    exact ⟨c, ho, hc, hfl ▸ slice_recBytes_set_status _ _ _ _ _ _ _ _⟩

theorem State.intake_stops (f : Nat) (h : s.readEntry i = none) : State.intake i f s = s := by
  cases f with
  | zero => rfl
  | succ f => rw [State.intake, h]

theorem State.intake_reads {t : State} (f : Nat) (h : s.readEntry i = some t) : State.intake i (f + 1) s = State.intake i f t := by
  rw [State.intake, h]

end

/-! RDMA writes to the entry area (R280). -/

/-- A run of writes at the keys from `lo` on is read where it wrote, and nowhere else. -/
theorem SMap.get_foldl_set_range {α : Type} [DecidableEq α] (d : α) (lo : Nat) (v : Nat → α) (m : SMap α) (n x : Nat) :
    SMap.get d ((List.range n).foldl (fun m j => SMap.set d m (lo + j) (v (lo + j))) m) x =
      if lo ≤ x ∧ x < lo + n then v x else SMap.get d m x := by
  induction n with
  | zero => exact (if_neg (by omega)).symm
  | succ n ih =>
    rw [List.range_succ, List.foldl_append, List.foldl_cons, List.foldl_nil, SMap.get_set, ih]
    by_cases hx : lo + n = x
    · subst hx
      rw [if_pos rfl, if_pos (by omega)]
    · rw [if_neg hx]
      exact if_congr (by omega) rfl rfl

namespace Ring

variable (r : Ring) (off : Nat) (data : Bytes)

theorem entryAt_length (x : Nat) : (r.entryAt x).length = 64 := by
  simp only [entryAt, zeros, List.length_append, List.length_take, List.length_replicate]
  omega

/-- An entry that is stored whole is read as it is stored. -/
theorem entryAt_of_length {x : Nat} {l : Bytes} (h : SMap.get [] r.entries x = l) (hl : l.length = 64) : r.entryAt x = l := by
  simp only [entryAt, h, hl, Nat.sub_self, zeros, List.replicate_zero, List.append_nil]
  exact List.take_of_length_le hl.le

/-- Entry `x` once `data` has landed at offset `off` of the entry area. -/
def landedEntry (x : Nat) : Bytes :=
  ((r.entryAt x).zipIdx).map (fun b => if off ≤ 64 * x + b.2 ∧ 64 * x + b.2 < off + data.length then data.getD (64 * x + b.2 - off) 0 else b.1)

/-- The ring once `data` has landed at offset `off` of its entry area (R280). -/
def landed : Ring :=
  { r with entries := (List.range ((off + data.length - 1) / 64 + 1 - off / 64)).foldl (fun m j =>
      SMap.set [] m (off / 64 + j) (r.landedEntry off data (off / 64 + j))) r.entries }

theorem landedEntry_length (x : Nat) : (r.landedEntry off data x).length = 64 := by
  rw [landedEntry, List.length_map, List.length_zipIdx, r.entryAt_length]

theorem landedEntry_getD (x k : Nat) (hk : k < 64) : (r.landedEntry off data x).getD k 0 =
    if off ≤ 64 * x + k ∧ 64 * x + k < off + data.length then data.getD (64 * x + k - off) 0 else (r.entryAt x).getD k 0 := by
  have he : k < (r.entryAt x).length := (r.entryAt_length x).symm ▸ hk
  simp only [landedEntry, List.getD_eq_getElem?_getD, List.getElem?_map, List.getElem?_zipIdx, List.getElem?_eq_getElem he, Option.map_some,
    Option.getD_some, Nat.zero_add]

/-- Exactly the bytes written change. -/
theorem landed_byte (hd : data ≠ []) (a : Nat) : ((r.landed off data).entryAt (a / 64)).getD (a % 64) 0 =
    if off ≤ a ∧ a < off + data.length then data.getD (a - off) 0 else (r.entryAt (a / 64)).getD (a % 64) 0 := by
  have hn : 0 < data.length := List.length_pos_iff.2 hd
  have hget := SMap.get_foldl_set_range [] (off / 64) (r.landedEntry off data) r.entries ((off + data.length - 1) / 64 + 1 - off / 64) (a / 64)
  by_cases hx : off / 64 ≤ a / 64 ∧ a / 64 < off / 64 + ((off + data.length - 1) / 64 + 1 - off / 64)
  · rw [if_pos hx] at hget
    rw [(r.landed off data).entryAt_of_length hget (r.landedEntry_length off data _),
      r.landedEntry_getD off data _ _ (Nat.mod_lt _ (by decide)), Nat.div_add_mod]
  · rw [if_neg hx] at hget
    have hsame : (r.landed off data).entryAt (a / 64) = r.entryAt (a / 64) := by
      rw [entryAt, entryAt]
      exact congrArg (fun l : Bytes => l.take 64 ++ zeros (64 - l.length)) hget
    rw [hsame, if_neg (by omega)]

end Ring

/-! The commands. -/

section
variable {s : State} {ring : Fin 256} {qp : BitVec 24}

/-- A doorbell (R280, R283, R287): one that names no ring of its queue pair or says nothing new, one beyond the ring, and one that posts. -/
theorem exec_doorbell {value : BitVec 64} {t posted d : Nat} {r : Ring} (hr : (s.at' t).ring ring.val = r)
    (hp : posted = fieldN value.toNat 0 16) (hd : d = fieldN value.toNat 32 16) : exec (.doorbell ring qp value t) s = .next
      (if r.state ≠ 1 ∨ (s.at' t).bound ring.val qp.toNat = false ∨ posted + d * 2 ^ 16 = r.lastDb then s.at' t
      else if r.size < (posted + 65536 - r.readIx) % 65536 then
        (s.at' t).updRing ring.val (fun r => { r with badDb := satAdd 64 r.badDb 1, lastDb := posted + d * 2 ^ 16 })
      else State.intake ring.val r.size (State.drainRing ring.val r.backlog.length ((s.at' t).updRing ring.val
        (if (r.written + 65536 - r.consumed) % 65536 < (d + 65536 - r.consumed) % 65536 then
          fun r => { r with posted := posted, lastDb := posted + d * 2 ^ 16, badDb := satAdd 64 r.badDb 1 }
        else fun r => { r with posted := posted, lastDb := posted + d * 2 ^ 16, consumed := d })))) := by
  subst hr hp hd
  change execDoorbell ring qp value t s = _
  simp only [execDoorbell, Bool.not_eq_true', decide_eq_true_eq]
  by_cases hb : (((s.at' t).ring ring.val).written + 65536 - ((s.at' t).ring ring.val).consumed) % 65536 <
      (fieldN value.toNat 32 16 + 65536 - ((s.at' t).ring ring.val).consumed) % 65536
  · simp only [if_pos hb]
  · simp only [if_neg hb]

variable {off : Nat} {data : Bytes}

theorem exec_intakeRdmaWrite_refused {stage : Bool} (h : (s.ring ring.val).state = 0 ∨ s.bound ring.val qp.toNat = false ∨ data = []) :
    exec (.intakeRdmaWrite ring qp stage off data) s = .next s := by
  change execIntakeRdmaWrite ring qp stage off data s = _
  simp only [execIntakeRdmaWrite, Bool.not_eq_true', List.length_eq_zero_iff]
  rw [if_pos h]

section
variable (h0 : (s.ring ring.val).state ≠ 0) (hb : s.bound ring.val qp.toNat = true) (hd : data ≠ [])
include h0 hb hd

theorem exec_intakeRdmaWrite_entries : exec (.intakeRdmaWrite ring qp false off data) s = .next
    (if 64 * (s.ring ring.val).size < off + data.length then s else s.updRing ring.val (fun r => r.landed off data)) := by
  change execIntakeRdmaWrite ring qp false off data s = _
  simp only [execIntakeRdmaWrite, Bool.not_eq_true', List.length_eq_zero_iff, h0, hb, hd, Bool.true_eq_false, or_self, if_false,
    Bool.false_eq_true]
  rfl

theorem exec_intakeRdmaWrite_stage : exec (.intakeRdmaWrite ring qp true off data) s = .next
    (if off + data.length ≤ (s.ring ring.val).stageLen then s.fwWrite (boardKey 1 (s.ring ring.val).stageBase + off) data else s) := by
  change execIntakeRdmaWrite ring qp true off data s = _
  simp only [execIntakeRdmaWrite, Bool.not_eq_true', List.length_eq_zero_iff, h0, hb, hd, Bool.true_eq_false, or_self, if_false, if_true]

end

end

/-- Settles O27: a doorbell by what it names, an entry by its checks, a record by its ring, and a write by where it lands. -/
theorem ringsTakeEntriesAndWriteRecords : Obligations.RingsTakeEntriesAndWriteRecords := by
  unfold Obligations.RingsTakeEntriesAndWriteRecords
  refine ⟨?nothing, ?beyond, ?posts, fun s i => State.intake_stops, fun s s' i => State.intake_reads, ?waits,
    fun s s' i => State.readEntry_enters, fun s s' i st => State.readEntry_refuses, State.pushRec_gone, State.pushRec_at_once, ?written, ?held,
    fun ring s => rfl, State.drainRing_stops, fun s i f c l => s.drainRing_writes i f, fun t s => rfl,
    fun stage ring qp off data s => exec_intakeRdmaWrite_refused, ?rdma⟩
  case nothing =>
    intro ring qp value t s r posted d hr hp hd hn
    rw [exec_doorbell hr hp hd, if_pos hn]
  case beyond =>
    intro ring qp value t s r posted d hr hp hd h1 hb hl hs
    rw [exec_doorbell hr hp hd, if_neg (not_or.2 ⟨not_not_intro h1, not_or.2 ⟨by simp [hb], hl⟩⟩), if_pos hs]
  case posts =>
    intro ring qp value t s r posted d hr hp hd h1 hb hl hs
    have hx := exec_doorbell (qp := qp) hr hp hd
    rw [if_neg (not_or.2 ⟨not_not_intro h1, not_or.2 ⟨by simp [hb], hl⟩⟩), if_neg hs.not_gt] at hx
    exact ⟨fun hc => by rw [hx, if_neg hc.not_gt], fun hc => by rw [hx, if_pos hc]⟩
  case waits =>
    intro s i h
    refine State.readEntry_waits ?_
    rintro ⟨h1, h2, h3, h4, h5⟩
    obtain h | h | h | h | h := h
    · exact h h1
    · exact h2 h
    · exact Bool.false_ne_true (h.symm.trans h3)
    · exact Bool.false_ne_true (h4.symm.trans h)
    · exact h.not_ge h5
  case written =>
    intro s i b
    exact ⟨congrArg Ring.written (s.writeRec_ring i b), s.writeRec_record i b⟩
  case held =>
    intro s i c keep h0 hw
    rw [s.pushRec_held i c keep h0 hw]
    refine ⟨fun hk => ?_, fun hk hl => if_neg (by simp [hk, hl])⟩
    rw [if_pos hk]
    exact ⟨rfl, congrArg Ring.backlog (SMap.get_set_same _ _ _ _), rfl⟩
  case rdma =>
    intro ring qp off data s h0 hb hd
    rw [exec_intakeRdmaWrite_entries h0 hb hd, exec_intakeRdmaWrite_stage h0 hb hd]
    refine ⟨fun hl => by rw [if_pos hl], fun hl => ⟨_, congrArg _ (if_neg hl.not_gt), rfl, rfl, fun a => ?_⟩, fun hl => by rw [if_neg hl.not_ge],
      fun hl => by rw [if_pos hl]⟩
    rw [State.updRing_ring_at, if_pos rfl]
    exact (s.ring ring.val).landed_byte off data hd a

end Sys2Proof.Machine
end

section
/-! SUPPORT. Shares, hand-off and returned tokens (R294 to R296, R346, R415): what a round does to one plot, where a request may move, what becomes
of one that has moved, with the statement of chapter 10 on them. -/

namespace Sys2Proof.Machine

/-! Shares (R294, R296). -/

theorem phiStep_within (phi star : Nat) : phiStep phi star ≤ phi + 32 ∧ phi ≤ phiStep phi star + 32 := by
  unfold phiStep
  split <;> omega

theorem phiTarget_within (wp wd : Nat) {lo hi : Nat} (h : lo ≤ hi) : lo ≤ phiTarget wp wd lo hi ∧ phiTarget wp wd lo hi ≤ hi :=
  ⟨le_max_left _ _, max_le h (min_le_left _ _)⟩

section
variable {s : State} {sets : List SetView} {b : Nat} {p : Plot}

/-- Whether the prompt share of a plot moves in a round (R294, R296). -/
def State.shareMoves (s : State) (p : Plot) : Bool :=
  p.mark == .mixed || (p.mark == .prefill && (s.plotReqs p.model).any Req.decoding)

theorem rebalance_none (h : s.plot b = none) : s.rebalance sets b = s := by
  simp only [State.rebalance, h]

/-- A round gives one plot its targets and marks, and takes its share one step toward a target where it moves (R296). -/
theorem rebalance_some (h : s.plot b = some p) : ∃ q star, s.rebalance sets b = s.setPlot b q ∧ q.state = p.state ∧ q.task = p.task ∧
    q.phiNext = (if s.shareMoves p = true then phiStep p.phiNext star else p.phiNext) ∧
    ((s.modelOf p.model).elim 0 Model.setId = 0 → q.markNext = .mixed) := by
  simp only [State.rebalance, h]
  exact ⟨_, _, rfl, rfl, rfl, rfl, fun h0 => if_pos h0⟩

/-- The share of a `DECODE` plot stays, and that of a `PREFILL` plot that has finished decoding. -/
theorem shareMoves_of_settled (h : p.mark = .decode ∨ (p.mark = .prefill ∧ (s.plotReqs p.model).any Req.decoding = false)) :
    s.shareMoves p = false := by
  obtain h | ⟨h, hd⟩ := h
  · rw [State.shareMoves, h]
    rfl
  · rw [State.shareMoves, h, hd]
    rfl

theorem rebalance_facts (h : s.plot b = some p) : ∃ q, (s.rebalance sets b).plot b = some q ∧ q.phiNext ≤ p.phiNext + 32 ∧
    p.phiNext ≤ q.phiNext + 32 ∧ q.state = p.state ∧ q.task = p.task ∧
    (p.mark = .decode ∨ (p.mark = .prefill ∧ (s.plotReqs p.model).any Req.decoding = false) → q.phiNext = p.phiNext) ∧
    ((s.modelOf p.model).elim 0 Model.setId = 0 → q.markNext = .mixed) ∧ ∀ i, i ≠ b → (s.rebalance sets b).plot i = s.plot i := by
  obtain ⟨q, star, he, hs, ht, hq, hm⟩ := rebalance_some (sets := sets) h
  have hw : q.phiNext ≤ p.phiNext + 32 ∧ p.phiNext ≤ q.phiNext + 32 := by
    rw [hq]
    split
    · exact phiStep_within _ _
    · omega
  rw [he]
  refine ⟨q, (s.setPlot_plot_at b b q).trans (if_pos rfl), hw.1, hw.2, hs, ht, fun hn => ?_, hm, fun i hi => ?_⟩
  · rw [hq, shareMoves_of_settled hn, if_neg Bool.false_ne_true]
  · rw [s.setPlot_plot_at, if_neg (Ne.symm hi)]

end

/-! Where a request moves (R295). -/

section
variable {s : State} {p : Plot} {k : Nat}

/-- The plots of a model's replica sets, as they last reported. -/
def State.peersOf (s : State) (p : Plot) : List SetPeer := (s.sched.sets.filter (fun v => v.model == p.model)).flatMap (fun v => v.peers)

theorem mem_peersOf {q : SetPeer} (h : q ∈ s.peersOf p) : ∃ v, v ∈ s.sched.sets ∧ v.model = p.model ∧ q ∈ v.peers := by
  obtain ⟨v, hv, hq⟩ := List.mem_flatMap.1 h
  obtain ⟨hs, hm⟩ := List.mem_filter.1 hv
  exact ⟨v, hs, by simpa using hm, hq⟩

/-- The tray slot of the least of some plots of a replica set is that of one of them. -/
theorem leastBy_peer {key : SetPeer → Nat} {f : SetPeer → Bool} (h : (leastBy key ((s.peersOf p).filter f)).map (fun q => q.slot) = some k) :
    ∃ v q, v ∈ s.sched.sets ∧ v.model = p.model ∧ q ∈ v.peers ∧ f q = true ∧ q.slot = k := by
  obtain ⟨q, hq, hk⟩ := Option.map_eq_some_iff.1 h
  obtain ⟨hm, hf⟩ := List.mem_filter.1 (leastBy_mem _ _ _ hq)
  obtain ⟨v, hv, hvm, hqv⟩ := mem_peersOf hm
  exact ⟨v, q, hv, hvm, hqv, hf, hk⟩

theorem decodeSlotOf_place {m : Model} (h : s.decodeSlotOf m p = some k) : (p.mark = .decode ∧ k = s.slot % 4) ∨
    ∃ v q, v ∈ s.sched.sets ∧ v.model = p.model ∧ q ∈ v.peers ∧ q.isPrefill = false ∧ q.decodes < m.slotsMax ∧ q.slot = k := by
  unfold State.decodeSlotOf at h
  dsimp only at h
  split at h
  · next hd => exact .inl ⟨hd.1, (Option.some.inj h).symm⟩
  · obtain ⟨v, q, hv, hm, hq, hf, hk⟩ := leastBy_peer h
    rw [Bool.and_eq_true, Bool.not_eq_true', decide_eq_true_eq] at hf
    exact .inr ⟨v, q, hv, hm, hq, hf.1, hf.2, hk⟩

theorem promptSlot_place (h : s.promptSlot p = some k) : p.mark = .decode ∧
    ∃ v q, v ∈ s.sched.sets ∧ v.model = p.model ∧ q ∈ v.peers ∧ q.isPrefill = true ∧ q.slot = k := by
  unfold State.promptSlot at h
  split at h
  · cases h
  · next hd => exact ⟨not_not.1 hd, leastBy_peer h⟩

theorem moveSlot_stays {r : Req} (hq : r.state ≠ .queued) (hh : r.state ≠ .handoff) : s.moveSlot r = none := by
  unfold State.moveSlot
  split
  · rw [if_neg (fun h => hq h.2), if_neg hq, if_neg hh]
  · rfl

end

/-! HANDOFF_COPY_COMPLETE (R295). -/

section
variable {s : State} {r : Req}

/-- A request that another module runs from now on: it holds no area here (R295). -/
def Req.sentTo (serial : Nat) (r : Req) : Req :=
  { r with state := .decode, started := true, away := true, runsOn := serial + 1, area := 0, areaLen := 0, pages := 0, dTab := 0, dPages := 0 }

/-- A request that has gone to another module stays in the tables, without its area. -/
theorem sentTo_facts (serial : Nat) (h : s.req r.key = some r) : ∃ q, ((s.updReq r.key (Req.sentTo serial)).collect).req r.key = some q ∧
    q.state = .decode ∧ q.away = true ∧ q.runsOn = serial + 1 ∧ q.areaLen = 0 ∧
    ((s.updReq r.key (Req.sentTo serial)).collect).serve.reqs.length = s.serve.reqs.length := by
  have hr : (s.updReq r.key (Req.sentTo serial)).req r.key = some (r.sentTo serial) := State.req_updReq (fun _ => rfl) h
  obtain ⟨m, l, c, b, hc⟩ := (s.updReq r.key (Req.sentTo serial)).collect_eq
  rw [hc]
  exact ⟨_, hr, rfl, rfl, rfl, rfl, List.length_map _⟩

variable {handle : BitVec 32} {home : Option (BitVec 64)} {ok : Bool} {dest : BitVec 64}

/-- A copy of no request in hand, or of one that no module has a place for, changes nothing. -/
theorem exec_handoff_waits (h : s.req (handle.toNat + home.elim 0 (fun x => x.toNat + 1) * 2 ^ 32) = none ∨
    ∃ r, s.req (handle.toNat + home.elim 0 (fun x => x.toNat + 1) * 2 ^ 32) = some r ∧ (s.moveSlot r).bind s.slotSerial = none) :
    exec (.handoffCopyComplete handle home ok dest none) s = .next s := by
  change execHandoffCopyComplete handle home ok dest none s = _
  obtain h | ⟨r, h, hm⟩ := h
  · rw [execHandoffCopyComplete, h]
  · rw [execHandoffCopyComplete, h]
    dsimp only
    rw [hm]

/-- A copy of a request that its replica set gives the module `d` turns on whether that is this module, on the copy and on where it went. -/
theorem exec_handoff_placed {d : Nat} (h : s.req (handle.toNat + home.elim 0 (fun x => x.toNat + 1) * 2 ^ 32) = some r)
    (hd : (s.moveSlot r).bind s.slotSerial = some d) : exec (.handoffCopyComplete handle home ok dest none) s = .next
      (if d = ownSerial then s.updReq r.key (fun r => { r with state := .decode })
      else if !ok then (s.endReq r.key 0x0404).settle
      else if d ≠ dest.toNat then s
      else if r.home ≠ 0 then ((s.updReq r.key (fun r => { r with state := .ended, holdKv := false })).closeReq r.key).settle
      else (s.updReq r.key (Req.sentTo dest.toNat)).collect) := by
  change execHandoffCopyComplete handle home ok dest none s = _
  rw [execHandoffCopyComplete, h]
  dsimp only
  rw [hd]
  rfl

end

/-! RETURNED_TOKENS (R295, R346). -/

section
variable {s : State} {handle : BitVec 32} {pos : Nat} {toks : List (BitVec 32)} {fin : Option (BitVec 16)}

theorem exec_returnedTokens_stale (h : (s.req handle.toNat).filter (fun r => r.away && r.state != .held && r.state != .ended) = none) :
    exec (.returnedTokens handle pos toks fin) s = .next { s with time := { s.time with staleId := satAdd 32 s.time.staleId 1 } } := by
  change execReturnedTokens handle pos toks fin s = _
  rw [execReturnedTokens, h]

/-- The tokens of a request away are counted to it and emitted, up to its `MAX_NEW`; a final status ends it. -/
theorem exec_returnedTokens_away {y z : State} {r : Req} {l : List Nat} (h : s.req handle.toNat = some r) (ha : r.away = true)
    (hh : r.state ≠ .held) (he : r.state ≠ .ended) (hl : l = (toks.map (fun x => x.toNat)).take (r.maxNew - r.generated))
    (hy : y = s.updReq r.key (fun q => { q with generated := q.generated + l.length, started := true, state := .decode }))
    (hz : z = if l = [] then y else y.emitTokens r pos l) :
    exec (.returnedTokens handle pos toks fin) s = .next (fin.elim z fun st => (z.endReq r.key st.toNat).settle) := by
  have hf : (s.req handle.toNat).filter (fun r => r.away && r.state != .held && r.state != .ended) = some r := by
    rw [h, Option.filter_some, if_pos (by simp [ha, hh, he])]
  subst hl hy hz
  change execReturnedTokens handle pos toks fin s = _
  rw [execReturnedTokens, hf]
  simp only [List.isEmpty_iff]
  cases fin <;> rfl

end

/-- Settles O29: a round plot by plot, a copy by where its request may move, and returned tokens by whether their request is away. -/
theorem stepsAreSharedAndHandedOff : Obligations.StepsAreSharedAndHandedOff := by
  unfold Obligations.StepsAreSharedAndHandedOff
  refine ⟨fun t sets s => rfl, fun s sets b => ⟨rebalance_none, fun p => rebalance_facts⟩, fun wp wd lo hi => phiTarget_within wp wd,
    fun handle home dest h s => ⟨rfl, rfl⟩, fun handle home ok dest s => exec_handoff_waits, ?placed, fun s r => moveSlot_stays,
    fun s m p k => decodeSlotOf_place, fun s p k => promptSlot_place, fun handle pos toks fin s => exec_returnedTokens_stale,
    ?returned⟩
  case placed =>
    intro handle home ok dest s r d h hd
    rw [exec_handoff_placed h hd]
    refine ⟨fun ho => ?here, fun ho hok => ?failed, fun ho hok hne => ?elsewhere, fun ho hok hto hh => ?leaves, fun ho hok hto hh => ?goes⟩
    case here => rw [if_pos ho]
    case failed => rw [if_neg ho, hok, Bool.not_false, if_pos rfl]
    case elsewhere => rw [if_neg ho, hok, Bool.not_true, if_neg Bool.false_ne_true, if_pos hne]
    case leaves => rw [if_neg ho, hok, Bool.not_true, if_neg Bool.false_ne_true, if_neg (not_not_intro hto), if_pos hh]
    case goes =>
      obtain ⟨q, hq⟩ := sentTo_facts dest.toNat ((State.req_key h).symm ▸ h)
      rw [if_neg ho, hok, Bool.not_true, if_neg Bool.false_ne_true, if_neg (not_not_intro hto), if_neg (not_not_intro hh), hto]
      exact ⟨_, q, rfl, hq⟩
  case returned =>
    intro handle pos toks fin s y z r l h ha hh he hl hy hz
    rw [exec_returnedTokens_away h ha hh he hl hy hz]
    cases fin <;> rfl

end Sys2Proof.Machine
end

section
/-! SUPPORT. The serving requests of the Edush interface (R285, R300, R301, R367, R371 to R373, R434, R475, R477): what each finds of its request,
its shared pages, its ring or its connection, with the statement of chapter 13 on them. -/

namespace Sys2Proof.Machine

/-! PREFIX_PIN (R300). -/

section
variable {s : State} {w : Waiter} {l : Bytes} {r : Req} {x : Model}

theorem doPin_unknown (h : s.req (leAt l 0 4) = none ∨ ∃ r, s.req (leAt l 0 4) = some r ∧ r.home ≠ 0) :
    s.doPin w l = (s, .final 0x0104 []) := by
  obtain h | ⟨r, h, h0⟩ := h
  · simp only [State.doPin, h]
  · simp only [State.doPin, h]
    exact if_pos h0

section
variable (h : s.req (leAt l 0 4) = some r) (h0 : r.home = 0)
include h h0

theorem doPin_stranger (ho : ownerOk w.parcel r.parcel = false) : s.doPin w l = (s, .final 0x0105 []) := by
  simp only [State.doPin, h, h0, ho, ne_eq, not_true_eq_false, if_false, Bool.not_false, if_true]

variable (ho : ownerOk w.parcel r.parcel = true)
include ho

theorem doPin_refused (hm : r.mayPin (leAt l 4 4) = false) : s.doPin w l = (s, .final 0x0102 []) := by
  simp only [State.doPin, h, h0, ho, hm, ne_eq, not_true_eq_false, if_false, Bool.not_true, Bool.false_eq_true, Bool.not_false, if_true]

variable (hm : r.mayPin (leAt l 4 4) = true)
include hm

theorem doPin_no_model (hx : s.modelOf r.model = none) : s.doPin w l = (s, .final 0x0304 []) := by
  simp only [State.doPin, h, h0, ho, hm, ne_eq, not_true_eq_false, if_false, Bool.not_true, Bool.false_eq_true]
  rw [hx]

variable (hx : s.modelOf r.model = some x)
include hx

theorem doPin_no_entry (hf : s.freePrefix = none) : s.doPin w l = (s, .final 0x0202 []) := by
  simp only [State.doPin, h, h0, ho, hm, hx, hf, ne_eq, not_true_eq_false, if_false, Bool.not_true, Bool.false_eq_true]

/-- Positions that may be pinned, with an entry for them, turn on the quota and the space for a copy of their partial page (R300, R301). -/
theorem doPin_entry {i : Nat} (hf : s.freePrefix = some i) : s.doPin w l =
    if (s.parcel r.parcel).qRes * mib2 < s.resUsed r.parcel + x.pinLen (leAt l 4 4) then (s, .final 0x0202 [])
    else (s.pinBase r (x.pinLen (leAt l 4 4))).elim (s, .final 0x0202 []) fun base =>
      (s.makePrefix x r i (leAt l 4 4) base, .final 0 (toLe 8 (i + r.parcel * 2 ^ 46 + (s.prefixAt i).gen * 2 ^ 56))) := by
  rw [State.doPin, h]
  refine (if_neg (not_not_intro h0)).trans ((if_neg (by simp [ho])).trans ((if_neg (by simp [hm])).trans ?_))
  rw [hx, hf]
  refine if_congr Iff.rfl rfl ?_
  cases s.pinBase r (x.pinLen (leAt l 4 4)) <;> rfl

end

end

section
variable (s : State) (x : Model) (r : Req) (i n base : Nat)

/-- The table entry that pinned positions take: their full pages, then those of the copy of a partial one (R300, R301). -/
def pinnedPrefix (s : State) (x : Model) (r : Req) (n : Nat) (own : List Nat) (y : Prefix) : Prefix :=
  { Prefix.reset with
    gen := y.gen, used := true, parcel := r.parcel, model := r.model, adapter := r.adapter, aver := r.aver, len := n,
    pages := (List.range (x.groups * (n / 64))).map (fun k => s.pageKey x r k) ++ own, pinned := true }

theorem State.fwWrite_prefixes (k : Nat) (b : Bytes) : (s.fwWrite k b).serve.prefixes = s.serve.prefixes := by
  obtain ⟨m, q, h⟩ := fwWrite_eq s k b
  rw [h]

/-- A range that is taken is listed with the others, and nothing else changes. -/
theorem State.takeSpace_eq (a : Alloc) : ∃ v, s.takeSpace a = { s with serve := { s.serve with allocs := v } } := by
  unfold State.takeSpace
  split
  · exact ⟨s.serve.allocs, rfl⟩
  · exact ⟨_, rfl⟩

theorem State.takeSpace_prefixes (a : Alloc) : (s.takeSpace a).serve.prefixes = s.serve.prefixes := by
  obtain ⟨v, h⟩ := s.takeSpace_eq a
  rw [h]

@[simp] theorem State.setRegion_serve (tier base len owner : Nat) (write shared : Bool) :
    (s.setRegion tier base len owner write shared).serve = s.serve := by
  obtain ⟨m, h⟩ := s.setRegion_eq tier base len owner write shared
  rw [h]

theorem State.lockPages_prefixes : (s.lockPages x r n).serve.prefixes = s.serve.prefixes := by
  unfold State.lockPages
  extract_lets cnt lo hi
  split
  · rw [State.setRegion_serve]
  · rfl

/-- Until pinned positions take their entry, the table is as it was. -/
theorem State.makePrefix_eq : ∃ (t : State) (own : List Nat), t.serve.prefixes = s.serve.prefixes ∧
    s.makePrefix x r i n base = t.updPrefix i (pinnedPrefix s x r n own) := by
  unfold State.makePrefix
  refine ⟨_, _, ?_, rfl⟩
  refine (foldl_rel (R := fun s t => t.serve.prefixes = s.serve.prefixes) _ (fun _ => rfl) (fun h g => g.trans h)
    (fun s _ => s.fwWrite_prefixes _ _) _).trans ((State.lockPages_prefixes _ x r n).trans ?_)
  split
  · rfl
  · rw [State.setRegion_serve, s.takeSpace_prefixes]

theorem State.makePrefix_facts : ∃ y, (s.makePrefix x r i n base).prefixAt i = y ∧ y.used = true ∧ y.pinned = true ∧ y.refs = 0 ∧ y.len = n ∧
    y.parcel = r.parcel ∧ y.model = r.model ∧ y.adapter = r.adapter ∧ y.aver = r.aver ∧ y.gen = (s.prefixAt i).gen ∧
    (∀ k, k < x.groups * (n / 64) → y.pages.getD k 0 = s.pageKey x r k) ∧
    ∀ j, j ≠ i → (s.makePrefix x r i n base).prefixAt j = s.prefixAt j := by
  obtain ⟨t, own, ht, he⟩ := s.makePrefix_eq x r i n base
  have hp : ∀ j, t.prefixAt j = s.prefixAt j := fun j => congrArg (SMap.get Prefix.reset · j) ht
  rw [he]
  refine ⟨_, (t.updPrefix_prefixAt_at i i _).trans (if_pos rfl), rfl, rfl, rfl, rfl, rfl, rfl, rfl, rfl, by rw [← hp i]; rfl, fun k hk => ?page,
    fun j hj => ?other⟩
  case page =>
    have hr : k < ((List.range (x.groups * (n / 64))).map (fun k => s.pageKey x r k)).length := by simpa using hk
    simp only [pinnedPrefix, List.getD_eq_getElem?_getD, List.getElem?_append_left hr, List.getElem?_map, List.getElem?_range hk,
      Option.map_some, Option.getD_some]
  case other => rw [t.updPrefix_prefixAt_at, if_neg (Ne.symm hj), hp]

end

/-! PREFIX_UNPIN (R301). -/

section
variable {s : State} {w : Waiter} {l : Bytes} {y : Prefix} (hy : s.prefixAt (leAt l 0 8 % 2 ^ 46) = y)
include hy

theorem doUnpin_stale (h : y.used = false ∨ y.pinned = false ∨ y.gen ≠ leAt l 0 8 / 2 ^ 56 ∨ y.parcel ≠ leAt l 0 8 / 2 ^ 46 % 2 ^ 10) :
    s.doUnpin w l = (s, .final 0x0306 []) := by
  subst hy
  exact if_pos (by simpa only [Bool.not_eq_true'] using h)

variable (hu : y.used = true) (hp : y.pinned = true) (hg : y.gen = leAt l 0 8 / 2 ^ 56) (hc : y.parcel = leAt l 0 8 / 2 ^ 46 % 2 ^ 10)
include hu hp hg hc

/-- A handle that names pinned positions turns on who asks, then on the references that are left (R301). -/
theorem doUnpin_named : s.doUnpin w l = if ownerOk w.parcel y.parcel = false then (s, .final 0x0105 [])
    else if y.refs = 0 then ((s.updPrefix (leAt l 0 8 % 2 ^ 46) (fun x =>
      { Prefix.reset with gen := nextGen x.gen, until' := s.now + quarantineNs })).collect, .final 0 [])
    else (s.updPrefix (leAt l 0 8 % 2 ^ 46) (fun x => { x with pinned := false }), .final 0 []) := by
  simp only [State.doUnpin, hy, hu, hp, ← hg, ← hc, Bool.not_true, Bool.false_eq_true, ne_eq, not_true_eq_false, or_self, if_false,
    Bool.not_eq_true']

end

/-! RING_CREATE (R279, R285, R372) and RING_DESTROY (R285). -/

section
variable {s : State} {w : Waiter} {p : Nat} {l : Bytes}

/-- The check of `RING_CREATE` on the slots of other rings (R372). -/
theorem any_overlap_iff (base n : Nat) : (s.serve.rings.filter (fun x => x.2.state != 0)).any (fun x =>
    decide (base < x.2.handleBase + x.2.size ∧ x.2.handleBase < base + n)) = true ↔ ringsOverlap s base n := by
  simp only [ringsOverlap, List.any_eq_true, List.mem_filter, bne_iff_ne, decide_eq_true_eq, and_assoc]

/-- While the module serves, `RING_CREATE` has the effect of its payload for its parcel (R445). -/
theorem serveReq_ringCreate (a : State) (m : Mail) : a.serveReq ⟨0x40, m⟩ false =
    if waitsServe 0x40 && a.power.going == some .off then (a, .final 0x0105 [])
    else if waitsServe 0x40 && (a.power.going.isSome || a.power.mode != .serve) then (a, .wait ⟨7, 1⟩)
    else a.doRing m.parcel.toNat m.payload := by
  simp only [State.serveReq]

theorem doRing_destroying (h : (s.ring (leAt l 0 1)).state = 2) : s.doRing p l = (s, .wait (ringKeyOf (leAt l 0 1))) :=
  if_pos h

theorem doRing_clash (h2 : (s.ring (leAt l 0 1)).state ≠ 2)
    (h : (s.ring (leAt l 0 1)).state ≠ 0 ∨ ringsOverlap s (leAt l 4 4) (2 ^ leAt l 1 1)) : s.doRing p l = (s, .final 0x0105 []) :=
  (if_neg h2).trans (if_pos (h.imp_right (any_overlap_iff _ _).2))

/-- A ring that nothing stands against turns on the quotas and on the space for its staging window (Table 12-1). -/
theorem doRing_free (h0 : (s.ring (leAt l 0 1)).state = 0) (hn : ¬ ringsOverlap s (leAt l 4 4) (2 ^ leAt l 1 1)) : s.doRing p l =
    if 16384 < slotsHeld s + 2 ^ leAt l 1 1 ∨ (p ≠ 0 ∧ ((s.parcel p).qRings ≤ ringsOf s p ∨
      (s.parcel p).qRes * mib2 < s.resUsed p + upMib (leAt l 8 4 * 2 ^ 20))) then (s, .final 0x0202 [])
    else (s.findSpace 1 (leAt l 2 1) (upMib (leAt l 8 4 * 2 ^ 20))).elim (s, .final 0x0202 []) fun base =>
      (s.makeRing p l (leAt l 0 1) base (leAt l 8 4 * 2 ^ 20), .final 0 s.ringBody) := by
  refine (if_neg (by rw [h0]; decide)).trans ((if_neg ?_).trans (if_congr Iff.rfl rfl ?_))
  · exact not_or.2 ⟨not_not_intro h0, fun h => hn ((any_overlap_iff _ _).1 h)⟩
  · cases s.findSpace 1 (leAt l 2 1) (upMib (leAt l 8 4 * 2 ^ 20)) <;> rfl

theorem doRingDestroy_refused (h : (s.ring (leAt l 0 1)).state ≠ 1 ∨ ownerOk w.parcel (s.ring (leAt l 0 1)).owner = false) :
    s.doRingDestroy w l = (s, .final 0x0105 []) :=
  if_pos (h.imp_right fun h => by simpa using h)

theorem doRingDestroy_begins (h1 : (s.ring (leAt l 0 1)).state = 1) (ho : ownerOk w.parcel (s.ring (leAt l 0 1)).owner = true) :
    s.doRingDestroy w l = (s.destroyRing (leAt l 0 1) (some w), .started []) :=
  if_neg (by simp [h1, ho])

/-- The ring that `RING_CREATE` asks for (R279, R372, Table 13-9). -/
def askedRing (p : Nat) (l : Bytes) (base len key : Nat) : Ring :=
  { Ring.reset with
    state := 1, owner := p, logSize := leAt l 1 1, logCpl := leAt l 3 1, quad := leAt l 2 1, handleBase := leAt l 4 4, stageLen := len,
    stageBase := base, cplRkey := leAt l 0xC 4, cplAddr := leAt l 0x10 8, key := key }

/-- Until a ring takes its number, the rings are as they were. -/
theorem State.makeRing_eq (s : State) (p i base len : Nat) (l : Bytes) : ∃ t : State, t.serve.rings = s.serve.rings ∧
    s.makeRing p l i base len = (t.updRing i (fun _ => askedRing p l base len (Config.freeWord32 s.free).toNat)).tick 10 := by
  unfold State.makeRing
  refine ⟨_, ?_, rfl⟩
  obtain ⟨v, h⟩ := s.takeSpace_eq ⟨1, base, upMib len, p, 2, i⟩
  rw [State.updCist_serve, State.setRegion_serve, h]

/-- A ring that comes to exist has what was asked for, and has neither read nor written; the others are as they were. -/
theorem State.makeRing_facts (s : State) (p i base len : Nat) (l : Bytes) : ∃ r, (s.makeRing p l i base len).ring i = r ∧ r.state = 1 ∧
    r.owner = p ∧ r.logSize = leAt l 1 1 ∧ r.logCpl = leAt l 3 1 ∧ r.quad = leAt l 2 1 ∧ r.handleBase = leAt l 4 4 ∧ r.stageLen = len ∧
    r.posted = 0 ∧ r.readIx = 0 ∧ r.written = 0 ∧ r.backlog = [] ∧ ∀ j, j ≠ i → (s.makeRing p l i base len).ring j = s.ring j := by
  obtain ⟨t, ht, he⟩ := s.makeRing_eq p i base len l
  have hr : ∀ j, (s.makeRing p l i base len).ring j =
      if i = j then askedRing p l base len (Config.freeWord32 s.free).toNat else s.ring j := fun j => by
    rw [he, State.tick_ring, State.updRing_ring_at, State.ring_congr j ht]
  exact ⟨_, (hr i).trans (if_pos rfl), rfl, rfl, rfl, rfl, rfl, rfl, rfl, rfl, rfl, rfl, rfl, fun j hj => (hr j).trans (if_neg (Ne.symm hj))⟩

end

/-! STATS_READ and COUNTERS_READ (R373). -/

section
variable {s : State} {p : Nat} {l : Bytes}

theorem stats_some {x : Bytes} (h : s.statsRecord p (leAt l 0 2) (leAt l 2 2) = some x) :
    s.stats p l = (0, toLe 4 x.length ++ toLe 4 (leAt l 4 4) ++ (x.drop (leAt l 4 4)).take (leAt l 8 2)) := by
  rw [State.stats, h]

theorem stats_none (h : s.statsRecord p (leAt l 0 2) (leAt l 2 2) = none) : s.stats p l = (0x0105, []) := by
  rw [State.stats, h]

theorem counters_parcel (h : leAt l 0 1 = 2) : s.counters p l = ((readWords (State.parcelWord p) (leAt l 2 2) (leAt l 8 8) s).2, 0,
    (readWords (State.parcelWord p) (leAt l 2 2) (leAt l 8 8) s).1) :=
  (if_neg (by rw [h]; decide)).trans (if_neg (by rw [h]; decide))

theorem counters_module_refused (h : leAt l 0 1 = 0) (hp : p ≠ 0) : s.counters p l = (s, 0x0105, []) :=
  (if_pos h).trans (if_neg hp)

end

/-! SPDM (R475, R477). -/

section
variable {s : State} {r : EdReq} {p : Nat} {l : Bytes}

/-- The security block signs one answer and keeps one waiting (R477). -/
theorem sign_busy {body : Bytes} (h : 2 ≤ s.sec.signs.length) : s.sign r body = (s.secEvent 4, .final 0 (spdmError 3 0)) :=
  if_pos h

theorem sign_waits {body : Bytes} (h : s.sec.signs.length < 2) : (s.sign r body).2 = .later ∧
    (s.sign r body).1.sec = { s.sec with signs := s.sec.signs ++ [⟨r, body⟩] } := by
  rw [State.sign, if_neg h.not_ge]
  exact ⟨rfl, rfl⟩

/-- The stage of a parcel's SPDM connection (R475). -/
def State.spdmStage (s : State) (p : Nat) : Nat := (SMap.get (⟨0⟩ : Spdm) s.sec.spdm p).stage

/-- A parcel's SPDM connection comes to a stage. -/
def State.spdmGo (s : State) (p n : Nat) : State := s.updSec (fun x => { x with spdm := SMap.set ⟨0⟩ x.spdm p ⟨n⟩ })

theorem doSpdm_version (h : leAt l 1 1 = 0x84) : s.doSpdm r p l = (s.spdmGo p 1, .final 0 ([0x10, 0x04, 0, 0, 0, 1] ++ toLe 2 0x1200)) :=
  if_pos h

theorem doSpdm_unknown (h : leAt l 1 1 ≠ 0x84) (hk : leAt l 0 1 ≠ 0x12 ∨ leAt l 1 1 ∉ ([0x81, 0x82, 0x83, 0xE0, 0xE1, 0xE3] : List Nat)) :
    s.doSpdm r p l = (s, .final 0 (spdmError 7 (leAt l 1 1))) :=
  (if_neg h).trans (if_pos (hk.symm.imp_left fun h => by simpa using h))

section
variable (hv : leAt l 0 1 = 0x12)
include hv

theorem doSpdm_capabilities (hc : leAt l 1 1 = 0xE1) : s.doSpdm r p l = if s.spdmStage p ≠ 1 then (s, .final 0 (spdmError 4 0))
    else (s.spdmGo p 2, .final 0 ([0x12, 0x61, 0, 0, 0, 10, 0, 0] ++ toLe 4 0x36 ++ toLe 4 8128 ++ toLe 4 8128)) := by
  unfold State.doSpdm
  rw [hc, hv]
  rfl

theorem doSpdm_algorithms (hc : leAt l 1 1 = 0xE3) : s.doSpdm r p l =
    if s.spdmStage p ≠ 2 then (s, .final 0 (spdmError 4 0))
    else if !spdmAlgOk l then (s, .final 0 (spdmError 7 (leAt l 1 1)))
    else (s.spdmGo p 3, .final 0 ([0x12, 0x63, 0, 0] ++ toLe 2 36 ++ [1, 0] ++ toLe 4 8 ++ toLe 4 0x20 ++ toLe 4 4 ++ zeros 16)) := by
  unfold State.doSpdm
  rw [hc, hv]
  rfl

/-- A request of a connection is answered once the algorithms are agreed (R475). -/
theorem doSpdm_connected (hc : leAt l 1 1 ∈ ([0x81, 0x82, 0x83, 0xE0] : List Nat)) : s.doSpdm r p l =
    if s.spdmStage p ≠ 3 then (s, .final 0 (spdmError 4 0)) else s.spdmServe r l := by
  unfold State.doSpdm
  simp only [List.mem_cons, List.not_mem_nil, or_false] at hc
  obtain hc | hc | hc | hc := hc
  all_goals
    rw [hc, hv]
    rfl

theorem doSpdm_out_of_order (h : (leAt l 1 1 = 0xE1 ∧ s.spdmStage p ≠ 1) ∨ (leAt l 1 1 = 0xE3 ∧ s.spdmStage p ≠ 2) ∨
    (leAt l 1 1 ∈ ([0x81, 0x82, 0x83, 0xE0] : List Nat) ∧ s.spdmStage p ≠ 3)) : s.doSpdm r p l = (s, .final 0 (spdmError 4 0)) := by
  obtain ⟨hc, hs⟩ | ⟨hc, hs⟩ | ⟨hc, hs⟩ := h
  · rw [doSpdm_capabilities hv hc, if_pos hs]
  · rw [doSpdm_algorithms hv hc, if_pos hs]
  · rw [doSpdm_connected hv hc, if_pos hs]

end

end

/-- Settles O35: a request that passes every check by its opcode, then by what it finds of its object, in the order of the checks. -/
theorem edushServingRequestsHaveTheirEffect : Obligations.EdushServingRequestsHaveTheirEffect := by
  unfold Obligations.EdushServingRequestsHaveTheirEffect
  refine ⟨fun m s a h ha => exec_of_passes h rfl (fun _ => rfl) ha, fun m s a h ha => exec_of_passes h rfl (fun _ => rfl) ha,
    fun m s a h ha => exec_of_passes h rfl (fun a => serveReq_ringCreate a m) ha, fun m s a h ha => exec_of_passes h rfl (fun _ => rfl) ha,
    fun m s a h ha => exec_of_passes h rfl (fun _ => rfl) ha, fun m s a h ha => exec_of_passes h rfl (fun _ => rfl) ha,
    fun m s a h ha => exec_of_passes h rfl (fun _ => rfl) ha, fun m s a h ha => exec_of_passes h rfl (fun _ => rfl) ha,
    fun s w l => doPin_unknown, fun s w l r => doPin_stranger, fun s w l r => doPin_refused, fun s w l r => doPin_no_model, ?pinFull, ?pinned,
    State.makePrefix_facts, fun s w l y => doUnpin_stale, ?unpinStranger, ?unpinFrees, ?unpinKeeps,
    fun s p l => doRing_destroying, fun s p l => doRing_clash, ?ringFull, ?ringMade, State.makeRing_facts, fun s w l => doRingDestroy_refused,
    fun s w l => doRingDestroy_begins, fun s p l x => stats_some, ?noRecord, fun s p l => ⟨counters_parcel, counters_module_refused⟩,
    fun s r p l => doSpdm_version, fun s r p l => doSpdm_unknown, fun s r p l => doSpdm_out_of_order, ?capabilities, ?algorithms, ?connected,
    fun s r body => ⟨sign_busy, sign_waits⟩⟩
  case pinFull =>
    intro s w l r x h h0 ho hm hx hn
    cases hf : s.freePrefix with
    | none => exact doPin_no_entry h h0 ho hm hx hf
    | some i =>
      rw [doPin_entry h h0 ho hm hx hf, ite_eq_left_iff]
      intro hq
      obtain hn | hn | hn := hn
      · cases hf.symm.trans hn
      · exact absurd hn hq
      · rw [hn, Option.elim_none]
  case pinned =>
    intro s w l r x i base h h0 ho hm hx hf hq hb
    rw [doPin_entry h h0 ho hm hx hf, if_neg hq.not_gt, hb, Option.elim_some]
  case unpinStranger =>
    intro s w l y hy hu hp hg hc ho
    rw [doUnpin_named hy hu hp hg hc, if_pos ho]
  case unpinFrees =>
    intro s w l y hy hu hp hg hc ho hr
    rw [doUnpin_named hy hu hp hg hc, if_neg (by simp [ho]), if_pos hr]
  case unpinKeeps =>
    intro s w l y hy hu hp hg hc ho hr
    rw [doUnpin_named hy hu hp hg hc, if_neg (by simp [ho]), if_neg hr]
  case ringFull =>
    intro s p l h0 hn hf
    rw [doRing_free h0 hn, ite_eq_left_iff]
    intro hq
    obtain hf | hf | hf := hf
    · exact absurd (.inl hf) hq
    · exact absurd (.inr hf) hq
    · rw [hf, Option.elim_none]
  case ringMade =>
    intro s p l base h0 hn hs hq hb
    rw [doRing_free h0 hn, if_neg, hb, Option.elim_some]
    rintro (hs' | ⟨hp, hq'⟩)
    · exact hs.not_gt hs'
    · obtain ⟨hr, hm⟩ := hq.resolve_left hp
      exact hq'.elim hr.not_ge hm.not_gt
  case noRecord =>
    intro s p l h
    rw [stats_none h]
    exact ⟨rfl, rfl⟩
  case capabilities =>
    intro s r p l hv hc hs
    rw [doSpdm_capabilities hv hc, if_neg (not_not_intro (show s.spdmStage p = 1 from hs))]
    rfl
  case algorithms =>
    intro s r p l hv hc hs ha
    rw [doSpdm_algorithms hv hc, if_neg (not_not_intro (show s.spdmStage p = 2 from hs)), ha]
    rfl
  case connected =>
    intro s r p l hv hc hs
    rw [doSpdm_connected hv hc, if_neg (not_not_intro (show s.spdmStage p = 3 from hs))]

end Sys2Proof.Machine
end

section
/-! SUPPORT. The checks of a gather record (R311): its bounds, its table and the room for its output. -/

namespace Sys2Proof.Machine

/-- What R311 asks of a gather record by itself, its plot's shape and the items behind it, before its table is looked up. -/
structure GatherRec.InBounds (g : GatherRec) (p : Plot) (len : Nat) : Prop where
  bags_pos : 1 ≤ g.nb
  bags_le : g.nb ≤ 256
  lookups_le : g.nidx ≤ 4000
  format : g.fmt = 0 ∨ g.fmt = 0xA ∨ g.fmt = 0xB
  aligned : g.off % 64 = 0
  lengths : g.lens.foldl (fun a b => a + b) 0 = g.nidx
  items : len = ceilDiv g.nb 16 + ceilDiv g.nidx 8 + (if g.pool = 3 then ceilDiv g.nidx 8 else 0)
  row : g.pos / 64 < 8 * p.rows
  col : g.pos % 64 < 8 * p.cols

/-- The test that the lateral engine makes of a record fails for the records out of bounds. -/
theorem GatherRec.inBounds_iff (g : GatherRec) (p : Plot) (len : Nat) : g.InBounds p len ↔
    ¬ (g.nb < 1 ∨ 256 < g.nb ∨ 4000 < g.nidx ∨ (g.fmt ≠ 0 ∧ g.fmt ≠ 0xA ∧ g.fmt ≠ 0xB) ∨ g.off % 64 ≠ 0 ∨
      g.lens.foldl (fun a b => a + b) 0 ≠ g.nidx ∨
      len ≠ ceilDiv g.nb 16 + ceilDiv g.nidx 8 + (if g.pool = 3 then ceilDiv g.nidx 8 else 0) ∨
      8 * p.rows ≤ g.pos / 64 ∨ 8 * p.cols ≤ g.pos % 64) := by
  simp only [not_or, not_and_or, not_lt, not_le, not_not]
  exact ⟨fun ⟨h1, h2, h3, h4, h5, h6, h7, h8, h9⟩ => ⟨h1, h2, h3, h4, h5, h6, h7, h8, h9⟩,
    fun ⟨h1, h2, h3, h4, h5, h6, h7, h8, h9⟩ => ⟨h1, h2, h3, h4, h5, h6, h7, h8, h9⟩⟩

/-- The bytes of the vectors that a gather writes (R314). -/
def GatherRec.vectorBytes (g : GatherRec) (ent : TableEnt) : Nat :=
  g.nb * outCols ent.elems (codeBits g.fmt / 8) * (codeBits g.fmt / 8)

section
variable {s : State} {p : Plot} {items : List Bytes}

theorem gatherCheck_outOfBounds (h : ¬ (gatherRec items).InBounds p items.tail.length) : s.gatherCheck p items = some 0x14 :=
  if_pos (not_not.1 (mt (GatherRec.inBounds_iff ..).2 h))

/-- A record within its bounds: its table decides, then the room for its output. -/
theorem gatherCheck_inBounds (h : (gatherRec items).InBounds p items.tail.length) : s.gatherCheck p items =
    if (!(s.tableEnt (gatherTable items)).valid) = true ∨ (s.tableEnt (gatherTable items)).model ≠ p.model then some 0x15
    else if p.env 0x10 4 < (gatherRec items).off + 64 + (gatherRec items).vectorBytes (s.tableEnt (gatherTable items)) +
        32 * ceilDiv (gatherRec items).nb 32 ∨ maxPayload < (gatherRec items).vectorBytes (s.tableEnt (gatherTable items)) then some 0x14
    else none :=
  if_neg ((GatherRec.inBounds_iff ..).1 h)

theorem gatherCheck_badRecord (h : leAt (items.headD []) 4 2 < 1 ∨ 256 < leAt (items.headD []) 4 2 ∨ 4000 < leAt (items.headD []) 6 2 ∨
    leAt (items.headD []) 0x10 4 % 64 ≠ 0) : s.gatherCheck p items = some 0x14 := by
  refine gatherCheck_outOfBounds fun hb => ?_
  obtain h | h | h | h := h
  · exact h.not_ge hb.bags_pos
  · exact h.not_ge hb.bags_le
  · exact h.not_ge hb.lookups_le
  · exact h hb.aligned

theorem gatherCheck_badTable
    (h : (s.tableEnt (gatherTable items)).valid = false ∨ (s.tableEnt (gatherTable items)).model ≠ p.model) :
    s.gatherCheck p items = some 0x14 ∨ s.gatherCheck p items = some 0x15 := by
  by_cases hb : (gatherRec items).InBounds p items.tail.length
  · exact .inr ((gatherCheck_inBounds hb).trans (if_pos (h.imp_left (congrArg not))))
  · exact .inl (gatherCheck_outOfBounds hb)

theorem gatherCheck_good {r : RTable} (h : goodGather s r p items) : s.gatherCheck p items = none := by
  obtain ⟨-, hnb, hnb', hnidx, hfmt, hoff, hlens, hlen, hrow, hcol, hvalid, hmodel, henv, hpay⟩ := h
  rw [gatherCheck_inBounds ⟨hnb, hnb', hnidx, hfmt, hoff, hlens, (congrArg List.length List.drop_one.symm).trans hlen, hrow, hcol⟩,
    if_neg, if_neg]
  · exact fun h => h.elim henv.not_gt hpay.not_gt
  · exact fun h => h.elim (by rw [hvalid]; exact Bool.false_ne_true) (absurd hmodel)

end

end Sys2Proof.Machine
end

section
/-! SUPPORT. Embedding tables and gathers (R304, R305, R308, R310, R312 to R316, R319 to R321): the start of a gather, its sub-packets,
the row reads and the partials, with the statement of chapter 11 on them. -/

namespace Sys2Proof.Machine

/-! Gather packets (R310 to R312). -/

section
variable {s : State} {e t n : Nat} {p : Plot} {items : List Bytes}

theorem exec_gatherPacket_whole {le : Fin 4} {q : Nat} (h : comesTo s le.val t q n) (hk : packetKind (headPacket s q n) = 4) :
    exec (.gatherPacket le) s = .next ((tookPacket s le.val t q n).latGather le.val t n (headPacket s q n)) :=
  congrArg Host.Outcome.next (latTake_whole h (beq_iff_eq.2 hk))

theorem latGather_noPlot (h : s.plot ((s.lateral e).table t).lead = none) : s.latGather e t n items = s := by
  simp only [State.latGather, h]

theorem latGather_refused {c : Nat} (h : s.plot ((s.lateral e).table t).lead = some p) (hc : s.gatherCheck p items = some c) :
    s.latGather e t n items = s.leFault e c t n 0 [((s.lateral e).table t).lead] := by
  simp only [State.latGather, h, hc]

theorem latGather_started (h : s.plot ((s.lateral e).table t).lead = some p) (hc : s.gatherCheck p items = none) :
    s.latGather e t n items = (s.startGather e t p items).finishGathers e := by
  simp only [State.latGather, h, hc]

end

/-! The start of a gather (R312). -/

/-- A lateral engine with one more open gather, and what goes out for it. -/
def Lateral.openGather (l : Lateral) (o : OpenGather) (out : List (Nat × GSub)) : Lateral :=
  { l with gathers := l.gathers ++ [o], nextGid := l.nextGid + 1, outSubs := l.outSubs ++ out }

/-- A lateral engine with one more sub-packet to take. -/
def Lateral.queueSub (l : Lateral) (g : GSub) : Lateral := { l with subs := l.subs ++ [g] }

section
variable (s : State) (e : Nat)

/-- The state in which lateral engine `e` has opened gather `o`, and its table has counted the lookups of the packet. -/
def State.gatherOpened (items : List Bytes) (oor : Nat) (o : OpenGather) (out : List (Nat × GSub)) : State :=
  (s.updTableEnt (gatherTable items) (fun x => { x with
    lookupCnt := satAdd 48 x.lookupCnt (leAt (items.headD []) 6 2)
    oorCnt := satAdd 32 x.oorCnt oor })).updLe e (·.openGather o out)

theorem gatherOpened_lookupCnt (items : List Bytes) (oor : Nat) (o : OpenGather) (out : List (Nat × GSub)) :
    ((s.gatherOpened e items oor o out).tableEnt (gatherTable items)).lookupCnt =
      satAdd 48 (s.tableEnt (gatherTable items)).lookupCnt (leAt (items.headD []) 6 2) := by
  rw [State.gatherOpened, State.updLe_tableEnt, State.updTableEnt_tableEnt_at, if_pos rfl]

theorem gatherOpened_lateral (items : List Bytes) (oor : Nat) (o : OpenGather) (out : List (Nat × GSub)) :
    (s.gatherOpened e items oor o out).lateral e = (s.lateral e).openGather o out := by
  rw [State.gatherOpened, State.updLe_lateral_at, if_pos rfl, State.updTableEnt_lateral]

theorem queueSub_gathers (i : Nat) (g : GSub) : ((s.updLe i (·.queueSub g)).lateral e).gathers = (s.lateral e).gathers ∧
    ((s.updLe i (·.queueSub g)).lateral e).nextGid = (s.lateral e).nextGid := by
  rw [State.updLe_lateral_at]
  split
  next h => exact h ▸ ⟨rfl, rfl⟩
  next => exact ⟨rfl, rfl⟩

/-- A gather's start counts its table's lookups, opens the gather, and may give the module itself a sub-packet. -/
theorem startGather_eq (t : Nat) (p : Plot) (items : List Bytes) :
    ∃ (o : OpenGather) (out : List (Nat × GSub)) (oor i : Nat) (g : GSub) (own : Bool), s.startGather e t p items =
      (if own = true then (s.gatherOpened e items oor o out).updLe i (·.queueSub g) else s.gatherOpened e items oor o out) ∧
    o.gid = 16 * (s.lateral e).nextGid + t ∧ o.lead = ((s.lateral e).table t).lead ∧ o.gen = ((s.lateral e).table t).gen ∧
    o.table = gatherTable items ∧ o.failed = false :=
  ⟨_, _, _, _, _, _, rfl, rfl, rfl, rfl, rfl, rfl⟩

theorem startGather_facts (t : Nat) (p : Plot) (items : List Bytes) :
    ((s.startGather e t p items).tableEnt (gatherTable items)).lookupCnt =
      satAdd 48 (s.tableEnt (gatherTable items)).lookupCnt (leAt (items.headD []) 6 2) ∧
    ((s.startGather e t p items).lateral e).nextGid = (s.lateral e).nextGid + 1 ∧
    (∃ g, ((s.startGather e t p items).lateral e).gathers = (s.lateral e).gathers ++ [g] ∧ g.gid = 16 * (s.lateral e).nextGid + t ∧
      g.lead = ((s.lateral e).table t).lead ∧ g.gen = ((s.lateral e).table t).gen ∧ g.table = gatherTable items ∧ g.failed = false) ∧
    (s.startGather e t p items).mem = s.mem := by
  obtain ⟨o, out, oor, i, g, own, hs, ho⟩ := startGather_eq s e t p items
  rw [hs]
  cases own with
  | true =>
    obtain ⟨hgathers, hgid⟩ := queueSub_gathers (s.gatherOpened e items oor o out) e i g
    rw [if_pos rfl, hgathers, hgid, State.updLe_tableEnt, gatherOpened_lookupCnt, gatherOpened_lateral]
    exact ⟨rfl, rfl, ⟨o, rfl, ho⟩, rfl⟩
  | false =>
    rw [if_neg Bool.false_ne_true, gatherOpened_lookupCnt, gatherOpened_lateral]
    exact ⟨rfl, rfl, ⟨o, rfl, ho⟩, rfl⟩

end

/-! Sub-packets (R305, R312, R319). -/

section
variable {s : State} {le : Fin 4}

theorem exec_gatherSubpacket_oldest {g : GSub} {l : List GSub} (h : (s.lateral le.val).subs = g :: l) :
    exec (.gatherSubpacket le none) s = .next ((s.updLe le.val (fun x => { x with subs := l })).takeSub le.val g) := by
  change execGatherSubpacket le none s = _
  simp only [execGatherSubpacket, h]

theorem exec_gatherSubpacket_nothing (h : (s.lateral le.val).subs = []) : exec (.gatherSubpacket le none) s = .next s := by
  change execGatherSubpacket le none s = _
  simp only [execGatherSubpacket, h]

theorem exec_gatherSubpacket_remote (g : GSub) : exec (.gatherSubpacket le (some g)) s =
    .next ((s.updLe le.val (fun l => { l with bytesIn := satAdd 48 l.bytesIn (12 * g.rows.length) })).takeSub le.val g) := rfl

end

section
variable (s : State)

@[simp] theorem State.sendPart_gatherEng (e srcMod srcLe : Nat) (p : GPart) (i : Nat) :
    (s.sendPart e srcMod srcLe p).gatherEng i = s.gatherEng i := by
  unfold State.sendPart
  split <;> rfl

/-- The partials that leave a lateral engine change no gather engine. -/
@[simp] theorem State.flushOwned_gatherEng (e srcMod gid i : Nat) : (s.flushOwned e srcMod gid).gatherEng i = s.gatherEng i := by
  unfold State.flushOwned
  split
  · rfl
  · exact foldl_rel (R := fun s t => t.gatherEng i = s.gatherEng i) s (fun _ => rfl) (fun hst htu => htu.trans hst)
      (fun s b => s.sendPart_gatherEng ..) _

variable (g : GSub)

/-- The place of a row of a sub-packet: its gather engine, and the row as that engine holds it (R305, R308). -/
def State.placeRow (e : Nat) (x : GIdx) : Nat × GRow :=
  ((s.tableEnt g.table).engineOf (x.row - (s.tableEnt g.table).bound (s.slot % 4)),
    GRow.mk g.srcMod g.srcLe g.gid g.gen e g.parcel g.table g.pool x.bag (x.row - (s.tableEnt g.table).bound (s.slot % 4)) x.weight)

/-- Placed rows go to their gather engines, in order. -/
def State.handRows (s : State) (l : List (Nat × GRow)) : State :=
  l.foldl (fun s x => s.updGe x.1 (fun y => { y with rows := y.rows ++ [x.2] })) s

variable {g} {e : Nat}

theorem takeSub_noRoom (h : s.gatherRoom e (subItems g) = false) : s.takeSub e g =
    (s.leFault e 0x12 (g.gid % 16) 0 0 (s.runningOf (s.tableEnt g.table).model)).sendPart e g.srcMod g.srcLe
      ⟨g.gid, g.gen, s.slot % 4, 0, true, true, [], false, false⟩ :=
  if_pos (congrArg not h)

/-- A sub-packet with room: the rows of engines that accept them are handed out, the others fail, and what is done goes back (R312, R321). -/
theorem takeSub_room (h : s.gatherRoom e (subItems g) = true) : ∃ f : Lateral → Lateral, s.takeSub e g =
    (((g.rows.map (s.placeRow g e)).filter (fun x => !(s.gatherEng x.1).enable)).foldl
      (fun t x => t.geErr x.1 1 ((s.tableEnt g.table).rowAddr x.2.row) g.parcel)
      ((s.updLe e f).handRows ((g.rows.map (s.placeRow g e)).filter (fun x => (s.gatherEng x.1).enable)))).flushOwned e g.srcMod g.gid :=
  ⟨_, if_neg (ne_true_of_eq_false (congrArg not h))⟩

/-- The one row of a sub-packet goes behind the rows of its engine, when that accepts rows. -/
theorem takeSub_one {x : GIdx} (h : s.gatherRoom e (subItems g) = true) (hx : g.rows = [x])
    (hen : (s.gatherEng (s.placeRow g e x).1).enable = true) :
    ((s.takeSub e g).gatherEng (s.placeRow g e x).1).rows = (s.gatherEng (s.placeRow g e x).1).rows ++ [(s.placeRow g e x).2] := by
  obtain ⟨f, hf⟩ := takeSub_room s h
  rw [hf, hx, List.map_singleton, List.filter_singleton, List.filter_singleton, hen]
  simp [State.handRows]

end

/-! Row reads (R305, R313, R315, R319). -/

section
variable {s : State} {ge : Fin 96} {poison : Bool} {f : Option Bytes} {x : GRow} {turn quantum : Nat} {b : Bag}

theorem exec_rowRead_nothing (h : (s.gatherEng ge.val).pick = none) : exec (.rowRead ge poison f) s = .next s := by
  change execRowRead ge poison f s = _
  simp only [execRowRead, h]

theorem exec_rowRead_read (h : (s.gatherEng ge.val).pick = some (x, turn, quantum)) (hf : s.rowFail (s.tableEnt x.table) x.row poison = none)
    (hb : b = s.rowBag (s.gatherEng ge.val) (s.tableEnt x.table) x false) : exec (.rowRead ge poison f) s =
    .next (if (s.gatherEng ge.val).lastOf x then (s.rowTaken ge.val x turn quantum b).closeBag x b else s.rowTaken ge.val x turn quantum b) := by
  change execRowRead ge poison f s = _
  simp only [execRowRead, h, hf, hb, Option.isSome_none]

theorem exec_rowRead_failed {c u : Nat} (h : (s.gatherEng ge.val).pick = some (x, turn, quantum))
    (hf : s.rowFail (s.tableEnt x.table) x.row poison = some (c, u))
    (hb : b = s.rowBag (s.gatherEng ge.val) (s.tableEnt x.table) x true) : exec (.rowRead ge poison f) s =
    .next (if (s.gatherEng ge.val).lastOf x then ((s.rowTaken ge.val x turn quantum b).rowFailed ge.val x c u f).closeBag x b
      else (s.rowTaken ge.val x turn quantum b).rowFailed ge.val x c u f) := by
  change execRowRead ge poison f s = _
  simp only [execRowRead, h, hf, hb, Option.isSome_some]

/-- A row that is read leaves its engine, which counts it and passes the turn; no other engine changes. -/
theorem rowTaken_facts (s : State) (i : Nat) (x : GRow) (turn quantum : Nat) (b : Bag) :
    ((s.rowTaken i x turn quantum b).gatherEng i).rows = (s.gatherEng i).rows.erase x ∧
    ((s.rowTaken i x turn quantum b).gatherEng i).rowsCnt = satAdd 48 (s.gatherEng i).rowsCnt 1 ∧
    ((s.rowTaken i x turn quantum b).gatherEng i).turn = turn ∧
    (∀ j, j ≠ i → (s.rowTaken i x turn quantum b).gatherEng j = s.gatherEng j) ∧ (s.rowTaken i x turn quantum b).mem = s.mem := by
  unfold State.rowTaken
  dsimp only
  refine ⟨?_, ?_, ?_, fun j hj => ?_, rfl⟩
  · rw [State.updGe_gatherEng_at, if_pos rfl]
  · rw [State.updGe_gatherEng_at, if_pos rfl]
  · rw [State.updGe_gatherEng_at, if_pos rfl]
  · rw [State.updGe_gatherEng_at, if_neg hj.symm]

/-- The row read next is one of the engine's, of the parcel whose turn it becomes: the quantum goes on or starts anew (R305). -/
theorem pick_facts {g : GatherEng} (h : g.pick = some (x, turn, quantum)) :
    x ∈ g.rows ∧ x.parcel = turn ∧ (quantum = g.quantum - 1 ∨ quantum = 63) := by
  unfold GatherEng.pick at h
  dsimp only at h
  split at h
  next y hy =>
    cases h
    have hp := List.find?_some hy
    rw [Bool.and_eq_true, beq_iff_eq] at hp
    exact ⟨List.mem_of_mem_filter (List.mem_of_find?_eq_some hy), hp.1, .inl rfl⟩
  next =>
    split at h
    · cases h
    next p _ =>
      obtain ⟨y, hy, hxy⟩ := Option.map_eq_some_iff.1 h
      cases hxy
      have hp := List.find?_some hy
      exact ⟨List.mem_of_mem_filter (List.mem_of_find?_eq_some hy), beq_iff_eq.1 hp, .inr rfl⟩

end

/-! Partials (R314, R319, R320). -/

section
variable {s : State} {le : Fin 4}

theorem exec_gatherPartial_oldest {p : GPart} {l : List GPart} (h : (s.lateral le.val).parts = p :: l) : exec (.gatherPartial le none) s =
    .next (((s.updLe le.val (fun x => { x with parts := l })).takePart le.val p).finishGathers le.val) := by
  change execGatherPartial le none s = _
  simp only [execGatherPartial, h]

theorem exec_gatherPartial_nothing (h : (s.lateral le.val).parts = []) :
    exec (.gatherPartial le none) s = .next (s.finishGathers le.val) := by
  change execGatherPartial le none s = _
  simp only [execGatherPartial, h]

theorem exec_gatherPartial_remote (p : GPart) : exec (.gatherPartial le (some p)) s = .next (((s.updLe le.val (fun l =>
    { l with bytesIn := satAdd 48 l.bytesIn (16 * p.elems.length) })).takePart le.val p).finishGathers le.val) := rfl

end

/-- Lateral engine `e` changes its gathers of a number. -/
def State.updGather (s : State) (e gid : Nat) (f : OpenGather → OpenGather) : State :=
  s.updLe e (fun l => { l with gathers := l.gathers.map (fun x => if x.gid = gid then f x else x) })

/-- Lateral engine `e` marks its gathers of a number as failed. -/
def State.failGather (s : State) (e gid : Nat) : State := s.updGather e gid (fun x => { x with failed := true })

/-- The bag of a gather that a partial is combined into, as it is after the partial (R314). -/
def OpenGather.bagWith (g : OpenGather) (p : GPart) : Bag :=
  ((g.bags.find? (fun b => b.bag == p.bag)).getD ⟨p.bag, [], false, false, 0, false⟩).combine g.pool false p.elems p.underF p.overF

/-- A gather with the bag of a partial, for which it waits no more. -/
def OpenGather.withPart (x : OpenGather) (p : GPart) (b : Bag) : OpenGather :=
  { x with bags := x.bags.filter (fun y => y.bag != p.bag) ++ [b], waits := x.waits.erase (p.owner, p.bag) }

section
variable {s : State} {e : Nat} {p : GPart} {g : OpenGather}

theorem takePart_noGather (h : (s.lateral e).gathers.find? (fun g => g.gid == p.gid) = none) : s.takePart e p = s.dropReturn e (p.gid % 16) := by
  simp only [State.takePart, h]
  rfl

section
variable (h : (s.lateral e).gathers.find? (fun g => g.gid == p.gid) = some g)
include h

/-- A partial whose gather is open: of another step, for a gather that has failed, without cells, failed, or combined. -/
theorem takePart_found : s.takePart e p = if g.gen ≠ p.gen ∨ p.gen ≠ ((s.lateral e).table g.route).gen then s.dropReturn e (p.gid % 16)
    else if g.failed = true then s
    else if p.quota = true ∨ (!s.gatherRoom e (partItems p)) = true then (s.failGather e g.gid).leFault e 0x12 g.route 0 0 [g.lead]
    else if p.fail = true then (s.failGather e g.gid).tierError g.lead 1 0 0
    else s.updGather e g.gid (·.withPart p (g.bagWith p)) := by
  simp only [State.takePart, h]
  rfl

theorem takePart_otherStep (hg : g.gen ≠ p.gen ∨ p.gen ≠ ((s.lateral e).table g.route).gen) :
    s.takePart e p = s.dropReturn e (p.gid % 16) :=
  (takePart_found h).trans (if_pos hg)

variable (hg : g.gen = p.gen) (hr : p.gen = ((s.lateral e).table g.route).gen)
include hg hr

/-- A partial of the running step. -/
theorem takePart_ofStep : s.takePart e p = if g.failed = true then s
    else if p.quota = true ∨ (!s.gatherRoom e (partItems p)) = true then (s.failGather e g.gid).leFault e 0x12 g.route 0 0 [g.lead]
    else if p.fail = true then (s.failGather e g.gid).tierError g.lead 1 0 0
    else s.updGather e g.gid (·.withPart p (g.bagWith p)) :=
  (takePart_found h).trans (if_neg fun h => h.elim (absurd hg) (absurd hr))

theorem takePart_ofFailed (hf : g.failed = true) : s.takePart e p = s := (takePart_ofStep h hg hr).trans (if_pos hf)

variable (hf : g.failed = false)
include hf

theorem takePart_noCells (hq : p.quota = true ∨ s.gatherRoom e (partItems p) = false) :
    s.takePart e p = (s.failGather e g.gid).leFault e 0x12 g.route 0 0 [g.lead] := by
  rw [takePart_ofStep h hg hr, if_neg (ne_true_of_eq_false hf)]
  exact if_pos (hq.imp_right (congrArg not))

variable (hq : p.quota = false) (hroom : s.gatherRoom e (partItems p) = true)
include hq hroom

theorem takePart_withCells : s.takePart e p = if p.fail = true then (s.failGather e g.gid).tierError g.lead 1 0 0
    else s.updGather e g.gid (·.withPart p (g.bagWith p)) := by
  rw [takePart_ofStep h hg hr, if_neg (ne_true_of_eq_false hf), if_neg]
  exact fun h => h.elim (ne_true_of_eq_false hq) (ne_true_of_eq_false (congrArg not hroom))

theorem takePart_fails (hp : p.fail = true) : s.takePart e p = (s.failGather e g.gid).tierError g.lead 1 0 0 :=
  (takePart_withCells h hg hr hf hq hroom).trans (if_pos hp)

theorem takePart_combines (hp : p.fail = false) : s.takePart e p = s.updGather e g.gid (·.withPart p (g.bagWith p)) :=
  (takePart_withCells h hg hr hf hq hroom).trans (if_neg (ne_true_of_eq_false hp))

end

/-- A partial is stale where no open gather has its number, or the one that has it is of another step (R320). -/
theorem takePart_stale (h : (∀ g, g ∈ (s.lateral e).gathers → g.gid ≠ p.gid) ∨
    ∃ g, (s.lateral e).gathers.find? (fun g => g.gid == p.gid) = some g ∧ (g.gen ≠ p.gen ∨ p.gen ≠ ((s.lateral e).table g.route).gen)) :
    s.takePart e p = s.dropReturn e (p.gid % 16) := by
  obtain hnone | ⟨g, hfind, hstep⟩ := h
  · exact takePart_noGather (List.find?_eq_none.2 fun g hmem hid => hnone g hmem (beq_iff_eq.1 hid))
  · exact takePart_otherStep hfind hstep

/-- The only gather of an engine changes to what the change makes of it. -/
theorem updGather_only (h : (s.lateral e).gathers = [g]) (f : OpenGather → OpenGather) :
    ((s.updGather e g.gid f).lateral e).gathers = [f g] := by
  simp [State.updGather, h]

end

/-! Gather engines and maxima (R316, R321). -/

theorem exec_geCtrlEnable (ge : Fin 96) (on : Bool) (s : State) :
    exec (.geCtrlEnable ge on) s = .next (s.updGe ge.val (fun x => { x with enable := on })) := rfl

/-- A maximum over a NaN is NaN. -/
theorem elemJoin_nan {a b : GElem} (h : a.cls = 3 ∨ b.cls = 3) : (elemJoin a b).cls = 3 := by
  unfold elemJoin
  by_cases ha : a.cls = 3
  · rwa [if_pos ha]
  · have hb := h.resolve_left ha
    rwa [if_neg ha, if_pos hb]

/-- Settles O26: a gather packet by its checks, a sub-packet by its cells and the engine of its row, a row read by the row picked and whether it could
be read, and a partial by the gather that has its number. -/
theorem gathersReadAndPoolRows : Obligations.GathersReadAndPoolRows := by
  unfold Obligations.GathersReadAndPoolRows
  refine ⟨fun le s t q n => exec_gatherPacket_whole, fun s e t n items => ⟨latGather_noPlot, fun p hp => ?packet⟩,
    fun s p items => gatherCheck_badRecord, fun s p items => gatherCheck_badTable, fun s r p items => gatherCheck_good, startGather_facts,
    fun le s g l => exec_gatherSubpacket_oldest, fun le s => exec_gatherSubpacket_nothing, fun le g s => exec_gatherSubpacket_remote g,
    fun s e g => takeSub_noRoom s, fun s e g x => takeSub_one s, fun ge poison f s x turn quantum b => exec_rowRead_read,
    fun ge poison f s x turn quantum c u b => exec_rowRead_failed, fun ge poison f s => exec_rowRead_nothing, rowTaken_facts,
    fun g x turn quantum => pick_facts, fun le s p l => exec_gatherPartial_oldest, fun le s => exec_gatherPartial_nothing,
    fun le p s => exec_gatherPartial_remote p, fun s e p => takePart_stale,
    fun s e p g h hg hr => ⟨takePart_ofFailed h hg hr, takePart_noCells h hg hr, takePart_fails h hg hr⟩, ?combined, ?enable,
    fun a b => elemJoin_nan⟩
  case packet =>
    cases hc : s.gatherCheck p items with
    | some c => exact latGather_refused hp hc
    | none => exact latGather_started hp hc
  case combined =>
    intro s e p g hg hid hgen hr hf hq hroom hp
    have hfind : (s.lateral e).gathers.find? (fun g => g.gid == p.gid) = some g := by
      rw [hg, List.find?_singleton, if_pos (beq_iff_eq.2 hid)]
    exact ⟨g.withPart p (g.bagWith p), by rw [takePart_combines hfind hgen hr hf hq hroom hp, updGather_only hg], rfl, hf⟩
  case enable =>
    intro ge on s
    refine ⟨_, exec_geCtrlEnable ge on s, ?_, fun i hi => ?_, rfl⟩
    · rw [State.updGe_gatherEng_at, if_pos rfl]
    · rw [State.updGe_gatherEng_at, if_neg hi.symm]

end Sys2Proof.Machine
end

section
-- Checked one after the other: run side by side, these proofs do not fit the memory of one check of the whole text.
set_option Elab.async false

section
/-! SUPPORT. The interrupt controller's pending and active sources (R418, R420 to R422, R424), and the commands as steps, with the statements
on them. -/

namespace Sys2Proof.Machine

/-! Pending sources (R418). -/

section
variable (s : State) {n m : Nat}

theorem signal_pend (hm : m < 256) : (s.signal n).hic.pend.getLsbD m = (s.hic.pend.getLsbD m || decide (n = m)) := by
  show (s.hic.pend ||| BitVec.ofNat 256 (2 ^ n)).getLsbD m = _
  rw [BitVec.getLsbD_or, BitVec.getLsbD_ofNat, Nat.testBit_two_pow]
  simp [hm]

theorem signal_signal : (s.signal n).signal n = s.signal n := by
  show ({ s with hic := { s.hic with pend := s.hic.pend ||| _ ||| _ } } : State) = _
  rw [BitVec.or_assoc, BitVec.or_self]
  rfl

/-- A signal makes no other source eligible. -/
theorem signal_eligible_other (c : Nat) (hm : m < 256) (h : m ≠ n) : (s.signal n).hic.eligible c m = s.hic.eligible c m := by
  have hp : (s.signal n).hic.pend.getLsbD m = s.hic.pend.getLsbD m := by rw [signal_pend s hm, decide_eq_false (Ne.symm h), Bool.or_false]
  show ((s.signal n).hic.pend.getLsbD m && _ && _ && _ && _ && _ && _) = _
  rw [hp]
  rfl

end

/-- The one source that is eligible is offered (R420). -/
theorem offer_of_only {h : Hic} {c n : Nat} (hl : (h.of c).length < 16) (hn : n < 256) (he : h.eligible c n = true)
    (ho : ∀ m, m < 256 → m ≠ n → h.eligible c m = false) : h.offer c = some n := by
  have hf : (List.range 256).filter (h.eligible c) = [n] := by
    have hc : (List.range 256).filter (h.eligible c) = (List.range 256).filter (· == n) := by
      refine List.filter_congr fun m hm => ?_
      by_cases hmn : m = n
      · rw [hmn, he, beq_self_eq_true]
      · rw [ho m (List.mem_range.mp hm) hmn, beq_eq_false_iff_ne.mpr hmn]
    rw [hc, List.filter_beq, List.count_eq_one_of_mem List.nodup_range (List.mem_range.mpr hn)]
    rfl
  unfold Hic.offer
  rw [if_neg (Nat.not_le.mpr hl), hf]
  rfl

/-- A core with no active source runs no group, so its first source is above it (R419, R420). -/
theorem eligible_of_idle {h : Hic} {c n : Nat} (hp : h.pend.getLsbD n = true) (he : h.en.getLsbD n = true) (ht : SMap.get 0 h.target n = c)
    (hth : SMap.get 0 h.thresh c < SMap.get 0 h.prio n) (hen : h.enable = true) (ho : h.of c = []) : h.eligible c n = true := by
  have hr : h.running c = 0 := by unfold Hic.running; rw [ho]; rfl
  unfold Hic.eligible
  simp only [hp, he, ht, hth, hen, hr, decide_true, Bool.and_true, Bool.true_and, Nat.zero_lt_succ, decide_eq_true_eq]
  omega

/-! Active sources (R421, R422). -/

section
variable (s : State) (x : CoreIn)

theorem offer_of_full {h : Hic} {c : Nat} (hl : 16 ≤ (h.of c).length) : h.offer c = none := if_pos hl

theorem take_of_no_offer (h : s.hic.offer x.core.val = none) : s.take x = s := by
  unfold State.take
  simp only [h, ite_self]

/-- A take gives its core one more active source, and only while it holds fewer than 16. -/
theorem take_of_length_le (c : Nat) (h : (s.hic.of c).length ≤ 16) : ((s.take x).hic.of c).length ≤ 16 := by
  unfold State.take
  dsimp only
  split
  · exact h
  split
  · exact h
  next n hn =>
    show ((s.hic.active ++ [_]).filter _).length ≤ 16
    rw [List.filter_append, List.length_append]
    by_cases hc : x.core.val = c
    · have hl : (s.hic.of c).length < 16 := by
        by_contra hge
        rw [hc, offer_of_full (Nat.not_lt.mp hge)] at hn
        cases hn
      have h1 := List.length_filter_le (fun a : HicActive => a.core == c) [⟨x.core.val, n, SMap.get 0 s.hic.prio n⟩]
      unfold Hic.of at hl
      exact Nat.le_trans (Nat.add_le_add_left h1 _) (by simpa using hl)
    · rw [List.filter_cons_of_neg (by simpa using hc)]
      exact h

end

/-! The statements. -/

/-- Settles O55: the signal is one bit of `HIC_PEND`, and the source it makes eligible is the only one. -/
theorem anEventSetsThePendingBit : Obligations.AnEventSetsThePendingBit := by
  unfold Obligations.AnEventSetsThePendingBit
  refine ⟨fun s n hn => ⟨?_, fun m hm hmn => ?_⟩, fun s n => signal_signal s, fun _ _ _ => rfl, fun _ _ => rfl, ?_⟩
  · rw [signal_pend s hn, decide_eq_true rfl, Bool.or_true]
  · rw [signal_pend s hm, decide_eq_false (Ne.symm hmn), Bool.or_false]
  · intro s c n hn hen ht hth he hof hother
    have hp : (s.signal n).hic.pend.getLsbD n = true := by rw [signal_pend s hn, decide_eq_true rfl, Bool.or_true]
    refine offer_of_only ?_ hn (eligible_of_idle hp hen ht hth he hof) fun m hm hmn => ?_
    · show (s.hic.of c).length < 16
      rw [hof]
      exact Nat.zero_lt_succ _
    · rw [signal_eligible_other s c hm hmn, hother m hm hmn]

/-- Settles O56: a take is the only command here that adds an active source, and it is offered none while its core holds 16. -/
theorem aCoreHoldsAtMostSixteenSources : Obligations.ACoreHoldsAtMostSixteenSources := by
  unfold Obligations.ACoreHoldsAtMostSixteenSources
  refine ⟨?_, ?_, ?_, fun s c => offer_of_full, ?_⟩
  · rintro x s _ c h ⟨⟩
    exact take_of_length_le s x c h
  · rintro core src s _ c ⟨⟩
    split
    · show ((s.hic.active.filter _).filter _).length ≤ (s.hic.active.filter _).length
      exact (List.filter_sublist.filter _).length_le
    · exact Nat.le_refl _
  · rintro w v events taker s _ c h ⟨⟩
    cases taker with
    | none => exact h
    | some x => exact take_of_length_le s x c h
  · intro x s h
    show Host.Outcome.next (s.take x) = _
    rw [take_of_no_offer s x (offer_of_full h)]

/-! Steps. -/

/-- Whether an outcome is a next state. -/
def isNext (o : Host.Outcome State Fault Refusal) : Bool :=
  match o with
  | .next _ => true
  | _ => false

theorem exists_of_isNext {o : Host.Outcome State Fault Refusal} (h : isNext o = true) : ∃ t, o = .next t :=
  match o, h with
  | .next t, _ => ⟨t, rfl⟩

theorem exec_isNext (c : Instr) (s : State) : isNext (exec c s) = true := by cases c <;> rfl

theorem exec_next (c : Instr) (s : State) : ∃ t, exec c s = .next t := exists_of_isNext (exec_isNext c s)

theorem step_next (s : State) : ∃ t, step s = .next t := by
  unfold step
  split
  · exact ⟨s, rfl⟩
  · exact exec_next _ _

theorem safeRun_all (n : Nat) (s : State) : safeRun n s := by
  induction n generalizing s with
  | zero => rfl
  | succ n ih =>
    obtain ⟨t, ht⟩ := step_next s
    unfold safeRun runFrom
    rw [ht]
    exact ih t

/-- Settles O54: every meaning ends in a next state, so a run never stops. -/
theorem everyCommandEndsInANextState : Obligations.EveryCommandEndsInANextState := by
  unfold Obligations.EveryCommandEndsInANextState
  exact ⟨exec_next, safeRun_all⟩

/-- Settles O50: a step looks at the front of the queue. -/
theorem stepRunsTheFrontCommand : Obligations.StepRunsTheFrontCommand := by
  unfold Obligations.StepRunsTheFrontCommand
  refine ⟨fun c q s h => ?_, fun s h => ?_⟩ <;> rw [step, h]

end Sys2Proof.Machine
end

section
/-! SUPPORT. Events (R364, R375, R376): what sending changes, what the mailbox holds of an event afterwards, and where the fields of a message
lie (R356, R358), with the statement of chapter 13 on them. -/

namespace Sys2Proof.Machine

/-! Fields of a string of bytes (R6). -/

theorem leNat_toLe (n x : Nat) : leNat (toLe n x) = x % 256 ^ n := by
  induction n generalizing x with
  | zero => simp [toLe, leNat, Nat.mod_one]
  | succ n ih =>
    simp only [toLe, leNat, ih, BitVec.toNat_ofNat]
    rw [show (2 : Nat) ^ 8 = 256 from rfl, Nat.pow_succ', Nat.mod_mul]

theorem slice_append_right (a l : Bytes) {off : Nat} (n : Nat) (h : a.length ≤ off) : slice (a ++ l) off n = slice l (off - a.length) n := by
  unfold slice
  rw [List.drop_append, List.drop_eq_nil_of_le h, List.nil_append]

theorem slice_append_left (a l : Bytes) {n : Nat} (h : a.length = n) : slice (a ++ l) 0 n = a := by
  unfold slice
  simp [← h]

/-- The field that a string starts with. -/
theorem leAt_toLe_append (n x : Nat) (l : Bytes) : leAt (toLe n x ++ l) 0 n = x % 256 ^ n := by
  rw [leAt, slice_append_left _ _ (toLe_length n x), leNat_toLe]

/-- A field behind another. -/
theorem leAt_append_toLe_left (m y : Nat) (l : Bytes) {off : Nat} (n : Nat) (h : m ≤ off) :
    leAt (toLe m y ++ l) off n = leAt l (off - m) n := by
  rw [leAt, slice_append_right _ _ _ (by rwa [toLe_length]), toLe_length, leAt]

/-- A field behind bytes that are given. -/
theorem leAt_append_zeros_left (m : Nat) (l : Bytes) {off : Nat} (n : Nat) (h : m ≤ off) : leAt (zeros m ++ l) off n = leAt l (off - m) n := by
  rw [leAt, slice_append_right _ _ _ (by rwa [zeros, List.length_replicate]), zeros, List.length_replicate, leAt]

theorem leAt_cons (b : Byte) (l : Bytes) {off : Nat} (n : Nat) (h : 1 ≤ off) : leAt (b :: l) off n = leAt l (off - 1) n := by
  rw [leAt, show b :: l = [b] ++ l from rfl, slice_append_right _ _ _ (by simpa using h), leAt]
  rfl

section
variable (e : EvMsg)

theorem payload_eq : e.payload = toLe 1 e.kind ++ (toLe 1 (if e.lost then 1 else 0) ++ (toLe 2 e.opcode ++ (toLe 4 e.reqSeq ++ (toLe 2 e.status ++
    (zeros 6 ++ (toLe 8 e.time ++ (toLe 8 e.object ++ e.body))))))) := by
  unfold EvMsg.payload
  simp only [List.append_assoc]

theorem payload_length : e.payload.length = 32 + e.body.length := by
  rw [payload_eq]
  simp only [List.length_append, toLe_length, zeros, List.length_replicate]
  omega

theorem payload_drop : e.payload.drop 0x20 = e.body := by
  rw [payload_eq]
  simp [List.drop_append, toLe_length, zeros, List.drop_eq_nil_of_le]

end

/-- A message starts with the fields of its head (Table 13-2). -/
theorem edMessage_eq (key payload : Bytes) (hflags op parcel seq status : Nat) : ∃ l, edMessage key hflags op parcel seq status payload =
    toLe 2 0x4544 ++ (1 :: (toLe 1 hflags ++ (toLe 2 op ++ (toLe 2 parcel ++ (toLe 4 seq ++ (toLe 4 payload.length ++ l)))))) := by
  unfold edMessage edHead
  simp only [List.append_assoc, List.cons_append, List.nil_append]
  exact ⟨_, rfl⟩

/-! Sending (R364, R376). -/

/-- Sending adds at most a message and notes the send on the event. -/
theorem transmit_eq_out (s : State) (p : Nat) (e : EvMsg) : ∃ o n a, s.transmit p e =
    ({ s with mail := { s.mail with out := o } }, { e with sends := n, nextAt := a }) := by
  unfold State.transmit
  split
  · exact ⟨_, _, _, rfl⟩
  · exact ⟨s.mail.out, e.sends, e.nextAt, rfl⟩

/-- To an address an event goes out at once. -/
theorem transmit_to {s : State} {p : Nat} {e : EvMsg} {key : Bytes} {a : NetAddr} (hk : (s.box p).key = some key) (hd : e.dest = some a) :
    (s.transmit p e).1.mail.out = s.mail.out ++ [⟨a, edMessage key 2 2 p e.num e.status e.payload⟩] := by
  unfold State.transmit
  rw [hk, hd]
  rfl

/-! Events (R375, R376). -/

section
variable (s : State) (p kind op seq status object : Nat) (body : Bytes) (dest : Option NetAddr)

theorem event_of_no_key (h : (s.box p).key = none) : s.event p kind op seq status object body dest = s := by
  unfold State.event
  dsimp only
  rw [h]

/-- The event as it is made: with the next number, and `LOST` where one was lost or the oldest goes for it. -/
def newEvent : EvMsg :=
  ⟨(s.box p).evNum + 1, kind, (s.box p).lost || decide (1024 ≤ (s.box p).unacked.length), op, seq, status, s.now, object, body, dest, 0, s.now⟩

/-- The mailbox that holds the event. -/
def boxWith (e : EvMsg) : Mailbox :=
  { s.box p with
    evNum := (s.box p).evNum + 1, lost := false,
    unacked := (if decide (1024 ≤ (s.box p).unacked.length) then (s.box p).unacked.drop 1 else (s.box p).unacked) ++ [e] }

/-- An event is sent, and its mailbox holds it as it was sent. -/
theorem event_of_key (h : (s.box p).key ≠ none) : ∃ o n a, (s.transmit p (newEvent s p kind op seq status object body dest)).1.mail.out = o ∧
    s.event p kind op seq status object body dest = ({ s with mail := { s.mail with out := o } } : State).setBox p
      (boxWith s p { newEvent s p kind op seq status object body dest with sends := n, nextAt := a }) := by
  obtain ⟨o, n, a, ht⟩ := transmit_eq_out s p (newEvent s p kind op seq status object body dest)
  obtain ⟨k, hk⟩ := Option.ne_none_iff_exists'.mp h
  refine ⟨o, n, a, by rw [ht], ?_⟩
  unfold newEvent at ht
  unfold State.event
  dsimp only at ht ⊢
  rw [hk]
  dsimp only
  rw [ht]
  rfl

end

/-- Settles O57: an event is sent and stands last in its mailbox, and the fields of its payload and of its head follow one another. -/
theorem eventsAreNumberedSentAndKept : Obligations.EventsAreNumberedSentAndKept := by
  unfold Obligations.EventsAreNumberedSentAndKept
  refine ⟨?_, ?_, ?_, ?_, ?_⟩
  case refine_1 =>
    intro s p kind op seq status object body dest
    exact event_of_no_key s p kind op seq status object body dest
  case refine_2 =>
    rintro s _ p kind op seq status object body dest hk rfl
    obtain ⟨o, n, a, -, he⟩ := event_of_key s p kind op seq status object body dest hk
    rw [he, State.setBox_box_at, if_pos rfl]
    refine ⟨rfl, rfl, fun hl => ?_, ⟨_, List.getLast?_concat, rfl, rfl, rfl, rfl, rfl, rfl, rfl, rfl, ?_⟩, fun q hq => ?_, rfl, rfl, rfl⟩
    · simp only [boxWith, List.length_append, List.length_singleton]
      split <;> simp only [List.length_drop, decide_eq_true_eq] at * <;> omega
    · simp only [newEvent, Bool.or_eq_true, decide_eq_true_eq]
    · rw [State.setBox_box_at, if_neg hq.symm]
      rfl
  case refine_3 =>
    intro s p kind op seq status object body key a hk
    obtain ⟨o, n, b, ho, he⟩ := event_of_key s p kind op seq status object body (some a) (by rw [hk]; exact Option.some_ne_none key)
    refine ⟨newEvent s p kind op seq status object body (some a), rfl, rfl, ?_⟩
    rw [he]
    show o = _
    rw [← ho, transmit_to hk rfl]
    rfl
  case refine_4 =>
    intro e
    refine ⟨payload_length e, ?_, ?_, ?_, ?_, ?_, ?_, payload_drop e⟩ <;> rw [payload_eq] <;>
      simp [leAt_append_toLe_left, leAt_append_zeros_left, leAt_toLe_append]
  case refine_5 =>
    intro key payload op parcel seq status
    obtain ⟨l, hl⟩ := edMessage_eq key payload 2 op parcel seq status
    rw [hl]
    simp [leAt_append_toLe_left, leAt_cons, leAt_toLe_append]

end Sys2Proof.Machine
end

section
/-! SUPPORT. What the commands of the interrupt controller, the policy modules, the field book, the store, power sensing, the ports and the
register file leave alone (R9, R415, R417, R431, R440, R452, R454), with the statement on them. -/

namespace Sys2Proof.Machine

/-- What a management command leaves: memory, the tokens on the links, the registry and the queue. -/
def State.unmanaged (s : State) : Mem × List Flight × SMap Model × List Instr := (s.mem, s.flights, s.models, s.pending)

/-- Memory, the tokens on the links, the registry and the queue are the same. -/
def SameMemory (s t : State) : Prop := t.unmanaged = s.unmanaged

theorem SameMemory.refl (s : State) : SameMemory s s := rfl

theorem SameMemory.trans {s t u : State} (h : SameMemory s t) (k : SameMemory t u) : SameMemory s u := Eq.trans k h

/-- The same memory, tokens, registry and queue, one by one. -/
theorem SameMemory.each {s t : State} (h : SameMemory s t) :
    t.mem = s.mem ∧ t.flights = s.flights ∧ t.models = s.models ∧ t.pending = s.pending := by
  obtain ⟨hmem, htok⟩ := Prod.ext_iff.mp h
  obtain ⟨hfl, hreg⟩ := Prod.ext_iff.mp htok
  obtain ⟨hmod, hpend⟩ := Prod.ext_iff.mp hreg
  exact ⟨hmem, hfl, hmod, hpend⟩

theorem SameMemory.foldl {α : Type} {f : State → α → State} (hf : ∀ t x, SameMemory t (f t x)) (l : List α) (s : State) :
    SameMemory s (l.foldl f s) := by
  induction l generalizing s with
  | nil => exact .refl s
  | cons x l ih => exact (hf s x).trans (ih (f s x))

theorem SameMemory.ite {c : Prop} [Decidable c] {s a b : State} (ha : SameMemory s a) (hb : SameMemory s b) : SameMemory s (if c then a else b) := by
  split
  · exact ha
  · exact hb

/-- The same for a choice of a value and a state. -/
theorem SameMemory.iteSnd {α : Type} {c : Prop} [Decidable c] {s : State} {a b : α × State} (ha : SameMemory s a.2) (hb : SameMemory s b.2) :
    SameMemory s (if c then a else b).2 := by
  split
  · exact ha
  · exact hb

namespace SameMemory

/-! Records, events and signals. -/

section
variable {s : State}

theorem event (p kind op seq status object : Nat) (body : Bytes) (dest : Option NetAddr) :
    SameMemory s (s.event p kind op seq status object body dest) := by
  obtain ⟨m, h⟩ := s.event_eq p kind op seq status object body dest
  rw [h]
  exact rfl

theorem complete (w : Waiter) (status : Nat) (body : Bytes) : SameMemory s (s.complete w status body) := event ..

theorem post (dr : Bool) (src code status parcel unit : Nat) (detail : BitVec 64) :
    SameMemory s (s.post dr src code status parcel unit detail) := by
  obtain ⟨m, b, h⟩ := s.post_eq dr src code status parcel unit detail
  rw [h]
  exact rfl

theorem postPower (dr : Bool) (code status unit detail : Nat) : SameMemory s (s.postPower dr code status unit detail) := post ..

theorem updPower (f : Power → Power) : SameMemory s (s.updPower f) := rfl

theorem pwrEvent (i : Nat) : SameMemory s (s.pwrEvent i) := rfl

/-- A field of the power unit, a record and an event of it. -/
theorem powerAlarm (f : Power → Power) (dr : Bool) (code status unit detail i : Nat) :
    SameMemory s (((s.updPower f).postPower dr code status unit detail).pwrEvent i) :=
  (updPower f).trans ((postPower ..).trans (pwrEvent i))

theorem setValid (v : Bool) : SameMemory s (s.setValid v) := by
  unfold State.setValid
  split
  · exact .refl s
  · exact (show SameMemory s { s with time := _, book := _ } from rfl).trans (post ..)

/-! The interrupt controller and the cores. -/

theorem take (x : CoreIn) : SameMemory s (s.take x) := by
  unfold State.take
  dsimp only
  split
  · exact .refl s
  · split <;> exact rfl

theorem pendWrite (w : Fin 4) (v events : BitVec 64) (taker : Option CoreIn) {t : State} (h : exec (.hicPendWrite w v events taker) s = .next t) :
    SameMemory s t := by
  cases h
  cases taker with
  | none => exact rfl
  | some x => exact (take x).trans rfl

theorem startCore (c b : Nat) : SameMemory s (s.startCore c b) := rfl

theorem signal (n : Nat) : SameMemory s (s.signal n) := rfl

theorem updCore (c : Nat) (f : HgCore → HgCore) : SameMemory s (s.updCore c f) := rfl

theorem assignDuties (l : List Nat) : SameMemory s (s.assignDuties l) := .foldl (fun _ c => updCore c _) _ s

theorem updSec (f : Sec → Sec) : SameMemory s (s.updSec f) := rfl

theorem secEvent (i : Nat) : SameMemory s (s.secEvent i) := rfl

theorem moveDuties (c : Nat) : SameMemory s (s.moveDuties c) := by
  unfold State.moveDuties
  split <;> exact rfl

theorem heartbeatTimeout (c : Fin 4) (n : Nat) {t : State} (h : exec (.heartbeatTimeout c n) s = .next t) : SameMemory s t := by
  cases h
  refine .ite rfl (.ite (.trans ?_ (moveDuties _)) ?_) <;>
    exact (post (s := s.at' n) ..).trans rfl

/-! Policy modules. -/

theorem polInvoke (i entry arg : Nat) : SameMemory s (s.polInvoke i entry arg) := by
  unfold State.polInvoke
  split
  · exact .refl s
  · exact .ite (.refl s) (.ite rfl (.ite rfl rfl))

theorem polCall (i : Nat) (act : Policy → State × Nat) (ha : ∀ p, SameMemory s (act p).1) : SameMemory s (s.polCall i act) := by
  unfold State.polCall
  split
  · exact .refl s
  next p hp =>
    refine .ite (.refl s) ?_
    dsimp only
    split
    · exact ha p
    · exact (ha p).trans rfl

theorem polCopy (i a : Nat) (l : Bytes) : SameMemory s (s.polCopy i a l).1 := by
  unfold State.polCopy
  split
  · exact .refl s
  · split <;> exact rfl

theorem parcelWord (p o : Nat) : SameMemory s (State.parcelWord p s o).2 := by
  unfold State.parcelWord
  dsimp only
  split
  case h_6 | h_7 | h_8 => split <;> exact rfl
  all_goals exact rfl

theorem readWords {f : State → Nat → Nat × State} (hf : ∀ t o, SameMemory t (f t o).2) (n o : Nat) : SameMemory s (readWords f n o s).2 := by
  induction n generalizing s o with
  | zero => exact .refl s
  | succ n ih => exact (hf s o).trans (ih (o + 8))

theorem resumePolicy (i : Nat) : SameMemory s (s.resumePolicy i) := by
  unfold State.resumePolicy
  split
  · exact .ite rfl (.refl s)
  · exact .refl s

theorem policyBudgetOverrun (i : Fin 4) {t : State} (h : exec (.policyBudgetOverrun i) s = .next t) : SameMemory s t := by
  cases h
  split
  · exact .refl s
  · exact .ite (.refl s) (post (s := s.setPolicy i.val none) ..)

theorem polPreempt (i : Fin 4) (m : BitVec 64) {t : State} (h : exec (.polPreempt i m) s = .next t) : SameMemory s t := by
  cases h
  refine polCall _ _ fun p => ?_
  split
  · exact .refl s
  · split <;> exact rfl

theorem polWeight (i : Fin 4) (a r w : BitVec 64) {t : State} (h : exec (.polWeight i a r w) s = .next t) : SameMemory s t := by
  cases h
  refine polCall _ _ fun p => ?_
  dsimp only
  split
  · exact post (s := s.updArb _ _) ..
  · exact .refl s

theorem polCounters (i : Fin 4) (a : BitVec 64) {t : State} (h : exec (.polCounters i a) s = .next t) : SameMemory s t := by
  cases h
  refine polCall _ _ fun p => ?_
  dsimp only
  split
  · exact .refl s
  · exact (readWords (fun t o => parcelWord (s := t) _ o) _ _).trans (polCopy ..)

/-! The log and the store. -/

theorem storeCommitComplete (ok : Bool) (n : Nat) {t : State} (h : exec (.storeCommitComplete ok n) s = .next t) : SameMemory s t := by
  cases h
  split
  · exact rfl
  · refine .ite (post (s := s.at' n) ..) (.ite ?_ rfl)
    exact .trans rfl (.foldl (fun _ w => complete w _ _) _ _)

/-! Power, temperature and the clocks. -/

theorem powerCapTick (vm im va av : BitVec 16) (n : Nat) {t : State} (h : exec (.powerCapTick vm im va av n) s = .next t) : SameMemory s t := by
  cases h
  exact .ite rfl (.ite (.trans rfl (powerAlarm ..)) rfl)

theorem coolStep (q temp unit : Nat) : SameMemory s (s.coolStep q temp unit) := by
  unfold State.coolStep
  refine (updPower _).trans (.ite (.refl _) (.trans (t := State.updPower _ _) (updPower _) (.ite ?_ (.refl _))))
  exact (postPower ..).trans (pwrEvent _)

theorem warmStep (q temp unit : Nat) : SameMemory s (s.warmStep q temp unit) := by
  unfold State.warmStep
  exact .ite (.trans rfl (postPower ..)) rfl

theorem thermQuad (x : Samples) (q : Nat) : SameMemory s (s.thermQuad x q) := by
  unfold State.thermQuad
  exact .ite (.ite (coolStep ..) (.refl s)) (.ite (.ite rfl (.ite (warmStep ..) (.refl s))) rfl)

theorem thermalSample (x : Samples) (n : Nat) {t : State} (h : exec (.thermalSample x n) s = .next t) : SameMemory s t := by
  cases h
  exact .ite rfl (.trans rfl (.foldl (fun _ q => thermQuad x q) _ _))

theorem frequencyChange (q : Fin 4) (n : Nat) {t : State} (h : exec (.frequencyChange q n) s = .next t) : SameMemory s t := by
  cases h
  refine .ite rfl (.trans (t := s.at' n) rfl (.foldl (fun u k => ?_) _ _))
  split
  · exact updPower _
  · exact .refl u

theorem brownoutEnter (mv : BitVec 16) (n : Nat) {t : State} (h : exec (.brownoutEnter mv n) s = .next t) : SameMemory s t := by
  cases h
  exact .ite rfl (.trans (t := s.at' n) rfl (powerAlarm ..))

theorem brownoutRelease (mv : BitVec 16) (n : Nat) {t : State} (h : exec (.brownoutRelease mv n) s = .next t) : SameMemory s t := by
  cases h
  exact .ite rfl (.trans rfl (postPower ..))

/-! Registers (R9, R412). -/

/-- Memory changes with a cistern only where a cell comes free (R479). -/
theorem updCist (q : Nat) (f : Cistern → Cistern) (hf : (f (s.cistern q)).freed = (s.cistern q).freed) : SameMemory s (s.updCist q f) := by
  have hmem : (s.updCist q f).mem = s.mem := by
    unfold State.updCist
    dsimp only
    rw [hf, List.filter_eq_nil_iff.mpr fun x hx => by simpa using hx]
    rfl
  exact congrArg (fun m => (m, s.flights, s.models, s.pending)) hmem

theorem reg_freed (c : Cistern) (o : Nat) : (c.reg o).2.freed = c.freed := by
  unfold Cistern.reg
  split
  · rfl
  split
  · rfl
  · split <;> rfl

theorem readBlock (b o : Nat) : SameMemory s (s.readBlock b o).2 := by
  unfold State.readBlock
  split <;> exact rfl

theorem setTile (g : Nat) (x : Tile) : SameMemory s (s.setTile g x) := rfl
theorem updPlotRegs (b : Nat) (f : PlotRegs → PlotRegs) : SameMemory s (s.updPlotRegs b f) := rfl
theorem updEngine (e : Nat) (f : Engine → Engine) : SameMemory s (s.updEngine e f) := rfl
theorem updQuad (q : Nat) (f : QuadMem → QuadMem) : SameMemory s (s.updQuad q f) := rfl
theorem updArb (a : Nat) (f : Arb → Arb) : SameMemory s (s.updArb a f) := rfl
theorem updLe (e : Nat) (f : Lateral → Lateral) : SameMemory s (s.updLe e f) := rfl
theorem updGe (g : Nat) (f : GatherEng → GatherEng) : SameMemory s (s.updGe g f) := rfl
theorem updTableEnt (k : Nat) (f : TableEnt → TableEnt) : SameMemory s (s.updTableEnt k f) := rfl
theorem updFport (i : Nat) (f : FabPort → FabPort) : SameMemory s (s.updFport i f) := rfl

/-- A change of fields beside them. -/
theorem upd {s : State} {a2 a3 a4 a6 a7 a8 a10 a11 a12 a13 a14 a15 a16 a17 a18 a19 a21 a22 a23 a24 a25 a26 a27 a28 a29 a30} :
    SameMemory s ⟨s.pending, a2, a3, a4, s.mem, a6, a7, a8, s.flights, a10, a11, a12, a13, a14, a15, a16, a17, a18, a19, s.models, a21, a22,
      a23, a24, a25, a26, a27, a28, a29, a30⟩ := rfl

theorem readReg (o : Nat) : SameMemory s (s.readReg o).2 := by
  unfold State.readReg
  refine iteSnd (.refl s) (iteSnd (setTile ..) (iteSnd (readBlock ..) (iteSnd (updEngine ..) (iteSnd (updQuad ..)
    (iteSnd (iteSnd (.refl s) (iteSnd (updPlotRegs ..) (updPlotRegs ..))) (iteSnd (updArb ..) (iteSnd (updCist _ _ (reg_freed ..)) ?_)))))))
  exact iteSnd (updLe ..) (iteSnd (updGe ..) (iteSnd (.refl s) (iteSnd (updTableEnt ..) (iteSnd upd (iteSnd upd (iteSnd upd (iteSnd upd
    (iteSnd (updFport ..) (iteSnd upd (.refl s))))))))))

theorem updTile (g : Nat) (f : Tile → Tile) : SameMemory s (s.updTile g f) := setTile ..

theorem errorRecordClear (off : BitVec 32) (v : BitVec 64) {t : State} (h : exec (.errorRecordClear off v) s = .next t) : SameMemory s t := by
  cases h
  exact .ite (.refl s) (.ite (updTile ..) (.ite (updTile ..) (.ite (updPlotRegs ..) (.ite (updEngine ..) (.ite (updArb ..)
    (.ite (updCist _ _ rfl) (.ite (updLe ..) (.ite (updGe ..) (.ite upd (.ite upd (.ite (updFport ..) (.refl s))))))))))))

theorem serveEngine (e : Nat) : SameMemory s (s.serveEngine e) := by
  obtain ⟨x, h⟩ := State.slServe_eq e 33 s
  unfold State.serveEngine
  rw [h]
  exact upd

theorem registerWrite (off : BitVec 32) (v : BitVec 64) {t : State} (h : exec (.registerWrite off v) s = .next t) : SameMemory s t := by
  cases h
  exact .ite (.refl s) (.ite (updTile ..) (.ite (.ite ((updEngine ..).trans (serveEngine _)) (updEngine ..)) (.ite (updArb ..)
    (.ite (.ite (.refl s) (updCist _ _ rfl)) (.ite (updLe ..) (.ite (.ite (.refl s) (updTableEnt ..)) (.ite upd (.ite upd (.ite upd
    (.ite upd (.refl s)))))))))))

/-! Ports, events and the security block. -/

theorem eventResend (p : Fin 513) (num : BitVec 32) (n : Nat) {t : State} (h : exec (.eventResend p num n) s = .next t) : SameMemory s t := by
  cases h
  split
  · exact rfl
  next e he =>
    obtain ⟨m, hm⟩ := (s.at' n).transmit_eq p.val e
    exact .ite rfl (.trans (t := ((s.at' n).transmit p.val e).1) (by rw [hm]; exact rfl) rfl)

theorem signatureComplete (n : Nat) {t : State} (h : exec (.signatureComplete n) s = .next t) : SameMemory s t := by
  cases h
  split
  · exact rfl
  · dsimp only
    split <;> exact rfl

theorem activationUndo (n : Nat) {t : State} (h : exec (.activationUndo n) s = .next t) : SameMemory s t := by
  cases h
  split
  · exact rfl
  next a ha =>
    have hc : SameMemory s ((a.core :: a.switched.reverse).foldl (fun (s : State) c => s.startCore c s.sec.bank) (s.at' n)) :=
      .trans (t := s.at' n) rfl (.foldl (fun _ _ => startCore _ _) _ _)
    exact hc.trans ((updSec _).trans ((assignDuties _).trans ((secEvent 2).trans ((post ..).trans ((event ..).trans (resumePolicy _))))))

theorem holdoverExpire (n : Nat) {t : State} (h : exec (.holdoverExpire n) s = .next t) : SameMemory s t := by
  cases h
  exact .ite (.trans rfl (setValid _)) rfl

end

end SameMemory

theorem policyStarve_sameMemory (i : Fin 4) (a : Fin 112) (s : State) : ∀ t, exec (.policyStarve i a) s = .next t → SameMemory s t := by
  rintro _ ⟨⟩
  split
  · exact .ite (.polInvoke ..) (.refl s)
  · exact .refl s

theorem policyStep_sameMemory (i : Fin 4) (b : Fin 64) (s : State) : ∀ t, exec (.policyStep i b) s = .next t → SameMemory s t := by
  rintro _ ⟨⟩
  split
  · exact .ite (.polInvoke ..) (.refl s)
  · exact .refl s

/-- A command that reaches no memory leaves it, the tokens, the registry and the queue. -/
def framesMemory (c : Instr) : Prop := leavesMemory c = true → ∀ s t, exec c s = .next t → SameMemory s t

theorem framesMemory_of_reaches {c : Instr} (h : leavesMemory c = false) : framesMemory c :=
  fun hc => absurd (h.symm.trans hc) Bool.false_ne_true

theorem exec_sameMemory (c : Instr) : framesMemory c := by
  cases c
  all_goals try exact framesMemory_of_reaches rfl
  all_goals rintro - s t h
  case hicTake x => cases h; exact .take x
  case hicPendWrite w v e k => exact .pendWrite w v e k h
  case heartbeatTimeout c n => exact .heartbeatTimeout c n h
  case fieldbookEventPost => cases h; exact (SameMemory.post (s := s.at' _) ..)
  case storeCommitComplete ok n => exact .storeCommitComplete ok n h
  case policyTick => cases h; exact (SameMemory.polInvoke (s := s.at' _) ..)
  case policyStarve i a => exact policyStarve_sameMemory i a s t h
  case policyStep i b => exact policyStep_sameMemory i b s t h
  case policyBudgetOverrun i => exact .policyBudgetOverrun i h
  case polCounters i a => exact .polCounters i a h
  case polPlots => cases h; exact .polCall _ _ fun p => .polCopy ..
  case polShare => cases h; exact .polCall _ _ fun p => rfl
  case polPreempt i m => exact .polPreempt i m h
  case polWeight i a r w => exact .polWeight i a r w h
  case polDone => cases h; exact .polCall _ _ fun p => rfl
  case powerCapTick vm im va av n => exact .powerCapTick vm im va av n h
  case thermalSample x n => exact .thermalSample x n h
  case frequencyChange q n => exact .frequencyChange q n h
  case brownoutEnter mv n => exact .brownoutEnter mv n h
  case brownoutRelease mv n => exact .brownoutRelease mv n h
  case errorRecordClear off v => exact .errorRecordClear off v h
  case counterReadClear => cases h; exact .ite (.readReg _) (.refl s)
  case registerWrite off v => exact .registerWrite off v h
  case eventResend p num n => exact .eventResend p num n h
  case signatureComplete n => exact .signatureComplete n h
  case activationUndo n => exact .activationUndo n h
  case holdoverExpire n => exact .holdoverExpire n h
  case hicSwi v => cases h; exact .foldl (fun u i => .ite (c := v.getLsbD i = true) (.signal i) (.refl u)) _ _
  case auxiliaryInputReturn | i3cMctpMessage => cases h; exact rfl
  all_goals cases h; exact .ite rfl rfl

/-- Settles O60: each of the 38 commands changes parts of the state beside memory, tokens, registry and queue. -/
theorem managementLeavesMemoryAndTokens : Obligations.ManagementLeavesMemoryAndTokens :=
  fun c s t hc h => (exec_sameMemory c hc s t h).each

end Sys2Proof.Machine
end

section
/-! SUPPORT. The interrupt controller (R417 to R424) and the heartbeats of the cores (R426, R429): which source a core is offered, what a take, an
end and a write of pending bits leave, and how a core starts again, with the statement of chapter 15 on them. -/

namespace Sys2Proof.Machine

/-! The offer (R419, R420, R422). -/

/-- The better of a source already picked and a further one: the larger priority, and the one picked where they are equal. -/
def pickHigher (prio : Nat → Nat) (best : Option Nat) (n : Nat) : Option Nat :=
  match best with
  | none => some n
  | some b => if prio b < prio n then some n else some b

section
variable {h : Hic} {c n : Nat}

theorem offer_eq : h.offer c = if 16 ≤ (h.of c).length then none
    else ((List.range 256).filter (h.eligible c)).foldl (pickHigher (SMap.get 0 h.prio)) none := rfl

/-- From a source on, a rising list picks one of the greatest priority, the lowest-numbered of those. -/
theorem foldl_pickHigher (prio : Nat → Nat) (l : List Nat) (b : Nat) (hl : (b :: l).Pairwise (· < ·)) :
    ∃ n, l.foldl (pickHigher prio) (some b) = some n ∧ n ∈ b :: l ∧ ∀ m, m ∈ b :: l → prio m < prio n ∨ (prio m = prio n ∧ n ≤ m) := by
  induction l generalizing b with
  | nil => exact ⟨b, rfl, List.mem_singleton_self b, fun m hm => .inr ⟨by rw [List.mem_singleton.mp hm], (List.mem_singleton.mp hm).ge⟩⟩
  | cons x l ih =>
    obtain ⟨hb, hx⟩ := List.pairwise_cons.mp hl
    have hbx : b < x := hb x List.mem_cons_self
    by_cases hp : prio b < prio x
    · obtain ⟨n, hn, hmem, hbest⟩ := ih x hx
      refine ⟨n, by rw [List.foldl_cons, pickHigher, if_pos hp, hn], List.mem_cons_of_mem _ hmem, fun m hm => ?_⟩
      obtain rfl | hm := List.mem_cons.mp hm
      · exact .inl ((hbest x List.mem_cons_self).elim hp.trans fun h => h.1 ▸ hp)
      · exact hbest m hm
    · obtain ⟨n, hn, hmem, hbest⟩ := ih b (List.pairwise_cons.mpr ⟨fun y hy => hb y (List.mem_cons_of_mem _ hy), hx.of_cons⟩)
      have hbn := hbest b List.mem_cons_self
      refine ⟨n, by rw [List.foldl_cons, pickHigher, if_neg hp, hn], ?_, fun m hm => ?_⟩
      · obtain rfl | hmem := List.mem_cons.mp hmem
        · exact List.mem_cons_self
        · exact List.mem_cons_of_mem _ (List.mem_cons_of_mem _ hmem)
      · obtain rfl | hm := List.mem_cons.mp hm
        · exact hbn
        obtain rfl | hm := List.mem_cons.mp hm
        · have hle := Nat.not_lt.mp hp
          obtain h | ⟨h, hn⟩ := hbn
          · exact .inl (hle.trans_lt h)
          · exact (Nat.lt_or_eq_of_le (hle.trans_eq h)).imp_right fun e => ⟨e, hn.trans hbx.le⟩
        · exact hbest m (List.mem_cons_of_mem _ hm)

theorem eligibles_rising : ((List.range 256).filter (h.eligible c)).Pairwise (· < ·) := List.pairwise_lt_range.sublist List.filter_sublist

theorem mem_eligibles {m : Nat} : m ∈ (List.range 256).filter (h.eligible c) ↔ m < 256 ∧ h.eligible c m = true := by
  rw [List.mem_filter, List.mem_range]

theorem offer_some (ho : h.offer c = some n) : n < 256 ∧ h.eligible c n = true ∧ (h.of c).length < 16 ∧
    ∀ m, m < 256 → h.eligible c m = true → SMap.get 0 h.prio m < SMap.get 0 h.prio n ∨ (SMap.get 0 h.prio m = SMap.get 0 h.prio n ∧ n ≤ m) := by
  rw [offer_eq] at ho
  split at ho
  · cases ho
  next hl =>
    cases hf : (List.range 256).filter (h.eligible c) with
    | nil => rw [hf] at ho; cases ho
    | cons b l =>
      obtain ⟨k, hk, hmem, hbest⟩ := foldl_pickHigher (SMap.get 0 h.prio) l b (hf ▸ eligibles_rising)
      rw [hf] at ho
      cases hk.symm.trans ho
      rw [← hf] at hmem hbest
      exact ⟨(mem_eligibles.mp hmem).1, (mem_eligibles.mp hmem).2, Nat.not_le.mp hl, fun m hm he => hbest m (mem_eligibles.mpr ⟨hm, he⟩)⟩

theorem offer_none (ho : h.offer c = none) : 16 ≤ (h.of c).length ∨ ∀ m, m < 256 → h.eligible c m = false := by
  rw [offer_eq] at ho
  split at ho
  next hl => exact .inl hl
  · refine .inr fun m hm => ?_
    cases hf : (List.range 256).filter (h.eligible c) with
    | nil => exact Bool.eq_false_iff.mpr (List.filter_eq_nil_iff.mp hf m (List.mem_range.mpr hm))
    | cons b l =>
      obtain ⟨k, hk, -, -⟩ := foldl_pickHigher (SMap.get 0 h.prio) l b (hf ▸ eligibles_rising)
      rw [hf] at ho
      cases hk.symm.trans ho

theorem foldl_max_lt (l : List Nat) (a k : Nat) : l.foldl max a < k ↔ a < k ∧ ∀ x, x ∈ l → x < k := by
  induction l generalizing a with
  | nil => simp
  | cons x l ih => rw [List.foldl_cons, ih, max_lt_iff, List.forall_mem_cons, and_assoc]

/-- A group lies above the running one when it lies above every group that runs (R419). -/
theorem running_lt (g : Nat) : h.running c < g + 1 ↔ ∀ a, a ∈ h.of c → h.group a.prio < g := by
  unfold Hic.running
  rw [foldl_max_lt, List.forall_mem_map]
  simp only [Nat.zero_lt_succ, true_and, Nat.add_lt_add_iff_right]

theorem eligible_iff : h.eligible c n = true ↔ (h.pend.getLsbD n = true ∧ h.en.getLsbD n = true ∧ SMap.get 0 h.target n = c ∧
    SMap.get 0 h.thresh c < SMap.get 0 h.prio n ∧ SMap.get 0 h.prio n ≠ 0 ∧ h.enable = true ∧
    ∀ a, a ∈ h.of c → h.group a.prio < h.group (SMap.get 0 h.prio n)) := by
  unfold Hic.eligible
  simp only [Bool.and_eq_true, decide_eq_true_eq, running_lt]
  tauto

end

/-! Takes, ends and writes of pending bits (R417, R420, R421, R424). -/

theorem swi_pend (v : BitVec 4) (s : State) {n : Nat} (hn : n < 256) (l : List Nat) :
    (l.foldl (fun (s : State) c => if v.getLsbD c then s.signal c else s) s).hic.pend.getLsbD n =
      (s.hic.pend.getLsbD n || (decide (n ∈ l) && v.getLsbD n)) := by
  induction l generalizing s with
  | nil => simp
  | cons x l ih =>
    rw [List.foldl_cons, ih]
    by_cases hx : v.getLsbD x = true
    · rw [if_pos hx, signal_pend s hn, Bool.or_assoc]
      by_cases hxn : x = n
      · subst hxn
        simp [hx]
      · simp [hxn, Ne.symm hxn]
    · rw [if_neg hx]
      by_cases hxn : n = x
      · subst hxn
        simp [hx]
      · simp [hxn]

/-- What a take of source `n` leaves (R420). -/
theorem take_of_offer {s : State} {x : CoreIn} {n : Nat} (hr : (s.core x.core.val).running = true) (hh : (s.core x.core.val).held = false)
    (hi : x.mie = true) (he : x.meie = true) (ho : s.hic.offer x.core.val = some n) :
    s.take x = ({ s with hic := { s.hic with
      pend := s.hic.pend &&& ~~~(BitVec.ofNat 256 (2 ^ n))
      active := s.hic.active ++ [⟨x.core.val, n, SMap.get 0 s.hic.prio n⟩]
      takeCnt := SMap.upd 0 s.hic.takeCnt x.core.val (fun x => satAdd 48 x 1) } } : State).updCore x.core.val (fun k => { k with
        mepc := x.pc, mcause := extCause, mpie := x.mie, mie := false, meie := x.meie
        pc := BitVec.ofNat 64 (SMap.get 0 s.hic.vbase x.core.val + 64 * n) }) := by
  unfold State.take
  simp only [hr, hh, hi, he, ho]
  rfl

theorem take_of_stopped {s : State} {x : CoreIn} (h : ((s.core x.core.val).running && !(s.core x.core.val).held && x.mie && x.meie) = false) :
    s.take x = s := by
  unfold State.take
  dsimp only
  rw [h]
  rfl

/-- A word of 64 bits written over a quarter of the pending bits. -/
theorem pendWrite_pend (w : Fin 4) (v : BitVec 64) (p : BitVec 256) {n : Nat} (hn : n < 256) :
    ((p &&& ~~~(BitVec.ofNat 256 ((2 ^ 64 - 1) * 2 ^ (64 * w.val)))) ||| BitVec.ofNat 256 (v.toNat * 2 ^ (64 * w.val))).getLsbD n =
      if n / 64 = w.val then v.getLsbD (n % 64) else p.getLsbD n := by
  rw [BitVec.getLsbD_or, BitVec.getLsbD_and, BitVec.getLsbD_not, BitVec.getLsbD_ofNat, BitVec.getLsbD_ofNat, Nat.testBit_mul_two_pow,
    Nat.testBit_mul_two_pow, Nat.testBit_two_pow_sub_one, BitVec.testBit_toNat]
  by_cases hw : n / 64 = w.val
  · have hd : 64 * w.val + n % 64 = n := hw ▸ Nat.div_add_mod n 64
    have e : n - 64 * w.val = n % 64 := Nat.sub_eq_of_eq_add' hd.symm
    have hle : 64 * w.val ≤ n := Nat.le.intro hd
    simp only [hw, e, hn, hle, Nat.mod_lt n (show 0 < 64 by decide), decide_true, Bool.true_and, if_true]
    simp
  · rw [if_neg hw]
    by_cases hlo : 64 * w.val ≤ n
    · have hdiv {x : Nat} : x ≤ n / 64 ↔ 64 * x ≤ n := by rw [Nat.le_div_iff_mul_le (by decide), Nat.mul_comm]
      have hlt : w.val < n / 64 := Nat.lt_of_le_of_ne (hdiv.mpr hlo) (Ne.symm hw)
      have hge : ¬ n - 64 * w.val < 64 := Nat.not_lt.mpr (Nat.le_sub_of_add_le' (hdiv.mp hlt))
      rw [BitVec.getLsbD_of_ge v _ (Nat.not_lt.mp hge)]
      simp [hlo, hn, hge]
    · simp [hlo, hn]

/-! Heartbeats (R429). -/

section
variable (core : Fin 4) (t : Nat) (s : State)

/-- The resets of a core in the last 10 s. -/
def recentResets : List Nat := (s.core core.val).resets.filter (fun x => decide ((s.at' t).now < x + 10000000000))

/-- Whether another core runs. -/
def otherRuns : Bool := ([0, 1, 2, 3] : List Nat).any (fun x => x != core.val && (s.core x).running && !(s.core x).held)

/-- Whether this reset is the third in 10 s, and another core runs. -/
def holdsCore : Bool := decide (3 ≤ (recentResets core t s ++ [(s.at' t).now]).length) && otherRuns core s

/-- The module after the reset of a core, before its duties move. -/
def restarted : State :=
  let b := holdsCore core t s
  (((s.at' t).post true 0x0A (if b then 2 else 1) 0 0xFFFF core.val (if b then 1 else 0)).resetCore core.val).updCore core.val (fun k =>
    { k with resets := recentResets core t s ++ [(s.at' t).now], held := b })

theorem heartbeat_reset (hw : s.watched core.val = true) (hb : (s.core core.val).heartbeat + 100000000 ≤ (s.at' t).now) :
    exec (.heartbeatTimeout core t) s =
      .next (if holdsCore core t s then (restarted core t s).moveDuties core.val else restarted core t s) := by
  have h : ¬ ((!(s.at' t).watched core.val) = true ∨ (s.at' t).now < ((s.at' t).core core.val).heartbeat + 100000000) := by
    rw [show (s.at' t).watched core.val = true from hw]
    exact not_or.mpr ⟨Bool.false_ne_true, Nat.not_lt.mpr hb⟩
  have e : holdsCore core t s = (decide (3 ≤ (recentResets core t s ++ [(s.at' t).now]).length) && !!(otherRuns core s)) := by
    rw [Bool.not_not]
    rfl
  unfold restarted
  rw [e]
  exact congrArg Host.Outcome.next (if_neg h)

theorem heartbeat_early (h : (s.at' t).now < (s.core core.val).heartbeat + 100000000) : exec (.heartbeatTimeout core t) s = .next (s.at' t) :=
  congrArg Host.Outcome.next (if_pos (.inr h))

theorem heartbeat_unwatched (h : s.watched core.val = false) : exec (.heartbeatTimeout core t) s = .next (s.at' t) := by
  refine congrArg Host.Outcome.next (if_pos (.inl ?_))
  rw [show (s.at' t).watched core.val = false from h]
  rfl

/-- A core that starts again: its interrupts are off, its address is 0 and its heartbeat is new; its duties stay. -/
theorem restarted_core : (restarted core t s).core core.val = { s.core core.val with
    mie := false, meie := false, mpie := false, pc := 0, heartbeat := (s.at' t).now,
    resets := recentResets core t s ++ [(s.at' t).now], held := holdsCore core t s } := by
  unfold restarted State.resetCore
  dsimp only
  obtain ⟨m, b, h⟩ := (s.at' t).post_eq true 0x0A (if holdsCore core t s then 2 else 1) 0 0xFFFF core.val (if holdsCore core t s then 1 else 0)
  rw [h, State.updCore_core_at, if_pos rfl, State.updCore_core_at, if_pos rfl]
  rfl

theorem restarted_core_other {c : Nat} (hc : c ≠ core.val) : (restarted core t s).core c = s.core c := by
  unfold restarted State.resetCore
  dsimp only
  obtain ⟨m, b, h⟩ := (s.at' t).post_eq true 0x0A (if holdsCore core t s then 2 else 1) 0 0xFFFF core.val (if holdsCore core t s then 1 else 0)
  rw [h, State.updCore_core_at, if_neg hc.symm, State.updCore_core_at, if_neg hc.symm]
  rfl

theorem restarted_active : ∀ a, a ∈ (restarted core t s).hic.active → a.core ≠ core.val := by
  intro a ha
  have := (List.mem_filter.mp (show a ∈ List.filter (fun a => a.core != core.val) _ from ha)).2
  simpa using this

/-- A record takes the next number. -/
theorem post_next (s : State) (dr : Bool) (src code status parcel unit : Nat) (detail : BitVec 64) :
    (s.post dr src code status parcel unit detail).book.next = s.book.next + 1 := by
  unfold State.post
  dsimp only
  split
  · rfl
  · obtain ⟨m, h⟩ := State.event_eq { s with book := _ } 0 4 0 0 status unit (toLe 4 s.book.next) none
    rw [h]

theorem restarted_book : (restarted core t s).book.next = s.book.next + 1 := post_next (s.at' t) ..

/-- Moving the duties of a core changes cores only, and of that core only the duties, where another runs. -/
theorem mem_cores_iff {c : Nat} : c ∈ ([0, 1, 2, 3] : List Nat) ↔ c < 4 := (List.mem_range : c ∈ List.range 4 ↔ c < 4)

theorem moveDuties_of_other {s : State} {c x : Nat} (hx : x < 4) (hc : x ≠ c) (hr : (s.core x).running = true) (hh : (s.core x).held = false) :
    (s.moveDuties c).core c = { s.core c with duties := 0 } ∧ (s.moveDuties c).hic = s.hic ∧ (s.moveDuties c).book = s.book := by
  unfold State.moveDuties
  split
  next hn =>
    have := List.find?_eq_none.mp hn x (mem_cores_iff.mpr hx)
    simp [hc, hr, hh] at this
  next y hy =>
    have hyc : y ≠ c := by
      have := List.find?_some hy
      simp only [Bool.and_eq_true, bne_iff_ne] at this
      exact this.1.1
    refine ⟨?_, rfl, rfl⟩
    rw [State.updCore_core_at, if_pos rfl, State.updCore_core_at, if_neg hyc]

theorem otherRuns_iff : otherRuns core s = true ↔ ∃ c, c < 4 ∧ c ≠ core.val ∧ (s.core c).running = true ∧ (s.core c).held = false := by
  unfold otherRuns
  rw [List.any_eq_true]
  refine exists_congr fun c => ?_
  simp only [mem_cores_iff, Bool.and_eq_true, bne_iff_ne, Bool.not_eq_true', and_assoc]

end

/-- Settles O42: a signal is one bit, the offer is the best of the eligible sources, and the effect of each command on the bits, the active
sources and the cores follows from it. -/
theorem interruptsAreRaisedTakenAndEnded : Obligations.InterruptsAreRaisedTakenAndEnded := by
  unfold Obligations.InterruptsAreRaisedTakenAndEnded
  refine ⟨?source, ?swi, fun _ _ _ => offer_some, fun _ _ => offer_none, fun _ _ _ => eligible_iff, ?take, ?noTake, ?eoi, ?badEoi, ?pendWrite,
    ?reset, ?third, fun core t s => heartbeat_early core t s, ?noSource, ?stopped, ?last, fun core t s => heartbeat_unwatched core t s⟩
  case source =>
    intro src s h
    refine ⟨s.signal src.val, congrArg Host.Outcome.next (if_pos h), fun n hn => ?_, rfl, rfl, rfl⟩
    simp only [signal_pend s hn, eq_comm]
  case swi =>
    intro v s
    refine ⟨_, rfl, fun n hn => ?_, ?_, ?_⟩
    · rw [swi_pend v s hn]
      simp only [mem_cores_iff]
    all_goals
      simp only [List.foldl_cons, List.foldl_nil]
      repeat' split
      all_goals rfl
  case take =>
    intro core pc s n hr hh ho
    refine ⟨_, congrArg Host.Outcome.next (take_of_offer hr hh rfl rfl ho), fun m hm => ?_, rfl, ?_, ?_, ?_, ?_, ?_, fun c hc => ?_⟩
    · show (s.hic.pend &&& ~~~(BitVec.ofNat 256 (2 ^ n))).getLsbD m = _
      rw [BitVec.getLsbD_and, BitVec.getLsbD_not, BitVec.getLsbD_ofNat, Nat.testBit_two_pow]
      simp [hm, eq_comm]
    · exact SMap.get_set_same ..
    · rw [State.updCore_core_at, if_pos rfl]
    · rw [State.updCore_core_at, if_pos rfl]
    · rw [State.updCore_core_at, if_pos rfl]
    · rw [State.updCore_core_at, if_pos rfl]
    · rw [State.updCore_core_at, if_neg hc.symm]
      rfl
  case noTake =>
    rintro x s (h | h | h)
    · exact congrArg Host.Outcome.next (take_of_stopped (by rw [h, Bool.and_false, Bool.false_and]))
    · exact congrArg Host.Outcome.next (take_of_stopped (by rw [h, Bool.and_false]))
    · exact congrArg Host.Outcome.next (take_of_no_offer s x h)
  case stopped =>
    rintro x s (h | h)
    · exact congrArg Host.Outcome.next (take_of_stopped (by simp only [h, Bool.false_and]))
    · exact congrArg Host.Outcome.next (take_of_stopped (by simp only [h, Bool.not_true, Bool.and_false, Bool.false_and]))
  case eoi =>
    intro core src s a ha hc hs
    have h : s.hic.active.any (fun a => a.core == core.val && a.src == src.toNat) = true :=
      List.any_eq_true.mpr ⟨a, ha, by rw [hc, hs, beq_self_eq_true, beq_self_eq_true, Bool.and_true]⟩
    refine ⟨_, congrArg Host.Outcome.next (if_pos h), fun x => ?_, rfl, rfl, rfl⟩
    simp only [List.mem_filter, Bool.not_eq_true', Bool.and_eq_false_iff, beq_eq_false_iff_ne, ne_eq, not_and_or]
  case badEoi =>
    intro core src s h
    have hn : ¬ s.hic.active.any (fun a => a.core == core.val && a.src == src.toNat) = true := by
      simpa [List.any_eq_true, not_and_or, ← imp_iff_not_or] using h
    refine ⟨_, congrArg Host.Outcome.next (if_neg hn), ?_, rfl, rfl, rfl⟩
    exact SMap.get_set_same ..
  case pendWrite =>
    rintro w v events taker s _ rfl
    cases taker with
    | none => exact ⟨_, rfl, fun n hn => (pendWrite_pend w _ _ hn).trans (by rw [BitVec.getLsbD_or]; rfl), rfl, rfl⟩
    | some x => exact ⟨_, rfl, fun n hn => (pendWrite_pend w _ _ hn).trans (by rw [BitVec.getLsbD_or]; rfl), rfl, rfl⟩
  case reset =>
    intro core t s hw hb
    refine ⟨_, heartbeat_reset core t s hw hb, ?_⟩
    by_cases hh : holdsCore core t s = true
    · obtain ⟨h3, ho⟩ := Bool.and_eq_true_iff.mp hh
      obtain ⟨c, hc4, hc, hr, hl⟩ := (otherRuns_iff core s).mp ho
      rw [← restarted_core_other core t s hc] at hr hl
      obtain ⟨hcore, hhic, hbook⟩ := moveDuties_of_other hc4 hc hr hl
      rw [if_pos hh, hcore, restarted_core, hhic, hbook]
      refine ⟨rfl, rfl, rfl, restarted_active core t s, restarted_book core t s, fun hlt => ?_⟩
      rw [List.length_append] at h3
      exact absurd (of_decide_eq_true h3) (Nat.not_le.mpr (Nat.succ_lt_succ hlt))
    · rw [if_neg hh, restarted_core]
      exact ⟨rfl, rfl, rfl, restarted_active core t s, restarted_book core t s,
        fun _ => ⟨Bool.eq_false_iff.mpr hh, rfl, fun c hc => restarted_core_other core t s hc⟩⟩
  case third =>
    intro core t s c hw hb h2 hc4 hc hr hl
    have hh : holdsCore core t s = true := by
      refine Bool.and_eq_true_iff.mpr ⟨decide_eq_true ?_, (otherRuns_iff core s).mpr ⟨c, hc4, hc, hr, hl⟩⟩
      rw [List.length_append]
      exact Nat.succ_le_succ h2
    rw [← restarted_core_other core t s hc] at hr hl
    obtain ⟨hcore, -, hbook⟩ := moveDuties_of_other hc4 hc hr hl
    refine ⟨_, heartbeat_reset core t s hw hb, ?_⟩
    rw [if_pos hh, hcore, restarted_core, hbook]
    exact ⟨hh, rfl, restarted_book core t s⟩
  case noSource =>
    intro src s h
    exact congrArg Host.Outcome.next (if_neg (Bool.eq_false_iff.mp h))
  case last =>
    intro core t s hw hb hall
    have ho : otherRuns core s = false := by
      refine Bool.eq_false_iff.mpr fun h => ?_
      obtain ⟨c, hc4, hc, hr, hl⟩ := (otherRuns_iff core s).mp h
      obtain hn | hn := hall c hc4 hc
      · rw [hr] at hn; cases hn
      · rw [hl] at hn; cases hn
    have hh : holdsCore core t s = false := by unfold holdsCore; rw [ho, Bool.and_false]
    refine ⟨_, heartbeat_reset core t s hw hb, ?_⟩
    rw [hh, if_neg Bool.false_ne_true, restarted_core]
    exact ⟨hh, rfl, rfl, fun c hc => restarted_core_other core t s hc⟩

end Sys2Proof.Machine
end

section
/-! SUPPORT. The field book and its log (R431 to R435), and the persistent store (R440, R474): what a record, a page, a commit and its completion
leave, with the statement of chapter 15 on them. -/

namespace Sys2Proof.Machine

/-! Records (R431, R432). -/

section
variable (s : State) (dr : Bool) (src code status parcel unit : Nat) (detail : BitVec 64)

/-- The record as it is made. -/
def newRec : FbRec :=
  ⟨s.book.next, src, (if s.time.valid then 1 else 0) + (if dr then 2 else 0), status, s.bookTime, parcel, code, unit, detail⟩

/-- A record joins the ring, takes the next number and waits for a page. -/
theorem post_book : (s.post dr src code status parcel unit detail).book = { s.book with
    ring := (s.book.ring ++ [newRec s dr src code status parcel unit detail]).drop ((s.book.ring ++ [newRec s dr src code status parcel unit detail]).length - 4096)
    next := s.book.next + 1
    waiting := s.book.waiting + 1 } := by
  unfold State.post
  dsimp only
  split
  · rfl
  · obtain ⟨m, h⟩ := State.event_eq { s with book := _ } 0 4 0 0 status unit (toLe 4 s.book.next) none
    rw [h]
    rfl

end

/-- The end of a list keeps its last entry. -/
theorem getLast?_concat_drop {α : Type} (l : List α) (x : α) {n : Nat} (hn : 0 < n) : ((l ++ [x]).drop ((l ++ [x]).length - n)).getLast? = some x := by
  rw [List.getLast?_drop, List.length_append, List.length_singleton, if_neg (by omega), List.getLast?_concat]

section
variable (s : State) (dr : Bool) (src code status parcel unit : Nat) (detail : BitVec 64)

/-- The record stands last in a ring of at most 4,096. -/
theorem post_ring : (s.post dr src code status parcel unit detail).book.ring.getLast? = some (newRec s dr src code status parcel unit detail) ∧
    (s.post dr src code status parcel unit detail).book.ring.length ≤ 4096 := by
  rw [post_book]
  dsimp only
  constructor
  · rw [getLast?_concat_drop _ _ (by decide)]
  · rw [List.length_drop]
    exact tsub_tsub_le

end

/-! Pages (R433, R434). -/

/-- A page holds the oldest records not yet in flash, and the rest of them wait on. -/
theorem writePage_of_fresh {b : FieldBook} (now : Nat) (h : b.fresh ≠ []) :
    (b.writePage now).pages.getLast? = some ⟨b.pageSeq, b.fresh.take 127⟩ ∧ (b.writePage now).pageSeq = b.pageSeq + 1 ∧
    (b.writePage now).waiting = b.fresh.length - 127 ∧ (b.writePage now).ring = b.ring ∧ (b.writePage now).lastPage = now ∧
    (b.writePage now).next = b.next := by
  have hl : (b.fresh.take 127).isEmpty = false := by
    rw [List.isEmpty_eq_false_iff]
    intro hn
    exact h ((List.take_eq_nil_iff.mp hn).resolve_left (by decide))
  unfold FieldBook.writePage
  dsimp only
  rw [hl, if_neg Bool.false_ne_true]
  refine ⟨List.getLast?_concat, rfl, ?_, rfl, rfl, rfl⟩
  show b.fresh.length - (b.fresh.take 127).length = _
  rw [List.length_take, Nat.min_comm, tsub_min]

theorem writePage_of_no_fresh {b : FieldBook} (now : Nat) (h : b.fresh = []) : b.writePage now = b := by
  unfold FieldBook.writePage
  rw [h]
  rfl

section
variable (t : Nat) (s : State)

theorem exec_logPageWrite (h : 127 ≤ s.book.fresh.length ∨ s.book.fresh.any FbRec.flushes = true) :
    exec (.logPageWrite t) s = .next { s.at' t with book := s.book.writePage (s.at' t).now } :=
  congrArg Host.Outcome.next (if_pos h)

theorem exec_logPageWrite_early (h1 : s.book.fresh.length < 127) (h2 : ∀ r, r ∈ s.book.fresh → r.flushes = false) :
    exec (.logPageWrite t) s = .next (s.at' t) := by
  refine congrArg Host.Outcome.next (if_neg (not_or.mpr ⟨Nat.not_le.mpr h1, ?_⟩))
  show ¬ s.book.fresh.any FbRec.flushes = true
  rw [List.any_eq_true]
  rintro ⟨r, hr, hf⟩
  exact Bool.false_ne_true ((h2 r hr).symm.trans hf)

/-- A record to be flushed at once has its page written. -/
theorem exec_logPageWrite_flush {r : FbRec} (hr : r ∈ s.book.fresh) (hf : r.flushes = true) :
    exec (.logPageWrite t) s = .next { s.at' t with book := s.book.writePage (s.at' t).now } :=
  exec_logPageWrite t s (.inr (List.any_eq_true.mpr ⟨r, hr, hf⟩))

theorem exec_logFlushTimer (h : s.book.lastPage + 10000000000 ≤ (s.at' t).now) :
    exec (.logFlushTimer t) s = .next { s.at' t with book := s.book.writePage (s.at' t).now } :=
  congrArg Host.Outcome.next (if_pos h)

theorem exec_logFlushTimer_early (h : (s.at' t).now < s.book.lastPage + 10000000000) : exec (.logFlushTimer t) s = .next (s.at' t) :=
  congrArg Host.Outcome.next (if_neg (Nat.not_le.mpr h))

theorem flushes_iff (r : FbRec) : r.flushes = true ↔ r.status = 0x0501 ∨ r.status = 0x0502 ∨ r.src = 9 ∨ r.src = 10 := decide_eq_true_iff

/-- The greatest number of a list lies above none of its members. -/
theorem le_foldl_max (l : List Nat) {x : Nat} (h : x ∈ l) : x ≤ l.foldl max 0 :=
  Nat.lt_succ_iff.mp (((foldl_max_lt l 0 _).mp (Nat.lt_succ_self _)).2 x h)

/-- The newest records of a log, as many as the ring holds. -/
def FieldBook.logRing (b : FieldBook) : List FbRec :=
  let l := b.pages.flatMap (fun p => p.recs)
  l.drop (l.length - 4096)

/-- The field book as the auxiliary input comes back: its ring is the end of the log. -/
def FieldBook.afterAux (b : FieldBook) (now : Nat) : FieldBook :=
  { b with ring := b.logRing, waiting := 0, lastPage := now, next := (b.logRing.map (fun r => r.num)).foldl max 0 + 1 }

theorem afterAux_ring (b : FieldBook) (now : Nat) : (b.afterAux now).pages = b.pages ∧ (b.afterAux now).waiting = 0 ∧
    (b.afterAux now).ring.length ≤ 4096 ∧ (b.afterAux now).ring <:+ b.pages.flatMap (fun p => p.recs) ∧
    ∀ r, r ∈ (b.afterAux now).ring → r.num < (b.afterAux now).next := by
  unfold FieldBook.afterAux
  dsimp only
  have hl : b.logRing.length ≤ 4096 := by
    unfold FieldBook.logRing
    dsimp only
    rw [List.length_drop]
    exact tsub_tsub_le
  have hs : b.logRing <:+ b.pages.flatMap (fun p => p.recs) := List.drop_suffix _ _
  generalize b.logRing = l at hl hs
  exact ⟨rfl, rfl, hl, hs, fun r hr => Nat.lt_succ_of_le (le_foldl_max _ (List.mem_map_of_mem hr))⟩

theorem exec_auxiliaryInputReturn : exec (.auxiliaryInputReturn t) s = .next { s.at' t with
    book := s.book.afterAux (s.at' t).now
    power := { s.power with trip := false, offCause := if s.power.offCause = 3 then 2 else s.power.offCause } } := rfl

/-! The store (R440, R474). -/

theorem one_sub_mod_two_ne (n : Nat) : 1 - n % 2 ≠ n := by
  intro hn
  obtain h | h := Nat.mod_two_eq_zero_or_one n
  · rw [h] at hn
    subst hn
    cases h
  · rw [h] at hn
    subst hn
    cases h

theorem other_ne_current (x : Store) : x.other ≠ x.current := one_sub_mod_two_ne _

theorem exec_storeCommit (h : s.store.running = none) : exec (.storeCommit t) s = .next { s.at' t with store := { s.store with
    running := some (s.at' t).storeImage
    waiting := false
    banks := SMap.set StoreBank.clear s.store.banks s.store.other ⟨false, s.store.seq + 1, []⟩ } } := by
  refine congrArg Host.Outcome.next (if_neg ?_)
  show ¬ s.store.running.isSome = true
  rw [h]
  exact Bool.false_ne_true

theorem exec_storeCommit_running (h : s.store.running ≠ none) : exec (.storeCommit t) s = .next (s.at' t) :=
  congrArg Host.Outcome.next (if_pos (Option.isSome_iff_ne_none.mpr h))

theorem exec_storeCommitComplete_idle (ok : Bool) (h : s.store.running = none) : exec (.storeCommitComplete ok t) s = .next (s.at' t) := by
  show Host.Outcome.next (match (s.at' t).store.running with | none => _ | some img => _) = _
  rw [show (s.at' t).store.running = none from h]

theorem exec_storeCommitComplete_failed {img : List StoreRec} (h : s.store.running = some img) : exec (.storeCommitComplete false t) s =
    .next ((s.at' t).post false 0x0B 3 0 0xFFFF s.store.other (BitVec.ofNat 64 (s.store.seq + 1))) := by
  show Host.Outcome.next (match (s.at' t).store.running with | none => _ | some img => _) = _
  rw [show (s.at' t).store.running = some img from h]
  rfl

/-- The floors a completed image makes durable. -/
def imageFloors (img : List StoreRec) : SMap Nat :=
  (List.range 513).foldl (fun m n => SMap.set 0 m n (leAt (((img.find? (fun r => r.type == 5)).map (fun r => r.body)).getD []) (4 * n) 4)) s.store.floors

/-- The module whose store holds a completed image. -/
def committed (img : List StoreRec) : State :=
  { s.at' t with store := { s.store with
    banks := SMap.set StoreBank.clear s.store.banks s.store.other ⟨true, s.store.seq + 1, img⟩
    current := s.store.other
    running := none
    commits := s.store.commits + 1
    floors := imageFloors s img
    floorsAsked := s.store.floorsAsked.filter (fun x => SMap.get 0 (imageFloors s img) x.1 != x.2) } }

/-- Whether an image holds the key of parcel 0 that is in force. -/
def holdsKey (img : List StoreRec) : Bool :=
  match (s.box 0).key with
  | some k => img.any (fun r => r.type == 2 && r.body == keyWrap storeKey k)
  | none => false

theorem exec_storeCommitComplete {img : List StoreRec} (h : s.store.running = some img) : exec (.storeCommitComplete true t) s =
    .next (if holdsKey s img then s.sec.keyWaits.foldl (fun (s : State) w => s.complete w 0 [])
        { committed t s img with sec := { s.sec with keyWaits := [] } }
      else committed t s img) := by
  show Host.Outcome.next (match (s.at' t).store.running with | none => _ | some img => _) = _
  rw [show (s.at' t).store.running = some img from h]
  rfl

/-- Answers change the mail only. -/
theorem foldl_complete_eq (l : List Waiter) (s : State) : ∃ m, l.foldl (fun (s : State) w => s.complete w 0 []) s = { s with mail := m } := by
  induction l generalizing s with
  | nil => exact ⟨s.mail, rfl⟩
  | cons w l ih =>
    obtain ⟨m, hm⟩ := s.complete_eq w 0 []
    obtain ⟨k, hk⟩ := ih (s.complete w 0 [])
    exact ⟨k, by rw [List.foldl_cons, hk, hm]⟩

/-- A completed commit: the image is in the bank that was not current, which is current now, and the requests that wait for the key end where
the image holds it. -/
theorem storeCommitComplete_next {img : List StoreRec} (h : s.store.running = some img) : ∃ m k,
    exec (.storeCommitComplete true t) s = .next { committed t s img with mail := m, sec := { s.sec with keyWaits := k } } ∧
    (if holdsKey s img then k = [] else k = s.sec.keyWaits) := by
  rw [exec_storeCommitComplete t s h]
  split
  · obtain ⟨m, hm⟩ := foldl_complete_eq s.sec.keyWaits { committed t s img with sec := { s.sec with keyWaits := [] } }
    exact ⟨m, [], by rw [hm], rfl⟩
  · exact ⟨s.mail, s.sec.keyWaits, rfl, rfl⟩

theorem committed_banks (img : List StoreRec) :
    SMap.get StoreBank.clear (committed t s img).store.banks s.store.other = ⟨true, s.store.seq + 1, img⟩ ∧
    SMap.get StoreBank.clear (committed t s img).store.banks s.store.current = SMap.get StoreBank.clear s.store.banks s.store.current := by
  unfold committed
  dsimp only
  rw [SMap.get_set_same, SMap.get_set_other _ _ _ _ _ (other_ne_current s.store).symm]
  exact ⟨rfl, rfl⟩

end

/-- Settles O43: a record goes to the end of the ring, a page takes the oldest records that wait, and a commit writes the bank that is not
current. -/
theorem theLogAndTheStoreAreWritten : Obligations.TheLogAndTheStoreAreWritten := by
  unfold Obligations.TheLogAndTheStoreAreWritten
  refine ⟨?post, ?page, fun t s => exec_logPageWrite_early t s, ?alarm, ?timer, fun t s => exec_logFlushTimer_early t s, ?commit,
    fun t s => exec_storeCommit_running t s, ?complete, ?failed, ?aux, ?flush, flushes_iff, ?timerAll, ?timerNone,
    fun ok t s => exec_storeCommitComplete_idle t s ok, ?completeAll, ?key⟩
  case post =>
    intro src code status parcel unit detail t s
    refine ⟨_, rfl, ?_⟩
    obtain ⟨m, b, hp⟩ := (s.at' t).post_eq false src.toNat code.toNat status.toNat parcel.toNat unit.toNat detail
    have hm : ((s.at' t).post false src.toNat code.toNat status.toNat parcel.toNat unit.toNat detail).mem = s.mem := by rw [hp]; rfl
    obtain ⟨hl, hn⟩ := post_ring (s.at' t) false src.toNat code.toNat status.toNat parcel.toNat unit.toNat detail
    refine ⟨post_next (s.at' t) .., hl, hn, ?_, ?_, hm⟩ <;> rw [post_book] <;> rfl
  case page =>
    intro t s h
    refine ⟨_, exec_logPageWrite t s (.inl h), ?_⟩
    obtain ⟨h1, h2, h3, h4, h5, h6⟩ := writePage_of_fresh (s.at' t).now (List.ne_nil_of_length_pos (Nat.lt_of_lt_of_le (by decide) h))
    exact ⟨h1, h2, by rw [h3, Nat.sub_add_cancel h], h4, h5, h6⟩
  case alarm =>
    intro t s r hr hf
    refine ⟨_, exec_logPageWrite_flush t s hr ((flushes_iff r).mpr (hf.imp_right fun h => .inr (.inl h))), ?_⟩
    exact (writePage_of_fresh _ (List.ne_nil_of_mem hr)).1
  case timer =>
    intro t s h hn hl
    obtain ⟨h1, -, h3, -⟩ := writePage_of_fresh (s.at' t).now hn
    refine ⟨_, exec_logFlushTimer t s h, ?_, h3.trans (Nat.sub_eq_zero_of_le hl)⟩
    rw [List.take_of_length_le hl] at h1
    exact h1
  case commit =>
    intro t s h
    refine ⟨_, exec_storeCommit t s h, rfl, rfl, ?_, ?_, rfl, rfl, rfl⟩
    · dsimp only
      rw [SMap.get_set_same]
    · dsimp only
      rw [SMap.get_set_other _ _ _ _ _ (other_ne_current s.store).symm]
  case complete =>
    intro t s img h _
    obtain ⟨m, k, he, -⟩ := storeCommitComplete_next t s h
    obtain ⟨h1, h2⟩ := committed_banks t s img
    exact ⟨_, he, rfl, rfl, h1, rfl, h2, rfl⟩
  case failed =>
    intro t s img h
    refine ⟨_, exec_storeCommitComplete_failed t s h, ?_, post_next (s.at' t) ..⟩
    obtain ⟨m, b, hp⟩ := (s.at' t).post_eq false 0x0B 3 0 0xFFFF s.store.other (BitVec.ofNat 64 (s.store.seq + 1))
    rw [hp]
    rfl
  case aux =>
    intro t s
    obtain ⟨h1, h2, h3, h4, h5⟩ := afterAux_ring s.book (s.at' t).now
    exact ⟨_, exec_auxiliaryInputReturn t s, h1, h2, h3, h4, h5, rfl, rfl, rfl⟩
  case flush =>
    intro t s r hr hf
    obtain ⟨h1, -, -, -, h5, -⟩ := writePage_of_fresh (s.at' t).now (List.ne_nil_of_mem hr)
    exact ⟨_, exec_logPageWrite_flush t s hr hf, h1, h5⟩
  case timerAll =>
    intro t s h hn
    obtain ⟨h1, -, h3, -⟩ := writePage_of_fresh (s.at' t).now hn
    exact ⟨_, exec_logFlushTimer t s h, h1, h3⟩
  case timerNone =>
    intro t s hn
    by_cases h : s.book.lastPage + 10000000000 ≤ (s.at' t).now
    · rw [exec_logFlushTimer t s h, writePage_of_no_fresh _ hn]
      rfl
    · exact exec_logFlushTimer_early t s (Nat.not_le.mp h)
  case completeAll =>
    intro t s img h
    obtain ⟨m, k, he, hk⟩ := storeCommitComplete_next t s h
    refine ⟨_, he, rfl, rfl, (committed_banks t s img).1, rfl, ?_, rfl⟩
    split at hk
    · exact .inl hk
    · exact .inr hk
  case key =>
    intro t s img k h hb hi
    obtain ⟨m, l, he, hl⟩ := storeCommitComplete_next t s h
    have hk : holdsKey s img = true := by
      unfold holdsKey
      rw [hb]
      exact List.any_eq_true.mpr ⟨_, hi, by simp only [beq_self_eq_true, Bool.and_self]⟩
    rw [if_pos hk] at hl
    exact ⟨_, he, hl, rfl⟩

end Sys2Proof.Machine
end

section
/-! SUPPORT. Policy modules (R414 to R416, R472): invocations, the calls of a module that runs and what they copy into its SRAM, with the statement
of chapter 15 on them. -/

namespace Sys2Proof.Machine

/-! Invocations (R414, R472). -/

section
variable {s : State} {i : Nat} {p : Policy} (entry arg : Nat)

theorem polInvoke_none (hp : s.policy i = none) : s.polInvoke i entry arg = s := by
  unfold State.polInvoke
  rw [hp]

section
variable (hp : s.policy i = some p)
include hp

theorem polInvoke_disabled (he : (s.parcel p.parcel).state ≠ .enabled) : s.polInvoke i entry arg = s := by
  unfold State.polInvoke
  rw [hp]
  exact if_pos he

theorem polInvoke_idle (he : (s.parcel p.parcel).state = .enabled) (hr : p.running = none) (hh : s.polHalted i = false) :
    s.polInvoke i entry arg = s.setPolicy i (some { p with running := some ⟨entry, arg⟩ }) := by
  unfold State.polInvoke
  rw [hp]
  simp only [he, hr, hh, ne_eq, not_true_eq_false, if_false]
  rfl

omit hp in
/-- Whether the module runs an invocation or its core is being switched, an invocation does not start. -/
theorem not_starts (h : p.running ≠ none ∨ s.polHalted i = true) : ¬ (p.running.isNone && !s.polHalted i) = true := by
  rcases h with h | h
  · rw [Option.isNone_eq_false_iff.mpr (Option.isSome_iff_ne_none.mpr h)]
    exact Bool.false_ne_true
  · rw [h, Bool.not_true, Bool.and_false]
    exact Bool.false_ne_true

theorem polInvoke_queued (he : (s.parcel p.parcel).state = .enabled) (h : p.running ≠ none ∨ s.polHalted i = true) (hq : p.queue.length < 8) :
    s.polInvoke i entry arg = s.setPolicy i (some { p with queue := p.queue ++ [⟨entry, arg⟩] }) := by
  unfold State.polInvoke
  rw [hp]
  dsimp only
  rw [if_neg (not_not_intro he), if_neg (not_starts h), if_pos hq]

theorem polInvoke_dropped (he : (s.parcel p.parcel).state = .enabled) (h : p.running ≠ none ∨ s.polHalted i = true) (hq : 8 ≤ p.queue.length) :
    s.polInvoke i entry arg = s.setPolicy i (some { p with dropped := p.dropped + 1 }) := by
  unfold State.polInvoke
  rw [hp]
  dsimp only
  rw [if_neg (not_not_intro he), if_neg (not_starts h), if_neg (Nat.not_lt.mpr hq)]

end

end

section
variable (slot : Fin 4) (s : State)

theorem exec_policyStarve {arb : Fin 112} {p : Policy} (hp : s.policy slot.val = some p) (hs : (s.arb arb.val).starve ≠ 0)
    (hn : s.arbNear arb.val p.parcel = true) : exec (.policyStarve slot arb) s = .next (s.polInvoke slot.val 1 arb.val) := by
  show Host.Outcome.next (match s.policy slot.val with | some p => _ | none => _) = _
  rw [hp]
  exact congrArg Host.Outcome.next (if_pos ⟨hs, hn⟩)

theorem exec_policyStarve_far {arb : Fin 112} (h : s.policy slot.val = none ∨ (s.arb arb.val).starve = 0 ∨
    ∃ p, s.policy slot.val = some p ∧ s.arbNear arb.val p.parcel = false) : exec (.policyStarve slot arb) s = .next s := by
  show Host.Outcome.next (match s.policy slot.val with | some p => _ | none => _) = _
  cases hp : s.policy slot.val with
  | none => rfl
  | some p =>
    refine congrArg Host.Outcome.next (if_neg fun hc => ?_)
    obtain h | h | ⟨q, hq, hf⟩ := h
    · cases hp.symm.trans h
    · exact hc.1 h
    · cases hp.symm.trans hq
      exact Bool.false_ne_true (hf.symm.trans hc.2)

theorem exec_policyStep {lead : Fin 64} {p : Policy} {z : Plot} (hp : s.policy slot.val = some p) (hz : s.plot lead.val = some z)
    (he : z.parcel = p.parcel) : exec (.policyStep slot lead) s = .next (s.polInvoke slot.val 2 lead.val) := by
  show Host.Outcome.next (match s.policy slot.val, s.plot lead.val with | some p, some y => _ | _, _ => _) = _
  rw [hp, hz]
  exact congrArg Host.Outcome.next (if_pos he)

theorem exec_policyStep_other {lead : Fin 64} {p : Policy} {z : Plot} (hp : s.policy slot.val = some p) (hz : s.plot lead.val = some z)
    (he : z.parcel ≠ p.parcel) : exec (.policyStep slot lead) s = .next s := by
  show Host.Outcome.next (match s.policy slot.val, s.plot lead.val with | some p, some y => _ | _, _ => _) = _
  rw [hp, hz]
  exact congrArg Host.Outcome.next (if_neg he)

theorem exec_policyStep_none {lead : Fin 64} (h : s.policy slot.val = none ∨ s.plot lead.val = none) :
    exec (.policyStep slot lead) s = .next s := by
  show Host.Outcome.next (match s.policy slot.val, s.plot lead.val with | some p, some y => _ | _, _ => _) = _
  cases hp : s.policy slot.val with
  | none => rfl
  | some p =>
    rw [hp] at h
    rw [h.resolve_left (Option.some_ne_none p)]

end

/-! Calls (R415). -/

section
variable {s : State} {i : Nat} {p : Policy}

/-- A call of a module that runs has its effect, and its status goes to a0. -/
theorem polCall_of_running {act : Policy → State × Nat} {u : State} {st : Nat} {q : Policy} (hp : s.policy i = some p) (hr : p.running ≠ none)
    (ha : act p = (u, st)) (hq : u.policy i = some q) : s.polCall i act = u.setPolicy i (some { q with a0 := st }) := by
  unfold State.polCall
  rw [hp]
  dsimp only
  rw [if_neg (by rwa [Option.isNone_iff_eq_none]), ha]
  dsimp only
  rw [hq]

/-- A call of a module that runs nothing does nothing. -/
theorem polCall_of_stopped (act : Policy → State × Nat) (h : s.policy i = none ∨ ∃ p, s.policy i = some p ∧ p.running = none) :
    s.polCall i act = s := by
  unfold State.polCall
  obtain h | ⟨p, hp, hr⟩ := h
  · rw [h]
  · rw [hp]
    exact if_pos (by rw [hr]; rfl)

theorem setPolicy_same (p : Option Policy) : (s.setPolicy i p).policy i = p := by rw [State.setPolicy_policy_at, if_pos rfl]

theorem setPolicy_other (p : Option Policy) : ∀ k, k ≠ i → (s.setPolicy i p).policy k = s.policy k :=
  fun k hk => by rw [State.setPolicy_policy_at, if_neg hk.symm]

theorem post_policy (dr : Bool) (src code status parcel unit : Nat) (detail : BitVec 64) (k : Nat) :
    (s.post dr src code status parcel unit detail).policy k = s.policy k := by
  obtain ⟨m, b, h⟩ := s.post_eq dr src code status parcel unit detail
  rw [h]
  rfl

theorem post_arb (dr : Bool) (src code status parcel unit : Nat) (detail : BitVec 64) (k : Nat) :
    (s.post dr src code status parcel unit detail).arb k = s.arb k := by
  obtain ⟨m, b, h⟩ := s.post_eq dr src code status parcel unit detail
  rw [h]
  rfl

end

section
variable (slot : Fin 4) {s : State} {p : Policy} (hp : s.policy slot.val = some p) (hr : p.running ≠ none)
include hp hr

theorem exec_polShare (lo hi : BitVec 64) : exec (.polShare slot lo hi) s = .next ((s.updParcel p.parcel (fun x => { x with
    askLo := max x.pfMin (min x.pfMax lo.toNat), askHi := max x.pfMin (min x.pfMax hi.toNat) })).setPolicy slot.val (some { p with a0 := 0 })) :=
  congrArg Host.Outcome.next (polCall_of_running hp hr rfl hp)

theorem exec_polPreempt {model : BitVec 64} {m : Model} (hm : s.modelOf model.toNat = some m) (ho : m.owner = p.parcel) :
    exec (.polPreempt slot model) s = .next (({ s with sched := { s.sched with waits := s.sched.waits.map (fun w =>
      if w.model = model.toNat then { w with urgent := true } else w) } } : State).setPolicy slot.val (some { p with a0 := 0 })) := by
  refine congrArg Host.Outcome.next (polCall_of_running hp hr ?_ hp)
  dsimp only
  rw [hm]
  exact if_neg (not_not_intro ho)

theorem exec_polPreempt_stale {model : BitVec 64} (hm : s.modelOf model.toNat = none) :
    exec (.polPreempt slot model) s = .next (s.setPolicy slot.val (some { p with a0 := 0x0304 })) := by
  refine congrArg Host.Outcome.next (polCall_of_running hp hr ?_ hp)
  dsimp only
  rw [hm]

theorem exec_polPreempt_other {model : BitVec 64} {m : Model} (hm : s.modelOf model.toNat = some m) (ho : m.owner ≠ p.parcel) :
    exec (.polPreempt slot model) s = .next (s.setPolicy slot.val (some { p with a0 := 0x0105 })) := by
  refine congrArg Host.Outcome.next (polCall_of_running hp hr ?_ hp)
  dsimp only
  rw [hm]
  exact if_pos ho

theorem exec_polWeight_refused {arb r : BitVec 64} (w : BitVec 64)
    (h : p.running ≠ some ⟨1, arb.toNat⟩ ∨ 112 ≤ arb.toNat ∨ arbRequesters arb.toNat ≤ r.toNat) :
    exec (.polWeight slot arb r w) s = .next (s.setPolicy slot.val (some { p with a0 := 0x0105 })) := by
  refine congrArg Host.Outcome.next (polCall_of_running hp hr (if_neg ?_) hp)
  rintro ⟨h1, h2, h3⟩
  obtain h | h | h := h
  · exact h h1
  · exact Nat.not_lt.mpr h h2
  · exact Nat.not_lt.mpr h h3

theorem exec_polDone (hh : s.polHalted slot.val = false) : exec (.polDone slot) s =
    .next ((s.setPolicy slot.val (some p.done)).setPolicy slot.val (some { p.done with a0 := 0 })) := by
  refine congrArg Host.Outcome.next (polCall_of_running hp hr ?_ (setPolicy_same _))
  rw [hh]
  rfl

theorem exec_polDone_halted (hh : s.polHalted slot.val = true) : exec (.polDone slot) s =
    .next ((s.setPolicy slot.val (some { p with running := none })).setPolicy slot.val (some { p with running := none, a0 := 0 })) := by
  refine congrArg Host.Outcome.next (polCall_of_running hp hr ?_ (setPolicy_same _))
  rw [hh]
  rfl

theorem exec_policyBudgetOverrun : exec (.policyBudgetOverrun slot) s =
    .next ((s.setPolicy slot.val none).post false 0x0A 3 0 p.parcel slot.val (BitVec.ofNat 64 (p.parcel + slot.val * 2 ^ 16))) := by
  show Host.Outcome.next (match s.policy slot.val with | none => s | some p => _) = _
  rw [hp]
  exact congrArg Host.Outcome.next (if_neg (by rwa [Option.isNone_iff_eq_none]))

end

/-- What `POL_WEIGHT` does in the starvation entry of its arbiter. -/
theorem exec_polWeight (slot : Fin 4) {s : State} {p : Policy} {arb r : BitVec 64} (w : BitVec 64) (hp : s.policy slot.val = some p)
    (hr : p.running = some ⟨1, arb.toNat⟩) (ha : arb.toNat < 112) (hq : r.toNat < arbRequesters arb.toNat) :
    exec (.polWeight slot arb r w) s = .next
      (((s.updArb arb.toNat (fun x => { x with weight := SMap.set 1 x.weight r.toNat (max 1 (min 8 w.toNat)) })).post false 0x0A 4 0 p.parcel slot.val
        (BitVec.ofNat 64 (arb.toNat + r.toNat * 2 ^ 16 + max 1 (min 8 w.toNat) * 2 ^ 32))).setPolicy slot.val (some { p with a0 := 0 })) :=
  congrArg Host.Outcome.next (polCall_of_running hp (by rw [hr]; exact Option.some_ne_none _) (if_pos ⟨hr, ha, hq⟩)
    ((post_policy ..).trans hp))

/-! Copies into a module's SRAM (R414, R415). -/

/-- The SRAM of a module after bytes have been copied to offset `a`. -/
def sramCopy (m : SMap Byte) (a : Nat) (l : Bytes) : SMap Byte := l.zipIdx.foldl (fun m x => SMap.set 0 m (a + x.2) x.1) m

theorem foldl_zipIdx_before (m : SMap Byte) (a k : Nat) {i : Nat} (l : Bytes) (h : i < a + k) :
    SMap.get 0 ((l.zipIdx k).foldl (fun m x => SMap.set 0 m (a + x.2) x.1) m) i = SMap.get 0 m i := by
  induction l generalizing m k with
  | nil => rfl
  | cons b l ih => rw [List.zipIdx_cons, List.foldl_cons, ih _ _ (Nat.lt_succ_of_lt h), SMap.get_set_other _ _ _ _ _ h.ne]

theorem foldl_zipIdx_from (m : SMap Byte) (a k j : Nat) (l : Bytes) :
    SMap.get 0 ((l.zipIdx k).foldl (fun m x => SMap.set 0 m (a + x.2) x.1) m) (a + k + j) = l[j]?.getD (SMap.get 0 m (a + k + j)) := by
  induction l generalizing m k j with
  | nil => rfl
  | cons b l ih =>
    rw [List.zipIdx_cons, List.foldl_cons]
    cases j with
    | zero =>
      rw [foldl_zipIdx_before _ _ _ _ (Nat.lt_succ_self (a + k))]
      exact SMap.get_set_same ..
    | succ j =>
      have he : a + k + (j + 1) = a + (k + 1) + j := (Nat.add_right_comm (a + k) j 1 :)
      have hlt : a + k < a + (k + 1) + j := Nat.lt_of_lt_of_le (Nat.lt_succ_self (a + k)) (Nat.le_add_right _ j)
      rw [he, ih, SMap.get_set_other _ _ _ _ _ hlt.ne', List.getElem?_cons_succ]

theorem sramCopy_inside (m : SMap Byte) (a : Nat) {i : Nat} {l : Bytes} (h : i < l.length) : SMap.get 0 (sramCopy m a l) (a + i) = l.getD i 0 := by
  refine (foldl_zipIdx_from m a 0 i l).trans ?_
  rw [List.getElem?_eq_getElem h, Option.getD_some, List.getD_eq_getElem _ _ h]

theorem sramCopy_outside (m : SMap Byte) {a i : Nat} {l : Bytes} (h : i < a ∨ a + l.length ≤ i) :
    SMap.get 0 (sramCopy m a l) i = SMap.get 0 m i := by
  obtain h | h := h
  · exact foldl_zipIdx_before m a 0 l h
  · obtain ⟨j, rfl⟩ := Nat.exists_eq_add_of_le ((Nat.le_add_right a _).trans h)
    refine (foldl_zipIdx_from m a 0 j l).trans ?_
    rw [List.getElem?_eq_none (Nat.le_of_add_le_add_left h)]
    rfl

section
variable {s : State} {i : Nat} {p : Policy} (a : Nat) (l : Bytes) (hp : s.policy i = some p)
include hp

theorem polCopy_fits (h : a + l.length ≤ 2 ^ 20) : s.polCopy i a l = (s.setPolicy i (some { p with sram := sramCopy p.sram a l }), 0) := by
  unfold State.polCopy
  rw [hp]
  exact if_neg (Nat.not_lt.mpr h)

theorem polCopy_refused (h : 2 ^ 20 < a + l.length) : s.polCopy i a l = (s, 0x0105) := by
  unfold State.polCopy
  rw [hp]
  exact if_pos h

end

/-! The counters of a parcel (R9, R415). -/

theorem updParcel_parcel_same (s : State) (n : Nat) (f : Parcel → Parcel) : (s.updParcel n f).parcel n = f (s.parcel n) :=
  (State.updParcel_parcel_at s n n f).trans (if_pos rfl)

theorem updParcel_parcel_other (s : State) {n k : Nat} (f : Parcel → Parcel) (h : k ≠ n) : (s.updParcel n f).parcel k = s.parcel k :=
  (State.updParcel_parcel_at s n k f).trans (if_neg h.symm)

/-- What a read of a counter of parcel `n` keeps: the policy modules, the other parcels, and a count of admissions that is 0. -/
def KeepsCounters (n : Nat) (s t : State) : Prop :=
  t.policies = s.policies ∧ (∀ k, k ≠ n → t.parcel k = s.parcel k) ∧ ((s.parcel n).admitted = 0 → (t.parcel n).admitted = 0)

theorem parcelWord_keeps (n o : Nat) (s : State) : KeepsCounters n s (State.parcelWord n s o).2 := by
  have hupd (f : Parcel → Parcel) (hf : (s.parcel n).admitted = 0 → (f (s.parcel n)).admitted = 0) : KeepsCounters n s (s.updParcel n f) :=
    ⟨rfl, fun k hk => updParcel_parcel_other s f hk, fun h => (congrArg Parcel.admitted (updParcel_parcel_same s n f)).trans (hf h)⟩
  unfold State.parcelWord
  dsimp only
  split
  case h_1 => exact hupd _ fun _ => rfl
  case h_2 | h_3 | h_4 | h_5 => exact hupd _ id
  case h_6 | h_7 | h_8 => split <;> exact ⟨rfl, fun _ _ => rfl, id⟩
  case h_9 => exact ⟨rfl, fun _ _ => rfl, id⟩

theorem parcelWord_admitted (n : Nat) (s : State) : ((State.parcelWord n s 0).2.parcel n).admitted = 0 :=
  congrArg Parcel.admitted (updParcel_parcel_same s n fun x => { x with admitted := 0 })

theorem parcelWord_endedLate (n : Nat) (s : State) : ((State.parcelWord n s 0x20).2.parcel n).endedLate = 0 :=
  congrArg Parcel.endedLate (updParcel_parcel_same s n fun x => { x with endedLate := 0 })

theorem readWords_keeps (n k o : Nat) (s : State) : KeepsCounters n s (readWords (State.parcelWord n) k o s).2 := by
  induction k generalizing s o with
  | zero => exact ⟨rfl, fun _ _ => rfl, id⟩
  | succ k ih =>
    obtain ⟨hp, ho, ha⟩ := parcelWord_keeps n o s
    obtain ⟨hp', ho', ha'⟩ := ih (o + 8) (State.parcelWord n s o).2
    exact ⟨hp'.trans hp, fun k hk => (ho' k hk).trans (ho k hk), ha' ∘ ha⟩

theorem readWords_length (f : State → Nat → Nat × State) (k o : Nat) (s : State) : (readWords f k o s).1.length = 8 * k := by
  induction k generalizing s o with
  | zero => rfl
  | succ k ih => rw [readWords, List.length_append, toLe_length, ih, Nat.mul_succ, Nat.add_comm]

theorem readWords_last (f : State → Nat → Nat × State) (k o : Nat) (s : State) :
    (readWords f (k + 1) o s).2 = (f (readWords f k o s).2 (o + 8 * k)).2 := by
  induction k generalizing s o with
  | zero => rfl
  | succ k ih => exact (ih (o + 8) (f s o).2).trans (by rw [Nat.mul_succ, Nat.add_assoc, Nat.add_comm 8]; rfl)

/-- The five counters of a parcel as one read copies and clears them. -/
theorem readWords_parcel (s : State) (n : Nat) : ∃ l u, readWords (State.parcelWord n) 5 0 s = (toLe 8 (s.parcel n).admitted ++ l, u) ∧ l.length = 32 ∧
    u.policies = s.policies ∧ (u.parcel n).admitted = 0 ∧ (u.parcel n).endedLate = 0 ∧ ∀ k, k ≠ n → u.parcel k = s.parcel k := by
  obtain ⟨hp, ho, -⟩ := readWords_keeps n 5 0 s
  obtain ⟨-, -, ha⟩ := readWords_keeps n 4 8 (State.parcelWord n s 0).2
  have hlate : (((readWords (State.parcelWord n) 5 0 s).2).parcel n).endedLate = 0 := by
    rw [readWords_last]
    exact parcelWord_endedLate n _
  exact ⟨_, _, rfl, readWords_length .., hp, ha (parcelWord_admitted n s), hlate, ho⟩

/-! The plots as a parcel sees them (Table 13-10, record 6). -/

/-- The 16 bytes of plot `b` in the record. -/
def plotBytes (s : State) (p b : Nat) : Bytes :=
  match s.plot b with
  | some x => if p = 0 ∨ x.parcel = p then
      toLe 1 x.state.code ++ zeros 1 ++ toLe 2 x.model ++ toLe 1 x.sect ++ toLe 1 x.mark.code ++ toLe 2 x.phi ++ zeros 8
    else zeros 16
  | none => zeros 16

theorem plotBytes_length (s : State) (p b : Nat) : (plotBytes s p b).length = 16 := by
  unfold plotBytes
  split
  · split
    · simp only [List.length_append, toLe_length, zeros, List.length_replicate]
    · rfl
  · rfl

theorem plotBytes_own {s : State} {p b : Nat} {z : Plot} (hz : s.plot b = some z) (ho : z.parcel = p) :
    (plotBytes s p b).getD 0 0 = BitVec.ofNat 8 z.state.code := by
  unfold plotBytes
  rw [hz]
  dsimp only
  rw [if_pos (.inr ho)]
  rfl

theorem plotBytes_other {s : State} {p b : Nat} {z : Plot} (hz : s.plot b = some z) (ho : z.parcel ≠ p) (hp : p ≠ 0) :
    (plotBytes s p b).getD 0 0 = 0 := by
  unfold plotBytes
  rw [hz]
  dsimp only
  rw [if_neg (not_or.mpr ⟨hp, ho⟩)]
  rfl

/-- Entry `b` of a string of entries of `w` bytes. -/
theorem getD_flatMap_range {f : Nat → Bytes} {w : Nat} (hw : 0 < w) (hf : ∀ b, (f b).length = w) (n : Nat) {b : Nat} (hb : b < n) :
    ((List.range n).flatMap f).getD (w * b) 0 = (f b).getD 0 0 := by
  have hl (k : Nat) : ((List.range k).flatMap f).length = w * k := by
    simp only [List.length_flatMap, hf, List.map_const', List.sum_replicate, List.length_range, smul_eq_mul, Nat.mul_comm]
  induction n with
  | zero => omega
  | succ n ih =>
    rw [List.range_succ, List.flatMap_append, List.flatMap_singleton]
    by_cases h : b = n
    · subst h
      rw [List.getD_append_right _ _ _ _ (hl b).le, hl, Nat.sub_self]
    · have hbn : b < n := by omega
      rw [List.getD_append _ _ _ _ (by rw [hl]; exact Nat.mul_lt_mul_of_pos_left hbn hw), ih hbn]

theorem plotsRecord_length (s : State) (p : Nat) : (s.plotsRecord p).length = 1024 := by
  show ((List.range 64).flatMap (plotBytes s p)).length = _
  simp [List.length_flatMap, plotBytes_length]

theorem plotsRecord_getD (s : State) (p : Nat) {b : Nat} (hb : b < 64) : (s.plotsRecord p).getD (16 * b) 0 = (plotBytes s p b).getD 0 0 :=
  getD_flatMap_range (f := plotBytes s p) (by decide) (plotBytes_length s p) 64 hb

/-! The two calls that copy. -/

section
variable (slot : Fin 4) {s : State} {p : Policy} {a0 : BitVec 64} (hp : s.policy slot.val = some p) (hr : p.running ≠ none)
include hp hr

theorem exec_polCounters (ha : a0.toNat + 40 ≤ 2 ^ 20) : ∃ l u, exec (.polCounters slot a0) s =
      .next ((State.setPolicy u slot.val (some { p with sram := sramCopy p.sram a0.toNat (toLe 8 (s.parcel p.parcel).admitted ++ l) })).setPolicy slot.val
        (some { p with sram := sramCopy p.sram a0.toNat (toLe 8 (s.parcel p.parcel).admitted ++ l), a0 := 0 })) ∧
    l.length = 32 ∧ (u.parcel p.parcel).admitted = 0 ∧ (u.parcel p.parcel).endedLate = 0 ∧ ∀ k, k ≠ p.parcel → u.parcel k = s.parcel k := by
  obtain ⟨l, u, hw, hl, hu, h1, h2, h3⟩ := readWords_parcel s p.parcel
  have hup : u.policy slot.val = some p := by
    unfold State.policy
    rw [hu]
    exact hp
  refine ⟨l, u, congrArg Host.Outcome.next (polCall_of_running hp hr ?_ (setPolicy_same _)), hl, h1, h2, h3⟩
  dsimp only
  rw [if_neg (Nat.not_lt.mpr ha), hw]
  exact polCopy_fits _ _ hup (by rwa [List.length_append, toLe_length, hl])

theorem exec_polCounters_refused (ha : 2 ^ 20 < a0.toNat + 40) :
    exec (.polCounters slot a0) s = .next (s.setPolicy slot.val (some { p with a0 := 0x0105 })) :=
  congrArg Host.Outcome.next (polCall_of_running hp hr (if_pos ha) hp)

theorem exec_polPlots (ha : a0.toNat + 1024 ≤ 2 ^ 20) : exec (.polPlots slot a0) s =
    .next ((s.setPolicy slot.val (some { p with sram := sramCopy p.sram a0.toNat (s.plotsRecord p.parcel) })).setPolicy slot.val
      (some { p with sram := sramCopy p.sram a0.toNat (s.plotsRecord p.parcel), a0 := 0 })) :=
  congrArg Host.Outcome.next (polCall_of_running hp hr (polCopy_fits _ _ hp (by rwa [plotsRecord_length])) (setPolicy_same _))

theorem exec_polPlots_refused (ha : 2 ^ 20 < a0.toNat + 1024) :
    exec (.polPlots slot a0) s = .next (s.setPolicy slot.val (some { p with a0 := 0x0105 })) :=
  congrArg Host.Outcome.next (polCall_of_running hp hr (polCopy_refused _ _ hp (by rwa [plotsRecord_length])) hp)

end

theorem exec_policyBudgetOverrun_stopped (slot : Fin 4) {s : State} (h : s.policy slot.val = none ∨ ∃ p, s.policy slot.val = some p ∧ p.running = none) :
    exec (.policyBudgetOverrun slot) s = .next s := by
  show Host.Outcome.next (match s.policy slot.val with | none => s | some p => _) = _
  obtain h | ⟨p, hp, hr⟩ := h
  · rw [h]
  · rw [hp]
    exact congrArg Host.Outcome.next (if_pos (by rw [hr]; rfl))

/-- Settles O41: an invocation by what its module runs, a call by whether it lies within its parcel, arbiter or SRAM. -/
theorem policiesAreInvokedAndCall : Obligations.PoliciesAreInvokedAndCall := by
  unfold Obligations.PoliciesAreInvokedAndCall
  refine ⟨?tick, ?tickQueued, ?tickDropped, ?starve, ?step, fun slot _ s _ _ hp hz he => exec_policyStep_other slot s hp hz he, ?overrun, ?share, ?preempt,
    ?preemptStale, ?weight, ?counters, ?plots, ?done, ?tickNone, fun slot _ s _ hp hs hn => exec_policyStarve slot s hp hs hn,
    fun slot _ s h => exec_policyStarve_far slot s h, fun slot _ s _ _ hp hz he => exec_policyStep slot s hp hz he,
    fun slot _ s h => exec_policyStep_none slot s h, fun _ entry arg _ _ hp he hr hh => polInvoke_idle entry arg hp he hr hh,
    fun _ entry arg _ _ hp he h hq => polInvoke_queued entry arg hp he h hq, fun _ entry arg _ _ hp he h hq => polInvoke_dropped entry arg hp he h hq,
    fun _ entry arg _ _ hp he => polInvoke_disabled entry arg hp he, ?stopped, fun slot _ _ _ _ hp hr hm ho => exec_polPreempt_other slot hp hr hm ho,
    fun slot _ _ w _ _ hp hr h => exec_polWeight_refused slot hp hr w h, fun slot _ _ _ hp hr ha => exec_polCounters_refused slot hp hr ha,
    fun slot _ _ _ hp hr ha => exec_polPlots_refused slot hp hr ha, ?doneHalted⟩
  case tick =>
    intro slot t s p hp he hr hh
    exact ⟨_, congrArg Host.Outcome.next (polInvoke_idle (s := s.at' t) 0 0 hp he hr hh), setPolicy_same _, setPolicy_other _, rfl, rfl⟩
  case tickQueued =>
    intro slot t s p hp he h hq
    exact ⟨_, congrArg Host.Outcome.next (polInvoke_queued (s := s.at' t) 0 0 hp he h hq), setPolicy_same _, setPolicy_other _⟩
  case tickDropped =>
    intro slot t s p hp he h hq
    exact ⟨_, congrArg Host.Outcome.next (polInvoke_dropped (s := s.at' t) 0 0 hp he h hq), setPolicy_same _, setPolicy_other _⟩
  case starve =>
    intro slot arb s p hp he hr hs hn hh
    exact ⟨_, (exec_policyStarve slot s hp hs hn).trans (congrArg _ (polInvoke_idle 1 arb.val hp he hr hh)), setPolicy_same _, setPolicy_other _⟩
  case step =>
    intro slot lead s p z hp he hr hz ho hh
    exact ⟨_, (exec_policyStep slot s hp hz ho).trans (congrArg _ (polInvoke_idle 2 lead.val hp he hr hh)), setPolicy_same _, setPolicy_other _⟩
  case overrun =>
    intro slot s p hp hr
    refine ⟨_, exec_policyBudgetOverrun slot hp hr, ?_, fun i hi => ?_, post_next (s.setPolicy slot.val none) ..⟩
    · rw [post_policy, setPolicy_same]
    · rw [post_policy, setPolicy_other _ i hi]
  case share =>
    intro slot lo hi s p hp hr
    refine ⟨_, exec_polShare slot hp hr lo hi, setPolicy_same _, ?_, fun n hn => ?_⟩
    · rw [State.setPolicy_parcel, State.updParcel_parcel_at, if_pos rfl]
    · rw [State.setPolicy_parcel, State.updParcel_parcel_at, if_neg hn.symm]
  case preempt =>
    intro slot model s p m hp hr hm ho
    exact ⟨_, exec_polPreempt slot hp hr hm ho, setPolicy_same _, rfl⟩
  case preemptStale =>
    intro slot model s p hp hr hm
    exact ⟨_, exec_polPreempt_stale slot hp hr hm, setPolicy_same _, rfl⟩
  case weight =>
    intro slot arb r w s p hp hr ha hq
    refine ⟨_, exec_polWeight slot w hp hr ha hq, setPolicy_same _, ?_, fun k hk => ?_, fun a hna => ?_,
      post_next (s.updArb arb.toNat _) ..⟩
    · rw [State.setPolicy_arb, post_arb, State.updArb_arb_at, if_pos rfl]
      exact SMap.get_set_same ..
    · rw [State.setPolicy_arb, post_arb, State.updArb_arb_at, if_pos rfl]
      exact SMap.get_set_other _ _ _ _ _ hk
    · rw [State.setPolicy_arb, post_arb, State.updArb_arb_at, if_neg hna.symm]
  case counters =>
    intro slot a0 s p hp hr ha
    obtain ⟨l, u, he, hl, h1, h2, h3⟩ := exec_polCounters slot hp hr ha
    refine ⟨_, _, he, setPolicy_same _, rfl, fun i hi => ?_, fun i hi => ?_, h1, h2, h3⟩
    · rw [sramCopy_inside _ _ (by rw [List.length_append, toLe_length, hl]; omega), List.getD_append _ _ _ _ (by rwa [toLe_length])]
    · exact sramCopy_outside _ (by rwa [List.length_append, toLe_length, hl])
  case plots =>
    intro slot a0 s p hp hr ha
    refine ⟨_, _, exec_polPlots slot hp hr ha, setPolicy_same _, rfl, rfl, fun b z hb hz ho => ?_, fun b z hb hz ho h0 => ?_, fun i hi => ?_⟩
    · rw [sramCopy_inside _ _ (by rw [plotsRecord_length]; omega), plotsRecord_getD s _ hb, plotBytes_own hz ho]
    · rw [sramCopy_inside _ _ (by rw [plotsRecord_length]; omega), plotsRecord_getD s _ hb, plotBytes_other hz ho h0]
    · exact sramCopy_outside _ (by rwa [plotsRecord_length])
  case done =>
    intro slot s p hp hr hh
    refine ⟨_, _, exec_polDone slot hp hr hh, setPolicy_same _, rfl, rfl, rfl, fun i hi => ?_⟩
    rw [setPolicy_other _ i hi, setPolicy_other _ i hi]
  case tickNone =>
    rintro slot t s (h | ⟨p, hp, he⟩)
    · exact congrArg Host.Outcome.next (polInvoke_none (s := s.at' t) 0 0 h)
    · exact congrArg Host.Outcome.next (polInvoke_disabled (s := s.at' t) 0 0 hp he)
  case stopped =>
    intro slot a b c s h
    exact ⟨exec_policyBudgetOverrun_stopped slot h, congrArg Host.Outcome.next (polCall_of_stopped _ h),
      congrArg Host.Outcome.next (polCall_of_stopped _ h), congrArg Host.Outcome.next (polCall_of_stopped _ h),
      congrArg Host.Outcome.next (polCall_of_stopped _ h), congrArg Host.Outcome.next (polCall_of_stopped _ h),
      congrArg Host.Outcome.next (polCall_of_stopped _ h)⟩
  case doneHalted =>
    intro slot s p hp hr hh
    refine ⟨_, exec_polDone_halted slot hp hr hh, setPolicy_same _, fun i hi => ?_⟩
    rw [setPolicy_other _ i hi, setPolicy_other _ i hi]

end Sys2Proof.Machine
end

section
/-! SUPPORT. Firmware and signatures (R470 to R477): the end of staging, cores that switch or go back, signatures and answers over I3C, with the
statement of chapter 17 on them. -/

namespace Sys2Proof.Machine

/-! Duties of the cores. -/

/-- A run over the cores changes the cores only. -/
theorem foldl_updCore_eq (f : Nat → State → HgCore → HgCore) (l : List Nat) (t : State) :
    ∃ cs, l.foldl (fun (s : State) c => s.updCore c (f c s)) t = { t with cores := cs } := by
  induction l generalizing t with
  | nil => exact ⟨t.cores, rfl⟩
  | cons c l ih =>
    obtain ⟨cs, h⟩ := ih (t.updCore c (f c t))
    exact ⟨cs, h⟩

section
variable (s : State)

/-- Duties that are assigned anew change the cores' duties only. -/
theorem assignDuties_core (stopped : List Nat) (c : Nat) :
    ∃ d, (s.assignDuties stopped).core c = { s.core c with duties := d } ∧ (s.assignDuties stopped).power = s.power := by
  have hl (l : List Nat) (t : State) : ∃ d, (l.foldl (fun (t : State) c => t.updCore c (fun k => { k with
      duties := ([0, 1, 2, 3] : List Nat).foldl (fun n d => n + bitAt (s.dutyHome stopped d == c) d) 0 })) t).core c = { t.core c with duties := d } ∧
      (l.foldl (fun (t : State) c => t.updCore c (fun k => { k with
      duties := ([0, 1, 2, 3] : List Nat).foldl (fun n d => n + bitAt (s.dutyHome stopped d == c) d) 0 })) t).power = t.power := by
    induction l generalizing t with
    | nil => exact ⟨(t.core c).duties, rfl, rfl⟩
    | cons x l ih =>
      rw [List.foldl_cons]
      obtain ⟨d, hd, hp⟩ := ih (t.updCore x _)
      rw [State.updCore_core_at] at hd
      by_cases hx : x = c
      · subst hx
        rw [if_pos rfl] at hd
        exact ⟨d, hd, hp⟩
      · rw [if_neg hx] at hd
        exact ⟨d, hd, hp⟩
  exact hl _ s

end

section
variable (s : State)

/-! The security block. -/

/-- An event of the security block is signalled, and changes the interrupt controller beside it. -/
theorem secEvent_eq (i : Nat) : ∃ h, s.secEvent i = { s with sec := { s.sec with event := setBitN s.sec.event i }, hic := h } ∧ h.pend.getLsbD 6 = true := by
  refine ⟨(s.secEvent i).hic, rfl, ?_⟩
  unfold State.secEvent
  rw [signal_pend _ (by decide), decide_eq_true rfl, Bool.or_true]

theorem other_ne_bank (x : Sec) : x.other ≠ x.bank := one_sub_mod_two_ne _

/-- The end of staging is recorded before it is signalled and answered. -/
theorem endStaging_eq (g : Staging) (status version : Nat) : ∃ u m b, u = { s with sec := { s.sec with staging := none }, mail := m, book := b } ∧
    b.next = s.book.next + 1 ∧ s.endStaging g status version = (if status = 0 then u else u.secEvent 1).complete g.waiter status [] := by
  obtain ⟨m, b, h⟩ := (s.updSec (fun x => { x with staging := none })).post_eq false 0x0E 0x03 status 0xFFFF 1 (BitVec.ofNat 64 version)
  have hn := post_next (s.updSec (fun x => { x with staging := none })) false 0x0E 0x03 status 0xFFFF 1 (BitVec.ofNat 64 version)
  rw [h] at hn
  exact ⟨_, m, b, h, hn, rfl⟩

/-- The end of staging, in success. -/
theorem endStaging_ok_eq (g : Staging) (version : Nat) :
    ∃ m b, s.endStaging g 0 version = { s with sec := { s.sec with staging := none }, mail := m, book := b } ∧ b.next = s.book.next + 1 := by
  obtain ⟨u, m, b, hu, hn, he⟩ := endStaging_eq s g 0 version
  obtain ⟨m', hc⟩ := u.complete_eq g.waiter 0 []
  exact ⟨m', b, by rw [he, if_pos rfl, hc, hu], hn⟩

/-- The end of staging, in failure. -/
theorem endStaging_failed_eq (g : Staging) (version : Nat) {status : Nat} (hst : status ≠ 0) :
    ∃ m b h, s.endStaging g status version =
      { s with sec := { s.sec with staging := none, event := setBitN s.sec.event 1 }, mail := m, book := b, hic := h } ∧
      b.next = s.book.next + 1 ∧ h.pend.getLsbD 6 = true := by
  obtain ⟨u, m, b, hu, hn, he⟩ := endStaging_eq s g status version
  obtain ⟨k, hk, hp⟩ := secEvent_eq u 1
  obtain ⟨m', hc⟩ := (u.secEvent 1).complete_eq g.waiter status []
  exact ⟨m', b, k, by rw [he, if_neg hst, hc, hk, hu], hn, hp⟩

end

section
variable {t : Nat} {s : State} {g : Staging} {l : Bytes} {same : Bool}

theorem exec_staging_none {image : Option Bytes} (h : s.sec.staging = none) : exec (.firmwareStagingComplete image same t) s = .next (s.at' t) := by
  show Host.Outcome.next (match s.sec.staging, image with | none, _ => _ | some g, none => _ | some g, some l => _) = _
  rw [h]

theorem exec_staging_failed (h : s.sec.staging = some g) :
    exec (.firmwareStagingComplete none same t) s = .next ((s.at' t).endStaging g 0x0302 0) := by
  show Host.Outcome.next (match s.sec.staging, (none : Option Bytes) with | none, _ => _ | some g, none => _ | some g, some l => _) = _
  rw [h]

/-- The bank that does not run takes an image, or is left empty where it reads back different. -/
def State.stageBank (s : State) (l : Bytes) (same : Bool) : State :=
  s.updSec (fun x => { x with banks := SMap.set FwBank.clear x.banks x.other (if same then ⟨l, 0⟩ else FwBank.clear) })

/-- What the end of the fetch of an image does, by the checks of the image. -/
theorem exec_staging (h : s.sec.staging = some g) : exec (.firmwareStagingComplete (some l) same t) s = .next (
    if l.length ≠ g.len then (s.at' t).endStaging g 0x0302 (leAt l 8 4)
    else if leAt l 0 4 = 0x4C4F5050 then
      ((((s.at' t).doPolicy (some l) g.len).1.updSec (fun x => { x with staging := none })).complete g.waiter ((s.at' t).doPolicy (some l) g.len).2 [])
    else if s.sec.stageStatus l g.len ≠ 0 then (s.at' t).endStaging g (s.sec.stageStatus l g.len) (leAt l 8 4)
    else ((s.at' t).stageBank l same).endStaging g (if same then 0 else 0x0303) (leAt l 8 4)) := by
  show Host.Outcome.next (match s.sec.staging, some l with | none, _ => _ | some g, none => _ | some g, some l => _) = _
  rw [h]
  rfl

theorem exec_staging_length (h : s.sec.staging = some g) (hl : l.length ≠ g.len) : exec (.firmwareStagingComplete (some l) same t) s =
    .next ((s.at' t).endStaging g 0x0302 (leAt l 8 4)) := by
  rw [exec_staging h, if_pos hl]

theorem exec_staging_policy (h : s.sec.staging = some g) (hl : l.length = g.len) (hm : leAt l 0 4 = 0x4C4F5050) :
    exec (.firmwareStagingComplete (some l) same t) s = .next
      ((((s.at' t).doPolicy (some l) g.len).1.updSec (fun x => { x with staging := none })).complete g.waiter ((s.at' t).doPolicy (some l) g.len).2 []) := by
  rw [exec_staging h, if_neg (not_not_intro hl), if_pos hm]

theorem exec_staging_bad (h : s.sec.staging = some g) (hl : l.length = g.len) (hm : leAt l 0 4 ≠ 0x4C4F5050) (hst : s.sec.stageStatus l g.len ≠ 0) :
    exec (.firmwareStagingComplete (some l) same t) s = .next ((s.at' t).endStaging g (s.sec.stageStatus l g.len) (leAt l 8 4)) := by
  rw [exec_staging h, if_neg (not_not_intro hl), if_neg hm, if_pos hst]

theorem exec_staging_good (h : s.sec.staging = some g) (hl : l.length = g.len) (hm : leAt l 0 4 ≠ 0x4C4F5050) (hst : s.sec.stageStatus l g.len = 0) :
    exec (.firmwareStagingComplete (some l) same t) s =
      .next (((s.at' t).stageBank l same).endStaging g (if same then 0 else 0x0303) (leAt l 8 4)) := by
  rw [exec_staging h, if_neg (not_not_intro hl), if_neg hm, if_neg (not_not_intro hst)]

/-- An image that fails one of the checks of Table 17-3 has another status than 0. -/
theorem stageStatus_ne_zero {x : Sec} {len : Nat}
    (h : fwHeadOk l = false ∨ fwSigned l = false ∨ leAt l 0x10 4 ≠ len ∨ leAt l 7 1 < x.floor ∨ 1 < leAt l 6 1) : x.stageStatus l len ≠ 0 := by
  unfold Sec.stageStatus
  by_cases h1 : (fwHeadOk l && decide (leAt l 0x10 4 = len)) = true
  · obtain ⟨hhead, hlen⟩ := Bool.and_eq_true_iff.mp h1
    rw [h1, Bool.not_true, if_neg Bool.false_ne_true]
    by_cases h2 : fwSigned l = true
    · rw [h2, Bool.not_true, if_neg Bool.false_ne_true]
      have h3 : ¬ (leAt l 6 1 ≤ 1 ∧ x.floor ≤ leAt l 7 1 ∧ leAt l 7 1 ≤ 64 ∧ leAt l 0xE 2 ≤ leAt (x.fw x.bank).image 0xC 2) := by
        rintro ⟨ht, hf, -, -⟩
        obtain h | h | h | h | h := h
        · rw [hhead] at h; cases h
        · rw [h2] at h; cases h
        · exact h (decide_eq_true_iff.mp hlen)
        · exact Nat.not_lt.mpr hf h
        · exact Nat.not_lt.mpr ht h
      rw [decide_eq_false h3, Bool.not_false, if_pos rfl]
      decide
    · rw [Bool.not_eq_true] at h2
      rw [h2, Bool.not_false, if_pos rfl]
      decide
  · rw [Bool.not_eq_true] at h1
    rw [h1, Bool.not_false, if_pos rfl]
    decide

/-- A policy image changes the policies only (R413). -/
theorem doPolicy_eq (s : State) (f : Option Bytes) (len : Nat) : ∃ p, (s.doPolicy f len).1 = { s with policies := p } := by
  unfold State.doPolicy
  cases f with
  | none => exact ⟨s.policies, rfl⟩
  | some l =>
    dsimp only
    repeat' split
    all_goals exact ⟨_, rfl⟩

end

/-! Cores that switch and go back (R471 to R473). -/

section
variable (s : State)

/-- A core that starts from a bank: its bank, its address and its interrupts. -/
theorem startCore_core (c bank i : Nat) : (s.startCore c bank).core i = if c = i then { s.core c with
    mie := false, meie := false, mpie := false, pc := 0, heartbeat := s.now, bank := bank } else s.core i := by
  unfold State.startCore State.resetCore
  dsimp only
  by_cases h : c = i
  · subst h
    rw [if_pos rfl, State.updCore_core_at, if_pos rfl, State.updCore_core_at, if_pos rfl]
    rfl
  · rw [if_neg h, State.updCore_core_at, if_neg h, State.updCore_core_at, if_neg h]
    rfl

theorem startCore_eq (c bank : Nat) : ∃ cs a, s.startCore c bank = { s with cores := cs, hic := { s.hic with active := a } } := ⟨_, _, rfl⟩

theorem nextCore_congr {s t : State} (h : ∀ c, (t.core c).running = (s.core c).running ∧ (t.core c).held = (s.core c).held) (l : List Nat) :
    t.nextCore l = s.nextCore l := by
  unfold State.nextCore
  refine congrArg (fun p => l.find? p) (funext fun c => ?_)
  rw [(h c).1, (h c).2]

/-- Starting a core leaves which cores run. -/
theorem startCore_running (c bank i : Nat) :
    ((s.startCore c bank).core i).running = (s.core i).running ∧ ((s.startCore c bank).core i).held = (s.core i).held := by
  rw [startCore_core]
  split
  next h => subst h; exact ⟨rfl, rfl⟩
  · exact ⟨rfl, rfl⟩

theorem assignDuties_eq (stopped : List Nat) : ∃ cs, s.assignDuties stopped = { s with cores := cs } :=
  foldl_updCore_eq (fun c _ k => { k with duties := ([0, 1, 2, 3] : List Nat).foldl (fun n d => n + bitAt (s.dutyHome stopped d == c) d) 0 }) [0, 1, 2, 3] s

/-- A core that is home to no duty has none. -/
theorem assignDuties_none (stopped : List Nat) {c : Nat} (hc : c < 4) (h : ∀ d, d < 4 → s.dutyHome stopped d ≠ c) :
    ((s.assignDuties stopped).core c).duties = 0 := by
  have hz : ([0, 1, 2, 3] : List Nat).foldl (fun n d => n + bitAt (s.dutyHome stopped d == c) d) 0 = 0 := by
    have hb (d : Nat) (hd : d < 4) : bitAt (s.dutyHome stopped d == c) d = 0 := by
      rw [beq_eq_false_iff_ne.mpr (h d hd)]
      rfl
    simp only [List.foldl_cons, List.foldl_nil, hb 0 (by decide), hb 1 (by decide), hb 2 (by decide), hb 3 (by decide)]
  unfold State.assignDuties
  simp only [List.foldl_cons, List.foldl_nil, State.updCore_core_at]
  interval_cases c <;> exact hz

/-- A core that is stopped is home to no duty while another runs. -/
theorem dutyHome_ne {c x : Nat} (hx : x < 4) (hr : (s.core x).running = true) (hh : (s.core x).held = false) (hxc : x ≠ c) (d : Nat) :
    s.dutyHome [c] d ≠ c := by
  unfold State.dutyHome
  extract_lets live
  have hdead : live c = false := by
    show ((s.core c).running && !(s.core c).held && !List.contains [c] c) = false
    rw [List.contains_iff_mem.mpr List.mem_cons_self, Bool.not_true, Bool.and_false]
  have hlive : live x = true := by
    show ((s.core x).running && !(s.core x).held && !List.contains [c] x) = true
    rw [hr, hh, Bool.eq_false_iff.mpr (fun h => hxc (List.mem_singleton.mp (List.contains_iff_mem.mp h)))]
    rfl
  have hne {y : Nat} (hy : live y = true) : y ≠ c := fun h => Bool.false_ne_true (hdead.symm.trans (h ▸ hy))
  by_cases hd : live d = true
  · rw [if_pos hd]
    exact hne hd
  · rw [if_neg hd]
    cases hf : ([0, 1, 2, 3] : List Nat).find? live with
    | none => exact absurd hlive (List.find?_eq_none.mp hf x (List.mem_range.mpr hx))
    | some y => exact hne (List.find?_some hf)

/-- The module after a policy module resumes: its policies. -/
theorem resumePolicy_eq (i : Nat) : ∃ p, s.resumePolicy i = { s with policies := p } := by
  unfold State.resumePolicy
  split
  · split
    · exact ⟨_, rfl⟩
    · exact ⟨_, rfl⟩
  · exact ⟨_, rfl⟩

end

section
variable {s : State} {t : Nat} {a : Activation}

/-- The cores that can switch behind a core, in the order in which they do. -/
def Activation.rest (a : Activation) : List Nat := ([3, 2, 1, 0] : List Nat).filter (fun c => decide (c < a.core))

theorem exec_switched_none (h : s.sec.activation = none) : exec (.activationCoreSwitched t) s = .next (s.at' t) := by
  show Host.Outcome.next (match s.sec.activation with | none => _ | some a => _) = _
  rw [h]

theorem exec_undo_none (h : s.sec.activation = none) : exec (.activationUndo t) s = .next (s.at' t) := by
  show Host.Outcome.next (match s.sec.activation with | none => _ | some a => _) = _
  rw [h]

theorem startCore_nextCore (s : State) (c bank : Nat) (l : List Nat) : (s.startCore c bank).nextCore l = s.nextCore l :=
  nextCore_congr (fun i => startCore_running s c bank i) l

theorem exec_switched_next {c : Nat} (h : s.sec.activation = some a) (hn : s.nextCore a.rest = some c) : exec (.activationCoreSwitched t) s = .next
    (((((s.at' t).startCore a.core s.sec.other).updSec (fun x => { x with activation := some ⟨c, a.switched ++ [a.core], a.waiter⟩ })).assignDuties [c]).resumePolicy
      a.core) := by
  show Host.Outcome.next (match s.sec.activation with | none => _ | some a => _) = _
  rw [h]
  show Host.Outcome.next (match ((s.at' t).startCore a.core s.sec.other).nextCore a.rest with | some c => _ | none => _) = _
  rw [startCore_nextCore, show (s.at' t).nextCore a.rest = s.nextCore a.rest from rfl, hn]
  rfl

theorem exec_switched_last (h : s.sec.activation = some a) (hn : s.nextCore a.rest = none) : exec (.activationCoreSwitched t) s = .next
    ((((s.at' t).startCore a.core s.sec.other).finishActivation a.waiter).resumePolicy a.core) := by
  show Host.Outcome.next (match s.sec.activation with | none => _ | some a => _) = _
  rw [h]
  show Host.Outcome.next (match ((s.at' t).startCore a.core s.sec.other).nextCore a.rest with | some c => _ | none => _) = _
  rw [startCore_nextCore, show (s.at' t).nextCore a.rest = s.nextCore a.rest from rfl, hn]
  rfl

/-- The floor after an activation of the bank that does not run. -/
def Sec.newFloor (x : Sec) : Nat :=
  if bitB (leAt (x.fw x.other).image 0x14 1) 0 then max x.floor (leAt (x.fw x.other).image 7 1) else x.floor

theorem floor_le_newFloor (x : Sec) : x.floor ≤ x.newFloor := by
  unfold Sec.newFloor
  split
  · exact Nat.le_max_left ..
  · exact Nat.le_refl _

/-- The security block after the last switch. -/
def Sec.activated (x : Sec) : Sec := { x with
  banks := SMap.set FwBank.clear x.banks x.other ⟨(x.fw x.other).image, (x.fw x.bank).actSeq + 1⟩, bank := x.other, floor := x.newFloor, activation := none }

/-- Every core runs from a bank. -/
def State.allFrom (s : State) (b : Nat) : State := ([0, 1, 2, 3] : List Nat).foldl (fun (s : State) c => s.updCore c (fun k => { k with bank := b })) s

theorem allFrom_eq (s : State) (b : Nat) : ∃ cs, s.allFrom b = { s with cores := cs } ∧ ∀ c, c < 4 → (SMap.get HgCore.reset cs c).bank = b := by
  have hbank (c : Nat) (h : c < 4) : ((s.allFrom b).core c).bank = b := by
    simp only [State.allFrom, List.foldl_cons, List.foldl_nil, State.updCore_core_at]
    interval_cases c <;> rfl
  obtain ⟨cs, h⟩ : ∃ cs, s.allFrom b = { s with cores := cs } := foldl_updCore_eq (fun _ _ k => { k with bank := b }) [0, 1, 2, 3] s
  rw [h] at hbank
  exact ⟨cs, h, hbank⟩

theorem finishActivation_eq (s : State) (w : Waiter) : s.finishActivation w =
    (((if decide (s.sec.floor < s.sec.newFloor) then ((s.updSec Sec.activated).allFrom s.sec.other).secEvent 0
      else (s.updSec Sec.activated).allFrom s.sec.other).assignDuties []).post false 0x0E 0x04 0 0xFFFF 2
        (BitVec.ofNat 64 (leAt (s.sec.fw s.sec.other).image 8 4 + s.sec.newFloor * 2 ^ 32))).complete w 0 [] := rfl

/-- What the last switch leaves: the new bank runs with its activation number, and the floor does not fall. -/
theorem finishActivation_facts (s : State) (w : Waiter) : ∃ ev, (s.finishActivation w).sec = { s.sec.activated with event := ev } ∧
    (∀ c, c < 4 → ((s.finishActivation w).core c).bank = s.sec.other) ∧ (s.finishActivation w).book.next = s.book.next + 1 := by
  obtain ⟨cs, hall, hbank⟩ := allFrom_eq (s.updSec Sec.activated) s.sec.other
  rw [finishActivation_eq, hall]
  generalize BitVec.ofNat 64 _ = d
  obtain ⟨u, hu, ⟨ev, hev⟩, hcu, hbu⟩ : ∃ u : State, (if decide (s.sec.floor < s.sec.newFloor) then
      ({ s.updSec Sec.activated with cores := cs } : State).secEvent 0 else { s.updSec Sec.activated with cores := cs }) = u ∧
      (∃ ev, u.sec = { s.sec.activated with event := ev }) ∧ u.cores = cs ∧ u.book = s.book := by
    split
    · exact ⟨_, rfl, ⟨_, rfl⟩, rfl, rfl⟩
    · exact ⟨_, rfl, ⟨_, rfl⟩, rfl, rfl⟩
  rw [hu]
  obtain ⟨ds, hds⟩ := assignDuties_eq u []
  obtain ⟨m, b, hp⟩ := (u.assignDuties []).post_eq false 0x0E 0x04 0 0xFFFF 2 d
  have hn := post_next (u.assignDuties []) false 0x0E 0x04 0 0xFFFF 2 d
  obtain ⟨m', hc⟩ := ((u.assignDuties []).post false 0x0E 0x04 0 0xFFFF 2 d).complete_eq w 0 []
  rw [hp] at hn hc
  rw [hp, hc]
  refine ⟨ev, ?_, fun c h => ?_, hn.trans ?_⟩
  · rw [hds]
    exact hev
  · obtain ⟨k, hk, -⟩ := assignDuties_core u [] c
    show ((u.assignDuties []).core c).bank = s.sec.other
    rw [hk]
    show (SMap.get HgCore.reset u.cores c).bank = s.sec.other
    rw [hcu]
    exact hbank c h
  · rw [hds]
    exact congrArg (fun b : FieldBook => b.next + 1) hbu

/-- Cores that start again from a bank. -/
theorem foldl_startCore (l : List Nat) (s : State) : ∃ cs x, l.foldl (fun (s : State) c => s.startCore c s.sec.bank) s =
      { s with cores := cs, hic := { s.hic with active := x } } ∧
    ∀ c, (c ∈ l ∨ ((s.core c).bank = s.sec.bank ∧ (s.core c).pc = 0)) →
      (SMap.get HgCore.reset cs c).bank = s.sec.bank ∧ (SMap.get HgCore.reset cs c).pc = 0 := by
  induction l generalizing s with
  | nil => exact ⟨s.cores, s.hic.active, rfl, fun c h => h.resolve_left List.not_mem_nil⟩
  | cons x l ih =>
    obtain ⟨cs, y, he, hc⟩ := ih (s.startCore x s.sec.bank)
    refine ⟨cs, y, he, fun c h => hc c ?_⟩
    rw [startCore_core]
    by_cases hx : x = c
    · rw [if_pos hx]
      exact .inr ⟨rfl, rfl⟩
    · rw [if_neg hx]
      exact h.imp_left fun h => List.mem_of_ne_of_mem (Ne.symm hx) h

/-- The cores that have switched, and the one that does, start again from the bank that runs. -/
def State.goneBack (s : State) (a : Activation) : State := (a.core :: a.switched.reverse).foldl (fun (s : State) c => s.startCore c s.sec.bank) s

theorem exec_undo (h : s.sec.activation = some a) : exec (.activationUndo t) s = .next
    ((((((((s.at' t).goneBack a).updSec (fun x => { x with activation := none })).assignDuties []).secEvent 2).post false 0x0E 0x05 0x0102 0xFFFF 2
      (BitVec.ofNat 64 a.core)).event a.waiter.parcel 1 a.waiter.op a.waiter.seq 0x0102 a.waiter.obj [BitVec.ofNat 8 a.core] a.waiter.dest).resumePolicy a.core) := by
  show Host.Outcome.next (match s.sec.activation with | none => _ | some a => _) = _
  rw [h]
  rfl

/-- What an undo leaves of the security block, the cores and the field book. -/
theorem undo_facts (h : s.sec.activation = some a) : ∃ y : State, exec (.activationUndo t) s = .next y ∧
    y.sec = { s.sec with activation := none, event := setBitN s.sec.event 2 } ∧
    (∀ c, c ∈ a.core :: a.switched → (y.core c).bank = s.sec.bank ∧ (y.core c).pc = 0) ∧ y.book.next = s.book.next + 1 := by
  obtain ⟨cs, x, hb, hc⟩ := foldl_startCore (a.core :: a.switched.reverse) (s.at' t)
  rw [exec_undo h, State.goneBack, hb]
  generalize hu : State.updSec _ _ = u
  have hsec : u.sec = { s.sec with activation := none } := by rw [← hu]; rfl
  have hcore (c : Nat) (hm : c ∈ a.core :: a.switched) : (u.core c).bank = s.sec.bank ∧ (u.core c).pc = 0 := by
    rw [← hu]
    exact hc c (.inl (by rw [List.mem_cons, List.mem_reverse]; exact List.mem_cons.mp hm))
  have hbook : u.book = s.book := by rw [← hu]; rfl
  obtain ⟨v, hv, hvs, hvc, hvb⟩ : ∃ v, ((u.assignDuties []).secEvent 2).post false 0x0E 0x05 0x0102 0xFFFF 2 (BitVec.ofNat 64 a.core) = v ∧
      v.sec = { s.sec with activation := none, event := setBitN s.sec.event 2 } ∧ v.cores = (u.assignDuties []).cores ∧ v.book.next = s.book.next + 1 := by
    obtain ⟨ds, hds⟩ := assignDuties_eq u []
    obtain ⟨m, b, hp⟩ := ((u.assignDuties []).secEvent 2).post_eq false 0x0E 0x05 0x0102 0xFFFF 2 (BitVec.ofNat 64 a.core)
    have hn := post_next ((u.assignDuties []).secEvent 2) false 0x0E 0x05 0x0102 0xFFFF 2 (BitVec.ofNat 64 a.core)
    refine ⟨_, rfl, ?_, by rw [hp]; rfl, ?_⟩
    · rw [hp, hds]
      show ({ u.sec with event := setBitN u.sec.event 2 } : Sec) = _
      rw [hsec]
    · rw [hn, hds]
      exact congrArg (fun b : FieldBook => b.next + 1) hbook
  rw [hv]
  obtain ⟨m, he⟩ := v.event_eq a.waiter.parcel 1 a.waiter.op a.waiter.seq 0x0102 a.waiter.obj [BitVec.ofNat 8 a.core] a.waiter.dest
  rw [he]
  obtain ⟨p, hp⟩ := resumePolicy_eq { v with mail := m } a.core
  rw [hp]
  refine ⟨_, rfl, hvs, fun c hm => ?_, hvb⟩
  obtain ⟨d, hd, -⟩ := assignDuties_core u [] c
  show (SMap.get HgCore.reset v.cores c).bank = s.sec.bank ∧ (SMap.get HgCore.reset v.cores c).pc = 0
  rw [hvc]
  show ((u.assignDuties []).core c).bank = s.sec.bank ∧ ((u.assignDuties []).core c).pc = 0
  rw [hd]
  exact hcore c hm

end

/-! Signatures (R477). -/

section
variable {s : State} {t : Nat} {j : SignJob} {l : List SignJob}

/-- A signature that is made leaves the queue, is counted, and takes a free value. -/
def State.signed (s : State) (l : List SignJob) : State := (s.updSec (fun x => { x with signs := l, signCnt := satAdd 32 x.signCnt 1 })).tick 1

theorem exec_signature (h : s.sec.signs = j :: l) : exec (.signatureComplete t) s = .next (match (s.box j.req.mail.parcel.toNat).key with
    | none => (s.at' t).signed l
    | some key => ((s.at' t).signed l).respond key false s.mail.out.length j.req 0 (j.body ++ toLe 512 (Config.freeWord4096 s.free).toNat)) := by
  show Host.Outcome.next (match s.sec.signs with | [] => _ | j :: l => _) = _
  rw [h]
  rfl

/-- A response at the end of what was sent, and the requester's mailbox. -/
theorem respond_last_eq (s : State) (key : Bytes) (zero : Bool) {n : Nat} (hn : s.mail.out.length = n) (r : EdReq) (status : Nat) (payload : Bytes) :
    ∃ tag b, s.respond key zero n r status payload = (({ s with mail := { s.mail with out := s.mail.out ++
      [⟨⟨r.mail.srcIp, r.mail.srcUdp, r.mail.port.val⟩, edHead 1 r.op r.mail.parcel.toNat r.mail.seq.toNat payload.length status ++ tag ++ payload⟩] } } : State).setBox
        r.mail.parcel.toNat b) := by
  subst hn
  unfold State.respond
  dsimp only
  rw [List.take_length, List.drop_length, List.append_nil]
  exact ⟨_, _, rfl⟩

/-- The request number of a head (R356). -/
theorem edHead_seq (hflags op parcel len status : Nat) (seq : BitVec 32) (tag payload : Bytes) :
    leAt (edHead hflags op parcel seq.toNat len status ++ tag ++ payload) 8 4 = seq.toNat := by
  unfold edHead
  simp only [List.append_assoc]
  rw [leAt_append_toLe_left _ _ _ _ (by decide), List.singleton_append, leAt_cons _ _ _ (by decide), leAt_append_toLe_left _ _ _ _ (by decide),
    leAt_append_toLe_left _ _ _ _ (by decide), leAt_append_toLe_left _ _ _ _ (by decide)]
  exact (leAt_toLe_append 4 _ _).trans (Nat.mod_eq_of_lt seq.isLt)

end

/-- Settles O46, a clause for each rule: what staging, a switch, an undo and a signature leave are lemmas above. -/
theorem firmwareAndSignaturesComplete : Obligations.FirmwareAndSignaturesComplete := by
  unfold Obligations.FirmwareAndSignaturesComplete
  refine ⟨?fetch, ?checked, ?fails, ?next, ?last, ?undo, ?signature, ?unsigned, ?i3c, ?records, ?sensors, ?noStaging, ?length, ?policy, ?image,
    ?noActivation, ?noKey⟩
  case fetch =>
    intro same t s g h
    obtain ⟨m, b, k, he, hn, hp⟩ := endStaging_failed_eq (s.at' t) g 0 (by decide : (0x0302 : Nat) ≠ 0)
    exact ⟨_, (exec_staging_failed h).trans (congrArg Host.Outcome.next he), rfl, hp, hn⟩
  case checked =>
    intro l t s g st h hl hm hst
    subst hst
    by_cases hz : s.sec.stageStatus l g.len = 0
    · obtain ⟨m, b, he, hn⟩ := endStaging_ok_eq ((s.at' t).stageBank l true) g (leAt l 8 4)
      simp only [hz, if_true]
      refine ⟨_, (exec_staging_good h hl hm hz).trans (congrArg Host.Outcome.next he), rfl, ?_, ?_, rfl, rfl, hn⟩
      · exact SMap.get_set_same FwBank.clear s.sec.banks s.sec.other ⟨l, 0⟩
      · exact SMap.get_set_other FwBank.clear s.sec.banks s.sec.other s.sec.bank ⟨l, 0⟩ (other_ne_bank s.sec).symm
    · obtain ⟨m, b, k, he, hn, -⟩ := endStaging_failed_eq (s.at' t) g (leAt l 8 4) hz
      simp only [hz, if_false]
      exact ⟨_, (exec_staging_bad h hl hm hz).trans (congrArg Host.Outcome.next he), rfl, rfl, rfl, rfl, rfl, hn⟩
  case fails => exact fun x l len h => stageStatus_ne_zero h
  case next =>
    intro t s a c h hlt hr hh hn
    have hc := List.find?_some hn
    have hmem := List.mem_of_find?_eq_some hn
    have hca : c < a.core := of_decide_eq_true (List.mem_filter.mp hmem).2
    rw [exec_switched_next (t := t) h hn]
    generalize hu : ((s.at' t).startCore a.core s.sec.other).updSec (fun x => { x with activation := some ⟨c, a.switched ++ [a.core], a.waiter⟩ }) = u
    have hcore (i : Nat) : u.core i = ((s.at' t).startCore a.core s.sec.other).core i := by rw [← hu]; rfl
    have hsec : u.sec = { s.sec with activation := some ⟨c, a.switched ++ [a.core], a.waiter⟩ } := by rw [← hu]; rfl
    have hsame : u.blocks = s.blocks ∧ u.hic.pend = s.hic.pend := by rw [← hu]; exact ⟨rfl, rfl⟩
    obtain ⟨p, hp⟩ := resumePolicy_eq (u.assignDuties [c]) a.core
    obtain ⟨cs, hcs⟩ := assignDuties_eq u [c]
    have hown : u.core a.core = { s.core a.core with mie := false, meie := false, mpie := false, pc := 0, heartbeat := (s.at' t).now, bank := s.sec.other } := by
      rw [hcore, startCore_core, if_pos rfl]
      rfl
    have hrun (i : Nat) : (u.core i).running = (s.core i).running := by
      rw [hcore]
      exact (startCore_running (s.at' t) a.core s.sec.other i).1
    have hyc (i : Nat) : ((u.assignDuties [c]).resumePolicy a.core).core i = (u.assignDuties [c]).core i := by rw [hp]; rfl
    obtain ⟨d, hd, -⟩ := assignDuties_core u [c] a.core
    refine ⟨_, rfl, ?_, hca, ?_, ?_, ?_, fun i _ => ?_, ?_, ?_⟩
    · rw [hp, hcs]
      exact hsec
    · rw [hyc, hd, hown]
    · rw [hyc, hd, hown]
    · rw [hyc]
      exact assignDuties_none u [c] (by omega) fun d _ => dutyHome_ne u hlt (by rw [hown]; exact hr) (by rw [hown]; exact hh) (by omega) d
    · obtain ⟨d, hd, -⟩ := assignDuties_core u [c] i
      rw [hyc, hd]
      exact hrun i
    · rw [hp, hcs]
      exact congrArg (fun b => (SMap.get Block.reset b 0).plot) hsame.1
    · rw [hp, hcs]
      exact hsame.2
  case last =>
    intro t s a h hn
    obtain ⟨ev, hsec, hbank, hbook⟩ := finishActivation_facts ((s.at' t).startCore a.core s.sec.other) a.waiter
    rw [exec_switched_last h hn]
    generalize ((s.at' t).startCore a.core s.sec.other).finishActivation a.waiter = u at hsec hbank hbook ⊢
    obtain ⟨p, hp⟩ := resumePolicy_eq u a.core
    refine ⟨_, rfl, ?_⟩
    rw [hp]
    dsimp only
    rw [hsec]
    refine ⟨rfl, rfl, floor_le_newFloor s.sec, ?_, hbank, hbook⟩
    exact SMap.get_set_same FwBank.clear s.sec.banks s.sec.other _
  case undo =>
    exact fun t s a h => undo_facts h
  case signature =>
    intro t s j l key h hk
    obtain ⟨tag, b, he⟩ := respond_last_eq ((s.at' t).signed l) key false rfl j.req 0 (j.body ++ toLe 512 (Config.freeWord4096 s.free).toNat)
    have hex := exec_signature (t := t) h
    rw [hk] at hex
    refine ⟨_, _, hex.trans (congrArg Host.Outcome.next he), rfl, rfl, rfl, edHead_seq .., fun p hp => ?_⟩
    exact SMap.get_set_other _ _ _ _ _ hp
  case unsigned =>
    intro t s h
    show Host.Outcome.next (match s.sec.signs with | [] => _ | j :: l => _) = _
    rw [h]
  case i3c => exact fun req s => rfl
  case records =>
    intro first n s h
    refine if_neg ?_
    rintro ⟨h1, h8⟩
    obtain rfl | h := h
    · exact absurd h1 (by decide)
    · exact Nat.not_lt.mpr h8 h
  case sensors => exact fun s => ⟨rfl, fun h => congrArg I3cAns.reading (if_pos h), fun h => congrArg I3cAns.reading (if_neg h)⟩
  case noStaging => exact fun image same t s h => exec_staging_none h
  case length => exact fun l same t s g h hl => exec_staging_length h hl
  case policy =>
    intro l same t s g h hl hm
    obtain ⟨p, hp⟩ := doPolicy_eq (s.at' t) (some l) g.len
    refine ⟨_, exec_staging_policy h hl hm, rfl, ?_, ?_⟩
    · rw [hp]
      rfl
    · rw [hp]
      rfl
  case image =>
    intro l same t s g h hl hm
    refine ⟨exec_staging_bad h hl hm, fun hz => ?_⟩
    obtain ⟨m, b, k, he, -, -⟩ := endStaging_failed_eq ((s.at' t).stageBank l false) g (leAt l 8 4) (by decide : (0x0303 : Nat) ≠ 0)
    refine ⟨_, (exec_staging_good h hl hm hz).trans (congrArg Host.Outcome.next he), rfl, ?_, rfl, rfl⟩
    exact SMap.get_set_same FwBank.clear s.sec.banks s.sec.other FwBank.clear
  case noActivation => exact fun t s h => ⟨exec_switched_none h, exec_undo_none h⟩
  case noKey =>
    intro t s j l h hk
    have hex := exec_signature (t := t) h
    rw [hk] at hex
    exact ⟨_, hex, rfl, rfl⟩

end Sys2Proof.Machine
end

section
/-! SUPPORT. Ports and mailboxes (R327, R353 to R355, R363, R372, R376): an Ethernet port that comes or goes, connections, neighbour requests, events
sent again and requests set aside, with the statement of chapter 13 on them. -/

namespace Sys2Proof.Machine

section
variable {s : State} {t : Nat}

/-! Ethernet (R327, R355). -/

theorem movePtp_eq (s : State) : ∃ x, s.movePtp = { s with time := x } ∧ x.port = s.ptpPort := by
  unfold State.movePtp State.loseLock
  dsimp only
  split
  · split
    · exact ⟨_, rfl, rfl⟩
    · exact ⟨_, rfl, rfl⟩
  · exact ⟨_, rfl, rfl⟩

theorem ptpPort_lowest {i : Nat} (hi : i < 4) (h : SMap.get false s.mail.linkUp i = true) (hl : ∀ j, j < i → SMap.get false s.mail.linkUp j = false) :
    s.ptpPort = i := by
  unfold State.ptpPort
  interval_cases i <;> simp [List.find?, h, hl]

theorem ptpPort_none (h : ∀ j, j < 4 → SMap.get false s.mail.linkUp j = false) : s.ptpPort = 7 := by
  unfold State.ptpPort
  rw [List.find?_eq_none.mpr (fun x hx => ?_)]
  · rfl
  · rw [h x (List.mem_range.mp hx)]
    exact Bool.false_ne_true

/-- A record without a status is no event of parcel 0. -/
theorem post_quiet_eq (s : State) (dr : Bool) (src code parcel unit : Nat) (detail : BitVec 64) :
    ∃ b, s.post dr src code 0 parcel unit detail = { s with book := b } ∧ b.next = s.book.next + 1 := ⟨_, rfl, rfl⟩

/-- A port that goes down: its link, its queue pairs, its signal and its record. -/
theorem ethDown_eq {i : Nat} (h : SMap.get false s.mail.linkUp i = true) : ∃ x b k, s.ethDown i = { s with
      mail := { s.mail with
        linkUp := SMap.set false s.mail.linkUp i false, qps := s.mail.qps.map (fun q => if q.port = i then { q with live := false } else q) }
      hic := k, book := b, time := x } ∧ b.next = s.book.next + 1 ∧ (217 + i < 256 → k.pend.getLsbD (217 + i) = true) := by
  unfold State.ethDown
  rw [h, Bool.not_true, if_neg Bool.false_ne_true]
  dsimp only
  generalize hu : ({ s with mail := _ } : State) = u
  obtain ⟨b, hb, hn⟩ := post_quiet_eq (u.signal (217 + i)) false 0x08 0x01 0xFFFF i 0
  obtain ⟨x, hx, -⟩ := movePtp_eq ((u.signal (217 + i)).post false 0x08 0x01 0 0xFFFF i 0)
  refine ⟨x, b, (u.signal (217 + i)).hic, by rw [hx, hb, ← hu]; rfl, hn.trans (by rw [← hu]; rfl), fun hi => ?_⟩
  rw [signal_pend _ hi, decide_eq_true rfl, Bool.or_true]

theorem ethDown_none {i : Nat} (h : SMap.get false s.mail.linkUp i = false) : s.ethDown i = s := by
  unfold State.ethDown
  rw [h]
  rfl

theorem ethFast_eq (s : State) (i : Nat) : ∃ e, s.ethFast i = { s with power := { s.power with eth25 := e } } := by
  unfold State.ethFast
  split
  · exact ⟨s.power.eth25, rfl⟩
  · exact ⟨_, rfl⟩

/-- A port that comes up, before the training that waited for it ends. -/
def State.portUp (s : State) (i : Nat) : State :=
  ((({ s.ethFast i with mail := { s.mail with linkUp := SMap.set false s.mail.linkUp i true } } : State).signal (217 + i)).post false 0x08 0x02 0 0xFFFF i 0).movePtp

theorem exec_portUp {port : Fin 8} (h : SMap.get false s.mail.linkUp port.val = false) (ho : s.power.mode ≠ .off)
    (hd : s.power.mode = .dormant → port.val % 4 = 0) : exec (.ethLinkChange port true t) s = .next (((s.at' t).portUp port.val).trainEnd 1 port.val) := by
  refine congrArg Host.Outcome.next ((if_neg Bool.false_ne_true).trans (if_neg ?_))
  rintro (h1 | h1 | h1)
  · exact Bool.false_ne_true (h.symm.trans h1)
  · exact h1.2 (hd h1.1)
  · exact ho h1

theorem portUp_facts (s : State) {i : Nat} (hi : i < 8) : (s.portUp i).time.port = (s.portUp i).ptpPort ∧
    (s.portUp i).mail = { s.mail with linkUp := SMap.set false s.mail.linkUp i true } ∧ (s.portUp i).hic.pend.getLsbD (217 + i) = true ∧
    (s.portUp i).mem = s.mem := by
  unfold State.portUp
  obtain ⟨e, he⟩ := ethFast_eq s i
  rw [he]
  generalize hu : ({ s with mail := _, power := _ } : State) = u
  obtain ⟨b, hb, -⟩ := post_quiet_eq (u.signal (217 + i)) false 0x08 0x02 0xFFFF i 0
  obtain ⟨x, hx, hp⟩ := movePtp_eq ((u.signal (217 + i)).post false 0x08 0x02 0 0xFFFF i 0)
  rw [hx, hb]
  rw [hb] at hp
  refine ⟨hp, by rw [← hu]; rfl, ?_, by rw [← hu]; rfl⟩
  show (u.signal (217 + i)).hic.pend.getLsbD (217 + i) = true
  rw [signal_pend _ (by omega), decide_eq_true rfl, Bool.or_true]

/-! RDMA connections and neighbour requests (R353, R354, R372). -/

/-- Whether a connection request binds a queue pair. -/
def State.binds (s : State) (port : Fin 8) (qp : BitVec 24) (priv : Bytes) : Prop :=
  port.val < 4 ∧ SMap.get false s.mail.linkUp port.val = true ∧ priv.length = 8 ∧
  ((s.ring (leAt priv 2 1)).state = 1 ∧ (s.ring (leAt priv 2 1)).owner = leAt priv 0 2 ∧ (s.ring (leAt priv 2 1)).key = leAt priv 4 4) ∧
  (s.ringQps (leAt priv 2 1)).length < 8 ∧ s.mail.qps.length < 4096 ∧ ∀ q, q ∈ s.mail.qps → q.num ≠ qp.toNat

section
variable {port : Fin 8} {qp : BitVec 24} {priv : Bytes}

theorem binds_iff : (decide (port.val < 4) && SMap.get false s.mail.linkUp port.val && decide (priv.length = 8) &&
    decide ((s.ring (leAt priv 2 1)).state = 1 ∧ (s.ring (leAt priv 2 1)).owner = leAt priv 0 2 ∧ (s.ring (leAt priv 2 1)).key = leAt priv 4 4) &&
    decide ((s.ringQps (leAt priv 2 1)).length < 8) && decide (s.mail.qps.length < 4096) && !s.mail.qps.any (fun q => q.num == qp.toNat)) = true ↔
    s.binds port qp priv := by
  simp only [Bool.and_eq_true, decide_eq_true_eq, Bool.not_eq_true', List.any_eq_false, beq_iff_eq, State.binds, and_assoc, ne_eq]

theorem exec_rdmaConnect (h : s.binds port qp priv) : exec (.rdmaConnect port qp priv) s =
    .next { s with mail := { s.mail with qps := s.mail.qps ++ [⟨qp.toNat, some (leAt priv 2 1), port.val, true, 1024⟩] } } :=
  congrArg Host.Outcome.next (if_pos (binds_iff.mpr h))

theorem exec_rdmaConnect_none (h : ¬ s.binds port qp priv) : exec (.rdmaConnect port qp priv) s = .next s :=
  congrArg Host.Outcome.next (if_neg (fun hb => h (binds_iff.mp hb)))

end

/-- The answers of a kind on a port in the last second. -/
theorem answered_filter (k now : Nat) (l : List (Nat × Nat)) : (l.filter (fun x => decide (now < x.2 + 1000000000))).filter (fun x => x.1 == k) =
    l.filter (fun x => x.1 == k && decide (now < x.2 + 1000000000)) := List.filter_filter

/-! Events sent again (R376). -/

section
variable {parcel : Fin 513} {num : BitVec 32} {e : EvMsg}

theorem exec_eventResend_none (h : (s.box parcel.val).unacked.find? (fun e => e.num == num.toNat) = none) :
    exec (.eventResend parcel num t) s = .next (s.at' t) := by
  show Host.Outcome.next (match (s.box parcel.val).unacked.find? (fun e => e.num == num.toNat) with | none => _ | some e => _) = _
  rw [h]

/-- The mailbox after an event has gone again. -/
def State.resent (s : State) (p : Nat) (e : EvMsg) : State :=
  (s.transmit p e).1.setBox p { (s.transmit p e).1.box p with
    unacked := ((s.transmit p e).1.box p).unacked.map (fun y => if y.num = e.num then (s.transmit p e).2 else y) }

theorem exec_eventResend (h : (s.box parcel.val).unacked.find? (fun e => e.num == num.toNat) = some e) : exec (.eventResend parcel num t) s = .next
    (if !e.due (s.at' t).now ∨ (s.box parcel.val).olderDue e (s.at' t).now then s.at' t else (s.at' t).resent parcel.val e) := by
  show Host.Outcome.next (match (s.box parcel.val).unacked.find? (fun e => e.num == num.toNat) with | none => _ | some e => _) = _
  rw [h]
  rfl

theorem due_iff (e : EvMsg) (now : Nat) : e.due now = true ↔ e.sends ≠ 0 ∧ e.sends < 20 ∧ e.nextAt ≤ now := decide_eq_true_iff

theorem olderDue_iff (b : Mailbox) (e : EvMsg) (now : Nat) :
    b.olderDue e now = true ↔ ∃ y, y ∈ b.unacked ∧ y.due now = true ∧ y.nextAt = e.nextAt ∧ y.num < e.num := by
  simp only [Mailbox.olderDue, List.any_eq_true, Bool.and_eq_true, beq_iff_eq, decide_eq_true_eq, and_assoc]

/-- To an address an event goes again, and its mailbox notes when. -/
theorem resent_eq {p : Nat} {key : Bytes} {a : NetAddr} (hk : (s.box p).key = some key) (ha : (if e.dest.isSome then e.dest else (s.box p).addr) = some a) :
    s.resent p e = ({ s with mail := { s.mail with out := s.mail.out ++ [⟨a, edMessage key 2 2 p e.num e.status e.payload⟩] } } : State).setBox p
      { s.box p with unacked := (s.box p).unacked.map (fun z => if z.num = e.num then { e with sends := e.sends + 1, nextAt := s.now + 50000000 } else z) } := by
  have ht : s.transmit p e = ({ s with mail := { s.mail with out := s.mail.out ++ [⟨a, edMessage key 2 2 p e.num e.status e.payload⟩] } },
      { e with sends := e.sends + 1, nextAt := s.now + eventResendNs }) := by
    unfold State.transmit
    rw [hk, ha]
  unfold State.resent
  rw [ht]
  rfl

/-- Without a key or an address nothing is sent. -/
theorem resent_out {p : Nat} (h : (s.box p).key = none ∨ (if e.dest.isSome then e.dest else (s.box p).addr) = none) :
    (s.resent p e).mail.out = s.mail.out := by
  have ht : s.transmit p e = (s, e) := by
    unfold State.transmit
    obtain h | h := h
    · rw [h]
    · rw [h]
      split
      · contradiction
      · rfl
  unfold State.resent
  rw [ht]
  rfl

end

/-! Requests set aside (R363, R440). -/

theorem askFloor_eq (s : State) (p top : Nat) : ∃ x, s.askFloor p top = { s with store := x } := by
  unfold State.askFloor
  split
  · exact ⟨s.store, rfl⟩
  · exact ⟨_, rfl⟩

theorem exec_seqFloorCommitDone : exec (.seqFloorCommitDone t) s = .next (s.mail.setAside.foldl (fun (y : State) r =>
    if (y.box r.mail.parcel.toNat).key = none ∧ r.firstKey = false then y else y.sequence r) { s.at' t with mail := { s.mail with setAside := [] } }) := by
  have hf : (fun (y : State) (r : EdReq) => if (y.box r.mail.parcel.toNat).key.isNone && !r.firstKey then y else y.sequence r) =
      fun y r => if (y.box r.mail.parcel.toNat).key = none ∧ r.firstKey = false then y else y.sequence r := by
    funext y r
    exact if_congr (by rw [Bool.and_eq_true, Option.isNone_iff_eq_none, Bool.not_eq_true']) rfl rfl
  rw [← hf]
  rfl

/-- A new request behind none set aside is executed, or set aside while its floor is not durable. -/
theorem sequence_new {r : EdReq} (h : s.mail.setAside = []) (hn : (s.box r.mail.parcel.toNat).isNew r.mail.seq.toNat = true) : s.sequence r =
    if s.mustWait r.mail.parcel.toNat r.mail.seq.toNat then
      ({ s with mail := { s.mail with setAside := s.mail.setAside ++ [r] } } : State).askFloor r.mail.parcel.toNat (r.mail.seq.toNat - r.mail.seq.toNat % 65536)
    else s.execute r := by
  unfold State.sequence
  dsimp only
  rw [h, List.any_nil, if_neg Bool.false_ne_true, hn, Bool.not_true, if_neg Bool.false_ne_true]

end

/-- Settles O47, a clause for each rule: what a port, a connection, a neighbour request, a resend and the requests set aside leave are lemmas above. -/
theorem portsAnswerAndEventsRepeat : Obligations.PortsAnswerAndEventsRepeat := by
  unfold Obligations.PortsAnswerAndEventsRepeat
  refine ⟨?down, ?downAlready, ?up, ?connect, ?reject, ?answer, ?limit, ?resend, ?notDue, ?floor, ?waits, ?upAlready, ?lowest, ?noPort, ?rejectPort,
    ?noAnswer, ?noEvent, ?noAddress, ?inOrder⟩
  case down =>
    intro port t s h
    obtain ⟨x, b, k, he, hn, hp⟩ := ethDown_eq (s := s.at' t) h
    have hlt := port.isLt
    refine ⟨_, congrArg Host.Outcome.next ((if_pos rfl).trans he), ?_, fun i hi => ?_, rfl, hp (by omega), ?_⟩
    · exact SMap.get_set_same false s.mail.linkUp port.val false
    · exact SMap.get_set_other false s.mail.linkUp port.val i false hi
    · show s.book.next < b.next
      rw [hn]
      exact Nat.lt_succ_self _
  case downAlready => exact fun port t s h => congrArg Host.Outcome.next ((if_pos rfl).trans (ethDown_none (s := s.at' t) h))
  case up =>
    intro port t s h ho hd
    obtain ⟨hport, hmail, hpend, hmem⟩ := portUp_facts (s.at' t) port.isLt
    refine ⟨_, exec_portUp h ho hd, hport, ?_, fun i hi => ?_, ?_, hpend, hmem⟩
    · rw [hmail]
      exact SMap.get_set_same false s.mail.linkUp port.val true
    · rw [hmail]
      exact SMap.get_set_other false s.mail.linkUp port.val i true hi
    · rw [hmail]
      rfl
  case connect =>
    exact fun port qp priv s h1 h2 h3 h4 h5 h6 h7 h8 h9 => exec_rdmaConnect ⟨h1, h2, h3, ⟨h4, h5, h6⟩, h7, h8, h9⟩
  case reject =>
    intro port qp priv s h
    refine exec_rdmaConnect_none ?_
    rintro ⟨h1, -, h3, ⟨h4, h5, h6⟩, h7, -, -⟩
    obtain h | h | h | h | h | h := h
    · omega
    · exact h h3
    · exact h h4
    · exact h h5
    · exact h h6
    · omega
  case answer =>
    intro port kind t s hu hl
    refine ⟨_, congrArg Host.Outcome.next (if_pos ⟨hu, ?_⟩), List.getLast?_concat, rfl, rfl, rfl⟩
    rw [answered_filter]
    exact hl
  case limit =>
    intro port kind t s hl
    refine congrArg Host.Outcome.next (if_neg ?_)
    rintro ⟨-, h⟩
    rw [answered_filter] at h
    exact Nat.not_le.mpr h hl
  case resend =>
    intro parcel num t s e key a hf h0 h20 hat hold hk ha
    have hno : ¬ ((!e.due (s.at' t).now) = true ∨ (s.box parcel.val).olderDue e (s.at' t).now = true) := by
      rw [(due_iff e (s.at' t).now).mpr ⟨Nat.pos_iff_ne_zero.mp h0, h20, hat⟩, olderDue_iff]
      rintro (h | ⟨y, hy, hdue, hn, hlt⟩)
      · cases h
      · obtain ⟨hs0, hs20, -⟩ := (due_iff y _).mp hdue
        exact Nat.not_le.mpr hlt (hold y hy hn (Nat.pos_iff_ne_zero.mpr hs0) hs20)
    refine ⟨_, (exec_eventResend hf).trans (congrArg Host.Outcome.next ((if_neg hno).trans (resent_eq (s := s.at' t) hk ha))), rfl, ?_, ?_, fun p hp => ?_⟩
    · rw [State.setBox_box_at, if_pos rfl]
      rfl
    · rw [State.setBox_box_at, if_pos rfl]
      rfl
    · rw [State.setBox_box_at, if_neg hp.symm]
      rfl
  case notDue =>
    intro parcel num t s e hf h
    rw [exec_eventResend hf]
    refine congrArg Host.Outcome.next (if_pos ?_)
    by_cases hd : e.due (s.at' t).now = true
    · obtain ⟨hs0, hs20, hat⟩ := (due_iff e _).mp hd
      obtain h | h | h | ⟨y, hy, hn, h0, h20, hlt⟩ := h
      · exact absurd h hs0
      · exact absurd hs20 (Nat.not_lt.mpr h)
      · exact absurd hat (Nat.not_le.mpr h)
      · exact .inr ((olderDue_iff _ e _).mpr ⟨y, hy, (due_iff y _).mpr ⟨Nat.pos_iff_ne_zero.mp h0, h20, hn ▸ hat⟩, hn, hlt⟩)
    · exact .inl (Bool.not_eq_true' _ ▸ Bool.eq_false_iff.mpr hd)
  case floor =>
    rintro t s x r hs rfl hk hn hw
    have hq := sequence_new (s := { s.at' t with mail := { s.mail with setAside := [] } }) (r := r) rfl hn
    rw [hw, if_neg Bool.false_ne_true] at hq
    rw [exec_seqFloorCommitDone, hs, List.foldl_cons, List.foldl_nil, if_neg (fun h => hk h.1), hq]
  case waits =>
    rintro t s x r hs rfl hk hn hw
    have hq := sequence_new (s := { s.at' t with mail := { s.mail with setAside := [] } }) (r := r) rfl hn
    rw [hw, if_pos rfl] at hq
    obtain ⟨y, hy⟩ := askFloor_eq ({ s.at' t with mail := { s.mail with setAside := [r] } }) r.mail.parcel.toNat (r.mail.seq.toNat - r.mail.seq.toNat % 65536)
    rw [exec_seqFloorCommitDone, hs, List.foldl_cons, List.foldl_nil, if_neg (fun h => hk h.1)]
    refine ⟨_, congrArg Host.Outcome.next (hq.trans hy), ?_, rfl⟩
    show ({ s.mail with setAside := [r] } : MailSt) = s.mail
    rw [← hs]
  case upAlready =>
    intro port t s h
    exact congrArg Host.Outcome.next ((if_neg Bool.false_ne_true).trans (if_pos (by
      obtain h | h | h := h
      · exact .inl h
      · exact .inr (.inr h)
      · exact .inr (.inl h))))
  case lowest => exact fun s i hi h hl => ptpPort_lowest hi h hl
  case noPort => exact fun s h => ptpPort_none h
  case rejectPort =>
    intro port qp priv s h
    refine exec_rdmaConnect_none ?_
    rintro ⟨-, h2, -, -, -, h8, h9⟩
    obtain h | h | ⟨q, hq, hn⟩ := h
    · rw [h] at h2
      cases h2
    · omega
    · exact h9 q hq hn
  case noAnswer =>
    intro port kind t s h
    refine congrArg Host.Outcome.next (if_neg fun hc => ?_)
    exact Bool.false_ne_true (h.symm.trans hc.1)
  case noEvent => exact fun parcel num t s h => exec_eventResend_none h
  case noAddress =>
    intro parcel num t s h
    cases hf : (s.box parcel.val).unacked.find? (fun e => e.num == num.toNat) with
    | none => exact ⟨_, exec_eventResend_none hf, rfl⟩
    | some e =>
      refine ⟨_, exec_eventResend hf, ?_⟩
      split
      · rfl
      · refine resent_out (s := s.at' t) (h.imp_right fun ⟨ha, hd⟩ => ?_)
        rw [hd e (List.mem_of_find?_eq_some hf)]
        exact ha
  case inOrder => exact fun t s => exec_seqFloorCommitDone

end Sys2Proof.Machine
end

section
/-! SUPPORT. Time and arbiters (R327, R328, R332 to R338) with the end of a parcel's scrub, deferred requests and congestion, and the statement of
chapter 12 on them. -/

namespace Sys2Proof.Machine

theorem bitB_setBitN_same (n i : Nat) : bitB (setBitN n i) i = true := by
  unfold setBitN
  by_cases h : bitB n i = true
  · rw [if_pos h]
    exact h
  · rw [if_neg h]
    have hb : n / 2 ^ i % 2 ≠ 1 := fun h1 => h (beq_iff_eq.mpr h1)
    refine beq_iff_eq.mpr ?_
    rw [Nat.add_div_right n (Nat.two_pow_pos i)]
    exact Nat.succ_mod_two_eq_one_iff.mpr (Nat.mod_two_ne_one.mp hb)

/-! The clock (R327, R328). -/

section
variable {s : State} {t : Nat} {port : Fin 4} {domain : BitVec 8} {offset : BitVec 32}

/-- Validity set: module time and memory stay, and the other fields of the time. -/
theorem setValid_eq (s : State) (v : Bool) : ∃ b h, s.setValid v = { s with time := { s.time with valid := v }, book := b, hic := h } := by
  unfold State.setValid
  split
  next h => exact ⟨s.book, s.hic, by rw [← h]⟩
  · exact ⟨_, _, rfl⟩

theorem loseLock_locked (h : s.time.locked = true) :
    s.loseLock = { s with time := { s.time with locked := false, holdover := s.time.valid, holdFrom := s.now } } := if_pos h

theorem loseLock_free (h : s.time.locked = false) : s.loseLock = s := if_neg (fun h' => Bool.false_ne_true (h.symm.trans h'))

theorem exec_ptpMessage {locked : Bool} (hp : port.val = s.time.port) (hu : SMap.get false s.mail.linkUp port.val = true) (hd : domain.toNat = s.time.domain) :
    exec (.ptpMessage port domain locked offset t) s = .next (if locked then
      ({ s with now := t, time := { s.time with locked := true, holdover := false, offset := offset.toInt, lastSync := t } } : State).setValid true
      else ({ s.at' t with time := { s.time with offset := offset.toInt } } : State).loseLock) := by
  refine congrArg Host.Outcome.next (if_neg ?_)
  rintro (h | h | h)
  · exact h hp
  · exact Bool.false_ne_true (h.symm.trans hu)
  · exact h hd

end

/-! Arbiters (R332 to R338). -/

section
variable {a : Arb} {n fw other g : Nat}

/-- A decision grants the last owner or one of the requesters, and one that asks and has a weight. -/
theorem choose_some (h : a.choose n fw = some g) : (g < n ∨ g = a.last) ∧ bitB fw g = true ∧ a.weightOf g ≠ 0 := by
  unfold Arb.choose at h
  dsimp only at h
  split at h
  next hl =>
    cases h
    obtain ⟨hmay, -⟩ := hl
    obtain ⟨hb, hw⟩ := Bool.and_eq_true_iff.mp hmay
    exact ⟨.inr rfl, hb, of_decide_eq_true hw⟩
  next hl =>
    have hp := List.find?_some h
    obtain ⟨hb, hw⟩ := Bool.and_eq_true_iff.mp hp
    obtain ⟨i, hi, rfl⟩ := List.mem_map.mp (List.mem_of_find?_eq_some h)
    exact ⟨.inl (Nat.mod_lt _ (Nat.zero_lt_of_lt (List.mem_range.mp hi))), hb, of_decide_eq_true hw⟩

theorem bitB_of_mod {x i : Nat} (h : bitB (x % 2 ^ n) i = true) : bitB x i = true := by
  rw [bitB_eq_testBit, Nat.testBit_mod_two_pow] at h
  rw [bitB_eq_testBit]
  exact (Bool.and_eq_true_iff.mp h).2

/-- The next grant of a cycle goes to a requester that asks in it. -/
theorem cycle_next (static : Bool) : (a.cycle n fw other static).next = none ∨
    ∃ r, (a.cycle n fw other static).next = some r ∧ (bitB fw r = true ∨ bitB other r = true) := by
  unfold Arb.cycle
  dsimp only
  generalize List.foldl _ _ (List.range n) = a2
  cases h1 : a2.choose n (fw % 2 ^ n) with
  | some g => exact .inr ⟨g, rfl, .inl (bitB_of_mod (choose_some h1).2.1)⟩
  | none =>
    cases h2 : a2.choose n (other % 2 ^ n) with
    | some g => exact .inr ⟨g, rfl, .inr (bitB_of_mod (choose_some h2).2.1)⟩
    | none => exact .inl rfl

end

section
variable {arb : Fin 112} {r : Fin 32} {s : State}

/-- What the mark of a starved requester leaves of its arbiter. -/
def Arb.starved (a : Arb) (r : Nat) : Arb := { a with starve := setBitN a.starve r, marked := setBitN a.marked r }

theorem exec_arbStarve (h1 : (s.arb arb.val).thr ≠ 0) (h2 : (s.arb arb.val).thr ≤ SMap.get 0 (s.arb arb.val).cur r.val)
    (h3 : bitB (s.arb arb.val).marked r.val = false) (h4 : r.val < arbRequesters arb.val) : exec (.arbStarveThreshold arb r) s = .next
      (if (s.arb arb.val).irqEn ∧ (s.arb arb.val).starve = 0 then (s.updArb arb.val (fun a => a.starved r.val)).signal (arbSource arb.val)
        else s.updArb arb.val (fun a => a.starved r.val)) := by
  refine congrArg Host.Outcome.next (if_neg ?_)
  rintro (h | h | h | h)
  · exact h1 h
  · exact Nat.not_lt.mpr h2 h
  · exact Bool.false_ne_true (h3.symm.trans h)
  · exact Nat.not_lt.mpr h h4

theorem exec_arbStarve_none (h : (s.arb arb.val).thr = 0 ∨ SMap.get 0 (s.arb arb.val).cur r.val < (s.arb arb.val).thr ∨
    bitB (s.arb arb.val).marked r.val = true ∨ arbRequesters arb.val ≤ r.val) : exec (.arbStarveThreshold arb r) s = .next s :=
  congrArg Host.Outcome.next (if_pos h)

end

/-! The end of a parcel's scrub (R325, R351). -/

section
variable {parcel : Fin 513} {t : Nat} {s : State}

theorem zeroRange_eq (s : State) (k n : Nat) : ∃ m q, s.zeroRange k n = { s with mem := m, quads := q } := by
  unfold State.zeroRange
  split
  · exact ⟨s.mem, s.quads, rfl⟩
  · dsimp only
    split
    · exact ⟨_, _, rfl⟩
    · exact ⟨_, s.quads, rfl⟩

theorem scrubParcel_eq (s : State) (p : Nat) : ∃ m q, s.scrubParcel p = { s with mem := m, quads := q } := by
  have hl (l : List Alloc) (u : State) : ∃ m q, l.foldl (fun (s : State) a => s.zeroRange (boardKey a.tier a.base) a.len) u = { u with mem := m, quads := q } := by
    induction l generalizing u with
    | nil => exact ⟨u.mem, u.quads, rfl⟩
    | cons a l ih =>
      obtain ⟨m, q, h⟩ := zeroRange_eq u (boardKey a.tier a.base) a.len
      obtain ⟨m', q', h'⟩ := ih (u.zeroRange (boardKey a.tier a.base) a.len)
      exact ⟨m', q', by rw [List.foldl_cons, h', h]⟩
  exact hl _ s

theorem freeParcel_facts (s : State) (p : Nat) : (s.freeParcel p).parcel p = { Parcel.reset with quarantine := s.now + quarantineNs } ∧
    ∀ a, a ∈ (s.freeParcel p).serve.allocs → a.owner ≠ p := by
  refine ⟨?_, fun a ha => ?_⟩
  · unfold State.freeParcel
    dsimp only
    rw [State.updParcel_parcel_at, if_pos rfl]
  · exact bne_iff_ne.mp (List.mem_filter.mp ha).2

/-- The answer to the request that shut the parcel down. -/
def State.tellShut (s u : State) (p : Nat) : State := match (s.parcel p).shutdown with
  | some w => u.complete w 0 []
  | none => u

theorem tellShut_eq (s u : State) (p : Nat) : ∃ m, s.tellShut u p = { u with mail := m } := by
  unfold State.tellShut
  split
  · exact u.complete_eq _ 0 []
  · exact ⟨u.mail, rfl⟩

theorem exec_parcelScrub : exec (.parcelScrubComplete parcel t) s = .next (
    if (s.at' t).scrubbingFor parcel.val then s.at' t
    else if (s.parcel parcel.val).state = .scrubbing then
      s.tellShut ((((s.at' t).scrubParcel parcel.val).updParcel parcel.val (fun x => { x with state := .disabled, shutdown := none, destroy := false })).wantCommit) parcel.val
    else if (s.parcel parcel.val).state = .destroying ∧ !(s.at' t).parcelHolds parcel.val then
      s.tellShut ((((s.at' t).scrubParcel parcel.val).freeParcel parcel.val).wantCommit) parcel.val
    else s.at' t) := rfl

end

/-! Deferred requests (R377). -/

section
variable {i t : Nat} {s z : State} {d : Deferred}

theorem exec_deferredRun (hd : s.mail.deferred[i]? = some d) (ho : (s.mail.deferred.take i).any (fun y => y.obj == d.obj) = false)
    (hz : z = { s.at' t with mail := { s.mail with deferred := s.mail.deferred.eraseIdx i } }) : exec (.deferredRun i t) s = .next (
      let x := if z.goneParcel d.req.mail.parcel.toNat then (z, Ans.final 0x0201 []) else z.serveReq d.req true
      match x.2 with
      | .final st body => x.1.complete d.req.waiter st body
      | .ended st body => x.1.complete d.req.waiter st body
      | .started _ => x.1
      | .later => x.1
      | .wait k => if k = d.obj then s.at' t else { x.1 with mail := { x.1.mail with deferred := x.1.mail.deferred ++ [⟨k, d.req⟩] } }) := by
  subst hz
  show Host.Outcome.next (match s.mail.deferred[i]? with | none => _ | some d => _) = _
  rw [hd]
  exact congrArg Host.Outcome.next (if_neg (fun h => Bool.false_ne_true (ho.symm.trans h)))

end

/-- Settles O31, a clause for each rule: what a message of the clock, a decision, a mark, the end of a scrub and a deferred request leave are lemmas
above. -/
theorem timeAndArbiters : Obligations.TimeAndArbiters := by
  unfold Obligations.TimeAndArbiters
  refine ⟨?ptp, ?ptpOther, ?expire, ?noExpire, ?decision, ?choice, ?starve, ?noStarve, ?scrubbing, ?disabled, ?destroyed, ?noDeferred, ?behind, ?gone, ?runs,
    ?congestion⟩
  case ptp =>
    intro port domain offset t s hp hu hd
    constructor
    · obtain ⟨b, h, he⟩ := setValid_eq { s with now := t, time := { s.time with locked := true, holdover := false, offset := offset.toInt, lastSync := t } } true
      exact ⟨_, (exec_ptpMessage hp hu hd).trans (congrArg Host.Outcome.next ((if_pos rfl).trans he)), rfl, rfl, rfl, rfl, rfl, rfl⟩
    · have hex := exec_ptpMessage (locked := false) (offset := offset) (t := t) hp hu hd
      rw [if_neg Bool.false_ne_true] at hex
      cases hl : s.time.locked with
      | true =>
        rw [loseLock_locked (s := { s.at' t with time := { s.time with offset := offset.toInt } }) hl] at hex
        exact ⟨_, hex, rfl, rfl, rfl, fun _ => ⟨rfl, rfl⟩, fun h => absurd h (by decide), rfl, rfl⟩
      | false =>
        rw [loseLock_free (s := { s.at' t with time := { s.time with offset := offset.toInt } }) hl] at hex
        exact ⟨_, hex, rfl, hl, rfl, fun h => absurd h Bool.false_ne_true, fun _ => rfl, rfl, rfl⟩
  case ptpOther => exact fun port domain locked offset t s h => congrArg Host.Outcome.next (if_pos h)
  case expire =>
    intro t s hh ht
    obtain ⟨b, h, he⟩ := setValid_eq { s.at' t with time := { s.time with holdover := false } } false
    exact ⟨_, congrArg Host.Outcome.next ((if_pos ⟨hh, ht⟩).trans he), rfl, rfl, rfl⟩
  case noExpire =>
    intro t s h
    refine congrArg Host.Outcome.next (if_neg ?_)
    rintro ⟨h1, h2⟩
    obtain h | h := h
    · exact Bool.false_ne_true (h.symm.trans h1)
    · exact Nat.not_le.mpr h h2
  case decision =>
    intro arb fw other static s
    refine ⟨_, rfl, ?_, fun i hi => ?_, rfl, rfl⟩
    · rw [State.updArb_arb_at, if_pos rfl]
    · rw [State.updArb_arb_at, if_neg hi.symm]
  case choice => exact fun a n fw other g => ⟨fun h => (choose_some h).1, fun h => (choose_some h).2, cycle_next false⟩
  case starve =>
    intro arb r s h1 h2 h3 h4
    have hs : ((s.updArb arb.val (fun a => a.starved r.val)).arb arb.val) = (s.arb arb.val).starved r.val := by
      rw [State.updArb_arb_at, if_pos rfl]
    refine ⟨_, exec_arbStarve h1 h2 h3 h4, ?_⟩
    split
    next hc =>
      show bitB ((s.updArb arb.val (fun a => a.starved r.val)).arb arb.val).starve r.val = true ∧
        bitB ((s.updArb arb.val (fun a => a.starved r.val)).arb arb.val).marked r.val = true ∧ _
      rw [hs]
      refine ⟨bitB_setBitN_same .., bitB_setBitN_same .., fun _ _ hlt => ?_⟩
      rw [signal_pend _ hlt, decide_eq_true rfl, Bool.or_true]
    next hc =>
      rw [hs]
      exact ⟨bitB_setBitN_same .., bitB_setBitN_same .., fun hi hz _ => absurd ⟨hi, hz⟩ hc⟩
  case noStarve => exact fun arb r s h => exec_arbStarve_none h
  case scrubbing =>
    intro parcel t s h
    rw [exec_parcelScrub]
    refine congrArg Host.Outcome.next ?_
    cases hs : (s.at' t).scrubbingFor parcel.val with
    | true => exact if_pos rfl
    | false =>
      obtain ⟨h1, h2⟩ := h.resolve_left (fun h => Bool.false_ne_true (hs.symm.trans h))
      rw [if_neg Bool.false_ne_true, if_neg h1, if_neg]
      rintro ⟨h3, h4⟩
      obtain h2 | h2 := h2
      · exact h2 h3
      · rw [h2] at h4
        cases h4
  case disabled =>
    intro parcel t s hs hst
    rw [exec_parcelScrub, hs, if_neg Bool.false_ne_true, if_pos hst]
    generalize (s.at' t).scrubParcel parcel.val = u
    have hp : (u.updParcel parcel.val (fun x => { x with state := .disabled, shutdown := none, destroy := false })).parcel parcel.val =
        { u.parcel parcel.val with state := .disabled, shutdown := none, destroy := false } := by rw [State.updParcel_parcel_at, if_pos rfl]
    obtain ⟨m, hm⟩ := tellShut_eq s (u.updParcel parcel.val (fun x => { x with state := .disabled, shutdown := none, destroy := false })).wantCommit parcel.val
    exact ⟨_, congrArg Host.Outcome.next hm, congrArg Parcel.state hp, congrArg Parcel.shutdown hp⟩
  case destroyed =>
    intro parcel t s hs hst hh
    obtain ⟨m, q, hsc⟩ := scrubParcel_eq (s.at' t) parcel.val
    obtain ⟨hp, ha⟩ := freeParcel_facts ((s.at' t).scrubParcel parcel.val) parcel.val
    obtain ⟨ml, hm⟩ := tellShut_eq s (((s.at' t).scrubParcel parcel.val).freeParcel parcel.val).wantCommit parcel.val
    rw [exec_parcelScrub, hs, if_neg Bool.false_ne_true, if_neg (by rw [hst]; decide), if_pos ⟨hst, by rw [hh]; rfl⟩, hm]
    have hnow : ((s.at' t).scrubParcel parcel.val).now = max s.now t := by rw [hsc]; rfl
    exact ⟨_, rfl, hp.trans (by rw [hnow]), ha⟩
  case noDeferred =>
    intro i t s h
    show Host.Outcome.next (match s.mail.deferred[i]? with | none => _ | some d => _) = _
    rw [h]
  case behind =>
    rintro i t s x d rfl hd ho
    show Host.Outcome.next (match (s.at' t).mail.deferred[i]? with | none => _ | some d => _) = _
    rw [hd]
    exact congrArg Host.Outcome.next (if_pos ho)
  case gone =>
    rintro z i t s x d rfl hd ho hz hg
    rw [exec_deferredRun (s := s) (t := t) hd ho hz, hg]
    rfl
  case runs =>
    rintro z y i t s x d rfl hd ho hz hg
    have hex := exec_deferredRun (s := s) (t := t) hd ho hz
    rw [hg] at hex
    dsimp only at hex
    rw [if_neg Bool.false_ne_true] at hex
    refine ⟨fun st body h => ?_, fun body h => ?_, fun h => ?_, fun k hk h => ?_⟩
    · obtain h | h := h
      · rw [h] at hex
        exact hex
      · rw [h] at hex
        exact hex
    · obtain h | h := h
      · rw [h] at hex
        exact hex
      · rw [h] at hex
        exact hex
    · rw [h] at hex
      exact hex.trans (congrArg Host.Outcome.next (if_pos rfl))
    · rw [h] at hex
      exact hex.trans (congrArg Host.Outcome.next (if_neg hk))
  case congestion =>
    intro qp s
    refine ⟨_, rfl, rfl, List.length_map _, fun j q hq => ⟨fun hn => ?_, fun hn hr => ?_⟩⟩
    · refine (List.getElem?_map ..).trans ?_
      rw [hq]
      exact congrArg some (if_neg hn)
    · refine ⟨(Config.freeWord32 s.free).toNat % (max 1 q.rate), (List.getElem?_map ..).trans ?_, ?_⟩
      · rw [hq]
        exact congrArg some (if_pos hn)
      · exact (Nat.mod_lt _ (by omega)).trans_le (by omega)

end Sys2Proof.Machine
end

section
/-! SUPPORT. The checks of a request (R356 to R363, R440): what each branch of an arrival leaves, sequence numbers, and where an answer goes, with the
statement of chapter 13 on them. -/

namespace Sys2Proof.Machine

/-! Sequence numbers (R360). -/

section
variable {b : Mailbox} {seq : Nat}

theorem isNew_iff (b : Mailbox) (seq : Nat) : b.isNew seq = true ↔ b.moves seq = true ∨ (b.behind seq < 64 ∧ b.seen.getLsbD (b.behind seq) = false) := by
  simp only [Mailbox.isNew, Bool.or_eq_true, Bool.and_eq_true, decide_eq_true_eq, Bool.not_eq_true']

/-- A number that moves the highest one is it from then on, and has been seen. -/
theorem accept_moves (h : b.moves seq = true) : (b.accept seq).isNew seq = false := by
  have ha : b.accept seq = { b with high := seq, seen := (b.seen <<< b.ahead seq) ||| 1 } := if_pos h
  rw [Bool.eq_false_iff]
  intro hn
  obtain hm | ⟨-, hs⟩ := (isNew_iff _ _).mp hn
  · have h1 := (of_decide_eq_true hm).1
    rw [ha] at h1
    have h0 : (seq + 2 ^ 32 - seq) % 2 ^ 32 = 0 := by rw [Nat.add_sub_cancel_left, Nat.mod_self]
    exact absurd (h1.trans_eq h0) (by decide)
  · rw [ha] at hs
    have h0 : (seq + 2 ^ 32 - seq) % 2 ^ 32 = 0 := by rw [Nat.add_sub_cancel_left, Nat.mod_self]
    change ((b.seen <<< b.ahead seq) ||| 1).getLsbD ((seq + 2 ^ 32 - seq) % 2 ^ 32) = false at hs
    rw [h0, BitVec.getLsbD_or] at hs
    exact Bool.false_ne_true ((Bool.or_eq_false_iff.mp hs).2.symm.trans (by decide))

/-- A number behind the highest one has been seen once it is accepted. -/
theorem accept_behind (h : b.moves seq = false) (h64 : b.behind seq < 64) : (b.accept seq).isNew seq = false := by
  have ha : b.accept seq = { b with seen := b.seen ||| (1 <<< b.behind seq) } := if_neg (fun h' => Bool.false_ne_true (h.symm.trans h'))
  rw [Bool.eq_false_iff]
  intro hn
  rw [ha] at hn
  obtain hm | ⟨-, hs⟩ := (isNew_iff _ _).mp hn
  · exact Bool.false_ne_true (h.symm.trans hm)
  · change (b.seen ||| (1 <<< b.behind seq)).getLsbD (b.behind seq) = false at hs
    rw [BitVec.getLsbD_or] at hs
    refine Bool.false_ne_true ((Bool.or_eq_false_iff.mp hs).2.symm.trans ?_)
    show (BitVec.ofNat 64 (1 <<< b.behind seq)).getLsbD (b.behind seq) = true
    rw [BitVec.getLsbD_ofNat, decide_eq_true h64, Nat.one_shiftLeft, Nat.testBit_two_pow_self, Bool.and_self]

theorem accept_not_new (h : b.isNew seq = true) : (b.accept seq).isNew seq = false := by
  cases hm : b.moves seq with
  | true => exact accept_moves hm
  | false =>
    obtain h | ⟨h64, -⟩ := (isNew_iff b seq).mp h
    · exact absurd h (fun h => Bool.false_ne_true (hm.symm.trans h))
    · exact accept_behind hm h64

theorem isNew_of_far_behind (h : 64 ≤ b.behind seq) (hm : b.moves seq = false) : b.isNew seq = false := by
  rw [Bool.eq_false_iff]
  intro hn
  obtain h' | ⟨h64, -⟩ := (isNew_iff b seq).mp hn
  · exact Bool.false_ne_true (hm.symm.trans h')
  · exact Nat.not_lt.mpr h h64

end

/-! The branches of an arrival (Table 13-4). -/

section
variable {r : EdReq} {s : State}

theorem receive_off (h : s.power.mode = .off ∨ s.power.mode = .starting) : s.receive r = s.at' r.mail.now := if_pos h

theorem receive_badHead (h1 : s.power.mode ≠ .off) (h2 : s.power.mode ≠ .starting) (hh : mailHeadOk r.mail = false) : s.receive r =
    { s.at' r.mail.now with mail := { (s.at' r.mail.now).mail with dropped := satAdd 64 s.mail.dropped 1 } } :=
  (if_neg (not_or.mpr ⟨h1, h2⟩)).trans (if_pos (by rw [hh]; rfl))

theorem receive_badTag (h1 : s.power.mode ≠ .off) (h2 : s.power.mode ≠ .starting) (hh : mailHeadOk r.mail = true)
    (ha : (s.at' r.mail.now).authentic r = false) : s.receive r = (s.at' r.mail.now).authFail r :=
  (if_neg (not_or.mpr ⟨h1, h2⟩)).trans ((if_neg (by rw [hh]; exact Bool.false_ne_true)).trans (if_pos (by rw [ha]; rfl)))

theorem receive_authentic (h1 : s.power.mode ≠ .off) (h2 : s.power.mode ≠ .starting) (hh : mailHeadOk r.mail = true)
    (ha : (s.at' r.mail.now).authentic r = true) : s.receive r = (s.at' r.mail.now).sequence r :=
  (if_neg (not_or.mpr ⟨h1, h2⟩)).trans ((if_neg (by rw [hh]; exact Bool.false_ne_true)).trans (if_neg (by rw [ha]; exact Bool.false_ne_true)))

/-- Whether the same datagram has been set aside. -/
def State.asideAlready (s : State) (r : EdReq) : Bool :=
  s.mail.setAside.any (fun x => x.mail.parcel == r.mail.parcel && x.mail.seq == r.mail.seq && x.mail.tag == r.mail.tag)

theorem sequence_aside (h : s.asideAlready r = true) : s.sequence r = s := if_pos h

theorem sequence_seen (h : s.asideAlready r = false) (hn : (s.box r.mail.parcel.toNat).isNew r.mail.seq.toNat = false) :
    s.sequence r = s.seenAgain r :=
  (if_neg (fun h' => Bool.false_ne_true (h.symm.trans h'))).trans (if_pos (by rw [hn]; rfl))

theorem sequence_waits (h : s.asideAlready r = false) (hn : (s.box r.mail.parcel.toNat).isNew r.mail.seq.toNat = true)
    (hw : s.mustWait r.mail.parcel.toNat r.mail.seq.toNat = true) : ∃ x, s.sequence r =
      { s with mail := { s.mail with setAside := s.mail.setAside ++ [r] }, store := x } := by
  obtain ⟨x, hx⟩ := askFloor_eq { s with mail := { s.mail with setAside := s.mail.setAside ++ [r] } } r.mail.parcel.toNat
    (r.mail.seq.toNat - r.mail.seq.toNat % 65536)
  exact ⟨x, ((if_neg (fun h' => Bool.false_ne_true (h.symm.trans h'))).trans ((if_neg (by rw [hn]; exact Bool.false_ne_true)).trans (if_pos hw))).trans hx⟩

/-- Being answered that the tag is bad, and being answered again, changes what was sent and the count of bad tags only. -/
theorem authFail_eq (s : State) (r : EdReq) : ∃ n l o, s.authFail r = { s with mail := { s.mail with authFail := n, authTimes := l, out := o } } := by
  unfold State.authFail
  dsimp only
  split
  · exact ⟨s.mail.authFail, s.mail.authTimes, s.mail.out, rfl⟩
  · exact ⟨_, _, _, rfl⟩

theorem seenAgain_eq (s : State) (r : EdReq) : ∃ o, s.seenAgain r = { s with mail := { s.mail with out := o } } := by
  unfold State.seenAgain
  dsimp only
  split <;> exact ⟨_, rfl⟩

/-! `SERVE` (R445). -/

theorem serveReq_to_off {a : State} {late : Bool} (hw : waitsServe r.op = true) (hg : a.power.going = some .off) :
    a.serveReq r late = (a, .final 0x0105 []) := if_pos (by rw [hw, hg]; rfl)

theorem serveReq_waits {a : State} {late : Bool} (hw : waitsServe r.op = true) (hg : a.power.going ≠ some .off)
    (h : a.power.going ≠ none ∨ a.power.mode ≠ .serve) : a.serveReq r late = (a, .wait ⟨7, 1⟩) := by
  refine (if_neg ?_).trans (if_pos ?_)
  · rw [hw, Bool.true_and, beq_iff_eq]
    exact hg
  · rw [hw, Bool.true_and, Bool.or_eq_true, Option.isSome_iff_ne_none, bne_iff_ne]
    exact h

/-! Answers (R350, R362). -/

/-- The fields that a message starts with (Table 13-2). -/
theorem edHead_fields (hflags op parcel seq len status : Nat) (l : Bytes) : leAt (edHead hflags op parcel seq len status ++ l) 0 2 = 0x4544 ∧
    leAt (edHead hflags op parcel seq len status ++ l) 3 1 = hflags % 256 ∧ leAt (edHead hflags op parcel seq len status ++ l) 4 2 = op % 65536 ∧
    leAt (edHead hflags op parcel seq len status ++ l) 8 4 = seq % 2 ^ 32 := by
  unfold edHead
  simp only [List.append_assoc, List.singleton_append]
  simp [leAt_append_toLe_left, leAt_cons, leAt_toLe_append]

theorem respond_cache (s : State) (key : Bytes) (zero : Bool) (n status : Nat) (payload : Bytes) :
    ((s.respond key zero n r status payload).box r.mail.parcel.toNat).cache.length ≤ 64 := by
  unfold State.respond
  dsimp only
  rw [State.setBox_box_at, if_pos rfl]
  rw [List.length_drop]
  omega

end

/-- A request that fails one of checks 4 to 8 is answered with the status of the check. -/
theorem receive_refused {r : EdReq} {s : State} (h : comesThrough s r) (hc : (accepted s r).edCheck r ≠ 0) :
    s.receive r = (accepted s r).finish r (accepted s r, .final ((accepted s r).edCheck r) []) := by
  rw [State.receive_of_comesThrough h]
  exact congrArg ((accepted s r).finish r) (if_pos hc)

/-- Settles O32, a clause for each check: the branches of an arrival, sequence numbers and answers are lemmas above. -/
theorem edushRequestsAreChecked : Obligations.EdushRequestsAreChecked := by
  unfold Obligations.EdushRequestsAreChecked
  refine ⟨?commands, ?off, ?badHead, ?badTag, ?through, ?refused, ?served, ?toOff, ?waits, ?seen, ?aside, ?once, ?far, ?answer, ?deferred⟩
  case commands =>
    intro m s
    exact ⟨fun op => rfl, rfl, rfl, rfl, rfl, rfl, rfl, rfl, rfl, rfl, rfl, rfl, rfl, rfl, rfl, rfl, rfl, rfl, rfl, rfl, rfl, rfl, rfl, rfl, rfl, rfl, rfl, rfl, rfl, rfl, rfl, rfl, rfl, rfl, rfl, rfl⟩
  case off => exact fun r s h => receive_off h
  case badHead => exact fun r s h1 h2 hh => receive_badHead h1 h2 hh
  case badTag =>
    intro r s h1 h2 hh ha
    obtain ⟨n, l, o, he⟩ := authFail_eq (s.at' r.mail.now) r
    rw [receive_badTag h1 h2 hh ha]
    refine ⟨rfl, ?_⟩
    rw [he]
    exact ⟨rfl, rfl⟩
  case through => exact fun r s h => State.receive_of_comesThrough h
  case refused => exact fun r s h hc => receive_refused h hc
  case served =>
    intro r s h hc
    rw [State.receive_of_comesThrough h]
    exact congrArg ((accepted s r).finish r) (if_neg (not_not_intro hc))
  case toOff => exact fun r a late hw hg => serveReq_to_off hw hg
  case waits => exact fun r a late hw hg h => serveReq_waits hw hg h
  case seen =>
    intro r s h1 h2 hh ha hs hn
    have hside : (s.at' r.mail.now).asideAlready r = false := by
      show List.any s.mail.setAside _ = false
      rw [hs]
      rfl
    obtain ⟨o, he⟩ := seenAgain_eq (s.at' r.mail.now) r
    rw [receive_authentic h1 h2 hh ha, sequence_seen hside hn]
    refine ⟨rfl, ?_⟩
    rw [he]
    exact ⟨rfl, rfl⟩
  case aside =>
    intro r s h1 h2 hh ha
    rw [receive_authentic h1 h2 hh ha]
    refine ⟨fun hs => sequence_aside hs, fun hs hn hw => ?_⟩
    obtain ⟨x, hx⟩ := sequence_waits (s := s.at' r.mail.now) hs hn hw
    rw [hx]
    exact ⟨rfl, rfl, rfl⟩
  case once => exact fun b seq _ _ h => accept_not_new h
  case far => exact fun b seq _ _ h hm => isNew_of_far_behind h hm
  case answer =>
    intro s x r st body hl
    have hf : s.finish r (x, .final st body) = x.respond (((s.box r.mail.parcel.toNat).key).getD []) ((s.box r.mail.parcel.toNat).key).isNone
        s.mail.out.length r st (if st = 0 then body else []) := rfl
    obtain ⟨tag, b, he⟩ := respond_last_eq x (((s.box r.mail.parcel.toNat).key).getD []) ((s.box r.mail.parcel.toNat).key).isNone hl r st
      (if st = 0 then body else [])
    obtain ⟨h0, h3, h4, h8⟩ := edHead_fields 1 r.op r.mail.parcel.toNat r.mail.seq.toNat (if st = 0 then body else []).length st
      (tag ++ if st = 0 then body else [])
    have hc := respond_cache (r := r) x (((s.box r.mail.parcel.toNat).key).getD []) ((s.box r.mail.parcel.toNat).key).isNone s.mail.out.length st
      (if st = 0 then body else [])
    rw [← hf] at hc
    refine ⟨_, by rw [hf, he]; rfl, rfl, ?_, ?_, ?_, ?_, hc⟩
    · rw [List.append_assoc]
      exact h0
    · rw [List.append_assoc]
      exact h3
    · rw [List.append_assoc]
      exact h4
    · rw [List.append_assoc]
      exact h8.trans (Nat.mod_eq_of_lt r.mail.seq.isLt)
  case deferred =>
    intro s x r k hk
    have hf : s.finish r (x, .wait k) = s.reply r { x with mail := { x.mail with deferred := x.mail.deferred ++ [⟨k, r⟩] } } 1 [] := if_neg (Nat.not_le.mpr hk)
    rw [hf]
    rfl

end Sys2Proof.Machine
end

section
/-! SUPPORT. The requests on parcels (R325, R326, R351, R370, R376): what each finds of its parcel, with the statement of chapter 13 on them. -/

namespace Sys2Proof.Machine

/-! NOP (R368, R376). -/

/-- An opcode that is not in Table 13-3 is refused at check 5. -/
theorem edCheck_unknown {s : State} {r : EdReq} (ho : edOp r.op = none) (hl : r.mail.len.toNat = r.mail.payload.length)
    (hm : r.mail.payload.length ≤ 8128) : s.edCheck r = 0x0101 := by
  unfold State.edCheck
  dsimp only
  rw [if_neg (not_or.mpr ⟨not_not_intro hl, Nat.not_lt.mpr hm⟩), ho]

theorem exec_edushNop_unknown {op : BitVec 16} {m : Mail} {s : State} (h : comesThrough s ⟨op.toNat, m⟩) (ho : edOp op.toNat = none)
    (hl : m.len.toNat = m.payload.length) (hm : m.payload.length ≤ 8128) :
    exec (.edushNop op m) s = answered s ⟨op.toNat, m⟩ (accepted s ⟨op.toNat, m⟩) (.final 0x0101 []) := by
  have hc := edCheck_unknown (s := accepted s ⟨op.toNat, m⟩) (r := ⟨op.toNat, m⟩) ho hl hm
  have hr := receive_refused h (by rw [hc]; decide)
  rw [hc] at hr
  exact congrArg Host.Outcome.next hr

theorem doNop_eq (s : State) (p : Nat) (l : Bytes) : s.doNop p l =
    (if l = [] then s else s.setBox p { s.box p with unacked := (s.box p).unacked.filter (fun e => decide (leAt l 0 4 < e.num)) },
      .final 0 (toLe 8 s.now ++ toLe 4 (s.box p).evNum)) := by
  cases l <;> rfl

/-! PARCEL_CREATE (R325, R370). -/

section
variable {s : State} {seq p : Nat} {l : Bytes}

theorem dying_of_free (h : (s.parcel p).state = .free) : (s.parcel p).dying = false := by
  unfold Parcel.dying
  rw [h]
  rfl

theorem doCreate_waits (h : (s.parcel (leAt l 0 2)).dying = true ∨ ((s.parcel (leAt l 0 2)).state = .free ∧ s.now < (s.parcel (leAt l 0 2)).quarantine)) :
    s.doCreate seq l = (s, .wait (parcelKeyOf (leAt l 0 2))) := if_pos h

theorem doCreate_used (hd : (s.parcel (leAt l 0 2)).dying = false) (h : (s.parcel (leAt l 0 2)).state ≠ .free) : s.doCreate seq l = (s, .final 0x0105 []) :=
  (if_neg (not_or.mpr ⟨fun h' => Bool.false_ne_true (hd.symm.trans h'), fun h' => h h'.1⟩)).trans (if_pos h)

/-- A free number out of quarantine is created with the quotas of its payload and a pre-emption area. -/
theorem doCreate_free (h : (s.parcel (leAt l 0 2)).state = .free) (hq : (s.parcel (leAt l 0 2)).quarantine ≤ s.now) : s.doCreate seq l =
    match quotasOf l, (s.box 0).key with
    | some y, some k0 =>
      (match s.preBase y.qPreempt with
        | none => (s, .final 0x0202 [])
        | some base => (s.makeParcel (leAt l 0 2) base (y.qPreempt * mib2) y (unwrapKey k0 (slice l 8 64) (leAt l 0 2) seq), .final 0 []))
    | _, _ => (s, .final 0x0102 []) := by
  refine (if_neg (not_or.mpr ⟨fun h' => Bool.false_ne_true ((dying_of_free h).symm.trans h'), fun h' => Nat.not_lt.mpr hq h'.2⟩)).trans
    ((if_neg (not_not_intro h)).trans ?_)
  rfl

/-- The parcel, its mailbox, its floors and its SPDM state, where its pre-emption area has been taken. -/
def State.fitParcel (u : State) (p base : Nat) (y : Parcel) (key : Bytes) : State :=
  let s2 := (u.updParcel p (fun _ => { y with preArea := base })).setBox p { Mailbox.fresh with key := some key }
  let s3 : State := { s2 with store := { s2.store with
    floors := SMap.set 0 s2.store.floors p 0, floorsAsked := SMap.set 0 s2.store.floorsAsked p 0 } }
  ({ s3 with sec := { s3.sec with spdm := SMap.set ⟨0⟩ s3.sec.spdm p ⟨0⟩ } } : State).wantCommit

theorem fitParcel_facts (u : State) (p base : Nat) (y : Parcel) (key : Bytes) :
    (u.fitParcel p base y key).parcel p = { y with preArea := base } ∧ ((u.fitParcel p base y key).box p).key = some key := by
  have hp : (u.updParcel p (fun _ => { y with preArea := base })).parcel p = { y with preArea := base } :=
    (State.updParcel_parcel_at u p p _).trans (if_pos rfl)
  have hb : ((u.updParcel p (fun _ => { y with preArea := base })).setBox p { Mailbox.fresh with key := some key }).box p =
      { Mailbox.fresh with key := some key } := (State.setBox_box_at _ p p _).trans (if_pos rfl)
  exact ⟨hp, congrArg Mailbox.key hb⟩

theorem makeParcel_facts (s : State) (p base len : Nat) (y : Parcel) (key : Bytes) :
    (s.makeParcel p base len y key).parcel p = { y with preArea := base } ∧ ((s.makeParcel p base len y key).box p).key = some key :=
  fitParcel_facts ((s.takeSpace ⟨1, base, len, p, 3, p⟩).setRegion 1 base len p true false) p base y key

end

/-- A parcel that is made is `DISABLED`, with its priority bounds in order. -/
theorem quotasOf_some {l : Bytes} {y : Parcel} (h : quotasOf l = some y) : y.state = .disabled ∧ y.pfMin ≤ y.pfMax := by
  revert h
  unfold quotasOf
  obtain _ | qm := quotaVal (leAt l 0x48 1) 1 16 16
  · rintro ⟨⟩
  obtain _ | qb := quotaVal (leAt l 0x49 1) 1 64 64
  · rintro ⟨⟩
  obtain _ | qr := quotaVal (leAt l 0x4A 2) 2 4 256
  · rintro ⟨⟩
  obtain _ | qa := quotaVal (leAt l 0x4C 2) 2 64 4096
  · rintro ⟨⟩
  obtain _ | lo := quotaVal (leAt l 0x4E 2) 2 0 256
  · rintro ⟨⟩
  obtain _ | hi := quotaVal (leAt l 0x50 2) 2 256 256
  · rintro ⟨⟩
  obtain _ | qi := quotaVal (leAt l 0x54 4) 4 4096 65536
  · rintro ⟨⟩
  obtain _ | re := quotaVal (leAt l 0x58 4) 4 0 1179648
  · rintro ⟨⟩
  obtain _ | aq := quotaVal (leAt l 0x5C 4) 4 0 8388608
  · rintro ⟨⟩
  obtain _ | pr := quotaVal (leAt l 0x60 4) 4 32 512
  · rintro ⟨⟩
  show (if lo ≤ hi then _ else _) = some y → _
  split
  next hle => rintro ⟨⟩; exact ⟨rfl, hle⟩
  · rintro ⟨⟩

/-! PARCEL_ENABLE, PARCEL_DISABLE and PARCEL_DESTROY (Tables 12-2 and 12-3). -/

section
variable {s : State} {w : Waiter} {l : Bytes} {late : Bool}

theorem parcel_gone (h : (s.parcel (leAt l 0 2)).state = .free) : s.doDestroy w l late = (s, .final (goneStatus late) []) ∧
    s.doEnable l late = (s, .final (goneStatus late) []) ∧ s.doDisable w l late = (s, .final (goneStatus late) []) := ⟨if_pos h, if_pos h, if_pos h⟩

theorem parcel_closing (h : (s.parcel (leAt l 0 2)).state ≠ .free)
    (hc : (s.parcel (leAt l 0 2)).dying = true ∨ (s.parcel (leAt l 0 2)).closing = true) :
    s.doDestroy w l late = (s, .wait (parcelKeyOf (leAt l 0 2))) ∧ s.doEnable l late = (s, .wait (parcelKeyOf (leAt l 0 2))) ∧
      s.doDisable w l late = (s, .wait (parcelKeyOf (leAt l 0 2))) :=
  ⟨(if_neg h).trans (if_pos hc), (if_neg h).trans (if_pos hc), (if_neg h).trans (if_pos hc)⟩

/-- A parcel in service, or out of it, that is not being closed. -/
theorem parcel_open (h : (s.parcel (leAt l 0 2)).state ≠ .free) (hd : (s.parcel (leAt l 0 2)).dying = false)
    (hc : (s.parcel (leAt l 0 2)).closing = false) : s.doDestroy w l late = ((s.endSaved (leAt l 0 2)).closeParcel (leAt l 0 2) true w, .started []) ∧
    s.doEnable l late = (if (s.parcel (leAt l 0 2)).state = .enabled then (s, .final 0 [])
      else ((s.updParcel (leAt l 0 2) (fun x => { x with state := .enabled })).wantCommit, .final 0 [])) ∧
    s.doDisable w l late = (if (s.parcel (leAt l 0 2)).state = .disabled then (s, .ended 0 []) else (s.closeParcel (leAt l 0 2) false w, .started [])) := by
  have hn : ¬ ((s.parcel (leAt l 0 2)).dying = true ∨ (s.parcel (leAt l 0 2)).closing = true) :=
    not_or.mpr ⟨fun h => Bool.false_ne_true (hd.symm.trans h), fun h => Bool.false_ne_true (hc.symm.trans h)⟩
  exact ⟨(if_neg h).trans (if_neg hn), (if_neg h).trans (if_neg hn), (if_neg h).trans (if_neg hn)⟩

end

/-- Settles O33: a request that passes has the effect of its opcode, and each effect goes by the state of its parcel. -/
theorem edushParcelRequestsHaveTheirEffect : Obligations.EdushParcelRequestsHaveTheirEffect := by
  unfold Obligations.EdushParcelRequestsHaveTheirEffect
  refine ⟨?nop, ?unknown, ?nopDoes, ?create, ?destroy, ?enable, ?disable, ?createWaits, ?createUsed, ?createForm, ?createRoom, ?created, ?gone, ?closing,
    ?disabled, ?enabled, ?made, ?quotas⟩
  case nop => exact fun m s a h ha => exec_of_passes h rfl (f := fun a => a.doNop m.parcel.toNat m.payload) (fun _ => rfl) ha
  case unknown => exact fun op m s h ho hl hm => exec_edushNop_unknown h ho hl hm
  case nopDoes => exact fun s p l => doNop_eq s p l
  case create => exact fun m s a h ha => exec_of_passes h rfl (f := fun a => a.doCreate m.seq.toNat m.payload) (fun _ => rfl) ha
  case destroy => exact fun m s a h ha => exec_of_passes h rfl (f := fun a => a.doDestroy (EdReq.waiter ⟨0x11, m⟩) m.payload false) (fun _ => rfl) ha
  case enable => exact fun m s a h ha => exec_of_passes h rfl (f := fun a => a.doEnable m.payload false) (fun _ => rfl) ha
  case disable => exact fun m s a h ha => exec_of_passes h rfl (f := fun a => a.doDisable (EdReq.waiter ⟨0x13, m⟩) m.payload false) (fun _ => rfl) ha
  case createWaits =>
    rintro s seq p l rfl h
    exact doCreate_waits h
  case createUsed =>
    rintro s seq p l rfl hd h
    exact doCreate_used hd h
  case createForm =>
    rintro s seq p l rfl hf hq h
    rw [doCreate_free hf hq]
    obtain h | h := h
    · rw [h]
    · rw [h]
      cases quotasOf l <;> rfl
  case createRoom =>
    rintro s seq p l y k0 rfl hf hq hy hk hb
    rw [doCreate_free hf hq, hy, hk]
    dsimp only
    rw [hb]
  case created =>
    rintro s seq p l y k0 base rfl hf hq hy hk hb
    rw [doCreate_free hf hq, hy, hk]
    dsimp only
    rw [hb]
  case gone =>
    rintro s w p l late rfl h
    exact parcel_gone h
  case closing =>
    rintro s w p l late rfl h hc
    exact parcel_closing h hc
  case disabled =>
    rintro s w p l late rfl h hd hc
    obtain ⟨h1, h2, h3⟩ := parcel_open (w := w) (late := late) (by rw [h]; decide) hd hc
    rw [h] at h2 h3
    exact ⟨h1, h3.trans (if_pos rfl), h2.trans (if_neg (by decide))⟩
  case enabled =>
    rintro s w p l late rfl h hd hc
    obtain ⟨h1, h2, h3⟩ := parcel_open (w := w) (late := late) (by rw [h]; decide) hd hc
    rw [h] at h2 h3
    exact ⟨h1, h3.trans (if_neg (by decide)), h2.trans (if_pos rfl)⟩
  case made => exact fun s p base len y key => makeParcel_facts s p base len y key
  case quotas => exact fun l y h => quotasOf_some h

end Sys2Proof.Machine
end

section
/-! SUPPORT. The requests on the module (R353, R374, R390, R444, R452, R470 to R474, R481 to R483): what each finds, and what it comes to, with the
statement of chapter 13 on them. -/

namespace Sys2Proof.Machine

/-! Plans and links (R390, R483). -/

section
variable {s : State} {w : Waiter} {l : Bytes}

theorem doPlan_waits (h : s.fab.discovering = true) : s.doPlan w l = (s, .wait ⟨6, 0⟩) := if_pos h

theorem doPlan_takes (h : s.fab.discovering = false) : s.doPlan w l =
    ((((s.updFab (fun f => { f with planId := leAt l 0 8, discovering := true, plan := planOf l })).planLinks.updPower
      (fun p => { p with planWait := some w })).wantCommit), .started []) := if_neg (fun h' => Bool.false_ne_true (h.symm.trans h'))

/-- One link compared with the plan, where it is not `UP`: a quarantined one identifies again. -/
theorem foldl_planLink (l : List Nat) (s : State) (F : State → Nat → State)
    (hF : ∀ (s : State) i, (s.fport i).state ≠ .up → F s i = if (s.fport i).state = .quarantined then s.updFport i (fun p => { p with state := .ident }) else s)
    (hu : ∀ j, j ∈ l → (s.fport j).state ≠ .up) (i : Nat) (hi : (s.fport i).state = .ident ∨ (i ∈ l ∧ (s.fport i).state = .quarantined)) :
    ((l.foldl F s).fport i).state = .ident := by
  induction l generalizing s with
  | nil => exact hi.resolve_right (fun h => absurd h.1 List.not_mem_nil)
  | cons x l ih =>
    rw [List.foldl_cons, hF s x (hu x List.mem_cons_self)]
    by_cases hq : (s.fport x).state = .quarantined
    · rw [if_pos hq]
      refine ih _ (fun j hj => ?_) ?_
      · rw [State.updFport_fport_at]
        split
        · exact LinkState.noConfusion
        · exact hu j (List.mem_cons_of_mem x hj)
      · rw [State.updFport_fport_at]
        by_cases hx : x = i
        · rw [if_pos hx]
          exact .inl rfl
        · rw [if_neg hx]
          exact hi.imp_right fun h => ⟨List.mem_of_ne_of_mem (Ne.symm hx) h.1, h.2⟩
    · rw [if_neg hq]
      refine ih s (fun j hj => hu j (List.mem_cons_of_mem x hj)) (hi.imp_right fun h => ⟨?_, h.2⟩)
      refine List.mem_of_ne_of_mem (fun h' => hq ?_) h.1
      rw [← h']
      exact h.2

theorem planLinks_ident {i : Nat} (hi : i < 12) (hq : (s.fport i).state = .quarantined) (hu : ∀ j, j < 12 → (s.fport j).state ≠ .up) :
    (s.planLinks.fport i).state = .ident := by
  refine foldl_planLink (List.range 12) s _ (fun s i h => ?_) (fun j hj => hu j (List.mem_range.mp hj)) i (.inr ⟨List.mem_range.mpr hi, hq⟩)
  cases hs : (s.fport i).state with
  | up => exact absurd hs h
  | quarantined => rfl
  | _ => rfl

theorem doRetrain_eq : s.doRetrain w l =
    if s.power.trains.any (fun j => j.kind == leAt l 0 1 && j.index == leAt l 1 1) = true ∨ (leAt l 0 1 = 0 ∧ (s.fport (leAt l 1 1)).state = .recover)
    then (s, .wait ⟨5, leAt l 0 1 * 16 + leAt l 1 1⟩) else (s.addTrain ⟨leAt l 0 1, leAt l 1 1, w⟩, .started []) :=
  if_congr (by rw [Bool.or_eq_true, Bool.and_eq_true, beq_iff_eq, beq_iff_eq]) rfl rfl

end

/-! Power states (R444, R452). -/

section
variable {s : State} {w : Waiter} {l : Bytes}

/-- A change of state waits for the one before it. -/
theorem doState_waits (h : s.power.mode = .starting ∨ s.power.going ≠ none ∨ s.power.waits ≠ []) : s.doState w l = (s, .wait ⟨7, 0⟩) := by
  refine if_pos (h.imp_right fun h => h.imp (fun h => Option.isSome_iff_ne_none.mpr h) fun h => ?_)
  rw [List.isEmpty_eq_false_iff.mpr h]
  rfl

theorem doState_free (hm : s.power.mode ≠ .starting) (hg : s.power.going = none) (hw : s.power.waits = []) : s.doState w l =
    if s.power.mode = pwrModeOf (leAt l 1 1) then (s.updPower (fun p => { p with wanted := pwrModeOf (leAt l 1 1), retain := leAt l 2 1 % 16 }), .ended 0 [])
    else if s.power.thermHold = true ∨ s.power.coolHold = true then
      (s.updPower (fun p => { p with wanted := pwrModeOf (leAt l 1 1), retain := leAt l 2 1 % 16, waits := [⟨pwrModeOf (leAt l 1 1), w⟩] }), .started [])
    else (s.updPower (fun p => { p with
      wanted := pwrModeOf (leAt l 1 1), retain := leAt l 2 1 % 16, going := some (pwrModeOf (leAt l 1 1)), waits := [⟨pwrModeOf (leAt l 1 1), w⟩] }),
      .started []) := by
  have hn : ¬ (s.power.mode = .starting ∨ s.power.going.isSome = true ∨ (!s.power.waits.isEmpty) = true) := by
    rw [hg, hw]
    rintro (h | h | h)
    · exact hm h
    · cases h
    · cases h
  have hws (x : PwrWait) : s.power.waits ++ [x] = [x] := by rw [hw, List.nil_append]
  refine (if_neg hn).trans ?_
  unfold State.updPower
  simp only [hws, if_true]
  rfl

end

/-! Parcel 0's key (R474). -/

section
variable {s : State} {w : Waiter} {l : Bytes}

theorem doInstall_first (h : (s.box 0).key = none) : s.doInstall w l =
    (((oaepDecrypt Config.identityN.toNat Config.identityD.toNat (slice l 8 512)).filter (fun k => k.length == 64)).elim s (fun k => s.setKey0 k 0 w),
      if ((oaepDecrypt Config.identityN.toNat Config.identityD.toNat (slice l 8 512)).filter (fun k => k.length == 64)).isSome then .started []
      else .final 0x0303 []) := by
  unfold State.doInstall
  rw [if_neg (by rw [h]; exact Bool.false_ne_true)]
  cases oaepDecrypt Config.identityN.toNat Config.identityD.toNat (slice l 8 512) with
  | none => rfl
  | some k =>
    dsimp only
    by_cases hk : k.length = 64
    · rw [if_pos hk, Option.filter_some, if_pos (beq_iff_eq.mpr hk)]
      rfl
    · rw [if_neg hk, Option.filter_some, if_neg (fun h => hk (beq_iff_eq.mp h))]
      rfl

theorem doInstall_again {k : Bytes} (h : (s.box 0).key = some k) : s.doInstall w l = (s, .final 0x0105 []) := if_pos (by rw [h]; rfl)

theorem doReplaceKey_some {k : Bytes} {seq : Nat} (h : (s.box 0).key = some k) :
    s.doReplaceKey w seq l = (s.setKey0 (unwrapKey k (slice l 8 64) 0 seq) 1 w, .started []) := by
  unfold State.doReplaceKey
  rw [h]

theorem doReplaceKey_none {seq : Nat} (h : (s.box 0).key = none) : s.doReplaceKey w seq l = (s, .final 0x0105 []) := by
  unfold State.doReplaceKey
  rw [h]

/-- A key of parcel 0 that is set waits for its commit, is recorded, and starts its SPDM connection afresh. -/
theorem setKey0_facts (s : State) (k : Bytes) (mode : Nat) (w : Waiter) :
    (s.setKey0 k mode w).sec = { s.sec with spdm := SMap.set ⟨0⟩ s.sec.spdm 0 ⟨0⟩, keyWaits := s.sec.keyWaits ++ [w] } ∧
    (s.setKey0 k mode w).box 0 = { s.box 0 with key := some k } ∧ (s.setKey0 k mode w).store.waiting = true ∧
    (s.setKey0 k mode w).book.next = s.book.next + 1 := by
  unfold State.setKey0
  generalize BitVec.ofNat 64 mode = d
  dsimp only
  generalize hu : ((s.setBox 0 { s.box 0 with key := some k }).updSec (fun x => { x with
    spdm := SMap.set ⟨0⟩ x.spdm 0 ⟨0⟩, keyWaits := x.keyWaits ++ [w] })).wantCommit = u
  obtain ⟨b, hb, hn⟩ := post_quiet_eq u false 0x0E 0x06 0xFFFF 0x20 d
  have hbox : u.box 0 = { s.box 0 with key := some k } := by
    rw [← hu]
    exact (State.setBox_box_at s 0 0 _).trans (if_pos rfl)
  rw [hb]
  refine ⟨by rw [← hu]; rfl, hbox, by rw [← hu]; rfl, hn.trans (by rw [← hu]; rfl)⟩

end

/-! Quadrants and stacks (R481 to R483). -/

section
variable {s : State} {w : Waiter} {q : Nat}

theorem doTakeOut_refused (h : (s.power.jobs.any (fun j => j.quad == q)) = false)
    (ho : SMap.get 0 s.power.outQuads q ≠ 0 ∨ (∀ x, x < 4 → x ≠ q → SMap.get 0 s.power.outQuads x ≠ 0)) : s.doTakeOut w q = (s, .final 0x0105 []) := by
  refine (if_neg (fun h' => Bool.false_ne_true (h.symm.trans h'))).trans (if_pos (ho.imp decide_eq_true fun ho => ?_))
  refine List.all_eq_true.mpr fun x hx => ?_
  by_cases hxq : x = q
  · exact Bool.or_eq_true_iff.mpr (.inl (beq_iff_eq.mpr hxq))
  · exact Bool.or_eq_true_iff.mpr (.inr (decide_eq_true (ho x (List.mem_range.mp hx) hxq)))

theorem doTakeOut_starts {x : Nat} (h : (s.power.jobs.any (fun j => j.quad == q)) = false) (hq : SMap.get 0 s.power.outQuads q = 0) (hx : x < 4) (hxq : x ≠ q)
    (h0 : SMap.get 0 s.power.outQuads x = 0) : s.doTakeOut w q =
    ((((s.updPower (fun p => { p with outQuads := SMap.set 0 p.outQuads q 1, jobs := p.jobs ++ [⟨q, 0, w, 0, 0⟩] })).moveRings q).settle).serviceQuad
      ⟨q, 0, w, 0, 0⟩, .started []) := by
  refine (if_neg (fun h' => Bool.false_ne_true (h.symm.trans h'))).trans (if_neg ?_)
  rintro (ho | ho)
  · exact of_decide_eq_true ho hq
  · obtain hb | hb := Bool.or_eq_true_iff.mp (List.all_eq_true.mp ho x (List.mem_range.mpr hx))
    · exact hxq (beq_iff_eq.mp hb)
    · exact of_decide_eq_true hb h0

theorem doRetest_free (h : (s.power.jobs.any (fun j => j.quad == q)) = false) : s.doRetest w q =
    if SMap.get 0 s.power.outQuads q = 0 then (s, .final 0x0105 []) else (s.startRetest ⟨q, 1, w, 0, 0⟩, .started []) :=
  if_neg (fun h' => Bool.false_ne_true (h.symm.trans h'))

theorem doReturn_free (h : (s.power.jobs.any (fun j => j.quad == q)) = false) : s.doReturn w q = match SMap.get 0 s.power.outQuads q with
    | 0 => (s, .ended 0 [])
    | 2 => (s.finishReturn q, .ended 0 [])
    | _ => (s.startRetest ⟨q, 2, w, 0, 0⟩, .started []) := if_neg (fun h' => Bool.false_ne_true (h.symm.trans h'))

end

/-! Firmware and policies (R413, R470, R471). -/

section
variable {s : State} {w : Waiter} {f : Option Bytes} {l : Bytes}

theorem firmware_busy (h : s.sec.staging ≠ none ∨ s.sec.activation ≠ none) : s.sec.staging.isSome = true ∨ s.sec.activation.isSome = true :=
  h.imp Option.isSome_iff_ne_none.mpr Option.isSome_iff_ne_none.mpr

theorem doFwStage_busy (h : s.sec.staging ≠ none ∨ s.sec.activation ≠ none) : s.doFwStage w f l = (s, .wait ⟨10, 0⟩) := by
  refine (if_neg ?_).trans (if_pos (firmware_busy h))
  rintro ⟨-, h1, h2⟩
  exact h.elim (fun h => h (Option.isNone_iff_eq_none.mp h1)) (fun h => h (Option.isNone_iff_eq_none.mp h2))

theorem doFwStage_policy (hs : s.sec.staging = none) (ha : s.sec.activation = none) (hf : (f.any (fun x => leAt x 0 4 == 0x4C4F5050)) = true) :
    s.doFwStage w f l = ((s.doPolicy f (leAt l 0 8)).1, .ended (s.doPolicy f (leAt l 0 8)).2 []) :=
  if_pos ⟨hf, by rw [hs]; rfl, by rw [ha]; rfl⟩

theorem doFwStage_image (hs : s.sec.staging = none) (ha : s.sec.activation = none) (hf : (f.any (fun x => leAt x 0 4 == 0x4C4F5050)) = false) :
    s.doFwStage w f l = (s.updSec (fun x => { x with staging := some ⟨leAt l 0 8, w⟩ }), .started []) :=
  (if_neg (fun h => Bool.false_ne_true (hf.symm.trans h.1))).trans (if_neg (by rw [hs, ha]; exact not_or.mpr ⟨Bool.false_ne_true, Bool.false_ne_true⟩))

theorem doActivate_busy (h : s.sec.staging ≠ none ∨ s.sec.activation ≠ none) : s.doActivate w = (s, .wait ⟨10, 0⟩) := if_pos (firmware_busy h)

theorem doActivate_free (hs : s.sec.staging = none) (ha : s.sec.activation = none) : s.doActivate w =
    if !bankValid (s.sec.fw s.sec.other).image s.sec.floor then (s, .ended 0x0303 [])
    else match s.nextCore [3, 2, 1, 0] with
    | none => (s, .ended 0x0303 [])
    | some c => ((s.updSec (fun x => { x with activation := some ⟨c, [], w⟩ })).assignDuties [c], .started []) :=
  if_neg (by rw [hs, ha]; exact not_or.mpr ⟨Bool.false_ne_true, Bool.false_ne_true⟩)

/-- A sound image of an enabled parcel goes to the slot that is its parcel's, or to none of another's. -/
theorem doPolicy_sound {f : Bytes} (ho : policyOk f = true) (hsig : s.policySigned f = true) (he : (s.parcel (leAt f 8 2)).state = .enabled)
    (hp : ∀ k, k < 4 → ∀ y, s.policy k = some y → (y.parcel = leAt f 8 2 ↔ k = leAt f 6 1)) : s.doPolicy (some f) f.length =
    if leAt f 0x10 4 = 0 then (s.setPolicy (leAt f 6 1) none, 0)
    else (s.setPolicy (leAt f 6 1) (some ⟨leAt f 8 2, f, (f.zipIdx.filter (fun x => x.1 != 0)).map (fun x => (x.2, x.1)), 0, none, [], 0⟩), 0) := by
  have hi : leAt f 6 1 < 4 := by
    obtain ⟨-, -, -, h, -⟩ := of_decide_eq_true ho
    omega
  have hforeign : ((s.policy (leAt f 6 1)).any (fun y => y.parcel != leAt f 8 2) ||
      ([0, 1, 2, 3] : List Nat).any (fun k => k != leAt f 6 1 && (s.policy k).any (fun y => y.parcel == leAt f 8 2))) = false := by
    refine Bool.or_eq_false_iff.mpr ⟨?_, List.any_eq_false.mpr fun k hk => ?_⟩
    · cases hy : s.policy (leAt f 6 1) with
      | none => rfl
      | some y => exact bne_eq_false_iff_eq.mpr ((hp _ hi y hy).mpr rfl)
    · rw [Bool.and_eq_true]
      rintro ⟨hne, hany⟩
      obtain ⟨y, hy, hq⟩ := (Option.any_eq_true _ _).mp hany
      exact bne_iff_ne.mp hne ((hp k (List.mem_range.mp hk) y hy).mp (beq_iff_eq.mp hq))
  unfold State.doPolicy
  dsimp only
  rw [if_neg (not_not_intro rfl), ho, hsig, hforeign, if_neg (not_not_intro he)]
  rfl

end

/-! The opcodes with more than one effect. -/

section
variable (a : State) (m : Mail)

theorem serveReq_stateSet : a.serveReq ⟨0x71, m⟩ false =
    if leAt m.payload 0 1 = 0 then a.doState (EdReq.waiter ⟨0x71, m⟩) m.payload
    else if leAt m.payload 0 1 = 1 then a.doNetwork m.payload
    else if leAt m.payload 1 1 = 0 then a.doInstall (EdReq.waiter ⟨0x71, m⟩) m.payload
    else a.doReplaceKey (EdReq.waiter ⟨0x71, m⟩) m.seq.toNat m.payload := rfl

/-- A `SERVICE` request takes a quadrant out, tests it or returns it. -/
def State.doService (a : State) (m : Mail) : State × Ans :=
  if leAt m.payload 1 1 = 0 then a.doTakeOut (EdReq.waiter ⟨0x78, m⟩) (leAt m.payload 0 1)
  else if leAt m.payload 1 1 = 1 then a.doRetest (EdReq.waiter ⟨0x78, m⟩) (leAt m.payload 0 1)
  else a.doReturn (EdReq.waiter ⟨0x78, m⟩) (leAt m.payload 0 1)

theorem serveReq_service : a.serveReq ⟨0x78, m⟩ false =
    if waitsServe 0x78 && a.power.going == some .off then (a, .final 0x0105 [])
    else if waitsServe 0x78 && (a.power.going.isSome || a.power.mode != .serve) then (a, .wait ⟨7, 1⟩)
    else a.doService m := rfl

theorem doService_takeOut (h : leAt m.payload 1 1 = 0) : a.doService m = a.doTakeOut (EdReq.waiter ⟨0x78, m⟩) (leAt m.payload 0 1) := if_pos h

theorem doService_retest (h : leAt m.payload 1 1 = 1) : a.doService m = a.doRetest (EdReq.waiter ⟨0x78, m⟩) (leAt m.payload 0 1) := by
  unfold State.doService
  rw [if_neg (by rw [h]; decide), if_pos h]

theorem doService_return (h : leAt m.payload 1 1 = 2) : a.doService m = a.doReturn (EdReq.waiter ⟨0x78, m⟩) (leAt m.payload 0 1) := by
  unfold State.doService
  rw [if_neg (by rw [h]; decide), if_neg (by rw [h]; decide)]

end

/-- Settles O36: a request that passes has the effect of its opcode, and each effect goes by what it finds. -/
theorem edushModuleRequestsHaveTheirEffect : Obligations.EdushModuleRequestsHaveTheirEffect := by
  unfold Obligations.EdushModuleRequestsHaveTheirEffect
  refine ⟨?plan, ?topology, ?retrain, ?cap, ?state, ?network, ?install, ?replace, ?takeOut, ?retest, ?back, ?recal, ?stage, ?policy, ?activate,
    ?planWaits, ?planTakes, ?planLinks, ?retrainWaits, ?retrains, ?trains, ?capSets, ?stateWaits, ?stateIn, ?stateHeld, ?stateDrains, ?networkSets,
    ?installs, ?installAgain, ?replaces, ?replaceNone, ?setsKey, ?takeOutWaits, ?retestWaits, ?returnWaits, ?takeOutNot, ?takesOut, ?retestNot, ?retests,
    ?returnIn, ?returns, ?returnRetests, ?recalWaits, ?recals, ?stageWaits, ?stagePolicy, ?stages, ?policyDoes, ?activateWaits, ?activates⟩
  case plan => exact fun m s a h ha => exec_of_passes h rfl (f := fun a => a.doPlan (EdReq.waiter ⟨0x60, m⟩) m.payload) (fun _ => rfl) ha
  case topology => exact fun m s a h ha => exec_of_passes h rfl (f := fun a => (a, Ans.final 0 a.topology)) (fun _ => rfl) ha
  case retrain => exact fun m s a h ha => exec_of_passes h rfl (f := fun a => a.doRetrain (EdReq.waiter ⟨0x62, m⟩) m.payload) (fun _ => rfl) ha
  case cap => exact fun m s a h ha => exec_of_passes h rfl (f := fun a => a.doCap m.payload) (fun _ => rfl) ha
  case state =>
    intro m s a h ha h0
    exact exec_of_passes h rfl (f := fun a => a.doState (EdReq.waiter ⟨0x71, m⟩) m.payload) (fun a => (serveReq_stateSet a m).trans (if_pos h0)) ha
  case network =>
    intro m s a h ha h0
    refine exec_of_passes h rfl (f := fun a => a.doNetwork m.payload) (fun a => (serveReq_stateSet a m).trans ?_) ha
    rw [if_neg (by rw [h0]; decide), if_pos h0]
    rfl
  case install =>
    intro m s a h ha h0 h1
    refine exec_of_passes h rfl (f := fun a => a.doInstall (EdReq.waiter ⟨0x71, m⟩) m.payload) (fun a => (serveReq_stateSet a m).trans ?_) ha
    rw [if_neg (by rw [h0]; decide), if_neg (by rw [h0]; decide), if_pos h1]
    rfl
  case replace =>
    intro m s a h ha h0 h1
    refine exec_of_passes h rfl (f := fun a => a.doReplaceKey (EdReq.waiter ⟨0x71, m⟩) m.seq.toNat m.payload) (fun a => (serveReq_stateSet a m).trans ?_) ha
    rw [if_neg (by rw [h0]; decide), if_neg (by rw [h0]; decide), if_neg (by rw [h1]; decide)]
    rfl
  case takeOut =>
    intro m s a h ha h1
    refine exec_of_passes h rfl (f := fun a => a.doTakeOut (EdReq.waiter ⟨0x78, m⟩) (leAt m.payload 0 1)) (fun a => ?_) ha
    exact (serveReq_service a m).trans (by rw [doService_takeOut a m h1])
  case retest =>
    intro m s a h ha h1
    refine exec_of_passes h rfl (f := fun a => a.doRetest (EdReq.waiter ⟨0x78, m⟩) (leAt m.payload 0 1)) (fun a => ?_) ha
    exact (serveReq_service a m).trans (by rw [doService_retest a m h1])
  case back =>
    intro m s a h ha h1
    refine exec_of_passes h rfl (f := fun a => a.doReturn (EdReq.waiter ⟨0x78, m⟩) (leAt m.payload 0 1)) (fun a => ?_) ha
    exact (serveReq_service a m).trans (by rw [doService_return a m h1])
  case recal => exact fun m s a h ha => exec_of_passes h rfl (f := fun a => a.doRecal (EdReq.waiter ⟨0x79, m⟩) m.payload) (fun _ => rfl) ha
  case stage => exact fun m s a h ha => exec_of_passes h rfl (f := fun a => a.doFwStage (EdReq.waiter ⟨0x80, m⟩) m.fetched m.payload) (fun _ => rfl) ha
  case policy => exact fun m s a h ha => exec_of_passes h rfl (f := fun a => a.doFwStage (EdReq.waiter ⟨0x80, m⟩) m.fetched m.payload) (fun _ => rfl) ha
  case activate => exact fun m s a h ha => exec_of_passes h rfl (f := fun a => a.doActivate (EdReq.waiter ⟨0x81, m⟩)) (fun _ => rfl) ha
  case planWaits => exact fun s w l h => doPlan_waits h
  case planTakes => exact fun s w l h => doPlan_takes h
  case planLinks => exact fun s i hi hq hu => planLinks_ident hi hq hu
  case retrainWaits =>
    intro s w l h
    rw [doRetrain_eq, if_pos h]
  case retrains =>
    intro s w l h hr
    rw [doRetrain_eq, if_neg]
    rintro (h' | ⟨h1, h2⟩)
    · exact Bool.false_ne_true (h.symm.trans h')
    · exact hr.elim (fun hr => hr h1) (fun hr => hr h2)
  case trains => exact fun s j => ⟨fun h => if_neg (by rw [h]; exact Bool.false_ne_true), fun h => if_pos (by rw [h]; rfl)⟩
  case capSets => exact fun s l => rfl
  case stateWaits => exact fun s w l x _ h => doState_waits h
  case stateIn =>
    rintro s w l x rfl hm hg hw hx
    rw [doState_free hm hg hw, if_pos hx]
  case stateHeld =>
    rintro s w l x rfl hm hg hw hx hh
    rw [doState_free hm hg hw, if_neg hx, if_pos hh]
  case stateDrains =>
    rintro s w l x rfl hm hg hw hx ht hc
    rw [doState_free hm hg hw, if_neg hx, if_neg]
    rintro (h | h)
    · exact Bool.false_ne_true (ht.symm.trans h)
    · exact Bool.false_ne_true (hc.symm.trans h)
  case networkSets => exact fun s l => ⟨rfl, rfl, rfl, rfl⟩
  case installs =>
    rintro s w l o h rfl
    exact doInstall_first h
  case installAgain => exact fun s w l k h => doInstall_again h
  case replaces => exact fun s w l k seq h => doReplaceKey_some h
  case replaceNone => exact fun s w l seq h => doReplaceKey_none h
  case setsKey => exact fun s k mode w => setKey0_facts s k mode w
  case takeOutWaits => exact fun s w q h => if_pos h
  case retestWaits => exact fun s w q h => if_pos h
  case returnWaits => exact fun s w q h => if_pos h
  case takeOutNot => exact fun s w q h ho => doTakeOut_refused h ho
  case takesOut => exact fun s w q x h hq hx hxq h0 => doTakeOut_starts h hq hx hxq h0
  case retestNot =>
    intro s w q h h0
    rw [doRetest_free h, if_pos h0]
  case retests =>
    intro s w q h h0
    rw [doRetest_free h, if_neg h0]
  case returnIn =>
    intro s w q h h0
    rw [doReturn_free h, h0]
    rfl
  case returns =>
    intro s w q h h2
    rw [doReturn_free h, h2]
    rfl
  case returnRetests =>
    intro s w q h h0 h2
    rw [doReturn_free h]
    split
    · contradiction
    · contradiction
    · rfl
  case recalWaits => exact fun s w l h => if_pos h
  case recals => exact fun s w l h => if_neg (fun h' => Bool.false_ne_true (h.symm.trans h'))
  case stageWaits => exact fun s w f l h => doFwStage_busy h
  case stagePolicy => exact fun s w f l hs ha hf => doFwStage_policy hs ha hf
  case stages => exact fun s w f l hs ha hf => doFwStage_image hs ha hf
  case policyDoes =>
    intro s f _ ho hsig he hp
    rw [doPolicy_sound ho hsig he hp]
    refine ⟨by split <;> rfl, fun h => ?_, fun h => ?_⟩
    · rw [if_pos h]
      exact (State.setPolicy_policy_at ..).trans (if_pos rfl)
    · rw [if_neg h]
      exact ⟨_, (State.setPolicy_policy_at ..).trans (if_pos rfl), rfl, rfl, rfl, rfl⟩
  case activateWaits => exact fun s w h => doActivate_busy h
  case activates =>
    intro s w hs ha
    rw [doActivate_free hs ha]
    refine ⟨fun h => ?_, fun c hv hn => ?_⟩
    · obtain h | h := h
      · rw [if_pos (by rw [h]; rfl)]
      · split
        · rfl
        · rw [h]
    · rw [hv, hn]
      rfl

end Sys2Proof.Machine
end

section
/-! SUPPORT. The links (R386, R387, R390 to R393, R404, R408): what each operation does to its port and leaves of the others, with the
statement of chapter 14 on them. -/

namespace Sys2Proof.Machine

/-! Ports. -/

section
variable (s : State) (i j : Nat)

theorem setFport_fport_at (p : FabPort) : (s.setFport i p).fport j = if i = j then p else s.fport j := SMap.get_set ..

theorem updFport_same (f : FabPort → FabPort) : (s.updFport i f).fport i = f (s.fport i) :=
  (s.updFport_fport_at i i f).trans (if_pos rfl)

theorem updFport_other {i j : Nat} (h : j ≠ i) (f : FabPort → FabPort) : (s.updFport i f).fport j = s.fport j :=
  (s.updFport_fport_at i j f).trans (if_neg (Ne.symm h))

/-- Two changes of a port are one. -/
theorem updFport_updFport (f g : FabPort → FabPort) (j : Nat) : ((s.updFport i f).updFport i g).fport j = (s.updFport i (fun p => g (f p))).fport j := by
  by_cases h : j = i
  · rw [h, updFport_same, updFport_same, updFport_same]
  · rw [updFport_other _ h, updFport_other _ h, updFport_other _ h]

theorem signal_updFport (n i : Nat) (f : FabPort → FabPort) : (s.signal n).updFport i f = (s.updFport i f).signal n := rfl

/-- A change of the fabric block that leaves the ports. -/
theorem updFab_fport {f : Fab → Fab} (h : (f s.fab).ports = s.fab.ports) : (s.updFab f).fport i = s.fport i := by
  show SMap.get FabPort.reset (f s.fab).ports i = _
  rw [h]
  rfl

/-- Steps that change one port each, over a list of ports. -/
theorem foldl_fport (F : State → Nat → State) (G : Nat → FabPort → FabPort)
    (hF : ∀ s i j, (F s i).fport j = if i = j then G i (s.fport i) else s.fport j) (l : List Nat) (hl : l.Nodup) (s : State) (j : Nat) :
    (l.foldl F s).fport j = if j ∈ l then G j (s.fport j) else s.fport j := by
  induction l generalizing s with
  | nil => rfl
  | cons x l ih =>
    obtain ⟨hx, hl⟩ := List.nodup_cons.mp hl
    rw [List.foldl_cons, ih hl, hF]
    by_cases hj : x = j
    · subst hj
      rw [if_neg hx, if_pos rfl, if_pos List.mem_cons_self]
    · rw [if_neg hj]
      exact if_congr ⟨List.mem_cons_of_mem x, fun h => (List.mem_cons.mp h).resolve_left (Ne.symm hj)⟩ rfl rfl

end

/-! Causes, quarantine and recovery (R392, R404). -/

section
variable (s : State) (i cause : Nat)

theorem post_fport (dr : Bool) (src code status parcel unit : Nat) (detail : BitVec 64) (i : Nat) :
    (s.post dr src code status parcel unit detail).fport i = s.fport i := by
  obtain ⟨m, b, h⟩ := s.post_eq dr src code status parcel unit detail
  rw [h]
  rfl

/-- A port with a cause latched in `FP_ERR`: the first stays (Table 14-9). -/
def FabPort.latch (p : FabPort) (cause : Nat) : FabPort :=
  { p with
    errMulti := p.errMulti || p.errValid
    errCause := if p.errValid then p.errCause else cause
    errValid := true }

theorem fpErr_eq : ∃ m b, s.fpErr i cause =
    { (s.updFport i (fun p => p.latch cause)).signal (200 + i) with mail := m, book := b } :=
  State.post_eq ..

theorem fpErr_fport (j : Nat) : (s.fpErr i cause).fport j = (s.updFport i (fun p => p.latch cause)).fport j := by
  obtain ⟨m, b, h⟩ := fpErr_eq s i cause
  rw [h]
  rfl

theorem fpErr_next : (s.fpErr i cause).book.next = s.book.next + 1 := post_next ..

theorem quarantine_fport (j : Nat) : (s.quarantine i).fport j =
    (s.updFport i (fun p => ({ p with state := .quarantined } : FabPort).latch (if (s.fab.planOf i).isSome then 3 else 4))).fport j := by
  unfold State.quarantine
  dsimp only
  exact (post_fport ..).trans ((fpErr_fport _ i _ j).trans (updFport_updFport s i _ _ j))

theorem quarantine_next : (s.quarantine i).book.next = s.book.next + 2 := by
  unfold State.quarantine
  dsimp only
  rw [post_next, fpErr_next, State.updFport_book]

/-- A port that enters `RECOVER`: its numbers and its replay buffer are held (Table 14-2). -/
def FabPort.lost (p : FabPort) : FabPort :=
  { p with
    state := .recover
    recoverCnt := satAdd 32 p.recoverCnt 1
    probes := 0
    answered := false }

theorem recoverLink_fport (j : Nat) : (s.recoverLink i false).fport j = (s.updFport i FabPort.lost).fport j ∧
    (s.recoverLink i true).fport j = (s.updFport i (fun p => p.lost.latch 5)).fport j :=
  ⟨rfl, (fpErr_fport _ i 5 j).trans ((congrFun (congrArg State.fport (signal_updFport _ _ i _)) j).trans
    ((State.signal_fport ..).trans (updFport_updFport s i FabPort.lost (fun p => p.latch 5) j)))⟩

end

/-! Sending again (R383). -/

section
variable {s : State} {i : Nat}

/-- A port whose replay buffer has been sent again. -/
def FabPort.resent (p : FabPort) : FabPort :=
  { p with
    wire := p.wire ++ p.replay.map (fun f => f.bytes)
    replayCnt := satAdd 32 p.replayCnt p.replay.length
    replay := p.replay.map (fun f => { f with sends := f.sends + 1 }) }

theorem resend_eq : s.resend i =
    if ((s.updFport i FabPort.resent).fport i).state = .up ∧ ((s.updFport i FabPort.resent).fport i).replay.any (fun f => decide (8 ≤ f.sends)) then
      (s.updFport i FabPort.resent).recoverLink i true
    else s.updFport i FabPort.resent := rfl

theorem resent_often {p : FabPort} : (p.resent.replay.any (fun f => decide (8 ≤ f.sends))) = true ↔ ∃ f, f ∈ p.replay ∧ 7 ≤ f.sends := by
  show ((p.replay.map (fun f => ({ f with sends := f.sends + 1 } : SentFlit))).any _) = true ↔ _
  rw [List.any_map, List.any_eq_true]
  refine exists_congr fun f => and_congr_right fun _ => ?_
  show decide (8 ≤ f.sends + 1) = true ↔ _
  rw [decide_eq_true_iff]
  exact Nat.succ_le_succ_iff

theorem resend_few (h : ∀ f, f ∈ (s.fport i).replay → f.sends < 7) : s.resend i = s.updFport i FabPort.resent := by
  rw [resend_eq, if_neg]
  rw [updFport_same, resent_often]
  rintro ⟨-, f, hf, hs⟩
  exact absurd (h f hf) (by omega)

theorem resend_often (hu : (s.fport i).state = .up) {f : SentFlit} (hf : f ∈ (s.fport i).replay) (hs : 7 ≤ f.sends) :
    s.resend i = (s.updFport i FabPort.resent).recoverLink i true := by
  rw [resend_eq, if_pos]
  rw [updFport_same, resent_often]
  exact ⟨hu, f, hf, hs⟩

end

/-! Benchmark words (R391, R392). -/

section
variable {s : State} {i serial slot far step : Nat}

theorem heard_fport : (heard s i serial slot far step).fport i =
    { s.fport i with benchSerial := serial, benchSlot := slot, benchPort := far, benchStep := step, benchSeen := true } := updFport_same s i _

theorem benchOk_heard : (heard s i serial slot far step).benchOk i = true ↔ planned s i serial slot far step := by
  unfold State.benchOk planned
  rw [heard_fport]
  show (match s.fab.planOf i with | some r => _ | none => false) = true ↔ _
  cases s.fab.planOf i with
  | none => simp
  | some r => simp [and_assoc]

end

section
variable {port : Fin 12} {serial : BitVec 64} {slot : BitVec 2} {far : BitVec 4} {step : BitVec 8} {rtt : BitVec 16} {t : Nat} {s : State}

/-- A link that has identified itself, with the round trip measured. -/
def FabPort.identified (p : FabPort) (rtt : Nat) (discovered : Bool) : FabPort :=
  FabPort.pump 1024 { p with
    state := .up
    rtt := rtt
    missing := false
    seenUp := p.seenUp || discovered }

theorem exec_benchmarkReceived : exec (.benchmarkReceived port serial slot far step rtt t) s = .next
    (if (s.fport port.val).state = .ident then
      (if (heard (s.at' t) port.val serial.toNat slot.toNat far.toNat step.toNat).benchOk port.val then
        (((heard (s.at' t) port.val serial.toNat slot.toNat far.toNat step.toNat).updFport port.val
          (fun p => p.identified rtt.toNat s.fab.discovered)).signal (200 + port.val)).trainEnd 0 port.val
      else ((heard (s.at' t) port.val serial.toNat slot.toNat far.toNat step.toNat).quarantine port.val).trainEnd 0 port.val)
    else if (s.fport port.val).state = .up then
      (if (heard (s.at' t) port.val serial.toNat slot.toNat far.toNat step.toNat).benchOk port.val then
        heard (s.at' t) port.val serial.toNat slot.toNat far.toNat step.toNat
      else (heard ((s.at' t).linkDown port.val) port.val serial.toNat slot.toNat far.toNat step.toNat).quarantine port.val)
    else if (s.fport port.val).state = .quarantined then heard (s.at' t) port.val serial.toNat slot.toNat far.toNat step.toNat
    else s.at' t) := rfl

end

/-! The end of discovery (R393). -/

section
variable (s : State)

/-- The ports marked at the end of discovery: which are missing, and which were seen `UP`. -/
def State.marked (s : State) : State :=
  (List.range 12).foldl (fun (u : State) i => u.updFport i (fun p => { p with
    missing := s.linksMissing.contains i
    seenUp := p.state == .up })) s

/-- Discovery is over in the fabric block, and signalled. -/
def State.endDiscovery (u : State) (mismatch : Bool) : State :=
  (u.updFab (fun f => { f with discovering := false, discovered := true, mismatch := mismatch })).signal 212

theorem endDiscovery_fport (u : State) (b : Bool) (i : Nat) : (u.endDiscovery b).fport i = u.fport i :=
  (State.signal_fport ..).trans (updFab_fport u i rfl)

theorem endDiscovery_fab (u : State) (b : Bool) : (u.endDiscovery b).fab.discovering = false ∧ (u.endDiscovery b).fab.discovered = true ∧
    (u.endDiscovery b).fab.mismatch = b := ⟨rfl, rfl, rfl⟩

/-- The end of discovery, before the plan's completion is sent. -/
def State.discoveryOver (s : State) : State := s.marked.endDiscovery (!s.linksMissing.isEmpty)

theorem mem_linksMissing {i : Nat} : i ∈ s.linksMissing ↔ i < 12 ∧ missingLink s i := by
  unfold State.linksMissing missingLink
  rw [List.mem_filter, List.mem_range, Bool.and_eq_true, bne_iff_ne]

theorem marked_fport {i : Nat} (hi : i < 12) : s.marked.fport i =
    { s.fport i with
      missing := s.linksMissing.contains i
      seenUp := (s.fport i).state == .up } := by
  unfold State.marked
  rw [foldl_fport _ (fun i p => { p with missing := s.linksMissing.contains i, seenUp := p.state == .up }) (fun u i j => u.updFport_fport_at i j _)
    _ List.nodup_range s i, if_pos (List.mem_range.mpr hi)]

theorem marked_eq : ∃ b, s.marked = { s with fab := b } :=
  foldl_rel (R := fun s t => ∃ b, t = { s with fab := b }) s (fun s => ⟨s.fab, rfl⟩)
    (by rintro s _ _ ⟨b, rfl⟩ ⟨c, rfl⟩; exact ⟨c, rfl⟩) (fun s i => ⟨_, rfl⟩) _

theorem discoveryOver_fport {i : Nat} (hi : i < 12) : s.discoveryOver.fport i =
    { s.fport i with
      missing := s.linksMissing.contains i
      seenUp := (s.fport i).state == .up } :=
  (endDiscovery_fport ..).trans (marked_fport s hi)

theorem discoveryOver_power : s.discoveryOver.power = s.power := by
  obtain ⟨b, h⟩ := marked_eq s
  unfold State.discoveryOver State.endDiscovery
  rw [State.signal_power, State.updFab_power, h]

theorem discoveryOver_mismatch : s.discoveryOver.fab.mismatch = true ↔ ∃ i, i < 12 ∧ missingLink s i := by
  unfold State.discoveryOver
  rw [(endDiscovery_fab ..).2.2, Bool.not_eq_true', List.isEmpty_eq_false_iff_exists_mem]
  exact exists_congr fun i => mem_linksMissing s

theorem discoveryOver_pend : s.discoveryOver.hic.pend.getLsbD 212 = true := by
  unfold State.discoveryOver State.endDiscovery
  rw [signal_pend _ (by decide), decide_eq_true rfl, Bool.or_true]

theorem discoveryOver_status : (if s.linksMissing.isEmpty then 0 else 0x0601) = if s.discoveryOver.fab.mismatch = true then 0x0601 else 0 := by
  unfold State.discoveryOver
  rw [(endDiscovery_fab ..).2.2]
  cases s.linksMissing.isEmpty <;> rfl

theorem discoveryOver_fab : s.discoveryOver.fab.discovering = false ∧ s.discoveryOver.fab.discovered = true := by
  unfold State.discoveryOver
  obtain ⟨hfin, hdone, -⟩ := endDiscovery_fab s.marked (!s.linksMissing.isEmpty)
  exact ⟨hfin, hdone⟩

theorem discoveryOver_port (i : Fin 12) : ((s.discoveryOver.fport i.val).missing = true ↔ missingLink s i.val) ∧
    ((s.discoveryOver.fport i.val).seenUp = true ↔ (s.fport i.val).state = .up) := by
  rw [discoveryOver_fport s i.isLt]
  refine ⟨?_, beq_iff_eq⟩
  show s.linksMissing.contains i.val = true ↔ _
  rw [List.contains_iff_mem, mem_linksMissing]
  exact and_iff_right i.isLt

end

/-- No plan waits for its completion any more. -/
def State.planless (u : State) : State := { u with power := { u.power with planWait := none } }

section
variable {u : State}

theorem planless_of_none (h : u.power.planWait = none) : u.planless = u := by
  unfold State.planless
  rw [← h]

theorem planless_answer (st : Nat) : (match u.power.planWait with
      | none => u
      | some w => u.planless.complete w st []) =
    match u.power.planWait with
      | none => u.planless
      | some w => u.planless.complete w st [] := by
  cases hw : u.power.planWait with
  | none => exact (planless_of_none hw).symm
  | some w => rfl

theorem planless_fport (i : Nat) : u.planless.fport i = u.fport i := rfl

theorem planless_fab : u.planless.fab = u.fab := rfl

theorem planless_hic : u.planless.hic = u.hic := rfl

end

theorem exec_discoveryEnd {s : State} {t : Nat} (h : s.fab.discovering = true) : exec (.discoveryEnd t) s = .next
    (match (s.at' t).discoveryOver.power.planWait with
      | none => (s.at' t).discoveryOver
      | some w => (s.at' t).discoveryOver.planless.complete w
          (if (s.at' t).linksMissing.isEmpty then 0 else 0x0601) []) :=
  congrArg Host.Outcome.next (if_neg (by show ¬ (!s.fab.discovering) = true; rw [h]; exact Bool.false_ne_true))

theorem signal_same (s : State) {n : Nat} (h : n < 256) : (s.signal n).hic.pend.getLsbD n = true := by
  rw [signal_pend s h, decide_eq_true rfl, Bool.or_true]

/-- Settles O37: each event in the state it is for, and the lemmas on quarantine, recovery and sending again. -/
theorem linksTrainIdentifyAndRecover : Obligations.LinksTrainIdentifyAndRecover := by
  unfold Obligations.LinksTrainIdentifyAndRecover
  refine ⟨?starts, ?startsNot, ?trained, ?notTraining, ?timesOut, ?identUp, ?identOther, ?quarantines, ?upSame, ?upOther, ?held, ?notHeard,
    ?sends, ?sendsNot, ?loses, ?losesNot, ?relocks, ?resends, ?tooOften, ?relocksOther, ?relocksNot, ?timedOut, ?timedOutNot, ?discovers,
    ?discoversNot, ?enables, ?disables, ?takenUp, ?takenElse, ?retrains, ?resets, ?resetsNot⟩
  case starts =>
    intro port t s hd he
    exact ⟨_, congrArg Host.Outcome.next (if_pos ⟨hd, he⟩), updFport_same .., fun i hi => updFport_other (s.at' t) hi _, rfl⟩
  case startsNot => exact fun port t s h => congrArg Host.Outcome.next (if_neg h)
  case trained =>
    intro port t s h
    exact ⟨_, congrArg Host.Outcome.next (if_pos h), (State.signal_fport ..).trans (updFport_same (s.at' t) port.val _), signal_same _ (by omega),
      fun i hi => (State.signal_fport ..).trans (updFport_other (s.at' t) hi _)⟩
  case notTraining => exact fun port lanes t s h => ⟨congrArg Host.Outcome.next (if_neg h), congrArg Host.Outcome.next (if_neg h)⟩
  case timesOut =>
    intro port lanes t s h
    have hp := fun j => (fpErr_fport ((s.at' t).updFport port.val (fun p => { p with state := .down, lanes := lanes.toNat })) port.val 1 j).trans
      (updFport_updFport (s.at' t) port.val _ _ j)
    have hsame := (hp port.val).trans (updFport_same ..)
    refine ⟨_, congrArg Host.Outcome.next (if_pos h), ?_, ?_, ?_, fun he => ?_, fun i hi => (hp i).trans (updFport_other (s.at' t) hi _)⟩
    · rw [hsame]
      rfl
    · rw [hsame]
      rfl
    · rw [hsame]
      rfl
    · rw [hsame]
      exact if_neg (by show ¬ (s.fport port.val).errValid = true; rw [he]; exact Bool.false_ne_true)
  case identUp =>
    intro port serial slot far step rtt t s h hp
    rw [exec_benchmarkReceived, if_pos h, if_pos ((benchOk_heard (s := s.at' t)).mpr hp)]
    refine ⟨_, rfl, (State.signal_fport ..).trans ((updFport_same ..).trans ?_), signal_same _ (by omega),
      fun i hi => (State.signal_fport ..).trans ((updFport_other _ hi _).trans (updFport_other (s.at' t) hi _))⟩
    rw [heard_fport, heard_fport]
    rfl
  case identOther =>
    intro port serial slot far step rtt t s h hp
    rw [exec_benchmarkReceived, if_pos h, if_neg (fun hb => hp ((benchOk_heard (s := s.at' t)).mp hb))]
  case quarantines =>
    intro port s
    rw [quarantine_fport, updFport_same, quarantine_next]
    exact ⟨rfl, rfl, Nat.le_refl _⟩
  case upSame =>
    intro port serial slot far step rtt t s h hp
    rw [exec_benchmarkReceived, if_neg (by rw [h]; decide), if_pos h, if_pos ((benchOk_heard (s := s.at' t)).mpr hp)]
  case upOther =>
    intro port serial slot far step rtt t s h hp
    rw [exec_benchmarkReceived, if_neg (by rw [h]; decide), if_pos h, if_neg (fun hb => hp ((benchOk_heard (s := s.at' t)).mp hb))]
  case held =>
    intro port serial slot far step rtt t s h
    rw [exec_benchmarkReceived, if_neg (by rw [h]; decide), if_neg (by rw [h]; decide), if_pos h]
  case notHeard =>
    intro port serial slot far step rtt t s h
    rw [exec_benchmarkReceived, if_neg, if_neg, if_neg]
    all_goals
      obtain h | h | h := h
      all_goals
        rw [h]
        decide
  case sends =>
    intro port s h hr
    have h' : (s.fport port.val).state = .ident ∨ (s.fport port.val).state = .up ∨ (s.fport port.val).state = .quarantined := by tauto
    refine ⟨_, congrArg Host.Outcome.next (if_pos ⟨h', hr⟩), (setFport_fport_at ..).trans (if_pos rfl), ?_,
      fun i hi => (setFport_fport_at ..).trans (if_neg (Ne.symm hi))⟩
    rw [setFport_fport_at, if_pos rfl]
    rfl
  case sendsNot =>
    intro port s h
    refine congrArg Host.Outcome.next (if_neg ?_)
    rintro ⟨h1, h2⟩
    obtain h | h | h | h := h
    · omega
    all_goals simp [h] at h1
  case loses =>
    intro port replay t s h
    have hp := recoverLink_fport (s.at' t) port.val port.val
    refine ⟨_, congrArg Host.Outcome.next (if_pos h), ?_⟩
    cases replay with
    | false =>
      rw [hp.1, updFport_same]
      exact ⟨rfl, rfl, rfl, rfl, (Bool.or_false _).symm⟩
    | true =>
      rw [hp.2, updFport_same]
      exact ⟨rfl, rfl, rfl, rfl, (Bool.or_true _).symm⟩
  case losesNot => exact fun port replay t s h => congrArg Host.Outcome.next (if_neg h)
  case relocks => exact fun port t s h hb => congrArg Host.Outcome.next ((if_pos ⟨h, rfl⟩).trans (if_pos hb))
  case resends =>
    intro port s h
    rw [resend_few h, updFport_same]
    rfl
  case tooOften =>
    intro port s f hu hf hs
    rw [resend_often hu hf hs, (recoverLink_fport _ port.val port.val).2, updFport_same]
    exact ⟨rfl, rfl⟩
  case relocksOther =>
    intro port t s h hb
    exact congrArg Host.Outcome.next ((if_pos ⟨h, rfl⟩).trans (if_neg (fun hb' => Bool.false_ne_true (hb.symm.trans hb'))))
  case relocksNot =>
    intro port same t s h
    refine congrArg Host.Outcome.next (if_neg ?_)
    rintro ⟨h1, h2⟩
    exact h.elim (fun h => Bool.false_ne_true (h.symm.trans h2)) (fun h => h h1)
  case timedOut =>
    intro port t s h
    refine ⟨_, congrArg Host.Outcome.next (if_pos h), rfl, ?_⟩
    rw [fpErr_fport, updFport_same]
    rfl
  case timedOutNot => exact fun port t s h => congrArg Host.Outcome.next (if_neg h)
  case discovers =>
    intro t s h
    obtain ⟨hfin, hdone⟩ := discoveryOver_fab (s.at' t)
    refine ⟨(s.at' t).discoveryOver.planless, ?_, rfl, by rw [planless_fab, hfin], by rw [planless_fab, hdone],
      by rw [planless_hic, discoveryOver_pend], ?_, fun i => ?_⟩
    · rw [exec_discoveryEnd h, discoveryOver_status, planless_answer, planless_fab, discoveryOver_power]
      rfl
    · rw [planless_fab]
      exact discoveryOver_mismatch (s.at' t)
    · rw [planless_fport]
      exact discoveryOver_port (s.at' t) i
  case discoversNot =>
    intro t s h
    exact congrArg Host.Outcome.next (if_pos (by show (!s.fab.discovering) = true; rw [h]; rfl))
  case enables =>
    intro port t s
    exact ⟨_, congrArg Host.Outcome.next (if_pos rfl), updFport_same (s.at' t) port.val _, fun i hi => updFport_other (s.at' t) hi _⟩
  case disables => exact fun port t s => congrArg Host.Outcome.next (if_neg Bool.false_ne_true)
  case takenUp => exact fun port s h => if_pos h
  case takenElse =>
    intro port s hu hr
    rw [show s.takeDown port.val = _ from if_neg (not_or.mpr ⟨hu, hr⟩)]
    exact ⟨updFport_same s port.val _, fun i hi => updFport_other s hi _⟩
  case retrains => exact fun port t s => rfl
  case resets =>
    intro port s h
    rw [show s.resetLink port.val = _ from if_pos h]
    exact updFport_same (s.takeDown port.val) port.val _
  case resetsNot => exact fun port s h => if_neg (fun h' => Bool.false_ne_true (h.symm.trans h'))

end Sys2Proof.Machine
end

section
/-! SUPPORT. Flits and the management channel (R381 to R384, R394, R395, R402 to R406): what a flit tells its port, what a message sent leaves of
the fabric block, and what an abort notice does to a model, with the statement of chapter 14 on them. -/

namespace Sys2Proof.Machine

/-! Numbered flits (R382, R383, R394). -/

section
variable (p : FabPort) (h : Nat)

theorem takeSeq_awaited : p.takeSeq p.rxSeq =
    ({ p with
      rxSeq := (p.rxSeq + 1) % 1024
      discarding := false }, true) := if_pos rfl

theorem takeSeq_other {seq : Nat} (hs : seq ≠ p.rxSeq) : p.takeSeq seq =
    if p.discarding ∨ 512 ≤ (seq + 1024 - p.rxSeq) % 1024 then (p, false) else ({ p with discarding := true, nak := true }, false) := if_neg hs

theorem takeSeq_state (seq : Nat) : (p.takeSeq seq).1.state = p.state := by
  unfold FabPort.takeSeq
  split
  · rfl
  · split <;> rfl

/-- The bytes of the message in assembly with those of a flit. -/
def FabPort.joined (p : FabPort) (h : Nat) (flit : Bytes) : Bytes :=
  (if bitB h 6 = true then [] else SMap.get [] p.asm (fieldN h 4 2)) ++ slice flit 8 (min 240 (fieldN h 48 8))

/-- The port that has taken the data flit it awaited; `asm` is what stays in assembly. -/
def FabPort.taken (p : FabPort) (h : Nat) (asm : Bytes) : FabPort :=
  { p with
    rxSeq := (p.rxSeq + 1) % 1024
    discarding := false
    rxFlits := satAdd 48 p.rxFlits 1
    owed := SMap.upd 0 p.owed (fieldN h 4 2) (fun n => n + 1)
    asm := SMap.set [] p.asm (fieldN h 4 2) asm }

theorem taken_asm (asm : Bytes) : SMap.get [] (p.taken h asm).asm (fieldN h 4 2) = asm := SMap.get_set_same [] p.asm (fieldN h 4 2) asm

theorem taken_owed (asm : Bytes) : SMap.get 0 (p.taken h asm).owed (fieldN h 4 2) = SMap.get 0 p.owed (fieldN h 4 2) + 1 :=
  SMap.get_set_same 0 p.owed (fieldN h 4 2) (SMap.get 0 p.owed (fieldN h 4 2) + 1)

theorem assemble_last (flit : Bytes) (h7 : bitB h 7 = true) :
    (p.takeSeq p.rxSeq).1.assemble h (slice flit 8 (min 240 (fieldN h 48 8))) = (p.taken h [], some (p.joined h flit)) := by
  rw [takeSeq_awaited]
  exact if_pos h7

theorem assemble_more (flit : Bytes) (h7 : bitB h 7 = false) :
    (p.takeSeq p.rxSeq).1.assemble h (slice flit 8 (min 240 (fieldN h 48 8))) = (p.taken h (p.joined h flit), none) := by
  rw [takeSeq_awaited]
  exact if_neg (by rw [h7]; exact Bool.false_ne_true)

end

theorem ackReplay_suffix (l : List SentFlit) (a : Nat) : ackReplay l a <:+ l := by
  unfold ackReplay
  split
  · exact (List.drop_suffix ..).trans (List.dropWhile_suffix _)
  · exact List.suffix_refl l

section
variable {s : State} {i h : Nat} {flit : Bytes}

theorem flitAck_plain (hn : bitB h 28 = false) : s.flitAck i h = s.setFport i ((s.fport i).takeAck h) :=
  if_neg (by rw [hn]; exact Bool.false_ne_true)

theorem flitAck_nak (hn : bitB h 28 = true) : s.flitAck i h = (s.setFport i ((s.fport i).takeAck h)).resend i := if_pos hn

theorem flitData_unnumbered (h1 : fieldN h 0 4 ≠ 1) (h3 : fieldN h 0 4 ≠ 3) : s.flitData i h flit = s := if_neg (not_or.mpr ⟨h1, h3⟩)

/-- The port after a data flit, and the effect of the message that is whole with it. -/
def State.joinMessage (s : State) (i : Nat) (x : FabPort × Option Bytes) : State :=
  match x.2 with
  | some l => if 48 ≤ l.length then (s.setFport i x.1).fabTake i (fabMsgOf l) else s.setFport i x.1
  | none => s.setFport i x.1

theorem flitData_numbered (hk : fieldN h 0 4 = 1 ∨ fieldN h 0 4 = 3) : s.flitData i h flit =
    if (((s.fport i).takeSeq (fieldN h 8 10)).2 && fieldN h 0 4 == 1 && (s.fport i).state == .up) = true then
      (s.setFport i ((s.fport i).takeSeq (fieldN h 8 10)).1).joinMessage i
        (((s.fport i).takeSeq (fieldN h 8 10)).1.assemble h (slice flit 8 (min 240 (fieldN h 48 8))))
    else s.setFport i ((s.fport i).takeSeq (fieldN h 8 10)).1 := by
  unfold State.flitData
  dsimp only
  rw [if_pos hk, setFport_fport_at, if_pos rfl, takeSeq_state]
  rfl

/-- A numbered flit that no message awaits moves its port's numbers only. -/
theorem flitData_numbers (hk : fieldN h 0 4 = 3 ∨ (fieldN h 0 4 = 1 ∧ (fieldN h 8 10 ≠ (s.fport i).rxSeq ∨ (s.fport i).state ≠ .up))) :
    s.flitData i h flit = s.setFport i ((s.fport i).takeSeq (fieldN h 8 10)).1 := by
  rw [flitData_numbered (hk.symm.imp (fun h => h.1) id), if_neg]
  rw [Bool.and_eq_true, Bool.and_eq_true, beq_iff_eq, beq_iff_eq]
  rintro ⟨⟨ht, h1⟩, hu⟩
  obtain h3 | ⟨-, hs | hs⟩ := hk
  · omega
  · rw [takeSeq_other _ hs] at ht
    split at ht <;> exact Bool.false_ne_true ht
  · exact hs hu

/-- The data flit that a port awaits, the last of its message. -/
theorem flitData_last (hk : fieldN h 0 4 = 1) (hs : fieldN h 8 10 = (s.fport i).rxSeq) (hu : (s.fport i).state = .up) (h7 : bitB h 7 = true)
    (hl : 48 ≤ ((s.fport i).joined h flit).length) : s.flitData i h flit =
    ((s.setFport i ((s.fport i).takeSeq (s.fport i).rxSeq).1).setFport i ((s.fport i).taken h [])).fabTake i (fabMsgOf ((s.fport i).joined h flit)) := by
  rw [flitData_numbered (.inl hk), hs, assemble_last _ _ _ h7, if_pos]
  · exact if_pos hl
  · rw [takeSeq_awaited, hk, hu]
    rfl

/-- The data flit that a port awaits, with more of its message to come. -/
theorem flitData_more (hk : fieldN h 0 4 = 1) (hs : fieldN h 8 10 = (s.fport i).rxSeq) (hu : (s.fport i).state = .up) (h7 : bitB h 7 = false) :
    s.flitData i h flit =
      (s.setFport i ((s.fport i).takeSeq (s.fport i).rxSeq).1).setFport i ((s.fport i).taken h ((s.fport i).joined h flit)) := by
  rw [flitData_numbered (.inl hk), hs, assemble_more _ _ _ h7, if_pos]
  · exact rfl
  · rw [takeSeq_awaited, hk, hu]
    rfl

end

/-! A received flit on its link. -/

section
variable {port : Fin 12} {flit : Bytes} {t : Nat} {s : State}

theorem exec_flitReceive : exec (.flitReceive port flit t) s = .next
    (if (s.fport port.val).state ≠ .up ∧ (s.fport port.val).state ≠ .ident ∧ (s.fport port.val).state ≠ .quarantined then s.at' t
    else if !flitCrcOk flit then ((s.at' t).fecSeen port.val).updFport port.val (fun p => { p with
      crcCnt := satAdd 32 p.crcCnt 1
      discarding := true
      nak := true
      sinceAck := p.sinceAck + 1 })
    else ((((s.at' t).fecSeen port.val).flitAck port.val (flitHead flit)).flitData port.val (flitHead flit) flit).flitReply port.val) := rfl

theorem fecSeen_fport (s : State) (i j : Nat) : (s.fecSeen i).fport j =
    (s.updFport i (fun p => { p with fecCnt := satAdd 48 p.fecCnt (Config.freeWord32 s.free).toNat })).fport j := State.tick_fport ..

theorem carries_of (h : (s.fport port.val).state = .up ∨ (s.fport port.val).state = .ident ∨ (s.fport port.val).state = .quarantined) :
    ¬ ((s.fport port.val).state ≠ .up ∧ (s.fport port.val).state ≠ .ident ∧ (s.fport port.val).state ≠ .quarantined) := by tauto

end

/-! What a message sent leaves of the fabric block (R395, R402). -/

section
variable (s : State)

theorem fabPut_fields (vc : Nat) (m : FabMsg) (i : Nat) : ∃ ps, s.fabPut vc m i = s.updFab (fun f => { f with ports := ps }) := ⟨_, rfl⟩

theorem fabSend_fields (vc : Nat) (m : FabMsg) : ∃ ps d, s.fabSend vc m = s.updFab (fun f => { f with ports := ps, transitDrop := d }) := by
  unfold State.fabSend
  split
  · split
    · obtain ⟨ps, h⟩ := fabPut_fields (s.updFport _ _) vc m _
      exact ⟨ps, s.fab.transitDrop, h⟩
    · obtain ⟨ps, h⟩ := fabPut_fields s vc m _
      exact ⟨ps, s.fab.transitDrop, h⟩
  · obtain ⟨ps, h⟩ := fabPut_fields s vc m _
    exact ⟨ps, s.fab.transitDrop, h⟩
  · split
    · obtain ⟨ps, h⟩ := fabPut_fields s vc m _
      exact ⟨ps, s.fab.transitDrop, h⟩
    · exact ⟨s.fab.ports, _, rfl⟩

theorem mgmtNet_fields (dest id : Nat) (body : Bytes) : ∃ b, s.mgmtNet dest id body = s.updFab (fun f => { f with netB := b }) := by
  unfold State.mgmtNet
  split
  · exact ⟨s.fab.netB, rfl⟩
  · exact ⟨_, rfl⟩

theorem mgmtEmit_fields (dest id : Nat) (both : Bool) (body : Bytes) :
    ∃ ps d b, s.mgmtEmit dest id both body = s.updFab (fun f => { f with ports := ps, transitDrop := d, netB := b }) := by
  obtain ⟨ps, d, h⟩ : ∃ ps d, (if (s.routePort dest).isSome then s.fabSend 2 (newMsg dest 6 0 0 id 0 0 0 body) else s) =
      s.updFab (fun f => { f with ports := ps, transitDrop := d }) := by
    split
    · exact fabSend_fields ..
    · exact ⟨s.fab.ports, s.fab.transitDrop, rfl⟩
  unfold State.mgmtEmit
  dsimp only
  rw [h]
  split
  · obtain ⟨b, hb⟩ := mgmtNet_fields (s.updFab (fun f => { f with ports := ps, transitDrop := d })) dest id body
    exact ⟨ps, d, b, hb⟩
  · exact ⟨ps, d, s.fab.netB, rfl⟩

theorem mgmtSend_fields (dest : Nat) (both : Bool) (body : Bytes) : ∃ ps d b l n, s.mgmtSend dest both body =
    s.updFab (fun f => { f with ports := ps, transitDrop := d, netB := b, mgmt := l, mgmtNext := n }) := by
  obtain ⟨ps, d, b, h⟩ := mgmtEmit_fields (s.updFab (fun f => { f with
    mgmtNext := (s.fab.mgmtNext + 1) % 2 ^ 32, mgmt := f.mgmt ++ [⟨s.fab.mgmtNext, dest, both, body, 1⟩] })) dest s.fab.mgmtNext both body
  exact ⟨ps, d, b, _, _, h⟩

theorem mgmtAcked_fields (m : MgmtIn) : ∃ ps d b, mgmtAcked s m = s.updFab (fun f => { f with ports := ps, transitDrop := d, netB := b }) :=
  mgmtEmit_fields ..

theorem mgmtSeenNow_fields (m : MgmtIn) : ∃ ps d b, mgmtSeenNow s m = s.updFab (fun f => { f with
    ports := ps, transitDrop := d, netB := b, mgmtSeen := f.mgmtSeen ++ [(m.src.toNat, m.id.toNat)] }) := by
  obtain ⟨ps, d, b, h⟩ := mgmtAcked_fields s m
  unfold mgmtSeenNow
  rw [h]
  exact ⟨ps, d, b, rfl⟩

theorem mgmtNet_fport (dest id : Nat) (body : Bytes) (i : Nat) : (s.mgmtNet dest id body).fport i = s.fport i := by
  obtain ⟨b, h⟩ := mgmtNet_fields s dest id body
  rw [h]
  exact updFab_fport s i rfl

/-- A message that is acknowledged is forgotten. -/
theorem mgmtForget_gone (id : Nat) : ∀ z, z ∈ (s.updFab (fun f => { f with mgmt := f.mgmt.filter (fun y => y.id != id) })).fab.mgmt → z.id ≠ id := by
  intro z hz
  exact bne_iff_ne.mp (List.mem_filter.mp hz).2

end

/-! Models and plots that a change of the fabric leaves. -/

section
variable {s u : State}

theorem plotOfModel_congr (h : u.blocks = s.blocks) (id : Nat) : u.plotOfModel id = s.plotOfModel id := by
  unfold State.plotOfModel State.plot State.block
  rw [h]

theorem plot_congr (h : u.blocks = s.blocks) (b : Nat) : u.plot b = s.plot b := by
  unfold State.plot State.block
  rw [h]

theorem modelId_congr (h : u.models = s.models) (i : Nat) : u.modelId i = s.modelId i := by
  unfold State.modelId State.entry
  rw [h]

theorem modelsOfTag_congr (h : u.models = s.models) (tag : Nat) : u.modelsOfTag tag = s.modelsOfTag tag := by
  unfold State.modelsOfTag State.entry
  rw [h]

theorem modelsOfTag_nil (h : s.models = []) (tag : Nat) : s.modelsOfTag tag = [] := by
  unfold State.modelsOfTag State.entry
  rw [h]
  exact List.filter_eq_nil_iff.mpr (fun i _ => Bool.false_ne_true)

end

/-! Abort notices (R404, R406). -/

section
variable {s : State} {cause i b : Nat} {p : Plot}

theorem abortModel_none (h : s.plotOfModel (s.modelId i) = none) :
    s.abortModel cause i = if cause = 0x0407 then s.startAgree (s.modelId i) 0x0407 else s := by
  have hb : (if cause = 0x0407 then s.startAgree (s.modelId i) 0x0407 else s).blocks = s.blocks := by
    split
    · unfold State.startAgree
      split <;> rfl
    · rfl
  unfold State.abortModel
  dsimp only
  rw [plotOfModel_congr hb, h]

theorem abortModel_plot (hc : cause ≠ 0x0407) (h : s.plotOfModel (s.modelId i) = some b) (hp : s.plot b = some p) :
    s.abortModel cause i = if p.task.isSome then s.force b (if cause = 0x0403 then 0x0C else 0x0D) cause 0 else s := by
  unfold State.abortModel
  dsimp only
  rw [if_neg hc, h]
  dsimp only
  rw [hp]

/-- The state in which the models of an abort notice are aborted: it is counted and signalled. -/
def State.abortHeard (s : State) : State := (s.updFab (fun f => { f with abortRx := satAdd 32 f.abortRx 1 })).signal 212

theorem takeAbort_eq (tag cause : Nat) : s.takeAbort tag cause =
    (s.abortHeard.modelsOfTag tag).foldl (fun (s : State) i => s.abortModel cause i) s.abortHeard := rfl

theorem abortHeard_mgmtSeenNow (s : State) (m : MgmtIn) : (mgmtSeenNow s m).abortHeard.models = s.models ∧
    (mgmtSeenNow s m).abortHeard.blocks = s.blocks ∧ (mgmtSeenNow s m).abortHeard.fab.abortRx = satAdd 32 s.fab.abortRx 1 ∧
    (mgmtSeenNow s m).abortHeard.hic.pend.getLsbD 212 = true := by
  obtain ⟨ps, d, b, h⟩ := mgmtSeenNow_fields s m
  rw [h]
  exact ⟨rfl, rfl, rfl, signal_same _ (by decide)⟩

end

/-! Probes (R405). -/

section
variable (s : State) (serial i : Nat)

/-- A port that awaits the answer of module `serial` to its probe has it. -/
def FabPort.probed (p : FabPort) (serial : Nat) : FabPort :=
  if p.state = .recover ∧ p.benchSerial = serial ∧ 0 < p.probes then { p with answered := true } else p

/-- The answer of module `serial` on port `i`. -/
def State.probedAt (s : State) (serial i : Nat) : State :=
  if (s.fport i).state = .recover ∧ (s.fport i).benchSerial = serial ∧ 0 < (s.fport i).probes then
    s.setFport i { s.fport i with answered := true }
  else s

theorem probedAt_fport (j : Nat) : (s.probedAt serial i).fport j = if i = j then (s.fport i).probed serial else s.fport j := by
  unfold State.probedAt FabPort.probed
  split
  · exact setFport_fport_at ..
  · split
    · next h => rw [h]
    · rfl

theorem exec_probeAnswer (serial : BitVec 64) : exec (.probeAnswer serial true) s =
    .next ((List.range 12).foldl (fun (s : State) i => s.probedAt serial.toNat i) s) := rfl

theorem foldl_probedAt_mem (l : List Nat) : (l.foldl (fun (s : State) i => s.probedAt serial i) s).mem = s.mem :=
  foldl_rel (R := fun s t => t.mem = s.mem) s (fun _ => rfl) (fun h1 h2 => h2.trans h1)
    (fun s i => by
      unfold State.probedAt
      split <;> rfl) l

end

/-- Settles O39: a flit by its kind and number, a message by its first coming, and a notice by the models of its tag. -/
theorem flitsAndManagementTravel : Obligations.FlitsAndManagementTravel := by
  unfold Obligations.FlitsAndManagementTravel
  refine ⟨?crcBad, ?sound, ?carriesNone, ?ackPlain, ?ackNak, ?unnumbered, ?numbers, ?lastFlit, ?moreFlit, ?replies, ?replyAcks, ?awaited, ?otherSeq,
    ?missing, ?suffix, ?ackTimer, ?ackTimerNot, ?neighbours, ?again, ?unauthentic, ?sendsList, ?resendNone, ?resendSome, ?notice, ?noticeNone,
    ?noticeForces, ?aborts, ?abortsIdle, ?abortsNone, ?probes, ?probesNot, ?answers, ?answersOther, ?authFail⟩
  case crcBad =>
    intro port flit t s h hc
    refine ⟨_, exec_flitReceive.trans (congrArg Host.Outcome.next ((if_neg (carries_of h)).trans (if_pos (by rw [hc]; rfl)))), ?_, fun i hi => ?_, rfl⟩
    · rw [updFport_same, fecSeen_fport, updFport_same]
      rfl
    · rw [updFport_other _ hi, fecSeen_fport, updFport_other _ hi]
      rfl
  case sound =>
    intro port flit t s h hc
    exact exec_flitReceive.trans (congrArg Host.Outcome.next ((if_neg (carries_of h)).trans (if_neg (by rw [hc]; exact Bool.false_ne_true))))
  case carriesNone =>
    intro port flit t s h
    refine exec_flitReceive.trans (congrArg Host.Outcome.next (if_pos ?_))
    obtain h | h | h := h
    all_goals
      rw [h]
      decide
  case ackPlain => exact fun i h s hn => flitAck_plain hn
  case ackNak => exact fun i h s hn => flitAck_nak hn
  case unnumbered => exact fun i h flit s h1 h3 => flitData_unnumbered h1 h3
  case numbers => exact fun i h flit s hk => flitData_numbers hk
  case lastFlit =>
    rintro i h flit s l hk hs hu h7 rfl hl
    refine ⟨_, flitData_last hk hs hu h7 hl, ?_, ?_, rfl⟩
    · rw [setFport_fport_at, if_pos rfl]
      rfl
    · rw [setFport_fport_at, if_pos rfl]
      exact taken_asm ..
  case moreFlit =>
    intro i h flit s hk hs hu h7
    rw [flitData_more hk hs hu h7, setFport_fport_at, if_pos rfl]
    exact ⟨taken_asm .., rfl, taken_owed .., rfl⟩
  case replies =>
    intro i s h
    unfold State.flitReply
    dsimp only
    rw [if_neg (by omega)]
  case replyAcks =>
    intro i s h
    unfold State.flitReply
    dsimp only
    rw [if_pos h]
  case awaited =>
    rintro p seq rfl
    rw [takeSeq_awaited]
    exact ⟨rfl, rfl, rfl⟩
  case otherSeq =>
    intro p seq h
    rw [takeSeq_other p h]
    split <;> exact ⟨rfl, rfl⟩
  case missing =>
    intro p seq h hd hw
    rw [takeSeq_other p h, if_neg]
    rw [hd]
    exact not_or.mpr ⟨Bool.false_ne_true, by omega⟩
  case suffix => exact ackReplay_suffix
  case ackTimer =>
    intro port s h
    refine ⟨_, congrArg Host.Outcome.next (if_pos h), ?_⟩
    rw [setFport_fport_at, if_pos rfl]
    exact ⟨rfl, rfl, rfl, rfl⟩
  case ackTimerNot => exact fun port s h => congrArg Host.Outcome.next (if_neg h)
  case neighbours =>
    intro m list s h
    obtain ⟨ps, d, b, hs⟩ := mgmtSeenNow_fields s m
    refine ⟨_, congrArg Host.Outcome.next (mgmtTake_fresh h), ?_⟩
    rw [hs]
    exact ⟨rfl, List.mem_append_right _ (List.mem_singleton_self _)⟩
  case again =>
    intro m list tag cause t s h
    obtain ⟨ps, d, b, hs⟩ := mgmtAcked_fields s m
    refine ⟨congrArg Host.Outcome.next (mgmtTake_again h), congrArg Host.Outcome.next (mgmtTake_again (s := s.at' t) h), ?_⟩
    rw [hs]
    rfl
  case unauthentic =>
    exact fun m list tag cause t s hb hk => ⟨congrArg Host.Outcome.next (mgmtTake_bad hb hk), congrArg Host.Outcome.next (mgmtTake_bad (s := s.at' t) hb hk)⟩
  case sendsList => exact fun list s => rfl
  case resendNone =>
    intro id acked s h
    show Host.Outcome.next (match s.fab.mgmt.find? (fun y => y.id == id.toNat) with | none => s | some x => _) = _
    rw [h]
  case resendSome =>
    intro id s x h
    have hx : ∀ acked, exec (.mgmtResend id acked) s = .next (if acked = true then
        s.updFab (fun f => { f with mgmt := f.mgmt.filter (fun y => y.id != id.toNat) })
      else (s.updFab (fun f => { f with mgmt := f.mgmt.map (fun y => if y.id = id.toNat then { y with sends := y.sends + 1 } else y) })).mgmtEmit
        x.dest x.id x.both x.body) := by
      intro acked
      show Host.Outcome.next (match s.fab.mgmt.find? (fun y => y.id == id.toNat) with | none => s | some x => _) = _
      rw [h]
    exact ⟨⟨_, (hx true).trans (congrArg Host.Outcome.next (if_pos rfl)), mgmtForget_gone s id.toNat⟩,
      (hx false).trans (congrArg Host.Outcome.next (if_neg Bool.false_ne_true))⟩
  case notice => exact fun m tag cause t s h => congrArg Host.Outcome.next (mgmtTake_fresh (s := s.at' t) h)
  case noticeNone =>
    intro m tag cause t s h hm
    obtain ⟨hmod, hblk, hrx, hpend⟩ := abortHeard_mgmtSeenNow (s.at' t) m
    refine ⟨_, congrArg Host.Outcome.next (mgmtTake_fresh (s := s.at' t) h), ?_⟩
    rw [takeAbort_eq, modelsOfTag_nil (hmod.trans hm)]
    exact ⟨hrx, hpend, hblk⟩
  case noticeForces =>
    intro m tag t s i b p h htag hb hp ht hfree hforcing _
    obtain ⟨hmod, hblk, -, -⟩ := abortHeard_mgmtSeenNow (s.at' t) m
    have hplot := (plot_congr hblk b).trans hp
    obtain ⟨q, hq, hqs, hqc, -⟩ := force_live_plot (b := b) (c := 0x0C) (st := 0x0403) (tile := 0) (retry := false) hplot hfree hforcing
    refine ⟨_, q, congrArg Host.Outcome.next (mgmtTake_fresh (s := s.at' t) h), ?_, hqs, hqc⟩
    have hbm := (plotOfModel_congr hblk _).trans ((congrArg (s.at' t).plotOfModel (modelId_congr hmod i)).trans hb)
    rw [takeAbort_eq, (modelsOfTag_congr hmod _).trans htag, List.foldl_cons, List.foldl_nil,
      abortModel_plot (by decide) hbm hplot, if_pos ht]
    exact hq
  case aborts =>
    intro cause i b p s hc h hp ht
    rw [abortModel_plot hc h hp, if_pos ht]
  case abortsIdle =>
    intro cause i b p s hc h hp ht
    rw [abortModel_plot hc h hp, ht]
    rfl
  case abortsNone => exact fun cause i s h => abortModel_none h
  case probes =>
    intro port s h
    refine ⟨_, congrArg Host.Outcome.next (if_pos h), ?_⟩
    rw [mgmtNet_fport, updFport_same]
  case probesNot => exact fun port s h => congrArg Host.Outcome.next (if_neg h)
  case answers =>
    intro serial s
    refine ⟨_, exec_probeAnswer s serial, foldl_probedAt_mem s serial.toNat _, fun port => ?_⟩
    rw [foldl_fport _ (fun i p => p.probed serial.toNat) (fun s i j => probedAt_fport s serial.toNat i j) _ List.nodup_range s,
      if_pos (List.mem_range.mpr port.isLt)]
    rfl
  case answersOther => exact fun serial s => rfl
  case authFail => exact fun s => rfl

end Sys2Proof.Machine
end

section
/-! SUPPORT. Channels and degraded positions (R399, R400, R406, R407): what binds a channel, and what an agreement comes to in each case, with the
statement of chapter 14 on them. -/

namespace Sys2Proof.Machine

/-! Channels (R400). -/

section
variable {s u : State} {i channel peer : Nat} {out : Bool} {b r : Nat} {p : Plot}

theorem takeBind_none (reply : Bool) (h : s.chanRecord i channel peer out = none) : s.takeBind i channel peer out reply = s := by
  unfold State.takeBind
  rw [h]

theorem takeBind_confirm (h : s.chanRecord i channel peer out = some (b, p, r)) : s.takeBind i channel peer out true =
    if s.fab.chans.contains ⟨b, channel, peer, out⟩ then s else s.updFab (fun f => { f with chans := f.chans ++ [⟨b, channel, peer, out⟩] }) := by
  unfold State.takeBind
  rw [h]
  exact if_pos rfl

theorem takeBind_offer (h : s.chanRecord i channel peer out = some (b, p, r)) :
    s.takeBind i channel peer out false = (s.takeBind i channel peer out true).sendBind p true r := by
  rw [takeBind_confirm h]
  unfold State.takeBind
  rw [h]
  exact if_neg Bool.false_ne_true

/-- A confirmed channel is bound, and the others stay. -/
theorem takeBind_chans (h : s.chanRecord i channel peer out = some (b, p, r)) :
    (⟨b, channel, peer, out⟩ : ChanBind) ∈ (s.takeBind i channel peer out true).fab.chans ∧
    (∀ c, c ∈ s.fab.chans → c ∈ (s.takeBind i channel peer out true).fab.chans) ∧ (s.takeBind i channel peer out true).mem = s.mem := by
  rw [takeBind_confirm h]
  split
  · next hc => exact ⟨List.contains_iff_mem.mp hc, fun _ h => h, rfl⟩
  · exact ⟨List.mem_append_right _ (List.mem_singleton_self _), fun _ h => List.mem_append_left _ h, rfl⟩

theorem chanRecord_none (h : s.plotOfModel (s.modelId i) = none) : s.chanRecord i channel peer out = none := by
  unfold State.chanRecord
  rw [h]
  rfl

theorem chanRecord_some (h : s.plotOfModel (s.modelId i) = some b) (hp : s.plot b = some p)
    (hr : (s.fabRecs p).find? (fun r => leAt p.plat r 1 == (if out then 0 else 1) && leAt p.plat (r + 2) 2 == channel &&
      (s.entry i).serials.getD (leAt p.plat (r + 1) 1) 0 == peer) = some r) : s.chanRecord i channel peer out = some (b, p, r) := by
  unfold State.chanRecord
  rw [h, Option.bind_some, hp, Option.bind_some, hr]
  rfl

/-- The record of a channel depends on the plots and the models only. -/
theorem chanRecord_congr (hb : u.blocks = s.blocks) (hm : u.models = s.models) : u.chanRecord i channel peer out = s.chanRecord i channel peer out := by
  unfold State.chanRecord State.plotOfModel State.plot State.block State.modelId State.fabRecs State.entry
  rw [hb, hm]

end

section
variable (s : State) (m : MgmtIn)

theorem mgmtSeenNow_keeps : (mgmtSeenNow s m).blocks = s.blocks ∧ (mgmtSeenNow s m).models = s.models ∧
    (mgmtSeenNow s m).fab.chans = s.fab.chans ∧ (mgmtSeenNow s m).mem = s.mem := by
  obtain ⟨ps, d, b, h⟩ := mgmtSeenNow_fields s m
  rw [h]
  exact ⟨rfl, rfl, rfl, rfl⟩

end

/-! Agreements (R406, R407). -/

section
variable {s : State} {id cause : Nat}

theorem startAgree_mem (h : ∀ a, a ∈ s.fab.agree → a.model ≠ id ∨ a.chosen ≠ none) :
    (⟨id, cause, none⟩ : Agreement) ∈ (s.startAgree id cause).fab.agree := by
  unfold State.startAgree
  rw [if_neg]
  · exact List.mem_append_right _ (List.mem_singleton_self _)
  · rw [List.any_eq_true]
    rintro ⟨a, ha, hc⟩
    obtain ⟨h1, h2⟩ := (Bool.and_eq_true ..).mp hc
    exact (h a ha).elim (fun h => h (beq_iff_eq.mp h1)) (fun h => h (Option.isNone_iff_eq_none.mp h2))

theorem mem_directPorts_lt {dest i : Nat} (h : i ∈ s.directPorts dest) : i < 12 := List.mem_range.mp (List.mem_filter.mp h).1

theorem linksUp_iff {k : Nat} {m : Model} : s.linksUp id k m = true ↔
    ∀ r, r ∈ s.fabRecs (newPlot (SMap.get [] m.plats k) id k m.owner 0 0) →
      leAt (newPlot (SMap.get [] m.plats k) id k m.owner 0 0).plat (r + 4) 2 = 0 ∨
        ∃ i, i < 12 ∧ i ∈ s.directPorts (m.serials.getD (leAt (newPlot (SMap.get [] m.plats k) id k m.owner 0 0).plat (r + 1) 1) 0) := by
  unfold State.linksUp
  dsimp only
  rw [List.all_eq_true]
  refine forall_congr' fun r => forall_congr' fun _ => ?_
  rw [Bool.or_eq_true, beq_iff_eq, Bool.not_eq_true', List.isEmpty_eq_false_iff_exists_mem]
  exact or_congr_right (exists_congr fun i => ⟨fun h => ⟨mem_directPorts_lt h, h⟩, fun h => h.2⟩)

/-- Whether an agreement of model `id` is open. -/
def State.agreeOpen (s : State) (id : Nat) : Bool := s.fab.agree.any (fun a => a.model == id && a.chosen.isNone)

/-- The agreement of model `id` on a position, or on none, is there. -/
def State.agreed (s : State) (id : Nat) (pos : Option (Fin 16)) : State :=
  s.updFab (fun f => { f with agree := f.agree.filter (fun a => a.model != id) ++ [⟨id, 0x0407, some (pos.map (fun x => x.val))⟩] })

/-- A model without a plot takes the position agreed on, and its agreement is over. -/
def State.reposition (s : State) (id : Nat) (pos : Option (Fin 16)) : State :=
  (s.updFab (fun f => { f with agree := f.agree.filter (fun a => a.model != id) })).updModel id (fun (m : Model) =>
    { m with position := (pos.map (fun x => x.val)).getD m.position })

/-- Whether a model has a plat for a position that an agreement names. -/
def Model.knows (m : Model) (pos : Option (Fin 16)) : Bool :=
  match pos with
  | none => true
  | some k => !(SMap.get [] m.plats k.val).isEmpty

/-- An agreement on a position of model `m`, which has the plat for it. -/
def State.takePosition (s : State) (id : Nat) (m : Model) (pos : Option (Fin 16)) : State :=
  match s.plotOfModel id with
  | some b =>
    match s.plot b with
    | none => s
    | some p =>
      if pos.map (fun x => x.val) == some 0 then
        (if m.position = 0 ∨ !p.idle ∨ s.plotWanted p ∨ m.state ≠ .filled ∨ !s.linksUp id 0 m then s else (s.agreed id pos).degrade b)
      else if s.agreeOpen id then (s.agreed id pos).degrade b
      else s
  | none => if (pos.map (fun x => x.val) == some 0) || s.agreeOpen id then s.reposition id pos else s

end

section
variable {model : Fin 256} {pos : Option (Fin 16)} {t : Nat} {s : State} {x : Model} {b : Nat} {p : Plot}

theorem exec_degradedAgreement_none (h : s.modelOf (s.modelId model.val) = none) : exec (.degradedAgreement model pos t) s = .next (s.at' t) := by
  show Host.Outcome.next (match s.modelOf (s.modelId model.val) with | none => s.at' t | some m => _) = _
  rw [h]

theorem exec_degradedAgreement (h : s.modelOf (s.modelId model.val) = some x) : exec (.degradedAgreement model pos t) s =
    .next (if x.knows pos then (s.at' t).takePosition (s.modelId model.val) x pos else s.at' t) := by
  show Host.Outcome.next (match s.modelOf (s.modelId model.val) with
    | none => s.at' t
    | some m => if (!m.knows pos) = true then s.at' t else (s.at' t).takePosition (s.modelId model.val) m pos) = _
  rw [h]
  show Host.Outcome.next (if (!x.knows pos) = true then _ else _) = _
  cases x.knows pos <;> rfl

theorem knows_of_plats (h : ∀ k, pos = some k → SMap.get [] x.plats k.val ≠ []) : x.knows pos = true := by
  cases pos with
  | none => rfl
  | some k =>
    show (!(SMap.get [] x.plats k.val).isEmpty) = true
    rw [Bool.not_eq_true', List.isEmpty_eq_false_iff]
    exact h k rfl

theorem knows_of_empty {k : Fin 16} (h : SMap.get [] x.plats k.val = []) : x.knows (some k) = false := by
  show (!(SMap.get [] x.plats k.val).isEmpty) = false
  rw [h]
  rfl

theorem normal_iff : ((pos.map (fun x => x.val)) == some 0) = true ↔ pos = some 0 := by
  rw [beq_iff_eq, Option.map_eq_some_iff]
  exact ⟨fun ⟨k, hk, h0⟩ => hk.trans (congrArg some (Fin.ext h0)), fun h => ⟨0, h, rfl⟩⟩

variable {id : Nat}

theorem takePosition_unplaced (h : s.plotOfModel id = none) (ho : pos = some 0 ∨ s.agreeOpen id = true) :
    s.takePosition id x pos = s.reposition id pos := by
  unfold State.takePosition
  rw [h]
  exact if_pos ((Bool.or_eq_true ..).mpr (ho.imp normal_iff.mpr (fun h => h)))

theorem takePosition_degrades (h : s.plotOfModel id = some b) (hp : s.plot b = some p) (hn : pos ≠ some 0) (ho : s.agreeOpen id = true) :
    s.takePosition id x pos = (s.agreed id pos).degrade b := by
  unfold State.takePosition
  rw [h]
  dsimp only
  rw [hp]
  exact (if_neg (fun h => hn (normal_iff.mp h))).trans (if_pos ho)

theorem takePosition_normal (h : s.plotOfModel id = some b) (hp : s.plot b = some p) : s.takePosition id x (some 0) =
    if x.position = 0 ∨ !p.idle ∨ s.plotWanted p ∨ x.state ≠ .filled ∨ !s.linksUp id 0 x then s else (s.agreed id (some 0)).degrade b := by
  unfold State.takePosition
  rw [h]
  dsimp only
  rw [hp]
  exact if_pos rfl

/-- Without an agreement a position other than the normal one changes nothing. -/
theorem takePosition_closed (hn : pos ≠ some 0) (ho : s.agreeOpen id = false) : s.takePosition id x pos = s := by
  have hn' : ((pos.map (fun x => x.val)) == some 0) = false := Bool.eq_false_iff.mpr (fun h => hn (normal_iff.mp h))
  unfold State.takePosition
  split
  · split
    · rfl
    · rw [hn', ho]
      rfl
  · rw [hn', ho]
    rfl

theorem modelId_mod (s : State) (model : Fin 256) : s.modelId model.val % 256 = model.val := by
  unfold State.modelId
  rw [Nat.add_mul_mod_self_left, Nat.mod_eq_of_lt model.isLt]

theorem entry_of_modelOf (h : s.modelOf (s.modelId model.val) = some x) : s.entry model.val = x := by
  have he := modelOf_entry h
  rwa [modelId_mod] at he

theorem reposition_entry (s : State) (pos : Option (Fin 16)) : ((s.reposition (s.modelId model.val) pos).entry model.val).position =
    (pos.map (fun x => x.val)).getD (s.entry model.val).position := by
  unfold State.reposition State.updModel State.updEntry
  rw [modelId_mod]
  exact congrArg Model.position (SMap.get_set_same Model.reset s.models model.val _)

theorem reposition_agree (s : State) (id : Nat) (pos : Option (Fin 16)) : ∀ a, a ∈ (s.reposition id pos).fab.agree → a.model ≠ id := by
  intro a ha
  exact bne_iff_ne.mp (List.mem_filter.mp ha).2

end

/-- Settles O40: a channel message by its record, and an agreement by the model's plot, the position and what is open. -/
theorem channelsBindAndModelsDegrade : Obligations.ChannelsBindAndModelsDegrade := by
  unfold Obligations.ChannelsBindAndModelsDegrade
  refine ⟨?fresh, ?again, ?unauthentic, ?binds, ?offered, ?noRecord, ?noPlot, ?repositions, ?degrades, ?returns, ?stays, ?closed, ?unknown,
    ?noModel, ?opened, ?links⟩
  case fresh => exact fun m model channel out reply s h => congrArg Host.Outcome.next (mgmtTake_fresh h)
  case again => exact fun m model channel out reply s h => congrArg Host.Outcome.next (mgmtTake_again h)
  case unauthentic => exact fun m model channel out reply s hb hk => congrArg Host.Outcome.next (mgmtTake_bad hb hk)
  case binds =>
    intro m model channel out s b p r h hb hp hr
    obtain ⟨hblk, hmod, hch, hmem⟩ := mgmtSeenNow_keeps s m
    obtain ⟨h1, h2, h3⟩ := takeBind_chans ((chanRecord_congr hblk hmod).trans (chanRecord_some hb hp hr))
    exact ⟨_, congrArg Host.Outcome.next (mgmtTake_fresh h), h1, fun c hc => h2 c (hch ▸ hc), h3.trans hmem⟩
  case offered => exact fun i channel peer out s b p r h => takeBind_offer h
  case noRecord => exact fun i channel peer out reply s h => takeBind_none reply h
  case noPlot =>
    intro m model channel out reply s h hn
    obtain ⟨hblk, hmod, hch, hmem⟩ := mgmtSeenNow_keeps s m
    refine ⟨_, congrArg Host.Outcome.next (mgmtTake_fresh h), ?_⟩
    rw [takeBind_none reply ((chanRecord_congr hblk hmod).trans (chanRecord_none hn))]
    exact ⟨hch, hmem⟩
  case repositions =>
    intro pos model t s x hx hk hb ho
    have he := reposition_entry (model := model) (s.at' t) pos
    refine ⟨_, (exec_degradedAgreement hx).trans (congrArg Host.Outcome.next
      ((if_pos (knows_of_plats hk)).trans (takePosition_unplaced (s := s.at' t) hb ho))), ?_, reposition_agree _ _ _⟩
    rw [← entry_of_modelOf hx]
    exact he
  case degrades =>
    intro pos model t s x b p hx hk hb hp hn ho
    exact (exec_degradedAgreement hx).trans (congrArg Host.Outcome.next
      ((if_pos (knows_of_plats hk)).trans (takePosition_degrades (s := s.at' t) hb hp hn ho)))
  case returns =>
    rintro pos model t s x b p hx hk hb hp rfl h0 hi hw hf hl
    refine (exec_degradedAgreement hx).trans (congrArg Host.Outcome.next
      ((if_pos (knows_of_plats hk)).trans ((takePosition_normal (s := s.at' t) hb hp).trans (if_neg ?_))))
    rintro (h | h | h | h | h)
    · exact h0 h
    · rw [hi] at h
      exact Bool.false_ne_true h
    · exact Bool.false_ne_true (hw.symm.trans h)
    · exact h hf
    · rw [show (s.at' t).linksUp (s.modelId model.val) 0 x = true from hl] at h
      exact Bool.false_ne_true h
  case stays =>
    intro model t s x b p hx hb hp h
    refine (exec_degradedAgreement hx).trans (congrArg Host.Outcome.next (ite_eq_right_iff.mpr fun _ =>
      (takePosition_normal (s := s.at' t) hb hp).trans (if_pos ?_)))
    refine h.imp_right (Or.imp ?_ (Or.imp_right (Or.imp_right ?_)))
    · intro h
      rw [h]
      rfl
    · intro h
      rw [show (s.at' t).linksUp (s.modelId model.val) 0 x = false from h]
      rfl
  case closed =>
    intro pos model t s hn ho
    cases hx : s.modelOf (s.modelId model.val) with
    | none => exact exec_degradedAgreement_none hx
    | some x =>
      exact (exec_degradedAgreement hx).trans (congrArg Host.Outcome.next (ite_eq_right_iff.mpr fun _ => takePosition_closed (s := s.at' t) hn ho))
  case unknown =>
    intro pos model t s x hx h
    exact (exec_degradedAgreement hx).trans (congrArg Host.Outcome.next (if_neg (by rw [knows_of_empty h]; exact Bool.false_ne_true)))
  case noModel => exact fun pos model t s h => exec_degradedAgreement_none h
  case opened => exact fun s id cause h => startAgree_mem h
  case links => exact fun s id k m => linksUp_iff

end Sys2Proof.Machine
end

end
